-- ==== Sys2Proof/Word.lean ====
section
/-!
DEFINITION. Word.lean: the word types of the Carnath and the type of its sparse stores.
-/

namespace Sys2Proof

/-- One byte (R9). -/
abbrev Byte := BitVec 8

/-- One register word (R11). -/
abbrev Word32 := BitVec 32

/-- A 64-bit word: a scalar register, a bundle slot, a register pair. -/
abbrev Word64 := BitVec 64

/-- A core site C00 to C39 (Table 0.2). -/
abbrev SiteNo := Fin 40

/-- A logical core LC0 to LC31 (Table 0.2). -/
abbrev LCoreNo := Fin 32

/-- A matrix engine E0 to E3 (Table 0.2). -/
abbrev EngNo := Fin 4

/-- A field F0 to F7 (Table 0.2). -/
abbrev FieldNo := Fin 8

/-- A memory site MS0 to MS15 (Table 0.2). -/
abbrev MemNo := Fin 16

/-- A Gaska link G00 to G95 (Table 0.2). -/
abbrev LinkNo := Fin 96

/-- A bell B0000 to B8191 (Table 0.2). -/
abbrev BellNo := Fin 8192

/-- A ring 0 to 255 (R316). -/
abbrev RingNo := Fin 256

/-- A hamlet HM0 to HM7 (Table 0.2). -/
abbrev HamletNo := Fin 8

/-- A power domain 0 to 47: 0 to 39 core domains, 40 to 47 base rails (R359). -/
abbrev DomainNo := Fin 48

/-- A clock region 0 to 47 (R338). -/
abbrev RegionNo := Fin 48

/-- An interrupt source 0 to 1,022 (R387). -/
abbrev SrcNo := Fin 1023

/-- A sparse store: key and value pairs with keys strictly rising. A key that is not listed
holds the store's default value. -/
abbrev Tab (α : Type) := List (Nat × α)

end Sys2Proof
end

