-- ==== Sys2Proof/Syntax.lean ====
section
/-!
DEFINITION. Syntax.lean: the commands of the block, one constructor of Instr per row of
spec/opcode_table.json, with the operand types they carry. A command of a sequencer syllable
carries the bundle it stands in; a command of an event carries what comes from outside the
block: a measurement, a peer's message, host data, a time stamp.
-/

namespace Sys2Proof

/-! ### Accessors, error checks -/

/-- Who accesses the register window: a host port or a steward (R11). -/
inductive Accessor where
  | hp0 | hp1 | stewardA | stewardB
deriving DecidableEq, Repr

/-- What the parity check of a register access found (R475). -/
inductive ParityObs where
  | ok        -- the word's parity holds
  | fail      -- the register's parity failed; its check copy is good
  | failBoth  -- the register and its check copy both failed
  | portFail  -- the word's port parity failed on arrival (WO fields)
deriving DecidableEq, Repr

/-- A register access: who makes it, what the register's parity check found (R475), and the core cycles that
have passed at the site whose register is read since the last one counted (R159). -/
structure Access where
  who : Accessor
  par : ParityObs := .ok
  cycles : BitVec 64 := 0
deriving DecidableEq, Repr

/-- What an ECC check of stored data found (R88, R97, R99, R226). -/
inductive EccObs where
  | clean | corrected | uncorrectable
deriving DecidableEq, Repr

/-! ### Bundles and syllables (05_instruction_set.md) -/

/-- The head syllable, slot 0 (Table 5.1). -/
structure Head where
  timed : Bool
  delta : BitVec 15
  w0En  : Bool
  w0Tok : BitVec 6
  w0Amt : BitVec 16
  w1En  : Bool
  w1Tok : BitVec 6
  w1Amt : BitVec 16
deriving DecidableEq, Repr

/-- The two-operand scalar operations of Table 5.6, opcodes 0x00 to 0x0A. -/
inductive AluOp where
  | add | sub | and | or | xor | shl | shr | sra | mul | min | max
deriving DecidableEq, Repr

/-- Fields of a two-operand scalar syllable (R138): RD, RS1, RS2, IMM, IMM32. -/
structure AluF where
  rd : BitVec 5
  rs1 : BitVec 5
  rs2 : BitVec 5
  imm : Bool
  imm32 : BitVec 32
deriving DecidableEq, Repr

/-- Fields of LDS and STS (R138): the register (RD or RS2), the address register, IMM32. -/
structure MemF where
  reg : BitVec 5
  areg : BitVec 5
  imm32 : BitVec 32
deriving DecidableEq, Repr

/-- Fields of the MATRIX syllable (Table 5.8). -/
structure MatrixF where
  eng : EngNo
  accumulate : Bool      -- FORM: false OUT =, true OUT +=
  bank : Fin 4
  dest : BitVec 3
  rnd : Bool
  nonsat : Bool
  hold : Bool
  fb : Bool
  pair : BitVec 4
  wscl : BitVec 2
  ascl : BitVec 2
  sparse : Bool
  anch : BitVec 2
  anchArg : BitVec 5
  mreg : Bool
  mfield : BitVec 13
  sill : Fin 64
  scalReg : BitVec 5
  tokEn : Bool
  tok : BitVec 6
deriving DecidableEq, Repr

/-- Fields of LATCH (Table 5.10). -/
structure LatchF where
  eng : EngNo
  fromWs : Bool
  areg : BitVec 4
  wfmt : BitVec 3
  wscl : BitVec 2
  sparse : Bool
  tokEn : Bool
  tok : BitVec 6
deriving DecidableEq, Repr

/-- Fields of FEED (Table 5.10). -/
structure FeedF where
  eng : EngNo
  fb : Bool
  areg : BitVec 4
  raw : Bool
  afmt : BitVec 2
  ascl : BitVec 2
  mreg : Bool
  mfield : BitVec 13
  tokEn : Bool
  tok : BitVec 6
deriving DecidableEq, Repr

/-- Fields of BANK_DRAIN (Table 5.10). -/
structure DrainF where
  eng : EngNo
  bank : Fin 4
  dest : BitVec 3
  rnd : Bool
  nonsat : Bool
  rowsM1 : BitVec 9
  sill : Fin 64
  scalReg : BitVec 5
  tokEn : Bool
  tok : BitVec 6
deriving DecidableEq, Repr

/-- Fields of EWISE (Table 5.10). -/
structure EwiseF where
  eng : EngNo
  fb : Bool
  pair : BitVec 4
  add : Bool
  dest : BitVec 3
  rnd : Bool
  nonsat : Bool
  nM1 : BitVec 18
  sill : Fin 64
  tokEn : Bool
  tok : BitVec 6
deriving DecidableEq, Repr

/-- The vector operations of Table 5.11. -/
inductive VecOp where
  | vld | vst | vfma | vadd | vsub | vmul | vmin | vmax | vcmp | vsel | vsfu | vred
  | vbcast | vmovs | vwadd | vwanch | vwcvt | vxpose
deriving DecidableEq, Repr

/-- Fields of a VECTOR syllable (R148). -/
structure VecF where
  vd : BitVec 5
  va : BitVec 5
  vb : BitVec 5
  vc : BitVec 5
  areg : BitVec 4
  mod : BitVec 30
deriving DecidableEq, Repr

/-- Fields of BELL (Table 5.12). -/
structure BellF where
  remote : Bool
  breg : Bool
  sb : BitVec 5
  bell : BitVec 13
  sd : BitVec 5
  amount : BitVec 16
deriving DecidableEq, Repr

/-- One syllable of slots 1 to 7, decoded (Tables 5.2 to 5.12). -/
inductive Syll where
  | nop
  | br (target : BitVec 16)
  | brc (cond : BitVec 3) (rs1 rs2 : BitVec 5) (imm : Bool) (imm16 target : BitVec 16)
  | loop (creg : Bool) (rs : BitVec 5) (count endB : BitVec 16)
  | halt
  | trap (code : BitVec 16)
  | settle
  | sched
  | waitUntil (rs : BitVec 5)
  | forecast (engMask : BitVec 4) (level : BitVec 5) (start : BitVec 10) (duration : BitVec 12)
  | phaseHint (valid : Bool) (op : BitVec 3)
  | alu (op : AluOp) (f : AluF)
  | li (rd : BitVec 5) (imm32 : BitVec 32)
  | lih (rd : BitVec 5) (imm32 : BitVec 32)
  | aadd (f : AluF)
  | amov (rd rs1 : BitVec 5)
  | smova (rd rs1 : BitVec 5)
  | lds (f : MemF)
  | sts (f : MemF)
  | status (rd : BitVec 5) (clear : Bool) (src : BitVec 8)
  | matrix (f : MatrixF)
  | latch (f : LatchF)
  | feed (f : FeedF)
  | bankDrain (f : DrainF)
  | bankFree (eng : EngNo) (bank : Fin 4)
  | ewise (f : EwiseF)
  | vec (op : VecOp) (f : VecF)
  | push (q : Fin 4) (areg : BitVec 4)
  | sfree (entry : Fin 64)
  | signal (tok : BitVec 6) (amount : BitVec 16)
  | bell (f : BellF)
  | tally (areg : BitVec 4)
deriving DecidableEq, Repr

/-- Where a syllable stands: the site whose sequencer dispatches it, the head of its bundle, its
slot (slot + 1 of Table 5.1's numbering) and the bundle's other syllables with their slots; the core cycles
that have passed since the last one counted (R159); and what the ECC of the fetch (R88) and of the working
store words the bundle itself reads (R97, R130) found. -/
structure Disp where
  site : SiteNo
  head : Head
  slot : Fin 7
  rest : List (Fin 7 × Syll)
  cycles : BitVec 64 := 0
  ps : EccObs := .clean
  ws : EccObs := .clean
deriving DecidableEq, Repr

/-! ### Result checking (06_checking.md) -/

/-- A contribution word as a fault in the array left it, in place of the one the operands give (R163). -/
structure BadWord where
  row : BitVec 13
  col : Fin 256
  x : BitVec 128
  special : BitVec 2
  flush : BitVec 16
deriving DecidableEq, Repr

/-- What a pass in an array met until its last placement (R163, R185): the words a fault changed, and whether
the parity of the halves and the plane it reads held. -/
structure PassObs where
  bad : List BadWord
  parityOk : Bool
deriving DecidableEq, Repr

/-- What a fault of a summer or of a checksum element adds to S and P of one line (R163). -/
structure LineErr where
  col : Bool
  line : BitVec 13
  dS : Int
  dP : Int
deriving DecidableEq, Repr

/-- What the checker of a pass met (R163, R169, R181, R186): the faulty lines, whether the special-state copies
agree, the first row on which the converter copies do not, and the contribution buffer's ECC where a vote
reads it, with the offset of the word. -/
structure VerdictObs where
  lines : List LineErr
  specialAgree : Bool
  convBad : Option (BitVec 13)
  bufferEcc : EccObs
  errOff : BitVec 32
deriving DecidableEq, Repr

/-- One check line as the checker holds it (R168, R169): the actual sum S and the prediction P as
residue pairs (mod 2^64, mod 2^61 − 1), and the counts F and G of its tolerance. -/
structure LineObs where
  sLo : BitVec 64
  sRes : BitVec 61
  pLo : BitVec 64
  pRes : BitVec 61
  f : Nat
  g : Nat
deriving DecidableEq, Repr

/-- What the checker of one pass holds when its verdict is ready (R163, R169, R181): its row lines,
its column lines, whether the special-state copies agree, and the first row on which the converter copies
do not. -/
structure CheckObs where
  rows : List LineObs
  cols : List LineObs
  specialAgree : Bool
  convBad : Option (BitVec 13)
deriving DecidableEq, Repr

/-- One mismatching EWISE element with the two logged values (R181). -/
structure EwiseMiss where
  index : BitVec 18
  v1 : BitVec 32
  v2 : BitVec 32
deriving DecidableEq, Repr

/-- What an EWISE met (R181, R185): its mismatching elements, and whether the half's parity held. -/
structure EwiseObs where
  misses : List EwiseMiss
  parityOk : Bool
deriving DecidableEq, Repr

/-- A read of the replay weight buffer (R186): its ECC, and the offset of the word it names. -/
structure BufObs where
  ecc : EccObs
  off : BitVec 32
deriving DecidableEq, Repr

/-- What the localisation test of a retired engine found (R183): the faulty PEs by data row and data
column, and whether something no spare can cover failed. -/
structure LocalObs where
  pes : List (Fin 256 × Fin 256)
  beyond : Bool
deriving DecidableEq, Repr

/-! ### Copies (04_core.md) -/

/-- What a copy met until it is told complete (R97, R99, R186): the data of a host source, and the ECC of its
reads of the core's own stores with the offset of the word. -/
structure CopyObs where
  data : List Byte
  ecc : EccObs
  off : BitVec 30
deriving DecidableEq, Repr

/-- The packet of a copy that failed its parity check for the third time (R184): the byte of the copy it begins
at, its bytes, the words that failed, and the data of a host source. -/
structure BadPacket where
  at_ : Nat
  span : Nat
  bad : List Nat
  data : List Byte
deriving DecidableEq, Repr

/-- What is known of a copy's progress when its limit ends (R114, R314): a host access unanswered for 10 ms, and
the time at which it last completed 64 KiB more, where no acknowledged request of the fabric shows it. -/
structure StallObs where
  hostUnanswered : Bool
  moved : Option Word64
deriving DecidableEq, Repr

/-! ### The fabric (07_fabric.md) -/

/-- A fabric packet: the header of Table 7.2 and its payload bytes. -/
structure Packet where
  opc : BitVec 5
  dstRtr : Fin 64
  dstEp : Bool
  srcRtr : Fin 64
  srcEp : Bool
  owned : Bool
  hamlet : HamletNo
  len : BitVec 4
  txn : BitVec 10
  status : BitVec 4
  fmt : Bool
  contrib : BitVec 6
  group : BitVec 16
  hchk : BitVec 8
  lastUnits : BitVec 3
  addr : BitVec 35
  data : List Byte
  truncated : Bool
deriving DecidableEq, Repr

/-- A group of 64 wires of a mesh link (R207): the router that receives over it, its input 0 N, 1 E, 2 S, 3 W, the
plane and the group. -/
structure Lane where
  rtr : Fin 64
  inp : Fin 4
  plane : Bool
  group : BitVec 7
deriving DecidableEq, Repr

/-- What the check at a router input found of a packet (R206, R207): the flits it asked for again, the flit that
failed three times, and the group of the lane that caused it, where one is known. -/
structure HopObs where
  asked : Nat := 0
  dead : Option (Fin 16) := none
  group : Option (BitVec 7) := none
deriving DecidableEq, Repr

/-- Where a request's destination lies, as its endpoint knows it (R198). -/
inductive Endpoint where
  | core (site : SiteNo)          -- a working-store offset of this site
  | memory (field : FieldNo)      -- a page-map address
  | services (field : FieldNo)
  | link (l : LinkNo)
deriving DecidableEq, Repr

/-- What is found of a WRITE at its endpoint: the words that failed their parity (R184), and at a memory controller
the bursts, by their offset, with how often each failed its CRC (R225). -/
structure WriteObs where
  bad : List Nat := []
  crc : List (BitVec 16 × Nat) := []
deriving DecidableEq, Repr

/-- What is found of a read at its source: what ECC found at an offset (R97, R226), and at a memory controller the
bursts, by their offset, with how often each failed its CRC (R225). -/
structure ReadObs where
  ecc : EccObs := .clean
  off : BitVec 16 := 0
  crc : List (BitVec 16 × Nat) := []
deriving DecidableEq, Repr

/-- What is found of the source of a LOAD_WEIGHTS: why its data could not be brought (Table 7.5, 0 for none), and
what ECC found in GDDR7 at an address (R226). -/
structure SourceObs where
  status : BitVec 4 := 0
  ecc : EccObs := .clean
  at_ : BitVec 41 := 0
deriving DecidableEq, Repr

/-! ### Memory (08_memory.md) -/

/-- One request at a memory controller, with what its bursts and its ECC reported (R225, R226). -/
structure MemReq where
  write : Bool
  addr : BitVec 41
  data : List Byte
  bad : List Nat := []   -- words of data that failed their parity (R184, R226)
  owned : Bool
  hamlet : HamletNo
  ofProgram : Bool       -- a copy of a program (R236, R240), not the mirror, tally or refill path
  crcFails : Nat
  ecc : EccObs
  dstRtr : Fin 64        -- where the answer goes
  txn : BitVec 10
deriving DecidableEq, Repr

/-- Why a channel became due for retraining (R243). -/
inductive RetrainCause where
  | age | temperature | repeats | failedBurst
deriving DecidableEq, Repr

/-- How one retrain step ended (R244, R245). -/
inductive RetrainObs where
  | more | centred | notCentred
deriving DecidableEq, Repr

/-- A remote page request as it reaches this device over a link (R246), with what its bursts and its ECC report. -/
structure RemoteReq where
  link : LinkNo
  write : Bool
  addr : Word64
  len : Nat
  data : List Byte
  srcDev : BitVec 12
  rtxn : BitVec 16
  obs : ReadObs := {}
deriving DecidableEq, Repr

/-! ### Links (09_gaska_links.md) -/

/-- What training of a link ended with (R259, R264, R269). -/
structure TrainObs where
  partner : Bool
  lanes : BitVec 4                -- lanes locked
  failed : List (Fin 4 × Bool)    -- lanes that failed training: lane, receive direction
  best : List (Fin 4)             -- the lanes, best first
  cableNs : BitVec 10
  tooLong : Bool
deriving DecidableEq, Repr

/-- What IDENT brought from the peer (R270, R274): its highest minor of major 1 (none when it has no
major 1), its highest major, its device number and link number, and its MASTER setting. -/
structure IdentObs where
  minor : Option (BitVec 4)
  major : BitVec 4
  dev : BitVec 12
  link : LinkNo
  master : Bool
deriving DecidableEq, Repr

/-- What keying brought from the peer (R437, R438). -/
structure KeyObs where
  authOk : Bool
  peerOwned : Bool
  peerLabel : BitVec 128
  peerDigest : BitVec 256
deriving DecidableEq, Repr

/-- A link packet (Table 9.5). -/
structure LinkPkt where
  opc : BitVec 8
  vc : BitVec 3
  status : BitVec 4
  len : BitVec 16
  srcDev : BitVec 12
  dstDev : BitVec 12
  dstKind : BitVec 2
  lcore : LCoreNo
  rtxn : BitVec 16
  addr : Word64
  group : BitVec 16
  contrib : BitVec 6
  fmt : Bool
  data : List Byte
deriving DecidableEq, Repr

/-- A port goes DOWN (R313): which, and how many of the writes last sent on it the adapter had not acknowledged. -/
structure PortLoss where
  port : Bool
  unacked : Nat
deriving DecidableEq, Repr

/-- How a retrain of a link ended: whether it succeeded, and the lanes, best first (R259, R268). -/
structure LaneObs where
  ok : Bool
  best : List (Fin 4)
deriving DecidableEq, Repr

/-- A block header (Table 9.2). -/
structure BlockHead where
  seq : BitVec 10
  ack : BitVec 10
  cvc : BitVec 3
  credits : BitVec 9
  hcrc : BitVec 8
deriving DecidableEq, Repr

/-- A received epoch (Tables 9.2, 9.3): its eight block headers, whether the FEC decoded every block, its control
unit, and the link packets its units carry. -/
structure Epoch where
  heads : List BlockHead
  fecOk : Bool
  fecCorrected : Nat
  tag : BitVec 128
  epoch : Word64
  tstamp : Word64
  arrival : Word64       -- this device's time base at the first symbol
  keyPhase : Bool
  rekeyReady : Bool
  retrainReq : Bool
  pkts : List LinkPkt
deriving DecidableEq, Repr

/-! ### Bells and collectives (10_bells_collectives.md) -/

/-- Where a bell operation comes from (R288): an SVC packet of an endpoint, under its TXN and hamlet tag; a ring;
or the device's own units outside every hamlet. An operation that came over a link stands in a packet of the link's
bundle, tagged as the link is owned. -/
inductive BellSrc where
  | packet (src : Fin 64 × Bool) (txn : BitVec 10) (owned : Bool) (hamlet : HamletNo)
  | ring (r : RingNo)
  | device
deriving DecidableEq, Repr

/-- A bell's 32 B entry image as eight words (Table 10.1). -/
structure BellImg where
  count : Word32
  target : Word32
  w2 : Word32
  cores : Word32
  source : Word32
  fwd : Word32
  fired : Word32
  align : Word32
deriving DecidableEq, Repr

/-- One contribution to a combine group or a link-port reducer slot: WPS integers with their tags, or
FP32 words (R54, R209, R298). -/
inductive RedData where
  | wps (words : List (BitVec 128)) (tags : List (BitVec 64))
  | fp32 (words : List (BitVec 32))
deriving DecidableEq, Repr

/-- A RED_CONTRIB packet at its combine root (R209 to R213). -/
structure RedContrib where
  root : Fin 64
  group : BitVec 16
  owned : Bool
  hamlet : HamletNo
  dst : Endpoint
  addr : Word64
  contributor : BitVec 6
  srcRtr : Fin 64
  srcEp : Bool
  txn : BitVec 10
  data : RedData
  truncated : Bool := false   -- it arrives truncated (R206)
  bad : Bool := false         -- a word failed the check at the root (R184)
deriving DecidableEq, Repr

/-- Who contributes to a link-port reducer slot (R298). -/
inductive RedFrom where
  | local_ | child (l : LinkNo) | uplink
deriving DecidableEq, Repr

/-- A budget message (Table 10.3). -/
structure BudgetMsg where
  window : Word32
  watts : Word32
  slack : Word32
  dev : BitVec 12
deriving DecidableEq, Repr

/-- A recovery message (Table 15.4). -/
structure RecMsg where
  job : Word32
  tag : Option HamletNo                 -- the job's hamlet tag (R413)
  attempt : BitVec 8
  tallyOk : Bool
  noSpare : Bool
  instant : Word64
  tally : Word32
  cause : BitVec 16
  source : BitVec 12
  fromParent : Bool
deriving DecidableEq, Repr

/-! ### Power, clocks, start (12, 13, 17) -/

/-- The result of a crossing calibration (R347): the latency found in each direction, none when it
failed or was not found in time; and the faulty lanes that a lintel's training pattern found (R207): reverse
direction, plane, group. -/
structure CalObs where
  fwd : Option (BitVec 4)
  rev : Option (BitVec 4)
  lanes : List (Bool × Bool × BitVec 7) := []
deriving DecidableEq, Repr

/-- How the refill of a spare ended: the calibration of its crossings, and what ECC found in the mirror at a byte of
it (R226, R239). -/
structure SpareObs extends CalObs where
  ecc : EccObs := .clean
  off : BitVec 30 := 0
deriving DecidableEq, Repr

/-- What lost lock while the reference was away: links and memory channels (R491). A host port that did has the row
PORT_LOCK_LOSS. -/
structure LockObs where
  links : List LinkNo
  chans : List (MemNo × Fin 4) := []
deriving DecidableEq, Repr

/-- The end of a hamlet's zeroisation: the sites whose read-back found a nonzero word (R443, Table 16.3). -/
structure ZeroObs where
  h : HamletNo
  bad : List SiteNo := []
deriving DecidableEq, Repr

/-- What a margin window of a region showed (R343). -/
inductive MarginObs where
  | good | low | critical
deriving DecidableEq, Repr

/-- What the known-answer runs and the start-up tests of step 5 to 9 showed (R455 to R460). -/
structure StartObs where
  journalTorn : List Word32             -- flash offsets of torn records (R464)
  journalMfg : Bool                     -- a sealed MFG record was found
  fwImage : Bool                        -- the flash holds an image
  fwSigOk : Bool
  fwDigestOk : Bool
  fwSvn : BitVec 7
  fwCommitSvn : Bool
  fwBuild : BitVec 16
  fwDigest : BitVec 256
  kat : Tab (Bool × List (EngNo × LocalObs))  -- per site: vector unit good; engines with faults (R455)
  calFail : List SiteNo                 -- sites whose crossing failed calibration
  ibcBad : BitVec 8
  railBad : BitVec 8
  channelRate : Tab (BitVec 3)          -- rate code of channel 4 × site + ch; unlisted: 6 (40 Gbit/s)
  badFrames : List Nat                  -- page numbers whose frame failed the memory test
  sensors : Tab Int                     -- first readings of sensors 1 to 9
  parentTb : Option Word64              -- time base of the parent, when its link is UP (R355)
  portBad : BitVec 16 := 0              -- router endpoint ports that failed loop-back, field × 2 + (0 memory, 1 links)
  lanes : List Lane := []               -- faulty lanes that the lintels' training patterns found (R207)
deriving DecidableEq, Repr

/-- How the reeve's verification of an image ended (R428). -/
structure FwObs where
  present : Bool
  sigOk : Bool
  digestOk : Bool
  svn : BitVec 7
  commitSvn : Bool
  build : BitVec 16
  digest : BitVec 256
deriving DecidableEq, Repr

/-- A fault report (R404): its class (Table 6.5 and the class tables of the chapters), the site it
names, DETAIL and ADDR. -/
structure Report where
  cls : BitVec 16
  site : Option SiteNo
  detail : Word32
  addr : Word64
deriving DecidableEq, Repr

/-- A journal record's payload by type (Table 17.4). -/
inductive JRec where
  | mfg (serial : Word64)
  | fieldMap (unit : BitVec 4) (index : BitVec 20) (cause : BitVec 16) (powered : Word32)
  | remap (site : SiteNo) (eng : EngNo) (row col : Word32)
  | fault (id : Nat)
  | reserve (leaf : Word64)
  | config (key : BitVec 16) (value : Word64)
  | opcal (d : DomainNo) (z0 : BitVec 16)
  | training (ms : MemNo) (rates : BitVec 12)
  | powered (seconds : Word32)
  | verdict (site : SiteNo) (eng : EngNo) (engineAtFault : Bool) (powered : Word32)
  | coreMap (sites : List (Option SiteNo))
  | fulltest (powered : Word32)
  | switch (generation : Word32)
deriving DecidableEq, Repr

/-- Which processor claims or completes at the interrupt controller (R394); the host port has no
effect there. -/
inductive IcAgent where
  | reeve | stewardA | stewardB | hostPort
deriving DecidableEq, Repr

/-- Why an IBC was lost (R377). -/
inductive IbcCause where
  | undervoltage | fault
deriving DecidableEq, Repr

/-- Why a core domain failed on over-current or why a phase was switched off (R373, R376). -/
inductive PhaseCause where
  | controller | share
deriving DecidableEq, Repr

/-- The commands and events of the block: one constructor per row of spec/opcode_table.json. -/
inductive Instr where
  -- registers (00_scope.md, 18_registers.md)
  | regPairReadLo (acc : Access) (off : BitVec 28)
  | regPairReadHi (acc : Access) (off : BitVec 28)
  | regPairWriteLo (acc : Access) (off : BitVec 28) (v : Word32)
  | regPairWriteHi (acc : Access) (off : BitVec 28) (v : Word32)
  | registerWrite (acc : Accessor) (off : BitVec 28) (v : Word32) (par : ParityObs)
  -- syllables and the sequencer (05_instruction_set.md)
  | nop (d : Disp)
  | preciseException (site : SiteNo)
  | br (d : Disp) (target : BitVec 16)
  | brc (d : Disp) (cond : BitVec 3) (rs1 rs2 : BitVec 5) (imm : Bool) (imm16 target : BitVec 16)
  | loop (d : Disp) (creg : Bool) (rs : BitVec 5) (count endB : BitVec 16)
  | halt (d : Disp)
  | trap (d : Disp) (code : BitVec 16)
  | settle (d : Disp)
  | sched (d : Disp)
  | waitUntil (d : Disp) (rs : BitVec 5)
  | forecast (d : Disp) (engMask : BitVec 4) (level : BitVec 5) (start : BitVec 10) (duration : BitVec 12)
  | phaseHint (d : Disp) (valid : Bool) (op : BitVec 3)
  | add (d : Disp) (f : AluF)
  | sub (d : Disp) (f : AluF)
  | and (d : Disp) (f : AluF)
  | or (d : Disp) (f : AluF)
  | xor (d : Disp) (f : AluF)
  | shl (d : Disp) (f : AluF)
  | shr (d : Disp) (f : AluF)
  | sra (d : Disp) (f : AluF)
  | mul (d : Disp) (f : AluF)
  | min (d : Disp) (f : AluF)
  | max (d : Disp) (f : AluF)
  | li (d : Disp) (rd : BitVec 5) (imm32 : BitVec 32)
  | lih (d : Disp) (rd : BitVec 5) (imm32 : BitVec 32)
  | aadd (d : Disp) (f : AluF)
  | amov (d : Disp) (rd rs1 : BitVec 5)
  | smova (d : Disp) (rd rs1 : BitVec 5)
  | lds (d : Disp) (f : MemF)
  | sts (d : Disp) (f : MemF)
  | status (d : Disp) (rd : BitVec 5) (clear : Bool) (src : BitVec 8)
  | pendingWriteArrives (site : SiteNo) (rd : BitVec 5)
  -- the matrix engines and result checking (03, 06)
  | matrix (d : Disp) (f : MatrixF)
  | matrixIssue (site : SiteNo) (eng : EngNo)
  | matrixLastPlacement (site : SiteNo) (eng : EngNo) (obs : PassObs)
  | verdict (site : SiteNo) (eng : EngNo) (obs : VerdictObs)
  | replayStart (site : SiteNo)
  | votePassIssue (site : SiteNo)
  | voteDecide (site : SiteNo) (obs : VerdictObs) (ewise : List EwiseMiss)
  | applyPassVerdict (site : SiteNo) (obs : VerdictObs)
  | planeRestoreDone (site : SiteNo) (ecc : BufObs)
  | localisationTestEnd (site : SiteNo) (eng : EngNo) (obs : LocalObs)
  | redirectMove (site : SiteNo) (eng : EngNo)
  | capTakesEffect (site : SiteNo)
  | latch (d : Disp) (f : LatchF)
  | latchStart (site : SiteNo) (eng : EngNo)
  | latchDone (site : SiteNo) (eng : EngNo) (ecc : EccObs) (errOff : BitVec 30)
  | feed (d : Disp) (f : FeedF)
  | feedStart (site : SiteNo) (eng : EngNo)
  | feedDone (site : SiteNo) (eng : EngNo) (ecc : EccObs) (errOff : BitVec 28)
  | bankDrain (d : Disp) (f : DrainF)
  | bankDrainIssue (site : SiteNo) (eng : EngNo)
  | bankDrainDone (site : SiteNo) (eng : EngNo) (residueOk : Bool) (badRow : BitVec 9)
  | bankFree (d : Disp) (eng : EngNo) (bank : Fin 4)
  | bankFreeIssue (site : SiteNo) (eng : EngNo)
  | ewise (d : Disp) (f : EwiseF)
  | ewiseIssue (site : SiteNo) (eng : EngNo)
  -- vector syllables
  | vld (d : Disp) (f : VecF)
  | vst (d : Disp) (f : VecF)
  | vfma (d : Disp) (f : VecF)
  | vadd (d : Disp) (f : VecF)
  | vsub (d : Disp) (f : VecF)
  | vmul (d : Disp) (f : VecF)
  | vmin (d : Disp) (f : VecF)
  | vmax (d : Disp) (f : VecF)
  | vcmp (d : Disp) (f : VecF)
  | vsel (d : Disp) (f : VecF)
  | vsfu (d : Disp) (f : VecF)
  | vred (d : Disp) (f : VecF)
  | vbcast (d : Disp) (f : VecF)
  | vmovs (d : Disp) (f : VecF)
  | vwadd (d : Disp) (f : VecF)
  | vwanch (d : Disp) (f : VecF)
  | vwcvt (d : Disp) (f : VecF)
  | vxpose (d : Disp) (f : VecF)
  | vectorIssue (site : SiteNo) (residueFails : Fin 3) (ecc : EccObs) (errOff : BitVec 28)
  -- copy and synchronisation syllables
  | push (d : Disp) (q : Fin 4) (areg : BitVec 4)
  | sfree (d : Disp) (entry : Fin 64)
  | signal (d : Disp) (tok : BitVec 6) (amount : BitVec 16)
  | bell (d : Disp) (f : BellF)
  | tally (d : Disp) (areg : BitVec 4)
  | programEnd (site : SiteNo)
  | progressTimeout (site : SiteNo) (t : Word64)
  -- copy engines, stores and core power (04_core.md)
  | copyStart (site : SiteNo) (q : Fin 4) (t : Word64)
  | copyComplete (site : SiteNo) (q : Fin 4) (obs : CopyObs)
  | copyFail (site : SiteNo) (q : Fin 4) (code : BitVec 4) (parity : Option BadPacket)
  | copyTimeout (site : SiteNo) (q : Fin 4) (t : Word64) (obs : StallObs)
  | psScrub (site : SiteNo) (ecc : EccObs)
  | wsScrub (site : SiteNo) (off : BitVec 28) (ecc : EccObs)
  | granaryRefresh (site : SiteNo) (off : BitVec 30) (ecc : EccObs)
  | granaryRefillDone (site : SiteNo) (off : BitVec 30) (mirror : EccObs)
  | napEnter (site : SiteNo)
  | napWake (site : SiteNo)
  | retainEnter (site : SiteNo)
  | retainWake (site : SiteNo) (cal : CalObs)
  | coreOff (site : SiteNo)
  | corePowerOn (site : SiteNo) (t : Word64)
  -- the fabric (07_fabric.md)
  | packetForward (rtr : Fin 64) (inp : Fin 5) (plane : Bool) (hop : HopObs)
  | write (p : Packet) (ep : Endpoint) (obs : WriteObs)
  | writeAck (p : Packet)
  | readReq (p : Packet) (ep : Endpoint) (obs : ReadObs)
  | readData (p : Packet) (bad : List Nat)
  | redContrib (c : RedContrib) (t : Word64)
  | redAck (p : Packet)
  | redRetryResend (rtr : Fin 64) (txn : BitVec 10) (t : Word64)
  | combineSlotExpiry (root : Fin 64) (t : Word64)
  | deliveryTimeout (rtr : Fin 64) (txn : BitVec 10) (t : Word64)
  | fabricPause (t : Word64)
  | pauseDrained (faultyLanes : List Lane)
  | pauseTimeout (t : Word64)
  -- GDDR7 memory (08_memory.md)
  | memRequest (field : FieldNo) (r : MemReq)
  | memScrub (ms : MemNo) (addr : BitVec 41) (ecc : EccObs) (written : Bool) (granaryGood : Bool)
  | memTempRead (ms : MemNo) (temp : Byte)
  | channelRetrainDue (ms : MemNo) (ch : Fin 4) (cause : RetrainCause) (t : Word64)
  | retrainStepStart (ms : MemNo) (ch : Fin 4) (t : Word64)
  | retrainStepEnd (ms : MemNo) (ch : Fin 4) (obs : RetrainObs)
  | remotePageRequest (r : RemoteReq)
  -- Gaska links (09_gaska_links.md)
  | linkTrainStart (l : LinkNo) (t : Word64)
  | linkTrained (l : LinkNo) (obs : TrainObs)
  | identMessage (l : LinkNo) (obs : IdentObs)
  | linkKeyed (l : LinkNo) (obs : KeyObs)
  | rekey (l : LinkNo) (obs : KeyObs)
  | epochReceive (l : LinkNo) (e : Epoch)
  | replayTimeout (l : LinkNo) (t : Word64)
  | linkRetrain (l : LinkNo) (receiverRequest : Bool) (t : Word64)
  | linkRetrainDone (l : LinkNo) (obs : LaneObs) (t : Word64)
  | linkDown (l : LinkNo)
  | linkFlowsReturn (l : LinkNo)
  | laneSerWindow (l : LinkNo) (lane : Fin 4) (rx : Bool) (bad : Bool)
  -- bells, collectives and tallies (10_bells_collectives.md)
  | bellAdd (b : BellNo) (src : BellSrc) (amount : Word32) (instant : Word64)
  | bellSet (b : BellNo) (src : BellSrc) (img : BellImg)
  | bellArm (b : BellNo) (src : BellSrc)
  | bellDisarm (b : BellNo) (src : BellSrc)
  | bellRead (b : BellNo) (src : BellSrc)
  | bellRefire (b : BellNo)
  | bellAlignedAction (b : BellNo) (t : Word64)
  | bellData (dst : Fin 64 × Bool) (txn : BitVec 10) (b : BitVec 13) (status : BitVec 4) (img : Option BellImg)
  | tokenDelivery (site : SiteNo) (lc : LCoreNo) (tok : BitVec 6) (owned : Bool) (hamlet : HamletNo) (byIc : Bool)
  | reducerContrib (tc : Fin 64) (addr : Word64) (src : RedFrom) (data : RedData) (t : Word64)
  | reducerAccepted (tc : Fin 64) (addr : Word64)
  | reducerSlotExpiry (tc : Fin 64) (addr : Word64) (t : Word64)
  | tallyEnterRelease (job : Word32)
  | tallyRegionsCopied (site : SiteNo)
  | tallyCommitRelease (job : Word32)
  | resetAt (viaLink : Option LinkNo) (t0 : Word64) (root : BitVec 12)
  | resetAtInstant (t : Word64)
  | budgetWindowEnd (window : Word32) (slack : Word32)
  | report (m : BudgetMsg)
  | take (m : BudgetMsg)
  | takeAck (m : BudgetMsg)
  | give (m : BudgetMsg)
  | giveAck (m : BudgetMsg)
  | leaderTimeout (window : Word32)
  -- rings and descriptors (11_host_interface.md)
  | sqTail (r : RingNo) (v : Word32)
  | cqHead (r : RingNo) (v : Word32)
  | ringEnable (r : RingNo) (cfg : Word32)
  | ringDisable (r : RingNo)
  | ringInactive (r : RingNo)
  | descriptorFetch (r : RingNo) (words : List Word32) (hostOk : Bool) (t : Word64)
  | descriptorComplete (id : Nat) (t : Word64)
  | loadWeights (id : Nat) (hostData : List Byte) (source : SourceObs)
  | launch (id : Nat) (image : List Word64)
  | copy (id : Nat) (hostData : List Byte) (segmentFail : Option (Nat × BitVec 8))
  | tallyInfo (id : Nat)
  | tallyExport (id : Nat)
  | tallyImport (id : Nat) (image : List Byte)
  | fence (id : Nat)
  | bellOpAdd (id : Nat)
  | bellOpSet (id : Nat)
  | bellOpArm (id : Nat)
  | bellOpDisarm (id : Nat)
  | bellOpRead (id : Nat)
  | treeInstall (id : Nat)
  | treeRemove (id : Nat)
  | msetWrite (id : Nat) (words : List Word32)
  | systemReset (id : Nat)
  | queryDevice (id : Nat)
  | queryCoreMap (id : Nat)
  | queryHamlet (id : Nat)
  | queryLinks (id : Nat)
  | queryFaultRecords (id : Nat)
  | roleSet (id : Nat)
  | pageSet (id : Nat)
  | hamletCreate (id : Nat)
  | hamletCreateCommit (h : HamletNo) (badSites : List SiteNo)
  | hamletDestroy (id : Nat)
  | hamletReset (id : Nat)
  | abort (id : Nat)
  | deadlineExpiry (id : Nat) (t : Word64) (workDone : Bool)
  | hostAccessTimeout (r : RingNo) (site : Option (SiteNo × Fin 4)) (t : Word64)
  | hstHeartbeat (acc : Accessor) (t : Word64)
  | heartbeatTimeout (t : Word64)
  | portLockLoss (p : Bool) (t : Word64)
  | portDown (p : PortLoss) (t : Word64)
  | portUp (p : Bool) (unacked : List RingNo)
  | portsDownTimeout (t : Word64)
  | resetArm (t : Word64)
  | resetGo (t : Word64)
  | resetArmExpiry (t : Word64)
  | warmReset (o : StartObs)
  | modrstN (t : Word64)
  -- clocking (12_clocking.md)
  | droopTrip (site : SiteNo) (detector : BitVec 6)
  | droopPhasesRelease (site : SiteNo) (t : Word64)
  | marginWindowEnd (r : RegionNo) (obs : MarginObs) (path : BitVec 4)
  | freqChangeStart (r : RegionNo) (mhz : BitVec 11) (t : Word64)
  | clockStop (r : RegionNo)
  | oscLocked (r : RegionNo) (cals : List (Fin 120 × CalObs))
  | freqChangeRestart (r : RegionNo)
  | calTimeout (x : Fin 120)
  | oscFail (r : RegionNo) (lock : Bool)
  | tbUpdate (tstamp arrival : Word64) (parentMaster : Bool) (t : Word64)
  | tbUnlock (t : Word64)
  -- power (13_power.md)
  | opWindowEvaluate (site : SiteNo) (hot105 : Bool) (below100 : Bool) (meanCap : BitVec 5)
  | capWindowEnd (inputW : BitVec 16) (ibcW : Tab Nat) (temps : Tab Nat)
  | forecastActivate (site : SiteNo) (idx : Fin 4) (t : Word64)
  | hwForecast (site : SiteNo) (eng : EngNo) (t : Word64)
  | admissionCheck (d : DomainNo) (ibcOk : Bool) (forecastNear : Bool) (t : Word64)
  | admissionTimeout (d : DomainNo) (t : Word64)
  | rampEnd (d : DomainNo)
  | phaseFail (d : DomainNo) (phase : Fin 12) (cause : PhaseCause)
  | coreOverCurrent (site : SiteNo)
  | baseRailTrip (field : FieldNo)
  | ibcLoss (f : FieldNo) (cause : IbcCause)
  | inputLow (tenMv : BitVec 16)
  | inputRestored
  | telemetryWindowEnd (d : DomainNo) (k : Word64) (mean : Nat)
  | pwrTelRead (acc : Accessor) (d : DomainNo) (sample : Option (BitVec 16 × Word64))
  | telModeWrite (acc : Accessor) (d : DomainNo) (v : Word32)
  | impedanceWindowEnd (d : DomainNo) (qualified : Bool) (meanZ : Nat)
  | groupStart (acc : Accessor)
  | groupEnd (acc : Accessor)
  -- the interrupt controller (14_interrupts.md)
  | lineFilterChange (n : SrcNo) (level : Bool) (t : Word64)
  | raise (n : BitVec 10) (byBell : Option BellNo) (t : Word64)
  | srcRaiseWrite (acc : Accessor) (n : SrcNo) (t : Word64)
  | srcPendingClear (acc : Accessor) (n : SrcNo)
  | srcModeWrite (acc : Accessor) (n : SrcNo) (mode : BitVec 3)
  | icClaim (who : IcAgent) (t : Word64)
  | icComplete (who : IcAgent) (n : BitVec 10)
  | interruptDelivery (n : SrcNo) (t : Word64)
  | holdoffEnd (g : BitVec 6) (t : Word64)
  | icHoldRelease (acc : Accessor)
  -- faults and recovery (15_faults_recovery.md)
  | faultReport (r : Report) (t : Word64)
  | recoveryStop (m : RecMsg) (t : Word64)
  | recoveryStopped (m : RecMsg) (t : Word64)
  | recoveryRestore (m : RecMsg) (t : Word64)
  | localRestoreDone (job : Word32) (t : Word64)
  | recoveryReady (m : RecMsg) (t : Word64)
  | recoveryGo (m : RecMsg) (t : Word64)
  | resumeAtInstant (job : Word32) (t : Word64)
  | recoveryFail (m : RecMsg) (t : Word64)
  | recoveryPhaseTimeout (job : Word32) (t : Word64)
  | coreReplace (lc : LCoreNo) (t : Word64)
  | spareRefillDone (site : SiteNo) (cal : SpareObs)
  | stewardPoll (aAnswers bAnswers : Bool) (t : Word64)
  | reeveWatchdog (t : Word64)
  -- security (16_security.md)
  | attest (scope : Byte) (nonce : BitVec 256) (key : Option (BitVec 256))
  | certRead
  | challenge
  | debugUnlock (platform : BitVec 128) (chal : BitVec 256) (level : BitVec 2) (expiry : Word32) (sigOk : Bool)
  | debugExpiry
  | hamletBind (h : HamletNo) (binding : BitVec 256)
  | fwUpdate (addr : BitVec 41) (len : Nat) (obs : FwObs)
  | fwWriteDone
  | recoveryBegin (port : Bool) (t : Word64)
  | recoveryWrite (port : Bool) (off : BitVec 26) (chunk : List Byte) (t : Word64)
  | recoveryEnd (port : Bool) (obs : FwObs) (t : Word64)
  | recoverySessionTimeout (t : Word64)
  | drbgReseed (healthOk : Bool) (failedTest : BitVec 4)
  -- start, power, pins, journal, management (17, 19)
  | coldPowerOn (inputTenMv : BitVec 16) (o : StartObs)
  | pwrfailFall (t : Word64)
  | pwrfailRise
  | brownOut
  | overVoltage
  | alwaysOnDrop
  | thermtrip
  | referenceLost
  | referenceLostLong
  | journalAppend (r : JRec)
  | poweredRecordTimer
  | compactionStart
  | compactionSwitch
  | setEndpointId (eid : Byte)
  | getEndpointId
  | getMctpVersionSupport (msgType : Byte)
  | getMessageTypeSupport
  | getVendorDefinedMessageSupport (selector : Byte)
  | pldmSensorRead (sensor : Byte)
  | powerLimit (watts : Word32)
  | pldmWarmReset (v : Byte)
  | getBootStatus
  | setBootMode (mode : Bool)
  | mgmtRecoveryBegin (t : Word64)
  | mgmtRecoveryWrite (off : BitVec 26) (chunk : List Byte) (t : Word64)
  | mgmtRecoveryEnd (obs : FwObs) (t : Word64)
  | mctpAssemblyTimeout (first t : Word64)
  | mctpResponseTimeout (t : Word64)
  | idDevnumWrite (acc : Accessor) (v : Word32)
  -- rows that stand last in the table
  | ewiseLastResult (site : SiteNo) (eng : EngNo) (obs : EwiseObs)
  | forecastEnd (site : SiteNo) (idx : Fin 4) (t : Word64)
  | droopDetectorClear (site : SiteNo) (detector : BitVec 6) (t : Word64)
  | selfSlowing (r : RegionNo) (ratioPermille : Nat)
  | referenceReturn (obs : LockObs)
  | modrstNRise
  | hamletZeroisationDone (obs : ZeroObs)
  | verdictWindowExpiry (site : SiteNo) (eng : EngNo) (t : Word64)
  | faultRecordWindowEnd (cls : BitVec 16) (t : Word64)
  | sensorUpdate (sensor : Byte) (reading : Int)
deriving DecidableEq, Repr

end Sys2Proof
end

