-- ==== Sys2Proof/Decode.lean ====
section
/-!
DEFINITION. Decode.lean: commands spelled by a word of the opcode table. No row of this block's table
gives any bits (every row's list of fields is empty), so no word spells a command. The decoding of a
syllable word by the sequencer is in Machine/Isa.lean.
-/

namespace Sys2Proof

/-- The command a word of the table's bits spells: none, since no row gives bits. DESIGN CHOICE, log entry 12. -/
def decodeTableWord (_nbits _w : Nat) : Option Instr := none

end Sys2Proof
end

