-- ==== Sys2Proof/Machine/State.lean ====
section
/-!
DEFINITION. Machine/State.lean: everything the spec gives the Carnath to hold, as plain data, and the
state at reset. Each field's comment names its width, the rule that names it and its reset value.
A Tab is a sparse store; the comment gives what an unlisted key holds.
-/

namespace Sys2Proof.Machine

/-! ### Matrix engines (02, 03, 06) -/

/-- An accumulator word (R38, R43, section 2.5.1). -/
structure AccWord where
  /-- Integer X, 128 bits; 02 R38; reset 0 -/
  x : BitVec 128 := 0
  /-- Special state, 2 bits: 0 finite, 1 +Inf, 2 −Inf, 3 NaN; 02 section 2.5.1; reset 0 -/
  special : BitVec 2 := 0
  /-- Flush count F, 16 bits, saturating; 02 R43; reset 0 -/
  flush : BitVec 16 := 0
deriving DecidableEq, Repr

/-- States of an accumulator bank (Table 3.5). -/
inductive BankState where
  | free | filling | held | draining | poisoned
deriving DecidableEq, Repr

/-- An accumulator bank AB0 to AB3 (R71). -/
structure Bank where
  /-- Bank state; 03 R72; reset FREE -/
  st : BankState := .free
  /-- Anchor code, 8 bits; 03 section 3.7, 02 R40; reset 0 (a FREE bank holds none) -/
  anchor : BitVec 8 := 0
  /-- Words, 512 rows × 256, key row × 256 + column; 03 R71; reset every word 0 -/
  words : Tab AccWord := []
deriving DecidableEq, Repr

/-- A half of the feed buffer, FB0 or FB1 (R67). -/
structure Half where
  /-- Resident; 03 R67; reset false -/
  resident : Bool := false
  /-- A FEED into the half is in progress; 05 R129; reset false -/
  loading : Bool := false
  /-- Instructions that hold the half; 03 R68; reset 0 -/
  holders : Nat := 0
  /-- Activation format AFMT, 2 bits; 05 Table 5.10; reset 0 -/
  afmt : BitVec 2 := 0
  /-- Activation scaling, 2 bits; 05 Table 5.10; reset 0 -/
  ascl : BitVec 2 := 0
  /-- Rows of the tile; 05 R147; reset 0 -/
  rows : Nat := 0
  /-- RAW tile; 05 R147; reset false -/
  raw : Bool := false
  /-- The tile occupies both halves; 03 R67; reset false -/
  both : Bool := false
  /-- Tile bytes, values then scales; 05 R144; reset 0 -/
  data : Tab Byte := []
  /-- Bytes of the tile; 05 R144, R147; reset 0 -/
  bytes : Nat := 0
deriving DecidableEq, Repr

/-- A weight plane, active or shadow (03 section 3.1). -/
structure Plane where
  /-- Latched since the core reset; 03 R65, R66; reset false -/
  latched : Bool := false
  /-- Sparsity metadata valid; 03 R76; reset true -/
  metaOk : Bool := true
  /-- A LATCH into the plane is in progress; 06 R177; reset false -/
  latching : Bool := false
  /-- Instructions that hold the plane; 03 R68; reset 0 -/
  holders : Nat := 0
  /-- Weight format WFMT, 3 bits; 05 Table 5.10; reset 0 -/
  wfmt : BitVec 3 := 0
  /-- Weight scaling, 2 bits; 05 Table 5.10; reset 0 -/
  wscl : BitVec 2 := 0
  /-- 2:4 sparse; 05 Table 5.10; reset false -/
  sparse : Bool := false
  /-- Tile bytes: values, scales, metadata; 05 R144; reset 0 -/
  data : Tab Byte := []
  /-- Checksum column: the exact sum u[k] of each K row, or the four sums of each compressed row, as mantissa
  and exponent of two; 06 R164, R167; reset none -/
  sums : List (Int × Int) := []
deriving DecidableEq, Repr

/-- What stands in an array queue (Table 5.4). -/
inductive ArrayKind where
  | matrix (f : MatrixF)
  | ewise (f : EwiseF)
  | drain (f : DrainF)
  | free (bank : Fin 4)
deriving DecidableEq, Repr

/-- An operation of an array queue with what it read at dispatch (R128, R140). -/
structure ArrayOp where
  /-- Program order number among the engine's three queues; 05 R129 -/
  seq : Nat
  /-- The operation; 05 Table 5.4 -/
  kind : ArrayKind
  /-- M as resolved at dispatch; 05 R140 -/
  m : Nat
  /-- Anchor code read from the anchor register, 8 bits; 05 R140 -/
  anchorReg : BitVec 8
  /-- c1, the weights' FP32 per-tensor scale; 05 R140 -/
  c1 : BitVec 32
  /-- c2, the activations' FP32 per-tensor scale; 05 R140 -/
  c2 : BitVec 32
  /-- Bundle index of the dispatch; 05 R161 -/
  bundle : BitVec 16
  /-- Slot of the syllable; 05 R161 -/
  slot : Nat
  /-- The engine the syllable names; 02 R58, 05 R161 -/
  named : EngNo
deriving DecidableEq, Repr

/-- A queued or running FEED (R147). -/
structure FeedOp where
  /-- Program order number; 05 R129 -/
  seq : Nat
  /-- The syllable's fields; 05 Table 5.10 -/
  f : FeedF
  /-- Rows, or units of 64 B for RAW; 05 R147 -/
  m : Nat
  /-- Working-store offset read at dispatch; 05 R143 -/
  off : Nat
  /-- Bundle index; 05 R161 -/
  bundle : BitVec 16
  /-- Slot; 05 R161 -/
  slot : Nat
deriving DecidableEq, Repr

/-- A queued or running LATCH (R143). -/
structure LatchOp where
  /-- Program order number; 05 R129 -/
  seq : Nat
  /-- The syllable's fields; 05 Table 5.10 -/
  f : LatchF
  /-- Offset read at dispatch; 05 R143 -/
  off : Nat
  /-- Bundle index; 05 R161 -/
  bundle : BitVec 16
  /-- Slot; 05 R161 -/
  slot : Nat
deriving DecidableEq, Repr

/-- What the checksum column and the checksum row hold of an instruction: P and G of each line (R164, R165). -/
structure Pred where
  /-- P_R[m], G_R[m]; 06 R164 -/
  rows : List (Int × Nat)
  /-- P_C[n], G_C[n]; 06 R165 -/
  cols : List (Int × Nat)
deriving DecidableEq, Repr

/-- An instruction in the array or waiting for its verdict (R63, R172). -/
structure Flight where
  /-- The operation; 03 R63 -/
  op : ArrayOp
  /-- CORE_CYCLE at issue; 03 R60, 06 R172 -/
  issue : BitVec 64
  /-- Feed length L; 03 R60, R79 -/
  len : Nat
  /-- Cap q in force at issue, 5 bits; 03 R79, 06 Table 6.4 -/
  cap : BitVec 5
  /-- Feed slots of the instruction; 03 R60 -/
  slots : Nat
  /-- Feed slots taken before the present cap came into force; 03 R80 -/
  taken : Nat
  /-- CORE_CYCLE from which the present cap applies; 03 R80 -/
  capFrom : Nat
  /-- Anchor code used; 02 R40 -/
  anchor : BitVec 8
  /-- Index of the weight plane used; 03 R66 -/
  plane : Bool
  /-- The instruction's contribution words, as its contribution buffer or sill rows hold them; 06 R163, R175 -/
  contrib : Tab AccWord
  /-- The checker's predictions; 06 R164, R165 -/
  pred : Pred
  /-- The sill entry's bytes as its drain converts them; 03 R73 -/
  rows : Tab Byte
  /-- Conversions that overflowed; 02 R58 -/
  sat : Bool
  /-- A drained result is a NaN; 02 R58 -/
  nanOut : Bool
  /-- Largest flush count drained; 02 R58 -/
  maxF : BitVec 16
  /-- It uses a contribution buffer CB0 or CB1; 06 R175 -/
  usesCb : Bool
  /-- Its contribution to its bank has been discarded; 06 R180 -/
  cancelled : Bool
deriving DecidableEq, Repr

/-- A matrix engine E0 to E3 (03). -/
structure Engine where
  /-- Planes by index 0, 1; 03 section 3.1; reset not latched -/
  planes : Tab Plane := []
  /-- Index of the active plane; 03 R66; reset 0 -/
  active : Bool := false
  /-- Feed halves FB0, FB1; 03 R67; reset empty -/
  halves : Tab Half := []
  /-- Banks AB0 to AB3; 03 R71; reset FREE -/
  banks : Tab Bank := []
  /-- Array queue, depth 16; 05 Table 5.4; reset empty -/
  arrayQ : List ArrayOp := []
  /-- Feed queue, depth 4; 05 Table 5.4; reset empty -/
  feedQ : List FeedOp := []
  /-- Latch queue, depth 4; 05 Table 5.4; reset empty -/
  latchQ : List LatchOp := []
  /-- Contents parked in the replay weight buffer, being restored; 06 R177; reset none -/
  restoring : Option Plane := none
  /-- FEED in progress; 03 R67; reset none -/
  feeding : Option FeedOp := none
  /-- LATCH in progress; 03 R65; reset none -/
  latchingOp : Option LatchOp := none
  /-- LATCH waits for a granary refill and repeats; 04 R99; reset false -/
  latchRefill : Bool := false
  /-- Instruction in the array; 03 R63, ENG_STATUS.BUSY R83; reset none -/
  inArray : Option Flight := none
  /-- Placed instructions whose verdict is pending; 06 R172, ENG_STATUS.PENDING R83; reset none -/
  waiting : List Flight := []
  /-- BANK_DRAIN in progress: operation and bank; 03 R73; reset none -/
  draining : Option ArrayOp := none
  /-- Next program order number; 05 R129; reset 0 -/
  nextSeq : Nat := 0
  /-- ENG_FLUSH, 32 bits; 02 R58; reset 0 -/
  flushReg : BitVec 32 := 0
  /-- ENG_STATUS.RETIRED; 03 R82, R83; reset 0 -/
  retired : Bool := false
  /-- Engine that runs this engine's operations when retired, ENG_STATUS.REDIRECT; 03 R82; reset 0 -/
  redirect : EngNo := 0
  /-- A redirection waits until both engines are quiescent; 03 R82; reset false -/
  movePending : Bool := false
  /-- ENG_STATUS.CAP, the cap q in force, 5 bits; 03 R83; reset 16 -/
  cap : BitVec 5 := 16
  /-- ENG_REMAP_ROW, 32 bits; 03 R84; reset 0 -/
  remapRow : BitVec 32 := 0
  /-- ENG_REMAP_COL, 32 bits; 03 R84; reset 0 -/
  remapCol : BitVec 32 := 0
  /-- ENG_ISSUED, 64 bits, wraps; 03 R85; reset 0 -/
  issued : BitVec 64 := 0
  /-- ENG_BUSY, 64 bits, wraps; 03 R85; reset 0 -/
  busyCount : BitVec 64 := 0
  /-- CORE_CYCLE at which the array last became empty; 13 R368; reset 0 -/
  idleFrom : BitVec 64 := 0
  /-- Verdicts in the 24-hour window: kind ENGINE_AT_FAULT or not, powered seconds; 06 R182; reset none -/
  verdicts : List (Bool × BitVec 32) := []
  /-- ENG_CHECK.DISAGREE, 16 bits, saturates; 06 R192; reset 0 -/
  disagree : BitVec 16 := 0
  /-- Array queue halted by a deferred exception or a fault; 05 R157; reset false -/
  arrayHalted : Bool := false
  /-- Feed queue halted; 05 R157; reset false -/
  feedHalted : Bool := false
  /-- The site is to be replaced at the next tally for this engine; 06 R183; reset false -/
  replaceAtTally : Bool := false
deriving DecidableEq, Repr

/-! ### A core site (04, 05) -/

/-- Stage of a vote (R176 to R179). -/
inductive VoteStage where
  | failed      -- failed verdict; waits for the replay engine's plane
  | latched     -- tile latched into the replay engine's plane, or none needed
  | votePass    -- vote pass in the array
  | voted       -- vote pass placed, its verdict pending
  | applyPass   -- apply pass in the array
  | applied     -- apply pass placed, its verdict pending
deriving DecidableEq, Repr

/-- The one vote a core can run (R176). -/
structure Vote where
  /-- Engine whose verdict failed; 06 R176 -/
  orig : EngNo
  /-- Replay engine; 06 R176 -/
  replay : EngNo
  /-- Stage; 06 R177 to R179 -/
  stage : VoteStage
  /-- The instruction; 06 R176 -/
  flight : Flight
  /-- Residue pairs kept of the original; 06 R176 -/
  obs : CheckObs
  /-- Logged mismatches of an EWISE; 06 R181 -/
  misses : List EwiseMiss
  /-- Plane parked in the replay weight buffer, 140 KiB; 06 R177 -/
  parked : Option Plane
  /-- The vote or apply pass as placed; 06 R178 -/
  pass : Option Flight
deriving DecidableEq, Repr

/-- States of a sill entry (Table 4.5). -/
inductive SillState where
  | free | opened | closed | released | freeing | poisoned
deriving DecidableEq, Repr

/-- A sill entry (R102). -/
structure SillEntry where
  /-- State; 04 R102; reset FREE -/
  st : SillState := .free
  /-- Claimed at dispatch; 05 R149; reset false -/
  claimed : Nat := 0
  /-- Free request latched; 04 R104, 05 R149; reset false -/
  freeReq : Bool := false
  /-- Reservation in 64 B units; 04 R102; reset 0 -/
  units : Nat := 0
  /-- Contributors whose verdict has not passed; 04 R103; reset 0 -/
  waits : Nat := 0
  /-- Copies reading the entry; 04 Table 4.5; reset 0 -/
  readers : Nat := 0
  /-- Bytes of the entry; 04 R104; reset 0 -/
  data : Tab Byte := []
  /-- Release token: enabled, number; 05 R142, R145; reset none -/
  tok : Option (BitVec 6) := none
  /-- ENG_FLUSH update due at release: engine named, saturated, NaN, largest F; 02 R58; reset none -/
  flush : Option (EngNo × Bool × Bool × BitVec 16) := none
deriving DecidableEq, Repr

/-- A copy descriptor, version 1 (Table 4.6). -/
structure CopyDesc where
  /-- SRC_KIND, 4 bits; 04 Table 4.6 -/
  srcKind : BitVec 4
  /-- DST_KIND, 4 bits; 04 Table 4.6 -/
  dstKind : BitVec 4
  /-- TWO_D; 04 Table 4.6 -/
  twoD : Bool
  /-- FENCE; 04 Table 4.6 -/
  fence : Bool
  /-- SILL_FREE; 04 Table 4.6 -/
  sillFree : Bool
  /-- COMBINE; 04 Table 4.6 -/
  combine : Bool
  /-- REDFMT; 04 Table 4.6 -/
  redFmt : Bool
  /-- SIG_EN; 04 Table 4.6 -/
  sigEn : Bool
  /-- SIG_TOKEN; 04 Table 4.6 -/
  sigTok : BitVec 6
  /-- PRIO; 04 Table 4.6 -/
  prio : BitVec 2
  /-- LENGTH; 04 Table 4.6 -/
  length : BitVec 32
  /-- SRC_ADDR; 04 Table 4.6 -/
  src : BitVec 64
  /-- DST_ADDR; 04 Table 4.6 -/
  dst : BitVec 64
  /-- ROWS, 17 bits; 04 Table 4.6 -/
  rows : BitVec 17
  /-- SRC_STRIDE; 04 Table 4.6 -/
  srcStride : BitVec 64
  /-- DST_STRIDE; 04 Table 4.6 -/
  dstStride : BitVec 64
  /-- DEVICE, 12 bits; 04 Table 4.6 -/
  device : BitVec 12
  /-- LCORE; 04 Table 4.6 -/
  lcore : BitVec 5
  /-- BELL_EN; 04 Table 4.6 -/
  bellEn : Bool
  /-- BELL, 13 bits; 04 Table 4.6 -/
  bell : BitVec 13
  /-- GROUP; 04 Table 4.6 -/
  group : BitVec 16
  /-- CONTRIBUTOR; 04 Table 4.6 -/
  contributor : BitVec 6
  /-- TAG; 04 Table 4.6 -/
  tag : BitVec 32
deriving DecidableEq, Repr

/-- A descriptor in flight (R105, R114). -/
structure CopyFlight where
  /-- The descriptor; 04 R105 -/
  desc : CopyDesc
  /-- Time base of the start or of the last 64 KiB of progress; 04 R114 -/
  since : BitVec 64
  /-- Data movement finished, completion not yet reported; 04 R105 -/
  done : Bool
  /-- Bytes whose writes have been acknowledged, in order; 04 R114 -/
  moved : Nat
  /-- TXN of its request awaiting a response; 07 R199 -/
  txn : Option (BitVec 10)
  /-- Bytes read from its source and not yet sent to its destination; 04 R107 -/
  buf : List Byte := []
  /-- Core cycle since which its next request has waited for the router port; 04 R111 -/
  waitFrom : Option (BitVec 64) := none
deriving DecidableEq, Repr

/-- A copy queue Q0 to Q3 (R105, R120). -/
structure CopyQueue where
  /-- Descriptors pushed and not started; 04 R105; reset empty -/
  waiting : List CopyDesc := []
  /-- Descriptors in flight, at most 4, in push order; 04 R105; reset empty -/
  flight : List CopyFlight := []
  /-- CQ_STATUS.HALTED; 04 R120; reset 0 -/
  halted : Bool := false
  /-- CQ_STATUS.ERR, 4 bits; 04 R120; reset 0 -/
  err : BitVec 4 := 0
  /-- CQ_ERR_TAG, 32 bits; 04 R120; reset 0 -/
  errTag : BitVec 32 := 0
  /-- CQ_STATUS.COMPLETED, 16 bits, wraps; 04 R120; reset 0 -/
  completed : BitVec 16 := 0
deriving DecidableEq, Repr

/-- What stands in the vector queue (Table 5.4). -/
inductive VecItem where
  | vec (op : VecOp) (f : VecF)
  | lds (rd : BitVec 5)
  | sts (value : BitVec 64)
deriving DecidableEq, Repr

/-- An operation of the vector queue with what it read at dispatch (R128). -/
structure VecEntry where
  /-- The operation; 05 Table 5.4 -/
  item : VecItem
  /-- A[AREG], or the address of an LDS or STS; 05 R148 -/
  addr : BitVec 64
  /-- A[VA[3:0]]; 05 Table 5.11 -/
  addrA : BitVec 64
  /-- A[VB[3:0]]; 05 Table 5.11 -/
  addrB : BitVec 64
  /-- The scalar register the operation names; 05 Table 5.11 -/
  sval : BitVec 64
  /-- Bundle index; 05 R161 -/
  bundle : BitVec 16
  /-- Slot; 05 R161 -/
  slot : Nat
deriving DecidableEq, Repr

/-- Loop state L0 to L3 (Table 4.1). -/
structure LoopSt where
  /-- Start of the body, 16 bits; 04 Table 4.1 -/
  start : BitVec 16
  /-- END, 16 bits; 04 Table 4.1 -/
  endB : BitVec 16
  /-- Iterations left, 32 bits; 04 Table 4.1 -/
  count : BitVec 32
deriving DecidableEq, Repr

/-- A pending write of the scoreboard (R128). -/
structure PendW where
  /-- S register; 05 R128 -/
  rd : BitVec 5
  /-- The value, once read; 05 R128 -/
  value : Option (BitVec 64)
deriving DecidableEq, Repr

/-- A forecast (R155). -/
structure Forecast where
  /-- ENGMASK; 05 R155 -/
  engMask : BitVec 4
  /-- LEVEL, 1 to 16; 05 R155 -/
  level : BitVec 5
  /-- Start, time base; 05 R155 -/
  start : BitVec 64
  /-- End, time base; 05 R155 -/
  stop : BitVec 64
  /-- Acted on by the regulator; 13 R367 -/
  active : Bool
deriving DecidableEq, Repr

/-- Core power states (Table 4.10). -/
inductive PwrState where
  | off | run | nap | retain | inTransition
deriving DecidableEq, Repr

/-- What a LAUNCH gave a core (R326). -/
structure LaunchInfo where
  /-- Outstanding descriptor; 11 R326 -/
  desc : Nat
  /-- JOB tag; 11 Table 11.5 -/
  job : BitVec 32
  /-- Progress watchdog, ms; 15 R407 -/
  watchdog : BitVec 16
  /-- TALLY_EN; 11 Table 11.5 -/
  tallyEn : Bool
  /-- ENTER_ARRIVE; 11 Table 11.5 -/
  enterArrive : BitVec 13
  /-- ENTER_RELEASE; 11 Table 11.5 -/
  enterRelease : BitVec 13
  /-- COMMIT_ARRIVE; 11 Table 11.5 -/
  commitArrive : BitVec 13
  /-- COMMIT_RELEASE; 11 Table 11.5 -/
  commitRelease : BitVec 13
  /-- Last dispatch, time base; 15 R407 -/
  lastDispatch : BitVec 64
deriving DecidableEq, Repr

/-- What the sequencer is doing (R116, R136, R150). -/
inductive SeqState where
  | idle       -- waits for a LAUNCH
  | running    -- dispatches
  | halted     -- HALT dispatched; the core drains (R136)
  | tally      -- a TALLY is being taken (R150)
  | stopped    -- an exception or a fault stopped dispatch (R157, R158)
deriving DecidableEq, Repr

/-- A bell operation under way to a services endpoint (Table 10.3). -/
structure BellMsg where
  /-- Operation, Table 10.2; 10 Table 10.3 -/
  op : BitVec 8
  /-- Destination device, none for this device; 10 Table 10.3 -/
  dev : Option (BitVec 12)
  /-- Bell; 10 Table 10.3 -/
  bell : BitVec 13
  /-- AMOUNT; 10 Table 10.3 -/
  amount : BitVec 32
  /-- Instant I, 0 for none; 10 Table 10.3 -/
  instant : BitVec 64
  /-- Hamlet tag; 10 R286, R288 -/
  tag : Option HamletNo
  /-- Entry image of a SET; 10 Table 10.3 -/
  image : BellImg := { count := 0, target := 0, w2 := 0, cores := 0, source := 0, fwd := 0, fired := 0, align := 0 }
deriving DecidableEq, Repr

/-- A core site C00 to C39 with the granary beneath it. -/
structure Site where
  /-- CORE_STATUS.BOUND and LCORE: bound logical core; 04 R117; reset none -/
  bound : Option LCoreNo := none
  /-- CORE_STATUS.QUARANTINED; 04 R117; reset 0 -/
  quarantined : Bool := false
  /-- CORE_STATUS.TOKEN_SAT; 04 R87, R117; reset 0 -/
  tokenSat : Bool := false
  /-- Owning hamlet, CORE_STATUS.IN_HAMLET and HAMLET; 04 R117; reset none -/
  hamlet : Option HamletNo := none
  /-- CORE_PWR.STATE; 04 R118; reset OFF -/
  pwr : PwrState := .off
  /-- CORE_PWR.PENDING and PENDING_VALID; 04 R118, 15 R420; reset none -/
  pwrPending : Option PwrState := none
  /-- A request to run has begun the transition out of NAP or RETAIN: STATE reads IN_TRANSITION; 04 R118, 15 R420; reset false -/
  waking : Bool := false
  /-- CORE_PWR.OP, 3 bits; 04 R118; reset 0 -/
  op : BitVec 3 := 0
  /-- Shutters closed; 04 Table 4.11; reset true -/
  shut : Bool := true
  /-- Sequencer state, CORE_STATUS.SEQ_RUN; 04 R117; reset idle -/
  seq : SeqState := .idle
  /-- PC, 16 bits; 04 Table 4.1; reset 0 -/
  pc : BitVec 16 := 0
  /-- S0 to S31, 64 bits; 04 Table 4.1; reset 0 -/
  sregs : Tab (BitVec 64) := []
  /-- A0 to A15, 64 bits; 04 Table 4.1; reset 0 -/
  aregs : Tab (BitVec 64) := []
  /-- T0 to T63, 16 bits; 04 Table 4.1; reset 0 -/
  toks : Tab (BitVec 16) := []
  /-- L0 to L3, innermost first; 04 Table 4.1; reset none in use -/
  loops : List LoopSt := []
  /-- V0 to V31, 2,048 lanes × 32 bits, key register × 2,048 + lane; 04 Table 4.1; reset 0 -/
  vregs : Tab (BitVec 32) := []
  /-- Scoreboard of pending writes; 05 R128; reset clear -/
  pend : List PendW := []
  /-- Program store, 65,536 bundles × 8 words, key bundle × 8 + slot; 04 R88; reset 0 -/
  ps : Tab (BitVec 64) := []
  /-- Scrub position of the program store, bundle index; 04 R88; reset 0 -/
  psScrubAt : BitVec 16 := 0
  /-- Bundles in which scrub met an uncorrectable word, not loaded again since; 04 R88; reset none -/
  psBad : List (BitVec 16) := []
  /-- Working store, 192 MiB; 04 R95; reset 0 -/
  ws : Tab Byte := []
  /-- Granary, 896 MiB; 04 R98; reset 0 -/
  gran : Tab Byte := []
  /-- 4 KiB granary blocks waiting for a refill; 04 R99; reset none -/
  refills : List Nat := []
  /-- Engines E0 to E3; 03; reset as core reset -/
  engines : Tab Engine := []
  /-- Sill entries 0 to 63; 04 R102; reset FREE -/
  sill : Tab SillEntry := []
  /-- SILL_STATUS.FREE_UNITS; 04 R121; reset 65,536 -/
  sillFree : Nat := 65536
  /-- Engine the sill granted last; 03 R70; reset 3 (E0 is first) -/
  sillLast : EngNo := 3
  /-- Copy queues Q0 to Q3; 04 R105; reset empty -/
  queues : Tab CopyQueue := []
  /-- Vector queue, depth 8; 05 Table 5.4; reset empty -/
  vecQ : List VecEntry := []
  /-- Vector queue halted; 05 R157; reset false -/
  vecHalted : Bool := false
  /-- VEC_FLUSH, 32 bits; 04 R94; reset 0 -/
  vecFlush : BitVec 32 := 0
  /-- The vote; 06 R176; reset none -/
  vote : Option Vote := none
  /-- CORE_CYCLE, 64 bits; 05 R159; reset 0 -/
  cycle : BitVec 64 := 0
  /-- The cycle counted last was that of a taken branch, whose target is not fetched in it; 05 R135, R152; reset false -/
  bubble : Bool := false
  /-- Cycles in a row in which the core was quiescent; 04 R116; reset 0 -/
  quiet : Nat := 0
  /-- CORE_SLIP, 64 bits, wraps; 05 R159; reset 0 -/
  slip : BitVec 64 := 0
  /-- CORE_SLIP_MAX, 32 bits, saturates; 05 R160; reset 0 -/
  slipMax : BitVec 32 := 0
  /-- CORE_SLIP_STRETCH, 32 bits, saturates; 05 R160; reset 0 -/
  slipStretch : BitVec 32 := 0
  /-- Schedule reference s_ref, none before the first fetch of a LAUNCH; 05 R151; reset none -/
  sref : Option (BitVec 64) := none
  /-- CORE_EXC, 32 bits; 05 R161; reset 0 -/
  exc : BitVec 32 := 0
  /-- CORE_EXC_INFO, 32 bits; 05 R161; reset 0 -/
  excInfo : BitVec 32 := 0
  /-- WS_ECC, 32 bits; 04 R122; reset 0 -/
  wsEcc : BitVec 32 := 0
  /-- GRAN_ECC, 32 bits; 04 R122; reset 0 -/
  granEcc : BitVec 32 := 0
  /-- SILL_ECC, 32 bits; 04 R122; reset 0 -/
  sillEcc : BitVec 32 := 0
  /-- PS_ECC, 32 bits; 04 R122; reset 0 -/
  psEcc : BitVec 32 := 0
  /-- CORE_MIRROR, 64 bits; 04 R119; reset 0 -/
  mirror : BitVec 64 := 0
  /-- The core's mirror is degraded; 08 R251; reset false -/
  mirrorDegraded : Bool := false
  /-- Mirror pages lost or left in the site's field, as last recorded; 08 R251; reset 0 -/
  mirrorGone : Nat := 0
  /-- Outstanding LAUNCH on the core; 11 R326; reset none -/
  launch : Option LaunchInfo := none
  /-- Forecasts, at most four, by index; 05 R155; reset none -/
  forecasts : List Forecast := []
  /-- PHASE_HINT preference; 05 R156; reset none -/
  hint : Option (BitVec 3) := none
  /-- Bell operations awaiting a response, at most 64; 10 R292; reset 0 -/
  bellsOut : Nat := 0
  /-- Bell operations that wait until fewer than 64 are outstanding, oldest first; 10 R292; reset empty -/
  bellQ : List BellMsg := []
  /-- A[AREG] of the TALLY being taken; 05 R149; reset 0 -/
  tallyTable : BitVec 64 := 0
  /-- Droop detectors tripped, 64 bits; 12 R342; reset 0 -/
  detectors : BitVec 64 := 0
  /-- CORE_CYCLE up to which the cycles stretched by a droop are counted; 12 R342; reset 0 -/
  droopSince : BitVec 64 := 0
  /-- Cycles stretched by a droop after those in which a detector tripped, 16 bits, saturates; 12 R342; reset 0 -/
  droopCount : BitVec 16 := 0
  /-- Every healthy phase on for a droop; until 10 µs after this time, once all clear; 13 R369; reset none -/
  droopHold : Option (BitVec 64) := none
  /-- The core reset is in progress: signals are lost; 10 R286; reset false -/
  resetting : Bool := false
  /-- Site recorded bad in the field map; 17 R456; reset false -/
  bad : Bool := false
  /-- Site usable as a spare; 15 R414; reset false -/
  spare : Bool := false
  /-- Selected for a logical core that moves here from a site; 15 R414, R415; reset none -/
  chosen : Option (LCoreNo × SiteNo) := none
  /-- The granary is being refilled after a replacement; 15 R415, 08 R237; reset false -/
  refillDue : Bool := false
deriving DecidableEq, Repr

/-! ### What leaves the block -/

/-- Kinds of recovery messages (Table 15.4). -/
inductive RecKind where
  | stop | stopped | restore | ready | go | fail
deriving DecidableEq, Repr

/-- Kinds of budget messages (Table 10.3). -/
inductive BudgetKind where
  | report | take | takeAck | give | giveAck
deriving DecidableEq, Repr

/-- One thing the block sends or answers, in order (DESIGN CHOICE: the outputs are a log). DESIGN CHOICE, log entry 8. -/
inductive Out where
  | regData (acc : Accessor) (off : BitVec 28) (v : Word32)
  | hostWrite (port : Bool) (addr : Word64) (data : List Byte)
  | hostMsg (port : Bool) (addr : Word64) (data : Word32)
  | packet (p : Packet)
  | delivered (p : Packet)
  | linkPkt (l : LinkNo) (p : LinkPkt)
  | bellOp (m : BellMsg)
  | bellData (op : BitVec 8) (b : BellNo) (status : BitVec 4) (image : Option BellImg)
  | tokenPkt (lc : LCoreNo) (tok : BitVec 6) (tag : Option HamletNo)
  | raisePkt (n : BitVec 10) (b : BellNo)
  | resetAt (dev : BitVec 12) (t0 : Word64) (root : BitVec 12)
  | budget (k : BudgetKind) (dst : BitVec 12) (m : BudgetMsg)
  | recovery (k : RecKind) (dst : BitVec 12) (m : RecMsg) (tag : Option HamletNo)
  | claim (who : IcAgent) (n : BitVec 10)
  | keyMsg (l : LinkNo)
  | linkCredit (l : LinkNo) (vc units : Nat)
  | toReeve (cls : BitVec 16) (l : LinkNo)
deriving DecidableEq, Repr

/-! ### Registers, fuses, ID (00, 17, 18) -/

/-- The fuses (R2, R429, R470). DESIGN CHOICE, log entry 2. -/
structure Fuses where
  /-- FUSE_ID.VARIANT, 2 bits; 17 R470; reset DESIGN CHOICE 0 (KC1-A32, R1) -/
  variant : BitVec 2 := 0
  /-- FUSE_SITE, 40 bits; 17 R470; reset DESIGN CHOICE all good -/
  siteGood : BitVec 40 := BitVec.allOnes 40
  /-- FUSE_LINK, 96 bits; 17 R470; reset DESIGN CHOICE all present -/
  linkPresent : BitVec 96 := BitVec.allOnes 96
  /-- FUSE_MEM, 16 bits; 17 R470; reset DESIGN CHOICE all present -/
  memPresent : BitVec 16 := BitVec.allOnes 16
  /-- Fused SVN, 0 to 64; 16 R429; reset DESIGN CHOICE 0 -/
  svn : BitVec 7 := 0
  /-- Platform ID, 128 bits; 06 Table 6.3, 18 R479; reset DESIGN CHOICE 0 -/
  platform : BitVec 128 := 0
  /-- ID_VERSIONS.ROM_VERSION, 8 bits; 18 R479; reset DESIGN CHOICE 0 -/
  romVersion : BitVec 8 := 0
  /-- Digest of the identity public key, 256 bits; 16 R448; reset DESIGN CHOICE 0 -/
  identity : BitVec 256 := 0
deriving DecidableEq, Repr

/-- The ID block (R479). -/
structure IdBlock where
  /-- ID_SERIAL, 64 bits; 18 R479; reset 0 -/
  serial : BitVec 64 := 0
  /-- ID_VERSIONS.FW_BUILD, 16 bits; 18 R479; reset 0 -/
  fwBuild : BitVec 16 := 0
  /-- ID_DEVNUM.VALID; 18 Table 18.6; reset 0 (no journaled number) -/
  valid : Bool := false
  /-- ID_DEVNUM.PENDING; 18 Table 18.6; reset 0 -/
  pending : Bool := false
  /-- ID_DEVNUM.NEXT, 12 bits; 18 Table 18.6; reset 0 -/
  next : BitVec 12 := 0
  /-- ID_DEVNUM.DEVICE, 12 bits; 18 Table 18.6; reset 0 -/
  dev : BitVec 12 := 0
  /-- ID_CTL.LOCK; 18 R479; reset 0 -/
  lock : Bool := false
  /-- ID_ERR.PARITY, 16 bits; 18 Table 18.7; reset 0 -/
  parity : BitVec 16 := 0
  /-- ID_ERR.COPY_LOST; 18 Table 18.7; reset 0 -/
  copyLost : Bool := false
  /-- ID_ERR_ADDR, 28 bits; 18 R479; reset 0 -/
  errAddr : BitVec 28 := 0
deriving DecidableEq, Repr

/-! ### The fabric (07) -/

/-- Who sent a bell operation and awaits its answer (R292): a core, a BELL_OP descriptor, or a unit of the device. -/
inductive BellFor where
  | core (site : SiteNo)
  | desc (id : Nat)
  | unit
deriving DecidableEq, Repr

/-- What a request was made for. -/
inductive TxnUse where
  | copy (site : SiteNo) (q : Fin 4)
  | slot (root : Fin 64) (group : BitVec 16) (tag : Option HamletNo) (addr : BitVec 64)
  | reducer (tc : Fin 64) (addr : BitVec 64)
  | remote (l : LinkNo) (p : LinkPkt)
  | bell (who : BellFor) (dev : Option (BitVec 12))
deriving DecidableEq, Repr

/-- A request awaiting a response at its source endpoint (R199, R208). -/
structure Txn where
  /-- Source router; 07 R199 -/
  rtr : Fin 64
  /-- TXN, 10 bits; 07 R199 -/
  txn : BitVec 10
  /-- The request; 07 R197 -/
  pkt : Packet
  /-- Injection, time base; 07 R208 -/
  since : BitVec 64
  /-- Attempts made; 06 R184 -/
  tries : Nat
  /-- What it was made for; 07 R208 -/
  use : TxnUse
deriving DecidableEq, Repr

/-- How a packet that waits at its source port is injected (R199, R202): a new request under a fresh TXN, a request
sent again under its own, whose delivery limit starts again or goes on, or a response. -/
inductive PortKind where
  | request (use : TxnUse)
  | again (restart : Bool)
  | response
deriving DecidableEq, Repr

/-- A packet that waits at its source port (R199, R202, R204). -/
structure PortReq where
  /-- The packet; 07 R197 -/
  pkt : Packet
  /-- How it is injected; 07 R199, R202 -/
  kind : PortKind
deriving DecidableEq, Repr

/-- A combine slot (R210 to R214). -/
structure CSlot where
  /-- Root router; 07 R210 -/
  root : Fin 64
  /-- GROUP; 07 R210 -/
  group : BitVec 16
  /-- Hamlet tag; 07 R210 -/
  tag : Option HamletNo
  /-- Destination; 07 R210 -/
  dst : Endpoint
  /-- ADDR; 07 R210 -/
  addr : BitVec 64
  /-- First contribution, time base; 07 R214 -/
  since : BitVec 64
  /-- Contributions received; 07 R212 -/
  held : List RedContrib
  /-- First failure status; 07 R213 -/
  failed : Option (BitVec 4)
  /-- The sum is written and WRITE_ACK awaited; 07 R212 -/
  writing : Bool
  /-- Contributors answered since it failed; 07 R213 -/
  answered : List (BitVec 6)
  /-- Units of 512 B it takes; 07 R211 -/
  units : Nat
deriving DecidableEq, Repr

/-- A lintel LT0 to LT9 (Table 7.9). -/
structure Lintel where
  /-- FAB_LT.MODE, 2 bits; 07 Table 7.9; reset 0 -/
  mode : BitVec 2 := 0
  /-- FAB_LT.PLANE_DOWN, 8 bits; 07 Table 7.9; reset 0 -/
  planeDown : BitVec 8 := 0
  /-- FAB_LT.SPARES_USED, 8 bits; 07 Table 7.9; reset 0 -/
  spares : BitVec 8 := 0
  /-- FAB_LT.LAT_FWD, 4 bits; 07 Table 7.9; reset 0 -/
  latFwd : BitVec 4 := 0
  /-- FAB_LT.LAT_REV, 4 bits; 07 Table 7.9; reset 0 -/
  latRev : BitVec 4 := 0
  /-- Lane groups whose spare is in use (link, plane, direction, group), twice with a second faulty lane; 07 R207; reset none -/
  spared : List (Fin 4 × Bool × Bool × BitVec 7) := []
deriving DecidableEq, Repr

/-- The fabric. -/
structure Fabric where
  /-- FAB_STATUS.DARK, 8 bits; 07 R219; reset 0 -/
  dark : BitVec 8 := 0
  /-- A field is lost and the detour tables are not loaded yet; 07 R215; reset false -/
  tablesDue : Bool := false
  /-- Dark fields of the loaded tables, 8 bits; 07 R215; reset 0 -/
  loadedDark : BitVec 8 := 0
  /-- FAB_STATUS.PAUSED, the pause's start; 07 R202; reset none -/
  paused : Option (BitVec 64) := none
  /-- A pause was requested during a pause; 15 R420; reset false -/
  pauseReq : Bool := false
  /-- FAB_STATUS.ROUTE_GEN, 16 bits, wraps; 07 R219; reset 0 -/
  routeGen : BitVec 16 := 0
  /-- FAB_ERR.HOP_RETRY, 16 bits, saturates; 07 R220; reset 0 -/
  hopRetry : BitVec 16 := 0
  /-- FAB_ERR.TIMEOUTS, 8 bits, saturates; 07 R220; reset 0 -/
  timeouts : BitVec 8 := 0
  /-- FAB_ERR.RED_RETRY, 8 bits, saturates; 07 R220; reset 0 -/
  redRetry : BitVec 8 := 0
  /-- FAB_LT_0 to FAB_LT_9; 07 R221; reset 0 -/
  lintels : Tab Lintel := []
  /-- Router input buffers, two packets per input and plane, key router × 10 + input × 2 + plane; 07 R204; reset empty -/
  bufs : Tab (List Packet) := []
  /-- Input granted last, key router × 10 + output × 2 + plane; 07 R204; reset 0 -/
  grants : Tab Nat := []
  /-- Requests awaiting a response; 07 R199; reset none -/
  txns : List Txn := []
  /-- Open combine slots; 07 R211; reset none -/
  slots : List CSlot := []
  /-- Requests answered RED_RETRY, router and TXN, and the time of the next sending; 07 R211; reset none -/
  resends : List (Fin 64 × BitVec 10 × BitVec 64) := []
  /-- What waits at source ports beside the copies' next requests, oldest first; 07 R199, R202, R204; reset none -/
  waiting : List PortReq := []
  /-- Requester granted last at a core's router port, key router: 0 to 3 copy engines, 4 the rest; 04 R111, 07 R204; reset 4 -/
  portLast : Tab Nat := []
  /-- Packets injected whose arrival has not been handled, oldest first; 07 R203; reset none -/
  flying : List Packet := []
  /-- Mesh links absent: router and port 0 N, 1 E, 2 S, 3 W; 07 R207; reset none -/
  absent : List (Fin 64 × Fin 4) := []
  /-- Absent links of the loaded tables; 07 R201, R207; reset none -/
  loadedAbsent : List (Fin 64 × Fin 4) := []
  /-- Lanes marked for repair in the next pause; 07 R207; reset none -/
  marked : List Lane := []
  /-- Lane groups inside a field whose spare is in use; 07 R207; reset none -/
  meshSpared : List Lane := []
  /-- Planes out of service into a router's input, inside a field; 07 R207; reset none -/
  meshDown : List (Fin 64 × Fin 4 × Bool) := []
  /-- Endpoints moved to the spare port, index field × 2 + (0 memory controller, 1 link bundle); 07 R194; reset 0 -/
  spared : BitVec 16 := 0
  /-- Link packets in transit that a fabric pause holds, with the link they came by, oldest first; 09 R276, 07 R202; reset none -/
  transits : List (LinkNo × LinkPkt) := []
  /-- Endpoints with no router port left, indexed as spared; 07 R194; reset 0 -/
  cutOff : BitVec 16 := 0
deriving DecidableEq, Repr

/-! ### Memory (08) -/

/-- A page-map entry (Table 8.2). -/
structure Page where
  /-- VALID; 08 Table 8.2; reset 0 -/
  valid : Bool := false
  /-- OWNED and HAMLET; 08 Table 8.2; reset none -/
  owner : Option HamletNo := none
  /-- KIND, 3 bits; 08 Table 8.2; reset 0 -/
  kind : BitVec 3 := 0
  /-- REMOTE_R; 08 Table 8.2; reset 0 -/
  remR : Bool := false
  /-- REMOTE_W; 08 Table 8.2; reset 0 -/
  remW : Bool := false
  /-- ENC; 08 Table 8.2; reset 0 -/
  enc : Bool := false
  /-- FIELD; 08 Table 8.2; reset 0 -/
  field : FieldNo := 0
  /-- FRAME, 15 bits; 08 Table 8.2; reset 0 -/
  frame : BitVec 15 := 0
deriving DecidableEq, Repr

/-- A GDDR7 channel (R243 to R245). -/
structure Channel where
  /-- Rate code, 3 bits; 08 R255; reset 0 -/
  rate : BitVec 3 := 0
  /-- Time base of the last training; 08 R243; reset 0 -/
  trained : BitVec 64 := 0
  /-- Site temperature at the last training; 08 R243; reset 0 -/
  tempAt : Byte := 0
  /-- The site's temperature has been read since the last training; 08 R243, Table 8.6; reset false -/
  tempKnown : Bool := false
  /-- Bursts repeated in the 1 ms window; 08 R243; reset 0 -/
  repeats : Nat := 0
  /-- The 1 ms window counted; 08 R243; reset 0 -/
  window : Nat := 0
  /-- Due since; 08 R243; reset none -/
  due : Option (BitVec 64) := none
  /-- Channel closed by a retrain step; 08 R244; reset false -/
  closed : Bool := false
  /-- Steps of the running sequence; 08 R244; reset 0 -/
  steps : Nat := 0
  /-- Failed sequences at the present rate; 08 R245; reset 0 -/
  fails : Nat := 0
  /-- End of the last step, time base; 08 R244; reset 0 -/
  lastStep : BitVec 64 := 0
deriving DecidableEq, Repr

/-- A memory site MS0 to MS15 (R255, R256). -/
structure MemSite where
  /-- MEM_SITE.STATE, 2 bits; 08 R255; reset 0 -/
  st : BitVec 2 := 0
  /-- Channels CH0 to CH3; 08 R222; reset as Channel -/
  chans : Tab Channel := []
  /-- MEM_SITE.RETRAINING and RETRAIN_CH; 08 R255; reset none -/
  retraining : Option (Fin 4) := none
  /-- MEM_SITE.TEMP, 8 bits; 08 R255; reset 0 -/
  temp : Byte := 0
  /-- MEM_ECC, 32 bits; 08 R254, 04 Table 4.16; reset 0 -/
  ecc : BitVec 32 := 0
  /-- MEM_LINK.CRC_REPEATS, 16 bits, saturates; 08 R256; reset 0 -/
  crcRepeats : BitVec 16 := 0
  /-- MEM_LINK.RETRAINS, 16 bits, wraps; 08 R256; reset 0 -/
  retrains : BitVec 16 := 0
  /-- Scrub position, bytes into the site; 08 R227; reset 0 -/
  scrubAt : Nat := 0
deriving DecidableEq, Repr

/-- A request at a memory controller: of a 64 B unit, a packet of the fabric, or of another device (R197, R228,
R246). -/
inductive MemWork where
  | unit (r : MemReq)
  | write (p : Packet) (o : WriteObs)
  | read (p : Packet) (o : ReadObs)
  | remote (r : RemoteReq)
deriving DecidableEq, Repr

/-- A request that waits at the controller of a field: since when, and the channel whose retrain it waits for
(R225). -/
structure MemItem where
  /-- Field of the controller; 08 R228 -/
  field : FieldNo
  /-- The request; 08 R228, R246 -/
  work : MemWork
  /-- Arrival, time base; 08 R248 -/
  since : BitVec 64
  /-- The channel whose retrain it waits for; 08 R225 -/
  after : Option (MemNo × Fin 4)
deriving DecidableEq, Repr

/-- The GDDR7 memory and the page map. -/
structure MemSys where
  /-- The page map has been bound; 08 R230; reset false -/
  mapBound : Bool := false
  /-- Page-map entries by page number; an unlisted page holds its R230 binding, or the reset value before bring-up; 08 R229; reset 0 -/
  pages : Tab Page := []
  /-- GDDR7 contents by page-map address; 08 R229, 17 Table 17.1; reset 0 (written with zeros in step 10) -/
  ddr : Tab Byte := []
  /-- Pages whose key was destroyed, by page number: the key number; 16 R436; reset none -/
  cipher : Tab (Option Nat) := []
  /-- Next key number; 16 R435; reset 0 -/
  keyCount : Nat := 0
  /-- Sites MS0 to MS15; 08 R254; reset absent -/
  sites : Tab MemSite := []
  /-- MEM_STATUS.FIELD_LIT, 8 bits; 08 Table 8.5; reset 0 -/
  lit : BitVec 8 := 0
  /-- MEM_PMAP_IDX, 18 bits; 08 R254; reset 0 -/
  pmapIdx : BitVec 18 := 0
  /-- Requests waiting at the controllers, oldest first; 08 R225, R228, R244, R248; reset none -/
  waiting : List MemItem := []
deriving DecidableEq, Repr

/-! ### Links (09) -/

/-- Link states (Table 9.6, Table 9.10). -/
inductive LinkState where
  | absent | down | training | ident | keying | up | retrain
deriving DecidableEq, Repr

/-- A Gaska link G00 to G95. -/
structure Link where
  /-- LNK_STATUS.STATE; 09 Table 9.10; reset ABSENT -/
  st : LinkState := .absent
  /-- LNK_STATUS.VER_MAJOR, 4 bits; 09 Table 9.10; reset 0 -/
  major : BitVec 4 := 0
  /-- LNK_STATUS.VER_MINOR, 4 bits; 09 Table 9.10; reset 0 -/
  minor : BitVec 4 := 0
  /-- LNK_STATUS.LANES, 4 bits; 09 Table 9.10; reset 0 -/
  lanes : BitVec 4 := 0
  /-- Lanes steered to spares: lane, receive direction, spare 33 (else 32); LNK_STATUS.SPARES, 2 bits; 09 R259, Table 9.10; reset none -/
  steered : List (Fin 4 × Bool × Bool) := []
  /-- LNK_STATUS.HALF_RATE; 09 Table 9.10; reset 0 -/
  half : Bool := false
  /-- LNK_STATUS.OWNED and HAMLET; 09 Table 9.10; reset none -/
  owner : Option HamletNo := none
  /-- Ownership confirmed; 16 R438; reset false -/
  confirmed : Bool := false
  /-- LNK_PEER.PEER_DEV, 12 bits; 09 Table 9.11; reset 0 -/
  peerDev : BitVec 12 := 0
  /-- LNK_PEER.PEER_LINK, 7 bits; 09 Table 9.11; reset 0 -/
  peerLink : BitVec 7 := 0
  /-- LNK_PEER.CABLE_NS, 10 bits; 09 Table 9.11; reset 0 -/
  cableNs : BitVec 10 := 0
  /-- Peer identity digest, 256 bits; 16 R448; reset 0 -/
  peerDigest : BitVec 256 := 0
  /-- The peer's MASTER setting; 12 R356; reset false -/
  peerMaster : Bool := false
  /-- LNK_ERR.REPLAYS, 16 bits, saturates; 09 Table 9.12; reset 0 -/
  replays : BitVec 16 := 0
  /-- LNK_ERR.RETRAINS, 8 bits, saturates; 09 Table 9.12; reset 0 -/
  retrains : BitVec 8 := 0
  /-- LNK_ERR.AUTH_FAILS, 8 bits, saturates; 09 Table 9.12; reset 0 -/
  authFails : BitVec 8 := 0
  /-- Codewords corrected, counted singly; LNK_FEC.CORRECTED reports units of 2^16; 09 Table 9.13; reset 0 -/
  corrected : Nat := 0
  /-- LNK_FEC.UNCORRECTABLE, 16 bits, saturates; 09 Table 9.13; reset 0 -/
  uncorrectable : BitVec 16 := 0
  /-- Number of the secret whose key and salt the sending direction uses; 09 R262, R271, 16 Table 16.2; reset none -/
  key : Option Nat := none
  /-- Number of the secret of the receiving direction; 09 R262, R271; reset none -/
  rxKey : Option Nat := none
  /-- The receiving direction's next secret, until its first epoch verifies; 09 R271; reset none -/
  rxNext : Option Nat := none
  /-- REKEY_READY of the sender; 09 R261, R271; reset false -/
  rekeyReady : Bool := false
  /-- REKEY_READY as the peer last sent it; 09 R261, R271; reset false -/
  peerReady : Bool := false
  /-- EPOCH of the sender's epoch at txStart, 64 bits; 09 R261; reset 0 -/
  txEpoch : BitVec 64 := 0
  /-- EPOCH of the first epoch under the sender's key; 09 R271; reset 0 -/
  keyEpoch : BitVec 64 := 0
  /-- EPOCH of the last verified epoch; 09 R261, R262; reset none -/
  rxEpoch : Option (BitVec 64) := none
  /-- SEQ of the sender's block at txStart, 10 bits; 09 R260; reset 0 -/
  txBase : BitVec 10 := 0
  /-- Start of the sender's stream, or of its last replay, time base; 09 R267; reset 0 -/
  txStart : BitVec 64 := 0
  /-- Link packets sent and not acknowledged, with SEQ of the epoch that carries them, oldest first; 09 R267; reset empty -/
  kept : List (BitVec 10 × LinkPkt) := []
  /-- Units of the receive buffer allotted to a VC beyond what is listed as reserved, key 0 to 5; 09 R266; reset none -/
  allot : Tab Nat := []
  /-- Credit demands that wait for the shared pool, VC and units, oldest first; 09 R266; reset none -/
  demands : List (Nat × Nat) := []
  /-- A rekey is in progress; 09 R271; reset false -/
  rekeying : Bool := false
  /-- KEY_PHASE of the sender; 09 R271; reset false -/
  txPhase : Bool := false
  /-- KEY_PHASE of the receiver; 09 R271; reset false -/
  rxPhase : Bool := false
  /-- Receiver's next expected block SEQ, 10 bits; 09 R260; reset 0 -/
  rxSeq : BitVec 10 := 0
  /-- Oldest block not acknowledged, 10 bits; 09 R267; reset 0 -/
  txAck : BitVec 10 := 0
  /-- Last ACK progress, time base; 09 R267; reset 0 -/
  progress : BitVec 64 := 0
  /-- Replays started without ACK progress; 09 R268; reset 0 -/
  stuck : Nat := 0
  /-- Failures of the epoch now awaited; 09 R267; reset 0 -/
  epochFails : Nat := 0
  /-- RETRAIN_REQ is asked of the sender; 09 R261, R267; reset false -/
  reqRetrain : Bool := false
  /-- The next epoch is the first after a retrain; 09 Table 9.6; reset false -/
  firstAfter : Bool := false
  /-- Retrains of the last second, time base; 09 R268; reset none -/
  recent : List (BitVec 64) := []
  /-- Start of the last training attempt, time base; 09 Table 9.6; reset none -/
  attempt : Option (BitVec 64) := none
  /-- A failure class is already recorded in this bring-up; 09 Table 9.6; reset false -/
  recorded : Bool := false
  /-- Flows wait on a substitute link; 09 R277; reset false -/
  moved : Bool := false
  /-- Credits held per VC in 64 B units, key 0 to 5; 09 R266; reset 0 -/
  credits : Tab Nat := []
  /-- Link packets that wait for credit, oldest first; 09 R266; reset empty -/
  txQ : List LinkPkt := []
  /-- Lanes that failed and no spare serves: lane, receive direction; 09 R259; reset none -/
  badLanes : List (Fin 4 × Bool) := []
  /-- A latched request of R420: 1 train, 0 down; 15 Table 15.5; reset none -/
  latched : Option Bool := none
deriving DecidableEq, Repr

/-! ### Bells and collectives (10) -/

/-- A bell (Table 10.1). -/
structure Bell where
  /-- COUNT, 32 bits, saturates; 10 Table 10.1; reset 0 -/
  count : BitVec 32 := 0
  /-- TARGET, 32 bits; 10 Table 10.1; reset 0 -/
  target : BitVec 32 := 0
  /-- ARMED; 10 Table 10.1; reset 0 -/
  armed : Bool := false
  /-- REARM; 10 Table 10.1; reset 0 -/
  rearm : Bool := false
  /-- OWNED and HAMLET; 10 Table 10.1; reset none -/
  owner : Option HamletNo := none
  /-- ACT_TOKEN; 10 Table 10.1; reset 0 -/
  actTok : Bool := false
  /-- ACT_IRQ; 10 Table 10.1; reset 0 -/
  actIrq : Bool := false
  /-- ACT_FWD; 10 Table 10.1; reset 0 -/
  actFwd : Bool := false
  /-- ACT_MCAST; 10 Table 10.1; reset 0 -/
  actMcast : Bool := false
  /-- ALIGN; 10 Table 10.1; reset 0 -/
  align : Bool := false
  /-- SATURATED; 10 Table 10.1; reset 0 -/
  saturated : Bool := false
  /-- LATE; 10 Table 10.1; reset 0 -/
  late : Bool := false
  /-- TOKEN, 6 bits; 10 Table 10.1; reset 0 -/
  tok : BitVec 6 := 0
  /-- CORES, 32 bits; 10 Table 10.1; reset 0 -/
  cores : BitVec 32 := 0
  /-- SOURCE, 10 bits; 10 Table 10.1; reset 0 -/
  source : BitVec 10 := 0
  /-- DEVICE, 12 bits; 10 Table 10.1; reset 0 -/
  dev : BitVec 12 := 0
  /-- REMOTE; 10 Table 10.1; reset 0 -/
  remote : Bool := false
  /-- MSET, 6 bits; 10 Table 10.1; reset 0 -/
  mset : BitVec 6 := 0
  /-- BELL, 13 bits; 10 Table 10.1; reset 0 -/
  fwd : BitVec 13 := 0
  /-- FIRED, 32 bits, wraps; 10 Table 10.1; reset 0 -/
  fired : BitVec 32 := 0
  /-- ALIGN_NS, 16 bits; 10 Table 10.1; reset 0 -/
  alignNs : BitVec 16 := 0
  /-- A firing of the next operation slot is due; 10 R285; reset false -/
  refire : Bool := false
  /-- Instants of firings whose actions are still to be taken; 10 R287; reset none -/
  due : List (BitVec 64) := []
deriving DecidableEq, Repr

/-- A tree context (Table 10.4). -/
structure TreeCtx where
  /-- VALID; 10 Table 10.4; reset 0 -/
  valid : Bool := false
  /-- OWNED and HAMLET; 10 Table 10.4; reset none -/
  owner : Option HamletNo := none
  /-- MODE, 2 bits; 10 Table 10.4; reset 0 -/
  mode : BitVec 2 := 0
  /-- ROOT; 10 Table 10.4; reset 0 -/
  root : Bool := false
  /-- FMT; 10 Table 10.4; reset 0 -/
  fmt : Bool := false
  /-- NCHILD, 5 bits; 10 Table 10.4; reset 0 -/
  nchild : BitVec 5 := 0
  /-- HOME, 3 bits; 10 Table 10.4; reset 0 -/
  home : FieldNo := 0
  /-- FAILED; 10 Table 10.4; reset 0 -/
  failed : Bool := false
  /-- PARENT, 12 bits; 10 Table 10.4; reset 0 -/
  parent : BitVec 12 := 0
  /-- UPLINK, 7 bits; 10 Table 10.4; reset 0 -/
  uplink : BitVec 7 := 0
  /-- CHILDREN, 96 bits; 10 Table 10.4; reset 0 -/
  children : BitVec 96 := 0
  /-- LENGTH, 32 bits; 10 Table 10.4; reset 0 -/
  length : BitVec 32 := 0
  /-- DONE_EN; 10 Table 10.4; reset 0 -/
  doneEn : Bool := false
  /-- DONE_BELL, 13 bits; 10 Table 10.4; reset 0 -/
  doneBell : BitVec 13 := 0
  /-- Bytes accepted or written in the present use; 10 R299; reset 0 -/
  doneBytes : Nat := 0
  /-- LCORE and DST_ADDR of the present use; 10 R297; reset 0 -/
  lcore : BitVec 5 := 0
deriving DecidableEq, Repr

/-- A destination of a multicast set (Table 10.9). -/
structure MDest where
  /-- DEVICE, 12 bits; 10 R309 -/
  dev : BitVec 12
  /-- REMOTE; 10 R309 -/
  remote : Bool
  /-- BELL, 13 bits; 10 R309 -/
  bell : BitVec 13
deriving DecidableEq, Repr

/-- A multicast set MSET0 to MSET63 (R309). -/
structure MSet where
  /-- Owner scope of the ring that installed it; 16 R442; reset none -/
  owner : Option HamletNo := none
  /-- Destinations, COUNT of them; 10 R309; reset none -/
  dests : List MDest := []
deriving DecidableEq, Repr

/-- A link-port reducer slot (R298). -/
structure RSlot where
  /-- Tree context; 10 R298 -/
  tc : Fin 64
  /-- ADDR; 10 R298 -/
  addr : BitVec 64
  /-- First contribution, time base; 10 R300 -/
  since : BitVec 64
  /-- Contributions held; 10 R298 -/
  held : List (RedFrom × RedData)
  /-- Full and sent up, its acceptance awaited; 10 R299 -/
  sent : Bool
  /-- Sum of a full slot; 10 R299 -/
  sum : Option RedData
  /-- First failure status; 10 R298 -/
  failed : Option (BitVec 4)
deriving DecidableEq, Repr

/-- What a tally saves of one core (R150). -/
structure CoreSave where
  /-- Logical core; 05 R150 -/
  lc : LCoreNo
  /-- PC at which dispatch resumes; 05 R150 -/
  pc : BitVec 16
  /-- S registers; 05 R150 -/
  sregs : Tab (BitVec 64)
  /-- A registers; 05 R150 -/
  aregs : Tab (BitVec 64)
  /-- Token counters; 05 R150 -/
  toks : Tab (BitVec 16)
  /-- Loop registers; 05 R150 -/
  loops : List LoopSt
  /-- Vector registers; 05 R150 -/
  vregs : Tab (BitVec 32)
  /-- Copied regions: kind GDDR7, start, bytes; 10 R302 -/
  regions : List (Bool × BitVec 64 × List Byte)
deriving DecidableEq, Repr

/-- A tally buffer A or B (R240, R302). -/
structure TallyBuf where
  /-- The commit word is written and counts; 10 R302; reset false -/
  complete : Bool := false
  /-- Tally number n, 32 bits; 10 R302; reset 0 -/
  num : BitVec 32 := 0
  /-- JOB tag of the commit word; 10 R302; reset 0 -/
  job : BitVec 32 := 0
  /-- Time base of the commit word; 10 R302; reset 0 -/
  time : BitVec 64 := 0
  /-- Saved bells; 10 R302; reset none -/
  bells : List (BitVec 13 × Bell) := []
  /-- Saved cores; 10 R302; reset none -/
  cores : List CoreSave := []
deriving DecidableEq, Repr

/-- Tally state of a scope: outside every hamlet, or a hamlet. -/
structure TallyScope where
  /-- Buffer A; 08 R240; reset empty -/
  a : TallyBuf := {}
  /-- Buffer B; 08 R240; reset empty -/
  b : TallyBuf := {}
  /-- The last complete tally is in B; 10 R302; reset false -/
  lastB : Bool := false
  /-- Number of the tally being taken; 10 R302; reset none -/
  taking : Option (BitVec 32) := none
  /-- The enter barrier has released; 10 R302; reset false -/
  entered : Bool := false
  /-- Bytes of the cores' shares so far; 10 R301; reset 0 -/
  share : Nat := 0
  /-- Cores that have arrived at the commit barrier; 10 R302; reset none -/
  copied : List LCoreNo := []
deriving DecidableEq, Repr

/-- The BELL block and the collectives. -/
structure Colls where
  /-- Bells B0000 to B8191; 10 R283; reset 0 -/
  bells : Tab Bell := []
  /-- Tree contexts TC0 to TC63; 10 R293; reset 0 -/
  trees : Tab TreeCtx := []
  /-- Multicast sets MSET0 to MSET63; 10 R286; reset 0 -/
  msets : Tab MSet := []
  /-- Link-port reducer slots; 10 R298; reset none -/
  slots : List RSlot := []
  /-- BELL_CTL.LOCK; 10 R308; reset 0 -/
  lock : Bool := false
  /-- BELL_CTL.RESET_ACCEPT; 10 R308; reset 0 -/
  resetAccept : Bool := false
  /-- BELL_STATUS.LIT, 8 bits; 10 Table 10.10; reset 0 -/
  lit : BitVec 8 := 0
  /-- BELL_STATUS.DROPPED, 8 bits, saturates; 10 Table 10.10; reset 0 -/
  dropped : BitVec 8 := 0
  /-- BELL_STATUS.LATE, 8 bits, saturates; 10 Table 10.10; reset 0 -/
  late : BitVec 8 := 0
  /-- BELL_STATUS.REMOTE_FAIL, 8 bits, saturates; 10 Table 10.10; reset 0 -/
  remoteFail : BitVec 8 := 0
  /-- BELL_TREE, 32 bits; 10 R308; reset 0 -/
  tree : BitVec 32 := 0
  /-- BELL_SEL, 32 bits; 10 R308; reset 0 -/
  sel : BitVec 32 := 0
  /-- T0 of a RESET_AT received; 10 R304; reset none -/
  resetT0 : Option (BitVec 64) := none
  /-- Tally state by scope, key 0 outside every hamlet, 1 + n for HMn; 10 R302; reset none -/
  tallies : Tab TallyScope := []
deriving DecidableEq, Repr

/-! ### The host interface (11) -/

/-- A ring 0 to 255 (R316, R337). -/
structure Ring where
  /-- HST_SQ_BASE, 64 bits; 11 R337; reset 0 -/
  sqBase : BitVec 64 := 0
  /-- HST_CQ_BASE, 64 bits; 11 R337; reset 0 -/
  cqBase : BitVec 64 := 0
  /-- HST_MSG_ADDR, 64 bits; 11 R337; reset 0 -/
  msgAddr : BitVec 64 := 0
  /-- HST_MSG_DATA, 32 bits; 11 R337; reset 0 -/
  msgData : BitVec 32 := 0
  /-- HST_RING_CFG.ENABLE; 11 Table 11.11; reset 0 -/
  enable : Bool := false
  /-- HST_RING_CFG.IRQ_EN; 11 Table 11.11; reset 0 -/
  irqEn : Bool := false
  /-- HST_RING_CFG.PORT; 11 Table 11.11; reset 0 -/
  port : Bool := false
  /-- HST_RING_CFG.VERSION, 4 bits; 11 Table 11.11; reset 0 -/
  version : BitVec 4 := 0
  /-- HST_RING_CFG.CQ, 8 bits; 11 Table 11.11; reset 0 -/
  cq : RingNo := 0
  /-- HST_RING_CFG.SQ_LOG2, 5 bits; 11 Table 11.11; reset 0 -/
  sqLog2 : BitVec 5 := 0
  /-- HST_RING_CFG.CQ_LOG2, 5 bits; 11 Table 11.11; reset 0 -/
  cqLog2 : BitVec 5 := 0
  /-- HST_RING_STATUS.ACTIVE; 11 Table 11.12; reset 0 -/
  active : Bool := false
  /-- HST_RING_STATUS.OWNED and HAMLET; 11 Table 11.12; reset none -/
  owner : Option HamletNo := none
  /-- HST_RING_STATUS.ERR, 3 bits; 11 Table 11.12; reset 0 -/
  err : BitVec 3 := 0
  /-- HST_RING_STATUS.OUTSTANDING, 16 bits; 11 Table 11.12; reset 0 -/
  outstanding : BitVec 16 := 0
  /-- SQ head, HST_RING_IDX.SQ_HEAD, 16 bits; 11 R337; reset 0 -/
  sqHead : BitVec 16 := 0
  /-- SQ tail, 16 bits; 11 R315; reset 0 -/
  sqTail : BitVec 16 := 0
  /-- CQ head, 16 bits; 11 R315; reset 0 -/
  cqHead : BitVec 16 := 0
  /-- CQ tail, HST_RING_IDX.CQ_TAIL, 16 bits; 11 R337; reset 0 -/
  cqTail : BitVec 16 := 0
  /-- CQ phase; 11 R317, R321; reset 0 -/
  phase : Bool := false
  /-- Slots of the CQ reserved for descriptors outstanding; 11 R319; reset 0 -/
  reserved : Nat := 0
  /-- A failed fetch stopped fetching; 11 R314; reset false -/
  stopped : Bool := false
  /-- Latched enable request of R420 with its word; 11 R317; reset none -/
  latched : Option (Option (BitVec 32)) := none
  /-- The substitute port serves the ring; 11 R313; reset false -/
  moved : Bool := false
deriving DecidableEq, Repr

/-- A completion that is ready (Table 11.1). -/
structure Compl where
  /-- STATUS, 7 bits; 11 Table 11.6 -/
  status : BitVec 7
  /-- DETAIL; 11 Table 11.6 -/
  detail : BitVec 32
  /-- RESULT; 11 Table 11.1 -/
  result : BitVec 64
  /-- TIME, when the completion became ready; 11 Table 11.1 -/
  time : BitVec 64
deriving DecidableEq, Repr

/-- A descriptor fetched and not completed (R319). -/
structure Desc where
  /-- Number given at the fetch (the model's own name of it); 11 R319 -/
  id : Nat
  /-- Submission ring; 11 R319 -/
  ring : RingNo
  /-- The 32 words of the entry; 11 R322 -/
  words : List Word32
  /-- Fetch time; 11 R330 -/
  fetched : BitVec 64
  /-- Started; 11 R320 -/
  started : Bool
  /-- Completion ready and not yet written; 11 R329 -/
  ready : Option Compl
  /-- LAUNCH: logical cores not ended yet; 11 R326 -/
  left : List LCoreNo
  /-- LAUNCH: rollbacks; 11 R326, 15 R412 -/
  rollbacks : BitVec 32
  /-- LAUNCH: largest CORE_SLIP_MAX of the cores ended; 11 R326 -/
  slipMax : BitVec 32
  /-- LAUNCH: program image kept for a reload; 15 R412 -/
  image : List Word64
deriving DecidableEq, Repr

/-- The HST block. -/
structure HostIf where
  /-- HST_STATUS.READY; 11 Table 11.10; reset 0 -/
  ready : Bool := false
  /-- HST_STATUS.RESETTING; 11 Table 11.10; reset 0 -/
  resetting : Bool := false
  /-- HST_STATUS.HOST_LOST; 11 Table 11.10; reset 0 -/
  lost : Bool := false
  /-- HST_STATUS.DEGRADED; 11 Table 11.10; reset 0 -/
  degraded : Bool := false
  /-- HST_STATUS.PORT_UP, 2 bits; 11 Table 11.10; reset 0 -/
  portUp : BitVec 2 := 0
  /-- HST_STATUS.DB_IGNORED, 8 bits, saturates; 11 Table 11.10; reset 0 -/
  dbIgnored : BitVec 8 := 0
  /-- HST_CTL.LOCK; 11 R337; reset 0 -/
  lock : Bool := false
  /-- HST_CTL.HB_EN; 11 R337; reset 0 -/
  hbEn : Bool := false
  /-- Last heartbeat, time base; 11 R333; reset 0 -/
  heartbeat : BitVec 64 := 0
  /-- ARM of HST_RESET, time base; 11 R335; reset none -/
  arm : Option (BitVec 64) := none
  /-- Lock lost since, per port, key 0 and 1; 11 R313; reset none -/
  lockLost : Tab (Option (BitVec 64)) := []
  /-- Both ports DOWN since; 11 R313; reset none -/
  downSince : Option (BitVec 64) := none
  /-- Rings 0 to 255; 11 R316; reset 0 -/
  rings : Tab Ring := []
  /-- Descriptors outstanding, in fetch order; 11 R319; reset none -/
  descs : List Desc := []
  /-- End of the last LAUNCH whose completion has been written, by scope, time base; 04 Table 4.11; reset 0 -/
  launchEnd : Tab (BitVec 64) := []
  /-- Next descriptor number (the model's own); 11 R319; reset 0 -/
  nextDesc : Nat := 0
  /-- Ring served last by fetching; 11 R319; reset 0 -/
  lastRing : RingNo := 0
  /-- Entries fetched so far of that ring's host read, 0 to 32; 11 R319; reset 0 -/
  readRun : Nat := 0
  /-- Host writes issued or not acknowledged while both ports are DOWN, oldest first; 11 R313; reset none -/
  held : List Out := []
deriving DecidableEq, Repr

/-! ### Clocking (12) -/

/-- A clock region 0 to 47 (Table 12.10). -/
structure Region where
  /-- CLK_REGION.STATE, 2 bits; 12 Table 12.10; reset 0 OFF -/
  st : BitVec 2 := 0
  /-- CLK_REGION.FREQ_MHZ, 11 bits; 12 Table 12.10; reset 0 -/
  mhz : BitVec 11 := 0
  /-- CLK_REGION.MARGIN, 2 bits; 12 Table 12.10; reset 0 -/
  margin : BitVec 2 := 0
  /-- CLK_REGION.STRETCHES, 16 bits, saturates; 12 Table 12.10; reset 0 -/
  stretches : BitVec 16 := 0
  /-- Frequency-change stop: requested frequency in MHz and start; 12 R349; reset none -/
  change : Option (BitVec 11 × BitVec 64) := none
  /-- Latched frequency request; 12 R350; reset none -/
  latched : Option (BitVec 11) := none
  /-- Calibration of the stop is done; 12 R349; reset false -/
  calDone : Bool := false
  /-- Time of the last CRITICAL margin; 13 R363; reset none -/
  critical : Option (BitVec 64) := none
  /-- Every bound site of the half at OP3 or below since (region of the half's first field); 13 R364; reset none -/
  lowSince : Option (BitVec 64) := none
  /-- Core site stopped with its half: the STATE it returns to, 0 when it is not; 12 R349; reset 0 -/
  inHalf : BitVec 2 := 0
  /-- Core site's own change is carried out in the stop of its half; 12 R350; reset false -/
  joined : Bool := false
deriving DecidableEq, Repr

/-- A crossing (R344). -/
structure Crossing where
  /-- Mode: 0 SYNC, 1 DET, 2 RECAL, 3 failed its calibration; 12 R344, R347; reset 0 -/
  mode : BitVec 2 := 0
  /-- Lc forward, 4 bits; 12 R347; reset 0 -/
  fwd : BitVec 4 := 0
  /-- Lc reverse, 4 bits; 12 R347; reset 0 -/
  rev : BitVec 4 := 0
deriving DecidableEq, Repr

/-- The CLK block. -/
structure Clocks where
  /-- Regions 0 to 47; 12 R338; reset OFF -/
  regions : Tab Region := []
  /-- Crossings: 0 to 39 core–router, 40 to 79 core–granary, 80 + 4 × lintel + link; 12 R344; reset SYNC -/
  crossings : Tab Crossing := []
  /-- CLK_TB_STATUS.LOCKED; 12 Table 12.8; reset 0 -/
  locked : Bool := false
  /-- CLK_TB_STATUS.OFFSET, 16 bits signed; 12 Table 12.8; reset 0 -/
  offset : BitVec 16 := 0
  /-- Consecutive parent updates within 4 ns; 12 R356; reset 0 -/
  good : Nat := 0
  /-- Last parent update, time base; 12 R356; reset 0 -/
  lastUpdate : BitVec 64 := 0
  /-- Correction still to be slewed, in ns; 12 R355; reset 0 -/
  slew : Int := 0
  /-- TB_MASTER_CONFLICT recorded; 12 R356; reset false -/
  conflict : Bool := false
  /-- READY has been reached since the cold power-on; 12 R355; reset false -/
  everReady : Bool := false
  /-- CLK_TB_CTL.LOCK; 12 Table 12.9; reset 0 -/
  lock : Bool := false
  /-- CLK_TB_CTL.MASTER; 12 Table 12.9; reset 0 -/
  master : Bool := false
  /-- CLK_TB_CTL.PARENT_EN; 12 Table 12.9; reset 0 -/
  parentEn : Bool := false
  /-- CLK_TB_CTL.PARENT_LINK, 7 bits; 12 Table 12.9; reset 0 -/
  parentLink : BitVec 7 := 0
  /-- CLK_STATUS.CHANGES, 16 bits, wraps; 12 Table 12.7; reset 0 -/
  changes : BitVec 16 := 0
  /-- CLK_XSTAT failed calibrations, 8 bits, saturates; 12 R358; reset 0 -/
  calFails : BitVec 8 := 0
deriving DecidableEq, Repr

/-! ### Power (13) -/

/-- Core domain states (Table 13.5). -/
inductive DomState where
  | off | wait | ramp | on | failed
deriving DecidableEq, Repr

/-- A power domain 0 to 47. -/
structure Domain where
  /-- PWR_DOM_STATUS.STATE; 13 Table 13.12; reset OFF -/
  st : DomState := .off
  /-- Start of WAIT, time base; 13 R371; reset 0 -/
  since : BitVec 64 := 0
  /-- PWR_DOM_STATUS.PHASE_FAIL, 12 bits; 13 Table 13.12; reset 0 -/
  phases : BitVec 12 := 0
  /-- q_th, 5 bits; 13 R365; reset 16 -/
  qTh : BitVec 5 := 16
  /-- q_imp, 5 bits; 13 R382; reset 16 -/
  qImp : BitVec 5 := 16
  /-- q_adm, 5 bits; 13 R371; reset 16 -/
  qAdm : BitVec 5 := 16
  /-- PWR_DOM_STATUS.CONN, 2 bits; 13 Table 13.12; reset 0 -/
  conn : BitVec 2 := 0
  /-- PWR_DOM_CTL.TEL_MODE; 13 R379; reset 0 -/
  telMode : Bool := false
  /-- PWR_TEL.VALUE, 16 bits; 13 R379; reset 0 -/
  tel : BitVec 16 := 0
  /-- PWR_TEL_TS, 64 bits; 13 R379; reset 0 -/
  telTs : BitVec 64 := 0
  /-- Start of the running telemetry mode, time base; 13 R379; reset 0 -/
  telFrom : BitVec 64 := 0
  /-- PWR_IMP.BASELINE Z0, 16 bits; 13 R386; reset 0 -/
  z0 : BitVec 16 := 0
  /-- PWR_IMP.MEASURED, 16 bits; 13 R386; reset 0 -/
  z : BitVec 16 := 0
  /-- PWR_DOM_V.TEMP, 8 bits; 13 R386; reset 0 -/
  temp : BitVec 8 := 0
  /-- Set voltage without trim and forecast, mV; 13 R361; reset 0 -/
  mv : BitVec 10 := 0
  /-- Margin trim, mV; 13 R363; reset 0 -/
  trim : BitVec 6 := 0
  /-- Thermal OP0 is held; 13 R363; reset false -/
  hot : Bool := false
  /-- Time of the last fall below 100 °C, time base; 13 R363; reset 0 -/
  cool : BitVec 64 := 0
deriving DecidableEq, Repr

/-- A member's last report as the leader holds it (R306, R307). -/
structure Member where
  /-- Budget reported, W; 10 R306 -/
  watts : BitVec 32
  /-- Slack reported, µs; 10 R306 -/
  slack : BitVec 32
  /-- Window of the last REPORT; 10 R307 -/
  window : BitVec 32
deriving DecidableEq, Repr

/-- The PWR block. -/
structure Power where
  /-- PWR_STATUS.IBC_OK, 8 bits; 13 Table 13.10; reset 0 -/
  ibcOk : BitVec 8 := 0
  /-- q_in, 5 bits; PWR_STATUS.INPUT_LOW when 8; 13 R378; reset 16 -/
  qIn : BitVec 5 := 16
  /-- PWR_STATUS.GROUP_ERR; 13 Table 13.10; reset 0 -/
  groupErr : Bool := false
  /-- PWR_STATUS.INPUT_W, 16 bits; 13 Table 13.10; reset 0 -/
  inputW : BitVec 16 := 0
  /-- PWR_CTL.LOCK; 13 Table 13.11; reset 0 -/
  lock : Bool := false
  /-- PWR_CTL.GROUP_EN; 13 Table 13.11; reset 0 -/
  groupEn : Bool := false
  /-- PWR_CTL.LIMIT_W, 16 bits; 13 Table 13.11; reset 10500 (the variant's maximum) -/
  limitW : BitVec 16 := 10500
  /-- PWR_GROUP_TOTAL.TOTAL_W, 20 bits; 13 R386; reset 0 -/
  totalW : BitVec 20 := 0
  /-- PWR_BUDGET.LEADER; 13 R386; reset 0 -/
  leader : Bool := false
  /-- PWR_BUDGET.BUDGET_W, 16 bits; 13 R386; reset 0 -/
  budget : BitVec 16 := 0
  /-- Watts by which TAKEs lowered B in the present 10 µs window; 13 R366; reset 0 -/
  taken : BitVec 16 := 0
  /-- PWR_POOL.POOL_W, 20 bits; 13 R386; reset 0 -/
  pool : BitVec 20 := 0
  /-- PWR_MEMBER_0 to _63: VALID and DEVICE, 12 bits; 13 R386; reset 0 -/
  members : Tab (Bool × BitVec 12) := []
  /-- Device taken as leader; 10 R307; reset 0 -/
  leaderDev : BitVec 12 := 0
  /-- Reports held by the leader, by device; 10 R307; reset none -/
  reports : Tab (Option Member) := []
  /-- GIVEs sent and not acknowledged: device, watts, window; 10 R306; reset none -/
  gives : List (BitVec 12 × BitVec 32 × BitVec 32) := []
  /-- Window of the last exchange in which this device gave as leader; 10 R306; reset none -/
  gave : Option (BitVec 32) := none
  /-- TAKEs sent: device, window; 10 R306; reset none -/
  takes : List (BitVec 12 × BitVec 32) := []
  /-- Last window in which a TAKE was applied; 10 R306; reset none -/
  lastTake : Option (BitVec 32) := none
  /-- Last window in which a GIVE was applied, and the watts applied; 10 R306; reset none -/
  lastGive : Option (BitVec 32 × BitVec 32) := none
  /-- Last window in which the leader was heard; 10 R307; reset 0 -/
  heard : BitVec 32 := 0
  /-- q_pwr, 5 bits; 13 R365; reset 16 -/
  qPwr : BitVec 5 := 16
  /-- Windows in a row at or below 0.95 × B; 13 R365; reset 0 -/
  pwrGood : Nat := 0
  /-- q_ibc by field, 5 bits; 13 R365; reset 16 -/
  qIbc : Tab (BitVec 5) := []
  /-- Windows in a row at or below 1,350 W, by field; 13 R365; reset 0 -/
  ibcGood : Tab Nat := []
  /-- Windows in a row at or below 1,380 W, per field; 13 R371; reset 0 -/
  ibcLow : Tab Nat := []
  /-- Domains 0 to 47; 13 R359; reset OFF -/
  doms : Tab Domain := []
deriving DecidableEq, Repr

/-! ### The interrupt controller (14) -/

/-- Source states (Table 14.3). -/
inductive SrcState where
  | idle | pending | inService | inServicePending
deriving DecidableEq, Repr

/-- An interrupt source (Table 14.6). -/
structure Src where
  /-- State, PENDING and IN_SERVICE; 14 Table 14.3; reset IDLE -/
  st : SrcState
  /-- EN; 14 Table 14.6; reset 1 for groups 0–3 and 12–21, else 0 -/
  en : Bool
  /-- TARGET, 3 bits; 14 Table 14.6; reset Table 14.1, 14.2 -/
  target : BitVec 3
  /-- PRIO, 3 bits; 14 Table 14.6; reset Table 14.2, else 3 -/
  prio : BitVec 3
  /-- MODE, 3 bits; 14 Table 14.6; reset Table 14.2, 0 for lines, 5 for events -/
  mode : BitVec 3
  /-- FILTER, 8 bits; 14 Table 14.6; reset 4 for lines, 0 for events -/
  filter : BitVec 8
  /-- TOKEN, 6 bits; 14 Table 14.6; reset 0 -/
  token : BitVec 6
  /-- Stamp, 64 bits; 14 R392; reset 0 -/
  stamp : BitVec 64
  /-- Filtered line level; 14 R390; reset low, high for active-low pins -/
  line : Bool
deriving DecidableEq, Repr

/-- The IC block. -/
structure IntCtl where
  /-- Sources 0 to 1,022; 14 R387; reset Tables 14.1, 14.2 -/
  srcs : Tab Src := []
  /-- IC_GLOBAL.LOCK; 14 Table 14.5; reset 0 -/
  lock : Bool := false
  /-- IC_GLOBAL.HOLD; 14 Table 14.5; reset 0 -/
  hold : Bool := false
  /-- IC_GLOBAL.SPURIOUS, 8 bits, saturates; 14 Table 14.5; reset 0 -/
  spurious : BitVec 8 := 0
  /-- IC_GLOBAL.DROPPED, 8 bits, saturates; 14 Table 14.5; reset 0 -/
  dropped : BitVec 8 := 0
  /-- IC_STAMP of targets 0 to 2, 64 bits; 14 R401; reset 0 -/
  stamps : Tab (BitVec 64) := []
  /-- IC_TGT.THRESHOLD of targets 0 to 2, 3 bits; 14 R401; reset 0 -/
  thresholds : Tab (BitVec 3) := []
  /-- IC_TGT.SLEEPING of targets 0 to 2; 14 R397, R401; reset false -/
  sleeping : Tab Bool := []
  /-- IC_TGT.LINE of targets 0 to 2, the interrupt line; 14 R395, R401; reset deasserted -/
  lines : Tab Bool := []
  /-- IC_SEQ_MASK, 32 bits; 14 R401; reset 0 -/
  seqMask : BitVec 32 := 0
  /-- IC_GRP.HOLDOFF by group, 16 bits; 14 R401; reset 0 -/
  holdoff : Tab (BitVec 16) := []
  /-- End of a running hold-off interval by group; 14 R398; reset none -/
  holding : Tab (Option (BitVec 64)) := []
deriving DecidableEq, Repr

/-! ### Faults, journal, security, management (06, 15, 16, 17, 19) -/

/-- A fault signature record (Tables 6.3, 6.4). -/
structure FaultRec where
  /-- Record ID, 64 bits; 06 Table 6.3 -/
  id : BitVec 64
  /-- Severity, 2 bits; 06 Table 6.3 -/
  severity : BitVec 2
  /-- CLASS; 06 Table 6.4 -/
  cls : BitVec 16
  /-- OUTCOME; 06 Table 6.4 -/
  outcome : BitVec 8 := 0
  /-- REDACTED; 06 R191 -/
  redacted : Bool := false
  /-- TIME; 06 Table 6.4 -/
  time : BitVec 64
  /-- POWERED; 06 Table 6.4 -/
  powered : BitVec 32
  /-- DEVICE; 06 Table 6.4 -/
  dev : BitVec 12
  /-- IN_HAMLET and HAMLET; 06 Table 6.4 -/
  hamlet : Option HamletNo
  /-- ROLE; 06 Table 6.4 -/
  role : BitVec 2
  /-- SITE; 06 Table 6.4 -/
  site : BitVec 8 := 0
  /-- BOUND and LCORE; 06 Table 6.4 -/
  lcore : Option LCoreNo := none
  /-- ENGINE; 06 Table 6.4 -/
  engine : BitVec 2 := 0
  /-- REPLAY_VALID and REPLAY_ENGINE; 06 Table 6.4 -/
  replay : Option (BitVec 2) := none
  /-- JOB; 06 Table 6.4 -/
  job : BitVec 32 := 0
  /-- BUNDLE; 06 Table 6.4 -/
  bundle : BitVec 16 := 0
  /-- SLOT; 06 Table 6.4 -/
  slot : BitVec 3 := 0
  /-- PAIR; 06 Table 6.4 -/
  pair : BitVec 4 := 0
  /-- SPARSE; 06 Table 6.4 -/
  sparse : Bool := false
  /-- DEST; 06 Table 6.4 -/
  dest : BitVec 3 := 0
  /-- CAP; 06 Table 6.4 -/
  cap : BitVec 5 := 0
  /-- M_MINUS_1; 06 Table 6.4 -/
  m1 : BitVec 13 := 0
  /-- ANCHOR; 06 Table 6.4 -/
  anchor : BitVec 8 := 0
  /-- ROW_FAILS; 06 Table 6.4 -/
  rowFails : BitVec 16 := 0
  /-- COL_FAILS; 06 Table 6.4 -/
  colFails : BitVec 16 := 0
  /-- ROW_VALID and FIRST_ROW; 06 Table 6.4 -/
  firstRow : Option (BitVec 13) := none
  /-- COL_VALID and FIRST_COL; 06 Table 6.4 -/
  firstCol : Option (BitVec 8) := none
  /-- DELTA_LO; 06 Table 6.4 -/
  deltaLo : BitVec 64 := 0
  /-- DELTA_RES; 06 Table 6.4 -/
  deltaRes : BitVec 61 := 0
  /-- REPLAY_LO; 06 Table 6.4 -/
  replayLo : BitVec 64 := 0
  /-- REPLAY_RES; 06 Table 6.4 -/
  replayRes : BitVec 61 := 0
  /-- TOLERANCE; 06 Table 6.4 -/
  tolerance : BitVec 32 := 0
  /-- WEIGHT_CRC; 06 Table 6.4 -/
  weightCrc : BitVec 32 := 0
  /-- ACT_CRC; 06 Table 6.4 -/
  actCrc : BitVec 32 := 0
  /-- ENG_FAULTS; 06 Table 6.4 -/
  engFaults : BitVec 2 := 0
  /-- CHK_FAULTS; 06 Table 6.4 -/
  chkFaults : BitVec 2 := 0
  /-- ROW_SPARES; 06 Table 6.4 -/
  rowSpares : BitVec 2 := 0
  /-- COL_SPARES; 06 Table 6.4 -/
  colSpares : BitVec 2 := 0
  /-- SUSPECT; 06 Table 6.4 -/
  suspect : Bool := false
  /-- RETIRED; 06 Table 6.4 -/
  retired : Bool := false
  /-- DETAIL; 06 Table 6.4 -/
  detail : BitVec 32
  /-- COUNT; 06 Table 6.4 -/
  count : BitVec 32 := 1
  /-- ADDR; 06 Table 6.4 -/
  addr : BitVec 64
  /-- SIG_COLS; 06 Table 6.4 -/
  sigCols : BitVec 32 := 0
deriving DecidableEq, Repr

/-- Phases of a recovery (Table 15.3). -/
inductive RecPhase where
  | stop | stopped | restore | go
deriving DecidableEq, Repr

/-- A job in recovery (R410, R418). -/
structure Recov where
  /-- Scope: none outside every hamlet; 15 R403 -/
  scope : Option HamletNo
  /-- JOB; 15 R403 -/
  job : BitVec 32
  /-- Phase; 15 Table 15.3 -/
  phase : RecPhase
  /-- ATTEMPT, 8 bits; 15 R413 -/
  attempt : BitVec 8
  /-- Start of the phase, time base; 15 R410 -/
  since : BitVec 64
  /-- STOP of the recovery, time base; 15 Table 15.6 -/
  began : BitVec 64
  /-- Class of the first fault; 15 Table 15.6 -/
  cls : BitVec 16
  /-- Lowest tally number of the subtree; 15 R411 -/
  tally : BitVec 32
  /-- The tally is complete in the subtree; 15 R411 -/
  tallyOk : Bool
  /-- A replacement found no spare; 15 R416 -/
  noSpare : Bool
  /-- Replacements to carry out; 15 R418 -/
  replace : List LCoreNo
  /-- Children that have not sent STOPPED; 15 Table 15.3 -/
  waitStopped : List (BitVec 12)
  /-- Children that have not sent READY; 15 Table 15.3 -/
  waitReady : List (BitVec 12)
  /-- The local part of RESTORE has ended; 15 Table 15.3 -/
  localReady : Bool
  /-- Instant of GO; 15 Table 15.3 -/
  goAt : Option (BitVec 64)
deriving DecidableEq, Repr

/-- The fault manager and the FLT block (15). -/
structure Faults where
  /-- Record buffer, 512 records, oldest first; 15 R423; reset empty -/
  buf : List FaultRec := []
  /-- FLT_REC.OVERFLOW, 16 bits, saturates; 15 R425; reset 0 -/
  overflow : BitVec 16 := 0
  /-- Read position by scope (next record ID), key 0 outside every hamlet, 1 + n for HMn; 15 R423; reset 0 -/
  readPos : Tab (BitVec 64) := []
  /-- Next record number, never reused; 06 Table 6.3; reset 0 -/
  nextId : BitVec 64 := 0
  /-- Folded events by class × 2^12 + unit: count, last DETAIL, last ADDR; 06 R188; reset none -/
  folds : Tab (Option (Nat × BitVec 32 × BitVec 64)) := []
  /-- Reports the manager has not responded to, with their stamps, in stamp order; 15 R402; reset none -/
  reports : List (BitVec 64 × Report) := []
  /-- Jobs in recovery; 15 R410; reset none -/
  jobs : List Recov := []
  /-- Starts of recoveries of the last 10 s: scope key, job, time; 15 R419; reset none -/
  begun : List (Nat × BitVec 32 × BitVec 64) := []
  /-- FLT_STATUS.RUNNER: steward B runs the manager; 15 Table 15.9; reset 0 -/
  runnerB : Bool := false
  /-- FLT_STATUS.RECOVERIES, 8 bits, saturates; 15 Table 15.9; reset 0 -/
  recoveries : BitVec 8 := 0
  /-- FLT_STATUS.FAILED_JOBS, 8 bits, saturates; 15 Table 15.9; reset 0 -/
  failedJobs : BitVec 8 := 0
  /-- Polls missed in a row by stewards A and B; 15 R409; reset 0 -/
  missedA : Nat := 0
  /-- Polls missed in a row by steward B; 15 R409; reset 0 -/
  missedB : Nat := 0
  /-- Last restart of the reeve watchdog, time base; 15 R409; reset 0 -/
  watchdog : BitVec 64 := 0
deriving DecidableEq, Repr

/-- A hamlet's life (R442, R443). -/
inductive HamletState where
  | none_ | creating | live | destroying | resetting
deriving DecidableEq, Repr

/-- A hamlet HM0 to HM7 (R442). -/
structure Hamlet where
  /-- State; 16 R442, R443; reset not existing -/
  st : HamletState := .none_
  /-- CONFIDENTIAL; 16 R446; reset 0 -/
  confidential : Bool := false
  /-- HOST_ENC; 16 R440; reset 0 -/
  hostEnc : Bool := false
  /-- CORES, 32 bits; 16 R442; reset 0 -/
  cores : BitVec 32 := 0
  /-- RINGS, 256 bits; 16 R442; reset 0 -/
  rings : BitVec 256 := 0
  /-- LINKS, 96 bits; 16 R442; reset 0 -/
  links : BitVec 96 := 0
  /-- BELL_FIRST, 13 bits; 16 R442; reset 0 -/
  bellFirst : BitVec 13 := 0
  /-- BELL_COUNT, 14 bits; 16 R442; reset 0 -/
  bellCount : BitVec 14 := 0
  /-- PAGE_FIRST, 18 bits; 16 R442; reset 0 -/
  pageFirst : BitVec 18 := 0
  /-- PAGE_COUNT, 18 bits; 16 R442; reset 0 -/
  pageCount : BitVec 18 := 0
  /-- TALLY_PAGES, 16 bits; 16 R442; reset 0 -/
  tallyPages : BitVec 16 := 0
  /-- Memory key held: key number; 16 Table 16.2; reset none -/
  memKey : Option Nat := none
  /-- Host keys held: key number; 16 Table 16.2; reset none -/
  hostKey : Option Nat := none
  /-- Counter C of sealed host blocks, 64 bits; 16 R440; reset 0 -/
  blockCount : BitVec 64 := 0
  /-- Binding, 256 bits; 16 R438; reset 0 -/
  binding : BitVec 256 := 0
  /-- Descriptor of the running hamlet command; 15 R421; reset none -/
  desc : Option Nat := none
  /-- Latched hamlet command: class and descriptor; 15 R420; reset none -/
  latched : Option (BitVec 8 × Nat) := none
  /-- Descriptors absorbed by the running transition; 15 R420, R421; reset none -/
  absorbed : List Nat := []
  /-- Descriptors whose latched command a later one replaced; 15 R420, R421; reset none -/
  replaced : List Nat := []
deriving DecidableEq, Repr

/-- The SEC block and the reeve. -/
structure Sec where
  /-- SEC_STATUS.RECOVERY; 16 Table 16.9; reset 0 -/
  recovery : Bool := false
  /-- SEC_STATUS.DEBUG, 2 bits; 16 Table 16.9; reset 0 -/
  debug : BitVec 2 := 0
  /-- Expiry of the debug unlock, powered seconds; 16 R447; reset 0 -/
  debugUntil : BitVec 32 := 0
  /-- SEC_STATUS.ENTROPY_OK; 16 Table 16.9; reset 0 -/
  entropyOk : Bool := false
  /-- SEC_STATUS.FW_WRITING; 16 Table 16.9; reset 0 -/
  fwWriting : Bool := false
  /-- SEC_MBOX_STATUS.BUSY; 16 R451; reset 0 -/
  busy : Bool := false
  /-- SEC_MBOX_STATUS.STATUS, 3 bits; 16 R451; reset 0 -/
  status : BitVec 3 := 0
  /-- SEC_MBOX_STATUS.OUT_LEN, 17 bits; 16 R451; reset 0 -/
  outLen : BitVec 17 := 0
  /-- SEC_MBOX_LEN, 17 bits; 16 R451; reset 0 -/
  inLen : BitVec 17 := 0
  /-- SEC_MBOX_PAGE, 5 bits; 16 R451; reset 0 -/
  page : BitVec 5 := 0
  /-- Mailbox input, 64 KiB; 16 R449; reset 0 -/
  inBuf : Tab Byte := []
  /-- Mailbox output, 64 KiB; 16 R449; reset 0 -/
  outBuf : Tab Byte := []
  /-- SEC_SVN.IMAGE, 7 bits; 16 R451; reset 0 -/
  imageSvn : BitVec 7 := 0
  /-- Body digest of the running image, 256 bits; 16 R448; reset 0 -/
  fwDigest : BitVec 256 := 0
  /-- COMMIT_SVN of the running image; 16 R429; reset false -/
  commitSvn : Bool := false
  /-- Next leaf index of the identity key, 64 bits; 16 R433; reset 0 -/
  nextLeaf : BitVec 64 := 0
  /-- End of the reserved batch, 64 bits; 16 R433; reset 0 -/
  batchEnd : BitVec 64 := 0
  /-- IDENTITY_EXHAUSTED has been recorded; 16 R433; reset false -/
  exhausted : Bool := false
  /-- The debug challenge outstanding, 256 bits; 16 R447; reset none -/
  challenge : Option (BitVec 256) := none
  /-- DRBG requests since the last reseed; 16 R434; reset 0 -/
  drbgUses : Nat := 0
  /-- Recovery session: 0 HP0, 1 HP1, 2 management port; last command; 16 R430; reset none -/
  session : Option (Fin 3 × BitVec 64) := none
  /-- Flash bytes written by a recovery session, firmware region; 16 R430; reset 0 -/
  fwRegion : Tab Byte := []
  /-- SVN of the image being written by FW_UPDATE; 16 R431; reset none -/
  fwPending : Option (BitVec 7) := none
  /-- Hamlets HM0 to HM7; 16 R442; reset not existing -/
  hamlets : Tab Hamlet := []
deriving DecidableEq, Repr

/-- The journal (R462 to R466). DESIGN CHOICE, log entry 2. -/
structure Journal where
  /-- Sealed records of the active half: SEQUENCE and record, oldest first; 17 R463; reset DESIGN CHOICE one MFG record -/
  recs : List (BitVec 64 × JRec) := [(0, .mfg 0)]
  /-- Records waiting in the write buffer; 17 R466; reset none -/
  buf : List JRec := []
  /-- Next SEQUENCE, 64 bits; 17 R463; reset DESIGN CHOICE 1 -/
  seq : BitVec 64 := 1
  /-- FUSE_JRNL.ACTIVE_HALF; 17 Table 17.9; reset 0 -/
  half : Bool := false
  /-- FUSE_JRNL_GEN, 32 bits; 17 R470; reset 0 -/
  gen : BitVec 32 := 0
  /-- FUSE_JRNL.COMPACTING; 17 Table 17.9; reset 0 -/
  compacting : Bool := false
  /-- FUSE_JRNL.SEALING; 17 Table 17.9; reset 0 -/
  sealing : Bool := false
  /-- KiB sealed by a power-fail seal and not reported; 17 R466; reset none -/
  sealedKib : Option Nat := none
  /-- Bytes programmed in the active half; 17 R465; reset DESIGN CHOICE 64 -/
  fill : Nat := 64
  /-- Fault records not journaled; 17 R466; reset 0 -/
  backlog : Nat := 0
  /-- Field map: unit code × 2^20 + index; 17 R456; reset DESIGN CHOICE none -/
  fieldMap : List Nat := []
  /-- CONFIG BOOT_MODE: quick; 17 R454; reset DESIGN CHOICE false -/
  quick : Bool := false
  /-- CONFIG DEVICE_NUMBER; 17 R461; reset DESIGN CHOICE none -/
  devNum : Option (BitVec 12) := none
  /-- Last CORE_MAP record, site of each logical core; 17 R457; reset DESIGN CHOICE none -/
  coreMap : Tab (Option SiteNo) := []
  /-- REMAP records: key site × 4 + engine, row and column words; 17 Table 17.4; reset none -/
  remaps : Tab (BitVec 32 × BitVec 32) := []
  /-- VERDICT records: site, engine, kind, powered seconds; 17 Table 17.4; reset none -/
  verdicts : List (SiteNo × EngNo × Bool × BitVec 32) := []
  /-- TRAINING records by memory site: rate codes; 17 Table 17.4; reset none -/
  training : Tab (Option (BitVec 12)) := []
  /-- OPCAL baseline Z0 by domain; 17 Table 17.4; reset DESIGN CHOICE 0 -/
  opcal : Tab (BitVec 16) := []
  /-- Last FULLTEST record, powered seconds; 17 R454; reset none -/
  fulltest : Option (BitVec 32) := none
  /-- Cumulative powered seconds, 32 bits; 17 R464; reset 0 -/
  powered : BitVec 32 := 0
  /-- Time base up to which `powered` counts; 06 R182, 17 R464; reset 0 -/
  poweredFrom : BitVec 64 := 0
deriving DecidableEq, Repr

/-- Boot, pins and the management port (17, 19). -/
structure Board where
  /-- The always-on rail is up; 19 R483; reset false -/
  alwaysOn : Bool := false
  /-- The rails other than the always-on rail are up; 19 R483; reset false -/
  rails : Bool := false
  /-- FUSE_BOOT.STAGE, 4 bits; 17 Table 17.8; reset 0 -/
  stage : BitVec 4 := 0
  /-- FUSE_BOOT.KIND, 2 bits; 17 Table 17.8; reset 0 -/
  kind : BitVec 2 := 0
  /-- FUSE_BOOT.SECONDS, 16 bits; 17 Table 17.8; reset 0 -/
  seconds : BitVec 16 := 0
  /-- Pin MODRST_N is recognised low; 19 R490; reset false -/
  modrst : Bool := false
  /-- Pin PWRFAIL_N is recognised low; 19 R485; reset false -/
  pwrfail : Bool := false
  /-- THERMTRIP_N asserted, latched; 19 R489; reset false -/
  thermtrip : Bool := false
  /-- A reeve watchdog warm reset is under way; 19 R489; reset false -/
  wdReset : Bool := false
  /-- The reference is lost; 19 R491; reset false -/
  refLost : Bool := false
  /-- The rails were dropped for the reference; 19 R491; reset false -/
  refDropped : Bool := false
  /-- Last shutdown cause, sensor 12; 19 Table 19.10; reset 0 -/
  cause : BitVec 3 := 0
  /-- Input below 40 V or absent since the last cold power-on; 19 Table 19.3; reset true -/
  armed : Bool := true
  /-- A cold power-on is held after step 1 with its input and results; 19 R486, R490; reset none -/
  held : Option StartObs := none
  /-- A warm reset is requested and its bring-up has not run; 11 R335; reset false -/
  resetDue : Bool := false
  /-- Endpoint ID, 8 bits; 17 R467; reset 0 -/
  eid : Byte := 0
  /-- A management message is being assembled since; 17 R468; reset none -/
  assembling : Option (BitVec 64) := none
  /-- A response waits for the bus owner since; 17 R468; reset none -/
  response : Option (BitVec 64 × List Byte) := none
  /-- Sensor readings 1 to 12, none before the first reading; 19 Table 19.10; reset none -/
  sensors : Tab (Option Int) := []
deriving DecidableEq, Repr

/-- The state of the Carnath. -/
structure State where
  /-- Fuses; 17 R470 -/
  fuses : Fuses := {}
  /-- ID block; 18 R479 -/
  id : IdBlock := {}
  /-- Pair shadows, key accessor × 2^28 + offset; 00 R11; reset none -/
  shadows : Tab (Option Word32) := []
  /-- Held _LO writes, key accessor × 2^28 + offset; 00 R11; reset none -/
  helds : Tab (Option Word32) := []
  /-- Time base, 64 bits; 12 R353; reset 0 -/
  tb : Word64 := 0
  /-- N, devices of a group, 2 to 16, fixed by the cabling; 09 section 9.6; reset DESIGN CHOICE 16 -/
  groupN : Nat := 16
  /-- H, groups of the system, 1 to 256, fixed by the cabling; 09 section 9.6; reset DESIGN CHOICE 256 -/
  groupH : Nat := 256
  /-- Groups whose devices have 64 links, 256 bits, fixed by the cabling; 09 R272, R274; reset DESIGN CHOICE 0 -/
  groupNarrow : BitVec 256 := 0
  /-- Role: 0 PREFILL, 1 DECODE, 2 CACHE, 3 GENERAL; 01 R27; reset 3 -/
  role : BitVec 2 := 3
  /-- Core map: site of each logical core; 01 R22; reset unbound -/
  coreMap : Tab (Option SiteNo) := []
  /-- Core sites C00 to C39; 04; reset as Site -/
  sites : Tab Site := []
  /-- Fabric; 07 -/
  fab : Fabric := {}
  /-- Memory; 08 -/
  mem : MemSys := {}
  /-- Links G00 to G95; 09; reset ABSENT -/
  links : Tab Link := []
  /-- Bells and collectives; 10 -/
  coll : Colls := {}
  /-- Host interface; 11 -/
  host : HostIf := {}
  /-- Clocks; 12 -/
  clk : Clocks := {}
  /-- Power; 13 -/
  pwr : Power := {}
  /-- Interrupt controller; 14 -/
  ic : IntCtl := {}
  /-- Fault manager; 15 -/
  flt : Faults := {}
  /-- Security; 16 -/
  sec : Sec := {}
  /-- Journal; 17 -/
  jrnl : Journal := {}
  /-- Board: boot, pins, management port; 17, 19 -/
  board : Board := {}
  /-- MODEL'S OWN: number of free values drawn; reset DESIGN CHOICE 0 -/
  free : Nat := 0
  /-- MODEL'S OWN: what the block has sent, oldest first; reset empty -/
  out : List Out := []
  /-- MODEL'S OWN: commands waiting, first in first out; reset empty -/
  pending : List Instr := []
deriving DecidableEq, Repr

/-- The machine right after reset: the module unpowered, every register at its reset value. -/
def State.reset : State := {}

/-- Why the machine stops. No rule of the spec stops the block, so no meaning raises a fault. -/
inductive Fault where
  /-- No command of this block faults: raised by no meaning; safe. -/
  | none_
deriving DecidableEq, Repr

/-- Why a command is refused. -/
inductive Refusal where
  /-- A command whose meaning is not written: raised by exec's arm of that command; safe. -/
  | notModelled (mnemonic : String)
deriving DecidableEq, Repr

end Sys2Proof.Machine
end

