-- ==== Sys2Proof/Config.lean ====
section
/-!
DEFINITION. Config.lean: what the spec leaves open, as constants with no body. Nothing can be proved of
their values. A free value is one of the constants below applied to the number of free values drawn so
far (State.free), or to the operands the value depends on.
-/

namespace Sys2Proof.Config

/-- A byte the spec does not state; log entry 3. -/
opaque freeByte : Nat → Byte

/-- A 32-bit word the spec does not state; log entry 3. -/
opaque freeWord : Nat → BitVec 32

/-- A 64-bit word the spec does not state; log entry 3. -/
opaque freeDword : Nat → BitVec 64

/-- A special function's result (VSFU code, operand) inside the error bound of R92; log entry 4. -/
opaque sfu : BitVec 4 → BitVec 32 → BitVec 32

/-- Minimum (false) or maximum (true) of two binary32 words where one is a NaN or both are zeros of two
signs; log entry 4. -/
opaque fpPick : Bool → BitVec 32 → BitVec 32 → BitVec 32

/-- The code of a quantised element or micro-scale whose per-tensor scale is zero or not finite; log
entry 4. -/
opaque quantCode : Nat → Int → Nat

/-- SHAKE256 cut to 256 bits (R428, R438, R448); log entry 5. -/
opaque shake256 : List Byte → BitVec 256

/-- The identity signature under a leaf index (R432); log entry 5. -/
opaque sign : Nat → List Byte → List Byte

/-- The ML-KEM-1024 ciphertext for an encapsulation key, 1,568 bytes by index (R439); log entry 5. -/
opaque kemByte : BitVec 256 → Nat → Nat → Byte

/-- The identity certificate the flash holds (R432); log entry 5. -/
opaque certificate : List Byte

/-- The output of the DRBG at a draw (R434); log entry 5. -/
opaque drbg : Nat → BitVec 256

/-- A byte of a page read without the key it was written under (R436): key number, page-map address;
log entry 5. -/
opaque cipherByte : Nat → Nat → Byte

/-- A byte of a sealed host block: key number, counter C, index within the block, plaintext (R440);
log entry 5. -/
opaque sealByte : Nat → Nat → Nat → List Byte → Byte

/-- The AES-256-GCM key of one direction (true sends) of a link that a shared secret gives (R262, R271); log entry 5. -/
opaque linkKey : Nat → Bool → BitVec 256

/-- The salt of one direction of a link that a shared secret gives (R262, R271); log entry 5. -/
opaque linkSalt : Nat → Bool → BitVec 32

/-- The AES-256-GCM tag for a key, an initialisation vector, a plaintext and additional data (R262); log entry 5. -/
opaque gcmTag : BitVec 256 → BitVec 96 → List Byte → List Byte → BitVec 128

/-- The image of an exported tally, whose layout is private (R327); log entry 6. -/
opaque tallyImage : Machine.TallyBuf → List Byte

/-- The tally an image holds, none for bytes that are no image (R327); log entry 6. -/
opaque tallyParse : List Byte → Option Machine.TallyBuf

end Sys2Proof.Config
end

