-- ==== Sys2Proof/Machine/Tab.lean ====
section
/-!
DEFINITION. Machine/Tab.lean: reading and writing a sparse store. A store is in canonical form when its
keys rise strictly and no entry equals what an unlisted key holds, so equal stores are equal data.
-/

namespace Sys2Proof.Machine

/-- What key k holds; d is what an unlisted key holds. -/
def tget {α : Type} (d : Nat → α) : Tab α → Nat → α
  | [], k => d k
  | (j, v) :: t, k => if j = k then v else tget d t k

/-- The store without key k. -/
def tdel {α : Type} : Tab α → Nat → Tab α
  | [], _ => []
  | (j, v) :: t, k => if j = k then tdel t k else (j, v) :: tdel t k

/-- The store with key k listed as v, in key order. -/
def tins {α : Type} : Tab α → Nat → α → Tab α
  | [], k, v => [(k, v)]
  | (j, w) :: t, k, v =>
    if k < j then (k, v) :: (j, w) :: t
    else if j = k then (k, v) :: t
    else (j, w) :: tins t k v

/-- Key k takes v. -/
def tset {α : Type} [DecidableEq α] (d : Nat → α) (t : Tab α) (k : Nat) (v : α) : Tab α :=
  if v = d k then tdel t k else tins t k v

/-- Keys rise strictly, from a lower bound. -/
def tsorted {α : Type} : Nat → Tab α → Bool
  | _, [] => true
  | lo, (j, _) :: t => decide (lo ≤ j) && tsorted (j + 1) t

/-- The canonical form. -/
def twf {α : Type} [DecidableEq α] (d : Nat → α) (t : Tab α) : Bool :=
  tsorted 0 t && t.all fun p => decide (p.2 ≠ d p.1)

/-- The bytes at k, k + 1, … k + n − 1. -/
def tbytes (d : Nat → Byte) (t : Tab Byte) (k : Nat) : Nat → List Byte
  | 0 => []
  | n + 1 => tget d t k :: tbytes d t (k + 1) n

/-- Write bytes from key k upwards. -/
def tput (d : Nat → Byte) (t : Tab Byte) (k : Nat) : List Byte → Tab Byte
  | [] => t
  | b :: bs => tput d (tset d t k b) (k + 1) bs

/-- The canonical form of a byte memory. -/
def Memory.wf (d : Nat → Byte) (m : Tab Byte) : Bool := twf d m

end Sys2Proof.Machine
end

