-- ==== Sys2Proof/Machine/Bits.lean ====
section
/-!
DEFINITION. Machine/Bits.lean: counters that saturate, bit tests and byte order.
-/

namespace Sys2Proof.Machine

/-- A saturating counter plus 1 (R15). -/
def satInc {w : Nat} (v : BitVec w) : BitVec w := if v = BitVec.allOnes w then v else v + 1

/-- A saturating counter plus n (R15). -/
def satAdd {w : Nat} (v : BitVec w) (n : Nat) : BitVec w :=
  if 2 ^ w ≤ v.toNat + n then BitVec.allOnes w else BitVec.ofNat w (v.toNat + n)

/-- A number cut off at the maximum of w bits (R15). -/
def satNat (w n : Nat) : BitVec w := if 2 ^ w ≤ n then BitVec.allOnes w else BitVec.ofNat w n

/-- A Bool as one bit. -/
def b1 (b : Bool) : BitVec 1 := if b then 1 else 0

/-- A Bool as 32 bits, shifted to bit n. -/
def bitAt (b : Bool) (n : Nat) : Word32 := if b then (1 : Word32) <<< n else 0

/-- A field placed with its lowest bit at bit n. -/
def fieldAt {w : Nat} (v : BitVec w) (n : Nat) : Word32 := (v.setWidth 32) <<< n

/-- Bit n set or cleared. -/
def setBit {w : Nat} (v : BitVec w) (n : Nat) (b : Bool) : BitVec w :=
  if b then v ||| (1 : BitVec w) <<< n else v &&& ~~~((1 : BitVec w) <<< n)

/-- The bits that are 1, lowest first. -/
def bitsOf {w : Nat} (v : BitVec w) : List Nat := (List.range w).filter fun i => v.getLsbD i

/-- The number of bits that are 1. -/
def popCount {w : Nat} (v : BitVec w) : Nat := (bitsOf v).length

/-- Bytes of a number, lowest first (R9). -/
def leBytes : Nat → Nat → List Byte
  | 0, _ => []
  | n + 1, v => BitVec.ofNat 8 v :: leBytes n (v / 256)

/-- The number that bytes spell, lowest first (R9). -/
def leNat : List Byte → Nat
  | [] => 0
  | b :: bs => b.toNat + 256 * leNat bs

/-- n bytes of zero. -/
def zeros (n : Nat) : List Byte := List.replicate n 0

/-- Word i of a list of words, 0 beyond its end. -/
def wordAt (ws : List Word32) (i : Nat) : Word32 := ws.getD i 0

/-- The 64-bit value in words i and i + 1 (R9). -/
def dwordAt (ws : List Word32) (i : Nat) : Word64 := wordAt ws (i + 1) ++ wordAt ws i

/-- The hamlet tag of a packet (Table 7.2). DEDUCED, log entry 26. -/
def tagOf (owned : Bool) (h : HamletNo) : Option HamletNo := if owned then some h else none

/-- Minimum of 5-bit caps. -/
def min5 (a b : BitVec 5) : BitVec 5 := if a ≤ b then a else b

/-- Number p is in the half-open window [a, a + n) of time-base ticks (R400). -/
def inWindow (a : Word64) (n : Nat) (p : Word64) : Bool :=
  decide (a.toNat ≤ p.toNat) && decide (p.toNat < a.toNat + n)

/-- The window [a, a + n) has ended at p (R400). -/
def windowOver (a : Word64) (n : Nat) (p : Word64) : Bool := decide (a.toNat + n ≤ p.toNat)

/-- CRC-32C (polynomial 0x1EDC6F41 reflected), one byte. -/
def crcByte (c : BitVec 32) (b : Byte) : BitVec 32 :=
  (List.range 8).foldl (fun x _ => if x.getLsbD 0 then (x >>> 1) ^^^ 0x82F63B78 else x >>> 1)
    (c ^^^ b.setWidth 32)

/-- CRC-32C of bytes (Table 6.4). -/
def crc32c (bs : List Byte) : BitVec 32 := ~~~(bs.foldl crcByte (BitVec.allOnes 32))

end Sys2Proof.Machine
end

