-- ==== Sys2Proof/Machine/Num.lean ====
section
/-!
DEFINITION. Machine/Num.lean: number formats, exact products, the accumulator window, rounding and wide
partial sums (02_arithmetic.md), and the vector unit's binary32 arithmetic (R52, R89).
-/

namespace Sys2Proof.Machine

/-! ### Values and formats -/

/-- What an encoding stands for: ± m × 2^e exactly, an infinity, or NaN (R31, R32). -/
inductive Val where
  | fin (neg : Bool) (m : Nat) (e : Int)
  | inf (neg : Bool)
  | nan
deriving DecidableEq, Repr

/-- The element and output formats (Table 2.2). -/
inductive Fmt where
  | e2m1 | e2m3 | e3m2 | e4m3 | e5m2 | int8 | mxint8 | bf16 | fp32
deriving DecidableEq, Repr

/-- Width in bits (Table 2.2). -/
def Fmt.width : Fmt → Nat
  | .e2m1 => 4
  | .e2m3 => 6
  | .e3m2 => 6
  | .e4m3 => 8
  | .e5m2 => 8
  | .int8 => 8
  | .mxint8 => 8
  | .bf16 => 16
  | .fp32 => 32

/-- Fraction bits of the floating-point formats (Table 2.2). -/
def Fmt.mbits : Fmt → Nat
  | .e2m1 => 1
  | .e2m3 => 3
  | .e3m2 => 2
  | .e4m3 => 3
  | .e5m2 => 2
  | .bf16 => 7
  | .fp32 => 23
  | _ => 0

/-- Exponent bias (Table 2.2). -/
def Fmt.bias : Fmt → Nat
  | .e2m1 => 1
  | .e2m3 => 1
  | .e3m2 => 3
  | .e4m3 => 7
  | .e5m2 => 15
  | .bf16 => 127
  | .fp32 => 127
  | _ => 0

/-- Code of the largest finite value without its sign (Table 2.2). -/
def Fmt.maxCode : Fmt → Nat
  | .e2m1 => 7
  | .e2m3 => 0x1F
  | .e3m2 => 0x1F
  | .e4m3 => 0x7E
  | .e5m2 => 0x7B
  | .bf16 => 0x7F7F
  | .fp32 => 0x7F7FFFFF
  | _ => 127

/-- Exponent of the largest normal value, the element format's largest exponent of R52. -/
def Fmt.emax : Fmt → Int
  | .e2m1 => 2
  | .e2m3 => 2
  | .e3m2 => 4
  | .e4m3 => 8
  | .e5m2 => 15
  | .bf16 => 127
  | .fp32 => 127
  | .int8 => 6
  | .mxint8 => 0

/-- The canonical NaN (R51). -/
def Fmt.nanCode : Fmt → Nat
  | .fp32 => 0x7FC00000
  | .bf16 => 0x7FC0
  | .e4m3 => 0x7F
  | .e5m2 => 0x7F
  | _ => 0

/-- The integer formats. -/
def Fmt.isInt : Fmt → Bool
  | .int8 => true
  | .mxint8 => true
  | _ => false

/-- The formats with neither Inf nor NaN of R497. -/
def Fmt.noSpecial : Fmt → Bool
  | .e2m1 => true
  | .e2m3 => true
  | .e3m2 => true
  | .mxint8 => true
  | _ => false

/-- The formats whose highest exponent holds Inf and NaN (Table 2.2). -/
def Fmt.ieee : Fmt → Bool
  | .e5m2 => true
  | .bf16 => true
  | .fp32 => true
  | _ => false

/-- Value of an encoding (R31). -/
def Fmt.decode (f : Fmt) (code : Nat) : Val :=
  let neg := code.testBit (f.width - 1)
  if f.isInt then
    let e : Int := if f = .mxint8 then -6 else 0
    .fin neg (if neg then 256 - code % 256 else code % 256) e
  else
    let mag := code % 2 ^ (f.width - 1)
    let ex := mag / 2 ^ f.mbits
    let m := mag % 2 ^ f.mbits
    if f.ieee && decide (ex = 2 ^ (f.width - 1 - f.mbits) - 1) then
      if m = 0 then .inf neg else .nan
    else if f = .e4m3 ∧ mag = 0x7F then .nan
    else if ex = 0 then .fin neg m (1 - f.bias - f.mbits)
    else .fin neg (2 ^ f.mbits + m) ((ex : Int) - f.bias - f.mbits)

/-- Value of an E8M0 scale code (R34). -/
def e8m0 (c : Nat) : Val := if c % 256 = 255 then .nan else .fin false 1 ((c % 256 : Nat) - 127)

/-- The scale 1.0. -/
def Val.one : Val := .fin false 1 0

/-- The value is zero. -/
def Val.isZero : Val → Bool
  | .fin _ m _ => decide (m = 0)
  | _ => false

/-- The sign. -/
def Val.neg : Val → Bool
  | .fin n _ _ => n
  | .inf n => n
  | .nan => false

/-- An exact product of two factors; a special factor makes it special (R47). -/
def Val.mul : Val → Val → Val
  | .nan, _ => .nan
  | _, .nan => .nan
  | .inf a, .inf b => .inf (xor a b)
  | .inf a, .fin b m _ => if m = 0 then .nan else .inf (xor a b)
  | .fin a m _, .inf b => if m = 0 then .nan else .inf (xor a b)
  | .fin a m e, .fin b n f => .fin (xor a b) (m * n) (e + f)

/-! ### Rounding (R49, R50) -/

/-- floor(log2(n / d)) for positive n and d. -/
def ilog2 (n d : Nat) : Int :=
  let k : Int := (Nat.log2 n : Int) - Nat.log2 d
  if decide (d * 2 ^ k.toNat ≤ n * 2 ^ (-k).toNat) then k else k - 1

/-- n / d rounded to a whole number: to nearest even, or toward zero (R49). -/
def divRound (rne : Bool) (n d : Nat) : Nat :=
  let q := n / d
  let r := n % d
  if rne && (decide (d < 2 * r) || (decide (2 * r = d) && decide (q % 2 = 1))) then q + 1 else q

/-- n / d × 2^sh rounded to a whole number. -/
def shiftRound (rne : Bool) (n d : Nat) (sh : Int) : Nat :=
  divRound rne (n * 2 ^ sh.toNat) (d * 2 ^ (-sh).toNat)

/-- The code, without sign and with an unbounded exponent, of n / d × 2^e in a floating-point format,
with gradual underflow (R49). -/
def Fmt.roundCode (f : Fmt) (rne : Bool) (n d : Nat) (e : Int) : Nat :=
  if n = 0 then 0
  else
    let emin : Int := 1 - f.bias
    let ex := max (ilog2 n d + e) emin
    (ex - emin).toNat * 2 ^ f.mbits + shiftRound rne n d (e - (ex - f.mbits))

/-- A converted value: its code, whether it overflowed and whether it is a NaN. -/
structure Conv where
  code : Nat
  sat : Bool
  nan : Bool
deriving DecidableEq, Repr

/-- A code with its sign. -/
def Fmt.signed (f : Fmt) (neg : Bool) (code : Nat) : Nat :=
  if neg then 2 ^ (f.width - 1) + code else code

/-- A finite ± n / d × 2^e converted to an output format (R49, R50, R497). Table 2.5 has no row for an MXINT8
element: it overflows when its rounded magnitude exceeds 127 × 2^−6. DEDUCED, log entry 20. -/
def Fmt.convFin (f : Fmt) (rne nonsat neg : Bool) (n d : Nat) (e : Int) : Conv :=
  if n = 0 then ⟨0, false, false⟩
  else if f.isInt then
    let r := shiftRound rne n d (if f = .mxint8 then e + 6 else e)
    if neg then
      if f = .mxint8 then (if 127 < r then ⟨129, true, false⟩ else ⟨(256 - r) % 256, false, false⟩)
      else if 128 < r then ⟨128, true, false⟩ else ⟨(256 - r) % 256, false, false⟩
    else if 127 < r then ⟨127, true, false⟩ else ⟨r, false, false⟩
  else
    let c := f.roundCode rne n d e
    if c ≤ f.maxCode then ⟨f.signed neg c, false, false⟩
    else
      match f with
      | .fp32 => ⟨f.signed neg (if rne then 0x7F800000 else f.maxCode), true, false⟩
      | .bf16 => ⟨f.signed neg (if rne then 0x7F80 else f.maxCode), true, false⟩
      | .e4m3 => if nonsat then ⟨0x7F, true, true⟩ else ⟨f.signed neg f.maxCode, true, false⟩
      | .e5m2 => if nonsat then ⟨f.signed neg 0x7C, true, false⟩ else ⟨f.signed neg f.maxCode, true, false⟩
      | _ => ⟨f.signed neg f.maxCode, true, false⟩

/-- An infinity converted (Table 2.6, R497). -/
def Fmt.convInf (f : Fmt) (nonsat neg : Bool) : Conv :=
  match f with
  | .fp32 => ⟨f.signed neg 0x7F800000, false, false⟩
  | .bf16 => ⟨f.signed neg 0x7F80, false, false⟩
  | .e4m3 => if nonsat then ⟨0x7F, false, true⟩ else ⟨f.signed neg 0x7E, false, false⟩
  | .e5m2 => ⟨f.signed neg 0x7C, false, false⟩
  | .int8 => ⟨if neg then 128 else 127, false, false⟩
  | .mxint8 => ⟨if neg then 129 else 127, true, false⟩
  | _ => ⟨f.signed neg f.maxCode, true, false⟩

/-- A NaN converted (Table 2.6, R497): INT8 and the element formats take 0. DEDUCED, log entry 23. -/
def Fmt.convNan (f : Fmt) : Conv := ⟨f.nanCode, false, decide (f.nanCode ≠ 0)⟩

/-- A value converted with no per-tensor scale (R52). -/
def Fmt.conv (f : Fmt) (rne nonsat : Bool) : Val → Conv
  | .fin neg m e => f.convFin rne nonsat neg m 1 e
  | .inf neg => f.convInf nonsat neg
  | .nan => f.convNan

/-! ### The accumulator window (R38 to R48) -/

/-- Exponent of bit 0 of a word with anchor code a (R38). -/
def anchorExp (a : BitVec 8) : Int := 4 * (a.toNat : Int) - 512

/-- Combination of special states (Table 2.4). -/
def combineSpecial (a b : BitVec 2) : BitVec 2 :=
  if a = 0 then b else if b = 0 then a else if a = b then a else 3

/-- A magnitude m × 2^e placed in units of 2^A, truncated toward zero, and whether a nonzero bit was
discarded (R42). -/
def placeMag (m : Nat) (e a : Int) : Nat × Bool :=
  let sh := e - a
  let n := m * 2 ^ sh.toNat
  let d := 2 ^ (-sh).toNat
  (n / d, decide (n % d ≠ 0))

/-- A word takes one product (R42, R43, R47, R48). -/
def AccWordPlace (x : BitVec 128) (special : BitVec 2) (flush : Nat) (a : Int) :
    Val → BitVec 128 × BitVec 2 × Nat
  | .nan => (x, combineSpecial special 3, flush)
  | .inf neg => (x, combineSpecial special (if neg then 2 else 1), flush)
  | .fin neg m e =>
    let p := placeMag m e a
    let v := BitVec.ofNat 128 p.1
    (if neg then x - v else x + v, special, if p.2 then flush + 1 else flush)

/-! ### Exact sums of operands (R164, R165) -/

/-- The value m × 2^e as a pair; a value that is not finite counts as 0 (R166). -/
def dyOf : Val → Int × Int
  | .fin neg m e => (if neg then -(m : Int) else m, e)
  | _ => (0, 0)

/-- An exact sum. -/
def dyAdd (a b : Int × Int) : Int × Int :=
  let g := min a.2 b.2
  (a.1 * 2 ^ (a.2 - g).toNat + b.1 * 2 ^ (b.2 - g).toNat, g)

/-- An exact product. -/
def dyMul (a b : Int × Int) : Int × Int := (a.1 * b.1, a.2 + b.2)

/-- Products placed in units of 2^A, each truncated toward zero, and how many lost a nonzero bit (R42, R164). -/
def placeSum (a : Int) (ps : List (Int × Int)) : Int × Nat :=
  ps.foldl (fun w p =>
    let q := placeMag p.1.natAbs p.2 a
    (w.1 + (if p.1 < 0 then -(q.1 : Int) else q.1), if q.2 then w.2 + 1 else w.2)) (0, 0)

/-- The contribution of a list of products to a word: integer, special state, flush count (R42). -/
def sumProducts (a : Int) (ps : List Val) : BitVec 128 × BitVec 2 × Nat :=
  ps.foldl (fun w p => AccWordPlace w.1 w.2.1 w.2.2 a p) (0, 0, 0)

/-- The special state a word converts with, once per-tensor scales are applied (R51): none when the word
rounds. -/
def effState (special : BitVec 2) (x : Int) (c1 c2 : Val) : Option (Option Bool) :=
  let w : Val := match special.toNat with
    | 1 => .inf false
    | 2 => .inf true
    | 3 => .nan
    | _ => .fin (decide (x < 0)) x.natAbs 0
  match (w.mul c1).mul c2 with
  | .nan => some none
  | .inf neg => some (some neg)
  | .fin _ _ _ => none

/-- A word X × 2^A with its special state, scaled by c1 and c2, converted (R49, R51). -/
def Fmt.convWord (f : Fmt) (rne nonsat : Bool) (x : BitVec 128) (special : BitVec 2) (a : BitVec 8)
    (c1 c2 : Val) : Conv :=
  match effState special x.toInt c1 c2 with
  | some none => f.convNan
  | some (some neg) => f.convInf nonsat neg
  | none =>
    match ((Val.fin (decide (x.toInt < 0)) x.toInt.natAbs (anchorExp a)).mul c1).mul c2 with
    | .fin neg m e => f.convFin rne nonsat neg m 1 e
    | _ => f.convNan

/-- MSBmax of a pairing with all scales 1.0 (Table 2.3), for PAIR codes of Table 5.9; INT8 with MX is
MXINT8. -/
def pairMsb (pair : BitVec 4) (mx : Bool) : Int :=
  match pair.toNat with
  | 0 => 11
  | 1 => 18
  | 2 => 11
  | 3 => 18
  | 4 => 13
  | 5 => 20
  | 6 => 17
  | 7 => 24
  | 8 => 24
  | 9 => 31
  | 10 => if mx then 2 else 14
  | _ => 255

/-- The scale exponent of a block: none for a NaN scale or a zero micro-scale (R34, R36, R40). -/
def scaleExp : Val → Option Int
  | .fin _ m e => if m = 0 then none else some (ilog2 m 1 + e)
  | _ => none

/-- Largest scale exponent of a side, 0 when no block has a usable scale (R40). -/
def sideMax (scales : List Val) : Int :=
  match scales.filterMap scaleExp with
  | [] => 0
  | e :: es => es.foldl max e

/-- The AUTO anchor code for a top exponent (R40). -/
def autoAnchor (top : Int) : BitVec 8 :=
  let a := top - 95
  let r := if a % 4 = 0 then a else a + (4 - a % 4)
  BitVec.ofInt 8 ((r + 512) / 4)

/-- The anchor check of R41: the products could leave the window. -/
def anchorExceeds (etop : Int) (a : BitVec 8) : Bool := decide (anchorExp a + 95 < etop)

/-! ### Wide partial sums (R54 to R56) -/

/-- A WPS block: 16 integers and the 64-bit tag (R54). -/
structure Wps where
  xs : List (BitVec 128)
  tag : BitVec 64
deriving DecidableEq, Repr

/-- ANCHOR of a tag (Table 2.7). -/
def tagAnchor (t : BitVec 64) : BitVec 8 := t.extractLsb' 0 8

/-- Special state of word j (Table 2.7). -/
def tagSpecial (t : BitVec 64) (j : Nat) : BitVec 2 := t.extractLsb' (16 + 2 * j) 2

/-- FLUSH_SUM of a tag (Table 2.7). -/
def tagFlush (t : BitVec 64) : BitVec 16 := t.extractLsb' 48 16

/-- A tag of its fields, reserved bits 0 (Table 2.7). -/
def mkTag (flush : BitVec 16) (sp : List (BitVec 2)) (a : BitVec 8) : BitVec 64 :=
  let s : Nat := sp.foldr (fun v acc => v.toNat + 4 * acc) 0
  BitVec.ofNat 64 (flush.toNat * 2 ^ 48 + s % 2 ^ 32 * 65536 + a.toNat)

/-- The special states of a block's 16 words. -/
def tagSpecials (t : BitVec 64) : List (BitVec 2) := (List.range 16).map (tagSpecial t)

/-- Two tags with equal anchors added (R55). -/
def addTags (a b : BitVec 64) : BitVec 64 :=
  mkTag (satAdd (tagFlush a) (tagFlush b).toNat)
    (List.zipWith combineSpecial (tagSpecials a) (tagSpecials b)) (tagAnchor a)

/-- Two blocks added, none when their anchors differ (R55). -/
def Wps.add (a b : Wps) : Option Wps :=
  if tagAnchor a.tag = tagAnchor b.tag then
    some { xs := List.zipWith (· + ·) a.xs b.xs, tag := addTags a.tag b.tag }
  else none

/-- An integer shifted right with truncation toward zero, and whether a nonzero bit was lost (R56). -/
def shiftTrunc (x : BitVec 128) (n : Nat) : BitVec 128 × Bool :=
  let m := x.toInt.natAbs
  let q := m / 2 ^ n
  (if x.toInt < 0 then -BitVec.ofNat 128 q else BitVec.ofNat 128 q, decide (m % 2 ^ n ≠ 0))

/-- A block re-anchored to code a, none for a lower code (R56). -/
def Wps.reanchor (w : Wps) (a : BitVec 8) : Option Wps :=
  if a < tagAnchor w.tag then none
  else
    let n := 4 * (a.toNat - (tagAnchor w.tag).toNat)
    let rs := w.xs.map fun x => shiftTrunc x n
    some { xs := rs.map (·.1),
           tag := mkTag (satAdd (tagFlush w.tag) (rs.filter (·.2)).length) (tagSpecials w.tag) a }

/-- The 264 bytes of a block (R54). -/
def Wps.bytes (w : Wps) : List Byte :=
  (w.xs.flatMap fun x => leBytes 16 x.toNat) ++ leBytes 8 w.tag.toNat

/-- A block read from bytes (R54). -/
def wpsOf (bs : List Byte) : Wps :=
  { xs := (List.range 16).map fun j => BitVec.ofNat 128 (leNat ((bs.drop (16 * j)).take 16)),
    tag := BitVec.ofNat 64 (leNat ((bs.drop 256).take 8)) }

/-! ### Binary32 arithmetic (R52, R57, R89) -/

/-- Value of a binary32 word. -/
def fp (w : BitVec 32) : Val := Fmt.fp32.decode w.toNat

/-- The canonical NaN (R51, R89). -/
def fpNan : BitVec 32 := 0x7FC00000

/-- A binary32 zero with a sign. -/
def fpZero (neg : Bool) : BitVec 32 := if neg then 0x80000000 else 0

/-- ± m × 2^e rounded to binary32, keeping the sign of a zero (R89). -/
def fpRound (neg : Bool) (m : Nat) (e : Int) : BitVec 32 :=
  if m = 0 then fpZero neg else BitVec.ofNat 32 (Fmt.fp32.convFin true false neg m 1 e).code

/-- A value rounded to binary32. -/
def fpOf : Val → BitVec 32
  | .fin neg m e => fpRound neg m e
  | .inf neg => if neg then 0xFF800000 else 0x7F800000
  | .nan => fpNan

/-- The exact sum of two values, as IEEE 754 signs it under RNE. -/
def Val.add : Val → Val → Val
  | .nan, _ => .nan
  | _, .nan => .nan
  | .inf a, .inf b => if a = b then .inf a else .nan
  | .inf a, _ => .inf a
  | _, .inf b => .inf b
  | .fin a m e, .fin b n f =>
    let g := min e f
    let x : Int := (m * 2 ^ (e - g).toNat : Nat)
    let y : Int := (n * 2 ^ (f - g).toNat : Nat)
    let s := (if a then -x else x) + (if b then -y else y)
    if s = 0 then .fin (a && b) 0 g else .fin (decide (s < 0)) s.natAbs g

/-- The opposite value. -/
def Val.opp : Val → Val
  | .fin a m e => .fin (!a) m e
  | .inf a => .inf (!a)
  | .nan => .nan

/-- Addition (R89). -/
def fpAdd (a b : BitVec 32) : BitVec 32 := fpOf ((fp a).add (fp b))

/-- Subtraction (R89). -/
def fpSub (a b : BitVec 32) : BitVec 32 := fpOf ((fp a).add (fp b).opp)

/-- Multiplication (R89). -/
def fpMul (a b : BitVec 32) : BitVec 32 := fpOf ((fp a).mul (fp b))

/-- Fused multiply-add, rounded once (R89). -/
def fpFma (a b c : BitVec 32) : BitVec 32 := fpOf (((fp a).mul (fp b)).add (fp c))

/-- a is less than b; false when either is NaN. -/
def Val.lt : Val → Val → Bool
  | .nan, _ => false
  | _, .nan => false
  | .inf a, .inf b => a && !b
  | .inf a, .fin _ _ _ => a
  | .fin _ _ _, .inf b => !b
  | .fin a m e, .fin b n f =>
    let g := min e f
    let x : Int := (m * 2 ^ (e - g).toNat : Nat)
    let y : Int := (n * 2 ^ (f - g).toNat : Nat)
    decide ((if a then -x else x) < (if b then -y else y))

/-- a equals b; false when either is NaN. -/
def Val.eqv (a b : Val) : Bool :=
  match a, b with
  | .nan, _ => false
  | _, .nan => false
  | _, _ => !a.lt b && !b.lt a

/-- Minimum or maximum of two numbers. Where exactly one operand is a NaN, and between zeros of two signs,
the spec states no result and it is free (log entry 4). -/
def fpPick (largest : Bool) (a b : BitVec 32) : BitVec 32 :=
  match fp a, fp b with
  | .nan, .nan => fpNan
  | .nan, _ => Config.fpPick largest a b
  | _, .nan => Config.fpPick largest a b
  | x, y =>
    if x.eqv y then (if a = b then a else Config.fpPick largest a b)
    else if xor largest (x.lt y) then a else b

/-- A comparison (Table 5.11): EQ, NE, LT, LE. -/
def fpCmp (cond : Nat) (a b : BitVec 32) : Bool :=
  let x := fp a
  let y := fp b
  match cond with
  | 0 => x.eqv y
  | 1 => !x.eqv y
  | 2 => x.lt y
  | _ => x.lt y || x.eqv y

/-- One level of the pairwise tree of R91. -/
def pairLevel (f : BitVec 32 → BitVec 32 → BitVec 32) : List (BitVec 32) → List (BitVec 32)
  | a :: b :: t => f a b :: pairLevel f t
  | [a] => [a]
  | [] => []

/-- The fixed pairwise tree of n levels (R91). -/
def treeReduce (f : BitVec 32 → BitVec 32 → BitVec 32) : Nat → List (BitVec 32) → List (BitVec 32)
  | 0, l => l
  | n + 1, l => treeReduce f n (pairLevel f l)

/-! ### Packed elements (R33) and quantisation (R52, R497) -/

/-- Code of element i of packed bytes (R33). -/
def Fmt.elemAt (f : Fmt) (get : Nat → Byte) (i : Nat) : Nat :=
  match f.width with
  | 4 => (get (i / 2)).toNat / (if i % 2 = 0 then 1 else 16) % 16
  | 6 =>
    let w := (get (3 * (i / 4))).toNat + 256 * (get (3 * (i / 4) + 1)).toNat +
      65536 * (get (3 * (i / 4) + 2)).toNat
    w / 2 ^ (6 * (i % 4)) % 64
  | 8 => (get i).toNat
  | 16 => (get (2 * i)).toNat + 256 * (get (2 * i + 1)).toNat
  | _ => (get (4 * i)).toNat + 256 * (get (4 * i + 1)).toNat + 65536 * (get (4 * i + 2)).toNat +
      16777216 * (get (4 * i + 3)).toNat

/-- Bytes of packed element codes (R33). -/
def Fmt.pack (f : Fmt) : List Nat → List Byte
  | [] => []
  | a :: t =>
    match f.width with
    | 4 =>
      match t with
      | b :: t' => BitVec.ofNat 8 (a % 16 + 16 * (b % 16)) :: Fmt.pack f t'
      | [] => [BitVec.ofNat 8 (a % 16)]
    | 6 =>
      match t with
      | b :: c :: d :: t' => leBytes 3 (a % 64 + 64 * (b % 64) + 4096 * (c % 64) + 262144 * (d % 64)) ++
          Fmt.pack f t'
      | _ => leBytes 3 (a % 64)
    | 8 => leBytes 1 a ++ Fmt.pack f t
    | 16 => leBytes 2 a ++ Fmt.pack f t
    | _ => leBytes 4 a ++ Fmt.pack f t

/-- Bytes of n packed elements. -/
def Fmt.bytes (f : Fmt) (n : Nat) : Nat := n * f.width / 8

/-- a is larger in magnitude than b. -/
def magLt (a b : Nat × Int) : Bool :=
  let g := min a.2 b.2
  decide (a.1 * 2 ^ (a.2 - g).toNat < b.1 * 2 ^ (b.2 - g).toNat)

/-- The largest magnitude of a block's finite elements (R52, R497). -/
def blockMax (vs : List Val) : Nat × Int :=
  vs.foldl (fun m v => match v with
    | .fin _ n e => if magLt m (n, e) then (n, e) else m
    | _ => m) (0, 0)

/-- A block holds a NaN that a format cannot hold, so its scale is stored as NaN (R497). -/
def Fmt.nanBlock (f : Fmt) (vs : List Val) : Bool := f.noSpecial && vs.any fun v => decide (v = .nan)

/-- The MX code of a block's finite elements (R52, R497). DEDUCED, log entry 20. -/
def mxCode (f : Fmt) (vs : List Val) : Nat :=
  let m := blockMax vs
  if m.1 = 0 then 127 else (max 0 (min 254 (ilog2 m.1 1 + m.2 - f.emax + 127))).toNat

/-- The largest finite value of a format as a value. DEDUCED, log entry 20. -/
def Fmt.largest (f : Fmt) : Val := f.decode f.maxCode

/-- n / d × 2^e rounded upward to the next E4M3 value, at most 448 (R52, R497). DESIGN CHOICE, log entry 4. -/
def e4m3Up (n d : Nat) (e : Int) : Nat :=
  if n = 0 then 0
  else
    let c := Fmt.e4m3.roundCode false n d e
    let exact := match Fmt.e4m3.decode c with
      | .fin _ m k =>
        let g := min e k
        decide (n * 2 ^ (e - g).toNat = d * (m * 2 ^ (k - g).toNat))
      | _ => false
    min 0x7E (if exact then c else c + 1)

/-- The KX micro-scale code of a block for a per-tensor scale (R52, R497). With a per-tensor scale that is
zero or not finite the spec states none and it is free (log entry 4). DESIGN CHOICE, log entry 4; DEDUCED, log entry 89. -/
def kxCode (f : Fmt) (c : Val) (vs : List Val) : Nat :=
  let m := blockMax vs
  if m.1 = 0 then (if vs.any fun v => match v with | .inf _ => true | _ => false then 0x38 else 0)
  else
    match c.mul f.largest with
    | .fin _ n e => if n = 0 then Config.quantCode m.1 m.2 % 256 else e4m3Up m.1 n (m.2 - e)
    | _ => Config.quantCode m.1 m.2 % 256

/-- V = value / (block scale × per-tensor scale), converted to an element (R52, R497). A finite value over
a scale that is zero or not finite is free (log entry 4). DESIGN CHOICE, log entry 4; DEDUCED, log entry 89. -/
def Fmt.quant (f : Fmt) (rne nonsat : Bool) (v scale : Val) : Conv :=
  match v with
  | .nan => f.convNan
  | .inf neg => f.convInf nonsat neg
  | .fin a m e =>
    if m = 0 then ⟨0, false, false⟩
    else
      match scale with
      | .fin b n k =>
        if n = 0 then ⟨Config.quantCode m e % 2 ^ f.width, false, false⟩
        else f.convFin rne nonsat (xor a b) m n (e - k)
      | _ => ⟨Config.quantCode m e % 2 ^ f.width, false, false⟩

end Sys2Proof.Machine
end

