-- ==== Sys2Proof/Machine/Ops.lean ====
section
/-!
DEFINITION. Machine/Ops.lean: named reads and updates of the parts of State, the time base, free
values, fault records and the journal's write buffer.
-/

namespace Sys2Proof.Machine

/-! ### Fused-off parts (R3, R224) -/

/-- The links of the device: those fused present; the KC1-C24 has no G64 to G95 (R3). -/
def Fuses.links (f : Fuses) : BitVec 96 :=
  if f.variant = 2 then f.linkPresent &&& BitVec.ofNat 96 (2 ^ 64 - 1) else f.linkPresent

/-- The memory sites of the device: those fused present; the KC1-C24 has no MS3, MS5, MS11 and MS13 (R3, R224). -/
def Fuses.mems (f : Fuses) : BitVec 16 := if f.variant = 2 then f.memPresent &&& 0xD7D7 else f.memPresent

/-! ### Parts by number -/

/-- Core site n. -/
def State.site (s : State) (n : SiteNo) : Site := tget (fun _ => {}) s.sites n.val

/-- Core site n becomes v. -/
def State.setSite (s : State) (n : SiteNo) (v : Site) : State :=
  { s with sites := tset (fun _ => {}) s.sites n.val v }

/-- Core site n becomes f of itself. -/
def State.modSite (s : State) (n : SiteNo) (f : Site → Site) : State := s.setSite n (f (s.site n))

/-- Engine e of a site. -/
def Site.eng (c : Site) (e : EngNo) : Engine := tget (fun _ => {}) c.engines e.val

/-- Engine e of a site becomes v. -/
def Site.setEng (c : Site) (e : EngNo) (v : Engine) : Site :=
  { c with engines := tset (fun _ => {}) c.engines e.val v }

/-- Engine e of a site becomes f of itself. -/
def Site.modEng (c : Site) (e : EngNo) (f : Engine → Engine) : Site := c.setEng e (f (c.eng e))

/-- Link l. -/
def State.link (s : State) (l : LinkNo) : Link := tget (fun _ => {}) s.links l.val

/-- Link l becomes v. -/
def State.setLink (s : State) (l : LinkNo) (v : Link) : State :=
  { s with links := tset (fun _ => {}) s.links l.val v }

/-- Link l becomes f of itself. -/
def State.modLink (s : State) (l : LinkNo) (f : Link → Link) : State := s.setLink l (f (s.link l))

/-- Bell b. -/
def State.bell (s : State) (b : BellNo) : Bell := tget (fun _ => {}) s.coll.bells b.val

/-- Bell b becomes v. -/
def State.setBell (s : State) (b : BellNo) (v : Bell) : State :=
  { s with coll := { s.coll with bells := tset (fun _ => {}) s.coll.bells b.val v } }

/-- Ring r. -/
def State.ring (s : State) (r : RingNo) : Ring := tget (fun _ => {}) s.host.rings r.val

/-- Ring r becomes v. -/
def State.setRing (s : State) (r : RingNo) (v : Ring) : State :=
  { s with host := { s.host with rings := tset (fun _ => {}) s.host.rings r.val v } }

/-- Ring r becomes f of itself. -/
def State.modRing (s : State) (r : RingNo) (f : Ring → Ring) : State := s.setRing r (f (s.ring r))

/-- Clock region n. -/
def State.region (s : State) (n : RegionNo) : Region := tget (fun _ => {}) s.clk.regions n.val

/-- Clock region n becomes v. -/
def State.setRegion (s : State) (n : RegionNo) (v : Region) : State :=
  { s with clk := { s.clk with regions := tset (fun _ => {}) s.clk.regions n.val v } }

/-- Clock region n becomes f of itself. -/
def State.modRegion (s : State) (n : RegionNo) (f : Region → Region) : State :=
  s.setRegion n (f (s.region n))

/-- Crossing k (Clocks.crossings gives the numbering). -/
def State.crossing (s : State) (k : Nat) : Crossing := tget (fun _ => {}) s.clk.crossings k

/-- Crossing k becomes v. -/
def State.setCrossing (s : State) (k : Nat) (v : Crossing) : State :=
  { s with clk := { s.clk with crossings := tset (fun _ => {}) s.clk.crossings k v } }

/-- Power domain d. -/
def State.dom (s : State) (d : DomainNo) : Domain := tget (fun _ => {}) s.pwr.doms d.val

/-- Power domain d becomes v. -/
def State.setDom (s : State) (d : DomainNo) (v : Domain) : State :=
  { s with pwr := { s.pwr with doms := tset (fun _ => {}) s.pwr.doms d.val v } }

/-- Power domain d becomes f of itself. -/
def State.modDom (s : State) (d : DomainNo) (f : Domain → Domain) : State := s.setDom d (f (s.dom d))

/-- Memory site n. -/
def State.msite (s : State) (n : MemNo) : MemSite := tget (fun _ => {}) s.mem.sites n.val

/-- Memory site n becomes v. -/
def State.setMsite (s : State) (n : MemNo) (v : MemSite) : State :=
  { s with mem := { s.mem with sites := tset (fun _ => {}) s.mem.sites n.val v } }

/-- Memory site n becomes f of itself. -/
def State.modMsite (s : State) (n : MemNo) (f : MemSite → MemSite) : State :=
  s.setMsite n (f (s.msite n))

/-- Channel c of a memory site. -/
def MemSite.chan (m : MemSite) (c : Fin 4) : Channel := tget (fun _ => {}) m.chans c.val

/-- Channel c of a memory site becomes v. -/
def MemSite.setChan (m : MemSite) (c : Fin 4) (v : Channel) : MemSite :=
  { m with chans := tset (fun _ => {}) m.chans c.val v }

/-- Lintel k. -/
def State.lintel (s : State) (k : Nat) : Lintel := tget (fun _ => {}) s.fab.lintels k

/-- Lintel k becomes v. -/
def State.setLintel (s : State) (k : Nat) (v : Lintel) : State :=
  { s with fab := { s.fab with lintels := tset (fun _ => {}) s.fab.lintels k v } }

/-- Hamlet h. -/
def State.hamlet (s : State) (h : HamletNo) : Hamlet := tget (fun _ => {}) s.sec.hamlets h.val

/-- Hamlet h becomes v. -/
def State.setHamlet (s : State) (h : HamletNo) (v : Hamlet) : State :=
  { s with sec := { s.sec with hamlets := tset (fun _ => {}) s.sec.hamlets h.val v } }

/-- Hamlet h becomes f of itself. -/
def State.modHamlet (s : State) (h : HamletNo) (f : Hamlet → Hamlet) : State :=
  s.setHamlet h (f (s.hamlet h))

/-- Tree context t. -/
def State.tree (s : State) (t : Fin 64) : TreeCtx := tget (fun _ => {}) s.coll.trees t.val

/-- Tree context t becomes v. -/
def State.setTree (s : State) (t : Fin 64) (v : TreeCtx) : State :=
  { s with coll := { s.coll with trees := tset (fun _ => {}) s.coll.trees t.val v } }

/-- Multicast set m. -/
def State.mset (s : State) (m : Nat) : MSet := tget (fun _ => {}) s.coll.msets m

/-- Multicast set m becomes v. -/
def State.setMset (s : State) (m : Nat) (v : MSet) : State :=
  { s with coll := { s.coll with msets := tset (fun _ => {}) s.coll.msets m v } }

/-- The key of a scope: 0 outside every hamlet, 1 + n for HMn. -/
def scopeKey : Option HamletNo → Nat
  | none => 0
  | some h => 1 + h.val

/-- Tally state of a scope. -/
def State.tallyOf (s : State) (o : Option HamletNo) : TallyScope :=
  tget (fun _ => {}) s.coll.tallies (scopeKey o)

/-- Tally state of a scope becomes v. -/
def State.setTally (s : State) (o : Option HamletNo) (v : TallyScope) : State :=
  { s with coll := { s.coll with tallies := tset (fun _ => {}) s.coll.tallies (scopeKey o) v } }

/-- The site a logical core is bound to (R22). -/
def State.siteOf (s : State) (lc : LCoreNo) : Option SiteNo :=
  tget (fun _ => none) s.coreMap lc.val

/-- The core map binds a logical core to a site, or unbinds it. -/
def State.bind (s : State) (lc : LCoreNo) (n : Option SiteNo) : State :=
  { s with coreMap := tset (fun _ => none) s.coreMap lc.val n }

/-- Field of a core site (Table 0.2). -/
def fieldOfSite (n : SiteNo) : FieldNo := ⟨n.val / 5, by omega⟩

/-- Field of a memory site (Table 0.2). -/
def fieldOfMem (n : MemNo) : FieldNo := ⟨n.val / 2, by omega⟩

/-- Field of a link (R17, Table 7.1). -/
def fieldOfLink (l : LinkNo) : FieldNo :=
  if h : l.val < 64 then ⟨l.val / 8, by omega⟩ else ⟨(l.val - 64) / 4, by omega⟩

/-- Field of a bell (R283). -/
def fieldOfBell (b : BellNo) : FieldNo := ⟨b.val / 1024, by omega⟩

/-- The five sites of a field (Table 0.2). -/
def sitesOfField (f : FieldNo) : List SiteNo :=
  (List.finRange 40).filter fun n => fieldOfSite n = f

/-- Field f is dark (R215). -/
def State.isDark (s : State) (f : FieldNo) : Bool := s.fab.dark.getLsbD f.val

/-- The clocks of a field are stopped for a frequency change (R349). -/
def State.fieldStopped (s : State) (f : FieldNo) : Bool := decide ((s.region ⟨40 + f.val, by omega⟩).st = 2)

/-- Domain of a core site (R359). -/
def domOfSite (n : SiteNo) : DomainNo := ⟨n.val, by omega⟩

/-- Domain of a base rail (R359). -/
def domOfField (f : FieldNo) : DomainNo := ⟨40 + f.val, by omega⟩

/-- The site of a core domain. -/
def siteOfDom (d : DomainNo) : Option SiteNo := if h : d.val < 40 then some ⟨d.val, h⟩ else none

/-- The field whose IBC feeds a domain first (Table 13.1). -/
def fieldOfDom (d : DomainNo) : FieldNo :=
  if h : d.val < 40 then ⟨d.val / 5, by omega⟩ else ⟨d.val - 40, by omega⟩

/-- Variant's active count of logical cores (Table 0.1). -/
def State.activeCount (s : State) : Nat :=
  match s.fuses.variant with
  | 1 => 28
  | 2 => 24
  | _ => 32

/-- Variant's maximum module input in W (Table 0.1). -/
def State.maxWatts (s : State) : BitVec 16 :=
  match s.fuses.variant with
  | 1 => 9500
  | 2 => 8200
  | _ => 10500

/-- Entries of the variant's page map (R229). -/
def State.pageCap (s : State) : Nat := if s.fuses.variant = 2 then 122880 else 163840

/-! ### Time, free values, outputs -/

/-- The time base counts on to stamp t, when t is later. -/
def State.at (s : State) (t : Word64) : State := if s.tb < t then { s with tb := t } else s

/-- Cumulative powered seconds now (R182, R464). DEDUCED, log entry 61. -/
def State.poweredNow (s : State) : Word32 :=
  s.jrnl.powered + BitVec.ofNat 32 ((s.tb - s.jrnl.poweredFrom).toNat / 1000000000)

/-- One thing is sent. DESIGN CHOICE, log entry 8. -/
def State.send (s : State) (o : Out) : State := { s with out := s.out ++ [o] }

/-- The host port that a write to host memory or an interrupt message leaves by. -/
def Out.hostPort : Out → Option Bool
  | .hostWrite p _ _ => some p
  | .hostMsg p _ _ => some p
  | _ => none

/-- The same write over another port. -/
def Out.overPort (p : Bool) : Out → Out
  | .hostWrite _ a d => .hostWrite p a d
  | .hostMsg _ a d => .hostMsg p a d
  | o => o

/-- A write leaves for the host; while both ports are DOWN it is held, after those held before (R312, R313). DEDUCED, log entry 53. -/
def State.sendHost (s : State) (o : Out) : State :=
  if s.host.downSince.isSome then { s with host := { s.host with held := s.host.held ++ [o] } } else s.send o

/-- Several things are sent, in order. -/
def State.sendAll (s : State) (os : List Out) : State := { s with out := s.out ++ os }

/-- One free value is drawn. DESIGN CHOICE, log entry 3. -/
def State.drew (s : State) : State := { s with free := s.free + 1 }

/-- A hamlet is confidential, from the reservation of its creation (R446). -/
def State.confidential (s : State) : Bool :=
  (List.finRange 8).any fun h =>
    (s.hamlet h).confidential && decide ((s.hamlet h).st ≠ .none_)

/-- Site n belongs to a confidential hamlet (R191). -/
def State.redacts (s : State) (n : SiteNo) : Bool :=
  match (s.site n).hamlet with
  | some h => (s.hamlet h).confidential
  | none => false

/-- Logical cores bound (Table 11.10). -/
def State.bound (s : State) : Nat :=
  ((List.finRange 32).filter fun lc => (s.siteOf lc).isSome).length

/-! ### The journal's write buffer (R463, R466) -/

/-- Payload bytes of a record (Table 17.4). -/
def recPayload : JRec → Nat
  | .mfg _ => 8
  | .fieldMap .. => 16
  | .remap .. => 16
  | .fault _ => 328
  | .reserve _ => 8
  | .config _ _ => 16
  | .opcal _ _ => 8
  | .training _ _ => 8
  | .powered _ => 8
  | .verdict .. => 8
  | .coreMap _ => 32
  | .fulltest _ => 8
  | .switch _ => 8

/-- Bytes a record takes: header, padded payload, trailer, to a 64 B boundary (R463). -/
def recSize (r : JRec) : Nat := (16 + (recPayload r + 7) / 8 * 8 + 8 + 63) / 64 * 64

/-- Bytes waiting in the write buffer (R466). -/
def Journal.waiting (j : Journal) : Nat := (j.buf.map recSize).sum

/-- A record enters the write buffer; a fault record that finds the buffer full is counted in
JOURNAL_BACKLOG instead (R466). -/
def Journal.append (j : Journal) (r : JRec) : Journal :=
  match r with
  | .fault id =>
    if 262144 < j.waiting + recSize (.fault id) then { j with backlog := j.backlog + 1 }
    else { j with buf := j.buf ++ [.fault id] }
  | _ => { j with buf := j.buf ++ [r] }

/-- A record enters the journal's write buffer. -/
def State.journal (s : State) (r : JRec) : State := { s with jrnl := s.jrnl.append r }

/-- Key of a unit in the field map (R500). DEDUCED, log entry 57. -/
def unitKey (unit index : Nat) : Nat := unit * 1048576 + index

/-- The field map marks a unit bad (R456). DEDUCED, log entry 64. -/
def State.mapBad (s : State) (unit index : Nat) : Bool := s.jrnl.fieldMap.contains (unitKey unit index)

/-- A unit is recorded bad in the field map, with a FIELD_MAP record (R456, R500). DEDUCED, log entry 57. -/
def State.mapOut (s : State) (unit index : Nat) (cause : BitVec 16) : State :=
  if s.mapBad unit index then s
  else
    let j : Journal := { s.jrnl with fieldMap := s.jrnl.fieldMap ++ [unitKey unit index] }
    let r := JRec.fieldMap (BitVec.ofNat 4 unit) (BitVec.ofNat 20 index) cause s.poweredNow
    { s with jrnl := j.append r }

/-! ### What lines of the interrupt controller show -/

/-- The timing parent link is UP. -/
def State.parentUp (s : State) : Bool :=
  if h : s.clk.parentLink.toNat < 96 then decide ((s.link ⟨s.clk.parentLink.toNat, h⟩).st = .up)
  else false

/-- CLK_TB_STATUS.LOCKED (R356). DEDUCED, log entry 65. -/
def State.tbLocked (s : State) : Bool :=
  s.clk.master || (s.clk.parentEn && s.parentUp && s.clk.locked)

/-- Records unread by the scope outside every hamlet (Table 15.8). -/
def State.unread (s : State) : Nat :=
  (s.flt.buf.filter fun r => decide (tget (fun _ => 0) s.flt.readPos 0 ≤ r.id)).length

/-! ### Fault records (R188 to R191, R423) -/

/-- Severity of a class (R498, R218, R253, R281, R357, R385, R424, R450, R469): 0 recoverable, 1 fatal,
2 corrected, 3 informational. -/
def severityOf (cls : BitVec 16) (outcome : BitVec 8) (detail : Word32) : BitVec 2 :=
  match cls.toNat with
  | 0x0001 | 0x0002 | 0x0003 | 0x0004 =>
    if outcome = 1 ∨ outcome = 2 then 2 else if outcome = 3 then 0 else 3
  | 0x0005 | 0x0006 | 0x0009 | 0x000A | 0x000B => 0
  | 0x0007 | 0x0008 | 0x000C => 2
  | 0x000D => 1
  | 0x000E => if detail = 1 then 2 else 0
  | 0x000F =>
    if detail.extractLsb' 0 4 = 1 ∨ detail.extractLsb' 0 4 = 3 ∨ detail.extractLsb' 0 4 = 6 ∨
       detail.extractLsb' 0 4 = 8 then 0 else 1
  | 0x0101 | 0x0102 => 2
  | 0x0105 => 0
  | 0x0201 | 0x0203 | 0x0209 => 2
  | 0x0202 | 0x0205 | 0x0206 => 0
  | 0x0301 | 0x0302 | 0x0303 => 2
  | 0x0305 | 0x0306 => 0
  | 0x0402 => 2
  | 0x0403 | 0x0404 => 0
  | 0x0501 | 0x0503 | 0x0506 | 0x0508 => 2
  | 0x0502 | 0x0504 => 0
  | 0x0601 | 0x0602 | 0x0604 | 0x0606 => 0
  | 0x0605 | 0x0609 => 1
  | 0x0701 | 0x0704 | 0x0705 => 1
  | 0x0707 | 0x0709 => 0
  | 0x0805 | 0x0809 => 0
  | 0x0807 => 1
  | _ => 3

/-- A record that holds only the fields every class fills (Tables 6.3, 6.4). -/
def State.plainRec (s : State) (cls : BitVec 16) (site : Option SiteNo) (detail : Word32)
    (addr : Word64) : FaultRec :=
  { id := s.flt.nextId, severity := severityOf cls 0 detail, cls := cls, time := s.tb,
    powered := s.poweredNow, dev := s.id.dev,
    hamlet := match site with | some n => (s.site n).hamlet | none => none,
    role := s.role,
    site := match site with | some n => BitVec.ofNat 8 n.val | none => 0,
    lcore := match site with | some n => (s.site n).bound | none => none,
    job := match site with
      | some n => (match (s.site n).launch with | some l => l.job | none => 0)
      | none => 0,
    detail := detail, addr := addr }

/-- The fields of R191 written as 0. -/
def FaultRec.redact (r : FaultRec) : FaultRec :=
  { r with redacted := true, job := 0, bundle := 0, slot := 0, m1 := 0, anchor := 0, deltaLo := 0,
           deltaRes := 0, replayLo := 0, replayRes := 0, tolerance := 0, weightCrc := 0, actCrc := 0,
           detail := 0, addr := 0 }

/-- A record is produced: redacted when its site's hamlet is confidential (R191), numbered, placed in
the record buffer of 512 whose oldest is dropped and counted (R423), and sent to the journal. -/
def State.record (s : State) (r : FaultRec) : State :=
  let r := { r with id := s.flt.nextId }
  let r := match r.hamlet with
    | some h => if (s.hamlet h).confidential then r.redact else r
    | none => r
  let full := decide (512 ≤ s.flt.buf.length)
  { s with
    flt := { s.flt with
      nextId := s.flt.nextId + 1,
      buf := (if full then s.flt.buf.drop 1 else s.flt.buf) ++ [r],
      overflow := if full then satInc s.flt.overflow else s.flt.overflow },
    jrnl := s.jrnl.append (.fault s.flt.nextId.toNat) }

/-- A record of a class with DETAIL and ADDR is produced. -/
def State.fault (s : State) (cls : BitVec 16) (site : Option SiteNo) (detail : Word32)
    (addr : Word64) : State :=
  s.record (s.plainRec cls site detail addr)

/-- An event of a folded class is counted in its window (R188). -/
def State.fold (s : State) (cls : BitVec 16) (unit : Nat) (detail : Word32) (addr : Word64) : State :=
  let k := cls.toNat * 4096 + unit
  let n := match tget (fun _ => none) s.flt.folds k with | some (n, _, _) => n | none => 0
  { s with flt := { s.flt with folds := tset (fun _ => none) s.flt.folds k (some (n + 1, detail, addr)) } }

/-- Reports with equal stamps stand in ascending CLASS (R402). -/
def insertReport (t : Word64) (r : Report) : List (Word64 × Report) → List (Word64 × Report)
  | [] => [(t, r)]
  | (u, q) :: rest =>
    if u = t ∧ r.cls < q.cls then (t, r) :: (u, q) :: rest else (u, q) :: insertReport t r rest

/-- The fault manager is told (R402, R404). -/
def State.tell (s : State) (cls : BitVec 16) (site : Option SiteNo) (detail : Word32)
    (addr : Word64) : State :=
  { s with flt := { s.flt with
      reports := insertReport s.tb { cls := cls, site := site, detail := detail, addr := addr } s.flt.reports } }

/-- A record is produced and the fault manager is told. DEDUCED, log entry 36. -/
def State.report (s : State) (cls : BitVec 16) (site : Option SiteNo) (detail : Word32)
    (addr : Word64) : State :=
  (s.fault cls site detail addr).tell cls site detail addr

/-- A record of a class about one engine of a site (Table 6.4). -/
def State.engRec (s : State) (n : SiteNo) (e : EngNo) (cls : BitVec 16) (detail : Word32) (addr : Word64) :
    FaultRec :=
  { s.plainRec cls (some n) detail addr with engine := BitVec.ofNat 2 e.val }

/-- A record about one engine is produced and the fault manager is told. -/
def State.engReport (s : State) (n : SiteNo) (e : EngNo) (cls : BitVec 16) (detail : Word32) (addr : Word64) :
    State :=
  (s.record (s.engRec n e cls detail addr)).tell cls (some n) detail addr

/-! ### A tick with nothing queued -/

/-- One tick of 1 ns with nothing commanded: the time base counts (R353), correcting a slew in at most
one tick of every 5,000 (R355). DESIGN CHOICE, log entry 1. -/
def idleTick (s : State) : State :=
  if s.clk.slew = 0 ∨ s.tb.toNat % 5000 ≠ 0 then { s with tb := s.tb + 1 }
  else if 0 < s.clk.slew then
    { s with tb := s.tb + 2, clk := { s.clk with slew := s.clk.slew - 1 } }
  else { s with clk := { s.clk with slew := s.clk.slew + 1 } }

/-! ### Lintels (R207) -/

/-- A plane of a link is out of service in a direction (0 forward): a group of it has a second faulty lane
(R207). -/
def Lintel.planeOut (v : Lintel) (l : Nat) (plane rev : Bool) : Bool :=
  v.spared.any fun k => decide (k.1.val = l) && decide (k.2.1 = plane) && decide (k.2.2.1 = rev) &&
    decide (2 ≤ v.spared.count k)

/-- A link has no plane left in some direction (R207). -/
def Lintel.linkOut (v : Lintel) (l : Nat) : Bool :=
  let out (p : Bool) : Bool := v.planeOut l p false || v.planeOut l p true
  v.planeDown.getLsbD (2 * l) && v.planeDown.getLsbD (2 * l + 1) &&
  (!(out false && out true) || (v.planeOut l false false && v.planeOut l true false) ||
   (v.planeOut l false true && v.planeOut l true true))

/-- An ECC counter register takes a corrected error (Table 4.16). -/
def eccCorrected (w : Word32) : Word32 := satInc (w.extractLsb' 16 16) ++ w.extractLsb' 0 16

/-- An ECC counter register takes an uncorrectable error (Table 4.16). -/
def eccUncorrectable (w : Word32) : Word32 := w.extractLsb' 16 16 ++ satInc (w.extractLsb' 0 16)

end Sys2Proof.Machine
end

