-- ==== Sys2Proof/Machine/VoteRec.lean ====
section
/-!
DEFINITION. Machine/VoteRec.lean: what the checker holds of an instruction and the comparison (06 sections 6.2,
6.3), and the records of votes (section 6.8).
-/

namespace Sys2Proof

open Sys2Proof.Machine

/-! ### The comparison (R168, R169) -/

/-- The modulus p = 2^61 − 1 of the residues (R169). -/
def resP : Int := 2 ^ 61 - 1

/-- Δ mod 2^64 (R169). -/
def LineObs.dLo (l : LineObs) : BitVec 64 := l.sLo - l.pLo

/-- Δ mod p (R169). -/
def LineObs.dRes (l : LineObs) : Int := ((l.sRes.toNat : Int) - l.pRes.toNat) % resP

/-- The tolerance T = F + G (R168). -/
def LineObs.tol (l : LineObs) : Nat := l.f + l.g

/-- A line passes (R169). -/
def LineObs.pass (l : LineObs) : Bool :=
  let d := l.dLo.toInt
  decide (d % resP = l.dRes) && (decide (d = 0) || decide (d.natAbs < l.tol))

/-- The verdict passes (R169). -/
def CheckObs.pass (o : CheckObs) : Bool :=
  o.rows.all LineObs.pass && o.cols.all LineObs.pass && o.specialAgree && o.convBad.isNone

/-- Indices of failing lines. -/
def failing (ls : List LineObs) : List Nat :=
  (ls.zipIdx.filter fun p => !p.1.pass).map (·.2)

/-- Two results agree on every line: both parts of every residue pair are equal (R179). -/
def CheckObs.same (a b : CheckObs) : Bool :=
  let pair (l : LineObs) := (l.sLo, l.sRes)
  decide (a.rows.map pair = b.rows.map pair) && decide (a.cols.map pair = b.cols.map pair)

/-- The line a record describes: the lowest failing row, else the lowest failing column. -/
def CheckObs.firstLine (o : CheckObs) : Option (Bool × Nat) :=
  match failing o.rows with
  | i :: _ => some (false, i)
  | [] => match failing o.cols with
    | i :: _ => some (true, i)
    | [] => none

/-- A line of an observation. -/
def CheckObs.line (o : CheckObs) (k : Bool × Nat) : Option LineObs :=
  if k.1 then o.cols[k.2]? else o.rows[k.2]?

end Sys2Proof

namespace Sys2Proof.Machine

/-! ### Formats and tile sizes (R33, R144) -/

/-- The weight format of WFMT; INT8 with MX scaling is MXINT8 (Table 5.10). -/
def wfmtOf (w : BitVec 3) (scl : BitVec 2) : Fmt :=
  match w.toNat with
  | 0 => .e2m1
  | 1 => .e2m3
  | 2 => .e3m2
  | 3 => .e4m3
  | 4 => .e5m2
  | 5 => if scl = 1 then .mxint8 else .int8
  | _ => .bf16

/-- The activation format of AFMT (Table 5.10). -/
def afmtOf (a : BitVec 2) (scl : BitVec 2) : Fmt :=
  match a.toNat with
  | 0 => .e4m3
  | 1 => .e5m2
  | 2 => if scl = 1 then .mxint8 else .int8
  | _ => .bf16

/-- Bytes of a row of 256 elements. -/
def Fmt.row (f : Fmt) : Nat := 32 * f.width

/-- Bytes of a weight tile (R144). -/
def weightBytes (wfmt : BitVec 3) (wscl : BitVec 2) (sparse : Bool) : Nat :=
  (if sparse then 128 else 256) * (wfmtOf wfmt wscl).row +
  (if wscl = 1 then 2048 else if wscl = 2 then 4096 else 0) + (if sparse then 8192 else 0)

/-! ### Planes and halves -/

/-- Plane p. -/
def Engine.plane (e : Engine) (p : Bool) : Plane := tget (fun _ => {}) e.planes p.toNat

/-- Plane p becomes v. -/
def Engine.setPlane (e : Engine) (p : Bool) (v : Plane) : Engine :=
  { e with planes := tset (fun _ => {}) e.planes p.toNat v }

/-- The shadow plane (R66). -/
def Engine.shadow (e : Engine) : Plane := e.plane (!e.active)

/-- Feed half h. -/
def Engine.half (e : Engine) (h : Bool) : Half := tget (fun _ => {}) e.halves h.toNat

/-- Feed half h becomes v. -/
def Engine.setHalf (e : Engine) (h : Bool) (v : Half) : Engine :=
  { e with halves := tset (fun _ => {}) e.halves h.toNat v }

/-- Bytes of a tile's activation values. -/
def Half.valueBytes (h : Half) : Nat := h.rows * (afmtOf h.afmt h.ascl).row

/-- The half whose data a read of half fb sees: a tile in both halves stands in FB0. -/
def Engine.tile (g : Engine) (fb : Bool) : Half :=
  if (g.half false).both then g.half false else g.half fb

/-! ### What the checker holds of an instruction (R163, R168) -/

/-- A word of a table of accumulator words. -/
def accAt (t : Tab AccWord) (i : Nat) : AccWord := tget (fun _ => {}) t i

/-- S and F of a line: the sum of its contribution words as signed integers, and of their flush counts. -/
def lineSum (ws : List AccWord) : Int × Nat :=
  ws.foldl (fun s w => (s.1 + w.x.toInt, s.2 + w.flush.toNat)) (0, 0)

/-- A line as the checker holds it, with what faults of its summer and its checksum elements add (R169). -/
def heldLine (s p : Int) (f g : Nat) (errs : List LineErr) : LineObs :=
  let s := errs.foldl (fun x e => x + e.dS) s
  let p := errs.foldl (fun x e => x + e.dP) p
  { sLo := BitVec.ofInt 64 s, sRes := BitVec.ofInt 61 (s % resP), pLo := BitVec.ofInt 64 p,
    pRes := BitVec.ofInt 61 (p % resP), f := f, g := g }

/-- What the checker holds of an instruction (R163 to R169, R181): each row line and column line is summed from
the contribution words and set against its prediction. An EWISE has no lines (R78). -/
def Flight.check (f : Flight) (o : VerdictObs) : CheckObs :=
  let line (col : Bool) (i : Nat) (ws : List AccWord) (p : Int × Nat) : LineObs :=
    let s := lineSum ws
    heldLine s.1 p.1 s.2 p.2 (o.lines.filter fun e => decide (e.col = col) && decide (e.line.toNat = i))
  match f.op.kind with
  | .matrix _ =>
    { rows := f.pred.rows.zipIdx.map fun x =>
        line false x.2 ((List.range 256).map fun n => accAt f.contrib (x.2 * 256 + n)) x.1,
      cols := f.pred.cols.zipIdx.map fun x =>
        line true x.2 ((List.range f.op.m).map fun m => accAt f.contrib (m * 256 + x.2)) x.1,
      specialAgree := o.specialAgree, convBad := o.convBad }
  | _ => { rows := [], cols := [], specialAgree := o.specialAgree, convBad := o.convBad }

/-- The contribution words of a pass with those a fault changed. -/
def Flight.faulted (f : Flight) (bad : List BadWord) : Flight :=
  { f with contrib := bad.foldl (fun t b =>
      if b.row.toNat < f.op.m then
        tset (fun _ => {}) t (b.row.toNat * 256 + b.col.val)
          { x := b.x, special := b.special, flush := b.flush }
      else t) f.contrib }

/-- Verdicts of a kind in the window (R182). -/
def Engine.faultsOf (e : Engine) (engineAtFault : Bool) : Nat :=
  (e.verdicts.filter fun v => decide (v.1 = engineAtFault)).length

/-- ENG_STATUS.SUSPECT (R182). -/
def Engine.suspect (e : Engine) : Bool := decide (e.faultsOf false ≠ 0)

/-- The class of a vote's records (R166, R181): an EWISE mismatch, a special-state mismatch, a converter
mismatch, else a disagreeing line. -/
def voteClass (v : Vote) : BitVec 16 :=
  match v.flight.op.kind with
  | .ewise _ => 0x0002
  | _ =>
    if v.obs.specialAgree = false then 0x0003
    else if v.obs.convBad.isSome = true then 0x0004
    else 0x0001

/-! ### Records (Tables 6.3 to 6.5) -/

/-- Spares in use in a remap register (Table 3.7). -/
def sparesUsed (w : Word32) : Nat := (if w.getLsbD 15 then 1 else 0) + (if w.getLsbD 31 then 1 else 0)

/-- Fields of a record that name an engine and its counts (Table 6.4). -/
def FaultRec.ofEngine (r : FaultRec) (n : EngNo) (g : Engine) : FaultRec :=
  { r with
    engine := BitVec.ofNat 2 n.val, engFaults := BitVec.ofNat 2 (min 3 (g.faultsOf true)),
    chkFaults := BitVec.ofNat 2 (min 3 (g.faultsOf false)),
    rowSpares := BitVec.ofNat 2 (sparesUsed g.remapRow),
    colSpares := BitVec.ofNat 2 (sparesUsed g.remapCol), suspect := g.suspect, retired := g.retired }

/-- The CRC-32C of the map of failing column lines (Table 6.4). -/
def colSignature (cols : List Nat) : BitVec 32 :=
  crc32c ((List.range 32).map fun b =>
    (List.range 8).foldl (fun v i => setBit v i (cols.contains (8 * b + i))) (0 : Byte))

/-- CRC-32C of an instruction's activation rows and their scales (Table 6.4). -/
def Half.crc (h : Half) (m : Nat) : BitVec 32 :=
  let row := (afmtOf h.afmt h.ascl).row
  let scl := if h.ascl = 1 then 8 else if h.ascl = 2 then 16 else 0
  crc32c (tbytes (fun _ => 0) h.data 0 (m * row) ++ tbytes (fun _ => 0) h.data h.valueBytes (m * scl))

/-- CRC-32C of a weight tile: values, scales and metadata (Table 6.4). -/
def Plane.crc (p : Plane) : BitVec 32 :=
  crc32c (tbytes (fun _ => 0) p.data 0 (weightBytes p.wfmt p.wscl p.sparse))

/-- DETAIL of a vote's record (Table 6.5). -/
def voteDetail (v : Vote) : Word32 :=
  match v.flight.op.kind with
  | .ewise _ => BitVec.ofNat 32 (min 257 v.misses.length)
  | _ => if v.obs.specialAgree then (match v.obs.convBad with | some r => r.setWidth 32 | none => 0) else 0

/-- A pass of the replay has entered the array (Table 6.4: a replay ran). -/
def Vote.replayed (v : Vote) : Bool := decide (v.stage ≠ .failed) && decide (v.stage ≠ .latched)

/-- The record of a vote with an outcome (R188 to R190); replayObs are the replay's lines, where its verdict is
known. -/
def State.voteRecord (s : State) (n : SiteNo) (v : Vote) (outcome : BitVec 8)
    (replayObs : Option CheckObs) : FaultRec :=
  let c := s.site n
  let cls := voteClass v
  let r := (s.plainRec cls (some n) (voteDetail v) 0).ofEngine v.orig (c.eng v.orig)
  let r := { r with outcome := outcome, severity := severityOf cls outcome 0,
                    bundle := v.flight.op.bundle, slot := BitVec.ofNat 3 v.flight.op.slot,
                    cap := v.flight.cap, m1 := BitVec.ofNat 13 (v.flight.op.m - 1),
                    replay := if v.replayed then some (BitVec.ofNat 2 v.replay.val) else none }
  let rows := failing v.obs.rows
  let cols := failing v.obs.cols
  let r := { r with rowFails := BitVec.ofNat 16 rows.length, colFails := BitVec.ofNat 16 cols.length,
                    firstRow := rows.head?.map (BitVec.ofNat 13 ·),
                    firstCol := cols.head?.map (BitVec.ofNat 8 ·),
                    sigCols := colSignature cols }
  let r := match v.flight.op.kind with
    | .matrix m =>
      { r with pair := m.pair, sparse := m.sparse, dest := m.dest, anchor := v.flight.anchor,
               weightCrc := ((c.eng v.orig).plane v.flight.plane).crc,
               actCrc := ((c.eng v.orig).tile m.fb).crc v.flight.op.m }
    | .ewise w => { r with pair := w.pair, dest := w.dest }
    | _ => r
  match v.obs.firstLine with
  | none => r
  | some k =>
    let r := match v.obs.line k with
      | some l => { r with deltaLo := l.dLo, deltaRes := BitVec.ofInt 61 l.dRes,
                           tolerance := BitVec.ofNat 32 l.tol }
      | none => r
    match v.obs.line k, replayObs.bind (·.line k) with
    | some l, some q =>
      { r with replayLo := q.sLo - l.sLo,
               replayRes := BitVec.ofInt 61 (((q.sRes.toNat : Int) - l.sRes.toNat) % resP) }
    | _, _ => r

end Sys2Proof.Machine
end

