-- ==== Sys2Proof/Machine/CoreOps.lean ====
section
/-!
DEFINITION. Machine/CoreOps.lean: what the rest of the device does to a core: its reset (R86, Table
18.4), token signals (R87), wakes (Table 4.11) and stopping.
-/

namespace Sys2Proof.Machine

/-- ENG_BUSY at a cycle: the cycles of the instruction in the array that have passed count (R85). -/
def Engine.busyAt (g : Engine) (cycle : Word64) : BitVec 64 :=
  match g.inArray with
  | some f => g.busyCount + BitVec.ofNat 64 (min (cycle - f.issue).toNat (f.len + 512))
  | none => g.busyCount

/-- An engine after a core reset: what Table 18.4 does not reset is kept. -/
def Engine.coreReset (e : Engine) (cycle : Word64) : Engine :=
  { retired := e.retired, redirect := e.redirect, movePending := e.movePending, cap := e.cap,
    remapRow := e.remapRow, remapCol := e.remapCol, issued := e.issued,
    busyCount := e.busyAt cycle, verdicts := e.verdicts, disagree := e.disagree,
    replaceAtTally := e.replaceAtTally }

/-- Cycles stretched since the last count while a droop detector is tripped (R342). -/
def Site.droopNow (c : Site) : Nat := if c.detectors = 0 then 0 else (c.cycle - c.droopSince).toNat

/-- CORE_SLIP_STRETCH as it reads (R342, R160). -/
def Site.stretchSlip (c : Site) : BitVec 32 := satNat 32 (c.slipStretch.toNat + c.droopNow)

/-- The cycles stretched by a droop so far, that in which a detector tripped apart (R342). -/
def Site.droopStretches (c : Site) : BitVec 16 := satNat 16 (c.droopCount.toNat + c.droopNow)

/-- The cycles stretched by a droop are counted up to now. -/
def Site.settleDroop (c : Site) : Site :=
  { c with slipStretch := c.stretchSlip, droopCount := c.droopStretches, droopSince := c.cycle }

/-- The same change to every engine of a site. -/
def Site.modEngs (c : Site) (f : Engine → Engine) : Site :=
  (List.finRange 4).foldl (fun c e => c.modEng e f) c

/-- A site after a core reset (R86, R161, R477): keepV keeps V0 to V31 (a LAUNCH), keepExc keeps CORE_EXC
(a rollback). -/
def Site.coreReset (c : Site) (keepV keepExc : Bool) : Site :=
  { c.modEngs (·.coreReset c.cycle) with
    seq := .idle, pc := 0, sregs := [], aregs := [], toks := [], loops := [],
    vregs := if keepV then c.vregs else [], pend := [], sill := [], sillFree := 65536, sillLast := 3,
    queues := [], vecQ := [], vecHalted := false, vecFlush := 0, vote := none, cycle := 0, bubble := false, quiet := 0,
    slip := 0, slipMax := 0, slipStretch := 0, sref := none, droopSince := 0, droopCount := c.droopStretches,
    exc := if keepExc then c.exc else 0, excInfo := if keepExc then c.excInfo else 0,
    wsEcc := 0, sillEcc := 0, psEcc := 0, tokenSat := false, bellQ := [], tallyTable := 0,
    resetting := false }

/-- The outcome ABANDONED of a core's pending vote is recorded (R180). -/
def State.abandonVote (s : State) (n : SiteNo) : State :=
  match (s.site n).vote with
  | some v => s.record { s.voteRecord n v 5 none with severity := 3 }
  | none => s

/-- A core is reset. A pending vote ends with outcome ABANDONED (R180). -/
def State.coreReset (s : State) (n : SiteNo) (keepV keepExc : Bool) : State :=
  (s.abandonVote n).modSite n fun c => c.coreReset keepV keepExc

/-- A token counter takes a signal; saturation sets TOKEN_SAT (R87). -/
def Site.signal (c : Site) (tok : BitVec 6) (amount : Nat) : Site :=
  let v := tget (fun _ => 0) c.toks tok.toNat
  let c := { c with toks := tset (fun _ => 0) c.toks tok.toNat (satAdd v amount) }
  if 65535 < v.toNat + amount then { c with tokenSat := true } else c

/-- A napping or retained core is asked to run: the transition to RUN begins; a request while it runs is met
by it and discards a latched one (Table 4.11, R118, R420). -/
def Site.wake (c : Site) : Site :=
  match c.pwr with
  | .nap => { c with waking := true, pwrPending := none }
  | .retain => { c with waking := true, pwrPending := none }
  | _ => c

/-- The site takes signals: its clock runs or can be restarted, and it is not resetting. -/
def Site.present (c : Site) : Bool :=
  match c.pwr with
  | .run => !c.resetting
  | .nap => !c.resetting
  | .retain => !c.resetting
  | _ => false

/-- A site is switched off: shutters closed, domain off, working state lost (Tables 4.10, 4.11). -/
def Site.switchOff (c : Site) : Site :=
  { c.coreReset false false with
    pwr := .off, pwrPending := none, waking := false, shut := true, ws := [], ps := [], psBad := [] }

/-- A core's domain is switched off; a pending vote ends with it (R180). -/
def State.switchOff (s : State) (n : SiteNo) : State := (s.abandonVote n).modSite n Site.switchOff

/-- The sites whose logical cores a mask names. -/
def State.sitesOf (s : State) (cores : Word32) : List SiteNo :=
  (List.finRange 32).filterMap fun lc => if cores.getLsbD lc.val then s.siteOf lc else none

/-- The same change at each of several sites. -/
def State.modSites (s : State) (ns : List SiteNo) (f : Site → Site) : State :=
  ns.foldl (fun s n => s.modSite n f) s

/-- Each of several cores is reset. -/
def State.coreResets (s : State) (ns : List SiteNo) (keepExc : Bool) : State :=
  ns.foldl (fun s n => s.coreReset n false keepExc) s

end Sys2Proof.Machine
end

