-- ==== Sys2Proof/Machine/Ic.lean ====
section
/-!
DEFINITION. Machine/Ic.lean: the interrupt controller (14_interrupts.md).
-/

namespace Sys2Proof.Machine

/-- A source is a line source (Table 14.1). -/
def srcIsLine (n : Nat) : Bool :=
  decide (n < 64) || (decide (192 ≤ n) && decide (n < 352))

/-- A source is reserved (Table 14.1, R388). -/
def srcReserved (n : Nat) : Bool :=
  (decide (9 ≤ n) && decide (n < 16)) || (decide (21 ≤ n) && decide (n < 64)) ||
  (decide (192 ≤ n) && decide (n < 256) && decide (5 ≤ n % 8)) ||
  (decide (352 ≤ n) && decide (n < 512)) || decide (1023 ≤ n)

/-- Reset target (Tables 14.1, 14.2). -/
def srcTarget (n : Nat) : BitVec 3 :=
  if n < 16 then (if n = 0 ∨ n = 2 ∨ n = 6 ∨ n = 8 then 0 else if n = 7 then 2 else 1)
  else if n = 17 then 0
  else if n < 64 then 1
  else if n < 192 then 4
  else if n < 256 then (if (n - 192) / 8 < 4 then 1 else 2)
  else if n < 352 then 2
  else if n < 512 then 1
  else if n < 768 then 3
  else 1

/-- A target is allowed for a source (R387, Table 14.1). -/
def srcAllows (n : Nat) (t : BitVec 3) : Bool :=
  if n < 64 then decide (t < 3)
  else if n < 192 then decide (t = 4) || decide (t = 1) || decide (t = 2)
  else if n < 352 then decide (t = 1) || decide (t = 2)
  else if n < 512 then false
  else if n < 768 then decide (t = 3)
  else decide (t < 3)

/-- Reset mode (Table 14.2, Table 14.6). -/
def srcMode (n : Nat) : BitVec 3 :=
  if n = 0 ∨ n = 1 ∨ n = 7 ∨ n = 8 then 3 else if n = 6 then 2 else if srcIsLine n then 0 else 5

/-- Reset priority (Table 14.2, Table 14.6). -/
def srcPrio (n : Nat) : BitVec 3 :=
  if n = 0 ∨ n = 2 ∨ n = 6 then 7 else if n = 1 ∨ n = 5 then 6 else if n = 3 ∨ n = 4 then 5
  else if n = 7 ∨ n = 8 then 4 else 3

/-- A source at reset (R401). -/
def srcD (n : Nat) : Src :=
  { st := .idle, en := decide (n < 64) || (decide (192 ≤ n) && decide (n < 352)),
    target := srcTarget n, prio := srcPrio n, mode := srcMode n,
    filter := if srcIsLine n then 4 else 0, token := 0, stamp := 0,
    line := decide (n = 0) || decide (n = 1) || decide (n = 7) || decide (n = 8) }

/-- Source n. -/
def State.src (s : State) (n : Nat) : Src := tget srcD s.ic.srcs n

/-- Source n becomes v. -/
def State.setSrc (s : State) (n : Nat) (v : Src) : State :=
  { s with ic := { s.ic with srcs := tset srcD s.ic.srcs n v } }

/-- A raise (Table 14.3, R392). -/
def Src.raised (v : Src) (t : Word64) : Src :=
  match v.st with
  | .idle => { v with st := .pending, stamp := t }
  | .pending => v
  | .inService => { v with st := .inServicePending, stamp := t }
  | .inServicePending => v

/-- A withdrawal of a level source (Table 14.3). -/
def Src.withdrawn (v : Src) : Src :=
  match v.st with
  | .pending => { v with st := .idle }
  | .inServicePending => { v with st := .inService }
  | _ => v

/-- A complete (Table 14.3). -/
def Src.completed (v : Src) : Src :=
  match v.st with
  | .inService => { v with st := .idle }
  | .inServicePending => { v with st := .pending }
  | _ => v

/-- IC_GLOBAL.DROPPED counts (R389, R395). -/
def State.icDrop (s : State) : State := { s with ic := { s.ic with dropped := satInc s.ic.dropped } }

/-- The logical core of a sequencer source 64 + 4c + k. -/
def srcCore (n : Nat) : LCoreNo := ⟨(n - 64) / 4 % 32, by omega⟩

/-- The target of a source that enters PENDING is woken (R397). DESIGN CHOICE, log entry 90. -/
def State.icWake (s : State) (n : Nat) : State :=
  let v := s.src n
  if v.en && (!s.ic.hold || decide (n < 16)) then
    if v.target < 3 then
      { s with ic := { s.ic with sleeping := tset (fun _ => false) s.ic.sleeping v.target.toNat false } }
    else if v.target = 4 then
      match s.siteOf (srcCore n) with
      | some k => s.modSite k Site.wake
      | none => s
    else s
  else s

/-- Source n is raised at stamp t; a source that enters PENDING wakes its target (R393, R397). DEDUCED, log entry 37. -/
def State.icRaise (s : State) (n : Nat) (t : Word64) : State :=
  let enters := decide ((s.src n).st = .idle)
  let s := s.setSrc n ((s.src n).raised t)
  if enters then s.icWake n else s

/-- The group is inside a hold-off interval (R398). -/
def State.icHeld (s : State) (n : Nat) : Bool :=
  match tget (fun _ => none) s.ic.holding (n / 16) with
  | some e => decide (s.tb < e)
  | none => false

/-- Deliverable (R396). -/
def State.deliverable (s : State) (n : Nat) : Bool :=
  let v := s.src n
  decide (v.st = .pending) && v.en &&
  (decide (3 ≤ v.target) || decide (tget (fun _ => 0) s.ic.thresholds v.target.toNat ≤ v.prio)) &&
  !s.icHeld n && (!s.ic.hold || decide (n < 16))

/-- A delivery of source n starts its group's hold-off interval (R398). -/
def State.icDelivered (s : State) (n : Nat) : State :=
  let h := tget (fun _ => 0) s.ic.holdoff (n / 16)
  if h = 0 ∨ n < 16 then s
  else
    { s with ic := { s.ic with
        holding := tset (fun _ => none) s.ic.holding (n / 16)
          (some (s.tb + (h.setWidth 64) * 100)) } }

/-- The higher priority, and among equal priorities the lower number (R394). -/
def State.icBetter (s : State) (a b : Nat) : Nat :=
  if (s.src b).prio < (s.src a).prio then a
  else if (s.src a).prio < (s.src b).prio then b
  else min a b

/-- The deliverable source of processor target t that a claim returns (R394). -/
def State.icBest (s : State) (t : BitVec 3) : Option Nat :=
  ((s.ic.srcs.map (·.1)).filter fun n => decide ((s.src n).target = t) && s.deliverable n).foldl
    (fun b n => match b with | none => some n | some m => some (s.icBetter m n)) none

/-- The lines of processor targets with nothing deliverable fall (R395). DESIGN CHOICE, log entry 90. -/
def State.icLower (s : State) : State :=
  { s with ic := { s.ic with
      lines := [0, 1, 2].foldl
        (fun l k => if (s.icBest (BitVec.ofNat 3 k)).isSome then l else tset (fun _ => false) l k false)
        s.ic.lines } }

/-- One delivery of a deliverable source (R395). DESIGN CHOICE, log entry 90. -/
def State.icDeliver (s : State) (n : Nat) : State :=
  if s.deliverable n = false then s
  else
    let v := s.src n
    if v.target < 3 then
      { s with ic := { s.ic with lines := tset (fun _ => false) s.ic.lines v.target.toNat true } }
    else if v.target = 4 then
      let lc := srcCore n
      if s.ic.seqMask.getLsbD lc.val then s
      else
        let s' := (s.setSrc n { v with st := .idle }).icDelivered n
        match s.siteOf lc with
        | some k => s'.send (.tokenPkt lc v.token (s.site k).hamlet)
        | none => s'.icDrop
    else if v.target = 3 then
      if s.host.lost then s
      else
        let r := s.ring ⟨(n - 512) % 256, by omega⟩
        ((s.setSrc n { v with st := .idle }).icDelivered n).sendHost
          (.hostMsg (xor r.port r.moved) r.msgAddr r.msgData)
    else s

/-- A level mode's line is asserted (R391). -/
def Src.meets (v : Src) : Bool :=
  if v.mode = 0 then v.line else if v.mode = 1 then !v.line else false

/-- The level that the input of a line source has in this state, where the state says it: the pins, the reference,
a fault record waiting, a mailbox request, a journal half 75 % full, the host lost, the time base unlocked (Tables
14.1, 14.2). DEDUCED, log entry 78. -/
def State.lineInput (s : State) (n : Nat) : Option Bool :=
  match n with
  | 0 => some (!s.board.pwrfail)
  | 1 => some (!s.board.modrst)
  | 6 => some s.board.refLost
  | 16 => some (decide (s.unread ≠ 0))
  | 17 => some s.sec.busy
  | 18 => some (decide (50331648 ≤ s.jrnl.fill))
  | 19 => some s.host.lost
  | 20 => some (!s.tbLocked)
  | _ => none

/-- LINE_FILTER_CHANGE (R390, R391): the filtered line of source n takes a new value at stamp t. DEDUCED, log entry 78. -/
def execLineFilterChange (n : SrcNo) (level : Bool) (t : Word64) (s : State) :
    Host.Outcome State Fault Refusal :=
  let s := s.at t
  let v := s.src n.val
  if srcIsLine n.val = false ∨ srcReserved n.val = true ∨ v.line = level ∨ s.lineInput n.val = some (!level) then
    .next s
  else
    let s := s.setSrc n.val { v with line := level }
    if v.mode = 0 then
      .next (if level then s.icRaise n.val t else (s.setSrc n.val (s.src n.val).withdrawn).icLower)
    else if v.mode = 1 then
      .next (if level then (s.setSrc n.val (s.src n.val).withdrawn).icLower else s.icRaise n.val t)
    else if v.mode = 4 ∨ (v.mode = 2 ∧ level = true) ∨ (v.mode = 3 ∧ level = false) then
      .next (s.icRaise n.val t)
    else .next s

/-- A bell of this owner may raise source n (R389). -/
def State.mayRaise (s : State) (o : Option HamletNo) (n : Nat) : Bool :=
  match o with
  | none => true
  | some h =>
    if 64 ≤ n ∧ n < 192 then
      match s.siteOf (srcCore n) with
      | some k => decide ((s.site k).hamlet = some h)
      | none => false
    else if 512 ≤ n ∧ n < 768 then
      decide ((s.ring ⟨(n - 512) % 256, by omega⟩).owner = some h)
    else false

/-- RAISE (R389): a RAISE packet arrives at the controller; with F0 dark it is lost. -/
def execRaise (n : BitVec 10) (byBell : Option BellNo) (t : Word64) (s : State) :
    Host.Outcome State Fault Refusal :=
  let s := s.at t
  let o := match byBell with | some b => (s.bell b).owner | none => none
  if s.isDark 0 then .next s
  else if srcIsLine n.toNat ∨ srcReserved n.toNat ∨ s.mayRaise o n.toNat = false then .next s.icDrop
  else .next (s.icRaise n.toNat t)

/-- A write of RAISE (Table 14.6, R389): ignored for line and reserved sources and before READY (R473). -/
def State.srcRaise (s : State) (n : SrcNo) : State :=
  if s.host.ready = false ∨ srcIsLine n.val ∨ srcReserved n.val then s else s.icRaise n.val s.tb

/-- SRC_RAISE_WRITE. -/
def execSrcRaiseWrite (_acc : Accessor) (n : SrcNo) (t : Word64) (s : State) :
    Host.Outcome State Fault Refusal := .next ((s.at t).srcRaise n)

/-- W1C of PENDING (Table 14.3); a level source still asserted returns (R13). -/
def State.srcClear (s : State) (n : SrcNo) : State :=
  if s.host.ready = false ∨ srcReserved n.val then s
  else
    let s := (s.setSrc n.val (s.src n.val).withdrawn).icLower
    if (s.src n.val).meets then s.icRaise n.val s.tb else s

/-- SRC_PENDING_CLEAR. -/
def execSrcPendingClear (_acc : Accessor) (n : SrcNo) (s : State) :
    Host.Outcome State Fault Refusal := .next (s.srcClear n)

/-- A write of MODE (R391): group 0 only, while unlocked; codes 5 to 7 do not change MODE. DEDUCED, log entry 77; DEDUCED, log entry 78. -/
def State.srcSetMode (s : State) (n : SrcNo) (mode : BitVec 3) : State :=
  if s.host.ready = false ∨ 9 ≤ n.val ∨ s.ic.lock = true ∨ 5 ≤ mode ∨ (s.src n.val).mode = mode then s
  else
    let s := s.setSrc n.val { (s.src n.val) with mode := mode }
    if (s.src n.val).meets then s.icRaise n.val s.tb
    else (s.setSrc n.val (s.src n.val).withdrawn).icLower

/-- SRC_MODE_WRITE (R391). -/
def execSrcModeWrite (_acc : Accessor) (n : SrcNo) (mode : BitVec 3) (s : State) :
    Host.Outcome State Fault Refusal := .next (s.srcSetMode n mode)

/-- The number of a processor target. -/
def IcTarget : IcAgent → Option (BitVec 3)
  | .reeve => some 0
  | .stewardA => some 1
  | .stewardB => some 2
  | .hostPort => none

/-- IC_CLAIM (R394). Before READY it reads 0 (R473). -/
def execIcClaim (who : IcAgent) (t : Word64) (s : State) : Host.Outcome State Fault Refusal :=
  let s := s.at t
  if s.host.ready = false then .next (s.send (.claim who 0))
  else match IcTarget who with
  | none => .next (s.send (.claim who 1023))
  | some k =>
    match s.icBest k with
    | none =>
      let s := { s with ic := { s.ic with spurious := satInc s.ic.spurious } }
      .next (s.send (.claim who 1023))
    | some n =>
      let v := s.src n
      let s := s.setSrc n { v with st := .inService }
      let s := { s with ic := { s.ic with stamps := tset (fun _ => 0) s.ic.stamps k.toNat v.stamp } }
      .next ((s.icDelivered n).icLower.send (.claim who (BitVec.ofNat 10 n)))

/-- A source in service for target k completes (R394). DEDUCED, log entry 77. -/
def State.icDone (s : State) (k : BitVec 3) (n : BitVec 10) : State :=
  let v := s.src n.toNat
  if v.target = k ∧ n ≠ 1023 then
    let s := s.setSrc n.toNat v.completed
    if v.st = .inServicePending then s.icWake n.toNat else s
  else s

/-- IC_COMPLETE (R394). Before READY it is ignored (R473). -/
def execIcComplete (who : IcAgent) (n : BitVec 10) (s : State) : Host.Outcome State Fault Refusal :=
  if s.host.ready = false then .next s
  else match IcTarget who with
  | none => .next s
  | some k => .next (s.icDone k n)

/-- INTERRUPT_DELIVERY (R395). -/
def execInterruptDelivery (n : SrcNo) (t : Word64) (s : State) : Host.Outcome State Fault Refusal :=
  .next ((s.at t).icDeliver n.val)

/-- HOLDOFF_END (R398). -/
def execHoldoffEnd (g : BitVec 6) (t : Word64) (s : State) : Host.Outcome State Fault Refusal :=
  let s := s.at t
  match tget (fun _ => none) s.ic.holding g.toNat with
  | some e =>
    if e ≤ s.tb then
      .next { s with ic := { s.ic with holding := tset (fun _ => none) s.ic.holding g.toNat none } }
    else .next s
  | none => .next s

/-- Source numbers in delivery order: priority first, then number (R394). -/
def State.icOrder (s : State) : List Nat :=
  ((List.range 8).reverse).flatMap fun p =>
    (s.ic.srcs.map (·.1)).filter fun n => decide ((s.src n).prio.toNat = p)

/-- The end of a group's hold-off interval becomes v. -/
def State.setHolding (s : State) (g : Nat) (v : Option Word64) : State :=
  { s with ic := { s.ic with holding := tset (fun _ => none) s.ic.holding g v } }

/-- The group and the target of a source: a processor, a logical core's sequencer or the host (R399). DESIGN CHOICE, log entry 90. -/
def State.icKey (s : State) (n : Nat) : Nat × Nat :=
  (n / 16, if (s.src n).target = 4 then 8 + (srcCore n).val else (s.src n).target.toNat)

/-- One source at the end of a HOLD: a hold-off that a delivery to another target of its group has just begun does
not keep it back, one that its own target's has begun does (R399). DESIGN CHOICE, log entry 90. -/
def State.releaseOne (before : Tab (Option Word64)) (x : State × List (Nat × Nat)) (n : Nat) :
    State × List (Nat × Nat) :=
  let g := n / 16
  let k := x.1.icKey n
  let was := tget (fun _ => none) before g
  let s := x.1.setHolding g was
  if x.2.contains k ∨ s.deliverable n = false then x
  else
    let t := s.icDeliver n
    if tget (fun _ => none) t.ic.holding g = was then
      (t.setHolding g (tget (fun _ => none) x.1.ic.holding g), x.2)
    else (t, k :: x.2)

/-- HOLD returns to 0 (R399): targets with waiting sources are woken and each receives its deliverable
sources in priority order, one of a group for each target before the group's hold-off applies again. -/
def State.releaseHold (s : State) : State :=
  if s.host.ready = false ∨ s.ic.hold = false then s
  else
    let s := { s with ic := { s.ic with hold := false } }
    let s := (s.icOrder.filter fun n => decide ((s.src n).st = .pending)).foldl State.icWake s
    (s.icOrder.foldl (State.releaseOne s.ic.holding) (s, [])).1

/-- IC_HOLD_RELEASE (R399). -/
def execIcHoldRelease (_acc : Accessor) (s : State) : Host.Outcome State Fault Refusal :=
  .next s.releaseHold

end Sys2Proof.Machine
end

