-- ==== Sys2Proof/Machine/HostOps.lean ====
section
/-!
DEFINITION. Machine/HostOps.lean: rings and descriptors as the rest of the device uses them
(11_host_interface.md).
-/

namespace Sys2Proof.Machine

/-- CLASS (Table 11.2). -/
def Desc.cls (d : Desc) : BitVec 8 := (wordAt d.words 0).extractLsb' 0 8

/-- IRQ (Table 11.2). -/
def Desc.irq (d : Desc) : Bool := (wordAt d.words 0).getLsbD 8

/-- Deadline in time-base ticks (R330); DEADLINE 0 means 2 s. -/
def Desc.deadline (d : Desc) : Nat :=
  let n := ((wordAt d.words 0).extractLsb' 16 10).toNat
  (if n = 0 then 2 else n) * 1000000000

/-- JOB of a LAUNCH (Table 11.5). -/
def Desc.job (d : Desc) : Word32 := wordAt d.words 7

/-- TALLY_EN of a LAUNCH (Table 11.5). -/
def Desc.tallyEn (d : Desc) : Bool := (wordAt d.words 3).getLsbD 21

/-- The descriptor is an outstanding LAUNCH that has started. -/
def Desc.runs (d : Desc) : Bool := decide (d.cls = 2) && d.started && d.ready.isNone

/-- The outstanding descriptor with number id. -/
def State.desc (s : State) (id : Nat) : Option Desc := s.host.descs.find? fun d => decide (d.id = id)

/-- The outstanding descriptor with number id becomes f of itself. -/
def State.modDesc (s : State) (id : Nat) (f : Desc → Desc) : State :=
  { s with host := { s.host with descs := s.host.descs.map fun d => if d.id = id then f d else d } }

/-- The scope of a descriptor: the owner of its ring (R324). -/
def State.scopeOf (s : State) (d : Desc) : Option HamletNo := (s.ring d.ring).owner

/-- A descriptor's completion becomes ready. Ready at the end of its deadline window or later, it carries
DEADLINE with WORK_DONE (R330). A completion already ready is kept. DEDUCED, log entry 43. -/
def State.setReady (s : State) (id : Nat) (status : BitVec 7) (detail : Word32) (result : Word64) :
    State :=
  s.modDesc id fun d =>
    match d.ready with
    | some _ => d
    | none =>
      if windowOver d.fetched d.deadline s.tb then
        { d with started := true,
                 ready := some { status := 5, detail := 0x80000000, result := result, time := s.tb } }
      else
        { d with started := true,
                 ready := some { status := status, detail := detail, result := result, time := s.tb } }

/-- Every earlier descriptor of the ring has started, and this one has not (R320). -/
def State.mayStart (s : State) (d : Desc) : Bool :=
  !d.started && d.ready.isNone && s.host.ready &&
  s.host.descs.all fun e => decide (e.ring ≠ d.ring) || decide (d.id ≤ e.id) || e.started

/-- A core's LAUNCH ends on it: the core leaves the descriptor's list, its CORE_SLIP_MAX is kept (R326). -/
def State.leaveLaunch (s : State) (n : SiteNo) : State :=
  let c := s.site n
  match c.launch, c.bound with
  | some l, some lc =>
    (s.modDesc l.desc fun d =>
      { d with left := d.left.filter fun x => decide (x ≠ lc),
               slipMax := if d.slipMax < c.slipMax then c.slipMax else d.slipMax }).modSite n
      fun c => { c with launch := none }
  | _, _ => s.modSite n fun c => { c with launch := none }

/-- RESULT of a LAUNCH (R326). -/
def Desc.launchResult (d : Desc) : Word64 := d.slipMax ++ d.rollbacks

/-- A LAUNCH whose every core has ended completes (R136, Table 11.3). -/
def State.launchDone (s : State) (id : Nat) : State :=
  match s.desc id with
  | some d => if d.left.isEmpty then s.setReady id 0 0 d.launchResult else s
  | none => s

/-- The sites on which a descriptor's LAUNCH runs. -/
def State.launchSites (s : State) (id : Nat) : List SiteNo :=
  (List.finRange 40).filter fun n =>
    match (s.site n).launch with
    | some l => decide (l.desc = id)
    | none => false

/-- A LAUNCH is ended from outside: its cores are reset and it completes with a status (R327, R330,
R405). -/
def State.endLaunch (s : State) (id : Nat) (status : BitVec 7) (detail : Word32) : State :=
  let ns := s.launchSites id
  let s := ns.foldl State.leaveLaunch s
  let s := s.coreResets ns false
  match s.desc id with
  | some d => s.setReady id status detail d.launchResult
  | none => s

/-- Outstanding LAUNCHes of a job in a scope (R403). -/
def State.jobDescs (s : State) (o : Option HamletNo) (job : Word32) : List Nat :=
  (s.host.descs.filter fun d =>
    d.runs && decide (d.job = job) && decide (s.scopeOf d = o)).map (·.id)

/-- Sites of a job in a scope (R403). -/
def State.jobSites (s : State) (o : Option HamletNo) (job : Word32) : List SiteNo :=
  (s.jobDescs o job).flatMap s.launchSites

/-- The port that serves a ring's host accesses (R312, R313). -/
def Ring.via (r : Ring) : Bool := xor r.port r.moved

/-- Size of a ring's SQ. -/
def Ring.sqSize (r : Ring) : Nat := 2 ^ r.sqLog2.toNat

/-- Size of a ring's CQ. -/
def Ring.cqSize (r : Ring) : Nat := 2 ^ r.cqLog2.toNat

/-- Free slots of a CQ (R319). -/
def Ring.cqFree (r : Ring) : Nat :=
  r.cqSize - 1 - (r.cqTail.toNat + r.cqSize - r.cqHead.toNat) % r.cqSize - r.reserved

/-- Data is written to host memory for a ring; once the host is lost nothing is (R333). -/
def State.toHost (s : State) (r : RingNo) (addr : Word64) (data : List Byte) : State :=
  if s.host.lost then s else s.sendHost (.hostWrite (s.ring r).via addr data)

/-- HST_STATUS.DB_IGNORED counts (R315). -/
def State.dbIgnore (s : State) : State :=
  { s with host := { s.host with dbIgnored := satInc s.host.dbIgnored } }

/-- The doorbell is ignored, and a value error sets ERR to DOORBELL (R315). -/
def State.dbError (s : State) (r : RingNo) : State := s.dbIgnore.modRing r fun g => { g with err := 2 }

/-- The core that runs on a site has a LAUNCH outstanding. -/
def Site.launched (c : Site) : Bool := c.launch.isSome

/-- A hamlet is being reset or destroyed: traffic into it is answered TARGET_RESETTING (R216, R443). -/
def State.hamletResetting (s : State) (o : Option HamletNo) : Bool :=
  match o with
  | some h =>
    match (s.hamlet h).st with
    | .resetting => true
    | .destroying => true
    | .creating => true
    | _ => false
  | none => false

/-! ### Reservations of a creation in progress (R442) -/

/-- A creation in progress has reserved what p holds of. -/
def State.reservedBy (s : State) (p : Hamlet → Bool) : Bool :=
  (List.finRange 8).any fun h => decide ((s.hamlet h).st = .creating) && p (s.hamlet h)

/-- A creation in progress has reserved a logical core. -/
def State.coreHeld (s : State) (lc : LCoreNo) : Bool := s.reservedBy fun h => h.cores.getLsbD lc.val

/-- A creation in progress has reserved page p. -/
def State.pageHeld (s : State) (p : Nat) : Bool :=
  s.reservedBy fun h => decide (h.pageFirst.toNat ≤ p) && decide (p < h.pageFirst.toNat + h.pageCount.toNat)

/-- A creation in progress has reserved a bell. -/
def State.bellHeld (s : State) (b : Nat) : Bool :=
  s.reservedBy fun h => decide (h.bellFirst.toNat ≤ b) && decide (b < h.bellFirst.toNat + h.bellCount.toNat)

end Sys2Proof.Machine
end

