-- ==== Sys2Proof/Machine/Routes.lean ====
section
/-!
DEFINITION. Machine/Routes.lean: where things attach to the fabric (R193, R194), which routes exist
(R201, R215), packets and the requests that await a response (R197, R199), and how links are numbered,
cabled and chosen (R272 to R278).
-/

namespace Sys2Proof.Machine

/-! ### Routers (R193, Table 7.1) -/

/-- The router at local position (i, j) of a field. -/
def rtrAt (f : FieldNo) (i j : Nat) : Fin 64 :=
  ⟨((2 * (f.val / 4) + j) * 16 + 4 * (f.val % 4) + i) % 64, by omega⟩

/-- The router of a core site. -/
def rtrOfSite (n : SiteNo) : Fin 64 :=
  let slot := n.val % 5
  if slot < 4 then rtrAt (fieldOfSite n) slot 0 else rtrAt (fieldOfSite n) 0 1

/-- The services router of a field. -/
def svcRtr (f : FieldNo) : Fin 64 := rtrAt f 3 1

/-- The field of a router (R193). -/
def fieldOfRtr (r : Fin 64) : FieldNo := ⟨r.val / 32 * 4 + r.val % 16 / 4, by omega⟩

/-- The core site at a router's local port. -/
def siteAtRtr (r : Fin 64) : Option SiteNo := (List.finRange 40).find? fun n => decide (rtrOfSite n = r)

/-- The router and port of a field's memory controller (Table 7.1, R194). -/
def State.memPort (s : State) (f : FieldNo) : Fin 64 × Bool :=
  if s.fab.spared.getLsbD (2 * f.val) then (svcRtr f, true) else (rtrAt f 1 1, false)

/-- The router and port of a field's link bundle (Table 7.1, R194). -/
def State.linkPort (s : State) (f : FieldNo) : Fin 64 × Bool :=
  if s.fab.spared.getLsbD (2 * f.val + 1) then (svcRtr f, true) else (rtrAt f 2 1, false)

/-- The field that a host port is on: HP0 on F0, HP1 on F3 (R16, R311). -/
def portField (p : Bool) : FieldNo := if p then 3 else 0

/-- The router at whose local port a host port attaches (R311). -/
def portRtr (p : Bool) : Fin 64 := svcRtr (portField p)

/-! ### Ports and lanes of the mesh (R204, R207) -/

/-- The neighbour behind a mesh port: 0 N, 1 E, 2 S, 3 W. -/
def neighbour (r : Fin 64) (port : Nat) : Fin 64 :=
  let v := match port with
    | 0 => r.val + 48
    | 1 => r.val + 1
    | 2 => r.val + 16
    | _ => r.val + 63
  ⟨v % 64, by omega⟩

/-- The input of the neighbour that a mesh port leads to. -/
def opposite (port : Nat) : Nat := (port + 2) % 4

/-- A mesh port on the die edge has no link (R193). -/
def onEdge (r : Fin 64) (port : Nat) : Bool :=
  match port with
  | 0 => decide (r.val / 16 = 0)
  | 1 => decide (r.val % 16 = 15)
  | 2 => decide (r.val / 16 = 3)
  | _ => decide (r.val % 16 = 0)

/-- The lintel link that a mesh port crosses (Table 7.9): lintel and link. -/
def lintelAt (r : Fin 64) (port : Nat) : Option (Nat × Nat) :=
  let r' := neighbour r port
  let lo := min r.val r'.val
  if fieldOfRtr r = fieldOfRtr r' then none
  else if port % 2 = 1 then some (lo / 32 * 3 + lo % 16 / 4, lo / 16 % 2)
  else some (6 + lo % 16 / 4, lo % 4)

/-- Router and port of a lintel link, in the lower-numbered field (R221). -/
def lintelPort (lt l : Nat) : Fin 64 × Fin 4 :=
  if lt < 6 then (⟨(((lt / 3) * 2 + l % 2) * 16 + 4 * (lt % 3) + 3) % 64, by omega⟩, 1)
  else (⟨(16 + 4 * (lt - 6) + l % 4) % 64, by omega⟩, 2)

/-- The packets that a router receives through an input come from a higher-numbered field or, inside a field, from
a higher-numbered router. -/
def fromHigher (r : Fin 64) (inp : Nat) : Bool :=
  let r' := neighbour r inp
  if fieldOfRtr r = fieldOfRtr r' then decide (r.val < r'.val) else decide ((fieldOfRtr r).val < (fieldOfRtr r').val)

/-- A plane is out of service into a router's input (R207). -/
def State.planeDownAt (s : State) (r : Fin 64) (inp : Nat) (plane : Bool) : Bool :=
  match lintelAt r inp with
  | some (lt, l) => (s.lintel lt).planeOut l plane (fromHigher r inp)
  | none => s.fab.meshDown.contains (r, ⟨inp % 4, by omega⟩, plane)

/-- The plane on which a packet leaves by a port: the other one where its plane is out of service
(R207). -/
def State.planeVia (s : State) (r : Fin 64) (port : Nat) (plane : Bool) : Bool :=
  xor plane (s.planeDownAt (neighbour r port) (opposite port) plane)

/-- Bits [7:0] of the DETAIL of a lane's record (Table 7.6). Inside a field the link is the receiving router's
input. DESIGN CHOICE, log entry 94. -/
def laneDetail (x : Lane) : Word32 :=
  let (lt, l) := (lintelAt x.rtr x.inp.val).getD (15, x.inp.val)
  BitVec.ofNat 32 (lt + 16 * l) ||| bitAt x.plane 6 ||| bitAt (fromHigher x.rtr x.inp.val) 7

/-- A plane into a router's input goes out of service (R207). -/
def State.planeOff (s : State) (x : Lane) : State :=
  let s := match lintelAt x.rtr x.inp.val with
    | some (lt, l) =>
      let v := s.lintel lt
      let key := ((⟨l % 4, by omega⟩ : Fin 4), x.plane, fromHigher x.rtr x.inp.val, x.group)
      s.setLintel lt
        { v with planeDown := setBit v.planeDown (2 * l + x.plane.toNat) true, spared := v.spared ++ [key] }
    | none => { s with fab := { s.fab with meshDown := s.fab.meshDown ++ [(x.rtr, x.inp, x.plane)] } }
  s.fault 0x0103 none (laneDetail x) 0

/-- The spare of a lane's group is in use (R207). -/
def State.laneSpared (s : State) (x : Lane) : Bool :=
  match lintelAt x.rtr x.inp.val with
  | some (lt, l) => (s.lintel lt).spared.contains ((⟨l % 4, by omega⟩ : Fin 4), x.plane, fromHigher x.rtr x.inp.val, x.group)
  | none => s.fab.meshSpared.contains x

/-- A lane takes its group's spare; a lintel's is recorded bad in the field map (R207, R456). DESIGN CHOICE, log entry 94. -/
def State.takeSpare (s : State) (x : Lane) : State :=
  let d := laneDetail x ||| fieldAt x.group 8
  let s := s.fault 0x0102 none d 0
  match lintelAt x.rtr x.inp.val with
  | some (lt, l) =>
    let v := s.lintel lt
    let key := ((⟨l % 4, by omega⟩ : Fin 4), x.plane, fromHigher x.rtr x.inp.val, x.group)
    (s.setLintel lt { v with spared := v.spared ++ [key], spares := satInc v.spares }).mapOut 6 d.toNat 0x0102
  | none => { s with fab := { s.fab with meshSpared := s.fab.meshSpared ++ [x] } }

/-- A faulty lane is steered to its group's spare, or its plane goes out of service (R207). -/
def State.repairLane (s : State) (x : Lane) : State :=
  if onEdge x.rtr x.inp.val ∨ s.planeDownAt x.rtr x.inp.val x.plane = true then s
  else if s.laneSpared x then s.planeOff x
  else s.takeSpare x

/-- A mesh link with both planes out of service in a direction is absent (R207). -/
def State.absentLinks (s : State) : State :=
  (List.finRange 64).foldl
    (fun s r => (List.finRange 4).foldl
      (fun s (inp : Fin 4) =>
        let q : Fin 64 × Fin 4 := (neighbour r inp.val, ⟨opposite inp.val % 4, by omega⟩)
        let lo := if fromHigher r inp.val then (r, inp) else q
        let out := (s.planeDownAt r inp.val false && s.planeDownAt r inp.val true) ||
          match lintelAt r inp.val with
          | some (lt, l) => (s.lintel lt).linkOut l
          | none => false
        if onEdge r inp.val || !out || s.fab.absent.contains (r, inp) then s
        else
          ({ s with fab := { s.fab with absent := s.fab.absent ++ [(r, inp), q], tablesDue := true } }).fault
            0x0104 none (BitVec.ofNat 32 (lo.1.val + 64 * lo.2.val)) 0) s) s

/-! ### Routes (R201, R215) -/

/-- Steps along column c from row a to row b: the router left and the port taken (0 N, 2 S). -/
def colSteps (c a b : Nat) : List (Nat × Nat) :=
  if a ≤ b then (List.range (b - a)).map fun i => ((a + i) * 16 + c, 2)
  else (List.range (a - b)).map fun i => ((a - i) * 16 + c, 0)

/-- Steps along row r from column a to column b (1 E, 3 W). -/
def rowSteps (r a b : Nat) : List (Nat × Nat) :=
  if a ≤ b then (List.range (b - a)).map fun i => (r * 16 + a + i, 1)
  else (List.range (a - b)).map fun i => (r * 16 + a - i, 3)

/-- The route from a to b that crosses columns along row y. DEDUCED, log entry 34. -/
def routeVia (a b : Fin 64) (y : Nat) : List (Nat × Nat) :=
  colSteps (a.val % 16) (a.val / 16) y ++ rowSteps y (a.val % 16) (b.val % 16) ++
  colSteps (b.val % 16) y (b.val / 16)

/-- The nearest row of the other row of fields (R215). DEDUCED, log entry 34. -/
def detourRow (a : Fin 64) : Nat := if a.val / 16 < 2 then 2 else 1

/-- The loaded tables take the field of a router to be dark (R201, R215). -/
def State.tableDark (s : State) (r : Fin 64) : Bool := s.fab.loadedDark.getLsbD (fieldOfRtr r).val

/-- A route of the loaded tables avoids every dark router and absent link (R201, R215). DEDUCED, log entry 34. -/
def State.routeOk (s : State) (b : Fin 64) (r : List (Nat × Nat)) : Bool :=
  !s.tableDark b &&
  r.all fun p =>
    !s.tableDark ⟨p.1 % 64, by omega⟩ &&
    !s.fab.loadedAbsent.contains (⟨p.1 % 64, by omega⟩, ⟨p.2 % 4, by omega⟩)

/-- The loaded tables have a route: in dimension order, or by the detour (R201, R215). DEDUCED, log entry 34. -/
def State.reach (s : State) (a b : Fin 64) : Bool :=
  !s.tableDark a &&
  (s.routeOk b (routeVia a b (a.val / 16)) || s.routeOk b (routeVia a b (detourRow a)))

/-! ### Packets (R197) -/

/-- CRC-8 with polynomial 0x07, one bit. -/
def crc8Bit (c : BitVec 8) (b : Bool) : BitVec 8 :=
  if xor (c.getLsbD 7) b then (c <<< 1) ^^^ 0x07 else c <<< 1

/-- CRC-8 over the low n bits of a word, highest first. -/
def crc8Over (c : BitVec 8) (w : BitVec 128) : Nat → BitVec 8
  | 0 => c
  | n + 1 => crc8Over (crc8Bit c (w.getLsbD n)) w n

/-- Bits [127:64] of a header (Table 7.2). -/
def headHi (p : Packet) : BitVec 64 :=
  p.opc ++ BitVec.ofNat 6 p.dstRtr.val ++ b1 p.dstEp ++ BitVec.ofNat 6 p.srcRtr.val ++ b1 p.srcEp ++
  b1 p.owned ++ BitVec.ofNat 3 p.hamlet.val ++ p.len ++ p.txn ++ p.status ++ b1 p.fmt ++ p.contrib ++
  p.group

/-- Bits [55:0] of a header (Table 7.2). -/
def headLo (p : Packet) : BitVec 56 := p.lastUnits ++ (0 : BitVec 18) ++ p.addr

/-- HCHK of a header (Table 7.2). -/
def hchkOf (p : Packet) : BitVec 8 :=
  crc8Over (crc8Over 0 ((headHi p).setWidth 128) 64) ((headLo p).setWidth 128) 56

/-- LEN of a payload of n bytes: flits of 512 B less 1. DEDUCED, log entry 27. -/
def lenOf (n : Nat) : BitVec 4 := BitVec.ofNat 4 ((n + 511) / 512 - 1)

/-- LAST_UNITS of a payload of n bytes. -/
def lastUnitsOf (n : Nat) : BitVec 3 := BitVec.ofNat 3 ((n - 512 * ((n + 511) / 512 - 1)) / 64 - 1)

/-- Bytes that LEN and LAST_UNITS name (R197). -/
def spanOf (p : Packet) : Nat := 512 * p.len.toNat + 64 * (p.lastUnits.toNat + 1)

/-- A request packet with its span, from a source to a destination. DEDUCED, log entry 27. -/
def mkPacket (opc : BitVec 5) (src dst : Fin 64 × Bool) (tag : Option HamletNo) (addr : Nat) (span : Nat)
    (data : List Byte) : Packet :=
  { opc := opc, dstRtr := dst.1, dstEp := dst.2, srcRtr := src.1, srcEp := src.2, owned := tag.isSome,
    hamlet := tag.getD 0, len := lenOf span, txn := 0, status := 0, fmt := false, contrib := 0, group := 0,
    hchk := 0, lastUnits := lastUnitsOf span, addr := BitVec.ofNat 35 (addr / 64), data := data,
    truncated := false }

/-- The response to a request: ends exchanged, the same TXN and address. -/
def replyTo (p : Packet) (opc : BitVec 5) (status : BitVec 4) (data : List Byte) : Packet :=
  let q := { p with opc := opc, dstRtr := p.srcRtr, dstEp := p.srcEp, srcRtr := p.dstRtr,
                    srcEp := p.dstEp, len := lenOf data.length, status := status,
                    lastUnits := lastUnitsOf data.length, data := data, truncated := false }
  { q with hchk := hchkOf q }

/-- Byte address of a packet. -/
def pktAddr (p : Packet) : Nat := p.addr.toNat * 64

/-- Hamlet tag of a packet. -/
def pktTag (p : Packet) : Option HamletNo := tagOf p.owned p.hamlet

/-! ### Router buffers (R204) -/

/-- Plane of a packet: bit 13 of its address; SVC packets use plane 0 (R196). -/
def planeOf (p : Packet) : Bool := decide (p.opc ≠ 7) && (pktAddr p / 8192 % 2 == 1)

/-- Key of the buffer of a router's input on a plane: inputs 0 N, 1 E, 2 S, 3 W, 4 local. -/
def bufKey (r : Fin 64) (inp : Nat) (plane : Bool) : Nat := r.val * 10 + inp * 2 + plane.toNat

/-- Packets held at a router's input on a plane, oldest first. -/
def State.buf (s : State) (r : Fin 64) (inp : Nat) (plane : Bool) : List Packet :=
  tget (fun _ => []) s.fab.bufs (bufKey r inp plane)

/-- The packets at a router's input on a plane become l. -/
def State.setBuf (s : State) (r : Fin 64) (inp : Nat) (plane : Bool) (l : List Packet) : State :=
  { s with fab := { s.fab with bufs := tset (fun _ => []) s.fab.bufs (bufKey r inp plane) l } }

/-- A packet enters the mesh at its source router's local port. -/
def State.enter (s : State) (p : Packet) : State :=
  let s := s.setBuf p.srcRtr 4 (planeOf p) (s.buf p.srcRtr 4 (planeOf p) ++ [p])
  ({ s with fab := { s.fab with flying := s.fab.flying ++ [p] } }).send (.packet p)

/-- The same packet on its way, whatever has happened to its payload. -/
def samePacket (p q : Packet) : Bool :=
  decide (q.opc = p.opc) && decide (q.srcRtr = p.srcRtr) && decide (q.srcEp = p.srcEp) &&
  decide (q.dstRtr = p.dstRtr) && decide (q.dstEp = p.dstEp) && decide (q.txn = p.txn) &&
  (decide (p.opc ≠ 7) || decide (q.data.head? = p.data.head?))

/-- Two packets of one flow: one source endpoint, one destination endpoint, one plane (R203). -/
def sameFlow (p q : Packet) : Bool :=
  decide (q.srcRtr = p.srcRtr) && decide (q.srcEp = p.srcEp) && decide (q.dstRtr = p.dstRtr) &&
  decide (q.dstEp = p.dstEp) && decide (planeOf q = planeOf p)

/-- A packet's arrival waits for an earlier packet of its flow, which arrives before it (R203). -/
def State.overtakes (s : State) (p : Packet) : Bool :=
  s.fab.flying.any (samePacket p) &&
  (s.fab.flying.takeWhile fun q => !samePacket p q).any (sameFlow p)

/-- A packet that has arrived is in no buffer. -/
def State.arrived (s : State) (p : Packet) : State :=
  { s with fab := { s.fab with
      bufs := (s.fab.bufs.map fun b => (b.1, b.2.filter fun q => !samePacket p q)).filter fun b => b.2 ≠ [],
      flying := s.fab.flying.eraseP (samePacket p) } }

/-- A packet in a router's buffer is lost: its sender sees its delivery timeout (R202, R215). -/
def State.losePacket (s : State) (p : Packet) : State :=
  { s with fab := { s.fab with flying := s.fab.flying.eraseP (samePacket p) } }

/-- The packets in the buffers of routers for which a test holds are lost (R202, R215). -/
def State.loseBufs (s : State) (f : Nat → Bool) : State :=
  let gone := s.fab.bufs.filter fun b => f (b.1 / 10)
  let s := { s with fab := { s.fab with bufs := s.fab.bufs.filter fun b => !f (b.1 / 10) } }
  (gone.flatMap (·.2)).foldl State.losePacket s

/-- Words of a payload that passed their check, with their places (R184). -/
def goodWords (bs : List Byte) (bad : List Nat) : List (Nat × List Byte) :=
  ((List.range ((bs.length + 7) / 8)).filter fun i => !bad.contains i).map fun i =>
    (8 * i, (bs.drop (8 * i)).take 8)

/-- The words of a payload that passed are written through f (R184). -/
def State.putWords (s : State) (bs : List Byte) (bad : List Nat) (f : State → Nat → List Byte → State) :
    State :=
  if bad = [] then f s 0 bs
  else (goodWords bs bad).foldl (fun s w => f s w.1 w.2) s

/-! ### Receive buffers of links (R266) -/

/-- Units of a link packet: its header unit and its data units (section 9.3). -/
def pktUnits (p : LinkPkt) : Nat := 1 + (p.data.length + 63) / 64

/-- Units of the receive buffer reserved for each VC: 128 beside the shared pool, or 682 under version 1.0. -/
def Link.reserve (k : Link) : Nat := if k.minor = 0 then 682 else 128

/-- Units of the receive buffer that a VC has: what it holds and what its sender has credit for. -/
def Link.allotOf (k : Link) (vc : Nat) : Nat := tget (fun _ => k.reserve) k.allot vc

/-- The buffer of a VC becomes n units. -/
def Link.setAllot (k : Link) (vc n : Nat) : Link := { k with allot := tset (fun _ => k.reserve) k.allot vc n }

/-- Units of the shared pool in use, of 3,328. -/
def Link.pool (k : Link) : Nat := ((List.range 6).map fun v => k.allotOf v - k.reserve).sum

/-- The shared pool is granted in the order of the demands, while it lasts. Answers the credits granted. DESIGN CHOICE,
log entry 30. -/
def Link.grants (k : Link) : List (Nat × Nat) → List (Nat × Nat) × Link
  | [] => ([], { k with demands := [] })
  | (v, n) :: ds =>
    if k.pool + n ≤ 3328 then
      let r := (k.setAllot v (k.allotOf v + n)).grants ds
      ((v, n) :: r.1, r.2)
    else ([], { k with demands := (v, n) :: ds })

/-- Credits granted on a link are returned to its sender (R260, R266). -/
def State.credits (s : State) (l : LinkNo) (r : List (Nat × Nat) × Link) : State :=
  (s.setLink l r.2).sendAll (r.1.map fun x => .linkCredit l x.1 x.2)

/-- A link packet arrives in the receive buffer: its units are its VC's demand for credit from the pool; version 1.0
has no pool (R266, R270). DEDUCED, log entry 97. -/
def State.unitsIn (s : State) (l : LinkNo) (p : LinkPkt) : State :=
  let k := s.link l
  if k.minor = 0 then s else s.credits l (k.grants (k.demands ++ [(p.vc.toNat, pktUnits p)]))

/-- The units of a link packet leave the receive buffer: credit is returned up to what is reserved for the VC, and the
rest goes back to the pool (R266). DEDUCED, log entry 97. -/
def State.unitsOut (s : State) (l : LinkNo) (p : LinkPkt) : State :=
  let k := s.link l
  let v := p.vc.toNat
  let a := k.allotOf v - pktUnits p
  let r := (k.setAllot v (max a k.reserve)).grants k.demands
  s.credits l (if a < k.reserve then (v, k.reserve - a) :: r.1 else r.1, r.2)

/-! ### Requests that await a response (R199) -/

/-- The first TXN of a source router with no request outstanding, none when 1,024 are (R199). DESIGN CHOICE, log entry 94. -/
def State.freeTxn (s : State) (r : Fin 64) : Option Nat :=
  (List.range 1024).find? fun k =>
    !s.fab.txns.any fun x => decide (x.rtr = r) && decide (x.txn.toNat = k)

/-- The request outstanding under a TXN. -/
def State.txnOf (s : State) (r : Fin 64) (t : BitVec 10) : Option Txn :=
  s.fab.txns.find? fun x => decide (x.rtr = r) && decide (x.txn = t)

/-- A request is no longer outstanding. -/
def State.dropTxn (s : State) (r : Fin 64) (t : BitVec 10) : State :=
  { s with fab := { s.fab with
      txns := s.fab.txns.filter fun x => !(decide (x.rtr = r) && decide (x.txn = t)) } }

/-- A response answers a request: of its opcode and address (R199, R208); an SVC request is answered by SVC (R290).
DEDUCED, log entry 96. -/
def respondsTo (p : Packet) (x : Txn) : Bool :=
  decide (p.opc = if x.pkt.opc = 7 then 7 else x.pkt.opc + 1) && decide (p.addr = x.pkt.addr)

/-- The request a response answers; none for one that comes too late (R199, R208). -/
def State.answeredBy (s : State) (p : Packet) : Option Txn :=
  (s.txnOf p.dstRtr p.txn).filter (respondsTo p)

/-- A request enters the mesh under a fresh TXN and awaits its response from now (R199, R208). -/
def State.inject (s : State) (p : Packet) (use : TxnUse) (k : Nat) : State :=
  let p := { p with txn := BitVec.ofNat 10 k }
  let p := { p with hchk := hchkOf p }
  let x : Txn := { rtr := p.srcRtr, txn := BitVec.ofNat 10 k, pkt := p, since := s.tb, tries := 1, use := use }
  ({ s with fab := { s.fab with txns := s.fab.txns ++ [x] } }).enter p

/-- The source port of a packet can inject it: no pause, room in the router's local input, and a TXN for a new
request (R199, R202, R204). -/
def State.canSend (s : State) (p : Packet) (kind : PortKind) : Bool :=
  s.fab.paused.isNone && decide ((s.buf p.srcRtr 4 (planeOf p)).length < 2) &&
  match kind with
  | .request _ => (s.freeTxn p.srcRtr).isSome
  | _ => true

/-- A packet waits at its source port. -/
def State.queueAt (s : State) (e : PortReq) : State :=
  { s with fab := { s.fab with waiting := s.fab.waiting ++ [e] } }

/-- The delivery limit of a request sent again starts with its injection (R202, R208). -/
def State.restartTxn (s : State) (r : Fin 64) (t : BitVec 10) : State :=
  { s with fab := { s.fab with
      txns := s.fab.txns.map fun y => if y.rtr = r ∧ y.txn = t then { y with since := s.tb } else y } }

/-- A packet that waits at its source port is injected (R199, R202). -/
def State.sendQueued (s : State) (e : PortReq) : State :=
  let s := { s with fab := { s.fab with waiting := s.fab.waiting.erase e } }
  match e.kind with
  | .request use =>
    match s.freeTxn e.pkt.srcRtr with
    | some k =>
      (match use with
       | .remote l p => (s.inject e.pkt use k).unitsOut l p
       | _ => s.inject e.pkt use k)
    | none => s
  | .again restart => (if restart then s.restartTxn e.pkt.srcRtr e.pkt.txn else s).enter e.pkt
  | .response => s.enter e.pkt

/-- A packet of a unit that is no copy engine is handed to its source port: injected at once where the port takes it
and nothing waits there, else it waits (R199, R202, R204). -/
def State.handPort (s : State) (e : PortReq) : State :=
  if s.canSend e.pkt e.kind && !(s.fab.waiting.any fun w => decide (w.pkt.srcRtr = e.pkt.srcRtr)) then
    let s := s.sendQueued e
    { s with fab := { s.fab with portLast := tset (fun _ => 4) s.fab.portLast e.pkt.srcRtr.val 4 } }
  else s.queueAt e

/-- Whether a waiting packet is the one sent again under a TXN. -/
def PortReq.isAgain (e : PortReq) (r : Fin 64) (t : BitVec 10) : Bool :=
  decide (e.pkt.srcRtr = r) && decide (e.pkt.txn = t) &&
  match e.kind with
  | .again _ => true
  | _ => false

/-- A copy no longer wants the answer to its request (R199, R208): the TXN is freed where no answer is on its way,
else by its response or its delivery limit. -/
def State.leaveTxn (s : State) (r : Fin 64) (t : BitVec 10) : State :=
  let mine (e : Fin 64 × BitVec 10 × Word64) : Bool := decide (e.1 = r) && decide (e.2.1 = t)
  if (s.fab.waiting.any fun e => e.isAgain r t) || s.fab.resends.any mine then
    ({ s with fab := { s.fab with waiting := s.fab.waiting.filter fun e => !e.isAgain r t,
                                  resends := s.fab.resends.filter fun e => !mine e } }).dropTxn r t
  else s

/-! ### Links (R272 to R278) -/

/-- Links of a variant's field and how many of them are group links (Table 9.7). DEDUCED, log entry 29. -/
def State.linksPer (s : State) : Nat × Nat := if s.fuses.variant = 2 then (8, 4) else (12, 6)

/-- Local index of a link within its field (R272). -/
def linkIndex (l : LinkNo) : Nat := if l.val < 64 then l.val % 8 else 8 + (l.val - 64) % 4

/-- The link with local index i of field f (R272). -/
def linkAt (f i : Nat) : LinkNo :=
  if i < 8 then ⟨(8 * f + i) % 96, by omega⟩ else ⟨(64 + 4 * f + (i - 8)) % 96, by omega⟩

/-- The link is a global link (Table 9.7). -/
def State.isGlobal (s : State) (l : LinkNo) : Bool := decide (s.linksPer.2 ≤ linkIndex l)

/-- The variant has the link (Table 9.7, R3). -/
def State.hasLink (s : State) (l : LinkNo) : Bool := s.fuses.links.getLsbD l.val

/-- Number j of a group link, or k of a global link (Table 9.7). -/
def State.linkNumber (s : State) (l : LinkNo) : Nat :=
  let f := (fieldOfLink l).val
  if s.isGlobal l then (s.linksPer.1 - s.linksPer.2) * f + (linkIndex l - s.linksPer.2)
  else s.linksPer.2 * f + linkIndex l

/-- Group link j (Table 9.7). DEDUCED, log entry 29. -/
def State.groupLink (s : State) (j : Nat) : LinkNo := linkAt (j / s.linksPer.2) (j % s.linksPer.2)

/-- Global link k of a device with 64 links, or with 96 (Table 9.7). DEDUCED, log entry 29. -/
def globalOf (narrow : Bool) (k : Nat) : LinkNo :=
  if narrow then linkAt (k / 4) (4 + k % 4) else linkAt (k / 6) (6 + k % 6)

/-- Global link k of this device (Table 9.7). -/
def State.globalLink (s : State) (k : Nat) : LinkNo := globalOf (decide (s.fuses.variant = 2)) k

/-- nG (Table 9.7). -/
def State.nG (s : State) : Nat := 8 * s.linksPer.2

/-- nX (Table 9.7). -/
def State.nX (s : State) : Nat := 8 * (s.linksPer.1 - s.linksPer.2)

/-- c_g, group links per peer (R273). -/
def State.cG (s : State) : Nat := s.nG / (s.groupN - 1)

/-- The devices of a group have 64 links (R272, R273): this group's as this device. DESIGN CHOICE, log entry 2. -/
def State.narrow (s : State) (h : Nat) : Bool :=
  if h = s.id.dev.toNat / 16 then decide (s.fuses.variant = 2) else s.groupNarrow.getLsbD h

/-- nX of a group's devices (Table 9.7, R274). -/
def State.nXof (s : State) (h : Nat) : Nat := if s.narrow h then 32 else 48

/-- c_x, the global links of a group per other group (R274). -/
def State.cXof (s : State) (h : Nat) : Nat := if s.groupH ≤ 1 then 0 else s.groupN * s.nXof h / (s.groupH - 1)

/-- The instances that join this device's group to another (R274). -/
def State.cX (s : State) (h : Nat) : Nat := min (s.cXof (s.id.dev.toNat / 16)) (s.cXof h)

/-- The device and link that a cabled link joins, none where the link is not cabled (R273, R274). -/
def State.cabledTo (s : State) (l : LinkNo) : Option (Nat × LinkNo) :=
  let g := s.id.dev.toNat % 16
  let h := s.id.dev.toNat / 16
  if s.hasLink l = false then none
  else if s.isGlobal l then
    let sl := s.nX * g + s.linkNumber l
    if s.groupH ≤ 1 then none
    else
      let e := sl % (s.groupH - 1) + 1
      let n := sl / (s.groupH - 1)
      let sl' := (s.groupH - 1 - e) + (s.groupH - 1) * n
      let far := (h + e) % s.groupH
      if n < s.cX far then
        some (16 * far + sl' / s.nXof far, globalOf (s.narrow far) (sl' % s.nXof far))
      else none
  else
    let j := s.linkNumber l
    let d := j % (s.groupN - 1) + 1
    let n := j / (s.groupN - 1)
    if j < s.cG * (s.groupN - 1) then
      some (16 * h + (g + d) % s.groupN, s.groupLink ((s.groupN - 1 - d) + (s.groupN - 1) * n))
    else none

/-- LNK_STATUS.CABLED (R273, R274, Table 9.10), once the device knows its number. -/
def State.isCabled (s : State) (l : LinkNo) : Bool := s.id.valid && (s.cabledTo l).isSome

/-- Credit a link holds on a VC (R266). -/
def Link.credit (k : Link) (vc : Nat) : Nat := tget (fun _ => 0) k.credits vc

/-- Packets that wait start while their VC holds credit for all their units; a VC whose oldest packet
cannot start holds its later ones back (R266). Answers the packets started and the link after. DESIGN CHOICE, log entry 30. -/
def Link.drain (k : Link) : List LinkPkt → List Nat → List LinkPkt × Link
  | [], _ => ([], { k with txQ := [] })
  | p :: ps, held =>
    let vc := p.vc.toNat
    if !held.contains vc && decide (pktUnits p ≤ k.credit vc) then
      let k := { k with credits := tset (fun _ => 0) k.credits vc (k.credit vc - pktUnits p) }
      let r := k.drain ps held
      (p :: r.1, r.2)
    else
      let r := k.drain ps (vc :: held)
      (r.1, { r.2 with txQ := p :: r.2.txQ })

/-- Epochs sent since the stream or its last replay began: one lasts 680/7 ns, twice that at half rate (R259, section
9.2). -/
def Link.epochs (k : Link) (now : Word64) : Nat := (now - k.txStart).toNat * 7 / (if k.half then 1360 else 680)

/-- EPOCH of the epoch being sent (R261). -/
def Link.epochNow (k : Link) (now : Word64) : Word64 := k.txEpoch + BitVec.ofNat 64 (k.epochs now)

/-- SEQ of the first block of the epoch being sent (R260): not before what a replay sends again. DESIGN CHOICE, log entry 30. -/
def Link.seqNow (k : Link) (now : Word64) : BitVec 10 :=
  let q := k.txBase + BitVec.ofNat 10 (8 * k.epochs now)
  match k.kept.getLast? with
  | some x => if (q - x.1).toNat < 512 then q else x.1
  | none => q

/-- The sender's key has served 2^31 epochs: nothing is sent under it (R271). DESIGN CHOICE, log entry 30. -/
def Link.worn (k : Link) (now : Word64) : Bool := decide (2147483648 ≤ (k.epochNow now - k.keyEpoch).toNat)

/-- The stream starts again at a block now: EPOCH goes on (R261, R263, R267). -/
def Link.restart (k : Link) (from_ : BitVec 10) (now : Word64) : Link :=
  { k with txEpoch := k.epochNow now, txBase := from_, txStart := now }

/-- What a link holds back is sent as far as its credits reach, and kept until it is acknowledged (R266, R267). A link
in RETRAIN holds its traffic (Table 9.6). DESIGN CHOICE, log entry 30. -/
def State.flush (s : State) (l : LinkNo) : State :=
  let k := s.link l
  if k.st ≠ .up ∨ k.worn s.tb = true then s
  else
    let r := k.drain k.txQ []
    let q := k.seqNow s.tb
    (s.setLink l { r.2 with kept := r.2.kept ++ r.1.map fun p => (q, p) }).sendAll (r.1.map (Out.linkPkt l))

/-- A packet is handed to a link's sender (R266). DESIGN CHOICE, log entry 30. -/
def State.sendLink (s : State) (l : LinkNo) (p : LinkPkt) : State :=
  (s.modLink l fun k => { k with txQ := k.txQ ++ [p] }).flush l

/-- A link carries packets of a hamlet tag: it is UP, or holds them in RETRAIN, is owned alike, and confirmed when
owned (R278, R438, Table 9.6). DEDUCED, log entry 29. -/
def State.carries (s : State) (l : LinkNo) (tag : Option HamletNo) : Bool :=
  let k := s.link l
  (decide (k.st = .up) || decide (k.st = .retrain)) && decide (k.owner = tag) && (k.owner.isNone || k.confirmed) && !k.moved &&
  !s.isDark (fieldOfLink l)

/-- The candidates in the order tried: from instance n, wrapping (R276). -/
def rotate {α : Type} (n : Nat) (l : List α) : List α :=
  if l = [] then [] else l.drop (n % l.length) ++ l.take (n % l.length)

/-- The group link of this device's group to position g, chosen by R276. -/
def State.groupHop (s : State) (g pick : Nat) (tag : Option HamletNo) : Option LinkNo :=
  let me := s.id.dev.toNat % 16
  let d := (g + s.groupN - me) % s.groupN
  if d = 0 then none
  else
    (rotate pick ((List.range s.cG).map fun n => s.groupLink ((d - 1) + (s.groupN - 1) * n))).find?
      fun l => s.carries l tag

/-- The link on which this device sends a packet from device src on towards device dst (R276, R278);
here, a global link held by another device of the group is taken to be UP. DEDUCED, log entry 29. -/
def State.linkTo (s : State) (src dst : BitVec 12) (addr : Word64) (tag : Option HamletNo) :
    Option LinkNo :=
  let pick := src.toNat + dst.toNat + (addr.extractLsb' 13 3).toNat
  let me := s.id.dev.toNat
  if dst.toNat = me then none
  else if dst.toNat / 16 = me / 16 then s.groupHop (dst.toNat % 16) pick tag
  else if s.groupH ≤ 1 then none
  else
    let e := (dst.toNat / 16 + s.groupH - me / 16 % s.groupH) % s.groupH
    let slots := rotate pick ((List.range (s.cX (dst.toNat / 16))).map fun n => (e - 1) + (s.groupH - 1) * n)
    let mine (x : Nat) : Bool := decide (x / s.nX = me % 16)
    let here := slots.filter fun x => mine x || decide (src.toNat = me)
    (here.find? fun x => !mine x || s.carries (s.globalLink (x % s.nX)) tag).bind fun x =>
      if mine x then some (s.globalLink (x % s.nX)) else s.groupHop (x / s.nX) pick tag

/-- The response to a remote device's request leaves for it (R276, R280). -/
def State.remoteReply (s : State) (l : LinkNo) (q : LinkPkt) (opc : BitVec 8) (st : BitVec 4)
    (data : List Byte) : State :=
  match s.linkTo s.id.dev q.srcDev q.addr (s.link l).owner with
  | some k =>
    s.sendLink k { q with opc := opc, vc := 3, status := st, srcDev := s.id.dev,
                                dstDev := q.srcDev, len := BitVec.ofNat 16 (data.length / 64),
                                data := data }
  | none => s

/-! ### Tree edges (R294) -/

/-- The uplink of a context. -/
def TreeCtx.up (t : TreeCtx) : LinkNo := ⟨t.uplink.toNat % 96, by omega⟩

/-- A group link to the same peer that can carry an edge in place of l (R294). -/
def State.edgeTo (s : State) (l : LinkNo) : Option LinkNo :=
  let k := s.link l
  if s.isGlobal l then none
  else
    (List.finRange 96).find? fun m =>
      let v := s.link m
      decide (m ≠ l) && !s.isGlobal m && decide (v.st = .up) && decide (v.peerDev = k.peerDev) &&
      decide (v.owner = k.owner)

/-- A context whose edge used link l moves it to link m, or fails (R294). -/
def TreeCtx.moveEdge (t : TreeCtx) (l : LinkNo) (m : Option LinkNo) : TreeCtx :=
  let up := decide (t.up = l) && !t.root
  let child := t.children.getLsbD l.val
  if t.valid = false ∨ (up = false ∧ child = false) then t
  else
    match m with
    | none => { t with failed := true }
    | some k =>
      { t with uplink := if up then BitVec.ofNat 7 k.val else t.uplink,
               home := if up then fieldOfLink k else t.home,
               children := if child then setBit (setBit t.children l.val false) k.val true
                           else t.children }

/-- The edges that a link carried move or fail, in every context at one commit (R294). -/
def State.moveEdges (s : State) (l : LinkNo) : State :=
  let m := s.edgeTo l
  (List.finRange 64).foldl (fun s t => s.setTree t ((s.tree t).moveEdge l m)) s

end Sys2Proof.Machine
end

