-- ==== Sys2Proof/Machine/Bells.lean ====
section
/-!
DEFINITION. Machine/Bells.lean: bells and token delivery (10_bells_collectives.md, 10.1 and 10.2).
-/

namespace Sys2Proof.Machine

/-! ### Status codes (Tables 7.5, 9.8, 4.9) -/

/-- The Table 4.9 code a final fabric or link status reaches a copy engine as (R217, R280). DEDUCED, log entry 68. -/
def copyCode (st : BitVec 4) : BitVec 4 :=
  match st.toNat with
  | 1 => 2
  | 2 => 3
  | 3 => 4
  | 4 => 8
  | 5 => 9
  | 6 => 9
  | 7 => 6
  | 8 => 7
  | 9 => 7
  | 10 => 1
  | 11 => 1
  | 12 => 5
  | 13 => 8
  | _ => 0

/-- A failed bell operation is counted and the fault manager told (R292). DEDUCED, log entry 36. -/
def State.bellFail (s : State) (site : Option SiteNo) (st : BitVec 4) : State :=
  let s := { s with coll := { s.coll with remoteFail := satInc s.coll.remoteFail } }
  s.tell 0x000F site ((copyCode st).setWidth 32) 0

/-! ### The entry image (Table 10.1) -/

/-- Word 2 of an entry (Table 10.1, offset 0x08). -/
def Bell.word2 (b : Bell) : Word32 :=
  bitAt b.armed 31 ||| bitAt b.rearm 30 ||| bitAt b.owner.isSome 29 |||
  fieldAt (match b.owner with | some h => BitVec.ofNat 3 h.val | none => (0 : BitVec 3)) 26 |||
  bitAt b.actTok 25 ||| bitAt b.actIrq 24 ||| bitAt b.actFwd 23 ||| bitAt b.actMcast 22 |||
  bitAt b.align 21 ||| bitAt b.saturated 20 ||| bitAt b.late 19 ||| fieldAt b.tok 0

/-- The entry image of a bell (Table 10.1). -/
def Bell.image (b : Bell) : BellImg :=
  { count := b.count, target := b.target, w2 := b.word2, cores := b.cores,
    source := b.source.setWidth 32,
    fwd := fieldAt b.dev 20 ||| bitAt b.remote 19 ||| fieldAt b.mset 13 ||| fieldAt b.fwd 0,
    fired := b.fired, align := b.alignNs.setWidth 32 }

/-- The words of an image, in order. -/
def imageWords (i : BellImg) : List Word32 :=
  [i.count, i.target, i.w2, i.cores, i.source, i.fwd, i.fired, i.align]

/-- The 32 bytes of an entry image (Table 10.1). -/
def imageBytes (i : BellImg) : List Byte := (imageWords i).flatMap fun w => leBytes 4 w.toNat

/-- The entry image that 32 bytes spell. -/
def imageOf (bs : List Byte) : BellImg :=
  let w (i : Nat) : Word32 := BitVec.ofNat 32 (leNat ((bs.drop (4 * i)).take 4))
  { count := w 0, target := w 1, w2 := w 2, cores := w 3, source := w 4, fwd := w 5, fired := w 6, align := w 7 }

/-! ### SVC payloads (R290, Table 10.3) -/

/-- The 64 B of a payload: bytes 0, 1, 2–3, 4–7, 8–15, 16–19, 20–23, 24–25 and 32–63; all others are 0. -/
def svcBytes (b0 b1 b2 b4 b8 b16 b20 b24 : Nat) (tail : List Byte) : List Byte :=
  leBytes 1 b0 ++ leBytes 1 b1 ++ leBytes 2 b2 ++ leBytes 4 b4 ++ leBytes 8 b8 ++ leBytes 4 b16 ++ leBytes 4 b20 ++
  leBytes 2 b24 ++ zeros 6 ++ (tail ++ zeros 32).take 32

/-- Payload of BELL_OP, sent by a device. -/
def bellOpBytes (m : BellMsg) (src : BitVec 12) : List Byte :=
  svcBytes 1 m.op.toNat m.bell.toNat m.amount.toNat m.instant.toNat 0 0 src.toNat
    (if m.op = 1 then imageBytes m.image else [])

/-- Payload of BELL_DATA, sent by a device. -/
def bellDataBytes (op : BitVec 8) (b : BitVec 13) (img : Option BellImg) (src : BitVec 12) : List Byte :=
  svcBytes 2 op.toNat b.toNat 0 0 0 0 src.toNat (img.elim [] imageBytes)

/-- KIND of a BUDGET message. -/
def budgetKindNo : BudgetKind → Nat
  | .report => 0
  | .take => 1
  | .takeAck => 2
  | .give => 3
  | .giveAck => 4

/-- KIND of a recovery message (Table 15.4). -/
def recKindNo : RecKind → Nat
  | .stop => 0
  | .stopped => 1
  | .restore => 2
  | .ready => 3
  | .go => 4
  | .fail => 5

/-- The payload of what a device sends over the services path (Table 10.3, Table 15.4, section 14.1). DESIGN CHOICE, log entry 95. -/
def Out.payload (self : BitVec 12) : Out → Option (List Byte)
  | .bellOp m => some (bellOpBytes m self)
  | .bellData op b _ img => some (bellDataBytes op (BitVec.ofNat 13 b.val) img self)
  | .tokenPkt lc tok _ => some (svcBytes 3 tok.toNat lc.val 1 0 0 0 0 [])
  | .resetAt _ t0 root => some (svcBytes 4 0 0 0 t0.toNat 0 0 root.toNat [])
  | .budget k _ m => some (svcBytes 5 (budgetKindNo k) 0 m.window.toNat 0 m.watts.toNat m.slack.toNat m.dev.toNat [])
  | .recovery k _ m _ => some (svcBytes 6 (recKindNo k)
      (m.attempt.toNat + 256 * m.tallyOk.toNat + 512 * m.noSpare.toNat) m.job.toNat
      (if k = .go then m.instant.toNat else 0) m.tally.toNat m.cause.toNat m.source.toNat [])
  | .raisePkt n b => some (svcBytes 0x10 0 n.toNat (fieldOfBell b).val 0 0 0 0 [])
  | _ => none

/-- TYPE of a payload. -/
def svcType (bs : List Byte) : Nat := ((bs.head?).getD 0).toNat

/-- The operation that a BELL_OP payload spells. -/
def bellOpOf (bs : List Byte) : BellMsg :=
  let n (a len : Nat) : Nat := leNat ((bs.drop a).take len)
  { op := BitVec.ofNat 8 (n 1 1), dev := none, bell := BitVec.ofNat 13 (n 2 2), amount := BitVec.ofNat 32 (n 4 4),
    instant := BitVec.ofNat 64 (n 8 8), tag := none, image := imageOf (bs.drop 32) }

/-! ### Sending an operation (R290 to R292) -/

/-- A failed operation of a BELL_OP descriptor is counted (R292). -/
def State.bellCount (s : State) : State :=
  { s with coll := { s.coll with remoteFail := satInc s.coll.remoteFail } }

/-- DETAIL of TRANSFER for a Table 7.5 or 9.8 status (Table 11.6). DEDUCED, log entry 68. -/
def transferDetail (st : BitVec 4) : Word32 := fieldAt (copyCode st) 0 ||| fieldAt st 4

/-- The answer to a BELL_OP descriptor: the entry a READ returns goes to HOST_ADDR (R292, R327). -/
def State.bellOpEnd (s : State) (id : Nat) (st : BitVec 4) (img : Option BellImg) : State :=
  match s.desc id with
  | none => s
  | some d =>
    if st ≠ 0 then s.bellCount.setReady id 8 (transferDetail st) 0
    else
      let s := match img with
        | some i =>
          if (wordAt d.words 2).extractLsb' 0 8 = 4 then s.toHost d.ring (dwordAt d.words 6) (imageBytes i)
          else s
        | none => s
      s.setReady id 0 0 0

/-- The answer to a bell operation of this device, or why there is none, reaches who sent it (R292). -/
def State.bellEnds (s : State) (who : BellFor) (st : BitVec 4) (img : Option BellImg) : State :=
  match who with
  | .core n =>
    let s := s.modSite n fun c => { c with bellsOut := c.bellsOut - 1 }
    if st = 0 then s else s.bellFail (some n) st
  | .desc id =>
    (match s.desc id with
     | some d => if d.started && d.ready.isNone && decide (d.cls = 6) then s.bellOpEnd id st img else s
     | none => s)
  | .unit => if st = 0 then s else s.bellFail none st

/-- Where a bell operation goes on the die: the services endpoint of the bell's field, or the link bundle of the link
that R276 chooses for its address; none where no link carries it (R277, R290, R291). DESIGN CHOICE, log entry 95. -/
def State.bellWay (s : State) (m : BellMsg) : Option (Fin 64 × Bool) :=
  match m.dev with
  | none => some (svcRtr ⟨m.bell.toNat / 1024, by have := m.bell.isLt; omega⟩, false)
  | some d => (s.linkTo s.id.dev d (BitVec.ofNat 64 (64 * m.bell.toNat)) m.tag).map fun l => s.linkPort (fieldOfLink l)

/-- The SVC packet of a bell operation, from an endpoint to another (R290). -/
def State.bellPacket (s : State) (src dst : Fin 64 × Bool) (m : BellMsg) : Packet :=
  mkPacket 7 src dst m.tag (64 * m.bell.toNat) 64 (bellOpBytes m s.id.dev)

/-- A bell operation is sent from an endpoint and awaits its response; its source port answers one that has no way
(R215, R290 to R292). DESIGN CHOICE, log entry 95. -/
def State.sendBell (s : State) (src : Fin 64 × Bool) (who : BellFor) (m : BellMsg) : State :=
  let s := s.send (.bellOp m)
  match s.bellWay m with
  | some dst =>
    if s.reach src.1 dst.1 then s.handPort { pkt := s.bellPacket src dst m, kind := .request (.bell who m.dev) }
    else s.bellEnds who 4 none
  | none => s.bellEnds who 4 none

/-- A core sends a bell operation and awaits its response (R292). -/
def State.bellFrom (s : State) (n : SiteNo) (m : BellMsg) : State :=
  (s.modSite n fun c => { c with bellsOut := c.bellsOut + 1 }).sendBell (rtrOfSite n, false) (.core n) m

/-- A bell operation of a core: at most 64 await a response, and one more waits (R292). DESIGN CHOICE, log entry 95. -/
def State.coreBell (s : State) (n : SiteNo) (m : BellMsg) : State :=
  if (s.site n).bellsOut < 64 ∧ (s.site n).bellQ = [] then s.bellFrom n m
  else s.modSite n fun c => { c with bellQ := c.bellQ ++ [m] }

/-- What a core has waiting goes while fewer than 64 are outstanding (R292). -/
def State.bellDrain (s : State) (n : SiteNo) : Nat → State
  | 0 => s
  | k + 1 =>
    match (s.site n).bellQ with
    | m :: rest =>
      if (s.site n).bellsOut < 64 then ((s.modSite n fun c => { c with bellQ := rest }).bellFrom n m).bellDrain n k
      else s
    | [] => s

/-- The answer to a bell operation is taken, and its core's next goes (R292). -/
def State.bellDone (s : State) (who : BellFor) (st : BitVec 4) (img : Option BellImg) : State :=
  let s := s.bellEnds who st img
  match who with
  | .core n => s.bellDrain n (s.site n).bellQ.length
  | _ => s

/-- SET: the image is written, except OWNED, HAMLET and FIRED; SATURATED and LATE clear (Table 10.2). -/
def Bell.set (b : Bell) (i : BellImg) : Bell :=
  { b with count := i.count, target := i.target, armed := i.w2.getLsbD 31, rearm := i.w2.getLsbD 30,
           actTok := i.w2.getLsbD 25, actIrq := i.w2.getLsbD 24, actFwd := i.w2.getLsbD 23,
           actMcast := i.w2.getLsbD 22, align := i.w2.getLsbD 21, saturated := false, late := false,
           tok := i.w2.extractLsb' 0 6, cores := i.cores, source := i.source.extractLsb' 0 10,
           dev := i.fwd.extractLsb' 20 12, remote := i.fwd.getLsbD 19, mset := i.fwd.extractLsb' 13 6,
           fwd := i.fwd.extractLsb' 0 13, alignNs := i.align.extractLsb' 0 16 }

/-! ### Firing (R285 to R287) -/

/-- A bell is a release bell of an outstanding LAUNCH with TALLY_EN, so it signals the tally logic and
no token (section 10.6). -/
def State.tallyRelease (s : State) (b : BellNo) : Bool :=
  s.host.descs.any fun d => d.runs && d.tallyEn &&
    (decide (((wordAt d.words 10).extractLsb' 13 13).toNat = b.val) ||
     decide (((wordAt d.words 11).extractLsb' 13 13).toNat = b.val))

/-- One token action of a firing: the logical core is resolved through the core map (R286). -/
def State.tokenAction (s : State) (b : Bell) (lc : LCoreNo) : State :=
  match s.siteOf lc with
  | some _ => s.send (.tokenPkt lc b.tok b.owner)
  | none => { s with coll := { s.coll with dropped := satInc s.coll.dropped } }

/-- The ADD that a destination of a multicast set receives (R286). -/
def mcastAdd (b : Bell) (i : Word64) (d : MDest) : BellMsg :=
  { op := 0, dev := if d.remote then some d.dev else none, bell := d.bell, amount := 1,
    instant := i, tag := b.owner }

/-- The ADD that a bell forwards (R286). -/
def Bell.forward (v : Bell) (i : Word64) : BellMsg :=
  { op := 0, dev := if v.remote then some v.dev else none, bell := v.fwd, amount := 1, instant := i, tag := v.owner }

/-- The actions of a firing of bell b, with the instant its forwards carry (R286, R287). -/
def State.bellActions (s : State) (b : BellNo) (i : Word64) : State :=
  let v := s.bell b
  let s :=
    if v.actTok && !s.tallyRelease b then
      ((List.finRange 32).filter fun lc => v.cores.getLsbD lc.val).foldl
        (fun s lc => s.tokenAction v lc) s
    else s
  let s := if v.actIrq then s.send (.raisePkt v.source b) else s
  let here : Fin 64 × Bool := (svcRtr (fieldOfBell b), false)
  let s := if v.actFwd then s.sendBell here .unit (v.forward i) else s
  if v.actMcast then (s.mset v.mset.toNat).dests.foldl (fun s d => s.sendBell here .unit (mcastAdd v i d)) s else s

/-- The instant of a firing: the operation's, else the aligning bell's own (R287). -/
def Bell.instantOf (v : Bell) (i now : Word64) : Word64 :=
  if i ≠ 0 then i else if v.align then now + v.alignNs.setWidth 64 else 0

/-- The bell fires when ARMED is 1, TARGET is at least 1 and COUNT is at least TARGET. -/
def Bell.fires (v : Bell) : Bool :=
  v.armed && decide (v.target ≠ 0) && decide (v.target ≤ v.count)

/-- The entry after a firing (R285). -/
def Bell.afterFire (v : Bell) : Bell :=
  let v := { v with fired := v.fired + 1 }
  if v.rearm then
    { v with count := v.count - v.target, refire := decide (v.target ≤ v.count - v.target) }
  else { v with armed := false, refire := false }

/-- An instant among those still to come, in their order (R287). -/
def insertInstant (i : Word64) : List Word64 → List Word64
  | [] => [i]
  | x :: xs => if i < x then i :: x :: xs else x :: insertInstant i xs

/-- The firing rule after an operation that carries instant i, 0 for none (R285, R287). -/
def State.bellRule (s : State) (b : BellNo) (i : Word64) : State :=
  let v := s.bell b
  if v.fires = false then s.setBell b { v with refire := false }
  else
    let at_ := v.instantOf i s.tb
    let v' := v.afterFire
    if at_ = 0 ∨ at_ = s.tb then (s.setBell b v').bellActions b at_
    else if at_ < s.tb then
      let s := s.setBell b { v' with late := true }
      let s := { s with coll := { s.coll with late := satInc s.coll.late } }
      s.bellActions b at_
    else s.setBell b { v' with due := insertInstant at_ v'.due }

/-! ### Who may operate a bell (R283, R288) -/

/-- The owner that an operation's source belongs to (R288). -/
def State.srcOwner (s : State) : BellSrc → Option HamletNo
  | .packet _ _ o h => tagOf o h
  | .ring r => (s.ring r).owner
  | .device => none

/-- The answer to an operation on bell b: OK, or why it has no effect (R283, R288, R216). -/
def State.bellStatus (s : State) (b : BellNo) (src : BellSrc) : BitVec 4 :=
  if s.isDark (fieldOfBell b) then 4
  else if s.hamletResetting (s.bell b).owner || s.bellHeld b.val then 2
  else if s.srcOwner src ≠ (s.bell b).owner then 1
  else 0

/-- The operation of a source that is on its way in an SVC packet. -/
def State.bellFlying (s : State) (b : BellNo) : BellSrc → Option Packet
  | .packet src txn _ _ =>
    s.fab.flying.find? fun q => decide (q.opc = 7) && decide (svcType q.data = 1) && decide (q.srcRtr = src.1) &&
      decide (q.srcEp = src.2) && decide (q.dstRtr = svcRtr (fieldOfBell b)) && decide (q.dstEp = false) &&
      decide (q.txn = txn)
  | _ => none

/-- A bell takes no operation yet: its field's clocks are stopped (R349), or the operation's packet comes after an
earlier one of its flow (R203, R291). -/
def State.bellWaits (s : State) (b : BellNo) (src : BellSrc) : Bool :=
  s.fieldStopped (fieldOfBell b) || (s.bellFlying b src).any s.overtakes

/-- The BELL_DATA packet for an operation that came in a packet (R290). -/
def State.bellReply (s : State) (b : BellNo) (src : Fin 64 × Bool) (txn : BitVec 10) (tag : Option HamletNo)
    (op : BitVec 8) (st : BitVec 4) (img : Option BellImg) : Packet :=
  let p := mkPacket 7 (svcRtr (fieldOfBell b), false) src tag (64 * b.val) 64
    (bellDataBytes op (BitVec.ofNat 13 b.val) img s.id.dev)
  let p := { p with txn := txn, status := st }
  { p with hchk := hchkOf p }

/-- The operation is answered by one BELL_DATA, with the entry where it is a READ (R290). -/
def State.bellAnswer (s : State) (op : BitVec 8) (b : BellNo) (src : BellSrc) (st : BitVec 4)
    (img : Option BellImg) : State :=
  let s := s.send (.bellData op b st img)
  match src with
  | .packet from_ txn o h => s.handPort { pkt := s.bellReply b from_ txn (tagOf o h) op st img, kind := .response }
  | _ => s

/-- The packet of an operation that reaches its bell is in no buffer. -/
def State.bellCame (s : State) (b : BellNo) (src : BellSrc) : State :=
  match s.bellFlying b src with
  | some q => s.arrived q
  | none => s

/-- An operation reaches a bell: applied and answered, or answered with why it has no effect (R284, R288, R290). -/
def State.bellCmd (s : State) (op : BitVec 8) (b : BellNo) (src : BellSrc) (img : Option BellImg)
    (apply : State → State) : State :=
  if s.bellWaits b src then s
  else
    let s := s.bellCame b src
    let st := s.bellStatus b src
    if st ≠ 0 then s.bellAnswer op b src st none else (apply s).bellAnswer op b src 0 img

/-- ADD of an amount: COUNT saturates (R285). -/
def Bell.add (v : Bell) (amount : Word32) : Bell :=
  if 4294967296 ≤ v.count.toNat + amount.toNat then
    { v with count := BitVec.allOnes 32, saturated := true }
  else { v with count := v.count + amount }

/-- BELL_ADD (R285, Table 10.2). -/
def execBellAdd (b : BellNo) (src : BellSrc) (amount : Word32) (instant : Word64) (s : State) :
    Host.Outcome State Fault Refusal :=
  .next (s.bellCmd 0 b src none fun s => (s.setBell b ((s.bell b).add amount)).bellRule b instant)

/-- BELL_SET (R289, Table 10.2). -/
def execBellSet (b : BellNo) (src : BellSrc) (img : BellImg) (s : State) :
    Host.Outcome State Fault Refusal :=
  .next (s.bellCmd 1 b src none fun s => (s.setBell b ((s.bell b).set img)).bellRule b 0)

/-- BELL_ARM (R289, Table 10.2). -/
def execBellArm (b : BellNo) (src : BellSrc) (s : State) : Host.Outcome State Fault Refusal :=
  .next (s.bellCmd 2 b src none fun s => (s.setBell b { s.bell b with armed := true }).bellRule b 0)

/-- BELL_DISARM (R289, Table 10.2). -/
def execBellDisarm (b : BellNo) (src : BellSrc) (s : State) : Host.Outcome State Fault Refusal :=
  .next (s.bellCmd 3 b src none fun s => s.setBell b { s.bell b with armed := false, refire := false })

/-- BELL_READ (R289, Table 10.2). -/
def execBellRead (b : BellNo) (src : BellSrc) (s : State) : Host.Outcome State Fault Refusal :=
  .next (s.bellCmd 4 b src (some (s.bell b).image) fun s => s)

/-- BELL_REFIRE (R285): a rearmed bell still at or above its target fires in the next slot. -/
def execBellRefire (b : BellNo) (s : State) : Host.Outcome State Fault Refusal :=
  if (s.bell b).refire = false ∨ s.isDark (fieldOfBell b) = true ∨ s.fieldStopped (fieldOfBell b) = true then .next s
  else .next (s.bellRule b 0)

/-- BELL_ALIGNED_ACTION (R287): the actions of a firing are taken at the first cycle whose time base is
at least its instant; the earliest instant comes first. -/
def execBellAlignedAction (b : BellNo) (t : Word64) (s : State) : Host.Outcome State Fault Refusal :=
  let s := s.at t
  match (s.bell b).due with
  | [] => .next s
  | i :: rest =>
    if s.tb < i ∨ s.isDark (fieldOfBell b) = true ∨ s.fieldStopped (fieldOfBell b) = true then .next s
    else .next ((s.setBell b { s.bell b with due := rest }).bellActions b i)

/-! ### Link packets refused or carried on (R276, R278, R279) -/

/-- A response to a link packet that this device refuses. -/
def State.refuse (s : State) (l : LinkNo) (p : LinkPkt) (st : BitVec 4) : State :=
  match p.opc.toNat with
  | 1 => s.remoteReply l p 2 st []
  | 3 => s.remoteReply l p 4 st []
  | 5 => s.remoteReply l p 6 st []
  | 7 =>
    if svcType p.data = 1 then
      s.remoteReply l p 7 st (bellDataBytes (bellOpOf p.data).op (bellOpOf p.data).bell none s.id.dev)
    else s
  | _ => s

/-- A packet for another device crosses the fabric to the bundle of a link owned alike and goes on, one VC higher; a
fabric pause holds it (R202, R266, R276, R278). DESIGN CHOICE, log entry 30. -/
def State.transit (s : State) (l : LinkNo) (p : LinkPkt) : State :=
  if s.fab.paused.isSome then { s with fab := { s.fab with transits := s.fab.transits ++ [(l, p)] } }
  else
    let s := s.unitsOut l p
    match s.linkTo p.srcDev p.dstDev p.addr (s.link l).owner with
    | some k =>
      if s.reach (s.linkPort (fieldOfLink l)).1 (s.linkPort (fieldOfLink k)).1 then
        s.sendLink k { p with vc := p.vc + 1 }
      else s.refuse l p 13
    | none => s.refuse l p 13

/-- What a pause held in transit goes on (R202). -/
def State.transitsGo (s : State) : State :=
  s.fab.transits.foldl (fun s x => s.transit x.1 x.2) { s with fab := { s.fab with transits := [] } }

/-! ### Token delivery (R286) -/

/-- The test of a site on a TOKEN packet's arrival (R286). -/
def State.takesToken (s : State) (n : SiteNo) (lc : LCoreNo) (tag : Option HamletNo) : Bool :=
  let c := s.site n
  decide (c.bound = some lc) && decide (c.hamlet = tag) && c.present

/-- TOKEN_DELIVERY (R286, R395): the token is signalled and the core woken, or the signal is lost and
counted by the bell block or the interrupt controller that sent it. DEDUCED, log entry 87. -/
def execTokenDelivery (site : SiteNo) (lc : LCoreNo) (tok : BitVec 6) (owned : Bool)
    (hamlet : HamletNo) (byIc : Bool) (s : State) : Host.Outcome State Fault Refusal :=
  if s.takesToken site lc (tagOf owned hamlet) then
    .next (s.modSite site fun c => (c.signal tok 1).wake)
  else if byIc then .next s.icDrop
  else .next { s with coll := { s.coll with dropped := satInc s.coll.dropped } }

end Sys2Proof.Machine
end

