-- ==== Sys2Proof/Machine/FieldOps.lean ====
section
/-!
DEFINITION. Machine/FieldOps.lean: what several chapters do to a field or a core domain: the page map
(R229 to R232), the loss of a field (R215, R250), a failed domain (Table 13.5), a frequency-change stop
(R349, R350) and the cap in force (R365).
-/

namespace Sys2Proof.Machine

/-! ### The page map -/

/-- Frames of a field: those of its fused-present sites (R230). -/
def State.framesOf (s : State) (f : Nat) : Nat :=
  10240 * ((if s.fuses.mems.getLsbD (2 * f) then 1 else 0) +
           (if s.fuses.mems.getLsbD (2 * f + 1) then 1 else 0))

/-- The field and frame that page p is bound to, fields taken in ascending order from f (R230). -/
def State.bindPage (s : State) : Nat → Nat → Nat → Option (Nat × Nat)
  | 0, _, _ => none
  | k + 1, f, p =>
    if p < s.framesOf f then some (f, p) else s.bindPage k (f + 1) (p - s.framesOf f)

/-- What an entry not listed holds: the reset value before bring-up, the R230 binding after it. -/
def State.pageD (s : State) (p : Nat) : Page :=
  if s.mem.mapBound then
    match s.bindPage 8 0 p with
    | some (f, m) =>
      { valid := true, field := ⟨f % 8, by omega⟩, frame := BitVec.ofNat 15 m }
    | none => {}
  else {}

/-- Entry of page p as its eight copies hold it: not VALID while its field's memory is out of service
(R250). -/
def State.page (s : State) (p : Nat) : Page :=
  let e := tget s.pageD s.mem.pages p
  { e with valid := e.valid && s.mem.lit.getLsbD e.field.val }

/-- Entry of page p becomes v at one commit (R233). -/
def State.setPage (s : State) (p : Nat) (v : Page) : State :=
  { s with mem := { s.mem with pages := tset s.pageD s.mem.pages p v } }

/-- Entry of page p becomes f of what is stored. -/
def State.modPage (s : State) (p : Nat) (f : Page → Page) : State :=
  s.setPage p (f (tget s.pageD s.mem.pages p))

/-- The same change to pages p, p + 1, … p + n − 1. -/
def State.modPages (s : State) (p n : Nat) (f : Page → Page) : State :=
  (List.range n).foldl (fun s i => s.modPage (p + i) f) s

/-- VALID pages now (MEM_CAP.PAGES): the frames of the fields in service less the entries left not
VALID. -/
def State.validPages (s : State) : Nat :=
  if s.mem.mapBound then
    ((List.range 8).map fun f => if s.mem.lit.getLsbD f then s.framesOf f else 0).sum -
    (s.mem.pages.filter fun e => !e.2.valid && s.mem.lit.getLsbD e.2.field.val).length
  else 0

/-- What a byte of GDDR7 that nothing has written reads as: 0 after bring-up (Table 17.1), or what the
lost key makes of it (R436). -/
def State.ddrD (s : State) (a : Nat) : Byte :=
  match tget (fun _ => none) s.mem.cipher (a / 8388608) with
  | some k => Config.cipherByte k a
  | none => 0

/-- Bytes of GDDR7 at a page-map address. DESIGN CHOICE, log entry 5; DEDUCED, log entry 11. -/
def State.ddrRead (s : State) (a n : Nat) : List Byte := tbytes s.ddrD s.mem.ddr a n

/-- Bytes are written to GDDR7 at a page-map address. -/
def State.ddrWrite (s : State) (a : Nat) (bs : List Byte) : State :=
  { s with mem := { s.mem with ddr := tput s.ddrD s.mem.ddr a bs } }

/-- Page-map address of a request at a controller. -/
def MemWork.addr : MemWork → Nat
  | .unit r => r.addr.toNat
  | .write p _ => pktAddr p
  | .read p _ => pktAddr p
  | .remote r => r.addr.toNat

/-- Bytes of a request at a controller; a unit has 64. -/
def MemWork.span : MemWork → Nat
  | .unit _ => 64
  | .write p _ => p.data.length
  | .read p _ => spanOf p
  | .remote r => r.len

/-- The request writes. -/
def MemWork.writes : MemWork → Bool
  | .unit r => r.write
  | .write _ _ => true
  | .read _ _ => false
  | .remote r => r.write

/-- The link packet that brought a remote page request (Table 9.5). -/
def remotePkt (r : RemoteReq) : LinkPkt :=
  { opc := if r.write then 1 else 3, vc := 0, status := 0, len := BitVec.ofNat 16 (r.len / 64), srcDev := r.srcDev,
    dstDev := 0, dstKind := 1, lcore := 0, rtxn := r.rtxn, addr := r.addr, group := 0, contrib := 0, fmt := false,
    data := r.data }

/-- A request to page p is in flight: at its controller, on its way there, or awaiting its response (R233). -/
def State.pageBusy (s : State) (p : Nat) : Bool :=
  let toPage (q : Packet) : Bool := (decide (q.opc = 1) || decide (q.opc = 3)) && decide (pktAddr q / 8388608 = p) &&
    (List.finRange 8).any fun f => decide (s.memPort f = (q.dstRtr, q.dstEp))
  (s.mem.waiting.any fun e =>
    decide (e.work.addr / 8388608 ≤ p) && decide (p ≤ (e.work.addr + e.work.span - 1) / 8388608)) ||
  s.fab.flying.any toPage || s.fab.txns.any fun x => toPage x.pkt

/-- Pages p to p + n − 1 read as zeros (R241, R443). -/
def State.zeroPages (s : State) (p n : Nat) : State :=
  { s with mem := { s.mem with
      ddr := s.mem.ddr.filter fun c => decide (c.1 / 8388608 < p) || decide (p + n ≤ c.1 / 8388608),
      cipher := s.mem.cipher.filter fun c => decide (c.1 < p) || decide (p + n ≤ c.1) } }

/-- The pages of a range lose their key: what they held is ciphertext for ever (R436). -/
def State.losePages (s : State) (p n key : Nat) : State :=
  let s := s.zeroPages p n
  { s with mem := { s.mem with
      cipher := (List.range n).foldl (fun c i => tset (fun _ => none) c (p + i) (some key)) s.mem.cipher } }

/-! ### Memory sites (R231) -/

/-- Both sites of a field are there. -/
def State.twoSites (s : State) (f : FieldNo) : Bool :=
  s.fuses.mems.getLsbD (2 * f.val) && s.fuses.mems.getLsbD (2 * f.val + 1)

/-- The site that holds an offset of field f (R231). -/
def memOf (s : State) (f : FieldNo) (a : Nat) : MemNo :=
  let odd := if s.twoSites f then a / 4096 % 2
             else if s.fuses.mems.getLsbD (2 * f.val) then 0 else 1
  ⟨(2 * f.val + odd) % 16, by omega⟩

/-- The channel that holds an offset of field f (R231). -/
def chanOf (s : State) (f : FieldNo) (a : Nat) : Fin 4 :=
  ⟨(if s.twoSites f then a / 8192 else a / 4096) % 4, by omega⟩

/-- Channel of a memory site becomes f of itself. -/
def State.modChan (s : State) (ms : MemNo) (ch : Fin 4) (f : Channel → Channel) : State :=
  s.modMsite ms fun m => m.setChan ch (f (m.chan ch))

/-- Bytes of a read with what its ECC reported (R226). -/
def State.memEcc (s : State) (ms : MemNo) (ch : Fin 4) (addr : Nat) (ecc : EccObs) (scrub : Bool) : State :=
  match ecc with
  | .clean => s
  | .corrected =>
    (s.modMsite ms fun m => { m with ecc := eccCorrected m.ecc }).fold 0x0201 ms.val
      (BitVec.ofNat 32 ms.val) (BitVec.ofNat 64 addr)
  | .uncorrectable =>
    (s.modMsite ms fun m => { m with ecc := eccUncorrectable m.ecc }).fault 0x0202 none
      (BitVec.ofNat 32 (ms.val + 16 * ch.val) ||| bitAt scrub 6) (BitVec.ofNat 64 addr)

/-- What ECC found at a page-map address is counted and recorded at its site (R226). -/
def State.ddrEcc (s : State) (a : Nat) (ecc : EccObs) : State :=
  let f := (s.page (a / 8388608)).field
  s.memEcc (memOf s f a) (chanOf s f a) (a / 64 * 64) ecc false

/-- The response of a controller to a request for a 64 B unit. -/
def State.unitAnswer (s : State) (f : FieldNo) (r : MemReq) (st : BitVec 4) (data : List Byte) : Packet :=
  let p := mkPacket (if r.write then 2 else 4) (s.memPort f) (r.dstRtr, false) (tagOf r.owned r.hamlet)
    r.addr.toNat data.length data
  let p := { p with txn := r.txn, status := st }
  { p with hchk := hchkOf p }

/-! ### Mirrors -/

/-- The pages of a mirror: first page and number, CORE_MIRROR (R119, R235). -/
def mirrorFirst (m : BitVec 64) : Nat := (m.extractLsb' 23 18).toNat

/-- Pages of a mirror (R119). -/
def mirrorPages (m : BitVec 64) : Nat := (m.extractLsb' 48 8).toNat

/-- CORE_MIRROR.VALID (R119). -/
def mirrorValid (m : BitVec 64) : Bool := m.getLsbD 63

/-- Mirror pages of a core that are not VALID. -/
def State.mirrorLost (s : State) (n : SiteNo) : Nat :=
  let m := (s.site n).mirror
  ((List.range (mirrorPages m)).filter fun i => !(s.page (mirrorFirst m + i)).valid).length

/-- Pages of a core's mirror that are lost or lie in its site's own field (Table 8.3). -/
def State.mirrorAway (s : State) (n : SiteNo) : Nat :=
  let m := (s.site n).mirror
  ((List.range (mirrorPages m)).filter fun i =>
    let v := s.page (mirrorFirst m + i)
    !v.valid || decide (v.field = fieldOfSite n)).length

/-- After a loss each core whose mirror lost pages is marked and MIRROR_DEGRADED recorded (R251). -/
def State.markMirrors (s : State) : State :=
  (List.finRange 40).foldl
    (fun s n =>
      let c := s.site n
      let gone := s.mirrorAway n
      if mirrorValid c.mirror && decide (0 < s.mirrorLost n) && decide (c.mirrorGone < gone) then
        (s.modSite n fun c => { c with mirrorDegraded := true, mirrorGone := gone }).fault 0x0207 (some n)
          (BitVec.ofNat 32 gone) (BitVec.ofNat 64 (mirrorFirst c.mirror * 8388608))
      else s) s

/-- The sites of a field whose memory is lost are out of service: they read STATE failed (R250, Table 8.6).
DEDUCED, log entry 31. -/
def State.sitesLost (s : State) (f : FieldNo) : State :=
  [2 * f.val, 2 * f.val + 1].foldl
    (fun s i => s.modMsite ⟨i % 16, by omega⟩ fun m =>
      if m.st = 0 then m else { m with st := 3, retraining := none, temp := 0 }) s

/-- A field's memory is out of service (R250): by a failed channel, told to the fault manager, or because
the field is dark, recorded only. DEDUCED, log entry 31. -/
def State.fieldMemoryLost (s : State) (f : FieldNo) (dark : Bool) : State :=
  if s.mem.lit.getLsbD f.val = false then s
  else
    let s := { s with mem := { s.mem with lit := setBit s.mem.lit f.val false } }.sitesLost f
    let d : Word32 := BitVec.ofNat 32 f.val ||| bitAt dark 3
    (if dark then s.fault 0x0206 none d 0 else s.report 0x0206 none d 0).markMirrors

/-! ### Domains -/

/-- Failed phases of a domain. -/
def Domain.failedPhases (d : Domain) : Nat := popCount d.phases

/-- Every other powered core domain of d's IBC takes an admission cap (R371, R372). -/
def State.setAdm (s : State) (d : DomainNo) (q : BitVec 5) : State :=
  (List.finRange 48).foldl
    (fun s e =>
      if e.val < 40 ∧ e ≠ d ∧ fieldOfDom e = fieldOfDom d ∧ (s.dom e).st = .on then
        s.modDom e fun v => { v with qAdm := q }
      else s) s

/-- A domain has left RAMP: its neighbours return to q_adm = 16, and the wait of one that waits starts now
(R372, Tables 13.4 and 13.5). -/
def State.rampOver (s : State) (d : DomainNo) : State :=
  (List.finRange 48).foldl
    (fun s e => if e.val < 40 ∧ e ≠ d ∧ fieldOfDom e = fieldOfDom d ∧ (s.dom e).st = .wait then
      s.modDom e fun v => { v with since := s.tb } else s) (s.setAdm d 16)

/-- A core domain enters FAILED: shutters closed, voltage to 0, recorded and told; a ramp ends with it
(Table 13.5). -/
def State.failDomain (s : State) (n : SiteNo) (cause : BitVec 3) : State :=
  let d := domOfSite n
  if (s.dom d).st = .failed then s
  else
    let s := s.report 0x0502 (some n) (BitVec.ofNat 32 d.val ||| fieldAt cause 6) 0
    let ramped := decide ((s.dom d).st = .ramp)
    let s := s.modDom d fun v => { v with st := .failed, mv := 0 }
    let s := s.modRegion ⟨n.val, by omega⟩ fun r => { r with st := 0, inHalf := 0, joined := false }
    let s := s.switchOff n
    if ramped then s.rampOver d else s

/-- A link of a field that is lost goes DOWN (R283, R417). -/
def Link.lost (l : Link) : Link :=
  match l.st with
  | .absent => l
  | _ => { l with st := .down, key := none, rxKey := none, rxNext := none, confirmed := false, rekeying := false,
                  txQ := [], kept := [], credits := [], lanes := 0, half := false, latched := none }

/-- The links of a field (Table 7.1). -/
def linksOfField (f : FieldNo) : List LinkNo :=
  (List.finRange 96).filter fun l => fieldOfLink l = f

/-- What waits at the controller of a field that goes dark is answered UNREACHABLE, and the answer lost with the
field's routers; a remote request's leaves by its link (R215, R250). -/
def State.answerDark (s : State) (f : FieldNo) : State :=
  let mine := s.mem.waiting.filter fun e => decide (e.field = f)
  mine.foldl
    (fun s e => match e.work with
      | .unit r => s.send (.packet (s.unitAnswer f r 4 []))
      | .write p _ => s.send (.packet (replyTo p 2 4 []))
      | .read p _ => s.send (.packet (replyTo p 4 4 []))
      | .remote r => s.remoteReply r.link (remotePkt r) (if r.write then 2 else 4) 4 [])
    { s with mem := { s.mem with waiting := s.mem.waiting.filter fun e => decide (e.field ≠ f) } }

/-- A host port of a field that goes dark loses lock (R16, R313). DEDUCED, log entry 53. -/
def State.portsLost (s : State) (f : FieldNo) : State :=
  [false, true].foldl
    (fun s p => if portField p = f ∧ s.host.portUp.getLsbD p.toNat = true then
        { s with host := { s.host with lockLost := tset (fun _ => none) s.host.lockLost p.toNat (some s.tb) } }
      else s) s

/-- A field goes dark (R215, R294, R376): its routers with their combine slots, granaries, memory, links and
bells are lost, tree edges move off its links, its five core domains fail, and FIELD_LOST is reported. -/
def State.fieldDark (s : State) (f : FieldNo) : State :=
  if s.isDark f then s
  else
    let s := (s.answerDark f).loseBufs fun r => decide (fieldOfRtr ⟨r % 64, by omega⟩ = f)
    let s := { s with fab := { s.fab with dark := setBit s.fab.dark f.val true, tablesDue := true },
                      coll := { s.coll with lit := setBit s.coll.lit f.val false } }
    let s := (s.portsLost f).report 0x0105 none (BitVec.ofNat 32 f.val) 0
    let s := s.fieldMemoryLost f true
    let s := (linksOfField f).foldl (fun s l => s.modLink l Link.lost) s
    let s := (linksOfField f).foldl State.moveEdges s
    let s := { s with fab := { s.fab with
      slots := s.fab.slots.filter fun k => decide (fieldOfRtr k.root ≠ f) } }
    (sitesOfField f).foldl
      (fun s n => ((s.failDomain n 1).modSite n fun c => { c with gran := [], bad := true }).mapOut 0
        n.val 0x0105) s

/-! ### Frequency changes (R338, R349, R350) -/

/-- A field lies in the west half (Table 0.2). -/
def isWest (f : FieldNo) : Bool := decide (f.val % 4 < 2)

/-- The regions that change together: a core site alone, or the four fields of a half (Table 12.1). -/
def unitOf (r : RegionNo) : List RegionNo :=
  if r.val < 40 then [r]
  else
    (List.finRange 48).filter fun q =>
      decide (40 ≤ q.val) && decide ((q.val - 40) % 4 / 2 = (r.val - 40) % 4 / 2)

/-- The core regions that stop with a half's fields (R349). -/
def coresOf (r : RegionNo) : List RegionNo :=
  if r.val < 40 then []
  else
    (List.finRange 48).filter fun q =>
      decide (q.val < 40) && decide (q.val / 5 % 4 / 2 = (r.val - 40) % 4 / 2)

/-- The same change to several regions. -/
def State.modRegions (s : State) (rs : List RegionNo) (f : Region → Region) : State :=
  rs.foldl (fun s r => s.modRegion r f) s

/-- A frequency change of a unit is requested: it starts, or is absorbed by the stop in progress, or is
latched behind it, the latest winning (R350, R420). -/
def State.startChange (s : State) (r : RegionNo) (mhz : BitVec 11) (t : Word64) : State :=
  let g := s.region r
  match g.change with
  | some (m, _) =>
    if m = mhz ∧ g.latched = none then s
    else s.modRegions (unitOf r) fun g => { g with latched := some mhz }
  | none =>
    if g.mhz = mhz ∨ g.st = 0 then s
    else s.modRegions (unitOf r) fun g => { g with change := some (mhz, t), calDone := false }

/-- Core clock of an operating point in MHz (Table 13.2). -/
def opMhz (op : BitVec 3) : BitVec 11 :=
  match op.toNat with
  | 0 => 400 | 1 => 550 | 2 => 650 | 3 => 800 | 4 => 900 | 5 => 1000 | 6 => 1050 | _ => 1100

/-- Core voltage of an operating point in mV (Table 13.2). -/
def opMv (op : BitVec 3) : BitVec 10 :=
  match op.toNat with
  | 0 => 600 | 1 => 620 | 2 => 640 | 3 => 680 | 4 => 710 | 5 => 750 | 6 => 800 | _ => 860

/-- Role default operating point (Table 1.8). -/
def roleOp (role : BitVec 2) : BitVec 3 :=
  match role.toNat with
  | 0 => 6 | 1 => 5 | 2 => 2 | _ => 5

/-- The voltage that a clock frequency needs: that of the lowest operating point as fast (Table 13.2). -/
def mhzMv (mhz : BitVec 11) : BitVec 10 :=
  match (List.range 8).find? fun i => decide (mhz ≤ opMhz (BitVec.ofNat 3 i)) with
  | some i => opMv (BitVec.ofNat 3 i)
  | none => opMv 7

/-- The voltage of a core at an operating point while its clock runs at a frequency: adequate for both (R362). -/
def adequateMv (op : BitVec 3) (mhz : BitVec 11) : BitVec 10 :=
  if opMv op < mhzMv mhz then mhzMv mhz else opMv op

/-- The fastest that a region runs until its next stop has ended (R362). -/
def Region.fastest (g : Region) : BitVec 11 :=
  match g.change with
  | some (m, _) => if g.mhz < m then m else g.mhz
  | none => g.mhz

/-- A core's domain takes the voltage of its operating point and of the frequency in force: raised before the stop
of a raise, and falling after the stop of a lowering. RETAIN keeps its own (R361, R362). -/
def State.setVolt (s : State) (n : SiteNo) : State :=
  if (s.site n).pwr = .retain then s
  else s.modDom (domOfSite n) fun d =>
    { d with mv := adequateMv (s.site n).op (s.region ⟨n.val, by omega⟩).fastest }

/-- A core takes an operating point: its voltage, its trim at 0, and the stop of section 12.5 (R362,
R363). -/
def State.setOp (s : State) (n : SiteNo) (op : BitVec 3) : State :=
  let s := s.modSite n fun c => { c with op := op }
  let s := (s.modDom (domOfSite n) fun d => { d with trim := 0 }).setVolt n
  s.startChange ⟨n.val, by omega⟩ (opMhz op) s.tb

/-! ### Caps (R365) -/

/-- q_ph of a core domain (Table 13.6). -/
def Domain.qPh (d : Domain) : BitVec 5 :=
  let n := d.failedPhases
  if n ≤ 2 then 16 else if n = 3 then 14 else 12

/-- A base rail of field f, or of its half, is held at LOW (R375, R377, R382). -/
def State.railLow (s : State) (f : FieldNo) : Bool :=
  let d := s.dom (domOfField f)
  decide (4 ≤ d.failedPhases) || decide (d.conn = 2)

/-- q_ibc of a field. -/
def State.qIbcOf (s : State) (f : FieldNo) : BitVec 5 := tget (fun _ => 16) s.pwr.qIbc f.val

/-- The effective cap of a core domain: the smallest of its sources (R365). -/
def State.effCap (s : State) (n : SiteNo) : BitVec 5 :=
  let d := s.dom (domOfSite n)
  let own := min5 (min5 (s.qIbcOf (fieldOfSite n)) d.qTh) (min5 d.qPh (min5 d.qImp d.qAdm))
  if (s.site n).bound.isSome then min5 own (min5 s.pwr.qPwr s.pwr.qIn) else own

/-- CAP_SRC of a core domain (Table 13.12). -/
def State.capSrc (s : State) (n : SiteNo) : BitVec 3 :=
  let d := s.dom (domOfSite n)
  let q := s.effCap n
  let b := (s.site n).bound.isSome
  if q = 16 then 0
  else if b = true ∧ s.pwr.qPwr = q then 1
  else if s.qIbcOf (fieldOfSite n) = q then 2
  else if d.qTh = q then 3
  else if d.qPh = q then 4
  else if d.qImp = q then 5
  else if d.qAdm = q then 6
  else 7

/-- The power budget B in force, which never exceeds LIMIT_W (R366). -/
def State.budgetB (s : State) : Nat :=
  if s.pwr.groupEn then min s.pwr.budget.toNat s.pwr.limitW.toNat else s.pwr.limitW.toNat

/-- The budget that the present 10 µs window is held to: a lower B from a TAKE counts from the window after
it arrives (R366). -/
def State.windowB (s : State) : Nat := min (s.budgetB + s.pwr.taken.toNat) s.pwr.limitW.toNat

end Sys2Proof.Machine
end

