-- ==== Sys2Proof/Machine/Isa.lean ====
section
/-!
DEFINITION. Machine/Isa.lean: the sequencer's syllables: their encodings (Tables 5.1 to 5.12), the rules of a
well-formed bundle (R124), and the registers they read and write (R128).
-/

namespace Sys2Proof

open Sys2Proof.Machine

/-! ### Reading an encoding -/

/-- Only the bits of a mask are set. -/
def only (w mask : BitVec 64) : Bool := decide (w &&& ~~~mask = 0)

/-- A number of at most 2 bits. -/
def fin4 (v : BitVec 2) : Fin 4 := ⟨v.toNat, v.isLt⟩

/-- A number of at most 6 bits. -/
def fin64 (v : BitVec 6) : Fin 64 := ⟨v.toNat, v.isLt⟩

/-- Guarded result. -/
def when? {α : Type} (b : Bool) (v : α) : Option α := if b then some v else none

/-- The head syllable (Table 5.1); bits [1:0] are reserved. -/
def decodeHead (w : BitVec 64) : Option Head :=
  when? (decide (w.extractLsb' 0 2 = 0))
    { timed := w.getLsbD 63, delta := w.extractLsb' 48 15, w0En := w.getLsbD 47,
      w0Tok := w.extractLsb' 41 6, w0Amt := w.extractLsb' 25 16, w1En := w.getLsbD 24,
      w1Tok := w.extractLsb' 18 6, w1Amt := w.extractLsb' 2 16 }

/-- Class and opcode bits of classes with OP in [59:54]. -/
def opMask6 : BitVec 64 := 0xFFC0000000000000

/-- CTRL syllables (Table 5.5). -/
def decodeCtrl (w : BitVec 64) : Option Syll :=
  let t := w.extractLsb' 0 16
  match (w.extractLsb' 54 6).toNat with
  | 0x01 => when? (only w (opMask6 ||| 0xFFFF)) (.br t)
  | 0x02 => when? (only w (opMask6 ||| 0x003FFFFFFF00FFFF))
      (.brc (w.extractLsb' 51 3) (w.extractLsb' 46 5) (w.extractLsb' 41 5) (w.getLsbD 40)
        (w.extractLsb' 24 16) t)
  | 0x03 => when? (only w (opMask6 ||| 0x003FFFFF0000FFFF))
      (.loop (w.getLsbD 53) (w.extractLsb' 48 5) (w.extractLsb' 32 16) t)
  | 0x04 => when? (only w opMask6) .halt
  | 0x05 => when? (only w (opMask6 ||| 0xFFFF)) (.trap t)
  | 0x06 => when? (only w opMask6) .settle
  | 0x07 => when? (only w opMask6) .sched
  | 0x08 => when? (only w (opMask6 ||| 0x001F000000000000)) (.waitUntil (w.extractLsb' 48 5))
  | 0x09 => when? (only w (opMask6 ||| 0x003FE3FF0FFF0000))
      (.forecast (w.extractLsb' 50 4) (w.extractLsb' 45 5) (w.extractLsb' 32 10) (w.extractLsb' 16 12))
  | 0x0A => when? (only w (opMask6 ||| 0x003C000000000000)) (.phaseHint (w.getLsbD 53) (w.extractLsb' 50 3))
  | _ => none

/-- The common fields of a SCALAR syllable (R138). -/
def aluFields (w : BitVec 64) : AluF :=
  { rd := w.extractLsb' 49 5, rs1 := w.extractLsb' 44 5, rs2 := w.extractLsb' 39 5, imm := w.getLsbD 38,
    imm32 := w.extractLsb' 0 32 }

/-- Bits of RD, RS1, RS2, IMM and IMM32. -/
def aluMask : BitVec 64 := opMask6 ||| 0x003FFFC0FFFFFFFF

/-- SCALAR syllables (R138, Table 5.6). -/
def decodeScalar (w : BitVec 64) : Option Syll :=
  let f := aluFields w
  let alu (op : AluOp) := when? (only w aluMask) (Syll.alu op f)
  match (w.extractLsb' 54 6).toNat with
  | 0x00 => alu .add
  | 0x01 => alu .sub
  | 0x02 => alu .and
  | 0x03 => alu .or
  | 0x04 => alu .xor
  | 0x05 => alu .shl
  | 0x06 => alu .shr
  | 0x07 => alu .sra
  | 0x08 => alu .mul
  | 0x09 => alu .min
  | 0x0A => alu .max
  | 0x0B => when? (only w (opMask6 ||| 0x003E0000FFFFFFFF)) (.li f.rd f.imm32)
  | 0x0C => when? (only w (opMask6 ||| 0x003E0000FFFFFFFF)) (.lih f.rd f.imm32)
  | 0x10 => when? (only w aluMask) (.aadd f)
  | 0x11 => when? (only w (opMask6 ||| 0x003FF00000000000)) (.amov f.rd f.rs1)
  | 0x12 => when? (only w (opMask6 ||| 0x003FF00000000000)) (.smova f.rd f.rs1)
  | 0x18 => when? (only w (opMask6 ||| 0x003FF000FFFFFFFF))
      (.lds { reg := f.rd, areg := f.rs1, imm32 := f.imm32 })
  | 0x19 => when? (only w (opMask6 ||| 0x0001FF80FFFFFFFF))
      (.sts { reg := f.rs2, areg := f.rs1, imm32 := f.imm32 })
  | 0x1A => when? (only w (opMask6 ||| 0x003E0020000000FF))
      (.status f.rd (w.getLsbD 37) (w.extractLsb' 0 8))
  | _ => none

/-- MATRIX syllables (Table 5.8). -/
def decodeMatrix (w : BitVec 64) : Option Syll :=
  some (.matrix
    { eng := fin4 (w.extractLsb' 58 2), accumulate := w.getLsbD 57, bank := fin4 (w.extractLsb' 55 2),
      dest := w.extractLsb' 52 3, rnd := w.getLsbD 51, nonsat := w.getLsbD 50, hold := w.getLsbD 49,
      fb := w.getLsbD 48, pair := w.extractLsb' 44 4, wscl := w.extractLsb' 42 2,
      ascl := w.extractLsb' 40 2, sparse := w.getLsbD 39, anch := w.extractLsb' 37 2,
      anchArg := w.extractLsb' 32 5, mreg := w.getLsbD 31, mfield := w.extractLsb' 18 13,
      sill := fin64 (w.extractLsb' 12 6), scalReg := w.extractLsb' 7 5, tokEn := w.getLsbD 6,
      tok := w.extractLsb' 0 6 })

/-- Class and opcode bits of classes with OP in [59:56]. -/
def opMask4 : BitVec 64 := 0xFF00000000000000

/-- ENGINE syllables (Table 5.10). -/
def decodeEngine (w : BitVec 64) : Option Syll :=
  let e := fin4 (w.extractLsb' 54 2)
  match (w.extractLsb' 56 4).toNat with
  | 0x0 => when? (only w (opMask4 ||| 0x00FFFFF000000000))
      (.latch { eng := e, fromWs := w.getLsbD 53, areg := w.extractLsb' 49 4, wfmt := w.extractLsb' 46 3,
                wscl := w.extractLsb' 44 2, sparse := w.getLsbD 43, tokEn := w.getLsbD 42,
                tok := w.extractLsb' 36 6 })
  | 0x1 => when? (only w (opMask4 ||| 0x00FFFFFFFF800000))
      (.feed { eng := e, fb := w.getLsbD 53, areg := w.extractLsb' 49 4, raw := w.getLsbD 48,
               afmt := w.extractLsb' 46 2, ascl := w.extractLsb' 44 2, mreg := w.getLsbD 43,
               mfield := w.extractLsb' 30 13, tokEn := w.getLsbD 29, tok := w.extractLsb' 23 6 })
  | 0x2 => when? (only w (opMask4 ||| 0x00FFFFFFFFF00000))
      (.bankDrain { eng := e, bank := fin4 (w.extractLsb' 52 2), dest := w.extractLsb' 49 3,
                    rnd := w.getLsbD 48, nonsat := w.getLsbD 47, rowsM1 := w.extractLsb' 38 9,
                    sill := fin64 (w.extractLsb' 32 6), scalReg := w.extractLsb' 27 5,
                    tokEn := w.getLsbD 26, tok := w.extractLsb' 20 6 })
  | 0x3 => when? (only w (opMask4 ||| 0x00F0000000000000)) (.bankFree e (fin4 (w.extractLsb' 52 2)))
  | 0x4 => when? (only w (opMask4 ||| 0x00FFFFFFFFFFF000))
      (.ewise { eng := e, fb := w.getLsbD 53, pair := w.extractLsb' 49 4, add := w.getLsbD 48,
                dest := w.extractLsb' 45 3, rnd := w.getLsbD 44, nonsat := w.getLsbD 43,
                nM1 := w.extractLsb' 25 18, sill := fin64 (w.extractLsb' 19 6), tokEn := w.getLsbD 18,
                tok := w.extractLsb' 12 6 })
  | _ => none

/-- The opcode of a VECTOR syllable (Table 5.11). -/
def vecOpOf (op : Nat) : Option VecOp :=
  [VecOp.vld, .vst, .vfma, .vadd, .vsub, .vmul, .vmin, .vmax, .vcmp, .vsel, .vsfu, .vred, .vbcast, .vmovs,
   .vwadd, .vwanch, .vwcvt, .vxpose][op]?

/-- VECTOR syllables (R148). -/
def decodeVector (w : BitVec 64) : Option Syll :=
  (vecOpOf (w.extractLsb' 54 6).toNat).map fun op => .vec op
    { vd := w.extractLsb' 49 5, va := w.extractLsb' 44 5, vb := w.extractLsb' 39 5,
      vc := w.extractLsb' 34 5, areg := w.extractLsb' 30 4, mod := w.extractLsb' 0 30 }

/-- COPY and SYNC syllables (Table 5.12). -/
def decodeSync (w : BitVec 64) : Option Syll :=
  match (w.extractLsb' 56 8).toNat with
  | 0x60 => when? (only w (opMask4 ||| 0x00FC000000000000))
      (.push (fin4 (w.extractLsb' 54 2)) (w.extractLsb' 50 4))
  | 0x61 => when? (only w (opMask4 ||| 0x00FC000000000000)) (.sfree (fin64 (w.extractLsb' 50 6)))
  | 0x70 => when? (only w (opMask4 ||| 0x00FC00000000FFFF))
      (.signal (w.extractLsb' 50 6) (w.extractLsb' 0 16))
  | 0x71 => when? (only w (opMask4 ||| 0x00FFFFFF8000FFFF))
      (.bell { remote := w.getLsbD 55, breg := w.getLsbD 54, sb := w.extractLsb' 49 5,
               bell := w.extractLsb' 36 13, sd := w.extractLsb' 31 5, amount := w.extractLsb' 0 16 })
  | 0x72 => when? (only w (opMask4 ||| 0x00F0000000000000)) (.tally (w.extractLsb' 52 4))
  | _ => none

/-- A syllable of slots 1 to 7 (Table 5.2). -/
def decodeSyll (w : BitVec 64) : Option Syll :=
  match (w.extractLsb' 60 4).toNat with
  | 0 => when? (decide (w = 0)) .nop
  | 1 => decodeCtrl w
  | 2 => decodeScalar w
  | 3 => decodeMatrix w
  | 4 => decodeEngine w
  | 5 => decodeVector w
  | 6 => decodeSync w
  | 7 => decodeSync w
  | _ => none

/-! ### Field values (R124) -/

/-- The STATUS sources of Table 5.7, and whether CLEAR is allowed. -/
def statusSource (src : Nat) : Option Bool :=
  if src ≤ 4 then some false
  else if 8 ≤ src ∧ src ≤ 12 then some true
  else if (16 ≤ src ∧ src ≤ 20) ∨ src = 24 then some false
  else none

/-- The bits of MOD that a VECTOR opcode names (Table 5.11, R148). -/
def VecOp.modMask : VecOp → BitVec 30
  | .vld => 0x3FF00000
  | .vst => 0x3FFFF800
  | .vcmp => 0x7
  | .vsfu => 0x7
  | .vred => 0x1FFF
  | .vbcast => 0x1
  | .vmovs => 0x7FF
  | .vwadd => 0x3FFFF
  | .vwanch => 0x3FFFF
  | .vwcvt => 0x380FFFFF
  | .vxpose => 0x3FF3F8FF
  | _ => 0

/-- FMT of MOD (R148). -/
def modFmt (m : BitVec 30) : Nat := (m.extractLsb' 27 3).toNat

/-- SCL of MOD (Table 5.11). -/
def modScl (m : BitVec 30) : Nat := (m.extractLsb' 25 2).toNat

/-- The register fields and MOD values of a VECTOR syllable are defined (R124, R148). -/
def vecOk (op : VecOp) (f : VecF) : Bool :=
  let z (v : BitVec 5) := decide (v = 0)
  let a (v : BitVec 5) := decide (v.toNat < 16)
  let noA := decide (f.areg = 0)
  let ldst := decide (modScl f.mod ≠ 3) && (decide (modFmt f.mod < 5) || decide (modScl f.mod ≠ 0))
  decide (f.mod &&& ~~~op.modMask = 0) &&
  match op with
  | .vld => z f.va && z f.vb && z f.vc && ldst
  | .vst => z f.va && z f.vb && z f.vc && ldst
  | .vfma => noA
  | .vsel => noA
  | .vcmp => z f.vc && noA && decide (f.mod.toNat < 4)
  | .vsfu => z f.vb && z f.vc && noA && decide (f.mod.toNat < 6)
  | .vred => z f.vb && z f.vc && noA && decide (f.mod.extractLsb' 0 2 ≠ 3)
  | .vbcast => z f.vb && z f.vc && noA
  | .vmovs => z f.vb && z f.vc && noA
  | .vwadd => z f.vd && a f.va && a f.vb && z f.vc
  | .vwanch => z f.vd && a f.va && z f.vc
  | .vwcvt => z f.vd && a f.va && z f.vc && decide (modFmt f.mod < 5)
  | .vxpose => z f.vd && a f.va && z f.vb && z f.vc && decide (f.mod.extractLsb' 28 2 ≠ 3)
  | _ => z f.vc && noA

/-- ANCHARG follows its rule (Table 5.8). -/
def anchOk (f : MatrixF) : Bool :=
  match f.anch.toNat with
  | 0 => !f.anchArg.getLsbD 4
  | 1 => true
  | 2 => decide (f.anchArg = 0)
  | _ => false

/-- Every field value of a syllable is defined, apart from where it stands (R124, R132, R138, R139, R141,
R143, R147, R148, R155). -/
def Syll.ok : Syll → Bool
  | .brc cond _ _ _ _ _ => decide (cond.toNat < 6)
  | .forecast _ level _ _ => decide (1 ≤ level.toNat) && decide (level.toNat ≤ 16)
  | .aadd f => decide (f.rd.toNat < 16) && decide (f.rs1.toNat < 16)
  | .amov rd _ => decide (rd.toNat < 16)
  | .smova _ rs1 => decide (rs1.toNat < 16)
  | .lds f => decide (f.areg.toNat < 16)
  | .sts f => decide (f.areg.toNat < 16)
  | .status _ clear src => match statusSource src.toNat with | some c => !clear || c | none => false
  | .matrix f => decide (f.pair.toNat < 12) && decide (f.wscl ≠ 3) && decide (f.ascl ≠ 3) && anchOk f &&
      decide (f.dest ≠ 7)
  | .latch f => decide (f.wfmt ≠ 7) && decide (f.wscl ≠ 3)
  | .feed f => decide (f.ascl ≠ 3) && (!f.raw || (decide (f.afmt = 0) && decide (f.ascl = 0)))
  | .bankDrain f => decide (f.dest ≠ 0) && decide (f.dest ≠ 7)
  | .ewise f => decide (f.dest ≠ 0) && decide (f.dest.toNat < 6) && decide (6 ≤ f.pair.toNat) &&
      decide (f.pair.toNat ≤ 11)
  | .vec op f => vecOk op f
  | _ => true

/-- The syllable is a CTRL syllable (Table 5.2). -/
def Syll.isCtrl : Syll → Bool
  | .br _ => true
  | .brc .. => true
  | .loop .. => true
  | .halt => true
  | .trap _ => true
  | .settle => true
  | .sched => true
  | .waitUntil _ => true
  | .forecast .. => true
  | .phaseHint .. => true
  | _ => false

/-- The syllable is a VECTOR syllable. -/
def Syll.isVec : Syll → Bool
  | .vec _ _ => true
  | _ => false

/-- The syllable is a TALLY. -/
def Syll.isTally : Syll → Bool
  | .tally _ => true
  | _ => false

/-- The S register a syllable writes. -/
def Syll.writesS : Syll → Option (BitVec 5)
  | .alu _ f => some f.rd
  | .li rd _ => some rd
  | .lih rd _ => some rd
  | .smova rd _ => some rd
  | .lds f => some f.reg
  | .status rd _ _ => some rd
  | .vec .vmovs f => some f.vd
  | _ => none

/-- The A register a syllable writes. -/
def Syll.writesA : Syll → Option (BitVec 5)
  | .aadd f => some f.rd
  | .amov rd _ => some rd
  | _ => none

/-- The S registers a syllable reads (R128). -/
def Syll.readsS : Syll → List (BitVec 5)
  | .brc _ rs1 rs2 imm _ _ => if imm then [rs1] else [rs1, rs2]
  | .loop creg rs _ _ => if creg then [rs] else []
  | .waitUntil rs => [rs]
  | .alu _ f => if f.imm then [f.rs1] else [f.rs1, f.rs2]
  | .lih rd _ => [rd]
  | .aadd f => if f.imm then [] else [f.rs2]
  | .amov _ rs1 => [rs1]
  | .sts f => [f.reg]
  | .matrix f => (if f.mreg then [f.mfield.extractLsb' 0 5] else []) ++
      (if f.anch = 1 then [f.anchArg] else []) ++
      (if 1 ≤ f.dest.toNat ∧ f.dest.toNat ≤ 5 then [f.scalReg] else [])
  | .feed f => if f.mreg then [f.mfield.extractLsb' 0 5] else []
  | .bankDrain f => if f.dest.toNat ≤ 5 then [f.scalReg] else []
  | .vec .vld f => if modScl f.mod = 2 then [f.mod.extractLsb' 20 5] else []
  | .vec .vst f => if modScl f.mod = 2 then [f.mod.extractLsb' 20 5] else []
  | .vec .vbcast f => if f.mod.getLsbD 0 then [f.va] else []
  | .vec .vwanch f => [f.vb]
  | .vec .vwcvt f => [f.vb]
  | .bell f => (if f.breg then [f.sb] else []) ++ (if f.remote then [f.sd] else [])
  | _ => []

/-- A register other than S0 stands twice in a list. -/
def twice : List (BitVec 5) → Bool
  | [] => false
  | r :: rs => rs.contains r || twice rs

/-- The rules of R124 that concern the bundle as a whole. -/
def bundleOk (ys : List Syll) : Bool :=
  decide ((ys.filter Syll.isCtrl).length ≤ 1) && decide ((ys.filter Syll.isVec).length ≤ 2) &&
  !twice ((ys.filterMap Syll.writesS).filter fun r => decide (r ≠ 0)) &&
  !twice (ys.filterMap Syll.writesA) &&
  (!ys.any Syll.isTally || ys.all fun y => y.isTally || decide (y = .nop)) &&
  decide ((ys.filter Syll.isTally).length ≤ 1)

/-- The head's own rule: DELTA is 0 when TIMED is 0 (Table 5.1). -/
def Head.ok (h : Head) : Bool := h.timed || decide (h.delta = 0)

end Sys2Proof
end

