-- ==== Sys2Proof/Machine/SiteOps.lean ====
section
/-!
DEFINITION. Machine/SiteOps.lean: reading and writing the parts of a core site (04, 05), its status words,
the sill (04 section 4.6) and how an error stops it (R157, R158).
-/

namespace Sys2Proof.Machine

/-! ### Registers, tokens -/

/-- S register r; S0 reads as 0 (Table 4.1). -/
def Site.sreg (c : Site) (r : BitVec 5) : Word64 :=
  if r = 0 then 0 else tget (fun _ => 0) c.sregs r.toNat

/-- S register r takes a value; a write to S0 is ignored (Table 4.1). -/
def Site.setS (c : Site) (r : BitVec 5) (v : Word64) : Site :=
  if r = 0 then c else { c with sregs := tset (fun _ => 0) c.sregs r.toNat v }

/-- A register r. -/
def Site.areg (c : Site) (r : Nat) : Word64 := tget (fun _ => 0) c.aregs r

/-- A register r takes a value. -/
def Site.setA (c : Site) (r : Nat) (v : Word64) : Site :=
  { c with aregs := tset (fun _ => 0) c.aregs r v }

/-- Token counter t. -/
def Site.tok (c : Site) (t : BitVec 6) : BitVec 16 := tget (fun _ => 0) c.toks t.toNat

/-- A wait consumes an amount (R126). -/
def Site.consume (c : Site) (t : BitVec 6) (amount : Nat) : Site :=
  { c with toks := tset (fun _ => 0) c.toks t.toNat (BitVec.ofNat 16 ((c.tok t).toNat - amount)) }

/-- A token is signalled when a token is named (R142, R145). -/
def Site.signalOpt (c : Site) : Option (BitVec 6) → Site
  | some t => c.signal t 1
  | none => c

/-- Vector register v, lane i. -/
def Site.lane (c : Site) (v i : Nat) : BitVec 32 := tget (fun _ => 0) c.vregs (v * 2048 + i)

/-- The lanes of vector register v. -/
def Site.vreg (c : Site) (v : BitVec 5) : List (BitVec 32) :=
  (List.range 2048).map (c.lane v.toNat)

/-- Vector register v takes lanes. -/
def Site.setV (c : Site) (v : BitVec 5) (ls : List (BitVec 32)) : Site :=
  let t := ls.zipIdx.foldl (fun t p => tset (fun _ => 0) t (v.toNat * 2048 + p.2) p.1) c.vregs
  { c with vregs := t }

/-- Bytes of the working store. DEDUCED, log entry 11. -/
def Site.wsRead (c : Site) (a n : Nat) : List Byte := tbytes (fun _ => 0) c.ws a n

/-- Bytes are written to the working store. -/
def Site.wsWrite (c : Site) (a : Nat) (bs : List Byte) : Site :=
  { c with ws := tput (fun _ => 0) c.ws a bs }

/-- Bytes of the granary. -/
def Site.granRead (c : Site) (a n : Nat) : List Byte := tbytes (fun _ => 0) c.gran a n

/-- Bytes are written to the granary. -/
def Site.granWrite (c : Site) (a : Nat) (bs : List Byte) : Site :=
  { c with gran := tput (fun _ => 0) c.gran a bs }

/-- A 4 KiB block that is not repaired holds nothing of its data. -/
def Site.granLose (c : Site) (b : Nat) : Site := { c with gran := c.gran.filter fun x => decide (x.1 / 4096 ≠ b) }

/-- Size of the working store (R95). -/
def wsSize : Nat := 0x0C000000

/-- Size of the granary (R98). -/
def granSize : Nat := 0x38000000

/-- Bundle b of the program store, eight words (R123). -/
def Site.bundle (c : Site) (b : BitVec 16) : List Word64 :=
  (List.range 8).map fun j => tget (fun _ => 0) c.ps (b.toNat * 8 + j)

/-! ### Parts of an engine -/

/-- Bank b. -/
def Engine.bank (e : Engine) (b : Fin 4) : Bank := tget (fun _ => {}) e.banks b.val

/-- Bank b becomes v. -/
def Engine.setBank (e : Engine) (b : Fin 4) (v : Bank) : Engine :=
  { e with banks := tset (fun _ => {}) e.banks b.val v }

/-- Engine that runs what is addressed to engine e (R82). -/
def Site.runner (c : Site) (e : EngNo) : EngNo :=
  if (c.eng e).retired && !(c.eng e).movePending then (c.eng e).redirect else e

/-- Engines after e, in the order of R82 and R176. -/
def enginesAfter (e : EngNo) : List EngNo := [e + 1, e + 2, e + 3]

/-- The first engine after e that is not retired (R82, R176). -/
def Site.nextGood (c : Site) (e : EngNo) : Option EngNo :=
  (enginesAfter e).find? fun x => !(c.eng x).retired

/-- The next program order number of the core (R129). -/
def Site.nextSeq (c : Site) : Nat :=
  (List.finRange 4).foldl (fun m e => max m (c.eng e).nextSeq) 0

/-- A vote that uses an engine as its replay engine (R176). -/
def Site.replaysOn (c : Site) (e : EngNo) : Bool :=
  match c.vote with
  | some v => decide (v.replay = e)
  | none => false

/-- The shadow plane of an engine is lent to a replay that needs a weight tile (R177, R181). -/
def Site.planeLent (c : Site) (e : EngNo) : Bool :=
  match c.vote with
  | some v => decide (v.replay = e) && (match v.flight.op.kind with | .matrix _ => true | _ => false)
  | none => false

/-- An instruction contributes to a bank it keeps or adds to. -/
def Flight.bankOf (f : Flight) : Option (Fin 4) :=
  match f.op.kind with
  | .matrix m => if f.cancelled then none
                 else if m.dest = 0 ∨ m.accumulate then some m.bank else none
  | _ => none

/-- The contributions to bank b of engine e whose verdict has not passed (R174, R499). -/
def Site.unverified (c : Site) (e : EngNo) (b : Fin 4) : Nat :=
  ((c.eng e).waiting.filter fun f => decide (f.bankOf = some b)).length +
  (match c.vote with
   | some v => if v.orig = e ∧ v.flight.bankOf = some b then 1 else 0
   | none => 0)

/-- An engine's queues are empty. -/
def Engine.queuesEmpty (e : Engine) : Bool := e.arrayQ.isEmpty && e.feedQ.isEmpty && e.latchQ.isEmpty

/-- An engine is idle: nothing in its array, its loaders or its drain. -/
def Engine.idle (e : Engine) : Bool :=
  e.inArray.isNone && e.feeding.isNone && e.latchingOp.isNone && e.draining.isNone

/-- No verdict of an engine is pending. -/
def Engine.noPending (e : Engine) : Bool := e.waiting.isEmpty

/-- An engine is quiescent for a remap or a move (R81). -/
def Site.engQuiescent (c : Site) (n : EngNo) : Bool :=
  let e := c.eng n
  e.inArray.isNone && e.noPending &&
  ((List.finRange 4).all fun b => decide ((e.bank b).st = .free) || decide ((e.bank b).st = .held)) &&
  (match c.vote with | some v => decide (v.orig ≠ n) && decide (v.replay ≠ n) | none => true)

/-! ### Copy queues -/

/-- Copy queue q. -/
def Site.queue (c : Site) (q : Fin 4) : CopyQueue := tget (fun _ => {}) c.queues q.val

/-- Copy queue q becomes v. -/
def Site.setQueue (c : Site) (q : Fin 4) (v : CopyQueue) : Site :=
  { c with queues := tset (fun _ => {}) c.queues q.val v }

/-- Descriptors pushed and not completed (R105). -/
def CopyQueue.depth (q : CopyQueue) : Nat := q.waiting.length + q.flight.length

/-! ### Conditions on the whole core (R116, R136, R137) -/

/-- Every queue of the core is empty (R136). -/
def Site.queuesEmpty (c : Site) : Bool :=
  ((List.finRange 4).all fun e => (c.eng e).queuesEmpty) && c.vecQ.isEmpty &&
  (List.finRange 4).all fun q => decide ((c.queue q).depth = 0)

/-- No engine is busy and no verdict is pending. -/
def Site.enginesDone (c : Site) : Bool :=
  ((List.finRange 4).all fun e => (c.eng e).idle && (c.eng e).noPending) && c.vote.isNone

/-- The core has settled (R137). -/
def Site.settled (c : Site) : Bool := c.queuesEmpty && c.enginesDone && c.pend.isEmpty

/-- The core's clock runs. -/
def State.clocked (s : State) (n : SiteNo) : Bool :=
  let r := s.region ⟨n.val, by omega⟩
  decide ((s.site n).pwr = .run) && (decide (r.st = 1) || decide (r.st = 3))

/-! ### The sill (R102 to R104) -/

/-- Sill entry i. -/
def Site.entry (c : Site) (i : Nat) : SillEntry := tget (fun _ => {}) c.sill i

/-- Sill entry i becomes v. -/
def Site.setEntry (c : Site) (i : Nat) (v : SillEntry) : Site :=
  { c with sill := tset (fun _ => {}) c.sill i v }

/-- 64 B units of a reservation in bytes (R102). -/
def sillUnits (bytes : Nat) : Nat := (bytes + 63) / 64

/-- The named entry is FREE and the free space covers a reservation (R102). -/
def Site.sillFits (c : Site) (i : Fin 64) (bytes : Nat) : Bool :=
  decide ((c.entry i.val).st = .free) && decide (sillUnits bytes ≤ c.sillFree)

/-- An entry opens with its reservation (Table 4.5). -/
def Site.sillOpen (c : Site) (i : Fin 64) (bytes : Nat) (tok : Option (BitVec 6)) : Site :=
  let v := c.entry i.val
  { c.setEntry i.val { v with st := .opened, units := sillUnits bytes, waits := 1, readers := 0,
                              data := [], tok := tok, flush := none } with
    sillFree := c.sillFree - sillUnits bytes }

/-- An entry's space is returned and its number can be named again (R104). -/
def Site.sillGone (c : Site) (i : Nat) : Site :=
  let v := c.entry i
  { c.setEntry i { claimed := v.claimed - 1 } with sillFree := c.sillFree + v.units }

/-- A free request on an entry takes effect when it is RELEASED (Table 4.5, R104). -/
def Site.sillTryFree (c : Site) (i : Nat) : Site :=
  let v := c.entry i
  if v.st = .released ∧ v.freeReq = true then
    if v.readers = 0 then c.sillGone i else c.setEntry i { v with st := .freeing }
  else c

/-- An engine's ENG_FLUSH takes what a drain found (R58, Table 2.8). -/
def flushTake (w : Word32) (sat nan : Bool) (f : BitVec 16) : Word32 :=
  let m := w.extractLsb' 0 16
  let w := if f = 0 then w else setBit w 31 true
  let w := if sat then setBit w 30 true else w
  let w := if nan then setBit w 29 true else w
  w.extractLsb' 16 16 ++ (if m < f then f else m)

/-- A CLOSED entry whose contributors have all passed becomes RELEASED: its ENG_FLUSH update is made, its
token signalled, and a latched free request taken (R58, R103, R142). -/
def Site.sillRelease (c : Site) (i : Nat) : Site :=
  let v := c.entry i
  if v.st = .closed ∧ v.waits = 0 then
    let c := match v.flush with
      | some (e, sat, nan, f) => c.modEng e fun g => { g with flushReg := flushTake g.flushReg sat nan f }
      | none => c
    let c := c.setEntry i { v with st := .released, flush := none, tok := none }
    (c.signalOpt v.tok).sillTryFree i
  else c

/-- One contributor's verdict has passed. -/
def Site.sillPass (c : Site) (i : Nat) : Site :=
  let v := c.entry i
  (c.setEntry i { v with waits := v.waits - 1 }).sillRelease i

/-! ### Status words -/

/-- CORE_STATUS (Table 4.12). -/
def Site.statusWord (c : Site) : Word32 :=
  bitAt c.bound.isSome 31 |||
  fieldAt (match c.bound with | some l => BitVec.ofNat 5 l.val | none => (0 : BitVec 5)) 26 |||
  bitAt c.quarantined 25 ||| bitAt c.tokenSat 24 |||
  bitAt (decide (c.seq ≠ .idle)) 23 |||
  fieldAt (match c.hamlet with | some h => BitVec.ofNat 3 h.val | none => (0 : BitVec 3)) 20 |||
  bitAt c.hamlet.isSome 19 ||| fieldAt c.pc 0

/-- Encoding of a power state (R118). -/
def pwrCode : PwrState → BitVec 3
  | .off => 0
  | .run => 1
  | .nap => 2
  | .retain => 3
  | .inTransition => 4

/-- CORE_PWR (Table 4.13). -/
def Site.pwrWord (c : Site) : Word32 :=
  fieldAt (pwrCode (if c.waking then .inTransition else c.pwr)) 29 |||
  fieldAt (match c.pwrPending with | some p => pwrCode p | none => 0) 26 |||
  bitAt c.pwrPending.isSome 25 ||| fieldAt c.op 16

/-- CQ_STATUS_q (Table 4.14). -/
def CopyQueue.statusWord (q : CopyQueue) : Word32 :=
  bitAt q.halted 31 ||| fieldAt q.err 27 ||| fieldAt (BitVec.ofNat 7 q.depth) 20 |||
  fieldAt (BitVec.ofNat 3 q.flight.length) 17 ||| fieldAt q.completed 0

/-- Entries in one of some states. -/
def Site.entriesIn (c : Site) (p : SillState → Bool) : Nat := (c.sill.filter fun e => p e.2.st).length

/-- SILL_STATUS (Table 4.15). -/
def Site.sillWord (c : Site) : Word32 :=
  fieldAt (BitVec.ofNat 17 c.sillFree) 15 |||
  fieldAt (BitVec.ofNat 7 (c.entriesIn fun x => decide (x = .released) || decide (x = .freeing))) 8 |||
  fieldAt (BitVec.ofNat 7 (c.entriesIn fun x => decide (x = .opened) || decide (x = .closed))) 1 |||
  bitAt (decide (c.entriesIn (fun x => decide (x = .poisoned)) ≠ 0)) 0

/-- A bit per bank in some states. -/
def Engine.banksIn (e : Engine) (p : BankState → Bool) : BitVec 4 :=
  (List.finRange 4).foldl (fun v b => setBit v b.val (p (e.bank b).st)) 0

/-- ENG_STATUS (Table 3.6). PENDING counts the verdicts of the engine's own instructions, and not that of a
pass it runs for another engine's vote. DEDUCED, log entry 93. -/
def Engine.statusWord (e : Engine) : Word32 :=
  bitAt e.inArray.isSome 31 ||| bitAt e.retired 30 ||| bitAt e.suspect 29 |||
  bitAt (decide (e.banksIn (fun x => decide (x = .poisoned)) ≠ 0)) 28 |||
  fieldAt (e.banksIn fun x => decide (x = .held)) 24 |||
  fieldAt (e.banksIn fun x => decide (x = .filling) || decide (x = .draining)) 20 |||
  bitAt (e.half true).resident 19 ||| bitAt (e.half false).resident 18 |||
  bitAt (e.shadow.latched && e.shadow.metaOk) 17 ||| bitAt (!e.noPending) 16 |||
  fieldAt (BitVec.ofNat 2 e.redirect.val) 5 ||| fieldAt e.cap 0

/-- ENG_CHECK (Table 6.6). -/
def Site.checkWord (c : Site) (n : EngNo) : Word32 :=
  let e := c.eng n
  fieldAt (BitVec.ofNat 2 (min 3 (e.faultsOf true))) 30 |||
  fieldAt (BitVec.ofNat 2 (min 3 (e.faultsOf false))) 28 |||
  bitAt (match c.vote with | some v => decide (v.orig = n) | none => false) 27 |||
  bitAt (c.replaysOn n) 26 ||| fieldAt e.disagree 0

/-- IDENT (Table 5.7). -/
def State.identWord (s : State) (n : SiteNo) : Word64 :=
  let c := s.site n
  let v : Word32 :=
    fieldAt (match c.bound with | some l => BitVec.ofNat 5 l.val | none => (0 : BitVec 5)) 0 |||
    fieldAt (match c.hamlet with | some h => BitVec.ofNat 3 h.val | none => (0 : BitVec 3)) 5 |||
    bitAt c.hamlet.isSome 8 ||| fieldAt s.id.dev 20
  v.setWidth 64

/-! ### Stopping (R157, R158) -/

/-- Class under which a program exception is told to the fault manager, which has no class of its own. DEDUCED, log entry 36. -/
def clsException : BitVec 16 := 0xFF01

/-- Class under which a bank or sill entry POISONED without quarantine is told. DEDUCED, log entry 36. -/
def clsPoisoned : BitVec 16 := 0xFF02

/-- Dispatch stops. -/
def Site.stop (c : Site) : Site := if c.seq = .idle then c else { c with seq := .stopped }

/-- The first exception since the LAUNCH is recorded; a later one sets OVERRUN (R157, Table 5.16). -/
def Site.recordExc (c : Site) (code : BitVec 6) (slot : Nat) (bundle : BitVec 16) (info : Word32) :
    Site :=
  if c.exc.getLsbD 31 then { c with exc := setBit c.exc 30 true }
  else
    { c with exc := bitAt true 31 ||| fieldAt code 24 ||| fieldAt (BitVec.ofNat 3 slot) 21 |||
               fieldAt bundle 0,
             excInfo := info }

/-- A program exception: recorded, dispatch stops, the fault manager is told (R157). -/
def State.raise (s : State) (n : SiteNo) (code : BitVec 6) (slot : Nat) (bundle : BitVec 16)
    (info : Word32) : State :=
  (s.modSite n fun c => (c.recordExc code slot bundle info).stop).tell clsException (some n)
    (code.setWidth 32) 0

/-- A hardware fault: dispatch stops, a record is made and the fault manager is told (R158). -/
def State.hwFault (s : State) (n : SiteNo) (cls : BitVec 16) (detail : Word32) (addr : Word64) : State :=
  (s.modSite n Site.stop).report cls (some n) detail addr

/-- An ECC event of a store that was corrected: counted and folded (R88, R97, R99, R188). -/
def State.corrected (s : State) (n : SiteNo) (store : Nat) (off : Nat) : State :=
  s.fold 0x0008 (n.val * 8 + store) (BitVec.ofNat 32 store) (BitVec.ofNat 64 off)

/-- A read of the working store found an uncorrectable word (R97). -/
def State.wsLost (s : State) (n : SiteNo) (off : Nat) : State :=
  (s.modSite n fun c => { c with wsEcc := eccUncorrectable c.wsEcc }).hwFault n 0x000A 0
    (BitVec.ofNat 64 off)

/-- A fetch or the scrub found an uncorrectable word in a bundle: the core stops issuing (R88). -/
def State.psLost (s : State) (n : SiteNo) (b : BitVec 16) : State :=
  (s.modSite n fun c => { c with psEcc := eccUncorrectable c.psEcc }).hwFault n 0x0009 0 (b.setWidth 64)

/-- A fetch or the scrub corrected a word of a bundle (R88). -/
def State.psFixed (s : State) (n : SiteNo) (b : BitVec 16) : State :=
  (s.modSite n fun c => { c with psEcc := eccCorrected c.psEcc }).corrected n 3 b.toNat

/-- A copy's read of the sill corrected a word (R122, R186). -/
def State.sillFixed (s : State) (n : SiteNo) (off : Nat) : State :=
  (s.modSite n fun c => { c with sillEcc := eccCorrected c.sillEcc }).corrected n 2 off

/-- A read of the working store that corrected a word (R97). -/
def State.wsFixed (s : State) (n : SiteNo) (off : Nat) : State :=
  (s.modSite n fun c => { c with wsEcc := eccCorrected c.wsEcc }).corrected n 0 off

end Sys2Proof.Machine
end

