-- ==== Sys2Proof/Machine/Seq.lean ====
section
/-!
DEFINITION. Machine/Seq.lean: the sequencer: when a bundle dispatches (R125 to R137), what it raises
(R157), and what each syllable does at dispatch. One attempt to dispatch is one core cycle.
-/

namespace Sys2Proof.Machine

/-! ### The bundle a command stands in -/

/-- The bundle's syllables with their slots 1 to 7, lowest first. DEDUCED, log entry 13. -/
def slotsOf (d : Disp) (y : Syll) : List (Nat × Syll) :=
  let all := (d.slot, y) :: d.rest
  (List.finRange 7).filterMap fun k =>
    (all.find? fun p => decide (p.1 = k)).map fun p => (k.val + 1, p.2)

/-! ### Operand values at the start of the cycle (R128, R138, R140) -/

/-- The second operand of a SCALAR syllable (R138). -/
def Site.operand2 (c : Site) (f : AluF) : Word64 :=
  if f.imm then f.imm32.signExtend 64 else c.sreg f.rs2

/-- The result of a two-operand SCALAR syllable (Table 5.6). -/
def aluResult (op : AluOp) (a b : Word64) : Word64 :=
  let n := (b.extractLsb' 0 6).toNat
  match op with
  | .add => a + b
  | .sub => a - b
  | .and => a &&& b
  | .or => a ||| b
  | .xor => a ^^^ b
  | .shl => a <<< n
  | .shr => a >>> n
  | .sra => a.sshiftRight n
  | .mul => a * b
  | .min => if a.slt b then a else b
  | .max => if a.slt b then b else a

/-- The comparison of a BRC (Table 5.5). -/
def condHolds (cond : BitVec 3) (a b : Word64) : Bool :=
  match cond.toNat with
  | 0 => decide (a = b)
  | 1 => decide (a ≠ b)
  | 2 => a.slt b
  | 3 => !a.slt b
  | 4 => decide (a < b)
  | _ => !decide (a < b)

/-- The address of an LDS or STS (R138). -/
def Site.memAddr (c : Site) (f : MemF) : Word64 := c.areg f.areg.toNat + f.imm32.signExtend 64

/-- M of a MATRIX or FEED (R140). -/
def Site.mOf (c : Site) (mreg : Bool) (mfield : BitVec 13) : Nat :=
  if mreg then ((c.sreg (mfield.extractLsb' 0 5)).extractLsb' 0 32).toNat else mfield.toNat + 1

/-- FP32 1.0. -/
def fp1 : BitVec 32 := 0x3F800000

/-- c1 and c2 from a scale register; register 0 means 1.0 (R140). DEDUCED, log entry 22; DEDUCED, log entry 92. -/
def Site.scales (c : Site) (r : BitVec 5) : BitVec 32 × BitVec 32 :=
  if r = 0 then (fp1, fp1) else ((c.sreg r).extractLsb' 0 32, (c.sreg r).extractLsb' 32 32)

/-! ### Formats and tile sizes (R33, R61, R67, R144) -/

/-- Bytes of an activation tile of m rows (R144). -/
def actBytes (afmt : BitVec 2) (ascl : BitVec 2) (m : Nat) : Nat :=
  m * ((afmtOf afmt ascl).row + (if ascl = 1 then 8 else if ascl = 2 then 16 else 0))

/-- Bytes a FEED reads (R144, R147). -/
def feedBytes (f : FeedF) (m : Nat) : Nat := if f.raw then 64 * m else actBytes f.afmt f.ascl m

/-- The format of a VECTOR syllable's FMT (R148). -/
def vecFmt (fmt scl : Nat) : Fmt :=
  match fmt with
  | 0 => .fp32
  | 1 => .bf16
  | 2 => .e4m3
  | 3 => .e5m2
  | 4 => if scl = 1 then .mxint8 else .int8
  | 5 => .e2m1
  | 6 => .e2m3
  | _ => .e3m2

/-- Blocks of a WPS operation (Table 5.11). -/
def modBlocks (m : BitVec 30) : Nat := (m.extractLsb' 0 11).toNat + 1

/-- Width in bytes of a VXPOSE element (Table 5.11). -/
def xpWidth (m : BitVec 30) : Nat := 2 ^ (m.extractLsb' 28 2).toNat

/-- Rows of a VXPOSE tile. -/
def xpRows (m : BitVec 30) : Nat := (m.extractLsb' 20 8).toNat + 1

/-- Columns of a VXPOSE tile. -/
def xpCols (m : BitVec 30) : Nat := (m.extractLsb' 0 8).toNat + 1

/-- The bytes of a VLD or VST: elements, then scales (R148). -/
def vldBytes (m : BitVec 30) : Nat :=
  (vecFmt (modFmt m) (modScl m)).bytes 2048 +
  (if modScl m = 1 then 64 else if modScl m = 2 then 128 else 0)

/-- The working-store ranges of a VECTOR syllable: address, alignment, extent (R148). -/
def Site.vecRanges (c : Site) (op : VecOp) (f : VecF) : List (Word64 × Nat × Nat) :=
  let d := c.areg f.areg.toNat
  let a := c.areg (f.va.toNat % 16)
  let b := c.areg (f.vb.toNat % 16)
  let n := modBlocks f.mod
  match op with
  | .vld => [(d, 64, vldBytes f.mod)]
  | .vst => [(d, 64, vldBytes f.mod)]
  | .vwadd => [(d, 8, 264 * n), (a, 8, 264 * n), (b, 8, 264 * n)]
  | .vwanch => [(d, 8, 264 * n), (a, 8, 264 * n)]
  | .vwcvt => [(d, 64, (vecFmt (modFmt f.mod) 0).bytes (16 * n)), (a, 8, 264 * n)]
  | .vxpose =>
    let k := xpRows f.mod * xpCols f.mod * xpWidth f.mod
    [(d, 64, k), (a, 64, k)]
  | _ => []

/-- A range is aligned and lies within a store. -/
def rangeOk (size : Nat) (r : Word64 × Nat × Nat) : Bool :=
  decide (r.1.toNat % r.2.1 = 0) && decide (r.1.toNat + r.2.2 ≤ size)

/-! ### Copy descriptors (R108, R112) -/

/-- The 32-bit little-endian word at an offset of some bytes. -/
def word32At (bs : List Byte) (o : Nat) : Word32 := BitVec.ofNat 32 (leNat ((bs.drop o).take 4))

/-- The 64-bit little-endian word at an offset of some bytes. -/
def word64At (bs : List Byte) (o : Nat) : Word64 := BitVec.ofNat 64 (leNat ((bs.drop o).take 8))

/-- The fields of a descriptor's 64 bytes (Table 4.6). -/
def copyDescOf (bs : List Byte) : CopyDesc :=
  let w0 := word32At bs 0
  let w30 := word32At bs 0x30
  let w34 := word32At bs 0x34
  let w38 := word32At bs 0x38
  { srcKind := w0.extractLsb' 24 4, dstKind := w0.extractLsb' 20 4, twoD := w0.getLsbD 19,
    fence := w0.getLsbD 18, sillFree := w0.getLsbD 17, combine := w0.getLsbD 16,
    redFmt := w0.getLsbD 15, sigEn := w0.getLsbD 14, sigTok := w0.extractLsb' 8 6,
    prio := w0.extractLsb' 6 2, length := word32At bs 4, src := word64At bs 8,
    dst := word64At bs 0x10, rows := (word32At bs 0x18).extractLsb' 0 17,
    srcStride := word64At bs 0x20, dstStride := word64At bs 0x28, device := w30.extractLsb' 20 12,
    lcore := w30.extractLsb' 0 5, bellEn := w34.getLsbD 31, bell := w34.extractLsb' 0 13,
    group := w38.extractLsb' 16 16, contributor := w38.extractLsb' 0 6, tag := word32At bs 0x3C }

/-- VERSION is 1 and every reserved bit is 0 (Table 4.6). -/
def copyFixedOk (bs : List Byte) : Bool :=
  decide ((word32At bs 0).extractLsb' 28 4 = 1) && decide ((word32At bs 0).extractLsb' 0 6 = 0) &&
  decide ((word32At bs 0x18).extractLsb' 17 15 = 0) && decide (word32At bs 0x1C = 0) &&
  decide ((word32At bs 0x30).extractLsb' 5 15 = 0) &&
  decide ((word32At bs 0x34).extractLsb' 13 18 = 0) && decide ((word32At bs 0x38).extractLsb' 6 10 = 0)

/-- Bytes from a range's first byte to its end, rows apart by a stride. -/
def CopyDesc.extent (d : CopyDesc) (stride : Word64) : Nat :=
  (d.rows.toNat - 1) * (if d.twoD then stride.toNat else 0) + d.length.toNat

/-- The kinds and their pairing (R109, Table 4.7). -/
def CopyDesc.kindsOk (d : CopyDesc) : Bool :=
  decide (d.srcKind.toNat < 8) && decide (d.dstKind.toNat < 8) &&
  (decide (d.srcKind.toNat < 4) || decide (d.dstKind.toNat < 4)) && decide (d.dstKind ≠ 2) &&
  (decide (d.dstKind ≠ 1) || decide (d.srcKind = 0) || decide (d.srcKind = 3))

/-- LENGTH, ROWS and, when TWO_D is 1, the strides (R112). -/
def CopyDesc.shapeOk (d : CopyDesc) : Bool :=
  decide (d.length.toNat % 64 = 0) && decide (64 ≤ d.length.toNat) &&
  decide (d.length.toNat ≤ 0x7FFFFFC0) && decide (1 ≤ d.rows.toNat) && decide (d.rows.toNat ≤ 65536) &&
  (if d.twoD then
    decide (d.srcStride.toNat % 64 = 0) && decide (d.dstStride.toNat % 64 = 0) &&
    decide (d.length.toNat ≤ d.dstStride.toNat)
   else decide (d.rows = 1))

/-- A local address of kind 0 to 3 is a multiple of 64 and its range lies in its store (R112). -/
def State.localOk (s : State) (kind : BitVec 4) (a : Word64) (extent : Nat) : Bool :=
  let within (size : Nat) := decide (a.toNat % 64 = 0) && decide (a.toNat + extent ≤ size)
  match kind.toNat with
  | 0 => within wsSize
  | 1 => within granSize
  | 2 => decide (a.toNat % 64 = 0) && decide (a.toNat < 0x10000000)
  | 3 => within (s.pageCap * 8388608)
  | _ => true

/-- The checks of R112 on a pushed descriptor. Of COMBINE they take the kinds and the length, and not R209's
CONTRIBUTOR below the size of its group, which the combining point checks. DEDUCED, log entries 25 and 96. -/
def State.copyOk (s : State) (n : SiteNo) (bs : List Byte) : Bool :=
  let d := copyDescOf bs
  let m := (s.site n).mirror
  copyFixedOk bs && d.kindsOk && d.shapeOk && s.localOk d.srcKind d.src (d.extent d.srcStride) &&
  s.localOk d.dstKind d.dst (d.extent d.dstStride) &&
  (decide (d.dstKind ≠ 1) || (mirrorValid m &&
    decide (d.dst.toNat + d.extent d.dstStride ≤ mirrorPages m * 8388608))) &&
  (!d.combine || ((decide (d.srcKind = 0) || decide (d.srcKind = 2)) &&
    (decide (d.dstKind = 0) || decide (d.dstKind = 4) || decide (d.dstKind = 5)) &&
    (d.redFmt || decide (d.length.toNat % 2112 = 0))))

/-! ### Tally points (R150, R240, R301) -/

/-- One entry of a tally region table (Table 10.6). -/
structure TallyEntry where
  kind : Nat
  addr : Word64
  length : Nat
deriving DecidableEq, Repr

/-- The entries of a table, none when it is malformed (Table 10.6). -/
def Site.tallyEntries (c : Site) (a : Word64) : Option (List TallyEntry) :=
  let head := c.wsRead a.toNat 16
  let w := word32At head 0
  let count := (w.extractLsb' 0 16).toNat
  if decide (wsSize < a.toNat + 16) || decide (w.extractLsb' 16 16 ≠ 1) || decide (1024 < count) ||
      decide (leNat (head.drop 4) ≠ 0) || decide (wsSize < a.toNat + 16 + 16 * count) then none
  else
    let es := (List.range count).map fun i =>
      let b := c.wsRead (a.toNat + 16 + 16 * i) 16
      (word64At b 0, (word32At b 8).toNat, word32At b 12)
    if es.all fun e => decide (e.1.toNat % 64 = 0) && decide (e.2.1 % 64 = 0) && decide (64 ≤ e.2.1) &&
        decide (e.2.2.toNat < 2) then
      some (es.map fun e => { kind := e.2.2.toNat, addr := e.1, length := e.2.1 })
    else none

/-- The pages of a range at a page-map address. -/
def pagesOf (a len : Nat) : List Nat :=
  (List.range ((a + len - 1) / 8388608 + 1 - a / 8388608)).map fun i => a / 8388608 + i

/-- An entry names memory of the scope, and no MIRROR or tally page (R301). -/
def State.tallyNames (s : State) (o : Option HamletNo) (e : TallyEntry) : Bool :=
  if e.kind = 0 then decide (e.addr.toNat + e.length ≤ wsSize)
  else
    decide (e.addr.toNat + e.length ≤ s.pageCap * 8388608) &&
    (pagesOf e.addr.toNat e.length).all fun p =>
      let v := s.page p
      v.valid && decide (v.owner = o) && decide (v.kind ≠ 2) && decide (v.kind ≠ 3) && decide (v.kind ≠ 4)

/-- Bytes of a scope's tally buffer A (kind 3) or B (kind 4) (R240, R241). -/
def State.tallyBytes (s : State) (o : Option HamletNo) (kind : BitVec 3) : Nat :=
  8388608 * (s.mem.pages.filter fun e =>
    let v := s.page e.1
    v.valid && decide (v.owner = o) && decide (v.kind = kind)).length

/-- Bells that a scope owns (R301). -/
def State.bellsOf (s : State) (o : Option HamletNo) : Nat :=
  match o with
  | some h => (s.hamlet h).bellCount.toNat
  | none => 8192 - ((List.finRange 8).map fun h => (s.hamlet h).bellCount.toNat).sum

/-- Bytes that a core's table and sequencer state take (R301). -/
def tallyShare (es : List TallyEntry) : Nat := (es.map (·.length)).sum + 270336

/-- The share of a TALLY on site n, none when it raises TALLY_STATE (R150, R301). -/
def State.tallyFits (s : State) (n : SiteNo) (areg : BitVec 4) : Option Nat :=
  let c := s.site n
  let o := c.hamlet
  let held := (List.finRange 4).any fun e => decide ((c.eng e).banksIn (fun x => decide (x = .held)) ≠ 0)
  match c.launch, c.tallyEntries (c.areg areg.toNat) with
  | some l, some es =>
    if l.tallyEn && !held && es.all (s.tallyNames o) &&
        decide ((s.tallyOf o).share + tallyShare es + 32 * s.bellsOf o + 4096 ≤
          min (s.tallyBytes o 3) (s.tallyBytes o 4)) then some (tallyShare es)
    else none
  | _, _ => none

/-! ### What a bundle raises (R157) -/

/-- The bundle stands at the END of an active loop (R134). -/
def Site.atEnd (c : Site) : Bool := c.loops.any fun l => decide (l.endB = c.pc)

/-- A syllable breaks R133 or R134 where it stands. -/
def Site.placeBad (c : Site) : Syll → Bool
  | .br _ => c.atEnd
  | .brc .. => c.atEnd
  | .loop _ _ _ endB => c.atEnd || decide (endB.toNat < c.pc.toNat + 1)
  | _ => false

/-- The slot of the first INVALID_ENCODING of a bundle, in the order of R157. -/
def Site.badSlot (c : Site) (h : Head) (ys : List (Nat × Syll)) : Option Nat :=
  if h.ok = false then some 0
  else
    match ys.find? fun p => !p.2.ok || c.placeBad p.2 with
    | some p => some p.1
    | none => if bundleOk (ys.map (·.2)) then none else some 0

/-- The bell a BELL syllable names (R149). -/
def Site.bellNo (c : Site) (f : BellF) : BitVec 13 :=
  if f.breg then (c.sreg f.sb).extractLsb' 0 13 else f.bell

/-- A bell number of 13 bits. -/
def bellFin (b : BitVec 13) : BellNo := ⟨b.toNat, b.isLt⟩

/-- The sill entry a syllable names as a drain's destination. -/
def claimsOf : Syll → Option (Fin 64)
  | .matrix f => if f.dest = 0 then none else some f.sill
  | .bankDrain f => some f.sill
  | .ewise f => some f.sill
  | _ => none

/-- SFREE of an entry is in order: it is claimed and its free is not requested yet, the lower slots of the
bundle counted (R149). -/
def Site.sfreeOk (c : Site) (lower : List Syll) (e : Fin 64) : Bool :=
  let v := c.entry e.val
  (decide (0 < v.claimed) || lower.any fun y => decide (claimsOf y = some e)) &&
  !v.freeReq && !lower.contains (.sfree e)

/-- The precise exception other than INVALID_ENCODING that one syllable raises: code and CORE_EXC_INFO
(Table 5.13). lower are the syllables of lower slots. -/
def State.raises (s : State) (n : SiteNo) (lower : List Syll) (y : Syll) : Option (BitVec 6 × Word32) :=
  let c := s.site n
  let addr (ok : Bool) : Option (BitVec 6 × Word32) := if ok then none else some (0x0A, 0)
  match y with
  | .loop .. => if 4 ≤ c.loops.length then some (0x09, 0) else none
  | .trap code => some (0x0E, code.setWidth 32)
  | .lds f => addr (rangeOk wsSize (c.memAddr f, 8, 8))
  | .sts f => addr (rangeOk wsSize (c.memAddr f, 8, 8))
  | .latch f =>
    addr (rangeOk (if f.fromWs then wsSize else granSize)
      (c.areg f.areg.toNat, 512, weightBytes f.wfmt f.wscl f.sparse))
  | .feed f => addr (rangeOk wsSize (c.areg f.areg.toNat, 64, feedBytes f (c.mOf f.mreg f.mfield)))
  | .vec op f => addr ((c.vecRanges op f).all (rangeOk wsSize))
  | .push _ areg =>
    let a := c.areg areg.toNat
    if rangeOk wsSize (a, 64, 64) = false then some (0x0A, 0)
    else if s.copyOk n (c.wsRead a.toNat 64) then none else some (0x08, 0)
  | .sfree e => if c.sfreeOk lower e then none else some (0x0C, 0)
  | .bell f =>
    if f.remote || decide ((s.bell (bellFin (c.bellNo f))).owner = c.hamlet) then none else some (0x0B, 0)
  | .tally areg => match s.tallyFits n areg with | some _ => none | none => some (0x0D, 0)
  | _ => none

/-- The first such exception of a bundle, lowest slot first: slot, code, CORE_EXC_INFO. -/
def State.firstRaise (s : State) (n : SiteNo) (lower : List Syll) :
    List (Nat × Syll) → Option (Nat × BitVec 6 × Word32)
  | [] => none
  | p :: ps =>
    match s.raises n lower p.2 with
    | some x => some (p.1, x.1, x.2)
    | none => s.firstRaise n (lower ++ [p.2]) ps

/-! ### Dispatch conditions (Table 5.3) -/

/-- W0 and W1 are satisfied (R126). -/
def Site.waitsOk (c : Site) (h : Head) : Bool :=
  if h.w0En && h.w1En && decide (h.w0Tok = h.w1Tok) then
    decide (h.w0Amt.toNat + h.w1Amt.toNat ≤ (c.tok h.w0Tok).toNat)
  else
    (!h.w0En || decide (h.w0Amt ≤ c.tok h.w0Tok)) && (!h.w1En || decide (h.w1Amt ≤ c.tok h.w1Tok))

/-- The waits' amounts are consumed (R126). -/
def Site.takeWaits (c : Site) (h : Head) : Site :=
  let c := if h.w0En then c.consume h.w0Tok h.w0Amt.toNat else c
  if h.w1En then c.consume h.w1Tok h.w1Amt.toNat else c

/-- The schedule reference, set at the first fetch of a LAUNCH (R151). -/
def Site.ref (c : Site) : Word64 := match c.sref with | some r => r | none => c.cycle

/-- The scheduled cycle of a timed bundle (R151). DESIGN CHOICE, log entry 10; DEDUCED, log entry 88. -/
def Site.schedule (c : Site) (h : Head) : Word64 := c.ref + h.delta.setWidth 64

/-- A timed bundle has reached its scheduled cycle. -/
def Site.timeOk (c : Site) (h : Head) : Bool := !h.timed || decide (c.schedule h ≤ c.cycle)

/-- An S register of the bundle awaits a pending write (R128). -/
def Site.scoreOk (c : Site) (ys : List Syll) : Bool :=
  (ys.flatMap Syll.readsS).all fun r => decide (r = 0) || c.pend.all fun p => decide (p.rd ≠ r)

/-- Syllables that enter the array queue of engine e (Table 5.4, R82). -/
def Site.toArray (c : Site) (e : EngNo) : Syll → Bool
  | .matrix f => decide (c.runner f.eng = e)
  | .bankDrain f => decide (c.runner f.eng = e)
  | .bankFree x _ => decide (c.runner x = e)
  | .ewise f => decide (c.runner f.eng = e)
  | _ => false

/-- Syllables that enter the feed queue of engine e. -/
def Site.toFeed (c : Site) (e : EngNo) : Syll → Bool
  | .feed f => decide (c.runner f.eng = e)
  | _ => false

/-- Syllables that enter the latch queue of engine e. -/
def Site.toLatch (c : Site) (e : EngNo) : Syll → Bool
  | .latch f => decide (c.runner f.eng = e)
  | _ => false

/-- Syllables that enter the vector queue. -/
def toVec : Syll → Bool
  | .vec _ _ => true
  | .lds _ => true
  | .sts _ => true
  | _ => false

/-- Syllables pushed onto copy queue q. -/
def toCopy (q : Fin 4) : Syll → Bool
  | .push p _ => decide (p = q)
  | _ => false

/-- BELL syllables (R292). -/
def isBell : Syll → Bool
  | .bell _ => true
  | _ => false

/-- Every queue has room for the bundle's entries (Table 5.4, R292). -/
def Site.roomOk (c : Site) (ys : List Syll) : Bool :=
  let cnt (p : Syll → Bool) := (ys.filter p).length
  ((List.finRange 4).all fun e =>
    decide ((c.eng e).arrayQ.length + cnt (c.toArray e) ≤ 16) &&
    decide ((c.eng e).feedQ.length + cnt (c.toFeed e) ≤ 4) &&
    decide ((c.eng e).latchQ.length + cnt (c.toLatch e) ≤ 4)) &&
  decide (c.vecQ.length + cnt toVec ≤ 8) &&
  ((List.finRange 4).all fun q => decide ((c.queue q).depth + cnt (toCopy q) ≤ 64)) &&
  decide (c.bellsOut + cnt isBell ≤ 64)

/-- An entry of the vector queue is an STS. -/
def VecEntry.isSts (v : VecEntry) : Bool := match v.item with | .sts _ => true | _ => false

/-- What a syllable itself waits for: WAIT_UNTIL (R154), SETTLE (R137), TALLY (R150), and a PUSH behind an
earlier STS (R130). -/
def State.syllWait (s : State) (n : SiteNo) : Syll → Bool
  | .waitUntil rs => decide ((s.site n).sreg rs ≤ s.tb)
  | .settle => (s.site n).settled
  | .tally _ => (s.site n).settled
  | .push _ _ => !(s.site n).vecQ.any VecEntry.isSts
  | _ => true

/-- Every condition of Table 5.3 holds. -/
def State.canDispatch (s : State) (n : SiteNo) (h : Head) (ys : List Syll) : Bool :=
  let c := s.site n
  c.waitsOk h && c.timeOk h && c.scoreOk ys && c.roomOk ys && ys.all (s.syllWait n)

/-! ### Flow (R131 to R135) -/

/-- The loop's body holds a bundle. -/
def LoopSt.holds (l : LoopSt) (b : BitVec 16) : Bool := decide (l.start ≤ b) && decide (b ≤ l.endB)

/-- The loops left when the next bundle is b: a loop that b leaves ends with every loop inside it
(R134). Innermost first. -/
def keepLoops (b : BitVec 16) : List LoopSt → List LoopSt
  | [] => []
  | l :: ls =>
    let r := keepLoops b ls
    if r.length = ls.length ∧ l.holds b = true then l :: r else r

/-- The bundle at b has dispatched as the last of the loops that end there: the loops left, and where the
flow returns (R133). -/
def advanceLoops (b : BitVec 16) : List LoopSt → List LoopSt × Option (BitVec 16)
  | [] => ([], none)
  | l :: ls =>
    if l.endB = b then
      if 1 < l.count then ({ l with count := l.count - 1 } :: ls, some l.start)
      else advanceLoops b ls
    else (l :: ls, none)

/-- A LOOP with count 0 has skipped its body: each enclosing loop whose END is b advances, a loop of another
END between them or not; a next bundle outside a loop's body ends it later (R133). -/
def skipLoops (b : BitVec 16) : List LoopSt → List LoopSt × Option (BitVec 16)
  | [] => ([], none)
  | l :: ls =>
    if l.endB = b then
      if 1 < l.count then ({ l with count := l.count - 1 } :: ls, some l.start)
      else skipLoops b ls
    else let r := skipLoops b ls; (l :: r.1, r.2)

/-- Where the flow goes after a dispatch: pc, loops, and whether the extra cycle of R135 is paid. -/
structure Flow where
  pc : BitVec 16
  loops : List LoopSt
  extra : Bool
deriving DecidableEq, Repr

/-- A branch taken to a target. -/
def Site.branch (c : Site) (t : BitVec 16) : Flow :=
  { pc := t, loops := keepLoops t c.loops, extra := true }

/-- The bundle after the present one, with the loops that end there advanced (R133). -/
def Site.fall (c : Site) : Flow :=
  let a := advanceLoops c.pc c.loops
  { pc := match a.2 with | some b => b | none => c.pc + 1, loops := a.1, extra := false }

/-- A LOOP with a count (R133). -/
def Site.enterLoop (c : Site) (count : BitVec 32) (endB : BitVec 16) : Flow :=
  if count = 0 then
    let a := skipLoops endB c.loops
    let b := match a.2 with | some b => b | none => endB + 1
    { pc := b, loops := keepLoops b a.1, extra := true }
  else { pc := c.pc + 1, loops := { start := c.pc + 1, endB := endB, count := count } :: c.loops,
         extra := false }

/-- What a syllable does to the flow; none for a syllable that only falls through. -/
def Site.flowOf (c : Site) : Syll → Option Flow
  | .br t => some (c.branch t)
  | .brc cond rs1 rs2 imm imm16 t =>
    let b := if imm then imm16.signExtend 64 else c.sreg rs2
    if condHolds cond (c.sreg rs1) b then some (c.branch t) else none
  | .loop creg rs count endB =>
    some (c.enterLoop (if creg then (c.sreg rs).extractLsb' 0 32 else count.setWidth 32) endB)
  | _ => none

/-- The flow after a bundle. -/
def Site.flow (c : Site) (ys : List Syll) : Flow :=
  match ys.findSome? c.flowOf with
  | some f => f
  | none => c.fall

/-! ### What each syllable does at dispatch -/

/-- A STATUS source's value (Table 5.7). -/
def State.statusValue (s : State) (n : SiteNo) (src : BitVec 8) : Word64 :=
  let c := s.site n
  match src.toNat with
  | 0x00 => c.cycle
  | 0x01 => s.tb
  | 0x02 => c.slip
  | 0x03 => c.slipMax.setWidth 64
  | 0x04 => c.stretchSlip.setWidth 64
  | 0x08 => (c.eng 0).flushReg.setWidth 64
  | 0x09 => (c.eng 1).flushReg.setWidth 64
  | 0x0A => (c.eng 2).flushReg.setWidth 64
  | 0x0B => (c.eng 3).flushReg.setWidth 64
  | 0x0C => c.vecFlush.setWidth 64
  | 0x10 => (c.queue 0).statusWord.setWidth 64
  | 0x11 => (c.queue 1).statusWord.setWidth 64
  | 0x12 => (c.queue 2).statusWord.setWidth 64
  | 0x13 => (c.queue 3).statusWord.setWidth 64
  | 0x14 => c.sillWord.setWidth 64
  | _ => s.identWord n

/-- The W1C bits of a STATUS source are cleared (R139, Table 2.8). -/
def Site.statusClear (c : Site) (src : BitVec 8) : Site :=
  match src.toNat with
  | 0x08 => c.modEng 0 fun e => { e with flushReg := 0 }
  | 0x09 => c.modEng 1 fun e => { e with flushReg := 0 }
  | 0x0A => c.modEng 2 fun e => { e with flushReg := 0 }
  | 0x0B => c.modEng 3 fun e => { e with flushReg := 0 }
  | 0x0C => { c with vecFlush := 0 }
  | _ => c

/-- A register awaits a value (R128); a write to S0 is discarded, so it awaits none. -/
def Site.mark (c : Site) (rd : BitVec 5) (v : Option Word64) : Site :=
  if rd = 0 then c else { c with pend := c.pend ++ [{ rd := rd, value := v }] }

/-- An operation enters the array queue of the engine that runs it (R82, R127, R129). -/
def Site.pushArray (c : Site) (named : EngNo) (op : Nat → ArrayOp) : Site :=
  let k := c.nextSeq
  c.modEng (c.runner named) fun e => { e with arrayQ := e.arrayQ ++ [op k], nextSeq := k + 1 }

/-- A FEED enters its queue. -/
def Site.pushFeed (c : Site) (named : EngNo) (op : Nat → FeedOp) : Site :=
  let k := c.nextSeq
  c.modEng (c.runner named) fun e => { e with feedQ := e.feedQ ++ [op k], nextSeq := k + 1 }

/-- A LATCH enters its queue. -/
def Site.pushLatch (c : Site) (named : EngNo) (op : Nat → LatchOp) : Site :=
  let k := c.nextSeq
  c.modEng (c.runner named) fun e => { e with latchQ := e.latchQ ++ [op k], nextSeq := k + 1 }

/-- An entry of the sill is claimed by a syllable that names it (R149): each free ends one claim. DEDUCED, log entry 93. -/
def Site.claim (c : Site) (i : Fin 64) : Site :=
  c.setEntry i.val { c.entry i.val with claimed := (c.entry i.val).claimed + 1 }

/-- A forecast is held: at most four, a fifth replacing the one with the earliest start (R155). -/
def addForecast (fs : List Forecast) (f : Forecast) : List Forecast :=
  if fs.length < 4 then fs ++ [f]
  else
    match fs with
    | [] => [f]
    | g :: gs =>
      let first := gs.foldl (fun m x => if x.start < m.start then x else m) g
      (fs.erase first) ++ [f]

/-- What a syllable reads for the vector queue, from the registers at the start of the cycle. -/
def Site.vecEntry (c : Site) (slot : Nat) (item : VecItem) (addr : Word64) (a b : BitVec 5)
    (sreg : BitVec 5) : VecEntry :=
  { item := item, addr := addr, addrA := c.areg (a.toNat % 16), addrB := c.areg (b.toNat % 16),
    sval := c.sreg sreg, bundle := c.pc, slot := slot }

/-- The S register a VECTOR syllable reads at dispatch (Table 5.11). -/
def vecSreg (op : VecOp) (f : VecF) : BitVec 5 :=
  match op with
  | .vld => f.mod.extractLsb' 20 5
  | .vst => f.mod.extractLsb' 20 5
  | .vbcast => f.va
  | _ => f.vb

/-- The effect of one syllable on its site; c0 is the site at the start of the cycle (R128). -/
def Site.effect (c0 : Site) (status : BitVec 8 → Word64) (slot : Nat) (c : Site) (y : Syll) : Site :=
  let pushVec (v : VecEntry) : Site := { c with vecQ := c.vecQ ++ [v] }
  let array (kind : ArrayKind) (m : Nat) (anchor : BitVec 8) (cs : BitVec 32 × BitVec 32) (e : EngNo)
      (c : Site) : Site :=
    c.pushArray e fun k =>
      { seq := k, kind := kind, m := m, anchorReg := anchor, c1 := cs.1, c2 := cs.2, bundle := c0.pc,
        slot := slot, named := e }
  match y with
  | .alu op f => c.setS f.rd (aluResult op (c0.sreg f.rs1) (c0.operand2 f))
  | .li rd imm => c.setS rd (imm.signExtend 64)
  | .lih rd imm => c.setS rd (imm ++ (c0.sreg rd).extractLsb' 0 32)
  | .aadd f => c.setA f.rd.toNat (c0.areg f.rs1.toNat + c0.operand2 f)
  | .amov rd rs1 => c.setA rd.toNat (c0.sreg rs1)
  | .smova rd rs1 => c.setS rd (c0.areg rs1.toNat)
  | .lds f =>
    let c := c.mark f.reg none
    { c with vecQ := c.vecQ ++ [c0.vecEntry slot (.lds f.reg) (c0.memAddr f) 0 0 0] }
  | .sts f => pushVec (c0.vecEntry slot (.sts (c0.sreg f.reg)) (c0.memAddr f) 0 0 0)
  | .status rd clear src =>
    let c := c.mark rd (some (status src))
    if clear then c.statusClear src else c
  | .forecast mask level start dur =>
    if dur = 0 then { c with forecasts := [] }
    else
      let t0 := status 1 + BitVec.ofNat 64 (start.toNat * 100)
      let f : Forecast := { engMask := mask, level := level, start := t0,
                            stop := t0 + BitVec.ofNat 64 (dur.toNat * 1000), active := false }
      { c with forecasts := addForecast c.forecasts f }
  | .phaseHint valid op => { c with hint := if valid then some op else none }
  | .halt => { c with seq := .halted }
  | .matrix f =>
    let c := if f.dest = 0 then c else c.claim f.sill
    let anchor := if f.anch = 1 then (c0.sreg f.anchArg).extractLsb' 0 8 else 0
    array (.matrix f) (c0.mOf f.mreg f.mfield) anchor (c0.scales f.scalReg) f.eng c
  | .latch f =>
    c.pushLatch f.eng fun k =>
      { seq := k, f := f, off := (c0.areg f.areg.toNat).toNat, bundle := c0.pc, slot := slot }
  | .feed f =>
    c.pushFeed f.eng fun k =>
      { seq := k, f := f, m := c0.mOf f.mreg f.mfield, off := (c0.areg f.areg.toNat).toNat,
        bundle := c0.pc, slot := slot }
  | .bankDrain f => array (.drain f) (f.rowsM1.toNat + 1) 0 (c0.scales f.scalReg) f.eng (c.claim f.sill)
  | .bankFree e b => array (.free b) 0 0 (fp1, fp1) e c
  | .ewise f => array (.ewise f) (f.nM1.toNat + 1) 0 (fp1, fp1) f.eng (c.claim f.sill)
  | .vec op f =>
    let v := c0.vecEntry slot (.vec op f) (c0.areg f.areg.toNat) f.va f.vb (vecSreg op f)
    let v := match op with
      | .vwcvt => if f.vb = 0 then { v with sval := fp1 ++ fp1 } else v
      | _ => v
    let c := match op with
      | .vmovs => c.mark f.vd none
      | _ => c
    { c with vecQ := c.vecQ ++ [v] }
  | .push q areg =>
    let d := copyDescOf (c0.wsRead (c0.areg areg.toNat).toNat 64)
    c.setQueue q { c.queue q with waiting := (c.queue q).waiting ++ [d] }
  | .sfree e => (c.setEntry e.val { c.entry e.val with freeReq := true }).sillTryFree e.val
  | .signal tok amount => c.signal tok amount.toNat
  | _ => c

/-- Every RELEASED entry is freed (R136, R150). -/
def Site.freeReleased (c : Site) : Site :=
  (List.range 64).foldl
    (fun c i => if (c.entry i).st = .released then c.sillGone i else c) c

/-- The bell operation a BELL syllable sends (R149, R288). -/
def Site.bellMsg (c : Site) (f : BellF) : BellMsg :=
  { op := 0, dev := if f.remote then some ((c.sreg f.sd).extractLsb' 0 12) else none,
    bell := c.bellNo f, amount := f.amount.setWidth 32, instant := 0, tag := c.hamlet }

/-- An ADD 1 that the tally logic of a core sends to a bell of its job (R302). -/
def Site.arrive (c : Site) (b : BitVec 13) : BellMsg :=
  { op := 0, dev := none, bell := b, amount := 1, instant := 0, tag := c.hamlet }

/-- What a syllable sends or does outside its site at dispatch: BELL, TALLY. -/
def State.outside (s : State) (n : SiteNo) (c0 : Site) (share : Nat) (y : Syll) : State :=
  match y with
  | .bell f => s.coreBell n (c0.bellMsg f)
  | .tally areg =>
    let t := s.tallyOf c0.hamlet
    let s := s.setTally c0.hamlet { t with share := t.share + share }
    let s := s.modSite n fun c =>
      { c.freeReleased with seq := .tally, tallyTable := c0.areg areg.toNat }
    match c0.launch with
    | some l => s.coreBell n (c0.arrive l.enterArrive)
    | none => s
  | _ => s

/-- The share of a TALLY in the bundle. -/
def State.bundleShare (s : State) (n : SiteNo) (ys : List Syll) : Nat :=
  match ys.findSome? fun y => match y with | .tally a => some a | _ => none with
  | some a => match s.tallyFits n a with | some k => k | none => 0
  | none => 0

/-- s_ref after a bundle dispatches (R151). -/
def Site.nextRef (c : Site) (h : Head) (ys : List Syll) : Word64 :=
  if ys.contains .sched then c.cycle else if h.timed then c.schedule h else c.ref

/-- CORE_SLIP_MAX after a timed bundle dispatches (R152). DEDUCED, log entry 88. -/
def Site.lateness (c : Site) (h : Head) : BitVec 32 :=
  if h.timed ∧ c.schedule h < c.cycle then
    let d := satNat 32 (c.cycle - c.schedule h).toNat
    if c.slipMax < d then d else c.slipMax
  else c.slipMax

/-- The bundle leaves the sequencer (R125, R128): waits consumed, the schedule kept, the flow, the watchdog
restarted, and every syllable's effect in slot order. -/
def State.commit (s : State) (n : SiteNo) (h : Head) (ys : List (Nat × Syll)) : State :=
  let c0 := s.site n
  let only := ys.map (·.2)
  let share := s.bundleShare n only
  let fl := c0.flow only
  let step : Word64 := if fl.extra then 2 else 1
  let c1 := { c0.takeWaits h with
    pc := fl.pc, loops := fl.loops, cycle := c0.cycle + step, bubble := fl.extra, quiet := 0,
    slipMax := c0.lateness h,
    sref := some (c0.nextRef h only),
    launch := c0.launch.map fun l => { l with lastDispatch := s.tb } }
  let c2 := ys.foldl (fun c p => c0.effect (s.statusValue n) p.1 c p.2) c1
  only.foldl (fun s y => s.outside n c0 share y) (s.setSite n c2)

/-- A cycle in which the bundle does not dispatch (R152). -/
def Site.wait (c : Site) (h : Head) : Site :=
  { c with cycle := c.cycle + 1, sref := some c.ref,
           slip := if h.timed ∧ c.schedule h ≤ c.cycle then c.slip + 1 else c.slip }

/-- The sequencer's next bundle as the program store holds it: head and syllables, each none when it is not
defined. -/
def Site.fetched (c : Site) : Option Head × List (Nat × Option Syll) :=
  let ws := c.bundle c.pc
  (decodeHead (ws.getD 0 0), (List.range 7).map fun k => (k + 1, decodeSyll (ws.getD (k + 1) 0)))

/-! ### Waiting and quiescence (R116, R137) -/

/-- What a syllable of the next bundle waits for, if it is a WAIT_UNTIL: whether its target has come. -/
def State.targetOf (s : State) (n : SiteNo) : Syll → Option Bool
  | .waitUntil rs => some (decide ((s.site n).sreg rs ≤ s.tb))
  | _ => none

/-- The sequencer is waiting for the purposes of R116 (R137): it runs no program, or its next bundle's
scheduled cycle has come, no SETTLE holds it, and it waits on tokens or on WAIT_UNTIL. DEDUCED, log entry 86. -/
def State.seqWaits (s : State) (n : SiteNo) : Bool :=
  let c := s.site n
  match c.seq with
  | .running =>
    match c.fetched with
    | (some h, ys) =>
      let only := ys.filterMap fun p => p.2
      c.timeOk h && (c.settled || !only.contains .settle) &&
        (!c.waitsOk h || only.any fun y => decide (s.targetOf n y = some false))
    | _ => false
  | .tally => false
  | _ => true

/-- The next bundle of a running sequencer holds a WAIT_UNTIL whose target the time base has reached (R154). -/
def State.targetCame (s : State) (n : SiteNo) : Bool :=
  let c := s.site n
  match c.seq with
  | .running => (c.fetched.2.filterMap fun p => p.2).any fun y => decide (s.targetOf n y = some true)
  | _ => false

/-- The core is quiescent (R116). -/
def State.quiescent (s : State) (n : SiteNo) : Bool :=
  let c := s.site n
  s.seqWaits n && c.enginesDone && c.vecQ.isEmpty &&
  ((List.finRange 4).all fun q => decide ((c.queue q).depth = 0)) &&
  decide (c.entriesIn (fun x => decide (x = .opened) || decide (x = .closed)) = 0)

/-! ### Cycles and fetches (R88, R97, R152, R159) -/

/-- Of the cycles from lo to hi, those from a cycle on. -/
def cyclesFrom (start lo hi : Word64) : Word64 :=
  if hi ≤ start then 0 else hi - (if lo < start then start else lo)

/-- Cycles pass in which the next bundle does not dispatch; the cycle after a taken branch is one, counted with
its branch. Those from the scheduled cycle of a timed bundle on are slip (R135, R152, R159). DESIGN CHOICE, log entry 10; DEDUCED, log entry 88. -/
def Site.pass (c : Site) (h : Option Head) (k : Word64) : Site :=
  let hi := c.cycle + k
  let lo := if c.bubble then c.cycle - 1 else c.cycle
  let late : Word64 := match h, c.sref with
    | some h, some _ =>
      if h.timed && (decide (c.seq = .running) || decide (c.seq = .tally) || decide (c.seq = .stopped)) then
        cyclesFrom (c.schedule h) lo hi
      else 0
    | _, _ => 0
  { c with cycle := hi, bubble := false, slip := c.slip + late }

/-- Core cycles of a site pass; those in which it is quiescent count (R116, R159). DEDUCED, log entry 9; DESIGN CHOICE, log entry 10. -/
def State.passed (s : State) (n : SiteNo) (h : Option Head) (k : Word64) : State :=
  if k = 0 ∧ (s.site n).bubble = false then s
  else
    let q := s.quiescent n
    s.modSite n fun c => { c.pass h k with quiet := if q then c.quiet + k.toNat else 0 }

/-- The fetch of the next bundle is checked: a corrected word is counted; an uncorrectable one, found now or by
scrub before, stops the core (R88). DEDUCED, log entry 13. -/
def State.fetch (s : State) (n : SiteNo) (ecc : EccObs) : State :=
  let c := s.site n
  if c.seq ≠ .running then s
  else if ecc = .uncorrectable ∨ c.psBad.contains c.pc = true then s.psLost n c.pc
  else if ecc = .corrected then s.psFixed n c.pc
  else s

/-- The working-store address that a bundle itself reads at dispatch: the descriptor of its first PUSH, else
the table of its TALLY (R130, R150). -/
def Site.bundleReads (c : Site) (ys : List Syll) : Option Nat :=
  ys.findSome? fun y => match y with
    | .push _ a => if rangeOk wsSize (c.areg a.toNat, 64, 64) then some (c.areg a.toNat).toNat else none
    | .tally a => if (c.areg a.toNat).toNat + 16 ≤ wsSize then some (c.areg a.toNat).toNat else none
    | _ => none

/-- What the bundle reads of the working store at dispatch is checked: an uncorrectable word is not delivered
and the bundle does not dispatch (R97). DEDUCED, log entry 13. -/
def State.dispatchReads (s : State) (n : SiteNo) (h : Head) (ys : List Syll) (ecc : EccObs) : State :=
  let c := s.site n
  match c.bundleReads ys with
  | none => s
  | some a =>
    if c.seq ≠ .running ∨ ecc = .clean ∨ s.canDispatch n h ys = false then s
    else if ecc = .corrected then s.wsFixed n a
    else s.wsLost n a

/-- What comes before the cycle in which a bundle is tried: the cycles passed, its fetch, and what it reads. -/
def State.begin (s : State) (d : Disp) (y : Syll) : State :=
  ((s.passed d.site (some d.head) d.cycles).fetch d.site d.ps).dispatchReads d.site d.head
    ((slotsOf d y).map (·.2)) d.ws

/-- The cycle in which a bundle is tried (R125, R157). -/
def State.attempt (s : State) (n : SiteNo) (h : Head) (ys : List (Nat × Syll)) : State :=
  let c := s.site n
  if c.seq ≠ .running then s
  else
    match c.badSlot h ys with
    | some slot => s.raise n 0x01 slot c.pc 0
    | none =>
      if s.canDispatch n h (ys.map (·.2)) = false then s.modSite n fun c => c.wait h
      else
        match s.firstRaise n [] ys with
        | some (slot, code, info) => s.raise n code slot c.pc info
        | none => s.commit n h ys

/-- One cycle of a site's sequencer with a bundle at its head, after those that have passed (R125, R157,
R159). A sequencer that runs no program only counts them. DEDUCED, log entry 13. -/
def State.dispatch (s : State) (d : Disp) (y : Syll) : State :=
  if s.clocked d.site = false then s else (s.begin d y).attempt d.site d.head (slotsOf d y)

/-! ### PRECISE_EXCEPTION -/

/-- The slot of the first INVALID_ENCODING of the bundle in the program store (R124, R157). -/
def Site.storeBadSlot (c : Site) : Option Nat :=
  let b := c.fetched
  match b.1 with
  | none => some 0
  | some h =>
    if h.ok = false then some 0
    else
      match b.2.find? fun p => match p.2 with | none => true | some y => !y.ok || c.placeBad y with
      | some p => some p.1
      | none => if bundleOk (b.2.filterMap (·.2)) then none else some 0

/-- PRECISE_EXCEPTION (R157): the bundle at the sequencer's head in the program store breaks a rule: it is
not dispatched and the exception is recorded. A bundle that breaks none is left to dispatch. -/
def execPreciseException (site : SiteNo) (s : State) : Host.Outcome State Fault Refusal :=
  let c := s.site site
  if c.seq ≠ .running ∨ s.clocked site = false then .next s
  else if c.psBad.contains c.pc then .next (s.fetch site .clean)
  else
    match c.storeBadSlot, c.fetched with
    | some slot, _ => .next (s.raise site 0x01 slot c.pc 0)
    | none, (some h, ys) =>
      let ys := ys.filterMap fun p => p.2.map fun y => (p.1, y)
      if s.canDispatch site h (ys.map (·.2)) = false then .next s
      else
        match s.firstRaise site [] ys with
        | some (slot, code, info) => .next (s.raise site code slot c.pc info)
        | none => .next s
    | none, (none, _) => .next s

/-! ### The syllables -/

/-- NOP: the bundle dispatches (R123, R125). -/
def execNop (d : Disp) (s : State) : Host.Outcome State Fault Refusal :=
  .next (s.dispatch d .nop)

/-- BR (R131, R134, R135). -/
def execBr (d : Disp) (target : BitVec 16) (s : State) : Host.Outcome State Fault Refusal :=
  .next (s.dispatch d (.br target))

/-- BRC (R131, R132). -/
def execBrc (d : Disp) (cond : BitVec 3) (rs1 rs2 : BitVec 5) (imm : Bool) (imm16 target : BitVec 16) (s : State) : Host.Outcome State Fault Refusal :=
  .next (s.dispatch d (.brc cond rs1 rs2 imm imm16 target))

/-- LOOP (R133). -/
def execLoop (d : Disp) (creg : Bool) (rs : BitVec 5) (count endB : BitVec 16) (s : State) : Host.Outcome State Fault Refusal :=
  .next (s.dispatch d (.loop creg rs count endB))

/-- HALT (R136). -/
def execHalt (d : Disp) (s : State) : Host.Outcome State Fault Refusal :=
  .next (s.dispatch d .halt)

/-- TRAP (R131, Table 5.13). -/
def execTrap (d : Disp) (code : BitVec 16) (s : State) : Host.Outcome State Fault Refusal :=
  .next (s.dispatch d (.trap code))

/-- SETTLE (R137). -/
def execSettle (d : Disp) (s : State) : Host.Outcome State Fault Refusal :=
  .next (s.dispatch d .settle)

/-- SCHED (R151). -/
def execSched (d : Disp) (s : State) : Host.Outcome State Fault Refusal :=
  .next (s.dispatch d .sched)

/-- WAIT_UNTIL (R154). -/
def execWaitUntil (d : Disp) (rs : BitVec 5) (s : State) : Host.Outcome State Fault Refusal :=
  .next (s.dispatch d (.waitUntil rs))

/-- FORECAST (R155). -/
def execForecast (d : Disp) (engMask : BitVec 4) (level : BitVec 5) (start : BitVec 10) (duration : BitVec 12) (s : State) : Host.Outcome State Fault Refusal :=
  .next (s.dispatch d (.forecast engMask level start duration))

/-- PHASE_HINT (R156). -/
def execPhaseHint (d : Disp) (valid : Bool) (op : BitVec 3) (s : State) : Host.Outcome State Fault Refusal :=
  .next (s.dispatch d (.phaseHint valid op))

/-- ADD (R138, Table 5.6). -/
def execAdd (d : Disp) (f : AluF) (s : State) : Host.Outcome State Fault Refusal :=
  .next (s.dispatch d (.alu .add f))

/-- SUB (R138, Table 5.6). -/
def execSub (d : Disp) (f : AluF) (s : State) : Host.Outcome State Fault Refusal :=
  .next (s.dispatch d (.alu .sub f))

/-- AND (R138, Table 5.6). -/
def execAnd (d : Disp) (f : AluF) (s : State) : Host.Outcome State Fault Refusal :=
  .next (s.dispatch d (.alu .and f))

/-- OR (R138, Table 5.6). -/
def execOr (d : Disp) (f : AluF) (s : State) : Host.Outcome State Fault Refusal :=
  .next (s.dispatch d (.alu .or f))

/-- XOR (R138, Table 5.6). -/
def execXor (d : Disp) (f : AluF) (s : State) : Host.Outcome State Fault Refusal :=
  .next (s.dispatch d (.alu .xor f))

/-- SHL (R138, Table 5.6). -/
def execShl (d : Disp) (f : AluF) (s : State) : Host.Outcome State Fault Refusal :=
  .next (s.dispatch d (.alu .shl f))

/-- SHR (R138, Table 5.6). -/
def execShr (d : Disp) (f : AluF) (s : State) : Host.Outcome State Fault Refusal :=
  .next (s.dispatch d (.alu .shr f))

/-- SRA (R138, Table 5.6). -/
def execSra (d : Disp) (f : AluF) (s : State) : Host.Outcome State Fault Refusal :=
  .next (s.dispatch d (.alu .sra f))

/-- MUL (R138, Table 5.6). -/
def execMul (d : Disp) (f : AluF) (s : State) : Host.Outcome State Fault Refusal :=
  .next (s.dispatch d (.alu .mul f))

/-- MIN (R138, Table 5.6). -/
def execMin (d : Disp) (f : AluF) (s : State) : Host.Outcome State Fault Refusal :=
  .next (s.dispatch d (.alu .min f))

/-- MAX (R138, Table 5.6). -/
def execMax (d : Disp) (f : AluF) (s : State) : Host.Outcome State Fault Refusal :=
  .next (s.dispatch d (.alu .max f))

/-- LI (R138, Table 5.6). -/
def execLi (d : Disp) (rd : BitVec 5) (imm32 : BitVec 32) (s : State) : Host.Outcome State Fault Refusal :=
  .next (s.dispatch d (.li rd imm32))

/-- LIH (R138, Table 5.6). -/
def execLih (d : Disp) (rd : BitVec 5) (imm32 : BitVec 32) (s : State) : Host.Outcome State Fault Refusal :=
  .next (s.dispatch d (.lih rd imm32))

/-- AADD (R138, Table 5.6). -/
def execAadd (d : Disp) (f : AluF) (s : State) : Host.Outcome State Fault Refusal :=
  .next (s.dispatch d (.aadd f))

/-- AMOV (R138, Table 5.6). -/
def execAmov (d : Disp) (rd rs1 : BitVec 5) (s : State) : Host.Outcome State Fault Refusal :=
  .next (s.dispatch d (.amov rd rs1))

/-- SMOVA (R138, Table 5.6). -/
def execSmova (d : Disp) (rd rs1 : BitVec 5) (s : State) : Host.Outcome State Fault Refusal :=
  .next (s.dispatch d (.smova rd rs1))

/-- LDS (R138, R139). -/
def execLds (d : Disp) (f : MemF) (s : State) : Host.Outcome State Fault Refusal :=
  .next (s.dispatch d (.lds f))

/-- STS (R138, R139). -/
def execSts (d : Disp) (f : MemF) (s : State) : Host.Outcome State Fault Refusal :=
  .next (s.dispatch d (.sts f))

/-- STATUS (R138, R139, Table 5.7). -/
def execStatus (d : Disp) (rd : BitVec 5) (clear : Bool) (src : BitVec 8) (s : State) : Host.Outcome State Fault Refusal :=
  .next (s.dispatch d (.status rd clear src))

/-- MATRIX (R140). -/
def execMatrix (d : Disp) (f : MatrixF) (s : State) : Host.Outcome State Fault Refusal :=
  .next (s.dispatch d (.matrix f))

/-- LATCH (R143). -/
def execLatch (d : Disp) (f : LatchF) (s : State) : Host.Outcome State Fault Refusal :=
  .next (s.dispatch d (.latch f))

/-- FEED (R143, R147). -/
def execFeed (d : Disp) (f : FeedF) (s : State) : Host.Outcome State Fault Refusal :=
  .next (s.dispatch d (.feed f))

/-- BANK_DRAIN (R143, R145). -/
def execBankDrain (d : Disp) (f : DrainF) (s : State) : Host.Outcome State Fault Refusal :=
  .next (s.dispatch d (.bankDrain f))

/-- BANK_FREE (R143, R145). -/
def execBankFree (d : Disp) (eng : EngNo) (bank : Fin 4) (s : State) : Host.Outcome State Fault Refusal :=
  .next (s.dispatch d (.bankFree eng bank))

/-- EWISE (R143, R147). -/
def execEwise (d : Disp) (f : EwiseF) (s : State) : Host.Outcome State Fault Refusal :=
  .next (s.dispatch d (.ewise f))

/-- VLD (R148, Table 5.11); the operation itself is done at its issue. -/
def execVld (d : Disp) (f : VecF) (s : State) : Host.Outcome State Fault Refusal :=
  .next (s.dispatch d (.vec .vld f))

/-- VST (R148, Table 5.11); the operation itself is done at its issue. -/
def execVst (d : Disp) (f : VecF) (s : State) : Host.Outcome State Fault Refusal :=
  .next (s.dispatch d (.vec .vst f))

/-- VFMA (R148, Table 5.11); the operation itself is done at its issue. -/
def execVfma (d : Disp) (f : VecF) (s : State) : Host.Outcome State Fault Refusal :=
  .next (s.dispatch d (.vec .vfma f))

/-- VADD (R148, Table 5.11); the operation itself is done at its issue. -/
def execVadd (d : Disp) (f : VecF) (s : State) : Host.Outcome State Fault Refusal :=
  .next (s.dispatch d (.vec .vadd f))

/-- VSUB (R148, Table 5.11); the operation itself is done at its issue. -/
def execVsub (d : Disp) (f : VecF) (s : State) : Host.Outcome State Fault Refusal :=
  .next (s.dispatch d (.vec .vsub f))

/-- VMUL (R148, Table 5.11); the operation itself is done at its issue. -/
def execVmul (d : Disp) (f : VecF) (s : State) : Host.Outcome State Fault Refusal :=
  .next (s.dispatch d (.vec .vmul f))

/-- VMIN (R148, Table 5.11); the operation itself is done at its issue. -/
def execVmin (d : Disp) (f : VecF) (s : State) : Host.Outcome State Fault Refusal :=
  .next (s.dispatch d (.vec .vmin f))

/-- VMAX (R148, Table 5.11); the operation itself is done at its issue. -/
def execVmax (d : Disp) (f : VecF) (s : State) : Host.Outcome State Fault Refusal :=
  .next (s.dispatch d (.vec .vmax f))

/-- VCMP (R148, Table 5.11); the operation itself is done at its issue. -/
def execVcmp (d : Disp) (f : VecF) (s : State) : Host.Outcome State Fault Refusal :=
  .next (s.dispatch d (.vec .vcmp f))

/-- VSEL (R148, Table 5.11); the operation itself is done at its issue. -/
def execVsel (d : Disp) (f : VecF) (s : State) : Host.Outcome State Fault Refusal :=
  .next (s.dispatch d (.vec .vsel f))

/-- VSFU (R148, Table 5.11); the operation itself is done at its issue. -/
def execVsfu (d : Disp) (f : VecF) (s : State) : Host.Outcome State Fault Refusal :=
  .next (s.dispatch d (.vec .vsfu f))

/-- VRED (R148, Table 5.11); the operation itself is done at its issue. -/
def execVred (d : Disp) (f : VecF) (s : State) : Host.Outcome State Fault Refusal :=
  .next (s.dispatch d (.vec .vred f))

/-- VBCAST (R148, Table 5.11); the operation itself is done at its issue. -/
def execVbcast (d : Disp) (f : VecF) (s : State) : Host.Outcome State Fault Refusal :=
  .next (s.dispatch d (.vec .vbcast f))

/-- VMOVS (R148, Table 5.11); the operation itself is done at its issue. -/
def execVmovs (d : Disp) (f : VecF) (s : State) : Host.Outcome State Fault Refusal :=
  .next (s.dispatch d (.vec .vmovs f))

/-- VWADD (R148, Table 5.11); the operation itself is done at its issue. -/
def execVwadd (d : Disp) (f : VecF) (s : State) : Host.Outcome State Fault Refusal :=
  .next (s.dispatch d (.vec .vwadd f))

/-- VWANCH (R148, Table 5.11); the operation itself is done at its issue. -/
def execVwanch (d : Disp) (f : VecF) (s : State) : Host.Outcome State Fault Refusal :=
  .next (s.dispatch d (.vec .vwanch f))

/-- VWCVT (R148, Table 5.11); the operation itself is done at its issue. -/
def execVwcvt (d : Disp) (f : VecF) (s : State) : Host.Outcome State Fault Refusal :=
  .next (s.dispatch d (.vec .vwcvt f))

/-- VXPOSE (R148, Table 5.11); the operation itself is done at its issue. -/
def execVxpose (d : Disp) (f : VecF) (s : State) : Host.Outcome State Fault Refusal :=
  .next (s.dispatch d (.vec .vxpose f))

/-- PUSH (R112, R149). -/
def execPush (d : Disp) (q : Fin 4) (areg : BitVec 4) (s : State) : Host.Outcome State Fault Refusal :=
  .next (s.dispatch d (.push q areg))

/-- SFREE (R149). -/
def execSfree (d : Disp) (entry : Fin 64) (s : State) : Host.Outcome State Fault Refusal :=
  .next (s.dispatch d (.sfree entry))

/-- SIGNAL (R149). -/
def execSignal (d : Disp) (tok : BitVec 6) (amount : BitVec 16) (s : State) : Host.Outcome State Fault Refusal :=
  .next (s.dispatch d (.signal tok amount))

/-- BELL (R149, R292). -/
def execBell (d : Disp) (f : BellF) (s : State) : Host.Outcome State Fault Refusal :=
  .next (s.dispatch d (.bell f))

/-- TALLY (R149, R150, R301). -/
def execTally (d : Disp) (areg : BitVec 4) (s : State) : Host.Outcome State Fault Refusal :=
  .next (s.dispatch d (.tally areg))

/-- PENDING_WRITE_ARRIVES (R128): the value of an LDS, STATUS or VMOVS reaches its register and the mark is
cleared. -/
def execPendingWriteArrives (site : SiteNo) (rd : BitVec 5) (s : State) :
    Host.Outcome State Fault Refusal :=
  let c := s.site site
  match c.pend.find? fun p => decide (p.rd = rd) with
  | some p =>
    match p.value with
    | some v => .next (s.setSite site { c.setS rd v with pend := c.pend.erase p })
    | none => .next s
  | none => .next s

/-- The program of a site has ended (R136). -/
def Site.programOver (c : Site) : Bool :=
  decide (c.seq = .halted) && c.queuesEmpty && c.enginesDone &&
  c.sill.all fun e => decide (e.2.st = .free) || decide (e.2.st = .released)

/-- PROGRAM_END (R136): every RELEASED entry is freed, the core leaves its LAUNCH, which completes with its
last core, and the sequencer waits for the next LAUNCH. -/
def execProgramEnd (site : SiteNo) (s : State) : Host.Outcome State Fault Refusal :=
  if (s.site site).programOver then
    let s1 := s.modSite site fun c => { c.freeReleased with seq := .idle }
    match (s.site site).launch with
    | some l => .next ((s1.leaveLaunch site).launchDone l.desc)
    | none => .next s1
  else .next s

/-- The watchdog limit of a LAUNCH in ticks (R407). -/
def watchdogTicks (w : BitVec 16) : Nat :=
  (if w = 0 then 50 else if w.toNat < 20 then 20 else w.toNat) * 1000000

/-- PROGRESS_TIMEOUT (R407): a core that has dispatched nothing for its limit stops dispatch and reports. -/
def execProgressTimeout (site : SiteNo) (t : Word64) (s : State) : Host.Outcome State Fault Refusal :=
  let s := s.at t
  let c := s.site site
  match c.launch with
  | some l =>
    if (c.seq = .running ∨ c.seq = .tally) ∧ l.lastDispatch + BitVec.ofNat 64 (watchdogTicks l.watchdog) ≤ s.tb then
      .next (s.hwFault site 0x0606
        (fieldAt (match c.bound with | some b => BitVec.ofNat 5 b.val | none => (0 : BitVec 5)) 0 |||
         fieldAt c.pc 5) (BitVec.ofNat 64 (watchdogTicks l.watchdog / 1000000)))
    else .next s
  | none => .next s

end Sys2Proof.Machine
end

