-- ==== Sys2Proof/Machine/Engine.lean ====
section
/-!
DEFINITION. Machine/Engine.lean: the matrix engines: tiles, contributions, the issue rule and its refusals
(R60 to R85), FEED and LATCH, banks and drains, EWISE, redirection and caps.
-/

namespace Sys2Proof.Machine

/-! ### Operand values (R31 to R36, R144, R163) -/

/-- Byte i of a plane. -/
def Plane.byte (p : Plane) (i : Nat) : Byte := tget (fun _ => 0) p.data i

/-- Byte i of a feed half. -/
def Half.byte (h : Half) (i : Nat) : Byte := tget (fun _ => 0) h.data i

/-- Rows of values a plane holds (R144). -/
def Plane.kRows (p : Plane) : Nat := if p.sparse then 128 else 256

/-- Bytes of a plane's values. -/
def Plane.valueBytes (p : Plane) : Nat := p.kRows * (wfmtOf p.wfmt p.wscl).row

/-- Bytes of a plane's scales. -/
def Plane.scaleBytes (p : Plane) : Nat := if p.wscl = 1 then 2048 else if p.wscl = 2 then 4096 else 0

/-- The scale of K index k for column n (R144): one per 32 with MX, one per 16 with KX. -/
def Plane.scaleAt (p : Plane) (k n : Nat) : Val :=
  if p.wscl = 1 then e8m0 (p.byte (p.valueBytes + 8 * n + k / 32)).toNat
  else if p.wscl = 2 then Fmt.e4m3.decode (p.byte (p.valueBytes + 16 * n + k / 16)).toNat
  else Val.one

/-- Stored element of row r, column n. -/
def Plane.elem (p : Plane) (r n : Nat) : Val :=
  let f := wfmtOf p.wfmt p.wscl
  f.decode (f.elemAt (fun j => p.byte (r * f.row + j)) n)

/-- The 4-bit metadata code of group g and column n (R75). -/
def Plane.metaCode (p : Plane) (g n : Nat) : Nat :=
  let b := (p.byte (p.valueBytes + p.scaleBytes + 128 * g + n / 2)).toNat
  if n % 2 = 0 then b % 16 else b / 16

/-- Every metadata code is valid: its first offset is less than its second (R76). -/
def Plane.metaValid (p : Plane) : Bool :=
  (List.range 64).all fun g => (List.range 256).all fun n =>
    decide (p.metaCode g n % 4 < p.metaCode g n / 4)

/-- The weight of stored row j and column n: its K index and its value with its block scale (R35, R36, R75). -/
def Plane.kept (p : Plane) (j n : Nat) : Nat × Val :=
  let k := if p.sparse then
      let c := p.metaCode (j / 2) n
      4 * (j / 2) + (if j % 2 = 0 then c % 4 else c / 4)
    else j
  (k, (p.elem j n).mul (p.scaleAt k n))

/-- The weights of column n by stored row. -/
def Plane.column (p : Plane) (n : Nat) : List (Nat × Val) := (List.range p.kRows).map (p.kept · n)

/-- The checksum column of a tile: u[k] of each K row (R164); in sparse mode the sums of compressed row j for
each K offset o, at 4 j + o (R167). -/
def Plane.formSums (p : Plane) : List (Int × Int) :=
  if p.sparse then
    (List.range 128).flatMap fun j => (List.range 4).map fun o =>
      (List.range 256).foldl (fun t n =>
        let w := p.kept j n
        if w.1 % 4 = o then dyAdd t (dyOf w.2) else t) (0, 0)
  else (List.range 256).map fun k => (List.range 256).foldl (fun t n => dyAdd t (dyOf (p.kept k n).2)) (0, 0)

/-- The sums of the checksum column with the K index whose activation each meets (R164, R167). -/
def Plane.checkColumn (p : Plane) : List (Nat × (Int × Int)) :=
  p.sums.zipIdx.map fun x => (if p.sparse then 4 * (x.2 / 8) + x.2 % 4 else x.2, x.1)

/-- The scales of a weight tile (R40). -/
def Plane.scales (p : Plane) : List Val :=
  let at_ := fun i => (p.byte (p.valueBytes + i)).toNat
  if p.wscl = 1 then (List.range 2048).map fun i => e8m0 (at_ i)
  else if p.wscl = 2 then (List.range 4096).map fun i => Fmt.e4m3.decode (at_ i)
  else []

/-- The scale of K index k in row m (R144). -/
def Half.scaleAt (h : Half) (m k : Nat) : Val :=
  if h.ascl = 1 then e8m0 (h.byte (h.valueBytes + 8 * m + k / 32)).toNat
  else if h.ascl = 2 then Fmt.e4m3.decode (h.byte (h.valueBytes + 16 * m + k / 16)).toNat
  else Val.one

/-- Activation (m, k) with its block scale (R35, R36). -/
def Half.act (h : Half) (m k : Nat) : Val :=
  let f := afmtOf h.afmt h.ascl
  (f.decode (f.elemAt (fun j => h.byte (m * f.row + j)) k)).mul (h.scaleAt m k)

/-- The scales of an instruction's m activation rows (R40). -/
def Half.scales (h : Half) (m : Nat) : List Val :=
  let at_ := fun i => (h.byte (h.valueBytes + i)).toNat
  if h.ascl = 1 then (List.range (8 * m)).map fun i => e8m0 (at_ i)
  else if h.ascl = 2 then (List.range (16 * m)).map fun i => Fmt.e4m3.decode (at_ i)
  else []

/-! ### Contributions and conversions (R42 to R51, R54) -/

/-- An instruction's own sum for word (m, n) (R42, R163). An infinite element meets a weight value that a zero
micro-scale has made zero, and their product is NaN. DEDUCED, log entry 92. -/
def contribWord (h : Half) (p : Plane) (a : BitVec 8) (m n : Nat) : AccWord :=
  let w := sumProducts (anchorExp a) ((p.column n).map fun kv => (h.act m kv.1).mul kv.2)
  { x := w.1, special := w.2.1, flush := satNat 16 w.2.2 }

/-- An instruction's contribution words, key row × 256 + column. -/
def contribTab (h : Half) (p : Plane) (a : BitVec 8) (m : Nat) : Tab AccWord :=
  (List.range (m * 256)).filterMap fun i =>
    let w := contribWord h p a (i / 256) (i % 256)
    if w = {} then none else some (i, w)

/-- The checker's predictions for an instruction of m rows: each checksum product is placed as in R42, in every
pairing and feed mode alike (R164, R165, R167). A value that is not finite counts as 0 (R166). -/
def predict (h : Half) (p : Plane) (a : BitVec 8) (m : Nat) : Pred :=
  let r := (List.range 256).map fun k =>
    (List.range m).foldl (fun t i => dyAdd t (dyOf (h.act i k))) ((0, 0) : Int × Int)
  { rows := (List.range m).map fun i =>
      placeSum (anchorExp a) (p.checkColumn.map fun u => dyMul (dyOf (h.act i u.1)) u.2),
    cols := (List.range 256).map fun n =>
      placeSum (anchorExp a) ((p.column n).map fun w => dyMul (r.getD w.1 (0, 0)) (dyOf w.2)) }

/-- A word takes a contribution (R43, R48). -/
def AccWord.plus (a b : AccWord) : AccWord :=
  { x := a.x + b.x, special := combineSpecial a.special b.special,
    flush := satAdd a.flush b.flush.toNat }

/-- A bank's words take a contribution of m rows. -/
def addWords (a b : Tab AccWord) : Tab AccWord :=
  b.foldl (fun t e => tset (fun _ => {}) t e.1 ((accAt t e.1).plus e.2)) a

/-- A bank's word corrected in place: the faulty contribution is subtracted and the replay's added, and so is
the flush count unless it has saturated (R74). -/
def AccWord.correct (b bad good : AccWord) : AccWord :=
  { x := b.x - bad.x + good.x, special := combineSpecial b.special good.special,
    flush := if b.flush = 65535 then b.flush
      else satNat 16 (b.flush.toNat + good.flush.toNat - bad.flush.toNat) }

/-- A bank's words of m rows corrected in place (R74). -/
def correctWords (m : Nat) (b bad good : Tab AccWord) : Tab AccWord :=
  (List.range (m * 256)).foldl
    (fun t i => tset (fun _ => {}) t i ((accAt t i).correct (accAt bad i) (accAt good i))) b

/-- The output format of a DEST code 1 to 5 (Table 5.8). -/
def destFmt (dest : BitVec 3) : Fmt :=
  match dest.toNat with
  | 1 => .fp32
  | 2 => .bf16
  | 3 => .e4m3
  | 4 => .e5m2
  | _ => .int8

/-- Row bytes of a DEST (R73). -/
def rowBytes (dest : BitVec 3) : Nat := if dest = 6 then 4224 else (destFmt dest).row

/-- What a drain delivers: bytes, whether a conversion overflowed, whether one gave a NaN, the largest F. -/
structure Drained where
  bytes : List Byte
  sat : Bool
  nan : Bool
  maxF : BitVec 16
deriving DecidableEq, Repr

/-- The larger of two counts. -/
def maxF (a b : BitVec 16) : BitVec 16 := if a < b then b else a

/-- 16 words of a row as a WPS block (R54). -/
def wpsBlock (ws : List AccWord) (a : BitVec 8) : Wps :=
  { xs := ws.map (·.x),
    tag := mkTag (satNat 16 (ws.map (·.flush.toNat)).sum) (ws.map (·.special)) a }

/-- One row of words converted for the sill (R49 to R51, R54, R73). A drain to WPS rounds nothing, and a word in
the NaN state is no NaN that it produces. DEDUCED, log entry 23. -/
def drainRow (t : Tab AccWord) (row : Nat) (a : BitVec 8) (dest : BitVec 3) (trunc nonsat : Bool)
    (c1 c2 : BitVec 32) : Drained :=
  let ws := (List.range 256).map fun n => accAt t (row * 256 + n)
  if dest = 6 then
    let bs := (List.range 16).map fun j => wpsBlock ((ws.drop (16 * j)).take 16) a
    { bytes := bs.flatMap Wps.bytes, sat := false, nan := false,
      maxF := (bs.map fun b => tagFlush b.tag).foldl maxF 0 }
  else
    let f := destFmt dest
    let cs := ws.map fun w => f.convWord (!trunc) nonsat w.x w.special a (fp c1) (fp c2)
    { bytes := f.pack (cs.map (·.code)), sat := cs.any (·.sat), nan := cs.any (·.nan),
      maxF := (ws.map (·.flush)).foldl maxF 0 }

/-- Rows 0 to m − 1 converted. -/
def drainRows (t : Tab AccWord) (m : Nat) (a : BitVec 8) (dest : BitVec 3) (trunc nonsat : Bool)
    (c1 c2 : BitVec 32) : Drained :=
  let rs := (List.range m).map fun r => drainRow t r a dest trunc nonsat c1 c2
  { bytes := rs.flatMap (·.bytes), sat := rs.any (·.sat), nan := rs.any (·.nan),
    maxF := (rs.map (·.maxF)).foldl maxF 0 }

/-- A table of bytes, entries of 0 left out. -/
def bytesTab (bs : List Byte) : Tab Byte :=
  bs.zipIdx.filterMap fun p => if p.1 = 0 then none else some (p.2, p.1)

/-! ### Feed length (R60, R79) -/

/-- Rows per feed slot, and slots per row (Table 3.2). -/
def slotShape (pair : BitVec 4) (sparse : Bool) : Nat × Nat :=
  match pair.toNat with
  | 0 => (if sparse then 4 else 2, 1)
  | 1 => (if sparse then 4 else 2, 1)
  | 11 => (1, 4)
  | n => if 6 ≤ n ∧ n ≤ 9 ∧ sparse = true then (2, 1) else (1, 1)

/-- Feed slots of an instruction of m rows. -/
def feedSlots (pair : BitVec 4) (sparse : Bool) (m : Nat) : Nat :=
  let s := slotShape pair sparse
  (m + s.1 - 1) / s.1 * s.2

/-- Allowed cycles before cycle c under cap q (R79). -/
def allowedBefore (q c : Nat) : Nat := c * q / 16

/-- Feed length L of n slots issued in cycle c under cap q (R60, R79). -/
def feedLen (q c n : Nat) : Nat :=
  if q = 0 then 0 else ((allowedBefore q c + n) * 16 + q - 1) / q - c

/-- Feed slots an instruction in the array has taken before cycle t (R79, R80). -/
def Flight.slotsBefore (f : Flight) (q t : Nat) : Nat :=
  min f.slots (f.taken + (allowedBefore q t - allowedBefore q f.capFrom))

/-- A new cap applies to an instruction in the array from cycle t on: the slots it has taken stay, its remaining
ones follow the new cap, and L with them (R80). -/
def Flight.recap (f : Flight) (q t : Nat) (new : Nat) : Flight :=
  let k := f.slotsBefore q t
  if f.slots ≤ k ∨ t < f.capFrom then f
  else { f with taken := k, capFrom := t,
                len := t - f.issue.toNat + feedLen new t (f.slots - k) }

/-! ### Issue rules (R30, R69, R141) -/

/-- Table 2.1: the combination of PAIR, WSCL, ASCL and SPARSE is allowed (R30, R141, Table 3.2). -/
def pairAllowed (f : MatrixF) : Bool :=
  let w := f.wscl
  let a := f.ascl
  match f.pair.toNat with
  | 0 => decide (w = 1) || decide (w = 2)
  | 1 => decide (w = 1) || decide (w = 2)
  | 2 => decide (w = 1) && decide (a ≠ 2) && !f.sparse
  | 3 => decide (w = 1) && decide (a ≠ 2) && !f.sparse
  | 4 => decide (w = 1) && decide (a ≠ 2) && !f.sparse
  | 5 => decide (w = 1) && decide (a ≠ 2) && !f.sparse
  | 10 => decide (w = a) && decide (w ≠ 2) && !f.sparse
  | 11 => decide (w = 0) && decide (a = 0) && !f.sparse
  | n => decide (6 ≤ n) && decide (n ≤ 9)

/-- WFMT and AFMT of a PAIR code (Tables 5.9, 5.10). -/
def pairFmts (pair : BitVec 4) : BitVec 3 × BitVec 2 :=
  match pair.toNat with
  | 0 => (0, 0)
  | 1 => (0, 1)
  | 2 => (1, 0)
  | 3 => (1, 1)
  | 4 => (2, 0)
  | 5 => (2, 1)
  | 6 => (3, 0)
  | 7 => (3, 1)
  | 8 => (4, 0)
  | 9 => (4, 1)
  | 10 => (5, 2)
  | _ => (6, 3)

/-- Where an operation at the head of a queue stands: it waits, is refused with an exception, or issues. -/
inductive Try where
  | wait
  | refuse (code : BitVec 6)
  | go
deriving DecidableEq, Repr

/-- The first refusal of a list of tests; a test that cannot be made yet is none. -/
def firstRefusal : List (Option (BitVec 6)) → Option (BitVec 6)
  | [] => none
  | some c :: _ => some c
  | none :: t => firstRefusal t

/-- A condition that refuses with an exception when it is false. -/
def must (ok : Bool) (code : BitVec 6) : Option (BitVec 6) := if ok then none else some code

/-- A tile needs both halves (R67, R144). -/
def FeedOp.needsBoth (o : FeedOp) : Bool :=
  !o.f.raw &&
  (decide (2097152 < o.m * (afmtOf o.f.afmt o.f.ascl).row) ||
   decide (131072 < o.m * (if o.f.ascl = 1 then 8 else if o.f.ascl = 2 then 32 else 0)))

/-- FEEDs into half h dispatched before number k are done (R129). -/
def Engine.fedBefore (g : Engine) (h : Bool) (k : Nat) : Bool :=
  let hits (f : FeedOp) := decide (f.seq < k) &&
    (decide (f.f.fb = h) || (g.half false).both || f.needsBoth)
  !g.feedQ.any hits && !g.feeding.any hits

/-- LATCHes dispatched before number k are done (R129). -/
def Engine.latchedBefore (g : Engine) (k : Nat) : Bool :=
  !g.latchQ.any (fun l => decide (l.seq < k)) && !g.latchingOp.any fun l => decide (l.seq < k)

/-- The tile an operation reads is resident. -/
def Engine.tileReady (g : Engine) (fb : Bool) (k : Nat) : Bool :=
  (g.half fb).resident && !(g.half fb).loading && g.fedBefore fb k

/-- Index of the plane an instruction uses (R66). -/
def Engine.planeOf (g : Engine) (hold : Bool) : Bool := if hold then g.active else !g.active

/-- The plane an instruction uses is settled: for SWAP the shadow plane is latched (R66, R129, R177). -/
def Site.planeReady (c : Site) (e : EngNo) (f : MatrixF) (k : Nat) : Bool :=
  let g := c.eng e
  if f.hold then true
  else g.shadow.latched && !g.shadow.latching && g.latchedBefore k && !c.planeLent e && g.restoring.isNone

/-- The activation tile rules of R141. -/
def tileRule (h : Half) (fb : Bool) (f : MatrixF) (m : Nat) : Bool :=
  !h.raw && decide (m ≤ h.rows) && decide (h.afmt = (pairFmts f.pair).2) && decide (h.ascl = f.ascl) &&
  (!h.both || !fb)

/-- The weight plane rules of R141. -/
def planeRule (p : Plane) (f : MatrixF) : Bool :=
  decide (p.wfmt = (pairFmts f.pair).1) && decide (p.wscl = f.wscl) && decide (p.sparse = f.sparse)

/-- The top exponent Etop of an instruction (R40, R41). Each KX operand adds 1 to MSBmax (R39). -/
def eTop (p : Plane) (h : Half) (f : MatrixF) (m : Nat) : Int :=
  sideMax p.scales + sideMax (h.scales m) + pairMsb f.pair (decide (f.wscl = 1)) +
    (if f.wscl = 2 then 1 else 0) + (if f.ascl = 2 then 1 else 0)

/-- The anchor code an instruction uses (R40). -/
def anchorCode (p : Plane) (h : Half) (b : Bank) (f : MatrixF) (op : ArrayOp) : BitVec 8 :=
  if f.accumulate then b.anchor
  else
    match f.anch.toNat with
    | 0 => autoAnchor (eTop p h f op.m + (f.anchArg.extractLsb' 0 4).toNat)
    | 1 => op.anchorReg
    | _ => b.anchor

/-- The refusals of an instruction alone (R69). -/
def aloneRefusal (g : Engine) (f : MatrixF) (m : Nat) : Option (BitVec 6) :=
  let rows := (slotShape f.pair f.sparse).1
  firstRefusal
    [must (pairAllowed f) 0x01,
     must (decide (1 ≤ m) && decide (m ≤ 8192)) 0x02,
     must (decide (m ≤ 512) || (decide (f.dest ≠ 0) && !f.accumulate)) 0x02,
     must (decide (f.dest = 0) || decide (rows * rowBytes f.dest ≤ 4224)) 0x02,
     must (decide (f.dest = 0) || decide (m * rowBytes f.dest ≤ 4194304)) 0x03,
     must (!f.hold || (g.plane g.active).latched) 0x06]

/-- The bank a MATRIX names does not fill or drain, and is not POISONED. -/
def Bank.settled (b : Bank) : Bool := decide (b.st = .free) || decide (b.st = .held)

/-- What a MATRIX needs to issue beyond its tile, its plane and sill space: a settled bank, an empty array, the drain
port, room among the contributions that await a verdict, and the verdicts of a bank it drains (R69, R146, R175,
R499). -/
def Site.arrayFree (c : Site) (e : EngNo) (f : MatrixF) : Bool :=
  let g := c.eng e
  let keeps := decide (f.dest = 0) || f.accumulate
  (g.bank f.bank).settled && g.inArray.isNone && (decide (f.dest = 0) || g.draining.isNone) &&
  (!keeps || decide ((g.waiting.filter (·.usesCb)).length +
    (match c.vote with | some v => if v.orig = e ∧ v.flight.usesCb = true then 1 else 0 | none => 0) < 2)) &&
  (!(f.accumulate && decide (f.dest ≠ 0)) || decide (c.unverified e f.bank = 0))

/-- The refusals and waits of a MATRIX at the head of its queue, but for sill space (R69, R141, R175,
R146, R499). -/
def Site.tryMatrix (c : Site) (e : EngNo) (op : ArrayOp) (f : MatrixF) : Try :=
  let g := c.eng e
  let h := g.tile f.fb
  let p := g.plane (g.planeOf f.hold)
  let b := g.bank f.bank
  let tileIn := g.tileReady f.fb op.seq
  let planeIn := c.planeReady e f op.seq
  let a := anchorCode p h b f op
  let refusal := firstRefusal
    [aloneRefusal g f op.m,
     if tileIn then must (tileRule h f.fb f op.m) 0x02 else none,
     if planeIn then must (planeRule p f) 0x02 else none,
     if planeIn then must (!p.sparse || p.metaOk) 0x07 else none,
     if b.st = .free then must (!f.accumulate && decide (f.anch ≠ 2)) 0x06 else none,
     if tileIn && planeIn && b.settled then must (!anchorExceeds (eTop p h f op.m) a) 0x04 else none,
     if tileIn && planeIn && b.settled then
       must (!(f.accumulate && decide (f.anch = 1)) || decide (op.anchorReg = b.anchor)) 0x05
     else none]
  if b.st = .poisoned then .wait
  else
  match refusal with
  | some code => .refuse code
  | none =>
    if tileIn && planeIn && !p.latching && c.arrayFree e f then .go
    else .wait

/-- Where A, B and D of an EWISE start, and the end of its operands (R147). DEDUCED, log entry 14. -/
def ewiseLayout (f : EwiseF) (n : Nat) : Nat × Nat × Nat :=
  let w := ((wfmtOf (pairFmts f.pair).1 0).width / 8)
  let up (x : Nat) := (x + 63) / 64 * 64
  let b := up (n * w)
  let d := up (b + n * w)
  (b, d, if f.add then d + 4 * n else b + n * w)

/-- An EWISE at the head of its queue, but for sill space (R69, R77, R146, R147). A half whose tile was not fed
RAW is refused as an operand past the tile is. DEDUCED, log entry 93. -/
def Site.tryEwise (c : Site) (e : EngNo) (op : ArrayOp) (f : EwiseF) : Try :=
  let g := c.eng e
  let h := g.tile f.fb
  let tileIn := g.tileReady f.fb op.seq
  if tileIn && !(h.raw && decide ((ewiseLayout f op.m).2.2 ≤ h.bytes)) then .refuse 0x02
  else if tileIn && g.inArray.isNone && g.draining.isNone then .go
  else .wait

/-- The instruction in the array writes the sill. -/
def Flight.toSill (f : Flight) : Bool :=
  match f.op.kind with
  | .matrix m => decide (m.dest ≠ 0)
  | .ewise _ => true
  | _ => false

/-- A BANK_DRAIN at the head of its queue, but for sill space (R73, R145, R146, R174). -/
def Site.tryDrain (c : Site) (e : EngNo) (f : DrainF) : Try :=
  let g := c.eng e
  match (g.bank f.bank).st with
  | .free => .refuse 0x06
  | .held =>
    if c.unverified e f.bank = 0 ∧ g.draining.isNone = true ∧ g.inArray.any Flight.toSill = false then .go
    else .wait
  | _ => .wait

/-- A BANK_FREE at the head of its queue (Table 3.5). -/
def Site.tryFree (c : Site) (e : EngNo) (b : Fin 4) : Try :=
  match ((c.eng e).bank b).st with
  | .free => .refuse 0x06
  | .held => .go
  | _ => .wait

/-- The engine's own operations wait: it is retired, its queue is halted, or a replay's pass stands at the
head of its queue (R82, R157, R178). -/
def Site.blocked (c : Site) (e : EngNo) : Bool :=
  (c.eng e).retired || (c.eng e).arrayHalted || c.quarantined ||
  (match c.vote with
   | some v => decide (v.replay = e) && decide (v.stage ≠ .applied)
   | none => false)

/-- The operation at the head of engine e's array queue, but for sill space, with the sill entry and bytes it
would reserve. -/
def Site.tryHead (c : Site) (e : EngNo) : Try × Option (Fin 64 × Nat) :=
  if c.blocked e then (.wait, none)
  else
    match (c.eng e).arrayQ with
    | [] => (.wait, none)
    | op :: _ =>
      match op.kind with
      | .matrix f =>
        (c.tryMatrix e op f, if f.dest = 0 then none else some (f.sill, op.m * rowBytes f.dest))
      | .ewise f => (c.tryEwise e op f, some (f.sill, (destFmt f.dest).bytes op.m))
      | .drain f => (c.tryDrain e f, some (f.sill, op.m * rowBytes f.dest))
      | .free b => (c.tryFree e b, none)

/-- A MATRIX at the head of a queue, with its sill entry and bytes, waits at most for a FEED or a LATCH: neither
refused nor held up by anything else (R368). -/
def Site.waitsOnTiles (c : Site) (e : EngNo) (op : ArrayOp) (f : MatrixF) : Bool :=
  !c.blocked e && c.arrayFree e f && (f.hold || (!c.planeLent e && (c.eng e).restoring.isNone)) &&
  (match c.tryMatrix e op f with | .refuse _ => false | _ => true) &&
  (decide (f.dest = 0) ||
    (decide ((c.entry f.sill.val).st = .free) && decide (sillUnits (op.m * rowBytes f.dest) ≤ c.sillFree)))

/-- The entries and units that engines before e in the grant order take when they wait only for sill space and
fit in what remains (R70). -/
def Site.takenBefore (c : Site) (e : EngNo) : List EngNo → List (Fin 64) × Nat → List (Fin 64) × Nat
  | [], used => used
  | x :: xs, used =>
    if x = e then used
    else
      match c.tryHead x with
      | (.go, some (i, n)) =>
        let u := sillUnits n
        if (c.entry i.val).st = .free ∧ used.1.contains i = false ∧ used.2 + u ≤ c.sillFree then
          c.takenBefore e xs (i :: used.1, used.2 + u)
        else c.takenBefore e xs used
      | _ => c.takenBefore e xs used

/-- The sill grants engine e its reservation (R70, R102). -/
def Site.sillGrant (c : Site) (e : EngNo) : Option (Fin 64 × Nat) → Bool
  | none => true
  | some (i, n) =>
    let used := c.takenBefore e (enginesAfter c.sillLast ++ [c.sillLast]) ([], 0)
    decide ((c.entry i.val).st = .free) && !used.1.contains i && decide (sillUnits n + used.2 ≤ c.sillFree)

/-! ### Refusal at the head of a queue (R157) -/

/-- ANCHOR_FAULT is set by an anchor refusal (Table 2.8). -/
def anchorFlag (code : BitVec 6) (w : Word32) : Word32 :=
  if code = 0x04 ∨ code = 0x05 then setBit w 28 true else w

/-- The operation at the head of an array queue is refused: the queue is halted, its later entries are
discarded, ANCHOR_FAULT is set in the engine the syllable names (R58, R157). -/
def State.refuseArray (s : State) (n : SiteNo) (e : EngNo) (op : ArrayOp) (code : BitVec 6) : State :=
  let s := s.modSite n fun c =>
    (c.modEng e fun g => { g with arrayQ := [], arrayHalted := true }).modEng op.named fun g =>
      { g with flushReg := anchorFlag code g.flushReg }
  s.raise n code op.slot op.bundle (BitVec.ofNat 32 op.named.val)

/-- The FEED at the head of a feed queue is refused (R147, R157). -/
def State.refuseFeed (s : State) (n : SiteNo) (e : EngNo) (op : FeedOp) (code : BitVec 6) : State :=
  let s := s.modSite n fun c => c.modEng e fun g => { g with feedQ := [], feedHalted := true }
  s.raise n code op.slot op.bundle (BitVec.ofNat 32 op.f.eng.val)

/-! ### Issue -/

/-- The halves an operation reads take or drop a holder (R68). -/
def Engine.holdHalf (g : Engine) (fb : Bool) (f : Nat → Nat) : Engine :=
  let one (g : Engine) (h : Bool) := g.setHalf h { g.half h with holders := f (g.half h).holders }
  if (g.half false).both then one (one g false) true else one g fb

/-- A plane takes or drops a holder (R68). -/
def Engine.holdPlane (g : Engine) (p : Bool) (f : Nat → Nat) : Engine :=
  g.setPlane p { g.plane p with holders := f (g.plane p).holders }

/-- The pending contributions to a bank that is discarded are cancelled (R180). -/
def Site.cancelBank (c : Site) (e : EngNo) (b : Fin 4) : Site :=
  let cut (f : Flight) : Flight := if f.bankOf = some b then { f with cancelled := true } else f
  let c := c.modEng e fun g => { g with waiting := g.waiting.map cut }
  match c.vote with
  | some v => if v.orig = e then { c with vote := some { v with flight := cut v.flight } } else c
  | none => c

/-- The token a syllable names. -/
def tokOf (en : Bool) (t : BitVec 6) : Option (BitVec 6) := if en then some t else none

/-- SWAP: the shadow plane becomes active; the old active plane becomes a shadow plane that is not latched
(R65, R66). -/
def Engine.swap (g : Engine) : Engine :=
  { g.setPlane g.active { g.plane g.active with latched := false } with active := !g.active }

/-- The operation leaves the head of its queue for the array. -/
def Engine.enter (g : Engine) (f : Flight) : Engine :=
  { g with arrayQ := g.arrayQ.drop 1, inArray := some f, issued := g.issued + 1 }

/-- The per-tensor scales that a MATRIX's drain applies: 1.0 for an operand that is not KX (R37, R140). -/
def matrixC1 (f : MatrixF) (op : ArrayOp) : BitVec 32 := if f.wscl = 2 then op.c1 else 0x3F800000

/-- The activations' per-tensor scale (R37, R140). -/
def matrixC2 (f : MatrixF) (op : ArrayOp) : BitVec 32 := if f.ascl = 2 then op.c2 else 0x3F800000

/-- What the drain of a MATRIX delivers to the sill from words of its bank (R58, R73). -/
def Flight.drained (f : Flight) (m : MatrixF) (words : Tab AccWord) : Flight :=
  if m.dest = 0 then f
  else
    let d := drainRows words f.op.m f.anchor m.dest m.rnd m.nonsat (matrixC1 m f.op) (matrixC2 m f.op)
    { f with rows := bytesTab d.bytes, sat := d.sat, nanOut := d.nan, maxF := d.maxF }

/-- What a MATRIX computes and carries through the array (R42, R60, R69). -/
def Site.matrixFlight (c : Site) (e : EngNo) (op : ArrayOp) (f : MatrixF) : Flight :=
  let g := c.eng e
  let h := g.tile f.fb
  let pl := g.planeOf f.hold
  let p := g.plane pl
  let b := g.bank f.bank
  let a := anchorCode p h b f op
  let n := feedSlots f.pair f.sparse op.m
  { op := op, issue := c.cycle, len := feedLen g.cap.toNat c.cycle.toNat n,
    cap := g.cap, slots := n, taken := 0, capFrom := c.cycle.toNat, anchor := a, plane := pl,
    contrib := contribTab h p a op.m, pred := predict h p a op.m, rows := [], sat := false,
    nanOut := false, maxF := 0, usesCb := decide (f.dest = 0) || f.accumulate, cancelled := false }

/-- A MATRIX issues: every reservation in one cycle (R66, R68, R70, Table 3.5). -/
def Site.issueMatrix (c : Site) (e : EngNo) (op : ArrayOp) (f : MatrixF) : Site :=
  let fl := c.matrixFlight e op f
  let c := if f.accumulate then c else c.cancelBank e f.bank
  let c := if f.dest = 0 then c
    else { c.sillOpen f.sill (op.m * rowBytes f.dest) (tokOf f.tokEn f.tok) with sillLast := e }
  c.modEng e fun g =>
    let g := g.enter fl
    let g := if f.hold then g else g.swap
    let g := g.holdPlane fl.plane (· + 1)
    let g := g.holdHalf f.fb (· + 1)
    let b := g.bank f.bank
    g.setBank f.bank { st := .filling, anchor := fl.anchor, words := if f.accumulate then b.words else [] }

/-- One element of an EWISE: the exact product, plus the addend, rounded once (R77, R147). -/
def ewiseElem (h : Half) (f : EwiseF) (n i : Nat) : Conv :=
  let fa := wfmtOf (pairFmts f.pair).1 0
  let fb := afmtOf (pairFmts f.pair).2 0
  let lay := ewiseLayout f n
  let a := fa.decode (fa.elemAt h.byte i)
  let b := fb.decode (fb.elemAt (fun j => h.byte (lay.1 + j)) i)
  let d := Fmt.fp32.decode (Fmt.fp32.elemAt (fun j => h.byte (lay.2.1 + j)) i)
  let v := if f.add then (a.mul b).add d else a.mul b
  (destFmt f.dest).conv (!f.rnd) f.nonsat v

/-- The bytes of an EWISE's results, with some elements as a faulty diagonal PE gave them. -/
def ewiseRows (h : Half) (f : EwiseF) (n : Nat) (misses : List EwiseMiss) : Tab Byte :=
  bytesTab ((destFmt f.dest).pack ((List.range n).map fun i =>
    match misses.find? fun x => decide (x.index.toNat = i) with
    | some x => x.v1.toNat
    | none => (ewiseElem h f n i).code))

/-- What an EWISE computes (R77). -/
def Site.ewiseFlight (c : Site) (e : EngNo) (op : ArrayOp) (f : EwiseF) : Flight :=
  let g := c.eng e
  let h := g.tile f.fb
  let rs := (List.range op.m).map (ewiseElem h f op.m)
  let n := (op.m + 7) / 8
  { op := op, issue := c.cycle, len := feedLen g.cap.toNat c.cycle.toNat n, cap := g.cap,
    slots := n, taken := 0, capFrom := c.cycle.toNat,
    anchor := 0, plane := false, contrib := [], pred := { rows := [], cols := [] },
    rows := ewiseRows h f op.m [], sat := rs.any (·.sat),
    nanOut := rs.any (·.nan), maxF := 0, usesCb := false, cancelled := false }

/-- An EWISE issues (R69, R77). -/
def Site.issueEwise (c : Site) (e : EngNo) (op : ArrayOp) (f : EwiseF) : Site :=
  let fl := c.ewiseFlight e op f
  let c := { c.sillOpen f.sill ((destFmt f.dest).bytes op.m) (tokOf f.tokEn f.tok) with sillLast := e }
  c.modEng e fun g => (g.enter fl).holdHalf f.fb (· + 1)

/-- MATRIX_ISSUE (R69): the MATRIX at the head of engine eng's array queue waits, is refused, or issues. -/
def execMatrixIssue (site : SiteNo) (eng : EngNo) (s : State) : Host.Outcome State Fault Refusal :=
  if s.clocked site = false then .next s
  else
    let c := s.site site
    match (c.eng eng).arrayQ with
    | op :: _ =>
      match op.kind with
      | .matrix f =>
        let t := c.tryHead eng
        match t.1 with
        | .refuse code => .next (s.refuseArray site eng op code)
        | .go => if c.sillGrant eng t.2 then .next (s.setSite site (c.issueMatrix eng op f)) else .next s
        | .wait => .next s
      | _ => .next s
    | [] => .next s

/-- EWISE_ISSUE (R77). -/
def execEwiseIssue (site : SiteNo) (eng : EngNo) (s : State) : Host.Outcome State Fault Refusal :=
  if s.clocked site = false then .next s
  else
    let c := s.site site
    match (c.eng eng).arrayQ with
    | op :: _ =>
      match op.kind with
      | .ewise f =>
        let t := c.tryHead eng
        match t.1 with
        | .refuse code => .next (s.refuseArray site eng op code)
        | .go => if c.sillGrant eng t.2 then .next (s.setSite site (c.issueEwise eng op f)) else .next s
        | .wait => .next s
      | _ => .next s
    | [] => .next s

/-! ### Bank drains and frees -/

/-- A bank becomes POISONED (Table 3.5). -/
def Site.poisonBank (c : Site) (e : EngNo) (b : Fin 4) : Site :=
  c.modEng e fun g => g.setBank b { g.bank b with st := .poisoned }

/-- A sill entry becomes POISONED (Table 4.5). -/
def Site.poisonEntry (c : Site) (i : Nat) : Site := c.setEntry i { c.entry i with st := .poisoned }

/-- BANK_DRAIN_ISSUE (R73, R174). -/
def execBankDrainIssue (site : SiteNo) (eng : EngNo) (s : State) : Host.Outcome State Fault Refusal :=
  if s.clocked site = false then .next s
  else
    let c := s.site site
    match (c.eng eng).arrayQ with
    | op :: _ =>
      match op.kind with
      | .drain f =>
        let t := c.tryHead eng
        match t.1 with
        | .refuse code => .next (s.refuseArray site eng op code)
        | .go =>
          if c.sillGrant eng t.2 then
            let c := c.sillOpen f.sill (op.m * rowBytes f.dest) (tokOf f.tokEn f.tok)
            let c := { c.setEntry f.sill.val { c.entry f.sill.val with waits := 0 } with sillLast := eng }
            .next (s.setSite site (c.modEng eng fun g =>
              { g.setBank f.bank { g.bank f.bank with st := .draining } with
                arrayQ := g.arrayQ.drop 1, draining := some op }))
          else .next s
        | .wait => .next s
      | _ => .next s
    | [] => .next s

/-- BANK_DRAIN_DONE (R58, R73, Table 3.5): the last row enters the sill, the bank becomes FREE and the entry
CLOSED; a bank residue that fails poisons the bank (Table 6.1). -/
def execBankDrainDone (site : SiteNo) (eng : EngNo) (residueOk : Bool) (badRow : BitVec 9) (s : State) :
    Host.Outcome State Fault Refusal :=
  if s.clocked site = false then .next s
  else
    let c := s.site site
    match (c.eng eng).draining with
    | some op =>
      match op.kind with
      | .drain f =>
        if residueOk then
          let b := (c.eng eng).bank f.bank
          let d := drainRows b.words op.m b.anchor f.dest f.rnd f.nonsat op.c1 op.c2
          let c := c.modEng eng fun g => { g.setBank f.bank {} with draining := none }
          let c := c.modEng op.named fun g => { g with flushReg := flushTake g.flushReg d.sat d.nan d.maxF }
          let c := c.setEntry f.sill.val { c.entry f.sill.val with st := .closed, data := bytesTab d.bytes }
          .next (s.setSite site (c.sillRelease f.sill.val))
        else
          let c := (c.modEng eng fun g => { g with draining := none }).poisonBank eng f.bank
          .next ((s.setSite site (c.poisonEntry f.sill.val)).engReport site eng 0x0005
            (BitVec.ofNat 32 f.bank.val ||| fieldAt badRow 2) 0)
      | _ => .next s
    | none => .next s

/-- BANK_FREE_ISSUE (Table 3.5): a HELD bank is discarded; a FREE one is refused; else it waits. -/
def execBankFreeIssue (site : SiteNo) (eng : EngNo) (s : State) : Host.Outcome State Fault Refusal :=
  if s.clocked site = false then .next s
  else
    let c := s.site site
    match (c.eng eng).arrayQ with
    | op :: _ =>
      match op.kind with
      | .free b =>
        match (c.tryHead eng).1 with
        | .refuse code => .next (s.refuseArray site eng op code)
        | .go =>
          .next (s.setSite site ((c.cancelBank eng b).modEng eng fun g =>
            { g.setBank b {} with arrayQ := g.arrayQ.drop 1 }))
        | .wait => .next s
      | _ => .next s
    | [] => .next s

/-! ### FEED and LATCH -/

/-- A FEED that R147 refuses. -/
def FeedOp.refused (o : FeedOp) : Bool :=
  if o.f.raw then decide (o.m = 0) || decide (2097152 < 64 * o.m)
  else decide (o.m = 0) || decide (8192 < o.m) || (o.needsBoth && o.f.fb)

/-- An operation of the array queue dispatched before number k reads half h. -/
def Engine.readerBefore (g : Engine) (h : Bool) (k : Nat) : Bool :=
  let reads (fb : Bool) := decide (fb = h) || (g.half false).both
  g.arrayQ.any fun o =>
    decide (o.seq < k) &&
    match o.kind with
    | .matrix f => reads f.fb
    | .ewise f => reads f.fb
    | _ => false

/-- A half may be overwritten by a FEED of number k (R68, R129). -/
def Engine.halfOpen (g : Engine) (h : Bool) (k : Nat) : Bool :=
  decide ((g.half h).holders = 0) && !g.readerBefore h k

/-- FEED_START (R67, R129, R147). -/
def execFeedStart (site : SiteNo) (eng : EngNo) (s : State) : Host.Outcome State Fault Refusal :=
  if s.clocked site = false then .next s
  else
    let c := s.site site
    let g := c.eng eng
    match g.feedQ with
    | [] => .next s
    | o :: rest =>
      if g.retired || g.feedHalted || g.feeding.isSome || c.quarantined then .next s
      else if o.refused then .next (s.refuseFeed site eng o 0x02)
      else
        let two := o.needsBoth || (g.half false).both
        let free := if two then g.halfOpen false o.seq && g.halfOpen true o.seq else g.halfOpen o.f.fb o.seq
        if free = false then .next s
        else
          let off (h : Half) : Half := { h with resident := false, loading := true, both := false }
          let gone (h : Half) : Half := { h with resident := false, both := false }
          let g := if two then (g.setHalf false (gone (g.half false))).setHalf true (gone (g.half true)) else g
          let g := g.setHalf o.f.fb (off (g.half o.f.fb))
          let g := if o.needsBoth then g.setHalf true (off (g.half true)) else g
          .next (s.setSite site (c.setEng eng { g with feedQ := rest, feeding := some o }))

/-- The half after a FEED (R67, R144). -/
def FeedOp.half (o : FeedOp) (bs : List Byte) : Half :=
  { resident := true, afmt := o.f.afmt, ascl := o.f.ascl, rows := if o.f.raw then 0 else o.m, raw := o.f.raw,
    both := o.needsBoth, data := bytesTab bs, bytes := bs.length }

/-- FEED_DONE (R67, R97, R145): the half is resident and the token signalled; an uncorrectable word ends the
FEED (R158). DEDUCED, log entry 19. -/
def execFeedDone (site : SiteNo) (eng : EngNo) (ecc : EccObs) (errOff : BitVec 28) (s : State) :
    Host.Outcome State Fault Refusal :=
  if s.clocked site = false then .next s
  else
    let c := s.site site
    let g := c.eng eng
    match g.feeding with
    | none => .next s
    | some o =>
      match ecc with
      | .uncorrectable =>
        let unload (h : Half) : Half := { h with loading := false }
        let g := (g.setHalf false (unload (g.half false))).setHalf true (unload (g.half true))
        .next ((s.setSite site (c.setEng eng { g with feeding := none })).wsLost site errOff.toNat)
      | _ =>
        let v := o.half (c.wsRead o.off (feedBytes o.f o.m))
        let g := g.setHalf o.f.fb v
        let g := if o.needsBoth then g.setHalf true { v with data := [], bytes := 0 } else g
        let c := (c.setEng eng { g with feeding := none }).signalOpt (tokOf o.f.tokEn o.f.tok)
        let s := s.setSite site c
        .next (if ecc = .corrected then s.wsFixed site errOff.toNat else s)

/-- SWAPs dispatched before number k have issued (R129). -/
def Engine.swapsBefore (g : Engine) (k : Nat) : Bool :=
  g.arrayQ.any fun o =>
    decide (o.seq < k) && match o.kind with | .matrix f => !f.hold | _ => false

/-- LATCH_START (R65, R68, R129, R177). -/
def execLatchStart (site : SiteNo) (eng : EngNo) (s : State) : Host.Outcome State Fault Refusal :=
  if s.clocked site = false then .next s
  else
    let c := s.site site
    let g := c.eng eng
    match g.latchQ with
    | [] => .next s
    | o :: rest =>
      if g.retired || g.latchingOp.isSome || c.quarantined || g.swapsBefore o.seq || decide (g.shadow.holders ≠ 0) ||
          c.planeLent eng || g.restoring.isSome then .next s
      else
        let p := { g.shadow with latched := false, latching := true, metaOk := true }
        .next (s.setSite site (c.setEng eng
          { g.setPlane (!g.active) p with latchQ := rest, latchingOp := some o, latchRefill := false }))

/-- The plane after a LATCH of some bytes, with its checksum column (R65, R76, R144, R164). -/
def LatchOp.plane (o : LatchOp) (bs : List Byte) : Plane :=
  let p : Plane := { latched := true, wfmt := o.f.wfmt, wscl := o.f.wscl, sparse := o.f.sparse,
                     data := bytesTab bs }
  { p with metaOk := !o.f.sparse || p.metaValid, sums := p.formSums }

/-- The granary blocks of a tile that wait for a refill (R99). -/
def Site.refilling (c : Site) (off len : Nat) : Bool :=
  c.refills.any fun b => decide (off / 4096 ≤ b) && decide (b ≤ (off + len - 1) / 4096)

/-- A granary block that met an uncorrectable error waits for its refill (R99). -/
def Site.needRefill (c : Site) (off : Nat) : Site :=
  let c := { c with granEcc := eccUncorrectable c.granEcc }
  if c.refills.contains (off / 4096) then c else { c with refills := c.refills ++ [off / 4096] }

/-- A granary read corrected a word (R99). -/
def State.granFixed (s : State) (n : SiteNo) (off : Nat) : State :=
  (s.modSite n fun c => { c with granEcc := eccCorrected c.granEcc }).corrected n 1 off

/-- LATCH_DONE (R65, R76, R99, R145). DEDUCED, log entry 19. -/
def execLatchDone (site : SiteNo) (eng : EngNo) (ecc : EccObs) (errOff : BitVec 30) (s : State) :
    Host.Outcome State Fault Refusal :=
  if s.clocked site = false then .next s
  else
    let c := s.site site
    let g := c.eng eng
    match g.latchingOp with
    | none => .next s
    | some o =>
      let len := weightBytes o.f.wfmt o.f.wscl o.f.sparse
      if !o.f.fromWs && c.refilling o.off len then .next s
      else
        match ecc with
        | .uncorrectable =>
          if o.f.fromWs then
            let g := g.setPlane (!g.active) { g.shadow with latching := false }
            .next ((s.setSite site (c.setEng eng { g with latchingOp := none })).wsLost site errOff.toNat)
          else
            .next (s.setSite site
              ((c.setEng eng { g with latchRefill := true }).needRefill errOff.toNat))
        | _ =>
          let p := o.plane (if o.f.fromWs then c.wsRead o.off len else c.granRead o.off len)
          let g := { g.setPlane (!g.active) p with latchingOp := none, latchRefill := false }
          let s := s.setSite site ((c.setEng eng g).signalOpt (tokOf o.f.tokEn o.f.tok))
          if ecc = .corrected then
            .next (if o.f.fromWs then s.wsFixed site errOff.toNat else s.granFixed site errOff.toNat)
          else .next s

/-! ### Redirection and caps -/

/-- An operation inserted into a queue by its program order number. -/
def insertBySeq {α : Type} (seq : α → Nat) (x : α) : List α → List α
  | [] => [x]
  | y :: ys => if seq x < seq y then x :: y :: ys else y :: insertBySeq seq x ys

/-- Two queues merged in program order (R82). DEDUCED, log entry 18. -/
def mergeBySeq {α : Type} (seq : α → Nat) (a b : List α) : List α :=
  b.foldl (fun q x => insertBySeq seq x q) a

/-- REDIRECT_MOVE (R82): once both engines are quiescent, the operations waiting at a retired engine move to
its redirect engine, interleaved in program order. DEDUCED, log entry 18. -/
def execRedirectMove (site : SiteNo) (eng : EngNo) (s : State) : Host.Outcome State Fault Refusal :=
  if s.clocked site = false then .next s
  else
    let c := s.site site
    let g := c.eng eng
    let r := g.redirect
    if g.retired && g.movePending && decide (r ≠ eng) && c.engQuiescent eng && c.engQuiescent r then
      let c := c.setEng eng { g with arrayQ := [], feedQ := [], latchQ := [], movePending := false }
      .next (s.setSite site (c.modEng r fun t =>
        { t with arrayQ := mergeBySeq (·.seq) t.arrayQ g.arrayQ, feedQ := mergeBySeq (·.seq) t.feedQ g.feedQ,
                 latchQ := mergeBySeq (·.seq) t.latchQ g.latchQ, nextSeq := max t.nextSeq g.nextSeq }))
    else .next s

/-- CAP_TAKES_EFFECT (R80, R365): the effective cap of the core's domain comes into force at the next cycle
whose number is a multiple of 16, for an instruction in the array too. -/
def execCapTakesEffect (site : SiteNo) (s : State) : Host.Outcome State Fault Refusal :=
  if s.clocked site = false then .next s
  else
    let q := s.effCap site
    let t := ((s.site site).cycle.toNat + 15) / 16 * 16
    .next (s.modSite site fun c => c.modEngs fun g =>
      { g with cap := q, inArray := g.inArray.map fun f => f.recap g.cap.toNat t q.toNat })

end Sys2Proof.Machine
end

