-- ==== Sys2Proof/Machine/Check.lean ====
section
/-!
DEFINITION. Machine/Check.lean: verdicts, the replay and the vote, quarantine, retirement and repair
(06_checking.md).
-/

namespace Sys2Proof.Machine

/-! ### Release (R103, R142, R175, R499) -/

/-- The holds of an instruction on its halves and plane end (R68). -/
def Site.unhold (c : Site) (e : EngNo) (f : Flight) : Site :=
  match f.op.kind with
  | .matrix m => c.modEng e fun g => (g.holdHalf m.fb (· - 1)).holdPlane f.plane (· - 1)
  | .ewise w => c.modEng e fun g => g.holdHalf w.fb (· - 1)
  | _ => c

/-- An instruction's verdict has passed or its vote has released its result: a drain's entry counts it, KEEP
signals its token unless its result is POISONED, OUT += with DRAIN frees its bank (R142, R499). -/
def Site.passed (c : Site) (e : EngNo) (f : Flight) : Site :=
  match f.op.kind with
  | .matrix m =>
    let c := if m.accumulate ∧ m.dest ≠ 0 ∧ f.cancelled = false ∧ ((c.eng e).bank m.bank).st = .filling then
        c.modEng e fun g => g.setBank m.bank {}
      else c
    if m.dest ≠ 0 then c.sillPass m.sill.val
    else if f.cancelled = false ∧ ((c.eng e).bank m.bank).st = .poisoned then c
    else c.signalOpt (tokOf m.tokEn m.tok)
  | .ewise w => c.sillPass w.sill.val
  | _ => c

/-- The sill entry an instruction drains to. -/
def Flight.entryOf (f : Flight) : Option (Fin 64) :=
  match f.op.kind with
  | .matrix m => if m.dest = 0 then none else some m.sill
  | .ewise w => some w.sill
  | _ => none

/-- Verdicts still in the 24-hour window at a powered time (R182). DEDUCED, log entry 16. -/
def Engine.window (g : Engine) (now : Word32) : Engine :=
  { g with verdicts := g.verdicts.filter fun v => decide (now.toNat < v.2.toNat + 86400) }

/-! ### The replay's plane (R177) -/

/-- The replay engine's shadow plane, once the replay has taken it, is given back: parked contents are restored,
else it is left not latched. -/
def Site.giveBack (c : Site) (v : Vote) : Site :=
  match v.flight.op.kind with
  | .matrix _ =>
    if v.stage = .failed then c
    else c.modEng v.replay fun g =>
      match v.parked with
      | some p => { g with restoring := some p }
      | none => g.setPlane (!g.active) {}
  | _ => c

/-- A pass of the replay that is in the array ends with its vote. -/
def Site.dropPass (c : Site) (v : Vote) : Site :=
  if v.stage = .votePass ∨ v.stage = .applyPass then
    c.modEng v.replay fun g => { g with inArray := none, busyCount := g.busyAt c.cycle, idleFrom := c.cycle }
  else c

/-! ### Quarantine (R180) -/

/-- The pass of a vote that runs in an engine's array. -/
def Site.passOf (c : Site) (e : EngNo) : Option Vote :=
  match c.vote with
  | some v => if v.replay = e ∧ (v.stage = .votePass ∨ v.stage = .applyPass) then some v else none
  | none => none

/-- Every bank of an engine with an unresolved contribution becomes POISONED, that of the instruction in its
array among them. -/
def Site.poisonPending (c : Site) (e : EngNo) : Site :=
  let bs := ((c.eng e).waiting.filterMap Flight.bankOf) ++
    (if (c.passOf e).isSome then [] else ((c.eng e).inArray.bind Flight.bankOf).toList) ++
    (match c.vote with
     | some v => if v.orig = e then v.flight.bankOf.toList else []
     | none => [])
  bs.foldl (fun c b => c.poisonBank e b) c

/-- A core is quarantined with a vote: it stops issuing, the vote's entry and every bank with an unresolved
contribution become POISONED, the vote ends, the replay engine's plane is given back, and QUARANTINE is
recorded and told (R177, R180). A vote that was unresolved already is recorded too (R176, R188). DEDUCED, log entry 17. -/
def State.quarantine (s : State) (n : SiteNo) (v : Vote) (replayObs : Option CheckObs) : State :=
  let s := match (s.site n).vote with
    | some w => if w.flight = v.flight then s else s.record (s.voteRecord n w 3 none)
    | none => s
  let r := s.voteRecord n v 3 replayObs
  let poison (c : Site) (f : Flight) : Site :=
    match f.entryOf with | some i => c.poisonEntry i.val | none => c
  let s := s.modSite n fun c =>
    let c := poison c v.flight
    let c := match v.flight.bankOf with | some b => c.poisonBank v.orig b | none => c
    let c := match c.vote with | some w => poison c w.flight | none => c
    let c := (List.finRange 4).foldl Site.poisonPending c
    let c := match c.vote with | some w => (c.dropPass w).giveBack w | none => c
    { c.stop with quarantined := true, vote := none }
  (s.record r).tell (voteClass v) (some n) 3 0

/-! ### Retirement (R82, R183) -/

/-- The redirect engines are chosen afresh (R82). -/
def Site.redirects (c : Site) : Site :=
  (List.finRange 4).foldl
    (fun c e =>
      let g := c.eng e
      if g.retired then
        match c.nextGood e with
        | some r => if g.redirect = r then c else c.setEng e { g with redirect := r, movePending := true }
        | none => c
      else c) c

/-- An engine is retired: ENGINE_RETIRED is recorded; when all four are, the core stops and reports
QUARANTINE (R82, R183). DEDUCED, log entry 17. -/
def State.retire (s : State) (n : SiteNo) (e : EngNo) : State :=
  let s := s.modSite n fun c => (c.modEng e fun g => { g with retired := true, movePending := true }).redirects
  let g := (s.site n).eng e
  let s := s.record ((s.plainRec 0x0010 (some n) 0 0).ofEngine e g)
  if (List.finRange 4).all fun x => ((s.site n).eng x).retired then
    (s.modSite n fun c => { c.stop with quarantined := true }).tell 0x0001 (some n) 3 0
  else s

/-- A verdict of a vote is counted and journaled; the third in the window retires the engine (R182, R183). DEDUCED, log entry 16. -/
def State.countVerdict (s : State) (n : SiteNo) (e : EngNo) (engineAtFault : Bool) : State :=
  let now := s.poweredNow
  let s := s.modSite n fun c => c.modEng e fun g =>
    let g := g.window now
    { g with verdicts := g.verdicts ++ [(engineAtFault, now)] }
  let s := s.journal (.verdict n e engineAtFault now)
  let g := (s.site n).eng e
  if 3 ≤ g.verdicts.length ∧ g.retired = false then s.retire n e else s

/-! ### Placement -/

/-- The array is empty again; its busy cycles are counted (R60, R85). -/
def Engine.leave (g : Engine) (f : Flight) : Engine :=
  { g with inArray := none, busyCount := g.busyCount + BitVec.ofNat 64 (f.len + 512),
           idleFrom := f.issue + BitVec.ofNat 64 (f.len + 512) }

/-- What a drain's entry takes when its last row is written (R58, R103); a POISONED entry stays so. -/
def Site.closeEntry (c : Site) (i : Fin 64) (f : Flight) : Site :=
  let v := c.entry i.val
  if v.st = .poisoned then c
  else c.setEntry i.val { v with
    st := .closed, data := f.rows, flush := some (f.op.named, f.sat, f.nanOut, f.maxF) }

/-- The words an instruction leaves: what it adds to its bank, or its own. -/
def Site.wordsOf (c : Site) (e : EngNo) (f : Flight) (m : MatrixF) : Tab AccWord :=
  if m.accumulate then addWords ((c.eng e).bank m.bank).words f.contrib else f.contrib

/-- The last row of an instruction is placed (R62, R72, Table 3.5, Table 4.5): a bank that has become POISONED
stays so. -/
def Site.place (c : Site) (e : EngNo) (f : Flight) (m : MatrixF) : Site :=
  let words := c.wordsOf e f m
  let f := f.drained m words
  let c := c.modEng e fun g0 =>
    let g : Engine := { g0.leave f with waiting := g0.waiting ++ [f] }
    let b := g.bank m.bank
    if b.st = .poisoned then g
    else if m.dest ≠ 0 ∧ m.accumulate = false then g.setBank m.bank {}
    else if m.dest = 0 then g.setBank m.bank { b with st := .held, words := words }
    else g.setBank m.bank { b with words := words }
  if m.dest = 0 then c else c.closeEntry m.sill f

/-- What an instruction writes becomes POISONED: its sill entry, and the bank it keeps or adds to (R185). -/
def Site.poisonResult (c : Site) (e : EngNo) (f : Flight) : Site :=
  let c := match f.entryOf with | some i => c.poisonEntry i.val | none => c
  match f.bankOf with | some b => c.poisonBank e b | none => c

/-- A parity failure on a half's or a plane's readout: what the instruction writes is POISONED, and PARITY_DATA
is reported for a rollback (R185). -/
def State.parityPoison (s : State) (n : SiteNo) (e : EngNo) (f : Flight) : State :=
  (s.modSite n fun c => c.poisonResult e f).engReport n e 0x0006 0 0

/-- A pass of a vote is placed in the replay engine's array (R178). The vote pass writes nothing. The apply pass
corrects the original engine's bank and writes the converted rows over the original entry. -/
def Site.placePass (c : Site) (v : Vote) (p : Flight) : Site :=
  let c := c.modEng v.replay fun g => g.leave p
  if v.stage = .votePass then { c with vote := some { v with stage := .voted, pass := some p } }
  else
    match v.flight.op.kind with
    | .matrix m =>
      let b := (c.eng v.orig).bank m.bank
      let fixed := correctWords p.op.m b.words v.flight.contrib p.contrib
      let c := match v.flight.bankOf with
        | some k => c.modEng v.orig fun g => g.setBank k { g.bank k with words := fixed }
        | none => c
      let p := p.drained m (if m.accumulate then fixed else p.contrib)
      let c := match v.flight.entryOf with | some i => c.closeEntry i p | none => c
      { (c.unhold v.orig v.flight).giveBack v with vote := some { v with stage := .applied, pass := some p } }
    | _ => { c with vote := some { v with stage := .applied, pass := some p } }

/-- MATRIX_LAST_PLACEMENT (R62, R72, R74, R178, R185): a matrix instruction's last row is placed with the words a
fault changed, or a pass of a vote ends in the replay engine's array. A parity failure poisons what the
instruction writes; a vote goes on to judge the engine. DESIGN CHOICE, log entry 10. -/
def execMatrixLastPlacement (site : SiteNo) (eng : EngNo) (obs : PassObs) (s : State) :
    Host.Outcome State Fault Refusal :=
  if s.clocked site = false then .next s
  else
    let c := s.site site
    match (c.eng eng).inArray with
    | none => .next s
    | some f =>
      match c.passOf eng with
      | some v =>
        let s := s.setSite site (c.placePass v (f.faulted obs.bad))
        .next (if obs.parityOk then s else s.parityPoison site v.orig v.flight)
      | none =>
        match f.op.kind with
        | .matrix m =>
          let s := s.setSite site (c.place eng (f.faulted obs.bad) m)
          .next (if obs.parityOk then s else s.parityPoison site eng f)
        | _ => .next s

/-! ### Verdicts -/

/-- A vote begins, or the core is quarantined: a vote is unresolved already, or no engine qualifies (R176). -/
def State.startVote (s : State) (n : SiteNo) (e : EngNo) (f : Flight) (obs : CheckObs)
    (misses : List EwiseMiss) : State :=
  let c := s.site n
  let stage := match f.op.kind with | .ewise _ => VoteStage.latched | _ => VoteStage.failed
  let mk (r : EngNo) : Vote :=
    { orig := e, replay := r, stage := stage, flight := f, obs := obs, misses := misses, parked := none,
      pass := none }
  match c.vote, c.nextGood e with
  | none, some r =>
    if 256 < misses.length then s.quarantine n (mk r) none
    else s.modSite n fun c => { c with vote := some (mk r) }
  | some w, _ => s.quarantine n (mk w.replay) none
  | none, none => s.quarantine n (mk e) none

/-- A contribution buffer word that a vote reads was corrected (R186). -/
def State.bufferFixed (s : State) (n : SiteNo) (used : Bool) (o : VerdictObs) : State :=
  if used && decide (o.bufferEcc = .corrected) then s.corrected n 4 o.errOff.toNat else s

/-- VERDICT (R169, R172, R176, R186): the verdict of the engine's oldest placed instruction is acted on. -/
def execVerdict (site : SiteNo) (eng : EngNo) (o : VerdictObs) (s : State) :
    Host.Outcome State Fault Refusal :=
  if s.clocked site = false then .next s
  else
    let c := s.site site
    match (c.eng eng).waiting with
    | [] => .next s
    | f :: rest =>
      let obs := f.check o
      let s := (s.modSite site fun c => c.modEng eng fun g => { g with waiting := rest }).bufferFixed site f.usesCb o
      let lost := f.usesCb && decide (o.bufferEcc = .uncorrectable)
      let r := s.engRec site eng 0x0012 4 (o.errOff.setWidth 64)
      if obs.pass then
        let s := s.modSite site fun c => (c.unhold eng f).passed eng f
        .next (if lost then s.record r else s)
      else
        let s := s.modSite site fun c => c.modEng eng fun g => { g with disagree := satInc g.disagree }
        let s := s.startVote site eng f obs []
        match (s.site site).vote with
        | some v => if lost then .next ((s.record { r with severity := 0 }).quarantine site v none) else .next s
        | none => .next s

/-- EWISE_LAST_RESULT (R78, R181, R185): the entry closes with the results of the first diagonal PE of each
element; with no mismatch it is released, else the operation is replayed. A parity failure of the half poisons
the entry. -/
def execEwiseLastResult (site : SiteNo) (eng : EngNo) (obs : EwiseObs) (s : State) :
    Host.Outcome State Fault Refusal :=
  if s.clocked site = false then .next s
  else
    let c := s.site site
    match (c.eng eng).inArray, c.passOf eng with
    | some f, none =>
      match f.op.kind with
      | .ewise w =>
        let f := { f with rows := ewiseRows ((c.eng eng).tile w.fb) w f.op.m obs.misses }
        let c := (c.modEng eng fun g => g.leave f).closeEntry w.sill f
        let s := s.setSite site c
        let misses := obs.misses.filter fun x => decide (x.v1 ≠ x.v2)
        let s := if obs.parityOk then s else s.parityPoison site eng f
        if misses.isEmpty then .next (s.modSite site fun c => (c.unhold eng f).passed eng f)
        else
          let s := s.modSite site fun c => c.modEng eng fun g => { g with disagree := satInc g.disagree }
          .next (s.startVote site eng f { rows := [], cols := [], specialAgree := true, convBad := none } misses)
      | _ => .next s
    | some f, some v =>
      -- the replay of an EWISE ends in the replay engine's array
      let s := s.setSite site (c.placePass v f)
      .next (if obs.parityOk then s else s.parityPoison site v.orig v.flight)
    | none, _ => .next s

/-- REPLAY_START (R177, R185): the replay engine's shadow plane is free: its latched contents are parked, and the
held tile is latched into it with its checksum column formed anew. A parity failure of its readout comes with
the vote pass. DESIGN CHOICE, log entry 10. -/
def execReplayStart (site : SiteNo) (s : State) : Host.Outcome State Fault Refusal :=
  if s.clocked site = false then .next s
  else
    let c := s.site site
    match c.vote with
    | some v =>
      let g := c.eng v.replay
      if v.stage = .failed ∧ g.shadow.holders = 0 ∧ g.latchingOp.isNone = true ∧ g.restoring.isNone = true then
        let parked := if g.shadow.latched then some g.shadow else none
        let held := (c.eng v.orig).plane v.flight.plane
        let tile := { held with latched := false, holders := 0, sums := held.formSums }
        .next (s.setSite site { c.setEng v.replay (g.setPlane (!g.active) tile) with
          vote := some { v with stage := .latched, parked := parked } })
      else .next s
    | none => .next s

/-- What a pass of the vote computes: the instruction again, from the original engine's held half and the tile in
the replay engine's shadow plane, with the original's anchor (R177 to R179). -/
def Site.passFlight (c : Site) (v : Vote) : Flight :=
  let g := c.eng v.replay
  let n := v.flight.slots
  let f := { v.flight with
    issue := c.cycle, cap := g.cap, len := feedLen g.cap.toNat c.cycle.toNat n, taken := 0,
    capFrom := c.cycle.toNat }
  match v.flight.op.kind with
  | .matrix m =>
    let h := (c.eng v.orig).tile m.fb
    { f with contrib := contribTab h g.shadow v.flight.anchor f.op.m,
             pred := predict h g.shadow v.flight.anchor f.op.m }
  | .ewise w => { f with rows := ewiseRows ((c.eng v.orig).tile w.fb) w f.op.m [] }
  | _ => f

/-- A pass of the vote enters the replay engine's array (R85, R178). -/
def Site.enterPass (c : Site) (v : Vote) (stage : VoteStage) : Site :=
  let f := c.passFlight v
  { c.modEng v.replay fun g => { g with inArray := some f, issued := g.issued + 1 } with
    vote := some { v with stage := stage } }

/-- VOTE_PASS_ISSUE (R178). -/
def execVotePassIssue (site : SiteNo) (s : State) : Host.Outcome State Fault Refusal :=
  if s.clocked site = false then .next s
  else
    let c := s.site site
    match c.vote with
    | some v =>
      if v.stage = .latched ∧ (c.eng v.replay).inArray.isNone = true then
        .next (s.setSite site (c.enterPass v .votePass))
      else .next s
    | none => .next s

/-- The replay's value of an element: the one a faulty PE gave, else the one the operands give. -/
def ewiseValue (code : Nat → Nat) (replay : List EwiseMiss) (i : BitVec 18) : BitVec 32 :=
  match replay.find? fun r => decide (r.index = i) with
  | some r => r.v1
  | none => BitVec.ofNat 32 (code i.toNat)

/-- The replay of an EWISE agrees with one of the two logged values of every mismatching element, and its own
dual comparison holds (R181). -/
def ewiseAgrees (code : Nat → Nat) (misses replay : List EwiseMiss) : Bool :=
  (replay.all fun r => decide (r.v1 = r.v2)) &&
  misses.all fun m =>
    let v := ewiseValue code replay m.index
    decide (v = m.v1) || decide (v = m.v2)

/-- A contribution carries a special state other than finite in some word (R74). -/
def Flight.nonFinite (f : Flight) : Bool := f.contrib.any fun w => decide (w.2.special ≠ 0)

/-- The vote finds the original engine at fault (Table 6.2, R74, R178, R499). -/
def State.engineAtFault (s : State) (n : SiteNo) (v : Vote) (obs : CheckObs) : State :=
  let s := s.countVerdict n v.orig true
  let s := s.record (s.voteRecord n v 2 (some obs))
  match v.flight.bankOf with
  | some _ =>
    if v.flight.nonFinite then
      let s := s.modSite n fun c =>
        { ((c.poisonResult v.orig v.flight).unhold v.orig v.flight).giveBack v with vote := none }
      s.tell clsPoisoned (some n) 0 0
    else s.modSite n fun c => c.enterPass v .applyPass
  | none => s.modSite n fun c => c.enterPass v .applyPass

/-- The replay's verdict failed: its engine's DISAGREE counts (R192). -/
def State.passFailed (s : State) (n : SiteNo) (v : Vote) : State :=
  s.modSite n fun c => c.modEng v.replay fun g => { g with disagree := satInc g.disagree }

/-- An uncorrectable contribution buffer word that a vote uses: the core is quarantined (R186). -/
def State.bufferLost (s : State) (n : SiteNo) (v : Vote) (obs : CheckObs) (o : VerdictObs) : State :=
  (s.record { s.engRec n v.orig 0x0012 4 (o.errOff.setWidth 64) with severity := 0 }).quarantine n v (some obs)

/-- VOTE_DECIDE of an EWISE (R181): the replay's results overwrite the entry, or the core is quarantined. -/
def State.decideEwise (s : State) (n : SiteNo) (v : Vote) (w : EwiseF) (p : Flight) (replay : List EwiseMiss)
    (obs : CheckObs) : State :=
  let h := ((s.site n).eng v.orig).tile w.fb
  let code (i : Nat) : Nat := (ewiseElem h w p.op.m i).code
  if ewiseAgrees code v.misses replay then
    let s := s.countVerdict n v.orig true
    let s := s.record (s.voteRecord n v 2 (some obs))
    let p := { p with rows := ewiseRows h w p.op.m replay }
    s.modSite n fun c =>
      { ((c.closeEntry w.sill p).unhold v.orig v.flight).passed v.orig v.flight with vote := none }
  else s.quarantine n v (some obs)

/-- VOTE_DECIDE (R179, R181, Table 6.2). -/
def execVoteDecide (site : SiteNo) (o : VerdictObs) (ewise : List EwiseMiss) (s : State) :
    Host.Outcome State Fault Refusal :=
  if s.clocked site = false then .next s
  else
    match (s.site site).vote with
    | some v =>
      if v.stage ≠ .voted then .next s
      else
        let p := v.pass.getD v.flight
        let obs := p.check o
        match v.flight.op.kind with
        | .ewise w => .next (s.decideEwise site v w p ewise obs)
        | _ =>
          if v.flight.usesCb && decide (o.bufferEcc = .uncorrectable) then .next (s.bufferLost site v obs o)
          else
            let s := s.bufferFixed site v.flight.usesCb o
            if obs.pass = false then .next ((s.passFailed site v).quarantine site v (some obs))
            else if v.obs.same obs then
              let s := s.countVerdict site v.orig false
              let s := s.record (s.voteRecord site v 1 (some obs))
              .next (s.modSite site fun c =>
                { ((c.unhold v.orig v.flight).passed v.orig v.flight).giveBack v with vote := none })
            else .next (s.engineAtFault site v obs)
    | none => .next s

/-- APPLY_PASS_VERDICT (R178): a passed check releases the corrected result; a failed one quarantines the
core. -/
def execApplyPassVerdict (site : SiteNo) (o : VerdictObs) (s : State) :
    Host.Outcome State Fault Refusal :=
  if s.clocked site = false then .next s
  else
    match (s.site site).vote with
    | some v =>
      if v.stage ≠ .applied then .next s
      else
        let obs := (v.pass.getD v.flight).check o
        if v.flight.usesCb && decide (o.bufferEcc = .uncorrectable) then .next (s.bufferLost site v obs o)
        else
          let s := s.bufferFixed site v.flight.usesCb o
          if obs.pass then .next (s.modSite site fun c => { c.passed v.orig v.flight with vote := none })
          else .next ((s.passFailed site v).quarantine site v (some obs))
    | none => .next s

/-- PLANE_RESTORE_DONE (R177, R186): parked contents are back in the replay engine's shadow plane. An
uncorrectable replay buffer word quarantines the core while a vote uses it, and is else discarded with
the buffer. -/
def execPlaneRestoreDone (site : SiteNo) (ecc : BufObs) (s : State) :
    Host.Outcome State Fault Refusal :=
  if s.clocked site = false then .next s
  else
    let c := s.site site
    match (List.finRange 4).find? fun e => (c.eng e).restoring.isSome with
    | none => .next s
    | some e =>
      let g := c.eng e
      match g.restoring with
      | none => .next s
      | some p =>
        if ecc.ecc = .uncorrectable then
          let s := s.setSite site (c.setEng e { g.setPlane (!g.active) {} with restoring := none })
          let r := s.engRec site e 0x0012 5 (ecc.off.setWidth 64)
          match c.vote with
          | some v => .next ((s.record { r with severity := 0 }).quarantine site v none)
          | none => .next (s.record r)
        else
          let s := s.setSite site (c.setEng e { g.setPlane (!g.active) p with restoring := none })
          .next (if ecc.ecc = .corrected then s.corrected site 5 ecc.off.toNat else s)

/-! ### Localisation and repair (R81, R183) -/

/-- Spares of a remap register that are free and good: kind 0 row, 1 column (Table 3.7, R500). -/
def State.freeSpares (s : State) (n : SiteNo) (e : EngNo) (kind : Nat) (w : Word32) : List Nat :=
  [0, 1].filter fun k =>
    !w.getLsbD (15 + 16 * k) && !s.mapBad 1 (16 * n.val + 4 * e.val + 2 * kind + k)

/-- A spare replaces a data row or column (Table 3.7). -/
def useSpare (w : Word32) (spare index : Nat) : Word32 :=
  setBit w (15 + 16 * spare) true ||| BitVec.ofNat 32 (index * 65536 ^ spare)

/-- The choices of k rows out of some. -/
def choose : Nat → List Nat → List (List Nat)
  | 0, _ => [[]]
  | _ + 1, [] => []
  | k + 1, x :: xs => (choose k xs).map (x :: ·) ++ choose (k + 1) xs

/-- Columns of the faulty PEs outside some rows. -/
def colsLeft (pes : List (Fin 256 × Fin 256)) (rows : List Nat) : List Nat :=
  ((pes.filter fun p => !rows.contains p.1.val).map fun p => p.2.val).dedup

/-- The data rows or columns a remap register maps (Table 3.7). -/
def mappedBy (w : Word32) : List Nat :=
  ([0, 1].filter fun k => w.getLsbD (15 + 16 * k)).map fun k => (w.extractLsb' (16 * k) 8).toNat

/-- The rows and columns to map, rows first, when the free spares cover every faulty PE (R183). A row or
column that is mapped already is not mapped again (R84). -/
def coverPlan (pes : List (Fin 256 × Fin 256)) (rowSpares colSpares : Nat) (rowsDone colsDone : List Nat) :
    Option (List Nat × List Nat) :=
  let rows := ((pes.map fun p => p.1.val).dedup).filter fun r => !rowsDone.contains r
  let k := min rowSpares rows.length
  ((choose k rows).map fun r => (r, colsLeft pes r)).find? fun p =>
    decide (p.2.length ≤ colSpares) && p.2.all fun x => !colsDone.contains x

/-- The repair plan of an engine for its faulty PEs (R81, R84, R183). -/
def State.planOf (s : State) (n : SiteNo) (e : EngNo) (pes : List (Fin 256 × Fin 256)) :
    Option (List Nat × List Nat) :=
  let g := (s.site n).eng e
  coverPlan pes (s.freeSpares n e 0 g.remapRow).length (s.freeSpares n e 1 g.remapCol).length
    (mappedBy g.remapRow) (mappedBy g.remapCol)

/-- An engine takes a repair plan (R81). -/
def State.remap (s : State) (n : SiteNo) (e : EngNo) (rows cols : List Nat) : State :=
  let g := (s.site n).eng e
  let fr := s.freeSpares n e 0 g.remapRow
  let fc := s.freeSpares n e 1 g.remapCol
  let rw := (fr.zip rows).foldl (fun w p => useSpare w p.1 p.2) g.remapRow
  let cw := (fc.zip cols).foldl (fun w p => useSpare w p.1 p.2) g.remapCol
  let s := s.modSite n fun c => c.modEng e fun g => { g with remapRow := rw, remapCol := cw }
  s.journal (.remap n e rw cw)

/-- LOCALISATION_TEST_END (R183): the retired engine is repaired and returns, or the site is to be replaced
at the next tally. A remap waits until the engine is quiescent (R81). The one record of a repair names the first
row or column mapped, rows first. DEDUCED, log entry 93. -/
def execLocalisationTestEnd (site : SiteNo) (eng : EngNo) (obs : LocalObs) (s : State) :
    Host.Outcome State Fault Refusal :=
  let c := s.site site
  let g := c.eng eng
  if g.retired = false ∨ g.replaceAtTally = true then .next s
  else
    let plan := if obs.beyond || obs.pes.isEmpty then none else s.planOf site eng obs.pes
    match plan with
    | some p =>
      if c.engQuiescent eng = false then .next s
      else
        let s := s.remap site eng p.1 p.2
        let s := s.modSite site fun c => c.modEng eng fun g =>
          { g with retired := false, movePending := false, verdicts := [] }
        .next (s.record { (s.plainRec 0x0011 (some site)
            (BitVec.ofNat 32 ((p.1 ++ p.2.map (· + 256)).headD 0)) 0).ofEngine eng ((s.site site).eng eng) with
          outcome := 6 })
    | none =>
      let s := s.modSite site fun c => c.modEng eng fun g => { g with replaceAtTally := true }
      .next ((s.record { (s.plainRec 0x0010 (some site) 0 0).ofEngine eng ((s.site site).eng eng) with
        outcome := 7 }).tell 0x0010 (some site) 7 0)

/-- VERDICT_WINDOW_EXPIRY (R182): verdicts 24 powered hours old leave the window. -/
def execVerdictWindowExpiry (site : SiteNo) (eng : EngNo) (t : Word64) (s : State) :
    Host.Outcome State Fault Refusal :=
  let s := s.at t
  .next (s.modSite site fun c => c.modEng eng fun g => g.window s.poweredNow)

end Sys2Proof.Machine
end

