-- ==== Sys2Proof/Machine/Copy.lean ====
section
/-!
DEFINITION. Machine/Copy.lean: the copy engines (04_core.md, 4.7), and the scrub, refresh and refill of a
core's stores (R88, R97, R99). A copy with an end that the fabric reaches moves by requests, injected one at a
time, whose answers move it on; COPY_COMPLETE moves the bytes of every other copy.
-/

namespace Sys2Proof.Machine

/-! ### Descriptors -/

/-- Bytes of a descriptor. -/
def CopyDesc.total (d : CopyDesc) : Nat := d.rows.toNat * d.length.toNat

/-- Source and destination address of the byte a descriptor has reached, and what is left of its row
(R107, Table 4.6). -/
def CopyDesc.place (d : CopyDesc) (moved : Nat) : Nat × Nat × Nat :=
  let r := moved / d.length.toNat
  let o := moved % d.length.toNat
  let step (v : Word64) : Nat := if d.twoD then r * v.toNat else 0
  (d.src.toNat + step d.srcStride + o, d.dst.toNat + step d.dstStride + o, d.length.toNat - o)

/-- Flight i of queue q. -/
def Site.flightAt (c : Site) (q : Fin 4) (i : Nat) : Option CopyFlight := (c.queue q).flight[i]?

/-- Flight i of queue q becomes f of itself. -/
def Site.modFlight (c : Site) (q : Fin 4) (i : Nat) (f : CopyFlight → CopyFlight) : Site :=
  let k := c.queue q
  c.setQueue q { k with flight := k.flight.modify i f }

/-! ### Permission (R109, R112, R232, R233, R236, R240) -/

/-- Status of an access by a copy of scope o to page p (R216, R232, R236, R240, R442). DEDUCED, log entry 26. -/
def State.pageCode (s : State) (o : Option HamletNo) (write : Bool) (p : Nat) : BitVec 4 :=
  let v := s.page p
  if s.pageCap ≤ p then 3
  else if v.valid = false then 4
  else if s.hamletResetting v.owner || s.pageHeld p then 2
  else if v.kind = 3 ∨ v.kind = 4 then 3
  else if v.owner ≠ o then 1
  else if write = true ∧ v.kind = 2 then 3
  else 0

/-- The first status other than OK of several. -/
def firstBad (l : List (BitVec 4)) : BitVec 4 := (l.find? fun x => decide (x ≠ 0)).getD 0

/-- Status of an access to a range of GDDR7. -/
def State.rangeCode (s : State) (o : Option HamletNo) (write : Bool) (a len : Nat) : BitVec 4 :=
  firstBad ((pagesOf a len).map (s.pageCode o write))

/-- Status of an access to the working store of a site from scope o (R200, R216, Table 7.5). -/
def State.coreCode (s : State) (o : Option HamletNo) (n : SiteNo) (a len : Nat) : BitVec 4 :=
  let c := s.site n
  if c.resetting || s.hamletResetting c.hamlet then 2
  else if !c.present || c.bound.isNone then 4
  else if c.hamlet ≠ o then 1
  else if wsSize < a + len then 3
  else 0

/-- Status of an access to the working store of a logical core. -/
def State.lcoreCode (s : State) (o : Option HamletNo) (lc : LCoreNo) (a len : Nat) : BitVec 4 :=
  match s.siteOf lc with
  | some n => s.coreCode o n a len
  | none => 4

/-- The logical core of a descriptor. -/
def CopyDesc.core (d : CopyDesc) : LCoreNo := ⟨d.lcore.toNat, d.lcore.isLt⟩

/-- A hamlet's host data is sealed (R440). -/
def State.sealed (s : State) (o : Option HamletNo) : Bool :=
  match o with
  | some h => (s.hamlet h).hostEnc
  | none => false

/-- Status of an access to host memory (R333, R440). -/
def State.hostCode (s : State) (o : Option HamletNo) (d : CopyDesc) (stride : Word64) : BitVec 4 :=
  if s.host.lost then 4
  else
    match o with
    | some h =>
      if s.sealed o && ((s.hamlet h).hostKey.isNone || (d.twoD && decide (stride.toNat % 4160 ≠ 0))) then 1
      else 0
    | none => 0

/-- The ring that issued the LAUNCH running on a core (R311). -/
def State.launchRing (s : State) (n : SiteNo) : RingNo :=
  match (s.site n).launch with
  | some l => (match s.desc l.desc with | some d => d.ring | none => 0)
  | none => 0

/-- Status of a copy's access to host memory at either end, through the home port of its ring; 0 for a copy without
one (R215, R311, R333, R440). -/
def State.hostEnd (s : State) (n : SiteNo) (d : CopyDesc) : BitVec 4 :=
  let o := (s.site n).hamlet
  let way : BitVec 4 := if s.reach (rtrOfSite n) (portRtr (s.ring (s.launchRing n)).via) then 0 else 4
  firstBad [if d.srcKind = 6 then firstBad [way, s.hostCode o d d.srcStride] else 0,
            if d.dstKind = 6 then firstBad [way, s.hostCode o d d.dstStride] else 0]

/-! ### Requests (R197, R209, R210, R232) -/

/-- Router and port that serve a remote end of a copy, or the status its own source port answers (R215,
R232). -/
def State.portOf (s : State) (n : SiteNo) (d : CopyDesc) (kind : BitVec 4) (a : Nat) :
    Except (BitVec 4) (Fin 64 × Bool) :=
  let o := (s.site n).hamlet
  let go (p : Fin 64 × Bool) : Except (BitVec 4) (Fin 64 × Bool) :=
    if s.reach (rtrOfSite n) p.1 then .ok p else .error 4
  match kind.toNat with
  | 3 =>
    if s.pageCap ≤ a / 8388608 then .error 3
    else
      let v := s.page (a / 8388608)
      if v.valid then go (s.memPort v.field) else .error 4
  | 4 =>
    match s.siteOf d.core with
    | some m => go (rtrOfSite m, false)
    | none => .error 4
  | _ =>
    match s.linkTo s.id.dev d.device (BitVec.ofNat 64 a) o with
    | some l => go (s.linkPort (fieldOfLink l))
    | none => .error 4

/-- A copy end is reached by requests of this device's fabric. -/
def byFabric (kind : BitVec 4) : Bool :=
  decide (kind = 3) || decide (kind = 4) || decide (kind = 5) || decide (kind = 7)

/-- Bytes of the sill entry a source address names (R104, Table 4.7): what the drain did not write reads
as 0. -/
def Site.sillRead (c : Site) (a len : Nat) : List Byte :=
  tbytes (fun _ => 0) (c.entry (a / 4194304 % 64)).data (a % 4194304) len

/-- Source bytes of a core's own stores. -/
def Site.localRead (c : Site) (kind : BitVec 4) (a len : Nat) : List Byte :=
  match kind.toNat with
  | 0 => c.wsRead a len
  | 1 => c.granRead a len
  | _ => c.sillRead a len

/-- A copy moves by requests through the fabric. -/
def CopyDesc.byRequests (d : CopyDesc) : Bool := d.combine || byFabric d.srcKind || byFabric d.dstKind

/-- The request that reads a copy's next bytes from a source that the fabric reaches. -/
def State.readPacket (s : State) (n : SiteNo) (d : CopyDesc) (sa left : Nat) : Except (BitVec 4) Packet :=
  let span := min left (8192 - sa % 8192)
  (s.portOf n d d.srcKind sa).map fun p => mkPacket 3 (rtrOfSite n, false) p (s.site n).hamlet sa span []

/-- The bytes a copy sends next to a destination that the fabric reaches: of a local source as it holds them,
none from a granary block whose refill is pending (R99); of every other source those it has brought. -/
def Site.sendBytes (c : Site) (f : CopyFlight) (sa span : Nat) : List Byte :=
  if f.desc.srcKind.toNat ≤ 2 then
    if f.desc.srcKind = 1 ∧ c.refilling sa span = true then [] else c.localRead f.desc.srcKind sa span
  else f.buf.take span

/-- The next request of a copy: its packet, or the status that its source port answers; none when it has
no more requests through the fabric, or waits for its source. The bytes of a source that the fabric reaches are
read by a request of their own before they are written. -/
def State.nextPacket (s : State) (n : SiteNo) (f : CopyFlight) : Option (Except (BitVec 4) Packet) :=
  let c := s.site n
  let d := f.desc
  let me : Fin 64 × Bool := (rtrOfSite n, false)
  if d.total ≤ f.moved then none
  else if d.byRequests ∧ s.hostEnd n d ≠ 0 then some (.error (s.hostEnd n d))
  else
    let (sa, da, left) := d.place f.moved
    if d.combine then
      let span := min left (if d.redFmt then 512 else 6336)
      let port := if d.dstKind = 0 then .ok me else s.portOf n d d.dstKind da
      some (port.map fun p =>
        { mkPacket 5 me p c.hamlet da span (c.localRead d.srcKind sa span) with
          fmt := d.redFmt, contrib := d.contributor, group := d.group })
    else if byFabric d.dstKind then
      let bs := c.sendBytes f sa (min left (8192 - da % 8192))
      if bs ≠ [] then
        some ((s.portOf n d d.dstKind da).map fun p => mkPacket 1 me p c.hamlet da bs.length bs)
      else if byFabric d.srcKind then some (s.readPacket n d sa left)
      else none
    else if byFabric d.srcKind then some (s.readPacket n d sa left)
    else none

/-! ### Ends of a copy -/

/-- The entry a copy reads is read by one copy less; an entry FREEING is freed with its last reader
(Table 4.5). -/
def Site.sillDone (c : Site) (a : Nat) : Site :=
  let i := a / 4194304 % 64
  let v := c.entry i
  let v := { v with readers := v.readers - 1 }
  let c := c.setEntry i v
  if v.st = .freeing ∧ v.readers = 0 then c.sillGone i else c

/-- Flight i leaves its queue; an answer still on its way to it will be discarded (R199, R208). -/
def State.leaveFlight (s : State) (n : SiteNo) (q : Fin 4) (i : Nat) (f : CopyFlight) : State :=
  let s := match f.txn with
    | some t => s.leaveTxn (rtrOfSite n) t
    | none => s
  s.modSite n fun c =>
    let k := c.queue q
    let c := c.setQueue q { k with flight := k.flight.eraseIdx i }
    if f.desc.srcKind = 2 then c.sillDone f.desc.src.toNat else c

/-- A sealed host block failed its check (R440); outside HOST_ENC nothing is recorded. -/
def State.hostAuthFail (s : State) (o : Option HamletNo) (addr : Word64) : State :=
  match o with
  | some h => if (s.hamlet h).hostEnc then s.fault 0x0707 none (BitVec.ofNat 32 h.val) addr else s
  | none => s

/-- Flight i of queue q fails with a Table 4.9 code: no token, no bell, its queue halts, and COPY_FAULT,
or PARITY_DATA for a third parity failure, is reported (R113, R184); COPY_FAULT stops dispatch (R158). An
uncorrectable source word is also counted at its store (R97, R186). DEDUCED, log entry 68. -/
def State.copyFail (s : State) (n : SiteNo) (q : Fin 4) (i : Nat) (code : BitVec 4) (parity : Bool) :
    State :=
  match (s.site n).flightAt q i with
  | none => s
  | some f =>
    let d := f.desc
    let s := s.leaveFlight n q i f
    let s := s.modSite n fun c =>
      let k := c.queue q
      c.setQueue q (if k.halted then k else { k with halted := true, err := code, errTag := d.tag })
    let s :=
      if code = 6 ∧ d.srcKind = 2 then
        (s.modSite n fun c => { c with sillEcc := eccUncorrectable c.sillEcc }).fault 0x000B (some n)
          (BitVec.ofNat 32 (d.src.toNat / 4194304 % 64)) (BitVec.ofNat 64 (d.src.toNat % 4194304))
      else if code = 6 ∧ d.srcKind = 0 then s.wsLost n d.src.toNat
      else if code = 6 ∧ d.srcKind = 6 then
        s.hostAuthFail (s.site n).hamlet (d.src + BitVec.ofNat 64 (f.moved / 4096 * 4160))
      else s
    if parity then
      s.report 0x0006 (some n) (fieldAt d.srcKind 0 ||| fieldAt d.dstKind 4) d.dst
    else
      s.hwFault n 0x000F (fieldAt code 0 ||| fieldAt (BitVec.ofNat 2 q.val) 4)
        (d.tag.setWidth 64)

/-! ### The router port (R111, R199, R204) -/

/-- Class of a copy at a shared resource: 0 high, 1 normal, 2 low (R27, R111, Table 1.8). -/
def State.copyClass (s : State) (d : CopyDesc) : Nat :=
  match d.prio.toNat with
  | 3 => 0
  | 2 => 1
  | 1 => 2
  | _ => if (s.role = 0 ∧ d.dstKind = 7) ∨ (s.role = 1 ∧ d.srcKind = 7) then 0 else 1

/-- The class a copy is granted in: high once it has waited 4,096 cycles of its core (R111). -/
def State.flightClass (s : State) (n : SiteNo) (f : CopyFlight) : Nat :=
  match f.waitFrom with
  | some c => if 4096 ≤ ((s.site n).cycle - c).toNat then 0 else s.copyClass f.desc
  | none => s.copyClass f.desc

/-- The first copy of a queue that has a request to send, and the request. -/
def State.copyHead (s : State) (n : SiteNo) (q : Fin 4) : Option (Nat × CopyFlight × Packet) :=
  (List.range 4).findSome? fun i =>
    match (s.site n).flightAt q i with
    | some f =>
      if f.txn.isSome then none
      else
        match s.nextPacket n f with
        | some (.ok p) => some (i, f, p)
        | _ => none
    | none => none

/-- The requester of its port that a waiting packet belongs to: a copy engine 0 to 3, or the rest (R204). -/
def State.requester (s : State) (e : PortReq) : Nat :=
  match e.kind with
  | .again _ =>
    (match (s.txnOf e.pkt.srcRtr e.pkt.txn).map Txn.use with
     | some (.copy _ q) => q.val
     | _ => 4)
  | _ => 4

/-- The descriptor of the copy that a request was made for. -/
def State.descOf (s : State) (x : Txn) : Option CopyDesc :=
  match x.use with
  | .copy n q =>
    (((s.site n).queue q).flight.find? fun f => decide (f.txn = some x.txn)).map (·.desc)
  | _ => none

/-- What a requester offers its router port: a packet that waits there, or a copy's next request. -/
inductive Offer where
  | queued (e : PortReq)
  | copy (n : SiteNo) (q : Fin 4) (i : Nat) (p : Packet)
deriving DecidableEq, Repr

/-- The offer of a requester that its port could send now, with its class: responses and what is no copy's are
normal. A core whose clock has stopped offers no copy (R111). DESIGN CHOICE, log entry 94. -/
def State.offer (s : State) (r : Fin 64) (w : Nat) : Option (Nat × Offer) :=
  match s.fab.waiting.find? fun e =>
      decide (e.pkt.srcRtr = r) && decide (s.requester e = w) && s.canSend e.pkt e.kind with
  | some e =>
    let d := (s.txnOf e.pkt.srcRtr e.pkt.txn).bind s.descOf
    some (if w < 4 then (d.map s.copyClass).getD 1 else 1, .queued e)
  | none =>
    if h : w < 4 then
      (siteAtRtr r).bind fun n =>
        if s.clocked n = false then none
        else
          (s.copyHead n ⟨w, h⟩).bind fun x =>
            if s.canSend x.2.2 (.request (.copy n ⟨w, h⟩)) then
              some (s.flightClass n x.2.1, .copy n ⟨w, h⟩ x.1 x.2.2)
            else none
    else none

/-- The requesters of a router's port in round-robin order after the one granted last, with their offers (R111,
R204). -/
def State.offers (s : State) (r : Fin 64) : List (Nat × Nat × Offer) :=
  let last := tget (fun _ => 4) s.fab.portLast r.val
  ([1, 2, 3, 4, 5].map fun k => (last + k) % 5).filterMap fun w => (s.offer r w).map fun o => (w, o)

/-- The port's grant: of the best class, the first in round-robin order (R111). -/
def State.portGrant (s : State) (r : Fin 64) : Option (Nat × Nat × Offer) :=
  (s.offers r).find? fun o => (s.offers r).all fun x => decide (o.2.1 ≤ x.2.1)

/-- What the port grants is injected. -/
def State.sendOffer (s : State) : Offer → State
  | .queued e => s.sendQueued e
  | .copy n q i p =>
    match s.freeTxn p.srcRtr with
    | some k =>
      (s.inject p (.copy n q) k).modSite n fun c => c.modFlight q i fun f =>
        { f with txn := some (BitVec.ofNat 10 k), waitFrom := none }
    | none => s

/-- The copies left at a core's router port have waited since now, or since earlier (R111). -/
def State.markWaits (s : State) (r : Fin 64) : State :=
  match siteAtRtr r with
  | none => s
  | some n =>
    (List.finRange 4).foldl
      (fun s q =>
        match s.copyHead n q with
        | some (i, _, _) => s.modSite n fun c => c.modFlight q i fun f =>
            { f with waitFrom := some (f.waitFrom.getD c.cycle) }
        | none => s) s

/-- A router's source port grants what it can (R111, R202, R204). -/
def State.servePort (s : State) (r : Fin 64) : Nat → State
  | 0 => s.markWaits r
  | k + 1 =>
    match s.portGrant r with
    | some (w, _, o) =>
      let s := s.sendOffer o
      ({ s with fab := { s.fab with portLast := tset (fun _ => 4) s.fab.portLast r.val w } }).servePort r k
    | none => s.markWaits r

/-- A request is handed to its source port (R199, R202). -/
def State.ask (s : State) (p : Packet) (use : TxnUse) : State :=
  (s.queueAt { pkt := p, kind := .request use }).servePort p.srcRtr 5

/-- A response is handed to its source port (R202, R204). -/
def State.respond (s : State) (p : Packet) : State :=
  (s.queueAt { pkt := p, kind := .response }).servePort p.srcRtr 5

/-- A copy's next request is offered to its router port when it awaits none (R199); a request its source port
answers at once ends the copy. DEDUCED, log entry 24. -/
def State.pump (s : State) (n : SiteNo) (q : Fin 4) (i : Nat) : State :=
  match (s.site n).flightAt q i with
  | none => s
  | some f =>
    if f.txn.isSome then s
    else
      match s.nextPacket n f with
      | none => s
      | some (.error st) => s.copyFail n q i (copyCode st) false
      | some (.ok _) => s.servePort (rtrOfSite n) 5

/-- Every copy of a core with no request outstanding injects its next one. -/
def State.pumpSite (s : State) (n : SiteNo) : State :=
  (List.finRange 4).foldl (fun s q => (List.range 4).foldl (fun s i => s.pump n q i) s) s

/-! ### Starting (R104, R105) -/

/-- The source entry of a sill copy allows its start: RELEASED and not asked to free (R104). -/
def Site.sillStart (c : Site) (d : CopyDesc) : Bool :=
  decide (d.srcKind ≠ 2) ||
  (let v := c.entry (d.src.toNat / 4194304 % 64)
   decide (v.st = .released) && !v.freeReq)

/-- The source range lies in the entry's rounded reservation (R104). -/
def Site.sillRange (c : Site) (d : CopyDesc) : Bool :=
  decide (d.srcKind ≠ 2) ||
  decide (d.src.toNat % 4194304 + d.extent d.srcStride ≤ (c.entry (d.src.toNat / 4194304 % 64)).units * 64)

/-- The descriptor at the head of a queue may start (R105). -/
def Site.copyStarts (c : Site) (q : Fin 4) (d : CopyDesc) : Bool :=
  let k := c.queue q
  !k.halted && decide (k.flight.length < 4) && (!d.fence || k.flight.isEmpty) && c.sillStart d

/-- COPY_START (R104, R105, R114, R215). -/
def execCopyStart (site : SiteNo) (q : Fin 4) (t : Word64) (s : State) :
    Host.Outcome State Fault Refusal :=
  let s := s.at t
  let c := s.site site
  let k := c.queue q
  match k.waiting with
  | [] => .next s
  | d :: rest =>
    if c.copyStarts q d = false ∨ s.clocked site = false then .next s
    else
      let i := k.flight.length
      let f : CopyFlight := { desc := d, since := s.tb, done := false, moved := 0, txn := none, buf := [], waitFrom := none }
      let c := c.setQueue q { k with waiting := rest, flight := k.flight ++ [f] }
      let e := d.src.toNat / 4194304 % 64
      let c := if d.srcKind = 2 then c.setEntry e { c.entry e with readers := (c.entry e).readers + 1 }
               else c
      let s := s.setSite site c
      .next (if c.sillRange d then s.pump site q i else s.copyFail site q i 4 false)

/-! ### Moving bytes -/

/-- One sealed block of host data: ciphertext and tag, the counter C, zeros (R440). DESIGN CHOICE, log entry 5. -/
def sealBlock (key count : Nat) (plain : List Byte) : List Byte :=
  let p := plain ++ zeros (4096 - plain.length)
  (List.range 4112).map (fun i => Config.sealByte key count i p) ++ leBytes 8 count ++ zeros 40

/-- Bytes laid out as n sealed blocks from counter value count (R440). DEDUCED, log entry 25. -/
def sealBlocks (key : Nat) : Nat → Nat → List Byte → List Byte
  | 0, _, _ => []
  | n + 1, count, bs => sealBlock key count (bs.take 4096) ++ sealBlocks key n (count + 1) (bs.drop 4096)

/-- Bytes are written to host memory for a scope, through a ring's port (R311, R440). DEDUCED, log entry 25. -/
def State.hostPut (s : State) (o : Option HamletNo) (r : RingNo) (addr : Word64) (bs : List Byte) : State :=
  match o with
  | some h =>
    if s.sealed o then
      let v := s.hamlet h
      let n := (bs.length + 4095) / 4096
      let s := s.setHamlet h { v with blockCount := v.blockCount + BitVec.ofNat 64 n }
      s.toHost r addr (sealBlocks (v.hostKey.getD 0) n (v.blockCount.toNat + 1) bs)
    else s.toHost r addr bs
  | none => s.toHost r addr bs

/-- Granary bytes are written, and their mirror where its pages are VALID (R100). -/
def State.granPut (s : State) (n : SiteNo) (a : Nat) (bs : List Byte) : State :=
  let m := (s.site n).mirror
  let base := mirrorFirst m * 8388608
  let s := s.modSite n fun c => c.granWrite a bs
  if mirrorValid m = false then s
  else
    (pagesOf (base + a) bs.length).foldl
      (fun s p =>
        let lo := max (p * 8388608) (base + a)
        let hi := min ((p + 1) * 8388608) (base + a + bs.length)
        if (s.page p).valid then s.ddrWrite lo ((bs.drop (lo - (base + a))).take (hi - lo)) else s) s

/-- The link packet of a remote request (Table 9.5). -/
def State.toLink (s : State) (kind : BitVec 4) (d : CopyDesc) (addr : Nat) (data : List Byte) : LinkPkt :=
  { opc := 1, vc := 0, status := 0, len := BitVec.ofNat 16 (data.length / 64), srcDev := s.id.dev,
    dstDev := d.device, dstKind := if kind = 5 then 0 else 1, lcore := d.core, rtxn := 0,
    addr := BitVec.ofNat 64 addr, group := 0, contrib := 0, fmt := false, data := data }

/-- Bytes of a copy's source in its core, or of the host data brought for it. -/
def Site.copyRead (c : Site) (d : CopyDesc) (data : List Byte) (from_ a len : Nat) : List Byte :=
  if d.srcKind = 6 then (data.drop from_).take len else c.localRead d.srcKind a len

/-- Bytes are written at a copy's destination in its core, or to the host. -/
def State.copyWrite (s : State) (n : SiteNo) (d : CopyDesc) (a : Nat) (bs : List Byte) : State :=
  match d.dstKind.toNat with
  | 0 => s.modSite n fun c => c.wsWrite a bs
  | 1 => s.granPut n a bs
  | 6 => s.hostPut (s.site n).hamlet (s.launchRing n) (BitVec.ofNat 64 a) bs
  | _ => s

/-- Rows from the byte reached to a last one, in ascending order (R107). DEDUCED, log entry 24. -/
def State.moveRows (s : State) (n : SiteNo) (d : CopyDesc) (data : List Byte) (stop : Nat) : Nat → Nat → State
  | 0, _ => s
  | k + 1, moved =>
    if stop ≤ moved then s
    else
      let (sa, da, left) := d.place moved
      let len := min left (stop - moved)
      (s.copyWrite n d da ((s.site n).copyRead d data moved sa len)).moveRows n d data stop k (moved + len)

/-- Of a packet that failed its parity check, the words that passed are written (R184). -/
def State.moveGood (s : State) (n : SiteNo) (d : CopyDesc) (b : BadPacket) : State :=
  let (sa, da, left) := d.place b.at_
  let bs := (s.site n).copyRead d b.data b.at_ sa (min left b.span)
  s.putWords bs b.bad fun s o w => s.copyWrite n d (da + o) w

/-- The ECC of a copy's reads of its core's own stores (R97, R99, R122, R186): a corrected word is counted; an
uncorrectable granary word starts a refill. -/
def State.copyEcc (s : State) (n : SiteNo) (kind : BitVec 4) (o : CopyObs) : State :=
  match kind.toNat, o.ecc with
  | 0, .corrected => s.wsFixed n o.off.toNat
  | 1, .corrected => s.granFixed n o.off.toNat
  | 1, .uncorrectable => s.modSite n fun c => c.needRefill o.off.toNat
  | 2, .corrected => s.sillFixed n o.off.toNat
  | _, _ => s

/-! ### Completion (R106) -/

/-- A descriptor completes: its token and bell in the same cycle, its sill source freed when it asks
(R104, R106, R120). -/
def State.copyDone (s : State) (n : SiteNo) (q : Fin 4) (f : CopyFlight) : State :=
  let d := f.desc
  let e := d.src.toNat / 4194304 % 64
  let s := if d.srcKind = 2 ∧ d.sillFree = true then
      s.modSite n fun c => c.setEntry e { c.entry e with freeReq := true }
    else s
  let s := s.leaveFlight n q 0 f
  let s := s.modSite n fun c =>
    let c := if d.srcKind = 2 ∧ d.sillFree = true then c.sillTryFree e else c
    let k := c.queue q
    let c := c.setQueue q { k with completed := k.completed + 1 }
    if d.sigEn then c.signal d.sigTok 1 else c
  if d.bellEn then s.coreBell n ((s.site n).arrive d.bell) else s

/-- COPY_COMPLETE (R106, R113): the oldest descriptor in flight ends. One that moves by requests ends once
every one of them is answered: before, the command brings the data of its host source. An uncorrectable word of
its source ends it with SOURCE_UNCORRECTABLE, one of the granary holds it back for the refill (R97, R99, R186).
DEDUCED, log entry 24. -/
def execCopyComplete (site : SiteNo) (q : Fin 4) (obs : CopyObs) (s : State) :
    Host.Outcome State Fault Refusal :=
  match (s.site site).flightAt q 0 with
  | none => .next s
  | some f =>
    let d := f.desc
    if s.clocked site = false then .next s
    else if d.total ≤ f.moved then .next ((s.copyEcc site d.srcKind obs).copyDone site q f)
    else if s.hostEnd site d ≠ 0 then .next (s.copyFail site q 0 (copyCode (s.hostEnd site d)) false)
    else if d.byRequests then
      if d.srcKind = 6 ∧ f.buf = [] ∧ f.txn.isNone then
        .next ((s.modSite site fun c => c.modFlight q 0 fun f =>
          { f with buf := obs.data.drop f.moved }).pump site q 0)
      else .next s
    else if d.srcKind = 1 ∧ (s.site site).refilling d.src.toNat (d.extent d.srcStride) = true then .next s
    else if obs.ecc = .uncorrectable ∧ d.srcKind.toNat ≤ 2 then
      .next (if d.srcKind = 1 then s.copyEcc site d.srcKind obs else s.copyFail site q 0 6 false)
    else
      .next (((s.copyEcc site d.srcKind obs).moveRows site d obs.data d.total d.rows.toNat f.moved).copyDone
        site q f)

/-- COPY_FAIL (R113, R184): the oldest descriptor in flight fails with a code of Table 4.9. At the third parity
failure of a packet every packet before it is written, and of it the words that passed. -/
def execCopyFail (site : SiteNo) (q : Fin 4) (code : BitVec 4) (parity : Option BadPacket) (s : State) :
    Host.Outcome State Fault Refusal :=
  match parity, (s.site site).flightAt q 0 with
  | some b, some f =>
    let s := if f.desc.byRequests then s
      else (s.moveRows site f.desc b.data (min b.at_ f.desc.total) f.desc.rows.toNat f.moved).moveGood site
        f.desc b
    .next (s.copyFail site q 0 9 true)
  | _, _ =>
    if code = 0 ∨ 9 < code.toNat then .next s else .next (s.copyFail site q 0 code false)

/-- Time limit of a descriptor in ticks (R114). -/
def CopyDesc.limit (d : CopyDesc) : Nat :=
  if d.srcKind.toNat ≤ 4 ∧ d.dstKind.toNat ≤ 4 then 1000000 else 10000000

/-- Since when a descriptor's limit runs: its start, or the last 64 KiB more at its destination, which requests
show where it moves by them (R114). -/
def CopyFlight.stalledFrom (f : CopyFlight) (o : StallObs) : Word64 :=
  match o.moved with
  | some t => if f.desc.byRequests = false ∧ f.since < t then t else f.since
  | none => f.since

/-! ### Scrub, refresh and refill -/

/-- PS_SCRUB (R88): one bundle is checked and the scrub position moves on. An uncorrectable bundle is never
issued: the core stops now when it would be issued next, else when its fetch comes. -/
def execPsScrub (site : SiteNo) (ecc : EccObs) (s : State) : Host.Outcome State Fault Refusal :=
  if s.clocked site = false then .next s
  else
    let a := (s.site site).psScrubAt
    let s := s.modSite site fun c => { c with psScrubAt := c.psScrubAt + 1 }
    match ecc with
    | .clean => .next s
    | .corrected => .next (s.psFixed site a)
    | .uncorrectable =>
      let s := s.modSite site fun c => { c with psBad := a :: c.psBad.filter fun b => decide (b ≠ a) }
      if (s.site site).seq = .running ∧ (s.site site).pc = a then .next (s.psLost site a)
      else .next (s.modSite site fun c => { c with psEcc := eccUncorrectable c.psEcc })

/-- WS_SCRUB (R97). -/
def execWsScrub (site : SiteNo) (off : BitVec 28) (ecc : EccObs) (s : State) :
    Host.Outcome State Fault Refusal :=
  if s.clocked site = false then .next s
  else
    match ecc with
    | .clean => .next s
    | .corrected => .next (s.wsFixed site off.toNat)
    | .uncorrectable => .next (s.wsLost site off.toNat)

/-- GRANARY_REFRESH (R99): every refresh read is a check; an uncorrectable word starts a refill of its
4 KiB block. -/
def execGranaryRefresh (site : SiteNo) (off : BitVec 30) (ecc : EccObs) (s : State) :
    Host.Outcome State Fault Refusal :=
  if s.isDark (fieldOfSite site) then .next s
  else
    match ecc with
    | .clean => .next s
    | .corrected => .next (s.granFixed site off.toNat)
    | .uncorrectable => .next (s.modSite site fun c => c.needRefill off.toNat)

/-- GRANARY_REFILL_DONE (R99, R226, R235): the block takes its mirror's bytes, or is lost. -/
def execGranaryRefillDone (site : SiteNo) (off : BitVec 30) (mirror : EccObs) (s : State) :
    Host.Outcome State Fault Refusal :=
  let c := s.site site
  let b := off.toNat / 4096
  if c.refills.contains b = false then .next s
  else
    let a := mirrorFirst c.mirror * 8388608 + b * 4096
    let c' := { c with refills := c.refills.filter fun x => decide (x ≠ b) }
    let covered := mirrorValid c.mirror && decide (b * 4096 < mirrorPages c.mirror * 8388608) &&
      (s.page (a / 8388608)).valid
    let s := if covered then s.ddrEcc (mirrorFirst c.mirror * 8388608 + off.toNat) mirror else s
    if !covered || decide (mirror = .uncorrectable) then
      .next ((s.setSite site c').hwFault site 0x000D 0 (BitVec.ofNat 64 (b * 4096)))
    else
      let bs := s.ddrRead a 4096
      let c' := (c'.granWrite (b * 4096) bs).modEngs fun g => { g with latchRefill := false }
      let s := (s.setSite site c').fault 0x000C (some site) 0 (BitVec.ofNat 64 (b * 4096))
      .next (s.pumpSite site)

end Sys2Proof.Machine
end

