-- ==== Sys2Proof/Machine/Sfu.lean ====
section
/-!
DEFINITION. Machine/Sfu.lean: the special functions of the vector unit and their error bounds (R92, Table 4.3).

A real number is held here as an integer at scale 2^400; the series below leave an error under 2^-380 of
the largest term, far below the unit in the last place of any binary32 result.
-/

namespace Sys2Proof.Machine

/-- m × 2^e at scale 2^400. -/
def fixOf (m : Nat) (e : Int) : Nat := m * 2 ^ (e + 400).toNat

/-- k terms of the series of exp t from the term t^i / i!. -/
def expSum (t : Nat) : Nat → Nat → Nat → Nat
  | 0, _, _ => 0
  | k + 1, i, x => x + expSum t k (i + 1) (x * t / 2 ^ 400 / (i + 1))

/-- k terms of the series of artanh z from the term z^i / i, z² given. -/
def artanhSum (zz : Nat) : Nat → Nat → Nat → Nat
  | 0, _, _ => 0
  | k + 1, i, p => p / i + artanhSum zz k (i + 2) (p * zz / 2 ^ 400)

/-- ln of a number from 1 to 2: twice artanh ((m − 1) / (m + 1)). -/
def lnFix (m : Nat) : Nat :=
  let z := (m - 2 ^ 400) * 2 ^ 400 / (m + 2 ^ 400)
  2 * artanhSum (z * z / 2 ^ 400) 130 1 z

/-- exp of x or of −x. Below −200 every result lies under 2^-280, as at −200. -/
def expFix (neg : Bool) (x : Nat) : Nat :=
  let ln2 := lnFix (2 ^ 401)
  let x := min x (200 * 2 ^ 400)
  let y := expSum (x % ln2) 100 0 (2 ^ 400) * 2 ^ (x / ln2)
  if neg then 2 ^ 800 / y else y

/-- k Newton steps to the square root of n. -/
def sqrtSteps (n : Nat) : Nat → Nat → Nat
  | 0, y => y
  | k + 1, y => sqrtSteps n k ((y + n / y) / 2)

/-- The value of a special function at ±m × 2^e, m not 0 where the function has a special input there
(Table 4.3; the codes are those of VSFU). -/
def sfuFix (code : Nat) (neg : Bool) (m : Nat) (e : Int) : Int :=
  let one := 2 ^ 400
  let x := fixOf m e
  let sign (v : Nat) : Int := if neg then -Int.ofNat v else Int.ofNat v
  match code with
  | 0 => Int.ofNat (expFix neg x)
  | 1 => Int.ofNat (lnFix (m * 2 ^ (400 - m.log2))) + (Int.ofNat m.log2 + e) * Int.ofNat (lnFix (2 ^ 401))
  | 2 => sign (one * one / x)
  | 3 =>
    let n := one ^ 3 / x
    Int.ofNat (sqrtSteps n 16 (2 ^ (n.log2 / 2 + 1)))
  | 4 =>
    let u := expFix true (2 * x)
    sign (one * (one - u) / (one + u))
  | _ =>
    let u := expFix true x
    Int.ofNat (one * (if neg then u else one) / (one + u))

/-- The unit in the last place of binary32 at a value. -/
def ulpAt (v : Nat) : Nat := 2 ^ (max v.log2 (400 - 126) - 23)

/-- The largest error of each function, in units in the last place (Table 4.3). -/
def sfuUlps (code : Nat) : Nat := if code = 2 ∨ code = 3 then 1 else 2

/-- A finite binary32 result lies within the largest error of the true value v (R92). -/
def sfuNear (code : Nat) (v : Int) (r : BitVec 32) : Bool :=
  match fp r with
  | .fin neg m e =>
    let x : Int := if neg then -Int.ofNat (fixOf m e) else Int.ofNat (fixOf m e)
    decide ((x - v).natAbs ≤ sfuUlps code * ulpAt v.natAbs + 2 ^ 180)
  | _ => false

/-- The result of a special function whose true value is v: the free one where it keeps the error bound of
R92, else v rounded; a value above the largest finite one is free, since Table 4.3 gives one for exp only.
DESIGN CHOICE, log entry 4. -/
def sfuResult (code : Nat) (a : BitVec 32) (v : Int) : BitVec 32 :=
  let r := Config.sfu (BitVec.ofNat 4 code) a
  if 2 ^ 528 ≤ v.natAbs ∨ sfuNear code v r = true then r
  else fpOf (.fin (decide (v < 0)) v.natAbs (-400))

/-- A special function (Table 4.3): its special inputs here, every other result free inside the error
bound of R92. The codes are those of VSFU. DESIGN CHOICE, log entry 4. -/
def fpSfu (code : Nat) (a : BitVec 32) : BitVec 32 :=
  let one : BitVec 32 := 0x3F800000
  match fp a with
  | .nan => fpNan
  | .inf neg =>
    match code with
    | 0 => if neg then 0 else a
    | 1 => if neg then fpNan else a
    | 2 => fpZero neg
    | 3 => if neg then fpNan else 0
    | 4 => if neg then 0xBF800000 else one
    | _ => if neg then 0 else one
  | .fin neg m e =>
    if code = 0 ∧ neg = false ∧ 0x42B17218 ≤ a then 0x7F800000
    else if m = 0 ∧ code = 1 then 0xFF800000
    else if m = 0 ∧ (code = 2 ∨ code = 3) then (if neg then 0xFF800000 else 0x7F800000)
    else if neg = true ∧ (code = 1 ∨ code = 3) then fpNan
    else sfuResult code a (sfuFix code neg m e)

end Sys2Proof.Machine
end

