-- ==== Sys2Proof/Machine/Vector.lean ====
section
/-!
DEFINITION. Machine/Vector.lean: the vector queue and the vector unit (R89 to R94, R148).
-/

namespace Sys2Proof.Machine

/-! ### Loads and stores with scaling (R52, R89, R497) -/

/-- Elements per scale block: 32 with MX, 16 with KX. -/
def sclBlock (scl : Nat) : Nat := if scl = 1 then 32 else 16

/-- The scale of element i of loaded bytes (R34, R36). DEDUCED, log entry 21. -/
def loadScale (scl : Nat) (c : Val) (scales : Nat → Byte) (i : Nat) : Val :=
  if scl = 1 then e8m0 (scales (i / 32)).toNat
  else if scl = 2 then (Fmt.e4m3.decode (scales (i / 16)).toNat).mul c
  else Val.one

/-- Lane i of a VLD (R89). An unscaled FP32 element keeps its bits. DEDUCED, log entry 21. -/
def loadLane (f : Fmt) (scl : Nat) (c : Val) (get : Nat → Byte) (i : Nat) : BitVec 32 :=
  let code := f.elemAt get i
  if f = .fp32 ∧ scl = 0 then BitVec.ofNat 32 code
  else fpOf ((f.decode code).mul (loadScale scl c (fun k => get (f.bytes 2048 + k)) i))

/-- What a store produces: element codes, scale bytes, and what VEC_FLUSH takes. -/
structure Stored where
  codes : List Nat
  scales : List Byte
  sat : Bool
  nan : Bool
deriving DecidableEq, Repr

/-- One block of a quantising store (R52, R497). In a block whose scale is stored as NaN the other elements, and
SATURATED, are those of the scale that the block would have had. DEDUCED, log entry 92. -/
def storeBlock (f : Fmt) (scl : Nat) (c : Val) (rne nonsat : Bool) (vs : List Val) : Stored :=
  let code := if scl = 1 then mxCode f vs else kxCode f c vs
  let scale := if scl = 1 then e8m0 code else (Fmt.e4m3.decode code).mul c
  let qs := vs.map fun v => f.quant rne nonsat v scale
  let kept := if f.nanBlock vs then (if scl = 1 then 255 else 0x7F) else code
  { codes := qs.map (·.code), scales := [BitVec.ofNat 8 kept], sat := qs.any (·.sat), nan := qs.any (·.nan) }

/-- Consecutive groups of n elements. -/
def groups (n : Nat) (vs : List Val) : List (List Val) :=
  (List.range (vs.length / n)).map fun i => (vs.drop (n * i)).take n

/-- A VST of a register's lanes (R52, R148). An unscaled FP32 store is no conversion: each lane keeps its bits,
a NaN's and −0's too. DEDUCED, log entry 92. -/
def storeLanes (f : Fmt) (scl : Nat) (c : Val) (rne nonsat : Bool) (ls : List (BitVec 32)) : Stored :=
  if scl = 0 then
    if f = .fp32 then { codes := ls.map (·.toNat), scales := [], sat := false, nan := false }
    else
      let qs := ls.map fun l => f.conv rne nonsat (fp l)
      { codes := qs.map (·.code), scales := [], sat := qs.any (·.sat), nan := qs.any (·.nan) }
  else
    let bs := (groups (sclBlock scl) (ls.map fp)).map (storeBlock f scl c rne nonsat)
    { codes := bs.flatMap (·.codes), scales := bs.flatMap (·.scales), sat := bs.any (·.sat),
      nan := bs.any (·.nan) }

/-! ### WPS blocks and tiles in the working store -/

/-- WPS blocks at an address. -/
def Site.wpsAt (c : Site) (a : Word64) (n : Nat) : List Wps :=
  (List.range n).map fun i => wpsOf (c.wsRead (a.toNat + 264 * i) 264)

/-- A result for every member of a list, or none when one has none. DEDUCED, log entry 15. -/
def allSome {α : Type} : List (Option α) → Option (List α)
  | [] => some []
  | none :: _ => none
  | some a :: t => (allSome t).map (a :: ·)

/-- The transpose of a tile's bytes (Table 5.11). -/
def xpose (rows cols w : Nat) (bs : List Byte) : List Byte :=
  (List.range cols).flatMap fun j => (List.range rows).flatMap fun i =>
    (bs.drop ((i * cols + j) * w)).take w

/-! ### What each operation does -/

/-- What a vector operation comes to: a refusal with its exception, or the site with its results. -/
inductive VecDone where
  | refuse (code : BitVec 6)
  | done (c : Site)

/-- The token of an operation that writes the working store (R148). -/
def modTok (m : BitVec 30) : Option (BitVec 6) := tokOf (m.getLsbD 17) (m.extractLsb' 11 6)

/-- A register's lanes computed one by one. -/
def Site.lanewise (c : Site) (vd : BitVec 5) (f : Nat → BitVec 32) : Site :=
  c.setV vd ((List.range 2048).map f)

/-- The value an awaited register gets (R128). -/
def fillPend (rd : BitVec 5) (v : Word64) : List PendW → List PendW
  | [] => []
  | p :: ps => if p.rd = rd ∧ p.value = none then { p with value := some v } :: ps else p :: fillPend rd v ps

/-- An awaited register of the site gets its value. -/
def Site.answer (c : Site) (rd : BitVec 5) (v : Word64) : Site := { c with pend := fillPend rd v c.pend }

/-- Lane 0 of a reduction over lanes 0 to n − 1 (R91). -/
def reduceLanes (code n : Nat) (ls : List (BitVec 32)) : BitVec 32 :=
  let unit : BitVec 32 := match code with
    | 0 => 0
    | 1 => 0xFF800000
    | _ => 0x7F800000
  let f := match code with
    | 0 => fpAdd
    | 1 => fpPick true
    | _ => fpPick false
  match treeReduce f 11 (ls.zipIdx.map fun p => if p.2 < n then p.1 else unit) with
  | r :: _ => r
  | [] => unit

/-- The effect of a vector operation at its issue (Table 5.11). DEDUCED, log entry 15. -/
def Site.vecDo (c : Site) (v : VecEntry) (op : VecOp) (f : VecF) : VecDone :=
  let a := c.lane f.va.toNat
  let b := c.lane f.vb.toNat
  let r := c.lane f.vc.toNat
  let m := f.mod
  let fmt := vecFmt (modFmt m) (modScl m)
  let rne := !m.getLsbD 19
  let nonsat := m.getLsbD 18
  let cT := fp (v.sval.extractLsb' 0 32)
  let n := modBlocks m
  let write (c : Site) (bs : List Byte) : Site := (c.wsWrite v.addr.toNat bs).signalOpt (modTok m)
  match op with
  | .vld => .done (c.lanewise f.vd
      (loadLane fmt (modScl m) cT fun k => tget (fun _ => 0) c.ws (v.addr.toNat + k)))
  | .vst =>
    let s := storeLanes fmt (modScl m) cT rne nonsat (c.vreg f.vd)
    .done { write c (fmt.pack s.codes ++ s.scales) with vecFlush := flushTake c.vecFlush s.sat s.nan 0 }
  | .vfma => .done (c.lanewise f.vd fun i => fpFma (a i) (b i) (r i))
  | .vadd => .done (c.lanewise f.vd fun i => fpAdd (a i) (b i))
  | .vsub => .done (c.lanewise f.vd fun i => fpSub (a i) (b i))
  | .vmul => .done (c.lanewise f.vd fun i => fpMul (a i) (b i))
  | .vmin => .done (c.lanewise f.vd fun i => fpPick false (a i) (b i))
  | .vmax => .done (c.lanewise f.vd fun i => fpPick true (a i) (b i))
  | .vcmp => .done (c.lanewise f.vd fun i =>
      if fpCmp (m.extractLsb' 0 3).toNat (a i) (b i) then 1 else 0)
  | .vsel => .done (c.lanewise f.vd fun i => if r i ≠ 0 then a i else b i)
  | .vsfu => .done (c.lanewise f.vd fun i => fpSfu (m.extractLsb' 0 3).toNat (a i))
  | .vred =>
    let x := reduceLanes (m.extractLsb' 0 2).toNat ((m.extractLsb' 2 11).toNat + 1) (c.vreg f.va)
    .done (c.lanewise f.vd fun i => if i = 0 then x else 0)
  | .vbcast =>
    let x := if m.getLsbD 0 then v.sval.extractLsb' 0 32 else a 0
    .done (c.lanewise f.vd fun _ => x)
  | .vmovs => .done (c.answer f.vd ((a (m.extractLsb' 0 11).toNat).setWidth 64))
  | .vwadd =>
    match allSome (List.zipWith Wps.add (c.wpsAt v.addrA n) (c.wpsAt v.addrB n)) with
    | some ws => .done (write c (ws.flatMap Wps.bytes))
    | none => .refuse 0x05
  | .vwanch =>
    match allSome ((c.wpsAt v.addrA n).map fun w => w.reanchor (v.sval.extractLsb' 0 8)) with
    | some ws => .done (write c (ws.flatMap Wps.bytes))
    | none => .refuse 0x04
  | .vwcvt =>
    let f1 := vecFmt (modFmt m) 0
    let c2 := fp (v.sval.extractLsb' 32 32)
    let ws := c.wpsAt v.addrA n
    let cs := ws.flatMap fun w => (w.xs.zip (tagSpecials w.tag)).map fun p =>
      f1.convWord rne nonsat p.1 p.2 (tagAnchor w.tag) cT c2
    let mx := (ws.map fun w => tagFlush w.tag).foldl maxF 0
    .done { write c (f1.pack (cs.map (·.code))) with
      vecFlush := flushTake c.vecFlush (cs.any (·.sat)) (cs.any (·.nan)) mx }
  | .vxpose =>
    let w := xpWidth m
    let k := xpRows m * xpCols m * w
    .done (write c (xpose (xpRows m) (xpCols m) w (c.wsRead v.addrA.toNat k)))

/-- Operations whose lanes carry a residue check (R93): those that multiply or add in a lane, compare among them,
and the special functions. Conversions, the scaling of VLD and VST, VWADD's wide sums and VSEL are not among
them. DEDUCED, log entry 93. -/
def VecEntry.checked (v : VecEntry) : Bool :=
  match v.item with
  | .vec op _ => [VecOp.vfma, .vadd, .vsub, .vmul, .vmin, .vmax, .vcmp, .vsfu, .vred].contains op
  | _ => false

/-- The operation at the head of the vector queue is refused (R55, R56, R94, R157). DEDUCED, log entry 15. -/
def State.refuseVec (s : State) (n : SiteNo) (v : VecEntry) (code : BitVec 6) : State :=
  let s := s.modSite n fun c =>
    { c with vecQ := [], vecHalted := true, vecFlush := anchorFlag code c.vecFlush }
  s.raise n code v.slot v.bundle 0x100

/-- An operation is performed. -/
def State.vecPerform (s : State) (n : SiteNo) (v : VecEntry) : State :=
  let c := s.site n
  match v.item with
  | .lds rd => s.setSite n (c.answer rd (BitVec.ofNat 64 (leNat (c.wsRead v.addr.toNat 8))))
  | .sts x => s.setSite n (c.wsWrite v.addr.toNat (leBytes 8 x.toNat))
  | .vec op f =>
    match c.vecDo v op f with
    | .done c => s.setSite n c
    | .refuse code => s.refuseVec n v code

/-- VECTOR_ISSUE (R93, R97, R148): the operation at the head of the vector queue issues. A residue that fails
once is a corrected event; one that fails twice, or an uncorrectable working-store word, ends the
operation (R158). -/
def execVectorIssue (site : SiteNo) (residueFails : Fin 3) (ecc : EccObs) (errOff : BitVec 28)
    (s : State) : Host.Outcome State Fault Refusal :=
  if s.clocked site = false then .next s
  else
    let c := s.site site
    match c.vecQ with
    | [] => .next s
    | v :: rest =>
      if c.vecHalted || c.quarantined then .next s
      else
        let s := s.modSite site fun c => { c with vecQ := rest }
        if ecc = .uncorrectable then .next (s.wsLost site errOff.toNat)
        else if v.checked && decide (residueFails = 2) then .next (s.hwFault site 0x000E 2 0)
        else
          let s := s.vecPerform site v
          let s := if v.checked && decide (residueFails = 1) then s.fault 0x000E (some site) 1 0 else s
          .next (if ecc = .corrected then s.wsFixed site errOff.toNat else s)

end Sys2Proof.Machine
end

