-- ==== Sys2Proof/Machine/Reduce.lean ====
section
/-!
DEFINITION. Machine/Reduce.lean: sums of contributions (R55, R57, R212) and the link-port reducers
(10_bells_collectives.md, R297 to R300).
-/

namespace Sys2Proof.Machine

/-! ### Sums -/

/-- WPS blocks of a contribution: 16 words to a tag. -/
def wpsBlocks : List (BitVec 128) → List (BitVec 64) → List Wps
  | _, [] => []
  | xs, t :: ts => { xs := xs.take 16, tag := t } :: wpsBlocks (xs.drop 16) ts

/-- A contribution of WPS blocks. -/
def redOfBlocks (bs : List Wps) : RedData := .wps (bs.flatMap (·.xs)) (bs.map (·.tag))

/-- The bytes of a contribution or a sum (R54). -/
def redBytes : RedData → List Byte
  | .wps xs ts => (wpsBlocks xs ts).flatMap Wps.bytes
  | .fp32 ws => ws.flatMap fun w => leBytes 4 w.toNat

/-- Length and format of two contributions agree (R213). -/
def redAlike : RedData → RedData → Bool
  | .wps xs ts, .wps ys us => decide (xs.length = ys.length) && decide (ts.length = us.length)
  | .fp32 ws, .fp32 vs => decide (ws.length = vs.length)
  | _, _ => false

/-- Two alike contributions added: WPS under R55, none for unequal anchors; FP32 under R57. -/
def redAdd : RedData → RedData → Option RedData
  | .wps xs ts, .wps ys us =>
    (allSome (List.zipWith Wps.add (wpsBlocks xs ts) (wpsBlocks ys us))).map redOfBlocks
  | .fp32 ws, .fp32 vs => some (.fp32 (List.zipWith fpAdd ws vs))
  | _, _ => none

/-- Contributions added in order. -/
def redSum : List RedData → Option RedData
  | [] => none
  | d :: ds => ds.foldl (fun a x => a.bind fun v => redAdd v x) (some d)

/-- Units of 512 B that a slot takes (R211). DEDUCED, log entry 35. -/
def redUnits (d : RedData) (contributors : Nat) : Nat :=
  match d with
  | .wps _ _ => 13
  | .fp32 _ => contributors

/-! ### Link-port reducers -/

/-- Contributions a context's slot expects (R298). -/
def TreeCtx.expected (t : TreeCtx) : Nat := if t.mode = 2 then 1 else t.nchild.toNat + 1

/-- Place of a contribution in the FP32 order: local first, then the children by link (R298). -/
def redRank : RedFrom → Nat
  | .local_ => 0
  | .uplink => 0
  | .child l => l.val + 1

/-- An entry inserted by its rank. -/
def insertRank {α : Type} (rank : α → Nat) (x : α) : List α → List α
  | [] => [x]
  | y :: ys => if rank x < rank y then x :: y :: ys else y :: insertRank rank x ys

/-- The context expects a contribution from here (R298). DESIGN CHOICE, log entry 100. -/
def TreeCtx.takes (t : TreeCtx) (src : RedFrom) : Bool :=
  match src with
  | .local_ => decide (t.mode ≠ 2) || t.root
  | .child l => decide (t.mode ≠ 2) && t.children.getLsbD l.val
  | .uplink => decide (t.mode = 2) && !t.root

/-- The open reducer slot of a context and address. -/
def State.rslot (s : State) (tc : Fin 64) (addr : Word64) : Option RSlot :=
  s.coll.slots.find? fun x => decide (x.tc = tc) && decide (x.addr = addr)

/-- A reducer slot becomes v, or is freed. -/
def State.setRslot (s : State) (tc : Fin 64) (addr : Word64) (v : Option RSlot) : State :=
  let rest := s.coll.slots.filter fun x => !(decide (x.tc = tc) && decide (x.addr = addr))
  { s with coll := { s.coll with slots := match v with | some x => rest ++ [x] | none => rest } }

/-- Units in use in the combine buffer of a field's reducer, of 2,048 (section 10.5). DEDUCED, log entry 35. -/
def State.redUsed (s : State) (home : FieldNo) : Nat :=
  ((s.coll.slots.filter fun x => decide ((s.tree x.tc).home = home)).map fun x =>
    match x.held with
    | (_, d) :: _ => redUnits d (s.tree x.tc).expected
    | [] => 0).sum

/-- GROUP of a tree context: GROUP[9:6] is 0b1111 (R297). DEDUCED, log entry 28. -/
def treeGroupOf (tc : Fin 64) : BitVec 16 := BitVec.ofNat 16 (0x3C0 + tc.val)

/-- A link packet of a context's data (Table 9.5). DEDUCED, log entry 28. -/
def State.treePkt (s : State) (t : TreeCtx) (opc : BitVec 8) (dst : BitVec 12) (addr : Word64)
    (rtxn : BitVec 16) (group : BitVec 16) (data : List Byte) : LinkPkt :=
  { opc := opc, vc := 0, status := 0, len := BitVec.ofNat 16 (data.length / 64), srcDev := s.id.dev,
    dstDev := dst, dstKind := 3, lcore := ⟨t.lcore.toNat, t.lcore.isLt⟩, rtxn := rtxn, addr := addr,
    group := group, contrib := 0, fmt := t.fmt, data := data }

/-- Bytes count towards the present use of a context; with LENGTH reached DONE_BELL is rung (R299). DEDUCED, log entry 85. -/
def State.treeBytes (s : State) (tc : Fin 64) (n : Nat) : State :=
  let t := s.tree tc
  if t.doneBytes + n < t.length.toNat then s.setTree tc { t with doneBytes := t.doneBytes + n }
  else
    let s := s.setTree tc { t with doneBytes := 0 }
    if t.doneEn then
      s.sendBell (s.linkPort t.home) .unit
        { op := 0, dev := none, bell := t.doneBell, amount := 1, instant := 0, tag := t.owner }
    else s

/-- The parent has accepted a sum: of a REDUCE the bytes count towards LENGTH; an ALLREDUCE counts what is
written (R299). DEDUCED, log entry 85. -/
def State.sumTaken (s : State) (tc : Fin 64) (n : Nat) : State :=
  if (s.tree tc).mode = 1 then s else s.treeBytes tc n

/-- The router of a context's reducer has a route to the bundle of a link (R215, R298); the way back is the same. -/
def State.homeWay (s : State) (t : TreeCtx) (l : LinkNo) : Bool :=
  s.reach (s.linkPort t.home).1 (s.linkPort (fieldOfLink l)).1

/-- A device writes what it receives or sums to (LCORE, DST_ADDR); what the core's shutter or store
refuses, or no route reaches, is told (R215, R299, R300). -/
def State.treeWrite (s : State) (tc : Fin 64) (addr : Word64) (bs : List Byte) : State :=
  let t := s.tree tc
  let lc : LCoreNo := ⟨t.lcore.toNat, t.lcore.isLt⟩
  let st := s.lcoreCode t.owner lc addr.toNat bs.length
  match s.siteOf lc with
  | some n =>
    if s.reach (s.linkPort t.home).1 (rtrOfSite n) = false then s.tell 0x000F none 8 addr
    else if st = 0 then (s.modSite n fun c => c.wsWrite addr.toNat bs).treeBytes tc bs.length
    else s.tell 0x000F none ((copyCode st).setWidth 32) addr
  | none => s.tell 0x000F none 8 addr

/-- The data is sent as WRITE packets over every child link (R299); a link that no route reaches is told. -/
def State.treeSpread (s : State) (tc : Fin 64) (addr : Word64) (bs : List Byte) : State :=
  let t := s.tree tc
  ((List.finRange 96).filter fun l => t.children.getLsbD l.val).foldl
    (fun s l =>
      if s.homeWay t l then s.sendLink l (s.treePkt t 1 (s.link l).peerDev addr 0 (treeGroupOf tc) bs)
      else s.tell 0x000F none 8 addr) s

/-- Data that comes down the tree is written and sent on (R299). -/
def State.treeDown (s : State) (tc : Fin 64) (addr : Word64) (bs : List Byte) : State :=
  (s.treeWrite tc addr bs).treeSpread tc addr bs

/-- A contributor is answered by its source: over its link, or on the die by the root that waits. -/
def State.redAnswer (s : State) (tc : Fin 64) (addr : Word64) (status : BitVec 4) (src : RedFrom) : State :=
  let t := s.tree tc
  let pkt (dst : BitVec 12) : LinkPkt := { s.treePkt t 6 dst addr 0 (treeGroupOf tc) [] with vc := 3, status := status }
  match src with
  | .local_ => s
  | .child l => s.sendLink l (pkt (s.link l).peerDev)
  | .uplink => s.sendLink t.up (pkt t.parent)

/-- A slot fails: it adds and sends nothing more, and the fault manager is told (R298, R300). -/
def State.redFail (s : State) (tc : Fin 64) (addr : Word64) (slot : RSlot) (status : BitVec 4) : State :=
  let t := s.tree tc
  let s := s.setRslot tc addr (some { slot with failed := some status })
  let s := if status = 9 then
      s.fault 0x0107 none (BitVec.ofNat 32 (s.linkPort t.home).1.val) (BitVec.ofNat 64 (0x3C0 + tc.val))
    else s
  s.tell 0x000F none ((copyCode status).setWidth 32) addr

/-- A full slot (R299): the root writes and, when it broadcasts, sends its sum down; another device sends
its sum over UPLINK and waits for its acceptance; without a route to that link the slot fails. -/
def State.slotFull (s : State) (tc : Fin 64) (addr : Word64) (sum : RedData) (slot : RSlot) : State :=
  let t := s.tree tc
  let bs := redBytes sum
  if t.root || decide (t.mode = 2) then
    let s := s.setRslot tc addr none
    if t.mode = 0 then s.treeWrite tc addr bs else s.treeDown tc addr bs
  else if s.homeWay t t.up = false then s.redFail tc addr slot 4
  else
    let s := s.setRslot tc addr (some { slot with sent := true, sum := some sum })
    s.sendLink t.up (s.treePkt t 5 t.parent addr 0 (treeGroupOf tc) bs)

/-- A contribution reaches a reducer slot; the answer is OK when it is accepted (R298, R300). -/
def State.reduce (s : State) (tc : Fin 64) (addr : Word64) (src : RedFrom) (data : RedData) :
    State × BitVec 4 :=
  let t := s.tree tc
  let tag := match src with
    | .child l => (s.link l).owner
    | _ => t.owner
  if t.valid = false ∨ t.failed = true ∨ s.isDark t.home = true then (s, 4)
  else if (match src with | .local_ => true | .child l => s.homeWay t l | .uplink => s.homeWay t t.up) = false then
    (s, 4)
  else if s.hamletResetting t.owner then (s, 2)
  else if tag ≠ t.owner then (s, 1)
  else if t.takes src = false then (s, 4)
  else
    match s.rslot tc addr with
    | none =>
      if 2048 < s.redUsed t.home + redUnits data t.expected then
        (if src = .local_ then s else { s with fab := { s.fab with redRetry := satInc s.fab.redRetry } }, 10)
      else
        let slot : RSlot := { tc := tc, addr := addr, since := s.tb, held := [(src, data)], sent := false,
                              sum := none, failed := none }
        if t.expected = 1 then (s.slotFull tc addr data slot, 0)
        else (s.setRslot tc addr (some slot), 0)
    | some slot =>
      match slot.failed with
      | some st => (s, st)
      | none =>
        let alike := match slot.held with
          | (_, d) :: _ => redAlike d data
          | [] => true
        if slot.held.any (fun x => decide (x.1 = src)) || !alike then (s.redFail tc addr slot 9, 9)
        else
          let held := insertRank (fun x : RedFrom × RedData => redRank x.1) (src, data) slot.held
          let slot := { slot with held := held }
          match redSum (held.map (·.2)) with
          | none => (s.redFail tc addr { slot with held := held.filter fun x => decide (x.1 ≠ src) } 8, 8)
          | some sum =>
            if held.length < t.expected then (s.setRslot tc addr (some slot), 0)
            else (s.slotFull tc addr sum slot, 0)

/-- REDUCER_ACCEPTED (R299): the parent's reducer has accepted the sum: the slot is freed, and the DONE_BELL
of a REDUCE is rung once LENGTH bytes have been accepted. -/
def execReducerAccepted (tc : Fin 64) (addr : Word64) (s : State) : Host.Outcome State Fault Refusal :=
  match s.rslot tc addr with
  | none => .next s
  | some slot =>
    match slot.sent, slot.sum with
    | true, some d => .next ((s.setRslot tc addr none).sumTaken tc (redBytes d).length)
    | _, _ => .next s

/-- REDUCER_SLOT_EXPIRY (R300): 1 ms after its first contribution a slot is freed and its contributors are
answered TIMEOUT; a failed slot's are answered its status. -/
def execReducerSlotExpiry (tc : Fin 64) (addr : Word64) (t : Word64) (s : State) :
    Host.Outcome State Fault Refusal :=
  let s := s.at t
  match s.rslot tc addr with
  | none => .next s
  | some slot =>
    if windowOver slot.since 1000000 s.tb = false then .next s
    else
      let st := slot.failed.getD 11
      let s := s.setRslot tc addr none
      let s := slot.held.foldl (fun s x => s.redAnswer tc addr st x.1) s
      .next (if slot.failed.isSome then s
             else s.tell 0x000F none ((copyCode st).setWidth 32) addr)

end Sys2Proof.Machine
end

