-- ==== Sys2Proof/Machine/MemCtl.lean ====
section
/-!
DEFINITION. Machine/MemCtl.lean: the memory controllers: status of requests at their endpoints (R200, R216, R233,
R240, R246), the service of reads and writes with CRC repeats and ECC (R225, R226, R228), and the requests that wait
at a closed channel (R244, R248, R349).
-/

namespace Sys2Proof.Machine

/-! ### Status of a request at its endpoint (R184, R198, R200, R216, R233, R246) -/

/-- A packet comes from a services endpoint (R200). DEDUCED, log entry 26. -/
def fromServices (p : Packet) : Bool :=
  !p.owned && !p.srcEp && (List.finRange 8).any fun f => decide (svcRtr f = p.srcRtr)

/-- A packet comes from a memory controller acting for the stewards (R200): its pages are held to VALID only.
DEDUCED, log entry 26. -/
def State.fromMemory (s : State) (p : Packet) : Bool :=
  !p.owned && (List.finRange 8).any fun f => decide (s.memPort f = (p.srcRtr, p.srcEp))

/-- The scope a packet acts for at a core: a services endpoint passes every shutter (R200). -/
def actsFor (p : Packet) (owner : Option HamletNo) : Option HamletNo :=
  if fromServices p then owner else pktTag p

/-- A core's shutter refuses an untagged packet that no services endpoint sent (R200). -/
def untagged (p : Packet) : Bool := !p.owned && !fromServices p

/-- Status of a request at its endpoint (R200, R216, R232, R236, Table 7.5). DEDUCED, log entry 26. -/
def State.packetCode (s : State) (p : Packet) (ep : Endpoint) (write : Bool) : BitVec 4 :=
  match ep with
  | .core n =>
    let st := s.coreCode (actsFor p (s.site n).hamlet) n (pktAddr p) (spanOf p)
    if untagged p ∧ (st = 0 ∨ st = 3) then 1 else st
  | .memory f =>
    let pg := pktAddr p / 8388608
    let v := s.page pg
    if s.pageCap ≤ pg then 3
    else if v.valid = false ∨ v.field ≠ f then 4
    else if s.hamletResetting v.owner || s.pageHeld pg then 2
    else if fromServices p || s.fromMemory p then 0
    else s.pageCode (pktTag p) write pg
  | .services _ => 3
  | .link l => if s.carries l (pktTag p) then 0 else 4

/-- Status of a request at its controller: a program's copy is held to R236 and R240, the stewards' and
the granary's own paths only to VALID (R233); a page of a hamlet that is being reset refuses every one (R216). -/
def State.memCode (s : State) (f : FieldNo) (r : MemReq) : BitVec 4 :=
  let pg := r.addr.toNat / 8388608
  let v := s.page pg
  if s.pageCap ≤ pg then 3
  else if v.valid = false ∨ v.field ≠ f then 4
  else if s.hamletResetting v.owner || s.pageHeld pg then 2
  else if r.ofProgram then s.pageCode (tagOf r.owned r.hamlet) r.write pg
  else 0

/-- Status of a remote page request (R246, R247, R438). DEDUCED, log entry 32. -/
def State.remoteCode (s : State) (r : RemoteReq) : BitVec 4 :=
  let k := s.link r.link
  let pg := r.addr.toNat / 8388608
  let v := s.page pg
  if k.owner.isSome ∧ k.confirmed = false then 1
  else if s.role ≠ 2 then 12
  else if s.pageCap ≤ pg then 3
  else if v.valid = false then 4
  else if s.hamletResetting v.owner || s.pageHeld pg then 2
  else if v.owner ≠ k.owner then 1
  else if v.kind ≠ 1 ∨ (if r.write then v.remW else v.remR) = false ∨ r.len = 0 ∨
          (r.addr.toNat + r.len - 1) / 8388608 ≠ pg then 3
  else 0

/-- Status that a controller gives a request when it arrives: by the page-map entry in force then (R233). -/
def State.workCode (s : State) (f : FieldNo) : MemWork → BitVec 4
  | .unit r => s.memCode f r
  | .write p _ => s.packetCode p (.memory f) true
  | .read p _ => s.packetCode p (.memory f) false
  | .remote r => s.remoteCode r

/-! ### Answers -/

/-- The response of a controller to a request for a 64 B unit. -/
def State.memAnswer (s : State) (f : FieldNo) (r : MemReq) (st : BitVec 4) (data : List Byte) : State :=
  s.respond (s.unitAnswer f r st data)

/-- The answer to a request, with its data. -/
def State.workAnswer (s : State) (f : FieldNo) (st : BitVec 4) (data : List Byte) : MemWork → State
  | .unit r => s.memAnswer f r st data
  | .write p _ => s.respond (replyTo p 2 st [])
  | .read p _ => s.respond (replyTo p 4 st data)
  | .remote r => s.remoteReply r.link (remotePkt r) (if r.write then 2 else 4) st data

/-! ### Service of a request (R225, R226, R228) -/

/-- The CRC failures of a request's bursts, by page-map address (R225). -/
def MemWork.crc (w : MemWork) : List (Nat × Nat) :=
  let at_ (x : BitVec 16 × Nat) : Nat × Nat := (w.addr + x.1.toNat, x.2)
  match w with
  | .unit r => [(r.addr.toNat, r.crcFails)]
  | .write _ o => o.crc.map at_
  | .read _ o => o.crc.map at_
  | .remote r => r.obs.crc.map at_

/-- What a request's bursts do when it is served once more after a retrain: those that had failed four times are
repeated (R225). -/
def MemWork.again (w : MemWork) : MemWork :=
  let once (l : List (BitVec 16 × Nat)) : List (BitVec 16 × Nat) :=
    (l.filter fun x => decide (4 ≤ x.2)).map fun x => (x.1, 1)
  match w with
  | .unit r => .unit { r with crcFails := 1 }
  | .write p o => .write p { o with crc := once o.crc }
  | .read p o => .read p { o with crc := once o.crc }
  | .remote r => .remote { r with obs := { r.obs with crc := once r.obs.crc } }

/-- The repeats of a burst are counted and folded into CRC_RETRY (R225, R253); the burst counts once among
the channel's repeated bursts (R243). -/
def State.crcRepeats (s : State) (ms : MemNo) (ch : Fin 4) (write : Bool) (n : Nat) : State :=
  if n = 0 then s
  else
    let w := s.tb.toNat / 1000000
    let s := s.modMsite ms fun m => { m with crcRepeats := satAdd m.crcRepeats n }
    let s := s.modChan ms ch fun c =>
      if c.window = w then { c with repeats := c.repeats + 1 } else { c with window := w, repeats := 1 }
    s.fold 0x0203 ms.val
      (BitVec.ofNat 32 (ms.val + 16 * ch.val) ||| bitAt write 6) 0

/-- The repeats of a request's bursts, each at most three, are counted (R225). -/
def State.workRepeats (s : State) (f : FieldNo) (w : MemWork) : State :=
  w.crc.foldl (fun s x => s.crcRepeats (memOf s f x.1) (chanOf s f x.1) w.writes (min x.2 3)) s

/-- A write is made where its words passed their parity, and answered (R184, R226). -/
def State.ddrPut (s : State) (f : FieldNo) (w : MemWork) (data : List Byte) (bad : List Nat) : State :=
  let cut : Bool := match w with
    | .write p _ => p.truncated
    | _ => false
  (s.putWords data bad fun s o ws => s.ddrWrite (w.addr + o) ws).workAnswer f
    (if cut then 5 else if bad ≠ [] then 6 else 0) [] w

/-- A read is answered with its data, or with SOURCE_UNCORRECTABLE (R226). -/
def State.ddrGet (s : State) (f : FieldNo) (w : MemWork) (ecc : EccObs) (off : Nat) : State :=
  let a := w.addr + off
  let s := s.memEcc (memOf s f a) (chanOf s f a) (a / 64 * 64) ecc false
  if ecc = .uncorrectable then s.workAnswer f 7 [] w
  else s.workAnswer f 0 (s.ddrRead w.addr w.span) w

/-- A request that may be served reads or writes (R226). -/
def State.workEffect (s : State) (f : FieldNo) (w : MemWork) : State :=
  match w with
  | .unit r => if r.write then s.ddrPut f w r.data r.bad else s.ddrGet f w r.ecc 0
  | .write p o => s.ddrPut f w p.data o.bad
  | .read _ o => s.ddrGet f w o.ecc o.off.toNat
  | .remote r => if r.write then s.ddrPut f w (r.data.take r.len) [] else s.ddrGet f w r.obs.ecc r.obs.off.toNat

/-- The first burst of a request that has failed four times. -/
def MemWork.failed (w : MemWork) : Option Nat := (w.crc.find? fun x => decide (4 ≤ x.2)).map (·.1)

/-- A controller serves a request whose channels are open: a burst that fails four times starts a retrain of its
channel, and the request waits for its end (R225, R226, R243). -/
def State.memServe (s : State) (f : FieldNo) (w : MemWork) (since : Word64) : State :=
  let s := s.workRepeats f w
  match w.failed with
  | some a =>
    let ms := memOf s f a
    let ch := chanOf s f a
    let s := s.modChan ms ch fun c => { c with due := some (c.due.getD s.tb) }
    { s with mem := { s.mem with waiting := s.mem.waiting ++
        [{ field := f, work := w.again, since := since, after := some (ms, ch) }] } }
  | none => s.workEffect f w

/-! ### Requests that wait (R228, R244, R248, R349) -/

/-- The 4 KiB units of a request, each of one channel (R231). -/
def MemWork.parts (w : MemWork) : List Nat :=
  (List.range ((w.addr + w.span - 1) / 4096 + 1 - w.addr / 4096)).map fun i => (w.addr / 4096 + i) * 4096

/-- Two requests touch a 64 B unit in common (R228). -/
def MemWork.meets (w v : MemWork) : Bool :=
  decide (w.addr / 64 ≤ (v.addr + v.span - 1) / 64) && decide (v.addr / 64 ≤ (w.addr + w.span - 1) / 64)

/-- A request cannot be served now: its field's clocks are stopped, a channel of it is closed, or an earlier request
for a unit of it waits (R228, R244, R349). -/
def State.memHeld (s : State) (f : FieldNo) (w : MemWork) (earlier : List MemItem) : Bool :=
  s.fieldStopped f ||
  (w.parts.any fun a => ((s.msite (memOf s f a)).chan (chanOf s f a)).closed) ||
  (earlier.any fun e => decide (e.field = f) && e.work.meets w)

/-- Class of a waiting request: in the CACHE role remote page requests, and others that have waited 4,096 fabric
cycles, come first (R248). -/
def State.memClass (s : State) (e : MemItem) : Nat :=
  let cycles := (s.tb - e.since).toNat * (s.region ⟨40 + e.field.val, by omega⟩).mhz.toNat / 1000
  match e.work with
  | .remote _ => 0
  | _ => if s.role = 2 ∧ cycles < 4096 then 1 else 0

/-- The waiting requests of a field that can be served now, oldest first. -/
def State.memReady (s : State) (f : FieldNo) : List MemItem :=
  (List.range s.mem.waiting.length).filterMap fun i =>
    (s.mem.waiting[i]?).bind fun e =>
      if decide (e.field = f) && e.after.isNone && !s.memHeld f e.work (s.mem.waiting.take i) then some e else none

/-- The next waiting request of a field to be served: the oldest of the best class (R244, R248). -/
def State.memNext (s : State) (f : FieldNo) : Option MemItem :=
  (s.memReady f).find? fun e => (s.memReady f).all fun x => decide (s.memClass e ≤ s.memClass x)

/-- A controller serves what waits and can be served (R244, R248). -/
def State.serveWaiting (s : State) (f : FieldNo) : Nat → State
  | 0 => s
  | k + 1 =>
    match s.memNext f with
    | none => s
    | some e =>
      ({ s with mem := { s.mem with waiting := s.mem.waiting.erase e } }.memServe f e.work e.since).serveWaiting f k

/-- A controller serves everything that waits and can be served. -/
def State.serveField (s : State) (f : FieldNo) : State := s.serveWaiting f s.mem.waiting.length

/-- A request arrives at its controller: refused by the entry in force, served, or it waits (R228, R233, R244). -/
def State.memArrive (s : State) (f : FieldNo) (w : MemWork) : State :=
  let st := s.workCode f w
  if st ≠ 0 then s.workAnswer f st [] w
  else if s.memHeld f w s.mem.waiting then
    { s with mem := { s.mem with waiting := s.mem.waiting ++ [{ field := f, work := w, since := s.tb, after := none }] } }
  else s.memServe f w s.tb

end Sys2Proof.Machine
end

