-- ==== Sys2Proof/Machine/Fabric.lean ====
section
/-!
DEFINITION. Machine/Fabric.lean: packets in the mesh, requests and responses, combine groups, the
delivery limit and the fabric pause (07_fabric.md).
-/

namespace Sys2Proof.Machine

/-! ### Forwarding (R203, R204, R206) -/

/-- The port a router sends a packet for router d out of: 4 is its local port (R201, R215). -/
def State.nextPort (s : State) (r d : Fin 64) : Option Nat :=
  if r = d then some 4
  else
    let a := routeVia r d (r.val / 16)
    let b := routeVia r d (detourRow r)
    if s.tableDark r then none
    else if s.routeOk d a then a.head?.map (·.2)
    else if s.routeOk d b then b.head?.map (·.2)
    else none

/-- Key of an output's grant. -/
def grantKey (r : Fin 64) (out : Nat) (plane : Bool) : Nat := r.val * 10 + out * 2 + plane.toNat

/-- The next input to be served at an output, in round-robin order after the last (R204). -/
def State.grantOf (s : State) (r : Fin 64) (out : Nat) (plane : Bool) : Option Nat :=
  let last := tget (fun _ => 0) s.fab.grants (grantKey r out plane)
  ([1, 2, 3, 4, 5].map fun k => (last + k) % 5).find? fun i =>
    match s.buf r i plane with
    | p :: _ => decide (s.nextPort r p.dstRtr = some out)
    | [] => false

/-- Flits asked for again are counted, and folded into HOP_RETRY (R206, R218). -/
def State.hopRetries (s : State) (r : Fin 64) (inp : Nat) (plane : Bool) (n : Nat) : State :=
  if n = 0 then s
  else
    ({ s with fab := { s.fab with hopRetry := satAdd s.fab.hopRetry n } }).fold 0x0101 r.val
      (BitVec.ofNat 32 r.val ||| BitVec.ofNat 32 (inp * 64) ||| bitAt plane 9) 0

/-- A packet whose flit has failed three times at an input goes on without that flit and what follows it
(R206). Of an SVC packet the model keeps TYPE, by which it tells what the packet was. DESIGN CHOICE, log entry 94. -/
def cutAt (p : Packet) : Option (Fin 16) → Packet
  | none => p
  | some k => { p with truncated := true, data := p.data.take (if p.opc = 7 then 1 else 512 * k.val) }

/-- A lane that causes hop retries is marked for repair in the next pause (R207). -/
def State.markLane (s : State) (r : Fin 64) (inp : Fin 5) (plane : Bool) (group : Option (BitVec 7)) : State :=
  match group with
  | none => s
  | some g =>
    if h : inp.val < 4 then
      let x : Lane := { rtr := r, inp := ⟨inp.val, h⟩, plane := plane, group := g }
      if s.fab.marked.contains x ∨ onEdge r inp.val = true then s
      else { s with fab := { s.fab with marked := s.fab.marked ++ [x] } }
    else s

/-- RTXN of a request (Table 9.5). -/
def rtxnOf (r : Fin 64) (t : BitVec 10) : BitVec 16 := BitVec.ofNat 6 r.val ++ t

/-- The link packet of a bell operation for another device (R279, R290, Table 9.5). -/
def State.bellLinkPkt (s : State) (p : Packet) (dev : BitVec 12) : LinkPkt :=
  { opc := 7, vc := 0, status := 0, len := 1, srcDev := s.id.dev, dstDev := dev, dstKind := 2, lcore := 0,
    rtxn := rtxnOf p.srcRtr p.txn, addr := BitVec.ofNat 64 (pktAddr p), group := 0, contrib := 0, fmt := false,
    data := p.data }

/-- A bell operation that a packet carries is answered without effect by the endpoint that the packet reached
(R206, R290). -/
def State.bellRefused (s : State) (p : Packet) (st : BitVec 4) : State :=
  s.respond (replyTo p 7 st
    (bellDataBytes (bellOpOf p.data).op (BitVec.ofNat 13 (pktAddr p / 64)) none s.id.dev))

/-- A sound bell operation leaves its router's local port: one for another device goes on over its link, or is
answered by the bundle that meets the gap (R276, R279); every other reaches its bell by its own command. -/
def State.bellDelivered (s : State) (p : Packet) : State :=
  match (s.txnOf p.srcRtr p.txn).map Txn.use with
  | some (.bell _ (some dev)) =>
    let s := s.arrived p
    (match s.linkTo s.id.dev dev (BitVec.ofNat 64 (pktAddr p)) (pktTag p) with
     | some l => s.sendLink l (s.bellLinkPkt p dev)
     | none => s.bellRefused p 4)
  | _ => s

/-- An SVC packet leaves its router's local port (R206, R290): a truncated bell operation is answered PARITY_HOP; an
answer reaches its sender by its own command; a message that no answer follows has arrived. -/
def State.svcDelivered (s : State) (p : Packet) : State :=
  if p.opc ≠ 7 then s
  else
    match svcType p.data with
    | 1 => if p.truncated then (s.arrived p).bellRefused p 5 else s.bellDelivered p
    | 2 => s
    | _ => s.losePacket p

/-- PACKET_FORWARD (R203, R204, R206, R207): the packet at the head of an input moves on when it is its turn and
the downstream buffer has room for it; a flit that failed three times truncates it. A packet with no route is lost.
A local input that empties takes what waits at its port. While the field's clocks are stopped a router forwards
nothing (R349). -/
def execPacketForward (rtr : Fin 64) (inp : Fin 5) (plane : Bool) (hop : HopObs) (s : State) :
    Host.Outcome State Fault Refusal :=
  match s.buf rtr inp.val plane with
  | [] => .next s
  | p :: rest =>
    if s.fieldStopped (fieldOfRtr rtr) then .next s
    else
      match s.nextPort rtr p.dstRtr with
      | none => .next ((s.setBuf rtr inp.val plane rest).losePacket p)
      | some out =>
        let nb := neighbour rtr out
        let pl := s.planeVia rtr out plane
        if s.grantOf rtr out plane ≠ some inp.val then .next s
        else if out ≠ 4 ∧ 2 ≤ (s.buf nb (opposite out) pl).length then .next s
        else
          let p := cutAt p hop.dead
          let s := (s.hopRetries rtr inp.val plane hop.asked).markLane rtr inp plane hop.group
          let s := s.setBuf rtr inp.val plane rest
          let s := { s with fab := { s.fab with
            grants := tset (fun _ => 0) s.fab.grants (grantKey rtr out plane) inp.val } }
          let s :=
            if out = 4 then (s.send (.delivered p)).svcDelivered p
            else if s.isDark (fieldOfRtr nb) then s.losePacket p
            else s.setBuf nb (opposite out) pl (s.buf nb (opposite out) pl ++ [p])
          .next (if inp = 4 then s.servePort rtr 5 else s)

/-! ### Requests at their destination (R184, R198, R200, R216) -/

/-- A packet does not arrive yet: an earlier one of its flow comes first (R203), or the clocks of its destination's
field are stopped (R349). -/
def State.notYet (s : State) (p : Packet) : Bool := s.overtakes p || s.fieldStopped (fieldOfRtr p.dstRtr)

/-- A request leaves over a link for its device (R279, Table 9.5). -/
def State.overLink (s : State) (p : Packet) (l : LinkNo) : State :=
  match (s.txnOf p.srcRtr p.txn).bind s.descOf with
  | none => s
  | some d =>
    let q := s.toLink (if p.opc = 3 then d.srcKind else d.dstKind) d (pktAddr p) p.data
    s.sendLink l { q with opc := p.opc.setWidth 8, len := BitVec.ofNat 16 (spanOf p / 64),
                                rtxn := rtxnOf p.srcRtr p.txn }

/-- A WRITE at its endpoint is checked, written and answered (R184, R197, R198, R200, R206). -/
def State.writeAt (s : State) (p : Packet) (ep : Endpoint) (o : WriteObs) : State :=
  match ep with
  | .memory f => s.memArrive f (.write p o)
  | _ =>
    let st := s.packetCode p ep true
    let ack : BitVec 4 := if p.truncated then 5 else if o.bad ≠ [] then 6 else 0
    if st ≠ 0 then s.respond (replyTo p 2 st [])
    else
      match ep with
      | .core n =>
        let s := s.putWords p.data o.bad fun s i w => s.modSite n fun c => c.wsWrite (pktAddr p + i) w
        s.respond (replyTo p 2 ack [])
      | .link l => if ack = 0 then s.overLink p l else s.respond (replyTo p 2 ack [])
      | _ => s

/-- WRITE (R184, R197, R198, R200): a packet arrives after those of its flow injected before it (R203), and while its
field's clocks run (R349). -/
def execWrite (p : Packet) (ep : Endpoint) (obs : WriteObs) (s : State) :
    Host.Outcome State Fault Refusal :=
  if s.notYet p then .next s else .next ((s.arrived p).writeAt p ep obs)

/-- An ECC event at a core's working store while a request is served (R97). -/
def State.wsEcc (s : State) (n : SiteNo) (a : Nat) (ecc : EccObs) : State :=
  match ecc with
  | .clean => s
  | .corrected => s.wsFixed n a
  | .uncorrectable => s.wsLost n a

/-- A READ_REQ at its endpoint is answered with the data or a status (R197, R198, R226). -/
def State.readAt (s : State) (p : Packet) (ep : Endpoint) (o : ReadObs) : State :=
  match ep with
  | .memory f => s.memArrive f (.read p o)
  | _ =>
    let st := s.packetCode p ep false
    if st ≠ 0 then s.respond (replyTo p 4 st [])
    else
      match ep with
      | .core n =>
        let s := s.wsEcc n (pktAddr p + o.off.toNat) o.ecc
        if o.ecc = .uncorrectable then s.respond (replyTo p 4 7 [])
        else s.respond (replyTo p 4 0 ((s.site n).wsRead (pktAddr p) (spanOf p)))
      | .link l => s.overLink p l
      | _ => s

/-- READ_REQ (R197, R198, R203, R226). -/
def execReadReq (p : Packet) (ep : Endpoint) (obs : ReadObs) (s : State) :
    Host.Outcome State Fault Refusal :=
  if s.notYet p then .next s else .next ((s.arrived p).readAt p ep obs)

/-! ### Responses at their source (R184, R199, R206, R217) -/

/-- The flight that awaits a TXN. -/
def Site.flightOf (c : Site) (q : Fin 4) (t : BitVec 10) : Option Nat :=
  (c.queue q).flight.findIdx? fun f => decide (f.txn = some t)

/-- A request of a copy is acknowledged: its bytes count as moved, its time limit starts again with each
64 KiB, and the next request is injected (R114). -/
def State.copyMoved (s : State) (n : SiteNo) (q : Fin 4) (i span : Nat) : State :=
  let s := s.modSite n fun c => c.modFlight q i fun f =>
    { f with moved := f.moved + span, txn := none, buf := f.buf.drop span,
             done := decide (f.desc.total ≤ f.moved + span),
             since := if f.moved / 65536 < (f.moved + span) / 65536 then s.tb else f.since }
  s.pump n q i

/-- The bytes a copy has read from a source that the fabric reaches go on to its destination: by requests of
their own, or written there at once. -/
def State.copyBrought (s : State) (x : Txn) (n : SiteNo) (q : Fin 4) (i : Nat) (f : CopyFlight)
    (bs : List Byte) : State :=
  if byFabric f.desc.dstKind then
    ((s.dropTxn x.rtr x.txn).modSite n fun c => c.modFlight q i fun f => { f with txn := none, buf := bs }).pump
      n q i
  else ((s.copyWrite n f.desc (f.desc.place f.moved).2.1 bs).dropTxn x.rtr x.txn).copyMoved n q i bs.length

/-- A request is sent again after a parity failure, as one more of its three attempts, as soon as its source port
takes it (R184, R202, R206). -/
def State.sendAgain (s : State) (x : Txn) : State :=
  let f (y : Txn) : Txn := if y.rtr = x.rtr ∧ y.txn = x.txn then { y with tries := y.tries + 1 } else y
  (({ s with fab := { s.fab with txns := s.fab.txns.map f } }).queueAt
    { pkt := x.pkt, kind := .again true }).servePort x.rtr 5

/-- The answer to a request of a copy takes effect (R184, R211, R217). -/
def State.copyAnswer (s : State) (x : Txn) (n : SiteNo) (q : Fin 4) (st : BitVec 4) (span : Nat) : State :=
  match (s.site n).flightOf q x.txn with
  | none => s.dropTxn x.rtr x.txn
  | some i =>
    if st = 0 then (s.dropTxn x.rtr x.txn).copyMoved n q i span
    else if st = 5 ∨ st = 6 then
      if x.tries < 3 then s.sendAgain x else (s.dropTxn x.rtr x.txn).copyFail n q i 9 true
    else if st = 10 then
      { s with fab := { s.fab with resends := s.fab.resends ++ [(x.rtr, x.txn, s.tb + 1000)] } }
    else (s.dropTxn x.rtr x.txn).copyFail n q i (copyCode st) false

/-- RED_ACK to one contributor (R212, R213). -/
def State.redAck (s : State) (c : RedContrib) (st : BitVec 4) : State :=
  let q := mkPacket 6 (c.root, false) (c.srcRtr, c.srcEp) (tagOf c.owned c.hamlet) c.addr.toNat 64 []
  let q := { q with txn := c.txn, status := st, group := c.group, contrib := c.contributor }
  s.respond { q with hchk := hchkOf q }

/-- The combine slot of a key: GROUP, HAMLET, destination and ADDR (R210). -/
def State.cslot (s : State) (root : Fin 64) (group : BitVec 16) (tag : Option HamletNo) (dst : Endpoint)
    (addr : Word64) : Option CSlot :=
  s.fab.slots.find? fun x => decide (x.root = root) && decide (x.group = group) && decide (x.tag = tag) &&
    decide (x.dst = dst) && decide (x.addr = addr)

/-- The combine slot whose WRITE to the core at its root is outstanding (R212). -/
def State.writtenSlot (s : State) (root : Fin 64) (group : BitVec 16) (tag : Option HamletNo)
    (addr : Word64) : Option CSlot :=
  (siteAtRtr root).bind fun n => s.cslot root group tag (.core n) addr

/-- The combine slot of a key becomes v, or is freed. -/
def State.setCslot (s : State) (k : CSlot) (v : Option CSlot) : State :=
  let rest := s.fab.slots.filter fun x => !(decide (x.root = k.root) && decide (x.group = k.group) &&
    decide (x.tag = k.tag) && decide (x.dst = k.dst) && decide (x.addr = k.addr))
  { s with fab := { s.fab with slots := match v with | some x => rest ++ [x] | none => rest } }

/-- Every contributor a slot holds is answered with a status (R212). -/
def State.answerAll (s : State) (k : CSlot) (st : BitVec 4) : State :=
  k.held.foldl (fun s c => s.redAck c st) s

/-- A WRITE_ACK at its source: the request's transaction is freed (R199, R212, R217). -/
def State.ackIn (s : State) (p : Packet) (x : Txn) : State :=
  match x.use with
  | .copy n q => s.copyAnswer x n q p.status (spanOf x.pkt)
  | .slot root group tag addr =>
    if (p.status = 5 ∨ p.status = 6) ∧ x.tries < 3 then s.sendAgain x
    else
      let s := s.dropTxn x.rtr x.txn
      match s.writtenSlot root group tag addr with
      | some k => (s.setCslot k none).answerAll k p.status
      | none => s
  | .remote l q => (s.dropTxn x.rtr x.txn).remoteReply l q 2 p.status []
  | _ => s.dropTxn x.rtr x.txn

/-- A READ_DATA at its source: the words that passed are written onward; a failed packet is fetched again, at most
three times in all (R184, R199). -/
def State.dataIn (s : State) (p : Packet) (bad : List Nat) (x : Txn) : State :=
  match x.use with
  | .copy n q =>
    match (s.site n).flightOf q x.txn with
    | some i =>
      match (s.site n).flightAt q i with
      | some f =>
        let st : BitVec 4 := if p.status ≠ 0 then p.status else if p.truncated then 5
          else if bad ≠ [] then 6 else 0
        if st = 0 then s.copyBrought x n q i f p.data
        else
          let da := (f.desc.place f.moved).2.1
          let s := if p.status = 0 then s.putWords p.data bad fun s o w => s.copyWrite n f.desc (da + o) w
            else s
          s.copyAnswer x n q st (spanOf x.pkt)
      | none => s.dropTxn x.rtr x.txn
    | none => s.dropTxn x.rtr x.txn
  | .remote l q => (s.dropTxn x.rtr x.txn).remoteReply l q 4 p.status p.data
  | _ => s.dropTxn x.rtr x.txn

/-- A RED_ACK at a contributor (R199, R211, R217). -/
def State.redAckIn (s : State) (p : Packet) (x : Txn) : State :=
  match x.use with
  | .copy n q => s.copyAnswer x n q p.status (spanOf x.pkt)
  | .remote l q => (s.dropTxn x.rtr x.txn).remoteReply l q 6 p.status []
  | _ => s.dropTxn x.rtr x.txn

/-- A response arrives after those of its flow before it (R203); it takes its effect on the request it answers, and
one that comes too late is discarded (R208). What waits at the port that it came to goes on. -/
def State.response (s : State) (p : Packet) (effect : State → Txn → State) : State :=
  if s.notYet p then s
  else
    let s := s.arrived p
    match s.answeredBy p with
    | none => s
    | some x => (effect s x).servePort p.dstRtr 5

/-- WRITE_ACK (R199, R208, R212, R217). -/
def execWriteAck (p : Packet) (s : State) : Host.Outcome State Fault Refusal :=
  .next (s.response p fun s x => s.ackIn p x)

/-- READ_DATA (R184, R199). -/
def execReadData (p : Packet) (bad : List Nat) (s : State) : Host.Outcome State Fault Refusal :=
  .next (s.response p fun s x => s.dataIn p bad x)

/-! ### Combine groups (R209 to R214) -/

/-- Contributors of a group (R209). -/
def groupSize (g : BitVec 16) : Nat := (g.extractLsb' 10 6).toNat + 1

/-- The group names tree context GROUP[5:0] (R297). -/
def treeGroup (g : BitVec 16) : Option (Fin 64) :=
  if g.extractLsb' 6 4 = 15 then some ⟨(g.extractLsb' 0 6).toNat, (g.extractLsb' 0 6).isLt⟩ else none

/-- Units of 512 B in use in a router's combine buffer, of 1,024; a failed slot keeps its own until it is freed
(R211, R213). DEDUCED, log entry 35. -/
def State.combineUsed (s : State) (root : Fin 64) : Nat :=
  ((s.fab.slots.filter fun x => decide (x.root = root)).map (·.units)).sum

/-- Owner of the destination of a combine group (R200). -/
def State.destOwner (s : State) : Endpoint → Option HamletNo
  | .core n => (s.site n).hamlet
  | .link l => (s.link l).owner
  | _ => none

/-- A context takes its LCORE from the copy whose contribution opens its present use (R297). -/
def State.useLcore (s : State) (c : RedContrib) : State :=
  match treeGroup c.group, (s.txnOf c.srcRtr c.txn).bind s.descOf with
  | some tc, some d => s.setTree tc { s.tree tc with lcore := d.lcore }
  | _, _ => s

/-- A slot that holds all its contributors writes its sum: to its destination as one WRITE (R212), or to
the link-port reducer as the local contribution (R297). -/
def State.combine (s : State) (k : CSlot) (sum : RedData) : State :=
  let bs := redBytes sum
  match k.dst with
  | .link _ =>
    match treeGroup k.group with
    | some tc =>
      let r := s.reduce tc k.addr .local_ sum
      if r.2 = 10 then r.1.setCslot k (some { k with writing := true })
      else (r.1.setCslot k none).answerAll k r.2
    | none => (s.setCslot k none).answerAll k 4
  | .core n =>
    let p := mkPacket 1 (k.root, false) (rtrOfSite n, false) k.tag k.addr.toNat bs.length bs
    (s.setCslot k (some { k with writing := true })).ask p (.slot k.root k.group k.tag k.addr)
  | _ => (s.setCslot k none).answerAll k 3

/-- The contributors of a slot that have been answered, with one more; a packet that only repeats another or whose
CONTRIBUTOR is not below the size is none of them (R213). -/
def CSlot.answers (k : CSlot) (c : RedContrib) : List (BitVec 6) :=
  if c.contributor.toNat < groupSize k.group ∧ c.contributor ∉ k.answered then k.answered ++ [c.contributor]
  else k.answered

/-- A failed slot answers a contributor; it is freed with the last (R213). -/
def State.failedTo (s : State) (k : CSlot) (c : RedContrib) (st : BitVec 4) : State :=
  let l := k.answers c
  (s.redAck c st).setCslot k (if groupSize k.group ≤ l.length then none
                              else some { k with failed := some st, held := [], answered := l })

/-- A slot fails: those it holds are answered, and each later one will be (R213). -/
def State.cslotFail (s : State) (k : CSlot) (c : RedContrib) (st : BitVec 4) : State :=
  let s := if st = 9 then
      s.fault 0x0107 none (BitVec.ofNat 32 (c.root.val + 64 * c.contributor.toNat)) (c.group.setWidth 64)
    else s
  let k' := { k with answered := k.held.map (·.contributor), held := [] }
  (s.answerAll k st).failedTo k' c st

/-- The contributions of a slot, in ascending CONTRIBUTOR order for FP32 (R57, R212). -/
def insertContrib (c : RedContrib) (l : List RedContrib) : List RedContrib :=
  insertRank (fun x : RedContrib => x.contributor.toNat) c l

/-- A group's shutter refuses a contribution of another hamlet, and an untagged one for a core (R200). -/
def State.groupShut (s : State) (dst : Endpoint) (tag : Option HamletNo) : Bool :=
  decide (s.destOwner dst ≠ tag) ||
  (match dst with
   | .core _ => tag.isNone
   | _ => false)

/-- A contribution that arrives at its root is in no buffer. -/
def State.contribArrived (s : State) (c : RedContrib) : State :=
  let mine (q : Packet) : Bool := decide (q.opc = 5) && decide (q.srcRtr = c.srcRtr) && decide (q.srcEp = c.srcEp) &&
    decide (q.dstRtr = c.root) && decide (q.txn = c.txn)
  match s.fab.flying.find? mine with
  | some q => s.arrived q
  | none => s

/-- A contribution does not arrive yet: an earlier packet of its flow comes first (R203), or the clocks of its root's
field are stopped (R349). -/
def State.contribOvertakes (s : State) (c : RedContrib) : Bool :=
  (s.fab.flying.find? fun q => decide (q.opc = 5) && decide (q.srcRtr = c.srcRtr) && decide (q.srcEp = c.srcEp) &&
    decide (q.dstRtr = c.root) && decide (q.txn = c.txn)).any s.overtakes || s.fieldStopped (fieldOfRtr c.root)

/-- A sound contribution of the owner's reaches its slot (R209 to R213). -/
def State.contribute (s : State) (c : RedContrib) (tag : Option HamletNo) : State :=
  let s := s.useLcore c
  let size := groupSize c.group
  match s.cslot c.root c.group tag c.dst c.addr with
  | none =>
    if 1024 < s.combineUsed c.root + redUnits c.data size then
      ({ s with fab := { s.fab with redRetry := satInc s.fab.redRetry } }).redAck c 10
    else
      let k : CSlot := { root := c.root, group := c.group, tag := tag, dst := c.dst, addr := c.addr,
                         since := s.tb, held := [], failed := none, writing := false, answered := [],
                         units := redUnits c.data size }
      if size ≤ c.contributor.toNat then s.cslotFail k c 9
      else if size = 1 then s.combine { k with held := [c] } c.data
      else s.setCslot k (some { k with held := [c] })
  | some k =>
    match k.failed with
    | some st => s.failedTo k c st
    | none =>
      let alike := match k.held with
        | d :: _ => redAlike d.data c.data
        | [] => true
      if size ≤ c.contributor.toNat ∨ alike = false ∨
         (k.held.any fun d => decide (d.contributor = c.contributor)) = true then
        s.cslotFail k c 9
      else
        let held := insertContrib c k.held
        match redSum (held.map (·.data)) with
        | none => s.cslotFail k c 8
        | some sum =>
          let k := { k with held := held }
          if held.length < size then s.setCslot k (some k)
          else s.combine k sum

/-- RED_CONTRIB (R184, R200, R203, R206, R209 to R213, R216). -/
def execRedContrib (c : RedContrib) (t : Word64) (s : State) : Host.Outcome State Fault Refusal :=
  let s := s.at t
  let tag := tagOf c.owned c.hamlet
  if s.contribOvertakes c then .next s
  else
    let s := s.contribArrived c
    if s.isDark (fieldOfRtr c.root) then .next s
    else if s.hamletResetting tag then .next (s.redAck c 2)
    else if s.groupShut c.dst tag then .next (s.redAck c 1)
    else if c.truncated then .next (s.redAck c 5)
    else if c.bad then .next (s.redAck c 6)
    else .next (s.contribute c tag)

/-- The answer to a bell operation that is on its way to an endpoint (R290). -/
def State.bellDataFlying (s : State) (dst : Fin 64 × Bool) (txn : BitVec 10) : Option Packet :=
  s.fab.flying.find? fun q => decide (q.opc = 7) && decide (svcType q.data = 2) && decide (q.dstRtr = dst.1) &&
    decide (q.dstEp = dst.2) && decide (q.txn = txn)

/-- The answer to a bell operation is taken by who sent it, or goes back over the link it came by (R279, R292). -/
def State.bellDataIn (s : State) (x : Txn) (b : BitVec 13) (st : BitVec 4) (img : Option BellImg) : State :=
  let s := s.dropTxn x.rtr x.txn
  match x.use with
  | .bell who _ => s.bellDone who st img
  | .remote l q => s.remoteReply l q 7 st (bellDataBytes (bellOpOf q.data).op b img s.id.dev)
  | _ => s

/-- BELL_DATA (R208, R279, R290, R292): the answer to a bell operation reaches the endpoint that sent it; one that
comes too late is discarded. -/
def execBellData (dst : Fin 64 × Bool) (txn : BitVec 10) (b : BitVec 13) (status : BitVec 4) (img : Option BellImg)
    (s : State) : Host.Outcome State Fault Refusal :=
  let q := s.bellDataFlying dst txn
  if s.fieldStopped (fieldOfRtr dst.1) ∨ q.any s.overtakes = true then .next s
  else
    let s := match q with
      | some p => s.arrived p
      | none => s
    match s.txnOf dst.1 txn with
    | some x =>
      if x.pkt.opc = 7 ∧ x.pkt.srcEp = dst.2 ∧ pktAddr x.pkt = 64 * b.toNat then
        .next ((s.bellDataIn x b status img).servePort dst.1 5)
      else .next s
    | none => .next s

/-- RED_ACK (R199, R211, R217). -/
def execRedAck (p : Packet) (s : State) : Host.Outcome State Fault Refusal :=
  .next (s.response p fun s x => s.redAckIn p x)

/-- A reducer sends again a sum that its parent answered RED_RETRY (R300). -/
def State.resendSum (s : State) (tc : Fin 64) : State :=
  match s.coll.slots.find? fun k => decide (k.tc = tc) && k.sum.isSome && !k.sent with
  | none => s
  | some k =>
    match k.sum with
    | some d => s.slotFull tc k.addr d k
    | none => s

/-- RED_RETRY_RESEND (R211, R300): 1 µs after RED_RETRY the request is sent again, as soon as its source port takes
it; its delivery limit goes on (R211). One whose copy has ended is not. -/
def execRedRetryResend (rtr : Fin 64) (txn : BitVec 10) (t : Word64) (s : State) :
    Host.Outcome State Fault Refusal :=
  let s := s.at t
  let mine (e : Fin 64 × BitVec 10 × Word64) : Bool := decide (e.1 = rtr) && decide (e.2.1 = txn)
  match s.fab.resends.find? mine with
  | none => .next s
  | some e =>
    if s.tb < e.2.2 then .next s
    else
      let s := { s with fab := { s.fab with resends := s.fab.resends.filter fun e => !mine e } }
      match s.txnOf rtr txn with
      | some x => .next ((s.queueAt { pkt := x.pkt, kind := .again false }).servePort rtr 5)
      | none => .next (s.resendSum ⟨txn.toNat % 64, by omega⟩)

/-- A slot's sum is on its way to a core: its WRITE is outstanding (R212). -/
def CSlot.underway (k : CSlot) : Bool :=
  k.writing && match k.dst with
  | .core _ => true
  | _ => false

/-- COMBINE_SLOT_EXPIRY (R214): the oldest slot of a root that has waited 80 µs is freed without a write
and its contributors are answered TIMEOUT. -/
def execCombineSlotExpiry (root : Fin 64) (t : Word64) (s : State) : Host.Outcome State Fault Refusal :=
  let s := s.at t
  match s.fab.slots.find? fun k => decide (k.root = root) && !k.underway &&
      windowOver k.since 80000 s.tb with
  | none => .next s
  | some k =>
    let s := { s with fab := { s.fab with timeouts := satInc s.fab.timeouts } }
    .next ((s.setCslot k none).answerAll k (k.failed.getD 11))

/-- A request that its source port holds back to be sent again has not been injected (R202). -/
def State.heldBack (s : State) (r : Fin 64) (t : BitVec 10) : Bool :=
  s.fab.waiting.any fun e => e.isAgain r t && decide (e.kind = .again true)

/-- The delivery limit of a request expires: it ends TIMEOUT and is no longer awaited (R208). -/
def State.deliveryOver (s : State) (x : Txn) : State :=
  let s := s.dropTxn x.rtr x.txn
  let s := { s with fab := { s.fab with
    timeouts := satInc s.fab.timeouts,
    waiting := s.fab.waiting.filter fun e => !e.isAgain x.rtr x.txn,
    resends := s.fab.resends.filter fun e => !(decide (e.1 = x.rtr) && decide (e.2.1 = x.txn)) } }
  let site := match x.use with
    | .copy n _ => some n
    | .bell (.core n) _ => some n
    | _ => none
  let s := s.fault 0x0106 site (fieldAt (x.pkt.opc.extractLsb' 0 4) 0 |||
    BitVec.ofNat 32 (x.pkt.dstRtr.val * 16)) (x.pkt.addr.setWidth 64)
  let s := match x.use with
    | .copy n q =>
      (match (s.site n).flightOf q x.txn with
       | some i => s.copyFail n q i 1 false
       | none => s)
    | .slot root group tag addr =>
      (match s.writtenSlot root group tag addr with
       | some k => (s.setCslot k none).answerAll k 11
       | none => s)
    | .remote l q => s.refuse l q 11
    | .bell who _ => s.bellDone who 11 none
    | _ => s
  s.servePort x.rtr 5

/-- The limit of a copy cuts that of its request one tick before its own end (R406, Table 15.2). -/
def State.copyCut (s : State) (x : Txn) : Bool :=
  match x.use with
  | .copy n q =>
    ((s.site n).queue q).flight.any fun f => decide (f.txn = some x.txn) &&
      windowOver f.since (f.desc.limit - 1) s.tb
  | _ => false

/-- DELIVERY_TIMEOUT (R208, R406): 100 µs after its injection, or one tick before the limit of its copy ends, a
request is no longer awaited. -/
def execDeliveryTimeout (rtr : Fin 64) (txn : BitVec 10) (t : Word64) (s : State) :
    Host.Outcome State Fault Refusal :=
  let s := s.at t
  match s.txnOf rtr txn with
  | none => .next s
  | some x =>
    if (windowOver x.since 100000 s.tb || s.copyCut x) = false ∨ s.heldBack rtr txn = true then .next s
    else .next (s.deliveryOver x)

/-- The request a copy has outstanding in the fabric; none while a pause holds it back. -/
def State.copyTxn (s : State) (n : SiteNo) (f : CopyFlight) : Option Txn :=
  match f.txn with
  | some t => if s.heldBack (rtrOfSite n) t then none else s.txnOf (rtrOfSite n) t
  | none => none

/-- COPY_TIMEOUT (R114, R314, R408, R406): the oldest overdue descriptor in flight ends. A request that it awaits
has expired with it, and first. -/
def execCopyTimeout (site : SiteNo) (q : Fin 4) (t : Word64) (obs : StallObs) (s : State) :
    Host.Outcome State Fault Refusal :=
  let s := s.at t
  let overdue (f : CopyFlight) : Bool :=
    windowOver (f.stalledFrom obs) f.desc.limit s.tb && decide (f.moved < f.desc.total)
  match ((s.site site).queue q).flight.findIdx? overdue with
  | none => .next s
  | some i =>
    match (s.site site).flightAt q i with
    | none => .next s
    | some f =>
      match s.copyTxn site f with
      | some x => .next (s.deliveryOver x)
      | none =>
        let host := decide (f.desc.srcKind = 6) || decide (f.desc.dstKind = 6)
        .next (s.copyFail site q i (if host && obs.hostUnanswered then 8 else 1) false)

/-- REDUCER_CONTRIB (R298, R300): a contribution over a link, or the local one of an on-die root that
waits for room. -/
def execReducerContrib (tc : Fin 64) (addr : Word64) (src : RedFrom) (data : RedData) (t : Word64)
    (s : State) : Host.Outcome State Fault Refusal :=
  let s := s.at t
  let r := s.reduce tc addr src data
  match src with
  | .local_ =>
    match r.1.fab.slots.find? fun k => decide (treeGroup k.group = some tc) && decide (k.addr = addr) &&
        k.writing with
    | some k => .next (if r.2 = 10 then r.1 else (r.1.setCslot k none).answerAll k r.2)
    | none => .next r.1
  | _ => .next (r.1.redAnswer tc addr r.2 src)

/-! ### The pause (R202, R207, R215) -/

/-- FABRIC_PAUSE (R202): injection stops. A request during a pause is latched (R420). -/
def execFabricPause (t : Word64) (s : State) : Host.Outcome State Fault Refusal :=
  let s := s.at t
  match s.fab.paused with
  | some _ => .next { s with fab := { s.fab with pauseReq := true } }
  | none => .next { s with fab := { s.fab with paused := some s.tb } }

/-- What waits at the source ports and the copies' next requests are injected as far as they can be (R202). -/
def State.serveAll (s : State) : State :=
  ((List.finRange 64).foldl (fun s r => s.servePort r 5) ((List.finRange 40).foldl State.pumpSite s)).transitsGo

/-- A packet that waits at its source port has no route in the loaded tables: a request is answered UNREACHABLE by
its own source port (R215). -/
def State.unroutable (s : State) (e : PortReq) : State :=
  if s.reach e.pkt.srcRtr e.pkt.dstRtr then s
  else
    let s := { s with fab := { s.fab with waiting := s.fab.waiting.erase e } }
    match e.kind with
    | .response => s
    | .again _ =>
      (match s.txnOf e.pkt.srcRtr e.pkt.txn with
       | some x => s.ackIn { replyTo e.pkt (e.pkt.opc + 1) 4 [] with status := 4 } x
       | none => s)
    | .request use =>
      match use with
      | .slot root group tag addr =>
        (match s.writtenSlot root group tag addr with
         | some k => (s.setCslot k none).answerAll k 4
         | none => s)
      | .remote l q => (s.unitsOut l q).refuse l q 4
      | .bell who _ => s.bellDone who 4 none
      | _ => s

/-- The tables that the stewards load in a pause (R201, R215). -/
def State.loadTables (s : State) : State :=
  if s.fab.tablesDue then
    let s := { s with fab := { s.fab with tablesDue := false, loadedDark := s.fab.dark,
                                          loadedAbsent := s.fab.absent, routeGen := s.fab.routeGen + 1 } }
    s.fab.waiting.foldl State.unroutable s
  else s

/-- PAUSE_DRAINED (R202, R207, R215): with nothing in flight, the lanes found and those marked are repaired, tables
loaded, and injection resumes; a latched request starts the next pause (R420). -/
def execPauseDrained (faultyLanes : List Lane) (s : State) : Host.Outcome State Fault Refusal :=
  if s.fab.paused.isNone ∨ s.fab.bufs ≠ [] then .next s
  else
    let lanes := faultyLanes ++ s.fab.marked
    let s := { s with fab := { s.fab with marked := [] } }
    let s := ((lanes.foldl State.repairLane s).absentLinks).loadTables
    if s.fab.pauseReq then
      .next { s with fab := { s.fab with paused := some s.tb, pauseReq := false } }
    else .next ({ s with fab := { s.fab with paused := none } }).serveAll

/-- PAUSE_TIMEOUT (R202): packets still in flight after 20 µs are discarded. -/
def execPauseTimeout (t : Word64) (s : State) : Host.Outcome State Fault Refusal :=
  let s := s.at t
  match s.fab.paused with
  | some p =>
    if windowOver p 20000 s.tb then .next (s.loseBufs fun _ => true) else .next s
  | none => .next s

end Sys2Proof.Machine
end

