-- ==== Sys2Proof/Machine/Memory.lean ====
section
/-!
DEFINITION. Machine/Memory.lean: the memory controllers, scrub, background retraining and the service of
pages to other devices (08_memory.md).
-/

namespace Sys2Proof.Machine

/-- MEM_REQUEST (R225, R226, R228, R244): a request for a channel that is closed, or behind one for the same unit that
waits, waits. -/
def execMemRequest (field : FieldNo) (r : MemReq) (s : State) : Host.Outcome State Fault Refusal :=
  if s.isDark field then .next s else .next (s.memArrive field (.unit r))

/-! ### Scrub (R227, R239) -/

/-- The site whose mirror holds a page. DEDUCED, log entry 33. -/
def State.mirrorOwner (s : State) (pg : Nat) : Option SiteNo :=
  (List.finRange 40).find? fun n =>
    let m := (s.site n).mirror
    mirrorValid m && decide (mirrorFirst m ≤ pg) && decide (pg < mirrorFirst m + mirrorPages m)

/-- The page-map address that a byte of a site is bound to: its frame's page now (R230, R231, R238); none where no
page is. -/
def State.siteAddr (s : State) (ms : MemNo) (x : Nat) : Option Nat :=
  let f := fieldOfMem ms
  let o := if s.twoSites f then x / 4096 * 8192 + ms.val % 2 * 4096 + x % 4096 else x
  let frame := o / 8388608
  let page := match s.mem.pages.find? fun e =>
      e.2.valid && decide (e.2.field = f) && decide (e.2.frame.toNat = frame) with
    | some e => e.1
    | none => ((List.range f.val).map s.framesOf).sum + frame
  let v := tget s.pageD s.mem.pages page
  if v.valid && decide (v.field = f) && decide (v.frame.toNat = frame) then some (page * 8388608 + o % 8388608)
  else none

/-- A unit that scrub reads: a mirror unit beyond ECC is rewritten from the granary, or its core reports GRANARY_LOST;
no write-back is made over a newer write (R227, R239). DEDUCED, log entry 33. -/
def State.scrubUnit (s : State) (ms : MemNo) (a : Nat) (ecc : EccObs) (written granaryGood : Bool) : State :=
  let ch := chanOf s (fieldOfMem ms) a
  match ecc, s.mirrorOwner (a / 8388608) with
  | .uncorrectable, some n =>
    let off := a - mirrorFirst (s.site n).mirror * 8388608
    let s := s.modMsite ms fun m => { m with ecc := eccUncorrectable m.ecc }
    if granaryGood then
      let s := if written then s else s.ddrWrite a ((s.site n).granRead off 64)
      s.fault 0x0209 (some n) (BitVec.ofNat 32 (ms.val + 16 * ch.val)) (BitVec.ofNat 64 a)
    else s.hwFault n 0x000D 0 (BitVec.ofNat 64 (off / 4096 * 4096))
  | e, _ => s.memEcc ms ch a e true

/-- The next byte of a site that scrub reads, with its address; a unit that no page is bound to is passed over (R227). -/
def State.scrubNext (s : State) (ms : MemNo) : Option Nat := s.siteAddr ms (s.msite ms).scrubAt

/-- MEM_SCRUB (R226, R227, R239): the next unit of the site in address order is read. A command that names another unit
is no scrub of this site. DEDUCED, log entry 33. -/
def execMemScrub (ms : MemNo) (addr : BitVec 41) (ecc : EccObs) (written granaryGood : Bool) (s : State) :
    Host.Outcome State Fault Refusal :=
  let f := fieldOfMem ms
  let a := addr.toNat / 64 * 64
  if (s.msite ms).st ≠ 2 ∨ s.isDark f = true ∨ s.fieldStopped f = true ∨
     ((s.msite ms).chan (chanOf s f a)).closed = true then .next s
  else
    let t := s.modMsite ms fun m => { m with scrubAt := (m.scrubAt + 64) % 85899345920 }
    match s.scrubNext ms with
    | none => .next t
    | some b => if b ≠ a then .next s else .next (t.scrubUnit ms a ecc written granaryGood)

/-- The first temperature read after a start is that of a channel's training (R243). DEDUCED, log entry 31. -/
def Channel.firstTemp (c : Channel) (temp : Byte) : Channel :=
  if c.tempKnown then c else { c with tempAt := temp, tempKnown := true }

/-- MEM_TEMP_READ (R243, R255). -/
def execMemTempRead (ms : MemNo) (temp : Byte) (s : State) : Host.Outcome State Fault Refusal :=
  let m := s.msite ms
  if m.st = 0 ∨ m.st = 3 then .next s
  else
    .next (s.setMsite ms ((List.finRange 4).foldl (fun m ch => m.setChan ch ((m.chan ch).firstTemp temp))
      { m with temp := temp }))

/-! ### Background retraining (R243 to R245) -/

/-- Difference of two temperatures. -/
def tempGap (a b : Byte) : Nat := if a ≤ b then b.toNat - a.toNat else a.toNat - b.toNat

/-- A cause makes a channel due (R243). -/
def State.retrainDue (s : State) (ms : MemNo) (ch : Fin 4) (cause : RetrainCause) : Bool :=
  let m := s.msite ms
  let c := m.chan ch
  match cause with
  | .age => windowOver c.trained 10000000000 s.tb
  | .temperature => c.tempKnown && decide (5 ≤ tempGap m.temp c.tempAt)
  | .repeats => decide (4 ≤ c.repeats) && decide (c.window = s.tb.toNat / 1000000)
  | .failedBurst => s.mem.waiting.any fun e => decide (e.after = some (ms, ch))

/-- CHANNEL_RETRAIN_DUE (R243). -/
def execChannelRetrainDue (ms : MemNo) (ch : Fin 4) (cause : RetrainCause) (t : Word64) (s : State) :
    Host.Outcome State Fault Refusal :=
  let s := s.at t
  let m := s.msite ms
  let c := m.chan ch
  if m.st ≠ 2 ∨ c.due.isSome = true ∨ s.retrainDue ms ch cause = false then .next s
  else .next (s.modChan ms ch fun c => { c with due := some s.tb })

/-- The sites of a field's controller. -/
def sitesOfMem (f : FieldNo) : List MemNo := [⟨2 * f.val, by omega⟩, ⟨2 * f.val + 1, by omega⟩]

/-- The channels of a controller with the times they became due. -/
def State.dueChans (s : State) (f : FieldNo) : List (MemNo × Fin 4 × Word64) :=
  (sitesOfMem f).flatMap fun ms =>
    (List.finRange 4).filterMap fun ch => (((s.msite ms).chan ch).due).map fun t => (ms, ch, t)

/-- The channel a controller retrains next: due longest, ties to the lower site and channel (R243). -/
def State.nextRetrain (s : State) (f : FieldNo) : Option (MemNo × Fin 4) :=
  match s.dueChans f with
  | [] => none
  | x :: xs =>
    let b := xs.foldl (fun b y => if y.2.2 < b.2.2 then y else b) x
    some (b.1, b.2.1)

/-- The channel a controller is retraining. -/
def State.retrainingIn (s : State) (f : FieldNo) : Option (MemNo × Fin 4) :=
  (sitesOfMem f).findSome? fun ms => ((s.msite ms).retraining).map fun ch => (ms, ch)

/-- RETRAIN_STEP_START (R243, R244): a step closes the channel: one channel of a controller at a time, and
at least 20 µs after the step before. -/
def execRetrainStepStart (ms : MemNo) (ch : Fin 4) (t : Word64) (s : State) :
    Host.Outcome State Fault Refusal :=
  let s := s.at t
  let f := fieldOfMem ms
  let m := s.msite ms
  let c := m.chan ch
  let turn := match s.retrainingIn f with
    | some x => decide (x = (ms, ch))
    | none => decide (s.nextRetrain f = some (ms, ch))
  if m.st ≠ 2 ∨ turn = false ∨ c.closed = true ∨
     (c.lastStep ≠ 0 ∧ windowOver c.lastStep 20000 s.tb = false) then .next s
  else
    .next (s.setMsite ms { m.setChan ch { c with closed := true, steps := c.steps + 1 } with
      retraining := some ch })

/-- A retrain of a channel has ended: what waited for it is served with the rest (R225). -/
def State.retrained (s : State) (ms : MemNo) (ch : Fin 4) : State :=
  { s with mem := { s.mem with
      waiting := s.mem.waiting.map fun e => if e.after = some (ms, ch) then { e with after := none } else e } }

/-- Every request that waits at a field's controller is answered UNREACHABLE (R250). -/
def State.refuseField (s : State) (f : FieldNo) : State :=
  let mine := s.mem.waiting.filter fun e => decide (e.field = f)
  mine.foldl (fun s e => s.workAnswer f 4 [] e.work)
    { s with mem := { s.mem with waiting := s.mem.waiting.filter fun e => decide (e.field ≠ f) } }

/-- A channel fails: its field's memory is out of service, and what waits at its controller is answered (R245,
R250). -/
def State.channelFailed (s : State) (ms : MemNo) (ch : Fin 4) : State :=
  let s := s.modChan ms ch fun c => { c with rate := 0, due := none, steps := 0, fails := 0 }
  let s := (s.modMsite ms fun m => { m with st := 3, retraining := none, temp := 0 }).fault 0x0205 none
    (BitVec.ofNat 32 (ms.val + 16 * ch.val)) 0
  (s.fieldMemoryLost (fieldOfMem ms) false).refuseField (fieldOfMem ms)

/-- A retrain that could not centre the channel: repeated once, then one rate lower, at 20 Gbit/s failed
(R245). DEDUCED, log entry 31. -/
def State.retrainFailed (s : State) (ms : MemNo) (ch : Fin 4) : State :=
  let c := (s.msite ms).chan ch
  if c.fails = 0 then s.modChan ms ch fun c => { c with steps := 0, fails := 1 }
  else if c.rate ≤ 1 then s.channelFailed ms ch
  else
    (s.modChan ms ch fun c => { c with rate := c.rate - 1, steps := 0, fails := 0 }).fault 0x0204 none
      (BitVec.ofNat 32 (ms.val + 16 * ch.val) ||| fieldAt (c.rate - 1) 6) 0

/-- RETRAIN_STEP_END (R225, R244, R245, R250): the channel reopens and what waited is served. A sixth step that has
not centred the channel has failed. DEDUCED, log entry 31. -/
def execRetrainStepEnd (ms : MemNo) (ch : Fin 4) (obs : RetrainObs) (s : State) :
    Host.Outcome State Fault Refusal :=
  let c := (s.msite ms).chan ch
  if c.closed = false then .next s
  else
    let s := s.modChan ms ch fun c => { c with closed := false, lastStep := s.tb }
    let s := match obs with
      | .centred =>
        (s.modMsite ms fun m =>
          let c := m.chan ch
          { m.setChan ch { c with trained := s.tb, tempAt := m.temp, repeats := 0, due := none, steps := 0,
                                  fails := 0 } with
            retraining := none, retrains := m.retrains + 1 }).retrained ms ch
      | .more => if c.steps < 6 then s else s.retrainFailed ms ch
      | .notCentred => s.retrainFailed ms ch
    .next (s.serveField (fieldOfMem ms))

/-! ### Pages for other devices (R246, R247) -/

/-- A remote page request is looked up, and served by the controller that holds its page like a local request of the
link's owner, or refused with the page untouched (R246 to R248). -/
def State.remotePage (s : State) (r : RemoteReq) : State :=
  let st := s.remoteCode r
  if st ≠ 0 then s.remoteReply r.link (remotePkt r) (if r.write then 2 else 4) st []
  else s.memArrive (s.page (r.addr.toNat / 8388608)).field (.remote r)

/-- REMOTE_PAGE_REQUEST (R246, R247, R29). -/
def execRemotePageRequest (r : RemoteReq) (s : State) : Host.Outcome State Fault Refusal :=
  if (s.link r.link).st ≠ .up then .next s else .next (s.remotePage r)

end Sys2Proof.Machine
end

