-- ==== Sys2Proof/Machine/Clock.lean ====
section
/-!
DEFINITION. Machine/Clock.lean: stretching, margins, crossings, frequency-change stops and the time base
(12_clocking.md).
-/

namespace Sys2Proof.Machine

/-- A stretch event of a region's oscillator; a core region's also counts in CORE_SLIP_STRETCH (R342,
R153). -/
def State.stretch (s : State) (r : RegionNo) : State :=
  let s := s.modRegion r fun g => { g with stretches := satInc g.stretches }
  if h : r.val < 40 then s.modSite ⟨r.val, h⟩ fun c => { c with slipStretch := satInc c.slipStretch }
  else s

/-- A region's clock runs. -/
def Region.runs (g : Region) : Bool := decide (g.st = 1) || decide (g.st = 3)

/-- DROOP_TRIP (R342, R369, R350): a detector trips and every healthy phase switches on. The cycle that the first of
them trips in is stretched, and every following one until the last has cleared. A trip during a stop has no effect. -/
def execDroopTrip (site : SiteNo) (detector : BitVec 6) (s : State) :
    Host.Outcome State Fault Refusal :=
  let r : RegionNo := ⟨site.val, by omega⟩
  if (s.region r).runs = false then .next s
  else
    let first := decide ((s.site site).detectors = 0)
    let s := s.modSite site fun c =>
      { c with detectors := setBit c.detectors detector.toNat true, droopHold := none,
               droopSince := if first then c.cycle else c.droopSince }
    .next (if first then s.stretch r else s)

/-- DROOP_DETECTOR_CLEAR (R342, R369): when the last detector clears, the phases stay on for 10 µs more. -/
def execDroopDetectorClear (site : SiteNo) (detector : BitVec 6) (t : Word64) (s : State) :
    Host.Outcome State Fault Refusal :=
  let s := s.at t
  .next (s.modSite site fun c =>
    let ds := setBit c.detectors detector.toNat false
    { c.settleDroop with
             detectors := ds,
             droopHold := if c.detectors ≠ 0 ∧ ds = 0 then some s.tb else c.droopHold })

/-- DROOP_PHASES_RELEASE (R369): 10 µs after the last detector has cleared. -/
def execDroopPhasesRelease (site : SiteNo) (t : Word64) (s : State) :
    Host.Outcome State Fault Refusal :=
  let s := s.at t
  let c := s.site site
  match c.droopHold with
  | some u =>
    if c.detectors = 0 ∧ windowOver u 10000 s.tb then
      .next (s.setSite site { c with droopHold := none })
    else .next s
  | none => .next s

/-- SELF_SLOWING (R342): a cycle longer than 1.05 times the set period is a stretch event; a field cycle
longer than 1.2 times stretches the five core sites above. -/
def execSelfSlowing (r : RegionNo) (ratioPermille : Nat) (s : State) :
    Host.Outcome State Fault Refusal :=
  let s1 := if 1050 < ratioPermille then s.stretch r else s
  if h : r.val < 40 then .next s1
  else if 1200 < ratioPermille then
    .next ((sitesOfField ⟨r.val - 40, by omega⟩).foldl
      (fun s n => if (s.region ⟨n.val, by omega⟩).runs then s.stretch ⟨n.val, by omega⟩ else s) s1)
  else .next s1

/-- MARGIN_WINDOW_END (R343, R363): CRITICAL lowers a core's operating point one step at once. -/
def execMarginWindowEnd (r : RegionNo) (obs : MarginObs) (path : BitVec 4) (s : State) :
    Host.Outcome State Fault Refusal :=
  let d : Word32 := BitVec.ofNat 32 r.val ||| fieldAt path 6
  match obs with
  | .good => .next (s.modRegion r fun g => { g with margin := 0 })
  | .low => .next ((s.modRegion r fun g => { g with margin := 1 }).fold 0x0401 r.val d 0)
  | .critical =>
    let s := (s.modRegion r fun g => { g with margin := 2, critical := some s.tb }).fold 0x0402 r.val d 0
    let s := s.stretch r
    if h : r.val < 40 then
      let n : SiteNo := ⟨r.val, h⟩
      .next (if (s.site n).op = 0 then s else s.setOp n ((s.site n).op - 1))
    else .next s

/-! ### Frequency-change stop (R349, R350) -/

/-- A set frequency of Table 12.1: that of an operating point, or FULL or LOW. -/
def legalMhz (r : RegionNo) (mhz : BitVec 11) : Bool :=
  if r.val < 40 then (List.range 8).any fun i => decide (opMhz (BitVec.ofNat 3 i) = mhz)
  else decide (mhz = 1000) || decide (mhz = 900)

/-- FREQ_CHANGE_START (R349, R338, R339): credits are withheld at the unit's crossings. A frequency that is none of
the region's is never set, and a core site never above 1.25 times its field's. -/
def execFreqChangeStart (r : RegionNo) (mhz : BitVec 11) (t : Word64) (s : State) :
    Host.Outcome State Fault Refusal :=
  let s := s.at t
  if legalMhz r mhz = false then .next s
  else if h : r.val < 40 then
    let f := fieldOfSite ⟨r.val, h⟩
    if 5 * (s.region ⟨40 + f.val, by omega⟩).mhz.toNat < 4 * mhz.toNat then .next s
    else .next (s.startChange r mhz s.tb)
  else .next (s.startChange r mhz s.tb)

/-- A crossing has an end in the unit of a region (Table 12.2). -/
def crossingIn (r : RegionNo) (x : Nat) : Bool :=
  if x < 80 then decide (r.val = x % 40)  ||
    (coresOf r).any fun q => decide (q.val = x % 40)
  else
    let p := lintelPort ((x - 80) / 4) ((x - 80) % 4)
    (unitOf r).any fun q => decide (q.val = 40 + (fieldOfRtr p.1).val) ||
      decide (q.val = 40 + (fieldOfRtr (neighbour p.1 p.2.val)).val)

/-- The crossings in service with an end in a unit are in RECAL (R344, R347, R221). -/
def State.recalibrating (s : State) (r : RegionNo) : State :=
  (List.range 120).foldl
    (fun s x =>
      if crossingIn r x = false ∨ (s.crossing x).mode ≠ 1 then s
      else
        let s := s.setCrossing x { s.crossing x with mode := 2 }
        if x < 80 then s
        else s.setLintel ((x - 80) / 4) { s.lintel ((x - 80) / 4) with mode := 2 }) s

/-- A core site stops with its half; a change of its own requested before is carried out in the same stop (R349,
R350). -/
def Region.stopInHalf (g : Region) : Region :=
  if g.runs then { g with st := 2, inHalf := g.st, joined := g.change.isSome } else g

/-- CLOCK_STOP (R349): the unit's clocks stop at a cycle boundary; a half's core sites stop with it. -/
def execClockStop (r : RegionNo) (s : State) : Host.Outcome State Fault Refusal :=
  let g := s.region r
  if g.change.isNone ∨ g.runs = false then .next s
  else
    let stop : Region → Region := fun g => if g.runs then { g with st := 2 } else g
    let s := ((s.modRegions (unitOf r) stop).modRegions (coresOf r) Region.stopInHalf).recalibrating r
    .next { s with clk := { s.clk with changes := s.clk.changes + 1 } }

/-- Largest latency of a crossing's kind (Table 12.2). -/
def crossingLimit (x : Nat) : Nat := if x < 40 then 6 else if x < 80 then 8 else 10

/-- DETAIL of CAL_FAIL (Table 12.5). -/
def calDetail (x : Nat) (rev : Bool) (found : Option (BitVec 4)) : Word32 :=
  let kind : Nat := if x < 40 then 0 else if x < 80 then 1 else 2
  let part : Nat := if x < 40 then x else x - (if x < 80 then 40 else 80)
  BitVec.ofNat 32 kind ||| BitVec.ofNat 32 (part * 4) ||| bitAt rev 8 |||
  fieldAt (found.getD 15) 9

/-- One direction of a calibration is good (R347). -/
def calGood (x : Nat) (v : Option (BitVec 4)) : Bool :=
  match v with
  | some c => decide (c.toNat ≤ crossingLimit x)
  | none => false

/-- Mode of a lintel: recalibrating while any of its links is (R221). -/
def State.lintelMode (s : State) (lt : Nat) : BitVec 2 :=
  if (List.range 4).any fun l => decide ((s.crossing (80 + 4 * lt + l)).mode = 2) then 2 else 1

/-- A crossing fails its calibration: its site is unusable and replaced, or its lintel link is absent
(R347, R207). -/
def State.calFail (s : State) (x : Fin 120) (rev : Bool) (found : Option (BitVec 4)) : State :=
  let d := calDetail x.val rev found
  let s := { s with clk := { s.clk with calFails := satInc s.clk.calFails } }
  let s := s.setCrossing x.val { s.crossing x.val with mode := 3 }
  if h : x.val < 80 then
    let n : SiteNo := ⟨x.val % 40, by omega⟩
    ((s.report 0x0403 (some n) d 0).modSite n fun c => { c with bad := true, spare := false }).mapOut 0
      n.val 0x0403
  else
    let lt := (x.val - 80) / 4
    let link := (x.val - 80) % 4
    let s := s.fault 0x0403 none d 0
    let l := s.lintel lt
    let s := s.setLintel lt { l with mode := s.lintelMode lt, planeDown := l.planeDown ||| (3 : BitVec 8) <<< (2 * link) }
    { s with fab := { s.fab with tablesDue := true } }

/-- Calibrated latency of a lintel: the largest of its links in DET (R221). DEDUCED, log entry 96. -/
def State.lintelLat (s : State) (lt : Nat) (f : Crossing → BitVec 4) : BitVec 4 :=
  (List.range 4).foldl
    (fun m l => let c := s.crossing (80 + 4 * lt + l); if c.mode = 1 ∧ m < f c then f c else m) 0

/-- A lane of a lintel link: reverse direction, plane and group (R207). -/
def lintelLane (lt l : Nat) (x : Bool × Bool × BitVec 7) : Lane :=
  let p := lintelPort lt l
  if x.1 then { rtr := p.1, inp := p.2, plane := x.2.1, group := x.2.2 }
  else { rtr := neighbour p.1 p.2.val, inp := ⟨opposite p.2.val % 4, by omega⟩, plane := x.2.1, group := x.2.2 }

/-- A crossing is calibrated with the latencies found, or fails (R347); a lintel's faulty lanes take their spares
(R207). -/
def State.calibrate (s : State) (x : Fin 120) (o : CalObs) : State :=
  if calGood x.val o.fwd = false then s.calFail x false o.fwd
  else if calGood x.val o.rev = false then s.calFail x true o.rev
  else
    let f := o.fwd.getD 0
    let r := o.rev.getD 0
    let s := s.setCrossing x.val { mode := 1, fwd := f, rev := r }
    if x.val < 80 then s
    else
      let lt := (x.val - 80) / 4
      let s := s.setLintel lt { s.lintel lt with mode := s.lintelMode lt, latFwd := s.lintelLat lt (·.fwd),
                                                 latRev := s.lintelLat lt (·.rev) }
      (o.lanes.map (lintelLane lt ((x.val - 80) % 4))).foldl State.repairLane s

/-- A core site stopped with its half is retuned there: to a change of its own that joined the stop, or with the
field it is slaved to (R348, R350). -/
def Region.retuneInHalf (mhz : BitVec 11) (g : Region) : Region :=
  match g.joined, g.change with
  | true, some (m, _) => { g with mhz := m }
  | _, _ => if g.inHalf = 3 then { g with mhz := mhz } else g

/-- OSC_LOCKED (R349, R347, R350): the retuned oscillators lock at the requested frequency and the unit's crossings
in RECAL are calibrated. -/
def execOscLocked (r : RegionNo) (cals : List (Fin 120 × CalObs)) (s : State) :
    Host.Outcome State Fault Refusal :=
  let g := s.region r
  match g.change with
  | some (mhz, _) =>
    if g.st ≠ 2 ∨ g.calDone then .next s
    else
      let s := s.modRegions (unitOf r) fun g => { g with mhz := mhz, calDone := true }
      let s := s.modRegions (coresOf r) (Region.retuneInHalf mhz)
      .next (cals.foldl
        (fun s p => if crossingIn r p.1.val = true ∧ (s.crossing p.1.val).mode = 2 then s.calibrate p.1 p.2 else s) s)
  | none => .next s

/-- The controllers of a unit's fields serve what has waited for their clocks (R349). -/
def State.servedAgain (s : State) (r : RegionNo) : State :=
  (List.finRange 8).foldl
    (fun s f => if (unitOf r).any fun q => decide (q.val = 40 + f.val) then s.serveField f else s) s

/-- A crossing of a unit still recalibrates. -/
def State.recalLeft (s : State) (r : RegionNo) : Bool :=
  (List.range 120).any fun x => crossingIn r x && decide ((s.crossing x).mode = 2)

/-- A stop of a unit has ended: a latched request starts its own (R350, R420). -/
def State.nextChange (s : State) (r : RegionNo) (latched : Option (BitVec 11)) : State :=
  match latched with
  | some m => s.startChange r m s.tb
  | none => s

/-- A core site that stopped with its half restarts with it; of a change that joined the stop the voltage follows
(R349, R350, R362). -/
def State.restartCore (s : State) (n : SiteNo) : State :=
  let r : RegionNo := ⟨n.val, by omega⟩
  let g := s.region r
  if g.st ≠ 2 ∨ g.inHalf = 0 then s
  else if g.joined then
    ((s.setRegion r { g with st := g.inHalf, inHalf := 0, joined := false, change := none, latched := none }).setVolt
      n).nextChange r g.latched
  else s.setRegion r { g with st := g.inHalf, inHalf := 0 }

/-- A core site's own stop has ended: it restarts, and its voltage follows; while its half is stopped it goes on
with that (R349, R362). -/
def State.restartOwn (s : State) (n : SiteNo) : State :=
  let r : RegionNo := ⟨n.val, by omega⟩
  let g := s.region r
  let held := s.fieldStopped (fieldOfSite n)
  (s.setRegion r { g with st := if held then 2 else 1, inHalf := if held then 1 else 0, change := none,
                          latched := none, calDone := false }).setVolt n

/-- FREQ_CHANGE_RESTART (R349, R350): with every crossing of the unit calibrated, clocks restart and credits resume,
and what has waited for them goes on; a latched request for another frequency starts its own stop. -/
def execFreqChangeRestart (r : RegionNo) (s : State) : Host.Outcome State Fault Refusal :=
  let g := s.region r
  if g.st ≠ 2 ∨ g.calDone = false ∨ s.recalLeft r = true then .next s
  else
    let s := if h : r.val < 40 then s.restartOwn ⟨r.val, h⟩
      else
        let s := s.modRegions (unitOf r) fun g => { g with st := 1, change := none, latched := none, calDone := false }
        (List.finRange 40).foldl
          (fun s n => if (coresOf r).contains ⟨n.val, by omega⟩ then s.restartCore n else s) s
    .next (((s.servedAgain r).serveAll).nextChange r g.latched)

/-- CAL_TIMEOUT (R347): a calibration not complete within 2 µs fails. -/
def execCalTimeout (x : Fin 120) (s : State) : Host.Outcome State Fault Refusal :=
  .next (if (s.crossing x.val).mode = 2 then s.calFail x false none else s)

/-- OSC_FAIL (R357): a core region's site is unusable; a field is handled as dark. -/
def execOscFail (r : RegionNo) (lock : Bool) (s : State) : Host.Outcome State Fault Refusal :=
  let d : Word32 := BitVec.ofNat 32 r.val ||| bitAt lock 6
  if h : r.val < 40 then
    let n : SiteNo := ⟨r.val, h⟩
    .next (((s.report 0x0404 (some n) d 0).modSite n fun c =>
      { c with bad := true, spare := false }).mapOut 0 n.val 0x0404)
  else .next ((s.fault 0x0404 none d 0).fieldDark ⟨r.val - 40, by omega⟩)

/-! ### The time base (R355, R356) -/

/-- OFFSET, saturating at ±32,767 (Table 12.8). -/
def tbOffset (d : Int) : BitVec 16 :=
  if 32767 < d then 32767 else if d < -32767 then BitVec.ofInt 16 (-32767) else BitVec.ofInt 16 d

/-- TB_UPDATE (R355, R356): an epoch on the timing parent link. The offset is the arrival less TSTAMP
less the cable delay; the time base is stepped before the first READY and slewed after it. DEDUCED, log entry 41. -/
def execTbUpdate (tstamp arrival : Word64) (parentMaster : Bool) (t : Word64) (s : State) :
    Host.Outcome State Fault Refusal :=
  let s := s.at t
  if s.clk.parentEn = false ∨ s.parentUp = false then .next s
  else if s.clk.master then
    if parentMaster ∧ s.clk.conflict = false then
      let l : LinkNo := ⟨s.clk.parentLink.toNat % 96, by omega⟩
      let s := s.fault 0x0406 none (s.clk.parentLink.setWidth 32) ((s.link l).peerDev.setWidth 64)
      .next { s with clk := { s.clk with conflict := true } }
    else .next s
  else
    let l : LinkNo := ⟨s.clk.parentLink.toNat % 96, by omega⟩
    let d : Int := (arrival - tstamp - (s.link l).cableNs.setWidth 64).toInt
    let good := if d.natAbs ≤ 4 then s.clk.good + 1 else 0
    let clk := { s.clk with offset := tbOffset d, good := good,
                            locked := s.clk.locked || decide (10 ≤ good) }
    if s.clk.everReady then .next { s with clk := { clk with slew := -d, lastUpdate := s.tb } }
    else
      let tb := s.tb - BitVec.ofInt 64 d
      .next { s with tb := tb, clk := { clk with lastUpdate := tb } }

/-- TB_UNLOCK (R356): no parent update for 1 ms. -/
def execTbUnlock (t : Word64) (s : State) : Host.Outcome State Fault Refusal :=
  let s := s.at t
  if s.clk.locked ∧ windowOver s.clk.lastUpdate 1000000 s.tb then
    let s := { s with clk := { s.clk with locked := false, good := 0 } }
    .next (s.fault 0x0405 none (s.clk.parentLink.setWidth 32) 0)
  else .next s

end Sys2Proof.Machine
end

