-- ==== Sys2Proof/Machine/Mirror.lean ====
section
/-!
DEFINITION. Machine/Mirror.lean: a logical core that moves to a spare: choice of the spare (R414), binding
(R415), the exchange of mirror pages (R238) and the refill (R237).
-/

namespace Sys2Proof.Machine

/-! ### Exchange of mirror pages (R238) -/

/-- Pages of the mirror of site n. -/
def State.mirrorRange (s : State) (n : SiteNo) : List Nat :=
  let m := (s.site n).mirror
  if mirrorValid m then (List.range (mirrorPages m)).map fun i => mirrorFirst m + i else []

/-- The partner of a mirror page: the lowest-numbered GENERAL page of an owner in the lowest-numbered
field other than f that holds no page of the mirror (R238). -/
def State.partner (s : State) (mirror : List Nat) (f : FieldNo) (o : Option HamletNo) : Option Nat :=
  let fields := (List.finRange 8).filter fun g =>
    decide (g ≠ f) && !mirror.any fun p => decide ((s.page p).field = g)
  fields.findSome? fun g =>
    (List.range s.pageCap).find? fun p =>
      let v := s.page p
      v.valid && decide (v.field = g) && decide (v.kind = 0) && decide (v.owner = o)

/-- Two entries exchange FIELD and FRAME at one commit (R238). DEDUCED, log entry 62. -/
def State.swapFrames (s : State) (p q : Nat) : State :=
  let a := s.page p
  let b := s.page q
  (s.modPage p fun v => { v with field := b.field, frame := b.frame }).modPage q fun v =>
    { v with field := a.field, frame := a.frame }

/-- Each mirror page in the field of site n is exchanged; a page with no partner stays (R238). Answers the
number exchanged and the number left. -/
def State.exchangeAll (s : State) (n : SiteNo) : List Nat → State × Nat × Nat
  | [] => (s, 0, 0)
  | p :: ps =>
    let f := fieldOfSite n
    if (s.page p).valid && decide ((s.page p).field = f) then
      match s.partner (s.mirrorRange n) f (s.page p).owner with
      | some q => let r := (s.swapFrames p q).exchangeAll n ps; (r.1, r.2.1 + 1, r.2.2)
      | none => let r := s.exchangeAll n ps; (r.1, r.2.1, r.2.2 + 1)
    else s.exchangeAll n ps

/-- The exchange for a core just bound to site n, with its records (R238, R251, R253); answers the pages
exchanged. DEDUCED, log entry 62. -/
def State.exchange (s : State) (n : SiteNo) : State × Nat :=
  let r := s.exchangeAll n (s.mirrorRange n)
  let a : Word64 := BitVec.ofNat 64 (mirrorFirst (s.site n).mirror * 8388608)
  let s := r.1
  let s := if r.2.1 = 0 then s else s.fault 0x0208 (some n) (BitVec.ofNat 32 r.2.1) a
  let s := if r.2.2 = 0 then s
    else
      (s.modSite n fun c => { c with mirrorDegraded := true, mirrorGone := s.mirrorAway n }).fault 0x0207 (some n)
        (BitVec.ofNat 32 r.2.2) a
  (s, r.2.1)

/-! ### Binding (R415) -/

/-- The core map binds a logical core to the spare chosen for it, at one commit: the spare takes the
hamlet, the mirror and the LAUNCH of the site it replaces, its granary is to be refilled, and CORE_REPLACED
is recorded (R415, R424). A site that is not fused good is never bound. -/
def State.bindChosen (s : State) (n : SiteNo) : State :=
  match (s.site n).chosen with
  | none => s
  | some (lc, old) =>
    if s.fuses.siteGood.getLsbD n.val = false ∨ n = old then s
    else
      let o := s.site old
      let s := s.bind lc (some n)
      let s := s.modSite old fun c =>
        { c with bound := none, hamlet := none, mirror := 0, mirrorDegraded := false, mirrorGone := 0, launch := none }
      let s := s.modSite n fun c =>
        { c with bound := some lc, hamlet := o.hamlet, mirror := o.mirror,
                 mirrorDegraded := o.mirrorDegraded, mirrorGone := o.mirrorGone, launch := o.launch, hint := o.hint,
                 chosen := none, spare := false, refillDue := true }
      let r := s.exchange n
      r.1.fault 0x0604 (some n) (BitVec.ofNat 32 (old.val + 64 * n.val + 4096 * lc.val))
        (BitVec.ofNat 64 r.2)

/-- No request to a page whose frame the binding of site n's core would exchange is in flight (R233, R238). -/
def State.exchangeReady (s : State) (n : SiteNo) : Bool :=
  (s.bindChosen n).mem.pages.all fun e => decide (e.2 = tget s.pageD s.mem.pages e.1) || !s.pageBusy e.1

/-- A core domain enters admission (Table 13.5, R371). -/
def State.admitSite (s : State) (n : SiteNo) : State :=
  let s := s.modDom (domOfSite n) fun v => { v with st := .wait, since := s.tb }
  s.modSite n fun c => { c with pwr := .inTransition, pwrPending := none }

/-- A site can be used: fused good, not recorded bad, not quarantined, its field lit and its domain not
failed (R456, R414). -/
def State.usable (s : State) (n : SiteNo) : Bool :=
  let c := s.site n
  s.fuses.siteGood.getLsbD n.val && !c.bad && !c.quarantined && !s.isDark (fieldOfSite n) &&
  decide ((s.dom (domOfSite n)).st ≠ .failed)

/-- A site can be chosen as a spare: usable, OFF, bound to no logical core, its IBC in service (R414). -/
def State.isSpare (s : State) (n : SiteNo) : Bool :=
  let c := s.site n
  s.usable n && decide (c.pwr = .off) && c.bound.isNone && c.chosen.isNone &&
  s.pwr.ibcOk.getLsbD (fieldOfSite n).val

/-- The domain of a site is switched off (Table 13.5): shutters closed, voltage 0. -/
def State.powerOff (s : State) (n : SiteNo) : State :=
  let s := s.modDom (domOfSite n) fun v => if v.st = .failed then v else { v with st := .off, mv := 0 }
  let s := s.modRegion ⟨n.val, by omega⟩ fun r => { r with st := 0, change := none, latched := none, inHalf := 0, joined := false }
  s.switchOff n

end Sys2Proof.Machine
end

