-- ==== Sys2Proof/Machine/Power.lean ====
section
/-!
DEFINITION. Machine/Power.lean: operating points, caps, forecasts, admission, phases, converters,
telemetry, impedance and the power group (13_power.md; 10_bells_collectives.md, R306 and R307).
-/

namespace Sys2Proof.Machine

/-- The preferred operating point of a core: the latest PHASE_HINT or LAUNCH field, else the role
default (R363). -/
def State.preferOp (s : State) (n : SiteNo) : BitVec 3 := ((s.site n).hint).getD (roleOp s.role)

/-- CRITICAL within the last 100 ms forbids a raise (Table 13.3). -/
def State.noRaise (s : State) (n : SiteNo) : Bool :=
  match (s.region ⟨n.val, by omega⟩).critical with
  | some t => !windowOver t 100000000 s.tb
  | none => false

/-- Every bound site of the half of field f is at OP3 or below (R364). -/
def State.halfSlow (s : State) (f : FieldNo) : Bool :=
  (List.finRange 40).all fun n =>
    !(s.site n).bound.isSome || decide ((s.site n).op ≤ 3) ||
    !decide (isWest (fieldOfSite n) = isWest f)

/-- A base rail of the half of field f is held at LOW (R364). -/
def State.halfHeld (s : State) (f : FieldNo) : Bool :=
  (List.finRange 8).any fun g => decide (isWest g = isWest f) && s.railLow g

/-- The half of field f moves between FULL and LOW as its sites or its rails require (R364). -/
def State.halfSpeed (s : State) (f : FieldNo) : State :=
  let r : RegionNo := ⟨40 + f.val % 4 / 2 * 2, by omega⟩
  let g := s.region r
  let slow := s.halfSlow f
  let s := s.modRegion r fun g =>
    { g with lowSince := if slow then (match g.lowSince with | some t => some t | none => some s.tb)
                         else none }
  let low := s.halfHeld f ||
    (match g.lowSince with | some t => slow && windowOver t 10000000 s.tb | none => false)
  s.startChange r (if low then 900 else 1000) s.tb

/-- The thermal row of Table 13.3: held at OP0 until 10 ms below 100 °C, the first of which ends at the
evaluation that first finds the site below it. -/
def Domain.cooling (d : Domain) (hot105 below100 : Bool) (now : Word64) : Domain :=
  if hot105 then { d with hot := true, cool := 0 }
  else if d.hot = false then d
  else if below100 = false then { d with cool := 0 }
  else if d.cool = 0 then { d with cool := now }
  else if windowOver d.cool 9000000 now then { d with hot := false, cool := 0 }
  else d

/-- OP_WINDOW_EVALUATE (R363, R364, Table 13.3). It moves no site still slaved to its field (R370). DESIGN CHOICE, log entry 100. -/
def execOpWindowEvaluate (site : SiteNo) (hot105 below100 : Bool) (meanCap : BitVec 5) (s : State) :
    Host.Outcome State Fault Refusal :=
  let d := domOfSite site
  let r : RegionNo := ⟨site.val, by omega⟩
  let f := fieldOfSite site
  if (s.dom d).st ≠ .on ∨ (s.region r).st = 3 then .next s
  else
    let s := s.modDom d fun v => v.cooling hot105 below100 s.tb
    let v := s.dom d
    let op := (s.site site).op
    if v.hot then .next ((if op = 0 then s else s.setOp site 0).halfSpeed f)
    else if (s.region r).margin = 1 then
      if v.trim.toNat < 30 ∧ v.mv.toNat + v.trim.toNat < 900 then
        .next ((s.modDom d fun v => { v with trim := v.trim + 10 }).halfSpeed f)
      else .next ((if op = 0 then s.modDom d fun v => { v with trim := 0 }
                   else s.setOp site (op - 1)).halfSpeed f)
    else if meanCap < 12 then .next ((if op = 0 then s else s.setOp site (op - 1)).halfSpeed f)
    else if meanCap = 16 ∧ op < s.preferOp site ∧ s.noRaise site = false then
      .next ((s.setOp site (op + 1)).halfSpeed f)
    else if s.preferOp site < op then .next ((s.setOp site (op - 1)).halfSpeed f)
    else .next (s.halfSpeed f)

/-! ### Caps -/

/-- A cap one level lower, not below 1. -/
def capDown (q : BitVec 5) : BitVec 5 := if q ≤ 1 then 1 else q - 1

/-- A cap one level higher, not above 16. -/
def capUp (q : BitVec 5) : BitVec 5 := if 16 ≤ q then 16 else q + 1

/-- One step of a cap that falls on an excess and rises after ten good windows in a row (Table 13.4). -/
def capStep (q : BitVec 5) (good : Nat) (excess fine : Bool) : BitVec 5 × Nat :=
  if excess then (capDown q, 0)
  else if fine = false then (q, 0)
  else if 10 ≤ good + 1 then (capUp q, 0)
  else (q, good + 1)

/-- q_th at a temperature (Table 13.4): 16 − floor(1.5 × (T − 95)) from 95 °C, at least 1. -/
def thermalCap (t : Nat) : BitVec 5 :=
  if t < 95 then 16 else BitVec.ofNat 5 (max 1 (16 - 3 * (t - 95) / 2))

/-- The IBC cap of a field after a window, and the windows in a row that leave room for a ramp (R365, R371). -/
def State.ibcStep (s : State) (f : Nat) (w : Nat) : State :=
  let q := tget (fun _ => 16) s.pwr.qIbc f
  let g := tget (fun _ => 0) s.pwr.ibcGood f
  let n := capStep q g (decide (1500 < w)) (decide (w ≤ 1350))
  { s with pwr := { s.pwr with
      qIbc := tset (fun _ => 16) s.pwr.qIbc f n.1,
      ibcGood := tset (fun _ => 0) s.pwr.ibcGood f n.2,
      ibcLow := tset (fun _ => 0) s.pwr.ibcLow f (if w ≤ 1380 then tget (fun _ => 0) s.pwr.ibcLow f + 1 else 0) } }

/-- A domain's temperature sample: q_th, and a THERMAL_CAP record when it first falls below 16
(R365, R385). -/
def State.tempStep (s : State) (d : DomainNo) (t : Nat) : State :=
  let v := s.dom d
  let q := if d.val < 40 then thermalCap t else 16
  let s' := s.setDom d { v with temp := satNat 8 t, qTh := q }
  if v.qTh = 16 ∧ q ≠ 16 then
    s'.fold 0x0508 d.val (BitVec.ofNat 32 d.val ||| BitVec.ofNat 32 (t % 128 * 64) ||| fieldAt q 13) 0
  else s'

/-- CAP_WINDOW_END (R365, R366): a 10 µs window of module input, IBC output and temperatures. A window
whose input equals the budget does not lower q_pwr, and a TAKE counts from the next window. -/
def execCapWindowEnd (inputW : BitVec 16) (ibcW : Tab Nat) (temps : Tab Nat) (s : State) :
    Host.Outcome State Fault Refusal :=
  let b := s.windowB
  let n := capStep s.pwr.qPwr s.pwr.pwrGood (decide (b < inputW.toNat))
    (decide (100 * inputW.toNat ≤ 95 * b))
  let s := { s with pwr := { s.pwr with qPwr := n.1, pwrGood := n.2, taken := 0 } }
  let s := (List.range 8).foldl (fun s f => s.ibcStep f (tget (fun _ => 0) ibcW f)) s
  .next ((List.finRange 48).foldl
    (fun s d => if temps.any fun p => p.1 == d.val then s.tempStep d (tget (fun _ => 0) temps d.val) else s) s)

/-! ### Forecasts (R367, R368) -/

/-- FORECAST_ACTIVATE (R367): the regulator acts from 1 µs before the forecast's start. -/
def execForecastActivate (site : SiteNo) (idx : Fin 4) (t : Word64) (s : State) :
    Host.Outcome State Fault Refusal :=
  let s := s.at t
  let c := s.site site
  match c.forecasts[idx.val]? with
  | some f =>
    if s.tb.toNat + 1000 < f.start.toNat then .next s
    else .next (s.setSite site { c with forecasts := c.forecasts.set idx.val { f with active := true } })
  | none => .next s

/-- FORECAST_END (R367): phases and set-point raise return to normal. -/
def execForecastEnd (site : SiteNo) (idx : Fin 4) (t : Word64) (s : State) :
    Host.Outcome State Fault Refusal :=
  let s := s.at t
  let c := s.site site
  match c.forecasts[idx.val]? with
  | some f =>
    if s.tb < f.stop then .next s
    else .next (s.setSite site { c with forecasts := c.forecasts.eraseIdx idx.val })
  | none => .next s

/-- The raise of the set point in mV: 15 mV × LEVEL / 16 of the largest LEVEL acted on (R367). -/
def Site.forecastMv (c : Site) : Nat :=
  15 * ((c.forecasts.filter fun f => f.active).foldl (fun m f => max m f.level.toNat) 0) / 16

/-- The feed length in cycles of the MATRIX that heads an engine's array queue, at the cap and the cycle of
now (R60, R79). DEDUCED, log entry 83. -/
def Engine.headFeed (e : Engine) (cycle : Nat) : Option Nat :=
  match e.arrayQ with
  | [] => none
  | o :: _ =>
    match o.kind with
    | .matrix f => some (feedLen e.cap.toNat cycle (feedSlots f.pair f.sparse o.m))
    | _ => none

/-- Cycles of a clock in whole ns, rounded up. DEDUCED, log entry 83. -/
def cyclesNs (cycles mhz : Nat) : Nat := (cycles * 1000 + mhz - 1) / mhz

/-- The array of an engine has been empty for 1 µs of the core's clock, and the MATRIX at the head of its queue waits
at most for a FEED or a LATCH (R368). DEDUCED, log entry 83. -/
def State.hwForecastDue (s : State) (n : SiteNo) (e : EngNo) : Bool :=
  let c := s.site n
  let g := c.eng e
  decide ((s.region ⟨n.val, by omega⟩).mhz.toNat ≤ (c.cycle - g.idleFrom).toNat) &&
  match g.arrayQ with
  | op :: _ => (match op.kind with | .matrix f => c.waitsOnTiles e op f | _ => false)
  | [] => false

/-- HW_FORECAST (R368): a LEVEL 16 forecast for one engine about to issue, 500 ns ahead, for the
instruction's feed length; a fifth forecast of the core replaces the earliest (R155). DEDUCED, log entry 83. -/
def execHwForecast (site : SiteNo) (eng : EngNo) (t : Word64) (s : State) :
    Host.Outcome State Fault Refusal :=
  let s := s.at t
  let c := s.site site
  let e := c.eng eng
  match e.headFeed c.cycle.toNat with
  | some l =>
    if s.hwForecastDue site eng = false then .next s
    else
      let start := s.tb + 500
      let f : Forecast := { engMask := setBit 0 eng.val true, level := 16, start := start,
                            stop := start + BitVec.ofNat 64 (cyclesNs l (opMhz c.op).toNat), active := true }
      .next (s.setSite site { c with forecasts := addForecast c.forecasts f })
  | none => .next s

/-! ### Admission (R370 to R372) -/

/-- Domains of one IBC in some state. -/
def State.onIbc (s : State) (d : DomainNo) (p : DomainNo → Domain → Bool) : Bool :=
  (List.finRange 48).any fun e =>
    decide (e.val < 40) && decide (fieldOfDom e = fieldOfDom d) && p e (s.dom e)

/-- A domain's turn: no domain of its IBC is in RAMP and none with a lower number waits (R372). -/
def State.admitTurn (s : State) (d : DomainNo) : Bool :=
  !s.onIbc d (fun _ v => decide (v.st = .ramp)) &&
  !s.onIbc d (fun e v => decide (v.st = .wait) && decide (e.val < d.val))

/-- A forecast of another domain of the IBC starts within the next 40 µs (R371). DEDUCED, log entry 99. -/
def State.forecastSoon (s : State) (d : DomainNo) : Bool :=
  (sitesOfField (fieldOfDom d)).any fun n => decide (domOfSite n ≠ d) &&
    (s.site n).forecasts.any fun f => decide (s.tb ≤ f.start) && decide (f.start.toNat < s.tb.toNat + 40000)

/-- The output of a domain's IBC was at most 1,380 W in each of the last ten windows (R371). DEDUCED, log entry 99. -/
def State.ibcRoom (s : State) (d : DomainNo) : Bool :=
  decide (10 ≤ tget (fun _ => 0) s.pwr.ibcLow (fieldOfDom d).val)

/-- ADMISSION_CHECK (R371): a check at the end of a 10 µs window, inside the half-open wait of 2 ms, on what the
steward reads and on the windows and forecasts of this state. DEDUCED, log entry 99. -/
def execAdmissionCheck (d : DomainNo) (ibcOk forecastNear : Bool) (t : Word64) (s : State) :
    Host.Outcome State Fault Refusal :=
  let s := s.at t
  let v := s.dom d
  if v.st = .wait ∧ s.admitTurn d = true ∧ ibcOk = true ∧ forecastNear = false ∧
     s.ibcRoom d = true ∧ s.forecastSoon d = false ∧
     inWindow v.since 2000000 s.tb = true then
    .next (s.setDom d { v with st := .ramp })
  else .next s

/-- ADMISSION_TIMEOUT (R371): after 2 ms the neighbours are capped and the domain ramps. -/
def execAdmissionTimeout (d : DomainNo) (t : Word64) (s : State) :
    Host.Outcome State Fault Refusal :=
  let s := s.at t
  let v := s.dom d
  if v.st = .wait ∧ s.admitTurn d = true ∧ windowOver v.since 2000000 s.tb = true then
    let s := s.setDom d { v with st := .ramp }
    let s := s.fault 0x0507 (siteOfDom d)
      (BitVec.ofNat 32 d.val ||| BitVec.ofNat 32 ((fieldOfDom d).val * 64)) 0
    .next (s.setAdm d 14)
  else .next s

/-- RAMP_END (R370, R348, R415): the domain is ON at OP5's voltage, its core slaved to its field, reset,
bound to the logical core it was chosen for once no request to a page to be exchanged is in flight (R233), and waiting, or switched off when that is latched (R420); a neighbour's wait starts now (R372). DEDUCED, log entry 9. -/
def execRampEnd (d : DomainNo) (s : State) : Host.Outcome State Fault Refusal :=
  let v := s.dom d
  if v.st ≠ .ramp ∨ ((siteOfDom d).all s.exchangeReady) = false then .next s
  else
    let s := s.setDom d { v with st := .on, mv := 750, trim := 0 }
    let s := s.rampOver d
    match siteOfDom d with
    | some n =>
      let f := fieldOfSite n
      let s := s.modRegion ⟨n.val, by omega⟩ fun r =>
        { r with st := if s.fieldStopped f then 2 else 3, inHalf := if s.fieldStopped f then 3 else 0,
                 mhz := (s.region ⟨40 + f.val, by omega⟩).mhz }
      let s := s.coreReset n false false
      let off := decide ((s.site n).pwrPending = some .off)
      let s := s.modSite n fun c => { c with pwr := .run, pwrPending := none, shut := false, op := 5 }
      .next (if off then s.powerOff n else s.bindChosen n)
    | none => .next s

/-! ### Phases, over-current, converters (R373 to R378) -/

/-- A base rail is switched off: recorded bad, and its field goes dark (R375, R376). -/
def State.railOff (s : State) (f : FieldNo) (cause : BitVec 16) : State :=
  ((s.modDom (domOfField f) fun v => { v with st := .failed }).mapOut 4 f.val cause).fieldDark f

/-- What the failed phases of a base rail cause: LOW with 4, switched off with 5 (R375). -/
def State.railPhases (s : State) (f : FieldNo) : State :=
  let n := (s.dom (domOfField f)).failedPhases
  if 5 ≤ n then s.railOff f 0x0503
  else if n = 4 then
    (s.fault 0x0503 none (BitVec.ofNat 32 f.val ||| BitVec.ofNat 32 (n * 8) ||| bitAt true 7) 0).halfSpeed f
  else s.fault 0x0503 none (BitVec.ofNat 32 f.val ||| BitVec.ofNat 32 (n * 8)) 0

/-- PHASE_FAIL (R373 to R375). Phases 8 to 11 of a base rail do not exist. -/
def execPhaseFail (d : DomainNo) (phase : Fin 12) (_cause : PhaseCause) (s : State) :
    Host.Outcome State Fault Refusal :=
  let v := s.dom d
  if v.phases.getLsbD phase.val ∨ (40 ≤ d.val ∧ 8 ≤ phase.val) then .next s
  else
    let s := s.setDom d { v with phases := setBit v.phases phase.val true }
    let n := (s.dom d).failedPhases
    let s := s.fault 0x0501 (siteOfDom d)
      (BitVec.ofNat 32 d.val ||| BitVec.ofNat 32 (phase.val * 64) ||| BitVec.ofNat 32 (n * 1024)) 0
    let s := s.mapOut 2 (d.val * 12 + phase.val) 0x0501
    match siteOfDom d with
    | some k => .next (if 5 ≤ n then (s.failDomain k 0).mapOut 0 k.val 0x0502 else s)
    | none => .next (s.railPhases (fieldOfDom d))

/-- CORE_OVER_CURRENT (R376): not retried; the site is recorded bad. DEDUCED, log entry 64. -/
def execCoreOverCurrent (site : SiteNo) (s : State) : Host.Outcome State Fault Refusal :=
  match (s.dom (domOfSite site)).st with
  | .on => .next (((s.failDomain site 1).modSite site fun c =>
      { c with bad := true, spare := false }).mapOut 0 site.val 0x0502)
  | .ramp => .next (((s.failDomain site 1).modSite site fun c =>
      { c with bad := true, spare := false }).mapOut 0 site.val 0x0502)
  | _ => .next s

/-- BASE_RAIL_TRIP (R376): the rail is switched off and its field goes dark. -/
def execBaseRailTrip (field : FieldNo) (s : State) : Host.Outcome State Fault Refusal :=
  .next (s.railOff field 0x0105)

/-- IBC_LOSS (R377): the field's core domains fail, the two base rails it feeds lose four phases each,
and the IBC is recorded bad. -/
def execIbcLoss (f : FieldNo) (cause : IbcCause) (s : State) : Host.Outcome State Fault Refusal :=
  if s.pwr.ibcOk.getLsbD f.val = false then .next s
  else
    let s := { s with pwr := { s.pwr with ibcOk := setBit s.pwr.ibcOk f.val false } }
    let s := s.fault 0x0504 none (BitVec.ofNat 32 f.val ||| bitAt (decide (cause = .fault)) 3) 0
    let s := s.mapOut 3 f.val 0x0504
    let s := (sitesOfField f).foldl
      (fun s n => (s.failDomain n 2).modSite n fun c => { c with spare := false }) s
    let g : FieldNo := ⟨Nat.xor f.val 4 % 8, by omega⟩
    let s := s.modDom (domOfField f) fun v => { v with phases := v.phases ||| 0x00F }
    let s := s.modDom (domOfField g) fun v => { v with phases := v.phases ||| 0x0F0 }
    .next ((s.railPhases f).railPhases g)

/-- INPUT_LOW (R378): q_in is 8, recorded once per episode. -/
def execInputLow (tenMv : BitVec 16) (s : State) : Host.Outcome State Fault Refusal :=
  if s.pwr.qIn = 8 then .next s
  else .next ({ s with pwr := { s.pwr with qIn := 8 } }.fault 0x0509 none (tenMv.setWidth 32) 0)

/-- INPUT_RESTORED (R378). -/
def execInputRestored (s : State) : Host.Outcome State Fault Refusal :=
  .next { s with pwr := { s.pwr with qIn := 16 } }

/-! ### Telemetry and impedance (R379 to R382) -/

/-- TELEMETRY_WINDOW_END (R379): the mean of window [k ms, (k + 1) ms), when the whole window lies after
the last mode change. -/
def execTelemetryWindowEnd (d : DomainNo) (k : Word64) (mean : Nat) (s : State) :
    Host.Outcome State Fault Refusal :=
  let v := s.dom d
  if v.telMode ∨ k.toNat * 1000000 < v.telFrom.toNat then .next s
  else .next (s.setDom d { v with tel := satNat 16 mean, telTs := k * 1000000 })

/-- PWR_TEL_d and its stamp read 0 for a core domain while a hamlet is confidential (R380). -/
def State.telHidden (s : State) (d : DomainNo) : Bool := decide (d.val < 40) && s.confidential

/-- PWR_TEL_READ (R379): in mode 1 the lowest sample since the previous read, 0xFFFF with stamp 0 when
there is none; in mode 0 the mean. -/
def execPwrTelRead (acc : Accessor) (d : DomainNo) (sample : Option (BitVec 16 × Word64)) (s : State) :
    Host.Outcome State Fault Refusal :=
  let off : BitVec 28 := BitVec.ofNat 28 (0x00901008 + 32 * d.val)
  if s.host.ready = false then .next (s.send (.regData acc off 0))
  else
    let s := if (s.dom d).telMode then
        s.modDom d fun v =>
          match sample with
          | some (x, ts) => { v with tel := x, telTs := ts, telFrom := s.tb }
          | none => { v with tel := 0xFFFF, telTs := 0, telFrom := s.tb }
      else s
    .next (s.send (.regData acc off (if s.telHidden d then 0 else (s.dom d).tel.setWidth 32)))

/-- TEL_MODE_WRITE (R379): the selected mode starts afresh. -/
def execTelModeWrite (_acc : Accessor) (d : DomainNo) (v : Word32) (s : State) :
    Host.Outcome State Fault Refusal :=
  if s.host.ready = false then .next s
  else .next (s.modDom d fun x =>
    { x with telMode := v.getLsbD 31, tel := 0, telTs := 0, telFrom := s.tb })

/-- r × 100, cut to the ten bits of CONNECTION_DEGRADED's DETAIL (Table 13.8). -/
def ratio100 (z z0 : Nat) : Nat := min 1023 (100 * z / z0)

/-- IMPEDANCE_WINDOW_END (R381, R382, Table 13.7). A window without a second of samples, or a domain
without a baseline, gives no verdict. DEDUCED, log entry 63. -/
def execImpedanceWindowEnd (d : DomainNo) (qualified : Bool) (meanZ : Nat) (s : State) :
    Host.Outcome State Fault Refusal :=
  let v := s.dom d
  let z0 := v.z0.toNat
  let dt : Word32 := BitVec.ofNat 32 d.val ||| BitVec.ofNat 32 (ratio100 meanZ z0 * 64)
  let v := { v with z := satNat 16 meanZ }
  if qualified = false then .next s
  else if z0 = 0 then .next (s.setDom d v)
  else if 100 * meanZ ≤ 115 * z0 then .next (s.setDom d { v with conn := 0, qImp := 16 })
  else if 100 * meanZ ≤ 140 * z0 then
    let s' := s.setDom d { v with conn := 1, qImp := 16 }
    .next (if v.conn = 1 then s' else s'.fault 0x0505 (siteOfDom d) dt 0)
  else
    let q := 16 * z0 / meanZ
    let q5 : BitVec 5 := BitVec.ofNat 5 q
    match siteOfDom d with
    | some n =>
      if q < 4 then .next ((s.setDom d v).failDomain n 3)
      else
        let s' := s.setDom d { v with conn := 2, qImp := q5 }
        .next (if v.conn = 2 ∧ v.qImp = q5 then s'
               else s'.fault 0x0506 (some n) (dt ||| fieldAt q5 16) 0)
    | none =>
      let s' := (s.setDom d { v with conn := 2 }).halfSpeed (fieldOfDom d)
      .next (if v.conn = 2 then s' else s'.fault 0x0506 none (dt ||| fieldAt q5 16) 0)

/-! ### The power group (R306, R307, R383, R384) -/

/-- Devices of the valid member entries. -/
def State.memberDevs (s : State) : List (BitVec 12) :=
  s.pwr.members.filterMap fun m => if m.2.1 then some m.2.2 else none

/-- The lowest number of a list of devices. -/
def lowestDev : List (BitVec 12) → BitVec 12
  | [] => 0
  | d :: ds => ds.foldl (fun a b => if b < a then b else a) d

/-- The power group starts (R383): refused with GROUP_ERR, or B = min(TOTAL_W / members, LIMIT_W), the
leader's pool holding the rest. DESIGN CHOICE, log entry 84. -/
def State.groupStart (s : State) : State :=
  let ms := s.memberDevs
  let n := ms.length
  if s.host.ready = false ∨ s.pwr.lock ∨ s.pwr.groupEn then s
  else if n < 2 ∨ ms.contains s.id.dev = false ∨ s.pwr.totalW.toNat < 3000 * n then
    { s with pwr := { s.pwr with groupErr := true } }
  else
    let b := min (s.pwr.totalW.toNat / n) s.pwr.limitW.toNat
    let lead := lowestDev ms
    { s with pwr := { s.pwr with
      groupEn := true, budget := BitVec.ofNat 16 b, leaderDev := lead,
      leader := decide (lead = s.id.dev),
      pool := if lead = s.id.dev then BitVec.ofNat 20 (s.pwr.totalW.toNat - n * b) else 0,
      reports := [], gives := [], gave := none, takes := [], lastTake := none, lastGive := none, heard := 0, taken := 0 } }

/-- GROUP_START (R383). -/
def execGroupStart (_acc : Accessor) (s : State) : Host.Outcome State Fault Refusal := .next s.groupStart

/-- Membership of the power group ends and B returns to LIMIT_W (Table 13.11). -/
def State.groupEnd (s : State) : State :=
  if s.host.ready = false ∨ s.pwr.lock ∨ s.pwr.groupEn = false then s
  else
    { s with pwr := { s.pwr with
      groupEn := false, budget := s.pwr.limitW, leader := false, pool := 0, reports := [], gives := [],
      gave := none, takes := [], taken := 0 } }

/-- GROUP_END (Table 13.11). -/
def execGroupEnd (_acc : Accessor) (s : State) : Host.Outcome State Fault Refusal := .next s.groupEnd

/-- This device's budget message. -/
def State.budgetMsg (s : State) (window watts slack : Word32) : BudgetMsg :=
  { window := window, watts := watts, slack := slack, dev := s.id.dev }

/-- The member's last report. -/
def State.member (s : State) (d : BitVec 12) : Option Member :=
  tget (fun _ => none) s.pwr.reports d.toNat

/-- The REPORT of a member has been missing for three windows in a row, the last of them `window` (R307). -/
def State.missing (s : State) (window : Word32) (d : BitVec 12) : Bool :=
  match s.member d with
  | some m => decide (m.window.toNat + 3 ≤ window.toNat)
  | none => false

/-- GIVEs not acknowledged are sent again in the next window, under the window they were made for, so that
a member applies each once, to members whose REPORTs arrive (R306, R307). DESIGN CHOICE, log entry 84. -/
def State.resendGives (s : State) (window : Word32) : State :=
  s.sendAll ((s.pwr.gives.filter fun g => !s.missing (window - 1) g.1).map fun g =>
    .budget .give g.1 (s.budgetMsg g.2.2 g.2.1 0))

/-- Watts a member gives: min(B − 3,000, floor(0.05 × B)), nothing at 3,000 W or below (R384). -/
def giveUp (b : Nat) : Nat := if b ≤ 3000 then 0 else min (b - 3000) (b / 20)

/-- Members to raise, in ascending order of slack and then of device number (R384). -/
def insertBySlack (d : BitVec 12) (m : Member) :
    List (BitVec 12 × Member) → List (BitVec 12 × Member)
  | [] => [(d, m)]
  | (e, k) :: rest =>
    if m.slack < k.slack ∨ (m.slack = k.slack ∧ d < e) then (d, m) :: (e, k) :: rest
    else (e, k) :: insertBySlack d m rest

/-- The members of the present window that receive, in the order of R384. -/
def State.receivers (s : State) (window : Word32) : List (BitVec 12 × Member) :=
  s.pwr.reports.foldl
    (fun l p => match p.2 with
      | some m => if m.window = window ∧ m.slack < 100 then insertBySlack (BitVec.ofNat 12 p.1) m l else l
      | none => l) []

/-- One GIVE from the pool: at most floor(0.10 × B) and what the pool holds (R384). -/
def State.giveOne (s : State) (window : Word32) (r : BitVec 12 × Member) : State :=
  let w := min (r.2.watts.toNat / 10) s.pwr.pool.toNat
  if w = 0 ∨ s.pwr.gives.any (fun g => decide (g.1 = r.1)) then s
  else
    let s := { s with pwr := { s.pwr with
      pool := BitVec.ofNat 20 (s.pwr.pool.toNat - w),
      gives := s.pwr.gives ++ [(r.1, BitVec.ofNat 32 w, window)] } }
    s.send (.budget .give r.1 (s.budgetMsg window (BitVec.ofNat 32 w) 0))

/-- The leader gives from its pool to the members that receive, once for a window (R384). -/
def State.giveAll (s : State) (window : Word32) : State :=
  if s.pwr.gave = some window then s
  else
    (s.receivers window).foldl (fun s r => s.giveOne window r)
      { s with pwr := { s.pwr with gave := some window } }

/-- Every member whose REPORTs have not been missing for three windows has reported for a window, and no
TAKE of it is open (R306, R307). DESIGN CHOICE, log entry 84. -/
def State.windowComplete (s : State) (window : Word32) : Bool :=
  s.memberDevs.all (fun d => s.missing window d || match s.member d with
    | some m => decide (m.window = window) | none => false) &&
  !s.pwr.takes.any fun t => decide (t.2 = window)

/-- BUDGET_WINDOW_END (R306): the member sends its REPORT to the leader; the leader sends again what was
not acknowledged, and gives for the window before if it has not. DESIGN CHOICE, log entry 84. -/
def execBudgetWindowEnd (window slack : Word32) (s : State) : Host.Outcome State Fault Refusal :=
  if s.pwr.groupEn = false then .next s
  else
    let s := if s.pwr.leader then (s.resendGives window).giveAll (window - 1) else s
    .next (s.send (.budget .report s.pwr.leaderDev
      (s.budgetMsg window (s.pwr.budget.setWidth 32) slack)))

/-- The member's REPORT for a window is held. -/
def State.reported (s : State) (m : BudgetMsg) : Bool :=
  match s.member m.dev with
  | some r => decide (r.window = m.window)
  | none => false

/-- REPORT (R384, R306): the leader records it, sends TAKE to a member with slack of at least 200 µs,
and gives once the window's reports are in and its TAKEs answered; a REPORT held already changes
nothing. -/
def execReport (m : BudgetMsg) (s : State) : Host.Outcome State Fault Refusal :=
  if s.pwr.groupEn = false ∨ s.pwr.leader = false ∨ s.memberDevs.contains m.dev = false ∨
      s.reported m = true then .next s
  else
    let r : Member := { watts := m.watts, slack := m.slack, window := m.window }
    let s := { s with pwr := { s.pwr with
      reports := tset (fun _ => none) s.pwr.reports m.dev.toNat (some r) } }
    let w := giveUp m.watts.toNat
    let s := if 200 ≤ m.slack.toNat ∧ 0 < w then
        { s with pwr := { s.pwr with takes := s.pwr.takes ++ [(m.dev, m.window)] } }.send
          (.budget .take m.dev (s.budgetMsg m.window (BitVec.ofNat 32 w) 0))
      else s
    .next (if s.windowComplete m.window then s.giveAll m.window else s)

/-- TAKE (R306): the member lowers its budget once for a window number and acknowledges. -/
def execTake (m : BudgetMsg) (s : State) : Host.Outcome State Fault Refusal :=
  if s.pwr.groupEn = false ∨ s.pwr.lastTake = some m.window then .next s
  else
    let w := min m.watts.toNat s.pwr.budget.toNat
    let s := { s with pwr := { s.pwr with
      budget := BitVec.ofNat 16 (s.pwr.budget.toNat - w), lastTake := some m.window,
      heard := m.window, taken := satAdd s.pwr.taken w } }
    .next (s.send (.budget .takeAck m.dev (s.budgetMsg m.window (BitVec.ofNat 32 w) 0)))

/-- TAKE_ACK (R306): the acknowledged watts join the leader's pool. -/
def execTakeAck (m : BudgetMsg) (s : State) : Host.Outcome State Fault Refusal :=
  if s.pwr.leader = false ∨ s.pwr.takes.contains (m.dev, m.window) = false then .next s
  else
    let s := { s with pwr := { s.pwr with
      pool := satAdd s.pwr.pool m.watts.toNat,
      takes := s.pwr.takes.filter fun t => decide (t ≠ (m.dev, m.window)) } }
    .next (if s.windowComplete m.window then s.giveAll m.window else s)

/-- GIVE (R384, R306): the member raises its budget up to its limit once for a window number, and returns
in GIVE_ACK the watts it applied; a GIVE applied already is only answered again. DESIGN CHOICE, log entry 84. -/
def execGive (m : BudgetMsg) (s : State) : Host.Outcome State Fault Refusal :=
  if s.pwr.groupEn = false then .next s
  else
    match s.pwr.lastGive.filter fun g => decide (g.1 = m.window) with
    | some g => .next (s.send (.budget .giveAck m.dev (s.budgetMsg m.window g.2 0)))
    | none =>
    let w := min m.watts.toNat (s.pwr.limitW.toNat - s.pwr.budget.toNat)
    let s := { s with pwr := { s.pwr with
      budget := BitVec.ofNat 16 (s.pwr.budget.toNat + w), lastGive := some (m.window, BitVec.ofNat 32 w),
      heard := m.window } }
    .next (s.send (.budget .giveAck m.dev (s.budgetMsg m.window (BitVec.ofNat 32 w) 0)))

/-- GIVE_ACK (R384): watts that were not applied return to the pool. -/
def execGiveAck (m : BudgetMsg) (s : State) : Host.Outcome State Fault Refusal :=
  match s.pwr.gives.find? fun g => decide (g.1 = m.dev) && decide (g.2.2 = m.window) with
  | some g =>
    .next { s with pwr := { s.pwr with
      pool := satAdd s.pwr.pool (g.2.1.toNat - m.watts.toNat),
      gives := s.pwr.gives.filter fun x => decide (x.1 ≠ m.dev) } }
  | none => .next s

/-- LEADER_TIMEOUT (R307): ten windows without the leader; the next-lowest reporting member leads, with
the pool at the total less every member's last reported budget, or its starting budget where none was
reported to it. DESIGN CHOICE, log entry 84. -/
def execLeaderTimeout (window : Word32) (s : State) : Host.Outcome State Fault Refusal :=
  if s.pwr.groupEn = false ∨ s.pwr.leader ∨ window.toNat < s.pwr.heard.toNat + 10 then .next s
  else
    let others := s.memberDevs.filter fun d => decide (s.pwr.leaderDev < d)
    let lead := lowestDev others
    if others = [] then .next s
    else
      let mine := decide (lead = s.id.dev)
      let held := (s.memberDevs.map fun d =>
        if d = s.id.dev then s.pwr.budget.toNat
        else match s.member d with
          | some m => m.watts.toNat
          | none => min (s.pwr.totalW.toNat / s.memberDevs.length) s.pwr.limitW.toNat).sum
      let s := { s with pwr := { s.pwr with
        leaderDev := lead, leader := mine, heard := window,
        pool := if mine then BitVec.ofNat 20 (s.pwr.totalW.toNat - held) else 0 } }
      .next (s.fault 0x050A none (lead.setWidth 32) 0)

end Sys2Proof.Machine
end

