-- ==== Sys2Proof/Machine/SecOps.lean ====
section
/-!
DEFINITION. Machine/SecOps.lean: leaf indices, keys, owner labels and confirmation of links
(16_security.md, R432 to R438).
-/

namespace Sys2Proof.Machine

/-- The next leaf index of the identity key; its batch is reserved in the journal before its first
signature. With fewer than 1,024 indices left nothing more is signed (R433). DEDUCED, log entry 61. -/
def State.takeLeaf (s : State) : State × Option Nat :=
  let n := s.sec.nextLeaf.toNat
  if 2 ^ 40 < n + 1024 then
    (if s.sec.exhausted then s
     else ({ s with sec := { s.sec with exhausted := true } }).fault 0x0704 none 0 s.sec.nextLeaf, none)
  else
    let s := if s.sec.batchEnd ≤ s.sec.nextLeaf then
        ({ s with sec := { s.sec with batchEnd := s.sec.nextLeaf + 1024 } }).journal
          (.reserve s.sec.nextLeaf)
      else s
    ({ s with sec := { s.sec with nextLeaf := s.sec.nextLeaf + 1 } }, some n)

/-- Requests of the DRBG since its last reseed, with one more; after 2^16 it is reseeded first (R434).
DEDUCED, log entry 70. -/
def Sec.drawn (v : Sec) : Sec := { v with drbgUses := if v.drbgUses < 65536 then v.drbgUses + 1 else 1 }

/-- A new key, by the model's own number; it is one request of the DRBG (R434). DESIGN CHOICE, log entry 5. -/
def State.newKey (s : State) : State × Nat :=
  ({ s with mem := { s.mem with keyCount := s.mem.keyCount + 1 },
            sec := s.sec.drawn }, s.mem.keyCount + 1)

/-- Bytes of a 256-bit value, lowest first. -/
def bytes256 (v : BitVec 256) : List Byte := leBytes 32 v.toNat

/-- The owner label of a link end: zero outside every hamlet, else the first 16 B of SHAKE256 over the
hamlet's binding (R438). -/
def State.ownerLabel (s : State) (o : Option HamletNo) : BitVec 128 :=
  match o with
  | some h => (Config.shake256 (bytes256 (s.hamlet h).binding)).extractLsb' 0 128
  | none => 0

/-- What a keying or rekey shows of ownership: the link is confirmed when both ends are owned with equal
labels from nonzero bindings; ends that disagree are recorded (R438). -/
def State.confirm (s : State) (l : LinkNo) (o : KeyObs) : State :=
  let k := s.link l
  let mine := s.ownerLabel k.owner
  let bound := match k.owner with | some h => decide ((s.hamlet h).binding ≠ 0) | none => false
  let ok := k.owner.isSome && o.peerOwned && decide (mine = o.peerLabel) && bound
  let differ := decide (k.owner.isSome ≠ o.peerOwned) || (k.owner.isSome && decide (mine ≠ o.peerLabel))
  let s := s.setLink l { k with confirmed := ok, rekeying := false }
  if differ then
    s.fault 0x0706 none (BitVec.ofNat 32 l.val |||
        fieldAt (match k.owner with | some h => BitVec.ofNat 3 h.val | none => (0 : BitVec 3)) 7)
      (k.peerDev.setWidth 64)
  else s

/-- A change of a link's ownership or binding starts a rekey; until it shows both ends agree, an owned
link is unconfirmed (R438). -/
def State.startConfirm (s : State) (l : LinkNo) : State :=
  let k := s.link l
  let s := s.setLink l { k with confirmed := false, rekeying := decide (k.st = .up) }
  if k.st = .up then s.send (.keyMsg l) else s

end Sys2Proof.Machine
end

