-- ==== Sys2Proof/Machine/Boot.lean ====
section
/-!
DEFINITION. Machine/Boot.lean: the journal, resets, bring-up, the rails and the module's pins
(17_bringup.md, 19_electrical.md).
-/

namespace Sys2Proof.Machine

/-! ### The journal (R463 to R466) -/

/-- Where a record of n bytes starts after p programmed bytes: it never crosses a 4 KiB sector (R463). -/
def recStart (p n : Nat) : Nat := if 4096 < p % 4096 + n then (p / 4096 + 1) * 4096 else p

/-- A record is programmed and sealed in the active half with the next SEQUENCE (R463). -/
def Journal.seal (j : Journal) (r : JRec) : Journal :=
  { j with recs := j.recs ++ [(j.seq, r)], seq := j.seq + 1, fill := recStart j.fill (recSize r) + recSize r }

/-- What a record tells the device when it is replayed (Table 17.4). DEDUCED, log entry 58. -/
def Journal.learn (j : Journal) (r : JRec) : Journal :=
  match r with
  | .fieldMap u i _ _ =>
    let k := unitKey u.toNat i.toNat
    if j.fieldMap.contains k then j else { j with fieldMap := j.fieldMap ++ [k] }
  | .remap n e row col =>
    { j with remaps := tset (fun _ => (0, 0)) j.remaps (4 * n.val + e.val) (row, col),
             verdicts := j.verdicts.filter fun v => decide (v.1 ≠ n) || decide (v.2.1 ≠ e) }
  | .config key v =>
    if key = 1 then { j with quick := v.getLsbD 0 }
    else if key = 2 then { j with devNum := some (v.setWidth 12) }
    else j
  | .opcal d z => { j with opcal := tset (fun _ => 0) j.opcal d.val z }
  | .training m rates => { j with training := tset (fun _ => none) j.training m.val (some rates) }
  | .powered t => { j with powered := if j.powered < t then t else j.powered }
  | .verdict n e k t => { j with verdicts := j.verdicts ++ [(n, e, k, t)] }
  | .coreMap sites =>
    { j with coreMap := (sites.zipIdx).foldl (fun m p => tset (fun _ => none) m p.2 p.1) [] }
  | .fulltest t => { j with fulltest := some t }
  | .switch g => { j with gen := g }
  | _ => j

/-- The active half is replayed, with the records still to be sealed (R464). DEDUCED, log entry 58. -/
def Journal.replay (j : Journal) : Journal :=
  ((j.recs.map (·.2)) ++ j.buf).foldl Journal.learn
    { j with fieldMap := [], quick := false, devNum := none, coreMap := [], remaps := [], verdicts := [],
             training := [], opcal := [], fulltest := none, gen := 0, compacting := false,
             sealing := false }

/-- A record is sealed out of the write buffer. DEDUCED, log entry 59. -/
def Journal.flush (j : Journal) (r : JRec) : Journal := { j.seal r with buf := j.buf.erase r }

/-- Bytes of a journal half. -/
def halfBytes : Nat := 67108864

/-- New records go to the sector after a torn record at flash offset a of the active half (R464). -/
def Journal.pastTorn (j : Journal) (a : Word32) : Journal :=
  let base := if j.half then 134217728 else 67108864
  if base ≤ a.toNat ∧ a.toNat < base + halfBytes then
    { j with fill := max j.fill (((a.toNat - base) / 4096 + 1) * 4096) }
  else j

/-- Nothing may be written to the flash: no power, a start that holds, or a power-fail warning (R466,
R486). -/
def State.flashHeld (s : State) : Bool :=
  !s.board.alwaysOn || s.board.held.isSome || s.board.pwrfail

/-- JOURNAL_APPEND (R463, R465, R466): a record of the write buffer is programmed, read back and sealed.
FAULT records wait while less than 256 KiB of the half is free; records left out are then reported. DEDUCED, log entry 61. -/
def execJournalAppend (r : JRec) (s : State) : Host.Outcome State Fault Refusal :=
  let full := decide (halfBytes < s.jrnl.fill + 262144)
  let waits : Bool := match r with | .fault _ => full | _ => false
  if s.flashHeld ∨ s.jrnl.buf.contains r = false ∨ waits then .next s
  else
    let n := s.jrnl.backlog
    let s := { s with jrnl := s.jrnl.flush r }
    .next (if n = 0 then s
      else ({ s with jrnl := { s.jrnl with backlog := 0 } }).fault 0x0809 none (BitVec.ofNat 32 n) 0)

/-- POWERED_RECORD_TIMER (R464): 60 powered seconds have passed. DEDUCED, log entry 61. -/
def execPoweredRecordTimer (s : State) : Host.Outcome State Fault Refusal :=
  if s.board.alwaysOn = false then .next s
  else
    let s := s.at (s.jrnl.poweredFrom + 60000000000)
    let p := s.poweredNow
    .next ({ s with jrnl := { s.jrnl with
      powered := p, poweredFrom := s.jrnl.poweredFrom +
        BitVec.ofNat 64 ((p - s.jrnl.powered).toNat * 1000000000) } }.journal (.powered p))

/-- COMPACTION_START (R465): the active half is 75 % full. -/
def execCompactionStart (s : State) : Host.Outcome State Fault Refusal :=
  if s.flashHeld ∨ s.jrnl.compacting ∨ s.jrnl.fill < 50331648 then .next s
  else .next { s with jrnl := { s.jrnl with compacting := true } }

/-- A later record takes an earlier one's place at a compaction (Table 17.4). -/
def supersedes (later earlier : JRec) : Bool :=
  match later, earlier with
  | .remap n e _ _, .remap m g _ _ => decide (n = m) && decide (e = g)
  | .reserve _, .reserve _ => true
  | .config k _, .config l _ => decide (k = l)
  | .opcal d _, .opcal e _ => decide (d = e)
  | .training m _, .training n _ => decide (m = n)
  | .powered _, .powered _ => true
  | .coreMap _, .coreMap _ => true
  | .fulltest _, .fulltest _ => true
  | _, _ => false

/-- A record is a FAULT record. -/
def isFaultRec : JRec → Bool
  | .fault _ => true
  | _ => false

/-- A record that stands before others is copied by a compaction (Table 17.4). -/
def keptBefore (now : Word32) (r : JRec) (later : List JRec) : Bool :=
  match r with
  | .switch _ => false
  | .verdict _ _ _ t => decide (now.toNat < t.toNat + 86400)
  | .fault i => decide ((later.filter isFaultRec).length * recSize (.fault i) + recSize (.fault i) ≤ 8388608)
  | _ => !later.any fun l => supersedes l r

/-- The records a compaction copies, in SEQUENCE order. -/
def compacted (now : Word32) : List (BitVec 64 × JRec) → List (BitVec 64 × JRec)
  | [] => []
  | p :: rest =>
    if keptBefore now p.2 (rest.map (·.2)) then p :: compacted now rest else compacted now rest

/-- Bytes that records take from a start. -/
def laidOut : Nat → List (BitVec 64 × JRec) → Nat
  | p, [] => p
  | p, r :: rs => laidOut (recStart p (recSize r.2) + recSize r.2) rs

/-- COMPACTION_SWITCH (R465): the copy has caught up and SWITCH is sealed with the next generation. -/
def execCompactionSwitch (s : State) : Host.Outcome State Fault Refusal :=
  if s.flashHeld ∨ s.jrnl.compacting = false then .next s
  else
    let j := s.jrnl
    let kept := compacted s.poweredNow j.recs
    let g := j.gen + 1
    let j : Journal := { j with recs := kept, fill := laidOut 0 kept, half := !j.half, gen := g,
                                compacting := false }
    .next (({ s with jrnl := j.seal (.switch g) }).fault 0x0806 none g 0)

/-- Order of a record's type in the seal of a power-fail warning (R466). Types R466 does not name come
last. DEDUCED, log entry 58. -/
def sealRank : JRec → Nat
  | .reserve _ => 0
  | .fieldMap .. => 1
  | .remap .. => 2
  | .verdict .. => 3
  | .powered _ => 4
  | .config .. => 5
  | .coreMap _ => 6
  | .fault _ => 7
  | _ => 8

/-- The records of a buffer in the order of R466. -/
def sealOrder (rs : List JRec) : List JRec :=
  (List.range 9).flatMap fun k => rs.filter fun r => decide (sealRank r = k)

/-- PWRFAIL_FALL (R466, R485): every pending record is sealed with a new POWERED record, and nothing more
is written until the pin is high or the next reset. -/
def execPwrfailFall (t : Word64) (s : State) : Host.Outcome State Fault Refusal :=
  let s := s.at t
  if s.board.pwrfail then .next s
  else
    let w := s.flashHeld
    let s := { s with board := { s.board with pwrfail := true } }
    if w then .next s
    else
      let rs := sealOrder (s.jrnl.buf ++ [.powered s.poweredNow])
      let n := (rs.map recSize).sum
      let j : Journal := { rs.foldl Journal.seal s.jrnl with
        buf := [], sealing := true, sealedKib := some ((n + 1023) / 1024) }
      .next { s with jrnl := j }

/-! ### What a device reset clears (R336, R477, Tables 11.8, 18.4) -/

/-- A ring after a device reset. -/
def Ring.afterReset (g : Ring) (cold : Bool) : Ring :=
  if cold then {}
  else { sqBase := g.sqBase, cqBase := g.cqBase, msgAddr := g.msgAddr, msgData := g.msgData,
         irqEn := g.irqEn, port := g.port, version := g.version, cq := g.cq, sqLog2 := g.sqLog2,
         cqLog2 := g.cqLog2 }

/-- A link after a device reset: a warm reset keeps what training settled (R461). -/
def Link.afterReset (k : Link) (has cold : Bool) : Link :=
  { st := if has then .down else .absent,
    steered := if cold then [] else k.steered,
    badLanes := if cold then [] else k.badLanes }

/-- A channel after a device reset. -/
def Channel.afterReset (c : Channel) (cold : Bool) : Channel :=
  if cold then {} else { rate := c.rate, trained := c.trained }

/-- A memory site after a device reset. -/
def MemSite.afterReset (m : MemSite) (cold : Bool) : MemSite :=
  { chans := m.chans.map fun p => (p.1, p.2.afterReset cold), scrubAt := m.scrubAt }

/-- A lintel after a device reset: repaired lanes stay repaired (R456). -/
def Lintel.afterReset (l : Lintel) : Lintel := { spares := l.spares, spared := l.spared.eraseDups }

/-- Each entry of a store becomes f of itself and its key. -/
def tmapK {α : Type} [DecidableEq α] (d : Nat → α) (f : Nat → α → α) (t : Tab α) : Tab α :=
  t.foldl (fun u p => tset d u p.1 (f p.1 p.2)) []

/-- The pages of every hamlet lose their key (Table 16.2). -/
def State.loseKeys (s : State) : State :=
  (List.finRange 8).foldl
    (fun s h =>
      let v := s.hamlet h
      match v.memKey with
      | some k => s.losePages v.pageFirst.toNat v.pageCount.toNat k
      | none => s) s

/-- First page bound to a field at bring-up (R230). -/
def State.fieldBase (s : State) (f : Nat) : Nat := ((List.range f).map s.framesOf).sum

/-- The page that a frame is bound to at bring-up (R230): the page whose entry names it now, after the
exchanges of R238, keeps its contents in its frame. -/
def State.framePage (s : State) (p : Nat) : Nat :=
  match s.mem.pages.find? fun e => decide (e.1 = p) with
  | some e => if e.2.valid then s.fieldBase e.2.field.val + e.2.frame.toNat else p
  | none => p

/-- GDDR7 contents follow their frames when the page map is bound again. DEDUCED, log entry 62. -/
def State.refollow (s : State) : State :=
  if s.mem.pages.all fun e => decide (s.framePage e.1 = e.1) then s
  else
    let d : Nat → Byte := fun _ => 0
    let mv (a : Nat) : Nat := s.framePage (a / 8388608) * 8388608 + a % 8388608
    { s with mem := { s.mem with
        ddr := s.mem.ddr.foldl (fun t c => tset d t (mv c.1) c.2) [],
        cipher := s.mem.cipher.foldl (fun t c => tset (fun _ => none) t (s.framePage c.1) c.2) [] } }

/-- The interrupt controller after a device reset: the lines keep their levels. -/
def IntCtl.afterReset (i : IntCtl) : IntCtl :=
  { srcs := i.srcs.foldl (fun t p => tset srcD t p.1 { srcD p.1 with line := p.2.line }) [] }

/-- Everything that a device reset clears (Tables 11.8, 18.4); a cold one also clears what a warm one
keeps. DEDUCED, log entry 59. -/
def State.cleared (s : State) (cold : Bool) : State :=
  let s := s.loseKeys.refollow
  { s with
    shadows := [], helds := [], coreMap := [], sites := [],
    role := if cold then 3 else s.role,
    id := { s.id with lock := false, parity := 0, copyLost := false, errAddr := 0 },
    fab := { absent := s.fab.absent, loadedAbsent := s.fab.absent,
             lintels := tmapK (fun _ => {}) (fun _ => Lintel.afterReset) s.fab.lintels },
    mem := { mapBound := false, pages := [], ddr := if cold then [] else s.mem.ddr,
             cipher := if cold then [] else s.mem.cipher, keyCount := s.mem.keyCount,
             sites := tmapK (fun _ => {}) (fun _ m => m.afterReset cold) s.mem.sites },
    links := (List.finRange 96).foldl
      (fun t l => tset (fun _ => {}) t l.val ((s.link l).afterReset (s.hasLink l) cold)) [],
    coll := {},
    host := { s.host with
      ready := false, lost := false, degraded := false, dbIgnored := 0, lock := false, hbEn := false,
      arm := none, descs := [], lastRing := 0, readRun := 0, held := [],
      rings := tmapK (fun _ => {}) (fun _ g => g.afterReset cold) s.host.rings },
    clk := if cold then {}
      else { master := s.clk.master, parentEn := s.clk.parentEn, parentLink := s.clk.parentLink,
             everReady := s.clk.everReady, slew := s.clk.slew, lastUpdate := s.clk.lastUpdate },
    pwr := { limitW := s.maxWatts, inputW := s.pwr.inputW, qIn := s.pwr.qIn },
    ic := s.ic.afterReset,
    flt := { nextId := s.flt.nextId },
    sec := { s.sec with
      recovery := false, debug := 0, debugUntil := 0, fwWriting := false, fwPending := none, busy := false,
      status := 0, outLen := 0, inLen := 0, page := 0, inBuf := [], outBuf := [], challenge := none,
      session := none, hamlets := [],
      nextLeaf := if s.sec.nextLeaf < s.sec.batchEnd then s.sec.batchEnd else s.sec.nextLeaf } }

/-! ### Bring-up (R452 to R461) -/

/-- Which check of R428 an image fails: 0 missing, 1 signature, 2 digest, 3 SVN (Table 16.7). -/
def bootFail (present sigOk digestOk : Bool) (svn fused : BitVec 7) : Option (BitVec 2) :=
  if present = false then some 0
  else if sigOk = false then some 1
  else if digestOk = false then some 2
  else if svn < fused then some 3
  else none

/-- The ROM enters recovery (R430). DEDUCED, log entry 60. -/
def State.toRecovery (s : State) (why : BitVec 2) : State :=
  let s := { s with
    board := { s.board with stage := 11, resetDue := false, wdReset := false },
    host := { s.host with ready := false, resetting := false },
    id := { s.id with fwBuild := 0 },
    sec := { s.sec with recovery := true } }
  s.fault 0x0701 none (why.setWidth 32) 0

/-- Step 2: a verified image runs (R428). -/
def State.verified (s : State) (o : StartObs) : State :=
  { s with
    id := { s.id with fwBuild := o.fwBuild },
    sec := { s.sec with imageSvn := o.fwSvn, fwDigest := o.fwDigest, commitSvn := o.fwCommitSvn,
                        entropyOk := true } }

/-- The system device number in force after step 3 (R479, R480). -/
def State.numbered (s : State) (cold : Bool) : State :=
  if cold then
    { s with id := { s.id with valid := s.jrnl.devNum.isSome, dev := s.jrnl.devNum.getD 0, pending := false,
                               next := 0 } }
  else if s.id.pending then
    { s with id := { s.id with valid := true, dev := s.id.next, pending := false, next := 0 } }
  else s

/-- Step 3: the journal is replayed; torn records and a seal are recorded (R464, R466). -/
def State.replayed (s : State) (o : StartObs) (cold : Bool) : State :=
  let j := if cold then { s.jrnl with powered := 0, poweredFrom := s.tb } else s.jrnl
  let s := ({ s with jrnl := o.journalTorn.foldl Journal.pastTorn j.replay }).numbered cold
  let s := o.journalTorn.foldl (fun s a => s.fault 0x0805 none 0 (a.setWidth 64)) s
  match s.jrnl.sealedKib with
  | some k => ({ s with jrnl := { s.jrnl with sealedKib := none } }).fault 0x0808 none (BitVec.ofNat 32 k) 0
  | none => s

/-- A unit is mapped out by its start-up test, with UNIT_MAPPED_OUT (R456, R500). -/
def State.startBad (s : State) (unit index : Nat) (cause : BitVec 16) : State :=
  if s.mapBad unit index then s
  else (s.fault 0x0802 none (BitVec.ofNat 32 (unit + 16 * index)) 0).mapOut unit index cause

/-- Phases of a domain that the field map marks bad (R373). -/
def State.mappedPhases (s : State) (d : Nat) : BitVec 12 :=
  (List.range 12).foldl (fun v p => if s.mapBad 2 (d * 12 + p) then setBit v p true else v) 0

/-- A port of a field that is dark at the start is not in service (R16). DEDUCED, log entry 53. -/
def State.darkPorts (s : State) : State :=
  [false, true].foldl
    (fun s p => if s.isDark (portField p) then
        { s with host := { s.host with portUp := setBit s.host.portUp p.toNat false } } else s) s

/-- Step 5 for the endpoint ports of a field: an endpoint whose own router port fails, now or as the journal says,
moves to the spare port; the field's second one has no port (R194, R218, R456). DEDUCED, log entry 96. -/
def State.portsTested (s : State) (o : StartObs) (f : FieldNo) : State :=
  [0, 1].foldl
    (fun s i =>
      let k := 2 * f.val + i
      if s.mapBad 5 k = false ∧ (o.portBad.getLsbD k = false ∨ s.isDark f = true) then s
      else
        let free := !s.fab.spared.getLsbD (2 * f.val) && !s.fab.spared.getLsbD (2 * f.val + 1)
        let fresh := free && !s.mapBad 5 k
        let s := s.startBad 5 k 0x0108
        let s := if fresh then s.fault 0x0108 none (BitVec.ofNat 32 (f.val + 8 * i)) 0 else s
        if free then { s with fab := { s.fab with spared := setBit s.fab.spared k true } }
        else { s with fab := { s.fab with cutOff := setBit s.fab.cutOff k true } }) s

/-- Step 7: the faulty lanes that training found are repaired, and the first route tables loaded (R201, R207). -/
def State.lanesTrained (s : State) (o : StartObs) : State :=
  let s := if o.lanes = [] then s else (o.lanes.foldl State.repairLane s).absentLinks
  { s with fab := { s.fab with loadedDark := s.fab.dark, loadedAbsent := s.fab.absent, tablesDue := false } }

/-- Step 4: the IBCs and base rails that work; a dead converter takes four phases of two base rails, and
a base rail with five failed phases or a fault is off and its field dark (R375 to R377, R453). -/
def State.railsUp (s : State) (o : StartObs) : State :=
  let s := (List.range 8).foldl
    (fun s f => if o.ibcBad.getLsbD f && !s.mapBad 3 f then
        (s.fault 0x0504 none (BitVec.ofNat 32 f ||| bitAt true 3) 0).startBad 3 f 0x0504 else s) s
  let ok : BitVec 8 := (List.range 8).foldl (fun v f => if s.mapBad 3 f then v else setBit v f true) 0
  let s := { s with pwr := { s.pwr with ibcOk := ok } }
  let s := (List.finRange 48).foldl
    (fun s d =>
      let ph := s.mappedPhases d.val
      let f := fieldOfDom d
      if d.val < 40 then
        let dead := !ok.getLsbD f.val || decide (5 ≤ popCount ph)
        s.modDom d fun v => { v with phases := ph, z0 := tget (fun _ => 0) s.jrnl.opcal d.val,
                                     st := if dead then .failed else .off }
      else
        let own : BitVec 12 := if ok.getLsbD f.val then 0 else 0x00F
        let other : BitVec 12 := if ok.getLsbD (Nat.xor f.val 4) then 0 else 0x0F0
        s.modDom d fun v => { v with phases := ph ||| own ||| other, st := .on, mv := 800 }) s
  (List.finRange 8).foldl
    (fun s f =>
      let known := s.mapBad 4 f.val
      if known || o.railBad.getLsbD f.val || decide (5 ≤ (s.dom (domOfField f)).failedPhases) then
        let s := if known then s
          else (((s.fault 0x0105 none (BitVec.ofNat 32 f.val) 0).fault 0x0206 none
            (BitVec.ofNat 32 f.val ||| bitAt true 3) 0).startBad 4 f.val 0x0105)
        let s := { s with fab := { s.fab with dark := setBit s.fab.dark f.val true } }
        let s := s.modDom (domOfField f) fun v => { v with st := .failed, mv := 0 }
        (sitesOfField f).foldl (fun s n => s.modDom (domOfSite n) fun v => { v with st := .failed }) s
      else s) s

/-- A site takes what the journal kept of it (R84, R192, R456). DEDUCED, log entry 58. -/
def State.restoredSite (s : State) (n : SiteNo) : State :=
  s.modSite n fun c =>
    { (List.finRange 4).foldl
        (fun c e =>
          let r := tget (fun _ => (0, 0)) s.jrnl.remaps (4 * n.val + e.val)
          let vs := (s.jrnl.verdicts.filter fun v => decide (v.1 = n) && decide (v.2.1 = e)).map (·.2.2)
          c.modEng e fun g => { g with remapRow := r.1, remapCol := r.2,
                                       verdicts := vs }.window s.poweredNow) c with
      bad := s.mapBad 0 n.val }

/-- KAT_FAIL of a site (Table 17.6). -/
def katDetail (n : SiteNo) (e : EngNo) (vec fixed : Bool) : Word32 :=
  BitVec.ofNat 32 n.val ||| BitVec.ofNat 32 (e.val * 64) ||| bitAt vec 8 ||| bitAt fixed 9

/-- The known-answer run of one engine: repaired when spares cover its faulty PEs; answers whether the
engine passes (R455, R81). -/
def State.katEngine (s : State) (n : SiteNo) (e : EngNo) (l : LocalObs) : State × Bool :=
  match (if l.beyond then none else s.planOf n e l.pes) with
  | some p => ((s.remap n e p.1 p.2).fault 0x0801 (some n) (katDetail n e false true) 0, true)
  | none => (s.fault 0x0801 (some n) (katDetail n e false false) 0, false)

/-- Known-answer runs of a site; a site that fails is recorded bad (R455, R456). -/
def State.katSite (s : State) (o : StartObs) (n : SiteNo) : State :=
  let r := tget (fun _ => (true, [])) o.kat n.val
  let s1 := r.2.foldl (fun a p => let b := a.1.katEngine n p.1 p.2; (b.1, a.2 && b.2)) (s, true)
  let s2 := if r.1 then s1.1 else s1.1.fault 0x0801 (some n) (katDetail n 0 true false) 0
  if r.1 && s1.2 then s2
  else (s2.startBad 0 n.val 0x0801).modSite n fun c => { c with bad := true }

/-- A site is tested in step 5: fused good, not recorded bad, and powered (R453, R456). -/
def State.testable (s : State) (n : SiteNo) : Bool :=
  s.fuses.siteGood.getLsbD n.val && !(s.site n).bad && !s.isDark (fieldOfSite n) &&
  decide ((s.dom (domOfSite n)).st ≠ .failed)

/-- Steps 5 to 7 for the sites: known-answer runs, and the sites whose crossings fail (R455, R347). -/
def State.tested (s : State) (o : StartObs) : State :=
  let s := (List.finRange 40).foldl State.restoredSite s
  let s := (List.finRange 40).foldl (fun s n => if s.testable n then s.katSite o n else s) s
  o.calFail.foldl
    (fun s n => if s.testable n then
        ({ s with clk := { s.clk with calFails := satInc s.clk.calFails } }.fault 0x0403 (some n)
          (calDetail n.val false none) 0 |>.startBad 0 n.val 0x0403).modSite n fun c => { c with bad := true }
      else s) s

/-- Sites in the order in which R457 takes them: slots 0 to 3, then slot 4. -/
def siteOrder : List SiteNo :=
  ((List.finRange 40).filter fun n => decide (n.val % 5 < 4)) ++
  ((List.finRange 40).filter fun n => decide (n.val % 5 = 4))

/-- The binding of step 6: cores that keep their journaled site, then the others in order (R457, R458). DEDUCED, log entry 56. -/
def State.bindings (s : State) : List (LCoreNo × SiteNo) :=
  let use := siteOrder.filter s.testable
  let n := min s.activeCount use.length
  let lcs := (List.finRange 32).filter fun lc => decide (lc.val < n)
  let kept := lcs.filterMap fun lc =>
    match tget (fun _ => none) s.jrnl.coreMap lc.val with
    | some x => if use.contains x then some (lc, x) else none
    | none => none
  let rest := lcs.filter fun lc => !kept.any fun k => decide (k.1 = lc)
  let free := use.filter fun x => !kept.any fun k => decide (k.2 = x)
  kept ++ rest.zip free

/-- A logical core is bound to its site, which runs at the role's operating point (R457, R452 step 7). A
site that is not fused good is never bound. -/
def State.startSite (s : State) (p : LCoreNo × SiteNo) : State :=
  if s.fuses.siteGood.getLsbD p.2.val = false then s
  else
    let op := roleOp s.role
    let s := s.bind p.1 (some p.2)
    let s := s.modDom (domOfSite p.2) fun v => { v with st := .on, mv := opMv op }
    let s := s.modRegion ⟨p.2.val, by omega⟩ fun r => { r with st := 1, mhz := opMhz op }
    s.modSite p.2 fun c => { c with bound := some p.1, pwr := .run, shut := false, op := op, spare := false }

/-- Step 6: the core map is bound, spares are switched off, and CORE_MAP is journaled (R4, R457, R458). DEDUCED, log entry 57. -/
def State.mapped (s : State) : State :=
  let use := (siteOrder.filter s.testable).length
  let s := (List.finRange 40).foldl
    (fun s n => let sp := s.testable n; s.modSite n fun c => { c with spare := sp }) s
  let s := s.bindings.foldl State.startSite s
  let s := s.journal (.coreMap ((List.finRange 32).map s.siteOf))
  if use < s.activeCount then
    ({ s with host := { s.host with degraded := true } }).fault 0x0803 none (BitVec.ofNat 32 use) 0
  else s

/-- A latency that a bring-up calibration finds, within the limit of its kind (R347): a free value. DESIGN CHOICE, log entry 3. -/
def State.latency (s : State) (x : Fin 120) : CalObs :=
  let v (i : Nat) : Option (BitVec 4) :=
    some (BitVec.ofNat 4 ((Config.freeWord (s.free + i)).toNat % (crossingLimit x.val + 1)))
  { fwd := v (2 * x.val), rev := v (2 * x.val + 1) }

/-- Step 7: field regions run at 1.0 GHz, and the crossings of bound sites and lintels are in DET (R347). -/
def State.calibrated (s : State) : State :=
  let s := (List.finRange 8).foldl
    (fun s f => if s.isDark f then s
      else s.modRegion ⟨40 + f.val, by omega⟩ fun r => { r with st := 1, mhz := 1000 }) s
  let s := (List.finRange 120).foldl
    (fun t x =>
      let on := if h : x.val < 80 then (s.site ⟨x.val % 40, by omega⟩).bound.isSome else true
      if on then t.calibrate x (s.latency x) else t) s
  let s := { s with free := s.free + 240 }
  (List.finRange 8).foldl (fun s f => if s.railLow f then s.halfSpeed f else s) s

/-- A channel of a fused-present site is trained: at the highest step it passes, or from the step of its TRAINING
record unless the start trains in full; a channel that passes no step fails (R245, R250, R459). -/
def State.trainChannel (s : State) (o : StartObs) (full : Bool) (ms : MemNo) (ch : Fin 4) : State :=
  let k := 4 * ms.val + ch.val
  let start : BitVec 3 :=
    if full then 6 else match tget (fun _ => none) s.jrnl.training ms.val with
      | some rs => rs.extractLsb' (3 * ch.val) 3
      | none => 6
  let rate := if s.mapBad 8 k then 0 else tget (fun _ => start) o.channelRate k
  let s := s.modChan ms ch fun c => { c with rate := rate, trained := s.tb, tempKnown := false }
  if rate = 0 ∧ s.mapBad 8 k = false then
    (s.fault 0x0205 none (BitVec.ofNat 32 (ms.val + 16 * ch.val)) 0).startBad 8 k 0x0205
  else s

/-- Rate codes of a site's four channels (Table 8.6). -/
def MemSite.rates (m : MemSite) : BitVec 12 :=
  (m.chan 3).rate ++ (m.chan 2).rate ++ (m.chan 1).rate ++ (m.chan 0).rate

/-- Step 8 for a memory site of a lit field (R459). -/
def State.trainSite (s : State) (o : StartObs) (cold full : Bool) (ms : MemNo) : State :=
  if s.fuses.mems.getLsbD ms.val = false ∨ s.isDark (fieldOfMem ms) = true then s
  else
    let s := (List.finRange 4).foldl (fun s ch => s.trainChannel o full ms ch) s
    let bad := (List.finRange 4).any fun ch => decide (((s.msite ms).chan ch).rate = 0)
    let s := s.modMsite ms fun m => { m with st := if bad then 3 else 2, temp := if bad then 0 else m.temp }
    if cold then s.journal (.training ms (s.msite ms).rates) else s

/-- Fields whose memory is in service: a lit field with every present site trained (R459, R250). -/
def State.memFields (s : State) : BitVec 8 :=
  (List.finRange 8).foldl
    (fun v f =>
      let ms := sitesOfMem f
      let some_ := ms.any fun m => s.fuses.mems.getLsbD m.val
      let good := ms.all fun m => !s.fuses.mems.getLsbD m.val || decide ((s.msite m).st = 2)
      if some_ && good && !s.isDark f && !s.fab.cutOff.getLsbD (2 * f.val) then setBit v f.val true else v) 0

/-- Step 8: the memory is trained, and fields with a failed channel are out of service (R459). -/
def State.memTrained (s : State) (o : StartObs) (cold full : Bool) : State :=
  let s := (List.finRange 16).foldl (fun s m => s.trainSite o cold full m) s
  let lit := s.memFields
  let s := { s with mem := { s.mem with lit := lit } }
  (List.finRange 8).foldl
    (fun s f => if s.isDark f ∨ ((sitesOfMem f).any fun m => decide ((s.msite m).st = 3)) = false then s
      else (s.sitesLost f).report 0x0206 none (BitVec.ofNat 32 f.val) 0) s

/-- Step 9: a bad frame is recorded (R460). -/
def State.frameBad (s : State) (p : Nat) : State :=
  if s.mapBad 9 p then s
  else
    let v := s.pageD p
    (s.fault 0x0804 none (BitVec.ofNat 32 v.field.val ||| BitVec.ofNat 32 (v.frame.toNat * 8))
      (BitVec.ofNat 64 (p * 8388608))).mapOut 9 p 0x0804

/-- A lit memory site has no TRAINING record (R454). -/
def State.untrained (s : State) : Bool :=
  (List.finRange 16).any fun m =>
    s.fuses.mems.getLsbD m.val && !s.isDark (fieldOfMem m) &&
    (tget (fun _ => none) s.jrnl.training m.val).isNone

/-- The start runs the memory test (R454). -/
def State.fullTest (s : State) : Bool :=
  !s.jrnl.quick || s.untrained ||
  (match s.jrnl.fulltest with
   | some p => decide (p.toNat + 2592000 < s.poweredNow.toNat)
   | none => true)

/-- Step 9, with the page map bound: the memory test, and the pages of bad frames left not VALID (R460,
R230). -/
def State.memTested (s : State) (o : StartObs) (full : Bool) : State :=
  let s := { s with mem := { s.mem with mapBound := true } }
  let s := if full then
      (o.badFrames.foldl State.frameBad s).journal (.fulltest s.poweredNow)
    else s
  let bad := s.jrnl.fieldMap.filterMap fun k => if k / 1048576 = 9 then some (k % 1048576) else none
  bad.foldl (fun s p => s.setPage p { s.pageD p with valid := false }) s

/-- Step 10: the bells of lit fields are in service, the time base is stepped, the fused SVN advances, and
READY is 1 (R283, R355, R429, R452). DESIGN CHOICE, log entry 3. -/
def State.finalised (s : State) (o : StartObs) (kind : BitVec 2) : State :=
  let lit : BitVec 8 := (List.finRange 8).foldl (fun v f => if s.isDark f then v else setBit v f.val true) 0
  let tb := match o.parentTb with
    | some t => if s.clk.parentEn && s.parentUp && !s.clk.everReady then t else s.tb
    | none => s.tb
  let up := decide (s.fuses.svn < o.fwSvn) && o.fwCommitSvn
  let s := { s with
    tb := tb,
    coll := { s.coll with lit := lit },
    clk := { s.clk with everReady := true },
    fuses := if up then { s.fuses with svn := o.fwSvn } else s.fuses,
    host := { s.host with ready := true, resetting := false },
    board := { s.board with
      stage := 10, kind := kind, seconds := satNat 16 (Config.freeWord s.free).toNat, resetDue := false,
      wdReset := false, refDropped := false, rails := true,
      sensors := o.sensors.foldl (fun t p => tset (fun _ => none) t p.1 (some p.2)) s.board.sensors },
    free := s.free + 1 }
  if up then s.fault 0x0703 none (o.fwSvn.setWidth 32) 0 else s

/-- Steps 3 to 10 of Table 17.1. DEDUCED, log entry 56. -/
def State.steps (s : State) (o : StartObs) (cold : Bool) : State :=
  let s := s.replayed o cold
  let full := cold && s.fullTest
  let kind : BitVec 2 := if cold = false then 2 else if full then 0 else 1
  let s := (List.finRange 8).foldl (fun s f => s.portsTested o f) (s.railsUp o).darkPorts
  let s := (s.tested o).mapped.calibrated.lanesTrained o
  ((s.memTrained o cold full).memTested o full).finalised o kind

/-- Steps 2 to 10 of Table 17.1 (R452): recovery on an image that fails, a halt on a lost journal. DEDUCED, log entry 56. -/
def State.bringUp (s : State) (o : StartObs) (cold : Bool) : State :=
  match bootFail o.fwImage o.fwSigOk o.fwDigestOk o.fwSvn s.fuses.svn with
  | some why => s.toRecovery why
  | none =>
    let s := s.verified o
    if o.journalMfg = false then
      ({ s with board := { s.board with stage := 12, resetDue := false, wdReset := false },
                host := { s.host with resetting := false } }).fault 0x0807 none 0 0
    else s.steps o cold

/-! ### Warm reset (R335, R336, R420) -/

/-- A warm reset starts; one in progress is joined (R335, R336, R420). -/
def State.beginReset (s : State) : State :=
  if s.host.resetting ∨ s.board.rails = false then s
  else
    { s with
      shadows := [], helds := [],
      host := { s.host with ready := false, resetting := true, arm := none },
      board := { s.board with resetDue := true } }

/-- WARM_RESET (R336, R452): a warm reset that no pin holds runs its steps and ends at READY. -/
def execWarmReset (o : StartObs) (s : State) : Host.Outcome State Fault Refusal :=
  if s.board.resetDue = false ∨ s.board.modrst ∨ s.board.pwrfail then .next s
  else .next ((s.cleared false).bringUp o false)

/-- MODRST_N (R335, R490): a recognised low starts the warm reset of a READY device, or holds or joins a
start in progress. DEDUCED, log entry 60. -/
def execModrstN (t : Word64) (s : State) : Host.Outcome State Fault Refusal :=
  let s := s.at t
  let r := s.host.ready
  let s := { s with board := { s.board with modrst := true } }
  .next (if r then s.beginReset else s)

/-- A cold power-on held after step 1 continues once neither pin holds it (R486, R490). -/
def State.release (s : State) : State :=
  match s.board.held with
  | some o =>
    if s.board.modrst ∨ s.board.pwrfail then s
    else ({ s with board := { s.board with held := none } }).bringUp o true
  | none => s

/-- MODRST_N_RISE (R490). -/
def execModrstNRise (s : State) : Host.Outcome State Fault Refusal :=
  .next { s with board := { s.board with modrst := false } }.release

/-- PWRFAIL_RISE (R466, R486): journaling resumes; a start that was held goes on. -/
def execPwrfailRise (s : State) : Host.Outcome State Fault Refusal :=
  .next { s with board := { s.board with pwrfail := false },
                 jrnl := { s.jrnl with sealing := false } }.release

/-! ### Rails and pins (R483 to R491) -/

/-- COLD_POWER_ON (R452, R483): the input has held 43 V (and, after a brown-out or over-voltage, at most
58 V) for 10 ms after being below 40 V or absent. Step 1 starts the time base at 0. DEDUCED, log entry 60. -/
def execColdPowerOn (inputTenMv : BitVec 16) (o : StartObs) (s : State) :
    Host.Outcome State Fault Refusal :=
  let again := decide (s.board.cause = 2) || decide (s.board.cause = 3)
  if s.board.armed = false ∨ s.board.rails ∨ s.board.thermtrip ∨ s.board.refLost ∨
     inputTenMv.toNat < 4300 ∨ (again ∧ 5800 < inputTenMv.toNat) then .next s
  else
    let s := s.cleared true
    let s := { s with
      tb := 0,
      jrnl := { s.jrnl with buf := [] },
      host := { s.host with portUp := 3, resetting := false, lockLost := [], downSince := none },
      board := { s.board with alwaysOn := true, rails := true, armed := false, stage := 0, held := some o,
                              resetDue := false, refDropped := false } }
    .next s.release

/-- Every rail except the always-on rail is dropped (Table 19.3, R489, R491). DEDUCED, log entry 59. -/
def State.dropRails (s : State) (cause : BitVec 3) : State :=
  let s := s.cleared true
  { s with
    host := { s.host with portUp := 0, resetting := false },
    sec := { s.sec with entropyOk := false },
    board := { s.board with rails := false, cause := cause, stage := 0, held := none, resetDue := false,
                            wdReset := false } }

/-- BROWN_OUT (R483, R486): records not yet sealed are lost. -/
def execBrownOut (s : State) : Host.Outcome State Fault Refusal :=
  if s.board.rails = false then .next { s with board := { s.board with armed := true } }
  else
    let s := s.dropRails 2
    .next { s with jrnl := { s.jrnl with buf := [] }, board := { s.board with armed := true } }

/-- OVER_VOLTAGE (R483). DEDUCED, log entry 60. -/
def execOverVoltage (s : State) : Host.Outcome State Fault Refusal :=
  if s.board.rails = false then .next s
  else
    let s := s.dropRails 3
    .next { s with board := { s.board with armed := true } }

/-- ALWAYS_ON_DROP (R483, R489): everything is off; the flash, the fuses and the pins' levels stay. -/
def execAlwaysOnDrop (s : State) : Host.Outcome State Fault Refusal :=
  let j := s.jrnl
  let keep : Journal := { recs := j.recs, seq := j.seq, half := j.half, gen := j.gen, fill := j.fill,
                          sealedKib := j.sealedKib }
  .next { State.reset with
    fuses := s.fuses, groupN := s.groupN, groupH := s.groupH, groupNarrow := s.groupNarrow, jrnl := keep.replay,
    fab := { absent := s.fab.absent, loadedAbsent := s.fab.absent,
             lintels := tmapK (fun _ => {}) (fun _ => Lintel.afterReset) s.fab.lintels },
    mem := { keyCount := s.mem.keyCount },
    host := { nextDesc := s.host.nextDesc },
    flt := { nextId := s.flt.nextId },
    sec := { nextLeaf := s.sec.nextLeaf, batchEnd := s.sec.batchEnd, exhausted := s.sec.exhausted,
             fwRegion := s.sec.fwRegion },
    board := { modrst := s.board.modrst, pwrfail := s.board.pwrfail },
    free := s.free, out := s.out, pending := s.pending }

/-- THERMTRIP (R489): latched until the input falls below 30 V. -/
def execThermtrip (s : State) : Host.Outcome State Fault Refusal :=
  if s.board.rails = false then .next s
  else
    let s := s.dropRails 1
    .next { s with board := { s.board with thermtrip := true } }

/-- REFERENCE_LOST (R491): privileged source 6 is raised. -/
def execReferenceLost (s : State) : Host.Outcome State Fault Refusal :=
  if s.board.refLost ∨ s.board.alwaysOn = false then .next s
  else
    let s := { s with board := { s.board with refLost := true } }
    let s := s.setSrc 6 { s.src 6 with line := true }
    .next (s.icRaise 6 s.tb)

/-- REFERENCE_LOST_LONG (R491): the rails are dropped. -/
def execReferenceLostLong (s : State) : Host.Outcome State Fault Refusal :=
  if s.board.refLost = false ∨ s.board.rails = false then .next s
  else
    let s := s.dropRails 4
    .next { s with board := { s.board with refDropped := true } }

/-- A link that lost lock with the reference retrains (R268, R491). -/
def State.lockRetrain (s : State) (l : LinkNo) : State :=
  let k := s.link l
  match k.st with
  | .up => s.setLink l { k.restart (k.seqNow s.tb) s.tb with
      st := .retrain, retrains := satInc k.retrains, recent := k.recent ++ [s.tb] }
  | _ => s

/-- A channel that lost lock with the reference is due for a retrain (R244, R491). -/
def State.chanRelock (s : State) (x : MemNo × Fin 4) : State :=
  if (s.msite x.1).st = 2 then s.modChan x.1 x.2 fun c => { c with due := some (c.due.getD s.tb) } else s

/-- REFERENCE_RETURN (R491): back within 1 ms the rails stay up, and what lost lock retrains. -/
def execReferenceReturn (obs : LockObs) (s : State) : Host.Outcome State Fault Refusal :=
  if s.board.refLost = false then .next s
  else
    let s := { s with board := { s.board with refLost := false } }
    let v := s.src 6
    let s := s.setSrc 6 { v.withdrawn with line := false }
    .next (obs.chans.foldl State.chanRelock (obs.links.foldl State.lockRetrain s))

/-- FAULT_N is asserted (Table 19.7). -/
def State.faultPin (s : State) : Bool :=
  s.board.wdReset || decide (s.board.stage = 12) || s.board.thermtrip || s.board.refLost ||
  s.board.refDropped ||
  (s.board.alwaysOn && !s.board.rails && (decide (s.board.cause = 2) || decide (s.board.cause = 3)))

end Sys2Proof.Machine
end

