-- ==== Sys2Proof/Machine/TallyOps.lean ====
section
/-!
DEFINITION. Machine/TallyOps.lean: tally buffers: what a tally saves, which tally is the last complete
one, and its restoring (R150, R240, R241, R251, R301 to R303).
-/

namespace Sys2Proof.Machine

/-! ### Buffers -/

/-- Every page of a scope's buffer, A of kind 3 or B of kind 4, is VALID (R240, R251). -/
def State.bufWhole (s : State) (o : Option HamletNo) (kind : BitVec 3) : Bool :=
  s.mem.pages.all fun e =>
    decide (e.2.kind ≠ kind) || decide (e.2.owner ≠ o) || (s.page e.1).valid

/-- A buffer of a scope holds a complete tally: its commit word counts and no page of it is lost. -/
def State.bufGood (s : State) (o : Option HamletNo) (inB : Bool) : Bool :=
  let t := s.tallyOf o
  (if inB then t.b else t.a).complete && s.bufWhole o (if inB then 4 else 3)

/-- Buffer A or B of a scope. -/
def TallyScope.buf (t : TallyScope) (inB : Bool) : TallyBuf := if inB then t.b else t.a

/-- Buffer A or B of a scope becomes v. -/
def TallyScope.setBuf (t : TallyScope) (inB : Bool) (v : TallyBuf) : TallyScope :=
  if inB then { t with b := v } else { t with a := v }

/-- The last complete tally of a scope: the buffer written last, or the other when that one is not
complete (R251). -/
def State.lastTally (s : State) (o : Option HamletNo) : Option TallyBuf :=
  let t := s.tallyOf o
  if s.bufGood o t.lastB then some (t.buf t.lastB)
  else if s.bufGood o (!t.lastB) then some (t.buf (!t.lastB))
  else none

/-- The last complete tally of a job in a scope: a tally counts only under its own JOB tag (R302). -/
def State.jobTally (s : State) (o : Option HamletNo) (job : Word32) : Option TallyBuf :=
  let t := s.tallyOf o
  let of_ (inB : Bool) : Option TallyBuf :=
    if s.bufGood o inB && decide ((t.buf inB).job = job) then some (t.buf inB) else none
  match of_ t.lastB with
  | some b => some b
  | none => of_ (!t.lastB)

/-- Tally n of a job, when a buffer holds it complete (R302, R303). -/
def State.tallyNo (s : State) (o : Option HamletNo) (job n : Word32) : Option TallyBuf :=
  let t := s.tallyOf o
  let of_ (inB : Bool) : Option TallyBuf :=
    let b := t.buf inB
    if s.bufGood o inB && decide (b.job = job) && decide (b.num = n) then some b else none
  match of_ false with
  | some b => some b
  | none => of_ true

/-- The number of a job's next tally (R302). -/
def State.nextTally (s : State) (o : Option HamletNo) (job : Word32) : Word32 :=
  match s.jobTally o job with
  | some b => b.num + 1
  | none => 1

/-- Tally n goes to buffer B when n is even (R302). -/
def tallyInB (n : Word32) : Bool := !n.getLsbD 0

/-! ### The job's tally bells (R302, R303, R403) -/

/-- The four tally bells of a descriptor with TALLY_EN (Table 11.5). -/
def Desc.tallyBells (d : Desc) : List (BitVec 13) :=
  if d.tallyEn then
    [(wordAt d.words 10).extractLsb' 0 13, (wordAt d.words 10).extractLsb' 13 13,
     (wordAt d.words 11).extractLsb' 0 13, (wordAt d.words 11).extractLsb' 13 13]
  else []

/-- The tally bells of a job. -/
def State.jobBells (s : State) (o : Option HamletNo) (job : Word32) : List (BitVec 13) :=
  (s.host.descs.filter fun d => d.runs && decide (d.job = job) && decide (s.scopeOf d = o)).flatMap
    Desc.tallyBells

/-- A bell by its 13-bit number. -/
def bellNo (b : BitVec 13) : BellNo := ⟨b.toNat, b.isLt⟩

/-- The scope's bells that are saved, with their contents: those that differ from an unwritten bell
(R302). -/
def State.savedBells (s : State) (o : Option HamletNo) (job : Word32) : List (BitVec 13 × Bell) :=
  let skip := s.jobBells o job
  s.coll.bells.filterMap fun e =>
    let b := BitVec.ofNat 13 e.1
    if e.2.owner = o ∧ skip.contains b = false then some (b, e.2) else none

/-! ### Cores (R150, R302) -/

/-- Regions of a core's table with their bytes (Table 10.6). -/
def State.savedRegions (s : State) (n : SiteNo) : List (Bool × BitVec 64 × List Byte) :=
  let c := s.site n
  match c.tallyEntries c.tallyTable with
  | some es => es.map fun e =>
      if e.kind = 0 then (false, e.addr, c.wsRead e.addr.toNat e.length)
      else (true, e.addr, s.ddrRead e.addr.toNat e.length)
  | none => []

/-- What a tally saves of the core on site n (R150). -/
def State.savedCore (s : State) (n : SiteNo) (lc : LCoreNo) : CoreSave :=
  let c := s.site n
  { lc := lc, pc := c.pc, sregs := c.sregs, aregs := c.aregs, toks := c.toks, loops := c.loops,
    vregs := c.vregs, regions := s.savedRegions n }

/-- Every declared GDDR7 region of a tally lies on VALID pages (R411). -/
def State.regionsValid (s : State) (b : TallyBuf) : Bool :=
  b.cores.all fun c => c.regions.all fun r =>
    !r.1 || (pagesOf r.2.1.toNat r.2.2.length).all fun p => (s.page p).valid

/-- The declared GDDR7 regions of a saved core are written back where their pages are VALID. -/
def State.restoreDdr (s : State) (c : CoreSave) : State :=
  c.regions.foldl
    (fun s r =>
      if r.1 && (pagesOf r.2.1.toNat r.2.2.length).all fun p => (s.page p).valid then
        s.ddrWrite r.2.1.toNat r.2.2
      else s) s

/-- The sequencer state and working-store regions of a saved core return to its site (R150, R412). -/
def Site.restoreCore (c : Site) (v : CoreSave) : Site :=
  let c := { c with pc := v.pc, sregs := v.sregs, aregs := v.aregs, toks := v.toks, loops := v.loops,
                    vregs := v.vregs }
  v.regions.foldl (fun c r => if r.1 then c else c.wsWrite r.2.1.toNat r.2.2) c

/-- A saved core is restored on the site its logical core is bound to. -/
def State.restoreCore (s : State) (v : CoreSave) : State :=
  let s := s.restoreDdr v
  match s.siteOf v.lc with
  | some n => s.modSite n fun c => c.restoreCore v
  | none => s

/-- A saved bell returns with every field except FIRED (R303). -/
def State.restoreBell (s : State) (p : BitVec 13 × Bell) : State :=
  let b := bellNo p.1
  if s.isDark (fieldOfBell b) then s else s.setBell b { p.2 with fired := (s.bell b).fired }

/-- Unowned bells that stood at 0 when the tally was taken return to 0, except FIRED (R303). -/
def State.zeroUnsaved (s : State) (saved : List (BitVec 13)) : State :=
  s.coll.bells.foldl
    (fun s e =>
      let b := BitVec.ofNat 13 e.1
      if e.2.owner ≠ none ∨ saved.contains b = true ∨ s.isDark (fieldOfBell (bellNo b)) = true then s
      else s.setBell (bellNo b) { fired := e.2.fired }) s

/-- A tally bell is rearmed with COUNT 0 (R303). DEDUCED, log entry 67. -/
def State.rearmBell (s : State) (b : BitVec 13) : State :=
  let k := bellNo b
  s.setBell k { s.bell k with count := 0, armed := true, refire := false, due := [] }

/-- No tally is being taken in a scope any more. -/
def State.stopTally (s : State) (o : Option HamletNo) : State :=
  let t := s.tallyOf o
  s.setTally o { t with taking := none, entered := false, share := 0, copied := [] }

/-! ### Program images (R88, R326, R412) -/

/-- A program image in the program store, from bundle 0; bundles beyond it keep their contents. -/
def Site.loadImage (c : Site) (image : List Word64) : Site :=
  { c with ps := image.zipIdx.foldl (fun t p => tset (fun _ => 0) t p.2 p.1) c.ps,
           psBad := c.psBad.filter fun b => decide (image.length ≤ 8 * b.toNat) }

end Sys2Proof.Machine
end

