-- ==== Sys2Proof/Machine/Recover.lean ====
section
/-!
DEFINITION. Machine/Recover.lean: the fault manager: responses, rollback across devices, replacement of a
core site, failed jobs and the supervision of the stewards (15_faults_recovery.md).
-/

namespace Sys2Proof.Machine

/-! ### Jobs and their peers (R403) -/

/-- The scopes of a device: outside every hamlet, then HM0 to HM7. -/
def scopes : List (Option HamletNo) := none :: (List.finRange 8).map some

/-- The recovery of a job, when one runs. -/
def State.recov (s : State) (o : Option HamletNo) (job : Word32) : Option Recov :=
  s.flt.jobs.find? fun r => decide (r.scope = o) && decide (r.job = job)

/-- The jobs in recovery become l. -/
def State.setJobs (s : State) (l : List Recov) : State := { s with flt := { s.flt with jobs := l } }

/-- The recovery of a job becomes v. -/
def State.setRecov (s : State) (v : Recov) : State :=
  s.setJobs (s.flt.jobs.map fun r => if r.scope = v.scope ∧ r.job = v.job then v else r)

/-- A job is in recovery no more. -/
def State.dropRecov (s : State) (o : Option HamletNo) (job : Word32) : State :=
  s.setJobs (s.flt.jobs.filter fun r => decide (r.scope ≠ o) || decide (r.job ≠ job))

/-- The scope of a message's job, when this device holds the job (R403, R413). DEDUCED, log entry 91. -/
def State.scopeOfMsg (s : State) (m : RecMsg) : Option (Option HamletNo) :=
  if (s.jobDescs m.tag m.job).isEmpty then none else some m.tag

/-- The first recovery of a job that meets a condition: two scopes may run jobs of one number (R403). DEDUCED, log entry 91. -/
def State.recovOn (s : State) (job : Word32) (p : Recov → Bool) : Option Recov :=
  s.flt.jobs.find? fun r => decide (r.job = job) && p r

/-- The first descriptor of a job with TALLY_EN. -/
def State.tallyDesc (s : State) (o : Option HamletNo) (job : Word32) : Option Desc :=
  s.host.descs.find? fun d => d.runs && d.tallyEn && decide (d.job = job) && decide (s.scopeOf d = o)

/-- The parent of this device in a job's tree: where ENTER_ARRIVE forwards with REMOTE (R403). -/
def State.jobParent (s : State) (o : Option HamletNo) (job : Word32) : Option (BitVec 12) :=
  match s.tallyDesc o job with
  | some d =>
    let b := s.bell (bellNo ((wordAt d.words 10).extractLsb' 0 13))
    if b.actFwd && b.remote then some b.dev else none
  | none => none

/-- The children of this device: the remote destinations of ENTER_RELEASE's multicast set (R403). -/
def State.jobChildren (s : State) (o : Option HamletNo) (job : Word32) : List (BitVec 12) :=
  match s.tallyDesc o job with
  | some d =>
    let b := s.bell (bellNo ((wordAt d.words 10).extractLsb' 13 13))
    if b.actMcast then
      ((s.mset b.mset.toNat).dests.filter fun x => x.remote).map (·.dev) |>.dedup
    else []
  | none => []

/-- A recovery message of this device for a job (Table 15.4). -/
def State.recMsg (s : State) (r : Recov) (cause : BitVec 16) (instant : Word64) (up : Bool) : RecMsg :=
  { job := r.job, tag := r.scope, attempt := r.attempt, tallyOk := r.tallyOk, noSpare := r.noSpare, instant := instant,
    tally := r.tally, cause := cause, source := s.id.dev, fromParent := !up }

/-- A message goes to the parent, when there is one (R410). DESIGN CHOICE, log entry 3. -/
def State.sendUp (s : State) (k : RecKind) (r : Recov) : State :=
  match s.jobParent r.scope r.job with
  | some p => s.send (.recovery k p (s.recMsg r 0 0 true) r.scope)
  | none => s

/-- A message goes to every child (R410). -/
def State.sendDown (s : State) (k : RecKind) (r : Recov) (cause : BitVec 16) (instant : Word64) : State :=
  s.sendAll ((s.jobChildren r.scope r.job).map fun d =>
    .recovery k d (s.recMsg r cause instant false) r.scope)

/-- A message goes to every neighbour but one (R410, R419). -/
def State.sendOn (s : State) (k : RecKind) (r : Recov) (cause : BitVec 16) (but : Option (BitVec 12)) :
    State :=
  let up := (s.jobParent r.scope r.job).toList.map fun d => (d, true)
  let down := (s.jobChildren r.scope r.job).map fun d => (d, false)
  s.sendAll (((up ++ down).filter fun p => decide (some p.1 ≠ but)).map fun p =>
    .recovery k p.1 (s.recMsg r cause 0 p.2) r.scope)

/-! ### FAILED and ended jobs (R405, R419) -/

/-- The number of a job's last complete tally, 0 when none exists. -/
def State.lastNo (s : State) (o : Option HamletNo) (job : Word32) : Word32 :=
  match s.jobTally o job with
  | some b => b.num
  | none => 0

/-- Every LAUNCH of a job on this device completes with a status; its cores are reset (R405). -/
def State.endJob (s : State) (o : Option HamletNo) (job : Word32) (status : BitVec 7) (detail : Word32) :
    State :=
  (((s.jobDescs o job).foldl (fun s i => s.endLaunch i status detail) s).stopTally o).dropRecov o job

/-- A job enters FAILED on this device: cores reset, working stores zeroised, the declared GDDR7 regions
of its last complete tally restored, FAILED and JOB_FAILED (R419). -/
def State.failHere (s : State) (o : Option HamletNo) (job : Word32) (cause : BitVec 16) : State :=
  let n := s.lastNo o job
  let ns := s.jobSites o job
  let s := match s.jobTally o job with
    | some b => b.cores.foldl State.restoreDdr s
    | none => s
  let s := s.endJob o job 7 n
  let s := s.modSites ns fun c => { c with ws := [] }
  let s := { s with flt := { s.flt with failedJobs := satInc s.flt.failedJobs } }
  s.fault 0x0605 none (cause.setWidth 32) (n.setWidth 64)

/-- A recovery record to send with when a job has none. -/
def State.recovOf (s : State) (o : Option HamletNo) (job : Word32) : Recov :=
  (s.recov o job).getD
    { scope := o, job := job, phase := .stop, attempt := 1, since := s.tb, began := s.tb, cls := 0,
      tally := s.lastNo o job, tallyOk := (s.jobTally o job).isSome, noSpare := false, replace := [],
      waitStopped := [], waitReady := [], localReady := false, goAt := none }

/-- This device decides that a job has failed: FAIL along the tree, then FAILED here (R419). -/
def State.failJob (s : State) (o : Option HamletNo) (job : Word32) (cause : BitVec 16) : State :=
  (s.sendOn .fail (s.recovOf o job) cause none).failHere o job cause

/-- END (R405): the LAUNCHes complete with a status and the peers are sent FAIL. The CAUSE of that FAIL is
stated by no rule: a free value. -/
def State.endAll (s : State) (o : Option HamletNo) (job : Word32) (status : BitVec 7) (detail : Word32) :
    State :=
  let cause := (Config.freeWord s.free).setWidth 16
  ((s.drew.sendOn .fail (s.recovOf o job) cause none).endJob o job status detail)

/-! ### Replacement (R414 to R416) -/

/-- Mesh links between two routers (R193). -/
def meshGap (a b : Fin 64) : Nat :=
  (a.val / 16 - b.val / 16) + (b.val / 16 - a.val / 16) + (a.val % 16 - b.val % 16) + (b.val % 16 - a.val % 16)

/-- The spare for a failed site: its own field first, then the fewest mesh links, then the lower number
(R414). -/
def State.spareFor (s : State) (old : SiteNo) : Option SiteNo :=
  let can := (List.finRange 40).filter fun n => s.isSpare n && decide (n ≠ old)
  match can.find? fun n => decide (fieldOfSite n = fieldOfSite old) with
  | some n => some n
  | none =>
    can.foldl
      (fun b n =>
        match b with
        | none => some n
        | some m =>
          if meshGap (rtrOfSite n) (rtrOfSite old) < meshGap (rtrOfSite m) (rtrOfSite old) then some n
          else some m) none

/-- The jobs that include the core on a site. -/
def State.jobOfSite (s : State) (n : SiteNo) : Option (Option HamletNo × Word32) :=
  match (s.site n).launch with
  | some l =>
    match s.desc l.desc with
    | some d => some (s.scopeOf d, l.job)
    | none => none
  | none => none

/-- No spare qualifies: the core stays unbound, the device is DEGRADED and the core's job fails (R416). -/
def State.noSpare (s : State) (lc : LCoreNo) (old : SiteNo) : State :=
  let j := s.jobOfSite old
  let s := s.fault 0x0607 none (BitVec.ofNat 32 lc.val) 0
  let s := { s with host := { s.host with degraded := true } }
  let s := match j with
    | some p => s.failJob p.1 p.2 1
    | none => s
  (s.bind lc none).modSite old fun c => { c with bound := none, mirror := 0, mirrorDegraded := false, mirrorGone := 0 }

/-- A logical core is to move: its site is switched off, recorded bad and zeroised, and the spare's domain
is admitted (R415). -/
def State.replaceCore (s : State) (lc : LCoreNo) (cause : BitVec 16) : State :=
  match s.siteOf lc with
  | none => s
  | some old =>
    let s := s.powerOff old
    let s := (s.modSite old fun c => { c with bad := true, spare := false,
                                              gran := if s.isDark (fieldOfSite old) then c.gran else [] })
    let s := s.mapOut 0 old.val cause
    match s.spareFor old with
    | none => s.noSpare lc old
    | some n =>
      (s.modSite n fun c => { c with chosen := some (lc, old), spare := false }).admitSite n

/-- Logical cores of a list in ascending order, each once. -/
def coreOrder (l : List LCoreNo) : List LCoreNo := (List.finRange 32).filter fun lc => l.contains lc

/-! ### The phases of a recovery (R410 to R412) -/

/-- STOP on this device: the job's cores are reset, CORE_EXC kept (R410, R161). -/
def State.stopCores (s : State) (o : Option HamletNo) (job : Word32) : State :=
  (s.coreResets (s.jobSites o job) true).stopTally o

/-- Recoveries of a job that began in the last 10 s (R419). -/
def State.recent (s : State) (o : Option HamletNo) (job : Word32) : Nat :=
  (s.flt.begun.filter fun b =>
    decide (b.1 = scopeKey o) && decide (b.2.1 = job) && !windowOver b.2.2 10000000000 s.tb).length

/-- A recovery of a job is counted (R419, Table 15.9). DEDUCED, log entry 66. -/
def State.counted (s : State) (o : Option HamletNo) (job : Word32) : State :=
  { s with flt := { s.flt with
      begun := (s.flt.begun.filter fun b => !windowOver b.2.2 10000000000 s.tb) ++ [(scopeKey o, job, s.tb)],
      recoveries := satInc s.flt.recoveries } }

/-- DETAIL of RECOVERY_START and RECOVERY_RESTART (Table 15.6). -/
def startDetail (cls : BitVec 16) (attempt : BitVec 8) : Word32 := fieldAt cls 0 ||| fieldAt attempt 16

/-- A declared region or a tally bell of a job that makes R411 fail on this device. DEDUCED, log entry 67. -/
def State.rollsBack (s : State) (o : Option HamletNo) (job n : Word32) : Bool :=
  match s.tallyNo o job n with
  | some b => s.regionsValid b && !(s.jobBells o job).any fun k => s.isDark (fieldOfBell (bellNo k))
  | none => false

/-- Why the root cannot choose a rollback point (R411, R416, Table 15.7); none when it can. -/
def State.whyFails (s : State) (r : Recov) : Option (BitVec 16) :=
  if r.noSpare then some 1
  else if (s.jobTally r.scope r.job).isNone then some 2
  else if (s.jobBells r.scope r.job).any fun k => s.isDark (fieldOfBell (bellNo k)) then some 4
  else if r.tallyOk = false ∨ s.rollsBack r.scope r.job r.tally = false then some 3
  else none

/-- RESTORE begins on this device and is sent down (R410). -/
def State.beginRestore (s : State) (r : Recov) : State :=
  let r := { r with phase := .restore, since := s.tb, localReady := false, goAt := none,
                    waitReady := s.jobChildren r.scope r.job }
  (s.setRecov r).sendDown .restore r 0 0

/-- From when the 1 s of a phase runs once a message has come: at the root from the start of the phase, at another
device from the message (R410). DEDUCED, log entry 66. -/
def State.heard (s : State) (r : Recov) : Word64 :=
  if (s.jobParent r.scope r.job).isSome then s.tb else r.since

/-- Every device of the subtree has stopped: STOPPED goes up, or the root chooses (R410, R411). -/
def State.allStopped (s : State) (r : Recov) : State :=
  match s.jobParent r.scope r.job with
  | some _ =>
    let r := { r with phase := .stopped }
    (s.setRecov r).sendUp .stopped r
  | none =>
    match s.whyFails r with
    | some cause => s.failJob r.scope r.job cause
    | none => s.beginRestore r

/-- A recovery of a job begins: by a fault of class cls, or by a STOP from a neighbour (R410, R418,
R419). DEDUCED, log entry 66. -/
def State.startRecovery (s : State) (o : Option HamletNo) (job : Word32) (cls : BitVec 16)
    (replace : List LCoreNo) (src : Option (BitVec 12)) (attempt : BitVec 8) : State :=
  if 4 ≤ s.recent o job then s.failJob o job 0
  else
    let s := s.counted o job
    let n := s.lastNo o job
    let ok := s.rollsBack o job n
    let s := s.fault 0x0601 none (startDetail cls attempt) (n.setWidth 64)
    let r : Recov :=
      { scope := o, job := job, phase := .stop, attempt := attempt, since := s.tb, began := s.tb,
        cls := cls, tally := n, tallyOk := ok, noSpare := false, replace := coreOrder replace,
        waitStopped := s.jobChildren o job, waitReady := s.jobChildren o job, localReady := false,
        goAt := none }
    let s := s.stopCores o job
    let s := s.setJobs (s.flt.jobs ++ [r])
    let s := s.sendOn .stop r 0 src
    if r.waitStopped.isEmpty then s.allStopped r else s

/-- A report joins a recovery: its replacements are added, the attempt rises, and STOPPED is sent again, or
the root restarts RESTORE (R418). -/
def State.joinRecovery (s : State) (r : Recov) (cls : BitVec 16) (replace : List LCoreNo) : State :=
  if 4 ≤ s.recent r.scope r.job then s.failJob r.scope r.job 0
  else
    let s := s.counted r.scope r.job
    let r := { r with attempt := r.attempt + 1, replace := coreOrder (r.replace ++ replace),
                      tallyOk := r.tallyOk && s.rollsBack r.scope r.job r.tally, localReady := false }
    let s := s.fault 0x0602 none (startDetail cls r.attempt) (r.tally.setWidth 64)
    let s := (s.setRecov r).stopCores r.scope r.job
    if r.phase = .stop then s else s.allStopped r

/-- ROLLBACK of a job, with the cores to replace (R405). -/
def State.rollback (s : State) (o : Option HamletNo) (job : Word32) (cls : BitVec 16)
    (replace : List LCoreNo) : State :=
  match s.recov o job with
  | some r => s.joinRecovery r cls replace
  | none => s.startRecovery o job cls replace none 1

/-! ### Responses (R404, R405, R417) -/

/-- The jobs that run on this device. -/
def State.jobs (s : State) : List (Option HamletNo × Word32) :=
  ((s.host.descs.filter Desc.runs).map fun d => (s.scopeOf d, d.job)).dedup

/-- The jobs a response acts on: that of the reporting core, or every job when it names no core (R405). -/
def State.jobsOf (s : State) (r : Report) : List (Option HamletNo × Word32) :=
  match r.site with
  | some n => (s.jobOfSite n).toList
  | none => s.jobs

/-- A Table 7.5 or 9.8 code that a Table 4.9 code came from (R217, R280). -/
def sourceCode (c : BitVec 4) : BitVec 4 :=
  match c.toNat with
  | 1 => 10 | 2 => 1 | 3 => 2 | 4 => 3 | 5 => 12 | 6 => 7 | 7 => 8 | 8 => 4 | _ => 0

/-- DETAIL of EXCEPTION (Table 11.6). -/
def State.excDetail (s : State) (n : SiteNo) : Word32 :=
  let c := s.site n
  let lc : BitVec 5 := match c.bound with | some b => BitVec.ofNat 5 b.val | none => 0
  fieldAt lc 0 ||| fieldAt (c.exc.extractLsb' 24 6) 8 |||
  (if s.confidential then 0 else fieldAt (c.exc.extractLsb' 0 16) 14)

/-- REPLACE, then ROLLBACK: a bound core in no job is replaced at once (R404, R405). -/
def State.replaceThen (s : State) (r : Report) : State :=
  match r.site with
  | none => s
  | some n =>
    match (s.site n).bound with
    | none => s
    | some lc =>
      match s.jobOfSite n with
      | some j => s.rollback j.1 j.2 r.cls [lc]
      | none => s.replaceCore lc r.cls

/-- FIELD_LOST: every job is stopped and each bound core of the field replaced (R417). -/
def State.fieldLost (s : State) (f : FieldNo) (cls : BitVec 16) : State :=
  let bound := coreOrder ((sitesOfField f).filterMap fun n => (s.site n).bound)
  let inJob (lc : LCoreNo) : Option (Option HamletNo × Word32) :=
    match s.siteOf lc with | some n => s.jobOfSite n | none => none
  let s1 := s.jobs.foldl
    (fun t j => t.rollback j.1 j.2 cls (bound.filter fun lc => decide (inJob lc = some j))) s
  (bound.filter fun lc => (inJob lc).isNone).foldl (fun t lc => t.replaceCore lc cls) s1

/-- What the fault manager does about a report (Table 15.1). -/
def State.answerReport (s : State) (r : Report) : State :=
  let roll (s : State) : State := (s.jobsOf r).foldl (fun s j => s.rollback j.1 j.2 r.cls []) s
  match r.cls.toNat with
  | 0xFF01 =>
    (match r.site with
     | some n => (s.jobsOf r).foldl (fun t j => t.endAll j.1 j.2 6 (s.excDetail n)) s
     | none => s)
  | 0x000F =>
    let c := r.detail.extractLsb' 0 4
    if c = 2 ∨ c = 4 ∨ c = 5 ∨ c = 7 then
      (s.jobsOf r).foldl (fun t j => t.endAll j.1 j.2 8 (fieldAt c 0 ||| fieldAt (sourceCode c) 4)) s
    else roll s
  | 0x0005 => roll s
  | 0x0006 => roll s
  | 0x0009 => roll s
  | 0x000A => roll s
  | 0x0606 => roll s
  | 0xFF02 => roll s
  | 0x0001 => s.replaceThen r
  | 0x0002 => s.replaceThen r
  | 0x0003 => s.replaceThen r
  | 0x0004 => s.replaceThen r
  | 0x000E => s.replaceThen r
  | 0x0502 => s.replaceThen r
  | 0x0403 => s.replaceThen r
  | 0x0404 => s.replaceThen r
  | 0x0010 =>
    (match r.site with
     | some n => if (s.jobOfSite n).isSome then s else s.replaceThen r
     | none => s)
  | 0x0105 => s.fieldLost ⟨r.detail.toNat % 8, by omega⟩ r.cls
  | 0x0206 => if r.detail.getLsbD 3 then s else roll s
  | 0x000D => (s.jobsOf r).foldl (fun t j => t.failJob j.1 j.2 5) s
  | _ => s

/-- FAULT_REPORT (R402, R404): reports are handled in stamp order. A report that the device has not raised
itself is handled when none waits. DEDUCED, log entry 66. -/
def execFaultReport (r : Report) (t : Word64) (s : State) : Host.Outcome State Fault Refusal :=
  let s := s.at t
  match s.flt.reports with
  | [] => .next (s.answerReport r)
  | (_, q) :: rest =>
    if q = r then .next ({ s with flt := { s.flt with reports := rest } }.answerReport r) else .next s

/-! ### Messages (R410, R413, R418) -/

/-- a is lower than b modulo 2^32 (R303, R410). -/
def lowerMod (a b : Word32) : Bool := (a - b).getLsbD 31

/-- RECOVERY_STOP (R410, R413): a STOP for a job this device holds. DEDUCED, log entry 66. -/
def execRecoveryStop (m : RecMsg) (t : Word64) (s : State) : Host.Outcome State Fault Refusal :=
  let s := s.at t
  match s.scopeOfMsg m with
  | none => .next s
  | some o =>
    match s.recov o m.job with
    | none => .next (s.startRecovery o m.job m.cause [] (some m.source) m.attempt)
    | some r =>
      if m.attempt < r.attempt then .next s
      else if m.attempt = r.attempt then .next (s.setRecov { r with since := s.heard r })
      else
        let s := s.counted o m.job
        let r := { r with attempt := m.attempt, phase := .stop, since := s.tb, localReady := false,
                          waitStopped := s.jobChildren o m.job, waitReady := s.jobChildren o m.job }
        let s := ((s.setRecov r).stopCores o m.job).sendOn .stop r 0 (some m.source)
        .next (if r.waitStopped.isEmpty then s.allStopped r else s)

/-- RECOVERY_STOPPED (R410, R411, R418): a child's subtree has stopped; its tally number is merged as the
lowest modulo 2^32. A higher attempt restarts RESTORE. -/
def execRecoveryStopped (m : RecMsg) (t : Word64) (s : State) : Host.Outcome State Fault Refusal :=
  let s := s.at t
  match (s.scopeOfMsg m).bind fun o => s.recov o m.job with
  | none => .next s
  | some r =>
    if m.attempt < r.attempt then .next s
    else
      let n := if lowerMod m.tally r.tally then m.tally else r.tally
      let again := decide (r.attempt < m.attempt)
      let s := if again then s.counted r.scope r.job else s
      let r := { r with tally := n, attempt := m.attempt, since := s.heard r,
                        tallyOk := r.tallyOk && m.tallyOk && s.rollsBack r.scope r.job n,
                        noSpare := r.noSpare || m.noSpare,
                        waitStopped := r.waitStopped.filter fun d => decide (d ≠ m.source) }
      let s := s.setRecov r
      if r.waitStopped.isEmpty ∧ (r.phase = .stop ∨ again = true) then .next (s.allStopped r) else .next s

/-- RECOVERY_RESTORE (R410 to R412): the root's rollback point; replacements and the restore begin. A
device that does not hold it fails the job. DEDUCED, log entry 91. -/
def execRecoveryRestore (m : RecMsg) (t : Word64) (s : State) : Host.Outcome State Fault Refusal :=
  let s := s.at t
  match (s.scopeOfMsg m).bind fun o => s.recov o m.job with
  | none => .next s
  | some r =>
    if m.attempt < r.attempt ∨ r.phase = .stop then .next s
    else if s.rollsBack r.scope r.job m.tally = false then .next (s.failJob r.scope r.job 3)
    else
      let s := if r.attempt < m.attempt then s.counted r.scope r.job else s
      .next (s.beginRestore { r with attempt := m.attempt, tally := m.tally })

/-- GO on this device, sent down with its instant (R410). -/
def State.goWith (s : State) (r : Recov) (i : Word64) : State :=
  let r := { r with phase := .go, since := s.tb, goAt := some i }
  (s.setRecov r).sendDown .go r 0 i

/-- Instant of GO: the time base plus 1 µs plus 0.38 µs for each level of the tree (R410). -/
def State.goInstant (s : State) : Word64 :=
  s.tb + 1000 + 380 * (s.coll.tree.extractLsb' 28 4).setWidth 64

/-- This device and its children are ready: READY goes up, or the root sends GO (R410). -/
def State.allReady (s : State) (r : Recov) : State :=
  if r.localReady && r.waitReady.isEmpty then
    match s.jobParent r.scope r.job with
    | some _ => s.sendUp .ready r
    | none => s.goWith r s.goInstant
  else s

/-- Sites of a job that wait for a replacement to be carried out. -/
def State.restoring (s : State) (o : Option HamletNo) (job : Word32) : Bool :=
  (s.jobSites o job).any fun n =>
    let c := s.site n
    c.refillDue || c.bound.isNone || decide (c.pwr = .off) || decide (c.pwr = .inTransition)

/-- IMAGE_BUNDLES of a LAUNCH. -/
def Desc.bundles (d : Desc) : Nat := ((wordAt d.words 6).extractLsb' 0 17).toNat

/-- The image stands in GDDR7 (IMAGE_KIND). -/
def Desc.imageInDdr (d : Desc) : Bool := (wordAt d.words 3).getLsbD 16

/-- The program image: from the operand, or from GDDR7 (R88, R326). -/
def State.launchImage (s : State) (d : Desc) (image : List Word64) : List Word64 :=
  if d.imageInDdr then
    (List.range (8 * d.bundles)).map fun i =>
      BitVec.ofNat 64 (leNat (s.ddrRead ((dwordAt d.words 4).toNat + 8 * i) 8))
  else image.take (8 * d.bundles)

/-- Program stores of a job are reloaded from their LAUNCH's image, an image in GDDR7 as it stands there now (R412). -/
def State.reload (s : State) (o : Option HamletNo) (job : Word32) : State :=
  (s.jobDescs o job).foldl
    (fun s i =>
      match s.desc i with
      | some d =>
        let image := s.launchImage d d.image
        s.modSites (s.launchSites i) fun c => c.loadImage image
      | none => s) s

/-- Tally n is written back: regions and sequencer state, program stores, bells (R150, R303, R412). DEDUCED, log entry 67. -/
def State.restoreTally (s : State) (o : Option HamletNo) (job n : Word32) : State :=
  match s.tallyNo o job n with
  | some b =>
    let s := (s.reload o job)
    let s := b.cores.foldl State.restoreCore s
    let s := if o = none then s.zeroUnsaved (b.bells.map (·.1) ++ s.jobBells o job) else s
    let s := b.bells.foldl State.restoreBell s
    (s.jobBells o job).foldl State.rearmBell s
  | none => s

/-- LOCAL_RESTORE_DONE (R410, R412): every replacement is carried out and tally n is written back. DEDUCED, log entry 67. -/
def execLocalRestoreDone (job : Word32) (t : Word64) (s : State) : Host.Outcome State Fault Refusal :=
  let s := s.at t
  match s.recovOn job fun r => decide (r.phase = .restore) && !r.localReady && decide (r.replace = []) &&
      !s.restoring r.scope job with
  | none => .next s
  | some r =>
    let s := s.restoreTally r.scope job r.tally
    let r := { r with localReady := true }
    .next ((s.setRecov r).allReady r)

/-- RECOVERY_READY (R410): a child's subtree is ready. -/
def execRecoveryReady (m : RecMsg) (t : Word64) (s : State) : Host.Outcome State Fault Refusal :=
  let s := s.at t
  match (s.scopeOfMsg m).bind fun o => s.recov o m.job with
  | none => .next s
  | some r =>
    if m.attempt < r.attempt ∨ r.phase ≠ .restore then .next s
    else
      let r := { r with waitReady := r.waitReady.filter fun d => decide (d ≠ m.source), since := s.heard r }
      .next ((s.setRecov r).allReady r)

/-- RECOVERY_GO (R410): dispatch resumes at the instant it carries. -/
def execRecoveryGo (m : RecMsg) (t : Word64) (s : State) : Host.Outcome State Fault Refusal :=
  let s := s.at t
  match (s.scopeOfMsg m).bind fun o => s.recov o m.job with
  | none => .next s
  | some r =>
    if m.attempt < r.attempt ∨ r.phase ≠ .restore ∨ r.localReady = false then .next s
    else .next (s.goWith r m.instant)

/-- A core resumes dispatch after a rollback (R151, R407, R412). -/
def Site.resume (c : Site) (now : Word64) : Site :=
  { c with seq := .running, sref := none, launch := c.launch.map fun l => { l with lastDispatch := now } }

/-- The instant of a recovery's GO has come (R410). -/
def Recov.goCame (now : Word64) (r : Recov) : Bool :=
  match r.goAt with
  | some i => decide (i ≤ now) && decide (r.phase = .go)
  | none => false

/-- RESUME_AT_INSTANT (R410, R412): the instant of GO is reached; the rollback is counted and
RECOVERY_DONE recorded. DEDUCED, log entry 66. -/
def execResumeAtInstant (job : Word32) (t : Word64) (s : State) : Host.Outcome State Fault Refusal :=
  let s := s.at t
  match s.recovOn job (Recov.goCame s.tb) with
  | none => .next s
  | some r =>
    let now := s.tb
    let s := s.modSites (s.jobSites r.scope job) fun c => c.resume now
    let s := (s.jobDescs r.scope job).foldl
      (fun s d => s.modDesc d fun d => { d with rollbacks := satInc d.rollbacks }) s
    let s := s.fault 0x0603 none (satNat 32 ((now - r.began).toNat / 1000)) (r.tally.setWidth 64)
    .next (s.dropRecov r.scope job)

/-- RECOVERY_FAIL (R419, R405): sent on, and the job enters FAILED here. -/
def execRecoveryFail (m : RecMsg) (t : Word64) (s : State) : Host.Outcome State Fault Refusal :=
  let s := s.at t
  match s.scopeOfMsg m with
  | none => .next s
  | some o =>
    if m.attempt < (s.recovOf o m.job).attempt then .next s
    else .next ((s.sendOn .fail (s.recovOf o m.job) m.cause (some m.source)).failHere o m.job m.cause)

/-- RECOVERY_PHASE_TIMEOUT (R410, R419): a phase longer than 1 s fails the job. -/
def execRecoveryPhaseTimeout (job : Word32) (t : Word64) (s : State) : Host.Outcome State Fault Refusal :=
  let s := s.at t
  match s.recovOn job fun r => windowOver r.since 1000000000 s.tb with
  | none => .next s
  | some r => .next (s.failJob r.scope r.job 6)

/-! ### Replacement commands (R415) -/

/-- CORE_REPLACE (R414, R415): the next replacement of a job's RESTORE phase, in ascending order. DEDUCED, log entry 69. -/
def execCoreReplace (lc : LCoreNo) (t : Word64) (s : State) : Host.Outcome State Fault Refusal :=
  let s := s.at t
  match s.flt.jobs.find? fun r => decide (r.phase = .restore) && decide (r.replace.head? = some lc) with
  | none => .next s
  | some r =>
    let s := s.setRecov { r with replace := r.replace.drop 1 }
    .next (s.replaceCore lc r.cls)

/-- A spare's granary takes exactly the bytes its mirror covers (R237). Pages that hold a lost key's
ciphertext are read byte by byte; of others the listed bytes are all that differ from 0. DEDUCED, log entry 69. -/
def State.refillAll (s : State) (n : SiteNo) : State :=
  let m := (s.site n).mirror
  let base := mirrorFirst m * 8388608
  let len := min (mirrorPages m * 8388608) granSize
  let listed := (s.mem.ddr.filter fun c => decide (base ≤ c.1) && decide (c.1 < base + len)).map
    fun c => (c.1 - base, c.2)
  let sealed_ := (s.mirrorRange n).any fun p => (tget (fun _ => none) s.mem.cipher p).isSome
  let g := if sealed_ then tput (fun _ => 0) [] 0 (s.ddrRead base len) else listed
  s.modSite n fun c => { c with gran := g }

/-- SPARE_REFILL_DONE (R237, R347, R348, R415): the refill ends and the spare is released to its own set
frequency with its crossings calibrated. Lost mirror pages end in GRANARY_LOST (R251, R417). DEDUCED, log entry 69. -/
def execSpareRefillDone (site : SiteNo) (obs : SpareObs) (s : State) : Host.Outcome State Fault Refusal :=
  let c := s.site site
  if c.refillDue = false then .next s
  else
    let s := s.modSite site fun c => { c with refillDue := false }
    let s :=
      if mirrorValid c.mirror = false then s
      else if s.mirrorLost site ≠ 0 then
        s.report 0x000D (some site) 0 (BitVec.ofNat 64 0)
      else
        let a := mirrorFirst c.mirror * 8388608 + obs.off.toNat
        let s := (s.ddrEcc a obs.ecc).refillAll site
        if obs.ecc = .uncorrectable then
          (s.modSite site fun c => c.granLose (obs.off.toNat / 4096)).hwFault site 0x000D 0
            (BitVec.ofNat 64 (obs.off.toNat / 4096 * 4096))
        else s
    let op := s.preferOp site
    let s := s.modSite site fun c => { c with op := op }
    let s := s.modDom (domOfSite site) fun v => { v with mv := opMv op, trim := 0 }
    let s := s.modRegion ⟨site.val, by omega⟩ fun g => { g with st := 1, mhz := opMhz op }
    .next ((s.calibrate ⟨site.val, by omega⟩ obs.toCalObs).calibrate ⟨40 + site.val, by omega⟩ obs.toCalObs)

/-! ### Supervision of the stewards (R409) -/

/-- One poll of a steward: misses in a row, and whether it is restarted at two. -/
def pollOne (missed : Nat) (answers : Bool) : Nat × Bool :=
  if answers then (0, false) else if 1 ≤ missed then (0, true) else (missed + 1, false)

/-- STEWARD_POLL (R409). -/
def execStewardPoll (aAnswers bAnswers : Bool) (t : Word64) (s : State) :
    Host.Outcome State Fault Refusal :=
  let s := s.at t
  let a := pollOne s.flt.missedA aAnswers
  let b := pollOne s.flt.missedB bAnswers
  let s := { s with flt := { s.flt with
      missedA := a.1, missedB := b.1,
      runnerB := if aAnswers then false else s.flt.runnerB || a.2,
      watchdog := if aAnswers || bAnswers then s.tb else s.flt.watchdog } }
  let s := if a.2 then s.fault 0x0608 none 0 0 else s
  .next (if b.2 then s.fault 0x0608 none 1 0 else s)

/-- REEVE_WATCHDOG (R409): 10 s without a restart: FAULT_N, a record and the warm reset of R336. -/
def execReeveWatchdog (t : Word64) (s : State) : Host.Outcome State Fault Refusal :=
  let s := s.at t
  if windowOver s.flt.watchdog 10000000000 s.tb = false ∨ s.board.rails = false ∨ s.host.resetting then
    .next s
  else
    let s := s.fault 0x0609 none 0 0
    .next { s.beginReset with board := { s.beginReset.board with wdReset := true } }

end Sys2Proof.Machine
end

