-- ==== Sys2Proof/Machine/Collect.lean ====
section
/-!
DEFINITION. Machine/Collect.lean: tallies and the system reset across devices (10_bells_collectives.md,
10.6 and 10.7).
-/

namespace Sys2Proof.Machine

/-! ### Tallies (R302) -/

/-- Every core of a job on this device waits in its TALLY. -/
def State.atTally (s : State) (o : Option HamletNo) (job : Word32) : Bool :=
  let ns := s.jobSites o job
  !ns.isEmpty && ns.all fun n => decide ((s.site n).seq = .tally)

/-- TALLY_ENTER_RELEASE (R302): the enter barrier has released; the scope's bells, except the job's tally
bells, are saved into the buffer of the tally's number. DEDUCED, log entry 40; DEDUCED, log entry 91. -/
def execTallyEnterRelease (job : Word32) (s : State) : Host.Outcome State Fault Refusal :=
  match scopes.find? fun o => s.atTally o job && (s.tallyOf o).taking.isNone with
  | none => .next s
  | some o =>
    let n := s.nextTally o job
    let t := s.tallyOf o
    let b : TallyBuf := { complete := false, num := n, job := job, time := 0, bells := s.savedBells o job,
                          cores := [] }
    .next (s.setTally o { t.setBuf (tallyInB n) b with taking := some n, entered := true, copied := [] })

/-- TALLY_REGIONS_COPIED (R150, R302): a core's regions and sequencer state are in the buffer, and it
arrives at the commit barrier. DEDUCED, log entry 40. -/
def execTallyRegionsCopied (site : SiteNo) (s : State) : Host.Outcome State Fault Refusal :=
  let c := s.site site
  let t := s.tallyOf c.hamlet
  match c.launch, c.bound, t.taking with
  | some l, some lc, some n =>
    if c.seq ≠ .tally ∨ t.entered = false ∨ t.copied.contains lc then .next s
    else
      let b := t.buf (tallyInB n)
      let b : TallyBuf := { b with cores := b.cores ++ [s.savedCore site lc] }
      let s := s.setTally c.hamlet { t.setBuf (tallyInB n) b with copied := t.copied ++ [lc] }
      .next (s.coreBell site (c.arrive l.commitArrive))
  | _, _, _ => .next s

/-- Every core of a job on this device has arrived at the commit barrier. -/
def State.allCopied (s : State) (o : Option HamletNo) (job : Word32) : Bool :=
  s.atTally o job && (s.jobSites o job).all fun n =>
    match (s.site n).bound with
    | some lc => (s.tallyOf o).copied.contains lc
    | none => false

/-- Logical cores of a job whose site is to be replaced at this tally (R183, R415). -/
def State.dueAtTally (s : State) (o : Option HamletNo) (job : Word32) : List LCoreNo :=
  (s.jobSites o job).filterMap fun n =>
    if (List.finRange 4).any fun e => ((s.site n).eng e).replaceAtTally then (s.site n).bound else none

/-- TALLY_COMMIT_RELEASE (R302, R415): the commit word makes the buffer the last complete tally and the
cores resume; a core to be replaced at this tally moves now, in a recovery from this tally. DEDUCED, log entry 40; DEDUCED, log entry 91. -/
def execTallyCommitRelease (job : Word32) (s : State) : Host.Outcome State Fault Refusal :=
  match scopes.find? fun o => s.allCopied o job && (s.tallyOf o).taking.isSome with
  | none => .next s
  | some o =>
    let t := s.tallyOf o
    let n := t.taking.getD 0
    let b : TallyBuf := { t.buf (tallyInB n) with complete := true, job := job, time := s.tb }
    let ns := s.jobSites o job
    let s := s.setTally o { t.setBuf (tallyInB n) b with
      lastB := tallyInB n, taking := none, entered := false, share := 0, copied := [] }
    let s := s.modSites ns fun c => { c with seq := .running }
    let due := s.dueAtTally o job
    .next (if due.isEmpty then s else s.rollback o job 0x0010 due)

/-! ### System reset (R304) -/

/-- RESET_AT goes to the remote destinations of MSET63 (R304). -/
def State.sendResetAt (s : State) (t0 : Word64) (root : BitVec 12) : State :=
  s.sendAll (((s.mset 63).dests.filter fun d => d.remote).map fun d => .resetAt d.dev t0 root)

/-- RESET_AT (R304, R420): sent on; a device with RESET_ACCEPT resets at T0, or at once when T0 has
passed. -/
def execResetAt (viaLink : Option LinkNo) (t0 : Word64) (root : BitVec 12) (s : State) :
    Host.Outcome State Fault Refusal :=
  let owned := match viaLink with | some l => (s.link l).owner.isSome | none => false
  if owned then .next s
  else
    let s := s.sendResetAt t0 root
    if t0 < s.tb then
      if s.coll.resetAccept then
        .next { s with coll := { s.coll with late := satInc s.coll.late } }.beginReset
      else .next s
    else .next { s with coll := { s.coll with resetT0 := some t0 } }

/-- The completion of a SYSTEM_RESET is written before the device's own warm reset begins (R327). -/
def State.resetAnswered (s : State) : Bool :=
  !s.host.descs.any fun d =>
    decide (d.cls = 6) && decide ((wordAt d.words 2).extractLsb' 0 8 = 0x20) && d.ready.isSome &&
    !s.host.lost

/-- RESET_AT_INSTANT (R304): T0 is reached. -/
def execResetAtInstant (t : Word64) (s : State) : Host.Outcome State Fault Refusal :=
  let s := s.at t
  match s.coll.resetT0 with
  | none => .next s
  | some t0 =>
    if s.tb < t0 ∨ s.resetAnswered = false then .next s
    else
      let s := { s with coll := { s.coll with resetT0 := none } }
      .next (if s.coll.resetAccept then s.beginReset else s)

end Sys2Proof.Machine
end

