-- ==== Sys2Proof/Machine/RegWords.lean ====
section
/-!
DEFINITION. Machine/RegWords.lean: what each register of the set-up window reads (18_registers.md and
the register tables of the other chapters).
-/

namespace Sys2Proof.Machine

/-- An owner as OWNED at bit n and HAMLET in the three bits below it. -/
def ownerBits (o : Option HamletNo) (n : Nat) : Word32 :=
  match o with
  | some h => bitAt true n ||| fieldAt (BitVec.ofNat 3 h.val) (n - 3)
  | none => 0

/-- Low half of a 64-bit value. -/
def lo32 (v : Word64) : Word32 := v.extractLsb' 0 32

/-- High half of a 64-bit value. -/
def hi32 (v : Word64) : Word32 := v.extractLsb' 32 32

/-! ### ID, SEC, FUSE: read at every stage (R473) -/

/-- ID_DEVNUM (Table 18.6). -/
def IdBlock.devnumWord (i : IdBlock) : Word32 :=
  bitAt i.valid 31 ||| bitAt i.pending 30 ||| fieldAt i.next 12 ||| fieldAt i.dev 0

/-- ID_VERSIONS (Table 18.5). -/
def State.versionsWord (s : State) : Word32 :=
  fieldAt s.id.fwBuild 16 ||| 0x1100 ||| fieldAt s.fuses.romVersion 0

/-- ID_ERR (Table 18.7). -/
def IdBlock.errWord (i : IdBlock) : Word32 := fieldAt i.parity 16 ||| bitAt i.copyLost 0

/-- The ID block (Table 18.5). -/
def State.readId (s : State) (o : Nat) : Word32 :=
  if o = 0x0000 then 0x5D170C01
  else if o = 0x0004 then 0x00000101
  else if o = 0x0008 then s.versionsWord
  else if 0x0018 ≤ o ∧ o ≤ 0x0024 then s.fuses.platform.extractLsb' (8 * (o - 0x18)) 32
  else if o = 0x0030 then s.id.devnumWord
  else if o = 0x0034 then bitAt s.id.lock 31
  else if o = 0x0040 then s.id.errWord
  else if o = 0x0044 then s.id.errAddr.setWidth 32
  else 0

/-- HMn exists (R442). -/
def Hamlet.exists_ (h : Hamlet) : Bool :=
  match h.st with
  | .live => true
  | .destroying => true
  | .resetting => true
  | _ => false

/-- Mask of the hamlets that exist. -/
def State.hamletMask (s : State) : BitVec 8 :=
  (List.finRange 8).foldl (fun v h => setBit v h.val (s.hamlet h).exists_) 0

/-- SEC_STATUS.BATCHES_LEFT (Table 16.9). -/
def State.batchesLeft (s : State) : BitVec 8 :=
  satNat 8 ((2 ^ 40 - s.sec.nextLeaf.toNat) / 1024 / 4194304)

/-- SEC_STATUS (Table 16.9). -/
def State.secStatus (s : State) : Word32 :=
  bitAt s.sec.recovery 31 ||| bitAt s.confidential 30 ||| fieldAt s.sec.debug 28 |||
  bitAt s.sec.entropyOk 27 ||| bitAt s.sec.fwWriting 26 ||| fieldAt s.hamletMask 8 |||
  fieldAt s.batchesLeft 0

/-- SEC_MBOX_STATUS (Table 16.8). -/
def Sec.mboxStatus (c : Sec) : Word32 :=
  bitAt c.busy 31 ||| fieldAt c.status 28 ||| fieldAt c.outLen 0

/-- Four bytes of a mailbox buffer. -/
def mboxWord (t : Tab Byte) (a : Nat) : Word32 := BitVec.ofNat 32 (leNat (tbytes (fun _ => 0) t a 4))

/-- The mailbox window (R449): while a command runs the caller's input is not read back. -/
def Sec.mboxData (c : Sec) (o : Nat) : Word32 :=
  let a := (c.page.extractLsb' 0 4).toNat * 4096 + o
  if c.page.getLsbD 4 then mboxWord c.outBuf a
  else if c.busy then 0 else mboxWord c.inBuf a

/-- The SEC block (Table 16.8). -/
def State.readSec (s : State) (o : Nat) : Word32 :=
  if o = 0x0000 then s.secStatus
  else if o = 0x0008 then s.sec.mboxStatus
  else if o = 0x000C then s.sec.inLen.setWidth 32
  else if o = 0x0010 then s.sec.page.setWidth 32
  else if o = 0x0014 then fieldAt s.fuses.svn 7 ||| fieldAt s.sec.imageSvn 0
  else if 0x1000 ≤ o ∧ o < 0x2000 then s.sec.mboxData (o - 0x1000)
  else 0

/-- The fuses are loaded (Table 18.4, R478): step 3 has ended. DEDUCED, log entry 56. -/
def State.fusesRead (s : State) : Bool :=
  !(decide (s.board.stage = 0) || decide (s.board.stage = 1) || decide (s.board.stage = 11))

/-- FUSE_BOOT (Table 17.8). -/
def State.bootWord (s : State) : Word32 :=
  fieldAt s.board.stage 28 ||| fieldAt s.board.kind 26 ||| bitAt s.jrnl.quick 25 |||
  fieldAt s.board.seconds 0

/-- FUSE_JRNL (Table 17.9). -/
def State.jrnlWord (s : State) : Word32 :=
  bitAt s.jrnl.half 31 ||| bitAt s.jrnl.compacting 30 ||| bitAt s.jrnl.sealing 29 |||
  fieldAt (satNat 8 (s.jrnl.fill * 100 / 67108864)) 16 |||
  fieldAt (satNat 9 ((s.jrnl.waiting + 1023) / 1024)) 0

/-- The FUSE block (Table 17.7). DEDUCED, log entry 56. -/
def State.readFuse (s : State) (o : Nat) : Word32 :=
  if o = 0x0020 then s.bootWord
  else if o = 0x0024 then s.jrnlWord
  else if s.fusesRead = false then 0
  else if o = 0x0000 then fieldAt s.fuses.variant 30 ||| fieldAt (BitVec.ofNat 6 s.activeCount) 24
  else if o = 0x0010 then s.fuses.links.extractLsb' 0 32
  else if o = 0x0014 then s.fuses.links.extractLsb' 32 32
  else if o = 0x0018 then s.fuses.links.extractLsb' 64 32
  else if o = 0x001C then s.fuses.mems.setWidth 32
  else if o = 0x0028 then s.jrnl.gen
  else 0

/-! ### HST (Tables 11.9 to 11.12) -/

/-- HST_STATUS (Table 11.10). -/
def State.hstStatus (s : State) : Word32 :=
  bitAt s.host.ready 31 ||| bitAt s.host.resetting 30 ||| bitAt s.host.lost 29 |||
  bitAt s.host.degraded 28 ||| fieldAt s.role 26 ||| fieldAt s.host.portUp 24 |||
  fieldAt s.host.dbIgnored 16 ||| fieldAt (BitVec.ofNat 6 s.bound) 0

/-- HST_RING_CFG_n (Table 11.11). -/
def Ring.cfgWord (g : Ring) : Word32 :=
  bitAt g.enable 31 ||| bitAt g.irqEn 30 ||| bitAt g.port 29 ||| fieldAt g.version 22 |||
  fieldAt (BitVec.ofNat 8 g.cq.val) 10 ||| fieldAt g.sqLog2 5 ||| fieldAt g.cqLog2 0

/-- HST_RING_STATUS_n (Table 11.12). -/
def Ring.statusWord (g : Ring) : Word32 :=
  bitAt g.active 31 ||| ownerBits g.owner 30 ||| fieldAt g.err 24 ||| fieldAt g.outstanding 0

/-- The ring of an offset in the HST block's ring registers, and the offset within them. -/
def ringAt (o : Nat) : RingNo := ⟨(o - 0x1000) / 64 % 256, by omega⟩

/-- The HST block, beyond its 64-bit pairs. -/
def State.readHst (s : State) (o : Nat) : Word32 :=
  if o = 0x0000 then s.hstStatus
  else if o = 0x0004 then bitAt s.host.lock 31 ||| bitAt s.host.hbEn 30
  else if o = 0x0010 then 0x00000002
  else if 0x1000 ≤ o ∧ o < 0x5000 then
    let g := s.ring (ringAt o)
    let k := o % 64
    if k = 0x18 then g.msgData
    else if k = 0x1C then g.cfgWord
    else if k = 0x20 then g.statusWord
    else if k = 0x24 then fieldAt g.cqTail 16 ||| fieldAt g.sqHead 0
    else 0
  else 0

/-! ### CORE and ENG -/

/-- The site of an offset in the CORE blocks. -/
def coreAt (o : Nat) : SiteNo := ⟨(o - 0x100000) / 65536 % 40, by omega⟩

/-- The engine of an offset within a CORE block. -/
def engAt (o : Nat) : EngNo := ⟨(o - 0x8000) / 4096 % 4, by omega⟩

/-- The domain of a site is OFF or FAILED, so its CORE block keeps only what the base die and the stewards
hold (R474). -/
def State.coreDown (s : State) (n : SiteNo) : Bool :=
  match (s.dom (domOfSite n)).st with
  | .off => true
  | .failed => true
  | _ => false

/-- An ENG sub-block, beyond its pairs (Tables 2.8, 3.6, 3.7, 6.6). -/
def State.readEng (s : State) (n : SiteNo) (o : Nat) : Word32 :=
  let c := s.site n
  let g := c.eng (engAt o)
  let k := o % 4096
  let down := s.coreDown n
  if k = 0x0000 then (if down then ({} : Engine).statusWord else g.statusWord)
  else if k = 0x0004 then g.remapRow
  else if k = 0x0008 then g.remapCol
  else if k = 0x0040 then (if down then 0 else g.flushReg)
  else if k = 0x0020 then c.checkWord (engAt o)
  else 0

/-- A CORE block, beyond its pairs (Tables 4.12 to 4.16, 5.15, 5.16). -/
def State.readCore (s : State) (n : SiteNo) (o : Nat) : Word32 :=
  let c := s.site n
  let hide := s.confidential
  if o = 0x0004 then c.pwrWord
  else if o = 0x0304 then c.granEcc
  else if 0x8000 ≤ o ∧ o < 0xC000 then s.readEng n o
  else if s.coreDown n then (if o = 0x0200 then ({} : Site).sillWord else 0)
  else if o = 0x0000 then (if hide then { c with pc := 0 }.statusWord else c.statusWord)
  else if o = 0x0028 then (if hide then 0 else c.slipMax)
  else if o = 0x002C then (if hide then 0 else c.stretchSlip)
  else if o = 0x0030 then
    (if hide then { c with exc := c.exc &&& 0xFF000000 }.exc else c.exc)
  else if o = 0x0034 then (if hide then 0 else c.excInfo)
  else if o = 0x0040 then c.vecFlush
  else if 0x0100 ≤ o ∧ o < 0x0140 then
    let q := c.queue ⟨(o - 0x100) / 16 % 4, by omega⟩
    if o % 16 = 0 then (if hide then { q with completed := 0 }.statusWord else q.statusWord)
    else if o % 16 = 4 then q.errTag
    else 0
  else if o = 0x0200 then c.sillWord
  else if o = 0x0300 then c.wsEcc
  else if o = 0x0308 then c.sillEcc
  else if o = 0x030C then c.psEcc
  else 0

/-! ### FAB, MEM, LNK -/

/-- FAB_LT_n (Table 7.9). -/
def Lintel.word (l : Lintel) : Word32 :=
  fieldAt l.mode 30 ||| fieldAt l.planeDown 22 ||| fieldAt l.spares 14 ||| fieldAt l.latFwd 4 |||
  fieldAt l.latRev 0

/-- The FAB block (Tables 7.7 to 7.9). -/
def State.readFab (s : State) (o : Nat) : Word32 :=
  let f := s.fab
  if o = 0x0000 then
    fieldAt f.dark 24 ||| bitAt f.paused.isSome 23 |||
    bitAt (decide (f.loadedDark ≠ 0) || !f.absent.isEmpty) 22 ||| fieldAt f.routeGen 0
  else if o = 0x0010 then fieldAt f.hopRetry 16 ||| fieldAt f.timeouts 8 ||| fieldAt f.redRetry 0
  else if 0x0100 ≤ o ∧ o < 0x0128 then (s.lintel ((o - 0x100) / 4)).word
  else 0

/-- A page-map entry as MEM_PMAP_DATA (Table 8.2). -/
def Page.word (p : Page) : Word32 :=
  bitAt p.valid 31 ||| ownerBits p.owner 30 ||| fieldAt p.kind 24 ||| bitAt p.remR 23 |||
  bitAt p.remW 22 ||| bitAt p.enc 21 ||| fieldAt (BitVec.ofNat 3 p.field.val) 18 |||
  fieldAt p.frame 0

/-- MEM_SITE_n (Table 8.6). -/
def MemSite.word (m : MemSite) : Word32 :=
  let rate : BitVec 12 := (List.finRange 4).foldl
    (fun v k => v ||| ((m.chan k).rate.setWidth 12) <<< (3 * k.val)) 0
  fieldAt m.st 30 ||| bitAt m.retraining.isSome 29 |||
  fieldAt (match m.retraining with | some k => BitVec.ofNat 2 k.val | none => (0 : BitVec 2)) 27 |||
  fieldAt rate 12 ||| (if m.st = 0 ∨ m.st = 3 then 0 else fieldAt m.temp 0)

/-- Fields with a channel that retrains (Table 8.5). -/
def State.retrainFields (s : State) : BitVec 8 :=
  (List.finRange 16).foldl
    (fun v n => if (s.msite n).retraining.isSome then setBit v (fieldOfMem n).val true else v) 0

/-- The MEM block (Tables 8.4 to 8.7). -/
def State.readMem (s : State) (o : Nat) : Word32 :=
  let site (b : Nat) : MemNo := ⟨(o - b) / 4 % 16, by omega⟩
  if o = 0x0000 then
    fieldAt s.mem.lit 24 ||| fieldAt s.retrainFields 16 |||
    bitAt ((List.finRange 40).any fun n => (s.site n).mirrorDegraded) 15
  else if o = 0x0004 then BitVec.ofNat 32 s.validPages
  else if o = 0x0010 then s.mem.pmapIdx.setWidth 32
  else if o = 0x0014 then
    (if s.pageCap ≤ s.mem.pmapIdx.toNat then 0 else (s.page s.mem.pmapIdx.toNat).word)
  else if 0x0100 ≤ o ∧ o < 0x01C0 then
    let b := o / 64 * 64
    let n := site b
    if s.fuses.mems.getLsbD n.val = false then 0
    else if b = 0x0100 then (s.msite n).word
    else if b = 0x0140 then (s.msite n).ecc
    else fieldAt (s.msite n).crcRepeats 16 ||| fieldAt (s.msite n).retrains 0
  else 0

/-- STATE of a link (Table 9.10). -/
def linkCode : LinkState → BitVec 4
  | .absent => 0
  | .down => 1
  | .training => 2
  | .ident => 3
  | .keying => 4
  | .up => 5
  | .retrain => 6

/-- LNK_STATUS.SPARES (Table 9.10). -/
def Link.sparesUsed (k : Link) : BitVec 2 :=
  k.steered.foldl (fun v x => setBit v (if x.2.2 then 1 else 0) true) 0

/-- LNK_STATUS (Table 9.10). -/
def State.linkStatus (s : State) (l : LinkNo) : Word32 :=
  let k := s.link l
  fieldAt (linkCode k.st) 28 ||| fieldAt k.major 24 ||| fieldAt k.minor 20 ||| fieldAt k.lanes 16 |||
  fieldAt k.sparesUsed 14 ||| bitAt k.half 13 ||| bitAt (s.isGlobal l) 12 ||| bitAt (s.isCabled l) 11 |||
  ownerBits k.owner 10

/-- LNK_PEER (Table 9.11). -/
def Link.peerWord (k : Link) : Word32 :=
  fieldAt k.peerDev 20 ||| fieldAt k.peerLink 13 ||| fieldAt k.cableNs 0

/-- The LNK block of a link; a fused-off one reads 0 (Tables 9.10 to 9.13, R3). -/
def State.readLink (s : State) (l : LinkNo) (o : Nat) : Word32 :=
  let k := s.link l
  if s.hasLink l = false then 0
  else if o = 0x000 then s.linkStatus l
  else if o = 0x004 then k.peerWord
  else if o = 0x008 then fieldAt k.replays 16 ||| fieldAt k.retrains 8 ||| fieldAt k.authFails 0
  else if o = 0x00C then fieldAt (satNat 16 (k.corrected / 65536)) 16 ||| fieldAt k.uncorrectable 0
  else 0

/-! ### BELL -/

/-- Word w of a tree context (Table 10.4). -/
def TreeCtx.word (t : TreeCtx) (w : Nat) : Word32 :=
  match w with
  | 0 => bitAt t.valid 31 ||| ownerBits t.owner 30 ||| fieldAt t.mode 25 ||| bitAt t.root 24 |||
      bitAt t.fmt 23 ||| fieldAt t.nchild 18 ||| fieldAt (BitVec.ofNat 3 t.home.val) 15 |||
      bitAt t.failed 14
  | 1 => fieldAt t.parent 20 ||| fieldAt t.uplink 0
  | 2 => t.children.extractLsb' 0 32
  | 3 => t.children.extractLsb' 32 32
  | 4 => t.children.extractLsb' 64 32
  | 5 => t.length
  | 6 => bitAt t.doneEn 13 ||| fieldAt t.doneBell 0
  | _ => 0

/-- Word w of a multicast set (Table 10.9). -/
def MSet.word (m : MSet) (w : Nat) : Word32 :=
  if w = 0 then BitVec.ofNat 32 m.dests.length
  else
    match m.dests[w - 1]? with
    | some d => fieldAt d.dev 20 ||| bitAt d.remote 19 ||| fieldAt d.bell 0
    | none => 0

/-- BELL_WIN_w: word w of the entry that BELL_SEL names (Table 10.8). -/
def State.bellWin (s : State) (w : Nat) : Word32 :=
  let i := s.coll.sel.extractLsb' 0 13
  match (s.coll.sel.extractLsb' 30 2).toNat with
  | 0 => wordAt (imageWords (s.bell ⟨i.toNat, i.isLt⟩).image) w
  | 1 => if h : i.toNat < 64 then (s.tree ⟨i.toNat, h⟩).word w else 0
  | 2 => if i.toNat < 64 then (s.mset i.toNat).word w else 0
  | _ => 0

/-- The BELL block (Tables 10.8, 10.10). -/
def State.readBell (s : State) (o : Nat) : Word32 :=
  let c := s.coll
  if o = 0x0000 then bitAt c.lock 31 ||| bitAt c.resetAccept 30
  else if o = 0x0004 then
    fieldAt c.lit 24 ||| fieldAt c.dropped 16 ||| fieldAt c.late 8 ||| fieldAt c.remoteFail 0
  else if o = 0x0008 then c.tree
  else if o = 0x0010 then c.sel
  else if 0x0020 ≤ o ∧ o < 0x00A0 then s.bellWin ((o - 0x20) / 4)
  else 0

/-! ### CLK -/

/-- The crossings that exist (Table 12.2): lintels LT0 to LT5 have two links, LT6 to LT9 four. -/
def crossingsAll : List Nat :=
  (List.range 120).filter fun x => decide (x < 80) || decide (104 ≤ x) || decide (x % 4 < 2)

/-- A crossing is in use: its site has power, or its lintel link is not absent and both its fields are
lit. -/
def State.crossingUsed (s : State) (x : Nat) : Bool :=
  if x < 80 then
    !s.coreDown ⟨x % 40, by omega⟩
  else
    let l := s.lintel ((x - 80) / 4)
    !l.linkOut ((x - 80) % 4) && !s.isDark (lintelFields ((x - 80) / 4)).1 &&
    !s.isDark (lintelFields ((x - 80) / 4)).2
where
  /-- The fields a lintel joins (Table 1.2). -/
  lintelFields (k : Nat) : FieldNo × FieldNo :=
    match k with
    | 0 => (0, 1)
    | 1 => (1, 2)
    | 2 => (2, 3)
    | 3 => (4, 5)
    | 4 => (5, 6)
    | 5 => (6, 7)
    | 6 => (0, 4)
    | 7 => (1, 5)
    | 8 => (2, 6)
    | _ => (3, 7)

/-- CLK_STATUS (Table 12.7). -/
def State.clkStatus (s : State) : Word32 :=
  let used := crossingsAll.filter s.crossingUsed
  let low (f : FieldNo) : Bool := decide ((s.region ⟨40 + f.val, by omega⟩).mhz = 900)
  bitAt (!used.isEmpty && used.all fun x => decide ((s.crossing x).mode ≠ 0)) 31 |||
  bitAt (low 0) 30 ||| bitAt (low 2) 29 |||
  bitAt ((List.finRange 48).any fun r => decide ((s.region r).st = 2)) 28 ||| fieldAt s.clk.changes 0

/-- CLK_REGION_n (Table 12.10). -/
def State.regionWord (s : State) (n : RegionNo) : Word32 :=
  let g := s.region n
  fieldAt g.st 30 ||| fieldAt g.mhz 19 ||| fieldAt g.margin 17 |||
  (if s.confidential && decide (n.val < 40) then 0
   else if h : n.val < 40 then fieldAt (satNat 16 (g.stretches.toNat + (s.site ⟨n.val, h⟩).droopStretches.toNat)) 0
   else fieldAt g.stretches 0)

/-- The CLK block, beyond CLK_TB (Tables 12.6 to 12.10). -/
def State.readClk (s : State) (o : Nat) : Word32 :=
  let c := s.clk
  if o = 0x0000 then s.clkStatus
  else if o = 0x0018 then bitAt s.tbLocked 31 ||| bitAt c.master 30 ||| fieldAt c.offset 0
  else if o = 0x001C then
    bitAt c.lock 31 ||| bitAt c.master 30 ||| bitAt c.parentEn 7 ||| fieldAt c.parentLink 0
  else if o = 0x0020 then
    fieldAt (satNat 8 (crossingsAll.filter fun x => decide ((s.crossing x).mode = 0)).length) 16 |||
    fieldAt (satNat 8 (crossingsAll.filter fun x => decide ((s.crossing x).mode = 2)).length) 8 |||
    fieldAt c.calFails 0
  else if 0x0100 ≤ o ∧ o < 0x01C0 then s.regionWord ⟨(o - 0x100) / 4 % 48, by omega⟩
  else 0

/-! ### PWR -/

/-- STATE of a domain (Table 13.12). -/
def domCode : DomState → BitVec 3
  | .off => 0
  | .wait => 1
  | .ramp => 2
  | .on => 3
  | .failed => 4

/-- PWR_DOM_STATUS_d (Table 13.12). -/
def State.domWord (s : State) (d : DomainNo) : Word32 :=
  let v := s.dom d
  fieldAt (domCode v.st) 29 ||| fieldAt v.phases 17 |||
  (match siteOfDom d with
   | some n => fieldAt (s.effCap n) 12 ||| fieldAt (s.capSrc n) 9
   | none => fieldAt (16 : BitVec 5) 12) |||
  fieldAt v.conn 7

/-- Telemetry of a core domain reads 0 while a hamlet is confidential (R380). -/
def State.telRedacted (s : State) (d : DomainNo) : Bool := decide (d.val < 40) && s.confidential

/-- SET_MV: the set voltage with its trim (Table 13.9). -/
def Domain.setMv (v : Domain) : BitVec 10 := v.mv + v.trim.setWidth 10

/-- The registers of domain d at an offset in its sub-block (Table 13.9). -/
def State.readDom (s : State) (d : DomainNo) (o : Nat) : Word32 :=
  let v := s.dom d
  let hide := s.telRedacted d
  if o = 0x00 then bitAt v.telMode 31
  else if o = 0x04 then s.domWord d
  else if o = 0x08 then (if hide then 0 else fieldAt v.tel 0)
  else if o = 0x14 then fieldAt v.z0 16 ||| fieldAt v.z 0
  else if o = 0x18 then (if hide then 0 else fieldAt v.temp 24) ||| fieldAt v.setMv 0
  else 0

/-- PWR_MEMBER_m. -/
def State.memberWord (s : State) (m : Nat) : Word32 :=
  let v : Bool × BitVec 12 := tget (fun _ => (false, 0)) s.pwr.members m
  bitAt v.1 31 ||| fieldAt v.2 0

/-- The PWR block, beyond PWR_TEL_TS (Tables 13.9 to 13.12). -/
def State.readPwr (s : State) (o : Nat) : Word32 :=
  let p := s.pwr
  if o = 0x0000 then
    fieldAt p.ibcOk 24 ||| bitAt (decide (p.qIn = 8)) 23 ||| bitAt p.groupErr 22 ||| fieldAt p.inputW 0
  else if o = 0x0004 then bitAt p.lock 31 ||| bitAt p.groupEn 30 ||| fieldAt p.limitW 0
  else if o = 0x0008 then p.totalW.setWidth 32
  else if o = 0x000C then
    bitAt p.leader 31 ||| bitAt p.groupEn 30 ||| fieldAt (BitVec.ofNat 16 s.budgetB) 0
  else if o = 0x0010 then (if p.leader then p.pool.setWidth 32 else 0)
  else if 0x0100 ≤ o ∧ o < 0x0200 then s.memberWord ((o - 0x100) / 4)
  else if 0x1000 ≤ o ∧ o < 0x1600 then s.readDom ⟨(o - 0x1000) / 32 % 48, by omega⟩ (o % 32)
  else 0

/-! ### IC, FLT -/

/-- IC_SRC_n (Table 14.6). -/
def Src.word (v : Src) : Word32 :=
  let pend := decide (v.st = .pending) || decide (v.st = .inServicePending)
  let serv := decide (v.st = .inService) || decide (v.st = .inServicePending)
  bitAt pend 31 ||| bitAt v.en 30 ||| bitAt serv 28 ||| fieldAt v.target 25 ||| fieldAt v.prio 22 |||
  fieldAt v.mode 19 ||| fieldAt v.filter 11 ||| fieldAt v.token 5

/-- The group of an offset is inside a hold-off interval. -/
def State.grpHolding (s : State) (g : Nat) : Bool := s.icHeld (16 * g)

/-- The IC block, beyond its pairs (Tables 14.4 to 14.6). A read of IC_CLAIM here is one that claims
nothing; a processor's claim is the row IC_CLAIM. DEDUCED, log entry 77. -/
def State.readIc (s : State) (o : Nat) : Word32 :=
  let i := s.ic
  if o = 0x0000 then
    bitAt i.lock 31 ||| bitAt i.hold 30 ||| fieldAt i.spurious 8 ||| fieldAt i.dropped 0
  else if o = 0x0010 ∨ o = 0x0020 ∨ o = 0x0030 then 1023
  else if 0x0050 ≤ o ∧ o < 0x005C then
    let t := (o - 0x50) / 4
    bitAt (tget (fun _ => false) i.sleeping t) 31 ||| bitAt (tget (fun _ => false) i.lines t) 30 |||
    fieldAt (tget (fun _ => 0) i.thresholds t) 0
  else if o = 0x0060 then i.seqMask
  else if 0x0104 ≤ o ∧ o < 0x0200 then
    let g := (o - 0x100) / 4
    bitAt (s.grpHolding g) 31 ||| fieldAt (tget (fun _ => 0) i.holdoff g) 0
  else if 0x1000 ≤ o ∧ o < 0x1FFC then
    let n := (o - 0x1000) / 4
    if srcReserved n then 0 else (s.src n).word
  else 0

/-- FLT_SITE_BAD (Table 15.8). -/
def State.siteBad (s : State) : Word64 :=
  (List.finRange 40).foldl (fun v n => setBit v n.val (s.site n).bad) 0

/-- FLT_SITE_SPARE (Table 15.8). -/
def State.siteSpare (s : State) : Word64 :=
  (List.finRange 40).foldl (fun v n => setBit v n.val (s.isSpare n)) 0

/-- The FLT block, beyond its pairs (Tables 15.8, 15.9). -/
def State.readFlt (s : State) (o : Nat) : Word32 :=
  let f := s.flt
  if o = 0x0000 then
    bitAt (!f.jobs.isEmpty) 31 ||| bitAt f.runnerB 30 |||
    fieldAt (BitVec.ofNat 6 (popCount s.siteSpare)) 24 ||| fieldAt f.recoveries 8 |||
    fieldAt f.failedJobs 0
  else if o = 0x0004 then fieldAt f.overflow 16 ||| fieldAt (BitVec.ofNat 10 s.unread) 0
  else 0

/-! ### The window (Table 18.1) -/

/-- A register answers an access (R473): outside READY only ID, SEC, FUSE, HST_STATUS and HST_RESET do. DEDUCED, log entry 72. -/
def State.answers (s : State) (o : Nat) : Bool :=
  s.host.ready || decide (o < 0x10000) || (decide (0xC00000 ≤ o) && decide (o < 0xE00000)) ||
  decide (o = 0x10000) || decide (o = 0x1000C)

/-- A pair of a CORE block by its _LO offset (R85, R119, R159). -/
def State.corePair (s : State) (n : SiteNo) (o : Nat) : Option Word64 :=
  let c := s.site n
  let down := s.coreDown n
  let hide := s.confidential
  let blank (v : Word64) : Word64 := if down || hide then 0 else v
  if o = 0x0010 then some c.mirror
  else if o = 0x0018 then some (blank c.cycle)
  else if o = 0x0020 then some (blank c.slip)
  else if 0x8000 ≤ o ∧ o < 0xC000 then
    let g := c.eng (engAt o)
    if o % 4096 = 0x10 then some (blank g.issued)
    else if o % 4096 = 0x18 then some (blank (g.busyAt c.cycle))
    else none
  else none

/-- The 64-bit value of the pair whose _LO register stands at an offset; none where no pair stands
(R11). -/
def State.pair (s : State) (o : Nat) : Option Word64 :=
  if o = 0x0010 then some s.id.serial
  else if 0x11000 ≤ o ∧ o < 0x15000 then
    let g := s.ring (ringAt (o - 0x10000))
    if o % 64 = 0x00 then some g.sqBase
    else if o % 64 = 0x08 then some g.cqBase
    else if o % 64 = 0x10 then some g.msgAddr
    else none
  else if 0x100000 ≤ o ∧ o < 0x380000 then s.corePair (coreAt o) (o % 65536)
  else if o = 0x800010 then some s.tb
  else if 0x901000 ≤ o ∧ o < 0x901600 ∧ o % 32 = 0x0C then
    let d : DomainNo := ⟨(o - 0x901000) / 32 % 48, by omega⟩
    some (if s.telRedacted d then 0 else (s.dom d).telTs)
  else if o = 0xA00018 ∨ o = 0xA00028 ∨ o = 0xA00038 then
    some (tget (fun _ => 0) s.ic.stamps ((o - 0xA00018) / 16))
  else if o = 0xB00010 then some s.siteBad
  else if o = 0xB00018 then some s.siteSpare
  else if o = 0xD00008 then some (if s.fusesRead then s.fuses.siteGood.setWidth 64 else 0)
  else none

/-- A single register of the window; 0 at an unassigned offset (R14, R471). -/
def State.single (s : State) (o : Nat) : Word32 :=
  if o < 0x10000 then s.readId o
  else if o < 0x100000 then s.readHst (o - 0x10000)
  else if o < 0x380000 then s.readCore (coreAt o) (o % 65536)
  else if o < 0x400000 then 0
  else if o < 0x500000 then s.readFab (o - 0x400000)
  else if o < 0x600000 then s.readMem (o - 0x500000)
  else if o < 0x618000 then s.readLink ⟨(o - 0x600000) / 1024 % 96, by omega⟩ (o % 1024)
  else if o < 0x700000 then 0
  else if o < 0x800000 then s.readBell (o - 0x700000)
  else if o < 0x900000 then s.readClk (o - 0x800000)
  else if o < 0xA00000 then s.readPwr (o - 0x900000)
  else if o < 0xB00000 then s.readIc (o - 0xA00000)
  else if o < 0xC00000 then s.readFlt (o - 0xB00000)
  else if o < 0xD00000 then s.readSec (o - 0xC00000)
  else if o < 0xE00000 then s.readFuse (o - 0xD00000)
  else 0

/-- What the register at an offset reads, without the shadow of R11 (R11, R14, R472, R473). -/
def State.reads (s : State) (o : Nat) : Word32 :=
  if o % 4 ≠ 0 ∨ s.answers o = false then 0
  else
    match s.pair o with
    | some v => lo32 v
    | none =>
      match s.pair (o - 4) with
      | some v => if 4 ≤ o then hi32 v else s.single o
      | none => s.single o

end Sys2Proof.Machine
end

