-- ==== Sys2Proof/Machine/Classes.lean ====
section
/-!
DEFINITION. Machine/Classes.lean: the command classes of descriptors (11_host_interface.md, 11.4 and
11.5), except the hamlet classes.
-/

namespace Sys2Proof.Machine

/-! ### What every class does (R320, R322 to R324) -/

/-- Bits of word i that a class names, by a list of words and masks. -/
def maskOf (m : List (Nat × Word32)) (i : Nat) : Word32 :=
  (m.find? fun p => decide (p.1 = i)).elim 0 fun p => p.2

/-- Every bit that a class does not name is 0 (R322). -/
def Desc.fits (d : Desc) (m : List (Nat × Word32)) : Bool :=
  (List.range 30).all fun i => decide (wordAt d.words (i + 2) &&& ~~~(maskOf m (i + 2)) = 0)

/-- The words of a mask all of whose bits are named. -/
def wholeWords (l : List Nat) : List (Nat × Word32) := l.map fun i => (i, BitVec.allOnes 32)

/-- The low byte of word 2: BCLASS of BELL_OP, QTYPE of QUERY (R327). -/
def Desc.sub (d : Desc) : Nat := ((wordAt d.words 2).extractLsb' 0 8).toNat

/-- A command of a class starts: it is the next of its SQ to start, its deadline has not ended, and its
hamlet is in no transition. A descriptor that fails a check of its fields completes with INVALID (R320,
R322, R330). DEDUCED, log entry 42; DEDUCED, log entry 43. -/
def State.runClass (s : State) (id : Nat) (cls : BitVec 8) (mine : Desc → Bool)
    (valid : Desc → Bool) (body : Desc → State) : Host.Outcome State Fault Refusal :=
  match s.desc id with
  | none => .next s
  | some d =>
    if d.cls ≠ cls ∨ mine d = false ∨ s.mayStart d = false ∨
       windowOver d.fetched d.deadline s.tb = true ∨ s.hamletResetting (s.scopeOf d) = true then .next s
    else if valid d = false then .next (s.setReady id 1 0 0)
    else .next (body d)

/-- A completion with a status alone. -/
def State.done (s : State) (d : Desc) (status : BitVec 7) : State := s.setReady d.id status 0 0

/-- A completion with TRANSFER and a Table 7.5 or 9.8 status. -/
def State.doneTransfer (s : State) (d : Desc) (st : BitVec 4) : State :=
  s.setReady d.id 8 (transferDetail st) 0

/-! ### Who owns what, and what a creation has reserved (R324, R442) -/

/-- The hamlet that owns a logical core. -/
def State.coreOwner (s : State) (lc : LCoreNo) : Option HamletNo :=
  (List.finRange 8).find? fun h => (s.hamlet h).exists_ && (s.hamlet h).cores.getLsbD lc.val

/-- A creation in progress has reserved a link. -/
def State.linkHeld (s : State) (l : LinkNo) : Bool := s.reservedBy fun h => h.links.getLsbD l.val

/-- The logical cores of a mask. -/
def coresOfMask (m : Word32) : List LCoreNo := (List.finRange 32).filter fun lc => m.getLsbD lc.val

/-- CORES of a LAUNCH (Table 11.5). -/
def Desc.cores (d : Desc) : List LCoreNo := coresOfMask (wordAt d.words 2)

/-- A LAUNCH that has started and not completed names a logical core (R325, R326). DEDUCED, log entry 44. -/
def State.launchOn (s : State) (lc : LCoreNo) : Bool :=
  s.host.descs.any fun d => d.runs && d.cores.contains lc

/-- LAUNCHes outstanding as a descriptor sees them: those queued behind it in its own SQ are not (R320). -/
def State.launchesFor (s : State) (d : Desc) : List Desc :=
  s.host.descs.filter fun e =>
    decide (e.cls = 2) && e.ready.isNone && (decide (e.ring ≠ d.ring) || decide (e.id < d.id))

/-- A page of a range belongs to another owner (R324). -/
def State.foreignPages (s : State) (o : Option HamletNo) (ps : List Nat) : Bool :=
  ps.any fun p => decide (p < s.pageCap) && (s.page p).valid && decide ((s.page p).owner ≠ o)

/-! ### LOAD_WEIGHTS (R325, R235, R237, R251, R440) -/

/-- SRC of LOAD_WEIGHTS. -/
def Desc.lwSrc (d : Desc) : Nat := ((wordAt d.words 2).extractLsb' 8 2).toNat

/-- LCORE of LOAD_WEIGHTS. -/
def Desc.lwCore (d : Desc) : LCoreNo :=
  ⟨((wordAt d.words 2).extractLsb' 0 5).toNat, ((wordAt d.words 2).extractLsb' 0 5).isLt⟩

/-- LENGTH and GRAN_OFF of LOAD_WEIGHTS. -/
def Desc.lwLen (d : Desc) : Nat := (wordAt d.words 3).toNat

/-- GRAN_OFF of LOAD_WEIGHTS. -/
def Desc.lwOff (d : Desc) : Nat := (wordAt d.words 4).toNat

/-- STAGE_ADDR of LOAD_WEIGHTS. -/
def Desc.lwStage (d : Desc) : Nat := ((dwordAt d.words 8).extractLsb' 0 41).toNat

/-- MIRROR_PAGES of LOAD_WEIGHTS. -/
def Desc.lwPages (d : Desc) : Nat := ((wordAt d.words 10).extractLsb' 18 7).toNat

/-- MIRROR_PAGE of LOAD_WEIGHTS. -/
def Desc.lwFirst (d : Desc) : Nat := ((wordAt d.words 10).extractLsb' 0 18).toNat

/-- The fields of LOAD_WEIGHTS are in range (Table 11.4). -/
def Desc.lwValid (d : Desc) : Bool :=
  d.fits ([(2, 0x31F), (9, 0x1FF), (10, 0x1FFFFFF)] ++ wholeWords [3, 4, 6, 7, 8]) &&
  decide (d.lwSrc ≠ 3) && decide (d.lwLen % 64 = 0) && decide (d.lwOff % 64 = 0) &&
  decide (d.lwOff < 0x38000000) && decide ((dwordAt d.words 6).toNat % 64 = 0) &&
  decide (d.lwPages ≤ 112) &&
  (decide (d.lwSrc ≠ 0) || (decide (d.lwOff = 0) && decide (d.lwLen = 0) && decide (d.lwPages ≠ 0))) &&
  (decide (d.lwSrc ≠ 1) || decide (d.lwStage % 8388608 = 0))

/-- The four STAGING pages of LOAD_WEIGHTS from host memory. -/
def Desc.lwStagePages (d : Desc) : List Nat :=
  if d.lwSrc = 1 then (List.range 4).map fun i => d.lwStage / 8388608 + i else []

/-- The staging pages are VALID STAGING pages (R242, R325). -/
def State.stageOk (s : State) (d : Desc) : Bool :=
  d.lwStagePages.all fun p => decide (p < s.pageCap) && (s.page p).valid && decide ((s.page p).kind = 5)

/-- A page may lie in the new mirror range of the core on site n (R235). -/
def State.mirrorPageOk (s : State) (n : SiteNo) (p : Nat) : Bool :=
  let v := s.page p
  let m := (s.site n).mirror
  let inOld := mirrorValid m && decide (mirrorFirst m ≤ p) && decide (p < mirrorFirst m + mirrorPages m)
  decide (p < s.pageCap) && v.valid && decide (v.owner = (s.site n).hamlet) &&
  decide (v.field ≠ fieldOfSite n) &&
  (decide (v.kind = 0) || decide (v.kind = 1) || decide (v.kind = 5) || (decide (v.kind = 2) && inOld))

/-- The mirror range that LOAD_WEIGHTS writes under: first page, pages, and whether it is new. -/
def State.lwRange (s : State) (d : Desc) (n : SiteNo) : Nat × Nat :=
  if d.lwPages ≠ 0 then (d.lwFirst, d.lwPages)
  else (mirrorFirst (s.site n).mirror, mirrorPages (s.site n).mirror)

/-- The mirror conditions of LOAD_WEIGHTS hold (R235, R325). -/
def State.lwMirrorOk (s : State) (d : Desc) (n : SiteNo) : Bool :=
  let r := s.lwRange d n
  (if d.lwPages ≠ 0 then (List.range d.lwPages).all fun i => s.mirrorPageOk n (d.lwFirst + i)
   else mirrorValid (s.site n).mirror &&
     (pagesOf (r.1 * 8388608 + d.lwOff) d.lwLen).all fun p => (s.page p).valid) &&
  decide (d.lwOff + d.lwLen ≤ r.2 * 8388608)

/-- CORE_MIRROR for a range (R119). -/
def mirrorWord (first pages : Nat) : BitVec 64 :=
  (1 : BitVec 64) <<< 63 ||| (BitVec.ofNat 64 pages) <<< 48 ||| (BitVec.ofNat 64 first) <<< 23

/-- A new mirror range is adopted: the old range becomes GENERAL, the new one MIRROR (R235). DEDUCED, log entry 49. -/
def State.adoptMirror (s : State) (n : SiteNo) (first pages : Nat) : State :=
  let m := (s.site n).mirror
  let s := if mirrorValid m then
      s.modPages (mirrorFirst m) (mirrorPages m) fun p => if p.kind = 2 then { p with kind := 0 } else p
    else s
  let s := s.modPages first pages fun p => { p with kind := 2, remR := false, remW := false }
  s.modSite n fun c => { c with mirror := mirrorWord first pages, mirrorDegraded := false, mirrorGone := 0 }

/-- The granary range that a mirror covers is copied into it (R251). DEDUCED, log entry 49. -/
def State.fillMirror (s : State) (n : SiteNo) : State :=
  let m := (s.site n).mirror
  let len := mirrorPages m * 8388608
  (s.site n).gran.foldl
    (fun s c => if c.1 < len then s.ddrWrite (mirrorFirst m * 8388608 + c.1) [c.2] else s)
    (s.zeroPages (mirrorFirst m) (mirrorPages m))

/-- The services endpoint that makes a descriptor's transfers: that of the port in use by its ring (R312, R327). -/
def State.mover (s : State) (d : Desc) : Fin 64 := portRtr (s.ring d.ring).via

/-- UNREACHABLE when the mover has no route to a site (R215, Table 7.5). -/
def State.siteWay (s : State) (d : Desc) (n : Option SiteNo) : BitVec 4 :=
  match n with
  | some n => if s.reach (s.mover d) (rtrOfSite n) then 0 else 4
  | none => 4

/-- UNREACHABLE when the mover has no route to the memory that holds one of the pages. -/
def State.pagesWay (s : State) (d : Desc) (ps : List Nat) : BitVec 4 :=
  if ps.all fun p => s.reach (s.mover d) (s.memPort (s.page p).field).1 then 0 else 4

/-- Why the data of LOAD_WEIGHTS cannot be moved, a Table 7.5 status, 0 when it can: no route to the core or its
mirror, or a source that cannot be read. -/
def State.lwSource (s : State) (d : Desc) (hostData : List Byte) (o' : SourceObs) : BitVec 4 :=
  let o := s.scopeOf d
  let way := firstBad [s.siteWay d (s.siteOf d.lwCore), match s.siteOf d.lwCore with
    | some n => s.pagesWay d (pagesOf ((s.lwRange d n).1 * 8388608 + d.lwOff) d.lwLen)
    | none => 0]
  if way ≠ 0 then way
  else if d.lwSrc = 1 then
    if s.host.lost then 4
    else if s.sealed o ∧ (match o with | some h => (s.hamlet h).hostKey.isNone | none => false) = true then 1
    else if hostData.length < d.lwLen then if o'.status = 0 then 4 else o'.status
    else 0
  else if d.lwSrc = 2 then
    firstBad [s.pagesWay d (pagesOf (dwordAt d.words 6).toNat d.lwLen),
      s.rangeCode o false (dwordAt d.words 6).toNat d.lwLen, if o'.ecc = .uncorrectable then 7 else 0]
  else 0

/-- Host data passes through the STAGING pages: their two 16 MiB halves in turn (R242, R325). -/
def State.stagePut (s : State) (d : Desc) (bs : List Byte) : State :=
  (List.range ((bs.length + 16777215) / 16777216)).foldl
    (fun s i => s.ddrWrite (d.lwStage + i % 2 * 16777216) ((bs.drop (i * 16777216)).take 16777216)) s

/-- What ECC found while LOAD_WEIGHTS read GDDR7 is counted (R226). -/
def State.lwEcc (s : State) (d : Desc) (o : SourceObs) : State :=
  if d.lwSrc = 2 ∧ (s.lwSource d [] o = 0 ∨ s.lwSource d [] o = 7) then s.ddrEcc o.at_.toNat o.ecc else s

/-- LOAD_WEIGHTS writes granary and mirror, and adopts its range. -/
def State.lwWrite (s : State) (d : Desc) (n : SiteNo) (hostData : List Byte) : State :=
  let bs := if d.lwSrc = 1 then hostData.take d.lwLen else s.ddrRead (dwordAt d.words 6).toNat d.lwLen
  let s := if d.lwSrc = 1 then s.stagePut d bs else s
  let s := if d.lwPages ≠ 0 then s.adoptMirror n d.lwFirst d.lwPages else s
  if d.lwSrc = 0 then s.fillMirror n else s.granPut n d.lwOff bs

/-- LOAD_WEIGHTS once its core is known. DEDUCED, log entry 49. -/
def State.lwAt (s : State) (d : Desc) (n : SiteNo) (hostData : List Byte) (source : SourceObs) :
    State :=
  if s.launchOn d.lwCore then s
  else if s.lwMirrorOk d n = false ∨ s.stageOk d = false then s.done d 1
  else
    let st := s.lwSource d hostData source
    let s := s.lwEcc d source
    if st = 0 then (s.lwWrite d n hostData).done d 0
    else
      let s := if st = 7 ∧ d.lwSrc = 1 then
          s.hostAuthFail (s.scopeOf d)
            (dwordAt d.words 6 + BitVec.ofNat 64 (hostData.length / 4096 * 4160))
        else s
      s.doneTransfer d st

/-- LOAD_WEIGHTS (R325). -/
def execLoadWeights (id : Nat) (hostData : List Byte) (source : SourceObs) (s : State) :
    Host.Outcome State Fault Refusal :=
  s.runClass id 1 (fun _ => true) Desc.lwValid fun d =>
    let o := s.scopeOf d
    let src := if d.lwSrc = 2 then pagesOf (dwordAt d.words 6).toNat d.lwLen else []
    let new := if d.lwPages ≠ 0 then (List.range d.lwPages).map fun i => d.lwFirst + i else []
    if s.coreHeld d.lwCore ∨ (src ++ new ++ d.lwStagePages).any s.pageHeld = true then s
    else if s.coreOwner d.lwCore ≠ o ∨ s.foreignPages o (src ++ d.lwStagePages) = true then s.done d 3
    else
      match s.siteOf d.lwCore with
      | none => s.done d 4
      | some n => s.lwAt d n hostData source

/-! ### LAUNCH (R326, R86, R156) -/

/-- The fields of LAUNCH are in range (Table 11.5, R326). -/
def Desc.launchValid (d : Desc) : Bool :=
  d.fits ([(3, 0x3FFFFF), (6, 0x1FFFF), (10, 0x3FFFFFF), (11, 0x3FFFFFF), (12, 0xFFFF)] ++
          wholeWords [2, 4, 5, 7, 8, 9]) &&
  decide (1 ≤ d.bundles) && decide (d.bundles ≤ 65536) && decide ((dwordAt d.words 4).toNat % 64 = 0) &&
  decide (watchdogTicks ((wordAt d.words 12).extractLsb' 0 16) < d.deadline)

/-- Why the image cannot be moved, a Table 7.5 status, 0 when it can: no route to a core, or an image that cannot
be read. -/
def State.launchSource (s : State) (d : Desc) (image : List Word64) : BitVec 4 :=
  let way := firstBad ((s.sitesOf (wordAt d.words 2)).map fun n => s.siteWay d (some n))
  if way ≠ 0 then way
  else if d.imageInDdr then
    firstBad [s.pagesWay d (pagesOf (dwordAt d.words 4).toNat (64 * d.bundles)),
      s.rangeCode (s.scopeOf d) false (dwordAt d.words 4).toNat (64 * d.bundles)]
  else if s.host.lost ∨ image.length < 8 * d.bundles then 4
  else 0

/-- What the descriptor gives each of its cores. -/
def Desc.info (d : Desc) (now : Word64) : LaunchInfo :=
  { desc := d.id, job := d.job, watchdog := (wordAt d.words 12).extractLsb' 0 16, tallyEn := d.tallyEn,
    enterArrive := (wordAt d.words 10).extractLsb' 0 13, enterRelease := (wordAt d.words 10).extractLsb' 13 13,
    commitArrive := (wordAt d.words 11).extractLsb' 0 13,
    commitRelease := (wordAt d.words 11).extractLsb' 13 13, lastDispatch := now }

/-- A core starts a LAUNCH: program store loaded, reset but for V0 to V31, S1 takes ARG, dispatch at
ENTRY (R326). -/
def State.launchCore (s : State) (d : Desc) (image : List Word64) (n : SiteNo) : State :=
  let w := wordAt d.words 3
  (s.coreReset n true false).modSite n fun c =>
    let c := (c.loadImage image).setS 1 (dwordAt d.words 8)
    { c.wake with pc := w.extractLsb' 0 16, seq := .running, sref := none,
                  hint := if w.getLsbD 20 then some (w.extractLsb' 17 3) else none,
                  launch := some (d.info s.tb) }

/-- A LAUNCH wakes the retained cores of its hamlet (Table 4.11). -/
def State.wakeScope (s : State) (o : Option HamletNo) : State :=
  s.modSites ((List.finRange 40).filter fun n =>
    (s.site n).bound.isSome && decide ((s.site n).hamlet = o) && decide ((s.site n).pwr = .retain))
    Site.wake

/-- LAUNCH on sites that are ready for it. -/
def State.launchNow (s : State) (d : Desc) (image : List Word64) : State :=
  let img := s.launchImage d image
  let ns := s.sitesOf (wordAt d.words 2)
  let s := s.modDesc d.id fun d => { d with started := true, left := d.cores, image := img }
  let s := (ns.foldl (fun s n => s.launchCore d img n) s).wakeScope (s.scopeOf d)
  s.launchDone d.id

/-- Sites that can take a LAUNCH: not off and in no power transition (Table 4.11). DEDUCED, log entry 44. -/
def Site.launchable (c : Site) : Bool :=
  decide (c.pwr ≠ .off) && decide (c.pwr ≠ .inTransition)

/-- LAUNCH (R326). DEDUCED, log entry 42; DEDUCED, log entry 44. -/
def execLaunch (id : Nat) (image : List Word64) (s : State) : Host.Outcome State Fault Refusal :=
  s.runClass id 2 (fun _ => true) Desc.launchValid fun d =>
    let o := s.scopeOf d
    let ps := if d.imageInDdr then pagesOf (dwordAt d.words 4).toNat (64 * d.bundles) else []
    if d.cores.any s.coreHeld ∨ ps.any s.pageHeld = true ∨
       (d.tallyBells.any fun b => s.bellHeld b.toNat) = true then s
    else if (d.cores.any fun lc => decide (s.coreOwner lc ≠ o)) ∨ s.foreignPages o ps = true ∨
       (d.tallyBells.any fun b => decide ((s.bell (bellNo b)).owner ≠ o)) = true then s.done d 3
    else if d.cores.any fun lc => (s.siteOf lc).isNone then s.done d 4
    else if (d.cores.any s.launchOn) = true ∨
       ((s.sitesOf (wordAt d.words 2)).all fun n => (s.site n).launchable) = false then s
    else
      let st := s.launchSource d image
      if st = 0 then s.launchNow d image else s.doneTransfer d st

/-! ### COPY (R327) -/

/-- SRC_KIND and DST_KIND of COPY. -/
def Desc.cpKind (d : Desc) (dst : Bool) : BitVec 4 := (wordAt d.words 2).extractLsb' (if dst then 4 else 0) 4

/-- SRC_LCORE or DST_LCORE of COPY. -/
def Desc.cpCore (d : Desc) (dst : Bool) : LCoreNo :=
  ⟨((wordAt d.words 2).extractLsb' (if dst then 13 else 8) 5).toNat,
   ((wordAt d.words 2).extractLsb' (if dst then 13 else 8) 5).isLt⟩

/-- SRC_ADDR or DST_ADDR of COPY. -/
def Desc.cpAddr (d : Desc) (dst : Bool) : Nat := (dwordAt d.words (if dst then 8 else 6)).toNat

/-- LENGTH of COPY. -/
def Desc.cpLen (d : Desc) : Nat := (dwordAt d.words 4).toNat

/-- The fields of COPY are in range. -/
def Desc.cpValid (d : Desc) : Bool :=
  let ok (k : BitVec 4) : Bool := decide (k = 3) || decide (k = 4) || decide (k = 6)
  d.fits ([(2, 0x3FFFF)] ++ wholeWords [4, 5, 6, 7, 8, 9]) && ok (d.cpKind false) && ok (d.cpKind true) &&
  decide (d.cpLen % 64 = 0) && decide (d.cpLen < 2 ^ 40)

/-- Status of one end of a segment of COPY. -/
def State.cpCode (s : State) (d : Desc) (dst : Bool) (off len avail : Nat) : BitVec 4 :=
  let o := s.scopeOf d
  match (d.cpKind dst).toNat with
  | 3 => firstBad [s.pagesWay d (pagesOf (d.cpAddr dst + off) len), s.rangeCode o dst (d.cpAddr dst + off) len]
  | 4 => firstBad [s.siteWay d (s.siteOf (d.cpCore dst)), s.lcoreCode o (d.cpCore dst) (d.cpAddr dst + off) len]
  | _ =>
    if s.host.lost then 4
    else if s.sealed o ∧ (match o with | some h => (s.hamlet h).hostKey.isNone | none => false) = true then 1
    else if dst = false ∧ avail < off + len then 4
    else 0

/-- Bytes of a segment. -/
def State.cpRead (s : State) (d : Desc) (hostData : List Byte) (off len : Nat) : List Byte :=
  match (d.cpKind false).toNat with
  | 3 => s.ddrRead (d.cpAddr false + off) len
  | 4 => (match s.siteOf (d.cpCore false) with
    | some n => (s.site n).wsRead (d.cpAddr false + off) len
    | none => [])
  | _ => (hostData.drop off).take len

/-- Bytes of a segment are written. -/
def State.cpWrite (s : State) (d : Desc) (off : Nat) (bs : List Byte) : State :=
  let o := s.scopeOf d
  match (d.cpKind true).toNat with
  | 3 => s.ddrWrite (d.cpAddr true + off) bs
  | 4 => (match s.siteOf (d.cpCore true) with
    | some n => s.modSite n fun c => c.wsWrite (d.cpAddr true + off) bs
    | none => s)
  | _ => s.hostPut o d.ring
      (BitVec.ofNat 64 (d.cpAddr true + if s.sealed o then off / 4096 * 4160 else off)) bs

/-- DETAIL of a segment that the operand says fails: its Table 4.9 and Table 7.5 codes. -/
def segDetail (x : BitVec 8) : Word32 := x.setWidth 32

/-- Segments of COPY from number i on, each of at most 16 MiB; the first that fails ends the command with
TRANSFER (R327); a block that fails its check is the one after the data that the row brings (R440). The code 0 at a segment says that the deadline comes before that segment starts: the COPY stops
at that boundary, and DEADLINE_EXPIRY completes it (R330). DEDUCED, log entry 43. -/
def State.cpSegments (s : State) (d : Desc) (hostData : List Byte) (fail : Option (Nat × BitVec 8)) :
    Nat → Nat → State
  | 0, _ => s.done d 0
  | k + 1, i =>
    let off := i * 16777216
    if d.cpLen ≤ off then s.done d 0
    else
      let len := min 16777216 (d.cpLen - off)
      let said : Option (BitVec 8) := match fail with
        | some f => if f.1 = i then some f.2 else none
        | none => none
      let avail := if said.isSome then max hostData.length (off + len) else hostData.length
      let st := firstBad [s.cpCode d false off len avail, s.cpCode d true off len avail]
      if said = some 0 then s.modDesc d.id fun d => { d with started := true }
      else if st ≠ 0 then s.doneTransfer d st
      else
        match said with
        | some x =>
          let s := if x.extractLsb' 0 4 = 6 ∧ d.cpKind false = 6 then
              s.hostAuthFail (s.scopeOf d)
                (BitVec.ofNat 64 (d.cpAddr false + max off (min hostData.length (off + len - 1)) / 4096 * 4160))
            else s
          s.setReady d.id 8 (segDetail x) 0
        | none => (s.cpWrite d off (s.cpRead d hostData off len)).cpSegments d hostData fail k (i + 1)

/-- Pages a COPY names. -/
def Desc.cpPages (d : Desc) : List Nat :=
  (if d.cpKind false = 3 then pagesOf (d.cpAddr false) d.cpLen else []) ++
  (if d.cpKind true = 3 then pagesOf (d.cpAddr true) d.cpLen else [])

/-- Logical cores a COPY names. -/
def Desc.cpCores (d : Desc) : List LCoreNo :=
  (if d.cpKind false = 4 then [d.cpCore false] else []) ++ (if d.cpKind true = 4 then [d.cpCore true] else [])

/-- COPY (R327). DEDUCED, log entry 42. -/
def execCopy (id : Nat) (hostData : List Byte) (segmentFail : Option (Nat × BitVec 8)) (s : State) :
    Host.Outcome State Fault Refusal :=
  s.runClass id 3 (fun _ => true) Desc.cpValid fun d =>
    let o := s.scopeOf d
    if d.cpCores.any s.coreHeld ∨ d.cpPages.any s.pageHeld = true then s
    else if (d.cpCores.any fun lc => decide (s.coreOwner lc ≠ o)) ∨ s.foreignPages o d.cpPages = true then
      s.done d 3
    else if d.cpCores.any fun lc => (s.siteOf lc).isNone then s.done d 4
    else s.cpSegments d hostData segmentFail (d.cpLen / 16777216 + 1) 0

/-! ### TALLY (R327, R302) -/

/-- OP of TALLY. -/
def Desc.tallyOp (d : Desc) : Nat := ((wordAt d.words 2).extractLsb' 0 2).toNat

/-- The fields of TALLY are in range; OP 3 is reserved. DEDUCED, log entry 45. -/
def Desc.tallyValid (d : Desc) : Bool :=
  d.fits ([(2, 0x3)] ++ wholeWords [4, 5, 6, 7]) && decide (d.tallyOp ≠ 3)

/-- A descriptor is one of TALLY's operation k, or names the reserved operation. -/
def Desc.isTally (k : Nat) (d : Desc) : Bool := decide (d.tallyOp = k) || decide (d.tallyOp = 3)

/-- TALLY INFO (R327). -/
def execTallyInfo (id : Nat) (s : State) : Host.Outcome State Fault Refusal :=
  s.runClass id 4 (Desc.isTally 0) Desc.tallyValid fun d =>
    match s.lastTally (s.scopeOf d) with
    | some b => s.setReady d.id 0 0 (b.num.setWidth 64 ||| 0x100000000)
    | none => s.setReady d.id 0 0 0

/-- Why a scope's host transfer is refused, a Table 7.5 status, 0 when it is not (R333, R440). -/
def State.hostRefusal (s : State) (o : Option HamletNo) : BitVec 4 :=
  if s.host.lost then 4
  else if s.sealed o ∧ (match o with | some h => (s.hamlet h).hostKey.isNone | none => false) = true then 1
  else 0

/-- TALLY EXPORT (R327). With no complete tally there is nothing to write: INVALID. DESIGN CHOICE, log entry 6; DEDUCED, log entry 46. -/
def execTallyExport (id : Nat) (s : State) : Host.Outcome State Fault Refusal :=
  s.runClass id 4 (fun d => decide (d.tallyOp = 1)) Desc.tallyValid fun d =>
    let o := s.scopeOf d
    match s.lastTally o with
    | none => s.done d 1
    | some b =>
      let img := Config.tallyImage b
      if (dwordAt d.words 6).toNat < img.length then
        s.setReady d.id 1 (BitVec.ofNat 32 ((img.length + 1048575) / 1048576)) 0
      else if s.hostRefusal o ≠ 0 then s.doneTransfer d (s.hostRefusal o)
      else (s.hostPut o d.ring (dwordAt d.words 4) img).setReady d.id 0 0 (BitVec.ofNat 64 img.length)

/-- Bytes that a scope's buffer pages of a kind hold (R240). -/
def State.bufBytes (s : State) (o : Option HamletNo) (kind : BitVec 3) : Nat :=
  8388608 * (s.mem.pages.filter fun e => decide (e.2.kind = kind) && decide (e.2.owner = o)).length

/-- The buffer that does not hold the scope's last complete tally (R327). -/
def State.otherBuf (s : State) (o : Option HamletNo) : Bool :=
  let t := s.tallyOf o
  if s.bufGood o t.lastB then !t.lastB
  else if s.bufGood o (!t.lastB) then t.lastB
  else false

/-- TALLY IMPORT (R327, R302). DESIGN CHOICE, log entry 6; DEDUCED, log entry 46. -/
def execTallyImport (id : Nat) (image : List Byte) (s : State) : Host.Outcome State Fault Refusal :=
  s.runClass id 4 (fun d => decide (d.tallyOp = 2)) Desc.tallyValid fun d =>
    let o := s.scopeOf d
    let len := (dwordAt d.words 6).toNat
    if (s.launchesFor d).any fun e => decide (s.scopeOf e = o) then s.done d 2
    else if s.hostRefusal o ≠ 0 then s.doneTransfer d (s.hostRefusal o)
    else if image.length < len then s.doneTransfer d 4
    else
      match Config.tallyParse (image.take len) with
      | none => s.done d 1
      | some b =>
        let inB := s.otherBuf o
        let kind : BitVec 3 := if inB then 4 else 3
        if s.bufBytes o kind < len ∨ s.bufWhole o kind = false ∨ len = 0 then s.done d 4
        else (s.setTally o { (s.tallyOf o).setBuf inB { b with complete := true } with lastB := inB }).done d 0

/-! ### BELL_OP (R288 to R292, R327) -/

/-- INDEX of BELL_OP. -/
def Desc.index (d : Desc) : BellNo :=
  ⟨((wordAt d.words 2).extractLsb' 8 13).toNat, ((wordAt d.words 2).extractLsb' 8 13).isLt⟩

/-- REMOTE of BELL_OP. -/
def Desc.remote (d : Desc) : Bool := (wordAt d.words 2).getLsbD 21

/-- A BCLASS of R327. DEDUCED, log entry 45. -/
def bclassOk (k : Nat) : Bool :=
  decide (k ≤ 4) || decide (k = 0x10) || decide (k = 0x11) || decide (k = 0x12) || decide (k = 0x20)

/-- The words BELL_OP names. -/
def Desc.bellFits (d : Desc) : Bool :=
  d.fits ([(2, 0x3FFFFF), (3, 0xFFF)] ++ wholeWords [4, 6, 7, 8, 9, 10, 11, 12, 13, 14, 15])

/-- The reserved bits of a SET's entry image are 0 (R322, Table 10.1). -/
def Desc.imageFits (d : Desc) : Bool :=
  decide (d.sub ≠ 1) ||
  (decide ((wordAt d.words 10).extractLsb' 6 13 = 0) && decide ((wordAt d.words 12).extractLsb' 10 22 = 0) &&
   decide ((wordAt d.words 15).extractLsb' 16 16 = 0))

/-- The fields of BELL_OP are in range: only a bell operation goes to another device. DEDUCED, log entry 45. -/
def Desc.bellValid (d : Desc) : Bool :=
  d.bellFits && d.imageFits && bclassOk d.sub && (decide (d.sub ≤ 4) || !d.remote)

/-- The entry image of BELL_OP. -/
def Desc.image8 (d : Desc) : BellImg :=
  let w (i : Nat) : Word32 := wordAt d.words (8 + i)
  { count := w 0, target := w 1, w2 := w 2, cores := w 3, source := w 4, fwd := w 5, fired := w 6,
    align := w 7 }

/-- A bell operation of a descriptor: REMOTE sends it and its BELL_DATA completes it; a local one is applied and
answered once the clocks of the bell's field run (R290, R292, R324, R349). -/
def State.bellOp (s : State) (op : BitVec 8) (d : Desc) (apply : State → State) : State :=
  if (s.bellHeld d.index.val || s.fieldStopped (fieldOfBell d.index)) && !d.remote then s
  else if d.remote then
    (s.modDesc d.id fun d => { d with started := true }).sendBell (portRtr (s.ring d.ring).via, false) (.desc d.id)
      { op := op, dev := some ((wordAt d.words 3).extractLsb' 0 12), bell := BitVec.ofNat 13 d.index.val,
        amount := wordAt d.words 4, instant := 0, tag := s.scopeOf d, image := d.image8 }
  else
    let st := s.bellStatus d.index (.ring d.ring)
    if st = 1 then s.done d 3
    else if st ≠ 0 then s.bellOpEnd d.id st none
    else (apply s).bellOpEnd d.id 0 (some (s.bell d.index).image)

/-- BELL_OP ADD (R285, R327). A reserved BCLASS is refused here. -/
def execBellOpAdd (id : Nat) (s : State) : Host.Outcome State Fault Refusal :=
  s.runClass id 6 (fun d => decide (d.sub = 0) || !bclassOk d.sub) Desc.bellValid fun d =>
    s.bellOp 0 d fun s => (s.setBell d.index ((s.bell d.index).add (wordAt d.words 4))).bellRule d.index 0

/-- BELL_OP SET (R289, R327). -/
def execBellOpSet (id : Nat) (s : State) : Host.Outcome State Fault Refusal :=
  s.runClass id 6 (fun d => decide (d.sub = 1)) Desc.bellValid fun d =>
    s.bellOp 1 d fun s => (s.setBell d.index ((s.bell d.index).set d.image8)).bellRule d.index 0

/-- BELL_OP ARM (R289, R327). -/
def execBellOpArm (id : Nat) (s : State) : Host.Outcome State Fault Refusal :=
  s.runClass id 6 (fun d => decide (d.sub = 2)) Desc.bellValid fun d =>
    s.bellOp 2 d fun s => (s.setBell d.index { s.bell d.index with armed := true }).bellRule d.index 0

/-- BELL_OP DISARM (R289, R327). -/
def execBellOpDisarm (id : Nat) (s : State) : Host.Outcome State Fault Refusal :=
  s.runClass id 6 (fun d => decide (d.sub = 3)) Desc.bellValid fun d =>
    s.bellOp 3 d fun s => s.setBell d.index { s.bell d.index with armed := false, refire := false }

/-- BELL_OP READ (R289, R327): the entry goes to HOST_ADDR. -/
def execBellOpRead (id : Nat) (s : State) : Host.Outcome State Fault Refusal :=
  s.runClass id 6 (fun d => decide (d.sub = 4)) Desc.bellValid fun d => s.bellOp 4 d fun s => s

/-! ### Trees, sets and the system reset (R293, R304, R309, R327) -/

/-- The tree context that a descriptor's image spells (Table 10.4). -/
def Desc.context (d : Desc) (o : Option HamletNo) : TreeCtx :=
  let w (i : Nat) : Word32 := wordAt d.words (8 + i)
  { valid := true, owner := o, mode := (w 0).extractLsb' 25 2, root := (w 0).getLsbD 24,
    fmt := (w 0).getLsbD 23, nchild := (w 0).extractLsb' 18 5,
    home := ⟨((w 0).extractLsb' 15 3).toNat, ((w 0).extractLsb' 15 3).isLt⟩, failed := false,
    parent := (w 1).extractLsb' 20 12, uplink := (w 1).extractLsb' 0 7,
    children := w 4 ++ w 3 ++ w 2, length := w 5, doneEn := (w 6).getLsbD 13,
    doneBell := (w 6).extractLsb' 0 13, doneBytes := 0, lcore := 0 }

/-- The reserved bits of a context image are 0 and MODE is not 3 (Table 10.4). -/
def Desc.contextFits (d : Desc) : Bool :=
  let w (i : Nat) : Word32 := wordAt d.words (8 + i)
  decide ((w 0).extractLsb' 0 14 = 0) && decide ((w 0).extractLsb' 25 2 ≠ 3) &&
  decide ((w 1).extractLsb' 7 13 = 0) && decide ((w 6).extractLsb' 14 18 = 0) && decide (w 7 = 0)

/-- The links of a context: its children's, and the uplink of a device that is not the root. -/
def TreeCtx.links (t : TreeCtx) : List LinkNo :=
  ((List.finRange 96).filter fun l => t.children.getLsbD l.val) ++
  (if t.root then [] else if h : t.uplink.toNat < 96 then [⟨t.uplink.toNat, h⟩] else [])

/-- LENGTH is a multiple of 64, and of 2,112 for WPS (Table 10.4). -/
def TreeCtx.lengthOk (t : TreeCtx) : Bool :=
  decide (t.length.toNat % 64 = 0) && (t.fmt || decide (t.length.toNat % 2112 = 0))

/-- The lowest-numbered lit field. -/
def State.firstLit (s : State) : Option FieldNo := (List.finRange 8).find? fun f => !s.isDark f

/-- The conditions of R293 that are not ownership. DEDUCED, log entry 38. -/
def State.installOk (s : State) (t : TreeCtx) : Bool :=
  t.links.all (fun l => decide ((s.link l).st = .up) && s.isCabled l) &&
  (t.root || decide (t.uplink.toNat < 96)) &&
  decide (t.nchild.toNat = popCount t.children) &&
  (if t.root then decide (s.firstLit = some t.home)
   else match t.links.getLast? with
     | some l => decide (t.home = fieldOfLink l)
     | none => false)

/-- A context belongs to another owner than o. -/
def TreeCtx.foreign (t : TreeCtx) (o : Option HamletNo) : Bool := t.valid && decide (t.owner ≠ o)

/-- The fields of TREE_INSTALL are in range. -/
def Desc.installValid (d : Desc) : Bool :=
  d.bellValid && decide (d.index.val < 64) && d.contextFits && (d.context none).lengthOk

/-- BELL_TREE takes the installed tree's L, F and root, which no rule gives: a free value in its defined
bits (Table 10.8). DESIGN CHOICE, log entry 3. -/
def State.treeWritten (s : State) : State :=
  { s.drew with coll := { s.coll with tree := Config.freeWord s.free &&& 0xFFCFFF00 } }

/-- TREE_INSTALL (R293, R324). DEDUCED, log entry 38. -/
def execTreeInstall (id : Nat) (s : State) : Host.Outcome State Fault Refusal :=
  s.runClass id 6 (fun d => decide (d.sub = 0x10)) Desc.installValid fun d =>
    let o := s.scopeOf d
    let t := d.context o
    let i : Fin 64 := ⟨d.index.val % 64, by omega⟩
    if (t.links.any s.linkHeld) = true ∨ (t.doneEn && s.bellHeld t.doneBell.toNat) = true then s
    else if (s.tree i).foreign o ∨ (t.links.any fun l => decide ((s.link l).owner ≠ o)) = true ∨
       (t.doneEn && decide ((s.bell (bellNo t.doneBell)).owner ≠ o)) = true then s.done d 3
    else if s.installOk t = false then s.done d 1
    else ((s.setTree i t).treeWritten).done d 0

/-- TREE_REMOVE (R327). DEDUCED, log entry 38. -/
def execTreeRemove (id : Nat) (s : State) : Host.Outcome State Fault Refusal :=
  s.runClass id 6 (fun d => decide (d.sub = 0x11)) (fun d => d.bellValid && decide (d.index.val < 64))
    fun d =>
      let i : Fin 64 := ⟨d.index.val % 64, by omega⟩
      if (s.tree i).foreign (s.scopeOf d) then s.done d 3 else (s.setTree i {}).done d 0

/-- The set that 32 words spell (Table 10.9); none when a reserved bit is set. DEDUCED, log entry 39. -/
def msetOf (ws : List Word32) (o : Option HamletNo) : Option MSet :=
  let n := ((wordAt ws 0).extractLsb' 0 5).toNat
  if (wordAt ws 0).extractLsb' 5 27 ≠ 0 ∨
     (List.range 31).any (fun i => decide ((wordAt ws (i + 1)).extractLsb' 13 6 ≠ 0)) = true then none
  else
    some { owner := o,
           dests := (List.range n).map fun i =>
             let w := wordAt ws (i + 1)
             { dev := w.extractLsb' 20 12, remote := w.getLsbD 19, bell := w.extractLsb' 0 13 } }

/-- MSET_WRITE (R309, R327, R442): the set is read from host memory. DEDUCED, log entry 39. -/
def execMsetWrite (id : Nat) (words : List Word32) (s : State) : Host.Outcome State Fault Refusal :=
  s.runClass id 6 (fun d => decide (d.sub = 0x12)) (fun d => d.bellValid && decide (d.index.val < 64))
    fun d =>
      let o := s.scopeOf d
      let old := s.mset d.index.val
      if (o.isSome && decide (d.index.val = 63)) = true ∨ (!old.dests.isEmpty && decide (old.owner ≠ o)) = true then
        s.done d 3
      else if s.host.lost ∨ words.length < 32 then s.doneTransfer d 4
      else
        match msetOf words o with
        | none => s.done d 1
        | some m => (s.setMset d.index.val m).done d 0

/-- T0 of a system reset: the time base plus 1 µs plus 0.38 µs × L (R304). -/
def State.resetInstant (s : State) : Word64 :=
  s.tb + 1000 + 380 * (s.coll.tree.extractLsb' 28 4).setWidth 64

/-- SYSTEM_RESET (R304, R323, R327). -/
def execSystemReset (id : Nat) (s : State) : Host.Outcome State Fault Refusal :=
  s.runClass id 6 (fun d => decide (d.sub = 0x20)) Desc.bellValid fun d =>
    if (s.scopeOf d).isSome then s.done d 3
    else
      let t0 := s.resetInstant
      let s := s.sendResetAt t0 s.id.dev
      { s with coll := { s.coll with resetT0 := some t0 } }.setReady d.id 0 0 t0

/-! ### QUERY (R328, Table 11.7) -/

/-- The fields of QUERY are in range; QTYPE 5 to 255 are reserved. DEDUCED, log entry 45. -/
def Desc.queryValid (d : Desc) : Bool :=
  d.fits ([(2, if d.sub = 2 then 0x7FF else 0xFF)] ++ wholeWords [4, 5, 6, 7]) && decide (d.sub ≤ 4)

/-- LENGTH of QUERY. -/
def Desc.qLen (d : Desc) : Nat := (dwordAt d.words 6).toNat

/-- A report goes to host memory, or LENGTH is too small for it (R327). DEDUCED, log entry 47. -/
def State.writeReport (s : State) (d : Desc) (bs : List Byte) : State :=
  if d.qLen < bs.length then s.done d 1
  else if s.host.lost then s.doneTransfer d 4
  else (s.toHost d.ring (dwordAt d.words 4) bs).done d 0

/-- Bytes of the DEVICE report (Table 11.7). -/
def State.deviceReport (s : State) : List Byte :=
  leBytes 1 s.fuses.variant.toNat ++ leBytes 1 s.bound ++ leBytes 1 s.role.toNat ++
  leBytes 1 ((if s.host.degraded then 1 else 0) + (if s.confidential then 2 else 0)) ++
  leBytes 2 s.id.dev.toNat ++ leBytes 2 2 ++ [1, 1] ++ zeros 6 ++ leBytes 4 s.validPages ++
  leBytes 4 s.hamletMask.toNat ++ leBytes 8 s.tb.toNat ++ zeros 32

/-- QUERY DEVICE. A reserved QTYPE is refused here. -/
def execQueryDevice (id : Nat) (s : State) : Host.Outcome State Fault Refusal :=
  s.runClass id 7 (fun d => decide (d.sub = 0) || decide (5 ≤ d.sub)) Desc.queryValid fun d =>
    s.writeReport d s.deviceReport

/-- Two bytes of the core map for a logical core. -/
def State.coreMapEntry (s : State) (lc : LCoreNo) : List Byte :=
  leBytes 2 (match s.siteOf lc with | some n => n.val + 32768 | none => 0)

/-- QUERY CORE_MAP. -/
def execQueryCoreMap (id : Nat) (s : State) : Host.Outcome State Fault Refusal :=
  s.runClass id 7 (fun d => decide (d.sub = 1)) Desc.queryValid fun d =>
    s.writeReport d ((List.finRange 32).flatMap s.coreMapEntry)

/-- Bytes of a hamlet's report. DEDUCED, log entry 47. -/
def State.hamletReport (s : State) (h : HamletNo) : List Byte :=
  let v := s.hamlet h
  if v.exists_ then
    leBytes 4 v.cores.toNat ++ leBytes 4 (popCount v.rings) ++ leBytes 4 v.pageFirst.toNat ++
    leBytes 4 v.pageCount.toNat ++ leBytes 4 v.bellFirst.toNat ++ leBytes 4 v.bellCount.toNat ++
    leBytes 12 v.links.toNat ++
    leBytes 4 ((if v.confidential then 1 else 0) + (if v.hostEnc then 2 else 0)) ++ zeros 24
  else zeros 64

/-- QUERY HAMLET (R324): another hamlet's report is denied to a hamlet. DEDUCED, log entry 47. -/
def execQueryHamlet (id : Nat) (s : State) : Host.Outcome State Fault Refusal :=
  s.runClass id 7 (fun d => decide (d.sub = 2)) Desc.queryValid fun d =>
    let k := (wordAt d.words 2).extractLsb' 8 3
    let h : HamletNo := ⟨k.toNat, k.isLt⟩
    match s.scopeOf d with
    | some o => if o = h then s.writeReport d (s.hamletReport h) else s.done d 3
    | none => s.writeReport d (s.hamletReport h)

/-- QUERY LINKS: LNK_STATUS then LNK_PEER of each link; a link that is fused off reads as 0. -/
def State.linksReport (s : State) : List Byte :=
  (List.finRange 96).flatMap fun l =>
    leBytes 4 (s.readLink l 0).toNat ++ leBytes 4 (s.readLink l 4).toNat

/-- QUERY LINKS. -/
def execQueryLinks (id : Nat) (s : State) : Host.Outcome State Fault Refusal :=
  s.runClass id 7 (fun d => decide (d.sub = 3)) Desc.queryValid fun d => s.writeReport d s.linksReport

/-- ASCII bytes of a number below 100. -/
def ascii2 (n : Nat) : List Byte := [BitVec.ofNat 8 (48 + n / 10), BitVec.ofNat 8 (48 + n % 10)]

/-- Bytes of a GUID from its text order: the first three groups are little-endian (UEFI). PRESUMED, log entry 48. -/
def guid (a b c d e : Nat) : List Byte :=
  leBytes 4 a ++ leBytes 2 b ++ leBytes 2 c ++ (leBytes 2 d).reverse ++ (leBytes 6 e).reverse

/-- Record header of 128 B (Table 6.3, the UEFI layout). PRESUMED, log entry 48. -/
def FaultRec.header (r : FaultRec) (platform : BitVec 128) : List Byte :=
  [0x43, 0x50, 0x45, 0x52] ++ leBytes 2 0x0101 ++ leBytes 4 0xFFFFFFFF ++ leBytes 2 1 ++
  leBytes 4 r.severity.toNat ++ leBytes 4 1 ++ leBytes 4 328 ++ zeros 8 ++ leBytes 16 platform.toNat ++
  zeros 16 ++ guid 0x3f6e0b52 0x91c4 0x4d7a 0xb805 0x2c9e7d41a6f3 ++
  guid 0x7a1d4c90 0x5e23 0x4b8f 0xa6d1 0x0f93c28e5b47 ++ leBytes 8 r.id.toNat ++ zeros 24

/-- FRU Text: site and engine, for example "C27 E1" (Table 6.3). -/
def FaultRec.fru (r : FaultRec) : List Byte :=
  [0x43] ++ ascii2 r.site.toNat ++ [0x20, 0x45, BitVec.ofNat 8 (48 + r.engine.toNat)] ++ zeros 14

/-- Section descriptor of 72 B (Table 6.3, the UEFI layout). PRESUMED, log entry 48. -/
def FaultRec.section_ (r : FaultRec) : List Byte :=
  leBytes 4 200 ++ leBytes 4 128 ++ leBytes 2 0x0100 ++ zeros 2 ++ leBytes 4 1 ++
  guid 0xc24e8f17 0x6b3a 0x4e0d 0x9f52 0xa81d37c6e904 ++ zeros 16 ++ leBytes 4 r.severity.toNat ++ r.fru

/-- An optional number as a Nat, 0 for none. -/
def optNat {w : Nat} (v : Option (BitVec w)) : Nat := v.elim 0 BitVec.toNat

/-- Vendor section of 128 B (Table 6.4). -/
def FaultRec.vendor (r : FaultRec) : List Byte :=
  let bit (b : Bool) (n : Nat) : Nat := if b then 2 ^ n else 0
  let rows := if 255 < r.rowFails.toNat then 255 else r.rowFails.toNat
  leBytes 2 1 ++ leBytes 2 128 ++
  leBytes 4 (r.cls.toNat + r.outcome.toNat * 2 ^ 16 + bit r.redacted 24) ++
  leBytes 8 r.time.toNat ++ leBytes 4 r.powered.toNat ++
  leBytes 4 (r.dev.toNat + (match r.hamlet with | some h => h.val * 2 ^ 12 + 2 ^ 15 | none => 0) +
    r.role.toNat * 2 ^ 16) ++
  leBytes 4 (r.site.toNat + (match r.lcore with | some c => c.val * 2 ^ 8 + 2 ^ 13 | none => 0) +
    r.engine.toNat * 2 ^ 14 + (match r.replay with | some e => e.toNat * 2 ^ 16 + 2 ^ 18 | none => 0)) ++
  leBytes 4 r.job.toNat ++
  leBytes 4 (r.bundle.toNat + r.slot.toNat * 2 ^ 16 + r.pair.toNat * 2 ^ 19 + bit r.sparse 23 +
    r.dest.toNat * 2 ^ 24 + r.cap.toNat * 2 ^ 27) ++
  leBytes 4 (r.m1.toNat + r.anchor.toNat * 2 ^ 16) ++
  leBytes 4 (r.rowFails.toNat + r.colFails.toNat * 2 ^ 16) ++
  leBytes 4 (optNat r.firstRow + optNat r.firstCol * 2 ^ 13 + bit r.firstRow.isSome 21 +
    bit r.firstCol.isSome 22) ++
  leBytes 8 r.deltaLo.toNat ++ leBytes 8 r.deltaRes.toNat ++ leBytes 8 r.replayLo.toNat ++
  leBytes 8 r.replayRes.toNat ++ leBytes 4 r.tolerance.toNat ++ leBytes 4 r.weightCrc.toNat ++
  leBytes 4 r.actCrc.toNat ++
  leBytes 4 (r.engFaults.toNat + r.chkFaults.toNat * 4 + r.rowSpares.toNat * 16 + r.colSpares.toNat * 64 +
    bit r.suspect 8 + bit r.retired 9) ++
  leBytes 4 r.detail.toNat ++ leBytes 4 r.count.toNat ++ leBytes 8 r.addr.toNat ++
  leBytes 8 (rows + r.outcome.toNat * 2 ^ 8 + r.cls.toNat * 2 ^ 16 + r.sigCols.toNat * 2 ^ 32) ++ zeros 8

/-- The 328 B of a fault record. PRESUMED, log entry 48. -/
def FaultRec.bytes (r : FaultRec) (platform : BitVec 128) : List Byte :=
  r.header platform ++ r.section_ ++ r.vendor

/-- Records that a scope has not read, oldest first (R423). -/
def State.unreadBy (s : State) (o : Option HamletNo) : List FaultRec :=
  let pos := tget (fun _ => 0) s.flt.readPos (scopeKey o)
  s.flt.buf.filter fun r =>
    decide (pos ≤ r.id) &&
    (match o with
     | some h => decide (r.hamlet = some h)
     | none => true)

/-- QUERY FAULT_RECORDS (R423): as many whole records as fit; the scope's position passes them. -/
def execQueryFaultRecords (id : Nat) (s : State) : Host.Outcome State Fault Refusal :=
  s.runClass id 7 (fun d => decide (d.sub = 4)) Desc.queryValid fun d =>
    let o := s.scopeOf d
    let l := (s.unreadBy o).take (d.qLen / 328)
    if d.qLen < 328 then s.done d 1
    else if s.host.lost then s.doneTransfer d 4
    else
      let s := if l.isEmpty then s
        else s.toHost d.ring (dwordAt d.words 4) (l.flatMap fun r => r.bytes s.fuses.platform)
      let pos := match l.getLast? with
        | some r => r.id + 1
        | none => tget (fun _ => 0) s.flt.readPos (scopeKey o)
      { s with flt := { s.flt with
          readPos := tset (fun _ => 0) s.flt.readPos (scopeKey o) pos } }.setReady d.id 0 0
        (BitVec.ofNat 64 l.length)

/-! ### ROLE_SET and PAGE_SET (R28, R29, R241, R327) -/

/-- The device is idle as a ROLE_SET sees it (R28). -/
def State.idleFor (s : State) (d : Desc) : Bool :=
  (s.launchesFor d).isEmpty &&
  ((List.finRange 40).all fun n => (List.finRange 4).all fun q =>
    decide (((s.site n).queue q).depth = 0)) &&
  !(s.fab.txns.any fun x => match x.use with | .remote _ _ => true | _ => false) &&
  scopes.all fun o => (s.tallyOf o).taking.isNone

/-- ROLE_SET (R28, R29, R323). -/
def execRoleSet (id : Nat) (s : State) : Host.Outcome State Fault Refusal :=
  s.runClass id 8 (fun _ => true) (fun d => d.fits [(2, 0x3)]) fun d =>
    if (s.scopeOf d).isSome then s.done d 3
    else if s.idleFor d = false then s.done d 2
    else { s with role := (wordAt d.words 2).extractLsb' 0 2 }.done d 0

/-- PAGE_FIRST and PAGE_COUNT of PAGE_SET as a list of pages. -/
def Desc.psPages (d : Desc) : List Nat :=
  (List.range ((wordAt d.words 3).extractLsb' 0 18).toNat).map fun i =>
    ((wordAt d.words 2).extractLsb' 0 18).toNat + i

/-- KIND of PAGE_SET. -/
def Desc.psKind (d : Desc) : BitVec 3 := (wordAt d.words 4).extractLsb' 0 3

/-- A kind is a tally kind. -/
def tallyKind (k : BitVec 3) : Bool := decide (k = 3) || decide (k = 4)

/-- Pages of PAGE_SET that hold a tally kind. -/
def State.psTally (s : State) (d : Desc) : List Nat := d.psPages.filter fun p => tallyKind (s.page p).kind

/-- The rules of R241 hold of a PAGE_SET that names or holds a tally kind. -/
def State.psTallyOk (s : State) (d : Desc) : Bool :=
  let k := d.psKind
  (d.psPages.all fun p =>
    let v := s.page p
    v.valid && v.owner.isNone && decide (v.kind ≠ 2) &&
    (decide (k ≠ 3) || isWest v.field) && (decide (k ≠ 4) || !isWest v.field)) &&
  (!tallyKind k || decide ((wordAt d.words 4).extractLsb' 3 2 = 0))

/-- PAGE_SET completes with INVALID (R241, R327). -/
def State.psInvalid (s : State) (d : Desc) (o : Option HamletNo) : Bool :=
  let k := d.psKind
  let first := ((wordAt d.words 2).extractLsb' 0 18).toNat
  let touches := tallyKind k || !(s.psTally d).isEmpty
  decide (k = 2) || decide (6 ≤ k.toNat) || (o.isSome && touches) ||
  decide (s.pageCap < first + d.psPages.length) ||
  (d.psPages.any fun p => decide ((s.page p).kind = 2)) ||
  (touches && !s.psTallyOk d)

/-- Pages of PAGE_SET whose kind changes from or to a tally kind (R241). -/
def State.psMoves (s : State) (d : Desc) : List Nat :=
  d.psPages.filter fun p =>
    decide ((s.page p).kind ≠ d.psKind) && (tallyKind (s.page p).kind || tallyKind d.psKind)

/-- PAGE_SET sets the VALID pages of its range (R233, R241, R327). -/
def State.psWrite (s : State) (d : Desc) : State :=
  let k := d.psKind
  let w := wordAt d.words 4
  let ps := d.psPages.filter fun p => (s.page p).valid
  let made := if tallyKind k then s.psMoves d else []
  let leaves := (s.psTally d).any fun p => decide ((s.page p).kind ≠ k)
  let s := ps.foldl
    (fun s p => s.modPage p fun v => { v with kind := k, remR := w.getLsbD 3, remW := w.getLsbD 4 }) s
  let s := made.foldl (fun s p => s.zeroPages p 1) s
  let s := if leaves then s.setTally none { s.tallyOf none with a := {}, b := {}, lastB := false } else s
  s.setReady d.id 0 0 (BitVec.ofNat 64 ps.length)

/-- PAGE_SET (R241, R327). -/
def execPageSet (id : Nat) (s : State) : Host.Outcome State Fault Refusal :=
  s.runClass id 0xC (fun _ => true) (fun d => d.fits [(2, 0x3FFFF), (3, 0x3FFFF), (4, 0x1F)]) fun d =>
    let o := s.scopeOf d
    if d.psPages.any s.pageHeld then s
    else if s.psInvalid d o then s.done d 1
    else if s.foreignPages o d.psPages then s.done d 3
    else if !(s.psMoves d).isEmpty &&
       (s.launchesFor d).any (fun e => e.tallyEn && decide (s.scopeOf e = none)) then s.done d 2
    else s.psWrite d

/-! ### ABORT and deadlines (R327, R330, R419) -/

/-- ABORT (R327): every outstanding LAUNCH of the job in the ring's scope is ended and counted. -/
def execAbort (id : Nat) (s : State) : Host.Outcome State Fault Refusal :=
  s.runClass id 0xD (fun _ => true) (fun d => d.fits (wholeWords [2])) fun d =>
    let o := s.scopeOf d
    let job := wordAt d.words 2
    let l := (s.launchesFor d).filter fun e => decide (e.job = job) && decide (s.scopeOf e = o)
    let s := l.foldl (fun s e => s.endLaunch e.id 9 0) s
    let s := if l.isEmpty then s else (s.stopTally o).dropRecov o job
    s.setReady d.id 0 0 (BitVec.ofNat 64 l.length)

/-- A descriptor whose deadline has ended completes with DEADLINE (R330). -/
def State.deadlineReady (s : State) (d : Desc) (workDone : Bool) : State :=
  s.modDesc d.id fun d =>
    { d with started := true,
             ready := some { status := 5, detail := bitAt workDone 31,
                             result := if d.cls = 2 then d.launchResult else 0, time := s.tb } }

/-- A LAUNCH's deadline has ended: its cores are reset. During a recovery its device sends FAIL to the
job's peers, and the job fails here (R330, R419, Table 15.7). DEDUCED, log entry 66. -/
def State.launchDeadline (s : State) (d : Desc) (workDone : Bool) : State :=
  let o := s.scopeOf d
  let inRec := (s.recov o d.job).isSome && d.started
  let s := if inRec then s.sendOn .fail (s.recovOf o d.job) 7 none else s
  let ns := s.launchSites d.id
  let s := (ns.foldl State.leaveLaunch s).coreResets ns false
  let s := s.deadlineReady d workDone
  if inRec then s.failHere o d.job 7 else s

/-- DEADLINE_EXPIRY (R330): a completion not ready by the end of the window carries DEADLINE. Bytes of a
LOAD_WEIGHTS not completed are not resident, and a COPY stops at a segment boundary. DEDUCED, log entry 43. -/
def execDeadlineExpiry (id : Nat) (t : Word64) (workDone : Bool) (s : State) :
    Host.Outcome State Fault Refusal :=
  let s := s.at t
  match s.desc id with
  | none => .next s
  | some d =>
    if d.ready.isSome ∨ windowOver d.fetched d.deadline s.tb = false then .next s
    else if d.cls = 2 then .next (s.launchDeadline d workDone)
    else .next (s.deadlineReady d workDone)

end Sys2Proof.Machine
end

