-- ==== Sys2Proof/Machine/CorePower.lean ====
section
/-!
DEFINITION. Machine/CorePower.lean: the power states of a core (R115, R116, Table 4.11).
-/

namespace Sys2Proof.Machine

/-- NAP_ENTER (Table 4.11): after 256 quiescent cycles in a row the clock stops. DEDUCED, log entry 9. -/
def execNapEnter (site : SiteNo) (s : State) : Host.Outcome State Fault Refusal :=
  if (s.site site).pwr = .run ∧ s.quiescent site = true ∧ 256 ≤ (s.site site).quiet then
    .next (s.modSite site fun c => { c with pwr := .nap, quiet := 0 })
  else .next s

/-- The transition to RUN has ended: a latched request to switch off starts its own (R420). -/
def State.wakeDone (s : State) (n : SiteNo) : State :=
  if (s.site n).pwrPending = some .off then s.powerOff n
  else s.modSite n fun c => { c with pwr := .run, waking := false, pwrPending := none }

/-- NAP_WAKE (Table 4.11, R154): a core asked to run, or whose WAIT_UNTIL target has come, restarts its
clock. -/
def execNapWake (site : SiteNo) (s : State) : Host.Outcome State Fault Refusal :=
  if (s.site site).pwr = .nap ∧ ((s.site site).waking = true ∨ s.targetCame site = true) then
    .next (s.wakeDone site)
  else .next s

/-- A LAUNCH is outstanding in a scope. -/
def State.launchIn (s : State) (o : Option HamletNo) : Bool :=
  s.host.descs.any fun d => d.runs && decide (s.scopeOf d = o)

/-- No LAUNCH has been outstanding in a scope for 10 ms (Table 4.11). DEDUCED, log entry 9. -/
def State.launchFree (s : State) (o : Option HamletNo) : Bool :=
  let past (t : Word64) : Bool := windowOver t 10000000 s.tb
  !s.launchIn o && past (tget (fun _ => 0) s.host.launchEnd (scopeKey o)) &&
  s.host.descs.all fun d => decide (d.cls ≠ 2) || decide (s.scopeOf d ≠ o) ||
    (match d.ready with | some c => past c.time | none => true)

/-- RETAIN_ENTER (Table 4.11): a bound quiescent core with no LAUNCH in its hamlet for 10 ms stops its
clock and lowers its voltage to 0.60 V. DEDUCED, log entry 9. -/
def execRetainEnter (site : SiteNo) (s : State) : Host.Outcome State Fault Refusal :=
  let c := s.site site
  if (c.pwr = .run ∨ c.pwr = .nap) ∧ c.waking = false ∧ c.bound.isSome = true ∧
     s.quiescent site = true ∧ s.launchFree c.hamlet = true then
    .next ((s.modDom (domOfSite site) fun d => { d with mv := 600 }).modSite site fun c =>
      { c with pwr := .retain, quiet := 0 })
  else .next s

/-- RETAIN_WAKE (Table 4.11, R347): the voltage is restored, the site's two crossings are recalibrated and
the clock restarts. A site that fails calibration stays stopped. -/
def execRetainWake (site : SiteNo) (cal : CalObs) (s : State) : Host.Outcome State Fault Refusal :=
  let c := s.site site
  if c.pwr = .retain ∧ c.waking = true then
    let s := s.modDom (domOfSite site) fun d =>
      { d with mv := adequateMv c.op (s.region ⟨site.val, by omega⟩).fastest }
    let s := (s.calibrate ⟨site.val, by omega⟩ cal).calibrate ⟨40 + site.val, by omega⟩ cal
    .next (if (s.site site).bad then
        s.modSite site fun c => { c with waking := false, pwrPending := none }
      else s.wakeDone site)
  else .next s

/-- CORE_OFF (Table 4.11, R25): a site that is a spare, unbound, retired or quarantined is switched off.
During a transition the request is latched (R420). -/
def execCoreOff (site : SiteNo) (s : State) : Host.Outcome State Fault Refusal :=
  let c := s.site site
  if c.bound.isSome ∧ c.quarantined = false ∧ c.bad = false then .next s
  else
    match c.pwr with
    | .off => .next s
    | .inTransition => .next (s.modSite site fun c => { c with pwrPending := some .off })
    | _ =>
      .next (if c.waking then s.modSite site fun c => { c with pwrPending := some .off } else s.powerOff site)

/-- CORE_POWER_ON (Table 4.11, R371): a site selected for a logical core enters admission. Already in
admission, the request is absorbed, and cancels a latched one (R420). -/
def execCorePowerOn (site : SiteNo) (t : Word64) (s : State) : Host.Outcome State Fault Refusal :=
  let s := s.at t
  let c := s.site site
  if s.usable site = false ∨ s.pwr.ibcOk.getLsbD (fieldOfSite site).val = false then .next s
  else
    match c.pwr with
    | .off => .next (if (s.dom (domOfSite site)).st = .off then s.admitSite site else s)
    | .inTransition => .next (s.modSite site fun c => { c with pwrPending := none })
    | _ => .next s

end Sys2Proof.Machine
end

