-- ==== Sys2Proof/Machine/HostPorts.lean ====
section
/-!
DEFINITION. Machine/HostPorts.lean: the Heldlink ports, the loss of the host and the request of a warm
reset (11_host_interface.md, R313, R314, R333 to R335).
-/

namespace Sys2Proof.Machine

/-! ### The host is lost (R333) -/

/-- A copy with a host-memory endpoint. -/
def CopyDesc.usesHost (d : CopyDesc) : Bool := decide (d.srcKind = 6) || decide (d.dstKind = 6)

/-- The kind-6 copies in flight in a queue end with UNREACHABLE, oldest first (R333). -/
def State.dropHostCopies (s : State) (n : SiteNo) (q : Fin 4) : Nat → State
  | 0 => s
  | k + 1 =>
    match ((s.site n).queue q).flight.findIdx? fun f => f.desc.usesHost with
    | some i => (s.copyFail n q i 8 false).dropHostCopies n q k
    | none => s

/-- The host is lost: HOST_LOST is 1, what was held for it is not written, and kind-6 copies end with
UNREACHABLE. -/
def State.loseHost (s : State) : State :=
  let s := { s with host := { s.host with lost := true, held := [] } }
  (List.finRange 40).foldl
    (fun s n => (List.finRange 4).foldl (fun s q => s.dropHostCopies n q 4) s) s

/-- HOST_ACCESS_TIMEOUT (R314): a host access unanswered for 10 ms fails. Of a copy of kind 6 it is the
oldest in flight that ends, with UNREACHABLE; a descriptor fetch stops its ring. DEDUCED, log entry 53. -/
def execHostAccessTimeout (r : RingNo) (site : Option (SiteNo × Fin 4)) (t : Word64) (s : State) :
    Host.Outcome State Fault Refusal :=
  let s := s.at t
  match site with
  | some p =>
    match ((s.site p.1).queue p.2).flight.findIdx? fun f => f.desc.usesHost with
    | some i => .next (s.copyFail p.1 p.2 i 8 false)
    | none => .next s
  | none =>
    let g := s.ring r
    if g.enable = false ∨ g.sqHead = g.sqTail ∨ g.stopped = true then .next s
    else .next (s.setRing r { g with err := 3, stopped := true })

/-- HST_HEARTBEAT (R333): a write restarts the window; one after the loss does not clear it. -/
def execHstHeartbeat (_acc : Accessor) (t : Word64) (s : State) : Host.Outcome State Fault Refusal :=
  let s := s.at t
  if s.host.ready = false then .next s
  else .next { s with host := { s.host with heartbeat := s.tb } }

/-- HEARTBEAT_TIMEOUT (R333): no heartbeat in the window of 5 s. -/
def execHeartbeatTimeout (t : Word64) (s : State) : Host.Outcome State Fault Refusal :=
  let s := s.at t
  if s.host.ready = false ∨ s.host.hbEn = false ∨ s.host.lost = true ∨
     windowOver s.host.heartbeat 5000000000 s.tb = false then .next s
  else .next s.loseHost

/-! ### Ports (R313) -/

/-- Bit of a port. -/
def portBit (p : Bool) : Nat := if p then 1 else 0

/-- A port is in service. -/
def State.portIsUp (s : State) (p : Bool) : Bool := s.host.portUp.getLsbD (portBit p)

/-- PORT_LOCK_LOSS (R313). -/
def execPortLockLoss (p : Bool) (t : Word64) (s : State) : Host.Outcome State Fault Refusal :=
  let s := s.at t
  if s.portIsUp p = false then .next s
  else
    .next { s with host := { s.host with
      lockLost := tset (fun _ => none) s.host.lockLost (portBit p) (some s.tb) } }

/-- The rings homed on a port move to the other one. DEDUCED, log entry 53. -/
def State.moveRings (s : State) (p : Bool) : State :=
  { s with host := { s.host with
      rings := (List.finRange 256).foldl
        (fun t r => let g : Ring := tget (fun _ => {}) t r.val
          if g.port = p then tset (fun _ => {}) t r.val { g with moved := true } else t) s.host.rings } }

/-- The writes last sent on a port that the adapter did not acknowledge go again, in their order, on the other
port; with that one DOWN too they are held (R313). DEDUCED, log entry 53. -/
def State.writeAgain (s : State) (x : PortLoss) : State :=
  let sent := s.out.filter fun o => decide (o.hostPort = some x.port)
  ((sent.drop (sent.length - x.unacked)).map (Out.overPort !x.port)).foldl State.sendHost s

/-- PORT_DOWN (R313): lock lost and not regained in 50 µs; the rings move and the unacknowledged writes go again.
DEDUCED, log entry 53. -/
def execPortDown (x : PortLoss) (t : Word64) (s : State) : Host.Outcome State Fault Refusal :=
  let s := s.at t
  let p := x.port
  match tget (fun _ => none) s.host.lockLost (portBit p) with
  | none => .next s
  | some a =>
    if windowOver a 50000 s.tb = false then .next s
    else
      let up := setBit s.host.portUp (portBit p) false
      let s := { s with host := { s.host with
          portUp := up, lockLost := tset (fun _ => none) s.host.lockLost (portBit p) none,
          downSince := if up = 0 then some s.tb else s.host.downSince } }
      .next ((if up = 0 then s else s.moveRings p).writeAgain x)

/-- PORT_UP (R16, R313): a port of a lit field regains lock or returns. Its rings come back to it, but those for which the
other port still holds an unacknowledged write; a later PORT_UP brings these. A port that is still DOWN
has its rings moved to it, and writes held while both were DOWN leave. DEDUCED, log entry 53. -/
def execPortUp (p : Bool) (unacked : List RingNo) (s : State) : Host.Outcome State Fault Refusal :=
  if s.isDark (portField p) then .next s
  else
  let s := { s with host := { s.host with
      portUp := setBit s.host.portUp (portBit p) true,
      lockLost := tset (fun _ => none) s.host.lockLost (portBit p) none, downSince := none } }
  let rings := (List.finRange 256).foldl
    (fun t r => let g : Ring := tget (fun _ => {}) t r.val
      if g.port = p ∧ unacked.contains r = false then tset (fun _ => {}) t r.val { g with moved := false }
      else t) s.host.rings
  let s := { s with host := { s.host with rings := rings, held := [] },
                    out := s.out ++ s.host.held.map (Out.overPort p) }
  .next (if s.portIsUp (!p) then s else s.moveRings (!p))

/-- PORTS_DOWN_TIMEOUT (R313): both ports DOWN for 5 s. -/
def execPortsDownTimeout (t : Word64) (s : State) : Host.Outcome State Fault Refusal :=
  let s := s.at t
  match s.host.downSince with
  | none => .next s
  | some a =>
    if windowOver a 5000000000 s.tb = false ∨ s.host.lost = true ∨ s.host.ready = false then .next s
    else .next s.loseHost

/-! ### Requesting a warm reset (R335) -/

/-- RESET_ARM (R335). -/
def execResetArm (t : Word64) (s : State) : Host.Outcome State Fault Refusal :=
  let s := s.at t
  .next { s with host := { s.host with arm := some s.tb } }

/-- RESET_GO (R335, R420): within 1 ms of the ARM it starts a warm reset or joins one; a later one, or one
with no ARM, disarms. -/
def execResetGo (t : Word64) (s : State) : Host.Outcome State Fault Refusal :=
  let s := s.at t
  let armed := match s.host.arm with
    | some a => inWindow a 1000000 s.tb
    | none => false
  let s := { s with host := { s.host with arm := none } }
  .next (if armed then s.beginReset else s)

/-- RESET_ARM_EXPIRY (R335). -/
def execResetArmExpiry (t : Word64) (s : State) : Host.Outcome State Fault Refusal :=
  let s := s.at t
  match s.host.arm with
  | none => .next s
  | some a =>
    if windowOver a 1000000 s.tb then .next { s with host := { s.host with arm := none } } else .next s

end Sys2Proof.Machine
end

