-- ==== Sys2Proof/Machine/Hamlets.lean ====
section
/-!
DEFINITION. Machine/Hamlets.lean: the creation, reset and destruction of hamlets (16_security.md, R441 to
R444; 15_faults_recovery.md, R420 and R421).
-/

namespace Sys2Proof.Machine

/-! ### Fields -/

/-- HM of a hamlet command. -/
def Desc.hm (d : Desc) : HamletNo :=
  ⟨((wordAt d.words 2).extractLsb' 0 3).toNat, ((wordAt d.words 2).extractLsb' 0 3).isLt⟩

/-- RINGS of HAMLET_CREATE: words 4 to 11. -/
def Desc.hmRings (d : Desc) : BitVec 256 :=
  (List.range 8).foldl
    (fun v i => v ||| ((wordAt d.words (4 + i)).setWidth 256) <<< (32 * i)) 0

/-- LINKS of HAMLET_CREATE. -/
def Desc.hmLinks (d : Desc) : BitVec 96 := wordAt d.words 14 ++ wordAt d.words 13 ++ wordAt d.words 12

/-- The hamlet that HAMLET_CREATE names (R327). -/
def Desc.hmOf (d : Desc) : Hamlet :=
  { st := .creating, confidential := (wordAt d.words 2).getLsbD 3, hostEnc := (wordAt d.words 2).getLsbD 4,
    cores := wordAt d.words 3, rings := d.hmRings, links := d.hmLinks,
    bellFirst := (wordAt d.words 15).extractLsb' 0 13, bellCount := (wordAt d.words 16).extractLsb' 0 14,
    pageFirst := (wordAt d.words 17).extractLsb' 0 18, pageCount := (wordAt d.words 18).extractLsb' 0 18,
    tallyPages := (wordAt d.words 19).extractLsb' 0 16, desc := some d.id }

/-- The words HAMLET_CREATE names (R327). -/
def Desc.createFits (d : Desc) : Bool :=
  d.fits ([(2, 0x1F), (15, 0x1FFF), (16, 0x3FFF), (17, 0x3FFFF), (18, 0x3FFFF), (19, 0xFFFF)] ++
          wholeWords [3, 4, 5, 6, 7, 8, 9, 10, 11, 12, 13, 14])

/-- Logical cores of a hamlet. -/
def Hamlet.lcores (h : Hamlet) : List LCoreNo := coresOfMask h.cores

/-- Rings of a hamlet. -/
def Hamlet.ringList (h : Hamlet) : List RingNo := (List.finRange 256).filter fun r => h.rings.getLsbD r.val

/-- Links of a hamlet. -/
def Hamlet.linkList (h : Hamlet) : List LinkNo := (List.finRange 96).filter fun l => h.links.getLsbD l.val

/-- Bells of a hamlet, those of the range that exist. -/
def Hamlet.bellList (h : Hamlet) : List BellNo :=
  (List.range h.bellCount.toNat).filterMap fun i =>
    if p : h.bellFirst.toNat + i < 8192 then some ⟨h.bellFirst.toNat + i, p⟩ else none

/-- Pages of a hamlet. -/
def Hamlet.pageList (h : Hamlet) : List Nat :=
  (List.range h.pageCount.toNat).map fun i => h.pageFirst.toNat + i

/-! ### The checks of HAMLET_CREATE (Table 16.3) -/

/-- A ring is reserved by a creation in progress. -/
def State.ringHeld (s : State) (r : RingNo) : Bool := s.reservedBy fun h => h.rings.getLsbD r.val

/-- The ring conditions of Table 16.3 other than OUTSTANDING. DEDUCED, log entry 51. -/
def State.hmRingsOk (s : State) (h : Hamlet) (issuer : RingNo) : Bool :=
  !h.rings.getLsbD issuer.val &&
  (h.ringList.all fun r =>
    (s.ring r).owner.isNone && !s.ringHeld r && h.rings.getLsbD (s.ring r).cq.val) &&
  (List.finRange 256).all fun r =>
    h.rings.getLsbD r.val || !(s.ring r).active || !h.rings.getLsbD (s.ring r).cq.val

/-- A multicast set outside every hamlet uses a link: a remote destination's flow runs over it (R277). -/
def State.msetUses (s : State) (m : MSet) (links : BitVec 96) : Bool :=
  m.owner.isNone && m.dests.any fun d =>
    d.remote && match s.linkTo s.id.dev d.dev (BitVec.ofNat 64 (64 * d.bell.toNat)) none with
      | some l => links.getLsbD l.val
      | none => false

/-- A valid tree context or multicast set outside every hamlet names a link of a mask (Table 16.3). -/
def State.linksUsed (s : State) (links : BitVec 96) : Bool :=
  (s.coll.trees.any fun p =>
    p.2.valid && p.2.owner.isNone && p.2.links.any fun l => links.getLsbD l.val) ||
  s.coll.msets.any fun p => s.msetUses p.2 links

/-- Status of the first check of Table 16.3 that fails, 0 when all hold; a key needs the DRBG (R434). -/
def State.createStatus (s : State) (h : Hamlet) (issuer : RingNo) : BitVec 7 :=
  let half (west : Bool) : Nat := (h.pageList.filter fun p => decide (isWest (s.page p).field = west)).length
  if h.lcores.any fun lc => (s.siteOf lc).isNone || (s.coreOwner lc).isSome || s.coreHeld lc then 4
  else if h.lcores.any s.launchOn then 2
  else if s.hmRingsOk h issuer = false then 1
  else if h.ringList.any fun r => decide ((s.ring r).outstanding ≠ 0) then 2
  else if h.linkList.any fun l =>
    (s.link l).owner.isSome || s.linkHeld l || !s.isCabled l || !s.hasLink l then 4
  else if s.linksUsed h.links then 2
  else if decide (8192 < h.bellFirst.toNat + h.bellCount.toNat) ||
    (h.bellList.any fun b => (s.bell b).owner.isSome || s.bellHeld b.val || s.isDark (fieldOfBell b)) then 4
  else if h.bellList.any fun b => (s.bell b).armed then 2
  else if h.pageList.any fun p =>
    decide (s.pageCap ≤ p) || !(s.page p).valid || (s.page p).owner.isSome || decide ((s.page p).kind ≠ 0) ||
    s.pageHeld p then 4
  else if half true < h.tallyPages.toNat ∨ half false < h.tallyPages.toNat then 4
  else if h.confidential && decide (s.sec.debug ≠ 0) then 3
  else if s.sec.entropyOk = false then 4
  else 0

/-- The stores of a site are zeroised (Table 16.3). -/
def Site.zeroise (c : Site) : Site :=
  { c with ws := [], gran := [], ps := [], sill := [], sillFree := 65536 }

/-- The cores of a hamlet are reset and their stores zeroised; until the command ends they are resetting
(Table 16.3, R443). DEDUCED, log entry 49. -/
def State.clearCores (s : State) (h : Hamlet) : State :=
  let ns := s.sitesOf h.cores
  (s.coreResets ns false).modSites ns fun c => { c.zeroise with resetting := true }

/-- HAMLET_CREATE begins: its checks, the reservation and the clearing of its cores (Table 16.3). DEDUCED, log entry 51. -/
def State.createStart (s : State) (d : Desc) : State :=
  let h := d.hmOf
  if (s.hamlet d.hm).st ≠ .none_ then s.done d 4
  else if s.createStatus h d.ring ≠ 0 then s.done d (s.createStatus h d.ring)
  else
    let s := s.modDesc d.id fun d => { d with started := true }
    (s.setHamlet d.hm { h with replaced := (s.hamlet d.hm).replaced }).clearCores h

/-! ### The commit of HAMLET_RESET and HAMLET_DESTROY (R443) -/

/-- Every outstanding descriptor of the hamlet's rings completes with ABORTED, cause 1. -/
def State.abortRings (s : State) (h : Hamlet) : State :=
  (s.host.descs.filter fun d => d.ready.isNone && h.rings.getLsbD d.ring.val).foldl
    (fun s d => (((s.launchSites d.id).foldl State.leaveLaunch s).setReady d.id 9 1 d.launchResult)) s

/-- The combine and reducer slots of a hamlet are aborted, their contributors answered TARGET_RESETTING
(R216, R300). -/
def State.abortSlots (s : State) (h : HamletNo) : State :=
  let s := (s.fab.slots.filter fun k => decide (k.tag = some h)).foldl
    (fun s k => (s.answerAll k 2).setCslot k none) s
  (s.coll.slots.filter fun k => decide ((s.tree k.tc).owner = some h)).foldl
    (fun s k => k.held.foldl (fun s x => s.redAnswer k.tc k.addr 2 x.1) (s.setRslot k.tc k.addr none)) s

/-- Bells are disarmed with COUNT 0 (R288). -/
def State.disarmBells (s : State) (bs : List BellNo) : State :=
  bs.foldl
    (fun s b => s.setBell b { s.bell b with armed := false, count := 0, refire := false, due := [] }) s

/-- The interrupt sources of a hamlet's cores and completion rings become IDLE (R395). -/
def State.idleSources (s : State) (h : Hamlet) : State :=
  let ns := (h.lcores.flatMap fun lc => (List.range 4).map fun k => 64 + 4 * lc.val + k) ++
    h.ringList.map fun r => 512 + r.val
  ns.foldl (fun s n => s.setSrc n { s.src n with st := .idle }) s

/-- The keys of a hamlet are destroyed: its pages hold ciphertext for ever (R435, R436). -/
def State.dropKeys (s : State) (n : HamletNo) : State :=
  let h := s.hamlet n
  let s := s.losePages h.pageFirst.toNat h.pageCount.toNat (h.memKey.getD 0)
  s.modHamlet n fun h => { h with memKey := none, hostKey := none }

/-- The tally pages of a hamlet are zeroised. -/
def State.zeroTally (s : State) (h : Hamlet) : State :=
  (h.pageList.filter fun p => tallyKind (s.page p).kind).foldl (fun s p => s.zeroPages p 1) s

/-- The commit of HAMLET_RESET or HAMLET_DESTROY (R443). DEDUCED, log entry 50. -/
def State.emptyHamlet (s : State) (n : HamletNo) : State :=
  let h := s.hamlet n
  let s := ((s.abortRings h).clearCores h).abortSlots n
  let s := ((s.disarmBells h.bellList).idleSources h).dropKeys n
  let s := s.setJobs (s.flt.jobs.filter fun r => decide (r.scope ≠ some n))
  (s.setTally (some n) {}).zeroTally h

/-- HAMLET_RESET or HAMLET_DESTROY begins at its commit (R443); a reset needs a new key (R434). -/
def State.emptyStart (s : State) (d : Desc) (st : HamletState) : State :=
  if (s.hamlet d.hm).st ≠ .live then s.done d 4
  else if st = .resetting ∧ s.sec.entropyOk = false then s.done d 4
  else
    let s := s.modDesc d.id fun d => { d with started := true }
    (s.emptyHamlet d.hm).modHamlet d.hm fun h => { h with st := st, desc := some d.id }

/-- A hamlet command begins its transition. -/
def State.hamletStart (s : State) (d : Desc) : State :=
  match d.cls.toNat with
  | 9 => s.createStart d
  | 0xA => s.emptyStart d .destroying
  | _ => s.emptyStart d .resetting

/-! ### A command that meets a transition in progress (R420, R421, R444) -/

/-- The class whose end state a running transition reaches. -/
def HamletState.cls : HamletState → BitVec 8
  | .creating => 9
  | .destroying => 0xA
  | .resetting => 0xB
  | _ => 0

/-- A command asks for the end state of the running transition: the same command, and of HAMLET_CREATE
the same hamlet. DEDUCED, log entry 51. -/
def State.sameEnd (s : State) (d : Desc) : Bool :=
  decide (d.cls = (s.hamlet d.hm).st.cls) &&
  (decide (d.cls ≠ 9) ||
   match (s.hamlet d.hm).desc.bind s.desc with
   | some e => decide (e.words.drop 2 = d.words.drop 2)
   | none => false)

/-- A hamlet command from a ring outside every hamlet: it begins, or it is absorbed by the running
transition, or it is latched, replacing an earlier one. -/
def State.hamletCommand (s : State) (d : Desc) : State :=
  if (s.scopeOf d).isSome then s.done d 3
  else
    let h := s.hamlet d.hm
    if h.st.cls = 0 then s.hamletStart d
    else
      let s := s.modDesc d.id fun d => { d with started := true }
      match h.latched with
      | none =>
        if s.sameEnd d then s.modHamlet d.hm fun h => { h with absorbed := h.absorbed ++ [d.id] }
        else s.modHamlet d.hm fun h => { h with latched := some (d.cls, d.id) }
      | some p =>
        s.modHamlet d.hm fun h => { h with latched := some (d.cls, d.id), replaced := h.replaced ++ [p.2] }

/-- HAMLET_CREATE (R442). -/
def execHamletCreate (id : Nat) (s : State) : Host.Outcome State Fault Refusal :=
  s.runClass id 9 (fun _ => true) Desc.createFits s.hamletCommand

/-- HAMLET_DESTROY (R443). -/
def execHamletDestroy (id : Nat) (s : State) : Host.Outcome State Fault Refusal :=
  s.runClass id 0xA (fun _ => true) (fun d => d.fits [(2, 0x7)]) s.hamletCommand

/-- HAMLET_RESET (R443). -/
def execHamletReset (id : Nat) (s : State) : Host.Outcome State Fault Refusal :=
  s.runClass id 0xB (fun _ => true) (fun d => d.fits [(2, 0x7)]) s.hamletCommand

/-! ### The end of a transition -/

/-- Status that the state reached gives a command that was never carried out (R421). DEDUCED, log entry 51. -/
def State.unmetStatus (s : State) (n : HamletNo) (cls : BitVec 8) : BitVec 7 :=
  let exists_ := decide ((s.hamlet n).st ≠ .none_)
  if cls = 0xA then (if exists_ then 2 else 0)
  else if cls = 0xB then (if exists_ then 0 else 4)
  else 4

/-- Replaced commands complete. DEDUCED, log entry 51. -/
def State.answerReplaced (s : State) (n : HamletNo) (ids : List Nat) : State :=
  ids.foldl
    (fun s i => match s.desc i with
      | some d => s.setReady i (s.unmetStatus n d.cls) 0 0
      | none => s) s

/-- A transition of hamlet n that class cls ran ends with a status; before is the hamlet as it ran. The
latched command is met, or begins at once (R420, R421). DEDUCED, log entry 50. -/
def State.endTransition (s : State) (n : HamletNo) (before : Hamlet) (status : BitVec 7) : State :=
  let s := match before.desc with
    | some i => s.setReady i status 0 0
    | none => s
  let s := before.absorbed.foldl (fun s i => s.setReady i status 0 0) s
  let s := s.modHamlet n fun h =>
    { h with desc := none, latched := none, absorbed := [], replaced := before.replaced }
  let s : State := match before.latched with
    | none => s
    | some p =>
      if p.1 = before.st.cls ∧ p.1 ≠ 9 then s.setReady p.2 0 0 0
      else
        match s.desc p.2 with
        | some d => if d.ready.isSome then s else s.hamletStart d
        | none => s
  if (s.hamlet n).st.cls = 0 then
    (s.answerReplaced n before.replaced).modHamlet n fun h => { h with replaced := [] }
  else s

/-- A new memory key, drawn after a reseed (R434, R435). -/
def State.takeKey (s : State) : State × Nat :=
  let r := s.newKey
  ({ r.1 with sec := { r.1.sec with drbgUses := 1 } }, r.2)

/-- The pages that become TALLY_A, lowest first (R240). -/
def State.tallyPagesOf (s : State) (h : Hamlet) (west : Bool) : List Nat :=
  (h.pageList.filter fun p => decide (isWest (s.page p).field = west)).take h.tallyPages.toNat

/-- Pages of a new hamlet: owned, encrypted, the tally pages set and zeroised (R240, R436, R442). DEDUCED, log entry 50. -/
def State.givePages (s : State) (n : HamletNo) (h : Hamlet) (key : Nat) : State :=
  let a := s.tallyPagesOf h true
  let b := s.tallyPagesOf h false
  let s := s.losePages h.pageFirst.toNat h.pageCount.toNat key
  let s := s.modPages h.pageFirst.toNat h.pageCount.toNat fun p => { p with owner := some n, enc := true }
  let s := a.foldl (fun s p => (s.modPage p fun v => { v with kind := 3 }).zeroPages p 1) s
  b.foldl (fun s p => (s.modPage p fun v => { v with kind := 4 }).zeroPages p 1) s

/-- Rings, links and bells take an owner; the links start confirmation (R438, R441). -/
def State.setOwners (s : State) (h : Hamlet) (o : Option HamletNo) : State :=
  let s := h.ringList.foldl (fun s r => s.modRing r fun g => { g with owner := o }) s
  let s := h.bellList.foldl (fun s b => s.setBell b { s.bell b with owner := o }) s
  h.linkList.foldl (fun s l => (s.modLink l fun k => { k with owner := o }).startConfirm l) s

/-- A site whose read-back found a nonzero word is recorded bad (R442). DEDUCED, log entry 52. -/
def State.zeroiseFail (s : State) (n : SiteNo) : State :=
  ((s.fault 0x0709 none (BitVec.ofNat 32 n.val) 0).mapOut 0 n.val 0x0709).modSite n fun c =>
    { c with bad := true, spare := false }

/-- HAMLET_CREATE_COMMIT (R441, R442): zeroisation has ended. A bad site, or a stopped DRBG
(R434), releases the reservation. DEDUCED, log entry 81. -/
def execHamletCreateCommit (h : HamletNo) (badSites : List SiteNo) (s : State) :
    Host.Outcome State Fault Refusal :=
  let v := s.hamlet h
  let ns := s.sitesOf v.cores
  let bad := badSites.filter fun n => ns.contains n
  if v.st ≠ .creating then .next s
  else if bad.isEmpty = false ∨ s.sec.entropyOk = false then
    let s := (bad.foldl State.zeroiseFail s).modSites ns fun c => { c with resetting := false }
    .next ((s.setHamlet h {}).endTransition h v 4)
  else
    let r := s.takeKey
    let s := r.1.setHamlet h { v with st := .live, memKey := some r.2, binding := 0 }
    let s := (s.givePages h v r.2).setOwners v (some h)
    let s := s.modSites ns fun c => { c with hamlet := some h, resetting := false }
    .next (s.endTransition h v 0)

/-- A destroyed hamlet's resources return to no owner (R443). DEDUCED, log entry 50. -/
def State.returned (s : State) (n : HamletNo) (h : Hamlet) : State :=
  let s := s.abortRings h
  let s := s.modPages h.pageFirst.toNat h.pageCount.toNat fun p =>
    { p with owner := none, kind := 0, enc := false, remR := false, remW := false }
  let s := s.modSites (s.sitesOf h.cores) fun c =>
    { c with hamlet := none, mirror := 0, mirrorDegraded := false, mirrorGone := 0, resetting := false }
  let s := s.setOwners h none
  let s := h.ringList.foldl
    (fun s r => s.modRing r fun g => { g with enable := false, active := decide (g.outstanding ≠ 0) }) s
  let s := (List.finRange 64).foldl
    (fun s t => if (s.tree t).owner = some n then s.setTree t { s.tree t with owner := none } else s) s
  (List.range 64).foldl
    (fun s m => if (s.mset m).owner = some n then s.setMset m { s.mset m with owner := none } else s) s

/-- A reset hamlet is rekeyed: its binding is cleared, and it is confidential no more (R443, R446). DEDUCED, log entry 50. -/
def State.rekeyed (s : State) (n : HamletNo) (h : Hamlet) : State :=
  let r := s.takeKey
  let s := r.1.modHamlet n fun h =>
    { h with st := .live, memKey := some r.2, binding := 0, blockCount := 0, confidential := false }
  let s := s.modSites (s.sitesOf h.cores) fun c => { c with resetting := false }
  h.linkList.foldl (fun s l => s.startConfirm l) s

/-- HAMLET_ZEROISATION_DONE (R443): the command completes; sites that fail the read-back are recorded bad.
DEDUCED, log entry 52. -/
def execHamletZeroisationDone (obs : ZeroObs) (s : State) : Host.Outcome State Fault Refusal :=
  let h := obs.h
  let v := s.hamlet h
  let bad := obs.bad.filter fun n => (s.sitesOf v.cores).contains n
  match v.st with
  | .destroying =>
    let s := bad.foldl State.zeroiseFail s
    .next (((s.returned h v).setHamlet h {}).endTransition h v 0)
  | .resetting => .next (((bad.foldl State.zeroiseFail s).rekeyed h v).endTransition h v 0)
  | _ => .next s

end Sys2Proof.Machine
end

