-- ==== Sys2Proof/Machine/Links.lean ====
section
/-!
DEFINITION. Machine/Links.lean: Gaska links: training, identity, keying, epochs, replay, retrain, going
down, and the link packets an epoch carries (09_gaska_links.md).
-/

namespace Sys2Proof.Machine

/-! ### Spare lanes (R258, R259) -/

/-- The cable port of a link (R258, R17). -/
def cablePort (l : LinkNo) : Nat := if l.val < 64 then l.val / 8 else 8 + (l.val - 64) / 8

/-- The spares (33 is true) that can serve a link (R258). -/
def sparesFor (l : LinkNo) : List Bool :=
  if l.val < 64 then [false, true] else [decide ((l.val - 64) / 4 % 2 = 1)]

/-- A spare free in a direction for a link (R258). -/
def State.freeSpare (s : State) (l : LinkNo) (rx : Bool) : Option Bool :=
  (sparesFor l).find? fun b =>
    !(List.finRange 96).any fun k => decide (cablePort k = cablePort l) &&
      (s.link k).steered.any fun x => decide (x.2.1 = rx) && decide (x.2.2 = b)

/-- DETAIL of LANE_SPARED (Table 9.9). -/
def spareDetail (l : LinkNo) (x : Fin 4 × Bool × Bool) : Word32 :=
  BitVec.ofNat 32 l.val ||| BitVec.ofNat 32 (x.1.val * 128) ||| bitAt x.2.1 10 ||| bitAt x.2.2 11

/-- A lane takes a spare, with its record (R259). -/
def State.spareLane (s : State) (l : LinkNo) (x : Fin 4 × Bool × Bool) : State :=
  (s.modLink l fun k => { k with steered := k.steered ++ [x] }).fault 0x0303 none (spareDetail l x) 0

/-- The lanes a link uses: all four, or while some have failed the two best of the others (R259). -/
def lanesInUse (failed : List (Fin 4 × Bool)) (best : List (Fin 4)) : BitVec 4 :=
  if failed = [] then 15
  else
    ((((best ++ List.finRange 4).eraseDups).filter fun n => failed.all fun x => decide (x.1 ≠ n)).take 2).foldl
      (fun v n => setBit v n.val true) 0

/-- A link's lanes are set from those that have failed; half-rate mode is recorded when it starts (R259). -/
def State.useLanes (s : State) (l : LinkNo) (best : List (Fin 4)) : State :=
  let k := s.link l
  let half := decide (k.badLanes ≠ [])
  let s := s.setLink l { k with lanes := lanesInUse k.badLanes best, half := half }
  if half && !k.half then s.fault 0x0304 none (BitVec.ofNat 32 l.val) 0 else s

/-- Each failed lane is steered to a free spare; where none is free the link runs on its two best lanes (R259). -/
def State.steer (s : State) (l : LinkNo) (best : List (Fin 4)) : State :=
  let bad := (s.link l).badLanes
  (bad.foldl
    (fun s x =>
      match s.freeSpare l x.2 with
      | some b => (s.spareLane l (x.1, x.2, b)).modLink l fun k => { k with badLanes := k.badLanes.erase x }
      | none => s) s).useLanes l best

/-! ### Going down (R269, R277, R294) -/

/-- A link that is DOWN starts its training (R269). -/
def Link.train (k : Link) (now : Word64) : Link :=
  { k with st := .training, attempt := some now, half := false, steered := [], badLanes := [] }

/-- A link is DOWN: its keys are destroyed and its flows, with what it had sent and was not acknowledged and what it
still held, move in their order to the instances that take them now (R277, Table 16.2). A train request latched by then
starts at once (R420). -/
def State.linkToDown (s : State) (l : LinkNo) : State :=
  let k := s.link l
  let waiting := k.kept.map (·.2) ++ k.txQ
  let d := { k with st := .down, key := none, rxKey := none, rxNext := none, confirmed := false, rekeying := false,
                    txQ := [], kept := [], credits := [], lanes := 0, half := false, latched := none,
                    moved := decide (k.st = .up) || decide (k.st = .retrain) || k.moved }
  let s := s.setLink l (if k.latched = some true then d.train s.tb else d)
  let s := s.moveEdges l
  waiting.foldl
    (fun s p =>
      match s.linkTo p.srcDev p.dstDev p.addr k.owner with
      | some m => s.sendLink m p
      | none => s) s

/-- A service failure takes the link DOWN, recorded with its peer (R268, R277). -/
def State.linkFails (s : State) (l : LinkNo) : State :=
  let d : Word64 := (s.link l).peerDev.setWidth 64
  (s.linkToDown l).fault 0x0305 none (BitVec.ofNat 32 l.val) d

/-- Authentication fails: DOWN, AUTH_FAIL recorded; in KEYING the reeve is told (Table 9.6). -/
def State.authFails (s : State) (l : LinkNo) (keying : Bool) : State :=
  let d : Word64 := (s.link l).peerDev.setWidth 64
  let s := if keying then s.send (.toReeve 0x0306 l) else s
  (s.linkToDown l).fault 0x0306 none (BitVec.ofNat 32 l.val ||| bitAt keying 7) d

/-! ### Bring-up of a link (R269 to R271) -/

/-- LINK_TRAIN_START (R269, R420, R461): from DOWN, at bring-up or 1 s after the last attempt, once the
device has a system device number. -/
def execLinkTrainStart (l : LinkNo) (t : Word64) (s : State) : Host.Outcome State Fault Refusal :=
  let s := s.at t
  let k := s.link l
  let ready := match k.attempt with
    | some a => windowOver a 1000000000 s.tb
    | none => true
  match k.st with
  | .down =>
    if s.hasLink l = false ∨ s.isDark (fieldOfLink l) = true ∨ ready = false ∨ s.id.valid = false ∨
       s.fab.cutOff.getLsbD (2 * (fieldOfLink l).val + 1) = true then
      .next s
    else .next (s.setLink l (k.train s.tb))
  | .absent => .next s
  | .up => .next s
  | _ => .next (s.setLink l { k with latched := if k.latched.isNone then none else some true })

/-- A bring-up failure takes the link DOWN; its class is recorded once per bring-up (Table 9.6). -/
def State.trainFails (s : State) (l : LinkNo) (cls : BitVec 16) (detail : Word32) (addr : Word64) : State :=
  let again := (s.link l).recorded
  let s := (s.linkToDown l).modLink l fun k => { k with recorded := true }
  if again then s else s.fault cls none (BitVec.ofNat 32 l.val ||| detail) addr

/-- The lanes that are not locked, as failed in the receive direction. DEDUCED, log entry 97. -/
def missing (locked : BitVec 4) : List (Fin 4 × Bool) :=
  ((List.finRange 4).filter fun n => !locked.getLsbD n.val).map fun n => (n, true)

/-- LINK_TRAINED (R259, R264, R269): lanes that failed wait for a spare at the next retrain. -/
def execLinkTrained (l : LinkNo) (obs : TrainObs) (s : State) : Host.Outcome State Fault Refusal :=
  let k := s.link l
  if k.st ≠ .training then .next s
  else if obs.partner = false then .next (s.trainFails l 0x0309 0 0)
  else if obs.tooLong = true ∨ 450 < obs.cableNs.toNat ∨ popCount obs.lanes < 2 then
    .next (s.trainFails l 0x030A (fieldAt obs.lanes 7 |||
      bitAt (obs.tooLong || decide (450 < obs.cableNs.toNat)) 11) 0)
  else
    .next ((s.setLink l { k with st := .ident, cableNs := obs.cableNs,
                                 badLanes := (obs.failed ++ (missing obs.lanes)).eraseDups }).useLanes l obs.best)

/-- IDENT_MESSAGE (R270, R274). -/
def execIdentMessage (l : LinkNo) (obs : IdentObs) (s : State) : Host.Outcome State Fault Refusal :=
  let k := s.link l
  if k.st ≠ .ident then .next s
  else
    let k := { k with peerDev := obs.dev, peerLink := BitVec.ofNat 7 obs.link.val,
                      peerMaster := obs.master }
    let s := s.setLink l k
    match obs.minor with
    | none =>
      .next ((s.linkToDown l).fault 0x0307 none (BitVec.ofNat 32 l.val ||| fieldAt obs.major 7) 0)
    | some m =>
      if s.cabledTo l = some (obs.dev.toNat, obs.link) then
        .next ((s.setLink l { k with st := .keying, major := 1, minor := if m = 0 then 0 else 1 }).send (.keyMsg l))
      else
        .next ((s.linkToDown l).fault 0x0308 none (BitVec.ofNat 32 l.val)
          (BitVec.ofNat 64 (obs.dev.toNat + 65536 * obs.link.val)))

/-- Credit a link starts with on each VC: 128 units beside the shared pool, or 682 under version 1.0
(R266). -/
def startCredits (minor : BitVec 4) : Tab Nat :=
  (List.range 6).map fun vc => (vc, if minor = 0 then 682 else 128)

/-- LINK_KEYED (R271, R433, R437, R438). -/
def execLinkKeyed (l : LinkNo) (obs : KeyObs) (s : State) : Host.Outcome State Fault Refusal :=
  let k := s.link l
  if k.st ≠ .keying then .next s
  else
    let (s, leaf) := s.takeLeaf
    if obs.authOk = false ∨ leaf.isNone = true then .next (s.authFails l true)
    else
      let (s, key) := s.newKey
      let down := decide (k.latched = some false)
      let s := s.setLink l { k with st := .up, key := some key, rxKey := some key, rxNext := none,
                                    rekeyReady := false, peerReady := false, txEpoch := 0, keyEpoch := 0,
                                    rxEpoch := none, txBase := 0, txStart := s.tb, kept := [], allot := [],
                                    demands := [], peerDigest := obs.peerDigest, rxSeq := 0,
                                    txAck := 0, txPhase := false, rxPhase := false, progress := s.tb,
                                    stuck := 0, epochFails := 0, reqRetrain := false, firstAfter := false,
                                    recent := [], credits := startCredits k.minor, latched := none }
      let s := s.confirm l obs
      .next (if down then s.linkFails l else s.flush l)

/-- REKEY (R271, R438): new keys without stopping traffic: the sender's next epoch is the first under its new key, with
KEY_PHASE toggled and REKEY_READY set; the receiver keeps the old key until an epoch under the new one verifies. What a
worn key held back goes on. -/
def execRekey (l : LinkNo) (obs : KeyObs) (s : State) : Host.Outcome State Fault Refusal :=
  let k := s.link l
  if k.st ≠ .up ∨ obs.authOk = false then .next s
  else
    let (s, key) := s.newKey
    let s := s.setLink l { k with key := some key, txPhase := !k.txPhase, keyEpoch := k.epochNow s.tb,
                                  rekeyReady := true, rxNext := some key }
    let s := (s.confirm l obs).send (.keyMsg l)
    .next (if k.worn s.tb then s.flush l else s)

/-! ### Link packets (R265, R276 to R280) -/

/-- A request for a core of this device enters the fabric at the link bundle (R279). -/
def State.fromLink (s : State) (l : LinkNo) (p : LinkPkt) : State :=
  match s.siteOf p.lcore with
  | none => (s.unitsOut l p).refuse l p 4
  | some n =>
    let src := s.linkPort (fieldOfLink l)
    let span := if p.opc = 3 then 64 * p.len.toNat else p.data.length
    if s.reach src.1 (rtrOfSite n) then
      s.ask (mkPacket (p.opc.setWidth 5) src (rtrOfSite n, false) (s.link l).owner p.addr.toNat span
        p.data) (.remote l p)
    else (s.unitsOut l p).refuse l p 4

/-- An SVC packet for this device's services endpoints (R289, R290): a bell operation crosses the fabric to its bell,
one of a reserved code is answered RANGE; a notice or message crosses to the field's own endpoint; every other TYPE is
discarded. DEDUCED, log entry 87; DESIGN CHOICE, log entry 95. -/
def State.svcFromLink (s : State) (l : LinkNo) (p : LinkPkt) : State :=
  let src := s.linkPort (fieldOfLink l)
  let m := bellOpOf p.data
  match svcType p.data with
  | 1 =>
    let dst := svcRtr ⟨m.bell.toNat / 1024, by have := m.bell.isLt; omega⟩
    if 4 < m.op.toNat then (s.unitsOut l p).refuse l p 3
    else if s.reach src.1 dst then
      s.ask (mkPacket 7 src (dst, false) (s.link l).owner (64 * m.bell.toNat) 64 p.data) (.remote l p)
    else (s.unitsOut l p).refuse l p 4
  | 4 | 5 | 6 =>
    (s.unitsOut l p).respond (mkPacket 7 src (svcRtr (fieldOfLink l), false) (s.link l).owner p.addr.toNat 64 p.data)
  | _ => s.unitsOut l p

/-- A contribution's data as its bytes spell it (R54, R210). -/
def redOf (fp32 : Bool) (bs : List Byte) : RedData :=
  if fp32 then
    .fp32 ((List.range (bs.length / 4)).map fun i => BitVec.ofNat 32 (leNat ((bs.drop (4 * i)).take 4)))
  else redOfBlocks ((List.range (bs.length / 264)).map fun i => wpsOf ((bs.drop (264 * i)).take 264))

/-- A packet for a link-port reducer: a contribution, or data that comes down the tree (R298, R299). -/
def State.toReducer (s : State) (l : LinkNo) (p : LinkPkt) : State :=
  match treeGroup p.group with
  | none => s.refuse l p 4
  | some tc =>
    let t := s.tree tc
    let s := if decide (t.up = l) && !t.root then
        s.setTree tc { t with lcore := BitVec.ofNat 5 p.lcore.val }
      else s
    if p.opc = 1 then
      if t.valid = false ∨ t.root = true ∨ t.up ≠ l ∨ t.failed = true then s.refuse l p 4
      else if t.mode = 2 then
        let r := s.reduce tc p.addr .uplink (redOf t.fmt p.data)
        r.1.remoteReply l p 2 r.2 []
      else (s.treeDown tc p.addr p.data).remoteReply l p 2 0 []
    else
      let src : RedFrom := if decide (t.up = l) && !t.root then .uplink else .child l
      let r := s.reduce tc p.addr src (redOf p.fmt p.data)
      r.1.redAnswer tc p.addr r.2 src

/-- The parent's answer to a sum sent up (R299, R300): accepted, to be sent again, or failed. -/
def State.sumAnswer (s : State) (tc : Fin 64) (p : LinkPkt) : State :=
  match s.rslot tc p.addr with
  | none => s
  | some slot =>
    match slot.sent, slot.sum with
    | true, some d =>
      if p.status = 0 then (s.setRslot tc p.addr none).sumTaken tc (redBytes d).length
      else if p.status = 10 then
        let s := s.setRslot tc p.addr (some { slot with sent := false })
        { s with fab := { s.fab with resends := s.fab.resends ++
            [((s.linkPort (s.tree tc).home).1, BitVec.ofNat 10 (0x3C0 + tc.val), s.tb + 1000)] } }
      else
        (s.setRslot tc p.addr none).tell 0x000F none ((copyCode p.status).setWidth 32) p.addr
    | _, _ => s

/-- A response goes on to the router and transaction it answers (R280), or to the reducer that awaits it; a
child that could not take its data is told (R300). -/
def State.responseIn (s : State) (l : LinkNo) (p : LinkPkt) : State :=
  if p.dstKind = 3 then
    match treeGroup p.group with
    | none => s
    | some tc =>
      if p.opc = 6 then s.sumAnswer tc p
      else if p.status = 0 then s
      else s.tell 0x000F none ((copyCode p.status).setWidth 32) p.addr
  else
    let dst : Fin 64 := ⟨(p.rtxn.extractLsb' 10 6).toNat, (p.rtxn.extractLsb' 10 6).isLt⟩
    let q := mkPacket (p.opc.setWidth 5) (s.linkPort (fieldOfLink l)) (dst, false) (s.link l).owner
      p.addr.toNat p.data.length p.data
    let q := { q with txn := p.rtxn.extractLsb' 0 10, status := p.status }
    s.respond { q with hchk := hchkOf q }

/-- A link packet for this device: a request crosses the fabric, or is served here; a response goes on to what awaits
it (R265, R279, R280). -/
def State.linkPacketHere (s : State) (l : LinkNo) (p : LinkPkt) : State :=
  if p.opc = 2 ∨ p.opc = 4 ∨ p.opc = 6 ∨ (p.opc = 7 ∧ svcType p.data = 2) then (s.unitsOut l p).responseIn l p
  else
    match p.dstKind.toNat with
    | 0 => s.fromLink l p
    | 1 =>
      let r : RemoteReq := { link := l, write := decide (p.opc = 1), addr := p.addr,
                             len := if p.opc = 1 then p.data.length else 64 * p.len.toNat,
                             data := p.data, srcDev := p.srcDev, rtxn := p.rtxn }
      (s.unitsOut l p).remotePage r
    | 3 => (s.unitsOut l p).toReducer l p
    | _ => if p.opc = 7 then s.svcFromLink l p else s.unitsOut l p

/-- A link packet of a verified epoch (R265, R276, R278, R438); an idle unit is none. -/
def State.linkPacket (s : State) (l : LinkNo) (p : LinkPkt) : State :=
  let k := s.link l
  if p.opc = 0 then s
  else
    let s := s.unitsIn l p
    if k.owner.isSome ∧ k.confirmed = false then (s.unitsOut l p).refuse l p 1
    else if p.dstDev ≠ s.id.dev then s.transit l p
    else s.linkPacketHere l p

/-! ### Epochs (R260 to R268) -/

/-- A link packet that no receiver accepts (section 9.3). -/
def pktBad (p : LinkPkt) : Bool :=
  decide (7 < p.opc.toNat) || decide (5 < p.vc.toNat) || decide (128 < p.len.toNat)

/-- An epoch fails: it is withheld; the second failure in a row asks the sender to replay (R263, R267). -/
def Link.epochFailed (k : Link) : Link :=
  { k with epochFails := k.epochFails + 1, reqRetrain := k.reqRetrain || decide (1 ≤ k.epochFails) }

/-- A replay starts (R267, R281): go-back-N from the oldest block not acknowledged; what is kept is sent again, under
new EPOCH values (R263). -/
def State.replay (s : State) (l : LinkNo) : State :=
  let k := s.link l
  let s := s.setLink l { k.restart k.txAck s.tb with replays := satInc k.replays, stuck := k.stuck + 1 }
  (s.sendAll (k.kept.map fun x => Out.linkPkt l x.2)).fold 0x0301 l.val (BitVec.ofNat 32 l.val) 0

/-- Bits [39:8] of a block header (Table 9.2). -/
def headBits (h : BlockHead) : BitVec 32 := h.seq ++ h.ack ++ h.cvc ++ h.credits

/-- The headers of an epoch are eight, numbered one after another, and each agrees with its HCRC (R260). A header that
does not is a block in error. DEDUCED, log entry 97. -/
def epochHeads (e : Epoch) : Bool :=
  decide (e.heads.length = 8) &&
  (List.range 8).all fun i =>
    match e.heads[i]?, e.heads.head? with
    | some h, some g =>
      decide (h.seq = g.seq + BitVec.ofNat 10 i) && decide (h.hcrc = crc8Over 0 ((headBits h).setWidth 128) 32)
    | _, _ => false

/-- The header unit and the data units of a link packet (Table 9.5). -/
def linkBytes (p : LinkPkt) : List Byte :=
  leBytes 1 p.opc.toNat ++ leBytes 1 (p.vc.toNat + 16 * p.status.toNat) ++ leBytes 2 p.len.toNat ++
  leBytes 2 p.srcDev.toNat ++ leBytes 2 p.dstDev.toNat ++ leBytes 1 p.dstKind.toNat ++ leBytes 1 p.lcore.val ++
  leBytes 2 p.rtxn.toNat ++ zeros 4 ++ leBytes 8 p.addr.toNat ++ leBytes 2 p.group.toNat ++
  leBytes 1 (p.contrib.toNat + 64 * p.fmt.toNat) ++ zeros 37 ++ p.data ++ zeros ((64 - p.data.length % 64) % 64)

/-- The plaintext of an epoch: its 159 payload units (R262). -/
def epochPlain (e : Epoch) : List Byte := (e.pkts.flatMap linkBytes ++ zeros 10176).take 10176

/-- Parity of the eight words of each unit, a byte a unit (R184, R262). -/
def parityBits (bs : List Byte) : List Byte :=
  (List.range (bs.length / 64)).map fun u =>
    (List.range 8).foldl
      (fun v w =>
        let x : Byte := ((bs.drop (64 * u + 8 * w)).take 8).foldl (fun a b => a ^^^ b) 0
        setBit v w (decide (popCount x % 2 = 1))) 0

/-- The additional data of an epoch: the block headers, bytes 16 to 63 of the control unit, and the parity of the words
(R262, Tables 9.2, 9.3). -/
def epochAad (e : Epoch) : List Byte :=
  (e.heads.flatMap fun h => (leBytes 5 (((headBits h) ++ h.hcrc).toNat)).reverse) ++ leBytes 8 e.epoch.toNat ++
  leBytes 8 e.tstamp.toNat ++
  leBytes 1 (e.keyPhase.toNat + 2 * e.rekeyReady.toNat + 4 * e.retrainReq.toNat) ++ zeros 31 ++ parityBits (epochPlain e)

/-- The secret an epoch of a KEY_PHASE is under (R271). -/
def Link.secretFor (k : Link) (phase : Bool) : Option Nat := if phase = k.rxPhase then k.rxKey else k.rxNext

/-- The tag verifies: it is that of the epoch's own operands, and its EPOCH is new under the key (R261, R262). DESIGN CHOICE, log entry 5. -/
def Link.tagOk (k : Link) (e : Epoch) : Bool :=
  (match k.secretFor e.keyPhase with
   | some x => decide (e.tag = Config.gcmTag (Config.linkKey x false) (Config.linkSalt x false ++ e.epoch) (epochPlain e) (epochAad e))
   | none => false) &&
  (decide (e.keyPhase ≠ k.rxPhase) || (match k.rxEpoch with | some x => decide (x < e.epoch) | none => true))

/-- The sender is told that a block is received: ACK has passed the epoch that holds it (R260, R267). -/
def acked (ack b : BitVec 10) : Bool := decide ((ack - b - 8).toNat < 512)

/-- What a verified epoch's headers bring: every header's credits, and the last one's ACK (R260, R266, R267). -/
def Link.heads (k : Link) (hs : List BlockHead) (now : Word64) : Link :=
  let ack := (hs.getLast?.map (·.ack)).getD k.txAck
  let k := hs.foldl
    (fun k h => if h.cvc.toNat ≤ 5 then
        { k with credits := tset (fun _ => 0) k.credits h.cvc.toNat (k.credit h.cvc.toNat + h.credits.toNat) }
      else k) k
  { k with txAck := ack, kept := k.kept.filter fun x => !acked ack x.1,
           progress := if ack = k.txAck then k.progress else now,
           stuck := if ack = k.txAck then k.stuck else 0 }

/-- What the receiver takes from a verified epoch: sequence, EPOCH, the key that it shows, acknowledgements and credits
(R260, R261, R266, R267, R271). -/
def Link.verified (k : Link) (e : Epoch) (now : Word64) : Link :=
  let next := decide (e.keyPhase ≠ k.rxPhase)
  { k.heads e.heads now with
    rxSeq := k.rxSeq + 8, epochFails := 0, reqRetrain := false, firstAfter := false, rxPhase := e.keyPhase,
    rxEpoch := some e.epoch, peerReady := e.rekeyReady, rxKey := if next then k.rxNext else k.rxKey,
    rxNext := if next then none else k.rxNext, rekeyReady := k.rekeyReady && !next }

/-- EPOCH_RECEIVE (R260 to R263, R266 to R268, R271, Table 9.6). DESIGN CHOICE, log entry 30; DEDUCED, log entry 87. -/
def execEpochReceive (l : LinkNo) (e : Epoch) (s : State) : Host.Outcome State Fault Refusal :=
  let k := s.link l
  if k.st ≠ .up ∨ (e.heads.head?).map (·.seq) ≠ some k.rxSeq then .next s
  else
    let k := { k with corrected := k.corrected + e.fecCorrected }
    if e.fecOk = false then
      .next (s.setLink l (({ k with uncorrectable := satInc k.uncorrectable }).epochFailed))
    else if epochHeads e = false then .next (s.setLink l k.epochFailed)
    else if k.tagOk e = false then
      let s := s.setLink l (({ k with authFails := satInc k.authFails }).epochFailed)
      .next (if k.firstAfter then s.authFails l false else s)
    else if e.pkts.any pktBad then .next (s.setLink l k.epochFailed)
    else
      let s := (s.setLink l (k.verified e s.tb)).flush l
      let s := if e.retrainReq then s.replay l else s
      .next (e.pkts.foldl (fun s p => s.linkPacket l p) s)

/-- REPLAY_TIMEOUT (R267). -/
def execReplayTimeout (l : LinkNo) (t : Word64) (s : State) : Host.Outcome State Fault Refusal :=
  let s := s.at t
  let k := s.link l
  if k.st = .up ∧ windowOver k.progress 2000 s.tb = true then .next (s.replay l) else .next s

/-- LINK_RETRAIN (R268): after 8 replays or 50 µs without progress, or at the receiver's request; the
fourth within 1 s takes the link DOWN. -/
def execLinkRetrain (l : LinkNo) (receiverRequest : Bool) (t : Word64) (s : State) :
    Host.Outcome State Fault Refusal :=
  let s := s.at t
  let k := s.link l
  let slow := windowOver k.progress 50000 s.tb
  if k.st ≠ .up ∨ (k.stuck < 8 ∧ slow = false ∧ receiverRequest = false) then .next s
  else
    let cause : Nat := if 8 ≤ k.stuck then 0 else if slow then 1 else 2
    let recent := (k.recent.filter fun x => !windowOver x 1000000000 s.tb) ++ [s.tb]
    let s := s.setLink l
      { k.restart (k.seqNow s.tb) s.tb with st := .retrain, retrains := satInc k.retrains, recent := recent }
    let s := s.fault 0x0302 none (BitVec.ofNat 32 (l.val + 128 * cause)) 0
    .next (if 4 ≤ recent.length then s.linkFails l else s)

/-- A retrain completes: UP, and what is kept is replayed, then what was held is sent (R268, Table 9.6). -/
def State.retrainUp (s : State) (l : LinkNo) : State :=
  let k := s.link l
  let s := s.setLink l { k with st := .up, firstAfter := true, stuck := 0, progress := s.tb, epochFails := 0,
                                reqRetrain := false, latched := none, txBase := k.txAck, txStart := s.tb }
  (s.sendAll (k.kept.map fun x => Out.linkPkt l x.2)).flush l

/-- LINK_RETRAIN_DONE (R259, R268, Table 9.6). -/
def execLinkRetrainDone (l : LinkNo) (obs : LaneObs) (t : Word64) (s : State) :
    Host.Outcome State Fault Refusal :=
  let s := s.at t
  let k := s.link l
  if k.st ≠ .retrain then .next s
  else if obs.ok = false ∨ k.latched = some false then .next (s.linkFails l)
  else
    let s := s.steer l obs.best
    if popCount (s.link l).lanes < 2 then .next (s.linkFails l)
    else .next (s.retrainUp l)

/-- LINK_DOWN (R277, R420): during a transition the request is latched. -/
def execLinkDown (l : LinkNo) (s : State) : Host.Outcome State Fault Refusal :=
  let k := s.link l
  match k.st with
  | .absent => .next s
  | .down => .next s
  | .up => .next (s.linkFails l)
  | _ => .next (s.setLink l { k with latched := some false })

/-- A packet on a substitute link belongs to a flow of link l (R276, R277). -/
def State.flowOf (s : State) (l : LinkNo) (p : LinkPkt) : Bool :=
  decide ((s.modLink l fun k => { k with moved := false }).linkTo p.srcDev p.dstDev p.addr (s.link l).owner = some l)

/-- Every packet sent or held on a substitute link for the flows of link l has been acknowledged (R277). -/
def State.flowsDone (s : State) (l : LinkNo) : Bool :=
  (List.finRange 96).all fun m =>
    decide (m = l) || ((s.link m).kept.map (·.2) ++ (s.link m).txQ).all fun p => !s.flowOf l p

/-- LINK_FLOWS_RETURN (R277): a link that is UP again takes back its flows once their packets on other links are
acknowledged. -/
def execLinkFlowsReturn (l : LinkNo) (s : State) : Host.Outcome State Fault Refusal :=
  let k := s.link l
  if k.st = .up ∧ k.moved = true ∧ s.flowsDone l = true then .next (s.setLink l { k with moved := false })
  else .next s

/-- LANE_SER_WINDOW (R259): a lane above 10^−5 is marked for a spare at the next retrain. -/
def execLaneSerWindow (l : LinkNo) (lane : Fin 4) (rx bad : Bool) (s : State) :
    Host.Outcome State Fault Refusal :=
  let k := s.link l
  if bad = false ∨ k.st = .absent ∨ k.st = .down ∨ k.badLanes.contains (lane, rx) = true then .next s
  else .next (s.setLink l { k with badLanes := k.badLanes ++ [(lane, rx)] })

end Sys2Proof.Machine
end

