-- ==== Sys2Proof/Machine/Reeve.lean ====
section
/-!
DEFINITION. Machine/Reeve.lean: the mailbox commands of the reeve: attestation, debug unlock, binding,
firmware update and recovery (16_security.md).
-/

namespace Sys2Proof.Machine

/-! ### The mailbox (R449) -/

/-- A mailbox command ends with a status and its output (R449). -/
def State.mboxDone (s : State) (status : BitVec 3) (bs : List Byte) : State :=
  { s with sec := { s.sec with status := status, outBuf := bytesTab bs,
                               outLen := BitVec.ofNat 17 bs.length, busy := false } }

/-- A command that recovery does not allow is answered INVALID inside it (Table 16.6); without power the
reeve answers nothing. DEDUCED, log entry 70. -/
def State.mailbox (s : State) (f : State → State) : Host.Outcome State Fault Refusal :=
  if s.board.alwaysOn = false then .next s
  else if s.sec.recovery then .next (s.mboxDone 2 [])
  else .next (f s)

/-! ### Attestation (R448, Table 16.5) -/

/-- The bytes over which PEER_DIGEST is taken (Table 16.5). -/
def State.peerBytes (s : State) (h : Hamlet) : List Byte :=
  h.linkList.flatMap fun l =>
    let k := s.link l
    leBytes 1 l.val ++ leBytes 2 k.peerDev.toNat ++ bytes256 k.peerDigest ++
    leBytes 1 (if k.confirmed then 1 else 0)

/-- The hamlet part of a report body, 0x0C0 to 0x11F: zeros in device scope. -/
def State.attestHamlet (s : State) (scope : Option HamletNo) : List Byte :=
  match scope with
  | none => zeros 96
  | some n =>
    let h := s.hamlet n
    leBytes 1 n.val ++ leBytes 1 ((if h.confidential then 1 else 0) + (if h.hostEnc then 2 else 0)) ++
    zeros 2 ++ leBytes 4 h.cores.toNat ++ leBytes 4 h.pageFirst.toNat ++ leBytes 4 h.pageCount.toNat ++
    leBytes 2 h.bellFirst.toNat ++ leBytes 2 h.bellCount.toNat ++ leBytes 2 h.tallyPages.toNat ++ zeros 2 ++
    leBytes 12 h.links.toNat ++ zeros 4 ++ leBytes 16 (s.ownerLabel (some n)).toNat ++ zeros 8 ++
    bytes256 (Config.shake256 (s.peerBytes h))

/-- FLAGS of a report. -/
def State.attestFlags (s : State) (scope : Option HamletNo) (key : Bool) : Nat :=
  (if scope.isSome then 1 else 0) + (if key then 2 else 0) + (if s.sec.debug ≠ 0 then 4 else 0) +
  (if s.host.degraded then 8 else 0) + (if s.confidential then 16 else 0)

/-- REPAIR_DIGEST: over the journal's field map, four bytes an entry. DEDUCED, log entry 70. -/
def State.repairDigest (s : State) : BitVec 256 :=
  Config.shake256 (s.jrnl.fieldMap.flatMap fun k => leBytes 4 k)

/-- The report body of 1,856 B (Table 16.5). DESIGN CHOICE, log entry 5. -/
def State.attestBody (s : State) (scope : Option HamletNo) (nonce : BitVec 256) (kem : List Byte)
    (key : Bool) : List Byte :=
  [0x4B, 0x59, 0x41, 0x54] ++ leBytes 2 1 ++ leBytes 2 (s.attestFlags scope key) ++ leBytes 4 1856 ++
  zeros 4 ++ bytes256 nonce ++ bytes256 s.fuses.identity ++ leBytes 16 s.fuses.platform.toNat ++
  bytes256 s.sec.fwDigest ++ leBytes 4 s.sec.imageSvn.toNat ++ leBytes 4 s.fuses.svn.toNat ++
  leBytes 4 s.fuses.romVersion.toNat ++ leBytes 1 s.fuses.variant.toNat ++ leBytes 1 s.role.toNat ++
  leBytes 1 s.bound ++ zeros 1 ++ leBytes 2 s.id.dev.toNat ++ zeros 2 ++ leBytes 4 s.poweredNow.toNat ++
  leBytes 8 s.tb.toNat ++ bytes256 s.repairDigest ++ s.attestHamlet scope ++ kem

/-- KEM_CT: the ciphertext of an exchange that makes key n, or zeros. -/
def kemBytes (key : Option (BitVec 256)) (n : Nat) : List Byte :=
  match key with
  | some ek => (List.range 1568).map fun i => Config.kemByte ek n i
  | none => zeros 1568

/-- The scope an ATTEST names: none when it is no scope or its hamlet does not exist (R448). -/
def State.attestScope (s : State) (scope : Byte) : Option (Option HamletNo) :=
  if scope = 0 then some none
  else if h : scope.toNat - 1 < 8 then
    if (s.hamlet ⟨scope.toNat - 1, h⟩).exists_ then some (some ⟨scope.toNat - 1, h⟩) else none
  else none

/-- An encapsulation key is allowed only for a hamlet with HOST_ENC (R448). -/
def State.keyAllowed (s : State) (scope : Option HamletNo) : Bool :=
  match scope with
  | some h => (s.hamlet h).hostEnc
  | none => false

/-- A report is signed with leaf n; a key exchange gives the hamlet new host keys (R439, R448). DEDUCED, log entry 70. -/
def State.attestWith (s : State) (scope : Option HamletNo) (nonce : BitVec 256)
    (key : Option (BitVec 256)) (leaf : Nat) : State :=
  let k := s.newKey
  let s : State := match key, scope with
    | some _, some h => k.1.modHamlet h fun h => { h with hostKey := some k.2 }
    | _, _ => s
  let body := s.attestBody scope nonce (kemBytes key k.2) key.isSome
  s.mboxDone 0 (body ++ Config.sign leaf body)

/-- ATTEST (R448, R439): a report needs a leaf, and a key exchange the DRBG. DESIGN CHOICE, log entry 5. -/
def execAttest (scope : Byte) (nonce : BitVec 256) (key : Option (BitVec 256)) (s : State) :
    Host.Outcome State Fault Refusal :=
  s.mailbox fun s =>
    match s.attestScope scope with
    | none => s.mboxDone 2 []
    | some sc =>
      if key.isSome ∧ s.keyAllowed sc = false then s.mboxDone 2 []
      else if key.isSome ∧ s.sec.entropyOk = false then s.mboxDone 5 []
      else
        let r := s.takeLeaf
        match r.2 with
        | none => r.1.mboxDone 5 []
        | some leaf => r.1.attestWith sc nonce key leaf

/-- CERT_READ (R432). -/
def execCertRead (s : State) : Host.Outcome State Fault Refusal :=
  s.mailbox fun s => s.mboxDone 0 Config.certificate

/-! ### Debug (R447) -/

/-- CHALLENGE: a new challenge replaces the last (R434, R447). DESIGN CHOICE, log entry 5; DEDUCED, log entry 70. -/
def execChallenge (s : State) : Host.Outcome State Fault Refusal :=
  s.mailbox fun s =>
    if s.sec.entropyOk = false then s.mboxDone 5 []
    else
      let c := Config.drbg s.free
      let s := s.drew
      ({ s with sec := { s.sec.drawn with challenge := some c } }).mboxDone 0
        (bytes256 c)

/-- A token holds: its signature, Platform ID, challenge, level and expiry (R447). -/
def State.tokenHolds (s : State) (platform : BitVec 128) (chal : BitVec 256) (level : BitVec 2)
    (expiry : Word32) (sigOk : Bool) : Bool :=
  sigOk && decide (platform = s.fuses.platform) && decide (s.sec.challenge = some chal) &&
  (decide (level = 1) || decide (level = 2)) && decide (s.poweredNow < expiry)

/-- DEBUG_UNLOCK: a challenge serves at most one token (R447). DEDUCED, log entry 70. -/
def execDebugUnlock (platform : BitVec 128) (chal : BitVec 256) (level : BitVec 2) (expiry : Word32)
    (sigOk : Bool) (s : State) : Host.Outcome State Fault Refusal :=
  s.mailbox fun s =>
    if s.confidential then s.mboxDone 3 []
    else
      let ok := s.tokenHolds platform chal level expiry sigOk
      let s := { s with sec := { s.sec with challenge := none } }
      if ok then
        (({ s with sec := { s.sec with debug := level, debugUntil := expiry } }).fault 0x0708 none
          (level.setWidth 32) (expiry.setWidth 64)).mboxDone 0 []
      else s.mboxDone 4 []

/-- DEBUG_EXPIRY: debug is locked again (R447). -/
def execDebugExpiry (s : State) : Host.Outcome State Fault Refusal :=
  if s.sec.debug = 0 ∨ s.poweredNow < s.sec.debugUntil then .next s
  else .next { s with sec := { s.sec with debug := 0, debugUntil := 0 } }

/-! ### Binding and the DRBG -/

/-- HAMLET_BIND: the hamlet's links start confirmation (R438). -/
def execHamletBind (h : HamletNo) (binding : BitVec 256) (s : State) : Host.Outcome State Fault Refusal :=
  s.mailbox fun s =>
    if (s.hamlet h).exists_ = false then s.mboxDone 2 []
    else
      let s := s.modHamlet h fun v => { v with binding := binding }
      ((s.hamlet h).linkList.foldl State.startConfirm s).mboxDone 0 []

/-- DRBG_RESEED: a failed health test stops the DRBG (R434). -/
def execDrbgReseed (healthOk : Bool) (failedTest : BitVec 4) (s : State) :
    Host.Outcome State Fault Refusal :=
  if s.board.alwaysOn = false then .next s
  else if healthOk then .next { s with sec := { s.sec with entropyOk := true, drbgUses := 0 } }
  else
    .next (({ s with sec := { s.sec with entropyOk := false } }).fault 0x0705 none
      (failedTest.setWidth 32) 0)

/-! ### Firmware (R428, R430, R431) -/

/-- Bytes of a full image: header, body and signature (R428). -/
def imageMax : Nat := 62917636

/-- Bytes of the firmware region (Table 17.3). -/
def regionBytes : Nat := 67108864

/-- The pages of an image are VALID and outside every hamlet (R431). -/
def State.imagePages (s : State) (addr : BitVec 41) (len : Nat) : Bool :=
  let a := addr.toNat / 8388608
  let b := (addr.toNat + len - 1) / 8388608
  (List.range (b + 1 - a)).all fun i =>
    decide (a + i < s.pageCap) && (s.page (a + i)).valid && (s.page (a + i)).owner.isNone

/-- FW_UPDATE: an image that verifies is written over the region (R431). DEDUCED, log entry 55. -/
def execFwUpdate (addr : BitVec 41) (len : Nat) (obs : FwObs) (s : State) :
    Host.Outcome State Fault Refusal :=
  s.mailbox fun s =>
    if s.sec.fwWriting then s.mboxDone 1 []
    else if len = 0 ∨ imageMax < len ∨ s.imagePages addr len = false then s.mboxDone 2 []
    else if (bootFail obs.present obs.sigOk obs.digestOk obs.svn s.fuses.svn).isSome then s.mboxDone 4 []
    else
      ({ s with sec := { s.sec with fwWriting := true, fwPending := some obs.svn,
                                    fwRegion := bytesTab (s.ddrRead addr.toNat len) } }).mboxDone 0 []

/-- FW_WRITE_DONE: the region holds the new image (R431). DEDUCED, log entry 55. -/
def execFwWriteDone (s : State) : Host.Outcome State Fault Refusal :=
  if s.sec.fwWriting = false ∨ s.flashHeld then .next s
  else
    let v := s.sec.fwPending.getD 0
    .next (({ s with sec := { s.sec with fwWriting := false, fwPending := none } }).fault 0x0702 none
      (v.setWidth 32) 0)

/-! ### Recovery sessions (R430): ports 0 HP0, 1 HP1, 2 management -/

/-- Ticks after which a session with no command is released. -/
def sessionTicks : Nat := 60000000000

/-- A session that has had no command for 60 s is released. -/
def State.dropSession (s : State) : State :=
  match s.sec.session with
  | some p => if windowOver p.2 sessionTicks s.tb then { s with sec := { s.sec with session := none } } else s
  | none => s

/-- The session belongs to a port, with a command now. -/
def State.holdSession (s : State) (port : Fin 3) : State :=
  { s with sec := { s.sec with session := some (port, s.tb) } }

/-- The status a port gets before its command runs: 2 outside recovery, 1 while another port holds the
session, and 2 for a command with no session of its own; 0 when it runs. DEDUCED, log entry 71. -/
def State.sessionStatus (s : State) (port : Fin 3) (begins : Bool) : BitVec 3 :=
  if s.sec.recovery = false then 2
  else
    match s.sec.session with
    | some p => if p.1 = port then 0 else 1
    | none => if begins then 0 else 2

/-- RECOVERY_BEGIN on a port: the state and the status. -/
def State.sessionBegin (s : State) (port : Fin 3) : State × BitVec 3 :=
  let s := s.dropSession
  let st := s.sessionStatus port true
  if st = 0 then (s.holdSession port, 0) else (s, st)

/-- RECOVERY_WRITE on a port: a chunk of at most max bytes within the region. DEDUCED, log entry 71. -/
def State.sessionWrite (s : State) (port : Fin 3) (off max : Nat) (chunk : List Byte) : State × BitVec 3 :=
  let s := s.dropSession
  let st := s.sessionStatus port false
  if st ≠ 0 then (s, st)
  else
    let s := s.holdSession port
    if max < chunk.length ∨ regionBytes < off + chunk.length then (s, 2)
    else ({ s with sec := { s.sec with fwRegion := tput (fun _ => 0) s.sec.fwRegion off chunk } }, 0)

/-- RECOVERY_END on a port: the region is verified; on success the device resets. DEDUCED, log entry 71. -/
def State.sessionEnd (s : State) (port : Fin 3) (obs : FwObs) : State × BitVec 3 :=
  let s := s.dropSession
  let st := s.sessionStatus port false
  if st ≠ 0 then (s, st)
  else
    let s := { s with sec := { s.sec with session := none } }
    match bootFail obs.present obs.sigOk obs.digestOk obs.svn s.fuses.svn with
    | some _ => (s, 4)
    | none => (s.beginReset, 0)

/-- A host port as a session's port. -/
def hostPort (port : Bool) : Fin 3 := if port then 1 else 0

/-- A recovery command on the mailbox. -/
def State.recoveryBox (s : State) (f : State → State × BitVec 3) : Host.Outcome State Fault Refusal :=
  if s.board.alwaysOn = false then .next s
  else .next ((f s).1.mboxDone (f s).2 [])

/-- RECOVERY_BEGIN. -/
def execRecoveryBegin (port : Bool) (t : Word64) (s : State) : Host.Outcome State Fault Refusal :=
  (s.at t).recoveryBox fun s => s.sessionBegin (hostPort port)

/-- RECOVERY_WRITE. -/
def execRecoveryWrite (port : Bool) (off : BitVec 26) (chunk : List Byte) (t : Word64) (s : State) :
    Host.Outcome State Fault Refusal :=
  (s.at t).recoveryBox fun s => s.sessionWrite (hostPort port) off.toNat 61440 chunk

/-- RECOVERY_END. -/
def execRecoveryEnd (port : Bool) (obs : FwObs) (t : Word64) (s : State) :
    Host.Outcome State Fault Refusal :=
  (s.at t).recoveryBox fun s => s.sessionEnd (hostPort port) obs

/-- RECOVERY_SESSION_TIMEOUT. -/
def execRecoverySessionTimeout (t : Word64) (s : State) : Host.Outcome State Fault Refusal :=
  .next (s.at t).dropSession

end Sys2Proof.Machine
end

