-- ==== Sys2Proof/Machine/Management.lean ====
section
/-!
DEFINITION. Machine/Management.lean: the management port and the module's sensors (17_bringup.md section
17.6, 19_electrical.md section 19.7), the device number (18_registers.md R480) and the folding windows of
fault records (06_checking.md R188).
-/

namespace Sys2Proof.Machine

/-! ### Messages and responses (R467, R468) -/

/-- A complete request arrived and a response with a content waits for the bus owner. DESIGN CHOICE, log entry 80. -/
def State.mctpAnswer (s : State) (bs : List Byte) : State :=
  { s with board := { s.board with assembling := none, response := some (s.tb, bs) } }

/-- The management port answers from step 1 on (R467). -/
def State.managed (s : State) (f : State → State) : Host.Outcome State Fault Refusal :=
  if s.board.alwaysOn = false then .next s else .next (f s)

/-- SET_ENDPOINT_ID: the bus owner assigns it; 0x00 and 0xFF are no endpoint IDs. DESIGN CHOICE, log entry 80. -/
def execSetEndpointId (eid : Byte) (s : State) : Host.Outcome State Fault Refusal :=
  s.managed fun s =>
    if eid = 0x00 ∨ eid = 0xFF then s.mctpAnswer [0x02]
    else ({ s with board := { s.board with eid := eid } }).mctpAnswer [0, 0, eid, 0]

/-- GET_ENDPOINT_ID. -/
def execGetEndpointId (s : State) : Host.Outcome State Fault Refusal :=
  s.managed fun s => s.mctpAnswer [0, s.board.eid, 0, 0]

/-- n free bytes. DESIGN CHOICE, log entry 3. -/
def State.freeBytes (s : State) (n : Nat) : List Byte :=
  (List.range n).map fun i => Config.freeByte (s.free + i)

/-- GET_MCTP_VERSION_SUPPORT: the version of a supported message type is a free value. DESIGN CHOICE, log entry 80. -/
def execGetMctpVersionSupport (msgType : Byte) (s : State) : Host.Outcome State Fault Refusal :=
  s.managed fun s =>
    if msgType = 0x00 ∨ msgType = 0x01 ∨ msgType = 0x7F ∨ msgType = 0xFF then
      ({ s with free := s.free + 4 }).mctpAnswer ([0, 1] ++ s.freeBytes 4)
    else s.mctpAnswer [0x80]

/-- Verified firmware runs (R428, R467). -/
def State.firmwareRuns (s : State) : Bool := s.fusesRead

/-- GET_MESSAGE_TYPE_SUPPORT: PLDM once verified firmware runs (R467). -/
def execGetMessageTypeSupport (s : State) : Host.Outcome State Fault Refusal :=
  s.managed fun s => s.mctpAnswer (if s.firmwareRuns then [0, 3, 0x00, 0x01, 0x7F] else [0, 2, 0x00, 0x7F])

/-- GET_VENDOR_DEFINED_MESSAGE_SUPPORT: one set, of IANA enterprise number 0x0000_B6F1. -/
def execGetVendorDefinedMessageSupport (selector : Byte) (s : State) : Host.Outcome State Fault Refusal :=
  s.managed fun s =>
    if selector = 0 then
      ({ s with free := s.free + 2 }).mctpAnswer ([0, 0xFF, 0x01, 0x00, 0x00, 0xB6, 0xF1] ++ s.freeBytes 2)
    else s.mctpAnswer [0x02]

/-- MCTP_ASSEMBLY_TIMEOUT (R468): a message whose first packet came at first is discarded 100 ms later;
until then it is being assembled. -/
def execMctpAssemblyTimeout (first t : Word64) (s : State) : Host.Outcome State Fault Refusal :=
  (s.at t).managed fun s =>
    { s with board := { s.board with
        assembling := if windowOver first 100000000 s.tb then none else some first } }

/-- MCTP_RESPONSE_TIMEOUT (R468): a response not read within 1 s is discarded. -/
def execMctpResponseTimeout (t : Word64) (s : State) : Host.Outcome State Fault Refusal :=
  let s := s.at t
  match s.board.response with
  | some r =>
    if windowOver r.1 1000000000 s.tb then .next { s with board := { s.board with response := none } }
    else .next s
  | none => .next s

/-! ### Sensors (R495, Table 19.10) -/

/-- Level of a reading: 0 normal, 1 warning, 2 critical, 3 fatal. -/
inductive Level where
  | normal | warning | critical | fatal
deriving DecidableEq, Repr

/-- Level against rising thresholds; a reading equal to a threshold is at it. -/
def levelUp (warn crit : Int) (fatal : Option Int) (v : Int) : Level :=
  match fatal with
  | some f => if f ≤ v then .fatal else if crit ≤ v then .critical else if warn ≤ v then .warning else .normal
  | none => if crit ≤ v then .critical else if warn ≤ v then .warning else .normal

/-- Level of a sensor's reading (Table 19.10). DESIGN CHOICE, log entry 80. -/
def State.levelOf (s : State) (sensor : Nat) (v : Int) : Level :=
  match sensor with
  | 1 =>
    if v ≤ 400 ∨ 600 ≤ v then .critical else if v ≤ 440 ∨ 580 ≤ v then .warning else .normal
  | 2 => if (s.pwr.limitW.toNat : Int) ≤ v then .warning else .normal
  | 3 => levelUp 2000 2500 none v
  | 4 => levelUp 2000 2500 none v
  | 5 => levelUp 95 105 (some 115) v
  | 6 => levelUp 380 400 (some 450) v
  | 7 => levelUp 600 650 (some 700) v
  | 8 => levelUp 90 100 (some 105) v
  | 9 => levelUp 110 120 (some 125) v
  | _ => .normal

/-- The last reading of a sensor. -/
def State.sensor (s : State) (k : Nat) : Option Int := tget (fun _ => none) s.board.sensors k

/-- A sensor is at its critical or fatal threshold. -/
def State.sensorCritical (s : State) (k : Nat) : Bool :=
  match s.sensor k with
  | some v =>
    (match s.levelOf k v with
     | .critical => true
     | .fatal => true
     | _ => false)
  | none => false

/-- ALERT_N is asserted (Table 19.7). -/
def State.alertPin (s : State) : Bool :=
  s.sec.recovery || s.host.lost || (List.range 10).any s.sensorCritical

/-- THERMTRIP_N is asserted (Table 19.7). -/
def State.thermtripPin (s : State) : Bool := s.board.thermtrip

/-- SENSOR_UPDATE (R495): a numeric sensor takes its reading; sensor 2 is PWR_STATUS.INPUT_W. -/
def execSensorUpdate (sensor : Byte) (reading : Int) (s : State) : Host.Outcome State Fault Refusal :=
  if s.board.alwaysOn = false ∨ sensor.toNat = 0 ∨ 9 < sensor.toNat then .next s
  else
    let s := { s with board := { s.board with
      sensors := tset (fun _ => none) s.board.sensors sensor.toNat (some reading) } }
    .next (if sensor = 2 then { s with pwr := { s.pwr with inputW := satNat 16 reading.toNat } } else s)

/-- Device state, sensor 11 (Table 19.10). DESIGN CHOICE, log entry 80. -/
def State.deviceState (s : State) : Nat :=
  if s.sec.recovery then 4
  else if s.board.stage = 12 then 5
  else if s.host.lost then 6
  else if s.host.ready then (if s.host.degraded then 3 else 2)
  else if s.board.held.isSome then 0
  else 1

/-- The reading a PLDM request sees: none while the sensor is unavailable (R495). -/
def State.pldmReading (s : State) (k : Nat) : Option Int :=
  if k = 11 then some s.deviceState
  else if k = 12 then some s.board.cause.toNat
  else if 5 ≤ k ∧ s.host.ready = false then none
  else if k = 10 then some s.bound
  else s.sensor k

/-- A level as the byte of a PLDM response. -/
def Level.byte : Level → Byte
  | .normal => 1
  | .warning => 2
  | .critical => 3
  | .fatal => 4

/-- PLDM_SENSOR_READ (R495): completion code, operational state (0 enabled, 2 unavailable), level and the
reading in four bytes. DESIGN CHOICE, log entry 80. -/
def execPldmSensorRead (sensor : Byte) (s : State) : Host.Outcome State Fault Refusal :=
  s.managed fun s =>
    let k := sensor.toNat
    if k = 0 ∨ 12 < k then s.mctpAnswer [0x80]
    else
      match s.pldmReading k with
      | some v => s.mctpAnswer ([0, 0, (s.levelOf k v).byte] ++ leBytes 4 (BitVec.ofInt 32 v).toNat)
      | none => s.mctpAnswer ([0, 2, 0] ++ zeros 4)

/-! ### Effecters (R496, Table 19.11) -/

/-- A module input limit within the bounds of PWR_CTL.LIMIT_W (Table 13.11). -/
def State.clampW (s : State) (w : Nat) : BitVec 16 :=
  if w < 3000 then 3000 else if s.maxWatts.toNat < w then s.maxWatts else BitVec.ofNat 16 w

/-- POWER_LIMIT: refused while PWR_CTL.LOCK is 1, and before firmware runs (R467). -/
def execPowerLimit (watts : Word32) (s : State) : Host.Outcome State Fault Refusal :=
  s.managed fun s =>
    if s.firmwareRuns = false ∨ s.pwr.lock then s.mctpAnswer [0x01]
    else ({ s with pwr := { s.pwr with limitW := s.clampW watts.toNat } }).mctpAnswer [0]

/-- WARM_RESET: refused before READY; during a reset it joins (R496, R420). DESIGN CHOICE, log entry 80. -/
def execPldmWarmReset (v : Byte) (s : State) : Host.Outcome State Fault Refusal :=
  s.managed fun s =>
    if v ≠ 1 ∨ (s.host.ready = false ∧ s.host.resetting = false) then s.mctpAnswer [0x01]
    else s.beginReset.mctpAnswer [0]

/-! ### Vendor commands (Table 17.5) -/

/-- GET_BOOT_STATUS. -/
def execGetBootStatus (s : State) : Host.Outcome State Fault Refusal :=
  s.managed fun s =>
    s.mctpAnswer (leBytes 4 s.bootWord.toNat ++ leBytes 4 s.jrnlWord.toNat ++ leBytes 4 s.hstStatus.toNat)

/-- SET_BOOT_MODE (R454): a CONFIG record of BOOT_MODE is journaled. DESIGN CHOICE, log entry 80. -/
def execSetBootMode (mode : Bool) (s : State) : Host.Outcome State Fault Refusal :=
  s.managed fun s =>
    let s := s.journal (.config 1 (if mode then 1 else 0))
    ({ s with jrnl := { s.jrnl with quick := mode } }).mctpAnswer []

/-- A recovery command on the management port: the response is its status. -/
def State.recoveryPort (s : State) (f : State → State × BitVec 3) : Host.Outcome State Fault Refusal :=
  s.managed fun s => (f s).1.mctpAnswer [(f s).2.setWidth 8]

/-- RECOVERY_BEGIN over the management port (R430). -/
def execMgmtRecoveryBegin (t : Word64) (s : State) : Host.Outcome State Fault Refusal :=
  (s.at t).recoveryPort fun s => s.sessionBegin 2

/-- RECOVERY_WRITE over the management port: a chunk of at most 4 KiB. -/
def execMgmtRecoveryWrite (off : BitVec 26) (chunk : List Byte) (t : Word64) (s : State) :
    Host.Outcome State Fault Refusal :=
  (s.at t).recoveryPort fun s => s.sessionWrite 2 off.toNat 4096 chunk

/-- RECOVERY_END over the management port. -/
def execMgmtRecoveryEnd (obs : FwObs) (t : Word64) (s : State) : Host.Outcome State Fault Refusal :=
  (s.at t).recoveryPort fun s => s.sessionEnd 2 obs

/-! ### The system device number (R480) -/

/-- Every link is DOWN or ABSENT, and no hamlet exists. -/
def State.numberFree (s : State) : Bool :=
  ((List.finRange 96).all fun l => match (s.link l).st with
    | .absent => true
    | .down => true
    | _ => false) && (List.finRange 8).all fun h => !(s.hamlet h).exists_

/-- A write of ID_DEVNUM.DEVICE: it takes effect at once, or at the next warm reset; the latest write
wins, and the number is journaled. DEDUCED, log entry 75. -/
def State.writeDevnum (s : State) (v : BitVec 12) : State :=
  if s.id.lock then s
  else
    let s := s.journal (.config 2 (v.setWidth 64))
    let s := { s with jrnl := { s.jrnl with devNum := some v } }
    if s.numberFree then
      { s with id := { s.id with dev := v, valid := true, pending := false, next := 0 } }
    else { s with id := { s.id with next := v, pending := true } }

/-- ID_DEVNUM_WRITE. DEDUCED, log entry 75. -/
def execIdDevnumWrite (_acc : Accessor) (v : Word32) (s : State) : Host.Outcome State Fault Refusal :=
  if s.board.alwaysOn = false then .next s else .next (s.writeDevnum (v.extractLsb' 0 12))

/-! ### Folding windows (R188) -/

/-- The site of a folded unit: ECC_CORRECTED folds per store of a site, and the classes of margins and
thermal caps per region or domain. DEDUCED, log entry 76. -/
def foldSite (cls : BitVec 16) (unit : Nat) : Option SiteNo :=
  let n := if cls = 0x0008 then unit / 8
    else if cls = 0x0401 ∨ cls = 0x0402 ∨ cls = 0x0508 then unit
    else 40
  if h : n < 40 then some ⟨n, h⟩ else none

/-- One record for a window's events, carrying their count. DEDUCED, log entry 76. -/
def State.foldRecord (s : State) (cls : BitVec 16) (unit : Nat) (v : Nat × Word32 × Word64) : State :=
  s.record { s.plainRec cls (foldSite cls unit) v.2.1 v.2.2 with count := satNat 32 v.1 }

/-- FAULT_RECORD_WINDOW_END: a class's 1 s windows end. DEDUCED, log entry 76. -/
def execFaultRecordWindowEnd (cls : BitVec 16) (t : Word64) (s : State) :
    Host.Outcome State Fault Refusal :=
  let s := s.at t
  let due := s.flt.folds.filter fun p => decide (p.1 / 4096 = cls.toNat)
  let s := due.foldl
    (fun s p => match p.2 with | some v => s.foldRecord cls (p.1 % 4096) v | none => s) s
  .next { s with flt := { s.flt with
    folds := s.flt.folds.filter fun p => decide (p.1 / 4096 ≠ cls.toNat) } }

end Sys2Proof.Machine
end

