-- ==== Sys2Proof/Machine/Rings.lean ====
section
/-!
DEFINITION. Machine/Rings.lean: doorbells, rings, the fetch and the completion of descriptors
(11_host_interface.md, sections 11.2 and 11.3).
-/

namespace Sys2Proof.Machine

/-- SQ_TAIL (R315). -/
def execSqTail (r : RingNo) (v : Word32) (s : State) : Host.Outcome State Fault Refusal :=
  let g := s.ring r
  let n := v.extractLsb' 0 16
  if s.host.ready = false then .next s
  else if g.enable = false then .next s.dbIgnore
  else if g.sqSize ≤ n.toNat then .next (s.dbError r)
  else .next (s.setRing r { g with sqTail := n })

/-- CQ_HEAD (R315): a head that would free entries not yet written is an error. -/
def execCqHead (r : RingNo) (v : Word32) (s : State) : Host.Outcome State Fault Refusal :=
  let g := s.ring r
  let n := v.extractLsb' 0 16
  if s.host.ready = false then .next s
  else if g.enable = false then .next s.dbIgnore
  else if g.cqSize ≤ n.toNat then .next (s.dbError r)
  else if (g.cqTail.toNat + g.cqSize - g.cqHead.toNat) % g.cqSize <
          (n.toNat + g.cqSize - g.cqHead.toNat) % g.cqSize then .next (s.dbError r)
  else .next (s.setRing r { g with cqHead := n })

/-- The fields of HST_RING_CFG other than ENABLE (Table 11.11). -/
def Ring.config (g : Ring) (w : Word32) : Ring :=
  { g with irqEn := w.getLsbD 30, port := w.getLsbD 29, version := w.extractLsb' 22 4,
           cq := ⟨(w.extractLsb' 10 8).toNat, (w.extractLsb' 10 8).isLt⟩,
           sqLog2 := w.extractLsb' 5 5, cqLog2 := w.extractLsb' 0 5 }

/-- The configuration checks of R317. -/
def State.ringOk (s : State) (r : RingNo) : Bool :=
  let g := s.ring r
  decide (g.version = 1) && decide (4 ≤ g.sqLog2.toNat) && decide (g.sqLog2.toNat ≤ 16) &&
  decide (4 ≤ g.cqLog2.toNat) && decide (g.cqLog2.toNat ≤ 16) &&
  decide (g.sqBase.extractLsb' 0 12 = 0) && decide (g.cqBase.extractLsb' 0 12 = 0) &&
  (decide (g.cq = r) || ((s.ring g.cq).enable && decide ((s.ring g.cq).owner = g.owner)))

/-- An enable is checked and carried out (R317). -/
def State.enableRing (s : State) (r : RingNo) : State :=
  if s.ringOk r then
    s.modRing r fun g =>
      { g with enable := true, active := true, sqHead := 0, sqTail := 0, cqHead := 0, cqTail := 0,
               phase := true, err := 0, stopped := false }
  else s.modRing r fun g => { g with err := 1 }

/-- RING_ENABLE (R317, R332, R337, R420): a write of HST_RING_CFG with ENABLE 1. -/
def execRingEnable (r : RingNo) (cfg : Word32) (s : State) : Host.Outcome State Fault Refusal :=
  let g := s.ring r
  if s.host.ready = false ∨ g.owner.isSome then .next s
  else if g.active then
    if g.enable then .next s else .next (s.setRing r { g with latched := some (some cfg) })
  else .next ((s.setRing r (g.config cfg)).enableRing r)

/-- Another enabled ring names this ring's CQ (R317). DEDUCED, log entry 51. -/
def State.cqInUse (s : State) (r : RingNo) : Bool :=
  s.host.rings.any fun p => decide (p.1 ≠ r.val) && p.2.enable && decide (p.2.cq = r)

/-- RING_DISABLE (R317, R337, R420): a write of HST_RING_CFG with ENABLE 0. -/
def execRingDisable (r : RingNo) (s : State) : Host.Outcome State Fault Refusal :=
  let g := s.ring r
  if s.host.ready = false ∨ g.owner.isSome then .next s
  else if g.enable = false then
    .next (if g.active then s.setRing r { g with latched := none } else s)
  else if s.cqInUse r then .next (s.setRing r { g with err := 4 })
  else .next (s.setRing r { g with enable := false, active := decide (g.outstanding ≠ 0) })

/-- RING_INACTIVE (R317, R420): the last entry of a disabled ring is written; a latched enable follows. -/
def execRingInactive (r : RingNo) (s : State) : Host.Outcome State Fault Refusal :=
  let g := s.ring r
  if g.enable ∨ g.active = false ∨ g.outstanding ≠ 0 then .next s
  else
    let s := s.setRing r { g with active := false, latched := none }
    match g.latched with
    | some (some _) => .next (s.enableRing r)
    | _ => .next s

/-- The header of a descriptor is valid (Table 11.2, R322, R323). -/
def Desc.headOk (d : Desc) : Bool :=
  let w := wordAt d.words 0
  decide (w.extractLsb' 26 6 = 0) && decide (w.extractLsb' 9 7 = 0) &&
  decide ((w.extractLsb' 16 10).toNat ≤ 600) && decide (1 ≤ d.cls.toNat) && decide (d.cls.toNat ≤ 13)

/-- A ring has a pending entry and the target CQ a free slot for its completion (R319). -/
def State.fetchable (s : State) (r : RingNo) : Bool :=
  let g := s.ring r
  g.enable && !g.stopped && decide (g.sqHead ≠ g.sqTail) && decide ((s.ring g.cq).cqFree ≠ 0)

/-- How far a ring stands behind the ring served last, in round-robin order. DESIGN CHOICE, log entry 98. -/
def State.ringTurn (s : State) (r : RingNo) : Nat := (r.val + 255 - s.host.lastRing.val) % 256

/-- The next entry fetched is this ring's (R319): it continues the host read of at most 32 entries that serves
the ring, or no other ring with a pending entry stands before it in the round-robin. DESIGN CHOICE, log entry 98. -/
def State.fetchTurn (s : State) (r : RingNo) : Bool :=
  (decide (r = s.host.lastRing) && decide (s.host.readRun ≠ 0) && decide (s.host.readRun < 32)) ||
  (List.finRange 256).all fun q => decide (s.ringTurn r ≤ s.ringTurn q) || !s.fetchable q

/-- The entries of the host read that serves a ring, with one more. DESIGN CHOICE, log entry 98. -/
def State.readsOn (s : State) (r : RingNo) : Nat :=
  if r = s.host.lastRing ∧ s.host.readRun < 32 then s.host.readRun + 1 else 1

/-- DESCRIPTOR_FETCH (R319, R314): the 128 B of the ring's next entry arrive, with a slot of the target
CQ reserved. A header that R322 rejects makes the completion ready with INVALID. DESIGN CHOICE, log entry 98. -/
def execDescriptorFetch (r : RingNo) (words : List Word32) (hostOk : Bool) (t : Word64) (s : State) :
    Host.Outcome State Fault Refusal :=
  let s := s.at t
  let g := s.ring r
  if s.host.ready = false ∨ s.host.lost ∨ s.fetchable r = false ∨ s.fetchTurn r = false ∨
     4096 ≤ s.host.descs.length then .next s
  else if hostOk = false then
    let s := s.setRing r { g with err := 3, stopped := true }
    .next { s with host := { s.host with lastRing := r, readRun := 0 } }
  else
    let id := s.host.nextDesc
    let d : Desc := { id := id, ring := r, words := words, fetched := s.tb, started := false,
                      ready := none, left := [], rollbacks := 0, slipMax := 0, image := [] }
    let s := s.setRing r { g with sqHead := BitVec.ofNat 16 ((g.sqHead.toNat + 1) % g.sqSize),
                                  outstanding := g.outstanding + 1 }
    let s := s.modRing g.cq fun q => { q with reserved := q.reserved + 1 }
    let s := { s with host := { s.host with descs := s.host.descs ++ [d], nextDesc := id + 1,
                                            lastRing := r, readRun := s.readsOn r } }
    .next (if d.headOk then s else s.setReady id 1 0 0)

/-- The 32 B completion entry (Table 11.1). -/
def complEntry (d : Desc) (c : Compl) (phase : Bool) (sqHead : BitVec 16) : List Byte :=
  let w1 : Word32 := bitAt phase 31 ||| fieldAt c.status 24 |||
    fieldAt (BitVec.ofNat 8 d.ring.val) 16 ||| fieldAt sqHead 0
  leBytes 4 (wordAt d.words 1).toNat ++ leBytes 4 w1.toNat ++ leBytes 4 c.detail.toNat ++ zeros 4 ++
  leBytes 8 c.time.toNat ++ leBytes 8 c.result.toNat

/-- An ABORT or a hamlet command whose completion waits for those of the descriptors it ended (Table 11.3,
R327). -/
def State.answersLast (s : State) (d : Desc) (c : Compl) : Bool :=
  decide (c.status ≠ 9) && (decide (d.cls = 0xD) || decide (d.cls = 0xA) || decide (d.cls = 0xB)) &&
  s.host.descs.any fun e =>
    match e.ready with
    | some k => decide (k.status = 9)
    | none => false

/-- DESCRIPTOR_COMPLETE (R321, R331, R312): a ready completion is written into the CQ; with IRQ its
source is raised. Once the host is lost completions are held (R333). DEDUCED, log entry 37; DEDUCED, log entry 81. -/
def execDescriptorComplete (id : Nat) (t : Word64) (s : State) : Host.Outcome State Fault Refusal :=
  let s := s.at t
  match s.desc id with
  | none => .next s
  | some d =>
    match d.ready with
    | none => .next s
    | some c =>
      if s.host.lost ∨ s.host.ready = false ∨ s.answersLast d c = true then .next s
      else
        let g := s.ring d.ring
        let q := s.ring g.cq
        let s := s.sendHost (.hostWrite g.via (q.cqBase + q.cqTail.setWidth 64 * 32)
          (complEntry d c q.phase g.sqHead))
        let last := decide (q.cqSize ≤ q.cqTail.toNat + 1)
        let s := s.modRing g.cq fun q =>
          { q with cqTail := if last then 0 else q.cqTail + 1,
                   phase := if last then !q.phase else q.phase, reserved := q.reserved - 1 }
        let s := s.modRing d.ring fun g => { g with outstanding := g.outstanding - 1 }
        let s := { s with host := { s.host with
          descs := s.host.descs.filter fun e => decide (e.id ≠ id),
          launchEnd := if d.cls = 2 then
            tset (fun _ => 0) s.host.launchEnd (scopeKey (s.scopeOf d)) c.time else s.host.launchEnd } }
        .next (if d.irq && q.irqEn then s.icRaise (512 + g.cq.val) s.tb else s)

/-- FENCE (R323): complete once every earlier descriptor of its ring has completed. -/
def execFence (id : Nat) (s : State) : Host.Outcome State Fault Refusal :=
  match s.desc id with
  | none => .next s
  | some d =>
    if d.cls ≠ 5 ∨ s.mayStart d = false then .next s
    else if (d.words.drop 2).any fun w => decide (w ≠ 0) then .next (s.setReady id 1 0 0)
    else if s.host.descs.any fun e => decide (e.ring = d.ring) && decide (e.id < id) then .next s
    else .next (s.setReady id 0 0 0)

end Sys2Proof.Machine
end

