-- ==== Sys2Proof/Machine/Regs.lean ====
section
/-!
DEFINITION. Machine/Regs.lean: accesses to registers through the set-up window: pairs, access codes, lock
bits and parity (00_scope.md R11 to R15, 18_registers.md).
-/

namespace Sys2Proof.Machine

/-- The state a meaning leaves. -/
def stateAfter (s : State) : Host.Outcome State Fault Refusal → State
  | .next t => t
  | _ => s

/-! ### Which accesses count (R472 to R474) -/

/-- ENG_REMAP_ROW or ENG_REMAP_COL of an engine: the stewards hold them whatever the domain's state, and
they are the only registers of that kind that take a write (R84, R474). DEDUCED, log entry 79. -/
def isRemapReg (o : Nat) : Bool :=
  decide (0x8000 ≤ o % 65536) && decide (o % 65536 < 0xC000) && [0x004, 0x008].contains (o % 4096)

/-- A write to the CORE block of a site whose domain is OFF or FAILED, but for what the stewards hold
(R474). DEDUCED, log entry 79. -/
def State.coreGone (s : State) (o : Nat) : Bool :=
  decide (0x100000 ≤ o) && decide (o < 0x380000) && s.coreDown (coreAt o) && !isRemapReg o

/-- A write reaches a register: the device has power, the word is aligned and its block answers (R472 to
R474). -/
def State.takesWrite (s : State) (o : Nat) : Bool :=
  s.board.alwaysOn && decide (o % 4 = 0) && s.answers o && !s.coreGone o

/-! ### Pairs (R11) -/

/-- The number of an accessor. -/
def accNo : Accessor → Nat
  | .hp0 => 0
  | .hp1 => 1
  | .stewardA => 2
  | .stewardB => 3

/-- The key of an accessor's shadow or held write of the pair whose _LO stands at an offset. DEDUCED, log entry 73. -/
def pairKey (acc : Accessor) (lo : Nat) : Nat := accNo acc * 268435456 + lo

/-- A _LO register stands at an offset. -/
def State.isLo (s : State) (o : Nat) : Bool := (s.pair o).isSome

/-- A _HI register stands at an offset. -/
def State.isHi (s : State) (o : Nat) : Bool := decide (4 ≤ o) && (s.pair (o - 4)).isSome

/-- The shadow of a pair. -/
def State.shadow (s : State) (acc : Accessor) (lo : Nat) : Option Word32 :=
  tget (fun _ => none) s.shadows (pairKey acc lo)

/-- The shadow of a pair becomes v. -/
def State.setShadow (s : State) (acc : Accessor) (lo : Nat) (v : Option Word32) : State :=
  { s with shadows := tset (fun _ => none) s.shadows (pairKey acc lo) v }

/-- The held write of a pair. -/
def State.heldLo (s : State) (acc : Accessor) (lo : Nat) : Option Word32 :=
  tget (fun _ => none) s.helds (pairKey acc lo)

/-- The held write of a pair becomes v. -/
def State.setHeld (s : State) (acc : Accessor) (lo : Nat) (v : Option Word32) : State :=
  { s with helds := tset (fun _ => none) s.helds (pairKey acc lo) v }

/-- A register is read, its data sent to the accessor. -/
def State.readOut (s : State) (acc : Accessor) (off : BitVec 28) (v : Word32) : State :=
  s.send (.regData acc off v)

/-- The ring whose base and message registers take no write: it is ACTIVE or owned (R337). -/
def Ring.frozen (g : Ring) : Bool := g.active || g.owner.isSome

/-- An offset lies in the ring registers. -/
def inRings (o : Nat) : Bool := decide (0x11000 ≤ o) && decide (o < 0x15000)

/-- The ring of a window offset. -/
def ringOff (o : Nat) : RingNo := ringAt (o - 0x10000)

/-- A pair's write is ignored: its ring is ACTIVE or owned (R337). DEDUCED, log entry 73. -/
def State.pairFrozen (s : State) (lo : Nat) : Bool := inRings lo && (s.ring (ringOff lo)).frozen

/-- A pair takes a value: the pairs of a ring are RW, every other one is RO. -/
def State.setPair (s : State) (lo : Nat) (v : Word64) : State :=
  if inRings lo then
    s.modRing (ringOff lo) fun g =>
      if lo % 64 = 0x00 then { g with sqBase := v }
      else if lo % 64 = 0x08 then { g with cqBase := v }
      else { g with msgAddr := v }
  else s

/-- A write of a _LO register is held. -/
def State.writeLo (s : State) (acc : Accessor) (o : Nat) (v : Word32) : State :=
  if s.pairFrozen o then s else s.setHeld acc o (some v)

/-- A write of a _HI register sets both halves when a _LO value is held, else the high half alone. -/
def State.writeHi (s : State) (acc : Accessor) (o : Nat) (v : Word32) : State :=
  let lo := o - 4
  match s.pair lo with
  | none => s
  | some p =>
    if s.pairFrozen lo then s
    else (s.setPair lo (v ++ (s.heldLo acc lo).getD (lo32 p))).setHeld acc lo none

/-! ### Writes by block (R12, R476) -/

/-- The ID block (Table 18.5). -/
def State.writeId (s : State) (o : Nat) (v : Word32) : State :=
  if o = 0x30 then s.writeDevnum (v.extractLsb' 0 12)
  else if o = 0x34 then { s with id := { s.id with lock := s.id.lock || v.getLsbD 31 } }
  else if o = 0x40 then { s with id := { s.id with copyLost := s.id.copyLost && !v.getLsbD 0 } }
  else s

/-- HST_CTL: HB_EN until LOCK is 1; a heartbeat window runs from the write that sets HB_EN (R333). DEDUCED, log entry 54. -/
def State.writeHstCtl (s : State) (v : Word32) : State :=
  if s.host.lock then s
  else
    let on := v.getLsbD 30
    { s with host := { s.host with
        hbEn := on, lock := v.getLsbD 31,
        heartbeat := if on && !s.host.hbEn then s.tb else s.host.heartbeat } }

/-- HST_RESET (R335): a value other than ARM and GO disarms. -/
def State.writeHstReset (s : State) (v : Word32) : State :=
  match (v.extractLsb' 0 2).toNat with
  | 1 => stateAfter s (execResetArm s.tb s)
  | 2 => stateAfter s (execResetGo s.tb s)
  | _ => { s with host := { s.host with arm := none } }

/-- HST_RING_CFG: ENABLE 1 and 0 act as RING_ENABLE and RING_DISABLE; the other fields are set while the
ring is neither ACTIVE nor owned (R317, R337). -/
def State.writeRingCfg (s : State) (r : RingNo) (v : Word32) : State :=
  if v.getLsbD 31 then stateAfter s (execRingEnable r v s)
  else
    let s := if (s.ring r).frozen then s else s.modRing r fun g => g.config v
    stateAfter s (execRingDisable r s)

/-- The HST block (Tables 11.9 to 11.11). -/
def State.writeHst (s : State) (acc : Accessor) (o : Nat) (v : Word32) : State :=
  if o = 0x0004 then s.writeHstCtl v
  else if o = 0x0008 then stateAfter s (execHstHeartbeat acc s.tb s)
  else if o = 0x000C then s.writeHstReset v
  else if 0x1000 ≤ o ∧ o < 0x5000 then
    let r := ringAt o
    if o % 64 = 0x18 then
      (if (s.ring r).frozen then s else s.modRing r fun g => { g with msgData := v })
    else if o % 64 = 0x1C then s.writeRingCfg r v
    else s
  else s

/-- A write of ENG_FLUSH or VEC_FLUSH: ones clear bits 31 to 28, and FLUSHED clears MAX (Table 2.8). -/
def clearFlush (w v : Word32) : Word32 :=
  let w := w &&& ~~~(v &&& 0xF0000000)
  if v.getLsbD 31 then w &&& 0xFFFF0000 else w

/-- An accessor is a steward. -/
def isSteward : Accessor → Bool
  | .stewardA => true
  | .stewardB => true
  | _ => false

/-- Both spares of a remap value replace one data index, which R84 rules out. -/
def mapsTwice (w : Word32) : Bool :=
  w.getLsbD 15 && w.getLsbD 31 && decide (w.extractLsb' 0 8 = w.extractLsb' 16 8)

/-- A steward's remap of a quiescent engine is written and journaled; one that would map a data index twice is
not taken (R81, R84). DEDUCED, log entry 79. -/
def State.writeRemap (s : State) (n : SiteNo) (e : EngNo) (w : Word32) (f : Engine → Engine) : State :=
  if mapsTwice w = false ∧ (s.site n).engQuiescent e = true then
    let s := s.modSite n fun c => c.modEng e f
    s.journal (.remap n e ((s.site n).eng e).remapRow ((s.site n).eng e).remapCol)
  else s

/-- A CORE block (Tables 2.8, 3.7, 4.12; R94). -/
def State.writeCore (s : State) (acc : Accessor) (n : SiteNo) (o : Nat) (v : Word32) : State :=
  if o = 0x0000 then s.modSite n fun c => { c with tokenSat := c.tokenSat && !v.getLsbD 24 }
  else if o = 0x0040 then s.modSite n fun c => { c with vecFlush := clearFlush c.vecFlush v }
  else if 0x8000 ≤ o ∧ o < 0xC000 then
    let e := engAt o
    if o % 4096 = 0x40 then s.modSite n fun c => c.modEng e fun g => { g with flushReg := clearFlush g.flushReg v }
    else if o % 4096 = 0x04 ∧ isSteward acc = true then
      s.writeRemap n e v fun g => { g with remapRow := v &&& 0x80FF80FF }
    else if o % 4096 = 0x08 ∧ isSteward acc = true then
      s.writeRemap n e v fun g => { g with remapCol := v &&& 0x80FF80FF }
    else s
  else s

/-- BELL_CTL and BELL_SEL (Table 10.8). -/
def State.writeBell (s : State) (o : Nat) (v : Word32) : State :=
  if o = 0x0000 then
    (if s.coll.lock then s
     else { s with coll := { s.coll with resetAccept := v.getLsbD 30, lock := v.getLsbD 31 } })
  else if o = 0x0010 then { s with coll := { s.coll with sel := v &&& 0xC0001FFF } }
  else s

/-- CLK_TB_CTL (Table 12.9). DEDUCED, log entry 65. -/
def State.writeClk (s : State) (o : Nat) (v : Word32) : State :=
  if o ≠ 0x001C ∨ s.clk.lock = true then s
  else
    { s with clk := { s.clk with
        master := v.getLsbD 30, parentEn := v.getLsbD 7, parentLink := v.extractLsb' 0 7,
        lock := v.getLsbD 31 } }

/-- PWR_CTL (Table 13.11, R383): LIMIT_W is set before the group starts or ends. -/
def State.writePwrCtl (s : State) (v : Word32) : State :=
  if s.pwr.lock then s
  else
    let s := { s with pwr := { s.pwr with limitW := s.clampW (v.extractLsb' 0 16).toNat } }
    let s := if v.getLsbD 30 then s.groupStart else s.groupEnd
    { s with pwr := { s.pwr with lock := v.getLsbD 31 } }

/-- The members and the total take no write while the group runs or is locked (R383, R476). -/
def Power.tableFrozen (p : Power) : Bool := p.lock || p.groupEn

/-- The PWR block (Table 13.9). -/
def State.writePwr (s : State) (acc : Accessor) (o : Nat) (v : Word32) : State :=
  let p := s.pwr
  if o = 0x0000 then { s with pwr := { p with groupErr := p.groupErr && !v.getLsbD 22 } }
  else if o = 0x0004 then s.writePwrCtl v
  else if o = 0x0008 then
    (if p.tableFrozen then s else { s with pwr := { p with totalW := v.extractLsb' 0 20 } })
  else if 0x0100 ≤ o ∧ o < 0x0200 then
    (if p.tableFrozen then s
     else { s with pwr := { p with
       members := tset (fun _ => (false, 0)) p.members ((o - 0x100) / 4)
         (v.getLsbD 31, v.extractLsb' 0 12) } })
  else if 0x1000 ≤ o ∧ o < 0x1600 ∧ o % 32 = 0 then
    stateAfter s (execTelModeWrite acc ⟨(o - 0x1000) / 32 % 48, by omega⟩ v s)
  else s

/-- IC_GLOBAL (Table 14.5, R399). -/
def State.writeIcGlobal (s : State) (v : Word32) : State :=
  let s := { s with ic := { s.ic with lock := s.ic.lock || v.getLsbD 31 } }
  if v.getLsbD 30 then { s with ic := { s.ic with hold := true } }.icLower else s.releaseHold

/-- The RW fields of IC_SRC; TARGET of group 0 is frozen by LOCK and takes allowed targets alone (R387), and a FILTER of 0 is taken as 1 (Table
14.6). DEDUCED, log entry 77. -/
def Src.written (c : Src) (n : Nat) (lock : Bool) (v : Word32) : Src :=
  let f := v.extractLsb' 11 8
  { c with
    en := v.getLsbD 30,
    target := if (lock && decide (n < 16)) || !srcAllows n (v.extractLsb' 25 3) then c.target
              else v.extractLsb' 25 3,
    prio := v.extractLsb' 22 3,
    filter := if srcIsLine n then (if f = 0 then 1 else f) else 0,
    token := v.extractLsb' 5 6 }

/-- IC_SRC_n (Table 14.6): a source that is PENDING and becomes enabled wakes its target (R397). -/
def State.writeSrc (s : State) (n : SrcNo) (v : Word32) : State :=
  if srcReserved n.val then s
  else
    let was := s.src n.val
    let s := s.setSrc n.val (was.written n.val s.ic.lock v)
    let s := if !was.en && decide (was.st = .pending) then s.icWake n.val else s
    let s := s.srcSetMode n (v.extractLsb' 19 3)
    let s := if v.getLsbD 31 then s.srcClear n else s
    (if v.getLsbD 29 then s.srcRaise n else s).icLower

/-- The IC block (Table 14.4). The host port completes nothing (R394). -/
def State.writeIc (s : State) (acc : Accessor) (o : Nat) (v : Word32) : State :=
  let i := s.ic
  if o = 0x0000 then s.writeIcGlobal v
  else if o = 0x0014 ∨ o = 0x0024 ∨ o = 0x0034 then
    (if isSteward acc then s.icDone (BitVec.ofNat 3 ((o - 0x14) / 16)) (v.extractLsb' 0 10) else s)
  else if 0x0050 ≤ o ∧ o < 0x005C then
    { s with ic := { i with thresholds := tset (fun _ => 0) i.thresholds ((o - 0x50) / 4) (v.extractLsb' 0 3) } }.icLower
  else if o = 0x0060 then { s with ic := { i with seqMask := v } }
  else if 0x0104 ≤ o ∧ o < 0x0200 then
    { s with ic := { i with holdoff := tset (fun _ => 0) i.holdoff ((o - 0x100) / 4) (v.extractLsb' 0 16) } }
  else if h : 0x1000 ≤ o ∧ o < 0x1FFC then s.writeSrc ⟨(o - 0x1000) / 4, by omega⟩ v
  else s

/-- A mailbox command that Table 16.6 lists. -/
def mboxKnown (c : Byte) : Bool := [1, 2, 3, 4, 5, 6, 0x10, 0x11, 0x12].contains c

/-- SEC_MBOX_CMD (R449): ignored while BUSY; a code with no command ends at once with INVALID. DEDUCED, log entry 70. -/
def State.writeMboxCmd (s : State) (v : Word32) : State :=
  if s.sec.busy then s
  else if mboxKnown (v.extractLsb' 0 8) then { s with sec := { s.sec with busy := true } }
  else s.mboxDone 2 []

/-- The SEC block (Table 16.8): the window takes writes of input pages while no command runs (R449). -/
def State.writeSec (s : State) (o : Nat) (v : Word32) : State :=
  let c := s.sec
  if o = 0x0004 then s.writeMboxCmd v
  else if o = 0x000C then { s with sec := { c with inLen := v.extractLsb' 0 17 } }
  else if o = 0x0010 then { s with sec := { c with page := v.extractLsb' 0 5 } }
  else if 0x1000 ≤ o ∧ o < 0x2000 then
    (if c.busy || c.page.getLsbD 4 then s
     else { s with sec := { c with
       inBuf := tput (fun _ => 0) c.inBuf ((c.page.extractLsb' 0 4).toNat * 4096 + (o - 0x1000))
         (leBytes 4 v.toNat) } })
  else s

/-- A doorbell page (R315). -/
def State.writeDoorbell (s : State) (o : Nat) (v : Word32) : State :=
  let r : RingNo := ⟨o / 4096 % 256, by omega⟩
  if o % 4096 = 0 then stateAfter s (execSqTail r v s)
  else if o % 4096 = 4 then stateAfter s (execCqHead r v s)
  else s

/-- A write at an offset of the window; RO registers and unassigned offsets ignore it (R12, R14, R471). -/
def State.writeReg (s : State) (acc : Accessor) (o : Nat) (v : Word32) : State :=
  if s.isLo o then s.writeLo acc o v
  else if s.isHi o then s.writeHi acc o v
  else if o < 0x10000 then s.writeId o v
  else if o < 0x100000 then s.writeHst acc (o - 0x10000) v
  else if o < 0x380000 then s.writeCore acc (coreAt o) (o % 65536) v
  else if o = 0x500010 then { s with mem := { s.mem with pmapIdx := v.extractLsb' 0 18 } }
  else if 0x700000 ≤ o ∧ o < 0x800000 then s.writeBell (o - 0x700000) v
  else if 0x800000 ≤ o ∧ o < 0x900000 then s.writeClk (o - 0x800000) v
  else if 0x900000 ≤ o ∧ o < 0xA00000 then s.writePwr acc (o - 0x900000) v
  else if 0xA00000 ≤ o ∧ o < 0xB00000 then s.writeIc acc (o - 0xA00000) v
  else if 0xC00000 ≤ o ∧ o < 0xD00000 then s.writeSec (o - 0xC00000) v
  else if 0x8000000 ≤ o ∧ o < 0x8100000 then s.writeDoorbell (o - 0x8000000) v
  else s

/-! ### Parity (R475, Table 18.2) -/

/-- Base of the block that an offset lies in (Table 18.1). -/
def blockBase (o : Nat) : Nat :=
  if o < 0x10000 then 0
  else if o < 0x100000 then 0x10000
  else if o < 0x380000 then o / 65536 * 65536
  else if 0x600000 ≤ o ∧ o < 0x618000 then o / 1024 * 1024
  else if 0x8000000 ≤ o then 0x8000000
  else o / 1048576 * 1048576

/-- The register has only WO fields. -/
def woOnly (o : Nat) : Bool :=
  [0x10008, 0x1000C, 0xA00014, 0xA00024, 0xA00034, 0xC00004].contains o ||
  (decide (0x8000000 ≤ o) && decide (o < 0x8100000) && (decide (o % 4096 = 0) || decide (o % 4096 = 4)))

/-- The register is an IC_SRC, whose RAISE is WO beside fields of other kinds. -/
def isSrcReg (o : Nat) : Bool := decide (0xA01000 ≤ o) && decide (o < 0xA01FFC)

/-- Every field of the register is RW or RWL, so its check copy restores all of it. -/
def rwOnly (o : Nat) : Bool :=
  [0x34, 0x10004, 0x500010, 0x700000, 0x700010, 0x80001C, 0x900004, 0x900008, 0xA00060, 0xC0000C,
    0xC00010].contains o ||
  (inRings o && decide (o % 64 < 0x20)) ||
  (decide (0x900100 ≤ o) && decide (o < 0x900200)) ||
  (decide (0x901000 ≤ o) && decide (o < 0x901600) && decide (o % 32 = 0)) ||
  (decide (0xC01000 ≤ o) && decide (o < 0xC02000))

/-- A parity failure is recorded and counted (R475, R498). -/
def State.parityRecord (s : State) (o : Nat) (restored : Bool) : State :=
  let b := blockBase o
  let site := if 0x100000 ≤ o ∧ o < 0x380000 then some (coreAt o) else none
  let s := { s with id := { s.id with parity := satInc s.id.parity, errAddr := BitVec.ofNat 28 o } }
  s.record { s.plainRec 0x0007 site (BitVec.ofNat 32 (o - b)) (BitVec.ofNat 64 b) with
    severity := if restored then 2 else 0 }

/-- What a CORE register loses with its RO and W1C fields: counters restart, flags and results read 0. DEDUCED, log entry 74. -/
def Site.loseWord (c : Site) (o : Nat) : Site :=
  let e := engAt o
  let k := o % 4096
  if 0x8000 ≤ o ∧ o < 0xC000 then
    (if k = 0x40 then c.modEng e fun g => { g with flushReg := 0 }
     else if k = 0x10 then c.modEng e fun g => { g with issued := g.issued &&& 0xFFFFFFFF00000000 }
     else if k = 0x14 then c.modEng e fun g => { g with issued := g.issued &&& 0xFFFFFFFF }
     else if k = 0x18 then c.modEng e fun g => { g with busyCount := g.busyCount &&& 0xFFFFFFFF00000000 }
     else if k = 0x1C then c.modEng e fun g => { g with busyCount := g.busyCount &&& 0xFFFFFFFF }
     else if k = 0x20 then c.modEng e fun g => { g with disagree := 0 }
     else c)
  else if o = 0x00 then { c with tokenSat := false }
  else if o = 0x18 then { c.settleDroop with cycle := c.cycle &&& 0xFFFFFFFF00000000,
                                               droopSince := c.cycle &&& 0xFFFFFFFF00000000 }
  else if o = 0x1C then { c.settleDroop with cycle := c.cycle &&& 0xFFFFFFFF, droopSince := c.cycle &&& 0xFFFFFFFF }
  else if o = 0x20 then { c with slip := c.slip &&& 0xFFFFFFFF00000000 }
  else if o = 0x24 then { c with slip := c.slip &&& 0xFFFFFFFF }
  else if o = 0x28 then { c with slipMax := 0 }
  else if o = 0x2C then { c.settleDroop with slipStretch := 0 }
  else if o = 0x30 then { c with exc := 0 }
  else if o = 0x34 then { c with excInfo := 0 }
  else if o = 0x40 then { c with vecFlush := 0 }
  else if 0x100 ≤ o ∧ o < 0x140 then
    let q : Fin 4 := ⟨(o - 0x100) / 16 % 4, by omega⟩
    (if o % 16 = 0 then c.setQueue q { c.queue q with completed := 0 }
     else if o % 16 = 4 then c.setQueue q { c.queue q with errTag := 0 } else c)
  else if o = 0x300 then { c with wsEcc := 0 }
  else if o = 0x304 then { c with granEcc := 0 }
  else if o = 0x308 then { c with sillEcc := 0 }
  else if o = 0x30C then { c with psEcc := 0 }
  else c

/-- What the registers of the fabric, the memory and the links lose. -/
def State.loseLow (s : State) (o : Nat) : State :=
  if o = 0x400000 then { s with fab := { s.fab with routeGen := 0 } }
  else if o = 0x400010 then { s with fab := { s.fab with hopRetry := 0, timeouts := 0, redRetry := 0 } }
  else if 0x500140 ≤ o ∧ o < 0x500180 then
    s.modMsite ⟨(o - 0x500140) / 4 % 16, by omega⟩ fun m => { m with ecc := 0 }
  else if 0x500180 ≤ o ∧ o < 0x5001C0 then
    s.modMsite ⟨(o - 0x500180) / 4 % 16, by omega⟩ fun m => { m with crcRepeats := 0, retrains := 0 }
  else if 0x600000 ≤ o ∧ o < 0x618000 then
    let l : LinkNo := ⟨(o - 0x600000) / 1024 % 96, by omega⟩
    (if o % 1024 = 8 then s.modLink l fun k => { k with replays := 0, retrains := 0, authFails := 0 }
     else if o % 1024 = 12 then s.modLink l fun k => { k with corrected := 0, uncorrectable := 0 }
     else s)
  else s

/-- What the other registers lose. -/
def State.loseHigh (s : State) (o : Nat) : State :=
  if o = 0x40 then { s with id := { s.id with parity := 0, copyLost := false } }
  else if o = 0x10000 then { s with host := { s.host with dbIgnored := 0 } }
  else if o = 0x700004 then { s with coll := { s.coll with dropped := 0, late := 0, remoteFail := 0 } }
  else if o = 0x800000 then { s with clk := { s.clk with changes := 0 } }
  else if o = 0x800018 then { s with clk := { s.clk with offset := 0 } }
  else if o = 0x800020 then { s with clk := { s.clk with calFails := 0 } }
  else if 0x800100 ≤ o ∧ o < 0x8001C0 then
    s.modRegion ⟨(o - 0x800100) / 4 % 48, by omega⟩ fun r => { r with stretches := 0 }
  else if o = 0x900000 then { s with pwr := { s.pwr with groupErr := false } }
  else if 0x901000 ≤ o ∧ o < 0x901600 ∧ o % 32 = 8 then
    s.modDom ⟨(o - 0x901000) / 32 % 48, by omega⟩ fun v => { v with tel := 0 }
  else if o = 0xA00000 then { s with ic := { s.ic with spurious := 0, dropped := 0 } }
  else if o = 0xB00000 then { s with flt := { s.flt with recoveries := 0, failedJobs := 0 } }
  else if o = 0xB00004 then { s with flt := { s.flt with overflow := 0 } }
  else if o = 0xC00008 then { s with sec := { s.sec with status := 0, outLen := 0 } }
  else s

/-- The RO and W1C fields of a register whose parity failed read 0: its counters restart from 0 and its
flags are 0, until hardware's next update. State that the register only shows stays. DEDUCED, log entry 74. -/
def State.loseRo (s : State) (o : Nat) : State :=
  if 0x100000 ≤ o ∧ o < 0x380000 then s.modSite (coreAt o) fun c => c.loseWord (o % 65536)
  else if 0x400000 ≤ o ∧ o < 0x700000 then s.loseLow o
  else s.loseHigh o

/-- The RW fields of a ring register take their reset values. DEDUCED, log entry 74. -/
def State.resetRing (s : State) (o : Nat) : State :=
  let r := ringOff o
  let k := o % 64
  let hi : Word64 := 0xFFFFFFFF00000000
  let lo : Word64 := 0xFFFFFFFF
  s.modRing r fun g =>
    if k = 0x00 then { g with sqBase := g.sqBase &&& hi }
    else if k = 0x04 then { g with sqBase := g.sqBase &&& lo }
    else if k = 0x08 then { g with cqBase := g.cqBase &&& hi }
    else if k = 0x0C then { g with cqBase := g.cqBase &&& lo }
    else if k = 0x10 then { g with msgAddr := g.msgAddr &&& hi }
    else if k = 0x14 then { g with msgAddr := g.msgAddr &&& lo }
    else if k = 0x18 then { g with msgData := 0 }
    else if k = 0x1C then { g.config 0 with enable := false, active := decide (g.outstanding ≠ 0) }
    else g

/-- The RW fields of the IC block's registers take their reset values. -/
def State.resetIc (s : State) (o : Nat) : State :=
  let i := s.ic
  if o = 0x0000 then ({ s with ic := { i with lock := true } }).releaseHold
  else if 0x0050 ≤ o ∧ o < 0x005C then
    { s with ic := { i with thresholds := tset (fun _ => 0) i.thresholds ((o - 0x50) / 4) 0 } }
  else if o = 0x0060 then { s with ic := { i with seqMask := 0 } }
  else if 0x0104 ≤ o ∧ o < 0x0200 then
    { s with ic := { i with holdoff := tset (fun _ => 0) i.holdoff ((o - 0x100) / 4) 0 } }
  else if 0x1000 ≤ o ∧ o < 0x1FFC then
    let n := (o - 0x1000) / 4
    let d := srcD n
    s.setSrc n { s.src n with en := d.en, target := d.target, prio := d.prio, mode := d.mode,
                              filter := d.filter, token := d.token }
  else s

/-- The RW fields of a register take their reset values and its LOCK becomes 1 (Table 18.2). DEDUCED, log entry 74. -/
def State.resetRw (s : State) (o : Nat) : State :=
  if o = 0x30 then { s with id := { s.id with dev := s.jrnl.devNum.getD 0 } }
  else if o = 0x34 then { s with id := { s.id with lock := true } }
  else if o = 0x10004 then { s with host := { s.host with lock := true, hbEn := false } }
  else if inRings o then s.resetRing o
  else if o = 0x500010 then { s with mem := { s.mem with pmapIdx := 0 } }
  else if o = 0x700000 then { s with coll := { s.coll with lock := true, resetAccept := false } }
  else if o = 0x700010 then { s with coll := { s.coll with sel := 0 } }
  else if o = 0x80001C then
    { s with clk := { s.clk with lock := true, master := false, parentEn := false, parentLink := 0 } }
  else if o = 0x900004 then
    let s := s.groupEnd
    { s with pwr := { s.pwr with lock := true, groupEn := false, limitW := s.maxWatts } }
  else if o = 0x900008 then { s with pwr := { s.pwr with totalW := 0 } }
  else if 0x900100 ≤ o ∧ o < 0x900200 then
    { s with pwr := { s.pwr with
        members := tset (fun _ => (false, 0)) s.pwr.members ((o - 0x900100) / 4) (false, 0) } }
  else if 0x901000 ≤ o ∧ o < 0x901600 ∧ o % 32 = 0 then
    s.modDom ⟨(o - 0x901000) / 32 % 48, by omega⟩ fun v => { v with telMode := false }
  else if 0xA00000 ≤ o ∧ o < 0xB00000 then s.resetIc (o - 0xA00000)
  else if o = 0xC0000C then { s with sec := { s.sec with inLen := 0 } }
  else if o = 0xC00010 then { s with sec := { s.sec with page := 0 } }
  else if 0xC01000 ≤ o ∧ o < 0xC02000 then
    { s with sec := { s.sec with
        inBuf := tput (fun _ => 0) s.sec.inBuf
          ((s.sec.page.extractLsb' 0 4).toNat * 4096 + (o - 0xC01000)) (zeros 4) } }
  else s

/-- A register has RW or RWL fields. -/
def hasRw (o : Nat) : Bool :=
  rwOnly o || [0x30, 0xA00000].contains o || (decide (0xA00050 ≤ o) && decide (o < 0xA0005C)) ||
  (decide (0xA00104 ≤ o) && decide (o < 0xA00200)) || isSrcReg o

/-- What an access finds of the register's parity, before it is carried out (Table 18.2). DEDUCED, log entry 74. -/
def State.parityCheck (s : State) (o : Nat) (par : ParityObs) : State :=
  match par with
  | .ok => s
  | .portFail => if woOnly o ∨ isSrcReg o = true then s.parityRecord o false else s
  | .fail => (s.loseRo o).parityRecord o (rwOnly o)
  | .failBoth =>
    let s := (s.loseRo o).resetRw o
    let s := if hasRw o then { s with id := { s.id with copyLost := true } } else s
    s.parityRecord o false

/-- The RW and RWL bits of a register. -/
def rwBits (o : Nat) : Word32 :=
  if rwOnly o then 0xFFFFFFFF
  else if o = 0x30 then 0xFFF
  else if o = 0xA00000 then 0xC0000000
  else if 0xA00050 ≤ o ∧ o < 0xA0005C then 0x7
  else if 0xA00104 ≤ o ∧ o < 0xA00200 then 0xFFFF
  else if isSrcReg o then 0x4FFFFFE0
  else 0

/-- A register that failed its parity check reads its RW and RWL fields as restored, every other one as 0
(Table 18.2). -/
def keptBits (o : Nat) (par : ParityObs) (v : Word32) : Word32 :=
  match par with
  | .ok => v
  | .portFail => v
  | _ => v &&& rwBits o

/-- An access to a register: the core cycles that pass before it at the site it lies in (R159), and its parity
check (R475). A failure that hardware meets when it acts on a register has the same outcome as one that a read
meets. DESIGN CHOICE, log entry 10; DEDUCED, log entry 74. -/
def State.accessed (s : State) (o : Nat) (a : Access) : State :=
  let n := coreAt o
  let s := if a.cycles ≠ 0 ∧ 0x100000 ≤ o ∧ o < 0x380000 ∧ s.clocked n = true then
      s.passed n (s.site n).fetched.1 a.cycles
    else s
  if o % 4 = 0 then s.parityCheck o a.par else s

/-- The word that a write leaves to be carried out: none when the failed word of a WO register is
discarded, and without RAISE when that of an IC_SRC is. -/
def heldBack (o : Nat) (par : ParityObs) (v : Word32) : Option Word32 :=
  match par with
  | .portFail => if woOnly o then none else if isSrcReg o then some (v &&& ~~~0x20000000) else some v
  | _ => some v

/-- REG_PAIR_READ_LO (R11, R475): the high half is captured. At an offset where no pair stands it is a plain
read. -/
def execRegPairReadLo (acc : Access) (off : BitVec 28) (s : State) : Host.Outcome State Fault Refusal :=
  let o := off.toNat
  if s.board.alwaysOn = false then .next s
  else
    let s := s.accessed o acc
    let v := keptBits o acc.par (s.reads o)
    let s : State := match s.pair o with
      | some p => if s.answers o then s.setShadow acc.who o (some (hi32 p)) else s
      | none => s
    .next (s.readOut acc.who off v)

/-- REG_PAIR_READ_HI (R11, R475): a valid shadow is returned and is valid no longer. -/
def execRegPairReadHi (acc : Access) (off : BitVec 28) (s : State) : Host.Outcome State Fault Refusal :=
  let o := off.toNat
  if s.board.alwaysOn = false then .next s
  else if s.isHi o ∧ s.answers o = true then
    match s.shadow acc.who (o - 4) with
    | some v => .next ((s.setShadow acc.who (o - 4) none).readOut acc.who off v)
    | none =>
      let s := s.accessed o acc
      .next (s.readOut acc.who off (keptBits o acc.par (s.reads o)))
  else
    let s := s.accessed o acc
    .next (s.readOut acc.who off (keptBits o acc.par (s.reads o)))

/-- REG_PAIR_WRITE_LO (R11, R475). DEDUCED, log entry 73. -/
def execRegPairWriteLo (acc : Access) (off : BitVec 28) (v : Word32) (s : State) :
    Host.Outcome State Fault Refusal :=
  let o := off.toNat
  if s.takesWrite o ∧ s.isLo o = true then .next ((s.accessed o acc).writeLo acc.who o v) else .next s

/-- REG_PAIR_WRITE_HI (R11, R475). DEDUCED, log entry 73. -/
def execRegPairWriteHi (acc : Access) (off : BitVec 28) (v : Word32) (s : State) :
    Host.Outcome State Fault Refusal :=
  let o := off.toNat
  if s.takesWrite o ∧ s.isHi o = true then .next ((s.accessed o acc).writeHi acc.who o v) else .next s

/-- REGISTER_WRITE (R12, R471 to R476). DEDUCED, log entry 72. -/
def execRegisterWrite (acc : Accessor) (off : BitVec 28) (v : Word32) (par : ParityObs) (s : State) :
    Host.Outcome State Fault Refusal :=
  let o := off.toNat
  if s.takesWrite o = false then .next s
  else
    let s := s.parityCheck o par
    match heldBack o par v with
    | some w => .next (s.writeReg acc o w)
    | none => .next s

end Sys2Proof.Machine
end

