-- ==== Sys2Proof/Machine/Dispatch.lean ====
section
/-!
DEFINITION. Machine/Dispatch.lean: one arm per command of the opcode table.
-/

namespace Sys2Proof.Machine

def exec (i : Instr) (s : State) : Host.Outcome State Fault Refusal :=
  match i with
  | .regPairReadLo acc off => Sys2Proof.Machine.execRegPairReadLo acc off s
  | .regPairReadHi acc off => Sys2Proof.Machine.execRegPairReadHi acc off s
  | .regPairWriteLo acc off v => Sys2Proof.Machine.execRegPairWriteLo acc off v s
  | .regPairWriteHi acc off v => Sys2Proof.Machine.execRegPairWriteHi acc off v s
  | .registerWrite acc off v par => Sys2Proof.Machine.execRegisterWrite acc off v par s
  | .nop d => Sys2Proof.Machine.execNop d s
  | .preciseException site => Sys2Proof.Machine.execPreciseException site s
  | .br d target => Sys2Proof.Machine.execBr d target s
  | .brc d cond rs1 rs2 imm imm16 target => Sys2Proof.Machine.execBrc d cond rs1 rs2 imm imm16 target s
  | .loop d creg rs count endB => Sys2Proof.Machine.execLoop d creg rs count endB s
  | .halt d => Sys2Proof.Machine.execHalt d s
  | .trap d code => Sys2Proof.Machine.execTrap d code s
  | .settle d => Sys2Proof.Machine.execSettle d s
  | .sched d => Sys2Proof.Machine.execSched d s
  | .waitUntil d rs => Sys2Proof.Machine.execWaitUntil d rs s
  | .forecast d engMask level start duration => Sys2Proof.Machine.execForecast d engMask level start duration s
  | .phaseHint d valid op => Sys2Proof.Machine.execPhaseHint d valid op s
  | .add d f => Sys2Proof.Machine.execAdd d f s
  | .sub d f => Sys2Proof.Machine.execSub d f s
  | .and d f => Sys2Proof.Machine.execAnd d f s
  | .or d f => Sys2Proof.Machine.execOr d f s
  | .xor d f => Sys2Proof.Machine.execXor d f s
  | .shl d f => Sys2Proof.Machine.execShl d f s
  | .shr d f => Sys2Proof.Machine.execShr d f s
  | .sra d f => Sys2Proof.Machine.execSra d f s
  | .mul d f => Sys2Proof.Machine.execMul d f s
  | .min d f => Sys2Proof.Machine.execMin d f s
  | .max d f => Sys2Proof.Machine.execMax d f s
  | .li d rd imm32 => Sys2Proof.Machine.execLi d rd imm32 s
  | .lih d rd imm32 => Sys2Proof.Machine.execLih d rd imm32 s
  | .aadd d f => Sys2Proof.Machine.execAadd d f s
  | .amov d rd rs1 => Sys2Proof.Machine.execAmov d rd rs1 s
  | .smova d rd rs1 => Sys2Proof.Machine.execSmova d rd rs1 s
  | .lds d f => Sys2Proof.Machine.execLds d f s
  | .sts d f => Sys2Proof.Machine.execSts d f s
  | .status d rd clear src => Sys2Proof.Machine.execStatus d rd clear src s
  | .pendingWriteArrives site rd => Sys2Proof.Machine.execPendingWriteArrives site rd s
  | .matrix d f => Sys2Proof.Machine.execMatrix d f s
  | .matrixIssue site eng => Sys2Proof.Machine.execMatrixIssue site eng s
  | .matrixLastPlacement site eng obs => Sys2Proof.Machine.execMatrixLastPlacement site eng obs s
  | .verdict site eng obs => Sys2Proof.Machine.execVerdict site eng obs s
  | .replayStart site => Sys2Proof.Machine.execReplayStart site s
  | .votePassIssue site => Sys2Proof.Machine.execVotePassIssue site s
  | .voteDecide site obs ewise => Sys2Proof.Machine.execVoteDecide site obs ewise s
  | .applyPassVerdict site obs => Sys2Proof.Machine.execApplyPassVerdict site obs s
  | .planeRestoreDone site ecc => Sys2Proof.Machine.execPlaneRestoreDone site ecc s
  | .localisationTestEnd site eng obs => Sys2Proof.Machine.execLocalisationTestEnd site eng obs s
  | .redirectMove site eng => Sys2Proof.Machine.execRedirectMove site eng s
  | .capTakesEffect site => Sys2Proof.Machine.execCapTakesEffect site s
  | .latch d f => Sys2Proof.Machine.execLatch d f s
  | .latchStart site eng => Sys2Proof.Machine.execLatchStart site eng s
  | .latchDone site eng ecc errOff => Sys2Proof.Machine.execLatchDone site eng ecc errOff s
  | .feed d f => Sys2Proof.Machine.execFeed d f s
  | .feedStart site eng => Sys2Proof.Machine.execFeedStart site eng s
  | .feedDone site eng ecc errOff => Sys2Proof.Machine.execFeedDone site eng ecc errOff s
  | .bankDrain d f => Sys2Proof.Machine.execBankDrain d f s
  | .bankDrainIssue site eng => Sys2Proof.Machine.execBankDrainIssue site eng s
  | .bankDrainDone site eng residueOk badRow => Sys2Proof.Machine.execBankDrainDone site eng residueOk badRow s
  | .bankFree d eng bank => Sys2Proof.Machine.execBankFree d eng bank s
  | .bankFreeIssue site eng => Sys2Proof.Machine.execBankFreeIssue site eng s
  | .ewise d f => Sys2Proof.Machine.execEwise d f s
  | .ewiseIssue site eng => Sys2Proof.Machine.execEwiseIssue site eng s
  | .vld d f => Sys2Proof.Machine.execVld d f s
  | .vst d f => Sys2Proof.Machine.execVst d f s
  | .vfma d f => Sys2Proof.Machine.execVfma d f s
  | .vadd d f => Sys2Proof.Machine.execVadd d f s
  | .vsub d f => Sys2Proof.Machine.execVsub d f s
  | .vmul d f => Sys2Proof.Machine.execVmul d f s
  | .vmin d f => Sys2Proof.Machine.execVmin d f s
  | .vmax d f => Sys2Proof.Machine.execVmax d f s
  | .vcmp d f => Sys2Proof.Machine.execVcmp d f s
  | .vsel d f => Sys2Proof.Machine.execVsel d f s
  | .vsfu d f => Sys2Proof.Machine.execVsfu d f s
  | .vred d f => Sys2Proof.Machine.execVred d f s
  | .vbcast d f => Sys2Proof.Machine.execVbcast d f s
  | .vmovs d f => Sys2Proof.Machine.execVmovs d f s
  | .vwadd d f => Sys2Proof.Machine.execVwadd d f s
  | .vwanch d f => Sys2Proof.Machine.execVwanch d f s
  | .vwcvt d f => Sys2Proof.Machine.execVwcvt d f s
  | .vxpose d f => Sys2Proof.Machine.execVxpose d f s
  | .vectorIssue site residueFails ecc errOff => Sys2Proof.Machine.execVectorIssue site residueFails ecc errOff s
  | .push d q areg => Sys2Proof.Machine.execPush d q areg s
  | .sfree d entry => Sys2Proof.Machine.execSfree d entry s
  | .signal d tok amount => Sys2Proof.Machine.execSignal d tok amount s
  | .bell d f => Sys2Proof.Machine.execBell d f s
  | .tally d areg => Sys2Proof.Machine.execTally d areg s
  | .programEnd site => Sys2Proof.Machine.execProgramEnd site s
  | .progressTimeout site t => Sys2Proof.Machine.execProgressTimeout site t s
  | .copyStart site q t => Sys2Proof.Machine.execCopyStart site q t s
  | .copyComplete site q data => Sys2Proof.Machine.execCopyComplete site q data s
  | .copyFail site q code parity => Sys2Proof.Machine.execCopyFail site q code parity s
  | .copyTimeout site q t hostUnanswered => Sys2Proof.Machine.execCopyTimeout site q t hostUnanswered s
  | .psScrub site ecc => Sys2Proof.Machine.execPsScrub site ecc s
  | .wsScrub site off ecc => Sys2Proof.Machine.execWsScrub site off ecc s
  | .granaryRefresh site off ecc => Sys2Proof.Machine.execGranaryRefresh site off ecc s
  | .granaryRefillDone site off mirror => Sys2Proof.Machine.execGranaryRefillDone site off mirror s
  | .napEnter site => Sys2Proof.Machine.execNapEnter site s
  | .napWake site => Sys2Proof.Machine.execNapWake site s
  | .retainEnter site => Sys2Proof.Machine.execRetainEnter site s
  | .retainWake site cal => Sys2Proof.Machine.execRetainWake site cal s
  | .coreOff site => Sys2Proof.Machine.execCoreOff site s
  | .corePowerOn site t => Sys2Proof.Machine.execCorePowerOn site t s
  | .packetForward rtr inp plane fails => Sys2Proof.Machine.execPacketForward rtr inp plane fails s
  | .write p ep bad => Sys2Proof.Machine.execWrite p ep bad s
  | .writeAck p => Sys2Proof.Machine.execWriteAck p s
  | .readReq p ep ecc => Sys2Proof.Machine.execReadReq p ep ecc s
  | .readData p bad => Sys2Proof.Machine.execReadData p bad s
  | .redContrib c t => Sys2Proof.Machine.execRedContrib c t s
  | .redAck p => Sys2Proof.Machine.execRedAck p s
  | .redRetryResend rtr txn t => Sys2Proof.Machine.execRedRetryResend rtr txn t s
  | .combineSlotExpiry root t => Sys2Proof.Machine.execCombineSlotExpiry root t s
  | .deliveryTimeout rtr txn t => Sys2Proof.Machine.execDeliveryTimeout rtr txn t s
  | .fabricPause t => Sys2Proof.Machine.execFabricPause t s
  | .pauseDrained faultyLanes => Sys2Proof.Machine.execPauseDrained faultyLanes s
  | .pauseTimeout t => Sys2Proof.Machine.execPauseTimeout t s
  | .memRequest field r => Sys2Proof.Machine.execMemRequest field r s
  | .memScrub ms addr ecc written granaryGood => Sys2Proof.Machine.execMemScrub ms addr ecc written granaryGood s
  | .memTempRead ms temp => Sys2Proof.Machine.execMemTempRead ms temp s
  | .channelRetrainDue ms ch cause t => Sys2Proof.Machine.execChannelRetrainDue ms ch cause t s
  | .retrainStepStart ms ch t => Sys2Proof.Machine.execRetrainStepStart ms ch t s
  | .retrainStepEnd ms ch obs => Sys2Proof.Machine.execRetrainStepEnd ms ch obs s
  | .remotePageRequest r => Sys2Proof.Machine.execRemotePageRequest r s
  | .linkTrainStart l t => Sys2Proof.Machine.execLinkTrainStart l t s
  | .linkTrained l obs => Sys2Proof.Machine.execLinkTrained l obs s
  | .identMessage l obs => Sys2Proof.Machine.execIdentMessage l obs s
  | .linkKeyed l obs => Sys2Proof.Machine.execLinkKeyed l obs s
  | .rekey l obs => Sys2Proof.Machine.execRekey l obs s
  | .epochReceive l e => Sys2Proof.Machine.execEpochReceive l e s
  | .replayTimeout l t => Sys2Proof.Machine.execReplayTimeout l t s
  | .linkRetrain l receiverRequest t => Sys2Proof.Machine.execLinkRetrain l receiverRequest t s
  | .linkRetrainDone l ok t => Sys2Proof.Machine.execLinkRetrainDone l ok t s
  | .linkDown l => Sys2Proof.Machine.execLinkDown l s
  | .linkFlowsReturn l => Sys2Proof.Machine.execLinkFlowsReturn l s
  | .laneSerWindow l lane rx bad => Sys2Proof.Machine.execLaneSerWindow l lane rx bad s
  | .bellAdd b src amount instant => Sys2Proof.Machine.execBellAdd b src amount instant s
  | .bellSet b src img => Sys2Proof.Machine.execBellSet b src img s
  | .bellArm b src => Sys2Proof.Machine.execBellArm b src s
  | .bellDisarm b src => Sys2Proof.Machine.execBellDisarm b src s
  | .bellRead b src => Sys2Proof.Machine.execBellRead b src s
  | .bellRefire b => Sys2Proof.Machine.execBellRefire b s
  | .bellAlignedAction b t => Sys2Proof.Machine.execBellAlignedAction b t s
  | .bellData dst txn b status img => Sys2Proof.Machine.execBellData dst txn b status img s
  | .tokenDelivery site lc tok owned hamlet byIc => Sys2Proof.Machine.execTokenDelivery site lc tok owned hamlet byIc s
  | .reducerContrib tc addr src data t => Sys2Proof.Machine.execReducerContrib tc addr src data t s
  | .reducerAccepted tc addr => Sys2Proof.Machine.execReducerAccepted tc addr s
  | .reducerSlotExpiry tc addr t => Sys2Proof.Machine.execReducerSlotExpiry tc addr t s
  | .tallyEnterRelease job => Sys2Proof.Machine.execTallyEnterRelease job s
  | .tallyRegionsCopied site => Sys2Proof.Machine.execTallyRegionsCopied site s
  | .tallyCommitRelease job => Sys2Proof.Machine.execTallyCommitRelease job s
  | .resetAt viaLink t0 root => Sys2Proof.Machine.execResetAt viaLink t0 root s
  | .resetAtInstant t => Sys2Proof.Machine.execResetAtInstant t s
  | .budgetWindowEnd window slack => Sys2Proof.Machine.execBudgetWindowEnd window slack s
  | .report m => Sys2Proof.Machine.execReport m s
  | .take m => Sys2Proof.Machine.execTake m s
  | .takeAck m => Sys2Proof.Machine.execTakeAck m s
  | .give m => Sys2Proof.Machine.execGive m s
  | .giveAck m => Sys2Proof.Machine.execGiveAck m s
  | .leaderTimeout window => Sys2Proof.Machine.execLeaderTimeout window s
  | .sqTail r v => Sys2Proof.Machine.execSqTail r v s
  | .cqHead r v => Sys2Proof.Machine.execCqHead r v s
  | .ringEnable r cfg => Sys2Proof.Machine.execRingEnable r cfg s
  | .ringDisable r => Sys2Proof.Machine.execRingDisable r s
  | .ringInactive r => Sys2Proof.Machine.execRingInactive r s
  | .descriptorFetch r words hostOk t => Sys2Proof.Machine.execDescriptorFetch r words hostOk t s
  | .descriptorComplete id t => Sys2Proof.Machine.execDescriptorComplete id t s
  | .loadWeights id hostData hostFail => Sys2Proof.Machine.execLoadWeights id hostData hostFail s
  | .launch id image => Sys2Proof.Machine.execLaunch id image s
  | .copy id hostData segmentFail => Sys2Proof.Machine.execCopy id hostData segmentFail s
  | .tallyInfo id => Sys2Proof.Machine.execTallyInfo id s
  | .tallyExport id => Sys2Proof.Machine.execTallyExport id s
  | .tallyImport id image => Sys2Proof.Machine.execTallyImport id image s
  | .fence id => Sys2Proof.Machine.execFence id s
  | .bellOpAdd id => Sys2Proof.Machine.execBellOpAdd id s
  | .bellOpSet id => Sys2Proof.Machine.execBellOpSet id s
  | .bellOpArm id => Sys2Proof.Machine.execBellOpArm id s
  | .bellOpDisarm id => Sys2Proof.Machine.execBellOpDisarm id s
  | .bellOpRead id => Sys2Proof.Machine.execBellOpRead id s
  | .treeInstall id => Sys2Proof.Machine.execTreeInstall id s
  | .treeRemove id => Sys2Proof.Machine.execTreeRemove id s
  | .msetWrite id words => Sys2Proof.Machine.execMsetWrite id words s
  | .systemReset id => Sys2Proof.Machine.execSystemReset id s
  | .queryDevice id => Sys2Proof.Machine.execQueryDevice id s
  | .queryCoreMap id => Sys2Proof.Machine.execQueryCoreMap id s
  | .queryHamlet id => Sys2Proof.Machine.execQueryHamlet id s
  | .queryLinks id => Sys2Proof.Machine.execQueryLinks id s
  | .queryFaultRecords id => Sys2Proof.Machine.execQueryFaultRecords id s
  | .roleSet id => Sys2Proof.Machine.execRoleSet id s
  | .pageSet id => Sys2Proof.Machine.execPageSet id s
  | .hamletCreate id => Sys2Proof.Machine.execHamletCreate id s
  | .hamletCreateCommit h badSites => Sys2Proof.Machine.execHamletCreateCommit h badSites s
  | .hamletDestroy id => Sys2Proof.Machine.execHamletDestroy id s
  | .hamletReset id => Sys2Proof.Machine.execHamletReset id s
  | .abort id => Sys2Proof.Machine.execAbort id s
  | .deadlineExpiry id t workDone => Sys2Proof.Machine.execDeadlineExpiry id t workDone s
  | .hostAccessTimeout r site t => Sys2Proof.Machine.execHostAccessTimeout r site t s
  | .hstHeartbeat acc t => Sys2Proof.Machine.execHstHeartbeat acc t s
  | .heartbeatTimeout t => Sys2Proof.Machine.execHeartbeatTimeout t s
  | .portLockLoss p t => Sys2Proof.Machine.execPortLockLoss p t s
  | .portDown p t => Sys2Proof.Machine.execPortDown p t s
  | .portUp p unacked => Sys2Proof.Machine.execPortUp p unacked s
  | .portsDownTimeout t => Sys2Proof.Machine.execPortsDownTimeout t s
  | .resetArm t => Sys2Proof.Machine.execResetArm t s
  | .resetGo t => Sys2Proof.Machine.execResetGo t s
  | .resetArmExpiry t => Sys2Proof.Machine.execResetArmExpiry t s
  | .warmReset o => Sys2Proof.Machine.execWarmReset o s
  | .modrstN t => Sys2Proof.Machine.execModrstN t s
  | .droopTrip site detector => Sys2Proof.Machine.execDroopTrip site detector s
  | .droopPhasesRelease site t => Sys2Proof.Machine.execDroopPhasesRelease site t s
  | .marginWindowEnd r obs path => Sys2Proof.Machine.execMarginWindowEnd r obs path s
  | .freqChangeStart r mhz t => Sys2Proof.Machine.execFreqChangeStart r mhz t s
  | .clockStop r => Sys2Proof.Machine.execClockStop r s
  | .oscLocked r cals => Sys2Proof.Machine.execOscLocked r cals s
  | .freqChangeRestart r => Sys2Proof.Machine.execFreqChangeRestart r s
  | .calTimeout x => Sys2Proof.Machine.execCalTimeout x s
  | .oscFail r lock => Sys2Proof.Machine.execOscFail r lock s
  | .tbUpdate tstamp arrival parentMaster t => Sys2Proof.Machine.execTbUpdate tstamp arrival parentMaster t s
  | .tbUnlock t => Sys2Proof.Machine.execTbUnlock t s
  | .opWindowEvaluate site hot105 below100 meanCap => Sys2Proof.Machine.execOpWindowEvaluate site hot105 below100 meanCap s
  | .capWindowEnd inputW ibcW temps => Sys2Proof.Machine.execCapWindowEnd inputW ibcW temps s
  | .forecastActivate site idx t => Sys2Proof.Machine.execForecastActivate site idx t s
  | .hwForecast site eng t => Sys2Proof.Machine.execHwForecast site eng t s
  | .admissionCheck d ibcOk forecastNear t => Sys2Proof.Machine.execAdmissionCheck d ibcOk forecastNear t s
  | .admissionTimeout d t => Sys2Proof.Machine.execAdmissionTimeout d t s
  | .rampEnd d => Sys2Proof.Machine.execRampEnd d s
  | .phaseFail d phase cause => Sys2Proof.Machine.execPhaseFail d phase cause s
  | .coreOverCurrent site => Sys2Proof.Machine.execCoreOverCurrent site s
  | .baseRailTrip field => Sys2Proof.Machine.execBaseRailTrip field s
  | .ibcLoss f cause => Sys2Proof.Machine.execIbcLoss f cause s
  | .inputLow tenMv => Sys2Proof.Machine.execInputLow tenMv s
  | .inputRestored => Sys2Proof.Machine.execInputRestored s
  | .telemetryWindowEnd d k mean => Sys2Proof.Machine.execTelemetryWindowEnd d k mean s
  | .pwrTelRead acc d sample => Sys2Proof.Machine.execPwrTelRead acc d sample s
  | .telModeWrite acc d v => Sys2Proof.Machine.execTelModeWrite acc d v s
  | .impedanceWindowEnd d qualified meanZ => Sys2Proof.Machine.execImpedanceWindowEnd d qualified meanZ s
  | .groupStart acc => Sys2Proof.Machine.execGroupStart acc s
  | .groupEnd acc => Sys2Proof.Machine.execGroupEnd acc s
  | .lineFilterChange n level t => Sys2Proof.Machine.execLineFilterChange n level t s
  | .raise n byBell t => Sys2Proof.Machine.execRaise n byBell t s
  | .srcRaiseWrite acc n t => Sys2Proof.Machine.execSrcRaiseWrite acc n t s
  | .srcPendingClear acc n => Sys2Proof.Machine.execSrcPendingClear acc n s
  | .srcModeWrite acc n mode => Sys2Proof.Machine.execSrcModeWrite acc n mode s
  | .icClaim who t => Sys2Proof.Machine.execIcClaim who t s
  | .icComplete who n => Sys2Proof.Machine.execIcComplete who n s
  | .interruptDelivery n t => Sys2Proof.Machine.execInterruptDelivery n t s
  | .holdoffEnd g t => Sys2Proof.Machine.execHoldoffEnd g t s
  | .icHoldRelease acc => Sys2Proof.Machine.execIcHoldRelease acc s
  | .faultReport r t => Sys2Proof.Machine.execFaultReport r t s
  | .recoveryStop m t => Sys2Proof.Machine.execRecoveryStop m t s
  | .recoveryStopped m t => Sys2Proof.Machine.execRecoveryStopped m t s
  | .recoveryRestore m t => Sys2Proof.Machine.execRecoveryRestore m t s
  | .localRestoreDone job t => Sys2Proof.Machine.execLocalRestoreDone job t s
  | .recoveryReady m t => Sys2Proof.Machine.execRecoveryReady m t s
  | .recoveryGo m t => Sys2Proof.Machine.execRecoveryGo m t s
  | .resumeAtInstant job t => Sys2Proof.Machine.execResumeAtInstant job t s
  | .recoveryFail m t => Sys2Proof.Machine.execRecoveryFail m t s
  | .recoveryPhaseTimeout job t => Sys2Proof.Machine.execRecoveryPhaseTimeout job t s
  | .coreReplace lc t => Sys2Proof.Machine.execCoreReplace lc t s
  | .spareRefillDone site cal => Sys2Proof.Machine.execSpareRefillDone site cal s
  | .stewardPoll aAnswers bAnswers t => Sys2Proof.Machine.execStewardPoll aAnswers bAnswers t s
  | .reeveWatchdog t => Sys2Proof.Machine.execReeveWatchdog t s
  | .attest scope nonce key => Sys2Proof.Machine.execAttest scope nonce key s
  | .certRead => Sys2Proof.Machine.execCertRead s
  | .challenge => Sys2Proof.Machine.execChallenge s
  | .debugUnlock platform chal level expiry sigOk => Sys2Proof.Machine.execDebugUnlock platform chal level expiry sigOk s
  | .debugExpiry => Sys2Proof.Machine.execDebugExpiry s
  | .hamletBind h binding => Sys2Proof.Machine.execHamletBind h binding s
  | .fwUpdate addr len obs => Sys2Proof.Machine.execFwUpdate addr len obs s
  | .fwWriteDone => Sys2Proof.Machine.execFwWriteDone s
  | .recoveryBegin port t => Sys2Proof.Machine.execRecoveryBegin port t s
  | .recoveryWrite port off chunk t => Sys2Proof.Machine.execRecoveryWrite port off chunk t s
  | .recoveryEnd port obs t => Sys2Proof.Machine.execRecoveryEnd port obs t s
  | .recoverySessionTimeout t => Sys2Proof.Machine.execRecoverySessionTimeout t s
  | .drbgReseed healthOk failedTest => Sys2Proof.Machine.execDrbgReseed healthOk failedTest s
  | .coldPowerOn inputTenMv o => Sys2Proof.Machine.execColdPowerOn inputTenMv o s
  | .pwrfailFall t => Sys2Proof.Machine.execPwrfailFall t s
  | .pwrfailRise => Sys2Proof.Machine.execPwrfailRise s
  | .brownOut => Sys2Proof.Machine.execBrownOut s
  | .overVoltage => Sys2Proof.Machine.execOverVoltage s
  | .alwaysOnDrop => Sys2Proof.Machine.execAlwaysOnDrop s
  | .thermtrip => Sys2Proof.Machine.execThermtrip s
  | .referenceLost => Sys2Proof.Machine.execReferenceLost s
  | .referenceLostLong => Sys2Proof.Machine.execReferenceLostLong s
  | .journalAppend r => Sys2Proof.Machine.execJournalAppend r s
  | .poweredRecordTimer => Sys2Proof.Machine.execPoweredRecordTimer s
  | .compactionStart => Sys2Proof.Machine.execCompactionStart s
  | .compactionSwitch => Sys2Proof.Machine.execCompactionSwitch s
  | .setEndpointId eid => Sys2Proof.Machine.execSetEndpointId eid s
  | .getEndpointId => Sys2Proof.Machine.execGetEndpointId s
  | .getMctpVersionSupport msgType => Sys2Proof.Machine.execGetMctpVersionSupport msgType s
  | .getMessageTypeSupport => Sys2Proof.Machine.execGetMessageTypeSupport s
  | .getVendorDefinedMessageSupport selector => Sys2Proof.Machine.execGetVendorDefinedMessageSupport selector s
  | .pldmSensorRead sensor => Sys2Proof.Machine.execPldmSensorRead sensor s
  | .powerLimit watts => Sys2Proof.Machine.execPowerLimit watts s
  | .pldmWarmReset v => Sys2Proof.Machine.execPldmWarmReset v s
  | .getBootStatus => Sys2Proof.Machine.execGetBootStatus s
  | .setBootMode mode => Sys2Proof.Machine.execSetBootMode mode s
  | .mgmtRecoveryBegin t => Sys2Proof.Machine.execMgmtRecoveryBegin t s
  | .mgmtRecoveryWrite off chunk t => Sys2Proof.Machine.execMgmtRecoveryWrite off chunk t s
  | .mgmtRecoveryEnd obs t => Sys2Proof.Machine.execMgmtRecoveryEnd obs t s
  | .mctpAssemblyTimeout first t => Sys2Proof.Machine.execMctpAssemblyTimeout first t s
  | .mctpResponseTimeout t => Sys2Proof.Machine.execMctpResponseTimeout t s
  | .idDevnumWrite acc v => Sys2Proof.Machine.execIdDevnumWrite acc v s
  | .ewiseLastResult site eng obs => Sys2Proof.Machine.execEwiseLastResult site eng obs s
  | .forecastEnd site idx t => Sys2Proof.Machine.execForecastEnd site idx t s
  | .droopDetectorClear site detector t => Sys2Proof.Machine.execDroopDetectorClear site detector t s
  | .selfSlowing r ratioPermille => Sys2Proof.Machine.execSelfSlowing r ratioPermille s
  | .referenceReturn obs => Sys2Proof.Machine.execReferenceReturn obs s
  | .modrstNRise => Sys2Proof.Machine.execModrstNRise s
  | .hamletZeroisationDone obs => Sys2Proof.Machine.execHamletZeroisationDone obs s
  | .verdictWindowExpiry site eng t => Sys2Proof.Machine.execVerdictWindowExpiry site eng t s
  | .faultRecordWindowEnd cls t => Sys2Proof.Machine.execFaultRecordWindowEnd cls t s
  | .sensorUpdate sensor reading => Sys2Proof.Machine.execSensorUpdate sensor reading s

end Sys2Proof.Machine
end

