-- ==== Sys2Proof/Safety.lean ====
section
/-!
DEFINITION. Safety.lean: what counts as a safe run of the block, and the terms in which claims are made: a
command that completes, and what a command leaves alone.
-/

namespace Sys2Proof.Machine

/-- A step is safe when it answers a next state. -/
def safeStep (s : State) : Prop := ∃ t, step s = .next t

/-- A command answers a next state, of which a property holds. -/
def completes (c : Instr) (s : State) (P : State → Prop) : Prop := ∃ t, exec c s = .next t ∧ P t

/-- The sites that logical cores are bound to are fused good (R456). -/
def bindsFused (s : State) : Prop :=
  ∀ (lc : LCoreNo) (n : SiteNo), s.siteOf lc = some n → s.fuses.siteGood.getLsbD n.val = true

/-! ### Frames: everything but one part is as before -/

/-- Only core site n may differ. -/
def onlySite (n : SiteNo) (s t : State) : Prop :=
  t = { s with sites := t.sites } ∧ ∀ m, m ≠ n → t.site m = s.site m

/-- Only engine e of core site n may differ. -/
def onlyEngine (n : SiteNo) (e : EngNo) (s t : State) : Prop :=
  onlySite n s t ∧ t.site n = { s.site n with engines := (t.site n).engines } ∧
  ∀ x, x ≠ e → (t.site n).eng x = (s.site n).eng x

/-- Only link l may differ. -/
def onlyLink (l : LinkNo) (s t : State) : Prop :=
  t = { s with links := t.links } ∧ ∀ m, m ≠ l → t.link m = s.link m

/-- Link l is DOWN: it has no keys, lanes or credits, and but for it only the tree edges, the records and the journal
may differ (R269, R277, R294). -/
def downNow (s t : State) (l : LinkNo) : Prop :=
  (t.link l).st = .down ∧ (t.link l).key = none ∧ (t.link l).rxKey = none ∧ (t.link l).lanes = 0 ∧
  (t.link l).credits = [] ∧ (∀ m, m ≠ l → t.link m = s.link m) ∧
  t = { s with links := t.links, coll := { s.coll with trees := t.coll.trees }, flt := t.flt, jrnl := t.jrnl }

/-- Only bell b may differ. -/
def onlyBell (b : BellNo) (s t : State) : Prop :=
  t = { s with coll := { s.coll with bells := t.coll.bells } } ∧ ∀ m, m ≠ b → t.bell m = s.bell m

/-- Only ring r may differ. -/
def onlyRing (r : RingNo) (s t : State) : Prop :=
  t = { s with host := { s.host with rings := t.host.rings } } ∧ ∀ m, m ≠ r → t.ring m = s.ring m

/-- Only power domain d may differ. -/
def onlyDomain (d : DomainNo) (s t : State) : Prop :=
  t = { s with pwr := { s.pwr with doms := t.pwr.doms } } ∧ ∀ m, m ≠ d → t.dom m = s.dom m

/-- Only clock region r may differ. -/
def onlyRegion (r : RegionNo) (s t : State) : Prop :=
  t = { s with clk := { s.clk with regions := t.clk.regions } } ∧ ∀ m, m ≠ r → t.region m = s.region m

/-- Only interrupt source n may differ. -/
def onlySource (n : Nat) (s t : State) : Prop :=
  t = { s with ic := { s.ic with srcs := t.ic.srcs } } ∧ ∀ m, m ≠ n → t.src m = s.src m

/-! ### Dispatching a bundle (R125, R128, R157) -/

/-- The command's bundle is tried in the site's present cycle: no cycle has passed uncounted since the last one,
and what was fetched and read for it is sound. Every other bundle comes down to this (BundlesThatWait). -/
abbrev fetchedClean (s : State) (d : Disp) : Prop :=
  d.cycles = 0 ∧ d.ps = .clean ∧ d.ws = .clean ∧ (s.site d.site).bubble = false ∧
  (s.site d.site).pc ∉ (s.site d.site).psBad

/-- The bundle of d, with the syllable y in its place, dispatches: the sequencer of its site runs and is clocked,
every condition of Table 5.3 holds, and no syllable raises a precise exception. -/
def dispatches (s : State) (d : Disp) (y : Syll) : Prop :=
  fetchedClean s d ∧ (s.site d.site).seq = .running ∧ s.clocked d.site = true ∧
  (s.site d.site).badSlot d.head (slotsOf d y) = none ∧
  s.canDispatch d.site d.head ((slotsOf d y).map (·.2)) = true ∧
  s.firstRaise d.site [] (slotsOf d y) = none

/-- The syllables of a bundle. DEDUCED, log entry 13. -/
def bundleOf (d : Disp) (y : Syll) : List Syll := (slotsOf d y).map (·.2)

/-- A site without what a dispatch may change. -/
def Site.undispatched (c : Site) : Site :=
  { c with
    seq := .idle, pc := 0, loops := [], cycle := 0, bubble := false, quiet := 0, slipMax := 0, sref := none, launch := none, sregs := [],
    aregs := [], toks := [], tokenSat := false, pend := [], engines := [], sill := [], sillFree := 0,
    queues := [], vecQ := [], vecFlush := 0, forecasts := [], hint := none, bellsOut := 0, bellQ := [],
    tallyTable := 0 }

/-- No memory, vector register, error record or power state of a site differs: only what a dispatch may change. -/
def siteDispatched (c c' : Site) : Prop := c'.undispatched = c.undispatched

/-- The fabric without what sending a packet changes: buffers, packets on their way, requests awaiting a response,
packets waiting at source ports, and the port granted last. -/
def Fabric.unsent (f : Fabric) : Fabric := { f with bufs := [], flying := [], txns := [], waiting := [], portLast := [] }

/-- A state without its sites, its outputs and its tallies, and without what a bell operation sent may change: what
is on its way in the fabric, and the count and reports of operations that fail. -/
def State.outer (s : State) : State :=
  { s with sites := [], out := [], coll := { s.coll with tallies := [], remoteFail := 0 }, fab := s.fab.unsent,
           flt := { s.flt with reports := [] } }

/-- What a dispatched bundle leaves alone: every other site; outside the sites all but the tallies' shares and the
bell operations sent with the packets that carry them, and those too when the bundle holds no BELL and no TALLY; of
its own site every memory, vector register, error record and power state, and every S and A register that no
syllable of the bundle writes. -/
def dispatched (d : Disp) (y : Syll) (s t : State) : Prop :=
  t.outer = s.outer ∧
  ((∀ z ∈ bundleOf d y, isBell z = false ∧ z.isTally = false) → t = { s with sites := t.sites }) ∧
  (∀ m, m ≠ d.site → t.site m = s.site m) ∧
  siteDispatched (s.site d.site) (t.site d.site) ∧
  (∀ r : BitVec 5, (∀ z ∈ bundleOf d y, z.writesS ≠ some r) →
    (t.site d.site).sreg r = (s.site d.site).sreg r) ∧
  (∀ r : BitVec 5, (∀ z ∈ bundleOf d y, z.writesA ≠ some r) →
    (t.site d.site).areg r.toNat = (s.site d.site).areg r.toNat)

/-- The flow of a bundle without a branch (R133): one cycle; the next bundle, or the start of the innermost loop
that ends here while iterations remain; a loop whose last iteration ends is freed, and the next one out that ends
here too advances in its place. -/
def flowsOn (s t : State) (n : SiteNo) : Prop :=
  (t.site n).cycle = (s.site n).cycle + 1 ∧
  ((∀ l ∈ (s.site n).loops, l.endB ≠ (s.site n).pc) →
    (t.site n).pc = (s.site n).pc + 1 ∧ (t.site n).loops = (s.site n).loops) ∧
  (∀ done l outer, (s.site n).loops = done ++ l :: outer →
    (∀ x ∈ done, x.endB = (s.site n).pc ∧ x.count.toNat ≤ 1) → l.endB = (s.site n).pc → 1 < l.count →
    (t.site n).pc = l.start ∧ (t.site n).loops = { l with count := l.count - 1 } :: outer)

/-- A program exception is raised on a site (R157, Table 5.16): recorded, or OVERRUN set when one stands; dispatch
stopped; the fault manager told; nothing else changed. -/
def raised (s t : State) (n : SiteNo) (code : BitVec 6) (slot : Nat) (info : BitVec 32) : Prop :=
  t = { s with sites := t.sites, flt := { s.flt with reports := t.flt.reports } } ∧
  (∀ m, m ≠ n → t.site m = s.site m) ∧
  t.site n = { s.site n with seq := .stopped, exc := (t.site n).exc, excInfo := (t.site n).excInfo } ∧
  ((s.site n).exc.getLsbD 31 = false →
    (t.site n).exc.getLsbD 31 = true ∧ (t.site n).exc.extractLsb' 24 6 = code ∧
    (t.site n).exc.extractLsb' 21 3 = BitVec.ofNat 3 slot ∧ (t.site n).exc.extractLsb' 0 16 = (s.site n).pc ∧
    (t.site n).excInfo = info) ∧
  ((s.site n).exc.getLsbD 31 = true → (t.site n).excInfo = (s.site n).excInfo ∧
    (t.site n).exc = (s.site n).exc ||| 0x40000000) ∧
  ∃ r ∈ t.flt.reports, r.2.site = some n ∧ r.2.detail = code.setWidth 32

/-- What a syllable signals to a token (R149). -/
def signalled (tok : BitVec 6) : Syll → Nat
  | .signal k a => if k = tok then a.toNat else 0
  | _ => 0

/-- The command of a syllable: its row of the opcode table. -/
def rowOf (d : Disp) : Syll → Instr
  | .nop => .nop d
  | .br t => .br d t
  | .brc c r1 r2 i i16 t => .brc d c r1 r2 i i16 t
  | .loop c r n e => .loop d c r n e
  | .halt => .halt d
  | .trap c => .trap d c
  | .settle => .settle d
  | .sched => .sched d
  | .waitUntil r => .waitUntil d r
  | .forecast m l b n => .forecast d m l b n
  | .phaseHint v o => .phaseHint d v o
  | .alu .add f => .add d f
  | .alu .sub f => .sub d f
  | .alu .and f => .and d f
  | .alu .or f => .or d f
  | .alu .xor f => .xor d f
  | .alu .shl f => .shl d f
  | .alu .shr f => .shr d f
  | .alu .sra f => .sra d f
  | .alu .mul f => .mul d f
  | .alu .min f => .min d f
  | .alu .max f => .max d f
  | .li r i => .li d r i
  | .lih r i => .lih d r i
  | .aadd f => .aadd d f
  | .amov a b => .amov d a b
  | .smova a b => .smova d a b
  | .lds f => .lds d f
  | .sts f => .sts d f
  | .status r c x => .status d r c x
  | .matrix f => .matrix d f
  | .latch f => .latch d f
  | .feed f => .feed d f
  | .bankDrain f => .bankDrain d f
  | .bankFree e b => .bankFree d e b
  | .ewise f => .ewise d f
  | .vec .vld f => .vld d f
  | .vec .vst f => .vst d f
  | .vec .vfma f => .vfma d f
  | .vec .vadd f => .vadd d f
  | .vec .vsub f => .vsub d f
  | .vec .vmul f => .vmul d f
  | .vec .vmin f => .vmin d f
  | .vec .vmax f => .vmax d f
  | .vec .vcmp f => .vcmp d f
  | .vec .vsel f => .vsel d f
  | .vec .vsfu f => .vsfu d f
  | .vec .vred f => .vred d f
  | .vec .vbcast f => .vbcast d f
  | .vec .vmovs f => .vmovs d f
  | .vec .vwadd f => .vwadd d f
  | .vec .vwanch f => .vwanch d f
  | .vec .vwcvt f => .vwcvt d f
  | .vec .vxpose f => .vxpose d f
  | .push q a => .push d q a
  | .sfree e => .sfree d e
  | .signal t n => .signal d t n
  | .bell f => .bell d f
  | .tally a => .tally d a

/-- The queues of a site hold what they held, with more behind it, and the same engines run what is addressed to
each engine (R82). -/
def queuesGrow (c c' : Site) : Prop :=
  c.vecQ <+: c'.vecQ ∧ c.pend <+: c'.pend ∧
  (∀ e, (c.eng e).arrayQ <+: (c'.eng e).arrayQ ∧ (c.eng e).feedQ <+: (c'.eng e).feedQ ∧
    (c.eng e).latchQ <+: (c'.eng e).latchQ) ∧
  (∀ q, (c.queue q).waiting <+: (c'.queue q).waiting) ∧
  ∀ e, c'.runner e = c.runner e

/-! ### Engines, sill and votes of a core -/

/-- A site without its engines, its sill, its tokens and its vote. -/
def Site.besidesEngines (c : Site) : Site :=
  { c with engines := [], sill := [], sillFree := 0, sillLast := 0, vote := none, toks := [], tokenSat := false }

/-- Only the engines, the sill, the tokens and the vote of core site n may differ. -/
def onlyEngines (n : SiteNo) (s t : State) : Prop :=
  onlySite n s t ∧ (t.site n).besidesEngines = (s.site n).besidesEngines

/-- The command that issues an operation of an array queue. -/
def issueRow (n : SiteNo) (e : EngNo) : ArrayKind → Instr
  | .matrix _ => .matrixIssue n e
  | .ewise _ => .ewiseIssue n e
  | .drain _ => .bankDrainIssue n e
  | .free _ => .bankFreeIssue n e

/-! ### Records and reports -/

/-- One record of a class has been added: it has the next number and stands last in the record buffer, whose
oldest of 512 it displaces (R423). -/
def logged (s t : State) (cls : BitVec 16) : Prop :=
  t.flt.nextId = s.flt.nextId + 1 ∧
  ∃ r, t.flt.buf = (if 512 ≤ s.flt.buf.length then s.flt.buf.drop 1 else s.flt.buf) ++ [r] ∧
    r.cls = cls ∧ r.id = s.flt.nextId

/-- The fault manager holds one report more, of a class and a site (R402). -/
def told (s t : State) (cls : BitVec 16) (site : Option SiteNo) : Prop :=
  t.flt.reports.length = s.flt.reports.length + 1 ∧ ∃ r ∈ t.flt.reports, r.2.cls = cls ∧ r.2.site = site

/-- Only the records, the reports and the journal may differ. -/
def onlyLog (s t : State) : Prop := t = { s with flt := t.flt, jrnl := t.jrnl }

/-- Only site n, the records, the reports and the journal may differ. -/
def siteAndLog (n : SiteNo) (s t : State) : Prop :=
  t = { s with sites := t.sites, flt := t.flt, jrnl := t.jrnl } ∧ ∀ m, m ≠ n → t.site m = s.site m

/-! ### Router ports -/

/-- Nothing waits at a router's source port: no packet is queued, and no copy of a core there has a request to send. -/
def State.portIdle (s : State) (r : Fin 64) : Bool :=
  s.fab.waiting.isEmpty &&
  (match siteAtRtr r with
   | some n => (List.finRange 4).all fun q => (s.copyHead n q).isNone
   | none => true)

/-- A router's source port injects at once what it is handed: no pause, room for a packet on both planes, and nothing
waits there (R202, R204). -/
def State.portFree (s : State) (r : Fin 64) : Bool :=
  s.fab.paused.isNone && s.portIdle r && decide ((s.buf r 4 false).length < 2) &&
  decide ((s.buf r 4 true).length < 2)

/-- What the fabric does to send a packet may differ: buffers, packets on their way, and the port granted last. -/
def fabSent (s t : State) : Prop :=
  t.fab = { s.fab with bufs := t.fab.bufs, flying := t.fab.flying, portLast := t.fab.portLast }

/-! ### Bell operations on their way -/

/-- A bell operation has been sent from an endpoint and awaits its response: it is announced after what was sent
before, and its SVC packet is a request outstanding since now, or the last that waits at source ports (R199, R290,
R292). -/
def bellSent (s t : State) (src : Fin 64 × Bool) (who : BellFor) (m : BellMsg) : Prop :=
  (∃ os, t.out = s.out ++ .bellOp m :: os) ∧
  ∃ dst, s.bellWay m = some dst ∧
    ((∃ x, t.fab.txns = s.fab.txns ++ [x] ∧ x.rtr = src.1 ∧ x.use = .bell who m.dev ∧ x.since = s.tb ∧
        x.pkt.dstRtr = dst.1 ∧ x.pkt.dstEp = dst.2 ∧ x.pkt.data = bellOpBytes m s.id.dev) ∨
      t.fab.waiting = s.fab.waiting ++ [{ pkt := s.bellPacket src dst m, kind := .request (.bell who m.dev) }])

/-- Bell b has taken an operation and answered it; nothing but that bell and what the answer takes may differ. -/
def bellTook (s t : State) (op : BitVec 8) (b : BellNo) (src : BellSrc) (img : Option BellImg) : Prop :=
  t = { (s.bellCame b src).bellAnswer op b src 0 img with coll := { s.coll with bells := t.coll.bells } } ∧
  ∀ x, x ≠ b → t.bell x = s.bell x

/-- A bell operation has a way: the route of R215 to its field's services endpoint, or to the link that carries
it. -/
def bellHasWay (s : State) (src : Fin 64) (m : BellMsg) : Prop :=
  ∃ dst, s.bellWay m = some dst ∧ s.reach src dst.1 = true

/-! ### Descriptors -/

/-- The descriptor d with number id starts as a command of a class now: it is the next of its ring to start, its
deadline has not ended, and its hamlet is in no transition (R320, R330). -/
def classStarts (s : State) (id : Nat) (d : Desc) (cls : BitVec 8) : Prop :=
  s.desc id = some d ∧ d.cls = cls ∧ s.mayStart d = true ∧
  windowOver d.fetched d.deadline s.tb = false ∧ s.hamletResetting (s.scopeOf d) = false

/-- A write has left for the host, or is held because both ports are DOWN (R312, R313). -/
def wroteHost (s t : State) (o : Out) : Prop :=
  (s.host.downSince = none → t.out = s.out ++ [o] ∧ t.host.held = s.host.held) ∧
  (s.host.downSince ≠ none → t.out = s.out ∧ t.host.held = s.host.held ++ [o])

/-- The completion of a descriptor is ready with a status, DETAIL and RESULT, and no other descriptor has
changed. -/
def answered (s t : State) (id : Nat) (status : BitVec 7) (detail : Word32) (result : Word64) : Prop :=
  (∃ d e, s.desc id = some d ∧ t.desc id = some e ∧ e = { d with started := true, ready := e.ready } ∧
    e.ready = some { status := status, detail := detail, result := result, time := s.tb }) ∧
  ∀ k, k ≠ id → t.desc k = s.desc k

/-- Nothing has changed but that a descriptor's completion is ready. -/
def onlyAnswered (s t : State) (id : Nat) (status : BitVec 7) (detail : Word32) (result : Word64) : Prop :=
  t = { s with host := { s.host with descs := t.host.descs } } ∧ answered s t id status detail result

/-- The descriptor rows: the command, its CLASS, which descriptors of the class it runs, and which of those pass
the checks of their fields (R322, R327). -/
def classRows (id : Nat) (bs : List Byte) (hf : SourceObs) (img : List Word64)
    (sf : Option (Nat × BitVec 8)) (ws : List Word32) :
    List (Instr × BitVec 8 × (Desc → Bool) × (Desc → Bool)) :=
  [(.loadWeights id bs hf, 1, fun _ => true, Desc.lwValid), (.launch id img, 2, fun _ => true, Desc.launchValid),
   (.copy id bs sf, 3, fun _ => true, Desc.cpValid), (.tallyInfo id, 4, Desc.isTally 0, Desc.tallyValid),
   (.tallyExport id, 4, fun d => decide (d.tallyOp = 1), Desc.tallyValid),
   (.tallyImport id bs, 4, fun d => decide (d.tallyOp = 2), Desc.tallyValid),
   (.bellOpAdd id, 6, fun d => decide (d.sub = 0) || !bclassOk d.sub, Desc.bellValid),
   (.bellOpSet id, 6, fun d => decide (d.sub = 1), Desc.bellValid),
   (.bellOpArm id, 6, fun d => decide (d.sub = 2), Desc.bellValid),
   (.bellOpDisarm id, 6, fun d => decide (d.sub = 3), Desc.bellValid),
   (.bellOpRead id, 6, fun d => decide (d.sub = 4), Desc.bellValid),
   (.treeInstall id, 6, fun d => decide (d.sub = 0x10), Desc.installValid),
   (.systemReset id, 6, fun d => decide (d.sub = 0x20), Desc.bellValid),
   (.queryDevice id, 7, fun d => decide (d.sub = 0) || decide (5 ≤ d.sub), Desc.queryValid),
   (.queryCoreMap id, 7, fun d => decide (d.sub = 1), Desc.queryValid),
   (.queryHamlet id, 7, fun d => decide (d.sub = 2), Desc.queryValid),
   (.queryLinks id, 7, fun d => decide (d.sub = 3), Desc.queryValid),
   (.queryFaultRecords id, 7, fun d => decide (d.sub = 4), Desc.queryValid)]

/-! ### Recovery of jobs -/

/-- A job of this device is in recovery r, and no job of its number in another scope. -/
def recovering (s : State) (r : Recov) : Prop :=
  s.jobDescs r.scope r.job ≠ [] ∧ s.recov r.scope r.job = some r ∧ ∀ q ∈ s.flt.jobs, q.job = r.job → q = r

/-- The neighbours of this device in a job's tree but one, and whether each is the parent (R410). -/
def State.neighbours (s : State) (r : Recov) (but : Option (BitVec 12)) : List (BitVec 12 × Bool) :=
  (((s.jobParent r.scope r.job).toList.map fun d => (d, true)) ++
    (s.jobChildren r.scope r.job).map fun d => (d, false)).filter fun p => decide (some p.1 ≠ but)

/-- A message of a job's recovery to the neighbours but one (R410, R419). -/
def State.toNeighbours (s : State) (k : RecKind) (r : Recov) (cause : BitVec 16) (but : Option (BitVec 12)) :
    List Out :=
  (s.neighbours r but).map fun p => .recovery k p.1 (s.recMsg r cause 0 p.2) r.scope

/-- A message of a job's recovery to the children (R410). -/
def State.toChildren (s : State) (k : RecKind) (r : Recov) (instant : Word64) : List Out :=
  (s.jobChildren r.scope r.job).map fun d => .recovery k d (s.recMsg r 0 instant false) r.scope

/-- Only the jobs in recovery and what is sent may differ; job r is in recovery q, and msgs are sent. -/
def recoveryGoes (s t : State) (r q : Recov) (msgs : List Out) : Prop :=
  t = { s with flt := { s.flt with jobs := t.flt.jobs }, out := s.out ++ msgs } ∧
  t.recov r.scope r.job = some q ∧
  ∀ o j, (o, j) ≠ (r.scope, r.job) → t.recov o j = s.recov o j

/-- A job has failed here (R419): its cores are reset, with working stores zeroised and in no LAUNCH; its LAUNCHes
whose windows have not ended complete with FAILED and the number of the last complete tally; the failure is counted
and the job in recovery no more. -/
def jobFailed (s t : State) (o : Option HamletNo) (job : Word32) : Prop :=
  (∀ n ∈ s.jobSites o job, (t.site n).seq = .idle ∧ (t.site n).launch = none ∧ (t.site n).ws = []) ∧
  (∀ id ∈ s.jobDescs o job, ∀ d, s.desc id = some d → d.ready = none →
    windowOver d.fetched d.deadline s.tb = false →
    ∃ e c, t.desc id = some e ∧ e.ready = some c ∧ c.status = 7 ∧ c.detail = s.lastNo o job) ∧
  t.flt.failedJobs = satInc s.flt.failedJobs ∧ t.recov o job = none

/-- A recovery of a job has begun here and waits for its children (R410): its cores are reset with CORE_EXC kept,
the recovery is counted, and STOP has gone to the neighbours but one. -/
def recoveryBegun (s t : State) (o : Option HamletNo) (job : Word32) (q : Recov) (but : Option (BitVec 12)) : Prop :=
  q.scope = o ∧ q.job = job ∧ q.phase = .stop ∧ q.since = s.tb ∧ q.tally = s.lastNo o job ∧
  q.waitStopped = s.jobChildren o job ∧ q.waitReady = s.jobChildren o job ∧
  t.recov o job = some q ∧ t.flt.recoveries = satInc s.flt.recoveries ∧
  t.out = s.out ++ s.toNeighbours .stop q 0 but ∧
  ∀ n ∈ s.jobSites o job, (t.site n).seq = .idle ∧ (t.site n).exc = (s.site n).exc

/-! ### The reeve, the start and the management port -/

/-- The mailbox has answered with a status and an output, and is not busy (R449); nothing else has changed. -/
def replied (s t : State) (status : BitVec 3) (bs : List Byte) : Prop :=
  t = { s with sec := { s.sec with status := status, outBuf := t.sec.outBuf, outLen := BitVec.ofNat 17 bs.length, busy := false } } ∧
  tbytes (fun _ => 0) t.sec.outBuf 0 bs.length = bs

/-- A management response with a content waits (R468), and nothing else has changed. -/
def responds (s t : State) (bs : List Byte) : Prop :=
  t = { s with board := { s.board with assembling := none, response := some (s.tb, bs) } }

/-- A warm reset has begun (R336): READY is 0, nothing is armed, shadow and held words are dropped; nothing else has
changed. -/
def resetBegun (s t : State) : Prop :=
  t = { s with shadows := [], helds := [], host := { s.host with ready := false, resetting := true, arm := none }, board := { s.board with resetDue := true } }

/-- A start has run its steps (R428, R429, R452): it ends in recovery when the image fails a check, halted when the
journal has lost its MFG record, and else at READY, with the good sites bound, the page map bound, and the time base,
the bells of the lit fields and the DRBG in service. -/
def startEnds (o : StartObs) (s t : State) : Prop :=
  (∀ why, bootFail o.fwImage o.fwSigOk o.fwDigestOk o.fwSvn s.fuses.svn = some why →
    t.sec.recovery = true ∧ t.board.stage = 11 ∧ t.host.ready = false ∧ t.fuses = s.fuses) ∧
  (bootFail o.fwImage o.fwSigOk o.fwDigestOk o.fwSvn s.fuses.svn = none →
    (o.journalMfg = false → t.board.stage = 12 ∧ t.host.ready = false ∧ t.fuses = s.fuses) ∧
    (o.journalMfg = true → t.board.stage = 10 ∧ t.host.ready = true ∧ t.host.resetting = false ∧
      t.clk.everReady = true ∧ t.mem.mapBound = true ∧ t.sec.entropyOk = true ∧ t.sec.fwDigest = o.fwDigest ∧
      t.sec.imageSvn = o.fwSvn ∧ t.id.fwBuild = o.fwBuild ∧ t.role = s.role ∧
      t.fuses = { s.fuses with svn := if s.fuses.svn < o.fwSvn ∧ o.fwCommitSvn = true then o.fwSvn else s.fuses.svn } ∧
      bindsFused t ∧ (∀ lc, (t.siteOf lc).isSome = true → lc.val < s.activeCount) ∧
      ∀ f : FieldNo, t.coll.lit.getLsbD f.val = !t.isDark f))

/-- Every rail but the always-on rail has dropped for a cause (Table 19.3): the cores, the core map, the bells and
GDDR7 are as after a cold start; the fuses, the sealed records and the queue of commands stay. -/
def railsDropped (s t : State) (cause : BitVec 3) : Prop :=
  t.board.rails = false ∧ t.board.cause = cause ∧ t.host.ready = false ∧ t.sites = [] ∧ t.coreMap = [] ∧
  t.coll = {} ∧ t.mem.ddr = [] ∧ t.sec.entropyOk = false ∧ t.fuses = s.fuses ∧ t.jrnl.recs = s.jrnl.recs ∧
  t.tb = s.tb ∧ t.pending = s.pending

end Sys2Proof.Machine
end

