-- ==== Sys2Proof/Certificates/Slice0/Obligations.lean ====
section
/-!
DEFINITION. Certificates/Slice0/Obligations.lean: the statements about the block, for the provers.
-/

open Sys2Proof Sys2Proof.Machine

/-- A step at a state whose queue has c in front is exec of c on the state with the rest of the queue. -/
def Obligations.StepRunsFront : Prop :=
  ∀ (c : Instr) (rest : List Instr) (s : State), s.pending = c :: rest →
    step s = exec c { s with pending := rest }

/-- The model's choice (log entry 1): with nothing queued, one tick of the time base passes. R353 gives the count, R355 the slew of a correction: 0 or 2 instead of 1, in at most one tick of every 5,000. -/
def Obligations.IdleTick : Prop :=
  ∀ s : State, s.pending = [] → ∃ t, step s = .next t ∧
    t = { s with tb := t.tb, clk := { s.clk with slew := t.clk.slew } } ∧
    (s.clk.slew = 0 ∨ s.tb.toNat % 5000 ≠ 0 → t.tb = s.tb + 1 ∧ t.clk.slew = s.clk.slew) ∧
    (0 < s.clk.slew ∧ s.tb.toNat % 5000 = 0 → t.tb = s.tb + 2 ∧ t.clk.slew = s.clk.slew - 1) ∧
    (s.clk.slew < 0 ∧ s.tb.toNat % 5000 = 0 → t.tb = s.tb ∧ t.clk.slew = s.clk.slew + 1)

/-- No command stops the block: every row of the table, in every state and with every operand, answers a next state. -/
def Obligations.EveryCommandAnswersNext : Prop :=
  ∀ (c : Instr) (s : State), ∃ t, exec c s = .next t

/-- A command's effect is on everything but the queue. -/
def Obligations.CommandsKeepQueue : Prop :=
  ∀ (c : Instr) (s t : State), exec c s = .next t → t.pending = s.pending

/-- The core map binds logical cores to sites that the fuses mark good (R456 and the replacement rules): every step keeps it. -/
def Obligations.BoundSitesAreFused : Prop :=
  ∀ s t : State, bindsFused s → step s = .next t → bindsFused t

/-- The invariant of BoundSitesAreFused holds at reset, where no logical core is bound. -/
def Obligations.ResetBindsNone : Prop :=
  bindsFused State.reset ∧ ∀ lc : LCoreNo, State.reset.siteOf lc = none

/-- R128, with Table 5.6 for the six operations: the result stands in S[RD] after the dispatch. In any bundle that dispatches, whatever else it holds; a result for S0 is discarded and S0 reads 0. The frame is dispatched: every S and A register no syllable of the bundle writes, every other site, every memory, vector register, error record and power state, and everything outside the sites but bell operations sent and tally shares are as before. -/
def Obligations.ScalarArithmetic : Prop :=
  (∀ (s : State) (d : Disp) (f : AluF), dispatches s d (.alu .add f) →
    completes (.add d f) s fun t => dispatched d (.alu .add f) s t ∧
      (t.site d.site).sreg f.rd = if f.rd = 0 then 0 else
        (s.site d.site).sreg f.rs1 + (if f.imm then f.imm32.signExtend 64 else (s.site d.site).sreg f.rs2)) ∧
  (∀ (s : State) (d : Disp) (f : AluF), dispatches s d (.alu .sub f) →
    completes (.sub d f) s fun t => dispatched d (.alu .sub f) s t ∧
      (t.site d.site).sreg f.rd = if f.rd = 0 then 0 else
        (s.site d.site).sreg f.rs1 - (if f.imm then f.imm32.signExtend 64 else (s.site d.site).sreg f.rs2)) ∧
  (∀ (s : State) (d : Disp) (f : AluF), dispatches s d (.alu .and f) →
    completes (.and d f) s fun t => dispatched d (.alu .and f) s t ∧
      (t.site d.site).sreg f.rd = if f.rd = 0 then 0 else
        (s.site d.site).sreg f.rs1 &&& (if f.imm then f.imm32.signExtend 64 else (s.site d.site).sreg f.rs2)) ∧
  (∀ (s : State) (d : Disp) (f : AluF), dispatches s d (.alu .or f) →
    completes (.or d f) s fun t => dispatched d (.alu .or f) s t ∧
      (t.site d.site).sreg f.rd = if f.rd = 0 then 0 else
        (s.site d.site).sreg f.rs1 ||| (if f.imm then f.imm32.signExtend 64 else (s.site d.site).sreg f.rs2)) ∧
  (∀ (s : State) (d : Disp) (f : AluF), dispatches s d (.alu .xor f) →
    completes (.xor d f) s fun t => dispatched d (.alu .xor f) s t ∧
      (t.site d.site).sreg f.rd = if f.rd = 0 then 0 else
        (s.site d.site).sreg f.rs1 ^^^ (if f.imm then f.imm32.signExtend 64 else (s.site d.site).sreg f.rs2)) ∧
  (∀ (s : State) (d : Disp) (f : AluF), dispatches s d (.alu .mul f) →
    completes (.mul d f) s fun t => dispatched d (.alu .mul f) s t ∧
      (t.site d.site).sreg f.rd = if f.rd = 0 then 0 else
        (s.site d.site).sreg f.rs1 * (if f.imm then f.imm32.signExtend 64 else (s.site d.site).sreg f.rs2))

/-- R138 and Table 5.6: shift counts use bits [5:0] of the second operand, MIN and MAX compare as signed. In any bundle that dispatches, whatever else it holds; a result for S0 is discarded and S0 reads 0. The frame is dispatched: every S and A register no syllable of the bundle writes, every other site, every memory, vector register, error record and power state, and everything outside the sites but bell operations sent and tally shares are as before. -/
def Obligations.ScalarShiftsAndOrder : Prop :=
  (∀ (s : State) (d : Disp) (f : AluF), dispatches s d (.alu .shl f) →
    completes (.shl d f) s fun t => dispatched d (.alu .shl f) s t ∧
      (t.site d.site).sreg f.rd = if f.rd = 0 then 0 else
        (s.site d.site).sreg f.rs1 <<< ((if f.imm then f.imm32.signExtend 64 else (s.site d.site).sreg f.rs2).extractLsb' 0 6).toNat) ∧
  (∀ (s : State) (d : Disp) (f : AluF), dispatches s d (.alu .shr f) →
    completes (.shr d f) s fun t => dispatched d (.alu .shr f) s t ∧
      (t.site d.site).sreg f.rd = if f.rd = 0 then 0 else
        (s.site d.site).sreg f.rs1 >>> ((if f.imm then f.imm32.signExtend 64 else (s.site d.site).sreg f.rs2).extractLsb' 0 6).toNat) ∧
  (∀ (s : State) (d : Disp) (f : AluF), dispatches s d (.alu .sra f) →
    completes (.sra d f) s fun t => dispatched d (.alu .sra f) s t ∧
      (t.site d.site).sreg f.rd = if f.rd = 0 then 0 else
        ((s.site d.site).sreg f.rs1).sshiftRight ((if f.imm then f.imm32.signExtend 64 else (s.site d.site).sreg f.rs2).extractLsb' 0 6).toNat) ∧
  (∀ (s : State) (d : Disp) (f : AluF), dispatches s d (.alu .min f) →
    completes (.min d f) s fun t => dispatched d (.alu .min f) s t ∧
      (t.site d.site).sreg f.rd = if f.rd = 0 then 0 else
        if ((s.site d.site).sreg f.rs1).toInt < (if f.imm then f.imm32.signExtend 64 else (s.site d.site).sreg f.rs2).toInt then (s.site d.site).sreg f.rs1 else (if f.imm then f.imm32.signExtend 64 else (s.site d.site).sreg f.rs2)) ∧
  (∀ (s : State) (d : Disp) (f : AluF), dispatches s d (.alu .max f) →
    completes (.max d f) s fun t => dispatched d (.alu .max f) s t ∧
      (t.site d.site).sreg f.rd = if f.rd = 0 then 0 else
        if ((s.site d.site).sreg f.rs1).toInt < (if f.imm then f.imm32.signExtend 64 else (s.site d.site).sreg f.rs2).toInt then (if f.imm then f.imm32.signExtend 64 else (s.site d.site).sreg f.rs2) else (s.site d.site).sreg f.rs1)

/-- Table 5.6: LI sign-extends IMM32, LIH writes bits [63:32] and keeps the rest, SMOVA copies an A register; AADD adds the second operand to an A register and AMOV copies an S register. In any bundle that dispatches, whatever else it holds; a result for S0 is discarded and S0 reads 0. The frame is dispatched: every S and A register no syllable of the bundle writes, every other site, every memory, vector register, error record and power state, and everything outside the sites but bell operations sent and tally shares are as before. -/
def Obligations.ScalarMoves : Prop :=
  (∀ (s : State) (d : Disp) (rd : BitVec 5) (imm32 : BitVec 32), dispatches s d (.li rd imm32) →
    completes (.li d rd imm32) s fun t => dispatched d (.li rd imm32) s t ∧
      (t.site d.site).sreg rd = if rd = 0 then 0 else
        imm32.signExtend 64) ∧
  (∀ (s : State) (d : Disp) (rd : BitVec 5) (imm32 : BitVec 32), dispatches s d (.lih rd imm32) →
    completes (.lih d rd imm32) s fun t => dispatched d (.lih rd imm32) s t ∧
      (t.site d.site).sreg rd = if rd = 0 then 0 else
        imm32 ++ ((s.site d.site).sreg rd).extractLsb' 0 32) ∧
  (∀ (s : State) (d : Disp) (rd rs1 : BitVec 5), dispatches s d (.smova rd rs1) →
    completes (.smova d rd rs1) s fun t => dispatched d (.smova rd rs1) s t ∧
      (t.site d.site).sreg rd = if rd = 0 then 0 else
        (s.site d.site).areg rs1.toNat) ∧
  (∀ (s : State) (d : Disp) (f : AluF), dispatches s d (.aadd f) →
    completes (.aadd d f) s fun t => dispatched d (.aadd f) s t ∧
      (t.site d.site).areg f.rd.toNat = (s.site d.site).areg f.rs1.toNat +
        (if f.imm then f.imm32.signExtend 64 else (s.site d.site).sreg f.rs2)) ∧
  (∀ (s : State) (d : Disp) (rd rs1 : BitVec 5), dispatches s d (.amov rd rs1) →
    completes (.amov d rd rs1) s fun t => dispatched d (.amov rd rs1) s t ∧
      (t.site d.site).areg rd.toNat = (s.site d.site).sreg rs1)

/-- R131 to R135: a branch taken goes to its TARGET with the loops whose bodies hold it and costs one cycle more; BRC compares by Table 5.5; LOOP enters its body, or skips it when the count is 0. -/
def Obligations.BranchesAndLoops : Prop :=
  (∀ (s : State) (d : Disp) (target : BitVec 16), dispatches s d (.br target) →
    completes (.br d target) s fun t => dispatched d (.br target) s t ∧
      (t.site d.site).pc = target ∧ (t.site d.site).cycle = (s.site d.site).cycle + 2 ∧ (t.site d.site).loops = keepLoops target (s.site d.site).loops) ∧
  (∀ (s : State) (d : Disp) (cond : BitVec 3) (rs1 rs2 : BitVec 5) (imm : Bool) (imm16 target : BitVec 16),
    dispatches s d (.brc cond rs1 rs2 imm imm16 target) →
    completes (.brc d cond rs1 rs2 imm imm16 target) s fun t =>
      dispatched d (.brc cond rs1 rs2 imm imm16 target) s t ∧
      let a := (s.site d.site).sreg rs1
      let b := if imm then imm16.signExtend 64 else (s.site d.site).sreg rs2
      let holds := (cond = 0 ∧ a = b) ∨ (cond = 1 ∧ a ≠ b) ∨ (cond = 2 ∧ a.toInt < b.toInt) ∨
        (cond = 3 ∧ b.toInt ≤ a.toInt) ∨ (cond = 4 ∧ a.toNat < b.toNat) ∨ (cond = 5 ∧ b.toNat ≤ a.toNat)
      (holds → (t.site d.site).pc = target ∧ (t.site d.site).cycle = (s.site d.site).cycle + 2 ∧ (t.site d.site).loops = keepLoops target (s.site d.site).loops) ∧
      (¬ holds → (t.site d.site).pc = (s.site d.site).pc + 1 ∧ (t.site d.site).cycle = (s.site d.site).cycle + 1 ∧ (t.site d.site).loops = (s.site d.site).loops)) ∧
  (∀ (s : State) (d : Disp) (creg : Bool) (rs : BitVec 5) (count endB : BitVec 16),
    dispatches s d (.loop creg rs count endB) →
    completes (.loop d creg rs count endB) s fun t => dispatched d (.loop creg rs count endB) s t ∧
      let n : BitVec 32 := if creg then ((s.site d.site).sreg rs).extractLsb' 0 32 else count.setWidth 32
      (n ≠ 0 → (t.site d.site).pc = (s.site d.site).pc + 1 ∧ (t.site d.site).cycle = (s.site d.site).cycle + 1 ∧
        (t.site d.site).loops = { start := (s.site d.site).pc + 1, endB := endB, count := n } :: (s.site d.site).loops) ∧
      (n = 0 → (∀ l ∈ (s.site d.site).loops, l.endB ≠ endB) →
        (t.site d.site).pc = endB + 1 ∧ (t.site d.site).cycle = (s.site d.site).cycle + 2 ∧ (t.site d.site).loops = keepLoops (endB + 1) (s.site d.site).loops) ∧
      (∀ inner l outer, n = 0 → (s.site d.site).loops = inner ++ l :: outer →
        (∀ x ∈ inner, x.endB ≠ endB ∨ x.count.toNat ≤ 1) → l.endB = endB → 1 < l.count →
        (t.site d.site).pc = l.start ∧ (t.site d.site).cycle = (s.site d.site).cycle + 2 ∧
        (t.site d.site).loops = keepLoops l.start
          ((inner.filter fun x => decide (x.endB ≠ endB)) ++ { l with count := l.count - 1 } :: outer)))

/-- R133, R136, R151, R154 to R156: a bundle without a branch goes to the next bundle, or to the start of the innermost loop that ends there while iterations remain; HALT stops dispatch; SCHED resets the schedule reference; FORECAST adds or withdraws forecasts; PHASE_HINT sets the preference. SETTLE dispatches only when the core has settled, WAIT_UNTIL only when the time base has reached S[RS]. -/
def Obligations.FallsThrough : Prop :=
  (∀ (s : State) (d : Disp), dispatches s d .nop → (∀ z ∈ bundleOf d .nop, z.isCtrl = false) →
    completes (.nop d) s fun t => dispatched d .nop s t ∧ flowsOn s t d.site) ∧
  (∀ (s : State) (d : Disp), dispatches s d (.halt) →
    completes (.halt d ) s fun t => dispatched d (.halt) s t ∧ flowsOn s t d.site ∧
      (t.site d.site).seq = .halted) ∧
  (∀ (s : State) (d : Disp), dispatches s d (.settle) →
    completes (.settle d ) s fun t => dispatched d (.settle) s t ∧ flowsOn s t d.site ∧
      (s.site d.site).queuesEmpty = true ∧ (s.site d.site).enginesDone = true ∧ (s.site d.site).pend = []) ∧
  (∀ (s : State) (d : Disp), dispatches s d (.sched) →
    completes (.sched d ) s fun t => dispatched d (.sched) s t ∧ flowsOn s t d.site ∧
      (t.site d.site).sref = some (s.site d.site).cycle) ∧
  (∀ (s : State) (d : Disp) (rs : BitVec 5), dispatches s d (.waitUntil rs) →
    completes (.waitUntil d rs) s fun t => dispatched d (.waitUntil rs) s t ∧ flowsOn s t d.site ∧
      (s.site d.site).sreg rs ≤ s.tb) ∧
  (∀ (s : State) (d : Disp) (m : BitVec 4) (level : BitVec 5) (start : BitVec 10) (dur : BitVec 12),
    dispatches s d (.forecast m level start dur) →
    completes (.forecast d m level start dur) s fun t => dispatched d (.forecast m level start dur) s t ∧
      flowsOn s t d.site ∧ (dur = 0 → (t.site d.site).forecasts = []) ∧
      (dur ≠ 0 → Forecast.mk m level (s.tb + BitVec.ofNat 64 (start.toNat * 100))
        (s.tb + BitVec.ofNat 64 (start.toNat * 100) + BitVec.ofNat 64 (dur.toNat * 1000)) false ∈ (t.site d.site).forecasts)) ∧
  (∀ (s : State) (d : Disp) (valid : Bool) (op : BitVec 3), dispatches s d (.phaseHint valid op) →
    completes (.phaseHint d valid op) s fun t => dispatched d (.phaseHint valid op) s t ∧ flowsOn s t d.site ∧
      (t.site d.site).hint = if valid then some op else none)

/-- R125 and R152: while a condition of Table 5.3 fails, nothing is dispatched; the cycle counts, and it counts as slip when the bundle is timed and its scheduled cycle has come. -/
def Obligations.BundlesThatWait : Prop :=
  (∀ (s : State) (d : Disp) (y : Syll), fetchedClean s d → (s.site d.site).seq = .running →
    s.clocked d.site = true → (s.site d.site).badSlot d.head (slotsOf d y) = none → s.canDispatch d.site d.head (bundleOf d y) = false →
    ∃ t, exec (rowOf d y) s = .next t ∧ onlySite d.site s t ∧
      (t.site d.site) = { (s.site d.site) with
        cycle := (s.site d.site).cycle + 1, sref := some (s.site d.site).ref,
        slip := if d.head.timed = true ∧ (s.site d.site).schedule d.head ≤ (s.site d.site).cycle then (s.site d.site).slip + 1 else (s.site d.site).slip }) ∧
  (∀ (s : State) (d : Disp) (y : Syll), dispatches s d y →
    ∃ t, exec (rowOf d y) s = .next t ∧ dispatched d y s t ∧
      (t.site d.site).pc = ((s.site d.site).flow (bundleOf d y)).pc ∧ (t.site d.site).loops = ((s.site d.site).flow (bundleOf d y)).loops ∧
      (t.site d.site).cycle = (s.site d.site).cycle + (if ((s.site d.site).flow (bundleOf d y)).extra then 2 else 1 : BitVec 64) ∧
      (t.site d.site).slip = (s.site d.site).slip ∧ queuesGrow (s.site d.site) (t.site d.site)) ∧
  (∀ (s : State) (d : Disp) (y : Syll), s.clocked d.site = true →
    let u := s.begin d y
    let e : Disp := { d with cycles := 0, ps := .clean, ws := .clean }
    exec (rowOf d y) s = exec (rowOf e y) u ∧ siteAndLog d.site s u ∧
    (u.site d.site).cycle = (s.site d.site).cycle + d.cycles ∧ (u.site d.site).bubble = false ∧
    ((u.site d.site).seq = .running → fetchedClean u e)) ∧
  (∀ (s : State) (d : Disp) (y : Syll), s.clocked d.site = false → completes (rowOf d y) s (· = s)) ∧
  (∀ (s : State) (d : Disp) (y : Syll), s.clocked d.site = true → (s.site d.site).seq ≠ .running →
    completes (rowOf d y) s fun t => t = s.passed d.site (some d.head) d.cycles) ∧
  (∀ (s : State) (n : SiteNo) (h : Head) (k : Word64) (r : Word64), (s.site n).sref = some r →
    (s.site n).seq = .running → h.timed = true → (s.site n).bubble = false → k ≠ 0 →
    (s.site n).cycle.toNat + k.toNat < 2 ^ 64 →
    ((s.passed n (some h) k).site n).slip = (s.site n).slip +
      (if (s.site n).schedule h ≤ (s.site n).cycle then k
       else if (s.site n).schedule h < (s.site n).cycle + k then (s.site n).cycle + k - (s.site n).schedule h
       else 0)) ∧
  (∀ (s : State) (d : Disp) (y : Syll), (s.site d.site).seq = .running → s.clocked d.site = true → d.cycles = 0 →
    (s.site d.site).bubble = false → d.ps = .uncorrectable ∨ (s.site d.site).pc ∈ (s.site d.site).psBad →
    completes (rowOf d y) s fun t => siteAndLog d.site s t ∧ logged s t 0x0009 ∧ told s t 0x0009 (some d.site) ∧
      t.site d.site = { s.site d.site with seq := .stopped, psEcc := eccUncorrectable (s.site d.site).psEcc })

/-- R157: no syllable of the bundle takes effect, dispatch stops, the fault manager is told; CORE_EXC records the exception with its slot and bundle, or sets OVERRUN when one is recorded already. A TRAP raises code 0x0E with its CODE in CORE_EXC_INFO. -/
def Obligations.PreciseExceptions : Prop :=
  (∀ (s : State) (d : Disp) (y : Syll) (k : Nat), fetchedClean s d → (s.site d.site).seq = .running →
    s.clocked d.site = true → (s.site d.site).badSlot d.head (slotsOf d y) = some k →
    ∃ t, exec (rowOf d y) s = .next t ∧ raised s t d.site 0x01 k 0) ∧
  (∀ (s : State) (d : Disp) (y : Syll) (k : Nat) (code : BitVec 6) (info : BitVec 32), fetchedClean s d →
    (s.site d.site).seq = .running → s.clocked d.site = true → (s.site d.site).badSlot d.head (slotsOf d y) = none →
    s.canDispatch d.site d.head (bundleOf d y) = true →
    s.firstRaise d.site [] (slotsOf d y) = some (k, code, info) →
    ∃ t, exec (rowOf d y) s = .next t ∧ raised s t d.site code k info) ∧
  (∀ (s : State) (d : Disp) (code : BitVec 16), fetchedClean s d → (s.site d.site).seq = .running →
    s.clocked d.site = true → d.rest = [] →
    (s.site d.site).badSlot d.head (slotsOf d (.trap code)) = none → s.canDispatch d.site d.head [.trap code] = true →
    completes (.trap d code) s fun t => raised s t d.site 0x0E (d.slot.val + 1) (code.setWidth 32)) ∧
  (∀ (s : State) (n : SiteNo) (k : Nat), (s.site n).seq = .running → s.clocked n = true →
    (s.site n).pc ∉ (s.site n).psBad → (s.site n).storeBadSlot = some k →
    completes (.preciseException n) s fun t => raised s t n 0x01 k 0)

/-- R128, R138, R139: LDS marks S[RD] pending and queues a read of A[RS1] + IMM32; STS queues a write there of S[RS2]; STATUS marks S[RD] pending with the source's value. PENDING_WRITE_ARRIVES writes the first pending value that has arrived and clears its mark. -/
def Obligations.LoadsStoresStatus : Prop :=
  (∀ (s : State) (d : Disp) (f : MemF), dispatches s d (.lds f) →
    completes (.lds d f) s fun t => dispatched d (.lds f) s t ∧
      queuesGrow (s.site d.site) (t.site d.site) ∧
      (∃ v ∈ (t.site d.site).vecQ, v.item = .lds f.reg ∧ v.addr = (s.site d.site).areg f.areg.toNat + f.imm32.signExtend 64 ∧
        v.bundle = (s.site d.site).pc ∧ v.slot = d.slot.val + 1) ∧
      (f.reg ≠ 0 → ({ rd := f.reg, value := none } : PendW) ∈ (t.site d.site).pend)) ∧
  (∀ (s : State) (d : Disp) (f : MemF), dispatches s d (.sts f) →
    completes (.sts d f) s fun t => dispatched d (.sts f) s t ∧
      queuesGrow (s.site d.site) (t.site d.site) ∧
      ∃ v ∈ (t.site d.site).vecQ, v.item = .sts ((s.site d.site).sreg f.reg) ∧
        v.addr = (s.site d.site).areg f.areg.toNat + f.imm32.signExtend 64 ∧ v.bundle = (s.site d.site).pc ∧ v.slot = d.slot.val + 1) ∧
  (∀ (s : State) (d : Disp) (rd : BitVec 5) (clear : Bool) (src : BitVec 8), dispatches s d (.status rd clear src) →
    completes (.status d rd clear src) s fun t => dispatched d (.status rd clear src) s t ∧
      queuesGrow (s.site d.site) (t.site d.site) ∧
      (rd ≠ 0 → ({ rd := rd, value := some (s.statusValue d.site src) } : PendW) ∈ (t.site d.site).pend)) ∧
  (∀ (s : State) (n : SiteNo) (rd : BitVec 5) (v : BitVec 64) (p : PendW),
    (s.site n).pend.find? (fun p => decide (p.rd = rd)) = some p → p.value = some v →
    completes (.pendingWriteArrives n rd) s fun t => onlySite n s t ∧
      (t.site n).sreg rd = (if rd = 0 then 0 else v) ∧ (t.site n).pend = (s.site n).pend.erase p ∧
      (∀ r, r ≠ rd → (t.site n).sreg r = (s.site n).sreg r) ∧
      t.site n = { s.site n with sregs := (t.site n).sregs, pend := (t.site n).pend })

/-- R127, R128, R140, R143 and Table 5.4: the operation stands in the queue of the engine that runs it (its own, or the one a retired engine redirects to, R82), with M, the scales and the offset as read at the start of the cycle. -/
def Obligations.EngineQueues : Prop :=
  (∀ (s : State) (d : Disp) (f : MatrixF), dispatches s d (.matrix f) →
    completes (.matrix d f) s fun t => dispatched d (.matrix f) s t ∧
      queuesGrow (s.site d.site) (t.site d.site) ∧
      ∃ op ∈ ((t.site d.site).eng ((s.site d.site).runner f.eng)).arrayQ, op.kind = .matrix f ∧
        op.bundle = (s.site d.site).pc ∧ op.slot = d.slot.val + 1 ∧ op.named = f.eng ∧
        op.m = (if f.mreg then (((s.site d.site).sreg (f.mfield.extractLsb' 0 5)).extractLsb' 0 32).toNat else f.mfield.toNat + 1) ∧
        op.anchorReg = (if f.anch = 1 then ((s.site d.site).sreg f.anchArg).extractLsb' 0 8 else 0) ∧
        (op.c1, op.c2) = (if f.scalReg = 0 then (0x3F800000#32, 0x3F800000#32) else (((s.site d.site).sreg f.scalReg).extractLsb' 0 32, ((s.site d.site).sreg f.scalReg).extractLsb' 32 32))) ∧
  (∀ (s : State) (d : Disp) (f : DrainF), dispatches s d (.bankDrain f) →
    completes (.bankDrain d f) s fun t => dispatched d (.bankDrain f) s t ∧
      queuesGrow (s.site d.site) (t.site d.site) ∧
      ∃ op ∈ ((t.site d.site).eng ((s.site d.site).runner f.eng)).arrayQ, op.kind = .drain f ∧
        op.bundle = (s.site d.site).pc ∧ op.slot = d.slot.val + 1 ∧ op.named = f.eng ∧ op.m = f.rowsM1.toNat + 1 ∧
        (op.c1, op.c2) = (if f.scalReg = 0 then (0x3F800000#32, 0x3F800000#32) else (((s.site d.site).sreg f.scalReg).extractLsb' 0 32, ((s.site d.site).sreg f.scalReg).extractLsb' 32 32))) ∧
  (∀ (s : State) (d : Disp) (e : EngNo) (b : Fin 4), dispatches s d (.bankFree e b) →
    completes (.bankFree d e b) s fun t => dispatched d (.bankFree e b) s t ∧
      queuesGrow (s.site d.site) (t.site d.site) ∧
      ∃ op ∈ ((t.site d.site).eng ((s.site d.site).runner e)).arrayQ, op.kind = .free b ∧
        op.bundle = (s.site d.site).pc ∧ op.slot = d.slot.val + 1 ∧ op.named = e) ∧
  (∀ (s : State) (d : Disp) (f : EwiseF), dispatches s d (.ewise f) →
    completes (.ewise d f) s fun t => dispatched d (.ewise f) s t ∧
      queuesGrow (s.site d.site) (t.site d.site) ∧
      ∃ op ∈ ((t.site d.site).eng ((s.site d.site).runner f.eng)).arrayQ, op.kind = .ewise f ∧
        op.bundle = (s.site d.site).pc ∧ op.slot = d.slot.val + 1 ∧ op.named = f.eng ∧ op.m = f.nM1.toNat + 1) ∧
  (∀ (s : State) (d : Disp) (f : LatchF), dispatches s d (.latch f) →
    completes (.latch d f) s fun t => dispatched d (.latch f) s t ∧
      queuesGrow (s.site d.site) (t.site d.site) ∧
      ∃ op ∈ ((t.site d.site).eng ((s.site d.site).runner f.eng)).latchQ, op.f = f ∧ op.off = ((s.site d.site).areg f.areg.toNat).toNat ∧
        op.bundle = (s.site d.site).pc ∧ op.slot = d.slot.val + 1) ∧
  (∀ (s : State) (d : Disp) (f : FeedF), dispatches s d (.feed f) →
    completes (.feed d f) s fun t => dispatched d (.feed f) s t ∧
      queuesGrow (s.site d.site) (t.site d.site) ∧
      ∃ op ∈ ((t.site d.site).eng ((s.site d.site).runner f.eng)).feedQ, op.f = f ∧ op.off = ((s.site d.site).areg f.areg.toNat).toNat ∧
        op.m = (if f.mreg then (((s.site d.site).sreg (f.mfield.extractLsb' 0 5)).extractLsb' 0 32).toNat else f.mfield.toNat + 1) ∧
        op.bundle = (s.site d.site).pc ∧ op.slot = d.slot.val + 1)

/-- R128 and R148: the operation stands in the vector queue with A[AREG], the A registers of VA and VB and the S register it names, as they stood at the start of the cycle; VMOVS marks its S register pending. -/
def Obligations.VectorMemoryRowsQueue : Prop :=
  (∀ (s : State) (d : Disp) (f : VecF), dispatches s d (.vec .vld f) →
    completes (.vld d f) s fun t => dispatched d (.vec .vld f) s t ∧
      queuesGrow (s.site d.site) (t.site d.site) ∧
      (∃ v ∈ (t.site d.site).vecQ, v.item = .vec .vld f ∧ v.addr = (s.site d.site).areg f.areg.toNat ∧
        v.sval = (s.site d.site).sreg (f.mod.extractLsb' 20 5) ∧
        v.addrA = (s.site d.site).areg (f.va.toNat % 16) ∧ v.addrB = (s.site d.site).areg (f.vb.toNat % 16) ∧
        v.bundle = (s.site d.site).pc ∧ v.slot = d.slot.val + 1)) ∧
  (∀ (s : State) (d : Disp) (f : VecF), dispatches s d (.vec .vst f) →
    completes (.vst d f) s fun t => dispatched d (.vec .vst f) s t ∧
      queuesGrow (s.site d.site) (t.site d.site) ∧
      (∃ v ∈ (t.site d.site).vecQ, v.item = .vec .vst f ∧ v.addr = (s.site d.site).areg f.areg.toNat ∧
        v.sval = (s.site d.site).sreg (f.mod.extractLsb' 20 5) ∧
        v.addrA = (s.site d.site).areg (f.va.toNat % 16) ∧ v.addrB = (s.site d.site).areg (f.vb.toNat % 16) ∧
        v.bundle = (s.site d.site).pc ∧ v.slot = d.slot.val + 1)) ∧
  (∀ (s : State) (d : Disp) (f : VecF), dispatches s d (.vec .vbcast f) →
    completes (.vbcast d f) s fun t => dispatched d (.vec .vbcast f) s t ∧
      queuesGrow (s.site d.site) (t.site d.site) ∧
      (∃ v ∈ (t.site d.site).vecQ, v.item = .vec .vbcast f ∧ v.addr = (s.site d.site).areg f.areg.toNat ∧
        v.sval = (s.site d.site).sreg f.va ∧
        v.addrA = (s.site d.site).areg (f.va.toNat % 16) ∧ v.addrB = (s.site d.site).areg (f.vb.toNat % 16) ∧
        v.bundle = (s.site d.site).pc ∧ v.slot = d.slot.val + 1)) ∧
  (∀ (s : State) (d : Disp) (f : VecF), dispatches s d (.vec .vmovs f) →
    completes (.vmovs d f) s fun t => dispatched d (.vec .vmovs f) s t ∧
      queuesGrow (s.site d.site) (t.site d.site) ∧
      (∃ v ∈ (t.site d.site).vecQ, v.item = .vec .vmovs f ∧ v.addr = (s.site d.site).areg f.areg.toNat ∧
        v.addrA = (s.site d.site).areg (f.va.toNat % 16) ∧ v.addrB = (s.site d.site).areg (f.vb.toNat % 16) ∧
        v.bundle = (s.site d.site).pc ∧ v.slot = d.slot.val + 1) ∧
      (f.vd ≠ 0 → ({ rd := f.vd, value := none } : PendW) ∈ (t.site d.site).pend)) ∧
  (∀ (s : State) (d : Disp) (f : VecF), dispatches s d (.vec .vwadd f) →
    completes (.vwadd d f) s fun t => dispatched d (.vec .vwadd f) s t ∧
      queuesGrow (s.site d.site) (t.site d.site) ∧
      (∃ v ∈ (t.site d.site).vecQ, v.item = .vec .vwadd f ∧ v.addr = (s.site d.site).areg f.areg.toNat ∧
        v.addrA = (s.site d.site).areg (f.va.toNat % 16) ∧ v.addrB = (s.site d.site).areg (f.vb.toNat % 16) ∧
        v.bundle = (s.site d.site).pc ∧ v.slot = d.slot.val + 1)) ∧
  (∀ (s : State) (d : Disp) (f : VecF), dispatches s d (.vec .vwanch f) →
    completes (.vwanch d f) s fun t => dispatched d (.vec .vwanch f) s t ∧
      queuesGrow (s.site d.site) (t.site d.site) ∧
      (∃ v ∈ (t.site d.site).vecQ, v.item = .vec .vwanch f ∧ v.addr = (s.site d.site).areg f.areg.toNat ∧
        v.sval = (s.site d.site).sreg f.vb ∧
        v.addrA = (s.site d.site).areg (f.va.toNat % 16) ∧ v.addrB = (s.site d.site).areg (f.vb.toNat % 16) ∧
        v.bundle = (s.site d.site).pc ∧ v.slot = d.slot.val + 1)) ∧
  (∀ (s : State) (d : Disp) (f : VecF), dispatches s d (.vec .vwcvt f) →
    completes (.vwcvt d f) s fun t => dispatched d (.vec .vwcvt f) s t ∧
      queuesGrow (s.site d.site) (t.site d.site) ∧
      (∃ v ∈ (t.site d.site).vecQ, v.item = .vec .vwcvt f ∧ v.addr = (s.site d.site).areg f.areg.toNat ∧
        v.sval = (if f.vb = 0 then 0x3F800000#32 ++ 0x3F800000#32 else (s.site d.site).sreg f.vb) ∧
        v.addrA = (s.site d.site).areg (f.va.toNat % 16) ∧ v.addrB = (s.site d.site).areg (f.vb.toNat % 16) ∧
        v.bundle = (s.site d.site).pc ∧ v.slot = d.slot.val + 1)) ∧
  (∀ (s : State) (d : Disp) (f : VecF), dispatches s d (.vec .vxpose f) →
    completes (.vxpose d f) s fun t => dispatched d (.vec .vxpose f) s t ∧
      queuesGrow (s.site d.site) (t.site d.site) ∧
      (∃ v ∈ (t.site d.site).vecQ, v.item = .vec .vxpose f ∧ v.addr = (s.site d.site).areg f.areg.toNat ∧
        v.addrA = (s.site d.site).areg (f.va.toNat % 16) ∧ v.addrB = (s.site d.site).areg (f.vb.toNat % 16) ∧
        v.bundle = (s.site d.site).pc ∧ v.slot = d.slot.val + 1))

/-- R127 and R148: the lane operations stand in the vector queue in program order with their fields, bundle and slot. -/
def Obligations.VectorLaneRowsQueue : Prop :=
  (∀ (s : State) (d : Disp) (f : VecF), dispatches s d (.vec .vfma f) →
    completes (.vfma d f) s fun t => dispatched d (.vec .vfma f) s t ∧
      queuesGrow (s.site d.site) (t.site d.site) ∧
      (∃ v ∈ (t.site d.site).vecQ, v.item = .vec .vfma f ∧ v.addr = (s.site d.site).areg f.areg.toNat ∧
        v.addrA = (s.site d.site).areg (f.va.toNat % 16) ∧ v.addrB = (s.site d.site).areg (f.vb.toNat % 16) ∧
        v.bundle = (s.site d.site).pc ∧ v.slot = d.slot.val + 1)) ∧
  (∀ (s : State) (d : Disp) (f : VecF), dispatches s d (.vec .vadd f) →
    completes (.vadd d f) s fun t => dispatched d (.vec .vadd f) s t ∧
      queuesGrow (s.site d.site) (t.site d.site) ∧
      (∃ v ∈ (t.site d.site).vecQ, v.item = .vec .vadd f ∧ v.addr = (s.site d.site).areg f.areg.toNat ∧
        v.addrA = (s.site d.site).areg (f.va.toNat % 16) ∧ v.addrB = (s.site d.site).areg (f.vb.toNat % 16) ∧
        v.bundle = (s.site d.site).pc ∧ v.slot = d.slot.val + 1)) ∧
  (∀ (s : State) (d : Disp) (f : VecF), dispatches s d (.vec .vsub f) →
    completes (.vsub d f) s fun t => dispatched d (.vec .vsub f) s t ∧
      queuesGrow (s.site d.site) (t.site d.site) ∧
      (∃ v ∈ (t.site d.site).vecQ, v.item = .vec .vsub f ∧ v.addr = (s.site d.site).areg f.areg.toNat ∧
        v.addrA = (s.site d.site).areg (f.va.toNat % 16) ∧ v.addrB = (s.site d.site).areg (f.vb.toNat % 16) ∧
        v.bundle = (s.site d.site).pc ∧ v.slot = d.slot.val + 1)) ∧
  (∀ (s : State) (d : Disp) (f : VecF), dispatches s d (.vec .vmul f) →
    completes (.vmul d f) s fun t => dispatched d (.vec .vmul f) s t ∧
      queuesGrow (s.site d.site) (t.site d.site) ∧
      (∃ v ∈ (t.site d.site).vecQ, v.item = .vec .vmul f ∧ v.addr = (s.site d.site).areg f.areg.toNat ∧
        v.addrA = (s.site d.site).areg (f.va.toNat % 16) ∧ v.addrB = (s.site d.site).areg (f.vb.toNat % 16) ∧
        v.bundle = (s.site d.site).pc ∧ v.slot = d.slot.val + 1)) ∧
  (∀ (s : State) (d : Disp) (f : VecF), dispatches s d (.vec .vmin f) →
    completes (.vmin d f) s fun t => dispatched d (.vec .vmin f) s t ∧
      queuesGrow (s.site d.site) (t.site d.site) ∧
      (∃ v ∈ (t.site d.site).vecQ, v.item = .vec .vmin f ∧ v.addr = (s.site d.site).areg f.areg.toNat ∧
        v.addrA = (s.site d.site).areg (f.va.toNat % 16) ∧ v.addrB = (s.site d.site).areg (f.vb.toNat % 16) ∧
        v.bundle = (s.site d.site).pc ∧ v.slot = d.slot.val + 1)) ∧
  (∀ (s : State) (d : Disp) (f : VecF), dispatches s d (.vec .vmax f) →
    completes (.vmax d f) s fun t => dispatched d (.vec .vmax f) s t ∧
      queuesGrow (s.site d.site) (t.site d.site) ∧
      (∃ v ∈ (t.site d.site).vecQ, v.item = .vec .vmax f ∧ v.addr = (s.site d.site).areg f.areg.toNat ∧
        v.addrA = (s.site d.site).areg (f.va.toNat % 16) ∧ v.addrB = (s.site d.site).areg (f.vb.toNat % 16) ∧
        v.bundle = (s.site d.site).pc ∧ v.slot = d.slot.val + 1)) ∧
  (∀ (s : State) (d : Disp) (f : VecF), dispatches s d (.vec .vcmp f) →
    completes (.vcmp d f) s fun t => dispatched d (.vec .vcmp f) s t ∧
      queuesGrow (s.site d.site) (t.site d.site) ∧
      (∃ v ∈ (t.site d.site).vecQ, v.item = .vec .vcmp f ∧ v.addr = (s.site d.site).areg f.areg.toNat ∧
        v.addrA = (s.site d.site).areg (f.va.toNat % 16) ∧ v.addrB = (s.site d.site).areg (f.vb.toNat % 16) ∧
        v.bundle = (s.site d.site).pc ∧ v.slot = d.slot.val + 1)) ∧
  (∀ (s : State) (d : Disp) (f : VecF), dispatches s d (.vec .vsel f) →
    completes (.vsel d f) s fun t => dispatched d (.vec .vsel f) s t ∧
      queuesGrow (s.site d.site) (t.site d.site) ∧
      (∃ v ∈ (t.site d.site).vecQ, v.item = .vec .vsel f ∧ v.addr = (s.site d.site).areg f.areg.toNat ∧
        v.addrA = (s.site d.site).areg (f.va.toNat % 16) ∧ v.addrB = (s.site d.site).areg (f.vb.toNat % 16) ∧
        v.bundle = (s.site d.site).pc ∧ v.slot = d.slot.val + 1)) ∧
  (∀ (s : State) (d : Disp) (f : VecF), dispatches s d (.vec .vsfu f) →
    completes (.vsfu d f) s fun t => dispatched d (.vec .vsfu f) s t ∧
      queuesGrow (s.site d.site) (t.site d.site) ∧
      (∃ v ∈ (t.site d.site).vecQ, v.item = .vec .vsfu f ∧ v.addr = (s.site d.site).areg f.areg.toNat ∧
        v.addrA = (s.site d.site).areg (f.va.toNat % 16) ∧ v.addrB = (s.site d.site).areg (f.vb.toNat % 16) ∧
        v.bundle = (s.site d.site).pc ∧ v.slot = d.slot.val + 1)) ∧
  (∀ (s : State) (d : Disp) (f : VecF), dispatches s d (.vec .vred f) →
    completes (.vred d f) s fun t => dispatched d (.vec .vred f) s t ∧
      queuesGrow (s.site d.site) (t.site d.site) ∧
      (∃ v ∈ (t.site d.site).vecQ, v.item = .vec .vred f ∧ v.addr = (s.site d.site).areg f.areg.toNat ∧
        v.addrA = (s.site d.site).areg (f.va.toNat % 16) ∧ v.addrB = (s.site d.site).areg (f.vb.toNat % 16) ∧
        v.bundle = (s.site d.site).pc ∧ v.slot = d.slot.val + 1))

/-- R87, R104, R149, R150: PUSH queues the descriptor at A[AREG]; SFREE latches a free request, taken at once on a RELEASED entry no copy reads; SIGNAL adds to a token, saturating at 65,535 and then setting TOKEN_SAT; BELL sends an ADD and awaits its response, or waits behind 64 that do (R292); one that no route and no link carries fails at once; TALLY frees every RELEASED entry, keeps A[AREG], sends the arrival and stops dispatch. -/
def Obligations.SyncRows : Prop :=
  (∀ (s : State) (d : Disp) (qn : Fin 4) (areg : BitVec 4), dispatches s d (.push qn areg) →
    completes (.push d qn areg) s fun t => dispatched d (.push qn areg) s t ∧
      queuesGrow (s.site d.site) (t.site d.site) ∧
      copyDescOf ((s.site d.site).wsRead ((s.site d.site).areg areg.toNat).toNat 64) ∈ ((t.site d.site).queue qn).waiting) ∧
  (∀ (s : State) (d : Disp) (e : Fin 64), dispatches s d (.sfree e) →
    completes (.sfree d e) s fun t => dispatched d (.sfree e) s t ∧
      let v := (s.site d.site).entry e.val
      let v' := (t.site d.site).entry e.val
      (v.st ≠ .released → v'.st = v.st ∧ v'.freeReq = true) ∧
      (v.st = .released → v.readers = 0 → v'.st = .free) ∧
      (v.st = .released → v.readers ≠ 0 → v'.st = .freeing)) ∧
  (∀ (s : State) (d : Disp) (tok : BitVec 6) (amount : BitVec 16), dispatches s d (.signal tok amount) →
    completes (.signal d tok amount) s fun t => dispatched d (.signal tok amount) s t ∧
      let v := (((s.site d.site).takeWaits d.head).tok tok).toNat
      let sum := ((bundleOf d (.signal tok amount)).map (signalled tok)).sum
      (t.site d.site).tok tok = BitVec.ofNat 16 (min 65535 (v + sum)) ∧ (65535 < v + sum → (t.site d.site).tokenSat = true)) ∧
  (∀ (s : State) (d : Disp) (f : BellF), dispatches s d (.bell f) →
    completes (.bell d f) s fun t => dispatched d (.bell f) s t ∧
      let m : BellMsg :=
        { op := 0, dev := if f.remote then some (((s.site d.site).sreg f.sd).extractLsb' 0 12) else none,
          bell := if f.breg then ((s.site d.site).sreg f.sb).extractLsb' 0 13 else f.bell,
          amount := f.amount.setWidth 32, instant := 0, tag := (s.site d.site).hamlet }
      (Out.bellOp m ∈ t.out ∨ m ∈ (t.site d.site).bellQ) ∧
      (d.rest = [] → (s.site d.site).bellsOut < 64 → (s.site d.site).bellQ = [] →
        (bellHasWay s (rtrOfSite d.site) m → bellSent s t (rtrOfSite d.site, false) (.core d.site) m ∧
          (t.site d.site).bellsOut = (s.site d.site).bellsOut + 1 ∧ t.coll = s.coll ∧ t.flt = s.flt) ∧
        (¬ bellHasWay s (rtrOfSite d.site) m → t.fab = s.fab ∧ (t.site d.site).bellsOut = (s.site d.site).bellsOut ∧
          t.coll.remoteFail = satInc s.coll.remoteFail ∧ told s t 0x000F (some d.site))) ∧
      (d.rest = [] → 64 ≤ (s.site d.site).bellsOut ∨ (s.site d.site).bellQ ≠ [] → t.fab = s.fab ∧
        (t.site d.site).bellQ = (s.site d.site).bellQ ++ [m] ∧ t.out = s.out)) ∧
  (∀ (s : State) (d : Disp) (areg : BitVec 4) (k : Nat) (l : LaunchInfo), dispatches s d (.tally areg) →
    s.tallyFits d.site areg = some k → (s.site d.site).launch = some l → (s.site d.site).bellsOut < 64 →
    (s.site d.site).bellQ = [] →
    let m : BellMsg :=
      { op := 0, dev := none, bell := l.enterArrive, amount := 1, instant := 0, tag := (s.site d.site).hamlet }
    bellHasWay s (rtrOfSite d.site) m →
    completes (.tally d areg) s fun t => dispatched d (.tally areg) s t ∧
      (t.site d.site).seq = .tally ∧ (t.site d.site).tallyTable = (s.site d.site).areg areg.toNat ∧
      (t.tallyOf (s.site d.site).hamlet).share = (s.tallyOf (s.site d.site).hamlet).share + k ∧
      (∀ i, i < 64 → ((s.site d.site).entry i).st = .released → ((t.site d.site).entry i).st = .free) ∧
      bellSent s t (rtrOfSite d.site, false) (.core d.site) m ∧
      (t.site d.site).bellsOut = (s.site d.site).bellsOut + 1)

/-- R136 and R407: once everything has drained after a HALT, each RELEASED entry is freed, the core leaves its LAUNCH, which completes with status 0 when it was the last core, and the sequencer waits for the next LAUNCH. A core that has dispatched nothing for its limit stops and reports. -/
def Obligations.ProgramEnds : Prop :=
  (∀ (s : State) (n : SiteNo), (s.site n).programOver = true →
    completes (.programEnd n) s fun t =>
      t = { s with sites := t.sites, host := { s.host with descs := t.host.descs } } ∧
      (∀ m, m ≠ n → t.site m = s.site m) ∧ (t.site n).seq = .idle ∧ (t.site n).launch = none ∧
      (∀ i, i < 64 → ((s.site n).entry i).st = .released → ((t.site n).entry i).st = .free) ∧
      (t.site n).sregs = (s.site n).sregs ∧ (t.site n).vregs = (s.site n).vregs ∧ (t.site n).ws = (s.site n).ws) ∧
  (∀ (s : State) (n : SiteNo) (l : LaunchInfo) (lc : LCoreNo) (x : Desc), (s.site n).programOver = true →
    (s.site n).launch = some l → (s.site n).bound = some lc → s.host.descs = [x] → x.id = l.desc →
    x.left = [lc] → x.ready = none → windowOver x.fetched x.deadline s.tb = false →
    completes (.programEnd n) s fun t =>
      ∃ y, t.host.descs = [y] ∧ y.id = x.id ∧ y.left = [] ∧ ∃ r, y.ready = some r ∧ r.status = 0 ∧ r.time = s.tb) ∧
  (∀ (s : State) (n : SiteNo) (l : LaunchInfo) (now : BitVec 64), (s.site n).launch = some l →
    (s.site n).seq = .running ∨ (s.site n).seq = .tally → s.tb ≤ now →
    l.lastDispatch + BitVec.ofNat 64 (1000000 *
      (if l.watchdog = 0 then 50 else max 20 l.watchdog.toNat)) ≤ now →
    completes (.progressTimeout n now) s fun t =>
      t.tb = now ∧ t = { s with tb := now, sites := t.sites, flt := t.flt, jrnl := t.jrnl } ∧
      (∀ m, m ≠ n → t.site m = s.site m) ∧ t.site n = { s.site n with seq := .stopped } ∧
      (∃ r ∈ t.flt.buf, r.cls = 0x0606 ∧ r.site = BitVec.ofNat 8 n.val) ∧
      ∃ r ∈ t.flt.reports, r.2.cls = 0x0606 ∧ r.2.site = some n)

/-- R66, R68 to R70, R73, R102, Tables 3.4 and 3.5: the operation at the head of its array queue for which every condition holds leaves the queue. A MATRIX takes the array, its plane (SWAP makes the shadow plane active), its half and its bank, which fills; a drain to the sill opens its entry with its reservation. A BANK_DRAIN takes its bank, which drains. A BANK_FREE frees its bank. -/
def Obligations.ArrayOperationsIssue : Prop :=
  (∀ (s : State) (n : SiteNo) (e : EngNo) (op : ArrayOp) (q : List ArrayOp) (f : MatrixF), s.clocked n = true → ((s.site n).eng e).arrayQ = op :: q → op.kind = .matrix f → ((s.site n).tryHead e).1 = .go →
    (s.site n).sillGrant e ((s.site n).tryHead e).2 = true →
    completes (.matrixIssue n e) s fun t => onlyEngines n s t ∧
      (∀ x, x ≠ e → (t.site n).eng x = (s.site n).eng x) ∧
      let c := s.site n
      let c' := t.site n
      let g := c.eng e
      let g' := c'.eng e
      g'.arrayQ = q ∧ g'.issued = g.issued + 1 ∧ g'.active = (if f.hold then g.active else !g.active) ∧
      (∃ fl, g'.inArray = some fl ∧ fl.op = op ∧ fl.plane = g'.active ∧ fl.anchor = (g'.bank f.bank).anchor ∧
        fl.cap = g.cap) ∧
      (g'.bank f.bank).st = .filling ∧
      (f.accumulate = true → (g'.bank f.bank).words = (g.bank f.bank).words ∧
        (g'.bank f.bank).anchor = (g.bank f.bank).anchor) ∧
      (f.accumulate = false → (g'.bank f.bank).words = []) ∧
      (∀ b, b ≠ f.bank → g'.bank b = g.bank b) ∧
      (f.hold = false → (g'.plane g.active).latched = false) ∧
      (g'.plane g'.active).holders = (g.plane g'.active).holders + 1 ∧
      (g'.half f.fb).holders = (g.half f.fb).holders + 1 ∧
      (f.dest = 0 → c'.sill = c.sill ∧ c'.sillFree = c.sillFree) ∧
      (f.dest ≠ 0 → (c'.entry f.sill.val).st = .opened ∧ (c'.entry f.sill.val).units = sillUnits (op.m * rowBytes f.dest) ∧
      (c'.entry f.sill.val).waits = 1 ∧ c'.sillFree = c.sillFree - sillUnits (op.m * rowBytes f.dest) ∧
      (∀ k, k ≠ f.sill.val → c'.entry k = c.entry k))) ∧
  (∀ (s : State) (n : SiteNo) (e : EngNo) (op : ArrayOp) (q : List ArrayOp) (f : EwiseF), s.clocked n = true → ((s.site n).eng e).arrayQ = op :: q → op.kind = .ewise f → ((s.site n).tryHead e).1 = .go →
    (s.site n).sillGrant e ((s.site n).tryHead e).2 = true →
    completes (.ewiseIssue n e) s fun t => onlyEngines n s t ∧
      (∀ x, x ≠ e → (t.site n).eng x = (s.site n).eng x) ∧
      let c := s.site n
      let c' := t.site n
      let g := c.eng e
      let g' := c'.eng e
      g'.arrayQ = q ∧ g'.issued = g.issued + 1 ∧ g'.active = g.active ∧ g'.planes = g.planes ∧
      g'.banks = g.banks ∧ (∃ fl, g'.inArray = some fl ∧ fl.op = op ∧ fl.cap = g.cap) ∧
      (g'.half f.fb).holders = (g.half f.fb).holders + 1 ∧
      (c'.entry f.sill.val).st = .opened ∧ (c'.entry f.sill.val).units = sillUnits ((destFmt f.dest).bytes op.m) ∧
      (c'.entry f.sill.val).waits = 1 ∧ c'.sillFree = c.sillFree - sillUnits ((destFmt f.dest).bytes op.m) ∧
      (∀ k, k ≠ f.sill.val → c'.entry k = c.entry k)) ∧
  (∀ (s : State) (n : SiteNo) (e : EngNo) (op : ArrayOp) (q : List ArrayOp) (f : DrainF), s.clocked n = true → ((s.site n).eng e).arrayQ = op :: q → op.kind = .drain f → ((s.site n).tryHead e).1 = .go →
    (s.site n).sillGrant e ((s.site n).tryHead e).2 = true →
    completes (.bankDrainIssue n e) s fun t => onlyEngines n s t ∧
      (∀ x, x ≠ e → (t.site n).eng x = (s.site n).eng x) ∧
      let c := s.site n
      let c' := t.site n
      let g := c.eng e
      let g' := c'.eng e
      g'.arrayQ = q ∧ g'.draining = some op ∧ g'.inArray = g.inArray ∧ g'.issued = g.issued ∧
      g'.bank f.bank = { g.bank f.bank with st := .draining } ∧ (∀ b, b ≠ f.bank → g'.bank b = g.bank b) ∧
      (c'.entry f.sill.val).st = .opened ∧ (c'.entry f.sill.val).units = sillUnits (op.m * rowBytes f.dest) ∧
      (c'.entry f.sill.val).waits = 0 ∧ c'.sillFree = c.sillFree - sillUnits (op.m * rowBytes f.dest) ∧
      (∀ k, k ≠ f.sill.val → c'.entry k = c.entry k)) ∧
  (∀ (s : State) (n : SiteNo) (e : EngNo) (op : ArrayOp) (q : List ArrayOp) (b : Fin 4), s.clocked n = true → ((s.site n).eng e).arrayQ = op :: q → op.kind = .free b →
    ((s.site n).tryHead e).1 = .go →
    completes (.bankFreeIssue n e) s fun t => onlyEngines n s t ∧
      (∀ x, x ≠ e → (t.site n).eng x = (s.site n).eng x) ∧
      let c := s.site n
      let c' := t.site n
      let g := c.eng e
      let g' := c'.eng e
      g'.arrayQ = q ∧ g'.bank b = {} ∧ (∀ x, x ≠ b → g'.bank x = g.bank x) ∧
      g'.inArray = g.inArray ∧ c'.sill = c.sill ∧ c'.sillFree = c.sillFree)

/-- R69, R157: a refused operation raises its deferred exception: the queue that holds it is halted and emptied, dispatch stops, CORE_EXC takes the operation's bundle and slot. An operation whose conditions do not hold, or that the sill does not grant, waits. -/
def Obligations.ArrayRefusalsAndWaits : Prop :=
  (∀ (s : State) (n : SiteNo) (e : EngNo) (op : ArrayOp) (q : List ArrayOp) (code : BitVec 6), s.clocked n = true →
    ((s.site n).eng e).arrayQ = op :: q → ((s.site n).tryHead e).1 = .refuse code → (s.site n).seq ≠ .idle →
    ∃ t, exec (issueRow n e op.kind) s = .next t ∧
      t = { s with sites := t.sites, flt := { s.flt with reports := t.flt.reports } } ∧
      (∀ m, m ≠ n → t.site m = s.site m) ∧
      t.site n = { s.site n with
        engines := (t.site n).engines, seq := .stopped, exc := (t.site n).exc, excInfo := (t.site n).excInfo } ∧
      ((t.site n).eng e).arrayQ = [] ∧ ((t.site n).eng e).arrayHalted = true ∧
      (∀ x, x ≠ e → ((t.site n).eng x).arrayQ = ((s.site n).eng x).arrayQ ∧
        ((t.site n).eng x).arrayHalted = ((s.site n).eng x).arrayHalted) ∧
      (∀ x, ((t.site n).eng x).feedQ = ((s.site n).eng x).feedQ ∧
        ((t.site n).eng x).latchQ = ((s.site n).eng x).latchQ ∧
        ((t.site n).eng x).banks = ((s.site n).eng x).banks) ∧
      ((s.site n).exc.getLsbD 31 = false →
        (t.site n).exc.getLsbD 31 = true ∧ (t.site n).exc.extractLsb' 24 6 = code ∧
        (t.site n).exc.extractLsb' 21 3 = BitVec.ofNat 3 op.slot ∧
        (t.site n).exc.extractLsb' 0 16 = op.bundle) ∧
      ∃ r ∈ t.flt.reports, r.2.site = some n ∧ r.2.detail = code.setWidth 32) ∧
  (∀ (s : State) (n : SiteNo) (e : EngNo) (op : ArrayOp) (q : List ArrayOp), s.clocked n = true →
    ((s.site n).eng e).arrayQ = op :: q →
    ((s.site n).tryHead e).1 = .wait ∨
      ((s.site n).tryHead e).1 = .go ∧ (s.site n).sillGrant e ((s.site n).tryHead e).2 = false →
    exec (issueRow n e op.kind) s = .next s)

/-- R65, R67, R68, R76, R97, R99, R129, R143 to R145, R147: a FEED starts once its half is not held and no earlier operation reads it, and its half stops being resident; done, the half holds the tile's bytes and the token is signalled. A LATCH likewise for the shadow plane. A read error of the working store ends the operation; one of the granary waits for a refill. -/
def Obligations.FeedsAndLatches : Prop :=
  (∀ (s : State) (n : SiteNo) (e : EngNo) (o : FeedOp) (q : List FeedOp), s.clocked n = true → ((s.site n).eng e).feedQ = o :: q →
    ((s.site n).eng e).retired = false → ((s.site n).eng e).feedHalted = false →
    ((s.site n).eng e).feeding = none → (s.site n).quarantined = false → o.refused = false →
    o.needsBoth = false → (((s.site n).eng e).half false).both = false →
    ((s.site n).eng e).halfOpen o.f.fb o.seq = true →
    completes (.feedStart n e) s fun t => onlyEngine n e s t ∧
      let c := s.site n
      let c' := t.site n
      let g := c.eng e
      let g' := c'.eng e
      g'.feedQ = q ∧ g'.feeding = some o ∧ (g'.half o.f.fb).resident = false ∧
      (g'.half o.f.fb).loading = true ∧ g'.half (!o.f.fb) = g.half (!o.f.fb) ∧ g'.banks = g.banks ∧
      g'.planes = g.planes) ∧
  (∀ (s : State) (n : SiteNo) (e : EngNo) (o : FeedOp) (q : List FeedOp), s.clocked n = true → ((s.site n).eng e).feedQ = o :: q →
    ((s.site n).eng e).retired = false → ((s.site n).eng e).feedHalted = false →
    ((s.site n).eng e).feeding = none → (s.site n).quarantined = false → o.refused = false →
    o.needsBoth = true ∨ (((s.site n).eng e).half false).both = true →
    ((s.site n).eng e).halfOpen false o.seq = true → ((s.site n).eng e).halfOpen true o.seq = true →
    completes (.feedStart n e) s fun t => onlyEngine n e s t ∧
      let c := s.site n
      let c' := t.site n
      let g := c.eng e
      let g' := c'.eng e
      g'.feedQ = q ∧ g'.feeding = some o ∧ (g'.half false).resident = false ∧ (g'.half true).resident = false ∧
      (g'.half o.f.fb).loading = true ∧ g'.banks = g.banks ∧ g'.planes = g.planes) ∧
  (∀ (s : State) (n : SiteNo) (e : EngNo) (o : FeedOp) (off : BitVec 28), s.clocked n = true → ((s.site n).eng e).feeding = some o →
    (o.needsBoth = true → o.f.fb = false) →
    completes (.feedDone n e .clean off) s fun t => onlyEngines n s t ∧
      (∀ x, x ≠ e → (t.site n).eng x = (s.site n).eng x) ∧
      let c := s.site n
      let c' := t.site n
      let g := c.eng e
      let g' := c'.eng e
      let h := g'.half o.f.fb
      g'.feeding = none ∧ h.resident = true ∧ h.loading = false ∧ h.afmt = o.f.afmt ∧ h.ascl = o.f.ascl ∧
      h.raw = o.f.raw ∧ h.both = o.needsBoth ∧ (o.f.raw = false → h.rows = o.m) ∧
      (∀ i, i < feedBytes o.f o.m → h.byte i = tget (fun _ => 0) c.ws (o.off + i)) ∧
      (o.f.tokEn = true → c'.tok o.f.tok = BitVec.ofNat 16 (min 65535 ((c.tok o.f.tok).toNat + 1))) ∧
      (o.f.tokEn = false → c'.toks = c.toks)) ∧
  (∀ (s : State) (n : SiteNo) (e : EngNo) (o : FeedOp) (off : BitVec 28), s.clocked n = true → ((s.site n).eng e).feeding = some o →
    (s.site n).seq ≠ .idle →
    completes (.feedDone n e .uncorrectable off) s fun t =>
      t = { s with sites := t.sites, flt := t.flt, jrnl := t.jrnl } ∧ (∀ m, m ≠ n → t.site m = s.site m) ∧
      let c := s.site n
      let c' := t.site n
      let g := c.eng e
      let g' := c'.eng e
      g'.feeding = none ∧ c'.seq = .stopped ∧ c'.toks = c.toks ∧ c'.ws = c.ws ∧
      c'.wsEcc.extractLsb' 16 16 = c.wsEcc.extractLsb' 16 16 ∧
      (c'.wsEcc.extractLsb' 0 16).toNat = min 65535 ((c.wsEcc.extractLsb' 0 16).toNat + 1) ∧
      (∃ r ∈ t.flt.buf, r.cls = 0x000A) ∧ ∃ r ∈ t.flt.reports, r.2.cls = 0x000A ∧ r.2.site = some n) ∧
  (∀ (s : State) (n : SiteNo) (e : EngNo) (o : LatchOp) (q : List LatchOp), s.clocked n = true → ((s.site n).eng e).latchQ = o :: q →
    ((s.site n).eng e).retired = false → ((s.site n).eng e).latchingOp = none → (s.site n).quarantined = false →
    ((s.site n).eng e).swapsBefore o.seq = false → ((s.site n).eng e).shadow.holders = 0 →
    (s.site n).replaysOn e = false → ((s.site n).eng e).restoring = none →
    completes (.latchStart n e) s fun t => onlyEngine n e s t ∧
      let c := s.site n
      let c' := t.site n
      let g := c.eng e
      let g' := c'.eng e
      g'.latchQ = q ∧ g'.latchingOp = some o ∧ g'.active = g.active ∧ g'.shadow.latching = true ∧
      g'.shadow.latched = false ∧ g'.plane g.active = g.plane g.active ∧ g'.halves = g.halves ∧ g'.banks = g.banks) ∧
  (∀ (s : State) (n : SiteNo) (e : EngNo) (o : LatchOp) (off : BitVec 30), s.clocked n = true → ((s.site n).eng e).latchingOp = some o →
    o.f.fromWs = true ∨ (s.site n).refilling o.off (weightBytes o.f.wfmt o.f.wscl o.f.sparse) = false →
    completes (.latchDone n e .clean off) s fun t => onlyEngines n s t ∧
      (∀ x, x ≠ e → (t.site n).eng x = (s.site n).eng x) ∧
      let c := s.site n
      let c' := t.site n
      let g := c.eng e
      let g' := c'.eng e
      let p := g'.shadow
      g'.latchingOp = none ∧ g'.active = g.active ∧ g'.plane g.active = g.plane g.active ∧ p.latched = true ∧
      p.latching = false ∧ p.wfmt = o.f.wfmt ∧ p.wscl = o.f.wscl ∧ p.sparse = o.f.sparse ∧
      (o.f.sparse = false → p.metaOk = true) ∧
      (∀ i, i < weightBytes o.f.wfmt o.f.wscl o.f.sparse →
        p.byte i = tget (fun _ => 0) (if o.f.fromWs then c.ws else c.gran) (o.off + i)) ∧
      (o.f.tokEn = true → c'.tok o.f.tok = BitVec.ofNat 16 (min 65535 ((c.tok o.f.tok).toNat + 1))) ∧
      (o.f.tokEn = false → c'.toks = c.toks))

/-- R58, R73, R80, R82, R365, Table 3.5: a finished drain frees its bank and releases its entry with the converted rows; a bank residue that fails poisons both. A retired engine's waiting operations move to its redirect engine in program order once both are quiescent. The effective cap comes into force on all four engines. -/
def Obligations.DrainsMovesAndCaps : Prop :=
  (∀ (s : State) (n : SiteNo) (e : EngNo) (op : ArrayOp) (f : DrainF) (bad : BitVec 9), s.clocked n = true →
    ((s.site n).eng e).draining = some op → op.kind = .drain f → ((s.site n).entry f.sill.val).waits = 0 →
    ((s.site n).entry f.sill.val).freeReq = false → ((s.site n).entry f.sill.val).flush = none →
    completes (.bankDrainDone n e true bad) s fun t => onlyEngines n s t ∧
      let c := s.site n
      let c' := t.site n
      let g := c.eng e
      let g' := c'.eng e
      let b := g.bank f.bank
      g'.bank f.bank = {} ∧ (∀ x, x ≠ f.bank → g'.bank x = g.bank x) ∧ g'.draining = none ∧
      (c'.entry f.sill.val).st = .released ∧
      (c'.entry f.sill.val).data =
        bytesTab (drainRows b.words op.m b.anchor f.dest f.rnd f.nonsat op.c1 op.c2).bytes ∧
      (∀ k, k ≠ f.sill.val → c'.entry k = c.entry k) ∧
      (∀ k, (c.entry f.sill.val).tok = some k →
        c'.tok k = BitVec.ofNat 16 (min 65535 ((c.tok k).toNat + 1)))) ∧
  (∀ (s : State) (n : SiteNo) (e : EngNo) (op : ArrayOp) (f : DrainF) (bad : BitVec 9), s.clocked n = true →
    ((s.site n).eng e).draining = some op → op.kind = .drain f →
    completes (.bankDrainDone n e false bad) s fun t =>
      t = { s with sites := t.sites, flt := t.flt, jrnl := t.jrnl } ∧ (∀ m, m ≠ n → t.site m = s.site m) ∧
      let c := s.site n
      let c' := t.site n
      let g := c.eng e
      let g' := c'.eng e
      (g'.bank f.bank).st = .poisoned ∧ g'.draining = none ∧ (c'.entry f.sill.val).st = .poisoned ∧
      c'.toks = c.toks ∧ (∃ r ∈ t.flt.buf, r.cls = 0x0005) ∧ ∃ r ∈ t.flt.reports, r.2.cls = 0x0005 ∧ r.2.site = some n) ∧
  (∀ (s : State) (n : SiteNo) (e : EngNo), s.clocked n = true → ((s.site n).eng e).retired = true →
    ((s.site n).eng e).movePending = true → ((s.site n).eng e).redirect ≠ e → (s.site n).engQuiescent e = true →
    (s.site n).engQuiescent ((s.site n).eng e).redirect = true →
    completes (.redirectMove n e) s fun t => onlySite n s t ∧
      let c := s.site n
      let c' := t.site n
      let g := c.eng e
      let g' := c'.eng e
      let r := c.eng g.redirect
      let r' := c'.eng g.redirect
      c' = { c with engines := c'.engines } ∧ g'.arrayQ = [] ∧ g'.feedQ = [] ∧ g'.latchQ = [] ∧
      g'.movePending = false ∧ r'.arrayQ.Perm (r.arrayQ ++ g.arrayQ) ∧ r'.feedQ.Perm (r.feedQ ++ g.feedQ) ∧
      r'.latchQ.Perm (r.latchQ ++ g.latchQ) ∧
      (∀ x, x ≠ e → x ≠ g.redirect → c'.eng x = c.eng x)) ∧
  (∀ (s : State) (n : SiteNo), s.clocked n = true →
    completes (.capTakesEffect n) s fun t => onlySite n s t ∧
      t.site n = { s.site n with engines := (t.site n).engines } ∧
      ∀ x, (t.site n).eng x = { (s.site n).eng x with
        cap := s.effCap n
        inArray := ((s.site n).eng x).inArray.map fun f =>
          f.recap ((s.site n).eng x).cap.toNat (((s.site n).cycle.toNat + 15) / 16 * 16) (s.effCap n).toNat }) ∧
  (∀ (f : Flight) (q u r : Nat), (f.recap q u r).slots = f.slots ∧ (f.recap q u r).issue = f.issue ∧
    (f.slots ≤ f.slotsBefore q u → f.recap q u r = f) ∧
    (f.capFrom ≤ u → f.slotsBefore q u < f.slots → (f.recap q u r).taken = f.slotsBefore q u ∧
      (f.recap q u r).len = u - f.issue.toNat + feedLen r u (f.slots - f.slotsBefore q u)))

/-- R62, R72, R78, R85, R103, R185: with the last row placed, the instruction leaves the array and waits for its verdict, with the words its pass gave; KEEP leaves its bank HELD, a drain closes its entry with the converted rows, OUT = with DRAIN frees its bank; a POISONED bank stays so. A parity failure poisons what the instruction writes and is reported. An EWISE whose two results agree is released at once. -/
def Obligations.LastPlacements : Prop :=
  (∀ (s : State) (n : SiteNo) (e : EngNo) (f : Flight) (m : MatrixF) (bad : List BadWord), s.clocked n = true →
    ((s.site n).eng e).inArray = some f →
    (s.site n).passOf e = none → f.op.kind = .matrix m →
    completes (.matrixLastPlacement n e { bad := bad, parityOk := true }) s fun t => onlyEngines n s t ∧
      (∀ x, x ≠ e → (t.site n).eng x = (s.site n).eng x) ∧
      let c := s.site n
      let c' := t.site n
      let g := c.eng e
      let g' := c'.eng e
      let q := f.faulted bad
      let words := if m.accumulate then addWords (g.bank m.bank).words q.contrib else q.contrib
      g'.inArray = none ∧ g'.busyCount = g.busyCount + BitVec.ofNat 64 (f.len + 512) ∧
      g'.waiting = g.waiting ++ [q.drained m words] ∧ (∀ b, b ≠ m.bank → g'.bank b = g.bank b) ∧
      ((g.bank m.bank).st = .poisoned → g'.bank m.bank = g.bank m.bank) ∧
      (m.dest = 0 → c'.sill = c.sill ∧ ((g.bank m.bank).st ≠ .poisoned → (g'.bank m.bank).st = .held ∧
        (g'.bank m.bank).anchor = (g.bank m.bank).anchor ∧ (g'.bank m.bank).words = words)) ∧
      (m.dest ≠ 0 → (∀ k, k ≠ m.sill.val → c'.entry k = c.entry k) ∧
        ((c.entry m.sill.val).st ≠ .poisoned → (c'.entry m.sill.val).st = .closed ∧
          (c'.entry m.sill.val).data = (q.drained m words).rows) ∧
        (m.accumulate = false → (g.bank m.bank).st ≠ .poisoned → g'.bank m.bank = {}))) ∧
  (∀ (s : State) (n : SiteNo) (e : EngNo) (f : Flight) (m : MatrixF) (bad : List BadWord), s.clocked n = true →
    ((s.site n).eng e).inArray = some f →
    (s.site n).passOf e = none → f.op.kind = .matrix m →
    completes (.matrixLastPlacement n e { bad := bad, parityOk := false }) s fun t =>
      t = { s with sites := t.sites, flt := t.flt, jrnl := t.jrnl } ∧ (∀ m, m ≠ n → t.site m = s.site m) ∧
      let g := (s.site n).eng e
      let g' := (t.site n).eng e
      g'.inArray = none ∧ g'.waiting.length = g.waiting.length + 1 ∧
      (f.bankOf = some m.bank → (g'.bank m.bank).st = .poisoned) ∧
      (m.dest ≠ 0 → ((t.site n).entry m.sill.val).st = .poisoned) ∧
      (∃ r ∈ t.flt.buf, r.cls = 0x0006 ∧ r.engine = BitVec.ofNat 2 e.val) ∧
      ∃ r ∈ t.flt.reports, r.2.cls = 0x0006 ∧ r.2.site = some n) ∧
  (∀ (s : State) (n : SiteNo) (e : EngNo) (f : Flight) (w : EwiseF), s.clocked n = true → ((s.site n).eng e).inArray = some f →
    (s.site n).passOf e = none → f.op.kind = .ewise w → (((s.site n).eng e).half false).both = false →
    completes (.ewiseLastResult n e { misses := [], parityOk := true }) s fun t => onlyEngines n s t ∧
      let c := s.site n
      let c' := t.site n
      let g := c.eng e
      let g' := c'.eng e
      g'.inArray = none ∧ g'.banks = g.banks ∧ (g'.half w.fb).holders = (g.half w.fb).holders - 1 ∧
      g'.half (!w.fb) = g.half (!w.fb) ∧ (∀ k, k ≠ w.sill.val → c'.entry k = c.entry k)) ∧
  (∀ (s : State) (n : SiteNo) (e : EngNo) (f : Flight) (w : EwiseF), s.clocked n = true → ((s.site n).eng e).inArray = some f →
    (s.site n).passOf e = none → f.op.kind = .ewise w → ((s.site n).entry w.sill.val).waits = 1 →
    ((s.site n).entry w.sill.val).freeReq = false → ((s.site n).entry w.sill.val).st ≠ .poisoned →
    completes (.ewiseLastResult n e { misses := [], parityOk := true }) s fun t =>
      ((t.site n).entry w.sill.val).st = .released ∧
      ((t.site n).entry w.sill.val).data = ewiseRows (((s.site n).eng e).tile w.fb) w f.op.m [] ∧
      ((t.site n).eng e).inArray = none)

/-- R68, R103, R142, R163, R169, R172, R176, R180: the oldest placed instruction's verdict, on lines summed from its contribution words. Passed: its holds end, KEEP signals its token unless its bank is POISONED, a drain's entry counts it and is RELEASED when it is the last it waits for, OUT += with DRAIN frees its bank. Failed: ENG_CHECK.DISAGREE counts and the next engine that is not retired is to replay it; with a vote unresolved already the core is quarantined. -/
def Obligations.VerdictsAndVotesBegin : Prop :=
  (∀ (s : State) (n : SiteNo) (e : EngNo) (f : Flight) (q : List Flight) (m : MatrixF) (o : VerdictObs), s.clocked n = true →
    ((s.site n).eng e).waiting = f :: q → f.op.kind = .matrix m → (f.check o).pass = true →
    f.usesCb = false ∨ o.bufferEcc = .clean → (((s.site n).eng e).half false).both = false →
    completes (.verdict n e o) s fun t => onlyEngines n s t ∧
      let c := s.site n
      let c' := t.site n
      let g := c.eng e
      let g' := c'.eng e
      g'.waiting = q ∧ (g'.plane f.plane).holders = (g.plane f.plane).holders - 1 ∧
      (g'.half m.fb).holders = (g.half m.fb).holders - 1 ∧ (∀ b, b ≠ m.bank → g'.bank b = g.bank b) ∧
      (m.dest = 0 → g'.bank m.bank = g.bank m.bank ∧ c'.sill = c.sill ∧
        (m.tokEn = true → f.cancelled = true ∨ (g.bank m.bank).st ≠ .poisoned →
          c'.tok m.tok = BitVec.ofNat 16 (min 65535 ((c.tok m.tok).toNat + 1))) ∧
        (f.cancelled = false → (g.bank m.bank).st = .poisoned → c'.toks = c.toks) ∧
        (m.tokEn = false → c'.toks = c.toks)) ∧
      (m.dest ≠ 0 → m.accumulate = true → f.cancelled = false → (g.bank m.bank).st = .filling →
        g'.bank m.bank = {}) ∧
      (m.dest ≠ 0 → (c.entry m.sill.val).st = .closed → (c.entry m.sill.val).waits = 1 →
        (c.entry m.sill.val).freeReq = false → (c'.entry m.sill.val).st = .released)) ∧
  (∀ (s : State) (n : SiteNo) (e r : EngNo) (f : Flight) (q : List Flight) (m : MatrixF) (o : VerdictObs), s.clocked n = true →
    ((s.site n).eng e).waiting = f :: q → f.op.kind = .matrix m → (f.check o).pass = false →
    f.usesCb = false ∨ o.bufferEcc = .clean → (s.site n).vote = none →
    (s.site n).nextGood e = some r →
    completes (.verdict n e o) s fun t => onlyEngines n s t ∧
      (∀ x, x ≠ e → (t.site n).eng x = (s.site n).eng x) ∧
      let c := s.site n
      let c' := t.site n
      let g := c.eng e
      let g' := c'.eng e
      g'.waiting = q ∧ g'.banks = g.banks ∧ g'.disagree.toNat = min 65535 (g.disagree.toNat + 1) ∧
      c'.sill = c.sill ∧ c'.toks = c.toks ∧
      ∃ v, c'.vote = some v ∧ v.orig = e ∧ v.replay = r ∧ v.stage = .failed ∧ v.flight = f ∧ v.obs = f.check o) ∧
  (∀ (s : State) (n : SiteNo) (e : EngNo) (f : Flight) (q : List Flight) (o : VerdictObs) (w : Vote), s.clocked n = true →
    ((s.site n).eng e).waiting = f :: q → (f.check o).pass = false → (s.site n).vote = some w →
    (s.site n).seq ≠ .idle →
    completes (.verdict n e o) s fun t => t = { s with sites := t.sites, flt := t.flt, jrnl := t.jrnl } ∧ (∀ m, m ≠ n → t.site m = s.site m) ∧
      (t.site n).quarantined = true ∧ (t.site n).seq = .stopped ∧ (t.site n).vote = none ∧
      (∃ r ∈ t.flt.buf, r.outcome = 3 ∧ r.site = BitVec.ofNat 8 n.val) ∧ ∃ r ∈ t.flt.reports, r.2.site = some n ∧ r.2.detail = 3)

/-- R74, R164, R177 to R181, R499, Table 6.2: the replay engine's free shadow plane takes the failed instruction's tile with its checksum column formed anew, its latched contents parked; the vote pass runs; agreeing with the original on every line the checker is at fault and the result stands; else the engine is at fault and the apply pass runs, which corrects the bank word by word; a faulty contribution that is not finite poisons it; a failed replay quarantines the core; an EWISE's replay overwrites the entry. Parked contents return at the end. -/
def Obligations.VotesRunAndEnd : Prop :=
  (∀ (s : State) (n : SiteNo) (v : Vote), s.clocked n = true → (s.site n).vote = some v → v.stage = .failed →
    ((s.site n).eng v.replay).shadow.holders = 0 → ((s.site n).eng v.replay).latchingOp = none →
    ((s.site n).eng v.replay).restoring = none →
    completes (.replayStart n) s fun t => onlyEngines n s t ∧
      (∀ x, x ≠ v.replay → (t.site n).eng x = (s.site n).eng x) ∧
      let g := (s.site n).eng v.replay
      let g' := (t.site n).eng v.replay
      let held := ((s.site n).eng v.orig).plane v.flight.plane
      (t.site n).vote = some { v with stage := .latched, parked := if g.shadow.latched then some g.shadow else none } ∧
      g'.shadow.latched = false ∧ g'.shadow.holders = 0 ∧
      g'.shadow.data = held.data ∧ g'.shadow.sums = held.formSums ∧ g'.active = g.active ∧
      g'.plane g.active = g.plane g.active ∧ g'.halves = g.halves ∧ g'.banks = g.banks) ∧
  (∀ (s : State) (n : SiteNo) (v : Vote), s.clocked n = true → (s.site n).vote = some v → v.stage = .latched →
    ((s.site n).eng v.replay).inArray = none →
    completes (.votePassIssue n) s fun t => onlyEngines n s t ∧
      (∀ x, x ≠ v.replay → (t.site n).eng x = (s.site n).eng x) ∧
      (t.site n).vote = some { v with stage := .votePass } ∧
      ((t.site n).eng v.replay).issued = ((s.site n).eng v.replay).issued + 1 ∧
      ((t.site n).eng v.replay).inArray = some ((s.site n).passFlight v)) ∧
  (∀ (s : State) (n : SiteNo) (v : Vote) (m : MatrixF) (o : VerdictObs) (p : Flight), s.clocked n = true → (s.site n).vote = some v →
    v.stage = .voted → v.flight.op.kind = .matrix m → v.pass = some p →
    v.flight.usesCb = false ∨ o.bufferEcc ≠ .uncorrectable → (p.check o).pass = true → v.obs.same (p.check o) = true →
    completes (.voteDecide n o []) s fun t => t = { s with sites := t.sites, flt := t.flt, jrnl := t.jrnl } ∧ (∀ m, m ≠ n → t.site m = s.site m) ∧ (t.site n).vote = none ∧
      ∃ r ∈ t.flt.buf, r.outcome = 1 ∧ r.site = BitVec.ofNat 8 n.val) ∧
  (∀ (s : State) (n : SiteNo) (v : Vote) (m : MatrixF) (o : VerdictObs) (p : Flight), s.clocked n = true → (s.site n).vote = some v →
    v.stage = .voted → v.flight.op.kind = .matrix m → v.pass = some p →
    v.flight.usesCb = false ∨ o.bufferEcc ≠ .uncorrectable → (p.check o).pass = true → v.obs.same (p.check o) = false →
    completes (.voteDecide n o []) s fun t => t = { s with sites := t.sites, flt := t.flt, jrnl := t.jrnl } ∧ (∀ m, m ≠ n → t.site m = s.site m) ∧
      (v.flight.bankOf = none ∨ v.flight.nonFinite = false → (t.site n).vote = some { v with stage := .applyPass } ∧
        ∃ f, ((t.site n).eng v.replay).inArray = some f ∧ f.op = v.flight.op) ∧
      (∀ b, v.flight.bankOf = some b → v.flight.nonFinite = true → (t.site n).vote = none ∧
        (((t.site n).eng v.orig).bank b).st = .poisoned) ∧
      ∃ r ∈ t.flt.buf, r.outcome = 2 ∧ r.site = BitVec.ofNat 8 n.val) ∧
  (∀ (s : State) (n : SiteNo) (v : Vote) (m : MatrixF) (o : VerdictObs) (p : Flight), s.clocked n = true → (s.site n).vote = some v →
    v.stage = .voted → v.flight.op.kind = .matrix m → v.pass = some p →
    v.flight.usesCb = false ∨ o.bufferEcc ≠ .uncorrectable → (p.check o).pass = false → (s.site n).seq ≠ .idle →
    completes (.voteDecide n o []) s fun t => t = { s with sites := t.sites, flt := t.flt, jrnl := t.jrnl } ∧ (∀ m, m ≠ n → t.site m = s.site m) ∧ (t.site n).vote = none ∧
      (t.site n).quarantined = true ∧ (t.site n).seq = .stopped ∧
      ∃ r ∈ t.flt.buf, r.outcome = 3 ∧ r.site = BitVec.ofNat 8 n.val) ∧
  (∀ (s : State) (n : SiteNo) (v : Vote) (w : EwiseF) (o : VerdictObs) (r : List EwiseMiss) (p : Flight), s.clocked n = true →
    (s.site n).vote = some v → v.stage = .voted → v.flight.op.kind = .ewise w → v.pass = some p → (s.site n).seq ≠ .idle →
    completes (.voteDecide n o r) s fun t => t = { s with sites := t.sites, flt := t.flt, jrnl := t.jrnl } ∧ (∀ m, m ≠ n → t.site m = s.site m) ∧ (t.site n).vote = none ∧
      let h := ((s.site n).eng v.orig).tile w.fb
      let agrees := ewiseAgrees (fun i => (ewiseElem h w p.op.m i).code) v.misses r
      let x := (s.site n).entry w.sill.val
      (agrees = true → ∃ x ∈ t.flt.buf, x.outcome = 2 ∧ x.site = BitVec.ofNat 8 n.val) ∧
      (agrees = true → x.st ≠ .poisoned → x.waits = 1 → x.freeReq = false →
        ((t.site n).entry w.sill.val).st = .released ∧
        ((t.site n).entry w.sill.val).data = ewiseRows h w p.op.m r) ∧
      (agrees = false → (t.site n).quarantined = true ∧ (t.site n).seq = .stopped ∧
        ∃ x ∈ t.flt.buf, x.outcome = 3 ∧ x.site = BitVec.ofNat 8 n.val)) ∧
  (∀ (s : State) (n : SiteNo) (e : EngNo) (v : Vote) (f : Flight) (bad : List BadWord), s.clocked n = true → (s.site n).passOf e = some v →
    ((s.site n).eng e).inArray = some f →
    completes (.matrixLastPlacement n e { bad := bad, parityOk := true }) s fun t => onlyEngines n s t ∧ ((t.site n).eng e).inArray = none ∧
      (v.stage = .votePass → (t.site n).vote = some { v with stage := .voted, pass := some (f.faulted bad) }) ∧
      (v.stage = .applyPass → (∃ p, (t.site n).vote = some { v with stage := .applied, pass := some p }) ∧
        ∀ m b, v.flight.op.kind = .matrix m → v.flight.bankOf = some b → b = m.bank →
          (((t.site n).eng v.orig).bank b).words = correctWords f.op.m (((s.site n).eng v.orig).bank b).words
            v.flight.contrib (f.faulted bad).contrib)) ∧
  (∀ (s : State) (n : SiteNo) (v : Vote) (o : VerdictObs) (p : Flight), s.clocked n = true → (s.site n).vote = some v → v.stage = .applied →
    v.pass = some p → (p.check o).pass = true → v.flight.usesCb = false ∨ o.bufferEcc = .clean →
    completes (.applyPassVerdict n o) s fun t => onlyEngines n s t ∧ (t.site n).vote = none) ∧
  (∀ (s : State) (n : SiteNo) (v : Vote) (o : VerdictObs) (p : Flight), s.clocked n = true → (s.site n).vote = some v → v.stage = .applied →
    v.pass = some p → (p.check o).pass = false → (s.site n).seq ≠ .idle →
    completes (.applyPassVerdict n o) s fun t => t = { s with sites := t.sites, flt := t.flt, jrnl := t.jrnl } ∧ (∀ m, m ≠ n → t.site m = s.site m) ∧ (t.site n).vote = none ∧
      (t.site n).quarantined = true ∧ (t.site n).seq = .stopped) ∧
  (∀ (s : State) (n : SiteNo) (e : EngNo) (p : Plane) (off : BitVec 32), s.clocked n = true → ((s.site n).eng e).restoring = some p →
    (∀ x, x < e → ((s.site n).eng x).restoring = none) →
    completes (.planeRestoreDone n { ecc := .clean, off := off }) s fun t => onlySite n s t ∧
      ((t.site n).eng e).shadow = p ∧ ((t.site n).eng e).restoring = none)

/-- R81, R177, R182, R183, R186: parked contents return to the shadow plane, and an uncorrectable word of the replay buffer loses them; a retired engine whose faulty elements the free spares cover is repaired with one record and returns to service, else its site is to be replaced at the next tally; verdicts 24 powered hours old leave the window. -/
def Obligations.RepairOfEngines : Prop :=
  (∀ (s : State) (n : SiteNo) (e : EngNo) (p : Plane) (off : BitVec 32), s.clocked n = true → ((s.site n).eng e).restoring = some p →
    (∀ x, x < e → ((s.site n).eng x).restoring = none) →
    (completes (.planeRestoreDone n { ecc := .clean, off := off }) s fun t => onlyEngine n e s t ∧
      (t.site n).eng e = { ((s.site n).eng e).setPlane (!((s.site n).eng e).active) p with restoring := none }) ∧
    ((s.site n).vote = none → completes (.planeRestoreDone n { ecc := .uncorrectable, off := off }) s fun t =>
      logged s t 0x0012 ∧ ((t.site n).eng e).shadow = {} ∧ ((t.site n).eng e).restoring = none)) ∧
  (∀ (s : State) (n : SiteNo) (b : BufObs), s.clocked n = true → (∀ x, ((s.site n).eng x).restoring = none) →
    completes (.planeRestoreDone n b) s (· = s)) ∧
  (∀ (s : State) (n : SiteNo) (e : EngNo) (obs : LocalObs), ((s.site n).eng e).retired = true →
    ((s.site n).eng e).replaceAtTally = false → obs.beyond = true →
    completes (.localisationTestEnd n e obs) s fun t => t = { s with sites := t.sites, flt := t.flt, jrnl := t.jrnl } ∧ (∀ m, m ≠ n → t.site m = s.site m) ∧
      (t.site n).eng e = { (s.site n).eng e with replaceAtTally := true } ∧
      (∀ x, x ≠ e → (t.site n).eng x = (s.site n).eng x) ∧
      (∃ r ∈ t.flt.buf, r.cls = 0x0010 ∧ r.outcome = 7) ∧ ∃ r ∈ t.flt.reports, r.2.cls = 0x0010 ∧ r.2.site = some n) ∧
  (∀ (s : State) (n : SiteNo) (e : EngNo) (obs : LocalObs) (rows cols : List Nat), ((s.site n).eng e).retired = true →
    ((s.site n).eng e).replaceAtTally = false → obs.beyond = false → obs.pes ≠ [] →
    s.planOf n e obs.pes = some (rows, cols) →
    (s.site n).engQuiescent e = true →
    completes (.localisationTestEnd n e obs) s fun t => t = { s with sites := t.sites, flt := t.flt, jrnl := t.jrnl } ∧ (∀ m, m ≠ n → t.site m = s.site m) ∧
      ((t.site n).eng e).retired = false ∧ ((t.site n).eng e).verdicts = [] ∧
      (∀ x, x ≠ e → (t.site n).eng x = (s.site n).eng x) ∧ t.flt.reports = s.flt.reports ∧
      t.flt.nextId = s.flt.nextId + 1 ∧ ∃ r ∈ t.flt.buf, r.cls = 0x0011 ∧ r.outcome = 6) ∧
  (∀ (s : State) (n : SiteNo) (e : EngNo) (obs : LocalObs), ((s.site n).eng e).retired = false →
    completes (.localisationTestEnd n e obs) s (· = s)) ∧
  (∀ (s : State) (n : SiteNo) (e : EngNo) (pes : List (Fin 256 × Fin 256)) (rows cols : List Nat),
    s.planOf n e pes = some (rows, cols) → rows.Nodup ∧ cols.Nodup ∧
      (∀ r ∈ rows, r ∉ mappedBy ((s.site n).eng e).remapRow) ∧
      (∀ x ∈ cols, x ∉ mappedBy ((s.site n).eng e).remapCol) ∧
      ∀ p ∈ pes, p.1.val ∈ rows ∨ p.2.val ∈ cols) ∧
  (∀ (s : State) (n : SiteNo) (e : EngNo) (tm : Word64),
    completes (.verdictWindowExpiry n e tm) s fun t => onlyEngine n e (s.at tm) t ∧
      (t.site n).eng e = { (s.site n).eng e with verdicts := ((t.site n).eng e).verdicts } ∧
      ∀ v, v ∈ ((t.site n).eng e).verdicts ↔
        v ∈ ((s.site n).eng e).verdicts ∧ (s.at tm).poweredNow.toNat < v.2.toNat + 86400)

/-- R89 to R94, R97, R148, R158, Table 5.11: the operation at the head of the vector queue issues and leaves it. A lane operation writes the 2,048 lanes of VD and no other register; a store writes the bytes it converts to and no others; VMOVS and LDS fill the awaited register. A refused VWADD halts the queue; a residue that fails twice and an uncorrectable word stop the core with no result. -/
def Obligations.VectorOperationsIssue : Prop :=
  (∀ (s : State) (n : SiteNo) (off : BitVec 28) (v : VecEntry) (rest : List VecEntry) (op : VecOp) (f : VecF), s.clocked n = true → (s.site n).vecQ = v :: rest → (s.site n).vecHalted = false → (s.site n).quarantined = false →
    v.item = .vec op f →
    op ∈ [VecOp.vld, .vfma, .vadd, .vsub, .vmul, .vmin, .vmax, .vcmp, .vsel, .vsfu, .vred, .vbcast] →
    completes (.vectorIssue n 0 .clean off) s fun t => onlySite n s t ∧
      let c := s.site n
      let c' := t.site n
      let a := c.lane f.va.toNat
      let b := c.lane f.vb.toNat
      let r := c.lane f.vc.toNat
      let d := c'.lane f.vd.toNat
      c' = { c with vecQ := rest, vregs := c'.vregs } ∧
      (∀ x : BitVec 5, x ≠ f.vd → ∀ i, i < 2048 → c'.lane x.toNat i = c.lane x.toNat i) ∧
      (∀ i, i < 2048 →
        (op = .vld → d i = loadLane (vecFmt (modFmt f.mod) (modScl f.mod)) (modScl f.mod)
          (fp (v.sval.extractLsb' 0 32)) (fun k => tget (fun _ => 0) c.ws (v.addr.toNat + k)) i) ∧
        (op = .vfma → d i = fpFma (a i) (b i) (r i)) ∧ (op = .vadd → d i = fpAdd (a i) (b i)) ∧
        (op = .vsub → d i = fpSub (a i) (b i)) ∧ (op = .vmul → d i = fpMul (a i) (b i)) ∧
        (op = .vmin → d i = fpPick false (a i) (b i)) ∧ (op = .vmax → d i = fpPick true (a i) (b i)) ∧
        (op = .vcmp → d i = if fpCmp (f.mod.extractLsb' 0 3).toNat (a i) (b i) then 1 else 0) ∧
        (op = .vsel → d i = if r i ≠ 0 then a i else b i) ∧
        (op = .vsfu → d i = fpSfu (f.mod.extractLsb' 0 3).toNat (a i)) ∧
        (op = .vred → d i = if i = 0 then
          reduceLanes (f.mod.extractLsb' 0 2).toNat ((f.mod.extractLsb' 2 11).toNat + 1) (c.vreg f.va) else 0) ∧
        (op = .vbcast → d i = if f.mod.getLsbD 0 then v.sval.extractLsb' 0 32 else a 0))) ∧
  (∀ (s : State) (n : SiteNo) (off : BitVec 28) (v : VecEntry) (rest : List VecEntry) (f : VecF), s.clocked n = true → (s.site n).vecQ = v :: rest → (s.site n).vecHalted = false → (s.site n).quarantined = false →
    v.item = .vec .vst f →
    completes (.vectorIssue n 0 .clean off) s fun t => onlySite n s t ∧
      let c := s.site n
      let c' := t.site n
      let fmt := vecFmt (modFmt f.mod) (modScl f.mod)
      let q := storeLanes fmt (modScl f.mod) (fp (v.sval.extractLsb' 0 32)) (!f.mod.getLsbD 19)
        (f.mod.getLsbD 18) (c.vreg f.vd)
      c'.vecQ = rest ∧ c'.vregs = c.vregs ∧ c'.sregs = c.sregs ∧ c'.gran = c.gran ∧
      (∀ a, a < v.addr.toNat ∨ v.addr.toNat + (fmt.pack q.codes ++ q.scales).length ≤ a →
        tget (fun _ => 0) c'.ws (a) = tget (fun _ => 0) c.ws (a)) ∧
      (∀ i, i < (fmt.pack q.codes ++ q.scales).length → tget (fun _ => 0) c'.ws (v.addr.toNat + i) = (fmt.pack q.codes ++ q.scales).getD i 0) ∧ (modTok f.mod = none → c'.toks = c.toks) ∧
      (∀ k, modTok f.mod = some k → c'.tok k = BitVec.ofNat 16 (min 65535 ((c.tok k).toNat + 1)))) ∧
  (∀ (s : State) (n : SiteNo) (off : BitVec 28) (v : VecEntry) (rest : List VecEntry) (f : VecF) (ws : List Wps), s.clocked n = true → (s.site n).vecQ = v :: rest → (s.site n).vecHalted = false → (s.site n).quarantined = false →
    v.item = .vec .vwadd f →
    allSome (List.zipWith Wps.add ((s.site n).wpsAt v.addrA (modBlocks f.mod))
      ((s.site n).wpsAt v.addrB (modBlocks f.mod))) = some ws →
    completes (.vectorIssue n 0 .clean off) s fun t => onlySite n s t ∧
      let c := s.site n
      let c' := t.site n
      c'.vecQ = rest ∧ c'.vregs = c.vregs ∧ (∀ a, a < v.addr.toNat ∨ v.addr.toNat + (ws.flatMap Wps.bytes).length ≤ a →
        tget (fun _ => 0) c'.ws (a) = tget (fun _ => 0) c.ws (a)) ∧
      (∀ i, i < (ws.flatMap Wps.bytes).length → tget (fun _ => 0) c'.ws (v.addr.toNat + i) = (ws.flatMap Wps.bytes).getD i 0) ∧ (modTok f.mod = none → c'.toks = c.toks) ∧
      (∀ k, modTok f.mod = some k → c'.tok k = BitVec.ofNat 16 (min 65535 ((c.tok k).toNat + 1)))) ∧
  (∀ (s : State) (n : SiteNo) (off : BitVec 28) (v : VecEntry) (rest : List VecEntry) (f : VecF), s.clocked n = true → (s.site n).vecQ = v :: rest → (s.site n).vecHalted = false → (s.site n).quarantined = false →
    v.item = .vec .vwadd f → (s.site n).seq ≠ .idle →
    allSome (List.zipWith Wps.add ((s.site n).wpsAt v.addrA (modBlocks f.mod))
      ((s.site n).wpsAt v.addrB (modBlocks f.mod))) = none →
    completes (.vectorIssue n 0 .clean off) s fun t => siteAndLog n s t ∧ told s t clsException (some n) ∧
      (t.site n).vecQ = [] ∧ (t.site n).vecHalted = true ∧ (t.site n).seq = .stopped ∧
      (t.site n).ws = (s.site n).ws ∧ (t.site n).vregs = (s.site n).vregs) ∧
  (∀ (s : State) (n : SiteNo) (off : BitVec 28) (v : VecEntry) (rest : List VecEntry) (f : VecF), s.clocked n = true → (s.site n).vecQ = v :: rest → (s.site n).vecHalted = false → (s.site n).quarantined = false →
    v.item = .vec .vxpose f →
    completes (.vectorIssue n 0 .clean off) s fun t => onlySite n s t ∧
      let c := s.site n
      let c' := t.site n
      let w := xpWidth f.mod
      c'.vecQ = rest ∧ c'.vregs = c.vregs ∧
      (∀ a, a < v.addr.toNat ∨ v.addr.toNat + (xpose (xpRows f.mod) (xpCols f.mod) w (c.wsRead v.addrA.toNat (xpRows f.mod * xpCols f.mod * w))).length ≤ a →
        tget (fun _ => 0) c'.ws (a) = tget (fun _ => 0) c.ws (a)) ∧
      (∀ i, i < (xpose (xpRows f.mod) (xpCols f.mod) w (c.wsRead v.addrA.toNat (xpRows f.mod * xpCols f.mod * w))).length → tget (fun _ => 0) c'.ws (v.addr.toNat + i) = (xpose (xpRows f.mod) (xpCols f.mod) w (c.wsRead v.addrA.toNat (xpRows f.mod * xpCols f.mod * w))).getD i 0) ∧
      (modTok f.mod = none → c'.toks = c.toks) ∧
      (∀ k, modTok f.mod = some k → c'.tok k = BitVec.ofNat 16 (min 65535 ((c.tok k).toNat + 1)))) ∧
  (∀ (s : State) (n : SiteNo) (off : BitVec 28) (v : VecEntry) (rest : List VecEntry) (x : BitVec 64), s.clocked n = true → (s.site n).vecQ = v :: rest → (s.site n).vecHalted = false → (s.site n).quarantined = false →
    v.item = .sts x →
    completes (.vectorIssue n 0 .clean off) s fun t => onlySite n s t ∧
      let c := s.site n
      let c' := t.site n
      c' = { c with vecQ := rest, ws := c'.ws } ∧ c'.wsRead v.addr.toNat 8 = leBytes 8 x.toNat ∧
      ∀ a, a < v.addr.toNat ∨ v.addr.toNat + 8 ≤ a → tget (fun _ => 0) c'.ws (a) = tget (fun _ => 0) c.ws (a)) ∧
  (∀ (s : State) (n : SiteNo) (off : BitVec 28) (v : VecEntry) (rest : List VecEntry) (rd : BitVec 5) (past later : List PendW) (x : BitVec 64), s.clocked n = true → (s.site n).vecQ = v :: rest → (s.site n).vecHalted = false → (s.site n).quarantined = false →
    v.item = .lds rd ∧ x = BitVec.ofNat 64 (leNat ((s.site n).wsRead v.addr.toNat 8)) ∨
    (∃ f, v.item = .vec .vmovs f ∧ f.vd = rd ∧
      x = ((s.site n).lane f.va.toNat (f.mod.extractLsb' 0 11).toNat).setWidth 64) →
    (s.site n).pend = past ++ { rd := rd, value := none } :: later →
    (∀ p ∈ past, p.rd = rd → p.value ≠ none) →
    completes (.vectorIssue n 0 .clean off) s fun t => onlySite n s t ∧
      t.site n = { s.site n with vecQ := rest, pend := past ++ { rd := rd, value := some x } :: later }) ∧
  (∀ (s : State) (n : SiteNo) (off : BitVec 28) (v : VecEntry) (rest : List VecEntry), s.clocked n = true → (s.site n).vecQ = v :: rest → (s.site n).vecHalted = false → (s.site n).quarantined = false →
    v.checked = true →
    completes (.vectorIssue n 1 .clean off) s (fun t => siteAndLog n s t ∧ logged s t 0x000E ∧
      (t.site n).vecQ = rest ∧ t.flt.reports = s.flt.reports ∧ (t.site n).seq = (s.site n).seq) ∧
    completes (.vectorIssue n 2 .clean off) s fun t => siteAndLog n s t ∧ logged s t 0x000E ∧
      told s t 0x000E (some n) ∧ t.site n = Site.stop { s.site n with vecQ := rest }) ∧
  (∀ (s : State) (n : SiteNo) (off : BitVec 28) (v : VecEntry) (rest : List VecEntry) (k : Fin 3), s.clocked n = true → (s.site n).vecQ = v :: rest → (s.site n).vecHalted = false → (s.site n).quarantined = false →
    completes (.vectorIssue n k .uncorrectable off) s fun t => siteAndLog n s t ∧ logged s t 0x000A ∧
      told s t 0x000A (some n) ∧
      t.site n = Site.stop { s.site n with vecQ := rest, wsEcc := eccUncorrectable (s.site n).wsEcc }) ∧
  (∀ (s : State) (n : SiteNo) (k : Fin 3) (ecc : EccObs) (off : BitVec 28), s.clocked n = true →
    (s.site n).vecQ = [] ∨ (s.site n).vecHalted = true ∨ (s.site n).quarantined = true →
    completes (.vectorIssue n k ecc off) s (· = s))

/-- R115, R116, R154, R347, R420, Tables 4.10, 4.11 and 13.5: which states NAP_ENTER, NAP_WAKE, RETAIN_ENTER, RETAIN_WAKE, CORE_OFF and CORE_POWER_ON leave and enter, and what they keep. -/
def Obligations.CorePowerStates : Prop :=
  (∀ (s : State) (n : SiteNo), (s.site n).pwr = .run →
    (s.quiescent n = true → 256 ≤ (s.site n).quiet → completes (.napEnter n) s fun t => onlySite n s t ∧
      t.site n = { s.site n with pwr := .nap, quiet := 0 }) ∧
    (s.quiescent n = false ∨ (s.site n).quiet < 256 → completes (.napEnter n) s (· = s))) ∧
  (∀ (s : State) (n : SiteNo), (s.site n).pwr = .nap → (s.site n).waking = true ∨ s.targetCame n = true →
    ((s.site n).pwrPending ≠ some .off → completes (.napWake n) s fun t => onlySite n s t ∧
      t.site n = { s.site n with pwr := .run, waking := false, pwrPending := none }) ∧
    ((s.site n).pwrPending = some .off → (s.dom (domOfSite n)).st ≠ .failed →
      completes (.napWake n) s fun t => (t.site n).pwr = .off ∧ (t.site n).pwrPending = none ∧
        (t.dom (domOfSite n)).st = .off ∧ ∀ m, m ≠ n → t.site m = s.site m)) ∧
  (∀ (s : State) (n : SiteNo), (s.site n).waking = false → s.targetCame n = false →
    completes (.napWake n) s (· = s)) ∧
  (∀ (s : State) (n : SiteNo), (s.site n).pwr = .run ∨ (s.site n).pwr = .nap → (s.site n).waking = false →
    (s.launchFree (s.site n).hamlet = false → completes (.retainEnter n) s (· = s)) ∧
    (s.launchFree (s.site n).hamlet = true → s.launchIn (s.site n).hamlet = false ∧
      windowOver (tget (fun _ => 0) s.host.launchEnd (scopeKey (s.site n).hamlet)) 10000000 s.tb = true)) ∧
  (∀ (s : State) (n : SiteNo), (s.site n).pwr = .run ∨ (s.site n).pwr = .nap → (s.site n).waking = false →
    (s.site n).bound.isSome = true → s.quiescent n = true → s.launchFree (s.site n).hamlet = true →
    completes (.retainEnter n) s fun t =>
      t = { s with sites := t.sites, pwr := { s.pwr with doms := t.pwr.doms } } ∧
      t.site n = { s.site n with pwr := .retain, quiet := 0 } ∧ (∀ m, m ≠ n → t.site m = s.site m) ∧
      t.dom (domOfSite n) = { s.dom (domOfSite n) with mv := 600 } ∧
      ∀ d, d ≠ domOfSite n → t.dom d = s.dom d) ∧
  (∀ (s : State) (n : SiteNo) (cal : CalObs), (s.site n).pwr = .retain → (s.site n).waking = true →
    (s.site n).pwrPending ≠ some .off →
    (∀ a b : BitVec 4, cal.fwd = some a → cal.rev = some b → a ≤ 6 → b ≤ 6 → (s.site n).bad = false →
      completes (.retainWake n cal) s fun t =>
        t = { s with sites := t.sites, pwr := { s.pwr with doms := t.pwr.doms },
                     clk := { s.clk with crossings := t.clk.crossings } } ∧
        t.site n = { s.site n with pwr := .run, waking := false, pwrPending := none } ∧
        (∀ m, m ≠ n → t.site m = s.site m) ∧
        t.dom (domOfSite n) = { s.dom (domOfSite n) with mv := adequateMv (s.site n).op (s.region ⟨n.val, by omega⟩).fastest } ∧
        t.crossing n.val = { mode := 1, fwd := a, rev := b } ∧
        t.crossing (40 + n.val) = { mode := 1, fwd := a, rev := b } ∧
        ∀ x, x ≠ n.val → x ≠ 40 + n.val → t.crossing x = s.crossing x) ∧
    (cal.fwd = none → completes (.retainWake n cal) s fun t =>
        (t.site n).pwr = .retain ∧ (t.site n).waking = false ∧ (t.site n).pwrPending = none ∧
        (t.site n).bad = true ∧
        t.mapBad 0 n.val = true ∧ (t.crossing n.val).mode = 3 ∧ (t.crossing (40 + n.val)).mode = 3 ∧
        (∀ x, x ≠ n.val → x ≠ 40 + n.val → t.crossing x = s.crossing x) ∧ (∀ m, m ≠ n → t.site m = s.site m) ∧
        ∃ r ∈ t.flt.reports, r.2.cls = 0x0403 ∧ r.2.site = some n)) ∧
  (∀ (s : State) (n : SiteNo),
    ((s.site n).bound.isSome = true → (s.site n).quarantined = false → (s.site n).bad = false →
      completes (.coreOff n) s (· = s)) ∧
    ((s.site n).bound = none → (s.site n).pwr = .inTransition ∨ ((s.site n).pwr = .nap ∧ (s.site n).waking = true) ∨
        ((s.site n).pwr = .retain ∧ (s.site n).waking = true) →
      completes (.coreOff n) s fun t => onlySite n s t ∧
        t.site n = { s.site n with pwrPending := some .off }) ∧
    ((s.site n).bound = none → (s.site n).pwr = .run ∨ (s.site n).pwr = .nap ∨ (s.site n).pwr = .retain →
      (s.site n).waking = false → (s.dom (domOfSite n)).st ≠ .failed →
      completes (.coreOff n) s fun t =>
        t = { s with sites := t.sites, pwr := { s.pwr with doms := t.pwr.doms },
                     clk := { s.clk with regions := t.clk.regions }, flt := t.flt, jrnl := t.jrnl } ∧
        ((s.site n).vote = none → t.flt = s.flt ∧ t.jrnl = s.jrnl) ∧
        (t.site n).pwr = .off ∧ (t.site n).seq = .idle ∧ (t.site n).ws = [] ∧ (t.site n).ps = [] ∧
        (t.site n).sregs = [] ∧ (t.site n).vregs = [] ∧ (t.site n).gran = (s.site n).gran ∧
        (t.site n).shut = true ∧ (∀ m, m ≠ n → t.site m = s.site m) ∧
        t.dom (domOfSite n) = { s.dom (domOfSite n) with st := .off, mv := 0 } ∧
        (t.region ⟨n.val, by omega⟩).st = 0 ∧ ∀ d, d ≠ domOfSite n → t.dom d = s.dom d)) ∧
  (∀ (s : State) (n : SiteNo) (tm : Word64),
    (s.usable n = true → s.pwr.ibcOk.getLsbD (fieldOfSite n).val = true →
      ((s.site n).pwr = .off → (s.dom (domOfSite n)).st = .off →
        completes (.corePowerOn n tm) s fun t =>
          t = { s.at tm with sites := t.sites, pwr := { s.pwr with doms := t.pwr.doms } } ∧
          t.site n = { s.site n with pwr := .inTransition, pwrPending := none } ∧
          (∀ m, m ≠ n → t.site m = s.site m) ∧
          t.dom (domOfSite n) = { s.dom (domOfSite n) with st := .wait, since := (s.at tm).tb } ∧
          ∀ d, d ≠ domOfSite n → t.dom d = s.dom d) ∧
      ((s.site n).pwr = .inTransition → completes (.corePowerOn n tm) s fun t => onlySite n (s.at tm) t ∧
        t.site n = { s.site n with pwrPending := none })) ∧
    (s.usable n = false → completes (.corePowerOn n tm) s (· = s.at tm)))

/-- R370 to R372, R348, R415, R420, Table 13.5: a waiting domain whose turn it is ramps on a good check inside 2 ms; after 2 ms it ramps all the same, its powered neighbours capped at 14 until it is on; at the end of the ramp the core runs at OP5, and is bound to the logical core it was chosen for, or switched off when that is latched; it waits while a request to a page to be exchanged is in flight (R233). -/
def Obligations.Admission : Prop :=
  (∀ (s : State) (d : DomainNo) (near : Bool) (tm : Word64), (s.dom d).st = .wait → s.admitTurn d = true →
    inWindow (s.dom d).since 2000000 (s.at tm).tb = true →
    (near = false → 10 ≤ tget (fun _ => 0) s.pwr.ibcLow (fieldOfDom d).val → (s.at tm).forecastSoon d = false →
      completes (.admissionCheck d true near tm) s fun t => onlyDomain d (s.at tm) t ∧
      t.dom d = { s.dom d with st := .ramp }) ∧
    (near = true ∨ tget (fun _ => 0) s.pwr.ibcLow (fieldOfDom d).val < 10 ∨ (s.at tm).forecastSoon d = true →
      completes (.admissionCheck d true near tm) s (· = s.at tm))) ∧
  (∀ (s : State) (d : DomainNo) (tm : Word64), (s.dom d).st = .wait → s.admitTurn d = true →
    windowOver (s.dom d).since 2000000 (s.at tm).tb = true →
    completes (.admissionTimeout d tm) s fun t =>
      t = { s.at tm with pwr := { s.pwr with doms := t.pwr.doms }, flt := t.flt, jrnl := t.jrnl } ∧
      logged s t 0x0507 ∧ t.dom d = { s.dom d with st := .ramp } ∧
      (∀ e, e ≠ d → e.val < 40 → fieldOfDom e = fieldOfDom d → (s.dom e).st = .on →
        t.dom e = { s.dom e with qAdm := 14 }) ∧
      ∀ e, e ≠ d → ¬(e.val < 40 ∧ fieldOfDom e = fieldOfDom d ∧ (s.dom e).st = .on) → t.dom e = s.dom e) ∧
  (∀ (s : State) (n : SiteNo), (s.dom (domOfSite n)).st ≠ .ramp ∨ s.exchangeReady n = false →
    completes (.rampEnd (domOfSite n)) s (· = s)) ∧
  (∀ (s : State) (n : SiteNo), (s.dom (domOfSite n)).st = .ramp → s.exchangeReady n = true →
    (s.site n).pwrPending ≠ some .off → (s.site n).chosen = none →
    completes (.rampEnd (domOfSite n)) s fun t =>
      let d := domOfSite n
      t = { s with sites := t.sites, pwr := { s.pwr with doms := t.pwr.doms },
                   clk := { s.clk with regions := t.clk.regions }, flt := t.flt, jrnl := t.jrnl } ∧
      t.dom d = { s.dom d with st := .on, mv := 750, trim := 0 } ∧
      (t.site n).pwr = .run ∧ (t.site n).pwrPending = none ∧ (t.site n).op = 5 ∧ (t.site n).seq = .idle ∧
      (t.site n).shut = false ∧ (∀ m, m ≠ n → t.site m = s.site m) ∧
      (t.region ⟨n.val, by omega⟩).st = (if s.fieldStopped (fieldOfSite n) then 2 else 3) ∧
      (t.region ⟨n.val, by omega⟩).mhz = (s.region ⟨40 + (fieldOfSite n).val, by omega⟩).mhz ∧
      (∀ e, e ≠ d → e.val < 40 → fieldOfDom e = fieldOfDom d →
        ((s.dom e).st = .on → t.dom e = { s.dom e with qAdm := 16 }) ∧
        ((s.dom e).st = .wait → t.dom e = { s.dom e with since := s.tb })) ∧
      ∀ e, e ≠ d → ¬(e.val < 40 ∧ fieldOfDom e = fieldOfDom d) → t.dom e = s.dom e) ∧
  (∀ (s : State) (n old : SiteNo) (lc : LCoreNo), (s.dom (domOfSite n)).st = .ramp → s.exchangeReady n = true →
    (s.site n).pwrPending ≠ some .off → (s.site n).chosen = some (lc, old) → n ≠ old →
    s.fuses.siteGood.getLsbD n.val = true →
    completes (.rampEnd (domOfSite n)) s fun t =>
      t.siteOf lc = some n ∧ (∀ x, x ≠ lc → t.siteOf x = s.siteOf x) ∧ (t.site n).bound = some lc ∧
      (t.site n).hamlet = (s.site old).hamlet ∧ (t.site n).mirror = (s.site old).mirror ∧
      (t.site n).launch = (s.site old).launch ∧ (t.site n).chosen = none ∧ (t.site n).refillDue = true ∧
      (t.site old).bound = none ∧ (t.site old).hamlet = none ∧ (t.site old).launch = none ∧
      (∀ m, m ≠ n → m ≠ old → t.site m = s.site m) ∧ ∃ r ∈ t.flt.buf, r.cls = 0x0604) ∧
  (∀ (s : State) (n : SiteNo), (s.dom (domOfSite n)).st = .ramp → s.exchangeReady n = true →
    (s.site n).pwrPending = some .off → completes (.rampEnd (domOfSite n)) s fun t =>
      (t.site n).pwr = .off ∧ (t.site n).pwrPending = none ∧ (t.dom (domOfSite n)).st = .off ∧
      (t.dom (domOfSite n)).mv = 0 ∧ ∀ m, m ≠ n → t.site m = s.site m)

/-- R104 to R107, R120, Tables 4.5 to 4.7: the descriptor at the head of a copy queue starts when it may, its sill source read by one copy more; the oldest descriptor in flight completes in push order: its bytes stand at the destination, COMPLETED counts, the token is signalled and a sill source that asks is freed. -/
def Obligations.CopiesStartAndComplete : Prop :=
  (∀ (s : State) (n : SiteNo) (q : Fin 4) (tm : Word64) (d : CopyDesc) (rest : List CopyDesc),
    ((s.site n).queue q).waiting = d :: rest →
    ((s.site n).copyStarts q d = true → s.clocked n = true → (s.site n).sillRange d = true →
      d.combine = false → byFabric d.srcKind = false → byFabric d.dstKind = false →
      completes (.copyStart n q tm) s fun t => onlySite n (s.at tm) t ∧
        let c := s.site n
        let c' := t.site n
        let f : CopyFlight := { desc := d, since := (s.at tm).tb, done := false, moved := 0, txn := none, buf := [] }
        c'.queue q = { c.queue q with waiting := rest, flight := (c.queue q).flight ++ [f] } ∧
        (∀ p, p ≠ q → c'.queue p = c.queue p) ∧ c' = { c with queues := c'.queues, sill := c'.sill } ∧
        (d.srcKind ≠ 2 → c'.sill = c.sill) ∧
        (d.srcKind = 2 → c'.entry (d.src.toNat / 4194304 % 64) =
          { c.entry (d.src.toNat / 4194304 % 64) with readers := (c.entry (d.src.toNat / 4194304 % 64)).readers + 1 })) ∧
    ((s.site n).copyStarts q d = false ∨ s.clocked n = false → completes (.copyStart n q tm) s (· = s.at tm)) ∧
    ((s.site n).copyStarts q d = true → s.clocked n = true → (s.site n).sillRange d = false →
      completes (.copyStart n q tm) s fun t => siteAndLog n (s.at tm) t ∧ logged (s.at tm) t 0x000F ∧
        told (s.at tm) t 0x000F (some n) ∧
        (t.site n).queue q = { (s.site n).queue q with waiting := rest, halted := true, err := 4, errTag := d.tag } ∧
        (∀ p, p ≠ q → (t.site n).queue p = (s.site n).queue p))) ∧
  (∀ (s : State) (n : SiteNo) (q : Fin 4) (obs : CopyObs) (f : CopyFlight) (rest : List CopyFlight),
    ((s.site n).queue q).flight = f :: rest → s.clocked n = true → obs.ecc = .clean →
    f.desc.total ≤ f.moved → f.desc.bellEn = false → f.txn = none →
    completes (.copyComplete n q obs) s fun t => onlySite n s t ∧
      let c := s.site n
      let c' := t.site n
      let d := f.desc
      let e := d.src.toNat / 4194304 % 64
      c'.queue q = { c.queue q with flight := rest, completed := (c.queue q).completed + 1 } ∧
      (∀ p, p ≠ q → c'.queue p = c.queue p) ∧ c'.ws = c.ws ∧ c'.gran = c.gran ∧
      (d.sigEn = true → c'.tok d.sigTok = BitVec.ofNat 16 (min 65535 ((c.tok d.sigTok).toNat + 1))) ∧
      (d.sigEn = false → c'.toks = c.toks) ∧ (d.srcKind ≠ 2 → c'.sill = c.sill) ∧
      (d.srcKind = 2 → d.sillFree = true → (c.entry e).st = .released → (c.entry e).readers = 1 →
        c'.entry e = { claimed := (c.entry e).claimed - 1 } ∧
        c'.sillFree = c.sillFree + (c.entry e).units)) ∧
  (∀ (s : State) (n : SiteNo) (q : Fin 4) (obs : CopyObs) (f : CopyFlight) (rest : List CopyFlight),
    ((s.site n).queue q).flight = f :: rest → s.clocked n = true → f.desc.srcKind = 0 → f.desc.combine = false →
    f.desc.twoD = false → f.desc.rows = 1 → f.desc.length ≠ 0 → f.moved = 0 → f.desc.bellEn = false →
    f.txn = none →
    let src := f.desc.src.toNat
    let dst := f.desc.dst.toNat
    let len := f.desc.length.toNat
    (f.desc.dstKind = 0 → obs.ecc = .clean → completes (.copyComplete n q obs) s fun t => onlySite n s t ∧
      (t.site n).wsRead dst len = (s.site n).wsRead src len ∧
      (∀ a, a < dst ∨ dst + len ≤ a → tget (fun _ => 0) (t.site n).ws a = tget (fun _ => 0) (s.site n).ws a) ∧
      (t.site n).gran = (s.site n).gran ∧
      (t.site n).queue q = { (s.site n).queue q with flight := rest, completed := ((s.site n).queue q).completed + 1 }) ∧
    (f.desc.dstKind = 0 → obs.ecc = .corrected → completes (.copyComplete n q obs) s fun t =>
      siteAndLog n s t ∧ t.flt.reports = s.flt.reports ∧ (t.site n).wsRead dst len = (s.site n).wsRead src len ∧
      (t.site n).wsEcc = eccCorrected (s.site n).wsEcc ∧ ((t.site n).queue q).flight = rest) ∧
    (f.desc.dstKind = 0 → obs.ecc = .uncorrectable → ((s.site n).queue q).halted = false →
      completes (.copyComplete n q obs) s fun t =>
        siteAndLog n s t ∧ (t.site n).ws = (s.site n).ws ∧ (t.site n).toks = (s.site n).toks ∧
        (t.site n).wsEcc = eccUncorrectable (s.site n).wsEcc ∧ (t.site n).seq ≠ .running ∧
        (t.site n).queue q = { (s.site n).queue q with flight := rest, halted := true, err := 6, errTag := f.desc.tag } ∧
        (∃ r ∈ t.flt.reports, r.2.cls = 0x000A ∧ r.2.site = some n) ∧ told (s.wsLost n src) t 0x000F (some n)) ∧
    (byFabric f.desc.dstKind = true → completes (.copyComplete n q obs) s (· = s))) ∧
  (∀ (s : State) (n : SiteNo) (q : Fin 4) (obs : CopyObs), s.clocked n = false ∨ ((s.site n).queue q).flight = [] →
    completes (.copyComplete n q obs) s (· = s)) ∧
  (∀ (s : State) (n : SiteNo) (q : Fin 4) (obs : CopyObs) (f : CopyFlight) (rest : List CopyFlight),
    ((s.site n).queue q).flight = f :: rest → f.moved < f.desc.total → f.desc.srcKind = 1 →
    f.desc.byRequests = false → f.desc.dstKind ≠ 6 →
    (s.site n).refilling f.desc.src.toNat (f.desc.extent f.desc.srcStride) = true →
    completes (.copyComplete n q obs) s (· = s))

/-- R113, R114, R184, Table 4.9: a descriptor that fails leaves its queue with neither token nor bell; its queue halts with the first code and tag; COPY_FAULT, or PARITY_DATA for a third parity failure, is recorded and told. The oldest descriptor whose time is over ends with TIMEOUT, or HOST_UNREACHABLE at a host end. -/
def Obligations.CopiesFail : Prop :=
  (∀ (s : State) (n : SiteNo) (q : Fin 4) (code : BitVec 4) (par : Option BadPacket) (f : CopyFlight)
     (rest : List CopyFlight),
    ((s.site n).queue q).flight = f :: rest → ((s.site n).queue q).halted = false → f.txn = none →
    (par = none ∧ code ≠ 0 ∧ code ≤ 9) ∨ (par ≠ none ∧ f.desc.byRequests = true) →
    completes (.copyFail n q code par) s fun t => siteAndLog n s t ∧
      let c := s.site n
      let c' := t.site n
      c'.queue q = { c.queue q with flight := rest, halted := true, err := if par = none then code else 9,
                                    errTag := f.desc.tag } ∧
      (∀ p, p ≠ q → c'.queue p = c.queue p) ∧ c'.toks = c.toks ∧ c'.ws = c.ws ∧ c'.gran = c.gran ∧
      (par = none → c.seq ≠ .idle → c'.seq = .stopped) ∧ (par ≠ none → c'.seq = c.seq) ∧
      (code ≠ 6 → par = none → logged s t 0x000F ∧ told s t 0x000F (some n)) ∧
      (par ≠ none → logged s t 0x0006 ∧ told s t 0x0006 (some n))) ∧
  (∀ (s : State) (n : SiteNo) (q : Fin 4) (code : BitVec 4) (b : BadPacket) (f : CopyFlight)
     (rest : List CopyFlight),
    ((s.site n).queue q).flight = f :: rest → ((s.site n).queue q).halted = false → f.txn = none →
    f.moved = 0 → f.desc.srcKind = 0 → f.desc.dstKind = 0 → f.desc.combine = false → f.desc.twoD = false →
    f.desc.rows = 1 → b.at_ + b.span ≤ f.desc.length.toNat → f.desc.length ≠ 0 →
    (f.desc.dst.toNat + f.desc.length.toNat ≤ f.desc.src.toNat ∨
      f.desc.src.toNat + f.desc.length.toNat ≤ f.desc.dst.toNat) →
    completes (.copyFail n q code (some b)) s fun t => siteAndLog n s t ∧ logged s t 0x0006 ∧
      told s t 0x0006 (some n) ∧ (t.site n).toks = (s.site n).toks ∧
      (t.site n).queue q = { (s.site n).queue q with flight := rest, halted := true, err := 9, errTag := f.desc.tag } ∧
      (∀ k, k < f.desc.length.toNat →
        tget (fun _ => 0) (t.site n).ws (f.desc.dst.toNat + k) =
          if k < b.at_ ∨ (k < b.at_ + b.span ∧ (k - b.at_) / 8 ∉ b.bad) then
            tget (fun _ => 0) (s.site n).ws (f.desc.src.toNat + k)
          else tget (fun _ => 0) (s.site n).ws (f.desc.dst.toNat + k)) ∧
      ∀ a, a < f.desc.dst.toNat ∨ f.desc.dst.toNat + f.desc.length.toNat ≤ a →
        tget (fun _ => 0) (t.site n).ws a = tget (fun _ => 0) (s.site n).ws a) ∧
  (∀ (s : State) (n : SiteNo) (q : Fin 4) (code : BitVec 4), code = 0 ∨ 9 < code →
    completes (.copyFail n q code none) s (· = s)) ∧
  (∀ (s : State) (n : SiteNo) (q : Fin 4) (tm : Word64) (obs : StallObs) (past : List CopyFlight) (f : CopyFlight)
     (rest : List CopyFlight), ((s.site n).queue q).flight = past ++ f :: rest →
    (∀ g ∈ past, windowOver (g.stalledFrom obs) g.desc.limit (s.at tm).tb = false ∨ g.desc.total ≤ g.moved) →
    windowOver (f.stalledFrom obs) f.desc.limit (s.at tm).tb = true → f.moved < f.desc.total →
    ((s.site n).queue q).halted = false → f.txn = none →
    completes (.copyTimeout n q tm obs) s fun t => siteAndLog n (s.at tm) t ∧
      logged (s.at tm) t 0x000F ∧ told (s.at tm) t 0x000F (some n) ∧
      (t.site n).queue q = { (s.site n).queue q with flight := past ++ rest, halted := true, errTag := f.desc.tag, err := if obs.hostUnanswered = true ∧ (f.desc.srcKind = 6 ∨ f.desc.dstKind = 6) then 8 else 1 } ∧
      (∀ p, p ≠ q → (t.site n).queue p = (s.site n).queue p) ∧ (t.site n).toks = (s.site n).toks) ∧
  (∀ (s : State) (n : SiteNo) (q : Fin 4) (tm : Word64) (obs : StallObs),
    (∀ g ∈ ((s.site n).queue q).flight,
      windowOver (g.stalledFrom obs) g.desc.limit (s.at tm).tb = false ∨ g.desc.total ≤ g.moved) →
    completes (.copyTimeout n q tm obs) s (· = s.at tm)) ∧
  (∀ (f : CopyFlight) (hostUnanswered : Bool) (t : Word64),
    f.stalledFrom ⟨hostUnanswered, none⟩ = f.since ∧
    (f.desc.byRequests = true → f.stalledFrom ⟨hostUnanswered, some t⟩ = f.since) ∧
    (f.desc.byRequests = false → f.since < t → f.stalledFrom ⟨hostUnanswered, some t⟩ = t))

/-- R88, R97, R99, R226, R227, R239, Table 4.16: a corrected word is counted and nothing stops; an uncorrectable bundle stops the core when it would be issued next; an uncorrectable word of the working store stops its core; a block of the granary is taken again from its mirror, or is lost; a mirror unit is rewritten from the granary; scrub of GDDR7 takes the next unit in address order. -/
def Obligations.StoresAreScrubbed : Prop :=
  (∀ (s : State) (n : SiteNo), s.clocked n = true →
    let c := s.site n
    (completes (.psScrub n .clean) s fun t => onlySite n s t ∧
      t.site n = { c with psScrubAt := c.psScrubAt + 1 }) ∧
    (completes (.psScrub n .corrected) s fun t => siteAndLog n s t ∧ t.flt.reports = s.flt.reports ∧
      t.site n = { c with psScrubAt := c.psScrubAt + 1, psEcc := eccCorrected c.psEcc }) ∧
    (¬(c.seq = .running ∧ c.pc = c.psScrubAt) →
      completes (.psScrub n .uncorrectable) s fun t => onlySite n s t ∧
        t.site n = { c with psScrubAt := c.psScrubAt + 1, psEcc := eccUncorrectable c.psEcc,
                            psBad := (t.site n).psBad } ∧ c.psScrubAt ∈ (t.site n).psBad) ∧
    (c.seq = .running → c.pc = c.psScrubAt →
      completes (.psScrub n .uncorrectable) s fun t => siteAndLog n s t ∧ logged s t 0x0009 ∧
        told s t 0x0009 (some n) ∧ (t.site n).seq = .stopped ∧ (t.site n).psEcc = eccUncorrectable c.psEcc ∧
        c.pc ∈ (t.site n).psBad)) ∧
  (∀ (s : State) (n : SiteNo) (off : BitVec 28), s.clocked n = true →
    completes (.wsScrub n off .clean) s (· = s) ∧
    (completes (.wsScrub n off .corrected) s fun t => siteAndLog n s t ∧ t.flt.reports = s.flt.reports ∧
      t.site n = { s.site n with wsEcc := eccCorrected (s.site n).wsEcc }) ∧
    (completes (.wsScrub n off .uncorrectable) s fun t => siteAndLog n s t ∧ logged s t 0x000A ∧
      told s t 0x000A (some n) ∧
      t.site n = Site.stop { s.site n with wsEcc := eccUncorrectable (s.site n).wsEcc })) ∧
  (∀ (s : State) (n : SiteNo) (off : BitVec 30), s.isDark (fieldOfSite n) = false →
    completes (.granaryRefresh n off .clean) s (· = s) ∧
    completes (.granaryRefresh n off .uncorrectable) s fun t => onlySite n s t ∧
      off.toNat / 4096 ∈ (t.site n).refills ∧ (t.site n).granEcc = eccUncorrectable (s.site n).granEcc ∧
      (∀ b ∈ (s.site n).refills, b ∈ (t.site n).refills) ∧ (t.site n).gran = (s.site n).gran) ∧
  (∀ (s : State) (n : SiteNo) (off : BitVec 30) (e : EccObs), off.toNat / 4096 ∈ (s.site n).refills →
    let c := s.site n
    let b := off.toNat / 4096
    let a := mirrorFirst c.mirror * 8388608 + b * 4096
    (e = .corrected → mirrorValid c.mirror = true → b * 4096 < mirrorPages c.mirror * 8388608 →
      (s.page (a / 8388608)).valid = true → (∀ q, (c.queue q).flight = []) →
      completes (.granaryRefillDone n off e) s fun t =>
        t = { s with sites := t.sites, mem := { s.mem with sites := t.mem.sites }, flt := t.flt, jrnl := t.jrnl } ∧
        (∀ m, m ≠ n → t.site m = s.site m) ∧ (t.site n).granRead (b * 4096) 4096 = s.ddrRead a 4096 ∧
        b ∉ (t.site n).refills ∧
        let ms := memOf s (s.page (a / 8388608)).field (mirrorFirst c.mirror * 8388608 + off.toNat)
        (t.msite ms).ecc = eccCorrected (s.msite ms).ecc) ∧
    (e = .uncorrectable → mirrorValid c.mirror = true → b * 4096 < mirrorPages c.mirror * 8388608 →
      (s.page (a / 8388608)).valid = true →
      completes (.granaryRefillDone n off e) s fun t =>
        t = { s with sites := t.sites, mem := { s.mem with sites := t.mem.sites }, flt := t.flt, jrnl := t.jrnl } ∧
        (∀ m, m ≠ n → t.site m = s.site m) ∧ b ∉ (t.site n).refills ∧ (t.site n).gran = c.gran ∧
        (c.seq ≠ .idle → (t.site n).seq = .stopped) ∧ told s t 0x000D (some n) ∧
        (∃ r ∈ t.flt.buf, r.cls = 0x0202) ∧ (∃ r ∈ t.flt.buf, r.cls = 0x000D) ∧
        let ms := memOf s (s.page (a / 8388608)).field (mirrorFirst c.mirror * 8388608 + off.toNat)
        (t.msite ms).ecc = eccUncorrectable (s.msite ms).ecc) ∧
    (e = .clean → mirrorValid c.mirror = true → b * 4096 < mirrorPages c.mirror * 8388608 →
      (s.page (a / 8388608)).valid = true → (∀ q, (c.queue q).flight = []) →
      completes (.granaryRefillDone n off e) s fun t => siteAndLog n s t ∧ logged s t 0x000C ∧
        (t.site n).granRead (b * 4096) 4096 = s.ddrRead a 4096 ∧ b ∉ (t.site n).refills ∧
        (∀ x, x < b * 4096 ∨ b * 4096 + 4096 ≤ x →
          tget (fun _ => 0) (t.site n).gran x = tget (fun _ => 0) c.gran x) ∧
        (t.site n).ws = c.ws ∧ (t.site n).seq = c.seq ∧ t.flt.reports = s.flt.reports) ∧
    (mirrorValid c.mirror = false ∨ mirrorPages c.mirror * 8388608 ≤ b * 4096 ∨ (s.page (a / 8388608)).valid = false →
      completes (.granaryRefillDone n off e) s fun t => siteAndLog n s t ∧ logged s t 0x000D ∧
        told s t 0x000D (some n) ∧ b ∉ (t.site n).refills ∧ (t.site n).gran = c.gran ∧
        (c.seq ≠ .idle → (t.site n).seq = .stopped))) ∧
  (∀ (s : State) (ms : MemNo) (addr : BitVec 41) (w g : Bool),
    let f := fieldOfMem ms
    let a := addr.toNat / 64 * 64
    (s.msite ms).st = 2 → ((s.msite ms).chan (chanOf s f a)).closed = false → s.isDark f = false →
    s.fieldStopped f = false →
    (s.scrubNext ms = none → completes (.memScrub ms addr .clean w g) s fun t =>
      t = { s with mem := { s.mem with sites := t.mem.sites } } ∧
      t.msite ms = { s.msite ms with scrubAt := ((s.msite ms).scrubAt + 64) % 85899345920 }) ∧
    (∀ b e, s.scrubNext ms = some b → b ≠ a → completes (.memScrub ms addr e w g) s (· = s)) ∧
    (s.scrubNext ms = some a → completes (.memScrub ms addr .clean w g) s fun t => t = { s with mem := { s.mem with sites := t.mem.sites } } ∧
      t.msite ms = { s.msite ms with scrubAt := ((s.msite ms).scrubAt + 64) % 85899345920 } ∧
      ∀ m, m ≠ ms → t.msite m = s.msite m) ∧
    (∀ n, s.scrubNext ms = some a → s.mirrorOwner (a / 8388608) = some n →
      (completes (.memScrub ms addr .uncorrectable false true) s fun t =>
        t = { s with mem := { s.mem with sites := t.mem.sites, ddr := t.mem.ddr }, flt := t.flt, jrnl := t.jrnl } ∧
        logged s t 0x0209 ∧
        t.ddrRead a 64 = (s.site n).granRead (a - mirrorFirst (s.site n).mirror * 8388608) 64 ∧
        ∀ x, x < a ∨ a + 64 ≤ x → t.ddrRead x 1 = s.ddrRead x 1) ∧
      (completes (.memScrub ms addr .uncorrectable w false) s fun t => logged s t 0x000D ∧
        told s t 0x000D (some n) ∧ t.mem.ddr = s.mem.ddr ∧ (∀ m, m ≠ n → t.site m = s.site m) ∧
        ((s.site n).seq ≠ .idle → (t.site n).seq = .stopped))))

/-- R225, R226, R228, R233, R243 to R249: a controller writes or reads the unit and answers; a request that is held waits and is served when its channel reopens; a burst that fails four times waits for a retrain; a channel comes due, is closed step by step and is trained again; a remote page request is served by a CACHE device for the link's owner only. -/
def Obligations.MemoryServesAndRetrains : Prop :=
  (∀ (s : State) (f : FieldNo) (r : MemReq), s.isDark f = false →
    let a := r.addr.toNat
    let ms := memOf s f a
    let ch := chanOf s f a
    let w : MemWork := .unit r
    (s.memCode f r = 0 → s.memHeld f w s.mem.waiting = true → completes (.memRequest f r) s
      (· = { s with mem := { s.mem with waiting := s.mem.waiting ++ [{ field := f, work := w, since := s.tb, after := none }] } })) ∧
    (s.memHeld f w s.mem.waiting = false → s.memCode f r = 0 → r.crcFails = 0 → s.portFree (s.memPort f).1 = true →
      (r.write = true → r.bad = [] → completes (.memRequest f r) s fun t =>
        t = { s with mem := { s.mem with ddr := t.mem.ddr }, fab := t.fab, out := t.out } ∧ fabSent s t ∧
        t.ddrRead a r.data.length = r.data ∧
        (∀ x, x < a ∨ a + r.data.length ≤ x → t.ddrRead x 1 = s.ddrRead x 1) ∧
        ∃ p, t.out = s.out ++ [.packet p] ∧ p.opc = 2 ∧ p.status = 0 ∧ p.txn = r.txn ∧ p.dstRtr = r.dstRtr) ∧
      (r.write = true → r.bad ≠ [] → completes (.memRequest f r) s fun t =>
        t = { s with mem := { s.mem with ddr := t.mem.ddr }, fab := t.fab, out := t.out } ∧ fabSent s t ∧
        (∀ x, x < a ∨ a + r.data.length ≤ x → t.ddrRead x 1 = s.ddrRead x 1) ∧
        ∃ p, t.out = s.out ++ [.packet p] ∧ p.opc = 2 ∧ p.status = 6 ∧ p.txn = r.txn ∧ p.dstRtr = r.dstRtr) ∧
      (r.write = false → r.ecc = .clean → completes (.memRequest f r) s fun t =>
        t = { s with fab := t.fab, out := t.out } ∧ fabSent s t ∧
        ∃ p, t.out = s.out ++ [.packet p] ∧ p.opc = 4 ∧ p.status = 0 ∧ p.txn = r.txn ∧ p.dstRtr = r.dstRtr ∧
          p.data = s.ddrRead a 64)) ∧
    (s.memHeld f w s.mem.waiting = false → s.memCode f r = 0 → 4 ≤ r.crcFails → completes (.memRequest f r) s fun t =>
      t = { s with mem := { s.mem with sites := t.mem.sites, waiting := t.mem.waiting }, flt := t.flt, jrnl := t.jrnl } ∧
      (t.msite ms).crcRepeats = satAdd (s.msite ms).crcRepeats 3 ∧ ((t.msite ms).chan ch).due.isSome = true ∧
      t.mem.waiting = s.mem.waiting ++ [{ field := f, work := .unit { r with crcFails := 1 }, since := s.tb, after := some (ms, ch) }]) ∧
    (s.memCode f r ≠ 0 → s.portFree (s.memPort f).1 = true → completes (.memRequest f r) s fun t =>
      t = { s with fab := t.fab, out := t.out } ∧ fabSent s t ∧
      ∃ p, t.out = s.out ++ [.packet p] ∧ p.status = s.memCode f r ∧ p.txn = r.txn ∧ p.data = [])) ∧
  (∀ (s : State) (ms : MemNo) (x : Byte), (s.msite ms).st = 1 ∨ (s.msite ms).st = 2 →
    completes (.memTempRead ms x) s fun t => t = { s with mem := { s.mem with sites := t.mem.sites } } ∧
      t.msite ms = { s.msite ms with temp := x, chans := (t.msite ms).chans } ∧
      (∀ ch, (t.msite ms).chan ch = ((s.msite ms).chan ch).firstTemp x) ∧ ∀ m, m ≠ ms → t.msite m = s.msite m) ∧
  (∀ (s : State) (ms : MemNo) (ch : Fin 4) (cause : RetrainCause) (tm : Word64), (s.msite ms).st = 2 →
    ((s.msite ms).chan ch).due = none → (s.at tm).retrainDue ms ch cause = true →
    completes (.channelRetrainDue ms ch cause tm) s fun t =>
      t = { s.at tm with mem := { s.mem with sites := t.mem.sites } } ∧
      (t.msite ms).chan ch = { (s.msite ms).chan ch with due := some (s.at tm).tb } ∧
      (∀ c, c ≠ ch → (t.msite ms).chan c = (s.msite ms).chan c) ∧ ∀ m, m ≠ ms → t.msite m = s.msite m) ∧
  (∀ (s : State) (ms : MemNo) (ch : Fin 4) (tm : Word64), (s.msite ms).st = 2 →
    let c := (s.msite ms).chan ch
    c.closed = false → c.lastStep = 0 ∨ windowOver c.lastStep 20000 (s.at tm).tb = true →
    s.retrainingIn (fieldOfMem ms) = some (ms, ch) ∨
      (s.retrainingIn (fieldOfMem ms) = none ∧ s.nextRetrain (fieldOfMem ms) = some (ms, ch)) →
    completes (.retrainStepStart ms ch tm) s fun t =>
      t = { s.at tm with mem := { s.mem with sites := t.mem.sites } } ∧
      (t.msite ms).chan ch = { c with closed := true, steps := c.steps + 1 } ∧
      (t.msite ms).retraining = some ch ∧ (∀ c, c ≠ ch → (t.msite ms).chan c = (s.msite ms).chan c) ∧
      ∀ m, m ≠ ms → t.msite m = s.msite m) ∧
  (∀ (s : State) (ms : MemNo) (ch : Fin 4), ((s.msite ms).chan ch).closed = true →
    (∀ e ∈ s.mem.waiting, e.field ≠ fieldOfMem ms) →
    let c := (s.msite ms).chan ch
    (completes (.retrainStepEnd ms ch .centred) s fun t =>
      t = { s with mem := { s.mem with sites := t.mem.sites, waiting := t.mem.waiting } } ∧
      (t.msite ms).chan ch = { c with closed := false, lastStep := s.tb, trained := s.tb, tempAt := (s.msite ms).temp, repeats := 0, due := none, steps := 0, fails := 0 } ∧
      (t.msite ms).retraining = none ∧ (t.msite ms).retrains = (s.msite ms).retrains + 1) ∧
    (c.fails = 0 → completes (.retrainStepEnd ms ch .notCentred) s fun t =>
      t = { s with mem := { s.mem with sites := t.mem.sites } } ∧
      (t.msite ms).chan ch = { c with closed := false, lastStep := s.tb, steps := 0, fails := 1 }) ∧
    (c.fails ≠ 0 → 1 < c.rate → completes (.retrainStepEnd ms ch .notCentred) s fun t =>
      t = { s with mem := { s.mem with sites := t.mem.sites }, flt := t.flt, jrnl := t.jrnl } ∧ logged s t 0x0204 ∧
      (t.msite ms).chan ch = { c with closed := false, lastStep := s.tb, rate := c.rate - 1, steps := 0, fails := 0 }) ∧
    (c.fails ≠ 0 → c.rate ≤ 1 → completes (.retrainStepEnd ms ch .notCentred) s fun t =>
      (t.msite ms).st = 3 ∧ (t.msite ms).retraining = none ∧
      t.mem.lit.getLsbD (fieldOfMem ms).val = false)) ∧
  (∀ (s : State) (ms : MemNo) (ch : Fin 4) (r : MemReq) (u : Word64), ((s.msite ms).chan ch).closed = true →
    let f := fieldOfMem ms
    memOf s f r.addr.toNat = ms → chanOf s f r.addr.toNat = ch → r.addr.toNat % 64 = 0 → s.fieldStopped f = false →
    r.write = false → r.ecc = .clean → r.crcFails ≤ 1 → s.portFree (s.memPort f).1 = true →
    s.mem.waiting = [{ field := f, work := .unit r, since := u, after := some (ms, ch) }] →
    completes (.retrainStepEnd ms ch .centred) s fun t => t.mem.waiting = [] ∧ t.mem.ddr = s.mem.ddr ∧
      t.sites = s.sites ∧ ∃ p, t.out = s.out ++ [.packet p] ∧ p.opc = 4 ∧ p.status = 0 ∧ p.txn = r.txn ∧
        p.data = s.ddrRead r.addr.toNat 64) ∧
  (∀ (s : State) (r : RemoteReq), (s.link r.link).st = .up →
    let f := (s.page (r.addr.toNat / 8388608)).field
    (s.remoteCode r ≠ 0 → completes (.remotePageRequest r) s fun t => t.mem = s.mem ∧ t.sites = s.sites) ∧
    (s.remoteCode r = 0 → s.memHeld f (.remote r) s.mem.waiting = true → completes (.remotePageRequest r) s
      (· = { s with mem := { s.mem with waiting := s.mem.waiting ++ [{ field := f, work := .remote r, since := s.tb, after := none }] } })) ∧
    (s.remoteCode r = 0 → s.memHeld f (.remote r) s.mem.waiting = false → r.obs.crc = [] → r.write = true →
      completes (.remotePageRequest r) s fun t => t.sites = s.sites ∧
        t.ddrRead r.addr.toNat (min r.len r.data.length) = r.data.take r.len ∧
        ∀ x, x < r.addr.toNat ∨ r.addr.toNat + r.len ≤ x → t.ddrRead x 1 = s.ddrRead x 1) ∧
    (s.remoteCode r = 0 → s.memHeld f (.remote r) s.mem.waiting = false → r.obs = {} → r.write = false →
      completes (.remotePageRequest r) s fun t => t.sites = s.sites ∧ t.mem = s.mem))

/-- R201, R203, R204, R206: the packet at the head of an input leaves by its route's port when its input is granted and the buffer beyond has room; at its router it is delivered; a flit that failed three times truncates it; failures are counted. R206, R276, R279, R290: a bell operation for another device goes on over the link chosen for it; a truncated one is answered. -/
def Obligations.PacketsForwarded : Prop :=
  (∀ (s : State) (r : Fin 64) (i : Fin 5) (pl : Bool) (hop : HopObs) (p : Packet) (rest : List Packet) (out : Nat),
    s.buf r i.val pl = p :: rest → s.nextPort r p.dstRtr = some out → s.grantOf r out pl = some i.val →
    s.fieldStopped (fieldOfRtr r) = false → (i.val = 4 → s.portIdle r = true) →
    let p' := cutAt p hop.dead
    (out = 4 → p.opc ≠ 7 ∨ (svcType p.data = 1 ∧ p'.truncated = false ∧ ∀ x w dev, s.txnOf p.srcRtr p.txn = some x →
        x.use ≠ .bell w (some dev)) ∨ svcType p.data = 2 → completes (.packetForward r i pl hop) s fun t =>
      t = { s with fab := t.fab, flt := t.flt, out := t.out } ∧ t.out = s.out ++ [.delivered p'] ∧
      t.fab.hopRetry = satAdd s.fab.hopRetry hop.asked ∧ t.buf r i.val pl = rest ∧
      ∀ (x : Fin 64) (k : Fin 5) (y : Bool), (x, k, y) ≠ (r, i, pl) → t.buf x k.val y = s.buf x k.val y) ∧
    (out < 4 → (s.buf (neighbour r out) (opposite out) (s.planeVia r out pl)).length < 2 →
      s.isDark (fieldOfRtr (neighbour r out)) = false →
      completes (.packetForward r i pl hop) s fun t =>
        t = { s with fab := t.fab, flt := t.flt } ∧ t.fab.hopRetry = satAdd s.fab.hopRetry hop.asked ∧
        t.buf r i.val pl = rest ∧
        t.buf (neighbour r out) (opposite out) (s.planeVia r out pl) =
          s.buf (neighbour r out) (opposite out) (s.planeVia r out pl) ++ [p'] ∧
        ∀ (x : Fin 64) (k : Fin 5) (y : Bool), (x, k, y) ≠ (r, i, pl) →
          (x, k.val, y) ≠ (neighbour r out, opposite out, s.planeVia r out pl) →
          t.buf x k.val y = s.buf x k.val y) ∧
    (∀ (x : Txn) (w : BellFor) (dev : BitVec 12), out = 4 → p.opc = 7 → p'.truncated = false → svcType p.data = 1 →
      s.txnOf p.srcRtr p.txn = some x → x.use = .bell w (some dev) → i.val ≠ 4 →
      (∀ l, s.linkTo s.id.dev dev (BitVec.ofNat 64 (pktAddr p)) (pktTag p) = some l → (s.link l).st = .up →
        (s.link l).worn s.tb = false → (s.link l).txQ = [] → 2 ≤ (s.link l).credit 0 → p.data.length = 64 →
        completes (.packetForward r i pl hop) s fun t => t.sites = s.sites ∧ t.mem = s.mem ∧ t.coll = s.coll ∧
          ∃ q, t.out = s.out ++ [.delivered p', .linkPkt l q] ∧ q.opc = 7 ∧ q.dstKind = 2 ∧ q.dstDev = dev ∧
            q.vc = 0 ∧ q.srcDev = s.id.dev ∧ q.addr = BitVec.ofNat 64 (pktAddr p) ∧ q.data = p.data ∧
            q.rtxn = rtxnOf p.srcRtr p.txn)) ∧
    (out = 4 → p.opc = 7 → p'.truncated = true → svcType p.data = 1 → i.val ≠ 4 →
      ((s.setBuf r i.val pl rest).arrived p').portFree p.dstRtr = true →
      completes (.packetForward r i pl hop) s fun t => t.sites = s.sites ∧ t.mem = s.mem ∧ t.coll = s.coll ∧
        ∃ q, t.out = s.out ++ [.delivered p', .packet q] ∧ q.opc = 7 ∧ q.status = 5 ∧ q.txn = p.txn ∧
          q.dstRtr = p.srcRtr ∧ svcType q.data = 2) ∧
    (out < 4 → 2 ≤ (s.buf (neighbour r out) (opposite out) (s.planeVia r out pl)).length →
      completes (.packetForward r i pl hop) s (· = s))) ∧
  (∀ (s : State) (r : Fin 64) (i : Fin 5) (pl : Bool) (hop : HopObs),
    (s.buf r i.val pl = [] → completes (.packetForward r i pl hop) s (· = s)) ∧
    (∀ p rest out, s.buf r i.val pl = p :: rest → s.nextPort r p.dstRtr = some out →
      s.grantOf r out pl ≠ some i.val → completes (.packetForward r i pl hop) s (· = s)) ∧
    (s.fieldStopped (fieldOfRtr r) = true → completes (.packetForward r i pl hop) s (· = s)) ∧
    (∀ p rest, s.buf r i.val pl = p :: rest → s.nextPort r p.dstRtr = none → s.fieldStopped (fieldOfRtr r) = false →
      completes (.packetForward r i pl hop) s fun t =>
        t = { s with fab := { s.fab with bufs := t.fab.bufs, flying := t.fab.flying } } ∧ t.buf r i.val pl = rest ∧
        ∀ (x : Fin 64) (k : Fin 5) (y : Bool), (x, k, y) ≠ (r, i, pl) → t.buf x k.val y = s.buf x k.val y))

/-- R184, R197 to R200, R216, R217, Table 7.5: a request that may be served is written or read at its endpoint and answered OK; one that may not is answered with its status and nothing is written; a response moves the copy that awaits it on, or ends it with the code of its status; a late one is discarded. -/
def Obligations.RequestsServed : Prop :=
  (∀ (s : State) (p : Packet) (n : SiteNo) (o : WriteObs), s.packetCode p (.core n) true = 0 → p.truncated = false →
    s.notYet p = false → (s.arrived p).portFree p.dstRtr = true →
    (o.bad = [] → completes (.write p (.core n) o) s fun t =>
      t = { s with sites := t.sites, fab := t.fab, out := t.out } ∧ ∃ r, t.out = s.out ++ [.packet r] ∧ r.opc = 2 ∧ r.status = 0 ∧ r.txn = p.txn ∧ r.dstRtr = p.srcRtr ∧
      (∀ m, m ≠ n → t.site m = s.site m) ∧ t.site n = { s.site n with ws := (t.site n).ws } ∧
      (t.site n).wsRead (pktAddr p) p.data.length = p.data ∧
      ∀ a, a < pktAddr p ∨ pktAddr p + p.data.length ≤ a → tget (fun _ => 0) (t.site n).ws a = tget (fun _ => 0) (s.site n).ws a) ∧
    (o.bad ≠ [] → completes (.write p (.core n) o) s fun t =>
      t = { s with sites := t.sites, fab := t.fab, out := t.out } ∧ ∃ r, t.out = s.out ++ [.packet r] ∧ r.opc = 2 ∧ r.status = 6 ∧ r.txn = p.txn ∧ r.dstRtr = p.srcRtr ∧
      ∀ a, a < pktAddr p ∨ pktAddr p + p.data.length ≤ a → tget (fun _ => 0) (t.site n).ws a = tget (fun _ => 0) (s.site n).ws a)) ∧
  (∀ (s : State) (p : Packet) (f : FieldNo), s.packetCode p (.memory f) true = 0 → p.truncated = false →
    s.notYet p = false → (s.arrived p).portFree p.dstRtr = true → (∀ o, s.memHeld f (.write p o) s.mem.waiting = false) →
    completes (.write p (.memory f) {}) s fun t =>
      t = { s with mem := { s.mem with ddr := t.mem.ddr }, fab := t.fab, out := t.out } ∧ ∃ r, t.out = s.out ++ [.packet r] ∧ r.opc = 2 ∧ r.status = 0 ∧ r.txn = p.txn ∧ r.dstRtr = p.srcRtr ∧
      t.ddrRead (pktAddr p) p.data.length = p.data ∧
      ∀ a, a < pktAddr p ∨ pktAddr p + p.data.length ≤ a → t.ddrRead a 1 = s.ddrRead a 1) ∧
  (∀ (s : State) (p : Packet) (ep : Endpoint) (wo : WriteObs) (ro : ReadObs), s.notYet p = false →
    (s.arrived p).portFree p.dstRtr = true →
    (s.packetCode p ep true ≠ 0 → completes (.write p ep wo) s fun t =>
      t = { s with fab := t.fab, out := t.out } ∧ ∃ r, t.out = s.out ++ [.packet r] ∧ r.opc = 2 ∧ r.status = s.packetCode p ep true ∧ r.txn = p.txn ∧ r.dstRtr = p.srcRtr) ∧
    (s.packetCode p ep false ≠ 0 → completes (.readReq p ep ro) s fun t =>
      t = { s with fab := t.fab, out := t.out } ∧ ∃ r, t.out = s.out ++ [.packet r] ∧ r.opc = 4 ∧ r.status = s.packetCode p ep false ∧ r.txn = p.txn ∧ r.dstRtr = p.srcRtr ∧ r.data = [])) ∧
  (∀ (s : State) (p : Packet) (n : SiteNo) (o : ReadObs), s.packetCode p (.core n) false = 0 →
    s.notYet p = false → (s.arrived p).portFree p.dstRtr = true →
    (o.ecc = .clean → completes (.readReq p (.core n) o) s fun t => t = { s with fab := t.fab, out := t.out } ∧ ∃ r, t.out = s.out ++ [.packet r] ∧ r.opc = 4 ∧ r.status = 0 ∧ r.txn = p.txn ∧ r.dstRtr = p.srcRtr ∧
      r.data = (s.site n).wsRead (pktAddr p) (spanOf p)) ∧
    (o.ecc = .uncorrectable → completes (.readReq p (.core n) o) s fun t => ∃ r, t.out = s.out ++ [.packet r] ∧ r.opc = 4 ∧ r.status = 7 ∧ r.txn = p.txn ∧ r.dstRtr = p.srcRtr ∧
      (t.site n).ws = (s.site n).ws ∧ told s t 0x000A (some n))) ∧
  (∀ (s : State) (p : Packet) (x : Txn) (n : SiteNo) (q : Fin 4) (past : List CopyFlight) (f : CopyFlight)
     (rest : List CopyFlight), s.answeredBy p = some x → x.use = .copy n q → s.notYet p = false →
    s.portIdle p.dstRtr = true →
    ((s.site n).queue q).flight = past ++ f :: rest → f.txn = some p.txn → (∀ g ∈ past, g.txn ≠ some p.txn) →
    (past ++ rest).length < 4 →
    (p.status = 0 → f.desc.total ≤ f.moved + spanOf x.pkt →
      completes (.writeAck p) s fun t => t = { s with sites := t.sites, fab := t.fab } ∧
        t.txnOf p.dstRtr p.txn = none ∧ (∀ m, m ≠ n → t.site m = s.site m) ∧
        t.site n = { s.site n with queues := (t.site n).queues } ∧ ∃ u, ((t.site n).queue q).flight =
          past ++ { f with moved := f.moved + spanOf x.pkt, txn := none, buf := f.buf.drop (spanOf x.pkt), done := true, since := u } :: rest) ∧
    (p.status ≠ 0 → p.status ≠ 5 → p.status ≠ 6 → p.status ≠ 10 → ((s.site n).queue q).halted = false →
      completes (.writeAck p) s fun t => t.txnOf p.dstRtr p.txn = none ∧ (∀ m, m ≠ n → t.site m = s.site m) ∧
        (t.site n).queue q = { (s.site n).queue q with flight := past ++ rest, halted := true, err := copyCode p.status, errTag := f.desc.tag })) ∧
  (∀ (s : State) (p : Packet) (x : Txn) (n : SiteNo) (q : Fin 4) (past : List CopyFlight) (f : CopyFlight)
     (rest : List CopyFlight), s.answeredBy p = some x → x.use = .copy n q → s.notYet p = false →
    s.portIdle p.dstRtr = true →
    ((s.site n).queue q).flight = past ++ f :: rest → f.txn = some p.txn → (∀ g ∈ past, g.txn ≠ some p.txn) →
    p.status = 0 → p.truncated = false → f.desc.dstKind = 0 → f.desc.total ≤ f.moved + p.data.length →
    completes (.readData p []) s fun t => t = { s with sites := t.sites, fab := t.fab } ∧
      t.txnOf p.dstRtr p.txn = none ∧ (∀ m, m ≠ n → t.site m = s.site m) ∧
      let da := (f.desc.place f.moved).2.1
      (t.site n).wsRead da p.data.length = p.data ∧
      (∀ a, a < da ∨ da + p.data.length ≤ a → tget (fun _ => 0) (t.site n).ws a = tget (fun _ => 0) (s.site n).ws a) ∧ ∃ u, ((t.site n).queue q).flight =
        past ++ { f with moved := f.moved + p.data.length, txn := none, buf := f.buf.drop p.data.length, done := true, since := u } :: rest) ∧
  (∀ (s : State) (p : Packet) (f : FieldNo), s.packetCode p (.memory f) false = 0 → s.notYet p = false →
    (s.arrived p).portFree p.dstRtr = true → s.memHeld f (.read p {}) s.mem.waiting = false →
    completes (.readReq p (.memory f) {}) s fun t => t = { s with fab := t.fab, out := t.out } ∧ fabSent (s.arrived p) t ∧
      ∃ r, t.out = s.out ++ [.packet r] ∧ r.opc = 4 ∧ r.status = 0 ∧ r.txn = p.txn ∧ r.data = s.ddrRead (pktAddr p) (spanOf p)) ∧
  (∀ (s : State) (p : Packet) (bad : List Nat), s.answeredBy p = none → s.notYet p = false →
    completes (.writeAck p) s (· = s.arrived p) ∧ completes (.readData p bad) s (· = s.arrived p)) ∧
  (∀ (s : State) (p : Packet) (ep : Endpoint) (wo : WriteObs) (ro : ReadObs) (bad : List Nat), s.notYet p = true →
    completes (.write p ep wo) s (· = s) ∧ completes (.readReq p ep ro) s (· = s) ∧
    completes (.writeAck p) s (· = s) ∧ completes (.readData p bad) s (· = s))

/-- R200, R209 to R214, R216, R217, R300: the first contribution opens a slot while its root has room, else it is answered RED_RETRY; one from another owner is refused; the last one writes the sum as one WRITE; a slot that waits 80 µs is freed and its contributors answered; a request answered RED_RETRY is sent again after 1 µs. -/
def Obligations.CombineGroups : Prop :=
  (∀ (s : State) (c : RedContrib) (tm : Word64), s.isDark (fieldOfRtr c.root) = false →
    s.contribOvertakes c = false → (s.contribArrived c).portFree c.root = true →
    let tag := tagOf c.owned c.hamlet
    let size := groupSize c.group
    (s.hamletResetting tag = true → completes (.redContrib c tm) s fun t =>
      t = { s.at tm with fab := t.fab, out := t.out } ∧ fabSent s t ∧
      ∃ r, t.out = s.out ++ [.packet r] ∧ r.opc = 6 ∧ r.status = 2 ∧ r.txn = c.txn) ∧
    (s.hamletResetting tag = false → s.groupShut c.dst tag = true → completes (.redContrib c tm) s fun t =>
      t = { s.at tm with fab := t.fab, out := t.out } ∧ fabSent s t ∧
      ∃ r, t.out = s.out ++ [.packet r] ∧ r.opc = 6 ∧ r.status = 1 ∧ r.txn = c.txn) ∧
    (s.hamletResetting tag = false → s.groupShut c.dst tag = false → c.truncated = true ∨ c.bad = true →
      completes (.redContrib c tm) s fun t => t = { s.at tm with fab := t.fab, out := t.out } ∧ fabSent s t ∧
        ∃ r, t.out = s.out ++ [.packet r] ∧ r.opc = 6 ∧ r.status = (if c.truncated then 5 else 6) ∧ r.txn = c.txn) ∧
    (s.hamletResetting tag = false → s.groupShut c.dst tag = false → c.truncated = false → c.bad = false →
      treeGroup c.group = none → s.cslot c.root c.group tag c.dst c.addr = none →
      (1024 < s.combineUsed c.root + redUnits c.data size → completes (.redContrib c tm) s fun t =>
        t = { s.at tm with fab := { s.fab with bufs := t.fab.bufs, flying := t.fab.flying, portLast := t.fab.portLast, redRetry := satInc s.fab.redRetry }, out := t.out } ∧
        ∃ r, t.out = s.out ++ [.packet r] ∧ r.opc = 6 ∧ r.status = 10 ∧ r.txn = c.txn) ∧
      (s.combineUsed c.root + redUnits c.data size ≤ 1024 → c.contributor.toNat < size → 1 < size →
        completes (.redContrib c tm) s fun t =>
          t = { s.at tm with fab := { s.fab with slots := t.fab.slots, bufs := t.fab.bufs, flying := t.fab.flying } } ∧
          ∃ k, t.fab.slots = s.fab.slots ++ [k] ∧ k.root = c.root ∧ k.group = c.group ∧ k.tag = tag ∧
            k.dst = c.dst ∧ k.addr = c.addr ∧ k.since = (s.at tm).tb ∧ k.held = [c] ∧ k.failed = none ∧
            k.writing = false ∧ k.answered = [] ∧ k.units = redUnits c.data size)) ∧
    (∀ (k : CSlot) (n : SiteNo) (sum : RedData), s.hamletResetting tag = false → s.groupShut c.dst tag = false →
      c.truncated = false → c.bad = false → treeGroup c.group = none → s.cslot c.root c.group tag c.dst c.addr = some k → k.failed = none →
      c.dst = .core n → k.dst = .core n → k.group = c.group → k.root = c.root →
      (∀ d ∈ k.held, redAlike d.data c.data = true ∧ d.dst = c.dst ∧ d.contributor ≠ c.contributor) →
      c.contributor.toNat < size → k.held.length + 1 = size →
      redSum ((insertContrib c k.held).map (·.data)) = some sum →
      (s.freeTxn c.root).isSome = true →
      completes (.redContrib c tm) s fun t =>
        (∃ r, t.out = s.out ++ [.packet r] ∧ r.opc = 1 ∧ r.data = redBytes sum ∧ r.dstRtr = rtrOfSite n) ∧
        (∃ w ∈ t.fab.slots, w.writing = true ∧ w.held = insertContrib c k.held ∧ w.addr = k.addr) ∧
        t.sites = s.sites ∧ t.fab.txns.length = s.fab.txns.length + 1)) ∧
  (∀ (s : State) (p : Packet) (x : Txn) (n : SiteNo) (q : Fin 4) (past : List CopyFlight) (f : CopyFlight)
     (rest : List CopyFlight), s.answeredBy p = some x → x.use = .copy n q → s.notYet p = false →
    s.portIdle p.dstRtr = true →
    ((s.site n).queue q).flight = past ++ f :: rest → f.txn = some p.txn → (∀ g ∈ past, g.txn ≠ some p.txn) →
    (past ++ rest).length < 4 →
    (p.status = 0 → f.desc.total ≤ f.moved + spanOf x.pkt →
      completes (.redAck p) s fun t => t = { s with sites := t.sites, fab := t.fab } ∧
        t.txnOf p.dstRtr p.txn = none ∧ (∀ m, m ≠ n → t.site m = s.site m) ∧
        t.site n = { s.site n with queues := (t.site n).queues } ∧ ∃ u, ((t.site n).queue q).flight =
          past ++ { f with moved := f.moved + spanOf x.pkt, txn := none, buf := f.buf.drop (spanOf x.pkt), done := true, since := u } :: rest) ∧
    (p.status ≠ 0 → p.status ≠ 5 → p.status ≠ 6 → p.status ≠ 10 → ((s.site n).queue q).halted = false →
      completes (.redAck p) s fun t => t.txnOf p.dstRtr p.txn = none ∧ (∀ m, m ≠ n → t.site m = s.site m) ∧
        (t.site n).queue q = { (s.site n).queue q with flight := past ++ rest, halted := true, err := copyCode p.status, errTag := f.desc.tag })) ∧
  (∀ (s : State) (p : Packet), s.answeredBy p = none → s.notYet p = false →
    completes (.redAck p) s (· = s.arrived p)) ∧
  (∀ (s : State) (root : Fin 64) (tm : Word64) (past : List CSlot) (k : CSlot) (rest : List CSlot),
    s.fab.slots = past ++ k :: rest → k.root = root → k.underway = false → windowOver k.since 80000 (s.at tm).tb = true →
    (∀ x ∈ past, x.root ≠ root ∨ x.underway = true ∨ windowOver x.since 80000 (s.at tm).tb = false) →
    (∀ c ∈ k.held, c.root = root) → s.portFree root = true →
    completes (.combineSlotExpiry root tm) s fun t =>
      t = { s.at tm with fab := { s.fab with slots := t.fab.slots, bufs := t.fab.bufs, flying := t.fab.flying, waiting := t.fab.waiting, portLast := t.fab.portLast, timeouts := satInc s.fab.timeouts }, out := t.out } ∧
      k ∉ t.fab.slots ∧ (∀ x ∈ s.fab.slots, x.root ≠ k.root ∨ x.addr ≠ k.addr → x ∈ t.fab.slots) ∧
      ∃ l : List Packet, t.out = s.out ++ l.map .packet ∧ l.length + t.fab.waiting.length = k.held.length ∧
        ∀ r ∈ l ++ t.fab.waiting.map PortReq.pkt, r.opc = 6 ∧ r.status = k.failed.getD 11) ∧
  (∀ (s : State) (root : Fin 64) (tm : Word64),
    (∀ x ∈ s.fab.slots, x.root ≠ root ∨ x.underway = true ∨ windowOver x.since 80000 (s.at tm).tb = false) →
    completes (.combineSlotExpiry root tm) s (· = s.at tm)) ∧
  (∀ (s : State) (r : Fin 64) (k : BitVec 10) (tm due : Word64) (x : Txn) (past rest : List (Fin 64 × BitVec 10 × Word64)),
    s.fab.resends = past ++ (r, k, due) :: rest → (∀ e ∈ past, ¬(e.1 = r ∧ e.2.1 = k)) → s.txnOf r k = some x →
    x.pkt.srcRtr = r → x.pkt.txn = k →
    (due ≤ (s.at tm).tb → s.portFree r = true → completes (.redRetryResend r k tm) s fun t =>
      t = { s.at tm with fab := { s.fab with resends := t.fab.resends, bufs := t.fab.bufs, flying := t.fab.flying, portLast := t.fab.portLast }, out := s.out ++ [.packet x.pkt] } ∧
      ∀ e ∈ t.fab.resends, ¬(e.1 = r ∧ e.2.1 = k)) ∧
    ((s.at tm).tb < due → completes (.redRetryResend r k tm) s (· = s.at tm)))

/-- R202, R207, R208, R215, R406, R420: 100 µs after its injection, or one tick before the limit of its copy, a request is awaited no more, counted and recorded, and its copy ends with TIMEOUT; a pause stops injection, repairs lanes and loads tables when nothing is in flight, and drops what is in flight after 20 µs; a request during a pause is the next one. -/
def Obligations.DeliveryLimitAndPause : Prop :=
  (∀ (s : State) (r : Fin 64) (k : BitVec 10) (tm : Word64) (x : Txn) (n : SiteNo) (q : Fin 4) (past : List CopyFlight)
     (f : CopyFlight) (rest : List CopyFlight), s.txnOf r k = some x → x.use = .copy n q → s.portIdle r = true →
    ((s.site n).queue q).flight = past ++ f :: rest →
    windowOver x.since 100000 (s.at tm).tb = true ∨ windowOver f.since (f.desc.limit - 1) (s.at tm).tb = true →
    f.txn = some k → (∀ g ∈ past, g.txn ≠ some k) → (past ++ rest).length < 4 → ((s.site n).queue q).halted = false →
    completes (.deliveryTimeout r k tm) s fun t => t.txnOf r k = none ∧
      t.fab.timeouts = satInc s.fab.timeouts ∧ (∀ m, m ≠ n → t.site m = s.site m) ∧
      (t.site n).queue q = { (s.site n).queue q with flight := past ++ rest, halted := true, err := 1, errTag := f.desc.tag } ∧
      told (s.at tm) t 0x000F (some n)) ∧
  (∀ (s : State) (k : BitVec 10) (tm : Word64) (x : Txn) (n : SiteNo) (q : Fin 4) (past : List CopyFlight)
     (f : CopyFlight) (rest : List CopyFlight) (obs : StallObs), s.txnOf (rtrOfSite n) k = some x → x.use = .copy n q →
    s.portIdle (rtrOfSite n) = true → ((s.site n).queue q).flight = past ++ f :: rest →
    (∀ g ∈ past, windowOver (g.stalledFrom obs) g.desc.limit (s.at tm).tb = false ∧ g.txn ≠ some k) →
    windowOver (f.stalledFrom obs) f.desc.limit (s.at tm).tb = true → f.moved < f.desc.total → f.txn = some k →
    (past ++ rest).length < 4 → ((s.site n).queue q).halted = false →
    completes (.copyTimeout n q tm obs) s fun t => t.txnOf (rtrOfSite n) k = none ∧
      t.fab.timeouts = satInc s.fab.timeouts ∧ (∀ m, m ≠ n → t.site m = s.site m) ∧
      (t.site n).queue q = { (s.site n).queue q with flight := past ++ rest, halted := true, err := 1, errTag := f.desc.tag } ∧
      told (s.at tm) t 0x000F (some n)) ∧
  (∀ (s : State) (r : Fin 64) (k : BitVec 10) (tm : Word64),
    s.txnOf r k = none ∨ (∃ x, s.txnOf r k = some x ∧ ((windowOver x.since 100000 (s.at tm).tb = false ∧ (s.at tm).copyCut x = false) ∨ s.heldBack r k = true)) →
    completes (.deliveryTimeout r k tm) s (· = s.at tm)) ∧
  (∀ (s : State) (tm : Word64),
    (s.fab.paused = none → completes (.fabricPause tm) s
      (· = { s.at tm with fab := { s.fab with paused := some (s.at tm).tb } })) ∧
    (s.fab.paused.isSome = true → completes (.fabricPause tm) s
      (· = { s.at tm with fab := { s.fab with pauseReq := true } }))) ∧
  (∀ s : State, s.fab.paused.isSome = true → s.fab.bufs = [] →
    (s.fab.pauseReq = false → completes (.pauseDrained []) s fun t => t.fab.paused = none ∧
      t.fab.tablesDue = false ∧
      (s.fab.tablesDue = true → t.fab.loadedDark = s.fab.dark ∧ t.fab.routeGen = s.fab.routeGen + 1)) ∧
    (s.fab.pauseReq = true → s.fab.marked = [] → s.fab.waiting = [] → ∀ x : Lane,
      onEdge x.rtr x.inp.val = false → s.laneSpared x = false → s.planeDownAt x.rtr x.inp.val x.plane = false →
      completes (.pauseDrained [x]) s fun t => t.fab.paused = some s.tb ∧ t.fab.pauseReq = false ∧ t.sites = s.sites ∧
        t.laneSpared x = true ∧
        (∀ lt l, lintelAt x.rtr x.inp.val = some (lt, l) → t.fab.meshSpared = s.fab.meshSpared ∧
          (t.lintel lt).spares = satInc (s.lintel lt).spares ∧ (t.lintel lt).planeDown = (s.lintel lt).planeDown ∧
          ∀ k, k ≠ lt → t.lintel k = s.lintel k) ∧
        (lintelAt x.rtr x.inp.val = none → t.fab.meshSpared = s.fab.meshSpared ++ [x] ∧ t.fab.lintels = s.fab.lintels)) ∧
    (s.fab.pauseReq = true → s.fab.marked = [] → s.fab.waiting = [] → ∀ x : Lane,
      onEdge x.rtr x.inp.val = false → s.laneSpared x = true → s.planeDownAt x.rtr x.inp.val x.plane = false →
      completes (.pauseDrained [x]) s fun t => t.sites = s.sites ∧ t.planeDownAt x.rtr x.inp.val x.plane = true)) ∧
  (∀ (s : State) (ls : List Lane), s.fab.paused = none ∨ s.fab.bufs ≠ [] →
    completes (.pauseDrained ls) s (· = s)) ∧
  (∀ (s : State) (tm u : Word64), s.fab.paused = some u →
    (windowOver u 20000 (s.at tm).tb = true → completes (.pauseTimeout tm) s fun t =>
      t = { s.at tm with fab := { s.fab with bufs := [], flying := t.fab.flying } }) ∧
    (windowOver u 20000 (s.at tm).tb = false → completes (.pauseTimeout tm) s (· = s.at tm)))

/-- R258, R259, R264, R269 to R271, R273, R274, R437, R438, R461, Table 9.6: what each stage of the bring-up of a link takes, leaves and records. -/
def Obligations.LinksComeUp : Prop :=
  (∀ (s : State) (l : LinkNo) (tm : Word64), (s.link l).st = .down → s.hasLink l = true →
    s.isDark (fieldOfLink l) = false → s.id.valid = true → s.fab.cutOff.getLsbD (2 * (fieldOfLink l).val + 1) = false →
    ((s.link l).attempt = none → completes (.linkTrainStart l tm) s fun t => onlyLink l (s.at tm) t ∧
      t.link l = { s.link l with st := .training, attempt := some (s.at tm).tb, half := false, steered := [],
                                 badLanes := [] }) ∧
    (∀ a, (s.link l).attempt = some a → windowOver a 1000000000 (s.at tm).tb = false →
      completes (.linkTrainStart l tm) s (· = s.at tm))) ∧
  (∀ (s : State) (l : LinkNo) (o : TrainObs), (s.link l).st = .training → o.partner = true → o.tooLong = false →
    o.cableNs ≤ 450 →
    (o.lanes = 15 → o.failed = [] → completes (.linkTrained l o) s fun t => onlyLink l s t ∧
      t.link l = { s.link l with st := .ident, cableNs := o.cableNs, badLanes := [], lanes := 15, half := false }) ∧
    (2 ≤ popCount o.lanes → o.failed ≠ [] → (s.link l).half = false → completes (.linkTrained l o) s fun t =>
      t = { s with links := t.links, flt := t.flt, jrnl := t.jrnl } ∧ (∀ m, m ≠ l → t.link m = s.link m) ∧
      (t.link l).st = .ident ∧ (t.link l).half = true ∧ popCount (t.link l).lanes ≤ 2 ∧
      (∀ x ∈ o.failed, x ∈ (t.link l).badLanes ∧ (t.link l).lanes.getLsbD x.1.val = false) ∧ logged s t 0x0304)) ∧
  (∀ (s : State) (l : LinkNo) (o : TrainObs), (s.link l).st = .training → o.partner = false → (s.link l).txQ = [] →
    (s.link l).kept = [] → (s.link l).latched ≠ some true → completes (.linkTrained l o) s fun t =>
      downNow s t l ∧ (t.link l).recorded = true ∧
      ((s.link l).recorded = false → logged s t 0x0309) ∧ ((s.link l).recorded = true → t.flt = s.flt)) ∧
  (∀ (s : State) (l : LinkNo) (o : IdentObs), (s.link l).st = .ident →
    (∀ m, o.minor = some m → s.cabledTo l = some (o.dev.toNat, o.link) →
      completes (.identMessage l o) s fun t =>
        t = { s with links := t.links, out := s.out ++ [.keyMsg l] } ∧ (∀ k, k ≠ l → t.link k = s.link k) ∧
        (t.link l).st = .keying ∧ (t.link l).peerDev = o.dev ∧
        (t.link l).peerLink.toNat = o.link.val ∧ (t.link l).major = 1 ∧
        (t.link l).minor = if m = 0 then 0 else 1) ∧
    ((s.link l).txQ = [] → (s.link l).kept = [] → (s.link l).latched ≠ some true →
      (∀ m, o.minor = some m → s.cabledTo l ≠ some (o.dev.toNat, o.link) →
        completes (.identMessage l o) s fun t => downNow s t l ∧ logged s t 0x0308) ∧
      (o.minor = none → completes (.identMessage l o) s fun t => downNow s t l ∧ logged s t 0x0307))) ∧
  (∀ (s : State) (l : LinkNo) (o : KeyObs), (s.link l).st = .keying → (s.link l).txQ = [] →
    s.sec.nextLeaf.toNat + 1024 ≤ 2 ^ 40 →
    (o.authOk = true → (s.link l).owner = none → o.peerOwned = false → (s.link l).latched = none →
      completes (.linkKeyed l o) s fun t =>
        t = { s with links := t.links, sec := t.sec, mem := { s.mem with keyCount := s.mem.keyCount + 1 }, jrnl := t.jrnl } ∧
        (∀ k, k ≠ l → t.link k = s.link k) ∧ (t.link l).st = .up ∧ (t.link l).key = some (s.mem.keyCount + 1) ∧
        (t.link l).rxKey = some (s.mem.keyCount + 1) ∧ (t.link l).rxNext = none ∧ (t.link l).txEpoch = 0 ∧
        (t.link l).credits = startCredits (s.link l).minor ∧ (t.link l).rxSeq = 0 ∧
        (t.link l).peerDigest = o.peerDigest ∧ (t.link l).confirmed = false ∧
        t.sec.nextLeaf = s.sec.nextLeaf + 1) ∧
    (o.authOk = false → (s.link l).kept = [] → (s.link l).latched ≠ some true → completes (.linkKeyed l o) s fun t =>
      (t.link l).st = .down ∧ (t.link l).key = none ∧ (∀ k, k ≠ l → t.link k = s.link k) ∧
      t.sec.nextLeaf = s.sec.nextLeaf + 1 ∧ logged s t 0x0306 ∧ t.out = s.out ++ [.toReeve 0x0306 l])) ∧
  (∀ (s : State) (l : LinkNo) (o : KeyObs), (s.link l).st = .up → o.authOk = true → (s.link l).owner = none →
    o.peerOwned = false → (s.link l).worn s.tb = false → completes (.rekey l o) s fun t =>
      t = { s with links := t.links, sec := t.sec, mem := { s.mem with keyCount := s.mem.keyCount + 1 }, out := s.out ++ [.keyMsg l] } ∧
      (∀ k, k ≠ l → t.link k = s.link k) ∧
      t.link l = { s.link l with key := some (s.mem.keyCount + 1), txPhase := !(s.link l).txPhase,
                                 keyEpoch := (s.link l).epochNow s.tb, rekeyReady := true,
                                 rxNext := some (s.mem.keyCount + 1), confirmed := false, rekeying := false })

/-- R259 to R263, R266 to R268, R271, R277, R420, Table 9.6: a verified epoch moves the receiver on by eight blocks, takes the acknowledgement and adds every header's credits; a failed one is withheld; without progress the link replays what it keeps, then retrains; the fourth retrain in a second takes it DOWN. -/
def Obligations.LinksCarryAndFail : Prop :=
  (∀ (s : State) (l : LinkNo) (e : Epoch), (s.link l).st ≠ .up ∨ e.heads.head?.map (·.seq) ≠ some (s.link l).rxSeq →
    completes (.epochReceive l e) s (· = s)) ∧
  (∀ (s : State) (l : LinkNo) (e : Epoch), (s.link l).st = .up → e.heads.head?.map (·.seq) = some (s.link l).rxSeq →
    let k := s.link l
    (e.fecOk = false → completes (.epochReceive l e) s fun t => onlyLink l s t ∧ (t.link l).rxSeq = k.rxSeq ∧
      (t.link l).st = .up ∧ (t.link l).uncorrectable = satInc k.uncorrectable ∧
      (t.link l).epochFails = k.epochFails + 1 ∧ (t.link l).credits = k.credits ∧
      (t.link l).reqRetrain = (k.reqRetrain || decide (1 ≤ k.epochFails))) ∧
    (e.fecOk = true → epochHeads e = false → completes (.epochReceive l e) s fun t => onlyLink l s t ∧
      t.link l = { k with corrected := k.corrected + e.fecCorrected, epochFails := k.epochFails + 1,
                          reqRetrain := k.reqRetrain || decide (1 ≤ k.epochFails) }) ∧
    (e.fecOk = true → epochHeads e = true → k.tagOk e = false →
      (k.firstAfter = false → completes (.epochReceive l e) s fun t => onlyLink l s t ∧
        (t.link l).rxSeq = k.rxSeq ∧ (t.link l).st = .up ∧ (t.link l).authFails = satInc k.authFails ∧
        (t.link l).epochFails = k.epochFails + 1 ∧ (t.link l).credits = k.credits) ∧
      (k.firstAfter = true → k.txQ = [] → k.kept = [] → k.latched ≠ some true →
        completes (.epochReceive l e) s fun t => downNow s t l ∧ logged s t 0x0306)) ∧
    (e.fecOk = true → epochHeads e = true → k.tagOk e = true → e.pkts = [] → k.txQ = [] →
      (e.retrainReq = false → ∀ h, e.heads.getLast? = some h →
        completes (.epochReceive l e) s fun t => onlyLink l s t ∧ (t.link l).st = .up ∧
          (t.link l).rxSeq = k.rxSeq + 8 ∧ (t.link l).txAck = h.ack ∧ (t.link l).rxPhase = e.keyPhase ∧
          (t.link l).rxEpoch = some e.epoch ∧ (t.link l).rxKey = k.secretFor e.keyPhase ∧
          (t.link l).epochFails = 0 ∧ (t.link l).reqRetrain = false ∧ (t.link l).firstAfter = false ∧
          (∀ v, v ≤ 5 → (t.link l).credit v = k.credit v +
            ((e.heads.filter fun h => decide (h.cvc.toNat = v)).map fun h => h.credits.toNat).sum) ∧
          (∀ x, x ∈ (t.link l).kept ↔ x ∈ k.kept ∧ acked h.ack x.1 = false) ∧
          (h.ack ≠ k.txAck → (t.link l).progress = s.tb ∧ (t.link l).stuck = 0)) ∧
      (e.retrainReq = true → completes (.epochReceive l e) s fun t => (∀ m, m ≠ l → t.link m = s.link m) ∧
        t = { s with links := t.links, flt := t.flt, out := s.out ++ (t.link l).kept.map fun x => Out.linkPkt l x.2 } ∧
        (t.link l).replays = satInc k.replays ∧ (t.link l).txStart = s.tb ∧ (t.link l).txBase = (t.link l).txAck))) ∧
  (∀ (s : State) (l : LinkNo) (tm : Word64), (s.link l).st = .up →
    (windowOver (s.link l).progress 2000 (s.at tm).tb = true → completes (.replayTimeout l tm) s fun t =>
      t = { s.at tm with links := t.links, flt := t.flt,
                         out := s.out ++ (s.link l).kept.map fun x => Out.linkPkt l x.2 } ∧
      (∀ m, m ≠ l → t.link m = s.link m) ∧
      t.link l = { s.link l with replays := satInc (s.link l).replays, stuck := (s.link l).stuck + 1,
                                 txEpoch := (s.link l).epochNow (s.at tm).tb, txBase := (s.link l).txAck,
                                 txStart := (s.at tm).tb }) ∧
    (windowOver (s.link l).progress 2000 (s.at tm).tb = false → completes (.replayTimeout l tm) s (· = s.at tm))) ∧
  (∀ (s : State) (l : LinkNo) (r : Bool) (tm : Word64), (s.link l).st = .up → 8 ≤ (s.link l).stuck →
    let recent := ((s.link l).recent.filter fun x => !windowOver x 1000000000 (s.at tm).tb) ++ [(s.at tm).tb]
    (recent.length < 4 → completes (.linkRetrain l r tm) s fun t => logged (s.at tm) t 0x0302 ∧
      t = { s.at tm with links := t.links, flt := t.flt, jrnl := t.jrnl } ∧ (∀ m, m ≠ l → t.link m = s.link m) ∧
      (t.link l).st = .retrain ∧ (t.link l).retrains = satInc (s.link l).retrains ∧ (t.link l).recent = recent ∧
      (t.link l).kept = (s.link l).kept ∧ (t.link l).txQ = (s.link l).txQ ∧ (t.link l).key = (s.link l).key ∧
      (t.link l).rxKey = (s.link l).rxKey) ∧
    (4 ≤ recent.length → (s.link l).txQ = [] → (s.link l).kept = [] → (s.link l).latched ≠ some true →
      completes (.linkRetrain l r tm) s fun t => downNow (s.at tm) t l ∧ ∃ x ∈ t.flt.buf, x.cls = 0x0305)) ∧
  (∀ (s : State) (l : LinkNo) (o : LaneObs) (tm : Word64), (s.link l).st = .retrain →
    (o.ok = true → (s.link l).badLanes = [] → (s.link l).latched ≠ some false → (s.link l).txQ = [] →
      completes (.linkRetrainDone l o tm) s fun t => (∀ m, m ≠ l → t.link m = s.link m) ∧
        t = { s.at tm with links := t.links, out := s.out ++ (s.link l).kept.map fun x => Out.linkPkt l x.2 } ∧
        t.link l = { s.link l with st := .up, firstAfter := true, stuck := 0, progress := (s.at tm).tb, epochFails := 0,
                                   reqRetrain := false, latched := none, lanes := 15, half := false,
                                   txBase := (s.link l).txAck, txStart := (s.at tm).tb }) ∧
    (o.ok = false → (s.link l).txQ = [] → (s.link l).kept = [] → (s.link l).latched ≠ some true →
      completes (.linkRetrainDone l o tm) s fun t => downNow (s.at tm) t l ∧ logged (s.at tm) t 0x0305)) ∧
  (∀ (s : State) (l : LinkNo),
    ((s.link l).st = .up → (s.link l).txQ = [] → (s.link l).kept = [] → (s.link l).latched ≠ some true →
      completes (.linkDown l) s fun t => downNow s t l ∧ (t.link l).moved = true ∧ logged s t 0x0305) ∧
    ((s.link l).st ∈ [LinkState.training, .ident, .keying, .retrain] → completes (.linkDown l) s fun t =>
      onlyLink l s t ∧ t.link l = { s.link l with latched := some false }) ∧
    ((s.link l).st = .absent ∨ (s.link l).st = .down → completes (.linkDown l) s (· = s)) ∧
    ((s.link l).st = .up → (s.link l).moved = true → s.flowsDone l = true → completes (.linkFlowsReturn l) s fun t =>
      onlyLink l s t ∧ t.link l = { s.link l with moved := false }) ∧
    (s.flowsDone l = false → completes (.linkFlowsReturn l) s (· = s)) ∧
    (∀ (lane : Fin 4) (rx : Bool), (s.link l).st ≠ .absent → (s.link l).st ≠ .down →
      (lane, rx) ∉ (s.link l).badLanes → completes (.laneSerWindow l lane rx true) s fun t => onlyLink l s t ∧
        t.link l = { s.link l with badLanes := (s.link l).badLanes ++ [(lane, rx)] }))

/-- R283 to R290, R292, R349, Tables 10.1 to 10.3: an operation of the bell's owner is applied, then the firing rule; every operation is answered once, in one BELL_DATA where it came in a packet; one of another owner, into a hamlet being reset or on a dark field changes no bell; what a firing forwards is sent; a core's answered operation is outstanding no more; a token is signalled only on the site that the logical core runs on, for its own hamlet. -/
def Obligations.BellOperations : Prop :=
  (∀ (s : State) (b : BellNo) (src : BellSrc) (n : Word32) (i : Word64), s.bellWaits b src = false →
    s.bellStatus b src = 0 →
    let v := s.bell b
    let w := v.add n
    (w.fires = false → completes (.bellAdd b src n i) s fun t => bellTook s t 0 b src none ∧
      t.bell b = { v with count := (t.bell b).count, saturated := (t.bell b).saturated, refire := false } ∧
      (v.count.toNat + n.toNat < 2 ^ 32 → (t.bell b).count = v.count + n ∧ (t.bell b).saturated = v.saturated) ∧
      (2 ^ 32 ≤ v.count.toNat + n.toNat → (t.bell b).count = BitVec.allOnes 32 ∧ (t.bell b).saturated = true)) ∧
    (w.fires = true → v.actTok = false → v.actIrq = false → v.actMcast = false →
      (i = 0 → v.align = false → completes (.bellAdd b src n i) s fun t =>
        (v.actFwd = false → bellTook s t 0 b src none) ∧
        (v.actFwd = true → bellHasWay s (svcRtr (fieldOfBell b)) (v.forward 0) → ∃ u,
          bellSent (s.bellCame b src) u (svcRtr (fieldOfBell b), false) .unit (v.forward 0) ∧
          u = { s with coll := { s.coll with bells := u.coll.bells }, fab := u.fab, out := u.out } ∧
          t = u.bellAnswer 0 b src 0 none) ∧
        (∀ x, x ≠ b → t.bell x = s.bell x) ∧
        (t.bell b).fired = v.fired + 1 ∧ (t.bell b).target = v.target ∧ (t.bell b).owner = v.owner ∧
        (v.rearm = true → (t.bell b).count = w.count - v.target ∧ (t.bell b).armed = true ∧
          ((t.bell b).refire = true ↔ v.target ≤ w.count - v.target)) ∧
        (v.rearm = false → (t.bell b).count = w.count ∧ (t.bell b).armed = false)) ∧
      (s.tb < i → completes (.bellAdd b src n i) s fun t => bellTook s t 0 b src none ∧
        (∀ x, x ∈ (t.bell b).due ↔ x = i ∨ x ∈ v.due) ∧
        (v.due.Pairwise (· ≤ ·) → (t.bell b).due.Pairwise (· ≤ ·)) ∧ (t.bell b).fired = v.fired + 1) ∧
      (i ≠ 0 → i < s.tb → completes (.bellAdd b src n i) s fun t => (∀ x, x ≠ b → t.bell x = s.bell x) ∧ (t.bell b).late = true ∧
        t.coll.late = satInc s.coll.late ∧ (t.bell b).fired = v.fired + 1 ∧ (t.bell b).due = v.due))) ∧
  (∀ (s : State) (b : BellNo) (src : BellSrc), s.bellWaits b src = false → s.bellStatus b src = 0 →
    (∀ img : BellImg, img.w2.getLsbD 31 = false → completes (.bellSet b src img) s fun t => bellTook s t 1 b src none ∧
      (t.bell b).count = img.count ∧ (t.bell b).target = img.target ∧ (t.bell b).cores = img.cores ∧
      (t.bell b).armed = false ∧ (t.bell b).owner = (s.bell b).owner ∧ (t.bell b).fired = (s.bell b).fired ∧
      (t.bell b).saturated = false ∧ (t.bell b).late = false) ∧
    ((s.bell b).count < (s.bell b).target → completes (.bellArm b src) s fun t => bellTook s t 2 b src none ∧
      t.bell b = { s.bell b with armed := true, refire := false }) ∧
    (completes (.bellDisarm b src) s fun t => bellTook s t 3 b src none ∧
      t.bell b = { s.bell b with armed := false, refire := false }) ∧
    completes (.bellRead b src) s fun t => bellTook s t 4 b src (some (s.bell b).image) ∧ t.bell b = s.bell b) ∧
  (∀ (s : State) (b : BellNo) (src : BellSrc) (n : Word32) (i : Word64) (img : BellImg), s.bellWaits b src = false →
    s.bellStatus b src ≠ 0 →
    let st := s.bellStatus b src
    let u := s.bellCame b src
    completes (.bellAdd b src n i) s (· = u.bellAnswer 0 b src st none) ∧
    completes (.bellSet b src img) s (· = u.bellAnswer 1 b src st none) ∧
    completes (.bellArm b src) s (· = u.bellAnswer 2 b src st none) ∧
    completes (.bellDisarm b src) s (· = u.bellAnswer 3 b src st none) ∧
    completes (.bellRead b src) s (· = u.bellAnswer 4 b src st none)) ∧
  (∀ (s : State) (b : BellNo) (src : BellSrc) (n : Word32) (i : Word64) (img : BellImg), s.bellWaits b src = true →
    completes (.bellAdd b src n i) s (· = s) ∧ completes (.bellSet b src img) s (· = s) ∧
    completes (.bellArm b src) s (· = s) ∧ completes (.bellDisarm b src) s (· = s) ∧
    completes (.bellRead b src) s (· = s)) ∧
  (∀ (s : State) (op : BitVec 8) (b : BellNo) (st : BitVec 4) (img : Option BellImg),
    (∀ src, (∀ a x o h, src ≠ .packet a x o h) → s.bellAnswer op b src st img = s.send (.bellData op b st img)) ∧
    ∀ a x o h, let t := s.bellAnswer op b (.packet a x o h) st img
      t = { s with fab := t.fab, out := t.out } ∧ (∃ os, t.out = s.out ++ .bellData op b st img :: os) ∧
      ∃ p, p.opc = 7 ∧ p.dstRtr = a.1 ∧ p.dstEp = a.2 ∧ p.txn = x ∧ p.status = st ∧
        p.data = bellDataBytes op (BitVec.ofNat 13 b.val) img s.id.dev ∧
        (t.fab.flying = s.fab.flying ++ [p] ∨ t.fab.waiting = s.fab.waiting ++ [{ pkt := p, kind := .response }])) ∧
  (∀ (s : State) (b : BellNo),
    ((s.bell b).refire = false → completes (.bellRefire b) s (· = s)) ∧
    ((s.bell b).refire = true → s.isDark (fieldOfBell b) = false → s.fieldStopped (fieldOfBell b) = false →
      (s.bell b).fires = true →
      (s.bell b).rearm = true → (s.bell b).align = false → (s.bell b).actTok = false → (s.bell b).actIrq = false →
      (s.bell b).actFwd = false → (s.bell b).actMcast = false → completes (.bellRefire b) s fun t =>
        onlyBell b s t ∧ (t.bell b).fired = (s.bell b).fired + 1 ∧
        (t.bell b).count = (s.bell b).count - (s.bell b).target)) ∧
  (∀ (s : State) (b : BellNo) (tm i : Word64) (rest : List Word64), (s.bell b).due = i :: rest →
    s.isDark (fieldOfBell b) = false → s.fieldStopped (fieldOfBell b) = false →
    ((s.at tm).tb < i → completes (.bellAlignedAction b tm) s (· = s.at tm)) ∧
    (i ≤ (s.at tm).tb → (s.bell b).actTok = false → (s.bell b).actIrq = false → (s.bell b).actMcast = false →
      (s.bell b).actFwd = true → bellHasWay s (svcRtr (fieldOfBell b)) ((s.bell b).forward i) →
      completes (.bellAlignedAction b tm) s fun t => (∀ x, x ≠ b → t.bell x = s.bell x) ∧
        t.bell b = { s.bell b with due := rest } ∧
        t = { s.at tm with coll := { s.coll with bells := t.coll.bells }, fab := t.fab, out := t.out } ∧
        bellSent (s.at tm) t (svcRtr (fieldOfBell b), false) .unit ((s.bell b).forward i))) ∧
  (∀ (s : State) (n : SiteNo) (dst : Fin 64 × Bool) (txn : BitVec 10) (k : BitVec 13) (st : BitVec 4)
    (img : Option BellImg), s.fieldStopped (fieldOfRtr dst.1) = false → (s.bellDataFlying dst txn).any s.overtakes = false →
    (s.txnOf dst.1 txn = none → completes (.bellData dst txn k st img) s fun t => t = { s with fab := t.fab } ∧
      t.fab.txns = s.fab.txns) ∧
    (∀ x dev, s.txnOf dst.1 txn = some x → x.pkt.opc = 7 → x.pkt.srcEp = dst.2 → pktAddr x.pkt = 64 * k.toNat →
      x.use = .bell (.core n) dev → (s.site n).bellQ = [] →
      completes (.bellData dst txn k st img) s fun t => t.mem = s.mem ∧ t.host = s.host ∧
        (t.site n).bellsOut = (s.site n).bellsOut - 1 ∧ (∀ m, m ≠ n → (t.site m).bellsOut = (s.site m).bellsOut) ∧
        (∀ m, (t.site m).sregs = (s.site m).sregs ∧ (t.site m).toks = (s.site m).toks) ∧
        (st = 0 → t.flt = s.flt ∧ t.coll = s.coll) ∧
        (st ≠ 0 → told s t 0x000F (some n) ∧ t.coll = { s.coll with remoteFail := satInc s.coll.remoteFail }))) ∧
  (∀ (s : State) (n : SiteNo) (lc : LCoreNo) (tok : BitVec 6) (o : Bool) (h : HamletNo) (byIc : Bool),
    (s.takesToken n lc (tagOf o h) = true → completes (.tokenDelivery n lc tok o h byIc) s fun t =>
      onlySite n s t ∧ (t.site n).tok tok = BitVec.ofNat 16 (min 65535 (((s.site n).tok tok).toNat + 1)) ∧
      (∀ k, k ≠ tok → (t.site n).tok k = (s.site n).tok k) ∧
      ((s.site n).pwr = .nap ∨ (s.site n).pwr = .retain →
        (t.site n).waking = true ∧ (t.site n).pwr = (s.site n).pwr ∧ (t.site n).pwrPending = none)) ∧
    (s.takesToken n lc (tagOf o h) = false →
      completes (.tokenDelivery n lc tok o h false) s
        (· = { s with coll := { s.coll with dropped := satInc s.coll.dropped } }) ∧
      completes (.tokenDelivery n lc tok o h true) s
        (· = { s with ic := { s.ic with dropped := satInc s.ic.dropped } })))

/-- R297 to R300, R150, R301, R302, R304: a contribution a context expects opens its slot; an accepted sum frees its slot and counts its bytes, and rings DONE_BELL at LENGTH; a slot expires after 1 ms; a tally saves its bells, then each core, and counts only once its commit word is written; RESET_AT waits for its instant. -/
def Obligations.ReducersTalliesAndSystemReset : Prop :=
  (∀ (s : State) (tc : Fin 64) (addr : Word64) (l : LinkNo) (d : RedData) (tm : Word64),
    let c := s.tree tc
    (c.valid = true → c.failed = false → s.isDark c.home = false → s.hamletResetting c.owner = false →
      (s.link l).owner = c.owner → c.takes (.child l) = true → s.rslot tc addr = none →
      s.redUsed c.home + redUnits d c.expected ≤ 2048 → c.expected ≠ 1 → s.homeWay c l = true →
      completes (.reducerContrib tc addr (.child l) d tm) s fun t =>
        t = { s.at tm with coll := { s.coll with slots := t.coll.slots }, links := t.links, out := t.out } ∧
        ∃ r, t.coll.slots = s.coll.slots ++ [r] ∧ r.tc = tc ∧ r.addr = addr ∧ r.since = (s.at tm).tb ∧
          r.held = [(.child l, d)] ∧ r.sent = false ∧ r.failed = none) ∧
    (c.valid = false → completes (.reducerContrib tc addr (.child l) d tm) s fun t =>
        t = { s.at tm with links := t.links, out := t.out })) ∧
  (∀ (s : State) (tc : Fin 64) (addr : Word64) (r : RSlot) (d : RedData), s.rslot tc addr = some r →
    r.sent = true → r.sum = some d →
    let c := s.tree tc
    let n := c.doneBytes + (redBytes d).length
    (c.mode = 1 → completes (.reducerAccepted tc addr) s fun t => t.rslot tc addr = none ∧
      t = { s with coll := { s.coll with slots := t.coll.slots } }) ∧
    (c.mode ≠ 1 → n < c.length.toNat → completes (.reducerAccepted tc addr) s fun t => t.rslot tc addr = none ∧
      t = { s with coll := { s.coll with slots := t.coll.slots, trees := t.coll.trees } } ∧
      t.tree tc = { c with doneBytes := n } ∧ ∀ x, x ≠ tc → t.tree x = s.tree x) ∧
    (c.mode ≠ 1 → c.length.toNat ≤ n → completes (.reducerAccepted tc addr) s fun t => t.rslot tc addr = none ∧
      t.tree tc = { c with doneBytes := 0 } ∧ (∀ x, x ≠ tc → t.tree x = s.tree x) ∧
      (c.doneEn = false → t.out = s.out) ∧
      let m : BellMsg := { op := 0, dev := none, bell := c.doneBell, amount := 1, instant := 0, tag := c.owner }
      (c.doneEn = true → bellHasWay s (s.linkPort c.home).1 m → bellSent s t (s.linkPort c.home) .unit m))) ∧
  (∀ (s : State) (tc : Fin 64) (addr : Word64) (tm : Word64) (r : RSlot), s.rslot tc addr = some r →
    (windowOver r.since 1000000 (s.at tm).tb = false → completes (.reducerSlotExpiry tc addr tm) s (· = s.at tm)) ∧
    (windowOver r.since 1000000 (s.at tm).tb = true → completes (.reducerSlotExpiry tc addr tm) s fun t =>
      t.rslot tc addr = none ∧ t.sites = s.sites ∧ t.mem = s.mem ∧
      (r.failed = none → told (s.at tm) t 0x000F none) ∧ (r.failed.isSome = true → t.flt = s.flt))) ∧
  (∀ (s : State) (job : Word32) (o : Option HamletNo),
    scopes.find? (fun o => s.atTally o job && (s.tallyOf o).taking.isNone) = some o →
    completes (.tallyEnterRelease job) s fun t =>
      t = { s with coll := { s.coll with tallies := t.coll.tallies } } ∧
      (∀ p, p ≠ o → t.tallyOf p = s.tallyOf p) ∧
      let n := s.nextTally o job
      (t.tallyOf o).taking = some n ∧ (t.tallyOf o).entered = true ∧ (t.tallyOf o).copied = [] ∧
      ((t.tallyOf o).buf (tallyInB n)).complete = false ∧ ((t.tallyOf o).buf (tallyInB n)).num = n ∧
      ((t.tallyOf o).buf (tallyInB n)).job = job ∧
      ((t.tallyOf o).buf (tallyInB n)).bells = s.savedBells o job ∧
      (t.tallyOf o).buf (!tallyInB n) = (s.tallyOf o).buf (!tallyInB n) ∧ (t.tallyOf o).lastB = (s.tallyOf o).lastB) ∧
  (∀ (s : State) (k : SiteNo) (l : LaunchInfo) (lc : LCoreNo) (n : Word32), (s.site k).launch = some l →
    (s.site k).bound = some lc → (s.tallyOf (s.site k).hamlet).taking = some n → (s.site k).seq = .tally →
    (s.tallyOf (s.site k).hamlet).entered = true → lc ∉ (s.tallyOf (s.site k).hamlet).copied →
    (s.site k).bellsOut < 64 → (s.site k).bellQ = [] → bellHasWay s (rtrOfSite k) ((s.site k).arrive l.commitArrive) →
    completes (.tallyRegionsCopied k) s fun t =>
      let o := (s.site k).hamlet
      t = { s with sites := t.sites, coll := { s.coll with tallies := t.coll.tallies }, fab := t.fab, out := t.out } ∧
      (t.tallyOf o).copied = (s.tallyOf o).copied ++ [lc] ∧
      ((t.tallyOf o).buf (tallyInB n)).cores = ((s.tallyOf o).buf (tallyInB n)).cores ++ [s.savedCore k lc] ∧
      (t.tallyOf o).taking = some n ∧ (∀ p, p ≠ o → t.tallyOf p = s.tallyOf p) ∧
      (∀ m, m ≠ k → t.site m = s.site m) ∧ t.site k = { s.site k with bellsOut := (s.site k).bellsOut + 1 } ∧
      bellSent s t (rtrOfSite k, false) (.core k) ((s.site k).arrive l.commitArrive)) ∧
  (∀ (s : State) (job : Word32) (o : Option HamletNo) (n : Word32),
    scopes.find? (fun o => s.allCopied o job && (s.tallyOf o).taking.isSome) = some o →
    (s.tallyOf o).taking = some n → s.dueAtTally o job = [] →
    completes (.tallyCommitRelease job) s fun t =>
      t = { s with sites := t.sites, coll := { s.coll with tallies := t.coll.tallies } } ∧
      ((t.tallyOf o).buf (tallyInB n)).complete = true ∧ ((t.tallyOf o).buf (tallyInB n)).time = s.tb ∧
      ((t.tallyOf o).buf (tallyInB n)).cores = ((s.tallyOf o).buf (tallyInB n)).cores ∧
      (t.tallyOf o).buf (!tallyInB n) = (s.tallyOf o).buf (!tallyInB n) ∧
      (t.tallyOf o).lastB = tallyInB n ∧ (t.tallyOf o).taking = none ∧
      (∀ m ∈ s.jobSites o job, t.site m = { s.site m with seq := .running }) ∧
      ∀ m, m ∉ s.jobSites o job → t.site m = s.site m) ∧
  (∀ (s : State) (t0 : Word64) (root : BitVec 12),
    (∀ l, (s.link l).owner.isSome = true → completes (.resetAt (some l) t0 root) s (· = s)) ∧
    (s.tb ≤ t0 → completes (.resetAt none t0 root) s fun t =>
      t = { s with coll := { s.coll with resetT0 := some t0 }, out := t.out } ∧
      t.out = s.out ++ ((s.mset 63).dests.filter fun d => d.remote).map fun d => .resetAt d.dev t0 root)) ∧
  (∀ (s : State) (tm t0 : Word64), s.coll.resetT0 = some t0 →
    ((s.at tm).tb < t0 → completes (.resetAtInstant tm) s (· = s.at tm)) ∧
    (t0 ≤ (s.at tm).tb → s.resetAnswered = true → s.coll.resetAccept = true → s.host.resetting = false →
      s.board.rails = true → completes (.resetAtInstant tm) s fun t => t.coll.resetT0 = none ∧
        t.host.resetting = true ∧ t.host.ready = false ∧ t.board.resetDue = true ∧ t.sites = s.sites ∧ t.mem = s.mem))

/-- R306, R307, R383, R384, Table 13.11: the start of a group, the reports of its members, what the leader takes and gives, the acknowledgements, and the change of leader after ten silent windows. -/
def Obligations.PowerGroupBudgets : Prop :=
  (∀ (s : State) (acc : Accessor), s.host.ready = true → s.pwr.lock = false →
    let n := s.memberDevs.length
    (s.pwr.groupEn = false → 2 ≤ n → s.id.dev ∈ s.memberDevs → 3000 * n ≤ s.pwr.totalW.toNat →
      completes (.groupStart acc) s fun t => t = { s with pwr := t.pwr } ∧ t.pwr.groupEn = true ∧
        t.pwr.budget.toNat = min (s.pwr.totalW.toNat / n) s.pwr.limitW.toNat ∧
        (t.pwr.leader = true ↔ lowestDev s.memberDevs = s.id.dev) ∧ t.pwr.leaderDev = lowestDev s.memberDevs ∧
        (t.pwr.leader = true → t.pwr.pool.toNat = s.pwr.totalW.toNat - n * t.pwr.budget.toNat) ∧
        t.pwr.doms = s.pwr.doms ∧ t.pwr.limitW = s.pwr.limitW) ∧
    (s.pwr.groupEn = false → n < 2 ∨ s.id.dev ∉ s.memberDevs ∨ s.pwr.totalW.toNat < 3000 * n →
      completes (.groupStart acc) s (· = { s with pwr := { s.pwr with groupErr := true } })) ∧
    (s.pwr.groupEn = true → completes (.groupEnd acc) s fun t => t = { s with pwr := t.pwr } ∧
      t.pwr.groupEn = false ∧ t.pwr.budget = s.pwr.limitW ∧ t.pwr.leader = false ∧ t.pwr.pool = 0 ∧
      t.pwr.doms = s.pwr.doms)) ∧
  (∀ (s : State) (w slack : Word32), s.pwr.groupEn = true → s.pwr.leader = false →
    completes (.budgetWindowEnd w slack) s fun t => ∃ m,
      t = { s with out := s.out ++ [.budget .report s.pwr.leaderDev m] } ∧
      m.window = w ∧ m.watts = s.pwr.budget.setWidth 32 ∧ m.slack = slack ∧ m.dev = s.id.dev) ∧
  (∀ (s : State) (m : BudgetMsg), s.pwr.groupEn = true → s.pwr.leader = true → m.dev ∈ s.memberDevs →
    200 ≤ m.slack → 3000 < m.watts → (∀ r, s.member m.dev = some r → r.window ≠ m.window) →
    completes (.report m) s fun t => t = { s with pwr := t.pwr, out := t.out } ∧
      t.member m.dev = some { watts := m.watts, slack := m.slack, window := m.window } ∧
      (∀ d, d ≠ m.dev → t.member d = s.member d) ∧ t.pwr.takes = s.pwr.takes ++ [(m.dev, m.window)] ∧
      t.pwr.pool = s.pwr.pool ∧ t.pwr.budget = s.pwr.budget ∧
      ∃ x, t.out = s.out ++ [.budget .take m.dev x] ∧ x.window = m.window ∧
        x.watts.toNat = min (m.watts.toNat - 3000) (m.watts.toNat / 20)) ∧
  (∀ (s : State) (m : BudgetMsg) (r : Member), s.member m.dev = some r → r.window = m.window →
    completes (.report m) s (· = s)) ∧
  (∀ (s : State) (w slack : Word32) (g : BitVec 12 × BitVec 32 × BitVec 32), s.pwr.groupEn = true →
    s.pwr.leader = true → g ∈ s.pwr.gives → s.missing (w - 1) g.1 = false →
    completes (.budgetWindowEnd w slack) s fun t => ∃ x, .budget .give g.1 x ∈ t.out ∧ x.window = g.2.2 ∧
      x.watts = g.2.1 ∧ x.dev = s.id.dev) ∧
  (∀ (s : State) (m : BudgetMsg), s.pwr.groupEn = true →
    (s.pwr.lastTake ≠ some m.window → completes (.take m) s fun t => t = { s with pwr := t.pwr, out := t.out } ∧
      t.pwr.budget.toNat = s.pwr.budget.toNat - m.watts.toNat ∧ t.pwr.lastTake = some m.window ∧
      t.pwr.doms = s.pwr.doms ∧
      ∃ x, t.out = s.out ++ [.budget .takeAck m.dev x] ∧ x.window = m.window ∧ x.dev = s.id.dev ∧
        x.watts.toNat = min m.watts.toNat s.pwr.budget.toNat ∧
        t.pwr.taken.toNat = min 65535 (s.pwr.taken.toNat + x.watts.toNat)) ∧
    (s.pwr.lastTake = some m.window → completes (.take m) s (· = s)) ∧
    ((∀ x, s.pwr.lastGive ≠ some (m.window, x)) → s.pwr.budget ≤ s.pwr.limitW → completes (.give m) s fun t =>
      t = { s with pwr := t.pwr, out := t.out } ∧
      t.pwr.budget.toNat = min (s.pwr.budget.toNat + m.watts.toNat) s.pwr.limitW.toNat ∧
      t.pwr.doms = s.pwr.doms ∧
      ∃ x, t.out = s.out ++ [.budget .giveAck m.dev x] ∧ x.window = m.window ∧
        t.pwr.lastGive = some (m.window, x.watts) ∧
        x.watts.toNat = min m.watts.toNat (s.pwr.limitW.toNat - s.pwr.budget.toNat)) ∧
    (∀ w, s.pwr.lastGive = some (m.window, w) → completes (.give m) s fun t =>
      ∃ x, t = { s with out := s.out ++ [.budget .giveAck m.dev x] } ∧ x.window = m.window ∧ x.watts = w)) ∧
  (∀ (s : State) (m : BudgetMsg), s.pwr.leader = true → (m.dev, m.window) ∈ s.pwr.takes →
    (∃ x ∈ s.pwr.takes, x.2 = m.window ∧ x.1 ≠ m.dev) →
    completes (.takeAck m) s fun t => t = { s with pwr := { s.pwr with pool := t.pwr.pool, takes := t.pwr.takes } } ∧
      t.pwr.pool.toNat = min 1048575 (s.pwr.pool.toNat + m.watts.toNat) ∧ (m.dev, m.window) ∉ t.pwr.takes ∧
      ∀ x, x ≠ (m.dev, m.window) → (x ∈ t.pwr.takes ↔ x ∈ s.pwr.takes)) ∧
  (∀ (s : State) (m : BudgetMsg) (past rest : List (BitVec 12 × BitVec 32 × BitVec 32)) (w : BitVec 32),
    s.pwr.gives = past ++ (m.dev, w, m.window) :: rest → (∀ x ∈ past, x.1 ≠ m.dev) →
    completes (.giveAck m) s fun t => t = { s with pwr := { s.pwr with pool := t.pwr.pool, gives := t.pwr.gives } } ∧
      t.pwr.pool.toNat = min 1048575 (s.pwr.pool.toNat + (w.toNat - m.watts.toNat)) ∧
      (∀ x ∈ t.pwr.gives, x.1 ≠ m.dev) ∧ ∀ x, x.1 ≠ m.dev → (x ∈ t.pwr.gives ↔ x ∈ s.pwr.gives)) ∧
  (∀ (s : State) (w : Word32), s.pwr.groupEn = true →
    (s.pwr.leader = true → completes (.leaderTimeout w) s (· = s)) ∧
    (s.pwr.leader = false → s.pwr.heard.toNat + 10 ≤ w.toNat → (∃ d ∈ s.memberDevs, s.pwr.leaderDev < d) →
      completes (.leaderTimeout w) s fun t => t = { s with pwr := t.pwr, flt := t.flt, jrnl := t.jrnl } ∧
        logged s t 0x050A ∧ t.pwr.leaderDev ∈ s.memberDevs ∧ s.pwr.leaderDev < t.pwr.leaderDev ∧
        (∀ d ∈ s.memberDevs, s.pwr.leaderDev < d → t.pwr.leaderDev ≤ d) ∧
        (t.pwr.leader = true ↔ t.pwr.leaderDev = s.id.dev) ∧ t.pwr.heard = w ∧ t.pwr.budget = s.pwr.budget) ∧
    (w.toNat < s.pwr.heard.toNat + 10 → completes (.leaderTimeout w) s (· = s)))

/-- R314, R315, R317, R319 to R323, R331, R332, R337, R420, Tables 11.1 and 11.2: what a doorbell stores, when a ring is enabled, how a descriptor is fetched with a slot of its CQ reserved, and what its completion writes. -/
def Obligations.RingsAndDescriptors : Prop :=
  (∀ (s : State) (r : RingNo) (v : Word32), s.host.ready = true →
    let g := s.ring r
    let n := v.extractLsb' 0 16
    (g.enable = true → n.toNat < g.sqSize → completes (.sqTail r v) s fun t => onlyRing r s t ∧
      t.ring r = { g with sqTail := n }) ∧
    (g.enable = true → g.sqSize ≤ n.toNat → completes (.sqTail r v) s fun t =>
      t = { s with host := { s.host with rings := t.host.rings, dbIgnored := satInc s.host.dbIgnored } } ∧
      t.ring r = { g with err := 2 } ∧ ∀ x, x ≠ r → t.ring x = s.ring x) ∧
    (g.enable = false → completes (.sqTail r v) s
      (· = { s with host := { s.host with dbIgnored := satInc s.host.dbIgnored } })) ∧
    (g.enable = true → n.toNat < g.cqSize → (n.toNat + g.cqSize - g.cqHead.toNat) % g.cqSize ≤
        (g.cqTail.toNat + g.cqSize - g.cqHead.toNat) % g.cqSize →
      completes (.cqHead r v) s fun t => onlyRing r s t ∧ t.ring r = { g with cqHead := n })) ∧
  (∀ (s : State) (r : RingNo) (cfg : Word32), s.host.ready = true → (s.ring r).owner = none →
    (s.ring r).active = false →
    (cfg.extractLsb' 22 4 = 1 → 4 ≤ (cfg.extractLsb' 5 5).toNat → (cfg.extractLsb' 5 5).toNat ≤ 16 →
      4 ≤ (cfg.extractLsb' 0 5).toNat → (cfg.extractLsb' 0 5).toNat ≤ 16 → (cfg.extractLsb' 10 8).toNat = r.val →
      (s.ring r).sqBase.extractLsb' 0 12 = 0 → (s.ring r).cqBase.extractLsb' 0 12 = 0 →
      completes (.ringEnable r cfg) s fun t => onlyRing r s t ∧
        let g := t.ring r
        g.enable = true ∧ g.active = true ∧ g.sqHead = 0 ∧ g.sqTail = 0 ∧ g.cqHead = 0 ∧ g.cqTail = 0 ∧
        g.phase = true ∧ g.err = 0 ∧ g.reserved = (s.ring r).reserved ∧ g.sqLog2 = cfg.extractLsb' 5 5 ∧
        g.cqLog2 = cfg.extractLsb' 0 5 ∧ g.irqEn = cfg.getLsbD 30 ∧ g.sqBase = (s.ring r).sqBase) ∧
    (cfg.extractLsb' 22 4 ≠ 1 → completes (.ringEnable r cfg) s fun t => onlyRing r s t ∧ (t.ring r).err = 1 ∧
      (t.ring r).enable = (s.ring r).enable ∧ (t.ring r).active = false)) ∧
  (∀ (s : State) (r : RingNo), s.host.ready = true → (s.ring r).owner = none → (s.ring r).enable = true →
    (s.cqInUse r = false → completes (.ringDisable r) s fun t => onlyRing r s t ∧
      t.ring r = { s.ring r with enable := false, active := decide ((s.ring r).outstanding ≠ 0) }) ∧
    (s.cqInUse r = true → completes (.ringDisable r) s fun t => onlyRing r s t ∧
      t.ring r = { s.ring r with err := 4 })) ∧
  (∀ (s : State) (r : RingNo), (s.ring r).enable = false → (s.ring r).active = true →
    (s.ring r).outstanding = 0 → (s.ring r).latched = none → completes (.ringInactive r) s fun t =>
      onlyRing r s t ∧ t.ring r = { s.ring r with active := false }) ∧
  (∀ (s : State) (r : RingNo) (ws : List Word32) (tm : Word64), s.host.ready = true → s.host.lost = false →
    (s.ring r).enable = true → (s.ring r).stopped = false → (s.ring r).sqHead ≠ (s.ring r).sqTail →
    (s.ring (s.ring r).cq).cqFree ≠ 0 → s.host.descs.length < 4096 →
    ((r = s.host.lastRing ∧ s.host.readRun ≠ 0 ∧ s.host.readRun < 32) ∨
      ∀ q, s.fetchable q = true → s.ringTurn r ≤ s.ringTurn q) →
    (completes (.descriptorFetch r ws false tm) s fun t =>
      t = { s.at tm with host := { s.host with rings := t.host.rings, lastRing := r, readRun := 0 } } ∧
      (∀ x, x ≠ r → t.ring x = s.ring x) ∧
      t.ring r = { s.ring r with err := 3, stopped := true }) ∧
    (completes (.descriptorFetch r ws true tm) s fun t =>
      t = { s.at tm with host := { s.host with rings := t.host.rings, descs := t.host.descs, nextDesc := s.host.nextDesc + 1, lastRing := r, readRun := s.readsOn r } } ∧
      (t.ring r).sqHead = BitVec.ofNat 16 (((s.ring r).sqHead.toNat + 1) % (s.ring r).sqSize) ∧
      (t.ring r).outstanding = (s.ring r).outstanding + 1 ∧
      (t.ring (s.ring r).cq).reserved = (s.ring (s.ring r).cq).reserved + 1 ∧
      (∀ x, x ≠ r → x ≠ (s.ring r).cq → t.ring x = s.ring x) ∧
      t.host.descs.length = s.host.descs.length + 1 ∧
      ∃ d, t.host.descs.getLast? = some d ∧ d.id = s.host.nextDesc ∧ d.ring = r ∧ d.words = ws ∧
        d.fetched = (s.at tm).tb ∧ (d.headOk = true → d.started = false ∧ d.ready = none) ∧
        (d.headOk = false → ∃ c, d.ready = some c ∧ c.status = 1))) ∧
  (∀ (s : State) (id : Nat) (tm : Word64) (d : Desc) (c : Compl), s.desc id = some d → d.ready = some c →
    s.host.lost = false → s.host.ready = true → s.answersLast d c = false → d.irq = false →
    completes (.descriptorComplete id tm) s fun t =>
      let g := s.ring d.ring
      let q := s.ring g.cq
      t = { s.at tm with host := { s.host with rings := t.host.rings, descs := t.host.descs, launchEnd := t.host.launchEnd, held := t.host.held }, out := t.out } ∧
      (d.cls ≠ 2 → t.host.launchEnd = s.host.launchEnd) ∧
      (d.cls = 2 → tget (fun _ => 0) t.host.launchEnd (scopeKey (s.scopeOf d)) = c.time) ∧
      wroteHost s t (.hostWrite g.via (q.cqBase + q.cqTail.setWidth 64 * 32) (complEntry d c q.phase g.sqHead)) ∧
      t.desc id = none ∧ (∀ k, k ≠ id → t.desc k = s.desc k) ∧
      (t.ring d.ring).outstanding = g.outstanding - 1 ∧ (t.ring g.cq).reserved = q.reserved - 1 ∧
      (q.cqTail.toNat + 1 < q.cqSize → (t.ring g.cq).cqTail = q.cqTail + 1 ∧ (t.ring g.cq).phase = q.phase) ∧
      (q.cqSize ≤ q.cqTail.toNat + 1 → (t.ring g.cq).cqTail = 0 ∧ (t.ring g.cq).phase = !q.phase)) ∧
  (∀ (s : State) (r : RingNo) (tm : Word64), (s.ring r).enable = true → (s.ring r).sqHead ≠ (s.ring r).sqTail →
    (s.ring r).stopped = false → completes (.hostAccessTimeout r none tm) s fun t => onlyRing r (s.at tm) t ∧
      t.ring r = { s.ring r with err := 3, stopped := true })

/-- R28, R29, R86, R119, R235, R241, R320, R322 to R327, Tables 11.3 to 11.6: a descriptor that may start, is valid, owned by its scope and not reserved, does what its class says and its completion is ready. -/
def Obligations.ClassesThatMoveData : Prop :=
  (∀ (s : State) (id : Nat) (d : Desc) (n : SiteNo), classStarts s id d 1 → d.lwValid = true → d.lwSrc = 2 → s.coreHeld d.lwCore = false →
    s.coreOwner d.lwCore = s.scopeOf d → s.siteOf d.lwCore = some n → s.launchOn d.lwCore = false →
    s.foreignPages (s.scopeOf d) (pagesOf (dwordAt d.words 6).toNat d.lwLen ++ d.lwStagePages) = false →
    (∀ p ∈ pagesOf (dwordAt d.words 6).toNat d.lwLen ++
      (if d.lwPages ≠ 0 then (List.range d.lwPages).map fun i => d.lwFirst + i else []) ++ d.lwStagePages,
      s.pageHeld p = false) →
    s.lwMirrorOk d n = true → s.stageOk d = true → ∀ o : SourceObs, o.ecc = .clean → s.lwSource d [] o = 0 →
    completes (.loadWeights id [] o) s fun t => answered s t id 0 0 0 ∧
      (t.site n).granRead d.lwOff d.lwLen = s.ddrRead (dwordAt d.words 6).toNat d.lwLen ∧
      (∀ a, a < d.lwOff ∨ d.lwOff + d.lwLen ≤ a →
        tget (fun _ => 0) (t.site n).gran a = tget (fun _ => 0) (s.site n).gran a) ∧
      (∀ m, m ≠ n → t.site m = s.site m) ∧ (t.site n).ws = (s.site n).ws ∧
      (d.lwPages ≠ 0 → (t.site n).mirror = mirrorWord d.lwFirst d.lwPages) ∧
      (d.lwPages = 0 → (t.site n).mirror = (s.site n).mirror)) ∧
  (∀ (s : State) (id : Nat) (d : Desc) (image : List Word64), classStarts s id d 2 → d.launchValid = true → d.cores ≠ [] → d.imageInDdr = false →
    (∀ lc ∈ d.cores, s.coreHeld lc = false ∧ s.coreOwner lc = s.scopeOf d ∧ (s.siteOf lc).isSome = true ∧
      s.launchOn lc = false) →
    (∀ b ∈ d.tallyBells, s.bellHeld b.toNat = false ∧ (s.bell (bellNo b)).owner = s.scopeOf d) →
    (∀ n ∈ s.sitesOf (wordAt d.words 2), (s.site n).launchable = true) → s.launchSource d image = 0 →
    completes (.launch id image) s fun t =>
      (∃ e, t.desc id = some e ∧ e.started = true ∧ e.ready = none ∧ e.left = d.cores) ∧
      (∀ n ∈ s.sitesOf (wordAt d.words 2), (t.site n).seq = .running ∧
        (t.site n).pc = (wordAt d.words 3).extractLsb' 0 16 ∧ (t.site n).sreg 1 = dwordAt d.words 8 ∧
        (t.site n).exc = 0 ∧ (t.site n).vregs = (s.site n).vregs ∧ (t.site n).ws = (s.site n).ws ∧
        (∃ l, (t.site n).launch = some l ∧ l.desc = id ∧ l.job = d.job) ∧
        ∀ i, i < 8 * d.bundles → tget (fun _ => 0) (t.site n).ps i = (image.take (8 * d.bundles)).getD i 0) ∧
      ∀ n, n ∉ s.sitesOf (wordAt d.words 2) → (t.site n).seq = (s.site n).seq ∧ (t.site n).sregs = (s.site n).sregs) ∧
  (∀ (s : State) (id : Nat) (d : Desc) (n : SiteNo), classStarts s id d 3 → d.cpValid = true → d.cpKind false = 4 → d.cpKind true = 3 →
    0 < d.cpLen → d.cpLen ≤ 16777216 → s.siteOf (d.cpCore false) = some n → s.coreHeld (d.cpCore false) = false →
    s.coreOwner (d.cpCore false) = s.scopeOf d → (∀ p ∈ d.cpPages, s.pageHeld p = false) →
    s.foreignPages (s.scopeOf d) d.cpPages = false → s.cpCode d false 0 d.cpLen 0 = 0 → s.cpCode d true 0 d.cpLen 0 = 0 →
    completes (.copy id [] none) s fun t =>
      t = { s with mem := { s.mem with ddr := t.mem.ddr }, host := { s.host with descs := t.host.descs } } ∧
      answered s t id 0 0 0 ∧ t.ddrRead (d.cpAddr true) d.cpLen = (s.site n).wsRead (d.cpAddr false) d.cpLen ∧
      (∀ a, a < d.cpAddr true ∨ d.cpAddr true + d.cpLen ≤ a → t.ddrRead a 1 = s.ddrRead a 1)) ∧
  (∀ (s : State) (id : Nat) (d : Desc), classStarts s id d 4 → d.tallyValid = true →
    (d.tallyOp = 0 → s.lastTally (s.scopeOf d) = none → completes (.tallyInfo id) s fun t => onlyAnswered s t id 0 0 0) ∧
    (∀ b, d.tallyOp = 0 → s.lastTally (s.scopeOf d) = some b → completes (.tallyInfo id) s fun t =>
      onlyAnswered s t id 0 0 (b.num.setWidth 64 ||| 0x100000000)) ∧
    (∀ b, d.tallyOp = 1 → s.lastTally (s.scopeOf d) = some b → s.scopeOf d = none → s.host.lost = false →
      completes (.tallyExport id) s fun t =>
        ((dwordAt d.words 6).toNat < (Config.tallyImage b).length → ∃ x, onlyAnswered s t id 1 x 0) ∧
        ((Config.tallyImage b).length ≤ (dwordAt d.words 6).toNat →
          answered s t id 0 0 (BitVec.ofNat 64 (Config.tallyImage b).length) ∧ ∃ p,
          wroteHost s t (.hostWrite p (dwordAt d.words 4) (Config.tallyImage b)))) ∧
    (∀ img : List Byte, d.tallyOp = 2 → (∀ e ∈ s.launchesFor d, s.scopeOf e ≠ s.scopeOf d) →
      s.hostRefusal (s.scopeOf d) = 0 → (dwordAt d.words 6).toNat ≤ img.length → 0 < (dwordAt d.words 6).toNat →
      (dwordAt d.words 6).toNat ≤ s.bufBytes (s.scopeOf d) (if s.otherBuf (s.scopeOf d) then 4 else 3) →
      s.bufWhole (s.scopeOf d) (if s.otherBuf (s.scopeOf d) then 4 else 3) = true →
      completes (.tallyImport id img) s fun t =>
        (Config.tallyParse (img.take (dwordAt d.words 6).toNat) = none → onlyAnswered s t id 1 0 0) ∧
        (∀ b, Config.tallyParse (img.take (dwordAt d.words 6).toNat) = some b → answered s t id 0 0 0 ∧
          (t.tallyOf (s.scopeOf d)).lastB = s.otherBuf (s.scopeOf d) ∧
          (t.tallyOf (s.scopeOf d)).buf (s.otherBuf (s.scopeOf d)) = { b with complete := true }))) ∧
  (∀ (s : State) (id : Nat) (d : Desc), classStarts s id d 5 → (∀ w ∈ d.words.drop 2, w = 0) →
    ((∀ e ∈ s.host.descs, e.ring = d.ring → id ≤ e.id) → completes (.fence id) s fun t => onlyAnswered s t id 0 0 0) ∧
    ((∃ e ∈ s.host.descs, e.ring = d.ring ∧ e.id < id) → completes (.fence id) s (· = s))) ∧
  (∀ (s : State) (id : Nat) (d : Desc), classStarts s id d 8 → d.fits [(2, 0x3)] = true →
    (s.scopeOf d = none → s.idleFor d = true → completes (.roleSet id) s fun t =>
      t = { s with role := (wordAt d.words 2).extractLsb' 0 2, host := { s.host with descs := t.host.descs } } ∧
      answered s t id 0 0 0) ∧
    ((s.scopeOf d).isSome = true → completes (.roleSet id) s fun t => onlyAnswered s t id 3 0 0)) ∧
  (∀ (s : State) (id : Nat) (d : Desc), classStarts s id d 0xC → d.fits [(2, 0x3FFFF), (3, 0x3FFFF), (4, 0x1F)] = true →
    (∀ p ∈ d.psPages, s.pageHeld p = false) → s.psInvalid d (s.scopeOf d) = false →
    s.foreignPages (s.scopeOf d) d.psPages = false → tallyKind d.psKind = false → s.psTally d = [] →
    completes (.pageSet id) s fun t =>
      t = { s with mem := { s.mem with pages := t.mem.pages }, host := { s.host with descs := t.host.descs } } ∧
      answered s t id 0 0 (BitVec.ofNat 64 (d.psPages.filter fun p => (s.page p).valid).length) ∧
      (∀ p ∈ d.psPages, (s.page p).valid = true → t.page p = { s.page p with kind := d.psKind, remR := (wordAt d.words 4).getLsbD 3, remW := (wordAt d.words 4).getLsbD 4 }) ∧
      ∀ p, p ∉ d.psPages ∨ (s.page p).valid = false → t.page p = s.page p)

/-- R285, R288 to R293, R304, R309, R320, R322 to R324, R327, R328, R330, R419, R423, Tables 10.4, 10.9, 11.6 and 11.7. -/
def Obligations.ClassesThatOperateAndReport : Prop :=
  (∀ (s : State) (id : Nat) (d : Desc) (bs : List Byte) (hf : SourceObs) (img : List Word64)
     (sf : Option (Nat × BitVec 8)) (ws : List Word32), ∀ row ∈ classRows id bs hf img sf ws,
    classStarts s id d row.2.1 → row.2.2.1 d = true → row.2.2.2 d = false →
    completes row.1 s fun t => onlyAnswered s t id 1 0 0) ∧
  (∀ (s : State) (id : Nat) (d : Desc), classStarts s id d 6 → d.bellValid = true → d.remote = false → s.bellStatus d.index (.ring d.ring) = 0 →
    s.fieldStopped (fieldOfBell d.index) = false →
    let b := d.index
    let v := s.bell b
    let fr (t : State) : Prop := answered s t id 0 0 0 ∧ (∀ x, x ≠ b → t.bell x = s.bell x) ∧
      t = { s with coll := { s.coll with bells := t.coll.bells }, host := { s.host with descs := t.host.descs } }
    (d.sub = 0 → (v.add (wordAt d.words 4)).fires = false → completes (.bellOpAdd id) s fun t => fr t ∧
      t.bell b = { v.add (wordAt d.words 4) with refire := false }) ∧
    (d.sub = 1 → (v.set d.image8).fires = false → completes (.bellOpSet id) s fun t => fr t ∧
      t.bell b = { v.set d.image8 with refire := false }) ∧
    (d.sub = 2 → v.count < v.target → completes (.bellOpArm id) s fun t => fr t ∧
      t.bell b = { v with armed := true, refire := false }) ∧
    (d.sub = 3 → completes (.bellOpDisarm id) s fun t => fr t ∧
      t.bell b = { v with armed := false, refire := false }) ∧
    (d.sub = 4 → s.host.lost = false → completes (.bellOpRead id) s fun t => answered s t id 0 0 0 ∧
      t.coll = s.coll ∧ wroteHost s t (.hostWrite (s.ring d.ring).via (dwordAt d.words 6) (imageBytes v.image)))) ∧
  (∀ (s : State) (id : Nat) (d : Desc), classStarts s id d 6 → d.bellValid = true → d.remote = false → d.sub = 0 → s.bellHeld d.index.val = false →
    s.fieldStopped (fieldOfBell d.index) = false → s.bellStatus d.index (.ring d.ring) = 1 → completes (.bellOpAdd id) s fun t => onlyAnswered s t id 3 0 0) ∧
  (∀ (s : State) (id : Nat) (d : Desc) (row : Instr × Nat), classStarts s id d 6 → d.bellValid = true → d.remote = true →
    row ∈ [(Instr.bellOpAdd id, 0), (.bellOpSet id, 1), (.bellOpArm id, 2), (.bellOpDisarm id, 3), (.bellOpRead id, 4)] →
    d.sub = row.2 →
    let src : Fin 64 × Bool := (portRtr (s.ring d.ring).via, false)
    let m : BellMsg := { op := BitVec.ofNat 8 row.2, dev := some ((wordAt d.words 3).extractLsb' 0 12),
                         bell := BitVec.ofNat 13 d.index.val, amount := wordAt d.words 4, instant := 0,
                         tag := s.scopeOf d, image := d.image8 }
    bellHasWay s src.1 m → completes row.1 s fun t => bellSent s t src (.desc id) m ∧
      (∃ e, t.desc id = some e ∧ e.started = true ∧ e.ready = none) ∧
      t = { s with host := { s.host with descs := t.host.descs }, fab := t.fab, out := t.out }) ∧
  (∀ (s : State) (id : Nat) (d : Desc), classStarts s id d 6 →
    let i : Fin 64 := ⟨d.index.val % 64, by omega⟩
    (d.sub = 0x10 → d.installValid = true →
      let c := d.context (s.scopeOf d)
      (∀ l ∈ c.links, s.linkHeld l = false ∧ (s.link l).owner = s.scopeOf d) → (s.tree i).foreign (s.scopeOf d) = false →
      c.doneEn = false → s.installOk c = true → completes (.treeInstall id) s fun t => answered s t id 0 0 0 ∧
        t.tree i = c ∧ (∀ x, x ≠ i → t.tree x = s.tree x) ∧ t.coll.bells = s.coll.bells) ∧
    (d.sub = 0x11 → d.bellValid = true → d.index.val < 64 → (s.tree i).foreign (s.scopeOf d) = false →
      completes (.treeRemove id) s fun t => answered s t id 0 0 0 ∧ t.tree i = {} ∧
        ∀ x, x ≠ i → t.tree x = s.tree x) ∧
    (∀ (ws : List Word32) (m : MSet), d.sub = 0x12 → d.bellValid = true → d.index.val < 63 →
      (s.mset d.index.val).dests = [] → s.host.lost = false → ws.length = 32 → msetOf ws (s.scopeOf d) = some m →
      completes (.msetWrite id ws) s fun t => answered s t id 0 0 0 ∧ t.mset d.index.val = m ∧
        ∀ x, x ≠ d.index.val → t.mset x = s.mset x) ∧
    (d.sub = 0x20 → d.bellValid = true → s.scopeOf d = none → completes (.systemReset id) s fun t =>
      answered s t id 0 0 s.resetInstant ∧ t.coll.resetT0 = some s.resetInstant ∧
      t.out = s.out ++ ((s.mset 63).dests.filter fun x => x.remote).map fun x => .resetAt x.dev s.resetInstant s.id.dev)) ∧
  (∀ (s : State) (id : Nat) (d : Desc), classStarts s id d 7 → d.queryValid = true → s.host.lost = false →
    let rep (t : State) (bs : List Byte) : Prop := answered s t id 0 0 0 ∧
      wroteHost s t (.hostWrite (s.ring d.ring).via (dwordAt d.words 4) bs) ∧
      t = { s with host := { s.host with descs := t.host.descs, held := t.host.held }, out := t.out }
    (d.sub = 0 → s.deviceReport.length ≤ d.qLen → completes (.queryDevice id) s fun t => rep t s.deviceReport) ∧
    (d.sub = 1 → 64 ≤ d.qLen → completes (.queryCoreMap id) s fun t =>
      rep t ((List.finRange 32).flatMap s.coreMapEntry)) ∧
    (∀ h : HamletNo, d.sub = 2 → s.scopeOf d = some h → (wordAt d.words 2).extractLsb' 8 3 = BitVec.ofNat 3 h.val →
      (s.hamletReport h).length ≤ d.qLen → completes (.queryHamlet id) s fun t => rep t (s.hamletReport h)) ∧
    (d.sub = 3 → s.linksReport.length ≤ d.qLen → completes (.queryLinks id) s fun t => rep t s.linksReport) ∧
    (d.sub = 4 → 328 ≤ d.qLen → completes (.queryFaultRecords id) s fun t =>
      let l := (s.unreadBy (s.scopeOf d)).take (d.qLen / 328)
      answered s t id 0 0 (BitVec.ofNat 64 l.length) ∧ t.flt.buf = s.flt.buf ∧
      (∀ r, l.getLast? = some r → tget (fun _ => 0) t.flt.readPos (scopeKey (s.scopeOf d)) = r.id + 1) ∧
      (l ≠ [] → wroteHost s t (.hostWrite (s.ring d.ring).via (dwordAt d.words 4) (l.flatMap fun r => r.bytes s.fuses.platform))))) ∧
  (∀ (s : State) (id : Nat) (d : Desc), classStarts s id d 0xD → d.fits (wholeWords [2]) = true →
    (∀ e ∈ s.launchesFor d, e.job ≠ wordAt d.words 2 ∨ s.scopeOf e ≠ s.scopeOf d) →
    completes (.abort id) s fun t => onlyAnswered s t id 0 0 0) ∧
  (∀ (s : State) (id : Nat) (d : Desc), classStarts s id d 0xD → d.fits (wholeWords [2]) = true →
    (s.host.descs.map (·.id)).Nodup →
    let l := (s.launchesFor d).filter fun e => decide (e.job = wordAt d.words 2) && decide (s.scopeOf e = s.scopeOf d)
    (∀ e ∈ l, windowOver e.fetched e.deadline s.tb = false) →
    completes (.abort id) s fun t =>
      (∃ r, t.desc id = some r ∧
        r.ready = some { status := 0, detail := 0, result := BitVec.ofNat 64 l.length, time := s.tb }) ∧
      ∀ e ∈ l, ∃ r c, t.desc e.id = some r ∧ r.ready = some c ∧ c.status = 9 ∧ c.detail = 0) ∧
  (∀ (s : State) (id : Nat) (tm : Word64) (work : Bool) (d : Desc), s.desc id = some d → d.ready = none →
    (windowOver d.fetched d.deadline (s.at tm).tb = true → d.cls ≠ 2 → completes (.deadlineExpiry id tm work) s fun t =>
      onlyAnswered (s.at tm) t id 5 (bitAt work 31) 0) ∧
    (windowOver d.fetched d.deadline (s.at tm).tb = false → completes (.deadlineExpiry id tm work) s (· = s.at tm)))

/-- R327, R395, R421, R435, R436, R438, R441 to R444, Table 16.3: what the hamlet commands do at their start, at their commit and at the end of zeroisation. That a second command of the other kind is latched and one of the same kind absorbed is R420 and R421. -/
def Obligations.HamletsChange : Prop :=
  (∀ (s : State) (id : Nat) (d : Desc), classStarts s id d 9 → s.scopeOf d = none → d.createFits = true → (s.hamlet d.hm).st = .none_ →
    (s.createStatus d.hmOf d.ring ≠ 0 → completes (.hamletCreate id) s fun t =>
      onlyAnswered s t id (s.createStatus d.hmOf d.ring) 0 0) ∧
    (s.createStatus d.hmOf d.ring = 0 → completes (.hamletCreate id) s fun t =>
      t = { s with sites := t.sites, sec := t.sec, host := { s.host with descs := t.host.descs }, flt := t.flt, jrnl := t.jrnl } ∧
      t.hamlet d.hm = { d.hmOf with replaced := (s.hamlet d.hm).replaced } ∧
      (∀ k, k ≠ d.hm → t.hamlet k = s.hamlet k) ∧
      (∃ e, t.desc id = some e ∧ e.started = true ∧ e.ready = none) ∧
      (∀ n ∈ s.sitesOf (wordAt d.words 3), (t.site n).seq = .idle ∧ (t.site n).ws = [] ∧ (t.site n).gran = [] ∧
        (t.site n).ps = [] ∧ (t.site n).sill = [] ∧ (t.site n).vregs = [] ∧ (t.site n).resetting = true ∧
        (t.site n).hamlet = (s.site n).hamlet) ∧
      ∀ n, n ∉ s.sitesOf (wordAt d.words 3) → t.site n = s.site n)) ∧
  (∀ (s : State) (h : HamletNo) (bad : List SiteNo) (id : Nat) (d : Desc), (s.hamlet h).st = .creating →
    (s.hamlet h).latched = none → (s.hamlet h).absorbed = [] → (s.hamlet h).replaced = [] →
    (s.hamlet h).desc = some id → s.desc id = some d → d.ready = none → windowOver d.fetched d.deadline s.tb = false →
    let v := s.hamlet h
    (s.sec.entropyOk = false → (∀ n ∈ bad, n ∉ s.sitesOf v.cores) → completes (.hamletCreateCommit h bad) s fun t =>
      answered s t id 4 0 0 ∧ t.hamlet h = {} ∧ (∀ k, k ≠ h → t.hamlet k = s.hamlet k) ∧ t.mem = s.mem ∧
      t.links = s.links ∧ t.host.rings = s.host.rings ∧ t.coll = s.coll ∧ ∀ n, t.site n =
        if n ∈ s.sitesOf v.cores then { s.site n with resetting := false } else s.site n) ∧
    (s.sec.entropyOk = true → (∀ n ∈ bad, n ∉ s.sitesOf v.cores) → completes (.hamletCreateCommit h bad) s fun t => answered s t id 0 0 0 ∧
      t.hamlet h = { v with st := .live, memKey := (t.hamlet h).memKey, binding := 0, desc := none } ∧
      (t.hamlet h).memKey.isSome = true ∧ (∀ k, k ≠ h → t.hamlet k = s.hamlet k) ∧
      (∀ n ∈ s.sitesOf v.cores, t.site n = { s.site n with hamlet := some h, resetting := false }) ∧
      (∀ n, n ∉ s.sitesOf v.cores → t.site n = s.site n) ∧
      (∀ r : RingNo, t.ring r = if v.rings.getLsbD r.val then { s.ring r with owner := some h } else s.ring r) ∧
      (∀ l : LinkNo, (t.link l).owner = if v.links.getLsbD l.val then some h else (s.link l).owner) ∧
      (∀ b ∈ v.bellList, t.bell b = { s.bell b with owner := some h }) ∧
      (∀ b, b ∉ v.bellList → t.bell b = s.bell b) ∧
      (∀ p ∈ v.pageList, (t.page p).owner = some h ∧ (t.page p).enc = true ∧
        (p ∈ s.tallyPagesOf v true → (t.page p).kind = 3) ∧ (p ∈ s.tallyPagesOf v false → (t.page p).kind = 4)) ∧
      ∀ p, p ∉ v.pageList → t.page p = s.page p) ∧
    (∀ n ∈ bad, n ∈ s.sitesOf v.cores → completes (.hamletCreateCommit h bad) s fun t => answered s t id 4 0 0 ∧
      t.hamlet h = {} ∧ (t.site n).bad = true ∧ (t.site n).hamlet = (s.site n).hamlet ∧
      (∀ m ∈ s.sitesOf v.cores, (t.site m).resetting = false) ∧ t.host.rings = s.host.rings ∧ t.links = s.links ∧
      t.coll = s.coll ∧ t.mem = s.mem)) ∧
  (∀ (s : State) (id : Nat) (d : Desc) (row : Instr × BitVec 8 × HamletState),
    row ∈ [(Instr.hamletDestroy id, 0xA, HamletState.destroying), (.hamletReset id, 0xB, .resetting)] →
    classStarts s id d row.2.1 → d.fits [(2, 0x7)] = true →
    let v := s.hamlet d.hm
    ((s.scopeOf d).isSome = true → completes row.1 s fun t => onlyAnswered s t id 3 0 0) ∧
    (s.scopeOf d = none → v.st = .none_ → completes row.1 s fun t => onlyAnswered s t id 4 0 0) ∧
    (s.scopeOf d = none → v.st = .live → s.sec.entropyOk = true → completes row.1 s fun t =>
      t.hamlet d.hm = { v with st := row.2.2, desc := some id, memKey := none, hostKey := none } ∧
      (∀ k, k ≠ d.hm → t.hamlet k = s.hamlet k) ∧
      (∀ n ∈ s.sitesOf v.cores, (t.site n).seq = .idle ∧ (t.site n).ws = [] ∧ (t.site n).gran = [] ∧
        (t.site n).ps = [] ∧ (t.site n).sill = [] ∧ (t.site n).vregs = [] ∧ (t.site n).resetting = true) ∧
      (∀ b ∈ v.bellList, (t.bell b).armed = false ∧ (t.bell b).count = 0) ∧
      (∀ b, b ∉ v.bellList → t.bell b = s.bell b) ∧ t.mem.pages = s.mem.pages ∧
      ∀ k e, s.desc k = some e → e.ready = none → v.rings.getLsbD e.ring.val = true →
        windowOver e.fetched e.deadline s.tb = false →
        ∃ f c, t.desc k = some f ∧ f.ready = some c ∧ c.status = 9 ∧ c.detail = 1) ∧
    (s.scopeOf d = none → v.st = .resetting → v.latched = none → completes row.1 s fun t =>
      (∃ e, t.desc id = some e ∧ e.started = true ∧ e.ready = none) ∧
      (row.2.1 = 0xB → t.hamlet d.hm = { v with absorbed := v.absorbed ++ [id] }) ∧
      (row.2.1 = 0xA → t.hamlet d.hm = { v with latched := some (0xA, id) }) ∧
      t = { s with sec := t.sec, host := { s.host with descs := t.host.descs } })) ∧
  (∀ (s : State) (h : HamletNo) (id : Nat) (d : Desc), (s.hamlet h).latched = none → (s.hamlet h).absorbed = [] →
    (s.hamlet h).replaced = [] → (s.hamlet h).desc = some id → s.desc id = some d → d.ready = none →
    windowOver d.fetched d.deadline s.tb = false →
    (∀ e ∈ s.host.descs, e.id = id → (s.hamlet h).rings.getLsbD e.ring.val = false) →
    let v := s.hamlet h
    let told (t : State) : Prop := ∃ e, t.desc id = some e ∧
      e.ready = some { status := 0, detail := 0, result := 0, time := s.tb }
    (v.st = .destroying → completes (.hamletZeroisationDone ⟨h, []⟩) s fun t => told t ∧ t.hamlet h = {} ∧
      (∀ k, k ≠ h → t.hamlet k = s.hamlet k) ∧
      (∀ p ∈ v.pageList, (t.page p).owner = none ∧ (t.page p).kind = 0 ∧ (t.page p).enc = false ∧
        (t.page p).remR = false ∧ (t.page p).remW = false) ∧ (∀ p, p ∉ v.pageList → t.page p = s.page p) ∧
      (∀ n ∈ s.sitesOf v.cores, (t.site n).hamlet = none ∧ (t.site n).mirror = 0 ∧ (t.site n).resetting = false) ∧
      (∀ r : RingNo, v.rings.getLsbD r.val = true → (t.ring r).owner = none ∧ (t.ring r).enable = false) ∧
      (∀ r : RingNo, v.rings.getLsbD r.val = false → t.ring r = s.ring r) ∧
      (∀ b ∈ v.bellList, (t.bell b).owner = none) ∧
      ∀ l : LinkNo, v.links.getLsbD l.val = true → (t.link l).owner = none) ∧
    (∀ bad : List SiteNo, v.st = .destroying ∨ v.st = .resetting →
      completes (.hamletZeroisationDone ⟨h, bad⟩) s fun t => told t ∧
        ∀ n ∈ bad, n ∈ s.sitesOf v.cores → (t.site n).bad = true ∧ t.mapBad 0 n.val = true ∧ ∃ r ∈ t.flt.buf, r.cls = 0x0709) ∧
    (v.st = .resetting → completes (.hamletZeroisationDone ⟨h, []⟩) s fun t => told t ∧
      t.hamlet h = { v with st := .live, memKey := (t.hamlet h).memKey, binding := 0, blockCount := 0, confidential := false, desc := none } ∧
      (t.hamlet h).memKey.isSome = true ∧ (∀ k, k ≠ h → t.hamlet k = s.hamlet k) ∧
      (∀ n ∈ s.sitesOf v.cores, t.site n = { s.site n with resetting := false }) ∧
      (∀ n, n ∉ s.sitesOf v.cores → t.site n = s.site n) ∧ t.host.rings = s.host.rings ∧
      t.coll = s.coll ∧ t.mem.pages = s.mem.pages))

/-- R313, R333, R335, Tables 11.9 and 11.10: the heartbeat window, a port that goes down and comes back with the rings homed on it, the loss of the host, and RESET_ARM with RESET_GO. -/
def Obligations.HostPortsAndResets : Prop :=
  ∀ (s : State) (tm : Word64) (acc : Accessor) (p : Bool),
  let u := s.at tm
  let noCopy : Prop := ∀ n q, ∀ f ∈ ((s.site n).queue q).flight, f.desc.usesHost = false
  let lost (t : State) : Prop := t.host = { u.host with lost := true, held := [] } ∧ t.tb = u.tb ∧
    (noCopy → t = { u with host := { u.host with lost := true, held := [] } }) ∧
    ∀ n q, (∃ f ∈ ((s.site n).queue q).flight, f.desc.usesHost = true) → ((t.site n).queue q).halted = true
  (s.host.ready = true → completes (.hstHeartbeat acc tm) s
    (· = { u with host := { u.host with heartbeat := u.tb } })) ∧
  (s.host.ready = true → s.host.hbEn = true → s.host.lost = false →
    (windowOver s.host.heartbeat 5000000000 u.tb = true → completes (.heartbeatTimeout tm) s lost) ∧
    (windowOver s.host.heartbeat 5000000000 u.tb = false → completes (.heartbeatTimeout tm) s (· = u))) ∧
  (s.portIsUp p = true → completes (.portLockLoss p tm) s fun t =>
    t = { u with host := { u.host with lockLost := t.host.lockLost } } ∧
    tget (fun _ => none) t.host.lockLost (portBit p) = some u.tb ∧
    tget (fun _ => none) t.host.lockLost (portBit !p) = tget (fun _ => none) s.host.lockLost (portBit !p)) ∧
  (∀ a, tget (fun _ => none) s.host.lockLost (portBit p) = some a →
    (windowOver a 50000 u.tb = true → ∀ k, completes (.portDown ⟨p, k⟩ tm) s fun t =>
      let sent := u.out.filter fun o => decide (o.hostPort = some p)
      let again := (sent.drop (sent.length - k)).map (Out.overPort !p)
      t = { u with host := { u.host with portUp := t.host.portUp, lockLost := t.host.lockLost, downSince := t.host.downSince, rings := t.host.rings, held := t.host.held }, out := t.out } ∧
      (t.host.downSince = none → t.out = u.out ++ again ∧ t.host.held = u.host.held) ∧
      (t.host.downSince ≠ none → t.out = u.out ∧ t.host.held = u.host.held ++ again) ∧
      t.portIsUp p = false ∧ t.portIsUp (!p) = s.portIsUp (!p) ∧
      tget (fun _ => none) t.host.lockLost (portBit p) = none ∧
      (s.portIsUp (!p) = true → t.host.downSince = s.host.downSince ∧ ∀ r, t.ring r =
        if (s.ring r).port = p then { s.ring r with moved := true } else s.ring r) ∧
      (s.portIsUp (!p) = false → t.host.downSince = some u.tb ∧ t.host.rings = s.host.rings)) ∧
    (windowOver a 50000 u.tb = false → ∀ k, completes (.portDown ⟨p, k⟩ tm) s (· = u))) ∧
  (s.isDark (portField p) = true → ∀ unacked, completes (.portUp p unacked) s (· = s)) ∧
  (s.isDark (portField p) = false → ∀ unacked : List RingNo, completes (.portUp p unacked) s fun t =>
    t = { s with host := { s.host with portUp := t.host.portUp, lockLost := t.host.lockLost, downSince := none, rings := t.host.rings, held := [] }, out := s.out ++ s.host.held.map (Out.overPort p) } ∧
    t.portIsUp p = true ∧ t.portIsUp (!p) = s.portIsUp (!p) ∧ tget (fun _ => none) t.host.lockLost (portBit p) = none ∧
    ∀ r, t.ring r =
      if (s.ring r).port = p then (if r ∈ unacked then s.ring r else { s.ring r with moved := false })
      else if s.portIsUp (!p) = true then s.ring r else { s.ring r with moved := true }) ∧
  (∀ a, s.host.downSince = some a → s.host.ready = true → s.host.lost = false →
    (windowOver a 5000000000 u.tb = true → completes (.portsDownTimeout tm) s lost) ∧
    (windowOver a 5000000000 u.tb = false → completes (.portsDownTimeout tm) s (· = u))) ∧
  completes (.resetArm tm) s (· = { u with host := { u.host with arm := some u.tb } }) ∧
  (∀ a, s.host.arm = some a →
    (inWindow a 1000000 u.tb = true → s.host.resetting = false → s.board.rails = true →
      completes (.resetGo tm) s (· = { u with shadows := [], helds := [], host := { u.host with ready := false, resetting := true, arm := none }, board := { u.board with resetDue := true } })) ∧
    (inWindow a 1000000 u.tb = false →
      completes (.resetGo tm) s (· = { u with host := { u.host with arm := none } })) ∧
    (windowOver a 1000000 u.tb = true →
      completes (.resetArmExpiry tm) s (· = { u with host := { u.host with arm := none } })) ∧
    (windowOver a 1000000 u.tb = false → completes (.resetArmExpiry tm) s (· = u))) ∧
  (s.host.arm = none → completes (.resetGo tm) s (· = u))

/-- R342, R343, R363, R369, R153: what a droop trip, its clearing, a slow cycle and a margin observation leave. -/
def Obligations.ClockStretchesAndMargins : Prop :=
  (∀ (s : State) (n : SiteNo) (k : BitVec 6),
    let r : RegionNo := ⟨n.val, by omega⟩
    let c := s.site n
    let tripped : Site := { c with detectors := setBit c.detectors k.toNat true, droopHold := none }
    ((s.region r).runs = true → c.detectors ≠ 0 → completes (.droopTrip n k) s fun t => onlySite n s t ∧ t.site n = tripped) ∧
    ((s.region r).runs = true → c.detectors = 0 → completes (.droopTrip n k) s fun t =>
      t = { s with sites := t.sites, clk := { s.clk with regions := t.clk.regions } } ∧
      t.site n = { tripped with slipStretch := satInc c.slipStretch, droopSince := c.cycle } ∧
      (∀ m, m ≠ n → t.site m = s.site m) ∧
      t.region r = { s.region r with stretches := satInc (s.region r).stretches } ∧
      ∀ q, q ≠ r → t.region q = s.region q) ∧
    ((s.region r).runs = false → completes (.droopTrip n k) s (· = s))) ∧
  (∀ (s : State) (n : SiteNo) (k : BitVec 6) (tm : Word64),
    let u := s.at tm
    let c := s.site n
    let ds := setBit c.detectors k.toNat false
    let d := if c.detectors = 0 then 0 else (c.cycle - c.droopSince).toNat
    completes (.droopDetectorClear n k tm) s (fun t => onlySite n u t ∧
      t.site n = { c with detectors := ds, droopHold := if c.detectors ≠ 0 ∧ ds = 0 then some u.tb else c.droopHold,
                          droopSince := c.cycle, slipStretch := (t.site n).slipStretch, droopCount := (t.site n).droopCount } ∧
      (t.site n).slipStretch.toNat = min (2 ^ 32 - 1) (c.slipStretch.toNat + d) ∧
      (t.site n).droopCount.toNat = min (2 ^ 16 - 1) (c.droopCount.toNat + d)) ∧
    ∀ a, c.droopHold = some a →
      (c.detectors = 0 → windowOver a 10000 u.tb = true → completes (.droopPhasesRelease n tm) s fun t =>
        onlySite n u t ∧ t.site n = { c with droopHold := none }) ∧
      (c.detectors ≠ 0 ∨ windowOver a 10000 u.tb = false → completes (.droopPhasesRelease n tm) s (· = u))) ∧
  (∀ (s : State) (r : RegionNo) (x : Nat),
    let fr (t : State) : Prop := t = { s with sites := t.sites, clk := { s.clk with regions := t.clk.regions } }
    (x ≤ 1050 → completes (.selfSlowing r x) s (· = s)) ∧
    (1050 < x → (r.val < 40 ∨ x ≤ 1200) → completes (.selfSlowing r x) s fun t => fr t ∧
      t.region r = { s.region r with stretches := satInc (s.region r).stretches } ∧
      (∀ q, q ≠ r → t.region q = s.region q) ∧
      (∀ h : r.val < 40, t.site ⟨r.val, h⟩ =
        { s.site ⟨r.val, h⟩ with slipStretch := satInc (s.site ⟨r.val, h⟩).slipStretch }) ∧
      ∀ m : SiteNo, m.val ≠ r.val → t.site m = s.site m) ∧
    (∀ h : 40 ≤ r.val, 1200 < x → completes (.selfSlowing r x) s fun t => fr t ∧
      t.region r = { s.region r with stretches := satInc (s.region r).stretches } ∧
      ∀ m : SiteNo,
        let q : RegionNo := ⟨m.val, by omega⟩
        if fieldOfSite m = ⟨r.val - 40, by omega⟩ ∧ (s.region q).runs = true then
          t.region q = { s.region q with stretches := satInc (s.region q).stretches } ∧
          t.site m = { s.site m with slipStretch := satInc (s.site m).slipStretch }
        else t.region q = s.region q ∧ t.site m = s.site m)) ∧
  (∀ (s : State) (r : RegionNo) (path : BitVec 4),
    let others (t : State) : Prop := ∀ q, q ≠ r → t.region q = s.region q
    (completes (.marginWindowEnd r .good path) s fun t => onlyRegion r s t ∧
      t.region r = { s.region r with margin := 0 }) ∧
    (completes (.marginWindowEnd r .low path) s fun t => others t ∧
      t = { s with clk := { s.clk with regions := t.clk.regions }, flt := { s.flt with folds := t.flt.folds } } ∧
      t.region r = { s.region r with margin := 1 } ∧ ((tget (fun _ => none) t.flt.folds (0x0401 * 4096 + r.val)).map (·.1)) = some (((tget (fun _ => none) s.flt.folds (0x0401 * 4096 + r.val)).map (·.1)).getD 0 + 1)) ∧
    (completes (.marginWindowEnd r .critical path) s fun t => others t ∧
      t = { s with sites := t.sites, clk := { s.clk with regions := t.clk.regions }, pwr := { s.pwr with doms := t.pwr.doms }, flt := { s.flt with folds := t.flt.folds } } ∧
      (t.region r).margin = 2 ∧ (t.region r).critical = some s.tb ∧
      (t.region r).stretches = satInc (s.region r).stretches ∧ (t.region r).mhz = (s.region r).mhz ∧
      ((tget (fun _ => none) t.flt.folds (0x0402 * 4096 + r.val)).map (·.1)) = some (((tget (fun _ => none) s.flt.folds (0x0402 * 4096 + r.val)).map (·.1)).getD 0 + 1) ∧
      (40 ≤ r.val → t.sites = s.sites ∧ t.pwr = s.pwr) ∧
      ∀ h : r.val < 40,
        let n : SiteNo := ⟨r.val, h⟩
        (∀ m, m ≠ n → t.site m = s.site m) ∧ (∀ d, d ≠ domOfSite n → t.dom d = s.dom d) ∧
        ((s.site n).op = 0 → (t.site n).op = 0 ∧ t.pwr = s.pwr) ∧
        ((s.site n).op ≠ 0 → (t.site n).op = (s.site n).op - 1 ∧
          ((s.site n).pwr ≠ .retain → (t.dom (domOfSite n)).mv = adequateMv ((s.site n).op - 1) (s.region r).fastest) ∧
          ((s.site n).pwr = .retain → (t.dom (domOfSite n)).mv = (s.dom (domOfSite n)).mv))))

/-- R339, R347, R349, R350, R355 to R357, Tables 12.1, 12.2, 12.5 and 12.8. -/
def Obligations.FrequencyChangesAndTimeBase : Prop :=
  (∀ (s : State) (r : RegionNo) (mhz : BitVec 11) (tm : Word64),
    let u := s.at tm
    let fr (t : State) : Prop := t = { u with clk := { u.clk with regions := t.clk.regions } } ∧
      ∀ q, q ∉ unitOf r → t.region q = s.region q
    let allowed : Prop := (if r.val < 40 then mhz ∈ [400, 550, 650, 800, 900, 1000, 1050, 1100] else mhz ∈ [900, 1000]) ∧ ∀ h : r.val < 40,
      4 * mhz.toNat ≤ 5 * (s.region ⟨40 + (fieldOfSite ⟨r.val, h⟩).val, by omega⟩).mhz.toNat
    (allowed → (s.region r).change = none → (s.region r).mhz ≠ mhz → (s.region r).st ≠ 0 →
      completes (.freqChangeStart r mhz tm) s fun t => fr t ∧
        ∀ q ∈ unitOf r, t.region q = { s.region q with change := some (mhz, u.tb), calDone := false }) ∧
    (∀ m a, allowed → (s.region r).change = some (m, a) → m ≠ mhz →
      completes (.freqChangeStart r mhz tm) s fun t => fr t ∧
        ∀ q ∈ unitOf r, t.region q = { s.region q with latched := some mhz }) ∧
    (¬ allowed → completes (.freqChangeStart r mhz tm) s (· = u))) ∧
  (∀ (s : State) (r : RegionNo),
    let fr (t : State) : Prop := t = { s with clk := { s.clk with regions := t.clk.regions, changes := t.clk.changes } } ∧
      ∀ q, q ∉ unitOf r ++ coresOf r → t.region q = s.region q
    ((s.region r).change.isSome = true → (s.region r).runs = true → completes (.clockStop r) s fun t =>
      t = { s with clk := { s.clk with regions := t.clk.regions, crossings := t.clk.crossings, changes := s.clk.changes + 1 },
                   fab := { s.fab with lintels := t.fab.lintels } } ∧
      (∀ q, q ∉ unitOf r ++ coresOf r → t.region q = s.region q) ∧
      (∀ x, x < 120 → crossingIn r x = true → (s.crossing x).mode = 1 →
        t.crossing x = { s.crossing x with mode := 2 } ∧ (80 ≤ x → (t.lintel ((x - 80) / 4)).mode = 2)) ∧
      (∀ x, crossingIn r x = false ∨ (s.crossing x).mode ≠ 1 → t.crossing x = s.crossing x) ∧
      (∀ k, t.lintel k = { s.lintel k with mode := (t.lintel k).mode }) ∧
      (∀ q ∈ unitOf r, t.region q = { s.region q with st := if (s.region q).runs then 2 else (s.region q).st }) ∧
      ∀ q ∈ coresOf r, ((s.region q).runs = false → t.region q = s.region q) ∧
        ((s.region q).runs = true → t.region q =
          { s.region q with st := 2, inHalf := (s.region q).st, joined := (s.region q).change.isSome })) ∧
    (∀ mhz a, (s.region r).change = some (mhz, a) → (s.region r).st = 2 → (s.region r).calDone = false →
      (completes (.oscLocked r []) s fun t => fr t ∧ t.clk.changes = s.clk.changes ∧
        (∀ q ∈ unitOf r, t.region q = { s.region q with mhz := mhz, calDone := true }) ∧
        ∀ q ∈ coresOf r, ((s.region q).joined = false → (s.region q).inHalf ≠ 3 → t.region q = s.region q) ∧
          (∀ m b, (s.region q).joined = true → (s.region q).change = some (m, b) → t.region q = { s.region q with mhz := m }) ∧
          ((s.region q).joined = false → (s.region q).inHalf = 3 → t.region q = { s.region q with mhz := mhz })) ∧
      (∀ (x : Fin 120) (o : CalObs), crossingIn r x.val = false ∨ (s.crossing x.val).mode ≠ 2 →
        completes (.oscLocked r [(x, o)]) s fun t => fr t ∧ t.clk.changes = s.clk.changes) ∧
      ∀ (x : Fin 120) (f b : BitVec 4), x.val < 80 → crossingIn r x.val = true → (s.crossing x.val).mode = 2 → f.toNat ≤ crossingLimit x.val → b.toNat ≤ crossingLimit x.val →
        completes (.oscLocked r [(x, { fwd := some f, rev := some b })]) s fun t =>
          t = { s with clk := { s.clk with regions := t.clk.regions, crossings := t.clk.crossings } } ∧
          t.crossing x.val = { mode := 1, fwd := f, rev := b } ∧
          (∀ k, k ≠ x.val → t.crossing k = s.crossing k) ∧
          ∀ q ∈ unitOf r, t.region q = { s.region q with mhz := mhz, calDone := true }) ∧
    (∀ mhz a, (s.region r).change = some (mhz, a) → (s.region r).st = 2 → (s.region r).calDone = false →
      ∀ (x : Fin 120) (f b : BitVec 4), 80 ≤ x.val → crossingIn r x.val = true → (s.crossing x.val).mode = 2 → f ≤ 10 → b ≤ 10 →
        completes (.oscLocked r [(x, { fwd := some f, rev := some b })]) s fun t =>
          let k := (x.val - 80) / 4
          t = { s with clk := { s.clk with regions := t.clk.regions, crossings := t.clk.crossings },
                       fab := { s.fab with lintels := t.fab.lintels } } ∧
          t.crossing x.val = { mode := 1, fwd := f, rev := b } ∧ (∀ j, j ≠ x.val → t.crossing j = s.crossing j) ∧
          (t.lintel k).mode = t.lintelMode k ∧ f ≤ (t.lintel k).latFwd ∧ b ≤ (t.lintel k).latRev ∧
          ∀ j, j ≠ k → t.lintel j = s.lintel j) ∧
    ((s.region r).st = 2 → (s.region r).calDone = true → (∃ x, x < 120 ∧ crossingIn r x = true ∧ (s.crossing x).mode = 2) →
      completes (.freqChangeRestart r) s (· = s)) ∧
    ((s.region r).st = 2 → (s.region r).calDone = true → (s.region r).latched = none →
      (∀ x, x < 120 → crossingIn r x = true → (s.crossing x).mode ≠ 2) →
      completes (.freqChangeRestart r) s fun t => ∃ u : State, t = (u.servedAgain r).serveAll ∧
        u = { s with clk := { s.clk with regions := u.clk.regions }, pwr := { s.pwr with doms := u.pwr.doms } } ∧
        (∀ q, q ∉ unitOf r ++ coresOf r → u.region q = s.region q) ∧
        (40 ≤ r.val →
          (∀ q ∈ unitOf r, u.region q = { s.region q with st := 1, change := none, latched := none, calDone := false }) ∧
          ∀ q ∈ coresOf r,
            ((s.region q).st ≠ 2 ∨ (s.region q).inHalf = 0 → u.region q = s.region q) ∧
            ((s.region q).st = 2 → (s.region q).inHalf ≠ 0 → (s.region q).joined = false →
              u.region q = { s.region q with st := (s.region q).inHalf, inHalf := 0 }) ∧
            ((s.region q).st = 2 → (s.region q).inHalf ≠ 0 → (s.region q).joined = true → (s.region q).latched = none →
              u.region q = { s.region q with st := (s.region q).inHalf, inHalf := 0, joined := false, change := none })) ∧
        ∀ h : r.val < 40,
          let n : SiteNo := ⟨r.val, h⟩
          let held := s.fieldStopped (fieldOfSite n)
          u.region r = { s.region r with st := if held then 2 else 1, inHalf := if held then 1 else 0, change := none, latched := none, calDone := false } ∧
          (∀ d, d ≠ domOfSite n → u.dom d = s.dom d) ∧
          ((s.site n).pwr ≠ .retain → u.dom (domOfSite n) = { s.dom (domOfSite n) with mv := adequateMv (s.site n).op (s.region r).mhz }))) ∧
  (∀ (s : State) (x : Fin 120),
    ((s.crossing x.val).mode ≠ 2 → completes (.calTimeout x) s (· = s)) ∧
    ((s.crossing x.val).mode = 2 → x.val < 80 → completes (.calTimeout x) s fun t =>
      let n : SiteNo := ⟨x.val % 40, by omega⟩
      t = { s with sites := t.sites, clk := { s.clk with calFails := satInc s.clk.calFails, crossings := t.clk.crossings }, flt := t.flt, jrnl := t.jrnl } ∧
      t.crossing x.val = { s.crossing x.val with mode := 3 } ∧ (∀ j, j ≠ x.val → t.crossing j = s.crossing j) ∧
      logged s t 0x0403 ∧ told s t 0x0403 (some n) ∧ t.site n = { s.site n with bad := true, spare := false } ∧
      ∀ m, m ≠ n → t.site m = s.site m) ∧
    ((s.crossing x.val).mode = 2 → 80 ≤ x.val → completes (.calTimeout x) s fun t =>
      let k := (x.val - 80) / 4
      t = { s with clk := { s.clk with calFails := satInc s.clk.calFails, crossings := t.clk.crossings }, fab := t.fab, flt := t.flt, jrnl := t.jrnl } ∧
      t.crossing x.val = { s.crossing x.val with mode := 3 } ∧ (∀ j, j ≠ x.val → t.crossing j = s.crossing j) ∧
      logged s t 0x0403 ∧ t.fab.tablesDue = true ∧
      t.lintel k = { s.lintel k with mode := t.lintelMode k, planeDown := (s.lintel k).planeDown ||| (3 : BitVec 8) <<< (2 * ((x.val - 80) % 4)) } ∧
      ∀ j, j ≠ k → t.lintel j = s.lintel j)) ∧
  (∀ (s : State) (r : RegionNo) (lock : Bool),
    (∀ h : r.val < 40, completes (.oscFail r lock) s fun t => siteAndLog ⟨r.val, h⟩ s t ∧ logged s t 0x0404 ∧
      told s t 0x0404 (some ⟨r.val, h⟩) ∧
      t.site ⟨r.val, h⟩ = { s.site ⟨r.val, h⟩ with bad := true, spare := false }) ∧
    (∀ h : 40 ≤ r.val, s.isDark ⟨r.val - 40, by omega⟩ = false → completes (.oscFail r lock) s fun t =>
      (∀ f : FieldNo, t.isDark f = true ↔ f.val = r.val - 40 ∨ s.isDark f = true) ∧ t.fab.tablesDue = true ∧
      ∀ n ∈ sitesOfField ⟨r.val - 40, by omega⟩, (t.site n).bad = true ∧ (t.site n).gran = [])) ∧
  (∀ (s : State) (ts arr tm : Word64) (pm : Bool),
    let u := s.at tm
    let l : LinkNo := ⟨s.clk.parentLink.toNat % 96, by omega⟩
    let d : Int := (arr - ts - (s.link l).cableNs.setWidth 64).toInt
    s.clk.parentEn = true → s.parentUp = true →
    (s.clk.master = false → completes (.tbUpdate ts arr pm tm) s fun t =>
      t = { u with tb := t.tb, clk := { u.clk with offset := t.clk.offset, good := t.clk.good, locked := t.clk.locked, slew := t.clk.slew, lastUpdate := t.clk.lastUpdate } } ∧
      (-32767 ≤ d → d ≤ 32767 → t.clk.offset.toInt = d) ∧
      t.clk.good = (if -4 ≤ d ∧ d ≤ 4 then s.clk.good + 1 else 0) ∧
      t.clk.locked = (s.clk.locked || decide (10 ≤ t.clk.good)) ∧ t.clk.lastUpdate = t.tb ∧
      (s.clk.everReady = true → t.tb = u.tb ∧ t.clk.slew = -d) ∧
      (s.clk.everReady = false → t.tb = u.tb - BitVec.ofInt 64 d ∧ t.clk.slew = s.clk.slew)) ∧
    (s.clk.master = true → pm = true → s.clk.conflict = false → completes (.tbUpdate ts arr pm tm) s fun t =>
      t = { u with clk := { u.clk with conflict := true }, flt := t.flt, jrnl := t.jrnl } ∧ logged u t 0x0406) ∧
    (s.clk.master = true → s.clk.conflict = true → completes (.tbUpdate ts arr pm tm) s (· = u))) ∧
  (∀ (s : State) (tm : Word64), s.clk.locked = true →
    let u := s.at tm
    (windowOver s.clk.lastUpdate 1000000 u.tb = true → completes (.tbUnlock tm) s fun t =>
      t = { u with clk := { u.clk with locked := false, good := 0 }, flt := t.flt, jrnl := t.jrnl } ∧ logged u t 0x0405) ∧
    (windowOver s.clk.lastUpdate 1000000 u.tb = false → completes (.tbUnlock tm) s (· = u)))

/-- R362 to R368, Tables 13.2 to 13.4: one evaluation of an operating point, one cap window, the life of a forecast. -/
def Obligations.OperatingPointsCapsForecasts : Prop :=
  (∀ (s : State) (n : SiteNo) (hot cold : Bool) (cap : BitVec 5),
    let d := domOfSite n
    let v := (s.dom d).cooling hot cold s.tb
    let op := (s.site n).op
    let low := decide ((s.region ⟨n.val, by omega⟩).margin = 1)
    let trims : Prop := v.trim.toNat < 30 ∧ v.mv.toNat + v.trim.toNat < 900
    let goes (o : BitVec 3) (x : Domain) : Prop := completes (.opWindowEvaluate n hot cold cap) s fun t =>
      t = { s with sites := t.sites, clk := { s.clk with regions := t.clk.regions }, pwr := { s.pwr with doms := t.pwr.doms } } ∧
      t.site n = { s.site n with op := o } ∧ (∀ m, m ≠ n → t.site m = s.site m) ∧
      t.dom d = x ∧ ∀ e, e ≠ d → t.dom e = s.dom e
    let g := s.region ⟨n.val, by omega⟩
    let moves (o : BitVec 3) : Prop :=
      goes o { v with mv := if (s.site n).pwr = .retain then v.mv else adequateMv o g.fastest, trim := 0 }
    ((s.dom d).st ≠ .on ∨ g.st = 3 → completes (.opWindowEvaluate n hot cold cap) s (· = s)) ∧
    ((s.dom d).st = .on → g.st ≠ 3 →
      (v.hot = true → op ≠ 0 → moves 0) ∧ (v.hot = true → op = 0 → goes 0 v) ∧
      (v.hot = false → low = true → (trims → goes op { v with trim := v.trim + 10 }) ∧
        (¬ trims → op ≠ 0 → moves (op - 1)) ∧ (¬ trims → op = 0 → goes 0 { v with trim := 0 })) ∧
      (v.hot = false → low = false → cap < 12 → (op ≠ 0 → moves (op - 1)) ∧ (op = 0 → goes 0 v)) ∧
      (v.hot = false → low = false → cap = 16 → op < s.preferOp n → s.noRaise n = false → moves (op + 1)) ∧
      (v.hot = false → low = false → 12 ≤ cap → s.preferOp n < op → moves (op - 1)) ∧
      (v.hot = false → low = false → 12 ≤ cap → op = s.preferOp n → goes op v) ∧
      (v.hot = false → low = false → 12 ≤ cap → op < s.preferOp n → cap ≠ 16 ∨ s.noRaise n = true → goes op v))) ∧
  (∀ (s : State) (w : BitVec 16) (ibc temps : Tab Nat),
    let b := s.windowB
    completes (.capWindowEnd w ibc temps) s fun t =>
      t = { s with pwr := { s.pwr with qPwr := t.pwr.qPwr, pwrGood := t.pwr.pwrGood, qIbc := t.pwr.qIbc, ibcGood := t.pwr.ibcGood, ibcLow := t.pwr.ibcLow, taken := 0, doms := t.pwr.doms }, flt := { s.flt with folds := t.flt.folds } } ∧
      (b < w.toNat → t.pwr.qPwr = (if s.pwr.qPwr ≤ 1 then 1 else s.pwr.qPwr - 1) ∧ t.pwr.pwrGood = 0) ∧
      (w.toNat ≤ b → 95 * b < 100 * w.toNat → t.pwr.qPwr = s.pwr.qPwr ∧ t.pwr.pwrGood = 0) ∧
      (w.toNat ≤ b → 100 * w.toNat ≤ 95 * b →
        (9 ≤ s.pwr.pwrGood → t.pwr.qPwr = (if 16 ≤ s.pwr.qPwr then 16 else s.pwr.qPwr + 1) ∧ t.pwr.pwrGood = 0) ∧
        (s.pwr.pwrGood < 9 → t.pwr.qPwr = s.pwr.qPwr ∧ t.pwr.pwrGood = s.pwr.pwrGood + 1)) ∧
      (∀ f : FieldNo,
        let x := tget (fun _ => 0) ibc f.val
        (tget (fun _ => 0) t.pwr.ibcLow f.val = if x ≤ 1380 then tget (fun _ => 0) s.pwr.ibcLow f.val + 1 else 0) ∧
        (1500 < x → t.qIbcOf f = if s.qIbcOf f ≤ 1 then 1 else s.qIbcOf f - 1) ∧
        (1350 < x → x ≤ 1500 → t.qIbcOf f = s.qIbcOf f) ∧
        (x ≤ 1350 → t.qIbcOf f = if 9 ≤ tget (fun _ => 0) s.pwr.ibcGood f.val then
          (if 16 ≤ s.qIbcOf f then 16 else s.qIbcOf f + 1) else s.qIbcOf f)) ∧
      ∀ d : DomainNo,
        ((∀ p ∈ temps, p.1 ≠ d.val) → t.dom d = s.dom d) ∧
        ((∃ p ∈ temps, p.1 = d.val) →
          let x := tget (fun _ => 0) temps d.val
          t.dom d = { s.dom d with temp := (t.dom d).temp, qTh := (t.dom d).qTh } ∧ (t.dom d).temp.toNat = min 255 x ∧
          (t.dom d).qTh.toNat = if d.val < 40 ∧ 95 ≤ x then max 1 (16 - 3 * (x - 95) / 2) else 16)) ∧
  (∀ (s : State) (n : SiteNo) (i : Fin 4) (tm : Word64) (f : Forecast),
    let u := s.at tm
    let c := s.site n
    c.forecasts[i.val]? = some f →
    (f.start.toNat ≤ u.tb.toNat + 1000 → completes (.forecastActivate n i tm) s fun t => onlySite n u t ∧
      t.site n = { c with forecasts := c.forecasts.set i.val { f with active := true } }) ∧
    (u.tb.toNat + 1000 < f.start.toNat → completes (.forecastActivate n i tm) s (· = u)) ∧
    (f.stop ≤ u.tb → completes (.forecastEnd n i tm) s fun t => onlySite n u t ∧
      t.site n = { c with forecasts := c.forecasts.eraseIdx i.val }) ∧
    (u.tb < f.stop → completes (.forecastEnd n i tm) s (· = u))) ∧
  (∀ (s : State) (n : SiteNo) (e : EngNo) (tm : Word64) (f : MatrixF) (o : ArrayOp) (rest : List ArrayOp),
    let u := s.at tm
    let c := s.site n
    (c.eng e).arrayQ = o :: rest → o.kind = .matrix f → (c.eng e).inArray = none → c.forecasts.length < 4 →
    (s.region ⟨n.val, by omega⟩).mhz.toNat ≤ (c.cycle - (c.eng e).idleFrom).toNat → c.waitsOnTiles e o f = true →
    let l := feedLen (c.eng e).cap.toNat c.cycle.toNat (feedSlots f.pair f.sparse o.m)
    completes (.hwForecast n e tm) s fun t => onlySite n u t ∧ ∃ x,
      t.site n = { c with forecasts := c.forecasts ++ [x] } ∧ x.level = 16 ∧ x.start = u.tb + 500 ∧
      x.stop = u.tb + 500 + BitVec.ofNat 64 (cyclesNs l (opMhz c.op).toNat) ∧ x.active = true ∧ ∀ k : Fin 4, x.engMask.getLsbD k.val = decide (k = e))

/-- R373 to R382, R385, Tables 13.5, 13.7 and 13.8. -/
def Obligations.PowerFaultsAndTelemetry : Prop :=
  (∀ (s : State) (d : DomainNo) (k : Fin 12) (cause : PhaseCause),
    let x := setBit (s.dom d).phases k.val true
    ((s.dom d).phases.getLsbD k.val = true → completes (.phaseFail d k cause) s (· = s)) ∧
    ((s.dom d).phases.getLsbD k.val = false → ∀ h : d.val < 40,
      let n : SiteNo := ⟨d.val, h⟩
      (popCount x < 5 → completes (.phaseFail d k cause) s fun t => logged s t 0x0501 ∧
        t = { s with pwr := { s.pwr with doms := t.pwr.doms }, flt := t.flt, jrnl := t.jrnl } ∧
        t.dom d = { s.dom d with phases := x } ∧ ∀ e, e ≠ d → t.dom e = s.dom e) ∧
      (5 ≤ popCount x → (s.dom d).st ≠ .failed → completes (.phaseFail d k cause) s fun t =>
        told s t 0x0502 (some n) ∧ t.dom d = { s.dom d with phases := x, st := .failed, mv := 0 } ∧
        ((s.dom d).st ≠ .ramp → ∀ e, e ≠ d → t.dom e = s.dom e) ∧ t.site n = (s.site n).switchOff ∧
        ∀ m, m ≠ n → t.site m = s.site m)) ∧
    ((s.dom d).phases.getLsbD k.val = false → ∀ h : 40 ≤ d.val, k.val < 8 →
      let f : FieldNo := ⟨d.val - 40, by omega⟩
      (popCount x < 4 → completes (.phaseFail d k cause) s fun t =>
        t = { s with pwr := { s.pwr with doms := t.pwr.doms }, flt := t.flt, jrnl := t.jrnl } ∧
        t.dom d = { s.dom d with phases := x } ∧ ∀ e, e ≠ d → t.dom e = s.dom e) ∧
      (5 ≤ popCount x → completes (.phaseFail d k cause) s fun t => t.isDark f = true ∧
        (t.dom d).phases = x ∧ (t.dom d).st = .failed))) ∧
  (∀ (s : State) (n : SiteNo),
    let d := domOfSite n
    ((s.dom d).st = .on ∨ (s.dom d).st = .ramp → completes (.coreOverCurrent n) s fun t =>
      logged s t 0x0502 ∧ told s t 0x0502 (some n) ∧ t.dom d = { s.dom d with st := .failed, mv := 0 } ∧
      ((s.dom d).st = .on → ∀ e, e ≠ d → t.dom e = s.dom e) ∧
      ((s.dom d).st = .ramp → ∀ e, e ≠ d →
        (e.val < 40 → fieldOfDom e = fieldOfDom d →
          ((s.dom e).st = .on → t.dom e = { s.dom e with qAdm := 16 }) ∧
          ((s.dom e).st = .wait → t.dom e = { s.dom e with since := s.tb })) ∧
        (¬(e.val < 40 ∧ fieldOfDom e = fieldOfDom d) → t.dom e = s.dom e)) ∧ t.site n = { (s.site n).switchOff with bad := true, spare := false } ∧
      ∀ m, m ≠ n → t.site m = s.site m) ∧
    ((s.dom d).st ≠ .on → (s.dom d).st ≠ .ramp → completes (.coreOverCurrent n) s (· = s))) ∧
  (∀ (s : State) (f : FieldNo), completes (.baseRailTrip f) s fun t => t.isDark f = true ∧
    (t.dom (domOfField f)).st = .failed ∧ ∀ g : FieldNo, g ≠ f → t.isDark g = s.isDark g) ∧
  (∀ (s : State) (f : FieldNo) (cause : IbcCause),
    (s.pwr.ibcOk.getLsbD f.val = false → completes (.ibcLoss f cause) s (· = s)) ∧
    (s.pwr.ibcOk.getLsbD f.val = true → completes (.ibcLoss f cause) s fun t =>
      (∀ g : FieldNo, t.pwr.ibcOk.getLsbD g.val = (decide (g ≠ f) && s.pwr.ibcOk.getLsbD g.val)) ∧
      (∀ n ∈ sitesOfField f, (t.dom (domOfSite n)).st = .failed ∧ (t.site n).spare = false) ∧
      ∀ g : FieldNo, (t.dom (domOfField g)).phases =
        if g = f then (s.dom (domOfField g)).phases ||| 0x00F
        else if g.val = (f.val + 4) % 8 then (s.dom (domOfField g)).phases ||| 0x0F0
        else (s.dom (domOfField g)).phases)) ∧
  (∀ (s : State) (mv : BitVec 16),
    (s.pwr.qIn ≠ 8 → completes (.inputLow mv) s fun t =>
      t = { s with pwr := { s.pwr with qIn := 8 }, flt := t.flt, jrnl := t.jrnl } ∧ logged s t 0x0509) ∧
    (s.pwr.qIn = 8 → completes (.inputLow mv) s (· = s)) ∧
    completes (.inputRestored) s (· = { s with pwr := { s.pwr with qIn := 16 } })) ∧
  (∀ (s : State) (d : DomainNo) (k : Word64) (mean : Nat),
    ((s.dom d).telMode = false → (s.dom d).telFrom.toNat ≤ k.toNat * 1000000 →
      completes (.telemetryWindowEnd d k mean) s fun t => onlyDomain d s t ∧
        t.dom d = { s.dom d with tel := (t.dom d).tel, telTs := k * 1000000 } ∧ (t.dom d).tel.toNat = min 65535 mean) ∧
    (k.toNat * 1000000 < (s.dom d).telFrom.toNat ∨ (s.dom d).telMode = true →
      completes (.telemetryWindowEnd d k mean) s (· = s))) ∧
  (∀ (s : State) (acc : Accessor) (d : DomainNo) (sample : Option (BitVec 16 × Word64)) (v : Word32),
    let off : BitVec 28 := BitVec.ofNat 28 (0x00901008 + 32 * d.val)
    let shown (x : BitVec 16) : Word32 := if d.val < 40 ∧ s.confidential = true then 0 else x.setWidth 32
    let seen : BitVec 16 × Word64 := sample.getD (0xFFFF, 0)
    (s.host.ready = false → completes (.pwrTelRead acc d sample) s (· = { s with out := s.out ++ [.regData acc off 0] })) ∧
    (s.host.ready = true → (s.dom d).telMode = false → completes (.pwrTelRead acc d sample) s
      (· = { s with out := s.out ++ [.regData acc off (shown (s.dom d).tel)] })) ∧
    (s.host.ready = true → (s.dom d).telMode = true → completes (.pwrTelRead acc d sample) s fun t =>
      t = { s with pwr := { s.pwr with doms := t.pwr.doms }, out := s.out ++ [.regData acc off (shown seen.1)] } ∧
      t.dom d = { s.dom d with tel := seen.1, telTs := seen.2, telFrom := s.tb } ∧ ∀ e, e ≠ d → t.dom e = s.dom e) ∧
    (s.host.ready = true → completes (.telModeWrite acc d v) s fun t => onlyDomain d s t ∧
      t.dom d = { s.dom d with telMode := v.getLsbD 31, tel := 0, telTs := 0, telFrom := s.tb })) ∧
  (∀ (s : State) (d : DomainNo) (z : Nat),
    let z0 := (s.dom d).z0.toNat
    let run (P : State → Prop) : Prop := completes (.impedanceWindowEnd d true z) s P
    let fr (t : State) : Prop := ∀ e, e ≠ d → t.dom e = s.dom e
    completes (.impedanceWindowEnd d false z) s (· = s) ∧
    (z0 = 0 → run fun t => onlyDomain d s t ∧ t.dom d = { s.dom d with z := (t.dom d).z } ∧ (t.dom d).z.toNat = min 65535 z) ∧
    (z0 ≠ 0 → 100 * z ≤ 115 * z0 → run fun t => onlyDomain d s t ∧
      t.dom d = { s.dom d with z := (t.dom d).z, conn := 0, qImp := 16 } ∧ (t.dom d).z.toNat = min 65535 z) ∧
    (115 * z0 < 100 * z → 100 * z ≤ 140 * z0 → (s.dom d).conn ≠ 1 → run fun t => fr t ∧ logged s t 0x0505 ∧
      t.dom d = { s.dom d with z := (t.dom d).z, conn := 1, qImp := 16 }) ∧
    (115 * z0 < 100 * z → 100 * z ≤ 140 * z0 → (s.dom d).conn = 1 → run fun t => onlyDomain d s t ∧
      t.dom d = { s.dom d with z := (t.dom d).z, conn := 1, qImp := 16 }) ∧
    (z0 ≠ 0 → 140 * z0 < 100 * z → ∀ h : d.val < 40,
      (4 ≤ 16 * z0 / z → (s.dom d).conn ≠ 2 → run fun t => fr t ∧ logged s t 0x0506 ∧
        t.dom d = { s.dom d with z := (t.dom d).z, conn := 2, qImp := BitVec.ofNat 5 (16 * z0 / z) }) ∧
      (16 * z0 / z < 4 → (s.dom d).st ≠ .failed → run fun t => ((s.dom d).st ≠ .ramp → fr t) ∧ told s t 0x0502 (some ⟨d.val, h⟩) ∧
        t.dom d = { s.dom d with z := (t.dom d).z, st := .failed, mv := 0 } ∧
        t.site ⟨d.val, h⟩ = (s.site ⟨d.val, h⟩).switchOff)) ∧
    (z0 ≠ 0 → 140 * z0 < 100 * z → 40 ≤ d.val → (s.dom d).conn ≠ 2 → run fun t => fr t ∧ logged s t 0x0506 ∧
      t.dom d = { s.dom d with z := (t.dom d).z, conn := 2 }))

/-- R388 to R399, Tables 14.1 to 14.3 and 14.6: what each command of the interrupt controller does to a source and to its target. -/
def Obligations.InterruptSources : Prop :=
  (∀ (s : State) (n : SrcNo) (level : Bool) (tm : Word64), srcIsLine n.val = true → srcReserved n.val = false →
    let u := s.at tm
    let v := s.src n.val
    let w : Src := { v with line := level }
    let ups : Bool := v.mode = 0 && level || v.mode = 1 && !level || v.mode = 2 && level || v.mode = 3 && !level || v.mode = 4
    let downs : Bool := v.mode = 0 && !level || v.mode = 1 && level
    (v.line = level ∨ s.lineInput n.val = some (!level) → completes (.lineFilterChange n level tm) s (· = u)) ∧
    (v.line ≠ level → s.lineInput n.val ≠ some (!level) → completes (.lineFilterChange n level tm) s fun t =>
      t = { u with sites := t.sites, ic := { u.ic with srcs := t.ic.srcs, sleeping := t.ic.sleeping, lines := t.ic.lines } } ∧
      t.src n.val = (if ups then w.raised tm else if downs then w.withdrawn else w) ∧
      (∀ m, m ≠ n.val → t.src m = s.src m) ∧
      (ups = true → v.st = .idle → v.en = true → v.target < 3 → s.ic.hold = false →
        tget (fun _ => false) t.ic.sleeping v.target.toNat = false))) ∧
  (∀ (s : State) (n : BitVec 10) (b : Option BellNo) (tm : Word64),
    let u := s.at tm
    let o : Option HamletNo := b.bind fun x => (s.bell x).owner
    let ok : Bool := !srcIsLine n.toNat && !srcReserved n.toNat && s.mayRaise o n.toNat
    (s.isDark 0 = true → completes (.raise n b tm) s (· = u)) ∧
    (s.isDark 0 = false → ok = false → completes (.raise n b tm) s
      (· = { u with ic := { u.ic with dropped := satInc u.ic.dropped } })) ∧
    (s.isDark 0 = false → ok = true → completes (.raise n b tm) s fun t => (∀ m, m ≠ n.toNat → t.src m = s.src m) ∧
      t = { u with sites := t.sites, ic := { u.ic with srcs := t.ic.srcs, sleeping := t.ic.sleeping } } ∧
      t.src n.toNat = (s.src n.toNat).raised tm)) ∧
  (∀ (s : State) (acc : Accessor) (n : SrcNo) (tm : Word64) (mode : BitVec 3),
    let v := s.src n.val
    let fr (r t : State) : Prop := (∀ m, m ≠ n.val → t.src m = s.src m) ∧
      t = { r with sites := t.sites, ic := { r.ic with srcs := t.ic.srcs, sleeping := t.ic.sleeping, lines := t.ic.lines } }
    (s.host.ready = true → srcIsLine n.val = false → srcReserved n.val = false →
      completes (.srcRaiseWrite acc n tm) s fun t => fr (s.at tm) t ∧ t.src n.val = v.raised (s.at tm).tb) ∧
    (s.host.ready = false ∨ srcIsLine n.val = true ∨ srcReserved n.val = true →
      completes (.srcRaiseWrite acc n tm) s (· = s.at tm)) ∧
    (s.host.ready = true → srcReserved n.val = false →
      (v.meets = false → completes (.srcPendingClear acc n) s fun t => fr s t ∧ t.src n.val = v.withdrawn) ∧
      (v.meets = true → v.st = .pending → completes (.srcPendingClear acc n) s fun t => fr s t ∧
        t.src n.val = { v with stamp := s.tb })) ∧
    (s.host.ready = true → n.val < 9 → s.ic.lock = false → mode < 5 → v.mode ≠ mode →
      let w : Src := { v with mode := mode }
      completes (.srcModeWrite acc n mode) s fun t => fr s t ∧
        t.src n.val = if w.meets then w.raised s.tb else w.withdrawn) ∧
    (s.host.ready = false ∨ 9 ≤ n.val ∨ s.ic.lock = true ∨ 5 ≤ mode →
      completes (.srcModeWrite acc n mode) s (· = s))) ∧
  (∀ (s : State) (who : IcAgent) (n : BitVec 10) (tm : Word64), s.host.ready = false →
    completes (.icClaim who tm) s (· = { s.at tm with out := s.out ++ [.claim who 0] }) ∧
    completes (.icComplete who n) s (· = s)) ∧
  (∀ (s : State) (who : IcAgent) (k : BitVec 3) (tm : Word64), IcTarget who = some k → s.host.ready = true →
    let u := s.at tm
    (∀ n : Nat, u.deliverable n = true → (s.src n).target = k →
      (∀ m, m ≠ n → u.deliverable m = true → (s.src m).target = k →
        (s.src m).prio < (s.src n).prio ∨ (s.src m).prio = (s.src n).prio ∧ n < m) →
      completes (.icClaim who tm) s fun t => t = { u with ic := t.ic, out := u.out ++ [.claim who (BitVec.ofNat 10 n)] } ∧
        t.src n = { s.src n with st := .inService } ∧ (∀ m, m ≠ n → t.src m = s.src m) ∧
        tget (fun _ => 0) t.ic.stamps k.toNat = (s.src n).stamp ∧ t.ic.spurious = s.ic.spurious ∧
        ((∀ m, m ≠ n → (s.src m).target = k → u.deliverable m = false) → tget (fun _ => false) t.ic.lines k.toNat = false)) ∧
    ((∀ n, (s.src n).target = k → u.deliverable n = false) → completes (.icClaim who tm) s
      (· = { u with ic := { u.ic with spurious := satInc u.ic.spurious }, out := u.out ++ [.claim who 1023] })) ∧
    ∀ n : BitVec 10,
      ((s.src n.toNat).target = k → n ≠ 1023 → completes (.icComplete who n) s fun t =>
        t = { s with sites := t.sites, ic := { s.ic with srcs := t.ic.srcs, sleeping := t.ic.sleeping } } ∧
        t.src n.toNat = (s.src n.toNat).completed ∧ ∀ m, m ≠ n.toNat → t.src m = s.src m) ∧
      ((s.src n.toNat).target ≠ k → completes (.icComplete who n) s (· = s))) ∧
  (∀ (s : State) (n : SrcNo) (tm : Word64),
    let u := s.at tm
    let v := s.src n.val
    let sent (t : State) : Prop := t = { u with ic := { u.ic with srcs := t.ic.srcs, holding := t.ic.holding }, host := t.host, out := t.out } ∧
      t.host = { u.host with held := t.host.held } ∧
      t.src n.val = { v with st := .idle } ∧ (∀ m, m ≠ n.val → t.src m = s.src m) ∧
      (16 ≤ n.val → tget (fun _ => 0) s.ic.holdoff (n.val / 16) ≠ 0 → tget (fun _ => none) t.ic.holding (n.val / 16) =
        some (u.tb + ((tget (fun _ => 0) s.ic.holdoff (n.val / 16)).setWidth 64) * 100)) ∧
      (tget (fun _ => 0) s.ic.holdoff (n.val / 16) = 0 → t.ic.holding = s.ic.holding)
    (u.deliverable n.val = false → completes (.interruptDelivery n tm) s (· = u)) ∧
    (u.deliverable n.val = true →
      (v.target < 3 → completes (.interruptDelivery n tm) s fun t =>
        t = { u with ic := { u.ic with lines := t.ic.lines } } ∧ tget (fun _ => false) t.ic.lines v.target.toNat = true) ∧
      (∀ k, v.target = 4 → s.ic.seqMask.getLsbD (srcCore n.val).val = false → s.siteOf (srcCore n.val) = some k →
        completes (.interruptDelivery n tm) s fun t => sent t ∧ t.host = u.host ∧ t.out = u.out ++ [.tokenPkt (srcCore n.val) v.token (s.site k).hamlet]) ∧
      (v.target = 3 → s.host.lost = false → completes (.interruptDelivery n tm) s fun t =>
        let r := s.ring ⟨(n.val - 512) % 256, by omega⟩
        sent t ∧ wroteHost u t (.hostMsg (xor r.port r.moved) r.msgAddr r.msgData)))) ∧
  (∀ (s : State) (g : BitVec 6) (tm e : Word64), tget (fun _ => none) s.ic.holding g.toNat = some e →
    let u := s.at tm
    (e ≤ u.tb → completes (.holdoffEnd g tm) s fun t => t = { u with ic := { u.ic with holding := t.ic.holding } } ∧
      tget (fun _ => none) t.ic.holding g.toNat = none ∧
      ∀ k, k ≠ g.toNat → tget (fun _ => none) t.ic.holding k = tget (fun _ => none) s.ic.holding k) ∧
    (u.tb < e → completes (.holdoffEnd g tm) s (· = u))) ∧
  (∀ (s : State) (acc : Accessor), s.host.ready = true → s.ic.hold = true →
    completes (.icHoldRelease acc) s (fun t => t.ic.hold = false ∧
      ∀ n, { s with ic := { s.ic with hold := false } }.deliverable n = true → (s.src n).target < 3 →
        tget (fun _ => false) t.ic.lines (s.src n).target.toNat = true) ∧
    ((∀ n, (s.src n).st ≠ .pending) → completes (.icHoldRelease acc) s (· = { s with ic := { s.ic with hold := false } })))

/-- R402, R404, R405, R410 to R413, R418, R419, Tables 15.1, 15.3 and 15.4, R303: the responses of the fault manager and the messages of a recovery. -/
def Obligations.JobsRecover : Prop :=
  (∀ (s : State) (r : Report) (tm : Word64) (n : SiteNo) (o : Option HamletNo) (job : Word32), r.site = some n →
    s.jobOfSite n = some (o, job) →
    let u := s.at tm
    (∀ x q rest, s.flt.reports = (x, q) :: rest → q ≠ r → completes (.faultReport r tm) s (· = u)) ∧
    (s.flt.reports = [] ∨ (∃ x rest, s.flt.reports = (x, r) :: rest) →
      (r.cls = 0xFF01 → completes (.faultReport r tm) s fun t =>
        (∀ m ∈ s.jobSites o job, (t.site m).seq = .idle ∧ (t.site m).launch = none) ∧
        ∀ id ∈ s.jobDescs o job, ∀ d, s.desc id = some d → d.ready = none →
          windowOver d.fetched d.deadline u.tb = false →
          ∃ e c, t.desc id = some e ∧ e.ready = some c ∧ c.status = 6 ∧ c.detail = s.excDetail n) ∧
      (r.cls ∈ [(0x0005 : BitVec 16), 0x0006, 0x0009, 0x000A, 0x0606, 0xFF02] → s.recov o job = none →
        u.recent o job < 4 → s.jobChildren o job ≠ [] → completes (.faultReport r tm) s fun t =>
          ∃ q, recoveryBegun u t o job q none ∧ q.attempt = 1 ∧ q.cls = r.cls ∧ q.replace = []))) ∧
  (∀ (s : State) (m : RecMsg) (tm : Word64),
    let u := s.at tm
    (s.scopeOfMsg m = none → completes (.recoveryStop m tm) s (· = u)) ∧
    (∀ o, s.scopeOfMsg m = some o →
      (s.recov o m.job = none → u.recent o m.job < 4 → s.jobChildren o m.job ≠ [] →
        completes (.recoveryStop m tm) s fun t => ∃ q, recoveryBegun u t o m.job q (some m.source) ∧
          q.attempt = m.attempt ∧ q.cls = m.cause ∧ q.replace = []) ∧
      (∀ r, s.recov o m.job = some r → m.attempt < r.attempt → completes (.recoveryStop m tm) s (· = u)) ∧
      (∀ r, recovering s r → r.scope = o → r.job = m.job → m.attempt = r.attempt →
        completes (.recoveryStop m tm) s fun t => recoveryGoes u t r { r with since := u.heard r } []))) ∧
  (∀ (s : State) (m : RecMsg) (r : Recov) (tm : Word64), recovering s r → m.job = r.job → m.tag = r.scope →
    m.attempt = r.attempt →
    let u := s.at tm
    let n := if lowerMod m.tally r.tally then m.tally else r.tally
    let q : Recov := { r with tally := n, since := u.heard r, tallyOk := r.tallyOk && m.tallyOk && s.rollsBack r.scope r.job n, noSpare := r.noSpare || m.noSpare, waitStopped := r.waitStopped.filter fun d => decide (d ≠ m.source) }
    let q2 : Recov := { q with phase := .restore, since := u.tb, localReady := false, goAt := none, waitReady := s.jobChildren r.scope r.job }
    (q.waitStopped ≠ [] → completes (.recoveryStopped m tm) s fun t => recoveryGoes u t r q []) ∧
    (q.waitStopped = [] → r.phase = .stop →
      (∀ p, s.jobParent r.scope r.job = some p → completes (.recoveryStopped m tm) s fun t =>
        recoveryGoes u t r { q with phase := .stopped }
          [.recovery .stopped p (s.recMsg { q with phase := .stopped } 0 0 true) r.scope]) ∧
      (s.jobParent r.scope r.job = none → u.whyFails q = none → completes (.recoveryStopped m tm) s fun t =>
        recoveryGoes u t r q2 (s.toChildren .restore q2 0)) ∧
      (∀ cause, s.jobParent r.scope r.job = none → u.whyFails q = some cause →
        completes (.recoveryStopped m tm) s fun t => jobFailed u t r.scope r.job)) ∧
    (r.phase ≠ .stop → s.rollsBack r.scope r.job m.tally = false →
      completes (.recoveryRestore m tm) s fun t => jobFailed u t r.scope r.job) ∧
    (r.phase ≠ .stop → s.rollsBack r.scope r.job m.tally = true →
      let z : Recov := { r with tally := m.tally, phase := .restore, since := u.tb, localReady := false, goAt := none, waitReady := s.jobChildren r.scope r.job }
      completes (.recoveryRestore m tm) s fun t => recoveryGoes u t r z (s.toChildren .restore z 0)) ∧
    (r.phase = .restore →
      let w : Recov := { r with waitReady := r.waitReady.filter fun d => decide (d ≠ m.source), since := u.heard r }
      (w.waitReady ≠ [] ∨ r.localReady = false → completes (.recoveryReady m tm) s fun t => recoveryGoes u t r w []) ∧
      (w.waitReady = [] → r.localReady = true →
        (∀ p, s.jobParent r.scope r.job = some p → completes (.recoveryReady m tm) s fun t =>
          recoveryGoes u t r w [.recovery .ready p (s.recMsg w 0 0 true) r.scope]) ∧
        (s.jobParent r.scope r.job = none →
          let g : Recov := { w with phase := .go, since := u.tb, goAt := some u.goInstant }
          completes (.recoveryReady m tm) s fun t => recoveryGoes u t r g (s.toChildren .go g u.goInstant))) ∧
      (r.localReady = true →
        let g : Recov := { r with phase := .go, since := u.tb, goAt := some m.instant }
        completes (.recoveryGo m tm) s fun t => recoveryGoes u t r g (s.toChildren .go g m.instant)))) ∧
  (∀ (s : State) (r : Recov) (tm : Word64) (b : TallyBuf) (v : CoreSave) (n : SiteNo), recovering s r →
    let u := s.at tm
    r.phase = .restore → r.localReady = false → r.replace = [] → r.waitReady ≠ [] → s.restoring r.scope r.job = false →
    s.tallyNo r.scope r.job r.tally = some b → b.cores = [v] → s.siteOf v.lc = some n →
    completes (.localRestoreDone r.job tm) s fun t =>
      t.recov r.scope r.job = some { r with localReady := true } ∧
      (t.site n).pc = v.pc ∧ (t.site n).sregs = v.sregs ∧ (t.site n).aregs = v.aregs ∧ (t.site n).toks = v.toks ∧
      (t.site n).loops = v.loops ∧ (t.site n).vregs = v.vregs ∧ t.out = s.out ∧
      ∀ k ∈ s.jobBells r.scope r.job, (t.bell (bellNo k)).count = 0 ∧ (t.bell (bellNo k)).armed = true) ∧
  (∀ (s : State) (r : Recov) (tm i : Word64), recovering s r → r.phase = .go → r.goAt = some i →
    let u := s.at tm
    (i ≤ u.tb → (s.jobDescs r.scope r.job).Nodup → completes (.resumeAtInstant r.job tm) s fun t =>
      t = { u with sites := t.sites, host := { u.host with descs := t.host.descs }, flt := t.flt, jrnl := t.jrnl } ∧
      (∀ n ∈ s.jobSites r.scope r.job, (t.site n).seq = .running) ∧
      (∀ id ∈ s.jobDescs r.scope r.job, ∀ d, s.desc id = some d →
        t.desc id = some { d with rollbacks := satInc d.rollbacks }) ∧
      logged u t 0x0603 ∧ t.recov r.scope r.job = none) ∧
    (u.tb < i → completes (.resumeAtInstant r.job tm) s (· = u))) ∧
  (∀ (s : State) (m : RecMsg) (o : Option HamletNo) (tm : Word64), s.scopeOfMsg m = some o →
    (∀ r, s.recov o m.job = some r → r.attempt ≤ m.attempt) → 1 ≤ m.attempt →
    completes (.recoveryFail m tm) s fun t => jobFailed (s.at tm) t o m.job ∧
      ∃ q : Recov, q.scope = o ∧ q.job = m.job ∧ t.out = s.out ++ s.toNeighbours .fail q m.cause (some m.source)) ∧
  (∀ (s : State) (r : Recov) (tm : Word64), recovering s r →
    (windowOver r.since 1000000000 (s.at tm).tb = true → completes (.recoveryPhaseTimeout r.job tm) s fun t =>
      jobFailed (s.at tm) t r.scope r.job ∧ t.out = s.out ++ s.toNeighbours .fail r 6 none) ∧
    (windowOver r.since 1000000000 (s.at tm).tb = false →
      completes (.recoveryPhaseTimeout r.job tm) s (· = s.at tm)))

/-- R188, R237, R347, R409, R414 to R416, R463 to R466, Tables 13.5, 15.9, 17.4 and 17.9. -/
def Obligations.ReplacementSupervisionAndJournal : Prop :=
  (∀ (s : State) (lc : LCoreNo) (tm : Word64),
    let u := s.at tm
    let heads (r : Recov) : Bool := decide (r.phase = .restore) && decide (r.replace.head? = some lc)
    ((∀ r ∈ s.flt.jobs, heads r = false) → completes (.coreReplace lc tm) s (· = u)) ∧
    (∀ (r : Recov) (old : SiteNo), s.flt.jobs = [r] → heads r = true → s.siteOf lc = some old →
      (∀ n, s.spareFor old = some n → completes (.coreReplace lc tm) s fun t =>
        t.flt.jobs = [{ r with replace := r.replace.drop 1 }] ∧
        (t.site old).bad = true ∧ (t.site old).pwr = .off ∧ (t.site old).spare = false ∧
        (s.isDark (fieldOfSite old) = false → (t.site old).gran = []) ∧ (t.site old).bound = (s.site old).bound ∧
        (t.site n).chosen = some (lc, old) ∧ (t.site n).spare = false ∧ (t.site n).pwr = .inTransition ∧
        (t.dom (domOfSite n)).st = .wait ∧ (t.dom (domOfSite n)).since = u.tb ∧
        (∀ m, m ≠ n → m ≠ old → t.site m = s.site m) ∧ t.coreMap = s.coreMap) ∧
      (s.spareFor old = none → completes (.coreReplace lc tm) s fun t => t.siteOf lc = none ∧
        t.host.degraded = true ∧ (t.site old).bound = none ∧ (t.site old).bad = true ∧
        ∀ c, c ≠ lc → t.siteOf c = s.siteOf c))) ∧
  (∀ (s : State) (n : SiteNo) (f b : BitVec 4),
    let c := s.site n
    let base := mirrorFirst c.mirror * 8388608
    let len := min (mirrorPages c.mirror * 8388608) granSize
    ∀ a : SpareObs, a.fwd = some f → a.rev = some b → a.lanes = [] →
    let row : Instr := .spareRefillDone n a
    (c.refillDue = true → mirrorValid c.mirror = true → s.mirrorLost n = 0 → a.ecc = .uncorrectable →
      completes row s fun t => ∀ x, x / 4096 = a.off.toNat / 4096 → tget (fun _ => 0) (t.site n).gran x = 0) ∧
    (c.refillDue = false → completes row s (· = s)) ∧
    (c.refillDue = true → mirrorValid c.mirror = true → s.mirrorLost n = 0 → a.ecc = .clean →
      f.toNat ≤ 6 → b.toNat ≤ 6 → completes row s fun t =>
        t = { s with sites := t.sites, pwr := { s.pwr with doms := t.pwr.doms }, clk := { s.clk with regions := t.clk.regions, crossings := t.clk.crossings } } ∧
        t.site n = { c with refillDue := false, gran := (t.site n).gran, op := s.preferOp n } ∧
        (∀ a, a < len → [tget (fun _ => 0) (t.site n).gran a] = s.ddrRead (base + a) 1) ∧
        (∀ a, len ≤ a → tget (fun _ => 0) (t.site n).gran a = 0) ∧ (∀ m, m ≠ n → t.site m = s.site m) ∧
        t.dom (domOfSite n) = { s.dom (domOfSite n) with mv := opMv (s.preferOp n), trim := 0 } ∧
        t.region ⟨n.val, by omega⟩ = { s.region ⟨n.val, by omega⟩ with st := 1, mhz := opMhz (s.preferOp n) } ∧
        t.crossing n.val = { mode := 1, fwd := f, rev := b } ∧ t.crossing (40 + n.val) = { mode := 1, fwd := f, rev := b })) ∧
  (∀ (s : State) (a b : Bool) (tm : Word64), s.flt.missedA ≤ 1 → s.flt.missedB ≤ 1 →
    let u := s.at tm
    let ra := !a && decide (s.flt.missedA = 1)
    let rb := !b && decide (s.flt.missedB = 1)
    completes (.stewardPoll a b tm) s fun t => onlyLog u t ∧
      t.flt.missedA = (if a = true ∨ ra = true then 0 else 1) ∧ t.flt.missedB = (if b = true ∨ rb = true then 0 else 1) ∧
      t.flt.runnerB = (!a && (s.flt.runnerB || ra)) ∧
      t.flt.watchdog = (if a || b then u.tb else s.flt.watchdog) ∧
      (ra = true ∨ rb = true → ∃ x ∈ t.flt.buf, x.cls = 0x0608) ∧
      t.flt.nextId = s.flt.nextId + (if ra then 1 else 0) + (if rb then 1 else 0)) ∧
  (∀ (s : State) (tm : Word64), s.board.rails = true → s.host.resetting = false →
    let u := s.at tm
    (windowOver s.flt.watchdog 10000000000 u.tb = true → completes (.reeveWatchdog tm) s fun t =>
      logged u t 0x0609 ∧ t = { u with flt := t.flt, jrnl := t.jrnl, shadows := [], helds := [], host := { u.host with ready := false, resetting := true, arm := none }, board := { u.board with resetDue := true, wdReset := true } }) ∧
    (windowOver s.flt.watchdog 10000000000 u.tb = false → completes (.reeveWatchdog tm) s (· = u))) ∧
  (∀ (s : State) (cls : BitVec 16) (tm : Word64),
    let u := s.at tm
    let due := s.flt.folds.filter fun p => decide (p.1 / 4096 = cls.toNat)
    let rest := s.flt.folds.filter fun p => decide (p.1 / 4096 ≠ cls.toNat)
    (due = [] → completes (.faultRecordWindowEnd cls tm) s (· = { u with flt := { u.flt with folds := rest } })) ∧
    (∀ k v, due = [(k, some v)] → completes (.faultRecordWindowEnd cls tm) s fun t => onlyLog u t ∧
      logged u t cls ∧ t.flt.folds = rest ∧ ∃ x ∈ t.flt.buf, x.cls = cls ∧ x.id = s.flt.nextId ∧
        x.count.toNat = min 4294967295 v.1)) ∧
  (∀ (s : State) (r : JRec),
    let room : Prop := isFaultRec r = true → s.jrnl.fill + 262144 ≤ halfBytes
    (s.flashHeld = false → r ∈ s.jrnl.buf → room → s.jrnl.backlog = 0 → completes (.journalAppend r) s fun t =>
      t = { s with jrnl := { s.jrnl with recs := s.jrnl.recs ++ [(s.jrnl.seq, r)], seq := s.jrnl.seq + 1, fill := t.jrnl.fill, buf := s.jrnl.buf.erase r } } ∧
      t.jrnl.fill = recStart s.jrnl.fill (recSize r) + recSize r) ∧
    (s.flashHeld = false → r ∈ s.jrnl.buf → room → s.jrnl.backlog ≠ 0 → completes (.journalAppend r) s fun t =>
      onlyLog s t ∧ logged s t 0x0809 ∧ t.jrnl.recs = s.jrnl.recs ++ [(s.jrnl.seq, r)]) ∧
    (s.flashHeld = true ∨ r ∉ s.jrnl.buf → completes (.journalAppend r) s (· = s))) ∧
  (∀ s : State,
    (s.board.alwaysOn = true → completes .poweredRecordTimer s fun t =>
      let u := s.at (s.jrnl.poweredFrom + 60000000000)
      t = { u with jrnl := { s.jrnl with
        powered := u.poweredNow
        poweredFrom := s.jrnl.poweredFrom + BitVec.ofNat 64 ((u.poweredNow - s.jrnl.powered).toNat * 1000000000)
        buf := s.jrnl.buf ++ [.powered u.poweredNow] } }) ∧
    (s.flashHeld = false → s.jrnl.compacting = false → 50331648 ≤ s.jrnl.fill →
      completes .compactionStart s (· = { s with jrnl := { s.jrnl with compacting := true } })) ∧
    (s.jrnl.fill < 50331648 → completes .compactionStart s (· = s)) ∧
    (s.flashHeld = false → s.jrnl.compacting = true → completes .compactionSwitch s fun t => onlyLog s t ∧
      logged s t 0x0806 ∧ t.jrnl.half = !s.jrnl.half ∧ t.jrnl.gen = s.jrnl.gen + 1 ∧ t.jrnl.compacting = false ∧
      t.jrnl.recs.getLast? = some (s.jrnl.seq, .switch (s.jrnl.gen + 1))) ∧
    (s.jrnl.compacting = false → completes .compactionSwitch s (· = s)))

/-- R428, R430 to R434, R438, R439, R447 to R449, Tables 16.5 and 16.6: what the mailbox commands of the reeve do and answer. -/
def Obligations.ReeveMailbox : Prop :=
  (∀ (s : State) (x : Byte) (nonce c : BitVec 256) (key : Option (BitVec 256)) (p : BitVec 128) (lv : BitVec 2)
     (ex : Word32) (ok : Bool) (h : HamletNo) (a : BitVec 41) (n : Nat) (o : FwObs), s.board.alwaysOn = true →
    s.sec.recovery = true → ∀ row ∈ [Instr.attest x nonce key, .certRead, .challenge, .debugUnlock p c lv ex ok,
      .hamletBind h c, .fwUpdate a n o], completes row s fun t => replied s t 2 []) ∧
  (∀ s : State, s.board.alwaysOn = true → s.sec.recovery = false →
    (∀ (x : Byte) (sc : Option HamletNo) (nonce : BitVec 256), s.attestScope x = some sc →
      let n := s.sec.nextLeaf
      let body := s.attestBody sc nonce (zeros 1568) false
      (n.toNat + 1024 ≤ 2 ^ 40 → n < s.sec.batchEnd → completes (.attest x nonce none) s fun t =>
        replied { s with sec := { s.sec with nextLeaf := n + 1 } } t 0 (body ++ Config.sign n.toNat body)) ∧
      (n.toNat + 1024 ≤ 2 ^ 40 → s.sec.batchEnd ≤ n → completes (.attest x nonce none) s fun t =>
        replied { s with sec := { s.sec with nextLeaf := n + 1, batchEnd := n + 1024 }, jrnl := { s.jrnl with buf := s.jrnl.buf ++ [.reserve n] } } t 0 (body ++ Config.sign n.toNat body)) ∧
      (2 ^ 40 < n.toNat + 1024 → s.sec.exhausted = true → completes (.attest x nonce none) s fun t => replied s t 5 []) ∧
      (∀ (h : HamletNo) (ek : BitVec 256), sc = some h → (s.hamlet h).hostEnc = true → s.sec.entropyOk = true →
        n.toNat + 1024 ≤ 2 ^ 40 → completes (.attest x nonce (some ek)) s fun t => t.sec.status = 0 ∧
          t.hamlet h = { s.hamlet h with hostKey := some (s.mem.keyCount + 1) } ∧
          (∀ k, k ≠ h → t.hamlet k = s.hamlet k) ∧ t.sec.nextLeaf = n + 1)) ∧
    (∀ (x : Byte) (nonce : BitVec 256), s.attestScope x = none →
      completes (.attest x nonce none) s fun t => replied s t 2 []) ∧
    completes .certRead s (fun t => replied s t 0 Config.certificate) ∧
    (s.sec.entropyOk = true → completes .challenge s fun t => ∃ c : BitVec 256,
      replied { s with free := s.free + 1, sec := { s.sec with challenge := some c, drbgUses := if s.sec.drbgUses < 65536 then s.sec.drbgUses + 1 else 1 } } t 0 (bytes256 c)) ∧
    (s.sec.entropyOk = false → completes .challenge s fun t => replied s t 5 []) ∧
    (∀ (p : BitVec 128) (c : BitVec 256) (lv : BitVec 2) (ex : Word32) (sig : Bool),
      let spent : State := { s with sec := { s.sec with challenge := none } }
      (s.confidential = true → completes (.debugUnlock p c lv ex sig) s fun t => replied s t 3 []) ∧
      (s.confidential = false → s.tokenHolds p c lv ex sig = false →
        completes (.debugUnlock p c lv ex sig) s fun t => replied spent t 4 []) ∧
      (s.confidential = false → sig = true → p = s.fuses.platform → s.sec.challenge = some c → lv = 1 ∨ lv = 2 →
        s.poweredNow < ex → completes (.debugUnlock p c lv ex sig) s fun t => logged s t 0x0708 ∧
          t = { s with sec := t.sec, flt := t.flt, jrnl := t.jrnl } ∧ t.sec.debug = lv ∧ t.sec.debugUntil = ex ∧
          t.sec.challenge = none ∧ t.sec.status = 0 ∧ t.sec.hamlets = s.sec.hamlets)) ∧
    (∀ (h : HamletNo) (b : BitVec 256), ((s.hamlet h).exists_ = true → completes (.hamletBind h b) s fun t =>
        t.hamlet h = { s.hamlet h with binding := b } ∧ (∀ k, k ≠ h → t.hamlet k = s.hamlet k) ∧ t.sec.status = 0 ∧
        (∀ l ∈ (s.hamlet h).linkList, (t.link l).confirmed = false) ∧
        ∀ l, l ∉ (s.hamlet h).linkList → t.link l = s.link l) ∧
      ((s.hamlet h).exists_ = false → completes (.hamletBind h b) s fun t => replied s t 2 [])) ∧
    (∀ (a : BitVec 41) (n : Nat) (o : FwObs),
      (s.sec.fwWriting = true → completes (.fwUpdate a n o) s fun t => replied s t 1 []) ∧
      (s.sec.fwWriting = false → n = 0 ∨ 62917636 < n ∨ s.imagePages a n = false →
        completes (.fwUpdate a n o) s fun t => replied s t 2 []) ∧
      (s.sec.fwWriting = false → 0 < n → n ≤ 62917636 → s.imagePages a n = true →
        (o.present = false ∨ o.sigOk = false ∨ o.digestOk = false ∨ o.svn < s.fuses.svn →
          completes (.fwUpdate a n o) s fun t => replied s t 4 []) ∧
        (o.present = true → o.sigOk = true → o.digestOk = true → s.fuses.svn ≤ o.svn →
          completes (.fwUpdate a n o) s fun t => tbytes (fun _ => 0) t.sec.fwRegion 0 n = s.ddrRead a.toNat n ∧
            replied { s with sec := { s.sec with fwWriting := true, fwPending := some o.svn, fwRegion := t.sec.fwRegion } } t 0 [])))) ∧
  (∀ s : State,
    (s.sec.fwWriting = true → s.flashHeld = false → completes .fwWriteDone s fun t => logged s t 0x0702 ∧
      t = { s with sec := { s.sec with fwWriting := false, fwPending := none }, flt := t.flt, jrnl := t.jrnl }) ∧
    (s.sec.debug ≠ 0 → s.sec.debugUntil ≤ s.poweredNow → completes .debugExpiry s
      (· = { s with sec := { s.sec with debug := 0, debugUntil := 0 } })) ∧
    (s.poweredNow < s.sec.debugUntil → completes .debugExpiry s (· = s)) ∧
    (s.board.alwaysOn = true → ∀ k : BitVec 4,
      completes (.drbgReseed true k) s (· = { s with sec := { s.sec with entropyOk := true, drbgUses := 0 } }) ∧
      completes (.drbgReseed false k) s fun t => logged s t 0x0705 ∧
        t = { s with sec := { s.sec with entropyOk := false }, flt := t.flt, jrnl := t.jrnl })) ∧
  (∀ (s : State) (port : Bool) (tm a : Word64) (holder : Fin 3) (off : BitVec 26) (chunk : List Byte) (o : FwObs),
    s.board.alwaysOn = true →
    let u := s.at tm
    let me := hostPort port
    (s.sec.recovery = false → s.sec.session = none →
      completes (.recoveryBegin port tm) s (fun t => replied u t 2 []) ∧
      completes (.recoveryWrite port off chunk tm) s (fun t => replied u t 2 []) ∧
      completes (.recoveryEnd port o tm) s fun t => replied u t 2 []) ∧
    (s.sec.recovery = true → s.sec.session = none → completes (.recoveryBegin port tm) s fun t =>
      replied { u with sec := { u.sec with session := some (me, u.tb) } } t 0 []) ∧
    (s.sec.session = some (holder, a) → windowOver a 60000000000 u.tb = true →
      completes (.recoverySessionTimeout tm) s (· = { u with sec := { u.sec with session := none } })) ∧
    (s.sec.recovery = true → s.sec.session = some (holder, a) → windowOver a 60000000000 u.tb = false →
      completes (.recoverySessionTimeout tm) s (· = u) ∧
      (holder ≠ me → completes (.recoveryBegin port tm) s (fun t => replied u t 1 []) ∧
        completes (.recoveryWrite port off chunk tm) s (fun t => replied u t 1 []) ∧
        completes (.recoveryEnd port o tm) s fun t => replied u t 1 []) ∧
      (holder = me →
        (chunk.length ≤ 61440 → off.toNat + chunk.length ≤ 67108864 → completes (.recoveryWrite port off chunk tm) s fun t =>
          replied { u with sec := { u.sec with session := some (me, u.tb), fwRegion := t.sec.fwRegion } } t 0 [] ∧
          tbytes (fun _ => 0) t.sec.fwRegion off.toNat chunk.length = chunk ∧
          ∀ i, i < off.toNat ∨ off.toNat + chunk.length ≤ i →
            tget (fun _ => 0) t.sec.fwRegion i = tget (fun _ => 0) s.sec.fwRegion i) ∧
        (o.present = false ∨ o.sigOk = false ∨ o.digestOk = false ∨ o.svn < s.fuses.svn →
          completes (.recoveryEnd port o tm) s fun t => replied { u with sec := { u.sec with session := none } } t 4 []) ∧
        (o.present = true → o.sigOk = true → o.digestOk = true → s.fuses.svn ≤ o.svn → s.board.rails = true →
          s.host.resetting = false → completes (.recoveryEnd port o tm) s fun t => ∃ v,
            resetBegun { u with sec := { u.sec with session := none } } v ∧ replied v t 0 []))))

/-- R335, R336, R428, R429, R452, R455 to R458, R466, R483 to R491, Tables 17.1 and 19.3. What startEnds, resetBegun and railsDropped say is in Safety.lean. -/
def Obligations.StartsAndRails : Prop :=
  (∀ (s : State) (v : BitVec 16) (o : StartObs), s.board.armed = true → s.board.rails = false →
    s.board.thermtrip = false → s.board.refLost = false → 4300 ≤ v.toNat → v.toNat ≤ 5800 →
    (s.board.modrst = false → s.board.pwrfail = false → completes (.coldPowerOn v o) s fun t =>
      startEnds o { s with role := 3 } t ∧ t.board.rails = true ∧ t.board.alwaysOn = true ∧ t.board.armed = false ∧
      t.board.held = none ∧ (∀ p, t.isDark (portField p) = false → t.portIsUp p = true) ∧
      (o.parentTb = none → t.tb = 0)) ∧
    (s.board.modrst = true ∨ s.board.pwrfail = true → completes (.coldPowerOn v o) s fun t =>
      t.board.held = some o ∧ t.board.rails = true ∧ t.board.stage = 0 ∧ t.host.ready = false ∧ t.tb = 0 ∧
      t.coreMap = [] ∧ t.fuses = s.fuses ∧ t.pending = s.pending)) ∧
  (∀ (s : State) (v : BitVec 16) (o : StartObs), s.board.armed = false → completes (.coldPowerOn v o) s (· = s)) ∧
  (∀ (s : State) (o : StartObs),
    (s.board.resetDue = true → s.board.modrst = false → s.board.pwrfail = false →
      completes (.warmReset o) s fun t => startEnds o s t ∧ t.board.resetDue = false) ∧
    (s.board.resetDue = false → completes (.warmReset o) s (· = s))) ∧
  (∀ (s : State) (tm : Word64),
    let u := s.at tm
    let low : State := { u with board := { u.board with modrst := true } }
    (s.host.ready = true → s.host.resetting = false → s.board.rails = true →
      completes (.modrstN tm) s fun t => resetBegun low t) ∧
    (s.host.ready = false → completes (.modrstN tm) s (· = low)) ∧
    (s.board.pwrfail = false → s.flashHeld = false → completes (.pwrfailFall tm) s fun t =>
      t = { u with board := { u.board with pwrfail := true }, jrnl := t.jrnl } ∧ t.jrnl.buf = [] ∧ t.jrnl.sealing = true ∧
      t.jrnl.recs.map (·.2) = s.jrnl.recs.map (·.2) ++ sealOrder (s.jrnl.buf ++ [.powered s.poweredNow])) ∧
    (s.board.pwrfail = true → completes (.pwrfailFall tm) s (· = u))) ∧
  (∀ (s : State) (o : StartObs),
    (s.board.held = some o → s.host.ready = false → s.coreMap = [] →
      (s.board.pwrfail = false → completes .modrstNRise s fun t => startEnds o s t ∧ t.board.modrst = false ∧ t.board.held = none) ∧
      (s.board.modrst = false → completes .pwrfailRise s fun t => startEnds o s t ∧ t.board.pwrfail = false ∧ t.board.held = none)) ∧
    (s.board.held = none ∨ s.board.pwrfail = true →
      completes .modrstNRise s (· = { s with board := { s.board with modrst := false } })) ∧
    (s.board.held = none ∨ s.board.modrst = true → completes .pwrfailRise s
      (· = { s with board := { s.board with pwrfail := false }, jrnl := { s.jrnl with sealing := false } }))) ∧
  (∀ s : State,
    (s.board.rails = true →
      completes .brownOut s (fun t => railsDropped s t 2 ∧ t.jrnl.buf = [] ∧ t.board.armed = true) ∧
      completes .overVoltage s (fun t => railsDropped s t 3 ∧ t.board.armed = true ∧ t.jrnl = s.jrnl) ∧
      completes .thermtrip s (fun t => railsDropped s t 1 ∧ t.board.thermtrip = true ∧ t.jrnl = s.jrnl) ∧
      (s.board.refLost = true → completes .referenceLostLong s fun t => railsDropped s t 4 ∧ t.board.refDropped = true ∧
        t.jrnl = s.jrnl)) ∧
    (s.board.rails = false → completes .brownOut s (· = { s with board := { s.board with armed := true } }) ∧
      completes .overVoltage s (· = s) ∧ completes .thermtrip s (· = s)) ∧
    completes .alwaysOnDrop s (fun t => t.board.alwaysOn = false ∧ t.board.rails = false ∧ t.host.ready = false ∧
      t.sites = [] ∧ t.coreMap = [] ∧ t.coll = {} ∧ t.mem.ddr = [] ∧ t.fuses = s.fuses ∧ t.jrnl.recs = s.jrnl.recs ∧
      t.jrnl.buf = [] ∧ t.sec.nextLeaf = s.sec.nextLeaf ∧ t.sec.batchEnd = s.sec.batchEnd ∧
      t.sec.fwRegion = s.sec.fwRegion ∧ t.board.modrst = s.board.modrst ∧ t.board.pwrfail = s.board.pwrfail ∧
      t.flt.nextId = s.flt.nextId ∧ t.pending = s.pending) ∧
    (s.board.refLost = false → s.board.alwaysOn = true → completes .referenceLost s fun t =>
      t = { s with sites := t.sites, ic := { s.ic with srcs := t.ic.srcs, sleeping := t.ic.sleeping }, board := { s.board with refLost := true } } ∧
      t.src 6 = { s.src 6 with line := true }.raised s.tb ∧ ∀ k, k ≠ 6 → t.src k = s.src k) ∧
    ∀ (ls : List LinkNo) (cs : List (MemNo × Fin 4)), (s.board.refLost = true → completes (.referenceReturn ⟨ls, cs⟩) s fun t => t.board.refLost = false ∧
        (∀ m ch, ((t.msite m).chan ch).due = if (m, ch) ∈ cs ∧ (s.msite m).st = 2 then
          some (((s.msite m).chan ch).due.getD s.tb) else ((s.msite m).chan ch).due) ∧
        t.src 6 = { (s.src 6).withdrawn with line := false } ∧ (∀ k, k ≠ 6 → t.src k = s.src k) ∧
        (∀ l ∈ ls, (s.link l).st = .up → (t.link l).st = .retrain ∧ (t.link l).retrains = satInc (s.link l).retrains) ∧
        ∀ l, l ∉ ls ∨ (s.link l).st ≠ .up → t.link l = s.link l) ∧
      (s.board.refLost = false → completes (.referenceReturn ⟨ls, cs⟩) s (· = s)))

/-- R430, R454, R467, R468, R495, R496, Tables 17.5, 19.10 and 19.11. The response holds the content of the message; the framing of the standards it names is outside the spec. The four bytes of a version and the two of a command set version are free values, and the completion codes and the layout of a sensor's response are the model's choice (log entry 80). -/
def Obligations.ManagementPort : Prop :=
  (∀ (s : State) (b : Byte) (w : Word32) (m : Bool), s.board.alwaysOn = false →
    ∀ row ∈ [Instr.setEndpointId b, .getEndpointId, .getMctpVersionSupport b, .getMessageTypeSupport,
      .getVendorDefinedMessageSupport b, .pldmSensorRead b, .powerLimit w, .pldmWarmReset b, .getBootStatus,
      .setBootMode m], completes row s (· = s)) ∧
  (∀ s : State, s.board.alwaysOn = true →
    (∀ e : Byte, (e ≠ 0x00 → e ≠ 0xFF → completes (.setEndpointId e) s fun t =>
        responds { s with board := { s.board with eid := e } } t [0, 0, e, 0]) ∧
      (e = 0x00 ∨ e = 0xFF → completes (.setEndpointId e) s fun t => responds s t [0x02])) ∧
    completes .getEndpointId s (fun t => responds s t [0, s.board.eid, 0, 0]) ∧
    (∀ k : Byte, (k ∈ [(0x00 : Byte), 0x01, 0x7F, 0xFF] → completes (.getMctpVersionSupport k) s fun t =>
        ∃ v : List Byte, v.length = 4 ∧ responds { s with free := s.free + 4 } t ([0, 1] ++ v)) ∧
      (k ∉ [(0x00 : Byte), 0x01, 0x7F, 0xFF] → completes (.getMctpVersionSupport k) s fun t => responds s t [0x80])) ∧
    (s.firmwareRuns = true → completes .getMessageTypeSupport s fun t => responds s t [0, 3, 0x00, 0x01, 0x7F]) ∧
    (s.firmwareRuns = false → completes .getMessageTypeSupport s fun t => responds s t [0, 2, 0x00, 0x7F]) ∧
    (completes (.getVendorDefinedMessageSupport 0) s fun t => ∃ v : List Byte, v.length = 2 ∧
      responds { s with free := s.free + 2 } t ([0, 0xFF, 0x01, 0x00, 0x00, 0xB6, 0xF1] ++ v)) ∧
    (∀ k : Byte, k ≠ 0 → completes (.getVendorDefinedMessageSupport k) s fun t => responds s t [0x02]) ∧
    (∀ k : Byte,
      let reads (v : Int) : Prop := completes (.pldmSensorRead k) s fun t =>
        responds s t ([0, 0, (s.levelOf k.toNat v).byte] ++ leBytes 4 (BitVec.ofInt 32 v).toNat)
      let absent : Prop := completes (.pldmSensorRead k) s fun t => responds s t ([0, 2, 0] ++ zeros 4)
      (1 ≤ k.toNat → k.toNat ≤ 9 → k.toNat ≤ 4 ∨ s.host.ready = true →
        (∀ v, s.sensor k.toNat = some v → reads v) ∧ (s.sensor k.toNat = none → absent)) ∧
      (5 ≤ k.toNat → k.toNat ≤ 10 → s.host.ready = false → absent) ∧
      (k = 10 → s.host.ready = true → reads s.bound) ∧
      (k = 11 →
        (s.sec.recovery = true → reads 4) ∧ (s.sec.recovery = false → s.board.stage = 12 → reads 5) ∧
        (s.sec.recovery = false → s.board.stage ≠ 12 → s.host.lost = true → reads 6) ∧
        (s.sec.recovery = false → s.board.stage ≠ 12 → s.host.lost = false → s.host.ready = true →
          (s.host.degraded = true → reads 3) ∧ (s.host.degraded = false → reads 2))) ∧
      (k = 12 → reads s.board.cause.toNat) ∧
      (k = 0 ∨ 12 < k.toNat → completes (.pldmSensorRead k) s fun t => responds s t [0x80]) ∧
      ∀ v : Int, (1 ≤ k.toNat → k.toNat ≤ 9 → completes (.sensorUpdate k v) s fun t => t.sensor k.toNat = some v ∧
          (∀ j, j ≠ k.toNat → t.sensor j = s.sensor j) ∧ (k ≠ 2 → t.pwr = s.pwr) ∧
          (k = 2 → 0 ≤ v → v < 65536 → t.pwr.inputW.toNat = v) ∧
          t = { s with board := { s.board with sensors := t.board.sensors }, pwr := { s.pwr with inputW := t.pwr.inputW } }) ∧
        (k = 0 ∨ 9 < k.toNat → completes (.sensorUpdate k v) s (· = s))) ∧
    (∀ w : Word32,
      let sets (x : BitVec 16) : Prop := completes (.powerLimit w) s fun t =>
        responds { s with pwr := { s.pwr with limitW := x } } t [0]
      (s.firmwareRuns = true → s.pwr.lock = false →
        (w.toNat < 3000 → sets 3000) ∧ (s.maxWatts.toNat < w.toNat → 3000 ≤ w.toNat → sets s.maxWatts) ∧
        (3000 ≤ w.toNat → w.toNat ≤ s.maxWatts.toNat → sets (BitVec.ofNat 16 w.toNat))) ∧
      (s.firmwareRuns = false ∨ s.pwr.lock = true → completes (.powerLimit w) s fun t => responds s t [0x01])) ∧
    (s.host.ready = true → s.host.resetting = false → s.board.rails = true → completes (.pldmWarmReset 1) s fun t =>
      ∃ v, resetBegun s v ∧ responds v t [0]) ∧
    (∀ v : Byte, v ≠ 1 → completes (.pldmWarmReset v) s fun t => responds s t [0x01]) ∧
    completes .getBootStatus s (fun t => responds s t
      (leBytes 4 s.bootWord.toNat ++ leBytes 4 s.jrnlWord.toNat ++ leBytes 4 s.hstStatus.toNat)) ∧
    (∀ m : Bool, completes (.setBootMode m) s fun t => responds { s with jrnl := { s.jrnl with quick := m, buf := s.jrnl.buf ++ [.config 1 (if m then 1 else 0)] } } t [])) ∧
  (∀ (s : State) (tm a : Word64) (holder : Fin 3) (off : BitVec 26) (chunk : List Byte) (o : FwObs),
    s.board.alwaysOn = true →
    let u := s.at tm
    (s.sec.recovery = false → s.sec.session = none → completes (.mgmtRecoveryBegin tm) s fun t => responds u t [2]) ∧
    (s.sec.recovery = true → s.sec.session = none → completes (.mgmtRecoveryBegin tm) s fun t =>
      responds { u with sec := { u.sec with session := some (2, u.tb) } } t [0]) ∧
    (s.sec.recovery = true → s.sec.session = some (holder, a) → windowOver a 60000000000 u.tb = false →
      (holder ≠ 2 → completes (.mgmtRecoveryBegin tm) s (fun t => responds u t [1]) ∧
        completes (.mgmtRecoveryWrite off chunk tm) s (fun t => responds u t [1]) ∧
        completes (.mgmtRecoveryEnd o tm) s fun t => responds u t [1]) ∧
      (holder = 2 → chunk.length ≤ 4096 → off.toNat + chunk.length ≤ 67108864 →
        completes (.mgmtRecoveryWrite off chunk tm) s fun t =>
          responds { u with sec := { u.sec with session := some (2, u.tb), fwRegion := t.sec.fwRegion } } t [0] ∧
          tbytes (fun _ => 0) t.sec.fwRegion off.toNat chunk.length = chunk) ∧
      (holder = 2 → 4096 < chunk.length → completes (.mgmtRecoveryWrite off chunk tm) s fun t =>
        responds { u with sec := { u.sec with session := some (2, u.tb) } } t [2]) ∧
      (holder = 2 → o.present = false → completes (.mgmtRecoveryEnd o tm) s fun t =>
        responds { u with sec := { u.sec with session := none } } t [4]) ∧
      (holder = 2 → o.present = true → o.sigOk = true → o.digestOk = true → s.fuses.svn ≤ o.svn → s.board.rails = true →
        s.host.resetting = false → completes (.mgmtRecoveryEnd o tm) s fun t => ∃ v,
          resetBegun { u with sec := { u.sec with session := none } } v ∧ responds v t [0])) ∧
    (completes (.mctpAssemblyTimeout a tm) s fun t => t = { u with board := { u.board with assembling := t.board.assembling } } ∧
      t.board.assembling = if windowOver a 100000000 u.tb then none else some a) ∧
    ∀ r, s.board.response = some (a, r) →
      (windowOver a 1000000000 u.tb = true → completes (.mctpResponseTimeout tm) s
        (· = { u with board := { u.board with response := none } })) ∧
      (windowOver a 1000000000 u.tb = false → completes (.mctpResponseTimeout tm) s (· = u)))

/-- R11, R14, R337, R471 to R476, R480, Tables 18.2 and 18.3: reads and writes through the set-up window. The places of the registers are those of Table 18.1. What a write ignores leaves everything as before. -/
def Obligations.RegisterAccess : Prop :=
  (∀ (s : State) (acc : Accessor) (off : BitVec 28) (v : Word32) (par : ParityObs), s.board.alwaysOn = true →
    off.toNat % 4 ≠ 0 ∨ (s.host.ready = false ∧ 0x10010 ≤ off.toNat ∧ ¬ (0xC00000 ≤ off.toNat ∧ off.toNat < 0xE00000)) →
    (∀ row ∈ [Instr.regPairReadLo ⟨acc, .ok, 0⟩ off, .regPairReadHi ⟨acc, .ok, 0⟩ off], completes row s
      (· = { s with out := s.out ++ [.regData acc off 0] })) ∧
    ∀ row ∈ [Instr.regPairWriteLo ⟨acc, .ok, 0⟩ off v, .regPairWriteHi ⟨acc, .ok, 0⟩ off v, .registerWrite acc off v par],
      completes row s (· = s)) ∧
  (∀ (s : State) (acc : Accessor) (off : BitVec 28) (lo : Nat) (p : Word64), s.board.alwaysOn = true →
    s.pair lo = some p →
    (off.toNat = lo → s.answers lo = true → completes (.regPairReadLo ⟨acc, .ok, 0⟩ off) s fun t =>
      t = { s with out := s.out ++ [.regData acc off (p.extractLsb' 0 32)], shadows := t.shadows } ∧
      t.shadow acc lo = some (p.extractLsb' 32 32) ∧
      ∀ acc' lo', lo' < 2 ^ 28 → acc' ≠ acc ∨ lo' ≠ lo → t.shadow acc' lo' = s.shadow acc' lo') ∧
    (off.toNat = lo + 4 → s.answers (lo + 4) = true →
      (∀ v, s.shadow acc lo = some v → completes (.regPairReadHi ⟨acc, .ok, 0⟩ off) s fun t =>
        t = { s with out := s.out ++ [.regData acc off v], shadows := t.shadows } ∧ t.shadow acc lo = none ∧
        ∀ acc' lo', lo' < 2 ^ 28 → acc' ≠ acc ∨ lo' ≠ lo → t.shadow acc' lo' = s.shadow acc' lo') ∧
      (s.shadow acc lo = none → completes (.regPairReadHi ⟨acc, .ok, 0⟩ off) s
        (· = { s with out := s.out ++ [.regData acc off (p.extractLsb' 32 32)] })))) ∧
  (∀ (s : State) (acc : Accessor) (off : BitVec 28) (r : RingNo) (k : Nat) (v : Word32), s.board.alwaysOn = true →
    s.host.ready = true → k ∈ [0x00, 0x08, 0x10] →
    let lo := 0x11000 + 64 * r.val + k
    let g := s.ring r
    let old := if k = 0x00 then g.sqBase else if k = 0x08 then g.cqBase else g.msgAddr
    (g.active = true ∨ g.owner ≠ none → (off.toNat = lo → completes (.regPairWriteLo ⟨acc, .ok, 0⟩ off v) s (· = s)) ∧
      (off.toNat = lo + 4 → completes (.regPairWriteHi ⟨acc, .ok, 0⟩ off v) s (· = s))) ∧
    (g.active = false → g.owner = none →
      (off.toNat = lo → completes (.regPairWriteLo ⟨acc, .ok, 0⟩ off v) s fun t => t = { s with helds := t.helds } ∧
        t.heldLo acc lo = some v ∧
        ∀ acc' lo', lo' < 2 ^ 28 → acc' ≠ acc ∨ lo' ≠ lo → t.heldLo acc' lo' = s.heldLo acc' lo') ∧
      (off.toNat = lo + 4 → completes (.regPairWriteHi ⟨acc, .ok, 0⟩ off v) s fun t =>
        let new : Word64 := v ++ (s.heldLo acc lo).getD (old.extractLsb' 0 32)
        t = { s with helds := t.helds, host := { s.host with rings := t.host.rings } } ∧
        t.heldLo acc lo = none ∧ (∀ q, q ≠ r → t.ring q = s.ring q) ∧
        t.ring r = (if k = 0x00 then { g with sqBase := new } else if k = 0x08 then { g with cqBase := new } else { g with msgAddr := new })))) ∧
  (∀ (s : State) (acc : Accessor) (off : BitVec 28) (lo : Nat) (v : Word32), off.toNat = lo + 4 →
    (lo < 0x11000 ∨ 0x15000 ≤ lo) → completes (.regPairWriteHi ⟨acc, .ok, 0⟩ off v) s fun t => t = { s with helds := t.helds }) ∧
  (∀ (s : State) (acc : Accessor) (v : Word32), s.board.alwaysOn = true →
    completes (.registerWrite acc 0x34 v .ok) s
      (· = { s with id := { s.id with lock := s.id.lock || v.getLsbD 31 } }) ∧
    (s.sec.busy = false → v.extractLsb' 0 8 ∈ [(1 : Byte), 2, 3, 4, 5, 6, 16, 17, 18] →
      completes (.registerWrite acc 0xC00004 v .ok) s (· = { s with sec := { s.sec with busy := true } })) ∧
    (s.sec.busy = false → v.extractLsb' 0 8 ∉ [(1 : Byte), 2, 3, 4, 5, 6, 16, 17, 18] →
      completes (.registerWrite acc 0xC00004 v .ok) s fun t => replied s t 2 []) ∧
    completes (.registerWrite acc 0xC0000C v .ok) s
      (· = { s with sec := { s.sec with inLen := v.extractLsb' 0 17 } }) ∧
    completes (.registerWrite acc 0xC00010 v .ok) s
      (· = { s with sec := { s.sec with page := v.extractLsb' 0 5 } }) ∧
    (∀ off : BitVec 28, 0xD00000 ≤ off.toNat → off.toNat < 0xE00000 → off ≠ 0xD00008 → off ≠ 0xD0000C →
      completes (.registerWrite acc off v .ok) s (· = s)) ∧
    completes (.registerWrite acc 0x34 v .fail) s (fun t => logged s t 0x0007 ∧
      t = { s with id := { s.id with lock := s.id.lock || v.getLsbD 31, parity := satInc s.id.parity, errAddr := 0x34 }, flt := t.flt, jrnl := t.jrnl }) ∧
    (∀ r : RingNo,
      exec (.registerWrite acc (BitVec.ofNat 28 (0x8000000 + 4096 * r.val)) v .ok) s = exec (.sqTail r v) s ∧
      exec (.registerWrite acc (BitVec.ofNat 28 (0x8000004 + 4096 * r.val)) v .ok) s = exec (.cqHead r v) s)) ∧
  (∀ (s : State) (acc : Accessor) (v : Word32), s.board.alwaysOn = true → s.host.ready = true →
    (s.host.lock = false → completes (.registerWrite acc 0x10004 v .ok) s fun t =>
      t = { s with host := { s.host with hbEn := v.getLsbD 30, lock := v.getLsbD 31, heartbeat := t.host.heartbeat } }) ∧
    (s.coll.lock = false → completes (.registerWrite acc 0x700000 v .ok) s
      (· = { s with coll := { s.coll with resetAccept := v.getLsbD 30, lock := v.getLsbD 31 } })) ∧
    (s.clk.lock = false → completes (.registerWrite acc 0x80001C v .ok) s
      (· = { s with clk := { s.clk with master := v.getLsbD 30, parentEn := v.getLsbD 7, parentLink := v.extractLsb' 0 7, lock := v.getLsbD 31 } })) ∧
    (s.pwr.lock = false → s.pwr.groupEn = false → v.getLsbD 30 = false →
      completes (.registerWrite acc 0x900004 v .ok) s
        (· = { s with pwr := { s.pwr with limitW := s.clampW (v.extractLsb' 0 16).toNat, lock := v.getLsbD 31 } })) ∧
    (s.host.lock = true → completes (.registerWrite acc 0x10004 v .ok) s (· = s)) ∧
    (s.coll.lock = true → completes (.registerWrite acc 0x700000 v .ok) s (· = s)) ∧
    (s.clk.lock = true → completes (.registerWrite acc 0x80001C v .ok) s (· = s)) ∧
    (s.pwr.lock = true → ∀ k, k < 64 → ∀ off ∈ [0x900004, 0x900008, BitVec.ofNat 28 (0x900100 + 4 * k)],
      completes (.registerWrite acc off v .ok) s (· = s)) ∧
    (s.pwr.lock = false → s.pwr.groupEn = false → completes (.registerWrite acc 0x900008 v .ok) s
      (· = { s with pwr := { s.pwr with totalW := v.extractLsb' 0 20 } })) ∧
    (∀ r : RingNo, (s.ring r).active = false → (s.ring r).owner = none →
      completes (.registerWrite acc (BitVec.ofNat 28 (0x11018 + 64 * r.val)) v .ok) s
        (· = s.setRing r { s.ring r with msgData := v })) ∧
    completes (.registerWrite acc 0x700010 v .ok) s
      (· = { s with coll := { s.coll with sel := v &&& 0xC0001FFF } }) ∧
    (∀ k, k < 3 → completes (.registerWrite acc (BitVec.ofNat 28 (0xA00050 + 4 * k)) v .ok) s fun t =>
      t = { s with ic := { s.ic with thresholds := t.ic.thresholds, lines := t.ic.lines } } ∧
      tget (fun _ => 0) t.ic.thresholds k = v.extractLsb' 0 3 ∧
      ∀ j, j ≠ k → tget (fun _ => 0) t.ic.thresholds j = tget (fun _ => 0) s.ic.thresholds j) ∧
    completes (.registerWrite acc 0xA00060 v .ok) s (· = { s with ic := { s.ic with seqMask := v } }) ∧
    completes (.registerWrite acc 0x500010 v .ok) s
      (· = { s with mem := { s.mem with pmapIdx := v.extractLsb' 0 18 } }) ∧
    (∀ r : RingNo, completes (.registerWrite acc (BitVec.ofNat 28 (0x8000000 + 4096 * r.val)) v .portFail) s fun t =>
      logged s t 0x0007 ∧
      t = { s with id := { s.id with parity := satInc s.id.parity, errAddr := BitVec.ofNat 28 (0x8000000 + 4096 * r.val) }, flt := t.flt, jrnl := t.jrnl }) ∧
    completes (.registerWrite acc 0x10004 v .failBoth) s fun t => logged s t 0x0007 ∧
      t = { s with id := { s.id with parity := satInc s.id.parity, errAddr := 0x10004, copyLost := true }, host := { s.host with lock := true, hbEn := false }, flt := t.flt, jrnl := t.jrnl }) ∧
  (∀ (s : State) (acc : Accessor) (v : Word32), s.board.alwaysOn = true →
    let d := v.extractLsb' 0 12
    let u : State := { s with jrnl := { (s.jrnl.append (.config 2 (d.setWidth 64))) with devNum := some d } }
    (s.id.lock = true → completes (.idDevnumWrite acc v) s (· = s)) ∧
    (s.id.lock = false → (∀ l : LinkNo, (s.link l).st = .absent ∨ (s.link l).st = .down) →
      (∀ h : HamletNo, (s.hamlet h).exists_ = false) → completes (.idDevnumWrite acc v) s
        (· = { u with id := { u.id with dev := d, valid := true, pending := false, next := 0 } })) ∧
    (s.id.lock = false → (∃ l : LinkNo, (s.link l).st ≠ .absent ∧ (s.link l).st ≠ .down) ∨
      (∃ h : HamletNo, (s.hamlet h).exists_ = true) → completes (.idDevnumWrite acc v) s
        (· = { u with id := { u.id with next := d, pending := true } }))) ∧
  (∀ (s : State) (a : Access) (off : BitVec 28) (v : Word32), s.board.alwaysOn = true →
    a.par = .ok ∨ a.par = .portFail →
    let u := s.accessed off.toNat a
    let plain : Access := ⟨a.who, .ok, 0⟩
    exec (.regPairReadLo a off) s = exec (.regPairReadLo plain off) u ∧
    (s.isHi off.toNat = false → exec (.regPairReadHi a off) s = exec (.regPairReadHi plain off) u) ∧
    (s.takesWrite off.toNat = true → s.isLo off.toNat = true →
      exec (.regPairWriteLo a off v) s = exec (.regPairWriteLo plain off v) u) ∧
    (s.takesWrite off.toNat = true → s.isHi off.toNat = true →
      exec (.regPairWriteHi a off v) s = exec (.regPairWriteHi plain off v) u)) ∧
  (∀ (s : State) (a : Access) (off : BitVec 28) (n : SiteNo), a.par = .ok → s.clocked n = true →
    0x100000 ≤ off.toNat → off.toNat < 0x380000 → coreAt off.toNat = n → (s.site n).bubble = false →
    onlySite n s (s.accessed off.toNat a) ∧
    ((s.accessed off.toNat a).site n).cycle = (s.site n).cycle + a.cycles) ∧
  (∀ (s : State) (a : Access) (off : BitVec 28), s.board.alwaysOn = true → s.host.ready = true →
    a.par = .fail → a.cycles = 0 → off ∈ [0x10004, 0x700000, 0x80001C, 0x900004] →
    completes (.regPairReadLo a off) s fun t => logged s t 0x0007 ∧ t.id.parity = satInc s.id.parity ∧
      t.id.errAddr = off ∧ t.sites = s.sites ∧
      ∃ w, t.out = s.out ++ [.regData a.who off w] ∧ w &&& rwBits off.toNat = w)

/-- R477, R478, Table 18.4 and the reset columns of the register tables: what State.reset holds of the state whose reset value the spec gives. The values the model chose itself (fuse contents, the cabling, the first journal record, free, out, pending) are not stated here. -/
def Obligations.ResetValues : Prop :=
  let s := State.reset
  (s.id.lock = false ∧ s.host.lock = false ∧ s.coll.lock = false ∧ s.clk.lock = false ∧ s.pwr.lock = false ∧
    s.ic.lock = false) ∧
  (s.tb = 0 ∧ s.id.dev = 0 ∧ s.id.next = 0 ∧ s.id.pending = false ∧ s.id.valid = false ∧ s.id.parity = 0 ∧
    s.id.copyLost = false ∧ s.id.errAddr = 0) ∧
  (∀ acc lo, s.shadow acc lo = none ∧ s.heldLo acc lo = none) ∧
  (s.host.ready = false ∧ s.host.hbEn = false ∧ s.host.arm = none ∧ s.host.descs = [] ∧
    ∀ r : RingNo, (s.ring r).enable = false ∧ (s.ring r).active = false ∧ (s.ring r).sqBase = 0 ∧
      (s.ring r).cqBase = 0 ∧ (s.ring r).msgAddr = 0 ∧ (s.ring r).msgData = 0 ∧ (s.ring r).sqTail = 0) ∧
  (∀ n : SiteNo, (s.site n).pwr = .off ∧ (s.site n).seq = .idle ∧ (s.site n).pc = 0 ∧ (s.site n).loops = [] ∧
    (s.site n).pend = [] ∧ (s.site n).exc = 0 ∧ (s.site n).excInfo = 0 ∧ (s.site n).wsEcc = 0 ∧
    (s.site n).granEcc = 0 ∧ (s.site n).sillEcc = 0 ∧ (s.site n).psEcc = 0 ∧ (s.site n).cycle = 0 ∧
    (s.site n).slip = 0 ∧ (s.site n).vecFlush = 0 ∧ (s.site n).mirror = 0 ∧ (s.site n).sillFree = 65536 ∧
    (s.site n).vecQ = [] ∧
    (∀ e : EngNo, ((s.site n).eng e).arrayQ = [] ∧ ((s.site n).eng e).inArray = none ∧
      ((s.site n).eng e).waiting = [] ∧ ((s.site n).eng e).cap = 16 ∧ ((s.site n).eng e).flushReg = 0 ∧
      ((s.site n).eng e).issued = 0 ∧ ((s.site n).eng e).busyCount = 0 ∧ ((s.site n).eng e).disagree = 0 ∧
      ∀ b, (((s.site n).eng e).bank b).st = .free) ∧
    (∀ q : Fin 4, (s.site n).queue q = {}) ∧ (∀ r : BitVec 5, (s.site n).sreg r = 0) ∧ (∀ r : BitVec 6, (s.site n).tok r = 0) ∧
    (∀ r, (s.site n).areg r = 0) ∧ ∀ i, ((s.site n).entry i).st = .free) ∧
  (s.coll.dropped = 0 ∧ s.coll.late = 0 ∧ s.coll.remoteFail = 0 ∧ s.coll.sel = 0 ∧ s.coll.resetAccept = false ∧
    (∀ b : BellNo, s.bell b = {}) ∧ (∀ c : Fin 64, (s.tree c).valid = false) ∧ ∀ m, (s.mset m).dests = []) ∧
  (s.ic.hold = false ∧ s.ic.spurious = 0 ∧ s.ic.dropped = 0 ∧ s.ic.seqMask = 0 ∧ ∀ n : SrcNo, (s.src n.val).st = .idle) ∧
  (s.flt.buf = [] ∧ s.flt.overflow = 0 ∧ s.flt.reports = [] ∧ s.flt.jobs = [] ∧ s.flt.recoveries = 0 ∧
    s.flt.failedJobs = 0) ∧
  (∀ h : HamletNo, (s.hamlet h).exists_ = false ∧ (s.hamlet h).memKey = none ∧ (s.hamlet h).hostKey = none) ∧
  (s.sec.busy = false ∧ s.sec.status = 0 ∧ s.sec.outLen = 0 ∧ s.sec.inLen = 0 ∧ s.sec.page = 0 ∧ s.sec.debug = 0) ∧
  (∀ l : LinkNo, (s.link l).st = .absent) ∧ (∀ d : DomainNo, (s.dom d).st = .off ∧ (s.dom d).tel = 0) ∧
  (s.pwr.groupErr = false ∧ s.pwr.totalW = 0 ∧ s.fab.dark = 0 ∧ s.fab.hopRetry = 0 ∧ s.fab.timeouts = 0 ∧
    s.fab.redRetry = 0 ∧ s.board.stage = 0 ∧ s.siteOf 0 = none)
end

