-- ==== Sys2Proof/Laws/Tab.lean ====
section
/-!
SUPPORT. Laws/Tab.lean: sparse stores: a read after a write, the canonical form kept by every write, and
equality of canonical stores that read alike.
-/

namespace Sys2Proof.Machine

/-- A lower bound may be lowered. -/
theorem tsorted_mono {α : Type} {t : Tab α} {a b : Nat} (h : tsorted a t = true) (hab : b ≤ a) :
    tsorted b t = true := by
  cases t with
  | nil => rfl
  | cons p t =>
    simp only [tsorted, Bool.and_eq_true, decide_eq_true_eq] at h ⊢
    exact ⟨by omega, h.2⟩

/-- A key below the lower bound is not listed. -/
theorem tget_below {α : Type} {d : Nat → α} {t : Tab α} {a k : Nat} (h : tsorted a t = true)
    (hk : k < a) : tget d t k = d k := by
  induction t generalizing a with
  | nil => rfl
  | cons p t ih =>
    obtain ⟨j, v⟩ := p
    simp only [tsorted, Bool.and_eq_true, decide_eq_true_eq] at h
    have hj : j ≠ k := by omega
    simp only [tget, if_neg hj]
    exact ih h.2 (by omega)

/-- A key that is deleted holds the default. -/
theorem tget_tdel_same {α : Type} (d : Nat → α) (t : Tab α) (k : Nat) : tget d (tdel t k) k = d k := by
  induction t with
  | nil => rfl
  | cons p t ih =>
    obtain ⟨j, v⟩ := p
    by_cases h : j = k <;> simp [tdel, tget, h, ih]

/-- A deletion leaves every other key. -/
theorem tget_tdel_other {α : Type} (d : Nat → α) (t : Tab α) {k i : Nat} (h : i ≠ k) :
    tget d (tdel t k) i = tget d t i := by
  induction t with
  | nil => rfl
  | cons p t ih =>
    obtain ⟨j, v⟩ := p
    by_cases hj : j = k
    · have : j ≠ i := by omega
      simp [tdel, tget, hj, ih, show ¬ k = i by omega]
    · by_cases hi : j = i <;> simp [tdel, tget, hj, hi, ih]
      subst hi; simp [hj, tget]

/-- A key that is inserted holds its value. -/
theorem tget_tins_same {α : Type} (d : Nat → α) (t : Tab α) (k : Nat) (v : α) :
    tget d (tins t k v) k = v := by
  induction t with
  | nil => simp [tins, tget]
  | cons p t ih =>
    obtain ⟨j, w⟩ := p
    by_cases h : k < j
    · simp [tins, tget, h]
    · by_cases hj : j = k
      · simp [tins, tget, hj]
      · simp [tins, tget, h, hj, ih]

/-- An insertion leaves every other key. -/
theorem tget_tins_other {α : Type} (d : Nat → α) (t : Tab α) {k i : Nat} (v : α) (h : i ≠ k) :
    tget d (tins t k v) i = tget d t i := by
  induction t with
  | nil => simp [tins, tget, show ¬ k = i by omega]
  | cons p t ih =>
    obtain ⟨j, w⟩ := p
    by_cases hk : k < j
    · simp [tins, tget, hk, show ¬ k = i by omega]
    · by_cases hj : j = k
      · subst hj; simp [tins, tget, show ¬ j = i by omega]
      · simp only [tins, if_neg hk, if_neg hj, tget, ih]

/-- A read after a write of the same key. -/
@[simp] theorem tget_tset_same {α : Type} [DecidableEq α] (d : Nat → α) (t : Tab α) (k : Nat) (v : α) :
    tget d (tset d t k v) k = v := by
  by_cases h : v = d k
  · simp [tset, h, tget_tdel_same]
  · simp [tset, h, tget_tins_same]

/-- A write leaves every other key. -/
theorem tget_tset_other {α : Type} [DecidableEq α] (d : Nat → α) (t : Tab α) {k i : Nat} (v : α)
    (h : i ≠ k) : tget d (tset d t k v) i = tget d t i := by
  by_cases hv : v = d k
  · simp [tset, hv, tget_tdel_other d t h]
  · simp [tset, hv, tget_tins_other d t v h]

/-- A deletion keeps keys rising. -/
theorem tsorted_tdel {α : Type} {t : Tab α} {a : Nat} (k : Nat) (h : tsorted a t = true) :
    tsorted a (tdel t k) = true := by
  induction t generalizing a with
  | nil => rfl
  | cons p t ih =>
    obtain ⟨j, v⟩ := p
    simp only [tsorted, Bool.and_eq_true, decide_eq_true_eq] at h
    by_cases hj : j = k
    · simp only [tdel, if_pos hj]
      exact tsorted_mono (ih h.2) (by omega)
    · simp only [tdel, if_neg hj, tsorted, Bool.and_eq_true, decide_eq_true_eq]
      exact ⟨h.1, ih h.2⟩

/-- An insertion keeps keys rising. -/
theorem tsorted_tins {α : Type} {t : Tab α} {a : Nat} (k : Nat) (v : α) (h : tsorted a t = true)
    (hk : a ≤ k) : tsorted a (tins t k v) = true := by
  induction t generalizing a with
  | nil => simp [tins, tsorted, hk]
  | cons p t ih =>
    obtain ⟨j, w⟩ := p
    simp only [tsorted, Bool.and_eq_true, decide_eq_true_eq] at h
    by_cases h1 : k < j
    · simp only [tins, if_pos h1, tsorted, Bool.and_eq_true, decide_eq_true_eq]
      exact ⟨hk, by omega, h.2⟩
    · by_cases h2 : j = k
      · subst h2
        simp only [tins, if_neg h1, if_true, tsorted, Bool.and_eq_true, decide_eq_true_eq]
        exact ⟨hk, h.2⟩
      · simp only [tins, if_neg h1, if_neg h2, tsorted, Bool.and_eq_true, decide_eq_true_eq]
        exact ⟨h.1, ih h.2 (by omega)⟩

/-- A deletion lists nothing new. -/
theorem mem_tdel {α : Type} {t : Tab α} {k : Nat} {p : Nat × α} (h : p ∈ tdel t k) : p ∈ t := by
  induction t with
  | nil => exact h
  | cons q t ih =>
    obtain ⟨j, v⟩ := q
    by_cases hj : j = k
    · simp only [tdel, if_pos hj] at h
      exact List.mem_cons_of_mem _ (ih h)
    · simp only [tdel, if_neg hj, List.mem_cons] at h ⊢
      exact h.imp id ih

/-- An insertion lists only its own entry anew. -/
theorem mem_tins {α : Type} {t : Tab α} {k : Nat} {v : α} {p : Nat × α} (h : p ∈ tins t k v) :
    p = (k, v) ∨ p ∈ t := by
  induction t with
  | nil => simpa [tins] using h
  | cons q t ih =>
    obtain ⟨j, w⟩ := q
    by_cases h1 : k < j
    · simp only [tins, if_pos h1, List.mem_cons] at h
      simpa using h
    · by_cases h2 : j = k
      · simp only [tins, if_neg h1, if_pos h2, List.mem_cons] at h
        exact h.imp id (fun h => List.mem_cons_of_mem _ h)
      · simp only [tins, if_neg h1, if_neg h2, List.mem_cons] at h
        rcases h with h | h
        · exact .inr (by simp [h])
        · exact (ih h).imp id (fun h => List.mem_cons_of_mem _ h)

/-- A write keeps the canonical form. -/
theorem twf_tset {α : Type} [DecidableEq α] {d : Nat → α} {t : Tab α} (k : Nat) (v : α)
    (h : twf d t = true) : twf d (tset d t k v) = true := by
  simp only [twf, Bool.and_eq_true, List.all_eq_true, decide_eq_true_eq] at h ⊢
  by_cases hv : v = d k
  · simp only [tset, if_pos hv]
    exact ⟨tsorted_tdel k h.1, fun p hp => h.2 p (mem_tdel hp)⟩
  · simp only [tset, if_neg hv]
    refine ⟨tsorted_tins k v h.1 (Nat.zero_le k), fun p hp => ?_⟩
    rcases mem_tins hp with rfl | hp
    · exact hv
    · exact h.2 p hp

/-- A write of several bytes keeps the canonical form. -/
theorem Memory.wf_tput {d : Nat → Byte} {m : Tab Byte} (k : Nat) (bs : List Byte)
    (h : Memory.wf d m = true) : Memory.wf d (tput d m k bs) = true := by
  induction bs generalizing m k with
  | nil => exact h
  | cons b bs ih => exact ih (k + 1) (twf_tset k b h)

/-- The empty store is canonical. -/
@[simp] theorem twf_nil {α : Type} [DecidableEq α] (d : Nat → α) : twf d [] = true := rfl

/-- A key outside what is written reads as before. -/
theorem tget_tput_other {d : Nat → Byte} {m : Tab Byte} {k i : Nat} (bs : List Byte)
    (h : i < k ∨ k + bs.length ≤ i) : tget d (tput d m k bs) i = tget d m i := by
  induction bs generalizing m k with
  | nil => rfl
  | cons b bs ih =>
    simp only [List.length_cons] at h
    simp only [tput]
    rw [ih (by omega), tget_tset_other d m b (by omega)]

/-- A read of what was written. -/
theorem tbytes_tput {d : Nat → Byte} {m : Tab Byte} (k : Nat) (bs : List Byte) :
    tbytes d (tput d m k bs) k bs.length = bs := by
  induction bs generalizing m k with
  | nil => rfl
  | cons b bs ih =>
    simp only [tput, List.length_cons, tbytes]
    rw [tget_tput_other bs (.inl (Nat.lt_succ_self k)), tget_tset_same, ih (k + 1)]

end Sys2Proof.Machine
end

