-- ==== Sys2Proof/Laws/Site.lean ====
section
/-!
SUPPORT. Laws/Site.lean: the parts of a core site and of an engine: a read after a write.
-/

namespace Sys2Proof.Machine

theorem val_ne {n : Nat} {a b : Fin n} (h : a ≠ b) : a.val ≠ b.val := fun e => h (Fin.ext e)

@[simp] theorem Site.eng_setEng_same (c : Site) (e : EngNo) (v : Engine) : (c.setEng e v).eng e = v :=
  tget_tset_same _ _ _ _
theorem Site.eng_setEng_other (c : Site) {e x : EngNo} (v : Engine) (h : x ≠ e) :
    (c.setEng e v).eng x = c.eng x := tget_tset_other _ _ _ (val_ne h)
@[simp] theorem Site.eng_modEng_same (c : Site) (e : EngNo) (f : Engine → Engine) :
    (c.modEng e f).eng e = f (c.eng e) := Site.eng_setEng_same _ _ _
theorem Site.eng_modEng_other (c : Site) {e x : EngNo} (f : Engine → Engine) (h : x ≠ e) :
    (c.modEng e f).eng x = c.eng x := Site.eng_setEng_other _ _ h

@[simp] theorem Site.queue_setQueue_same (c : Site) (q : Fin 4) (v : CopyQueue) :
    (c.setQueue q v).queue q = v := tget_tset_same _ _ _ _
theorem Site.queue_setQueue_other (c : Site) {q x : Fin 4} (v : CopyQueue) (h : x ≠ q) :
    (c.setQueue q v).queue x = c.queue x := tget_tset_other _ _ _ (val_ne h)

@[simp] theorem Site.entry_setEntry_same (c : Site) (i : Nat) (v : SillEntry) :
    (c.setEntry i v).entry i = v := tget_tset_same _ _ _ _
theorem Site.entry_setEntry_other (c : Site) {i k : Nat} (v : SillEntry) (h : k ≠ i) :
    (c.setEntry i v).entry k = c.entry k := tget_tset_other _ _ _ h

@[simp] theorem Engine.plane_setPlane_same (e : Engine) (p : Bool) (v : Plane) : (e.setPlane p v).plane p = v :=
  tget_tset_same _ _ _ _
theorem Engine.plane_setPlane_other (e : Engine) {p q : Bool} (v : Plane) (h : q ≠ p) :
    (e.setPlane p v).plane q = e.plane q := tget_tset_other _ _ _ (by cases p <;> cases q <;> simp_all)

@[simp] theorem Engine.half_setHalf_same (e : Engine) (p : Bool) (v : Half) : (e.setHalf p v).half p = v :=
  tget_tset_same _ _ _ _
theorem Engine.half_setHalf_other (e : Engine) {p q : Bool} (v : Half) (h : q ≠ p) :
    (e.setHalf p v).half q = e.half q := tget_tset_other _ _ _ (by cases p <;> cases q <;> simp_all)

@[simp] theorem Engine.bank_setBank_same (e : Engine) (b : Fin 4) (v : Bank) : (e.setBank b v).bank b = v :=
  tget_tset_same _ _ _ _
theorem Engine.bank_setBank_other (e : Engine) {b x : Fin 4} (v : Bank) (h : x ≠ b) :
    (e.setBank b v).bank x = e.bank x := tget_tset_other _ _ _ (val_ne h)

end Sys2Proof.Machine
end

