-- ==== Sys2Proof/Laws/State.lean ====
section
/-!
SUPPORT. Laws/State.lean: what each named update of the state leaves of each field, and a read of a part
after a write of it.
-/

namespace Sys2Proof.Machine

/-! ### Fields an update leaves -/

@[simp] theorem State.setSite_fuses (s : State) (n : SiteNo) (v : Site) : (s.setSite n v).fuses = s.fuses := rfl
@[simp] theorem State.setSite_id (s : State) (n : SiteNo) (v : Site) : (s.setSite n v).id = s.id := rfl
@[simp] theorem State.setSite_shadows (s : State) (n : SiteNo) (v : Site) : (s.setSite n v).shadows = s.shadows := rfl
@[simp] theorem State.setSite_helds (s : State) (n : SiteNo) (v : Site) : (s.setSite n v).helds = s.helds := rfl
@[simp] theorem State.setSite_tb (s : State) (n : SiteNo) (v : Site) : (s.setSite n v).tb = s.tb := rfl
@[simp] theorem State.setSite_groupN (s : State) (n : SiteNo) (v : Site) : (s.setSite n v).groupN = s.groupN := rfl
@[simp] theorem State.setSite_groupH (s : State) (n : SiteNo) (v : Site) : (s.setSite n v).groupH = s.groupH := rfl
@[simp] theorem State.setSite_groupNarrow (s : State) (n : SiteNo) (v : Site) : (s.setSite n v).groupNarrow = s.groupNarrow := rfl
@[simp] theorem State.setSite_role (s : State) (n : SiteNo) (v : Site) : (s.setSite n v).role = s.role := rfl
@[simp] theorem State.setSite_coreMap (s : State) (n : SiteNo) (v : Site) : (s.setSite n v).coreMap = s.coreMap := rfl
@[simp] theorem State.setSite_fab (s : State) (n : SiteNo) (v : Site) : (s.setSite n v).fab = s.fab := rfl
@[simp] theorem State.setSite_mem (s : State) (n : SiteNo) (v : Site) : (s.setSite n v).mem = s.mem := rfl
@[simp] theorem State.setSite_links (s : State) (n : SiteNo) (v : Site) : (s.setSite n v).links = s.links := rfl
@[simp] theorem State.setSite_coll (s : State) (n : SiteNo) (v : Site) : (s.setSite n v).coll = s.coll := rfl
@[simp] theorem State.setSite_host (s : State) (n : SiteNo) (v : Site) : (s.setSite n v).host = s.host := rfl
@[simp] theorem State.setSite_clk (s : State) (n : SiteNo) (v : Site) : (s.setSite n v).clk = s.clk := rfl
@[simp] theorem State.setSite_pwr (s : State) (n : SiteNo) (v : Site) : (s.setSite n v).pwr = s.pwr := rfl
@[simp] theorem State.setSite_ic (s : State) (n : SiteNo) (v : Site) : (s.setSite n v).ic = s.ic := rfl
@[simp] theorem State.setSite_flt (s : State) (n : SiteNo) (v : Site) : (s.setSite n v).flt = s.flt := rfl
@[simp] theorem State.setSite_sec (s : State) (n : SiteNo) (v : Site) : (s.setSite n v).sec = s.sec := rfl
@[simp] theorem State.setSite_jrnl (s : State) (n : SiteNo) (v : Site) : (s.setSite n v).jrnl = s.jrnl := rfl
@[simp] theorem State.setSite_board (s : State) (n : SiteNo) (v : Site) : (s.setSite n v).board = s.board := rfl
@[simp] theorem State.setSite_free (s : State) (n : SiteNo) (v : Site) : (s.setSite n v).free = s.free := rfl
@[simp] theorem State.setSite_out (s : State) (n : SiteNo) (v : Site) : (s.setSite n v).out = s.out := rfl
@[simp] theorem State.setSite_pending (s : State) (n : SiteNo) (v : Site) : (s.setSite n v).pending = s.pending := rfl

@[simp] theorem State.modSite_fuses (s : State) (n : SiteNo) (f : Site → Site) : (s.modSite n f).fuses = s.fuses := rfl
@[simp] theorem State.modSite_id (s : State) (n : SiteNo) (f : Site → Site) : (s.modSite n f).id = s.id := rfl
@[simp] theorem State.modSite_shadows (s : State) (n : SiteNo) (f : Site → Site) : (s.modSite n f).shadows = s.shadows := rfl
@[simp] theorem State.modSite_helds (s : State) (n : SiteNo) (f : Site → Site) : (s.modSite n f).helds = s.helds := rfl
@[simp] theorem State.modSite_tb (s : State) (n : SiteNo) (f : Site → Site) : (s.modSite n f).tb = s.tb := rfl
@[simp] theorem State.modSite_groupN (s : State) (n : SiteNo) (f : Site → Site) : (s.modSite n f).groupN = s.groupN := rfl
@[simp] theorem State.modSite_groupH (s : State) (n : SiteNo) (f : Site → Site) : (s.modSite n f).groupH = s.groupH := rfl
@[simp] theorem State.modSite_groupNarrow (s : State) (n : SiteNo) (f : Site → Site) : (s.modSite n f).groupNarrow = s.groupNarrow := rfl
@[simp] theorem State.modSite_role (s : State) (n : SiteNo) (f : Site → Site) : (s.modSite n f).role = s.role := rfl
@[simp] theorem State.modSite_coreMap (s : State) (n : SiteNo) (f : Site → Site) : (s.modSite n f).coreMap = s.coreMap := rfl
@[simp] theorem State.modSite_fab (s : State) (n : SiteNo) (f : Site → Site) : (s.modSite n f).fab = s.fab := rfl
@[simp] theorem State.modSite_mem (s : State) (n : SiteNo) (f : Site → Site) : (s.modSite n f).mem = s.mem := rfl
@[simp] theorem State.modSite_links (s : State) (n : SiteNo) (f : Site → Site) : (s.modSite n f).links = s.links := rfl
@[simp] theorem State.modSite_coll (s : State) (n : SiteNo) (f : Site → Site) : (s.modSite n f).coll = s.coll := rfl
@[simp] theorem State.modSite_host (s : State) (n : SiteNo) (f : Site → Site) : (s.modSite n f).host = s.host := rfl
@[simp] theorem State.modSite_clk (s : State) (n : SiteNo) (f : Site → Site) : (s.modSite n f).clk = s.clk := rfl
@[simp] theorem State.modSite_pwr (s : State) (n : SiteNo) (f : Site → Site) : (s.modSite n f).pwr = s.pwr := rfl
@[simp] theorem State.modSite_ic (s : State) (n : SiteNo) (f : Site → Site) : (s.modSite n f).ic = s.ic := rfl
@[simp] theorem State.modSite_flt (s : State) (n : SiteNo) (f : Site → Site) : (s.modSite n f).flt = s.flt := rfl
@[simp] theorem State.modSite_sec (s : State) (n : SiteNo) (f : Site → Site) : (s.modSite n f).sec = s.sec := rfl
@[simp] theorem State.modSite_jrnl (s : State) (n : SiteNo) (f : Site → Site) : (s.modSite n f).jrnl = s.jrnl := rfl
@[simp] theorem State.modSite_board (s : State) (n : SiteNo) (f : Site → Site) : (s.modSite n f).board = s.board := rfl
@[simp] theorem State.modSite_free (s : State) (n : SiteNo) (f : Site → Site) : (s.modSite n f).free = s.free := rfl
@[simp] theorem State.modSite_out (s : State) (n : SiteNo) (f : Site → Site) : (s.modSite n f).out = s.out := rfl
@[simp] theorem State.modSite_pending (s : State) (n : SiteNo) (f : Site → Site) : (s.modSite n f).pending = s.pending := rfl

@[simp] theorem State.setLink_fuses (s : State) (l : LinkNo) (v : Link) : (s.setLink l v).fuses = s.fuses := rfl
@[simp] theorem State.setLink_id (s : State) (l : LinkNo) (v : Link) : (s.setLink l v).id = s.id := rfl
@[simp] theorem State.setLink_shadows (s : State) (l : LinkNo) (v : Link) : (s.setLink l v).shadows = s.shadows := rfl
@[simp] theorem State.setLink_helds (s : State) (l : LinkNo) (v : Link) : (s.setLink l v).helds = s.helds := rfl
@[simp] theorem State.setLink_tb (s : State) (l : LinkNo) (v : Link) : (s.setLink l v).tb = s.tb := rfl
@[simp] theorem State.setLink_groupN (s : State) (l : LinkNo) (v : Link) : (s.setLink l v).groupN = s.groupN := rfl
@[simp] theorem State.setLink_groupH (s : State) (l : LinkNo) (v : Link) : (s.setLink l v).groupH = s.groupH := rfl
@[simp] theorem State.setLink_groupNarrow (s : State) (l : LinkNo) (v : Link) : (s.setLink l v).groupNarrow = s.groupNarrow := rfl
@[simp] theorem State.setLink_role (s : State) (l : LinkNo) (v : Link) : (s.setLink l v).role = s.role := rfl
@[simp] theorem State.setLink_coreMap (s : State) (l : LinkNo) (v : Link) : (s.setLink l v).coreMap = s.coreMap := rfl
@[simp] theorem State.setLink_sites (s : State) (l : LinkNo) (v : Link) : (s.setLink l v).sites = s.sites := rfl
@[simp] theorem State.setLink_fab (s : State) (l : LinkNo) (v : Link) : (s.setLink l v).fab = s.fab := rfl
@[simp] theorem State.setLink_mem (s : State) (l : LinkNo) (v : Link) : (s.setLink l v).mem = s.mem := rfl
@[simp] theorem State.setLink_coll (s : State) (l : LinkNo) (v : Link) : (s.setLink l v).coll = s.coll := rfl
@[simp] theorem State.setLink_host (s : State) (l : LinkNo) (v : Link) : (s.setLink l v).host = s.host := rfl
@[simp] theorem State.setLink_clk (s : State) (l : LinkNo) (v : Link) : (s.setLink l v).clk = s.clk := rfl
@[simp] theorem State.setLink_pwr (s : State) (l : LinkNo) (v : Link) : (s.setLink l v).pwr = s.pwr := rfl
@[simp] theorem State.setLink_ic (s : State) (l : LinkNo) (v : Link) : (s.setLink l v).ic = s.ic := rfl
@[simp] theorem State.setLink_flt (s : State) (l : LinkNo) (v : Link) : (s.setLink l v).flt = s.flt := rfl
@[simp] theorem State.setLink_sec (s : State) (l : LinkNo) (v : Link) : (s.setLink l v).sec = s.sec := rfl
@[simp] theorem State.setLink_jrnl (s : State) (l : LinkNo) (v : Link) : (s.setLink l v).jrnl = s.jrnl := rfl
@[simp] theorem State.setLink_board (s : State) (l : LinkNo) (v : Link) : (s.setLink l v).board = s.board := rfl
@[simp] theorem State.setLink_free (s : State) (l : LinkNo) (v : Link) : (s.setLink l v).free = s.free := rfl
@[simp] theorem State.setLink_out (s : State) (l : LinkNo) (v : Link) : (s.setLink l v).out = s.out := rfl
@[simp] theorem State.setLink_pending (s : State) (l : LinkNo) (v : Link) : (s.setLink l v).pending = s.pending := rfl

@[simp] theorem State.modLink_fuses (s : State) (l : LinkNo) (f : Link → Link) : (s.modLink l f).fuses = s.fuses := rfl
@[simp] theorem State.modLink_id (s : State) (l : LinkNo) (f : Link → Link) : (s.modLink l f).id = s.id := rfl
@[simp] theorem State.modLink_shadows (s : State) (l : LinkNo) (f : Link → Link) : (s.modLink l f).shadows = s.shadows := rfl
@[simp] theorem State.modLink_helds (s : State) (l : LinkNo) (f : Link → Link) : (s.modLink l f).helds = s.helds := rfl
@[simp] theorem State.modLink_tb (s : State) (l : LinkNo) (f : Link → Link) : (s.modLink l f).tb = s.tb := rfl
@[simp] theorem State.modLink_groupN (s : State) (l : LinkNo) (f : Link → Link) : (s.modLink l f).groupN = s.groupN := rfl
@[simp] theorem State.modLink_groupH (s : State) (l : LinkNo) (f : Link → Link) : (s.modLink l f).groupH = s.groupH := rfl
@[simp] theorem State.modLink_groupNarrow (s : State) (l : LinkNo) (f : Link → Link) : (s.modLink l f).groupNarrow = s.groupNarrow := rfl
@[simp] theorem State.modLink_role (s : State) (l : LinkNo) (f : Link → Link) : (s.modLink l f).role = s.role := rfl
@[simp] theorem State.modLink_coreMap (s : State) (l : LinkNo) (f : Link → Link) : (s.modLink l f).coreMap = s.coreMap := rfl
@[simp] theorem State.modLink_sites (s : State) (l : LinkNo) (f : Link → Link) : (s.modLink l f).sites = s.sites := rfl
@[simp] theorem State.modLink_fab (s : State) (l : LinkNo) (f : Link → Link) : (s.modLink l f).fab = s.fab := rfl
@[simp] theorem State.modLink_mem (s : State) (l : LinkNo) (f : Link → Link) : (s.modLink l f).mem = s.mem := rfl
@[simp] theorem State.modLink_coll (s : State) (l : LinkNo) (f : Link → Link) : (s.modLink l f).coll = s.coll := rfl
@[simp] theorem State.modLink_host (s : State) (l : LinkNo) (f : Link → Link) : (s.modLink l f).host = s.host := rfl
@[simp] theorem State.modLink_clk (s : State) (l : LinkNo) (f : Link → Link) : (s.modLink l f).clk = s.clk := rfl
@[simp] theorem State.modLink_pwr (s : State) (l : LinkNo) (f : Link → Link) : (s.modLink l f).pwr = s.pwr := rfl
@[simp] theorem State.modLink_ic (s : State) (l : LinkNo) (f : Link → Link) : (s.modLink l f).ic = s.ic := rfl
@[simp] theorem State.modLink_flt (s : State) (l : LinkNo) (f : Link → Link) : (s.modLink l f).flt = s.flt := rfl
@[simp] theorem State.modLink_sec (s : State) (l : LinkNo) (f : Link → Link) : (s.modLink l f).sec = s.sec := rfl
@[simp] theorem State.modLink_jrnl (s : State) (l : LinkNo) (f : Link → Link) : (s.modLink l f).jrnl = s.jrnl := rfl
@[simp] theorem State.modLink_board (s : State) (l : LinkNo) (f : Link → Link) : (s.modLink l f).board = s.board := rfl
@[simp] theorem State.modLink_free (s : State) (l : LinkNo) (f : Link → Link) : (s.modLink l f).free = s.free := rfl
@[simp] theorem State.modLink_out (s : State) (l : LinkNo) (f : Link → Link) : (s.modLink l f).out = s.out := rfl
@[simp] theorem State.modLink_pending (s : State) (l : LinkNo) (f : Link → Link) : (s.modLink l f).pending = s.pending := rfl

@[simp] theorem State.setBell_fuses (s : State) (b : BellNo) (v : Bell) : (s.setBell b v).fuses = s.fuses := rfl
@[simp] theorem State.setBell_id (s : State) (b : BellNo) (v : Bell) : (s.setBell b v).id = s.id := rfl
@[simp] theorem State.setBell_shadows (s : State) (b : BellNo) (v : Bell) : (s.setBell b v).shadows = s.shadows := rfl
@[simp] theorem State.setBell_helds (s : State) (b : BellNo) (v : Bell) : (s.setBell b v).helds = s.helds := rfl
@[simp] theorem State.setBell_tb (s : State) (b : BellNo) (v : Bell) : (s.setBell b v).tb = s.tb := rfl
@[simp] theorem State.setBell_groupN (s : State) (b : BellNo) (v : Bell) : (s.setBell b v).groupN = s.groupN := rfl
@[simp] theorem State.setBell_groupH (s : State) (b : BellNo) (v : Bell) : (s.setBell b v).groupH = s.groupH := rfl
@[simp] theorem State.setBell_groupNarrow (s : State) (b : BellNo) (v : Bell) : (s.setBell b v).groupNarrow = s.groupNarrow := rfl
@[simp] theorem State.setBell_role (s : State) (b : BellNo) (v : Bell) : (s.setBell b v).role = s.role := rfl
@[simp] theorem State.setBell_coreMap (s : State) (b : BellNo) (v : Bell) : (s.setBell b v).coreMap = s.coreMap := rfl
@[simp] theorem State.setBell_sites (s : State) (b : BellNo) (v : Bell) : (s.setBell b v).sites = s.sites := rfl
@[simp] theorem State.setBell_fab (s : State) (b : BellNo) (v : Bell) : (s.setBell b v).fab = s.fab := rfl
@[simp] theorem State.setBell_mem (s : State) (b : BellNo) (v : Bell) : (s.setBell b v).mem = s.mem := rfl
@[simp] theorem State.setBell_links (s : State) (b : BellNo) (v : Bell) : (s.setBell b v).links = s.links := rfl
@[simp] theorem State.setBell_host (s : State) (b : BellNo) (v : Bell) : (s.setBell b v).host = s.host := rfl
@[simp] theorem State.setBell_clk (s : State) (b : BellNo) (v : Bell) : (s.setBell b v).clk = s.clk := rfl
@[simp] theorem State.setBell_pwr (s : State) (b : BellNo) (v : Bell) : (s.setBell b v).pwr = s.pwr := rfl
@[simp] theorem State.setBell_ic (s : State) (b : BellNo) (v : Bell) : (s.setBell b v).ic = s.ic := rfl
@[simp] theorem State.setBell_flt (s : State) (b : BellNo) (v : Bell) : (s.setBell b v).flt = s.flt := rfl
@[simp] theorem State.setBell_sec (s : State) (b : BellNo) (v : Bell) : (s.setBell b v).sec = s.sec := rfl
@[simp] theorem State.setBell_jrnl (s : State) (b : BellNo) (v : Bell) : (s.setBell b v).jrnl = s.jrnl := rfl
@[simp] theorem State.setBell_board (s : State) (b : BellNo) (v : Bell) : (s.setBell b v).board = s.board := rfl
@[simp] theorem State.setBell_free (s : State) (b : BellNo) (v : Bell) : (s.setBell b v).free = s.free := rfl
@[simp] theorem State.setBell_out (s : State) (b : BellNo) (v : Bell) : (s.setBell b v).out = s.out := rfl
@[simp] theorem State.setBell_pending (s : State) (b : BellNo) (v : Bell) : (s.setBell b v).pending = s.pending := rfl

@[simp] theorem State.setRing_fuses (s : State) (r : RingNo) (v : Ring) : (s.setRing r v).fuses = s.fuses := rfl
@[simp] theorem State.setRing_id (s : State) (r : RingNo) (v : Ring) : (s.setRing r v).id = s.id := rfl
@[simp] theorem State.setRing_shadows (s : State) (r : RingNo) (v : Ring) : (s.setRing r v).shadows = s.shadows := rfl
@[simp] theorem State.setRing_helds (s : State) (r : RingNo) (v : Ring) : (s.setRing r v).helds = s.helds := rfl
@[simp] theorem State.setRing_tb (s : State) (r : RingNo) (v : Ring) : (s.setRing r v).tb = s.tb := rfl
@[simp] theorem State.setRing_groupN (s : State) (r : RingNo) (v : Ring) : (s.setRing r v).groupN = s.groupN := rfl
@[simp] theorem State.setRing_groupH (s : State) (r : RingNo) (v : Ring) : (s.setRing r v).groupH = s.groupH := rfl
@[simp] theorem State.setRing_groupNarrow (s : State) (r : RingNo) (v : Ring) : (s.setRing r v).groupNarrow = s.groupNarrow := rfl
@[simp] theorem State.setRing_role (s : State) (r : RingNo) (v : Ring) : (s.setRing r v).role = s.role := rfl
@[simp] theorem State.setRing_coreMap (s : State) (r : RingNo) (v : Ring) : (s.setRing r v).coreMap = s.coreMap := rfl
@[simp] theorem State.setRing_sites (s : State) (r : RingNo) (v : Ring) : (s.setRing r v).sites = s.sites := rfl
@[simp] theorem State.setRing_fab (s : State) (r : RingNo) (v : Ring) : (s.setRing r v).fab = s.fab := rfl
@[simp] theorem State.setRing_mem (s : State) (r : RingNo) (v : Ring) : (s.setRing r v).mem = s.mem := rfl
@[simp] theorem State.setRing_links (s : State) (r : RingNo) (v : Ring) : (s.setRing r v).links = s.links := rfl
@[simp] theorem State.setRing_coll (s : State) (r : RingNo) (v : Ring) : (s.setRing r v).coll = s.coll := rfl
@[simp] theorem State.setRing_clk (s : State) (r : RingNo) (v : Ring) : (s.setRing r v).clk = s.clk := rfl
@[simp] theorem State.setRing_pwr (s : State) (r : RingNo) (v : Ring) : (s.setRing r v).pwr = s.pwr := rfl
@[simp] theorem State.setRing_ic (s : State) (r : RingNo) (v : Ring) : (s.setRing r v).ic = s.ic := rfl
@[simp] theorem State.setRing_flt (s : State) (r : RingNo) (v : Ring) : (s.setRing r v).flt = s.flt := rfl
@[simp] theorem State.setRing_sec (s : State) (r : RingNo) (v : Ring) : (s.setRing r v).sec = s.sec := rfl
@[simp] theorem State.setRing_jrnl (s : State) (r : RingNo) (v : Ring) : (s.setRing r v).jrnl = s.jrnl := rfl
@[simp] theorem State.setRing_board (s : State) (r : RingNo) (v : Ring) : (s.setRing r v).board = s.board := rfl
@[simp] theorem State.setRing_free (s : State) (r : RingNo) (v : Ring) : (s.setRing r v).free = s.free := rfl
@[simp] theorem State.setRing_out (s : State) (r : RingNo) (v : Ring) : (s.setRing r v).out = s.out := rfl
@[simp] theorem State.setRing_pending (s : State) (r : RingNo) (v : Ring) : (s.setRing r v).pending = s.pending := rfl

@[simp] theorem State.modRing_fuses (s : State) (r : RingNo) (f : Ring → Ring) : (s.modRing r f).fuses = s.fuses := rfl
@[simp] theorem State.modRing_id (s : State) (r : RingNo) (f : Ring → Ring) : (s.modRing r f).id = s.id := rfl
@[simp] theorem State.modRing_shadows (s : State) (r : RingNo) (f : Ring → Ring) : (s.modRing r f).shadows = s.shadows := rfl
@[simp] theorem State.modRing_helds (s : State) (r : RingNo) (f : Ring → Ring) : (s.modRing r f).helds = s.helds := rfl
@[simp] theorem State.modRing_tb (s : State) (r : RingNo) (f : Ring → Ring) : (s.modRing r f).tb = s.tb := rfl
@[simp] theorem State.modRing_groupN (s : State) (r : RingNo) (f : Ring → Ring) : (s.modRing r f).groupN = s.groupN := rfl
@[simp] theorem State.modRing_groupH (s : State) (r : RingNo) (f : Ring → Ring) : (s.modRing r f).groupH = s.groupH := rfl
@[simp] theorem State.modRing_groupNarrow (s : State) (r : RingNo) (f : Ring → Ring) : (s.modRing r f).groupNarrow = s.groupNarrow := rfl
@[simp] theorem State.modRing_role (s : State) (r : RingNo) (f : Ring → Ring) : (s.modRing r f).role = s.role := rfl
@[simp] theorem State.modRing_coreMap (s : State) (r : RingNo) (f : Ring → Ring) : (s.modRing r f).coreMap = s.coreMap := rfl
@[simp] theorem State.modRing_sites (s : State) (r : RingNo) (f : Ring → Ring) : (s.modRing r f).sites = s.sites := rfl
@[simp] theorem State.modRing_fab (s : State) (r : RingNo) (f : Ring → Ring) : (s.modRing r f).fab = s.fab := rfl
@[simp] theorem State.modRing_mem (s : State) (r : RingNo) (f : Ring → Ring) : (s.modRing r f).mem = s.mem := rfl
@[simp] theorem State.modRing_links (s : State) (r : RingNo) (f : Ring → Ring) : (s.modRing r f).links = s.links := rfl
@[simp] theorem State.modRing_coll (s : State) (r : RingNo) (f : Ring → Ring) : (s.modRing r f).coll = s.coll := rfl
@[simp] theorem State.modRing_clk (s : State) (r : RingNo) (f : Ring → Ring) : (s.modRing r f).clk = s.clk := rfl
@[simp] theorem State.modRing_pwr (s : State) (r : RingNo) (f : Ring → Ring) : (s.modRing r f).pwr = s.pwr := rfl
@[simp] theorem State.modRing_ic (s : State) (r : RingNo) (f : Ring → Ring) : (s.modRing r f).ic = s.ic := rfl
@[simp] theorem State.modRing_flt (s : State) (r : RingNo) (f : Ring → Ring) : (s.modRing r f).flt = s.flt := rfl
@[simp] theorem State.modRing_sec (s : State) (r : RingNo) (f : Ring → Ring) : (s.modRing r f).sec = s.sec := rfl
@[simp] theorem State.modRing_jrnl (s : State) (r : RingNo) (f : Ring → Ring) : (s.modRing r f).jrnl = s.jrnl := rfl
@[simp] theorem State.modRing_board (s : State) (r : RingNo) (f : Ring → Ring) : (s.modRing r f).board = s.board := rfl
@[simp] theorem State.modRing_free (s : State) (r : RingNo) (f : Ring → Ring) : (s.modRing r f).free = s.free := rfl
@[simp] theorem State.modRing_out (s : State) (r : RingNo) (f : Ring → Ring) : (s.modRing r f).out = s.out := rfl
@[simp] theorem State.modRing_pending (s : State) (r : RingNo) (f : Ring → Ring) : (s.modRing r f).pending = s.pending := rfl

@[simp] theorem State.setRegion_fuses (s : State) (n : RegionNo) (v : Region) : (s.setRegion n v).fuses = s.fuses := rfl
@[simp] theorem State.setRegion_id (s : State) (n : RegionNo) (v : Region) : (s.setRegion n v).id = s.id := rfl
@[simp] theorem State.setRegion_shadows (s : State) (n : RegionNo) (v : Region) : (s.setRegion n v).shadows = s.shadows := rfl
@[simp] theorem State.setRegion_helds (s : State) (n : RegionNo) (v : Region) : (s.setRegion n v).helds = s.helds := rfl
@[simp] theorem State.setRegion_tb (s : State) (n : RegionNo) (v : Region) : (s.setRegion n v).tb = s.tb := rfl
@[simp] theorem State.setRegion_groupN (s : State) (n : RegionNo) (v : Region) : (s.setRegion n v).groupN = s.groupN := rfl
@[simp] theorem State.setRegion_groupH (s : State) (n : RegionNo) (v : Region) : (s.setRegion n v).groupH = s.groupH := rfl
@[simp] theorem State.setRegion_groupNarrow (s : State) (n : RegionNo) (v : Region) : (s.setRegion n v).groupNarrow = s.groupNarrow := rfl
@[simp] theorem State.setRegion_role (s : State) (n : RegionNo) (v : Region) : (s.setRegion n v).role = s.role := rfl
@[simp] theorem State.setRegion_coreMap (s : State) (n : RegionNo) (v : Region) : (s.setRegion n v).coreMap = s.coreMap := rfl
@[simp] theorem State.setRegion_sites (s : State) (n : RegionNo) (v : Region) : (s.setRegion n v).sites = s.sites := rfl
@[simp] theorem State.setRegion_fab (s : State) (n : RegionNo) (v : Region) : (s.setRegion n v).fab = s.fab := rfl
@[simp] theorem State.setRegion_mem (s : State) (n : RegionNo) (v : Region) : (s.setRegion n v).mem = s.mem := rfl
@[simp] theorem State.setRegion_links (s : State) (n : RegionNo) (v : Region) : (s.setRegion n v).links = s.links := rfl
@[simp] theorem State.setRegion_coll (s : State) (n : RegionNo) (v : Region) : (s.setRegion n v).coll = s.coll := rfl
@[simp] theorem State.setRegion_host (s : State) (n : RegionNo) (v : Region) : (s.setRegion n v).host = s.host := rfl
@[simp] theorem State.setRegion_pwr (s : State) (n : RegionNo) (v : Region) : (s.setRegion n v).pwr = s.pwr := rfl
@[simp] theorem State.setRegion_ic (s : State) (n : RegionNo) (v : Region) : (s.setRegion n v).ic = s.ic := rfl
@[simp] theorem State.setRegion_flt (s : State) (n : RegionNo) (v : Region) : (s.setRegion n v).flt = s.flt := rfl
@[simp] theorem State.setRegion_sec (s : State) (n : RegionNo) (v : Region) : (s.setRegion n v).sec = s.sec := rfl
@[simp] theorem State.setRegion_jrnl (s : State) (n : RegionNo) (v : Region) : (s.setRegion n v).jrnl = s.jrnl := rfl
@[simp] theorem State.setRegion_board (s : State) (n : RegionNo) (v : Region) : (s.setRegion n v).board = s.board := rfl
@[simp] theorem State.setRegion_free (s : State) (n : RegionNo) (v : Region) : (s.setRegion n v).free = s.free := rfl
@[simp] theorem State.setRegion_out (s : State) (n : RegionNo) (v : Region) : (s.setRegion n v).out = s.out := rfl
@[simp] theorem State.setRegion_pending (s : State) (n : RegionNo) (v : Region) : (s.setRegion n v).pending = s.pending := rfl

@[simp] theorem State.modRegion_fuses (s : State) (n : RegionNo) (f : Region → Region) : (s.modRegion n f).fuses = s.fuses := rfl
@[simp] theorem State.modRegion_id (s : State) (n : RegionNo) (f : Region → Region) : (s.modRegion n f).id = s.id := rfl
@[simp] theorem State.modRegion_shadows (s : State) (n : RegionNo) (f : Region → Region) : (s.modRegion n f).shadows = s.shadows := rfl
@[simp] theorem State.modRegion_helds (s : State) (n : RegionNo) (f : Region → Region) : (s.modRegion n f).helds = s.helds := rfl
@[simp] theorem State.modRegion_tb (s : State) (n : RegionNo) (f : Region → Region) : (s.modRegion n f).tb = s.tb := rfl
@[simp] theorem State.modRegion_groupN (s : State) (n : RegionNo) (f : Region → Region) : (s.modRegion n f).groupN = s.groupN := rfl
@[simp] theorem State.modRegion_groupH (s : State) (n : RegionNo) (f : Region → Region) : (s.modRegion n f).groupH = s.groupH := rfl
@[simp] theorem State.modRegion_groupNarrow (s : State) (n : RegionNo) (f : Region → Region) : (s.modRegion n f).groupNarrow = s.groupNarrow := rfl
@[simp] theorem State.modRegion_role (s : State) (n : RegionNo) (f : Region → Region) : (s.modRegion n f).role = s.role := rfl
@[simp] theorem State.modRegion_coreMap (s : State) (n : RegionNo) (f : Region → Region) : (s.modRegion n f).coreMap = s.coreMap := rfl
@[simp] theorem State.modRegion_sites (s : State) (n : RegionNo) (f : Region → Region) : (s.modRegion n f).sites = s.sites := rfl
@[simp] theorem State.modRegion_fab (s : State) (n : RegionNo) (f : Region → Region) : (s.modRegion n f).fab = s.fab := rfl
@[simp] theorem State.modRegion_mem (s : State) (n : RegionNo) (f : Region → Region) : (s.modRegion n f).mem = s.mem := rfl
@[simp] theorem State.modRegion_links (s : State) (n : RegionNo) (f : Region → Region) : (s.modRegion n f).links = s.links := rfl
@[simp] theorem State.modRegion_coll (s : State) (n : RegionNo) (f : Region → Region) : (s.modRegion n f).coll = s.coll := rfl
@[simp] theorem State.modRegion_host (s : State) (n : RegionNo) (f : Region → Region) : (s.modRegion n f).host = s.host := rfl
@[simp] theorem State.modRegion_pwr (s : State) (n : RegionNo) (f : Region → Region) : (s.modRegion n f).pwr = s.pwr := rfl
@[simp] theorem State.modRegion_ic (s : State) (n : RegionNo) (f : Region → Region) : (s.modRegion n f).ic = s.ic := rfl
@[simp] theorem State.modRegion_flt (s : State) (n : RegionNo) (f : Region → Region) : (s.modRegion n f).flt = s.flt := rfl
@[simp] theorem State.modRegion_sec (s : State) (n : RegionNo) (f : Region → Region) : (s.modRegion n f).sec = s.sec := rfl
@[simp] theorem State.modRegion_jrnl (s : State) (n : RegionNo) (f : Region → Region) : (s.modRegion n f).jrnl = s.jrnl := rfl
@[simp] theorem State.modRegion_board (s : State) (n : RegionNo) (f : Region → Region) : (s.modRegion n f).board = s.board := rfl
@[simp] theorem State.modRegion_free (s : State) (n : RegionNo) (f : Region → Region) : (s.modRegion n f).free = s.free := rfl
@[simp] theorem State.modRegion_out (s : State) (n : RegionNo) (f : Region → Region) : (s.modRegion n f).out = s.out := rfl
@[simp] theorem State.modRegion_pending (s : State) (n : RegionNo) (f : Region → Region) : (s.modRegion n f).pending = s.pending := rfl

@[simp] theorem State.setCrossing_fuses (s : State) (k : Nat) (v : Crossing) : (s.setCrossing k v).fuses = s.fuses := rfl
@[simp] theorem State.setCrossing_id (s : State) (k : Nat) (v : Crossing) : (s.setCrossing k v).id = s.id := rfl
@[simp] theorem State.setCrossing_shadows (s : State) (k : Nat) (v : Crossing) : (s.setCrossing k v).shadows = s.shadows := rfl
@[simp] theorem State.setCrossing_helds (s : State) (k : Nat) (v : Crossing) : (s.setCrossing k v).helds = s.helds := rfl
@[simp] theorem State.setCrossing_tb (s : State) (k : Nat) (v : Crossing) : (s.setCrossing k v).tb = s.tb := rfl
@[simp] theorem State.setCrossing_groupN (s : State) (k : Nat) (v : Crossing) : (s.setCrossing k v).groupN = s.groupN := rfl
@[simp] theorem State.setCrossing_groupH (s : State) (k : Nat) (v : Crossing) : (s.setCrossing k v).groupH = s.groupH := rfl
@[simp] theorem State.setCrossing_groupNarrow (s : State) (k : Nat) (v : Crossing) : (s.setCrossing k v).groupNarrow = s.groupNarrow := rfl
@[simp] theorem State.setCrossing_role (s : State) (k : Nat) (v : Crossing) : (s.setCrossing k v).role = s.role := rfl
@[simp] theorem State.setCrossing_coreMap (s : State) (k : Nat) (v : Crossing) : (s.setCrossing k v).coreMap = s.coreMap := rfl
@[simp] theorem State.setCrossing_sites (s : State) (k : Nat) (v : Crossing) : (s.setCrossing k v).sites = s.sites := rfl
@[simp] theorem State.setCrossing_fab (s : State) (k : Nat) (v : Crossing) : (s.setCrossing k v).fab = s.fab := rfl
@[simp] theorem State.setCrossing_mem (s : State) (k : Nat) (v : Crossing) : (s.setCrossing k v).mem = s.mem := rfl
@[simp] theorem State.setCrossing_links (s : State) (k : Nat) (v : Crossing) : (s.setCrossing k v).links = s.links := rfl
@[simp] theorem State.setCrossing_coll (s : State) (k : Nat) (v : Crossing) : (s.setCrossing k v).coll = s.coll := rfl
@[simp] theorem State.setCrossing_host (s : State) (k : Nat) (v : Crossing) : (s.setCrossing k v).host = s.host := rfl
@[simp] theorem State.setCrossing_pwr (s : State) (k : Nat) (v : Crossing) : (s.setCrossing k v).pwr = s.pwr := rfl
@[simp] theorem State.setCrossing_ic (s : State) (k : Nat) (v : Crossing) : (s.setCrossing k v).ic = s.ic := rfl
@[simp] theorem State.setCrossing_flt (s : State) (k : Nat) (v : Crossing) : (s.setCrossing k v).flt = s.flt := rfl
@[simp] theorem State.setCrossing_sec (s : State) (k : Nat) (v : Crossing) : (s.setCrossing k v).sec = s.sec := rfl
@[simp] theorem State.setCrossing_jrnl (s : State) (k : Nat) (v : Crossing) : (s.setCrossing k v).jrnl = s.jrnl := rfl
@[simp] theorem State.setCrossing_board (s : State) (k : Nat) (v : Crossing) : (s.setCrossing k v).board = s.board := rfl
@[simp] theorem State.setCrossing_free (s : State) (k : Nat) (v : Crossing) : (s.setCrossing k v).free = s.free := rfl
@[simp] theorem State.setCrossing_out (s : State) (k : Nat) (v : Crossing) : (s.setCrossing k v).out = s.out := rfl
@[simp] theorem State.setCrossing_pending (s : State) (k : Nat) (v : Crossing) : (s.setCrossing k v).pending = s.pending := rfl

@[simp] theorem State.setDom_fuses (s : State) (d : DomainNo) (v : Domain) : (s.setDom d v).fuses = s.fuses := rfl
@[simp] theorem State.setDom_id (s : State) (d : DomainNo) (v : Domain) : (s.setDom d v).id = s.id := rfl
@[simp] theorem State.setDom_shadows (s : State) (d : DomainNo) (v : Domain) : (s.setDom d v).shadows = s.shadows := rfl
@[simp] theorem State.setDom_helds (s : State) (d : DomainNo) (v : Domain) : (s.setDom d v).helds = s.helds := rfl
@[simp] theorem State.setDom_tb (s : State) (d : DomainNo) (v : Domain) : (s.setDom d v).tb = s.tb := rfl
@[simp] theorem State.setDom_groupN (s : State) (d : DomainNo) (v : Domain) : (s.setDom d v).groupN = s.groupN := rfl
@[simp] theorem State.setDom_groupH (s : State) (d : DomainNo) (v : Domain) : (s.setDom d v).groupH = s.groupH := rfl
@[simp] theorem State.setDom_groupNarrow (s : State) (d : DomainNo) (v : Domain) : (s.setDom d v).groupNarrow = s.groupNarrow := rfl
@[simp] theorem State.setDom_role (s : State) (d : DomainNo) (v : Domain) : (s.setDom d v).role = s.role := rfl
@[simp] theorem State.setDom_coreMap (s : State) (d : DomainNo) (v : Domain) : (s.setDom d v).coreMap = s.coreMap := rfl
@[simp] theorem State.setDom_sites (s : State) (d : DomainNo) (v : Domain) : (s.setDom d v).sites = s.sites := rfl
@[simp] theorem State.setDom_fab (s : State) (d : DomainNo) (v : Domain) : (s.setDom d v).fab = s.fab := rfl
@[simp] theorem State.setDom_mem (s : State) (d : DomainNo) (v : Domain) : (s.setDom d v).mem = s.mem := rfl
@[simp] theorem State.setDom_links (s : State) (d : DomainNo) (v : Domain) : (s.setDom d v).links = s.links := rfl
@[simp] theorem State.setDom_coll (s : State) (d : DomainNo) (v : Domain) : (s.setDom d v).coll = s.coll := rfl
@[simp] theorem State.setDom_host (s : State) (d : DomainNo) (v : Domain) : (s.setDom d v).host = s.host := rfl
@[simp] theorem State.setDom_clk (s : State) (d : DomainNo) (v : Domain) : (s.setDom d v).clk = s.clk := rfl
@[simp] theorem State.setDom_ic (s : State) (d : DomainNo) (v : Domain) : (s.setDom d v).ic = s.ic := rfl
@[simp] theorem State.setDom_flt (s : State) (d : DomainNo) (v : Domain) : (s.setDom d v).flt = s.flt := rfl
@[simp] theorem State.setDom_sec (s : State) (d : DomainNo) (v : Domain) : (s.setDom d v).sec = s.sec := rfl
@[simp] theorem State.setDom_jrnl (s : State) (d : DomainNo) (v : Domain) : (s.setDom d v).jrnl = s.jrnl := rfl
@[simp] theorem State.setDom_board (s : State) (d : DomainNo) (v : Domain) : (s.setDom d v).board = s.board := rfl
@[simp] theorem State.setDom_free (s : State) (d : DomainNo) (v : Domain) : (s.setDom d v).free = s.free := rfl
@[simp] theorem State.setDom_out (s : State) (d : DomainNo) (v : Domain) : (s.setDom d v).out = s.out := rfl
@[simp] theorem State.setDom_pending (s : State) (d : DomainNo) (v : Domain) : (s.setDom d v).pending = s.pending := rfl

@[simp] theorem State.modDom_fuses (s : State) (d : DomainNo) (f : Domain → Domain) : (s.modDom d f).fuses = s.fuses := rfl
@[simp] theorem State.modDom_id (s : State) (d : DomainNo) (f : Domain → Domain) : (s.modDom d f).id = s.id := rfl
@[simp] theorem State.modDom_shadows (s : State) (d : DomainNo) (f : Domain → Domain) : (s.modDom d f).shadows = s.shadows := rfl
@[simp] theorem State.modDom_helds (s : State) (d : DomainNo) (f : Domain → Domain) : (s.modDom d f).helds = s.helds := rfl
@[simp] theorem State.modDom_tb (s : State) (d : DomainNo) (f : Domain → Domain) : (s.modDom d f).tb = s.tb := rfl
@[simp] theorem State.modDom_groupN (s : State) (d : DomainNo) (f : Domain → Domain) : (s.modDom d f).groupN = s.groupN := rfl
@[simp] theorem State.modDom_groupH (s : State) (d : DomainNo) (f : Domain → Domain) : (s.modDom d f).groupH = s.groupH := rfl
@[simp] theorem State.modDom_groupNarrow (s : State) (d : DomainNo) (f : Domain → Domain) : (s.modDom d f).groupNarrow = s.groupNarrow := rfl
@[simp] theorem State.modDom_role (s : State) (d : DomainNo) (f : Domain → Domain) : (s.modDom d f).role = s.role := rfl
@[simp] theorem State.modDom_coreMap (s : State) (d : DomainNo) (f : Domain → Domain) : (s.modDom d f).coreMap = s.coreMap := rfl
@[simp] theorem State.modDom_sites (s : State) (d : DomainNo) (f : Domain → Domain) : (s.modDom d f).sites = s.sites := rfl
@[simp] theorem State.modDom_fab (s : State) (d : DomainNo) (f : Domain → Domain) : (s.modDom d f).fab = s.fab := rfl
@[simp] theorem State.modDom_mem (s : State) (d : DomainNo) (f : Domain → Domain) : (s.modDom d f).mem = s.mem := rfl
@[simp] theorem State.modDom_links (s : State) (d : DomainNo) (f : Domain → Domain) : (s.modDom d f).links = s.links := rfl
@[simp] theorem State.modDom_coll (s : State) (d : DomainNo) (f : Domain → Domain) : (s.modDom d f).coll = s.coll := rfl
@[simp] theorem State.modDom_host (s : State) (d : DomainNo) (f : Domain → Domain) : (s.modDom d f).host = s.host := rfl
@[simp] theorem State.modDom_clk (s : State) (d : DomainNo) (f : Domain → Domain) : (s.modDom d f).clk = s.clk := rfl
@[simp] theorem State.modDom_ic (s : State) (d : DomainNo) (f : Domain → Domain) : (s.modDom d f).ic = s.ic := rfl
@[simp] theorem State.modDom_flt (s : State) (d : DomainNo) (f : Domain → Domain) : (s.modDom d f).flt = s.flt := rfl
@[simp] theorem State.modDom_sec (s : State) (d : DomainNo) (f : Domain → Domain) : (s.modDom d f).sec = s.sec := rfl
@[simp] theorem State.modDom_jrnl (s : State) (d : DomainNo) (f : Domain → Domain) : (s.modDom d f).jrnl = s.jrnl := rfl
@[simp] theorem State.modDom_board (s : State) (d : DomainNo) (f : Domain → Domain) : (s.modDom d f).board = s.board := rfl
@[simp] theorem State.modDom_free (s : State) (d : DomainNo) (f : Domain → Domain) : (s.modDom d f).free = s.free := rfl
@[simp] theorem State.modDom_out (s : State) (d : DomainNo) (f : Domain → Domain) : (s.modDom d f).out = s.out := rfl
@[simp] theorem State.modDom_pending (s : State) (d : DomainNo) (f : Domain → Domain) : (s.modDom d f).pending = s.pending := rfl

@[simp] theorem State.setMsite_fuses (s : State) (n : MemNo) (v : MemSite) : (s.setMsite n v).fuses = s.fuses := rfl
@[simp] theorem State.setMsite_id (s : State) (n : MemNo) (v : MemSite) : (s.setMsite n v).id = s.id := rfl
@[simp] theorem State.setMsite_shadows (s : State) (n : MemNo) (v : MemSite) : (s.setMsite n v).shadows = s.shadows := rfl
@[simp] theorem State.setMsite_helds (s : State) (n : MemNo) (v : MemSite) : (s.setMsite n v).helds = s.helds := rfl
@[simp] theorem State.setMsite_tb (s : State) (n : MemNo) (v : MemSite) : (s.setMsite n v).tb = s.tb := rfl
@[simp] theorem State.setMsite_groupN (s : State) (n : MemNo) (v : MemSite) : (s.setMsite n v).groupN = s.groupN := rfl
@[simp] theorem State.setMsite_groupH (s : State) (n : MemNo) (v : MemSite) : (s.setMsite n v).groupH = s.groupH := rfl
@[simp] theorem State.setMsite_groupNarrow (s : State) (n : MemNo) (v : MemSite) : (s.setMsite n v).groupNarrow = s.groupNarrow := rfl
@[simp] theorem State.setMsite_role (s : State) (n : MemNo) (v : MemSite) : (s.setMsite n v).role = s.role := rfl
@[simp] theorem State.setMsite_coreMap (s : State) (n : MemNo) (v : MemSite) : (s.setMsite n v).coreMap = s.coreMap := rfl
@[simp] theorem State.setMsite_sites (s : State) (n : MemNo) (v : MemSite) : (s.setMsite n v).sites = s.sites := rfl
@[simp] theorem State.setMsite_fab (s : State) (n : MemNo) (v : MemSite) : (s.setMsite n v).fab = s.fab := rfl
@[simp] theorem State.setMsite_links (s : State) (n : MemNo) (v : MemSite) : (s.setMsite n v).links = s.links := rfl
@[simp] theorem State.setMsite_coll (s : State) (n : MemNo) (v : MemSite) : (s.setMsite n v).coll = s.coll := rfl
@[simp] theorem State.setMsite_host (s : State) (n : MemNo) (v : MemSite) : (s.setMsite n v).host = s.host := rfl
@[simp] theorem State.setMsite_clk (s : State) (n : MemNo) (v : MemSite) : (s.setMsite n v).clk = s.clk := rfl
@[simp] theorem State.setMsite_pwr (s : State) (n : MemNo) (v : MemSite) : (s.setMsite n v).pwr = s.pwr := rfl
@[simp] theorem State.setMsite_ic (s : State) (n : MemNo) (v : MemSite) : (s.setMsite n v).ic = s.ic := rfl
@[simp] theorem State.setMsite_flt (s : State) (n : MemNo) (v : MemSite) : (s.setMsite n v).flt = s.flt := rfl
@[simp] theorem State.setMsite_sec (s : State) (n : MemNo) (v : MemSite) : (s.setMsite n v).sec = s.sec := rfl
@[simp] theorem State.setMsite_jrnl (s : State) (n : MemNo) (v : MemSite) : (s.setMsite n v).jrnl = s.jrnl := rfl
@[simp] theorem State.setMsite_board (s : State) (n : MemNo) (v : MemSite) : (s.setMsite n v).board = s.board := rfl
@[simp] theorem State.setMsite_free (s : State) (n : MemNo) (v : MemSite) : (s.setMsite n v).free = s.free := rfl
@[simp] theorem State.setMsite_out (s : State) (n : MemNo) (v : MemSite) : (s.setMsite n v).out = s.out := rfl
@[simp] theorem State.setMsite_pending (s : State) (n : MemNo) (v : MemSite) : (s.setMsite n v).pending = s.pending := rfl

@[simp] theorem State.modMsite_fuses (s : State) (n : MemNo) (f : MemSite → MemSite) : (s.modMsite n f).fuses = s.fuses := rfl
@[simp] theorem State.modMsite_id (s : State) (n : MemNo) (f : MemSite → MemSite) : (s.modMsite n f).id = s.id := rfl
@[simp] theorem State.modMsite_shadows (s : State) (n : MemNo) (f : MemSite → MemSite) : (s.modMsite n f).shadows = s.shadows := rfl
@[simp] theorem State.modMsite_helds (s : State) (n : MemNo) (f : MemSite → MemSite) : (s.modMsite n f).helds = s.helds := rfl
@[simp] theorem State.modMsite_tb (s : State) (n : MemNo) (f : MemSite → MemSite) : (s.modMsite n f).tb = s.tb := rfl
@[simp] theorem State.modMsite_groupN (s : State) (n : MemNo) (f : MemSite → MemSite) : (s.modMsite n f).groupN = s.groupN := rfl
@[simp] theorem State.modMsite_groupH (s : State) (n : MemNo) (f : MemSite → MemSite) : (s.modMsite n f).groupH = s.groupH := rfl
@[simp] theorem State.modMsite_groupNarrow (s : State) (n : MemNo) (f : MemSite → MemSite) : (s.modMsite n f).groupNarrow = s.groupNarrow := rfl
@[simp] theorem State.modMsite_role (s : State) (n : MemNo) (f : MemSite → MemSite) : (s.modMsite n f).role = s.role := rfl
@[simp] theorem State.modMsite_coreMap (s : State) (n : MemNo) (f : MemSite → MemSite) : (s.modMsite n f).coreMap = s.coreMap := rfl
@[simp] theorem State.modMsite_sites (s : State) (n : MemNo) (f : MemSite → MemSite) : (s.modMsite n f).sites = s.sites := rfl
@[simp] theorem State.modMsite_fab (s : State) (n : MemNo) (f : MemSite → MemSite) : (s.modMsite n f).fab = s.fab := rfl
@[simp] theorem State.modMsite_links (s : State) (n : MemNo) (f : MemSite → MemSite) : (s.modMsite n f).links = s.links := rfl
@[simp] theorem State.modMsite_coll (s : State) (n : MemNo) (f : MemSite → MemSite) : (s.modMsite n f).coll = s.coll := rfl
@[simp] theorem State.modMsite_host (s : State) (n : MemNo) (f : MemSite → MemSite) : (s.modMsite n f).host = s.host := rfl
@[simp] theorem State.modMsite_clk (s : State) (n : MemNo) (f : MemSite → MemSite) : (s.modMsite n f).clk = s.clk := rfl
@[simp] theorem State.modMsite_pwr (s : State) (n : MemNo) (f : MemSite → MemSite) : (s.modMsite n f).pwr = s.pwr := rfl
@[simp] theorem State.modMsite_ic (s : State) (n : MemNo) (f : MemSite → MemSite) : (s.modMsite n f).ic = s.ic := rfl
@[simp] theorem State.modMsite_flt (s : State) (n : MemNo) (f : MemSite → MemSite) : (s.modMsite n f).flt = s.flt := rfl
@[simp] theorem State.modMsite_sec (s : State) (n : MemNo) (f : MemSite → MemSite) : (s.modMsite n f).sec = s.sec := rfl
@[simp] theorem State.modMsite_jrnl (s : State) (n : MemNo) (f : MemSite → MemSite) : (s.modMsite n f).jrnl = s.jrnl := rfl
@[simp] theorem State.modMsite_board (s : State) (n : MemNo) (f : MemSite → MemSite) : (s.modMsite n f).board = s.board := rfl
@[simp] theorem State.modMsite_free (s : State) (n : MemNo) (f : MemSite → MemSite) : (s.modMsite n f).free = s.free := rfl
@[simp] theorem State.modMsite_out (s : State) (n : MemNo) (f : MemSite → MemSite) : (s.modMsite n f).out = s.out := rfl
@[simp] theorem State.modMsite_pending (s : State) (n : MemNo) (f : MemSite → MemSite) : (s.modMsite n f).pending = s.pending := rfl

@[simp] theorem State.setHamlet_fuses (s : State) (h : HamletNo) (v : Hamlet) : (s.setHamlet h v).fuses = s.fuses := rfl
@[simp] theorem State.setHamlet_id (s : State) (h : HamletNo) (v : Hamlet) : (s.setHamlet h v).id = s.id := rfl
@[simp] theorem State.setHamlet_shadows (s : State) (h : HamletNo) (v : Hamlet) : (s.setHamlet h v).shadows = s.shadows := rfl
@[simp] theorem State.setHamlet_helds (s : State) (h : HamletNo) (v : Hamlet) : (s.setHamlet h v).helds = s.helds := rfl
@[simp] theorem State.setHamlet_tb (s : State) (h : HamletNo) (v : Hamlet) : (s.setHamlet h v).tb = s.tb := rfl
@[simp] theorem State.setHamlet_groupN (s : State) (h : HamletNo) (v : Hamlet) : (s.setHamlet h v).groupN = s.groupN := rfl
@[simp] theorem State.setHamlet_groupH (s : State) (h : HamletNo) (v : Hamlet) : (s.setHamlet h v).groupH = s.groupH := rfl
@[simp] theorem State.setHamlet_groupNarrow (s : State) (h : HamletNo) (v : Hamlet) : (s.setHamlet h v).groupNarrow = s.groupNarrow := rfl
@[simp] theorem State.setHamlet_role (s : State) (h : HamletNo) (v : Hamlet) : (s.setHamlet h v).role = s.role := rfl
@[simp] theorem State.setHamlet_coreMap (s : State) (h : HamletNo) (v : Hamlet) : (s.setHamlet h v).coreMap = s.coreMap := rfl
@[simp] theorem State.setHamlet_sites (s : State) (h : HamletNo) (v : Hamlet) : (s.setHamlet h v).sites = s.sites := rfl
@[simp] theorem State.setHamlet_fab (s : State) (h : HamletNo) (v : Hamlet) : (s.setHamlet h v).fab = s.fab := rfl
@[simp] theorem State.setHamlet_mem (s : State) (h : HamletNo) (v : Hamlet) : (s.setHamlet h v).mem = s.mem := rfl
@[simp] theorem State.setHamlet_links (s : State) (h : HamletNo) (v : Hamlet) : (s.setHamlet h v).links = s.links := rfl
@[simp] theorem State.setHamlet_coll (s : State) (h : HamletNo) (v : Hamlet) : (s.setHamlet h v).coll = s.coll := rfl
@[simp] theorem State.setHamlet_host (s : State) (h : HamletNo) (v : Hamlet) : (s.setHamlet h v).host = s.host := rfl
@[simp] theorem State.setHamlet_clk (s : State) (h : HamletNo) (v : Hamlet) : (s.setHamlet h v).clk = s.clk := rfl
@[simp] theorem State.setHamlet_pwr (s : State) (h : HamletNo) (v : Hamlet) : (s.setHamlet h v).pwr = s.pwr := rfl
@[simp] theorem State.setHamlet_ic (s : State) (h : HamletNo) (v : Hamlet) : (s.setHamlet h v).ic = s.ic := rfl
@[simp] theorem State.setHamlet_flt (s : State) (h : HamletNo) (v : Hamlet) : (s.setHamlet h v).flt = s.flt := rfl
@[simp] theorem State.setHamlet_jrnl (s : State) (h : HamletNo) (v : Hamlet) : (s.setHamlet h v).jrnl = s.jrnl := rfl
@[simp] theorem State.setHamlet_board (s : State) (h : HamletNo) (v : Hamlet) : (s.setHamlet h v).board = s.board := rfl
@[simp] theorem State.setHamlet_free (s : State) (h : HamletNo) (v : Hamlet) : (s.setHamlet h v).free = s.free := rfl
@[simp] theorem State.setHamlet_out (s : State) (h : HamletNo) (v : Hamlet) : (s.setHamlet h v).out = s.out := rfl
@[simp] theorem State.setHamlet_pending (s : State) (h : HamletNo) (v : Hamlet) : (s.setHamlet h v).pending = s.pending := rfl

@[simp] theorem State.modHamlet_fuses (s : State) (h : HamletNo) (f : Hamlet → Hamlet) : (s.modHamlet h f).fuses = s.fuses := rfl
@[simp] theorem State.modHamlet_id (s : State) (h : HamletNo) (f : Hamlet → Hamlet) : (s.modHamlet h f).id = s.id := rfl
@[simp] theorem State.modHamlet_shadows (s : State) (h : HamletNo) (f : Hamlet → Hamlet) : (s.modHamlet h f).shadows = s.shadows := rfl
@[simp] theorem State.modHamlet_helds (s : State) (h : HamletNo) (f : Hamlet → Hamlet) : (s.modHamlet h f).helds = s.helds := rfl
@[simp] theorem State.modHamlet_tb (s : State) (h : HamletNo) (f : Hamlet → Hamlet) : (s.modHamlet h f).tb = s.tb := rfl
@[simp] theorem State.modHamlet_groupN (s : State) (h : HamletNo) (f : Hamlet → Hamlet) : (s.modHamlet h f).groupN = s.groupN := rfl
@[simp] theorem State.modHamlet_groupH (s : State) (h : HamletNo) (f : Hamlet → Hamlet) : (s.modHamlet h f).groupH = s.groupH := rfl
@[simp] theorem State.modHamlet_groupNarrow (s : State) (h : HamletNo) (f : Hamlet → Hamlet) : (s.modHamlet h f).groupNarrow = s.groupNarrow := rfl
@[simp] theorem State.modHamlet_role (s : State) (h : HamletNo) (f : Hamlet → Hamlet) : (s.modHamlet h f).role = s.role := rfl
@[simp] theorem State.modHamlet_coreMap (s : State) (h : HamletNo) (f : Hamlet → Hamlet) : (s.modHamlet h f).coreMap = s.coreMap := rfl
@[simp] theorem State.modHamlet_sites (s : State) (h : HamletNo) (f : Hamlet → Hamlet) : (s.modHamlet h f).sites = s.sites := rfl
@[simp] theorem State.modHamlet_fab (s : State) (h : HamletNo) (f : Hamlet → Hamlet) : (s.modHamlet h f).fab = s.fab := rfl
@[simp] theorem State.modHamlet_mem (s : State) (h : HamletNo) (f : Hamlet → Hamlet) : (s.modHamlet h f).mem = s.mem := rfl
@[simp] theorem State.modHamlet_links (s : State) (h : HamletNo) (f : Hamlet → Hamlet) : (s.modHamlet h f).links = s.links := rfl
@[simp] theorem State.modHamlet_coll (s : State) (h : HamletNo) (f : Hamlet → Hamlet) : (s.modHamlet h f).coll = s.coll := rfl
@[simp] theorem State.modHamlet_host (s : State) (h : HamletNo) (f : Hamlet → Hamlet) : (s.modHamlet h f).host = s.host := rfl
@[simp] theorem State.modHamlet_clk (s : State) (h : HamletNo) (f : Hamlet → Hamlet) : (s.modHamlet h f).clk = s.clk := rfl
@[simp] theorem State.modHamlet_pwr (s : State) (h : HamletNo) (f : Hamlet → Hamlet) : (s.modHamlet h f).pwr = s.pwr := rfl
@[simp] theorem State.modHamlet_ic (s : State) (h : HamletNo) (f : Hamlet → Hamlet) : (s.modHamlet h f).ic = s.ic := rfl
@[simp] theorem State.modHamlet_flt (s : State) (h : HamletNo) (f : Hamlet → Hamlet) : (s.modHamlet h f).flt = s.flt := rfl
@[simp] theorem State.modHamlet_jrnl (s : State) (h : HamletNo) (f : Hamlet → Hamlet) : (s.modHamlet h f).jrnl = s.jrnl := rfl
@[simp] theorem State.modHamlet_board (s : State) (h : HamletNo) (f : Hamlet → Hamlet) : (s.modHamlet h f).board = s.board := rfl
@[simp] theorem State.modHamlet_free (s : State) (h : HamletNo) (f : Hamlet → Hamlet) : (s.modHamlet h f).free = s.free := rfl
@[simp] theorem State.modHamlet_out (s : State) (h : HamletNo) (f : Hamlet → Hamlet) : (s.modHamlet h f).out = s.out := rfl
@[simp] theorem State.modHamlet_pending (s : State) (h : HamletNo) (f : Hamlet → Hamlet) : (s.modHamlet h f).pending = s.pending := rfl

@[simp] theorem State.setTree_fuses (s : State) (k : Fin 64) (v : TreeCtx) : (s.setTree k v).fuses = s.fuses := rfl
@[simp] theorem State.setTree_id (s : State) (k : Fin 64) (v : TreeCtx) : (s.setTree k v).id = s.id := rfl
@[simp] theorem State.setTree_shadows (s : State) (k : Fin 64) (v : TreeCtx) : (s.setTree k v).shadows = s.shadows := rfl
@[simp] theorem State.setTree_helds (s : State) (k : Fin 64) (v : TreeCtx) : (s.setTree k v).helds = s.helds := rfl
@[simp] theorem State.setTree_tb (s : State) (k : Fin 64) (v : TreeCtx) : (s.setTree k v).tb = s.tb := rfl
@[simp] theorem State.setTree_groupN (s : State) (k : Fin 64) (v : TreeCtx) : (s.setTree k v).groupN = s.groupN := rfl
@[simp] theorem State.setTree_groupH (s : State) (k : Fin 64) (v : TreeCtx) : (s.setTree k v).groupH = s.groupH := rfl
@[simp] theorem State.setTree_groupNarrow (s : State) (k : Fin 64) (v : TreeCtx) : (s.setTree k v).groupNarrow = s.groupNarrow := rfl
@[simp] theorem State.setTree_role (s : State) (k : Fin 64) (v : TreeCtx) : (s.setTree k v).role = s.role := rfl
@[simp] theorem State.setTree_coreMap (s : State) (k : Fin 64) (v : TreeCtx) : (s.setTree k v).coreMap = s.coreMap := rfl
@[simp] theorem State.setTree_sites (s : State) (k : Fin 64) (v : TreeCtx) : (s.setTree k v).sites = s.sites := rfl
@[simp] theorem State.setTree_fab (s : State) (k : Fin 64) (v : TreeCtx) : (s.setTree k v).fab = s.fab := rfl
@[simp] theorem State.setTree_mem (s : State) (k : Fin 64) (v : TreeCtx) : (s.setTree k v).mem = s.mem := rfl
@[simp] theorem State.setTree_links (s : State) (k : Fin 64) (v : TreeCtx) : (s.setTree k v).links = s.links := rfl
@[simp] theorem State.setTree_host (s : State) (k : Fin 64) (v : TreeCtx) : (s.setTree k v).host = s.host := rfl
@[simp] theorem State.setTree_clk (s : State) (k : Fin 64) (v : TreeCtx) : (s.setTree k v).clk = s.clk := rfl
@[simp] theorem State.setTree_pwr (s : State) (k : Fin 64) (v : TreeCtx) : (s.setTree k v).pwr = s.pwr := rfl
@[simp] theorem State.setTree_ic (s : State) (k : Fin 64) (v : TreeCtx) : (s.setTree k v).ic = s.ic := rfl
@[simp] theorem State.setTree_flt (s : State) (k : Fin 64) (v : TreeCtx) : (s.setTree k v).flt = s.flt := rfl
@[simp] theorem State.setTree_sec (s : State) (k : Fin 64) (v : TreeCtx) : (s.setTree k v).sec = s.sec := rfl
@[simp] theorem State.setTree_jrnl (s : State) (k : Fin 64) (v : TreeCtx) : (s.setTree k v).jrnl = s.jrnl := rfl
@[simp] theorem State.setTree_board (s : State) (k : Fin 64) (v : TreeCtx) : (s.setTree k v).board = s.board := rfl
@[simp] theorem State.setTree_free (s : State) (k : Fin 64) (v : TreeCtx) : (s.setTree k v).free = s.free := rfl
@[simp] theorem State.setTree_out (s : State) (k : Fin 64) (v : TreeCtx) : (s.setTree k v).out = s.out := rfl
@[simp] theorem State.setTree_pending (s : State) (k : Fin 64) (v : TreeCtx) : (s.setTree k v).pending = s.pending := rfl

@[simp] theorem State.setMset_fuses (s : State) (m : Nat) (v : MSet) : (s.setMset m v).fuses = s.fuses := rfl
@[simp] theorem State.setMset_id (s : State) (m : Nat) (v : MSet) : (s.setMset m v).id = s.id := rfl
@[simp] theorem State.setMset_shadows (s : State) (m : Nat) (v : MSet) : (s.setMset m v).shadows = s.shadows := rfl
@[simp] theorem State.setMset_helds (s : State) (m : Nat) (v : MSet) : (s.setMset m v).helds = s.helds := rfl
@[simp] theorem State.setMset_tb (s : State) (m : Nat) (v : MSet) : (s.setMset m v).tb = s.tb := rfl
@[simp] theorem State.setMset_groupN (s : State) (m : Nat) (v : MSet) : (s.setMset m v).groupN = s.groupN := rfl
@[simp] theorem State.setMset_groupH (s : State) (m : Nat) (v : MSet) : (s.setMset m v).groupH = s.groupH := rfl
@[simp] theorem State.setMset_groupNarrow (s : State) (m : Nat) (v : MSet) : (s.setMset m v).groupNarrow = s.groupNarrow := rfl
@[simp] theorem State.setMset_role (s : State) (m : Nat) (v : MSet) : (s.setMset m v).role = s.role := rfl
@[simp] theorem State.setMset_coreMap (s : State) (m : Nat) (v : MSet) : (s.setMset m v).coreMap = s.coreMap := rfl
@[simp] theorem State.setMset_sites (s : State) (m : Nat) (v : MSet) : (s.setMset m v).sites = s.sites := rfl
@[simp] theorem State.setMset_fab (s : State) (m : Nat) (v : MSet) : (s.setMset m v).fab = s.fab := rfl
@[simp] theorem State.setMset_mem (s : State) (m : Nat) (v : MSet) : (s.setMset m v).mem = s.mem := rfl
@[simp] theorem State.setMset_links (s : State) (m : Nat) (v : MSet) : (s.setMset m v).links = s.links := rfl
@[simp] theorem State.setMset_host (s : State) (m : Nat) (v : MSet) : (s.setMset m v).host = s.host := rfl
@[simp] theorem State.setMset_clk (s : State) (m : Nat) (v : MSet) : (s.setMset m v).clk = s.clk := rfl
@[simp] theorem State.setMset_pwr (s : State) (m : Nat) (v : MSet) : (s.setMset m v).pwr = s.pwr := rfl
@[simp] theorem State.setMset_ic (s : State) (m : Nat) (v : MSet) : (s.setMset m v).ic = s.ic := rfl
@[simp] theorem State.setMset_flt (s : State) (m : Nat) (v : MSet) : (s.setMset m v).flt = s.flt := rfl
@[simp] theorem State.setMset_sec (s : State) (m : Nat) (v : MSet) : (s.setMset m v).sec = s.sec := rfl
@[simp] theorem State.setMset_jrnl (s : State) (m : Nat) (v : MSet) : (s.setMset m v).jrnl = s.jrnl := rfl
@[simp] theorem State.setMset_board (s : State) (m : Nat) (v : MSet) : (s.setMset m v).board = s.board := rfl
@[simp] theorem State.setMset_free (s : State) (m : Nat) (v : MSet) : (s.setMset m v).free = s.free := rfl
@[simp] theorem State.setMset_out (s : State) (m : Nat) (v : MSet) : (s.setMset m v).out = s.out := rfl
@[simp] theorem State.setMset_pending (s : State) (m : Nat) (v : MSet) : (s.setMset m v).pending = s.pending := rfl

@[simp] theorem State.setTally_fuses (s : State) (o : Option HamletNo) (v : TallyScope) : (s.setTally o v).fuses = s.fuses := rfl
@[simp] theorem State.setTally_id (s : State) (o : Option HamletNo) (v : TallyScope) : (s.setTally o v).id = s.id := rfl
@[simp] theorem State.setTally_shadows (s : State) (o : Option HamletNo) (v : TallyScope) : (s.setTally o v).shadows = s.shadows := rfl
@[simp] theorem State.setTally_helds (s : State) (o : Option HamletNo) (v : TallyScope) : (s.setTally o v).helds = s.helds := rfl
@[simp] theorem State.setTally_tb (s : State) (o : Option HamletNo) (v : TallyScope) : (s.setTally o v).tb = s.tb := rfl
@[simp] theorem State.setTally_groupN (s : State) (o : Option HamletNo) (v : TallyScope) : (s.setTally o v).groupN = s.groupN := rfl
@[simp] theorem State.setTally_groupH (s : State) (o : Option HamletNo) (v : TallyScope) : (s.setTally o v).groupH = s.groupH := rfl
@[simp] theorem State.setTally_groupNarrow (s : State) (o : Option HamletNo) (v : TallyScope) : (s.setTally o v).groupNarrow = s.groupNarrow := rfl
@[simp] theorem State.setTally_role (s : State) (o : Option HamletNo) (v : TallyScope) : (s.setTally o v).role = s.role := rfl
@[simp] theorem State.setTally_coreMap (s : State) (o : Option HamletNo) (v : TallyScope) : (s.setTally o v).coreMap = s.coreMap := rfl
@[simp] theorem State.setTally_sites (s : State) (o : Option HamletNo) (v : TallyScope) : (s.setTally o v).sites = s.sites := rfl
@[simp] theorem State.setTally_fab (s : State) (o : Option HamletNo) (v : TallyScope) : (s.setTally o v).fab = s.fab := rfl
@[simp] theorem State.setTally_mem (s : State) (o : Option HamletNo) (v : TallyScope) : (s.setTally o v).mem = s.mem := rfl
@[simp] theorem State.setTally_links (s : State) (o : Option HamletNo) (v : TallyScope) : (s.setTally o v).links = s.links := rfl
@[simp] theorem State.setTally_host (s : State) (o : Option HamletNo) (v : TallyScope) : (s.setTally o v).host = s.host := rfl
@[simp] theorem State.setTally_clk (s : State) (o : Option HamletNo) (v : TallyScope) : (s.setTally o v).clk = s.clk := rfl
@[simp] theorem State.setTally_pwr (s : State) (o : Option HamletNo) (v : TallyScope) : (s.setTally o v).pwr = s.pwr := rfl
@[simp] theorem State.setTally_ic (s : State) (o : Option HamletNo) (v : TallyScope) : (s.setTally o v).ic = s.ic := rfl
@[simp] theorem State.setTally_flt (s : State) (o : Option HamletNo) (v : TallyScope) : (s.setTally o v).flt = s.flt := rfl
@[simp] theorem State.setTally_sec (s : State) (o : Option HamletNo) (v : TallyScope) : (s.setTally o v).sec = s.sec := rfl
@[simp] theorem State.setTally_jrnl (s : State) (o : Option HamletNo) (v : TallyScope) : (s.setTally o v).jrnl = s.jrnl := rfl
@[simp] theorem State.setTally_board (s : State) (o : Option HamletNo) (v : TallyScope) : (s.setTally o v).board = s.board := rfl
@[simp] theorem State.setTally_free (s : State) (o : Option HamletNo) (v : TallyScope) : (s.setTally o v).free = s.free := rfl
@[simp] theorem State.setTally_out (s : State) (o : Option HamletNo) (v : TallyScope) : (s.setTally o v).out = s.out := rfl
@[simp] theorem State.setTally_pending (s : State) (o : Option HamletNo) (v : TallyScope) : (s.setTally o v).pending = s.pending := rfl

@[simp] theorem State.bind_fuses (s : State) (lc : LCoreNo) (n : Option SiteNo) : (s.bind lc n).fuses = s.fuses := rfl
@[simp] theorem State.bind_id (s : State) (lc : LCoreNo) (n : Option SiteNo) : (s.bind lc n).id = s.id := rfl
@[simp] theorem State.bind_shadows (s : State) (lc : LCoreNo) (n : Option SiteNo) : (s.bind lc n).shadows = s.shadows := rfl
@[simp] theorem State.bind_helds (s : State) (lc : LCoreNo) (n : Option SiteNo) : (s.bind lc n).helds = s.helds := rfl
@[simp] theorem State.bind_tb (s : State) (lc : LCoreNo) (n : Option SiteNo) : (s.bind lc n).tb = s.tb := rfl
@[simp] theorem State.bind_groupN (s : State) (lc : LCoreNo) (n : Option SiteNo) : (s.bind lc n).groupN = s.groupN := rfl
@[simp] theorem State.bind_groupH (s : State) (lc : LCoreNo) (n : Option SiteNo) : (s.bind lc n).groupH = s.groupH := rfl
@[simp] theorem State.bind_groupNarrow (s : State) (lc : LCoreNo) (n : Option SiteNo) : (s.bind lc n).groupNarrow = s.groupNarrow := rfl
@[simp] theorem State.bind_role (s : State) (lc : LCoreNo) (n : Option SiteNo) : (s.bind lc n).role = s.role := rfl
@[simp] theorem State.bind_sites (s : State) (lc : LCoreNo) (n : Option SiteNo) : (s.bind lc n).sites = s.sites := rfl
@[simp] theorem State.bind_fab (s : State) (lc : LCoreNo) (n : Option SiteNo) : (s.bind lc n).fab = s.fab := rfl
@[simp] theorem State.bind_mem (s : State) (lc : LCoreNo) (n : Option SiteNo) : (s.bind lc n).mem = s.mem := rfl
@[simp] theorem State.bind_links (s : State) (lc : LCoreNo) (n : Option SiteNo) : (s.bind lc n).links = s.links := rfl
@[simp] theorem State.bind_coll (s : State) (lc : LCoreNo) (n : Option SiteNo) : (s.bind lc n).coll = s.coll := rfl
@[simp] theorem State.bind_host (s : State) (lc : LCoreNo) (n : Option SiteNo) : (s.bind lc n).host = s.host := rfl
@[simp] theorem State.bind_clk (s : State) (lc : LCoreNo) (n : Option SiteNo) : (s.bind lc n).clk = s.clk := rfl
@[simp] theorem State.bind_pwr (s : State) (lc : LCoreNo) (n : Option SiteNo) : (s.bind lc n).pwr = s.pwr := rfl
@[simp] theorem State.bind_ic (s : State) (lc : LCoreNo) (n : Option SiteNo) : (s.bind lc n).ic = s.ic := rfl
@[simp] theorem State.bind_flt (s : State) (lc : LCoreNo) (n : Option SiteNo) : (s.bind lc n).flt = s.flt := rfl
@[simp] theorem State.bind_sec (s : State) (lc : LCoreNo) (n : Option SiteNo) : (s.bind lc n).sec = s.sec := rfl
@[simp] theorem State.bind_jrnl (s : State) (lc : LCoreNo) (n : Option SiteNo) : (s.bind lc n).jrnl = s.jrnl := rfl
@[simp] theorem State.bind_board (s : State) (lc : LCoreNo) (n : Option SiteNo) : (s.bind lc n).board = s.board := rfl
@[simp] theorem State.bind_free (s : State) (lc : LCoreNo) (n : Option SiteNo) : (s.bind lc n).free = s.free := rfl
@[simp] theorem State.bind_out (s : State) (lc : LCoreNo) (n : Option SiteNo) : (s.bind lc n).out = s.out := rfl
@[simp] theorem State.bind_pending (s : State) (lc : LCoreNo) (n : Option SiteNo) : (s.bind lc n).pending = s.pending := rfl

@[simp] theorem State.setSrc_fuses (s : State) (n : Nat) (v : Src) : (s.setSrc n v).fuses = s.fuses := rfl
@[simp] theorem State.setSrc_id (s : State) (n : Nat) (v : Src) : (s.setSrc n v).id = s.id := rfl
@[simp] theorem State.setSrc_shadows (s : State) (n : Nat) (v : Src) : (s.setSrc n v).shadows = s.shadows := rfl
@[simp] theorem State.setSrc_helds (s : State) (n : Nat) (v : Src) : (s.setSrc n v).helds = s.helds := rfl
@[simp] theorem State.setSrc_tb (s : State) (n : Nat) (v : Src) : (s.setSrc n v).tb = s.tb := rfl
@[simp] theorem State.setSrc_groupN (s : State) (n : Nat) (v : Src) : (s.setSrc n v).groupN = s.groupN := rfl
@[simp] theorem State.setSrc_groupH (s : State) (n : Nat) (v : Src) : (s.setSrc n v).groupH = s.groupH := rfl
@[simp] theorem State.setSrc_groupNarrow (s : State) (n : Nat) (v : Src) : (s.setSrc n v).groupNarrow = s.groupNarrow := rfl
@[simp] theorem State.setSrc_role (s : State) (n : Nat) (v : Src) : (s.setSrc n v).role = s.role := rfl
@[simp] theorem State.setSrc_coreMap (s : State) (n : Nat) (v : Src) : (s.setSrc n v).coreMap = s.coreMap := rfl
@[simp] theorem State.setSrc_sites (s : State) (n : Nat) (v : Src) : (s.setSrc n v).sites = s.sites := rfl
@[simp] theorem State.setSrc_fab (s : State) (n : Nat) (v : Src) : (s.setSrc n v).fab = s.fab := rfl
@[simp] theorem State.setSrc_mem (s : State) (n : Nat) (v : Src) : (s.setSrc n v).mem = s.mem := rfl
@[simp] theorem State.setSrc_links (s : State) (n : Nat) (v : Src) : (s.setSrc n v).links = s.links := rfl
@[simp] theorem State.setSrc_coll (s : State) (n : Nat) (v : Src) : (s.setSrc n v).coll = s.coll := rfl
@[simp] theorem State.setSrc_host (s : State) (n : Nat) (v : Src) : (s.setSrc n v).host = s.host := rfl
@[simp] theorem State.setSrc_clk (s : State) (n : Nat) (v : Src) : (s.setSrc n v).clk = s.clk := rfl
@[simp] theorem State.setSrc_pwr (s : State) (n : Nat) (v : Src) : (s.setSrc n v).pwr = s.pwr := rfl
@[simp] theorem State.setSrc_flt (s : State) (n : Nat) (v : Src) : (s.setSrc n v).flt = s.flt := rfl
@[simp] theorem State.setSrc_sec (s : State) (n : Nat) (v : Src) : (s.setSrc n v).sec = s.sec := rfl
@[simp] theorem State.setSrc_jrnl (s : State) (n : Nat) (v : Src) : (s.setSrc n v).jrnl = s.jrnl := rfl
@[simp] theorem State.setSrc_board (s : State) (n : Nat) (v : Src) : (s.setSrc n v).board = s.board := rfl
@[simp] theorem State.setSrc_free (s : State) (n : Nat) (v : Src) : (s.setSrc n v).free = s.free := rfl
@[simp] theorem State.setSrc_out (s : State) (n : Nat) (v : Src) : (s.setSrc n v).out = s.out := rfl
@[simp] theorem State.setSrc_pending (s : State) (n : Nat) (v : Src) : (s.setSrc n v).pending = s.pending := rfl

@[simp] theorem State.send_fuses (s : State) (o : Out) : (s.send o).fuses = s.fuses := rfl
@[simp] theorem State.send_id (s : State) (o : Out) : (s.send o).id = s.id := rfl
@[simp] theorem State.send_shadows (s : State) (o : Out) : (s.send o).shadows = s.shadows := rfl
@[simp] theorem State.send_helds (s : State) (o : Out) : (s.send o).helds = s.helds := rfl
@[simp] theorem State.send_tb (s : State) (o : Out) : (s.send o).tb = s.tb := rfl
@[simp] theorem State.send_groupN (s : State) (o : Out) : (s.send o).groupN = s.groupN := rfl
@[simp] theorem State.send_groupH (s : State) (o : Out) : (s.send o).groupH = s.groupH := rfl
@[simp] theorem State.send_groupNarrow (s : State) (o : Out) : (s.send o).groupNarrow = s.groupNarrow := rfl
@[simp] theorem State.send_role (s : State) (o : Out) : (s.send o).role = s.role := rfl
@[simp] theorem State.send_coreMap (s : State) (o : Out) : (s.send o).coreMap = s.coreMap := rfl
@[simp] theorem State.send_sites (s : State) (o : Out) : (s.send o).sites = s.sites := rfl
@[simp] theorem State.send_fab (s : State) (o : Out) : (s.send o).fab = s.fab := rfl
@[simp] theorem State.send_mem (s : State) (o : Out) : (s.send o).mem = s.mem := rfl
@[simp] theorem State.send_links (s : State) (o : Out) : (s.send o).links = s.links := rfl
@[simp] theorem State.send_coll (s : State) (o : Out) : (s.send o).coll = s.coll := rfl
@[simp] theorem State.send_host (s : State) (o : Out) : (s.send o).host = s.host := rfl
@[simp] theorem State.send_clk (s : State) (o : Out) : (s.send o).clk = s.clk := rfl
@[simp] theorem State.send_pwr (s : State) (o : Out) : (s.send o).pwr = s.pwr := rfl
@[simp] theorem State.send_ic (s : State) (o : Out) : (s.send o).ic = s.ic := rfl
@[simp] theorem State.send_flt (s : State) (o : Out) : (s.send o).flt = s.flt := rfl
@[simp] theorem State.send_sec (s : State) (o : Out) : (s.send o).sec = s.sec := rfl
@[simp] theorem State.send_jrnl (s : State) (o : Out) : (s.send o).jrnl = s.jrnl := rfl
@[simp] theorem State.send_board (s : State) (o : Out) : (s.send o).board = s.board := rfl
@[simp] theorem State.send_free (s : State) (o : Out) : (s.send o).free = s.free := rfl
@[simp] theorem State.send_pending (s : State) (o : Out) : (s.send o).pending = s.pending := rfl

@[simp] theorem State.sendAll_fuses (s : State) (os : List Out) : (s.sendAll os).fuses = s.fuses := rfl
@[simp] theorem State.sendAll_id (s : State) (os : List Out) : (s.sendAll os).id = s.id := rfl
@[simp] theorem State.sendAll_shadows (s : State) (os : List Out) : (s.sendAll os).shadows = s.shadows := rfl
@[simp] theorem State.sendAll_helds (s : State) (os : List Out) : (s.sendAll os).helds = s.helds := rfl
@[simp] theorem State.sendAll_tb (s : State) (os : List Out) : (s.sendAll os).tb = s.tb := rfl
@[simp] theorem State.sendAll_groupN (s : State) (os : List Out) : (s.sendAll os).groupN = s.groupN := rfl
@[simp] theorem State.sendAll_groupH (s : State) (os : List Out) : (s.sendAll os).groupH = s.groupH := rfl
@[simp] theorem State.sendAll_groupNarrow (s : State) (os : List Out) : (s.sendAll os).groupNarrow = s.groupNarrow := rfl
@[simp] theorem State.sendAll_role (s : State) (os : List Out) : (s.sendAll os).role = s.role := rfl
@[simp] theorem State.sendAll_coreMap (s : State) (os : List Out) : (s.sendAll os).coreMap = s.coreMap := rfl
@[simp] theorem State.sendAll_sites (s : State) (os : List Out) : (s.sendAll os).sites = s.sites := rfl
@[simp] theorem State.sendAll_fab (s : State) (os : List Out) : (s.sendAll os).fab = s.fab := rfl
@[simp] theorem State.sendAll_mem (s : State) (os : List Out) : (s.sendAll os).mem = s.mem := rfl
@[simp] theorem State.sendAll_links (s : State) (os : List Out) : (s.sendAll os).links = s.links := rfl
@[simp] theorem State.sendAll_coll (s : State) (os : List Out) : (s.sendAll os).coll = s.coll := rfl
@[simp] theorem State.sendAll_host (s : State) (os : List Out) : (s.sendAll os).host = s.host := rfl
@[simp] theorem State.sendAll_clk (s : State) (os : List Out) : (s.sendAll os).clk = s.clk := rfl
@[simp] theorem State.sendAll_pwr (s : State) (os : List Out) : (s.sendAll os).pwr = s.pwr := rfl
@[simp] theorem State.sendAll_ic (s : State) (os : List Out) : (s.sendAll os).ic = s.ic := rfl
@[simp] theorem State.sendAll_flt (s : State) (os : List Out) : (s.sendAll os).flt = s.flt := rfl
@[simp] theorem State.sendAll_sec (s : State) (os : List Out) : (s.sendAll os).sec = s.sec := rfl
@[simp] theorem State.sendAll_jrnl (s : State) (os : List Out) : (s.sendAll os).jrnl = s.jrnl := rfl
@[simp] theorem State.sendAll_board (s : State) (os : List Out) : (s.sendAll os).board = s.board := rfl
@[simp] theorem State.sendAll_free (s : State) (os : List Out) : (s.sendAll os).free = s.free := rfl
@[simp] theorem State.sendAll_pending (s : State) (os : List Out) : (s.sendAll os).pending = s.pending := rfl

@[simp] theorem State.drew_fuses (s : State) : (s.drew).fuses = s.fuses := rfl
@[simp] theorem State.drew_id (s : State) : (s.drew).id = s.id := rfl
@[simp] theorem State.drew_shadows (s : State) : (s.drew).shadows = s.shadows := rfl
@[simp] theorem State.drew_helds (s : State) : (s.drew).helds = s.helds := rfl
@[simp] theorem State.drew_tb (s : State) : (s.drew).tb = s.tb := rfl
@[simp] theorem State.drew_groupN (s : State) : (s.drew).groupN = s.groupN := rfl
@[simp] theorem State.drew_groupH (s : State) : (s.drew).groupH = s.groupH := rfl
@[simp] theorem State.drew_groupNarrow (s : State) : (s.drew).groupNarrow = s.groupNarrow := rfl
@[simp] theorem State.drew_role (s : State) : (s.drew).role = s.role := rfl
@[simp] theorem State.drew_coreMap (s : State) : (s.drew).coreMap = s.coreMap := rfl
@[simp] theorem State.drew_sites (s : State) : (s.drew).sites = s.sites := rfl
@[simp] theorem State.drew_fab (s : State) : (s.drew).fab = s.fab := rfl
@[simp] theorem State.drew_mem (s : State) : (s.drew).mem = s.mem := rfl
@[simp] theorem State.drew_links (s : State) : (s.drew).links = s.links := rfl
@[simp] theorem State.drew_coll (s : State) : (s.drew).coll = s.coll := rfl
@[simp] theorem State.drew_host (s : State) : (s.drew).host = s.host := rfl
@[simp] theorem State.drew_clk (s : State) : (s.drew).clk = s.clk := rfl
@[simp] theorem State.drew_pwr (s : State) : (s.drew).pwr = s.pwr := rfl
@[simp] theorem State.drew_ic (s : State) : (s.drew).ic = s.ic := rfl
@[simp] theorem State.drew_flt (s : State) : (s.drew).flt = s.flt := rfl
@[simp] theorem State.drew_sec (s : State) : (s.drew).sec = s.sec := rfl
@[simp] theorem State.drew_jrnl (s : State) : (s.drew).jrnl = s.jrnl := rfl
@[simp] theorem State.drew_board (s : State) : (s.drew).board = s.board := rfl
@[simp] theorem State.drew_out (s : State) : (s.drew).out = s.out := rfl
@[simp] theorem State.drew_pending (s : State) : (s.drew).pending = s.pending := rfl

@[simp] theorem State.journal_fuses (s : State) (r : JRec) : (s.journal r).fuses = s.fuses := rfl
@[simp] theorem State.journal_id (s : State) (r : JRec) : (s.journal r).id = s.id := rfl
@[simp] theorem State.journal_shadows (s : State) (r : JRec) : (s.journal r).shadows = s.shadows := rfl
@[simp] theorem State.journal_helds (s : State) (r : JRec) : (s.journal r).helds = s.helds := rfl
@[simp] theorem State.journal_tb (s : State) (r : JRec) : (s.journal r).tb = s.tb := rfl
@[simp] theorem State.journal_groupN (s : State) (r : JRec) : (s.journal r).groupN = s.groupN := rfl
@[simp] theorem State.journal_groupH (s : State) (r : JRec) : (s.journal r).groupH = s.groupH := rfl
@[simp] theorem State.journal_groupNarrow (s : State) (r : JRec) : (s.journal r).groupNarrow = s.groupNarrow := rfl
@[simp] theorem State.journal_role (s : State) (r : JRec) : (s.journal r).role = s.role := rfl
@[simp] theorem State.journal_coreMap (s : State) (r : JRec) : (s.journal r).coreMap = s.coreMap := rfl
@[simp] theorem State.journal_sites (s : State) (r : JRec) : (s.journal r).sites = s.sites := rfl
@[simp] theorem State.journal_fab (s : State) (r : JRec) : (s.journal r).fab = s.fab := rfl
@[simp] theorem State.journal_mem (s : State) (r : JRec) : (s.journal r).mem = s.mem := rfl
@[simp] theorem State.journal_links (s : State) (r : JRec) : (s.journal r).links = s.links := rfl
@[simp] theorem State.journal_coll (s : State) (r : JRec) : (s.journal r).coll = s.coll := rfl
@[simp] theorem State.journal_host (s : State) (r : JRec) : (s.journal r).host = s.host := rfl
@[simp] theorem State.journal_clk (s : State) (r : JRec) : (s.journal r).clk = s.clk := rfl
@[simp] theorem State.journal_pwr (s : State) (r : JRec) : (s.journal r).pwr = s.pwr := rfl
@[simp] theorem State.journal_ic (s : State) (r : JRec) : (s.journal r).ic = s.ic := rfl
@[simp] theorem State.journal_flt (s : State) (r : JRec) : (s.journal r).flt = s.flt := rfl
@[simp] theorem State.journal_sec (s : State) (r : JRec) : (s.journal r).sec = s.sec := rfl
@[simp] theorem State.journal_board (s : State) (r : JRec) : (s.journal r).board = s.board := rfl
@[simp] theorem State.journal_free (s : State) (r : JRec) : (s.journal r).free = s.free := rfl
@[simp] theorem State.journal_out (s : State) (r : JRec) : (s.journal r).out = s.out := rfl
@[simp] theorem State.journal_pending (s : State) (r : JRec) : (s.journal r).pending = s.pending := rfl

@[simp] theorem State.record_fuses (s : State) (r : FaultRec) : (s.record r).fuses = s.fuses := rfl
@[simp] theorem State.record_id (s : State) (r : FaultRec) : (s.record r).id = s.id := rfl
@[simp] theorem State.record_shadows (s : State) (r : FaultRec) : (s.record r).shadows = s.shadows := rfl
@[simp] theorem State.record_helds (s : State) (r : FaultRec) : (s.record r).helds = s.helds := rfl
@[simp] theorem State.record_tb (s : State) (r : FaultRec) : (s.record r).tb = s.tb := rfl
@[simp] theorem State.record_groupN (s : State) (r : FaultRec) : (s.record r).groupN = s.groupN := rfl
@[simp] theorem State.record_groupH (s : State) (r : FaultRec) : (s.record r).groupH = s.groupH := rfl
@[simp] theorem State.record_groupNarrow (s : State) (r : FaultRec) : (s.record r).groupNarrow = s.groupNarrow := rfl
@[simp] theorem State.record_role (s : State) (r : FaultRec) : (s.record r).role = s.role := rfl
@[simp] theorem State.record_coreMap (s : State) (r : FaultRec) : (s.record r).coreMap = s.coreMap := rfl
@[simp] theorem State.record_sites (s : State) (r : FaultRec) : (s.record r).sites = s.sites := rfl
@[simp] theorem State.record_fab (s : State) (r : FaultRec) : (s.record r).fab = s.fab := rfl
@[simp] theorem State.record_mem (s : State) (r : FaultRec) : (s.record r).mem = s.mem := rfl
@[simp] theorem State.record_links (s : State) (r : FaultRec) : (s.record r).links = s.links := rfl
@[simp] theorem State.record_coll (s : State) (r : FaultRec) : (s.record r).coll = s.coll := rfl
@[simp] theorem State.record_host (s : State) (r : FaultRec) : (s.record r).host = s.host := rfl
@[simp] theorem State.record_clk (s : State) (r : FaultRec) : (s.record r).clk = s.clk := rfl
@[simp] theorem State.record_pwr (s : State) (r : FaultRec) : (s.record r).pwr = s.pwr := rfl
@[simp] theorem State.record_ic (s : State) (r : FaultRec) : (s.record r).ic = s.ic := rfl
@[simp] theorem State.record_sec (s : State) (r : FaultRec) : (s.record r).sec = s.sec := rfl
@[simp] theorem State.record_board (s : State) (r : FaultRec) : (s.record r).board = s.board := rfl
@[simp] theorem State.record_free (s : State) (r : FaultRec) : (s.record r).free = s.free := rfl
@[simp] theorem State.record_out (s : State) (r : FaultRec) : (s.record r).out = s.out := rfl
@[simp] theorem State.record_pending (s : State) (r : FaultRec) : (s.record r).pending = s.pending := rfl

@[simp] theorem State.fold_fuses (s : State) (c : BitVec 16) (u : Nat) (d : Word32) (a : Word64) : (s.fold c u d a).fuses = s.fuses := rfl
@[simp] theorem State.fold_id (s : State) (c : BitVec 16) (u : Nat) (d : Word32) (a : Word64) : (s.fold c u d a).id = s.id := rfl
@[simp] theorem State.fold_shadows (s : State) (c : BitVec 16) (u : Nat) (d : Word32) (a : Word64) : (s.fold c u d a).shadows = s.shadows := rfl
@[simp] theorem State.fold_helds (s : State) (c : BitVec 16) (u : Nat) (d : Word32) (a : Word64) : (s.fold c u d a).helds = s.helds := rfl
@[simp] theorem State.fold_tb (s : State) (c : BitVec 16) (u : Nat) (d : Word32) (a : Word64) : (s.fold c u d a).tb = s.tb := rfl
@[simp] theorem State.fold_groupN (s : State) (c : BitVec 16) (u : Nat) (d : Word32) (a : Word64) : (s.fold c u d a).groupN = s.groupN := rfl
@[simp] theorem State.fold_groupH (s : State) (c : BitVec 16) (u : Nat) (d : Word32) (a : Word64) : (s.fold c u d a).groupH = s.groupH := rfl
@[simp] theorem State.fold_groupNarrow (s : State) (c : BitVec 16) (u : Nat) (d : Word32) (a : Word64) : (s.fold c u d a).groupNarrow = s.groupNarrow := rfl
@[simp] theorem State.fold_role (s : State) (c : BitVec 16) (u : Nat) (d : Word32) (a : Word64) : (s.fold c u d a).role = s.role := rfl
@[simp] theorem State.fold_coreMap (s : State) (c : BitVec 16) (u : Nat) (d : Word32) (a : Word64) : (s.fold c u d a).coreMap = s.coreMap := rfl
@[simp] theorem State.fold_sites (s : State) (c : BitVec 16) (u : Nat) (d : Word32) (a : Word64) : (s.fold c u d a).sites = s.sites := rfl
@[simp] theorem State.fold_fab (s : State) (c : BitVec 16) (u : Nat) (d : Word32) (a : Word64) : (s.fold c u d a).fab = s.fab := rfl
@[simp] theorem State.fold_mem (s : State) (c : BitVec 16) (u : Nat) (d : Word32) (a : Word64) : (s.fold c u d a).mem = s.mem := rfl
@[simp] theorem State.fold_links (s : State) (c : BitVec 16) (u : Nat) (d : Word32) (a : Word64) : (s.fold c u d a).links = s.links := rfl
@[simp] theorem State.fold_coll (s : State) (c : BitVec 16) (u : Nat) (d : Word32) (a : Word64) : (s.fold c u d a).coll = s.coll := rfl
@[simp] theorem State.fold_host (s : State) (c : BitVec 16) (u : Nat) (d : Word32) (a : Word64) : (s.fold c u d a).host = s.host := rfl
@[simp] theorem State.fold_clk (s : State) (c : BitVec 16) (u : Nat) (d : Word32) (a : Word64) : (s.fold c u d a).clk = s.clk := rfl
@[simp] theorem State.fold_pwr (s : State) (c : BitVec 16) (u : Nat) (d : Word32) (a : Word64) : (s.fold c u d a).pwr = s.pwr := rfl
@[simp] theorem State.fold_ic (s : State) (c : BitVec 16) (u : Nat) (d : Word32) (a : Word64) : (s.fold c u d a).ic = s.ic := rfl
@[simp] theorem State.fold_sec (s : State) (c : BitVec 16) (u : Nat) (d : Word32) (a : Word64) : (s.fold c u d a).sec = s.sec := rfl
@[simp] theorem State.fold_jrnl (s : State) (c : BitVec 16) (u : Nat) (d : Word32) (a : Word64) : (s.fold c u d a).jrnl = s.jrnl := rfl
@[simp] theorem State.fold_board (s : State) (c : BitVec 16) (u : Nat) (d : Word32) (a : Word64) : (s.fold c u d a).board = s.board := rfl
@[simp] theorem State.fold_free (s : State) (c : BitVec 16) (u : Nat) (d : Word32) (a : Word64) : (s.fold c u d a).free = s.free := rfl
@[simp] theorem State.fold_out (s : State) (c : BitVec 16) (u : Nat) (d : Word32) (a : Word64) : (s.fold c u d a).out = s.out := rfl
@[simp] theorem State.fold_pending (s : State) (c : BitVec 16) (u : Nat) (d : Word32) (a : Word64) : (s.fold c u d a).pending = s.pending := rfl

@[simp] theorem State.tell_fuses (s : State) (c : BitVec 16) (n : Option SiteNo) (d : Word32) (a : Word64) : (s.tell c n d a).fuses = s.fuses := rfl
@[simp] theorem State.tell_id (s : State) (c : BitVec 16) (n : Option SiteNo) (d : Word32) (a : Word64) : (s.tell c n d a).id = s.id := rfl
@[simp] theorem State.tell_shadows (s : State) (c : BitVec 16) (n : Option SiteNo) (d : Word32) (a : Word64) : (s.tell c n d a).shadows = s.shadows := rfl
@[simp] theorem State.tell_helds (s : State) (c : BitVec 16) (n : Option SiteNo) (d : Word32) (a : Word64) : (s.tell c n d a).helds = s.helds := rfl
@[simp] theorem State.tell_tb (s : State) (c : BitVec 16) (n : Option SiteNo) (d : Word32) (a : Word64) : (s.tell c n d a).tb = s.tb := rfl
@[simp] theorem State.tell_groupN (s : State) (c : BitVec 16) (n : Option SiteNo) (d : Word32) (a : Word64) : (s.tell c n d a).groupN = s.groupN := rfl
@[simp] theorem State.tell_groupH (s : State) (c : BitVec 16) (n : Option SiteNo) (d : Word32) (a : Word64) : (s.tell c n d a).groupH = s.groupH := rfl
@[simp] theorem State.tell_groupNarrow (s : State) (c : BitVec 16) (n : Option SiteNo) (d : Word32) (a : Word64) : (s.tell c n d a).groupNarrow = s.groupNarrow := rfl
@[simp] theorem State.tell_role (s : State) (c : BitVec 16) (n : Option SiteNo) (d : Word32) (a : Word64) : (s.tell c n d a).role = s.role := rfl
@[simp] theorem State.tell_coreMap (s : State) (c : BitVec 16) (n : Option SiteNo) (d : Word32) (a : Word64) : (s.tell c n d a).coreMap = s.coreMap := rfl
@[simp] theorem State.tell_sites (s : State) (c : BitVec 16) (n : Option SiteNo) (d : Word32) (a : Word64) : (s.tell c n d a).sites = s.sites := rfl
@[simp] theorem State.tell_fab (s : State) (c : BitVec 16) (n : Option SiteNo) (d : Word32) (a : Word64) : (s.tell c n d a).fab = s.fab := rfl
@[simp] theorem State.tell_mem (s : State) (c : BitVec 16) (n : Option SiteNo) (d : Word32) (a : Word64) : (s.tell c n d a).mem = s.mem := rfl
@[simp] theorem State.tell_links (s : State) (c : BitVec 16) (n : Option SiteNo) (d : Word32) (a : Word64) : (s.tell c n d a).links = s.links := rfl
@[simp] theorem State.tell_coll (s : State) (c : BitVec 16) (n : Option SiteNo) (d : Word32) (a : Word64) : (s.tell c n d a).coll = s.coll := rfl
@[simp] theorem State.tell_host (s : State) (c : BitVec 16) (n : Option SiteNo) (d : Word32) (a : Word64) : (s.tell c n d a).host = s.host := rfl
@[simp] theorem State.tell_clk (s : State) (c : BitVec 16) (n : Option SiteNo) (d : Word32) (a : Word64) : (s.tell c n d a).clk = s.clk := rfl
@[simp] theorem State.tell_pwr (s : State) (c : BitVec 16) (n : Option SiteNo) (d : Word32) (a : Word64) : (s.tell c n d a).pwr = s.pwr := rfl
@[simp] theorem State.tell_ic (s : State) (c : BitVec 16) (n : Option SiteNo) (d : Word32) (a : Word64) : (s.tell c n d a).ic = s.ic := rfl
@[simp] theorem State.tell_sec (s : State) (c : BitVec 16) (n : Option SiteNo) (d : Word32) (a : Word64) : (s.tell c n d a).sec = s.sec := rfl
@[simp] theorem State.tell_jrnl (s : State) (c : BitVec 16) (n : Option SiteNo) (d : Word32) (a : Word64) : (s.tell c n d a).jrnl = s.jrnl := rfl
@[simp] theorem State.tell_board (s : State) (c : BitVec 16) (n : Option SiteNo) (d : Word32) (a : Word64) : (s.tell c n d a).board = s.board := rfl
@[simp] theorem State.tell_free (s : State) (c : BitVec 16) (n : Option SiteNo) (d : Word32) (a : Word64) : (s.tell c n d a).free = s.free := rfl
@[simp] theorem State.tell_out (s : State) (c : BitVec 16) (n : Option SiteNo) (d : Word32) (a : Word64) : (s.tell c n d a).out = s.out := rfl
@[simp] theorem State.tell_pending (s : State) (c : BitVec 16) (n : Option SiteNo) (d : Word32) (a : Word64) : (s.tell c n d a).pending = s.pending := rfl

@[simp] theorem State.ddrWrite_fuses (s : State) (a : Nat) (bs : List Byte) : (s.ddrWrite a bs).fuses = s.fuses := rfl
@[simp] theorem State.ddrWrite_id (s : State) (a : Nat) (bs : List Byte) : (s.ddrWrite a bs).id = s.id := rfl
@[simp] theorem State.ddrWrite_shadows (s : State) (a : Nat) (bs : List Byte) : (s.ddrWrite a bs).shadows = s.shadows := rfl
@[simp] theorem State.ddrWrite_helds (s : State) (a : Nat) (bs : List Byte) : (s.ddrWrite a bs).helds = s.helds := rfl
@[simp] theorem State.ddrWrite_tb (s : State) (a : Nat) (bs : List Byte) : (s.ddrWrite a bs).tb = s.tb := rfl
@[simp] theorem State.ddrWrite_groupN (s : State) (a : Nat) (bs : List Byte) : (s.ddrWrite a bs).groupN = s.groupN := rfl
@[simp] theorem State.ddrWrite_groupH (s : State) (a : Nat) (bs : List Byte) : (s.ddrWrite a bs).groupH = s.groupH := rfl
@[simp] theorem State.ddrWrite_groupNarrow (s : State) (a : Nat) (bs : List Byte) : (s.ddrWrite a bs).groupNarrow = s.groupNarrow := rfl
@[simp] theorem State.ddrWrite_role (s : State) (a : Nat) (bs : List Byte) : (s.ddrWrite a bs).role = s.role := rfl
@[simp] theorem State.ddrWrite_coreMap (s : State) (a : Nat) (bs : List Byte) : (s.ddrWrite a bs).coreMap = s.coreMap := rfl
@[simp] theorem State.ddrWrite_sites (s : State) (a : Nat) (bs : List Byte) : (s.ddrWrite a bs).sites = s.sites := rfl
@[simp] theorem State.ddrWrite_fab (s : State) (a : Nat) (bs : List Byte) : (s.ddrWrite a bs).fab = s.fab := rfl
@[simp] theorem State.ddrWrite_links (s : State) (a : Nat) (bs : List Byte) : (s.ddrWrite a bs).links = s.links := rfl
@[simp] theorem State.ddrWrite_coll (s : State) (a : Nat) (bs : List Byte) : (s.ddrWrite a bs).coll = s.coll := rfl
@[simp] theorem State.ddrWrite_host (s : State) (a : Nat) (bs : List Byte) : (s.ddrWrite a bs).host = s.host := rfl
@[simp] theorem State.ddrWrite_clk (s : State) (a : Nat) (bs : List Byte) : (s.ddrWrite a bs).clk = s.clk := rfl
@[simp] theorem State.ddrWrite_pwr (s : State) (a : Nat) (bs : List Byte) : (s.ddrWrite a bs).pwr = s.pwr := rfl
@[simp] theorem State.ddrWrite_ic (s : State) (a : Nat) (bs : List Byte) : (s.ddrWrite a bs).ic = s.ic := rfl
@[simp] theorem State.ddrWrite_flt (s : State) (a : Nat) (bs : List Byte) : (s.ddrWrite a bs).flt = s.flt := rfl
@[simp] theorem State.ddrWrite_sec (s : State) (a : Nat) (bs : List Byte) : (s.ddrWrite a bs).sec = s.sec := rfl
@[simp] theorem State.ddrWrite_jrnl (s : State) (a : Nat) (bs : List Byte) : (s.ddrWrite a bs).jrnl = s.jrnl := rfl
@[simp] theorem State.ddrWrite_board (s : State) (a : Nat) (bs : List Byte) : (s.ddrWrite a bs).board = s.board := rfl
@[simp] theorem State.ddrWrite_free (s : State) (a : Nat) (bs : List Byte) : (s.ddrWrite a bs).free = s.free := rfl
@[simp] theorem State.ddrWrite_out (s : State) (a : Nat) (bs : List Byte) : (s.ddrWrite a bs).out = s.out := rfl
@[simp] theorem State.ddrWrite_pending (s : State) (a : Nat) (bs : List Byte) : (s.ddrWrite a bs).pending = s.pending := rfl

/-! ### The time base -/

@[simp] theorem State.at_fuses (s : State) (t : Word64) : (s.at t).fuses = s.fuses := by
  unfold State.at; split <;> rfl
@[simp] theorem State.at_id (s : State) (t : Word64) : (s.at t).id = s.id := by
  unfold State.at; split <;> rfl
@[simp] theorem State.at_shadows (s : State) (t : Word64) : (s.at t).shadows = s.shadows := by
  unfold State.at; split <;> rfl
@[simp] theorem State.at_helds (s : State) (t : Word64) : (s.at t).helds = s.helds := by
  unfold State.at; split <;> rfl
@[simp] theorem State.at_groupN (s : State) (t : Word64) : (s.at t).groupN = s.groupN := by
  unfold State.at; split <;> rfl
@[simp] theorem State.at_groupH (s : State) (t : Word64) : (s.at t).groupH = s.groupH := by
  unfold State.at; split <;> rfl
@[simp] theorem State.at_groupNarrow (s : State) (t : Word64) : (s.at t).groupNarrow = s.groupNarrow := by
  unfold State.at; split <;> rfl
@[simp] theorem State.at_role (s : State) (t : Word64) : (s.at t).role = s.role := by
  unfold State.at; split <;> rfl
@[simp] theorem State.at_coreMap (s : State) (t : Word64) : (s.at t).coreMap = s.coreMap := by
  unfold State.at; split <;> rfl
@[simp] theorem State.at_sites (s : State) (t : Word64) : (s.at t).sites = s.sites := by
  unfold State.at; split <;> rfl
@[simp] theorem State.at_fab (s : State) (t : Word64) : (s.at t).fab = s.fab := by
  unfold State.at; split <;> rfl
@[simp] theorem State.at_mem (s : State) (t : Word64) : (s.at t).mem = s.mem := by
  unfold State.at; split <;> rfl
@[simp] theorem State.at_links (s : State) (t : Word64) : (s.at t).links = s.links := by
  unfold State.at; split <;> rfl
@[simp] theorem State.at_coll (s : State) (t : Word64) : (s.at t).coll = s.coll := by
  unfold State.at; split <;> rfl
@[simp] theorem State.at_host (s : State) (t : Word64) : (s.at t).host = s.host := by
  unfold State.at; split <;> rfl
@[simp] theorem State.at_clk (s : State) (t : Word64) : (s.at t).clk = s.clk := by
  unfold State.at; split <;> rfl
@[simp] theorem State.at_pwr (s : State) (t : Word64) : (s.at t).pwr = s.pwr := by
  unfold State.at; split <;> rfl
@[simp] theorem State.at_ic (s : State) (t : Word64) : (s.at t).ic = s.ic := by
  unfold State.at; split <;> rfl
@[simp] theorem State.at_flt (s : State) (t : Word64) : (s.at t).flt = s.flt := by
  unfold State.at; split <;> rfl
@[simp] theorem State.at_sec (s : State) (t : Word64) : (s.at t).sec = s.sec := by
  unfold State.at; split <;> rfl
@[simp] theorem State.at_jrnl (s : State) (t : Word64) : (s.at t).jrnl = s.jrnl := by
  unfold State.at; split <;> rfl
@[simp] theorem State.at_board (s : State) (t : Word64) : (s.at t).board = s.board := by
  unfold State.at; split <;> rfl
@[simp] theorem State.at_free (s : State) (t : Word64) : (s.at t).free = s.free := by
  unfold State.at; split <;> rfl
@[simp] theorem State.at_out (s : State) (t : Word64) : (s.at t).out = s.out := by
  unfold State.at; split <;> rfl
@[simp] theorem State.at_pending (s : State) (t : Word64) : (s.at t).pending = s.pending := by
  unfold State.at; split <;> rfl

/-! ### A write to the host -/

@[simp] theorem State.sendHost_fuses (s : State) (o : Out) : (s.sendHost o).fuses = s.fuses := by
  unfold State.sendHost; split <;> rfl
@[simp] theorem State.sendHost_id (s : State) (o : Out) : (s.sendHost o).id = s.id := by
  unfold State.sendHost; split <;> rfl
@[simp] theorem State.sendHost_shadows (s : State) (o : Out) : (s.sendHost o).shadows = s.shadows := by
  unfold State.sendHost; split <;> rfl
@[simp] theorem State.sendHost_helds (s : State) (o : Out) : (s.sendHost o).helds = s.helds := by
  unfold State.sendHost; split <;> rfl
@[simp] theorem State.sendHost_tb (s : State) (o : Out) : (s.sendHost o).tb = s.tb := by
  unfold State.sendHost; split <;> rfl
@[simp] theorem State.sendHost_groupN (s : State) (o : Out) : (s.sendHost o).groupN = s.groupN := by
  unfold State.sendHost; split <;> rfl
@[simp] theorem State.sendHost_groupH (s : State) (o : Out) : (s.sendHost o).groupH = s.groupH := by
  unfold State.sendHost; split <;> rfl
@[simp] theorem State.sendHost_groupNarrow (s : State) (o : Out) : (s.sendHost o).groupNarrow = s.groupNarrow := by
  unfold State.sendHost; split <;> rfl
@[simp] theorem State.sendHost_role (s : State) (o : Out) : (s.sendHost o).role = s.role := by
  unfold State.sendHost; split <;> rfl
@[simp] theorem State.sendHost_coreMap (s : State) (o : Out) : (s.sendHost o).coreMap = s.coreMap := by
  unfold State.sendHost; split <;> rfl
@[simp] theorem State.sendHost_sites (s : State) (o : Out) : (s.sendHost o).sites = s.sites := by
  unfold State.sendHost; split <;> rfl
@[simp] theorem State.sendHost_fab (s : State) (o : Out) : (s.sendHost o).fab = s.fab := by
  unfold State.sendHost; split <;> rfl
@[simp] theorem State.sendHost_mem (s : State) (o : Out) : (s.sendHost o).mem = s.mem := by
  unfold State.sendHost; split <;> rfl
@[simp] theorem State.sendHost_links (s : State) (o : Out) : (s.sendHost o).links = s.links := by
  unfold State.sendHost; split <;> rfl
@[simp] theorem State.sendHost_coll (s : State) (o : Out) : (s.sendHost o).coll = s.coll := by
  unfold State.sendHost; split <;> rfl
@[simp] theorem State.sendHost_clk (s : State) (o : Out) : (s.sendHost o).clk = s.clk := by
  unfold State.sendHost; split <;> rfl
@[simp] theorem State.sendHost_pwr (s : State) (o : Out) : (s.sendHost o).pwr = s.pwr := by
  unfold State.sendHost; split <;> rfl
@[simp] theorem State.sendHost_ic (s : State) (o : Out) : (s.sendHost o).ic = s.ic := by
  unfold State.sendHost; split <;> rfl
@[simp] theorem State.sendHost_flt (s : State) (o : Out) : (s.sendHost o).flt = s.flt := by
  unfold State.sendHost; split <;> rfl
@[simp] theorem State.sendHost_sec (s : State) (o : Out) : (s.sendHost o).sec = s.sec := by
  unfold State.sendHost; split <;> rfl
@[simp] theorem State.sendHost_jrnl (s : State) (o : Out) : (s.sendHost o).jrnl = s.jrnl := by
  unfold State.sendHost; split <;> rfl
@[simp] theorem State.sendHost_board (s : State) (o : Out) : (s.sendHost o).board = s.board := by
  unfold State.sendHost; split <;> rfl
@[simp] theorem State.sendHost_free (s : State) (o : Out) : (s.sendHost o).free = s.free := by
  unfold State.sendHost; split <;> rfl
@[simp] theorem State.sendHost_pending (s : State) (o : Out) : (s.sendHost o).pending = s.pending := by
  unfold State.sendHost; split <;> rfl

/-! ### A part after a write -/

@[simp] theorem State.site_setSite_same (s : State) (n : SiteNo) (v : Site) : (s.setSite n v).site n = v := by
  simp [State.site, State.setSite]
theorem State.site_setSite_other (s : State) {n m : SiteNo} (v : Site) (h : m ≠ n) : (s.setSite n v).site m = s.site m := by
  simp only [State.site, State.setSite]
  exact tget_tset_other _ _ v (fun e => h (Fin.ext e))
@[simp] theorem State.link_setLink_same (s : State) (n : LinkNo) (v : Link) : (s.setLink n v).link n = v := by
  simp [State.link, State.setLink]
theorem State.link_setLink_other (s : State) {n m : LinkNo} (v : Link) (h : m ≠ n) : (s.setLink n v).link m = s.link m := by
  simp only [State.link, State.setLink]
  exact tget_tset_other _ _ v (fun e => h (Fin.ext e))
@[simp] theorem State.bell_setBell_same (s : State) (n : BellNo) (v : Bell) : (s.setBell n v).bell n = v := by
  simp [State.bell, State.setBell]
theorem State.bell_setBell_other (s : State) {n m : BellNo} (v : Bell) (h : m ≠ n) : (s.setBell n v).bell m = s.bell m := by
  simp only [State.bell, State.setBell]
  exact tget_tset_other _ _ v (fun e => h (Fin.ext e))
@[simp] theorem State.ring_setRing_same (s : State) (n : RingNo) (v : Ring) : (s.setRing n v).ring n = v := by
  simp [State.ring, State.setRing]
theorem State.ring_setRing_other (s : State) {n m : RingNo} (v : Ring) (h : m ≠ n) : (s.setRing n v).ring m = s.ring m := by
  simp only [State.ring, State.setRing]
  exact tget_tset_other _ _ v (fun e => h (Fin.ext e))
@[simp] theorem State.region_setRegion_same (s : State) (n : RegionNo) (v : Region) : (s.setRegion n v).region n = v := by
  simp [State.region, State.setRegion]
theorem State.region_setRegion_other (s : State) {n m : RegionNo} (v : Region) (h : m ≠ n) : (s.setRegion n v).region m = s.region m := by
  simp only [State.region, State.setRegion]
  exact tget_tset_other _ _ v (fun e => h (Fin.ext e))
@[simp] theorem State.dom_setDom_same (s : State) (n : DomainNo) (v : Domain) : (s.setDom n v).dom n = v := by
  simp [State.dom, State.setDom]
theorem State.dom_setDom_other (s : State) {n m : DomainNo} (v : Domain) (h : m ≠ n) : (s.setDom n v).dom m = s.dom m := by
  simp only [State.dom, State.setDom]
  exact tget_tset_other _ _ v (fun e => h (Fin.ext e))
@[simp] theorem State.msite_setMsite_same (s : State) (n : MemNo) (v : MemSite) : (s.setMsite n v).msite n = v := by
  simp [State.msite, State.setMsite]
theorem State.msite_setMsite_other (s : State) {n m : MemNo} (v : MemSite) (h : m ≠ n) : (s.setMsite n v).msite m = s.msite m := by
  simp only [State.msite, State.setMsite]
  exact tget_tset_other _ _ v (fun e => h (Fin.ext e))
@[simp] theorem State.hamlet_setHamlet_same (s : State) (n : HamletNo) (v : Hamlet) : (s.setHamlet n v).hamlet n = v := by
  simp [State.hamlet, State.setHamlet]
theorem State.hamlet_setHamlet_other (s : State) {n m : HamletNo} (v : Hamlet) (h : m ≠ n) : (s.setHamlet n v).hamlet m = s.hamlet m := by
  simp only [State.hamlet, State.setHamlet]
  exact tget_tset_other _ _ v (fun e => h (Fin.ext e))
@[simp] theorem State.tree_setTree_same (s : State) (n : Fin 64) (v : TreeCtx) : (s.setTree n v).tree n = v := by
  simp [State.tree, State.setTree]
theorem State.tree_setTree_other (s : State) {n m : Fin 64} (v : TreeCtx) (h : m ≠ n) : (s.setTree n v).tree m = s.tree m := by
  simp only [State.tree, State.setTree]
  exact tget_tset_other _ _ v (fun e => h (Fin.ext e))
@[simp] theorem State.site_modSite_same (s : State) (n : SiteNo) (f : Site → Site) : (s.modSite n f).site n = f (s.site n) :=
  s.site_setSite_same n _
theorem State.site_modSite_other (s : State) {n m : SiteNo} (f : Site → Site) (h : m ≠ n) : (s.modSite n f).site m = s.site m :=
  s.site_setSite_other _ h
@[simp] theorem State.link_modLink_same (s : State) (n : LinkNo) (f : Link → Link) : (s.modLink n f).link n = f (s.link n) :=
  s.link_setLink_same n _
theorem State.link_modLink_other (s : State) {n m : LinkNo} (f : Link → Link) (h : m ≠ n) : (s.modLink n f).link m = s.link m :=
  s.link_setLink_other _ h
@[simp] theorem State.ring_modRing_same (s : State) (n : RingNo) (f : Ring → Ring) : (s.modRing n f).ring n = f (s.ring n) :=
  s.ring_setRing_same n _
theorem State.ring_modRing_other (s : State) {n m : RingNo} (f : Ring → Ring) (h : m ≠ n) : (s.modRing n f).ring m = s.ring m :=
  s.ring_setRing_other _ h
@[simp] theorem State.region_modRegion_same (s : State) (n : RegionNo) (f : Region → Region) : (s.modRegion n f).region n = f (s.region n) :=
  s.region_setRegion_same n _
theorem State.region_modRegion_other (s : State) {n m : RegionNo} (f : Region → Region) (h : m ≠ n) : (s.modRegion n f).region m = s.region m :=
  s.region_setRegion_other _ h
@[simp] theorem State.dom_modDom_same (s : State) (n : DomainNo) (f : Domain → Domain) : (s.modDom n f).dom n = f (s.dom n) :=
  s.dom_setDom_same n _
theorem State.dom_modDom_other (s : State) {n m : DomainNo} (f : Domain → Domain) (h : m ≠ n) : (s.modDom n f).dom m = s.dom m :=
  s.dom_setDom_other _ h
@[simp] theorem State.msite_modMsite_same (s : State) (n : MemNo) (f : MemSite → MemSite) : (s.modMsite n f).msite n = f (s.msite n) :=
  s.msite_setMsite_same n _
theorem State.msite_modMsite_other (s : State) {n m : MemNo} (f : MemSite → MemSite) (h : m ≠ n) : (s.modMsite n f).msite m = s.msite m :=
  s.msite_setMsite_other _ h
@[simp] theorem State.hamlet_modHamlet_same (s : State) (n : HamletNo) (f : Hamlet → Hamlet) : (s.modHamlet n f).hamlet n = f (s.hamlet n) :=
  s.hamlet_setHamlet_same n _
theorem State.hamlet_modHamlet_other (s : State) {n m : HamletNo} (f : Hamlet → Hamlet) (h : m ≠ n) : (s.modHamlet n f).hamlet m = s.hamlet m :=
  s.hamlet_setHamlet_other _ h

/-- A logical core's site after a binding. -/
@[simp] theorem State.siteOf_bind_same (s : State) (lc : LCoreNo) (n : Option SiteNo) :
    (s.bind lc n).siteOf lc = n := by
  simp [State.siteOf, State.bind]

/-- A binding leaves every other logical core. -/
theorem State.siteOf_bind_other (s : State) {lc k : LCoreNo} (n : Option SiteNo) (h : k ≠ lc) :
    (s.bind lc n).siteOf k = s.siteOf k := by
  simp only [State.siteOf, State.bind]
  exact tget_tset_other _ _ n (fun e => h (Fin.ext e))

/-- A fold of operations that each keep a value keeps it: an invariant over a walk is proved once. -/
theorem foldl_keeps {α β γ : Type} (P : α → γ) (f : α → β → α) (h : ∀ a b, P (f a b) = P a) (l : List β)
    (a : α) : P (l.foldl f a) = P a := by
  induction l generalizing a with
  | nil => rfl
  | cons b l ih => exact (ih (f a b)).trans (h a b)

/-- A fold of operations that each keep a property keeps it. -/
theorem foldl_inv {α β : Type} (P : α → Prop) (f : α → β → α) (h : ∀ a b, P a → P (f a b)) (l : List β)
    (a : α) (ha : P a) : P (l.foldl f a) := by
  induction l generalizing a with
  | nil => exact ha
  | cons b l ih => exact ih (f a b) (h a b ha)

end Sys2Proof.Machine
end

