-- ==== Sys2Proof/Laws/Dispatch.lean ====
section
/-!
SUPPORT. Laws/Dispatch.lean: what a dispatched bundle does (R125, R128): it commits; each syllable's effect on
its site; what a commit leaves alone; the register a SCALAR syllable writes.
-/

namespace Sys2Proof.Machine

/-- What was fetched and read for a bundle being sound, nothing comes before the cycle in which it is tried. -/
theorem begin_clean {s : State} {d : Disp} (y : Syll) (h : fetchedClean s d) : s.begin d y = s := by
  obtain ⟨h1, h2, h3, h4, h5⟩ := h
  simp only [State.begin, h1, h2, h3]
  have p : s.passed d.site (some d.head) 0 = s := by simp [State.passed, h4]
  have f : s.fetch d.site .clean = s := by simp [State.fetch, h5]
  rw [p, f]
  unfold State.dispatchReads; simp only; split <;> simp

/-- A bundle that dispatches commits. -/
theorem dispatch_commits {s : State} {d : Disp} {y : Syll} (h : dispatches s d y) :
    s.dispatch d y = s.commit d.site d.head (slotsOf d y) := by
  obtain ⟨h0, h1, h2, h3, h4, h5⟩ := h
  simp [State.dispatch, begin_clean y h0, State.attempt, h1, h2, h3, h4, h5]

/-! ### The effect of one syllable -/

theorem siteDispatched_refl (c : Site) : siteDispatched c c := rfl

theorem siteDispatched_trans {a b c : Site} (h : siteDispatched a b) (k : siteDispatched b c) :
    siteDispatched a c := by
  exact Eq.trans k h

theorem setS_dispatched (c : Site) (r : BitVec 5) (v : Word64) : siteDispatched c (c.setS r v) := by
  unfold Site.setS; split <;> rfl

theorem mark_dispatched (c : Site) (r : BitVec 5) (v : Option Word64) : siteDispatched c (c.mark r v) := by
  unfold Site.mark; split <;> rfl

theorem signal_dispatched (c : Site) (t : BitVec 6) (n : Nat) : siteDispatched c (c.signal t n) := by
  unfold Site.signal; simp only; split <;> rfl

theorem sillTryFree_dispatched (c : Site) (i : Nat) : siteDispatched c (c.sillTryFree i) := by
  unfold Site.sillTryFree; simp only; split
  · split <;> rfl
  · rfl

theorem statusClear_dispatched (c : Site) (src : BitVec 8) : siteDispatched c (c.statusClear src) := by
  unfold Site.statusClear; split <;> rfl

/-- One syllable's effect leaves memories, vector registers, error records and power states. -/
theorem effect_dispatched (c0 : Site) (st : BitVec 8 → Word64) (k : Nat) (c : Site) (y : Syll) :
    siteDispatched c (c0.effect st k c y) := by
  cases y with
  | alu op f => exact setS_dispatched _ _ _
  | li rd imm => exact setS_dispatched _ _ _
  | lih rd imm => exact setS_dispatched _ _ _
  | smova rd rs => exact setS_dispatched _ _ _
  | lds f =>
    unfold Site.effect Site.mark; dsimp only
    split <;> simp only [siteDispatched, Site.undispatched]
  | signal tok n => exact signal_dispatched _ _ _
  | sfree e =>
    unfold Site.effect Site.sillTryFree; dsimp only
    split
    · split <;> simp only [siteDispatched, Site.undispatched, Site.sillGone, Site.setEntry]
    · simp only [siteDispatched, Site.undispatched, Site.setEntry]
  | status rd clear src =>
    unfold Site.effect; dsimp only
    split
    · exact siteDispatched_trans (mark_dispatched c rd (some (st src))) (statusClear_dispatched _ src)
    · exact mark_dispatched _ _ _
  | forecast m l a b =>
    unfold Site.effect; dsimp only
    split <;> simp only [siteDispatched, Site.undispatched]
  | matrix f =>
    unfold Site.effect; dsimp only
    split <;> simp only [siteDispatched, Site.undispatched, Site.pushArray, Site.modEng, Site.setEng, Site.claim,
      Site.setEntry]
  | vec op f =>
    cases op with
    | vmovs =>
      unfold Site.effect Site.mark; dsimp only
      split <;> simp only [siteDispatched, Site.undispatched]
    | _ => unfold Site.effect; simp only [siteDispatched, Site.undispatched]
  | _ =>
    unfold Site.effect
    simp only [siteDispatched, Site.undispatched, Site.pushArray, Site.pushFeed, Site.pushLatch,
      Site.modEng, Site.setEng, Site.claim, Site.setEntry, Site.setQueue, Site.setA]

/-! ### S and A registers -/

/-- The S register a syllable writes at the end of the cycle, with its value (R128, Table 5.6). -/
def Site.writesNow (c0 : Site) : Syll → Option (BitVec 5 × Word64)
  | .alu op f => some (f.rd, aluResult op (c0.sreg f.rs1) (c0.operand2 f))
  | .li rd imm => some (rd, imm.signExtend 64)
  | .lih rd imm => some (rd, imm ++ (c0.sreg rd).extractLsb' 0 32)
  | .smova rd rs1 => some (rd, c0.areg rs1.toNat)
  | _ => none

/-- The A register a syllable writes, with its value (Table 5.6). -/
def Site.writesA (c0 : Site) : Syll → Option (BitVec 5 × Word64)
  | .aadd f => some (f.rd, c0.areg f.rs1.toNat + c0.operand2 f)
  | .amov rd rs1 => some (rd, c0.sreg rs1)
  | _ => none

theorem sreg_congr {c c' : Site} (h : c'.sregs = c.sregs) (r : BitVec 5) : c'.sreg r = c.sreg r := by
  simp [Site.sreg, h]

theorem areg_congr {c c' : Site} (h : c'.aregs = c.aregs) (r : Nat) : c'.areg r = c.areg r := by
  simp [Site.areg, h]

/-- A read of an S register after a write: S0 stays 0 (Table 4.1). -/
theorem sreg_setS (c : Site) (r q : BitVec 5) (v : Word64) :
    (c.setS r v).sreg q = if q = r ∧ r ≠ 0 then v else c.sreg q := by
  by_cases hr : r = 0
  · simp [hr, Site.setS]
  · have hs : (c.setS r v).sregs = tset (fun _ => 0) c.sregs r.toNat v := by rw [Site.setS, if_neg hr]
    by_cases hq : q = r
    · subst hq
      have hr' : ¬ q = 0#5 := hr
      simp [Site.sreg, hs, hr']
    · have : q.toNat ≠ r.toNat := fun h => hq (BitVec.eq_of_toNat_eq h)
      simp [Site.sreg, hs, hq, tget_tset_other _ _ _ this]

@[simp] theorem setS_aregs (c : Site) (r : BitVec 5) (v : Word64) : (c.setS r v).aregs = c.aregs := by
  unfold Site.setS; split <;> rfl

@[simp] theorem mark_sregs (c : Site) (r : BitVec 5) (v : Option Word64) : (c.mark r v).sregs = c.sregs := by
  unfold Site.mark; split <;> rfl

@[simp] theorem mark_aregs (c : Site) (r : BitVec 5) (v : Option Word64) : (c.mark r v).aregs = c.aregs := by
  unfold Site.mark; split <;> rfl

@[simp] theorem signal_sregs (c : Site) (t : BitVec 6) (n : Nat) : (c.signal t n).sregs = c.sregs := by
  unfold Site.signal; simp only; split <;> rfl

@[simp] theorem signal_aregs (c : Site) (t : BitVec 6) (n : Nat) : (c.signal t n).aregs = c.aregs := by
  unfold Site.signal; simp only; split <;> rfl

@[simp] theorem sillTryFree_sregs (c : Site) (i : Nat) : (c.sillTryFree i).sregs = c.sregs := by
  unfold Site.sillTryFree; simp only; split
  · split <;> rfl
  · rfl

@[simp] theorem sillTryFree_aregs (c : Site) (i : Nat) : (c.sillTryFree i).aregs = c.aregs := by
  unfold Site.sillTryFree; simp only; split
  · split <;> rfl
  · rfl

@[simp] theorem statusClear_sregs (c : Site) (src : BitVec 8) : (c.statusClear src).sregs = c.sregs := by
  unfold Site.statusClear; split <;> rfl

@[simp] theorem statusClear_aregs (c : Site) (src : BitVec 8) : (c.statusClear src).aregs = c.aregs := by
  unfold Site.statusClear; split <;> rfl

/-- A syllable writes the S register it names, and no other. -/
theorem effect_sreg (c0 : Site) (st : BitVec 8 → Word64) (k : Nat) (c : Site) (y : Syll) (q : BitVec 5) :
    (c0.effect st k c y).sreg q =
      match c0.writesNow y with
      | some (r, v) => if q = r ∧ r ≠ 0 then v else c.sreg q
      | none => c.sreg q := by
  cases y with
  | alu op f => exact sreg_setS _ _ _ _
  | li rd imm => exact sreg_setS _ _ _ _
  | lih rd imm => exact sreg_setS _ _ _ _
  | smova rd rs => exact sreg_setS _ _ _ _
  | lds f => exact sreg_congr (mark_sregs c f.reg none) q
  | signal tok n => exact sreg_congr (signal_sregs _ _ _) q
  | sfree e => exact sreg_congr (sillTryFree_sregs _ _) q
  | status rd clear src =>
    unfold Site.effect Site.writesNow; dsimp only
    split
    · exact sreg_congr ((statusClear_sregs _ _).trans (mark_sregs _ _ _)) q
    · exact sreg_congr (mark_sregs _ _ _) q
  | forecast m l a b =>
    unfold Site.effect Site.writesNow; dsimp only
    split <;> exact sreg_congr (by simp only) q
  | matrix f =>
    unfold Site.effect Site.writesNow; dsimp only
    split <;> exact sreg_congr (by simp only [Site.pushArray, Site.modEng, Site.setEng, Site.claim, Site.setEntry]) q
  | vec op f =>
    cases op with
    | vmovs => exact sreg_congr (mark_sregs c f.vd none) q
    | _ => exact sreg_congr (by unfold Site.effect; dsimp only) q
  | _ => exact sreg_congr (by unfold Site.effect; simp only [Site.pushArray, Site.pushFeed, Site.pushLatch, Site.modEng,
      Site.setEng, Site.claim, Site.setEntry, Site.setQueue, Site.setA]) q

/-- A syllable writes the A register it names, and no other. -/
theorem effect_areg (c0 : Site) (st : BitVec 8 → Word64) (k : Nat) (c : Site) (y : Syll) (q : Nat) :
    (c0.effect st k c y).areg q =
      match c0.writesA y with
      | some (r, v) => if q = r.toNat then v else c.areg q
      | none => c.areg q := by
  have hset (r : Nat) (v : Word64) : (c.setA r v).areg q = if q = r then v else c.areg q := by
    by_cases h : q = r
    · subst h; simp [Site.setA, Site.areg]
    · simp [Site.setA, Site.areg, h, tget_tset_other _ _ _ h]
  cases y with
  | aadd f => exact hset _ _
  | amov rd rs => exact hset _ _
  | alu op f => exact areg_congr (setS_aregs _ _ _) q
  | li rd imm => exact areg_congr (setS_aregs _ _ _) q
  | lih rd imm => exact areg_congr (setS_aregs _ _ _) q
  | smova rd rs => exact areg_congr (setS_aregs _ _ _) q
  | lds f => exact areg_congr (mark_aregs c f.reg none) q
  | signal tok n => exact areg_congr (signal_aregs _ _ _) q
  | sfree e => exact areg_congr (sillTryFree_aregs _ _) q
  | status rd clear src =>
    unfold Site.effect Site.writesA; dsimp only
    split
    · exact areg_congr ((statusClear_aregs _ _).trans (mark_aregs _ _ _)) q
    · exact areg_congr (mark_aregs _ _ _) q
  | forecast m l a b =>
    unfold Site.effect Site.writesA; dsimp only
    split <;> exact areg_congr (by simp only) q
  | matrix f =>
    unfold Site.effect Site.writesA; dsimp only
    split <;> exact areg_congr (by simp only [Site.pushArray, Site.modEng, Site.setEng, Site.claim, Site.setEntry]) q
  | vec op f =>
    cases op with
    | vmovs => exact areg_congr (mark_aregs c f.vd none) q
    | _ => exact areg_congr (by unfold Site.effect; dsimp only) q
  | _ => exact areg_congr (by unfold Site.effect; simp only [Site.pushArray, Site.pushFeed, Site.pushLatch, Site.modEng,
      Site.setEng, Site.claim, Site.setEntry, Site.setQueue]) q

/-! ### A bundle's effects in slot order -/

theorem takeWaits_dispatched (c : Site) (h : Head) : siteDispatched c (c.takeWaits h) := by
  unfold Site.takeWaits Site.consume; dsimp only
  split <;> split <;> simp only [siteDispatched, Site.undispatched]

@[simp] theorem takeWaits_sregs (c : Site) (h : Head) : (c.takeWaits h).sregs = c.sregs := by
  unfold Site.takeWaits Site.consume; dsimp only
  split <;> split <;> rfl

@[simp] theorem takeWaits_aregs (c : Site) (h : Head) : (c.takeWaits h).aregs = c.aregs := by
  unfold Site.takeWaits Site.consume; dsimp only
  split <;> split <;> rfl

/-- The bundle's effects leave memories, vector registers, error records and power states. -/
theorem effects_dispatched (c0 : Site) (st : BitVec 8 → Word64) (ys : List (Nat × Syll)) (c : Site) :
    siteDispatched c (ys.foldl (fun c p => c0.effect st p.1 c p.2) c) := by
  induction ys generalizing c with
  | nil => rfl
  | cons p ps ih => exact siteDispatched_trans (effect_dispatched c0 st p.1 c p.2) (ih _)

theorem writesNow_writesS {c0 : Site} {y : Syll} {r : BitVec 5} {v : Word64}
    (h : c0.writesNow y = some (r, v)) : y.writesS = some r := by
  cases y <;> simp only [Site.writesNow, Option.some.injEq, Prod.mk.injEq, reduceCtorEq] at h <;>
    simp only [Syll.writesS, h.1]

theorem writesA_writesA {c0 : Site} {y : Syll} {r : BitVec 5} {v : Word64}
    (h : c0.writesA y = some (r, v)) : y.writesA = some r := by
  cases y <;> simp only [Site.writesA, Option.some.injEq, Prod.mk.injEq, reduceCtorEq] at h <;>
    simp only [Syll.writesA, h.1]

/-- An S register that no syllable writes is unchanged. -/
theorem effects_sreg_other (c0 : Site) (st : BitVec 8 → Word64) (ys : List (Nat × Syll)) (c : Site)
    (q : BitVec 5) (h : ∀ p ∈ ys, p.2.writesS ≠ some q) :
    (ys.foldl (fun c p => c0.effect st p.1 c p.2) c).sreg q = c.sreg q := by
  induction ys generalizing c with
  | nil => rfl
  | cons p ps ih =>
    simp only [List.foldl_cons]
    rw [ih _ fun x hx => h x (List.mem_cons_of_mem _ hx), effect_sreg]
    have hp := h p List.mem_cons_self
    split
    · rename_i r v hw
      rw [if_neg]
      rintro ⟨rfl, -⟩
      exact hp (writesNow_writesS hw)
    · rfl

/-- An A register that no syllable writes is unchanged. -/
theorem effects_areg_other (c0 : Site) (st : BitVec 8 → Word64) (ys : List (Nat × Syll)) (c : Site)
    (q : BitVec 5) (h : ∀ p ∈ ys, p.2.writesA ≠ some q) :
    (ys.foldl (fun c p => c0.effect st p.1 c p.2) c).areg q.toNat = c.areg q.toNat := by
  induction ys generalizing c with
  | nil => rfl
  | cons p ps ih =>
    simp only [List.foldl_cons]
    rw [ih _ fun x hx => h x (List.mem_cons_of_mem _ hx), effect_areg]
    have hp := h p List.mem_cons_self
    split
    · rename_i r v hw
      rw [if_neg]
      intro he
      exact hp (BitVec.eq_of_toNat_eq he ▸ writesA_writesA hw)
    · rfl

/-! ### What a commit does outside its site -/

/-- A state in which the bell operations of core n have moved on: those outstanding and those waiting there, what
is on its way, and the failures counted and told; nothing else. -/
def bellsMoved (n : SiteNo) (s t : State) : Prop :=
  t.outer = s.outer ∧ (∀ k, k ≠ n → t.site k = s.site k) ∧
  ∃ b q, t.site n = { s.site n with bellsOut := b, bellQ := q }

theorem bellsMoved_refl (n : SiteNo) (s : State) : bellsMoved n s s := ⟨rfl, fun _ _ => rfl, _, _, rfl⟩

theorem bellsMoved_trans {n : SiteNo} {s t u : State} (h : bellsMoved n s t) (k : bellsMoved n t u) :
    bellsMoved n s u := by
  obtain ⟨h1, h2, b, q, h3⟩ := h
  obtain ⟨k1, k2, b', q', k3⟩ := k
  exact ⟨k1.trans h1, fun m hm => (k2 m hm).trans (h2 m hm), b', q', by rw [k3, h3]⟩

/-- What keeps the sites and the outer state moves nothing else. -/
theorem bellsMoved_outer {n : SiteNo} {s t : State} (h : t.outer = s.outer) (k : t.sites = s.sites) :
    bellsMoved n s t := ⟨h, fun m _ => by simp only [State.site, k], (s.site n).bellsOut, (s.site n).bellQ,
      by simp only [State.site, k]⟩

theorem bellsMoved_modSite (n : SiteNo) (s : State) (f : Site → Nat) (g : Site → List BellMsg) :
    bellsMoved n s (s.modSite n fun c => { c with bellsOut := f c, bellQ := g c }) :=
  ⟨rfl, fun _ h => State.site_modSite_other s _ h, _, _, State.site_modSite_same s n _⟩

/-- A bell operation handed to a source port. -/
theorem handPort_moves (n : SiteNo) (s : State) (p : Packet) (who : BellFor) (d : Option (BitVec 12)) :
    bellsMoved n s (s.handPort { pkt := p, kind := .request (.bell who d) }) := by
  unfold State.handPort State.sendQueued
  dsimp only
  split
  · split <;> exact bellsMoved_outer rfl rfl
  · exact bellsMoved_outer rfl rfl

/-- An operation of a core ends. -/
theorem bellEnds_moves (n : SiteNo) (s : State) (st : BitVec 4) (img : Option BellImg) :
    bellsMoved n s (s.bellEnds (.core n) st img) := by
  unfold State.bellEnds State.bellFail
  dsimp only
  refine bellsMoved_trans (bellsMoved_modSite n s (fun c => c.bellsOut - 1) (·.bellQ)) ?_
  split
  · exact bellsMoved_refl n _
  · exact bellsMoved_outer rfl rfl

/-- Sending a bell operation of a core changes what bellsMoved names, and nothing else (R292). -/
theorem coreBell_moves (n : SiteNo) (s : State) (m : BellMsg) : bellsMoved n s (s.coreBell n m) := by
  unfold State.coreBell State.bellFrom
  split
  · refine bellsMoved_trans (bellsMoved_modSite n s (fun c => c.bellsOut + 1) (·.bellQ)) ?_
    generalize s.modSite n _ = u
    unfold State.sendBell
    dsimp only
    refine bellsMoved_trans (t := u.send (.bellOp m)) (bellsMoved_outer rfl rfl) ?_
    generalize u.send _ = w
    split
    · split
      · exact handPort_moves n _ _ _ _
      · exact bellEnds_moves n _ _ _
    · exact bellEnds_moves n _ _ _
  · exact bellsMoved_modSite n s (·.bellsOut) fun c => c.bellQ ++ [m]

theorem coreBell_site_other (s : State) {n k : SiteNo} (m : BellMsg) (h : k ≠ n) :
    (s.coreBell n m).site k = s.site k := (coreBell_moves n s m).2.1 k h

theorem outside_outer (s : State) (n : SiteNo) (c0 : Site) (k : Nat) (y : Syll) :
    (s.outside n c0 k y).outer = s.outer := by
  unfold State.outside
  split
  · exact (coreBell_moves n s _).1
  · rename_i areg
    have e (s' : State) (t : TallyScope) (f : Site → Site) : ((s'.setTally c0.hamlet t).modSite n f).outer = s'.outer := rfl
    dsimp only
    split
    · exact (coreBell_moves n _ _).1.trans (e _ _ _)
    · exact e _ _ _
  · rfl

theorem outside_site_other (s : State) (n : SiteNo) (c0 : Site) (k : Nat) (y : Syll) {m : SiteNo} (h : m ≠ n) :
    (s.outside n c0 k y).site m = s.site m := by
  unfold State.outside
  split
  · exact coreBell_site_other s _ h
  · rename_i areg
    have e (s' : State) (f : Site → Site) (hs : s'.sites = s.sites) : (s'.modSite n f).site m = s.site m :=
      (State.site_modSite_other s' f h).trans (by simp only [State.site, hs])
    dsimp only
    split
    · exact (coreBell_site_other _ _ h).trans (e _ _ (State.setTally_sites s c0.hamlet _))
    · exact e _ _ (State.setTally_sites s c0.hamlet _)
  · rfl

theorem outside_quiet (s : State) (n : SiteNo) (c0 : Site) (k : Nat) (y : Syll) (h : isBell y = false)
    (h' : y.isTally = false) : s.outside n c0 k y = s := by
  cases y <;> simp_all [isBell, Syll.isTally, State.outside]

theorem freeReleased_fields (c : Site) :
    siteDispatched c c.freeReleased ∧ c.freeReleased.sregs = c.sregs ∧ c.freeReleased.aregs = c.aregs := by
  unfold Site.freeReleased
  generalize List.range 64 = l
  induction l generalizing c with
  | nil => exact ⟨rfl, rfl, rfl⟩
  | cons i l ih =>
    simp only [List.foldl_cons]
    obtain ⟨h1, h2, h3⟩ := ih (if (c.entry i).st = .released then c.sillGone i else c)
    refine ⟨siteDispatched_trans ?_ h1, h2.trans ?_, h3.trans ?_⟩ <;> split <;> rfl

/-- A BELL or a TALLY leaves the registers of its site. -/
theorem outside_site (s : State) (n : SiteNo) (c0 : Site) (k : Nat) (y : Syll) :
    siteDispatched (s.site n) ((s.outside n c0 k y).site n) ∧
    ((s.outside n c0 k y).site n).sregs = (s.site n).sregs ∧
    ((s.outside n c0 k y).site n).aregs = (s.site n).aregs := by
  have hb (s' : State) (m : BellMsg) : siteDispatched (s'.site n) ((s'.coreBell n m).site n) ∧
      ((s'.coreBell n m).site n).sregs = (s'.site n).sregs ∧
      ((s'.coreBell n m).site n).aregs = (s'.site n).aregs := by
    obtain ⟨b, q, e⟩ := (coreBell_moves n s' m).2.2
    rw [e]
    exact ⟨by simp only [siteDispatched, Site.undispatched], rfl, rfl⟩
  unfold State.outside
  split
  · exact hb _ _
  · rename_i areg
    obtain ⟨f1, f2, f3⟩ := freeReleased_fields (s.site n)
    have e (s' : State) (a : Word64) (hs : s'.sites = s.sites) :
        (s'.modSite n fun c => { c.freeReleased with seq := .tally, tallyTable := a }).site n =
          { (s.site n).freeReleased with seq := .tally, tallyTable := a } :=
      (State.site_modSite_same s' n fun c => { c.freeReleased with seq := .tally, tallyTable := a }).trans
        (by simp only [State.site, hs])
    have g (s' : State) (a : Word64) (hs : s'.sites = s.sites) :
        let c := (s'.modSite n fun c => { c.freeReleased with seq := .tally, tallyTable := a }).site n
        siteDispatched (s.site n) c ∧ c.sregs = (s.site n).sregs ∧ c.aregs = (s.site n).aregs := by
      dsimp only
      rw [e s' a hs]
      generalize (s.site n).freeReleased = c at f1 f2 f3 ⊢
      exact ⟨siteDispatched_trans f1 (by simp only [siteDispatched, Site.undispatched]), f2, f3⟩
    dsimp only
    split
    · have h1 := g _ (c0.areg areg.toNat) (State.setTally_sites s c0.hamlet
        { s.tallyOf c0.hamlet with share := (s.tallyOf c0.hamlet).share + k })
      have h2 := hb (State.modSite (s.setTally c0.hamlet
        { s.tallyOf c0.hamlet with share := (s.tallyOf c0.hamlet).share + k }) n
          fun c => { c.freeReleased with seq := .tally, tallyTable := c0.areg areg.toNat })
      exact ⟨siteDispatched_trans h1.1 (h2 _).1, (h2 _).2.1.trans h1.2.1, (h2 _).2.2.trans h1.2.2⟩
    · exact g _ _ (State.setTally_sites s c0.hamlet _)
  · exact ⟨rfl, rfl, rfl⟩

/-- Several syllables' doings outside: what they leave. -/
theorem outsides_frame (n : SiteNo) (c0 : Site) (k : Nat) (ys : List Syll) (s : State) :
    let t := ys.foldl (fun s y => s.outside n c0 k y) s
    t.outer = s.outer ∧ (∀ m, m ≠ n → t.site m = s.site m) ∧ siteDispatched (s.site n) (t.site n) ∧
    (t.site n).sregs = (s.site n).sregs ∧ (t.site n).aregs = (s.site n).aregs ∧
    ((∀ z ∈ ys, isBell z = false ∧ z.isTally = false) → t = s) := by
  induction ys generalizing s with
  | nil => exact ⟨rfl, fun _ _ => rfl, rfl, rfl, rfl, fun _ => rfl⟩
  | cons y ys ih =>
    simp only [List.foldl_cons]
    obtain ⟨h1, h2, h3, h4, h5, h6⟩ := ih (s.outside n c0 k y)
    obtain ⟨g3, g4, g5⟩ := outside_site s n c0 k y
    refine ⟨h1.trans (outside_outer s n c0 k y), fun m hm => (h2 m hm).trans (outside_site_other s n c0 k y hm),
      siteDispatched_trans g3 h3, h4.trans g4, h5.trans g5, fun hq => ?_⟩
    rw [h6 fun z hz => hq z (List.mem_cons_of_mem _ hz)]
    exact outside_quiet s n c0 k y (hq y List.mem_cons_self).1 (hq y List.mem_cons_self).2

/-- The site as a commit leaves it before BELL and TALLY act outside it (R125, R128). -/
def State.committed (s : State) (n : SiteNo) (h : Head) (ys : List (Nat × Syll)) : Site :=
  let c0 := s.site n
  let only := ys.map (·.2)
  let fl := c0.flow only
  ys.foldl (fun c p => c0.effect (s.statusValue n) p.1 c p.2)
    { c0.takeWaits h with
      pc := fl.pc, loops := fl.loops, cycle := c0.cycle + (if fl.extra then 2 else 1 : Word64),
      bubble := fl.extra, quiet := 0, slipMax := c0.lateness h, sref := some (c0.nextRef h only),
      launch := c0.launch.map fun l => { l with lastDispatch := s.tb } }

theorem commit_eq (s : State) (n : SiteNo) (h : Head) (ys : List (Nat × Syll)) :
    s.commit n h ys = (ys.map (·.2)).foldl
      (fun t y => t.outside n (s.site n) (s.bundleShare n (ys.map (·.2))) y)
      (s.setSite n (s.committed n h ys)) := rfl

/-- What a commit leaves (R125, R128). -/
theorem commit_frame (s : State) (n : SiteNo) (h : Head) (ys : List (Nat × Syll)) :
    let t := s.commit n h ys
    t.outer = s.outer ∧ (∀ m, m ≠ n → t.site m = s.site m) ∧ siteDispatched (s.site n) (t.site n) ∧
    (t.site n).sregs = (s.committed n h ys).sregs ∧ (t.site n).aregs = (s.committed n h ys).aregs ∧
    ((∀ z ∈ ys.map (·.2), isBell z = false ∧ z.isTally = false) → t = s.setSite n (s.committed n h ys)) := by
  rw [commit_eq]
  obtain ⟨h1, h2, h3, h4, h5, h6⟩ := outsides_frame n (s.site n) (s.bundleShare n (ys.map (·.2)))
    (ys.map (·.2)) (s.setSite n (s.committed n h ys))
  rw [State.site_setSite_same] at h3 h4 h5
  refine ⟨h1.trans ?_, fun m hm => (h2 m hm).trans (State.site_setSite_other s _ hm),
    siteDispatched_trans ?_ h3, h4, h5, h6⟩
  · simp only [State.outer, State.setSite]
  · refine siteDispatched_trans ?_ (effects_dispatched _ _ _ _)
    refine siteDispatched_trans (takeWaits_dispatched _ h) ?_
    simp only [siteDispatched, Site.undispatched]

/-! ### What a dispatch does, in one place -/

theorem committed_sreg_other (s : State) (n : SiteNo) (h : Head) (ys : List (Nat × Syll)) (q : BitVec 5)
    (hq : ∀ z ∈ ys.map (·.2), z.writesS ≠ some q) : (s.committed n h ys).sreg q = (s.site n).sreg q := by
  unfold State.committed
  rw [effects_sreg_other _ _ _ _ q fun p hp => hq _ (List.mem_map_of_mem hp)]
  exact sreg_congr (takeWaits_sregs (s.site n) h) q

theorem committed_areg_other (s : State) (n : SiteNo) (h : Head) (ys : List (Nat × Syll)) (q : BitVec 5)
    (hq : ∀ z ∈ ys.map (·.2), z.writesA ≠ some q) :
    (s.committed n h ys).areg q.toNat = (s.site n).areg q.toNat := by
  unfold State.committed
  rw [effects_areg_other _ _ _ _ q fun p hp => hq _ (List.mem_map_of_mem hp)]
  exact areg_congr (takeWaits_aregs (s.site n) h) q.toNat

/-- The frame of a bundle that dispatches (R125, R128). -/
theorem dispatch_dispatched {s : State} {d : Disp} {y : Syll} (h : dispatches s d y) :
    dispatched d y s (s.dispatch d y) := by
  rw [dispatch_commits h]
  obtain ⟨h1, h2, h3, h4, h5, h6⟩ := commit_frame s d.site d.head (slotsOf d y)
  refine ⟨h1, fun hq => ?_, h2, h3, fun q hq => ?_, fun q hq => ?_⟩
  · rw [h6 hq]; rfl
  · exact (sreg_congr h4 q).trans (committed_sreg_other s d.site d.head _ q hq)
  · exact (areg_congr h5 q.toNat).trans (committed_areg_other s d.site d.head _ q hq)

/-- A bundle in which no S register other than S0 is written twice: the value a syllable writes stands. -/
theorem effects_sreg_written (c0 : Site) (st : BitVec 8 → Word64) (ys : List (Nat × Syll)) (c : Site)
    (h2 : twice ((ys.map (·.2)).filterMap Syll.writesS |>.filter fun r => decide (r ≠ 0)) = false)
    {k : Nat} {y : Syll} (hy : (k, y) ∈ ys) {r : BitVec 5} {v : Word64} (hw : c0.writesNow y = some (r, v))
    (hr : r ≠ 0) : (ys.foldl (fun c p => c0.effect st p.1 c p.2) c).sreg r = v := by
  induction ys generalizing c with
  | nil => exact absurd hy List.not_mem_nil
  | cons p ps ih =>
    have hws := writesNow_writesS hw
    simp only [List.map_cons, List.foldl_cons] at h2 ⊢
    have htail : twice ((ps.map (·.2)).filterMap Syll.writesS |>.filter fun r => decide (r ≠ 0)) = false := by
      rw [List.filterMap_cons] at h2
      split at h2
      · exact h2
      · rw [List.filter_cons] at h2
        split at h2
        · simp only [twice, Bool.or_eq_false_iff] at h2; exact h2.2
        · exact h2
    rcases List.mem_cons.1 hy with rfl | hy
    · rw [List.filterMap_cons_some hws, List.filter_cons_of_pos (by simpa using hr)] at h2
      simp only [twice, Bool.or_eq_false_iff] at h2
      rw [effects_sreg_other _ _ _ _ r ?_, effect_sreg, hw]
      · exact if_pos ⟨rfl, hr⟩
      · intro x hx hxr
        have := h2.1
        rw [List.contains_eq_mem, decide_eq_false_iff_not, List.mem_filter, List.mem_filterMap] at this
        exact this ⟨⟨x.2, List.mem_map_of_mem hx, hxr⟩, by simpa using hr⟩
    · exact ih _ htail hy

theorem mem_slotsOf (d : Disp) (y : Syll) : (d.slot.val + 1, y) ∈ slotsOf d y := by
  unfold slotsOf
  rw [List.mem_filterMap]
  refine ⟨d.slot, List.mem_finRange _, ?_⟩
  simp

/-- S0 reads 0 (Table 4.1). -/
@[simp] theorem sreg_zero (c : Site) : c.sreg 0 = 0 := if_pos rfl

/-- The result of a SCALAR syllable in any bundle that dispatches (R128, Table 5.6). -/
theorem dispatch_sreg {s : State} {d : Disp} {y : Syll} (h : dispatches s d y) {r : BitVec 5} {v : Word64}
    (hw : (s.site d.site).writesNow y = some (r, v)) :
    ((s.dispatch d y).site d.site).sreg r = if r = 0 then 0 else v := by
  split
  · rename_i h0; subst h0; exact sreg_zero _
  · rename_i h0
    rw [dispatch_commits h]
    obtain ⟨-, -, -, h4, -, -⟩ := commit_frame s d.site d.head (slotsOf d y)
    rw [sreg_congr h4 r]
    refine effects_sreg_written _ _ _ _ ?_ (mem_slotsOf d y) hw h0
    obtain ⟨-, -, -, hb, -, -⟩ := h
    unfold Site.badSlot at hb
    split at hb
    · cases hb
    · split at hb
      · cases hb
      · split at hb
        · rename_i hok
          simp only [bundleOk, Bool.and_eq_true, Bool.not_eq_true'] at hok
          exact hok.1.1.1.2
        · cases hb

/-- The row of a syllable dispatches its bundle. -/
theorem exec_rowOf (d : Disp) (y : Syll) (s : State) : exec (rowOf d y) s = .next (s.dispatch d y) := by
  cases y with
  | alu op f => cases op <;> rfl
  | vec op f => cases op <;> rfl
  | _ => rfl

/-! ### Flow and schedule -/

/-- The flow, the schedule and the watchdog of two sites agree. -/
def flowSame (c c' : Site) : Prop :=
  c'.pc = c.pc ∧ c'.loops = c.loops ∧ c'.cycle = c.cycle ∧ c'.sref = c.sref ∧ c'.slipMax = c.slipMax ∧
  c'.launch = c.launch ∧ c'.slip = c.slip

theorem flowSame_refl (c : Site) : flowSame c c := ⟨rfl, rfl, rfl, rfl, rfl, rfl, rfl⟩

theorem flowSame_trans {a b c : Site} (h : flowSame a b) (k : flowSame b c) : flowSame a c :=
  ⟨k.1.trans h.1, k.2.1.trans h.2.1, k.2.2.1.trans h.2.2.1, k.2.2.2.1.trans h.2.2.2.1,
    k.2.2.2.2.1.trans h.2.2.2.2.1, k.2.2.2.2.2.1.trans h.2.2.2.2.2.1, k.2.2.2.2.2.2.trans h.2.2.2.2.2.2⟩

theorem setS_flow (c : Site) (r : BitVec 5) (v : Word64) : flowSame c (c.setS r v) := by
  unfold Site.setS; split <;> exact ⟨rfl, rfl, rfl, rfl, rfl, rfl, rfl⟩

theorem mark_flow (c : Site) (r : BitVec 5) (v : Option Word64) : flowSame c (c.mark r v) := by
  unfold Site.mark; split <;> exact ⟨rfl, rfl, rfl, rfl, rfl, rfl, rfl⟩

theorem signal_flow (c : Site) (t : BitVec 6) (n : Nat) : flowSame c (c.signal t n) := by
  unfold Site.signal; simp only; split <;> exact ⟨rfl, rfl, rfl, rfl, rfl, rfl, rfl⟩

theorem statusClear_flow (c : Site) (src : BitVec 8) : flowSame c (c.statusClear src) := by
  unfold Site.statusClear; split <;> exact ⟨rfl, rfl, rfl, rfl, rfl, rfl, rfl⟩

theorem sillTryFree_flow (c : Site) (i : Nat) : flowSame c (c.sillTryFree i) := by
  unfold Site.sillTryFree; simp only; split
  · split <;> exact ⟨rfl, rfl, rfl, rfl, rfl, rfl, rfl⟩
  · exact flowSame_refl c

/-- One syllable's effect leaves the flow as the commit set it. -/
theorem effect_flow (c0 : Site) (st : BitVec 8 → Word64) (k : Nat) (c : Site) (y : Syll) :
    flowSame c (c0.effect st k c y) := by
  cases y with
  | alu op f => exact setS_flow _ _ _
  | li rd imm => exact setS_flow _ _ _
  | lih rd imm => exact setS_flow _ _ _
  | smova rd rs => exact setS_flow _ _ _
  | lds f =>
    unfold Site.effect; dsimp only
    exact flowSame_trans (mark_flow c f.reg none) (by simp only [flowSame, and_self])
  | signal tok n => exact signal_flow _ _ _
  | sfree e =>
    unfold Site.effect; dsimp only
    exact flowSame_trans (b := c.setEntry e.val { c.entry e.val with freeReq := true })
      (by simp only [flowSame, Site.setEntry, and_self]) (sillTryFree_flow _ _)
  | status rd clear src =>
    unfold Site.effect; dsimp only
    split
    · exact flowSame_trans (mark_flow c rd (some (st src))) (statusClear_flow _ src)
    · exact mark_flow _ _ _
  | forecast m l a b =>
    unfold Site.effect; dsimp only
    split <;> simp only [flowSame, and_self]
  | matrix f =>
    unfold Site.effect; dsimp only
    split <;> simp only [flowSame, Site.pushArray, Site.modEng, Site.setEng, Site.claim, Site.setEntry, and_self]
  | vec op f =>
    cases op with
    | vmovs =>
      unfold Site.effect; dsimp only
      exact flowSame_trans (mark_flow c f.vd none) (by simp only [flowSame, and_self])
    | _ => unfold Site.effect; simp only [flowSame, and_self]
  | _ =>
    unfold Site.effect
    simp only [flowSame, Site.pushArray, Site.pushFeed, Site.pushLatch,
      Site.modEng, Site.setEng, Site.claim, Site.setEntry, Site.setQueue, Site.setA, and_self]

theorem effects_flow (c0 : Site) (st : BitVec 8 → Word64) (ys : List (Nat × Syll)) (c : Site) :
    flowSame c (ys.foldl (fun c p => c0.effect st p.1 c p.2) c) := by
  induction ys generalizing c with
  | nil => exact flowSame_refl c
  | cons p ps ih => exact flowSame_trans (effect_flow c0 st p.1 c p.2) (ih _)

theorem sillGone_flow (c : Site) (i : Nat) : flowSame c (c.sillGone i) := by
  simp only [flowSame, Site.sillGone, Site.setEntry, and_self]

theorem freeReleased_flow (c : Site) : flowSame c c.freeReleased := by
  unfold Site.freeReleased
  generalize List.range 64 = l
  induction l generalizing c with
  | nil => exact flowSame_refl c
  | cons i l ih =>
    simp only [List.foldl_cons]
    refine flowSame_trans ?_ (ih _)
    split
    · exact sillGone_flow c i
    · exact flowSame_refl c

/-- A BELL or a TALLY leaves the flow as the commit set it. -/
theorem outside_flow (s : State) (n : SiteNo) (c0 : Site) (k : Nat) (y : Syll) :
    flowSame (s.site n) ((s.outside n c0 k y).site n) := by
  have hb (s' : State) (m : BellMsg) : flowSame (s'.site n) ((s'.coreBell n m).site n) := by
    obtain ⟨b, q, e⟩ := (coreBell_moves n s' m).2.2
    rw [e]; simp only [flowSame, and_self]
  unfold State.outside
  split
  · exact hb _ _
  · rename_i areg
    have g (s' : State) (a : Word64) (hs : s'.sites = s.sites) : flowSame (s.site n)
        ((s'.modSite n fun c => { c.freeReleased with seq := .tally, tallyTable := a }).site n) := by
      have e : s'.site n = s.site n := by simp only [State.site, hs]
      rw [State.site_modSite_same, e]
      have f := freeReleased_flow (s.site n)
      generalize (s.site n).freeReleased = c at f ⊢
      exact f
    dsimp only
    split
    · exact flowSame_trans (g _ (c0.areg areg.toNat) (State.setTally_sites s c0.hamlet
        { s.tallyOf c0.hamlet with share := (s.tallyOf c0.hamlet).share + k })) (hb _ _)
    · exact g _ _ (State.setTally_sites s c0.hamlet _)
  · exact flowSame_refl _

theorem outsides_flow (n : SiteNo) (c0 : Site) (k : Nat) (ys : List Syll) (s : State) :
    flowSame (s.site n) ((ys.foldl (fun s y => s.outside n c0 k y) s).site n) := by
  induction ys generalizing s with
  | nil => exact flowSame_refl _
  | cons y ys ih => exact flowSame_trans (outside_flow s n c0 k y) (ih _)

/-- Where a dispatched bundle leaves its sequencer (R131 to R135, R151, R152, R407). -/
theorem dispatch_flow {s : State} {d : Disp} {y : Syll} (h : dispatches s d y) :
    let c := s.site d.site
    let c' := (s.dispatch d y).site d.site
    let fl := c.flow (bundleOf d y)
    c'.pc = fl.pc ∧ c'.loops = fl.loops ∧ c'.cycle = c.cycle + (if fl.extra then 2 else 1 : Word64) ∧
    c'.sref = some (c.nextRef d.head (bundleOf d y)) ∧ c'.slipMax = c.lateness d.head ∧
    c'.launch = (c.launch.map fun l => { l with lastDispatch := s.tb }) ∧ c'.slip = c.slip := by
  dsimp only
  rw [dispatch_commits h, commit_eq]
  have h1 := outsides_flow d.site (s.site d.site) (s.bundleShare d.site ((slotsOf d y).map (·.2)))
    ((slotsOf d y).map (·.2)) (s.setSite d.site (s.committed d.site d.head (slotsOf d y)))
  rw [State.site_setSite_same] at h1
  have h2 := flowSame_trans (effects_flow (s.site d.site) (s.statusValue d.site) (slotsOf d y) _) h1
  have h3 : ((s.site d.site).takeWaits d.head).slip = (s.site d.site).slip := by
    unfold Site.takeWaits Site.consume; dsimp only
    split <;> split <;> rfl
  exact ⟨h2.1, h2.2.1, h2.2.2.1, h2.2.2.2.1, h2.2.2.2.2.1, h2.2.2.2.2.2.1, h2.2.2.2.2.2.2.trans h3⟩

/-! ### Queues -/

theorem queuesGrow_refl (c : Site) : queuesGrow c c :=
  ⟨List.prefix_rfl, List.prefix_rfl, fun _ => ⟨List.prefix_rfl, List.prefix_rfl, List.prefix_rfl⟩,
    fun _ => List.prefix_rfl, fun _ => rfl⟩

theorem queuesGrow_trans {a b c : Site} (h : queuesGrow a b) (k : queuesGrow b c) : queuesGrow a c :=
  ⟨h.1.trans k.1, h.2.1.trans k.2.1,
    fun e => ⟨(h.2.2.1 e).1.trans (k.2.2.1 e).1, (h.2.2.1 e).2.1.trans (k.2.2.1 e).2.1,
      (h.2.2.1 e).2.2.trans (k.2.2.1 e).2.2⟩,
    fun q => (h.2.2.2.1 q).trans (k.2.2.2.1 q), fun e => (k.2.2.2.2 e).trans (h.2.2.2.2 e)⟩

/-- Equal engines and copy queues; the vector queue and the marks only grow. -/
theorem queuesGrow_of_grow {c c' : Site} (h1 : c.vecQ <+: c'.vecQ) (h2 : c.pend <+: c'.pend)
    (h3 : c'.engines = c.engines) (h4 : c'.queues = c.queues) : queuesGrow c c' := by
  refine ⟨h1, h2, ?_⟩
  unfold Site.runner Site.eng Site.queue
  rw [h3, h4]
  exact ⟨fun _ => ⟨List.prefix_rfl, List.prefix_rfl, List.prefix_rfl⟩, fun _ => List.prefix_rfl, fun _ => rfl⟩

/-- Equal queue fields. -/
theorem queuesGrow_of_eq {c c' : Site} (h1 : c'.vecQ = c.vecQ) (h2 : c'.pend = c.pend)
    (h3 : c'.engines = c.engines) (h4 : c'.queues = c.queues) : queuesGrow c c' :=
  queuesGrow_of_grow (h1 ▸ List.prefix_rfl) (h2 ▸ List.prefix_rfl) h3 h4

/-- One engine's queues grow. -/
theorem queuesGrow_modEng (c : Site) (e : EngNo) (f : Engine → Engine)
    (h : (c.eng e).arrayQ <+: (f (c.eng e)).arrayQ ∧ (c.eng e).feedQ <+: (f (c.eng e)).feedQ ∧
      (c.eng e).latchQ <+: (f (c.eng e)).latchQ)
    (k : (f (c.eng e)).retired = (c.eng e).retired ∧ (f (c.eng e)).redirect = (c.eng e).redirect ∧
      (f (c.eng e)).movePending = (c.eng e).movePending) : queuesGrow c (c.modEng e f) := by
  refine ⟨List.prefix_rfl, List.prefix_rfl, fun x => ?_, fun _ => List.prefix_rfl, fun x => ?_⟩
  · by_cases hx : x = e
    · subst hx; rw [Site.eng_modEng_same]; exact h
    · rw [Site.eng_modEng_other c f hx]; exact ⟨List.prefix_rfl, List.prefix_rfl, List.prefix_rfl⟩
  · unfold Site.runner
    by_cases hx : x = e
    · subst hx; rw [Site.eng_modEng_same, k.1, k.2.1, k.2.2]
    · rw [Site.eng_modEng_other c f hx]

theorem setS_grows (c : Site) (r : BitVec 5) (v : Word64) : queuesGrow c (c.setS r v) := by
  unfold Site.setS; split <;> exact queuesGrow_refl c

theorem mark_grows (c : Site) (r : BitVec 5) (v : Option Word64) : queuesGrow c (c.mark r v) := by
  unfold Site.mark; split
  · exact queuesGrow_refl c
  · exact queuesGrow_of_grow List.prefix_rfl (List.prefix_append _ _) rfl rfl

theorem signal_grows (c : Site) (t : BitVec 6) (n : Nat) : queuesGrow c (c.signal t n) := by
  unfold Site.signal; simp only; split <;> exact queuesGrow_of_eq rfl rfl rfl rfl

theorem sillTryFree_grows (c : Site) (i : Nat) : queuesGrow c (c.sillTryFree i) := by
  unfold Site.sillTryFree; simp only; split
  · split <;> exact queuesGrow_of_eq rfl rfl rfl rfl
  · exact queuesGrow_refl c

theorem flushReg_grows (c : Site) (e : EngNo) (v : BitVec 32) :
    queuesGrow c (c.modEng e fun g => { g with flushReg := v }) :=
  queuesGrow_modEng c e _ ⟨List.prefix_rfl, List.prefix_rfl, List.prefix_rfl⟩ ⟨rfl, rfl, rfl⟩

theorem statusClear_grows (c : Site) (src : BitVec 8) : queuesGrow c (c.statusClear src) := by
  unfold Site.statusClear
  split <;> first | exact flushReg_grows _ _ _ | exact queuesGrow_of_eq rfl rfl rfl rfl

theorem pushArray_grows (c : Site) (e : EngNo) (op : Nat → ArrayOp) : queuesGrow c (c.pushArray e op) :=
  queuesGrow_modEng c _ _ ⟨List.prefix_append _ _, List.prefix_rfl, List.prefix_rfl⟩ ⟨rfl, rfl, rfl⟩

theorem pushFeed_grows (c : Site) (e : EngNo) (op : Nat → FeedOp) : queuesGrow c (c.pushFeed e op) :=
  queuesGrow_modEng c _ _ ⟨List.prefix_rfl, List.prefix_append _ _, List.prefix_rfl⟩ ⟨rfl, rfl, rfl⟩

theorem pushLatch_grows (c : Site) (e : EngNo) (op : Nat → LatchOp) : queuesGrow c (c.pushLatch e op) :=
  queuesGrow_modEng c _ _ ⟨List.prefix_rfl, List.prefix_rfl, List.prefix_append _ _⟩ ⟨rfl, rfl, rfl⟩

theorem pushVec_grows (c : Site) (v : VecEntry) : queuesGrow c { c with vecQ := c.vecQ ++ [v] } :=
  queuesGrow_of_grow (List.prefix_append _ _) List.prefix_rfl rfl rfl

theorem claim_grows (c : Site) (i : Fin 64) : queuesGrow c (c.claim i) := queuesGrow_of_eq rfl rfl rfl rfl

theorem push_grows (c : Site) (q : Fin 4) (d : CopyDesc) :
    queuesGrow c (c.setQueue q { c.queue q with waiting := (c.queue q).waiting ++ [d] }) := by
  refine ⟨List.prefix_rfl, List.prefix_rfl, fun _ => ⟨List.prefix_rfl, List.prefix_rfl, List.prefix_rfl⟩,
    fun x => ?_, fun _ => rfl⟩
  by_cases hx : x = q
  · subst hx; rw [Site.queue_setQueue_same]; exact List.prefix_append _ _
  · rw [Site.queue_setQueue_other c _ hx]

/-- One syllable's effect only adds to queues, behind what they hold. -/
theorem effect_grows (c0 : Site) (st : BitVec 8 → Word64) (k : Nat) (c : Site) (y : Syll) :
    queuesGrow c (c0.effect st k c y) := by
  cases y with
  | alu op f => exact setS_grows _ _ _
  | li rd imm => exact setS_grows _ _ _
  | lih rd imm => exact setS_grows _ _ _
  | smova rd rs => exact setS_grows _ _ _
  | lds f =>
    unfold Site.effect; dsimp only
    exact queuesGrow_trans (mark_grows c f.reg none) (pushVec_grows _ _)
  | sts f => exact pushVec_grows _ _
  | signal tok n => exact signal_grows _ _ _
  | sfree e =>
    unfold Site.effect; dsimp only
    exact queuesGrow_trans (b := c.setEntry e.val { c.entry e.val with freeReq := true })
      (queuesGrow_of_eq rfl rfl rfl rfl) (sillTryFree_grows _ _)
  | status rd clear src =>
    unfold Site.effect; dsimp only
    split
    · exact queuesGrow_trans (mark_grows c rd (some (st src))) (statusClear_grows _ src)
    · exact mark_grows _ _ _
  | forecast m l a b =>
    unfold Site.effect; dsimp only
    split <;> exact queuesGrow_of_eq rfl rfl rfl rfl
  | matrix f =>
    unfold Site.effect; dsimp only
    split
    · exact pushArray_grows _ _ _
    · exact queuesGrow_trans (claim_grows _ _) (pushArray_grows _ _ _)
  | latch f => exact pushLatch_grows _ _ _
  | feed f => exact pushFeed_grows _ _ _
  | bankDrain f => exact queuesGrow_trans (claim_grows _ _) (pushArray_grows _ _ _)
  | bankFree e b => exact pushArray_grows _ _ _
  | ewise f => exact queuesGrow_trans (claim_grows _ _) (pushArray_grows _ _ _)
  | push q a => exact push_grows _ _ _
  | vec op f =>
    cases op with
    | vmovs =>
      unfold Site.effect; dsimp only
      exact queuesGrow_trans (mark_grows c f.vd none) (pushVec_grows _ _)
    | _ => exact pushVec_grows _ _
  | _ => exact queuesGrow_of_eq rfl rfl rfl rfl

theorem effects_grow (c0 : Site) (st : BitVec 8 → Word64) (ys : List (Nat × Syll)) (c : Site) :
    queuesGrow c (ys.foldl (fun c p => c0.effect st p.1 c p.2) c) := by
  induction ys generalizing c with
  | nil => exact queuesGrow_refl c
  | cons p ps ih => exact queuesGrow_trans (effect_grows c0 st p.1 c p.2) (ih _)

/-- What one syllable's effect brings about, and later growth of the queues keeps, stands at the end. -/
theorem effects_reach (c0 : Site) (st : BitVec 8 → Word64) {ys : List (Nat × Syll)} {k : Nat} {y : Syll}
    (hy : (k, y) ∈ ys) (P : Site → Prop) (b : Site) (hP : ∀ c, queuesGrow b c → P (c0.effect st k c y))
    (mono : ∀ c c', queuesGrow c c' → P c → P c') (c : Site) (hc : queuesGrow b c) :
    P (ys.foldl (fun c p => c0.effect st p.1 c p.2) c) := by
  induction ys generalizing c with
  | nil => exact absurd hy List.not_mem_nil
  | cons p ps ih =>
    rcases List.mem_cons.1 hy with rfl | hy
    · exact mono _ _ (effects_grow c0 st ps _) (hP c hc)
    · exact ih hy _ (queuesGrow_trans hc (effect_grows c0 st p.1 c p.2))

theorem sillGone_grows (c : Site) (i : Nat) : queuesGrow c (c.sillGone i) := queuesGrow_of_eq rfl rfl rfl rfl

theorem freeReleased_grows (c : Site) : queuesGrow c c.freeReleased := by
  unfold Site.freeReleased
  generalize List.range 64 = l
  induction l generalizing c with
  | nil => exact queuesGrow_refl c
  | cons i l ih =>
    simp only [List.foldl_cons]
    refine queuesGrow_trans ?_ (ih _)
    split
    · exact sillGone_grows c i
    · exact queuesGrow_refl c

theorem outside_grows (s : State) (n : SiteNo) (c0 : Site) (k : Nat) (y : Syll) :
    queuesGrow (s.site n) ((s.outside n c0 k y).site n) := by
  have hb (s' : State) (m : BellMsg) : queuesGrow (s'.site n) ((s'.coreBell n m).site n) := by
    obtain ⟨b, q, e⟩ := (coreBell_moves n s' m).2.2
    rw [e]; exact queuesGrow_of_eq rfl rfl rfl rfl
  unfold State.outside
  split
  · exact hb _ _
  · rename_i areg
    have g (s' : State) (a : Word64) (hs : s'.sites = s.sites) : queuesGrow (s.site n)
        ((s'.modSite n fun c => { c.freeReleased with seq := .tally, tallyTable := a }).site n) := by
      have e : s'.site n = s.site n := by simp only [State.site, hs]
      rw [State.site_modSite_same, e]
      have f := freeReleased_grows (s.site n)
      generalize (s.site n).freeReleased = c at f ⊢
      exact queuesGrow_trans f (queuesGrow_of_eq rfl rfl rfl rfl)
    dsimp only
    split
    · exact queuesGrow_trans (g _ (c0.areg areg.toNat) (State.setTally_sites s c0.hamlet
        { s.tallyOf c0.hamlet with share := (s.tallyOf c0.hamlet).share + k })) (hb _ _)
    · exact g _ _ (State.setTally_sites s c0.hamlet _)
  · exact queuesGrow_refl _

theorem outsides_grow (n : SiteNo) (c0 : Site) (k : Nat) (ys : List Syll) (s : State) :
    queuesGrow (s.site n) ((ys.foldl (fun s y => s.outside n c0 k y) s).site n) := by
  induction ys generalizing s with
  | nil => exact queuesGrow_refl _
  | cons y ys ih => exact queuesGrow_trans (outside_grows s n c0 k y) (ih _)

theorem takeWaits_grows (c : Site) (h : Head) : queuesGrow c (c.takeWaits h) := by
  unfold Site.takeWaits Site.consume; dsimp only
  split <;> split <;> exact queuesGrow_of_eq rfl rfl rfl rfl

/-- A dispatch only adds to the queues of its site. -/
theorem dispatch_grows {s : State} {d : Disp} {y : Syll} (h : dispatches s d y) :
    queuesGrow (s.site d.site) ((s.dispatch d y).site d.site) := by
  rw [dispatch_commits h, commit_eq]
  refine queuesGrow_trans ?_ (outsides_grow _ _ _ _ _)
  rw [State.site_setSite_same]
  refine queuesGrow_trans (takeWaits_grows _ d.head) (queuesGrow_trans ?_ (effects_grow _ _ _ _))
  exact queuesGrow_of_eq rfl rfl rfl rfl

/-- What the syllable's own effect queues stands after the dispatch. -/
theorem dispatch_reach {s : State} {d : Disp} {y : Syll} (h : dispatches s d y) (P : Site → Prop)
    (hP : ∀ c, queuesGrow (s.site d.site) c →
      P ((s.site d.site).effect (s.statusValue d.site) (d.slot.val + 1) c y))
    (mono : ∀ c c', queuesGrow c c' → P c → P c') : P ((s.dispatch d y).site d.site) := by
  rw [dispatch_commits h, commit_eq]
  refine mono _ _ (outsides_grow _ _ _ _ _) ?_
  rw [State.site_setSite_same]
  refine effects_reach _ _ (mem_slotsOf d y) P (s.site d.site) hP mono _ ?_
  exact queuesGrow_trans (takeWaits_grows _ d.head) (queuesGrow_of_eq rfl rfl rfl rfl)

/-! ### A registers written, control flow -/

/-- A bundle in which no A register is written twice: the value a syllable writes stands. -/
theorem effects_areg_written (c0 : Site) (st : BitVec 8 → Word64) (ys : List (Nat × Syll)) (c : Site)
    (h2 : twice ((ys.map (·.2)).filterMap Syll.writesA) = false)
    {k : Nat} {y : Syll} (hy : (k, y) ∈ ys) {r : BitVec 5} {v : Word64} (hw : c0.writesA y = some (r, v)) :
    (ys.foldl (fun c p => c0.effect st p.1 c p.2) c).areg r.toNat = v := by
  induction ys generalizing c with
  | nil => exact absurd hy List.not_mem_nil
  | cons p ps ih =>
    have hws := writesA_writesA hw
    simp only [List.map_cons, List.foldl_cons] at h2 ⊢
    have htail : twice ((ps.map (·.2)).filterMap Syll.writesA) = false := by
      rw [List.filterMap_cons] at h2
      split at h2
      · exact h2
      · simp only [twice, Bool.or_eq_false_iff] at h2; exact h2.2
    rcases List.mem_cons.1 hy with rfl | hy
    · rw [List.filterMap_cons_some hws] at h2
      simp only [twice, Bool.or_eq_false_iff] at h2
      rw [effects_areg_other _ _ _ _ r ?_, effect_areg, hw]
      · exact if_pos rfl
      · intro x hx hxr
        have := h2.1
        rw [List.contains_eq_mem, decide_eq_false_iff_not, List.mem_filterMap] at this
        exact this ⟨x.2, List.mem_map_of_mem hx, hxr⟩
    · exact ih _ htail hy

/-- The result of a syllable that writes an A register, in any bundle that dispatches (R128, Table 5.6). -/
theorem dispatch_areg {d : Disp} {y : Syll} {s : State} (h : dispatches s d y) {r : BitVec 5} {v : Word64}
    (hw : (s.site d.site).writesA y = some (r, v)) : ((s.dispatch d y).site d.site).areg r.toNat = v := by
  rw [dispatch_commits h]
  obtain ⟨-, -, -, -, h5, -⟩ := commit_frame s d.site d.head (slotsOf d y)
  rw [areg_congr h5 r.toNat]
  refine effects_areg_written _ _ _ _ ?_ (mem_slotsOf d y) hw
  obtain ⟨-, -, -, hb, -, -⟩ := h
  unfold Site.badSlot at hb
  split at hb
  · cases hb
  · split at hb
    · cases hb
    · split at hb
      · rename_i hok
        simp only [bundleOk, Bool.and_eq_true, Bool.not_eq_true'] at hok
        exact hok.1.1.2
      · cases hb

/-- A bundle that dispatches holds at most one CTRL syllable (R124). -/
theorem ctrl_one {d : Disp} {y : Syll} {s : State} (h : dispatches s d y) (hc : y.isCtrl = true) :
    ∀ z ∈ bundleOf d y, z.isCtrl = true → z = y := by
  obtain ⟨-, -, -, hb, -, -⟩ := h
  unfold Site.badSlot at hb
  split at hb
  · cases hb
  · split at hb
    · cases hb
    · split at hb
      · rename_i hok
        simp only [bundleOk, Bool.and_eq_true, Bool.not_eq_true', decide_eq_true_eq] at hok
        have h1 := hok.1.1.1.1.1
        intro z hz hzc
        have my : y ∈ (bundleOf d y).filter Syll.isCtrl := List.mem_filter.2 ⟨List.mem_map_of_mem (mem_slotsOf d y), hc⟩
        have mz : z ∈ (bundleOf d y).filter Syll.isCtrl := List.mem_filter.2 ⟨hz, hzc⟩
        change ((bundleOf d y).filter Syll.isCtrl).length ≤ 1 at h1
        match hl : (bundleOf d y).filter Syll.isCtrl, h1, my, mz with
        | [], _, my, _ => cases my
        | [x], _, my, mz =>
          rw [List.mem_singleton] at my mz
          rw [mz, my]
        | _ :: _ :: _, h1, _, _ => simp at h1
      · cases hb

/-- Only a CTRL syllable changes the flow. -/
theorem flowOf_ctrl (c : Site) {z : Syll} {f : Flow} (h : c.flowOf z = some f) : z.isCtrl = true := by
  cases z <;> first | rfl | (unfold Site.flowOf at h; cases h)

/-- The flow of a bundle with a CTRL syllable is that syllable's. -/
theorem flow_of {d : Disp} {y : Syll} {s : State} (h : dispatches s d y) (hc : y.isCtrl = true) (c : Site) :
    c.flow (bundleOf d y) = match c.flowOf y with | some f => f | none => c.fall := by
  have one := ctrl_one h hc
  have hy : y ∈ bundleOf d y := List.mem_map_of_mem (mem_slotsOf d y)
  unfold Site.flow
  have key : ∀ l : List Syll, (∀ z ∈ l, z.isCtrl = true → z = y) → y ∈ l → l.findSome? c.flowOf = c.flowOf y := by
    intro l
    induction l with
    | nil => intro _ h; cases h
    | cons z zs ih =>
      intro h1 h2
      rw [List.findSome?_cons]
      cases hz : c.flowOf z with
      | some f =>
        have := h1 z List.mem_cons_self (flowOf_ctrl c hz)
        subst this; exact hz.symm
      | none =>
        rcases List.mem_cons.1 h2 with rfl | h2
        · simp only
          rw [hz, List.findSome?_eq_none_iff]
          intro w hw
          by_contra hne
          obtain ⟨f, hf⟩ := Option.ne_none_iff_exists'.1 hne
          have := h1 w (List.mem_cons_of_mem _ hw) (flowOf_ctrl c hf)
          subst this; rw [hz] at hf; cases hf
        · exact ih (fun w hw => h1 w (List.mem_cons_of_mem _ hw)) h2
  rw [key _ one hy]
  all_goals cases c.flowOf y <;> rfl

/-- A BR, BRC or LOOP that dispatches does not stand at the END of an active loop (R134). -/
theorem dispatch_notAtEnd {d : Disp} {y : Syll} {s : State} (h : dispatches s d y) (hp : ∀ c : Site, c.placeBad y = false → c.atEnd = false) :
    (s.site d.site).atEnd = false := by
  obtain ⟨-, -, -, hb, -, -⟩ := h
  unfold Site.badSlot at hb
  split at hb
  · cases hb
  · split at hb
    · cases hb
    · rename_i hf
      rw [List.find?_eq_none] at hf
      have := hf _ (mem_slotsOf d y)
      simp only [Bool.or_eq_true, Bool.not_eq_true', not_or, Bool.not_eq_true] at this
      exact hp _ this.2

/-- No loop ends here: none advances. -/
theorem advance_none {b : BitVec 16} {ls : List LoopSt} (h : ls.any (fun l => decide (l.endB = b)) = false) :
    advanceLoops b ls = (ls, none) := by
  cases ls with
  | nil => rfl
  | cons l ls =>
    simp only [List.any_cons, Bool.or_eq_false_iff, decide_eq_false_iff_not] at h
    simp only [advanceLoops, if_neg h.1]

/-- No loop ends here: the next bundle follows. -/
theorem fall_none {c : Site} (h : c.atEnd = false) : c.fall = { pc := c.pc + 1, loops := c.loops, extra := false } := by
  unfold Site.fall
  rw [advance_none h]

end Sys2Proof.Machine
end

