-- ==== Sys2Proof/WellFormed.lean ====
section
/-!
DEFINITION. WellFormed.lean: which command terms the spec's own formats allow. Field widths are in the
types; what remains are lengths of lists and the slots of a bundle.
-/

namespace Sys2Proof

/-- The bundle's other syllables stand in slots of their own (Table 5.1). -/
def Disp.wf (d : Disp) : Bool :=
  let ks := d.slot :: d.rest.map (·.1)
  decide (ks.length ≤ 7) && decide ks.Nodup

/-- A packet's payload fits its LEN and LAST_UNITS (R197). -/
def Packet.wf (p : Packet) : Bool :=
  decide (p.data.length ≤ 512 * (p.len.toNat + 1))

/-- A memory request is one unit of 64 B or the units of one packet (R197, R228). -/
def MemReq.wf (r : MemReq) : Bool :=
  decide (r.data.length ≤ 8192)

/-- Lengths of the lists a command carries. -/
def Instr.wf : Instr → Bool
  | .descriptorFetch _ words _ _ => decide (words.length = 32)
  | .msetWrite _ words => decide (words.length = 32)
  | .launch _ image => decide (image.length % 8 = 0)
  | .recoveryWrite _ _ chunk _ => decide (chunk.length ≤ 61440)
  | .mgmtRecoveryWrite _ chunk _ => decide (chunk.length ≤ 4096)
  | .write p _ _ => p.wf
  | .writeAck p => p.wf
  | .readReq p _ _ => p.wf
  | .readData p _ => p.wf
  | .redAck p => p.wf
  | .memRequest _ r => r.wf
  | .nop d | .br d _ | .brc d _ _ _ _ _ _ | .loop d _ _ _ _ | .halt d | .trap d _ | .settle d | .sched d
  | .waitUntil d _ | .forecast d _ _ _ _ | .phaseHint d _ _ | .add d _ | .sub d _ | .and d _ | .or d _
  | .xor d _ | .shl d _ | .shr d _ | .sra d _ | .mul d _ | .min d _ | .max d _ | .li d _ _ | .lih d _ _
  | .aadd d _ | .amov d _ _ | .smova d _ _ | .lds d _ | .sts d _ | .status d _ _ _ | .matrix d _
  | .latch d _ | .feed d _ | .bankDrain d _ | .bankFree d _ _ | .ewise d _ | .vld d _ | .vst d _
  | .vfma d _ | .vadd d _ | .vsub d _ | .vmul d _ | .vmin d _ | .vmax d _ | .vcmp d _ | .vsel d _
  | .vsfu d _ | .vred d _ | .vbcast d _ | .vmovs d _ | .vwadd d _ | .vwanch d _ | .vwcvt d _
  | .vxpose d _ | .push d _ _ | .sfree d _ | .signal d _ _ | .bell d _ | .tally d _ => d.wf
  | _ => true

end Sys2Proof
end

