-- ==== Sys2Proof/Tests/Slice0.lean ====
section
/-!
SUPPORT. Tests/Slice0.lean: small checks. test_<what> runs one command or one check; witness_<Statement> shows
states and operands that meet the hypotheses of the statement of that name, clause by clause.
-/

namespace Sys2Proof.Tests

set_option Elab.async false

open Sys2Proof Sys2Proof.Machine

/-! ### Small states -/

/-- What a command leaves. -/
def after (c : Instr) (s : State) : State := stateAfter s (exec c s)

/-- A powered device that is READY. -/
def sOn : State :=
  { board := { alwaysOn := true, rails := true, stage := 10 }, host := { ready := true } }

/-- The device with site 3 as c. -/
def sWith (c : Site) : State := sOn.setSite 3 c

/-- A head without waits or time. -/
def hd : Head := { timed := false, delta := 0, w0En := false, w0Tok := 0, w0Amt := 0, w1En := false, w1Tok := 0, w1Amt := 0 }

/-- A syllable in slot 0 of site 3, alone. -/
def dd : Disp := { site := 3, head := hd, slot := 0, rest := [] }

/-- A site that runs, bound to logical core 0, in a LAUNCH of job 7. -/
def cRun : Site :=
  { pwr := .run, seq := .running, bound := some 0, op := 4, pc := 100, sregs := [(1, 5), (2, 7)], aregs := [(1, 4096)],
    launch := some { desc := 9, job := 7, watchdog := 0, tallyEn := true, enterArrive := 1, enterRelease := 2, commitArrive := 3, commitRelease := 4, lastDispatch := 0 } }

/-- The device with site 3 running and clocked. -/
def sRun : State :=
  (((sWith cRun).modRegion 3 fun r => { r with st := 1 }).setDom (domOfSite 3) { st := .on })

/-- The fields of an ALU syllable: S3 gets S1 op S2. -/
def af : AluF := { rd := 3, rs1 := 1, rs2 := 2, imm := false, imm32 := 0 }

/-- A vector syllable's fields with the registers its operation takes. -/
def vf (o : VecOp) : VecF :=
  match o with
  | .vld => { vd := 1, va := 0, vb := 0, vc := 0, areg := 1, mod := 0 }
  | .vst => { vd := 1, va := 0, vb := 0, vc := 0, areg := 1, mod := 0 }
  | .vfma => { vd := 1, va := 2, vb := 3, vc := 4, areg := 0, mod := 0 }
  | .vsel => { vd := 1, va := 2, vb := 3, vc := 4, areg := 0, mod := 0 }
  | .vwadd => { vd := 0, va := 1, vb := 1, vc := 0, areg := 1, mod := 0 }
  | .vwanch => { vd := 0, va := 1, vb := 2, vc := 0, areg := 1, mod := 0 }
  | .vwcvt => { vd := 0, va := 1, vb := 0, vc := 0, areg := 1, mod := 0 }
  | .vxpose => { vd := 0, va := 1, vb := 0, vc := 0, areg := 1, mod := 0 }
  | .vsfu => { vd := 1, va := 2, vb := 0, vc := 0, areg := 0, mod := 0 }
  | .vred => { vd := 1, va := 2, vb := 0, vc := 0, areg := 0, mod := 0 }
  | .vbcast => { vd := 1, va := 2, vb := 0, vc := 0, areg := 0, mod := 0 }
  | .vmovs => { vd := 1, va := 2, vb := 0, vc := 0, areg := 0, mod := 0 }
  | _ => { vd := 1, va := 2, vb := 3, vc := 0, areg := 0, mod := 0 }

def mf : MatrixF :=
  { eng := 0, accumulate := false, bank := 0, dest := 0, rnd := false, nonsat := false, hold := false, fb := false, pair := 6, wscl := 0, ascl := 0, sparse := false, anch := 0, anchArg := 0, mreg := false, mfield := 0, sill := 0, scalReg := 0, tokEn := false, tok := 0 }

def lf : LatchF := { eng := 0, fromWs := true, areg := 1, wfmt := 0, wscl := 0, sparse := false, tokEn := false, tok := 0 }

def ff : FeedF := { eng := 0, fb := false, areg := 1, raw := false, afmt := 0, ascl := 0, mreg := false, mfield := 0, tokEn := false, tok := 0 }

def df : DrainF := { eng := 0, bank := 0, dest := 1, rnd := false, nonsat := false, rowsM1 := 0, sill := 0, scalReg := 0, tokEn := false, tok := 0 }

def ef : EwiseF := { eng := 0, fb := false, pair := 6, add := true, dest := 1, rnd := false, nonsat := false, nM1 := 0, sill := 0, tokEn := false, tok := 0 }

def bf : BellF := { remote := false, breg := false, sb := 0, bell := 5, sd := 0, amount := 1 }

/-! ### WellFormed refuses what is ill-formed -/

/-- A packet with more bytes than its LEN. -/
def fatPacket : Packet :=
  { opc := 0, dstRtr := 0, dstEp := false, srcRtr := 0, srcEp := false, owned := false, hamlet := 0, len := 0, txn := 0, status := 0, fmt := false, contrib := 0, group := 0, hchk := 0, lastUnits := 0, addr := 0, data := List.replicate 513 0, truncated := false }

/-- A write of more than one packet holds. -/
def fatReq : MemReq :=
  { write := true, addr := 0, data := List.replicate 8193 0, owned := false, hamlet := 0, ofProgram := false, crcFails := 0, ecc := .clean, dstRtr := 0, txn := 0 }

theorem wf_refuses_two_in_one_slot : (Instr.nop { dd with rest := [(0, .nop)] }).wf = false := by decide

theorem wf_refuses_short_descriptor : (Instr.descriptorFetch 0 [] true 0).wf = false := by decide

theorem wf_refuses_short_mset : (Instr.msetWrite 0 [1]).wf = false := by decide

theorem wf_refuses_part_of_a_bundle : (Instr.launch 0 [1, 2, 3]).wf = false := by decide

theorem wf_refuses_long_recovery_chunk : (Instr.recoveryWrite false 0 (List.replicate 61441 0) 0).wf = false := by
  simp only [Instr.wf, List.length_replicate]; decide

theorem wf_refuses_long_management_chunk : (Instr.mgmtRecoveryWrite 0 (List.replicate 4097 0) 0).wf = false := by
  simp only [Instr.wf, List.length_replicate]; decide

theorem wf_refuses_fat_packets :
    (Instr.write fatPacket (.core 3) {}).wf = false ∧ (Instr.writeAck fatPacket).wf = false ∧
    (Instr.readReq fatPacket (.core 3) {}).wf = false ∧ (Instr.readData fatPacket []).wf = false ∧
    (Instr.redAck fatPacket).wf = false := by
  have h : fatPacket.wf = false := by decide +kernel
  exact ⟨h, h, h, h, h⟩

theorem wf_refuses_fat_request : (Instr.memRequest 0 fatReq).wf = false := by
  simp only [Instr.wf, MemReq.wf, fatReq, List.length_replicate]; decide

theorem wf_takes_a_syllable : (Instr.nop dd).wf = true := by decide

/-! ### The queue -/

theorem test_step_takes_the_front :
    step { sOn with pending := [.modrstNRise, .nop dd] } = exec .modrstNRise { sOn with pending := [.nop dd] } := rfl

theorem witness_IdleTick :
    sOn.pending = [] ∧ sOn.clk.slew = 0 ∧ ({ sOn with clk := { slew := 3 } } : State).tb.toNat % 5000 = 0 := by decide

theorem witness_BoundSitesAreFused : bindsFused State.reset := by
  intro lc n h; exact absurd h (by simp [State.siteOf, State.reset, tget])

theorem witness_CommandsKeepQueue : ∃ t, exec .modrstNRise sOn = .next t := ⟨_, rfl⟩

/-! ### The sequencer -/

theorem witness_ScalarArithmetic : ∀ op ∈ [AluOp.add, .sub, .and, .or, .xor, .mul], dispatches sRun dd (.alu op af) := by
  unfold dispatches; decide

theorem witness_ScalarShiftsAndOrder : ∀ op ∈ [AluOp.shl, .shr, .sra, .min, .max], dispatches sRun dd (.alu op af) := by
  unfold dispatches; decide

theorem witness_ScalarMoves :
    ∀ y ∈ [Syll.li 0 0xFFFFFFFF, .lih 31 1, .smova 3 15, .aadd af, .amov 3 1], dispatches sRun dd y := by
  unfold dispatches; decide

/-- The running site inside a loop that ends here. -/
def sLoop : State := sRun.modSite 3 fun c => { c with loops := [{ start := 90, endB := 100, count := 2 }] }

theorem witness_BranchesAndLoops :
    (∀ y ∈ [Syll.br 65535, .brc 0 1 2 false 0 7, .brc 1 1 2 false 0 7, .brc 2 1 2 false 0 7, .brc 3 1 2 true 0xFFFF 7, .brc 4 1 2 false 0 7, .brc 5 1 2 false 0 7, .loop false 0 3 105, .loop false 0 0 105, .loop true 1 0 105], dispatches sRun dd y) ∧
    ∀ l ∈ (sRun.site 3).loops, l.endB ≠ 105 := by
  unfold dispatches; decide

theorem test_sub : ((after (.sub dd af) sRun).site 3).sreg 3 = 0xFFFFFFFFFFFFFFFE := by decide

theorem test_sra_uses_six_bits :
    ((after (.sra dd { af with imm := true, imm32 := 65 }) sRun).site 3).sreg 3 = 2 := by decide

theorem test_mul_keeps_S0 : ((after (.mul dd { af with rd := 0 }) sRun).site 3).sreg 0 = 0 := by decide

theorem test_lih : ((after (.lih dd 1 9) sRun).site 3).sreg 1 = 0x0000000900000005 := by decide

theorem test_brc_less : ((after (.brc dd 2 1 2 false 0 7) sRun).site 3).pc = 7 := by decide

theorem test_loop_back : ((after (.nop dd) sLoop).site 3).pc = 90 := by decide

/-- A settled core, for SETTLE. -/
theorem witness_FallsThrough :
    (∀ y ∈ [Syll.nop, .halt, .settle, .sched, .waitUntil 0, .forecast 15 16 0 0, .forecast 1 4 1023 4095, .phaseHint true 7, .phaseHint false 0],
      dispatches sRun dd y ∧ ∀ z ∈ bundleOf dd y, z.isCtrl = false ∨ z = y) ∧
    (∀ z ∈ bundleOf dd .nop, z.isCtrl = false) := by
  unfold dispatches; decide

theorem witness_BundlesThatWait :
    (sRun.site 3).seq = .running ∧ sRun.clocked 3 = true ∧
    (sRun.site 3).badSlot { hd with w0En := true, w0Amt := 1 } (slotsOf dd .nop) = none ∧
    sRun.canDispatch 3 { hd with w0En := true, w0Amt := 1 } (bundleOf dd .nop) = false := by decide

/-- The bundle at the head of the program store has a head that breaks a rule. -/
def sBadStore : State := sRun.modSite 3 fun c => { c with ps := [(800, 0xFFFFFFFFFFFFFFFF)] }

theorem witness_PreciseExceptions :
    (sRun.site 3).badSlot hd (slotsOf dd (.brc 7 0 0 false 0 0)) = some 1 ∧
    (sRun.site 3).badSlot hd (slotsOf dd (.trap 5)) = none ∧ sRun.canDispatch 3 hd (bundleOf dd (.trap 5)) = true ∧
    sRun.firstRaise 3 [] (slotsOf dd (.trap 5)) = some (1, 0x0E, 5) ∧
    (sBadStore.site 3).seq = .running ∧ sBadStore.clocked 3 = true ∧ (sBadStore.site 3).storeBadSlot = some 0 := by
  decide

theorem test_trap : ((after (.trap dd 5) sRun).site 3).exc = 0x8E200064 := by decide

/-- S4 is pending with a value that has arrived. -/
def sPend : State := sRun.modSite 3 fun c => { c with pend := [{ rd := 4, value := none }, { rd := 5, value := some 9 }] }

theorem witness_LoadsStoresStatus :
    (∀ y ∈ [Syll.lds { reg := 3, areg := 1, imm32 := 8 }, .sts { reg := 2, areg := 1, imm32 := 0xFFFFFFF8 }, .status 3 false 0], dispatches sRun dd y) ∧
    (sPend.site 3).pend.find? (fun p => decide (p.rd = 5)) = some { rd := 5, value := some 9 } := by
  unfold dispatches; decide

theorem witness_EngineQueues :
    ∀ y ∈ [Syll.matrix mf, .bankDrain df, .bankFree 3 3, .ewise ef, .latch lf, .feed ff], dispatches sRun dd y := by
  unfold dispatches; decide

theorem witness_VectorMemoryRowsQueue :
    ∀ o ∈ [VecOp.vld, .vst, .vbcast, .vmovs, .vwadd, .vwanch, .vwcvt, .vxpose], dispatches sRun dd (.vec o (vf o)) := by
  unfold dispatches; decide

theorem witness_VectorLaneRowsQueue :
    ∀ o ∈ [VecOp.vfma, .vadd, .vsub, .vmul, .vmin, .vmax, .vcmp, .vsel, .vsfu, .vred], dispatches sRun dd (.vec o (vf o)) := by
  unfold dispatches; decide

/-- Sill entries released with and without a reader. -/
def sSill : State :=
  sRun.modSite 3 fun c => { c with sill := [(0, { st := .released, claimed := 1 }), (1, { st := .released, readers := 1, claimed := 1 })] }

/-- The running core with a hamletless tally buffer. -/
def sTally : State :=
  ({ sRun with mem := { sRun.mem with lit := 1, pages := [(0, { valid := true, kind := 3 }), (1, { valid := true, kind := 4 })] } }).modSite 3
    fun c => { c with ws := [(4098, 1)], sill := [(0, { st := .released, claimed := 1 })] }

/-- Site 3 napping: its clock is stopped. -/
def sHaltedClock : State := sRun.modSite 3 fun c => { c with pwr := .nap }

/-- A copy descriptor of 64 bytes from offset 0 of the working store to offset 64 at A1. -/
def sPush : State := sRun.modSite 3 fun c => { c with ws := [(4099, 0x10), (4100, 0x40), (4112, 0x40), (4120, 1)] }

theorem witness_SyncRows :
    (∀ y ∈ [Syll.signal 63 65535, .bell bf], dispatches sRun dd y) ∧ dispatches sPush dd (.push 3 1) ∧
    dispatches sSill dd (.sfree 0) ∧ dispatches sSill dd (.sfree 1) ∧ dispatches sTally dd (.tally 1) ∧
    ((sSill.site 3).entry 0).st = .released := by
  unfold dispatches
  refine ⟨?_, ?_, ?_, ?_, ?_, ?_⟩ <;> decide

theorem witness_SyncRows_tally :
    sTally.tallyFits 3 1 = some 270336 ∧ (sTally.site 3).launch.isSome = true := by decide

/-- The same bundle after three cycles more, fetched with a corrected word. -/
def ddLate : Disp := { dd with cycles := 3, ps := .corrected }

theorem witness_BundlesThatWait_cycles :
    sRun.clocked ddLate.site = true ∧ ((sRun.begin ddLate .nop).site 3).cycle = (sRun.site 3).cycle + 3 ∧
    ((sRun.begin ddLate .nop).site 3).psEcc ≠ (sRun.site 3).psEcc ∧ sHaltedClock.clocked 3 = false ∧
    (sRun.modSite 3 fun c => { c with psBad := [c.pc] }).clocked 3 = true := by decide +kernel

theorem test_bad_bundle_stops :
    let s := sRun.modSite 3 fun c => { c with psBad := [c.pc] }
    ((after (.nop dd) s).site 3).seq = .stopped ∧ ((after (.nop dd) s).site 3).pc = (s.site 3).pc := by decide +kernel

/-- A site that has dispatched its HALT and drained. -/
def sHalted : State := sRun.modSite 3 fun c => { c with seq := .halted }

theorem witness_ProgramEnds :
    (sHalted.site 3).programOver = true ∧ ((sHalted.site 3).launch.map (·.desc)) = some 9 ∧
    (sHalted.site 3).bound = some 0 ∧ windowOver 0 1000000000 sHalted.tb = false ∧
    (sRun.site 3).seq = .running ∧ (50000000 : BitVec 64) ≤ 50000000 := by decide

/-! ### The engines -/

/-- An operation of an array queue. -/
def kOp (k : ArrayKind) : ArrayOp :=
  { seq := 1, kind := k, m := 1, anchorReg := 0, c1 := 0x3F800000, c2 := 0x3F800000, bundle := 100, slot := 1, named := 0 }

/-- An engine whose shadow plane is latched and whose half FB0 holds a tile of one row. -/
def gReady : Engine := { planes := [(1, { latched := true, wfmt := 3 })], halves := [(0, { resident := true, rows := 1 })] }

/-- The running device with engine E0 of site 3 as g. -/
def sEng (g : Engine) : State := sRun.modSite 3 fun c => c.setEng 0 g

theorem witness_ArrayOperationsIssue_clocked (g : Engine) : (sEng g).clocked 3 = true := by
  have h (c : Site) (a : c.pwr = .run) : (sRun.modSite 3 fun _ => c).clocked 3 = true := by
    have r (k : RegionNo) : (sRun.setSite 3 c).region k = sRun.region k := rfl
    simp only [State.clocked, State.modSite, State.site_setSite_same, a, r]; decide +kernel
  exact h _ rfl

/-- A MATRIX that drains to sill entry 0. -/
def mfDrain : MatrixF := { mf with dest := 1 }

/-- E0 with one operation queued. -/
def sQueued (g : Engine) (k : ArrayKind) : State := sEng { g with arrayQ := [kOp k] }

/-- A half whose RAW bytes hold the operands of EWISE. -/
def gRaw : Engine := { halves := [(0, { resident := true, raw := true, bytes := 4096 })] }

/-- E0 with bank 0 HELD. -/
def gHeld : Engine := { banks := [(0, { st := .held, anchor := 128 })] }

theorem witness_ArrayOperationsIssue :
    (∀ p ∈ [(gReady, ArrayKind.matrix mf), (gReady, .matrix mfDrain), (gRaw, .ewise ef), (gHeld, .drain df), (gHeld, .free 0)],
      (((sQueued p.1 p.2).site 3).eng 0).arrayQ = [kOp p.2] ∧ (((sQueued p.1 p.2).site 3).tryHead 0).1 = .go ∧
      ((sQueued p.1 p.2).site 3).sillGrant 0 (((sQueued p.1 p.2).site 3).tryHead 0).2 = true) ∧
    (((sQueued { gHeld with planes := gReady.planes, halves := gReady.halves } (.matrix { mf with accumulate := true })).site 3).tryHead 0).1 = .go ∧
    (((sQueued { gReady with planes := [(0, { latched := true, wfmt := 3 })] } (.matrix { mf with hold := true })).site 3).tryHead 0).1 = .go := by
  decide

/-- The sill has no room. -/
def sFull : State := (sQueued gReady (.matrix mfDrain)).modSite 3 fun c => { c with sillFree := 0 }

theorem witness_ArrayRefusalsAndWaits :
    (((sQueued {} (.drain df)).site 3).tryHead 0).1 = .refuse 0x06 ∧ ((sQueued {} (.drain df)).site 3).seq ≠ .idle ∧
    (((sQueued {} (.matrix mf)).site 3).tryHead 0).1 = .wait ∧ ((sFull.site 3).tryHead 0).1 = .go ∧
    (sFull.site 3).sillGrant 0 ((sFull.site 3).tryHead 0).2 = false := by
  decide

theorem test_free_of_a_free_bank_refused :
    ((after (.bankFreeIssue 3 0) (sQueued {} (.free 2))).site 3).exc = 0x86200064 := by decide

theorem test_matrix_takes_the_array :
    let g := ((after (.matrixIssue 3 0) (sQueued gReady (.matrix mf))).site 3).eng 0
    g.inArray.isSome = true ∧ g.active = true ∧ (g.bank 0).st = .filling := by decide

/-- A queued FEED of one row, or of 8,192, which takes both halves. -/
def fOp (m : Nat) : FeedOp := { seq := 0, f := ff, m := m, off := 4096, bundle := 100, slot := 1 }

def lOp (f : LatchF) : LatchOp := { seq := 0, f := f, off := 4096, bundle := 100, slot := 1 }

theorem witness_FeedsAndLatches :
    (∀ m ∈ [1, 8192], (fOp m).refused = false) ∧
    (fOp 1).needsBoth = false ∧ (fOp 8192).needsBoth = false ∧ (fOp 8192).f.fb = false ∧
    ({ fOp 8192 with f := { ff with afmt := 3 } } : FeedOp).needsBoth = true ∧
    ({ fOp 8192 with f := { ff with afmt := 3 } } : FeedOp).refused = false ∧
    (let s := sEng { feedQ := [fOp 1] }
     let g := (s.site 3).eng 0
     g.retired = false ∧ g.feedHalted = false ∧ g.feeding = none ∧ (s.site 3).quarantined = false ∧
     (g.half false).both = false ∧ g.halfOpen false 0 = true ∧ g.halfOpen true 0 = true) ∧
    (((sEng { feeding := some (fOp 1) }).site 3).eng 0).feeding = some (fOp 1) ∧
    (let s := sEng { latchQ := [lOp lf] }
     let g := (s.site 3).eng 0
     g.retired = false ∧ g.latchingOp = none ∧ g.swapsBefore 0 = false ∧ g.shadow.holders = 0 ∧
     (s.site 3).planeLent 0 = false ∧ g.restoring = none) ∧
    (let s := sEng { latchingOp := some (lOp { lf with fromWs := false }) }
     (s.site 3).refilling 4096 (weightBytes 0 0 false) = false) := by
  decide

/-- A matrix instruction in the array. -/
def fly (k : ArrayKind) : Flight :=
  { op := kOp k, issue := 0, len := 256, cap := 16, slots := 256, taken := 0, capFrom := 0, anchor := 0, plane := false, contrib := [], pred := { rows := [(0, 0)], cols := [] }, rows := [], sat := false, nanOut := false, maxF := 0, usesCb := false, cancelled := false }

theorem witness_DrainsMovesAndCaps :
    (let s := sEng { gHeld with draining := some (kOp (.drain df)) }
     ((s.site 3).eng 0).draining = some (kOp (.drain df)) ∧ ((s.site 3).entry 0).waits = 0 ∧
     ((s.site 3).entry 0).freeReq = false ∧ ((s.site 3).entry 0).flush = none) ∧
    (let s := sEng { retired := true, movePending := true, redirect := 1 }
     ((s.site 3).eng 0).redirect ≠ 0 ∧ (s.site 3).engQuiescent 0 = true ∧ (s.site 3).engQuiescent 1 = true) := by
  decide

/-- Sill entry 0 waits for one verdict. -/
def sArr (k : ArrayKind) : State :=
  (sEng { inArray := some (fly k) }).modSite 3 fun c => { c with sill := [(0, { st := .opened, waits := 1, claimed := 1 })] }

theorem witness_LastPlacements :
    ∀ k ∈ [ArrayKind.matrix mf, .matrix { mf with accumulate := true }, .matrix mfDrain, .ewise ef],
      (((sArr k).site 3).eng 0).inArray = some (fly k) ∧ ((sArr k).site 3).passOf 0 = none ∧
      ((((sArr k).site 3).eng 0).half false).both = false ∧ (((sArr k).site 3).entry 0).waits = 1 ∧
      (((sArr k).site 3).entry 0).freeReq = false ∧ (((sArr k).site 3).entry 0).st ≠ .poisoned ∧
      ((((sArr k).site 3).eng 0).bank 0).st ≠ .poisoned := by decide

/-- What a checker meets: nothing, or a row whose sum is off by more than its tolerance. -/
def obsOk : VerdictObs := { lines := [], specialAgree := true, convBad := none, bufferEcc := .clean, errOff := 0 }

def obsBad : VerdictObs := { obsOk with lines := [{ col := false, line := 0, dS := 1000, dP := 0 }] }

/-- A vote on E0's instruction with E1 as replay engine, at a stage. -/
def vote (k : ArrayKind) (st : VoteStage) : Vote :=
  { orig := 0, replay := 1, stage := st, flight := fly k, obs := (fly k).check obsBad, misses := [], parked := none, pass := some (fly k) }

def sVote (k : ArrayKind) (st : VoteStage) : State := sRun.modSite 3 fun c => { c with vote := some (vote k st) }

theorem witness_VerdictsAndVotesBegin :
    (∀ k ∈ [ArrayKind.matrix mf, .matrix mfDrain],
      (((sEng { waiting := [fly k] }).site 3).eng 0).waiting = [fly k] ∧ (fly k).usesCb = false) ∧
    ((fly (.matrix mf)).check obsOk).pass = true ∧ ((fly (.matrix mf)).check obsBad).pass = false ∧ obsOk.bufferEcc = .clean ∧ ((sEng { waiting := [fly (.matrix mf)] }).site 3).vote = none ∧
    ((sEng { waiting := [fly (.matrix mf)] }).site 3).nextGood 0 = some 1 ∧
    ((sVote (.matrix mf) .voted).site 3).vote.isSome = true ∧ ((sVote (.matrix mf) .voted).site 3).seq ≠ .idle := by
  decide +kernel

theorem test_failed_verdict_begins_a_vote :
    ((after (.verdict 3 0 obsBad) (sEng { waiting := [fly (.matrix mf)] })).site 3).vote.map (·.replay) = some 1 := by
  decide +kernel

theorem witness_VotesRunAndEnd :
    (∀ st ∈ [VoteStage.failed, .latched, .votePass, .voted, .applyPass, .applied],
      ((sVote (.matrix mf) st).site 3).vote = some (vote (.matrix mf) st)) ∧
    (((sVote (.matrix mf) .failed).site 3).eng 1).shadow.holders = 0 ∧
    (((sVote (.matrix mf) .failed).site 3).eng 1).latchingOp = none ∧
    (((sVote (.matrix mf) .failed).site 3).eng 1).restoring = none ∧
    (((sVote (.matrix mf) .latched).site 3).eng 1).inArray = none ∧
    (vote (.matrix mfDrain) .voted).flight.bankOf = none ∧ (vote (.matrix mfDrain) .voted).flight.nonFinite = false ∧
    { fly (.matrix mf) with contrib := [(0, { special := 1 })] }.nonFinite = true ∧
    (vote (.matrix mf) .voted).pass = some (fly (.matrix mf)) ∧
    (vote (.matrix mf) .voted).obs.same ((fly (.matrix mf)).check obsOk) = false ∧
    ((fly (.matrix mf)).check obsOk).pass = true ∧ ((fly (.matrix mf)).check obsBad).pass = false ∧
    ewiseAgrees (fun _ => 1) [{ index := 5, v1 := 1, v2 := 2 }] [] = true ∧ ewiseAgrees (fun _ => 3) [{ index := 5, v1 := 1, v2 := 2 }] [] = false ∧
    ((sVote (.matrix mf) .votePass).site 3).passOf 1 = some (vote (.matrix mf) .votePass) ∧
    ((sVote (.matrix mf) .applyPass).site 3).passOf 1 = some (vote (.matrix mf) .applyPass) := by
  decide +kernel

/-- A checker that passes with the result the original had. -/
theorem test_agreement_keeps_the_result :
    let k := (fly (.matrix mf)).check obsOk
    let s := sRun.modSite 3 fun c => { c with vote := some { vote (.matrix mf) .voted with obs := k } }
    k.same k = true ∧ ((after (.voteDecide 3 obsOk []) s).site 3).vote = none := by decide +kernel

theorem witness_RepairOfEngines :
    (((sEng { restoring := some {} }).site 3).eng 0).restoring = some {} ∧
    (((sEng { retired := true }).site 3).eng 0).replaceAtTally = false ∧
    (sEng { retired := true }).planOf 3 0 [(7, 9)] = some ([7], []) ∧
    (sEng { remapRow := 0x8007 }).planOf 3 0 [(7, 9)] = some ([], [9]) ∧
    ((sEng { retired := true }).site 3).engQuiescent 0 = true ∧ ((sEng { restoring := some {} }).site 3).vote = none ∧
    (∀ x, (sRun.site 3 |>.eng x).restoring = none) := by decide +kernel

theorem test_verdict_window :
    (((after (.verdictWindowExpiry 3 0 90000000000000) (sEng { verdicts := [(true, 3600), (false, 3601)] })).site 3).eng 0).verdicts =
      [(false, 3601)] := by decide +kernel

/-! ### The vector unit -/

/-- A queued vector operation. -/
def vE (i : VecItem) : VecEntry := { item := i, addr := 4096, addrA := 8192, addrB := 12288, sval := 0, bundle := 100, slot := 5 }

def sVec (i : VecItem) : State := sRun.modSite 3 fun c => { c with vecQ := [vE i] }

/-- A weight block of the tag of another anchor at 12,288. -/
def sAnchors : State := (sVec (.vec .vwadd (vf .vwadd))).modSite 3 fun c => { c with ws := (List.range 8).map fun i => (12544 + i, 0xFF) }

theorem witness_VectorOperationsIssue :
    (∀ o ∈ [VecOp.vld, .vfma, .vadd, .vsub, .vmul, .vmin, .vmax, .vcmp, .vsel, .vsfu, .vred, .vbcast, .vst, .vwadd, .vxpose],
      ((sVec (.vec o (vf o))).site 3).vecQ = [vE (.vec o (vf o))]) ∧
    (sVec (.sts 9)).site 3 = { cRun with vecQ := [vE (.sts 9)] } ∧ (cRun.vecHalted = false ∧ cRun.quarantined = false) ∧
    (sVec (.lds 4)).site 3 = { cRun with vecQ := [vE (.lds 4)] } ∧
    (vE (.vec .vfma (vf .vfma))).checked = true ∧ cRun.seq ≠ .idle ∧ cRun.vecQ = [] := by
  decide

theorem test_sts_writes_eight_bytes :
    let c := (after (.vectorIssue 3 0 .clean 0) (sVec (.sts 0x0102030405060708))).site 3
    c.ws = [(4096, 8), (4097, 7), (4098, 6), (4099, 5), (4100, 4), (4101, 3), (4102, 2), (4103, 1)] := by decide

theorem witness_VectorOperationsIssue_weights :
    (allSome (List.zipWith Wps.add ((sVec (.vec .vwadd (vf .vwadd))).site 3 |>.wpsAt 8192 1) ((sVec (.vec .vwadd (vf .vwadd))).site 3 |>.wpsAt 12288 1))).isSome = true ∧
    (allSome (List.zipWith Wps.add (sAnchors.site 3 |>.wpsAt 8192 1) (sAnchors.site 3 |>.wpsAt 12288 1))).isSome = false := by
  decide +kernel

/-! ### Copies -/

/-- A copy of 64 bytes between stores. -/
def cd (src dst : BitVec 4) : CopyDesc :=
  { srcKind := src, dstKind := dst, twoD := false, fence := true, sillFree := true, combine := false, redFmt := false, sigEn := true, sigTok := 63, prio := 0, length := 64, src := 4096, dst := 8192, rows := 1, srcStride := 0, dstStride := 0, device := 0, lcore := 0, bellEn := false, bell := 0, group := 0, contributor := 0, tag := 0xAB }

def cf (d : CopyDesc) (moved : Nat) : CopyFlight := { desc := d, since := 0, done := false, moved := moved, txn := none, buf := [] }

def sQ (w : List CopyDesc) (f : List CopyFlight) : State :=
  sRun.modSite 3 fun c => { c with queues := [(0, { waiting := w, flight := f })], ws := [(4096, 7)], sill := [(0, { st := .released, units := 1, readers := 1, claimed := 1 })] }

/-- A source of one unit more than its sill entry holds. -/
def cdSill : CopyDesc := { cd 2 0 with src := 64 }

theorem witness_CopiesStartAndComplete :
    (∀ d ∈ [cd 0 0, { cd 2 0 with src := 0 }],
      (((sQ [d] []).site 3).queue 0).waiting = [d] ∧ ((sQ [d] []).site 3).copyStarts 0 d = true ∧
      (sQ [d] []).clocked 3 = true ∧ ((sQ [d] []).site 3).sillRange d = true ∧ byFabric d.srcKind = false ∧
      byFabric d.dstKind = false) ∧
    ((sQ [cd 0 0] [cf (cd 0 0) 0]).site 3).copyStarts 0 (cd 0 0) = false ∧
    ((sQ [cdSill] []).site 3).copyStarts 0 cdSill = true ∧ ((sQ [cdSill] []).site 3).sillRange cdSill = false ∧
    (cd 0 0).total ≤ (cf (cd 0 0) 64).moved ∧ (cf (cd 0 0) 64).txn = none ∧ (cd 0 0).bellEn = false ∧
    (sQ [] []).clocked 3 = true ∧ byFabric (cd 0 3).dstKind = true ∧ (cd 1 0).byRequests = false ∧
    (cf (cd 1 0) 0).moved < (cd 1 0).total ∧ (cd 1 0).dstKind ≠ 6 ∧
    ((sRun.modSite 3 fun c => { c with refills := [1] }).site 3).refilling (cd 1 0).src.toNat ((cd 1 0).extent (cd 1 0).srcStride) = true := by
  decide +kernel

/-- What a copy met: nothing, or an ECC event of its first source word. -/
def sound : CopyObs := { data := [], ecc := .clean, off := 0 }

theorem test_copy_to_memory_waits_for_its_requests :
    (after (.copyComplete 3 0 sound) (sQ [] [cf (cd 0 3) 0])).site 3 = (sQ [] [cf (cd 0 3) 0]).site 3 := by decide +kernel

theorem test_copy_source_lost :
    let c := (after (.copyComplete 3 0 { sound with ecc := .uncorrectable }) (sQ [] [cf (cd 0 0) 0])).site 3
    (c.queue 0).err = 6 ∧ c.seq = .stopped ∧ tget (fun _ => 0) c.ws 8192 = 0 := by decide +kernel

theorem test_copy_moves_its_bytes :
    let c := (after (.copyComplete 3 0 sound) (sQ [] [cf (cd 0 0) 0])).site 3
    tget (fun _ => 0) c.ws 8192 = 7 ∧ tget (fun _ => 0) c.ws 4096 = 7 ∧ c.tok 63 = 1 ∧ (c.queue 0).completed = 1 := by
  decide

/-- A packet whose second word failed its check. -/
def badPkt : BadPacket := { at_ := 0, span := 64, bad := [1], data := [] }

theorem test_bad_packet_leaves_its_good_words :
    let s := (sQ [] [cf (cd 0 0) 0]).modSite 3 fun c => { c with ws := [(4096, 7), (4104, 8), (4112, 9)] }
    let c := (after (.copyFail 3 0 9 (some badPkt)) s).site 3
    c.ws = [(4096, 7), (4104, 8), (4112, 9), (8192, 7), (8208, 9)] ∧ (c.queue 0).err = 9 := by decide +kernel

theorem witness_CopiesFail :
    (((sQ [] [cf (cd 0 0) 0]).site 3).queue 0).flight = [cf (cd 0 0) 0] ∧ (((sQ [] [cf (cd 0 0) 0]).site 3).queue 0).halted = false ∧
    (1 : BitVec 4) ≠ 0 ∧ (9 : BitVec 4) ≤ 9 ∧ (9 : BitVec 4) < 10 ∧
    windowOver 0 (cd 0 0).limit ((sQ [] [cf (cd 0 0) 0]).at 1000000).tb = true ∧
    windowOver 0 (cd 0 0).limit ((sQ [] [cf (cd 0 0) 0]).at 999999).tb = false ∧
    windowOver 0 (cd 0 6).limit ((sQ [] [cf (cd 0 6) 0]).at 10000000).tb = true ∧ (cf (cd 0 0) 0).moved < (cd 0 0).total := by
  decide

/-! ### Stores and memory -/

/-- Site 3 with a mirror of one page at page 0, lit. -/
def sMir : State :=
  ({ sRun with mem := { lit := 255, pages := [(0, { valid := true, kind := 2 })] } }).modSite 3
    fun c => { c with mirror := 0x8001000000000000, refills := [0] }

theorem witness_StoresAreScrubbed :
    sRun.clocked 3 = true ∧ ((sRun.site 3).seq = .running ∧ (sRun.site 3).pc ≠ (sRun.site 3).psScrubAt) ∧
    (let s := sRun.modSite 3 fun c => { c with psScrubAt := 100 }
     s.clocked 3 = true ∧ (s.site 3).pc = (s.site 3).psScrubAt) ∧
    sRun.isDark (fieldOfSite 3) = false ∧
    (sMir.site 3).refills = [0] ∧ mirrorValid (sMir.site 3).mirror = true ∧ mirrorFirst (sMir.site 3).mirror = 0 ∧
    mirrorPages (sMir.site 3).mirror = 1 ∧ (sMir.page 0).valid = true ∧
    (let s := sRun.modSite 3 fun c => { c with refills := [0] }
     mirrorValid (s.site 3).mirror = false ∧ (s.site 3).seq ≠ .idle) ∧
    (let s := sMir.setMsite 0 { st := 2 }
     (s.msite 0).st = 2 ∧ ((s.msite 0).chan (chanOf s 0 0)).closed = false ∧ s.isDark 0 = false ∧
     s.mirrorOwner 0 = some 3) := by
  decide

theorem witness_StoresAreScrubbed_memory :
    sMir.isDark 0 = false ∧ sMir.fieldStopped 0 = false ∧ (∀ q, ((sMir.site 3).queue q).flight = []) ∧
    (let s := sMir.setMsite 0 { st := 2 }
     s.scrubNext 0 = some 0 ∧ s.mirrorOwner (0 / 8388608) = some 3) ∧
    (sMir.setMsite 0 { st := 2, scrubAt := 64 }).scrubNext 0 = some 64 ∧
    (sMir.setMsite 0 { st := 2, scrubAt := 42949672960 }).scrubNext 0 = none := by
  decide +kernel

theorem test_ws_scrub_stops :
    ((after (.wsScrub 3 0 .uncorrectable) sRun).site 3).seq = .stopped ∧
    ((after (.wsScrub 3 0 .uncorrectable) sRun).site 3).wsEcc = 1 := by decide

/-- A request to page 0 of field 0. -/
def rq (w : Bool) : MemReq :=
  { write := w, addr := 64, data := if w then [1, 2] else [], owned := false, hamlet := 0, ofProgram := true, crcFails := 0, ecc := .clean, dstRtr := 0, txn := 5 }

/-- Page 0 valid, page 1 not. -/
def sMem : State :=
  { sOn with mem := { lit := 255, pages := [(0, { valid := true })], sites := [(0, { st := 2 })] } }

/-- The channel of address 64 closed, or due. -/
def sChan (c : Channel) : State := sMem.setMsite 0 { st := 2, chans := [(0, c)] }

def remote (w : Bool) : RemoteReq := { link := 5, write := w, addr := 0, len := 2, data := [1, 2], srcDev := 7, rtxn := 1 }

def sCache : State :=
  ({ sMem with role := 2, mem := { sMem.mem with pages := [(0, { valid := true, kind := 1, remR := true, remW := true })] } }).setLink 5 { st := .up }

/-- A read held while channel 0 of site 0, where its burst failed four times, is closed. -/
def sWaits : State :=
  { sChan { closed := true } with mem := { (sChan { closed := true }).mem with waiting := [{ field := 0, work := .unit { rq false with crcFails := 1 }, since := 0, after := some (0, 0) }] } }

/-- The CACHE device with channel 0 of site 0 closed. -/
def sCacheShut : State := sCache.setMsite 0 { st := 2, chans := [(0, { closed := true })] }

theorem witness_MemoryServesAndRetrains :
    sMem.isDark 0 = false ∧ sMem.memHeld 0 (.unit (rq true)) sMem.mem.waiting = false ∧
    sMem.portFree (sMem.memPort 0).1 = true ∧ (sChan { closed := true }).memHeld 0 (.unit (rq true)) [] = true ∧
    sMem.memCode 0 (rq true) = 0 ∧ sMem.memCode 0 (rq false) = 0 ∧
    sMem.memCode 0 { rq true with addr := 8388608 } ≠ 0 ∧
    (((sChan { closed := true }).msite (memOf (sChan { closed := true }) 0 64)).chan (chanOf (sChan { closed := true }) 0 64)).closed = true ∧
    (sMem.msite 0).st = 2 ∧ ((sMem.msite 0).chan 0).due = none ∧
    (sMem.at 10000000000).retrainDue 0 0 .age = true ∧ sWaits.retrainDue 0 0 .failedBurst = true ∧
    sMem.retrainDue 0 0 .failedBurst = false ∧ ((sChan { due := some 0 }).msite 0).st = 2 ∧
    (((sChan { due := some 0 }).msite 0).chan 0).lastStep = 0 ∧
    ((sWaits.msite 0).chan 0).closed = true ∧ memOf sWaits 0 64 = 0 ∧ chanOf sWaits 0 64 = 0 ∧
    sWaits.fieldStopped 0 = false ∧ sWaits.portFree (sWaits.memPort 0).1 = true ∧
    (sCache.page 0).field = 0 ∧ sCache.memHeld 0 (.remote (remote true)) sCache.mem.waiting = false ∧
    sCacheShut.remoteCode (remote true) = 0 ∧ sCacheShut.memHeld 0 (.remote (remote true)) [] = true ∧
    (sChan { due := some 0 }).retrainingIn 0 = none ∧ (sChan { due := some 0 }).nextRetrain 0 = some (0, 0) ∧
    (((sChan { closed := true, fails := 1, rate := 2 }).msite 0).chan 0).closed = true ∧
    (1 : BitVec 3) < (((sChan { closed := true, fails := 1, rate := 2 }).msite 0).chan 0).rate ∧
    (((sChan { closed := true, fails := 1, rate := 1 }).msite 0).chan 0).rate ≤ 1 ∧
    (sCache.link 5).st = .up ∧ sCache.remoteCode (remote true) = 0 ∧ ({ sCache with role := 3 } : State).remoteCode (remote true) ≠ 0 := by
  decide +kernel

theorem test_mem_write : (after (.memRequest 0 (rq true)) sMem).mem.ddr = [(64, 1), (65, 2)] := by decide +kernel

/-! ### The fabric -/

/-- A packet of 64 bytes to router d. -/
def pk (opc : BitVec 5) (d : Fin 64) : Packet :=
  { opc := opc, dstRtr := d, dstEp := false, srcRtr := 9, srcEp := false, owned := false, hamlet := 0, len := 0, txn := 5, status := 0, fmt := false, contrib := 0, group := 0, hchk := 0, lastUnits := 0, addr := 64, data := List.replicate 64 1, truncated := false }

/-- One packet in the buffer of router 0's local input. -/
def sBuf (l : List Packet) : State := sOn.setBuf 0 4 false l

theorem witness_PacketsForwarded :
    (∀ d ∈ [(0 : Fin 64), 63],
      (sBuf [pk 0 d]).buf 0 4 false = [pk 0 d] ∧ ((sBuf [pk 0 d]).nextPort 0 d).isSome = true ∧
      ((sBuf [pk 0 d]).nextPort 0 d).all (fun o => decide ((sBuf [pk 0 d]).grantOf 0 o false = some 4)) = true) ∧
    sOn.nextPort 0 0 = some 4 ∧ (sOn.nextPort 0 63).all (fun o => decide (o < 4) && !sOn.isDark (fieldOfRtr (neighbour 0 o))) = true ∧
    (let o := ((sOn.nextPort 0 63).getD 0)
     let s := (sBuf [pk 0 63]).setBuf (neighbour 0 o) (opposite o) (sOn.planeVia 0 o false) [pk 0 63, pk 0 63]
     2 ≤ (s.buf (neighbour 0 o) (opposite o) (s.planeVia 0 o false)).length) ∧
    (let s := (sBuf [pk 0 0]).setBuf 0 1 false [pk 0 0]
     s.grantOf 0 4 false ≠ some 4) := by
  decide

/-- An ADD to bell 5 of device 9 on its way from router 9 under TXN 5 to the endpoint of link 5, which is UP. -/
def bellPkt : Packet := { pk 7 (sOn.linkPort (fieldOfLink 5)).1 with dstEp := (sOn.linkPort (fieldOfLink 5)).2, addr := 5, data := bellOpBytes { op := 0, dev := some 9, bell := 5, amount := 1, instant := 0, tag := none } 3 }

def sBellOut : State :=
  { (sOn.setLink 5 { st := .up, credits := [(0, 4)] }) with id := { valid := true, dev := 3 }, fab := { (sOn.setBuf bellPkt.dstRtr 0 false [bellPkt]).fab with txns := [{ rtr := 9, txn := 5, pkt := bellPkt, since := 0, tries := 1, use := .bell .unit (some 9) }] } }

theorem witness_PacketsForwarded_bells :
    sBellOut.buf bellPkt.dstRtr 0 false = [bellPkt] ∧ sBellOut.nextPort bellPkt.dstRtr bellPkt.dstRtr = some 4 ∧
    sBellOut.grantOf bellPkt.dstRtr 4 false = some 0 ∧ sBellOut.fieldStopped (fieldOfRtr bellPkt.dstRtr) = false ∧
    (cutAt bellPkt none).truncated = false ∧ (cutAt bellPkt (some 0)).truncated = true ∧ svcType bellPkt.data = 1 ∧
    svcType (bellDataBytes 0 5 none 3) = 2 ∧
    (sBellOut.txnOf bellPkt.srcRtr bellPkt.txn).map (·.use) = some (.bell .unit (some 9)) ∧
    sBellOut.linkTo 3 9 (BitVec.ofNat 64 (pktAddr bellPkt)) (pktTag bellPkt) = some 5 ∧ (sBellOut.link 5).worn 0 = false ∧
    (sBellOut.link 5).txQ = [] ∧ 2 ≤ (sBellOut.link 5).credit 0 ∧ bellPkt.data.length = 64 ∧
    ((sBellOut.setBuf bellPkt.dstRtr 0 false []).arrived (cutAt bellPkt (some 0))).portFree bellPkt.dstRtr = true := by
  decide +kernel

theorem witness_PacketsForwarded_stops :
    (sBuf [pk 0 0]).portIdle 0 = true ∧ ((sBuf [pk 0 0]).modRegion 40 fun r => { r with st := 2 }).fieldStopped 0 = true ∧
    ({ sOn with fab := { loadedDark := 1 } } : State).nextPort 0 63 = none := by
  decide +kernel

/-- The device with a request of queue 0 of site 3 awaiting its answer, from router 9 under TXN 5. -/
def sTxn (u : TxnUse) (f : List CopyFlight) : State :=
  { sRun.modSite 3 fun c => { c with queues := [(0, { flight := f })] } with fab := { txns := [{ rtr := 9, txn := 5, pkt := pk 1 20, since := 0, tries := 1, use := u }] } }

/-- A flight whose last request is out. -/
def fl5 : CopyFlight :=
  { desc := { srcKind := 0, dstKind := 0, twoD := false, fence := false, sillFree := false, combine := false, redFmt := false, sigEn := false, sigTok := 0, prio := 0, length := 64, src := 0, dst := 128, rows := 1, srcStride := 0, dstStride := 0, device := 0, lcore := 0, bellEn := false, bell := 0, group := 0, contributor := 0, tag := 0xAB }, since := 0, done := false, moved := 0, txn := some 5 }

def ack (st : BitVec 4) : Packet := { pk 2 9 with status := st, data := [] }

/-- Page 0 is valid and lies in field 0. -/
def sPage : State := { sRun with mem := { lit := 255, pages := [(0, { valid := true })] } }

/-- Site 3 is hamlet 2's; its own packets. -/
def sOwn : State := (sRun.setHamlet 2 { st := .live }).modSite 3 fun c => { c with hamlet := some 2 }

def own (opc : BitVec 5) (d : Fin 64) : Packet := { pk opc d with owned := true, hamlet := 2 }

/-- Two packets of one flow on their way, the one with TXN 6 behind the other. -/
def sFlow : State := { sOwn with fab := { flying := [own 1 20, { own 1 20 with txn := 6 }] } }

/-- The copy's last request is a read, and its answer. -/
def sTxnRead : State :=
  { sTxn (.copy 3 0) [fl5] with fab := { txns := [{ rtr := 9, txn := 5, pkt := pk 3 20, since := 0, tries := 1, use := .copy 3 0 }] } }

def dataBack : Packet := pk 4 9

theorem witness_RequestsServed :
    sOwn.packetCode (own 1 20) (.core 3) true = 0 ∧ sOwn.packetCode (own 3 20) (.core 3) false = 0 ∧
    sOwn.packetCode (pk 1 20) (.core 3) true = 1 ∧ sOwn.notYet (own 1 20) = false ∧
    (sOwn.arrived (own 1 20)).portFree 20 = true ∧ (sPage.arrived (pk 1 20)).portFree 20 = true ∧
    sFlow.notYet (own 1 20) = false ∧ sFlow.notYet { own 1 20 with txn := 6 } = true ∧
    sPage.packetCode (pk 3 20) (.memory 0) false = 0 ∧ sPage.memHeld 0 (.read (pk 3 20) {}) sPage.mem.waiting = false ∧
    (sTxn (.copy 3 0) [fl5]).answeredBy (ack 0) = some { rtr := 9, txn := 5, pkt := pk 1 20, since := 0, tries := 1, use := .copy 3 0 } ∧
    (sTxn (.copy 3 0) [fl5]).notYet (ack 0) = false ∧ (sTxn (.copy 3 0) [fl5]).portIdle 9 = true ∧
    sRun.answeredBy (ack 0) = none ∧ sTxnRead.answeredBy dataBack = some { rtr := 9, txn := 5, pkt := pk 3 20, since := 0, tries := 1, use := .copy 3 0 } ∧
    sTxnRead.portIdle 9 = true ∧ fl5.desc.dstKind = 0 ∧ fl5.desc.total ≤ fl5.moved + dataBack.data.length ∧
    sPage.packetCode (pk 1 20) (.memory 0) true = 0 ∧ sRun.packetCode (pk 1 20) (.memory 0) true ≠ 0 ∧
    sRun.packetCode (pk 3 20) (.services 0) false ≠ 0 ∧
    (sTxn (.copy 3 0) [fl5]).txnOf (ack 0).dstRtr 5 = some { rtr := 9, txn := 5, pkt := pk 1 20, since := 0, tries := 1, use := .copy 3 0 } ∧
    (((sTxn (.copy 3 0) [fl5]).site 3).queue 0).flight = [fl5] ∧ fl5.desc.total ≤ fl5.moved + spanOf (pk 1 20) ∧
    (((sTxn (.copy 3 0) [fl5]).site 3).queue 0).halted = false ∧ (ack 3).status ≠ 5 ∧ (ack 3).status ≠ 6 ∧
    (ack 3).status ≠ 10 ∧ (sTxn (.copy 3 0) [fl5]).fab.waiting = [] ∧ sRun.txnOf 9 5 = none := by
  decide

theorem witness_RequestsServed_held (o : WriteObs) : sPage.memHeld 0 (.write (pk 1 20) o) sPage.mem.waiting = false := by
  have h : (MemWork.write (pk 1 20) o).parts = (MemWork.write (pk 1 20) {}).parts := rfl
  have g : sPage.memHeld 0 (.write (pk 1 20) {}) [] = false := by decide +kernel
  have w : sPage.mem.waiting = [] := rfl
  rw [w]; unfold State.memHeld at g ⊢; rw [h]; exact g

theorem test_write_at_a_core :
    tget (fun _ => 0) ((after (.write (own 1 20) (.core 3) {}) sOwn).site 3).ws 4159 = 1 ∧
    tget (fun _ => 0) ((after (.write (own 1 20) (.core 3) {}) sOwn).site 3).ws 4160 = 0 := by decide +kernel

/-- Contribution k of a combine group of two to site 3. -/
def contribution (k : BitVec 6) : RedContrib :=
  { root := 9, group := 0x0400, owned := true, hamlet := 2, dst := .core 3, addr := 0, contributor := k, srcRtr := 1, srcEp := false, txn := 5, data := .fp32 [0x3F800000] }

def slot : CSlot :=
  { root := 9, group := 0x0400, tag := some 2, dst := .core 3, addr := 0, since := 0, held := [contribution 0], failed := none, writing := false, answered := [], units := redUnits (contribution 0).data 2 }

def sSlots (l : List CSlot) : State := { sOwn with fab := { slots := l } }

/-- Hamlet 2 resets and owns site 4; the combine buffer of router 9 is full. -/
def sReset2 : State := (sRun.setHamlet 2 { st := .resetting }).modSite 4 fun c => { c with hamlet := some 2 }

theorem witness_CombineGroups :
    sOwn.isDark (fieldOfRtr 9) = false ∧ sReset2.hamletResetting (some 2) = true ∧
    sOwn.contribOvertakes (contribution 0) = false ∧ (sOwn.contribArrived (contribution 0)).portFree 9 = true ∧
    sOwn.hamletResetting (some 2) = false ∧ sOwn.groupShut (.core 3) (some 2) = false ∧
    sOwn.groupShut (.core 3) none = true ∧ sReset2.groupShut (.core 3) (some 2) = true ∧
    treeGroup 0x0400 = none ∧ sOwn.cslot 9 0x0400 (some 2) (.core 3) 0 = none ∧
    1024 < (sSlots ((List.range 64).map fun i => { slot with addr := BitVec.ofNat 64 (64 + i), group := 0x4000, units := 16 })).combineUsed 9 + redUnits (contribution 0).data 2 ∧
    sOwn.combineUsed 9 + redUnits (contribution 0).data 2 ≤ 1024 ∧ groupSize 0x0400 = 2 ∧
    (sSlots [slot]).cslot 9 0x0400 (some 2) (.core 3) 0 = some slot ∧ redAlike (contribution 0).data (contribution 1).data = true ∧
    (sSlots [slot]).fab.paused = none ∧ ((sSlots [slot]).freeTxn 9).isSome = true ∧
    windowOver 0 80000 ((sSlots [slot]).at 80000).tb = true ∧ windowOver 0 80000 ((sSlots [slot]).at 79999).tb = false := by
  decide +kernel

theorem witness_CombineGroups_resend :
    let s := { sTxn (.copy 3 0) [fl5] with fab := { (sTxn (.copy 3 0) [fl5]).fab with resends := [(9, 5, 1000)] } }
    (s.txnOf 9 5).isSome = true ∧ s.portFree 9 = true ∧ (pk 1 20).srcRtr = 9 ∧ (pk 1 20).txn = 5 ∧ slot.underway = false ∧
    (sSlots [slot]).portFree 9 = true ∧ (1000 : Word64) ≤ (s.at 1000).tb ∧ (s.at 999).tb < (1000 : Word64) := by decide

theorem test_first_contribution_opens_a_slot :
    (after (.redContrib (contribution 1) 0) sOwn).fab.slots.length = 1 := by decide +kernel

theorem witness_DeliveryLimitAndPause :
    windowOver 0 100000 ((sTxn (.copy 3 0) [fl5]).at 100000).tb = true ∧
    windowOver 0 100000 ((sTxn (.copy 3 0) [fl5]).at 99999).tb = false ∧ sRun.txnOf 9 5 = none ∧
    sRun.fab.paused = none ∧ ({ sRun with fab := { paused := some 7 } } : State).fab.bufs = [] ∧
    ({ sRun with fab := { paused := some 7, pauseReq := true } } : State).lintel 9 = {} ∧
    (sRun.lintel 9).planeOut 0 false false = false ∧ (sTxn (.copy 3 0) [fl5]).fab.waiting = [] ∧
    fl5.desc.limit = 1000000 ∧ windowOver 0 (fl5.desc.limit - 1) ((sTxn (.copy 3 0) [fl5]).at 999999).tb = true ∧
    windowOver (fl5.stalledFrom ⟨false, none⟩) fl5.desc.limit ((sTxn (.copy 3 0) [fl5]).at 1000000).tb = true ∧
    windowOver 0 (fl5.desc.limit - 1) ((sTxn (.copy 3 0) [fl5]).at 999998).tb = false ∧
    (sBuf [pk 0 0]).fab.bufs ≠ [] ∧ windowOver 7 20000 (sRun.at 20007).tb = true ∧
    windowOver 7 20000 (sRun.at 20006).tb = false := by
  decide

theorem witness_DeliveryLimitAndPause_lanes :
    let s : State := { sRun with fab := { paused := some 7, pauseReq := true } }
    let x : Lane := { rtr := 3, inp := 1, plane := false, group := 9 }
    let y : Lane := { rtr := 1, inp := 1, plane := false, group := 9 }
    s.fab.bufs = [] ∧ s.fab.marked = [] ∧ s.fab.waiting = [] ∧ onEdge 3 1 = false ∧ (lintelAt 3 1).isSome = true ∧
    lintelAt 1 1 = none ∧ s.laneSpared x = false ∧ s.laneSpared y = false ∧ s.planeDownAt 3 1 false = false ∧
    s.planeDownAt 1 1 false = false ∧ (s.takeSpare x).laneSpared x = true ∧ (s.takeSpare y).laneSpared y = true ∧
    (s.takeSpare x).planeDownAt 3 1 false = false ∧ (sTxn (.copy 3 0) [fl5]).portIdle 9 = true ∧
    ({ sTxn (.copy 3 0) [fl5] with fab := { (sTxn (.copy 3 0) [fl5]).fab with waiting := [{ pkt := pk 1 20, kind := .again true }] } } : State).heldBack 9 5 = true := by
  decide +kernel

/-! ### Links -/

/-- A numbered device with link 5 as k. -/
def sLink (k : Link) : State := { (sOn.setLink 5 k) with id := { valid := true, dev := 3 } }

def trained : TrainObs := { partner := true, lanes := 15, failed := [], best := [0, 1, 2, 3], cableNs := 450, tooLong := false }

/-- Lane 1 failed training; lanes 3 and 0 are the best. -/
def trainedHalf : TrainObs := { trained with lanes := 13, failed := [(1, true)], best := [3, 0, 2] }

/-- What the peer at the other end of link 5 says of itself. -/
def ident (d : BitVec 12) (l : LinkNo) : IdentObs := { minor := some 0, major := 1, dev := d, link := l, master := false }

theorem witness_LinksComeUp :
    ((sLink { st := .down }).link 5).st = .down ∧ (sLink { st := .down }).hasLink 5 = true ∧
    (sLink { st := .down }).isDark (fieldOfLink 5) = false ∧ (sLink { st := .down }).id.valid = true ∧
    windowOver 0 1000000000 ((sLink { st := .down, attempt := some 0 }).at 999999999).tb = false ∧
    trained.cableNs ≤ 450 ∧ trained.lanes = 15 ∧ ((sLink { st := .ident }).cabledTo 5).isSome = true ∧
    ((sLink { st := .ident }).cabledTo 5).map (·.1) ≠ some 3 ∧
    (sLink { st := .keying }).sec.nextLeaf.toNat + 1024 ≤ 2 ^ 40 ∧
    ({ sLink {} with sec := { nextLeaf := 0xFFFFFFFC00 } } : State).sec.nextLeaf.toNat + 1024 ≤ 2 ^ 40 ∧
    ((sLink { st := .keying }).link 5).owner = none ∧ ((sLink { st := .keying }).link 5).latched = none ∧
    ((sLink { st := .up }).link 5).st = .up ∧ (sLink {}).fab.cutOff.getLsbD (2 * (fieldOfLink 5).val + 1) = false ∧
    2 ≤ popCount trainedHalf.lanes ∧ trainedHalf.failed ≠ [] ∧ ((sLink { st := .up }).link 5).worn 0 = false := by
  decide +kernel

theorem test_half_rate_keeps_two_lanes :
    let k := (after (.linkTrained 5 trainedHalf) (sLink { st := .training })).link 5
    k.st = .ident ∧ k.half = true ∧ k.lanes = 9 := by decide +kernel

/-- A packet to the device at the other end of link 5, of a flow of that link. -/
def lpkt : LinkPkt :=
  { opc := 0, vc := 0, status := 0, len := 1, srcDev := 3, dstDev := BitVec.ofNat 12 ((((sLink {}).cabledTo 5).map (·.1)).getD 0), dstKind := 0, lcore := 0, rtxn := 0, addr := 0, group := 0, contrib := 0, fmt := false, data := [] }

/-- The header of block i, with its check. -/
def bhead (i : BitVec 10) : BlockHead :=
  let h : BlockHead := { seq := i, ack := 8, cvc := 5, credits := 511, hcrc := 0 }
  { h with hcrc := crc8Over 0 ((headBits h).setWidth 128) 32 }

/-- An epoch with nothing in it, under the tag of key 1. -/
def epoch : Epoch :=
  let e : Epoch := { heads := (List.range 8).map fun i => bhead (BitVec.ofNat 10 i), fecOk := true, fecCorrected := 0, tag := 0, epoch := 0, tstamp := 0, arrival := 0, keyPhase := false, rekeyReady := false, retrainReq := false, pkts := [] }
  { e with tag := Config.gcmTag (Config.linkKey 1 false) (Config.linkSalt 1 false ++ e.epoch) (epochPlain e) (epochAad e) }

theorem witness_LinksCarryAndFail_tag :
    ({ st := .up, rxKey := some 1 } : Link).tagOk epoch = true ∧ ({ st := .up, rxKey := none } : Link).tagOk epoch = false ∧
    ({ st := .up, rxKey := some 1, rxEpoch := some 0 } : Link).tagOk epoch = false := by
  refine ⟨?_, rfl, ?_⟩
  · simp only [Link.tagOk, Bool.and_eq_true]; exact ⟨decide_eq_true rfl, rfl⟩
  · simp only [Link.tagOk, Bool.and_eq_false_iff]; exact .inr rfl

theorem witness_LinksCarryAndFail :
    ((sLink { st := .down }).link 5).st ≠ .up ∧ epoch.heads.head?.map (·.seq) = some ((sLink { st := .up }).link 5).rxSeq ∧
    epoch.heads.head?.map (·.seq) ≠ some ((sLink { st := .up, rxSeq := 8 }).link 5).rxSeq ∧
    epochHeads epoch = true ∧ epochHeads { epoch with heads := epoch.heads.drop 1 } = false ∧
    epoch.heads.getLast? = some (bhead 7) ∧ ((sLink { st := .up }).link 5).worn 0 = false ∧
    ((sLink { st := .up, firstAfter := true }).link 5).txQ = [] ∧ ((sLink { st := .up }).link 5).kept = [] ∧
    ((sLink { st := .up }).link 5).latched ≠ some true ∧ (sLink { st := .up, moved := true }).flowsDone 5 = true ∧
    ((sLink { st := .up, moved := true }).setLink 6 { st := .up, txQ := [lpkt] }).flowsDone 5 = false ∧
    windowOver 0 2000 ((sLink { st := .up }).at 2000).tb = true ∧ windowOver 0 2000 ((sLink { st := .up }).at 1999).tb = false ∧
    8 ≤ ((sLink { st := .up, stuck := 8 }).link 5).stuck ∧
    (([1, 2, 3].filter fun x : Word64 => !windowOver x 1000000000 5) ++ [5]).length = 4 ∧
    2 ≤ popCount ((sLink { st := .retrain, lanes := 3 }).link 5).lanes ∧
    ((sLink { st := .up, moved := true }).link 5).moved = true ∧
    ((sLink { st := .retrain }).link 5).latched ≠ some false ∧ ((sLink { st := .retrain }).link 5).badLanes = [] ∧
    (0, true) ∉ ((sLink { st := .training }).link 5).badLanes := by
  decide +kernel

theorem test_epoch_bad_header_withheld :
    let k := (after (.epochReceive 5 { epoch with heads := (bhead 0) :: (epoch.heads.drop 1).map fun h => { h with hcrc := h.hcrc + 1 } }) (sLink { st := .up })).link 5
    k.rxSeq = 0 ∧ k.epochFails = 1 ∧ k.st = .up := by decide +kernel

/-! ### Core power states and admission -/

/-- Site 3 in a power state, asked to run or not. -/
def sPwr (p : PwrState) (w : Bool) : State :=
  { (sWith { pwr := p, waking := w, bound := some 0, quiet := 256 }).setDom 3 { st := .on } with tb := 10000000 }

/-- Domain d with IBC 0 in service. -/
def sDom (d : DomainNo) (v : Domain) (c : Site) : State :=
  ({ sWith c with pwr := { ibcOk := 1 } }).setDom d v

/-- A napping core whose next bundle is WAIT_UNTIL S1 (Table 5.5: CTRL, opcode 8), at time base t. -/
def sNapUntil (t : Word64) : State :=
  { sWith { pwr := .nap, seq := .running, ps := [(1, 0x1201000000000000)], sregs := [(1, 5)] } with tb := t }

theorem test_target_of_wait_until :
    (sNapUntil 5).targetCame 3 = true ∧ ((sNapUntil 5).site 3).waking = false ∧ (sNapUntil 5).seqWaits 3 = false ∧
    (sNapUntil 4).targetCame 3 = false ∧ (sNapUntil 4).seqWaits 3 = true ∧
    ((after (.napWake 3) (sNapUntil 5)).site 3).pwr = .run := by
  decide +kernel

theorem witness_CorePowerStates :
    (sPwr .run false).quiescent 3 = true ∧ 256 ≤ ((sPwr .run false).site 3).quiet ∧ (sWith { pwr := .run, sill := [(0, { st := .opened })] }).quiescent 3 = false ∧
    ((sPwr .nap true).site 3).waking = true ∧ ((sPwr .nap true).site 3).pwrPending ≠ some .off ∧
    ((sPwr .nap false).site 3).bound.isSome = true ∧ (sPwr .nap false).launchFree ((sPwr .nap false).site 3).hamlet = true ∧
    ({ sPwr .nap false with tb := 9999999 } : State).launchFree ((sPwr .nap false).site 3).hamlet = false ∧
    ((sPwr .retain true).site 3).pwr = .retain ∧ (6 : BitVec 4) ≤ 6 ∧ ((sPwr .run false).site 3).bad = false ∧
    ((sDom 3 { st := .wait } { pwr := .inTransition }).site 3).bound = none ∧
    ((sDom 3 {} { pwr := .retain }).dom (domOfSite 3)).st ≠ .failed ∧
    (sDom 3 {} {}).usable 3 = true ∧ (sDom 3 {} {}).pwr.ibcOk.getLsbD (fieldOfSite 3).val = true ∧
    ((sDom 3 {} {}).dom 3).st = .off ∧ ((sDom 3 {} {}).site 3).pwr = .off ∧ (sWith { bad := true }).usable 3 = false := by
  decide +kernel

theorem test_napping_core_wakes : ((after (.napWake 3) (sPwr .nap true)).site 3).pwr = .run := by decide

theorem witness_Admission :
    let s := (sDom 3 { st := .wait, since := 7 } { pwr := .inTransition }).setDom 4 { st := .on }
    (s.dom 3).st = .wait ∧ s.admitTurn 3 = true ∧ inWindow 7 2000000 (s.at 7).tb = true ∧
    inWindow 7 2000000 (s.at 2000006).tb = true ∧ windowOver 7 2000000 (s.at 2000007).tb = true ∧
    (s.setDom 2 { st := .wait }).admitTurn 3 = false ∧ fieldOfDom 4 = fieldOfDom 3 ∧
    ((sDom 3 { st := .ramp } {}).site 3).chosen = none ∧
    ((sDom 3 { st := .ramp } { chosen := some (5, 4) }).site 3).chosen = some (5, 4) ∧
    ((sDom 3 { st := .ramp } { pwrPending := some .off }).site 3).pwrPending = some .off ∧
    sOn.fuses.siteGood.getLsbD 3 = true ∧ (sDom 3 { st := .ramp } {}).exchangeReady 3 = true ∧
    (sDom 3 { st := .ramp } { chosen := some (5, 4) }).exchangeReady 3 = true ∧ (s.at 7).forecastSoon 3 = false ∧
    10 ≤ tget (fun _ => 0) ({ s with pwr := { s.pwr with ibcLow := [(0, 10)] } } : State).pwr.ibcLow (fieldOfDom 3).val := by
  decide +kernel

/-! ### Bells, reducers, power groups -/

/-- The device with bell 5 as b. -/
def sBell (b : Bell) : State := sOn.setBell 5 b

theorem witness_BellOperations :
    (sBell { count := 0xFFFFFFFE }).bellStatus 5 .device = 0 ∧ (({ count := 0xFFFFFFFE } : Bell).add 1).fires = false ∧
    2 ^ 32 ≤ ({ count := 0xFFFFFFFE } : Bell).count.toNat + (2 : Word32).toNat ∧
    (({ armed := true, target := 3, count := 2 } : Bell).add 1).fires = true ∧
    (({ armed := true, target := 3, count := 1 } : Bell).add 1).fires = false ∧ sOn.tb < (1 : Word64) ∧
    ((sBell { target := 1 }).bell 5).count < ((sBell { target := 1 }).bell 5).target ∧
    (sBell { owner := some 2 }).bellStatus 5 .device = 1 ∧
    ((sBell { refire := true, armed := true, rearm := true, target := 3, count := 3 }).bell 5).fires = true ∧
    (sBell {}).isDark (fieldOfBell 5) = false ∧ ((sBell { due := [9], actFwd := true }).bell 5).due = [9] ∧
    (9 : Word64) ≤ ((sBell {}).at 9).tb ∧ ((sBell {}).at 8).tb < 9 ∧
    (sRun.takesToken 3 0 (tagOf false 0) = true) ∧ sRun.takesToken 3 1 (tagOf false 0) = false ∧
    sRun.takesToken 3 0 (tagOf true 0) = false := by
  decide +kernel

/-- Bell 5 forwards to bell 6 of this device; an ADD of endpoint 9 to it is on its way behind another. -/
def sFwd : State := sBell { actFwd := true, fwd := 6 }

def svcPkt (t : BitVec 10) : Packet :=
  { pk 7 (svcRtr 0) with txn := t, data := bellOpBytes { op := 0, dev := none, bell := 5, amount := 1, instant := 0, tag := none } 0 }

def sBehind : State := { sFwd with fab := { flying := [svcPkt 5, svcPkt 6] } }

/-- Core 3's ADD to bell 5 awaits its answer under TXN 5. -/
def sAsk : State :=
  { sRun.modSite 3 fun c => { c with bellsOut := 1 } with fab := { txns := [{ rtr := rtrOfSite 3, txn := 5, pkt := { pk 7 (svcRtr 0) with addr := 5 }, since := 0, tries := 1, use := .bell (.core 3) none }] } }

theorem witness_BellOperations_ways :
    sFwd.bellWaits 5 .device = false ∧ sBehind.bellWaits 5 (.packet (9, false) 5 false 0) = false ∧
    sBehind.bellWaits 5 (.packet (9, false) 6 false 0) = true ∧ sFwd.bellStatus 5 (.packet (9, false) 5 false 0) = 0 ∧
    sFwd.bellWay ((sFwd.bell 5).forward 0) = some (svcRtr 0, false) ∧ sFwd.reach (svcRtr 0) (svcRtr 0) = true ∧
    sFwd.fieldStopped (fieldOfBell 5) = false ∧ sFwd.txnOf 9 5 = none ∧ sAsk.fieldStopped (fieldOfRtr (rtrOfSite 3)) = false ∧
    (sAsk.bellDataFlying (rtrOfSite 3, false) 5).any sAsk.overtakes = false ∧
    (sAsk.txnOf (rtrOfSite 3) 5).map (·.use) = some (.bell (.core 3) none) ∧ (sAsk.site 3).bellQ = [] := by
  decide +kernel

theorem test_bell_answer_frees_the_operation :
    ((after (.bellData (rtrOfSite 3, false) 5 5 0 none) sAsk).site 3).bellsOut = 0 := by decide +kernel

theorem witness_BellOperations_late :
    let s := sOn.at 100
    s.bellStatus 5 .device = 0 ∧ (99 : Word64) ≠ 0 ∧ (99 : Word64) < s.tb := by decide +kernel

/-- Tree context 2 with children on links 5 and 6. -/
def tree2 : TreeCtx := { valid := true, children := 0x60, nchild := 2, length := 8, doneEn := true, doneBell := 7 }

def sTree (l : List RSlot) : State := { sOn with coll := { trees := [(2, tree2)], slots := l } }

/-- A slot of context 2 at address 0. -/
def rs2 : RSlot := { tc := 2, addr := 0, since := 0, held := [(.child 5, .fp32 [1])], sent := true, sum := some (.fp32 [1]), failed := none }

/-- A LAUNCH descriptor of job 7 in ring 4, started. -/
def dLaunch : Desc :=
  { id := 9, ring := 4, words := [2, 0, 1, 0, 0, 0, 0, 7], fetched := 0, started := true, ready := none, left := [0], rollbacks := 0, slipMax := 0, image := [] }

/-- Site 3 at the tally barrier of job 7. -/
def sTal (l : List LCoreNo) (tk : Option Word32) : State :=
  { sRun.modSite 3 fun c => { c with seq := .tally } with
    host := { ready := true, descs := [dLaunch] }, coll := { tallies := [(0, { taking := tk, entered := true, copied := l })] } }

theorem witness_ReducersTalliesAndSystemReset :
    ((sTree []).tree 2).takes (.child 5) = true ∧ ((sTree []).link 5).owner = ((sTree []).tree 2).owner ∧
    (sTree []).rslot 2 0 = none ∧ (sTree []).redUsed 0 + redUnits (.fp32 [1]) ((sTree []).tree 2).expected ≤ 2048 ∧
    ((sTree []).tree 2).expected ≠ 1 ∧ (sTree []).homeWay ((sTree []).tree 2) 5 = true ∧ ((sTree []).tree 3).valid = false ∧ (sTree [rs2]).rslot 2 0 = some rs2 ∧
    ((sTree [rs2]).tree 2).mode ≠ 1 ∧
    0 + (redBytes (.fp32 [1])).length < 8 ∧ 8 ≤ 0 + (redBytes (.fp32 [1, 2])).length ∧
    windowOver rs2.since 1000000 ((sTree [rs2]).at 1000000).tb = true ∧
    windowOver rs2.since 1000000 ((sTree [rs2]).at 999999).tb = false ∧
    scopes.find? (fun o => (sTal [] none).atTally o 7 && ((sTal [] none).tallyOf o).taking.isNone) = some none ∧
    ((sTal [] (some 1)).tallyOf ((sTal [] (some 1)).site 3).hamlet).taking = some 1 ∧
    ((sTal [] (some 1)).site 3).bound = some 0 ∧ (0 : LCoreNo) ∉ ((sTal [] (some 1)).tallyOf none).copied ∧
    scopes.find? (fun o => (sTal [0] (some 1)).allCopied o 7 && ((sTal [0] (some 1)).tallyOf o).taking.isSome) = some none ∧
    (sTal [0] (some 1)).dueAtTally none 7 = [] ∧ (sOn.link 5).owner = none ∧
    (sOn.setLink 5 { owner := some 1 } |>.link 5).owner.isSome = true ∧
    (let s := sTal [] (some 1)
     (s.site 3).bellsOut < 64 ∧ (s.site 3).bellQ = [] ∧
     s.bellWay ((s.site 3).arrive 3) = some (svcRtr 0, false) ∧ s.reach (rtrOfSite 3) (svcRtr 0) = true) ∧
    (sTree [rs2]).bellWay { op := 0, dev := none, bell := 7, amount := 1, instant := 0, tag := none } = some (svcRtr 0, false) ∧
    (sTree [rs2]).reach ((sTree [rs2]).linkPort 0).1 (svcRtr 0) = true := by
  decide +kernel

theorem witness_ReducersTalliesAndSystemReset_instant :
    let s := { sOn with coll := { resetT0 := some 9, resetAccept := true } }
    s.resetAnswered = true ∧ s.host.resetting = false ∧ s.board.rails = true ∧ (s.at 8).tb < 9 ∧ (9 : Word64) ≤ (s.at 9).tb := by
  decide

/-- A group of devices 0 and 3. -/
def sGroup (en lead : Bool) (w : BitVec 20) : State :=
  { sOn with pwr := { groupEn := en, leader := lead, totalW := w, members := [(0, (true, 0)), (1, (true, 3))], budget := 3000, takes := [(0, 1), (3, 1)], gives := [(3, 1, 1), (0, 2, 1)] } }

theorem witness_PowerGroupBudgets :
    let m : BudgetMsg := { window := 1, watts := 3001, slack := 200, dev := 3 }
    2 ≤ (sGroup false false 6000).memberDevs.length ∧ (sGroup false false 6000).id.dev ∈ (sGroup false false 6000).memberDevs ∧
    3000 * (sGroup false false 6000).memberDevs.length ≤ (sGroup false false 6000).pwr.totalW.toNat ∧
    (sGroup false false 5999).pwr.totalW.toNat < 3000 * (sGroup false false 5999).memberDevs.length ∧
    m.dev ∈ (sGroup true true 6000).memberDevs ∧ 200 ≤ m.slack ∧ 3000 < m.watts ∧
    (sGroup true true 6000).member m.dev = none ∧ (sGroup true true 6000).missing 0 3 = false ∧
    (sGroup true false 6000).pwr.lastGive = none ∧
    (sGroup true false 6000).pwr.lastTake ≠ some m.window ∧ (sGroup true false 6000).pwr.budget ≤ (sGroup true false 6000).pwr.limitW ∧
    (m.dev, m.window) ∈ (sGroup true true 6000).pwr.takes ∧ (∃ x ∈ (sGroup true true 6000).pwr.takes, x.2 = m.window ∧ x.1 ≠ m.dev) ∧
    (sGroup true true 6000).pwr.gives = [] ++ (m.dev, 1, 1) :: [(0, 2, 1)] ∧
    (∃ d ∈ (sGroup true false 6000).memberDevs, (sGroup true false 6000).pwr.leaderDev < d) ∧
    (sGroup true false 6000).pwr.heard.toNat + 10 ≤ (10 : Word32).toNat ∧
    (9 : Word32).toNat < (sGroup true false 6000).pwr.heard.toNat + 10 := by
  decide

/-! ### Rings, descriptors and their classes -/

/-- Ring 4 as g, with descriptors ds. -/
def sRing (g : Ring) (ds : List Desc) : State :=
  { sRun with host := { ready := true, portUp := 3, rings := [(4, g)], descs := ds, nextDesc := 10 } }

/-- A ring of 16 entries each, its own completion queue. -/
def g16 : Ring := { enable := true, active := true, version := 1, cq := 4, sqLog2 := 4, cqLog2 := 4, sqTail := 1, phase := true }

/-- Descriptor 8 of ring 4 with these words. -/
def de (ws : List Word32) : Desc :=
  { id := 8, ring := 4, words := ws, fetched := 0, started := false, ready := none, left := [], rollbacks := 0, slipMax := 0, image := [] }

/-- A completion. -/
def co (st : BitVec 7) : Compl := { status := st, detail := 0, result := 0, time := 0 }

/-- RING_CFG of a ring of 2^4 entries whose completion queue is its own, version 1. -/
def cfg4 : Word32 := 1 <<< 22 ||| 4 <<< 10 ||| 4 <<< 5 ||| 4

theorem witness_RingsAndDescriptors :
    (15 : Word32).toNat < g16.sqSize ∧ g16.sqSize ≤ (16 : Word32).toNat ∧ ((sRing {} []).ring 4).enable = false ∧
    (0 + g16.cqSize - g16.cqHead.toNat) % g16.cqSize ≤ (g16.cqTail.toNat + g16.cqSize - g16.cqHead.toNat) % g16.cqSize ∧
    cfg4.extractLsb' 22 4 = 1 ∧ (cfg4.extractLsb' 5 5).toNat = 4 ∧ (cfg4.extractLsb' 0 5).toNat = 4 ∧
    (cfg4.extractLsb' 10 8).toNat = (4 : RingNo).val ∧ ((sRing {} []).ring 4).active = false ∧
    (sRing g16 []).cqInUse 4 = false ∧
    ({ sRing g16 [] with host := { ready := true, rings := [(4, g16), (5, g16)] } } : State).cqInUse 4 = true ∧
    ((sRing { g16 with enable := false } []).ring 4).outstanding = 0 ∧ g16.sqHead ≠ g16.sqTail ∧
    (∀ q, (sRing g16 []).fetchable q = true → (sRing g16 []).ringTurn 4 ≤ (sRing g16 []).ringTurn q) ∧
    ((sRing g16 []).ring ((sRing g16 []).ring 4).cq).cqFree ≠ 0 ∧ (sRing g16 []).host.descs.length < 4096 ∧
    (de [5]).headOk = true ∧ (de [14]).headOk = false ∧
    (sRing g16 [{ de [5] with ready := some (co 0) }]).desc 8 = some { de [5] with ready := some (co 0) } ∧
    (sRing g16 []).answersLast { de [5] with ready := some (co 0) } (co 0) = false ∧ (de [5]).irq = false ∧
    g16.cqTail.toNat + 1 < g16.cqSize ∧ g16.cqSize ≤ ({ g16 with cqTail := 15 } : Ring).cqTail.toNat + 1 := by
  decide +kernel

theorem test_fetch_reserves_a_completion_slot :
    ((after (.descriptorFetch 4 [5] true 0) (sRing g16 [])).ring 4).reserved = 1 := by decide  +kernel

/-! ### Descriptor classes -/

/-- The 32 words of a descriptor that are not zero. -/
def wsOf (l : List (Nat × Word32)) : List Word32 :=
  (List.range 32).map fun i => match l.find? (fun p => decide (p.1 = i)) with | some p => p.2 | none => 0

/-- Site 3 is logical core 0, page 0 is valid in field 1; ring 4 holds descriptors. -/
def sCls (ds : List Desc) : State :=
  { sRun with coreMap := [(0, some 3)], host := { ready := true, rings := [(4, g16)], descs := ds, nextDesc := 10 }, mem := { mapBound := true, lit := 255, pages := [(0, { valid := true, field := 1 })] } }

def sDe (l : List (Nat × Word32)) : State := sCls [de (wsOf l)]
def dw (l : List (Nat × Word32)) : Desc := de (wsOf l)

/-- A LOAD_WEIGHTS of 64 bytes from page 0 into a new mirror range of one page. -/
def lwW : List (Nat × Word32) := [(0, 1), (2, 0x200), (3, 64), (10, 0x40000)]

theorem witness_ClassesThatMoveData_loadWeights :
    classStarts (sDe lwW) 8 (dw lwW) 1 ∧ (dw lwW).lwValid = true ∧ (dw lwW).lwSrc = 2 ∧ (sDe lwW).coreHeld 0 = false ∧
    (dw lwW).lwCore = 0 ∧ (sDe lwW).coreOwner 0 = (sDe lwW).scopeOf (dw lwW) ∧ (sDe lwW).siteOf 0 = some 3 ∧
    (sDe lwW).launchOn 0 = false ∧ (sDe lwW).foreignPages none (pagesOf 0 64) = false ∧
    (sDe lwW).pageHeld 0 = false ∧ (sDe lwW).lwMirrorOk (dw lwW) 3 = true ∧ (sDe lwW).stageOk (dw lwW) = true ∧
    (sDe lwW).lwSource (dw lwW) [] {} = 0 := by
  unfold classStarts; decide +kernel

/-- A LAUNCH of one bundle on core 0, watchdog 1 s; no deadline. -/
def laW : List (Nat × Word32) := [(0, 2), (2, 1), (6, 1), (12, 20)]

theorem witness_ClassesThatMoveData_launch :
    classStarts (sDe laW) 8 (dw laW) 2 ∧ (dw laW).launchValid = true ∧ (dw laW).cores = [0] ∧
    (dw laW).imageInDdr = false ∧ (dw laW).tallyBells = [] ∧ (sDe laW).sitesOf 1 = [3] ∧
    ((sDe laW).site 3).launchable = true ∧ (sDe laW).launchSource (dw laW) (List.replicate 8 0) = 0 ∧
    (sDe laW).launchSource (dw laW) (List.replicate 7 0) ≠ 0 := by
  unfold classStarts; decide +kernel

/-- A COPY of 64 bytes from core 0's workspace to page 0. -/
def cpW : List (Nat × Word32) := [(0, 3), (2, 0x34), (4, 64)]

theorem witness_ClassesThatMoveData_copy :
    classStarts (sDe cpW) 8 (dw cpW) 3 ∧ (dw cpW).cpValid = true ∧ (dw cpW).cpKind false = 4 ∧ (dw cpW).cpKind true = 3 ∧
    (dw cpW).cpLen = 64 ∧ (sDe cpW).siteOf ((dw cpW).cpCore false) = some 3 ∧ (dw cpW).cpPages = [0] ∧
    (sDe cpW).cpCode (dw cpW) false 0 64 0 = 0 ∧ (sDe cpW).cpCode (dw cpW) true 0 64 0 = 0 := by
  unfold classStarts; decide +kernel

/-- A tally of no core, complete in half A. -/
def sTb (l : List (Nat × Word32)) : State :=
  { sDe l with coll := { tallies := [(0, { a := { complete := true, num := 1 } })] } }

/-- The pages of unassigned cores hold half B too. -/
def sTb2 (l : List (Nat × Word32)) : State :=
  { sTb l with mem := { lit := 255, pages := [(0, { valid := true, kind := 3 }), (1, { valid := true, kind := 4 })] } }

theorem witness_ClassesThatMoveData_tallies :
    classStarts (sDe [(0, 4)]) 8 (dw [(0, 4)]) 4 ∧ (dw [(0, 4)]).tallyValid = true ∧ (sDe [(0, 4)]).lastTally none = none ∧
    ((sTb [(0, 4)]).lastTally none).isSome = true ∧ (dw [(0, 4), (2, 1)]).tallyOp = 1 ∧
    (dw [(0, 4), (2, 1)]).tallyValid = true ∧ (dw [(0, 4), (2, 2), (6, 64)]).tallyOp = 2 ∧
    (sTb2 [(0, 4), (2, 2), (6, 64)]).launchesFor (dw [(0, 4), (2, 2), (6, 64)]) = [] ∧
    (sTb2 []).hostRefusal none = 0 ∧ (sTb2 []).otherBuf none = true ∧ 64 ≤ (sTb2 []).bufBytes none 4 ∧
    (sTb2 []).bufWhole none 4 = true := by
  unfold classStarts; decide +kernel

theorem witness_ClassesThatMoveData_fenceRolePages :
    classStarts (sDe [(0, 5)]) 8 (dw [(0, 5)]) 5 ∧ (dw [(0, 5)]).words.drop 2 = List.replicate 30 0 ∧
    (∃ e ∈ [de [5], { de [7] with id := 7, started := true }], e.ring = 4 ∧ e.id < 8) ∧
    (dw [(0, 8), (2, 3)]).fits [(2, 0x3)] = true ∧ (dw [(0, 8), (2, 4)]).fits [(2, 0x3)] = false ∧
    (sDe [(0, 8), (2, 3)]).idleFor (dw [(0, 8), (2, 3)]) = true ∧
    (dw [(0, 0xC), (3, 1), (4, 0x18)]).fits [(2, 0x3FFFF), (3, 0x3FFFF), (4, 0x1F)] = true ∧
    (dw [(0, 0xC), (3, 1), (4, 0x18)]).psPages = [0] ∧
    (sDe []).psInvalid (dw [(0, 0xC), (3, 1), (4, 0x18)]) none = false ∧ tallyKind (dw [(0, 0xC), (3, 1), (4, 0x18)]).psKind = false ∧
    (sDe []).psTally (dw [(0, 0xC), (3, 1), (4, 0x18)]) = [] := by
  unfold classStarts; decide +kernel

/-- BELL_OP sub-operation k on bell 5, one added. -/
def beW (k : Word32) : List (Nat × Word32) := [(0, 6), (2, k ||| 0x500), (4, 1)]

theorem witness_ClassesThatOperateAndReport_bells :
    classStarts (sDe (beW 0)) 8 (dw (beW 0)) 6 ∧ (dw (beW 0)).bellValid = true ∧ (dw (beW 0)).remote = false ∧
    (dw (beW 0)).index = 5 ∧ (sDe (beW 0)).bellStatus 5 (.ring 4) = 0 ∧
    (((sDe (beW 0)).bell 5).add 1).fires = false ∧ (((sDe (beW 1)).bell 5).set (dw (beW 1)).image8).fires = false ∧
    ((sDe []).setBell 5 { target := 1 } |>.bell 5).count < (1 : Word32) ∧ (dw (beW 4)).sub = 4 ∧ (sDe []).host.lost = false ∧
    ((sDe (beW 0)).setBell 5 { owner := some 1 }).bellStatus 5 (.ring 4) = 1 ∧ (sDe (beW 0)).bellHeld 5 = false ∧
    (dw (beW 7)).bellValid = false ∧ (dw [(0, 6), (2, 0x200010)]).installValid = false := by
  unfold classStarts; decide +kernel

/-- TREE_INSTALL of context 2, the root, child link 5; field 0 lit. -/
def trW : List (Nat × Word32) := [(0, 6), (2, 0x210), (8, 0x1840000), (10, 0x20)]

/-- Its device, link 5 cabled and UP. -/
def sTr : State := { (sDe trW).setLink 5 { st := .up } with id := { valid := true, dev := 3 } }

theorem witness_ClassesThatOperateAndReport_trees :
    classStarts sTr 8 (dw trW) 6 ∧ (dw trW).installValid = true ∧ ((dw trW).context none).links = [5] ∧
    sTr.linkHeld 5 = false ∧ (sTr.link 5).owner = none ∧ (sTr.tree 2).foreign none = false ∧
    ((dw trW).context none).doneEn = false ∧ sTr.installOk ((dw trW).context none) = true ∧
    (dw [(0, 6), (2, 0x3F11)]).index.val = 63 ∧ (dw [(0, 6), (2, 0x3F11)]).bellValid = true ∧
    (dw [(0, 6), (2, 0x3E12)]).index.val = 62 ∧ (dw [(0, 6), (2, 0x3E12)]).sub = 0x12 ∧
    (msetOf (List.replicate 32 0) none).isSome = true ∧ (List.replicate 32 (0 : Word32)).length = 32 ∧
    (dw [(0, 6), (2, 0x20)]).bellValid = true ∧ (dw [(0, 6), (2, 0x20)]).sub = 0x20 := by
  unfold classStarts; decide +kernel

theorem witness_ClassesThatOperateAndReport_queries :
    classStarts (sDe [(0, 7), (6, 65536)]) 8 (dw [(0, 7), (6, 65536)]) 7 ∧ (dw [(0, 7), (6, 65536)]).queryValid = true ∧
    (sDe []).deviceReport.length ≤ 65536 ∧ (sDe []).linksReport.length ≤ 65536 ∧ ((sDe []).hamletReport 2).length ≤ 65536 ∧
    (dw [(0, 7), (2, 1), (6, 64)]).qLen = 64 ∧ (dw [(0, 7), (2, 4), (6, 328)]).qLen = 328 ∧
    (sCls [] |>.setRing 4 { g16 with owner := some 2 }).scopeOf (dw [(0, 7), (2, 0x202)]) = some 2 ∧
    (wordAt (wsOf [(2, 0x202)]) 2).extractLsb' 8 3 = 2 ∧
    (dw [(0, 0xD), (2, 7)]).fits (wholeWords [2]) = true ∧ (sDe [(0, 0xD), (2, 7)]).launchesFor (dw [(0, 0xD), (2, 7)]) = [] := by
  unfold classStarts; decide +kernel

/-- A remote ADD to bell 5 of device 9 over link 5. -/
def reW : List (Nat × Word32) := [(0, 6), (2, 0x200500), (3, 9), (4, 1)]

def sRe : State := { (sDe reW).setLink 5 { st := .up, credits := [(0, 4)] } with id := { valid := true, dev := 3 } }

/-- ABORT of job 7, whose LAUNCH is descriptor 7. -/
def sAb : State := sCls [{ dLaunch with id := 7 }, de (wsOf [(0, 0xD), (2, 7)])]

theorem witness_ClassesThatOperateAndReport_remote :
    classStarts sRe 8 (dw reW) 6 ∧ (dw reW).bellValid = true ∧ (dw reW).remote = true ∧ (dw reW).sub = 0 ∧
    sRe.bellWay { op := 0, dev := some 9, bell := 5, amount := 1, instant := 0, tag := none } = some (sRe.linkPort (fieldOfLink 5)) ∧
    sRe.reach (portRtr (sRe.ring 4).via) (sRe.linkPort (fieldOfLink 5)).1 = true ∧
    (sDe (beW 0)).fieldStopped (fieldOfBell 5) = false ∧
    classStarts sAb 8 (dw [(0, 0xD), (2, 7)]) 0xD ∧ (sAb.launchesFor (dw [(0, 0xD), (2, 7)])).map (·.id) = [7] ∧
    (sAb.host.descs.map (·.id)).Nodup ∧ windowOver dLaunch.fetched dLaunch.deadline sAb.tb = false ∧ dLaunch.job = 7 := by
  unfold classStarts; decide +kernel

theorem witness_ClassesThatOperateAndReport_deadline :
    windowOver (dw [(0, 1)]).fetched (dw [(0, 1)]).deadline ((sDe []).at 2000000000).tb = true ∧
    windowOver (dw [(0, 1)]).fetched (dw [(0, 1)]).deadline ((sDe []).at 1999999999).tb = false ∧ (dw [(0, 1)]).ready = none := by
  decide +kernel

/-! ### Hamlets -/

/-- HAMLET_CREATE of hamlet 2 with core 0 and bell 5; HAMLET_DESTROY of hamlet 2. -/
def hcW : List (Nat × Word32) := [(0, 9), (2, 2), (3, 1), (15, 5), (16, 1)]
def hdW : List (Nat × Word32) := [(0, 0xA), (2, 2)]

/-- Hamlet 2 in a state, with core 0 and bell 5. -/
def sHam (st : HamletState) (o : Option Nat) (l : List (Nat × Word32)) : State :=
  { (sDe l).setHamlet 2 { st := st, cores := 1, bellFirst := 5, bellCount := 1, desc := o } with
    sec := { ((sDe l).setHamlet 2 { st := st, cores := 1, bellFirst := 5, bellCount := 1, desc := o }).sec with entropyOk := true } }

theorem witness_HamletsChange :
    classStarts (sDe hcW) 8 (dw hcW) 9 ∧ (sDe hcW).scopeOf (dw hcW) = none ∧ (dw hcW).createFits = true ∧ (dw hcW).hm = 2 ∧
    ((sDe hcW).hamlet 2).st = .none_ ∧ (sDe hcW).createStatus (dw hcW).hmOf 4 ≠ 0 ∧
    (sHam .none_ none hcW).createStatus (dw hcW).hmOf 4 = 0 ∧
    ((sHam .creating (some 8) hcW).hamlet 2).desc = some 8 ∧ (sHam .creating (some 8) hcW).desc 8 = some (dw hcW) ∧
    windowOver (dw hcW).fetched (dw hcW).deadline (sHam .creating (some 8) hcW).tb = false ∧
    (sHam .creating (some 8) hcW).sitesOf ((sHam .creating (some 8) hcW).hamlet 2).cores = [3] ∧
    (4 : SiteNo) ∉ (sHam .creating (some 8) hcW).sitesOf 1 := by
  unfold classStarts; decide +kernel

theorem witness_HamletsChange_end :
    classStarts (sHam .live none hdW) 8 (dw hdW) 0xA ∧ (dw hdW).fits [(2, 0x7)] = true ∧
    classStarts (sHam .resetting none [(0, 0xB), (2, 2)]) 8 (dw [(0, 0xB), (2, 2)]) 0xB ∧
    ((sHam .live none hdW).hamlet 2).st = .live ∧ (sHam .live none hdW).sec.entropyOk = true ∧
    ((sHam .resetting none hdW).hamlet 2).latched = none ∧ ((sHam .destroying (some 8) hdW).hamlet 2).desc = some 8 ∧
    ((sHam .destroying (some 8) hdW).hamlet 2).rings.getLsbD 4 = false ∧
    ((sDe hdW).setRing 4 { g16 with owner := some 1 }).scopeOf (dw hdW) = some 1 := by
  unfold classStarts; decide +kernel

/-! ### Host ports, clocks, power -/

/-- A device whose host went quiet: port 0 lost lock at 5, both ports down since 7, RESET armed at 9. -/
def sPort : State :=
  { sOn with host := { ready := true, hbEn := true, portUp := 1, lockLost := [(0, some 5)], downSince := some 7, arm := some 9 } }

theorem witness_HostPortsAndResets :
    windowOver sPort.host.heartbeat 5000000000 (sPort.at 5000000000).tb = true ∧
    windowOver sPort.host.heartbeat 5000000000 (sPort.at 4999999999).tb = false ∧ sPort.portIsUp false = true ∧
    sPort.portIsUp true = false ∧ tget (fun _ => none) sPort.host.lockLost (portBit false) = some 5 ∧
    windowOver 5 50000 (sPort.at 50005).tb = true ∧ windowOver 5 50000 (sPort.at 50004).tb = false ∧
    windowOver 7 5000000000 (sPort.at 5000000007).tb = true ∧ inWindow 9 1000000 (sPort.at 9).tb = true ∧
    inWindow 9 1000000 (sPort.at 1000008).tb = true ∧ windowOver 9 1000000 (sPort.at 1000009).tb = true ∧
    sPort.host.resetting = false ∧ sPort.board.rails = true ∧ sOn.host.arm = none ∧ sPort.isDark (portField true) = false ∧
    ({ sPort with fab := { dark := 8 } } : State).isDark (portField true) = true := by
  decide +kernel

/-- Region r as g. -/
def sReg (r : RegionNo) (g : Region) : State := sOn.modRegion r fun _ => g

theorem witness_ClockStretchesAndMargins :
    ((sReg 3 { st := 1 }).region 3).runs = true ∧ ((sReg 3 { st := 2 }).region 3).runs = false ∧
    ((sWith { droopHold := some 5 }).site 3).droopHold = some 5 ∧ ((sWith { droopHold := some 5 }).site 3).detectors = 0 ∧
    windowOver 5 10000 (sOn.at 10005).tb = true ∧ windowOver 5 10000 (sOn.at 10004).tb = false ∧
    fieldOfSite 3 = ⟨(40 : RegionNo).val - 40, by decide⟩ ∧ ((sReg 3 { st := 3 }).region ⟨(3 : SiteNo).val, by decide⟩).runs = true ∧
    (sOn.site 3).op = 0 ∧ ((sWith { op := 7 }).site 3).op ≠ 0 := by
  decide

theorem test_droop_trip_stretches : ((after (.droopTrip 3 0) (sReg 3 { st := 1 })).region 3).stretches = 1 := by decide

theorem witness_FrequencyChangesAndTimeBase :
    4 * (1100 : BitVec 11).toNat ≤ 5 * ((sReg 40 { mhz := 900 }).region ⟨40 + (fieldOfSite 3).val, by decide⟩).mhz.toNat ∧
    ¬ 4 * (650 : BitVec 11).toNat ≤ 5 * ((sReg 40 { mhz := 500 }).region ⟨40 + (fieldOfSite 3).val, by decide⟩).mhz.toNat ∧
    ((sReg 3 { st := 1, mhz := 900 }).region 3).change = none ∧ ((sReg 3 { st := 1, mhz := 900 }).region 3).mhz ≠ 1100 ∧
    ((sReg 3 { st := 2, inHalf := 1, joined := true, change := some (900, 0) }).region 3).joined = true ∧
    sOn.fieldStopped 0 = false ∧ (sReg 40 { st := 2 }).fieldStopped 0 = true ∧
    ((List.range 120).all fun x => decide (((sReg 3 { st := 2, calDone := true }).crossing x).mode ≠ 2)) = true ∧
    (({ sReg 3 { st := 2 } with clk := { (sReg 3 { st := 2 }).clk with crossings := [(3, { mode := 2 })] } } : State).crossing 3).mode = 2 ∧
    ((sReg 3 { st := 1, change := some (900, 0) }).region 3).runs = true ∧
    ((sReg 3 { st := 2, change := some (900, 0) }).region 3).calDone = false ∧
    ((sReg 3 { st := 2, calDone := true }).region 3).latched = none ∧ (6 : BitVec 4).toNat ≤ crossingLimit 39 ∧
    (8 : BitVec 4).toNat ≤ crossingLimit 79 ∧ sOn.isDark ⟨(47 : RegionNo).val - 40, by decide⟩ = false ∧
    windowOver 0 1000000 (sOn.at 1000000).tb = true ∧ windowOver 0 1000000 (sOn.at 999999).tb = false := by
  decide

theorem witness_FrequencyChangesAndTimeBase_crossings :
    crossingIn 3 3 = true ∧ crossingIn 3 43 = true ∧ crossingIn 3 4 = false ∧ crossingIn 40 80 = true ∧
    (({ sReg 3 { st := 1 } with clk := { (sReg 3 { st := 1 }).clk with crossings := [(3, { mode := 1, fwd := 4, rev := 4 })] } } : State).crossing 3).mode = 1 ∧
    (10 : BitVec 4) ≤ 10 ∧ (80 : Fin 120).val ≥ 80 := by
  decide +kernel

/-- A device whose parent is on link 5. -/
def sPar (m : Bool) : State :=
  { (sOn.setLink 5 { st := .up, cableNs := 3 }) with clk := { parentEn := true, parentLink := 5, master := m, locked := true } }

theorem witness_FrequencyChangesAndTimeBase_update :
    (sPar false).clk.parentEn = true ∧ (sPar false).parentUp = true ∧ (sPar true).clk.conflict = false ∧
    ((100 : Word64) - 93 - (((sPar false).link ⟨(sPar false).clk.parentLink.toNat % 96, by decide⟩).cableNs.setWidth 64)).toInt = 4 ∧
    (sPar false).clk.locked = true ∧ (sPar false).clk.everReady = false := by
  decide

/-- Site 3 at OP 4, its domain on, hot. -/
def sOp (o : BitVec 3) (v : Domain) (h : Option (BitVec 3)) : State :=
  (sWith { op := o, hint := h }).setDom 3 { v with st := .on }

theorem witness_OperatingPointsCapsForecasts :
    (((sOp 4 {} none).dom 3).cooling true false 0).hot = true ∧ (((sOp 4 {} none).dom 3).cooling false false 0).hot = false ∧
    ((sOp 4 {} (some 5)).site 3).op < (sOp 4 {} (some 5)).preferOp 3 ∧ (sOp 4 {} (some 5)).noRaise 3 = false ∧
    ((sOp 4 {} none).region 3).st ≠ 3 ∧ (sOp 4 {} (some 3)).preferOp 3 < ((sOp 4 {} (some 3)).site 3).op ∧ (sOp 4 {} (some 4)).preferOp 3 = 4 ∧
    ((29 : BitVec 6).toNat < 30 ∧ (870 : BitVec 10).toNat + (29 : BitVec 6).toNat < 900) ∧ sOn.budgetB = 10500 ∧
    100 * (9975 : BitVec 16).toNat ≤ 95 * 10500 ∧ 95 * 10500 < 100 * (9976 : BitVec 16).toNat ∧
    (16 - 3 * (95 - 95) / 2 = 16 ∧ max 1 (16 - 3 * (105 - 95) / 2) = 1) := by
  decide

/-- A forecast from 2000 to 3000. -/
def fc : Forecast := { engMask := 1, level := 16, start := 2000, stop := 3000, active := false }

theorem witness_OperatingPointsCapsForecasts_forecasts :
    ((sWith { forecasts := [fc] }).site 3).forecasts[(0 : Fin 4).val]? = some fc ∧ fc.start.toNat ≤ (sOn.at 1000).tb.toNat + 1000 ∧
    (sOn.at 999).tb.toNat + 1000 < fc.start.toNat ∧ fc.stop ≤ (sOn.at 3000).tb ∧ (sOn.at 2999).tb < fc.stop ∧
    (let o : ArrayOp := { seq := 0, kind := .matrix mf, m := 64, anchorReg := 0, c1 := 0, c2 := 0, bundle := 0, slot := 0, named := 0 }
     ((sWith { engines := [(1, { arrayQ := [o] })] }).site 3).eng 1 |>.arrayQ) ≠ [] ∧
    (let o : ArrayOp := { seq := 0, kind := .matrix mf, m := 64, anchorReg := 0, c1 := 0, c2 := 0, bundle := 0, slot := 0, named := 0 }
     ((sWith { engines := [(1, { arrayQ := [o] })] }).site 3).waitsOnTiles 1 o mf = true) := by
  decide

theorem witness_PowerFaultsAndTelemetry :
    ((sDom 3 { st := .on, phases := 0x00F } {}).dom 3).phases.getLsbD 4 = false ∧
    popCount (setBit (0x00F : BitVec 12) 4 true) = 5 ∧ popCount (setBit (0x007 : BitVec 12) 4 true) = 4 ∧
    ((sDom 40 { phases := 0x00F } {}).dom 40).phases.getLsbD 7 = false ∧ ((sDom 3 { st := .ramp } {}).dom 3).st = .ramp ∧
    (sDom 3 {} {}).pwr.ibcOk.getLsbD 0 = true ∧ (sDom 3 {} {}).pwr.ibcOk.getLsbD 7 = false ∧ sOn.pwr.qIn ≠ 8 ∧
    ((sDom 3 { telFrom := 1000000 } {}).dom 3).telFrom.toNat ≤ (1 : Word64).toNat * 1000000 ∧
    ((sDom 3 { telMode := true } {}).dom 3).telMode = true ∧ 100 * 115 ≤ 115 * 100 ∧ 115 * 100 < 100 * 116 ∧
    100 * 140 ≤ 140 * 100 ∧ 140 * 100 < 100 * 141 ∧ 4 ≤ 16 * 100 / 400 ∧ 16 * 100 / 401 < 4 := by
  decide

/-! ### Interrupts -/

/-- Source n as v. -/
def sSrc (n : Nat) (v : Src) : State := { sRun with host := { ready := true }, ic := { srcs := [(n, v)] }, coreMap := [(0, some 3)] }

def src0 : Src := { st := .pending, en := true, target := 0, prio := 3, mode := 4, filter := 0, token := 2, stamp := 6, line := false }

theorem witness_InterruptSources :
    srcIsLine 63 = true ∧ srcReserved 8 = false ∧ srcReserved 9 = true ∧ srcIsLine 351 = true ∧ srcIsLine 512 = false ∧
    srcReserved 1022 = false ∧ srcReserved 1023 = true ∧ ((sSrc 8 src0).src 8).line ≠ true ∧ (sSrc 8 src0).lineInput 8 = none ∧
    sRun.lineInput 19 = some false ∧ sRun.lineInput 16 = some false ∧
    sRun.isDark 0 = false ∧ sRun.mayRaise none 64 = true ∧ (sSrc 64 src0).mayRaise (some 1) 64 = false ∧
    src0.meets = false ∧ ({ src0 with mode := 1 } : Src).meets = true ∧ IcTarget .reeve = some 0 ∧
    (sSrc 64 src0).deliverable 64 = true ∧ ((sSrc 64 src0).src 64).target = 0 ∧
    (∀ m ∈ List.range 1024, m ≠ 64 → (sSrc 64 src0).deliverable m = false) ∧
    (sSrc 64 { src0 with target := 4 }).deliverable 64 = true ∧ (sSrc 64 src0).siteOf (srcCore 64) = some 3 ∧
    (sSrc 64 src0).ic.seqMask.getLsbD (srcCore 64).val = false ∧ (sSrc 512 { src0 with target := 3 }).deliverable 512 = true ∧
    (sSrc 64 { src0 with en := false }).deliverable 64 = false ∧
    tget (fun _ => none) ({ sOn with ic := { holding := [(4, some 9)] } } : State).ic.holding 4 = some 9 := by
  decide +kernel

theorem test_complete_leaves_idle : ((after (.icComplete .reeve 64) (sSrc 64 { src0 with st := .inService })).src 64).st = .idle := by
  decide

/-! ### Recovery, the reeve, starts -/

/-- A LAUNCH of job 7 with tallies, its arrive bell 1 forwarding to device 5, its release bell 2 multicasting set 1. -/
def dTally : Desc := { dLaunch with words := wsOf [(0, 2), (2, 1), (3, 0x200000), (7, 7), (10, 0x4001)] }

/-- A recovery of job 7. -/
def rec7 (ph : RecPhase) : Recov :=
  { scope := none, job := 7, phase := ph, attempt := 1, since := 4, began := 0, cls := 5, tally := 1, tallyOk := true, noSpare := false, replace := [], waitStopped := [3], waitReady := [3], localReady := false, goAt := none }

/-- Job 7 runs on site 3, its parent device 5 when up is true, its children those of multicast set 1. -/
def sJob (l : List Recov) (up kids : Bool) : State :=
  let c : Colls := { bells := [(1, { actFwd := up, remote := true, dev := 5 }), (2, { actMcast := kids, mset := 1 })], msets := [(1, { dests := [{ dev := 3, remote := true, bell := 0 }] })], tallies := [(0, { a := { complete := true, num := 1, job := 7 } })] }
  { sRun with coreMap := [(0, some 3)], host := { ready := true, descs := [dTally] }, flt := { jobs := l }, coll := c }

def msg7 (n : BitVec 12) : RecMsg :=
  { job := 7, tag := none, attempt := 1, tallyOk := true, noSpare := false, instant := 50, tally := 1, cause := 5, source := n, fromParent := false }

theorem witness_JobsRecover :
    (sJob [] false true).jobOfSite 3 = some (none, 7) ∧ (sJob [] false true).flt.reports = [] ∧
    (sJob [] false true).recov none 7 = none ∧ ((sJob [] false true).at 5).recent none 7 < 4 ∧
    (sJob [] false true).jobChildren none 7 = [3] ∧ (sJob [] false true).scopeOfMsg (msg7 3) = some none ∧
    (sJob [] false true).scopeOfMsg { msg7 3 with job := 8 } = none ∧
    (sJob [rec7 .stop] true false).rollsBack none 7 1 = true ∧ (sJob [rec7 .stop] true false).rollsBack none 7 2 = false ∧ (sJob [rec7 .stop] true false).recov none 7 = some (rec7 .stop) ∧
    recovering (sJob [rec7 .stop] true false) (rec7 .stop) ∧ (rec7 .stop).waitStopped.filter (fun d => decide (d ≠ 3)) = [] ∧
    (sJob [rec7 .stop] true false).jobParent none 7 = some 5 ∧ (sJob [rec7 .stop] false false).jobParent none 7 = none ∧
    (sJob [rec7 .stop] false false).whyFails (rec7 .stop) = none ∧
    (sJob [rec7 .stop] false false).whyFails { rec7 .stop with tally := 9 } = some 3 ∧
    (sJob [] false false).jobDescs none 7 = [9] ∧ (sJob [rec7 .restore] false false).restoring none 7 = false ∧
    windowOver (rec7 .go).since 1000000000 ((sJob [] false false).at 1000000004).tb = true ∧
    windowOver (rec7 .go).since 1000000000 ((sJob [] false false).at 1000000003).tb = false := by
  unfold recovering; decide +kernel

/-- The same with one core in the tally. -/
def sBack : State :=
  { sJob [rec7 .restore] false true with coll := { tallies := [(0, { a := { complete := true, num := 1, job := 7, cores := [{ lc := 0, pc := 3, sregs := [], aregs := [], toks := [], loops := [], vregs := [], regions := [] }] } })] } }

theorem witness_JobsRecover_restore :
    recovering sBack (rec7 .restore) ∧ (rec7 .restore).localReady = false ∧ (rec7 .restore).replace = [] ∧
    ((sBack.tallyNo none 7 1).map (·.cores.map (·.lc))) = some [0] ∧ sBack.siteOf 0 = some 3 ∧
    sBack.restoring none 7 = false := by
  unfold recovering; decide +kernel

/-- Sites 3 and 4 of a field whose IBC serves; core 0 of job 7 is to be replaced. -/
def sRep (spare : Bool) : State :=
  { sJob [{ rec7 .restore with replace := [0] }] false false with
    pwr := { ibcOk := if spare then 1 else 0 }, fuses := { siteGood := if spare then 0x18 else 0x8 } }

theorem witness_ReplacementSupervisionAndJournal :
    (sRep true).siteOf 0 = some 3 ∧ (sRep true).spareFor 3 = some 4 ∧ (sRep false).spareFor 3 = none ∧
    mirrorValid (0x8001000000000000 : BitVec 64) = true ∧
    ({ sPage with mem := { lit := 255, pages := [(0, { valid := true })] } }.modSite 3 fun c => { c with mirror := 0x8001000000000000, refillDue := true }).mirrorLost 3 = 0 ∧
    sOn.flt.missedA ≤ 1 ∧ windowOver sOn.flt.watchdog 10000000000 (sOn.at 10000000000).tb = true ∧
    ({ sOn with flt := { folds := [(0x0401 * 4096 + 3, some (1, 0, 0))] } } : State).flt.folds.filter (fun p => decide (p.1 / 4096 = (0x0401 : BitVec 16).toNat)) = [(0x0401 * 4096 + 3, some (1, 0, 0))] ∧
    sOn.flashHeld = false ∧ isFaultRec (.reserve 0) = false ∧ 50331648 ≤ ({ fill := 50331648 } : Journal).fill := by
  decide +kernel

/-- What the refill of a spare's granary met. -/
def refilled : SpareObs := { fwd := some 6, rev := some 6, lanes := [] }

theorem witness_ReplacementSupervisionAndJournal_refill :
    let s := sPage.modSite 3 fun c => { c with mirror := 0x8001000000000000, refillDue := true }
    (s.site 3).refillDue = true ∧ mirrorValid (s.site 3).mirror = true ∧ s.mirrorLost 3 = 0 ∧ refilled.ecc = .clean ∧
    ({ refilled with ecc := .uncorrectable } : SpareObs).lanes = [] ∧ (sPage.site 3).refillDue = false := by
  decide +kernel

theorem test_journal_append :
    (after (.journalAppend (.reserve 5)) { sOn with jrnl := { buf := [.reserve 5] } }).jrnl.recs = [(0, .mfg 0), (1, .reserve 5)] := by
  decide +kernel

/-- The reeve's state as v. -/
def sSec (v : Sec) : State := { sOn with sec := v }

def img (v : BitVec 7) : FwObs := { present := true, sigOk := true, digestOk := true, svn := v, commitSvn := false, build := 1, digest := 0 }

theorem witness_ReeveMailbox :
    sOn.attestScope 0 = some none ∧ sOn.attestScope 3 = none ∧
    ((sHam .live none []).attestScope 3) = some (some 2) ∧ (sHam .live none []).attestScope 9 = none ∧
    (sSec { nextLeaf := 0xFFFFFFFC00, batchEnd := 0xFFFFFFFC00 }).sec.nextLeaf.toNat + 1024 ≤ 2 ^ 40 ∧
    2 ^ 40 < (sSec { nextLeaf := 0xFFFFFFFC01 }).sec.nextLeaf.toNat + 1024 ∧ (sSec { drbgUses := 65535 }).sec.drbgUses < 65536 ∧
    (sSec { challenge := some 4 }).tokenHolds 0 4 1 1 true = true ∧ (sSec { challenge := some 4 }).tokenHolds 0 4 1 0 true = false ∧
    (sSec { challenge := some 4 }).confidential = false ∧ sPage.imagePages 0 8388608 = true ∧ sPage.imagePages 0 8388609 = false ∧
    (img 0).svn < (1 : BitVec 7) ∧ sOn.fuses.svn ≤ (img 0).svn ∧
    windowOver 5 60000000000 (sOn.at 60000000005).tb = true ∧ windowOver 5 60000000000 (sOn.at 60000000004).tb = false ∧
    (sSec { recovery := true, session := some (hostPort true, 5) }).sec.session = some (hostPort true, 5) ∧
    hostPort true ≠ hostPort false := by
  decide +kernel

/-- A start in which everything is found good. -/
def so : StartObs :=
  { journalTorn := [], journalMfg := true, fwImage := true, fwSigOk := true, fwDigestOk := true, fwSvn := 0, fwCommitSvn := false, fwBuild := 1, fwDigest := 0, kat := [], calFail := [], ibcBad := 0, railBad := 0, channelRate := [], badFrames := [], sensors := [], parentTb := none }

theorem witness_StartsAndRails :
    State.reset.board.armed = true ∧ State.reset.board.rails = false ∧ State.reset.board.thermtrip = false ∧
    State.reset.board.refLost = false ∧ 4300 ≤ (4300 : BitVec 16).toNat ∧ (5800 : BitVec 16).toNat ≤ 5800 ∧
    bootFail so.fwImage so.fwSigOk so.fwDigestOk so.fwSvn 0 = none ∧ bootFail so.fwImage so.fwSigOk so.fwDigestOk so.fwSvn 1 = some 3 ∧
    ({ sOn with board := { sOn.board with resetDue := true } } : State).board.modrst = false ∧
    (let s : State := { State.reset with board := { alwaysOn := true, rails := true, held := some so, modrst := true } }
     s.board.held = some so ∧ s.host.ready = false ∧ s.coreMap = []) ∧
    (sLink { st := .up } |>.link 5).st = .up ∧ sOn.board.refLost = false := by
  decide

theorem test_brown_out_drops_the_rails : (after .brownOut sOn).board.rails = false ∧ (after .brownOut sOn).board.cause = 2 := by
  decide

theorem witness_ManagementPort :
    sOn.board.alwaysOn = true ∧ State.reset.board.alwaysOn = false ∧ sOn.firmwareRuns = true ∧
    ({ sOn with board := { alwaysOn := true } } : State).firmwareRuns = false ∧
    ({ sOn with board := { sOn.board with sensors := [(9, some 3)] } } : State).sensor 9 = some 3 ∧ sOn.sensor 4 = none ∧
    sOn.maxWatts.toNat < (70000 : Word32).toNat ∧ 3000 ≤ (3000 : Word32).toNat ∧ (3000 : Word32).toNat ≤ sOn.maxWatts.toNat ∧
    (List.replicate 4096 (0 : Byte)).length ≤ 4096 ∧ 4096 < (List.replicate 4097 (0 : Byte)).length ∧
    windowOver 5 100000000 (sOn.at 100000005).tb = true ∧ windowOver 5 1000000000 (sOn.at 1000000004).tb = false := by
  decide +kernel

theorem test_power_limit_clamps : (after (.powerLimit 2999) sOn).pwr.limitW = 3000 := by decide

theorem witness_RegisterAccess :
    (0x11 : BitVec 28).toNat % 4 ≠ 0 ∧ 0x10010 ≤ (0x10010 : BitVec 28).toNat ∧
    sOn.pair 0x800010 = some 0 ∧ sOn.answers 0x800014 = true ∧ ({ sOn with shadows := [] } : State).shadow .hp0 0x800010 = none ∧
    ((sRing {} []).ring 4).active = false ∧ ((sRing {} []).ring 4).owner = none ∧ ((sRing g16 []).ring 4).active = true ∧
    (0x11104 : BitVec 28).toNat = 0x11000 + 64 * (4 : RingNo).val + 0x00 + 4 ∧ sOn.sec.busy = false ∧
    (1 : Word32).extractLsb' 0 8 ∈ [(1 : Byte), 2, 3, 4, 5, 6, 16, 17, 18] ∧ (7 : Word32).extractLsb' 0 8 ∉ [(1 : Byte), 2, 3, 4, 5, 6, 16, 17, 18] ∧
    0xD00000 ≤ (0xDFFFFC : BitVec 28).toNat ∧ sOn.host.lock = false ∧ sOn.pwr.groupEn = false ∧ sOn.id.lock = false ∧
    (∀ l : LinkNo, (sOn.link l).st = .absent) ∧ (∃ l : LinkNo, ((sLink { st := .up }).link l).st = .up) := by
  decide +kernel

/-! ### Clauses at their edges -/

/-- Hamlet 2 at the end of its command, with core 0 on site 3. -/
def sZero (st : HamletState) : State := sHam st (some 8) hdW

theorem witness_HamletsChange_sites :
    (3 : SiteNo) ∈ (sZero .destroying).sitesOf ((sZero .destroying).hamlet 2).cores ∧
    ((sZero .resetting).hamlet 2).st = .resetting ∧ (sDe hcW).sec.entropyOk = false ∧
    (∀ n ∈ ([] : List SiteNo), n ∉ (sZero .creating).sitesOf 1) := by
  decide +kernel

theorem test_zeroisation_that_fails_records_the_site :
    let t := after (.hamletZeroisationDone ⟨2, [3, 3]⟩) (sZero .destroying)
    (t.site 3).bad = true ∧ t.mapBad 0 3 = true ∧ (t.flt.buf.map (·.cls)).contains 0x0709 = true ∧ t.hamlet 2 = {} := by
  decide +kernel

/-- Port 0 down a while ago, port 1 up or not; one write was sent over port 0. -/
def sLate (up : BitVec 2) : State :=
  { sPort with host := { sPort.host with portUp := up, downSince := none }, out := [.hostWrite false 64 [1]] }

theorem test_port_down_writes_again :
    (after (.portDown ⟨false, 1⟩ 50005) (sLate 3)).out = [.hostWrite false 64 [1], .hostWrite true 64 [1]] ∧
    (after (.portDown ⟨false, 1⟩ 50005) (sLate 1)).host.held = [.hostWrite true 64 [1]] := by
  decide +kernel

theorem test_port_up_sends_what_was_held :
    (after (.portUp false []) (after (.portDown ⟨false, 1⟩ 50005) (sLate 1))).out =
      [.hostWrite false 64 [1], .hostWrite false 64 [1]] := by
  decide +kernel

/-- Core region 3 stopped with its calibration due, its crossing 3 in a mode. -/
def sCal (m : BitVec 2) (g : Region) : State :=
  { sReg 3 g with clk := { (sReg 3 g).clk with crossings := [(3, { mode := m })] } }

theorem witness_FrequencyChangesAndTimeBase_restart :
    let g : Region := { st := 2, calDone := true, change := some (800, 0) }
    ((sCal 2 g).region 3).st = 2 ∧ ((sCal 2 g).region 3).latched = none ∧ ((sCal 2 g).crossing 3).mode = 2 ∧
    (∀ x, x < 120 → crossingIn 3 x = true → ((sCal 1 g).crossing x).mode ≠ 2) ∧
    ((sReg 3 { st := 2, inHalf := 3, joined := true, change := some (800, 0) }).region 3).inHalf ≠ 0 ∧ (3 : RegionNo) ∈ coresOf 40 := by
  decide +kernel

theorem test_restart_waits_for_calibration :
    let g : Region := { st := 2, calDone := true, change := some (800, 0), mhz := 800 }
    ((after (.freqChangeRestart 3) (sCal 2 g)).region 3).st = 2 ∧ (sCal 2 g).recalLeft 3 = true ∧ (sCal 1 g).recalLeft 3 = false := by
  decide +kernel

theorem test_second_detector_stretches_no_more :
    ((after (.droopTrip 3 1) (sReg 3 { st := 1 })).site 3).detectors ≠ 0 ∧
    ((after (.droopTrip 3 1) (after (.droopTrip 3 0) (sReg 3 { st := 1 }))).region 3).stretches = 1 := by
  decide +kernel

theorem witness_InterruptSources_before_ready :
    State.reset.host.ready = false ∧ sOn.lineInput 19 = some false ∧ ((sOn.src 19).line = false) ∧ sOn.lineInput 200 = none := by
  decide +kernel

theorem test_line_without_its_input_is_not_taken :
    (after (.lineFilterChange 19 true 0) sOn).src 19 = sOn.src 19 ∧
    ((after (.lineFilterChange 19 true 0) { sOn with host := { sOn.host with lost := true } }).src 19).line = true := by
  decide +kernel

theorem test_reference_return_makes_channels_due :
    let s := { (sOn.modMsite 2 fun m => { m with st := 2 }) with board := { sOn.board with refLost := true }, tb := 7 }
    (((after (.referenceReturn ⟨[], [(2, 1)]⟩) s).msite 2).chan 1).due = some 7 ∧
    (((after (.referenceReturn ⟨[], [(2, 1)]⟩) s).msite 2).chan 0).due = none := by
  decide +kernel

theorem witness_StepRunsFront :
    ({ sOn with pending := [.hstHeartbeat .hp0 5] } : State).pending = .hstHeartbeat .hp0 5 :: [] := rfl

end Sys2Proof.Tests
end

section
/-!
PROOF. Accesses through the set-up window (00_scope.md R11, 18_registers.md): which offsets hold pairs, what an access
leaves alone, what a read and a write of each kind of register does, and the statement assembled from these.
-/

namespace Sys2Proof.Machine

/-! ### Which offsets hold pairs (R11) -/

/-- A _LO register of a CORE block stands at an offset within it. -/
abbrev corePairAt (o : Nat) : Prop :=
  o = 0x10 ∨ o = 0x18 ∨ o = 0x20 ∨ 0x8000 ≤ o ∧ o < 0xC000 ∧ (o % 4096 = 0x10 ∨ o % 4096 = 0x18)

/-- A _LO register stands at an offset of the window; pair_eq_none_iff ties it to State.pair. -/
abbrev pairAt (o : Nat) : Prop :=
  o = 0x10 ∨ 0x11000 ≤ o ∧ o < 0x15000 ∧ (o % 64 = 0x00 ∨ o % 64 = 0x08 ∨ o % 64 = 0x10) ∨
  0x100000 ≤ o ∧ o < 0x380000 ∧ corePairAt (o % 65536) ∨ o = 0x800010 ∨
  0x901000 ≤ o ∧ o < 0x901600 ∧ o % 32 = 0x0C ∨ o = 0xA00018 ∨ o = 0xA00028 ∨ o = 0xA00038 ∨
  o = 0xB00010 ∨ o = 0xB00018 ∨ o = 0xD00008

/-- An offset holds neither half of a pair. -/
abbrev singleAt (o : Nat) : Prop := ¬ pairAt o ∧ ¬ (4 ≤ o ∧ pairAt (o - 4))

theorem corePair_eq_none_iff (s : State) (n : SiteNo) (o : Nat) : s.corePair n o = none ↔ ¬ corePairAt o := by
  unfold State.corePair corePairAt
  split_ifs <;> simp <;> omega

theorem pair_eq_none_iff (s : State) (o : Nat) : s.pair o = none ↔ ¬ pairAt o := by
  have core := corePair_eq_none_iff s (coreAt o) (o % 65536)
  unfold State.pair
  split_ifs <;> grind

theorem pairAt_of_pair {s : State} {o : Nat} {p : Word64} (h : s.pair o = some p) : pairAt o := by
  by_contra hn
  simp [(pair_eq_none_iff s o).2 hn] at h

theorem pairAt_aligned {o : Nat} (h : pairAt o) : o % 4 = 0 := by
  unfold pairAt corePairAt at h
  omega

theorem not_pairAt_add_four {o : Nat} (h : pairAt o) : ¬ pairAt (o + 4) := by
  unfold pairAt corePairAt at *
  omega

theorem isLo_iff (s : State) (o : Nat) : s.isLo o = true ↔ pairAt o := by
  rw [State.isLo, Option.isSome_iff_ne_none, ne_eq, pair_eq_none_iff, not_not]

theorem isHi_iff (s : State) (o : Nat) : s.isHi o = true ↔ 4 ≤ o ∧ pairAt (o - 4) := by
  rw [State.isHi, Bool.and_eq_true, decide_eq_true_iff, Option.isSome_iff_ne_none, ne_eq, pair_eq_none_iff, not_not]

theorem isLo_eq_false (s : State) {o : Nat} (h : singleAt o) : s.isLo o = false :=
  Bool.eq_false_iff.2 fun hl => h.1 ((isLo_iff s o).1 hl)

theorem isHi_eq_false (s : State) {o : Nat} (h : singleAt o) : s.isHi o = false :=
  Bool.eq_false_iff.2 fun hh => h.2 ((isHi_iff s o).1 hh)

/-! ### Which registers answer and take writes (R472 to R474) -/

theorem answers_eq_false {s : State} {o : Nat} (hr : s.host.ready = false) (ho : 0x10010 ≤ o)
    (hs : ¬ (0xC00000 ≤ o ∧ o < 0xE00000)) : s.answers o = false := by
  simp only [State.answers, hr, Bool.false_or, Bool.or_eq_false_iff, Bool.and_eq_false_iff, decide_eq_false_iff_not]
  omega

theorem answers_of_ready {s : State} (o : Nat) (hr : s.host.ready = true) : s.answers o = true := by
  simp [State.answers, hr]

theorem answers_id (s : State) {o : Nat} (ho : o < 0x10000) : s.answers o = true := by
  simp [State.answers, ho]

theorem answers_sec (s : State) {o : Nat} (ho : 0xC00000 ≤ o ∧ o < 0xE00000) : s.answers o = true := by
  simp [State.answers, ho]

theorem takesWrite_eq_false {s : State} {o : Nat} (h : o % 4 ≠ 0 ∨ s.answers o = false) :
    s.takesWrite o = false := by
  rcases h with h | h <;> simp [State.takesWrite, h]

/-- Outside the CORE blocks an aligned register that answers takes a write. -/
theorem takesWrite_offCores {s : State} {o : Nat} (on : s.board.alwaysOn = true) (h4 : o % 4 = 0)
    (hc : o < 0x100000 ∨ 0x380000 ≤ o) (ha : s.answers o = true) : s.takesWrite o = true := by
  have hg : s.coreGone o = false := by
    simp only [State.coreGone, Bool.and_eq_false_iff, decide_eq_false_iff_not]
    omega
  simp [State.takesWrite, on, h4, ha, hg]

/-! ### What a register reads (R11, R472) -/

theorem reads_ignored {s : State} {o : Nat} (h : o % 4 ≠ 0 ∨ s.answers o = false) : s.reads o = 0 := if_pos h

theorem reads_lo {s : State} {o : Nat} {p : Word64} (hp : s.pair o = some p) (ha : s.answers o = true) :
    s.reads o = lo32 p := by
  simp [State.reads, pairAt_aligned (pairAt_of_pair hp), ha, hp]

theorem reads_hi {s : State} {o : Nat} {p : Word64} (hp : s.pair o = some p) (ha : s.answers (o + 4) = true) :
    s.reads (o + 4) = hi32 p := by
  have h4 : (o + 4) % 4 = 0 := by have := pairAt_aligned (pairAt_of_pair hp); omega
  have hn : s.pair (o + 4) = none := (pair_eq_none_iff s _).2 (not_pairAt_add_four (pairAt_of_pair hp))
  simp [State.reads, h4, ha, hn, hp]

/-! ### Shadows and held writes: one for each accessor and pair (R11) -/

theorem pairKey_ne {acc acc' : Accessor} {lo lo' : Nat} (hl : lo < 2 ^ 28) (hl' : lo' < 2 ^ 28)
    (h : acc' ≠ acc ∨ lo' ≠ lo) : pairKey acc' lo' ≠ pairKey acc lo := by
  have hacc : accNo acc' = accNo acc → acc' = acc := by cases acc <;> cases acc' <;> simp [accNo]
  unfold pairKey
  rcases h with h | h
  · have := mt hacc h
    omega
  · omega

@[simp] theorem shadow_setShadow_same (s : State) (acc : Accessor) (lo : Nat) (v : Option Word32) :
    (s.setShadow acc lo v).shadow acc lo = v := tget_tset_same _ _ _ _

theorem shadow_setShadow_other (s : State) {acc acc' : Accessor} {lo lo' : Nat} (v : Option Word32)
    (hl : lo < 2 ^ 28) (hl' : lo' < 2 ^ 28) (h : acc' ≠ acc ∨ lo' ≠ lo) :
    (s.setShadow acc lo v).shadow acc' lo' = s.shadow acc' lo' := tget_tset_other _ _ _ (pairKey_ne hl hl' h)

@[simp] theorem heldLo_setHeld_same (s : State) (acc : Accessor) (lo : Nat) (v : Option Word32) :
    (s.setHeld acc lo v).heldLo acc lo = v := tget_tset_same _ _ _ _

theorem heldLo_setHeld_other (s : State) {acc acc' : Accessor} {lo lo' : Nat} (v : Option Word32)
    (hl : lo < 2 ^ 28) (hl' : lo' < 2 ^ 28) (h : acc' ≠ acc ∨ lo' ≠ lo) :
    (s.setHeld acc lo v).heldLo acc' lo' = s.heldLo acc' lo' := tget_tset_other _ _ _ (pairKey_ne hl hl' h)

/-- A read that sets its accessor's shadow changes the output and that shadow alone. -/
theorem setShadow_readOut (s : State) (acc : Accessor) {lo : Nat} (off : BitVec 28) (v : Option Word32) (w : Word32)
    (hl : lo < 2 ^ 28) {t : State} (ht : t = (s.setShadow acc lo v).readOut acc off w) :
    t = { s with out := s.out ++ [.regData acc off w], shadows := t.shadows } ∧ t.shadow acc lo = v ∧
    ∀ acc' lo', lo' < 2 ^ 28 → acc' ≠ acc ∨ lo' ≠ lo → t.shadow acc' lo' = s.shadow acc' lo' := by
  subst ht
  exact ⟨rfl, shadow_setShadow_same s acc lo v, fun _ _ hl' h => shadow_setShadow_other s v hl hl' h⟩

/-! ### What an access brings: core cycles and parity (R159, R475) -/

theorem record_logged (s : State) (r : FaultRec) : logged s (s.record r) r.cls := by
  refine ⟨rfl, ?_⟩
  simp only [State.record, decide_eq_true_eq]
  refine ⟨_, rfl, ?_, ?_⟩ <;> repeat' split
  all_goals rfl

/-- A parity failure is recorded with class 0x0007. -/
theorem parityRecord_logged (s : State) (o : Nat) (b : Bool) : logged s (s.parityRecord o b) 0x0007 :=
  record_logged _ _

/-- A parity failure is counted and its offset kept; but for that and the record nothing changes. -/
theorem parityRecord_frame (s : State) (o : Nat) (b : Bool) :
    s.parityRecord o b = { s with
      id := { s.id with parity := satInc s.id.parity, errAddr := BitVec.ofNat 28 o },
      flt := (s.parityRecord o b).flt, jrnl := (s.parityRecord o b).jrnl } := rfl

theorem passed_onlySite (s : State) (n : SiteNo) (h : Option Head) (k : Word64) : onlySite n s (s.passed n h k) := by
  unfold State.passed
  split
  · exact ⟨rfl, fun _ _ => rfl⟩
  · exact ⟨rfl, fun m hm => State.site_modSite_other s _ hm⟩

theorem passed_cycle {s : State} {n : SiteNo} {k : Word64} (h : Option Head) (hk : k ≠ 0) :
    ((s.passed n h k).site n).cycle = (s.site n).cycle + k := by
  rw [State.passed, if_neg fun e => hk e.1, State.site_modSite_same]
  rfl

theorem accessed_plain (s : State) (o : Nat) (acc : Accessor) : s.accessed o ⟨acc, .ok, 0⟩ = s := by
  simp [State.accessed, State.parityCheck]

/-- A register whose parity holds, or whose word's port parity failed, keeps its fields: no more than the record of the
failure is new. -/
theorem parityCheck_frame (s : State) (o : Nat) {par : ParityObs} (h : par = .ok ∨ par = .portFail) :
    s.parityCheck o par = { s with
      id := (s.parityCheck o par).id, flt := (s.parityCheck o par).flt, jrnl := (s.parityCheck o par).jrnl } := by
  rcases h with rfl | rfl
  · rfl
  · unfold State.parityCheck
    dsimp only
    split
    · exact parityRecord_frame s o false
    · rfl

/-- Such an access changes only a core site's cycles and the record of the failure. -/
theorem accessed_frame (s : State) (o : Nat) {a : Access} (h : a.par = .ok ∨ a.par = .portFail) :
    s.accessed o a = { s with
      sites := (s.accessed o a).sites, id := (s.accessed o a).id, flt := (s.accessed o a).flt,
      jrnl := (s.accessed o a).jrnl } := by
  unfold State.accessed
  dsimp only
  generalize hu : (if a.cycles ≠ 0 ∧ 0x100000 ≤ o ∧ o < 0x380000 ∧ s.clocked (coreAt o) = true then
      s.passed (coreAt o) (s.site (coreAt o)).fetched.1 a.cycles else s) = u
  have hs : u = { s with sites := u.sites } := by
    rw [← hu]
    split
    · exact (passed_onlySite s _ _ _).1
    · rfl
  split
  · rw [parityCheck_frame u o h, hs]
  · rw [hs]

/-- Such an access changes nothing that decides whether a register takes a write. -/
theorem takesWrite_accessed (s : State) (o : Nat) {a : Access} (h : a.par = .ok ∨ a.par = .portFail) :
    (s.accessed o a).takesWrite o = s.takesWrite o :=
  (congrArg (fun t : State => t.takesWrite o) (accessed_frame s o h)).trans rfl

theorem alwaysOn_accessed (s : State) (o : Nat) {a : Access} (h : a.par = .ok ∨ a.par = .portFail) :
    (s.accessed o a).board.alwaysOn = s.board.alwaysOn :=
  (congrArg (fun t : State => t.board.alwaysOn) (accessed_frame s o h)).trans rfl

theorem isLo_accessed (s : State) (o : Nat) (a : Access) (x : Nat) : (s.accessed o a).isLo x = s.isLo x := by
  rw [Bool.eq_iff_iff, isLo_iff, isLo_iff]

theorem isHi_accessed (s : State) (o : Nat) (a : Access) (x : Nat) : (s.accessed o a).isHi x = s.isHi x := by
  rw [Bool.eq_iff_iff, isHi_iff, isHi_iff]

/-! ### The rows of a pair (R11) -/

theorem exec_regPairReadLo_ignored {s : State} (acc : Accessor) {off : BitVec 28} (on : s.board.alwaysOn = true)
    (h : off.toNat % 4 ≠ 0 ∨ s.answers off.toNat = false) :
    exec (.regPairReadLo ⟨acc, .ok, 0⟩ off) s = .next (s.readOut acc off 0) := by
  change execRegPairReadLo _ off s = _
  simp only [execRegPairReadLo, on, Bool.true_eq_false, if_false, accessed_plain, reads_ignored h, keptBits]
  split
  case h_1 p hp =>
    have ha : s.answers off.toNat = false := h.resolve_left (not_not.2 (pairAt_aligned (pairAt_of_pair hp)))
    rw [ha, if_neg Bool.false_ne_true]
  case h_2 => rfl

theorem exec_regPairReadLo_pair {s : State} (acc : Accessor) {off : BitVec 28} {p : Word64}
    (on : s.board.alwaysOn = true) (hp : s.pair off.toNat = some p) (ha : s.answers off.toNat = true) :
    exec (.regPairReadLo ⟨acc, .ok, 0⟩ off) s =
      .next ((s.setShadow acc off.toNat (some (hi32 p))).readOut acc off (lo32 p)) := by
  change execRegPairReadLo _ off s = _
  simp only [execRegPairReadLo, on, Bool.true_eq_false, if_false, accessed_plain, hp, ha, if_true,
    reads_lo hp ha, keptBits]

/-- A _HI register that does not answer, or none at all, is a plain read. -/
theorem exec_regPairReadHi_plain {s : State} (acc : Accessor) {off : BitVec 28} (on : s.board.alwaysOn = true)
    (h : s.isHi off.toNat = true → s.answers off.toNat = true → s.shadow acc (off.toNat - 4) = none) :
    exec (.regPairReadHi ⟨acc, .ok, 0⟩ off) s = .next (s.readOut acc off (s.reads off.toNat)) := by
  change execRegPairReadHi _ off s = _
  simp only [execRegPairReadHi, on, Bool.true_eq_false, if_false, accessed_plain, keptBits]
  split
  case isTrue hh => rw [h hh.1 hh.2]
  case isFalse => rfl

theorem exec_regPairReadHi_shadow {s : State} {acc : Accessor} {off : BitVec 28} {v : Word32}
    (on : s.board.alwaysOn = true) (hh : s.isHi off.toNat = true) (ha : s.answers off.toNat = true)
    (hv : s.shadow acc (off.toNat - 4) = some v) :
    exec (.regPairReadHi ⟨acc, .ok, 0⟩ off) s =
      .next ((s.setShadow acc (off.toNat - 4) none).readOut acc off v) := by
  change execRegPairReadHi _ off s = _
  simp [execRegPairReadHi, on, hh, ha, hv]

theorem exec_regPairWriteLo_takes {s : State} (acc : Accessor) {off : BitVec 28} (v : Word32)
    (ht : s.takesWrite off.toNat = true) (hl : s.isLo off.toNat = true) :
    exec (.regPairWriteLo ⟨acc, .ok, 0⟩ off v) s = .next (s.writeLo acc off.toNat v) := by
  change execRegPairWriteLo _ off v s = _
  simp only [execRegPairWriteLo, ht, hl, and_self, if_true, accessed_plain]

theorem exec_regPairWriteHi_takes {s : State} (acc : Accessor) {off : BitVec 28} (v : Word32)
    (ht : s.takesWrite off.toNat = true) (hh : s.isHi off.toNat = true) :
    exec (.regPairWriteHi ⟨acc, .ok, 0⟩ off v) s = .next (s.writeHi acc off.toNat v) := by
  change execRegPairWriteHi _ off v s = _
  simp only [execRegPairWriteHi, ht, hh, and_self, if_true, accessed_plain]

theorem exec_regPairWriteLo_ignored {s : State} (a : Access) {off : BitVec 28} (v : Word32)
    (ht : s.takesWrite off.toNat = false) : exec (.regPairWriteLo a off v) s = .next s := by
  change execRegPairWriteLo a off v s = _
  simp [execRegPairWriteLo, ht]

theorem exec_regPairWriteHi_ignored {s : State} (a : Access) {off : BitVec 28} (v : Word32)
    (ht : s.takesWrite off.toNat = false) : exec (.regPairWriteHi a off v) s = .next s := by
  change execRegPairWriteHi a off v s = _
  simp [execRegPairWriteHi, ht]

/-! ### The pairs of a ring (R337) -/

/-- The pair of a ring whose _LO stands at offset k of its registers. -/
def Ring.pairVal (g : Ring) (k : Nat) : Word64 :=
  if k = 0x00 then g.sqBase else if k = 0x08 then g.cqBase else g.msgAddr

/-- A ring with that pair set. -/
def Ring.setPairVal (g : Ring) (k : Nat) (v : Word64) : Ring :=
  if k = 0x00 then { g with sqBase := v } else if k = 0x08 then { g with cqBase := v } else { g with msgAddr := v }

section
variable {r : RingNo} {k : Nat}

theorem ringOff_ring (hk : k < 64) : ringOff (0x11000 + 64 * r.val + k) = r := by
  apply Fin.ext
  simp only [ringOff, ringAt]
  omega

theorem inRings_ring (hk : k < 64) : inRings (0x11000 + 64 * r.val + k) = true := by
  simp only [inRings, Bool.and_eq_true, decide_eq_true_eq]
  omega

theorem pair_ring (s : State) (hk : k ∈ [0x00, 0x08, 0x10]) :
    s.pair (0x11000 + 64 * r.val + k) = some ((s.ring r).pairVal k) := by
  have hk64 : k < 64 := by simp only [List.mem_cons, List.not_mem_nil, or_false] at hk; omega
  have hr : ringAt (0x11000 + 64 * r.val + k - 0x10000) = r := ringOff_ring hk64
  have hm : (0x11000 + 64 * r.val + k) % 64 = k := by omega
  have h0 : 0x11000 + 64 * r.val + k ≠ 0x10 := by omega
  have hin : 0x11000 ≤ 0x11000 + 64 * r.val + k ∧ 0x11000 + 64 * r.val + k < 0x15000 := by omega
  simp only [State.pair, if_neg h0, if_pos hin, hr, hm, Ring.pairVal]
  simp only [List.mem_cons, List.not_mem_nil, or_false] at hk
  rcases hk with rfl | rfl | rfl <;> rfl

theorem setPair_ring (s : State) (hk : k < 64) (v : Word64) :
    s.setPair (0x11000 + 64 * r.val + k) v = s.setRing r ((s.ring r).setPairVal k v) := by
  have hm : (0x11000 + 64 * r.val + k) % 64 = k := by omega
  simp only [State.setPair, inRings_ring hk, if_true, ringOff_ring hk, hm, State.modRing, Ring.setPairVal]

theorem pairFrozen_ring (s : State) (hk : k < 64) :
    s.pairFrozen (0x11000 + 64 * r.val + k) = (s.ring r).frozen := by
  simp only [State.pairFrozen, inRings_ring hk, ringOff_ring hk, Bool.true_and]

end

theorem frozen_iff (g : Ring) : g.frozen = true ↔ g.active = true ∨ g.owner ≠ none := by
  simp only [Ring.frozen, Bool.or_eq_true, Option.isSome_iff_ne_none]

theorem frozen_eq_false {g : Ring} (ha : g.active = false) (ho : g.owner = none) : g.frozen = false := by
  simp [Ring.frozen, ha, ho]

theorem writeLo_frozen {s : State} {o : Nat} (acc : Accessor) (v : Word32) (hf : s.pairFrozen o = true) :
    s.writeLo acc o v = s := if_pos hf

theorem writeLo_held {s : State} {o : Nat} (acc : Accessor) (v : Word32) (hf : s.pairFrozen o = false) :
    s.writeLo acc o v = s.setHeld acc o (some v) := if_neg (Bool.eq_false_iff.1 hf)

theorem writeHi_frozen {s : State} {lo : Nat} (acc : Accessor) (v : Word32) (hf : s.pairFrozen lo = true) :
    s.writeHi acc (lo + 4) v = s := by
  simp only [State.writeHi, Nat.add_sub_cancel, hf, if_true]
  split <;> rfl

theorem writeHi_sets {s : State} {lo : Nat} {p : Word64} (acc : Accessor) (v : Word32) (hp : s.pair lo = some p)
    (hf : s.pairFrozen lo = false) :
    s.writeHi acc (lo + 4) v = (s.setPair lo (v ++ (s.heldLo acc lo).getD (lo32 p))).setHeld acc lo none := by
  simp only [State.writeHi, Nat.add_sub_cancel, hp, hf, Bool.false_eq_true, if_false]

/-- The pairs outside the rings are RO: a write of _HI there drops a held value at most. -/
theorem writeHi_readOnly (s : State) {lo : Nat} (acc : Accessor) (v : Word32) (h : lo < 0x11000 ∨ 0x15000 ≤ lo) :
    s.writeHi acc (lo + 4) v = { s with helds := (s.writeHi acc (lo + 4) v).helds } := by
  have hin : inRings lo = false := by
    simp only [inRings, Bool.and_eq_false_iff, decide_eq_false_iff_not]
    omega
  cases hp : s.pair lo with
  | none => simp [State.writeHi, hp]
  | some p =>
    have hf : s.pairFrozen lo = false := by simp [State.pairFrozen, hin]
    rw [writeHi_sets acc v hp hf, State.setPair, hin]
    rfl

/-! ### The clauses about pairs -/

/-- An access that is not aligned, or to a block that does not answer, reads 0. -/
theorem regPairRead_ignored {s : State} (acc : Accessor) {off : BitVec 28} (on : s.board.alwaysOn = true)
    (h : off.toNat % 4 ≠ 0 ∨ s.answers off.toNat = false) :
    ∀ row ∈ [Instr.regPairReadLo ⟨acc, .ok, 0⟩ off, .regPairReadHi ⟨acc, .ok, 0⟩ off],
      exec row s = .next (s.readOut acc off 0) := by
  have hi : s.isHi off.toNat = true → s.answers off.toNat = true → s.shadow acc (off.toNat - 4) = none := by
    intro hh ha
    obtain ⟨h4, hp⟩ := (isHi_iff s _).1 hh
    have := pairAt_aligned hp
    rcases h with h | h
    · omega
    · simp [h] at ha
  simp only [List.forall_mem_cons, List.not_mem_nil, false_implies, implies_true, and_true]
  exact ⟨exec_regPairReadLo_ignored acc on h, by rw [exec_regPairReadHi_plain acc on hi, reads_ignored h]⟩

/-- A read of _LO returns the low half and captures the high half for its accessor alone. -/
theorem regPairReadLo_captures {s : State} (acc : Accessor) {off : BitVec 28} {lo : Nat} {p : Word64}
    (on : s.board.alwaysOn = true) (hp : s.pair lo = some p) (ho : off.toNat = lo) (ha : s.answers lo = true) :
    completes (.regPairReadLo ⟨acc, .ok, 0⟩ off) s fun t =>
      t = { s with out := s.out ++ [.regData acc off (p.extractLsb' 0 32)], shadows := t.shadows } ∧
      t.shadow acc lo = some (p.extractLsb' 32 32) ∧
      ∀ acc' lo', lo' < 2 ^ 28 → acc' ≠ acc ∨ lo' ≠ lo → t.shadow acc' lo' = s.shadow acc' lo' := by
  subst ho
  exact ⟨_, exec_regPairReadLo_pair acc on hp ha, setShadow_readOut s acc off _ _ off.isLt rfl⟩

/-- A read of _HI returns what its accessor captured, which is then gone. -/
theorem regPairReadHi_captured {s : State} {acc : Accessor} {off : BitVec 28} {lo : Nat} {p : Word64} {v : Word32}
    (on : s.board.alwaysOn = true) (hp : s.pair lo = some p) (ho : off.toNat = lo + 4)
    (ha : s.answers (lo + 4) = true) (hv : s.shadow acc lo = some v) :
    completes (.regPairReadHi ⟨acc, .ok, 0⟩ off) s fun t =>
      t = { s with out := s.out ++ [.regData acc off v], shadows := t.shadows } ∧ t.shadow acc lo = none ∧
      ∀ acc' lo', lo' < 2 ^ 28 → acc' ≠ acc ∨ lo' ≠ lo → t.shadow acc' lo' = s.shadow acc' lo' := by
  have hlo : off.toNat - 4 = lo := by omega
  have hh : s.isHi off.toNat = true := (isHi_iff s _).2 ⟨by omega, hlo ▸ pairAt_of_pair hp⟩
  have hx := exec_regPairReadHi_shadow on hh (ho ▸ ha) (hlo.symm ▸ hv)
  rw [hlo] at hx
  exact ⟨_, hx, setShadow_readOut s acc off _ _ (by have := off.isLt; omega) rfl⟩

/-- With nothing captured, a read of _HI returns the current high half. -/
theorem regPairReadHi_current {s : State} {acc : Accessor} {off : BitVec 28} {lo : Nat} {p : Word64}
    (on : s.board.alwaysOn = true) (hp : s.pair lo = some p) (ho : off.toNat = lo + 4)
    (ha : s.answers (lo + 4) = true) (hv : s.shadow acc lo = none) :
    completes (.regPairReadHi ⟨acc, .ok, 0⟩ off) s
      (· = { s with out := s.out ++ [.regData acc off (p.extractLsb' 32 32)] }) := by
  have hlo : off.toNat - 4 = lo := by omega
  refine ⟨_, exec_regPairReadHi_plain acc on fun _ _ => hlo.symm ▸ hv, ?_⟩
  rw [ho, reads_hi hp ha]
  rfl

/-! ### The clauses about a ring's pairs (R337) -/

section
variable {s : State} {acc : Accessor} {off : BitVec 28} {r : RingNo} {k : Nat} {v : Word32}

theorem ringPair_lt (hk : k ∈ [0x00, 0x08, 0x10]) : k < 64 := by
  simp only [List.mem_cons, List.not_mem_nil, or_false] at hk
  omega

variable (on : s.board.alwaysOn = true) (hr : s.host.ready = true) (hk : k ∈ [0x00, 0x08, 0x10])
include on hr hk

theorem exec_ringPairWriteLo (ho : off.toNat = 0x11000 + 64 * r.val + k) :
    exec (.regPairWriteLo ⟨acc, .ok, 0⟩ off v) s = .next (s.writeLo acc (0x11000 + 64 * r.val + k) v) := by
  have hk64 := ringPair_lt hk
  have hp := pairAt_of_pair (pair_ring (r := r) s hk)
  rw [← ho] at hp ⊢
  exact exec_regPairWriteLo_takes acc v
    (takesWrite_offCores on (pairAt_aligned hp) (by omega) (answers_of_ready _ hr)) ((isLo_iff s _).2 hp)

theorem exec_ringPairWriteHi (ho : off.toNat = 0x11000 + 64 * r.val + k + 4) :
    exec (.regPairWriteHi ⟨acc, .ok, 0⟩ off v) s = .next (s.writeHi acc (0x11000 + 64 * r.val + k + 4) v) := by
  have hk64 := ringPair_lt hk
  have hp := pairAt_of_pair (pair_ring (r := r) s hk)
  have h4 := pairAt_aligned hp
  have hh : s.isHi off.toNat = true := (isHi_iff s _).2 ⟨by omega, by rwa [ho, Nat.add_sub_cancel]⟩
  rw [← ho]
  exact exec_regPairWriteHi_takes acc v (takesWrite_offCores on (by omega) (by omega) (answers_of_ready _ hr)) hh

/-- A write of _LO is held, for its accessor alone. -/
theorem ringPairWriteLo_held (hf : (s.ring r).frozen = false) (ho : off.toNat = 0x11000 + 64 * r.val + k) :
    completes (.regPairWriteLo ⟨acc, .ok, 0⟩ off v) s fun t => t = { s with helds := t.helds } ∧
      t.heldLo acc (0x11000 + 64 * r.val + k) = some v ∧
      ∀ acc' lo', lo' < 2 ^ 28 → acc' ≠ acc ∨ lo' ≠ 0x11000 + 64 * r.val + k →
        t.heldLo acc' lo' = s.heldLo acc' lo' := by
  have hk64 := ringPair_lt hk
  refine ⟨_, exec_ringPairWriteLo on hr hk ho, ?_⟩
  rw [writeLo_held acc v ((pairFrozen_ring s hk64).trans hf)]
  exact ⟨rfl, heldLo_setHeld_same s acc _ _, fun _ _ hl h => heldLo_setHeld_other s _ (by omega) hl h⟩

/-- A write of _HI sets both halves with a held low half, and the high half alone without one. -/
theorem ringPairWriteHi_sets (hf : (s.ring r).frozen = false) (ho : off.toNat = 0x11000 + 64 * r.val + k + 4) :
    completes (.regPairWriteHi ⟨acc, .ok, 0⟩ off v) s fun t =>
      t = { s with helds := t.helds, host := { s.host with rings := t.host.rings } } ∧
      t.heldLo acc (0x11000 + 64 * r.val + k) = none ∧ (∀ q, q ≠ r → t.ring q = s.ring q) ∧
      t.ring r = (s.ring r).setPairVal k (v ++ (s.heldLo acc (0x11000 + 64 * r.val + k)).getD
        (((s.ring r).pairVal k).extractLsb' 0 32)) := by
  have hk64 := ringPair_lt hk
  refine ⟨_, exec_ringPairWriteHi on hr hk ho, ?_⟩
  rw [writeHi_sets acc v (pair_ring s hk) ((pairFrozen_ring s hk64).trans hf), setPair_ring s hk64]
  exact ⟨rfl, heldLo_setHeld_same _ acc _ none, fun q hq => State.ring_setRing_other s _ hq,
    State.ring_setRing_same s r _⟩

/-- Both are ignored while the ring is ACTIVE or owned. -/
theorem ringPairWrite_frozen (hf : (s.ring r).frozen = true) :
    (off.toNat = 0x11000 + 64 * r.val + k → exec (.regPairWriteLo ⟨acc, .ok, 0⟩ off v) s = .next s) ∧
    (off.toNat = 0x11000 + 64 * r.val + k + 4 → exec (.regPairWriteHi ⟨acc, .ok, 0⟩ off v) s = .next s) := by
  have hpf := (pairFrozen_ring s (ringPair_lt hk)).trans hf
  exact ⟨fun ho => by rw [exec_ringPairWriteLo on hr hk ho, writeLo_frozen acc v hpf],
    fun ho => by rw [exec_ringPairWriteHi on hr hk ho, writeHi_frozen acc v hpf]⟩

end

/-- A write of _HI outside the rings changes no more than a held value. -/
theorem regPairWriteHi_readOnly (s : State) (acc : Accessor) {off : BitVec 28} {lo : Nat} (v : Word32)
    (ho : off.toNat = lo + 4) (h : lo < 0x11000 ∨ 0x15000 ≤ lo) :
    completes (.regPairWriteHi ⟨acc, .ok, 0⟩ off v) s fun t => t = { s with helds := t.helds } := by
  change ∃ t, execRegPairWriteHi ⟨acc, .ok, 0⟩ off v s = .next t ∧ _
  unfold execRegPairWriteHi
  dsimp only
  split
  · exact ⟨_, rfl, by rw [accessed_plain, ho]; exact writeHi_readOnly s acc v h⟩
  · exact ⟨s, rfl, rfl⟩

/-! ### The clauses about accesses with parity and cycles -/

theorem keptBits_of_kept {par : ParityObs} (o : Nat) (v : Word32) (h : par = .ok ∨ par = .portFail) :
    keptBits o par v = v := by
  rcases h with rfl | rfl <;> rfl

section
variable {s : State} {a : Access} {off : BitVec 28} (h : a.par = .ok ∨ a.par = .portFail)
include h

theorem exec_regPairReadLo_accessed (on : s.board.alwaysOn = true) :
    exec (.regPairReadLo a off) s = exec (.regPairReadLo ⟨a.who, .ok, 0⟩ off) (s.accessed off.toNat a) := by
  change execRegPairReadLo a off s = execRegPairReadLo _ off _
  simp only [execRegPairReadLo, alwaysOn_accessed s _ h, on, Bool.true_eq_false, if_false, accessed_plain,
    keptBits_of_kept _ _ h, keptBits_of_kept _ _ (.inl rfl)]

theorem exec_regPairReadHi_accessed (on : s.board.alwaysOn = true) (hh : s.isHi off.toNat = false) :
    exec (.regPairReadHi a off) s = exec (.regPairReadHi ⟨a.who, .ok, 0⟩ off) (s.accessed off.toNat a) := by
  change execRegPairReadHi a off s = execRegPairReadHi _ off _
  simp only [execRegPairReadHi, alwaysOn_accessed s _ h, isHi_accessed, on, hh, Bool.true_eq_false, Bool.false_eq_true,
    false_and, if_false, accessed_plain, keptBits_of_kept _ _ h, keptBits_of_kept _ _ (.inl rfl)]

theorem exec_regPairWriteLo_accessed (v : Word32) (ht : s.takesWrite off.toNat = true) (hl : s.isLo off.toNat = true) :
    exec (.regPairWriteLo a off v) s = exec (.regPairWriteLo ⟨a.who, .ok, 0⟩ off v) (s.accessed off.toNat a) := by
  rw [exec_regPairWriteLo_takes a.who v ((takesWrite_accessed s _ h).trans ht) ((isLo_accessed s _ a _).trans hl)]
  exact if_pos ⟨ht, hl⟩

theorem exec_regPairWriteHi_accessed (v : Word32) (ht : s.takesWrite off.toNat = true) (hh : s.isHi off.toNat = true) :
    exec (.regPairWriteHi a off v) s = exec (.regPairWriteHi ⟨a.who, .ok, 0⟩ off v) (s.accessed off.toNat a) := by
  rw [exec_regPairWriteHi_takes a.who v ((takesWrite_accessed s _ h).trans ht) ((isHi_accessed s _ a _).trans hh)]
  exact if_pos ⟨ht, hh⟩

end

/-- The cycles that an access to a CORE block brings are counted at its site, and nothing else changes. -/
theorem accessed_core {s : State} {a : Access} {o : Nat} {n : SiteNo} (hp : a.par = .ok) (hc : s.clocked n = true)
    (ho : 0x100000 ≤ o ∧ o < 0x380000) (hn : coreAt o = n) :
    onlySite n s (s.accessed o a) ∧ ((s.accessed o a).site n).cycle = (s.site n).cycle + a.cycles := by
  subst hn
  have hu : s.accessed o a =
      if a.cycles ≠ 0 then s.passed (coreAt o) (s.site (coreAt o)).fetched.1 a.cycles else s := by
    simp only [State.accessed, hp, State.parityCheck, ite_self, ho, hc, and_self, and_true]
  rw [hu]
  split
  case isTrue hk => exact ⟨passed_onlySite s _ _ _, passed_cycle _ hk⟩
  case isFalse hk => exact ⟨⟨rfl, fun _ _ => rfl⟩, by rw [not_not.1 hk]; exact (BitVec.add_zero _).symm⟩

/-- The control registers with a LOCK lose no field to a failed parity check, for all their fields are RW. -/
theorem accessed_control {s : State} {a : Access} {o : Nat} (hp : a.par = .fail) (hc : a.cycles = 0)
    (ho : o ∈ [0x10004, 0x700000, 0x80001C, 0x900004]) : s.accessed o a = s.parityRecord o true := by
  simp only [List.mem_cons, List.not_mem_nil, or_false] at ho
  simp only [State.accessed, hc, hp, ne_eq, not_true, false_and, if_false]
  rcases ho with rfl | rfl | rfl | rfl <;> rfl

/-- A read of a control register whose parity fails records the failure and returns its RW fields. -/
theorem regPairReadLo_control {s : State} {a : Access} {off : BitVec 28} (on : s.board.alwaysOn = true)
    (hp : a.par = .fail) (hc : a.cycles = 0) (ho : off.toNat ∈ [0x10004, 0x700000, 0x80001C, 0x900004]) :
    completes (.regPairReadLo a off) s fun t => logged s t 0x0007 ∧ t.id.parity = satInc s.id.parity ∧
      t.id.errAddr = off ∧ t.sites = s.sites ∧
      ∃ w, t.out = s.out ++ [.regData a.who off w] ∧ w &&& rwBits off.toNat = w := by
  have hn : ¬ pairAt off.toNat := by
    simp only [List.mem_cons, List.not_mem_nil, or_false] at ho
    unfold pairAt corePairAt
    omega
  let u := s.parityRecord off.toNat true
  let w := u.reads off.toNat &&& rwBits off.toNat
  have hx : exec (.regPairReadLo a off) s = .next (u.readOut a.who off w) := by
    change execRegPairReadLo a off s = _
    simp only [execRegPairReadLo, on, Bool.true_eq_false, if_false, accessed_control hp hc ho,
      (pair_eq_none_iff _ off.toNat).2 hn, hp]
    rfl
  have hoff : BitVec.ofNat 28 off.toNat = off := (BitVec.ofNat_toNat 28 off).trans (BitVec.setWidth_eq off)
  exact ⟨_, hx, parityRecord_logged s off.toNat true, rfl, hoff, rfl, w, rfl, by rw [BitVec.and_assoc, BitVec.and_self]⟩

/-! ### REGISTER_WRITE by block (R12, R471, R476) -/

section
variable {s : State} (acc : Accessor) {off : BitVec 28} {o : Nat} (v : Word32)

/-- A write follows the parity check of its register, with what the check leaves of its word. -/
theorem exec_registerWrite_checked (ho : off.toNat = o) (ht : s.takesWrite o = true) {par : ParityObs} {w : Word32}
    (hw : heldBack o par v = some w) :
    exec (.registerWrite acc off v par) s = .next ((s.parityCheck o par).writeReg acc o w) := by
  subst ho
  change execRegisterWrite acc off v par s = _
  simp only [execRegisterWrite, ht, Bool.true_eq_false, if_false, hw]

theorem exec_registerWrite_discarded (ho : off.toNat = o) (ht : s.takesWrite o = true) {par : ParityObs}
    (hw : heldBack o par v = none) : exec (.registerWrite acc off v par) s = .next (s.parityCheck o par) := by
  subst ho
  change execRegisterWrite acc off v par s = _
  simp only [execRegisterWrite, ht, Bool.true_eq_false, if_false, hw]

theorem exec_registerWrite_ok (ho : off.toNat = o) (ht : s.takesWrite o = true) :
    exec (.registerWrite acc off v .ok) s = .next (s.writeReg acc o v) :=
  exec_registerWrite_checked acc v ho ht rfl

end

theorem exec_registerWrite_ignored {s : State} (acc : Accessor) {off : BitVec 28} (v : Word32) (par : ParityObs)
    (ht : s.takesWrite off.toNat = false) : exec (.registerWrite acc off v par) s = .next s := if_pos ht

theorem completes_registerWrite {s : State} {acc : Accessor} {off : BitVec 28} {o : Nat} {v : Word32}
    {P : State → Prop} (ho : off.toNat = o) (ht : s.takesWrite o = true) (hP : P (s.writeReg acc o v)) :
    completes (.registerWrite acc off v .ok) s P := ⟨_, exec_registerWrite_ok acc v ho ht, hP⟩

section
-- A write of a single register takes neither pair branch of State.writeReg, so that the range of its block decides.
variable {s : State} {acc : Accessor} {o : Nat} {v : Word32} (h : singleAt o)
include h

theorem writeReg_id (ho : o < 0x10000) : s.writeReg acc o v = s.writeId o v := by
  grind [State.writeReg, isLo_eq_false s h, isHi_eq_false s h]

theorem writeReg_hst (ho : 0x10000 ≤ o ∧ o < 0x100000) : s.writeReg acc o v = s.writeHst acc (o - 0x10000) v := by
  grind [State.writeReg, isLo_eq_false s h, isHi_eq_false s h]

theorem writeReg_bell (ho : 0x700000 ≤ o ∧ o < 0x800000) : s.writeReg acc o v = s.writeBell (o - 0x700000) v := by
  grind [State.writeReg, isLo_eq_false s h, isHi_eq_false s h]

theorem writeReg_clk (ho : 0x800000 ≤ o ∧ o < 0x900000) : s.writeReg acc o v = s.writeClk (o - 0x800000) v := by
  grind [State.writeReg, isLo_eq_false s h, isHi_eq_false s h]

theorem writeReg_pwr (ho : 0x900000 ≤ o ∧ o < 0xA00000) : s.writeReg acc o v = s.writePwr acc (o - 0x900000) v := by
  grind [State.writeReg, isLo_eq_false s h, isHi_eq_false s h]

theorem writeReg_ic (ho : 0xA00000 ≤ o ∧ o < 0xB00000) : s.writeReg acc o v = s.writeIc acc (o - 0xA00000) v := by
  grind [State.writeReg, isLo_eq_false s h, isHi_eq_false s h]

theorem writeReg_sec (ho : 0xC00000 ≤ o ∧ o < 0xD00000) : s.writeReg acc o v = s.writeSec (o - 0xC00000) v := by
  grind [State.writeReg, isLo_eq_false s h, isHi_eq_false s h]

/-- The FUSE block is RO. -/
theorem writeReg_fuse (ho : 0xD00000 ≤ o ∧ o < 0xE00000) : s.writeReg acc o v = s := by
  grind [State.writeReg, isLo_eq_false s h, isHi_eq_false s h]

theorem writeReg_doorbell (ho : 0x8000000 ≤ o ∧ o < 0x8100000) :
    s.writeReg acc o v = s.writeDoorbell (o - 0x8000000) v := by
  grind [State.writeReg, isLo_eq_false s h, isHi_eq_false s h]

end

/-! ### REGISTER_WRITE of single registers -/

theorem toNat_offset {n : Nat} (h : n < 2 ^ 28) : (BitVec.ofNat 28 n).toNat = n :=
  (BitVec.toNat_ofNat ..).trans (Nat.mod_eq_of_lt h)

section
variable {s : State} {acc : Accessor} {v : Word32}

theorem writeReg_idCtl : s.writeReg acc 0x34 v = { s with id := { s.id with lock := s.id.lock || v.getLsbD 31 } } :=
  writeReg_id (by decide) (by decide)

theorem writeReg_mboxCmd : s.writeReg acc 0xC00004 v = s.writeMboxCmd v := writeReg_sec (by decide) (by decide)

theorem writeReg_inLen : s.writeReg acc 0xC0000C v = { s with sec := { s.sec with inLen := v.extractLsb' 0 17 } } :=
  writeReg_sec (by decide) (by decide)

theorem writeReg_page : s.writeReg acc 0xC00010 v = { s with sec := { s.sec with page := v.extractLsb' 0 5 } } :=
  writeReg_sec (by decide) (by decide)

theorem writeReg_hstCtl : s.writeReg acc 0x10004 v = s.writeHstCtl v := writeReg_hst (by decide) (by decide)

theorem writeReg_pmapIdx :
    s.writeReg acc 0x500010 v = { s with mem := { s.mem with pmapIdx := v.extractLsb' 0 18 } } := rfl

theorem writeReg_bellSel : s.writeReg acc 0x700010 v = { s with coll := { s.coll with sel := v &&& 0xC0001FFF } } :=
  writeReg_bell (by decide) (by decide)

theorem writeReg_seqMask : s.writeReg acc 0xA00060 v = { s with ic := { s.ic with seqMask := v } } :=
  writeReg_ic (by decide) (by decide)

end

theorem writeHstCtl_locked {s : State} (v : Word32) (h : s.host.lock = true) : s.writeHstCtl v = s := if_pos h

theorem writeHstCtl_sets {s : State} (v : Word32) (h : s.host.lock = false) :
    s.writeHstCtl v = { s with host := { s.host with
      hbEn := v.getLsbD 30, lock := v.getLsbD 31, heartbeat := (s.writeHstCtl v).host.heartbeat } } := by
  simp only [State.writeHstCtl, h, Bool.false_eq_true, if_false]

section
variable {s : State} {acc : Accessor} {v : Word32}

theorem writeReg_bellCtl : s.writeReg acc 0x700000 v =
    if s.coll.lock then s else { s with coll := { s.coll with resetAccept := v.getLsbD 30, lock := v.getLsbD 31 } } :=
  writeReg_bell (by decide) (by decide)

theorem writeReg_tbCtl : s.writeReg acc 0x80001C v =
    if s.clk.lock then s else { s with clk := { s.clk with
      master := v.getLsbD 30, parentEn := v.getLsbD 7, parentLink := v.extractLsb' 0 7, lock := v.getLsbD 31 } } := by
  rw [writeReg_clk (by decide) (by decide)]
  simp [State.writeClk]

theorem writeReg_pwrCtl : s.writeReg acc 0x900004 v = s.writePwrCtl v := writeReg_pwr (by decide) (by decide)

theorem writePwrCtl_locked (h : s.pwr.lock = true) : s.writePwrCtl v = s := if_pos h

theorem groupEnd_noGroup (h : s.pwr.groupEn = false) : s.groupEnd = s := if_pos (.inr (.inr h))

/-- With no group running and none asked for, PWR_CTL sets its limit and its LOCK. -/
theorem writePwrCtl_sets (h : s.pwr.lock = false) (hg : s.pwr.groupEn = false) (hv : v.getLsbD 30 = false) :
    s.writePwrCtl v =
      { s with pwr := { s.pwr with limitW := s.clampW (v.extractLsb' 0 16).toNat, lock := v.getLsbD 31 } } := by
  let u : State := { s with pwr := { s.pwr with limitW := s.clampW (v.extractLsb' 0 16).toNat } }
  have hw : s.writePwrCtl v = { u.groupEnd with pwr := { u.groupEnd.pwr with lock := v.getLsbD 31 } } := by
    rw [State.writePwrCtl, h, hv]
    rfl
  rw [hw, groupEnd_noGroup (s := u) hg]

theorem writeReg_total : s.writeReg acc 0x900008 v =
    if s.pwr.tableFrozen then s else { s with pwr := { s.pwr with totalW := v.extractLsb' 0 20 } } :=
  writeReg_pwr (by decide) (by decide)

/-- The members take no write once LOCK is 1. -/
theorem writeReg_member_locked {k : Nat} (hk : k < 64) (h : s.pwr.lock = true) :
    s.writeReg acc (0x900100 + 4 * k) v = s := by
  have hs : singleAt (0x900100 + 4 * k) := by unfold singleAt pairAt corePairAt; omega
  have ht : s.pwr.tableFrozen = true := by simp [Power.tableFrozen, h]
  rw [writeReg_pwr hs (by omega), show 0x900100 + 4 * k - 0x900000 = 0x100 + 4 * k by omega]
  simp only [State.writePwr, ht, if_true]
  rw [if_neg (by omega), if_neg (by omega), if_neg (by omega), if_pos (by omega)]

theorem writeReg_msgData {r : RingNo} (hf : (s.ring r).frozen = false) :
    s.writeReg acc (0x11018 + 64 * r.val) v = s.setRing r { s.ring r with msgData := v } := by
  have hs : singleAt (0x11018 + 64 * r.val) := by unfold singleAt pairAt corePairAt; omega
  have hr : ringAt (0x1018 + 64 * r.val) = r := Fin.ext (by simp only [ringAt]; omega)
  rw [writeReg_hst hs (by omega), show 0x11018 + 64 * r.val - 0x10000 = 0x1018 + 64 * r.val by omega, State.writeHst,
    if_neg (by omega), if_neg (by omega), if_neg (by omega), if_pos (by omega), if_pos (by omega), hr, hf]
  rfl

/-- A threshold is set for its target alone, and the lines of the targets follow. -/
theorem writeReg_threshold {k : Nat} (hk : k < 3) :
    s.writeReg acc (0xA00050 + 4 * k) v = State.icLower { s with ic := { s.ic with
      thresholds := tset (fun _ => 0) s.ic.thresholds k (v.extractLsb' 0 3) } } := by
  have hs : singleAt (0xA00050 + 4 * k) := by unfold singleAt pairAt corePairAt; omega
  rw [writeReg_ic hs (by omega), show 0xA00050 + 4 * k - 0xA00000 = 0x50 + 4 * k by omega]
  simp only [State.writeIc]
  rw [if_neg (by omega), if_neg (by omega), if_pos (by omega), show (0x50 + 4 * k - 0x50) / 4 = k by omega]

end

/-! ### The mailbox command (R449) -/

theorem mboxKnown_iff (c : Byte) : mboxKnown c = true ↔ c ∈ [(1 : Byte), 2, 3, 4, 5, 6, 16, 17, 18] :=
  List.contains_iff_mem

theorem writeMboxCmd_known {s : State} {v : Word32} (hb : s.sec.busy = false)
    (hk : v.extractLsb' 0 8 ∈ [(1 : Byte), 2, 3, 4, 5, 6, 16, 17, 18]) :
    s.writeMboxCmd v = { s with sec := { s.sec with busy := true } } := by
  simp only [State.writeMboxCmd, hb, (mboxKnown_iff _).2 hk, Bool.false_eq_true, if_false, if_true]

theorem writeMboxCmd_unknown {s : State} {v : Word32} (hb : s.sec.busy = false)
    (hk : v.extractLsb' 0 8 ∉ [(1 : Byte), 2, 3, 4, 5, 6, 16, 17, 18]) : s.writeMboxCmd v = s.mboxDone 2 [] := by
  simp only [State.writeMboxCmd, hb, mt (mboxKnown_iff _).1 hk, Bool.false_eq_true, if_false]

/-! ### Doorbells (R315) -/

theorem execSqTail_next (r : RingNo) (v : Word32) (s : State) :
    execSqTail r v s = .next (stateAfter s (execSqTail r v s)) := by
  unfold execSqTail
  dsimp only
  split_ifs <;> rfl

theorem execCqHead_next (r : RingNo) (v : Word32) (s : State) :
    execCqHead r v s = .next (stateAfter s (execCqHead r v s)) := by
  unfold execCqHead
  dsimp only
  split_ifs <;> rfl

theorem not_answers_doorbell {s : State} {o : Nat} (ho : 0x8000000 ≤ o) (hr : s.host.ready = false) :
    s.answers o = false := answers_eq_false hr (by omega) (by omega)

section
variable (s : State) (acc : Accessor) (r : RingNo) (v : Word32)

theorem writeReg_sqTail :
    s.writeReg acc (0x8000000 + 4096 * r.val) v = stateAfter s (execSqTail r v s) := by
  have hs : singleAt (0x8000000 + 4096 * r.val) := by unfold singleAt pairAt corePairAt; omega
  have hr : (⟨4096 * r.val / 4096 % 256, Nat.mod_lt _ (by decide)⟩ : RingNo) = r :=
    Fin.ext (by dsimp only; omega)
  rw [writeReg_doorbell hs (by omega), Nat.add_sub_cancel_left]
  simp only [State.writeDoorbell, hr]
  rw [if_pos (by omega)]

theorem writeReg_cqHead :
    s.writeReg acc (0x8000004 + 4096 * r.val) v = stateAfter s (execCqHead r v s) := by
  have hs : singleAt (0x8000004 + 4096 * r.val) := by unfold singleAt pairAt corePairAt; omega
  have hr : (⟨(4 + 4096 * r.val) / 4096 % 256, Nat.mod_lt _ (by decide)⟩ : RingNo) = r :=
    Fin.ext (by dsimp only; omega)
  rw [writeReg_doorbell hs (by omega), show 0x8000004 + 4096 * r.val - 0x8000000 = 4 + 4096 * r.val by omega]
  simp only [State.writeDoorbell, hr]
  rw [if_neg (by omega), if_pos (by omega)]

/-- A doorbell write is the row SQ_TAIL. -/
theorem exec_registerWrite_sqTail (on : s.board.alwaysOn = true) :
    exec (.registerWrite acc (BitVec.ofNat 28 (0x8000000 + 4096 * r.val)) v .ok) s = exec (.sqTail r v) s := by
  have ho : (BitVec.ofNat 28 (0x8000000 + 4096 * r.val)).toNat = 0x8000000 + 4096 * r.val := toNat_offset (by omega)
  change _ = execSqTail r v s
  cases hr : s.host.ready with
  | false =>
    rw [exec_registerWrite_ignored acc v .ok
      (takesWrite_eq_false (.inr (by rw [ho]; exact not_answers_doorbell (by omega) hr))), execSqTail, if_pos hr]
  | true =>
    rw [exec_registerWrite_ok acc v ho (takesWrite_offCores on (by omega) (by omega) (answers_of_ready _ hr)),
      writeReg_sqTail, ← execSqTail_next]

/-- A doorbell write is the row CQ_HEAD. -/
theorem exec_registerWrite_cqHead (on : s.board.alwaysOn = true) :
    exec (.registerWrite acc (BitVec.ofNat 28 (0x8000004 + 4096 * r.val)) v .ok) s = exec (.cqHead r v) s := by
  have ho : (BitVec.ofNat 28 (0x8000004 + 4096 * r.val)).toNat = 0x8000004 + 4096 * r.val := toNat_offset (by omega)
  change _ = execCqHead r v s
  cases hr : s.host.ready with
  | false =>
    rw [exec_registerWrite_ignored acc v .ok
      (takesWrite_eq_false (.inr (by rw [ho]; exact not_answers_doorbell (by omega) hr))), execCqHead, if_pos hr]
  | true =>
    rw [exec_registerWrite_ok acc v ho (takesWrite_offCores on (by omega) (by omega) (answers_of_ready _ hr)),
      writeReg_cqHead, ← execCqHead_next]

end

/-! ### Writes whose parity fails (R475) -/

section
variable {s : State} (acc : Accessor) (v : Word32)

/-- ID_CTL is restored from its copy, and the write is then made. -/
theorem registerWrite_idCtl_fail (ht : s.takesWrite 0x34 = true) :
    completes (.registerWrite acc 0x34 v .fail) s fun t => logged s t 0x0007 ∧
      t = { s with
        id := { s.id with lock := s.id.lock || v.getLsbD 31, parity := satInc s.id.parity, errAddr := 0x34 },
        flt := t.flt, jrnl := t.jrnl } := by
  have hc : s.parityCheck 0x34 .fail = s.parityRecord 0x34 true := rfl
  refine ⟨_, exec_registerWrite_checked (o := 0x34) acc v rfl ht rfl, ?_⟩
  rw [hc, writeReg_idCtl]
  exact ⟨parityRecord_logged s 0x34 true, rfl⟩

/-- A doorbell's failed word is recorded and discarded. -/
theorem registerWrite_doorbell_portFail (r : RingNo) (ht : s.takesWrite (0x8000000 + 4096 * r.val) = true) :
    completes (.registerWrite acc (BitVec.ofNat 28 (0x8000000 + 4096 * r.val)) v .portFail) s fun t =>
      logged s t 0x0007 ∧
      t = { s with
        id := { s.id with parity := satInc s.id.parity, errAddr := BitVec.ofNat 28 (0x8000000 + 4096 * r.val) },
        flt := t.flt, jrnl := t.jrnl } := by
  have hw : woOnly (0x8000000 + 4096 * r.val) = true := by
    simp only [woOnly, Bool.or_eq_true, Bool.and_eq_true, decide_eq_true_eq]
    omega
  have hc : s.parityCheck (0x8000000 + 4096 * r.val) .portFail = s.parityRecord (0x8000000 + 4096 * r.val) false :=
    if_pos (.inl hw)
  refine ⟨_, exec_registerWrite_discarded acc v (toNat_offset (by omega)) ht (if_pos hw), ?_⟩
  rw [hc]
  exact ⟨parityRecord_logged s _ false, rfl⟩

/-- HST_CTL with both copies failed is LOCKED at its reset value, so that the write is ignored. -/
theorem registerWrite_hstCtl_failBoth (ht : s.takesWrite 0x10004 = true) :
    completes (.registerWrite acc 0x10004 v .failBoth) s fun t => logged s t 0x0007 ∧
      t = { s with
        id := { s.id with parity := satInc s.id.parity, errAddr := 0x10004, copyLost := true },
        host := { s.host with lock := true, hbEn := false }, flt := t.flt, jrnl := t.jrnl } := by
  let u : State := { s with id := { s.id with copyLost := true }, host := { s.host with lock := true, hbEn := false } }
  have hc : s.parityCheck 0x10004 .failBoth = u.parityRecord 0x10004 false := rfl
  refine ⟨_, exec_registerWrite_checked (o := 0x10004) acc v rfl ht rfl, ?_⟩
  rw [hc, writeReg_hstCtl, writeHstCtl_locked (s := u.parityRecord 0x10004 false) v rfl]
  exact ⟨parityRecord_logged u 0x10004 false, rfl⟩

end

/-! ### The device number (R480) -/

theorem numberFree_iff (s : State) : s.numberFree = true ↔
    (∀ l : LinkNo, (s.link l).st = .absent ∨ (s.link l).st = .down) ∧
      ∀ h : HamletNo, (s.hamlet h).exists_ = false := by
  simp only [State.numberFree, Bool.and_eq_true, List.all_eq_true, List.mem_finRange, true_imp_iff, Bool.not_eq_true']
  refine and_congr (forall_congr' fun l => ?_) Iff.rfl
  cases (s.link l).st <;> simp

/-- The state in which a written device number is journaled. -/
def devnumJournaled (s : State) (d : BitVec 12) : State :=
  { s with jrnl := { (s.jrnl.append (.config 2 (d.setWidth 64))) with devNum := some d } }

section
variable {s : State} (d : BitVec 12)

theorem writeDevnum_locked (h : s.id.lock = true) : s.writeDevnum d = s := if_pos h

theorem writeDevnum_atOnce (h : s.id.lock = false) (hf : s.numberFree = true) :
    s.writeDevnum d = { devnumJournaled s d with
      id := { s.id with dev := d, valid := true, pending := false, next := 0 } } := by
  have hf' : (devnumJournaled s d).numberFree = true := hf
  rw [State.writeDevnum, h]
  exact if_pos hf'

theorem writeDevnum_pending (h : s.id.lock = false) (hf : ¬ s.numberFree = true) :
    s.writeDevnum d = { devnumJournaled s d with id := { s.id with next := d, pending := true } } := by
  have hf' : ¬ (devnumJournaled s d).numberFree = true := hf
  rw [State.writeDevnum, h]
  exact if_neg hf'

end

theorem exec_idDevnumWrite {s : State} (acc : Accessor) (v : Word32) (on : s.board.alwaysOn = true) :
    exec (.idDevnumWrite acc v) s = .next (s.writeDevnum (v.extractLsb' 0 12)) :=
  if_neg (by simp [on])

/-! ### The statement -/

/-- An access that is not aligned, or to a block that does not answer before READY. -/
theorem notCarriedOut {s : State} {o : Nat}
    (h : o % 4 ≠ 0 ∨ s.host.ready = false ∧ 0x10010 ≤ o ∧ ¬ (0xC00000 ≤ o ∧ o < 0xE00000)) :
    o % 4 ≠ 0 ∨ s.answers o = false :=
  h.imp_right fun ⟨hr, ho, hs⟩ => answers_eq_false hr ho hs

/-- Writes of the blocks that answer at every stage: ID, SEC and FUSE. -/
theorem registerWrite_always {s : State} (acc : Accessor) (v : Word32) (on : s.board.alwaysOn = true) :
    completes (.registerWrite acc 0x34 v .ok) s
      (· = { s with id := { s.id with lock := s.id.lock || v.getLsbD 31 } }) ∧
    (s.sec.busy = false → v.extractLsb' 0 8 ∈ [(1 : Byte), 2, 3, 4, 5, 6, 16, 17, 18] →
      completes (.registerWrite acc 0xC00004 v .ok) s (· = { s with sec := { s.sec with busy := true } })) ∧
    (s.sec.busy = false → v.extractLsb' 0 8 ∉ [(1 : Byte), 2, 3, 4, 5, 6, 16, 17, 18] →
      completes (.registerWrite acc 0xC00004 v .ok) s fun t => replied s t 2 []) ∧
    completes (.registerWrite acc 0xC0000C v .ok) s
      (· = { s with sec := { s.sec with inLen := v.extractLsb' 0 17 } }) ∧
    completes (.registerWrite acc 0xC00010 v .ok) s
      (· = { s with sec := { s.sec with page := v.extractLsb' 0 5 } }) ∧
    ∀ off : BitVec 28, 0xD00000 ≤ off.toNat → off.toNat < 0xE00000 → off ≠ 0xD00008 → off ≠ 0xD0000C →
      completes (.registerWrite acc off v .ok) s (· = s) := by
  have sec : ∀ o, o % 4 = 0 → 0xC00000 ≤ o ∧ o < 0xE00000 → s.takesWrite o = true := fun o h4 ho =>
    takesWrite_offCores on h4 (by omega) (answers_sec s ho)
  refine ⟨?idCtl, fun hb hk => ?known, fun hb hk => ?unknown, ?inLen, ?page, fun off h0 h1 hlo hhi => ?fuse⟩
  case idCtl =>
    exact completes_registerWrite (o := 0x34) rfl
      (takesWrite_offCores on rfl (by decide) (answers_id s (by decide))) writeReg_idCtl
  case known =>
    exact completes_registerWrite (o := 0xC00004) rfl (sec _ rfl (by decide))
      (writeReg_mboxCmd.trans (writeMboxCmd_known hb hk))
  case unknown =>
    refine completes_registerWrite (o := 0xC00004) rfl (sec _ rfl (by decide)) ?_
    rw [writeReg_mboxCmd, writeMboxCmd_unknown hb hk]
    exact ⟨rfl, rfl⟩
  case inLen => exact completes_registerWrite (o := 0xC0000C) rfl (sec _ rfl (by decide)) writeReg_inLen
  case page => exact completes_registerWrite (o := 0xC00010) rfl (sec _ rfl (by decide)) writeReg_page
  case fuse =>
    have hlo' : off.toNat ≠ 0xD00008 := fun e => hlo (BitVec.eq_of_toNat_eq e)
    have hhi' : off.toNat ≠ 0xD0000C := fun e => hhi (BitVec.eq_of_toNat_eq e)
    have hs : singleAt off.toNat := by unfold singleAt pairAt corePairAt; omega
    by_cases h4 : off.toNat % 4 = 0
    · exact completes_registerWrite rfl (sec _ h4 ⟨by omega, h1⟩) (writeReg_fuse hs ⟨h0, h1⟩)
    · exact ⟨s, exec_registerWrite_ignored acc v .ok (takesWrite_eq_false (.inl h4)), rfl⟩

section
variable {s : State} (acc : Accessor) (v : Word32) (on : s.board.alwaysOn = true) (hr : s.host.ready = true)
include on hr

theorem takesWrite_ready {o : Nat} (h4 : o % 4 = 0) (hc : o < 0x100000 ∨ 0x380000 ≤ o) : s.takesWrite o = true :=
  takesWrite_offCores on h4 hc (answers_of_ready o hr)

/-- HST_CTL, BELL_CTL, CLK_TB_CTL and PWR_CTL set their fields and LOCK together. -/
theorem registerWrite_control_sets :
    (s.host.lock = false → completes (.registerWrite acc 0x10004 v .ok) s fun t =>
      t = { s with host := { s.host with
        hbEn := v.getLsbD 30, lock := v.getLsbD 31, heartbeat := t.host.heartbeat } }) ∧
    (s.coll.lock = false → completes (.registerWrite acc 0x700000 v .ok) s
      (· = { s with coll := { s.coll with resetAccept := v.getLsbD 30, lock := v.getLsbD 31 } })) ∧
    (s.clk.lock = false → completes (.registerWrite acc 0x80001C v .ok) s
      (· = { s with clk := { s.clk with
        master := v.getLsbD 30, parentEn := v.getLsbD 7, parentLink := v.extractLsb' 0 7, lock := v.getLsbD 31 } })) ∧
    (s.pwr.lock = false → s.pwr.groupEn = false → v.getLsbD 30 = false →
      completes (.registerWrite acc 0x900004 v .ok) s
        (· = { s with pwr := { s.pwr with
          limitW := s.clampW (v.extractLsb' 0 16).toNat, lock := v.getLsbD 31 } })) := by
  refine ⟨fun h => ?hst, fun h => ?bell, fun h => ?clk, fun h hg hv => ?pwr⟩
  case hst =>
    refine completes_registerWrite (o := 0x10004) rfl (takesWrite_ready on hr rfl (by decide)) ?_
    rw [writeReg_hstCtl]
    exact writeHstCtl_sets v h
  case bell =>
    exact completes_registerWrite (o := 0x700000) rfl (takesWrite_ready on hr rfl (by decide))
      (writeReg_bellCtl.trans (if_neg (Bool.eq_false_iff.1 h)))
  case clk =>
    exact completes_registerWrite (o := 0x80001C) rfl (takesWrite_ready on hr rfl (by decide))
      (writeReg_tbCtl.trans (if_neg (Bool.eq_false_iff.1 h)))
  case pwr =>
    exact completes_registerWrite (o := 0x900004) rfl (takesWrite_ready on hr rfl (by decide))
      (writeReg_pwrCtl.trans (writePwrCtl_sets h hg hv))

/-- They set nothing once LOCK is 1, and neither do the total and the members of the group. -/
theorem registerWrite_control_locked :
    (s.host.lock = true → completes (.registerWrite acc 0x10004 v .ok) s (· = s)) ∧
    (s.coll.lock = true → completes (.registerWrite acc 0x700000 v .ok) s (· = s)) ∧
    (s.clk.lock = true → completes (.registerWrite acc 0x80001C v .ok) s (· = s)) ∧
    (s.pwr.lock = true → ∀ k, k < 64 → ∀ off ∈ [0x900004, 0x900008, BitVec.ofNat 28 (0x900100 + 4 * k)],
      completes (.registerWrite acc off v .ok) s (· = s)) := by
  refine ⟨fun h => ?hst, fun h => ?bell, fun h => ?clk, fun h k hk => ?pwr⟩
  case hst =>
    exact completes_registerWrite (o := 0x10004) rfl (takesWrite_ready on hr rfl (by decide))
      (writeReg_hstCtl.trans (writeHstCtl_locked v h))
  case bell =>
    exact completes_registerWrite (o := 0x700000) rfl (takesWrite_ready on hr rfl (by decide))
      (writeReg_bellCtl.trans (if_pos h))
  case clk =>
    exact completes_registerWrite (o := 0x80001C) rfl (takesWrite_ready on hr rfl (by decide))
      (writeReg_tbCtl.trans (if_pos h))
  case pwr =>
    have ht : s.pwr.tableFrozen = true := by simp [Power.tableFrozen, h]
    simp only [List.forall_mem_cons, List.not_mem_nil, false_imp_iff, implies_true, and_true]
    exact ⟨completes_registerWrite (o := 0x900004) rfl (takesWrite_ready on hr rfl (by decide))
        (writeReg_pwrCtl.trans (writePwrCtl_locked h)),
      completes_registerWrite (o := 0x900008) rfl (takesWrite_ready on hr rfl (by decide))
        (writeReg_total.trans (if_pos ht)),
      completes_registerWrite (toNat_offset (by omega)) (takesWrite_ready on hr (by omega) (by omega))
        (writeReg_member_locked hk h)⟩

/-- The other registers of the blocks that answer at READY take the value that is written. -/
theorem registerWrite_value_sets :
    (s.pwr.lock = false → s.pwr.groupEn = false → completes (.registerWrite acc 0x900008 v .ok) s
      (· = { s with pwr := { s.pwr with totalW := v.extractLsb' 0 20 } })) ∧
    (∀ r : RingNo, (s.ring r).active = false → (s.ring r).owner = none →
      completes (.registerWrite acc (BitVec.ofNat 28 (0x11018 + 64 * r.val)) v .ok) s
        (· = s.setRing r { s.ring r with msgData := v })) ∧
    completes (.registerWrite acc 0x700010 v .ok) s
      (· = { s with coll := { s.coll with sel := v &&& 0xC0001FFF } }) ∧
    (∀ k, k < 3 → completes (.registerWrite acc (BitVec.ofNat 28 (0xA00050 + 4 * k)) v .ok) s fun t =>
      t = { s with ic := { s.ic with thresholds := t.ic.thresholds, lines := t.ic.lines } } ∧
      tget (fun _ => 0) t.ic.thresholds k = v.extractLsb' 0 3 ∧
      ∀ j, j ≠ k → tget (fun _ => 0) t.ic.thresholds j = tget (fun _ => 0) s.ic.thresholds j) ∧
    completes (.registerWrite acc 0xA00060 v .ok) s (· = { s with ic := { s.ic with seqMask := v } }) ∧
    completes (.registerWrite acc 0x500010 v .ok) s
      (· = { s with mem := { s.mem with pmapIdx := v.extractLsb' 0 18 } }) := by
  refine ⟨fun h hg => ?total, fun r ha ho => ?msgData, ?bellSel, fun k hk => ?threshold, ?seqMask, ?pmapIdx⟩
  case total =>
    have ht : ¬ s.pwr.tableFrozen = true := by simp [Power.tableFrozen, h, hg]
    exact completes_registerWrite (o := 0x900008) rfl (takesWrite_ready on hr rfl (by decide))
      (writeReg_total.trans (if_neg ht))
  case msgData =>
    exact completes_registerWrite (toNat_offset (by omega)) (takesWrite_ready on hr (by omega) (by omega))
      (writeReg_msgData (frozen_eq_false ha ho))
  case bellSel =>
    exact completes_registerWrite (o := 0x700010) rfl (takesWrite_ready on hr rfl (by decide)) writeReg_bellSel
  case threshold =>
    refine completes_registerWrite (toNat_offset (by omega)) (takesWrite_ready on hr (by omega) (by omega)) ?_
    rw [writeReg_threshold hk]
    exact ⟨rfl, tget_tset_same _ _ _ _, fun j hj => tget_tset_other _ _ _ hj⟩
  case seqMask =>
    exact completes_registerWrite (o := 0xA00060) rfl (takesWrite_ready on hr rfl (by decide)) writeReg_seqMask
  case pmapIdx =>
    exact completes_registerWrite (o := 0x500010) rfl (takesWrite_ready on hr rfl (by decide)) writeReg_pmapIdx

end

/-- Settles O59: each clause is a lemma about the rows of a pair, the block that a write falls in, or what an access
brings before it is carried out. -/
theorem registerAccess : Obligations.RegisterAccess := by
  unfold Obligations.RegisterAccess
  refine ⟨?ignored, ?pairRead, ?ringPair, ?readOnlyPair, ?always, ?ready, ?devnum, ?accessed, ?cycles, ?control⟩
  case ignored =>
    intro s acc off v par on h
    have hn := notCarriedOut h
    have ht := takesWrite_eq_false hn
    refine ⟨fun row hrow => ⟨_, regPairRead_ignored acc on hn row hrow, rfl⟩, ?_⟩
    simp only [List.forall_mem_cons, List.not_mem_nil, false_imp_iff, implies_true, and_true]
    exact ⟨⟨s, exec_regPairWriteLo_ignored _ v ht, rfl⟩, ⟨s, exec_regPairWriteHi_ignored _ v ht, rfl⟩,
      ⟨s, exec_registerWrite_ignored acc v par ht, rfl⟩⟩
  case pairRead =>
    exact fun s acc off lo p on hp => ⟨fun ho ha => regPairReadLo_captures acc on hp ho ha, fun ho ha =>
      ⟨fun v hv => regPairReadHi_captured on hp ho ha hv, fun hv => regPairReadHi_current on hp ho ha hv⟩⟩
  case ringPair =>
    intro s acc off r k v on hr hk
    refine ⟨fun hf => ?_, fun ha ho => ?_⟩
    · obtain ⟨lo, hi⟩ := ringPairWrite_frozen (acc := acc) (off := off) (v := v) on hr hk ((frozen_iff _).2 hf)
      exact ⟨fun h => ⟨s, lo h, rfl⟩, fun h => ⟨s, hi h, rfl⟩⟩
    · exact ⟨fun h => ringPairWriteLo_held on hr hk (frozen_eq_false ha ho) h,
        fun h => ringPairWriteHi_sets on hr hk (frozen_eq_false ha ho) h⟩
  case readOnlyPair => exact fun s acc off lo v ho h => regPairWriteHi_readOnly s acc v ho h
  case always =>
    intro s acc v on
    obtain ⟨idCtl, known, unknown, inLen, page, fuse⟩ := registerWrite_always acc v on
    exact ⟨idCtl, known, unknown, inLen, page, fuse,
      registerWrite_idCtl_fail acc v (takesWrite_offCores on rfl (by decide) (answers_id s (by decide))),
      fun r => ⟨exec_registerWrite_sqTail s acc r v on, exec_registerWrite_cqHead s acc r v on⟩⟩
  case ready =>
    intro s acc v on hr
    obtain ⟨hst, bell, clk, pwr⟩ := registerWrite_control_sets acc v on hr
    obtain ⟨hstL, bellL, clkL, pwrL⟩ := registerWrite_control_locked acc v on hr
    obtain ⟨total, msgData, bellSel, threshold, seqMask, pmapIdx⟩ := registerWrite_value_sets acc v on hr
    exact ⟨hst, bell, clk, pwr, hstL, bellL, clkL, pwrL, total, msgData, bellSel, threshold, seqMask, pmapIdx,
      fun r => registerWrite_doorbell_portFail acc v r (takesWrite_ready on hr (by omega) (by omega)),
      registerWrite_hstCtl_failBoth acc v (takesWrite_ready on hr rfl (by decide))⟩
  case devnum =>
    intro s acc v on
    have hx := exec_idDevnumWrite acc v on
    refine ⟨fun h => ⟨_, hx, writeDevnum_locked _ h⟩, fun h hl hh => ⟨_, hx, ?_⟩,
      fun h hu => ⟨_, hx, ?_⟩⟩
    · exact writeDevnum_atOnce _ h ((numberFree_iff s).2 ⟨hl, hh⟩)
    · refine writeDevnum_pending _ h fun hf => ?_
      obtain ⟨hl, hh⟩ := (numberFree_iff s).1 hf
      rcases hu with ⟨l, ha, hd⟩ | ⟨n, hn⟩
      · exact (hl l).elim ha hd
      · simp [hh n] at hn
  case accessed =>
    exact fun s a off v on h => ⟨exec_regPairReadLo_accessed h on, exec_regPairReadHi_accessed h on,
      exec_regPairWriteLo_accessed h v, exec_regPairWriteHi_accessed h v⟩
  case cycles => exact fun s a off n hp hc h0 h1 hn _ => accessed_core hp hc ⟨h0, h1⟩ hn
  case control =>
    intro s a off on _ hp hc ho
    refine regPairReadLo_control on hp hc ?_
    simp only [List.mem_cons, List.not_mem_nil, or_false] at ho
    rcases ho with rfl | rfl | rfl | rfl <;> decide

end Sys2Proof.Machine
end

section
/-!
PROOF. Dispatch of a bundle (05_instruction_set.md R125, R128, R152): what comes before the cycle in which a bundle is
tried, the bundle that waits, the results of SCALAR syllables, and the two statements assembled from these.
-/

namespace Sys2Proof.Machine

/-! ### Only a site and the log -/

theorem siteAndLog_trans {n : SiteNo} {s t u : State} (h : siteAndLog n s t) (k : siteAndLog n t u) :
    siteAndLog n s u := by
  obtain ⟨ht, hts⟩ := h
  obtain ⟨hu, hus⟩ := k
  exact ⟨by rw [hu, ht], fun m hm => (hus m hm).trans (hts m hm)⟩

theorem onlySite_siteAndLog {n : SiteNo} {s t : State} (h : onlySite n s t) : siteAndLog n s t := by
  obtain ⟨ht, hts⟩ := h
  exact ⟨by rw [ht], hts⟩

theorem onlySite_modSite (s : State) (n : SiteNo) (f : Site → Site) : onlySite n s (s.modSite n f) :=
  ⟨rfl, fun _ hm => State.site_modSite_other s f hm⟩

/-- A core has its clock by its power state and the clock regions alone (R116). -/
theorem clocked_siteAndLog {n : SiteNo} {s t : State} (h : siteAndLog n s t)
    (hp : (t.site n).pwr = (s.site n).pwr) : t.clocked n = s.clocked n := by
  have hr (r : RegionNo) : t.region r = s.region r := (congrArg (fun x : State => x.region r) h.1).trans rfl
  simp only [State.clocked, hp, hr]

/-! ### Records and reports (R402, R423) -/

theorem insertReport_length (u : Word64) (r : Report) (l : List (Word64 × Report)) :
    (insertReport u r l).length = l.length + 1 := by
  induction l with
  | nil => rfl
  | cons q l ih =>
    unfold insertReport
    split
    · rfl
    · exact congrArg (· + 1) ih

theorem mem_insertReport (u : Word64) (r : Report) (l : List (Word64 × Report)) : (u, r) ∈ insertReport u r l := by
  induction l with
  | nil => exact List.mem_singleton.2 rfl
  | cons q l ih =>
    unfold insertReport
    split
    · exact List.mem_cons_self
    · exact List.mem_cons_of_mem _ ih

theorem report_logged (s : State) (cls : BitVec 16) (site : Option SiteNo) (detail : Word32) (addr : Word64) :
    logged s (s.report cls site detail addr) cls := record_logged s (s.plainRec cls site detail addr)

theorem report_told (s : State) (cls : BitVec 16) (site : Option SiteNo) (detail : Word32) (addr : Word64) :
    told s (s.report cls site detail addr) cls site :=
  ⟨insertReport_length _ _ _, _, mem_insertReport _ _ _, rfl, rfl⟩

/-! ### Errors of the stores (R88, R97, R158) -/

/-- What ECC found has been dealt with: but for the log, only the counters of a site's stores have changed, and whether
its sequencer runs. -/
def eccChecked (n : SiteNo) (s t : State) : Prop :=
  siteAndLog n s t ∧ ((t.site n).seq = .running → (s.site n).seq = .running) ∧
  ∃ q p w, t.site n = { s.site n with seq := q, psEcc := p, wsEcc := w }

theorem eccChecked_refl (n : SiteNo) (s : State) : eccChecked n s s :=
  ⟨⟨rfl, fun _ _ => rfl⟩, id, (s.site n).seq, (s.site n).psEcc, (s.site n).wsEcc, rfl⟩

theorem eccChecked_trans {n : SiteNo} {s t u : State} (h : eccChecked n s t) (k : eccChecked n t u) :
    eccChecked n s u := by
  obtain ⟨hl, hr, _, _, _, ht⟩ := h
  obtain ⟨kl, kr, q, p, w, hu⟩ := k
  exact ⟨siteAndLog_trans hl kl, fun hq => hr (kr hq), q, p, w, by rw [hu, ht]⟩

theorem stop_of_running {c : Site} (h : c.seq = .running) : c.stop = { c with seq := .stopped } :=
  if_neg (by rw [h]; decide)

theorem hwFault_siteAndLog (s : State) (n : SiteNo) (cls : BitVec 16) (detail : Word32) (addr : Word64) :
    siteAndLog n s (s.hwFault n cls detail addr) :=
  ⟨rfl, fun _ hm => State.site_modSite_other s _ hm⟩

theorem hwFault_site (s : State) (n : SiteNo) (cls : BitVec 16) (detail : Word32) (addr : Word64) :
    (s.hwFault n cls detail addr).site n = (s.site n).stop := State.site_modSite_same s n _

section
variable {s : State} {n : SiteNo}

theorem psLost_siteAndLog (b : BitVec 16) : siteAndLog n s (s.psLost n b) :=
  siteAndLog_trans (onlySite_siteAndLog (onlySite_modSite s n _)) (hwFault_siteAndLog _ n _ _ _)

theorem psLost_site (h : (s.site n).seq = .running) (b : BitVec 16) : (s.psLost n b).site n =
    { s.site n with seq := .stopped, psEcc := eccUncorrectable (s.site n).psEcc } := by
  rw [State.psLost, hwFault_site, State.site_modSite_same]
  exact stop_of_running h

theorem psLost_not_running (h : (s.site n).seq = .running) (b : BitVec 16) :
    ((s.psLost n b).site n).seq ≠ .running := by
  rw [psLost_site h]
  exact (by decide : SeqState.stopped ≠ .running)

theorem wsLost_siteAndLog (a : Nat) : siteAndLog n s (s.wsLost n a) :=
  siteAndLog_trans (onlySite_siteAndLog (onlySite_modSite s n _)) (hwFault_siteAndLog _ n _ _ _)

theorem wsLost_site (h : (s.site n).seq = .running) (a : Nat) : (s.wsLost n a).site n =
    { s.site n with seq := .stopped, wsEcc := eccUncorrectable (s.site n).wsEcc } := by
  rw [State.wsLost, hwFault_site, State.site_modSite_same]
  exact stop_of_running h

/-- A bundle's uncorrectable word is recorded and told with class 0x0009 (R88). -/
theorem psLost_logged (b : BitVec 16) : logged s (s.psLost n b) 0x0009 := report_logged (State.modSite _ n _) _ _ _ _

theorem psLost_told (b : BitVec 16) : told s (s.psLost n b) 0x0009 (some n) :=
  report_told (State.modSite _ n _) _ _ _ _

theorem psLost_eccChecked (h : (s.site n).seq = .running) (b : BitVec 16) : eccChecked n s (s.psLost n b) :=
  ⟨psLost_siteAndLog b, fun _ => h, _, _, _, psLost_site h b⟩

theorem wsLost_eccChecked (h : (s.site n).seq = .running) (a : Nat) : eccChecked n s (s.wsLost n a) :=
  ⟨wsLost_siteAndLog a, fun _ => h, _, _, _, wsLost_site h a⟩

theorem corrected_siteAndLog (s : State) (n : SiteNo) (store off : Nat) : siteAndLog n s (s.corrected n store off) :=
  ⟨rfl, fun _ _ => rfl⟩

theorem corrected_site (s : State) (n : SiteNo) (store off : Nat) : (s.corrected n store off).site n = s.site n := rfl

theorem psFixed_site (b : BitVec 16) :
    (s.psFixed n b).site n = { s.site n with psEcc := eccCorrected (s.site n).psEcc } := by
  rw [State.psFixed, corrected_site, State.site_modSite_same]

theorem wsFixed_site (a : Nat) :
    (s.wsFixed n a).site n = { s.site n with wsEcc := eccCorrected (s.site n).wsEcc } := by
  rw [State.wsFixed, corrected_site, State.site_modSite_same]

theorem psFixed_eccChecked (h : (s.site n).seq = .running) (b : BitVec 16) : eccChecked n s (s.psFixed n b) :=
  ⟨siteAndLog_trans (onlySite_siteAndLog (onlySite_modSite s n _)) (corrected_siteAndLog _ n _ _), fun _ => h, _, _, _,
    psFixed_site b⟩

theorem wsFixed_eccChecked (h : (s.site n).seq = .running) (a : Nat) : eccChecked n s (s.wsFixed n a) :=
  ⟨siteAndLog_trans (onlySite_siteAndLog (onlySite_modSite s n _)) (corrected_siteAndLog _ n _ _), fun _ => h, _, _, _,
    wsFixed_site a⟩

/-! ### The fetch of a bundle and what it reads (R88, R97) -/

theorem fetch_not_running (ecc : EccObs) (h : (s.site n).seq ≠ .running) : s.fetch n ecc = s := if_pos h

theorem fetch_bad {ecc : EccObs} (h : (s.site n).seq = .running)
    (hb : ecc = .uncorrectable ∨ (s.site n).pc ∈ (s.site n).psBad) : s.fetch n ecc = s.psLost n (s.site n).pc := by
  simp only [State.fetch, h, ne_eq, not_true, if_false, List.contains_eq_mem, decide_eq_true_eq]
  exact if_pos hb

theorem fetch_eccChecked (s : State) (n : SiteNo) (ecc : EccObs) : eccChecked n s (s.fetch n ecc) := by
  unfold State.fetch
  dsimp only
  split
  case isTrue => exact eccChecked_refl n s
  case isFalse hr =>
    rw [not_not] at hr
    split
    · exact psLost_eccChecked hr _
    split
    · exact psFixed_eccChecked hr _
    · exact eccChecked_refl n s

/-- A sequencer that still runs has fetched no bundle that its scrub found to be beyond ECC. -/
theorem fetch_running {ecc : EccObs} (h : ((s.fetch n ecc).site n).seq = .running) :
    (s.site n).pc ∉ (s.site n).psBad := by
  intro hb
  have hr : (s.site n).seq = .running := (fetch_eccChecked s n ecc).2.1 h
  rw [fetch_bad hr (.inr hb)] at h
  exact psLost_not_running hr _ h

theorem dispatchReads_not_running (hd : Head) (ys : List Syll) (ecc : EccObs) (h : (s.site n).seq ≠ .running) :
    s.dispatchReads n hd ys ecc = s := by
  unfold State.dispatchReads
  dsimp only
  split
  · rfl
  · exact if_pos (.inl h)

theorem dispatchReads_eccChecked (s : State) (n : SiteNo) (hd : Head) (ys : List Syll) (ecc : EccObs) :
    eccChecked n s (s.dispatchReads n hd ys ecc) := by
  unfold State.dispatchReads
  dsimp only
  split
  case h_1 => exact eccChecked_refl n s
  case h_2 a _ =>
    split
    case isTrue => exact eccChecked_refl n s
    case isFalse hr =>
      have hq : (s.site n).seq = .running := not_not.1 fun h => hr (.inl h)
      split
      · exact wsFixed_eccChecked hq a
      · exact wsLost_eccChecked hq a

/-! ### Cycles that pass (R135, R152) -/

theorem passed_zero (h : Option Head) (hb : (s.site n).bubble = false) : s.passed n h 0 = s := if_pos ⟨rfl, hb⟩

/-- Cycles that pass are counted; they end the cycle after a taken branch, and leave the program, its place and the
power state. -/
theorem passed_site (s : State) (n : SiteNo) (h : Option Head) (k : Word64) : ∃ l q,
    (s.passed n h k).site n =
      { s.site n with cycle := (s.site n).cycle + k, bubble := false, slip := l, quiet := q } := by
  unfold State.passed
  split
  case isTrue hk =>
    obtain ⟨rfl, hb⟩ := hk
    refine ⟨(s.site n).slip, (s.site n).quiet, ?_⟩
    have hc : (s.site n).cycle + 0 = (s.site n).cycle := BitVec.add_zero _
    rw [hc, ← hb]
  case isFalse => exact ⟨_, _, State.site_modSite_same s n _⟩

/-- Cycles on from lo, of which those from a cycle on are counted, when the counter does not wrap. -/
theorem cyclesFrom_add {start lo k : Word64} (hk : k ≠ 0) (hs : lo.toNat + k.toNat < 2 ^ 64) :
    cyclesFrom start lo (lo + k) =
      if start ≤ lo then k else if start < lo + k then lo + k - start else 0 := by
  have hsum : (lo + k).toNat = lo.toNat + k.toNat := by rw [BitVec.toNat_add, Nat.mod_eq_of_lt hs]
  have hpos : 0 < k.toNat := Nat.pos_of_ne_zero fun e => hk (BitVec.eq_of_toNat_eq e)
  unfold cyclesFrom
  by_cases h1 : start ≤ lo
  · have h2 : ¬ lo + k ≤ start := by
      rw [BitVec.le_def] at h1 ⊢
      omega
    have h3 : ¬ lo < start := by
      rw [BitVec.le_def] at h1
      rw [BitVec.lt_def]
      omega
    rw [if_pos h1, if_neg h2, if_neg h3, BitVec.add_comm, BitVec.add_sub_cancel]
  · have h3 : lo < start := BitVec.not_le.1 h1
    rw [if_neg h1, if_pos h3]
    by_cases h2 : lo + k ≤ start
    · rw [if_pos h2, if_neg (BitVec.not_lt.2 h2)]
    · rw [if_neg h2, if_pos (BitVec.not_le.1 h2)]

/-- While a timed bundle of a running program does not dispatch, the cycles from its scheduled one on are slip. -/
theorem passed_slip {h : Head} {k r : Word64} (hr : (s.site n).sref = some r) (hq : (s.site n).seq = .running)
    (ht : h.timed = true) (hb : (s.site n).bubble = false) (hk : k ≠ 0) :
    ((s.passed n (some h) k).site n).slip =
      (s.site n).slip + cyclesFrom ((s.site n).schedule h) (s.site n).cycle ((s.site n).cycle + k) := by
  rw [State.passed, if_neg fun e => hk e.1, State.site_modSite_same]
  simp [Site.pass, hr, hq, ht, hb]

/-! ### What comes before the cycle in which a bundle is tried -/

/-- The cycles pass, and then what ECC found is dealt with. -/
theorem begin_eccChecked (s : State) (d : Disp) (y : Syll) :
    eccChecked d.site (s.passed d.site (some d.head) d.cycles) (s.begin d y) :=
  eccChecked_trans (fetch_eccChecked _ _ _) (dispatchReads_eccChecked _ _ _ _ _)

theorem begin_not_running {d : Disp} (y : Syll) (h : (s.site d.site).seq ≠ .running) :
    s.begin d y = s.passed d.site (some d.head) d.cycles := by
  have hp : ((s.passed d.site (some d.head) d.cycles).site d.site).seq ≠ .running := by
    obtain ⟨_, _, e⟩ := passed_site s d.site (some d.head) d.cycles
    rwa [e]
  rw [State.begin, fetch_not_running _ hp, dispatchReads_not_running _ _ _ hp]

theorem begin_siteAndLog (s : State) (d : Disp) (y : Syll) : siteAndLog d.site s (s.begin d y) :=
  siteAndLog_trans (onlySite_siteAndLog (passed_onlySite _ _ _ _)) (begin_eccChecked s d y).1

/-- Nothing of the site differs but its cycles, the counters of its stores, and whether its sequencer runs. -/
theorem begin_site (s : State) (d : Disp) (y : Syll) : ∃ l k q p w,
    (s.begin d y).site d.site =
      { s.site d.site with
        cycle := (s.site d.site).cycle + d.cycles, bubble := false, slip := l, quiet := k, seq := q, psEcc := p,
        wsEcc := w } := by
  obtain ⟨l, k, hp⟩ := passed_site s d.site (some d.head) d.cycles
  obtain ⟨-, -, q, p, w, hb⟩ := begin_eccChecked s d y
  exact ⟨l, k, q, p, w, by rw [hb, hp]⟩

/-- A sequencer that runs in the end stands at a bundle without a word that its scrub found to be beyond ECC. -/
theorem begin_running {d : Disp} {y : Syll} (h : ((s.begin d y).site d.site).seq = .running) :
    ((s.begin d y).site d.site).pc ∉ ((s.begin d y).site d.site).psBad := by
  obtain ⟨_, _, hp⟩ := passed_site s d.site (some d.head) d.cycles
  obtain ⟨_, _, _, _, _, hb⟩ := begin_site s d y
  have hf := fetch_running ((dispatchReads_eccChecked _ _ _ _ _).2.1 h)
  rw [hp] at hf
  rwa [hb]

/-- A bundle as it stands once what came before its cycle is done. -/
def begunDisp (d : Disp) : Disp := { d with cycles := 0, ps := .clean, ws := .clean }

theorem begin_fetchedClean {d : Disp} {y : Syll} (h : ((s.begin d y).site d.site).seq = .running) :
    fetchedClean (s.begin d y) (begunDisp d) := by
  obtain ⟨_, _, _, _, _, hb⟩ := begin_site s d y
  exact ⟨rfl, rfl, rfl, by rw [begunDisp, hb], begin_running h⟩

/-- What comes before the cycle comes once. -/
theorem begin_begun (s : State) (d : Disp) (y : Syll) : (s.begin d y).begin (begunDisp d) y = s.begin d y := by
  by_cases hq : ((s.begin d y).site d.site).seq = .running
  · exact begin_clean y (begin_fetchedClean hq)
  · obtain ⟨_, _, _, _, _, hb⟩ := begin_site s d y
    refine (begin_not_running (d := begunDisp d) y hq).trans (passed_zero _ ?_)
    rw [begunDisp, hb]

theorem begin_clocked (s : State) (d : Disp) (y : Syll) : (s.begin d y).clocked d.site = s.clocked d.site := by
  obtain ⟨_, _, _, _, _, hb⟩ := begin_site s d y
  exact clocked_siteAndLog (begin_siteAndLog s d y) (by rw [hb])

/-- A fetch beyond ECC stops the core before the bundle is tried. -/
theorem begin_bad {d : Disp} (y : Syll) (hq : (s.site d.site).seq = .running) (hk : d.cycles = 0)
    (hb : (s.site d.site).bubble = false) (h : d.ps = .uncorrectable ∨ (s.site d.site).pc ∈ (s.site d.site).psBad) :
    s.begin d y = s.psLost d.site (s.site d.site).pc := by
  rw [State.begin, hk, passed_zero _ hb, fetch_bad hq h, dispatchReads_not_running _ _ _ (psLost_not_running hq _)]

/-! ### The cycle in which a bundle is tried (R125) -/

theorem attempt_not_running (hd : Head) (ys : List (Nat × Syll)) (h : (s.site n).seq ≠ .running) :
    s.attempt n hd ys = s := if_pos h

/-- A bundle that breaks no rule and has a condition that does not hold waits a cycle. -/
theorem attempt_waits {hd : Head} {ys : List (Nat × Syll)} (hq : (s.site n).seq = .running)
    (hb : (s.site n).badSlot hd ys = none) (hc : s.canDispatch n hd (ys.map (·.2)) = false) :
    s.attempt n hd ys = s.modSite n fun c => c.wait hd := by
  simp [State.attempt, hq, hb, hc]

theorem dispatch_clocked {d : Disp} (y : Syll) (h : s.clocked d.site = true) :
    s.dispatch d y = (s.begin d y).attempt d.site d.head (slotsOf d y) := if_neg (by rw [h]; decide)

theorem dispatch_unclocked {d : Disp} (y : Syll) (h : s.clocked d.site = false) : s.dispatch d y = s := if_pos h

theorem dispatch_begun {d : Disp} (y : Syll) (h : s.clocked d.site = true) :
    s.dispatch d y = (s.begin d y).dispatch (begunDisp d) y := by
  rw [dispatch_clocked y h, dispatch_clocked (d := begunDisp d) y ((begin_clocked s d y).trans h), begin_begun]
  rfl

theorem dispatch_not_running {d : Disp} (y : Syll) (hc : s.clocked d.site = true)
    (hq : (s.site d.site).seq ≠ .running) : s.dispatch d y = s.passed d.site (some d.head) d.cycles := by
  obtain ⟨_, _, e⟩ := passed_site s d.site (some d.head) d.cycles
  rw [dispatch_clocked y hc, begin_not_running y hq]
  exact attempt_not_running _ _ (by rwa [e])

theorem dispatch_bad {d : Disp} (y : Syll) (hq : (s.site d.site).seq = .running) (hc : s.clocked d.site = true)
    (hk : d.cycles = 0) (hb : (s.site d.site).bubble = false)
    (h : d.ps = .uncorrectable ∨ (s.site d.site).pc ∈ (s.site d.site).psBad) :
    s.dispatch d y = s.psLost d.site (s.site d.site).pc := by
  rw [dispatch_clocked y hc, begin_bad y hq hk hb h]
  exact attempt_not_running _ _ (psLost_not_running hq _)

theorem dispatch_waits {d : Disp} {y : Syll} (hf : fetchedClean s d) (hq : (s.site d.site).seq = .running)
    (hc : s.clocked d.site = true) (hb : (s.site d.site).badSlot d.head (slotsOf d y) = none)
    (hn : s.canDispatch d.site d.head (bundleOf d y) = false) :
    s.dispatch d y = s.modSite d.site fun c => c.wait d.head := by
  rw [dispatch_clocked y hc, begin_clean y hf, attempt_waits hq hb hn]

/-! ### The results of SCALAR syllables (R128, Table 5.6) -/

/-- The row of a two-operand SCALAR syllable writes its result, and keeps the frame of its bundle. -/
theorem rowOf_alu_writes {d : Disp} {op : AluOp} {f : AluF} (h : dispatches s d (.alu op f)) :
    completes (rowOf d (.alu op f)) s fun t => dispatched d (.alu op f) s t ∧
      (t.site d.site).sreg f.rd = if f.rd = 0 then 0 else
        aluResult op ((s.site d.site).sreg f.rs1) ((s.site d.site).operand2 f) :=
  ⟨_, exec_rowOf d _ s, dispatch_dispatched h, dispatch_sreg h rfl⟩

end

/-! ### The statements -/

/-- Settles O7: each of the six operations is the result of its SCALAR syllable. -/
theorem scalarArithmetic : Obligations.ScalarArithmetic := by
  unfold Obligations.ScalarArithmetic
  refine ⟨?add, ?sub, ?and, ?or, ?xor, ?mul⟩
  all_goals exact fun s d f h => rowOf_alu_writes h

/-- Settles O12: every row of a syllable dispatches its bundle, so that each clause is what a dispatch does in its
case. -/
theorem bundlesThatWait : Obligations.BundlesThatWait := by
  unfold Obligations.BundlesThatWait
  refine ⟨?waits, ?goes, ?begins, ?unclocked, ?idle, ?slips, ?bad⟩
  case waits =>
    intro s d y hf hq hc hb hn
    refine ⟨_, exec_rowOf d y s, ?_⟩
    rw [dispatch_waits hf hq hc hb hn]
    exact ⟨onlySite_modSite s d.site _, State.site_modSite_same s d.site _⟩
  case goes =>
    intro s d y h
    obtain ⟨hpc, hloops, hcycle, -, -, -, hslip⟩ := dispatch_flow h
    exact ⟨_, exec_rowOf d y s, dispatch_dispatched h, hpc, hloops, hcycle, hslip, dispatch_grows h⟩
  case begins =>
    intro s d y hc
    obtain ⟨_, _, _, _, _, hu⟩ := begin_site s d y
    refine ⟨?_, begin_siteAndLog s d y, by rw [hu], by rw [hu], begin_fetchedClean⟩
    rw [exec_rowOf, exec_rowOf, dispatch_begun y hc]
    rfl
  case unclocked => exact fun s d y hc => ⟨_, exec_rowOf d y s, dispatch_unclocked y hc⟩
  case idle => exact fun s d y hc hq => ⟨_, exec_rowOf d y s, dispatch_not_running y hc hq⟩
  case slips =>
    intro s n h k r hr hq ht hb hk hs
    rw [passed_slip hr hq ht hb hk, cyclesFrom_add hk hs]
  case bad =>
    intro s d y hq hc hk hb h
    refine ⟨_, exec_rowOf d y s, ?_⟩
    rw [dispatch_bad y hq hc hk hb h]
    exact ⟨psLost_siteAndLog _, psLost_logged _, psLost_told _, psLost_site hq _⟩

end Sys2Proof.Machine
end

section
/-!
PROOF. The state at a cold power-on (18_registers.md R477, R478, Table 18.4): what each store of State.reset reads as,
what the parts of an untouched site hold, and the statement assembled from these.
-/

namespace Sys2Proof.Machine

/-! ### Every key of an empty store holds the default -/

@[simp] theorem tget_nil {α : Type} (d : Nat → α) (k : Nat) : tget d [] k = d k := rfl

theorem reset_shadow (acc : Accessor) (lo : Nat) : State.reset.shadow acc lo = none := tget_nil _ _

theorem reset_heldLo (acc : Accessor) (lo : Nat) : State.reset.heldLo acc lo = none := tget_nil _ _

theorem reset_siteOf (lc : LCoreNo) : State.reset.siteOf lc = none := tget_nil _ _

theorem reset_ring (r : RingNo) : State.reset.ring r = {} := tget_nil _ _

theorem reset_site (n : SiteNo) : State.reset.site n = {} := tget_nil _ _

theorem reset_bell (b : BellNo) : State.reset.bell b = {} := tget_nil _ _

theorem reset_tree (c : Fin 64) : State.reset.tree c = {} := tget_nil _ _

theorem reset_mset (m : Nat) : State.reset.mset m = {} := tget_nil _ _

theorem reset_src (n : Nat) : State.reset.src n = srcD n := tget_nil _ _

theorem reset_hamlet (h : HamletNo) : State.reset.hamlet h = {} := tget_nil _ _

theorem reset_link (l : LinkNo) : State.reset.link l = {} := tget_nil _ _

theorem reset_dom (d : DomainNo) : State.reset.dom d = {} := tget_nil _ _

/-! ### Sites, hamlets and interrupt sources that nothing has touched -/

theorem freshSite_eng (e : EngNo) : ({} : Site).eng e = {} := tget_nil _ _

theorem freshSite_queue (q : Fin 4) : ({} : Site).queue q = {} := tget_nil _ _

/-- S0 reads as 0 by rule (Table 4.1), every other S register as an empty store does. -/
theorem freshSite_sreg (r : BitVec 5) : ({} : Site).sreg r = 0 := ite_self 0

theorem freshSite_tok (r : BitVec 6) : ({} : Site).tok r = 0 := tget_nil _ _

theorem freshSite_areg (r : Nat) : ({} : Site).areg r = 0 := tget_nil _ _

theorem freshSite_entry (i : Nat) : ({} : Site).entry i = {} := tget_nil _ _

theorem freshEngine_bank (b : Fin 4) : ({} : Engine).bank b = {} := tget_nil _ _

theorem freshHamlet_exists : ({} : Hamlet).exists_ = false := rfl

/-- Enables, targets and modes differ from source to source (R401), the state does not. -/
@[simp] theorem srcD_st (n : Nat) : (srcD n).st = .idle := rfl

/-! ### The statement -/

/-- Settles O60: what stands in a store of its own reads as that store's default, the rest stands in the blocks of
State.reset. -/
theorem resetValues : Obligations.ResetValues := by
  unfold Obligations.ResetValues
  refine ⟨?locks, ?idBlock, ?pairs, ?host, ?sites, ?bells, ?interrupts, ?faults, ?hamlets, ?mailbox, ?links, ?domains,
    ?totals⟩
  case locks | idBlock | faults | mailbox => simp [State.reset]
  case pairs => exact fun acc lo => ⟨reset_shadow acc lo, reset_heldLo acc lo⟩
  case host => exact ⟨rfl, rfl, rfl, rfl, fun r => by simp [reset_ring]⟩
  case sites =>
    intro n
    simp only [reset_site, freshSite_eng, freshSite_queue, freshSite_sreg, freshSite_tok, freshSite_areg,
      freshSite_entry, freshEngine_bank, and_self, implies_true]
  case bells =>
    exact ⟨rfl, rfl, rfl, rfl, rfl, reset_bell, fun c => by rw [reset_tree], fun m => by rw [reset_mset]⟩
  case interrupts => exact ⟨rfl, rfl, rfl, rfl, fun n => by rw [reset_src, srcD_st]⟩
  case hamlets =>
    intro h
    rw [reset_hamlet]
    exact ⟨freshHamlet_exists, rfl, rfl⟩
  case links => exact fun l => by rw [reset_link]
  case domains => exact fun d => by simp [reset_dom]
  case totals => exact ⟨rfl, rfl, rfl, rfl, rfl, rfl, rfl, reset_siteOf 0⟩

end Sys2Proof.Machine
end

section
/-!
PROOF. What every function of the block leaves alone: the queue of waiting commands, the core map and the fuses. One
equation per function; a walk of operations keeps what each of them keeps.
-/

namespace Sys2Proof.Machine

/-- The queue of waiting commands, the core map and the fuses. -/
def State.fixed (s : State) : List Instr × Tab (Option SiteNo) × Fuses := (s.pending, s.coreMap, s.fuses)

@[simp] theorem State.fixed_parts (s : State) : (s.pending, s.coreMap, s.fuses) = s.fixed := (rfl)

/-- A state that is written out field by field. -/
@[simp] theorem State.fixed_mk (fu a b c d e f g h cm i j k l m n o p q r t u v w x pe) :
    (State.mk fu a b c d e f g h cm i j k l m n o p q r t u v w x pe).fixed = (pe, cm, fu) := (rfl)

@[simp] theorem State.fixed_ite {p : Prop} [Decidable p] (a b : State) :
    (if p then a else b).fixed = if p then a.fixed else b.fixed := apply_ite State.fixed p a b

@[simp] theorem State.fixed_dite {p : Prop} [Decidable p] (a : p → State) (b : ¬ p → State) :
    (if h : p then a h else b h).fixed = if h : p then (a h).fixed else (b h).fixed := apply_dite State.fixed p a b

/-- A walk of operations that each keep them keeps them. -/
@[simp] theorem State.fixed_foldl {α : Type} {f : State → α → State} (h : ∀ s a, (f s a).fixed = s.fixed)
    (l : List α) (s : State) : (l.foldl f s).fixed = s.fixed := foldl_keeps State.fixed f h l s

/-- A command answers a next state, with what it leaves as it was. -/
def keepsFixed (s : State) (o : Host.Outcome State Fault Refusal) : Prop := ∃ t, o = .next t ∧ t.fixed = s.fixed

@[simp] theorem keepsFixed_next (s t : State) : keepsFixed s (.next t) ↔ t.fixed = s.fixed := by
  simp [keepsFixed]

/-! ### The shared operations -/

@[simp] theorem State.setSite_fixed (s : State) (n v) : (s.setSite n v).fixed = s.fixed := (rfl)
@[simp] theorem State.modSite_fixed (s : State) (n f) : (s.modSite n f).fixed = s.fixed := (rfl)
@[simp] theorem State.setLink_fixed (s : State) (l v) : (s.setLink l v).fixed = s.fixed := (rfl)
@[simp] theorem State.modLink_fixed (s : State) (l f) : (s.modLink l f).fixed = s.fixed := (rfl)
@[simp] theorem State.setBell_fixed (s : State) (b v) : (s.setBell b v).fixed = s.fixed := (rfl)
@[simp] theorem State.setRing_fixed (s : State) (r v) : (s.setRing r v).fixed = s.fixed := (rfl)
@[simp] theorem State.modRing_fixed (s : State) (r f) : (s.modRing r f).fixed = s.fixed := (rfl)
@[simp] theorem State.setRegion_fixed (s : State) (n v) : (s.setRegion n v).fixed = s.fixed := (rfl)
@[simp] theorem State.modRegion_fixed (s : State) (n f) : (s.modRegion n f).fixed = s.fixed := (rfl)
@[simp] theorem State.setCrossing_fixed (s : State) (k v) : (s.setCrossing k v).fixed = s.fixed := (rfl)
@[simp] theorem State.setDom_fixed (s : State) (d v) : (s.setDom d v).fixed = s.fixed := (rfl)
@[simp] theorem State.modDom_fixed (s : State) (d f) : (s.modDom d f).fixed = s.fixed := (rfl)
@[simp] theorem State.setMsite_fixed (s : State) (n v) : (s.setMsite n v).fixed = s.fixed := (rfl)
@[simp] theorem State.modMsite_fixed (s : State) (n f) : (s.modMsite n f).fixed = s.fixed := (rfl)
@[simp] theorem State.setLintel_fixed (s : State) (k v) : (s.setLintel k v).fixed = s.fixed := (rfl)
@[simp] theorem State.setHamlet_fixed (s : State) (h v) : (s.setHamlet h v).fixed = s.fixed := (rfl)
@[simp] theorem State.modHamlet_fixed (s : State) (h f) : (s.modHamlet h f).fixed = s.fixed := (rfl)
@[simp] theorem State.setTree_fixed (s : State) (t v) : (s.setTree t v).fixed = s.fixed := (rfl)
@[simp] theorem State.setMset_fixed (s : State) (m v) : (s.setMset m v).fixed = s.fixed := (rfl)
@[simp] theorem State.setTally_fixed (s : State) (o v) : (s.setTally o v).fixed = s.fixed := (rfl)
@[simp] theorem State.at_fixed (s : State) (t) : (s.at t).fixed = s.fixed := by simp [State.at]
@[simp] theorem State.send_fixed (s : State) (o) : (s.send o).fixed = s.fixed := (rfl)
@[simp] theorem State.sendHost_fixed (s : State) (o) : (s.sendHost o).fixed = s.fixed := by simp [State.sendHost]
@[simp] theorem State.sendAll_fixed (s : State) (os) : (s.sendAll os).fixed = s.fixed := (rfl)
@[simp] theorem State.drew_fixed (s : State) : s.drew.fixed = s.fixed := (rfl)
@[simp] theorem State.journal_fixed (s : State) (r) : (s.journal r).fixed = s.fixed := (rfl)
@[simp] theorem State.mapOut_fixed (s : State) (unit index cause) : (s.mapOut unit index cause).fixed = s.fixed := by
  simp [State.mapOut]
@[simp] theorem State.record_fixed (s : State) (r) : (s.record r).fixed = s.fixed := (rfl)
@[simp] theorem State.fault_fixed (s : State) (cls site detail addr) :
    (s.fault cls site detail addr).fixed = s.fixed := (rfl)
@[simp] theorem State.fold_fixed (s : State) (cls unit detail addr) :
    (s.fold cls unit detail addr).fixed = s.fixed := (rfl)
@[simp] theorem State.tell_fixed (s : State) (cls site detail addr) :
    (s.tell cls site detail addr).fixed = s.fixed := (rfl)
@[simp] theorem State.report_fixed (s : State) (cls site detail addr) :
    (s.report cls site detail addr).fixed = s.fixed := (rfl)
@[simp] theorem State.engReport_fixed (s : State) (n e cls detail addr) :
    (s.engReport n e cls detail addr).fixed = s.fixed := (rfl)

/-! ### A core's operations -/

@[simp] theorem State.abandonVote_fixed (s : State) (n) : (s.abandonVote n).fixed = s.fixed := by
  unfold State.abandonVote
  split <;> simp
@[simp] theorem State.coreReset_fixed (s : State) (n keepV keepExc) :
    (s.coreReset n keepV keepExc).fixed = s.fixed := by
  simp [State.coreReset]
@[simp] theorem State.switchOff_fixed (s : State) (n) : (s.switchOff n).fixed = s.fixed := by
  simp [State.switchOff]
@[simp] theorem State.modSites_fixed (s : State) (ns f) : (s.modSites ns f).fixed = s.fixed := by
  simp [State.modSites]
@[simp] theorem State.coreResets_fixed (s : State) (ns keepExc) : (s.coreResets ns keepExc).fixed = s.fixed := by
  simp [State.coreResets]

/-! ### Interrupts -/

@[simp] theorem State.setSrc_fixed (s : State) (n v) : (s.setSrc n v).fixed = s.fixed := (rfl)
@[simp] theorem State.icDrop_fixed (s : State) : s.icDrop.fixed = s.fixed := (rfl)
@[simp] theorem State.icWake_fixed (s : State) (n) : (s.icWake n).fixed = s.fixed := by
  unfold State.icWake
  split <;> simp
@[simp] theorem State.icRaise_fixed (s : State) (n t) : (s.icRaise n t).fixed = s.fixed := by simp [State.icRaise]
@[simp] theorem State.icDelivered_fixed (s : State) (n) : (s.icDelivered n).fixed = s.fixed := by
  simp [State.icDelivered]
@[simp] theorem State.icLower_fixed (s : State) : s.icLower.fixed = s.fixed := (rfl)
@[simp] theorem State.icDeliver_fixed (s : State) (n) : (s.icDeliver n).fixed = s.fixed := by
  unfold State.icDeliver
  dsimp only
  (repeat' split) <;> simp
@[simp] theorem State.srcRaise_fixed (s : State) (n) : (s.srcRaise n).fixed = s.fixed := by simp [State.srcRaise]
@[simp] theorem State.srcClear_fixed (s : State) (n) : (s.srcClear n).fixed = s.fixed := by simp [State.srcClear]
@[simp] theorem State.srcSetMode_fixed (s : State) (n mode) : (s.srcSetMode n mode).fixed = s.fixed := by
  simp [State.srcSetMode]
@[simp] theorem State.icDone_fixed (s : State) (k n) : (s.icDone k n).fixed = s.fixed := by simp [State.icDone]
@[simp] theorem State.setHolding_fixed (s : State) (g v) : (s.setHolding g v).fixed = s.fixed := (rfl)
theorem State.releaseOne_fixed (before) (x : State × List (Nat × Nat)) (n) :
    (State.releaseOne before x n).1.fixed = x.1.fixed := by
  unfold State.releaseOne
  dsimp only
  split
  · rfl
  · split <;> simp

@[simp] theorem State.releaseHold_fixed (s : State) : s.releaseHold.fixed = s.fixed := by
  unfold State.releaseHold
  split
  · rfl
  · exact (foldl_keeps (fun x : State × List (Nat × Nat) => x.1.fixed) _ (State.releaseOne_fixed _) _ _).trans (by simp)

/-! ### The host interface -/

@[simp] theorem State.modDesc_fixed (s : State) (id f) : (s.modDesc id f).fixed = s.fixed := (rfl)
@[simp] theorem State.setReady_fixed (s : State) (id status detail result) :
    (s.setReady id status detail result).fixed = s.fixed := (rfl)
@[simp] theorem State.leaveLaunch_fixed (s : State) (n) : (s.leaveLaunch n).fixed = s.fixed := by
  unfold State.leaveLaunch
  dsimp only
  split <;> simp
@[simp] theorem State.launchDone_fixed (s : State) (id) : (s.launchDone id).fixed = s.fixed := by
  unfold State.launchDone
  split <;> simp
@[simp] theorem State.endLaunch_fixed (s : State) (id status detail) :
    (s.endLaunch id status detail).fixed = s.fixed := by
  unfold State.endLaunch
  dsimp only
  split <;> simp
@[simp] theorem State.toHost_fixed (s : State) (r addr data) : (s.toHost r addr data).fixed = s.fixed := by
  simp [State.toHost]
@[simp] theorem State.dbIgnore_fixed (s : State) : s.dbIgnore.fixed = s.fixed := (rfl)
@[simp] theorem State.dbError_fixed (s : State) (r) : (s.dbError r).fixed = s.fixed := (rfl)

/-! ### Routes and packets -/

@[simp] theorem State.planeOff_fixed (s : State) (x) : (s.planeOff x).fixed = s.fixed := by
  unfold State.planeOff
  split <;> simp
@[simp] theorem State.takeSpare_fixed (s : State) (x) : (s.takeSpare x).fixed = s.fixed := by
  unfold State.takeSpare
  split <;> simp
@[simp] theorem State.repairLane_fixed (s : State) (x) : (s.repairLane x).fixed = s.fixed := by
  simp [State.repairLane]
@[simp] theorem State.absentLinks_fixed (s : State) : s.absentLinks.fixed = s.fixed := by simp [State.absentLinks]
@[simp] theorem State.setBuf_fixed (s : State) (r inp plane l) :
    (s.setBuf r inp plane l).fixed = s.fixed := (rfl)
@[simp] theorem State.enter_fixed (s : State) (p) : (s.enter p).fixed = s.fixed := (rfl)
@[simp] theorem State.arrived_fixed (s : State) (p) : (s.arrived p).fixed = s.fixed := (rfl)
@[simp] theorem State.losePacket_fixed (s : State) (p) : (s.losePacket p).fixed = s.fixed := (rfl)
@[simp] theorem State.loseBufs_fixed (s : State) (f) : (s.loseBufs f).fixed = s.fixed := by simp [State.loseBufs]
@[simp] theorem State.putWords_fixed (s : State) (bs bad) {f : State → Nat → List Byte → State}
    (h : ∀ s i w, (f s i w).fixed = s.fixed) : (s.putWords bs bad f).fixed = s.fixed := by
  simp [State.putWords, h]
@[simp] theorem State.credits_fixed (s : State) (l r) : (s.credits l r).fixed = s.fixed := (rfl)
@[simp] theorem State.unitsIn_fixed (s : State) (l p) : (s.unitsIn l p).fixed = s.fixed := by simp [State.unitsIn]
@[simp] theorem State.unitsOut_fixed (s : State) (l p) : (s.unitsOut l p).fixed = s.fixed := (rfl)
@[simp] theorem State.dropTxn_fixed (s : State) (r t) : (s.dropTxn r t).fixed = s.fixed := (rfl)
@[simp] theorem State.inject_fixed (s : State) (p use k) : (s.inject p use k).fixed = s.fixed := (rfl)
@[simp] theorem State.queueAt_fixed (s : State) (e) : (s.queueAt e).fixed = s.fixed := (rfl)
@[simp] theorem State.restartTxn_fixed (s : State) (r t) : (s.restartTxn r t).fixed = s.fixed := (rfl)
@[simp] theorem State.sendQueued_fixed (s : State) (e) : (s.sendQueued e).fixed = s.fixed := by
  unfold State.sendQueued
  dsimp only
  (repeat' split) <;> simp
@[simp] theorem State.handPort_fixed (s : State) (e) : (s.handPort e).fixed = s.fixed := by simp [State.handPort]
@[simp] theorem State.leaveTxn_fixed (s : State) (r t) : (s.leaveTxn r t).fixed = s.fixed := by
  simp [State.leaveTxn]
@[simp] theorem State.flush_fixed (s : State) (l) : (s.flush l).fixed = s.fixed := by simp [State.flush]
@[simp] theorem State.sendLink_fixed (s : State) (l p) : (s.sendLink l p).fixed = s.fixed := by
  simp [State.sendLink]
@[simp] theorem State.remoteReply_fixed (s : State) (l q opc st data) :
    (s.remoteReply l q opc st data).fixed = s.fixed := by
  unfold State.remoteReply
  split <;> simp
@[simp] theorem State.moveEdges_fixed (s : State) (l) : (s.moveEdges l).fixed = s.fixed := by
  simp [State.moveEdges]

/-! ### Bells -/

@[simp] theorem State.bellFail_fixed (s : State) (site st) : (s.bellFail site st).fixed = s.fixed := (rfl)
@[simp] theorem State.bellCount_fixed (s : State) : s.bellCount.fixed = s.fixed := (rfl)
@[simp] theorem State.bellOpEnd_fixed (s : State) (id st img) : (s.bellOpEnd id st img).fixed = s.fixed := by
  unfold State.bellOpEnd
  dsimp only
  (repeat' split) <;> simp
@[simp] theorem State.bellEnds_fixed (s : State) (who st img) : (s.bellEnds who st img).fixed = s.fixed := by
  unfold State.bellEnds
  dsimp only
  (repeat' split) <;> simp
@[simp] theorem State.sendBell_fixed (s : State) (src who m) : (s.sendBell src who m).fixed = s.fixed := by
  unfold State.sendBell
  dsimp only
  split <;> simp
@[simp] theorem State.bellFrom_fixed (s : State) (n m) : (s.bellFrom n m).fixed = s.fixed := by
  simp [State.bellFrom]
@[simp] theorem State.coreBell_fixed (s : State) (n m) : (s.coreBell n m).fixed = s.fixed := by
  simp [State.coreBell]
@[simp] theorem State.bellDrain_fixed (s : State) (n k) : (s.bellDrain n k).fixed = s.fixed := by
  induction k generalizing s with
  | zero => rfl
  | succ k ih =>
    unfold State.bellDrain
    split
    · split <;> simp [ih]
    · rfl
@[simp] theorem State.bellDone_fixed (s : State) (who st img) : (s.bellDone who st img).fixed = s.fixed := by
  unfold State.bellDone
  split <;> simp
@[simp] theorem State.tokenAction_fixed (s : State) (b lc) : (s.tokenAction b lc).fixed = s.fixed := by
  unfold State.tokenAction
  split <;> simp
@[simp] theorem State.bellActions_fixed (s : State) (b i) : (s.bellActions b i).fixed = s.fixed := by
  simp [State.bellActions]
@[simp] theorem State.bellRule_fixed (s : State) (b i) : (s.bellRule b i).fixed = s.fixed := by
  simp [State.bellRule]
@[simp] theorem State.bellAnswer_fixed (s : State) (op b src st img) :
    (s.bellAnswer op b src st img).fixed = s.fixed := by
  unfold State.bellAnswer
  split <;> simp
@[simp] theorem State.bellCame_fixed (s : State) (b src) : (s.bellCame b src).fixed = s.fixed := by
  unfold State.bellCame
  split <;> simp
@[simp] theorem State.bellCmd_fixed (s : State) (op b src img) {f : State → State}
    (h : ∀ s, (f s).fixed = s.fixed) : (s.bellCmd op b src img f).fixed = s.fixed := by
  simp [State.bellCmd, h]
@[simp] theorem State.refuse_fixed (s : State) (l p st) : (s.refuse l p st).fixed = s.fixed := by
  unfold State.refuse
  split <;> simp
@[simp] theorem State.transit_fixed (s : State) (l p) : (s.transit l p).fixed = s.fixed := by
  unfold State.transit
  dsimp only
  (repeat' split) <;> simp
@[simp] theorem State.transitsGo_fixed (s : State) : s.transitsGo.fixed = s.fixed := by simp [State.transitsGo]

/-! ### Fields -/

@[simp] theorem State.setPage_fixed (s : State) (p v) : (s.setPage p v).fixed = s.fixed := (rfl)
@[simp] theorem State.modPage_fixed (s : State) (p f) : (s.modPage p f).fixed = s.fixed := (rfl)
@[simp] theorem State.modPages_fixed (s : State) (p n f) : (s.modPages p n f).fixed = s.fixed := by
  simp [State.modPages]
@[simp] theorem State.ddrWrite_fixed (s : State) (a bs) : (s.ddrWrite a bs).fixed = s.fixed := (rfl)
@[simp] theorem State.zeroPages_fixed (s : State) (p n) : (s.zeroPages p n).fixed = s.fixed := (rfl)
@[simp] theorem State.losePages_fixed (s : State) (p n key) : (s.losePages p n key).fixed = s.fixed := (rfl)
@[simp] theorem State.modChan_fixed (s : State) (ms ch f) : (s.modChan ms ch f).fixed = s.fixed := (rfl)
@[simp] theorem State.memEcc_fixed (s : State) (ms ch addr ecc scrub) :
    (s.memEcc ms ch addr ecc scrub).fixed = s.fixed := by
  unfold State.memEcc
  split <;> simp
@[simp] theorem State.ddrEcc_fixed (s : State) (a ecc) : (s.ddrEcc a ecc).fixed = s.fixed := by
  simp [State.ddrEcc]
@[simp] theorem State.markMirrors_fixed (s : State) : s.markMirrors.fixed = s.fixed := by simp [State.markMirrors]
@[simp] theorem State.sitesLost_fixed (s : State) (f) : (s.sitesLost f).fixed = s.fixed := by
  simp [State.sitesLost]
@[simp] theorem State.fieldMemoryLost_fixed (s : State) (f dark) : (s.fieldMemoryLost f dark).fixed = s.fixed := by
  simp [State.fieldMemoryLost]
@[simp] theorem State.setAdm_fixed (s : State) (d q) : (s.setAdm d q).fixed = s.fixed := by simp [State.setAdm]
@[simp] theorem State.rampOver_fixed (s : State) (d) : (s.rampOver d).fixed = s.fixed := by simp [State.rampOver]
@[simp] theorem State.failDomain_fixed (s : State) (n cause) : (s.failDomain n cause).fixed = s.fixed := by
  simp [State.failDomain]
@[simp] theorem State.answerDark_fixed (s : State) (f) : (s.answerDark f).fixed = s.fixed := by
  refine (State.fixed_foldl (fun s e => ?_) _ _).trans rfl
  split <;> simp
@[simp] theorem State.portsLost_fixed (s : State) (f) : (s.portsLost f).fixed = s.fixed := by
  simp [State.portsLost]
@[simp] theorem State.fieldDark_fixed (s : State) (f) : (s.fieldDark f).fixed = s.fixed := by
  simp [State.fieldDark]
@[simp] theorem State.modRegions_fixed (s : State) (rs f) : (s.modRegions rs f).fixed = s.fixed := by
  simp [State.modRegions]
@[simp] theorem State.startChange_fixed (s : State) (r mhz t) : (s.startChange r mhz t).fixed = s.fixed := by
  unfold State.startChange
  dsimp only
  split <;> simp
@[simp] theorem State.setVolt_fixed (s : State) (n) : (s.setVolt n).fixed = s.fixed := by simp [State.setVolt]
@[simp] theorem State.setOp_fixed (s : State) (n op) : (s.setOp n op).fixed = s.fixed := by simp [State.setOp]

/-! ### Sites -/

@[simp] theorem State.raise_fixed (s : State) (n code slot bundle info) :
    (s.raise n code slot bundle info).fixed = s.fixed := (rfl)
@[simp] theorem State.hwFault_fixed (s : State) (n cls detail addr) :
    (s.hwFault n cls detail addr).fixed = s.fixed := (rfl)
@[simp] theorem State.corrected_fixed (s : State) (n store off) :
    (s.corrected n store off).fixed = s.fixed := (rfl)
@[simp] theorem State.wsLost_fixed (s : State) (n off) : (s.wsLost n off).fixed = s.fixed := by
  simp [State.wsLost]
@[simp] theorem State.psLost_fixed (s : State) (n b) : (s.psLost n b).fixed = s.fixed := by simp [State.psLost]
@[simp] theorem State.psFixed_fixed (s : State) (n b) : (s.psFixed n b).fixed = s.fixed := (rfl)
@[simp] theorem State.sillFixed_fixed (s : State) (n off) : (s.sillFixed n off).fixed = s.fixed := (rfl)
@[simp] theorem State.wsFixed_fixed (s : State) (n off) : (s.wsFixed n off).fixed = s.fixed := (rfl)

/-! ### The sequencer and dispatch -/

@[simp] theorem State.outside_fixed (s : State) (n c0 share y) : (s.outside n c0 share y).fixed = s.fixed := by
  unfold State.outside
  dsimp only
  (repeat' split) <;> simp
@[simp] theorem State.commit_fixed (s : State) (n h ys) : (s.commit n h ys).fixed = s.fixed := by
  simp [State.commit]
@[simp] theorem State.passed_fixed (s : State) (n h k) : (s.passed n h k).fixed = s.fixed := by
  simp [State.passed]
@[simp] theorem State.fetch_fixed (s : State) (n ecc) : (s.fetch n ecc).fixed = s.fixed := by simp [State.fetch]
@[simp] theorem State.dispatchReads_fixed (s : State) (n h ys ecc) :
    (s.dispatchReads n h ys ecc).fixed = s.fixed := by
  unfold State.dispatchReads
  dsimp only
  split <;> simp
@[simp] theorem State.begin_fixed (s : State) (d y) : (s.begin d y).fixed = s.fixed := by simp [State.begin]
@[simp] theorem State.attempt_fixed (s : State) (n h ys) : (s.attempt n h ys).fixed = s.fixed := by
  unfold State.attempt
  dsimp only
  (repeat' split) <;> simp
@[simp] theorem State.dispatch_fixed (s : State) (d y) : (s.dispatch d y).fixed = s.fixed := by
  simp [State.dispatch]

/-! ### The matrix engines -/

@[simp] theorem State.refuseArray_fixed (s : State) (n e op code) :
    (s.refuseArray n e op code).fixed = s.fixed := (rfl)
@[simp] theorem State.refuseFeed_fixed (s : State) (n e op code) :
    (s.refuseFeed n e op code).fixed = s.fixed := (rfl)
@[simp] theorem State.granFixed_fixed (s : State) (n off) : (s.granFixed n off).fixed = s.fixed := (rfl)

/-! ### Checks and votes -/

@[simp] theorem State.quarantine_fixed (s : State) (n v replayObs) :
    (s.quarantine n v replayObs).fixed = s.fixed := by
  unfold State.quarantine
  split <;> simp
@[simp] theorem State.retire_fixed (s : State) (n e) : (s.retire n e).fixed = s.fixed := by simp [State.retire]
@[simp] theorem State.countVerdict_fixed (s : State) (n e engineAtFault) :
    (s.countVerdict n e engineAtFault).fixed = s.fixed := by
  simp [State.countVerdict]
@[simp] theorem State.parityPoison_fixed (s : State) (n e f) : (s.parityPoison n e f).fixed = s.fixed := (rfl)
@[simp] theorem State.startVote_fixed (s : State) (n e f obs misses) :
    (s.startVote n e f obs misses).fixed = s.fixed := by
  unfold State.startVote
  dsimp only
  split <;> simp
@[simp] theorem State.bufferFixed_fixed (s : State) (n used o) : (s.bufferFixed n used o).fixed = s.fixed := by
  simp [State.bufferFixed]
@[simp] theorem State.engineAtFault_fixed (s : State) (n v obs) : (s.engineAtFault n v obs).fixed = s.fixed := by
  unfold State.engineAtFault
  split <;> simp
@[simp] theorem State.passFailed_fixed (s : State) (n v) : (s.passFailed n v).fixed = s.fixed := (rfl)
@[simp] theorem State.bufferLost_fixed (s : State) (n v obs o) : (s.bufferLost n v obs o).fixed = s.fixed := by
  simp [State.bufferLost]
@[simp] theorem State.decideEwise_fixed (s : State) (n v w p replay obs) :
    (s.decideEwise n v w p replay obs).fixed = s.fixed := by
  simp [State.decideEwise]
@[simp] theorem State.remap_fixed (s : State) (n e rows cols) : (s.remap n e rows cols).fixed = s.fixed := (rfl)

/-! ### Copies -/

@[simp] theorem State.leaveFlight_fixed (s : State) (n q i f) : (s.leaveFlight n q i f).fixed = s.fixed := by
  unfold State.leaveFlight
  split <;> simp
@[simp] theorem State.hostAuthFail_fixed (s : State) (o addr) : (s.hostAuthFail o addr).fixed = s.fixed := by
  unfold State.hostAuthFail
  split <;> simp
@[simp] theorem State.copyFail_fixed (s : State) (n q i code parity) :
    (s.copyFail n q i code parity).fixed = s.fixed := by
  unfold State.copyFail
  split <;> simp
@[simp] theorem State.sendOffer_fixed (s : State) (o) : (s.sendOffer o).fixed = s.fixed := by
  unfold State.sendOffer
  split
  · exact s.sendQueued_fixed _
  · split <;> simp
@[simp] theorem State.markWaits_fixed (s : State) (r) : (s.markWaits r).fixed = s.fixed := by
  unfold State.markWaits
  split
  · rfl
  · refine State.fixed_foldl (fun s q => ?_) _ _
    split <;> simp
@[simp] theorem State.servePort_fixed (s : State) (r k) : (s.servePort r k).fixed = s.fixed := by
  induction k generalizing s with
  | zero => simp [State.servePort]
  | succ k ih => unfold State.servePort; split <;> simp [ih]
@[simp] theorem State.ask_fixed (s : State) (p use) : (s.ask p use).fixed = s.fixed := by simp [State.ask]
@[simp] theorem State.respond_fixed (s : State) (p) : (s.respond p).fixed = s.fixed := by simp [State.respond]
@[simp] theorem State.pump_fixed (s : State) (n q i) : (s.pump n q i).fixed = s.fixed := by
  unfold State.pump
  split
  · rfl
  · split
    · rfl
    · split <;> simp
@[simp] theorem State.pumpSite_fixed (s : State) (n) : (s.pumpSite n).fixed = s.fixed := by simp [State.pumpSite]
@[simp] theorem State.hostPut_fixed (s : State) (o r addr bs) : (s.hostPut o r addr bs).fixed = s.fixed := by
  unfold State.hostPut
  split <;> simp
@[simp] theorem State.granPut_fixed (s : State) (n a bs) : (s.granPut n a bs).fixed = s.fixed := by
  simp [State.granPut]
@[simp] theorem State.copyWrite_fixed (s : State) (n d a bs) : (s.copyWrite n d a bs).fixed = s.fixed := by
  unfold State.copyWrite
  split <;> simp
@[simp] theorem State.moveRows_fixed (s : State) (n d data stop k moved) :
    (s.moveRows n d data stop k moved).fixed = s.fixed := by
  induction k generalizing s moved with
  | zero => rfl
  | succ k ih => unfold State.moveRows; split <;> simp [ih]
@[simp] theorem State.moveGood_fixed (s : State) (n d b) : (s.moveGood n d b).fixed = s.fixed := by
  simp [State.moveGood]
@[simp] theorem State.copyEcc_fixed (s : State) (n kind o) : (s.copyEcc n kind o).fixed = s.fixed := by
  unfold State.copyEcc
  split <;> simp
@[simp] theorem State.copyDone_fixed (s : State) (n q f) : (s.copyDone n q f).fixed = s.fixed := by
  simp [State.copyDone]

/-! ### The vector queue -/

@[simp] theorem State.refuseVec_fixed (s : State) (n v code) : (s.refuseVec n v code).fixed = s.fixed := (rfl)
@[simp] theorem State.vecPerform_fixed (s : State) (n v) : (s.vecPerform n v).fixed = s.fixed := by
  unfold State.vecPerform
  dsimp only
  (repeat' split) <;> simp

/-! ### Combine groups -/

@[simp] theorem State.setRslot_fixed (s : State) (tc addr v) : (s.setRslot tc addr v).fixed = s.fixed := (rfl)
@[simp] theorem State.treeBytes_fixed (s : State) (tc n) : (s.treeBytes tc n).fixed = s.fixed := by
  simp [State.treeBytes]
@[simp] theorem State.sumTaken_fixed (s : State) (tc n) : (s.sumTaken tc n).fixed = s.fixed := by
  simp [State.sumTaken]
@[simp] theorem State.treeWrite_fixed (s : State) (tc addr bs) : (s.treeWrite tc addr bs).fixed = s.fixed := by
  unfold State.treeWrite
  dsimp only
  split <;> simp
@[simp] theorem State.treeSpread_fixed (s : State) (tc addr bs) : (s.treeSpread tc addr bs).fixed = s.fixed := by
  simp [State.treeSpread]
@[simp] theorem State.treeDown_fixed (s : State) (tc addr bs) : (s.treeDown tc addr bs).fixed = s.fixed := by
  simp [State.treeDown]
@[simp] theorem State.redAnswer_fixed (s : State) (tc addr status src) :
    (s.redAnswer tc addr status src).fixed = s.fixed := by
  unfold State.redAnswer
  split <;> simp
@[simp] theorem State.redFail_fixed (s : State) (tc addr slot status) :
    (s.redFail tc addr slot status).fixed = s.fixed := by
  simp [State.redFail]
@[simp] theorem State.slotFull_fixed (s : State) (tc addr sum slot) :
    (s.slotFull tc addr sum slot).fixed = s.fixed := by
  simp [State.slotFull]
@[simp] theorem State.reduce_fixed (s : State) (tc addr src data) :
    (s.reduce tc addr src data).1.fixed = s.fixed := by
  unfold State.reduce
  dsimp only
  (repeat' split) <;> simp

/-! ### The memory controllers -/

@[simp] theorem State.memAnswer_fixed (s : State) (f r st data) : (s.memAnswer f r st data).fixed = s.fixed := by
  simp [State.memAnswer]
@[simp] theorem State.workAnswer_fixed (s : State) (f st data a) : (s.workAnswer f st data a).fixed = s.fixed := by
  unfold State.workAnswer
  split <;> simp
@[simp] theorem State.crcRepeats_fixed (s : State) (ms ch write n) :
    (s.crcRepeats ms ch write n).fixed = s.fixed := by
  simp [State.crcRepeats]
@[simp] theorem State.workRepeats_fixed (s : State) (f w) : (s.workRepeats f w).fixed = s.fixed := by
  simp [State.workRepeats]
@[simp] theorem State.ddrPut_fixed (s : State) (f w data bad) : (s.ddrPut f w data bad).fixed = s.fixed := by
  simp [State.ddrPut]
@[simp] theorem State.ddrGet_fixed (s : State) (f w ecc off) : (s.ddrGet f w ecc off).fixed = s.fixed := by
  simp [State.ddrGet]
@[simp] theorem State.workEffect_fixed (s : State) (f w) : (s.workEffect f w).fixed = s.fixed := by
  unfold State.workEffect
  split <;> simp
@[simp] theorem State.memServe_fixed (s : State) (f w since) : (s.memServe f w since).fixed = s.fixed := by
  unfold State.memServe
  split <;> simp
@[simp] theorem State.serveWaiting_fixed (s : State) (f k) : (s.serveWaiting f k).fixed = s.fixed := by
  induction k generalizing s with
  | zero => rfl
  | succ k ih => unfold State.serveWaiting; split <;> simp [ih]
@[simp] theorem State.serveField_fixed (s : State) (f) : (s.serveField f).fixed = s.fixed := by
  simp [State.serveField]
@[simp] theorem State.memArrive_fixed (s : State) (f w) : (s.memArrive f w).fixed = s.fixed := by
  simp [State.memArrive]

/-! ### The fabric -/

@[simp] theorem State.hopRetries_fixed (s : State) (r inp plane n) :
    (s.hopRetries r inp plane n).fixed = s.fixed := by
  simp [State.hopRetries]
@[simp] theorem State.markLane_fixed (s : State) (r inp plane group) :
    (s.markLane r inp plane group).fixed = s.fixed := by
  unfold State.markLane
  split <;> simp
@[simp] theorem State.bellRefused_fixed (s : State) (p st) : (s.bellRefused p st).fixed = s.fixed := by
  simp [State.bellRefused]
@[simp] theorem State.bellDelivered_fixed (s : State) (p) : (s.bellDelivered p).fixed = s.fixed := by
  unfold State.bellDelivered
  dsimp only
  (repeat' split) <;> simp
@[simp] theorem State.svcDelivered_fixed (s : State) (p) : (s.svcDelivered p).fixed = s.fixed := by
  unfold State.svcDelivered
  split
  · rfl
  · split <;> simp
@[simp] theorem State.overLink_fixed (s : State) (p l) : (s.overLink p l).fixed = s.fixed := by
  unfold State.overLink
  split <;> simp
@[simp] theorem State.writeAt_fixed (s : State) (p ep o) : (s.writeAt p ep o).fixed = s.fixed := by
  unfold State.writeAt
  dsimp only
  (repeat' split) <;> simp
@[simp] theorem State.wsEcc_fixed (s : State) (n a ecc) : (s.wsEcc n a ecc).fixed = s.fixed := by
  unfold State.wsEcc
  split <;> simp
@[simp] theorem State.readAt_fixed (s : State) (p ep o) : (s.readAt p ep o).fixed = s.fixed := by
  unfold State.readAt
  dsimp only
  (repeat' split) <;> simp
@[simp] theorem State.copyMoved_fixed (s : State) (n q i span) : (s.copyMoved n q i span).fixed = s.fixed := by
  simp [State.copyMoved]
@[simp] theorem State.copyBrought_fixed (s : State) (x n q i f bs) :
    (s.copyBrought x n q i f bs).fixed = s.fixed := by
  simp [State.copyBrought]
@[simp] theorem State.sendAgain_fixed (s : State) (x) : (s.sendAgain x).fixed = s.fixed := by
  simp [State.sendAgain]
@[simp] theorem State.copyAnswer_fixed (s : State) (x n q st span) :
    (s.copyAnswer x n q st span).fixed = s.fixed := by
  unfold State.copyAnswer
  split <;> simp
@[simp] theorem State.redAck_fixed (s : State) (c st) : (s.redAck c st).fixed = s.fixed := by simp [State.redAck]
@[simp] theorem State.setCslot_fixed (s : State) (k v) : (s.setCslot k v).fixed = s.fixed := (rfl)
@[simp] theorem State.answerAll_fixed (s : State) (k st) : (s.answerAll k st).fixed = s.fixed := by
  simp [State.answerAll]
@[simp] theorem State.ackIn_fixed (s : State) (p x) : (s.ackIn p x).fixed = s.fixed := by
  unfold State.ackIn
  dsimp only
  (repeat' split) <;> simp
@[simp] theorem State.dataIn_fixed (s : State) (p bad x) : (s.dataIn p bad x).fixed = s.fixed := by
  unfold State.dataIn
  dsimp only
  (repeat' split) <;> simp
@[simp] theorem State.redAckIn_fixed (s : State) (p x) : (s.redAckIn p x).fixed = s.fixed := by
  unfold State.redAckIn
  split <;> simp
@[simp] theorem State.response_fixed (s : State) (p) {f : State → Txn → State}
    (h : ∀ s x, (f s x).fixed = s.fixed) : (s.response p f).fixed = s.fixed := by
  unfold State.response
  split
  · rfl
  · dsimp only
    split <;> simp [h]
@[simp] theorem State.useLcore_fixed (s : State) (c) : (s.useLcore c).fixed = s.fixed := by
  unfold State.useLcore
  split <;> simp
@[simp] theorem State.combine_fixed (s : State) (k sum) : (s.combine k sum).fixed = s.fixed := by
  unfold State.combine
  dsimp only
  (repeat' split) <;> simp
@[simp] theorem State.failedTo_fixed (s : State) (k c st) : (s.failedTo k c st).fixed = s.fixed := by
  simp [State.failedTo]
@[simp] theorem State.cslotFail_fixed (s : State) (k c st) : (s.cslotFail k c st).fixed = s.fixed := by
  simp [State.cslotFail]
@[simp] theorem State.contribArrived_fixed (s : State) (c) : (s.contribArrived c).fixed = s.fixed := by
  unfold State.contribArrived
  dsimp only
  split <;> simp
@[simp] theorem State.contribute_fixed (s : State) (c tag) : (s.contribute c tag).fixed = s.fixed := by
  unfold State.contribute
  dsimp only
  (repeat' split) <;> simp
@[simp] theorem State.bellDataIn_fixed (s : State) (x b st img) : (s.bellDataIn x b st img).fixed = s.fixed := by
  unfold State.bellDataIn
  split <;> simp
@[simp] theorem State.resendSum_fixed (s : State) (tc) : (s.resendSum tc).fixed = s.fixed := by
  unfold State.resendSum
  split
  · rfl
  · split <;> simp
@[simp] theorem State.deliveryOver_fixed (s : State) (x) : (s.deliveryOver x).fixed = s.fixed := by
  unfold State.deliveryOver
  dsimp only
  (repeat' split) <;> simp
@[simp] theorem State.serveAll_fixed (s : State) : s.serveAll.fixed = s.fixed := by simp [State.serveAll]
@[simp] theorem State.unroutable_fixed (s : State) (e) : (s.unroutable e).fixed = s.fixed := by
  unfold State.unroutable
  dsimp only
  (repeat' split) <;> simp
@[simp] theorem State.loadTables_fixed (s : State) : s.loadTables.fixed = s.fixed := by simp [State.loadTables]

/-! ### The memory -/

@[simp] theorem State.scrubUnit_fixed (s : State) (ms a ecc written granaryGood) :
    (s.scrubUnit ms a ecc written granaryGood).fixed = s.fixed := by
  unfold State.scrubUnit
  split <;> simp
@[simp] theorem State.retrained_fixed (s : State) (ms ch) : (s.retrained ms ch).fixed = s.fixed := (rfl)
@[simp] theorem State.refuseField_fixed (s : State) (f) : (s.refuseField f).fixed = s.fixed := by
  simp [State.refuseField]
@[simp] theorem State.channelFailed_fixed (s : State) (ms ch) : (s.channelFailed ms ch).fixed = s.fixed := by
  simp [State.channelFailed]
@[simp] theorem State.retrainFailed_fixed (s : State) (ms ch) : (s.retrainFailed ms ch).fixed = s.fixed := by
  simp [State.retrainFailed]
@[simp] theorem State.remotePage_fixed (s : State) (r) : (s.remotePage r).fixed = s.fixed := by
  simp [State.remotePage]

/-! ### Clocks -/

@[simp] theorem State.stretch_fixed (s : State) (r) : (s.stretch r).fixed = s.fixed := by simp [State.stretch]
@[simp] theorem State.recalibrating_fixed (s : State) (r) : (s.recalibrating r).fixed = s.fixed := by
  simp [State.recalibrating]
@[simp] theorem State.calFail_fixed (s : State) (x rev found) : (s.calFail x rev found).fixed = s.fixed := by
  simp [State.calFail]
@[simp] theorem State.calibrate_fixed (s : State) (x o) : (s.calibrate x o).fixed = s.fixed := by
  simp [State.calibrate]
@[simp] theorem State.servedAgain_fixed (s : State) (r) : (s.servedAgain r).fixed = s.fixed := by
  simp [State.servedAgain]
@[simp] theorem State.nextChange_fixed (s : State) (r latched) : (s.nextChange r latched).fixed = s.fixed := by
  unfold State.nextChange
  split <;> simp
@[simp] theorem State.restartCore_fixed (s : State) (n) : (s.restartCore n).fixed = s.fixed := by
  simp [State.restartCore]
@[simp] theorem State.restartOwn_fixed (s : State) (n) : (s.restartOwn n).fixed = s.fixed := by
  simp [State.restartOwn]

/-! ### The mirror -/

@[simp] theorem State.swapFrames_fixed (s : State) (p q) : (s.swapFrames p q).fixed = s.fixed := (rfl)
@[simp] theorem State.exchangeAll_fixed (s : State) (n ps) : (s.exchangeAll n ps).1.fixed = s.fixed := by
  induction ps generalizing s with
  | nil => rfl
  | cons p ps ih =>
    unfold State.exchangeAll
    dsimp only
    split
    · split <;> simp [ih]
    · exact ih s
@[simp] theorem State.exchange_fixed (s : State) (n) : (s.exchange n).1.fixed = s.fixed := by
  simp [State.exchange]
@[simp] theorem State.admitSite_fixed (s : State) (n) : (s.admitSite n).fixed = s.fixed := (rfl)
@[simp] theorem State.powerOff_fixed (s : State) (n) : (s.powerOff n).fixed = s.fixed := by simp [State.powerOff]

/-! ### Power -/

@[simp] theorem State.halfSpeed_fixed (s : State) (f) : (s.halfSpeed f).fixed = s.fixed := by
  simp [State.halfSpeed]
@[simp] theorem State.ibcStep_fixed (s : State) (f w) : (s.ibcStep f w).fixed = s.fixed := (rfl)
@[simp] theorem State.tempStep_fixed (s : State) (d t) : (s.tempStep d t).fixed = s.fixed := by
  simp [State.tempStep]
@[simp] theorem State.railOff_fixed (s : State) (f cause) : (s.railOff f cause).fixed = s.fixed := by
  simp [State.railOff]
@[simp] theorem State.railPhases_fixed (s : State) (f) : (s.railPhases f).fixed = s.fixed := by
  simp [State.railPhases]
@[simp] theorem State.groupStart_fixed (s : State) : s.groupStart.fixed = s.fixed := by simp [State.groupStart]
@[simp] theorem State.groupEnd_fixed (s : State) : s.groupEnd.fixed = s.fixed := by simp [State.groupEnd]
@[simp] theorem State.resendGives_fixed (s : State) (window) : (s.resendGives window).fixed = s.fixed := (rfl)
@[simp] theorem State.giveOne_fixed (s : State) (window r) : (s.giveOne window r).fixed = s.fixed := by
  simp [State.giveOne]
@[simp] theorem State.giveAll_fixed (s : State) (window) : (s.giveAll window).fixed = s.fixed := by
  simp [State.giveAll]

/-! ### Security -/

@[simp] theorem State.takeLeaf_fixed (s : State) : s.takeLeaf.1.fixed = s.fixed := by
  unfold State.takeLeaf
  dsimp only
  split <;> simp
@[simp] theorem State.newKey_fixed (s : State) : s.newKey.1.fixed = s.fixed := (rfl)
@[simp] theorem State.confirm_fixed (s : State) (l o) : (s.confirm l o).fixed = s.fixed := by simp [State.confirm]
@[simp] theorem State.startConfirm_fixed (s : State) (l) : (s.startConfirm l).fixed = s.fixed := by
  simp [State.startConfirm]

/-! ### Starts -/

@[simp] theorem State.loseKeys_fixed (s : State) : s.loseKeys.fixed = s.fixed := by
  refine State.fixed_foldl (fun s h => ?_) _ _
  dsimp only
  split <;> simp
@[simp] theorem State.refollow_fixed (s : State) : s.refollow.fixed = s.fixed := by simp [State.refollow]
@[simp] theorem State.toRecovery_fixed (s : State) (why) : (s.toRecovery why).fixed = s.fixed := (rfl)
@[simp] theorem State.verified_fixed (s : State) (o) : (s.verified o).fixed = s.fixed := (rfl)
@[simp] theorem State.numbered_fixed (s : State) (cold) : (s.numbered cold).fixed = s.fixed := by
  simp [State.numbered]
@[simp] theorem State.replayed_fixed (s : State) (o cold) : (s.replayed o cold).fixed = s.fixed := by
  unfold State.replayed
  dsimp only
  split <;> simp
@[simp] theorem State.startBad_fixed (s : State) (unit index cause) :
    (s.startBad unit index cause).fixed = s.fixed := by
  simp [State.startBad]
@[simp] theorem State.darkPorts_fixed (s : State) : s.darkPorts.fixed = s.fixed := by simp [State.darkPorts]
@[simp] theorem State.portsTested_fixed (s : State) (o f) : (s.portsTested o f).fixed = s.fixed := by
  simp [State.portsTested]
@[simp] theorem State.lanesTrained_fixed (s : State) (o) : (s.lanesTrained o).fixed = s.fixed := by
  simp [State.lanesTrained]
@[simp] theorem State.railsUp_fixed (s : State) (o) : (s.railsUp o).fixed = s.fixed := by simp [State.railsUp]
@[simp] theorem State.restoredSite_fixed (s : State) (n) : (s.restoredSite n).fixed = s.fixed := (rfl)
@[simp] theorem State.katEngine_fixed (s : State) (n e l) : (s.katEngine n e l).1.fixed = s.fixed := by
  unfold State.katEngine
  split <;> simp
@[simp] theorem State.katSite_fixed (s : State) (o n) : (s.katSite o n).fixed = s.fixed := by
  have h (r : List (EngNo × LocalObs)) (x : State × Bool) :
      (r.foldl (fun a p => ((a.1.katEngine n p.1 p.2).1, a.2 && (a.1.katEngine n p.1 p.2).2)) x).1.fixed = x.1.fixed :=
    foldl_keeps (fun x : State × Bool => x.1.fixed)
      (fun a p => ((a.1.katEngine n p.1 p.2).1, a.2 && (a.1.katEngine n p.1 p.2).2))
      (fun a p => State.katEngine_fixed a.1 n p.1 p.2) r x
  simp [State.katSite, h]
@[simp] theorem State.tested_fixed (s : State) (o) : (s.tested o).fixed = s.fixed := by simp [State.tested]
@[simp] theorem State.calibrated_fixed (s : State) : s.calibrated.fixed = s.fixed := by simp [State.calibrated]
@[simp] theorem State.trainChannel_fixed (s : State) (o full ms ch) :
    (s.trainChannel o full ms ch).fixed = s.fixed := by
  simp [State.trainChannel]
@[simp] theorem State.trainSite_fixed (s : State) (o cold full ms) :
    (s.trainSite o cold full ms).fixed = s.fixed := by
  simp [State.trainSite]
@[simp] theorem State.memTrained_fixed (s : State) (o cold full) : (s.memTrained o cold full).fixed = s.fixed := by
  simp [State.memTrained]
@[simp] theorem State.frameBad_fixed (s : State) (p) : (s.frameBad p).fixed = s.fixed := by simp [State.frameBad]
@[simp] theorem State.memTested_fixed (s : State) (o full) : (s.memTested o full).fixed = s.fixed := by
  simp [State.memTested]
@[simp] theorem State.beginReset_fixed (s : State) : s.beginReset.fixed = s.fixed := by simp [State.beginReset]
@[simp] theorem State.lockRetrain_fixed (s : State) (l) : (s.lockRetrain l).fixed = s.fixed := by
  unfold State.lockRetrain
  dsimp only
  split <;> simp
@[simp] theorem State.chanRelock_fixed (s : State) (x) : (s.chanRelock x).fixed = s.fixed := by
  simp [State.chanRelock]

/-! ### Tallies -/

@[simp] theorem State.restoreDdr_fixed (s : State) (c) : (s.restoreDdr c).fixed = s.fixed := by
  simp [State.restoreDdr]
@[simp] theorem State.restoreCore_fixed (s : State) (v) : (s.restoreCore v).fixed = s.fixed := by
  unfold State.restoreCore
  dsimp only
  split <;> simp
@[simp] theorem State.restoreBell_fixed (s : State) (p) : (s.restoreBell p).fixed = s.fixed := by
  simp [State.restoreBell]
@[simp] theorem State.zeroUnsaved_fixed (s : State) (saved) : (s.zeroUnsaved saved).fixed = s.fixed := by
  simp [State.zeroUnsaved]
@[simp] theorem State.rearmBell_fixed (s : State) (b) : (s.rearmBell b).fixed = s.fixed := (rfl)
@[simp] theorem State.stopTally_fixed (s : State) (o) : (s.stopTally o).fixed = s.fixed := (rfl)

/-! ### Recovery -/

@[simp] theorem State.setJobs_fixed (s : State) (l) : (s.setJobs l).fixed = s.fixed := (rfl)
@[simp] theorem State.setRecov_fixed (s : State) (v) : (s.setRecov v).fixed = s.fixed := (rfl)
@[simp] theorem State.dropRecov_fixed (s : State) (o job) : (s.dropRecov o job).fixed = s.fixed := (rfl)
@[simp] theorem State.sendUp_fixed (s : State) (k r) : (s.sendUp k r).fixed = s.fixed := by
  unfold State.sendUp
  split <;> simp
@[simp] theorem State.sendDown_fixed (s : State) (k r cause instant) :
    (s.sendDown k r cause instant).fixed = s.fixed := (rfl)
@[simp] theorem State.sendOn_fixed (s : State) (k r cause but) :
    (s.sendOn k r cause but).fixed = s.fixed := (rfl)
@[simp] theorem State.endJob_fixed (s : State) (o job status detail) :
    (s.endJob o job status detail).fixed = s.fixed := by
  simp [State.endJob]
@[simp] theorem State.failHere_fixed (s : State) (o job cause) : (s.failHere o job cause).fixed = s.fixed := by
  unfold State.failHere
  split <;> simp
@[simp] theorem State.failJob_fixed (s : State) (o job cause) : (s.failJob o job cause).fixed = s.fixed := by
  simp [State.failJob]
@[simp] theorem State.endAll_fixed (s : State) (o job status detail) :
    (s.endAll o job status detail).fixed = s.fixed := by
  simp [State.endAll]
@[simp] theorem State.stopCores_fixed (s : State) (o job) : (s.stopCores o job).fixed = s.fixed := by
  simp [State.stopCores]
@[simp] theorem State.counted_fixed (s : State) (o job) : (s.counted o job).fixed = s.fixed := (rfl)
@[simp] theorem State.beginRestore_fixed (s : State) (r) : (s.beginRestore r).fixed = s.fixed := (rfl)
@[simp] theorem State.allStopped_fixed (s : State) (r) : (s.allStopped r).fixed = s.fixed := by
  unfold State.allStopped
  dsimp only
  (repeat' split) <;> simp
@[simp] theorem State.startRecovery_fixed (s : State) (o job cls replace src attempt) :
    (s.startRecovery o job cls replace src attempt).fixed = s.fixed := by
  simp [State.startRecovery]
@[simp] theorem State.joinRecovery_fixed (s : State) (r cls replace) :
    (s.joinRecovery r cls replace).fixed = s.fixed := by
  simp [State.joinRecovery]
@[simp] theorem State.rollback_fixed (s : State) (o job cls replace) :
    (s.rollback o job cls replace).fixed = s.fixed := by
  unfold State.rollback
  split <;> simp
@[simp] theorem State.goWith_fixed (s : State) (r i) : (s.goWith r i).fixed = s.fixed := (rfl)
@[simp] theorem State.allReady_fixed (s : State) (r) : (s.allReady r).fixed = s.fixed := by
  unfold State.allReady
  split
  · split <;> simp
  · rfl
@[simp] theorem State.reload_fixed (s : State) (o job) : (s.reload o job).fixed = s.fixed := by
  refine State.fixed_foldl (fun s i => ?_) _ _
  split <;> simp
@[simp] theorem State.restoreTally_fixed (s : State) (o job n) : (s.restoreTally o job n).fixed = s.fixed := by
  unfold State.restoreTally
  split <;> simp
@[simp] theorem State.refillAll_fixed (s : State) (n) : (s.refillAll n).fixed = s.fixed := (rfl)

/-! ### Reducers and trees -/

@[simp] theorem State.sendResetAt_fixed (s : State) (t0 root) : (s.sendResetAt t0 root).fixed = s.fixed := (rfl)

/-! ### The classes of descriptors -/

@[simp] theorem State.done_fixed (s : State) (d status) : (s.done d status).fixed = s.fixed := (rfl)
@[simp] theorem State.doneTransfer_fixed (s : State) (d st) : (s.doneTransfer d st).fixed = s.fixed := (rfl)
@[simp] theorem State.adoptMirror_fixed (s : State) (n first pages) :
    (s.adoptMirror n first pages).fixed = s.fixed := by
  simp [State.adoptMirror]
@[simp] theorem State.fillMirror_fixed (s : State) (n) : (s.fillMirror n).fixed = s.fixed := by
  simp [State.fillMirror]
@[simp] theorem State.stagePut_fixed (s : State) (d bs) : (s.stagePut d bs).fixed = s.fixed := by
  simp [State.stagePut]
@[simp] theorem State.lwEcc_fixed (s : State) (d o) : (s.lwEcc d o).fixed = s.fixed := by simp [State.lwEcc]
@[simp] theorem State.lwWrite_fixed (s : State) (d n hostData) : (s.lwWrite d n hostData).fixed = s.fixed := by
  simp [State.lwWrite]
@[simp] theorem State.lwAt_fixed (s : State) (d n hostData source) :
    (s.lwAt d n hostData source).fixed = s.fixed := by
  simp [State.lwAt]
@[simp] theorem State.launchCore_fixed (s : State) (d image n) : (s.launchCore d image n).fixed = s.fixed := by
  simp [State.launchCore]
@[simp] theorem State.wakeScope_fixed (s : State) (o) : (s.wakeScope o).fixed = s.fixed := by
  simp [State.wakeScope]
@[simp] theorem State.launchNow_fixed (s : State) (d image) : (s.launchNow d image).fixed = s.fixed := by
  simp [State.launchNow]
@[simp] theorem State.cpWrite_fixed (s : State) (d off bs) : (s.cpWrite d off bs).fixed = s.fixed := by
  unfold State.cpWrite
  dsimp only
  (repeat' split) <;> simp
@[simp] theorem State.cpSegments_fixed (s : State) (d hostData fail k i) :
    (s.cpSegments d hostData fail k i).fixed = s.fixed := by
  induction k generalizing s i with
  | zero => simp [State.cpSegments]
  | succ k ih =>
    unfold State.cpSegments
    dsimp only
    (repeat' split) <;> simp [ih]
@[simp] theorem State.bellOp_fixed (s : State) (op d) {f : State → State} (h : ∀ s, (f s).fixed = s.fixed) :
    (s.bellOp op d f).fixed = s.fixed := by
  simp [State.bellOp, h]
@[simp] theorem State.treeWritten_fixed (s : State) : s.treeWritten.fixed = s.fixed := (rfl)
@[simp] theorem State.writeReport_fixed (s : State) (d bs) : (s.writeReport d bs).fixed = s.fixed := by
  simp [State.writeReport]
@[simp] theorem State.psWrite_fixed (s : State) (d) : (s.psWrite d).fixed = s.fixed := by simp [State.psWrite]
@[simp] theorem State.deadlineReady_fixed (s : State) (d workDone) :
    (s.deadlineReady d workDone).fixed = s.fixed := (rfl)
@[simp] theorem State.launchDeadline_fixed (s : State) (d workDone) :
    (s.launchDeadline d workDone).fixed = s.fixed := by
  simp [State.launchDeadline]

/-! ### Power states of a core -/

@[simp] theorem State.wakeDone_fixed (s : State) (n) : (s.wakeDone n).fixed = s.fixed := by simp [State.wakeDone]

/-! ### Host ports -/

@[simp] theorem State.dropHostCopies_fixed (s : State) (n q k) : (s.dropHostCopies n q k).fixed = s.fixed := by
  induction k generalizing s with
  | zero => rfl
  | succ k ih => unfold State.dropHostCopies; split <;> simp [ih]
@[simp] theorem State.loseHost_fixed (s : State) : s.loseHost.fixed = s.fixed := by simp [State.loseHost]
@[simp] theorem State.moveRings_fixed (s : State) (p) : (s.moveRings p).fixed = s.fixed := by
  simp [State.moveRings]
@[simp] theorem State.writeAgain_fixed (s : State) (x) : (s.writeAgain x).fixed = s.fixed := by
  simp [State.writeAgain]

/-! ### Hamlets -/

@[simp] theorem State.clearCores_fixed (s : State) (h) : (s.clearCores h).fixed = s.fixed := by
  simp [State.clearCores]
@[simp] theorem State.createStart_fixed (s : State) (d) : (s.createStart d).fixed = s.fixed := by
  simp [State.createStart]
@[simp] theorem State.abortRings_fixed (s : State) (h) : (s.abortRings h).fixed = s.fixed := by
  simp [State.abortRings]
@[simp] theorem State.abortSlots_fixed (s : State) (h) : (s.abortSlots h).fixed = s.fixed := by
  simp [State.abortSlots]
@[simp] theorem State.disarmBells_fixed (s : State) (bs) : (s.disarmBells bs).fixed = s.fixed := by
  simp [State.disarmBells]
@[simp] theorem State.idleSources_fixed (s : State) (h) : (s.idleSources h).fixed = s.fixed := by
  simp [State.idleSources]
@[simp] theorem State.dropKeys_fixed (s : State) (n) : (s.dropKeys n).fixed = s.fixed := (rfl)
@[simp] theorem State.zeroTally_fixed (s : State) (h) : (s.zeroTally h).fixed = s.fixed := by
  simp [State.zeroTally]
@[simp] theorem State.emptyHamlet_fixed (s : State) (n) : (s.emptyHamlet n).fixed = s.fixed := by
  simp [State.emptyHamlet]
@[simp] theorem State.emptyStart_fixed (s : State) (d st) : (s.emptyStart d st).fixed = s.fixed := by
  simp [State.emptyStart]
@[simp] theorem State.hamletStart_fixed (s : State) (d) : (s.hamletStart d).fixed = s.fixed := by
  unfold State.hamletStart
  split <;> simp
@[simp] theorem State.hamletCommand_fixed (s : State) (d) : (s.hamletCommand d).fixed = s.fixed := by
  unfold State.hamletCommand
  dsimp only
  (repeat' split) <;> simp
@[simp] theorem State.answerReplaced_fixed (s : State) (n ids) : (s.answerReplaced n ids).fixed = s.fixed := by
  refine State.fixed_foldl (fun s i => ?_) _ _
  split <;> simp
@[simp] theorem State.endTransition_fixed (s : State) (n before status) :
    (s.endTransition n before status).fixed = s.fixed := by
  unfold State.endTransition
  dsimp only
  (repeat' split) <;> simp
@[simp] theorem State.takeKey_fixed (s : State) : s.takeKey.1.fixed = s.fixed := (rfl)
@[simp] theorem State.givePages_fixed (s : State) (n h key) : (s.givePages n h key).fixed = s.fixed := by
  simp [State.givePages]
@[simp] theorem State.setOwners_fixed (s : State) (h o) : (s.setOwners h o).fixed = s.fixed := by
  simp [State.setOwners]
@[simp] theorem State.zeroiseFail_fixed (s : State) (n) : (s.zeroiseFail n).fixed = s.fixed := by
  simp [State.zeroiseFail]
@[simp] theorem State.returned_fixed (s : State) (n h) : (s.returned n h).fixed = s.fixed := by
  simp [State.returned]
@[simp] theorem State.rekeyed_fixed (s : State) (n h) : (s.rekeyed n h).fixed = s.fixed := by simp [State.rekeyed]

/-! ### Links -/

@[simp] theorem State.spareLane_fixed (s : State) (l x) : (s.spareLane l x).fixed = s.fixed := (rfl)
@[simp] theorem State.useLanes_fixed (s : State) (l best) : (s.useLanes l best).fixed = s.fixed := by
  simp [State.useLanes]
@[simp] theorem State.steer_fixed (s : State) (l best) : (s.steer l best).fixed = s.fixed := by
  refine (State.useLanes_fixed _ l best).trans (State.fixed_foldl (fun s x => ?_) _ _)
  split <;> simp
@[simp] theorem State.linkToDown_fixed (s : State) (l) : (s.linkToDown l).fixed = s.fixed := by
  refine (State.fixed_foldl (fun s p => ?_) _ _).trans (by simp)
  split <;> simp
@[simp] theorem State.linkFails_fixed (s : State) (l) : (s.linkFails l).fixed = s.fixed := by
  simp [State.linkFails]
@[simp] theorem State.authFails_fixed (s : State) (l keying) : (s.authFails l keying).fixed = s.fixed := by
  simp [State.authFails]
@[simp] theorem State.trainFails_fixed (s : State) (l cls detail addr) :
    (s.trainFails l cls detail addr).fixed = s.fixed := by
  simp [State.trainFails]
@[simp] theorem State.fromLink_fixed (s : State) (l p) : (s.fromLink l p).fixed = s.fixed := by
  unfold State.fromLink
  split <;> simp
@[simp] theorem State.svcFromLink_fixed (s : State) (l p) : (s.svcFromLink l p).fixed = s.fixed := by
  unfold State.svcFromLink
  split <;> simp
@[simp] theorem State.toReducer_fixed (s : State) (l p) : (s.toReducer l p).fixed = s.fixed := by
  unfold State.toReducer
  split <;> simp
@[simp] theorem State.sumAnswer_fixed (s : State) (tc p) : (s.sumAnswer tc p).fixed = s.fixed := by
  unfold State.sumAnswer
  dsimp only
  (repeat' split) <;> simp
@[simp] theorem State.responseIn_fixed (s : State) (l p) : (s.responseIn l p).fixed = s.fixed := by
  unfold State.responseIn
  dsimp only
  (repeat' split) <;> simp
@[simp] theorem State.linkPacketHere_fixed (s : State) (l p) : (s.linkPacketHere l p).fixed = s.fixed := by
  unfold State.linkPacketHere
  dsimp only
  (repeat' split) <;> simp
@[simp] theorem State.linkPacket_fixed (s : State) (l p) : (s.linkPacket l p).fixed = s.fixed := by
  simp [State.linkPacket]
@[simp] theorem State.replay_fixed (s : State) (l) : (s.replay l).fixed = s.fixed := (rfl)
@[simp] theorem State.retrainUp_fixed (s : State) (l) : (s.retrainUp l).fixed = s.fixed := by
  simp [State.retrainUp]

/-! ### The mailbox -/

@[simp] theorem State.mboxDone_fixed (s : State) (status bs) : (s.mboxDone status bs).fixed = s.fixed := (rfl)
@[simp] theorem State.attestWith_fixed (s : State) (scope nonce key leaf) :
    (s.attestWith scope nonce key leaf).fixed = s.fixed := by
  unfold State.attestWith
  split <;> simp
@[simp] theorem State.dropSession_fixed (s : State) : s.dropSession.fixed = s.fixed := by
  unfold State.dropSession
  split <;> simp
@[simp] theorem State.holdSession_fixed (s : State) (port) : (s.holdSession port).fixed = s.fixed := (rfl)
@[simp] theorem State.sessionBegin_fixed (s : State) (port) : (s.sessionBegin port).1.fixed = s.fixed := by
  unfold State.sessionBegin
  dsimp only
  split <;> simp
@[simp] theorem State.sessionWrite_fixed (s : State) (port off max chunk) :
    (s.sessionWrite port off max chunk).1.fixed = s.fixed := by
  unfold State.sessionWrite
  dsimp only
  (repeat' split) <;> simp
@[simp] theorem State.sessionEnd_fixed (s : State) (port obs) : (s.sessionEnd port obs).1.fixed = s.fixed := by
  unfold State.sessionEnd
  dsimp only
  (repeat' split) <;> simp

/-! ### The management port -/

@[simp] theorem State.mctpAnswer_fixed (s : State) (bs) : (s.mctpAnswer bs).fixed = s.fixed := (rfl)
@[simp] theorem State.writeDevnum_fixed (s : State) (v) : (s.writeDevnum v).fixed = s.fixed := by
  unfold State.writeDevnum
  dsimp only
  (repeat' split) <;> simp
@[simp] theorem State.foldRecord_fixed (s : State) (cls unit v) :
    (s.foldRecord cls unit v).fixed = s.fixed := (rfl)

/-! ### Rings -/

@[simp] theorem State.enableRing_fixed (s : State) (r) : (s.enableRing r).fixed = s.fixed := by
  simp [State.enableRing]

/-! ### Registers -/

end Sys2Proof.Machine
end

section
/-!
PROOF. Every command but those that bind or unbind logical cores answers a next state and leaves the queue, the core map
and the fuses alone.
-/

namespace Sys2Proof.Machine

@[simp] theorem keepsFixed_runClass {s : State} {id cls mine valid} {f : Desc → State} (h : ∀ d, (f d).fixed = s.fixed) :
    keepsFixed s (s.runClass id cls mine valid f) := by
  unfold State.runClass
  split
  · simp
  · split
    · simp
    · split <;> simp [h]

theorem keepsFixed_managed {s u : State} {f} (hu : u.fixed = s.fixed) (h : ∀ v, (f v).fixed = v.fixed) :
    keepsFixed s (u.managed f) := by
  unfold State.managed
  split <;> simp [hu, h]

theorem keepsFixed_mailbox {s u : State} {f} (hu : u.fixed = s.fixed) (h : ∀ v, (f v).fixed = v.fixed) :
    keepsFixed s (u.mailbox f) := by
  unfold State.mailbox
  split
  · simp [hu]
  · split <;> simp [hu, h]

theorem keepsFixed_recoveryBox {s u : State} {f} (hu : u.fixed = s.fixed) (h : ∀ v, (f v).1.fixed = v.fixed) :
    keepsFixed s (u.recoveryBox f) := by
  unfold State.recoveryBox
  split <;> simp [hu, h]

theorem keepsFixed_recoveryPort {s u : State} {f} (hu : u.fixed = s.fixed) (h : ∀ v, (f v).1.fixed = v.fixed) :
    keepsFixed s (u.recoveryPort f) :=
  keepsFixed_managed hu fun v => by simp [h]

/-! ### Interrupts -/

@[simp] theorem execLineFilterChange_fixed (s : State) (n level t) :
    keepsFixed s (execLineFilterChange n level t s) := by
  unfold execLineFilterChange
  dsimp only
  (repeat' split) <;> simp
@[simp] theorem execRaise_fixed (s : State) (n byBell t) : keepsFixed s (execRaise n byBell t s) := by
  unfold execRaise
  dsimp only
  (repeat' split) <;> simp
@[simp] theorem execSrcRaiseWrite_fixed (s : State) (acc n t) : keepsFixed s (execSrcRaiseWrite acc n t s) := by
  simp [execSrcRaiseWrite]
@[simp] theorem execSrcPendingClear_fixed (s : State) (acc n) : keepsFixed s (execSrcPendingClear acc n s) := by
  simp [execSrcPendingClear]
@[simp] theorem execSrcModeWrite_fixed (s : State) (acc n mode) : keepsFixed s (execSrcModeWrite acc n mode s) := by
  simp [execSrcModeWrite]
@[simp] theorem execIcClaim_fixed (s : State) (who t) : keepsFixed s (execIcClaim who t s) := by
  unfold execIcClaim
  dsimp only
  (repeat' split) <;> simp
@[simp] theorem execIcComplete_fixed (s : State) (who n) : keepsFixed s (execIcComplete who n s) := by
  unfold execIcComplete
  (repeat' split) <;> simp
@[simp] theorem execInterruptDelivery_fixed (s : State) (n t) : keepsFixed s (execInterruptDelivery n t s) := by
  simp [execInterruptDelivery]
@[simp] theorem execHoldoffEnd_fixed (s : State) (g t) : keepsFixed s (execHoldoffEnd g t s) := by
  unfold execHoldoffEnd
  dsimp only
  (repeat' split) <;> simp
@[simp] theorem execIcHoldRelease_fixed (s : State) (acc) : keepsFixed s (execIcHoldRelease acc s) := by
  simp [execIcHoldRelease]

/-! ### Bells -/

@[simp] theorem execBellAdd_fixed (s : State) (b src amount instant) :
    keepsFixed s (execBellAdd b src amount instant s) := by
  simp [execBellAdd]
@[simp] theorem execBellSet_fixed (s : State) (b src img) : keepsFixed s (execBellSet b src img s) := by
  simp [execBellSet]
@[simp] theorem execBellArm_fixed (s : State) (b src) : keepsFixed s (execBellArm b src s) := by
  simp [execBellArm]
@[simp] theorem execBellDisarm_fixed (s : State) (b src) : keepsFixed s (execBellDisarm b src s) := by
  simp [execBellDisarm]
@[simp] theorem execBellRead_fixed (s : State) (b src) : keepsFixed s (execBellRead b src s) := by
  simp [execBellRead]
@[simp] theorem execBellRefire_fixed (s : State) (b) : keepsFixed s (execBellRefire b s) := by
  unfold execBellRefire
  split <;> simp
@[simp] theorem execBellAlignedAction_fixed (s : State) (b t) : keepsFixed s (execBellAlignedAction b t s) := by
  unfold execBellAlignedAction
  dsimp only
  (repeat' split) <;> simp
@[simp] theorem execTokenDelivery_fixed (s : State) (site lc tok owned hamlet byIc) :
    keepsFixed s (execTokenDelivery site lc tok owned hamlet byIc s) := by
  unfold execTokenDelivery
  dsimp only
  (repeat' split) <;> simp

/-! ### The sequencer and dispatch -/

@[simp] theorem execPreciseException_fixed (s : State) (site) : keepsFixed s (execPreciseException site s) := by
  unfold execPreciseException
  dsimp only
  (repeat' split) <;> simp
@[simp] theorem execPendingWriteArrives_fixed (s : State) (site rd) :
    keepsFixed s (execPendingWriteArrives site rd s) := by
  unfold execPendingWriteArrives
  dsimp only
  (repeat' split) <;> simp
@[simp] theorem execProgramEnd_fixed (s : State) (site) : keepsFixed s (execProgramEnd site s) := by
  unfold execProgramEnd
  dsimp only
  (repeat' split) <;> simp
@[simp] theorem execProgressTimeout_fixed (s : State) (site t) : keepsFixed s (execProgressTimeout site t s) := by
  unfold execProgressTimeout
  dsimp only
  (repeat' split) <;> simp

/-! ### The matrix engines -/

@[simp] theorem execMatrixIssue_fixed (s : State) (site eng) : keepsFixed s (execMatrixIssue site eng s) := by
  unfold execMatrixIssue
  dsimp only
  (repeat' split) <;> simp
@[simp] theorem execEwiseIssue_fixed (s : State) (site eng) : keepsFixed s (execEwiseIssue site eng s) := by
  unfold execEwiseIssue
  dsimp only
  (repeat' split) <;> simp
@[simp] theorem execBankDrainIssue_fixed (s : State) (site eng) : keepsFixed s (execBankDrainIssue site eng s) := by
  unfold execBankDrainIssue
  dsimp only
  (repeat' split) <;> simp
@[simp] theorem execBankDrainDone_fixed (s : State) (site eng residueOk badRow) :
    keepsFixed s (execBankDrainDone site eng residueOk badRow s) := by
  unfold execBankDrainDone
  dsimp only
  (repeat' split) <;> simp
@[simp] theorem execBankFreeIssue_fixed (s : State) (site eng) : keepsFixed s (execBankFreeIssue site eng s) := by
  unfold execBankFreeIssue
  dsimp only
  (repeat' split) <;> simp
@[simp] theorem execFeedStart_fixed (s : State) (site eng) : keepsFixed s (execFeedStart site eng s) := by
  unfold execFeedStart
  dsimp only
  (repeat' split) <;> simp
@[simp] theorem execFeedDone_fixed (s : State) (site eng ecc errOff) :
    keepsFixed s (execFeedDone site eng ecc errOff s) := by
  unfold execFeedDone
  dsimp only
  (repeat' split) <;> simp
@[simp] theorem execLatchStart_fixed (s : State) (site eng) : keepsFixed s (execLatchStart site eng s) := by
  unfold execLatchStart
  dsimp only
  (repeat' split) <;> simp
@[simp] theorem execLatchDone_fixed (s : State) (site eng ecc errOff) :
    keepsFixed s (execLatchDone site eng ecc errOff s) := by
  unfold execLatchDone
  dsimp only
  (repeat' split) <;> simp
@[simp] theorem execRedirectMove_fixed (s : State) (site eng) : keepsFixed s (execRedirectMove site eng s) := by
  unfold execRedirectMove
  dsimp only
  (repeat' split) <;> simp
@[simp] theorem execCapTakesEffect_fixed (s : State) (site) : keepsFixed s (execCapTakesEffect site s) := by
  unfold execCapTakesEffect
  split <;> simp

/-! ### Checks and votes -/

@[simp] theorem execMatrixLastPlacement_fixed (s : State) (site eng obs) :
    keepsFixed s (execMatrixLastPlacement site eng obs s) := by
  unfold execMatrixLastPlacement
  dsimp only
  (repeat' split) <;> simp
@[simp] theorem execVerdict_fixed (s : State) (site eng o) : keepsFixed s (execVerdict site eng o s) := by
  unfold execVerdict
  dsimp only
  (repeat' split) <;> simp
@[simp] theorem execEwiseLastResult_fixed (s : State) (site eng obs) :
    keepsFixed s (execEwiseLastResult site eng obs s) := by
  unfold execEwiseLastResult
  dsimp only
  (repeat' split) <;> simp
@[simp] theorem execReplayStart_fixed (s : State) (site) : keepsFixed s (execReplayStart site s) := by
  unfold execReplayStart
  dsimp only
  (repeat' split) <;> simp
@[simp] theorem execVotePassIssue_fixed (s : State) (site) : keepsFixed s (execVotePassIssue site s) := by
  unfold execVotePassIssue
  dsimp only
  (repeat' split) <;> simp
@[simp] theorem execVoteDecide_fixed (s : State) (site o ewise) : keepsFixed s (execVoteDecide site o ewise s) := by
  unfold execVoteDecide
  dsimp only
  (repeat' split) <;> simp
@[simp] theorem execApplyPassVerdict_fixed (s : State) (site o) : keepsFixed s (execApplyPassVerdict site o s) := by
  unfold execApplyPassVerdict
  dsimp only
  (repeat' split) <;> simp
@[simp] theorem execPlaneRestoreDone_fixed (s : State) (site ecc) :
    keepsFixed s (execPlaneRestoreDone site ecc s) := by
  unfold execPlaneRestoreDone
  dsimp only
  (repeat' split) <;> simp
@[simp] theorem execLocalisationTestEnd_fixed (s : State) (site eng obs) :
    keepsFixed s (execLocalisationTestEnd site eng obs s) := by
  unfold execLocalisationTestEnd
  dsimp only
  (repeat' split) <;> simp
@[simp] theorem execVerdictWindowExpiry_fixed (s : State) (site eng t) :
    keepsFixed s (execVerdictWindowExpiry site eng t s) := by
  simp [execVerdictWindowExpiry]

/-! ### Copies -/

@[simp] theorem execCopyStart_fixed (s : State) (site q t) : keepsFixed s (execCopyStart site q t s) := by
  unfold execCopyStart
  dsimp only
  (repeat' split) <;> simp
@[simp] theorem execCopyComplete_fixed (s : State) (site q obs) : keepsFixed s (execCopyComplete site q obs s) := by
  unfold execCopyComplete
  dsimp only
  (repeat' split) <;> simp
@[simp] theorem execCopyFail_fixed (s : State) (site q code parity) :
    keepsFixed s (execCopyFail site q code parity s) := by
  unfold execCopyFail
  dsimp only
  (repeat' split) <;> simp
@[simp] theorem execPsScrub_fixed (s : State) (site ecc) : keepsFixed s (execPsScrub site ecc s) := by
  unfold execPsScrub
  dsimp only
  (repeat' split) <;> simp
@[simp] theorem execWsScrub_fixed (s : State) (site off ecc) : keepsFixed s (execWsScrub site off ecc s) := by
  unfold execWsScrub
  (repeat' split) <;> simp
@[simp] theorem execGranaryRefresh_fixed (s : State) (site off ecc) :
    keepsFixed s (execGranaryRefresh site off ecc s) := by
  unfold execGranaryRefresh
  (repeat' split) <;> simp
@[simp] theorem execGranaryRefillDone_fixed (s : State) (site off mirror) :
    keepsFixed s (execGranaryRefillDone site off mirror s) := by
  unfold execGranaryRefillDone
  dsimp only
  (repeat' split) <;> simp

/-! ### The vector queue -/

@[simp] theorem execVectorIssue_fixed (s : State) (site residueFails ecc errOff) :
    keepsFixed s (execVectorIssue site residueFails ecc errOff s) := by
  unfold execVectorIssue
  dsimp only
  (repeat' split) <;> simp

/-! ### Combine groups -/

@[simp] theorem execReducerAccepted_fixed (s : State) (tc addr) : keepsFixed s (execReducerAccepted tc addr s) := by
  unfold execReducerAccepted
  (repeat' split) <;> simp
@[simp] theorem execReducerSlotExpiry_fixed (s : State) (tc addr t) :
    keepsFixed s (execReducerSlotExpiry tc addr t s) := by
  unfold execReducerSlotExpiry
  dsimp only
  (repeat' split) <;> simp

/-! ### The fabric -/

@[simp] theorem execPacketForward_fixed (s : State) (rtr inp plane hop) :
    keepsFixed s (execPacketForward rtr inp plane hop s) := by
  unfold execPacketForward
  dsimp only
  (repeat' split) <;> simp
@[simp] theorem execWrite_fixed (s : State) (p ep obs) : keepsFixed s (execWrite p ep obs s) := by
  unfold execWrite
  split <;> simp
@[simp] theorem execReadReq_fixed (s : State) (p ep obs) : keepsFixed s (execReadReq p ep obs s) := by
  unfold execReadReq
  split <;> simp
@[simp] theorem execWriteAck_fixed (s : State) (p) : keepsFixed s (execWriteAck p s) := by simp [execWriteAck]
@[simp] theorem execReadData_fixed (s : State) (p bad) : keepsFixed s (execReadData p bad s) := by
  simp [execReadData]
@[simp] theorem execRedContrib_fixed (s : State) (c t) : keepsFixed s (execRedContrib c t s) := by
  unfold execRedContrib
  dsimp only
  (repeat' split) <;> simp
@[simp] theorem execBellData_fixed (s : State) (dst txn b status img) :
    keepsFixed s (execBellData dst txn b status img s) := by
  unfold execBellData
  dsimp only
  (repeat' split) <;> simp
@[simp] theorem execRedAck_fixed (s : State) (p) : keepsFixed s (execRedAck p s) := by simp [execRedAck]
@[simp] theorem execRedRetryResend_fixed (s : State) (rtr txn t) : keepsFixed s (execRedRetryResend rtr txn t s) := by
  unfold execRedRetryResend
  dsimp only
  (repeat' split) <;> simp
@[simp] theorem execCombineSlotExpiry_fixed (s : State) (root t) : keepsFixed s (execCombineSlotExpiry root t s) := by
  unfold execCombineSlotExpiry
  dsimp only
  split <;> simp
@[simp] theorem execDeliveryTimeout_fixed (s : State) (rtr txn t) :
    keepsFixed s (execDeliveryTimeout rtr txn t s) := by
  unfold execDeliveryTimeout
  dsimp only
  (repeat' split) <;> simp
@[simp] theorem execCopyTimeout_fixed (s : State) (site q t obs) : keepsFixed s (execCopyTimeout site q t obs s) := by
  unfold execCopyTimeout
  dsimp only
  (repeat' split) <;> simp
@[simp] theorem execReducerContrib_fixed (s : State) (tc addr src data t) :
    keepsFixed s (execReducerContrib tc addr src data t s) := by
  unfold execReducerContrib
  dsimp only
  (repeat' split) <;> simp
@[simp] theorem execFabricPause_fixed (s : State) (t) : keepsFixed s (execFabricPause t s) := by
  unfold execFabricPause
  dsimp only
  split <;> simp
@[simp] theorem execPauseDrained_fixed (s : State) (faultyLanes) : keepsFixed s (execPauseDrained faultyLanes s) := by
  unfold execPauseDrained
  dsimp only
  (repeat' split) <;> simp
@[simp] theorem execPauseTimeout_fixed (s : State) (t) : keepsFixed s (execPauseTimeout t s) := by
  unfold execPauseTimeout
  dsimp only
  (repeat' split) <;> simp

/-! ### The memory -/

@[simp] theorem execMemRequest_fixed (s : State) (field r) : keepsFixed s (execMemRequest field r s) := by
  unfold execMemRequest
  split <;> simp
@[simp] theorem execMemScrub_fixed (s : State) (ms addr ecc written granaryGood) :
    keepsFixed s (execMemScrub ms addr ecc written granaryGood s) := by
  unfold execMemScrub
  dsimp only
  (repeat' split) <;> simp
@[simp] theorem execMemTempRead_fixed (s : State) (ms temp) : keepsFixed s (execMemTempRead ms temp s) := by
  unfold execMemTempRead
  dsimp only
  split <;> simp
@[simp] theorem execChannelRetrainDue_fixed (s : State) (ms ch cause t) :
    keepsFixed s (execChannelRetrainDue ms ch cause t s) := by
  unfold execChannelRetrainDue
  dsimp only
  split <;> simp
@[simp] theorem execRetrainStepStart_fixed (s : State) (ms ch t) : keepsFixed s (execRetrainStepStart ms ch t s) := by
  unfold execRetrainStepStart
  dsimp only
  (repeat' split) <;> simp
@[simp] theorem execRetrainStepEnd_fixed (s : State) (ms ch obs) : keepsFixed s (execRetrainStepEnd ms ch obs s) := by
  unfold execRetrainStepEnd
  dsimp only
  (repeat' split) <;> simp
@[simp] theorem execRemotePageRequest_fixed (s : State) (r) : keepsFixed s (execRemotePageRequest r s) := by
  unfold execRemotePageRequest
  split <;> simp

/-! ### Clocks -/

@[simp] theorem execDroopTrip_fixed (s : State) (site detector) : keepsFixed s (execDroopTrip site detector s) := by
  unfold execDroopTrip
  dsimp only
  split <;> simp
@[simp] theorem execDroopDetectorClear_fixed (s : State) (site detector t) :
    keepsFixed s (execDroopDetectorClear site detector t s) := by
  simp [execDroopDetectorClear]
@[simp] theorem execDroopPhasesRelease_fixed (s : State) (site t) :
    keepsFixed s (execDroopPhasesRelease site t s) := by
  unfold execDroopPhasesRelease
  dsimp only
  (repeat' split) <;> simp
@[simp] theorem execSelfSlowing_fixed (s : State) (r ratioPermille) :
    keepsFixed s (execSelfSlowing r ratioPermille s) := by
  unfold execSelfSlowing
  dsimp only
  (repeat' split) <;> simp
@[simp] theorem execMarginWindowEnd_fixed (s : State) (r obs path) :
    keepsFixed s (execMarginWindowEnd r obs path s) := by
  unfold execMarginWindowEnd
  dsimp only
  (repeat' split) <;> simp
@[simp] theorem execFreqChangeStart_fixed (s : State) (r mhz t) : keepsFixed s (execFreqChangeStart r mhz t s) := by
  unfold execFreqChangeStart
  dsimp only
  (repeat' split) <;> simp
@[simp] theorem execClockStop_fixed (s : State) (r) : keepsFixed s (execClockStop r s) := by
  unfold execClockStop
  dsimp only
  split <;> simp
@[simp] theorem execOscLocked_fixed (s : State) (r cals) : keepsFixed s (execOscLocked r cals s) := by
  unfold execOscLocked
  dsimp only
  (repeat' split) <;> simp
@[simp] theorem execFreqChangeRestart_fixed (s : State) (r) : keepsFixed s (execFreqChangeRestart r s) := by
  unfold execFreqChangeRestart
  dsimp only
  split <;> simp
@[simp] theorem execCalTimeout_fixed (s : State) (x) : keepsFixed s (execCalTimeout x s) := by
  simp [execCalTimeout]
@[simp] theorem execOscFail_fixed (s : State) (r lock) : keepsFixed s (execOscFail r lock s) := by
  unfold execOscFail
  split <;> simp
@[simp] theorem execTbUpdate_fixed (s : State) (tstamp arrival parentMaster t) :
    keepsFixed s (execTbUpdate tstamp arrival parentMaster t s) := by
  unfold execTbUpdate
  dsimp only
  (repeat' split) <;> simp
@[simp] theorem execTbUnlock_fixed (s : State) (t) : keepsFixed s (execTbUnlock t s) := by
  unfold execTbUnlock
  dsimp only
  split <;> simp

/-! ### Power -/

@[simp] theorem execOpWindowEvaluate_fixed (s : State) (site hot105 below100 meanCap) :
    keepsFixed s (execOpWindowEvaluate site hot105 below100 meanCap s) := by
  unfold execOpWindowEvaluate
  dsimp only
  (repeat' split) <;> simp
@[simp] theorem execCapWindowEnd_fixed (s : State) (inputW ibcW temps) :
    keepsFixed s (execCapWindowEnd inputW ibcW temps s) := by
  simp [execCapWindowEnd]
@[simp] theorem execForecastActivate_fixed (s : State) (site idx t) :
    keepsFixed s (execForecastActivate site idx t s) := by
  unfold execForecastActivate
  dsimp only
  (repeat' split) <;> simp
@[simp] theorem execForecastEnd_fixed (s : State) (site idx t) : keepsFixed s (execForecastEnd site idx t s) := by
  unfold execForecastEnd
  dsimp only
  (repeat' split) <;> simp
@[simp] theorem execHwForecast_fixed (s : State) (site eng t) : keepsFixed s (execHwForecast site eng t s) := by
  unfold execHwForecast
  dsimp only
  (repeat' split) <;> simp
@[simp] theorem execAdmissionCheck_fixed (s : State) (d ibcOk forecastNear t) :
    keepsFixed s (execAdmissionCheck d ibcOk forecastNear t s) := by
  unfold execAdmissionCheck
  dsimp only
  split <;> simp
@[simp] theorem execAdmissionTimeout_fixed (s : State) (d t) : keepsFixed s (execAdmissionTimeout d t s) := by
  unfold execAdmissionTimeout
  dsimp only
  split <;> simp
@[simp] theorem execPhaseFail_fixed (s : State) (d phase cause) : keepsFixed s (execPhaseFail d phase cause s) := by
  unfold execPhaseFail
  dsimp only
  (repeat' split) <;> simp
@[simp] theorem execCoreOverCurrent_fixed (s : State) (site) : keepsFixed s (execCoreOverCurrent site s) := by
  unfold execCoreOverCurrent
  split <;> simp
@[simp] theorem execBaseRailTrip_fixed (s : State) (field) : keepsFixed s (execBaseRailTrip field s) := by
  simp [execBaseRailTrip]
@[simp] theorem execIbcLoss_fixed (s : State) (f cause) : keepsFixed s (execIbcLoss f cause s) := by
  unfold execIbcLoss
  split <;> simp
@[simp] theorem execInputLow_fixed (s : State) (tenMv) : keepsFixed s (execInputLow tenMv s) := by
  unfold execInputLow
  split <;> simp
@[simp] theorem execInputRestored_fixed (s : State) : keepsFixed s (execInputRestored s) := by
  simp [execInputRestored]
@[simp] theorem execTelemetryWindowEnd_fixed (s : State) (d k mean) :
    keepsFixed s (execTelemetryWindowEnd d k mean s) := by
  unfold execTelemetryWindowEnd
  dsimp only
  split <;> simp
@[simp] theorem execPwrTelRead_fixed (s : State) (acc d sample) : keepsFixed s (execPwrTelRead acc d sample s) := by
  unfold execPwrTelRead
  split <;> simp
@[simp] theorem execTelModeWrite_fixed (s : State) (acc d v) : keepsFixed s (execTelModeWrite acc d v s) := by
  unfold execTelModeWrite
  split <;> simp
@[simp] theorem execImpedanceWindowEnd_fixed (s : State) (d qualified meanZ) :
    keepsFixed s (execImpedanceWindowEnd d qualified meanZ s) := by
  unfold execImpedanceWindowEnd
  dsimp only
  (repeat' split) <;> simp
@[simp] theorem execGroupStart_fixed (s : State) (acc) : keepsFixed s (execGroupStart acc s) := by
  simp [execGroupStart]
@[simp] theorem execGroupEnd_fixed (s : State) (acc) : keepsFixed s (execGroupEnd acc s) := by simp [execGroupEnd]
@[simp] theorem execBudgetWindowEnd_fixed (s : State) (window slack) :
    keepsFixed s (execBudgetWindowEnd window slack s) := by
  unfold execBudgetWindowEnd
  split <;> simp
@[simp] theorem execReport_fixed (s : State) (m) : keepsFixed s (execReport m s) := by
  unfold execReport
  split <;> simp
@[simp] theorem execTake_fixed (s : State) (m) : keepsFixed s (execTake m s) := by
  unfold execTake
  split <;> simp
@[simp] theorem execTakeAck_fixed (s : State) (m) : keepsFixed s (execTakeAck m s) := by
  unfold execTakeAck
  split <;> simp
@[simp] theorem execGive_fixed (s : State) (m) : keepsFixed s (execGive m s) := by
  unfold execGive
  dsimp only
  (repeat' split) <;> simp
@[simp] theorem execGiveAck_fixed (s : State) (m) : keepsFixed s (execGiveAck m s) := by
  unfold execGiveAck
  split <;> simp
@[simp] theorem execLeaderTimeout_fixed (s : State) (window) : keepsFixed s (execLeaderTimeout window s) := by
  unfold execLeaderTimeout
  dsimp only
  (repeat' split) <;> simp

/-! ### Starts -/

@[simp] theorem execJournalAppend_fixed (s : State) (r) : keepsFixed s (execJournalAppend r s) := by
  unfold execJournalAppend
  dsimp only
  (repeat' split) <;> simp
@[simp] theorem execPoweredRecordTimer_fixed (s : State) : keepsFixed s (execPoweredRecordTimer s) := by
  unfold execPoweredRecordTimer
  split
  · simp
  · simp only [keepsFixed_next, State.journal_fixed, State.fixed_mk, State.fixed_parts, State.at_fixed]
@[simp] theorem execCompactionStart_fixed (s : State) : keepsFixed s (execCompactionStart s) := by
  unfold execCompactionStart
  split <;> simp
@[simp] theorem execCompactionSwitch_fixed (s : State) : keepsFixed s (execCompactionSwitch s) := by
  unfold execCompactionSwitch
  split <;> simp
@[simp] theorem execPwrfailFall_fixed (s : State) (t) : keepsFixed s (execPwrfailFall t s) := by
  unfold execPwrfailFall
  dsimp only
  (repeat' split) <;> simp
@[simp] theorem execModrstN_fixed (s : State) (t) : keepsFixed s (execModrstN t s) := by simp [execModrstN]
@[simp] theorem execReferenceLost_fixed (s : State) : keepsFixed s (execReferenceLost s) := by
  unfold execReferenceLost
  split <;> simp
@[simp] theorem execReferenceReturn_fixed (s : State) (obs) : keepsFixed s (execReferenceReturn obs s) := by
  unfold execReferenceReturn
  split <;> simp

/-! ### Recovery -/

@[simp] theorem execRecoveryStop_fixed (s : State) (m t) : keepsFixed s (execRecoveryStop m t s) := by
  unfold execRecoveryStop
  dsimp only
  (repeat' split) <;> simp
@[simp] theorem execRecoveryStopped_fixed (s : State) (m t) : keepsFixed s (execRecoveryStopped m t s) := by
  unfold execRecoveryStopped
  dsimp only
  (repeat' split) <;> simp
@[simp] theorem execRecoveryRestore_fixed (s : State) (m t) : keepsFixed s (execRecoveryRestore m t s) := by
  unfold execRecoveryRestore
  dsimp only
  (repeat' split) <;> simp
@[simp] theorem execLocalRestoreDone_fixed (s : State) (job t) : keepsFixed s (execLocalRestoreDone job t s) := by
  unfold execLocalRestoreDone
  dsimp only
  split <;> simp
@[simp] theorem execRecoveryReady_fixed (s : State) (m t) : keepsFixed s (execRecoveryReady m t s) := by
  unfold execRecoveryReady
  dsimp only
  (repeat' split) <;> simp
@[simp] theorem execRecoveryGo_fixed (s : State) (m t) : keepsFixed s (execRecoveryGo m t s) := by
  unfold execRecoveryGo
  dsimp only
  (repeat' split) <;> simp
@[simp] theorem execResumeAtInstant_fixed (s : State) (job t) : keepsFixed s (execResumeAtInstant job t s) := by
  unfold execResumeAtInstant
  dsimp only
  split <;> simp
@[simp] theorem execRecoveryFail_fixed (s : State) (m t) : keepsFixed s (execRecoveryFail m t s) := by
  unfold execRecoveryFail
  dsimp only
  (repeat' split) <;> simp
@[simp] theorem execRecoveryPhaseTimeout_fixed (s : State) (job t) :
    keepsFixed s (execRecoveryPhaseTimeout job t s) := by
  unfold execRecoveryPhaseTimeout
  dsimp only
  split <;> simp
@[simp] theorem execSpareRefillDone_fixed (s : State) (site obs) : keepsFixed s (execSpareRefillDone site obs s) := by
  unfold execSpareRefillDone
  dsimp only
  split <;> simp
@[simp] theorem execStewardPoll_fixed (s : State) (aAnswers bAnswers t) :
    keepsFixed s (execStewardPoll aAnswers bAnswers t s) := by
  simp [execStewardPoll]
@[simp] theorem execReeveWatchdog_fixed (s : State) (t) : keepsFixed s (execReeveWatchdog t s) := by
  unfold execReeveWatchdog
  dsimp only
  split <;> simp

/-! ### Reducers and trees -/

@[simp] theorem execTallyEnterRelease_fixed (s : State) (job) : keepsFixed s (execTallyEnterRelease job s) := by
  unfold execTallyEnterRelease
  split <;> simp
@[simp] theorem execTallyRegionsCopied_fixed (s : State) (site) : keepsFixed s (execTallyRegionsCopied site s) := by
  unfold execTallyRegionsCopied
  dsimp only
  (repeat' split) <;> simp
@[simp] theorem execTallyCommitRelease_fixed (s : State) (job) : keepsFixed s (execTallyCommitRelease job s) := by
  unfold execTallyCommitRelease
  split <;> simp
@[simp] theorem execResetAt_fixed (s : State) (viaLink t0 root) : keepsFixed s (execResetAt viaLink t0 root s) := by
  unfold execResetAt
  dsimp only
  (repeat' split) <;> simp
@[simp] theorem execResetAtInstant_fixed (s : State) (t) : keepsFixed s (execResetAtInstant t s) := by
  unfold execResetAtInstant
  dsimp only
  (repeat' split) <;> simp

/-! ### The classes of descriptors -/

@[simp] theorem execLoadWeights_fixed (s : State) (id hostData source) : keepsFixed s (execLoadWeights id hostData source s) := by
  refine keepsFixed_runClass fun d => ?_
  dsimp only
  (repeat' split) <;> simp
@[simp] theorem execLaunch_fixed (s : State) (id image) : keepsFixed s (execLaunch id image s) := by
  simp [execLaunch]
@[simp] theorem execCopy_fixed (s : State) (id hostData segmentFail) :
    keepsFixed s (execCopy id hostData segmentFail s) := by
  simp [execCopy]
@[simp] theorem execTallyInfo_fixed (s : State) (id) : keepsFixed s (execTallyInfo id s) := by
  refine keepsFixed_runClass fun d => ?_
  split <;> simp
@[simp] theorem execTallyExport_fixed (s : State) (id) : keepsFixed s (execTallyExport id s) := by
  refine keepsFixed_runClass fun d => ?_
  dsimp only
  (repeat' split) <;> simp
@[simp] theorem execTallyImport_fixed (s : State) (id image) : keepsFixed s (execTallyImport id image s) := by
  refine keepsFixed_runClass fun d => ?_
  dsimp only
  (repeat' split) <;> simp
@[simp] theorem execBellOpAdd_fixed (s : State) (id) : keepsFixed s (execBellOpAdd id s) := by
  simp [execBellOpAdd]
@[simp] theorem execBellOpSet_fixed (s : State) (id) : keepsFixed s (execBellOpSet id s) := by
  simp [execBellOpSet]
@[simp] theorem execBellOpArm_fixed (s : State) (id) : keepsFixed s (execBellOpArm id s) := by
  simp [execBellOpArm]
@[simp] theorem execBellOpDisarm_fixed (s : State) (id) : keepsFixed s (execBellOpDisarm id s) := by
  simp [execBellOpDisarm]
@[simp] theorem execBellOpRead_fixed (s : State) (id) : keepsFixed s (execBellOpRead id s) := by
  simp [execBellOpRead]
@[simp] theorem execTreeInstall_fixed (s : State) (id) : keepsFixed s (execTreeInstall id s) := by
  simp [execTreeInstall]
@[simp] theorem execTreeRemove_fixed (s : State) (id) : keepsFixed s (execTreeRemove id s) := by
  simp [execTreeRemove]
@[simp] theorem execMsetWrite_fixed (s : State) (id words) : keepsFixed s (execMsetWrite id words s) := by
  refine keepsFixed_runClass fun d => ?_
  dsimp only
  (repeat' split) <;> simp
@[simp] theorem execSystemReset_fixed (s : State) (id) : keepsFixed s (execSystemReset id s) := by
  simp [execSystemReset]
@[simp] theorem execQueryDevice_fixed (s : State) (id) : keepsFixed s (execQueryDevice id s) := by
  simp [execQueryDevice]
@[simp] theorem execQueryCoreMap_fixed (s : State) (id) : keepsFixed s (execQueryCoreMap id s) := by
  simp [execQueryCoreMap]
@[simp] theorem execQueryHamlet_fixed (s : State) (id) : keepsFixed s (execQueryHamlet id s) := by
  refine keepsFixed_runClass fun d => ?_
  dsimp only
  (repeat' split) <;> simp
@[simp] theorem execQueryLinks_fixed (s : State) (id) : keepsFixed s (execQueryLinks id s) := by
  simp [execQueryLinks]
@[simp] theorem execQueryFaultRecords_fixed (s : State) (id) : keepsFixed s (execQueryFaultRecords id s) := by
  simp [execQueryFaultRecords]
@[simp] theorem execRoleSet_fixed (s : State) (id) : keepsFixed s (execRoleSet id s) := by simp [execRoleSet]
@[simp] theorem execPageSet_fixed (s : State) (id) : keepsFixed s (execPageSet id s) := by simp [execPageSet]
@[simp] theorem execAbort_fixed (s : State) (id) : keepsFixed s (execAbort id s) := by simp [execAbort]
@[simp] theorem execDeadlineExpiry_fixed (s : State) (id t workDone) :
    keepsFixed s (execDeadlineExpiry id t workDone s) := by
  unfold execDeadlineExpiry
  dsimp only
  (repeat' split) <;> simp

/-! ### Power states of a core -/

@[simp] theorem execNapEnter_fixed (s : State) (site) : keepsFixed s (execNapEnter site s) := by
  unfold execNapEnter
  split <;> simp
@[simp] theorem execNapWake_fixed (s : State) (site) : keepsFixed s (execNapWake site s) := by
  unfold execNapWake
  split <;> simp
@[simp] theorem execRetainEnter_fixed (s : State) (site) : keepsFixed s (execRetainEnter site s) := by
  unfold execRetainEnter
  dsimp only
  split <;> simp
@[simp] theorem execRetainWake_fixed (s : State) (site cal) : keepsFixed s (execRetainWake site cal s) := by
  unfold execRetainWake
  dsimp only
  split <;> simp
@[simp] theorem execCoreOff_fixed (s : State) (site) : keepsFixed s (execCoreOff site s) := by
  unfold execCoreOff
  dsimp only
  (repeat' split) <;> simp
@[simp] theorem execCorePowerOn_fixed (s : State) (site t) : keepsFixed s (execCorePowerOn site t s) := by
  unfold execCorePowerOn
  dsimp only
  (repeat' split) <;> simp

/-! ### Host ports -/

@[simp] theorem execHostAccessTimeout_fixed (s : State) (r site t) :
    keepsFixed s (execHostAccessTimeout r site t s) := by
  unfold execHostAccessTimeout
  dsimp only
  (repeat' split) <;> simp
@[simp] theorem execHstHeartbeat_fixed (s : State) (acc t) : keepsFixed s (execHstHeartbeat acc t s) := by
  unfold execHstHeartbeat
  dsimp only
  split <;> simp
@[simp] theorem execHeartbeatTimeout_fixed (s : State) (t) : keepsFixed s (execHeartbeatTimeout t s) := by
  unfold execHeartbeatTimeout
  dsimp only
  split <;> simp
@[simp] theorem execPortLockLoss_fixed (s : State) (p t) : keepsFixed s (execPortLockLoss p t s) := by
  unfold execPortLockLoss
  dsimp only
  split <;> simp
@[simp] theorem execPortDown_fixed (s : State) (x t) : keepsFixed s (execPortDown x t s) := by
  unfold execPortDown
  dsimp only
  (repeat' split) <;> simp
@[simp] theorem execPortUp_fixed (s : State) (p unacked) : keepsFixed s (execPortUp p unacked s) := by
  unfold execPortUp
  split <;> simp
@[simp] theorem execPortsDownTimeout_fixed (s : State) (t) : keepsFixed s (execPortsDownTimeout t s) := by
  unfold execPortsDownTimeout
  dsimp only
  (repeat' split) <;> simp
@[simp] theorem execResetArm_fixed (s : State) (t) : keepsFixed s (execResetArm t s) := by simp [execResetArm]
@[simp] theorem execResetGo_fixed (s : State) (t) : keepsFixed s (execResetGo t s) := by simp [execResetGo]
@[simp] theorem execResetArmExpiry_fixed (s : State) (t) : keepsFixed s (execResetArmExpiry t s) := by
  unfold execResetArmExpiry
  dsimp only
  (repeat' split) <;> simp

/-! ### Hamlets -/

@[simp] theorem execHamletCreate_fixed (s : State) (id) : keepsFixed s (execHamletCreate id s) := by
  simp [execHamletCreate]
@[simp] theorem execHamletDestroy_fixed (s : State) (id) : keepsFixed s (execHamletDestroy id s) := by
  simp [execHamletDestroy]
@[simp] theorem execHamletReset_fixed (s : State) (id) : keepsFixed s (execHamletReset id s) := by
  simp [execHamletReset]
@[simp] theorem execHamletCreateCommit_fixed (s : State) (h badSites) :
    keepsFixed s (execHamletCreateCommit h badSites s) := by
  unfold execHamletCreateCommit
  dsimp only
  (repeat' split) <;> simp
@[simp] theorem execHamletZeroisationDone_fixed (s : State) (obs) :
    keepsFixed s (execHamletZeroisationDone obs s) := by
  unfold execHamletZeroisationDone
  dsimp only
  split <;> simp

/-! ### Links -/

@[simp] theorem execLinkTrainStart_fixed (s : State) (l t) : keepsFixed s (execLinkTrainStart l t s) := by
  unfold execLinkTrainStart
  dsimp only
  (repeat' split) <;> simp
@[simp] theorem execLinkTrained_fixed (s : State) (l obs) : keepsFixed s (execLinkTrained l obs s) := by
  unfold execLinkTrained
  dsimp only
  (repeat' split) <;> simp
@[simp] theorem execIdentMessage_fixed (s : State) (l obs) : keepsFixed s (execIdentMessage l obs s) := by
  unfold execIdentMessage
  dsimp only
  (repeat' split) <;> simp
@[simp] theorem execLinkKeyed_fixed (s : State) (l obs) : keepsFixed s (execLinkKeyed l obs s) := by
  unfold execLinkKeyed
  dsimp only
  (repeat' split) <;> simp
@[simp] theorem execRekey_fixed (s : State) (l obs) : keepsFixed s (execRekey l obs s) := by
  unfold execRekey
  dsimp only
  (repeat' split) <;> simp
@[simp] theorem execEpochReceive_fixed (s : State) (l e) : keepsFixed s (execEpochReceive l e s) := by
  unfold execEpochReceive
  dsimp only
  (repeat' split) <;> simp
@[simp] theorem execReplayTimeout_fixed (s : State) (l t) : keepsFixed s (execReplayTimeout l t s) := by
  unfold execReplayTimeout
  dsimp only
  split <;> simp
@[simp] theorem execLinkRetrain_fixed (s : State) (l receiverRequest t) :
    keepsFixed s (execLinkRetrain l receiverRequest t s) := by
  unfold execLinkRetrain
  dsimp only
  split <;> simp
@[simp] theorem execLinkRetrainDone_fixed (s : State) (l obs t) : keepsFixed s (execLinkRetrainDone l obs t s) := by
  unfold execLinkRetrainDone
  dsimp only
  (repeat' split) <;> simp
@[simp] theorem execLinkDown_fixed (s : State) (l) : keepsFixed s (execLinkDown l s) := by
  unfold execLinkDown
  dsimp only
  split <;> simp
@[simp] theorem execLinkFlowsReturn_fixed (s : State) (l) : keepsFixed s (execLinkFlowsReturn l s) := by
  unfold execLinkFlowsReturn
  dsimp only
  split <;> simp
@[simp] theorem execLaneSerWindow_fixed (s : State) (l lane rx bad) :
    keepsFixed s (execLaneSerWindow l lane rx bad s) := by
  unfold execLaneSerWindow
  dsimp only
  split <;> simp

/-! ### The mailbox -/

@[simp] theorem execAttest_fixed (s : State) (scope nonce key) : keepsFixed s (execAttest scope nonce key s) := by
  refine keepsFixed_mailbox rfl fun s => ?_
  dsimp only
  (repeat' split) <;> simp
@[simp] theorem execCertRead_fixed (s : State) : keepsFixed s (execCertRead s) := by
  refine keepsFixed_mailbox rfl fun s => ?_
  simp
@[simp] theorem execChallenge_fixed (s : State) : keepsFixed s (execChallenge s) := by
  refine keepsFixed_mailbox rfl fun s => ?_
  dsimp only
  (repeat' split) <;> simp
@[simp] theorem execDebugUnlock_fixed (s : State) (platform chal level expiry sigOk) : keepsFixed s (execDebugUnlock platform chal level expiry sigOk s) := by
  refine keepsFixed_mailbox rfl fun s => ?_
  dsimp only
  (repeat' split) <;> simp
@[simp] theorem execDebugExpiry_fixed (s : State) : keepsFixed s (execDebugExpiry s) := by
  unfold execDebugExpiry
  split <;> simp
@[simp] theorem execHamletBind_fixed (s : State) (h binding) : keepsFixed s (execHamletBind h binding s) := by
  refine keepsFixed_mailbox rfl fun s => ?_
  dsimp only
  (repeat' split) <;> simp
@[simp] theorem execDrbgReseed_fixed (s : State) (healthOk failedTest) :
    keepsFixed s (execDrbgReseed healthOk failedTest s) := by
  unfold execDrbgReseed
  dsimp only
  (repeat' split) <;> simp
@[simp] theorem execFwUpdate_fixed (s : State) (addr len obs) : keepsFixed s (execFwUpdate addr len obs s) := by
  refine keepsFixed_mailbox rfl fun s => ?_
  dsimp only
  (repeat' split) <;> simp
@[simp] theorem execFwWriteDone_fixed (s : State) : keepsFixed s (execFwWriteDone s) := by
  unfold execFwWriteDone
  split <;> simp
@[simp] theorem execRecoveryBegin_fixed (s : State) (port t) : keepsFixed s (execRecoveryBegin port t s) := by
  refine keepsFixed_recoveryBox (by simp) fun s => ?_
  exact State.sessionBegin_fixed s _
@[simp] theorem execRecoveryWrite_fixed (s : State) (port off chunk t) : keepsFixed s (execRecoveryWrite port off chunk t s) := by
  refine keepsFixed_recoveryBox (by simp) fun s => ?_
  exact State.sessionWrite_fixed s _ _ _ _
@[simp] theorem execRecoveryEnd_fixed (s : State) (port obs t) : keepsFixed s (execRecoveryEnd port obs t s) := by
  refine keepsFixed_recoveryBox (by simp) fun s => ?_
  exact State.sessionEnd_fixed s _ _
@[simp] theorem execRecoverySessionTimeout_fixed (s : State) (t) : keepsFixed s (execRecoverySessionTimeout t s) := by
  simp [execRecoverySessionTimeout]

/-! ### The management port -/

@[simp] theorem execSetEndpointId_fixed (s : State) (eid) : keepsFixed s (execSetEndpointId eid s) := by
  refine keepsFixed_managed rfl fun s => ?_
  dsimp only
  split <;> simp
@[simp] theorem execGetEndpointId_fixed (s : State) : keepsFixed s (execGetEndpointId s) := by
  refine keepsFixed_managed rfl fun s => ?_
  simp
@[simp] theorem execGetMctpVersionSupport_fixed (s : State) (msgType) : keepsFixed s (execGetMctpVersionSupport msgType s) := by
  refine keepsFixed_managed rfl fun s => ?_
  split <;> simp
@[simp] theorem execGetMessageTypeSupport_fixed (s : State) : keepsFixed s (execGetMessageTypeSupport s) := by
  refine keepsFixed_managed rfl fun s => ?_
  simp
@[simp] theorem execGetVendorDefinedMessageSupport_fixed (s : State) (selector) : keepsFixed s (execGetVendorDefinedMessageSupport selector s) := by
  refine keepsFixed_managed rfl fun s => ?_
  split <;> simp
@[simp] theorem execMctpAssemblyTimeout_fixed (s : State) (first t) : keepsFixed s (execMctpAssemblyTimeout first t s) := by
  refine keepsFixed_managed (by simp) fun s => ?_
  simp
@[simp] theorem execMctpResponseTimeout_fixed (s : State) (t) : keepsFixed s (execMctpResponseTimeout t s) := by
  unfold execMctpResponseTimeout
  dsimp only
  (repeat' split) <;> simp
@[simp] theorem execSensorUpdate_fixed (s : State) (sensor reading) :
    keepsFixed s (execSensorUpdate sensor reading s) := by
  unfold execSensorUpdate
  split <;> simp
@[simp] theorem execPldmSensorRead_fixed (s : State) (sensor) : keepsFixed s (execPldmSensorRead sensor s) := by
  refine keepsFixed_managed rfl fun s => ?_
  dsimp only
  (repeat' split) <;> simp
@[simp] theorem execPowerLimit_fixed (s : State) (watts) : keepsFixed s (execPowerLimit watts s) := by
  refine keepsFixed_managed rfl fun s => ?_
  dsimp only
  split <;> simp
@[simp] theorem execPldmWarmReset_fixed (s : State) (v) : keepsFixed s (execPldmWarmReset v s) := by
  refine keepsFixed_managed rfl fun s => ?_
  split <;> simp
@[simp] theorem execGetBootStatus_fixed (s : State) : keepsFixed s (execGetBootStatus s) := by
  refine keepsFixed_managed rfl fun s => ?_
  simp
@[simp] theorem execSetBootMode_fixed (s : State) (mode) : keepsFixed s (execSetBootMode mode s) := by
  refine keepsFixed_managed rfl fun s => ?_
  simp
@[simp] theorem execMgmtRecoveryBegin_fixed (s : State) (t) : keepsFixed s (execMgmtRecoveryBegin t s) := by
  refine keepsFixed_recoveryPort (by simp) fun s => ?_
  exact State.sessionBegin_fixed s _
@[simp] theorem execMgmtRecoveryWrite_fixed (s : State) (off chunk t) : keepsFixed s (execMgmtRecoveryWrite off chunk t s) := by
  refine keepsFixed_recoveryPort (by simp) fun s => ?_
  exact State.sessionWrite_fixed s _ _ _ _
@[simp] theorem execMgmtRecoveryEnd_fixed (s : State) (obs t) : keepsFixed s (execMgmtRecoveryEnd obs t s) := by
  refine keepsFixed_recoveryPort (by simp) fun s => ?_
  exact State.sessionEnd_fixed s _ _
@[simp] theorem execIdDevnumWrite_fixed (s : State) (acc v) : keepsFixed s (execIdDevnumWrite acc v s) := by
  unfold execIdDevnumWrite
  split <;> simp
@[simp] theorem execFaultRecordWindowEnd_fixed (s : State) (cls t) :
    keepsFixed s (execFaultRecordWindowEnd cls t s) := by
  refine ⟨_, rfl, (State.fixed_foldl (fun s p => ?_) _ _).trans (s.at_fixed t)⟩
  split <;> simp

/-! ### Rings -/

@[simp] theorem execSqTail_fixed (s : State) (r v) : keepsFixed s (execSqTail r v s) := by
  unfold execSqTail
  dsimp only
  (repeat' split) <;> simp
@[simp] theorem execCqHead_fixed (s : State) (r v) : keepsFixed s (execCqHead r v s) := by
  unfold execCqHead
  dsimp only
  (repeat' split) <;> simp
@[simp] theorem execRingEnable_fixed (s : State) (r cfg) : keepsFixed s (execRingEnable r cfg s) := by
  unfold execRingEnable
  dsimp only
  (repeat' split) <;> simp
@[simp] theorem execRingDisable_fixed (s : State) (r) : keepsFixed s (execRingDisable r s) := by
  unfold execRingDisable
  dsimp only
  (repeat' split) <;> simp
@[simp] theorem execRingInactive_fixed (s : State) (r) : keepsFixed s (execRingInactive r s) := by
  unfold execRingInactive
  dsimp only
  (repeat' split) <;> simp
@[simp] theorem execDescriptorFetch_fixed (s : State) (r words hostOk t) :
    keepsFixed s (execDescriptorFetch r words hostOk t s) := by
  unfold execDescriptorFetch
  dsimp only
  (repeat' split) <;> simp
@[simp] theorem execDescriptorComplete_fixed (s : State) (id t) : keepsFixed s (execDescriptorComplete id t s) := by
  unfold execDescriptorComplete
  dsimp only
  (repeat' split) <;> simp
@[simp] theorem execFence_fixed (s : State) (id) : keepsFixed s (execFence id s) := by
  unfold execFence
  (repeat' split) <;> simp

/-! ### Registers -/

theorem stateAfter_fixed {s : State} {o} (h : keepsFixed s o) : (stateAfter s o).fixed = s.fixed := by
  obtain ⟨t, rfl, ht⟩ := h
  exact ht
@[simp] theorem State.setShadow_fixed (s : State) (acc lo v) : (s.setShadow acc lo v).fixed = s.fixed := (rfl)
@[simp] theorem State.setHeld_fixed (s : State) (acc lo v) : (s.setHeld acc lo v).fixed = s.fixed := (rfl)
@[simp] theorem State.readOut_fixed (s : State) (acc off v) : (s.readOut acc off v).fixed = s.fixed := (rfl)
@[simp] theorem State.setPair_fixed (s : State) (lo v) : (s.setPair lo v).fixed = s.fixed := by
  simp [State.setPair]
@[simp] theorem State.writeLo_fixed (s : State) (acc o v) : (s.writeLo acc o v).fixed = s.fixed := by
  simp [State.writeLo]
@[simp] theorem State.writeHi_fixed (s : State) (acc o v) : (s.writeHi acc o v).fixed = s.fixed := by
  unfold State.writeHi
  dsimp only
  split <;> simp
@[simp] theorem State.writeId_fixed (s : State) (o v) : (s.writeId o v).fixed = s.fixed := by simp [State.writeId]
@[simp] theorem State.writeHstCtl_fixed (s : State) (v) : (s.writeHstCtl v).fixed = s.fixed := by
  simp [State.writeHstCtl]
@[simp] theorem State.writeRemap_fixed (s : State) (n e w f) : (s.writeRemap n e w f).fixed = s.fixed := by
  simp [State.writeRemap]
@[simp] theorem State.writeCore_fixed (s : State) (acc n o v) : (s.writeCore acc n o v).fixed = s.fixed := by
  simp [State.writeCore]
@[simp] theorem State.writeBell_fixed (s : State) (o v) : (s.writeBell o v).fixed = s.fixed := by
  simp [State.writeBell]
@[simp] theorem State.writeClk_fixed (s : State) (o v) : (s.writeClk o v).fixed = s.fixed := by
  simp [State.writeClk]
@[simp] theorem State.writePwrCtl_fixed (s : State) (v) : (s.writePwrCtl v).fixed = s.fixed := by
  simp [State.writePwrCtl]
@[simp] theorem State.writeIcGlobal_fixed (s : State) (v) : (s.writeIcGlobal v).fixed = s.fixed := by
  simp [State.writeIcGlobal]
@[simp] theorem State.writeSrc_fixed (s : State) (n v) : (s.writeSrc n v).fixed = s.fixed := by
  simp [State.writeSrc]
@[simp] theorem State.writeIc_fixed (s : State) (acc o v) : (s.writeIc acc o v).fixed = s.fixed := by
  simp [State.writeIc]
@[simp] theorem State.writeMboxCmd_fixed (s : State) (v) : (s.writeMboxCmd v).fixed = s.fixed := by
  simp [State.writeMboxCmd]
@[simp] theorem State.writeSec_fixed (s : State) (o v) : (s.writeSec o v).fixed = s.fixed := by
  simp [State.writeSec]
@[simp] theorem State.writeHstReset_fixed (s : State) (v) : (s.writeHstReset v).fixed = s.fixed := by
  unfold State.writeHstReset
  split
  · exact stateAfter_fixed (execResetArm_fixed s _)
  · exact stateAfter_fixed (execResetGo_fixed s _)
  · rfl

@[simp] theorem State.writeRingCfg_fixed (s : State) (r v) : (s.writeRingCfg r v).fixed = s.fixed := by
  unfold State.writeRingCfg
  split
  · exact stateAfter_fixed (execRingEnable_fixed s r v)
  · exact (stateAfter_fixed (execRingDisable_fixed _ r)).trans (by simp)

@[simp] theorem State.writeHst_fixed (s : State) (acc o v) : (s.writeHst acc o v).fixed = s.fixed := by
  have h := stateAfter_fixed (execHstHeartbeat_fixed s acc s.tb)
  simp [State.writeHst, h]

@[simp] theorem State.writePwr_fixed (s : State) (acc o v) : (s.writePwr acc o v).fixed = s.fixed := by
  have h (d) := stateAfter_fixed (execTelModeWrite_fixed s acc d v)
  simp [State.writePwr, h]

@[simp] theorem State.writeDoorbell_fixed (s : State) (o v) : (s.writeDoorbell o v).fixed = s.fixed := by
  have hs (r) := stateAfter_fixed (execSqTail_fixed s r v)
  have hc (r) := stateAfter_fixed (execCqHead_fixed s r v)
  simp [State.writeDoorbell, hs, hc]

@[simp] theorem State.writeReg_fixed (s : State) (acc o v) : (s.writeReg acc o v).fixed = s.fixed := by
  simp [State.writeReg]
@[simp] theorem State.parityRecord_fixed (s : State) (o restored) :
    (s.parityRecord o restored).fixed = s.fixed := (rfl)
@[simp] theorem State.loseLow_fixed (s : State) (o) : (s.loseLow o).fixed = s.fixed := by simp [State.loseLow]
@[simp] theorem State.loseHigh_fixed (s : State) (o) : (s.loseHigh o).fixed = s.fixed := by simp [State.loseHigh]
@[simp] theorem State.loseRo_fixed (s : State) (o) : (s.loseRo o).fixed = s.fixed := by simp [State.loseRo]
@[simp] theorem State.resetRing_fixed (s : State) (o) : (s.resetRing o).fixed = s.fixed := (rfl)
@[simp] theorem State.resetIc_fixed (s : State) (o) : (s.resetIc o).fixed = s.fixed := by simp [State.resetIc]
@[simp] theorem State.resetRw_fixed (s : State) (o) : (s.resetRw o).fixed = s.fixed := by simp [State.resetRw]
@[simp] theorem State.parityCheck_fixed (s : State) (o par) : (s.parityCheck o par).fixed = s.fixed := by
  unfold State.parityCheck
  split <;> simp
@[simp] theorem State.accessed_fixed (s : State) (o a) : (s.accessed o a).fixed = s.fixed := by
  simp [State.accessed]
@[simp] theorem execRegPairReadLo_fixed (s : State) (acc off) : keepsFixed s (execRegPairReadLo acc off s) := by
  unfold execRegPairReadLo
  dsimp only
  (repeat' split) <;> simp
@[simp] theorem execRegPairReadHi_fixed (s : State) (acc off) : keepsFixed s (execRegPairReadHi acc off s) := by
  unfold execRegPairReadHi
  dsimp only
  (repeat' split) <;> simp
@[simp] theorem execRegPairWriteLo_fixed (s : State) (acc off v) : keepsFixed s (execRegPairWriteLo acc off v s) := by
  unfold execRegPairWriteLo
  dsimp only
  split <;> simp
@[simp] theorem execRegPairWriteHi_fixed (s : State) (acc off v) : keepsFixed s (execRegPairWriteHi acc off v s) := by
  unfold execRegPairWriteHi
  dsimp only
  split <;> simp
@[simp] theorem execRegisterWrite_fixed (s : State) (acc off v par) :
    keepsFixed s (execRegisterWrite acc off v par s) := by
  unfold execRegisterWrite
  dsimp only
  split
  · simp
  · split <;> simp

end Sys2Proof.Machine
end

section
/-!
PROOF. The commands that bind or unbind logical cores keep bound sites fused good, and the statements about every step.
-/

namespace Sys2Proof.Machine

/-! ### Commands that bind or unbind logical cores -/

/-- The queue of waiting commands is as before, and logical cores that were bound to sites fused good still are. -/
def keepsBinds (s t : State) : Prop := t.pending = s.pending ∧ (bindsFused s → bindsFused t)

theorem keepsBinds_refl (s : State) : keepsBinds s s := ⟨rfl, id⟩

theorem keepsBinds_trans {s t u : State} (h : keepsBinds s t) (k : keepsBinds t u) : keepsBinds s u :=
  ⟨k.1.trans h.1, fun hs => k.2 (h.2 hs)⟩

theorem keepsBinds_of_fixed {s t : State} (h : t.fixed = s.fixed) : keepsBinds s t := by
  obtain ⟨hp, hm, hf⟩ : t.pending = s.pending ∧ t.coreMap = s.coreMap ∧ t.fuses = s.fuses := by
    simpa only [State.fixed, Prod.mk.injEq] using h
  refine ⟨hp, fun hs lc n hn => ?_⟩
  rw [hf]
  exact hs lc n (by rwa [State.siteOf, hm] at hn)

theorem keepsBinds_foldl {α : Type} {f : State → α → State} (h : ∀ s a, keepsBinds s (f s a)) (l : List α) (s : State) :
    keepsBinds s (l.foldl f s) :=
  foldl_inv (keepsBinds s) f (fun t a ht => keepsBinds_trans ht (h t a)) l s (keepsBinds_refl s)

theorem bind_keepsBinds (s : State) (lc : LCoreNo) {o : Option SiteNo}
    (h : ∀ n, o = some n → s.fuses.siteGood.getLsbD n.val = true) : keepsBinds s (s.bind lc o) := by
  refine ⟨rfl, fun hs k n hn => ?_⟩
  by_cases hk : k = lc
  · subst hk
    exact h n ((s.siteOf_bind_same k o).symm.trans hn)
  · exact hs k n ((s.siteOf_bind_other o hk).symm.trans hn)

/-- A core map that binds no logical core binds none to a site that is not fused good. -/
theorem bindsFused_unbound {s : State} (h : s.coreMap = []) : bindsFused s := by
  intro lc n hn
  rw [State.siteOf, h] at hn
  cases hn

theorem cleared_keepsBinds (s : State) (cold : Bool) : keepsBinds s (s.cleared cold) := by
  unfold State.cleared
  extract_lets s1
  have h : keepsBinds s s1 := keepsBinds_of_fixed (by simp [s1])
  exact ⟨h.1, fun _ => bindsFused_unbound rfl⟩

theorem finalised_keepsBinds (s : State) (o : StartObs) (kind : BitVec 2) : keepsBinds s (s.finalised o kind) := by
  unfold State.finalised
  extract_lets lit tb up fu co ck ho bo t
  have hg : t.fuses.siteGood = s.fuses.siteGood := by
    change (if up then { s.fuses with svn := o.fwSvn } else s.fuses).siteGood = _
    split <;> rfl
  have ht : keepsBinds s t := ⟨rfl, fun h lc n hn => hg ▸ h lc n hn⟩
  split
  · exact keepsBinds_trans ht (keepsBinds_of_fixed (t.fault_fixed _ _ _ _))
  · exact ht

theorem startSite_keepsBinds (s : State) (p : LCoreNo × SiteNo) : keepsBinds s (s.startSite p) := by
  unfold State.startSite
  split
  · exact keepsBinds_refl s
  · rename_i hg
    extract_lets op s1 s2 s3
    have h1 : keepsBinds s s1 := bind_keepsBinds s p.1 fun n hn => by
      cases hn
      exact Bool.not_eq_false _ ▸ hg
    exact keepsBinds_trans h1 (keepsBinds_of_fixed (by simp [s2, s3]))

theorem mapped_keepsBinds (s : State) : keepsBinds s s.mapped := by
  unfold State.mapped
  extract_lets use s1 s2 s3
  have h1 : keepsBinds s s1 := keepsBinds_of_fixed (State.fixed_foldl (fun s n => s.modSite_fixed n _) _ s)
  have h2 : keepsBinds s1 s2 := keepsBinds_foldl startSite_keepsBinds _ s1
  refine keepsBinds_trans (keepsBinds_trans h1 h2) (keepsBinds_of_fixed ?_)
  split <;> simp [s3]

theorem steps_keepsBinds (s : State) (o : StartObs) (cold : Bool) : keepsBinds s (s.steps o cold) := by
  unfold State.steps
  extract_lets s1 full kind s2 s3
  have h1 : keepsBinds s s2 := keepsBinds_of_fixed (by simp [s1, s2])
  have h2 : keepsBinds s2 s3 := keepsBinds_trans (keepsBinds_of_fixed (s2.tested_fixed o))
    (keepsBinds_trans (mapped_keepsBinds _) (keepsBinds_of_fixed (by simp [s3])))
  have h3 : keepsBinds s3 ((s3.memTrained o cold full).memTested o full) := keepsBinds_of_fixed (by simp)
  exact keepsBinds_trans h1 (keepsBinds_trans h2 (keepsBinds_trans h3 (finalised_keepsBinds _ o kind)))

theorem bringUp_keepsBinds (s : State) (o : StartObs) (cold : Bool) : keepsBinds s (s.bringUp o cold) := by
  unfold State.bringUp
  split
  · exact keepsBinds_of_fixed (s.toRecovery_fixed _)
  · extract_lets s1
    have h1 : keepsBinds s s1 := keepsBinds_of_fixed (s.verified_fixed o)
    split
    · exact keepsBinds_trans h1 (keepsBinds_of_fixed (by simp))
    · exact keepsBinds_trans h1 (steps_keepsBinds s1 o cold)

theorem release_keepsBinds (s : State) : keepsBinds s s.release := by
  unfold State.release
  split
  · split
    · exact keepsBinds_refl s
    · exact keepsBinds_trans (keepsBinds_of_fixed (by simp)) (bringUp_keepsBinds _ _ _)
  · exact keepsBinds_refl s

theorem dropRails_keepsBinds (s : State) (cause : BitVec 3) : keepsBinds s (s.dropRails cause) := by
  unfold State.dropRails
  extract_lets s1
  exact keepsBinds_trans (cleared_keepsBinds s true) (keepsBinds_of_fixed (by simp [s1]))

theorem noSpare_keepsBinds (s : State) (lc : LCoreNo) (old : SiteNo) : keepsBinds s (s.noSpare lc old) := by
  unfold State.noSpare
  extract_lets j s1 ho s2 s3
  have h1 : keepsBinds s s2 := keepsBinds_of_fixed (by simp [s1, s2])
  have h2 : keepsBinds s2 s3 := by
    show keepsBinds s2 (match j with | some p => s2.failJob p.1 p.2 1 | none => s2)
    cases j with
    | some p => exact keepsBinds_of_fixed (s2.failJob_fixed _ _ _)
    | none => exact keepsBinds_refl s2
  exact keepsBinds_trans (keepsBinds_trans h1 h2)
    (keepsBinds_trans (bind_keepsBinds s3 lc (o := none) nofun) (keepsBinds_of_fixed (State.modSite_fixed _ _ _)))

theorem replaceCore_keepsBinds (s : State) (lc : LCoreNo) (cause : BitVec 16) : keepsBinds s (s.replaceCore lc cause) := by
  unfold State.replaceCore
  split
  · exact keepsBinds_refl s
  · extract_lets s1 s2 s3
    have h : keepsBinds s s3 := keepsBinds_of_fixed (by simp [s1, s2, s3])
    split
    · exact keepsBinds_trans h (noSpare_keepsBinds s3 lc _)
    · exact keepsBinds_trans h (keepsBinds_of_fixed (by simp))

theorem replaceThen_keepsBinds (s : State) (r : Report) : keepsBinds s (s.replaceThen r) := by
  unfold State.replaceThen
  split
  · exact keepsBinds_refl s
  · split
    · exact keepsBinds_refl s
    · split
      · exact keepsBinds_of_fixed (by simp)
      · exact replaceCore_keepsBinds s _ _

theorem fieldLost_keepsBinds (s : State) (f : FieldNo) (cls : BitVec 16) : keepsBinds s (s.fieldLost f cls) := by
  unfold State.fieldLost
  exact keepsBinds_trans (keepsBinds_foldl (fun s _ => keepsBinds_of_fixed (by simp)) _ _)
    (keepsBinds_foldl (fun s lc => replaceCore_keepsBinds s lc cls) _ _)

theorem answerReport_keepsBinds (s : State) (r : Report) : keepsBinds s (s.answerReport r) := by
  have roll : keepsBinds s ((s.jobsOf r).foldl (fun s j => s.rollback j.1 j.2 r.cls []) s) :=
    keepsBinds_foldl (fun s _ => keepsBinds_of_fixed (by simp)) _ _
  unfold State.answerReport
  extract_lets r'
  split
  case h_1 =>
    split
    · exact keepsBinds_foldl (fun s _ => keepsBinds_of_fixed (by simp)) _ _
    · exact keepsBinds_refl s
  case h_2 =>
    split
    · exact keepsBinds_foldl (fun s _ => keepsBinds_of_fixed (by simp)) _ _
    · exact roll
  case h_3 | h_4 | h_5 | h_6 | h_7 | h_8 => exact roll
  case h_9 | h_10 | h_11 | h_12 | h_13 | h_14 | h_15 | h_16 => exact replaceThen_keepsBinds s r
  case h_17 =>
    split
    · split
      · exact keepsBinds_refl s
      · exact replaceThen_keepsBinds s r
    · exact keepsBinds_refl s
  case h_18 => exact fieldLost_keepsBinds s _ _
  case h_19 =>
    split
    · exact keepsBinds_refl s
    · exact roll
  case h_20 => exact keepsBinds_foldl (fun s _ => keepsBinds_of_fixed (by simp)) _ _
  case h_21 => exact keepsBinds_refl s

theorem bindChosen_keepsBinds (s : State) (n : SiteNo) : keepsBinds s (s.bindChosen n) := by
  unfold State.bindChosen
  split
  · exact keepsBinds_refl s
  · rename_i lc old _
    split
    · exact keepsBinds_refl s
    · rename_i hg
      extract_lets o s1 s2 s3 r
      have h1 : keepsBinds s s1 := bind_keepsBinds s lc fun m hm => by
        cases hm
        exact Bool.not_eq_false _ ▸ fun h => hg (.inl h)
      exact keepsBinds_trans h1 (keepsBinds_of_fixed (by simp [r, s2, s3]))

/-! ### Every command -/

/-- A command answers a next state, with the queue as it was and with every bound site fused good. -/
def answersBinds (s : State) (o : Host.Outcome State Fault Refusal) : Prop := ∃ t, o = .next t ∧ keepsBinds s t

theorem answersBinds_of_fixed {s : State} {o} (h : keepsFixed s o) : answersBinds s o := by
  obtain ⟨t, ho, ht⟩ := h
  exact ⟨t, ho, keepsBinds_of_fixed ht⟩

theorem answersBinds_dispatch (s : State) (d : Disp) (y : Syll) : answersBinds s (.next (s.dispatch d y)) :=
  ⟨_, rfl, keepsBinds_of_fixed (s.dispatch_fixed d y)⟩

theorem execWarmReset_binds (s : State) (o) : answersBinds s (execWarmReset o s) := by
  unfold execWarmReset
  split
  · exact ⟨s, rfl, keepsBinds_refl s⟩
  · exact ⟨_, rfl, keepsBinds_trans (cleared_keepsBinds s _) (bringUp_keepsBinds _ o _)⟩

theorem execModrstNRise_binds (s : State) : answersBinds s (execModrstNRise s) :=
  ⟨_, rfl, keepsBinds_trans ⟨rfl, id⟩ (release_keepsBinds _)⟩

theorem execPwrfailRise_binds (s : State) : answersBinds s (execPwrfailRise s) :=
  ⟨_, rfl, keepsBinds_trans ⟨rfl, id⟩ (release_keepsBinds _)⟩

theorem execColdPowerOn_binds (s : State) (v o) : answersBinds s (execColdPowerOn v o s) := by
  unfold execColdPowerOn
  extract_lets again
  split
  · exact ⟨s, rfl, keepsBinds_refl s⟩
  · rename_i s1 _ _ _ s2 _
    have h : keepsBinds s1 s2 := keepsBinds_of_fixed (by simp [s2])
    exact ⟨_, rfl, keepsBinds_trans (cleared_keepsBinds s true) (keepsBinds_trans h (release_keepsBinds s2))⟩

theorem execBrownOut_binds (s : State) : answersBinds s (execBrownOut s) := by
  unfold execBrownOut
  split
  · exact ⟨_, rfl, rfl, id⟩
  · extract_lets s1
    exact ⟨_, rfl, keepsBinds_trans (dropRails_keepsBinds s 2) (keepsBinds_of_fixed (by simp [s1]))⟩

theorem execOverVoltage_binds (s : State) : answersBinds s (execOverVoltage s) := by
  unfold execOverVoltage
  split
  · exact ⟨s, rfl, keepsBinds_refl s⟩
  · extract_lets s1
    exact ⟨_, rfl, keepsBinds_trans (dropRails_keepsBinds s 3) (keepsBinds_of_fixed (by simp [s1]))⟩

theorem execThermtrip_binds (s : State) : answersBinds s (execThermtrip s) := by
  unfold execThermtrip
  split
  · exact ⟨s, rfl, keepsBinds_refl s⟩
  · extract_lets s1
    exact ⟨_, rfl, keepsBinds_trans (dropRails_keepsBinds s 1) (keepsBinds_of_fixed (by simp [s1]))⟩

theorem execReferenceLostLong_binds (s : State) : answersBinds s (execReferenceLostLong s) := by
  unfold execReferenceLostLong
  split
  · exact ⟨s, rfl, keepsBinds_refl s⟩
  · extract_lets s1
    exact ⟨_, rfl, keepsBinds_trans (dropRails_keepsBinds s 4) (keepsBinds_of_fixed (by simp [s1]))⟩

theorem execAlwaysOnDrop_binds (s : State) : answersBinds s (execAlwaysOnDrop s) :=
  ⟨_, rfl, rfl, fun _ => bindsFused_unbound rfl⟩

theorem execCoreReplace_binds (s : State) (lc t) : answersBinds s (execCoreReplace lc t s) := by
  unfold execCoreReplace
  extract_lets s1
  have h : keepsBinds s s1 := keepsBinds_of_fixed (s.at_fixed t)
  split
  · exact ⟨s1, rfl, h⟩
  · extract_lets s2
    have h2 : keepsBinds s1 s2 := keepsBinds_of_fixed (s1.setRecov_fixed _)
    exact ⟨_, rfl, keepsBinds_trans h (keepsBinds_trans h2 (replaceCore_keepsBinds s2 lc _))⟩

theorem execFaultReport_binds (s : State) (r t) : answersBinds s (execFaultReport r t s) := by
  unfold execFaultReport
  extract_lets s1
  have h : keepsBinds s s1 := keepsBinds_of_fixed (s.at_fixed t)
  split
  · exact ⟨_, rfl, keepsBinds_trans h (answerReport_keepsBinds s1 r)⟩
  · split
    · exact ⟨_, rfl, keepsBinds_trans (keepsBinds_trans h (keepsBinds_of_fixed (by simp))) (answerReport_keepsBinds _ r)⟩
    · exact ⟨s1, rfl, h⟩

theorem execRampEnd_binds (s : State) (d) : answersBinds s (execRampEnd d s) := by
  unfold execRampEnd
  extract_lets v
  split
  · exact ⟨s, rfl, keepsBinds_refl s⟩
  · rename_i s1 s2 _
    have h : keepsBinds s s2 := keepsBinds_of_fixed (by simp [s1, s2])
    split
    · extract_lets f s3 s4 off s5
      have h5 : keepsBinds s2 s5 := keepsBinds_of_fixed (by simp [s3, s4, s5])
      refine ⟨_, rfl, keepsBinds_trans h (keepsBinds_trans h5 ?_)⟩
      split
      · exact keepsBinds_of_fixed (s5.powerOff_fixed _)
      · exact bindChosen_keepsBinds s5 _
    · exact ⟨s2, rfl, h⟩

/-- Every command answers a next state, with the queue as it was and with every bound site fused good. -/
theorem exec_binds (c : Instr) (s : State) : answersBinds s (exec c s) := by
  cases c
  case warmReset o => exact execWarmReset_binds s o
  case modrstNRise => exact execModrstNRise_binds s
  case pwrfailRise => exact execPwrfailRise_binds s
  case coldPowerOn v o => exact execColdPowerOn_binds s v o
  case brownOut => exact execBrownOut_binds s
  case overVoltage => exact execOverVoltage_binds s
  case thermtrip => exact execThermtrip_binds s
  case referenceLostLong => exact execReferenceLostLong_binds s
  case alwaysOnDrop => exact execAlwaysOnDrop_binds s
  case coreReplace lc t => exact execCoreReplace_binds s lc t
  case faultReport r t => exact execFaultReport_binds s r t
  case rampEnd d => exact execRampEnd_binds s d
  case nop | br | brc | loop | halt | trap | settle | sched | waitUntil | forecast | phaseHint | add | sub | and | or
    | xor | shl | shr | sra | mul | min | max | li | lih | aadd | amov | smova | lds | sts | status | matrix | latch
    | feed | bankDrain | bankFree | ewise | vld | vst | vfma | vadd | vsub | vmul | vmin | vmax | vcmp | vsel | vsfu
    | vred | vbcast | vmovs | vwadd | vwanch | vwcvt | vxpose | push | sfree | signal | bell | tally =>
    exact answersBinds_dispatch s _ _
  all_goals exact answersBinds_of_fixed (by simp [exec])

/-! ### The statements -/

theorem idleTick_fixed (s : State) : (idleTick s).fixed = s.fixed := by
  unfold idleTick
  dsimp only
  (repeat' split) <;> simp

/-- Settles O3: a command answers a next state. -/
theorem everyCommandAnswersNext : Obligations.EveryCommandAnswersNext := by
  unfold Obligations.EveryCommandAnswersNext
  intro c s
  obtain ⟨t, ht, -⟩ := exec_binds c s
  exact ⟨t, ht⟩

/-- Settles O4: no command reads or writes the queue. -/
theorem commandsKeepQueue : Obligations.CommandsKeepQueue := by
  unfold Obligations.CommandsKeepQueue
  intro c s t h
  obtain ⟨u, hu, hq, -⟩ := exec_binds c s
  rw [h] at hu
  cases hu
  exact hq

/-- Settles O5: a tick binds nothing, and a command binds a logical core only to a site it has found fused good. -/
theorem boundSitesAreFused : Obligations.BoundSitesAreFused := by
  unfold Obligations.BoundSitesAreFused
  intro s t hs h
  unfold step at h
  split at h
  · cases h
    exact (keepsBinds_of_fixed (idleTick_fixed s)).2 hs
  · rename_i c rest _
    obtain ⟨u, hu, -, hb⟩ := exec_binds c { s with pending := rest }
    rw [h] at hu
    cases hu
    exact hb hs

/-- Settles O6: the core map at reset is empty. -/
theorem resetBindsNone : Obligations.ResetBindsNone :=
  ⟨bindsFused_unbound rfl, fun _ => rfl⟩

/-- Settles O1. -/
theorem stepRunsFront : Obligations.StepRunsFront := by
  unfold Obligations.StepRunsFront
  intro c rest s hs
  simp only [step, hs]

/-- Settles O2, by the three branches of the tick. -/
theorem idleTick_holds : Obligations.IdleTick := by
  unfold Obligations.IdleTick
  intro s hs
  refine ⟨idleTick s, by simp only [step, hs], ?_⟩
  unfold idleTick
  split
  · rename_i h
    exact ⟨rfl, fun _ => ⟨rfl, rfl⟩, fun _ => by omega, fun _ => by omega⟩
  · rename_i h
    split
    · exact ⟨rfl, fun _ => by omega, fun _ => ⟨rfl, rfl⟩, fun _ => by omega⟩
    · exact ⟨rfl, fun _ => by omega, fun _ => by omega, fun _ => ⟨rfl, rfl⟩⟩

end Sys2Proof.Machine
end

section
/-!
PROOF. The rows of SCALAR and VECTOR syllables: the registers written and what the vector queue takes (05_instruction_set.md).
-/

namespace Sys2Proof.Machine

section
variable {s : State} {d : Disp}

/-! ### A row whose bundle dispatches -/

/-- The row of a syllable in a bundle that dispatches answers the dispatch, with its frame. -/
theorem rowOf_completes {y : Syll} (h : dispatches s d y) {P : State → Prop} (hP : P (s.dispatch d y)) :
    completes (rowOf d y) s fun t => dispatched d y s t ∧ P t :=
  ⟨_, exec_rowOf d y s, dispatch_dispatched h, hP⟩

/-- The row of a syllable that queues work. -/
theorem rowOf_queues {y : Syll} (h : dispatches s d y) {P : Site → Prop}
    (hP : ∀ c, queuesGrow (s.site d.site) c → P ((s.site d.site).effect (s.statusValue d.site) (d.slot.val + 1) c y))
    (mono : ∀ c c', queuesGrow c c' → P c → P c') :
    completes (rowOf d y) s fun t =>
      dispatched d y s t ∧ queuesGrow (s.site d.site) (t.site d.site) ∧ P (t.site d.site) :=
  rowOf_completes h ⟨dispatch_grows h, dispatch_reach h P hP mono⟩

/-- The row of a SCALAR syllable that writes an S register. -/
theorem rowOf_writesS {y : Syll} (h : dispatches s d y) {r : BitVec 5} {v : Word64}
    (hw : (s.site d.site).writesNow y = some (r, v)) :
    completes (rowOf d y) s fun t =>
      dispatched d y s t ∧ (t.site d.site).sreg r = if r = 0 then 0 else v :=
  rowOf_completes h (P := fun t => (t.site d.site).sreg r = if r = 0 then 0 else v) (dispatch_sreg h hw)

/-- The row of a SCALAR syllable that writes an A register. -/
theorem rowOf_writesA {y : Syll} (h : dispatches s d y) {r : BitVec 5} {v : Word64}
    (hw : (s.site d.site).writesA y = some (r, v)) :
    completes (rowOf d y) s fun t => dispatched d y s t ∧ (t.site d.site).areg r.toNat = v :=
  rowOf_completes h (P := fun t => (t.site d.site).areg r.toNat = v) (dispatch_areg h hw)

/-! ### What stays in a queue -/

theorem mem_pend_grows {c c' : Site} (p : PendW) (h : queuesGrow c c') (hp : p ∈ c.pend) : p ∈ c'.pend :=
  h.2.1.subset hp

theorem mem_vecQ_grows {c c' : Site} (v : VecEntry) (h : queuesGrow c c') (hv : v ∈ c.vecQ) : v ∈ c'.vecQ :=
  h.1.subset hv

theorem mark_pend (c : Site) {rd : BitVec 5} (v : Option Word64) (h : rd ≠ 0) :
    ({ rd := rd, value := v } : PendW) ∈ (c.mark rd v).pend := by
  rw [Site.mark, if_neg h]
  exact List.mem_append_right _ List.mem_cons_self

@[simp] theorem mark_vecQ (c : Site) (rd : BitVec 5) (v : Option Word64) : (c.mark rd v).vecQ = c.vecQ := by
  unfold Site.mark
  split <;> rfl

/-! ### The vector queue -/

/-- What the vector queue takes of a VECTOR syllable: its registers at the start of the cycle (R148). -/
def Site.vecRead (c : Site) (slot : Nat) (op : VecOp) (f : VecF) : VecEntry :=
  { c.vecEntry slot (.vec op f) (c.areg f.areg.toNat) f.va f.vb (vecSreg op f) with
    sval := if op = .vwcvt ∧ f.vb = 0 then fp1 ++ fp1 else c.sreg (vecSreg op f) }

/-- A VWCVT without a scale register has both scales 1.0. -/
theorem vecRead_vwcvt (c : Site) (k : Nat) (f : VecF) :
    (c.vecRead k .vwcvt f).sval = if f.vb = 0 then fp1 ++ fp1 else c.sreg f.vb := by
  change (if VecOp.vwcvt = .vwcvt ∧ f.vb = 0 then fp1 ++ fp1 else c.sreg f.vb) = _
  simp only [true_and]

theorem effect_vec (c0 : Site) (st : BitVec 8 → Word64) (k : Nat) (c : Site) (op : VecOp) (f : VecF) :
    c0.vecRead k op f ∈ (c0.effect st k c (.vec op f)).vecQ := by
  have last (c : Site) (v : VecEntry) : v ∈ ({ c with vecQ := c.vecQ ++ [v] } : Site).vecQ :=
    List.mem_append_right _ List.mem_cons_self
  cases op
  case vwcvt =>
    have e : c0.vecRead k .vwcvt f =
        (if f.vb = 0 then { c0.vecEntry k (.vec .vwcvt f) (c0.areg f.areg.toNat) f.va f.vb f.vb with sval := fp1 ++ fp1 }
        else c0.vecEntry k (.vec .vwcvt f) (c0.areg f.areg.toNat) f.va f.vb f.vb) := by
      by_cases h : f.vb = 0
      · rw [if_pos h]; simp only [Site.vecRead, vecSreg, h, and_self, if_true]
      · rw [if_neg h]; simp only [Site.vecRead, vecSreg, h, and_false, if_false]; rfl
    rw [e]
    exact last c _
  case vmovs => exact last (c.mark f.vd none) _
  all_goals exact last c _

/-- A VECTOR syllable of a bundle that dispatches stands in the vector queue. -/
theorem dispatch_vec {op : VecOp} {f : VecF} (h : dispatches s d (.vec op f)) :
    (s.site d.site).vecRead (d.slot.val + 1) op f ∈ ((s.dispatch d (.vec op f)).site d.site).vecQ :=
  dispatch_reach h (fun c => _ ∈ c.vecQ) (fun c _ => effect_vec _ _ _ c op f) fun _ _ => mem_vecQ_grows _

/-- The row of a VECTOR syllable: what holds of the entry it queues, and of the state it leaves. -/
theorem rowOf_vec {op : VecOp} {f : VecF} (h : dispatches s d (.vec op f)) {P : VecEntry → Prop}
    (hP : P ((s.site d.site).vecRead (d.slot.val + 1) op f)) :
    completes (rowOf d (.vec op f)) s fun t => dispatched d (.vec op f) s t ∧
      queuesGrow (s.site d.site) (t.site d.site) ∧ ∃ v ∈ (t.site d.site).vecQ, P v :=
  rowOf_completes h ⟨dispatch_grows h, _, dispatch_vec h, hP⟩

/-- A VMOVS marks its register pending. -/
theorem dispatch_vmovs_pend {f : VecF} (h : dispatches s d (.vec .vmovs f)) (hd : f.vd ≠ 0) :
    ({ rd := f.vd, value := none } : PendW) ∈ ((s.dispatch d (.vec .vmovs f)).site d.site).pend :=
  dispatch_reach h (fun c => _ ∈ c.pend) (fun c _ => mark_pend c none hd) fun _ _ => mem_pend_grows _

end

/-! ### MIN and MAX (Table 5.6) -/

theorem aluResult_min (a b : Word64) : aluResult .min a b = if a.toInt < b.toInt then a else b := by
  simp [aluResult, BitVec.slt]

theorem aluResult_max (a b : Word64) : aluResult .max a b = if a.toInt < b.toInt then b else a := by
  simp [aluResult, BitVec.slt]

/-! ### The statements -/

/-- Settles O8: each of the five operations is the result of its SCALAR syllable. -/
theorem scalarShiftsAndOrder : Obligations.ScalarShiftsAndOrder := by
  unfold Obligations.ScalarShiftsAndOrder
  refine ⟨?shl, ?shr, ?sra, ?min, ?max⟩
  case min =>
    intro s d f h
    have r := rowOf_alu_writes h
    simp only [aluResult_min] at r
    exact r
  case max =>
    intro s d f h
    have r := rowOf_alu_writes h
    simp only [aluResult_max] at r
    exact r
  all_goals exact fun s d f h => rowOf_alu_writes h

/-- Settles O9: each of the five writes the one register it names. -/
theorem scalarMoves : Obligations.ScalarMoves := by
  unfold Obligations.ScalarMoves
  refine ⟨?li, ?lih, ?smova, ?aadd, ?amov⟩
  case li | lih => exact fun s d rd imm h => rowOf_writesS h rfl
  case smova => exact fun s d rd rs h => rowOf_writesS h rfl
  case aadd => exact fun s d f h => rowOf_writesA h rfl
  case amov => exact fun s d rd rs h => rowOf_writesA h rfl

/-- Settles O16: each operation is queued as it read its registers. -/
theorem vectorMemoryRowsQueue : Obligations.VectorMemoryRowsQueue := by
  unfold Obligations.VectorMemoryRowsQueue
  refine ⟨?vld, ?vst, ?vbcast, ?vmovs, ?vwadd, ?vwanch, ?vwcvt, ?vxpose⟩
  case vmovs =>
    intro s d f h
    exact rowOf_completes h ⟨dispatch_grows h, ⟨_, dispatch_vec h, rfl, rfl, rfl, rfl, rfl, rfl⟩, dispatch_vmovs_pend h⟩
  case vwcvt =>
    intro s d f h
    exact rowOf_vec h ⟨rfl, rfl, vecRead_vwcvt _ _ f, rfl, rfl, rfl, rfl⟩
  case vld | vst | vbcast | vwanch => exact fun s d f h => rowOf_vec h ⟨rfl, rfl, rfl, rfl, rfl, rfl, rfl⟩
  case vwadd | vxpose => exact fun s d f h => rowOf_vec h ⟨rfl, rfl, rfl, rfl, rfl, rfl⟩

/-- Settles O17: each operation is queued with its fields. -/
theorem vectorLaneRowsQueue : Obligations.VectorLaneRowsQueue := by
  unfold Obligations.VectorLaneRowsQueue
  refine ⟨?vfma, ?vadd, ?vsub, ?vmul, ?vmin, ?vmax, ?vcmp, ?vsel, ?vsfu, ?vred⟩
  all_goals exact fun s d f h => rowOf_vec h ⟨rfl, rfl, rfl, rfl, rfl, rfl⟩

end Sys2Proof.Machine
end

section
/-!
PROOF. The rows of LDS, STS and STATUS, and of the operations of the engines: what they queue and mark.
-/

namespace Sys2Proof.Machine

section
variable {s : State} {d : Disp}

/-! ### Commands on one site -/

/-- A command that sets a site leaves all else. -/
theorem completes_setSite {c : Instr} {n : SiteNo} {w : Site} (h : exec c s = .next (s.setSite n w)) {P : State → Prop}
    (hP : ∀ t, onlySite n s t → t.site n = w → P t) : completes c s P :=
  ⟨_, h, hP _ ⟨rfl, fun _ hm => State.site_setSite_other s w hm⟩ (State.site_setSite_same s n w)⟩

/-! ### The queues of an engine -/

theorem mem_arrayQ_grows {c c' : Site} (e : EngNo) (op : ArrayOp) (h : queuesGrow c c') (ho : op ∈ (c.eng e).arrayQ) :
    op ∈ (c'.eng e).arrayQ := (h.2.2.1 e).1.subset ho

theorem mem_feedQ_grows {c c' : Site} (e : EngNo) (op : FeedOp) (h : queuesGrow c c') (ho : op ∈ (c.eng e).feedQ) :
    op ∈ (c'.eng e).feedQ := (h.2.2.1 e).2.1.subset ho

theorem mem_latchQ_grows {c c' : Site} (e : EngNo) (op : LatchOp) (h : queuesGrow c c') (ho : op ∈ (c.eng e).latchQ) :
    op ∈ (c'.eng e).latchQ := (h.2.2.1 e).2.2.subset ho

theorem pushArray_mem (c : Site) (e : EngNo) (op : Nat → ArrayOp) :
    op c.nextSeq ∈ ((c.pushArray e op).eng (c.runner e)).arrayQ := by
  unfold Site.pushArray
  dsimp only
  rw [Site.eng_modEng_same]
  exact List.mem_append_right _ List.mem_cons_self

theorem pushFeed_mem (c : Site) (e : EngNo) (op : Nat → FeedOp) :
    op c.nextSeq ∈ ((c.pushFeed e op).eng (c.runner e)).feedQ := by
  unfold Site.pushFeed
  dsimp only
  rw [Site.eng_modEng_same]
  exact List.mem_append_right _ List.mem_cons_self

theorem pushLatch_mem (c : Site) (e : EngNo) (op : Nat → LatchOp) :
    op c.nextSeq ∈ ((c.pushLatch e op).eng (c.runner e)).latchQ := by
  unfold Site.pushLatch
  dsimp only
  rw [Site.eng_modEng_same]
  exact List.mem_append_right _ List.mem_cons_self

/-- An array queue holds an operation with a property; it keeps it while the queues grow. -/
theorem arrayQ_holds_grows {c c' : Site} (e : EngNo) (P : ArrayOp → Prop) (h : queuesGrow c c')
    (ho : ∃ op ∈ (c.eng e).arrayQ, P op) : ∃ op ∈ (c'.eng e).arrayQ, P op := by
  obtain ⟨op, hm, hp⟩ := ho
  exact ⟨op, mem_arrayQ_grows e op h hm, hp⟩

/-- What an array queue takes of a syllable (R140, R143). -/
def Site.arrayRead (c : Site) (slot : Nat) (kind : ArrayKind) (m : Nat) (anchor : BitVec 8) (cs : BitVec 32 × BitVec 32)
    (e : EngNo) (k : Nat) : ArrayOp :=
  { seq := k, kind := kind, m := m, anchorReg := anchor, c1 := cs.1, c2 := cs.2, bundle := c.pc, slot := slot,
    named := e }

/-- What a latch queue takes of a LATCH (R143). -/
def Site.latchRead (c : Site) (slot : Nat) (f : LatchF) (k : Nat) : LatchOp :=
  { seq := k, f := f, off := (c.areg f.areg.toNat).toNat, bundle := c.pc, slot := slot }

/-- What a feed queue takes of a FEED (R143). -/
def Site.feedRead (c : Site) (slot : Nat) (f : FeedF) (k : Nat) : FeedOp :=
  { seq := k, f := f, m := c.mOf f.mreg f.mfield, off := (c.areg f.areg.toNat).toNat, bundle := c.pc, slot := slot }

/-- The row of a syllable that enters an array queue, behind claims it may make first. -/
theorem rowOf_array {y : Syll} (h : dispatches s d y) {e : EngNo} (op : Nat → ArrayOp) {g : Site → Site}
    {P : ArrayOp → Prop} (hg : ∀ c, queuesGrow c (g c))
    (he : ∀ c, (s.site d.site).effect (s.statusValue d.site) (d.slot.val + 1) c y = (g c).pushArray e op)
    (hP : ∀ k, P (op k)) :
    completes (rowOf d y) s fun t => dispatched d y s t ∧ queuesGrow (s.site d.site) (t.site d.site) ∧
      ∃ op ∈ ((t.site d.site).eng ((s.site d.site).runner e)).arrayQ, P op := by
  refine rowOf_queues h (P := fun c => ∃ op ∈ (c.eng ((s.site d.site).runner e)).arrayQ, P op) (fun c hc => ?_)
    fun c c' => arrayQ_holds_grows _ P
  rw [he, ← (queuesGrow_trans hc (hg c)).2.2.2.2 e]
  exact ⟨_, pushArray_mem (g c) e op, hP _⟩

end

/-! ### The statements -/

/-- Settles O14: what LDS, STS and STATUS queue and mark stands at the end of the bundle. -/
theorem loadsStoresStatus : Obligations.LoadsStoresStatus := by
  unfold Obligations.LoadsStoresStatus
  refine ⟨?lds, ?sts, ?status, ?arrives⟩
  case lds =>
    intro s d f h
    refine rowOf_completes h ⟨dispatch_grows h, ⟨(s.site d.site).vecEntry (d.slot.val + 1) (.lds f.reg)
      ((s.site d.site).memAddr f) 0 0 0, ?_, rfl, rfl, rfl, rfl⟩, fun hr => ?_⟩
    · exact dispatch_reach h (fun c => _ ∈ c.vecQ)
        (fun c _ => List.mem_append_right _ List.mem_cons_self) fun _ _ => mem_vecQ_grows _
    · exact dispatch_reach h (fun c => _ ∈ c.pend) (fun c _ => mark_pend c none hr) fun _ _ => mem_pend_grows _
  case sts =>
    intro s d f h
    refine rowOf_completes h ⟨dispatch_grows h, (s.site d.site).vecEntry (d.slot.val + 1)
      (.sts ((s.site d.site).sreg f.reg)) ((s.site d.site).memAddr f) 0 0 0, ?_, rfl, rfl, rfl, rfl⟩
    exact dispatch_reach h (fun c => _ ∈ c.vecQ)
        (fun c _ => List.mem_append_right _ List.mem_cons_self) fun _ _ => mem_vecQ_grows _
  case status =>
    intro s d rd clear src h
    refine rowOf_completes h ⟨dispatch_grows h, fun hr => ?_⟩
    refine dispatch_reach h (fun c => _ ∈ c.pend) (fun c _ => ?_) fun _ _ => mem_pend_grows _
    have hm := mark_pend c (some (s.statusValue d.site src)) hr
    cases clear
    · exact hm
    · exact mem_pend_grows _ (statusClear_grows _ src) hm
  case arrives =>
    intro s n rd v p hf hv
    have hx : exec (.pendingWriteArrives n rd) s =
        .next (s.setSite n { (s.site n).setS rd v with pend := (s.site n).pend.erase p }) := by
      change execPendingWriteArrives n rd s = _
      simp only [execPendingWriteArrives, hf, hv]
    refine completes_setSite hx fun t ho ht => ⟨ho, ?_⟩
    have hr (r : BitVec 5) : (t.site n).sreg r = if r = rd ∧ rd ≠ 0 then v else (s.site n).sreg r := by
      rw [ht]
      exact sreg_setS (s.site n) rd r v
    refine ⟨?_, by rw [ht], fun r hne => ?_, ?_⟩
    · by_cases h0 : rd = 0
      · rw [if_pos h0, h0]
        exact sreg_zero _
      · rw [hr rd, if_pos ⟨rfl, h0⟩, if_neg h0]
    · exact (hr r).trans (if_neg fun h => hne h.1)
    · rw [ht]
      unfold Site.setS
      split <;> rfl

/-- Settles O15: each operation enters the queue of the engine that runs it, as it read its registers. -/
theorem engineQueues : Obligations.EngineQueues := by
  unfold Obligations.EngineQueues
  refine ⟨?matrix, ?drain, ?free, ?ewise, ?latch, ?feed⟩
  case matrix =>
    intro s d f h
    refine rowOf_array h ((s.site d.site).arrayRead (d.slot.val + 1) (.matrix f) ((s.site d.site).mOf f.mreg f.mfield)
      (if f.anch = 1 then ((s.site d.site).sreg f.anchArg).extractLsb' 0 8 else 0) ((s.site d.site).scales f.scalReg) f.eng)
      (g := fun c => if f.dest = 0 then c else c.claim f.sill) (fun c => ?_) (fun c => rfl)
      fun k => ?_
    · split
      · exact queuesGrow_refl c
      · exact claim_grows c _
    · exact ⟨rfl, rfl, rfl, rfl, rfl, rfl, rfl⟩
  case drain =>
    intro s d f h
    refine rowOf_array h ((s.site d.site).arrayRead (d.slot.val + 1) (.drain f) (f.rowsM1.toNat + 1) 0
      ((s.site d.site).scales f.scalReg) f.eng) (g := fun c => c.claim f.sill) (fun c => claim_grows c _) (fun c => rfl)
      fun k => ?_
    exact ⟨rfl, rfl, rfl, rfl, rfl, rfl⟩
  case free =>
    intro s d e b h
    refine rowOf_array h ((s.site d.site).arrayRead (d.slot.val + 1) (.free b) 0 0 (fp1, fp1) e) (g := id) queuesGrow_refl (fun c => rfl) fun k => ?_
    exact ⟨rfl, rfl, rfl, rfl⟩
  case ewise =>
    intro s d f h
    refine rowOf_array h ((s.site d.site).arrayRead (d.slot.val + 1) (.ewise f) (f.nM1.toNat + 1) 0 (fp1, fp1) f.eng)
      (g := fun c => c.claim f.sill) (fun c => claim_grows c _) (fun c => rfl)
      fun k => ?_
    exact ⟨rfl, rfl, rfl, rfl, rfl⟩
  case latch =>
    intro s d f h
    obtain ⟨k, hk⟩ : ∃ k, (s.site d.site).latchRead (d.slot.val + 1) f k ∈
          (((s.dispatch d (.latch f)).site d.site).eng ((s.site d.site).runner f.eng)).latchQ :=
      dispatch_reach h (fun c => ∃ k, (s.site d.site).latchRead (d.slot.val + 1) f k ∈ (c.eng ((s.site d.site).runner f.eng)).latchQ)
        (fun c hc => ⟨c.nextSeq, hc.2.2.2.2 f.eng ▸ pushLatch_mem c f.eng ((s.site d.site).latchRead (d.slot.val + 1) f)⟩)
        fun c c' hg ⟨k, hk⟩ => ⟨k, mem_latchQ_grows _ _ hg hk⟩
    exact rowOf_completes h ⟨dispatch_grows h, _, hk, rfl, rfl, rfl, rfl⟩
  case feed =>
    intro s d f h
    obtain ⟨k, hk⟩ : ∃ k, (s.site d.site).feedRead (d.slot.val + 1) f k ∈
          (((s.dispatch d (.feed f)).site d.site).eng ((s.site d.site).runner f.eng)).feedQ :=
      dispatch_reach h (fun c => ∃ k, (s.site d.site).feedRead (d.slot.val + 1) f k ∈ (c.eng ((s.site d.site).runner f.eng)).feedQ)
        (fun c hc => ⟨c.nextSeq, hc.2.2.2.2 f.eng ▸ pushFeed_mem c f.eng ((s.site d.site).feedRead (d.slot.val + 1) f)⟩)
        fun c c' hg ⟨k, hk⟩ => ⟨k, mem_feedQ_grows _ _ hg hk⟩
    exact rowOf_completes h ⟨dispatch_grows h, _, hk, rfl, rfl, rfl, rfl, rfl⟩

end Sys2Proof.Machine
end

section
/-!
PROOF. The rows of CTRL syllables: where the flow goes and what each sets (R131 to R136, R151, R154 to R156).
-/

namespace Sys2Proof.Machine

/-! ### Where the flow goes -/

/-- A loop whose END the skipped body ends at advances, and those inside it that end there are freed (R133). -/
theorem skipLoops_none {b : BitVec 16} {ls : List LoopSt} (h : ∀ l ∈ ls, l.endB ≠ b) : skipLoops b ls = (ls, none) := by
  induction ls with
  | nil => rfl
  | cons l ls ih =>
    obtain ⟨hl, hls⟩ := List.forall_mem_cons.1 h
    simp only [skipLoops, if_neg hl, ih hls]

theorem skipLoops_some {b : BitVec 16} {inner : List LoopSt} {l : LoopSt} (outer : List LoopSt)
    (hi : ∀ x ∈ inner, x.endB ≠ b ∨ x.count.toNat ≤ 1) (hl : l.endB = b) (hc : 1 < l.count) :
    skipLoops b (inner ++ l :: outer) =
      ((inner.filter fun x => decide (x.endB ≠ b)) ++ { l with count := l.count - 1 } :: outer, some l.start) := by
  induction inner with
  | nil => simp only [List.nil_append, skipLoops, if_pos hl, if_pos hc, List.filter_nil]
  | cons x xs ih =>
    obtain ⟨hx, hxs⟩ := List.forall_mem_cons.1 hi
    by_cases he : x.endB = b
    · have hn : ¬ 1 < x.count := fun h => by
        have := (hx.resolve_left (absurd he)).trans_lt (BitVec.lt_def.1 h)
        simp at this
      rw [List.cons_append, skipLoops, if_pos he, if_neg hn, ih hxs, List.filter_cons_of_neg (by simpa using he)]
    · rw [List.cons_append, skipLoops, if_neg he, ih hxs, List.filter_cons_of_pos (by simpa using he), List.cons_append]

/-- The innermost loop that ends here with iterations left starts its next one; those inside it that end here are freed (R133). -/
theorem advanceLoops_some {b : BitVec 16} {done : List LoopSt} {l : LoopSt} (outer : List LoopSt)
    (hd : ∀ x ∈ done, x.endB = b ∧ x.count.toNat ≤ 1) (hl : l.endB = b) (hc : 1 < l.count) :
    advanceLoops b (done ++ l :: outer) = ({ l with count := l.count - 1 } :: outer, some l.start) := by
  induction done with
  | nil => simp only [List.nil_append, advanceLoops, if_pos hl, if_pos hc]
  | cons x xs ih =>
    obtain ⟨⟨he, hx⟩, hxs⟩ := List.forall_mem_cons.1 hd
    have hn : ¬ 1 < x.count := fun h => by
      have := hx.trans_lt (BitVec.lt_def.1 h)
      simp at this
    simp only [List.cons_append, advanceLoops, if_pos he, if_neg hn, ih hxs]

/-- A BRC with a defined COND holds as Table 5.5 says. -/
theorem condHolds_iff {cond : BitVec 3} (a b : Word64) (h : cond.toNat < 6) :
    condHolds cond a b = true ↔ (cond = 0 ∧ a = b) ∨ (cond = 1 ∧ a ≠ b) ∨ (cond = 2 ∧ a.toInt < b.toInt) ∨
      (cond = 3 ∧ b.toInt ≤ a.toInt) ∨ (cond = 4 ∧ a.toNat < b.toNat) ∨ (cond = 5 ∧ b.toNat ≤ a.toNat) := by
  have hv : cond = 0 ∨ cond = 1 ∨ cond = 2 ∨ cond = 3 ∨ cond = 4 ∨ cond = 5 := by bv_omega
  rcases hv with rfl | rfl | rfl | rfl | rfl | rfl <;> simp [condHolds, BitVec.slt, BitVec.lt_def]

section
variable {s : State} {d : Disp} {y : Syll}

/-! ### What a bundle that dispatches meets (R124) -/

theorem badSlot_none {c : Site} {h : Head} {ys : List (Nat × Syll)} (hb : c.badSlot h ys = none) :
    (∀ p ∈ ys, p.2.ok = true ∧ c.placeBad p.2 = false) ∧ bundleOk (ys.map (·.2)) = true := by
  unfold Site.badSlot at hb
  split at hb
  · cases hb
  · split at hb
    · cases hb
    · rename_i hf
      split at hb
      · rename_i hok
        refine ⟨fun p hp => ?_, hok⟩
        have := List.find?_eq_none.1 hf p hp
        simpa only [Bool.or_eq_true, Bool.not_eq_true', not_or, Bool.not_eq_true, Bool.not_eq_false] using this
      · cases hb

/-- Every field of a syllable that dispatches is defined. -/
theorem dispatch_ok (h : dispatches s d y) : y.ok = true := by
  obtain ⟨-, -, -, hb, -, -⟩ := h
  exact ((badSlot_none hb).1 _ (mem_slotsOf d y)).1

theorem mem_bundleOf (d : Disp) (y : Syll) : y ∈ bundleOf d y := List.mem_map_of_mem (mem_slotsOf d y)

/-- A bundle with a syllable that is neither NOP nor TALLY holds no TALLY (R150). -/
theorem dispatch_noTally (h : dispatches s d y) (hy : y.isTally = false) (hn : y ≠ .nop) :
    ∀ z ∈ bundleOf d y, z.isTally = false := by
  obtain ⟨-, -, -, hb, -, -⟩ := h
  have hok := (badSlot_none hb).2
  simp only [bundleOk, Bool.and_eq_true, Bool.or_eq_true, Bool.not_eq_true', decide_eq_true_eq] at hok
  rcases hok.1.2 with hany | hall
  · exact fun z hz => Bool.eq_false_iff.2 fun ht => by
      have := List.any_eq_false.1 hany z hz
      exact this ht
  · have := List.all_eq_true.1 hall y (mem_bundleOf d y)
    simp [hy, hn] at this

/-- A condition of Table 5.3 on a syllable holds when its bundle dispatches. -/
theorem dispatch_syllWait (h : dispatches s d y) : s.syllWait d.site y = true := by
  obtain ⟨-, -, -, -, hc, -⟩ := h
  simp only [State.canDispatch, Bool.and_eq_true] at hc
  exact List.all_eq_true.1 hc.2 y (mem_bundleOf d y)

/-- Where a bundle with a known flow goes. -/
theorem dispatch_goes (h : dispatches s d y) {fl : Flow} (hf : (s.site d.site).flow (bundleOf d y) = fl) :
    ((s.dispatch d y).site d.site).pc = fl.pc ∧
    ((s.dispatch d y).site d.site).cycle = (s.site d.site).cycle + (if fl.extra then 2 else 1 : Word64) ∧
    ((s.dispatch d y).site d.site).loops = fl.loops := by
  obtain ⟨hpc, hloops, hcycle, -⟩ := dispatch_flow h
  exact hf ▸ ⟨hpc, hcycle, hloops⟩

/-- A bundle that only falls through flows on (R133). -/
theorem dispatch_flowsOn (h : dispatches s d y) (hf : (s.site d.site).flow (bundleOf d y) = (s.site d.site).fall) :
    flowsOn s (s.dispatch d y) d.site := by
  obtain ⟨hpc, hcycle, hloops⟩ := dispatch_goes h hf
  refine ⟨hcycle, fun hn => ?_, fun done l outer hl hd he hc => ?_⟩
  · have hend : (s.site d.site).atEnd = false := by
      rw [Site.atEnd, List.any_eq_false]
      exact fun l hl => by simpa using hn l hl
    rw [fall_none hend] at hpc hloops
    exact ⟨hpc, hloops⟩
  · unfold Site.fall at hpc hloops
    rw [hl, advanceLoops_some outer hd he hc] at hpc hloops
    exact ⟨hpc, hloops⟩

/-- The flow of a bundle with a CTRL syllable that is no branch. -/
theorem dispatch_ctrl_flowsOn (h : dispatches s d y) (hc : y.isCtrl = true) (hf : (s.site d.site).flowOf y = none) :
    flowsOn s (s.dispatch d y) d.site :=
  dispatch_flowsOn h (by rw [flow_of h hc, hf])

/-! ### What a CTRL syllable sets -/

/-- The parts of a site that only CTRL syllables and a TALLY set. -/
def Site.ctrlSet (c : Site) : SeqState × Option (BitVec 3) × List Forecast := (c.seq, c.hint, c.forecasts)

theorem effect_ctrlSet (c0 : Site) (st : BitVec 8 → Word64) (k : Nat) (c : Site) {z : Syll} (hz : z.isCtrl = false) :
    (c0.effect st k c z).ctrlSet = c.ctrlSet := by
  have mark (c : Site) (r : BitVec 5) (v) : (c.mark r v).ctrlSet = c.ctrlSet := by
    unfold Site.mark
    split <;> rfl
  have setS (c : Site) (r : BitVec 5) (v) : (c.setS r v).ctrlSet = c.ctrlSet := by
    unfold Site.setS
    split <;> rfl
  cases z with
  | alu op f | li rd imm | lih rd imm | smova rd rs => exact setS _ _ _
  | lds f => exact mark c f.reg none
  | signal tok n =>
    unfold Site.effect Site.signal
    dsimp only
    split <;> rfl
  | sfree e =>
    unfold Site.effect Site.sillTryFree
    dsimp only
    split
    · split <;> rfl
    · rfl
  | status rd clear src =>
    have hclear (c : Site) : (c.statusClear src).ctrlSet = c.ctrlSet := by
      unfold Site.statusClear
      split <;> rfl
    cases clear
    · exact mark _ _ _
    · exact (hclear _).trans (mark _ _ _)
  | matrix f =>
    unfold Site.effect
    dsimp only
    split <;> rfl
  | vec op f =>
    cases op with
    | vmovs => exact mark c f.vd none
    | _ => rfl
  | br | brc | loop | halt | trap | settle | sched | waitUntil | forecast | phaseHint => cases hz
  | _ => rfl

theorem outside_ctrlSet (s : State) (n : SiteNo) (c0 : Site) (k : Nat) {z : Syll} (hz : z.isTally = false) :
    ((s.outside n c0 k z).site n).ctrlSet = (s.site n).ctrlSet := by
  unfold State.outside
  split
  · obtain ⟨b, q, e⟩ := (coreBell_moves n s (c0.bellMsg _)).2.2
    rw [e]
    rfl
  · cases hz
  · rfl

theorem ctrl_notTally {z : Syll} (h : z.isCtrl = true) : z.isTally = false := by
  cases z with
  | tally => cases h
  | _ => rfl

/-- What a CTRL syllable sets stands at the end of its bundle. -/
theorem dispatch_ctrlSet (h : dispatches s d y) (hc : y.isCtrl = true) (P : SeqState × Option (BitVec 3) × List Forecast → Prop)
    (hP : ∀ k c, P ((s.site d.site).effect (s.statusValue d.site) k c y).ctrlSet) :
    P ((s.dispatch d y).site d.site).ctrlSet := by
  have noTally := dispatch_noTally h (ctrl_notTally hc) (by rintro rfl; cases hc)
  have effects (ys : List (Nat × Syll)) (c : Site) (hys : ∀ p ∈ ys, p.2 ∈ bundleOf d y)
      (hy : (∃ k, (k, y) ∈ ys) ∨ P c.ctrlSet) :
      P (ys.foldl (fun c p => (s.site d.site).effect (s.statusValue d.site) p.1 c p.2) c).ctrlSet := by
    induction ys generalizing c with
    | nil => exact hy.resolve_left fun ⟨_, hk⟩ => List.not_mem_nil hk
    | cons p ps ih =>
      obtain ⟨hp, hps⟩ := List.forall_mem_cons.1 hys
      refine ih _ hps ?_
      by_cases he : p.2 = y
      · refine .inr ?_
        subst he
        exact hP p.1 c
      · have hz : p.2.isCtrl = false := Bool.eq_false_iff.2 fun hz => he (ctrl_one h hc p.2 hp hz)
        refine hy.imp (fun ⟨k, hk⟩ => ⟨k, (List.mem_cons.1 hk).resolve_left fun e => he (e ▸ rfl)⟩) fun hc => ?_
        rwa [effect_ctrlSet _ _ _ _ hz]
  have outsides (ys : List Syll) (t : State) (hys : ∀ z ∈ ys, z ∈ bundleOf d y) (k : Nat) :
      ((ys.foldl (fun t z => t.outside d.site (s.site d.site) k z) t).site d.site).ctrlSet = (t.site d.site).ctrlSet := by
    induction ys generalizing t with
    | nil => rfl
    | cons z zs ih =>
      obtain ⟨hz, hzs⟩ := List.forall_mem_cons.1 hys
      exact (ih _ hzs).trans (outside_ctrlSet t d.site _ k (noTally z hz))
  have ho := outsides (bundleOf d y) (s.setSite d.site (s.committed d.site d.head (slotsOf d y))) (fun _ hz => hz)
    (s.bundleShare d.site (bundleOf d y))
  rw [State.site_setSite_same] at ho
  rw [dispatch_commits h, commit_eq]
  refine (congrArg P ho).mpr (effects _ _ (fun p hp => List.mem_map_of_mem hp) (.inl ⟨_, mem_slotsOf d y⟩))

/-- A forecast that is added is held. -/
theorem mem_addForecast (fs : List Forecast) (f : Forecast) : f ∈ addForecast fs f := by
  unfold addForecast
  split
  · exact List.mem_append_right _ List.mem_cons_self
  · split
    · exact List.mem_cons_self
    · exact List.mem_append_right _ List.mem_cons_self

/-- A FORECAST of DURATION 0 leaves none (R155). -/
theorem effect_forecast_zero (c0 : Site) (st : BitVec 8 → Word64) (k : Nat) (c : Site) (m level start) {dur : BitVec 12}
    (h : dur = 0) : (c0.effect st k c (.forecast m level start dur)).forecasts = [] := by
  unfold Site.effect
  dsimp only
  rw [if_pos h]

/-- Another holds its forecast, from the time base that the bundle dispatches at (R155). -/
theorem effect_forecast (c0 : Site) (st : BitVec 8 → Word64) (k : Nat) (c : Site) (m level start) {dur : BitVec 12}
    (h : dur ≠ 0) : Forecast.mk m level (st 1 + BitVec.ofNat 64 (start.toNat * 100))
      (st 1 + BitVec.ofNat 64 (start.toNat * 100) + BitVec.ofNat 64 (dur.toNat * 1000)) false ∈
        (c0.effect st k c (.forecast m level start dur)).forecasts := by
  unfold Site.effect
  dsimp only
  rw [if_neg h]
  exact mem_addForecast _ _

end

/-! ### The statements -/

/-- Settles O10: each clause is where the flow of its syllable goes. -/
theorem branchesAndLoops : Obligations.BranchesAndLoops := by
  unfold Obligations.BranchesAndLoops
  refine ⟨?br, ?brc, ?loop⟩
  case br => exact fun s d target h => rowOf_completes h (dispatch_goes h (flow_of h rfl _))
  case brc =>
    intro s d cond rs1 rs2 imm imm16 target h
    have hc : cond.toNat < 6 := by simpa only [Syll.ok, decide_eq_true_eq] using dispatch_ok h
    have hfl := flow_of h rfl (s.site d.site)
    have hend := dispatch_notAtEnd h fun c hp => hp
    refine rowOf_completes h ⟨fun hh => ?_, fun hh => ?_⟩
    · rw [Site.flowOf, if_pos ((condHolds_iff _ _ hc).2 hh)] at hfl
      exact dispatch_goes h hfl
    · rw [Site.flowOf, if_neg fun hx => hh ((condHolds_iff _ _ hc).1 hx)] at hfl
      exact dispatch_goes h (hfl.trans (fall_none hend))
  case loop =>
    intro s d creg rs count endB h
    have hfl := flow_of h rfl (s.site d.site)
    refine rowOf_completes h ⟨fun hn => ?_, fun hn hl => ?_, fun inner l outer hn hl hi he hc => ?_⟩
    · rw [Site.flowOf, Site.enterLoop, if_neg hn] at hfl
      exact dispatch_goes h hfl
    · rw [Site.flowOf, Site.enterLoop, if_pos hn, skipLoops_none hl] at hfl
      exact dispatch_goes h hfl
    · rw [Site.flowOf, Site.enterLoop, if_pos hn, hl, skipLoops_some outer hi he hc] at hfl
      exact dispatch_goes h hfl

/-- Settles O11: none of these syllables changes the flow, and what each sets no other syllable of its bundle sets. -/
theorem fallsThrough : Obligations.FallsThrough := by
  unfold Obligations.FallsThrough
  refine ⟨?nop, ?halt, ?settle, ?sched, ?waitUntil, ?forecast, ?phaseHint⟩
  case nop =>
    intro s d h hn
    refine rowOf_completes h (dispatch_flowsOn h ?_)
    have hf : (bundleOf d .nop).findSome? (s.site d.site).flowOf = none :=
      List.findSome?_eq_none_iff.2 fun z hz => Option.eq_none_iff_forall_ne_some.2 fun f hf =>
        Bool.false_ne_true ((hn z hz).symm.trans (flowOf_ctrl _ hf))
    rw [Site.flow, hf]
  case halt =>
    intro s d h
    exact rowOf_completes h ⟨dispatch_ctrl_flowsOn h rfl rfl,
      dispatch_ctrlSet h rfl (fun v => v.1 = .halted) fun _ _ => rfl⟩
  case settle =>
    intro s d h
    have hs : (s.site d.site).settled = true := dispatch_syllWait h
    simp only [Site.settled, Bool.and_eq_true, List.isEmpty_iff] at hs
    exact rowOf_completes h ⟨dispatch_ctrl_flowsOn h rfl rfl, hs.1.1, hs.1.2, hs.2⟩
  case sched =>
    intro s d h
    obtain ⟨-, -, -, hsref, -⟩ := dispatch_flow h
    refine rowOf_completes h ⟨dispatch_ctrl_flowsOn h rfl rfl, hsref.trans ?_⟩
    rw [Site.nextRef, if_pos (List.contains_iff_mem.2 (mem_bundleOf d .sched))]
  case waitUntil =>
    intro s d rs h
    have hs := dispatch_syllWait h
    exact rowOf_completes h ⟨dispatch_ctrl_flowsOn h rfl rfl, by simpa only [State.syllWait, decide_eq_true_eq] using hs⟩
  case forecast =>
    intro s d m level start dur h
    refine rowOf_completes h ⟨dispatch_ctrl_flowsOn h rfl rfl, fun h0 => ?_, fun h0 => ?_⟩
    · exact dispatch_ctrlSet h rfl (fun v => v.2.2 = []) fun k c => effect_forecast_zero _ _ k c m level start h0
    · exact dispatch_ctrlSet h rfl (fun v => _ ∈ v.2.2) fun k c => effect_forecast _ _ k c m level start h0
  case phaseHint =>
    intro s d valid op h
    exact rowOf_completes h ⟨dispatch_ctrl_flowsOn h rfl rfl,
      dispatch_ctrlSet h rfl (fun v => v.2.1 = if valid then some op else none) fun _ _ => rfl⟩

end Sys2Proof.Machine
end

section
/-!
PROOF. Precise exceptions (R157, Table 5.16).
-/

namespace Sys2Proof.Machine

/-! ### CORE_EXC (Table 5.16) -/

/-- Bit 31 alone is set. -/
theorem getLsbD_bitAt_31 {j : Nat} (h : j ≠ 31) : (bitAt true 31).getLsbD j = false := by
  have e : bitAt true 31 = BitVec.twoPow 32 31 := by decide
  rw [e, BitVec.getLsbD_twoPow, decide_eq_false (Ne.symm h), Bool.and_false]

/-- The fields of CORE_EXC as an exception leaves them. -/
theorem excWord_fields (code : BitVec 6) (k : BitVec 3) (b : BitVec 16) :
    let w : Word32 := bitAt true 31 ||| fieldAt code 24 ||| fieldAt k 21 ||| fieldAt b 0
    w.getLsbD 31 = true ∧ w.extractLsb' 24 6 = code ∧ w.extractLsb' 21 3 = k ∧ w.extractLsb' 0 16 = b := by
  refine ⟨by simp [bitAt], ?_, ?_, ?_⟩ <;> refine BitVec.eq_of_getLsbD_eq fun i hi => ?_
  · simp only [BitVec.getLsbD_extractLsb', BitVec.getLsbD_or, getLsbD_bitAt_31 (by omega : 24 + i ≠ 31), fieldAt]
    simp [hi, (by omega : 24 + i < 32), (by omega : ¬ 24 + i < 21),
      BitVec.getLsbD_of_ge k _ (by omega : 3 ≤ 24 + i - 21), BitVec.getLsbD_of_ge b (24 + i) (by omega)]
  · simp only [BitVec.getLsbD_extractLsb', BitVec.getLsbD_or, getLsbD_bitAt_31 (by omega : 21 + i ≠ 31), fieldAt]
    simp [hi, (by omega : 21 + i < 32), (by omega : 21 + i < 24), BitVec.getLsbD_of_ge b (21 + i) (by omega)]
  · simp only [BitVec.getLsbD_extractLsb', BitVec.getLsbD_or, getLsbD_bitAt_31 (by omega : 0 + i ≠ 31), fieldAt]
    simp [hi, (by omega : i < 32), (by omega : i < 24), (by omega : i < 21)]

section
variable {s : State} {n : SiteNo}

/-- A program exception on a site that runs is recorded, stops it and is told, and changes nothing else (R157). -/
theorem raise_raised (h : (s.site n).seq = .running) (code : BitVec 6) (k : Nat) (info : Word32) :
    raised s (s.raise n code k (s.site n).pc info) n code k info := by
  have hs : (s.raise n code k (s.site n).pc info).site n = ((s.site n).recordExc code k (s.site n).pc info).stop :=
    State.site_modSite_same s n fun c => (c.recordExc code k (s.site n).pc info).stop
  have hq : ((s.site n).recordExc code k (s.site n).pc info).stop =
      { (s.site n).recordExc code k (s.site n).pc info with seq := .stopped } := by
    refine stop_of_running ?_
    unfold Site.recordExc
    split <;> exact h
  rw [hq] at hs
  refine ⟨rfl, fun m hm => State.site_modSite_other s (fun c => (c.recordExc code k (s.site n).pc info).stop) hm, ?_, fun hv => ?_, fun hv => ?_,
    ⟨_, _⟩, mem_insertReport _ _ _, rfl, rfl⟩
  · rw [hs]
    unfold Site.recordExc
    split <;> rfl
  · rw [hs]
    simp only [Site.recordExc, hv, Bool.false_eq_true, if_false]
    obtain ⟨h1, h2, h3, h4⟩ := excWord_fields code (BitVec.ofNat 3 k) (s.site n).pc
    exact ⟨h1, h2, h3, h4, trivial⟩
  · rw [hs]
    simp only [Site.recordExc, hv, if_true]
    exact ⟨trivial, rfl⟩

/-- A bundle that breaks a rule raises it (R157). -/
theorem dispatch_badSlot {d : Disp} {y : Syll} {k : Nat} (hf : fetchedClean s d) (hq : (s.site d.site).seq = .running)
    (hc : s.clocked d.site = true) (hb : (s.site d.site).badSlot d.head (slotsOf d y) = some k) :
    s.dispatch d y = s.raise d.site 0x01 k (s.site d.site).pc 0 := by
  rw [dispatch_clocked y hc, begin_clean y hf]
  simp only [State.attempt, hq, hb, ne_eq, not_true, if_false]

/-- A bundle that could dispatch raises the first exception of its syllables (R157). -/
theorem dispatch_raises {d : Disp} {y : Syll} {k : Nat} {code : BitVec 6} {info : Word32} (hf : fetchedClean s d)
    (hq : (s.site d.site).seq = .running) (hc : s.clocked d.site = true)
    (hb : (s.site d.site).badSlot d.head (slotsOf d y) = none)
    (hd : s.canDispatch d.site d.head (bundleOf d y) = true)
    (hr : s.firstRaise d.site [] (slotsOf d y) = some (k, code, info)) :
    s.dispatch d y = s.raise d.site code k (s.site d.site).pc info := by
  rw [dispatch_clocked y hc, begin_clean y hf]
  rw [bundleOf] at hd
  simp only [State.attempt, hq, hb, hd, hr, ne_eq, not_true, if_false, Bool.true_eq_false]

/-- A bundle of one syllable. -/
theorem slotsOf_alone {d : Disp} (y : Syll) (h : d.rest = []) : slotsOf d y = [(d.slot.val + 1, y)] := by
  unfold slotsOf
  rw [h]
  generalize d.slot = k
  fin_cases k <;> rfl

end

/-! ### The statement -/

/-- Settles O13: a rule that a bundle breaks, and the first exception of its syllables, are raised before anything of
the bundle takes effect. -/
theorem preciseExceptions : Obligations.PreciseExceptions := by
  unfold Obligations.PreciseExceptions
  refine ⟨?bad, ?first, ?trap, ?stored⟩
  case bad =>
    intro s d y k hf hq hc hb
    refine ⟨_, exec_rowOf d y s, ?_⟩
    rw [dispatch_badSlot hf hq hc hb]
    exact raise_raised hq _ _ _
  case first =>
    intro s d y k code info hf hq hc hb hd hr
    refine ⟨_, exec_rowOf d y s, ?_⟩
    rw [dispatch_raises hf hq hc hb hd hr]
    exact raise_raised hq _ _ _
  case trap =>
    intro s d code hf hq hc hrest hb hd
    have hone := slotsOf_alone (.trap code) hrest
    have hr : s.firstRaise d.site [] (slotsOf d (.trap code)) = some (d.slot.val + 1, 0x0E, code.setWidth 32) := by
      rw [hone]
      rfl
    have hd' : s.canDispatch d.site d.head (bundleOf d (.trap code)) = true := by
      rw [bundleOf, hone]
      exact hd
    refine ⟨_, exec_rowOf d (.trap code) s, ?_⟩
    rw [dispatch_raises hf hq hc hb hd' hr]
    exact raise_raised hq _ _ _
  case stored =>
    intro s n k hq hc hp hb
    refine ⟨s.raise n 0x01 k (s.site n).pc 0, ?_, raise_raised hq _ _ _⟩
    change execPreciseException n s = _
    simp only [execPreciseException, hq, hc, hb, List.contains_eq_mem, hp, ne_eq, not_true, Bool.true_eq_false, or_self,
      if_false, decide_false, Bool.false_eq_true]

end Sys2Proof.Machine
end

section
/-!
PROOF. Bell operations as their sender sees them (R199, R290 to R292), and what the syllables of a bundle leave to them.
-/

namespace Sys2Proof.Machine

/-! ### A request handed to a source port (R199, R202, R204) -/

/-- Where a request that is no other device's goes: outstanding from now, or last in the queue of the source ports. -/
theorem handPort_bell (s : State) (p : Packet) (who : BellFor) (o : Option (BitVec 12)) :
    let t := s.handPort { pkt := p, kind := .request (.bell who o) }
    t = { s with fab := t.fab, out := t.out } ∧ (∃ os, t.out = s.out ++ os) ∧
    ((∃ x, t.fab.txns = s.fab.txns ++ [x] ∧ x.rtr = p.srcRtr ∧ x.use = .bell who o ∧ x.since = s.tb ∧
        x.pkt.dstRtr = p.dstRtr ∧ x.pkt.dstEp = p.dstEp ∧ x.pkt.data = p.data) ∨
      t.fab.waiting = s.fab.waiting ++ [{ pkt := p, kind := .request (.bell who o) }]) := by
  unfold State.handPort
  dsimp only
  split
  · rename_i hc
    simp only [State.canSend, Bool.and_eq_true] at hc
    unfold State.sendQueued
    dsimp only
    split
    · exact ⟨rfl, ⟨_, rfl⟩, .inl ⟨_, rfl, rfl, rfl, rfl, rfl, rfl, rfl⟩⟩
    · rename_i hk
      have hk' : s.freeTxn p.srcRtr = none := hk
      simp [hk'] at hc
  · exact ⟨rfl, ⟨[], (List.append_nil _).symm⟩, .inr rfl⟩

/-- A bell operation that has a way is sent, and nothing but the fabric and the output changes. -/
theorem sendBell_sent {s : State} {src : Fin 64 × Bool} {m : BellMsg} (who : BellFor) (h : bellHasWay s src.1 m) :
    bellSent s (s.sendBell src who m) src who m ∧
    s.sendBell src who m = { s with fab := (s.sendBell src who m).fab, out := (s.sendBell src who m).out } := by
  obtain ⟨dst, hd, hr⟩ := h
  have hd' : (s.send (.bellOp m)).bellWay m = some dst := hd
  have hr' : (s.send (.bellOp m)).reach src.1 dst.1 = true := hr
  have e : s.sendBell src who m = (s.send (.bellOp m)).handPort
      { pkt := (s.send (.bellOp m)).bellPacket src dst m, kind := .request (.bell who m.dev) } := by
    unfold State.sendBell
    dsimp only
    rw [hd']
    dsimp only
    rw [if_pos hr']
  rw [e]
  obtain ⟨h1, ⟨os, h2⟩, h3⟩ := handPort_bell (s.send (.bellOp m)) ((s.send (.bellOp m)).bellPacket src dst m) who m.dev
  refine ⟨⟨⟨os, h2.trans (List.append_assoc _ _ _)⟩, dst, hd, h3⟩, h1⟩

/-- A bell operation sent is sent as seen from a state with the same fabric, outputs, number and ways. -/
theorem bellSent_congr {s u t : State} {src : Fin 64 × Bool} {who : BellFor} {m : BellMsg}
    (hw : u.bellWay m = s.bellWay m) (ho : u.out = s.out) (hf : u.fab = s.fab) (ht : u.tb = s.tb) (hi : u.id = s.id)
    (h : bellSent u t src who m) : bellSent s t src who m := by
  unfold bellSent State.bellPacket at h ⊢
  rwa [hw, ho, hf, ht, hi] at h

/-- A bell operation without a way is announced, and its source port answers it. -/
theorem sendBell_none {s : State} {src : Fin 64 × Bool} {m : BellMsg} (who : BellFor) (h : ¬ bellHasWay s src.1 m) :
    s.sendBell src who m = (s.send (.bellOp m)).bellEnds who 4 none := by
  unfold State.sendBell
  dsimp only
  split
  · rename_i dst hd
    exact if_neg fun hr => h ⟨dst, hd, hr⟩
  · rfl

/-! ### A core's bell operations (R292) -/

section
variable {s : State} {n : SiteNo}

/-- A failed bell operation is counted and told. -/
theorem bellFail_counted (s : State) (site : Option SiteNo) (st : BitVec 4) :
    let t := s.bellFail site st
    t.fab = s.fab ∧ t.sites = s.sites ∧ t.coll.remoteFail = satInc s.coll.remoteFail ∧ told s t 0x000F site :=
  ⟨rfl, rfl, rfl, insertReport_length _ _ _, _, mem_insertReport _ _ _, rfl, rfl⟩

theorem bellEnds_core_failed (s : State) (n : SiteNo) {st : BitVec 4} (img : Option BellImg) (h : st ≠ 0) :
    s.bellEnds (.core n) st img = (s.modSite n fun c => { c with bellsOut := c.bellsOut - 1 }).bellFail (some n) st :=
  if_neg h

@[simp] theorem State.site_send (s : State) (o : Out) (n : SiteNo) : (s.send o).site n = s.site n := rfl

/-- One operation more and one less awaited. -/
theorem site_bellsOut_back (s : State) (n : SiteNo) (o : Out) :
    (((s.modSite n fun c => { c with bellsOut := c.bellsOut + 1 }).send o).modSite n
      fun c => { c with bellsOut := c.bellsOut - 1 }).site n = s.site n := by
  rw [State.site_modSite_same, State.site_send, State.site_modSite_same]
  rfl

/-- With fewer than 64 outstanding and none waiting, an operation that has a way is sent, and one more is outstanding. -/
theorem coreBell_sent {m : BellMsg} (ho : (s.site n).bellsOut < 64) (hq : (s.site n).bellQ = [])
    (hw : bellHasWay s (rtrOfSite n) m) :
    let t := s.coreBell n m
    bellSent s t (rtrOfSite n, false) (.core n) m ∧ t = { s with sites := t.sites, fab := t.fab, out := t.out } ∧
    t.coll = s.coll ∧ t.site n = { s.site n with bellsOut := (s.site n).bellsOut + 1 } := by
  rw [State.coreBell, if_pos ⟨ho, hq⟩]
  obtain ⟨h1, h2⟩ := sendBell_sent (s := s.modSite n fun c => { c with bellsOut := c.bellsOut + 1 }) (src := (rtrOfSite n, false))
    (.core n) hw
  have hs : (s.bellFrom n m).sites = (s.modSite n fun c => { c with bellsOut := c.bellsOut + 1 }).sites :=
    (congrArg State.sites h2).trans rfl
  refine ⟨h1, ?_, (congrArg State.coll h2).trans rfl, ?_⟩
  · rw [hs]
    exact h2
  · rw [State.site, hs]
    exact State.site_modSite_same s n _

theorem coreBell_unsent {m : BellMsg} (ho : (s.site n).bellsOut < 64) (hq : (s.site n).bellQ = [])
    (hw : ¬ bellHasWay s (rtrOfSite n) m) : s.coreBell n m =
      ((s.modSite n fun c => { c with bellsOut := c.bellsOut + 1 }).send (.bellOp m)).bellEnds (.core n) 4 none := by
  rw [State.coreBell, if_pos ⟨ho, hq⟩]
  exact sendBell_none (s := s.modSite n fun c => { c with bellsOut := c.bellsOut + 1 }) (.core n) hw

/-- One without a way counts as failed and is told, and leaves the fabric. -/
theorem coreBell_failed {m : BellMsg} (ho : (s.site n).bellsOut < 64) (hq : (s.site n).bellQ = [])
    (hw : ¬ bellHasWay s (rtrOfSite n) m) :
    let t := s.coreBell n m
    t.fab = s.fab ∧ (t.site n).bellsOut = (s.site n).bellsOut ∧ t.coll.remoteFail = satInc s.coll.remoteFail ∧
    told s t 0x000F (some n) := by
  rw [coreBell_unsent ho hq hw, bellEnds_core_failed _ _ none (by decide)]
  obtain ⟨hf, hs, hr, ht⟩ := bellFail_counted (((s.modSite n fun c => { c with bellsOut := c.bellsOut + 1 }).send
    (.bellOp m)).modSite n fun c => { c with bellsOut := c.bellsOut - 1 }) (some n) 4
  refine ⟨hf, ?_, hr, ht⟩
  rw [State.site, hs]
  exact congrArg Site.bellsOut (site_bellsOut_back s n (.bellOp m))

/-- Behind 64 outstanding or another that waits, it waits. -/
theorem coreBell_waits (m : BellMsg) (h : 64 ≤ (s.site n).bellsOut ∨ (s.site n).bellQ ≠ []) :
    s.coreBell n m = s.modSite n fun c => { c with bellQ := c.bellQ ++ [m] } :=
  if_neg fun ⟨ho, hq⟩ => h.elim (fun h => by omega) fun h => h hq

/-- What has been announced stays announced, and what waits in a core waits on. -/
def bellsKept (n : SiteNo) (s t : State) : Prop := s.out <+: t.out ∧ (s.site n).bellQ <+: (t.site n).bellQ

theorem bellsKept_refl (n : SiteNo) (s : State) : bellsKept n s s := ⟨List.prefix_rfl, List.prefix_rfl⟩

theorem bellsKept_trans {t u : State} (h : bellsKept n s t) (k : bellsKept n t u) : bellsKept n s u :=
  ⟨h.1.trans k.1, h.2.trans k.2⟩

/-- A core's bell operation is announced at once, or waits in the core. -/
theorem coreBell_kept (s : State) (n : SiteNo) (m : BellMsg) :
    bellsKept n s (s.coreBell n m) ∧
    (.bellOp m ∈ (s.coreBell n m).out ∨ m ∈ ((s.coreBell n m).site n).bellQ) := by
  by_cases hc : (s.site n).bellsOut < 64 ∧ (s.site n).bellQ = []
  · have hq : (s.site n).bellQ <+: ((s.coreBell n m).site n).bellQ := hc.2 ▸ List.nil_prefix
    suffices h : ∃ os, (s.coreBell n m).out = s.out ++ .bellOp m :: os by
      obtain ⟨os, h⟩ := h
      exact ⟨⟨⟨_, h.symm⟩, hq⟩, .inl (h ▸ List.mem_append_right _ List.mem_cons_self)⟩
    by_cases hw : bellHasWay s (rtrOfSite n) m
    · exact (coreBell_sent hc.1 hc.2 hw).1.1
    · rw [coreBell_unsent hc.1 hc.2 hw, bellEnds_core_failed _ _ none (by decide)]
      exact ⟨[], rfl⟩
  · rw [State.coreBell, if_neg hc]
    have hs := State.site_modSite_same s n fun c => { c with bellQ := c.bellQ ++ [m] }
    refine ⟨⟨List.prefix_rfl, ?_⟩, .inr ?_⟩ <;> rw [hs]
    · exact List.prefix_append _ _
    · exact List.mem_append_right _ List.mem_cons_self

theorem outside_kept (c0 : Site) (k : Nat) {z : Syll} (hz : z.isTally = false) :
    bellsKept n s (s.outside n c0 k z) := by
  unfold State.outside
  split
  · exact (coreBell_kept s n _).1
  · cases hz
  · exact bellsKept_refl n s

theorem outsides_kept (c0 : Site) (k : Nat) {ys : List Syll} (h : ∀ z ∈ ys, z.isTally = false) (s : State) :
    bellsKept n s (ys.foldl (fun s y => s.outside n c0 k y) s) := by
  induction ys generalizing s with
  | nil => exact bellsKept_refl n s
  | cons z zs ih =>
    obtain ⟨hz, hzs⟩ := List.forall_mem_cons.1 h
    exact bellsKept_trans (outside_kept c0 k hz) (ih hzs _)

/-- What a BELL of a bundle without a TALLY sends is announced at the end, or waits in the core. -/
theorem outsides_bell (c0 : Site) (k : Nat) {ys : List Syll} (h : ∀ z ∈ ys, z.isTally = false) {f : BellF}
    (hf : .bell f ∈ ys) (s : State) :
    let t := ys.foldl (fun s y => s.outside n c0 k y) s
    .bellOp (c0.bellMsg f) ∈ t.out ∨ c0.bellMsg f ∈ (t.site n).bellQ := by
  induction ys generalizing s with
  | nil => exact absurd hf List.not_mem_nil
  | cons z zs ih =>
    obtain ⟨hz, hzs⟩ := List.forall_mem_cons.1 h
    rcases List.mem_cons.1 hf with rfl | hf
    · have kept := outsides_kept (n := n) c0 k hzs (s.outside n c0 k (.bell f))
      exact (coreBell_kept s n (c0.bellMsg f)).2.imp (fun h => kept.1.subset h) fun h => kept.2.subset h
    · exact ih hzs hf _

end

/-! ### What the syllables of a bundle leave to BELL, SIGNAL and TALLY -/

/-- The tokens and the bell operations of a site. -/
def Site.sendPart (c : Site) : Tab (BitVec 16) × Bool × Nat × List BellMsg := (c.toks, c.tokenSat, c.bellsOut, c.bellQ)

theorem effect_sendPart (c0 : Site) (st : BitVec 8 → Word64) (k : Nat) (c : Site) {z : Syll}
    (hz : ∀ tok n, z ≠ .signal tok n) : (c0.effect st k c z).sendPart = c.sendPart := by
  have mark (c : Site) (r : BitVec 5) (v) : (c.mark r v).sendPart = c.sendPart := by
    unfold Site.mark
    split <;> rfl
  have setS (c : Site) (r : BitVec 5) (v) : (c.setS r v).sendPart = c.sendPart := by
    unfold Site.setS
    split <;> rfl
  cases z with
  | alu op f | li rd imm | lih rd imm | smova rd rs => exact setS _ _ _
  | lds f => exact mark c f.reg none
  | signal tok n => exact absurd rfl (hz tok n)
  | sfree e =>
    unfold Site.effect Site.sillTryFree
    dsimp only
    split
    · split <;> rfl
    · rfl
  | status rd clear src =>
    have hclear (c : Site) : (c.statusClear src).sendPart = c.sendPart := by
      unfold Site.statusClear
      split <;> rfl
    cases clear
    · exact mark _ _ _
    · exact (hclear _).trans (mark _ _ _)
  | matrix f | forecast m l a b =>
    unfold Site.effect
    dsimp only
    split <;> rfl
  | vec op f =>
    cases op with
    | vmovs => exact mark c f.vd none
    | _ => rfl
  | _ => rfl

/-- The part of a sill entry that a free request sees. -/
def Site.freePart (c : Site) (i : Nat) : SillState × Bool × Nat :=
  ((c.entry i).st, (c.entry i).freeReq, (c.entry i).readers)

theorem freePart_of_sill {c c' : Site} (h : c'.sill = c.sill) (i : Nat) : c'.freePart i = c.freePart i := by
  simp only [Site.freePart, Site.entry, h]

theorem claim_freePart (c : Site) (e : Fin 64) (i : Nat) : (c.claim e).freePart i = c.freePart i := by
  unfold Site.claim Site.freePart
  by_cases h : i = e.val
  · subst h
    rw [Site.entry_setEntry_same]
  · rw [Site.entry_setEntry_other c _ h]

theorem pushArray_sill (c : Site) (e : EngNo) (op) : (c.pushArray e op).sill = c.sill := rfl

/-- Only an SFREE of the entry itself changes what a free request sees of it. -/
theorem effect_freePart (c0 : Site) (st : BitVec 8 → Word64) (k : Nat) (c : Site) {z : Syll} {e : Fin 64}
    (hz : z ≠ .sfree e) : (c0.effect st k c z).freePart e.val = c.freePart e.val := by
  have mark (c : Site) (r : BitVec 5) (v) : (c.mark r v).sill = c.sill := by
    unfold Site.mark
    split <;> rfl
  have setS (c : Site) (r : BitVec 5) (v) : (c.setS r v).sill = c.sill := by
    unfold Site.setS
    split <;> rfl
  cases z with
  | alu op f | li rd imm | lih rd imm | smova rd rs => exact freePart_of_sill (setS _ _ _) _
  | lds f => exact freePart_of_sill (mark c f.reg none) _
  | signal tok n =>
    unfold Site.effect Site.signal
    dsimp only
    split <;> rfl
  | sfree x =>
    have hx : e.val ≠ x.val := fun h => hz (by rw [Fin.ext h])
    unfold Site.effect Site.sillTryFree Site.sillGone Site.freePart
    dsimp only
    split
    · split
      · exact congrArg (fun v : SillEntry => (v.st, v.freeReq, v.readers))
          ((Site.entry_setEntry_other _ _ hx).trans (Site.entry_setEntry_other c _ hx))
      · rw [Site.entry_setEntry_other _ _ hx, Site.entry_setEntry_other c _ hx]
    · rw [Site.entry_setEntry_other c _ hx]
  | status rd clear src =>
    have hclear (c : Site) : (c.statusClear src).sill = c.sill := by
      unfold Site.statusClear
      split <;> rfl
    cases clear
    · exact freePart_of_sill (mark _ _ _) _
    · exact freePart_of_sill ((hclear _).trans (mark _ _ _)) _
  | matrix f =>
    unfold Site.effect
    dsimp only
    split
    · rfl
    · exact claim_freePart c _ _
  | bankDrain f => exact claim_freePart c _ _
  | ewise f => exact claim_freePart c _ _
  | forecast m l a b =>
    unfold Site.effect
    dsimp only
    split <;> rfl
  | vec op f =>
    cases op with
    | vmovs => exact freePart_of_sill (mark c f.vd none) _
    | _ => rfl
  | _ => rfl

end Sys2Proof.Machine
end

section
/-!
PROOF. The rows of PUSH, SFREE, SIGNAL, BELL and TALLY (R149, R150, R292, R301).
-/

namespace Sys2Proof.Machine

/-! ### SIGNAL: tokens over a bundle (R126, R149) -/

theorem signal_tok (c : Site) (k tok : BitVec 6) (n : Nat) :
    ((c.signal k n).tok tok).toNat = min 65535 ((c.tok tok).toNat + if k = tok then n else 0) := by
  have hlt := (c.tok tok).isLt
  have ht : (c.signal k n).toks = tset (fun _ => 0) c.toks k.toNat (satAdd (c.tok k) n) := by
    unfold Site.signal
    dsimp only
    split <;> rfl
  rw [Site.tok, ht]
  split
  · rename_i h
    subst h
    rw [tget_tset_same, satAdd]
    split
    · rw [BitVec.toNat_allOnes]
      omega
    · rw [BitVec.toNat_ofNat]
      omega
  · rename_i h
    rw [tget_tset_other _ _ _ fun e => h (BitVec.eq_of_toNat_eq e.symm)]
    change (c.tok tok).toNat = _
    omega

theorem signal_tokenSat (c : Site) (k : BitVec 6) (n : Nat) :
    (c.signal k n).tokenSat = true ↔ c.tokenSat = true ∨ 65535 < (c.tok k).toNat + n := by
  unfold Site.signal Site.tok
  dsimp only
  split <;> simp_all

theorem effect_tok (c0 : Site) (st : BitVec 8 → Word64) (k : Nat) (c : Site) (tok : BitVec 6) (y : Syll) :
    ((c0.effect st k c y).tok tok).toNat = min 65535 ((c.tok tok).toNat + signalled tok y) ∧
    (c.tokenSat = true ∨ 65535 < (c.tok tok).toNat + signalled tok y → (c0.effect st k c y).tokenSat = true) := by
  by_cases hy : ∃ j n, y = .signal j n
  · obtain ⟨j, n, rfl⟩ := hy
    refine ⟨signal_tok c j tok n.toNat, fun h => (signal_tokenSat c j n.toNat).2 (h.imp_right fun h => ?_)⟩
    have := (c.tok tok).isLt
    simp only [signalled] at h
    split at h
    · rename_i e
      exact e ▸ h
    · omega
  · have hp := effect_sendPart c0 st k c fun j n e => hy ⟨j, n, e⟩
    simp only [Site.sendPart, Prod.mk.injEq] at hp
    have hs : signalled tok y = 0 := by
      cases y with
      | signal j n => exact absurd ⟨j, n, rfl⟩ hy
      | _ => rfl
    have := (c.tok tok).isLt
    rw [Site.tok, hp.1, hp.2.1, hs]
    exact ⟨by change (c.tok tok).toNat = _; omega, fun h => h.resolve_right (by omega)⟩

/-- Over a bundle a token takes what its SIGNALs add to it, up to its maximum; one past it is noted. -/
theorem effects_tok (c0 : Site) (st : BitVec 8 → Word64) (tok : BitVec 6) (ys : List (Nat × Syll)) (c : Site) :
    let t := ys.foldl (fun c p => c0.effect st p.1 c p.2) c
    let sum := ((ys.map (·.2)).map (signalled tok)).sum
    (t.tok tok).toNat = min 65535 ((c.tok tok).toNat + sum) ∧
    (c.tokenSat = true ∨ 65535 < (c.tok tok).toNat + sum → t.tokenSat = true) := by
  induction ys generalizing c with
  | nil =>
    have := (c.tok tok).isLt
    refine ⟨?_, fun h => h.resolve_right ?_⟩ <;> simp only [List.foldl_nil, List.map_nil, List.sum_nil] <;> omega
  | cons p ps ih =>
    obtain ⟨h1, h2⟩ := ih (c0.effect st p.1 c p.2)
    obtain ⟨g1, g2⟩ := effect_tok c0 st p.1 c tok p.2
    simp only [List.foldl_cons, List.map_cons, List.sum_cons]
    refine ⟨by rw [h1, g1]; omega, fun h => h2 ?_⟩
    by_cases hs : 65535 < (c.tok tok).toNat + signalled tok p.2
    · exact .inl (g2 (.inr hs))
    · refine h.imp (fun h => g2 (.inl h)) fun h => ?_
      rw [g1]
      omega

section
variable {s : State} {d : Disp} {y : Syll}

/-- BELLs leave the tokens of a bundle without a TALLY, and the entries of its sill. -/
theorem outsides_keep {α : Type} (g : Site → α) (hg : ∀ (c : Site) b q, g { c with bellsOut := b, bellQ := q } = g c)
    (n : SiteNo) (c0 : Site) (k : Nat) {ys : List Syll} (h : ∀ z ∈ ys, z.isTally = false) (s : State) :
    g ((ys.foldl (fun s y => s.outside n c0 k y) s).site n) = g (s.site n) := by
  have one (s : State) {z : Syll} (hz : z.isTally = false) : g ((s.outside n c0 k z).site n) = g (s.site n) := by
    unfold State.outside
    split
    · obtain ⟨b, q, e⟩ := (coreBell_moves n s (c0.bellMsg _)).2.2
      rw [e, hg]
    · cases hz
    · rfl
  induction ys generalizing s with
  | nil => rfl
  | cons z zs ih =>
    obtain ⟨hz, hzs⟩ := List.forall_mem_cons.1 h
    exact (ih hzs _).trans (one s hz)

/-- What a bundle without a TALLY leaves of its site, but for its bell operations. -/
theorem dispatch_keep {α : Type} (g : Site → α) (hg : ∀ (c : Site) b q, g { c with bellsOut := b, bellQ := q } = g c)
    (h : dispatches s d y) (ht : ∀ z ∈ bundleOf d y, z.isTally = false) :
    g ((s.dispatch d y).site d.site) = g (s.committed d.site d.head (slotsOf d y)) := by
  rw [dispatch_commits h, commit_eq]
  refine (outsides_keep g hg d.site _ _ (ys := bundleOf d y) ht _).trans ?_
  rw [State.site_setSite_same]

theorem committed_tok (s : State) (n : SiteNo) (h : Head) (ys : List (Nat × Syll)) (tok : BitVec 6) :
    let sum := ((ys.map (·.2)).map (signalled tok)).sum
    ((s.committed n h ys).tok tok).toNat = min 65535 ((((s.site n).takeWaits h).tok tok).toNat + sum) ∧
    (65535 < (((s.site n).takeWaits h).tok tok).toNat + sum → (s.committed n h ys).tokenSat = true) := by
  have e := effects_tok (s.site n) (s.statusValue n) tok ys
  exact ⟨(e _).1, fun hs => (e _).2 (.inr hs)⟩

/-- A token after a bundle that signals it (R149). -/
theorem dispatch_signal {tok : BitVec 6} {amount : BitVec 16} (h : dispatches s d (.signal tok amount)) :
    let v := (((s.site d.site).takeWaits d.head).tok tok).toNat
    let sum := ((bundleOf d (.signal tok amount)).map (signalled tok)).sum
    let t := s.dispatch d (.signal tok amount)
    (t.site d.site).tok tok = BitVec.ofNat 16 (min 65535 (v + sum)) ∧
    (65535 < v + sum → (t.site d.site).tokenSat = true) := by
  have ht := dispatch_noTally h rfl nofun
  obtain ⟨h1, h2⟩ := committed_tok s d.site d.head (slotsOf d (.signal tok amount)) tok
  refine ⟨BitVec.eq_of_toNat_eq ?_, fun hs => ?_⟩
  · rw [dispatch_keep (fun c => c.tok tok) (fun _ _ _ => rfl) h ht, h1, BitVec.toNat_ofNat, bundleOf]
    omega
  · rw [dispatch_keep (fun c => c.tokenSat) (fun _ _ _ => rfl) h ht]
    exact h2 hs

/-! ### SFREE (R104, R149) -/

/-- In a bundle that raises nothing, each syllable raises nothing behind those of lower slots. -/
theorem firstRaise_none {n : SiteNo} {lower : List Syll} {pre post : List (Nat × Syll)} {p : Nat × Syll}
    (h : s.firstRaise n lower (pre ++ p :: post) = none) : s.raises n (lower ++ pre.map (·.2)) p.2 = none := by
  induction pre generalizing lower with
  | nil =>
    rw [List.nil_append, State.firstRaise] at h
    rw [List.map_nil, List.append_nil]
    split at h
    · cases h
    · assumption
  | cons q qs ih =>
    rw [List.cons_append, State.firstRaise] at h
    split at h
    · cases h
    · have := ih h
      rwa [List.append_assoc] at this

/-- An SFREE of an entry stands once in a bundle that dispatches. -/
theorem dispatch_sfree_once {e : Fin 64} (h : dispatches s d (.sfree e)) :
    ∃ pre post, slotsOf d (.sfree e) = pre ++ (d.slot.val + 1, .sfree e) :: post ∧
      (∀ p ∈ pre, p.2 ≠ .sfree e) ∧ ∀ p ∈ post, p.2 ≠ .sfree e := by
  obtain ⟨-, -, -, -, -, hr⟩ := h
  have lower {l : List Syll} (hl : s.raises d.site l (.sfree e) = none) : .sfree e ∉ l := by
    intro hm
    simp [State.raises, Site.sfreeOk, hm] at hl
  obtain ⟨pre, post, hys⟩ := List.append_of_mem (mem_slotsOf d (.sfree e))
  rw [hys] at hr
  refine ⟨pre, post, hys, fun p hp he => ?_, fun p hp he => ?_⟩
  · exact lower (firstRaise_none hr) (List.mem_append_right _ (List.mem_map.2 ⟨p, hp, he⟩))
  · obtain ⟨mid, post', hpost⟩ := List.append_of_mem hp
    rw [hpost, ← List.cons_append, ← List.append_assoc] at hr
    have hn := firstRaise_none hr
    rw [he] at hn
    exact lower hn (List.mem_append_right _ (List.mem_map.2 ⟨(d.slot.val + 1, .sfree e), by simp, rfl⟩))

theorem effects_freePart (c0 : Site) (st : BitVec 8 → Word64) {e : Fin 64} {ys : List (Nat × Syll)}
    (h : ∀ p ∈ ys, p.2 ≠ .sfree e) (c : Site) :
    (ys.foldl (fun c p => c0.effect st p.1 c p.2) c).freePart e.val = c.freePart e.val := by
  induction ys generalizing c with
  | nil => rfl
  | cons p ps ih =>
    obtain ⟨hp, hps⟩ := List.forall_mem_cons.1 h
    exact (ih hps _).trans (effect_freePart c0 st p.1 c hp)

theorem takeWaits_sill (c : Site) (h : Head) : (c.takeWaits h).sill = c.sill := by
  unfold Site.takeWaits Site.consume
  dsimp only
  split <;> split <;> rfl

/-- What a free request leaves of its entry (Table 4.5). -/
def freed (v : SillState × Bool × Nat) : SillState × Bool × Nat :=
  if v.1 = .released then if v.2.2 = 0 then (.free, false, 0) else (.freeing, true, v.2.2) else (v.1, true, v.2.2)

theorem freed_other {v : SillState × Bool × Nat} (h : v.1 ≠ .released) : freed v = (v.1, true, v.2.2) := if_neg h

theorem freed_unread {v : SillState × Bool × Nat} (h : v.1 = .released) (h0 : v.2.2 = 0) : freed v = (.free, false, 0) :=
  (if_pos h).trans (if_pos h0)

theorem freed_read {v : SillState × Bool × Nat} (h : v.1 = .released) (h0 : v.2.2 ≠ 0) :
    freed v = (.freeing, true, v.2.2) := (if_pos h).trans (if_neg h0)

theorem effect_sfree (c0 : Site) (st : BitVec 8 → Word64) (k : Nat) (c : Site) (e : Fin 64) :
    (c0.effect st k c (.sfree e)).freePart e.val = freed (c.freePart e.val) := by
  change ((c.setEntry e.val { c.entry e.val with freeReq := true }).sillTryFree e.val).freePart e.val = _
  unfold Site.sillTryFree Site.freePart freed
  rw [Site.entry_setEntry_same]
  dsimp only
  by_cases hr : (c.entry e.val).st = .released
  · rw [if_pos ⟨hr, rfl⟩, if_pos hr]
    by_cases h0 : (c.entry e.val).readers = 0
    · rw [if_pos h0, if_pos h0, Site.sillGone]
      exact congrArg (fun v : SillEntry => (v.st, v.freeReq, v.readers)) (Site.entry_setEntry_same _ _ _)
    · rw [if_neg h0, if_neg h0, Site.entry_setEntry_same]
  · rw [if_neg fun h => hr h.1, if_neg hr, Site.entry_setEntry_same]

/-- What a bundle with an SFREE leaves of its entry. -/
theorem dispatch_sfree {e : Fin 64} (h : dispatches s d (.sfree e)) :
    ((s.dispatch d (.sfree e)).site d.site).freePart e.val = freed ((s.site d.site).freePart e.val) := by
  have ht := dispatch_noTally h rfl nofun
  obtain ⟨pre, post, hys, hpre, hpost⟩ := dispatch_sfree_once h
  rw [dispatch_keep (fun c => c.freePart e.val) (fun _ _ _ => rfl) h ht]
  unfold State.committed
  rw [hys, List.foldl_append, List.foldl_cons, effects_freePart _ _ hpost, effect_sfree, effects_freePart _ _ hpre]
  exact congrArg freed (freePart_of_sill (takeWaits_sill (s.site d.site) d.head) e.val)

/-! ### TALLY (R150, R301, R302) -/

/-- A bundle with a TALLY holds nothing else but NOPs. -/
theorem dispatch_tally_alone {areg : BitVec 4} (h : dispatches s d (.tally areg)) :
    ∃ pre post, bundleOf d (.tally areg) = pre ++ .tally areg :: post ∧ (∀ z ∈ pre, z = .nop) ∧ ∀ z ∈ post, z = .nop := by
  obtain ⟨-, -, -, hb, -, -⟩ := h
  have hok := (badSlot_none hb).2
  change bundleOk (bundleOf d (.tally areg)) = true at hok
  obtain ⟨pre, post, hys⟩ := List.append_of_mem (mem_bundleOf d (.tally areg))
  rw [hys] at hok
  simp only [bundleOk, Bool.and_eq_true, Bool.or_eq_true, Bool.not_eq_true', decide_eq_true_eq, List.all_eq_true,
    List.filter_append, List.length_append] at hok
  obtain ⟨⟨-, hall⟩, hlen⟩ := hok
  have hall := hall.resolve_left (by simp [Syll.isTally])
  rw [List.filter_cons_of_pos rfl, List.length_cons] at hlen
  have nop (l : List Syll) (hl : (l.filter Syll.isTally).length = 0) (hm : ∀ z ∈ l, z ∈ pre ++ .tally areg :: post) :
      ∀ z ∈ l, z = .nop := fun z hz => by
    refine (hall z (hm z hz)).resolve_left fun ht => ?_
    rw [List.length_eq_zero_iff, List.filter_eq_nil_iff] at hl
    exact hl z hz ht
  exact ⟨pre, post, hys, nop pre (by omega) fun z hz => List.mem_append_left _ hz,
    nop post (by omega) fun z hz => List.mem_append_right _ (List.mem_cons_of_mem _ hz)⟩

/-- NOP and TALLY have no effect on the site before BELL and TALLY act outside it. -/
theorem effects_quiet (c0 : Site) (st : BitVec 8 → Word64) {ys : List (Nat × Syll)}
    (h : ∀ p ∈ ys, p.2 = .nop ∨ p.2.isTally = true) (c : Site) :
    ys.foldl (fun c p => c0.effect st p.1 c p.2) c = c := by
  have one (k : Nat) (c : Site) {z : Syll} (hz : z = .nop ∨ z.isTally = true) : c0.effect st k c z = c := by
    cases z with
    | nop | tally areg => rfl
    | _ => rcases hz with hz | hz <;> cases hz
  induction ys with
  | nil => rfl
  | cons p ps ih =>
    obtain ⟨hp, hps⟩ := List.forall_mem_cons.1 h
    rw [List.foldl_cons, one p.1 c hp, ih hps]

theorem outsides_nop (n : SiteNo) (c0 : Site) (k : Nat) {ys : List Syll} (h : ∀ z ∈ ys, z = .nop) (s : State) :
    ys.foldl (fun s y => s.outside n c0 k y) s = s := by
  induction ys with
  | nil => rfl
  | cons z zs ih =>
    obtain ⟨rfl, hzs⟩ := List.forall_mem_cons.1 h
    exact ih hzs

theorem bundleShare_tally {n : SiteNo} {pre post : List Syll} {areg : BitVec 4} {k : Nat} (h : ∀ z ∈ pre, z = .nop)
    (hk : s.tallyFits n areg = some k) : s.bundleShare n (pre ++ .tally areg :: post) = k := by
  have hf (f : Syll → Option (BitVec 4)) (hn : f .nop = none) (ht : f (.tally areg) = some areg) :
      (pre ++ .tally areg :: post).findSome? f = some areg := by
    rw [List.findSome?_append, List.findSome?_eq_none_iff.2 fun z hz => h z hz ▸ hn, List.findSome?_cons_of_isSome (ht ▸ rfl), ht]
    rfl
  unfold State.bundleShare
  rw [hf _ rfl rfl]
  dsimp only
  rw [hk]

/-- A bundle with a TALLY does what its TALLY does. -/
theorem dispatch_tally {areg : BitVec 4} {k : Nat} (h : dispatches s d (.tally areg))
    (hk : s.tallyFits d.site areg = some k) : s.dispatch d (.tally areg) =
      (s.setSite d.site (s.committed d.site d.head (slotsOf d (.tally areg)))).outside d.site (s.site d.site) k
        (.tally areg) := by
  obtain ⟨pre, post, hys, hpre, hpost⟩ := dispatch_tally_alone h
  rw [dispatch_commits h, commit_eq]
  rw [bundleOf] at hys
  rw [hys, bundleShare_tally hpre hk, List.foldl_append, List.foldl_cons, outsides_nop _ _ _ hpre,
    outsides_nop _ _ _ hpost]

theorem takeWaits_bells (c : Site) (h : Head) :
    (c.takeWaits h).bellsOut = c.bellsOut ∧ (c.takeWaits h).bellQ = c.bellQ := by
  unfold Site.takeWaits Site.consume
  dsimp only
  split <;> split <;> exact ⟨rfl, rfl⟩

/-- The sill and the bell operations as a TALLY finds them. -/
theorem committed_tally {areg : BitVec 4} (h : dispatches s d (.tally areg)) :
    let c := s.committed d.site d.head (slotsOf d (.tally areg))
    c.sill = (s.site d.site).sill ∧ c.bellsOut = (s.site d.site).bellsOut ∧ c.bellQ = (s.site d.site).bellQ := by
  obtain ⟨pre, post, hys, hpre, hpost⟩ := dispatch_tally_alone h
  have hq : ∀ p ∈ slotsOf d (.tally areg), p.2 = .nop ∨ p.2.isTally = true := by
    intro p hp
    have hm : p.2 ∈ bundleOf d (.tally areg) := List.mem_map_of_mem hp
    rw [hys, List.mem_append, List.mem_cons] at hm
    rcases hm with hm | hm | hm
    · exact .inl (hpre _ hm)
    · exact .inr (hm ▸ rfl)
    · exact .inl (hpost _ hm)
  unfold State.committed
  rw [effects_quiet _ _ hq]
  obtain ⟨ho, hb⟩ := takeWaits_bells (s.site d.site) d.head
  exact ⟨takeWaits_sill _ _, ho, hb⟩

/-- Freeing the RELEASED entries leaves the other entries. -/
theorem freeAll_other {i : Nat} (l : List Nat) {c : Site} (h : (c.entry i).st ≠ .released) :
    (l.foldl (fun c i => if (c.entry i).st = .released then c.sillGone i else c) c).entry i = c.entry i := by
  induction l generalizing c with
  | nil => rfl
  | cons j l ih =>
    have hj : (if (c.entry j).st = .released then c.sillGone j else c).entry i = c.entry i := by
      split
      · rename_i hr
        exact Site.entry_setEntry_other c _ fun e => h (e ▸ hr)
      · rfl
    rw [List.foldl_cons, ih (by rwa [hj]), hj]

/-- A RELEASED entry is freed (R136, R150). -/
theorem freeAll_free {i : Nat} {l : List Nat} (hi : i ∈ l) {c : Site} (h : (c.entry i).st = .released) :
    ((l.foldl (fun c i => if (c.entry i).st = .released then c.sillGone i else c) c).entry i).st = .free := by
  induction l generalizing c with
  | nil => exact absurd hi List.not_mem_nil
  | cons j l ih =>
    rw [List.foldl_cons]
    by_cases hj : i = j
    · subst hj
      have hg : ((c.sillGone i).entry i).st = .free := congrArg SillEntry.st (Site.entry_setEntry_same c i _)
      rw [if_pos h, freeAll_other l (by rw [hg]; decide), hg]
    · refine ih ((List.mem_cons.1 hi).resolve_left hj) ?_
      split
      · exact (congrArg SillEntry.st (Site.entry_setEntry_other c _ hj)).trans h
      · exact h

theorem freeReleased_free {c : Site} {i : Nat} (hi : i < 64) (h : (c.entry i).st = .released) :
    (c.freeReleased.entry i).st = .free := freeAll_free (List.mem_range.2 hi) h

theorem freeReleased_bells (c : Site) : c.freeReleased.bellsOut = c.bellsOut ∧ c.freeReleased.bellQ = c.bellQ := by
  refine foldl_inv (fun x : Site => x.bellsOut = c.bellsOut ∧ x.bellQ = c.bellQ) _ (fun x i hx => ?_) _ _ ⟨rfl, rfl⟩
  split <;> exact hx

end

/-- A TALLY before its arrival is sent: the scope's share has grown, and the core is in its tally. -/
def State.tallyBegun (s : State) (n : SiteNo) (o : Option HamletNo) (k : Nat) (a : Word64) : State :=
  (s.setTally o { s.tallyOf o with share := (s.tallyOf o).share + k }).modSite n
    fun c => { c.freeReleased with seq := .tally, tallyTable := a }

theorem outside_tally (s : State) (n : SiteNo) {c0 : Site} {l : LaunchInfo} (k : Nat) (areg : BitVec 4)
    (h : c0.launch = some l) : s.outside n c0 k (.tally areg) =
      (s.tallyBegun n c0.hamlet k (c0.areg areg.toNat)).coreBell n (c0.arrive l.enterArrive) := by
  unfold State.outside
  dsimp only
  rw [h]
  rfl

theorem tallyBegun_site (s : State) (n : SiteNo) (o : Option HamletNo) (k : Nat) (a : Word64) :
    (s.tallyBegun n o k a).site n = { (s.site n).freeReleased with seq := .tally, tallyTable := a } :=
  State.site_modSite_same (s.setTally o { s.tallyOf o with share := (s.tallyOf o).share + k }) n
    fun c => { c.freeReleased with seq := .tally, tallyTable := a }

theorem tallyBegun_tallyOf (s : State) (n : SiteNo) (o : Option HamletNo) (k : Nat) (a : Word64) :
    (s.tallyBegun n o k a).tallyOf o = { s.tallyOf o with share := (s.tallyOf o).share + k } :=
  tget_tset_same _ _ _ _

/-! ### A tally's share is no part of the way that a bell operation takes -/

theorem carries_setTally (s : State) (o v l t) : (s.setTally o v).carries l t = s.carries l t := rfl

theorem linkTo_setTally (s : State) (o v a b c t) : (s.setTally o v).linkTo a b c t = s.linkTo a b c t := by
  simp only [State.linkTo, State.groupHop, carries_setTally, State.setTally_id, State.setTally_groupN, State.setTally_groupH]
  rfl

theorem reach_setTally (s : State) (o v a b) : (s.setTally o v).reach a b = s.reach a b := rfl

theorem bellWay_setTally (s : State) (o v m) : (s.setTally o v).bellWay m = s.bellWay m := by
  simp only [State.bellWay, linkTo_setTally]
  rfl

theorem bellHasWay_setTally (s : State) (o v r m) : bellHasWay (s.setTally o v) r m ↔ bellHasWay s r m := by
  simp only [bellHasWay, bellWay_setTally, reach_setTally]

theorem bellWay_modSite (s : State) (n : SiteNo) (f : Site → Site) (m : BellMsg) :
    (s.modSite n f).bellWay m = s.bellWay m := rfl

theorem bellHasWay_modSite (s : State) (n : SiteNo) (f : Site → Site) (r : Fin 64) (m : BellMsg) :
    bellHasWay (s.modSite n f) r m ↔ bellHasWay s r m := Iff.rfl

theorem bellWay_tallyBegun (s : State) (n : SiteNo) (o : Option HamletNo) (k : Nat) (a : Word64) (m : BellMsg) :
    (s.tallyBegun n o k a).bellWay m = s.bellWay m :=
  (bellWay_modSite (s.setTally o { s.tallyOf o with share := (s.tallyOf o).share + k }) n
    (fun c => { c.freeReleased with seq := .tally, tallyTable := a }) m).trans (bellWay_setTally s o _ m)

theorem bellHasWay_tallyBegun (s : State) (n : SiteNo) (o : Option HamletNo) (k : Nat) (a : Word64) (r : Fin 64)
    (m : BellMsg) : bellHasWay (s.tallyBegun n o k a) r m ↔ bellHasWay s r m :=
  (bellHasWay_modSite (s.setTally o { s.tallyOf o with share := (s.tallyOf o).share + k }) n
    (fun c => { c.freeReleased with seq := .tally, tallyTable := a }) r m).trans (bellHasWay_setTally s o _ r m)

theorem bellSent_setSite {s t : State} {n : SiteNo} {c : Site} {src who m} (h : bellSent (s.setSite n c) t src who m) :
    bellSent s t src who m := h

theorem bellSent_tallyBegun {s t : State} {n : SiteNo} {o : Option HamletNo} {k : Nat} {a : Word64} {src who m}
    (h : bellSent (s.tallyBegun n o k a) t src who m) : bellSent s t src who m :=
  bellSent_congr (bellWay_tallyBegun s n o k a m)
    (by simp only [State.tallyBegun, State.modSite_out, State.setTally_out])
    (by simp only [State.tallyBegun, State.modSite_fab, State.setTally_fab])
    (by simp only [State.tallyBegun, State.modSite_tb, State.setTally_tb])
    (by simp only [State.tallyBegun, State.modSite_id, State.setTally_id]) h

/-! ### BELL (R149, R292) -/

theorem effect_bells (c0 : Site) (st : BitVec 8 → Word64) (k : Nat) (c : Site) (y : Syll) :
    (c0.effect st k c y).bellsOut = c.bellsOut ∧ (c0.effect st k c y).bellQ = c.bellQ := by
  by_cases hy : ∃ j n, y = .signal j n
  · obtain ⟨j, n, rfl⟩ := hy
    unfold Site.effect Site.signal
    dsimp only
    split <;> exact ⟨rfl, rfl⟩
  · have hp := effect_sendPart c0 st k c fun j n e => hy ⟨j, n, e⟩
    simp only [Site.sendPart, Prod.mk.injEq] at hp
    exact hp.2.2

/-- A BELL alone in its bundle is a bell operation of its core, which stands as before in that. -/
theorem dispatch_bell_alone {s : State} {d : Disp} {f : BellF} (h : dispatches s d (.bell f)) (hr : d.rest = []) :
    ∃ c : Site, s.dispatch d (.bell f) = (s.setSite d.site c).coreBell d.site ((s.site d.site).bellMsg f) ∧
      c.bellsOut = (s.site d.site).bellsOut ∧ c.bellQ = (s.site d.site).bellQ := by
  have hone := slotsOf_alone (.bell f) hr
  refine ⟨s.committed d.site d.head (slotsOf d (.bell f)), ?_, ?_⟩
  · rw [dispatch_commits h, commit_eq, hone]
    rfl
  · unfold State.committed
    rw [hone]
    obtain ⟨ho, hb⟩ := takeWaits_bells (s.site d.site) d.head
    exact ⟨ho, hb⟩

/-! ### The statement -/

/-- Settles O18: PUSH by what it queues, SFREE by the one free request on its entry, SIGNAL by the sum over the bundle,
BELL by its one operation, TALLY as the only syllable of its bundle that does anything. -/
theorem syncRows : Obligations.SyncRows := by
  unfold Obligations.SyncRows
  refine ⟨?push, ?sfree, ?signal, ?bell, ?tally⟩
  case push =>
    intro s d q areg h
    refine rowOf_queues h (P := fun c => _ ∈ (c.queue q).waiting) (fun c _ => ?_) fun c c' hg hm =>
      (hg.2.2.2.1 q).subset hm
    change _ ∈ ((c.setQueue q { c.queue q with waiting := (c.queue q).waiting ++ [copyDescOf _] }).queue q).waiting
    rw [Site.queue_setQueue_same]
    exact List.mem_append_right _ List.mem_cons_self
  case sfree =>
    intro s d e h
    have hf := dispatch_sfree h
    refine rowOf_completes h ⟨fun hr => ?_, fun hr h0 => ?_, fun hr h0 => ?_⟩
    · have e := hf.trans (freed_other hr)
      exact ⟨congrArg (·.1) e, congrArg (·.2.1) e⟩
    · exact congrArg (·.1) (hf.trans (freed_unread hr h0))
    · exact congrArg (·.1) (hf.trans (freed_read hr h0))
  case signal => exact fun s d tok amount h => rowOf_completes h (dispatch_signal h)
  case bell =>
    intro s d f h
    have ht := dispatch_noTally h rfl nofun
    refine rowOf_completes h ⟨?_, fun hr ho hq => ⟨fun hw => ?_, fun hw => ?_⟩, fun hr hb => ?_⟩
    · rw [dispatch_commits h, commit_eq]
      exact outsides_bell (s.site d.site) _ ht (mem_bundleOf d (.bell f)) _
    · obtain ⟨c, hd, hco, hcq⟩ := dispatch_bell_alone h hr
      rw [hd]
      have hs := State.site_setSite_same s d.site c
      obtain ⟨h1, h2, hcoll, h3⟩ := coreBell_sent (s := s.setSite d.site c) (n := d.site) (m := (s.site d.site).bellMsg f)
        (by rw [hs, hco]; exact ho) (by rw [hs, hcq]; exact hq) hw
      exact ⟨h1, by rw [h3, hs, hco], hcoll, (congrArg State.flt h2).trans rfl⟩
    · obtain ⟨c, hd, hco, hcq⟩ := dispatch_bell_alone h hr
      rw [hd]
      have hs := State.site_setSite_same s d.site c
      obtain ⟨h1, h2, h3, h4⟩ := coreBell_failed (s := s.setSite d.site c) (n := d.site) (m := (s.site d.site).bellMsg f)
        (by rw [hs, hco]; exact ho) (by rw [hs, hcq]; exact hq) hw
      exact ⟨h1, by rw [h2, hs, hco], h3, h4⟩
    · obtain ⟨c, hd, hco, hcq⟩ := dispatch_bell_alone h hr
      have hs := State.site_setSite_same s d.site c
      rw [hd, coreBell_waits _ (by rw [hs, hco, hcq]; exact hb)]
      refine ⟨rfl, ?_, rfl⟩
      rw [State.site_modSite_same, hs, hcq]
      rfl
  case tally =>
    intro s d areg k l h hk hl ho hq m hw
    refine rowOf_completes h ?_
    rw [dispatch_tally h hk, outside_tally _ _ k areg hl]
    obtain ⟨hsill, hbo, hbq⟩ := committed_tally h
    generalize s.committed d.site d.head (slotsOf d (.tally areg)) = c at hsill hbo hbq ⊢
    obtain ⟨hfo, hfq⟩ := freeReleased_bells c
    have hs := tallyBegun_site (s.setSite d.site c) d.site (s.site d.site).hamlet k ((s.site d.site).areg areg.toNat)
    rw [State.site_setSite_same] at hs
    obtain ⟨h1, -, hcoll, h3⟩ := coreBell_sent (s := (s.setSite d.site c).tallyBegun d.site (s.site d.site).hamlet k
      ((s.site d.site).areg areg.toNat)) (n := d.site) (m := m) (by rw [hs, hfo, hbo]; exact ho)
      (by rw [hs, hfq, hbq]; exact hq)
      ((bellHasWay_tallyBegun (s.setSite d.site c) d.site _ k _ _ m).2 hw)
    have ht := tallyBegun_tallyOf (s.setSite d.site c) d.site (s.site d.site).hamlet k
      ((s.site d.site).areg areg.toNat)
    have hfree (i : Nat) (hi : i < 64) (hr : ((s.site d.site).entry i).st = .released) :
        (c.freeReleased.entry i).st = .free := freeReleased_free hi (by rw [Site.entry, hsill]; exact hr)
    rw [hs] at h3
    have hm : (s.site d.site).arrive l.enterArrive = m := rfl
    rw [hm]
    generalize c.freeReleased = r at hfo hfree h3
    refine ⟨by rw [h3], by rw [h3], ?_, fun i hi hr => ?_, bellSent_setSite (bellSent_tallyBegun h1), ?_⟩
    · rw [State.tallyOf, hcoll]
      exact congrArg TallyScope.share ht
    · rw [h3]
      exact hfree i hi hr
    · rw [h3, hfo, hbo]

end Sys2Proof.Machine
end

section
/-!
PROOF. The end of a program and the watchdog (R136, R407).
-/

namespace Sys2Proof.Machine

/-! ### Records (R191, R423) -/

/-- The record that is produced: numbered, and redacted for a confidential hamlet. -/
theorem record_mem (s : State) (r : FaultRec) : ∃ q ∈ (s.record r).flt.buf,
    q = { r with id := s.flt.nextId } ∨ q = ({ r with id := s.flt.nextId } : FaultRec).redact := by
  refine ⟨_, List.mem_append_right _ List.mem_cons_self, ?_⟩
  split
  · split
    · exact .inr rfl
    · exact .inl rfl
  · exact .inl rfl

/-- A report leaves a record of its class and site. -/
theorem report_mem (s : State) (cls : BitVec 16) (n : SiteNo) (detail : Word32) (addr : Word64) :
    ∃ r ∈ (s.report cls (some n) detail addr).flt.buf, r.cls = cls ∧ r.site = BitVec.ofNat 8 n.val := by
  obtain ⟨q, hq, h⟩ := record_mem s (s.plainRec cls (some n) detail addr)
  exact ⟨q, hq, h.elim (fun e => e ▸ ⟨rfl, rfl⟩) fun e => e ▸ ⟨rfl, rfl⟩⟩

/-! ### The end of a program (R136) -/

theorem freeReleased_keep {α : Type} (g : Site → α) (hg : ∀ (c : Site) i, g (c.sillGone i) = g c) (c : Site) :
    g c.freeReleased = g c :=
  foldl_keeps g _ (fun c i => by split <;> simp only [hg]) _ c

/-- Only site n and the outstanding descriptors may differ. -/
def siteAndDescs (n : SiteNo) (s t : State) : Prop :=
  t = { s with sites := t.sites, host := { s.host with descs := t.host.descs } } ∧ ∀ m, m ≠ n → t.site m = s.site m

theorem siteAndDescs_trans {n : SiteNo} {s t u : State} (h : siteAndDescs n s t) (k : siteAndDescs n t u) :
    siteAndDescs n s u := by
  refine ⟨?_, fun m hm => (k.2 m hm).trans (h.2 m hm)⟩
  rw [k.1, h.1]

theorem siteAndDescs_modSite (s : State) (n : SiteNo) (f : Site → Site) : siteAndDescs n s (s.modSite n f) :=
  ⟨rfl, fun _ hm => State.site_modSite_other s f hm⟩

theorem siteAndDescs_modDesc (s : State) (n : SiteNo) (id : Nat) (f : Desc → Desc) :
    siteAndDescs n s (s.modDesc id f) := ⟨rfl, fun _ _ => rfl⟩

section
variable {s : State} {n : SiteNo}

theorem leaveLaunch_frame (s : State) (n : SiteNo) : siteAndDescs n s (s.leaveLaunch n) := by
  unfold State.leaveLaunch
  dsimp only
  split
  · exact siteAndDescs_trans (siteAndDescs_modDesc s n _ _) (siteAndDescs_modSite _ n _)
  · exact siteAndDescs_modSite s n _

theorem leaveLaunch_site (s : State) (n : SiteNo) : (s.leaveLaunch n).site n = { s.site n with launch := none } := by
  unfold State.leaveLaunch
  dsimp only
  split
  · exact State.site_modSite_same _ n _
  · exact State.site_modSite_same s n _

theorem launchDone_frame (s : State) (n : SiteNo) (id : Nat) : siteAndDescs n s (s.launchDone id) := by
  unfold State.launchDone
  split
  · split
    · exact siteAndDescs_modDesc s n _ _
    · exact ⟨rfl, fun _ _ => rfl⟩
  · exact ⟨rfl, fun _ _ => rfl⟩

theorem launchDone_sites (s : State) (id : Nat) : (s.launchDone id).sites = s.sites := by
  unfold State.launchDone
  split
  · split <;> rfl
  · rfl

/-- A site whose program is over. -/
def endedSite (c : Site) : Site := { c with seq := .idle, launch := none }

theorem endedSite_of_idle {c d : Site} (h : d = { c with seq := .idle }) : { d with launch := none } = endedSite c := by
  rw [h]
  rfl

theorem endedSite_of_noLaunch {c : Site} (h : c.launch = none) : { c with seq := .idle } = endedSite c := by
  unfold endedSite
  rw [← h]

/-- A program that is over frees what it has RELEASED and leaves its LAUNCH. -/
theorem execProgramEnd_ends (h : (s.site n).programOver = true) : completes (.programEnd n) s fun t =>
    siteAndDescs n s t ∧ t.site n = endedSite (s.site n).freeReleased := by
  have hf : (s.site n).freeReleased.launch = (s.site n).launch := freeReleased_keep Site.launch (fun _ _ => rfl) _
  change ∃ t, execProgramEnd n s = .next t ∧ _
  unfold execProgramEnd
  rw [if_pos h]
  extract_lets s1
  have hs : s1.site n = { (s.site n).freeReleased with seq := .idle } :=
    State.site_modSite_same s n fun c => { c.freeReleased with seq := .idle }
  have ho : siteAndDescs n s s1 := siteAndDescs_modSite s n _
  clear_value s1
  generalize (s.site n).freeReleased = c at hf hs ⊢
  split
  · rename_i l _
    refine ⟨_, rfl, siteAndDescs_trans ho (siteAndDescs_trans (leaveLaunch_frame s1 n) (launchDone_frame _ n l.desc)), ?_⟩
    rw [State.site, launchDone_sites]
    exact (leaveLaunch_site s1 n).trans (endedSite_of_idle hs)
  · rename_i hl
    exact ⟨s1, rfl, ho, hs.trans (endedSite_of_noLaunch (hf.trans hl))⟩

end

/-- A descriptor once a core has left its LAUNCH (R136). -/
def leftBy (lc : LCoreNo) (c : Site) (x : Desc) : Desc :=
  { x with left := x.left.filter fun l => decide (l ≠ lc), slipMax := if x.slipMax < c.slipMax then c.slipMax else x.slipMax }

/-- A sole descriptor that awaits a core's end and is within its deadline is ready with status 0 once the core left. -/
theorem launchDone_last {s : State} {n : SiteNo} {l : LaunchInfo} {lc : LCoreNo} {x : Desc}
    (hl : (s.site n).launch = some l) (hb : (s.site n).bound = some lc) (hx : s.host.descs = [x]) (hid : x.id = l.desc)
    (hleft : x.left = [lc]) (hready : x.ready = none) (hw : windowOver x.fetched x.deadline s.tb = false) :
    ∃ y, ((s.leaveLaunch n).launchDone l.desc).host.descs = [y] ∧ y.id = x.id ∧ y.left = [] ∧
      ∃ r, y.ready = some r ∧ r.status = 0 ∧ r.time = s.tb := by
  have h1 : (s.leaveLaunch n).host.descs = s.host.descs.map fun d => if d.id = l.desc then leftBy lc (s.site n) d else d := by
    unfold State.leaveLaunch
    simp only [hl, hb]
    rfl
  have h2 : ∃ y, (s.leaveLaunch n).host.descs = [y] ∧ y.id = x.id ∧ y.left = [] ∧ y.ready = none ∧
      y.fetched = x.fetched ∧ y.deadline = x.deadline := by
    refine ⟨leftBy lc (s.site n) x, ?_, rfl, ?_, hready, rfl, rfl⟩
    · rw [h1, hx, List.map_singleton, if_pos hid]
    · rw [leftBy, hleft]
      simp
  have htb : (s.leaveLaunch n).tb = s.tb := by rw [(leaveLaunch_frame s n).1]
  obtain ⟨y, hy, hyid, hyleft, hyready, hyf, hyd⟩ := h2
  have hfind : (s.leaveLaunch n).desc l.desc = some y := by
    unfold State.desc
    rw [hy, List.find?_cons_of_pos]
    exact decide_eq_true (hyid.trans hid)
  unfold State.launchDone
  rw [hfind]
  simp only [hyleft, List.isEmpty_nil, if_true]
  refine ⟨{ y with started := true, ready := some { status := 0, detail := 0, result := y.launchResult, time := s.tb } },
    ?_, hyid, hyleft, _, rfl, rfl, rfl⟩
  unfold State.setReady State.modDesc
  simp only [hy, List.map_singleton, if_pos (hyid.trans hid), hyready, hyf, hyd, htb, hw]
  rfl

/-! ### The watchdog (R407) -/

theorem at_of_le {s : State} {t : Word64} (h : s.tb ≤ t) : s.at t = { s with tb := t } := by
  unfold State.at
  split
  · rfl
  · rename_i hn
    have ht : s.tb = t := BitVec.le_antisymm h (BitVec.not_lt.1 hn)
    rw [← ht]

theorem watchdogTicks_eq (w : BitVec 16) : watchdogTicks w = 1000000 * (if w = 0 then 50 else max 20 w.toNat) := by
  unfold watchdogTicks
  split <;> [skip; split] <;> omega

/-- A core over its limit stops and reports. -/
theorem progressTimeout_due {s : State} {n : SiteNo} {l : LaunchInfo} {now : Word64}
    (hl : ((s.at now).site n).launch = some l)
    (hq : ((s.at now).site n).seq = .running ∨ ((s.at now).site n).seq = .tally)
    (hlim : l.lastDispatch + BitVec.ofNat 64 (watchdogTicks l.watchdog) ≤ (s.at now).tb) :
    ∃ d a, exec (.progressTimeout n now) s = .next ((s.at now).hwFault n 0x0606 d a) := by
  change ∃ d a, execProgressTimeout n now s = _
  unfold execProgressTimeout
  extract_lets u c
  split
  · rename_i k hk
    cases hl.symm.trans hk
    exact ⟨_, _, if_pos ⟨hq, hlim⟩⟩
  · rename_i hk
    exact nomatch hl.symm.trans hk

/-! ### The statement -/

/-- Settles O19: the end of a program and the watchdog's stop, from what each does to the site, the descriptors and the
log. -/
theorem programEnds : Obligations.ProgramEnds := by
  unfold Obligations.ProgramEnds
  refine ⟨?ends, ?last, ?timeout⟩
  case ends =>
    intro s n h
    obtain ⟨t, ht, ⟨h1, h2⟩, h3⟩ := execProgramEnd_ends h
    have hfree (i : Nat) (hi : i < 64) (hr : ((s.site n).entry i).st = .released) := freeReleased_free hi hr
    have hk : (s.site n).freeReleased.sregs = (s.site n).sregs ∧ (s.site n).freeReleased.vregs = (s.site n).vregs ∧
        (s.site n).freeReleased.ws = (s.site n).ws :=
      ⟨freeReleased_keep Site.sregs (fun _ _ => rfl) _, freeReleased_keep Site.vregs (fun _ _ => rfl) _,
        freeReleased_keep Site.ws (fun _ _ => rfl) _⟩
    generalize (s.site n).freeReleased = c at h3 hfree hk
    refine ⟨t, ht, h1, h2, by rw [h3]; rfl, by rw [h3]; rfl, fun i hi hr => ?_, ?_⟩
    · rw [h3]
      exact hfree i hi hr
    · rw [h3]
      exact hk
  case last =>
    intro s n l lc x h hl hb hx hid hleft hready hw
    have hf := freeReleased_keep Site.launch (fun _ _ => rfl) (s.site n)
    have hg := freeReleased_keep Site.bound (fun _ _ => rfl) (s.site n)
    change ∃ t, execProgramEnd n s = .next t ∧ _
    unfold execProgramEnd
    rw [if_pos h]
    extract_lets s1
    have hs : s1.site n = { (s.site n).freeReleased with seq := .idle } :=
      State.site_modSite_same s n fun c => { c.freeReleased with seq := .idle }
    have hd : s1.host.descs = [x] := hx
    have ht : s1.tb = s.tb := State.modSite_tb s n _
    clear_value s1
    generalize (s.site n).freeReleased = c at hf hg hs
    split
    · rename_i k hk
      cases hl.symm.trans hk
      rw [← ht] at hw ⊢
      exact ⟨_, rfl, launchDone_last (by rw [hs]; exact hf.trans hl) (by rw [hs]; exact hg.trans hb) hd hid hleft hready hw⟩
    · rename_i hk
      exact nomatch hl.symm.trans hk
  case timeout =>
    intro s n l now hl hq ht hlim
    have hs : s.at now = { s with tb := now } := at_of_le ht
    have hstop : (s.site n).stop = { s.site n with seq := .stopped } :=
      if_neg fun e => hq.elim (fun h => nomatch e.symm.trans h) fun h => nomatch e.symm.trans h
    rw [← watchdogTicks_eq] at hlim
    obtain ⟨d, a, he⟩ := progressTimeout_due (s := s) (now := now) (by rw [hs]; exact hl) (by rw [hs]; exact hq) (by rw [hs]; exact hlim)
    rw [hs] at he
    exact ⟨_, he, rfl, rfl, (hwFault_siteAndLog _ n _ _ _).2, (hwFault_site _ n _ _ _).trans hstop, report_mem _ _ n _ _,
      _, mem_insertReport _ _ _, rfl, rfl⟩

end Sys2Proof.Machine
end

section
/-!
PROOF. The management port, the sensors and the recovery sessions (R430, R467, R468, R495).
-/

namespace Sys2Proof.Machine

/-! ### The management port (R467, R468) -/

section
variable {s : State}

theorem managed_on (h : s.board.alwaysOn = true) (f : State → State) : s.managed f = .next (f s) :=
  if_neg (by rw [h]; decide)

theorem managed_off (h : s.board.alwaysOn = false) (f : State → State) : s.managed f = .next s := if_pos h

theorem at_alwaysOn (s : State) (t : Word64) : (s.at t).board.alwaysOn = s.board.alwaysOn := by
  rw [State.at_board]

theorem beginReset_begun (hr : s.host.resetting = false) (hb : s.board.rails = true) : resetBegun s s.beginReset :=
  if_neg (by rw [hr, hb]; decide)

/-- A management command that answers. -/
theorem managed_completes {c : Instr} {o : Host.Outcome State Fault Refusal} {f : State → State}
    (h : s.board.alwaysOn = true) (hc : exec c s = o) (ho : o = s.managed f) {P : State → Prop} (hp : P (f s)) :
    completes c s P := ⟨f s, hc.trans (ho.trans (managed_on h f)), hp⟩

/-- A management command without the always-on rail. -/
theorem managed_unpowered {c : Instr} {o : Host.Outcome State Fault Refusal} {f : State → State}
    (h : s.board.alwaysOn = false) (hc : exec c s = o) (ho : o = s.managed f) : completes c s (· = s) :=
  ⟨s, hc.trans (ho.trans (managed_off h f)), rfl⟩

end

/-! ### Sensors (R495) -/

section
variable {s : State}

/-- What a sensor's request is answered with. -/
def sensorAnswer (s : State) (k : Nat) : Option Int → List Byte
  | some v => [0, 0, (s.levelOf k v).byte] ++ leBytes 4 (BitVec.ofInt 32 v).toNat
  | none => [0, 2, 0] ++ zeros 4

theorem pldmSensorRead_answers (h : s.board.alwaysOn = true) {k : Byte} (h1 : 1 ≤ k.toNat) (h2 : k.toNat ≤ 12)
    {r : Option Int} (hr : s.pldmReading k.toNat = r) :
    completes (.pldmSensorRead k) s fun t => responds s t (sensorAnswer s k.toNat r) := by
  refine managed_completes h (o := execPldmSensorRead k s) rfl rfl ?_
  dsimp only
  rw [if_neg (by omega), hr]
  cases r <;> rfl

theorem pldmReading_numeric {k : Nat} (h9 : k ≤ 9) (h : k ≤ 4 ∨ s.host.ready = true) :
    s.pldmReading k = s.sensor k := by
  unfold State.pldmReading
  rw [if_neg (by omega), if_neg (by omega), if_neg, if_neg (by omega)]
  rintro ⟨h5, hr⟩
  rcases h with h | h
  · omega
  · exact Bool.false_ne_true (hr.symm.trans h)

theorem pldmReading_unready {k : Nat} (h5 : 5 ≤ k) (h10 : k ≤ 10) (h : s.host.ready = false) :
    s.pldmReading k = none := by
  unfold State.pldmReading
  rw [if_neg (by omega), if_neg (by omega), if_pos ⟨h5, h⟩]

theorem pldmReading_bound (h : s.host.ready = true) : s.pldmReading 10 = some (s.bound : Int) := by
  unfold State.pldmReading
  rw [if_neg (by decide), if_neg (by decide), if_neg (by rw [h]; decide), if_pos rfl]

theorem sensor_tset (s : State) (k j : Nat) (r : Option Int) :
    tget (fun _ => none) (tset (fun _ => none) s.board.sensors k r) j = if j = k then r else s.sensor j := by
  split
  · rename_i h
    rw [h, tget_tset_same]
  · rename_i h
    exact tget_tset_other _ _ _ h

theorem satNat_toInt {v : Int} (h0 : 0 ≤ v) (h1 : v < 65536) : ((satNat 16 v.toNat).toNat : Int) = v := by
  unfold satNat
  rw [if_neg (by omega), BitVec.toNat_ofNat]
  omega

/-- A numeric sensor takes its reading; sensor 2 is the module's input. -/
theorem sensorUpdate_numeric (h : s.board.alwaysOn = true) {k : Byte} (h1 : 1 ≤ k.toNat) (h9 : k.toNat ≤ 9) (v : Int) :
    completes (.sensorUpdate k v) s fun t => t.sensor k.toNat = some v ∧
      (∀ j, j ≠ k.toNat → t.sensor j = s.sensor j) ∧ (k ≠ 2 → t.pwr = s.pwr) ∧
      (k = 2 → 0 ≤ v → v < 65536 → t.pwr.inputW.toNat = v) ∧
      t = { s with board := { s.board with sensors := t.board.sensors }, pwr := { s.pwr with inputW := t.pwr.inputW } } := by
  have hs (j : Nat) := sensor_tset s k.toNat j (some v)
  have he : execSensorUpdate k v s = .next (if k = 2 then _ else _) := if_neg (by
    rw [h]
    simp only [Bool.true_eq_false, false_or]
    omega)
  refine ⟨_, he, ?_⟩
  split
  · rename_i h2
    exact ⟨(hs _).trans (if_pos rfl), fun j hj => (hs j).trans (if_neg hj), fun hn => absurd h2 hn,
      fun _ h0 hv => satNat_toInt h0 hv, rfl⟩
  · rename_i h2
    exact ⟨(hs _).trans (if_pos rfl), fun j hj => (hs j).trans (if_neg hj), fun _ => rfl, fun hn => absurd hn h2, rfl⟩

end

/-! ### Recovery sessions on a port (R430) -/

section
variable {s : State} {port : Fin 3}

theorem dropSession_none (h : s.sec.session = none) : s.dropSession = s := by
  unfold State.dropSession
  rw [h]

theorem dropSession_live {p : Fin 3 × Word64} (h : s.sec.session = some p)
    (hw : windowOver p.2 60000000000 s.tb = false) : s.dropSession = s := by
  unfold State.dropSession
  rw [h]
  exact if_neg (by rw [sessionTicks, hw]; decide)

theorem sessionStatus_normal (h : s.sec.recovery = false) (b : Bool) : s.sessionStatus port b = 2 := if_pos h

theorem sessionStatus_none (h : s.sec.recovery = true) (hs : s.sec.session = none) : s.sessionStatus port true = 0 := by
  unfold State.sessionStatus
  rw [if_neg (by rw [h]; decide), hs]
  rfl

theorem sessionStatus_other (h : s.sec.recovery = true) {p : Fin 3 × Word64} (hs : s.sec.session = some p) (b : Bool)
    (hp : p.1 ≠ port) : s.sessionStatus port b = 1 := by
  unfold State.sessionStatus
  rw [if_neg (by rw [h]; decide), hs]
  exact if_neg hp

theorem sessionStatus_own (h : s.sec.recovery = true) {p : Fin 3 × Word64} (hs : s.sec.session = some p) (b : Bool)
    (hp : p.1 = port) : s.sessionStatus port b = 0 := by
  unfold State.sessionStatus
  rw [if_neg (by rw [h]; decide), hs]
  exact if_pos hp

theorem sessionBegin_refused {st : BitVec 3} (hd : s.dropSession = s) (h : s.sessionStatus port true = st) (hn : st ≠ 0) :
    s.sessionBegin port = (s, st) := by
  unfold State.sessionBegin
  simp only [hd, h]
  exact if_neg hn

theorem sessionBegin_held (hd : s.dropSession = s) (h : s.sessionStatus port true = 0) :
    s.sessionBegin port = (s.holdSession port, 0) := by
  unfold State.sessionBegin
  simp only [hd, h]
  rfl

theorem sessionWrite_refused {st : BitVec 3} (hd : s.dropSession = s) (h : s.sessionStatus port false = st) (hn : st ≠ 0)
    (off max : Nat) (chunk : List Byte) : s.sessionWrite port off max chunk = (s, st) := by
  unfold State.sessionWrite
  simp only [hd, h]
  exact if_pos hn

theorem sessionWrite_over (hd : s.dropSession = s) (h : s.sessionStatus port false = 0) {off max : Nat}
    {chunk : List Byte} (hc : max < chunk.length ∨ regionBytes < off + chunk.length) :
    s.sessionWrite port off max chunk = (s.holdSession port, 2) := by
  unfold State.sessionWrite
  simp only [hd, h]
  exact if_pos hc

theorem sessionWrite_stored (hd : s.dropSession = s) (h : s.sessionStatus port false = 0) {off max : Nat}
    {chunk : List Byte} (h1 : chunk.length ≤ max) (h2 : off + chunk.length ≤ regionBytes) :
    s.sessionWrite port off max chunk =
      ({ s with sec := { s.sec with session := some (port, s.tb), fwRegion := tput (fun _ => 0) s.sec.fwRegion off chunk } }, 0) := by
  unfold State.sessionWrite
  simp only [hd, h]
  exact if_neg (not_or.2 ⟨by omega, by omega⟩)

theorem sessionEnd_refused {st : BitVec 3} (hd : s.dropSession = s) (h : s.sessionStatus port false = st) (hn : st ≠ 0)
    (o : FwObs) : s.sessionEnd port o = (s, st) := by
  unfold State.sessionEnd
  simp only [hd, h]
  exact if_pos hn

theorem sessionEnd_failed (hd : s.dropSession = s) (h : s.sessionStatus port false = 0) {o : FwObs} {why : BitVec 2}
    (ho : bootFail o.present o.sigOk o.digestOk o.svn s.fuses.svn = some why) :
    s.sessionEnd port o = ({ s with sec := { s.sec with session := none } }, 4) := by
  unfold State.sessionEnd
  simp only [hd, h]
  simp only [ho]
  rfl

theorem sessionEnd_verified (hd : s.dropSession = s) (h : s.sessionStatus port false = 0) {o : FwObs}
    (ho : bootFail o.present o.sigOk o.digestOk o.svn s.fuses.svn = none) :
    s.sessionEnd port o = (({ s with sec := { s.sec with session := none } } : State).beginReset, 0) := by
  unfold State.sessionEnd
  simp only [hd, h]
  simp only [ho]
  rfl

theorem bootFail_absent {p g d : Bool} {v f : BitVec 7} (h : p = false) : bootFail p g d v f = some 0 := if_pos h

theorem bootFail_none {p g d : Bool} {v f : BitVec 7} (hp : p = true) (hg : g = true) (hd : d = true) (hv : f ≤ v) :
    bootFail p g d v f = none := by
  unfold bootFail
  rw [hp, hg, hd, if_neg (by decide), if_neg (by decide), if_neg (by decide)]
  exact if_neg (BitVec.not_lt.2 hv)

/-- A recovery command of the management port answers its status. -/
theorem recoveryPort_answers {c : Instr} {o : Host.Outcome State Fault Refusal} {f : State → State × BitVec 3} {u v : State}
    {st : BitVec 3} (h : u.board.alwaysOn = true) (hc : exec c s = o) (ho : o = u.recoveryPort f) (hf : f u = (v, st)) :
    exec c s = .next (v.mctpAnswer [st.setWidth 8]) := by
  rw [hc, ho]
  unfold State.recoveryPort
  rw [managed_on h, hf]

end

/-! ### A response not read (R468) -/

section
variable {s : State} {tm a : Word64} {r : List Byte}

theorem mctpResponseTimeout_over (hr : (s.at tm).board.response = some (a, r))
    (hx : windowOver a 1000000000 (s.at tm).tb = true) : exec (.mctpResponseTimeout tm) s =
      .next { s.at tm with board := { (s.at tm).board with response := none } } := by
  change execMctpResponseTimeout tm s = _
  unfold execMctpResponseTimeout
  simp only [hr]
  exact if_pos hx

theorem mctpResponseTimeout_kept (hr : (s.at tm).board.response = some (a, r))
    (hx : windowOver a 1000000000 (s.at tm).tb = false) : exec (.mctpResponseTimeout tm) s = .next (s.at tm) := by
  change execMctpResponseTimeout tm s = _
  unfold execMctpResponseTimeout
  simp only [hr]
  exact if_neg (Bool.not_eq_true _ ▸ hx)

end

/-! ### The statement -/

/-- Settles O58: each command's one equation, the sensors by what a request reads, and the session commands by the
session's owner. -/
theorem managementPort : Obligations.ManagementPort := by
  unfold Obligations.ManagementPort
  refine ⟨?off, ?on, ?timed⟩
  case off =>
    intro s b w m h row hrow
    simp only [List.mem_cons, List.not_mem_nil, or_false] at hrow
    rcases hrow with rfl | rfl | rfl | rfl | rfl | rfl | rfl | rfl | rfl | rfl
    · exact managed_unpowered h (o := execSetEndpointId b s) rfl rfl
    · exact managed_unpowered h (o := execGetEndpointId s) rfl rfl
    · exact managed_unpowered h (o := execGetMctpVersionSupport b s) rfl rfl
    · exact managed_unpowered h (o := execGetMessageTypeSupport s) rfl rfl
    · exact managed_unpowered h (o := execGetVendorDefinedMessageSupport b s) rfl rfl
    · exact managed_unpowered h (o := execPldmSensorRead b s) rfl rfl
    · exact managed_unpowered h (o := execPowerLimit w s) rfl rfl
    · exact managed_unpowered h (o := execPldmWarmReset b s) rfl rfl
    · exact managed_unpowered h (o := execGetBootStatus s) rfl rfl
    · exact managed_unpowered h (o := execSetBootMode m s) rfl rfl
  case on =>
    intro s h
    refine ⟨fun e => ⟨fun h0 h1 => ?_, fun he => ?_⟩, managed_completes h (o := execGetEndpointId s) rfl rfl rfl,
      fun k => ⟨fun hk => ?_, fun hk => ?_⟩, fun hf => ?_, fun hf => ?_, ?_, fun k hk => ?_, fun k => ?sensor,
      fun w => ?power, fun hr hn hb => ?_, fun v hv => ?_, managed_completes h (o := execGetBootStatus s) rfl rfl rfl, fun m => ?_⟩
    · exact managed_completes h (o := execSetEndpointId e s) rfl rfl (by rw [if_neg (not_or.2 ⟨h0, h1⟩)]; rfl)
    · exact managed_completes h (o := execSetEndpointId e s) rfl rfl (by rw [if_pos he]; rfl)
    · exact managed_completes h (o := execGetMctpVersionSupport k s) rfl rfl
        (by rw [if_pos (by simpa using hk)]; exact ⟨_, rfl, rfl⟩)
    · exact managed_completes h (o := execGetMctpVersionSupport k s) rfl rfl (by rw [if_neg (by simpa using hk)]; rfl)
    · exact managed_completes h (o := execGetMessageTypeSupport s) rfl rfl (by rw [hf]; rfl)
    · exact managed_completes h (o := execGetMessageTypeSupport s) rfl rfl (by rw [hf]; rfl)
    · exact managed_completes h (o := execGetVendorDefinedMessageSupport 0 s) rfl rfl (by rw [if_pos rfl]; exact ⟨_, rfl, rfl⟩)
    · exact managed_completes h (o := execGetVendorDefinedMessageSupport k s) rfl rfl (by rw [if_neg hk]; rfl)
    case sensor =>
      intro reads absent
      have hread {v : Int} (h1 : 1 ≤ k.toNat) (h2 : k.toNat ≤ 12) (hv : s.pldmReading k.toNat = some v) : reads v :=
        pldmSensorRead_answers h h1 h2 hv
      have hnone (h1 : 1 ≤ k.toNat) (h2 : k.toNat ≤ 12) (hv : s.pldmReading k.toNat = none) : absent :=
        pldmSensorRead_answers h h1 h2 hv
      refine ⟨fun h1 h9 hr => ⟨fun v hv => ?_, fun hv => ?_⟩, fun h5 h10 hr => ?_, fun hk hr => ?_, fun hk => ?_,
        fun hk => ?_, fun hk => ?_, fun v => ⟨fun h1 h9 => ?_, fun hk => ?_⟩⟩
      · exact hread h1 (by omega) ((pldmReading_numeric h9 hr).trans hv)
      · exact hnone h1 (by omega) ((pldmReading_numeric h9 hr).trans hv)
      · exact hnone (by omega) (by omega) (pldmReading_unready h5 h10 hr)
      · subst hk
        exact hread (by decide) (by decide) (pldmReading_bound hr)
      · subst hk
        have hst {v : Nat} (hv : s.deviceState = v) : reads v :=
          hread (by decide) (by decide) (congrArg (fun x : Nat => some (x : Int)) hv)
        refine ⟨fun hr => hst (if_pos hr), fun hr hg => hst ?_, fun hr hg hl => hst ?_, fun hr hg hl hy =>
          ⟨fun hd => hst ?_, fun hd => hst ?_⟩⟩
        all_goals unfold State.deviceState
        · rw [hr, if_neg Bool.false_ne_true, if_pos hg]
        · rw [hr, if_neg Bool.false_ne_true, if_neg hg, if_pos hl]
        · rw [hr, if_neg Bool.false_ne_true, if_neg hg, hl, if_neg Bool.false_ne_true, if_pos hy, if_pos hd]
        · rw [hr, if_neg Bool.false_ne_true, if_neg hg, hl, if_neg Bool.false_ne_true, if_pos hy, hd,
            if_neg Bool.false_ne_true]
      · subst hk
        exact hread (by decide) (by decide) rfl
      · refine managed_completes h (o := execPldmSensorRead k s) rfl rfl ?_
        dsimp only
        rw [if_pos (hk.imp (fun e => by rw [e]; rfl) id)]
        rfl
      · exact sensorUpdate_numeric h h1 h9 v
      · exact ⟨s, if_pos (.inr (hk.imp (fun e => by rw [e]; rfl) id)), rfl⟩
    case power =>
      intro sets
      have hset {x : BitVec 16} (hf : s.firmwareRuns = true) (hl : s.pwr.lock = false) (hx : s.clampW w.toNat = x) :
          sets x :=
        managed_completes h (o := execPowerLimit w s) rfl rfl (by rw [if_neg (by rw [hf, hl]; decide), hx]; rfl)
      refine ⟨fun hf hl => ⟨fun hw => hset hf hl (if_pos hw), fun hm hw => hset hf hl ?_, fun hw hm => hset hf hl ?_⟩, fun hr => ?_⟩
      · exact (if_neg (by omega)).trans (if_pos hm)
      · exact (if_neg (by omega)).trans (if_neg (by omega))
      · exact managed_completes h (o := execPowerLimit w s) rfl rfl (by rw [if_pos hr]; rfl)
    · exact managed_completes h (o := execPldmWarmReset 1 s) rfl rfl
        (by rw [if_neg (by rw [hr]; simp)]; exact ⟨_, beginReset_begun hn hb, rfl⟩)
    · exact managed_completes h (o := execPldmWarmReset v s) rfl rfl (by rw [if_pos (.inl hv)]; rfl)
    · exact managed_completes h (o := execSetBootMode m s) rfl rfl rfl
  case timed =>
    intro s tm a holder off chunk o h u
    have hu : u.board.alwaysOn = true := (at_alwaysOn s tm).trans h
    have hsec : u.sec = s.sec := State.at_sec s tm
    have hfuses : u.fuses = s.fuses := State.at_fuses s tm
    have hhost : u.host = s.host := State.at_host s tm
    have hboard : u.board = s.board := State.at_board s tm
    rw [← hsec, ← hfuses, ← hhost, ← hboard]
    have hbegin {v st} (hf : u.sessionBegin 2 = (v, st)) :=
      recoveryPort_answers (c := .mgmtRecoveryBegin tm) (s := s) hu (o := execMgmtRecoveryBegin tm s) rfl rfl hf
    have hwrite {v st} (hf : u.sessionWrite 2 off.toNat 4096 chunk = (v, st)) :=
      recoveryPort_answers (c := .mgmtRecoveryWrite off chunk tm) (s := s) hu (o := execMgmtRecoveryWrite off chunk tm s)
        rfl rfl hf
    have hend {v st} (hf : u.sessionEnd 2 o = (v, st)) :=
      recoveryPort_answers (c := .mgmtRecoveryEnd o tm) (s := s) hu (o := execMgmtRecoveryEnd o tm s) rfl rfl hf
    refine ⟨fun hr hn => ⟨_, hbegin (sessionBegin_refused (dropSession_none hn) (sessionStatus_normal hr _) (by decide)), rfl⟩,
      fun hr hn => ⟨_, hbegin (sessionBegin_held (dropSession_none hn) (sessionStatus_none hr hn)), rfl⟩,
      fun hr hs hl => ?_, ?_, ?_⟩
    · have hd : u.dropSession = u := dropSession_live hs hl
      refine ⟨fun hh => ⟨⟨_, hbegin (sessionBegin_refused hd (sessionStatus_other hr hs _ hh) (by decide)), rfl⟩,
          ⟨_, hwrite (sessionWrite_refused hd (sessionStatus_other hr hs _ hh) (by decide) _ _ _), rfl⟩,
          _, hend (sessionEnd_refused hd (sessionStatus_other hr hs _ hh) (by decide) _), rfl⟩,
        fun hh hc hx => ⟨_, hwrite (sessionWrite_stored hd (sessionStatus_own hr hs _ hh) hc hx), rfl, tbytes_tput _ _⟩,
        fun hh hc => ⟨_, hwrite (sessionWrite_over hd (sessionStatus_own hr hs _ hh) (.inl hc)), rfl⟩,
        fun hh hp => ⟨_, hend (sessionEnd_failed hd (sessionStatus_own hr hs _ hh) (bootFail_absent hp)), rfl⟩,
        fun hh hp hg hk hv hrails hn =>
          ⟨_, hend (sessionEnd_verified hd (sessionStatus_own hr hs _ hh) (bootFail_none hp hg hk hv)), _,
            beginReset_begun hn hrails, rfl⟩⟩
    · refine ⟨_, Eq.trans (b := execMctpAssemblyTimeout a tm s) rfl (managed_on (s := u) hu _), rfl, rfl⟩
    · intro r hr
      refine ⟨fun hx => ⟨_, mctpResponseTimeout_over hr hx, rfl⟩, fun hx => ⟨_, mctpResponseTimeout_kept hr hx, rfl⟩⟩

end Sys2Proof.Machine
end

section
/-!
PROOF. The interrupt controller (R388 to R399).
-/

namespace Sys2Proof.Machine

/-! ### The clock of a stamp -/

/-- Counting on to a stamp changes the time base only. -/
theorem at_is (s : State) (t : Word64) : ∃ x, s.at t = { s with tb := x } := by
  unfold State.at
  split
  · exact ⟨t, rfl⟩
  · exact ⟨s.tb, rfl⟩

/-! ### Interrupt sources (R391 to R397) -/

section
variable (s : State) (n : Nat)

@[simp] theorem State.src_setSrc_same (v : Src) : (s.setSrc n v).src n = v := tget_tset_same _ _ _ _

theorem State.src_setSrc_other (v : Src) {m : Nat} (h : m ≠ n) : (s.setSrc n v).src m = s.src m := tget_tset_other _ _ _ h

/-- A wake touches its target alone. -/
theorem icWake_frame : s.icWake n = { s with sites := (s.icWake n).sites, ic := { s.ic with sleeping := (s.icWake n).ic.sleeping } } := by
  unfold State.icWake
  dsimp only
  split
  · split
    · rfl
    · split
      · split <;> rfl
      · rfl
  · rfl

@[simp] theorem icWake_src (m : Nat) : (s.icWake n).src m = s.src m := by rw [icWake_frame]; rfl

/-- An enabled source of a processor wakes it (R397). -/
theorem icWake_processor (he : (s.src n).en = true) (ht : (s.src n).target < 3) (hh : s.ic.hold = false) :
    tget (fun _ => false) (s.icWake n).ic.sleeping (s.src n).target.toNat = false := by
  unfold State.icWake
  dsimp only
  rw [if_pos (by rw [he, hh]; rfl), if_pos ht]
  exact tget_tset_same (fun _ => false) s.ic.sleeping (s.src n).target.toNat false

/-- A raise changes its source and may wake its target. -/
theorem icRaise_frame (t : Word64) : s.icRaise n t =
    { s with sites := (s.icRaise n t).sites,
             ic := { s.ic with srcs := (s.icRaise n t).ic.srcs, sleeping := (s.icRaise n t).ic.sleeping } } := by
  unfold State.icRaise
  dsimp only
  split
  · rw [icWake_frame]
    rfl
  · rfl

theorem icRaise_src_same (t : Word64) : (s.icRaise n t).src n = (s.src n).raised t := by
  unfold State.icRaise
  dsimp only
  split
  · rw [icWake_src, State.src_setSrc_same]
  · exact State.src_setSrc_same _ _ _

theorem icRaise_src_other (t : Word64) {m : Nat} (h : m ≠ n) : (s.icRaise n t).src m = s.src m := by
  unfold State.icRaise
  dsimp only
  split
  · rw [icWake_src, State.src_setSrc_other _ _ _ h]
  · exact State.src_setSrc_other _ _ _ h

/-- A source that enters PENDING wakes its processor. -/
theorem icRaise_processor (t : Word64) (hi : (s.src n).st = .idle) (he : (s.src n).en = true)
    (ht : (s.src n).target < 3) (hh : s.ic.hold = false) :
    tget (fun _ => false) (s.icRaise n t).ic.sleeping (s.src n).target.toNat = false := by
  have hr : (s.src n).raised t = { s.src n with st := .pending, stamp := t } := by
    unfold Src.raised
    rw [hi]
  have h := icWake_processor (s.setSrc n ((s.src n).raised t)) n
  rw [State.src_setSrc_same, hr] at h
  unfold State.icRaise
  dsimp only
  rw [if_pos (decide_eq_true hi), hr]
  exact h he ht hh

theorem icLower_frame : s.icLower = { s with ic := { s.ic with lines := s.icLower.ic.lines } } := rfl

@[simp] theorem icLower_src (m : Nat) : s.icLower.src m = s.src m := rfl

end

/-- Only source n, and what it wakes or lets fall, may differ. -/
def sourceTurned (n : Nat) (v : Src) (s t : State) : Prop :=
  t = { s with sites := t.sites, ic := { s.ic with srcs := t.ic.srcs, sleeping := t.ic.sleeping, lines := t.ic.lines } } ∧
  t.src n = v ∧ ∀ m, m ≠ n → t.src m = s.src m

section
variable {s : State} {n : Nat} {v w : Src}

theorem sourceTurned_refl (s : State) (n : Nat) : sourceTurned n (s.src n) s s := ⟨rfl, rfl, fun _ _ => rfl⟩

theorem sourceTurned_set (s : State) (n : Nat) (v : Src) : sourceTurned n v s (s.setSrc n v) :=
  ⟨rfl, State.src_setSrc_same s n v, fun _ h => State.src_setSrc_other s n v h⟩

theorem sourceTurned_trans {t u : State} (h : sourceTurned n v s t) (k : sourceTurned n w t u) : sourceTurned n w s u := by
  obtain ⟨h1, _, h3⟩ := h
  obtain ⟨k1, k2, k3⟩ := k
  refine ⟨?_, k2, fun m hm => (k3 m hm).trans (h3 m hm)⟩
  rw [k1, h1]

theorem sourceTurned_raise (t : Word64) : sourceTurned n ((s.src n).raised t) s (s.icRaise n t) :=
  ⟨by rw [icRaise_frame], icRaise_src_same s n t, fun _ h => icRaise_src_other s n t h⟩

/-- A source withdrawn lets its target's line fall (R395). -/
theorem sourceTurned_withdraw : sourceTurned n (s.src n).withdrawn s (s.setSrc n (s.src n).withdrawn).icLower :=
  ⟨rfl, (sourceTurned_set s n _).2⟩

end


/-! ### Lines, raises and register writes -/

theorem lineInput_tb (s : State) (x : Word64) (n : Nat) : ({ s with tb := x } : State).lineInput n = s.lineInput n := rfl

/-- Whether a line's new level raises its source, by its mode (R391). -/
def lineUps (mode : BitVec 3) (level : Bool) : Bool :=
  mode = 0 && level || mode = 1 && !level || mode = 2 && level || mode = 3 && !level || mode = 4

/-- Whether a line's new level withdraws its source. -/
def lineDowns (mode : BitVec 3) (level : Bool) : Bool := mode = 0 && !level || mode = 1 && level

/-- What a new level does once it is kept. -/
theorem lineTurn_cases (s : State) (n : SrcNo) (level : Bool) (t : Word64) (mode : BitVec 3) :
    (if mode = 0 then
      (.next (if level then s.icRaise n.val t else (s.setSrc n.val (s.src n.val).withdrawn).icLower) :
        Host.Outcome State Fault Refusal)
    else if mode = 1 then
      .next (if level then (s.setSrc n.val (s.src n.val).withdrawn).icLower else s.icRaise n.val t)
    else if mode = 4 ∨ (mode = 2 ∧ level = true) ∨ (mode = 3 ∧ level = false) then
      .next (s.icRaise n.val t)
    else .next s) =
    .next (if lineUps mode level then s.icRaise n.val t
      else if lineDowns mode level then (s.setSrc n.val (s.src n.val).withdrawn).icLower else s) := by
  unfold lineUps lineDowns
  cases level <;> split_ifs <;> simp_all

/-! ### Claims (R394, R395) -/

theorem tget_unlisted {α : Type} {d : Nat → α} {t : Tab α} {k : Nat} (h : k ∉ t.map (·.1)) : tget d t k = d k := by
  induction t with
  | nil => rfl
  | cons p t ih =>
    rw [List.map_cons, List.mem_cons, not_or] at h
    exact (if_neg fun e => h.1 e.symm).trans (ih h.2)

section
variable {s : State}

theorem pending_mem {n : Nat} (h : (s.src n).st = .pending) : n ∈ s.ic.srcs.map (·.1) := by
  by_contra hn
  have hd : s.src n = srcD n := tget_unlisted hn
  rw [hd] at h
  exact nomatch h

theorem deliverable_pending {n : Nat} (h : s.deliverable n = true) : (s.src n).st = .pending := by
  unfold State.deliverable at h
  simp only [Bool.and_eq_true, decide_eq_true_eq] at h
  exact h.1.1.1.1

/-- Nothing deliverable has the target k. -/
theorem icBest_none {k : BitVec 3} (h : ∀ n, (s.src n).target = k → s.deliverable n = false) : s.icBest k = none := by
  unfold State.icBest
  rw [List.filter_eq_nil_iff.2]
  · rfl
  · intro n _
    by_cases ht : (s.src n).target = k
    · rw [h n ht]
      simp
    · simp [ht]

/-- Source n is claimed before source m (R394). -/
def outranks (s : State) (n m : Nat) : Prop :=
  (s.src m).prio < (s.src n).prio ∨ (s.src m).prio = (s.src n).prio ∧ n < m

theorem icBetter_left {n m : Nat} (h : m = n ∨ outranks s n m) : s.icBetter n m = n := by
  unfold State.icBetter
  rcases h with rfl | h | ⟨h, hl⟩
  · rw [if_neg (BitVec.lt_irrefl _), if_neg (BitVec.lt_irrefl _), min_self]
  · exact if_pos h
  · rw [h, if_neg (BitVec.lt_irrefl _), if_neg (BitVec.lt_irrefl _)]
    omega

theorem icBetter_right {n m : Nat} (h : m = n ∨ outranks s n m) : s.icBetter m n = n := by
  unfold State.icBetter
  rcases h with rfl | h | ⟨h, hl⟩
  · rw [if_neg (BitVec.lt_irrefl _), if_neg (BitVec.lt_irrefl _), min_self]
  · rw [if_neg (BitVec.not_lt.2 (BitVec.le_of_lt h)), if_pos h]
  · rw [h, if_neg (BitVec.lt_irrefl _), if_neg (BitVec.lt_irrefl _)]
    omega

theorem icBetter_or (a b : Nat) : s.icBetter a b = a ∨ s.icBetter a b = b := by
  unfold State.icBetter
  split
  · exact .inl rfl
  · split
    · exact .inr rfl
    · exact min_choice a b

/-- The better of the choice so far and the next source. -/
def claimStep (s : State) (b : Option Nat) (n : Nat) : Option Nat :=
  match b with
  | none => some n
  | some m => some (s.icBetter m n)

/-- A source that outranks every other is the choice. -/
theorem claimStep_foldl {n : Nat} (ns : List Nat) (hn : ∀ m ∈ ns, m = n ∨ outranks s n m) (b : Option Nat)
    (hb : ∀ m ∈ b, m = n ∨ outranks s n m) (hin : b = some n ∨ n ∈ ns) : ns.foldl (claimStep s) b = some n := by
  induction ns generalizing b with
  | nil => exact hin.elim id fun h => nomatch h
  | cons a ns ih =>
    have ha := hn a List.mem_cons_self
    refine ih (fun m hm => hn m (List.mem_cons_of_mem _ hm)) _ ?_ ?_
    · intro m hm
      cases b with
      | none => exact Option.some.inj hm ▸ ha
      | some c =>
        have hc := hb c rfl
        rw [← Option.some.inj hm]
        rcases icBetter_or (s := s) c a with h | h <;> rw [h] <;> assumption
    · cases b with
      | none => exact hin.elim (fun h => nomatch h) fun h => (List.mem_cons.1 h).imp (fun e => congrArg some e.symm) id
      | some c =>
        rcases hin with h | h
        · cases h
          exact .inl (congrArg some (icBetter_left ha))
        · rcases List.mem_cons.1 h with rfl | h
          · exact .inl (congrArg some (icBetter_right (hb c rfl)))
          · exact .inr h

theorem icBest_some {k : BitVec 3} {n : Nat} (h : s.deliverable n = true) (ht : (s.src n).target = k)
    (hn : ∀ m, m ≠ n → s.deliverable m = true → (s.src m).target = k → outranks s n m) : s.icBest k = some n := by
  refine claimStep_foldl _ (fun m hm => ?_) none (fun m hm => nomatch hm) (.inr ?_)
  · obtain ⟨_, hm⟩ := List.mem_filter.1 hm
    simp only [Bool.and_eq_true, decide_eq_true_eq] at hm
    by_cases e : m = n
    · exact .inl e
    · exact .inr (hn m e hm.2 hm.1)
  · exact List.mem_filter.2 ⟨pending_mem (deliverable_pending h), by simp [ht, h]⟩

/-! ### The lines of the processors -/

/-- The lines of processors k in ks fall when nothing deliverable is for them. -/
def lowerLines (s : State) (ks : List Nat) (l : Tab Bool) : Tab Bool :=
  ks.foldl (fun l k => if (s.icBest (BitVec.ofNat 3 k)).isSome then l else tset (fun _ => false) l k false) l

theorem lowerLines_low (ks : List Nat) (l : Tab Bool) (j : Nat) (h : tget (fun _ => false) l j = false) :
    tget (fun _ => false) (lowerLines s ks l) j = false := by
  induction ks generalizing l with
  | nil => exact h
  | cons a ks ih =>
    refine ih _ ?_
    dsimp only
    split
    · exact h
    · by_cases e : j = a
      · rw [e]
        exact tget_tset_same (fun _ => false) l a false
      · exact (tget_tset_other (fun _ => false) l false e).trans h

theorem lowerLines_falls (ks : List Nat) (l : Tab Bool) (j : Nat) (hj : j ∈ ks) (h : s.icBest (BitVec.ofNat 3 j) = none) :
    tget (fun _ => false) (lowerLines s ks l) j = false := by
  induction ks generalizing l with
  | nil => exact nomatch hj
  | cons a ks ih =>
    rcases List.mem_cons.1 hj with rfl | hj
    · refine lowerLines_low ks _ j ?_
      dsimp only
      rw [h]
      exact tget_tset_same (fun _ => false) l j false
    · exact ih _ hj

/-- The line of a processor with nothing deliverable falls. -/
theorem icLower_falls {k : BitVec 3} (hk : k < 3) (h : s.icBest k = none) :
    tget (fun _ => false) s.icLower.ic.lines k.toNat = false := by
  refine lowerLines_falls [0, 1, 2] s.ic.lines k.toNat ?_ (by rwa [BitVec.ofNat_toNat, BitVec.setWidth_eq])
  have : k.toNat < 3 := hk
  simp only [List.mem_cons, List.not_mem_nil, or_false]
  omega

/-! ### Deliveries and hold-off (R395, R398) -/

theorem icDelivered_frame (s : State) (n : Nat) : s.icDelivered n =
    { s with ic := { s.ic with holding := (s.icDelivered n).ic.holding } } := by
  unfold State.icDelivered
  dsimp only
  split <;> rfl

theorem icDelivered_none {n : Nat} (h : tget (fun _ => 0) s.ic.holdoff (n / 16) = 0) : s.icDelivered n = s := if_pos (.inl h)

theorem icDelivered_holds {n : Nat} (hn : 16 ≤ n) (h : tget (fun _ => 0) s.ic.holdoff (n / 16) ≠ 0) :
    tget (fun _ => none) (s.icDelivered n).ic.holding (n / 16) =
      some (s.tb + ((tget (fun _ => 0) s.ic.holdoff (n / 16)).setWidth 64) * 100) := by
  unfold State.icDelivered
  dsimp only
  rw [if_neg (not_or.2 ⟨h, by omega⟩)]
  dsimp only
  rw [tget_tset_same]

/-- A delivery of a source that was not held back leaves no source of its group that was held back less so. -/
theorem icDelivered_held {n m : Nat} (h : s.icHeld n = false) : s.icHeld m = true → (s.icDelivered n).icHeld m = true := by
  intro hm
  have hg : m / 16 ≠ n / 16 := by
    intro e
    unfold State.icHeld at h hm
    rw [e, h] at hm
    exact Bool.false_ne_true hm
  unfold State.icDelivered
  dsimp only
  split
  · exact hm
  · unfold State.icHeld at hm ⊢
    rw [tget_tset_other _ _ _ hg]
    exact hm

/-- Sending to the host changes what is sent and what is held. -/
theorem sendHost_wrote (s : State) (o : Out) : wroteHost s (s.sendHost o) o ∧
    s.sendHost o = { s with host := { s.host with held := (s.sendHost o).host.held }, out := (s.sendHost o).out } := by
  unfold State.sendHost
  split
  · rename_i h
    exact ⟨⟨fun e => absurd h (by rw [e]; decide), fun _ => ⟨rfl, rfl⟩⟩, rfl⟩
  · rename_i h
    exact ⟨⟨fun _ => ⟨rfl, rfl⟩, fun e => absurd (Option.isSome_iff_ne_none.2 e) h⟩, rfl⟩

/-- A delivery to a processor asserts its line (R395). -/
theorem icDeliver_processor {n : Nat} (h : s.deliverable n = true) (ht : (s.src n).target < 3) : s.icDeliver n =
    { s with ic := { s.ic with lines := tset (fun _ => false) s.ic.lines (s.src n).target.toNat true } } := by
  unfold State.icDeliver
  rw [if_neg (by rw [h]; decide)]
  exact if_pos ht

theorem icDeliver_not {n : Nat} (h : s.deliverable n = false) : s.icDeliver n = s := if_pos h

theorem icDeliver_core {n : Nat} {k : SiteNo} (h : s.deliverable n = true) (ht : (s.src n).target = 4)
    (hm : s.ic.seqMask.getLsbD (srcCore n).val = false) (hk : s.siteOf (srcCore n) = some k) : s.icDeliver n =
      ((s.setSrc n { s.src n with st := .idle }).icDelivered n).send
        (.tokenPkt (srcCore n) (s.src n).token (s.site k).hamlet) := by
  unfold State.icDeliver
  rw [if_neg (by rw [h]; decide)]
  dsimp only
  rw [if_neg (by rw [ht]; decide), if_pos ht, if_neg (by rw [hm]; decide), hk]

theorem icDeliver_host {n : Nat} (h : s.deliverable n = true) (ht : (s.src n).target = 3) (hl : s.host.lost = false) :
    s.icDeliver n = ((s.setSrc n { s.src n with st := .idle }).icDelivered n).sendHost
      (.hostMsg (xor (s.ring ⟨(n - 512) % 256, by omega⟩).port (s.ring ⟨(n - 512) % 256, by omega⟩).moved)
        (s.ring ⟨(n - 512) % 256, by omega⟩).msgAddr (s.ring ⟨(n - 512) % 256, by omega⟩).msgData) := by
  unfold State.icDeliver
  rw [if_neg (by rw [h]; decide)]
  dsimp only
  rw [if_neg (by rw [ht]; decide), if_neg (by rw [ht]; decide), if_pos ht, if_neg (by rw [hl]; decide)]

end

/-! ### The end of a HOLD (R399) -/

theorem setHolding_same (s : State) (g : Nat) (v : Option Word64) :
    tget (fun _ => none) (s.setHolding g v).ic.holding g = v := by
  unfold State.setHolding
  dsimp only
  rw [tget_tset_same]

/-- A delivery changes the source, the lines, the hold-off and what is sent. -/
theorem icDeliver_frame (s : State) (n : Nat) : s.icDeliver n = { s with
    ic := { s.ic with srcs := (s.icDeliver n).ic.srcs, lines := (s.icDeliver n).ic.lines,
                      holding := (s.icDeliver n).ic.holding, dropped := (s.icDeliver n).ic.dropped },
    host := { s.host with held := (s.icDeliver n).host.held }, out := (s.icDeliver n).out } := by
  unfold State.icDeliver
  split
  · rfl
  · dsimp only
    split
    · rfl
    · split
      · split
        · rfl
        · rw [icDelivered_frame]
          split <;> rfl
      · split
        · split
          · rfl
          · rw [(sendHost_wrote _ _).2, icDelivered_frame]
            rfl
        · rfl

/-- A delivery raises lines and lowers none. -/
theorem icDeliver_lines (s : State) (n j : Nat) (h : tget (fun _ => false) s.ic.lines j = true) :
    tget (fun _ => false) (s.icDeliver n).ic.lines j = true := by
  unfold State.icDeliver
  split
  · exact h
  · dsimp only
    split
    · by_cases e : j = (s.src n).target.toNat
      · rw [e]
        exact tget_tset_same (fun _ => false) s.ic.lines _ true
      · exact (tget_tset_other (fun _ => false) s.ic.lines true e).trans h
    · split
      · split
        · exact h
        · rw [icDelivered_frame]
          split <;> exact h
      · split
        · split
          · exact h
          · rw [(sendHost_wrote _ _).2, icDelivered_frame]
            exact h
        · exact h

/-- A delivery leaves every other source, and the source of a processor. -/
theorem icDeliver_src (s : State) {n m : Nat} (h : m ≠ n ∨ (s.src n).target < 3) : (s.icDeliver n).src m = s.src m := by
  unfold State.icDeliver
  split
  · rfl
  · dsimp only
    split
    · rfl
    · rename_i ht
      have hset := State.src_setSrc_other s n { s.src n with st := .idle } (h.resolve_right ht)
      split
      · split
        · rfl
        · rw [icDelivered_frame]
          split <;> exact hset
      · split
        · split
          · rfl
          · rw [(sendHost_wrote _ _).2, icDelivered_frame]
            exact hset
        · rfl

/-- The walk over the sources at the end of a HOLD, so far: processors' sources are as they were, and no processor
has been kept back. -/
def releasing (s : State) (x : State × List (Nat × Nat)) : Prop :=
  (∀ m, (s.src m).target < 3 → x.1.src m = s.src m) ∧ x.1.tb = s.tb ∧ x.1.ic.hold = false ∧
  x.1.ic.thresholds = s.ic.thresholds ∧ ∀ k ∈ x.2, 3 ≤ k.2

section
variable {s : State} {x : State × List (Nat × Nat)}

theorem releasing_congr {y : State × List (Nat × Nat)} (h : releasing s x)
    (hs : ∀ m, (s.src m).target < 3 → y.1.src m = x.1.src m) (ht : y.1.tb = x.1.tb) (hh : y.1.ic.hold = x.1.ic.hold)
    (hp : y.1.ic.thresholds = x.1.ic.thresholds) (hk : ∀ k ∈ y.2, 3 ≤ k.2) : releasing s y := by
  obtain ⟨h1, h2, h3, h4, _⟩ := h
  exact ⟨fun m hm => (hs m hm).trans (h1 m hm), ht.trans h2, hh.trans h3, hp.trans h4, hk⟩

/-- The key of a processor's source. -/
theorem icKey_processor {n : Nat} (h : (s.src n).target < 3) : (s.icKey n).2 < 3 := by
  unfold State.icKey
  rw [if_neg (fun e => by rw [e] at h; exact absurd h (by decide))]
  exact h

theorem icKey_other {n : Nat} (h : ¬(s.src n).target < 3) : 3 ≤ (s.icKey n).2 := by
  unfold State.icKey
  split
  · omega
  · exact Nat.le_of_not_lt h

/-- What one source of the walk does. -/
theorem releaseOne_cases (before : Tab (Option Word64)) (x : State × List (Nat × Nat)) (n : Nat) :
    let u := x.1.setHolding (n / 16) (tget (fun _ => none) before (n / 16))
    State.releaseOne before x n = x ∨
    (x.2.contains (x.1.icKey n) = false ∧ u.deliverable n = true ∧
      (State.releaseOne before x n = ((u.icDeliver n).setHolding (n / 16) (tget (fun _ => none) x.1.ic.holding (n / 16)), x.2) ∨
        tget (fun _ => none) (u.icDeliver n).ic.holding (n / 16) ≠ tget (fun _ => none) before (n / 16) ∧
          State.releaseOne before x n = (u.icDeliver n, x.1.icKey n :: x.2))) := by
  intro u
  unfold State.releaseOne
  dsimp only
  split
  · exact .inl rfl
  · rename_i h
    rw [not_or, Bool.not_eq_true, Bool.not_eq_false] at h
    refine .inr ⟨h.1, h.2, ?_⟩
    split
    · exact .inl rfl
    · rename_i hne
      exact .inr ⟨hne, rfl⟩

/-- The walk keeps the processors' sources and keeps no processor back. -/
theorem releaseOne_releasing {before : Tab (Option Word64)} (h : releasing s x) (n : Nat) :
    releasing s (State.releaseOne before x n) := by
  have hsrc (m : Nat) (hm : (s.src m).target < 3) :
      ((x.1.setHolding (n / 16) (tget (fun _ => none) before (n / 16))).icDeliver n).src m = x.1.src m := by
    refine (icDeliver_src _ ?_).trans rfl
    by_cases e : m = n
    · refine .inr ?_
      change (x.1.src n).target < 3
      rw [← e, h.1 m hm]
      exact hm
    · exact .inl e
  have hf := icDeliver_frame (x.1.setHolding (n / 16) (tget (fun _ => none) before (n / 16))) n
  rcases releaseOne_cases before x n with e | ⟨_, hd, e | ⟨hne, e⟩⟩
  · rw [e]
    exact h
  · rw [e]
    exact releasing_congr h hsrc ((congrArg State.tb hf).trans rfl) ((congrArg (fun s : State => s.ic.hold) hf).trans rfl)
      ((congrArg (fun s : State => s.ic.thresholds) hf).trans rfl) h.2.2.2.2
  · rw [e]
    refine releasing_congr h hsrc ((congrArg State.tb hf).trans rfl) ((congrArg (fun s : State => s.ic.hold) hf).trans rfl)
      ((congrArg (fun s : State => s.ic.thresholds) hf).trans rfl) fun k hk => ?_
    rcases List.mem_cons.1 hk with rfl | hk
    · refine icKey_other fun ht => hne ?_
      rw [icDeliver_processor hd ht]
      exact setHolding_same x.1 _ _
    · exact h.2.2.2.2 k hk

theorem releaseOne_lines {before : Tab (Option Word64)} (n j : Nat) (h : tget (fun _ => false) x.1.ic.lines j = true) :
    tget (fun _ => false) (State.releaseOne before x n).1.ic.lines j = true := by
  rcases releaseOne_cases before x n with e | ⟨_, _, e | ⟨_, e⟩⟩ <;> rw [e]
  · exact h
  · exact icDeliver_lines (x.1.setHolding _ _) n j h
  · exact icDeliver_lines (x.1.setHolding _ _) n j h

theorem deliverable_congr {u : State} {n : Nat} (h1 : u.src n = s.src n) (h2 : u.ic.thresholds = s.ic.thresholds)
    (h3 : tget (fun _ => none) u.ic.holding (n / 16) = tget (fun _ => none) s.ic.holding (n / 16)) (h4 : u.tb = s.tb)
    (h5 : u.ic.hold = s.ic.hold) : u.deliverable n = s.deliverable n := by
  unfold State.deliverable State.icHeld
  rw [h1, h2, h3, h4, h5]

/-- A processor's deliverable source asserts its line when its turn comes. -/
theorem releaseOne_asserts (h : releasing s x) {n : Nat} (hd : s.deliverable n = true) (ht : (s.src n).target < 3)
    (hh : s.ic.hold = false) :
    tget (fun _ => false) (State.releaseOne s.ic.holding x n).1.ic.lines (s.src n).target.toNat = true := by
  obtain ⟨h1, h2, h3, h4, h5⟩ := h
  have hsrc := h1 n ht
  have htn : (x.1.src n).target < 3 := by rw [hsrc]; exact ht
  have hdel : (x.1.setHolding (n / 16) (tget (fun _ => none) s.ic.holding (n / 16))).deliverable n = true := by
    exact (deliverable_congr (u := x.1.setHolding (n / 16) (tget (fun _ => none) s.ic.holding (n / 16))) hsrc h4 (setHolding_same x.1 _ _) h2 (h3.trans hh.symm)).trans hd
  have hkey : x.2.contains (x.1.icKey n) = false := by
    rw [List.contains_eq_mem, decide_eq_false_iff_not]
    intro hm
    have := h5 _ hm
    have := icKey_processor htn
    omega
  have hline : tget (fun _ => false) ((x.1.setHolding (n / 16) (tget (fun _ => none) s.ic.holding (n / 16))).icDeliver n).ic.lines
      (s.src n).target.toNat = true := by
    rw [icDeliver_processor hdel htn, ← hsrc]
    exact tget_tset_same (fun _ => false) x.1.ic.lines _ true
  unfold State.releaseOne
  dsimp only
  rw [if_neg (by rw [hkey, hdel]; decide)]
  split <;> exact hline

/-- Every processor with a deliverable source has its line asserted at the end of the walk. -/
theorem releaseAll_asserts (ns : List Nat) (h : releasing s x) (hh : s.ic.hold = false) {n : Nat}
    (hd : s.deliverable n = true) (ht : (s.src n).target < 3)
    (hn : n ∈ ns ∨ tget (fun _ => false) x.1.ic.lines (s.src n).target.toNat = true) :
    tget (fun _ => false) (ns.foldl (State.releaseOne s.ic.holding) x).1.ic.lines (s.src n).target.toNat = true := by
  induction ns generalizing x with
  | nil => exact hn.elim (fun h => nomatch h) id
  | cons a ns ih =>
    refine ih (releaseOne_releasing h a) ?_
    rcases hn with hn | hn
    · rcases List.mem_cons.1 hn with rfl | hn
      · exact .inr (releaseOne_asserts h hd ht hh)
      · exact .inl hn
    · exact .inr (releaseOne_lines a _ hn)

theorem releaseAll_releasing {before : Tab (Option Word64)} (ns : List Nat) (h : releasing s x) :
    releasing s (ns.foldl (State.releaseOne before) x) := by
  induction ns generalizing x with
  | nil => exact h
  | cons a ns ih => exact ih (releaseOne_releasing h a)

/-- A source that is pending has its place in the delivery order. -/
theorem pending_mem_icOrder {n : Nat} (h : (s.src n).st = .pending) : n ∈ s.icOrder := by
  unfold State.icOrder
  rw [List.mem_flatMap]
  exact ⟨(s.src n).prio.toNat, List.mem_reverse.2 (List.mem_range.2 (s.src n).prio.isLt),
    List.mem_filter.2 ⟨pending_mem h, decide_eq_true rfl⟩⟩

end

/-! ### Register writes to a source -/

theorem withdrawn_meets (v : Src) : v.withdrawn.meets = v.meets := by
  unfold Src.withdrawn
  split <;> rfl

theorem withdrawn_raised_pending {v : Src} (h : v.st = .pending) (t : Word64) :
    v.withdrawn.raised t = { v with stamp := t } := by
  unfold Src.withdrawn
  rw [h]
  change ({ v with st := .pending, stamp := t } : Src) = _
  rw [← h]

section
variable {s : State} {n : SrcNo}

/-- A PENDING that is cleared stays clear when the source's line is not asserted. -/
theorem srcClear_withdraws (hr : s.host.ready = true) (hv : srcReserved n.val = false) (hm : (s.src n.val).meets = false) :
    sourceTurned n.val (s.src n.val).withdrawn s (s.srcClear n) := by
  have hk := sourceTurned_withdraw (s := s) (n := n.val)
  unfold State.srcClear
  rw [if_neg (by rw [hr, hv]; decide)]
  dsimp only
  rw [if_neg (by rw [hk.2.1, withdrawn_meets, hm]; decide)]
  exact hk

/-- A PENDING that is cleared returns when the source's line is asserted (R13). -/
theorem srcClear_returns (hr : s.host.ready = true) (hv : srcReserved n.val = false) (hm : (s.src n.val).meets = true)
    (hp : (s.src n.val).st = .pending) :
    sourceTurned n.val { s.src n.val with stamp := s.tb } s (s.srcClear n) := by
  have hk := sourceTurned_withdraw (s := s) (n := n.val)
  have hw := sourceTurned_raise (s := (s.setSrc n.val (s.src n.val).withdrawn).icLower) (n := n.val) s.tb
  rw [hk.2.1, withdrawn_raised_pending hp] at hw
  unfold State.srcClear
  rw [if_neg (by rw [hr, hv]; decide)]
  dsimp only
  rw [if_pos (by rw [hk.2.1, withdrawn_meets, hm])]
  exact sourceTurned_trans hk hw

/-- Another mode is kept, and raises or withdraws the source by its line (R391). -/
theorem srcSetMode_turns {mode : BitVec 3} (hr : s.host.ready = true) (h9 : n.val < 9) (hl : s.ic.lock = false)
    (h5 : mode < 5) (hne : (s.src n.val).mode ≠ mode) :
    let w : Src := { s.src n.val with mode := mode }
    sourceTurned n.val (if w.meets then w.raised s.tb else w.withdrawn) s (s.srcSetMode n mode) := by
  intro w
  have hset := sourceTurned_set s n.val w
  have hw := hset.2.1
  unfold State.srcSetMode
  rw [if_neg (c := s.host.ready = false ∨ 9 ≤ n.val ∨ s.ic.lock = true ∨ 5 ≤ mode ∨ (s.src n.val).mode = mode) (by
    rw [hr, hl]
    simp only [Bool.true_eq_false, Bool.false_eq_true, false_or, not_or]
    exact ⟨by omega, BitVec.not_le.2 h5, hne⟩)]
  change sourceTurned n.val _ s (if ((s.setSrc n.val w).src n.val).meets then (s.setSrc n.val w).icRaise n.val s.tb
    else ((s.setSrc n.val w).setSrc n.val ((s.setSrc n.val w).src n.val).withdrawn).icLower)
  rw [hw]
  split
  · have hk := sourceTurned_raise (s := s.setSrc n.val w) (n := n.val) s.tb
    rw [hw] at hk
    exact sourceTurned_trans hset hk
  · have hk := sourceTurned_withdraw (s := s.setSrc n.val w) (n := n.val)
    rw [hw] at hk
    exact sourceTurned_trans hset hk

end

/-! ### A claim and a completion (R394) -/

section
variable {s : State} {n : Nat} {k : BitVec 3} {who : IcAgent}

theorem icTarget_lt (h : IcTarget who = some k) : k < 3 := by
  cases who <;> cases h <;> decide

/-- A source in service. -/
def Src.serving (v : Src) : Src := { v with st := .inService }

/-- A state in which a processor has taken a source into service. -/
def served (s : State) (k : BitVec 3) (n : Nat) : State :=
  { s with ic := { s.ic with srcs := tset srcD s.ic.srcs n (s.src n).serving,
                             stamps := tset (fun _ => 0) s.ic.stamps k.toNat (s.src n).stamp } }

theorem served_src_same (s : State) (k : BitVec 3) (n : Nat) :
    (served s k n).src n = (s.src n).serving := tget_tset_same srcD s.ic.srcs n (s.src n).serving

theorem served_src_other (s : State) (k : BitVec 3) {n m : Nat} (h : m ≠ n) : (served s k n).src m = s.src m :=
  tget_tset_other srcD s.ic.srcs (s.src n).serving h

/-- What a claim leaves. -/
def claimed (s : State) (k : BitVec 3) (n : Nat) : State := ((served s k n).icDelivered n).icLower

theorem claimed_frame (s : State) (k : BitVec 3) (n : Nat) : claimed s k n = { s with ic := (claimed s k n).ic } := by
  unfold claimed
  rw [icDelivered_frame]
  rfl

theorem icDelivered_src (s : State) (n m : Nat) : (s.icDelivered n).src m = s.src m := by
  rw [icDelivered_frame]
  rfl

/-- Once a source is served, nothing is deliverable that was not before. -/
theorem served_deliverable (h : s.icHeld n = false) {m : Nat} (hm : ((served s k n).icDelivered n).deliverable m = true) :
    m ≠ n ∧ s.deliverable m = true := by
  have hne : m ≠ n := by
    rintro rfl
    have := deliverable_pending hm
    rw [icDelivered_src, served_src_same] at this
    exact nomatch this
  refine ⟨hne, ?_⟩
  have hheld : s.icHeld m = false := by
    by_contra hc
    have hx : (served s k n).icHeld m = true := Bool.not_eq_false _ ▸ hc
    have := icDelivered_held (s := served s k n) (n := n) h hx
    unfold State.deliverable at hm
    simp [this] at hm
  have hsrc : ((served s k n).icDelivered n).src m = s.src m := (icDelivered_src _ _ _).trans (served_src_other s k hne)
  unfold State.deliverable at hm ⊢
  rw [hsrc] at hm
  rw [icDelivered_frame] at hm
  simp only [Bool.and_eq_true] at hm ⊢
  obtain ⟨⟨⟨⟨h1, h2⟩, h3⟩, _⟩, h5⟩ := hm
  exact ⟨⟨⟨⟨h1, h2⟩, h3⟩, by rw [hheld]; rfl⟩, h5⟩

theorem deliverable_not_held (h : s.deliverable n = true) : s.icHeld n = false := by
  unfold State.deliverable at h
  simp only [Bool.and_eq_true, Bool.not_eq_true'] at h
  exact h.1.2

/-- A claim with something deliverable. -/
theorem icClaim_serves {tm : Word64} (hk : IcTarget who = some k) (hr : (s.at tm).host.ready = true)
    (hb : (s.at tm).icBest k = some n) :
    exec (.icClaim who tm) s = .next ((claimed (s.at tm) k n).send (.claim who (BitVec.ofNat 10 n))) := by
  change execIcClaim who tm s = _
  unfold execIcClaim
  dsimp only
  rw [if_neg (by rw [hr]; decide), hk]
  dsimp only
  rw [hb]
  rfl

/-- A claim with nothing deliverable (R395). -/
theorem icClaim_spurious {tm : Word64} (hk : IcTarget who = some k) (hr : (s.at tm).host.ready = true)
    (hb : (s.at tm).icBest k = none) : exec (.icClaim who tm) s =
      .next { s.at tm with ic := { (s.at tm).ic with spurious := satInc (s.at tm).ic.spurious },
                           out := (s.at tm).out ++ [.claim who 1023] } := by
  change execIcClaim who tm s = _
  unfold execIcClaim
  dsimp only
  rw [if_neg (by rw [hr]; decide), hk]
  dsimp only
  rw [hb]
  rfl

theorem claimed_src (s : State) (k : BitVec 3) (n m : Nat) : (claimed s k n).src m = (served s k n).src m :=
  icDelivered_src (served s k n) n m

theorem claimed_stamp (s : State) (k : BitVec 3) (n : Nat) :
    tget (fun _ => 0) (claimed s k n).ic.stamps k.toNat = (s.src n).stamp := by
  unfold claimed
  rw [icDelivered_frame]
  exact tget_tset_same (fun _ => 0) s.ic.stamps k.toNat (s.src n).stamp

theorem claimed_spurious (s : State) (k : BitVec 3) (n : Nat) : (claimed s k n).ic.spurious = s.ic.spurious := by
  unfold claimed
  rw [icDelivered_frame]
  rfl

/-- The line of a processor falls when the source it claimed was alone. -/
theorem claimed_line (hk : k < 3) (hd : s.deliverable n = true)
    (hlone : ∀ m, m ≠ n → (s.src m).target = k → s.deliverable m = false) :
    tget (fun _ => false) (claimed s k n).ic.lines k.toNat = false := by
  refine icLower_falls (s := (served s k n).icDelivered n) hk (icBest_none fun m hm => ?_)
  by_contra hdel
  obtain ⟨hne, hdel⟩ := served_deliverable (deliverable_not_held hd) (Bool.not_eq_false _ ▸ hdel)
  rw [icDelivered_src, served_src_other s k hne] at hm
  exact Bool.false_ne_true ((hlone m hne hm).symm.trans hdel)

/-- A source in service for a processor completes. -/
theorem icDone_completes {x : BitVec 10} (ht : (s.src x.toNat).target = k) (hn : x ≠ 1023) :
    s.icDone k x = { s with sites := (s.icDone k x).sites, ic := { s.ic with srcs := (s.icDone k x).ic.srcs, sleeping := (s.icDone k x).ic.sleeping } } ∧
    (s.icDone k x).src x.toNat = (s.src x.toNat).completed ∧ ∀ m, m ≠ x.toNat → (s.icDone k x).src m = s.src m := by
  unfold State.icDone
  dsimp only
  rw [if_pos ⟨ht, hn⟩]
  have hset := sourceTurned_set s x.toNat (s.src x.toNat).completed
  split
  · refine ⟨?_, (icWake_src _ _ _).trans hset.2.1, fun m hm => (icWake_src _ _ _).trans (hset.2.2 m hm)⟩
    rw [icWake_frame]
    rfl
  · exact ⟨rfl, hset.2⟩

end

theorem icComplete_ready {s : State} {who : IcAgent} {k : BitVec 3} (hk : IcTarget who = some k)
    (hr : s.host.ready = true) (n : BitVec 10) : exec (.icComplete who n) s = .next (s.icDone k n) := by
  change execIcComplete who n s = _
  unfold execIcComplete
  rw [if_neg (by rw [hr]; decide), hk]

/-! ### Deliveries -/

/-- A source has been delivered: it is IDLE, and its group is held off when it has an interval (R395, R398). -/
def delivered (u : State) (n : Nat) (t : State) : Prop :=
  t = { u with ic := { u.ic with srcs := t.ic.srcs, holding := t.ic.holding }, host := t.host, out := t.out } ∧
  t.host = { u.host with held := t.host.held } ∧
  t.src n = { u.src n with st := .idle } ∧ (∀ m, m ≠ n → t.src m = u.src m) ∧
  (16 ≤ n → tget (fun _ => 0) u.ic.holdoff (n / 16) ≠ 0 → tget (fun _ => none) t.ic.holding (n / 16) =
    some (u.tb + ((tget (fun _ => 0) u.ic.holdoff (n / 16)).setWidth 64) * 100)) ∧
  (tget (fun _ => 0) u.ic.holdoff (n / 16) = 0 → t.ic.holding = u.ic.holding)

section
variable {s : State} {n : Nat}

/-- A source that is delivered falls IDLE, and its interval begins. -/
theorem idled_delivered (s : State) (n : Nat) :
    delivered s n ((s.setSrc n { s.src n with st := .idle }).icDelivered n) := by
  have hset := sourceTurned_set s n { s.src n with st := .idle }
  refine ⟨?_, ?_, (icDelivered_src _ _ _).trans hset.2.1, fun m hm => (icDelivered_src _ _ _).trans (hset.2.2 m hm),
    fun hn h => icDelivered_holds (s := s.setSrc n _) hn h, fun h => ?_⟩
  · rw [icDelivered_frame]
    rfl
  · rw [icDelivered_frame]
    rfl
  · rw [icDelivered_none (s := s.setSrc n _) h]
    rfl

/-- Sending what a delivery sends keeps what it left. -/
theorem delivered_send {t : State} (h : delivered s n t) (o : Out) : delivered s n (t.send o) := by
  obtain ⟨h1, h2, h3, h4, h5, h6⟩ := h
  refine ⟨?_, h2, h3, h4, h5, h6⟩
  conv_lhs => rw [h1]
  rfl

theorem delivered_sendHost {t : State} (h : delivered s n t) (o : Out) : delivered s n (t.sendHost o) := by
  unfold State.sendHost
  split
  · obtain ⟨h1, h2, h3, h4, h5, h6⟩ := h
    refine ⟨?_, ?_, h3, h4, h5, h6⟩
    · conv_lhs => rw [h1]
    · conv_lhs => rw [h2]
  · exact delivered_send h o

end

/-! ### The end of a HOLD -/

/-- Waking several targets touches them alone. -/
theorem icWakes_frame (ns : List Nat) (s : State) : ns.foldl State.icWake s =
    { s with sites := (ns.foldl State.icWake s).sites, ic := { s.ic with sleeping := (ns.foldl State.icWake s).ic.sleeping } } := by
  induction ns generalizing s with
  | nil => rfl
  | cons n ns ih =>
    rw [List.foldl_cons, ih, icWake_frame]

/-- The state in which the sources are walked over: HOLD is 0 and the targets of what waits are awake. -/
def awake (s : State) : State :=
  (({ s with ic := { s.ic with hold := false } } : State).icOrder.filter fun n => decide ((s.src n).st = .pending)).foldl
    State.icWake { s with ic := { s.ic with hold := false } }

theorem awake_frame (s : State) : awake s =
    { s with sites := (awake s).sites, ic := { s.ic with hold := false, sleeping := (awake s).ic.sleeping } } :=
  icWakes_frame _ _

section
variable {s : State}

theorem releaseHold_walks (hr : s.host.ready = true) (hh : s.ic.hold = true) : s.releaseHold =
    ((awake s).icOrder.foldl (State.releaseOne (awake s).ic.holding) (awake s, [])).1 :=
  if_neg (by rw [hr, hh]; decide)

theorem awake_releasing (s : State) : releasing (awake s) (awake s, []) := by
  refine ⟨fun _ _ => rfl, rfl, ?_, rfl, fun k hk => nomatch hk⟩
  rw [awake_frame]

theorem awake_src (s : State) (n : Nat) : (awake s).src n = s.src n := by
  rw [awake_frame]
  rfl

theorem awake_deliverable (s : State) (n : Nat) :
    (awake s).deliverable n = ({ s with ic := { s.ic with hold := false } } : State).deliverable n := by
  rw [awake_frame]
  rfl

/-- With nothing pending the end of a HOLD wakes and delivers nothing. -/
theorem releaseHold_idle (hr : s.host.ready = true) (hh : s.ic.hold = true) (hn : ∀ n, (s.src n).st ≠ .pending) :
    s.releaseHold = { s with ic := { s.ic with hold := false } } := by
  have ha : awake s = { s with ic := { s.ic with hold := false } } := by
    unfold awake
    rw [List.filter_eq_nil_iff.2 fun n _ => by rw [decide_eq_true_eq]; exact hn n]
    rfl
  rw [releaseHold_walks hr hh, ← ha]
  refine congrArg Prod.fst (List.foldlRecOn (motive := fun x => x = (awake s, [])) _ _ rfl fun x hx n _ => ?_)
  rw [hx]
  rcases releaseOne_cases (awake s).ic.holding (awake s, []) n with e | ⟨_, hd, _⟩
  · exact e
  · have hp : ((awake s).src n).st = .pending := deliverable_pending (s := (awake s).setHolding _ _) hd
    exact absurd ((congrArg Src.st (awake_src s n)).symm.trans hp) (hn n)

end

/-! ### The statement -/

/-- Settles O53: the rules of a source's raise, withdrawal and completion, of a delivery, and of the walk at the end of
a HOLD. -/
theorem interruptSources : Obligations.InterruptSources := by
  unfold Obligations.InterruptSources
  refine ⟨?line, ?raise, ?write, ?unready, ?claim, ?delivery, ?holdoff, ?release⟩
  case line =>
    intro s n level tm hl hr
    obtain ⟨x, hx⟩ := at_is s tm
    rw [hx]
    intro u v w ups downs
    have he : exec (.lineFilterChange n level tm) s = execLineFilterChange n level tm s := rfl
    unfold execLineFilterChange at he
    rw [hx] at he
    refine ⟨fun h => ⟨u, he.trans (if_pos (.inr (.inr h))), rfl⟩, fun h1 h2 => ?_⟩
    have he := he.trans (if_neg (by
      rw [hl, hr]
      exact fun h => h.elim (by decide) fun h => h.elim (by decide) fun h => h.elim h1 h2))
    have he := he.trans (lineTurn_cases (u.setSrc n.val w) n level tm v.mode)
    have hw : (u.setSrc n.val w).src n.val = w := State.src_setSrc_same _ _ _
    have hset := sourceTurned_set u n.val w
    rw [hw] at he
    refine ⟨_, he, ?_⟩
    by_cases hu : ups = true
    · rw [if_pos (c := lineUps v.mode level = true) hu]
      have hk := sourceTurned_trans hset (sourceTurned_raise tm)
      rw [hw] at hk
      refine ⟨hk.1, hk.2.1.trans (if_pos hu).symm, hk.2.2, fun _ hi hen ht hh => ?_⟩
      have hp := icRaise_processor (u.setSrc n.val w) n.val tm
      rw [hw] at hp
      exact hp hi hen ht hh
    · have hu' : lineUps v.mode level = false := Bool.eq_false_iff.2 hu
      rw [hu', if_neg Bool.false_ne_true]
      by_cases hd : downs = true
      · rw [if_pos (c := lineDowns v.mode level = true) hd]
        have hk := sourceTurned_trans hset sourceTurned_withdraw
        rw [hw] at hk
        exact ⟨hk.1, hk.2.1.trans ((if_neg hu).trans (if_pos hd)).symm, hk.2.2, fun h => absurd h hu⟩
      · have hd' : lineDowns v.mode level = false := Bool.eq_false_iff.2 hd
        rw [hd', if_neg Bool.false_ne_true]
        exact ⟨hset.1, hset.2.1.trans ((if_neg hu).trans (if_neg hd)).symm, hset.2.2, fun h => absurd h hu⟩
  case raise =>
    intro s n b tm
    obtain ⟨x, hx⟩ := at_is s tm
    rw [hx]
    intro u o ok
    have he : exec (.raise n b tm) s = execRaise n b tm s := rfl
    unfold execRaise at he
    rw [hx] at he
    have hok : (srcIsLine n.toNat = true ∨ srcReserved n.toNat = true ∨ s.mayRaise o n.toNat = false) ↔ ok = false := by
      simp only [ok, Bool.and_eq_false_iff, Bool.not_eq_false']
      tauto
    have ho : (match b with | some b => (u.bell b).owner | none => none) = o := by cases b <;> rfl
    refine ⟨fun hd => ⟨u, he.trans (if_pos hd), rfl⟩, fun hd hk => ⟨u.icDrop, ?_, rfl⟩, fun hd hk => ⟨u.icRaise n.toNat tm, ?_,
      fun m hm => icRaise_src_other u _ tm hm, icRaise_frame u _ tm, icRaise_src_same u _ tm⟩⟩
    · refine he.trans ((if_neg (Bool.eq_false_iff.1 hd)).trans (if_pos ?_))
      cases b <;> exact hok.2 hk
    · refine he.trans ((if_neg (Bool.eq_false_iff.1 hd)).trans (if_neg fun h => ?_))
      have : ok = false := by cases b <;> exact hok.1 h
      exact Bool.false_ne_true (this.symm.trans hk)
  case write =>
    intro s acc n tm mode v fr
    obtain ⟨x, hx⟩ := at_is s tm
    have hraise : exec (.srcRaiseWrite acc n tm) s = .next ((s.at tm).srcRaise n) := rfl
    have hclear : exec (.srcPendingClear acc n) s = .next (s.srcClear n) := rfl
    have hmode : exec (.srcModeWrite acc n mode) s = .next (s.srcSetMode n mode) := rfl
    rw [hx] at hraise ⊢
    have hfr {r t : State} {v : Src} (h : sourceTurned n.val v r t) (hr : ∀ m, r.src m = s.src m) : fr r t :=
      ⟨fun m hm => (h.2.2 m hm).trans (hr m), h.1⟩
    refine ⟨fun hr hl hv => ⟨_, hraise, ?_⟩, fun h => ⟨_, hraise, if_pos ?_⟩, fun hr hv => ⟨fun hm => ⟨_, hclear, ?_⟩,
      fun hm hp => ⟨_, hclear, ?_⟩⟩, fun hr h9 hk h5 hne => ⟨_, hmode, ?_⟩, fun h => ⟨_, hmode, if_pos (by tauto)⟩⟩
    · have e : ({ s with tb := x } : State).srcRaise n = ({ s with tb := x } : State).icRaise n.val x :=
        if_neg (by rw [hl, hv]; simp [hr])
      have hk := sourceTurned_raise (s := { s with tb := x }) (n := n.val) x
      rw [e]
      exact ⟨hfr hk fun _ => rfl, hk.2.1⟩
    · exact h
    · have hk := srcClear_withdraws hr hv hm
      exact ⟨hfr hk fun _ => rfl, hk.2.1⟩
    · have hk := srcClear_returns hr hv hm hp
      exact ⟨hfr hk fun _ => rfl, hk.2.1⟩
    · have hk := srcSetMode_turns hr h9 hk h5 hne
      exact ⟨hfr hk fun _ => rfl, hk.2.1⟩
  case unready =>
    intro s who n tm hr
    obtain ⟨x, hx⟩ := at_is s tm
    have he : exec (.icClaim who tm) s = execIcClaim who tm s := rfl
    unfold execIcClaim at he
    rw [hx] at he ⊢
    exact ⟨⟨_, he.trans (if_pos hr), rfl⟩, s, if_pos hr, rfl⟩
  case claim =>
    intro s who k tm hk hr
    obtain ⟨x, hx⟩ := at_is s tm
    intro u
    have hu : s.at tm = u := rfl
    rw [hx] at hu
    clear_value u
    subst hu
    have hr' : (s.at tm).host.ready = true := by rw [hx]; exact hr
    refine ⟨fun n hd ht hbest => ?_, fun hnone => ?_, fun n => ⟨fun ht hn => ?_, fun ht => ?_⟩⟩
    · have hc := icClaim_serves hk hr' (by rw [hx]; exact icBest_some hd ht hbest)
      rw [hx] at hc
      refine ⟨_, hc, ?_, (claimed_src _ k n n).trans (served_src_same _ k n),
        fun m hm => (claimed_src _ k n m).trans (served_src_other _ k hm), claimed_stamp _ k n, claimed_spurious _ k n,
        claimed_line (icTarget_lt hk) hd⟩
      rw [State.send, claimed_frame]
    · have hc := icClaim_spurious hk hr' (by rw [hx]; exact icBest_none hnone)
      rw [hx] at hc
      exact ⟨_, hc, rfl⟩
    · exact ⟨_, (icComplete_ready hk hr n).trans rfl, icDone_completes ht hn⟩
    · exact ⟨_, (icComplete_ready hk hr n).trans (congrArg _ (if_neg fun h => ht h.1)), rfl⟩
  case delivery =>
    intro s n tm
    obtain ⟨x, hx⟩ := at_is s tm
    have he : exec (.interruptDelivery n tm) s = .next ((s.at tm).icDeliver n.val) := rfl
    rw [hx] at he ⊢
    intro u v sent
    have hsent {t : State} (h : delivered u n.val t) : sent t := h
    refine ⟨fun hd => ⟨_, he, icDeliver_not hd⟩, fun hd => ⟨fun ht => ⟨_, he, ?_⟩, fun k ht hm hk => ⟨_, he, ?_⟩,
      fun ht hl => ⟨_, he, ?_⟩⟩⟩
    · rw [icDeliver_processor hd ht]
      exact ⟨rfl, tget_tset_same (fun _ => false) u.ic.lines (u.src n.val).target.toNat true⟩
    · rw [icDeliver_core hd ht hm hk]
      refine ⟨hsent (delivered_send (idled_delivered u n.val) _), ?_, ?_⟩
      · rw [icDelivered_frame]
        rfl
      · rw [icDelivered_frame]
        rfl
    · rw [icDeliver_host hd ht hl]
      refine ⟨hsent (delivered_sendHost (idled_delivered u n.val) _), ?_⟩
      obtain ⟨h1, h2⟩ := (sendHost_wrote ((u.setSrc n.val { u.src n.val with st := .idle }).icDelivered n.val)
        (.hostMsg (xor (u.ring ⟨(n.val - 512) % 256, by omega⟩).port (u.ring ⟨(n.val - 512) % 256, by omega⟩).moved)
          (u.ring ⟨(n.val - 512) % 256, by omega⟩).msgAddr (u.ring ⟨(n.val - 512) % 256, by omega⟩).msgData)).1
      have hh : ((u.setSrc n.val { u.src n.val with st := .idle }).icDelivered n.val).host = u.host := by
        rw [icDelivered_frame]
        rfl
      have ho : ((u.setSrc n.val { u.src n.val with st := .idle }).icDelivered n.val).out = u.out := by
        rw [icDelivered_frame]
        rfl
      rw [hh, ho] at h1 h2
      exact ⟨h1, h2⟩
  case holdoff =>
    intro s g tm e hg
    obtain ⟨x, hx⟩ := at_is s tm
    have he : exec (.holdoffEnd g tm) s = execHoldoffEnd g tm s := rfl
    unfold execHoldoffEnd at he
    rw [hx] at he ⊢
    intro u
    dsimp only at he
    rw [hg] at he
    refine ⟨fun hle => ⟨_, he.trans (if_pos hle), rfl, ?_, fun k hk => ?_⟩, fun hlt => ⟨_, he.trans (if_neg (BitVec.not_le.2 hlt)), rfl⟩⟩
    · exact tget_tset_same (fun _ => none) s.ic.holding g.toNat none
    · exact tget_tset_other (fun _ => none) s.ic.holding none hk
  case release =>
    intro s acc hr hh
    have he : exec (.icHoldRelease acc) s = .next s.releaseHold := rfl
    refine ⟨⟨_, he, ?_, ?_⟩, fun hn => ⟨_, he, ?_⟩⟩
    · rw [releaseHold_walks hr hh]
      exact (releaseAll_releasing _ (awake_releasing s)).2.2.1
    · intro n hd ht
      have hd := (awake_deliverable s n).trans hd
      rw [releaseHold_walks hr hh, ← awake_src s n]
      rw [← awake_src s n] at ht
      exact releaseAll_asserts _ (awake_releasing s) (by rw [awake_frame]) hd ht
        (.inl (pending_mem_icOrder (deliverable_pending hd)))
    · exact releaseHold_idle hr hh hn

end Sys2Proof.Machine
end

section
/-!
PROOF. Copies that fail (R113, R114, R184).
-/

namespace Sys2Proof.Machine

/-! ### Bytes written one by one -/

/-- A byte after a write: the one written there, or the one before. -/
theorem tget_tput (d : Nat → Byte) (m : Tab Byte) (k : Nat) (bs : List Byte) (i : Nat) :
    tget d (tput d m k bs) i = if k ≤ i then bs[i - k]?.getD (tget d m i) else tget d m i := by
  induction bs generalizing m k with
  | nil => simp [tput]
  | cons b bs ih =>
    rw [tput, ih]
    rcases Nat.lt_trichotomy i k with h | rfl | h
    · rw [if_neg (by omega), if_neg (by omega), tget_tset_other d m b (by omega)]
    · rw [if_neg (by omega), if_pos le_rfl, tget_tset_same, Nat.sub_self]
      rfl
    · rw [if_pos (by omega), if_pos (by omega), tget_tset_other d m b (by omega),
        show i - k = (i - (k + 1)) + 1 by omega, List.getElem?_cons_succ]

theorem tbytes_getElem? (d : Nat → Byte) (m : Tab Byte) (k n j : Nat) :
    (tbytes d m k n)[j]? = if j < n then some (tget d m (k + j)) else none := by
  induction n generalizing k j with
  | zero => rfl
  | succ n ih =>
    cases j with
    | zero => exact (if_pos (Nat.succ_pos n)).symm
    | succ j =>
      rw [tbytes, List.getElem?_cons_succ, ih, show k + 1 + j = k + (j + 1) by omega]
      simp only [Nat.succ_lt_succ_iff]

@[simp] theorem tbytes_length (d : Nat → Byte) (m : Tab Byte) (k n : Nat) : (tbytes d m k n).length = n := by
  induction n generalizing k with
  | zero => rfl
  | succ n ih => exact congrArg (· + 1) (ih (k + 1))

/-- The words of a payload with the places in L, written from place a on. -/
def putPlaces (d : Nat → Byte) (a : Nat) (bs : List Byte) (L : List Nat) (m : Tab Byte) : Tab Byte :=
  L.foldl (fun m i => tput d m (a + 8 * i) ((bs.drop (8 * i)).take 8)) m

theorem tget_putPlaces (d : Nat → Byte) (a : Nat) (bs : List Byte) (L : List Nat) (m : Tab Byte) (j : Nat) :
    tget d (putPlaces d a bs L m) (a + j) = if j / 8 ∈ L then bs[j]?.getD (tget d m (a + j)) else tget d m (a + j) := by
  induction L generalizing m with
  | nil => rfl
  | cons i L ih =>
    have hone : tget d (tput d m (a + 8 * i) ((bs.drop (8 * i)).take 8)) (a + j) =
        if j / 8 = i then bs[j]?.getD (tget d m (a + j)) else tget d m (a + j) := by
      rw [tget_tput]
      by_cases h : j / 8 = i
      · rw [if_pos h, if_pos (by omega), List.getElem?_take_of_lt (by omega), List.getElem?_drop]
        congr 2
        omega
      · rw [if_neg h]
        split
        · rw [List.getElem?_eq_none (by rw [List.length_take]; omega)]
          rfl
        · rfl
    refine (ih _).trans ?_
    rw [hone]
    by_cases hi : j / 8 = i
    · simp only [hi, List.mem_cons, true_or, if_true]
      split
      · cases bs[j]? <;> rfl
      · rfl
    · simp only [hi, List.mem_cons, false_or, if_false]

theorem tget_putPlaces_before (d : Nat → Byte) (a : Nat) (bs : List Byte) (L : List Nat) (m : Tab Byte) {x : Nat}
    (h : x < a ∨ a + bs.length ≤ x) : tget d (putPlaces d a bs L m) x = tget d m x := by
  induction L generalizing m with
  | nil => rfl
  | cons i L ih =>
    refine (ih _).trans (tget_tput_other _ ?_)
    rw [List.length_take, List.length_drop]
    omega

/-! ### What a copy leaves in its site (R104, R113) -/

theorem sillGone_frame (c : Site) (i : Nat) :
    c.sillGone i = { c with sill := (c.sillGone i).sill, sillFree := (c.sillGone i).sillFree } := rfl

theorem sillDone_frame (c : Site) (a : Nat) :
    c.sillDone a = { c with sill := (c.sillDone a).sill, sillFree := (c.sillDone a).sillFree } := by
  unfold Site.sillDone
  dsimp only
  split <;> rfl

/-- A site from whose queue q flight i has gone. -/
def flightGone (c : Site) (q : Fin 4) (i : Nat) (f : CopyFlight) : Site :=
  let k := c.queue q
  let c := c.setQueue q { k with flight := k.flight.eraseIdx i }
  if f.desc.srcKind = 2 then c.sillDone f.desc.src.toNat else c

/-- A site whose queue q halts with a code and a tag, if it has not halted. -/
def haltQueue (q : Fin 4) (code : BitVec 4) (tag : Word32) (c : Site) : Site :=
  let k := c.queue q
  c.setQueue q (if k.halted then k else { k with halted := true, err := code, errTag := tag })

/-- A site whose flight i of queue q has failed. -/
def flightFailed (c : Site) (q : Fin 4) (i : Nat) (f : CopyFlight) (code : BitVec 4) : Site :=
  haltQueue q code f.desc.tag (flightGone c q i f)

section
variable (c : Site) (q : Fin 4) (i : Nat) (f : CopyFlight) (code : BitVec 4)

theorem flightGone_frame : flightGone c q i f =
    { c with queues := (flightGone c q i f).queues, sill := (flightGone c q i f).sill, sillFree := (flightGone c q i f).sillFree } := by
  unfold flightGone
  dsimp only
  split
  · rw [sillDone_frame]
    rfl
  · rfl

theorem flightGone_queues : (flightGone c q i f).queues =
    (c.setQueue q { c.queue q with flight := (c.queue q).flight.eraseIdx i }).queues := by
  unfold flightGone
  dsimp only
  split
  · rw [sillDone_frame]
  · rfl

theorem flightGone_queue : (flightGone c q i f).queue q = { c.queue q with flight := (c.queue q).flight.eraseIdx i } := by
  unfold Site.queue
  rw [flightGone_queues]
  exact Site.queue_setQueue_same c q _

theorem flightGone_queue_other {p : Fin 4} (h : p ≠ q) : (flightGone c q i f).queue p = c.queue p := by
  unfold Site.queue
  rw [flightGone_queues]
  exact Site.queue_setQueue_other c _ h

theorem flightFailed_frame : flightFailed c q i f code =
    { c with queues := (flightFailed c q i f code).queues, sill := (flightFailed c q i f code).sill,
             sillFree := (flightFailed c q i f code).sillFree } := by
  unfold flightFailed haltQueue
  dsimp only
  rw [flightGone_frame]
  rfl

theorem flightFailed_halted : ((flightFailed c q i f code).queue q).halted = true := by
  unfold flightFailed haltQueue
  dsimp only
  rw [Site.queue_setQueue_same]
  split
  · assumption
  · rfl

theorem flightFailed_queue (h : (c.queue q).halted = false) : (flightFailed c q i f code).queue q =
    { c.queue q with flight := (c.queue q).flight.eraseIdx i, halted := true, err := code, errTag := f.desc.tag } := by
  unfold flightFailed haltQueue
  dsimp only
  rw [Site.queue_setQueue_same, flightGone_queue]
  exact if_neg (c := (c.queue q).halted = true) (by rw [h]; decide)

theorem flightFailed_queue_other {p : Fin 4} (h : p ≠ q) : (flightFailed c q i f code).queue p = c.queue p := by
  unfold flightFailed
  exact (Site.queue_setQueue_other _ _ h).trans (flightGone_queue_other c q i f h)

end

/-! ### A flight leaves and fails (R113, R199, R208) -/

section
variable (s : State) (n : SiteNo) (q : Fin 4) (i : Nat) (f : CopyFlight)

theorem leaveTxn_frame (r : Fin 64) (t : BitVec 10) : s.leaveTxn r t = { s with fab := (s.leaveTxn r t).fab } := by
  unfold State.leaveTxn
  dsimp only
  split <;> rfl

/-- A flight that leaves takes what it awaited from the fabric, and itself from its site. -/
theorem leaveFlight_eq : ∃ fab, s.leaveFlight n q i f =
      ({ s with fab := fab } : State).modSite n (fun c => flightGone c q i f) ∧ (f.txn = none → fab = s.fab) := by
  unfold State.leaveFlight
  dsimp only
  split
  · rename_i t ht
    rw [leaveTxn_frame]
    exact ⟨_, rfl, fun h => nomatch ht.symm.trans h⟩
  · exact ⟨s.fab, rfl, fun _ => rfl⟩

end

/-- The site of a copy that failed with an uncorrectable word of its source also counts it. -/
def sourceCounted (c : Site) (d : CopyDesc) (code : BitVec 4) : Site :=
  if code = 6 ∧ d.srcKind = 2 then { c with sillEcc := eccUncorrectable c.sillEcc }
  else if code = 6 ∧ d.srcKind = 0 then ({ c with wsEcc := eccUncorrectable c.wsEcc } : Site).stop
  else c

/-- What a failed copy's code leaves at the source's store: only the counters of the site, its sequencer and the log
differ. -/
def sourceTold (s : State) (n : SiteNo) (d : CopyDesc) (code : BitVec 4) (moved : Nat) : State :=
  if code = 6 ∧ d.srcKind = 2 then
    (s.modSite n fun c => { c with sillEcc := eccUncorrectable c.sillEcc }).fault 0x000B (some n)
      (BitVec.ofNat 32 (d.src.toNat / 4194304 % 64)) (BitVec.ofNat 64 (d.src.toNat % 4194304))
  else if code = 6 ∧ d.srcKind = 0 then s.wsLost n d.src.toNat
  else if code = 6 ∧ d.srcKind = 6 then
    s.hostAuthFail (s.site n).hamlet (d.src + BitVec.ofNat 64 (moved / 4096 * 4160))
  else s

section
variable (s : State) (n : SiteNo)

theorem hostAuthFail_log (o : Option HamletNo) (addr : Word64) :
    siteAndLog n s (s.hostAuthFail o addr) ∧ (s.hostAuthFail o addr).site n = s.site n := by
  unfold State.hostAuthFail
  split
  · split
    · exact ⟨⟨rfl, fun _ _ => rfl⟩, rfl⟩
    · exact ⟨⟨rfl, fun _ _ => rfl⟩, rfl⟩
  · exact ⟨⟨rfl, fun _ _ => rfl⟩, rfl⟩

theorem sourceTold_log (d : CopyDesc) (code : BitVec 4) (moved : Nat) : siteAndLog n s (sourceTold s n d code moved) ∧
    (sourceTold s n d code moved).site n = sourceCounted (s.site n) d code := by
  unfold sourceTold sourceCounted
  split
  · exact ⟨siteAndLog_trans (onlySite_siteAndLog (onlySite_modSite s n _)) ⟨rfl, fun _ _ => rfl⟩,
      State.site_modSite_same s n fun c => { c with sillEcc := eccUncorrectable c.sillEcc }⟩
  · split
    · exact ⟨wsLost_siteAndLog _, (hwFault_site _ n _ _ _).trans (congrArg Site.stop (State.site_modSite_same s n _))⟩
    · split
      · exact hostAuthFail_log s n _ _
      · exact ⟨⟨rfl, fun _ _ => rfl⟩, rfl⟩

theorem sourceTold_other {code : BitVec 4} (h : code ≠ 6) (d : CopyDesc) (moved : Nat) : sourceTold s n d code moved = s := by
  unfold sourceTold
  rw [if_neg fun e => h e.1, if_neg fun e => h e.1, if_neg fun e => h e.1]

end

/-- A counted source differs in its counters and its sequencer. -/
theorem sourceCounted_frame (c : Site) (d : CopyDesc) (code : BitVec 4) : sourceCounted c d code =
    { c with sillEcc := (sourceCounted c d code).sillEcc, wsEcc := (sourceCounted c d code).wsEcc,
             seq := (sourceCounted c d code).seq } := by
  unfold sourceCounted
  split
  · rfl
  · split
    · unfold Site.stop
      split <;> rfl
    · rfl

theorem sourceCounted_seq (c : Site) (d : CopyDesc) {code : BitVec 4} (h : c.seq ≠ .idle) :
    (sourceCounted c d code).stop.seq = .stopped := by
  unfold sourceCounted
  split
  · exact congrArg Site.seq (if_neg h)
  · split
    · have h1 : ({ c with wsEcc := eccUncorrectable c.wsEcc } : Site).stop.seq = .stopped := congrArg Site.seq (if_neg h)
      exact congrArg Site.seq (if_neg (by rw [h1]; decide))
    · exact congrArg Site.seq (if_neg h)

section
variable {s : State} {n : SiteNo} {q : Fin 4} {i : Nat} {f : CopyFlight}

/-- A copy that fails: its flight leaves, its queue halts, its source's store counts what it must, and the fault is
told. -/
theorem copyFail_eq (hf : (s.site n).flightAt q i = some f) (code : BitVec 4) (parity : Bool) :
    ∃ fab, (f.txn = none → fab = s.fab) ∧
      let u := sourceTold ((({ s with fab := fab } : State).modSite n fun c => flightGone c q i f).modSite n
        (haltQueue q code f.desc.tag)) n f.desc code f.moved
      ∃ detail addr, s.copyFail n q i code parity = if parity then u.report 0x0006 (some n) detail addr
        else u.hwFault n 0x000F detail addr := by
  obtain ⟨fab, hl, ht⟩ := leaveFlight_eq s n q i f
  refine ⟨fab, ht, ?_⟩
  unfold State.copyFail
  rw [hf]
  dsimp only
  rw [hl]
  cases parity
  · exact ⟨_, _, rfl⟩
  · exact ⟨_, _, rfl⟩

/-- What a failed copy leaves of its site. -/
theorem copyFail_site (hf : (s.site n).flightAt q i = some f) (code : BitVec 4) (parity : Bool) :
    (s.copyFail n q i code parity).site n =
      let c := sourceCounted (flightFailed (s.site n) q i f code) f.desc code
      if parity then c else c.stop := by
  obtain ⟨fab, _, detail, addr, h⟩ := copyFail_eq hf code parity
  have hu := (sourceTold_log ((({ s with fab := fab } : State).modSite n fun c => flightGone c q i f).modSite n
    (haltQueue q code f.desc.tag)) n f.desc code f.moved).2
  rw [State.site_modSite_same, State.site_modSite_same] at hu
  rw [h]
  cases parity
  · exact (hwFault_site _ n _ _ _).trans (congrArg Site.stop hu)
  · exact hu

/-- Beside the site and the log a failed copy leaves everything but the request it awaited. -/
theorem copyFail_frame (hf : (s.site n).flightAt q i = some f) (code : BitVec 4) (parity : Bool) :
    ∃ fab, (f.txn = none → fab = s.fab) ∧ siteAndLog n { s with fab := fab } (s.copyFail n q i code parity) := by
  obtain ⟨fab, ht, detail, addr, h⟩ := copyFail_eq hf code parity
  refine ⟨fab, ht, ?_⟩
  have hm := siteAndLog_trans (siteAndLog_trans
    (onlySite_siteAndLog (onlySite_modSite { s with fab := fab } n fun c => flightGone c q i f))
    (onlySite_siteAndLog (onlySite_modSite _ n (haltQueue q code f.desc.tag)))) (sourceTold_log _ n f.desc code f.moved).1
  rw [h]
  cases parity
  · exact siteAndLog_trans hm (hwFault_siteAndLog _ n _ _ _)
  · exact siteAndLog_trans hm ⟨rfl, fun _ _ => rfl⟩

/-- A record and a report, whatever the sites and the fabric. -/
theorem hwFault_told {s u : State} (h : u.flt = s.flt) (n : SiteNo) (cls : BitVec 16) (detail : Word32) (addr : Word64) :
    logged s (u.hwFault n cls detail addr) cls ∧ told s (u.hwFault n cls detail addr) cls (some n) := by
  unfold logged told
  rw [← h]
  exact ⟨report_logged (u.modSite n Site.stop) _ _ _ _, report_told (u.modSite n Site.stop) _ _ _ _⟩

theorem report_both {s u : State} (h : u.flt = s.flt) (n : SiteNo) (cls : BitVec 16) (detail : Word32) (addr : Word64) :
    logged s (u.report cls (some n) detail addr) cls ∧ told s (u.report cls (some n) detail addr) cls (some n) := by
  unfold logged told
  rw [← h]
  exact ⟨report_logged u _ _ _ _, report_told u _ _ _ _⟩

/-- The fault is recorded and told once, when the source's store has nothing of its own to tell. -/
theorem copyFail_told (hf : (s.site n).flightAt q i = some f) {code : BitVec 4} (hc : code ≠ 6) (parity : Bool) :
    let cls : BitVec 16 := if parity then 0x0006 else 0x000F
    logged s (s.copyFail n q i code parity) cls ∧ told s (s.copyFail n q i code parity) cls (some n) := by
  obtain ⟨fab, _, h⟩ := copyFail_eq hf code parity
  rw [sourceTold_other _ _ hc] at h
  have hu : ((({ s with fab := fab } : State).modSite n fun c => flightGone c q i f).modSite n
    (haltQueue q code f.desc.tag)).flt = s.flt := rfl
  generalize (({ s with fab := fab } : State).modSite n fun c => flightGone c q i f).modSite n
    (haltQueue q code f.desc.tag) = u at h hu
  obtain ⟨detail, addr, h⟩ := h
  rw [h]
  cases parity
  · exact hwFault_told hu n _ detail addr
  · exact report_both hu n _ detail addr

/-- A failed copy's queues, and what of its site it does not touch. -/
theorem copyFail_queues (hf : (s.site n).flightAt q i = some f) (code : BitVec 4) (parity : Bool) :
    let c := (s.copyFail n q i code parity).site n
    c.queue q = (flightFailed (s.site n) q i f code).queue q ∧ (∀ p, p ≠ q → c.queue p = (s.site n).queue p) ∧
    c.toks = (s.site n).toks ∧ c.ws = (s.site n).ws ∧ c.gran = (s.site n).gran := by
  intro c
  have hs (x : Site) : x.stop = { x with seq := x.stop.seq } := by
    unfold Site.stop
    split <;> rfl
  have hc : ∃ se we sq, c = { flightFailed (s.site n) q i f code with sillEcc := se, wsEcc := we, seq := sq } := by
    have h := copyFail_site hf code parity
    dsimp only at h
    rw [sourceCounted_frame] at h
    cases parity
    · exact ⟨_, _, _, h.trans (hs _)⟩
    · exact ⟨_, _, _, h⟩
  obtain ⟨se, we, sq, hc⟩ := hc
  have hp (p : Fin 4) : c.queue p = (flightFailed (s.site n) q i f code).queue p := by rw [hc]; rfl
  refine ⟨hp q, fun p hpq => (hp p).trans (flightFailed_queue_other _ _ _ _ _ hpq), ?_, ?_, ?_⟩ <;>
    rw [hc, flightFailed_frame]

end

/-! ### Bytes that a local copy moves within the working store -/

/-- Only the working store of site n may differ, and it is W. -/
def wsBecomes (n : SiteNo) (W : Tab Byte) (s t : State) : Prop :=
  onlySite n s t ∧ t.site n = { s.site n with ws := W }

section
variable {s t u : State} {n : SiteNo} {d : CopyDesc} {W V : Tab Byte}

theorem wsBecomes_refl (s : State) (n : SiteNo) : wsBecomes n (s.site n).ws s s := ⟨⟨rfl, fun _ _ => rfl⟩, rfl⟩

theorem wsBecomes_trans (h : wsBecomes n W s t) (k : wsBecomes n V t u) : wsBecomes n V s u := by
  obtain ⟨⟨h1, h2⟩, h3⟩ := h
  obtain ⟨⟨k1, k2⟩, k3⟩ := k
  exact ⟨⟨by rw [k1, h1], fun m hm => (k2 m hm).trans (h2 m hm)⟩, by rw [k3, h3]⟩

theorem wsBecomes_copyWrite (hd : d.dstKind = 0) (s : State) (n : SiteNo) (a : Nat) (bs : List Byte) :
    wsBecomes n (tput (fun _ => 0) (s.site n).ws a bs) s (s.copyWrite n d a bs) := by
  unfold State.copyWrite
  rw [hd]
  exact ⟨onlySite_modSite s n _, State.site_modSite_same s n fun c => c.wsWrite a bs⟩

theorem copyRead_ws (hs : d.srcKind = 0) (c : Site) (data : List Byte) (m a len : Nat) :
    c.copyRead d data m a len = tbytes (fun _ => 0) c.ws a len := by
  unfold Site.copyRead Site.localRead
  rw [if_neg (by rw [hs]; decide), hs]
  rfl

/-- A descriptor of one row, within the row. -/
theorem place_line (h2 : d.twoD = false) {m : Nat} (hm : m < d.length.toNat) :
    d.place m = (d.src.toNat + m, d.dst.toNat + m, d.length.toNat - m) := by
  unfold CopyDesc.place
  simp only [h2, Bool.false_eq_true, if_false, Nat.add_zero, Nat.mod_eq_of_lt hm]

/-- The first bytes of a copy of one row, moved within the working store. -/
theorem moveRows_line (hs : d.srcKind = 0) (hd : d.dstKind = 0) (h2 : d.twoD = false) {stop : Nat}
    (hl : stop ≤ d.length.toNat) (data : List Byte) :
    wsBecomes n (tput (fun _ => 0) (s.site n).ws d.dst.toNat (tbytes (fun _ => 0) (s.site n).ws d.src.toNat stop)) s
      (s.moveRows n d data stop 1 0) := by
  unfold State.moveRows
  split
  · rename_i h
    rw [Nat.le_zero.1 h]
    exact wsBecomes_refl s n
  · rename_i h
    rw [place_line h2 (by omega)]
    dsimp only
    rw [copyRead_ws hs, State.moveRows, Nat.add_zero, Nat.add_zero, Nat.sub_zero, Nat.sub_zero, Nat.min_eq_right hl]
    exact wsBecomes_copyWrite hd s n _ _

/-- The words of a payload that passed, written within the working store. -/
theorem putWords_ws (hd : d.dstKind = 0) (s : State) (bs : List Byte) (bad : List Nat) (a : Nat) : ∃ W,
    wsBecomes n W s (s.putWords bs bad fun s o w => s.copyWrite n d (a + o) w) ∧
    (∀ j, j < bs.length → tget (fun _ => 0) W (a + j) =
      if j / 8 ∉ bad then bs[j]?.getD 0 else tget (fun _ => 0) (s.site n).ws (a + j)) ∧
    ∀ x, x < a ∨ a + bs.length ≤ x → tget (fun _ => 0) W x = tget (fun _ => 0) (s.site n).ws x := by
  unfold State.putWords
  split
  · rename_i h
    refine ⟨_, wsBecomes_copyWrite hd s n _ _, fun j hj => ?_, fun x hx => tget_tput_other _ (by simpa using hx)⟩
    rw [tget_tput, if_pos (by omega), h, if_pos (by simp), show a + j - (a + 0) = j by omega,
      List.getElem?_eq_getElem hj]
    rfl
  · refine ⟨putPlaces (fun _ => 0) a bs ((List.range ((bs.length + 7) / 8)).filter fun i => !bad.contains i)
      (s.site n).ws, ?_, fun j hj => ?_, fun x hx => tget_putPlaces_before _ _ _ _ _ hx⟩
    · unfold goodWords putPlaces
      rw [List.foldl_map]
      induction (List.range ((bs.length + 7) / 8)).filter fun i => !bad.contains i generalizing s with
      | nil => exact wsBecomes_refl s n
      | cons i L ih =>
        have h1 := wsBecomes_copyWrite hd s n (a + 8 * i) ((bs.drop (8 * i)).take 8)
        have h2 := ih (s.copyWrite n d (a + 8 * i) ((bs.drop (8 * i)).take 8))
        rw [h1.2] at h2
        exact wsBecomes_trans h1 h2
    · rw [tget_putPlaces]
      have hm : j / 8 ∈ (List.range ((bs.length + 7) / 8)).filter (fun i => !bad.contains i) ↔ j / 8 ∉ bad := by
        rw [List.mem_filter, List.mem_range, Bool.not_eq_true', List.contains_eq_mem, decide_eq_false_iff_not]
        exact ⟨fun h => h.2, fun h => ⟨by omega, h⟩⟩
      simp only [hm]
      split
      · rw [List.getElem?_eq_getElem hj]
        rfl
      · rfl

/-- A copy of one row within the working store whose packet failed its check: what was moved before it, and its words
that passed (R184). -/
theorem moveParity_line {b : BadPacket} (hs : d.srcKind = 0) (hd : d.dstKind = 0) (h2 : d.twoD = false)
    (hb : b.at_ + b.span ≤ d.length.toNat)
    (hdis : d.dst.toNat + d.length.toNat ≤ d.src.toNat ∨ d.src.toNat + d.length.toNat ≤ d.dst.toNat) (data : List Byte) :
    ∃ W, wsBecomes n W s ((s.moveRows n d data b.at_ 1 0).moveGood n d b) ∧
      (∀ k, k < d.length.toNat → tget (fun _ => 0) W (d.dst.toNat + k) =
        if k < b.at_ ∨ (k < b.at_ + b.span ∧ (k - b.at_) / 8 ∉ b.bad) then
          tget (fun _ => 0) (s.site n).ws (d.src.toNat + k)
        else tget (fun _ => 0) (s.site n).ws (d.dst.toNat + k)) ∧
      ∀ a, a < d.dst.toNat ∨ d.dst.toNat + d.length.toNat ≤ a →
        tget (fun _ => 0) W a = tget (fun _ => 0) (s.site n).ws a := by
  have h1 := moveRows_line (s := s) (n := n) hs hd h2 (stop := b.at_) (by omega) data
  generalize s.moveRows n d data b.at_ 1 0 = s1 at h1
  have hV (x : Nat) : tget (fun _ => 0) (tput (fun _ => 0) (s.site n).ws d.dst.toNat
      (tbytes (fun _ => 0) (s.site n).ws d.src.toNat b.at_)) x =
      if d.dst.toNat ≤ x ∧ x < d.dst.toNat + b.at_ then tget (fun _ => 0) (s.site n).ws (d.src.toNat + (x - d.dst.toNat))
      else tget (fun _ => 0) (s.site n).ws x := by
    rw [tget_tput]
    by_cases hx : d.dst.toNat ≤ x
    · rw [if_pos hx, tbytes_getElem?]
      by_cases hl : x < d.dst.toNat + b.at_
      · rw [if_pos (by omega), if_pos ⟨hx, hl⟩]
        rfl
      · rw [if_neg (by omega), if_neg (fun h => hl h.2)]
        rfl
    · rw [if_neg hx, if_neg (fun h => hx h.1)]
  generalize tput (fun _ => 0) (s.site n).ws d.dst.toNat (tbytes (fun _ => 0) (s.site n).ws d.src.toNat b.at_) = V at h1 hV
  have hw : (s1.site n).ws = V := by rw [h1.2]
  unfold State.moveGood
  rcases Nat.lt_or_ge b.at_ d.length.toNat with ha | ha
  · rw [place_line h2 ha]
    dsimp only
    rw [copyRead_ws hs, Nat.min_eq_right (by omega), hw]
    obtain ⟨W, hW, hin, hout⟩ := putWords_ws (n := n) hd s1 (tbytes (fun _ => 0) V (d.src.toNat + b.at_) b.span) b.bad
      (d.dst.toNat + b.at_)
    rw [hw, tbytes_length] at hin hout
    refine ⟨W, wsBecomes_trans h1 hW, fun k hk => ?_, fun a ha => ?_⟩
    · by_cases hkb : b.at_ ≤ k ∧ k < b.at_ + b.span
      · have hi := hin (k - b.at_) (by omega)
        have hbyte : (tbytes (fun _ => 0) V (d.src.toNat + b.at_) b.span)[k - b.at_]?.getD 0 =
            tget (fun _ => 0) (s.site n).ws (d.src.toNat + k) := by
          rw [tbytes_getElem?, if_pos (by omega), show d.src.toNat + b.at_ + (k - b.at_) = d.src.toNat + k by omega, hV,
            if_neg (by omega)]
          rfl
        have hkept : tget (fun _ => 0) V (d.dst.toNat + k) = tget (fun _ => 0) (s.site n).ws (d.dst.toNat + k) :=
          (hV _).trans (if_neg (by omega))
        rw [hbyte, show d.dst.toNat + b.at_ + (k - b.at_) = d.dst.toNat + k by omega, hkept] at hi
        exact hi.trans (if_congr ⟨fun h => .inr ⟨hkb.2, h⟩, fun h => (h.resolve_left (by omega)).2⟩ rfl rfl)
      · rw [hout _ (by omega), hV]
        by_cases hka : k < b.at_
        · rw [if_pos (by omega), if_pos (.inl hka), Nat.add_sub_cancel_left]
        · rw [if_neg (by omega), if_neg]
          omega
    · rw [hout _ (by omega), hV, if_neg (by omega)]
  · have hspan : b.span = 0 := by omega
    obtain ⟨sa, da, left⟩ := d.place b.at_
    dsimp only
    rw [copyRead_ws hs, hspan, Nat.min_zero]
    obtain ⟨W, hW, _, hout⟩ := putWords_ws (n := n) hd s1 [] b.bad da
    have hout (x : Nat) := (hout x (by rw [List.length_nil]; omega)).trans ((congrArg (tget _ · x) hw).trans (hV x))
    refine ⟨W, wsBecomes_trans h1 hW, fun k hk => ?_, fun a ha => ?_⟩
    · rw [hout, if_pos (by omega), if_pos (.inl (by omega)), Nat.add_sub_cancel_left]
    · rw [hout, if_neg (by omega)]

end

/-! ### Which flight a command ends -/

section
variable {s : State} {n : SiteNo} {q : Fin 4} {f : CopyFlight} {past rest : List CopyFlight}

theorem flightAt_head (h : ((s.site n).queue q).flight = f :: rest) : (s.site n).flightAt q 0 = some f := by
  unfold Site.flightAt
  rw [h]
  rfl

theorem flightAt_after (h : ((s.site n).queue q).flight = past ++ f :: rest) :
    (s.site n).flightAt q past.length = some f := by
  unfold Site.flightAt
  rw [h, List.getElem?_append_right le_rfl, Nat.sub_self]
  rfl

/-- COPY_FAIL with a code. -/
theorem execCopyFail_code {code : BitVec 4} (h0 : code ≠ 0) (h9 : code ≤ 9) :
    exec (.copyFail n q code none) s = .next (s.copyFail n q 0 code false) :=
  if_neg (not_or.2 ⟨h0, Nat.not_lt.2 h9⟩)

/-- COPY_FAIL with a parity failure: what passed is moved, and the flight fails. -/
theorem execCopyFail_parity (hf : (s.site n).flightAt q 0 = some f) (code : BitVec 4) (b : BadPacket) :
    exec (.copyFail n q code (some b)) s = .next ((if f.desc.byRequests then s
      else (s.moveRows n f.desc b.data (min b.at_ f.desc.total) f.desc.rows.toNat f.moved).moveGood n f.desc b).copyFail
        n q 0 9 true) := by
  change execCopyFail n q code (some b) s = _
  unfold execCopyFail
  rw [hf]

/-- The core of a failed copy stops when it is in a LAUNCH, and goes on after a parity failure (R158). -/
theorem copyFail_seq {i : Nat} (hf : (s.site n).flightAt q i = some f) (code : BitVec 4) (hi : (s.site n).seq ≠ .idle) :
    ((s.copyFail n q i code false).site n).seq = .stopped := by
  rw [copyFail_site hf]
  have hs : (flightFailed (s.site n) q i f code).seq ≠ .idle := by
    rw [flightFailed_frame]
    exact hi
  exact sourceCounted_seq _ _ hs

theorem copyFail_parity_seq {i : Nat} (hf : (s.site n).flightAt q i = some f) :
    ((s.copyFail n q i 9 true).site n).seq = (s.site n).seq := by
  have hc : sourceCounted (flightFailed (s.site n) q i f 9) f.desc 9 = flightFailed (s.site n) q i f 9 := by
    unfold sourceCounted
    rw [if_neg fun e => absurd e.1 (by decide), if_neg fun e => absurd e.1 (by decide)]
  rw [copyFail_site hf, hc, flightFailed_frame]
  rfl

theorem copyFail_siteAndLog {i : Nat} (hf : (s.site n).flightAt q i = some f) (ht : f.txn = none) (code : BitVec 4)
    (parity : Bool) : siteAndLog n s (s.copyFail n q i code parity) := by
  obtain ⟨fab, he, h⟩ := copyFail_frame hf code parity
  rw [he ht] at h
  exact h

theorem copyFail_queue {i : Nat} (hf : (s.site n).flightAt q i = some f) (hh : ((s.site n).queue q).halted = false)
    (code : BitVec 4) (parity : Bool) : ((s.copyFail n q i code parity).site n).queue q =
      { (s.site n).queue q with flight := ((s.site n).queue q).flight.eraseIdx i, halted := true, err := code,
                                errTag := f.desc.tag } :=
  (copyFail_queues hf code parity).1.trans (flightFailed_queue _ _ _ _ _ hh)

end

/-! ### COPY_TIMEOUT (R114) -/

section
variable {s : State} {n : SiteNo} {q : Fin 4} {tm : Word64} {obs : StallObs}

/-- A copy's time limit is over and its bytes are not all moved. -/
def copyOverdue (obs : StallObs) (tb : Word64) (f : CopyFlight) : Bool :=
  windowOver (f.stalledFrom obs) f.desc.limit tb && decide (f.moved < f.desc.total)

theorem copyOverdue_false {tb : Word64} {f : CopyFlight}
    (h : windowOver (f.stalledFrom obs) f.desc.limit tb = false ∨ f.desc.total ≤ f.moved) : copyOverdue obs tb f = false := by
  unfold copyOverdue
  rcases h with h | h
  · rw [h, Bool.false_and]
  · rw [decide_eq_false (Nat.not_lt.2 h), Bool.and_false]

theorem execCopyTimeout_none (h : ∀ g ∈ (((s.at tm).site n).queue q).flight, copyOverdue obs (s.at tm).tb g = false) :
    exec (.copyTimeout n q tm obs) s = .next (s.at tm) := by
  have hi : (((s.at tm).site n).queue q).flight.findIdx? (copyOverdue obs (s.at tm).tb) = none :=
    List.findIdx?_eq_none_iff.2 h
  change execCopyTimeout n q tm obs s = _
  unfold execCopyTimeout
  dsimp only
  unfold copyOverdue at hi
  rw [hi]

theorem findIdx?_after {α : Type} {p : α → Bool} {past rest : List α} {f : α} (hp : ∀ g ∈ past, p g = false) (hf : p f = true) :
    (past ++ f :: rest).findIdx? p = some past.length := by
  rw [List.findIdx?_append, List.findIdx?_eq_none_iff.2 hp, List.findIdx?_cons, hf]
  simp

theorem execCopyTimeout_some {past rest : List CopyFlight} {f : CopyFlight}
    (hq : (((s.at tm).site n).queue q).flight = past ++ f :: rest)
    (hp : ∀ g ∈ past, copyOverdue obs (s.at tm).tb g = false) (hf : copyOverdue obs (s.at tm).tb f = true)
    (ht : f.txn = none) : exec (.copyTimeout n q tm obs) s = .next ((s.at tm).copyFail n q past.length
      (if (decide (f.desc.srcKind = 6) || decide (f.desc.dstKind = 6)) && obs.hostUnanswered then 8 else 1) false) := by
  have hi : (((s.at tm).site n).queue q).flight.findIdx? (copyOverdue obs (s.at tm).tb) = some past.length := by
    rw [hq]
    exact findIdx?_after hp hf
  have hx : (s.at tm).copyTxn n f = none := by
    unfold State.copyTxn
    rw [ht]
  change execCopyTimeout n q tm obs s = _
  unfold execCopyTimeout
  dsimp only
  unfold copyOverdue at hi
  rw [hi]
  dsimp only
  rw [flightAt_after hq]
  dsimp only
  rw [hx]

end

/-! ### The statement -/

/-- Settles O32, from what a failed copy leaves of its site, the log and the rest. -/
theorem copiesFail : Obligations.CopiesFail := by
  unfold Obligations.CopiesFail
  refine ⟨?fails, ?parity, ?code, ?timeout, ?waits, ?from_⟩
  case fails =>
    intro s n q code par f rest hq hh ht hcase
    have hf := flightAt_head hq
    have he : ((s.site n).queue q).flight.eraseIdx 0 = rest := by rw [hq]; rfl
    rcases hcase with ⟨rfl, h0, h9⟩ | ⟨hp, hr⟩
    · obtain ⟨_, hother, htoks, hws, hgran⟩ := copyFail_queues hf code false
      refine ⟨_, execCopyFail_code h0 h9, copyFail_siteAndLog hf ht code false, ?_, hother, htoks, hws, hgran,
        fun _ hi => copyFail_seq hf code hi, fun h => absurd rfl h, fun h6 _ => copyFail_told hf h6 false, fun h => absurd rfl h⟩
      exact (copyFail_queue hf hh code false).trans (by rw [he]; rfl)
    · obtain ⟨b, rfl⟩ := Option.ne_none_iff_exists'.1 hp
      have hx := execCopyFail_parity hf code b
      rw [if_pos hr] at hx
      obtain ⟨_, hother, htoks, hws, hgran⟩ := copyFail_queues hf 9 true
      refine ⟨_, hx, copyFail_siteAndLog hf ht 9 true, ?_, hother, htoks, hws, hgran, fun h => (nomatch h),
        fun _ => copyFail_parity_seq hf, fun _ h => (nomatch h), fun _ => copyFail_told hf (by decide) true⟩
      exact (copyFail_queue hf hh 9 true).trans (by rw [he]; rfl)
  case parity =>
    intro s n q code b f rest hq hh ht hm hs hd hc h2 hr hb hl hdis
    have hx := execCopyFail_parity (flightAt_head hq) code b
    have hreq : f.desc.byRequests = false := by
      unfold CopyDesc.byRequests byFabric
      rw [hc, hs, hd]
      rfl
    have htot : f.desc.total = f.desc.length.toNat := by
      unfold CopyDesc.total
      rw [hr]
      exact Nat.one_mul _
    rw [if_neg (by rw [hreq]; decide), htot, Nat.min_eq_left (by omega), hr, hm] at hx
    obtain ⟨W, hW, hin, hout⟩ := moveParity_line (s := s) (n := n) hs hd h2 hb hdis b.data
    change exec _ s = .next (((s.moveRows n f.desc b.data b.at_ 1 0).moveGood n f.desc b).copyFail n q 0 9 true) at hx
    generalize (s.moveRows n f.desc b.data b.at_ 1 0).moveGood n f.desc b = u at hx hW
    obtain ⟨hu, hsite⟩ := hW
    have hqu : (u.site n).queue q = (s.site n).queue q := by rw [hsite]; rfl
    have hfu : (u.site n).flightAt q 0 = some f := flightAt_head (by rw [hqu]; exact hq)
    have hflt : u.flt = s.flt := by rw [hu.1]
    obtain ⟨hlog, htold⟩ := copyFail_told hfu (code := 9) (by decide) true
    obtain ⟨_, _, htoks, hws, _⟩ := copyFail_queues hfu 9 true
    unfold logged at hlog
    unfold told at htold
    rw [hflt] at hlog htold
    have hW : (u.site n).ws = W := by rw [hsite]
    refine ⟨_, hx, siteAndLog_trans (onlySite_siteAndLog hu) (copyFail_siteAndLog hfu ht 9 true), hlog, htold,
      htoks.trans (by rw [hsite]), ?_, fun k hk => ?_, fun a ha => ?_⟩
    · rw [copyFail_queue hfu (by rw [hqu]; exact hh), hqu, hq]
      rfl
    · rw [hws, hW]
      exact hin k hk
    · rw [hws, hW]
      exact hout a ha
  case code =>
    intro s n q code h
    exact ⟨s, if_pos h, rfl⟩
  case timeout =>
    intro s n q tm obs past f rest hq hpast hover hmore hh ht
    obtain ⟨x, hx⟩ := at_is s tm
    have hsite : (s.at tm).site n = s.site n := by rw [hx]; rfl
    have hq' : (((s.at tm).site n).queue q).flight = past ++ f :: rest := by rw [hsite]; exact hq
    have hf := flightAt_after hq'
    have he := execCopyTimeout_some (obs := obs) hq' (fun g hg => copyOverdue_false (hpast g hg))
      (by unfold copyOverdue; rw [hover, decide_eq_true hmore]; rfl) ht
    generalize hcode : (if (decide (f.desc.srcKind = 6) || decide (f.desc.dstKind = 6)) && obs.hostUnanswered then
      (8 : BitVec 4) else 1) = code at he
    have h6 : code ≠ 6 := by
      rw [← hcode]
      split <;> decide
    have hcode' : code = if obs.hostUnanswered = true ∧ (f.desc.srcKind = 6 ∨ f.desc.dstKind = 6) then 8 else 1 := by
      rw [← hcode]
      refine if_congr ?_ rfl rfl
      rw [Bool.and_eq_true, Bool.or_eq_true, decide_eq_true_eq, decide_eq_true_eq, and_comm]
    obtain ⟨hlog, htold⟩ := copyFail_told hf h6 false
    obtain ⟨_, hother, htoks, _, _⟩ := copyFail_queues hf code false
    refine ⟨_, he, copyFail_siteAndLog hf ht code false, hlog, htold, ?_, fun p hp => ?_, ?_⟩
    · rw [copyFail_queue hf (by rw [hsite]; exact hh), hsite, hq, ← hcode']
      rw [List.eraseIdx_append_of_length_le le_rfl, Nat.sub_self]
      rfl
    · rw [hother p hp, hsite]
    · rw [htoks, hsite]
  case waits =>
    intro s n q tm obs h
    obtain ⟨x, hx⟩ := at_is s tm
    have hsite : (s.at tm).site n = s.site n := by rw [hx]; rfl
    exact ⟨_, execCopyTimeout_none (fun g hg => copyOverdue_false (h g (by rwa [hsite] at hg))), rfl⟩
  case from_ =>
    intro f host t
    exact ⟨rfl, fun h => if_neg fun e => Bool.false_ne_true (e.1.symm.trans h), fun h1 h2 => if_pos ⟨h1, h2⟩⟩

end Sys2Proof.Machine
end

section
/-!
PROOF. The host's loss, its ports and the request of a reset (R313, R333, R335).
-/

namespace Sys2Proof.Machine

/-! ### Walks over many parts -/

/-- A relation that every step of a walk meets holds of the whole walk. -/
theorem foldl_related {σ α : Type} {P : σ → σ → Prop} (hr : ∀ s, P s s) (ht : ∀ s t u, P s t → P t u → P s u)
    {F : σ → α → σ} (hF : ∀ s a, P s (F s a)) (L : List α) (s : σ) : P s (L.foldl F s) := by
  induction L generalizing s with
  | nil => exact hr s
  | cons a L ih => exact ht _ _ _ (hF s a) (ih _)

/-- What one step of a walk brings about, and the others keep, holds at its end. -/
theorem foldl_reached {σ α : Type} {P : σ → σ → Prop} (hr : ∀ s, P s s) (ht : ∀ s t u, P s t → P t u → P s u)
    {F : σ → α → σ} (hF : ∀ s a, P s (F s a)) {Q : σ → Prop} (hQ : ∀ s t, P s t → Q s → Q t) {L : List α} {a : α}
    (ha : a ∈ L) (s : σ) (hq : ∀ u, P s u → Q (F u a)) : Q (L.foldl F s) := by
  induction L generalizing s with
  | nil => exact nomatch ha
  | cons b L ih =>
    rcases List.mem_cons.1 ha with rfl | ha
    · exact hQ _ _ (foldl_related hr ht hF L _) (hq s (hr s))
    · exact ih ha _ fun u hu => hq u (ht _ _ _ (hF s b) hu)

theorem foldl_still {σ α : Type} {F : σ → α → σ} {s : σ} (L : List α) (h : ∀ a ∈ L, F s a = s) : L.foldl F s = s := by
  induction L with
  | nil => rfl
  | cons a L ih => exact (congrArg (L.foldl F) (h a List.mem_cons_self)).trans (ih fun b hb => h b (List.mem_cons_of_mem _ hb))

/-! ### The host is lost (R333) -/

/-- Copies have failed: outside the sites, the fabric and the log all is as before, and each copy queue is as before
or halted. -/
def copiesFailed (s t : State) : Prop :=
  t = { s with sites := t.sites, fab := t.fab, flt := t.flt, jrnl := t.jrnl } ∧
  ∀ n q, (t.site n).queue q = (s.site n).queue q ∨ ((t.site n).queue q).halted = true

theorem copiesFailed_refl (s : State) : copiesFailed s s := ⟨rfl, fun _ _ => .inl rfl⟩

theorem copiesFailed_trans (s t u : State) (h : copiesFailed s t) (k : copiesFailed t u) : copiesFailed s u := by
  refine ⟨by rw [k.1, h.1], fun n q => ?_⟩
  rcases k.2 n q with e | e
  · rw [e]
    exact h.2 n q
  · exact .inr e

theorem copiesFailed_halted {s t : State} (h : copiesFailed s t) {n : SiteNo} {q : Fin 4}
    (hh : ((s.site n).queue q).halted = true) : ((t.site n).queue q).halted = true := by
  rcases h.2 n q with e | e
  · rw [e, hh]
  · exact e

section
variable {s : State} {n : SiteNo} {q : Fin 4}

theorem copyFail_copiesFailed (s : State) (n : SiteNo) (q : Fin 4) (i : Nat) (code : BitVec 4) (parity : Bool) :
    copiesFailed s (s.copyFail n q i code parity) := by
  by_cases hf : (s.site n).flightAt q i = none
  · have he : s.copyFail n q i code parity = s := by
      unfold State.copyFail
      rw [hf]
    rw [he]
    exact copiesFailed_refl s
  · obtain ⟨f, hf⟩ := Option.ne_none_iff_exists'.1 hf
    obtain ⟨fab, _, h1, h2⟩ := copyFail_frame hf code parity
    obtain ⟨hq, hother, _⟩ := copyFail_queues hf code parity
    refine ⟨by rw [h1], fun m p => ?_⟩
    by_cases hm : m = n
    · subst hm
      by_cases hp : p = q
      · subst hp
        refine .inr ?_
        rw [hq]
        exact flightFailed_halted _ _ _ _ _
      · exact .inl (hother p hp)
    · exact .inl (congrArg (fun c : Site => c.queue p) ((h2 m hm).trans rfl))

theorem copyFail_halts {i : Nat} {f : CopyFlight} (hf : (s.site n).flightAt q i = some f) (code : BitVec 4) (parity : Bool) :
    (((s.copyFail n q i code parity).site n).queue q).halted = true := by
  rw [(copyFail_queues hf code parity).1]
  exact flightFailed_halted _ _ _ _ _

/-- A flight that a search finds stands in its queue. -/
theorem flightAt_found {p : CopyFlight → Bool} {i : Nat} (h : ((s.site n).queue q).flight.findIdx? p = some i) :
    ∃ f, (s.site n).flightAt q i = some f := by
  obtain ⟨hi, _⟩ := List.findIdx?_eq_some_iff_getElem.1 h
  exact ⟨_, List.getElem?_eq_getElem hi⟩

theorem dropHostCopies_copiesFailed (k : Nat) (s : State) (n : SiteNo) (q : Fin 4) :
    copiesFailed s (s.dropHostCopies n q k) := by
  induction k generalizing s with
  | zero => exact copiesFailed_refl s
  | succ k ih =>
    unfold State.dropHostCopies
    split
    · exact copiesFailed_trans _ _ _ (copyFail_copiesFailed s n q _ _ _) (ih _)
    · exact copiesFailed_refl s

/-- A queue with a host copy in flight halts. -/
theorem dropHostCopies_halts {k : Nat} (h : ∃ f ∈ ((s.site n).queue q).flight, f.desc.usesHost = true) :
    (((s.dropHostCopies n q (k + 1)).site n).queue q).halted = true := by
  unfold State.dropHostCopies
  split
  · rename_i i hi
    obtain ⟨f, hf⟩ := flightAt_found hi
    exact copiesFailed_halted (dropHostCopies_copiesFailed k _ n q) (copyFail_halts hf _ _)
  · rename_i hn
    obtain ⟨f, hf, hu⟩ := h
    exact absurd hu (Bool.eq_false_iff.1 (List.findIdx?_eq_none_iff.1 hn f hf))

theorem dropHostCopies_none {k : Nat} (h : ∀ f ∈ ((s.site n).queue q).flight, f.desc.usesHost = false) :
    s.dropHostCopies n q k = s := by
  cases k with
  | zero => rfl
  | succ k =>
    unfold State.dropHostCopies
    rw [List.findIdx?_eq_none_iff.2 h]

/-- The state in which HOST_LOST is 1 and what was held is gone. -/
def hostGone (s : State) : State := { s with host := { s.host with lost := true, held := [] } }

theorem loseHost_copiesFailed (s : State) : copiesFailed (hostGone s) s.loseHost :=
  foldl_related copiesFailed_refl copiesFailed_trans (fun s n => foldl_related copiesFailed_refl copiesFailed_trans
    (fun s q => dropHostCopies_copiesFailed 4 s n q) _ s) _ _

/-- Every queue with a host copy in flight halts when the host is lost. -/
theorem loseHost_halts (h : ∃ f ∈ ((s.site n).queue q).flight, f.desc.usesHost = true) :
    ((s.loseHost.site n).queue q).halted = true := by
  have hrel (s : State) (n : SiteNo) : copiesFailed s ((List.finRange 4).foldl (fun s q => s.dropHostCopies n q 4) s) :=
    foldl_related copiesFailed_refl copiesFailed_trans (fun s q => dropHostCopies_copiesFailed 4 s n q) _ s
  refine foldl_reached (Q := fun t => ((t.site n).queue q).halted = true) copiesFailed_refl copiesFailed_trans
    (fun s n => hrel s n) (fun _ _ h hh => copiesFailed_halted h hh) (List.mem_finRange n) (hostGone s) fun u hu => ?_
  refine foldl_reached (Q := fun t => ((t.site n).queue q).halted = true) copiesFailed_refl copiesFailed_trans
    (fun s q => dropHostCopies_copiesFailed 4 s n q) (fun _ _ h hh => copiesFailed_halted h hh) (List.mem_finRange q) u
    fun v hv => ?_
  have hv := copiesFailed_trans _ _ _ hu hv
  rcases hv.2 n q with e | e
  · refine dropHostCopies_halts (k := 3) ?_
    rw [e]
    exact h
  · exact copiesFailed_halted (dropHostCopies_copiesFailed 4 v n q) e

theorem loseHost_none (h : ∀ n q, ∀ f ∈ ((s.site n).queue q).flight, f.desc.usesHost = false) :
    s.loseHost = hostGone s :=
  foldl_still _ fun n _ => foldl_still _ fun q _ => dropHostCopies_none (h n q)

end

/-! ### The rings of a port (R313) -/

/-- A ring after a walk that changes each ring of a list once, or not at all. -/
theorem rings_walk {f : Ring → Ring} {P : RingNo → Ring → Prop} [∀ r g, Decidable (P r g)]
    (hf : ∀ g, f (f g) = f g) (L : List RingNo) (t : Tab Ring) (r : RingNo) :
    tget (fun _ => ({} : Ring)) (L.foldl (fun t r => if P r (tget (fun _ => {}) t r.val) then
      tset (fun _ => {}) t r.val (f (tget (fun _ => {}) t r.val)) else t) t) r.val =
      if r ∈ L ∧ P r (tget (fun _ => {}) t r.val) then f (tget (fun _ => {}) t r.val) else tget (fun _ => {}) t r.val := by
  induction L generalizing t with
  | nil => simp
  | cons a L ih =>
    rw [List.foldl_cons, ih]
    by_cases h : r = a
    · subst h
      by_cases hp : P r (tget (fun _ => {}) t r.val)
      · simp only [if_pos hp, tget_tset_same, hf, ite_self]
        exact (if_pos ⟨List.mem_cons_self, hp⟩).symm
      · simp only [if_neg hp, hp, and_false, if_false]
    · have hg : tget (fun _ => ({} : Ring)) (if P a (tget (fun _ => {}) t a.val) then
          tset (fun _ => {}) t a.val (f (tget (fun _ => {}) t a.val)) else t) r.val = tget (fun _ => {}) t r.val := by
        split
        · exact tget_tset_other _ _ _ (val_ne h)
        · rfl
      rw [hg]
      simp only [List.mem_cons, h, false_or]

theorem moveRings_ring (s : State) (p : Bool) (r : RingNo) :
    (s.moveRings p).ring r = if (s.ring r).port = p then { s.ring r with moved := true } else s.ring r := by
  have h := rings_walk (f := fun g => { g with moved := true }) (P := fun _ g => g.port = p) (fun _ => rfl)
    (List.finRange 256) s.host.rings r
  simp only [List.mem_finRange, true_and] at h
  unfold State.moveRings State.ring
  dsimp only
  exact h

/-! ### Ports (R313) -/

theorem portBits_down (v : BitVec 2) (p : Bool) :
    (setBit v (portBit p) false).getLsbD (portBit p) = false ∧
    (setBit v (portBit p) false).getLsbD (portBit !p) = v.getLsbD (portBit !p) ∧
    (setBit v (portBit p) false = 0 ↔ v.getLsbD (portBit !p) = false) := by
  revert v p
  decide

theorem portBits_up (v : BitVec 2) (p : Bool) :
    (setBit v (portBit p) true).getLsbD (portBit p) = true ∧
    (setBit v (portBit p) true).getLsbD (portBit !p) = v.getLsbD (portBit !p) := by
  revert v p
  decide

theorem portBit_not (p : Bool) : portBit (!p) ≠ portBit p := by cases p <;> decide

section
variable {s : State} {p : Bool}

/-- Several writes for the host are sent, or held while both ports are DOWN (R312). -/
theorem sendHosts_sent (os : List Out) (h : s.host.downSince = none) :
    os.foldl State.sendHost s = { s with out := s.out ++ os } := by
  induction os generalizing s with
  | nil => rw [List.append_nil]; rfl
  | cons o os ih =>
    have h1 : s.sendHost o = { s with out := s.out ++ [o] } := if_neg (by rw [h]; decide)
    have hi := ih (s := s.sendHost o) (by rw [h1]; exact h)
    rw [List.foldl_cons, hi, h1, List.append_assoc]
    rfl

theorem sendHosts_held (os : List Out) (h : s.host.downSince ≠ none) :
    os.foldl State.sendHost s = { s with host := { s.host with held := s.host.held ++ os } } := by
  induction os generalizing s with
  | nil => rw [List.append_nil]; rfl
  | cons o os ih =>
    have h1 : s.sendHost o = { s with host := { s.host with held := s.host.held ++ [o] } } :=
      if_pos (Option.isSome_iff_ne_none.2 h)
    have hi := ih (s := s.sendHost o) (by rw [h1]; exact h)
    rw [List.foldl_cons, hi, h1, List.append_assoc]
    rfl

/-- The writes that go out again when a port is lost (R313). -/
def sentAgain (s : State) (x : PortLoss) : List Out :=
  let sent := s.out.filter fun o => decide (o.hostPort = some x.port)
  (sent.drop (sent.length - x.unacked)).map (Out.overPort !x.port)

theorem writeAgain_eq (s : State) (x : PortLoss) : s.writeAgain x = (sentAgain s x).foldl State.sendHost s := rfl

/-- What sending again leaves. -/
theorem writeAgain_sends (s : State) (x : PortLoss) :
    s.writeAgain x = { s with host := { s.host with held := (s.writeAgain x).host.held }, out := (s.writeAgain x).out } ∧
    (s.host.downSince = none → (s.writeAgain x).out = s.out ++ sentAgain s x ∧ (s.writeAgain x).host.held = s.host.held) ∧
    (s.host.downSince ≠ none → (s.writeAgain x).out = s.out ∧ (s.writeAgain x).host.held = s.host.held ++ sentAgain s x) := by
  rw [writeAgain_eq]
  by_cases h : s.host.downSince = none
  · rw [sendHosts_sent _ h]
    exact ⟨rfl, fun _ => ⟨rfl, rfl⟩, fun e => absurd h e⟩
  · rw [sendHosts_held _ h]
    exact ⟨rfl, fun e => absurd e h, fun _ => ⟨rfl, rfl⟩⟩

/-- The state in which port p is out of service. -/
def portGone (s : State) (p : Bool) : State :=
  { s with host := { s.host with
      portUp := setBit s.host.portUp (portBit p) false, lockLost := tset (fun _ => none) s.host.lockLost (portBit p) none,
      downSince := if setBit s.host.portUp (portBit p) false = 0 then some s.tb else s.host.downSince } }

/-- The rings of a port once those without an unacknowledged write over the other one have come back. -/
def ringsBack (p : Bool) (unacked : List RingNo) (t : Tab Ring) : Tab Ring :=
  (List.finRange 256).foldl
    (fun t r => let g : Ring := tget (fun _ => {}) t r.val
      if g.port = p ∧ unacked.contains r = false then tset (fun _ => {}) t r.val { g with moved := false }
      else t) t

/-- The state in which port p is in service, the rings are R, and the writes held leave over the port. -/
def portBackWith (s : State) (p : Bool) (R : Tab Ring) : State :=
  { s with host := { s.host with
      portUp := setBit s.host.portUp (portBit p) true,
      lockLost := tset (fun _ => none) s.host.lockLost (portBit p) none, downSince := none,
      rings := R, held := [] },
           out := s.out ++ s.host.held.map (Out.overPort p) }

def portBack (s : State) (p : Bool) (unacked : List RingNo) : State := portBackWith s p (ringsBack p unacked s.host.rings)

theorem portBack_ring (s : State) (p : Bool) (unacked : List RingNo) (r : RingNo) : (portBack s p unacked).ring r =
    if (s.ring r).port = p ∧ unacked.contains r = false then { s.ring r with moved := false } else s.ring r := by
  have h := rings_walk (f := fun g => { g with moved := false }) (P := fun r g => g.port = p ∧ unacked.contains r = false)
    (fun _ => rfl) (List.finRange 256) s.host.rings r
  simp only [List.mem_finRange, true_and] at h
  unfold portBack portBackWith ringsBack State.ring
  dsimp only
  exact h

theorem portUp_lit {unacked : List RingNo} (h : s.isDark (portField p) = false) : exec (.portUp p unacked) s =
    .next (if (portBack s p unacked).portIsUp (!p) then portBack s p unacked else (portBack s p unacked).moveRings (!p)) := by
  change execPortUp p unacked s = _
  unfold execPortUp
  rw [if_neg (by rw [h]; decide)]
  dsimp only
  have hr : ringsBack p unacked s.host.rings = (List.finRange 256).foldl
    (fun t r => let g : Ring := tget (fun _ => {}) t r.val
      if g.port = p ∧ unacked.contains r = false then tset (fun _ => {}) t r.val { g with moved := false }
      else t) s.host.rings := rfl
  dsimp only at hr
  rw [← hr]
  rfl

theorem moveRings_frame (s : State) (p : Bool) :
    s.moveRings p = { s with host := { s.host with rings := (s.moveRings p).host.rings } } := by
  unfold State.moveRings
  dsimp only

end

/-! ### The statement -/

section
variable {s : State} {p : Bool}

/-- PORT_DOWN once lock has been lost for 50 µs. -/
theorem portDown_goes {k : Nat} {tm a : Word64} (ha : tget (fun _ => none) (s.at tm).host.lockLost (portBit p) = some a)
    (hw : windowOver a 50000 (s.at tm).tb = true) : exec (.portDown ⟨p, k⟩ tm) s =
      .next ((if setBit (s.at tm).host.portUp (portBit p) false = 0 then portGone (s.at tm) p
        else (portGone (s.at tm) p).moveRings p).writeAgain ⟨p, k⟩) := by
  change execPortDown ⟨p, k⟩ tm s = _
  unfold execPortDown
  dsimp only
  rw [ha]
  dsimp only
  rw [if_neg (by rw [hw]; decide)]
  rfl

theorem portDown_early {k : Nat} {tm a : Word64} (ha : tget (fun _ => none) (s.at tm).host.lockLost (portBit p) = some a)
    (hw : windowOver a 50000 (s.at tm).tb = false) : exec (.portDown ⟨p, k⟩ tm) s = .next (s.at tm) := by
  change execPortDown ⟨p, k⟩ tm s = _
  unfold execPortDown
  dsimp only
  rw [ha]
  exact if_pos hw

/-- Only the host's block may differ in its ports and rings. -/
def portsChanged (s t : State) : Prop :=
  t = { s with host := { s.host with portUp := t.host.portUp, lockLost := t.host.lockLost, downSince := t.host.downSince, rings := t.host.rings } }

/-- A port out of service with its rings moved, when the other is in service. -/
theorem portGone_moved (h : s.portIsUp (!p) = true) :
    let t := (portGone s p).moveRings p
    setBit s.host.portUp (portBit p) false ≠ 0 ∧ portsChanged s t ∧ t.portIsUp p = false ∧ t.portIsUp (!p) = true ∧
    tget (fun _ => none) t.host.lockLost (portBit p) = none ∧ t.host.downSince = s.host.downSince ∧
    ∀ r, t.ring r = if (s.ring r).port = p then { s.ring r with moved := true } else s.ring r := by
  intro t
  obtain ⟨h1, h2, h3⟩ := portBits_down s.host.portUp p
  have hne : setBit s.host.portUp (portBit p) false ≠ 0 := fun e => Bool.false_ne_true ((h3.1 e).symm.trans h)
  have ht : t = { portGone s p with host := { (portGone s p).host with rings := t.host.rings } } := moveRings_frame _ _
  have hr (r : RingNo) : t.ring r = _ := moveRings_ring (portGone s p) p r
  clear_value t
  refine ⟨hne, ?_, ?_, ?_, ?_, ?_, hr⟩
  · unfold portsChanged
    rw [ht]
    rfl
  · rw [ht]
    exact h1
  · rw [ht]
    exact h2.trans h
  · rw [ht]
    exact tget_tset_same (fun _ => none) s.host.lockLost (portBit p) none
  · rw [ht]
    exact if_neg hne

/-- A port out of service when the other is out of service too. -/
theorem portGone_last (h : s.portIsUp (!p) = false) :
    let t := portGone s p
    setBit s.host.portUp (portBit p) false = 0 ∧ portsChanged s t ∧ t.portIsUp p = false ∧ t.portIsUp (!p) = false ∧
    tget (fun _ => none) t.host.lockLost (portBit p) = none ∧ t.host.downSince = some s.tb ∧ t.host.rings = s.host.rings := by
  intro t
  obtain ⟨h1, h2, h3⟩ := portBits_down s.host.portUp p
  exact ⟨h3.2 h, rfl, h1, h2.trans h, tget_tset_same (fun _ => none) s.host.lockLost (portBit p) none, if_pos (h3.2 h), rfl⟩

/-- What goes out again after a change of the ports (R313). -/
theorem writeAgain_ports {v : State} (h : portsChanged s v) (x : PortLoss) :
    let t := v.writeAgain x
    t = { s with host := { s.host with portUp := t.host.portUp, lockLost := t.host.lockLost, downSince := t.host.downSince, rings := t.host.rings, held := t.host.held }, out := t.out } ∧
    (t.host.downSince = none → t.out = s.out ++ sentAgain s x ∧ t.host.held = s.host.held) ∧
    (t.host.downSince ≠ none → t.out = s.out ∧ t.host.held = s.host.held ++ sentAgain s x) ∧
    t.host.portUp = v.host.portUp ∧ t.host.lockLost = v.host.lockLost ∧ t.host.downSince = v.host.downSince ∧
    t.host.rings = v.host.rings := by
  intro t
  obtain ⟨h1, h2, h3⟩ := writeAgain_sends v x
  change t = _ at h1
  have hout : v.out = s.out := by rw [h]
  have hheld : v.host.held = s.host.held := by rw [h]
  have hsent : sentAgain v x = sentAgain s x := by rw [sentAgain, hout]; rfl
  have hd : t.host.downSince = v.host.downSince := by rw [h1]
  rw [hout, hheld, hsent] at h2 h3
  refine ⟨?_, fun e => h2 (hd ▸ e), fun e => h3 (hd ▸ e), by rw [h1], by rw [h1], hd, by rw [h1]⟩
  clear_value t
  rw [h1, h]

/-- Port p has returned: its rings have come back, but for unacknowledged writes, and those of a port that is DOWN have
moved (R313). -/
def portReturned (s : State) (p : Bool) (unacked : List RingNo) (t : State) : Prop :=
  t = { s with host := { s.host with portUp := t.host.portUp, lockLost := t.host.lockLost, downSince := none, rings := t.host.rings, held := [] }, out := s.out ++ s.host.held.map (Out.overPort p) } ∧
  t.portIsUp p = true ∧ t.portIsUp (!p) = s.portIsUp (!p) ∧ tget (fun _ => none) t.host.lockLost (portBit p) = none ∧
  ∀ r, t.ring r =
    if (s.ring r).port = p then (if r ∈ unacked then s.ring r else { s.ring r with moved := false })
    else if s.portIsUp (!p) = true then s.ring r else { s.ring r with moved := true }

theorem portUp_returns (s : State) (p : Bool) (unacked : List RingNo) : portReturned s p unacked
    (if (portBack s p unacked).portIsUp (!p) then portBack s p unacked else (portBack s p unacked).moveRings (!p)) := by
  obtain ⟨v, hvd⟩ : ∃ v, portBack s p unacked = v := ⟨_, rfl⟩
  rw [hvd]
  obtain ⟨t, htd⟩ : ∃ t, (if v.portIsUp (!p) then v else v.moveRings (!p)) = t := ⟨_, rfl⟩
  rw [htd]
  obtain ⟨h1, h2⟩ := portBits_up s.host.portUp p
  obtain ⟨R, hR⟩ : ∃ R, v = portBackWith s p R := ⟨_, hvd.symm⟩
  have hup : v.portIsUp p = true := by
    rw [hR]
    exact h1
  have hother : v.portIsUp (!p) = s.portIsUp (!p) := by
    rw [hR]
    exact h2
  have hlock : tget (fun _ => none) v.host.lockLost (portBit p) = none := by
    rw [hR]
    exact tget_tset_same (fun _ => none) s.host.lockLost (portBit p) none
  have hv : v = { s with host := { s.host with portUp := v.host.portUp, lockLost := v.host.lockLost, downSince := none, rings := v.host.rings, held := [] }, out := s.out ++ s.host.held.map (Out.overPort p) } := by
    rw [hR]
    rfl
  have hr (r : RingNo) : v.ring r = if (s.ring r).port = p ∧ unacked.contains r = false then { s.ring r with moved := false } else s.ring r :=
    hvd ▸ portBack_ring s p unacked r
  have hr (r : RingNo) : v.ring r =
      if (s.ring r).port = p then (if r ∈ unacked then s.ring r else { s.ring r with moved := false }) else s.ring r := by
    rw [hr]
    by_cases hp : (s.ring r).port = p <;> by_cases hm : r ∈ unacked <;> simp [hp, hm]
  clear hvd hR
  by_cases ho : s.portIsUp (!p) = true
  · have ht : t = v := htd.symm.trans (if_pos (hother.trans ho))
    rw [ht]
    refine ⟨hv, hup, hother, hlock, fun r => ?_⟩
    rw [hr, if_pos ho]
  · have ht : t = v.moveRings (!p) := htd.symm.trans (if_neg (by rw [hother]; exact ho))
    have hf := moveRings_frame v (!p)
    have hm := moveRings_ring v (!p)
    rw [← ht] at hf hm
    clear ht htd
    refine ⟨?_, ?_, ?_, ?_, fun r => ?_⟩
    · rw [hf, hv]
    · rw [hf]
      exact hup
    · rw [hf]
      exact hother
    · rw [hf]
      exact hlock
    · have hport : (v.ring r).port = (s.ring r).port := by
        rw [hr]
        split
        · split <;> rfl
        · rfl
      rw [hm, hport, hr, if_neg ho]
      by_cases hp : (s.ring r).port = p
      · rw [if_neg (by rw [hp]; cases p <;> decide), if_pos hp, if_pos hp]
      · rw [if_pos (by revert hp; cases (s.ring r).port <;> cases p <;> decide), if_neg hp, if_neg hp]

/-- The loss of the host at the end of a window. -/
theorem heartbeatTimeout_lost {tm : Word64} (hr : (s.at tm).host.ready = true) (hb : (s.at tm).host.hbEn = true)
    (hl : (s.at tm).host.lost = false) (hw : windowOver (s.at tm).host.heartbeat 5000000000 (s.at tm).tb = true) :
    exec (.heartbeatTimeout tm) s = .next (s.at tm).loseHost :=
  if_neg (by rw [hr, hb, hl, hw]; decide)

theorem portsDownTimeout_lost {tm a : Word64} (ha : (s.at tm).host.downSince = some a) (hr : (s.at tm).host.ready = true)
    (hl : (s.at tm).host.lost = false) (hw : windowOver a 5000000000 (s.at tm).tb = true) :
    exec (.portsDownTimeout tm) s = .next (s.at tm).loseHost := by
  change execPortsDownTimeout tm s = _
  unfold execPortsDownTimeout
  dsimp only
  rw [ha]
  exact if_neg (by rw [hr, hl, hw]; decide)

theorem portsDownTimeout_early {tm a : Word64} (ha : (s.at tm).host.downSince = some a)
    (hw : windowOver a 5000000000 (s.at tm).tb = false) : exec (.portsDownTimeout tm) s = .next (s.at tm) := by
  change execPortsDownTimeout tm s = _
  unfold execPortsDownTimeout
  dsimp only
  rw [ha]
  exact if_pos (.inl hw)

/-- RESET_GO (R335). -/
theorem resetGo_armed {tm a : Word64} (ha : (s.at tm).host.arm = some a) : exec (.resetGo tm) s =
    .next (if inWindow a 1000000 (s.at tm).tb then ({ s.at tm with host := { (s.at tm).host with arm := none } } : State).beginReset
      else { s.at tm with host := { (s.at tm).host with arm := none } }) := by
  change execResetGo tm s = _
  unfold execResetGo
  dsimp only
  rw [ha]

theorem resetGo_unarmed {tm : Word64} (ha : (s.at tm).host.arm = none) : exec (.resetGo tm) s = .next (s.at tm) := by
  have h : ({ s.at tm with host := { (s.at tm).host with arm := none } } : State) = s.at tm := by rw [← ha]
  rw [← h]
  change execResetGo tm s = _
  unfold execResetGo
  dsimp only
  rw [ha]
  rfl

theorem resetArmExpiry_armed {tm a : Word64} (ha : (s.at tm).host.arm = some a) : exec (.resetArmExpiry tm) s =
    .next (if windowOver a 1000000 (s.at tm).tb then { s.at tm with host := { (s.at tm).host with arm := none } } else s.at tm) := by
  change execResetArmExpiry tm s = _
  unfold execResetArmExpiry
  dsimp only
  rw [ha]
  by_cases h : windowOver a 1000000 (s.at tm).tb = true
  · rw [if_pos h]
    exact if_pos h
  · rw [if_neg h]
    exact if_neg h

end

/-- Settles O48, from the loss of the host, the ports' bits, the rings that move and the writes that go again. -/
theorem hostPortsAndResets : Obligations.HostPortsAndResets := by
  unfold Obligations.HostPortsAndResets
  intro s tm acc p
  obtain ⟨x, hx⟩ := at_is s tm
  intro u noCopy lost
  have hux : u = { s with tb := x } := hx
  have hu : s.at tm = u := rfl
  have hlose : lost u.loseHost := by
    obtain ⟨h1, _⟩ := loseHost_copiesFailed u
    refine ⟨by rw [h1]; rfl, by rw [h1]; rfl, fun hn => loseHost_none fun n q => ?_, fun n q hq => loseHost_halts ?_⟩
    · rw [hux]
      exact hn n q
    · rw [hux]
      exact hq
  have hhost : u.host = s.host := by rw [hux]
  have hport (b : Bool) : u.portIsUp b = s.portIsUp b := congrArg (fun h : HostIf => h.portUp.getLsbD (portBit b)) hhost
  rw [← hhost] at *
  clear_value lost
  refine ⟨fun hr => ⟨_, if_neg (by rw [hu, hr]; decide), rfl⟩,
    fun hr hb hl => ⟨fun hw => ⟨_, heartbeatTimeout_lost hr hb hl hw, hlose⟩,
      fun hw => ⟨_, if_pos (.inr (.inr (.inr hw))), rfl⟩⟩, ?loss, ?down, fun hd unacked => ⟨_, if_pos hd, rfl⟩,
    fun hd unacked => ⟨_, portUp_lit hd, ?_⟩,
    fun a ha hr hl => ⟨fun hw => ⟨_, portsDownTimeout_lost ha hr hl hw, hlose⟩, fun hw => ⟨_, portsDownTimeout_early ha hw, rfl⟩⟩,
    ⟨_, rfl, rfl⟩, ?reset, fun ha => ⟨_, resetGo_unarmed ha, rfl⟩⟩
  case loss =>
    intro hp
    refine ⟨_, if_neg (by rw [hu, hport, hp]; decide), rfl, ?_, ?_⟩
    · exact tget_tset_same (fun _ => none) u.host.lockLost (portBit p) (some u.tb)
    · exact tget_tset_other (fun _ => none) u.host.lockLost (some u.tb) (portBit_not p)
  case down =>
    intro a ha
    have hring (r : RingNo) : u.ring r = s.ring r := by rw [hux]; rfl
    refine ⟨fun hw k => ⟨_, portDown_goes ha hw, ?_⟩, fun hw k => ⟨_, portDown_early ha hw, rfl⟩⟩
    by_cases ho : u.portIsUp (!p) = true
    · obtain ⟨hne, hv, hup, hother, hlock, hsince, hrings⟩ := portGone_moved ho
      rw [hu, if_neg hne]
      obtain ⟨h1, h2, h3, h4, h5, h6, h7⟩ := writeAgain_ports hv ⟨p, k⟩
      generalize ((portGone u p).moveRings p).writeAgain ⟨p, k⟩ = t at *
      generalize (portGone u p).moveRings p = v at *
      refine ⟨h1, h2, h3, ?_, ?_, ?_, fun _ => ⟨h6.trans hsince, fun r => ?_⟩, fun e => ?_⟩
      · rw [State.portIsUp, h4]
        exact hup
      · rw [State.portIsUp, h4, ← hport, ho]
        exact hother
      · rw [h5]
        exact hlock
      · rw [State.ring, h7, ← hring]
        exact hrings r
      · rw [hport, e] at ho
        exact absurd ho (by decide)
    · have ho := Bool.eq_false_iff.2 ho
      obtain ⟨he, hv, hup, hother, hlock, hsince, hrings⟩ := portGone_last ho
      rw [hu, if_pos he]
      obtain ⟨h1, h2, h3, h4, h5, h6, h7⟩ := writeAgain_ports hv ⟨p, k⟩
      generalize (portGone u p).writeAgain ⟨p, k⟩ = t at *
      generalize portGone u p = v at *
      refine ⟨h1, h2, h3, ?_, ?_, ?_, fun e => ?_, fun _ => ⟨h6.trans hsince, h7.trans hrings⟩⟩
      · rw [State.portIsUp, h4]
        exact hup
      · rw [State.portIsUp, h4, ← hport, ho]
        exact hother
      · rw [h5]
        exact hlock
      · rw [hport, e] at ho
        exact absurd ho (by decide)
  case reset =>
    intro a ha
    refine ⟨fun hw hr hb => ⟨_, resetGo_armed ha, ?_⟩, fun hw => ⟨_, resetGo_armed ha, if_neg (by rw [hu, hw]; decide)⟩,
      fun hw => ⟨_, resetArmExpiry_armed ha, if_pos hw⟩, fun hw => ⟨_, resetArmExpiry_armed ha, if_neg (by rw [hu, hw]; decide)⟩⟩
    rw [hu, if_pos hw]
    have hboard : u.board = s.board := by rw [hux]
    rw [← hboard] at hb
    exact beginReset_begun (s := { u with host := { u.host with arm := none } }) hr hb
  · rw [show u.host = s.host by rw [hux]]
    exact portUp_returns s p unacked

end Sys2Proof.Machine
end

section
/-!
PROOF. Stretches, droop detectors and margins (R342, R343, R363, R369).
-/

namespace Sys2Proof.Machine

/-! ### Regions of clocks and their sites -/

/-- The clock region of a core site. -/
def regionOf (n : SiteNo) : RegionNo := ⟨n.val, by omega⟩

theorem regionOf_ne {m n : SiteNo} (h : m ≠ n) : regionOf m ≠ regionOf n :=
  fun e => h (Fin.ext (congrArg (fun r : RegionNo => r.val) e))

section
variable (s : State) (n : SiteNo) (r : RegionNo) (d : DomainNo)

@[simp] theorem State.region_modSite (f : Site → Site) : (s.modSite n f).region r = s.region r := rfl
@[simp] theorem State.dom_modSite (f : Site → Site) : (s.modSite n f).dom d = s.dom d := rfl
@[simp] theorem State.site_modRegion (f : Region → Region) : (s.modRegion r f).site n = s.site n := rfl
@[simp] theorem State.dom_modRegion (f : Region → Region) : (s.modRegion r f).dom d = s.dom d := rfl
@[simp] theorem State.site_modDom (f : Domain → Domain) : (s.modDom d f).site n = s.site n := rfl
@[simp] theorem State.region_modDom (f : Domain → Domain) : (s.modDom d f).region r = s.region r := rfl

end

/-- Only sites and clock regions may differ. -/
def stretchFrame (s t : State) : Prop := t = { s with sites := t.sites, clk := { s.clk with regions := t.clk.regions } }

theorem stretchFrame_trans {s t u : State} (h : stretchFrame s t) (k : stretchFrame t u) : stretchFrame s u := by
  unfold stretchFrame at *
  rw [k, h]

section
variable (s : State)

theorem stretch_core (n : SiteNo) : s.stretch (regionOf n) =
    (s.modRegion (regionOf n) fun g => { g with stretches := satInc g.stretches }).modSite n
      fun c => { c with slipStretch := satInc c.slipStretch } := dif_pos n.isLt

theorem stretch_field {r : RegionNo} (h : 40 ≤ r.val) :
    s.stretch r = s.modRegion r fun g => { g with stretches := satInc g.stretches } := dif_neg (by omega)

theorem stretch_frame (r : RegionNo) : stretchFrame s (s.stretch r) := by
  unfold State.stretch
  dsimp only
  split <;> rfl

theorem stretch_region_same (r : RegionNo) :
    (s.stretch r).region r = { s.region r with stretches := satInc (s.region r).stretches } := by
  unfold State.stretch
  dsimp only
  split
  · rw [State.region_modSite, State.region_modRegion_same]
  · rw [State.region_modRegion_same]

theorem stretch_region_other {r q : RegionNo} (h : q ≠ r) : (s.stretch r).region q = s.region q := by
  unfold State.stretch
  dsimp only
  split
  · rw [State.region_modSite, State.region_modRegion_other _ _ h]
  · rw [State.region_modRegion_other _ _ h]

theorem stretch_site_same (n : SiteNo) : (s.stretch (regionOf n)).site n =
    { s.site n with slipStretch := satInc (s.site n).slipStretch } := by
  rw [stretch_core, State.site_modSite_same, State.site_modRegion]

theorem stretch_site_other {r : RegionNo} {m : SiteNo} (h : m.val ≠ r.val) : (s.stretch r).site m = s.site m := by
  unfold State.stretch
  dsimp only
  split
  · exact State.site_modSite_other (s.modRegion r _) _ fun e => h (congrArg Fin.val e)
  · rfl

end

/-! ### A slow field cycle (R342) -/

/-- A running core region above a slow field counts a stretch. -/
def stretchRunning (s : State) (n : SiteNo) : State :=
  if (s.region (regionOf n)).runs then s.stretch (regionOf n) else s

theorem stretchRunning_frame (s : State) (n : SiteNo) : stretchFrame s (stretchRunning s n) := by
  unfold stretchRunning
  split
  · exact stretch_frame s _
  · rfl

theorem stretchRunning_other (s : State) {m n : SiteNo} (h : m ≠ n) :
    (stretchRunning s n).region (regionOf m) = s.region (regionOf m) ∧ (stretchRunning s n).site m = s.site m := by
  unfold stretchRunning
  split
  · exact ⟨stretch_region_other s (regionOf_ne h), stretch_site_other s fun e => h (Fin.ext e)⟩
  · exact ⟨rfl, rfl⟩

theorem stretchRunning_field (s : State) (n : SiteNo) {r : RegionNo} (h : 40 ≤ r.val) :
    (stretchRunning s n).region r = s.region r := by
  unfold stretchRunning
  split
  · exact stretch_region_other s fun e => by
      have := congrArg Fin.val e
      have : r.val = n.val := this
      omega
  · rfl

/-- Each running core region of a list counts one stretch, and no other. -/
theorem stretchAll_spec (L : List SiteNo) (hL : L.Nodup) (s : State) :
    stretchFrame s (L.foldl stretchRunning s) ∧ (∀ r : RegionNo, 40 ≤ r.val → (L.foldl stretchRunning s).region r = s.region r) ∧
    ∀ m : SiteNo, if m ∈ L ∧ (s.region (regionOf m)).runs = true then
        (L.foldl stretchRunning s).region (regionOf m) =
          { s.region (regionOf m) with stretches := satInc (s.region (regionOf m)).stretches } ∧
        (L.foldl stretchRunning s).site m = { s.site m with slipStretch := satInc (s.site m).slipStretch }
      else (L.foldl stretchRunning s).region (regionOf m) = s.region (regionOf m) ∧
        (L.foldl stretchRunning s).site m = s.site m := by
  induction L generalizing s with
  | nil => exact ⟨rfl, fun _ _ => rfl, fun m => by rw [if_neg fun h => nomatch h.1]; exact ⟨rfl, rfl⟩⟩
  | cons n L ih =>
    obtain ⟨hn, hL⟩ := List.nodup_cons.1 hL
    obtain ⟨h1, h2, h3⟩ := ih hL (stretchRunning s n)
    refine ⟨stretchFrame_trans (stretchRunning_frame s n) h1,
      fun r hr => (h2 r hr).trans (stretchRunning_field s n hr), fun m => ?_⟩
    have h3 := h3 m
    rw [List.foldl_cons]
    by_cases hm : m = n
    · subst hm
      rw [if_neg fun h => hn h.1] at h3
      rw [h3.1, h3.2]
      unfold stretchRunning
      by_cases hr : (s.region (regionOf m)).runs = true
      · rw [if_pos hr, if_pos ⟨List.mem_cons_self, hr⟩]
        exact ⟨stretch_region_same s _, stretch_site_same s m⟩
      · rw [if_neg hr, if_neg fun h => hr h.2]
        exact ⟨rfl, rfl⟩
    · obtain ⟨ho1, ho2⟩ := stretchRunning_other s hm
      rw [ho1, ho2] at h3
      simp only [List.mem_cons, hm, false_or]
      exact h3

theorem sitesOfField_nodup (f : FieldNo) : (sitesOfField f).Nodup := (List.nodup_finRange 40).filter _

theorem mem_sitesOfField {f : FieldNo} {n : SiteNo} : n ∈ sitesOfField f ↔ fieldOfSite n = f := by
  unfold sitesOfField
  rw [List.mem_filter, decide_eq_true_eq]
  exact and_iff_right (List.mem_finRange n)

/-- A slow cycle's one stretch. -/
theorem selfSlowing_one {s : State} {r : RegionNo} {x : Nat} (h1 : 1050 < x) (h2 : r.val < 40 ∨ x ≤ 1200) :
    exec (.selfSlowing r x) s = .next (s.stretch r) := by
  change execSelfSlowing r x s = _
  unfold execSelfSlowing
  dsimp only
  rw [if_pos h1]
  split
  · rfl
  · exact if_neg (by omega)

theorem selfSlowing_none {s : State} {r : RegionNo} {x : Nat} (h : x ≤ 1050) : exec (.selfSlowing r x) s = .next s := by
  change execSelfSlowing r x s = _
  unfold execSelfSlowing
  dsimp only
  rw [if_neg (by omega)]
  split
  · rfl
  · exact if_neg (by omega)

theorem selfSlowing_field {s : State} {r : RegionNo} {x : Nat} (hr : 40 ≤ r.val) (h : 1200 < x) :
    exec (.selfSlowing r x) s = .next ((sitesOfField ⟨r.val - 40, by omega⟩).foldl stretchRunning (s.stretch r)) := by
  change execSelfSlowing r x s = _
  unfold execSelfSlowing
  dsimp only
  rw [if_pos (by omega), dif_neg (by omega), if_pos h]
  rfl

/-! ### Operating points (R362, R363) -/

theorem unitOf_core (n : SiteNo) : unitOf (regionOf n) = [regionOf n] := if_pos n.isLt

/-- Only a core's own region may differ, in the change it awaits. -/
theorem startChange_core (s : State) (n : SiteNo) (mhz : BitVec 11) (t : Word64) :
    onlyRegion (regionOf n) s (s.startChange (regionOf n) mhz t) ∧
    ∃ c l d, (s.startChange (regionOf n) mhz t).region (regionOf n) =
      { s.region (regionOf n) with change := c, latched := l, calDone := d } := by
  have hone (f : Region → Region) : onlyRegion (regionOf n) s (s.modRegions (unitOf (regionOf n)) f) ∧
      (s.modRegions (unitOf (regionOf n)) f).region (regionOf n) = f (s.region (regionOf n)) := by
    rw [unitOf_core]
    exact ⟨⟨rfl, fun m hm => State.region_modRegion_other s f hm⟩, State.region_modRegion_same s _ f⟩
  unfold State.startChange
  dsimp only
  split
  · split
    · exact ⟨⟨rfl, fun _ _ => rfl⟩, _, _, _, rfl⟩
    · exact ⟨(hone _).1, _, _, _, (hone _).2⟩
  · split
    · exact ⟨⟨rfl, fun _ _ => rfl⟩, _, _, _, rfl⟩
    · exact ⟨(hone _).1, _, _, _, (hone _).2⟩

/-- A core has taken an operating point: its site keeps all else, its domain has trim 0 and, but in RETAIN, the voltage
that the point and the frequency in force need, and its region awaits its change. -/
theorem setOp_sets (s : State) (n : SiteNo) (op : BitVec 3) :
    let t := s.setOp n op
    t = { s with sites := t.sites, clk := { s.clk with regions := t.clk.regions }, pwr := { s.pwr with doms := t.pwr.doms } } ∧
    t.site n = { s.site n with op := op } ∧ (∀ m, m ≠ n → t.site m = s.site m) ∧
    t.dom (domOfSite n) = { s.dom (domOfSite n) with trim := 0, mv := if (s.site n).pwr = .retain then (s.dom (domOfSite n)).mv else adequateMv op (s.region (regionOf n)).fastest } ∧
    (∀ d, d ≠ domOfSite n → t.dom d = s.dom d) ∧
    (∃ c l d, t.region (regionOf n) = { s.region (regionOf n) with change := c, latched := l, calDone := d }) ∧
    ∀ q, q ≠ regionOf n → t.region q = s.region q := by
  intro t
  obtain ⟨u, hu⟩ : ∃ u, u = ((s.modSite n fun c => { c with op := op }).modDom (domOfSite n) fun d => { d with trim := 0 }) := ⟨_, rfl⟩
  have hsite : u.site n = { s.site n with op := op } := by
    rw [hu, State.site_modDom, State.site_modSite_same]
  have hother (m : SiteNo) (hm : m ≠ n) : u.site m = s.site m := by
    rw [hu, State.site_modDom, State.site_modSite_other _ _ hm]
  have hreg (r : RegionNo) : u.region r = s.region r := by
    rw [hu]
    rfl
  have hdom : u.dom (domOfSite n) = { s.dom (domOfSite n) with trim := 0 } := by
    rw [hu, State.dom_modDom_same, State.dom_modSite]
  have hdoms (d : DomainNo) (hd : d ≠ domOfSite n) : u.dom d = s.dom d := by
    rw [hu, State.dom_modDom_other _ _ hd, State.dom_modSite]
  have hf : u = { s with sites := u.sites, pwr := { s.pwr with doms := u.pwr.doms } } := by
    rw [hu]
    rfl
  have ht : t = (u.setVolt n).startChange (regionOf n) (opMhz op) (u.setVolt n).tb := by
    rw [hu]
    rfl
  clear hu
  clear_value t
  have hv : (u.setVolt n) = { u with pwr := { u.pwr with doms := (u.setVolt n).pwr.doms } } ∧
      (u.setVolt n).dom (domOfSite n) = { u.dom (domOfSite n) with mv := if (u.site n).pwr = .retain then (u.dom (domOfSite n)).mv else adequateMv (u.site n).op (u.region (regionOf n)).fastest } ∧
      ∀ d, d ≠ domOfSite n → (u.setVolt n).dom d = u.dom d := by
    unfold State.setVolt
    split
    · exact ⟨rfl, rfl, fun _ _ => rfl⟩
    · exact ⟨rfl, State.dom_modDom_same u _ _, fun d hd => State.dom_modDom_other u _ hd⟩
  obtain ⟨hv1, hv2, hv3⟩ := hv
  rw [hsite, hdom, hreg] at hv2
  generalize u.setVolt n = v at *
  obtain ⟨⟨hc1, hc2⟩, c, l, d, hc3⟩ := startChange_core v n (opMhz op) v.tb
  rw [← ht] at hc1 hc2 hc3
  have hvr (r : RegionNo) : v.region r = s.region r := by
    rw [hv1]
    exact hreg r
  have hvs (m : SiteNo) : v.site m = u.site m := by
    rw [hv1]
    rfl
  have hts (m : SiteNo) : t.site m = v.site m := by
    rw [hc1]
    rfl
  have htd (d : DomainNo) : t.dom d = v.dom d := by
    rw [hc1]
    rfl
  refine ⟨?_, (hts n).trans ((hvs n).trans hsite), fun m hm => (hts m).trans ((hvs m).trans (hother m hm)),
    (htd _).trans hv2, fun d hd => (htd d).trans ((hv3 d hd).trans (hdoms d hd)), ⟨c, l, d, hc3.trans (by rw [hvr])⟩,
    fun q hq => (hc2 q hq).trans (hvr q)⟩
  rw [hc1, hv1, hf]

/-! ### Droop detectors (R342, R369) -/

section
variable {s : State} {n : SiteNo} {k : BitVec 6}

/-- A site one of whose detectors has tripped. -/
def trippedSite (c : Site) (k : BitVec 6) : Site := { c with detectors := setBit c.detectors k.toNat true, droopHold := none }

theorem droopTrip_stopped (h : (s.region (regionOf n)).runs = false) : exec (.droopTrip n k) s = .next s := if_pos h

theorem droopTrip_again (h : (s.region (regionOf n)).runs = true) (hd : (s.site n).detectors ≠ 0) :
    ∃ f, exec (.droopTrip n k) s = .next (s.modSite n f) ∧ f (s.site n) = trippedSite (s.site n) k := by
  refine ⟨fun c => { c with detectors := setBit c.detectors k.toNat true, droopHold := none,
                            droopSince := if decide ((s.site n).detectors = 0) then c.cycle else c.droopSince }, ?_, ?_⟩
  · change execDroopTrip n k s = _
    unfold execDroopTrip
    rw [if_neg (by rw [show (⟨n.val, by omega⟩ : RegionNo) = regionOf n from rfl, h]; decide)]
    dsimp only
    rw [decide_eq_false hd]
    rfl
  · rw [decide_eq_false hd]
    rfl

theorem droopTrip_first (h : (s.region (regionOf n)).runs = true) (hd : (s.site n).detectors = 0) :
    ∃ f, exec (.droopTrip n k) s = .next ((s.modSite n f).stretch (regionOf n)) ∧
      f (s.site n) = { trippedSite (s.site n) k with droopSince := (s.site n).cycle } := by
  refine ⟨fun c => { c with detectors := setBit c.detectors k.toNat true, droopHold := none,
                            droopSince := if decide ((s.site n).detectors = 0) then c.cycle else c.droopSince }, ?_, ?_⟩
  · change execDroopTrip n k s = _
    unfold execDroopTrip
    rw [if_neg (by rw [show (⟨n.val, by omega⟩ : RegionNo) = regionOf n from rfl, h]; decide)]
    dsimp only
    rw [decide_eq_true hd]
    rfl
  · rw [decide_eq_true hd]
    rfl

theorem satNat_toNat {w n : Nat} : (satNat w n).toNat = min (2 ^ w - 1) n := by
  have := Nat.two_pow_pos w
  unfold satNat
  split
  · rw [BitVec.toNat_allOnes]
    omega
  · rw [BitVec.toNat_ofNat, Nat.mod_eq_of_lt (by omega)]
    omega

theorem droopPhasesRelease_cases {tm a : Word64} (ha : ((s.at tm).site n).droopHold = some a) :
    exec (.droopPhasesRelease n tm) s =
      if ((s.at tm).site n).detectors = 0 ∧ windowOver a 10000 (s.at tm).tb then
        .next ((s.at tm).setSite n { (s.at tm).site n with droopHold := none }) else .next (s.at tm) := by
  change execDroopPhasesRelease n tm s = _
  unfold execDroopPhasesRelease
  dsimp only
  rw [ha]

end

/-! ### Margins (R343, R363) -/

/-- The events counted in a folding window. -/
def foldCount (s : State) (cls : BitVec 16) (unit : Nat) : Option Nat :=
  (tget (fun _ => none) s.flt.folds (cls.toNat * 4096 + unit)).map (·.1)

section
variable (s : State) (cls : BitVec 16) (unit : Nat) (detail : Word32) (addr : Word64)

theorem fold_frame : s.fold cls unit detail addr = { s with flt := { s.flt with folds := (s.fold cls unit detail addr).flt.folds } } := rfl

theorem fold_counts : foldCount (s.fold cls unit detail addr) cls unit = some ((foldCount s cls unit).getD 0 + 1) := by
  unfold foldCount State.fold
  dsimp only
  rw [tget_tset_same]
  cases tget (fun _ => none) s.flt.folds (cls.toNat * 4096 + unit) <;> rfl

end

section
variable {s : State} {r : RegionNo} {path : BitVec 4}

/-- A region at a CRITICAL margin, before its operating point falls. -/
def criticalNow (s : State) (r : RegionNo) (d : Word32) : State :=
  ((s.modRegion r fun g => { g with margin := 2, critical := some s.tb }).fold 0x0402 r.val d 0).stretch r

theorem marginWindowEnd_critical : ∃ d, exec (.marginWindowEnd r .critical path) s =
    .next (if h : r.val < 40 then
      if ((criticalNow s r d).site ⟨r.val, h⟩).op = 0 then criticalNow s r d
      else (criticalNow s r d).setOp ⟨r.val, h⟩ (((criticalNow s r d).site ⟨r.val, h⟩).op - 1) else criticalNow s r d) := by
  refine ⟨BitVec.ofNat 32 r.val ||| fieldAt path 6, ?_⟩
  change execMarginWindowEnd r .critical path s = _
  unfold execMarginWindowEnd
  dsimp only
  split <;> rfl

/-- What a CRITICAL margin leaves before the operating point falls. -/
theorem criticalNow_spec (s : State) (r : RegionNo) (d : Word32) :
    let t := criticalNow s r d
    t = { s with sites := t.sites, clk := { s.clk with regions := t.clk.regions }, flt := { s.flt with folds := t.flt.folds } } ∧
    t.region r = { s.region r with margin := 2, critical := some s.tb, stretches := satInc (s.region r).stretches } ∧
    (∀ q, q ≠ r → t.region q = s.region q) ∧ (∀ m : SiteNo, m.val ≠ r.val → t.site m = s.site m) ∧
    (∀ h : r.val < 40, t.site ⟨r.val, h⟩ = { s.site ⟨r.val, h⟩ with slipStretch := satInc (s.site ⟨r.val, h⟩).slipStretch }) ∧
    (40 ≤ r.val → t.sites = s.sites) ∧ foldCount t 0x0402 r.val = some ((foldCount s 0x0402 r.val).getD 0 + 1) := by
  intro t
  obtain ⟨u, hu⟩ : ∃ u, u = (s.modRegion r fun g => { g with margin := 2, critical := some s.tb }).fold 0x0402 r.val d 0 := ⟨_, rfl⟩
  have hfu : u = { s with clk := { s.clk with regions := u.clk.regions }, flt := { s.flt with folds := u.flt.folds } } := by
    rw [hu]
    rfl
  have hur : u.region r = { s.region r with margin := 2, critical := some s.tb } := by
    rw [hu]
    exact State.region_modRegion_same s r fun g => { g with margin := 2, critical := some s.tb }
  have huq (q : RegionNo) (h : q ≠ r) : u.region q = s.region q := by
    rw [hu]
    exact State.region_modRegion_other s (fun g => { g with margin := 2, critical := some s.tb }) h
  have hus (m : SiteNo) : u.site m = s.site m := by
    rw [hfu]
    rfl
  have huc : foldCount u 0x0402 r.val = some ((foldCount s 0x0402 r.val).getD 0 + 1) := by
    rw [hu]
    exact fold_counts (s.modRegion r _) 0x0402 r.val d 0
  have ht : t = u.stretch r := by
    rw [hu]
    rfl
  have hf := stretch_frame u r
  have h1 := stretch_region_same u r
  have h2 (q : RegionNo) (h : q ≠ r) := (stretch_region_other u h).trans (huq q h)
  have h3 (m : SiteNo) (h : m.val ≠ r.val) := (stretch_site_other u h).trans (hus m)
  have h4 (h : r.val < 40) := stretch_site_same u ⟨r.val, h⟩
  have h5 (h : 40 ≤ r.val) := stretch_field u h
  have h4 (h : r.val < 40) : (u.stretch r).site ⟨r.val, h⟩ =
    { u.site ⟨r.val, h⟩ with slipStretch := satInc (u.site ⟨r.val, h⟩).slipStretch } := h4 h
  rw [← ht] at hf h1 h2 h3 h4 h5
  clear hu ht
  clear_value t
  refine ⟨?_, h1.trans (by rw [hur]), h2, h3, fun h => (h4 h).trans (by rw [hus]), fun h => ?_, ?_⟩
  · unfold stretchFrame at hf
    rw [hf, hfu]
  · rw [h5 h, hfu]
    rfl
  · have : foldCount t 0x0402 r.val = foldCount u 0x0402 r.val := by rw [hf]; rfl
    rw [this, huc]

end

/-! ### The statement -/

/-- Settles O49, from what a stretch, a detector and an operating point leave. -/
theorem clockStretchesAndMargins : Obligations.ClockStretchesAndMargins := by
  unfold Obligations.ClockStretchesAndMargins
  refine ⟨?trip, ?clear, ?slow, ?margin⟩
  case trip =>
    intro s n k r c tripped
    refine ⟨fun hr hd => ?_, fun hr hd => ?_, fun hr => ⟨s, droopTrip_stopped hr, rfl⟩⟩
    · obtain ⟨f, he, hf⟩ := droopTrip_again (k := k) hr hd
      exact ⟨_, he, onlySite_modSite s n f, (State.site_modSite_same s n f).trans hf⟩
    · obtain ⟨f, he, hf⟩ := droopTrip_first (k := k) hr hd
      have h1 := stretch_frame (s.modSite n f) (regionOf n)
      refine ⟨_, he, ?_, ?_, fun m hm => ?_, ?_, fun q hq => ?_⟩
      · rw [h1]
        rfl
      · rw [stretch_site_same, State.site_modSite_same, hf]
        rfl
      · exact (stretch_site_other _ fun e => hm (Fin.ext e)).trans (State.site_modSite_other s f hm)
      · exact stretch_region_same (s.modSite n f) (regionOf n)
      · exact stretch_region_other (s.modSite n f) hq
  case clear =>
    intro s n k tm
    obtain ⟨x, hx⟩ := at_is s tm
    intro u c ds d
    have hux : u = { s with tb := x } := hx
    have hu : s.at tm = u := rfl
    have hc : u.site n = c := by rw [hux]; rfl
    refine ⟨⟨_, rfl, onlySite_modSite u n _, ?_⟩, fun a ha => ?_⟩
    · have hs := State.site_modSite_same u n fun c =>
        { c.settleDroop with
             detectors := setBit c.detectors k.toNat false,
             droopHold := if c.detectors ≠ 0 ∧ setBit c.detectors k.toNat false = 0 then some u.tb else c.droopHold }
      rw [hc] at hs
      refine ⟨?_, ?_, ?_⟩
      · rw [hs]
        rfl
      · rw [hs]
        exact satNat_toNat
      · rw [hs]
        exact satNat_toNat
    · have hp := droopPhasesRelease_cases (s := s) (n := n) (tm := tm) (a := a) (by rw [hu, hc]; exact ha)
      rw [hu, hc] at hp
      refine ⟨fun hd hw => ⟨_, hp.trans (if_pos ⟨hd, hw⟩), ⟨rfl, fun m hm => State.site_setSite_other u _ hm⟩,
        State.site_setSite_same u n _⟩, fun h => ⟨u, hp.trans (if_neg fun e => ?_), rfl⟩⟩
      exact h.elim (fun h => h e.1) fun h => Bool.false_ne_true (h.symm.trans e.2)
  case slow =>
    intro s r x fr
    refine ⟨fun h => ⟨s, selfSlowing_none h, rfl⟩, fun h1 h2 => ⟨_, selfSlowing_one h1 h2, stretch_frame s r,
      stretch_region_same s r, fun q hq => stretch_region_other s hq, fun h => stretch_site_same s ⟨r.val, h⟩,
      fun m hm => stretch_site_other s hm⟩, fun hr h => ?_⟩
    obtain ⟨h1, h2, h3⟩ := stretchAll_spec (sitesOfField ⟨r.val - 40, by omega⟩) (sitesOfField_nodup _) (s.stretch r)
    refine ⟨_, selfSlowing_field hr h, stretchFrame_trans (stretch_frame s r) h1,
      (h2 r hr).trans (stretch_region_same s r), fun m => ?_⟩
    have h3 := h3 m
    have hq : regionOf m ≠ r := fun e => by
      have := congrArg (fun r : RegionNo => r.val) e
      have : m.val = r.val := this
      omega
    rw [stretch_region_other s hq, stretch_site_other s fun e => by omega] at h3
    simp only [mem_sitesOfField] at h3
    exact h3
  case margin =>
    intro s r path others
    refine ⟨⟨_, rfl, ⟨rfl, fun m hm => State.region_modRegion_other s _ hm⟩, State.region_modRegion_same s r _⟩,
      ⟨_, rfl, fun q hq => State.region_modRegion_other s (fun g => { g with margin := 1 }) hq, rfl,
        State.region_modRegion_same s r fun g => { g with margin := 1 }, ?_⟩, ?_⟩
    · exact fold_counts (s.modRegion r _) 0x0401 r.val _ 0
    · obtain ⟨d, he⟩ := marginWindowEnd_critical (s := s) (r := r) (path := path)
      obtain ⟨h1, h2, h3, h4, h5, h6, h7⟩ := criticalNow_spec s r d
      generalize criticalNow s r d = v at *
      by_cases hr : r.val < 40
      · rw [dif_pos hr, h5 hr] at he
        have hpwr : v.pwr = s.pwr := by rw [h1]
        by_cases ho : (s.site ⟨r.val, hr⟩).op = 0
        · rw [if_pos ho] at he
          refine ⟨v, he, h3, by rw [h1], by rw [h2], by rw [h2], by rw [h2], by rw [h2], h7, fun h => by omega, fun _ =>
            ⟨fun m hm => h4 m fun e => hm (Fin.ext e), fun d _ => by rw [h1]; rfl, fun _ => ⟨?_, hpwr⟩, fun h => absurd ho h⟩⟩
          exact (congrArg Site.op (h5 hr)).trans ho
        · rw [if_neg ho] at he
          obtain ⟨k1, k2, k3, k4, k5, ⟨c, l, e, k6⟩, k7⟩ := setOp_sets v ⟨r.val, hr⟩ ((s.site ⟨r.val, hr⟩).op - 1)
          change exec _ s = .next (v.setOp ⟨r.val, hr⟩ ((s.site ⟨r.val, hr⟩).op - 1)) at he
          generalize v.setOp ⟨r.val, hr⟩ ((s.site ⟨r.val, hr⟩).op - 1) = t at *
          rw [h5 hr] at k2 k4
          change t.region r = { v.region r with change := c, latched := l, calDone := e } at k6
          rw [h2] at k6
          have hdom (d : DomainNo) : v.dom d = s.dom d := by rw [h1]; rfl
          have hfast : (v.region (regionOf ⟨r.val, hr⟩)).fastest = (s.region r).fastest := by
            rw [show regionOf ⟨r.val, hr⟩ = r from rfl, h2]
            rfl
          rw [hfast, hdom] at k4
          refine ⟨t, he, fun q hq => (k7 q hq).trans (h3 q hq), by rw [k1, h1], by rw [k6], by rw [k6], by rw [k6], by rw [k6],
            ?_, fun h => by omega, fun _ => ⟨fun m hm => (k3 m hm).trans (h4 m fun e => hm (Fin.ext e)),
              fun d hd => (k5 d hd).trans (hdom d), fun h => absurd h ho, fun _ => ⟨by rw [k2], fun hp => ?_, fun hp => ?_⟩⟩⟩
          · rw [show t.flt.folds = v.flt.folds by rw [k1]]
            exact h7
          · rw [k4]
            exact if_neg hp
          · rw [k4]
            exact if_pos hp
      · rw [dif_neg hr] at he
        exact ⟨v, he, h3, by rw [h1], by rw [h2], by rw [h2], by rw [h2], by rw [h2], h7,
          fun h => ⟨h6 h, by rw [h1]⟩, fun h => absurd h hr⟩

end Sys2Proof.Machine
end

section
/-!
PROOF. Operating points, caps and forecasts (R363 to R368).
-/

namespace Sys2Proof.Machine

/-! ### Where a half runs (R364) -/

/-- Only clock regions of fields may differ. -/
def fieldRegions (s t : State) : Prop :=
  t = { s with clk := { s.clk with regions := t.clk.regions } } ∧ ∀ q : RegionNo, q.val < 40 → t.region q = s.region q

theorem fieldRegions_refl (s : State) : fieldRegions s s := ⟨rfl, fun _ _ => rfl⟩

theorem fieldRegions_trans {s t u : State} (h : fieldRegions s t) (k : fieldRegions t u) : fieldRegions s u :=
  ⟨by rw [k.1, h.1], fun q hq => (k.2 q hq).trans (h.2 q hq)⟩

theorem fieldRegions_modRegion (s : State) {r : RegionNo} (hr : 40 ≤ r.val) (f : Region → Region) :
    fieldRegions s (s.modRegion r f) :=
  ⟨rfl, fun q hq => State.region_modRegion_other s f fun e => by rw [e] at hq; omega⟩

theorem modRegions_fields (s : State) {r : RegionNo} (hr : 40 ≤ r.val) (f : Region → Region) :
    fieldRegions s (s.modRegions (unitOf r) f) := by
  have hu : ∀ q ∈ unitOf r, 40 ≤ q.val := by
    intro q hq
    unfold unitOf at hq
    rw [if_neg (by omega), List.mem_filter, Bool.and_eq_true, decide_eq_true_eq] at hq
    exact hq.2.1
  unfold State.modRegions
  generalize unitOf r = L at hu
  induction L generalizing s with
  | nil => exact fieldRegions_refl s
  | cons a L ih =>
    exact fieldRegions_trans (fieldRegions_modRegion s (hu a List.mem_cons_self) f)
      (ih _ fun q hq => hu q (List.mem_cons_of_mem _ hq))

theorem startChange_fields (s : State) {r : RegionNo} (hr : 40 ≤ r.val) (mhz : BitVec 11) (t : Word64) :
    fieldRegions s (s.startChange r mhz t) := by
  unfold State.startChange
  dsimp only
  split
  · split
    · exact fieldRegions_refl s
    · exact modRegions_fields s hr _
  · split
    · exact fieldRegions_refl s
    · exact modRegions_fields s hr _

theorem halfSpeed_fields (s : State) (f : FieldNo) : fieldRegions s (s.halfSpeed f) := by
  unfold State.halfSpeed
  exact fieldRegions_trans (fieldRegions_modRegion s (by simp) _) (startChange_fields _ (by simp) _ _)

theorem fieldRegions_dom {s t : State} (h : fieldRegions s t) (d : DomainNo) : t.dom d = s.dom d := by rw [h.1]; rfl

theorem fieldRegions_site {s t : State} (h : fieldRegions s t) (n : SiteNo) : t.site n = s.site n := by rw [h.1]; rfl

/-! ### One evaluation of an operating point (R363) -/

/-- A core has operating point o, its domain is x, and but for clock regions nothing else differs. -/
def pointGoes (s t : State) (n : SiteNo) (o : BitVec 3) (x : Domain) : Prop :=
  t = { s with sites := t.sites, clk := { s.clk with regions := t.clk.regions }, pwr := { s.pwr with doms := t.pwr.doms } } ∧
  t.site n = { s.site n with op := o } ∧ (∀ m, m ≠ n → t.site m = s.site m) ∧
  t.dom (domOfSite n) = x ∧ ∀ e, e ≠ domOfSite n → t.dom e = s.dom e

section
variable {s t u : State} {n : SiteNo} {o : BitVec 3} {x y : Domain}

theorem pointGoes_refl (s : State) (n : SiteNo) : pointGoes s s n (s.site n).op (s.dom (domOfSite n)) :=
  ⟨rfl, rfl, fun _ _ => rfl, rfl, fun _ _ => rfl⟩

theorem pointGoes_trans {p : BitVec 3} (h : pointGoes s t n p y) (k : pointGoes t u n o x) : pointGoes s u n o x := by
  obtain ⟨h1, h2, h3, _, h5⟩ := h
  obtain ⟨k1, k2, k3, k4, k5⟩ := k
  exact ⟨by rw [k1, h1], by rw [k2, h2], fun m hm => (k3 m hm).trans (h3 m hm), k4, fun e he => (k5 e he).trans (h5 e he)⟩

theorem pointGoes_modDom (s : State) (n : SiteNo) (f : Domain → Domain) :
    pointGoes s (s.modDom (domOfSite n) f) n (s.site n).op (f (s.dom (domOfSite n))) :=
  ⟨rfl, rfl, fun _ _ => rfl, State.dom_modDom_same s _ f, fun _ he => State.dom_modDom_other s f he⟩

theorem pointGoes_setOp (s : State) (n : SiteNo) (o : BitVec 3) : pointGoes s (s.setOp n o) n o
    { s.dom (domOfSite n) with trim := 0, mv := if (s.site n).pwr = .retain then (s.dom (domOfSite n)).mv else adequateMv o (s.region (regionOf n)).fastest } := by
  obtain ⟨h1, h2, h3, h4, h5, _⟩ := setOp_sets s n o
  exact ⟨h1, h2, h3, h4, h5⟩

theorem pointGoes_halfSpeed (s : State) (n : SiteNo) (f : FieldNo) :
    pointGoes s (s.halfSpeed f) n (s.site n).op (s.dom (domOfSite n)) := by
  have h := halfSpeed_fields s f
  exact ⟨by rw [h.1], fieldRegions_site h n, fun m _ => fieldRegions_site h m, fieldRegions_dom h _, fun e _ => fieldRegions_dom h e⟩

/-- What an evaluation decides also holds once the half has followed. -/
theorem pointGoes_half (h : pointGoes s t n o x) (f : FieldNo) : pointGoes s (t.halfSpeed f) n o x := by
  have k := pointGoes_halfSpeed t n f
  rw [h.2.1, h.2.2.2.1] at k
  exact pointGoes_trans h k

end

/-- The state in which the thermal row of a domain has been followed. -/
def cooled (s : State) (n : SiteNo) (hot cold : Bool) : State := s.modDom (domOfSite n) fun v => v.cooling hot cold s.tb

/-- What Table 13.3 decides for a core whose domain is v, at operating point op. -/
def pointDecided (s : State) (n : SiteNo) (v : Domain) (op : BitVec 3) (cap : BitVec 5) : State :=
  if v.hot then (if op = 0 then s else s.setOp n 0)
  else if (s.region (regionOf n)).margin = 1 then
    if v.trim.toNat < 30 ∧ v.mv.toNat + v.trim.toNat < 900 then s.modDom (domOfSite n) fun v => { v with trim := v.trim + 10 }
    else if op = 0 then s.modDom (domOfSite n) fun v => { v with trim := 0 } else s.setOp n (op - 1)
  else if cap < 12 then (if op = 0 then s else s.setOp n (op - 1))
  else if cap = 16 ∧ op < s.preferOp n ∧ s.noRaise n = false then s.setOp n (op + 1)
  else if s.preferOp n < op then s.setOp n (op - 1)
  else s

theorem opWindowEvaluate_off {s : State} {n : SiteNo} {hot cold : Bool} {cap : BitVec 5}
    (h : (s.dom (domOfSite n)).st ≠ .on ∨ (s.region (regionOf n)).st = 3) :
    exec (.opWindowEvaluate n hot cold cap) s = .next s := if_pos h

theorem opWindowEvaluate_on {s : State} {n : SiteNo} {hot cold : Bool} {cap : BitVec 5}
    (h1 : (s.dom (domOfSite n)).st = .on) (h2 : (s.region (regionOf n)).st ≠ 3) :
    exec (.opWindowEvaluate n hot cold cap) s = .next ((pointDecided (cooled s n hot cold) n
      ((cooled s n hot cold).dom (domOfSite n)) (s.site n).op cap).halfSpeed (fieldOfSite n)) := by
  change execOpWindowEvaluate n hot cold cap s = _
  unfold execOpWindowEvaluate
  rw [if_neg (fun h => h.elim (fun h => h h1) h2)]
  have hop : (s.site n).op = ((cooled s n hot cold).site n).op := rfl
  rw [hop]
  unfold pointDecided
  dsimp only
  rw [show (s.modDom (domOfSite n) fun v => v.cooling hot cold s.tb) = cooled s n hot cold from rfl]
  generalize cooled s n hot cold = u
  unfold regionOf
  split_ifs <;> rfl

section
variable {s : State} {n : SiteNo} {hot cold : Bool} {cap : BitVec 5} {o : BitVec 3} {x : Domain} {u : State}

/-- The core leaves the thermal row as its domain cools, and the evaluation goes on from there. -/
theorem pointGoes_cooled (h : pointGoes (cooled s n hot cold) u n o x) : pointGoes s u n o x :=
  pointGoes_trans (pointGoes_modDom s n _) h

theorem opWindowEvaluate_decides (h1 : (s.dom (domOfSite n)).st = .on) (h2 : (s.region (regionOf n)).st ≠ 3)
    (hd : pointDecided (cooled s n hot cold) n ((cooled s n hot cold).dom (domOfSite n)) (s.site n).op cap = u)
    (hu : pointGoes (cooled s n hot cold) u n o x) :
    completes (.opWindowEvaluate n hot cold cap) s fun t => pointGoes s t n o x :=
  ⟨_, opWindowEvaluate_on h1 h2, by rw [hd]; exact pointGoes_half (pointGoes_cooled hu) _⟩

theorem cooled_dom : (cooled s n hot cold).dom (domOfSite n) = (s.dom (domOfSite n)).cooling hot cold s.tb :=
  State.dom_modDom_same ..

/-- A new operating point of a cooled core. -/
theorem pointGoes_setOp_cooled (o : BitVec 3) : pointGoes (cooled s n hot cold) ((cooled s n hot cold).setOp n o) n o
    { (s.dom (domOfSite n)).cooling hot cold s.tb with
      mv := if (s.site n).pwr = .retain then ((s.dom (domOfSite n)).cooling hot cold s.tb).mv
        else adequateMv o (s.region (regionOf n)).fastest, trim := 0 } := by
  have h := pointGoes_setOp (cooled s n hot cold) n o
  rw [cooled_dom] at h
  exact h

theorem pointGoes_cooled_still : pointGoes (cooled s n hot cold) (cooled s n hot cold) n (s.site n).op
    ((s.dom (domOfSite n)).cooling hot cold s.tb) := by
  have h := pointGoes_refl (cooled s n hot cold) n
  rw [cooled_dom] at h
  exact h

theorem pointGoes_cooled_modDom (f : Domain → Domain) : pointGoes (cooled s n hot cold)
    ((cooled s n hot cold).modDom (domOfSite n) f) n (s.site n).op (f ((s.dom (domOfSite n)).cooling hot cold s.tb)) := by
  have h := pointGoes_modDom (cooled s n hot cold) n f
  rw [cooled_dom] at h
  exact h

end

theorem operatingPoint_moves (s : State) (n : SiteNo) (hot cold : Bool) (cap : BitVec 5) :
    let d := domOfSite n
    let v := (s.dom d).cooling hot cold s.tb
    let op := (s.site n).op
    let low := decide ((s.region ⟨n.val, by omega⟩).margin = 1)
    let trims : Prop := v.trim.toNat < 30 ∧ v.mv.toNat + v.trim.toNat < 900
    let goes (o : BitVec 3) (x : Domain) : Prop := completes (.opWindowEvaluate n hot cold cap) s fun t => pointGoes s t n o x
    let g := s.region ⟨n.val, by omega⟩
    let moves (o : BitVec 3) : Prop :=
      goes o { v with mv := if (s.site n).pwr = .retain then v.mv else adequateMv o g.fastest, trim := 0 }
    ((s.dom d).st ≠ .on ∨ g.st = 3 → completes (.opWindowEvaluate n hot cold cap) s (· = s)) ∧
    ((s.dom d).st = .on → g.st ≠ 3 →
      (v.hot = true → op ≠ 0 → moves 0) ∧ (v.hot = true → op = 0 → goes 0 v) ∧
      (v.hot = false → low = true → (trims → goes op { v with trim := v.trim + 10 }) ∧
        (¬ trims → op ≠ 0 → moves (op - 1)) ∧ (¬ trims → op = 0 → goes 0 { v with trim := 0 })) ∧
      (v.hot = false → low = false → cap < 12 → (op ≠ 0 → moves (op - 1)) ∧ (op = 0 → goes 0 v)) ∧
      (v.hot = false → low = false → cap = 16 → op < s.preferOp n → s.noRaise n = false → moves (op + 1)) ∧
      (v.hot = false → low = false → 12 ≤ cap → s.preferOp n < op → moves (op - 1)) ∧
      (v.hot = false → low = false → 12 ≤ cap → op = s.preferOp n → goes op v) ∧
      (v.hot = false → low = false → 12 ≤ cap → op < s.preferOp n → cap ≠ 16 ∨ s.noRaise n = true → goes op v)) := by
  intro d v op low trims goes g moves
  refine ⟨fun h => ⟨s, opWindowEvaluate_off h, rfl⟩, fun h1 h2 => ?_⟩
  have decides {o x u} := opWindowEvaluate_decides (hot := hot) (cold := cold) (cap := cap) (o := o) (x := x) (u := u) h1 h2
  have hv : (cooled s n hot cold).dom (domOfSite n) = v := cooled_dom
  have hlow (h : low = true) : ((cooled s n hot cold).region (regionOf n)).margin = 1 := of_decide_eq_true h
  have hgood (h : low = false) : ¬ ((cooled s n hot cold).region (regionOf n)).margin = 1 := of_decide_eq_false h
  have hpref : (cooled s n hot cold).preferOp n = s.preferOp n := rfl
  have hrais : (cooled s n hot cold).noRaise n = s.noRaise n := rfl
  rw [hv] at decides
  refine ⟨fun hh ho => ?_, fun hh ho => ?_, fun hh hl => ⟨fun ht => ?_, fun ht ho => ?_, fun ht ho => ?_⟩,
    fun hh hl hc => ⟨fun ho => ?_, fun ho => ?_⟩, fun hh hl hc hp hr => ?_, fun hh hl hc hp => ?_, fun hh hl hc hp => ?_,
    fun hh hl hc hp hr => ?_⟩
  · refine decides ?_ (pointGoes_setOp_cooled 0)
    unfold pointDecided
    rw [if_pos hh, if_neg ho]
  · refine decides (u := cooled s n hot cold) ?_ (by have h := pointGoes_cooled_still (s := s) (n := n) (hot := hot) (cold := cold); rwa [show (s.site n).op = 0 from ho] at h)
    unfold pointDecided
    rw [if_pos hh, if_pos ho]
  · refine decides ?_ (pointGoes_cooled_modDom fun v => { v with trim := v.trim + 10 })
    unfold pointDecided
    rw [if_neg (by rw [hh]; simp), if_pos (hlow hl), if_pos ht]
  · refine decides ?_ (pointGoes_setOp_cooled (op - 1))
    unfold pointDecided
    rw [if_neg (by rw [hh]; simp), if_pos (hlow hl), if_neg ht, if_neg ho]
  · refine decides ?_ (by have h := pointGoes_cooled_modDom (s := s) (n := n) (hot := hot) (cold := cold) fun v => { v with trim := 0 }; rwa [show (s.site n).op = 0 from ho] at h)
    unfold pointDecided
    rw [if_neg (by rw [hh]; simp), if_pos (hlow hl), if_neg ht, if_pos ho]
  · refine decides ?_ (pointGoes_setOp_cooled (op - 1))
    unfold pointDecided
    rw [if_neg (by rw [hh]; simp), if_neg (hgood hl), if_pos hc, if_neg ho]
  · refine decides (u := cooled s n hot cold) ?_ (by have h := pointGoes_cooled_still (s := s) (n := n) (hot := hot) (cold := cold); rwa [show (s.site n).op = 0 from ho] at h)
    unfold pointDecided
    rw [if_neg (by rw [hh]; simp), if_neg (hgood hl), if_pos hc, if_pos ho]
  · refine decides ?_ (pointGoes_setOp_cooled (op + 1))
    unfold pointDecided
    rw [if_neg (by rw [hh]; simp), if_neg (hgood hl), if_neg (by rw [hc]; decide), hpref, hrais, if_pos ⟨hc, hp, hr⟩]
  · refine decides ?_ (pointGoes_setOp_cooled (op - 1))
    unfold pointDecided
    rw [if_neg (by rw [hh]; simp), if_neg (hgood hl), if_neg (BitVec.not_lt.mpr hc), hpref, hrais,
      if_neg (fun h => absurd h.2.1 (BitVec.not_lt.mpr (BitVec.le_of_lt hp))), if_pos hp]
  · refine decides ?_ pointGoes_cooled_still
    unfold pointDecided
    rw [if_neg (by rw [hh]; simp), if_neg (hgood hl), if_neg (BitVec.not_lt.mpr hc), hpref, hrais,
      if_neg (fun h => BitVec.lt_irrefl _ (hp ▸ h.2.1)), if_neg (fun h => BitVec.lt_irrefl _ (hp ▸ h))]
  · refine decides ?_ pointGoes_cooled_still
    unfold pointDecided
    rw [if_neg (by rw [hh]; simp), if_neg (hgood hl), if_neg (BitVec.not_lt.mpr hc), hpref, hrais,
      if_neg (fun h => hr.elim (fun k => k h.1) fun k => by rw [h.2.2] at k; simp at k),
      if_neg (BitVec.not_lt.mpr (BitVec.le_of_lt hp))]

/-! ### The end of a 10 µs window (R365, R366, Table 13.4) -/

/-- A walk whose steps each renew their own entry, and no other, renews each of its entries once. -/
theorem foldl_touches {σ α β : Type} [DecidableEq α] {F : σ → α → σ} {read : α → σ → β} {new : α → β → β}
    (hsame : ∀ s a, read a (F s a) = new a (read a s)) (hother : ∀ s a b, b ≠ a → read b (F s a) = read b s)
    {L : List α} (hL : L.Nodup) (s : σ) (b : α) :
    read b (L.foldl F s) = if b ∈ L then new b (read b s) else read b s := by
  induction L generalizing s with
  | nil => rfl
  | cons a L ih =>
    obtain ⟨ha, hL⟩ := List.nodup_cons.1 hL
    rw [List.foldl_cons, ih hL]
    by_cases hb : b = a
    · subst hb
      rw [if_neg ha, if_pos List.mem_cons_self, hsame]
    · rw [hother s a b hb]
      simp only [List.mem_cons, hb, false_or]

/-- The caps of a converter, and its windows in a row. -/
def State.converter (s : State) (f : Nat) : BitVec 5 × Nat × Nat :=
  (tget (fun _ => 16) s.pwr.qIbc f, tget (fun _ => 0) s.pwr.ibcGood f, tget (fun _ => 0) s.pwr.ibcLow f)

/-- A converter after a window of w watts. -/
def converterAfter (w : Nat) (x : BitVec 5 × Nat × Nat) : BitVec 5 × Nat × Nat :=
  ((capStep x.1 x.2.1 (decide (1500 < w)) (decide (w ≤ 1350))).1,
   (capStep x.1 x.2.1 (decide (1500 < w)) (decide (w ≤ 1350))).2, if w ≤ 1380 then x.2.2 + 1 else 0)

theorem ibcStep_same (s : State) (f w : Nat) : (s.ibcStep f w).converter f = converterAfter w (s.converter f) := by
  unfold State.ibcStep State.converter converterAfter
  dsimp only
  rw [tget_tset_same, tget_tset_same, tget_tset_same]

theorem ibcStep_other (s : State) (w : Nat) {f g : Nat} (h : g ≠ f) : (s.ibcStep f w).converter g = s.converter g := by
  unfold State.ibcStep State.converter
  dsimp only
  rw [tget_tset_other _ _ _ h, tget_tset_other _ _ _ h, tget_tset_other _ _ _ h]

/-- A domain after a temperature sample. -/
def sampled (d : DomainNo) (t : Nat) (v : Domain) : Domain :=
  { v with temp := satNat 8 t, qTh := if d.val < 40 then thermalCap t else 16 }

theorem tempStep_same (s : State) (d : DomainNo) (t : Nat) : (s.tempStep d t).dom d = sampled d t (s.dom d) := by
  unfold State.tempStep sampled
  dsimp only
  generalize (if d.val < 40 then thermalCap t else 16) = q
  split
  · exact State.dom_setDom_same ..
  · exact State.dom_setDom_same ..

theorem tempStep_other (s : State) {d e : DomainNo} (t : Nat) (h : e ≠ d) : (s.tempStep d t).dom e = s.dom e := by
  unfold State.tempStep
  dsimp only
  generalize (if d.val < 40 then thermalCap t else 16) = q
  split
  · exact State.dom_setDom_other s _ h
  · exact State.dom_setDom_other s _ h

/-- Only domains and the counts of folded classes may differ. -/
def domsAndFolds (s t : State) : Prop :=
  t = { s with pwr := { s.pwr with doms := t.pwr.doms }, flt := { s.flt with folds := t.flt.folds } }

theorem tempStep_frame (s : State) (d : DomainNo) (t : Nat) : domsAndFolds s (s.tempStep d t) := by
  unfold State.tempStep
  dsimp only
  generalize (if d.val < 40 then thermalCap t else 16) = q
  split
  · rfl
  · rfl

/-- Only the caps of converters and their windows may differ. -/
def convertersOnly (s t : State) : Prop :=
  t = { s with pwr := { s.pwr with qIbc := t.pwr.qIbc, ibcGood := t.pwr.ibcGood, ibcLow := t.pwr.ibcLow } }

/-- The converters at the end of a window. -/
def ibcWindow (ibc : Tab Nat) (s : State) : State :=
  (List.range 8).foldl (fun s f => s.ibcStep f (tget (fun _ => 0) ibc f)) s

/-- The samples of temperature that a window has. -/
def tempWindow (temps : Tab Nat) (s : State) : State :=
  (List.finRange 48).foldl
    (fun s d => if temps.any fun p => p.1 == d.val then s.tempStep d (tget (fun _ => 0) temps d.val) else s) s

theorem ibcWindow_frame (ibc : Tab Nat) (s : State) : convertersOnly s (ibcWindow ibc s) :=
  foldl_related (P := convertersOnly) (F := fun s f => s.ibcStep f (tget (fun _ => 0) ibc f)) (fun _ => rfl)
    (fun s t u (h : convertersOnly s t) (k : convertersOnly t u) => k.trans (by rw [h])) (fun _ _ => rfl) _ s

theorem ibcWindow_converter (ibc : Tab Nat) (s : State) (f : FieldNo) :
    (ibcWindow ibc s).converter f.val = converterAfter (tget (fun _ => 0) ibc f.val) (s.converter f.val) := by
  exact (foldl_touches (read := fun f s => s.converter f)
    (new := fun f x => converterAfter (tget (fun _ => 0) ibc f) x) (fun s f => ibcStep_same s f _)
    (fun s f g h => ibcStep_other s _ h) List.nodup_range s f.val).trans (if_pos (List.mem_range.mpr f.isLt))

theorem tempWindow_frame (temps : Tab Nat) (s : State) : domsAndFolds s (tempWindow temps s) := by
  refine foldl_related (P := domsAndFolds) (fun _ => rfl) (fun s t u (h : domsAndFolds s t) (k : domsAndFolds t u) => ?_) (fun s d => ?_) _ s
  · exact k.trans (by rw [h])
  · split
    · exact tempStep_frame ..
    · rfl

theorem tempWindow_dom (temps : Tab Nat) (s : State) (d : DomainNo) : (tempWindow temps s).dom d =
    if temps.any (fun p => p.1 == d.val) then sampled d (tget (fun _ => 0) temps d.val) (s.dom d) else s.dom d := by
  refine (foldl_touches (F := fun s d => if temps.any fun p => p.1 == d.val then s.tempStep d (tget (fun _ => 0) temps d.val) else s)
    (read := fun d s => s.dom d)
    (new := fun d v => if temps.any (fun p => p.1 == d.val) then sampled d (tget (fun _ => 0) temps d.val) v else v)
    (fun s d => ?_) (fun s d e h => ?_) (List.nodup_finRange 48) s d).trans (if_pos (List.mem_finRange d))
  · split
    · exact tempStep_same ..
    · rfl
  · split
    · exact tempStep_other _ _ h
    · rfl

/-- The state whose input cap has been stepped, its TAKEs spent. -/
def inputWindow (w : BitVec 16) (s : State) : State :=
  let n := capStep s.pwr.qPwr s.pwr.pwrGood (decide (s.windowB < w.toNat)) (decide (100 * w.toNat ≤ 95 * s.windowB))
  { s with pwr := { s.pwr with qPwr := n.1, pwrGood := n.2, taken := 0 } }

theorem capWindowEnd_eq (w : BitVec 16) (ibc temps : Tab Nat) (s : State) :
    exec (.capWindowEnd w ibc temps) s = .next (tempWindow temps (ibcWindow ibc (inputWindow w s))) := rfl

theorem thermalCap_toNat (t : Nat) : (thermalCap t).toNat = if 95 ≤ t then max 1 (16 - 3 * (t - 95) / 2) else 16 := by
  unfold thermalCap
  by_cases h : t < 95
  · rw [if_pos h, if_neg (by omega)]
    rfl
  · rw [if_neg h, if_pos (by omega), BitVec.toNat_ofNat, Nat.mod_eq_of_lt (by omega)]

theorem sampled_qTh (d : DomainNo) (t : Nat) (v : Domain) : (sampled d t v).qTh.toNat =
    if d.val < 40 ∧ 95 ≤ t then max 1 (16 - 3 * (t - 95) / 2) else 16 := by
  unfold sampled
  by_cases h : d.val < 40
  · rw [if_pos h, thermalCap_toNat]
    simp only [h, true_and]
  · rw [if_neg h, if_neg fun k => h k.1]
    rfl

theorem capStep_excess (q : BitVec 5) (k : Nat) (fine : Bool) : capStep q k true fine = (if q ≤ 1 then 1 else q - 1, 0) := rfl

theorem capStep_bad (q : BitVec 5) (k : Nat) : capStep q k false false = (q, 0) := rfl

theorem capStep_good (q : BitVec 5) (k : Nat) : capStep q k false true =
    if 9 ≤ k then (if 16 ≤ q then 16 else q + 1, 0) else (q, k + 1) := by
  unfold capStep
  simp only [Bool.false_eq_true, if_false, Bool.true_eq_false]
  by_cases h : 9 ≤ k
  · rw [if_pos (by omega), if_pos h]
    rfl
  · rw [if_neg (by omega), if_neg h]

theorem converterAfter_high {w : Nat} (h : 1500 < w) (x : BitVec 5 × Nat × Nat) :
    (converterAfter w x).1 = if x.1 ≤ 1 then 1 else x.1 - 1 := by
  unfold converterAfter
  rw [decide_eq_true h]
  rfl

theorem converterAfter_middle {w : Nat} (h : 1350 < w) (k : w ≤ 1500) (x : BitVec 5 × Nat × Nat) :
    (converterAfter w x).1 = x.1 := by
  unfold converterAfter
  rw [decide_eq_false (by omega), decide_eq_false (by omega)]
  rfl

theorem converterAfter_low {w : Nat} (h : w ≤ 1350) (x : BitVec 5 × Nat × Nat) :
    (converterAfter w x).1 = if 9 ≤ x.2.1 then (if 16 ≤ x.1 then 16 else x.1 + 1) else x.1 := by
  unfold converterAfter
  rw [decide_eq_false (by omega), decide_eq_true h, capStep_good]
  split
  · rfl
  · rfl

theorem inputWindow_excess {w : BitVec 16} {s : State} (h : s.windowB < w.toNat) :
    (inputWindow w s).pwr.qPwr = (if s.pwr.qPwr ≤ 1 then 1 else s.pwr.qPwr - 1) ∧ (inputWindow w s).pwr.pwrGood = 0 := by
  unfold inputWindow
  rw [decide_eq_true h]
  exact ⟨rfl, rfl⟩

theorem inputWindow_close {w : BitVec 16} {s : State} (h : w.toNat ≤ s.windowB) (k : 95 * s.windowB < 100 * w.toNat) :
    (inputWindow w s).pwr.qPwr = s.pwr.qPwr ∧ (inputWindow w s).pwr.pwrGood = 0 := by
  unfold inputWindow
  rw [decide_eq_false (by omega), decide_eq_false (by omega)]
  exact ⟨rfl, rfl⟩

theorem inputWindow_fine {w : BitVec 16} {s : State} (h : w.toNat ≤ s.windowB) (k : 100 * w.toNat ≤ 95 * s.windowB) :
    (9 ≤ s.pwr.pwrGood → (inputWindow w s).pwr.qPwr = (if 16 ≤ s.pwr.qPwr then 16 else s.pwr.qPwr + 1) ∧
      (inputWindow w s).pwr.pwrGood = 0) ∧
    (s.pwr.pwrGood < 9 → (inputWindow w s).pwr.qPwr = s.pwr.qPwr ∧ (inputWindow w s).pwr.pwrGood = s.pwr.pwrGood + 1) := by
  unfold inputWindow
  rw [decide_eq_false (by omega), decide_eq_true k, capStep_good]
  refine ⟨fun h9 => ?_, fun h9 => ?_⟩
  · rw [if_pos h9]
    exact ⟨rfl, rfl⟩
  · rw [if_neg (by omega)]
    exact ⟨rfl, rfl⟩

theorem capWindow_ends (s : State) (w : BitVec 16) (ibc temps : Tab Nat) :
    let b := s.windowB
    completes (.capWindowEnd w ibc temps) s fun t =>
      t = { s with pwr := { s.pwr with qPwr := t.pwr.qPwr, pwrGood := t.pwr.pwrGood, qIbc := t.pwr.qIbc, ibcGood := t.pwr.ibcGood, ibcLow := t.pwr.ibcLow, taken := 0, doms := t.pwr.doms }, flt := { s.flt with folds := t.flt.folds } } ∧
      (b < w.toNat → t.pwr.qPwr = (if s.pwr.qPwr ≤ 1 then 1 else s.pwr.qPwr - 1) ∧ t.pwr.pwrGood = 0) ∧
      (w.toNat ≤ b → 95 * b < 100 * w.toNat → t.pwr.qPwr = s.pwr.qPwr ∧ t.pwr.pwrGood = 0) ∧
      (w.toNat ≤ b → 100 * w.toNat ≤ 95 * b →
        (9 ≤ s.pwr.pwrGood → t.pwr.qPwr = (if 16 ≤ s.pwr.qPwr then 16 else s.pwr.qPwr + 1) ∧ t.pwr.pwrGood = 0) ∧
        (s.pwr.pwrGood < 9 → t.pwr.qPwr = s.pwr.qPwr ∧ t.pwr.pwrGood = s.pwr.pwrGood + 1)) ∧
      (∀ f : FieldNo,
        let x := tget (fun _ => 0) ibc f.val
        (tget (fun _ => 0) t.pwr.ibcLow f.val = if x ≤ 1380 then tget (fun _ => 0) s.pwr.ibcLow f.val + 1 else 0) ∧
        (1500 < x → t.qIbcOf f = if s.qIbcOf f ≤ 1 then 1 else s.qIbcOf f - 1) ∧
        (1350 < x → x ≤ 1500 → t.qIbcOf f = s.qIbcOf f) ∧
        (x ≤ 1350 → t.qIbcOf f = if 9 ≤ tget (fun _ => 0) s.pwr.ibcGood f.val then
          (if 16 ≤ s.qIbcOf f then 16 else s.qIbcOf f + 1) else s.qIbcOf f)) ∧
      ∀ d : DomainNo,
        ((∀ p ∈ temps, p.1 ≠ d.val) → t.dom d = s.dom d) ∧
        ((∃ p ∈ temps, p.1 = d.val) →
          let x := tget (fun _ => 0) temps d.val
          t.dom d = { s.dom d with temp := (t.dom d).temp, qTh := (t.dom d).qTh } ∧ (t.dom d).temp.toNat = min 255 x ∧
          (t.dom d).qTh.toNat = if d.val < 40 ∧ 95 ≤ x then max 1 (16 - 3 * (x - 95) / 2) else 16) := by
  intro b
  have h1 : inputWindow w s = { s with pwr := { s.pwr with qPwr := (inputWindow w s).pwr.qPwr, pwrGood := (inputWindow w s).pwr.pwrGood, taken := 0 } } := rfl
  have hx := inputWindow_excess (w := w) (s := s)
  have hc := inputWindow_close (w := w) (s := s)
  have hf := inputWindow_fine (w := w) (s := s)
  refine ⟨_, capWindowEnd_eq w ibc temps s, ?_⟩
  generalize inputWindow w s = u at h1 hx hc hf
  have h2 := ibcWindow_frame ibc u
  have hi := ibcWindow_converter ibc u
  generalize ibcWindow ibc u = v at h2 hi
  have h3 := tempWindow_frame temps v
  have hd := tempWindow_dom temps v
  generalize tempWindow temps v = t at h3 hd
  have hq : t.pwr.qPwr = u.pwr.qPwr := by rw [h3, h2]
  have hg : t.pwr.pwrGood = u.pwr.pwrGood := by rw [h3, h2]
  have hco (f : FieldNo) : t.converter f.val = converterAfter (tget (fun _ => 0) ibc f.val) (s.converter f.val) := by
    calc t.converter f.val = v.converter f.val := by rw [h3]; rfl
      _ = _ := by rw [hi f, h1]; rfl
  rw [hq, hg]
  refine ⟨by rw [h3, h2, h1], hx, hc, hf, fun f => ⟨?_, fun hw => ?_, fun hl hw => ?_, fun hw => ?_⟩, fun d => ?_⟩
  · exact congrArg (·.2.2) (hco f)
  · exact (congrArg (·.1) (hco f)).trans (converterAfter_high hw _)
  · exact (congrArg (·.1) (hco f)).trans (converterAfter_middle hl hw _)
  · exact (congrArg (·.1) (hco f)).trans (converterAfter_low hw _)
  have hdom : v.dom d = s.dom d := by rw [h2, h1]; rfl
  have hany : (temps.any fun p => p.1 == d.val) = true ↔ ∃ p ∈ temps, p.1 = d.val := by
    rw [List.any_eq_true]
    simp only [beq_iff_eq]
  refine ⟨fun hn => ?_, fun hp => ?_⟩
  · rw [hd d, if_neg (fun h => (hany.mp h).elim fun p hp => hn p hp.1 hp.2), hdom]
  · rw [hd d, if_pos (hany.mpr hp), hdom]
    exact ⟨rfl, satNat_toNat, sampled_qTh ..⟩

/-! ### Forecasts (R367, R368) -/

@[simp] theorem State.site_at (s : State) (tm : Word64) (n : SiteNo) : (s.at tm).site n = s.site n := by
  unfold State.site
  rw [State.at_sites]

theorem State.region_at (s : State) (tm : Word64) (r : RegionNo) : (s.at tm).region r = s.region r := by
  unfold State.region
  rw [State.at_clk]

theorem forecastActivate_acts {s : State} {n : SiteNo} {i : Fin 4} {tm : Word64} {f : Forecast}
    (hf : (s.site n).forecasts[i.val]? = some f) (h : f.start.toNat ≤ (s.at tm).tb.toNat + 1000) :
    exec (.forecastActivate n i tm) s = .next ((s.at tm).setSite n
      { s.site n with forecasts := (s.site n).forecasts.set i.val { f with active := true } }) := by
  change execForecastActivate n i tm s = _
  unfold execForecastActivate
  dsimp only
  rw [State.site_at, hf]
  exact if_neg (by omega)

theorem forecastActivate_early {s : State} {n : SiteNo} {i : Fin 4} {tm : Word64} {f : Forecast}
    (hf : (s.site n).forecasts[i.val]? = some f) (h : (s.at tm).tb.toNat + 1000 < f.start.toNat) :
    exec (.forecastActivate n i tm) s = .next (s.at tm) := by
  change execForecastActivate n i tm s = _
  unfold execForecastActivate
  dsimp only
  rw [State.site_at, hf]
  exact if_pos h

theorem forecastEnd_ends {s : State} {n : SiteNo} {i : Fin 4} {tm : Word64} {f : Forecast}
    (hf : (s.site n).forecasts[i.val]? = some f) (h : f.stop ≤ (s.at tm).tb) :
    exec (.forecastEnd n i tm) s = .next ((s.at tm).setSite n
      { s.site n with forecasts := (s.site n).forecasts.eraseIdx i.val }) := by
  change execForecastEnd n i tm s = _
  unfold execForecastEnd
  dsimp only
  rw [State.site_at, hf]
  exact if_neg (BitVec.not_lt.mpr h)

theorem forecastEnd_early {s : State} {n : SiteNo} {i : Fin 4} {tm : Word64} {f : Forecast}
    (hf : (s.site n).forecasts[i.val]? = some f) (h : (s.at tm).tb < f.stop) :
    exec (.forecastEnd n i tm) s = .next (s.at tm) := by
  change execForecastEnd n i tm s = _
  unfold execForecastEnd
  dsimp only
  rw [State.site_at, hf]
  exact if_pos h

/-- The forecast that the hardware gives of an engine (R368). -/
def hwForecastOf (u : State) (c : Site) (e : EngNo) (l : Nat) : Forecast :=
  { engMask := setBit 0 e.val true, level := 16, start := u.tb + 500,
    stop := u.tb + 500 + BitVec.ofNat 64 (cyclesNs l (opMhz c.op).toNat), active := true }

theorem hwForecast_adds {s : State} {n : SiteNo} {e : EngNo} {tm : Word64} {f : MatrixF} {o : ArrayOp} {rest : List ArrayOp}
    (hq : ((s.site n).eng e).arrayQ = o :: rest) (hk : o.kind = .matrix f)
    (hi : (s.region (regionOf n)).mhz.toNat ≤ ((s.site n).cycle - ((s.site n).eng e).idleFrom).toNat)
    (hw : (s.site n).waitsOnTiles e o f = true) (hl : (s.site n).forecasts.length < 4) :
    exec (.hwForecast n e tm) s = .next ((s.at tm).setSite n { s.site n with
      forecasts := (s.site n).forecasts ++ [hwForecastOf (s.at tm) (s.site n) e
        (feedLen ((s.site n).eng e).cap.toNat (s.site n).cycle.toNat (feedSlots f.pair f.sparse o.m))] }) := by
  have hhead : ((s.site n).eng e).headFeed (s.site n).cycle.toNat =
      some (feedLen ((s.site n).eng e).cap.toNat (s.site n).cycle.toNat (feedSlots f.pair f.sparse o.m)) := by
    unfold Engine.headFeed
    rw [hq]
    dsimp only
    rw [hk]
  have hdue : (s.at tm).hwForecastDue n e = true := by
    unfold State.hwForecastDue
    dsimp only
    rw [State.site_at, hq]
    dsimp only
    rw [hk]
    exact Bool.and_eq_true_iff.mpr ⟨decide_eq_true (by rw [State.region_at]; exact hi), hw⟩
  change execHwForecast n e tm s = _
  unfold execHwForecast
  dsimp only
  rw [State.site_at, hhead]
  dsimp only
  rw [if_neg (by rw [hdue]; simp)]
  unfold addForecast
  rw [if_pos hl]
  rfl

theorem engMask_getLsbD (e k : EngNo) : (setBit (0 : BitVec 4) e.val true).getLsbD k.val = decide (k = e) := by
  revert e k
  decide

/-- Settles O51. -/
theorem operatingPointsCapsForecasts : Obligations.OperatingPointsCapsForecasts := by
  refine ⟨operatingPoint_moves, capWindow_ends, fun s n i tm f hf => ⟨fun h => ?_, fun h => ?_, fun h => ?_, fun h => ?_⟩,
    fun s n e tm f o rest hq hk _ hl hi hw => ?_⟩
  · exact ⟨_, forecastActivate_acts hf h, ⟨rfl, fun m hm => State.site_setSite_other _ _ hm⟩, State.site_setSite_same ..⟩
  · exact ⟨_, forecastActivate_early hf h, rfl⟩
  · exact ⟨_, forecastEnd_ends hf h, ⟨rfl, fun m hm => State.site_setSite_other _ _ hm⟩, State.site_setSite_same ..⟩
  · exact ⟨_, forecastEnd_early hf h, rfl⟩
  · exact ⟨_, hwForecast_adds hq hk hi hw hl, ⟨rfl, fun m hm => State.site_setSite_other _ _ hm⟩, _,
      State.site_setSite_same .., rfl, rfl, rfl, rfl, engMask_getLsbD e⟩

end Sys2Proof.Machine
end

section
/-!
PROOF. The failure of a core domain with a vote pending (R180, R376).
-/

namespace Sys2Proof.Machine

/-! ### A failing core domain with a vote pending (R180, R376) -/

theorem abandonVote_logs {s : State} {n : SiteNo} {v : Vote} (h : (s.site n).vote = some v) :
    (s.abandonVote n).flt.nextId = s.flt.nextId + 1 := by
  unfold State.abandonVote
  rw [h]
  rfl

/-- The failure of a powered core domain is recorded, and the vote it ends once more. -/
theorem failDomain_voted {s : State} {n : SiteNo} {v : Vote} (cause : BitVec 3) (hon : (s.dom (domOfSite n)).st = .on)
    (hv : (s.site n).vote = some v) : (s.failDomain n cause).flt.nextId = s.flt.nextId + 1 + 1 := by
  unfold State.failDomain
  dsimp only
  rw [if_neg (by rw [hon]; decide)]
  generalize hu : s.report 0x0502 (some n) _ 0 = u
  have hlog : u.flt.nextId = s.flt.nextId + 1 := by rw [← hu]; rfl
  have hst : (u.dom (domOfSite n)).st = .on := by rw [← hu]; exact hon
  have hvote : (u.site n).vote = some v := by rw [← hu]; exact hv
  rw [if_neg (by rw [hst]; decide)]
  generalize hw : State.modRegion _ _ _ = w
  have hwlog : w.flt = u.flt := by rw [← hw]; rfl
  have hwvote : (w.site n).vote = some v := by rw [← hw]; exact hvote
  change (w.abandonVote n).flt.nextId = _
  rw [abandonVote_logs hwvote, hwlog, hlog]

theorem mapOut_flt (s : State) (unit index : Nat) (cause : BitVec 16) : (s.mapOut unit index cause).flt = s.flt := by
  unfold State.mapOut
  split
  · rfl
  · rfl

/-- An operation that frees bank 0. -/
def oneFree : ArrayOp := { seq := 0, kind := .free 0, m := 1, anchorReg := 0, c1 := 0, c2 := 0, bundle := 0, slot := 0, named := 0 }

/-- Its passage through the array. -/
def oneFlight : Flight :=
  { op := oneFree, issue := 0, len := 0, cap := 16, slots := 0, taken := 0, capFrom := 0, anchor := 0, plane := false,
    contrib := [], pred := { rows := [], cols := [] }, rows := [], sat := false, nanOut := false, maxF := 0, usesCb := false, cancelled := false }

/-- A vote that waits for its replay engine. -/
def pendingVote : Vote :=
  { orig := 0, replay := 1, stage := .failed, flight := oneFlight,
    obs := { rows := [], cols := [], specialAgree := true, convBad := none }, misses := [], parked := none, pass := none }

/-- A device whose core C00 is powered and has a vote pending. -/
def votedDevice : State := { sites := [(0, { vote := some pendingVote })], pwr := { doms := [(0, { st := .on })] } }

/-- CORE_OVER_CURRENT at a core with a vote pending writes two records: CORE_DOMAIN_FAULT and the vote's ABANDONED. -/
theorem overCurrent_voted : exec (.coreOverCurrent 0) votedDevice =
    .next (((votedDevice.failDomain 0 1).modSite 0 fun c => { c with bad := true, spare := false }).mapOut 0 0 0x0502) := rfl

theorem overCurrent_voted_logs :
    (((votedDevice.failDomain 0 1).modSite 0 fun c => { c with bad := true, spare := false }).mapOut 0 0 0x0502).flt.nextId = 2 := by
  have h : (votedDevice.failDomain 0 1).flt.nextId = votedDevice.flt.nextId + 1 + 1 := failDomain_voted 1 rfl rfl
  generalize votedDevice.failDomain 0 1 = u at h
  rw [mapOut_flt]
  exact h

/-- Refutes O52: CORE_OVER_CURRENT at a core whose vote is pending logs two records, not one, since the vote ends with an
ABANDONED record of its own (R180). -/
theorem not_powerFaultsAndTelemetry : ¬ Obligations.PowerFaultsAndTelemetry := by
  intro h
  obtain ⟨_, hover, _⟩ := h
  obtain ⟨t, ht, hlogged, _⟩ := (hover votedDevice 0).1 (.inl rfl)
  obtain ⟨hid, _⟩ := hlogged
  rw [overCurrent_voted] at ht
  cases ht
  rw [overCurrent_voted_logs] at hid
  exact absurd hid (by decide)

end Sys2Proof.Machine
end

section
/-!
PROOF. The power group (R306, R307, R383, R384).
-/

namespace Sys2Proof.Machine

/-! ### The power group (R306, R307, R383, R384) -/

theorem satAdd_toNat {w : Nat} (v : BitVec w) (n : Nat) : (satAdd v n).toNat = min (2 ^ w - 1) (v.toNat + n) := satNat_toNat

/-- The lowest of a walk is among what it has seen, and none seen is lower. -/
theorem lowest_walk (ds : List (BitVec 12)) (d : BitVec 12) :
    let m := ds.foldl (fun a b => if b < a then b else a) d
    m ∈ d :: ds ∧ ∀ x ∈ d :: ds, m ≤ x := by
  induction ds generalizing d with
  | nil => exact ⟨List.mem_singleton.2 rfl, fun x hx => by rw [List.mem_singleton.1 hx]; exact BitVec.le_refl d⟩
  | cons b ds ih =>
    obtain ⟨hm, hlow⟩ := ih (if b < d then b else d)
    have hfirst := hlow _ List.mem_cons_self
    dsimp only [List.foldl_cons] at *
    generalize ds.foldl _ (if b < d then b else d) = m at *
    by_cases hb : b < d
    · rw [if_pos hb] at hm hlow hfirst
      refine ⟨List.mem_cons_of_mem _ hm, fun x hx => ?_⟩
      rcases List.mem_cons.1 hx with rfl | hx
      · exact BitVec.le_trans hfirst (BitVec.le_of_lt hb)
      · exact hlow x hx
    · rw [if_neg hb] at hm hlow hfirst
      refine ⟨?_, fun x hx => ?_⟩
      · rcases List.mem_cons.1 hm with h | h
        · exact h ▸ List.mem_cons_self
        · exact List.mem_cons_of_mem _ (List.mem_cons_of_mem _ h)
      · rcases List.mem_cons.1 hx with rfl | hx
        · exact hfirst
        · rcases List.mem_cons.1 hx with rfl | hx
          · exact BitVec.le_trans hfirst (BitVec.not_lt.mp hb)
          · exact hlow x (List.mem_cons_of_mem _ hx)

theorem lowestDev_lowest {ds : List (BitVec 12)} (h : ds ≠ []) : lowestDev ds ∈ ds ∧ ∀ x ∈ ds, lowestDev ds ≤ x := by
  cases ds with
  | nil => exact absurd rfl h
  | cons d ds => exact lowest_walk ds d

section
variable {s : State} {m : BudgetMsg}

theorem groupStart_starts (hr : s.host.ready = true) (hl : s.pwr.lock = false) (hg : s.pwr.groupEn = false)
    (h2 : 2 ≤ s.memberDevs.length) (hd : s.id.dev ∈ s.memberDevs) (ht : 3000 * s.memberDevs.length ≤ s.pwr.totalW.toNat) :
    let t := s.groupStart
    t = { s with pwr := t.pwr } ∧ t.pwr.groupEn = true ∧
      t.pwr.budget.toNat = min (s.pwr.totalW.toNat / s.memberDevs.length) s.pwr.limitW.toNat ∧
      (t.pwr.leader = true ↔ lowestDev s.memberDevs = s.id.dev) ∧ t.pwr.leaderDev = lowestDev s.memberDevs ∧
      (t.pwr.leader = true → t.pwr.pool.toNat = s.pwr.totalW.toNat - s.memberDevs.length * t.pwr.budget.toNat) ∧
      t.pwr.doms = s.pwr.doms ∧ t.pwr.limitW = s.pwr.limitW := by
  have hb : min (s.pwr.totalW.toNat / s.memberDevs.length) s.pwr.limitW.toNat < 2 ^ 16 :=
    lt_of_le_of_lt (Nat.min_le_right ..) s.pwr.limitW.isLt
  have hpool (n : Nat) : (BitVec.ofNat 20 (s.pwr.totalW.toNat - n)).toNat = s.pwr.totalW.toNat - n := by
    have := s.pwr.totalW.isLt
    rw [BitVec.toNat_ofNat, Nat.mod_eq_of_lt (by omega)]
  unfold State.groupStart
  dsimp only
  rw [if_neg (by rw [hr, hl, hg]; simp), if_neg (by rw [List.contains_iff_mem.mpr hd]; simp; omega)]
  refine ⟨rfl, rfl, ?_, decide_eq_true_iff, rfl, fun h => ?_, rfl, rfl⟩
  · rw [BitVec.toNat_ofNat, Nat.mod_eq_of_lt hb]
  · dsimp only at h ⊢
    rw [if_pos (of_decide_eq_true h), hpool, BitVec.toNat_ofNat, Nat.mod_eq_of_lt hb]

theorem groupStart_refused (hr : s.host.ready = true) (hl : s.pwr.lock = false) (hg : s.pwr.groupEn = false)
    (h : s.memberDevs.length < 2 ∨ s.id.dev ∉ s.memberDevs ∨ s.pwr.totalW.toNat < 3000 * s.memberDevs.length) :
    s.groupStart = { s with pwr := { s.pwr with groupErr := true } } := by
  unfold State.groupStart
  dsimp only
  rw [if_neg (by rw [hr, hl, hg]; simp)]
  refine if_pos (h.imp_right fun h => h.imp_left fun h => ?_)
  rw [← Bool.not_eq_true, List.contains_iff_mem]
  exact h

theorem groupEnd_ends (hr : s.host.ready = true) (hl : s.pwr.lock = false) (hg : s.pwr.groupEn = true) :
    let t := s.groupEnd
    t = { s with pwr := t.pwr } ∧ t.pwr.groupEn = false ∧ t.pwr.budget = s.pwr.limitW ∧ t.pwr.leader = false ∧
      t.pwr.pool = 0 ∧ t.pwr.doms = s.pwr.doms := by
  unfold State.groupEnd
  rw [if_neg (by rw [hr, hl, hg]; simp)]
  exact ⟨rfl, rfl, rfl, rfl, rfl, rfl⟩

theorem budgetWindowEnd_reports (w slack : Word32) (hg : s.pwr.groupEn = true) (hl : s.pwr.leader = false) :
    exec (.budgetWindowEnd w slack) s = .next { s with out := s.out ++
      [.budget .report s.pwr.leaderDev (s.budgetMsg w (s.pwr.budget.setWidth 32) slack)] } := by
  change execBudgetWindowEnd w slack s = _
  unfold execBudgetWindowEnd
  rw [if_neg (by rw [hg]; simp)]
  dsimp only
  rw [if_neg (by rw [hl]; simp)]
  rfl

theorem giveOne_out (s : State) (w : Word32) (r : BitVec 12 × Member) : ∃ l, (s.giveOne w r).out = s.out ++ l := by
  unfold State.giveOne
  dsimp only
  split
  · exact ⟨[], (List.append_nil _).symm⟩
  · exact ⟨_, rfl⟩

/-- What a giving sends comes behind what has been sent. -/
theorem giveAll_out (s : State) (w : Word32) : ∃ l, (s.giveAll w).out = s.out ++ l := by
  unfold State.giveAll
  split
  · exact ⟨[], (List.append_nil _).symm⟩
  · refine foldl_inv (fun t => ∃ l, State.out t = s.out ++ l) _ (fun t r h => ?_) _ _ ⟨[], (List.append_nil _).symm⟩
    obtain ⟨l, h⟩ := h
    obtain ⟨k, hk⟩ := giveOne_out t w r
    exact ⟨l ++ k, by rw [hk, h, List.append_assoc]⟩

theorem resendGives_out {w : Word32} {g : BitVec 12 × BitVec 32 × BitVec 32} (hg : g ∈ s.pwr.gives)
    (hm : s.missing (w - 1) g.1 = false) : .budget .give g.1 (s.budgetMsg g.2.2 g.2.1 0) ∈ (s.resendGives w).out :=
  List.mem_append_right _ (List.mem_map_of_mem (f := fun g => Out.budget .give g.1 (s.budgetMsg g.2.2 g.2.1 0))
    (List.mem_filter.mpr ⟨hg, by rw [hm]; rfl⟩))

theorem budgetWindowEnd_resends {w : Word32} {g : BitVec 12 × BitVec 32 × BitVec 32} (slack : Word32) (he : s.pwr.groupEn = true)
    (hl : s.pwr.leader = true) (hg : g ∈ s.pwr.gives) (hm : s.missing (w - 1) g.1 = false) :
    completes (.budgetWindowEnd w slack) s fun t => .budget .give g.1 (s.budgetMsg g.2.2 g.2.1 0) ∈ t.out := by
  have h : exec (.budgetWindowEnd w slack) s = execBudgetWindowEnd w slack s := rfl
  unfold execBudgetWindowEnd at h
  rw [if_neg (by rw [he]; simp)] at h
  dsimp only at h
  rw [if_pos hl] at h
  refine ⟨_, h, List.mem_append_left _ ?_⟩
  obtain ⟨l, hout⟩ := giveAll_out (s.resendGives w) (w - 1)
  rw [hout]
  exact List.mem_append_left _ (resendGives_out hg hm)

/-- A window with an open TAKE is not complete. -/
theorem windowComplete_open {w : Word32} {x : BitVec 12 × BitVec 32} (hx : x ∈ s.pwr.takes) (hw : x.2 = w) :
    s.windowComplete w = false := by
  have h : (s.pwr.takes.any fun t => decide (t.2 = w)) = true := List.any_eq_true.mpr ⟨x, hx, decide_eq_true hw⟩
  unfold State.windowComplete
  rw [h, Bool.not_true, Bool.and_false]

theorem reported_of (r : Member) (h : s.member m.dev = some r) : s.reported m = decide (r.window = m.window) := by
  unfold State.reported
  rw [h]

theorem reported_none (h : ∀ r, s.member m.dev = some r → r.window ≠ m.window) : s.reported m = false := by
  unfold State.reported
  split
  next r hr => exact decide_eq_false (h r hr)
  · rfl

theorem giveUp_eq {b : Nat} (h : 3000 < b) : giveUp b = min (b - 3000) (b / 20) := if_neg (by omega)

/-- The leader's state after a REPORT that it answers with a TAKE. -/
def reportTaken (s : State) (m : BudgetMsg) : State :=
  { s with
    pwr := { s.pwr with
      reports := tset (fun _ => none) s.pwr.reports m.dev.toNat (some { watts := m.watts, slack := m.slack, window := m.window }),
      takes := s.pwr.takes ++ [(m.dev, m.window)] },
    out := s.out ++ [.budget .take m.dev (s.budgetMsg m.window (BitVec.ofNat 32 (giveUp m.watts.toNat)) 0)] }

theorem report_takes (hg : s.pwr.groupEn = true) (hl : s.pwr.leader = true) (hd : m.dev ∈ s.memberDevs)
    (h200 : 200 ≤ m.slack) (hw : 3000 < m.watts) (hr : ∀ r, s.member m.dev = some r → r.window ≠ m.window) :
    exec (.report m) s = .next (reportTaken s m) := by
  have hw' : 3000 < m.watts.toNat := hw
  have hc : 200 ≤ m.slack.toNat ∧ 0 < giveUp m.watts.toNat := ⟨h200, by rw [giveUp_eq hw']; omega⟩
  change execReport m s = _
  unfold execReport
  rw [if_neg (by rw [hg, hl, List.contains_iff_mem.mpr hd, reported_none hr]; simp)]
  dsimp only
  rw [if_pos hc]
  have hopen : (reportTaken s m).windowComplete m.window = false :=
    windowComplete_open (x := (m.dev, m.window)) (List.mem_append_right _ (List.mem_singleton.2 rfl)) rfl
  change Host.Outcome.next (if (reportTaken s m).windowComplete m.window = true then _ else reportTaken s m) = _
  rw [if_neg (by rw [hopen]; simp)]

theorem reportTaken_member : (reportTaken s m).member m.dev = some { watts := m.watts, slack := m.slack, window := m.window } ∧
    ∀ d, d ≠ m.dev → (reportTaken s m).member d = s.member d := by
  unfold State.member reportTaken
  dsimp only
  exact ⟨tget_tset_same .., fun d hd => tget_tset_other _ _ _ fun e => hd (BitVec.eq_of_toNat_eq e)⟩

theorem giveUp_toNat (h : 3000 < m.watts) :
    (BitVec.ofNat 32 (giveUp m.watts.toNat)).toNat = min (m.watts.toNat - 3000) (m.watts.toNat / 20) := by
  have := m.watts.isLt
  rw [giveUp_eq h, BitVec.toNat_ofNat, Nat.mod_eq_of_lt (by omega)]

theorem report_held (r : Member) (h : s.member m.dev = some r) (hw : r.window = m.window) : exec (.report m) s = .next s :=
  if_pos (.inr (.inr (.inr (by rw [reported_of r h, decide_eq_true hw]))))

/-- The watts that a TAKE takes. -/
def takenW (s : State) (m : BudgetMsg) : Nat := min m.watts.toNat s.pwr.budget.toNat

theorem take_takes (hg : s.pwr.groupEn = true) (h : s.pwr.lastTake ≠ some m.window) :
    exec (.take m) s = .next { s with
      pwr := { s.pwr with budget := BitVec.ofNat 16 (s.pwr.budget.toNat - takenW s m), lastTake := some m.window,
                          heard := m.window, taken := satAdd s.pwr.taken (takenW s m) },
      out := s.out ++ [.budget .takeAck m.dev (s.budgetMsg m.window (BitVec.ofNat 32 (takenW s m)) 0)] } :=
  if_neg fun k => k.elim (fun k => by rw [hg] at k; exact nomatch k) h

theorem take_repeated (h : s.pwr.lastTake = some m.window) : exec (.take m) s = .next s := if_pos (.inr h)

/-- The watts of a GIVE that a member applies. -/
def givenW (s : State) (m : BudgetMsg) : Nat := min m.watts.toNat (s.pwr.limitW.toNat - s.pwr.budget.toNat)

theorem give_raises (hg : s.pwr.groupEn = true) (h : ∀ x, s.pwr.lastGive ≠ some (m.window, x)) :
    exec (.give m) s = .next { s with
      pwr := { s.pwr with budget := BitVec.ofNat 16 (s.pwr.budget.toNat + givenW s m),
                          lastGive := some (m.window, BitVec.ofNat 32 (givenW s m)), heard := m.window },
      out := s.out ++ [.budget .giveAck m.dev (s.budgetMsg m.window (BitVec.ofNat 32 (givenW s m)) 0)] } := by
  have hnone : (s.pwr.lastGive.filter fun g => decide (g.1 = m.window)) = none := by
    rw [Option.filter_eq_none_iff]
    intro g hlast hw
    exact h g.2 (hlast.trans (by rw [← of_decide_eq_true hw]))
  change execGive m s = _
  unfold execGive
  rw [if_neg (by rw [hg]; simp), hnone]
  rfl

theorem give_repeated {w : BitVec 32} (hg : s.pwr.groupEn = true) (h : s.pwr.lastGive = some (m.window, w)) :
    exec (.give m) s = .next { s with out := s.out ++ [.budget .giveAck m.dev (s.budgetMsg m.window w 0)] } := by
  have hsome : (s.pwr.lastGive.filter fun g => decide (g.1 = m.window)) = some (m.window, w) := by
    rw [h]
    exact if_pos (decide_eq_true rfl)
  change execGive m s = _
  unfold execGive
  rw [if_neg (by rw [hg]; simp), hsome]
  rfl

theorem takeAck_pools (hl : s.pwr.leader = true) (hm : (m.dev, m.window) ∈ s.pwr.takes)
    (ho : ∃ x ∈ s.pwr.takes, x.2 = m.window ∧ x.1 ≠ m.dev) :
    exec (.takeAck m) s = .next { s with pwr := { s.pwr with
      pool := satAdd s.pwr.pool m.watts.toNat,
      takes := s.pwr.takes.filter fun t => decide (t ≠ (m.dev, m.window)) } } := by
  obtain ⟨x, hx, hxw, hxd⟩ := ho
  change execTakeAck m s = _
  unfold execTakeAck
  rw [if_neg (by rw [hl, List.contains_iff_mem.mpr hm]; simp)]
  dsimp only
  rw [windowComplete_open (List.mem_filter.mpr ⟨hx, by rw [decide_eq_true_eq]; exact fun e => hxd (congrArg Prod.fst e)⟩) hxw]
  rfl

theorem giveAck_returns {past rest : List (BitVec 12 × BitVec 32 × BitVec 32)} {w : BitVec 32}
    (hg : s.pwr.gives = past ++ (m.dev, w, m.window) :: rest) (hp : ∀ x ∈ past, x.1 ≠ m.dev) :
    exec (.giveAck m) s = .next { s with pwr := { s.pwr with
      pool := satAdd s.pwr.pool (w.toNat - m.watts.toNat),
      gives := s.pwr.gives.filter fun x => decide (x.1 ≠ m.dev) } } := by
  have hfind : (s.pwr.gives.find? fun g => decide (g.1 = m.dev) && decide (g.2.2 = m.window)) = some (m.dev, w, m.window) := by
    rw [List.find?_eq_some_iff_append]
    refine ⟨by simp, past, rest, hg, fun a ha => ?_⟩
    rw [decide_eq_false (hp a ha)]
    rfl
  change execGiveAck m s = _
  unfold execGiveAck
  rw [hfind]

end

section
variable {s : State} {m : BudgetMsg}

/-- The watts that the members of the group hold, as a new leader knows them (R307). -/
def heldW (s : State) : Nat :=
  (s.memberDevs.map fun d =>
    if d = s.id.dev then s.pwr.budget.toNat
    else match s.member d with
      | some m => m.watts.toNat
      | none => min (s.pwr.totalW.toNat / s.memberDevs.length) s.pwr.limitW.toNat).sum

/-- The later members, of whom the lowest leads next (R307). -/
def laterDevs (s : State) : List (BitVec 12) := s.memberDevs.filter fun d => decide (s.pwr.leaderDev < d)

theorem leaderTimeout_still {w : Word32} (h : s.pwr.leader = true ∨ w.toNat < s.pwr.heard.toNat + 10) :
    exec (.leaderTimeout w) s = .next s := if_pos (.inr h)

theorem leaderTimeout_leads {w : Word32} (hg : s.pwr.groupEn = true) (hl : s.pwr.leader = false)
    (hw : s.pwr.heard.toNat + 10 ≤ w.toNat) (hd : laterDevs s ≠ []) :
    ∃ pool, exec (.leaderTimeout w) s = .next (({ s with pwr := { s.pwr with
      leaderDev := lowestDev (laterDevs s), leader := decide (lowestDev (laterDevs s) = s.id.dev), heard := w, pool := pool } } : State).fault
        0x050A none ((lowestDev (laterDevs s)).setWidth 32) 0) := by
  refine ⟨if decide (lowestDev (laterDevs s) = s.id.dev) then BitVec.ofNat 20 (s.pwr.totalW.toNat - heldW s) else 0, ?_⟩
  change execLeaderTimeout w s = _
  unfold execLeaderTimeout
  rw [if_neg (by rw [hg, hl]; simp; omega)]
  exact if_neg hd

/-- The next leader is the lowest of the later members. -/
theorem nextLeader (h : ∃ d ∈ s.memberDevs, s.pwr.leaderDev < d) : laterDevs s ≠ [] ∧
    lowestDev (laterDevs s) ∈ s.memberDevs ∧ s.pwr.leaderDev < lowestDev (laterDevs s) ∧
    ∀ d ∈ s.memberDevs, s.pwr.leaderDev < d → lowestDev (laterDevs s) ≤ d := by
  obtain ⟨d, hd, hlt⟩ := h
  have hne : laterDevs s ≠ [] := List.ne_nil_of_mem (List.mem_filter.mpr ⟨hd, decide_eq_true hlt⟩)
  obtain ⟨hm, hlow⟩ := lowestDev_lowest hne
  obtain ⟨hmem, hlater⟩ := List.mem_filter.1 hm
  exact ⟨hne, hmem, of_decide_eq_true hlater, fun e he k => hlow e (List.mem_filter.mpr ⟨he, decide_eq_true k⟩)⟩

theorem takenW_le : takenW s m ≤ s.pwr.budget.toNat := Nat.min_le_right ..

theorem takenW_toNat : (BitVec.ofNat 32 (takenW s m)).toNat = min m.watts.toNat s.pwr.budget.toNat := by
  have := takenW_le (s := s) (m := m)
  have := s.pwr.budget.isLt
  rw [BitVec.toNat_ofNat, Nat.mod_eq_of_lt (by omega)]
  rfl

theorem budget_taken : (BitVec.ofNat 16 (s.pwr.budget.toNat - takenW s m)).toNat = s.pwr.budget.toNat - m.watts.toNat := by
  have := s.pwr.budget.isLt
  unfold takenW
  rw [BitVec.toNat_ofNat, Nat.mod_eq_of_lt (by omega)]
  omega

theorem givenW_toNat : (BitVec.ofNat 32 (givenW s m)).toNat = min m.watts.toNat (s.pwr.limitW.toNat - s.pwr.budget.toNat) := by
  have := s.pwr.limitW.isLt
  unfold givenW
  rw [BitVec.toNat_ofNat, Nat.mod_eq_of_lt (by omega)]

theorem budget_given (h : s.pwr.budget ≤ s.pwr.limitW) :
    (BitVec.ofNat 16 (s.pwr.budget.toNat + givenW s m)).toNat = min (s.pwr.budget.toNat + m.watts.toNat) s.pwr.limitW.toNat := by
  have := s.pwr.limitW.isLt
  have : s.pwr.budget.toNat ≤ s.pwr.limitW.toNat := h
  unfold givenW
  rw [BitVec.toNat_ofNat, Nat.mod_eq_of_lt (by omega)]
  omega

end

/-- Settles O43. -/
theorem powerGroupBudgets : Obligations.PowerGroupBudgets := by
  refine ⟨fun s acc hr hl => ⟨fun hg h2 hd ht => ?_, fun hg h => ?_, fun hg => ?_⟩, fun s w slack hg hl => ?_,
    fun s m hg hl hd h200 hw hr => ?_, fun s m r hm hw => ⟨s, report_held r hm hw, rfl⟩, fun s w slack g he hl hg hm => ?_,
    fun s m hg => ⟨fun h => ?_, fun h => ⟨s, take_repeated h, rfl⟩, fun h hb => ?_, fun w h => ?_⟩,
    fun s m hl hm ho => ?_, fun s m past rest w hg hp => ?_,
    fun s w hg => ⟨fun hl => ⟨s, leaderTimeout_still (.inl hl), rfl⟩, fun hl hw hd => ?_,
      fun hw => ⟨s, leaderTimeout_still (.inr hw), rfl⟩⟩⟩
  · exact ⟨_, rfl, groupStart_starts hr hl hg h2 hd ht⟩
  · exact ⟨_, rfl, groupStart_refused hr hl hg h⟩
  · exact ⟨_, rfl, groupEnd_ends hr hl hg⟩
  · exact ⟨_, budgetWindowEnd_reports w slack hg hl, _, rfl, rfl, rfl, rfl, rfl⟩
  · exact ⟨_, report_takes hg hl hd h200 hw hr, rfl, reportTaken_member.1, reportTaken_member.2, rfl, rfl, rfl, _, rfl, rfl,
      giveUp_toNat hw⟩
  · obtain ⟨t, ht, hout⟩ := budgetWindowEnd_resends slack he hl hg hm
    exact ⟨t, ht, _, hout, rfl, rfl, rfl⟩
  · refine ⟨_, take_takes hg h, rfl, budget_taken, rfl, rfl, _, rfl, rfl, rfl, takenW_toNat, ?_⟩
    exact (satAdd_toNat ..).trans (by rw [show (s.budgetMsg m.window (BitVec.ofNat 32 (takenW s m)) 0).watts.toNat = takenW s m from takenW_toNat]; rfl)
  · exact ⟨_, give_raises hg h, rfl, budget_given hb, rfl, _, rfl, rfl, rfl, givenW_toNat⟩
  · exact ⟨_, give_repeated hg h, _, rfl, rfl, rfl⟩
  · refine ⟨_, takeAck_pools hl hm ho, rfl, satAdd_toNat .., fun h => ?_, fun x hx => ?_⟩
    · exact absurd rfl (of_decide_eq_true (List.mem_filter.1 h).2)
    · exact ⟨fun h => (List.mem_filter.1 h).1, fun h => List.mem_filter.mpr ⟨h, by rw [decide_eq_true_eq]; exact hx⟩⟩
  · refine ⟨_, giveAck_returns hg hp, rfl, satAdd_toNat .., fun x hx => ?_, fun x hx => ?_⟩
    · exact of_decide_eq_true (List.mem_filter.1 hx).2
    · exact ⟨fun h => (List.mem_filter.1 h).1, fun h => List.mem_filter.mpr ⟨h, by rw [decide_eq_true_eq]; exact hx⟩⟩
  · obtain ⟨hne, hmem, hlt, hlow⟩ := nextLeader hd
    obtain ⟨pool, hx⟩ := leaderTimeout_leads hg hl hw hne
    exact ⟨_, hx, rfl, record_logged .., hmem, hlt, hlow, decide_eq_true_iff, rfl, rfl⟩

end Sys2Proof.Machine
end

section
/-!
PROOF. The reeve's mailbox and recovery sessions (R430 to R449).
-/

namespace Sys2Proof.Machine

/-! ### Tables of bytes -/

theorem tget_zipped (bs : List Byte) (n i : Nat) :
    tget (fun _ => 0) ((bs.zipIdx n).filterMap fun p => if p.1 = 0 then none else some (p.2, p.1)) i =
      if n ≤ i then bs[i - n]?.getD 0 else 0 := by
  induction bs generalizing n with
  | nil => simp [tget]
  | cons b bs ih =>
    rw [List.zipIdx_cons, List.filterMap_cons]
    by_cases hi : i = n
    · subst hi
      by_cases hb : b = 0
      · rw [if_pos hb, ih, if_neg (by omega), if_pos (Nat.le_refl i), hb]
        simp
      · rw [if_neg hb, if_pos (Nat.le_refl i)]
        simp [tget]
    · have hrest : tget (fun _ => 0) ((bs.zipIdx (n + 1)).filterMap fun p => if p.1 = 0 then none else some (p.2, p.1)) i =
          if n ≤ i then (b :: bs)[i - n]?.getD 0 else 0 := by
        rw [ih]
        by_cases hn : n ≤ i
        · rw [if_pos (by omega), if_pos hn, show i - n = (i - (n + 1)) + 1 by omega, List.getElem?_cons_succ]
        · rw [if_neg (by omega), if_neg hn]
      by_cases hb : b = 0
      · rw [if_pos hb]
        exact hrest
      · rw [if_neg hb, ← hrest]
        simp [tget, Ne.symm hi]

theorem tget_bytesTab (bs : List Byte) (i : Nat) : tget (fun _ => 0) (bytesTab bs) i = bs[i]?.getD 0 :=
  (tget_zipped bs 0 i).trans (if_pos (Nat.zero_le i))

theorem tbytes_bytesTab (bs : List Byte) : tbytes (fun _ => 0) (bytesTab bs) 0 bs.length = bs := by
  refine List.ext_getElem? fun j => ?_
  rw [tbytes_getElem?, Nat.zero_add, tget_bytesTab]
  by_cases h : j < bs.length
  · rw [if_pos h, List.getElem?_eq_getElem h]
    rfl
  · rw [if_neg h, List.getElem?_eq_none (Nat.not_lt.mp h)]

/-! ### The reeve's mailbox (R447 to R449) -/

section
variable {s : State} {f : State → State} {c : Instr} {o : Host.Outcome State Fault Refusal}

theorem mboxDone_replied (s : State) (st : BitVec 3) (bs : List Byte) : replied s (s.mboxDone st bs) st bs :=
  ⟨rfl, tbytes_bytesTab bs⟩

theorem mailbox_recovering (ha : s.board.alwaysOn = true) (hr : s.sec.recovery = true) (f : State → State) :
    s.mailbox f = .next (s.mboxDone 2 []) := by
  unfold State.mailbox
  rw [if_neg (by rw [ha]; simp), if_pos hr]

theorem mailbox_runs (ha : s.board.alwaysOn = true) (hr : s.sec.recovery = false) (f : State → State) :
    s.mailbox f = .next (f s) := by
  unfold State.mailbox
  rw [if_neg (by rw [ha]; simp), if_neg (by rw [hr]; simp)]

/-- A mailbox command outside recovery does what its meaning gives. -/
theorem mailbox_completes {P : State → Prop} (ha : s.board.alwaysOn = true) (hr : s.sec.recovery = false)
    (hc : exec c s = o) (ho : o = s.mailbox f) {t : State} (hf : f s = t) (h : P t) : completes c s P :=
  ⟨t, by rw [hc, ho, mailbox_runs ha hr, hf], h⟩

/-- One that answers a status and its bytes. -/
theorem mailbox_replies {u : State} {st : BitVec 3} {bs : List Byte} (ha : s.board.alwaysOn = true)
    (hr : s.sec.recovery = false) (hc : exec c s = o) (ho : o = s.mailbox f) (hf : f s = u.mboxDone st bs) :
    completes c s fun t => replied u t st bs :=
  mailbox_completes ha hr hc ho hf (mboxDone_replied u st bs)

end

/-! ### Attestation (R448) -/

section
variable {s : State}

theorem takeLeaf_held (h : s.sec.nextLeaf.toNat + 1024 ≤ 2 ^ 40) (hb : s.sec.nextLeaf < s.sec.batchEnd) :
    s.takeLeaf = ({ s with sec := { s.sec with nextLeaf := s.sec.nextLeaf + 1 } }, some s.sec.nextLeaf.toNat) := by
  unfold State.takeLeaf
  dsimp only
  rw [if_neg (by omega), if_neg (BitVec.not_le.mpr hb)]

theorem takeLeaf_reserved (h : s.sec.nextLeaf.toNat + 1024 ≤ 2 ^ 40) (hb : s.sec.batchEnd ≤ s.sec.nextLeaf) :
    s.takeLeaf = ({ s with
      sec := { s.sec with nextLeaf := s.sec.nextLeaf + 1, batchEnd := s.sec.nextLeaf + 1024 },
      jrnl := { s.jrnl with buf := s.jrnl.buf ++ [.reserve s.sec.nextLeaf] } }, some s.sec.nextLeaf.toNat) := by
  unfold State.takeLeaf
  dsimp only
  rw [if_neg (by omega), if_pos hb]
  unfold State.journal Journal.append
  rfl

theorem takeLeaf_exhausted (h : 2 ^ 40 < s.sec.nextLeaf.toNat + 1024) (he : s.sec.exhausted = true) :
    s.takeLeaf = (s, none) := by
  unfold State.takeLeaf
  dsimp only
  rw [if_pos h, if_pos he]

/-- Any reserve leaves all but the leaf and its batch. -/
theorem takeLeaf_takes (h : s.sec.nextLeaf.toNat + 1024 ≤ 2 ^ 40) : ∃ e j, s.takeLeaf = ({ s with
    sec := { s.sec with nextLeaf := s.sec.nextLeaf + 1, batchEnd := e }, jrnl := j }, some s.sec.nextLeaf.toNat) := by
  by_cases hb : s.sec.batchEnd ≤ s.sec.nextLeaf
  · exact ⟨_, _, takeLeaf_reserved h hb⟩
  · exact ⟨_, _, takeLeaf_held h (BitVec.not_le.mp hb)⟩

/-- What an ATTEST without a key does, once its scope is known. -/
theorem attest_plain {x : Byte} {sc : Option HamletNo} {nonce : BitVec 256} {u : State} {n : Nat}
    (ha : s.board.alwaysOn = true) (hr : s.sec.recovery = false) (hsc : s.attestScope x = some sc)
    (hl : s.takeLeaf = (u, some n)) :
    exec (.attest x nonce none) s = .next (u.attestWith sc nonce none n) := by
  rw [show exec (.attest x nonce none) s = execAttest x nonce none s from rfl]
  unfold execAttest
  rw [mailbox_runs ha hr]
  dsimp only
  rw [hsc]
  dsimp only
  rw [if_neg (by simp), if_neg (by simp), hl]

theorem attestWith_plain (u : State) (sc : Option HamletNo) (nonce : BitVec 256) (n : Nat) :
    u.attestWith sc nonce none n = u.mboxDone 0 (u.attestBody sc nonce (zeros 1568) false ++
      Config.sign n (u.attestBody sc nonce (zeros 1568) false)) := rfl

theorem attest_noScope {x : Byte} {nonce : BitVec 256} (ha : s.board.alwaysOn = true) (hr : s.sec.recovery = false)
    (hsc : s.attestScope x = none) : exec (.attest x nonce none) s = .next (s.mboxDone 2 []) := by
  rw [show exec (.attest x nonce none) s = execAttest x nonce none s from rfl]
  unfold execAttest
  rw [mailbox_runs ha hr]
  dsimp only
  rw [hsc]

theorem attest_noLeaf {x : Byte} {sc : Option HamletNo} {nonce : BitVec 256} (ha : s.board.alwaysOn = true)
    (hr : s.sec.recovery = false) (hsc : s.attestScope x = some sc) (hl : s.takeLeaf = (s, none)) :
    exec (.attest x nonce none) s = .next (s.mboxDone 5 []) := by
  rw [show exec (.attest x nonce none) s = execAttest x nonce none s from rfl]
  unfold execAttest
  rw [mailbox_runs ha hr]
  dsimp only
  rw [hsc]
  dsimp only
  rw [if_neg (by simp), if_neg (by simp), hl]

theorem attest_keyed {x : Byte} {h : HamletNo} {nonce ek : BitVec 256} {u : State} {n : Nat}
    (ha : s.board.alwaysOn = true) (hr : s.sec.recovery = false) (hsc : s.attestScope x = some (some h))
    (hk : (s.hamlet h).hostEnc = true) (he : s.sec.entropyOk = true) (hl : s.takeLeaf = (u, some n)) :
    exec (.attest x nonce (some ek)) s = .next (u.attestWith (some h) nonce (some ek) n) := by
  rw [show exec (.attest x nonce (some ek)) s = execAttest x nonce (some ek) s from rfl]
  unfold execAttest
  rw [mailbox_runs ha hr]
  dsimp only
  rw [hsc]
  dsimp only
  rw [if_neg (by rw [show s.keyAllowed (some h) = (s.hamlet h).hostEnc from rfl, hk]; simp), if_neg (by rw [he]; simp), hl]

/-- A key exchange gives its hamlet the next key, and answers. -/
theorem attestWith_keyed (u : State) (h : HamletNo) (nonce ek : BitVec 256) (n : Nat) :
    let t := u.attestWith (some h) nonce (some ek) n
    t.sec.status = 0 ∧ t.hamlet h = { u.hamlet h with hostKey := some (u.mem.keyCount + 1) } ∧
      (∀ k, k ≠ h → t.hamlet k = u.hamlet k) ∧ t.sec.nextLeaf = u.sec.nextLeaf := by
  have hsame := State.hamlet_modHamlet_same u.newKey.1 h fun h => { h with hostKey := some (u.mem.keyCount + 1) }
  have hother {k} := State.hamlet_modHamlet_other u.newKey.1 (n := h) (m := k) fun h => { h with hostKey := some (u.mem.keyCount + 1) }
  exact ⟨rfl, hsame, fun k hk => hother hk, rfl⟩

end

section
variable {s : State}

/-- A leaf spent, and its batch reserved, show in no report body. -/
theorem attestBody_leaf (s : State) (n e : BitVec 64) (b : List JRec) (sc : Option HamletNo) (nonce : BitVec 256) (kem : List Byte)
    (key : Bool) : ({ s with sec := { s.sec with nextLeaf := n, batchEnd := e }, jrnl := { s.jrnl with buf := b } } : State).attestBody
      sc nonce kem key = s.attestBody sc nonce kem key := rfl

/-! ### Links start confirmation (R438) -/

theorem startConfirm_same (s : State) (l : LinkNo) : ((s.startConfirm l).link l).confirmed = false := by
  unfold State.startConfirm
  dsimp only
  split
  · exact congrArg Link.confirmed (State.link_setLink_same ..)
  · exact congrArg Link.confirmed (State.link_setLink_same ..)

theorem startConfirm_other (s : State) {l k : LinkNo} (h : k ≠ l) : (s.startConfirm l).link k = s.link k := by
  unfold State.startConfirm
  dsimp only
  split
  · exact State.link_setLink_other s _ h
  · exact State.link_setLink_other s _ h

theorem startConfirm_sec (s : State) (l : LinkNo) : (s.startConfirm l).sec = s.sec := by
  unfold State.startConfirm
  dsimp only
  split
  · rfl
  · rfl

theorem startConfirms_sec (L : List LinkNo) (s : State) : (L.foldl State.startConfirm s).sec = s.sec :=
  foldl_keeps State.sec _ (fun s l => startConfirm_sec s l) L s

theorem startConfirms_out {L : List LinkNo} {l : LinkNo} (h : l ∉ L) (s : State) :
    (L.foldl State.startConfirm s).link l = s.link l := by
  induction L generalizing s with
  | nil => rfl
  | cons a L ih =>
    rw [List.mem_cons, not_or] at h
    obtain ⟨h1, h2⟩ := h
    exact (ih h2 _).trans (startConfirm_other s h1)

theorem startConfirms_in {L : List LinkNo} {l : LinkNo} (h : l ∈ L) (s : State) :
    ((L.foldl State.startConfirm s).link l).confirmed = false := by
  induction L generalizing s with
  | nil => exact nomatch h
  | cons a L ih =>
    by_cases hl : l ∈ L
    · exact ih hl _
    · rw [List.foldl_cons, startConfirms_out hl]
      rcases List.mem_cons.1 h with rfl | h
      · exact startConfirm_same s l
      · exact absurd h hl

/-- A hamlet that is bound: the binding stands, and its links, no other, are unconfirmed. -/
theorem hamletBound (s : State) (h : HamletNo) (b : BitVec 256) :
    let t := ((((s.modHamlet h fun v => { v with binding := b }).hamlet h).linkList.foldl State.startConfirm
      (s.modHamlet h fun v => { v with binding := b })).mboxDone 0 [])
    t.hamlet h = { s.hamlet h with binding := b } ∧ (∀ k, k ≠ h → t.hamlet k = s.hamlet k) ∧ t.sec.status = 0 ∧
      (∀ l ∈ (s.hamlet h).linkList, (t.link l).confirmed = false) ∧ ∀ l, l ∉ (s.hamlet h).linkList → t.link l = s.link l := by
  have hlist : ((s.modHamlet h fun v => { v with binding := b }).hamlet h).linkList = (s.hamlet h).linkList := by
    rw [State.hamlet_modHamlet_same]
    rfl
  rw [hlist]
  generalize (s.hamlet h).linkList = L
  have hsec := startConfirms_sec L (s.modHamlet h fun v => { v with binding := b })
  have hin {l} (hl : l ∈ L) := startConfirms_in hl (s.modHamlet h fun v => { v with binding := b })
  have hout {l} (hl : l ∉ L) := startConfirms_out hl (s.modHamlet h fun v => { v with binding := b })
  generalize L.foldl State.startConfirm (s.modHamlet h fun v => { v with binding := b }) = u at hsec hin hout
  have hham (k : HamletNo) : (u.mboxDone 0 []).hamlet k = (s.modHamlet h fun v => { v with binding := b }).hamlet k := by
    change tget _ u.sec.hamlets k.val = _
    rw [hsec]
    rfl
  exact ⟨(hham h).trans (State.hamlet_modHamlet_same ..), fun k hk => (hham k).trans (State.hamlet_modHamlet_other _ _ hk), rfl,
    fun l hl => hin hl, fun l hl => hout hl⟩

theorem bootFail_failed {p g d : Bool} {v f : BitVec 7} (h : p = false ∨ g = false ∨ d = false ∨ v < f) :
    ∃ why, bootFail p g d v f = some why := by
  unfold bootFail
  split_ifs with h1 h2 h3 h4
  · exact ⟨_, rfl⟩
  · exact ⟨_, rfl⟩
  · exact ⟨_, rfl⟩
  · exact ⟨_, rfl⟩
  · exact absurd h (by simp [h1, h2, h3, h4])

theorem drbgReseed_good (h : s.board.alwaysOn = true) (k : BitVec 4) : exec (.drbgReseed true k) s =
    .next { s with sec := { s.sec with entropyOk := true, drbgUses := 0 } } :=
  if_neg (by rw [h]; simp)

theorem drbgReseed_bad (h : s.board.alwaysOn = true) (k : BitVec 4) : exec (.drbgReseed false k) s =
    .next (({ s with sec := { s.sec with entropyOk := false } } : State).fault 0x0705 none (k.setWidth 32) 0) :=
  if_neg (by rw [h]; simp)

theorem debugExpiry_expires (h : s.sec.debug ≠ 0) (k : s.sec.debugUntil ≤ s.poweredNow) :
    exec .debugExpiry s = .next { s with sec := { s.sec with debug := 0, debugUntil := 0 } } :=
  if_neg fun e => e.elim h fun e => absurd e (BitVec.not_lt.mpr k)

theorem debugExpiry_early (h : s.poweredNow < s.sec.debugUntil) : exec .debugExpiry s = .next s := if_pos (.inr h)

theorem fwWriteDone_ends (h : s.sec.fwWriting = true) (k : s.flashHeld = false) : exec .fwWriteDone s =
    .next (({ s with sec := { s.sec with fwWriting := false, fwPending := none } } : State).fault 0x0702 none
      ((s.sec.fwPending.getD 0).setWidth 32) 0) :=
  if_neg (by rw [h, k]; simp)

theorem dropSession_over {p : Fin 3 × Word64} (h : s.sec.session = some p) (hw : windowOver p.2 60000000000 s.tb = true) :
    s.dropSession = { s with sec := { s.sec with session := none } } := by
  unfold State.dropSession
  rw [h]
  exact if_pos hw

theorem sessionStatus_unbegun (h : s.sec.recovery = true) (hs : s.sec.session = none) (port : Fin 3) :
    s.sessionStatus port false = 2 := by
  unfold State.sessionStatus
  rw [if_neg (by rw [h]; decide), hs]
  rfl

/-- A recovery command of a host port answers its status. -/
theorem recoveryBox_answers {c : Instr} {o : Host.Outcome State Fault Refusal} {f : State → State × BitVec 3} {u v : State}
    {st : BitVec 3} (h : u.board.alwaysOn = true) (hc : exec c s = o) (ho : o = u.recoveryBox f) (hf : f u = (v, st)) :
    exec c s = .next (v.mboxDone st []) := by
  rw [hc, ho]
  unfold State.recoveryBox
  rw [if_neg (by rw [h]; simp), hf]

theorem recoveryBox_replies {c : Instr} {o : Host.Outcome State Fault Refusal} {f : State → State × BitVec 3} {u v : State}
    {st : BitVec 3} (h : u.board.alwaysOn = true) (hc : exec c s = o) (ho : o = u.recoveryBox f) (hf : f u = (v, st)) :
    completes c s fun t => replied v t st [] :=
  ⟨_, recoveryBox_answers h hc ho hf, mboxDone_replied v st []⟩

end

/-! ### Recovery (Table 16.6) -/

/-- In recovery the mailbox answers INVALID to all but the recovery commands. -/
theorem recovering_refuses (s : State) (x : Byte) (nonce c : BitVec 256) (key : Option (BitVec 256)) (p : BitVec 128) (lv : BitVec 2)
    (ex : Word32) (ok : Bool) (h : HamletNo) (a : BitVec 41) (n : Nat) (o : FwObs) (ha : s.board.alwaysOn = true)
    (hr : s.sec.recovery = true) : ∀ row ∈ [Instr.attest x nonce key, .certRead, .challenge, .debugUnlock p c lv ex ok,
      .hamletBind h c, .fwUpdate a n o], completes row s fun t => replied s t 2 [] := by
  have hin {row : Instr} {o : Host.Outcome State Fault Refusal} {f : State → State} (hc : exec row s = o) (ho : o = s.mailbox f) :
      completes row s fun t => replied s t 2 [] :=
    ⟨_, hc.trans (ho.trans (mailbox_recovering ha hr f)), mboxDone_replied s 2 []⟩
  intro row hrow
  simp only [List.mem_cons, List.not_mem_nil, or_false] at hrow
  rcases hrow with rfl | rfl | rfl | rfl | rfl | rfl
  · exact hin (o := execAttest x nonce key s) rfl rfl
  · exact hin (o := execCertRead s) rfl rfl
  · exact hin (o := execChallenge s) rfl rfl
  · exact hin (o := execDebugUnlock p c lv ex ok s) rfl rfl
  · exact hin (o := execHamletBind h c s) rfl rfl
  · exact hin (o := execFwUpdate a n o s) rfl rfl

section
variable {s : State}

/-- ATTEST outside recovery (R448). -/
theorem attest_answers (ha : s.board.alwaysOn = true) (hr : s.sec.recovery = false) (x : Byte) (sc : Option HamletNo)
    (nonce : BitVec 256) (hsc : s.attestScope x = some sc) :
    let n := s.sec.nextLeaf
    let body := s.attestBody sc nonce (zeros 1568) false
    (n.toNat + 1024 ≤ 2 ^ 40 → n < s.sec.batchEnd → completes (.attest x nonce none) s fun t =>
      replied { s with sec := { s.sec with nextLeaf := n + 1 } } t 0 (body ++ Config.sign n.toNat body)) ∧
    (n.toNat + 1024 ≤ 2 ^ 40 → s.sec.batchEnd ≤ n → completes (.attest x nonce none) s fun t =>
      replied { s with sec := { s.sec with nextLeaf := n + 1, batchEnd := n + 1024 }, jrnl := { s.jrnl with buf := s.jrnl.buf ++ [.reserve n] } } t 0 (body ++ Config.sign n.toNat body)) ∧
    (2 ^ 40 < n.toNat + 1024 → s.sec.exhausted = true → completes (.attest x nonce none) s fun t => replied s t 5 []) ∧
    (∀ (h : HamletNo) (ek : BitVec 256), sc = some h → (s.hamlet h).hostEnc = true → s.sec.entropyOk = true →
      n.toNat + 1024 ≤ 2 ^ 40 → completes (.attest x nonce (some ek)) s fun t => t.sec.status = 0 ∧
        t.hamlet h = { s.hamlet h with hostKey := some (s.mem.keyCount + 1) } ∧
        (∀ k, k ≠ h → t.hamlet k = s.hamlet k) ∧ t.sec.nextLeaf = n + 1) := by
  intro n body
  refine ⟨fun hn hb => ?_, fun hn hb => ?_, fun hn he => ?_, fun h ek hsh hk he hn => ?_⟩
  · refine ⟨_, (attest_plain ha hr hsc (takeLeaf_held hn hb)).trans (congrArg Host.Outcome.next (attestWith_plain ..)), ?_⟩
    exact mboxDone_replied ..
  · refine ⟨_, (attest_plain ha hr hsc (takeLeaf_reserved hn hb)).trans (congrArg Host.Outcome.next (attestWith_plain ..)), ?_⟩
    exact mboxDone_replied ..
  · exact ⟨_, attest_noLeaf ha hr hsc (takeLeaf_exhausted hn he), mboxDone_replied ..⟩
  · subst hsh
    obtain ⟨e, j, hl⟩ := takeLeaf_takes hn
    refine ⟨_, attest_keyed ha hr hsc hk he hl, ?_⟩
    exact attestWith_keyed _ h nonce ek _

/-- DEBUG_UNLOCK outside recovery (R447). -/
theorem debugUnlock_answers (ha : s.board.alwaysOn = true) (hr : s.sec.recovery = false) (p : BitVec 128) (c : BitVec 256)
    (lv : BitVec 2) (ex : Word32) (sig : Bool) :
    let spent : State := { s with sec := { s.sec with challenge := none } }
    (s.confidential = true → completes (.debugUnlock p c lv ex sig) s fun t => replied s t 3 []) ∧
    (s.confidential = false → s.tokenHolds p c lv ex sig = false →
      completes (.debugUnlock p c lv ex sig) s fun t => replied spent t 4 []) ∧
    (s.confidential = false → sig = true → p = s.fuses.platform → s.sec.challenge = some c → lv = 1 ∨ lv = 2 →
      s.poweredNow < ex → completes (.debugUnlock p c lv ex sig) s fun t => logged s t 0x0708 ∧
        t = { s with sec := t.sec, flt := t.flt, jrnl := t.jrnl } ∧ t.sec.debug = lv ∧ t.sec.debugUntil = ex ∧
        t.sec.challenge = none ∧ t.sec.status = 0 ∧ t.sec.hamlets = s.sec.hamlets) := by
  refine ⟨fun hc => ?_, fun hc ht => ?_, fun hc hs hp hch hl hx => ?_⟩
  · exact mailbox_replies (o := execDebugUnlock p c lv ex sig s) ha hr rfl rfl (if_pos hc)
  · refine mailbox_replies (o := execDebugUnlock p c lv ex sig s) ha hr rfl rfl ?_
    rw [if_neg (by rw [hc]; simp), ht]
    rfl
  · have ht : s.tokenHolds p c lv ex sig = true := by
      unfold State.tokenHolds
      rw [hs, decide_eq_true hp, decide_eq_true hch, decide_eq_true hx]
      rcases hl with rfl | rfl
      · rfl
      · rfl
    refine mailbox_completes (o := execDebugUnlock p c lv ex sig s) ha hr rfl rfl
      (by rw [if_neg (by rw [hc]; simp), ht, if_pos rfl]) ?_
    exact ⟨record_logged { s with sec := { s.sec with challenge := none, debug := lv, debugUntil := ex } }
      (State.plainRec _ 0x0708 none (lv.setWidth 32) (ex.setWidth 64)), rfl, rfl, rfl, rfl, rfl, rfl⟩

/-- FW_UPDATE outside recovery (R431). -/
theorem fwUpdate_answers (ha : s.board.alwaysOn = true) (hr : s.sec.recovery = false) (a : BitVec 41) (n : Nat) (o : FwObs) :
    (s.sec.fwWriting = true → completes (.fwUpdate a n o) s fun t => replied s t 1 []) ∧
    (s.sec.fwWriting = false → n = 0 ∨ 62917636 < n ∨ s.imagePages a n = false →
      completes (.fwUpdate a n o) s fun t => replied s t 2 []) ∧
    (s.sec.fwWriting = false → 0 < n → n ≤ 62917636 → s.imagePages a n = true →
      (o.present = false ∨ o.sigOk = false ∨ o.digestOk = false ∨ o.svn < s.fuses.svn →
        completes (.fwUpdate a n o) s fun t => replied s t 4 []) ∧
      (o.present = true → o.sigOk = true → o.digestOk = true → s.fuses.svn ≤ o.svn →
        completes (.fwUpdate a n o) s fun t => tbytes (fun _ => 0) t.sec.fwRegion 0 n = s.ddrRead a.toNat n ∧
          replied { s with sec := { s.sec with fwWriting := true, fwPending := some o.svn, fwRegion := t.sec.fwRegion } } t 0 [])) := by
  have hrange (h : ¬(n = 0 ∨ 62917636 < n ∨ s.imagePages a n = false)) :
    ¬(n = 0 ∨ imageMax < n ∨ s.imagePages a n = false) := h
  refine ⟨fun hw => ?_, fun hw hn => ?_, fun hw h0 hn hp => ?_⟩
  · exact mailbox_replies (o := execFwUpdate a n o s) ha hr rfl rfl (if_pos hw)
  · refine mailbox_replies (o := execFwUpdate a n o s) ha hr rfl rfl ?_
    rw [if_neg (by rw [hw]; simp)]
    exact if_pos hn
  have hok : ¬(n = 0 ∨ imageMax < n ∨ s.imagePages a n = false) := hrange (by rw [hp]; simp; omega)
  refine ⟨fun hf => ?_, fun h1 h2 h3 h4 => ?_⟩
  · obtain ⟨why, hf⟩ := bootFail_failed hf
    refine mailbox_replies (o := execFwUpdate a n o s) ha hr rfl rfl ?_
    rw [if_neg (by rw [hw]; simp), if_neg hok, hf]
    rfl
  · refine mailbox_completes (o := execFwUpdate a n o s) ha hr rfl rfl
      (by rw [if_neg (by rw [hw]; simp), if_neg hok, bootFail_none h1 h2 h3 h4, if_neg (by simp)]) ⟨?_, mboxDone_replied ..⟩
    have h := tbytes_bytesTab (s.ddrRead a.toNat n)
    rwa [show (s.ddrRead a.toNat n).length = n from tbytes_length ..] at h

end

/-- The mailbox outside recovery (R432 to R434, R438, R447, R448). -/
theorem mailbox_answers (s : State) (ha : s.board.alwaysOn = true) (hr : s.sec.recovery = false) :
    completes .certRead s (fun t => replied s t 0 Config.certificate) ∧
    (s.sec.entropyOk = true → completes .challenge s fun t => ∃ c : BitVec 256,
      replied { s with free := s.free + 1, sec := { s.sec with challenge := some c, drbgUses := if s.sec.drbgUses < 65536 then s.sec.drbgUses + 1 else 1 } } t 0 (bytes256 c)) ∧
    (s.sec.entropyOk = false → completes .challenge s fun t => replied s t 5 []) ∧
    (∀ (h : HamletNo) (b : BitVec 256), ((s.hamlet h).exists_ = true → completes (.hamletBind h b) s fun t =>
        t.hamlet h = { s.hamlet h with binding := b } ∧ (∀ k, k ≠ h → t.hamlet k = s.hamlet k) ∧ t.sec.status = 0 ∧
        (∀ l ∈ (s.hamlet h).linkList, (t.link l).confirmed = false) ∧
        ∀ l, l ∉ (s.hamlet h).linkList → t.link l = s.link l) ∧
      ((s.hamlet h).exists_ = false → completes (.hamletBind h b) s fun t => replied s t 2 [])) := by
  refine ⟨?_, fun he => ?_, fun he => ?_, fun h b => ⟨fun hx => ?_, fun hx => ?_⟩⟩
  · exact mailbox_replies (o := execCertRead s) ha hr rfl rfl rfl
  · exact mailbox_completes (o := execChallenge s) ha hr rfl rfl (if_neg (by rw [he]; simp)) ⟨_, mboxDone_replied ..⟩
  · exact mailbox_replies (o := execChallenge s) ha hr rfl rfl (if_pos he)
  · exact mailbox_completes (o := execHamletBind h b s) ha hr rfl rfl (if_neg (by rw [hx]; simp)) (hamletBound s h b)
  · exact mailbox_replies (o := execHamletBind h b s) ha hr rfl rfl (if_pos hx)

/-- Recovery sessions of the host ports (R430). -/
theorem recoverySessions (s : State) (port : Bool) (tm a : Word64) (holder : Fin 3) (off : BitVec 26) (chunk : List Byte) (o : FwObs)
    (h : s.board.alwaysOn = true) :
    let u := s.at tm
    let me := hostPort port
    (s.sec.recovery = false → s.sec.session = none →
      completes (.recoveryBegin port tm) s (fun t => replied u t 2 []) ∧
      completes (.recoveryWrite port off chunk tm) s (fun t => replied u t 2 []) ∧
      completes (.recoveryEnd port o tm) s fun t => replied u t 2 []) ∧
    (s.sec.recovery = true → s.sec.session = none → completes (.recoveryBegin port tm) s fun t =>
      replied { u with sec := { u.sec with session := some (me, u.tb) } } t 0 []) ∧
    (s.sec.session = some (holder, a) → windowOver a 60000000000 u.tb = true →
      completes (.recoverySessionTimeout tm) s (· = { u with sec := { u.sec with session := none } })) ∧
    (s.sec.recovery = true → s.sec.session = some (holder, a) → windowOver a 60000000000 u.tb = false →
      completes (.recoverySessionTimeout tm) s (· = u) ∧
      (holder ≠ me → completes (.recoveryBegin port tm) s (fun t => replied u t 1 []) ∧
        completes (.recoveryWrite port off chunk tm) s (fun t => replied u t 1 []) ∧
        completes (.recoveryEnd port o tm) s fun t => replied u t 1 []) ∧
      (holder = me →
        (chunk.length ≤ 61440 → off.toNat + chunk.length ≤ 67108864 → completes (.recoveryWrite port off chunk tm) s fun t =>
          replied { u with sec := { u.sec with session := some (me, u.tb), fwRegion := t.sec.fwRegion } } t 0 [] ∧
          tbytes (fun _ => 0) t.sec.fwRegion off.toNat chunk.length = chunk ∧
          ∀ i, i < off.toNat ∨ off.toNat + chunk.length ≤ i →
            tget (fun _ => 0) t.sec.fwRegion i = tget (fun _ => 0) s.sec.fwRegion i) ∧
        (o.present = false ∨ o.sigOk = false ∨ o.digestOk = false ∨ o.svn < s.fuses.svn →
          completes (.recoveryEnd port o tm) s fun t => replied { u with sec := { u.sec with session := none } } t 4 []) ∧
        (o.present = true → o.sigOk = true → o.digestOk = true → s.fuses.svn ≤ o.svn → s.board.rails = true →
          s.host.resetting = false → completes (.recoveryEnd port o tm) s fun t => ∃ v,
            resetBegun { u with sec := { u.sec with session := none } } v ∧ replied v t 0 []))) := by
  intro u me
  have hu : u.board.alwaysOn = true := by rw [show u.board = s.board from State.at_board s tm]; exact h
  have hsec : u.sec = s.sec := State.at_sec s tm
  have hfuses : u.fuses = s.fuses := State.at_fuses s tm
  have hhost : u.host = s.host := State.at_host s tm
  have hboard : u.board = s.board := State.at_board s tm
  rw [← hsec, ← hfuses, ← hhost, ← hboard]
  have hbegin {v st} (hf : u.sessionBegin me = (v, st)) :=
    recoveryBox_replies (c := .recoveryBegin port tm) (s := s) hu (o := execRecoveryBegin port tm s) rfl rfl hf
  have hwrite {v st} (hf : u.sessionWrite me off.toNat 61440 chunk = (v, st)) :=
    recoveryBox_answers (c := .recoveryWrite port off chunk tm) (s := s) hu (o := execRecoveryWrite port off chunk tm s) rfl rfl hf
  have hend {v st} (hf : u.sessionEnd me o = (v, st)) :=
    recoveryBox_answers (c := .recoveryEnd port o tm) (s := s) hu (o := execRecoveryEnd port o tm s) rfl rfl hf
  have htime : exec (.recoverySessionTimeout tm) s = .next u.dropSession := rfl
  refine ⟨fun hr hn => ⟨?_, ?_, ?_⟩, fun hr hn => ?_, fun hs hw => ?_,
    fun hr hs hw => ⟨?_, fun hm => ⟨?_, ?_, ?_⟩, fun hm => ⟨fun hc hx => ?_, fun hf => ?_, fun h1 h2 h3 h4 hb hh => ?_⟩⟩⟩
  · exact hbegin (sessionBegin_refused (dropSession_none hn) (sessionStatus_normal hr _) (by decide))
  · exact ⟨_, hwrite (sessionWrite_refused (dropSession_none hn) (sessionStatus_normal hr _) (by decide) _ _ _), mboxDone_replied ..⟩
  · exact ⟨_, hend (sessionEnd_refused (dropSession_none hn) (sessionStatus_normal hr _) (by decide) _), mboxDone_replied ..⟩
  · exact hbegin (sessionBegin_held (dropSession_none hn) (sessionStatus_none hr hn))
  · exact ⟨_, htime, dropSession_over hs hw⟩
  · exact ⟨_, htime, dropSession_live hs hw⟩
  · exact hbegin (sessionBegin_refused (dropSession_live hs hw) (sessionStatus_other hr hs _ hm) (by decide))
  · exact ⟨_, hwrite (sessionWrite_refused (dropSession_live hs hw) (sessionStatus_other hr hs _ hm) (by decide) _ _ _), mboxDone_replied ..⟩
  · exact ⟨_, hend (sessionEnd_refused (dropSession_live hs hw) (sessionStatus_other hr hs _ hm) (by decide) _), mboxDone_replied ..⟩
  · refine ⟨_, hwrite (sessionWrite_stored (dropSession_live hs hw) (sessionStatus_own hr hs _ hm) hc hx), mboxDone_replied .., tbytes_tput _ _, fun i hi => ?_⟩
    exact (tget_tput_other chunk hi).trans (by rw [hsec])
  · obtain ⟨why, hf⟩ := bootFail_failed hf
    exact ⟨_, hend (sessionEnd_failed (dropSession_live hs hw) (sessionStatus_own hr hs _ hm) hf), mboxDone_replied ..⟩
  · exact ⟨_, hend (sessionEnd_verified (dropSession_live hs hw) (sessionStatus_own hr hs _ hm) (bootFail_none h1 h2 h3 h4)), _,
      beginReset_begun hh hb, mboxDone_replied ..⟩

/-- Settles O56. -/
theorem reeveMailbox : Obligations.ReeveMailbox := by
  refine ⟨recovering_refuses, fun s ha hr => ⟨attest_answers ha hr, fun x nonce hsc => ?_, ?_⟩,
    fun s => ⟨fun hw hf => ?_, fun hd hx => ?_, fun hx => ?_, fun ha k => ⟨?_, ?_⟩⟩, recoverySessions⟩
  · exact ⟨_, attest_noScope ha hr hsc, mboxDone_replied ..⟩
  · obtain ⟨hcert, hchal, hnone, hbind⟩ := mailbox_answers s ha hr
    exact ⟨hcert, hchal, hnone, debugUnlock_answers ha hr, hbind, fwUpdate_answers ha hr⟩
  · exact ⟨_, fwWriteDone_ends hw hf, record_logged .., rfl⟩
  · exact ⟨_, debugExpiry_expires hd hx, rfl⟩
  · exact ⟨_, debugExpiry_early hx, rfl⟩
  · exact ⟨_, drbgReseed_good ha k, rfl⟩
  · exact ⟨_, drbgReseed_bad ha k, record_logged .., rfl⟩

end Sys2Proof.Machine
end

section
/-!
PROOF. The power states of a core and its admission (R115, R116, R370 to R372).
-/

namespace Sys2Proof.Machine

/-! ### A core that is switched off (R180, Tables 4.10, 4.11) -/

section
variable {s : State} {n : SiteNo}

theorem abandonVote_frame (s : State) (n : SiteNo) : onlyLog s (s.abandonVote n) := by
  unfold State.abandonVote
  split
  · rfl
  · rfl

theorem abandonVote_none (h : (s.site n).vote = none) : s.abandonVote n = s := by
  unfold State.abandonVote
  rw [h]

theorem coreReset_frame (s : State) (n : SiteNo) (keepV keepExc : Bool) : siteAndLog n s (s.coreReset n keepV keepExc) := by
  have h := abandonVote_frame s n
  unfold State.coreReset
  generalize s.abandonVote n = u at h
  exact ⟨by rw [h]; rfl, fun m hm => (State.site_modSite_other u _ hm).trans (by rw [h]; rfl)⟩

theorem coreReset_site (s : State) (n : SiteNo) (keepV keepExc : Bool) :
    (s.coreReset n keepV keepExc).site n = (s.site n).coreReset keepV keepExc := by
  have h := abandonVote_frame s n
  unfold State.coreReset
  generalize s.abandonVote n = u at h
  rw [State.site_modSite_same, show u.site n = s.site n by rw [h]; rfl]

theorem switchOff_frame (s : State) (n : SiteNo) : siteAndLog n s (s.switchOff n) := by
  have h := abandonVote_frame s n
  unfold State.switchOff
  generalize s.abandonVote n = u at h
  exact ⟨by rw [h]; rfl, fun m hm => (State.site_modSite_other u _ hm).trans (by rw [h]; rfl)⟩

theorem switchOff_site (s : State) (n : SiteNo) : (s.switchOff n).site n = (s.site n).switchOff := by
  have h := abandonVote_frame s n
  unfold State.switchOff
  generalize s.abandonVote n = u at h
  rw [State.site_modSite_same, show u.site n = s.site n by rw [h]; rfl]

theorem switchOff_quiet (h : (s.site n).vote = none) : s.switchOff n = s.modSite n Site.switchOff := by
  unfold State.switchOff
  rw [abandonVote_none h]

/-- A core has been switched off with its domain. -/
def poweredOff (s t : State) (n : SiteNo) : Prop :=
  t = { s with sites := t.sites, pwr := { s.pwr with doms := t.pwr.doms },
               clk := { s.clk with regions := t.clk.regions }, flt := t.flt, jrnl := t.jrnl } ∧
  ((s.site n).vote = none → t.flt = s.flt ∧ t.jrnl = s.jrnl) ∧
  t.site n = (s.site n).switchOff ∧ (∀ m, m ≠ n → t.site m = s.site m) ∧
  t.dom (domOfSite n) = { s.dom (domOfSite n) with st := .off, mv := 0 } ∧
  (t.region (regionOf n)).st = 0 ∧ ∀ d, d ≠ domOfSite n → t.dom d = s.dom d

theorem powerOff_powered (hd : (s.dom (domOfSite n)).st ≠ .failed) : poweredOff s (s.powerOff n) n := by
  obtain ⟨u, hu⟩ : ∃ u, u = (s.modDom (domOfSite n) fun v => if v.st = .failed then v else { v with st := .off, mv := 0 }).modRegion
      (regionOf n) fun r => { r with st := 0, change := none, latched := none, inHalf := 0, joined := false } := ⟨_, rfl⟩
  have hframe : u = { s with pwr := { s.pwr with doms := u.pwr.doms }, clk := { s.clk with regions := u.clk.regions } } := by
    rw [hu]
    rfl
  have hdom : u.dom (domOfSite n) = { s.dom (domOfSite n) with st := .off, mv := 0 } := by
    rw [hu, State.dom_modRegion, State.dom_modDom_same, if_neg hd]
  have hdoms (d : DomainNo) (h : d ≠ domOfSite n) : u.dom d = s.dom d := by
    rw [hu, State.dom_modRegion, State.dom_modDom_other _ _ h]
  have hreg : (u.region (regionOf n)).st = 0 := by
    rw [hu, State.region_modRegion_same]
  have hsite (m : SiteNo) : u.site m = s.site m := by
    rw [hframe]
    rfl
  have ht : s.powerOff n = u.switchOff n := by
    rw [hu]
    rfl
  rw [ht]
  clear hu ht
  have hoff := switchOff_site u n
  obtain ⟨hlog, hother⟩ := switchOff_frame u n
  have hquiet (h : (u.site n).vote = none) : (u.switchOff n).flt = u.flt ∧ (u.switchOff n).jrnl = u.jrnl := by
    rw [switchOff_quiet h]
    exact ⟨rfl, rfl⟩
  generalize u.switchOff n = t at hlog hoff hother hquiet
  rw [hsite] at hoff hquiet
  refine ⟨by rw [hlog, hframe], fun h => ?_, hoff, fun m hm => (hother m hm).trans (hsite m), ?_, ?_, fun d hd => ?_⟩
  · obtain ⟨h1, h2⟩ := hquiet h
    exact ⟨h1.trans (by rw [hframe]), h2.trans (by rw [hframe])⟩
  · rw [← hdom, hlog]
    rfl
  · rw [← hreg, hlog]
    rfl
  · rw [← hdoms d hd, hlog]
    rfl

theorem wakeDone_runs (h : (s.site n).pwrPending ≠ some .off) :
    s.wakeDone n = s.modSite n fun c => { c with pwr := .run, waking := false, pwrPending := none } := if_neg h

theorem wakeDone_off (h : (s.site n).pwrPending = some .off) : s.wakeDone n = s.powerOff n := if_pos h

/-! ### Crossings of a core (R347) -/

theorem calGood_of {x : Nat} (hx : x < 80) {v : Option (BitVec 4)} {a : BitVec 4} (hv : v = some a) (ha : a ≤ 6) : calGood x v = true := by
  have ha : a.toNat ≤ 6 := ha
  subst hv
  refine decide_eq_true ?_
  unfold crossingLimit
  rw [if_pos hx]
  split
  · exact ha
  · omega

theorem crossing_setCrossing_same (s : State) (k : Nat) (v : Crossing) : (s.setCrossing k v).crossing k = v := tget_tset_same ..

theorem crossing_setCrossing_other (s : State) {k x : Nat} (v : Crossing) (h : x ≠ k) : (s.setCrossing k v).crossing x = s.crossing x :=
  tget_tset_other _ _ _ h

theorem calibrate_core {x : Fin 120} (hx : x.val < 80) {o : CalObs} {a b : BitVec 4} (hf : o.fwd = some a) (hr : o.rev = some b)
    (ha : a ≤ 6) (hb : b ≤ 6) : s.calibrate x o = s.setCrossing x.val { mode := 1, fwd := a, rev := b } := by
  unfold State.calibrate
  rw [if_neg (by rw [calGood_of hx hf ha]; simp), if_neg (by rw [calGood_of hx hr hb]; simp), hf, hr]
  exact if_pos hx

/-- A core crossing has failed its calibration: its site is bad and recorded so. -/
def coreCalFailed (s t : State) (x : Fin 120) (n : SiteNo) : Prop :=
  t.site n = { s.site n with bad := true, spare := false } ∧ (∀ m, m ≠ n → t.site m = s.site m) ∧
  t.mapBad 0 n.val = true ∧ (t.crossing x.val).mode = 3 ∧ (∀ y, y ≠ x.val → t.crossing y = s.crossing y) ∧
  t.dom = s.dom ∧ ∃ r ∈ t.flt.reports, r.2.cls = 0x0403 ∧ r.2.site = some n

theorem mapOut_bad (s : State) (unit index : Nat) (cause : BitVec 16) : (s.mapOut unit index cause).mapBad unit index = true := by
  unfold State.mapOut
  split
  next h => exact h
  next => exact List.contains_iff_mem.mpr (List.mem_append_right _ (List.mem_singleton.2 rfl))

/-- Recording a unit as bad changes the journal alone. -/
theorem mapOut_frame (s : State) (unit index : Nat) (cause : BitVec 16) :
    s.mapOut unit index cause = { s with jrnl := (s.mapOut unit index cause).jrnl } := by
  unfold State.mapOut
  split
  · rfl
  · rfl

/-- A site becomes bad: recorded with a class and told, and a spare no more. -/
def badSite (s : State) (n : SiteNo) (cls : BitVec 16) (d : Word32) : State :=
  ((s.report cls (some n) d 0).modSite n fun c => { c with bad := true, spare := false }).mapOut 0 n.val cls

theorem badSite_is (s : State) (n : SiteNo) (cls : BitVec 16) (d : Word32) :
    let t := badSite s n cls d
    siteAndLog n s t ∧ t.site n = { s.site n with bad := true, spare := false } ∧ t.mapBad 0 n.val = true ∧
      logged s t cls ∧ told s t cls (some n) := by
  intro t
  obtain ⟨v, hv⟩ : ∃ v, v = (s.report cls (some n) d 0).modSite n fun c => { c with bad := true, spare := false } := ⟨_, rfl⟩
  have hsame : v.site n = { s.site n with bad := true, spare := false } := by
    rw [hv, State.site_modSite_same]
    rfl
  have hother (m : SiteNo) (hm : m ≠ n) : v.site m = s.site m := by
    rw [hv, State.site_modSite_other _ _ hm]
    rfl
  have hframe : v = { s with sites := v.sites, flt := v.flt, jrnl := v.jrnl } := by
    rw [hv]
    rfl
  have hflt : v.flt = (s.report cls (some n) d 0).flt := by rw [hv]; rfl
  have hlog := report_logged s cls (some n) d 0
  have htold := report_told s cls (some n) d 0
  have ht : t = v.mapOut 0 n.val cls := by rw [hv]; rfl
  have hbad := mapOut_bad v 0 n.val cls
  have hmap := mapOut_frame v 0 n.val cls
  rw [← ht] at hbad hmap
  have htflt : t.flt = (s.report cls (some n) d 0).flt := by
    rw [hmap]
    exact hflt
  clear_value t
  clear hv ht
  generalize s.report cls (some n) d 0 = r at hlog htold htflt
  refine ⟨⟨?_, fun m hm => ?_⟩, ?_, hbad, ?_, ?_⟩
  · rw [hmap, hframe]
  · rw [hmap]
    exact hother m hm
  · rw [hmap]
    exact hsame
  · unfold logged at hlog ⊢
    rw [htflt]
    exact hlog
  · unfold told at htold ⊢
    rw [htflt]
    exact htold

theorem calFail_core {x : Fin 120} (hx : x.val < 80) (hn : n.val = x.val % 40) (rev : Bool) (found : Option (BitVec 4)) :
    coreCalFailed s (s.calFail x rev found) x n := by
  have hn' : n = ⟨x.val % 40, by omega⟩ := Fin.ext hn
  unfold State.calFail
  dsimp only
  rw [dif_pos hx, ← hn', ← hn]
  generalize hu : State.setCrossing _ x.val _ = u
  have hmode : (u.crossing x.val).mode = 3 := by rw [← hu, crossing_setCrossing_same]
  have hcross (y : Nat) (h : y ≠ x.val) : u.crossing y = s.crossing y := by
    rw [← hu, crossing_setCrossing_other _ _ h]
    rfl
  have hsite (m : SiteNo) : u.site m = s.site m := by
    rw [← hu]
    rfl
  have hdom : u.dom = s.dom := by
    rw [← hu]
    rfl
  clear hu
  change coreCalFailed s (badSite u n 0x0403 (calDetail x.val rev found)) x n
  obtain ⟨⟨hframe, hother⟩, hsame, hbad, _, _, htold⟩ := badSite_is u n 0x0403 (calDetail x.val rev found)
  generalize badSite u n 0x0403 (calDetail x.val rev found) = t at *
  refine ⟨hsame.trans (by rw [hsite]), fun m hm => (hother m hm).trans (hsite m), hbad, ?_, fun y hy => ?_, ?_, htold⟩
  · rw [← hmode, hframe]
    rfl
  · rw [← hcross y hy, hframe]
    rfl
  · rw [← hdom, hframe]
    rfl

end

/-! ### The power states of a core (Table 4.11) -/

section
variable {s : State} {n : SiteNo}

theorem calibrate_none {x : Fin 120} {o : CalObs} (h : o.fwd = none) : s.calibrate x o = s.calFail x false none := by
  unfold State.calibrate
  rw [h]
  exact if_pos rfl

theorem coreOff_kept (h1 : (s.site n).bound.isSome = true) (h2 : (s.site n).quarantined = false) (h3 : (s.site n).bad = false) :
    exec (.coreOff n) s = .next s := if_pos ⟨h1, h2, h3⟩

/-- In a transition the request is latched. -/
theorem coreOff_latched (hb : (s.site n).bound = none) (h : (s.site n).pwr = .inTransition ∨
    ((s.site n).pwr = .nap ∧ (s.site n).waking = true) ∨ ((s.site n).pwr = .retain ∧ (s.site n).waking = true)) :
    exec (.coreOff n) s = .next (s.modSite n fun c => { c with pwrPending := some .off }) := by
  change execCoreOff n s = _
  unfold execCoreOff
  dsimp only
  rw [if_neg (by rw [hb]; simp)]
  rcases h with h | ⟨h, hw⟩ | ⟨h, hw⟩
  · rw [h]
  · rw [h, hw]
    rfl
  · rw [h, hw]
    rfl

theorem coreOff_off (hb : (s.site n).bound = none) (h : (s.site n).pwr = .run ∨ (s.site n).pwr = .nap ∨ (s.site n).pwr = .retain)
    (hw : (s.site n).waking = false) : exec (.coreOff n) s = .next (s.powerOff n) := by
  change execCoreOff n s = _
  unfold execCoreOff
  dsimp only
  rw [if_neg (by rw [hb]; simp)]
  rcases h with h | h | h
  · rw [h, hw]
    rfl
  · rw [h, hw]
    rfl
  · rw [h, hw]
    rfl

theorem usable_at (tm : Word64) : (s.at tm).usable n = s.usable n := by
  obtain ⟨x, hx⟩ := at_is s tm
  rw [hx]
  rfl

theorem corePowerOn_admits {tm : Word64} (hu : s.usable n = true) (hi : s.pwr.ibcOk.getLsbD (fieldOfSite n).val = true)
    (hp : (s.site n).pwr = .off) (hd : (s.dom (domOfSite n)).st = .off) :
    exec (.corePowerOn n tm) s = .next ((s.at tm).admitSite n) := by
  have husable := usable_at (s := s) (n := n) tm
  obtain ⟨x, hx⟩ := at_is s tm
  change execCorePowerOn n tm s = _
  unfold execCorePowerOn
  dsimp only
  rw [hx] at husable ⊢
  generalize ht : ({ s with tb := x } : State) = t at *
  have hsite : t.site n = s.site n := by rw [← ht]; rfl
  have hdom : t.dom (domOfSite n) = s.dom (domOfSite n) := by rw [← ht]; rfl
  have hpwr : t.pwr = s.pwr := by rw [← ht]
  rw [if_neg (by rw [husable, hu, hpwr, hi]; simp), hsite, hp]
  dsimp only
  rw [hdom, if_pos hd]

theorem corePowerOn_absorbed {tm : Word64} (hu : s.usable n = true) (hi : s.pwr.ibcOk.getLsbD (fieldOfSite n).val = true)
    (hp : (s.site n).pwr = .inTransition) :
    exec (.corePowerOn n tm) s = .next ((s.at tm).modSite n fun c => { c with pwrPending := none }) := by
  have husable := usable_at (s := s) (n := n) tm
  obtain ⟨x, hx⟩ := at_is s tm
  change execCorePowerOn n tm s = _
  unfold execCorePowerOn
  dsimp only
  rw [hx] at husable ⊢
  generalize ht : ({ s with tb := x } : State) = t at *
  have hsite : t.site n = s.site n := by rw [← ht]; rfl
  have hpwr : t.pwr = s.pwr := by rw [← ht]
  rw [if_neg (by rw [husable, hu, hpwr, hi]; simp), hsite, hp]

theorem corePowerOn_unusable {tm : Word64} (hu : s.usable n = false) : exec (.corePowerOn n tm) s = .next (s.at tm) :=
  if_pos (.inl ((usable_at tm).trans hu))

/-- A core domain has entered admission. -/
theorem admitSite_waits (u : State) (n : SiteNo) :
    let t := u.admitSite n
    t = { u with sites := t.sites, pwr := { u.pwr with doms := t.pwr.doms } } ∧
      t.site n = { u.site n with pwr := .inTransition, pwrPending := none } ∧ (∀ m, m ≠ n → t.site m = u.site m) ∧
      t.dom (domOfSite n) = { u.dom (domOfSite n) with st := .wait, since := u.tb } ∧
      ∀ d, d ≠ domOfSite n → t.dom d = u.dom d :=
  ⟨rfl, State.site_modSite_same .., fun m hm => State.site_modSite_other _ _ hm, State.dom_modDom_same u (domOfSite n) fun v => { v with st := .wait, since := u.tb },
   fun d hd => State.dom_modDom_other u (fun v => { v with st := .wait, since := u.tb }) hd⟩

theorem admitted_at (s : State) (n : SiteNo) (tm : Word64) :
    let t := (s.at tm).admitSite n
    t = { s.at tm with sites := t.sites, pwr := { s.pwr with doms := t.pwr.doms } } ∧
      t.site n = { s.site n with pwr := .inTransition, pwrPending := none } ∧ (∀ m, m ≠ n → t.site m = s.site m) ∧
      t.dom (domOfSite n) = { s.dom (domOfSite n) with st := .wait, since := (s.at tm).tb } ∧
      ∀ d, d ≠ domOfSite n → t.dom d = s.dom d := by
  obtain ⟨x, hx⟩ := at_is s tm
  rw [hx]
  exact admitSite_waits { s with tb := x } n

theorem absorbed_at (s : State) (n : SiteNo) (tm : Word64) :
    ((s.at tm).modSite n fun c => { c with pwrPending := none }).site n = { s.site n with pwrPending := none } := by
  rw [State.site_modSite_same, State.site_at]

theorem retainEnter_enters (hp : (s.site n).pwr = .run ∨ (s.site n).pwr = .nap) (hw : (s.site n).waking = false)
    (hb : (s.site n).bound.isSome = true) (hq : s.quiescent n = true) (hl : s.launchFree (s.site n).hamlet = true) :
    exec (.retainEnter n) s = .next ((s.modDom (domOfSite n) fun d => { d with mv := 600 }).modSite n fun c =>
      { c with pwr := .retain, quiet := 0 }) := if_pos ⟨hp, hw, hb, hq, hl⟩

theorem retainEnter_busy (h : s.launchFree (s.site n).hamlet = false) : exec (.retainEnter n) s = .next s :=
  if_neg fun ⟨_, _, _, _, hl⟩ => by rw [h] at hl; exact nomatch hl

/-- A scope that is free for 10 ms has no LAUNCH outstanding. -/
theorem launchFree_past {o : Option HamletNo} (h : s.launchFree o = true) : s.launchIn o = false ∧
    windowOver (tget (fun _ => 0) s.host.launchEnd (scopeKey o)) 10000000 s.tb = true := by
  unfold State.launchFree at h
  dsimp only at h
  rw [Bool.and_eq_true, Bool.and_eq_true] at h
  obtain ⟨⟨hin, hpast⟩, _⟩ := h
  rw [Bool.not_eq_true'] at hin
  exact ⟨hin, hpast⟩

/-- The state of a retained core asked to run, once its voltage has been raised. -/
def raisedVolt (s : State) (n : SiteNo) : State :=
  s.modDom (domOfSite n) fun d => { d with mv := adequateMv (s.site n).op (s.region (regionOf n)).fastest }

/-- That state once the core's crossings have been calibrated. -/
def wakeCalibrated (s : State) (n : SiteNo) (cal : CalObs) : State :=
  ((raisedVolt s n).calibrate ⟨n.val, by omega⟩ cal).calibrate ⟨40 + n.val, by omega⟩ cal

theorem retainWake_eq (hp : (s.site n).pwr = .retain) (hw : (s.site n).waking = true) (cal : CalObs) :
    exec (.retainWake n cal) s = .next (if ((wakeCalibrated s n cal).site n).bad then
      (wakeCalibrated s n cal).modSite n fun c => { c with waking := false, pwrPending := none }
    else (wakeCalibrated s n cal).wakeDone n) := if_pos ⟨hp, hw⟩

theorem wakeCalibrated_good {cal : CalObs} {a b : BitVec 4} (hf : cal.fwd = some a) (hr : cal.rev = some b) (ha : a ≤ 6) (hb : b ≤ 6) :
    wakeCalibrated s n cal = ((raisedVolt s n).setCrossing n.val { mode := 1, fwd := a, rev := b }).setCrossing (40 + n.val)
      { mode := 1, fwd := a, rev := b } := by
  unfold wakeCalibrated
  rw [calibrate_core (x := ⟨n.val, by omega⟩) (by simp only; omega) hf hr ha hb,
    calibrate_core (x := ⟨40 + n.val, by omega⟩) (by simp only; omega) hf hr ha hb]

theorem retainWake_runs {cal : CalObs} {a b : BitVec 4} (hp : (s.site n).pwr = .retain) (hw : (s.site n).waking = true)
    (ho : (s.site n).pwrPending ≠ some .off) (hf : cal.fwd = some a) (hr : cal.rev = some b) (ha : a ≤ 6) (hb : b ≤ 6)
    (hbad : (s.site n).bad = false) :
    exec (.retainWake n cal) s = .next ((((raisedVolt s n).setCrossing n.val { mode := 1, fwd := a, rev := b }).setCrossing
      (40 + n.val) { mode := 1, fwd := a, rev := b }).modSite n fun c => { c with pwr := .run, waking := false, pwrPending := none }) := by
  rw [retainWake_eq hp hw, wakeCalibrated_good hf hr ha hb]
  generalize hu : ((raisedVolt s n).setCrossing n.val { mode := 1, fwd := a, rev := b }).setCrossing (40 + n.val)
    { mode := 1, fwd := a, rev := b } = u
  have hsite : u.site n = s.site n := by
    rw [← hu]
    rfl
  rw [if_neg (by rw [hsite, hbad]; simp), wakeDone_runs (by rw [hsite]; exact ho)]

theorem retainWake_woken (s : State) (n : SiteNo) (a b : BitVec 4) :
    let t := (((raisedVolt s n).setCrossing n.val { mode := 1, fwd := a, rev := b }).setCrossing (40 + n.val)
      { mode := 1, fwd := a, rev := b }).modSite n fun c => { c with pwr := .run, waking := false, pwrPending := none }
    t = { s with sites := t.sites, pwr := { s.pwr with doms := t.pwr.doms }, clk := { s.clk with crossings := t.clk.crossings } } ∧
      t.site n = { s.site n with pwr := .run, waking := false, pwrPending := none } ∧ (∀ m, m ≠ n → t.site m = s.site m) ∧
      t.dom (domOfSite n) = { s.dom (domOfSite n) with mv := adequateMv (s.site n).op (s.region (regionOf n)).fastest } ∧
      t.crossing n.val = { mode := 1, fwd := a, rev := b } ∧ t.crossing (40 + n.val) = { mode := 1, fwd := a, rev := b } ∧
      ∀ x, x ≠ n.val → x ≠ 40 + n.val → t.crossing x = s.crossing x := by
  have hdom : (raisedVolt s n).dom (domOfSite n) = { s.dom (domOfSite n) with mv := adequateMv (s.site n).op (s.region (regionOf n)).fastest } :=
    State.dom_modDom_same s (domOfSite n) fun d => { d with mv := adequateMv (s.site n).op (s.region (regionOf n)).fastest }
  have hsite (m : SiteNo) : (raisedVolt s n).site m = s.site m := rfl
  have hcross (x : Nat) : (raisedVolt s n).crossing x = s.crossing x := rfl
  have hframe : raisedVolt s n = { s with pwr := { s.pwr with doms := (raisedVolt s n).pwr.doms } } := rfl
  generalize raisedVolt s n = u at *
  generalize ({ mode := 1, fwd := a, rev := b } : Crossing) = c
  have h1 := crossing_setCrossing_same (u.setCrossing n.val c) (40 + n.val) c
  have h2 := (crossing_setCrossing_other (u.setCrossing n.val c) (k := 40 + n.val) (x := n.val) c (by omega)).trans
    (crossing_setCrossing_same u n.val c)
  have h3 (x : Nat) (hx : x ≠ n.val) (hy : x ≠ 40 + n.val) : ((u.setCrossing n.val c).setCrossing (40 + n.val) c).crossing x = s.crossing x :=
    (crossing_setCrossing_other (u.setCrossing n.val c) c hy).trans ((crossing_setCrossing_other u c hx).trans (hcross x))
  have h4 : (u.setCrossing n.val c).setCrossing (40 + n.val) c = { u with clk := { u.clk with crossings := ((u.setCrossing n.val c).setCrossing (40 + n.val) c).clk.crossings } } := rfl
  generalize (u.setCrossing n.val c).setCrossing (40 + n.val) c = v at *
  have hv (m : SiteNo) : v.site m = s.site m := by
    rw [h4]
    exact hsite m
  intro t
  refine ⟨?_, (State.site_modSite_same ..).trans (by rw [hv]), fun m hm => (State.site_modSite_other _ _ hm).trans (hv m), ?_, h2, h1, h3⟩
  · obtain ⟨xs, hxs⟩ : ∃ xs, t = { v with sites := xs } := ⟨_, rfl⟩
    rw [hxs, h4, hframe]
  · rw [← hdom]
    change v.dom (domOfSite n) = _
    rw [h4]
    rfl

theorem retainWake_failed {cal : CalObs} (hp : (s.site n).pwr = .retain) (hw : (s.site n).waking = true) (hf : cal.fwd = none) :
    completes (.retainWake n cal) s fun t =>
      (t.site n).pwr = .retain ∧ (t.site n).waking = false ∧ (t.site n).pwrPending = none ∧ (t.site n).bad = true ∧
      t.mapBad 0 n.val = true ∧ (t.crossing n.val).mode = 3 ∧ (t.crossing (40 + n.val)).mode = 3 ∧
      (∀ x, x ≠ n.val → x ≠ 40 + n.val → t.crossing x = s.crossing x) ∧ (∀ m, m ≠ n → t.site m = s.site m) ∧
      ∃ r ∈ t.flt.reports, r.2.cls = 0x0403 ∧ r.2.site = some n := by
  have he := retainWake_eq hp hw cal
  have hc : wakeCalibrated s n cal = ((raisedVolt s n).calFail ⟨n.val, by omega⟩ false none).calFail ⟨40 + n.val, by omega⟩ false none := by
    unfold wakeCalibrated
    rw [calibrate_none hf, calibrate_none hf]
  have hsite (m : SiteNo) : (raisedVolt s n).site m = s.site m := rfl
  have hcross (x : Nat) : (raisedVolt s n).crossing x = s.crossing x := rfl
  obtain ⟨a1, a2, _, a4, a5, _, _⟩ := calFail_core (s := raisedVolt s n) (n := n) (x := ⟨n.val, by omega⟩) (by simp only; omega) (by simp only; omega) false none
  generalize (raisedVolt s n).calFail ⟨n.val, by omega⟩ false none = u at *
  obtain ⟨b1, b2, b3, b4, b5, _, b7⟩ := calFail_core (s := u) (n := n) (x := ⟨40 + n.val, by omega⟩) (by simp only; omega) (by simp only; omega) false none
  generalize u.calFail ⟨40 + n.val, by omega⟩ false none = v at *
  rw [hc] at he
  have hbad : (v.site n).bad = true := by rw [b1]
  rw [if_pos hbad] at he
  have hs : (v.modSite n fun c => { c with waking := false, pwrPending := none }).site n =
      { s.site n with bad := true, spare := false, waking := false, pwrPending := none } := by
    rw [State.site_modSite_same, b1, a1, hsite]
  refine ⟨_, he, ?_, ?_, ?_, ?_, b3, ?_, b4, fun x h1 h2 => ?_, fun m hm => ?_, b7⟩
  · rw [hs]
    exact hp
  · rw [hs]
  · rw [hs]
  · rw [hs]
  · exact (congrArg Crossing.mode (b5 n.val (by simp only; omega))).trans a4
  · exact (b5 x h2).trans ((a5 x h1).trans (hcross x))
  · exact (State.site_modSite_other v _ hm).trans ((b2 m hm).trans ((a2 m hm).trans (hsite m)))

theorem napWake_wakes (hp : (s.site n).pwr = .nap) (h : (s.site n).waking = true ∨ s.targetCame n = true) :
    exec (.napWake n) s = .next (s.wakeDone n) := if_pos ⟨hp, h⟩

theorem napWake_still (h : (s.site n).waking = false) (k : s.targetCame n = false) : exec (.napWake n) s = .next s :=
  if_neg fun ⟨_, hw⟩ => by rw [h, k] at hw; simp at hw

theorem napEnter_naps (hp : (s.site n).pwr = .run) (hq : s.quiescent n = true) (h : 256 ≤ (s.site n).quiet) :
    exec (.napEnter n) s = .next (s.modSite n fun c => { c with pwr := .nap, quiet := 0 }) := if_pos ⟨hp, hq, h⟩

theorem napEnter_awake (h : s.quiescent n = false ∨ (s.site n).quiet < 256) : exec (.napEnter n) s = .next s :=
  if_neg fun ⟨_, hq, hc⟩ => h.elim (fun h => by rw [h] at hq; exact nomatch hq) fun h => absurd hc (by omega)

theorem switchOff_gran (c : Site) : c.switchOff.gran = c.gran :=
  foldl_keeps Site.gran (fun (d : Site) e => d.modEng e (·.coreReset c.cycle)) (fun _ _ => rfl) (List.finRange 4) c

theorem coreOff_switches (hb : (s.site n).bound = none)
    (h : (s.site n).pwr = .run ∨ (s.site n).pwr = .nap ∨ (s.site n).pwr = .retain) (hw : (s.site n).waking = false)
    (hd : (s.dom (domOfSite n)).st ≠ .failed) : completes (.coreOff n) s fun t =>
      t = { s with sites := t.sites, pwr := { s.pwr with doms := t.pwr.doms },
                   clk := { s.clk with regions := t.clk.regions }, flt := t.flt, jrnl := t.jrnl } ∧
      ((s.site n).vote = none → t.flt = s.flt ∧ t.jrnl = s.jrnl) ∧
      (t.site n).pwr = .off ∧ (t.site n).seq = .idle ∧ (t.site n).ws = [] ∧ (t.site n).ps = [] ∧
      (t.site n).sregs = [] ∧ (t.site n).vregs = [] ∧ (t.site n).gran = (s.site n).gran ∧
      (t.site n).shut = true ∧ (∀ m, m ≠ n → t.site m = s.site m) ∧
      t.dom (domOfSite n) = { s.dom (domOfSite n) with st := .off, mv := 0 } ∧
      (t.region (regionOf n)).st = 0 ∧ ∀ d, d ≠ domOfSite n → t.dom d = s.dom d := by
  have he := coreOff_off hb h hw
  obtain ⟨hframe, hquiet, hsite, hother, hdom, hreg, hdoms⟩ := powerOff_powered hd
  generalize s.powerOff n = t at *
  exact ⟨t, he, hframe, hquiet, congrArg Site.pwr hsite, congrArg Site.seq hsite, congrArg Site.ws hsite, congrArg Site.ps hsite,
    congrArg Site.sregs hsite, congrArg Site.vregs hsite, (congrArg Site.gran hsite).trans (switchOff_gran _),
    congrArg Site.shut hsite, hother, hdom, hreg, hdoms⟩

theorem napWake_switches (hp : (s.site n).pwr = .nap) (hw : (s.site n).waking = true ∨ s.targetCame n = true)
    (ho : (s.site n).pwrPending = some .off) (hd : (s.dom (domOfSite n)).st ≠ .failed) :
    completes (.napWake n) s fun t => (t.site n).pwr = .off ∧ (t.site n).pwrPending = none ∧
      (t.dom (domOfSite n)).st = .off ∧ ∀ m, m ≠ n → t.site m = s.site m := by
  have he := napWake_wakes hp hw
  rw [wakeDone_off ho] at he
  obtain ⟨_, _, hsite, hother, hdom, _⟩ := powerOff_powered hd
  generalize s.powerOff n = t at *
  refine ⟨t, he, ?_, ?_, ?_, hother⟩
  · rw [hsite]
    rfl
  · rw [hsite]
    rfl
  · rw [hdom]

end

/-- Settles O29. -/
theorem corePowerStates : Obligations.CorePowerStates := by
  refine ⟨fun s n hp => ⟨fun hq hc => ?_, fun h => ⟨s, napEnter_awake h, rfl⟩⟩, fun s n hp hw => ⟨fun ho => ?_, fun ho hd => ?_⟩,
    fun s n hw ht => ⟨s, napWake_still hw ht, rfl⟩, fun s n hp hw => ⟨fun hl => ⟨s, retainEnter_busy hl, rfl⟩, launchFree_past⟩,
    fun s n hp hw hb hq hl => ?_, fun s n cal hp hw ho => ⟨fun a b hf hr ha hb hbad => ?_, retainWake_failed hp hw⟩,
    fun s n => ⟨fun h1 h2 h3 => ⟨s, coreOff_kept h1 h2 h3, rfl⟩, fun hb h => ?_, fun hb h hw hd => ?_⟩,
    fun s n tm => ⟨fun hu hi => ⟨fun hp hd => ?_, fun hp => ?_⟩, fun hu => ⟨_, corePowerOn_unusable hu, rfl⟩⟩⟩
  · exact ⟨_, napEnter_naps hp hq hc, onlySite_modSite .., State.site_modSite_same ..⟩
  · exact ⟨_, (napWake_wakes hp hw).trans (by rw [wakeDone_runs ho]), onlySite_modSite .., State.site_modSite_same ..⟩
  · exact napWake_switches hp hw ho hd
  · exact ⟨_, retainEnter_enters hp hw hb hq hl, rfl, State.site_modSite_same .., fun m hm => State.site_modSite_other _ _ hm,
      State.dom_modDom_same s (domOfSite n) fun d => { d with mv := 600 },
      fun d hd => State.dom_modDom_other s (fun d => { d with mv := 600 }) hd⟩
  · have he := retainWake_runs hp hw ho hf hr ha hb hbad
    obtain ⟨h1, h2, h3, h4, h5, h6, h7⟩ := retainWake_woken s n a b
    generalize State.modSite _ n _ = t at he h1 h2 h3 h4 h5 h6 h7
    exact ⟨t, he, h1, h2, h3, h4, h5, h6, h7⟩
  · exact ⟨_, coreOff_latched hb h, onlySite_modSite .., State.site_modSite_same ..⟩
  · exact coreOff_switches hb h hw hd
  · exact ⟨_, corePowerOn_admits hu hi hp hd, admitted_at s n tm⟩
  · exact ⟨_, corePowerOn_absorbed hu hi hp, onlySite_modSite .., absorbed_at s n tm⟩

/-! ### The end of a ramp (R370 to R372) -/

/-- Only power domains may differ. -/
def domsOnly (s t : State) : Prop := t = { s with pwr := { s.pwr with doms := t.pwr.doms } }

theorem domsOnly_trans {s t u : State} (h : domsOnly s t) (k : domsOnly t u) : domsOnly s u := k.trans (by rw [h])

/-- The admission cap that a domain takes. -/
def admCapped (d : DomainNo) (q : BitVec 5) (e : DomainNo) (v : Domain) : Domain :=
  if e.val < 40 ∧ e ≠ d ∧ fieldOfDom e = fieldOfDom d ∧ v.st = .on then { v with qAdm := q } else v

theorem setAdm_frame (s : State) (d : DomainNo) (q : BitVec 5) : domsOnly s (s.setAdm d q) := by
  refine foldl_related (P := domsOnly) (fun _ => rfl) (fun _ _ _ => domsOnly_trans) (fun s e => ?_) _ s
  split
  · rfl
  · rfl

theorem setAdm_dom (s : State) (d : DomainNo) (q : BitVec 5) (e : DomainNo) : (s.setAdm d q).dom e = admCapped d q e (s.dom e) := by
  refine (foldl_touches (F := fun s e => if e.val < 40 ∧ e ≠ d ∧ fieldOfDom e = fieldOfDom d ∧ (s.dom e).st = .on then
      s.modDom e fun v => { v with qAdm := q } else s) (read := fun e s => s.dom e) (new := admCapped d q)
    (fun s e => ?_) (fun s e x h => ?_) (List.nodup_finRange 48) s e).trans (if_pos (List.mem_finRange e))
  · unfold admCapped
    split
    · exact State.dom_modDom_same ..
    · rfl
  · split
    · exact State.dom_modDom_other _ _ h
    · rfl

/-- The wait of a domain that waits behind d starts anew. -/
def waitAnew (d : DomainNo) (now : Word64) (e : DomainNo) (v : Domain) : Domain :=
  if e.val < 40 ∧ e ≠ d ∧ fieldOfDom e = fieldOfDom d ∧ v.st = .wait then { v with since := now } else v

/-- The walk by which the waits behind a domain start anew. -/
def waitsAnew (d : DomainNo) (s : State) : State :=
  (List.finRange 48).foldl
    (fun s e => if e.val < 40 ∧ e ≠ d ∧ fieldOfDom e = fieldOfDom d ∧ (s.dom e).st = .wait then
      s.modDom e fun v => { v with since := s.tb } else s) s

theorem waitsAnew_frame (d : DomainNo) (s : State) : domsOnly s (waitsAnew d s) := by
  refine foldl_related (P := domsOnly) (fun _ => rfl) (fun _ _ _ => domsOnly_trans) (fun s e => ?_) _ s
  split
  · rfl
  · rfl

theorem waitsAnew_dom (d : DomainNo) (s : State) (e : DomainNo) : (waitsAnew d s).dom e = waitAnew d s.tb e (s.dom e) := by
  refine congrArg Prod.fst ((foldl_touches (F := fun s e => if e.val < 40 ∧ e ≠ d ∧ fieldOfDom e = fieldOfDom d ∧ (s.dom e).st = .wait then
      s.modDom e fun v => { v with since := s.tb } else s) (read := fun e s => (s.dom e, s.tb))
    (new := fun e v => (waitAnew d v.2 e v.1, v.2))
    (fun s e => ?_) (fun s e x h => ?_) (List.nodup_finRange 48) s e).trans (if_pos (List.mem_finRange e)))
  · unfold waitAnew
    split
    · exact Prod.ext (State.dom_modDom_same ..) rfl
    · rfl
  · split
    · exact Prod.ext (State.dom_modDom_other _ _ h) rfl
    · rfl

theorem rampOver_eq (s : State) (d : DomainNo) : s.rampOver d = waitsAnew d (s.setAdm d 16) := rfl

theorem rampOver_frame (s : State) (d : DomainNo) : domsOnly s (s.rampOver d) :=
  domsOnly_trans (setAdm_frame s d 16) (waitsAnew_frame d _)

/-- A ramp that is over: the powered peers return to cap 16, the wait of one that waits starts anew, no other domain
changes. -/
theorem rampOver_dom (s : State) (d e : DomainNo) : (s.rampOver d).dom e = waitAnew d s.tb e (admCapped d 16 e (s.dom e)) := by
  have h := setAdm_frame s d 16
  rw [rampOver_eq, waitsAnew_dom, setAdm_dom, show (s.setAdm d 16).tb = s.tb by rw [h]]

theorem admCapped_on {d e : DomainNo} {q : BitVec 5} {v : Domain} (h : e.val < 40) (hd : e ≠ d) (hf : fieldOfDom e = fieldOfDom d)
    (hv : v.st = .on) : admCapped d q e v = { v with qAdm := q } := if_pos ⟨h, hd, hf, hv⟩

theorem admCapped_else {d e : DomainNo} {q : BitVec 5} {v : Domain} (h : ¬(e.val < 40 ∧ e ≠ d ∧ fieldOfDom e = fieldOfDom d ∧ v.st = .on)) :
    admCapped d q e v = v := if_neg h

theorem waitAnew_else {d e : DomainNo} {t : Word64} {v : Domain} (h : ¬(e.val < 40 ∧ e ≠ d ∧ fieldOfDom e = fieldOfDom d ∧ v.st = .wait)) :
    waitAnew d t e v = v := if_neg h

theorem rampOver_same (s : State) (d : DomainNo) : (s.rampOver d).dom d = s.dom d := by
  rw [rampOver_dom, admCapped_else fun h => h.2.1 rfl, waitAnew_else fun h => h.2.1 rfl]

theorem rampOver_far (s : State) {d e : DomainNo} (h : ¬(e.val < 40 ∧ fieldOfDom e = fieldOfDom d)) : (s.rampOver d).dom e = s.dom e := by
  rw [rampOver_dom, admCapped_else fun k => h ⟨k.1, k.2.2.1⟩, waitAnew_else fun k => h ⟨k.1, k.2.2.1⟩]

theorem rampOver_on (s : State) {d e : DomainNo} (hd : e ≠ d) (h : e.val < 40) (hf : fieldOfDom e = fieldOfDom d)
    (hv : (s.dom e).st = .on) : (s.rampOver d).dom e = { s.dom e with qAdm := 16 } := by
  rw [rampOver_dom, admCapped_on h hd hf hv, waitAnew_else fun k => by have := k.2.2.2; rw [hv] at this; exact nomatch this]

theorem rampOver_wait (s : State) {d e : DomainNo} (hd : e ≠ d) (h : e.val < 40) (hf : fieldOfDom e = fieldOfDom d)
    (hv : (s.dom e).st = .wait) : (s.rampOver d).dom e = { s.dom e with since := s.tb } := by
  rw [rampOver_dom, admCapped_else fun k => by have := k.2.2.2; rw [hv] at this; exact nomatch this]
  exact if_pos ⟨h, hd, hf, hv⟩

theorem siteOfDom_domOfSite (n : SiteNo) : siteOfDom (domOfSite n) = some n := dif_pos n.isLt

/-- A site at the end of its ramp. -/
def rampedSite (c : Site) : Site :=
  { c.coreReset false false with pwr := .run, pwrPending := none, shut := false, op := 5 }

/-- A domain at the end of its ramp. -/
def rampedDom (v : Domain) : Domain := { v with st := .on, mv := 750, trim := 0 }

/-- The state once the ramp of site n's domain is over and its core, slaved to its field, is reset. -/
def rampReset (s : State) (n : SiteNo) : State :=
  let s := (s.setDom (domOfSite n) (rampedDom (s.dom (domOfSite n)))).rampOver (domOfSite n)
  let s := s.modRegion (regionOf n) fun r =>
    { r with st := if s.fieldStopped (fieldOfSite n) then 2 else 3, inHalf := if s.fieldStopped (fieldOfSite n) then 3 else 0,
             mhz := (s.region ⟨40 + (fieldOfSite n).val, by omega⟩).mhz }
  s.coreReset n false false

/-- That state with the core running at OP5. -/
def rampDone (s : State) (n : SiteNo) : State :=
  (rampReset s n).modSite n fun c => { c with pwr := .run, pwrPending := none, shut := false, op := 5 }

section
variable {s : State} {n : SiteNo}

/-- What the end of a ramp leaves. -/
def ramped (s t : State) (n : SiteNo) : Prop :=
  t = { s with sites := t.sites, pwr := { s.pwr with doms := t.pwr.doms }, clk := { s.clk with regions := t.clk.regions }, flt := t.flt, jrnl := t.jrnl } ∧
  t.site n = rampedSite (s.site n) ∧ (∀ m, m ≠ n → t.site m = s.site m) ∧
  (∀ e, t.dom e = (({ s with pwr := { s.pwr with doms := (s.setDom (domOfSite n) (rampedDom (s.dom (domOfSite n)))).pwr.doms } } : State).rampOver (domOfSite n)).dom e) ∧
  (t.region (regionOf n)).st = (if s.fieldStopped (fieldOfSite n) then 2 else 3) ∧
  (t.region (regionOf n)).mhz = (s.region ⟨40 + (fieldOfSite n).val, by omega⟩).mhz

theorem rampDone_ramped (s : State) (n : SiteNo) : ramped s (rampDone s n) n := by
  unfold rampDone rampReset
  dsimp only
  obtain ⟨x, hx⟩ : ∃ x, x = s.setDom (domOfSite n) (rampedDom (s.dom (domOfSite n))) := ⟨_, rfl⟩
  have hxf : x = { s with pwr := { s.pwr with doms := x.pwr.doms } } := by rw [hx]; rfl
  rw [← hx]
  have hover := rampOver_frame x (domOfSite n)
  have hdoms : x = { s with pwr := { s.pwr with doms := (s.setDom (domOfSite n) (rampedDom (s.dom (domOfSite n)))).pwr.doms } } := by
    rw [hx]
    rfl
  unfold ramped
  rw [← hdoms]
  generalize x.rampOver (domOfSite n) = u at *
  clear hx hdoms
  have huf : u = { s with pwr := { s.pwr with doms := u.pwr.doms } } := by rw [hover, hxf]
  have hstop : u.fieldStopped (fieldOfSite n) = s.fieldStopped (fieldOfSite n) := by rw [huf]; rfl
  have hfield : u.region ⟨40 + (fieldOfSite n).val, by omega⟩ = s.region ⟨40 + (fieldOfSite n).val, by omega⟩ := by rw [huf]; rfl
  generalize hv : u.modRegion (regionOf n) _ = v
  have hreg : v.region (regionOf n) = { u.region (regionOf n) with
      st := if u.fieldStopped (fieldOfSite n) then 2 else 3, inHalf := if u.fieldStopped (fieldOfSite n) then 3 else 0,
      mhz := (u.region ⟨40 + (fieldOfSite n).val, by omega⟩).mhz } := by
    rw [← hv, State.region_modRegion_same]
  have hvf : v = { s with pwr := { s.pwr with doms := u.pwr.doms }, clk := { s.clk with regions := v.clk.regions } } := by
    rw [← hv, huf]
    rfl
  have hvs (m : SiteNo) : v.site m = s.site m := by rw [hvf]; rfl
  clear hv
  obtain ⟨hlog, hothers⟩ := coreReset_frame v n false false
  have hreset := coreReset_site v n false false
  generalize v.coreReset n false false = w at *
  have hsame := State.site_modSite_same w n fun c => { c with pwr := .run, pwrPending := none, shut := false, op := 5 }
  have hother {m} (hm : m ≠ n) := State.site_modSite_other w (n := n) (m := m) (fun c => { c with pwr := .run, pwrPending := none, shut := false, op := 5 }) hm
  have hmod : (w.modSite n fun c => { c with pwr := .run, pwrPending := none, shut := false, op := 5 }) =
    { w with sites := (w.modSite n fun c => { c with pwr := .run, pwrPending := none, shut := false, op := 5 }).sites } := rfl
  generalize (w.modSite n fun c => { c with pwr := .run, pwrPending := none, shut := false, op := 5 }) = t at *
  refine ⟨?_, ?_, fun m hm => (hother hm).trans ((hothers m hm).trans (hvs m)), fun e => ?_, ?_, ?_⟩
  · rw [hmod, hlog, hvf]
  · rw [hsame, hreset, hvs]
    rfl
  · rw [hmod, hlog, hvf]
    rfl
  · calc (t.region (regionOf n)).st = (v.region (regionOf n)).st := by rw [hmod, hlog]; rfl
      _ = _ := by rw [hreg, hstop]
  · calc (t.region (regionOf n)).mhz = (v.region (regionOf n)).mhz := by rw [hmod, hlog]; rfl
      _ = _ := by rw [hreg, hfield]

theorem rampEnd_still (h : (s.dom (domOfSite n)).st ≠ .ramp ∨ s.exchangeReady n = false) :
    exec (.rampEnd (domOfSite n)) s = .next s :=
  if_pos (h.imp_right fun h => by rw [siteOfDom_domOfSite]; exact h)

theorem coreReset_pending (c : Site) (keepV keepExc : Bool) : (c.coreReset keepV keepExc).pwrPending = c.pwrPending :=
  foldl_keeps Site.pwrPending (fun (d : Site) e => d.modEng e (·.coreReset c.cycle)) (fun _ _ => rfl) (List.finRange 4) c

theorem rampReset_pending (s : State) (n : SiteNo) : ((rampReset s n).site n).pwrPending = (s.site n).pwrPending := by
  unfold rampReset
  dsimp only
  rw [coreReset_site]
  generalize hv : State.modRegion _ (regionOf n) _ = v
  have hsite : v.site n = s.site n := by
    rw [← hv, State.site_modRegion]
    have hover := rampOver_frame (s.setDom (domOfSite n) (rampedDom (s.dom (domOfSite n)))) (domOfSite n)
    rw [hover]
    rfl
  rw [hsite]
  exact coreReset_pending ..

theorem rampEnd_ramps (h : (s.dom (domOfSite n)).st = .ramp) (hx : s.exchangeReady n = true) :
    exec (.rampEnd (domOfSite n)) s = .next (if (s.site n).pwrPending = some .off then (rampDone s n).powerOff n
      else (rampDone s n).bindChosen n) := by
  have he : exec (.rampEnd (domOfSite n)) s = execRampEnd (domOfSite n) s := rfl
  unfold execRampEnd at he
  dsimp only at he
  rw [if_neg (by rw [h, siteOfDom_domOfSite]; simp [hx]), siteOfDom_domOfSite] at he
  refine he.trans ?_
  change Host.Outcome.next (if decide (((rampReset s n).site n).pwrPending = some .off) = true then (rampDone s n).powerOff n
    else (rampDone s n).bindChosen n) = _
  rw [rampReset_pending]
  by_cases hp : (s.site n).pwrPending = some .off
  · rw [if_pos hp, decide_eq_true hp]
    rfl
  · rw [if_neg hp, decide_eq_false hp]
    rfl

/-! ### A core that takes its spare (R238, R415) -/

theorem exchangeAll_frame (s : State) (n : SiteNo) (ps : List Nat) : (s.exchangeAll n ps).1 = { s with mem := (s.exchangeAll n ps).1.mem } := by
  induction ps generalizing s with
  | nil => rfl
  | cons p ps ih =>
    unfold State.exchangeAll
    dsimp only
    split
    · split
      next q _ => exact (ih (s.swapFrames p q)).trans rfl
      next => exact ih s
    · exact ih s

/-- An exchange of mirror pages: of the sites only n may be marked, its mirror degraded. -/
def pagesExchanged (s t : State) (n : SiteNo) : Prop :=
  t.coreMap = s.coreMap ∧ (∀ m, m ≠ n → t.site m = s.site m) ∧
  ∃ a b, t.site n = { s.site n with mirrorDegraded := a, mirrorGone := b }

theorem exchange_exchanges (s : State) (n : SiteNo) : pagesExchanged s (s.exchange n).1 n := by
  have hf := exchangeAll_frame s n (s.mirrorRange n)
  unfold State.exchange
  generalize s.exchangeAll n (s.mirrorRange n) = r at hf
  obtain ⟨u, i, j⟩ := r
  dsimp only at hf ⊢
  have hu : u.coreMap = s.coreMap ∧ ∀ m, u.site m = s.site m := ⟨by rw [hf], fun m => by rw [hf]; rfl⟩
  clear hf
  obtain ⟨hmap, hsite⟩ := hu
  generalize hv : (if i = 0 then u else u.fault 0x0208 (some n) _ _) = v
  have hvm : v.coreMap = s.coreMap := by
    rw [← hv]
    split
    · exact hmap
    · exact hmap
  have hvs (m : SiteNo) : v.site m = s.site m := by
    rw [← hv]
    split
    · exact hsite m
    · exact hsite m
  clear hv
  split
  · exact ⟨hvm, fun m _ => hvs m, _, _, hvs n⟩
  · refine ⟨hvm, fun m hm => (State.site_modSite_other v (fun c => { c with mirrorDegraded := true, mirrorGone := v.mirrorAway n }) hm).trans (hvs m),
      true, v.mirrorAway n, ?_⟩
    exact (State.site_modSite_same v n fun c => { c with mirrorDegraded := true, mirrorGone := v.mirrorAway n }).trans (by rw [hvs])

/-- A logical core moves from a site to the spare chosen for it. -/
def coreMoves (s t : State) (n old : SiteNo) (lc : LCoreNo) : Prop :=
  t.siteOf lc = some n ∧ (∀ x, x ≠ lc → t.siteOf x = s.siteOf x) ∧ (t.site n).bound = some lc ∧
  (t.site n).hamlet = (s.site old).hamlet ∧ (t.site n).mirror = (s.site old).mirror ∧
  (t.site n).launch = (s.site old).launch ∧ (t.site n).chosen = none ∧ (t.site n).refillDue = true ∧
  (t.site old).bound = none ∧ (t.site old).hamlet = none ∧ (t.site old).launch = none ∧
  (∀ m, m ≠ n → m ≠ old → t.site m = s.site m) ∧ ∃ r ∈ t.flt.buf, r.cls = 0x0604

theorem bindChosen_none (h : (s.site n).chosen = none) : s.bindChosen n = s := by
  unfold State.bindChosen
  rw [h]

theorem fault_mem (s : State) (cls : BitVec 16) (n : Option SiteNo) (d : Word32) (a : Word64) :
    ∃ r ∈ (s.fault cls n d a).flt.buf, r.cls = cls := by
  obtain ⟨q, hq, h⟩ := record_mem s (s.plainRec cls n d a)
  exact ⟨q, hq, h.elim (fun e => e ▸ rfl) fun e => e ▸ rfl⟩

theorem bindChosen_moves {lc : LCoreNo} {old : SiteNo} (hc : (s.site n).chosen = some (lc, old)) (hn : n ≠ old)
    (hg : s.fuses.siteGood.getLsbD n.val = true) : coreMoves s (s.bindChosen n) n old lc := by
  unfold State.bindChosen
  rw [hc]
  dsimp only
  rw [if_neg (by rw [hg]; simp [hn])]
  generalize hu : State.modSite (s.bind lc (some n)) old _ = u
  have huo : u.site old = { s.site old with bound := none, hamlet := none, mirror := 0, mirrorDegraded := false, mirrorGone := 0, launch := none } := by
    rw [← hu, State.site_modSite_same]
    rfl
  have hus {m : SiteNo} (hm : m ≠ old) : u.site m = s.site m := by
    rw [← hu, State.site_modSite_other _ _ hm]
    rfl
  have hum : u.coreMap = (s.bind lc (some n)).coreMap := by rw [← hu]; rfl
  clear hu
  generalize hv : State.modSite u n _ = v
  have hvn : v.site n = { s.site n with
      bound := some lc, hamlet := (s.site old).hamlet, mirror := (s.site old).mirror,
      mirrorDegraded := (s.site old).mirrorDegraded, mirrorGone := (s.site old).mirrorGone, launch := (s.site old).launch,
      hint := (s.site old).hint, chosen := none, spare := false, refillDue := true } := by
    rw [← hv, State.site_modSite_same, hus hn]
  have hvo {m : SiteNo} (hm : m ≠ n) : v.site m = u.site m := by rw [← hv, State.site_modSite_other _ _ hm]
  have hvm : v.coreMap = (s.bind lc (some n)).coreMap := by rw [← hv]; exact hum
  clear hv
  obtain ⟨hwm, hws, a, b, hwn⟩ := exchange_exchanges v n
  generalize v.exchange n = r at *
  obtain ⟨w, k⟩ := r
  dsimp only at *
  have hmem := fault_mem w 0x0604 (some n) (BitVec.ofNat 32 (old.val + 64 * n.val + 4096 * lc.val)) (BitVec.ofNat 64 k)
  have hsites (m : SiteNo) : (w.fault 0x0604 (some n) (BitVec.ofNat 32 (old.val + 64 * n.val + 4096 * lc.val)) (BitVec.ofNat 64 k)).site m = w.site m := rfl
  have hmaps (x : LCoreNo) : (w.fault 0x0604 (some n) (BitVec.ofNat 32 (old.val + 64 * n.val + 4096 * lc.val)) (BitVec.ofNat 64 k)).siteOf x =
      (s.bind lc (some n)).siteOf x := by
    change tget _ w.coreMap x.val = _
    rw [hwm, hvm]
    rfl
  generalize w.fault _ _ _ _ = t at *
  have htn : t.site n = { s.site n with
      bound := some lc, hamlet := (s.site old).hamlet, mirror := (s.site old).mirror, mirrorDegraded := a, mirrorGone := b,
      launch := (s.site old).launch, hint := (s.site old).hint, chosen := none, spare := false, refillDue := true } := by
    rw [hsites, hwn, hvn]
  have hto : t.site old = u.site old := by rw [hsites, hws old hn.symm, hvo hn.symm]
  refine ⟨?_, fun x hx => ?_, ?_, ?_, ?_, ?_, ?_, ?_, ?_, ?_, ?_, fun m hm ho => ?_, hmem⟩
  · rw [hmaps, State.siteOf_bind_same]
  · rw [hmaps, State.siteOf_bind_other _ _ hx]
  · rw [htn]
  · rw [htn]
  · rw [htn]
  · rw [htn]
  · rw [htn]
  · rw [htn]
  · rw [hto, huo]
  · rw [hto, huo]
  · rw [hto, huo]
  · rw [hsites, hws m hm, hvo hm, hus ho]

end

/-! ### Admission (R370 to R372) -/

section
variable {s : State} {d : DomainNo} {tm : Word64}

theorem admitTurn_at : (s.at tm).admitTurn d = s.admitTurn d := by
  obtain ⟨x, hx⟩ := at_is s tm
  rw [hx]
  rfl

theorem dom_at : (s.at tm).dom d = s.dom d := by
  obtain ⟨x, hx⟩ := at_is s tm
  rw [hx]
  rfl

theorem ibcRoom_at : (s.at tm).ibcRoom d = decide (10 ≤ tget (fun _ => 0) s.pwr.ibcLow (fieldOfDom d).val) := by
  obtain ⟨x, hx⟩ := at_is s tm
  rw [hx]
  rfl

theorem admissionCheck_ramps (hw : (s.dom d).st = .wait) (ht : s.admitTurn d = true)
    (hi : inWindow (s.dom d).since 2000000 (s.at tm).tb = true) (hr : 10 ≤ tget (fun _ => 0) s.pwr.ibcLow (fieldOfDom d).val)
    (hf : (s.at tm).forecastSoon d = false) :
    exec (.admissionCheck d true false tm) s = .next ((s.at tm).setDom d { s.dom d with st := .ramp }) := by
  change execAdmissionCheck d true false tm s = _
  unfold execAdmissionCheck
  dsimp only
  rw [dom_at, if_pos ⟨hw, admitTurn_at.trans ht, rfl, rfl, ibcRoom_at.trans (decide_eq_true hr), hf, hi⟩]

theorem admissionCheck_holds {near : Bool} (h : near = true ∨ tget (fun _ => 0) s.pwr.ibcLow (fieldOfDom d).val < 10 ∨
    (s.at tm).forecastSoon d = true) : exec (.admissionCheck d true near tm) s = .next (s.at tm) := by
  refine if_neg fun ⟨_, _, _, hn, hr, hf, _⟩ => ?_
  rcases h with h | h | h
  · rw [h] at hn
    exact nomatch hn
  · rw [ibcRoom_at] at hr
    exact absurd (of_decide_eq_true hr) (by omega)
  · rw [h] at hf
    exact nomatch hf

theorem admissionTimeout_ramps (hw : (s.dom d).st = .wait) (ht : s.admitTurn d = true)
    (ho : windowOver (s.dom d).since 2000000 (s.at tm).tb = true) :
    exec (.admissionTimeout d tm) s = .next ((((s.at tm).setDom d { s.dom d with st := .ramp }).fault 0x0507 (siteOfDom d)
      (BitVec.ofNat 32 d.val ||| BitVec.ofNat 32 ((fieldOfDom d).val * 64)) 0).setAdm d 14) := by
  change execAdmissionTimeout d tm s = _
  unfold execAdmissionTimeout
  dsimp only
  rw [dom_at, if_pos ⟨hw, admitTurn_at.trans ht, ho⟩]

/-- A domain that ramps on its time limit caps its powered neighbours. -/
theorem timedOut_caps (s : State) (d : DomainNo) (tm : Word64) (n : Option SiteNo) (dt : Word32) :
    let t := (((s.at tm).setDom d { s.dom d with st := .ramp }).fault 0x0507 n dt 0).setAdm d 14
    t = { s.at tm with pwr := { s.pwr with doms := t.pwr.doms }, flt := t.flt, jrnl := t.jrnl } ∧
      logged s t 0x0507 ∧ t.dom d = { s.dom d with st := .ramp } ∧
      (∀ e, e ≠ d → e.val < 40 → fieldOfDom e = fieldOfDom d → (s.dom e).st = .on → t.dom e = { s.dom e with qAdm := 14 }) ∧
      ∀ e, e ≠ d → ¬(e.val < 40 ∧ fieldOfDom e = fieldOfDom d ∧ (s.dom e).st = .on) → t.dom e = s.dom e := by
  obtain ⟨x, hx⟩ := at_is s tm
  rw [hx]
  obtain ⟨u, hu⟩ : ∃ u : State, u = (({ s with tb := x } : State).setDom d { s.dom d with st := .ramp }).fault 0x0507 n dt 0 := ⟨_, rfl⟩
  have hsame : u.dom d = { s.dom d with st := .ramp } := by
    rw [hu]
    exact State.dom_setDom_same { s with tb := x } d _
  have hother (e : DomainNo) (h : e ≠ d) : u.dom e = s.dom e := by
    rw [hu]
    exact State.dom_setDom_other { s with tb := x } _ h
  have hlog : logged s u 0x0507 := by
    rw [hu]
    exact record_logged (({ s with tb := x } : State).setDom d { s.dom d with st := .ramp }) (State.plainRec _ 0x0507 n dt 0)
  have huf : u = { s with tb := x, pwr := { s.pwr with doms := u.pwr.doms }, flt := u.flt, jrnl := u.jrnl } := by
    rw [hu]
    rfl
  rw [← hu]
  have hframe := setAdm_frame u d 14
  have hdom := setAdm_dom u d 14
  generalize u.setAdm d 14 = t at *
  refine ⟨by rw [hframe, huf], ?_, ?_, fun e hd h hf hon => ?_, fun e hd h => ?_⟩
  · unfold logged at hlog ⊢
    rw [show t.flt = u.flt by rw [hframe]]
    exact hlog
  · rw [hdom, admCapped_else fun h => h.2.1 rfl, hsame]
  · rw [hdom, hother e hd, admCapped_on h hd hf hon]
  · rw [hdom, hother e hd, admCapped_else fun k => h ⟨k.1, k.2.2.1, k.2.2.2⟩]

end

section
variable {s t : State} {n : SiteNo}

/-- A domain that has ended its ramp is on; its powered neighbours lose their caps, those that wait start anew, no other
changes. -/
theorem ramped_doms (h : ramped s t n) : let d := domOfSite n
    t.dom d = { s.dom d with st := .on, mv := 750, trim := 0 } ∧
    (∀ e, e ≠ d → e.val < 40 → fieldOfDom e = fieldOfDom d →
      ((s.dom e).st = .on → t.dom e = { s.dom e with qAdm := 16 }) ∧
      ((s.dom e).st = .wait → t.dom e = { s.dom e with since := s.tb })) ∧
    ∀ e, e ≠ d → ¬(e.val < 40 ∧ fieldOfDom e = fieldOfDom d) → t.dom e = s.dom e := by
  intro d
  obtain ⟨_, _, _, hdoms, _⟩ := h
  obtain ⟨u, hu⟩ : ∃ u : State, u = s.setDom (domOfSite n) (rampedDom (s.dom (domOfSite n))) := ⟨_, rfl⟩
  have hu' : u = { s with pwr := { s.pwr with doms := (s.setDom (domOfSite n) (rampedDom (s.dom (domOfSite n)))).pwr.doms } } := hu
  rw [← hu'] at hdoms
  have hsame : u.dom d = rampedDom (s.dom d) := by rw [hu, State.dom_setDom_same]
  have hother {e : DomainNo} (h : e ≠ d) : u.dom e = s.dom e := by rw [hu, State.dom_setDom_other _ _ h]
  have htb : u.tb = s.tb := by rw [hu]; rfl
  refine ⟨?_, fun e hd h40 hf => ⟨fun h => ?_, fun h => ?_⟩, fun e hd h => ?_⟩
  · rw [hdoms, rampOver_same, hsame]
    rfl
  · rw [hdoms, rampOver_on u hd h40 hf (by rw [hother hd]; exact h), hother hd]
  · rw [hdoms, rampOver_wait u hd h40 hf (by rw [hother hd]; exact h), hother hd, htb]
  · rw [hdoms, rampOver_far u h, hother hd]

theorem coreReset_chosen (c : Site) (keepV keepExc : Bool) : (c.coreReset keepV keepExc).chosen = c.chosen :=
  foldl_keeps Site.chosen (fun (d : Site) e => d.modEng e (·.coreReset c.cycle)) (fun _ _ => rfl) (List.finRange 4) c

theorem rampedSite_chosen (c : Site) : (rampedSite c).chosen = c.chosen := coreReset_chosen c false false

theorem rampEnd_runs (hd : (s.dom (domOfSite n)).st = .ramp) (hx : s.exchangeReady n = true)
    (hp : (s.site n).pwrPending ≠ some .off) (hc : (s.site n).chosen = none) :
    completes (.rampEnd (domOfSite n)) s fun t => ramped s t n := by
  have he := rampEnd_ramps hd hx
  have hr := rampDone_ramped s n
  rw [if_neg hp] at he
  generalize rampDone s n = u at *
  obtain ⟨_, hsite, _⟩ := id hr
  rw [bindChosen_none (by rw [hsite, rampedSite_chosen, hc])] at he
  exact ⟨u, he, hr⟩

theorem rampEnd_binds {old : SiteNo} {lc : LCoreNo} (hd : (s.dom (domOfSite n)).st = .ramp) (hx : s.exchangeReady n = true)
    (hp : (s.site n).pwrPending ≠ some .off) (hc : (s.site n).chosen = some (lc, old)) (hn : n ≠ old)
    (hg : s.fuses.siteGood.getLsbD n.val = true) :
    completes (.rampEnd (domOfSite n)) s fun t => coreMoves s t n old lc := by
  have he := rampEnd_ramps hd hx
  rw [if_neg hp] at he
  obtain ⟨hframe, hsite, hother, _⟩ := rampDone_ramped s n
  generalize rampDone s n = u at *
  have hchosen : (u.site n).chosen = some (lc, old) := by
    rw [hsite, rampedSite_chosen, hc]
  have hfuses : u.fuses = s.fuses := by rw [hframe]
  have hmap (x : LCoreNo) : u.siteOf x = s.siteOf x := by
    rw [hframe]
    rfl
  have hm := bindChosen_moves hchosen hn (by rw [hfuses]; exact hg)
  refine ⟨_, he, ?_⟩
  unfold coreMoves at hm ⊢
  rw [hother old hn.symm] at hm
  obtain ⟨h1, h2, h3, h4, h5, h6, h7, h8, h9, h10, h11, h12, h13⟩ := hm
  exact ⟨h1, fun x hx => (h2 x hx).trans (hmap x), h3, h4, h5, h6, h7, h8, h9, h10, h11,
    fun m hm ho => (h12 m hm ho).trans (hother m hm), h13⟩

theorem rampEnd_off (hd : (s.dom (domOfSite n)).st = .ramp) (hx : s.exchangeReady n = true)
    (hp : (s.site n).pwrPending = some .off) : completes (.rampEnd (domOfSite n)) s fun t =>
      (t.site n).pwr = .off ∧ (t.site n).pwrPending = none ∧ (t.dom (domOfSite n)).st = .off ∧
      (t.dom (domOfSite n)).mv = 0 ∧ ∀ m, m ≠ n → t.site m = s.site m := by
  have he := rampEnd_ramps hd hx
  rw [if_pos hp] at he
  have hr := rampDone_ramped s n
  obtain ⟨hdom, _⟩ := ramped_doms hr
  obtain ⟨_, _, hother, _⟩ := hr
  generalize rampDone s n = u at *
  obtain ⟨_, _, hsite, hsites, hoff, _⟩ := powerOff_powered (s := u) (n := n) (by rw [hdom]; exact fun h => nomatch h)
  generalize u.powerOff n = t at *
  exact ⟨t, he, congrArg Site.pwr hsite, congrArg Site.pwrPending hsite, congrArg Domain.st hoff, congrArg Domain.mv hoff,
    fun m hm => (hsites m hm).trans (hother m hm)⟩

end

/-- Settles O30. -/
theorem admission : Obligations.Admission := by
  refine ⟨fun s d near tm hw ht hi => ⟨fun hn hr hf => ?_, fun h => ⟨_, admissionCheck_holds h, rfl⟩⟩, fun s d tm hw ht ho => ?_,
    fun s n h => ⟨s, rampEnd_still h, rfl⟩, fun s n hd hx hp hc => ?_, fun s n old lc hd hx hp hc hn hg => rampEnd_binds hd hx hp hc hn hg,
    fun s n hd hx hp => rampEnd_off hd hx hp⟩
  · subst hn
    exact ⟨_, admissionCheck_ramps hw ht hi hr hf, ⟨rfl, fun e he => State.dom_setDom_other (s.at tm) _ he⟩,
      State.dom_setDom_same ..⟩
  · exact ⟨_, admissionTimeout_ramps hw ht ho, timedOut_caps s d tm _ _⟩
  · obtain ⟨t, he, hr⟩ := rampEnd_runs hd hx hp hc
    obtain ⟨hdom, hpeers, hfar⟩ := ramped_doms hr
    obtain ⟨hframe, hsite, hother, _, hst, hmhz⟩ := hr
    exact ⟨t, he, hframe, hdom, congrArg Site.pwr hsite, congrArg Site.pwrPending hsite, congrArg Site.op hsite,
      congrArg Site.seq hsite, congrArg Site.shut hsite, hother, hst, hmhz, hpeers, hfar⟩

end Sys2Proof.Machine
end

section
/-!
PROOF. The POWERED record of a power-fail warning (R464, R466).
-/

namespace Sys2Proof.Machine

/-! ### The POWERED record of a power-fail warning (R464, R466) -/

/-- A device with its always-on rail at time 0. -/
def alwaysOnDevice : State := { board := { alwaysOn := true } }

/-- PWRFAIL_FALL a second later seals a POWERED record of that second. -/
theorem pwrfailFall_seals : exec (.pwrfailFall 1000000000) alwaysOnDevice =
    .next { alwaysOnDevice with
      tb := 1000000000, board := { alwaysOnDevice.board with pwrfail := true },
      jrnl := { ([.powered 1] : List JRec).foldl Journal.seal alwaysOnDevice.jrnl with
        buf := [], sealing := true, sealedKib := some 1 } } := rfl

/-- Refutes O57: the POWERED record that PWRFAIL_FALL seals counts the powered seconds up to its own instant, not those of
the state before it. -/
theorem not_startsAndRails : ¬ Obligations.StartsAndRails := by
  intro h
  obtain ⟨_, _, _, hpins, _⟩ := h
  obtain ⟨_, _, hfall, _⟩ := hpins alwaysOnDevice 1000000000
  obtain ⟨t, ht, _, _, _, hrecs⟩ := hfall rfl rfl
  rw [pwrfailFall_seals] at ht
  cases ht
  exact absurd hrecs (by decide)

end Sys2Proof.Machine
end

section
/-!
PROOF. The engines' checks: last placements, verdicts, votes and repair.
-/

namespace Sys2Proof.Machine

/-! ### What repair leaves alone -/

theorem onlyEngine_setSite {s : State} {n : SiteNo} {e : EngNo} (g : Engine) :
    onlyEngine n e s (s.setSite n ((s.site n).setEng e g)) := by
  unfold onlyEngine
  rw [State.site_setSite_same]
  exact ⟨⟨rfl, fun m h => State.site_setSite_other s _ h⟩, rfl, fun x h => Site.eng_setEng_other _ _ h⟩

/-- The first engine of which something holds, in the order of their numbers. -/
theorem findEngine_first {p : EngNo → Bool} {e : EngNo} (h : p e = true) (hb : ∀ x, x < e → p x = false) :
    (List.finRange 4).find? p = some e := by
  refine List.find?_eq_some_iff_getElem.2 ⟨h, e.val, by simp, by simp, fun j hj => ?_⟩
  simpa using hb ⟨j, by omega⟩ hj

section
variable {s : State} {n : SiteNo} {e : EngNo} {p : Plane}

/-- The state in which the shadow plane of an engine has been given back with contents q. -/
def State.restored (s : State) (n : SiteNo) (e : EngNo) (q : Plane) : State :=
  s.setSite n ((s.site n).setEng e { ((s.site n).eng e).setPlane (!((s.site n).eng e).active) q with restoring := none })

theorem restoring_first (h : ((s.site n).eng e).restoring = some p) (hb : ∀ x, x < e → ((s.site n).eng x).restoring = none) :
    (List.finRange 4).find? (fun x => ((s.site n).eng x).restoring.isSome) = some e :=
  findEngine_first (by rw [h]; rfl) fun x hx => by rw [hb x hx]; rfl

theorem planeRestoreDone_clean (hc : s.clocked n = true) (h : ((s.site n).eng e).restoring = some p)
    (hb : ∀ x, x < e → ((s.site n).eng x).restoring = none) (off : BitVec 32) :
    exec (.planeRestoreDone n { ecc := .clean, off := off }) s = .next (s.restored n e p) := by
  change execPlaneRestoreDone _ _ _ = _
  unfold execPlaneRestoreDone
  simp only [hc, restoring_first h hb, h, reduceCtorEq, if_false]
  rfl

theorem planeRestoreDone_lost (hc : s.clocked n = true) (h : ((s.site n).eng e).restoring = some p)
    (hb : ∀ x, x < e → ((s.site n).eng x).restoring = none) (hv : (s.site n).vote = none) (off : BitVec 32) :
    exec (.planeRestoreDone n { ecc := .uncorrectable, off := off }) s =
      .next ((s.restored n e {}).record ((s.restored n e {}).engRec n e 0x0012 5 (off.setWidth 64))) := by
  change execPlaneRestoreDone _ _ _ = _
  unfold execPlaneRestoreDone
  simp only [hc, restoring_first h hb, h, hv, reduceCtorEq, if_false]
  rfl

theorem planeRestoreDone_nothing (hc : s.clocked n = true) (h : ∀ x, ((s.site n).eng x).restoring = none) (b : BufObs) :
    exec (.planeRestoreDone n b) s = .next s := by
  change execPlaneRestoreDone _ _ _ = _
  unfold execPlaneRestoreDone
  simp only [hc, h]
  rfl

theorem restored_frame (q : Plane) : onlyEngine n e s (s.restored n e q) := onlyEngine_setSite _

theorem restored_eng (q : Plane) : ((s.restored n e q).site n).eng e =
    { ((s.site n).eng e).setPlane (!((s.site n).eng e).active) q with restoring := none } := by
  unfold State.restored
  rw [State.site_setSite_same, Site.eng_setEng_same]

theorem restored_shadow (q : Plane) : (((s.restored n e q).site n).eng e).shadow = q := by
  rw [restored_eng]
  exact Engine.plane_setPlane_same _ _ _

end

/-! ### The end of a localisation test -/

/-- A record produced, redacted or not, has the class, outcome, site and engine given. -/
theorem record_has (s : State) (r : FaultRec) : ∃ q ∈ (s.record r).flt.buf,
    q.cls = r.cls ∧ q.outcome = r.outcome ∧ q.site = r.site ∧ q.engine = r.engine := by
  obtain ⟨q, hq, h⟩ := record_mem s r
  exact ⟨q, hq, h.elim (fun e => e ▸ ⟨rfl, rfl, rfl, rfl⟩) fun e => e ▸ ⟨rfl, rfl, rfl, rfl⟩⟩

/-- The fault manager told of a class at a site holds such a report. -/
theorem tell_has (s : State) (cls : BitVec 16) (site : Option SiteNo) (detail : Word32) (addr : Word64) :
    ∃ r ∈ (s.tell cls site detail addr).flt.reports, r.2.cls = cls ∧ r.2.site = site ∧ r.2.detail = detail :=
  ⟨_, mem_insertReport _ _ _, rfl, rfl, rfl⟩

section
variable {s : State} {n : SiteNo} {e : EngNo} {obs : LocalObs}

/-- A state in which an engine is f of itself. -/
def State.engineAs (s : State) (n : SiteNo) (e : EngNo) (f : Engine → Engine) : State :=
  s.modSite n fun c => c.modEng e f

theorem engineAs_eng (f : Engine → Engine) : ((s.engineAs n e f).site n).eng e = f ((s.site n).eng e) := by
  unfold State.engineAs
  rw [State.site_modSite_same, Site.eng_modEng_same]

theorem engineAs_frame (f : Engine → Engine) : onlyEngine n e s (s.engineAs n e f) := onlyEngine_setSite _

/-- The record of an engine to be replaced at the next tally. -/
def State.replaceRec (s : State) (n : SiteNo) (e : EngNo) : FaultRec :=
  { (s.plainRec 0x0010 (some n) 0 0).ofEngine e ((s.site n).eng e) with outcome := 7 }

theorem localisation_beyond (hr : ((s.site n).eng e).retired = true) (ha : ((s.site n).eng e).replaceAtTally = false)
    (hb : obs.beyond = true) : exec (.localisationTestEnd n e obs) s =
      .next (((s.engineAs n e fun g => { g with replaceAtTally := true }).record
        ((s.engineAs n e fun g => { g with replaceAtTally := true }).replaceRec n e)).tell 0x0010 (some n) 7 0) := by
  change execLocalisationTestEnd _ _ _ _ = _
  unfold execLocalisationTestEnd
  simp only [hr, ha, hb, Bool.true_eq_false, Bool.false_eq_true, or_self, if_false, Bool.true_or, if_true]
  rfl

/-- The state in which a plan of repair has been taken and the engine is back in service. -/
def State.repaired (s : State) (n : SiteNo) (e : EngNo) (rows cols : List Nat) : State :=
  (s.remap n e rows cols).engineAs n e fun g => { g with retired := false, movePending := false, verdicts := [] }

/-- The one record of a repair. -/
def State.repairRec (s : State) (u : State) (n : SiteNo) (e : EngNo) (rows cols : List Nat) : FaultRec :=
  { (s.plainRec 0x0011 (some n) (BitVec.ofNat 32 ((rows ++ cols.map (· + 256)).headD 0)) 0).ofEngine e
      ((u.site n).eng e) with outcome := 6 }

theorem localisation_covered {rows cols : List Nat} (hr : ((s.site n).eng e).retired = true)
    (ha : ((s.site n).eng e).replaceAtTally = false) (hb : obs.beyond = false) (hp : obs.pes ≠ [])
    (hplan : s.planOf n e obs.pes = some (rows, cols)) (hq : (s.site n).engQuiescent e = true) :
    exec (.localisationTestEnd n e obs) s = .next ((s.repaired n e rows cols).record
      ((s.repaired n e rows cols).repairRec (s.repaired n e rows cols) n e rows cols)) := by
  have hne : obs.pes.isEmpty = false := by simpa using hp
  change execLocalisationTestEnd _ _ _ _ = _
  unfold execLocalisationTestEnd
  simp only [hr, ha, hb, hne, hplan, hq, Bool.true_eq_false, Bool.false_eq_true, or_self, if_false]
  rfl

theorem localisation_unretired (hr : ((s.site n).eng e).retired = false) :
    exec (.localisationTestEnd n e obs) s = .next s :=
  if_pos (.inl hr)

/-- A remap changes one engine and enters the journal. -/
theorem remap_is (rows cols : List Nat) : ∃ f r, s.remap n e rows cols = (s.engineAs n e f).journal r := ⟨_, _, rfl⟩

theorem repaired_frame (rows cols : List Nat) :
    s.repaired n e rows cols = { s with sites := (s.repaired n e rows cols).sites, jrnl := (s.repaired n e rows cols).jrnl } ∧
      (∀ m, m ≠ n → (s.repaired n e rows cols).site m = s.site m) ∧
      ∀ x, x ≠ e → ((s.repaired n e rows cols).site n).eng x = ((s.site n).eng x) := by
  obtain ⟨f, r, hf⟩ := remap_is (s := s) (n := n) (e := e) rows cols
  obtain ⟨⟨-, hm⟩, -, hx⟩ := engineAs_frame (s := s) (n := n) (e := e) f
  unfold State.repaired
  rw [hf]
  obtain ⟨⟨-, hsites⟩, -, heng⟩ := engineAs_frame (s := (s.engineAs n e f).journal r) (n := n) (e := e)
    fun g => { g with retired := false, movePending := false, verdicts := [] }
  exact ⟨rfl, fun m h => (hsites m h).trans (hm m h), fun x h => (heng x h).trans (hx x h)⟩

/-- What the record and the report of an engine to be replaced leave alone and hold. -/
theorem replaced_spec (t : State) (ht : t = s.engineAs n e fun g => { g with replaceAtTally := true }) :
    let u := (t.record (t.replaceRec n e)).tell 0x0010 (some n) 7 0
    u = { s with sites := u.sites, flt := u.flt, jrnl := u.jrnl } ∧ (∀ m, m ≠ n → u.site m = s.site m) ∧
      (u.site n).eng e = { (s.site n).eng e with replaceAtTally := true } ∧
      (∀ x, x ≠ e → (u.site n).eng x = (s.site n).eng x) ∧
      (∃ r ∈ u.flt.buf, r.cls = 0x0010 ∧ r.outcome = 7) ∧ ∃ r ∈ u.flt.reports, r.2.cls = 0x0010 ∧ r.2.site = some n := by
  obtain ⟨⟨hf, hsites⟩, -, heng⟩ := engineAs_frame (s := s) (n := n) (e := e) fun g => { g with replaceAtTally := true }
  have he := engineAs_eng (s := s) (n := n) (e := e) fun g => { g with replaceAtTally := true }
  rw [← ht] at hf hsites heng he
  obtain ⟨q, hq, hcls, hout, -⟩ := record_has t (t.replaceRec n e)
  obtain ⟨r, hr, hrc, hrs, -⟩ := tell_has (t.record (t.replaceRec n e)) 0x0010 (some n) 7 0
  refine ⟨?_, hsites, he, heng, ⟨q, hq, hcls, hout⟩, r, hr, hrc, hrs⟩
  rw [hf]
  rfl

theorem repaired_spec (rows cols : List Nat) (t : State) (ht : t = s.repaired n e rows cols) :
    let u := t.record (t.repairRec t n e rows cols)
    u = { s with sites := u.sites, flt := u.flt, jrnl := u.jrnl } ∧ (∀ m, m ≠ n → u.site m = s.site m) ∧
      ((u.site n).eng e).retired = false ∧ ((u.site n).eng e).verdicts = [] ∧
      (∀ x, x ≠ e → (u.site n).eng x = (s.site n).eng x) ∧ u.flt.reports = s.flt.reports ∧
      u.flt.nextId = s.flt.nextId + 1 ∧ ∃ r ∈ u.flt.buf, r.cls = 0x0011 ∧ r.outcome = 6 := by
  obtain ⟨hs, hsites, heng⟩ := repaired_frame (s := s) (n := n) (e := e) rows cols
  have he : ((s.repaired n e rows cols).site n).eng e = _ := engineAs_eng _
  have hr := congrArg Engine.retired he
  have hv := congrArg Engine.verdicts he
  rw [← ht] at hs hsites heng hr hv
  obtain ⟨q, hq, hcls, hout, -⟩ := record_has t (t.repairRec t n e rows cols)
  have hrep : t.flt.reports = s.flt.reports := by rw [hs]
  have hid : t.flt.nextId + 1 = s.flt.nextId + 1 := by rw [hs]
  refine ⟨?_, hsites, hr, hv, heng, hrep, hid, q, hq, hcls, hout⟩
  rw [hs]
  rfl

end

/-! ### Plans of repair (R84, R183) -/

theorem choose_sublist {xs ys : List Nat} {k : Nat} (h : ys ∈ choose k xs) : List.Sublist ys xs := by
  induction xs generalizing k ys with
  | nil =>
    cases k with
    | zero => rw [List.mem_singleton.1 h]
    | succ k => cases h
  | cons x xs ih =>
    cases k with
    | zero => rw [List.mem_singleton.1 h]; exact List.nil_sublist _
    | succ k =>
      rcases List.mem_append.1 h with h | h
      · obtain ⟨zs, hz, rfl⟩ := List.mem_map.1 h
        exact (ih hz).cons_cons x
      · exact (ih h).cons x

theorem colsLeft_covers {pes : List (Fin 256 × Fin 256)} {rows : List Nat} {p : Fin 256 × Fin 256} (h : p ∈ pes) :
    p.1.val ∈ rows ∨ p.2.val ∈ colsLeft pes rows := by
  by_cases hr : p.1.val ∈ rows
  · exact .inl hr
  · exact .inr (List.mem_dedup.2 (List.mem_map.2 ⟨p, List.mem_filter.2 ⟨h, by simpa using hr⟩, rfl⟩))

/-- A plan of repair names no row or column twice and none that is mapped, and covers every faulty element. -/
theorem coverPlan_covers {pes : List (Fin 256 × Fin 256)} {rs cs : Nat} {rd cd rows cols : List Nat}
    (h : coverPlan pes rs cs rd cd = some (rows, cols)) :
    rows.Nodup ∧ cols.Nodup ∧ (∀ r ∈ rows, r ∉ rd) ∧ (∀ x ∈ cols, x ∉ cd) ∧
      ∀ p ∈ pes, p.1.val ∈ rows ∨ p.2.val ∈ cols := by
  have hok := List.find?_some h
  obtain ⟨r, hr, he⟩ := List.mem_map.1 (List.mem_of_find?_eq_some h)
  cases he
  have hsub := choose_sublist hr
  simp only [Bool.and_eq_true, decide_eq_true_eq, List.all_eq_true] at hok
  refine ⟨hsub.nodup ((List.nodup_dedup _).filter _), List.nodup_dedup _, fun x hx => ?_, fun x hx => ?_,
    fun p hp => colsLeft_covers hp⟩
  · simpa using (List.mem_filter.1 (hsub.subset hx)).2
  · simpa using hok.2 x hx

/-! ### The window of verdicts (R182) -/

theorem mem_window {g : Engine} {now : Word32} {v : Bool × Word32} :
    v ∈ (g.window now).verdicts ↔ v ∈ g.verdicts ∧ now.toNat < v.2.toNat + 86400 := by
  unfold Engine.window
  rw [List.mem_filter, decide_eq_true_eq]

/-- Settles O27, command by command: what is restored, what a localisation test finds, and the window of verdicts. -/
theorem repairOfEngines : Obligations.RepairOfEngines := by
  unfold Obligations.RepairOfEngines
  refine ⟨fun s n e p off hc h hb => ⟨⟨_, planeRestoreDone_clean hc h hb off, restored_frame _, restored_eng _⟩,
      fun hv => ⟨_, planeRestoreDone_lost hc h hb hv off, record_logged _ _, restored_shadow _,
        congrArg Engine.restoring (restored_eng _)⟩⟩,
    fun s n b hc h => ⟨s, planeRestoreDone_nothing hc h b, rfl⟩,
    fun s n e obs hr ha hb => ⟨_, localisation_beyond hr ha hb, replaced_spec _ rfl⟩,
    fun s n e obs rows cols hr ha hb hp hplan hq => ⟨_, localisation_covered hr ha hb hp hplan hq,
      repaired_spec rows cols _ rfl⟩,
    fun s n e obs hr => ⟨s, localisation_unretired hr, rfl⟩,
    fun s n e pes rows cols h => coverPlan_covers h,
    fun s n e tm => ⟨(s.at tm).engineAs n e (·.window (s.at tm).poweredNow), rfl, engineAs_frame _, ?_, fun v => ?_⟩⟩
  · rw [engineAs_eng, State.site_at]
    rfl
  · rw [engineAs_eng, State.site_at]
    exact mem_window

/-! ### What the operations of engines, sill and tokens leave of a site -/

@[simp] theorem besides_modEng (c : Site) (e : EngNo) (f : Engine → Engine) :
    (c.modEng e f).besidesEngines = c.besidesEngines := rfl
@[simp] theorem besides_setEng (c : Site) (e : EngNo) (g : Engine) : (c.setEng e g).besidesEngines = c.besidesEngines := rfl
@[simp] theorem besides_setEntry (c : Site) (i : Nat) (v : SillEntry) :
    (c.setEntry i v).besidesEngines = c.besidesEngines := rfl
@[simp] theorem besides_vote (c : Site) (v : Option Vote) : { c with vote := v }.besidesEngines = c.besidesEngines := rfl
@[simp] theorem besides_sillGone (c : Site) (i : Nat) : (c.sillGone i).besidesEngines = c.besidesEngines := rfl
@[simp] theorem besides_poisonBank (c : Site) (e : EngNo) (b : Fin 4) :
    (c.poisonBank e b).besidesEngines = c.besidesEngines := rfl
@[simp] theorem besides_poisonEntry (c : Site) (i : Nat) : (c.poisonEntry i).besidesEngines = c.besidesEngines := rfl

@[simp] theorem besides_signal (c : Site) (k : BitVec 6) (a : Nat) : (c.signal k a).besidesEngines = c.besidesEngines := by
  unfold Site.signal
  dsimp only
  split <;> rfl

@[simp] theorem besides_signalOpt (c : Site) (o : Option (BitVec 6)) :
    (c.signalOpt o).besidesEngines = c.besidesEngines := by
  cases o with
  | none => rfl
  | some k => exact besides_signal c k 1

@[simp] theorem besides_sillTryFree (c : Site) (i : Nat) : (c.sillTryFree i).besidesEngines = c.besidesEngines := by
  unfold Site.sillTryFree
  dsimp only
  split
  · split <;> rfl
  · rfl

/-- The ENG_FLUSH update that a released entry makes (R58). -/
def Site.takeFlush (c : Site) : Option (EngNo × Bool × Bool × BitVec 16) → Site
  | some (e, sat, nan, f) => c.modEng e fun g => { g with flushReg := flushTake g.flushReg sat nan f }
  | none => c

@[simp] theorem besides_takeFlush (c : Site) (o : Option (EngNo × Bool × Bool × BitVec 16)) :
    (c.takeFlush o).besidesEngines = c.besidesEngines := by
  cases o with
  | none => rfl
  | some v => rfl

theorem sillRelease_now {c : Site} {i : Nat} (h : (c.entry i).st = .closed) (hw : (c.entry i).waits = 0) :
    c.sillRelease i = (((c.takeFlush (c.entry i).flush).setEntry i
      { c.entry i with st := .released, flush := none, tok := none }).signalOpt (c.entry i).tok).sillTryFree i := by
  unfold Site.sillRelease Site.takeFlush
  exact if_pos ⟨h, hw⟩

theorem sillRelease_not {c : Site} {i : Nat} (h : ¬ ((c.entry i).st = .closed ∧ (c.entry i).waits = 0)) :
    c.sillRelease i = c := if_neg h

@[simp] theorem besides_sillRelease (c : Site) (i : Nat) : (c.sillRelease i).besidesEngines = c.besidesEngines := by
  by_cases h : (c.entry i).st = .closed ∧ (c.entry i).waits = 0
  · rw [sillRelease_now h.1 h.2]
    simp
  · rw [sillRelease_not h]

@[simp] theorem besides_sillPass (c : Site) (i : Nat) : (c.sillPass i).besidesEngines = c.besidesEngines := by
  unfold Site.sillPass
  simp

@[simp] theorem besides_closeEntry (c : Site) (i : Fin 64) (f : Flight) :
    (c.closeEntry i f).besidesEngines = c.besidesEngines := by
  unfold Site.closeEntry
  dsimp only
  split <;> rfl

@[simp] theorem besides_unhold (c : Site) (e : EngNo) (f : Flight) : (c.unhold e f).besidesEngines = c.besidesEngines := by
  unfold Site.unhold
  split <;> rfl

/-- The bank that an instruction drained with OUT += is FREE when its verdict has passed (R499). -/
def Site.freeAdded (c : Site) (e : EngNo) (f : Flight) (m : MatrixF) : Site :=
  if m.accumulate ∧ m.dest ≠ 0 ∧ f.cancelled = false ∧ ((c.eng e).bank m.bank).st = .filling then
    c.modEng e fun g => g.setBank m.bank {}
  else c

@[simp] theorem besides_freeAdded (c : Site) (e : EngNo) (f : Flight) (m : MatrixF) :
    (c.freeAdded e f m).besidesEngines = c.besidesEngines := by
  unfold Site.freeAdded
  split <;> rfl

section
variable {c : Site} {e : EngNo} {f : Flight} {m : MatrixF}

theorem passed_drained (h : f.op.kind = .matrix m) (hd : m.dest ≠ 0) :
    c.passed e f = (c.freeAdded e f m).sillPass m.sill.val := by
  unfold Site.passed
  rw [h]
  exact if_pos hd

theorem passed_kept (h : f.op.kind = .matrix m) (hd : m.dest = 0) :
    c.passed e f = if f.cancelled = false ∧ ((c.eng e).bank m.bank).st = .poisoned then c
      else c.signalOpt (tokOf m.tokEn m.tok) := by
  have hn : ¬ (m.accumulate = true ∧ m.dest ≠ 0 ∧ f.cancelled = false ∧ ((c.eng e).bank m.bank).st = .filling) :=
    fun h => h.2.1 hd
  unfold Site.passed
  rw [h]
  dsimp only
  rw [if_neg hn, if_neg (not_not_intro hd)]

end

@[simp] theorem besides_passed (c : Site) (e : EngNo) (f : Flight) : (c.passed e f).besidesEngines = c.besidesEngines := by
  cases h : f.op.kind with
  | matrix m =>
    by_cases hd : m.dest = 0
    · rw [passed_kept h hd]
      split
      · rfl
      · exact besides_signalOpt c _
    · rw [passed_drained h hd, besides_sillPass, besides_freeAdded]
  | ewise w => unfold Site.passed; rw [h]; exact besides_sillPass c _
  | drain d => unfold Site.passed; rw [h]
  | free b => unfold Site.passed; rw [h]

@[simp] theorem besides_giveBack (c : Site) (v : Vote) : (c.giveBack v).besidesEngines = c.besidesEngines := by
  unfold Site.giveBack
  split
  · split <;> rfl
  · rfl

theorem onlyEngines_setSite {s : State} {n : SiteNo} {c : Site} (h : c.besidesEngines = (s.site n).besidesEngines) :
    onlyEngines n s (s.setSite n c) := by
  unfold onlyEngines
  rw [State.site_setSite_same]
  exact ⟨⟨rfl, fun m hm => State.site_setSite_other s _ hm⟩, h⟩

/-! ### What they leave of the engines, the sill and the tokens -/

@[simp] theorem eng_setEntry (c : Site) (i : Nat) (v : SillEntry) (e : EngNo) : (c.setEntry i v).eng e = c.eng e := rfl
@[simp] theorem entry_modEng (c : Site) (e : EngNo) (f : Engine → Engine) (i : Nat) : (c.modEng e f).entry i = c.entry i := rfl
@[simp] theorem toks_modEng (c : Site) (e : EngNo) (f : Engine → Engine) : (c.modEng e f).toks = c.toks := rfl

@[simp] theorem eng_signalOpt (c : Site) (o : Option (BitVec 6)) (e : EngNo) : (c.signalOpt o).eng e = c.eng e := by
  cases o with
  | none => rfl
  | some k => unfold Site.signalOpt Site.signal; dsimp only; split <;> rfl

@[simp] theorem entry_signalOpt (c : Site) (o : Option (BitVec 6)) (i : Nat) : (c.signalOpt o).entry i = c.entry i := by
  cases o with
  | none => rfl
  | some k => unfold Site.signalOpt Site.signal; dsimp only; split <;> rfl

@[simp] theorem sill_signalOpt (c : Site) (o : Option (BitVec 6)) : (c.signalOpt o).sill = c.sill := by
  cases o with
  | none => rfl
  | some k => unfold Site.signalOpt Site.signal; dsimp only; split <;> rfl

theorem tok_signal (c : Site) (k : BitVec 6) (a : Nat) : (c.signal k a).tok k = satAdd (c.tok k) a := by
  unfold Site.signal
  dsimp only
  split <;> exact tget_tset_same _ _ _ _

/-- A token signalled once rises by 1, up to 65,535. -/
theorem tok_signalOpt (c : Site) (k : BitVec 6) :
    (c.signalOpt (some k)).tok k = BitVec.ofNat 16 (min 65535 ((c.tok k).toNat + 1)) := by
  refine (tok_signal c k 1).trans (BitVec.eq_of_toNat_eq ?_)
  rw [satAdd_toNat, BitVec.toNat_ofNat]
  omega

@[simp] theorem eng_sillTryFree (c : Site) (i : Nat) (e : EngNo) : (c.sillTryFree i).eng e = c.eng e := by
  unfold Site.sillTryFree
  dsimp only
  split
  · split <;> rfl
  · rfl

@[simp] theorem toks_sillTryFree (c : Site) (i : Nat) : (c.sillTryFree i).toks = c.toks := by
  unfold Site.sillTryFree
  dsimp only
  split
  · split <;> rfl
  · rfl

theorem sillTryFree_other (c : Site) {i k : Nat} (h : k ≠ i) : (c.sillTryFree i).entry k = c.entry k := by
  unfold Site.sillTryFree
  dsimp only
  split
  · split
    · exact Site.entry_setEntry_other c _ h
    · exact Site.entry_setEntry_other c _ h
  · rfl

/-- An entry that is not asked to free stays. -/
theorem sillTryFree_unasked {c : Site} {i : Nat} (h : (c.entry i).freeReq = false) : c.sillTryFree i = c :=
  if_neg fun hc => by rw [h] at hc; exact absurd hc.2 (by decide)

/-- An engine with another ENG_FLUSH. -/
def flushOnly (g g' : Engine) : Prop := ∃ w, g' = { g with flushReg := w }

theorem flushOnly.refl (g : Engine) : flushOnly g g := ⟨g.flushReg, rfl⟩

theorem takeFlush_eng (c : Site) (o : Option (EngNo × Bool × Bool × BitVec 16)) (e : EngNo) :
    flushOnly (c.eng e) ((c.takeFlush o).eng e) := by
  cases o with
  | none => exact .refl _
  | some v =>
    obtain ⟨x, sat, nan, f⟩ := v
    unfold Site.takeFlush
    by_cases h : e = x
    · subst h
      rw [Site.eng_modEng_same]
      exact ⟨_, rfl⟩
    · rw [Site.eng_modEng_other _ _ h]
      exact .refl _

@[simp] theorem entry_takeFlush (c : Site) (o : Option (EngNo × Bool × Bool × BitVec 16)) (i : Nat) :
    (c.takeFlush o).entry i = c.entry i := by
  cases o with
  | none => rfl
  | some v => rfl

@[simp] theorem toks_takeFlush (c : Site) (o : Option (EngNo × Bool × Bool × BitVec 16)) : (c.takeFlush o).toks = c.toks := by
  cases o with
  | none => rfl
  | some v => rfl

theorem sillRelease_eng (c : Site) (i : Nat) (e : EngNo) : flushOnly (c.eng e) ((c.sillRelease i).eng e) := by
  by_cases h : (c.entry i).st = .closed ∧ (c.entry i).waits = 0
  · rw [sillRelease_now h.1 h.2, eng_sillTryFree, eng_signalOpt, eng_setEntry]
    exact takeFlush_eng c _ e
  · rw [sillRelease_not h]
    exact .refl _

theorem sillRelease_other (c : Site) {i k : Nat} (hk : k ≠ i) : (c.sillRelease i).entry k = c.entry k := by
  by_cases h : (c.entry i).st = .closed ∧ (c.entry i).waits = 0
  · rw [sillRelease_now h.1 h.2, sillTryFree_other _ hk, entry_signalOpt, Site.entry_setEntry_other _ _ hk, entry_takeFlush]
  · rw [sillRelease_not h]

/-- A CLOSED entry that waits for nothing and is not asked to free is RELEASED with what it holds. -/
theorem sillRelease_entry {c : Site} {i : Nat} (h : (c.entry i).st = .closed) (hw : (c.entry i).waits = 0)
    (hf : (c.entry i).freeReq = false) :
    (c.sillRelease i).entry i = { c.entry i with st := .released, flush := none, tok := none } := by
  have hu : ((((c.takeFlush (c.entry i).flush).setEntry i
      { c.entry i with st := .released, flush := none, tok := none }).signalOpt (c.entry i).tok).entry i) =
      { c.entry i with st := .released, flush := none, tok := none } := by
    rw [entry_signalOpt, Site.entry_setEntry_same]
  rw [sillRelease_now h hw, sillTryFree_unasked (by rw [hu]; exact hf), hu]

/-- It signals its token. -/
theorem sillRelease_tok {c : Site} {i : Nat} {k : BitVec 6} (h : (c.entry i).st = .closed) (hw : (c.entry i).waits = 0)
    (hk : (c.entry i).tok = some k) :
    (c.sillRelease i).tok k = BitVec.ofNat 16 (min 65535 ((c.tok k).toNat + 1)) := by
  have ht : ((c.takeFlush (c.entry i).flush).setEntry i
      { c.entry i with st := .released, flush := none, tok := none }).tok k = c.tok k :=
    congrArg (tget (fun _ => 0) · k.toNat) (toks_takeFlush c _)
  rw [sillRelease_now h hw]
  unfold Site.tok
  rw [toks_sillTryFree]
  refine (congrArg (fun o => (Site.signalOpt _ o).tok k) hk).trans ?_
  rw [tok_signalOpt, ht]
  rfl

theorem sillPass_eng (c : Site) (i : Nat) (e : EngNo) : flushOnly (c.eng e) ((c.sillPass i).eng e) :=
  sillRelease_eng (c.setEntry i { c.entry i with waits := (c.entry i).waits - 1 }) i e

theorem sillPass_other (c : Site) {i k : Nat} (h : k ≠ i) : (c.sillPass i).entry k = c.entry k :=
  (sillRelease_other _ h).trans (Site.entry_setEntry_other c _ h)

/-- A CLOSED entry that waits for this verdict alone and is not asked to free is RELEASED with what it holds. -/
theorem sillPass_last {c : Site} {i : Nat} (h : (c.entry i).st = .closed) (hw : (c.entry i).waits = 1)
    (hf : (c.entry i).freeReq = false) :
    ((c.sillPass i).entry i).st = .released ∧ ((c.sillPass i).entry i).data = (c.entry i).data := by
  have hu := Site.entry_setEntry_same c i { c.entry i with waits := (c.entry i).waits - 1 }
  have he := sillRelease_entry (c := c.setEntry i { c.entry i with waits := (c.entry i).waits - 1 }) (i := i)
    (by rw [hu]; exact h) (by rw [hu]; exact congrArg (· - 1) hw) (by rw [hu]; exact hf)
  unfold Site.sillPass
  rw [he, hu]
  exact ⟨rfl, rfl⟩

/-! ### Closing an entry, and the holds of halves and planes -/

@[simp] theorem eng_closeEntry (c : Site) (i : Fin 64) (f : Flight) (e : EngNo) : (c.closeEntry i f).eng e = c.eng e := by
  unfold Site.closeEntry
  dsimp only
  split <;> rfl

@[simp] theorem toks_closeEntry (c : Site) (i : Fin 64) (f : Flight) : (c.closeEntry i f).toks = c.toks := by
  unfold Site.closeEntry
  dsimp only
  split <;> rfl

theorem closeEntry_other (c : Site) (i : Fin 64) (f : Flight) {k : Nat} (h : k ≠ i.val) :
    (c.closeEntry i f).entry k = c.entry k := by
  unfold Site.closeEntry
  dsimp only
  split
  · rfl
  · exact Site.entry_setEntry_other c _ h

theorem closeEntry_entry {c : Site} {i : Fin 64} (f : Flight) (h : (c.entry i.val).st ≠ .poisoned) :
    (c.closeEntry i f).entry i.val = { c.entry i.val with
      st := .closed, data := f.rows, flush := some (f.op.named, f.sat, f.nanOut, f.maxF) } := by
  unfold Site.closeEntry
  dsimp only
  rw [if_neg h, Site.entry_setEntry_same]

theorem holdHalf_single {g : Engine} (h : (g.half false).both = false) (fb : Bool) (f : Nat → Nat) :
    g.holdHalf fb f = g.setHalf fb { g.half fb with holders := f (g.half fb).holders } := by
  unfold Engine.holdHalf
  rw [h]
  rfl

theorem half_other {g : Engine} (fb : Bool) (v : Half) : (g.setHalf fb v).half (!fb) = g.half (!fb) :=
  Engine.half_setHalf_other g v (by cases fb <;> decide)

/-! ### The last row of an instruction is placed (R62, R72, R78) -/

/-- The bank of an engine takes the words an instruction leaves (Table 3.5). -/
def Engine.placeWords (g : Engine) (m : MatrixF) (words : Tab AccWord) : Engine :=
  if (g.bank m.bank).st = .poisoned then g
  else if m.dest ≠ 0 ∧ m.accumulate = false then g.setBank m.bank {}
  else if m.dest = 0 then g.setBank m.bank { g.bank m.bank with st := .held, words := words }
  else g.setBank m.bank { g.bank m.bank with words := words }

section
variable (g : Engine) (m : MatrixF) (words : Tab AccWord)

theorem placeWords_is : g.placeWords m words = { g with banks := (g.placeWords m words).banks } := by
  unfold Engine.placeWords
  split
  · rfl
  · split
    · rfl
    · split <;> rfl

theorem placeWords_other {b : Fin 4} (h : b ≠ m.bank) : (g.placeWords m words).bank b = g.bank b := by
  unfold Engine.placeWords
  split
  · rfl
  · split
    · exact Engine.bank_setBank_other _ _ h
    · split <;> exact Engine.bank_setBank_other _ _ h

theorem placeWords_poisoned (h : (g.bank m.bank).st = .poisoned) : g.placeWords m words = g := if_pos h

theorem placeWords_kept (hd : m.dest = 0) (h : (g.bank m.bank).st ≠ .poisoned) :
    (g.placeWords m words).bank m.bank = { g.bank m.bank with st := .held, words := words } := by
  unfold Engine.placeWords
  rw [if_neg h, if_neg (fun h => h.1 hd), if_pos hd, Engine.bank_setBank_same]

theorem placeWords_drained (hd : m.dest ≠ 0) (ha : m.accumulate = false) (h : (g.bank m.bank).st ≠ .poisoned) :
    (g.placeWords m words).bank m.bank = {} := by
  unfold Engine.placeWords
  rw [if_neg h, if_pos ⟨hd, ha⟩, Engine.bank_setBank_same]

end

/-- An engine whose array a placed instruction has left, to wait for its verdict. -/
def Engine.awaits (g : Engine) (f : Flight) : Engine := { g.leave f with waiting := g.waiting ++ [f] }

section
variable (c : Site) (e : EngNo) (f : Flight) (m : MatrixF)

theorem place_is : c.place e f m =
    if m.dest = 0 then c.modEng e fun g => (g.awaits (f.drained m (c.wordsOf e f m))).placeWords m (c.wordsOf e f m)
    else (c.modEng e fun g => (g.awaits (f.drained m (c.wordsOf e f m))).placeWords m (c.wordsOf e f m)).closeEntry m.sill
      (f.drained m (c.wordsOf e f m)) := rfl

theorem besides_place : (c.place e f m).besidesEngines = c.besidesEngines := by
  rw [place_is]
  split
  · rfl
  · exact besides_closeEntry _ _ _

theorem place_eng : (c.place e f m).eng e =
    ((c.eng e).awaits (f.drained m (c.wordsOf e f m))).placeWords m (c.wordsOf e f m) := by
  rw [place_is]
  split
  · exact Site.eng_modEng_same _ _ _
  · rw [eng_closeEntry, Site.eng_modEng_same]

theorem place_other {x : EngNo} (h : x ≠ e) : (c.place e f m).eng x = c.eng x := by
  rw [place_is]
  split
  · exact Site.eng_modEng_other _ _ h
  · rw [eng_closeEntry, Site.eng_modEng_other _ _ h]

theorem place_sill (h : m.dest = 0) : (c.place e f m).sill = c.sill := by
  rw [place_is, if_pos h]
  rfl

theorem place_entries (h : m.dest ≠ 0) {k : Nat} (hk : k ≠ m.sill.val) : (c.place e f m).entry k = c.entry k := by
  rw [place_is, if_neg h]
  exact closeEntry_other _ _ _ hk

theorem place_entry (h : m.dest ≠ 0) (hp : (c.entry m.sill.val).st ≠ .poisoned) :
    ((c.place e f m).entry m.sill.val).st = .closed ∧
      ((c.place e f m).entry m.sill.val).data = (f.drained m (c.wordsOf e f m)).rows := by
  have he := closeEntry_entry (c := c.modEng e fun g =>
    (g.awaits (f.drained m (c.wordsOf e f m))).placeWords m (c.wordsOf e f m)) (f.drained m (c.wordsOf e f m)) hp
  rw [place_is, if_neg h, he]
  exact ⟨rfl, rfl⟩

end

@[simp] theorem drained_op (f : Flight) (m : MatrixF) (w : Tab AccWord) : (f.drained m w).op = f.op := by
  unfold Flight.drained
  split <;> rfl

@[simp] theorem drained_len (f : Flight) (m : MatrixF) (w : Tab AccWord) : (f.drained m w).len = f.len := by
  unfold Flight.drained
  split <;> rfl

section
variable {s : State} {n : SiteNo} {e : EngNo} {f : Flight} {m : MatrixF}

theorem lastPlacement_places (hc : s.clocked n = true) (hf : ((s.site n).eng e).inArray = some f)
    (hv : (s.site n).passOf e = none) (hk : f.op.kind = .matrix m) (obs : PassObs) :
    exec (.matrixLastPlacement n e obs) s =
      .next (if obs.parityOk then s.setSite n ((s.site n).place e (f.faulted obs.bad) m)
        else (s.setSite n ((s.site n).place e (f.faulted obs.bad) m)).parityPoison n e f) := by
  change execMatrixLastPlacement _ _ _ _ = _
  unfold execMatrixLastPlacement
  simp only [hc, hf, hv, hk, Bool.true_eq_false, if_false]

/-- What an instruction placed without a parity failure leaves of its engine. -/
theorem placed_engine (bad : List BadWord) :
    let g := (s.site n).eng e
    let c' := (s.site n).place e (f.faulted bad) m
    let q := f.faulted bad
    let words := if m.accumulate then addWords (g.bank m.bank).words q.contrib else q.contrib
    (c'.eng e).inArray = none ∧ (c'.eng e).busyCount = g.busyCount + BitVec.ofNat 64 (f.len + 512) ∧
      (c'.eng e).waiting = g.waiting ++ [q.drained m words] ∧
      (∀ b, b ≠ m.bank → (c'.eng e).bank b = g.bank b) ∧
      ((g.bank m.bank).st = .poisoned → (c'.eng e).bank m.bank = g.bank m.bank) ∧
      (m.dest = 0 → (g.bank m.bank).st ≠ .poisoned →
        (c'.eng e).bank m.bank = { g.bank m.bank with st := .held, words := words }) ∧
      (m.dest ≠ 0 → m.accumulate = false → (g.bank m.bank).st ≠ .poisoned → (c'.eng e).bank m.bank = {}) := by
  dsimp only
  rw [place_eng]
  refine ⟨?_, ?_, ?_, fun b hb => placeWords_other _ _ _ hb, fun h => ?_, fun hd h => placeWords_kept _ _ _ hd h,
    fun hd ha h => placeWords_drained _ _ _ hd ha h⟩
  · rw [placeWords_is]
    rfl
  · rw [placeWords_is]
    unfold Engine.awaits Engine.leave
    dsimp only
    rw [drained_len]
    rfl
  · rw [placeWords_is]
    rfl
  · exact (congrArg (Engine.bank · m.bank) (placeWords_poisoned
      (((s.site n).eng e).awaits ((f.faulted bad).drained m ((s.site n).wordsOf e (f.faulted bad) m))) m _ h)).trans rfl

end

/-! ### What an instruction writes is poisoned (R185) -/

section
variable (c : Site) (e : EngNo) (f : Flight)

/-- The entry an instruction drains to becomes POISONED. -/
def Site.poisonSink : Site := match f.entryOf with | some i => c.poisonEntry i.val | none => c

theorem poisonResult_is : c.poisonResult e f =
    match f.bankOf with | some b => (c.poisonSink f).poisonBank e b | none => c.poisonSink f := rfl

@[simp] theorem poisonSink_eng (x : EngNo) : (c.poisonSink f).eng x = c.eng x := by
  unfold Site.poisonSink
  split <;> rfl

@[simp] theorem besides_poisonSink : (c.poisonSink f).besidesEngines = c.besidesEngines := by
  unfold Site.poisonSink
  split <;> rfl

theorem besides_poisonResult : (c.poisonResult e f).besidesEngines = c.besidesEngines := by
  rw [poisonResult_is]
  split
  · rw [besides_poisonBank, besides_poisonSink]
  · exact besides_poisonSink c f

theorem poisonBank_eng (b : Fin 4) : (c.poisonBank e b).eng e = (c.eng e).setBank b { (c.eng e).bank b with st := .poisoned } :=
  Site.eng_modEng_same _ _ _

theorem poisonResult_bank {b : Fin 4} (h : f.bankOf = some b) : (((c.poisonResult e f).eng e).bank b).st = .poisoned := by
  rw [poisonResult_is, h]
  dsimp only
  rw [poisonBank_eng, Engine.bank_setBank_same]

theorem poisonResult_entry {i : Fin 64} (h : f.entryOf = some i) : ((c.poisonResult e f).entry i.val).st = .poisoned := by
  have hs : ((c.poisonSink f).entry i.val).st = .poisoned := by
    unfold Site.poisonSink Site.poisonEntry
    rw [h]
    dsimp only
    rw [Site.entry_setEntry_same]
  rw [poisonResult_is]
  split <;> exact hs

theorem poisonResult_work : ((c.poisonResult e f).eng e).inArray = (c.eng e).inArray ∧
    ((c.poisonResult e f).eng e).waiting = (c.eng e).waiting := by
  rw [poisonResult_is]
  split
  · rw [poisonBank_eng, poisonSink_eng]
    exact ⟨rfl, rfl⟩
  · rw [poisonSink_eng]
    exact ⟨rfl, rfl⟩

end

section
variable {s : State} {n : SiteNo} {e : EngNo} {f : Flight} {m : MatrixF}

theorem parityPoison_site (u : State) : (u.parityPoison n e f).site n = (u.site n).poisonResult e f :=
  State.site_modSite_same u n fun c => c.poisonResult e f

/-- What the record and the report of a parity failure leave alone and hold. -/
theorem parityPoison_log (u : State) :
    let t := u.parityPoison n e f
    t = { u with sites := t.sites, flt := t.flt, jrnl := t.jrnl } ∧ (∀ k, k ≠ n → t.site k = u.site k) ∧
      (∃ r ∈ t.flt.buf, r.cls = 0x0006 ∧ r.engine = BitVec.ofNat 2 e.val) ∧
      ∃ r ∈ t.flt.reports, r.2.cls = 0x0006 ∧ r.2.site = some n := by
  have ho (k : SiteNo) (h : k ≠ n) : (u.modSite n fun c => c.poisonResult e f).site k = u.site k :=
    State.site_modSite_other u _ h
  unfold State.parityPoison State.engReport
  obtain ⟨q, hq, hcls, -, -, heng⟩ := record_has (u.modSite n fun c => c.poisonResult e f)
    ((u.modSite n fun c => c.poisonResult e f).engRec n e 0x0006 0 0)
  obtain ⟨r, hr, hrc, hrs, -⟩ := tell_has ((u.modSite n fun c => c.poisonResult e f).record
    ((u.modSite n fun c => c.poisonResult e f).engRec n e 0x0006 0 0)) 0x0006 (some n) 0 0
  exact ⟨rfl, ho, ⟨q, hq, hcls, heng⟩, r, hr, hrc, hrs⟩

theorem entryOf_matrix (h : f.op.kind = .matrix m) (hd : m.dest ≠ 0) : f.entryOf = some m.sill := by
  unfold Flight.entryOf
  rw [h]
  exact if_neg hd

/-- A matrix instruction placed with a parity failure: what it writes is POISONED. -/
theorem parityPlaced_spec (hk : f.op.kind = .matrix m) (bad : List BadWord) :
    let t := (s.setSite n ((s.site n).place e (f.faulted bad) m)).parityPoison n e f
    t = { s with sites := t.sites, flt := t.flt, jrnl := t.jrnl } ∧ (∀ k, k ≠ n → t.site k = s.site k) ∧
      ((t.site n).eng e).inArray = none ∧ ((t.site n).eng e).waiting.length = ((s.site n).eng e).waiting.length + 1 ∧
      (f.bankOf = some m.bank → (((t.site n).eng e).bank m.bank).st = .poisoned) ∧
      (m.dest ≠ 0 → ((t.site n).entry m.sill.val).st = .poisoned) ∧
      (∃ r ∈ t.flt.buf, r.cls = 0x0006 ∧ r.engine = BitVec.ofNat 2 e.val) ∧
      ∃ r ∈ t.flt.reports, r.2.cls = 0x0006 ∧ r.2.site = some n := by
  have hsite := parityPoison_site (n := n) (e := e) (f := f) (s.setSite n ((s.site n).place e (f.faulted bad) m))
  rw [State.site_setSite_same] at hsite
  obtain ⟨hfr, hs, hrec, hrep⟩ := parityPoison_log (n := n) (e := e) (f := f) (s.setSite n ((s.site n).place e (f.faulted bad) m))
  obtain ⟨hin, -, hw, -⟩ := placed_engine (s := s) (n := n) (e := e) (f := f) (m := m) bad
  obtain ⟨hia, hwa⟩ := poisonResult_work ((s.site n).place e (f.faulted bad) m) e f
  dsimp only at hfr hs hrec hrep ⊢
  rw [hsite]
  refine ⟨hfr.trans rfl, fun k h => (hs k h).trans (State.site_setSite_other s _ h), hia.trans hin, ?_,
    poisonResult_bank _ e f, fun hd => poisonResult_entry _ e f (entryOf_matrix hk hd), hrec, hrep⟩
  rw [hwa, hw, List.length_append]
  rfl

end

/-! ### The last result of an EWISE (R78, R181) -/

/-- An EWISE's flight with the results it gave. -/
def Site.ewiseResults (c : Site) (e : EngNo) (f : Flight) (w : EwiseF) : Flight :=
  { f with rows := ewiseRows ((c.eng e).tile w.fb) w f.op.m [] }

/-- A site in which an EWISE that agrees has left the array and its entry is closed. -/
def Site.ewiseClosed (c : Site) (e : EngNo) (f : Flight) (w : EwiseF) : Site :=
  (c.modEng e fun g => g.leave (c.ewiseResults e f w)).closeEntry w.sill (c.ewiseResults e f w)

section
variable {s : State} {n : SiteNo} {e : EngNo} {f : Flight} {w : EwiseF}

theorem ewiseLastResult_agrees (hc : s.clocked n = true) (hf : ((s.site n).eng e).inArray = some f)
    (hv : (s.site n).passOf e = none) (hk : f.op.kind = .ewise w) :
    exec (.ewiseLastResult n e { misses := [], parityOk := true }) s =
      .next ((s.setSite n ((s.site n).ewiseClosed e f w)).modSite n fun c =>
        (c.unhold e ((s.site n).ewiseResults e f w)).passed e ((s.site n).ewiseResults e f w)) := by
  change execEwiseLastResult _ _ _ _ = _
  unfold execEwiseLastResult
  simp only [hc, hf, hv, hk, Bool.true_eq_false, if_false]
  rfl

theorem modSite_setSite (s : State) (n : SiteNo) (c : Site) (f : Site → Site) :
    ∀ m, ((s.setSite n c).modSite n f).site m = (s.setSite n (f c)).site m := fun m => by
  by_cases h : m = n
  · subst h
    rw [State.site_modSite_same, State.site_setSite_same, State.site_setSite_same]
  · rw [State.site_modSite_other _ _ h, State.site_setSite_other _ _ h, State.site_setSite_other _ _ h]

/-- The work of engines, sill and tokens done in two steps. -/
theorem onlyEngines_twice {c : Site} {f : Site → Site} (hc : c.besidesEngines = (s.site n).besidesEngines)
    (hf : (f c).besidesEngines = c.besidesEngines) : onlyEngines n s ((s.setSite n c).modSite n f) := by
  refine ⟨⟨rfl, fun m h => ?_⟩, ?_⟩
  · rw [modSite_setSite, State.site_setSite_other _ _ h]
  · rw [modSite_setSite, State.site_setSite_same, hf, hc]

theorem passed_ewise {c : Site} (hk : f.op.kind = .ewise w) : c.passed e f = c.sillPass w.sill.val := by
  unfold Site.passed
  rw [hk]

theorem unhold_ewise {c : Site} (hk : f.op.kind = .ewise w) :
    c.unhold e f = c.modEng e fun g => g.holdHalf w.fb (· - 1) := by
  unfold Site.unhold
  rw [hk]

theorem ewiseClosed_eng (c : Site) : (c.ewiseClosed e f w).eng e = (c.eng e).leave (c.ewiseResults e f w) := by
  unfold Site.ewiseClosed
  rw [eng_closeEntry, Site.eng_modEng_same]

@[simp] theorem besides_ewiseClosed (c : Site) : (c.ewiseClosed e f w).besidesEngines = c.besidesEngines :=
  besides_closeEntry _ _ _

/-- The engine of an EWISE whose two results agree: its array is empty and its half has one holder less. -/
theorem ewiseReleased_engine (c : Site) (hk : f.op.kind = .ewise w) (hb : ((c.eng e).half false).both = false) :
    let g := c.eng e
    let g' := (((c.ewiseClosed e f w).unhold e (c.ewiseResults e f w)).passed e (c.ewiseResults e f w)).eng e
    g'.inArray = none ∧ g'.banks = g.banks ∧ (g'.half w.fb).holders = (g.half w.fb).holders - 1 ∧
      g'.half (!w.fb) = g.half (!w.fb) := by
  have hq : (c.ewiseResults e f w).op.kind = .ewise w := hk
  have hg : ((c.ewiseClosed e f w).unhold e (c.ewiseResults e f w)).eng e =
      ((c.eng e).leave (c.ewiseResults e f w)).setHalf w.fb
        { (c.eng e).half w.fb with holders := ((c.eng e).half w.fb).holders - 1 } := by
    rw [unhold_ewise hq, Site.eng_modEng_same, ewiseClosed_eng, holdHalf_single]
    · rfl
    · exact hb
  obtain ⟨x, hx⟩ := sillPass_eng ((c.ewiseClosed e f w).unhold e (c.ewiseResults e f w)) w.sill.val e
  dsimp only
  rw [passed_ewise hq, hx, hg]
  exact ⟨rfl, rfl, congrArg Half.holders (Engine.half_setHalf_same _ _ _), half_other _ _⟩

theorem ewiseReleased_empty (c : Site) (hk : f.op.kind = .ewise w) :
    ((((c.ewiseClosed e f w).unhold e (c.ewiseResults e f w)).passed e (c.ewiseResults e f w)).eng e).inArray = none := by
  have hq : (c.ewiseResults e f w).op.kind = .ewise w := hk
  obtain ⟨x, hx⟩ := sillPass_eng ((c.ewiseClosed e f w).unhold e (c.ewiseResults e f w)) w.sill.val e
  rw [passed_ewise hq, hx, unhold_ewise hq, Site.eng_modEng_same, ewiseClosed_eng]
  unfold Engine.holdHalf
  dsimp only
  split <;> rfl

theorem ewiseReleased_entries (c : Site) (hk : f.op.kind = .ewise w) {k : Nat} (h : k ≠ w.sill.val) :
    (((c.ewiseClosed e f w).unhold e (c.ewiseResults e f w)).passed e (c.ewiseResults e f w)).entry k = c.entry k := by
  have hq : (c.ewiseResults e f w).op.kind = .ewise w := hk
  rw [passed_ewise hq, sillPass_other _ h, unhold_ewise hq]
  exact closeEntry_other _ _ _ h

/-- An entry that waited for the EWISE alone is RELEASED with its bytes. -/
theorem ewiseReleased_entry (c : Site) (hk : f.op.kind = .ewise w) (h : (c.entry w.sill.val).st ≠ .poisoned)
    (hw : (c.entry w.sill.val).waits = 1) (hr : (c.entry w.sill.val).freeReq = false) :
    let v := (((c.ewiseClosed e f w).unhold e (c.ewiseResults e f w)).passed e (c.ewiseResults e f w)).entry w.sill.val
    v.st = .released ∧ v.data = ewiseRows ((c.eng e).tile w.fb) w f.op.m [] := by
  have hq : (c.ewiseResults e f w).op.kind = .ewise w := hk
  have hu : ((c.ewiseClosed e f w).unhold e (c.ewiseResults e f w)).entry w.sill.val =
      (c.ewiseClosed e f w).entry w.sill.val := by rw [unhold_ewise hq]; rfl
  have hc := hu.trans
    (closeEntry_entry (c := c.modEng e fun g => g.leave (c.ewiseResults e f w)) (c.ewiseResults e f w) h)
  obtain ⟨hst, hd⟩ := sillPass_last (c := (c.ewiseClosed e f w).unhold e (c.ewiseResults e f w)) (i := w.sill.val)
    (by rw [hc]) (by rw [hc]; exact hw) (by rw [hc]; exact hr)
  dsimp only
  rw [passed_ewise hq]
  refine ⟨hst, hd.trans ?_⟩
  rw [hc]
  rfl

end

/-- Settles O24, placement by placement: the engine, its bank and the sill entry after the last row. -/
theorem lastPlacements : Obligations.LastPlacements := by
  unfold Obligations.LastPlacements
  refine ⟨fun s n e f m bad hc hf hv hk => ⟨_, lastPlacement_places hc hf hv hk _, ?_⟩,
    fun s n e f m bad hc hf hv hk => ⟨_, lastPlacement_places hc hf hv hk _, parityPlaced_spec hk bad⟩,
    fun s n e f w hc hf hv hk hb => ⟨_, ewiseLastResult_agrees hc hf hv hk, ?_⟩,
    fun s n e f w hc hf hv hk hw hr hp => ⟨_, ewiseLastResult_agrees hc hf hv hk, ?_⟩⟩
  · rw [if_pos rfl]
    refine ⟨onlyEngines_setSite (besides_place _ _ _ _), ?_⟩
    rw [State.site_setSite_same]
    obtain ⟨hin, hbusy, hwait, hother, hpois, hkept, hdrained⟩ := placed_engine (s := s) (n := n) (e := e) (f := f) (m := m) bad
    refine ⟨fun x hx => place_other _ _ _ _ hx, hin, hbusy, hwait, hother, hpois, fun hd => ⟨place_sill _ _ _ _ hd, fun hst => ?_⟩,
      fun hd => ⟨fun k hk => place_entries _ _ _ _ hd hk, fun hst => place_entry _ _ _ _ hd hst, hdrained hd⟩⟩
    dsimp only at hkept
    rw [hkept hd hst]
    exact ⟨rfl, rfl, rfl⟩
  · refine ⟨onlyEngines_twice (besides_ewiseClosed _) (by rw [besides_passed, besides_unhold]), ?_⟩
    rw [modSite_setSite, State.site_setSite_same]
    obtain ⟨hin, hbanks, hhold, hhalf⟩ := ewiseReleased_engine (s.site n) hk hb
    exact ⟨hin, hbanks, hhold, hhalf, fun k hk' => ewiseReleased_entries _ hk hk'⟩
  · dsimp only
    rw [modSite_setSite, State.site_setSite_same]
    obtain ⟨hst, hd⟩ := ewiseReleased_entry (s.site n) hk hp hw hr
    exact ⟨hst, hd, ewiseReleased_empty _ hk⟩

/-! ### Quarantine (R177, R180) -/

@[simp] theorem besides_dropPass (c : Site) (v : Vote) : (c.dropPass v).besidesEngines = c.besidesEngines := by
  unfold Site.dropPass
  split <;> rfl

@[simp] theorem besides_poisonPending (c : Site) (e : EngNo) : (c.poisonPending e).besidesEngines = c.besidesEngines :=
  foldl_keeps Site.besidesEngines _ (fun c b => besides_poisonBank c e b) _ c

/-- The record of a vote that was unresolved already. -/
def State.recordOther (s : State) (n : SiteNo) (v : Vote) : State :=
  match (s.site n).vote with
  | some w => if w.flight = v.flight then s else s.record (s.voteRecord n w 3 none)
  | none => s

/-- A core that is not idle is stopped. -/
theorem stop_stops {c : Site} (h : c.seq ≠ .idle) : c.stop.seq = .stopped := by
  unfold Site.stop
  rw [if_neg h]

section
variable (s : State) (n : SiteNo) (v : Vote) (o : Option CheckObs)

theorem recordOther_frame : onlyLog s (s.recordOther n v) := by
  unfold State.recordOther
  split
  · split <;> rfl
  · rfl

/-- The states through which a quarantine goes: the core is condemned, a record is produced and the fault manager told. -/
theorem quarantine_goes : ∃ (u : State) (f : Site → Site), onlyLog s u ∧ (∀ c, (f c).quarantined = true ∧ (f c).vote = none ∧
      (c.seq ≠ .idle → (f c).seq = .stopped)) ∧
    s.quarantine n v o = ((u.modSite n f).record (u.voteRecord n v 3 o)).tell (voteClass v) (some n) 3 0 := by
  unfold State.quarantine
  extract_lets u r poison w
  have hp (c : Site) (f : Flight) : (poison c f).besidesEngines = c.besidesEngines := by
    unfold poison
    split <;> rfl
  have hu : onlyLog s u := recordOther_frame s n v
  clear_value poison
  refine ⟨u, _, hu, fun c => ?_, rfl⟩
  extract_lets c1 c2 c3 c4 c5
  have h1 : c1.besidesEngines = c.besidesEngines := hp c _
  have h2 : c2.besidesEngines = c.besidesEngines := by
    unfold c2
    split
    · rw [besides_poisonBank, h1]
    · exact h1
  have h3 : c3.besidesEngines = c.besidesEngines := by
    unfold c3
    split
    · rw [hp, h2]
    · exact h2
  have h4 : c4.besidesEngines = c.besidesEngines := (foldl_keeps Site.besidesEngines _ besides_poisonPending _ _).trans h3
  have h5 : c5.besidesEngines = c.besidesEngines := by
    unfold c5
    split
    · rw [besides_giveBack, besides_dropPass, h4]
    · exact h4
  clear_value c5
  have hs := congrArg Site.seq h5
  change c5.seq = c.seq at hs
  exact ⟨rfl, rfl, fun h => stop_stops (by rw [hs]; exact h)⟩

/-- The record of a vote has the outcome and the site given. -/
theorem voteRecord_is (k : BitVec 8) : (s.voteRecord n v k o).outcome = k ∧
    (s.voteRecord n v k o).site = BitVec.ofNat 8 n.val := by
  unfold State.voteRecord
  extract_lets c cls r0 r1 rows cols r2 r3
  have h3 : r3.outcome = k ∧ r3.site = BitVec.ofNat 8 n.val := by
    unfold r3
    split <;> exact ⟨rfl, rfl⟩
  clear_value r3
  split
  · exact h3
  · extract_lets r4
    have h4 : r4.outcome = k ∧ r4.site = BitVec.ofNat 8 n.val := by
      unfold r4
      split <;> exact h3
    clear_value r4
    split <;> exact h4

/-- A quarantine changes its site, records and tells: the core is quarantined, no vote is left. -/
theorem quarantine_spec :
    let t := s.quarantine n v o
    siteAndLog n s t ∧ (t.site n).quarantined = true ∧ ((s.site n).seq ≠ .idle → (t.site n).seq = .stopped) ∧
      (t.site n).vote = none ∧ (∃ r ∈ t.flt.buf, r.outcome = 3 ∧ r.site = BitVec.ofNat 8 n.val) ∧
      ∃ r ∈ t.flt.reports, r.2.site = some n ∧ r.2.detail = 3 := by
  obtain ⟨u, f, hlog, hf, he⟩ := quarantine_goes s n v o
  have hsite (m : SiteNo) : u.site m = s.site m := by
    unfold State.site
    rw [hlog]
  have hseq := congrArg Site.seq (hsite n)
  obtain ⟨hvo, hvs⟩ := voteRecord_is u n v o 3
  obtain ⟨hq, hv, hst⟩ := hf (u.site n)
  obtain ⟨hfr, hso⟩ := onlySite_modSite u n f
  have hw := State.site_modSite_same u n f
  rw [he]
  rw [← hw] at hq hv hst
  generalize u.modSite n f = w at *
  generalize u.voteRecord n v 3 o = r at *
  obtain ⟨q, hqm, -, hout, hqs, -⟩ := record_has w r
  obtain ⟨p, hp, -, hps, hpd⟩ := tell_has (w.record r) (voteClass v) (some n) 3 0
  refine ⟨⟨?_, fun m h => (hso m h).trans (hsite m)⟩, hq, fun h => hst (by rw [hseq]; exact h), hv,
    ⟨q, hqm, hout.trans hvo, hqs.trans hvs⟩, p, hp, hps, hpd⟩
  rw [hfr, hlog]
  rfl

end

/-! ### The verdict of the oldest placed instruction (R172, R176) -/

theorem bufferFixed_none {used : Bool} {o : VerdictObs} (h : used = false ∨ o.bufferEcc = .clean) (s : State) (n : SiteNo) :
    s.bufferFixed n used o = s := by
  unfold State.bufferFixed
  rcases h with h | h
  · rw [h]; rfl
  · rw [h, Bool.and_comm]; rfl

theorem lostNot {used : Bool} {o : VerdictObs} (h : used = false ∨ o.bufferEcc ≠ .uncorrectable) :
    (used && decide (o.bufferEcc = .uncorrectable)) = false := by
  rcases h with h | h
  · rw [h]; rfl
  · rw [decide_eq_false h, Bool.and_false]

/-- A site whose engine awaits verdicts only for the instructions q. -/
def Site.awaiting (c : Site) (e : EngNo) (q : List Flight) : Site := c.modEng e fun g => { g with waiting := q }

/-- The holds of a matrix instruction on its half and plane end. -/
def Engine.release (g : Engine) (f : Flight) (m : MatrixF) : Engine :=
  (g.holdHalf m.fb (· - 1)).holdPlane f.plane (· - 1)

theorem unhold_matrix {c : Site} {e : EngNo} {f : Flight} {m : MatrixF} (h : f.op.kind = .matrix m) :
    c.unhold e f = c.modEng e (·.release f m) := by
  unfold Site.unhold
  rw [h]
  rfl

theorem holdHalf_is (g : Engine) (fb : Bool) (f : Nat → Nat) : g.holdHalf fb f = { g with halves := (g.holdHalf fb f).halves } := by
  unfold Engine.holdHalf
  dsimp only
  split <;> rfl

theorem release_is (g : Engine) (f : Flight) (m : MatrixF) :
    g.release f m = { g with halves := (g.release f m).halves, planes := (g.release f m).planes } := by
  unfold Engine.release Engine.holdPlane
  rw [holdHalf_is]
  rfl

theorem release_plane (g : Engine) (f : Flight) (m : MatrixF) :
    ((g.release f m).plane f.plane).holders = (g.plane f.plane).holders - 1 := by
  unfold Engine.release Engine.holdPlane
  rw [Engine.plane_setPlane_same, holdHalf_is]
  rfl

theorem release_half {g : Engine} (h : (g.half false).both = false) (f : Flight) (m : MatrixF) :
    ((g.release f m).half m.fb).holders = (g.half m.fb).holders - 1 := by
  have hh := Engine.half_setHalf_same g m.fb { g.half m.fb with holders := (g.half m.fb).holders - 1 }
  unfold Engine.release
  rw [holdHalf_single h]
  exact congrArg Half.holders hh

section
variable {s : State} {n : SiteNo} {e : EngNo} {f : Flight} {q : List Flight} {o : VerdictObs} {m : MatrixF}

/-- The site once the oldest instruction's verdict has passed. -/
def Site.verdictPassed (c : Site) (e : EngNo) (f : Flight) (q : List Flight) : Site :=
  ((c.awaiting e q).unhold e f).passed e f

theorem verdict_passes (hc : s.clocked n = true) (hw : ((s.site n).eng e).waiting = f :: q) (hp : (f.check o).pass = true)
    (hb : f.usesCb = false ∨ o.bufferEcc = .clean) : exec (.verdict n e o) s =
      .next ((s.setSite n ((s.site n).awaiting e q)).modSite n fun c => (c.unhold e f).passed e f) := by
  have hl : (f.usesCb && decide (o.bufferEcc = .uncorrectable)) = false := lostNot (hb.imp_right fun h => by rw [h]; decide)
  change execVerdict _ _ _ _ = _
  unfold execVerdict
  simp only [hc, hw, hp, hl, bufferFixed_none hb, Bool.true_eq_false, if_false, if_true]
  rfl

theorem freeAdded_eng (c : Site) : (c.freeAdded e f m).eng e =
    if m.accumulate ∧ m.dest ≠ 0 ∧ f.cancelled = false ∧ ((c.eng e).bank m.bank).st = .filling
    then (c.eng e).setBank m.bank {} else c.eng e := by
  unfold Site.freeAdded
  split
  · exact Site.eng_modEng_same _ _ _
  · rfl

theorem freeAdded_entry (c : Site) (i : Nat) : (c.freeAdded e f m).entry i = c.entry i := by
  unfold Site.freeAdded
  split <;> rfl

/-- What a passed instruction leaves of its engine: its bank, and its ENG_FLUSH, may differ. -/
theorem passed_engine (c : Site) (h : f.op.kind = .matrix m) :
    ∃ w, (c.passed e f).eng e = { c.eng e with banks := ((c.passed e f).eng e).banks, flushReg := w } ∧
      ∀ b, b ≠ m.bank → ((c.passed e f).eng e).bank b = (c.eng e).bank b := by
  by_cases hd : m.dest = 0
  · have he : (c.passed e f).eng e = c.eng e := by
      rw [passed_kept h hd]
      split
      · rfl
      · exact eng_signalOpt _ _ _
    exact ⟨_, by rw [he], fun b _ => by rw [he]⟩
  · obtain ⟨w, hw⟩ := sillPass_eng (c.freeAdded e f m) m.sill.val e
    rw [passed_drained h hd, hw, freeAdded_eng]
    split
    · exact ⟨w, rfl, fun b hb => Engine.bank_setBank_other (c.eng e) {} hb⟩
    · exact ⟨w, rfl, fun b _ => rfl⟩

/-- OUT += with a drain leaves its FILLING bank FREE. -/
theorem passed_freed (c : Site) (h : f.op.kind = .matrix m) (hd : m.dest ≠ 0) (ha : m.accumulate = true)
    (hf : f.cancelled = false) (hb : ((c.eng e).bank m.bank).st = .filling) : ((c.passed e f).eng e).bank m.bank = {} := by
  obtain ⟨w, hw⟩ := sillPass_eng (c.freeAdded e f m) m.sill.val e
  rw [passed_drained h hd, hw, freeAdded_eng, if_pos ⟨ha, hd, hf, hb⟩]
  exact Engine.bank_setBank_same (c.eng e) m.bank {}

/-- An instruction that keeps its bank leaves engine and sill, and signals its token unless its result is POISONED. -/
theorem passed_keeps (c : Site) (h : f.op.kind = .matrix m) (hd : m.dest = 0) :
    ((c.passed e f).eng e) = c.eng e ∧ (c.passed e f).sill = c.sill ∧
      (m.tokEn = true → f.cancelled = true ∨ ((c.eng e).bank m.bank).st ≠ .poisoned →
        (c.passed e f).tok m.tok = BitVec.ofNat 16 (min 65535 ((c.tok m.tok).toNat + 1))) ∧
      (f.cancelled = false → ((c.eng e).bank m.bank).st = .poisoned → (c.passed e f).toks = c.toks) ∧
      (m.tokEn = false → (c.passed e f).toks = c.toks) := by
  rw [passed_kept h hd]
  refine ⟨?_, ?_, fun ht hp => ?_, fun hf hp => ?_, fun ht => ?_⟩
  · split
    · rfl
    · exact eng_signalOpt _ _ _
  · split
    · rfl
    · exact sill_signalOpt _ _
  · rw [if_neg fun hn => hp.elim (fun k => by rw [k] at hn; exact absurd hn.1 (by decide)) fun k => k hn.2]
    unfold tokOf
    rw [if_pos ht]
    exact tok_signalOpt c _
  · rw [if_pos ⟨hf, hp⟩]
  · unfold tokOf
    rw [ht]
    split <;> rfl

/-- The engine with its oldest instruction's holds ended. -/
theorem released_eng (c : Site) (h : f.op.kind = .matrix m) :
    ((c.awaiting e q).unhold e f).eng e = ({ c.eng e with waiting := q } : Engine).release f m := by
  unfold Site.awaiting
  rw [unhold_matrix h, Site.eng_modEng_same, Site.eng_modEng_same]

theorem released_entry (c : Site) (h : f.op.kind = .matrix m) (i : Nat) :
    ((c.awaiting e q).unhold e f).entry i = c.entry i := by
  rw [unhold_matrix h]
  rfl

theorem released_toks (c : Site) (h : f.op.kind = .matrix m) : ((c.awaiting e q).unhold e f).toks = c.toks := by
  rw [unhold_matrix h]
  rfl

theorem released_sill (c : Site) (h : f.op.kind = .matrix m) : ((c.awaiting e q).unhold e f).sill = c.sill := by
  rw [unhold_matrix h]
  rfl

theorem released_bank (c : Site) (h : f.op.kind = .matrix m) (b : Fin 4) :
    (((c.awaiting e q).unhold e f).eng e).bank b = (c.eng e).bank b := by
  rw [released_eng c h, release_is]
  rfl

/-- The queue of verdicts, the plane and the half after a passed verdict. -/
theorem verdictPassed_engine (c : Site) (h : f.op.kind = .matrix m) (hb : ((c.eng e).half false).both = false) :
    let g' := (((c.awaiting e q).unhold e f).passed e f).eng e
    g'.waiting = q ∧ (g'.plane f.plane).holders = ((c.eng e).plane f.plane).holders - 1 ∧
      (g'.half m.fb).holders = ((c.eng e).half m.fb).holders - 1 ∧
      ∀ b, b ≠ m.bank → g'.bank b = (c.eng e).bank b := by
  obtain ⟨w, hw, ho⟩ := passed_engine (e := e) ((c.awaiting e q).unhold e f) h
  dsimp only
  refine ⟨?_, ?_, ?_, fun b hbm => (ho b hbm).trans (released_bank c h b)⟩
  · rw [hw, released_eng c h, release_is]
  · rw [hw, released_eng c h]
    exact release_plane _ f m
  · rw [hw, released_eng c h]
    exact release_half (g := { c.eng e with waiting := q }) hb f m

/-- A drain's entry that waits for this verdict alone is RELEASED. -/
theorem verdictPassed_entry (c : Site) (h : f.op.kind = .matrix m) (hd : m.dest ≠ 0) (hs : (c.entry m.sill.val).st = .closed)
    (hw : (c.entry m.sill.val).waits = 1) (hf : (c.entry m.sill.val).freeReq = false) :
    ((((c.awaiting e q).unhold e f).passed e f).entry m.sill.val).st = .released := by
  have he : (((c.awaiting e q).unhold e f).freeAdded e f m).entry m.sill.val = c.entry m.sill.val :=
    (freeAdded_entry _ _).trans (released_entry c h _)
  rw [passed_drained h hd]
  exact (sillPass_last (by rw [he]; exact hs) (by rw [he]; exact hw) (by rw [he]; exact hf)).1

/-! ### A failed verdict -/

/-- A site whose engine's oldest instruction has a failed verdict. -/
def Site.disagreed (c : Site) (e : EngNo) (q : List Flight) : Site :=
  (c.awaiting e q).modEng e fun g => { g with disagree := satInc g.disagree }

/-- The vote that a failed verdict of a matrix instruction begins. -/
def voteOn (e r : EngNo) (f : Flight) (obs : CheckObs) : Vote :=
  { orig := e, replay := r, stage := match f.op.kind with | .ewise _ => VoteStage.latched | _ => VoteStage.failed,
    flight := f, obs := obs, misses := [], parked := none, pass := none }

theorem nextGood_disagreed (c : Site) : (c.disagreed e q).nextGood e = c.nextGood e := by
  unfold Site.nextGood
  congr 1
  funext x
  by_cases h : x = e
  · subst h
    unfold Site.disagreed Site.awaiting
    rw [Site.eng_modEng_same, Site.eng_modEng_same]
  · unfold Site.disagreed Site.awaiting
    rw [Site.eng_modEng_other _ _ h, Site.eng_modEng_other _ _ h]

theorem disagreed_eng (c : Site) : (c.disagreed e q).eng e = { c.eng e with waiting := q, disagree := satInc (c.eng e).disagree } := by
  unfold Site.disagreed Site.awaiting
  rw [Site.eng_modEng_same, Site.eng_modEng_same]

theorem disagreed_other (c : Site) {x : EngNo} (h : x ≠ e) : (c.disagreed e q).eng x = c.eng x := by
  unfold Site.disagreed Site.awaiting
  rw [Site.eng_modEng_other _ _ h, Site.eng_modEng_other _ _ h]

theorem disagreed_state (s : State) : (s.modSite n fun c => c.modEng e fun g => { g with waiting := q }).modSite n
    (fun c => c.modEng e fun g => { g with disagree := satInc g.disagree }) =
      (s.setSite n ((s.site n).awaiting e q)).setSite n ((s.site n).disagreed e q) := by
  unfold State.modSite
  rw [State.site_setSite_same]
  rfl

end

/-! ### A failed verdict begins a vote, or ends in quarantine (R176, R180) -/

theorem satInc16_toNat (v : BitVec 16) : (satInc v).toNat = min 65535 (v.toNat + 1) := by
  unfold satInc
  split
  · next h => subst h; rfl
  · next h =>
    have hne : v.toNat ≠ 65535 := fun hv => h (BitVec.eq_of_toNat_eq hv)
    have := v.isLt
    rw [BitVec.toNat_add]
    change (v.toNat + 1) % 65536 = _
    omega

section
variable {s : State} {n : SiteNo} {e r : EngNo} {f : Flight} {q : List Flight} {o : VerdictObs}

/-- A site with another vote. -/
def Site.withVote (c : Site) (v : Vote) : Site := { c with vote := some v }

theorem startVote_begins {u : State} (hv : (u.site n).vote = none) (hr : (u.site n).nextGood e = some r) (obs : CheckObs) :
    u.startVote n e f obs [] = u.modSite n fun c => c.withVote (voteOn e r f obs) := by
  unfold State.startVote
  dsimp only
  rw [hv, hr]
  rfl

theorem startVote_quarantines {u : State} {w : Vote} (hv : (u.site n).vote = some w) (obs : CheckObs) (ms : List EwiseMiss) :
    ∃ v, u.startVote n e f obs ms = u.quarantine n v none := by
  unfold State.startVote
  dsimp only
  rw [hv]
  exact ⟨_, rfl⟩

/-- A state after a failed verdict, before its vote. -/
def State.verdictFailed (s : State) (n : SiteNo) (e : EngNo) (f : Flight) (q : List Flight) (o : VerdictObs) : State :=
  ((s.modSite n (·.awaiting e q)).bufferFixed n f.usesCb o).modSite n fun c =>
    c.modEng e fun g => { g with disagree := satInc g.disagree }

theorem bufferFixed_siteAndLog (s : State) (n : SiteNo) (used : Bool) (o : VerdictObs) :
    siteAndLog n s (s.bufferFixed n used o) := by
  unfold State.bufferFixed
  split
  · exact corrected_siteAndLog s n 4 _
  · exact ⟨rfl, fun _ _ => rfl⟩

theorem bufferFixed_site (s : State) (n m : SiteNo) (used : Bool) (o : VerdictObs) :
    (s.bufferFixed n used o).site m = s.site m := by
  unfold State.bufferFixed
  split <;> rfl

theorem verdictFailed_site : (s.verdictFailed n e f q o).site n = (s.site n).disagreed e q := by
  unfold State.verdictFailed
  rw [State.site_modSite_same, bufferFixed_site, State.site_modSite_same]
  rfl

theorem verdictFailed_frame : siteAndLog n s (s.verdictFailed n e f q o) :=
  siteAndLog_trans (siteAndLog_trans (onlySite_siteAndLog (onlySite_modSite s n _)) (bufferFixed_siteAndLog _ n _ o))
    (onlySite_siteAndLog (onlySite_modSite _ n _))

theorem verdictFailed_is : ((s.modSite n fun c => c.modEng e fun g => { g with waiting := q }).bufferFixed n f.usesCb o).modSite n
    (fun c => c.modEng e fun g => { g with disagree := satInc g.disagree }) = s.verdictFailed n e f q o := rfl

theorem onlySite_trans {s t u : State} (h : onlySite n s t) (k : onlySite n t u) : onlySite n s u := by
  obtain ⟨ht, hts⟩ := h
  obtain ⟨hu, hus⟩ := k
  exact ⟨by rw [hu, ht], fun m hm => (hus m hm).trans (hts m hm)⟩

theorem verdict_begins (hc : s.clocked n = true) (hw : ((s.site n).eng e).waiting = f :: q) (hp : (f.check o).pass = false)
    (hb : f.usesCb = false ∨ o.bufferEcc = .clean) (hv : (s.site n).vote = none) (hr : (s.site n).nextGood e = some r) :
    exec (.verdict n e o) s =
      .next ((s.verdictFailed n e f q o).modSite n fun c => c.withVote (voteOn e r f (f.check o))) := by
  have hl : (f.usesCb && decide (o.bufferEcc = .uncorrectable)) = false := lostNot (hb.imp_right fun h => by rw [h]; decide)
  have hs : (s.verdictFailed n e f q o).startVote n e f (f.check o) [] =
      (s.verdictFailed n e f q o).modSite n fun c => c.withVote (voteOn e r f (f.check o)) :=
    startVote_begins (by rw [verdictFailed_site]; exact hv) (by rw [verdictFailed_site, nextGood_disagreed]; exact hr) _
  change execVerdict _ _ _ _ = _
  unfold execVerdict
  simp only [hc, hw, hp, Bool.true_eq_false, Bool.false_eq_true, if_false]
  rw [verdictFailed_is, hs, State.site_modSite_same, hl]
  rfl

theorem verdict_quarantines (hc : s.clocked n = true) (hw : ((s.site n).eng e).waiting = f :: q)
    (hp : (f.check o).pass = false) {w : Vote} (hv : (s.site n).vote = some w) :
    ∃ v, exec (.verdict n e o) s = .next ((s.verdictFailed n e f q o).quarantine n v none) := by
  obtain ⟨v, hs⟩ := startVote_quarantines (n := n) (e := e) (f := f) (u := s.verdictFailed n e f q o)
    (by rw [verdictFailed_site]; exact hv) (f.check o) []
  obtain ⟨-, -, -, hn, -⟩ := quarantine_spec (s.verdictFailed n e f q o) n v none
  refine ⟨v, ?_⟩
  change execVerdict _ _ _ _ = _
  unfold execVerdict
  simp only [hc, hw, hp, Bool.true_eq_false, Bool.false_eq_true, if_false]
  rw [verdictFailed_is, hs, hn]

theorem besides_disagreed (c : Site) : (c.disagreed e q).besidesEngines = c.besidesEngines :=
  (besides_modEng (c.awaiting e q) e _).trans (besides_modEng c e _)

theorem besides_withVote (c : Site) (v : Vote) : (c.withVote v).besidesEngines = c.besidesEngines := rfl

/-- What a failed verdict that begins a vote leaves of the core. -/
theorem voteBegun_spec (hb : f.usesCb = false ∨ o.bufferEcc = .clean) (v : Vote) :
    let t := (s.verdictFailed n e f q o).modSite n fun c => c.withVote v
    onlyEngines n s t ∧ t.site n = ((s.site n).disagreed e q).withVote v := by
  have hsite : ((s.verdictFailed n e f q o).modSite n fun c => c.withVote v).site n =
      ((s.site n).disagreed e q).withVote v := by
    rw [State.site_modSite_same, verdictFailed_site]
  refine ⟨⟨?_, ?_⟩, hsite⟩
  · refine onlySite_trans ?_ (onlySite_modSite _ n _)
    unfold State.verdictFailed
    rw [bufferFixed_none hb]
    exact onlySite_trans (onlySite_modSite s n _) (onlySite_modSite _ n _)
  · rw [hsite, besides_withVote, besides_disagreed]

theorem modEng_results (c : Site) (g : Engine → Engine) : (c.modEng e g).sill = c.sill ∧ (c.modEng e g).toks = c.toks :=
  ⟨rfl, rfl⟩

theorem disagreed_results (c : Site) : (c.disagreed e q).sill = c.sill ∧ (c.disagreed e q).toks = c.toks := by
  obtain ⟨h1, h2⟩ := modEng_results (e := e) (c.awaiting e q) fun g => { g with disagree := satInc g.disagree }
  obtain ⟨h3, h4⟩ := modEng_results (e := e) c fun g => { g with waiting := q }
  exact ⟨h1.trans h3, h2.trans h4⟩

/-- The core in which a failed verdict has begun a vote: the engine counts a disagreement, its banks are as they were. -/
theorem voteBegun_engine {m : MatrixF} {r : EngNo} (c : Site) (hk : f.op.kind = .matrix m) (obs : CheckObs) :
    let c' := (c.disagreed e q).withVote (voteOn e r f obs)
    let g' := c'.eng e
    g'.waiting = q ∧ g'.banks = (c.eng e).banks ∧ g'.disagree.toNat = min 65535 ((c.eng e).disagree.toNat + 1) ∧
      c'.sill = c.sill ∧ c'.toks = c.toks ∧
      ∃ v, c'.vote = some v ∧ v.orig = e ∧ v.replay = r ∧ v.stage = .failed ∧ v.flight = f ∧ v.obs = obs := by
  have he := disagreed_eng (e := e) (q := q) c
  obtain ⟨hsill, htoks⟩ := disagreed_results (e := e) (q := q) c
  have hst : (voteOn e r f obs).stage = .failed := by
    unfold voteOn
    rw [hk]
  generalize c.disagreed e q = d at he hsill htoks
  have hd : (d.withVote (voteOn e r f obs)).eng e = d.eng e := rfl
  dsimp only
  rw [hd, he]
  exact ⟨rfl, rfl, satInc16_toNat _, hsill, htoks, _, rfl, rfl, rfl, hst, rfl, rfl⟩

end

/-- Settles O25, verdict by verdict: passed, failed with a vote begun, failed with a vote unresolved. -/
theorem verdictsAndVotesBegin : Obligations.VerdictsAndVotesBegin := by
  unfold Obligations.VerdictsAndVotesBegin
  refine ⟨fun s n e f q m o hc hw hk hp hb hh => ⟨_, verdict_passes hc hw hp hb, ?_⟩,
    fun s n e r f q m o hc hw hk hp hb hv hr => ⟨_, verdict_begins hc hw hp hb hv hr, ?_⟩,
    fun s n e f q o w hc hw hp hv hseq => ?_⟩
  · refine ⟨onlyEngines_twice rfl (by rw [besides_passed, besides_unhold]), ?_⟩
    rw [modSite_setSite, State.site_setSite_same]
    obtain ⟨hwait, hplane, hhalf, hbank⟩ := verdictPassed_engine (q := q) (s.site n) hk hh
    refine ⟨hwait, hplane, hhalf, hbank, fun hd => ?_, fun hd ha hf hst => ?_, fun hd hst hwt hfr =>
      verdictPassed_entry _ hk hd hst hwt hfr⟩
    · obtain ⟨he, hsill, htok, hpois, hno⟩ := passed_keeps (e := e) (((s.site n).awaiting e q).unhold e f) hk hd
      have ht := released_toks (e := e) (q := q) (s.site n) hk
      have hb' := released_bank (e := e) (q := q) (s.site n) hk m.bank
      refine ⟨?_, hsill.trans (released_sill _ hk), fun h1 h2 => ?_, fun h1 h2 => ?_, fun h1 => (hno h1).trans ht⟩
      · rw [he]; exact hb'
      · rw [htok h1 (by rw [hb']; exact h2)]
        unfold Site.tok
        rw [ht]
      · rw [hpois h1 (by rw [hb']; exact h2), ht]
    · exact passed_freed _ hk hd ha hf (by rw [released_bank _ hk]; exact hst)
  · obtain ⟨hfr, hsite⟩ := voteBegun_spec (s := s) (n := n) (e := e) (q := q) hb (voteOn e r f (f.check o))
    obtain ⟨hwait, hbanks, hcount, hvote⟩ := voteBegun_engine (q := q) (r := r) (s.site n) hk (f.check o)
    refine ⟨hfr, ?_⟩
    rw [hsite]
    exact ⟨fun x hx => disagreed_other (s.site n) hx, hwait, hbanks, hcount, hvote⟩
  · obtain ⟨v, hx⟩ := verdict_quarantines hc hw hp hv
    obtain ⟨hfr, hq, hst, hn, hrec, hrep⟩ := quarantine_spec (s.verdictFailed n e f q o) n v none
    obtain ⟨hlog, hsites⟩ := siteAndLog_trans verdictFailed_frame hfr
    exact ⟨_, hx, hlog, hsites, hq, hst (by rw [verdictFailed_site]; exact hseq), hn, hrec, hrep⟩

/-! ### Counting a verdict, and retiring an engine (R82, R182, R183) -/

theorem record_siteAndLog (s : State) (n : SiteNo) (r : FaultRec) : siteAndLog n s (s.record r) := ⟨rfl, fun _ _ => rfl⟩

theorem tell_siteAndLog (s : State) (n : SiteNo) (cls : BitVec 16) (site : Option SiteNo) (d : Word32) (a : Word64) :
    siteAndLog n s (s.tell cls site d a) := ⟨rfl, fun _ _ => rfl⟩

theorem journal_siteAndLog (s : State) (n : SiteNo) (r : JRec) : siteAndLog n s (s.journal r) := ⟨rfl, fun _ _ => rfl⟩

theorem modSite_siteAndLog (s : State) (n : SiteNo) (f : Site → Site) : siteAndLog n s (s.modSite n f) :=
  onlySite_siteAndLog (onlySite_modSite s n f)

theorem siteAndLog_refl (s : State) (n : SiteNo) : siteAndLog n s s := ⟨rfl, fun _ _ => rfl⟩

theorem redirects_sill (c : Site) : c.redirects.sill = c.sill :=
  foldl_keeps Site.sill _ (fun c e => by
    dsimp only
    split
    · split
      · split <;> rfl
      · rfl
    · rfl) _ c

theorem stop_sill (c : Site) : c.stop.sill = c.sill := by
  unfold Site.stop
  split <;> rfl

section
variable (s : State) (n : SiteNo) (e : EngNo)

theorem retire_spec : siteAndLog n s (s.retire n e) ∧ ((s.retire n e).site n).sill = (s.site n).sill := by
  unfold State.retire
  extract_lets u g w
  have hu : siteAndLog n s u := modSite_siteAndLog s n _
  have hs : (u.site n).sill = (s.site n).sill := by
    unfold u
    rw [State.site_modSite_same, redirects_sill]
    rfl
  have hw : siteAndLog n s w := siteAndLog_trans hu (record_siteAndLog u n _)
  have hws : (w.site n).sill = (s.site n).sill := hs
  clear_value w
  split
  · refine ⟨siteAndLog_trans (siteAndLog_trans hw (modSite_siteAndLog w n _)) (tell_siteAndLog _ n _ _ _ _), ?_⟩
    have h := State.site_modSite_same w n fun c => { c.stop with quarantined := true }
    exact (congrArg Site.sill h).trans ((stop_sill _).trans hws)
  · exact ⟨hw, hws⟩

/-- Counting a verdict changes its site and the log, and no sill entry. -/
theorem countVerdict_spec (b : Bool) : siteAndLog n s (s.countVerdict n e b) ∧
    ((s.countVerdict n e b).site n).sill = (s.site n).sill := by
  unfold State.countVerdict
  extract_lets now u w g
  have hu : siteAndLog n s u := modSite_siteAndLog s n _
  have hs : (u.site n).sill = (s.site n).sill := by
    unfold u
    rw [State.site_modSite_same]
    rfl
  have hw : siteAndLog n s w := siteAndLog_trans hu (journal_siteAndLog u n _)
  have hws : (w.site n).sill = (s.site n).sill := hs
  split
  · obtain ⟨hr, hrs⟩ := retire_spec w n e
    exact ⟨siteAndLog_trans hw hr, hrs.trans hws⟩
  · exact ⟨hw, hws⟩

/-- The record of a vote, after its verdict is counted. -/
def State.voteCounted (s : State) (n : SiteNo) (v : Vote) (b : Bool) (k : BitVec 8) (obs : CheckObs) : State :=
  (s.countVerdict n v.orig b).record ((s.countVerdict n v.orig b).voteRecord n v k (some obs))

theorem voteCounted_spec (v : Vote) (b : Bool) (k : BitVec 8) (obs : CheckObs) :
    let t := s.voteCounted n v b k obs
    siteAndLog n s t ∧ (t.site n).sill = (s.site n).sill ∧ ∃ r ∈ t.flt.buf, r.outcome = k ∧ r.site = BitVec.ofNat 8 n.val := by
  obtain ⟨hf, hs⟩ := countVerdict_spec s n v.orig b
  obtain ⟨hvo, hvs⟩ := voteRecord_is (s.countVerdict n v.orig b) n v (some obs) k
  unfold State.voteCounted
  generalize s.countVerdict n v.orig b = u at *
  generalize u.voteRecord n v k (some obs) = r at *
  obtain ⟨q, hq, -, hout, hqs, -⟩ := record_has u r
  exact ⟨siteAndLog_trans hf (record_siteAndLog u n r), hs, q, hq, hout.trans hvo, hqs.trans hvs⟩

/-- After the record, the site changes once more. -/
theorem voteCounted_then (v : Vote) (b : Bool) (k : BitVec 8) (obs : CheckObs) (f : Site → Site) :
    let t := (s.voteCounted n v b k obs).modSite n f
    siteAndLog n s t ∧ t.site n = f ((s.voteCounted n v b k obs).site n) ∧
      ∃ r ∈ t.flt.buf, r.outcome = k ∧ r.site = BitVec.ofNat 8 n.val := by
  obtain ⟨hf, -, hr⟩ := voteCounted_spec s n v b k obs
  exact ⟨siteAndLog_trans hf (modSite_siteAndLog _ n f), State.site_modSite_same _ n f, hr⟩

end

/-! ### The replay of a matrix instruction is judged (R178, R179) -/

section
variable {s : State} {n : SiteNo} {v : Vote} {m : MatrixF} {o : VerdictObs} {p : Flight}

/-- A site whose vote has ended. -/
def Site.voteEnded (c : Site) : Site := { c with vote := none }

/-- The result of a vote that found the checker at fault stands. -/
def Site.upheld (c : Site) (v : Vote) : Site := (((c.unhold v.orig v.flight).passed v.orig v.flight).giveBack v).voteEnded

theorem voteDecide_upholds (hc : s.clocked n = true) (hv : (s.site n).vote = some v) (hs : v.stage = .voted)
    (hk : v.flight.op.kind = .matrix m) (hp : v.pass = some p) (hb : v.flight.usesCb = false ∨ o.bufferEcc ≠ .uncorrectable)
    (hpass : (p.check o).pass = true) (hsame : v.obs.same (p.check o) = true) :
    exec (.voteDecide n o []) s = .next (((s.bufferFixed n v.flight.usesCb o).voteCounted n v false 1 (p.check o)).modSite n
      (·.upheld v)) := by
  change execVoteDecide _ _ _ _ = _
  unfold execVoteDecide
  simp only [hc, hv, hs, hk, hp, lostNot hb, Option.getD_some, hpass, hsame, ne_eq, not_true, Bool.true_eq_false,
    Bool.false_eq_true, if_false, if_true]
  rfl

theorem voteDecide_accuses (hc : s.clocked n = true) (hv : (s.site n).vote = some v) (hs : v.stage = .voted)
    (hk : v.flight.op.kind = .matrix m) (hp : v.pass = some p) (hb : v.flight.usesCb = false ∨ o.bufferEcc ≠ .uncorrectable)
    (hpass : (p.check o).pass = true) (hsame : v.obs.same (p.check o) = false) :
    exec (.voteDecide n o []) s = .next ((s.bufferFixed n v.flight.usesCb o).engineAtFault n v (p.check o)) := by
  change execVoteDecide _ _ _ _ = _
  unfold execVoteDecide
  simp only [hc, hv, hs, hk, hp, lostNot hb, Option.getD_some, hpass, hsame, ne_eq, not_true, Bool.true_eq_false,
    Bool.false_eq_true, if_false]

theorem voteDecide_fails (hc : s.clocked n = true) (hv : (s.site n).vote = some v) (hs : v.stage = .voted)
    (hk : v.flight.op.kind = .matrix m) (hp : v.pass = some p) (hb : v.flight.usesCb = false ∨ o.bufferEcc ≠ .uncorrectable)
    (hpass : (p.check o).pass = false) :
    exec (.voteDecide n o []) s = .next (((s.bufferFixed n v.flight.usesCb o).passFailed n v).quarantine n v
      (some (p.check o))) := by
  change execVoteDecide _ _ _ _ = _
  unfold execVoteDecide
  simp only [hc, hv, hs, hk, hp, lostNot hb, Option.getD_some, hpass, ne_eq, not_true, Bool.true_eq_false,
    Bool.false_eq_true, if_false, if_true]

/-- The instruction that a pass runs again. -/
theorem passFlight_op (c : Site) (v : Vote) : (c.passFlight v).op = v.flight.op := by
  unfold Site.passFlight
  dsimp only
  split <;> rfl

theorem enterPass_spec (c : Site) (v : Vote) (k : VoteStage) : (c.enterPass v k).vote = some { v with stage := k } ∧
    ∃ f, ((c.enterPass v k).eng v.replay).inArray = some f ∧ f.op = v.flight.op := by
  refine ⟨rfl, c.passFlight v, ?_, passFlight_op c v⟩
  exact congrArg Engine.inArray (Site.eng_modEng_same c v.replay fun g =>
    { g with inArray := some (c.passFlight v), issued := g.issued + 1 })

/-- A site in which a faulty contribution that is not finite has poisoned what it adds to. -/
def Site.spoiled (c : Site) (v : Vote) : Site :=
  (((c.poisonResult v.orig v.flight).unhold v.orig v.flight).giveBack v).voteEnded

theorem engineAtFault_is (u : State) (obs : CheckObs) :
    (v.flight.bankOf = none ∨ v.flight.nonFinite = false → u.engineAtFault n v obs =
      (u.voteCounted n v true 2 obs).modSite n fun c => c.enterPass v .applyPass) ∧
    (∀ b, v.flight.bankOf = some b → v.flight.nonFinite = true → u.engineAtFault n v obs =
      ((u.voteCounted n v true 2 obs).modSite n fun c => c.spoiled v).tell clsPoisoned (some n) 0 0) := by
  unfold State.engineAtFault
  refine ⟨fun h => ?_, fun b hb hf => ?_⟩
  · cases hb : v.flight.bankOf with
    | none => rfl
    | some b =>
      rw [h.resolve_left (by rw [hb]; exact Option.some_ne_none b)]
      rfl
  · rw [hb, hf]
    rfl

/-- What a change of one engine keeps of each engine. -/
theorem modEng_keeps {γ : Type} (P : Engine → γ) (c : Site) (e : EngNo) {f : Engine → Engine} (hf : ∀ y, P (f y) = P y)
    (x : EngNo) : P ((c.modEng e f).eng x) = P (c.eng x) := by
  by_cases h : x = e
  · subst h
    rw [Site.eng_modEng_same]
    exact hf _
  · rw [Site.eng_modEng_other _ _ h]

/-- What the end of an instruction's holds keeps of each engine. -/
theorem unhold_keeps {γ : Type} (P : Engine → γ) (hh : ∀ (y : Engine) h p, P { y with halves := h, planes := p } = P y)
    (c : Site) (e : EngNo) (f : Flight) (x : EngNo) : P ((c.unhold e f).eng x) = P (c.eng x) := by
  unfold Site.unhold
  split
  · next m _ =>
    refine modEng_keeps P c e (fun y => ?_) x
    have hr : P (y.release f m) = P y := by
      rw [release_is]
      exact hh y _ _
    exact hr
  · next w _ =>
    refine modEng_keeps P c e (fun y => ?_) x
    rw [holdHalf_is]
    exact hh y _ y.planes
  · rfl

/-- What giving back the replay engine's plane keeps of each engine. -/
theorem giveBack_keeps {γ : Type} (P : Engine → γ) (hp : ∀ (y : Engine) p, P { y with restoring := p } = P y)
    (hh : ∀ (y : Engine) p, P { y with planes := p } = P y) (c : Site) (v : Vote) (x : EngNo) :
    P ((c.giveBack v).eng x) = P (c.eng x) := by
  unfold Site.giveBack
  split
  · split
    · rfl
    · refine modEng_keeps P c _ (fun y => ?_) x
      cases v.parked with
      | none => exact hh y _
      | some p => exact hp y _
  · rfl

theorem spoiled_spec (c : Site) (v : Vote) : (c.spoiled v).vote = none ∧
    ∀ b, v.flight.bankOf = some b → (((c.spoiled v).eng v.orig).bank b).st = .poisoned := by
  refine ⟨rfl, fun b hb => ?_⟩
  change ((((Site.unhold _ _ _).giveBack v).eng v.orig).bank b).st = _
  rw [giveBack_keeps (fun g => (g.bank b).st) (fun _ _ => rfl) (fun _ _ => rfl),
    unhold_keeps (fun g => (g.bank b).st) (fun _ _ _ => rfl)]
  exact poisonResult_bank c v.orig v.flight hb

end

/-! ### The replay of an EWISE (R181) -/

section
variable {s : State} {n : SiteNo} {v : Vote} {w : EwiseF} {o : VerdictObs} {r : List EwiseMiss} {p : Flight}

/-- Whether the replay of an EWISE agrees with what was logged. -/
def Site.replayAgrees (c : Site) (v : Vote) (w : EwiseF) (p : Flight) (r : List EwiseMiss) : Bool :=
  ewiseAgrees (fun i => (ewiseElem ((c.eng v.orig).tile w.fb) w p.op.m i).code) v.misses r

/-- An entry that the replay's results overwrite. -/
def Site.overwritten (c : Site) (v : Vote) (w : EwiseF) (p : Flight) : Site :=
  (((c.closeEntry w.sill p).unhold v.orig v.flight).passed v.orig v.flight).voteEnded

/-- The replay's flight with the results it gave. -/
def Site.replayed (c : Site) (v : Vote) (w : EwiseF) (p : Flight) (r : List EwiseMiss) : Flight :=
  { p with rows := ewiseRows ((c.eng v.orig).tile w.fb) w p.op.m r }

theorem voteDecide_ewise (hc : s.clocked n = true) (hv : (s.site n).vote = some v) (hs : v.stage = .voted)
    (hk : v.flight.op.kind = .ewise w) (hp : v.pass = some p) :
    exec (.voteDecide n o r) s = .next (s.decideEwise n v w p r (p.check o)) := by
  change execVoteDecide _ _ _ _ = _
  unfold execVoteDecide
  simp only [hc, hv, hs, hk, hp, Option.getD_some, ne_eq, not_true, Bool.true_eq_false, if_false]

theorem decideEwise_agrees (h : (s.site n).replayAgrees v w p r = true) (obs : CheckObs) :
    s.decideEwise n v w p r obs =
      (s.voteCounted n v true 2 obs).modSite n fun c => c.overwritten v w ((s.site n).replayed v w p r) :=
  if_pos h

theorem decideEwise_differs (h : (s.site n).replayAgrees v w p r = false) (obs : CheckObs) :
    s.decideEwise n v w p r obs = s.quarantine n v (some obs) :=
  if_neg (by rw [show ewiseAgrees _ _ _ = false from h]; decide)

/-- An entry that waited for the EWISE alone is RELEASED with the replay's results. -/
theorem overwritten_entry {c : Site} (hk : v.flight.op.kind = .ewise w) (h : (c.entry w.sill.val).st ≠ .poisoned)
    (hw : (c.entry w.sill.val).waits = 1) (hr : (c.entry w.sill.val).freeReq = false) :
    ((c.overwritten v w p).entry w.sill.val).st = .released ∧ ((c.overwritten v w p).entry w.sill.val).data = p.rows := by
  have hu : ((c.closeEntry w.sill p).unhold v.orig v.flight).entry w.sill.val = (c.closeEntry w.sill p).entry w.sill.val := by
    rw [unhold_ewise hk]
    rfl
  have hc := hu.trans (closeEntry_entry p h)
  obtain ⟨hst, hd⟩ := sillPass_last (c := (c.closeEntry w.sill p).unhold v.orig v.flight) (i := w.sill.val)
    (by rw [hc]) (by rw [hc]; exact hw) (by rw [hc]; exact hr)
  unfold Site.overwritten
  rw [passed_ewise hk]
  refine ⟨hst, hd.trans ?_⟩
  rw [hc]

end

/-! ### Issue of a replay's passes, and their placement (R177, R178) -/

section
variable {s : State} {n : SiteNo} {v : Vote}

/-- The tile of a vote's instruction, with its checksum column formed anew. -/
def Site.heldTile (c : Site) (v : Vote) : Plane :=
  { (c.eng v.orig).plane v.flight.plane with
    latched := false, holders := 0, sums := ((c.eng v.orig).plane v.flight.plane).formSums }

/-- A site whose replay engine's free shadow plane has taken the tile. -/
def Site.replaying (c : Site) (v : Vote) : Site :=
  (c.setEng v.replay ((c.eng v.replay).setPlane (!(c.eng v.replay).active) (c.heldTile v))).withVote
    { v with stage := .latched, parked := if (c.eng v.replay).shadow.latched then some (c.eng v.replay).shadow else none }

theorem replayStart_replays (hc : s.clocked n = true) (hv : (s.site n).vote = some v) (hs : v.stage = .failed)
    (hh : ((s.site n).eng v.replay).shadow.holders = 0) (hl : ((s.site n).eng v.replay).latchingOp = none)
    (hr : ((s.site n).eng v.replay).restoring = none) :
    exec (.replayStart n) s = .next (s.setSite n ((s.site n).replaying v)) := by
  change execReplayStart _ _ = _
  unfold execReplayStart
  simp only [hc, hv, hs, hh, hl, hr, Option.isNone_none, and_self, Bool.true_eq_false, if_false, if_true]
  rfl

/-- The replay engine once its shadow plane has taken the tile. -/
theorem replaying_engine (c : Site) (v : Vote) :
    let g := c.eng v.replay
    let g' := (c.replaying v).eng v.replay
    let held := (c.eng v.orig).plane v.flight.plane
    g'.shadow.latched = false ∧ g'.shadow.holders = 0 ∧ g'.shadow.data = held.data ∧ g'.shadow.sums = held.formSums ∧
      g'.active = g.active ∧ g'.plane g.active = g.plane g.active ∧ g'.halves = g.halves ∧ g'.banks = g.banks := by
  have he : (c.replaying v).eng v.replay = (c.eng v.replay).setPlane (!(c.eng v.replay).active) (c.heldTile v) :=
    Site.eng_setEng_same c _ _
  have hs : ((c.eng v.replay).setPlane (!(c.eng v.replay).active) (c.heldTile v)).shadow = c.heldTile v :=
    Engine.plane_setPlane_same _ _ _
  dsimp only
  rw [he, hs]
  exact ⟨rfl, rfl, rfl, rfl, rfl, Engine.plane_setPlane_other _ _ (by simp), rfl, rfl⟩

theorem votePassIssue_issues (hc : s.clocked n = true) (hv : (s.site n).vote = some v) (hs : v.stage = .latched)
    (ha : ((s.site n).eng v.replay).inArray = none) :
    exec (.votePassIssue n) s = .next (s.setSite n ((s.site n).enterPass v .votePass)) := by
  change execVotePassIssue _ _ = _
  unfold execVotePassIssue
  simp only [hc, hv, hs, ha, Option.isNone_none, and_self, Bool.true_eq_false, if_false, if_true]

theorem enterPass_eng (c : Site) (v : Vote) (k : VoteStage) : (c.enterPass v k).eng v.replay =
    { c.eng v.replay with inArray := some (c.passFlight v), issued := (c.eng v.replay).issued + 1 } :=
  Site.eng_modEng_same c v.replay fun g => { g with inArray := some (c.passFlight v), issued := g.issued + 1 }

theorem enterPass_other (c : Site) (v : Vote) (k : VoteStage) {x : EngNo} (h : x ≠ v.replay) :
    (c.enterPass v k).eng x = c.eng x :=
  Site.eng_modEng_other c (fun g => { g with inArray := some (c.passFlight v), issued := g.issued + 1 }) h

theorem passOf_is {c : Site} {e : EngNo} (h : c.passOf e = some v) :
    c.vote = some v ∧ v.replay = e ∧ (v.stage = .votePass ∨ v.stage = .applyPass) := by
  unfold Site.passOf at h
  split at h
  · next w hw =>
    split at h
    · next hc =>
      cases h
      exact ⟨hw, hc⟩
    · cases h
  · cases h

theorem lastPlacement_pass {e : EngNo} {f : Flight} (hc : s.clocked n = true) (hp : (s.site n).passOf e = some v)
    (hf : ((s.site n).eng e).inArray = some f) (bad : List BadWord) :
    exec (.matrixLastPlacement n e { bad := bad, parityOk := true }) s =
      .next (s.setSite n ((s.site n).placePass v (f.faulted bad))) := by
  change execMatrixLastPlacement _ _ _ _ = _
  unfold execMatrixLastPlacement
  simp only [hc, hf, hp, Bool.true_eq_false, if_false, if_true]

/-- The bank of a vote's instruction takes its corrected words (R74). -/
def Site.correct (c : Site) (v : Vote) (fixed : Tab AccWord) : Site :=
  match v.flight.bankOf with
  | some k => c.modEng v.orig fun g => g.setBank k { g.bank k with words := fixed }
  | none => c

/-- The entry of a vote's instruction takes what the pass drained. -/
def Site.closeVoted (c : Site) (v : Vote) (p : Flight) : Site :=
  match v.flight.entryOf with | some i => c.closeEntry i p | none => c

theorem placePass_vote (c : Site) (p : Flight) (h : v.stage = .votePass) : c.placePass v p =
    (c.modEng v.replay fun g => g.leave p).withVote { v with stage := .voted, pass := some p } := if_pos h

theorem placePass_apply {m : MatrixF} (c : Site) (p : Flight) (h : v.stage = .applyPass) (hk : v.flight.op.kind = .matrix m) :
    ∃ fixed q, fixed = correctWords p.op.m ((c.eng v.orig).bank m.bank).words v.flight.contrib p.contrib ∧
      c.placePass v p = (((((c.modEng v.replay fun g => g.leave p).correct v fixed).closeVoted v q).unhold v.orig
        v.flight).giveBack v).withVote { v with stage := .applied, pass := some q } := by
  have hb : ((c.modEng v.replay fun g => g.leave p).eng v.orig).bank m.bank = (c.eng v.orig).bank m.bank :=
    modEng_keeps (fun g => g.bank m.bank) c v.replay (f := fun g => g.leave p) (fun _ => rfl) v.orig
  let fixed := correctWords p.op.m (((c.modEng v.replay fun g => g.leave p).eng v.orig).bank m.bank).words v.flight.contrib
    p.contrib
  refine ⟨fixed, p.drained m (if m.accumulate then fixed else p.contrib), by unfold fixed; rw [hb], ?_⟩
  unfold Site.placePass
  dsimp only
  rw [if_neg (by rw [h]; decide), hk]
  rfl

theorem placePass_other (c : Site) (p : Flight) (h : v.stage = .applyPass) (hk : ∀ m, v.flight.op.kind ≠ .matrix m) :
    c.placePass v p = (c.modEng v.replay fun g => g.leave p).withVote { v with stage := .applied, pass := some p } := by
  unfold Site.placePass
  dsimp only
  rw [if_neg (by rw [h]; decide)]
  split
  · next m hm => exact absurd hm (hk m)
  · rfl

@[simp] theorem besides_correct (c : Site) (fixed : Tab AccWord) : (c.correct v fixed).besidesEngines = c.besidesEngines := by
  unfold Site.correct
  split <;> rfl

@[simp] theorem besides_closeVoted (c : Site) (p : Flight) : (c.closeVoted v p).besidesEngines = c.besidesEngines := by
  unfold Site.closeVoted
  split
  · exact besides_closeEntry _ _ _
  · rfl

@[simp] theorem eng_closeVoted (c : Site) (p : Flight) (x : EngNo) : (c.closeVoted v p).eng x = c.eng x := by
  unfold Site.closeVoted
  split
  · exact eng_closeEntry _ _ _ _
  · rfl

theorem correct_keeps {γ : Type} (P : Engine → γ) (hP : ∀ (y : Engine) b, P { y with banks := b } = P y) (c : Site)
    (fixed : Tab AccWord) (x : EngNo) : P ((c.correct v fixed).eng x) = P (c.eng x) := by
  unfold Site.correct
  split
  · exact modEng_keeps P c _ (fun y => hP y _) x
  · rfl

theorem correct_words (c : Site) {b : Fin 4} (h : v.flight.bankOf = some b) (fixed : Tab AccWord) :
    (((c.correct v fixed).eng v.orig).bank b).words = fixed := by
  unfold Site.correct
  rw [h]
  dsimp only
  rw [Site.eng_modEng_same, Engine.bank_setBank_same]

theorem left_empty (c : Site) (p : Flight) : ((c.modEng v.replay fun g => g.leave p).eng v.replay).inArray = none := by
  rw [Site.eng_modEng_same]
  rfl

end

/-! ### The end of a vote -/

section
variable {s : State} {n : SiteNo} {v : Vote}

/-- What a placed pass of a vote leaves: only engines, sill and vote differ, its array is empty, and the vote goes on. -/
theorem placePass_spec (c : Site) (p : Flight) (hs : v.stage = .votePass ∨ v.stage = .applyPass) :
    (c.placePass v p).besidesEngines = c.besidesEngines ∧ ((c.placePass v p).eng v.replay).inArray = none ∧
      (v.stage = .votePass → (c.placePass v p).vote = some { v with stage := .voted, pass := some p }) ∧
      (v.stage = .applyPass → (∃ q, (c.placePass v p).vote = some { v with stage := .applied, pass := some q }) ∧
        ∀ m b, v.flight.op.kind = .matrix m → v.flight.bankOf = some b → b = m.bank →
          (((c.placePass v p).eng v.orig).bank b).words =
            correctWords p.op.m ((c.eng v.orig).bank b).words v.flight.contrib p.contrib) := by
  rcases hs with h | h
  · rw [placePass_vote c p h]
    refine ⟨rfl, left_empty c p, fun _ => rfl, fun h' => ?_⟩
    rw [h] at h'
    cases h'
  · by_cases hk : ∃ m, v.flight.op.kind = .matrix m
    · obtain ⟨m, hk⟩ := hk
      obtain ⟨fixed, q, hfix, he⟩ := placePass_apply c p h hk
      rw [he]
      refine ⟨?_, ?_, fun h' => ?_, fun _ => ⟨⟨q, rfl⟩, fun m' b hk' hb hbm => ?_⟩⟩
      · rw [besides_withVote, besides_giveBack, besides_unhold, besides_closeVoted, besides_correct]
        rfl
      · change ((Site.giveBack _ v).eng v.replay).inArray = none
        rw [giveBack_keeps Engine.inArray (fun _ _ => rfl) (fun _ _ => rfl), unhold_keeps Engine.inArray (fun _ _ _ => rfl),
          eng_closeVoted, correct_keeps Engine.inArray (fun _ _ => rfl), left_empty]
      · rw [h] at h'
        cases h'
      · rw [hk] at hk'
        cases hk'
        subst hbm
        change (((Site.giveBack _ v).eng v.orig).bank m.bank).words = _
        rw [giveBack_keeps (fun g => (g.bank m.bank).words) (fun _ _ => rfl) (fun _ _ => rfl),
          unhold_keeps (fun g => (g.bank m.bank).words) (fun _ _ _ => rfl), eng_closeVoted, correct_words _ hb, hfix]
    · rw [placePass_other c p h fun m hm => hk ⟨m, hm⟩]
      refine ⟨rfl, left_empty c p, fun h' => ?_, fun _ => ⟨⟨p, rfl⟩, fun m b hk' => absurd ⟨m, hk'⟩ hk⟩⟩
      rw [h] at h'
      cases h'

theorem passFailed_spec (u : State) : siteAndLog n u (u.passFailed n v) ∧ ((u.passFailed n v).site n).seq = (u.site n).seq := by
  refine ⟨modSite_siteAndLog u n _, ?_⟩
  unfold State.passFailed
  rw [State.site_modSite_same]
  rfl

/-- A failed pass ends in quarantine. -/
theorem passFailed_quarantined (o : VerdictObs) (obs : CheckObs) (hseq : (s.site n).seq ≠ .idle) :
    let t := ((s.bufferFixed n v.flight.usesCb o).passFailed n v).quarantine n v (some obs)
    siteAndLog n s t ∧ (t.site n).vote = none ∧ (t.site n).quarantined = true ∧ (t.site n).seq = .stopped ∧
      ∃ r ∈ t.flt.buf, r.outcome = 3 ∧ r.site = BitVec.ofNat 8 n.val := by
  obtain ⟨hf, hs⟩ := passFailed_spec (n := n) (v := v) (s.bufferFixed n v.flight.usesCb o)
  obtain ⟨hq, hqt, hst, hn, hrec, -⟩ :=
    quarantine_spec ((s.bufferFixed n v.flight.usesCb o).passFailed n v) n v (some obs)
  exact ⟨siteAndLog_trans (siteAndLog_trans (bufferFixed_siteAndLog s n _ o) hf) hq, hn, hqt,
    hst (by rw [hs, bufferFixed_site]; exact hseq), hrec⟩

/-- An uncorrectable buffer word ends a vote in quarantine. -/
theorem bufferLost_quarantined (o : VerdictObs) (obs : CheckObs) (hseq : (s.site n).seq ≠ .idle) :
    let t := s.bufferLost n v obs o
    siteAndLog n s t ∧ (t.site n).vote = none ∧ (t.site n).quarantined = true ∧ (t.site n).seq = .stopped := by
  unfold State.bufferLost
  extract_lets t
  obtain ⟨hq, hqt, hst, hn, -⟩ := quarantine_spec
    (s.record { s.engRec n v.orig 0x0012 4 (o.errOff.setWidth 64) with severity := 0 }) n v (some obs)
  exact ⟨siteAndLog_trans (record_siteAndLog s n _) hq, hn, hqt, hst hseq⟩

theorem applyPassVerdict_passes {o : VerdictObs} {p : Flight} (hc : s.clocked n = true) (hv : (s.site n).vote = some v)
    (hs : v.stage = .applied) (hp : v.pass = some p) (hpass : (p.check o).pass = true)
    (hb : v.flight.usesCb = false ∨ o.bufferEcc = .clean) :
    exec (.applyPassVerdict n o) s = .next (s.modSite n fun c => (c.passed v.orig v.flight).voteEnded) := by
  have hl := lostNot (hb.imp_right fun h => by rw [h]; decide)
  change execApplyPassVerdict _ _ _ = _
  unfold execApplyPassVerdict
  simp only [hc, hv, hs, hp, hl, Option.getD_some, hpass, bufferFixed_none hb, ne_eq, not_true, Bool.true_eq_false,
    Bool.false_eq_true, if_false, if_true]
  rfl

theorem applyPassVerdict_fails {o : VerdictObs} {p : Flight} (hc : s.clocked n = true) (hv : (s.site n).vote = some v)
    (hs : v.stage = .applied) (hp : v.pass = some p) (hpass : (p.check o).pass = false) :
    exec (.applyPassVerdict n o) s = .next
      (if v.flight.usesCb && decide (o.bufferEcc = .uncorrectable) then s.bufferLost n v (p.check o) o
        else ((s.bufferFixed n v.flight.usesCb o).passFailed n v).quarantine n v (some (p.check o))) := by
  change execApplyPassVerdict _ _ _ = _
  unfold execApplyPassVerdict
  simp only [hc, hv, hs, hp, Option.getD_some, hpass, ne_eq, not_true, Bool.true_eq_false, Bool.false_eq_true, if_false]
  split <;> rfl

theorem tell_site (s : State) (m : SiteNo) (cls : BitVec 16) (site : Option SiteNo) (d : Word32) (a : Word64) :
    (s.tell cls site d a).site m = s.site m := rfl

theorem besides_replaying (c : Site) : (c.replaying v).besidesEngines = c.besidesEngines :=
  (besides_vote (c.setEng v.replay _) _).trans (besides_setEng c v.replay _)

theorem besides_enterPass (c : Site) (k : VoteStage) : (c.enterPass v k).besidesEngines = c.besidesEngines := rfl

theorem upheld_vote (c : Site) : (c.upheld v).vote = none := rfl

theorem overwritten_vote (c : Site) (w : EwiseF) (p : Flight) : (c.overwritten v w p).vote = none := rfl

theorem besides_voteEnded (c : Site) : c.voteEnded.besidesEngines = c.besidesEngines := rfl

/-- The engine at fault: the apply pass enters the array, or a contribution that is not finite has poisoned its bank. -/
theorem accused_spec (o : VerdictObs) (obs : CheckObs) :
    let t := (s.bufferFixed n v.flight.usesCb o).engineAtFault n v obs
    t = { s with sites := t.sites, flt := t.flt, jrnl := t.jrnl } ∧ (∀ m, m ≠ n → t.site m = s.site m) ∧
      (v.flight.bankOf = none ∨ v.flight.nonFinite = false → (t.site n).vote = some { v with stage := .applyPass } ∧
        ∃ f, ((t.site n).eng v.replay).inArray = some f ∧ f.op = v.flight.op) ∧
      (∀ b, v.flight.bankOf = some b → v.flight.nonFinite = true → (t.site n).vote = none ∧
        (((t.site n).eng v.orig).bank b).st = .poisoned) ∧
      ∃ r ∈ t.flt.buf, r.outcome = 2 ∧ r.site = BitVec.ofNat 8 n.val := by
  have hu := bufferFixed_siteAndLog s n v.flight.usesCb o
  generalize s.bufferFixed n v.flight.usesCb o = u at *
  obtain ⟨hpass, hspoil⟩ := engineAtFault_is (n := n) (v := v) u obs
  by_cases h : v.flight.bankOf = none ∨ v.flight.nonFinite = false
  · obtain ⟨hf, hsite, hrec⟩ := voteCounted_then u n v true 2 obs fun c => c.enterPass v .applyPass
    obtain ⟨hlog, hsites⟩ := siteAndLog_trans hu hf
    rw [hpass h]
    refine ⟨hlog, hsites, fun _ => ?_, fun b hb hn => ?_, hrec⟩
    · rw [hsite]
      exact enterPass_spec _ v .applyPass
    · rw [hb, hn] at h
      exact absurd h (by simp)
  · cases hb : v.flight.bankOf with
    | none => exact absurd (.inl hb) h
    | some b =>
      have hn : v.flight.nonFinite = true := by simpa [hb] using h
      obtain ⟨hf, hsite, hrec⟩ := voteCounted_then u n v true 2 obs fun c => c.spoiled v
      obtain ⟨hlog, hsites⟩ := siteAndLog_trans hu (siteAndLog_trans hf (tell_siteAndLog _ n clsPoisoned (some n) 0 0))
      obtain ⟨hvote, hbank⟩ := spoiled_spec ((u.voteCounted n v true 2 obs).site n) v
      rw [hspoil b hb hn]
      refine ⟨hlog, hsites, fun h' => absurd (by rw [hb]; exact h') h, fun b' hb' _ => ?_, hrec⟩
      rw [tell_site, hsite]
      exact ⟨hvote, hbank b' (hb.trans hb')⟩

/-- The replay of an EWISE: its results overwrite the entry, or the core is quarantined. -/
theorem decideEwise_spec {w : EwiseF} {p : Flight} {r : List EwiseMiss} (hk : v.flight.op.kind = .ewise w)
    (hseq : (s.site n).seq ≠ .idle) (obs : CheckObs) :
    let t := s.decideEwise n v w p r obs
    t = { s with sites := t.sites, flt := t.flt, jrnl := t.jrnl } ∧ (∀ m, m ≠ n → t.site m = s.site m) ∧
      (t.site n).vote = none ∧
      let h := ((s.site n).eng v.orig).tile w.fb
      let agrees := ewiseAgrees (fun i => (ewiseElem h w p.op.m i).code) v.misses r
      let x := (s.site n).entry w.sill.val
      (agrees = true → ∃ x ∈ t.flt.buf, x.outcome = 2 ∧ x.site = BitVec.ofNat 8 n.val) ∧
      (agrees = true → x.st ≠ .poisoned → x.waits = 1 → x.freeReq = false →
        ((t.site n).entry w.sill.val).st = .released ∧
        ((t.site n).entry w.sill.val).data = ewiseRows h w p.op.m r) ∧
      (agrees = false → (t.site n).quarantined = true ∧ (t.site n).seq = .stopped ∧
        ∃ x ∈ t.flt.buf, x.outcome = 3 ∧ x.site = BitVec.ofNat 8 n.val) := by
  cases ha : (s.site n).replayAgrees v w p r with
  | true =>
    obtain ⟨⟨hlog, hsites⟩, hsite, hrec⟩ := voteCounted_then s n v true 2 obs
      fun c => c.overwritten v w ((s.site n).replayed v w p r)
    obtain ⟨-, hsill, -⟩ := voteCounted_spec s n v true 2 obs
    have he : ((s.voteCounted n v true 2 obs).site n).entry w.sill.val = (s.site n).entry w.sill.val :=
      congrArg (fun (l : Tab SillEntry) => tget (fun _ => ({} : SillEntry)) l w.sill.val) hsill
    rw [decideEwise_agrees ha]
    refine ⟨hlog, hsites, by rw [hsite, overwritten_vote], fun _ => hrec, fun _ hst hw hr => ?_,
      fun hf => absurd (ha.symm.trans hf) (by decide)⟩
    rw [hsite]
    exact overwritten_entry hk (by rw [he]; exact hst) (by rw [he]; exact hw) (by rw [he]; exact hr)
  | false =>
    obtain ⟨⟨hlog, hsites⟩, hq, hst, hn, hrec, -⟩ := quarantine_spec s n v (some obs)
    rw [decideEwise_differs ha]
    exact ⟨hlog, hsites, hn, fun hf => absurd (ha.symm.trans hf) (by decide),
      fun hf => absurd (ha.symm.trans hf) (by decide), fun _ => ⟨hq, hst hseq, hrec⟩⟩

end

/-- Settles O26, stage by stage of a vote. -/
theorem votesRunAndEnd : Obligations.VotesRunAndEnd := by
  unfold Obligations.VotesRunAndEnd
  refine ⟨fun s n v hc hv hs hh hl hr => ⟨_, replayStart_replays hc hv hs hh hl hr, ?_⟩,
    fun s n v hc hv hs ha => ⟨_, votePassIssue_issues hc hv hs ha, ?_⟩,
    fun s n v m o p hc hv hs hk hp hb hpass hsame => ⟨_, voteDecide_upholds hc hv hs hk hp hb hpass hsame, ?_⟩,
    fun s n v m o p hc hv hs hk hp hb hpass hsame => ⟨_, voteDecide_accuses hc hv hs hk hp hb hpass hsame, ?_⟩,
    fun s n v m o p hc hv hs hk hp hb hpass hseq => ⟨_, voteDecide_fails hc hv hs hk hp hb hpass, ?_⟩,
    fun s n v w o r p hc hv hs hk hp hseq => ⟨_, voteDecide_ewise hc hv hs hk hp, ?_⟩,
    fun s n e v f bad hc hp hf => ⟨_, lastPlacement_pass hc hp hf bad, ?_⟩,
    fun s n v o p hc hv hs hp hpass hb => ⟨_, applyPassVerdict_passes hc hv hs hp hpass hb, ?_⟩,
    fun s n v o p hc hv hs hp hpass hseq => ⟨_, applyPassVerdict_fails hc hv hs hp hpass, ?_⟩,
    fun s n e p off hc h hb => ⟨_, planeRestoreDone_clean hc h hb off, (restored_frame p).1, restored_shadow p,
      congrArg Engine.restoring (restored_eng p)⟩⟩
  · refine ⟨onlyEngines_setSite (besides_replaying _), ?_⟩
    rw [State.site_setSite_same]
    exact ⟨fun x hx => Site.eng_setEng_other (s.site n) _ hx, rfl, replaying_engine (s.site n) v⟩
  · refine ⟨onlyEngines_setSite (besides_enterPass _ _), ?_⟩
    rw [State.site_setSite_same]
    refine ⟨fun x hx => enterPass_other _ v _ hx, rfl, ?_⟩
    rw [enterPass_eng]
    exact ⟨rfl, rfl⟩
  · obtain ⟨⟨hlog, hsites⟩, hsite, hrec⟩ := voteCounted_then (s.bufferFixed n v.flight.usesCb o) n v false 1 (p.check o)
      fun c => c.upheld v
    obtain ⟨hf, hfs⟩ := siteAndLog_trans (bufferFixed_siteAndLog s n v.flight.usesCb o) ⟨hlog, hsites⟩
    exact ⟨hf, hfs, by rw [hsite, upheld_vote], hrec⟩
  · exact accused_spec o _
  · obtain ⟨⟨hf, hfs⟩, hn, hq, hst, hrec⟩ := passFailed_quarantined (s := s) (n := n) (v := v) o (p.check o) hseq
    exact ⟨hf, hfs, hn, hq, hst, hrec⟩
  · exact decideEwise_spec hk hseq _
  · obtain ⟨hvote, hre, hst⟩ := passOf_is hp
    subst hre
    obtain ⟨hb, hin, hvp, hap⟩ := placePass_spec (s.site n) (f.faulted bad) hst
    refine ⟨onlyEngines_setSite hb, ?_⟩
    rw [State.site_setSite_same]
    exact ⟨hin, hvp, hap⟩
  · refine ⟨⟨onlySite_modSite s n _, ?_⟩, ?_⟩
    · rw [State.site_modSite_same]
      rw [besides_voteEnded, besides_passed]
    · rw [State.site_modSite_same]
      rfl
  · split
    · obtain ⟨⟨hf, hfs⟩, hn, hq, hst⟩ := bufferLost_quarantined (s := s) (n := n) (v := v) o (p.check o) hseq
      exact ⟨hf, hfs, hn, hq, hst⟩
    · obtain ⟨⟨hf, hfs⟩, hn, hq, hst, -⟩ := passFailed_quarantined (s := s) (n := n) (v := v) o (p.check o) hseq
      exact ⟨hf, hfs, hn, hq, hst⟩

end Sys2Proof.Machine
end

section
/-!
PROOF. Drains, redirection and caps of the engines.
-/

namespace Sys2Proof.Machine

/-! ### The end of a drain (R58, R73) -/

section
variable {s : State} {n : SiteNo} {e : EngNo} {op : ArrayOp} {f : DrainF}

/-- What a drain delivers. -/
def Site.drainOf (c : Site) (e : EngNo) (op : ArrayOp) (f : DrainF) : Drained :=
  drainRows ((c.eng e).bank f.bank).words op.m ((c.eng e).bank f.bank).anchor f.dest f.rnd f.nonsat op.c1 op.c2

/-- An engine whose drain has ended, its bank FREE. -/
def Engine.drained (g : Engine) (b : Fin 4) : Engine := { g.setBank b {} with draining := none }

/-- A site in which a drain's bank is FREE, and its entry CLOSED. -/
def Site.drainClosed (c : Site) (e : EngNo) (op : ArrayOp) (f : DrainF) : Site :=
  ((c.modEng e (·.drained f.bank)).takeFlush
    (some (op.named, (c.drainOf e op f).sat, (c.drainOf e op f).nan, (c.drainOf e op f).maxF))).setEntry f.sill.val
      { c.entry f.sill.val with st := .closed, data := bytesTab (c.drainOf e op f).bytes }

theorem drainDone_releases (hc : s.clocked n = true) (hd : ((s.site n).eng e).draining = some op) (hk : op.kind = .drain f)
    (bad : BitVec 9) : exec (.bankDrainDone n e true bad) s =
      .next (s.setSite n (((s.site n).drainClosed e op f).sillRelease f.sill.val)) := by
  change execBankDrainDone _ _ _ _ _ = _
  unfold execBankDrainDone
  simp only [hc, hd, hk, Bool.true_eq_false, if_false, if_true]
  rfl

theorem drainClosed_eng (c : Site) : flushOnly ((c.eng e).drained f.bank) ((c.drainClosed e op f).eng e) := by
  have h := takeFlush_eng (c.modEng e (·.drained f.bank))
    (some (op.named, (c.drainOf e op f).sat, (c.drainOf e op f).nan, (c.drainOf e op f).maxF)) e
  rw [Site.eng_modEng_same] at h
  exact h

theorem flushOnly.trans {g h k : Engine} (a : flushOnly g h) (b : flushOnly h k) : flushOnly g k := by
  obtain ⟨w, rfl⟩ := a
  obtain ⟨x, rfl⟩ := b
  exact ⟨x, rfl⟩

theorem drainClosed_entry (c : Site) : (c.drainClosed e op f).entry f.sill.val =
    { c.entry f.sill.val with st := .closed, data := bytesTab (c.drainOf e op f).bytes } :=
  Site.entry_setEntry_same _ _ _

theorem drainClosed_other (c : Site) {k : Nat} (h : k ≠ f.sill.val) : (c.drainClosed e op f).entry k = c.entry k :=
  (Site.entry_setEntry_other _ _ h).trans (entry_takeFlush _ _ _)

/-- A drain whose residue holds: its bank is FREE, its entry RELEASED with the rows, its token signalled. -/
theorem drainDone_spec (hw : ((s.site n).entry f.sill.val).waits = 0) (hr : ((s.site n).entry f.sill.val).freeReq = false) :
    let c := s.site n
    let c' := ((s.site n).drainClosed e op f).sillRelease f.sill.val
    let g := c.eng e
    let g' := c'.eng e
    let b := g.bank f.bank
    g'.bank f.bank = {} ∧ (∀ x, x ≠ f.bank → g'.bank x = g.bank x) ∧ g'.draining = none ∧
      (c'.entry f.sill.val).st = .released ∧
      (c'.entry f.sill.val).data =
        bytesTab (drainRows b.words op.m b.anchor f.dest f.rnd f.nonsat op.c1 op.c2).bytes ∧
      (∀ k, k ≠ f.sill.val → c'.entry k = c.entry k) ∧
      (∀ k, (c.entry f.sill.val).tok = some k →
        c'.tok k = BitVec.ofNat 16 (min 65535 ((c.tok k).toNat + 1))) := by
  have he := drainClosed_entry (e := e) (op := op) (f := f) (s.site n)
  obtain ⟨x, hx⟩ := (drainClosed_eng (e := e) (op := op) (f := f) (s.site n)).trans (sillRelease_eng _ f.sill.val e)
  have hrel := sillRelease_entry (c := (s.site n).drainClosed e op f) (i := f.sill.val) (by rw [he]) (by rw [he]; exact hw)
    (by rw [he]; exact hr)
  dsimp only
  rw [hx, hrel, he]
  refine ⟨Engine.bank_setBank_same ((s.site n).eng e) f.bank {}, fun b hb => Engine.bank_setBank_other ((s.site n).eng e) {} hb, rfl, rfl, rfl,
    fun k hk => (sillRelease_other _ hk).trans (drainClosed_other _ hk), fun k hk => ?_⟩
  have ht : ((s.site n).drainClosed e op f).tok k = (s.site n).tok k :=
    congrArg (tget (fun _ => 0) · k.toNat) (toks_takeFlush ((s.site n).modEng e (·.drained f.bank))
      (some (op.named, ((s.site n).drainOf e op f).sat, ((s.site n).drainOf e op f).nan, ((s.site n).drainOf e op f).maxF)))
  rw [sillRelease_tok (by rw [he]) (by rw [he]; exact hw) (by rw [he]; exact hk), ht]

theorem besides_drainClosed (c : Site) : (c.drainClosed e op f).besidesEngines = c.besidesEngines := by
  unfold Site.drainClosed
  rw [besides_setEntry, besides_takeFlush, besides_modEng]

/-! ### A drain whose residue fails -/

/-- A site in which a drain's bank and entry are POISONED. -/
def Site.drainSpoiled (c : Site) (e : EngNo) (f : DrainF) : Site :=
  ((c.modEng e fun g => { g with draining := none }).poisonBank e f.bank).poisonEntry f.sill.val

theorem drainDone_fails (hc : s.clocked n = true) (hd : ((s.site n).eng e).draining = some op) (hk : op.kind = .drain f)
    (bad : BitVec 9) : exec (.bankDrainDone n e false bad) s =
      .next ((s.setSite n ((s.site n).drainSpoiled e f)).engReport n e 0x0005
        (BitVec.ofNat 32 f.bank.val ||| fieldAt bad 2) 0) := by
  change execBankDrainDone _ _ _ _ _ = _
  unfold execBankDrainDone
  simp only [hc, hd, hk, Bool.true_eq_false, Bool.false_eq_true, if_false]
  rfl

theorem drainSpoiled_spec (c : Site) : (((c.drainSpoiled e f).eng e).bank f.bank).st = .poisoned ∧
    ((c.drainSpoiled e f).eng e).draining = none ∧ ((c.drainSpoiled e f).entry f.sill.val).st = .poisoned ∧
    (c.drainSpoiled e f).toks = c.toks := by
  have he : (c.drainSpoiled e f).eng e = _ := poisonBank_eng (c.modEng e fun g => { g with draining := none }) e f.bank
  have hn : (c.drainSpoiled e f).entry f.sill.val = _ := Site.entry_setEntry_same _ _ _
  rw [he, hn, Engine.bank_setBank_same, Site.eng_modEng_same]
  exact ⟨rfl, rfl, rfl, rfl⟩

/-- The record and the report about one engine. -/
theorem engReport_spec (u : State) (cls : BitVec 16) (d : Word32) (a : Word64) :
    let t := u.engReport n e cls d a
    siteAndLog n u t ∧ t.site n = u.site n ∧ (∃ r ∈ t.flt.buf, r.cls = cls ∧ r.engine = BitVec.ofNat 2 e.val) ∧
      ∃ r ∈ t.flt.reports, r.2.cls = cls ∧ r.2.site = some n := by
  obtain ⟨q, hq, hcls, -, -, heng⟩ := record_has u (u.engRec n e cls d a)
  obtain ⟨r, hr, hrc, hrs, -⟩ := tell_has (u.record (u.engRec n e cls d a)) cls (some n) d a
  exact ⟨⟨rfl, fun _ _ => rfl⟩, rfl, ⟨q, hq, hcls, heng⟩, r, hr, hrc, hrs⟩

end

/-! ### Redirection (R82) -/

theorem insertBySeq_perm {α : Type} (seq : α → Nat) (x : α) (l : List α) : (insertBySeq seq x l).Perm (x :: l) := by
  induction l with
  | nil => exact .refl _
  | cons y ys ih =>
    unfold insertBySeq
    split
    · exact .refl _
    · exact (ih.cons y).trans (.swap x y ys)

/-- Two queues merged hold what both held. -/
theorem mergeBySeq_perm {α : Type} (seq : α → Nat) (a b : List α) : (mergeBySeq seq a b).Perm (a ++ b) := by
  unfold mergeBySeq
  induction b generalizing a with
  | nil => rw [List.append_nil]; exact .refl _
  | cons x xs ih =>
    refine (ih _).trans (((insertBySeq_perm seq x a).append_right xs).trans ?_)
    exact List.perm_middle.symm

section
variable {s : State} {n : SiteNo} {e : EngNo}

/-- A retired engine from which what waits has moved. -/
def Engine.moved (g : Engine) : Engine := { g with arrayQ := [], feedQ := [], latchQ := [], movePending := false }

/-- An engine that has taken what waited at another, in program order. -/
def Engine.takes (t g : Engine) : Engine :=
  { t with arrayQ := mergeBySeq (·.seq) t.arrayQ g.arrayQ, feedQ := mergeBySeq (·.seq) t.feedQ g.feedQ,
           latchQ := mergeBySeq (·.seq) t.latchQ g.latchQ, nextSeq := max t.nextSeq g.nextSeq }

/-- A site in which what waited at an engine has moved to its redirect engine. -/
def Site.redirected (c : Site) (e : EngNo) : Site :=
  (c.setEng e (c.eng e).moved).modEng (c.eng e).redirect (·.takes (c.eng e))

theorem redirectMove_moves (hc : s.clocked n = true) (hr : ((s.site n).eng e).retired = true)
    (hm : ((s.site n).eng e).movePending = true) (hd : ((s.site n).eng e).redirect ≠ e)
    (hq : (s.site n).engQuiescent e = true) (hq' : (s.site n).engQuiescent ((s.site n).eng e).redirect = true) :
    exec (.redirectMove n e) s = .next (s.setSite n ((s.site n).redirected e)) := by
  change execRedirectMove _ _ _ = _
  unfold execRedirectMove
  rw [if_neg (by rw [hc]; decide)]
  exact if_pos (by rw [hr, hm, hq, hq', decide_eq_true hd]; rfl)

theorem redirected_from (c : Site) (h : (c.eng e).redirect ≠ e) : (c.redirected e).eng e = (c.eng e).moved := by
  unfold Site.redirected
  rw [Site.eng_modEng_other _ _ h.symm, Site.eng_setEng_same]

theorem redirected_to (c : Site) (h : (c.eng e).redirect ≠ e) :
    (c.redirected e).eng (c.eng e).redirect = (c.eng (c.eng e).redirect).takes (c.eng e) := by
  unfold Site.redirected
  rw [Site.eng_modEng_same, Site.eng_setEng_other _ _ h]

theorem redirected_other (c : Site) {x : EngNo} (h : x ≠ e) (hr : x ≠ (c.eng e).redirect) :
    (c.redirected e).eng x = c.eng x := by
  unfold Site.redirected
  rw [Site.eng_modEng_other _ _ hr, Site.eng_setEng_other _ _ h]

end

/-! ### A cap takes effect (R80) -/

/-- A change of every engine of a site changes each once. -/
theorem eng_modEngs (c : Site) (f : Engine → Engine) (x : EngNo) : (c.modEngs f).eng x = f (c.eng x) := by
  have h := foldl_touches (F := fun (c : Site) e => c.modEng e f) (read := fun e (c : Site) => c.eng e) (new := fun _ => f)
    (fun c e => Site.eng_modEng_same c e f) (fun c e x h => Site.eng_modEng_other c f h) (List.nodup_finRange 4) c x
  rw [if_pos (List.mem_finRange x)] at h
  exact h

theorem modEngs_is (c : Site) (f : Engine → Engine) : c.modEngs f = { c with engines := (c.modEngs f).engines } :=
  foldl_inv (fun d : Site => d = { c with engines := d.engines }) (fun (c : Site) e => c.modEng e f)
    (fun d _ h => by rw [h]; rfl) _ c rfl

/-- An engine under a new cap from a cycle on. -/
def Engine.capped (g : Engine) (q : BitVec 5) (t : Nat) : Engine :=
  { g with cap := q, inArray := g.inArray.map fun f => f.recap g.cap.toNat t q.toNat }

theorem capTakesEffect_caps {s : State} {n : SiteNo} (hc : s.clocked n = true) : exec (.capTakesEffect n) s =
    .next (s.modSite n fun c => c.modEngs (·.capped (s.effCap n) (((s.site n).cycle.toNat + 15) / 16 * 16))) := by
  change execCapTakesEffect _ _ = _
  unfold execCapTakesEffect
  rw [if_neg (by rw [hc]; decide)]
  rfl

/-- A new cap keeps the slots and the issue cycle of an instruction. -/
theorem recap_keeps (f : Flight) (q u r : Nat) : (f.recap q u r).slots = f.slots ∧ (f.recap q u r).issue = f.issue := by
  unfold Flight.recap
  dsimp only
  split <;> exact ⟨rfl, rfl⟩

theorem recap_fed {f : Flight} {q u : Nat} (h : f.slots ≤ f.slotsBefore q u) (r : Nat) : f.recap q u r = f := if_pos (.inl h)

theorem recap_open {f : Flight} {q u : Nat} (hc : f.capFrom ≤ u) (h : f.slotsBefore q u < f.slots) (r : Nat) :
    (f.recap q u r).taken = f.slotsBefore q u ∧
      (f.recap q u r).len = u - f.issue.toNat + feedLen r u (f.slots - f.slotsBefore q u) := by
  unfold Flight.recap
  dsimp only
  rw [if_neg (by omega)]
  exact ⟨rfl, rfl⟩

/-- Settles O23: what ends a drain, what a redirection moves, and what a cap changes. -/
theorem drainsMovesAndCaps : Obligations.DrainsMovesAndCaps := by
  unfold Obligations.DrainsMovesAndCaps
  refine ⟨fun s n e op f bad hc hd hk hw hr _ => ⟨_, drainDone_releases hc hd hk bad, ?_⟩,
    fun s n e op f bad hc hd hk => ⟨_, drainDone_fails hc hd hk bad, ?_⟩,
    fun s n e hc hr hm hd hq hq' => ⟨_, redirectMove_moves hc hr hm hd hq hq', ?_⟩,
    fun s n hc => ⟨_, capTakesEffect_caps hc, onlySite_modSite s n _, ?_, fun x => ?_⟩,
    fun f q u r => ⟨(recap_keeps f q u r).1, (recap_keeps f q u r).2, fun h => recap_fed h r, fun hc h => recap_open hc h r⟩⟩
  · refine ⟨onlyEngines_setSite (by rw [besides_sillRelease, besides_drainClosed]), ?_⟩
    rw [State.site_setSite_same]
    exact drainDone_spec hw hr
  · obtain ⟨⟨hlog, hsites⟩, hsite, ⟨r, hr, hrc, -⟩, hrep⟩ := engReport_spec (n := n) (e := e)
      (s.setSite n ((s.site n).drainSpoiled e f)) 0x0005 (BitVec.ofNat 32 f.bank.val ||| fieldAt bad 2) 0
    obtain ⟨hbank, hdr, hent, htok⟩ := drainSpoiled_spec (e := e) (f := f) (s.site n)
    rw [State.site_setSite_same] at hsite
    refine ⟨hlog.trans rfl, fun m hm => (hsites m hm).trans (State.site_setSite_other _ _ hm), ?_⟩
    rw [hsite]
    exact ⟨hbank, hdr, hent, htok, ⟨r, hr, hrc⟩, hrep⟩
  · refine ⟨⟨rfl, fun m hm => State.site_setSite_other s _ hm⟩, ?_⟩
    rw [State.site_setSite_same]
    dsimp only
    rw [redirected_from _ hd, redirected_to _ hd]
    exact ⟨rfl, rfl, rfl, rfl, rfl, mergeBySeq_perm _ _ _, mergeBySeq_perm _ _ _, mergeBySeq_perm _ _ _,
      fun x hx hxr => redirected_other _ hx hxr⟩
  · rw [State.site_modSite_same]
    exact modEngs_is _ _
  · rw [State.site_modSite_same]
    exact eng_modEngs _ _ x

end Sys2Proof.Machine
end

section
/-!
PROOF. The array, feed and latch queues of the engines: what issues, waits, is refused, and loads.
-/

namespace Sys2Proof.Machine

/-! ### Reserving a sill entry, and cancelling contributions to a bank (R102, R180) -/

section
variable (c : Site) (e : EngNo) (b : Fin 4) (i : Fin 64) (bytes : Nat) (tok : Option (BitVec 6))

/-- The instructions that await verdicts once their contributions to bank b are cancelled. -/
def cutAll (b : Fin 4) (l : List Flight) : List Flight :=
  l.map fun f => if f.bankOf = some b then { f with cancelled := true } else f

/-- A site with another vote or none. -/
def Site.voteIs (c : Site) (v : Option Vote) : Site := { c with vote := v }

theorem cancelBank_is : ∃ v, c.cancelBank e b = (c.modEng e fun g => { g with waiting := cutAll b g.waiting }).voteIs v := by
  unfold Site.cancelBank
  dsimp only
  split
  · split
    · exact ⟨_, rfl⟩
    · exact ⟨c.vote, rfl⟩
  · exact ⟨c.vote, rfl⟩

theorem besides_cancelBank : (c.cancelBank e b).besidesEngines = c.besidesEngines := by
  obtain ⟨v, h⟩ := cancelBank_is c e b
  rw [h]
  rfl

/-- The engine of a bank that is cancelled: what waits for verdicts may differ. -/
theorem cancelBank_eng : (c.cancelBank e b).eng e = { c.eng e with waiting := cutAll b (c.eng e).waiting } := by
  obtain ⟨v, h⟩ := cancelBank_is c e b
  rw [h]
  exact Site.eng_modEng_same c e fun g => { g with waiting := cutAll b g.waiting }

theorem cancelBank_other {x : EngNo} (hx : x ≠ e) : (c.cancelBank e b).eng x = c.eng x := by
  obtain ⟨v, h⟩ := cancelBank_is c e b
  rw [h]
  exact Site.eng_modEng_other c (fun g => { g with waiting := cutAll b g.waiting }) hx

theorem cancelBank_sill : (c.cancelBank e b).sill = c.sill ∧ (c.cancelBank e b).sillFree = c.sillFree := by
  obtain ⟨v, h⟩ := cancelBank_is c e b
  rw [h]
  exact ⟨rfl, rfl⟩

/-- An entry opened with its reservation. -/
def SillEntry.reserved (v : SillEntry) (bytes : Nat) (tok : Option (BitVec 6)) : SillEntry :=
  { v with st := .opened, units := sillUnits bytes, waits := 1, readers := 0, data := [], tok := tok, flush := none }

theorem sillOpen_entry : (c.sillOpen i bytes tok).entry i.val = (c.entry i.val).reserved bytes tok :=
  Site.entry_setEntry_same c i.val ((c.entry i.val).reserved bytes tok)

theorem sillOpen_other {k : Nat} (h : k ≠ i.val) : (c.sillOpen i bytes tok).entry k = c.entry k :=
  Site.entry_setEntry_other c ((c.entry i.val).reserved bytes tok) h

/-- An entry of the sill is reserved, and its engine is the last granted. -/
def Site.grant : Site := { c.sillOpen i bytes tok with sillLast := e }

theorem grant_spec : (c.grant e i bytes tok).besidesEngines = c.besidesEngines ∧
    (∀ x, (c.grant e i bytes tok).eng x = c.eng x) ∧
    ((c.grant e i bytes tok).entry i.val).st = .opened ∧ ((c.grant e i bytes tok).entry i.val).units = sillUnits bytes ∧
    ((c.grant e i bytes tok).entry i.val).waits = 1 ∧ (c.grant e i bytes tok).sillFree = c.sillFree - sillUnits bytes ∧
    ∀ k, k ≠ i.val → (c.grant e i bytes tok).entry k = c.entry k := by
  have he : (c.grant e i bytes tok).entry i.val = _ := sillOpen_entry c i bytes tok
  rw [he]
  exact ⟨rfl, fun _ => rfl, rfl, rfl, rfl, rfl, fun k hk => sillOpen_other c i bytes tok hk⟩

end

/-! ### A MATRIX issues (R66, R68 to R70) -/

/-- An engine that an issued MATRIX has entered. -/
def Engine.issueMatrix (g : Engine) (f : MatrixF) (fl : Flight) : Engine :=
  let g := g.enter fl
  let g := if f.hold then g else g.swap
  let g := g.holdPlane fl.plane (· + 1)
  let g := g.holdHalf f.fb (· + 1)
  g.setBank f.bank { st := .filling, anchor := fl.anchor, words := if f.accumulate then (g.bank f.bank).words else [] }

/-- A site whose bank is to be filled anew, with its sill reservation. -/
def Site.reserveMatrix (c : Site) (e : EngNo) (op : ArrayOp) (f : MatrixF) : Site :=
  let c := if f.accumulate then c else c.cancelBank e f.bank
  if f.dest = 0 then c else c.grant e f.sill (op.m * rowBytes f.dest) (tokOf f.tokEn f.tok)

section
variable {s : State} {n : SiteNo} {e : EngNo} {op : ArrayOp} {q : List ArrayOp}

theorem issueMatrix_is (c : Site) (f : MatrixF) : c.issueMatrix e op f =
    (c.reserveMatrix e op f).modEng e (·.issueMatrix f (c.matrixFlight e op f)) := rfl

theorem matrixIssue_issues {f : MatrixF} (hc : s.clocked n = true) (hq : ((s.site n).eng e).arrayQ = op :: q)
    (hk : op.kind = .matrix f) (hg : ((s.site n).tryHead e).1 = .go)
    (hs : (s.site n).sillGrant e ((s.site n).tryHead e).2 = true) :
    exec (.matrixIssue n e) s = .next (s.setSite n ((s.site n).issueMatrix e op f)) := by
  change execMatrixIssue _ _ _ = _
  unfold execMatrixIssue
  simp only [hc, hq, hk, hg, hs, Bool.true_eq_false, if_false, if_true]

/-- The site with the reservations of a MATRIX made: its engine but for what waits for verdicts, and its sill entry. -/
theorem reserveMatrix_spec (c : Site) (f : MatrixF) :
    let d := c.reserveMatrix e op f
    d.besidesEngines = c.besidesEngines ∧ d.eng e = { c.eng e with waiting := (d.eng e).waiting } ∧
      (∀ x, x ≠ e → d.eng x = c.eng x) ∧ (f.dest = 0 → d.sill = c.sill ∧ d.sillFree = c.sillFree) ∧
      (f.dest ≠ 0 → (d.entry f.sill.val).st = .opened ∧ (d.entry f.sill.val).units = sillUnits (op.m * rowBytes f.dest) ∧
        (d.entry f.sill.val).waits = 1 ∧ d.sillFree = c.sillFree - sillUnits (op.m * rowBytes f.dest) ∧
        ∀ k, k ≠ f.sill.val → d.entry k = c.entry k) := by
  unfold Site.reserveMatrix
  extract_lets d d'
  obtain ⟨hb, he, hx, hs, hf⟩ : d.besidesEngines = c.besidesEngines ∧ d.eng e = { c.eng e with waiting := (d.eng e).waiting } ∧
      (∀ x, x ≠ e → d.eng x = c.eng x) ∧ d.sill = c.sill ∧ d.sillFree = c.sillFree := by
    unfold d
    split
    · exact ⟨rfl, rfl, fun _ _ => rfl, rfl, rfl⟩
    · exact ⟨besides_cancelBank _ _ _, by rw [cancelBank_eng], fun x h => cancelBank_other _ _ _ h, cancelBank_sill _ _ _⟩
  have hent (k : Nat) : d.entry k = c.entry k := congrArg (fun (l : Tab SillEntry) => tget (fun _ => ({} : SillEntry)) l k) hs
  clear_value d
  by_cases hd : f.dest = 0
  · have hd' : d' = d := if_pos hd
    rw [hd']
    exact ⟨hb, he, hx, fun _ => ⟨hs, hf⟩, fun h => absurd hd h⟩
  · have hd' : d' = d.grant e f.sill (op.m * rowBytes f.dest) (tokOf f.tokEn f.tok) := if_neg hd
    obtain ⟨gb, ge, gst, gu, gw, gf, go⟩ := grant_spec d e f.sill (op.m * rowBytes f.dest) (tokOf f.tokEn f.tok)
    rw [hd']
    exact ⟨gb.trans hb, by rw [ge]; exact he, fun x h => (ge x).trans (hx x h), fun h => absurd h hd,
      fun _ => ⟨gst, gu, gw, by rw [gf, hf], fun k hk => (go k hk).trans (hent k)⟩⟩

theorem holdHalf_holders (g : Engine) (fb : Bool) (f : Nat → Nat) :
    ((g.holdHalf fb f).half fb).holders = f (g.half fb).holders := by
  unfold Engine.holdHalf
  dsimp only
  split
  · cases fb with
    | false =>
      rw [Engine.half_setHalf_other _ _ (by decide), Engine.half_setHalf_same]
    | true =>
      rw [Engine.half_setHalf_same, Engine.half_setHalf_other _ _ (by decide)]
  · rw [Engine.half_setHalf_same]

/-- What an engine that swaps or holds uses: its plane, and the other. -/
theorem swapped_spec (g : Engine) (hold : Bool) :
    let g' := if hold then g else g.swap
    g' = { g with planes := g'.planes, active := if hold then g.active else !g.active } ∧
      g'.active = g.planeOf hold ∧ (g'.plane g'.active).holders = (g.plane g'.active).holders ∧
      (hold = false → (g'.plane g.active).latched = false) := by
  cases hold with
  | true => exact ⟨rfl, rfl, rfl, fun h => absurd h (by decide)⟩
  | false =>
    refine ⟨rfl, rfl, ?_, fun _ => congrArg Plane.latched (Engine.plane_setPlane_same g g.active _)⟩
    exact congrArg Plane.holders (Engine.plane_setPlane_other g _ (by simp [Engine.swap]))

end

/-- The bank that an issued MATRIX fills. -/
def filledBank (f : MatrixF) (b : Bank) (a : BitVec 8) : Bank :=
  { st := .filling, anchor := a, words := if f.accumulate then b.words else [] }

/-- An engine that an issued MATRIX has entered: its queue, array, planes, half and bank. -/
theorem issueMatrix_engine (g : Engine) (f : MatrixF) (fl : Flight) (hp : fl.plane = g.planeOf f.hold) :
    let g' := g.issueMatrix f fl
    g'.arrayQ = g.arrayQ.drop 1 ∧ g'.issued = g.issued + 1 ∧ g'.active = (if f.hold then g.active else !g.active) ∧
      g'.inArray = some fl ∧ fl.plane = g'.active ∧
      g'.bank f.bank = filledBank f (g.bank f.bank) fl.anchor ∧ (∀ b, b ≠ f.bank → g'.bank b = g.bank b) ∧
      (f.hold = false → (g'.plane g.active).latched = false) ∧
      (g'.plane g'.active).holders = (g.plane g'.active).holders + 1 ∧
      (g'.half f.fb).holders = (g.half f.fb).holders + 1 := by
  unfold Engine.issueMatrix
  extract_lets g1 g2 g3 g4 g5
  obtain ⟨h2, ha, hh, hl⟩ := swapped_spec g1 f.hold
  have h2' : g2 = { g1 with planes := g2.planes, active := if f.hold then g1.active else !g1.active } := h2
  have h3 : g3 = { g2 with planes := g3.planes } := rfl
  have h4 : g4 = { g3 with halves := g4.halves } := holdHalf_is g3 f.fb (· + 1)
  have h5 : g5 = { g4 with banks := g5.banks } := rfl
  have hact : g5.active = fl.plane := by rw [h5, h4, h3, hp]; exact ha
  have hpl (p : Bool) : g5.plane p = g3.plane p := by unfold Engine.plane; rw [h5, h4]
  have hact2 : g2.active = fl.plane := by rw [hp]; exact ha
  have hbk (b : Fin 4) : g4.bank b = g.bank b := by unfold Engine.bank; rw [h4, h3, h2']; rfl
  have hhalf (b : Bool) : g3.half b = g.half b := by unfold Engine.half; rw [h3, h2']; rfl
  refine ⟨by rw [h5, h4, h3, h2']; rfl, by rw [h5, h4, h3, h2']; rfl, by rw [h5, h4, h3, h2']; rfl,
    by rw [h5, h4, h3, h2']; rfl, hact.symm, ?_, fun b hb => ?_, fun h => ?_, ?_, ?_⟩
  · refine (Engine.bank_setBank_same g4 _ _).trans ?_
    rw [hbk]
    rfl
  · exact (Engine.bank_setBank_other g4 _ hb).trans (hbk b)
  · have hne : g.active ≠ fl.plane := by
      rw [hp, h]
      simp [Engine.planeOf]
    rw [hpl]
    exact (congrArg Plane.latched (Engine.plane_setPlane_other g2 _ hne)).trans (hl h)
  · rw [hpl, hact]
    refine (congrArg Plane.holders (Engine.plane_setPlane_same g2 fl.plane _)).trans ?_
    rw [← hact2]
    exact congrArg (· + 1) hh
  · have h5h : g5.half f.fb = g4.half f.fb := rfl
    rw [h5h, ← hhalf]
    exact holdHalf_holders g3 f.fb (· + 1)

/-- OUT += keeps its bank's anchor. -/
theorem anchorCode_accumulate (p : Plane) (h : Half) (b : Bank) {f : MatrixF} (op : ArrayOp) (ha : f.accumulate = true) :
    anchorCode p h b f op = b.anchor := if_pos ha

section
variable {s : State} {n : SiteNo} {e : EngNo} {op : ArrayOp} {q : List ArrayOp}

/-- An issued MATRIX: its engine and its sill entry. -/
theorem matrixIssued_spec {f : MatrixF} (hq : ((s.site n).eng e).arrayQ = op :: q) :
    let c := s.site n
    let c' := (s.site n).issueMatrix e op f
    let g := c.eng e
    let g' := c'.eng e
    c'.besidesEngines = c.besidesEngines ∧ (∀ x, x ≠ e → c'.eng x = c.eng x) ∧
      g'.arrayQ = q ∧ g'.issued = g.issued + 1 ∧ g'.active = (if f.hold then g.active else !g.active) ∧
      (∃ fl, g'.inArray = some fl ∧ fl.op = op ∧ fl.plane = g'.active ∧ fl.anchor = (g'.bank f.bank).anchor ∧
        fl.cap = g.cap) ∧
      (g'.bank f.bank).st = .filling ∧
      (f.accumulate = true → (g'.bank f.bank).words = (g.bank f.bank).words ∧
        (g'.bank f.bank).anchor = (g.bank f.bank).anchor) ∧
      (f.accumulate = false → (g'.bank f.bank).words = []) ∧
      (∀ b, b ≠ f.bank → g'.bank b = g.bank b) ∧
      (f.hold = false → (g'.plane g.active).latched = false) ∧
      (g'.plane g'.active).holders = (g.plane g'.active).holders + 1 ∧
      (g'.half f.fb).holders = (g.half f.fb).holders + 1 ∧
      (f.dest = 0 → c'.sill = c.sill ∧ c'.sillFree = c.sillFree) ∧
      (f.dest ≠ 0 → (c'.entry f.sill.val).st = .opened ∧ (c'.entry f.sill.val).units = sillUnits (op.m * rowBytes f.dest) ∧
      (c'.entry f.sill.val).waits = 1 ∧ c'.sillFree = c.sillFree - sillUnits (op.m * rowBytes f.dest) ∧
      (∀ k, k ≠ f.sill.val → c'.entry k = c.entry k)) := by
  rw [issueMatrix_is]
  obtain ⟨hb, he, hx, hd0, hd⟩ := reserveMatrix_spec (e := e) (op := op) (s.site n) f
  have hfl : ((s.site n).matrixFlight e op f).plane = ((s.site n).eng e).planeOf f.hold := rfl
  have hop : ((s.site n).matrixFlight e op f).op = op := rfl
  have hcap : ((s.site n).matrixFlight e op f).cap = ((s.site n).eng e).cap := rfl
  have hanc (ha : f.accumulate = true) : ((s.site n).matrixFlight e op f).anchor = (((s.site n).eng e).bank f.bank).anchor :=
    anchorCode_accumulate _ _ _ op ha
  generalize (s.site n).matrixFlight e op f = fl at *
  have hin := issueMatrix_engine (((s.site n).reserveMatrix e op f).eng e) f fl (by rw [he]; exact hfl)
  rw [he] at hin
  generalize (s.site n).reserveMatrix e op f = d at *
  obtain ⟨h1, h2, h3, h4, h5, h6, h7, h8, h9, h10⟩ := hin
  dsimp only at *
  rw [Site.eng_modEng_same, he]
  refine ⟨hb, fun x h => (Site.eng_modEng_other _ _ h).trans (hx x h), h1.trans (congrArg (List.drop 1) hq), h2, h3,
    ⟨fl, h4, hop, h5, ?_, hcap⟩, ?_, fun ha => ?_, fun ha => ?_, h7, h8, h9, h10, hd0, hd⟩
  · rw [h6]; rfl
  · rw [h6]; rfl
  · rw [h6]
    exact ⟨if_pos ha, hanc ha⟩
  · rw [h6]
    unfold filledBank
    rw [ha]
    rfl

/-! ### An EWISE, a BANK_DRAIN and a BANK_FREE issue -/

/-- An engine that an issued EWISE has entered. -/
def Engine.issueEwise (g : Engine) (f : EwiseF) (fl : Flight) : Engine := (g.enter fl).holdHalf f.fb (· + 1)

theorem ewiseIssue_issues {f : EwiseF} (hc : s.clocked n = true) (hq : ((s.site n).eng e).arrayQ = op :: q)
    (hk : op.kind = .ewise f) (hg : ((s.site n).tryHead e).1 = .go)
    (hs : (s.site n).sillGrant e ((s.site n).tryHead e).2 = true) :
    exec (.ewiseIssue n e) s = .next (s.setSite n (((s.site n).grant e f.sill ((destFmt f.dest).bytes op.m)
      (tokOf f.tokEn f.tok)).modEng e (·.issueEwise f ((s.site n).ewiseFlight e op f)))) := by
  change execEwiseIssue _ _ _ = _
  unfold execEwiseIssue
  simp only [hc, hq, hk, hg, hs, Bool.true_eq_false, if_false, if_true]
  rfl

theorem issueEwise_engine (g : Engine) (f : EwiseF) (fl : Flight) :
    let g' := g.issueEwise f fl
    g'.arrayQ = g.arrayQ.drop 1 ∧ g'.issued = g.issued + 1 ∧ g'.active = g.active ∧ g'.planes = g.planes ∧
      g'.banks = g.banks ∧ g'.inArray = some fl ∧ (g'.half f.fb).holders = (g.half f.fb).holders + 1 := by
  have hh := holdHalf_holders (g.enter fl) f.fb (· + 1)
  have hi := holdHalf_is (g.enter fl) f.fb (· + 1)
  unfold Engine.issueEwise
  generalize (g.enter fl).holdHalf f.fb (· + 1) = k at *
  dsimp only
  rw [hh, hi]
  exact ⟨rfl, rfl, rfl, rfl, rfl, rfl, rfl⟩

/-- An engine whose bank drains. -/
def Engine.issueDrain (g : Engine) (op : ArrayOp) (f : DrainF) : Engine :=
  { g.setBank f.bank { g.bank f.bank with st := .draining } with arrayQ := g.arrayQ.drop 1, draining := some op }

theorem issueDrain_bank (g : Engine) (f : DrainF) :
    (g.issueDrain op f).bank f.bank = { g.bank f.bank with st := .draining } :=
  Engine.bank_setBank_same g f.bank { g.bank f.bank with st := .draining }

theorem issueDrain_other (g : Engine) (f : DrainF) {b : Fin 4} (h : b ≠ f.bank) : (g.issueDrain op f).bank b = g.bank b :=
  Engine.bank_setBank_other g { g.bank f.bank with st := .draining } h

/-- An entry reserved for a drain, which waits for no verdict. -/
def SillEntry.unwaited (v : SillEntry) : SillEntry := { v with waits := 0 }

/-- An engine is the last that the sill granted. -/
def Site.granted (c : Site) (e : EngNo) : Site := { c with sillLast := e }

/-- A site with the sill entry of a drain reserved. -/
def Site.grantDrain (c : Site) (e : EngNo) (op : ArrayOp) (f : DrainF) : Site :=
  let c := c.sillOpen f.sill (op.m * rowBytes f.dest) (tokOf f.tokEn f.tok)
  (c.setEntry f.sill.val (c.entry f.sill.val).unwaited).granted e

theorem bankDrainIssue_issues {f : DrainF} (hc : s.clocked n = true) (hq : ((s.site n).eng e).arrayQ = op :: q)
    (hk : op.kind = .drain f) (hg : ((s.site n).tryHead e).1 = .go)
    (hs : (s.site n).sillGrant e ((s.site n).tryHead e).2 = true) :
    exec (.bankDrainIssue n e) s =
      .next (s.setSite n (((s.site n).grantDrain e op f).modEng e (·.issueDrain op f))) := by
  change execBankDrainIssue _ _ _ = _
  unfold execBankDrainIssue
  simp only [hc, hq, hk, hg, hs, Bool.true_eq_false, if_false, if_true]
  rfl

theorem besides_grantDrain (c : Site) (f : DrainF) : (c.grantDrain e op f).besidesEngines = c.besidesEngines := by
  have h : (c.sillOpen f.sill (op.m * rowBytes f.dest) (tokOf f.tokEn f.tok)).besidesEngines = c.besidesEngines := rfl
  have hg (d : Site) : (d.granted e).besidesEngines = d.besidesEngines := rfl
  unfold Site.grantDrain
  rw [hg, besides_setEntry, h]

theorem eng_grantDrain (c : Site) (f : DrainF) (x : EngNo) : (c.grantDrain e op f).eng x = c.eng x := by
  unfold Site.grantDrain
  rfl

theorem grantDrain_spec (c : Site) (f : DrainF) :
    let d := c.grantDrain e op f
    d.besidesEngines = c.besidesEngines ∧ (∀ x, d.eng x = c.eng x) ∧
      (d.entry f.sill.val).st = .opened ∧ (d.entry f.sill.val).units = sillUnits (op.m * rowBytes f.dest) ∧
      (d.entry f.sill.val).waits = 0 ∧ d.sillFree = c.sillFree - sillUnits (op.m * rowBytes f.dest) ∧
      ∀ k, k ≠ f.sill.val → d.entry k = c.entry k := by
  have he : (c.grantDrain e op f).entry f.sill.val =
      ((c.entry f.sill.val).reserved (op.m * rowBytes f.dest) (tokOf f.tokEn f.tok)).unwaited :=
    (Site.entry_setEntry_same (c.sillOpen f.sill (op.m * rowBytes f.dest) (tokOf f.tokEn f.tok)) f.sill.val
      ((c.sillOpen f.sill (op.m * rowBytes f.dest) (tokOf f.tokEn f.tok)).entry f.sill.val).unwaited).trans
      (congrArg SillEntry.unwaited (sillOpen_entry c f.sill _ _))
  have ho (k : Nat) (hk : k ≠ f.sill.val) : (c.grantDrain e op f).entry k = c.entry k :=
    (Site.entry_setEntry_other (c.sillOpen f.sill (op.m * rowBytes f.dest) (tokOf f.tokEn f.tok))
      ((c.sillOpen f.sill (op.m * rowBytes f.dest) (tokOf f.tokEn f.tok)).entry f.sill.val).unwaited hk).trans
      (sillOpen_other c f.sill _ _ hk)
  have hf : (c.grantDrain e op f).sillFree = c.sillFree - sillUnits (op.m * rowBytes f.dest) := rfl
  refine ⟨besides_grantDrain c f, eng_grantDrain c f, ?_, ?_, ?_, hf, ho⟩
  all_goals rw [he]; rfl

theorem bankFreeIssue_issues {b : Fin 4} (hc : s.clocked n = true) (hq : ((s.site n).eng e).arrayQ = op :: q)
    (hk : op.kind = .free b) (hg : ((s.site n).tryHead e).1 = .go) :
    exec (.bankFreeIssue n e) s = .next (s.setSite n (((s.site n).cancelBank e b).modEng e fun g =>
      { g.setBank b {} with arrayQ := g.arrayQ.drop 1 })) := by
  change execBankFreeIssue _ _ _ = _
  unfold execBankFreeIssue
  simp only [hc, hq, hk, hg, Bool.true_eq_false, if_false]

end

/-- Settles O20, operation by operation of the array queues. -/
theorem arrayOperationsIssue : Obligations.ArrayOperationsIssue := by
  unfold Obligations.ArrayOperationsIssue
  refine ⟨fun s n e op q f hc hq hk hg hs => ⟨_, matrixIssue_issues hc hq hk hg hs, ?_⟩,
    fun s n e op q f hc hq hk hg hs => ⟨_, ewiseIssue_issues hc hq hk hg hs, ?_⟩,
    fun s n e op q f hc hq hk hg hs => ⟨_, bankDrainIssue_issues hc hq hk hg hs, ?_⟩,
    fun s n e op q b hc hq hk hg => ⟨_, bankFreeIssue_issues hc hq hk hg, ?_⟩⟩
  · obtain ⟨hb, hspec⟩ := matrixIssued_spec (f := f) hq
    refine ⟨onlyEngines_setSite hb, ?_⟩
    rw [State.site_setSite_same]
    exact hspec
  · obtain ⟨gb, ge, gst, gu, gw, gf, go⟩ := grant_spec (s.site n) e f.sill ((destFmt f.dest).bytes op.m) (tokOf f.tokEn f.tok)
    obtain ⟨h1, h2, h3, h4, h5, h6, h7⟩ := issueEwise_engine ((s.site n).eng e) f ((s.site n).ewiseFlight e op f)
    refine ⟨onlyEngines_setSite gb, ?_⟩
    rw [State.site_setSite_same]
    dsimp only
    rw [Site.eng_modEng_same, ge]
    exact ⟨fun x hx => (Site.eng_modEng_other _ _ hx).trans (ge x), h1.trans (congrArg (List.drop 1) hq), h2, h3, h4, h5,
      ⟨_, h6, rfl, rfl⟩, h7, gst, gu, gw, gf, go⟩
  · obtain ⟨gb, ge, gst, gu, gw, gf, go⟩ := grantDrain_spec (e := e) (op := op) (s.site n) f
    refine ⟨onlyEngines_setSite gb, ?_⟩
    rw [State.site_setSite_same]
    dsimp only
    rw [Site.eng_modEng_same, ge]
    exact ⟨fun x hx => (Site.eng_modEng_other _ _ hx).trans (ge x), congrArg (List.drop 1) hq, rfl, rfl, rfl,
      issueDrain_bank _ _, fun b hb => issueDrain_other _ _ hb,
      gst, gu, gw, gf, go⟩
  · refine ⟨onlyEngines_setSite (besides_cancelBank _ _ _), ?_⟩
    rw [State.site_setSite_same]
    dsimp only
    rw [Site.eng_modEng_same, cancelBank_eng]
    obtain ⟨hsill, hfree⟩ := cancelBank_sill (s.site n) e b
    exact ⟨fun x hx => (Site.eng_modEng_other _ _ hx).trans (cancelBank_other _ _ _ hx), congrArg (List.drop 1) hq,
      Engine.bank_setBank_same ((s.site n).eng e) b {}, fun x hx => Engine.bank_setBank_other ((s.site n).eng e) {} hx,
      rfl, hsill, hfree⟩

/-! ### Refusals and waits at the head of an array queue (R69, R157) -/

section
variable {s : State} {n : SiteNo} {e : EngNo} {op : ArrayOp} {q : List ArrayOp} {code : BitVec 6}

theorem issueRow_refuses (hc : s.clocked n = true) (hq : ((s.site n).eng e).arrayQ = op :: q)
    (ht : ((s.site n).tryHead e).1 = .refuse code) :
    exec (issueRow n e op.kind) s = .next (s.refuseArray n e op code) := by
  cases hk : op.kind with
  | matrix f =>
    change execMatrixIssue _ _ _ = _
    unfold execMatrixIssue
    simp only [hc, hq, hk, ht, Bool.true_eq_false, if_false]
  | ewise f =>
    change execEwiseIssue _ _ _ = _
    unfold execEwiseIssue
    simp only [hc, hq, hk, ht, Bool.true_eq_false, if_false]
  | drain f =>
    change execBankDrainIssue _ _ _ = _
    unfold execBankDrainIssue
    simp only [hc, hq, hk, ht, Bool.true_eq_false, if_false]
  | free b =>
    change execBankFreeIssue _ _ _ = _
    unfold execBankFreeIssue
    simp only [hc, hq, hk, ht, Bool.true_eq_false, if_false]

/-- An operation that waits changes nothing. -/
theorem issueRow_waits (hc : s.clocked n = true) (hq : ((s.site n).eng e).arrayQ = op :: q)
    (ht : ((s.site n).tryHead e).1 = .wait) : exec (issueRow n e op.kind) s = .next s := by
  cases hk : op.kind with
  | matrix f =>
    change execMatrixIssue _ _ _ = _
    unfold execMatrixIssue
    simp only [hc, hq, hk, ht, Bool.true_eq_false, if_false]
  | ewise f =>
    change execEwiseIssue _ _ _ = _
    unfold execEwiseIssue
    simp only [hc, hq, hk, ht, Bool.true_eq_false, if_false]
  | drain f =>
    change execBankDrainIssue _ _ _ = _
    unfold execBankDrainIssue
    simp only [hc, hq, hk, ht, Bool.true_eq_false, if_false]
  | free b =>
    change execBankFreeIssue _ _ _ = _
    unfold execBankFreeIssue
    simp only [hc, hq, hk, ht, Bool.true_eq_false, if_false]

/-- A BANK_FREE reserves nothing of the sill. -/
theorem tryHead_free {b : Fin 4} (hq : ((s.site n).eng e).arrayQ = op :: q) (hk : op.kind = .free b) :
    ((s.site n).tryHead e).2 = none := by
  unfold Site.tryHead
  split
  · rfl
  · rw [hq]
    dsimp only
    rw [hk]

/-- An operation that the sill does not grant changes nothing. -/
theorem issueRow_ungranted (hc : s.clocked n = true) (hq : ((s.site n).eng e).arrayQ = op :: q)
    (ht : ((s.site n).tryHead e).1 = .go) (hs : (s.site n).sillGrant e ((s.site n).tryHead e).2 = false) :
    exec (issueRow n e op.kind) s = .next s := by
  cases hk : op.kind with
  | matrix f =>
    change execMatrixIssue _ _ _ = _
    unfold execMatrixIssue
    simp only [hc, hq, hk, ht, hs, Bool.true_eq_false, Bool.false_eq_true, if_false]
  | ewise f =>
    change execEwiseIssue _ _ _ = _
    unfold execEwiseIssue
    simp only [hc, hq, hk, ht, hs, Bool.true_eq_false, Bool.false_eq_true, if_false]
  | drain f =>
    change execBankDrainIssue _ _ _ = _
    unfold execBankDrainIssue
    simp only [hc, hq, hk, ht, hs, Bool.true_eq_false, Bool.false_eq_true, if_false]
  | free b =>
    rw [tryHead_free hq hk] at hs
    cases hs

/-- A site whose array queue is refused its head: halted and empty, ANCHOR_FAULT set where the syllable names. -/
def Site.refused (c : Site) (e : EngNo) (op : ArrayOp) (code : BitVec 6) : Site :=
  (c.modEng e fun g => { g with arrayQ := [], arrayHalted := true }).modEng op.named fun g =>
    { g with flushReg := anchorFlag code g.flushReg }

theorem refused_eng (c : Site) : flushOnly { c.eng e with arrayQ := [], arrayHalted := true } ((c.refused e op code).eng e) := by
  unfold Site.refused
  by_cases h : e = op.named
  · subst h
    rw [Site.eng_modEng_same, Site.eng_modEng_same]
    exact ⟨_, rfl⟩
  · rw [Site.eng_modEng_other _ _ h, Site.eng_modEng_same]
    exact .refl _

theorem refused_other (c : Site) {x : EngNo} (hx : x ≠ e) : flushOnly (c.eng x) ((c.refused e op code).eng x) := by
  unfold Site.refused
  by_cases h : x = op.named
  · subst h
    rw [Site.eng_modEng_same, Site.eng_modEng_other _ _ hx]
    exact ⟨_, rfl⟩
  · rw [Site.eng_modEng_other _ _ h, Site.eng_modEng_other _ _ hx]
    exact .refl _

/-- What an exception leaves of a site that is not idle, and the fields of CORE_EXC it sets (Table 5.16). -/
theorem excStopped_spec {c : Site} (h : c.seq ≠ .idle) (k : Nat) (b : BitVec 16) (info : Word32) :
    let c' := (c.recordExc code k b info).stop
    c' = { c with seq := .stopped, exc := c'.exc, excInfo := c'.excInfo } ∧
      (c.exc.getLsbD 31 = false → c'.exc.getLsbD 31 = true ∧ c'.exc.extractLsb' 24 6 = code ∧
        c'.exc.extractLsb' 21 3 = BitVec.ofNat 3 k ∧ c'.exc.extractLsb' 0 16 = b) := by
  have hs : (c.recordExc code k b info).seq ≠ .idle := by
    unfold Site.recordExc
    split <;> exact h
  have hq : (c.recordExc code k b info).stop = { c.recordExc code k b info with seq := .stopped } := if_neg hs
  dsimp only
  rw [hq]
  refine ⟨?_, fun hv => ?_⟩
  · unfold Site.recordExc
    split <;> rfl
  · simp only [Site.recordExc, hv, Bool.false_eq_true, if_false]
    exact excWord_fields code (BitVec.ofNat 3 k) b

/-- A refused operation leaves of its core all but the engines, the sequencer and its exception. -/
theorem refused_site {c d : Site}
    (h : d = { c.refused e op code with seq := .stopped, exc := d.exc, excInfo := d.excInfo }) :
    d = { c with engines := d.engines, seq := .stopped, exc := d.exc, excInfo := d.excInfo } := by
  generalize d.exc = x, d.excInfo = i at h
  subst h
  rfl

/-- A refused operation halts and empties its queue, stops the core and raises its exception. -/
theorem refuseArray_spec (hseq : (s.site n).seq ≠ .idle) :
    let t := s.refuseArray n e op code
    t = { s with sites := t.sites, flt := { s.flt with reports := t.flt.reports } } ∧
      (∀ m, m ≠ n → t.site m = s.site m) ∧
      t.site n = { s.site n with
        engines := (t.site n).engines, seq := .stopped, exc := (t.site n).exc, excInfo := (t.site n).excInfo } ∧
      ((t.site n).eng e).arrayQ = [] ∧ ((t.site n).eng e).arrayHalted = true ∧
      (∀ x, x ≠ e → ((t.site n).eng x).arrayQ = ((s.site n).eng x).arrayQ ∧
        ((t.site n).eng x).arrayHalted = ((s.site n).eng x).arrayHalted) ∧
      (∀ x, ((t.site n).eng x).feedQ = ((s.site n).eng x).feedQ ∧
        ((t.site n).eng x).latchQ = ((s.site n).eng x).latchQ ∧
        ((t.site n).eng x).banks = ((s.site n).eng x).banks) ∧
      ((s.site n).exc.getLsbD 31 = false →
        (t.site n).exc.getLsbD 31 = true ∧ (t.site n).exc.extractLsb' 24 6 = code ∧
        (t.site n).exc.extractLsb' 21 3 = BitVec.ofNat 3 op.slot ∧
        (t.site n).exc.extractLsb' 0 16 = op.bundle) ∧
      ∃ r ∈ t.flt.reports, r.2.site = some n ∧ r.2.detail = code.setWidth 32 := by
  have hsite : (s.refuseArray n e op code).site n =
      (((s.site n).refused e op code).recordExc code op.slot op.bundle (BitVec.ofNat 32 op.named.val)).stop := by
    have h := State.site_modSite_same s n fun c => c.refused e op code
    refine (State.site_modSite_same (s.modSite n fun c => c.refused e op code) n
      fun c => (c.recordExc code op.slot op.bundle (BitVec.ofNat 32 op.named.val)).stop).trans ?_
    rw [h]
  have hother (m : SiteNo) (h : m ≠ n) : (s.refuseArray n e op code).site m = s.site m :=
    (State.site_modSite_other (s.modSite n fun c => c.refused e op code)
      (fun c => (c.recordExc code op.slot op.bundle (BitVec.ofNat 32 op.named.val)).stop) h).trans
      (State.site_modSite_other s _ h)
  obtain ⟨hc, hexc⟩ := excStopped_spec (code := code) (c := (s.site n).refused e op code) hseq op.slot op.bundle
    (BitVec.ofNat 32 op.named.val)
  rw [← hsite] at hc hexc
  have heng (x : EngNo) : ((s.refuseArray n e op code).site n).eng x = ((s.site n).refused e op code).eng x :=
    (congrArg (fun d : Site => d.eng x) hc).trans rfl
  obtain ⟨w, hw⟩ := refused_eng (e := e) (op := op) (code := code) (s.site n)
  refine ⟨rfl, hother, refused_site hc, ?_, ?_, fun x hx => ?_, fun x => ?_, hexc, ⟨_, _⟩, mem_insertReport _ _ _, rfl, rfl⟩
  · rw [heng, hw]
  · rw [heng, hw]
  · obtain ⟨y, hy⟩ := refused_other (op := op) (code := code) (s.site n) hx
    rw [heng, hy]
    exact ⟨rfl, rfl⟩
  · rw [heng]
    by_cases hx : x = e
    · subst hx
      rw [hw]
      exact ⟨rfl, rfl, rfl⟩
    · obtain ⟨y, hy⟩ := refused_other (op := op) (code := code) (s.site n) hx
      rw [hy]
      exact ⟨rfl, rfl, rfl⟩

end

/-- Settles O21: a refused head of an array queue, and one that waits or is not granted. -/
theorem arrayRefusalsAndWaits : Obligations.ArrayRefusalsAndWaits := by
  unfold Obligations.ArrayRefusalsAndWaits
  refine ⟨fun s n e op q code hc hq ht hseq => ⟨_, issueRow_refuses hc hq ht, refuseArray_spec hseq⟩,
    fun s n e op q hc hq ht => ?_⟩
  rcases ht with ht | ⟨ht, hs⟩
  · exact issueRow_waits hc hq ht
  · exact issueRow_ungranted hc hq ht hs

/-! ### A FEED starts (R67, R129) -/

/-- A half that a FEED loads. -/
def Half.loadingNow (h : Half) : Half := { h with resident := false, loading := true, both := false }

/-- A half whose tile is gone. -/
def Half.gone (h : Half) : Half := { h with resident := false, both := false }

/-- An engine whose two halves have lost their tiles. -/
def Engine.halvesGone (g : Engine) : Engine := (g.setHalf false (g.half false).gone).setHalf true (g.half true).gone

/-- An engine that loads half fb. -/
def Engine.loads (g : Engine) (fb : Bool) : Engine := g.setHalf fb (g.half fb).loadingNow

/-- An engine whose halves a FEED is about to fill. -/
def Engine.fed (g : Engine) (o : FeedOp) : Engine :=
  let two := o.needsBoth || (g.half false).both
  let g := (if two then g.halvesGone else g).loads o.f.fb
  if o.needsBoth then g.loads true else g

/-- An engine that a FEED has entered. -/
def Engine.feedStart (g : Engine) (o : FeedOp) (q : List FeedOp) : Engine := { g.fed o with feedQ := q, feeding := some o }

section
variable {s : State} {n : SiteNo} {e : EngNo} {o : FeedOp} {q : List FeedOp}

theorem halvesGone_half (g : Engine) (p : Bool) : g.halvesGone.half p = (g.half p).gone := by
  unfold Engine.halvesGone
  cases p with
  | false => rw [Engine.half_setHalf_other _ _ (by decide), Engine.half_setHalf_same]
  | true => rw [Engine.half_setHalf_same]

theorem loads_same (g : Engine) (fb : Bool) : (g.loads fb).half fb = (g.half fb).loadingNow := Engine.half_setHalf_same _ _ _

theorem loads_other (g : Engine) {fb p : Bool} (h : p ≠ fb) : (g.loads fb).half p = g.half p := Engine.half_setHalf_other _ _ h

theorem loads_resident {g : Engine} {fb p : Bool} (h : (g.half p).resident = false) : ((g.loads fb).half p).resident = false := by
  by_cases hp : p = fb
  · subst hp; rw [loads_same]; rfl
  · rw [loads_other g hp]; exact h

theorem loads_loading {g : Engine} {fb p : Bool} (h : (g.half p).loading = true) : ((g.loads fb).half p).loading = true := by
  by_cases hp : p = fb
  · subst hp; rw [loads_same]; rfl
  · rw [loads_other g hp]; exact h

theorem fed_is (g : Engine) : g.fed o = { g with halves := (g.fed o).halves } := by
  unfold Engine.fed
  dsimp only
  split
  · split <;> rfl
  · split <;> rfl

theorem fed_loading (g : Engine) : ((g.fed o).half o.f.fb).loading = true := by
  unfold Engine.fed
  dsimp only
  split
  · refine loads_loading ?_
    rw [loads_same]; rfl
  · rw [loads_same]; rfl

theorem fed_resident (g : Engine) : ((g.fed o).half o.f.fb).resident = false := by
  unfold Engine.fed
  dsimp only
  split
  · refine loads_resident ?_
    rw [loads_same]; rfl
  · rw [loads_same]; rfl

/-- A FEED that takes both halves leaves neither resident. -/
theorem fed_both {g : Engine} (h : (o.needsBoth || (g.half false).both) = true) (p : Bool) : ((g.fed o).half p).resident = false := by
  have hg : ((g.halvesGone.loads o.f.fb).half p).resident = false :=
    loads_resident (by rw [halvesGone_half]; rfl)
  unfold Engine.fed
  dsimp only
  rw [h, if_pos rfl]
  split
  · exact loads_resident hg
  · exact hg

theorem fed_single {g : Engine} (hn : o.needsBoth = false) (hb : (g.half false).both = false) :
    (g.fed o).half (!o.f.fb) = g.half (!o.f.fb) := by
  unfold Engine.fed
  dsimp only
  rw [hn, hb]
  exact loads_other g (by cases o.f.fb <;> decide)

/-- A FEED that its halves do not hold up starts. -/
theorem feedStart_starts (hc : s.clocked n = true) (hq : ((s.site n).eng e).feedQ = o :: q)
    (hr : ((s.site n).eng e).retired = false) (hh : ((s.site n).eng e).feedHalted = false)
    (hf : ((s.site n).eng e).feeding = none) (hqu : (s.site n).quarantined = false) (hrf : o.refused = false)
    (hopen : (if o.needsBoth || (((s.site n).eng e).half false).both
      then ((s.site n).eng e).halfOpen false o.seq && ((s.site n).eng e).halfOpen true o.seq
      else ((s.site n).eng e).halfOpen o.f.fb o.seq) = true) :
    exec (.feedStart n e) s = .next (s.setSite n ((s.site n).setEng e (((s.site n).eng e).feedStart o q))) := by
  change execFeedStart _ _ _ = _
  unfold execFeedStart
  rw [if_neg (by rw [hc]; decide)]
  dsimp only
  rw [hq]
  dsimp only
  rw [if_neg (by rw [hr, hh, hf, hqu]; decide), if_neg (by rw [hrf]; decide), if_neg (by rw [hopen]; decide)]
  rfl

theorem feedStarted_frame : onlyEngine n e s (s.setSite n ((s.site n).setEng e (((s.site n).eng e).feedStart o q))) :=
  onlyEngine_setSite _

theorem feedStarted_spec (g : Engine) : let g' := g.feedStart o q
    g'.feedQ = q ∧ g'.feeding = some o ∧ g'.banks = g.banks ∧ g'.planes = g.planes := by
  unfold Engine.feedStart
  dsimp only
  rw [fed_is]
  exact ⟨rfl, rfl, rfl, rfl⟩

/-! ### A FEED ends (R67, R97, R145) -/

/-- An engine whose FEED is done. -/
def Engine.feedDone (g : Engine) (o : FeedOp) (bs : List Byte) : Engine :=
  let g := g.setHalf o.f.fb (o.half bs)
  { (if o.needsBoth then g.setHalf true { o.half bs with data := [], bytes := 0 } else g) with feeding := none }

theorem feedDone_ends (hc : s.clocked n = true) (hf : ((s.site n).eng e).feeding = some o) (off : BitVec 28) :
    exec (.feedDone n e .clean off) s = .next (s.setSite n (((s.site n).setEng e (((s.site n).eng e).feedDone o
      ((s.site n).wsRead o.off (feedBytes o.f o.m)))).signalOpt (tokOf o.f.tokEn o.f.tok))) := by
  change execFeedDone n e .clean off s = _
  unfold execFeedDone
  rw [if_neg (by rw [hc]; decide)]
  dsimp only
  rw [hf]
  rfl

theorem feedDone_half (g : Engine) (bs : List Byte) (h : o.needsBoth = true → o.f.fb = false) :
    (g.feedDone o bs).half o.f.fb = o.half bs := by
  unfold Engine.feedDone
  dsimp only
  by_cases hn : o.needsBoth = true
  · rw [if_pos hn]
    exact (Engine.half_setHalf_other (g.setHalf o.f.fb (o.half bs)) { o.half bs with data := [], bytes := 0 }
      (by rw [h hn]; decide)).trans (Engine.half_setHalf_same _ _ _)
  · rw [if_neg hn]
    exact Engine.half_setHalf_same g o.f.fb (o.half bs)

/-- Byte i of a half or a plane that a load filled is byte i of what it read. -/
theorem loaded_byte (m : Tab Byte) (a k : Nat) {i : Nat} (h : i < k) :
    tget (fun _ => 0) (bytesTab (tbytes (fun _ => 0) m a k)) i = tget (fun _ => 0) m (a + i) := by
  rw [tget_bytesTab, tbytes_getElem?, if_pos h]
  rfl

/-- The token that a load names is signalled, and else no token. -/
theorem tokenOf_spec (c : Site) (en : Bool) (k : BitVec 6) :
    (en = true → (c.signalOpt (tokOf en k)).tok k = BitVec.ofNat 16 (min 65535 ((c.tok k).toNat + 1))) ∧
      (en = false → (c.signalOpt (tokOf en k)).toks = c.toks) := by
  refine ⟨fun h => ?_, fun h => ?_⟩
  · subst h
    exact tok_signalOpt c k
  · subst h
    rfl

/-- A state in which an engine's work changed and a token was signalled. -/
theorem loaded_frame (g : Engine) (t : Option (BitVec 6)) :
    onlyEngines n s (s.setSite n (((s.site n).setEng e g).signalOpt t)) ∧
      (∀ x, x ≠ e → ((((s.site n).setEng e g).signalOpt t).eng x) = (s.site n).eng x) ∧
      (((s.site n).setEng e g).signalOpt t).eng e = g :=
  ⟨onlyEngines_setSite (by rw [besides_signalOpt, besides_setEng]),
    fun x hx => (eng_signalOpt _ _ _).trans (Site.eng_setEng_other _ _ hx),
    (eng_signalOpt _ _ _).trans (Site.eng_setEng_same _ _ _)⟩

/-- An engine whose FEED an uncorrectable word ended. -/
def Engine.unloaded (g : Engine) : Engine :=
  { (g.setHalf false { g.half false with loading := false }).setHalf true { g.half true with loading := false } with
    feeding := none }

theorem feedDone_lost (hc : s.clocked n = true) (hf : ((s.site n).eng e).feeding = some o) (off : BitVec 28) :
    exec (.feedDone n e .uncorrectable off) s =
      .next ((s.setSite n ((s.site n).setEng e ((s.site n).eng e).unloaded)).wsLost n off.toNat) := by
  change execFeedDone n e .uncorrectable off s = _
  unfold execFeedDone
  rw [if_neg (by rw [hc]; decide)]
  dsimp only
  rw [hf]
  rfl

/-- A count of uncorrectable words rises, and that of corrected ones stays (Table 4.16). -/
theorem eccUncorrectable_spec (w : Word32) : (eccUncorrectable w).extractLsb' 16 16 = w.extractLsb' 16 16 ∧
    ((eccUncorrectable w).extractLsb' 0 16).toNat = min 65535 ((w.extractLsb' 0 16).toNat + 1) := by
  have h : (eccUncorrectable w).extractLsb' 0 16 = satInc (w.extractLsb' 0 16) :=
    BitVec.extractLsb'_append_eq_right
  refine ⟨BitVec.extractLsb'_append_eq_left, ?_⟩
  rw [h]
  exact satInc16_toNat _

/-- A store whose read met an uncorrectable word: the core is stopped, recorded and told (R97, R158). -/
theorem wsLost_spec (u : State) (h : (u.site n).seq ≠ .idle) (a : Nat) :
    siteAndLog n u (u.wsLost n a) ∧
      (u.wsLost n a).site n = { u.site n with seq := .stopped, wsEcc := eccUncorrectable (u.site n).wsEcc } ∧
      (∃ r ∈ (u.wsLost n a).flt.buf, r.cls = 0x000A) ∧
      ∃ r ∈ (u.wsLost n a).flt.reports, r.2.cls = 0x000A ∧ r.2.site = some n := by
  obtain ⟨r, hr, hcls, -⟩ := report_mem ((u.modSite n fun c => { c with wsEcc := eccUncorrectable c.wsEcc }).modSite n Site.stop)
    0x000A n 0 (BitVec.ofNat 64 a)
  obtain ⟨p, hp, hpc, hps, -⟩ := tell_has (((u.modSite n fun c => { c with wsEcc := eccUncorrectable c.wsEcc }).modSite n
    Site.stop).fault 0x000A (some n) 0 (BitVec.ofNat 64 a)) 0x000A (some n) 0 (BitVec.ofNat 64 a)
  refine ⟨wsLost_siteAndLog a, ?_, ⟨r, hr, hcls⟩, p, hp, hpc, hps⟩
  rw [State.wsLost, hwFault_site, State.site_modSite_same]
  exact if_neg h

end

/-! ### A LATCH starts and ends (R65, R76, R129, R145) -/

/-- The shadow plane that a LATCH loads. -/
def Plane.latchingNow (p : Plane) : Plane := { p with latched := false, latching := true, metaOk := true }

/-- An engine that a LATCH has entered. -/
def Engine.latchStart (g : Engine) (o : LatchOp) (q : List LatchOp) : Engine :=
  { g.setPlane (!g.active) g.shadow.latchingNow with latchQ := q, latchingOp := some o, latchRefill := false }

/-- An engine whose LATCH is done. -/
def Engine.latchDone (g : Engine) (p : Plane) : Engine :=
  { g.setPlane (!g.active) p with latchingOp := none, latchRefill := false }

section
variable {s : State} {n : SiteNo} {e : EngNo} {o : LatchOp} {q : List LatchOp}

/-- An engine that no replay uses has its shadow plane lent to none. -/
theorem planeLent_of_replaysOn {c : Site} (h : c.replaysOn e = false) : c.planeLent e = false := by
  unfold Site.planeLent
  cases hv : c.vote with
  | none => rfl
  | some v =>
    have hr : decide (v.replay = e) = false := by
      unfold Site.replaysOn at h
      rw [hv] at h
      exact h
    dsimp only
    rw [hr, Bool.false_and]

theorem latchStart_starts (hc : s.clocked n = true) (hq : ((s.site n).eng e).latchQ = o :: q)
    (hr : ((s.site n).eng e).retired = false) (hl : ((s.site n).eng e).latchingOp = none)
    (hqu : (s.site n).quarantined = false) (hs : ((s.site n).eng e).swapsBefore o.seq = false)
    (hh : ((s.site n).eng e).shadow.holders = 0) (hv : (s.site n).replaysOn e = false)
    (hre : ((s.site n).eng e).restoring = none) :
    exec (.latchStart n e) s = .next (s.setSite n ((s.site n).setEng e (((s.site n).eng e).latchStart o q))) := by
  change execLatchStart n e s = _
  unfold execLatchStart
  rw [if_neg (by rw [hc]; decide)]
  dsimp only
  rw [hq]
  dsimp only
  rw [if_neg (by rw [hr, hl, hqu, hs, hh, planeLent_of_replaysOn hv, hre]; decide)]
  rfl

theorem latchStarted_spec (g : Engine) : let g' := g.latchStart o q
    g'.latchQ = q ∧ g'.latchingOp = some o ∧ g'.active = g.active ∧ g'.shadow.latching = true ∧
      g'.shadow.latched = false ∧ g'.plane g.active = g.plane g.active ∧ g'.halves = g.halves ∧ g'.banks = g.banks := by
  have hs : (g.latchStart o q).shadow = g.shadow.latchingNow :=
    Engine.plane_setPlane_same g (!g.active) g.shadow.latchingNow
  have ha : (g.latchStart o q).plane g.active = g.plane g.active :=
    Engine.plane_setPlane_other g g.shadow.latchingNow (by simp)
  dsimp only
  rw [hs, ha]
  exact ⟨rfl, rfl, rfl, rfl, rfl, rfl, rfl, rfl⟩

/-- What a LATCH reads. -/
def LatchOp.reads (o : LatchOp) (c : Site) : List Byte :=
  tbytes (fun _ => 0) (if o.f.fromWs then c.ws else c.gran) o.off (weightBytes o.f.wfmt o.f.wscl o.f.sparse)

theorem latchDone_ends (hc : s.clocked n = true) (hl : ((s.site n).eng e).latchingOp = some o)
    (hr : o.f.fromWs = true ∨ (s.site n).refilling o.off (weightBytes o.f.wfmt o.f.wscl o.f.sparse) = false)
    (off : BitVec 30) : exec (.latchDone n e .clean off) s = .next (s.setSite n
      (((s.site n).setEng e (((s.site n).eng e).latchDone (o.plane (o.reads (s.site n))))).signalOpt
        (tokOf o.f.tokEn o.f.tok))) := by
  have hread : (if o.f.fromWs then (s.site n).wsRead o.off (weightBytes o.f.wfmt o.f.wscl o.f.sparse)
      else (s.site n).granRead o.off (weightBytes o.f.wfmt o.f.wscl o.f.sparse)) = o.reads (s.site n) := by
    unfold LatchOp.reads
    split <;> rfl
  change execLatchDone n e .clean off s = _
  unfold execLatchDone
  rw [if_neg (by rw [hc]; decide)]
  dsimp only
  rw [hl]
  dsimp only
  rw [if_neg (by rcases hr with h | h <;> simp [h]), hread]
  rfl

theorem latchDone_spec (g : Engine) (c : Site) : let g' := g.latchDone (o.plane (o.reads c))
    let p := g'.shadow
    g'.latchingOp = none ∧ g'.active = g.active ∧ g'.plane g.active = g.plane g.active ∧ p.latched = true ∧
      p.latching = false ∧ p.wfmt = o.f.wfmt ∧ p.wscl = o.f.wscl ∧ p.sparse = o.f.sparse ∧
      (o.f.sparse = false → p.metaOk = true) ∧
      (∀ i, i < weightBytes o.f.wfmt o.f.wscl o.f.sparse →
        p.byte i = tget (fun _ => 0) (if o.f.fromWs then c.ws else c.gran) (o.off + i)) := by
  have hs : (g.latchDone (o.plane (o.reads c))).shadow = o.plane (o.reads c) :=
    Engine.plane_setPlane_same g (!g.active) (o.plane (o.reads c))
  have ha : (g.latchDone (o.plane (o.reads c))).plane g.active = g.plane g.active :=
    Engine.plane_setPlane_other g (o.plane (o.reads c)) (by simp)
  dsimp only
  rw [hs, ha]
  refine ⟨rfl, rfl, rfl, rfl, rfl, rfl, rfl, rfl, fun h => ?_, fun i hi => loaded_byte _ _ _ hi⟩
  unfold LatchOp.plane
  dsimp only
  rw [h]
  rfl

end

/-- What an uncorrectable word leaves of a core whose FEED it ended. -/
theorem feedLost_spec {s : State} {n : SiteNo} (e : EngNo) (hseq : (s.site n).seq ≠ .idle) (off : BitVec 28) :
    let t := (s.setSite n ((s.site n).setEng e ((s.site n).eng e).unloaded)).wsLost n off.toNat
    t = { s with sites := t.sites, flt := t.flt, jrnl := t.jrnl } ∧ (∀ m, m ≠ n → t.site m = s.site m) ∧
      let c := s.site n
      let c' := t.site n
      let g' := c'.eng e
      g'.feeding = none ∧ c'.seq = .stopped ∧ c'.toks = c.toks ∧ c'.ws = c.ws ∧
      c'.wsEcc.extractLsb' 16 16 = c.wsEcc.extractLsb' 16 16 ∧
      (c'.wsEcc.extractLsb' 0 16).toNat = min 65535 ((c.wsEcc.extractLsb' 0 16).toNat + 1) ∧
      (∃ r ∈ t.flt.buf, r.cls = 0x000A) ∧ ∃ r ∈ t.flt.reports, r.2.cls = 0x000A ∧ r.2.site = some n := by
  have hu := State.site_setSite_same s n ((s.site n).setEng e ((s.site n).eng e).unloaded)
  obtain ⟨⟨hlog, hsites⟩, hsite, hrec, hrep⟩ := wsLost_spec (n := n)
    (s.setSite n ((s.site n).setEng e ((s.site n).eng e).unloaded)) (by rw [hu]; exact hseq) off.toNat
  have he : ((s.site n).setEng e ((s.site n).eng e).unloaded).eng e = ((s.site n).eng e).unloaded := Site.eng_setEng_same _ _ _
  obtain ⟨hhi, hlo⟩ := eccUncorrectable_spec (s.site n).wsEcc
  rw [hu] at hsite
  refine ⟨hlog.trans rfl, fun m hm => (hsites m hm).trans (State.site_setSite_other _ _ hm), ?_⟩
  dsimp only
  rw [hsite]
  exact ⟨congrArg Engine.feeding he, rfl, rfl, rfl, hhi, hlo, hrec, hrep⟩

/-- Settles O22: FEEDs and LATCHes start, end, and meet an uncorrectable word. -/
theorem feedsAndLatches : Obligations.FeedsAndLatches := by
  unfold Obligations.FeedsAndLatches
  refine ⟨fun s n e o q hc hq hr hh hf hqu hrf hn hb hopen =>
      ⟨_, feedStart_starts hc hq hr hh hf hqu hrf (by rw [hn, hb]; exact hopen), feedStarted_frame, ?_⟩,
    fun s n e o q hc hq hr hh hf hqu hrf htwo h0 h1 => ?_,
    fun s n e o off hc hf hn => ⟨_, feedDone_ends hc hf off, ?_⟩,
    fun s n e o off hc hf hseq => ⟨_, feedDone_lost hc hf off, feedLost_spec e hseq off⟩,
    fun s n e o q hc hq hr hl hqu hs hh hv hre =>
      ⟨_, latchStart_starts hc hq hr hl hqu hs hh hv hre, onlyEngine_setSite _, ?_⟩,
    fun s n e o off hc hl hr => ⟨_, latchDone_ends hc hl hr off, ?_⟩⟩
  · rw [State.site_setSite_same]
    dsimp only
    rw [Site.eng_setEng_same]
    obtain ⟨h1, h2, h3, h4⟩ := feedStarted_spec (o := o) (q := q) ((s.site n).eng e)
    exact ⟨h1, h2, fed_resident _, fed_loading _, fed_single hn hb, h3, h4⟩
  · have hb : (o.needsBoth || (((s.site n).eng e).half false).both) = true := by rcases htwo with h | h <;> simp [h]
    refine ⟨_, feedStart_starts hc hq hr hh hf hqu hrf (by rw [hb, if_pos rfl, h0, h1]; rfl), feedStarted_frame, ?_⟩
    rw [State.site_setSite_same]
    dsimp only
    rw [Site.eng_setEng_same]
    obtain ⟨h1, h2, h3, h4⟩ := feedStarted_spec (o := o) (q := q) ((s.site n).eng e)
    exact ⟨h1, h2, fed_both hb false, fed_both hb true, fed_loading _, h3, h4⟩
  · obtain ⟨hfr, ho, he⟩ := loaded_frame (s := s) (n := n) (e := e)
      (((s.site n).eng e).feedDone o ((s.site n).wsRead o.off (feedBytes o.f o.m))) (tokOf o.f.tokEn o.f.tok)
    obtain ⟨ht, ht'⟩ := tokenOf_spec ((s.site n).setEng e (((s.site n).eng e).feedDone o
      ((s.site n).wsRead o.off (feedBytes o.f o.m)))) o.f.tokEn o.f.tok
    have hhalf := feedDone_half ((s.site n).eng e) ((s.site n).wsRead o.off (feedBytes o.f o.m)) hn
    refine ⟨hfr, ?_⟩
    rw [State.site_setSite_same]
    dsimp only
    rw [he, hhalf]
    exact ⟨ho, rfl, rfl, rfl, rfl, rfl, rfl, rfl, fun h => by unfold FeedOp.half; rw [h]; rfl,
      fun i hi => loaded_byte _ _ _ hi, ht, ht'⟩
  · rw [State.site_setSite_same]
    dsimp only
    rw [Site.eng_setEng_same]
    exact latchStarted_spec _
  · obtain ⟨hfr, ho, he⟩ := loaded_frame (s := s) (n := n) (e := e)
      (((s.site n).eng e).latchDone (o.plane (o.reads (s.site n)))) (tokOf o.f.tokEn o.f.tok)
    obtain ⟨ht, ht'⟩ := tokenOf_spec ((s.site n).setEng e (((s.site n).eng e).latchDone (o.plane (o.reads (s.site n)))))
      o.f.tokEn o.f.tok
    refine ⟨hfr, ?_⟩
    rw [State.site_setSite_same]
    dsimp only
    rw [he]
    obtain ⟨h1, h2, h3, h4, h5, h6, h7, h8, h9, h10⟩ := latchDone_spec (o := o) ((s.site n).eng e) (s.site n)
    exact ⟨ho, h1, h2, h3, h4, h5, h6, h7, h8, h9, h10, ht, ht'⟩

end Sys2Proof.Machine
end

section
/-!
PROOF. Scrub, refresh and refill of a core's stores, and copies that start and complete (R88, R97 to R100, R104 to R107, R227, R239).
-/

namespace Sys2Proof.Machine

/-! ### Scrub of the program store and the working store (R88, R97) -/

section
variable {s : State} {n : SiteNo}

/-- A site whose scrub position has moved on by one bundle. -/
def Site.psScrubbed (c : Site) : Site := { c with psScrubAt := c.psScrubAt + 1 }

/-- A site that knows a bundle to be bad. -/
def Site.psBadAt (c : Site) (a : BitVec 16) : Site := { c with psBad := a :: c.psBad.filter fun b => decide (b ≠ a) }

theorem psScrub_of (hc : s.clocked n = true) (ecc : EccObs) : exec (.psScrub n ecc) s =
    (let u := s.modSite n Site.psScrubbed
     match ecc with
     | .clean => .next u
     | .corrected => .next (u.psFixed n (s.site n).psScrubAt)
     | .uncorrectable =>
       let v := u.modSite n fun c => c.psBadAt (s.site n).psScrubAt
       if (v.site n).seq = .running ∧ (v.site n).pc = (s.site n).psScrubAt then
         .next (v.psLost n (s.site n).psScrubAt)
       else .next (v.modSite n fun c => { c with psEcc := eccUncorrectable c.psEcc })) := by
  change execPsScrub n ecc s = _
  unfold execPsScrub
  rw [if_neg (by rw [hc]; decide)]
  rfl

theorem psScrub_clean (hc : s.clocked n = true) : completes (.psScrub n .clean) s fun t => onlySite n s t ∧
    t.site n = { s.site n with psScrubAt := (s.site n).psScrubAt + 1 } :=
  ⟨_, psScrub_of hc .clean, onlySite_modSite s n _, State.site_modSite_same s n _⟩

theorem psScrub_corrected (hc : s.clocked n = true) : completes (.psScrub n .corrected) s fun t => siteAndLog n s t ∧
    t.flt.reports = s.flt.reports ∧ t.site n =
      { s.site n with psScrubAt := (s.site n).psScrubAt + 1, psEcc := eccCorrected (s.site n).psEcc } := by
  refine ⟨_, psScrub_of hc .corrected, siteAndLog_trans (onlySite_siteAndLog (onlySite_modSite s n _))
    (siteAndLog_trans (onlySite_siteAndLog (onlySite_modSite _ n _)) (corrected_siteAndLog _ n _ _)), rfl, ?_⟩
  rw [psFixed_site, State.site_modSite_same]
  rfl

/-- A bundle that would not be issued next is only known bad (R88). -/
theorem psScrub_bad (hc : s.clocked n = true) (h : ¬((s.site n).seq = .running ∧ (s.site n).pc = (s.site n).psScrubAt)) :
    completes (.psScrub n .uncorrectable) s fun t => onlySite n s t ∧
      t.site n = { s.site n with psScrubAt := (s.site n).psScrubAt + 1, psEcc := eccUncorrectable (s.site n).psEcc,
                                 psBad := (t.site n).psBad } ∧ (s.site n).psScrubAt ∈ (t.site n).psBad := by
  have hs : (((s.modSite n Site.psScrubbed).modSite n fun c => c.psBadAt (s.site n).psScrubAt).modSite n
      fun c => { c with psEcc := eccUncorrectable c.psEcc }).site n =
      { (s.site n).psScrubbed.psBadAt (s.site n).psScrubAt with psEcc := eccUncorrectable (s.site n).psEcc } := by
    rw [State.site_modSite_same, State.site_modSite_same, State.site_modSite_same]
    rfl
  refine ⟨_, (psScrub_of hc .uncorrectable).trans (if_neg ?_), onlySite_trans (onlySite_trans (onlySite_modSite s n _)
    (onlySite_modSite _ n _)) (onlySite_modSite _ n _), ?_, ?_⟩
  · rw [State.site_modSite_same, State.site_modSite_same]
    exact h
  · rw [hs]
    rfl
  · rw [hs]
    exact List.mem_cons_self

/-- A bundle that would be issued next stops the core (R88). -/
theorem psScrub_stops (hr : (s.site n).seq = .running) (hp : (s.site n).pc = (s.site n).psScrubAt)
    (hc : s.clocked n = true) :
    completes (.psScrub n .uncorrectable) s fun t => siteAndLog n s t ∧ logged s t 0x0009 ∧
      told s t 0x0009 (some n) ∧ (t.site n).seq = .stopped ∧
      (t.site n).psEcc = eccUncorrectable (s.site n).psEcc ∧ (s.site n).pc ∈ (t.site n).psBad := by
  have hs : ((s.modSite n Site.psScrubbed).modSite n fun c => c.psBadAt (s.site n).psScrubAt).site n =
      (s.site n).psScrubbed.psBadAt (s.site n).psScrubAt := by
    rw [State.site_modSite_same, State.site_modSite_same]
  have hl : onlySite n s ((s.modSite n Site.psScrubbed).modSite n fun c => c.psBadAt (s.site n).psScrubAt) :=
    onlySite_trans (onlySite_modSite s n _) (onlySite_modSite _ n _)
  have he := psScrub_of hc .uncorrectable
  have hg : ((s.modSite n Site.psScrubbed).modSite n fun c => c.psBadAt (s.site n).psScrubAt).flt = s.flt := rfl
  dsimp only at he
  generalize (s.modSite n Site.psScrubbed).modSite n (fun c => c.psBadAt (s.site n).psScrubAt) = v at hs hl he hg
  rw [if_pos (by rw [hs]; exact ⟨hr, hp⟩)] at he
  have hv : (v.psLost n (s.site n).psScrubAt).site n = _ := psLost_site (by rw [hs]; exact hr) _
  refine ⟨_, he, siteAndLog_trans (onlySite_siteAndLog hl) (psLost_siteAndLog _), (hwFault_told (u := v.modSite n _) hg n _ _ _).1,
    (hwFault_told (u := v.modSite n _) hg n _ _ _).2, ?_⟩
  rw [hv, hs, hp]
  exact ⟨rfl, rfl, List.mem_cons_self⟩

theorem wsScrub_of (hc : s.clocked n = true) (off : BitVec 28) (ecc : EccObs) : exec (.wsScrub n off ecc) s =
    (match ecc with
     | .clean => .next s
     | .corrected => .next (s.wsFixed n off.toNat)
     | .uncorrectable => .next (s.wsLost n off.toNat)) :=
  if_neg (by rw [hc]; decide)

theorem wsScrub_checks (hc : s.clocked n = true) (off : BitVec 28) :
    completes (.wsScrub n off .clean) s (· = s) ∧
    (completes (.wsScrub n off .corrected) s fun t => siteAndLog n s t ∧ t.flt.reports = s.flt.reports ∧
      t.site n = { s.site n with wsEcc := eccCorrected (s.site n).wsEcc }) ∧
    (completes (.wsScrub n off .uncorrectable) s fun t => siteAndLog n s t ∧ logged s t 0x000A ∧
      told s t 0x000A (some n) ∧
      t.site n = Site.stop { s.site n with wsEcc := eccUncorrectable (s.site n).wsEcc }) := by
  refine ⟨⟨_, wsScrub_of hc off .clean, rfl⟩, ⟨_, wsScrub_of hc off .corrected, siteAndLog_trans
    (onlySite_siteAndLog (onlySite_modSite s n _)) (corrected_siteAndLog _ n _ _), rfl, wsFixed_site _⟩,
    ⟨_, wsScrub_of hc off .uncorrectable, wsLost_siteAndLog _, (hwFault_told rfl n _ _ _).1, (hwFault_told rfl n _ _ _).2, ?_⟩⟩
  rw [State.wsLost, hwFault_site, State.site_modSite_same]

/-! ### Refresh of the granary (R99) -/

theorem needRefill_mem (c : Site) (off : Nat) : off / 4096 ∈ (c.needRefill off).refills := by
  unfold Site.needRefill
  dsimp only
  split
  next h => exact List.contains_iff_mem.1 h
  next => exact List.mem_append_right _ (List.mem_singleton.2 rfl)

theorem needRefill_keeps (c : Site) (off : Nat) : (c.needRefill off).granEcc = eccUncorrectable c.granEcc ∧
    (∀ b ∈ c.refills, b ∈ (c.needRefill off).refills) ∧ (c.needRefill off).gran = c.gran := by
  unfold Site.needRefill
  dsimp only
  split
  · exact ⟨rfl, fun _ h => h, rfl⟩
  · exact ⟨rfl, fun _ h => List.mem_append_left _ h, rfl⟩

theorem granaryRefresh_of (hd : s.isDark (fieldOfSite n) = false) (off : BitVec 30) (ecc : EccObs) :
    exec (.granaryRefresh n off ecc) s = (match ecc with
      | .clean => .next s
      | .corrected => .next (s.granFixed n off.toNat)
      | .uncorrectable => .next (s.modSite n fun c => c.needRefill off.toNat)) :=
  if_neg (by rw [hd]; decide)

theorem granaryRefresh_checks (hd : s.isDark (fieldOfSite n) = false) (off : BitVec 30) :
    completes (.granaryRefresh n off .clean) s (· = s) ∧
    completes (.granaryRefresh n off .uncorrectable) s fun t => onlySite n s t ∧
      off.toNat / 4096 ∈ (t.site n).refills ∧ (t.site n).granEcc = eccUncorrectable (s.site n).granEcc ∧
      (∀ b ∈ (s.site n).refills, b ∈ (t.site n).refills) ∧ (t.site n).gran = (s.site n).gran := by
  refine ⟨⟨_, granaryRefresh_of hd off .clean, rfl⟩, _, granaryRefresh_of hd off .uncorrectable, onlySite_modSite s n _, ?_⟩
  rw [State.site_modSite_same]
  exact ⟨needRefill_mem _ _, needRefill_keeps _ _⟩

end

/-! ### What ECC found in GDDR7 (R226) -/

section
variable {s : State} {n : SiteNo}

/-- Only the memory sites' words and the log may differ. -/
def memSitesAndLog (s t : State) : Prop :=
  t = { s with mem := { s.mem with sites := t.mem.sites }, flt := t.flt, jrnl := t.jrnl }

theorem memEcc_frame (s : State) (ms : MemNo) (ch : Fin 4) (a : Nat) (e : EccObs) (b : Bool) :
    memSitesAndLog s (s.memEcc ms ch a e b) := by
  cases e <;> rfl

theorem ddrEcc_frame (s : State) (a : Nat) (e : EccObs) : memSitesAndLog s (s.ddrEcc a e) := memEcc_frame s _ _ _ e _

theorem ddrEcc_reports (s : State) (a : Nat) (e : EccObs) : (s.ddrEcc a e).flt.reports = s.flt.reports := by
  cases e <;> rfl

theorem ddrEcc_corrected (s : State) (a : Nat) :
    ((s.ddrEcc a .corrected).msite (memOf s (s.page (a / 8388608)).field a)).ecc =
      eccCorrected (s.msite (memOf s (s.page (a / 8388608)).field a)).ecc :=
  congrArg MemSite.ecc (State.msite_modMsite_same s (memOf s (s.page (a / 8388608)).field a)
    fun m => { m with ecc := eccCorrected m.ecc })

theorem ddrEcc_uncorrectable (s : State) (a : Nat) :
    ((s.ddrEcc a .uncorrectable).msite (memOf s (s.page (a / 8388608)).field a)).ecc =
      eccUncorrectable (s.msite (memOf s (s.page (a / 8388608)).field a)).ecc :=
  congrArg MemSite.ecc (State.msite_modMsite_same s (memOf s (s.page (a / 8388608)).field a)
    fun m => { m with ecc := eccUncorrectable m.ecc })

theorem record_last (s : State) (r : FaultRec) : ∃ q, (s.record r).flt.buf.getLast? = some q ∧ q.cls = r.cls := by
  refine ⟨_, List.getLast?_concat, ?_⟩
  split
  · split <;> rfl
  · rfl

/-- The record that stood last is kept by the next one (R423). -/
theorem record_keepsLast {s : State} {q : FaultRec} (h : s.flt.buf.getLast? = some q) (r : FaultRec) :
    q ∈ (s.record r).flt.buf := by
  refine List.mem_append_left _ ?_
  split
  next hf =>
    refine List.mem_of_getLast? (?_ : (s.flt.buf.drop 1).getLast? = some q)
    rw [List.getLast?_drop, if_neg (by have := of_decide_eq_true hf; omega)]
    exact h
  next => exact List.mem_of_getLast? h

theorem ddrEcc_recorded (s : State) (a : Nat) :
    ∃ q, (s.ddrEcc a .uncorrectable).flt.buf.getLast? = some q ∧ q.cls = 0x0202 := record_last _ _

/-! ### The end of a refill (R99, R226, R235) -/

/-- Granary block of an offset. -/
abbrev granBlock (off : BitVec 30) : Nat := off.toNat / 4096

/-- Address at which the mirror holds a block of a core's granary. -/
abbrev Site.mirrorAt (c : Site) (b : Nat) : Nat := mirrorFirst c.mirror * 8388608 + b * 4096

/-- A site one of whose granary blocks waits for its refill no more. -/
def Site.refillOver (c : Site) (b : Nat) : Site := { c with refills := c.refills.filter fun x => decide (x ≠ b) }

/-- A site one of whose granary blocks has taken the bytes of its mirror. -/
def Site.refilled (c : Site) (b : Nat) (bs : List Byte) : Site :=
  ((c.refillOver b).granWrite (b * 4096) bs).modEngs fun g => { g with latchRefill := false }

/-- A granary block whose mirror holds it: VALID, inside its pages, and the page in service. -/
def State.mirrored (s : State) (n : SiteNo) (b : Nat) : Bool :=
  mirrorValid (s.site n).mirror && decide (b * 4096 < mirrorPages (s.site n).mirror * 8388608) &&
    (s.page ((s.site n).mirrorAt b / 8388608)).valid

theorem refillDone_of {off : BitVec 30} (h : granBlock off ∈ (s.site n).refills) (e : EccObs) :
    exec (.granaryRefillDone n off e) s =
      (let b := granBlock off
       let u := if s.mirrored n b = true then s.ddrEcc (mirrorFirst (s.site n).mirror * 8388608 + off.toNat) e else s
       if (!s.mirrored n b || decide (e = .uncorrectable)) = true then
         .next ((u.setSite n ((s.site n).refillOver b)).hwFault n 0x000D 0 (BitVec.ofNat 64 (b * 4096)))
       else
         .next (((u.setSite n ((s.site n).refilled b (u.ddrRead ((s.site n).mirrorAt b) 4096))).fault 0x000C (some n) 0
           (BitVec.ofNat 64 (b * 4096))).pumpSite n)) := by
  change execGranaryRefillDone n off e s = _
  unfold execGranaryRefillDone
  dsimp only
  rw [if_neg (by rw [List.contains_iff_mem.2 h]; decide)]
  rfl

theorem refillOver_gone (c : Site) (b : Nat) : b ∉ (c.refillOver b).refills := fun h => by
  simpa using (List.mem_filter.1 h).2

theorem refilled_is (c : Site) (b : Nat) (bs : List Byte) : b ∉ (c.refilled b bs).refills ∧
    (c.refilled b bs).gran = tput (fun _ => 0) c.gran (b * 4096) bs ∧ (c.refilled b bs).ws = c.ws ∧
    (c.refilled b bs).seq = c.seq ∧ ∀ q, (c.refilled b bs).queue q = c.queue q := by
  unfold Site.refilled
  rw [modEngs_is]
  exact ⟨refillOver_gone c b, rfl, rfl, rfl, fun q => rfl⟩

/-- A core with no copy under way offers no request. -/
theorem pumpSite_idle {u : State} (h : ∀ q, ((u.site n).queue q).flight = []) : u.pumpSite n = u := by
  refine foldl_still _ fun q _ => foldl_still _ fun i _ => ?_
  have hf : (u.site n).flightAt q i = none := by
    unfold Site.flightAt
    rw [h q]
    rfl
  unfold State.pump
  rw [hf]

/-- A block that its mirror does not hold, or holds beyond ECC, is lost (R99, R235). -/
theorem refill_lost {off : BitVec 30} (h : granBlock off ∈ (s.site n).refills) (hm : s.mirrored n (granBlock off) = false)
    (e : EccObs) : completes (.granaryRefillDone n off e) s fun t => siteAndLog n s t ∧ logged s t 0x000D ∧
      told s t 0x000D (some n) ∧ granBlock off ∉ (t.site n).refills ∧ (t.site n).gran = (s.site n).gran ∧
      ((s.site n).seq ≠ .idle → (t.site n).seq = .stopped) := by
  have he := refillDone_of h e
  dsimp only at he
  simp only [hm, Bool.not_false, Bool.true_or, Bool.false_eq_true, if_true, if_false] at he
  have hs := hwFault_site (s.setSite n ((s.site n).refillOver (granBlock off))) n 0x000D 0
    (BitVec.ofNat 64 (granBlock off * 4096))
  rw [State.site_setSite_same] at hs
  have hl : siteAndLog n s (s.setSite n ((s.site n).refillOver (granBlock off))) :=
    ⟨rfl, fun _ hm => State.site_setSite_other s _ hm⟩
  have ht := hwFault_told (s := s) (u := s.setSite n ((s.site n).refillOver (granBlock off))) rfl n 0x000D 0
    (BitVec.ofNat 64 (granBlock off * 4096))
  refine ⟨_, he, siteAndLog_trans hl (hwFault_siteAndLog _ n _ _ _), ht.1, ht.2, ?_⟩
  rw [hs]
  refine ⟨?_, ?_, fun hq => stop_stops hq⟩
  · unfold Site.stop
    split <;> exact refillOver_gone _ _
  · unfold Site.stop
    split <;> rfl

theorem mirrored_iff {off : BitVec 30} (hv : mirrorValid (s.site n).mirror = true)
    (hp : granBlock off * 4096 < mirrorPages (s.site n).mirror * 8388608)
    (hpg : (s.page ((s.site n).mirrorAt (granBlock off) / 8388608)).valid = true) :
    s.mirrored n (granBlock off) = true := by
  unfold State.mirrored
  rw [hv, decide_eq_true hp, hpg]
  rfl

theorem not_mirrored {b : Nat} (h : mirrorValid (s.site n).mirror = false ∨
    mirrorPages (s.site n).mirror * 8388608 ≤ b * 4096 ∨ (s.page ((s.site n).mirrorAt b / 8388608)).valid = false) :
    s.mirrored n b = false := by
  unfold State.mirrored
  rcases h with h | h | h
  · rw [h]
    rfl
  · rw [decide_eq_false (Nat.not_lt.2 h), Bool.and_false]
    rfl
  · rw [h, Bool.and_false]

/-- The page of an address in a block is that of the block's first byte. -/
theorem mirror_page (c : Site) (off : BitVec 30) :
    (mirrorFirst c.mirror * 8388608 + off.toNat) / 8388608 = c.mirrorAt (granBlock off) / 8388608 := by
  unfold Site.mirrorAt granBlock
  omega

/-- The state once the words of a refill have been checked. -/
def State.refillChecked (s : State) (n : SiteNo) (off : BitVec 30) (e : EccObs) : State :=
  s.ddrEcc (mirrorFirst (s.site n).mirror * 8388608 + off.toNat) e

theorem refillChecked_frame (off : BitVec 30) (e : EccObs) : memSitesAndLog s (s.refillChecked n off e) :=
  ddrEcc_frame s _ e

theorem refillChecked_site (off : BitVec 30) (e : EccObs) (m : SiteNo) : (s.refillChecked n off e).site m = s.site m :=
  (congrArg (fun u : State => u.site m) (refillChecked_frame off e)).trans rfl

theorem refillChecked_ddr (off : BitVec 30) (e : EccObs) (a k : Nat) :
    (s.refillChecked n off e).ddrRead a k = s.ddrRead a k :=
  (congrArg (fun u : State => u.ddrRead a k) (refillChecked_frame off e)).trans rfl

theorem refill_taken {off : BitVec 30} {e : EccObs} (h : granBlock off ∈ (s.site n).refills)
    (hm : s.mirrored n (granBlock off) = true) (he : e ≠ .uncorrectable) (hq : ∀ q, ((s.site n).queue q).flight = []) :
    exec (.granaryRefillDone n off e) s = .next (((s.refillChecked n off e).setSite n ((s.site n).refilled (granBlock off)
      (s.ddrRead ((s.site n).mirrorAt (granBlock off)) 4096))).fault 0x000C (some n) 0
        (BitVec.ofNat 64 (granBlock off * 4096))) := by
  have hx := refillDone_of h e
  simp only [hm, Bool.not_true, Bool.false_or, decide_eq_false he, Bool.false_eq_true, if_true, if_false] at hx
  rw [hx]
  refine congrArg _ ((pumpSite_idle fun q => ?_).trans (congrArg (fun bs => ((State.setSite _ n
    ((s.site n).refilled (granBlock off) bs)).fault 0x000C (some n) 0 (BitVec.ofNat 64 (granBlock off * 4096))))
      (refillChecked_ddr off e _ _)))
  refine (congrArg (fun c : Site => (c.queue q).flight) (State.site_setSite_same _ n _)).trans ?_
  rw [(refilled_is _ _ _).2.2.2.2 q]
  exact hq q

end

section
variable {s : State} {n : SiteNo} {off : BitVec 30}

/-- The sites, the memory sites' words and the log may differ. -/
def sitesAndMemLog (s t : State) : Prop :=
  t = { s with sites := t.sites, mem := { s.mem with sites := t.mem.sites }, flt := t.flt, jrnl := t.jrnl }

theorem sitesAndMemLog_of {s u t : State} (h : memSitesAndLog s u) (k : siteAndLog n u t) : sitesAndMemLog s t := by
  unfold sitesAndMemLog
  have hm : t.mem = u.mem := (congrArg State.mem k.1).trans rfl
  rw [hm, k.1, h]

theorem setSite_siteAndLog (s : State) (n : SiteNo) (v : Site) : siteAndLog n s (s.setSite n v) :=
  ⟨rfl, fun _ hm => State.site_setSite_other s v hm⟩

theorem fault_siteAndLog (s : State) (n : SiteNo) (cls : BitVec 16) (m : Option SiteNo) (d : Word32) (a : Word64) :
    siteAndLog n s (s.fault cls m d a) := ⟨rfl, fun _ _ => rfl⟩

/-- The state in which a block has taken its mirror's bytes. -/
def State.refillTaken (s : State) (n : SiteNo) (off : BitVec 30) (e : EccObs) : State :=
  ((s.refillChecked n off e).setSite n ((s.site n).refilled (granBlock off)
    (s.ddrRead ((s.site n).mirrorAt (granBlock off)) 4096))).fault 0x000C (some n) 0
      (BitVec.ofNat 64 (granBlock off * 4096))

theorem refillTaken_log (e : EccObs) : siteAndLog n (s.refillChecked n off e) (s.refillTaken n off e) :=
  siteAndLog_trans (setSite_siteAndLog _ n _) (fault_siteAndLog _ n _ _ _ _)

theorem refillTaken_site (e : EccObs) : (s.refillTaken n off e).site n = (s.site n).refilled (granBlock off)
    (s.ddrRead ((s.site n).mirrorAt (granBlock off)) 4096) := State.site_setSite_same _ n _

theorem ddrRead_length (s : State) (a k : Nat) : (s.ddrRead a k).length = k := tbytes_length _ _ _ _

theorem refilled_read (c : Site) (b : Nat) : (c.refilled b (s.ddrRead (c.mirrorAt b) 4096)).granRead (b * 4096) 4096 =
    s.ddrRead (c.mirrorAt b) 4096 := by
  unfold Site.granRead
  rw [(refilled_is _ _ _).2.1]
  have h := tbytes_tput (d := fun _ => 0) (m := c.gran) (b * 4096) (s.ddrRead (c.mirrorAt b) 4096)
  rwa [ddrRead_length] at h

theorem refill_corrected (h : granBlock off ∈ (s.site n).refills) (hm : s.mirrored n (granBlock off) = true)
    (hq : ∀ q, ((s.site n).queue q).flight = []) :
    completes (.granaryRefillDone n off .corrected) s fun t => sitesAndMemLog s t ∧ (∀ m, m ≠ n → t.site m = s.site m) ∧
      (t.site n).granRead (granBlock off * 4096) 4096 = s.ddrRead ((s.site n).mirrorAt (granBlock off)) 4096 ∧
      granBlock off ∉ (t.site n).refills ∧
      let ms := memOf s (s.page ((s.site n).mirrorAt (granBlock off) / 8388608)).field
        (mirrorFirst (s.site n).mirror * 8388608 + off.toNat)
      (t.msite ms).ecc = eccCorrected (s.msite ms).ecc := by
  refine ⟨s.refillTaken n off .corrected, refill_taken h hm (by decide) hq,
    sitesAndMemLog_of (refillChecked_frame off _) (refillTaken_log _), fun m hmn => ?_, ?_, ?_, ?_⟩
  · rw [(refillTaken_log (s := s) (n := n) (off := off) .corrected).2 m hmn, refillChecked_site]
  · rw [refillTaken_site]
    exact refilled_read _ _
  · rw [refillTaken_site]
    exact (refilled_is _ _ _).1
  · rw [← mirror_page]
    exact ddrEcc_corrected s _

theorem refill_clean (h : granBlock off ∈ (s.site n).refills) (hm : s.mirrored n (granBlock off) = true)
    (hq : ∀ q, ((s.site n).queue q).flight = []) :
    completes (.granaryRefillDone n off .clean) s fun t => siteAndLog n s t ∧ logged s t 0x000C ∧
      (t.site n).granRead (granBlock off * 4096) 4096 = s.ddrRead ((s.site n).mirrorAt (granBlock off)) 4096 ∧
      granBlock off ∉ (t.site n).refills ∧
      (∀ x, x < granBlock off * 4096 ∨ granBlock off * 4096 + 4096 ≤ x →
        tget (fun _ => 0) (t.site n).gran x = tget (fun _ => 0) (s.site n).gran x) ∧
      (t.site n).ws = (s.site n).ws ∧ (t.site n).seq = (s.site n).seq ∧ t.flt.reports = s.flt.reports := by
  refine ⟨s.refillTaken n off .clean, refill_taken h hm (by decide) hq, refillTaken_log .clean, record_logged _ _, ?_⟩
  rw [refillTaken_site]
  obtain ⟨hr, hg, hw, hs, -⟩ := refilled_is (s.site n) (granBlock off)
    (s.ddrRead ((s.site n).mirrorAt (granBlock off)) 4096)
  refine ⟨refilled_read _ _, hr, fun x hx => ?_, hw, hs, rfl⟩
  rw [hg]
  exact tget_tput_other _ (by rw [ddrRead_length]; exact hx)

/-- A hardware fault, for a state of any other parts: the site stops, and record and report stand behind the older ones. -/
theorem hwFault_spec (v : State) (n : SiteNo) (cls : BitVec 16) (d : Word32) (a : Word64) :
    siteAndLog n v (v.hwFault n cls d a) ∧ (v.hwFault n cls d a).site n = (v.site n).stop ∧
      (v.hwFault n cls d a).mem = v.mem ∧ told v (v.hwFault n cls d a) cls (some n) ∧
      (∀ q, v.flt.buf.getLast? = some q → q ∈ (v.hwFault n cls d a).flt.buf) ∧
      ∃ r ∈ (v.hwFault n cls d a).flt.buf, r.cls = cls := by
  obtain ⟨r, hr, hrc, -⟩ := report_mem (v.modSite n Site.stop) cls n d a
  exact ⟨hwFault_siteAndLog v n cls d a, hwFault_site v n cls d a, rfl, (hwFault_told rfl n cls d a).2,
    fun q hq => record_keepsLast (s := v.modSite n Site.stop) hq _, r, hr, hrc⟩

theorem refill_uncorrectable (h : granBlock off ∈ (s.site n).refills) (hm : s.mirrored n (granBlock off) = true) :
    completes (.granaryRefillDone n off .uncorrectable) s fun t => sitesAndMemLog s t ∧
      (∀ m, m ≠ n → t.site m = s.site m) ∧ granBlock off ∉ (t.site n).refills ∧ (t.site n).gran = (s.site n).gran ∧
      ((s.site n).seq ≠ .idle → (t.site n).seq = .stopped) ∧ told s t 0x000D (some n) ∧
      (∃ r ∈ t.flt.buf, r.cls = 0x0202) ∧ (∃ r ∈ t.flt.buf, r.cls = 0x000D) ∧
      let ms := memOf s (s.page ((s.site n).mirrorAt (granBlock off) / 8388608)).field
        (mirrorFirst (s.site n).mirror * 8388608 + off.toNat)
      (t.msite ms).ecc = eccUncorrectable (s.msite ms).ecc := by
  have hx := refillDone_of h .uncorrectable
  simp only [hm, Bool.not_true, Bool.false_or, decide_true, if_true] at hx
  change _ = Host.Outcome.next (((s.refillChecked n off .uncorrectable).setSite n
    ((s.site n).refillOver (granBlock off))).hwFault n 0x000D 0 (BitVec.ofNat 64 (granBlock off * 4096))) at hx
  have hv : siteAndLog n (s.refillChecked n off .uncorrectable) _ := setSite_siteAndLog _ n ((s.site n).refillOver (granBlock off))
  have hvs := State.site_setSite_same (s.refillChecked n off .uncorrectable) n ((s.site n).refillOver (granBlock off))
  have hvf : ((s.refillChecked n off .uncorrectable).setSite n ((s.site n).refillOver (granBlock off))).flt =
    (s.refillChecked n off .uncorrectable).flt := rfl
  obtain ⟨q, hq, hqc⟩ := ddrEcc_recorded s (mirrorFirst (s.site n).mirror * 8388608 + off.toNat)
  have hrep := ddrEcc_reports s (mirrorFirst (s.site n).mirror * 8388608 + off.toNat) .uncorrectable
  have hecc := ddrEcc_uncorrectable s (mirrorFirst (s.site n).mirror * 8388608 + off.toNat)
  have hfr := refillChecked_frame (s := s) (n := n) off .uncorrectable
  have hsi := refillChecked_site (s := s) (n := n) off .uncorrectable
  rw [mirror_page] at hecc
  change (s.refillChecked n off .uncorrectable).flt.buf.getLast? = _ at hq
  change (s.refillChecked n off .uncorrectable).flt.reports = _ at hrep
  change ((s.refillChecked n off .uncorrectable).msite _).ecc = _ at hecc
  generalize (s.refillChecked n off .uncorrectable).setSite n ((s.site n).refillOver (granBlock off)) = v at hx hv hvs hvf
  generalize s.refillChecked n off .uncorrectable = u at hv hvf hq hrep hecc hfr hsi
  obtain ⟨hl, hs, hmem, ht, hkeep, hr⟩ := hwFault_spec v n 0x000D 0 (BitVec.ofNat 64 (granBlock off * 4096))
  have hul := siteAndLog_trans hv hl
  refine ⟨_, hx, sitesAndMemLog_of hfr hul, fun m hmn => (hul.2 m hmn).trans (hsi m), ?_, ?_, ?_,
    ⟨ht.1.trans (by rw [hvf, hrep]), ht.2⟩, ⟨q, hkeep q (by rw [hvf]; exact hq), hqc⟩, hr, ?_⟩
  · rw [hs, hvs]
    unfold Site.stop
    split <;> exact refillOver_gone _ _
  · rw [hs, hvs]
    unfold Site.stop
    split <;> rfl
  · rw [hs, hvs]
    exact fun hi => stop_stops hi
  · intro ms
    have hmu : (v.hwFault n 0x000D 0 (BitVec.ofNat 64 (granBlock off * 4096))).mem = u.mem :=
      (congrArg State.mem hul.1).trans rfl
    unfold State.msite at hecc ⊢
    rw [hmu]
    exact hecc

/-! ### Scrub of GDDR7 (R227, R239) -/

section
variable {ms : MemNo} {addr : BitVec 41}

/-- A memory site whose scrub has moved on by one unit. -/
def MemSite.scrubbed (m : MemSite) : MemSite := { m with scrubAt := (m.scrubAt + 64) % 85899345920 }

theorem ddrRead_ddrWrite_same (v : State) (a : Nat) (bs : List Byte) : (v.ddrWrite a bs).ddrRead a bs.length = bs :=
  tbytes_tput (d := v.ddrD) (m := v.mem.ddr) a bs

theorem ddrRead_ddrWrite_other (v : State) {a x : Nat} {bs : List Byte} (h : x < a ∨ a + bs.length ≤ x) :
    (v.ddrWrite a bs).ddrRead x 1 = v.ddrRead x 1 :=
  congrArg (fun b => [b]) (tget_tput_other (d := v.ddrD) (m := v.mem.ddr) bs h)

theorem fault_ddrRead (v : State) (c : BitVec 16) (m : Option SiteNo) (d : Word32) (x : Word64) (a k : Nat) :
    (v.fault c m d x).ddrRead a k = v.ddrRead a k := rfl

theorem ddrFault_frame {v : State} (h : memSitesAndLog s v) (a : Nat) (bs : List Byte) (c : BitVec 16) (m : Option SiteNo)
    (d : Word32) (x : Word64) : let t := (v.ddrWrite a bs).fault c m d x
    t = { s with mem := { s.mem with sites := t.mem.sites, ddr := t.mem.ddr }, flt := t.flt, jrnl := t.jrnl } := by
  unfold memSitesAndLog at h
  generalize v.mem.sites = ms, v.flt = flt, v.jrnl = jrnl at h
  subst h
  rfl

/-- The unit of an address. -/
abbrev scrubUnitOf (addr : BitVec 41) : Nat := addr.toNat / 64 * 64

theorem memScrub_of (hst : (s.msite ms).st = 2)
    (hcl : ((s.msite ms).chan (chanOf s (fieldOfMem ms) (scrubUnitOf addr))).closed = false)
    (hd : s.isDark (fieldOfMem ms) = false) (hf : s.fieldStopped (fieldOfMem ms) = false) (e : EccObs) (w g : Bool) :
    exec (.memScrub ms addr e w g) s =
      (match s.scrubNext ms with
       | none => .next (s.modMsite ms MemSite.scrubbed)
       | some b => if b ≠ scrubUnitOf addr then .next s
         else .next ((s.modMsite ms MemSite.scrubbed).scrubUnit ms (scrubUnitOf addr) e w g)) :=
  if_neg (by rw [hst, hcl, hd, hf]; decide)

/-- The sites, the log and the bytes of GDDR7 are as before. -/
def onlyMsites (s t : State) : Prop := t.sites = s.sites ∧ t.flt = s.flt ∧ t.mem.ddr = s.mem.ddr

variable (hst : (s.msite ms).st = 2)
  (hcl : ((s.msite ms).chan (chanOf s (fieldOfMem ms) (scrubUnitOf addr))).closed = false)
  (hd : s.isDark (fieldOfMem ms) = false) (hf : s.fieldStopped (fieldOfMem ms) = false)
include hst hcl hd hf

theorem memScrub_unbound (hn : s.scrubNext ms = none) (w g : Bool) :
    completes (.memScrub ms addr .clean w g) s fun t => t = { s with mem := { s.mem with sites := t.mem.sites } } ∧
      t.msite ms = { s.msite ms with scrubAt := ((s.msite ms).scrubAt + 64) % 85899345920 } := by
  refine ⟨s.modMsite ms MemSite.scrubbed, ?_, rfl, State.msite_modMsite_same s ms _⟩
  rw [memScrub_of hst hcl hd hf, hn]

theorem memScrub_other {b : Nat} (hn : s.scrubNext ms = some b) (hb : b ≠ scrubUnitOf addr) (e : EccObs) (w g : Bool) :
    exec (.memScrub ms addr e w g) s = .next s := by
  rw [memScrub_of hst hcl hd hf, hn]
  exact if_pos hb

theorem memScrub_reads (hn : s.scrubNext ms = some (scrubUnitOf addr)) (e : EccObs) (w g : Bool) :
    exec (.memScrub ms addr e w g) s =
      .next ((s.modMsite ms MemSite.scrubbed).scrubUnit ms (scrubUnitOf addr) e w g) := by
  rw [memScrub_of hst hcl hd hf, hn]
  exact if_neg fun h => h rfl

theorem memScrub_clean (hn : s.scrubNext ms = some (scrubUnitOf addr)) (w g : Bool) :
    completes (.memScrub ms addr .clean w g) s fun t => t = { s with mem := { s.mem with sites := t.mem.sites } } ∧
      t.msite ms = { s.msite ms with scrubAt := ((s.msite ms).scrubAt + 64) % 85899345920 } ∧
      ∀ m, m ≠ ms → t.msite m = s.msite m := by
  refine ⟨s.modMsite ms MemSite.scrubbed, memScrub_reads hst hcl hd hf hn .clean w g, rfl,
    State.msite_modMsite_same s ms _, fun m hm => State.msite_modMsite_other s _ hm⟩

/-- Where a unit stands in the granary of the core whose mirror holds it. -/
abbrev Site.mirrorOff (c : Site) (a : Nat) : Nat := a - mirrorFirst c.mirror * 8388608

theorem memScrub_rewrites (hn : s.scrubNext ms = some (scrubUnitOf addr))
    (ho : s.mirrorOwner (scrubUnitOf addr / 8388608) = some n) :
    completes (.memScrub ms addr .uncorrectable false true) s fun t =>
      t = { s with mem := { s.mem with sites := t.mem.sites, ddr := t.mem.ddr }, flt := t.flt, jrnl := t.jrnl } ∧
      logged s t 0x0209 ∧
      t.ddrRead (scrubUnitOf addr) 64 = (s.site n).granRead ((s.site n).mirrorOff (scrubUnitOf addr)) 64 ∧
      ∀ x, x < scrubUnitOf addr ∨ scrubUnitOf addr + 64 ≤ x → t.ddrRead x 1 = s.ddrRead x 1 := by
  have hx := memScrub_reads hst hcl hd hf hn .uncorrectable false true
  generalize hu : s.modMsite ms MemSite.scrubbed = u at hx
  have huo : u.mirrorOwner (scrubUnitOf addr / 8388608) = some n := hu ▸ ho
  unfold State.scrubUnit at hx
  simp only [huo, if_true, Bool.false_eq_true, if_false] at hx
  subst hu
  have hw : ∀ x k, ((s.modMsite ms MemSite.scrubbed).modMsite ms
      fun m => { m with ecc := eccUncorrectable m.ecc }).ddrRead x k = s.ddrRead x k := fun _ _ => rfl
  have hfr : memSitesAndLog s ((s.modMsite ms MemSite.scrubbed).modMsite ms
      fun m => { m with ecc := eccUncorrectable m.ecc }) := rfl
  have hwf : ((s.modMsite ms MemSite.scrubbed).modMsite ms fun m => { m with ecc := eccUncorrectable m.ecc }).flt =
      s.flt := rfl
  change _ = Host.Outcome.next ((State.ddrWrite _ _ (((State.modMsite _ ms _).site n).granRead
    ((s.site n).mirrorOff (scrubUnitOf addr)) 64)).fault _ _ _ _) at hx
  generalize (s.modMsite ms MemSite.scrubbed).modMsite ms (fun m => { m with ecc := eccUncorrectable m.ecc }) = v
    at hx hw hfr hwf
  have hsn : v.site n = s.site n := (congrArg (fun u : State => u.site n) hfr).trans rfl
  have hlen : ((v.site n).granRead ((s.site n).mirrorOff (scrubUnitOf addr)) 64).length = 64 := tbytes_length _ _ _ _
  refine ⟨_, hx, ?_, ?_, ?_, fun x hxo => ?_⟩
  · exact ddrFault_frame hfr _ _ _ _ _ _
  · unfold logged
    rw [← hwf]
    exact record_logged _ _
  · have h := ddrRead_ddrWrite_same v (scrubUnitOf addr) ((v.site n).granRead ((s.site n).mirrorOff (scrubUnitOf addr)) 64)
    rw [hlen] at h
    exact (fault_ddrRead _ _ _ _ _ _ _).trans (h.trans (by rw [hsn]))
  · have h := ddrRead_ddrWrite_other v (a := scrubUnitOf addr) (x := x)
      (bs := (v.site n).granRead ((s.site n).mirrorOff (scrubUnitOf addr)) 64) (by rw [hlen]; exact hxo)
    exact (fault_ddrRead _ _ _ _ _ _ _).trans (h.trans (hw x 1))

theorem memScrub_lost (hn : s.scrubNext ms = some (scrubUnitOf addr))
    (ho : s.mirrorOwner (scrubUnitOf addr / 8388608) = some n) (w : Bool) :
    completes (.memScrub ms addr .uncorrectable w false) s fun t => logged s t 0x000D ∧
      told s t 0x000D (some n) ∧ t.mem.ddr = s.mem.ddr ∧ (∀ m, m ≠ n → t.site m = s.site m) ∧
      ((s.site n).seq ≠ .idle → (t.site n).seq = .stopped) := by
  have hx := memScrub_reads hst hcl hd hf hn .uncorrectable w false
  generalize hu : s.modMsite ms MemSite.scrubbed = u at hx
  have huo : u.mirrorOwner (scrubUnitOf addr / 8388608) = some n := hu ▸ ho
  unfold State.scrubUnit at hx
  simp only [huo, Bool.false_eq_true, if_false] at hx
  subst hu
  have hv : onlyMsites s ((s.modMsite ms MemSite.scrubbed).modMsite ms fun m => { m with ecc := eccUncorrectable m.ecc }) :=
    ⟨rfl, rfl, rfl⟩
  generalize (s.modMsite ms MemSite.scrubbed).modMsite ms (fun m => { m with ecc := eccUncorrectable m.ecc }) = v at hx hv
  obtain ⟨hsites, hflt, hddr⟩ := hv
  have ht := hwFault_told hflt n 0x000D 0
    (BitVec.ofNat 64 ((s.site n).mirrorOff (scrubUnitOf addr) / 4096 * 4096))
  obtain ⟨hl, -, hmem, -⟩ := hwFault_spec v n 0x000D 0
    (BitVec.ofNat 64 ((s.site n).mirrorOff (scrubUnitOf addr) / 4096 * 4096))
  have hsite (m : SiteNo) : v.site m = s.site m := by
    unfold State.site
    rw [hsites]
  refine ⟨_, hx, ht.1, ht.2, (congrArg MemSys.ddr hmem).trans hddr, fun m hmn => (hl.2 m hmn).trans (hsite m), fun hi => ?_⟩
  refine (congrArg Site.seq ((hwFault_spec v n _ _ _).2.1.trans (congrArg Site.stop (hsite n)))).trans (stop_stops hi)

end

end

/-- Settles O33, store by store: each scrub, the refresh and the refill is opened once, and a scrub of GDDR7 by the unit
its site reads next. -/
theorem storesAreScrubbed : Obligations.StoresAreScrubbed := by
  unfold Obligations.StoresAreScrubbed
  refine ⟨fun s n hc => ⟨psScrub_clean hc, psScrub_corrected hc, psScrub_bad hc, fun hr hp => psScrub_stops hr hp hc⟩,
    fun s n off hc => wsScrub_checks hc off, fun s n off hd => granaryRefresh_checks hd off, fun s n off e h => ?_,
    fun s ms addr w g => ?_⟩
  · refine ⟨fun he hv hp hpg hq => ?_, fun he hv hp hpg => ?_, fun he hv hp hpg hq => ?_, fun hl => ?_⟩
    · exact he ▸ refill_corrected h (mirrored_iff hv hp hpg) hq
    · exact he ▸ refill_uncorrectable h (mirrored_iff hv hp hpg)
    · exact he ▸ refill_clean h (mirrored_iff hv hp hpg) hq
    · exact refill_lost h (not_mirrored hl) e
  · intro f a hst hcl hd hf
    exact ⟨fun hn => memScrub_unbound hst hcl hd hf hn w g,
      fun b e hn hb => ⟨s, memScrub_other hst hcl hd hf hn hb e w g, rfl⟩,
      fun hn => memScrub_clean hst hcl hd hf hn w g,
      fun n hn ho => ⟨memScrub_rewrites hst hcl hd hf hn ho, memScrub_lost hst hcl hd hf hn ho w⟩⟩

/-! ### A descriptor starts (R104, R105) -/

section
variable {s : State} {n : SiteNo} {q : Fin 4} {d : CopyDesc} {rest : List CopyDesc}

/-- The flight of a descriptor that starts at an instant. -/
def flightNew (d : CopyDesc) (t : Word64) : CopyFlight :=
  { desc := d, since := t, done := false, moved := 0, txn := none, buf := [], waitFrom := none }

/-- A sill entry that one copy more reads. -/
def SillEntry.readMore (v : SillEntry) : SillEntry := { v with readers := v.readers + 1 }

/-- Number of the sill entry that a descriptor's source names. -/
abbrev CopyDesc.srcEntry (d : CopyDesc) : Nat := d.src.toNat / 4194304 % 64

/-- A site in which a descriptor has become the last flight of its queue. -/
def Site.queued (c : Site) (q : Fin 4) (d : CopyDesc) (rest : List CopyDesc) (t : Word64) : Site :=
  c.setQueue q { c.queue q with waiting := rest, flight := (c.queue q).flight ++ [flightNew d t] }

/-- A site in which the descriptor at the head of a queue has started, before its first request. -/
def Site.started (c : Site) (q : Fin 4) (d : CopyDesc) (rest : List CopyDesc) (t : Word64) : Site :=
  if d.srcKind = 2 then (c.queued q d rest t).setEntry d.srcEntry (c.entry d.srcEntry).readMore else c.queued q d rest t

theorem copyStart_of (h : ((s.site n).queue q).waiting = d :: rest) (tm : Word64) :
    exec (.copyStart n q tm) s =
      (let u := (s.at tm).setSite n ((s.site n).started q d rest (s.at tm).tb)
       if (s.site n).copyStarts q d = false ∨ s.clocked n = false then .next (s.at tm)
       else .next (if ((s.site n).started q d rest (s.at tm).tb).sillRange d then u.pump n q ((s.site n).queue q).flight.length
         else u.copyFail n q ((s.site n).queue q).flight.length 4 false)) := by
  have ha : (s.at tm).site n = s.site n := State.site_at s tm n
  have hc : (s.at tm).clocked n = s.clocked n := by
    obtain ⟨b, hb⟩ := at_is s tm
    rw [hb]
    rfl
  change execCopyStart n q tm s = _
  unfold execCopyStart
  dsimp only
  rw [ha, h]
  dsimp only
  rw [hc]
  unfold Site.started Site.queued
  rfl

theorem started_frame (c : Site) (t : Word64) : c.started q d rest t =
    { c with queues := (c.started q d rest t).queues, sill := (c.started q d rest t).sill } := by
  unfold Site.started
  split <;> rfl

theorem started_queue (c : Site) (t : Word64) : (c.started q d rest t).queue q =
      { c.queue q with waiting := rest, flight := (c.queue q).flight ++ [flightNew d t] } ∧
    ∀ p, p ≠ q → (c.started q d rest t).queue p = c.queue p := by
  have h : (c.started q d rest t).queues = (c.queued q d rest t).queues := by
    unfold Site.started
    split <;> rfl
  have hq (p : Fin 4) : (c.started q d rest t).queue p = (c.queued q d rest t).queue p :=
    congrArg (fun l : Tab CopyQueue => tget (fun _ => ({} : CopyQueue)) l p.val) h
  rw [hq]
  exact ⟨Site.queue_setQueue_same c q _, fun p hp => (hq p).trans (Site.queue_setQueue_other c _ hp)⟩

theorem started_sill (c : Site) (t : Word64) : (d.srcKind ≠ 2 → (c.started q d rest t).sill = c.sill) ∧
    (d.srcKind = 2 → (c.started q d rest t).entry d.srcEntry = (c.entry d.srcEntry).readMore) := by
  unfold Site.started
  exact ⟨fun h => by rw [if_neg h]; rfl, fun h => by rw [if_pos h]; exact Site.entry_setEntry_same _ _ _⟩

theorem started_range (c : Site) (t : Word64) : (c.started q d rest t).sillRange d = c.sillRange d := by
  by_cases h : d.srcKind = 2
  · unfold Site.sillRange
    rw [(started_sill c t).2 h]
    rfl
  · unfold Site.sillRange
    rw [decide_eq_true h]
    rfl

theorem started_flight (c : Site) (t : Word64) :
    (c.started q d rest t).flightAt q (c.queue q).flight.length = some (flightNew d t) := by
  unfold Site.flightAt
  rw [(started_queue c t).1, List.getElem?_append_right le_rfl, Nat.sub_self]
  rfl

/-- A copy between the core's own stores has no request to send. -/
theorem nextPacket_local (u : State) (n : SiteNo) {f : CopyFlight} (hr : f.desc.combine = false)
    (hs : byFabric f.desc.srcKind = false) (hd : byFabric f.desc.dstKind = false) : u.nextPacket n f = none := by
  have hb : f.desc.byRequests = false := by
    unfold CopyDesc.byRequests
    rw [hr, hs, hd]
    rfl
  unfold State.nextPacket
  simp only [hb, hr, hs, hd, Bool.false_eq_true, false_and, if_false]
  split <;> rfl

theorem copyStart_starts (h : ((s.site n).queue q).waiting = d :: rest) (hst : (s.site n).copyStarts q d = true)
    (hc : s.clocked n = true) (hr : (s.site n).sillRange d = true) (hco : d.combine = false)
    (hs : byFabric d.srcKind = false) (hd : byFabric d.dstKind = false) (tm : Word64) :
    exec (.copyStart n q tm) s = .next ((s.at tm).setSite n ((s.site n).started q d rest (s.at tm).tb)) := by
  have hx := copyStart_of h tm
  dsimp only at hx
  rw [if_neg (by rw [hst, hc]; decide), started_range, if_pos hr] at hx
  rw [hx]
  refine congrArg _ ?_
  unfold State.pump
  rw [State.site_setSite_same, started_flight]
  dsimp only
  rw [nextPacket_local (f := flightNew d (s.at tm).tb) _ n hco hs hd]
  rfl

theorem copyStart_waits (h : ((s.site n).queue q).waiting = d :: rest)
    (hw : (s.site n).copyStarts q d = false ∨ s.clocked n = false) (tm : Word64) :
    exec (.copyStart n q tm) s = .next (s.at tm) := (copyStart_of h tm).trans (if_pos hw)

/-- A descriptor whose source leaves its reservation fails with code 4 (R104). -/
theorem copyStart_fails (h : ((s.site n).queue q).waiting = d :: rest) (hst : (s.site n).copyStarts q d = true)
    (hc : s.clocked n = true) (hr : (s.site n).sillRange d = false) (tm : Word64) :
    completes (.copyStart n q tm) s fun t => siteAndLog n (s.at tm) t ∧ logged (s.at tm) t 0x000F ∧
      told (s.at tm) t 0x000F (some n) ∧
      (t.site n).queue q = { (s.site n).queue q with waiting := rest, halted := true, err := 4, errTag := d.tag } ∧
      (∀ p, p ≠ q → (t.site n).queue p = (s.site n).queue p) := by
  have hx := copyStart_of h tm
  dsimp only at hx
  rw [if_neg (by rw [hst, hc]; decide), started_range, if_neg (by rw [hr]; decide)] at hx
  have hu := State.site_setSite_same (s.at tm) n ((s.site n).started q d rest (s.at tm).tb)
  have hl : siteAndLog n (s.at tm) ((s.at tm).setSite n ((s.site n).started q d rest (s.at tm).tb)) :=
    setSite_siteAndLog _ n _
  have hfl : ((s.at tm).setSite n ((s.site n).started q d rest (s.at tm).tb)).flt = (s.at tm).flt := rfl
  generalize (s.at tm).setSite n ((s.site n).started q d rest (s.at tm).tb) = u at hx hu hl hfl
  have hf : (u.site n).flightAt q ((s.site n).queue q).flight.length = some (flightNew d (s.at tm).tb) := by
    rw [hu]
    exact started_flight _ _
  obtain ⟨fab, hfab, hlog⟩ := copyFail_frame hf 4 false
  have ht := copyFail_told hf (code := 4) (by decide) false
  obtain ⟨hq, hother, -⟩ := copyFail_queues hf 4 false
  have hnh : ((u.site n).queue q).halted = false := by
    rw [hu, (started_queue _ _).1]
    unfold Site.copyStarts at hst
    dsimp only at hst
    cases hh : ((s.site n).queue q).halted with
    | false => rfl
    | true => rw [hh] at hst; simp at hst
  rw [hfab rfl] at hlog
  unfold logged told at ht ⊢
  rw [hfl] at ht
  refine ⟨_, hx, siteAndLog_trans hl hlog, ht.1, ht.2, ?_, fun p hp => ?_⟩
  · rw [hq, flightFailed_queue _ _ _ _ _ hnh, hu, (started_queue _ _).1]
    dsimp only
    rw [List.eraseIdx_append_of_length_le le_rfl, Nat.sub_self]
    simp [flightNew]
  · rw [hother p hp, hu, (started_queue _ _).2 p hp]

end

/-! ### A descriptor completes (R104, R106, R120) -/

section
variable {s : State} {n : SiteNo} {q : Fin 4} {f : CopyFlight} {rest : List CopyFlight} {obs : CopyObs}

/-- A site in which a copy asks that its sill source be freed. -/
def Site.sillAsk (c : Site) (d : CopyDesc) : Site :=
  if d.srcKind = 2 ∧ d.sillFree = true then c.setEntry d.srcEntry { c.entry d.srcEntry with freeReq := true } else c

/-- A site in which the sill source that a copy asks to free is freed when it may be. -/
def Site.sillAsked (c : Site) (d : CopyDesc) : Site :=
  if d.srcKind = 2 ∧ d.sillFree = true then c.sillTryFree d.srcEntry else c

/-- A site whose queue counts one completed descriptor more. -/
def Site.copyCounted (c : Site) (q : Fin 4) : Site :=
  c.setQueue q { c.queue q with completed := (c.queue q).completed + 1 }

/-- A site in which a descriptor has given its token. -/
def Site.copySignalled (c : Site) (d : CopyDesc) : Site := if d.sigEn then c.signal d.sigTok 1 else c

/-- A site in which the oldest flight of a queue has completed. -/
def Site.copyEnded (c : Site) (q : Fin 4) (f : CopyFlight) : Site :=
  (((flightGone (c.sillAsk f.desc) q 0 f).sillAsked f.desc).copyCounted q).copySignalled f.desc

theorem sillTryFree_frame (c : Site) (i : Nat) :
    c.sillTryFree i = { c with sill := (c.sillTryFree i).sill, sillFree := (c.sillTryFree i).sillFree } := by
  unfold Site.sillTryFree
  dsimp only
  split
  · split <;> rfl
  · rfl

theorem sillAsk_frame (c : Site) (d : CopyDesc) : c.sillAsk d = { c with sill := (c.sillAsk d).sill } := by
  unfold Site.sillAsk
  split <;> rfl

theorem sillAsked_frame (c : Site) (d : CopyDesc) :
    c.sillAsked d = { c with sill := (c.sillAsked d).sill, sillFree := (c.sillAsked d).sillFree } := by
  unfold Site.sillAsked
  split
  · exact sillTryFree_frame c _
  · rfl

theorem copySignalled_frame (c : Site) (d : CopyDesc) :
    c.copySignalled d = { c with toks := (c.copySignalled d).toks, tokenSat := (c.copySignalled d).tokenSat } := by
  unfold Site.copySignalled
  split
  · unfold Site.signal
    dsimp only
    split <;> rfl
  · rfl

/-- The site before the token of a completed descriptor is given. -/
def Site.copyLeft (c : Site) (q : Fin 4) (f : CopyFlight) : Site :=
  ((flightGone (c.sillAsk f.desc) q 0 f).sillAsked f.desc).copyCounted q

theorem copyLeft_frame (c : Site) : c.copyLeft q f =
    { c with queues := (c.copyLeft q f).queues, sill := (c.copyLeft q f).sill, sillFree := (c.copyLeft q f).sillFree } := by
  unfold Site.copyLeft Site.copyCounted
  rw [sillAsked_frame, flightGone_frame, sillAsk_frame]
  rfl

theorem copyLeft_queue (c : Site) (h : (c.queue q).flight = f :: rest) : (c.copyLeft q f).queue q =
      { c.queue q with flight := rest, completed := (c.queue q).completed + 1 } ∧
    ∀ p, p ≠ q → (c.copyLeft q f).queue p = c.queue p := by
  have ha (p : Fin 4) : (c.sillAsk f.desc).queue p = c.queue p := by rw [sillAsk_frame]; rfl
  have hk (d : Site) (p : Fin 4) : (d.sillAsked f.desc).queue p = d.queue p := by rw [sillAsked_frame]; rfl
  unfold Site.copyLeft Site.copyCounted
  refine ⟨?_, fun p hp => ?_⟩
  · rw [Site.queue_setQueue_same, hk, flightGone_queue, ha, h]
    rfl
  · rw [Site.queue_setQueue_other _ _ hp, hk, flightGone_queue_other _ _ _ _ hp, ha]

theorem copyLeft_sill (c : Site) (hk : f.desc.srcKind ≠ 2) : (c.copyLeft q f).sill = c.sill := by
  have hn : ¬(f.desc.srcKind = 2 ∧ f.desc.sillFree = true) := fun h => hk h.1
  unfold Site.copyLeft Site.sillAsked Site.sillAsk flightGone
  dsimp only
  rw [if_neg hn, if_neg hn, if_neg hk]
  rfl

/-- The reader that leaves an entry which is not FREEING only is one reader less. -/
theorem flightGone_entry {c : Site} (hk : f.desc.srcKind = 2) (hst : (c.entry f.desc.srcEntry).st = .released) :
    (flightGone c q 0 f).entry f.desc.srcEntry =
        { c.entry f.desc.srcEntry with readers := (c.entry f.desc.srcEntry).readers - 1 } ∧
      (flightGone c q 0 f).sillFree = c.sillFree := by
  unfold flightGone Site.sillDone
  dsimp only
  rw [if_pos hk, if_neg fun h => SillState.noConfusion (hst.symm.trans h.1)]
  exact ⟨Site.entry_setEntry_same _ _ _, rfl⟩

theorem sillTryFree_last {c : Site} {i : Nat} (hst : (c.entry i).st = .released) (hf : (c.entry i).freeReq = true)
    (hr : (c.entry i).readers = 0) : c.sillTryFree i = c.sillGone i := by
  unfold Site.sillTryFree
  dsimp only
  rw [if_pos ⟨hst, hf⟩, if_pos hr]

/-- The last reader of a RELEASED entry that asks to free it returns its units (Table 4.5). -/
theorem copyLeft_frees (c : Site) (hk : f.desc.srcKind = 2) (hf : f.desc.sillFree = true)
    (hst : (c.entry f.desc.srcEntry).st = .released) (hr : (c.entry f.desc.srcEntry).readers = 1) :
    (c.copyLeft q f).entry f.desc.srcEntry = { claimed := (c.entry f.desc.srcEntry).claimed - 1 } ∧
      (c.copyLeft q f).sillFree = c.sillFree + (c.entry f.desc.srcEntry).units := by
  have ha : (c.sillAsk f.desc).entry f.desc.srcEntry = { c.entry f.desc.srcEntry with freeReq := true } := by
    unfold Site.sillAsk
    rw [if_pos (And.intro hk hf)]
    exact Site.entry_setEntry_same _ _ _
  obtain ⟨hg, hfree⟩ := flightGone_entry (q := q) hk (by rw [ha]; exact hst)
  rw [ha] at hg
  have hfree : (flightGone (c.sillAsk f.desc) q 0 f).sillFree = c.sillFree := by
    rw [hfree, sillAsk_frame]
  unfold Site.copyLeft Site.sillAsked
  rw [if_pos (And.intro hk hf)]
  generalize flightGone (c.sillAsk f.desc) q 0 f = b at hg hfree
  rw [sillTryFree_last (by rw [hg]; exact hst) (by rw [hg]) (by rw [hg]; simp [hr])]
  refine ⟨(Site.entry_setEntry_same _ _ _).trans (by rw [hg]), ?_⟩
  exact congrArg₂ (· + ·) hfree (by rw [hg])

theorem copyEnded_spec (c : Site) (h : (c.queue q).flight = f :: rest) :
    let c' := c.copyEnded q f
    let d := f.desc
    c'.queue q = { c.queue q with flight := rest, completed := (c.queue q).completed + 1 } ∧
      (∀ p, p ≠ q → c'.queue p = c.queue p) ∧ c'.ws = c.ws ∧ c'.gran = c.gran ∧
      (d.sigEn = true → c'.tok d.sigTok = BitVec.ofNat 16 (min 65535 ((c.tok d.sigTok).toNat + 1))) ∧
      (d.sigEn = false → c'.toks = c.toks) ∧ (d.srcKind ≠ 2 → c'.sill = c.sill) ∧
      (d.srcKind = 2 → d.sillFree = true → (c.entry d.srcEntry).st = .released → (c.entry d.srcEntry).readers = 1 →
        c'.entry d.srcEntry = { claimed := (c.entry d.srcEntry).claimed - 1 } ∧
        c'.sillFree = c.sillFree + (c.entry d.srcEntry).units) := by
  have he : c.copyEnded q f = (c.copyLeft q f).copySignalled f.desc := rfl
  have hs := copySignalled_frame (c.copyLeft q f) f.desc
  have hq (p : Fin 4) : (c.copyEnded q f).queue p = (c.copyLeft q f).queue p := by rw [he, hs]; rfl
  have ht : (c.copyLeft q f).toks = c.toks := by rw [copyLeft_frame]
  obtain ⟨h1, h2⟩ := copyLeft_queue c h
  refine ⟨(hq q).trans h1, fun p hp => (hq p).trans (h2 p hp), ?_, ?_, fun hg => ?_, fun hg => ?_, fun hk => ?_,
    fun hk hf hst hr => ?_⟩
  · rw [he, hs, copyLeft_frame]
  · rw [he, hs, copyLeft_frame]
  · rw [he]
    unfold Site.copySignalled
    rw [if_pos hg]
    refine (tok_signalOpt (c.copyLeft q f) f.desc.sigTok).trans ?_
    unfold Site.tok
    rw [ht]
  · rw [he]
    unfold Site.copySignalled
    rw [if_neg (by rw [hg]; decide), ht]
  · rw [he, hs]
    exact copyLeft_sill c hk
  · rw [he, hs]
    exact copyLeft_frees c hk hf hst hr

end

section
variable {s : State} {n : SiteNo} {q : Fin 4} {f : CopyFlight} {rest : List CopyFlight} {obs : CopyObs}

/-- A descriptor that awaits no request and rings no bell completes within its site. -/
theorem copyDone_is (hb : f.desc.bellEn = false) (ht : f.txn = none) :
    onlySite n s (s.copyDone n q f) ∧ (s.copyDone n q f).site n = (s.site n).copyEnded q f := by
  have hx : ∃ u, onlySite n s u ∧ u.site n = flightGone ((s.site n).sillAsk f.desc) q 0 f ∧
      s.copyDone n q f = u.modSite n fun c => (((c.sillAsked f.desc).copyCounted q).copySignalled f.desc) := by
    have ha : ∃ v, onlySite n s v ∧ v.site n = (s.site n).sillAsk f.desc ∧
        (if f.desc.srcKind = 2 ∧ f.desc.sillFree = true then s.modSite n fun c => c.setEntry f.desc.srcEntry
          { c.entry f.desc.srcEntry with freeReq := true } else s) = v := by
      unfold Site.sillAsk
      split
      · exact ⟨_, onlySite_modSite s n _, State.site_modSite_same s n _, rfl⟩
      · exact ⟨s, ⟨rfl, fun _ _ => rfl⟩, rfl, rfl⟩
    obtain ⟨v, hv, hvs, hve⟩ := ha
    obtain ⟨fab, hl, hfab⟩ := leaveFlight_eq v n q 0 f
    have hf : ({ v with fab := fab } : State) = v := by rw [hfab ht]
    rw [hf] at hl
    refine ⟨v.leaveFlight n q 0 f, hl ▸ onlySite_trans hv (onlySite_modSite v n _), ?_, ?_⟩
    · rw [hl, State.site_modSite_same, hvs]
    · unfold State.copyDone
      dsimp only
      rw [hve, hb]
      rfl
  obtain ⟨u, hu, hus, he⟩ := hx
  rw [he]
  refine ⟨onlySite_trans hu (onlySite_modSite u n _), ?_⟩
  rw [State.site_modSite_same, hus]
  rfl

theorem copyEcc_clean (s : State) (n : SiteNo) (k : BitVec 4) (h : obs.ecc = .clean) : s.copyEcc n k obs = s := by
  unfold State.copyEcc
  rw [h]
  rcases k.toNat with _ | _ | _ | _ <;> rfl

/-- A copy whose bytes are all moved completes. -/
theorem copyComplete_ends (hf : ((s.site n).queue q).flight = f :: rest) (hc : s.clocked n = true)
    (he : obs.ecc = .clean) (hm : f.desc.total ≤ f.moved) :
    exec (.copyComplete n q obs) s = .next (s.copyDone n q f) := by
  change execCopyComplete n q obs s = _
  unfold execCopyComplete
  rw [flightAt_head hf]
  dsimp only
  rw [if_neg (by rw [hc]; decide), if_pos hm, copyEcc_clean s n _ he]

/-- A copy whose ends are not in host memory awaits no host. -/
theorem hostEnd_none {d : CopyDesc} (h1 : d.srcKind ≠ 6) (h2 : d.dstKind ≠ 6) : s.hostEnd n d = 0 := by
  unfold State.hostEnd
  dsimp only
  rw [if_neg h1, if_neg h2]
  rfl

section
variable (hf : ((s.site n).queue q).flight = f :: rest) (hc : s.clocked n = true) (hm : f.moved < f.desc.total)
  (h1 : f.desc.srcKind ≠ 6) (h2 : f.desc.dstKind ≠ 6)
include hf hc hm h1 h2

/-- A copy that moves by requests has nothing moved by COPY_COMPLETE. -/
theorem copyComplete_requests (hr : f.desc.byRequests = true) : exec (.copyComplete n q obs) s = .next s := by
  change execCopyComplete n q obs s = _
  unfold execCopyComplete
  rw [flightAt_head hf]
  dsimp only
  rw [if_neg (by rw [hc]; decide), if_neg (Nat.not_le.2 hm), hostEnd_none h1 h2, if_neg (by decide), if_pos hr,
    if_neg fun h => h1 h.1]

/-- A copy within the core, whose source's words are read. -/
theorem copyComplete_local (hr : f.desc.byRequests = false)
    (hg : f.desc.srcKind = 1 → (s.site n).refilling f.desc.src.toNat (f.desc.extent f.desc.srcStride) = false) :
    exec (.copyComplete n q obs) s =
      if obs.ecc = .uncorrectable ∧ f.desc.srcKind.toNat ≤ 2 then
        .next (if f.desc.srcKind = 1 then s.copyEcc n f.desc.srcKind obs else s.copyFail n q 0 6 false)
      else .next (((s.copyEcc n f.desc.srcKind obs).moveRows n f.desc obs.data f.desc.total f.desc.rows.toNat
        f.moved).copyDone n q f) := by
  change execCopyComplete n q obs s = _
  unfold execCopyComplete
  rw [flightAt_head hf]
  dsimp only
  rw [if_neg (by rw [hc]; decide), if_neg (Nat.not_le.2 hm), hostEnd_none h1 h2, if_neg (by decide),
    if_neg (by rw [hr]; decide), if_neg fun h => by rw [hg h.1] at h; exact absurd h.2 (by decide)]

end

theorem copyComplete_refills (hf : ((s.site n).queue q).flight = f :: rest) (hm : f.moved < f.desc.total)
    (h1 : f.desc.srcKind = 1) (hr : f.desc.byRequests = false) (h2 : f.desc.dstKind ≠ 6)
    (hg : (s.site n).refilling f.desc.src.toNat (f.desc.extent f.desc.srcStride) = true) :
    exec (.copyComplete n q obs) s = .next s := by
  change execCopyComplete n q obs s = _
  unfold execCopyComplete
  rw [flightAt_head hf]
  dsimp only
  split
  · rfl
  · rw [if_neg (Nat.not_le.2 hm), hostEnd_none (by rw [h1]; decide) h2, if_neg (by decide),
      if_neg (by rw [hr]; decide), if_pos ⟨h1, hg⟩]

theorem copyComplete_stays (h : s.clocked n = false ∨ ((s.site n).queue q).flight = []) :
    exec (.copyComplete n q obs) s = .next s := by
  change execCopyComplete n q obs s = _
  unfold execCopyComplete
  rcases h with h | h
  · split
    · rfl
    · exact if_pos h
  · have hf : (s.site n).flightAt q 0 = none := by
      unfold Site.flightAt
      rw [h]
      rfl
    rw [hf]

/-- The site of a copy that ends with a word of the working store beyond ECC. -/
theorem lostSource_site (c : Site) (hs : f.desc.srcKind = 0) :
    let c' := (sourceCounted (flightFailed c q 0 f 6) f.desc 6).stop
    c'.wsEcc = eccUncorrectable c.wsEcc ∧ c'.seq ≠ .running := by
  have hw : (flightFailed c q 0 f 6).wsEcc = c.wsEcc := by rw [flightFailed_frame]
  have hstop (d : Site) : d.stop.wsEcc = d.wsEcc ∧ d.stop.seq ≠ .running := by
    unfold Site.stop
    split
    next h => exact ⟨rfl, by rw [h]; decide⟩
    next => exact ⟨rfl, fun e => SeqState.noConfusion e⟩
  refine ⟨(hstop _).1.trans ?_, (hstop _).2⟩
  unfold sourceCounted
  rw [if_neg fun h => absurd (hs.symm.trans h.2) (by decide), if_pos ⟨rfl, hs⟩]
  exact (hstop _).1.trans (congrArg eccUncorrectable hw)

theorem sourceTold_ws {d : CopyDesc} (u : State) (hs : d.srcKind = 0) (moved : Nat) :
    sourceTold u n d 6 moved = u.wsLost n d.src.toNat := by
  unfold sourceTold
  rw [if_neg fun h => absurd (hs.symm.trans h.2) (by decide), if_pos ⟨rfl, hs⟩]

theorem insertReport_keeps {x : Word64 × Report} (u : Word64) (r : Report) {l : List (Word64 × Report)} (h : x ∈ l) :
    x ∈ insertReport u r l := by
  induction l with
  | nil => exact absurd h List.not_mem_nil
  | cons p l ih =>
    unfold insertReport
    split
    · exact List.mem_cons_of_mem _ h
    · rcases List.mem_cons.1 h with h | h
      · exact h ▸ List.mem_cons_self
      · exact List.mem_cons_of_mem _ (ih h)

/-- A copy that ends with code 6 is told behind what its working store told. -/
theorem copyFail_lostTold (hf : (s.site n).flightAt q 0 = some f) (hs : f.desc.srcKind = 0) :
    (∃ r ∈ (s.copyFail n q 0 6 false).flt.reports, r.2.cls = 0x000A ∧ r.2.site = some n) ∧
      told (s.wsLost n f.desc.src.toNat) (s.copyFail n q 0 6 false) 0x000F (some n) := by
  obtain ⟨fab, -, detail, addr, h⟩ := copyFail_eq hf 6 false
  rw [sourceTold_ws _ hs] at h
  have hr : ((({ s with fab := fab } : State).modSite n fun c => flightGone c q 0 f).modSite n
    (haltQueue q 6 f.desc.tag)).flt = s.flt := rfl
  generalize (({ s with fab := fab } : State).modSite n fun c => flightGone c q 0 f).modSite n
    (haltQueue q 6 f.desc.tag) = u at h hr
  obtain ⟨-, ⟨hul, r, hrm, hrc, hrs⟩⟩ := hwFault_told (s := s) (u := u.modSite n fun c =>
    { c with wsEcc := eccUncorrectable c.wsEcc }) hr n 0x000A 0 (BitVec.ofNat 64 f.desc.src.toNat)
  obtain ⟨-, ⟨hsl, -⟩⟩ := hwFault_told (s := s) (u := s.modSite n fun c =>
    { c with wsEcc := eccUncorrectable c.wsEcc }) rfl n 0x000A 0 (BitVec.ofNat 64 f.desc.src.toNat)
  change (u.wsLost n f.desc.src.toNat).flt.reports.length = _ at hul
  change (s.wsLost n f.desc.src.toNat).flt.reports.length = _ at hsl
  change r ∈ (u.wsLost n f.desc.src.toNat).flt.reports at hrm
  rw [h]
  generalize u.wsLost n f.desc.src.toNat = v at hul hrm
  obtain ⟨htl, htm⟩ := report_told (v.modSite n Site.stop) 0x000F (some n) detail addr
  exact ⟨⟨r, insertReport_keeps _ _ hrm, hrc, hrs⟩, htl.trans (by rw [hsl, ← hul]; rfl), htm⟩

/-! ### A copy of one row within the working store -/

/-- A descriptor of one row from the working store. -/
structure oneRow (d : CopyDesc) : Prop where
  src : d.srcKind = 0
  combine : d.combine = false
  line : d.twoD = false
  rows : d.rows = 1
  length : d.length ≠ 0

theorem oneRow_total {d : CopyDesc} (h : oneRow d) : d.total = d.length.toNat := by
  unfold CopyDesc.total
  rw [h.rows]
  exact Nat.one_mul _

theorem oneRow_pos {d : CopyDesc} (h : oneRow d) : 0 < d.length.toNat :=
  Nat.pos_of_ne_zero fun e => h.length (BitVec.eq_of_toNat_eq e)

theorem oneRow_byRequests {d : CopyDesc} (h : oneRow d) : d.byRequests = byFabric d.dstKind := by
  unfold CopyDesc.byRequests
  rw [h.combine, h.src]
  rfl

/-- The working store once a row has been copied within it. -/
def Site.rowCopied (c : Site) (d : CopyDesc) : Site :=
  c.wsWrite d.dst.toNat (c.wsRead d.src.toNat d.length.toNat)

theorem rowCopied_read (c : Site) (d : CopyDesc) :
    (c.rowCopied d).wsRead d.dst.toNat d.length.toNat = c.wsRead d.src.toNat d.length.toNat := by
  have h := tbytes_tput (d := fun _ => 0) (m := c.ws) d.dst.toNat (c.wsRead d.src.toNat d.length.toNat)
  have hl : (c.wsRead d.src.toNat d.length.toNat).length = d.length.toNat := tbytes_length _ _ _ _
  rw [hl] at h
  exact h

theorem rowCopied_other (c : Site) (d : CopyDesc) {a : Nat} (ha : a < d.dst.toNat ∨ d.dst.toNat + d.length.toNat ≤ a) :
    tget (fun _ => 0) (c.rowCopied d).ws a = tget (fun _ => 0) c.ws a := by
  have hl : (c.wsRead d.src.toNat d.length.toNat).length = d.length.toNat := tbytes_length _ _ _ _
  exact tget_tput_other _ (by rw [hl]; exact ha)

/-- The end of a row's copy, from a state in which its words were checked. -/
theorem rowEnds {u : State} (hf : ((u.site n).queue q).flight = f :: rest) (hd : oneRow f.desc) (hk : f.desc.dstKind = 0)
    (hm : f.moved = 0) (hb : f.desc.bellEn = false) (ht : f.txn = none) (data : List Byte) :
    let t := (u.moveRows n f.desc data f.desc.total f.desc.rows.toNat f.moved).copyDone n q f
    onlySite n u t ∧ (t.site n).ws = ((u.site n).rowCopied f.desc).ws ∧ (t.site n).gran = (u.site n).gran ∧
      (t.site n).wsEcc = (u.site n).wsEcc ∧
      (t.site n).queue q = { (u.site n).queue q with flight := rest, completed := ((u.site n).queue q).completed + 1 } := by
  have hr : f.desc.rows.toNat = 1 := by rw [hd.rows]; rfl
  obtain ⟨hl, hs⟩ := moveRows_line (s := u) (n := n) hd.src hk hd.line (stop := f.desc.length.toNat) le_rfl data
  rw [hr, hm, oneRow_total hd]
  generalize u.moveRows n f.desc data f.desc.length.toNat 1 0 = v at hl hs
  obtain ⟨h1, h2⟩ := copyDone_is (s := v) (n := n) (q := q) hb ht
  have hv : ((v.site n).queue q).flight = f :: rest := by rw [hs]; exact hf
  obtain ⟨e1, -, e3, e4, -⟩ := copyEnded_spec (v.site n) hv
  have hecc : ((v.site n).copyEnded q f).wsEcc = (v.site n).wsEcc := by
    have hx : (v.site n).copyEnded q f = ((v.site n).copyLeft q f).copySignalled f.desc := rfl
    rw [hx, copySignalled_frame, copyLeft_frame]
  dsimp only
  rw [h2]
  refine ⟨onlySite_trans hl h1, e3.trans ?_, e4.trans ?_, hecc.trans ?_, e1.trans ?_⟩
  · rw [hs]; rfl
  · rw [hs]
  · rw [hs]
  · rw [hs]; rfl

section
variable (hf : ((s.site n).queue q).flight = f :: rest) (hd : oneRow f.desc) (hk : f.desc.dstKind = 0)
  (hc : s.clocked n = true) (hm : f.moved = 0)
include hf hd hk hc hm

theorem rowComplete_of : exec (.copyComplete n q obs) s =
    if obs.ecc = .uncorrectable then .next (s.copyFail n q 0 6 false)
    else .next (((s.copyEcc n 0 obs).moveRows n f.desc obs.data f.desc.total f.desc.rows.toNat f.moved).copyDone n q f) := by
  have h := copyComplete_local (obs := obs) hf hc (by rw [hm, oneRow_total hd]; exact oneRow_pos hd)
    (by rw [hd.src]; decide) (by rw [hk]; decide) (by rw [oneRow_byRequests hd, hk]; rfl)
    (fun e => absurd (hd.src.symm.trans e) (by decide))
  rw [hd.src] at h
  exact h.trans (if_congr ⟨fun e => e.1, fun e => ⟨e, by decide⟩⟩ rfl rfl)

theorem row_clean (hb : f.desc.bellEn = false) (ht : f.txn = none) (he : obs.ecc = .clean) :
    completes (.copyComplete n q obs) s fun t => onlySite n s t ∧
      (t.site n).wsRead f.desc.dst.toNat f.desc.length.toNat = (s.site n).wsRead f.desc.src.toNat f.desc.length.toNat ∧
      (∀ a, a < f.desc.dst.toNat ∨ f.desc.dst.toNat + f.desc.length.toNat ≤ a →
        tget (fun _ => 0) (t.site n).ws a = tget (fun _ => 0) (s.site n).ws a) ∧
      (t.site n).gran = (s.site n).gran ∧
      (t.site n).queue q = { (s.site n).queue q with flight := rest, completed := ((s.site n).queue q).completed + 1 } := by
  have h := rowComplete_of (obs := obs) hf hd hk hc hm
  rw [if_neg (by rw [he]; decide), copyEcc_clean s n 0 he] at h
  obtain ⟨h1, h2, h3, -, h5⟩ := rowEnds hf hd hk hm hb ht obs.data
  refine ⟨_, h, h1, ?_, fun a ha => ?_, h3, h5⟩
  · unfold Site.wsRead
    rw [h2]
    exact rowCopied_read _ _
  · rw [h2]
    exact rowCopied_other _ _ ha

theorem row_corrected (hb : f.desc.bellEn = false) (ht : f.txn = none) (he : obs.ecc = .corrected) :
    completes (.copyComplete n q obs) s fun t => siteAndLog n s t ∧ t.flt.reports = s.flt.reports ∧
      (t.site n).wsRead f.desc.dst.toNat f.desc.length.toNat = (s.site n).wsRead f.desc.src.toNat f.desc.length.toNat ∧
      (t.site n).wsEcc = eccCorrected (s.site n).wsEcc ∧ ((t.site n).queue q).flight = rest := by
  have h := rowComplete_of (obs := obs) hf hd hk hc hm
  have hx : s.copyEcc n 0 obs = s.wsFixed n obs.off.toNat := by
    unfold State.copyEcc
    rw [he]
    rfl
  rw [if_neg (by rw [he]; decide), hx] at h
  have hu : siteAndLog n s (s.wsFixed n obs.off.toNat) := siteAndLog_trans (onlySite_siteAndLog (onlySite_modSite s n _))
    (corrected_siteAndLog _ n _ _)
  have hus := wsFixed_site (s := s) (n := n) obs.off.toNat
  have hur : (s.wsFixed n obs.off.toNat).flt.reports = s.flt.reports := rfl
  generalize s.wsFixed n obs.off.toNat = u at h hu hus hur
  have huq : ((u.site n).queue q).flight = f :: rest := by rw [hus]; exact hf
  obtain ⟨h1, h2, -, h4, h5⟩ := rowEnds huq hd hk hm hb ht obs.data
  refine ⟨_, h, siteAndLog_trans hu (onlySite_siteAndLog h1), ?_, ?_, ?_, ?_⟩
  · rw [h1.1]
    exact hur
  · unfold Site.wsRead
    rw [h2]
    refine (rowCopied_read _ _).trans ?_
    rw [hus]
    rfl
  · rw [h4, hus]
  · rw [h5]

/-- A word beyond ECC ends the copy with code 6, and its store tells it too (R97, R113, R186). -/
theorem row_lost (ht : f.txn = none) (he : obs.ecc = .uncorrectable) (hh : ((s.site n).queue q).halted = false) :
    completes (.copyComplete n q obs) s fun t => siteAndLog n s t ∧ (t.site n).ws = (s.site n).ws ∧
      (t.site n).toks = (s.site n).toks ∧ (t.site n).wsEcc = eccUncorrectable (s.site n).wsEcc ∧
      (t.site n).seq ≠ .running ∧
      (t.site n).queue q = { (s.site n).queue q with flight := rest, halted := true, err := 6, errTag := f.desc.tag } ∧
      (∃ r ∈ t.flt.reports, r.2.cls = 0x000A ∧ r.2.site = some n) ∧
      told (s.wsLost n f.desc.src.toNat) t 0x000F (some n) := by
  have h := rowComplete_of (obs := obs) hf hd hk hc hm
  rw [if_pos he] at h
  have hfa := flightAt_head hf
  obtain ⟨fab, hfab, hlog⟩ := copyFail_frame hfa 6 false
  obtain ⟨hq, -, htok, hws, -⟩ := copyFail_queues hfa 6 false
  have hsite := copyFail_site hfa 6 false
  obtain ⟨hecc, hseq⟩ := lostSource_site (q := q) (s.site n) hd.src
  rw [hfab ht] at hlog
  refine ⟨_, h, hlog, hws, htok, ?_, ?_, ?_, ?_⟩
  · rw [hsite]; exact hecc
  · rw [hsite]; exact hseq
  · rw [hq, flightFailed_queue _ _ _ _ _ hh, hf]
    rfl
  · exact copyFail_lostTold hfa hd.src

end

end

/-- Settles O31: the start by whether the descriptor may start and its source lies in its reservation, the completion by
what its bytes still need. -/
theorem copiesStartAndComplete : Obligations.CopiesStartAndComplete := by
  unfold Obligations.CopiesStartAndComplete
  refine ⟨fun s n q tm d rest h => ⟨fun hst hc hr hco hs hd => ?_, fun hw => ⟨_, copyStart_waits h hw tm, rfl⟩,
      fun hst hc hr => copyStart_fails h hst hc hr tm⟩,
    fun s n q obs f rest hf hc he hm hb ht => ?_, fun s n q obs f rest hf hc hsrc hco h2 hr hl hm hb ht => ?_,
    fun s n q obs h => ⟨s, copyComplete_stays h, rfl⟩, fun s n q obs f rest hf hm h1 hr h2 hg =>
      ⟨s, copyComplete_refills hf hm h1 hr h2 hg, rfl⟩⟩
  · refine ⟨_, copyStart_starts h hst hc hr hco hs hd tm, ⟨rfl, fun m hm => ?_⟩, ?_⟩
    · exact State.site_setSite_other _ _ hm
    · rw [State.site_setSite_same]
      exact ⟨(started_queue _ _).1, (started_queue _ _).2, started_frame _ _, (started_sill _ _).1, (started_sill _ _).2⟩
  · obtain ⟨h1, h2⟩ := copyDone_is (s := s) (n := n) (q := q) hb ht
    refine ⟨_, copyComplete_ends hf hc he hm, h1, ?_⟩
    rw [h2]
    exact copyEnded_spec (s.site n) hf
  · have hd : oneRow f.desc := ⟨hsrc, hco, h2, hr, hl⟩
    refine ⟨fun hk he => row_clean hf hd hk hc hm hb ht he, fun hk he => row_corrected hf hd hk hc hm hb ht he,
      fun hk he hh => row_lost hf hd hk hc hm ht he hh, fun hk => ⟨s, ?_, rfl⟩⟩
    refine copyComplete_requests hf hc (by rw [hm, oneRow_total hd]; exact oneRow_pos hd) (by rw [hsrc]; decide)
      (fun e => ?_) ((oneRow_byRequests hd).trans hk)
    rw [e] at hk
    exact absurd hk (by decide)

end Sys2Proof.Machine
end

section
/-!
PROOF. Memory controllers: responses at a free port, requests, retraining and remote pages (R225 to R228, R243 to R249).
-/

namespace Sys2Proof.Machine

/-! ### A router's source port that is free (R202, R204) -/

section
variable {s u : State} {r : Fin 64} {e : PortReq}

/-- No copy of a core at a router has a request to send. -/
def State.noCopies (s : State) (r : Fin 64) : Prop := ∀ n, siteAtRtr r = some n → ∀ q, s.copyHead n q = none

theorem portFree_spec (h : s.portFree r = true) : s.fab.paused = none ∧ s.fab.waiting = [] ∧ s.noCopies r ∧
    ∀ b, (s.buf r 4 b).length < 2 := by
  unfold State.portFree State.portIdle at h
  simp only [Bool.and_eq_true, decide_eq_true_eq, Option.isNone_iff_eq_none, List.isEmpty_iff] at h
  obtain ⟨⟨⟨hp, hw, hc⟩, h0⟩, h1⟩ := h
  refine ⟨hp, hw, fun n hn q => ?_, fun b => by cases b <;> assumption⟩
  rw [hn] at hc
  exact Option.isNone_iff_eq_none.1 (List.all_eq_true.1 hc q (List.mem_finRange q))

theorem offer_none (hw : s.fab.waiting = []) (hc : s.noCopies r) (w : Nat) : s.offer r w = none := by
  unfold State.offer
  rw [hw]
  dsimp only [List.find?_nil]
  split
  · cases hn : siteAtRtr r with
    | none => rfl
    | some n =>
      rw [Option.bind_some, hc n hn]
      split <;> rfl
  · rfl

theorem markWaits_none (hc : s.noCopies r) : s.markWaits r = s := by
  unfold State.markWaits
  cases hn : siteAtRtr r with
  | none => rfl
  | some n =>
    refine foldl_still _ fun q _ => ?_
    rw [hc n hn q]

/-- A port with nothing to send stays as it is. -/
theorem servePort_idle (hw : s.fab.waiting = []) (hc : s.noCopies r) (k : Nat) : s.servePort r k = s := by
  have hg : s.portGrant r = none := by
    unfold State.portGrant State.offers
    dsimp only
    rw [List.filterMap_eq_nil_iff.2 fun w _ => by rw [offer_none hw hc]; rfl]
    rfl
  cases k with
  | zero => exact markWaits_none hc
  | succ k =>
    unfold State.servePort
    rw [hg]
    exact markWaits_none hc

/-- The requesters of a port in turn: each of the five once. -/
theorem turns_once {α : Type} (last : Nat) (x : α) :
    (([1, 2, 3, 4, 5].map fun k => (last + k) % 5).filterMap fun w => if w = 4 then some x else none) = [x] := by
  have h : last % 5 < 5 := Nat.mod_lt _ (by decide)
  have hk (k : Nat) : (last + k) % 5 = (last % 5 + k) % 5 := by omega
  simp only [hk]
  generalize last % 5 = m at h
  have hm : m = 0 ∨ m = 1 ∨ m = 2 ∨ m = 3 ∨ m = 4 := by omega
  rcases hm with rfl | rfl | rfl | rfl | rfl <;> rfl

/-- The only packet that waits at a port is the grant, when it can be sent and is no copy's. -/
theorem portGrant_only (hw : u.fab.waiting = [e]) (hr : e.pkt.srcRtr = r) (hc : u.noCopies r)
    (hs : u.canSend e.pkt e.kind = true) (hq : u.requester e = 4) : u.portGrant r = some (4, 1, .queued e) := by
  have ho : (fun w => (u.offer r w).map fun o => (w, o)) = fun w => if w = 4 then some (4, 1, Offer.queued e) else none := by
    funext w
    by_cases h4 : w = 4
    · subst h4
      rw [if_pos rfl]
      unfold State.offer
      have hf : (u.fab.waiting.find? fun e => decide (e.pkt.srcRtr = r) && decide (u.requester e = 4) &&
          u.canSend e.pkt e.kind) = some e := by
        rw [hw, List.find?_cons_of_pos]
        rw [hr, hq, hs]
        simp
      rw [hf]
      rfl
    · rw [if_neg h4]
      unfold State.offer
      have hf : (u.fab.waiting.find? fun e => decide (e.pkt.srcRtr = r) && decide (u.requester e = w) &&
          u.canSend e.pkt e.kind) = none := by
        have h4' : ¬4 = w := fun h => h4 h.symm
        rw [hw, List.find?_cons_of_neg (by simp [hq, h4']), List.find?_nil]
      rw [hf]
      dsimp only
      split
      · cases hn : siteAtRtr r with
        | none => rfl
        | some n =>
          rw [Option.bind_some, hc n hn]
          split <;> rfl
      · rfl
  unfold State.portGrant State.offers
  dsimp only
  rw [ho, turns_once]
  simp

/-- What a port's turn leaves: the requester granted last. -/
def State.granted4 (s : State) (r : Fin 64) : State :=
  { s with fab := { s.fab with portLast := tset (fun _ => 4) s.fab.portLast r.val 4 } }

theorem granted4_waiting (s : State) (r : Fin 64) : (s.granted4 r).fab.waiting = s.fab.waiting := rfl

/-- A port with one packet to send sends it. -/
theorem servePort_only (hw : u.fab.waiting = [e]) (hr : e.pkt.srcRtr = r) (hc : u.noCopies r)
    (hs : u.canSend e.pkt e.kind = true) (hq : u.requester e = 4) (hsent : (u.sendQueued e).fab.waiting = [])
    (hcs : ((u.sendQueued e).granted4 r).noCopies r) (k : Nat) : u.servePort r (k + 1) = (u.sendQueued e).granted4 r := by
  unfold State.servePort
  rw [portGrant_only hw hr hc hs hq]
  exact servePort_idle ((granted4_waiting _ r).trans hsent) hcs k

/-- A packet that waits alone and is taken leaves the state as it was before it waited. -/
theorem queueAt_erase (hw : s.fab.waiting = []) (e : PortReq) :
    { s.queueAt e with fab := { (s.queueAt e).fab with waiting := (s.queueAt e).fab.waiting.erase e } } = s := by
  have h : (s.queueAt e).fab.waiting.erase e = [] := by
    change (s.fab.waiting ++ [e]).erase e = []
    rw [hw]
    exact List.erase_cons_head ..
  rw [h, ← hw]
  rfl

theorem canSend_response {p : Packet} (h : s.portFree p.srcRtr = true) : s.canSend p .response = true := by
  obtain ⟨hp, -, -, hb⟩ := portFree_spec h
  unfold State.canSend
  rw [hp, decide_eq_true (hb (planeOf p))]
  rfl

theorem canSend_queued (s : State) (e : PortReq) (p : Packet) (k : PortKind) : (s.queueAt e).canSend p k = s.canSend p k :=
  rfl

/-- The requests that copies have do not depend on what the mesh holds. -/
theorem copyHead_sent (s : State) (bufs : Tab (List Packet)) (flying : List Packet) (last : Tab Nat) (out : List Out)
    (n : SiteNo) (q : Fin 4) :
    ({ s with fab := { s.fab with bufs := bufs, flying := flying, portLast := last }, out := out } : State).copyHead n q =
      s.copyHead n q := rfl

theorem entered_noCopies (hc : s.noCopies r) (p : Packet) : ((s.enter p).granted4 p.srcRtr).noCopies r :=
  fun n hn q => (copyHead_sent s _ _ _ _ n q).trans (hc n hn q)

/-- A response at a free port enters the mesh at once. -/
theorem respond_free {p : Packet} (h : s.portFree p.srcRtr = true) : s.respond p = (s.enter p).granted4 p.srcRtr := by
  obtain ⟨hp, hw, hc, hb⟩ := portFree_spec h
  have hq : (s.queueAt { pkt := p, kind := .response }).fab.waiting = [{ pkt := p, kind := .response }] := by
    change s.fab.waiting ++ _ = _
    rw [hw]
    rfl
  have hsent : (s.queueAt { pkt := p, kind := .response }).sendQueued { pkt := p, kind := .response } = s.enter p := by
    exact congrArg (State.enter · p) (queueAt_erase hw _)
  have hx := servePort_only (u := s.queueAt { pkt := p, kind := .response }) hq rfl (fun n hn q => hc n hn q)
    ((canSend_queued s _ _ _).trans (canSend_response h)) rfl (by rw [hsent]; exact hw) (by rw [hsent]; exact entered_noCopies hc p) 4
  rw [hsent] at hx
  exact hx

/-- What a response at a free port leaves: the fabric that sends it, and the packet announced. -/
theorem respond_sends {p : Packet} (h : s.portFree p.srcRtr = true) :
    s.respond p = { s with fab := (s.respond p).fab, out := s.out ++ [.packet p] } ∧ fabSent s (s.respond p) := by
  rw [respond_free h]
  exact ⟨rfl, rfl⟩

end

/-! ### Bytes of GDDR7 that a request writes (R184, R226) -/

section
variable {s : State}

/-- A state whose GDDR7 holds D. -/
def State.withDdr (s : State) (D : Tab Byte) : State := { s with mem := { s.mem with ddr := D } }

/-- D differs from the GDDR7 of a state inside a range at most. -/
def ddrWithin (s : State) (D : Tab Byte) (a len : Nat) : Prop :=
  ∀ x, x < a ∨ a + len ≤ x → tget s.ddrD D x = tget s.ddrD s.mem.ddr x

theorem ddrWithin_read {D : Tab Byte} {a len x : Nat} (h : ddrWithin s D a len) (hx : x < a ∨ a + len ≤ x) :
    (s.withDdr D).ddrRead x 1 = s.ddrRead x 1 := congrArg (fun b => [b]) (h x hx)

theorem ddrWithin_tput {D : Tab Byte} {a len o : Nat} {bs : List Byte} (h : ddrWithin s D a len) (ho : o + bs.length ≤ len) :
    ddrWithin s (tput s.ddrD D (a + o) bs) a len := fun x hx =>
  (tget_tput_other bs (by omega)).trans (h x hx)

/-- The words that pass are within the payload. -/
theorem goodWords_within (bs : List Byte) (bad : List Nat) : ∀ w ∈ goodWords bs bad, w.1 + w.2.length ≤ bs.length ∨ w.2 = [] := by
  intro w hw
  obtain ⟨i, -, rfl⟩ := List.mem_map.1 hw
  dsimp only
  rw [List.length_take, List.length_drop]
  by_cases h : 8 * i ≤ bs.length
  · exact .inl (by omega)
  · exact .inr (by rw [List.drop_eq_nil_of_le (by omega)]; rfl)

/-- What a payload leaves of GDDR7: nothing outside its own bytes, and all of it when no word is bad. -/
theorem putWords_ddr (s : State) (bs : List Byte) (bad : List Nat) (a : Nat) : ∃ D,
    (s.putWords bs bad fun s o w => s.ddrWrite (a + o) w) = s.withDdr D ∧ ddrWithin s D a bs.length ∧
      (bad = [] → tbytes s.ddrD D a bs.length = bs) := by
  unfold State.putWords
  split
  next h =>
    exact ⟨_, rfl, ddrWithin_tput (fun _ _ => rfl) (by omega), fun _ => tbytes_tput a bs⟩
  next h =>
    have hf (L : List (Nat × List Byte)) (hL : ∀ w ∈ L, w.1 + w.2.length ≤ bs.length ∨ w.2 = []) (E : Tab Byte)
        (hE : ddrWithin s E a bs.length) :
        ∃ D, L.foldl (fun s w => s.ddrWrite (a + w.1) w.2) (s.withDdr E) = s.withDdr D ∧ ddrWithin s D a bs.length := by
      induction L generalizing E with
      | nil => exact ⟨E, rfl, hE⟩
      | cons w L ih =>
        refine ih (fun v hv => hL v (List.mem_cons_of_mem _ hv)) (tput s.ddrD E (a + w.1) w.2) ?_
        rcases hL w List.mem_cons_self with hw | hw
        · exact ddrWithin_tput hE hw
        · rw [hw]
          exact hE
    obtain ⟨D, hD, hw⟩ := hf _ (goodWords_within bs bad) s.mem.ddr fun _ _ => rfl
    exact ⟨D, hD, hw, fun e => absurd e h⟩

/-! ### The answer of a controller -/

variable {f : FieldNo} {r : MemReq}

theorem portFree_withDdr (s : State) (D : Tab Byte) (p : Fin 64) : (s.withDdr D).portFree p = s.portFree p := rfl

/-- A packet has been sent at once from a free port, and nothing else has changed. -/
def sentOne (s t : State) (p : Packet) : Prop := t = { s with fab := t.fab, out := s.out ++ [.packet p] } ∧ fabSent s t

theorem memAnswer_sends (h : s.portFree (s.memPort f).1 = true) (st : BitVec 4) (data : List Byte) :
    sentOne s (s.memAnswer f r st data) (s.unitAnswer f r st data) :=
  respond_sends (p := s.unitAnswer f r st data) h

theorem unitAnswer_is (s : State) (st : BitVec 4) (data : List Byte) : let p := s.unitAnswer f r st data
    p.opc = (if r.write then 2 else 4) ∧ p.status = st ∧ p.txn = r.txn ∧ p.dstRtr = r.dstRtr ∧ p.data = data :=
  ⟨rfl, rfl, rfl, rfl, rfl⟩

theorem workRepeats_none (w : MemWork) (h : ∀ x ∈ w.crc, x.2 = 0) : s.workRepeats f w = s := by
  unfold State.workRepeats
  refine foldl_still _ fun x hx => ?_
  rw [h x hx]
  rfl

theorem failed_none (w : MemWork) (h : ∀ x ∈ w.crc, x.2 < 4) : w.failed = none := by
  unfold MemWork.failed
  rw [List.find?_eq_none.2 fun x hx => by simpa using h x hx]
  rfl

/-- A request whose bursts all succeed has its effect at once. -/
theorem memServe_done (w : MemWork) (h : ∀ x ∈ w.crc, x.2 = 0) (t : Word64) : s.memServe f w t = s.workEffect f w := by
  unfold State.memServe
  rw [workRepeats_none w h, failed_none w fun x hx => by rw [h x hx]; decide]

/-! ### Channels of a memory site -/

@[simp] theorem MemSite.chan_setChan_same (m : MemSite) (ch : Fin 4) (v : Channel) : (m.setChan ch v).chan ch = v :=
  tget_tset_same _ _ _ _

theorem MemSite.chan_setChan_other (m : MemSite) {ch x : Fin 4} (v : Channel) (h : x ≠ ch) :
    (m.setChan ch v).chan x = m.chan x := tget_tset_other _ _ _ (val_ne h)

theorem modChan_same (u : State) (ms : MemNo) (ch : Fin 4) (g : Channel → Channel) :
    (u.modChan ms ch g).msite ms = (u.msite ms).setChan ch (g ((u.msite ms).chan ch)) :=
  State.msite_modMsite_same u ms fun m => m.setChan ch (g (m.chan ch))

theorem modChan_other (u : State) {ms m : MemNo} (ch : Fin 4) (g : Channel → Channel) (h : m ≠ ms) :
    (u.modChan ms ch g).msite m = u.msite m :=
  State.msite_modMsite_other u (fun m => m.setChan ch (g (m.chan ch))) h

theorem modChan_frame (u : State) (ms : MemNo) (ch : Fin 4) (g : Channel → Channel) :
    u.modChan ms ch g = { u with mem := { u.mem with sites := (u.modChan ms ch g).mem.sites } } := rfl

/-- A memory site that counts repeats of a burst. -/
def MemSite.repeated (m : MemSite) (k : Nat) : MemSite := { m with crcRepeats := satAdd m.crcRepeats k }

/-- A channel with one repeated burst more in a window. -/
def Channel.burstIn (c : Channel) (w : Nat) : Channel :=
  if c.window = w then { c with repeats := c.repeats + 1 } else { c with window := w, repeats := 1 }

theorem crcRepeats_is (s : State) (ms : MemNo) (ch : Fin 4) (b : Bool) {k : Nat} (hk : k ≠ 0) : s.crcRepeats ms ch b k =
    ((s.modMsite ms (·.repeated k)).modChan ms ch (·.burstIn (s.tb.toNat / 1000000))).fold 0x0203 ms.val
      (BitVec.ofNat 32 (ms.val + 16 * ch.val) ||| bitAt b 6) 0 := if_neg hk

/-- The repeats of a burst touch its site's counts and the log. -/
theorem crcRepeats_spec (s : State) (ms : MemNo) (ch : Fin 4) (b : Bool) {k : Nat} (hk : k ≠ 0) :
    memSitesAndLog s (s.crcRepeats ms ch b k) ∧
      ((s.crcRepeats ms ch b k).msite ms).crcRepeats = satAdd (s.msite ms).crcRepeats k := by
  rw [crcRepeats_is s ms ch b hk]
  refine ⟨rfl, ?_⟩
  have h1 := modChan_same (s.modMsite ms (·.repeated k)) ms ch (·.burstIn (s.tb.toNat / 1000000))
  have h2 : (s.modMsite ms (·.repeated k)).msite ms = (s.msite ms).repeated k := State.msite_modMsite_same s ms _
  generalize (s.modMsite ms (·.repeated k)).modChan ms ch (·.burstIn (s.tb.toNat / 1000000)) = u at h1
  have hf : (u.fold 0x0203 ms.val (BitVec.ofNat 32 (ms.val + 16 * ch.val) ||| bitAt b 6) 0).msite ms = u.msite ms := rfl
  rw [hf, h1, h2]
  rfl

theorem retrain_frame {s u v : State} (hu : memSitesAndLog s u) (hv : v = { u with mem := { u.mem with sites := v.mem.sites } })
    (l : List MemItem) : let t := { v with mem := { v.mem with waiting := l } }
    t = { s with mem := { s.mem with sites := t.mem.sites, waiting := t.mem.waiting }, flt := t.flt, jrnl := t.jrnl } := by
  unfold memSitesAndLog at hu
  generalize v.mem.sites = ms at hv
  subst hv
  generalize u.mem.sites = ns, u.flt = flt, u.jrnl = jrnl at hu
  subst hu
  rfl

/-- A channel that is due since an instant, or since earlier. -/
def Channel.dueSince (c : Channel) (t : Word64) : Channel := { c with due := some (c.due.getD t) }

theorem modChan_due (u : State) (ms : MemNo) (ch : Fin 4) (t : Word64) :
    let v := u.modChan ms ch (·.dueSince t)
    v = { u with mem := { u.mem with sites := v.mem.sites } } ∧ (v.msite ms).crcRepeats = (u.msite ms).crcRepeats ∧
      ((v.msite ms).chan ch).due.isSome = true := by
  refine ⟨rfl, (congrArg MemSite.crcRepeats (modChan_same u ms ch (·.dueSince t))).trans rfl, ?_⟩
  rw [modChan_same, MemSite.chan_setChan_same]
  rfl

/-- A request waits for the retrain of a channel. -/
def State.awaits (s : State) (f : FieldNo) (w : MemWork) (since : Word64) (x : MemNo × Fin 4) : State :=
  { s with mem := { s.mem with waiting := s.mem.waiting ++ [{ field := f, work := w, since := since, after := some x }] } }

/-- A request one of whose bursts failed four times. -/
theorem memServe_failed {u : State} {w : MemWork} {a : Nat} (hu : s.workRepeats f w = u) (hw : w.failed = some a)
    (t : Word64) : s.memServe f w t =
      (u.modChan (memOf u f a) (chanOf u f a) (·.dueSince u.tb)).awaits f w.again t (memOf u f a, chanOf u f a) := by
  unfold State.memServe
  rw [hu]
  dsimp only
  rw [hw]
  rfl

theorem memRequest_of (hd : s.isDark f = false) : exec (.memRequest f r) s = .next (s.memArrive f (.unit r)) :=
  if_neg (by rw [hd]; decide)

theorem memArrive_waits {w : MemWork} (hc : s.workCode f w = 0) (hh : s.memHeld f w s.mem.waiting = true) :
    s.memArrive f w = { s with mem := { s.mem with
      waiting := s.mem.waiting ++ [{ field := f, work := w, since := s.tb, after := none }] } } := by
  unfold State.memArrive
  dsimp only
  rw [if_neg (fun h => h hc), if_pos hh]

theorem memArrive_serves {w : MemWork} (hc : s.workCode f w = 0) (hh : s.memHeld f w s.mem.waiting = false) :
    s.memArrive f w = s.memServe f w s.tb := by
  unfold State.memArrive
  dsimp only
  rw [if_neg (fun h => h hc), if_neg (by rw [hh]; decide)]

theorem memArrive_refuses {w : MemWork} (hc : s.workCode f w ≠ 0) :
    s.memArrive f w = s.workAnswer f (s.workCode f w) [] w := if_pos hc

section
variable (hd : s.isDark f = false) (hc : s.memCode f r = 0) (hh : s.memHeld f (.unit r) s.mem.waiting = false)
include hd hc hh

theorem memRequest_serves (h0 : r.crcFails = 0) :
    exec (.memRequest f r) s = .next (s.workEffect f (.unit r)) := by
  rw [memRequest_of hd, memArrive_serves (w := .unit r) hc hh, memServe_done]
  exact fun x hx => by rw [List.mem_singleton.1 hx]; exact h0

/-- A write that may be served leaves nothing outside its bytes, and answers OK or 6 (R184, R226). -/
theorem memRequest_writes (h0 : r.crcFails = 0) (hp : s.portFree (s.memPort f).1 = true) (hw : r.write = true) :
    ∃ t D, exec (.memRequest f r) s = .next t ∧ ddrWithin s D r.addr.toNat r.data.length ∧
      (r.bad = [] → tbytes s.ddrD D r.addr.toNat r.data.length = r.data) ∧
      sentOne (s.withDdr D) t (s.unitAnswer f r (if r.bad ≠ [] then 6 else 0) []) := by
  obtain ⟨D, hD, hin, hall⟩ := putWords_ddr s r.data r.bad r.addr.toNat
  refine ⟨_, D, memRequest_serves hd hc hh h0, hin, hall, ?_⟩
  have he : s.workEffect f (.unit r) = (s.withDdr D).memAnswer f r (if r.bad ≠ [] then 6 else 0) [] := by
    unfold State.workEffect
    dsimp only
    rw [if_pos hw]
    unfold State.ddrPut
    exact congrArg (fun u : State => u.workAnswer f (if r.bad ≠ [] then 6 else 0) [] (.unit r)) hD
  rw [he]
  exact memAnswer_sends ((portFree_withDdr s D _).trans hp) _ _

theorem memRequest_reads (h0 : r.crcFails = 0) (hp : s.portFree (s.memPort f).1 = true) (hw : r.write = false)
    (he : r.ecc = .clean) : ∃ t, exec (.memRequest f r) s = .next t ∧
      sentOne s t (s.unitAnswer f r 0 (s.ddrRead r.addr.toNat 64)) := by
  refine ⟨_, memRequest_serves hd hc hh h0, ?_⟩
  have hx : s.workEffect f (.unit r) = s.memAnswer f r 0 (s.ddrRead r.addr.toNat 64) := by
    unfold State.workEffect
    dsimp only
    rw [hw, he]
    rfl
  rw [hx]
  exact memAnswer_sends hp _ _

/-- A burst that failed four times waits for its channel's retrain (R225, R243). -/
theorem memRequest_retrains (h4 : 4 ≤ r.crcFails) : completes (.memRequest f r) s fun t =>
    let ms := memOf s f r.addr.toNat
    let ch := chanOf s f r.addr.toNat
    t = { s with mem := { s.mem with sites := t.mem.sites, waiting := t.mem.waiting }, flt := t.flt, jrnl := t.jrnl } ∧
      (t.msite ms).crcRepeats = satAdd (s.msite ms).crcRepeats 3 ∧ ((t.msite ms).chan ch).due.isSome = true ∧
      t.mem.waiting = s.mem.waiting ++ [{ field := f, work := .unit { r with crcFails := 1 }, since := s.tb, after := some (ms, ch) }] := by
  let ms := memOf s f r.addr.toNat
  let ch := chanOf s f r.addr.toNat
  have hw : (MemWork.unit r).failed = some r.addr.toNat := by
    unfold MemWork.failed
    change ([(r.addr.toNat, r.crcFails)].find? _).map _ = _
    rw [List.find?_cons_of_pos (by simpa using h4)]
    rfl
  have hr : s.workRepeats f (.unit r) = s.crcRepeats ms ch r.write 3 := by
    have h3 : min r.crcFails 3 = 3 := by omega
    exact congrArg (s.crcRepeats ms ch r.write) h3
  obtain ⟨hu, hcr⟩ := crcRepeats_spec s ms ch r.write (k := 3) (by decide)
  have hms : ∀ u, memSitesAndLog s u → memOf u f r.addr.toNat = ms ∧ chanOf u f r.addr.toNat = ch ∧ u.tb = s.tb ∧
      u.mem.waiting = s.mem.waiting := by
    intro u h
    rw [h]
    exact ⟨rfl, rfl, rfl, rfl⟩
  obtain ⟨h1, h2, -, h5⟩ := hms _ hu
  refine ⟨s.memServe f (.unit r) s.tb, by rw [memRequest_of hd, memArrive_serves (w := .unit r) hc hh], ?_⟩
  rw [memServe_failed hr hw]
  generalize s.crcRepeats ms ch r.write 3 = u at hu hcr h1 h2 h5
  rw [h1, h2]
  obtain ⟨hv, hvr, hvd⟩ := modChan_due u ms ch u.tb
  generalize u.modChan ms ch (·.dueSince u.tb) = v at hv hvr hvd ⊢
  have hvw : v.mem.waiting = s.mem.waiting := (by rw [hv] : v.mem.waiting = u.mem.waiting).trans h5
  exact ⟨retrain_frame hu hv _, hvr.trans hcr, hvd, congrArg (· ++ _) hvw⟩

end

end

/-! ### Temperatures and channels that come due (R243) -/

section
variable {s : State} {ms : MemNo} {ch : Fin 4}

/-- A memory site that has read its temperature. -/
def MemSite.heated (m : MemSite) (x : Byte) : MemSite :=
  (List.finRange 4).foldl (fun m ch => m.setChan ch ((m.chan ch).firstTemp x)) { m with temp := x }

theorem heated_spec (m : MemSite) (x : Byte) : m.heated x = { m with temp := x, chans := (m.heated x).chans } ∧
    ∀ ch, (m.heated x).chan ch = (m.chan ch).firstTemp x := by
  refine ⟨?_, fun ch => ?_⟩
  · have h : m.heated x = { { m with temp := x } with chans := (m.heated x).chans } :=
      foldl_related (P := fun a b : MemSite => b = { a with chans := b.chans }) (fun _ => rfl)
        (fun a b c hb hc => by rw [hc, hb]) (fun a ch => rfl) (List.finRange 4) { m with temp := x }
    exact h
  · have h := foldl_touches (F := fun (m : MemSite) (ch : Fin 4) => m.setChan ch ((m.chan ch).firstTemp x))
      (read := fun ch m => m.chan ch) (new := fun _ c => c.firstTemp x) (fun m ch => MemSite.chan_setChan_same m ch _)
      (fun m ch c hc => MemSite.chan_setChan_other m _ hc) (List.nodup_finRange 4) { m with temp := x } ch
    rw [if_pos (List.mem_finRange ch)] at h
    exact h

theorem memTempRead_heats (h : (s.msite ms).st = 1 ∨ (s.msite ms).st = 2) (x : Byte) :
    completes (.memTempRead ms x) s fun t => t = { s with mem := { s.mem with sites := t.mem.sites } } ∧
      t.msite ms = { s.msite ms with temp := x, chans := (t.msite ms).chans } ∧
      (∀ ch, (t.msite ms).chan ch = ((s.msite ms).chan ch).firstTemp x) ∧ ∀ m, m ≠ ms → t.msite m = s.msite m := by
  refine ⟨s.setMsite ms ((s.msite ms).heated x), if_neg (by rcases h with h | h <;> rw [h] <;> decide), rfl, ?_⟩
  rw [State.msite_setMsite_same]
  exact ⟨(heated_spec _ x).1, (heated_spec _ x).2, fun m hm => State.msite_setMsite_other s _ hm⟩

theorem msite_at (s : State) (tm : Word64) (m : MemNo) : (s.at tm).msite m = s.msite m := by
  obtain ⟨b, hb⟩ := at_is s tm
  rw [hb]
  rfl

theorem mem_at (s : State) (tm : Word64) : (s.at tm).mem = s.mem := by
  obtain ⟨b, hb⟩ := at_is s tm
  rw [hb]

theorem retrainDue_marks {cause : RetrainCause} {tm : Word64} (h2 : (s.msite ms).st = 2)
    (hd : ((s.msite ms).chan ch).due = none) (hc : (s.at tm).retrainDue ms ch cause = true) :
    completes (.channelRetrainDue ms ch cause tm) s fun t =>
      t = { s.at tm with mem := { s.mem with sites := t.mem.sites } } ∧
      (t.msite ms).chan ch = { (s.msite ms).chan ch with due := some (s.at tm).tb } ∧
      (∀ c, c ≠ ch → (t.msite ms).chan c = (s.msite ms).chan c) ∧ ∀ m, m ≠ ms → t.msite m = s.msite m := by
  have he : exec (.channelRetrainDue ms ch cause tm) s =
      .next ((s.at tm).modChan ms ch fun c => { c with due := some (s.at tm).tb }) := by
    change execChannelRetrainDue ms ch cause tm s = _
    unfold execChannelRetrainDue
    dsimp only
    rw [msite_at, if_neg (by rw [h2, hd, hc]; decide)]
  refine ⟨_, he, ?_, ?_, fun c hcc => ?_, fun m hm => ?_⟩
  · rw [← mem_at s tm]
    rfl
  · rw [modChan_same, MemSite.chan_setChan_same, msite_at]
  · rw [modChan_same, MemSite.chan_setChan_other _ _ hcc, msite_at]
  · rw [modChan_other _ _ _ hm, msite_at]

/-! ### The steps of a retrain (R243 to R245) -/

theorem retrainingIn_at (s : State) (tm : Word64) (f : FieldNo) : (s.at tm).retrainingIn f = s.retrainingIn f ∧
    (s.at tm).nextRetrain f = s.nextRetrain f := by
  obtain ⟨b, hb⟩ := at_is s tm
  rw [hb]
  exact ⟨rfl, rfl⟩

/-- A channel that a step has closed. -/
def Channel.stepped (c : Channel) : Channel := { c with closed := true, steps := c.steps + 1 }

theorem stepStart_closes {tm : Word64} (h2 : (s.msite ms).st = 2) (ho : ((s.msite ms).chan ch).closed = false)
    (hl : ((s.msite ms).chan ch).lastStep = 0 ∨ windowOver ((s.msite ms).chan ch).lastStep 20000 (s.at tm).tb = true)
    (ht : s.retrainingIn (fieldOfMem ms) = some (ms, ch) ∨
      (s.retrainingIn (fieldOfMem ms) = none ∧ s.nextRetrain (fieldOfMem ms) = some (ms, ch))) :
    completes (.retrainStepStart ms ch tm) s fun t =>
      t = { s.at tm with mem := { s.mem with sites := t.mem.sites } } ∧
      (t.msite ms).chan ch = ((s.msite ms).chan ch).stepped ∧
      (t.msite ms).retraining = some ch ∧ (∀ c, c ≠ ch → (t.msite ms).chan c = (s.msite ms).chan c) ∧
      ∀ m, m ≠ ms → t.msite m = s.msite m := by
  have he : exec (.retrainStepStart ms ch tm) s = .next ((s.at tm).setMsite ms
      { (s.msite ms).setChan ch ((s.msite ms).chan ch).stepped with retraining := some ch }) := by
    obtain ⟨hr, hn⟩ := retrainingIn_at s tm (fieldOfMem ms)
    have hturn : (match (s.at tm).retrainingIn (fieldOfMem ms) with
        | some x => decide (x = (ms, ch))
        | none => decide ((s.at tm).nextRetrain (fieldOfMem ms) = some (ms, ch))) = true := by
      rw [hr, hn]
      rcases ht with ht | ⟨ht, hn⟩
      · rw [ht]
        exact decide_eq_true rfl
      · rw [ht]
        exact decide_eq_true hn
    have hlast : ¬(((s.msite ms).chan ch).lastStep ≠ 0 ∧
        windowOver ((s.msite ms).chan ch).lastStep 20000 (s.at tm).tb = false) := by
      rintro ⟨h1, h3⟩
      exact hl.elim h1 fun h => Bool.false_ne_true (h3.symm.trans h)
    change execRetrainStepStart ms ch tm s = _
    unfold execRetrainStepStart
    dsimp only
    rw [msite_at]
    refine if_neg ?_
    rintro (h | h | h | h)
    · exact h h2
    · exact Bool.false_ne_true (h.symm.trans hturn)
    · exact Bool.false_ne_true (ho.symm.trans h)
    · exact hlast h
  refine ⟨_, he, ?_, ?_⟩
  · rw [← mem_at s tm]
    rfl
  · rw [State.msite_setMsite_same]
    refine ⟨MemSite.chan_setChan_same _ _ _, rfl, fun c hc => MemSite.chan_setChan_other _ _ hc, fun m hm => ?_⟩
    rw [State.msite_setMsite_other _ _ hm, msite_at]

/-- A controller at which nothing waits serves nothing. -/
theorem serveField_none {u : State} {f : FieldNo} (h : ∀ e ∈ u.mem.waiting, e.field ≠ f) : u.serveField f = u := by
  have hr : u.memReady f = [] := by
    unfold State.memReady
    refine List.filterMap_eq_nil_iff.2 fun i _ => ?_
    cases hi : u.mem.waiting[i]? with
    | none => rfl
    | some e =>
      rw [Option.bind_some, decide_eq_false (h e (List.mem_of_getElem? hi))]
      rfl
  have hn : u.memNext f = none := by
    unfold State.memNext
    rw [hr]
    rfl
  unfold State.serveField
  cases u.mem.waiting.length with
  | zero => rfl
  | succ k =>
    unfold State.serveWaiting
    rw [hn]

/-- A channel that has reopened at an instant. -/
def Channel.reopened (c : Channel) (t : Word64) : Channel := { c with closed := false, lastStep := t }

/-- A channel that is trained anew at an instant and a temperature. -/
def Channel.centredAt (c : Channel) (t : Word64) (x : Byte) : Channel :=
  { c with trained := t, tempAt := x, repeats := 0, due := none, steps := 0, fails := 0 }

/-- A memory site one of whose channels has been trained. -/
def MemSite.trainedAt (m : MemSite) (ch : Fin 4) (t : Word64) : MemSite :=
  { m.setChan ch ((m.chan ch).centredAt t m.temp) with retraining := none, retrains := m.retrains + 1 }

/-- A state in which a channel has reopened. -/
def State.chanOpen (s : State) (ms : MemNo) (ch : Fin 4) : State := s.modChan ms ch (·.reopened s.tb)

theorem stepEnd_of (h : ((s.msite ms).chan ch).closed = true) (obs : RetrainObs) : exec (.retrainStepEnd ms ch obs) s =
    .next ((match obs with
      | .centred => ((s.chanOpen ms ch).modMsite ms (·.trainedAt ch s.tb)).retrained ms ch
      | .more => if ((s.msite ms).chan ch).steps < 6 then s.chanOpen ms ch else (s.chanOpen ms ch).retrainFailed ms ch
      | .notCentred => (s.chanOpen ms ch).retrainFailed ms ch).serveField (fieldOfMem ms)) := by
  change execRetrainStepEnd ms ch obs s = _
  unfold execRetrainStepEnd
  dsimp only
  rw [if_neg (by rw [h]; decide)]
  cases obs <;> rfl

theorem chanOpen_site (s : State) (ms : MemNo) (ch : Fin 4) :
    (s.chanOpen ms ch).msite ms = (s.msite ms).setChan ch (((s.msite ms).chan ch).reopened s.tb) := modChan_same s ms ch _

theorem chanOpen_chan (s : State) (ms : MemNo) (ch : Fin 4) :
    ((s.chanOpen ms ch).msite ms).chan ch = ((s.msite ms).chan ch).reopened s.tb := by
  rw [chanOpen_site, MemSite.chan_setChan_same]

/-- The state in which a channel has been trained. -/
def State.chanTrained (s : State) (ms : MemNo) (ch : Fin 4) : State :=
  ((s.chanOpen ms ch).modMsite ms (·.trainedAt ch s.tb)).retrained ms ch

theorem chanTrained_site (s : State) (ms : MemNo) (ch : Fin 4) :
    (s.chanTrained ms ch).msite ms = ((s.chanOpen ms ch).msite ms).trainedAt ch s.tb :=
  State.msite_modMsite_same (s.chanOpen ms ch) ms (·.trainedAt ch s.tb)

theorem chanTrained_frame (s : State) (ms : MemNo) (ch : Fin 4) : s.chanTrained ms ch =
    { s with mem := { s.mem with sites := (s.chanTrained ms ch).mem.sites, waiting := (s.chanTrained ms ch).mem.waiting } } :=
  rfl

theorem chanTrained_waiting (s : State) (ms : MemNo) (ch : Fin 4) : (s.chanTrained ms ch).mem.waiting =
    s.mem.waiting.map fun e => if e.after = some (ms, ch) then { e with after := none } else e := rfl

theorem chanTrained_chan (s : State) (ms : MemNo) (ch : Fin 4) : ((s.chanTrained ms ch).msite ms).chan ch =
    (((s.msite ms).chan ch).reopened s.tb).centredAt s.tb (s.msite ms).temp := by
  rw [chanTrained_site]
  refine (MemSite.chan_setChan_same _ ch _).trans ?_
  rw [chanOpen_chan, chanOpen_site]
  rfl

theorem stepEnd_centred (h : ((s.msite ms).chan ch).closed = true) (hw : ∀ e ∈ s.mem.waiting, e.field ≠ fieldOfMem ms) :
    completes (.retrainStepEnd ms ch .centred) s fun t =>
      t = { s with mem := { s.mem with sites := t.mem.sites, waiting := t.mem.waiting } } ∧
      (t.msite ms).chan ch = (((s.msite ms).chan ch).reopened s.tb).centredAt s.tb (s.msite ms).temp ∧
      (t.msite ms).retraining = none ∧ (t.msite ms).retrains = (s.msite ms).retrains + 1 := by
  have hs : (s.chanTrained ms ch).serveField (fieldOfMem ms) = s.chanTrained ms ch := by
    refine serveField_none fun e he => ?_
    rw [chanTrained_waiting] at he
    obtain ⟨x, hx, rfl⟩ := List.mem_map.1 he
    split <;> exact hw x hx
  refine ⟨s.chanTrained ms ch, (stepEnd_of h .centred).trans (congrArg _ hs), chanTrained_frame s ms ch,
    chanTrained_chan s ms ch, ?_, ?_⟩
  · rw [chanTrained_site]
    rfl
  · rw [chanTrained_site, chanOpen_site]
    rfl

/-! ### A retrain that fails (R245, R250) -/

theorem chanOpen_waiting (s : State) (ms : MemNo) (ch : Fin 4) : (s.chanOpen ms ch).mem.waiting = s.mem.waiting := rfl

section
variable (h : ((s.msite ms).chan ch).closed = true) (hw : ∀ e ∈ s.mem.waiting, e.field ≠ fieldOfMem ms)
include h hw

theorem stepEnd_failed {u : State} (hu : (s.chanOpen ms ch).retrainFailed ms ch = u)
    (huw : ∀ e ∈ u.mem.waiting, e ∈ s.mem.waiting) : exec (.retrainStepEnd ms ch .notCentred) s = .next u := by
  refine (stepEnd_of h .notCentred).trans (congrArg _ ?_)
  dsimp only
  rw [hu]
  exact serveField_none fun e he => hw e (huw e he)

theorem stepEnd_first (hf : ((s.msite ms).chan ch).fails = 0) :
    completes (.retrainStepEnd ms ch .notCentred) s fun t =>
      t = { s with mem := { s.mem with sites := t.mem.sites } } ∧
      (t.msite ms).chan ch = { (s.msite ms).chan ch with closed := false, lastStep := s.tb, steps := 0, fails := 1 } := by
  have hu : (s.chanOpen ms ch).retrainFailed ms ch =
      (s.chanOpen ms ch).modChan ms ch fun c => { c with steps := 0, fails := 1 } := by
    unfold State.retrainFailed
    dsimp only
    rw [chanOpen_chan]
    exact if_pos hf
  refine ⟨_, stepEnd_failed h hw hu fun e he => he, rfl, ?_⟩
  rw [modChan_same, MemSite.chan_setChan_same, chanOpen_chan]
  rfl

theorem stepEnd_slower (hf : ((s.msite ms).chan ch).fails ≠ 0) (hr : 1 < ((s.msite ms).chan ch).rate) :
    completes (.retrainStepEnd ms ch .notCentred) s fun t =>
      t = { s with mem := { s.mem with sites := t.mem.sites }, flt := t.flt, jrnl := t.jrnl } ∧ logged s t 0x0204 ∧
      (t.msite ms).chan ch = { (s.msite ms).chan ch with
        closed := false, lastStep := s.tb, rate := ((s.msite ms).chan ch).rate - 1, steps := 0, fails := 0 } := by
  have hu : ∃ d, (s.chanOpen ms ch).retrainFailed ms ch =
      ((s.chanOpen ms ch).modChan ms ch fun c => { c with rate := c.rate - 1, steps := 0, fails := 0 }).fault 0x0204 none
        d 0 := by
    unfold State.retrainFailed
    dsimp only
    rw [chanOpen_chan, if_neg (show ¬(((s.msite ms).chan ch).reopened s.tb).fails = 0 from hf), if_neg (show ¬(((s.msite ms).chan ch).reopened s.tb).rate ≤ 1 from BitVec.not_le.2 hr)]
    exact ⟨_, rfl⟩
  obtain ⟨d, hu⟩ := hu
  refine ⟨_, stepEnd_failed h hw hu fun e he => he, rfl, record_logged _ _, ?_⟩
  have hc : ((s.chanOpen ms ch).modChan ms ch fun c => { c with rate := c.rate - 1, steps := 0, fails := 0 }).msite ms =
    _ := modChan_same (s.chanOpen ms ch) ms ch _
  refine (congrArg (fun m : MemSite => m.chan ch) hc).trans ?_
  rw [MemSite.chan_setChan_same, chanOpen_chan]
  rfl

end

end

section
variable {s : State} {ms : MemNo} {ch : Fin 4}

/-! ### A channel that fails takes its field's memory out of service (R245, R250) -/

theorem getLsbD_setBit_false (v : BitVec 8) (f : FieldNo) : (setBit v f.val false).getLsbD f.val = false := by
  unfold setBit
  rw [if_neg Bool.false_ne_true, BitVec.getLsbD_and, BitVec.getLsbD_not, BitVec.getLsbD_shiftLeft, Nat.sub_self]
  simp [BitVec.getLsbD_one]

/-- A memory site that has failed and is not being retrained. -/
def MemSite.outOfService (m : MemSite) : Prop := m.st = 3 ∧ m.retraining = none

theorem sitesLost_keeps {u : State} (f : FieldNo) (h : (u.msite ms).outOfService) : ((u.sitesLost f).msite ms).outOfService := by
  refine foldl_inv (fun v : State => (v.msite ms).outOfService) _ (fun v i hv => ?_) _ u h
  by_cases hi : ms = ⟨i % 16, by omega⟩
  · subst hi
    rw [State.msite_modMsite_same]
    split
    · exact hv
    · exact ⟨rfl, rfl⟩
  · rw [State.msite_modMsite_other _ _ hi]
    exact hv

theorem sitesLost_frame (u : State) (f : FieldNo) :
    u.sitesLost f = { u with mem := { u.mem with sites := (u.sitesLost f).mem.sites } } :=
  foldl_related (P := fun a b : State => b = { a with mem := { a.mem with sites := b.mem.sites } }) (fun _ => rfl)
    (fun a b c hb hc => by rw [hc, hb]) (fun _ _ => rfl) _ u

theorem markMirrors_mem (u : State) : u.markMirrors.mem = u.mem :=
  foldl_keeps State.mem _ (fun v n => by dsimp only; split <;> rfl) _ u

theorem fieldMemoryLost_spec {u : State} (f : FieldNo) (b : Bool) (h : (u.msite ms).outOfService) :
    ((u.fieldMemoryLost f b).msite ms).outOfService ∧ (u.fieldMemoryLost f b).mem.lit.getLsbD f.val = false ∧
      (u.fieldMemoryLost f b).mem.waiting = u.mem.waiting := by
  unfold State.fieldMemoryLost
  split
  next hl => exact ⟨h, hl, rfl⟩
  next hl =>
    have h1 := sitesLost_keeps (u := { u with mem := { u.mem with lit := setBit u.mem.lit f.val false } }) f h
    have h2 := sitesLost_frame { u with mem := { u.mem with lit := setBit u.mem.lit f.val false } } f
    generalize ({ u with mem := { u.mem with lit := setBit u.mem.lit f.val false } } : State).sitesLost f = v at h1 h2
    have hv : (if b = true then v.fault 0x0206 none (BitVec.ofNat 32 f.val ||| bitAt b 3) 0
        else v.report 0x0206 none (BitVec.ofNat 32 f.val ||| bitAt b 3) 0).mem = v.mem := by split <;> rfl
    dsimp only
    unfold State.msite
    rw [markMirrors_mem, hv]
    refine ⟨h1, ?_, ?_⟩
    · rw [h2]
      exact getLsbD_setBit_false _ f
    · rw [h2]

theorem refuseField_none {u : State} {f : FieldNo} (h : ∀ e ∈ u.mem.waiting, e.field ≠ f) :
    u.refuseField f = { u with mem := { u.mem with waiting := u.mem.waiting.filter fun e => decide (e.field ≠ f) } } := by
  have hn : (u.mem.waiting.filter fun e => decide (e.field = f)) = [] :=
    List.filter_eq_nil_iff.2 fun e he => by simpa using h e he
  unfold State.refuseField
  dsimp only
  rw [hn]
  rfl

/-- A channel that is out of service. -/
def Channel.given (c : Channel) : Channel := { c with rate := 0, due := none, steps := 0, fails := 0 }

theorem channelFailed_spec {u : State} (hw : ∀ e ∈ u.mem.waiting, e.field ≠ fieldOfMem ms) :
    let t := u.channelFailed ms ch
    (t.msite ms).outOfService ∧ t.mem.lit.getLsbD (fieldOfMem ms).val = false ∧ ∀ e ∈ t.mem.waiting, e ∈ u.mem.waiting := by
  have hv : ∃ v : State, (v.msite ms).outOfService ∧ v.mem.waiting = u.mem.waiting ∧
      u.channelFailed ms ch = (v.fieldMemoryLost (fieldOfMem ms) false).refuseField (fieldOfMem ms) := by
    refine ⟨_, ?_, ?_, rfl⟩
    · exact (congrArg MemSite.outOfService (State.msite_modMsite_same (u.modChan ms ch (·.given)) ms
        fun m => { m with st := 3, retraining := none, temp := 0 })).mpr ⟨rfl, rfl⟩
    · rfl
  obtain ⟨v, hv, hvw, he⟩ := hv
  obtain ⟨h1, h2, h3⟩ := fieldMemoryLost_spec (fieldOfMem ms) false hv
  rw [hvw] at h3
  have hr := refuseField_none (u := v.fieldMemoryLost (fieldOfMem ms) false) (f := fieldOfMem ms) (by rw [h3]; exact hw)
  rw [← he] at hr
  dsimp only
  rw [hr]
  exact ⟨h1, h2, fun e hm => h3 ▸ (List.mem_filter.1 hm).1⟩

theorem stepEnd_fails (h : ((s.msite ms).chan ch).closed = true) (hw : ∀ e ∈ s.mem.waiting, e.field ≠ fieldOfMem ms)
    (hf : ((s.msite ms).chan ch).fails ≠ 0) (hr : ((s.msite ms).chan ch).rate ≤ 1) :
    completes (.retrainStepEnd ms ch .notCentred) s fun t => (t.msite ms).st = 3 ∧ (t.msite ms).retraining = none ∧
      t.mem.lit.getLsbD (fieldOfMem ms).val = false := by
  have hu : (s.chanOpen ms ch).retrainFailed ms ch = (s.chanOpen ms ch).channelFailed ms ch := by
    unfold State.retrainFailed
    dsimp only
    rw [chanOpen_chan, if_neg (show ¬(((s.msite ms).chan ch).reopened s.tb).fails = 0 from hf)]
    exact if_pos hr
  obtain ⟨⟨h1, h2⟩, h3, h4⟩ := channelFailed_spec (u := s.chanOpen ms ch) (ch := ch) hw
  exact ⟨_, stepEnd_failed h hw hu h4, h1, h2, h3⟩

/-! ### A read that waited for its channel (R225, R244) -/

section
variable {r : MemReq} {u : Word64}

/-- A request for a 64 B unit lies in one 4 KiB unit. -/
theorem unit_parts (ha : r.addr.toNat % 64 = 0) : (MemWork.unit r).parts = [r.addr.toNat / 4096 * 4096] := by
  unfold MemWork.parts
  have h : ((MemWork.unit r).addr + (MemWork.unit r).span - 1) / 4096 + 1 - (MemWork.unit r).addr / 4096 = 1 := by
    change (r.addr.toNat + 64 - 1) / 4096 + 1 - r.addr.toNat / 4096 = 1
    omega
  rw [h]
  rfl

/-- The unit's channel is that of its 4 KiB unit (R231). -/
theorem unit_place (v : State) (f : FieldNo) (a : Nat) :
    memOf v f (a / 4096 * 4096) = memOf v f a ∧ chanOf v f (a / 4096 * 4096) = chanOf v f a := by
  have h1 : a / 4096 * 4096 / 4096 % 2 = a / 4096 % 2 := by omega
  have h2 : a / 4096 * 4096 / 8192 = a / 8192 := by omega
  have h3 : a / 4096 * 4096 / 4096 = a / 4096 := by omega
  unfold memOf chanOf
  simp only [h1, h2, h3, and_self]

/-- What the service of a clean read leaves before its answer. -/
theorem workRepeats_frame (v : State) (f : FieldNo) (w : MemWork) : memSitesAndLog v (v.workRepeats f w) :=
  foldl_related (P := memSitesAndLog) (fun _ => rfl) (fun a b c hb hc => by unfold memSitesAndLog at *; rw [hc, hb])
    (fun v x => by
      unfold State.crcRepeats
      split <;> rfl) _ v

/-- A controller at which one request waits that it can serve serves it. -/
theorem serveField_one {v : State} {f : FieldNo} {w : MemWork}
    (hw : v.mem.waiting = [{ field := f, work := w, since := u, after := none }]) (hh : v.memHeld f w [] = false) :
    v.serveField f = ({ v with mem := { v.mem with waiting := [] } } : State).memServe f w u := by
  have hr : v.memReady f = [{ field := f, work := w, since := u, after := none }] := by
    unfold State.memReady
    rw [hw]
    change ([0].filterMap fun i => (([({ field := f, work := w, since := u, after := none } : MemItem)] : List MemItem)[i]?).bind _) = _
    simp [hh]
  have hn : v.memNext f = some { field := f, work := w, since := u, after := none } := by
    unfold State.memNext
    rw [hr]
    simp
  unfold State.serveField
  rw [hw]
  change v.serveWaiting f 1 = _
  unfold State.serveWaiting
  rw [hn]
  dsimp only
  rw [hw, List.erase_cons_head]
  rfl

theorem portFree_memSites {v : State} (h : memSitesAndLog s v) (p : Fin 64) : v.portFree p = s.portFree p := by
  rw [h]
  rfl

/-- A clean read one of whose bursts may have been repeated is answered with the bytes. -/
theorem memServe_reads {v : State} {f : FieldNo} (hr : r.write = false) (he : r.ecc = .clean) (hk : r.crcFails ≤ 1)
    (hp : v.portFree (v.memPort f).1 = true) : ∃ z, memSitesAndLog v z ∧
      sentOne z (v.memServe f (.unit r) u) (z.unitAnswer f r 0 (v.ddrRead r.addr.toNat 64)) := by
  have hz := workRepeats_frame v f (.unit r)
  have hd : (v.workRepeats f (.unit r)).ddrRead r.addr.toNat 64 = v.ddrRead r.addr.toNat 64 :=
    (congrArg (fun x : State => x.ddrRead r.addr.toNat 64) hz).trans rfl
  have hpz : (v.workRepeats f (.unit r)).portFree ((v.workRepeats f (.unit r)).memPort f).1 = true := by
    have hm : (v.workRepeats f (.unit r)).memPort f = v.memPort f := (congrArg (fun x : State => x.memPort f) hz).trans rfl
    rw [hm, portFree_memSites hz]
    exact hp
  have hs : v.memServe f (.unit r) u = (v.workRepeats f (.unit r)).memAnswer f r 0 (v.ddrRead r.addr.toNat 64) := by
    unfold State.memServe
    dsimp only
    rw [failed_none (.unit r) fun x hx => by rw [List.mem_singleton.1 hx]; dsimp only; omega, ← hd]
    unfold State.workEffect
    dsimp only
    rw [hr, he]
    rfl
  rw [hs]
  exact ⟨_, hz, memAnswer_sends hpz _ _⟩

theorem stepEnd_serves (h : ((s.msite ms).chan ch).closed = true) (hm : memOf s (fieldOfMem ms) r.addr.toNat = ms)
    (hc : chanOf s (fieldOfMem ms) r.addr.toNat = ch) (ha : r.addr.toNat % 64 = 0)
    (hf : s.fieldStopped (fieldOfMem ms) = false) (hr : r.write = false) (he : r.ecc = .clean) (hk : r.crcFails ≤ 1)
    (hp : s.portFree (s.memPort (fieldOfMem ms)).1 = true)
    (hw : s.mem.waiting = [{ field := fieldOfMem ms, work := .unit r, since := u, after := some (ms, ch) }]) :
    completes (.retrainStepEnd ms ch .centred) s fun t => t.mem.waiting = [] ∧ t.mem.ddr = s.mem.ddr ∧
      t.sites = s.sites ∧ ∃ p, t.out = s.out ++ [.packet p] ∧ p.opc = 4 ∧ p.status = 0 ∧ p.txn = r.txn ∧
        p.data = s.ddrRead r.addr.toNat 64 := by
  have hvw : (s.chanTrained ms ch).mem.waiting = [{ field := fieldOfMem ms, work := .unit r, since := u, after := none }] := by
    rw [chanTrained_waiting, hw]
    simp
  have hvc := chanTrained_chan s ms ch
  have hv := chanTrained_frame s ms ch
  have hx := stepEnd_of h .centred
  change _ = Host.Outcome.next ((s.chanTrained ms ch).serveField (fieldOfMem ms)) at hx
  generalize s.chanTrained ms ch = v at hvw hvc hv hx
  have hheld : v.memHeld (fieldOfMem ms) (.unit r) [] = false := by
    have hms : memOf v (fieldOfMem ms) r.addr.toNat = ms := by rw [hv]; exact hm
    have hch : chanOf v (fieldOfMem ms) r.addr.toNat = ch := by rw [hv]; exact hc
    have hfs : v.fieldStopped (fieldOfMem ms) = false := by rw [hv]; exact hf
    obtain ⟨h1, h2⟩ := unit_place v (fieldOfMem ms) r.addr.toNat
    unfold State.memHeld
    rw [hfs, unit_parts ha, List.any_cons, h1, h2, hms, hch, hvc]
    rfl
  rw [serveField_one hvw hheld] at hx
  have hvp : ({ v with mem := { v.mem with waiting := [] } } : State).portFree
      (({ v with mem := { v.mem with waiting := [] } } : State).memPort (fieldOfMem ms)).1 = true := by
    rw [hv]
    exact hp
  obtain ⟨z, hz, hsent⟩ := memServe_reads (u := u) (f := fieldOfMem ms) hr he hk hvp
  have hzs : z.mem.waiting = [] ∧ z.mem.ddr = s.mem.ddr ∧ z.sites = s.sites ∧ z.out = s.out := by
    rw [hz, hv]
    exact ⟨rfl, rfl, rfl, rfl⟩
  have hdd : ({ v with mem := { v.mem with waiting := [] } } : State).ddrRead r.addr.toNat 64 = s.ddrRead r.addr.toNat 64 := by
    rw [hv]
    rfl
  obtain ⟨h1, h2, h3, h4⟩ := hzs
  obtain ⟨ha1, ha2, ha3, -, ha5⟩ := unitAnswer_is (f := fieldOfMem ms) (r := r) z 0
    (({ v with mem := { v.mem with waiting := [] } } : State).ddrRead r.addr.toNat 64)
  generalize z.unitAnswer (fieldOfMem ms) r 0 (({ v with mem := { v.mem with waiting := [] } } : State).ddrRead r.addr.toNat 64)
    = p at hsent ha1 ha2 ha3 ha5
  obtain ⟨hfr, -⟩ := hsent
  refine ⟨_, hx, ?_, ?_, ?_, p, ?_, by rw [ha1, hr]; rfl, ha2, ha3, ha5.trans hdd⟩
  · rw [hfr]; exact h1
  · rw [hfr]; exact h2
  · rw [hfr]; exact h3
  · rw [hfr]; exact congrArg (· ++ _) h4

end

end

/-! ### Pages for other devices (R246, R247) -/

section
variable {s : State} {r : RemoteReq}

/-- Only the links and the output may differ. -/
def onlyLinks (s t : State) : Prop := t = { s with links := t.links, out := t.out }

theorem onlyLinks_trans {s t u : State} (h : onlyLinks s t) (k : onlyLinks t u) : onlyLinks s u := by
  unfold onlyLinks at *
  rw [k, h]

theorem flush_frame (s : State) (l : LinkNo) : onlyLinks s (s.flush l) := by
  unfold State.flush
  dsimp only
  split <;> rfl

theorem sendLink_frame (s : State) (l : LinkNo) (p : LinkPkt) : onlyLinks s (s.sendLink l p) :=
  onlyLinks_trans (t := s.modLink l fun k => { k with txQ := k.txQ ++ [p] }) rfl (flush_frame _ l)

theorem remoteReply_frame (s : State) (l : LinkNo) (q : LinkPkt) (opc : BitVec 8) (st : BitVec 4) (data : List Byte) :
    onlyLinks s (s.remoteReply l q opc st data) := by
  unfold State.remoteReply
  split
  · exact sendLink_frame s _ _
  · rfl

theorem onlyLinks_keeps {s t : State} (h : onlyLinks s t) : t.mem = s.mem ∧ t.sites = s.sites ∧
    ∀ a k, t.ddrRead a k = s.ddrRead a k := by
  rw [h]
  exact ⟨rfl, rfl, fun _ _ => rfl⟩

theorem remotePage_of (h : (s.link r.link).st = .up) : exec (.remotePageRequest r) s = .next (s.remotePage r) :=
  if_neg fun hn => hn h

/-- The field that holds a remote request's page. -/
abbrev State.remoteField (s : State) (r : RemoteReq) : FieldNo := (s.page (r.addr.toNat / 8388608)).field

theorem remotePage_refused (h : s.remoteCode r ≠ 0) : onlyLinks s (s.remotePage r) := by
  unfold State.remotePage
  dsimp only
  rw [if_pos h]
  exact remoteReply_frame s _ _ _ _ _

theorem remotePage_arrives (h : s.remoteCode r = 0) : s.remotePage r = s.memArrive (s.remoteField r) (.remote r) := by
  unfold State.remotePage
  exact if_neg fun hn => hn h

theorem remotePage_effect (h : s.remoteCode r = 0) (hh : s.memHeld (s.remoteField r) (.remote r) s.mem.waiting = false)
    (hc : r.obs.crc = []) : s.remotePage r = s.workEffect (s.remoteField r) (.remote r) := by
  rw [remotePage_arrives h, memArrive_serves (w := .remote r) h hh, memServe_done]
  intro x hx
  have hx : x ∈ (r.obs.crc.map fun x => (r.addr.toNat + x.1.toNat, x.2)) := hx
  rw [hc] at hx
  exact absurd hx List.not_mem_nil

theorem remote_writes (h : s.remoteCode r = 0) (hh : s.memHeld (s.remoteField r) (.remote r) s.mem.waiting = false)
    (hc : r.obs.crc = []) (hw : r.write = true) : (s.remotePage r).sites = s.sites ∧
      (s.remotePage r).ddrRead r.addr.toNat (min r.len r.data.length) = r.data.take r.len ∧
      ∀ x, x < r.addr.toNat ∨ r.addr.toNat + r.len ≤ x → (s.remotePage r).ddrRead x 1 = s.ddrRead x 1 := by
  obtain ⟨D, hD, hin, hall⟩ := putWords_ddr s (r.data.take r.len) [] r.addr.toNat
  have he : s.workEffect (s.remoteField r) (.remote r) = (s.withDdr D).remoteReply r.link (remotePkt r) 2 0 [] := by
    unfold State.workEffect
    dsimp only
    rw [if_pos hw]
    refine (congrArg (fun u : State => u.workAnswer (s.remoteField r) 0 [] (.remote r)) hD).trans ?_
    change (s.withDdr D).remoteReply r.link (remotePkt r) (if r.write = true then 2 else 4) 0 [] = _
    rw [if_pos hw]
  obtain ⟨-, h2, h3⟩ := onlyLinks_keeps (remoteReply_frame (s.withDdr D) r.link (remotePkt r) 2 0 [])
  rw [remotePage_effect h hh hc, he]
  have hl : (r.data.take r.len).length = min r.len r.data.length := List.length_take
  refine ⟨h2, ?_, fun x hx => (h3 x 1).trans (ddrWithin_read hin (by rw [hl]; omega))⟩
  rw [h3, ← hl]
  exact hall rfl

theorem remote_reads (h : s.remoteCode r = 0) (hh : s.memHeld (s.remoteField r) (.remote r) s.mem.waiting = false)
    (ho : r.obs = {}) (hw : r.write = false) : (s.remotePage r).sites = s.sites ∧ (s.remotePage r).mem = s.mem := by
  have he : s.workEffect (s.remoteField r) (.remote r) =
      s.remoteReply r.link (remotePkt r) 4 0 (s.ddrRead r.addr.toNat r.len) := by
    unfold State.workEffect
    dsimp only
    rw [hw, ho]
    change s.remoteReply r.link (remotePkt r) (if r.write = true then 2 else 4) 0 (s.ddrRead r.addr.toNat r.len) = _
    rw [if_neg (by rw [hw]; decide)]
  rw [remotePage_effect h hh (by rw [ho]), he]
  obtain ⟨h1, h2, -⟩ := onlyLinks_keeps (remoteReply_frame s r.link (remotePkt r) 4 0 (s.ddrRead r.addr.toNat r.len))
  exact ⟨h2, h1⟩

/-! ### A request of the controller's own device -/

theorem memRequest_cases {f : FieldNo} {r : MemReq} (hd : s.isDark f = false) :
    let a := r.addr.toNat
    (s.memCode f r = 0 → s.memHeld f (.unit r) s.mem.waiting = true → completes (.memRequest f r) s
      (· = { s with mem := { s.mem with waiting := s.mem.waiting ++ [{ field := f, work := .unit r, since := s.tb, after := none }] } })) ∧
    (s.memHeld f (.unit r) s.mem.waiting = false → s.memCode f r = 0 → r.crcFails = 0 → s.portFree (s.memPort f).1 = true →
      (r.write = true → r.bad = [] → completes (.memRequest f r) s fun t =>
        t = { s with mem := { s.mem with ddr := t.mem.ddr }, fab := t.fab, out := t.out } ∧ fabSent s t ∧
        t.ddrRead a r.data.length = r.data ∧
        (∀ x, x < a ∨ a + r.data.length ≤ x → t.ddrRead x 1 = s.ddrRead x 1) ∧
        ∃ p, t.out = s.out ++ [.packet p] ∧ p.opc = 2 ∧ p.status = 0 ∧ p.txn = r.txn ∧ p.dstRtr = r.dstRtr) ∧
      (r.write = true → r.bad ≠ [] → completes (.memRequest f r) s fun t =>
        t = { s with mem := { s.mem with ddr := t.mem.ddr }, fab := t.fab, out := t.out } ∧ fabSent s t ∧
        (∀ x, x < a ∨ a + r.data.length ≤ x → t.ddrRead x 1 = s.ddrRead x 1) ∧
        ∃ p, t.out = s.out ++ [.packet p] ∧ p.opc = 2 ∧ p.status = 6 ∧ p.txn = r.txn ∧ p.dstRtr = r.dstRtr) ∧
      (r.write = false → r.ecc = .clean → completes (.memRequest f r) s fun t =>
        t = { s with fab := t.fab, out := t.out } ∧ fabSent s t ∧
        ∃ p, t.out = s.out ++ [.packet p] ∧ p.opc = 4 ∧ p.status = 0 ∧ p.txn = r.txn ∧ p.dstRtr = r.dstRtr ∧
          p.data = s.ddrRead a 64)) ∧
    (s.memCode f r ≠ 0 → s.portFree (s.memPort f).1 = true → completes (.memRequest f r) s fun t =>
      t = { s with fab := t.fab, out := t.out } ∧ fabSent s t ∧
      ∃ p, t.out = s.out ++ [.packet p] ∧ p.status = s.memCode f r ∧ p.txn = r.txn ∧ p.data = []) := by
  intro a
  have hout {z t : State} {p : Packet} (h : sentOne z t p) : t = { z with fab := t.fab, out := t.out } ∧
      fabSent z t ∧ t.out = z.out ++ [.packet p] ∧ ∀ x k, t.ddrRead x k = z.ddrRead x k := by
    obtain ⟨h1, h2⟩ := h
    have ho : t.out = z.out ++ [.packet p] := by rw [h1]
    exact ⟨by rw [ho]; exact h1, h2, ho, fun x k => by rw [h1]; rfl⟩
  have hwd {D : Tab Byte} {t : State} (h : t = { s.withDdr D with fab := t.fab, out := t.out }) :
      t = { s with mem := { s.mem with ddr := t.mem.ddr }, fab := t.fab, out := t.out } := by
    have hm : t.mem.ddr = D := by rw [h]; rfl
    rw [hm]
    exact h
  refine ⟨fun hc hh => ⟨_, (memRequest_of hd).trans (congrArg _ (memArrive_waits (w := .unit r) hc hh)), rfl⟩,
    fun hh hc h0 hp => ⟨fun hw hb => ?_, fun hw hb => ?_, fun hw he => ?_⟩, fun hc hp => ?_⟩
  · obtain ⟨t, D, hx, hin, hall, hs⟩ := memRequest_writes hd hc hh h0 hp hw
    obtain ⟨h1, h2, h3, h4⟩ := hout hs
    rw [if_neg (fun h => h hb)] at h3
    exact ⟨t, hx, hwd h1, h2, (h4 _ _).trans (hall hb), fun x hxo => (h4 x 1).trans (ddrWithin_read hin hxo), _, h3,
      if_pos hw, rfl, rfl, rfl⟩
  · obtain ⟨t, D, hx, hin, -, hs⟩ := memRequest_writes hd hc hh h0 hp hw
    obtain ⟨h1, h2, h3, h4⟩ := hout hs
    rw [if_pos hb] at h3
    exact ⟨t, hx, hwd h1, h2, fun x hxo => (h4 x 1).trans (ddrWithin_read hin hxo), _, h3, if_pos hw, rfl, rfl, rfl⟩
  · obtain ⟨t, hx, hs⟩ := memRequest_reads hd hc hh h0 hp hw he
    obtain ⟨h1, h2, h3, -⟩ := hout hs
    exact ⟨t, hx, h1, h2, _, h3, if_neg (by rw [hw]; decide), rfl, rfl, rfl, rfl⟩
  · obtain ⟨h1, h2, h3, -⟩ := hout (memAnswer_sends (r := r) hp (s.memCode f r) [])
    exact ⟨_, (memRequest_of hd).trans (congrArg _ (memArrive_refuses (w := .unit r) hc)), h1, h2, _, h3, rfl, rfl, rfl⟩

end

/-- Settles O34, command by command: a request by what its channel and its page allow, a retrain by its steps. -/
theorem memoryServesAndRetrains : Obligations.MemoryServesAndRetrains := by
  unfold Obligations.MemoryServesAndRetrains
  refine ⟨fun s f r hd => ?_, fun s ms x h => memTempRead_heats h x, fun s ms ch cause tm h2 hd hc => retrainDue_marks h2 hd hc,
    fun s ms ch tm h2 => fun ho hl ht => stepStart_closes h2 ho hl ht, fun s ms ch h hw => ?_,
    fun s ms ch r u h => fun hm hc ha hf hr he hk hp hw => stepEnd_serves h hm hc ha hf hr he hk hp hw,
    fun s r hup => ?_⟩
  · obtain ⟨h1, h2, h3⟩ := memRequest_cases (r := r) hd
    exact ⟨h1, h2, fun hh hc h4 => memRequest_retrains hd hc hh h4, h3⟩
  · exact ⟨stepEnd_centred h hw, fun hf => stepEnd_first h hw hf, fun hf hr => stepEnd_slower h hw hf hr,
      fun hf hr => stepEnd_fails h hw hf hr⟩
  · refine ⟨fun hc => ?_, fun hc hh => ?_, fun hc hh hcrc hw => ?_, fun hc hh ho hw => ?_⟩
    · obtain ⟨h1, h2, -⟩ := onlyLinks_keeps (remotePage_refused hc)
      exact ⟨_, remotePage_of hup, h1, h2⟩
    · exact ⟨_, (remotePage_of hup).trans (congrArg _ ((remotePage_arrives hc).trans (memArrive_waits (w := .remote r) hc hh))), rfl⟩
    · exact ⟨_, remotePage_of hup, remote_writes hc hh hcrc hw⟩
    · exact ⟨_, remotePage_of hup, remote_reads hc hh ho hw⟩

end Sys2Proof.Machine
end

section
/-!
PROOF. Packets that a router forwards (R201, R203 to R206, R276, R279, R290).
-/

namespace Sys2Proof.Machine

/-! ### A packet leaves the head of an input (R203, R204, R206) -/

section
variable {s : State} {r : Fin 64} {i : Fin 5} {pl : Bool} {hop : HopObs} {p : Packet} {rest : List Packet} {out : Nat}

/-- A state whose buffers, counts, marked lanes, grants and folded counts are as given. -/
def State.hopped (s : State) (bufs : Tab (List Packet)) (retry : BitVec 16) (marked : List Lane) (grants : Tab Nat)
    (folds : Tab (Option (Nat × Word32 × Word64))) : State :=
  { s with fab := { s.fab with bufs := bufs, hopRetry := retry, marked := marked, grants := grants },
           flt := { s.flt with folds := folds } }

/-- What a router does with a packet that leaves an input, before it goes on. -/
def State.granted (s : State) (r : Fin 64) (i : Fin 5) (pl : Bool) (hop : HopObs) (rest : List Packet) (out : Nat) : State :=
  let u := ((s.hopRetries r i.val pl hop.asked).markLane r i pl hop.group).setBuf r i.val pl rest
  { u with fab := { u.fab with grants := tset (fun _ => 0) u.fab.grants (grantKey r out pl) i.val } }

theorem satAdd_zero {w : Nat} (v : BitVec w) : satAdd v 0 = v := by
  apply BitVec.eq_of_toNat_eq
  have := v.isLt
  rw [satAdd_toNat]
  omega

theorem granted_is (s : State) (r : Fin 64) (i : Fin 5) (pl : Bool) (hop : HopObs) (rest : List Packet) (out : Nat) :
    ∃ M F, s.granted r i pl hop rest out = s.hopped (tset (fun _ => []) s.fab.bufs (bufKey r i.val pl) rest)
      (satAdd s.fab.hopRetry hop.asked) M (tset (fun _ => 0) s.fab.grants (grantKey r out pl) i.val) F := by
  have h1 : ∃ F, s.hopRetries r i.val pl hop.asked =
      s.hopped s.fab.bufs (satAdd s.fab.hopRetry hop.asked) s.fab.marked s.fab.grants F := by
    unfold State.hopRetries
    split
    next h => exact ⟨s.flt.folds, by rw [h, satAdd_zero]; rfl⟩
    next => exact ⟨_, rfl⟩
  obtain ⟨F, h1⟩ := h1
  have h2 : ∃ M, (s.hopRetries r i.val pl hop.asked).markLane r i pl hop.group =
      s.hopped s.fab.bufs (satAdd s.fab.hopRetry hop.asked) M s.fab.grants F := by
    rw [h1]
    unfold State.markLane
    split
    · exact ⟨_, rfl⟩
    · split
      · dsimp only
        split
        · exact ⟨_, rfl⟩
        · exact ⟨_, rfl⟩
      · exact ⟨_, rfl⟩
  obtain ⟨M, h2⟩ := h2
  refine ⟨M, F, ?_⟩
  unfold State.granted
  rw [h2]
  rfl

theorem bufKey_inj {x z : Fin 64} {k m : Nat} {y w : Bool} (hk : k < 5) (hm : m < 5) (h : bufKey x k y = bufKey z m w) :
    (x, k, y) = (z, m, w) := by
  have hy : y.toNat < 2 := Bool.toNat_lt y
  have hp : w.toNat < 2 := Bool.toNat_lt w
  unfold bufKey at h
  have h1 : x = z := Fin.ext (by omega)
  have h2 : k = m := by omega
  have h3 : y = w := by cases y <;> cases w <;> simp_all
  rw [h1, h2, h3]

theorem bufKey_ne {x : Fin 64} {k : Nat} {y : Bool} (hk : k < 5) (h : (x, k, y) ≠ (r, i.val, pl)) :
    bufKey x k y ≠ bufKey r i.val pl := fun e => h (bufKey_inj hk i.isLt e)

/-- The buffers once a packet has left one. -/
theorem hopped_buf (R : BitVec 16) (M : List Lane) (G : Tab Nat) (F : Tab (Option (Nat × Word32 × Word64))) :
    let u := s.hopped (tset (fun _ => []) s.fab.bufs (bufKey r i.val pl) rest) R M G F
    u.buf r i.val pl = rest ∧ ∀ x k y, k < 5 → (x, k, y) ≠ (r, i.val, pl) → u.buf x k y = s.buf x k y :=
  ⟨tget_tset_same _ _ _ _, fun x k y hk h => tget_tset_other _ _ _ (bufKey_ne hk h)⟩

theorem copyHead_hopped (B : Tab (List Packet)) (R : BitVec 16) (M : List Lane) (G : Tab Nat)
    (F : Tab (Option (Nat × Word32 × Word64))) (n : SiteNo) (q : Fin 4) :
    (s.hopped B R M G F).copyHead n q = s.copyHead n q := rfl

theorem hopped_noCopies (B : Tab (List Packet)) (R : BitVec 16) (M : List Lane) (G : Tab Nat)
    (F : Tab (Option (Nat × Word32 × Word64))) (o : List Out) (fl : List Packet) {q : Fin 64} (h : s.noCopies q) :
    ({ s.hopped B R M G F with fab := { (s.hopped B R M G F).fab with flying := fl }, out := o } : State).noCopies q :=
  fun n hn c => ((copyHead_sent (s.hopped B R M G F) _ fl _ o n c).trans (copyHead_hopped B R M G F n c)).trans (h n hn c)

/-- A packet that its input may send on is taken from its buffer. -/
theorem forward_of (hb : s.buf r i.val pl = p :: rest) (hs : s.fieldStopped (fieldOfRtr r) = false)
    (hn : s.nextPort r p.dstRtr = some out) (hg : s.grantOf r out pl = some i.val)
    (hroom : out = 4 ∨ (s.buf (neighbour r out) (opposite out) (s.planeVia r out pl)).length < 2) :
    exec (.packetForward r i pl hop) s =
      (let p' := cutAt p hop.dead
       let u := s.granted r i pl hop rest out
       let nb := neighbour r out
       let v := if out = 4 then (u.send (.delivered p')).svcDelivered p'
         else if u.isDark (fieldOfRtr nb) then u.losePacket p'
         else u.setBuf nb (opposite out) (s.planeVia r out pl)
           (u.buf nb (opposite out) (s.planeVia r out pl) ++ [p'])
       .next (if i = 4 then v.servePort r 5 else v)) := by
  change execPacketForward r i pl hop s = _
  unfold execPacketForward
  rw [hb]
  dsimp only
  rw [if_neg (by rw [hs]; decide), hn]
  dsimp only
  rw [if_neg (fun h => h hg), if_neg (by omega)]
  rfl

end

/-! ### A packet that fails a flit (R206) -/

section
variable {p : Packet}

theorem cutAt_head (p : Packet) (d : Option (Fin 16)) : (cutAt p d).opc = p.opc ∧ (cutAt p d).srcRtr = p.srcRtr ∧
    (cutAt p d).dstRtr = p.dstRtr ∧ (cutAt p d).txn = p.txn ∧ (cutAt p d).addr = p.addr := by
  cases d <;> exact ⟨rfl, rfl, rfl, rfl, rfl⟩

theorem cutAt_whole {d : Option (Fin 16)} (h : (cutAt p d).truncated = false) : cutAt p d = p := by
  cases d with
  | none => rfl
  | some k => exact Bool.noConfusion h

/-- A truncated SVC packet keeps its TYPE. -/
theorem cutAt_type (d : Option (Fin 16)) (h : p.opc = 7) : svcType (cutAt p d).data = svcType p.data := by
  cases d with
  | none => rfl
  | some k =>
    change svcType (p.data.take (if p.opc = 7 then 1 else 512 * k.val)) = _
    rw [if_pos h]
    cases p.data <;> rfl

variable {s : State}

/-- An SVC packet that the end of its way leaves as it is: an answer, or an operation for a bell of this device. -/
theorem svcDelivered_stays (h : p.opc ≠ 7 ∨ (svcType p.data = 1 ∧ p.truncated = false ∧
      ∀ x w dev, s.txnOf p.srcRtr p.txn = some x → x.use ≠ .bell w (some dev)) ∨ svcType p.data = 2) :
    s.svcDelivered p = s := by
  by_cases h7 : p.opc = 7
  · unfold State.svcDelivered
    rw [if_neg (fun hn => hn h7)]
    rcases h with h | ⟨ht, hc, hx⟩ | ht
    · exact absurd h7 h
    · rw [ht]
      change (if p.truncated = true then _ else s.bellDelivered p) = s
      rw [if_neg (by rw [hc]; decide)]
      unfold State.bellDelivered
      cases hxo : s.txnOf p.srcRtr p.txn with
      | none => rfl
      | some x =>
        cases hu : x.use with
        | bell w d =>
          cases d with
          | none => rw [Option.map_some, hu]
          | some dev => exact absurd hu (hx x w dev hxo)
        | _ => rw [Option.map_some, hu]
    · rw [ht]
      rfl
  · exact if_pos h7

end

/-! ### A packet that moves on (R203, R206) -/

section
variable {s : State} {r : Fin 64} {i : Fin 5} {pl : Bool} {hop : HopObs} {p : Packet} {rest : List Packet} {out : Nat}

theorem portIdle_spec (h : s.portIdle r = true) : s.fab.waiting = [] ∧ s.noCopies r := by
  unfold State.portIdle at h
  simp only [Bool.and_eq_true, List.isEmpty_iff] at h
  obtain ⟨hw, hc⟩ := h
  refine ⟨hw, fun n hn q => ?_⟩
  rw [hn] at hc
  exact Option.isNone_iff_eq_none.1 (List.all_eq_true.1 hc q (List.mem_finRange q))

/-- A local input whose port has nothing to send takes nothing. -/
theorem served_idle {v : State} (hi : i.val = 4 → v.fab.waiting = [] ∧ v.noCopies r) :
    (if i = 4 then v.servePort r 5 else v) = v := by
  split
  next h =>
    obtain ⟨hw, hc⟩ := hi (congrArg Fin.val h)
    exact servePort_idle hw hc 5
  next => rfl

theorem neighbour_ne (r : Fin 64) (o : Nat) : neighbour r o ≠ r := by
  intro h
  have hv := congrArg Fin.val h
  rcases o with _ | _ | _ | o
  · change (r.val + 48) % 64 = r.val at hv
    omega
  · change (r.val + 1) % 64 = r.val at hv
    omega
  · change (r.val + 16) % 64 = r.val at hv
    omega
  · change (r.val + 63) % 64 = r.val at hv
    omega

theorem opposite_lt (o : Nat) : opposite o < 5 := by
  unfold opposite
  omega

/-- Two different places of the mesh's buffers. -/
theorem place_ne {x r : Fin 64} {k i : Fin 5} {y pl : Bool} (h : (x, k, y) ≠ (r, i, pl)) : (x, k.val, y) ≠ (r, i.val, pl) := by
  intro e
  simp only [Prod.mk.injEq] at e
  obtain ⟨e1, e2, e3⟩ := e
  exact h (by rw [e1, Fin.ext e2, e3])

variable (hb : s.buf r i.val pl = p :: rest) (hs : s.fieldStopped (fieldOfRtr r) = false)
  (hn : s.nextPort r p.dstRtr = some out) (hg : s.grantOf r out pl = some i.val)
  (hi : i.val = 4 → s.portIdle r = true)
include hb hs hn hg hi

/-- A packet at its router is delivered. -/
theorem forward_delivers (h4 : out = 4) (hk : p.opc ≠ 7 ∨ (svcType p.data = 1 ∧ (cutAt p hop.dead).truncated = false ∧
      ∀ x w dev, s.txnOf p.srcRtr p.txn = some x → x.use ≠ .bell w (some dev)) ∨ svcType p.data = 2) :
    completes (.packetForward r i pl hop) s fun t =>
      t = { s with fab := t.fab, flt := t.flt, out := t.out } ∧ t.out = s.out ++ [.delivered (cutAt p hop.dead)] ∧
      t.fab.hopRetry = satAdd s.fab.hopRetry hop.asked ∧ t.buf r i.val pl = rest ∧
      ∀ (x : Fin 64) (k : Fin 5) (y : Bool), (x, k, y) ≠ (r, i, pl) → t.buf x k.val y = s.buf x k.val y := by
  have hx := forward_of (hop := hop) hb hs hn hg (.inl h4)
  obtain ⟨M, F, hu⟩ := granted_is s r i pl hop rest out
  dsimp only at hx
  rw [if_pos h4, hu] at hx
  obtain ⟨ho, hsr, -, htx, -⟩ := cutAt_head p hop.dead
  rw [svcDelivered_stays, served_idle] at hx
  · obtain ⟨h1, h2⟩ := hopped_buf (s := s) (r := r) (i := i) (pl := pl) (rest := rest)
      (satAdd s.fab.hopRetry hop.asked) M (tset (fun _ => 0) s.fab.grants (grantKey r out pl) i.val) F
    refine ⟨_, hx, rfl, rfl, rfl, h1, fun x k y hne => h2 x k.val y k.isLt (place_ne hne)⟩
  · intro h
    obtain ⟨hw, hc⟩ := portIdle_spec (hi h)
    exact ⟨hw, hopped_noCopies _ _ _ _ _ _ s.fab.flying hc⟩
  · rw [ho, hsr, htx]
    by_cases h7 : p.opc = 7
    · rw [cutAt_type hop.dead h7]
      exact hk
    · exact .inl h7

/-- A packet whose next buffer has room stands last in it. -/
theorem forward_moves (h4 : out < 4)
    (hroom : (s.buf (neighbour r out) (opposite out) (s.planeVia r out pl)).length < 2)
    (hd : s.isDark (fieldOfRtr (neighbour r out)) = false) :
    completes (.packetForward r i pl hop) s fun t =>
      t = { s with fab := t.fab, flt := t.flt } ∧ t.fab.hopRetry = satAdd s.fab.hopRetry hop.asked ∧
      t.buf r i.val pl = rest ∧
      t.buf (neighbour r out) (opposite out) (s.planeVia r out pl) =
        s.buf (neighbour r out) (opposite out) (s.planeVia r out pl) ++ [cutAt p hop.dead] ∧
      ∀ (x : Fin 64) (k : Fin 5) (y : Bool), (x, k, y) ≠ (r, i, pl) →
        (x, k.val, y) ≠ (neighbour r out, opposite out, s.planeVia r out pl) →
        t.buf x k.val y = s.buf x k.val y := by
  have hx := forward_of (hop := hop) hb hs hn hg (.inr hroom)
  obtain ⟨M, F, hu⟩ := granted_is s r i pl hop rest out
  obtain ⟨h1, h2⟩ := hopped_buf (s := s) (r := r) (i := i) (pl := pl) (rest := rest)
    (satAdd s.fab.hopRetry hop.asked) M (tset (fun _ => 0) s.fab.grants (grantKey r out pl) i.val) F
  have hne : (neighbour r out, opposite out, s.planeVia r out pl) ≠ (r, i.val, pl) := fun e =>
    neighbour_ne r out (congrArg Prod.fst e)
  have h3 := h2 _ _ _ (opposite_lt out) hne
  dsimp only at hx
  have hd' (B : Tab (List Packet)) (R : BitVec 16) (M : List Lane) (G : Tab Nat) (F : Tab (Option (Nat × Word32 × Word64))) :
      (s.hopped B R M G F).isDark (fieldOfRtr (neighbour r out)) = false := hd
  rw [if_neg (show ¬out = 4 from Nat.ne_of_lt h4), hu, hd', if_neg Bool.false_ne_true, h3, served_idle] at hx
  · refine ⟨_, hx, rfl, rfl, ?_, tget_tset_same _ _ _ _, fun x k y hk1 hk2 => ?_⟩
    · exact (tget_tset_other _ _ _ (fun e => hne.symm (bufKey_inj i.isLt (opposite_lt out) e))).trans h1
    · exact (tget_tset_other _ _ _ (fun e => hk2 (bufKey_inj k.isLt (opposite_lt out) e))).trans (h2 x k.val y k.isLt (place_ne hk1))
  · intro h
    obtain ⟨hw, hc⟩ := portIdle_spec (hi h)
    exact ⟨hw, fun n hn' q => (copyHead_sent _ _ s.fab.flying s.fab.portLast s.out n q).trans
      ((copyHead_hopped _ _ _ _ _ n q).trans (hc n hn' q))⟩

end

section
variable {s : State} {l : LinkNo} {q : LinkPkt}

theorem flush_out (hu : (s.link l).st = .up) (hw : (s.link l).worn s.tb = false) :
    (s.flush l).out = s.out ++ ((s.link l).drain (s.link l).txQ []).1.map (Out.linkPkt l) := by
  unfold State.flush
  dsimp only
  rw [if_neg (by rw [hu, hw]; decide)]
  rfl

/-- A link that is UP, holds nothing back and has the credit sends a packet at once (R266). -/
theorem sendLink_up (hu : (s.link l).st = .up) (hw : (s.link l).worn s.tb = false) (hq : (s.link l).txQ = [])
    (hc : pktUnits q ≤ (s.link l).credit q.vc.toNat) : (s.sendLink l q).out = s.out ++ [.linkPkt l q] := by
  have hk : (s.modLink l fun k => { k with txQ := k.txQ ++ [q] }).link l = { s.link l with txQ := [q] } := by
    rw [State.link_modLink_same, hq]
    rfl
  have hd : (Link.drain { s.link l with txQ := [q] } [q] []).1 = [q] := by
    have hc' : pktUnits q ≤ Link.credit { s.link l with txQ := [q] } q.vc.toNat := hc
    unfold Link.drain
    dsimp only
    rw [decide_eq_true hc']
    rfl
  have hf := flush_out (s := s.modLink l fun k => { k with txQ := k.txQ ++ [q] }) (l := l) (by rw [hk]; exact hu)
    (by rw [hk]; exact hw)
  rw [hk] at hf
  refine hf.trans ?_
  rw [show ({ s.link l with txQ := [q] } : Link).txQ = [q] from rfl, hd]
  rfl

/-- An answer to a bell operation is of TYPE 2. -/
theorem bellData_type (op : BitVec 8) (b : BitVec 13) (img : Option BellImg) (src : BitVec 12) :
    svcType (bellDataBytes op b img src) = 2 := rfl

/-- A port is free by what waits there, its buffers, and the requests of its core's copies. -/
theorem portFree_congr {u v : State} (hp : u.fab.paused = v.fab.paused) (hw : u.fab.waiting = v.fab.waiting)
    (hb : u.fab.bufs = v.fab.bufs) (hc : ∀ n q, u.copyHead n q = v.copyHead n q) (r : Fin 64) :
    u.portFree r = v.portFree r := by
  unfold State.portFree State.portIdle State.buf
  rw [hp, hw, hb]
  simp only [hc]

end

section
variable {s : State} {r : Fin 64} {i : Fin 5} {pl : Bool} {hop : HopObs} {p : Packet} {rest : List Packet} {out : Nat}

theorem linkTo_hopped (B : Tab (List Packet)) (R : BitVec 16) (M : List Lane) (G : Tab Nat)
    (F : Tab (Option (Nat × Word32 × Word64))) (src dst : BitVec 12) (addr : Word64) (tag : Option HamletNo) :
    (s.hopped B R M G F).linkTo src dst addr tag = s.linkTo src dst addr tag := rfl

theorem linkTo_send (s : State) (o : Out) (src dst : BitVec 12) (addr : Word64) (tag : Option HamletNo) :
    (s.send o).linkTo src dst addr tag = s.linkTo src dst addr tag := rfl

theorem linkTo_arrived (s : State) (p : Packet) (src dst : BitVec 12) (addr : Word64) (tag : Option HamletNo) :
    (s.arrived p).linkTo src dst addr tag = s.linkTo src dst addr tag := rfl

/-- What the end of a way has in its hands: the packet taken from its buffer, and delivered. -/
def State.atEnd (s : State) (r : Fin 64) (i : Fin 5) (pl : Bool) (hop : HopObs) (p : Packet) (rest : List Packet) : State :=
  (s.granted r i pl hop rest 4).send (.delivered (cutAt p hop.dead))

variable (hb : s.buf r i.val pl = p :: rest) (hs : s.fieldStopped (fieldOfRtr r) = false)
  (hn : s.nextPort r p.dstRtr = some 4) (hg : s.grantOf r 4 pl = some i.val) (hi : i.val ≠ 4)

include hb hs hn hg hi in
theorem forward_ends : exec (.packetForward r i pl hop) s =
    .next ((s.atEnd r i pl hop p rest).svcDelivered (cutAt p hop.dead)) := by
  have hx := forward_of (hop := hop) hb hs hn hg (.inl rfl)
  dsimp only at hx
  rw [if_pos rfl, served_idle (fun h => absurd h hi)] at hx
  exact hx

theorem atEnd_keeps (s : State) (r : Fin 64) (i : Fin 5) (pl : Bool) (hop : HopObs) (p : Packet) (rest : List Packet) :
    let u := s.atEnd r i pl hop p rest
    u.sites = s.sites ∧ u.mem = s.mem ∧ u.coll = s.coll ∧ u.links = s.links ∧ u.tb = s.tb ∧ u.id = s.id ∧
      u.out = s.out ++ [.delivered (cutAt p hop.dead)] ∧ (∀ a t, u.txnOf a t = s.txnOf a t) ∧
      (∀ x src dst addr tag, (u.arrived x).linkTo src dst addr tag = s.linkTo src dst addr tag) ∧
      u.fab.paused = s.fab.paused ∧ u.fab.waiting = s.fab.waiting ∧
      u.fab.bufs = (s.setBuf r i.val pl rest).fab.bufs ∧ u.fab.flying = s.fab.flying ∧
      (∀ n q, u.copyHead n q = s.copyHead n q) := by
  obtain ⟨M, F, hu⟩ := granted_is s r i pl hop rest 4
  unfold State.atEnd
  rw [hu]
  exact ⟨rfl, rfl, rfl, rfl, rfl, rfl, rfl, fun _ _ => rfl, fun x src dst addr tag =>
    (linkTo_arrived _ x src dst addr tag).trans ((linkTo_send _ _ src dst addr tag).trans
      (linkTo_hopped _ _ _ _ _ src dst addr tag)), rfl, rfl, rfl, rfl,
    fun n q => (copyHead_sent _ _ _ _ _ n q).trans (copyHead_hopped _ _ _ _ _ n q)⟩

include hb hs hn hg hi

/-- A bell operation for another device goes on over the link chosen for it (R276, R279, R290). -/
theorem forward_bell {x : Txn} {w : BellFor} {dev : BitVec 12} {l : LinkNo} (h7 : p.opc = 7)
    (ht : (cutAt p hop.dead).truncated = false) (hty : svcType p.data = 1) (hx : s.txnOf p.srcRtr p.txn = some x)
    (hu : x.use = .bell w (some dev))
    (hl : s.linkTo s.id.dev dev (BitVec.ofNat 64 (pktAddr p)) (pktTag p) = some l) (hup : (s.link l).st = .up)
    (hw : (s.link l).worn s.tb = false) (hq : (s.link l).txQ = []) (hc : 2 ≤ (s.link l).credit 0)
    (hlen : p.data.length = 64) :
    completes (.packetForward r i pl hop) s fun t => t.sites = s.sites ∧ t.mem = s.mem ∧ t.coll = s.coll ∧
      ∃ q, t.out = s.out ++ [.delivered (cutAt p hop.dead), .linkPkt l q] ∧ q.opc = 7 ∧ q.dstKind = 2 ∧ q.dstDev = dev ∧
        q.vc = 0 ∧ q.srcDev = s.id.dev ∧ q.addr = BitVec.ofNat 64 (pktAddr p) ∧ q.data = p.data ∧
        q.rtxn = rtxnOf p.srcRtr p.txn := by
  have he := forward_ends (hop := hop) hb hs hn hg hi
  obtain ⟨h1, h2, h3, h4, h5, h6, h8, h9, h10, -⟩ := atEnd_keeps s r i pl hop p rest
  have hcw := cutAt_whole ht
  rw [hcw] at he ht h8 ⊢
  generalize s.atEnd r i pl hop p rest = u at he h1 h2 h3 h4 h5 h6 h8 h9 h10
  have hv : u.svcDelivered p = (u.arrived p).sendLink l ((u.arrived p).bellLinkPkt p dev) := by
    unfold State.svcDelivered
    rw [if_neg (fun hn => hn h7), hty]
    change (if p.truncated = true then _ else u.bellDelivered p) = _
    rw [if_neg (by rw [ht]; decide)]
    unfold State.bellDelivered
    rw [h9, hx, Option.map_some, hu]
    dsimp only
    rw [h10, show (u.arrived p).id = s.id from h6, hl]
  rw [hv] at he
  have hfr := sendLink_frame (u.arrived p) l ((u.arrived p).bellLinkPkt p dev)
  have hlk : (u.arrived p).link l = s.link l := by
    unfold State.link
    exact congrArg (fun t : Tab Link => tget (fun _ => ({} : Link)) t l.val) h4
  have hunits : pktUnits ((u.arrived p).bellLinkPkt p dev) = 2 := by
    change 1 + (p.data.length + 63) / 64 = 2
    rw [hlen]
  have ho := sendLink_up (s := u.arrived p) (l := l) (q := (u.arrived p).bellLinkPkt p dev) (by rw [hlk]; exact hup)
    (by rw [hlk, show (u.arrived p).tb = s.tb from h5]; exact hw) (by rw [hlk]; exact hq)
    (by rw [hunits, hlk]; exact hc)
  have hdev : ((u.arrived p).bellLinkPkt p dev).srcDev = s.id.dev := by rw [← h6]; rfl
  refine ⟨_, he, ?_, ?_, ?_, _, ?_, rfl, rfl, rfl, rfl, hdev, rfl, rfl, rfl⟩
  · rw [hfr]; exact h1
  · rw [hfr]; exact h2
  · rw [hfr]; exact h3
  · rw [ho]
    change u.out ++ _ = _
    rw [h8, List.append_assoc]
    rfl

/-- A truncated bell operation is answered PARITY_HOP to its sender (R206). -/
theorem forward_truncated (h7 : p.opc = 7) (ht : (cutAt p hop.dead).truncated = true) (hty : svcType p.data = 1)
    (hp : ((s.setBuf r i.val pl rest).arrived (cutAt p hop.dead)).portFree p.dstRtr = true) :
    completes (.packetForward r i pl hop) s fun t => t.sites = s.sites ∧ t.mem = s.mem ∧ t.coll = s.coll ∧
      ∃ q, t.out = s.out ++ [.delivered (cutAt p hop.dead), .packet q] ∧ q.opc = 7 ∧ q.status = 5 ∧ q.txn = p.txn ∧
        q.dstRtr = p.srcRtr ∧ svcType q.data = 2 := by
  have he := forward_ends (hop := hop) hb hs hn hg hi
  obtain ⟨h1, h2, h3, -, -, -, h8, -, -, h11, h12, h13, h14, h15⟩ := atEnd_keeps s r i pl hop p rest
  obtain ⟨ho, hsr, hdr, htx, -⟩ := cutAt_head p hop.dead
  have htyp := cutAt_type hop.dead h7
  generalize cutAt p hop.dead = p' at he ht hp h8 ho hsr hdr htx htyp ⊢
  generalize s.atEnd r i pl hop p rest = u at he h1 h2 h3 h8 h11 h12 h13 h14 h15
  have hv : u.svcDelivered p' = (u.arrived p').bellRefused p' 5 := by
    unfold State.svcDelivered
    rw [if_neg (fun hn => hn (ho.trans h7)), htyp, hty]
    exact if_pos ht
  rw [hv] at he
  have hpf : (u.arrived p').portFree p'.dstRtr = true := by
    rw [hdr, ← hp]
    have hbufs : (u.arrived p').fab.bufs = ((s.setBuf r i.val pl rest).arrived p').fab.bufs := by
      unfold State.arrived
      dsimp only
      rw [h13]
    refine portFree_congr (u := u.arrived p') (v := (s.setBuf r i.val pl rest).arrived p') h11 h12 hbufs (fun n q => ?_) _
    · exact ((copyHead_sent u _ _ u.fab.portLast u.out n q).trans (h15 n q)).trans
        (copyHead_sent s _ _ s.fab.portLast s.out n q).symm
  obtain ⟨hr, -⟩ := respond_sends (p := replyTo p' 7 5
    (bellDataBytes (bellOpOf p'.data).op (BitVec.ofNat 13 (pktAddr p' / 64)) none (u.arrived p').id.dev)) hpf
  refine ⟨_, he, ?_, ?_, ?_, replyTo p' 7 5 (bellDataBytes (bellOpOf p'.data).op (BitVec.ofNat 13 (pktAddr p' / 64)) none
    (u.arrived p').id.dev), ?_, rfl, rfl, htx, hsr, bellData_type _ _ _ _⟩
  · exact (congrArg State.sites hr).trans h1
  · exact (congrArg State.mem hr).trans h2
  · exact (congrArg State.coll hr).trans h3
  · refine (congrArg State.out hr).trans ?_
    change u.out ++ _ = _
    rw [h8, List.append_assoc]
    rfl

end

/-! ### Packets that stay, and packets without a route -/

section
variable {s : State} {r : Fin 64} {i : Fin 5} {pl : Bool} {hop : HopObs} {p : Packet} {rest : List Packet} {out : Nat}

theorem forward_empty (hb : s.buf r i.val pl = []) : exec (.packetForward r i pl hop) s = .next s := by
  change execPacketForward r i pl hop s = _
  unfold execPacketForward
  rw [hb]

theorem forward_stopped (h : s.fieldStopped (fieldOfRtr r) = true) : exec (.packetForward r i pl hop) s = .next s := by
  change execPacketForward r i pl hop s = _
  unfold execPacketForward
  split
  · rfl
  · exact if_pos h

/-- A packet that is not granted, or has no room before it, stays. -/
theorem forward_waits (hb : s.buf r i.val pl = p :: rest) (hn : s.nextPort r p.dstRtr = some out)
    (h : s.grantOf r out pl ≠ some i.val ∨
      (out ≠ 4 ∧ 2 ≤ (s.buf (neighbour r out) (opposite out) (s.planeVia r out pl)).length)) :
    exec (.packetForward r i pl hop) s = .next s := by
  change execPacketForward r i pl hop s = _
  unfold execPacketForward
  rw [hb]
  dsimp only
  rw [hn]
  dsimp only
  split
  · rfl
  · rcases h with h | h
    · exact if_pos h
    · rw [if_pos h, ite_self]

theorem forward_loses (hb : s.buf r i.val pl = p :: rest) (hn : s.nextPort r p.dstRtr = none)
    (hs : s.fieldStopped (fieldOfRtr r) = false) :
    completes (.packetForward r i pl hop) s fun t =>
      t = { s with fab := { s.fab with bufs := t.fab.bufs, flying := t.fab.flying } } ∧ t.buf r i.val pl = rest ∧
      ∀ (x : Fin 64) (k : Fin 5) (y : Bool), (x, k, y) ≠ (r, i, pl) → t.buf x k.val y = s.buf x k.val y := by
  have he : exec (.packetForward r i pl hop) s = .next ((s.setBuf r i.val pl rest).losePacket p) := by
    change execPacketForward r i pl hop s = _
    unfold execPacketForward
    rw [hb]
    dsimp only
    rw [if_neg (by rw [hs]; decide), hn]
  exact ⟨_, he, rfl, tget_tset_same _ _ _ _, fun x k y h => tget_tset_other _ _ _ (bufKey_ne k.isLt (place_ne h))⟩

end

/-- Settles O35, by where the packet's route leads next. -/
theorem packetsForwarded : Obligations.PacketsForwarded := by
  unfold Obligations.PacketsForwarded
  refine ⟨fun s r i pl hop p rest out hb hn hg hs hi => ?_, fun s r i pl hop => ?_⟩
  · refine ⟨fun h4 hk => forward_delivers hb hs hn hg hi h4 hk, fun h4 hr hd => forward_moves hb hs hn hg hi h4 hr hd,
      fun x w dev h4 h7 ht hty hx hu h l hl hup hw hq hc hlen => ?_, fun h4 h7 ht hty h hp => ?_,
      fun h4 hr => ⟨s, forward_waits hb hn (.inr ⟨Nat.ne_of_lt h4, hr⟩), rfl⟩⟩
    · subst h4
      exact forward_bell hb hs hn hg h h7 ht hty hx hu hl hup hw hq hc hlen
    · subst h4
      exact forward_truncated hb hs hn hg h h7 ht hty hp
  · exact ⟨fun hb => ⟨s, forward_empty hb, rfl⟩, fun p rest out hb hn hg => ⟨s, forward_waits hb hn (.inl hg), rfl⟩,
      fun h => ⟨s, forward_stopped h, rfl⟩, fun p rest hb hn hs => forward_loses hb hn hs⟩

end Sys2Proof.Machine
end

section
/-!
PROOF. Requests at their endpoint and the answers that move copies on (R184, R197 to R200, R216, R217).
-/

namespace Sys2Proof.Machine

/-! ### Which copies have a request to send (R199, R204) -/

section
variable {s u v : State} {n : SiteNo} {q : Fin 4} {r : Fin 64} {f : CopyFlight}

/-- A next request that a copy can send. -/
def sendsNext : Option (Except (BitVec 4) Packet) → Bool
  | some (.ok _) => true
  | _ => false

/-- A flight that has nothing to send: it awaits an answer, or its next request is none. -/
def State.quietFlight (s : State) (n : SiteNo) (f : CopyFlight) : Prop :=
  f.txn.isSome = true ∨ sendsNext (s.nextPacket n f) = false

theorem copyHead_none : s.copyHead n q = none ↔
    ∀ i, i < 4 → ∀ f, (s.site n).flightAt q i = some f → s.quietFlight n f := by
  unfold State.copyHead
  rw [List.findSome?_eq_none_iff]
  refine ⟨fun h i hi f hf => ?_, fun h i hi => ?_⟩
  · have hq := h i (List.mem_range.2 hi)
    rw [hf] at hq
    dsimp only at hq
    by_cases ht : f.txn.isSome = true
    · exact .inl ht
    · rw [if_neg ht] at hq
      refine .inr ?_
      generalize s.nextPacket n f = x at hq
      match x, hq with
      | none, _ => rfl
      | some (.error _), _ => rfl
  · cases hf : (s.site n).flightAt q i with
    | none => rfl
    | some f =>
      have hq := h i (List.mem_range.1 hi) f hf
      dsimp only
      split
      · rfl
      · rename_i ht
        have hn := hq.resolve_left ht
        generalize s.nextPacket n f = x at hn
        match x, hn with
        | none, _ => rfl
        | some (.error _), _ => rfl

/-- The ports of copies and the host answer as before. -/
def sameWays (s u : State) : Prop :=
  (∀ n d k a, u.portOf n d k a = s.portOf n d k a) ∧ ∀ n d, u.hostEnd n d = s.hostEnd n d

theorem sameWays_trans (h : sameWays s u) (k : sameWays u v) : sameWays s v :=
  ⟨fun n d x a => (k.1 n d x a).trans (h.1 n d x a), fun n d => (k.2 n d).trans (h.2 n d)⟩

/-- What copies ask is the same when sites keep their owners and their LAUNCHes. -/
theorem sameWays_sites (s : State) (S : Tab Site) (h : ∀ m, (({ s with sites := S } : State).site m).hamlet = (s.site m).hamlet)
    (hl : ∀ m, (({ s with sites := S } : State).site m).launch = (s.site m).launch) :
    sameWays s { s with sites := S } := by
  refine ⟨fun n d k a => ?_, fun n d => ?_⟩
  · unfold State.portOf
    dsimp only
    rw [h n]
    rfl
  · unfold State.hostEnd State.launchRing
    dsimp only
    rw [h n, hl n]
    rfl

theorem sameWays_fab (s : State) (B : Tab (List Packet)) (fl : List Packet) (last : Tab Nat) (T : List Txn)
    (W : List PortReq) (R : List (Fin 64 × BitVec 10 × Word64)) (k : BitVec 8) (o : List Out) :
    sameWays s { s with fab := { s.fab with bufs := B, flying := fl, portLast := last, txns := T, waiting := W, resends := R, timeouts := k }, out := o } :=
  ⟨fun _ _ _ _ => rfl, fun _ _ => rfl⟩

theorem sameWays_log (s : State) (F : Faults) (J : Journal) (D : Tab Byte) :
    sameWays s { s with flt := F, jrnl := J, mem := { s.mem with ddr := D } } := ⟨fun _ _ _ _ => rfl, fun _ _ => rfl⟩

theorem sameWays_at (s : State) (tm : Word64) : sameWays s (s.at tm) := by
  obtain ⟨b, hb⟩ := at_is s tm
  rw [hb]
  exact ⟨fun _ _ _ _ => rfl, fun _ _ => rfl⟩

theorem localRead_length (c : Site) (k : BitVec 4) (a len : Nat) : (c.localRead k a len).length = len := by
  unfold Site.localRead
  split <;> exact tbytes_length _ _ _ _

theorem nil_congr {α : Type} {l m : List α} (h : l.length = m.length) : (l ≠ []) ↔ (m ≠ []) := by
  rw [← List.length_pos_iff_ne_nil, ← List.length_pos_iff_ne_nil, h]

theorem sendBytes_length {c d : Site} (h : c.refills = d.refills) (f : CopyFlight) (a len : Nat) :
    (c.sendBytes f a len).length = (d.sendBytes f a len).length := by
  unfold Site.sendBytes Site.refilling
  rw [h]
  split
  · split
    · rfl
    · rw [localRead_length, localRead_length]
  · rfl

theorem sendsNext_map (x : Except (BitVec 4) (Fin 64 × Bool)) (g g' : Fin 64 × Bool → Packet) :
    sendsNext (some (x.map g)) = sendsNext (some (x.map g')) := by
  cases x <;> rfl

/-- Whether a copy has a request to send depends on its ports and its source's refills alone. -/
theorem nextPacket_sends (hw : sameWays s u) (hr : (u.site n).refills = (s.site n).refills) (f : CopyFlight) :
    sendsNext (u.nextPacket n f) = sendsNext (s.nextPacket n f) := by
  obtain ⟨hp, hh⟩ := hw
  unfold State.nextPacket State.readPacket
  dsimp only
  rw [hh]
  split
  · rfl
  · split
    · rfl
    · obtain ⟨sa, da, left⟩ := f.desc.place f.moved
      dsimp only
      split
      · rw [hp]
        exact sendsNext_map _ _ _
      · split
        · have hl := nil_congr (sendBytes_length hr f sa (min left (8192 - da % 8192)))
          by_cases hb : (s.site n).sendBytes f sa (min left (8192 - da % 8192)) ≠ []
          · rw [if_pos hb, if_pos (hl.2 hb), hp]
            exact sendsNext_map _ _ _
          · rw [if_neg hb, if_neg (fun h => hb (hl.1 h))]
            split
            · rw [hp]
              exact sendsNext_map _ _ _
            · rfl
        · split
          · rw [hp]
            exact sendsNext_map _ _ _
          · rfl

/-- Copies of a core at a port have nothing to send, when each flight is one that had nothing, or has nothing now. -/
theorem noCopies_keeps (h : s.noCopies r) (hw : sameWays s u)
    (hs : ∀ n, siteAtRtr r = some n → (u.site n).refills = (s.site n).refills ∧
      ∀ q i f, i < 4 → (u.site n).flightAt q i = some f →
        (∃ j, j < 4 ∧ (s.site n).flightAt q j = some f) ∨ u.quietFlight n f) : u.noCopies r := by
  intro n hn q
  obtain ⟨hr, hq⟩ := hs n hn
  refine copyHead_none.2 fun i hi f hf => ?_
  rcases hq q i f hi hf with ⟨j, hj, hjf⟩ | hq
  · rcases copyHead_none.1 (h n hn q) j hj f hjf with ht | hs
    · exact .inl ht
    · exact .inr ((nextPacket_sends hw hr f).trans hs)
  · exact hq

/-- Copies of a core whose sites keep their queues and their refills have nothing to send as before. -/
theorem noCopies_sites (h : s.noCopies r) (hw : sameWays s u) (hr : ∀ m, (u.site m).refills = (s.site m).refills)
    (hq : ∀ m, (u.site m).queues = (s.site m).queues) : u.noCopies r :=
  noCopies_keeps h hw fun n _ => ⟨hr n, fun q i f hi hf => .inl ⟨i, hi, by
    unfold Site.flightAt Site.queue at hf ⊢
    rwa [hq] at hf⟩⟩

end

/-! ### Requests at their endpoint (R184, R197, R198, R200, R226) -/

section
variable {s u v : State} {p : Packet} {ep : Endpoint} {n : SiteNo} {r : Fin 64} {f : FieldNo}

theorem portFree_of (hp : u.fab.paused = none) (hw : u.fab.waiting = []) (hc : u.noCopies r)
    (hb : ∀ b, (u.buf r 4 b).length < 2) : u.portFree r = true := by
  unfold State.portFree State.portIdle
  simp only [Bool.and_eq_true, decide_eq_true_eq, Option.isNone_iff_eq_none, List.isEmpty_iff]
  refine ⟨⟨⟨hp, hw, ?_⟩, hb false⟩, hb true⟩
  cases hn : siteAtRtr r with
  | none => rfl
  | some n => exact List.all_eq_true.2 fun q _ => Option.isNone_iff_eq_none.2 (hc n hn q)

/-- A port stays free when sites keep what their copies ask. -/
theorem portFree_sites (h : s.portFree r = true) (hf : u.fab = s.fab) (hw : sameWays s u)
    (hr : ∀ m, (u.site m).refills = (s.site m).refills) (hq : ∀ m, (u.site m).queues = (s.site m).queues) :
    u.portFree r = true := by
  obtain ⟨hp, hwt, hc, hb⟩ := portFree_spec h
  refine portFree_of (by rw [hf]; exact hp) (by rw [hf]; exact hwt) (noCopies_sites hc hw hr hq) fun b => ?_
  unfold State.buf
  rw [hf]
  exact hb b

/-- An answer leaves a free port at once. -/
theorem reply_sends (h : s.portFree p.dstRtr = true) (opc : BitVec 5) (st : BitVec 4) (data : List Byte) :
    sentOne s (s.respond (replyTo p opc st data)) (replyTo p opc st data) :=
  respond_sends (p := replyTo p opc st data) h

theorem sentOne_out (h : sentOne s u p) : u.out = s.out ++ [.packet p] := congrArg State.out h.1

theorem write_of (o : WriteObs) (h : s.notYet p = false) : exec (.write p ep o) s = .next ((s.arrived p).writeAt p ep o) :=
  if_neg (by rw [h]; decide)

theorem readReq_of (o : ReadObs) (h : s.notYet p = false) : exec (.readReq p ep o) s = .next ((s.arrived p).readAt p ep o) :=
  if_neg (by rw [h]; decide)

theorem packetCode_arrived (s : State) (p : Packet) (ep : Endpoint) (w : Bool) :
    (s.arrived p).packetCode p ep w = s.packetCode p ep w := by
  cases ep <;> rfl

/-- A descriptor whose destination is the working store. -/
theorem copyDescOf_nil : (copyDescOf []).dstKind = 0 := by decide

/-- What a payload leaves in a working store: its words that passed, and nothing beside it. -/
theorem putWords_site (s : State) (n : SiteNo) (bs : List Byte) (bad : List Nat) (a : Nat) : ∃ W,
    wsBecomes n W s (s.putWords bs bad fun s o w => s.modSite n fun c => c.wsWrite (a + o) w) ∧
    (bad = [] → tbytes (fun _ => 0) W a bs.length = bs) ∧
    ∀ x, x < a ∨ a + bs.length ≤ x → tget (fun _ => 0) W x = tget (fun _ => 0) (s.site n).ws x := by
  obtain ⟨W, hW, hin, hout⟩ := putWords_ws (n := n) copyDescOf_nil s bs bad a
  have he : (fun (s : State) o w => s.copyWrite n (copyDescOf []) (a + o) w) =
      fun s o w => s.modSite n fun c => c.wsWrite (a + o) w := by
    funext s o w
    unfold State.copyWrite
    rw [copyDescOf_nil]
    rfl
  rw [he] at hW
  refine ⟨W, hW, fun hb => List.ext_getElem? fun j => ?_, hout⟩
  rw [tbytes_getElem?]
  split
  next hj =>
    rw [hin j hj, if_pos (by rw [hb]; exact List.not_mem_nil), List.getElem?_eq_getElem hj]
    rfl
  next hj => exact (List.getElem?_eq_none (by omega)).symm

/-- A site whose working store alone changed asks the ports as before. -/
theorem wsBecomes_ways {W : Tab Byte} (h : wsBecomes n W s u) : sameWays s u ∧
    (∀ m, (u.site m).refills = (s.site m).refills) ∧ (∀ m, (u.site m).queues = (s.site m).queues) := by
  obtain ⟨⟨h1, h2⟩, h3⟩ := h
  have hsite (m : SiteNo) : u.site m = { s.site m with ws := (u.site m).ws } := by
    by_cases hm : m = n
    · rw [hm, h3]
    · rw [h2 m hm]
  refine ⟨?_, fun m => by rw [hsite m], fun m => by rw [hsite m]⟩
  rw [h1]
  rw [h1] at hsite
  exact sameWays_sites s u.sites (fun m => by rw [hsite m]) fun m => by rw [hsite m]

/-- A WRITE to a core writes its words that passed and is answered. -/
theorem write_core (o : WriteObs) (hc : s.packetCode p (.core n) true = 0) (ht : p.truncated = false)
    (hy : s.notYet p = false) (hp : (s.arrived p).portFree p.dstRtr = true) :
    ∃ t W v, exec (.write p (.core n) o) s = .next t ∧ wsBecomes n W (s.arrived p) v ∧
      (o.bad = [] → tbytes (fun _ => 0) W (pktAddr p) p.data.length = p.data) ∧
      (∀ x, x < pktAddr p ∨ pktAddr p + p.data.length ≤ x →
        tget (fun _ => 0) W x = tget (fun _ => 0) (s.site n).ws x) ∧
      sentOne v t (replyTo p 2 (if o.bad ≠ [] then 6 else 0) []) := by
  obtain ⟨W, hW, hall, hout⟩ := putWords_site (s.arrived p) n p.data o.bad (pktAddr p)
  have he : (s.arrived p).writeAt p (.core n) o = ((s.arrived p).putWords p.data o.bad fun s i w =>
      s.modSite n fun c => c.wsWrite (pktAddr p + i) w).respond (replyTo p 2 (if o.bad ≠ [] then 6 else 0) []) := by
    unfold State.writeAt
    dsimp only
    rw [packetCode_arrived, hc, if_neg (fun h => h rfl), ht]
    rfl
  refine ⟨_, W, _, write_of o hy, hW, hall, hout, ?_⟩
  rw [he]
  obtain ⟨hw, hr, hq⟩ := wsBecomes_ways hW
  obtain ⟨⟨hfr, -⟩, -⟩ := hW
  exact reply_sends (portFree_sites hp (by rw [hfr]) hw hr hq) _ _ _

theorem write_core_good (o : WriteObs) (hc : s.packetCode p (.core n) true = 0) (ht : p.truncated = false)
    (hy : s.notYet p = false) (hp : (s.arrived p).portFree p.dstRtr = true) (hb : o.bad = []) :
    completes (.write p (.core n) o) s fun t =>
      t = { s with sites := t.sites, fab := t.fab, out := t.out } ∧ ∃ r, t.out = s.out ++ [.packet r] ∧ r.opc = 2 ∧
      r.status = 0 ∧ r.txn = p.txn ∧ r.dstRtr = p.srcRtr ∧
      (∀ m, m ≠ n → t.site m = s.site m) ∧ t.site n = { s.site n with ws := (t.site n).ws } ∧
      (t.site n).wsRead (pktAddr p) p.data.length = p.data ∧
      ∀ a, a < pktAddr p ∨ pktAddr p + p.data.length ≤ a →
        tget (fun _ => 0) (t.site n).ws a = tget (fun _ => 0) (s.site n).ws a := by
  obtain ⟨t, W, v, hx, ⟨⟨h1, h2⟩, h3⟩, hall, hout, hs⟩ := write_core o hc ht hy hp
  rw [if_neg (fun h => h hb)] at hs
  obtain ⟨ht, -⟩ := hs
  have hsites (m : SiteNo) : t.site m = v.site m := by rw [ht]; rfl
  have hws : (t.site n).ws = W := by rw [hsites, h3]
  refine ⟨t, hx, ?_, replyTo p 2 0 [], ?_, rfl, rfl, rfl, rfl, fun m hm => (hsites m).trans (h2 m hm), ?_, ?_, fun a ha => ?_⟩
  · rw [ht, h1]
    rfl
  · rw [ht, h1]
    rfl
  · rw [hws, hsites, h3]
    rfl
  · rw [Site.wsRead, hws]
    exact hall hb
  · rw [hws]
    exact hout a ha

theorem write_core_bad (o : WriteObs) (hc : s.packetCode p (.core n) true = 0) (ht : p.truncated = false)
    (hy : s.notYet p = false) (hp : (s.arrived p).portFree p.dstRtr = true) (hb : o.bad ≠ []) :
    completes (.write p (.core n) o) s fun t =>
      t = { s with sites := t.sites, fab := t.fab, out := t.out } ∧ ∃ r, t.out = s.out ++ [.packet r] ∧ r.opc = 2 ∧
      r.status = 6 ∧ r.txn = p.txn ∧ r.dstRtr = p.srcRtr ∧
      ∀ a, a < pktAddr p ∨ pktAddr p + p.data.length ≤ a →
        tget (fun _ => 0) (t.site n).ws a = tget (fun _ => 0) (s.site n).ws a := by
  obtain ⟨t, W, v, hx, ⟨⟨h1, h2⟩, h3⟩, -, hout, hs⟩ := write_core o hc ht hy hp
  rw [if_pos hb] at hs
  obtain ⟨ht, -⟩ := hs
  have hws : (t.site n).ws = W := by
    rw [ht]
    exact congrArg Site.ws h3
  refine ⟨t, hx, ?_, replyTo p 2 6 [], ?_, rfl, rfl, rfl, rfl, fun a ha => ?_⟩
  · rw [ht, h1]
    rfl
  · rw [ht, h1]
    rfl
  · rw [hws]
    exact hout a ha

/-- A WRITE to memory writes its bytes and is answered. -/
theorem writeAt_memory {u : State} (hc : u.packetCode p (.memory f) true = 0) (ht : p.truncated = false)
    (hp : u.portFree p.dstRtr = true) (hh : u.memHeld f (.write p {}) u.mem.waiting = false) :
    ∃ D, ddrWithin u D (pktAddr p) p.data.length ∧ tbytes u.ddrD D (pktAddr p) p.data.length = p.data ∧
      sentOne (u.withDdr D) (u.writeAt p (.memory f) {}) (replyTo p 2 0 []) := by
  obtain ⟨D, hD, hin, hall⟩ := putWords_ddr u p.data [] (pktAddr p)
  have hcrc : ∀ x ∈ (MemWork.write p {}).crc, x.2 = 0 := fun x hx => (List.not_mem_nil hx).elim
  have he : u.writeAt p (.memory f) {} = (u.withDdr D).respond (replyTo p 2 0 []) := by
    change u.memArrive f (.write p {}) = _
    rw [memArrive_serves (w := .write p {}) hc hh, memServe_done _ hcrc]
    unfold State.workEffect State.ddrPut
    dsimp only
    rw [ht, if_neg (by decide), if_neg (fun h => h rfl)]
    exact congrArg (fun v => State.respond v (replyTo p 2 0 [])) hD
  refine ⟨D, hin, hall rfl, ?_⟩
  rw [he]
  exact reply_sends (s := u.withDdr D) hp 2 0 []

theorem write_memory (hc : s.packetCode p (.memory f) true = 0) (ht : p.truncated = false) (hy : s.notYet p = false)
    (hp : (s.arrived p).portFree p.dstRtr = true) (hh : s.memHeld f (.write p {}) s.mem.waiting = false) :
    completes (.write p (.memory f) {}) s fun t =>
      t = { s with mem := { s.mem with ddr := t.mem.ddr }, fab := t.fab, out := t.out } ∧
      ∃ r, t.out = s.out ++ [.packet r] ∧ r.opc = 2 ∧ r.status = 0 ∧ r.txn = p.txn ∧ r.dstRtr = p.srcRtr ∧
      t.ddrRead (pktAddr p) p.data.length = p.data ∧
      ∀ a, a < pktAddr p ∨ pktAddr p + p.data.length ≤ a → t.ddrRead a 1 = s.ddrRead a 1 := by
  have hx := write_of (ep := .memory f) {} hy
  obtain ⟨D, hin, hall, hs, -⟩ := writeAt_memory (u := s.arrived p) ((packetCode_arrived s p _ _).trans hc) ht hp hh
  generalize (s.arrived p).writeAt p (.memory f) {} = t at hs hx
  refine ⟨t, hx, ?_, replyTo p 2 0 [], ?_, rfl, rfl, rfl, rfl, ?_, fun a ha => ?_⟩
  · rw [hs]
    rfl
  · rw [hs]
    rfl
  · rw [hs]
    exact hall
  · rw [hs]
    exact ddrWithin_read hin ha

/-- A request that may not be served is answered with its status. -/
theorem write_refused (o : WriteObs) (hc : s.packetCode p ep true ≠ 0) (hy : s.notYet p = false)
    (hp : (s.arrived p).portFree p.dstRtr = true) : completes (.write p ep o) s fun t =>
      t = { s with fab := t.fab, out := t.out } ∧ ∃ r, t.out = s.out ++ [.packet r] ∧ r.opc = 2 ∧
      r.status = s.packetCode p ep true ∧ r.txn = p.txn ∧ r.dstRtr = p.srcRtr := by
  have hc' : (s.arrived p).packetCode p ep true ≠ 0 := fun h => hc ((packetCode_arrived s p ep true).symm.trans h)
  have he : (s.arrived p).writeAt p ep o = (s.arrived p).respond (replyTo p 2 (s.packetCode p ep true) []) := by
    rw [← packetCode_arrived]
    cases ep with
    | memory f => exact memArrive_refuses (w := .write p o) hc'
    | core n => exact if_pos hc'
    | services k =>
      unfold State.writeAt
      exact if_pos hc'
    | link l => exact if_pos hc'
  obtain ⟨hs, -⟩ := reply_sends hp 2 (s.packetCode p ep true) []
  rw [← he] at hs
  have hx := write_of (ep := ep) o hy
  generalize (s.arrived p).writeAt p ep o = t at hs hx
  refine ⟨t, hx, ?_, replyTo p 2 (s.packetCode p ep true) [], congrArg State.out hs, rfl, rfl, rfl, rfl⟩
  rw [hs]
  rfl

end

section
variable {s u v : State} {p : Packet} {ep : Endpoint} {n : SiteNo} {r : Fin 64} {f : FieldNo}

/-- What the ports of copies depend on at a core: its owner, its LAUNCH, its refills and its queues. -/
def Site.asksAs (c d : Site) : Prop :=
  d.hamlet = c.hamlet ∧ d.launch = c.launch ∧ d.refills = c.refills ∧ d.queues = c.queues

/-- The ports of copies are asked as before when one core and the log alone changed. -/
theorem siteAndLog_ways (h : siteAndLog n s u) (k : (s.site n).asksAs (u.site n)) : sameWays s u ∧
    ∀ m, (s.site m).asksAs (u.site m) := by
  obtain ⟨h1, h2⟩ := h
  have hall (m : SiteNo) : (s.site m).asksAs (u.site m) := by
    by_cases hm : m = n
    · rw [hm]
      exact k
    · rw [h2 m hm]
      exact ⟨rfl, rfl, rfl, rfl⟩
  refine ⟨?_, hall⟩
  have hw := sameWays_sites s u.sites (fun m => (hall m).1) fun m => (hall m).2.1
  refine sameWays_trans hw ?_
  rw [h1]
  exact sameWays_log _ _ _ _

theorem wsLost_asks (s : State) (n : SiteNo) (a : Nat) : (s.site n).asksAs ((s.wsLost n a).site n) := by
  rw [State.wsLost, hwFault_site, State.site_modSite_same]
  unfold Site.stop Site.asksAs
  split <;> exact ⟨rfl, rfl, rfl, rfl⟩

/-- A core's loss of a working-store word leaves its port free. -/
theorem wsLost_portFree (h : s.portFree r = true) (n : SiteNo) (a : Nat) : (s.wsLost n a).portFree r = true := by
  have hl := wsLost_siteAndLog (s := s) (n := n) a
  obtain ⟨hw, hk⟩ := siteAndLog_ways hl (wsLost_asks s n a)
  refine portFree_sites h ?_ hw (fun m => (hk m).2.2.1) fun m => (hk m).2.2.2
  rw [hl.1]

theorem readReq_refused (o : ReadObs) (hc : s.packetCode p ep false ≠ 0) (hy : s.notYet p = false)
    (hp : (s.arrived p).portFree p.dstRtr = true) : completes (.readReq p ep o) s fun t =>
      t = { s with fab := t.fab, out := t.out } ∧ ∃ r, t.out = s.out ++ [.packet r] ∧ r.opc = 4 ∧
      r.status = s.packetCode p ep false ∧ r.txn = p.txn ∧ r.dstRtr = p.srcRtr ∧ r.data = [] := by
  have hc' : (s.arrived p).packetCode p ep false ≠ 0 := fun h => hc ((packetCode_arrived s p ep false).symm.trans h)
  have he : (s.arrived p).readAt p ep o = (s.arrived p).respond (replyTo p 4 (s.packetCode p ep false) []) := by
    rw [← packetCode_arrived]
    cases ep with
    | memory f => exact memArrive_refuses (w := .read p o) hc'
    | core n => exact if_pos hc'
    | services k =>
      unfold State.readAt
      exact if_pos hc'
    | link l => exact if_pos hc'
  obtain ⟨hs, -⟩ := reply_sends hp 4 (s.packetCode p ep false) []
  rw [← he] at hs
  have hx := readReq_of (ep := ep) o hy
  generalize (s.arrived p).readAt p ep o = t at hs hx
  refine ⟨t, hx, ?_, replyTo p 4 (s.packetCode p ep false) [], congrArg State.out hs, rfl, rfl, rfl, rfl, rfl⟩
  rw [hs]
  rfl

theorem readAt_core (o : ReadObs) (hc : s.packetCode p (.core n) false = 0) : (s.arrived p).readAt p (.core n) o =
    let u := (s.arrived p).wsEcc n (pktAddr p + o.off.toNat) o.ecc
    if o.ecc = .uncorrectable then u.respond (replyTo p 4 7 [])
    else u.respond (replyTo p 4 0 ((u.site n).wsRead (pktAddr p) (spanOf p))) := by
  unfold State.readAt
  dsimp only
  rw [packetCode_arrived, hc, if_neg (fun h => h rfl)]

theorem readReq_core (o : ReadObs) (hc : s.packetCode p (.core n) false = 0) (hy : s.notYet p = false)
    (hp : (s.arrived p).portFree p.dstRtr = true) (he : o.ecc = .clean) :
    completes (.readReq p (.core n) o) s fun t => t = { s with fab := t.fab, out := t.out } ∧
      ∃ r, t.out = s.out ++ [.packet r] ∧ r.opc = 4 ∧ r.status = 0 ∧ r.txn = p.txn ∧ r.dstRtr = p.srcRtr ∧
      r.data = (s.site n).wsRead (pktAddr p) (spanOf p) := by
  have hr := readAt_core o hc
  rw [he] at hr
  obtain ⟨hs, -⟩ := reply_sends hp 4 0 ((s.site n).wsRead (pktAddr p) (spanOf p))
  have hx := readReq_of (ep := .core n) o hy
  rw [hr] at hx
  change exec _ s = .next ((s.arrived p).respond (replyTo p 4 0 ((s.site n).wsRead (pktAddr p) (spanOf p)))) at hx
  generalize (s.arrived p).respond (replyTo p 4 0 ((s.site n).wsRead (pktAddr p) (spanOf p))) = t at hs hx
  refine ⟨t, hx, ?_, replyTo p 4 0 ((s.site n).wsRead (pktAddr p) (spanOf p)), congrArg State.out hs, rfl, rfl, rfl, rfl, rfl⟩
  rw [hs]
  rfl

/-- A read that meets an uncorrectable word is answered 7 and tells the core's fault. -/
theorem readReq_lost (o : ReadObs) (hc : s.packetCode p (.core n) false = 0) (hy : s.notYet p = false)
    (hp : (s.arrived p).portFree p.dstRtr = true) (he : o.ecc = .uncorrectable) :
    completes (.readReq p (.core n) o) s fun t => ∃ r, t.out = s.out ++ [.packet r] ∧ r.opc = 4 ∧ r.status = 7 ∧
      r.txn = p.txn ∧ r.dstRtr = p.srcRtr ∧ (t.site n).ws = (s.site n).ws ∧ told s t 0x000A (some n) := by
  have hr := readAt_core o hc
  rw [he] at hr
  have hx := readReq_of (ep := .core n) o hy
  rw [hr] at hx
  have hlf := wsLost_portFree hp n (pktAddr p + o.off.toNat)
  have hl := wsLost_siteAndLog (s := s.arrived p) (n := n) (pktAddr p + o.off.toNat)
  have hsite : (((s.arrived p).wsLost n (pktAddr p + o.off.toNat)).site n).ws = (s.site n).ws := by
    rw [State.wsLost, hwFault_site, State.site_modSite_same]
    unfold Site.stop
    split <;> rfl
  have ht := (hwFault_spec ((s.arrived p).modSite n fun c => { c with wsEcc := eccUncorrectable c.wsEcc }) n 0x000A 0
    (BitVec.ofNat 64 (pktAddr p + o.off.toNat))).2.2.2.1
  change told (s.arrived p) ((s.arrived p).wsLost n (pktAddr p + o.off.toNat)) 0x000A (some n) at ht
  change exec _ s = .next (((s.arrived p).wsLost n (pktAddr p + o.off.toNat)).respond (replyTo p 4 7 [])) at hx
  generalize (s.arrived p).wsLost n (pktAddr p + o.off.toNat) = v at hlf hl hsite ht hx
  obtain ⟨hs, -⟩ := reply_sends hlf 4 7 []
  generalize v.respond (replyTo p 4 7 []) = t at hs hx
  refine ⟨t, hx, replyTo p 4 7 [], ?_, rfl, rfl, rfl, rfl, ?_, ?_⟩
  · rw [hs, hl.1]
    rfl
  · rw [hs]
    exact hsite
  · rw [hs]
    exact ht

/-- A read of memory is answered with its bytes. -/
theorem readAt_memory {u : State} (hc : u.packetCode p (.memory f) false = 0)
    (hp : u.portFree p.dstRtr = true) (hh : u.memHeld f (.read p {}) u.mem.waiting = false) :
    sentOne u (u.readAt p (.memory f) {}) (replyTo p 4 0 (u.ddrRead (pktAddr p) (spanOf p))) := by
  have hcrc : ∀ x ∈ (MemWork.read p {}).crc, x.2 = 0 := fun x hx => (List.not_mem_nil hx).elim
  have he : u.readAt p (.memory f) {} = u.respond (replyTo p 4 0 (u.ddrRead (pktAddr p) (spanOf p))) := by
    change u.memArrive f (.read p {}) = _
    rw [memArrive_serves (w := .read p {}) hc hh, memServe_done _ hcrc]
    rfl
  rw [he]
  exact reply_sends hp 4 0 _

theorem readReq_memory (hc : s.packetCode p (.memory f) false = 0) (hy : s.notYet p = false)
    (hp : (s.arrived p).portFree p.dstRtr = true) (hh : s.memHeld f (.read p {}) s.mem.waiting = false) :
    completes (.readReq p (.memory f) {}) s fun t => t = { s with fab := t.fab, out := t.out } ∧
      fabSent (s.arrived p) t ∧ ∃ r, t.out = s.out ++ [.packet r] ∧ r.opc = 4 ∧ r.status = 0 ∧ r.txn = p.txn ∧
      r.data = s.ddrRead (pktAddr p) (spanOf p) := by
  have hx := readReq_of (ep := .memory f) {} hy
  obtain ⟨hs, hf⟩ := readAt_memory (u := s.arrived p) ((packetCode_arrived s p _ _).trans hc) hp hh
  generalize (s.arrived p).readAt p (.memory f) {} = t at hs hf hx
  refine ⟨t, hx, ?_, hf, replyTo p 4 0 (s.ddrRead (pktAddr p) (spanOf p)), congrArg State.out hs, rfl, rfl, rfl, rfl⟩
  rw [hs]
  rfl

/-! ### Packets that do not take effect, and responses that answer nothing -/

theorem requests_notYet (h : s.notYet p = true) (wo : WriteObs) (ro : ReadObs) (bad : List Nat) :
    completes (.write p ep wo) s (· = s) ∧ completes (.readReq p ep ro) s (· = s) ∧
    completes (.writeAck p) s (· = s) ∧ completes (.readData p bad) s (· = s) :=
  ⟨⟨s, if_pos h, rfl⟩, ⟨s, if_pos h, rfl⟩, ⟨s, congrArg _ (if_pos h), rfl⟩, ⟨s, congrArg _ (if_pos h), rfl⟩⟩

theorem response_late (h : s.answeredBy p = none) (hy : s.notYet p = false) (e : State → Txn → State) :
    s.response p e = s.arrived p := by
  have ha : (s.arrived p).answeredBy p = none := h
  unfold State.response
  rw [if_neg (by rw [hy]; decide)]
  dsimp only
  rw [ha]

theorem response_of {x : Txn} (h : s.answeredBy p = some x) (hy : s.notYet p = false) (e : State → Txn → State) :
    s.response p e = (e (s.arrived p) x).servePort p.dstRtr 5 := by
  have ha : (s.arrived p).answeredBy p = some x := h
  unfold State.response
  rw [if_neg (by rw [hy]; decide)]
  dsimp only
  rw [ha]

theorem answeredBy_spec {x : Txn} (h : s.answeredBy p = some x) : x.rtr = p.dstRtr ∧ x.txn = p.txn := by
  obtain ⟨hx, -⟩ := Option.filter_eq_some_iff.1 h
  have := List.find?_some hx
  simpa only [Bool.and_eq_true, decide_eq_true_eq] using this

end

/-! ### A request that is no longer outstanding (R199, R208) -/

section
variable {s u v : State} {n : SiteNo} {q : Fin 4} {i : Nat} {f : CopyFlight} {r : Fin 64} {t : BitVec 10}

/-- No request of a router has this TXN. -/
def State.notOut (s : State) (r : Fin 64) (t : BitVec 10) : Prop := ∀ x ∈ s.fab.txns, ¬(x.rtr = r ∧ x.txn = t)

theorem notOut_txnOf (h : s.notOut r t) : s.txnOf r t = none :=
  List.find?_eq_none.2 fun x hx hm => h x hx (by simpa only [Bool.and_eq_true, decide_eq_true_eq] using hm)

theorem dropTxn_notOut (s : State) (r : Fin 64) (t : BitVec 10) : (s.dropTxn r t).notOut r t := by
  intro x hx hm
  have hp := (List.mem_filter.1 hx).2
  rw [decide_eq_true hm.1, decide_eq_true hm.2] at hp
  exact Bool.noConfusion hp

/-- What a copy leaves of the fabric when it ends: some requests may be outstanding no more, or wait no more. -/
def fabLeft (s u : State) : Prop :=
  ∃ W R T, u = { s with fab := { s.fab with waiting := W, resends := R, txns := T } } ∧
    (s.fab.waiting = [] → W = []) ∧ ∀ x ∈ T, x ∈ s.fab.txns

theorem fabLeft_refl (s : State) : fabLeft s s := ⟨_, _, _, rfl, fun h => h, fun _ h => h⟩

theorem dropTxn_left (s : State) (r : Fin 64) (t : BitVec 10) : fabLeft s (s.dropTxn r t) :=
  ⟨_, _, _, rfl, fun h => h, fun _ h => (List.mem_filter.1 h).1⟩

theorem leaveTxn_left (s : State) (r : Fin 64) (t : BitVec 10) : fabLeft s (s.leaveTxn r t) := by
  unfold State.leaveTxn
  dsimp only
  split
  · refine ⟨_, _, _, rfl, fun h => ?_, fun x hx => (List.mem_filter.1 hx).1⟩
    rw [h]
    rfl
  · exact fabLeft_refl s

theorem fabLeft_trans (h : fabLeft s u) (k : fabLeft u v) : fabLeft s v := by
  obtain ⟨W, R, T, rfl, hw, ht⟩ := h
  obtain ⟨V, Q, S, rfl, kw, kt⟩ := k
  exact ⟨V, Q, S, rfl, fun h => kw (hw h), fun x hx => ht x (kt x hx)⟩

theorem fabLeft_ways (h : fabLeft s u) : sameWays s u := by
  obtain ⟨W, R, T, rfl, -⟩ := h
  exact sameWays_fab s _ _ _ T W R _ _

theorem fabLeft_notOut (h : fabLeft s u) (k : s.notOut r t) : u.notOut r t := by
  obtain ⟨W, R, T, rfl, -, ht⟩ := h
  exact fun x hx => k x (ht x hx)

theorem fabLeft_frame (h : fabLeft s u) : u = { s with fab := u.fab } := by
  obtain ⟨W, R, T, rfl, -⟩ := h
  rfl

theorem fabLeft_waiting (h : fabLeft s u) (k : s.fab.waiting = []) : u.fab.waiting = [] := by
  obtain ⟨W, R, T, rfl, hw, -⟩ := h
  exact hw k

theorem leaveFlight_left (s : State) (n : SiteNo) (q : Fin 4) (i : Nat) (f : CopyFlight) :
    ∃ u, fabLeft s u ∧ s.leaveFlight n q i f = u.modSite n fun c => flightGone c q i f := by
  unfold State.leaveFlight
  dsimp only
  split
  · exact ⟨_, leaveTxn_left _ _ _, rfl⟩
  · exact ⟨_, fabLeft_refl s, rfl⟩

/-- What a copy that fails changes: its site, the log, and what it awaited from the fabric. -/
theorem copyFail_left (hf : (s.site n).flightAt q i = some f) (code : BitVec 4) (parity : Bool) :
    ∃ u, fabLeft s u ∧ siteAndLog n u (s.copyFail n q i code parity) := by
  obtain ⟨u, hu, hl⟩ := leaveFlight_left s n q i f
  refine ⟨u, hu, ?_⟩
  have hm := siteAndLog_trans (siteAndLog_trans (onlySite_siteAndLog (onlySite_modSite u n fun c => flightGone c q i f))
    (onlySite_siteAndLog (onlySite_modSite _ n (haltQueue q code f.desc.tag)))) (sourceTold_log _ n f.desc code f.moved).1
  have he : ∃ d a, s.copyFail n q i code parity =
      let w := sourceTold ((u.modSite n fun c => flightGone c q i f).modSite n (haltQueue q code f.desc.tag)) n f.desc code f.moved
      if parity then w.report 0x0006 (some n) d a else w.hwFault n 0x000F d a := by
    unfold State.copyFail
    rw [hf]
    dsimp only
    rw [hl]
    cases parity
    · exact ⟨_, _, rfl⟩
    · exact ⟨_, _, rfl⟩
  obtain ⟨d, a, he⟩ := he
  rw [he]
  cases parity
  · exact siteAndLog_trans hm (hwFault_siteAndLog _ n _ _ _)
  · exact siteAndLog_trans hm ⟨rfl, fun _ _ => rfl⟩

theorem copyFail_asks (hf : (s.site n).flightAt q i = some f) (code : BitVec 4) (parity : Bool) :
    let c := (s.copyFail n q i code parity).site n
    c.hamlet = (s.site n).hamlet ∧ c.launch = (s.site n).launch ∧ c.refills = (s.site n).refills := by
  intro c
  have hs (x : Site) : x.stop = { x with seq := x.stop.seq } := by
    unfold Site.stop
    split <;> rfl
  have h : ∃ se we sq, c = { flightFailed (s.site n) q i f code with sillEcc := se, wsEcc := we, seq := sq } := by
    have h := copyFail_site hf code parity
    dsimp only at h
    rw [sourceCounted_frame] at h
    cases parity
    · exact ⟨_, _, _, h.trans (hs _)⟩
    · exact ⟨_, _, _, h⟩
  obtain ⟨se, we, sq, h⟩ := h
  rw [h, flightFailed_frame]
  exact ⟨rfl, rfl, rfl⟩

end

/-! ### Flights of a queue -/

section
variable {c : Site} {q p : Fin 4} {i j : Nat} {f : CopyFlight}

theorem flightAt_modFlight_other (g : CopyFlight → CopyFlight) (h : p ≠ q) : (c.modFlight q i g).flightAt p j = c.flightAt p j := by
  unfold Site.modFlight Site.flightAt
  rw [Site.queue_setQueue_other _ _ h]

theorem queue_modFlight (c : Site) (q : Fin 4) (i : Nat) (g : CopyFlight → CopyFlight) :
    (c.modFlight q i g).queue q = { c.queue q with flight := (c.queue q).flight.modify i g } := by
  exact Site.queue_setQueue_same _ _ _

end

/-! ### The answer to a copy's request (R114, R199, R211, R217) -/

section
variable {s u v : State} {n : SiteNo} {q : Fin 4} {i : Nat} {f : CopyFlight} {r : Fin 64} {p : Packet} {x : Txn}
  {past rest : List CopyFlight} {span : Nat}

/-- A flight whose request is answered: its bytes count as moved. -/
def CopyFlight.movedOn (f : CopyFlight) (span : Nat) (tb : Word64) : CopyFlight :=
  { f with moved := f.moved + span, txn := none, buf := f.buf.drop span,
           done := decide (f.desc.total ≤ f.moved + span),
           since := if f.moved / 65536 < (f.moved + span) / 65536 then tb else f.since }

theorem nextPacket_done (s : State) (n : SiteNo) (h : f.desc.total ≤ f.moved) : s.nextPacket n f = none := by
  unfold State.nextPacket
  exact if_pos h

theorem flightAt_modSite (s : State) (n : SiteNo) (q : Fin 4) (i : Nat) (g : CopyFlight → CopyFlight) (j : Nat) :
    ((s.modSite n fun c => c.modFlight q i g).site n).flightAt q j =
      ((s.site n).flightAt q j).map fun f => if i = j then g f else f := by
  rw [State.site_modSite_same]
  unfold Site.flightAt
  rw [queue_modFlight, List.getElem?_modify]
  cases ((s.site n).queue q).flight[j]? <;> rfl

/-- A copy whose bytes are then all moved asks nothing more. -/
theorem copyMoved_done (hf : (s.site n).flightAt q i = some f) (h : f.desc.total ≤ f.moved + span) :
    s.copyMoved n q i span = s.modSite n fun c => c.modFlight q i fun f => f.movedOn span s.tb := by
  have hp : ((s.modSite n fun c => c.modFlight q i fun f => f.movedOn span s.tb).site n).flightAt q i =
      some (f.movedOn span s.tb) := by
    rw [flightAt_modSite, hf, Option.map_some, if_pos rfl]
  change State.pump _ n q i = _
  generalize hv : (s.modSite n fun c => c.modFlight q i fun f => f.movedOn span s.tb) = v at hp
  change State.pump (s.modSite n fun c => c.modFlight q i fun f => f.movedOn span s.tb) n q i = v
  rw [hv]
  unfold State.pump
  rw [hp]
  dsimp only
  rw [nextPacket_done v n h]
  exact ite_self _

/-- The ports of copies are asked as before when one copy moved on to its end. -/
theorem movedOn_noCopies (hc : s.noCopies r) (hf : (s.site n).flightAt q i = some f) (h : f.desc.total ≤ f.moved + span) :
    (s.modSite n fun c => c.modFlight q i fun f => f.movedOn span s.tb).noCopies r := by
  have hs (m : SiteNo) : let d := (s.modSite n fun c => c.modFlight q i fun f => f.movedOn span s.tb).site m
      d.hamlet = (s.site m).hamlet ∧ d.launch = (s.site m).launch ∧ d.refills = (s.site m).refills := by
    by_cases hm : m = n
    · rw [hm, State.site_modSite_same]
      exact ⟨rfl, rfl, rfl⟩
    · rw [State.site_modSite_other _ _ hm]
      exact ⟨rfl, rfl, rfl⟩
  refine noCopies_keeps hc (sameWays_sites s _ (fun m => (hs m).1) fun m => (hs m).2.1)
    fun m _ => ⟨(hs m).2.2, fun k j g hj hg => ?_⟩
  by_cases hm : m = n
  · subst hm
    by_cases hk : k = q
    · subst hk
      rw [flightAt_modSite] at hg
      by_cases hij : i = j
      · subst hij
        rw [hf, Option.map_some, if_pos rfl, Option.some.injEq] at hg
        subst hg
        refine .inr (.inr ?_)
        rw [nextPacket_done _ _ h]
        rfl
      · refine .inl ⟨j, hj, ?_⟩
        rw [← hg]
        cases hx : (s.site m).flightAt k j with
        | none => rfl
        | some y => rw [Option.map_some, if_neg hij]
    · refine .inl ⟨j, hj, ?_⟩
      rwa [State.site_modSite_same, flightAt_modFlight_other _ hk] at hg
  · refine .inl ⟨j, hj, ?_⟩
    rwa [State.site_modSite_other _ _ hm] at hg

theorem flightOf_after (h : ((s.site n).queue q).flight = past ++ f :: rest) {t : BitVec 10} (ht : f.txn = some t)
    (hp : ∀ g ∈ past, g.txn ≠ some t) : (s.site n).flightOf q t = some past.length := by
  unfold Site.flightOf
  rw [h, List.findIdx?_append, List.findIdx?_eq_none_iff.2 fun g hg => decide_eq_false (hp g hg), List.findIdx?_cons,
    if_pos (decide_eq_true ht)]
  simp

theorem modify_after (past : List CopyFlight) (f : CopyFlight) (rest : List CopyFlight) (g : CopyFlight → CopyFlight) :
    (past ++ f :: rest).modify past.length g = past ++ g f :: rest := by
  induction past with
  | nil => rfl
  | cons a l ih => exact congrArg (a :: ·) ih

/-- A packet that has arrived, with its request outstanding no more. -/
def State.answered (s : State) (p : Packet) : State := (s.arrived p).dropTxn p.dstRtr p.txn

theorem answered_idle (h : s.portIdle r = true) (p : Packet) :
    (s.answered p).fab.waiting = [] ∧ (s.answered p).noCopies r := by
  obtain ⟨hw, hc⟩ := portIdle_spec h
  exact ⟨hw, noCopies_sites hc ((sameWays_fab s _ _ _ _ _ _ _ s.out)) (fun _ => rfl) fun _ => rfl⟩

theorem answered_notOut (s : State) (p : Packet) : (s.answered p).notOut p.dstRtr p.txn :=
  dropTxn_notOut _ _ _

theorem answered_frame (s : State) (p : Packet) : s.answered p = { s with fab := (s.answered p).fab } := rfl

theorem answered_site (s : State) (p : Packet) (m : SiteNo) : (s.answered p).site m = s.site m := rfl

end

theorem flightFailed_flight (c : Site) (q : Fin 4) (i : Nat) (f : CopyFlight) (code : BitVec 4) :
    ((flightFailed c q i f code).queue q).flight = (c.queue q).flight.eraseIdx i := by
  unfold flightFailed haltQueue
  dsimp only
  rw [Site.queue_setQueue_same, flightGone_queue]
  split <;> rfl

section
variable {s u v : State} {n : SiteNo} {q : Fin 4} {f : CopyFlight} {p : Packet} {x : Txn}
  {past rest : List CopyFlight} {span : Nat} {st : BitVec 4}

/-- What a copy that moves on to its end leaves (R114). -/
def State.moved (s : State) (p : Packet) (n : SiteNo) (q : Fin 4) (i span : Nat) : State :=
  (s.answered p).modSite n fun c => c.modFlight q i fun f => f.movedOn span s.tb

section
variable (hx : x.rtr = p.dstRtr ∧ x.txn = p.txn) (hq : ((s.site n).queue q).flight = past ++ f :: rest)
  (ht : f.txn = some p.txn) (hp : ∀ g ∈ past, g.txn ≠ some p.txn)
include hx hq ht hp

theorem copyAnswer_moves (hd : f.desc.total ≤ f.moved + span) :
    (s.arrived p).copyAnswer x n q 0 span = s.moved p n q past.length span := by
  obtain ⟨hr, htx⟩ := hx
  have ho : ((s.arrived p).site n).flightOf q x.txn = some past.length := by
    rw [htx]
    exact flightOf_after (s := s) hq ht hp
  unfold State.copyAnswer
  rw [ho]
  dsimp only
  rw [if_pos rfl, hr, htx]
  exact copyMoved_done (s := s.answered p) (flightAt_after hq) hd

theorem copyAnswer_fails (h0 : st ≠ 0) (h5 : st ≠ 5) (h6 : st ≠ 6) (h10 : st ≠ 10) :
    (s.arrived p).copyAnswer x n q st span = (s.answered p).copyFail n q past.length (copyCode st) false := by
  obtain ⟨hr, htx⟩ := hx
  have ho : ((s.arrived p).site n).flightOf q x.txn = some past.length := by
    rw [htx]
    exact flightOf_after (s := s) hq ht hp
  unfold State.copyAnswer
  rw [ho]
  dsimp only
  rw [if_neg h0, if_neg (fun h => h.elim h5 h6), if_neg h10, hr, htx, State.answered]

end

section
variable (hidle : s.portIdle p.dstRtr = true) (hq : ((s.site n).queue q).flight = past ++ f :: rest)
include hidle hq

/-- A copy that moved on to its end leaves its port idle. -/
theorem moved_idle (hd : f.desc.total ≤ f.moved + span) (k : Nat) :
    (s.moved p n q past.length span).servePort p.dstRtr k = s.moved p n q past.length span := by
  obtain ⟨hw, hc⟩ := answered_idle hidle p
  have hm := movedOn_noCopies (s := s.answered p) hc (flightAt_after hq) hd
  have hv : (s.moved p n q past.length span).fab = (s.answered p).fab := rfl
  change (s.moved p n q past.length span).noCopies p.dstRtr at hm
  generalize s.moved p n q past.length span = v at hm hv
  exact servePort_idle (by rw [hv]; exact hw) hm k

omit hidle in
theorem moved_spec (hd : f.desc.total ≤ f.moved + span) : let t := s.moved p n q past.length span
    t = { s with sites := t.sites, fab := t.fab } ∧ t.txnOf p.dstRtr p.txn = none ∧
      (∀ m, m ≠ n → t.site m = s.site m) ∧ t.site n = { s.site n with queues := (t.site n).queues } ∧
      ∃ w, ((t.site n).queue q).flight =
        past ++ { f with moved := f.moved + span, txn := none, buf := f.buf.drop span, done := true, since := w } :: rest := by
  have hsite := State.site_modSite_same (s.answered p) n fun c => c.modFlight q past.length fun f => f.movedOn span s.tb
  refine ⟨rfl, notOut_txnOf (answered_notOut s p), fun m hm => State.site_modSite_other (s.answered p)
    (fun c => c.modFlight q past.length fun f => f.movedOn span s.tb) hm, ?_,
    if f.moved / 65536 < (f.moved + span) / 65536 then s.tb else f.since, ?_⟩
  · unfold State.moved
    rw [hsite]
    rfl
  · unfold State.moved
    rw [hsite, queue_modFlight, answered_site, hq]
    dsimp only
    rw [modify_after]
    unfold CopyFlight.movedOn
    rw [decide_eq_true hd]

end

section
variable {r : Fin 64} {k : BitVec 10} (hw : s.fab.waiting = []) (hc : s.noCopies r)
  (hq : ((s.site n).queue q).flight = past ++ f :: rest) (hlen : (past ++ rest).length < 4) (code : BitVec 4) (par : Bool)
include hc hq hlen

/-- The flights left when one of at most four fails ask as before. -/
theorem copyFail_noCopies : (s.copyFail n q past.length code par).noCopies r := by
  have hf : (s.site n).flightAt q past.length = some f := flightAt_after hq
  obtain ⟨u, hu, hlog⟩ := copyFail_left hf code par
  obtain ⟨ha1, ha2, ha3⟩ := copyFail_asks hf code par
  obtain ⟨hqq, hother, -⟩ := copyFail_queues hf code par
  have hgone : ((s.copyFail n q past.length code par).site n).flightAt q = fun j => (past ++ rest)[j]? := by
    funext j
    unfold Site.flightAt
    rw [hqq, flightFailed_flight, hq, List.eraseIdx_append_of_length_le le_rfl, Nat.sub_self]
    rfl
  have hus (m : SiteNo) : u.site m = s.site m := by
    rw [fabLeft_frame hu]
    rfl
  generalize s.copyFail n q past.length code par = t at hlog ha1 ha2 ha3 hqq hother hgone
  obtain ⟨h1, h2⟩ := hlog
  have hall (m : SiteNo) : (t.site m).hamlet = (u.site m).hamlet ∧ (t.site m).launch = (u.site m).launch ∧
      (t.site m).refills = (u.site m).refills := by
    by_cases hm : m = n
    · rw [hm, hus]
      exact ⟨ha1, ha2, ha3⟩
    · rw [h2 m hm]
      exact ⟨rfl, rfl, rfl⟩
  have hways : sameWays s t := by
    refine sameWays_trans (fabLeft_ways hu) (sameWays_trans (sameWays_sites u t.sites (fun m => (hall m).1)
      fun m => (hall m).2.1) ?_)
    rw [h1]
    exact sameWays_log _ _ _ _
  refine noCopies_keeps hc hways fun m _ => ⟨(hall m).2.2.trans (congrArg Site.refills (hus m)), fun k j g hj hg => .inl ?_⟩
  by_cases hm : m = n
  · subst hm
    by_cases hk : k = q
    · subst hk
      rw [hgone] at hg
      dsimp only at hg
      by_cases hjp : j < past.length
      · refine ⟨j, hj, ?_⟩
        unfold Site.flightAt
        rw [hq, List.getElem?_append_left hjp]
        rwa [List.getElem?_append_left hjp] at hg
      · have hjl := (List.getElem?_eq_some_iff.1 hg).1
        refine ⟨j + 1, by omega, ?_⟩
        unfold Site.flightAt
        rw [hq, List.getElem?_append_right (by omega), show j + 1 - past.length = j - past.length + 1 by omega,
          List.getElem?_cons_succ]
        rwa [List.getElem?_append_right (by omega)] at hg
    · refine ⟨j, hj, ?_⟩
      unfold Site.flightAt at hg ⊢
      rwa [hother k hk] at hg
  · refine ⟨j, hj, ?_⟩
    rwa [h2 m hm, hus] at hg

include hw in
theorem copyFail_idle (k : Nat) : (s.copyFail n q past.length code par).servePort r k = s.copyFail n q past.length code par := by
  refine servePort_idle ?_ (copyFail_noCopies hc hq hlen code par) k
  obtain ⟨u, hu, hlog⟩ := copyFail_left (s := s) (flightAt_after hq) code par
  obtain ⟨h1, -⟩ := hlog
  have hw := fabLeft_waiting hu hw
  rw [h1]
  exact hw

omit hc hlen in
theorem copyFail_notOut (hn : s.notOut r k) : (s.copyFail n q past.length code par).txnOf r k = none := by
  obtain ⟨u, hu, hlog⟩ := copyFail_left (s := s) (flightAt_after hq) code par
  have h := fabLeft_notOut hu hn
  obtain ⟨h1, -⟩ := hlog
  rw [h1]
  exact notOut_txnOf h

omit hc hlen in
theorem copyFail_ends (hn : s.notOut r k) (hh : ((s.site n).queue q).halted = false) :
    let t := s.copyFail n q past.length code par
    t.txnOf r k = none ∧ (∀ m, m ≠ n → t.site m = s.site m) ∧
      (t.site n).queue q = { (s.site n).queue q with flight := past ++ rest, halted := true, err := code, errTag := f.desc.tag } := by
  obtain ⟨u, hu, hlog⟩ := copyFail_left (s := s) (flightAt_after hq) code par
  refine ⟨copyFail_notOut hq code par hn, fun m hm => (hlog.2 m hm).trans ?_, ?_⟩
  · rw [fabLeft_frame hu]
    rfl
  · rw [copyFail_queue (s := s) (flightAt_after hq) hh, hq, List.eraseIdx_append_of_length_le le_rfl, Nat.sub_self]
    rfl

end

theorem answeredFail_idle (hidle : s.portIdle p.dstRtr = true) (hq : ((s.site n).queue q).flight = past ++ f :: rest)
    (hlen : (past ++ rest).length < 4) (code : BitVec 4) :
    ((s.answered p).copyFail n q past.length code false).servePort p.dstRtr 5 =
      (s.answered p).copyFail n q past.length code false :=
  copyFail_idle (answered_idle hidle p).1 (answered_idle hidle p).2 hq hlen code false 5

theorem answeredFail_ends (hq : ((s.site n).queue q).flight = past ++ f :: rest)
    (hh : ((s.site n).queue q).halted = false) (code : BitVec 4) :
    let t := (s.answered p).copyFail n q past.length code false
    t.txnOf p.dstRtr p.txn = none ∧ (∀ m, m ≠ n → t.site m = s.site m) ∧
      (t.site n).queue q = { (s.site n).queue q with flight := past ++ rest, halted := true, err := code, errTag := f.desc.tag } :=
  copyFail_ends (s := s.answered p) hq code false (answered_notOut s p) hh

end

section
variable {s : State} {n : SiteNo} {q : Fin 4} {f : CopyFlight} {p : Packet} {x : Txn} {past rest : List CopyFlight}
  (ha : s.answeredBy p = some x) (hu : x.use = .copy n q) (hy : s.notYet p = false)
  (hidle : s.portIdle p.dstRtr = true) (hq : ((s.site n).queue q).flight = past ++ f :: rest)
  (ht : f.txn = some p.txn) (hp : ∀ g ∈ past, g.txn ≠ some p.txn)
include ha hu hy hidle hq ht hp

/-- A WRITE_ACK moves its copy on to its end. -/
theorem writeAck_moves (h0 : p.status = 0) (hd : f.desc.total ≤ f.moved + spanOf x.pkt) :
    exec (.writeAck p) s = .next (s.moved p n q past.length (spanOf x.pkt)) := by
  have he : (s.arrived p).ackIn p x = s.moved p n q past.length (spanOf x.pkt) := by
    unfold State.ackIn
    rw [hu, h0]
    exact copyAnswer_moves (answeredBy_spec ha) hq ht hp hd
  refine congrArg _ ((response_of ha hy _).trans ?_)
  rw [he]
  exact moved_idle hidle hq hd 5

/-- A WRITE_ACK of a final failure ends its copy. -/
theorem writeAck_fails (hlen : (past ++ rest).length < 4) (h0 : p.status ≠ 0) (h5 : p.status ≠ 5) (h6 : p.status ≠ 6)
    (h10 : p.status ≠ 10) :
    exec (.writeAck p) s = .next ((s.answered p).copyFail n q past.length (copyCode p.status) false) := by
  have he : (s.arrived p).ackIn p x = (s.answered p).copyFail n q past.length (copyCode p.status) false := by
    unfold State.ackIn
    rw [hu]
    exact copyAnswer_fails (answeredBy_spec ha) hq ht hp h0 h5 h6 h10
  refine congrArg _ ((response_of ha hy _).trans ?_)
  rw [he]
  exact answeredFail_idle hidle hq hlen _

/-- The state in which the bytes of a READ_DATA stand in the working store. -/
def State.brought (s : State) (p : Packet) (n : SiteNo) (da : Nat) : State :=
  (s.answered p).modSite n fun c => c.wsWrite da p.data

omit ha hu hy hidle hq ht hp in
theorem brought_site (s : State) (p : Packet) (n : SiteNo) (da : Nat) :
    (s.brought p n da).site n = (s.site n).wsWrite da p.data :=
  State.site_modSite_same (s.answered p) n fun c => c.wsWrite da p.data

omit ha hu hy ht hp in
theorem brought_idle (da : Nat) : (s.brought p n da).fab.waiting = [] ∧ (s.brought p n da).noCopies p.dstRtr ∧
    ((s.brought p n da).site n).flightAt q past.length = some f := by
  obtain ⟨hw, hc⟩ := answered_idle hidle p
  have hb : wsBecomes n _ (s.answered p) (s.brought p n da) :=
    ⟨onlySite_modSite (s.answered p) n _, State.site_modSite_same (s.answered p) n fun c => c.wsWrite da p.data⟩
  obtain ⟨hways, hr, hqs⟩ := wsBecomes_ways hb
  refine ⟨hw, noCopies_sites hc hways hr hqs, ?_⟩
  rw [brought_site]
  exact flightAt_after (s := s) hq

/-- A READ_DATA for the working store writes its bytes there and moves its copy on to its end. -/
theorem readData_moves (h0 : p.status = 0) (htr : p.truncated = false) (hk : f.desc.dstKind = 0)
    (hd : f.desc.total ≤ f.moved + p.data.length) :
    exec (.readData p []) s = .next ((s.brought p n (f.desc.place f.moved).2.1).modSite n fun c =>
      c.modFlight q past.length fun f => f.movedOn p.data.length s.tb) := by
  obtain ⟨hr, htx⟩ := answeredBy_spec ha
  have hf : ((s.arrived p).site n).flightAt q past.length = some f := flightAt_after (s := s) hq
  have ho : ((s.arrived p).site n).flightOf q x.txn = some past.length := by
    rw [htx]
    exact flightOf_after (s := s) hq ht hp
  obtain ⟨hw, hc, hbf⟩ := brought_idle (n := n) hidle hq (f.desc.place f.moved).2.1
  have hst : (if p.status ≠ 0 then p.status else if p.truncated = true then 5 else
      if ([] : List Nat) ≠ [] then 6 else 0) = 0 := by
    rw [if_neg (fun h => h h0), htr]
    rfl
  have he : (s.arrived p).dataIn p [] x = (s.brought p n (f.desc.place f.moved).2.1).copyMoved n q past.length p.data.length := by
    unfold State.dataIn
    rw [hu]
    dsimp only
    rw [ho]
    dsimp only
    rw [hf]
    dsimp only
    rw [if_pos hst]
    unfold State.copyBrought
    rw [if_neg (by rw [hk]; decide), hr, htx]
    refine congrArg (fun (v : State) => v.copyMoved n q past.length p.data.length) ?_
    unfold State.copyWrite
    rw [hk]
    rfl
  have hm := copyMoved_done (s := s.brought p n (f.desc.place f.moved).2.1) hbf hd
  have hn := movedOn_noCopies hc hbf hd
  refine congrArg _ ((response_of ha hy _).trans ?_)
  rw [he, hm]
  have hw' : ((s.brought p n (f.desc.place f.moved).2.1).modSite n fun c => c.modFlight q past.length fun f =>
    f.movedOn p.data.length s.tb).fab.waiting = [] := hw
  change ((s.brought p n (f.desc.place f.moved).2.1).modSite n fun c => c.modFlight q past.length fun f =>
    f.movedOn p.data.length s.tb).noCopies p.dstRtr at hn
  change State.servePort ((s.brought p n (f.desc.place f.moved).2.1).modSite n fun c => c.modFlight q past.length fun f =>
    f.movedOn p.data.length s.tb) p.dstRtr 5 = _
  generalize (s.brought p n (f.desc.place f.moved).2.1).modSite n (fun c => c.modFlight q past.length fun f =>
    f.movedOn p.data.length s.tb) = v at hn hw'
  exact servePort_idle hw' hn 5

end

section
variable {s : State} {n : SiteNo} {q : Fin 4} {f : CopyFlight} {p : Packet} {past rest : List CopyFlight}

/-- What a READ_DATA that ends its copy leaves. -/
theorem brought_moved (da : Nat) (hq : ((s.site n).queue q).flight = past ++ f :: rest)
    (hd : f.desc.total ≤ f.moved + p.data.length) :
    let t := (s.brought p n da).modSite n fun c => c.modFlight q past.length fun f => f.movedOn p.data.length s.tb
    t = { s with sites := t.sites, fab := t.fab } ∧ t.txnOf p.dstRtr p.txn = none ∧ (∀ m, m ≠ n → t.site m = s.site m) ∧
      (t.site n).wsRead da p.data.length = p.data ∧
      (∀ a, a < da ∨ da + p.data.length ≤ a → tget (fun _ => 0) (t.site n).ws a = tget (fun _ => 0) (s.site n).ws a) ∧
      ∃ u, ((t.site n).queue q).flight =
        past ++ { f with moved := f.moved + p.data.length, txn := none, buf := f.buf.drop p.data.length, done := true, since := u } :: rest := by
  intro t
  have hsite : t.site n = ((s.site n).wsWrite da p.data).modFlight q past.length fun f => f.movedOn p.data.length s.tb :=
    (State.site_modSite_same (s.brought p n da) n fun c => c.modFlight q past.length fun f =>
      f.movedOn p.data.length s.tb).trans (by rw [brought_site])
  have hother (m : SiteNo) (hm : m ≠ n) : t.site m = s.site m :=
    (State.site_modSite_other (s.brought p n da) (fun c => c.modFlight q past.length fun f => f.movedOn p.data.length s.tb)
      hm).trans (State.site_modSite_other (s.answered p) (fun c => c.wsWrite da p.data) hm)
  have hws : (t.site n).ws = tput (fun _ => 0) (s.site n).ws da p.data := by
    rw [hsite]
    rfl
  have hqu : ((t.site n).queue q).flight = (((s.site n).queue q).flight).modify past.length fun f =>
      f.movedOn p.data.length s.tb := by
    rw [hsite, queue_modFlight]
    rfl
  refine ⟨rfl, notOut_txnOf (answered_notOut s p), hother, ?_, fun a ha => ?_,
    if f.moved / 65536 < (f.moved + p.data.length) / 65536 then s.tb else f.since, ?_⟩
  · unfold Site.wsRead
    rw [hws]
    exact tbytes_tput da p.data
  · rw [hws]
    exact tget_tput_other _ ha
  · rw [hqu, hq, modify_after]
    unfold CopyFlight.movedOn
    rw [decide_eq_true hd]

end

theorem responses_late {s : State} {p : Packet} (bad : List Nat) (ha : s.answeredBy p = none) (hy : s.notYet p = false) :
    completes (.writeAck p) s (· = s.arrived p) ∧ completes (.readData p bad) s (· = s.arrived p) :=
  ⟨⟨_, rfl, response_late ha hy _⟩, ⟨_, rfl, response_late ha hy _⟩⟩

/-- Settles O36: a request that may be served writes or reads at its endpoint and its answer leaves the free port at
once; an answer finds the flight that awaits it, which moves on to its end or fails with the code of its status, and
leaves no copy at the port with more to ask. -/
theorem requestsServed : Obligations.RequestsServed := by
  unfold Obligations.RequestsServed
  refine ⟨fun s p n o hc ht hy hp => ⟨write_core_good o hc ht hy hp, write_core_bad o hc ht hy hp⟩,
    fun s p f hc ht hy hp hh => write_memory hc ht hy hp (hh {}),
    fun s p ep wo ro hy hp => ⟨fun hc => write_refused wo hc hy hp, fun hc => readReq_refused ro hc hy hp⟩,
    fun s p n o hc hy hp => ⟨readReq_core o hc hy hp, readReq_lost o hc hy hp⟩,
    fun s p x n q past f rest ha hu hy hidle hq ht hp hlen => ⟨fun h0 hd => ?_, fun h0 h5 h6 h10 hh => ?_⟩,
    fun s p x n q past f rest ha hu hy hidle hq ht hp h0 htr hk hd => ?_,
    fun s p f hc hy hp hh => readReq_memory hc hy hp hh,
    fun s p bad ha hy => responses_late bad ha hy,
    fun s p ep wo ro bad h => requests_notYet h wo ro bad⟩
  · exact ⟨_, writeAck_moves ha hu hy hidle hq ht hp h0 hd, moved_spec hq hd⟩
  · exact ⟨_, writeAck_fails ha hu hy hidle hq ht hp hlen h0 h5 h6 h10, answeredFail_ends hq hh _⟩
  · exact ⟨_, readData_moves ha hu hy hidle hq ht hp h0 htr hk hd, brought_moved _ hq hd⟩

end Sys2Proof.Machine
end

section
/-!
PROOF. Combine groups: contributions at their root, the sum, expiry and resending (R200, R209 to R214).
-/

namespace Sys2Proof.Machine

/-! ### Contributions at their root (R200, R209 to R213) -/

section
variable {s u : State} {c : RedContrib} {tm : Word64} {st : BitVec 4}

/-- The RED_ACK to a contributor. -/
def ackOf (c : RedContrib) (st : BitVec 4) : Packet :=
  let q := mkPacket 6 (c.root, false) (c.srcRtr, c.srcEp) (tagOf c.owned c.hamlet) c.addr.toNat 64 []
  let q := { q with txn := c.txn, status := st, group := c.group, contrib := c.contributor }
  { q with hchk := hchkOf q }

theorem ack_is (c : RedContrib) (st : BitVec 4) : (ackOf c st).opc = 6 ∧ (ackOf c st).status = st ∧ (ackOf c st).txn = c.txn ∧
    (ackOf c st).srcRtr = c.root := ⟨rfl, rfl, rfl, rfl⟩

theorem redAck_is (s : State) (c : RedContrib) (st : BitVec 4) : s.redAck c st = s.respond (ackOf c st) := rfl

/-- A RED_ACK leaves a free port at once. -/
theorem redAck_sends (h : u.portFree c.root = true) (st : BitVec 4) : sentOne u (u.redAck c st) (ackOf c st) :=
  respond_sends (p := ackOf c st) h

/-- A contribution that arrives is taken from the mesh's buffers alone. -/
theorem contribArrived_is (s : State) (c : RedContrib) : ∃ B F, s.contribArrived c =
    { s with fab := { s.fab with bufs := B, flying := F } } := by
  unfold State.contribArrived
  dsimp only
  split <;> exact ⟨_, _, rfl⟩

/-- The state in which a contribution has arrived, at a time. -/
theorem contribArrived_at (s : State) (c : RedContrib) (tm : Word64) : ∃ b B F, (s.at tm) = { s with tb := b } ∧
    (s.at tm).contribArrived c = { s.at tm with fab := { s.fab with bufs := B, flying := F } } ∧
    s.contribArrived c = { s with fab := { s.fab with bufs := B, flying := F } } := by
  obtain ⟨b, hb⟩ := at_is s tm
  refine ⟨b, ?_⟩
  rw [hb]
  unfold State.contribArrived
  dsimp only
  split <;> exact ⟨_, _, rfl, rfl, rfl⟩

theorem copyHead_tb (s : State) (b : Word64) (B : Tab (List Packet)) (F : List Packet) (n : SiteNo) (q : Fin 4) :
    ({ s with tb := b, fab := { s.fab with bufs := B, flying := F } } : State).copyHead n q =
      ({ s with fab := { s.fab with bufs := B, flying := F } } : State).copyHead n q := rfl

/-- What an arrived contribution meets at its root. -/
theorem contribArrived_meets (hp : (s.contribArrived c).portFree c.root = true) (tm : Word64) :
    let u := (s.at tm).contribArrived c
    u.portFree c.root = true ∧ (∃ B F, u = { s.at tm with fab := { s.fab with bufs := B, flying := F } }) ∧
      (∀ f, u.isDark f = s.isDark f) ∧ (∀ g, u.hamletResetting g = s.hamletResetting g) ∧
      (∀ d g, u.groupShut d g = s.groupShut d g) ∧ u.sites = s.sites ∧ u.out = s.out := by
  obtain ⟨b, B, F, hb, hu, hs⟩ := contribArrived_at s c tm
  rw [hs] at hp
  intro u
  have hu' : u = { s with tb := b, fab := { s.fab with bufs := B, flying := F } } := by
    change (s.at tm).contribArrived c = _
    rw [hu, hb]
  rw [hu']
  refine ⟨?_, ⟨B, F, hu'.symm.trans hu⟩, fun _ => rfl, fun _ => rfl, fun _ _ => rfl, rfl, rfl⟩
  · exact (portFree_congr (u := { s with tb := b, fab := { s.fab with bufs := B, flying := F } }) rfl rfl rfl
      (fun n q => copyHead_tb s b B F n q) c.root).trans hp

theorem contribOvertakes_at (s : State) (c : RedContrib) (tm : Word64) : (s.at tm).contribOvertakes c = s.contribOvertakes c := by
  obtain ⟨b, hb⟩ := at_is s tm
  rw [hb]
  rfl

/-- A contribution that has arrived at a lit root is answered or contributes (R200, R209, R216). -/
theorem redContrib_of (hd : s.isDark (fieldOfRtr c.root) = false) (ho : s.contribOvertakes c = false)
    (hp : (s.contribArrived c).portFree c.root = true) :
    let tag := tagOf c.owned c.hamlet
    let u := (s.at tm).contribArrived c
    exec (.redContrib c tm) s = .next (if s.hamletResetting tag then u.redAck c 2 else if s.groupShut c.dst tag then u.redAck c 1
      else if c.truncated then u.redAck c 5 else if c.bad then u.redAck c 6 else u.contribute c tag) := by
  intro tag u
  obtain ⟨-, -, h1, h2, h3, -⟩ := contribArrived_meets hp tm
  change execRedContrib c tm s = _
  unfold execRedContrib
  dsimp only
  rw [contribOvertakes_at, ho, if_neg (by decide), h1, hd, if_neg (by decide), h2, h3]
  simp only [apply_ite Host.Outcome.next]
  rfl

/-- A contribution that is answered at once. -/
theorem redContrib_answered (hp : (s.contribArrived c).portFree c.root = true)
    (he : exec (.redContrib c tm) s = .next (((s.at tm).contribArrived c).redAck c st)) :
    completes (.redContrib c tm) s fun t => t = { s.at tm with fab := t.fab, out := t.out } ∧ fabSent s t ∧
      ∃ r, t.out = s.out ++ [.packet r] ∧ r.opc = 6 ∧ r.status = st ∧ r.txn = c.txn := by
  obtain ⟨hf, ⟨B, F, hu⟩, -, -, -, -, ho⟩ := contribArrived_meets hp tm
  obtain ⟨hs, hfs⟩ := redAck_sends hf st
  have hfab : (s.at tm).fab = s.fab := by
    obtain ⟨b, hb⟩ := at_is s tm
    rw [hb]
  generalize ((s.at tm).contribArrived c).redAck c st = t at he hs hfs
  rw [ho, hu] at hs
  rw [hu] at hfs
  refine ⟨t, he, ?_, ?_, ackOf c st, ?_, rfl, rfl, rfl⟩
  · rw [hs]
  · unfold fabSent at hfs ⊢
    rw [hfs]
  · rw [hs]

end

section
variable {s u : State} {c : RedContrib} {tm : Word64} {k : CSlot} {v : Option CSlot}

/-- Two combine slots of one key (R210). -/
def sameKey (x k : CSlot) : Bool :=
  decide (x.root = k.root) && decide (x.group = k.group) && decide (x.tag = k.tag) && decide (x.dst = k.dst) &&
    decide (x.addr = k.addr)

theorem sameKey_refl (k : CSlot) : sameKey k k = true := by
  unfold sameKey
  simp

/-- A combine buffer without the slot of a key, and with a slot more. -/
def slotsSet (l : List CSlot) (k : CSlot) : Option CSlot → List CSlot
  | some x => l.filter (fun y => !sameKey y k) ++ [x]
  | none => l.filter fun y => !sameKey y k

theorem setCslot_is (s : State) (k : CSlot) (v : Option CSlot) :
    s.setCslot k v = { s with fab := { s.fab with slots := slotsSet s.fab.slots k v } } := by
  cases v <;> rfl

/-- A key that no slot has leaves the slots as they are. -/
theorem slots_without {l : List CSlot} (h : ∀ x ∈ l, sameKey x k = false) : l.filter (fun y => !sameKey y k) = l :=
  List.filter_eq_self.2 fun x hx => by rw [h x hx]; rfl

theorem cslot_none {root : Fin 64} {group : BitVec 16} {tag : Option HamletNo} {dst : Endpoint} {addr : Word64}
    (h : s.cslot root group tag dst addr = none) (hk : k.root = root ∧ k.group = group ∧ k.tag = tag ∧ k.dst = dst ∧ k.addr = addr) :
    ∀ x ∈ s.fab.slots, sameKey x k = false := by
  obtain ⟨h1, h2, h3, h4, h5⟩ := hk
  intro x hx
  have hn := List.find?_eq_none.1 h x hx
  unfold sameKey
  rw [h1, h2, h3, h4, h5]
  exact Bool.eq_false_iff.2 hn

theorem useLcore_none (h : treeGroup c.group = none) (s : State) : s.useLcore c = s := by
  unfold State.useLcore
  rw [h]

/-- A first contribution that finds no room is answered RED_RETRY (R211). -/
theorem contribute_full {tag : Option HamletNo} (ht : treeGroup c.group = none)
    (hn : u.cslot c.root c.group tag c.dst c.addr = none)
    (hroom : 1024 < u.combineUsed c.root + redUnits c.data (groupSize c.group)) :
    u.contribute c tag = ({ u with fab := { u.fab with redRetry := satInc u.fab.redRetry } }).redAck c 10 := by
  unfold State.contribute
  dsimp only
  rw [useLcore_none ht, hn]
  exact if_pos hroom

/-- The slot that a first contribution opens (R210). -/
def slotOf (c : RedContrib) (tag : Option HamletNo) (tb : Word64) : CSlot :=
  { root := c.root, group := c.group, tag := tag, dst := c.dst, addr := c.addr, since := tb, held := [c], failed := none,
    writing := false, answered := [], units := redUnits c.data (groupSize c.group) }

/-- A first contribution of a group of several that finds room opens a slot (R210, R211). -/
theorem contribute_opens {tag : Option HamletNo} (ht : treeGroup c.group = none)
    (hn : u.cslot c.root c.group tag c.dst c.addr = none)
    (hroom : u.combineUsed c.root + redUnits c.data (groupSize c.group) ≤ 1024)
    (hc : c.contributor.toNat < groupSize c.group) (h1 : 1 < groupSize c.group) :
    u.contribute c tag = { u with fab := { u.fab with slots := u.fab.slots ++ [slotOf c tag u.tb] } } := by
  have hk := slots_without (cslot_none (k := slotOf c tag u.tb) hn ⟨rfl, rfl, rfl, rfl, rfl⟩)
  have hs : u.setCslot (slotOf c tag u.tb) (some (slotOf c tag u.tb)) =
      { u with fab := { u.fab with slots := u.fab.slots ++ [slotOf c tag u.tb] } } := by
    rw [setCslot_is, slotsSet, hk]
  unfold State.contribute
  dsimp only
  rw [useLcore_none ht, hn]
  dsimp only
  rw [if_neg (by omega), if_neg (by omega), if_neg (by omega)]
  exact hs

end

/-! ### The sum of a slot (R212) -/

section
variable {s u : State} {p : Packet} {use : TxnUse} {k : Nat}

/-- A request that enters the mesh under a TXN. -/
def underTxn (p : Packet) (k : Nat) : Packet :=
  let p := { p with txn := BitVec.ofNat 10 k }
  { p with hchk := hchkOf p }

/-- The request that awaits its response. -/
def underUse (p : Packet) (use : TxnUse) (k : Nat) (tb : Word64) : Txn :=
  { rtr := p.srcRtr, txn := BitVec.ofNat 10 k, pkt := underTxn p k, since := tb, tries := 1, use := use }

theorem inject_is (s : State) (p : Packet) (use : TxnUse) (k : Nat) : ∃ B F, s.inject p use k =
    { s with fab := { s.fab with bufs := B, flying := F, txns := s.fab.txns ++ [underUse p use k s.tb] },
             out := s.out ++ [.packet (underTxn p k)] } := ⟨_, _, rfl⟩

theorem copyHead_txns (s : State) (T : List Txn) (L : List CSlot) (R : BitVec 8) (n : SiteNo) (q : Fin 4) :
    ({ s with fab := { s.fab with txns := T, slots := L, redRetry := R } } : State).copyHead n q = s.copyHead n q := rfl

/-- A request of no copy that waited alone is injected. -/
theorem sendQueued_asked (hw : s.fab.waiting = []) (hk : s.freeTxn p.srcRtr = some k) (hu : ∀ l q, use ≠ .remote l q) :
    (s.queueAt { pkt := p, kind := .request use }).sendQueued { pkt := p, kind := .request use } = s.inject p use k := by
  unfold State.sendQueued
  dsimp only
  rw [queueAt_erase hw, hk]
  cases use with
  | remote l q => exact absurd rfl (hu l q)
  | _ => rfl

theorem inject_noCopies {r : Fin 64} (hc : s.noCopies r) (p : Packet) (use : TxnUse) (k : Nat) :
    ((s.inject p use k).granted4 r).noCopies r := by
  obtain ⟨B, F, hin⟩ := inject_is s p use k
  rw [hin]
  intro n hn q
  exact ((copyHead_sent { s with fab := { s.fab with txns := s.fab.txns ++ [underUse p use k s.tb] } } B F _ _ n q).trans
    (copyHead_txns s (s.fab.txns ++ [underUse p use k s.tb]) s.fab.slots s.fab.redRetry n q)).trans (hc n hn q)

theorem inject_waiting (s : State) (p : Packet) (use : TxnUse) (k : Nat) : (s.inject p use k).fab.waiting = s.fab.waiting := rfl

/-- A request of no copy at a free port enters the mesh at once under a fresh TXN. -/
theorem ask_sends (h : s.portFree p.srcRtr = true) (hk : s.freeTxn p.srcRtr = some k)
    (hu : ∀ l q, use ≠ .remote l q) :
    s.ask p use = (s.inject p use k).granted4 p.srcRtr := by
  obtain ⟨hp, hw, hc, hb⟩ := portFree_spec h
  have hq : (s.queueAt { pkt := p, kind := .request use }).fab.waiting = [{ pkt := p, kind := .request use }] := by
    change s.fab.waiting ++ _ = _
    rw [hw]
    rfl
  have hsent := sendQueued_asked hw hk hu
  have hcan : s.canSend p (.request use) = true := by
    unfold State.canSend
    rw [hp, decide_eq_true (hb (planeOf p)), hk]
    rfl
  have hx := servePort_only (u := s.queueAt { pkt := p, kind := .request use }) hq rfl (fun n hn q => hc n hn q)
    ((canSend_queued s _ _ _).trans hcan) rfl (by rw [hsent, inject_waiting]; exact hw)
    (by rw [hsent]; exact inject_noCopies hc p use k) 4
  rw [hsent] at hx
  exact hx

end

section
variable {s u : State} {c : RedContrib} {tm : Word64} {k : CSlot} {tag : Option HamletNo} {n : SiteNo} {sum : RedData}

theorem insertContrib_length (c : RedContrib) (l : List RedContrib) : (insertContrib c l).length = l.length + 1 := by
  unfold insertContrib
  induction l with
  | nil => rfl
  | cons d l ih =>
    unfold insertRank
    split
    · rfl
    · exact congrArg (· + 1) ih

/-- A slot with one contribution more. -/
def CSlot.with (k : CSlot) (c : RedContrib) : CSlot := { k with held := insertContrib c k.held }

/-- The WRITE of a slot's sum to a core (R212). -/
def sumPacket (k : CSlot) (n : SiteNo) (sum : RedData) : Packet :=
  mkPacket 1 (k.root, false) (rtrOfSite n, false) k.tag k.addr.toNat (redBytes sum).length (redBytes sum)

/-- A state with the sum of a slot on its way. -/
def State.summing (s : State) (k : CSlot) : State :=
  { s with fab := { s.fab with slots := slotsSet s.fab.slots k (some { k with writing := true }) } }

theorem combine_core (hd : k.dst = .core n) (sum : RedData) :
    u.combine k sum = (u.summing k).ask (sumPacket k n sum) (.slot k.root k.group k.tag k.addr) := by
  have hs : u.summing k = u.setCslot k (some { k with writing := true }) := (setCslot_is ..).symm
  unfold State.combine
  dsimp only
  split
  next h => exact Endpoint.noConfusion (hd.symm.trans h)
  next m h =>
    obtain rfl : m = n := Endpoint.core.inj (h.symm.trans hd)
    rw [hs, sumPacket]
  next _ h => exact absurd hd (h n)

/-- The last contribution of a slot sends the sum (R212). -/
theorem contribute_sums (ht : treeGroup c.group = none) (hn : u.cslot c.root c.group tag c.dst c.addr = some k)
    (hf : k.failed = none) (hd : k.dst = .core n)
    (ha : ∀ d ∈ k.held, redAlike d.data c.data = true ∧ d.contributor ≠ c.contributor)
    (hc : c.contributor.toNat < groupSize c.group) (hl : k.held.length + 1 = groupSize c.group)
    (hs : redSum ((insertContrib c k.held).map (·.data)) = some sum) :
    u.contribute c tag = (u.summing (k.with c)).ask (sumPacket (k.with c) n sum)
      (.slot (k.with c).root (k.with c).group (k.with c).tag (k.with c).addr) := by
  have halike : (match k.held with
      | d :: _ => redAlike d.data c.data
      | [] => true) = true := by
    cases hh : k.held with
    | nil => rfl
    | cons d l => exact (ha d (by rw [hh]; exact List.mem_cons_self)).1
  have hany : (k.held.any fun d => decide (d.contributor = c.contributor)) = false :=
    List.any_eq_false.2 fun d hd => by rw [decide_eq_true_iff]; exact (ha d hd).2
  have hlen : ¬(insertContrib c k.held).length < groupSize c.group := by
    rw [insertContrib_length]
    omega
  have hk : ({ k.with c with failed := none } : CSlot) = k.with c := by
    rw [← hf]
    rfl
  unfold State.contribute
  dsimp only
  rw [useLcore_none ht, hn]
  dsimp only
  rw [hf]
  dsimp only
  rw [if_neg, hs]
  · exact (if_neg hlen).trans ((congrArg (fun x => u.combine x sum) hk).trans (combine_core (u := u) (k := k.with c) hd sum))
  · rintro (h | h | h)
    · omega
    · exact Bool.noConfusion (halike.symm.trans h)
    · exact Bool.noConfusion (hany.symm.trans h)

theorem summing_portFree (h : u.portFree c.root = true) (k : CSlot) : (u.summing k).portFree c.root = true :=
  (portFree_congr (u := u.summing k) (v := u) rfl rfl rfl (fun n q => copyHead_txns u u.fab.txns _ u.fab.redRetry n q) c.root).trans h

theorem summing_freeTxn (u : State) (k : CSlot) (r : Fin 64) : (u.summing k).freeTxn r = u.freeTxn r := rfl

/-- What the WRITE of a sum leaves. -/
theorem sum_sent (h : u.portFree c.root = true) (hr : k.root = c.root) (hfree : (u.freeTxn c.root).isSome = true)
    (use : TxnUse) (hu : ∀ l q, use ≠ .remote l q) :
    let t := (u.summing (k.with c)).ask (sumPacket (k.with c) n sum) use
    (∃ r, t.out = u.out ++ [.packet r] ∧ r.opc = 1 ∧ r.data = redBytes sum ∧ r.dstRtr = rtrOfSite n) ∧
      (∃ w ∈ t.fab.slots, w.writing = true ∧ w.held = insertContrib c k.held ∧ w.addr = k.addr) ∧
      t.sites = u.sites ∧ t.fab.txns.length = u.fab.txns.length + 1 := by
  intro t
  obtain ⟨j, hj⟩ := Option.isSome_iff_exists.1 hfree
  have hsrc : (sumPacket (k.with c) n sum).srcRtr = c.root := hr
  have ht : t = ((u.summing (k.with c)).inject (sumPacket (k.with c) n sum) use j).granted4 c.root := by
    rw [← hsrc]
    exact ask_sends (by rw [hsrc]; exact summing_portFree h _) (by rw [hsrc, summing_freeTxn]; exact hj) hu
  obtain ⟨B, F, hin⟩ := inject_is (u.summing (k.with c)) (sumPacket (k.with c) n sum) use j
  rw [hin] at ht
  refine ⟨⟨underTxn (sumPacket (k.with c) n sum) j, by rw [ht]; rfl, rfl, rfl, rfl⟩,
    ⟨{ k.with c with writing := true }, ?_, rfl, rfl, rfl⟩, by rw [ht]; rfl, ?_⟩
  · rw [ht]
    exact List.mem_append_right _ List.mem_cons_self
  · rw [ht]
    exact List.length_append

end

/-! ### RED_RETRY_RESEND (R211) -/

section
variable {s u : State} {r : Fin 64} {e : PortReq} {k : BitVec 10} {tm due : Word64} {x : Txn}
  {past rest : List (Fin 64 × BitVec 10 × Word64)}

/-- The requesters of a port in turn: each of the five once. -/
theorem turns_once_of {α : Type} (last : Nat) {j : Nat} (hj : j < 5) (x : α) :
    (([1, 2, 3, 4, 5].map fun k => (last + k) % 5).filterMap fun w => if w = j then some x else none) = [x] := by
  have h : last % 5 < 5 := Nat.mod_lt _ (by decide)
  have hk (k : Nat) : (last + k) % 5 = (last % 5 + k) % 5 := by omega
  simp only [hk]
  generalize last % 5 = m at h
  have hm : m = 0 ∨ m = 1 ∨ m = 2 ∨ m = 3 ∨ m = 4 := by omega
  have hj' : j = 0 ∨ j = 1 ∨ j = 2 ∨ j = 3 ∨ j = 4 := by omega
  rcases hm with rfl | rfl | rfl | rfl | rfl <;> rcases hj' with rfl | rfl | rfl | rfl | rfl <;> rfl

theorem requester_lt (s : State) (e : PortReq) : s.requester e < 5 := by
  unfold State.requester
  split
  · split
    · omega
    · decide
  · decide

/-- The only packet that waits at a port where no copy has a request is the grant. -/
theorem portGrant_alone (hw : u.fab.waiting = [e]) (hr : e.pkt.srcRtr = r) (hc : u.noCopies r)
    (hs : u.canSend e.pkt e.kind = true) : ∃ cl, u.portGrant r = some (u.requester e, cl, .queued e) := by
  have hoff (w : Nat) (hne : w ≠ u.requester e) : u.offer r w = none := by
    unfold State.offer
    rw [hw, List.find?_cons_of_neg (by simp [hne.symm]), List.find?_nil]
    dsimp only
    split
    · cases hn : siteAtRtr r with
      | none => rfl
      | some n =>
        rw [Option.bind_some, hc n hn]
        split <;> rfl
    · rfl
  have hon : ∃ cl, u.offer r (u.requester e) = some (cl, .queued e) := by
    unfold State.offer
    rw [hw, List.find?_cons_of_pos (by rw [hr, hs]; simp)]
    exact ⟨_, rfl⟩
  obtain ⟨cl, hon⟩ := hon
  have ho : (fun w => (u.offer r w).map fun o => (w, o)) =
      fun w => if w = u.requester e then some (u.requester e, cl, Offer.queued e) else none := by
    funext w
    by_cases h : w = u.requester e
    · rw [if_pos h, h, hon]
      rfl
    · rw [if_neg h, hoff w h]
      rfl
  refine ⟨cl, ?_⟩
  unfold State.portGrant State.offers
  dsimp only
  rw [ho, turns_once_of _ (requester_lt u e)]
  simp

/-- What a port's turn leaves. -/
def State.grantedTo (s : State) (r : Fin 64) (w : Nat) : State :=
  { s with fab := { s.fab with portLast := tset (fun _ => 4) s.fab.portLast r.val w } }

theorem grantedTo_waiting (s : State) (r : Fin 64) (w : Nat) : (s.grantedTo r w).fab.waiting = s.fab.waiting := rfl

theorem servePort_alone (hw : u.fab.waiting = [e]) (hr : e.pkt.srcRtr = r) (hc : u.noCopies r)
    (hs : u.canSend e.pkt e.kind = true) (hsent : (u.sendQueued e).fab.waiting = [])
    (hcs : ((u.sendQueued e).grantedTo r (u.requester e)).noCopies r) (k : Nat) :
    u.servePort r (k + 1) = (u.sendQueued e).grantedTo r (u.requester e) := by
  obtain ⟨cl, hg⟩ := portGrant_alone hw hr hc hs
  unfold State.servePort
  rw [hg]
  exact servePort_idle ((grantedTo_waiting _ r _).trans hsent) hcs k

theorem entered_grantedTo {p : Packet} (hc : s.noCopies r) (w : Nat) : ((s.enter p).grantedTo r w).noCopies r :=
  fun n hn q => (copyHead_sent s _ _ _ _ n q).trans (hc n hn q)

/-- A request that is sent again at a free port. -/
theorem again_sends {p : Packet} (h : s.portFree p.srcRtr = true) :
    ∃ w, (s.queueAt { pkt := p, kind := .again false }).servePort p.srcRtr 5 = (s.enter p).grantedTo p.srcRtr w := by
  obtain ⟨hp, hw, hc, hb⟩ := portFree_spec h
  have hq : (s.queueAt { pkt := p, kind := .again false }).fab.waiting = [{ pkt := p, kind := .again false }] := by
    change s.fab.waiting ++ _ = _
    rw [hw]
    rfl
  have hsent : (s.queueAt { pkt := p, kind := .again false }).sendQueued { pkt := p, kind := .again false } = s.enter p :=
    congrArg (State.enter · p) (queueAt_erase hw _)
  have hcan : s.canSend p (.again false) = true := by
    unfold State.canSend
    rw [hp, decide_eq_true (hb (planeOf p))]
    rfl
  have hx := servePort_alone (u := s.queueAt { pkt := p, kind := .again false }) hq rfl (fun n hn q => hc n hn q)
    ((canSend_queued s _ _ _).trans hcan) (by rw [hsent]; exact hw)
    (by rw [hsent]; exact entered_grantedTo hc _) 4
  rw [hsent] at hx
  exact ⟨_, hx⟩

end

/-! ### Answers at a port that takes some at once and holds the rest (R202, R204) -/

section
variable {s t u : State} {r : Fin 64} {e : PortReq} {w cl : Nat} {o : Offer} {Q : List Packet} {st : BitVec 4}

/-- What the port of no copy grants is a packet that waits. -/
theorem portGrant_queued (hc : s.noCopies r) (h : s.portGrant r = some (w, cl, o)) : ∃ e ∈ s.fab.waiting, o = .queued e := by
  obtain ⟨x, -, hx⟩ := List.mem_filterMap.1 (List.mem_of_find?_eq_some h)
  obtain ⟨y, hy, hyw⟩ := Option.map_eq_some_iff.1 hx
  obtain ⟨-, rfl⟩ := Prod.mk.inj hyw
  unfold State.offer at hy
  split at hy
  next e he =>
    dsimp only at hy
    simp only [Option.some.injEq, Prod.mk.injEq] at hy
    exact ⟨e, List.mem_of_find?_eq_some he, hy.2.symm⟩
  next =>
    split at hy
    next =>
      cases hn : siteAtRtr r with
      | none => rw [hn] at hy; exact nomatch hy
      | some n =>
        rw [hn, Option.bind_some, hc n hn] at hy
        split at hy <;> exact nomatch hy
    next => exact nomatch hy

/-- Every packet that waits is a response. -/
def State.onlyAnswers (s : State) : Prop := ∀ e ∈ s.fab.waiting, e.kind = .response

/-- Some of the packets Q have been sent, and the others wait as responses; nothing else has changed. -/
def spread (s t : State) (Q : List Packet) : Prop := ∃ l B F P W,
  t = { s with fab := { s.fab with bufs := B, flying := F, portLast := P, waiting := W }, out := s.out ++ List.map Out.packet l } ∧
    l.length + W.length = Q.length ∧ (∀ p ∈ l ++ W.map PortReq.pkt, p ∈ Q) ∧ ∀ e ∈ W, e.kind = .response

theorem spread_refl (h : s.onlyAnswers) : spread s s (s.fab.waiting.map PortReq.pkt) :=
  ⟨[], _, _, _, s.fab.waiting, by rw [List.map_nil, List.append_nil], by simp, fun p hp => hp, h⟩

theorem copyHead_waiting (s : State) (B : Tab (List Packet)) (F : List Packet) (P : Tab Nat) (W : List PortReq) (o : List Out)
    (n : SiteNo) (q : Fin 4) :
    ({ s with fab := { s.fab with bufs := B, flying := F, portLast := P, waiting := W }, out := o } : State).copyHead n q =
      s.copyHead n q := rfl

theorem spread_noCopies (h : spread s t Q) (hc : s.noCopies r) : t.noCopies r := by
  obtain ⟨l, B, F, P, W, rfl, -⟩ := h
  exact fun n hn q => (copyHead_waiting s B F P W _ n q).trans (hc n hn q)

theorem spread_answers (h : spread s t Q) : t.onlyAnswers := by
  obtain ⟨l, B, F, P, W, rfl, -, -, hk⟩ := h
  exact hk

/-- What follows a first spread spreads what waits after it, and more packets. -/
theorem spread_trans {A : List Packet} (h : spread s t Q) (k : spread t u (t.fab.waiting.map PortReq.pkt ++ A)) : spread s u (Q ++ A) := by
  obtain ⟨l, B, F, P, W, rfl, hl, hm, -⟩ := h
  obtain ⟨l', B', F', P', W', rfl, hl', hm', hk'⟩ := k
  refine ⟨l ++ l', B', F', P', W', by rw [List.map_append, ← List.append_assoc], ?_, fun p hp => ?_, hk'⟩
  · rw [List.length_append, List.length_append] at *
    rw [List.length_map] at hl'
    dsimp only at hl'
    omega
  · rw [List.append_assoc] at hp
    rcases List.mem_append.1 hp with hp | hp
    · exact List.mem_append_left _ (hm p (List.mem_append_left _ hp))
    · rcases List.mem_append.1 (hm' p hp) with hp | hp
      · exact List.mem_append_left _ (hm p (List.mem_append_right _ hp))
      · exact List.mem_append_right _ hp

/-- A packet that waited as a response is sent. -/
theorem sendQueued_spread (ha : s.onlyAnswers) (he : e ∈ s.fab.waiting) (w : Nat) :
    spread s ((s.sendQueued e).grantedTo r w) (s.fab.waiting.map PortReq.pkt) := by
  have hs : ∃ B F, s.sendQueued e = { s with fab := { s.fab with bufs := B, flying := F, waiting := s.fab.waiting.erase e },
                                              out := s.out ++ [.packet e.pkt] } := by
    unfold State.sendQueued
    rw [ha e he]
    exact ⟨_, _, rfl⟩
  obtain ⟨B, F, hs⟩ := hs
  refine ⟨[e.pkt], B, F, _, s.fab.waiting.erase e, by rw [hs]; rfl, ?_, fun p hp => ?_, fun x hx => ha x (List.mem_of_mem_erase hx)⟩
  · have hpos : 0 < s.fab.waiting.length := List.length_pos_of_mem he
    rw [List.length_erase_of_mem he, List.length_map, List.length_singleton]
    omega
  · rcases List.mem_append.1 hp with hp | hp
    · rw [List.mem_singleton.1 hp]
      exact List.mem_map_of_mem he
    · obtain ⟨x, hx, rfl⟩ := List.mem_map.1 hp
      exact List.mem_map_of_mem (List.mem_of_mem_erase hx)

theorem servePort_spread (k : Nat) (ha : s.onlyAnswers) (hc : s.noCopies r) :
    spread s (s.servePort r k) (s.fab.waiting.map PortReq.pkt) := by
  induction k generalizing s with
  | zero =>
    rw [show s.servePort r 0 = s from markWaits_none hc]
    exact spread_refl ha
  | succ k ih =>
    unfold State.servePort
    split
    next w cl o hg =>
      obtain ⟨e, he, rfl⟩ := portGrant_queued hc hg
      have h1 := sendQueued_spread (r := r) ha he w
      have h2 := ih (spread_answers h1) (spread_noCopies h1 hc)
      have h3 := spread_trans (A := []) h1 (by rw [List.append_nil]; exact h2)
      rwa [List.append_nil] at h3
    next =>
      rw [markWaits_none hc]
      exact spread_refl ha

/-- A slot's contributors are each answered at once, or wait for the port. -/
theorem answers_spread (ha : s.onlyAnswers) (hc : s.noCopies r) (l : List RedContrib) (hl : ∀ c ∈ l, c.root = r) :
    spread s (l.foldl (fun s c => s.redAck c st) s) (s.fab.waiting.map PortReq.pkt ++ l.map (ackOf · st)) := by
  induction l generalizing s with
  | nil =>
    rw [List.map_nil, List.append_nil]
    exact spread_refl ha
  | cons c l ih =>
    have hr := hl c List.mem_cons_self
    have hq : (s.queueAt { pkt := ackOf c st, kind := .response }).onlyAnswers := fun e he => by
      rcases List.mem_append.1 he with he | he
      · exact ha e he
      · rw [List.mem_singleton.1 he]
    have h1 := servePort_spread (r := r) 5 hq (fun n hn q => hc n hn q)
    have hs : (s.queueAt { pkt := ackOf c st, kind := .response }).servePort r 5 = s.redAck c st := by
      rw [← hr]
      rfl
    rw [hs] at h1
    have h2 : spread s (s.redAck c st) (s.fab.waiting.map PortReq.pkt ++ [ackOf c st]) := by
      obtain ⟨m, B, F, P, W, he, h⟩ := h1
      have hw : (s.queueAt { pkt := ackOf c st, kind := .response }).fab.waiting.map PortReq.pkt =
          s.fab.waiting.map PortReq.pkt ++ [ackOf c st] := List.map_append
      rw [hw] at h
      exact ⟨m, B, F, P, W, he, h⟩
    have h3 := spread_trans h2 (ih (spread_answers h2) (spread_noCopies h2 hc) fun d hd => hl d (List.mem_cons_of_mem c hd))
    rw [List.append_assoc] at h3
    exact h3

end

/-! ### COMBINE_SLOT_EXPIRY and RED_RETRY_RESEND (R211, R214) -/

section
variable {s : State} {root r : Fin 64} {tm due : Word64} {past rest : List CSlot} {k : CSlot} {x : Txn} {y : BitVec 10}
  {before after : List (Fin 64 × BitVec 10 × Word64)}

/-- A slot that may expire at a root. -/
def expires (root : Fin 64) (tb : Word64) (k : CSlot) : Bool :=
  decide (k.root = root) && !k.underway && windowOver k.since 80000 tb

theorem expires_none {tb : Word64} {x : CSlot} (h : x.root ≠ root ∨ x.underway = true ∨ windowOver x.since 80000 tb = false) :
    expires root tb x = false := by
  unfold expires
  rcases h with h | h | h
  · rw [decide_eq_false h]
    rfl
  · rw [h]
    simp
  · rw [h, Bool.and_false]

theorem slots_at (s : State) (tm : Word64) : (s.at tm).fab = s.fab := by
  obtain ⟨b, hb⟩ := at_is s tm
  rw [hb]

theorem expiry_none (h : ∀ x ∈ s.fab.slots, x.root ≠ root ∨ x.underway = true ∨ windowOver x.since 80000 (s.at tm).tb = false) :
    exec (.combineSlotExpiry root tm) s = .next (s.at tm) := by
  have hn : (s.at tm).fab.slots.find? (expires root (s.at tm).tb) = none := by
    rw [slots_at]
    exact List.find?_eq_none.2 fun x hx => Bool.eq_false_iff.1 (expires_none (h x hx))
  change execCombineSlotExpiry root tm s = _
  unfold execCombineSlotExpiry
  dsimp only
  change (match (s.at tm).fab.slots.find? (expires root (s.at tm).tb) with | none => _ | some k => _) = _
  rw [hn]

/-- The state in which a slot has expired. -/
def State.expired (s : State) (k : CSlot) : State :=
  { s with fab := { s.fab with timeouts := satInc s.fab.timeouts, slots := slotsSet s.fab.slots k none } }

theorem expiry_of (hs : s.fab.slots = past ++ k :: rest) (hr : k.root = root) (hu : k.underway = false)
    (hw : windowOver k.since 80000 (s.at tm).tb = true)
    (hp : ∀ x ∈ past, x.root ≠ root ∨ x.underway = true ∨ windowOver x.since 80000 (s.at tm).tb = false) :
    exec (.combineSlotExpiry root tm) s =
      .next (k.held.foldl (fun s c => s.redAck c (k.failed.getD 11)) ((s.at tm).expired k)) := by
  have hn : (s.at tm).fab.slots.find? (expires root (s.at tm).tb) = some k := by
    have hk : expires root (s.at tm).tb k = true := by
      unfold expires
      rw [hr, hu, hw]
      simp
    rw [slots_at, hs, List.find?_append,
      List.find?_eq_none.2 fun x hx => Bool.eq_false_iff.1 (expires_none (hp x hx)), List.find?_cons_of_pos hk]
    rfl
  change execCombineSlotExpiry root tm s = _
  unfold execCombineSlotExpiry
  dsimp only
  change (match (s.at tm).fab.slots.find? (expires root (s.at tm).tb) with | none => _ | some k => _) = _
  rw [hn]
  dsimp only
  rw [setCslot_is]
  rfl

theorem copyHead_expired (s : State) (b : Word64) (L : List CSlot) (T : BitVec 8) (n : SiteNo) (q : Fin 4) :
    ({ s with tb := b, fab := { s.fab with slots := L, timeouts := T } } : State).copyHead n q = s.copyHead n q := rfl

/-- A slot that waited 80 µs is freed, and every contributor it holds is answered or waits for its answer (R214). -/
theorem slotExpires (hs : s.fab.slots = past ++ k :: rest) (hr : k.root = root) (hu : k.underway = false)
    (hw : windowOver k.since 80000 (s.at tm).tb = true)
    (hp : ∀ x ∈ past, x.root ≠ root ∨ x.underway = true ∨ windowOver x.since 80000 (s.at tm).tb = false)
    (hc : ∀ c ∈ k.held, c.root = root) (hf : s.portFree root = true) :
    completes (.combineSlotExpiry root tm) s fun t =>
      t = { s.at tm with fab := { s.fab with slots := t.fab.slots, bufs := t.fab.bufs, flying := t.fab.flying, waiting := t.fab.waiting, portLast := t.fab.portLast, timeouts := satInc s.fab.timeouts }, out := t.out } ∧
      k ∉ t.fab.slots ∧ (∀ x ∈ s.fab.slots, x.root ≠ k.root ∨ x.addr ≠ k.addr → x ∈ t.fab.slots) ∧
      ∃ l : List Packet, t.out = s.out ++ l.map .packet ∧ l.length + t.fab.waiting.length = k.held.length ∧
        ∀ r ∈ l ++ t.fab.waiting.map PortReq.pkt, r.opc = 6 ∧ r.status = k.failed.getD 11 := by
  obtain ⟨-, hwt, hnc, -⟩ := portFree_spec hf
  obtain ⟨b, hb⟩ := at_is s tm
  have he : (s.at tm).expired k =
      { s with tb := b, fab := { s.fab with slots := slotsSet s.fab.slots k none, timeouts := satInc s.fab.timeouts } } := by
    rw [hb]
    rfl
  have hans : ((s.at tm).expired k).onlyAnswers := by
    rw [he]
    intro e hm
    rw [show ({ s with tb := b, fab := { s.fab with slots := slotsSet s.fab.slots k none, timeouts := satInc s.fab.timeouts } } :
      State).fab.waiting = [] from hwt] at hm
    exact (List.not_mem_nil hm).elim
  have hcop : ((s.at tm).expired k).noCopies root := by
    rw [he]
    exact fun n hn q => (copyHead_expired s b _ _ n q).trans (hnc n hn q)
  obtain ⟨l, B, F, P, W, ht, hl, hm, -⟩ := answers_spread (st := k.failed.getD 11) hans hcop k.held hc
  have hx := expiry_of hs hr hu hw hp
  have hwe : ((s.at tm).expired k).fab.waiting = [] := by
    rw [he]
    exact hwt
  rw [hwe] at hl hm
  rw [List.map_nil, List.nil_append, List.length_map] at hl
  generalize k.held.foldl (fun s c => s.redAck c (k.failed.getD 11)) ((s.at tm).expired k) = t at hx ht
  rw [he] at ht
  refine ⟨t, hx, ?_, ?_, fun x hx hne => ?_, l, ?_, ?_, fun p hp => ?_⟩
  · rw [ht, hb]
  · rw [ht]
    intro hmem
    have hk := (List.mem_filter.1 hmem).2
    rw [sameKey_refl] at hk
    exact Bool.noConfusion hk
  · rw [ht]
    refine List.mem_filter.2 ⟨hx, ?_⟩
    have : sameKey x k = false := by
      unfold sameKey
      rcases hne with hne | hne
      · rw [decide_eq_false hne]
        simp
      · rw [decide_eq_false hne, Bool.and_false]
    rw [this]
    rfl
  · rw [ht]
  · rw [ht]
    exact hl
  · rw [ht] at hp
    obtain ⟨c, -, rfl⟩ := List.mem_map.1 (hm p hp)
    exact ⟨rfl, rfl⟩

end

section
variable {s : State} {r : Fin 64} {tm due : Word64} {x : Txn} {k : BitVec 10} {past rest : List (Fin 64 × BitVec 10 × Word64)}

/-- A request that waits to be sent again. -/
def mineOf (r : Fin 64) (k : BitVec 10) (e : Fin 64 × BitVec 10 × Word64) : Bool := decide (e.1 = r) && decide (e.2.1 = k)

theorem mineOf_iff {e : Fin 64 × BitVec 10 × Word64} : mineOf r k e = true ↔ e.1 = r ∧ e.2.1 = k := by
  unfold mineOf
  rw [Bool.and_eq_true, decide_eq_true_iff, decide_eq_true_iff]

/-- A state in which nothing waits to be sent again under a TXN. -/
def State.unsent (s : State) (r : Fin 64) (k : BitVec 10) : State :=
  { s with fab := { s.fab with resends := s.fab.resends.filter fun e => !mineOf r k e } }

theorem resend_of (hr : s.fab.resends = past ++ (r, k, due) :: rest) (hp : ∀ e ∈ past, ¬(e.1 = r ∧ e.2.1 = k))
    (hx : s.txnOf r k = some x) : exec (.redRetryResend r k tm) s =
      .next (if (s.at tm).tb < due then s.at tm
        else (((s.at tm).unsent r k).queueAt { pkt := x.pkt, kind := .again false }).servePort r 5) := by
  have hn : (s.at tm).fab.resends.find? (mineOf r k) = some (r, k, due) := by
    rw [slots_at, hr, List.find?_append,
      List.find?_eq_none.2 fun e he => fun hm => hp e he (mineOf_iff.1 hm), List.find?_cons_of_pos (a := (r, k, due)) (mineOf_iff.2 ⟨rfl, rfl⟩)]
    rfl
  have hx' : ((s.at tm).unsent r k).txnOf r k = some x := by
    rw [← hx]
    unfold State.unsent State.txnOf
    rw [slots_at]
  change execRedRetryResend r k tm s = _
  unfold execRedRetryResend
  dsimp only
  change (match (s.at tm).fab.resends.find? (mineOf r k) with | none => _ | some e => _) = _
  rw [hn]
  dsimp only
  split
  · rfl
  · change (match ((s.at tm).unsent r k).txnOf r k with | some x => _ | none => _) = _
    rw [hx']
    rfl

theorem copyHead_resends (s : State) (b : Word64) (R : List (Fin 64 × BitVec 10 × Word64)) (n : SiteNo) (q : Fin 4) :
    ({ s with tb := b, fab := { s.fab with resends := R } } : State).copyHead n q = s.copyHead n q := rfl

/-- A request answered RED_RETRY is sent again at its time (R211). -/
theorem resend_sends (hr : s.fab.resends = past ++ (r, k, due) :: rest) (hp : ∀ e ∈ past, ¬(e.1 = r ∧ e.2.1 = k))
    (hx : s.txnOf r k = some x) (hs : x.pkt.srcRtr = r) (hd : due ≤ (s.at tm).tb) (hf : s.portFree r = true) :
    completes (.redRetryResend r k tm) s fun t =>
      t = { s.at tm with fab := { s.fab with resends := t.fab.resends, bufs := t.fab.bufs, flying := t.fab.flying, portLast := t.fab.portLast }, out := s.out ++ [.packet x.pkt] } ∧
      ∀ e ∈ t.fab.resends, ¬(e.1 = r ∧ e.2.1 = k) := by
  obtain ⟨b, hb⟩ := at_is s tm
  have hu : (s.at tm).unsent r k = { s with tb := b, fab := { s.fab with resends := s.fab.resends.filter fun e => !mineOf r k e } } := by
    rw [hb]
    rfl
  have hfree : ((s.at tm).unsent r k).portFree x.pkt.srcRtr = true := by
    rw [hs, hu]
    exact (portFree_congr (v := s) rfl rfl rfl (fun n q => copyHead_resends s b _ n q) r).trans hf
  have he := resend_of (tm := tm) hr hp hx
  rw [if_neg (BitVec.not_lt.2 hd)] at he
  obtain ⟨w, hw⟩ := again_sends hfree
  rw [hs] at hw
  rw [hw, hu] at he
  refine ⟨_, he, ?_, fun e hm hk => ?_⟩
  · rw [hb]
    rfl
  · have := (List.mem_filter.1 hm).2
    rw [mineOf_iff.2 hk] at this
    exact Bool.noConfusion this

end

section
variable {s : State} {n : SiteNo} {q : Fin 4} {f : CopyFlight} {p : Packet} {x : Txn} {past rest : List CopyFlight}
  (ha : s.answeredBy p = some x) (hu : x.use = .copy n q) (hy : s.notYet p = false)
  (hidle : s.portIdle p.dstRtr = true) (hq : ((s.site n).queue q).flight = past ++ f :: rest)
  (ht : f.txn = some p.txn) (hp : ∀ g ∈ past, g.txn ≠ some p.txn)
include ha hu hy hidle hq ht hp

/-- A RED_ACK moves its copy on to its end. -/
theorem redAck_moves (h0 : p.status = 0) (hd : f.desc.total ≤ f.moved + spanOf x.pkt) :
    exec (.redAck p) s = .next (s.moved p n q past.length (spanOf x.pkt)) := by
  have he : (s.arrived p).redAckIn p x = s.moved p n q past.length (spanOf x.pkt) := by
    unfold State.redAckIn
    rw [hu, h0]
    exact copyAnswer_moves (answeredBy_spec ha) hq ht hp hd
  refine congrArg _ ((response_of ha hy _).trans ?_)
  rw [he]
  exact moved_idle hidle hq hd 5

/-- A RED_ACK of a final failure ends its copy. -/
theorem redAck_fails (hlen : (past ++ rest).length < 4) (h0 : p.status ≠ 0) (h5 : p.status ≠ 5) (h6 : p.status ≠ 6)
    (h10 : p.status ≠ 10) :
    exec (.redAck p) s = .next ((s.answered p).copyFail n q past.length (copyCode p.status) false) := by
  have he : (s.arrived p).redAckIn p x = (s.answered p).copyFail n q past.length (copyCode p.status) false := by
    unfold State.redAckIn
    rw [hu]
    exact copyAnswer_fails (answeredBy_spec ha) hq ht hp h0 h5 h6 h10
  refine congrArg _ ((response_of ha hy _).trans ?_)
  rw [he]
  exact answeredFail_idle hidle hq hlen _

end

section
variable {s : State} {c : RedContrib} {tm : Word64} (hd : s.isDark (fieldOfRtr c.root) = false)
  (ho : s.contribOvertakes c = false) (hp : (s.contribArrived c).portFree c.root = true)
include hd ho hp

theorem redContrib_resetting (h : s.hamletResetting (tagOf c.owned c.hamlet) = true) :
    exec (.redContrib c tm) s = .next (((s.at tm).contribArrived c).redAck c 2) := by
  rw [redContrib_of hd ho hp, if_pos h]

variable (hr : s.hamletResetting (tagOf c.owned c.hamlet) = false)
include hr

theorem redContrib_shut (h : s.groupShut c.dst (tagOf c.owned c.hamlet) = true) :
    exec (.redContrib c tm) s = .next (((s.at tm).contribArrived c).redAck c 1) := by
  rw [redContrib_of hd ho hp, if_neg (by rw [hr]; decide), if_pos h]

variable (hs : s.groupShut c.dst (tagOf c.owned c.hamlet) = false)
include hs

theorem redContrib_unsound (h : c.truncated = true ∨ c.bad = true) :
    exec (.redContrib c tm) s = .next (((s.at tm).contribArrived c).redAck c (if c.truncated then 5 else 6)) := by
  rw [redContrib_of hd ho hp, if_neg (by rw [hr]; decide), if_neg (by rw [hs]; decide)]
  cases ht : c.truncated
  · rw [if_neg (by decide), if_pos (h.resolve_left (by rw [ht]; decide)), if_neg (by decide)]
  · rw [if_pos rfl, if_pos rfl]

theorem redContrib_sound (ht : c.truncated = false) (hb : c.bad = false) :
    exec (.redContrib c tm) s = .next (((s.at tm).contribArrived c).contribute c (tagOf c.owned c.hamlet)) := by
  rw [redContrib_of hd ho hp, if_neg (by rw [hr]; decide), if_neg (by rw [hs]; decide), if_neg (by rw [ht]; decide),
    if_neg (by rw [hb]; decide)]

variable (ht : c.truncated = false) (hb : c.bad = false) (hg : treeGroup c.group = none)
include ht hb hg

/-- A first contribution of a full buffer is answered RED_RETRY, and counted (R211). -/
theorem redContrib_full (hn : s.cslot c.root c.group (tagOf c.owned c.hamlet) c.dst c.addr = none)
    (hroom : 1024 < s.combineUsed c.root + redUnits c.data (groupSize c.group)) :
    completes (.redContrib c tm) s fun t =>
      t = { s.at tm with fab := { s.fab with bufs := t.fab.bufs, flying := t.fab.flying, portLast := t.fab.portLast, redRetry := satInc s.fab.redRetry }, out := t.out } ∧
      ∃ r, t.out = s.out ++ [.packet r] ∧ r.opc = 6 ∧ r.status = 10 ∧ r.txn = c.txn := by
  have hx := redContrib_sound (tm := tm) hd ho hp hr hs ht hb
  obtain ⟨hfree, ⟨B, F, hu⟩, -, -, -, -, hout⟩ := contribArrived_meets hp tm
  have hcs : ((s.at tm).contribArrived c).cslot c.root c.group (tagOf c.owned c.hamlet) c.dst c.addr = none := by
    rw [← hn, hu]
    rfl
  have hru : 1024 < ((s.at tm).contribArrived c).combineUsed c.root + redUnits c.data (groupSize c.group) := by
    refine lt_of_lt_of_eq hroom ?_
    rw [hu]
    rfl
  rw [contribute_full hg hcs hru] at hx
  have hf' : ({ (s.at tm).contribArrived c with fab := { ((s.at tm).contribArrived c).fab with
      redRetry := satInc ((s.at tm).contribArrived c).fab.redRetry } } : State).portFree c.root = true :=
    (portFree_congr (u := { (s.at tm).contribArrived c with fab := { ((s.at tm).contribArrived c).fab with
      redRetry := satInc ((s.at tm).contribArrived c).fab.redRetry } }) (v := (s.at tm).contribArrived c) rfl rfl rfl
      (fun n q => copyHead_txns _ _ ((s.at tm).contribArrived c).fab.slots _ n q) c.root).trans hfree
  obtain ⟨hsent, hfab⟩ := redAck_sends hf' 10
  generalize State.redAck _ c 10 = t at hx hsent hfab
  unfold fabSent at hfab
  rw [hu] at hsent hfab
  obtain ⟨b, hb'⟩ := at_is s tm
  refine ⟨t, hx, ?_, ackOf c 10, ?_, rfl, rfl, rfl⟩
  · rw [hsent, hfab]
  · rw [hsent, hb']

/-- A first contribution of a group of several with room opens a slot (R210, R211). -/
theorem redContrib_opens (hn : s.cslot c.root c.group (tagOf c.owned c.hamlet) c.dst c.addr = none)
    (hroom : s.combineUsed c.root + redUnits c.data (groupSize c.group) ≤ 1024)
    (hc : c.contributor.toNat < groupSize c.group) (h1 : 1 < groupSize c.group) :
    completes (.redContrib c tm) s fun t =>
      t = { s.at tm with fab := { s.fab with slots := t.fab.slots, bufs := t.fab.bufs, flying := t.fab.flying } } ∧
      ∃ k, t.fab.slots = s.fab.slots ++ [k] ∧ k.root = c.root ∧ k.group = c.group ∧ k.tag = tagOf c.owned c.hamlet ∧
        k.dst = c.dst ∧ k.addr = c.addr ∧ k.since = (s.at tm).tb ∧ k.held = [c] ∧ k.failed = none ∧
        k.writing = false ∧ k.answered = [] ∧ k.units = redUnits c.data (groupSize c.group) := by
  have hx := redContrib_sound (tm := tm) hd ho hp hr hs ht hb
  obtain ⟨-, ⟨B, F, hu⟩, -⟩ := contribArrived_meets hp tm
  have hcs : ((s.at tm).contribArrived c).cslot c.root c.group (tagOf c.owned c.hamlet) c.dst c.addr = none := by
    rw [← hn, hu]
    rfl
  have hru : ((s.at tm).contribArrived c).combineUsed c.root + redUnits c.data (groupSize c.group) ≤ 1024 := by
    refine le_of_eq_of_le ?_ hroom
    rw [hu]
    rfl
  rw [contribute_opens hg hcs hru hc h1, hu] at hx
  exact ⟨_, hx, rfl, slotOf c (tagOf c.owned c.hamlet) (s.at tm).tb, rfl, rfl, rfl, rfl, rfl, rfl, rfl, rfl, rfl, rfl, rfl, rfl⟩

/-- The last contribution of a slot for a core sends the sum (R212). -/
theorem redContrib_sums {k : CSlot} {n : SiteNo} {sum : RedData}
    (hn : s.cslot c.root c.group (tagOf c.owned c.hamlet) c.dst c.addr = some k) (hf : k.failed = none)
    (hkd : k.dst = .core n) (hkr : k.root = c.root)
    (hal : ∀ d ∈ k.held, redAlike d.data c.data = true ∧ d.dst = c.dst ∧ d.contributor ≠ c.contributor)
    (hc : c.contributor.toNat < groupSize c.group) (hl : k.held.length + 1 = groupSize c.group)
    (hsum : redSum ((insertContrib c k.held).map (·.data)) = some sum) (hfree : (s.freeTxn c.root).isSome = true) :
    completes (.redContrib c tm) s fun t =>
      (∃ r, t.out = s.out ++ [.packet r] ∧ r.opc = 1 ∧ r.data = redBytes sum ∧ r.dstRtr = rtrOfSite n) ∧
      (∃ w ∈ t.fab.slots, w.writing = true ∧ w.held = insertContrib c k.held ∧ w.addr = k.addr) ∧
      t.sites = s.sites ∧ t.fab.txns.length = s.fab.txns.length + 1 := by
  have hx := redContrib_sound (tm := tm) hd ho hp hr hs ht hb
  obtain ⟨hport, ⟨B, F, hu⟩, -, -, -, hsites, hout⟩ := contribArrived_meets hp tm
  have hcs : ((s.at tm).contribArrived c).cslot c.root c.group (tagOf c.owned c.hamlet) c.dst c.addr = some k := by
    rw [← hn, hu]
    rfl
  have htx : ((s.at tm).contribArrived c).fab.txns = s.fab.txns := by
    rw [hu]
  have hft : (((s.at tm).contribArrived c).freeTxn c.root).isSome = true := by
    rw [← hfree]
    unfold State.freeTxn
    rw [htx]
  rw [contribute_sums hg hcs hf hkd (fun d hd' => ⟨(hal d hd').1, (hal d hd').2.2⟩) hc hl hsum] at hx
  refine ⟨_, hx, ?_⟩
  rw [← hsites, ← hout, ← htx]
  exact sum_sent hport hkr hft _ fun l q h => TxnUse.noConfusion h

end

/-- Settles O37: a contribution at its root is answered at once by the free port, opens its slot, or completes it and
sends the sum under a fresh TXN; a slot's expiry answers every contributor, at once or once the port takes it. -/
theorem combineGroups : Obligations.CombineGroups := by
  unfold Obligations.CombineGroups
  refine ⟨fun s c tm hd ho hp => ⟨fun hr => redContrib_answered hp (redContrib_resetting hd ho hp hr),
      fun hr hs => redContrib_answered hp (redContrib_shut hd ho hp hr hs),
      fun hr hs h => redContrib_answered hp (redContrib_unsound hd ho hp hr hs h),
      fun hr hs ht hb hg hn => ⟨redContrib_full hd ho hp hr hs ht hb hg hn, redContrib_opens hd ho hp hr hs ht hb hg hn⟩,
      fun k n sum hr hs ht hb hg hn hf _ hkd _ hkr hal hc hl hsum hfree =>
        redContrib_sums hd ho hp hr hs ht hb hg hn hf hkd hkr hal hc hl hsum hfree⟩,
    fun s p x n q past f rest ha hu hy hidle hq ht hp hlen => ⟨fun h0 hd => ?_, fun h0 h5 h6 h10 hh => ?_⟩,
    fun s p ha hy => ⟨_, rfl, response_late ha hy _⟩,
    fun s root tm past k rest hs hr hu hw hp hc hf => slotExpires hs hr hu hw hp hc hf,
    fun s root tm h => ⟨_, expiry_none h, rfl⟩,
    fun s r k tm due x past rest hr hp hx hs _ => ⟨fun hd hf => resend_sends hr hp hx hs hd hf,
      fun hd => ⟨_, resend_of hr hp hx, if_pos hd⟩⟩⟩
  · exact ⟨_, redAck_moves ha hu hy hidle hq ht hp h0 hd, moved_spec hq hd⟩
  · exact ⟨_, redAck_fails ha hu hy hidle hq ht hp hlen h0 h5 h6 h10, answeredFail_ends hq hh _⟩

end Sys2Proof.Machine
end

section
/-!
PROOF. The delivery limit of requests, and the fabric pause (R202, R207, R208, R215, R406, R420).
-/

namespace Sys2Proof.Machine

/-! ### What moving packets and copies leave alone: the pause, the dark fields and the tables (R202, R215) -/

/-- The pause and its request, the dark fields, those of the loaded tables, the tables' generation, and whether tables
are due. -/
def meshOf (f : Fabric) : Option Word64 × Bool × BitVec 8 × BitVec 8 × BitVec 16 × Bool :=
  (f.paused, f.pauseReq, f.dark, f.loadedDark, f.routeGen, f.tablesDue)

def State.mesh (s : State) : Option Word64 × Bool × BitVec 8 × BitVec 8 × BitVec 16 × Bool := meshOf s.fab

@[simp] theorem meshOf_parts (f : Fabric) : (f.paused, f.pauseReq, f.dark, f.loadedDark, f.routeGen, f.tablesDue) = meshOf f := (rfl)

@[simp] theorem meshOf_fab (s : State) : meshOf s.fab = s.mesh := (rfl)

/-- A fabric that is written out field by field. -/
@[simp] theorem meshOf_mk (a td ld pa b rg c d e f g h i j k l m n o p q r t u v w) :
    meshOf (Fabric.mk a td ld pa b rg c d e f g h i j k l m n o p q r t u v w) = (pa, b, a, ld, rg, td) := (rfl)

/-- A state that is written out field by field. -/
@[simp] theorem State.mesh_mk (fu a b c d e f g h cm i fab k l m n o p q r t u v w x pe) :
    (State.mk fu a b c d e f g h cm i fab k l m n o p q r t u v w x pe).mesh = meshOf fab := (rfl)

@[simp] theorem State.mesh_ite {p : Prop} [Decidable p] (a b : State) :
    (if p then a else b).mesh = if p then a.mesh else b.mesh := apply_ite State.mesh p a b

@[simp] theorem State.mesh_dite {p : Prop} [Decidable p] (a : p → State) (b : ¬ p → State) :
    (if h : p then a h else b h).mesh = if h : p then (a h).mesh else (b h).mesh := apply_dite State.mesh p a b

/-- A walk of operations that each keep the mesh keeps it. -/
@[simp] theorem State.mesh_foldl {α : Type} {f : State → α → State} (h : ∀ s a, (f s a).mesh = s.mesh)
    (l : List α) (s : State) : (l.foldl f s).mesh = s.mesh := foldl_keeps State.mesh f h l s

@[simp] theorem State.setSite_mesh (s : State) (n v) : (s.setSite n v).mesh = s.mesh := (rfl)
@[simp] theorem State.modSite_mesh (s : State) (n f) : (s.modSite n f).mesh = s.mesh := (rfl)
@[simp] theorem State.setLink_mesh (s : State) (l v) : (s.setLink l v).mesh = s.mesh := (rfl)
@[simp] theorem State.modLink_mesh (s : State) (l f) : (s.modLink l f).mesh = s.mesh := (rfl)
@[simp] theorem State.setBell_mesh (s : State) (b v) : (s.setBell b v).mesh = s.mesh := (rfl)
@[simp] theorem State.setRing_mesh (s : State) (r v) : (s.setRing r v).mesh = s.mesh := (rfl)
@[simp] theorem State.modRing_mesh (s : State) (r f) : (s.modRing r f).mesh = s.mesh := (rfl)
@[simp] theorem State.setRegion_mesh (s : State) (n v) : (s.setRegion n v).mesh = s.mesh := (rfl)
@[simp] theorem State.setDom_mesh (s : State) (d v) : (s.setDom d v).mesh = s.mesh := (rfl)
@[simp] theorem State.modDom_mesh (s : State) (d f) : (s.modDom d f).mesh = s.mesh := (rfl)
@[simp] theorem State.setLintel_mesh (s : State) (k v) : (s.setLintel k v).mesh = s.mesh := (rfl)
@[simp] theorem State.send_mesh (s : State) (o) : (s.send o).mesh = s.mesh := (rfl)
@[simp] theorem State.sendHost_mesh (s : State) (o) : (s.sendHost o).mesh = s.mesh := by simp [State.sendHost]
@[simp] theorem State.sendAll_mesh (s : State) (os) : (s.sendAll os).mesh = s.mesh := (rfl)
@[simp] theorem State.journal_mesh (s : State) (r) : (s.journal r).mesh = s.mesh := (rfl)
@[simp] theorem State.mapOut_mesh (s : State) (unit index cause) : (s.mapOut unit index cause).mesh = s.mesh := by
  simp [State.mapOut]
@[simp] theorem State.record_mesh (s : State) (r) : (s.record r).mesh = s.mesh := (rfl)
@[simp] theorem State.fault_mesh (s : State) (cls site detail addr) :
    (s.fault cls site detail addr).mesh = s.mesh := (rfl)
@[simp] theorem State.fold_mesh (s : State) (cls unit detail addr) :
    (s.fold cls unit detail addr).mesh = s.mesh := (rfl)
@[simp] theorem State.tell_mesh (s : State) (cls site detail addr) :
    (s.tell cls site detail addr).mesh = s.mesh := (rfl)
@[simp] theorem State.report_mesh (s : State) (cls site detail addr) :
    (s.report cls site detail addr).mesh = s.mesh := (rfl)
@[simp] theorem State.abandonVote_mesh (s : State) (n) : (s.abandonVote n).mesh = s.mesh := by
  unfold State.abandonVote
  split <;> simp
@[simp] theorem State.coreReset_mesh (s : State) (n keepV keepExc) :
    (s.coreReset n keepV keepExc).mesh = s.mesh := by
  simp [State.coreReset]
@[simp] theorem State.switchOff_mesh (s : State) (n) : (s.switchOff n).mesh = s.mesh := by
  simp [State.switchOff]
@[simp] theorem State.modSites_mesh (s : State) (ns f) : (s.modSites ns f).mesh = s.mesh := by
  simp [State.modSites]
@[simp] theorem State.coreResets_mesh (s : State) (ns keepExc) : (s.coreResets ns keepExc).mesh = s.mesh := by
  simp [State.coreResets]
@[simp] theorem State.setSrc_mesh (s : State) (n v) : (s.setSrc n v).mesh = s.mesh := (rfl)
@[simp] theorem State.setHolding_mesh (s : State) (g v) : (s.setHolding g v).mesh = s.mesh := (rfl)
@[simp] theorem State.modDesc_mesh (s : State) (id f) : (s.modDesc id f).mesh = s.mesh := (rfl)
@[simp] theorem State.setReady_mesh (s : State) (id status detail result) :
    (s.setReady id status detail result).mesh = s.mesh := (rfl)
@[simp] theorem State.leaveLaunch_mesh (s : State) (n) : (s.leaveLaunch n).mesh = s.mesh := by
  unfold State.leaveLaunch
  dsimp only
  split <;> simp
@[simp] theorem State.launchDone_mesh (s : State) (id) : (s.launchDone id).mesh = s.mesh := by
  unfold State.launchDone
  split <;> simp
@[simp] theorem State.endLaunch_mesh (s : State) (id status detail) :
    (s.endLaunch id status detail).mesh = s.mesh := by
  unfold State.endLaunch
  dsimp only
  split <;> simp
@[simp] theorem State.toHost_mesh (s : State) (r addr data) : (s.toHost r addr data).mesh = s.mesh := by
  simp [State.toHost]
@[simp] theorem State.setBuf_mesh (s : State) (r inp plane l) :
    (s.setBuf r inp plane l).mesh = s.mesh := (rfl)
@[simp] theorem State.enter_mesh (s : State) (p) : (s.enter p).mesh = s.mesh := (rfl)
@[simp] theorem State.arrived_mesh (s : State) (p) : (s.arrived p).mesh = s.mesh := (rfl)
@[simp] theorem State.losePacket_mesh (s : State) (p) : (s.losePacket p).mesh = s.mesh := (rfl)
@[simp] theorem State.putWords_mesh (s : State) (bs bad) {f : State → Nat → List Byte → State}
    (h : ∀ s i w, (f s i w).mesh = s.mesh) : (s.putWords bs bad f).mesh = s.mesh := by
  simp [State.putWords, h]
@[simp] theorem State.credits_mesh (s : State) (l r) : (s.credits l r).mesh = s.mesh := (rfl)
@[simp] theorem State.unitsOut_mesh (s : State) (l p) : (s.unitsOut l p).mesh = s.mesh := (rfl)
@[simp] theorem State.dropTxn_mesh (s : State) (r t) : (s.dropTxn r t).mesh = s.mesh := (rfl)
@[simp] theorem State.inject_mesh (s : State) (p use k) : (s.inject p use k).mesh = s.mesh := (rfl)
@[simp] theorem State.queueAt_mesh (s : State) (e) : (s.queueAt e).mesh = s.mesh := (rfl)
@[simp] theorem State.restartTxn_mesh (s : State) (r t) : (s.restartTxn r t).mesh = s.mesh := (rfl)
@[simp] theorem State.sendQueued_mesh (s : State) (e) : (s.sendQueued e).mesh = s.mesh := by
  unfold State.sendQueued
  dsimp only
  (repeat' split) <;> simp
@[simp] theorem State.handPort_mesh (s : State) (e) : (s.handPort e).mesh = s.mesh := by simp [State.handPort]
@[simp] theorem State.leaveTxn_mesh (s : State) (r t) : (s.leaveTxn r t).mesh = s.mesh := by
  simp [State.leaveTxn]
@[simp] theorem State.flush_mesh (s : State) (l) : (s.flush l).mesh = s.mesh := by simp [State.flush]
@[simp] theorem State.sendLink_mesh (s : State) (l p) : (s.sendLink l p).mesh = s.mesh := by
  simp [State.sendLink]
@[simp] theorem State.remoteReply_mesh (s : State) (l q opc st data) :
    (s.remoteReply l q opc st data).mesh = s.mesh := by
  unfold State.remoteReply
  split <;> simp
@[simp] theorem State.bellFail_mesh (s : State) (site st) : (s.bellFail site st).mesh = s.mesh := (rfl)
@[simp] theorem State.bellCount_mesh (s : State) : s.bellCount.mesh = s.mesh := (rfl)
@[simp] theorem State.bellOpEnd_mesh (s : State) (id st img) : (s.bellOpEnd id st img).mesh = s.mesh := by
  unfold State.bellOpEnd
  dsimp only
  (repeat' split) <;> simp
@[simp] theorem State.bellEnds_mesh (s : State) (who st img) : (s.bellEnds who st img).mesh = s.mesh := by
  unfold State.bellEnds
  dsimp only
  (repeat' split) <;> simp
@[simp] theorem State.sendBell_mesh (s : State) (src who m) : (s.sendBell src who m).mesh = s.mesh := by
  unfold State.sendBell
  dsimp only
  split <;> simp
@[simp] theorem State.bellFrom_mesh (s : State) (n m) : (s.bellFrom n m).mesh = s.mesh := by
  simp [State.bellFrom]
@[simp] theorem State.coreBell_mesh (s : State) (n m) : (s.coreBell n m).mesh = s.mesh := by
  simp [State.coreBell]
@[simp] theorem State.bellDrain_mesh (s : State) (n k) : (s.bellDrain n k).mesh = s.mesh := by
  induction k generalizing s with
  | zero => rfl
  | succ k ih =>
    unfold State.bellDrain
    split
    · split <;> simp [ih]
    · rfl
@[simp] theorem State.bellDone_mesh (s : State) (who st img) : (s.bellDone who st img).mesh = s.mesh := by
  unfold State.bellDone
  split <;> simp
@[simp] theorem State.refuse_mesh (s : State) (l p st) : (s.refuse l p st).mesh = s.mesh := by
  unfold State.refuse
  split <;> simp
@[simp] theorem State.transit_mesh (s : State) (l p) : (s.transit l p).mesh = s.mesh := by
  unfold State.transit
  dsimp only
  (repeat' split) <;> simp
@[simp] theorem State.transitsGo_mesh (s : State) : s.transitsGo.mesh = s.mesh := by simp [State.transitsGo]
@[simp] theorem State.hwFault_mesh (s : State) (n cls detail addr) :
    (s.hwFault n cls detail addr).mesh = s.mesh := (rfl)
@[simp] theorem State.corrected_mesh (s : State) (n store off) :
    (s.corrected n store off).mesh = s.mesh := (rfl)
@[simp] theorem State.wsLost_mesh (s : State) (n off) : (s.wsLost n off).mesh = s.mesh := by
  simp [State.wsLost]
@[simp] theorem State.leaveFlight_mesh (s : State) (n q i f) : (s.leaveFlight n q i f).mesh = s.mesh := by
  unfold State.leaveFlight
  split <;> simp
@[simp] theorem State.hostAuthFail_mesh (s : State) (o addr) : (s.hostAuthFail o addr).mesh = s.mesh := by
  unfold State.hostAuthFail
  split <;> simp
@[simp] theorem State.copyFail_mesh (s : State) (n q i code parity) :
    (s.copyFail n q i code parity).mesh = s.mesh := by
  unfold State.copyFail
  split <;> simp
@[simp] theorem State.sendOffer_mesh (s : State) (o) : (s.sendOffer o).mesh = s.mesh := by
  unfold State.sendOffer
  split
  · exact s.sendQueued_mesh _
  · split <;> simp
@[simp] theorem State.markWaits_mesh (s : State) (r) : (s.markWaits r).mesh = s.mesh := by
  unfold State.markWaits
  split
  · rfl
  · refine State.mesh_foldl (fun s q => ?_) _ _
    split <;> simp
@[simp] theorem State.servePort_mesh (s : State) (r k) : (s.servePort r k).mesh = s.mesh := by
  induction k generalizing s with
  | zero => simp [State.servePort]
  | succ k ih => unfold State.servePort; split <;> simp [ih]
@[simp] theorem State.ask_mesh (s : State) (p use) : (s.ask p use).mesh = s.mesh := by simp [State.ask]
@[simp] theorem State.respond_mesh (s : State) (p) : (s.respond p).mesh = s.mesh := by simp [State.respond]
@[simp] theorem State.pump_mesh (s : State) (n q i) : (s.pump n q i).mesh = s.mesh := by
  unfold State.pump
  split
  · rfl
  · split
    · rfl
    · split <;> simp
@[simp] theorem State.pumpSite_mesh (s : State) (n) : (s.pumpSite n).mesh = s.mesh := by simp [State.pumpSite]
@[simp] theorem State.copyMoved_mesh (s : State) (n q i span) : (s.copyMoved n q i span).mesh = s.mesh := by
  simp [State.copyMoved]
@[simp] theorem State.sendAgain_mesh (s : State) (x) : (s.sendAgain x).mesh = s.mesh := by
  simp [State.sendAgain]
@[simp] theorem State.copyAnswer_mesh (s : State) (x n q st span) :
    (s.copyAnswer x n q st span).mesh = s.mesh := by
  unfold State.copyAnswer
  split <;> simp
@[simp] theorem State.redAck_mesh (s : State) (c st) : (s.redAck c st).mesh = s.mesh := by simp [State.redAck]
@[simp] theorem State.setCslot_mesh (s : State) (k v) : (s.setCslot k v).mesh = s.mesh := (rfl)
@[simp] theorem State.answerAll_mesh (s : State) (k st) : (s.answerAll k st).mesh = s.mesh := by
  simp [State.answerAll]
@[simp] theorem State.ackIn_mesh (s : State) (p x) : (s.ackIn p x).mesh = s.mesh := by
  unfold State.ackIn
  dsimp only
  (repeat' split) <;> simp
@[simp] theorem State.serveAll_mesh (s : State) : s.serveAll.mesh = s.mesh := by simp [State.serveAll]
@[simp] theorem State.unroutable_mesh (s : State) (e) : (s.unroutable e).mesh = s.mesh := by
  unfold State.unroutable
  dsimp only
  (repeat' split) <;> simp

/-! ### The delivery limit (R208, R406) -/

section
variable {s u : State} {r : Fin 64} {k : BitVec 10} {tm : Word64} {x : Txn} {n : SiteNo} {q : Fin 4} {f : CopyFlight}
  {past rest : List CopyFlight}

theorem txnOf_spec (h : s.txnOf r k = some x) : x.rtr = r ∧ x.txn = k := by
  have := List.find?_some h
  simpa only [Bool.and_eq_true, decide_eq_true_eq] using this

theorem fault_ways (u : State) (cls : BitVec 16) (o : Option SiteNo) (d : Word32) (a : Word64) : sameWays u (u.fault cls o d a) := by
  have h : u.fault cls o d a = { u with flt := (u.fault cls o d a).flt, jrnl := (u.fault cls o d a).jrnl,
                                        mem := { u.mem with ddr := u.mem.ddr } } := rfl
  rw [h]
  exact sameWays_log u _ _ _

/-- The state in which the limit of a request is over: it awaits nothing more, is counted, and is recorded. -/
def State.limitOver (s : State) (x : Txn) (n : SiteNo) : State :=
  let s := s.dropTxn x.rtr x.txn
  ({ s with fab := { s.fab with
    timeouts := satInc s.fab.timeouts,
    waiting := s.fab.waiting.filter fun e => !e.isAgain x.rtr x.txn,
    resends := s.fab.resends.filter fun e => !(decide (e.1 = x.rtr) && decide (e.2.1 = x.txn)) } }).fault 0x0106 (some n)
      (fieldAt (x.pkt.opc.extractLsb' 0 4) 0 ||| BitVec.ofNat 32 (x.pkt.dstRtr.val * 16)) (x.pkt.addr.setWidth 64)

theorem limitOver_ways (s : State) (x : Txn) (n : SiteNo) : sameWays s (s.limitOver x n) ∧
    (s.limitOver x n).sites = s.sites := by
  refine ⟨?_, rfl⟩
  unfold State.limitOver
  dsimp only
  refine sameWays_trans (sameWays_fab s _ _ _ _ _ _ _ s.out) (fault_ways _ _ _ _ _)

theorem limitOver_fab (s : State) (x : Txn) (n : SiteNo) : (s.limitOver x n).fab.timeouts = satInc s.fab.timeouts ∧
    (s.fab.waiting = [] → (s.limitOver x n).fab.waiting = []) ∧ (s.limitOver x n).notOut x.rtr x.txn := by
  refine ⟨rfl, fun h => ?_, fun y hy => dropTxn_notOut s x.rtr x.txn y hy⟩
  change s.fab.waiting.filter _ = []
  rw [h]
  rfl

theorem limitOver_idle (hw : s.fab.waiting = []) (hc : s.noCopies r) (x : Txn) (n : SiteNo) :
    (s.limitOver x n).fab.waiting = [] ∧ (s.limitOver x n).noCopies r := by
  obtain ⟨hways, hs⟩ := limitOver_ways s x n
  have hsite (m : SiteNo) : (s.limitOver x n).site m = s.site m := by
    unfold State.site
    rw [hs]
  exact ⟨(limitOver_fab s x n).2.1 hw, noCopies_sites hc hways (fun m => by rw [hsite]) fun m => by rw [hsite]⟩

/-- The flight of a copy whose request has come to its limit fails with TIMEOUT. -/
theorem deliveryOver_copy (hx : x.use = .copy n q) (hw : s.fab.waiting = []) (hc : s.noCopies x.rtr)
    (hq : ((s.site n).queue q).flight = past ++ f :: rest) (ht : f.txn = some x.txn) (hp : ∀ g ∈ past, g.txn ≠ some x.txn)
    (hlen : (past ++ rest).length < 4) :
    s.deliveryOver x = (s.limitOver x n).copyFail n q past.length 1 false := by
  obtain ⟨hw', hc'⟩ := limitOver_idle hw hc x n
  have hq' : (((s.limitOver x n).site n).queue q).flight = past ++ f :: rest := by
    have : (s.limitOver x n).site n = s.site n := rfl
    rw [this]
    exact hq
  have ho := flightOf_after (s := s.limitOver x n) hq' ht hp
  have he : s.deliveryOver x = ((s.limitOver x n).copyFail n q past.length 1 false).servePort x.rtr 5 := by
    unfold State.deliveryOver
    rw [hx]
    dsimp only
    change (match ((s.limitOver x n).site n).flightOf q x.txn with
      | some i => (s.limitOver x n).copyFail n q i 1 false | none => s.limitOver x n).servePort x.rtr 5 = _
    rw [ho]
  rw [he]
  exact copyFail_idle hw' hc' hq' hlen 1 false 5

/-- What the end of a request of a copy by its limit leaves. -/
theorem deliveryOver_ends (hx : x.use = .copy n q) (hw : s.fab.waiting = []) (hc : s.noCopies x.rtr)
    (hq : ((s.site n).queue q).flight = past ++ f :: rest) (ht : f.txn = some x.txn) (hp : ∀ g ∈ past, g.txn ≠ some x.txn)
    (hlen : (past ++ rest).length < 4) (hh : ((s.site n).queue q).halted = false) :
    let t := s.deliveryOver x
    t.txnOf x.rtr x.txn = none ∧ t.fab.timeouts = satInc s.fab.timeouts ∧ (∀ m, m ≠ n → t.site m = s.site m) ∧
      (t.site n).queue q = { (s.site n).queue q with flight := past ++ rest, halted := true, err := 1, errTag := f.desc.tag } ∧
      told s t 0x000F (some n) := by
  intro t
  have he : t = (s.limitOver x n).copyFail n q past.length 1 false := deliveryOver_copy hx hw hc hq ht hp hlen
  obtain ⟨hto, -, hno⟩ := limitOver_fab s x n
  have hflt : (s.limitOver x n).flt.reports = s.flt.reports := rfl
  have hsite (m : SiteNo) : (s.limitOver x n).site m = s.site m := rfl
  have hq' : (((s.limitOver x n).site n).queue q).flight = past ++ f :: rest := by
    rw [hsite]
    exact hq
  have hh' : (((s.limitOver x n).site n).queue q).halted = false := by
    rw [hsite]
    exact hh
  obtain ⟨h1, h2, h3⟩ := copyFail_ends hq' 1 false hno hh'
  obtain ⟨-, h4⟩ := copyFail_told (s := s.limitOver x n) (flightAt_after hq') (code := 1) (by decide) false
  obtain ⟨u, hu, hlog⟩ := copyFail_left (s := s.limitOver x n) (flightAt_after hq') 1 false
  rw [hsite] at h3
  rw [he]
  refine ⟨h1, ?_, fun m hm => (h2 m hm).trans (hsite m), h3, ?_⟩
  · obtain ⟨W, R, T, hue, -⟩ := hu
    rw [hlog.1, ← hto, hue]
  · unfold told at h4 ⊢
    rw [hflt] at h4
    exact h4

theorem timeout_at (s : State) (tm : Word64) : (s.at tm).fab = s.fab ∧ (∀ m, (s.at tm).site m = s.site m) ∧
    (∀ n q, (s.at tm).copyHead n q = s.copyHead n q) := by
  obtain ⟨b, hb⟩ := at_is s tm
  rw [hb]
  exact ⟨rfl, fun _ => rfl, fun n q => copyHead_resends s b s.fab.resends n q⟩

theorem heldBack_idle (hw : s.fab.waiting = []) (r : Fin 64) (k : BitVec 10) : s.heldBack r k = false := by
  unfold State.heldBack
  rw [hw]
  rfl

theorem deliveryTimeout_none (h : s.txnOf r k = none ∨ ∃ x, s.txnOf r k = some x ∧
    ((windowOver x.since 100000 (s.at tm).tb = false ∧ (s.at tm).copyCut x = false) ∨ s.heldBack r k = true)) :
    exec (.deliveryTimeout r k tm) s = .next (s.at tm) := by
  obtain ⟨hfab, -⟩ := timeout_at s tm
  have htx : (s.at tm).txnOf r k = s.txnOf r k := by
    unfold State.txnOf
    rw [hfab]
  have hhb : (s.at tm).heldBack r k = s.heldBack r k := by
    unfold State.heldBack
    rw [hfab]
  change execDeliveryTimeout r k tm s = _
  unfold execDeliveryTimeout
  dsimp only
  rw [htx, hhb]
  rcases h with h | ⟨x, h, hk⟩
  · rw [h]
  · rw [h]
    dsimp only
    refine if_pos (hk.imp (fun hk => ?_) id)
    rw [hk.1, hk.2]
    rfl

theorem deliveryTimeout_of (h : s.txnOf r k = some x) (hu : x.use = .copy n q)
    (hq : ((s.site n).queue q).flight = past ++ f :: rest) (hf : f.txn = some k)
    (ho : windowOver x.since 100000 (s.at tm).tb = true ∨ windowOver f.since (f.desc.limit - 1) (s.at tm).tb = true)
    (hw : s.fab.waiting = []) : exec (.deliveryTimeout r k tm) s = .next ((s.at tm).deliveryOver x) := by
  obtain ⟨hfab, hsite, -⟩ := timeout_at s tm
  have htx : (s.at tm).txnOf r k = some x := by
    rw [← h]
    unfold State.txnOf
    rw [hfab]
  have hhb : (s.at tm).heldBack r k = false := heldBack_idle (by rw [hfab]; exact hw) r k
  have hover : (windowOver x.since 100000 (s.at tm).tb || (s.at tm).copyCut x) = true := by
    rcases ho with ho | ho
    · rw [ho]
      rfl
    · rw [Bool.or_eq_true]
      refine .inr ?_
      unfold State.copyCut
      rw [hu]
      dsimp only
      rw [hsite, hq]
      refine List.any_eq_true.2 ⟨f, List.mem_append_right _ List.mem_cons_self, ?_⟩
      rw [ho, hf, (txnOf_spec h).2]
      simp
  change execDeliveryTimeout r k tm s = _
  unfold execDeliveryTimeout
  dsimp only
  rw [htx]
  dsimp only
  rw [hhb, hover]
  exact if_neg (by decide)

end

section
variable {s : State} {k : BitVec 10} {tm : Word64} {x : Txn} {n : SiteNo} {q : Fin 4} {f : CopyFlight}
  {past rest : List CopyFlight} {obs : StallObs}

/-- A copy whose limit is over. -/
def overdueAt (obs : StallObs) (tb : Word64) (f : CopyFlight) : Bool :=
  windowOver (f.stalledFrom obs) f.desc.limit tb && decide (f.moved < f.desc.total)

theorem copyTimeout_request (h : s.txnOf (rtrOfSite n) k = some x) (hq : ((s.site n).queue q).flight = past ++ f :: rest)
    (hp : ∀ g ∈ past, windowOver (g.stalledFrom obs) g.desc.limit (s.at tm).tb = false ∧ g.txn ≠ some k)
    (ho : windowOver (f.stalledFrom obs) f.desc.limit (s.at tm).tb = true) (hm : f.moved < f.desc.total)
    (hf : f.txn = some k) (hw : s.fab.waiting = []) :
    exec (.copyTimeout n q tm obs) s = .next ((s.at tm).deliveryOver x) := by
  obtain ⟨hfab, hsite, -⟩ := timeout_at s tm
  have hq' : (((s.at tm).site n).queue q).flight = past ++ f :: rest := by
    rw [hsite]
    exact hq
  have hfind : (((s.at tm).site n).queue q).flight.findIdx? (overdueAt obs (s.at tm).tb) = some past.length := by
    have hover : overdueAt obs (s.at tm).tb f = true := by
      unfold overdueAt
      rw [ho, decide_eq_true hm]
      rfl
    rw [hq', List.findIdx?_append, List.findIdx?_eq_none_iff.2 fun g hg => ?_, List.findIdx?_cons, if_pos hover]
    · simp
    · unfold overdueAt
      rw [(hp g hg).1]
      rfl
  have htx : (s.at tm).copyTxn n f = some x := by
    unfold State.copyTxn
    rw [hf]
    dsimp only
    rw [heldBack_idle (by rw [hfab]; exact hw), ← h]
    unfold State.txnOf
    rw [hfab]
    rfl
  change execCopyTimeout n q tm obs s = _
  unfold execCopyTimeout
  dsimp only
  unfold overdueAt at hfind
  rw [hfind]
  dsimp only
  rw [flightAt_after hq']
  dsimp only
  rw [htx]

end

/-! ### The pause (R202, R207, R215) -/

section
variable {s u v w : State} {x : Lane} {tm t0 : Word64}

theorem fabricPause_starts (h : s.fab.paused = none) :
    exec (.fabricPause tm) s = .next { s.at tm with fab := { s.fab with paused := some (s.at tm).tb } } := by
  obtain ⟨b, hb⟩ := at_is s tm
  change execFabricPause tm s = _
  unfold execFabricPause
  rw [hb]
  dsimp only
  rw [h]

theorem fabricPause_latches (h : s.fab.paused.isSome = true) :
    exec (.fabricPause tm) s = .next { s.at tm with fab := { s.fab with pauseReq := true } } := by
  obtain ⟨b, hb⟩ := at_is s tm
  obtain ⟨p, hp⟩ := Option.isSome_iff_exists.1 h
  change execFabricPause tm s = _
  unfold execFabricPause
  rw [hb]
  dsimp only
  rw [hp]

theorem losePacket_flying (s : State) (L : List Packet) :
    ∃ F, L.foldl State.losePacket s = { s with fab := { s.fab with flying := F } } := by
  induction L generalizing s with
  | nil => exact ⟨s.fab.flying, rfl⟩
  | cons p L ih =>
    obtain ⟨F, hF⟩ := ih (s.losePacket p)
    exact ⟨F, hF⟩

theorem loseBufs_all (s : State) : ∃ F, (s.loseBufs fun _ => true) = { s with fab := { s.fab with bufs := [], flying := F } } := by
  have hb : (s.fab.bufs.filter fun _ => !true) = [] := List.filter_eq_nil_iff.2 fun _ _ => Bool.false_ne_true
  obtain ⟨F, hF⟩ := losePacket_flying { s with fab := { s.fab with bufs := s.fab.bufs.filter fun _ => !true } }
    ((s.fab.bufs.filter fun _ => true).flatMap (·.2))
  refine ⟨F, ?_⟩
  unfold State.loseBufs
  dsimp only
  rw [hF, hb]

theorem pauseTimeout_of (h : s.fab.paused = some t0) : exec (.pauseTimeout tm) s =
    .next (if windowOver t0 20000 (s.at tm).tb then (s.at tm).loseBufs fun _ => true else s.at tm) := by
  change execPauseTimeout tm s = _
  unfold execPauseTimeout
  dsimp only
  rw [slots_at, h]
  dsimp only
  rw [apply_ite Host.Outcome.next]

/-- The links that a pause finds absent: the list of absent links, the tables due, and the log. -/
def absented (u v : State) : Prop := ∃ A D F J,
  v = { u with fab := { u.fab with absent := A, tablesDue := D }, flt := F, jrnl := J } ∧ (u.fab.tablesDue = true → D = true)

theorem absented_refl (u : State) : absented u u := ⟨_, _, _, _, rfl, id⟩

theorem absented_trans (u v w : State) (h : absented u v) (k : absented v w) : absented u w := by
  obtain ⟨A, D, F, J, rfl, h1⟩ := h
  obtain ⟨A', D', F', J', rfl, h2⟩ := k
  exact ⟨A', D', F', J', rfl, fun h => h2 (h1 h)⟩

theorem absented_step (s : State) (p : Prop) [Decidable p] (A : List (Fin 64 × Fin 4)) (d : Word32) (a : Word64) :
    absented s (if p then s else ({ s with fab := { s.fab with absent := A, tablesDue := true } }).fault 0x0104 none d a) := by
  split
  · exact absented_refl s
  · exact ⟨_, true, _, _, rfl, fun _ => rfl⟩

theorem absentLinks_absented (s : State) : absented s s.absentLinks := by
  unfold State.absentLinks
  refine foldl_related absented_refl absented_trans (fun s r => foldl_related absented_refl absented_trans (fun s i => ?_) _ s) _ s
  dsimp only
  split <;> exact absented_step s _ _ _ _

@[simp] theorem State.planeOff_mesh (s : State) (x) : (s.planeOff x).mesh = s.mesh := by
  unfold State.planeOff
  split <;> simp
@[simp] theorem State.takeSpare_mesh (s : State) (x) : (s.takeSpare x).mesh = s.mesh := by
  unfold State.takeSpare
  split <;> simp
@[simp] theorem State.repairLane_mesh (s : State) (x) : (s.repairLane x).mesh = s.mesh := by
  simp [State.repairLane]

/-- What the tables' loading leaves of the pause and the tables (R215). -/
theorem loadTables_mesh (s : State) : s.loadTables.mesh = if s.fab.tablesDue then
    (s.fab.paused, s.fab.pauseReq, s.fab.dark, s.fab.dark, s.fab.routeGen + 1, false) else s.mesh := by
  unfold State.loadTables
  split
  · rw [State.mesh_foldl State.unroutable_mesh]
    rfl
  · rfl

/-- The state that a pause with nothing in flight repairs and loads. -/
def State.lanesMended (s : State) (ls : List Lane) : State :=
  (((ls ++ s.fab.marked).foldl State.repairLane { s with fab := { s.fab with marked := [] } }).absentLinks).loadTables

/-- A state in which no pause runs. -/
def State.unpaused (s : State) : State := { s with fab := { s.fab with paused := none } }

theorem pauseDrained_of {ls : List Lane} (hp : s.fab.paused.isSome = true) (hb : s.fab.bufs = []) :
    exec (.pauseDrained ls) s =
      (let u := s.lanesMended ls
       if u.fab.pauseReq then .next { u with fab := { u.fab with paused := some u.tb, pauseReq := false } }
       else .next u.unpaused.serveAll) := by
  change execPauseDrained ls s = _
  unfold execPauseDrained State.lanesMended State.unpaused
  rw [if_neg]
  rintro (h | h)
  · obtain ⟨p, hs⟩ := Option.isSome_iff_exists.1 hp
    rw [hs] at h
    exact Bool.noConfusion h
  · exact h hb

theorem pauseDrained_waits {ls : List Lane} (h : s.fab.paused = none ∨ s.fab.bufs ≠ []) :
    exec (.pauseDrained ls) s = .next s := by
  refine if_pos (h.imp (fun h => ?_) id)
  rw [h]
  rfl

end

section
variable {s u v t : State} {x : Lane}

theorem mesh_eq : s.mesh = t.mesh ↔ s.fab.paused = t.fab.paused ∧ s.fab.pauseReq = t.fab.pauseReq ∧
    s.fab.dark = t.fab.dark ∧ s.fab.loadedDark = t.fab.loadedDark ∧ s.fab.routeGen = t.fab.routeGen ∧
    s.fab.tablesDue = t.fab.tablesDue := by
  unfold State.mesh meshOf
  simp only [Prod.mk.injEq]

/-- A pause whose request is not latched ends, with the tables loaded that are due (R202, R215). -/
theorem pauseDrained_ends (hp : s.fab.paused.isSome = true) (hb : s.fab.bufs = []) (hr : s.fab.pauseReq = false) :
    completes (.pauseDrained []) s fun t => t.fab.paused = none ∧ t.fab.tablesDue = false ∧
      (s.fab.tablesDue = true → t.fab.loadedDark = s.fab.dark ∧ t.fab.routeGen = s.fab.routeGen + 1) := by
  have hx := pauseDrained_of (ls := []) hp hb
  dsimp only at hx
  have hm0 : (([] ++ s.fab.marked).foldl State.repairLane { s with fab := { s.fab with marked := [] } }).mesh = s.mesh :=
    (State.mesh_foldl State.repairLane_mesh _ _).trans rfl
  have hu : s.lanesMended [] = ((([] ++ s.fab.marked).foldl State.repairLane
    { s with fab := { s.fab with marked := [] } }).absentLinks).loadTables := rfl
  generalize s.lanesMended [] = u at hx hu
  generalize ([] ++ s.fab.marked).foldl State.repairLane _ = v at hm0 hu
  obtain ⟨h1, h2, h3, h4, h5, h6⟩ := mesh_eq.1 hm0
  obtain ⟨A, D, F, J, ha, hD⟩ := absentLinks_absented v
  have hl := loadTables_mesh v.absentLinks
  rw [← hu, ha] at hl
  have hl' : u.mesh = if D then (v.fab.paused, v.fab.pauseReq, v.fab.dark, v.fab.dark, v.fab.routeGen + 1, false)
      else (v.fab.paused, v.fab.pauseReq, v.fab.dark, v.fab.loadedDark, v.fab.routeGen, D) := hl
  rw [h1, h2, h3, h4, h5] at hl'
  have hreq : u.fab.pauseReq = false := by
    rw [← hr]
    have : u.mesh.2.1 = u.fab.pauseReq := rfl
    rw [← this, hl']
    split <;> rfl
  simp only [hreq, Bool.false_eq_true, if_false] at hx
  have hs := State.serveAll_mesh u.unpaused
  generalize u.unpaused.serveAll = t at hx hs
  obtain ⟨k1, k2, k3, k4, k5, k6⟩ := mesh_eq.1 hs
  have hdue : u.fab.tablesDue = false := by
    have : u.mesh.2.2.2.2.2 = u.fab.tablesDue := rfl
    rw [← this, hl']
    cases D <;> rfl
  have hload (htd : s.fab.tablesDue = true) : u.fab.loadedDark = s.fab.dark ∧ u.fab.routeGen = s.fab.routeGen + 1 := by
    have e1 : u.mesh.2.2.2.1 = u.fab.loadedDark := rfl
    have e2 : u.mesh.2.2.2.2.1 = u.fab.routeGen := rfl
    rw [← e1, ← e2, hl', hD (h6.trans htd)]
    exact ⟨rfl, rfl⟩
  exact ⟨t, hx, k1, k6.trans hdue, fun htd => ⟨k4.trans (hload htd).1, k5.trans (hload htd).2⟩⟩

/-- With nothing that waits, tables are loaded and nothing else happens. -/
theorem loadTables_idle (h : s.fab.waiting = []) : ∃ d l A g, s.loadTables =
    { s with fab := { s.fab with tablesDue := d, loadedDark := l, loadedAbsent := A, routeGen := g } } := by
  unfold State.loadTables
  split
  · refine ⟨false, s.fab.dark, s.fab.absent, s.fab.routeGen + 1, ?_⟩
    dsimp only
    rw [h]
    rfl
  · exact ⟨_, _, _, _, rfl⟩

/-- What the mesh's links are after a pause: the lintels, the spares taken and the planes out of service. -/
def lanesAs (v t : State) : Prop := t.fab.lintels = v.fab.lintels ∧ t.fab.meshSpared = v.fab.meshSpared ∧
  t.fab.meshDown = v.fab.meshDown

theorem lanesAs_reads (h : lanesAs v t) : (∀ x, t.laneSpared x = v.laneSpared x) ∧
    (∀ r i y, t.planeDownAt r i y = v.planeDownAt r i y) ∧ ∀ k, t.lintel k = v.lintel k := by
  obtain ⟨h1, h2, h3⟩ := h
  have hl (k : Nat) : t.lintel k = v.lintel k := by
    unfold State.lintel
    rw [h1]
  refine ⟨fun x => ?_, fun r i y => ?_, hl⟩
  · unfold State.laneSpared
    rw [h2]
    simp only [hl]
  · unfold State.planeDownAt
    rw [h3]
    simp only [hl]

/-- What the repair of a lane changes: the mesh's lanes, and the log. -/
def lanesAndLog (u v : State) : Prop := 
  v = { u with fab := { u.fab with lintels := v.fab.lintels, meshSpared := v.fab.meshSpared, meshDown := v.fab.meshDown },
               flt := v.flt, jrnl := v.jrnl }

theorem repairLane_frame (u : State) (x : Lane) : lanesAndLog u (u.repairLane x) := by
  unfold State.repairLane
  split
  · rfl
  · split
    · unfold State.planeOff
      split <;> rfl
    · unfold State.takeSpare
      split
      · rw [mapOut_frame]
        rfl
      · rfl

/-- A latched request starts the next pause, with the faulty lane repaired (R207, R420). -/
theorem pauseDrained_again (hp : s.fab.paused.isSome = true) (hb : s.fab.bufs = []) (hr : s.fab.pauseReq = true)
    (hm : s.fab.marked = []) (hw : s.fab.waiting = []) (x : Lane) :
    ∃ t, exec (.pauseDrained [x]) s = .next t ∧ t.fab.paused = some s.tb ∧ t.fab.pauseReq = false ∧ t.sites = s.sites ∧
      lanesAs (({ s with fab := { s.fab with marked := [] } } : State).repairLane x) t := by
  have hx := pauseDrained_of (ls := [x]) hp hb
  dsimp only at hx
  have hu : s.lanesMended [x] = (({ s with fab := { s.fab with marked := [] } } : State).repairLane x).absentLinks.loadTables := by
    unfold State.lanesMended
    rw [hm]
    rfl
  have hf := repairLane_frame { s with fab := { s.fab with marked := [] } } x
  generalize s.lanesMended [x] = u at hx hu
  generalize State.repairLane { s with fab := { s.fab with marked := [] } } x = v at hu hf ⊢
  obtain ⟨A, D, F, J, ha, -⟩ := absentLinks_absented v
  have hvw : v.absentLinks.fab.waiting = [] := by
    rw [ha, hf]
    exact hw
  obtain ⟨d, l, B, g, hl⟩ := loadTables_idle hvw
  rw [← hu, ha, hf] at hl
  have hreq : u.fab.pauseReq = true := by
    rw [hl]
    exact hr
  have hx := hx.trans (if_pos hreq)
  refine ⟨_, hx, ?_, rfl, ?_, ?_, ?_, ?_⟩ <;> rw [hl]

end

/-! ### Lanes that are repaired (R207) -/

section
variable {s : State} {x : Lane}

theorem lintelAt_lt {r : Fin 64} {i lt l : Nat} (h : lintelAt r i = some (lt, l)) : l < 4 := by
  unfold lintelAt at h
  dsimp only at h
  split at h
  · exact nomatch h
  · split at h <;> obtain ⟨-, rfl⟩ := Prod.mk.inj (Option.some.inj h) <;> omega

/-- A faulty lane whose group has its spare takes it. -/
theorem takeSpare_spec (s : State) (x : Lane) : let t := s.takeSpare x
    t.laneSpared x = true ∧
      (∀ lt l, lintelAt x.rtr x.inp.val = some (lt, l) → t.fab.meshSpared = s.fab.meshSpared ∧
        (t.lintel lt).spares = satInc (s.lintel lt).spares ∧ (t.lintel lt).planeDown = (s.lintel lt).planeDown ∧
        ∀ k, k ≠ lt → t.lintel k = s.lintel k) ∧
      (lintelAt x.rtr x.inp.val = none → t.fab.meshSpared = s.fab.meshSpared ++ [x] ∧ t.fab.lintels = s.fab.lintels) := by
  cases hl : lintelAt x.rtr x.inp.val with
  | none =>
    have ht : s.takeSpare x = { s.fault 0x0102 none (laneDetail x ||| fieldAt x.group 8) 0 with
        fab := { s.fab with meshSpared := s.fab.meshSpared ++ [x] } } := by
      unfold State.takeSpare
      rw [hl]
      rfl
    rw [ht]
    refine ⟨?_, fun _ _ h => (nomatch h), fun _ => ⟨rfl, rfl⟩⟩
    unfold State.laneSpared
    rw [hl]
    exact List.contains_iff_mem.2 (List.mem_append_right _ List.mem_cons_self)
  | some y =>
    obtain ⟨lt, l⟩ := y
    have ht : ∃ key F J, s.takeSpare x = { s.setLintel lt { s.lintel lt with
        spared := (s.lintel lt).spared ++ [key], spares := satInc (s.lintel lt).spares } with flt := F, jrnl := J } ∧
        key = ((⟨l % 4, by omega⟩ : Fin 4), x.plane, fromHigher x.rtr x.inp.val, x.group) := by
      unfold State.takeSpare
      rw [hl]
      dsimp only
      rw [mapOut_frame]
      exact ⟨_, _, _, rfl, rfl⟩
    obtain ⟨key, F, J, ht, hkey⟩ := ht
    have hlt : (s.takeSpare x).lintel lt = { s.lintel lt with
        spared := (s.lintel lt).spared ++ [key], spares := satInc (s.lintel lt).spares } := by
      rw [ht]
      exact tget_tset_same _ _ _ _
    refine ⟨?_, fun lt' l' h => ?_, fun h => (nomatch h)⟩
    · unfold State.laneSpared
      rw [hl]
      dsimp only
      rw [hlt, ← hkey]
      exact List.contains_iff_mem.2 (List.mem_append_right _ List.mem_cons_self)
    · obtain ⟨rfl, rfl⟩ := Prod.mk.inj (Option.some.inj h)
      refine ⟨by rw [ht]; rfl, by rw [hlt], by rw [hlt], fun k hk => ?_⟩
      rw [ht]
      exact tget_tset_other _ _ _ hk

/-- A plane into a router's input whose group has no spare left goes out of service. -/
theorem planeOff_spec (h : s.laneSpared x = true) : (s.planeOff x).planeDownAt x.rtr x.inp.val x.plane = true := by
  unfold State.planeDownAt
  cases hl : lintelAt x.rtr x.inp.val with
  | none =>
    have ht : (s.planeOff x).fab.meshDown = s.fab.meshDown ++ [(x.rtr, x.inp, x.plane)] := by
      unfold State.planeOff
      rw [hl]
      rfl
    dsimp only
    rw [ht]
    refine List.contains_iff_mem.2 (List.mem_append_right _ (List.mem_singleton.2 ?_))
    have : (⟨x.inp.val % 4, by omega⟩ : Fin 4) = x.inp := Fin.ext (Nat.mod_eq_of_lt x.inp.isLt)
    rw [this]
  | some y =>
    obtain ⟨lt, l⟩ := y
    have hlt : ((s.planeOff x).lintel lt).spared = (s.lintel lt).spared ++
        [((⟨l % 4, by omega⟩ : Fin 4), x.plane, fromHigher x.rtr x.inp.val, x.group)] := by
      unfold State.planeOff
      rw [hl]
      exact congrArg Lintel.spared (tget_tset_same _ _ _ _)
    unfold State.laneSpared at h
    rw [hl] at h
    dsimp only at h ⊢
    have hmem := List.contains_iff_mem.1 h
    unfold Lintel.planeOut
    rw [hlt]
    refine List.any_eq_true.2 ⟨_, List.mem_append_right _ List.mem_cons_self, ?_⟩
    have hcount := List.count_pos_iff.2 hmem
    have hll := Nat.mod_eq_of_lt (lintelAt_lt hl)
    rw [List.count_append, List.count_singleton_self]
    simp only [hll, decide_true, Bool.and_true, Bool.true_and, decide_eq_true_eq] at hcount ⊢
    omega

end

/-! ### DELIVERY_TIMEOUT, the pause and its lanes together -/

section
variable {s : State} {x : Lane} (hp : s.fab.paused.isSome = true) (hb : s.fab.bufs = []) (hr : s.fab.pauseReq = true)
  (hm : s.fab.marked = []) (hw : s.fab.waiting = []) (he : onEdge x.rtr x.inp.val = false)
  (hd : s.planeDownAt x.rtr x.inp.val x.plane = false)
include hp hb hr hm hw he hd

/-- A faulty lane found in a pause takes its group's spare (R207). -/
theorem pauseDrained_spare (hl : s.laneSpared x = false) :
    completes (.pauseDrained [x]) s fun t => t.fab.paused = some s.tb ∧ t.fab.pauseReq = false ∧ t.sites = s.sites ∧
      t.laneSpared x = true ∧
      (∀ lt l, lintelAt x.rtr x.inp.val = some (lt, l) → t.fab.meshSpared = s.fab.meshSpared ∧
        (t.lintel lt).spares = satInc (s.lintel lt).spares ∧ (t.lintel lt).planeDown = (s.lintel lt).planeDown ∧
        ∀ k, k ≠ lt → t.lintel k = s.lintel k) ∧
      (lintelAt x.rtr x.inp.val = none → t.fab.meshSpared = s.fab.meshSpared ++ [x] ∧ t.fab.lintels = s.fab.lintels) := by
  obtain ⟨t, hx, h1, h2, h3, hl4⟩ := pauseDrained_again hp hb hr hm hw x
  have hv : ({ s with fab := { s.fab with marked := [] } } : State).repairLane x =
      ({ s with fab := { s.fab with marked := [] } } : State).takeSpare x := by
    unfold State.repairLane
    rw [if_neg, if_neg]
    · rw [show ({ s with fab := { s.fab with marked := [] } } : State).laneSpared x = s.laneSpared x from rfl, hl]
      exact Bool.false_ne_true
    · rw [show ({ s with fab := { s.fab with marked := [] } } : State).planeDownAt x.rtr x.inp.val x.plane =
        s.planeDownAt x.rtr x.inp.val x.plane from rfl, he, hd]
      exact fun h => h.elim Bool.false_ne_true Bool.false_ne_true
  obtain ⟨k1, k2, k3⟩ := takeSpare_spec { s with fab := { s.fab with marked := [] } } x
  rw [hv] at hl4
  generalize State.takeSpare { s with fab := { s.fab with marked := [] } } x = v at hl4 k1 k2 k3
  obtain ⟨r1, -, r3⟩ := lanesAs_reads hl4
  obtain ⟨e1, e2, -⟩ := hl4
  refine ⟨t, hx, h1, h2, h3, (r1 x).trans k1, fun lt l h => ?_, fun h => ?_⟩
  · obtain ⟨a1, a2, a3, a4⟩ := k2 lt l h
    exact ⟨e2.trans a1, (congrArg Lintel.spares (r3 lt)).trans a2, (congrArg Lintel.planeDown (r3 lt)).trans a3,
      fun k hk => (r3 k).trans (a4 k hk)⟩
  · obtain ⟨a1, a2⟩ := k3 h
    exact ⟨e2.trans a1, e1.trans a2⟩

/-- A faulty lane whose group's spare is taken takes its plane out of service (R207). -/
theorem pauseDrained_plane (hl : s.laneSpared x = true) :
    completes (.pauseDrained [x]) s fun t => t.sites = s.sites ∧ t.planeDownAt x.rtr x.inp.val x.plane = true := by
  obtain ⟨t, hx, -, -, h3, hl4⟩ := pauseDrained_again hp hb hr hm hw x
  have hv : ({ s with fab := { s.fab with marked := [] } } : State).repairLane x =
      ({ s with fab := { s.fab with marked := [] } } : State).planeOff x := by
    unfold State.repairLane
    rw [if_neg, if_pos]
    · exact hl
    · rw [show ({ s with fab := { s.fab with marked := [] } } : State).planeDownAt x.rtr x.inp.val x.plane =
        s.planeDownAt x.rtr x.inp.val x.plane from rfl, he, hd]
      exact fun h => h.elim Bool.false_ne_true Bool.false_ne_true
  rw [hv] at hl4
  have hk := planeOff_spec (s := { s with fab := { s.fab with marked := [] } }) hl
  exact ⟨t, hx, h3, ((lanesAs_reads hl4).2.1 _ _ _).trans hk⟩

end

section
variable {s : State} {r : Fin 64} {k : BitVec 10} {tm : Word64} {x : Txn} {n : SiteNo} {q : Fin 4} {f : CopyFlight}
  {past rest : List CopyFlight}

/-- What the end of a copy's request leaves, at a time. -/
theorem deliveryOver_at (hx : s.txnOf r k = some x) (hu : x.use = .copy n q) (hidle : s.portIdle r = true)
    (hq : ((s.site n).queue q).flight = past ++ f :: rest) (hf : f.txn = some k) (hp : ∀ g ∈ past, g.txn ≠ some k)
    (hlen : (past ++ rest).length < 4) (hh : ((s.site n).queue q).halted = false) (tm : Word64) :
    let t := (s.at tm).deliveryOver x
    t.txnOf r k = none ∧ t.fab.timeouts = satInc s.fab.timeouts ∧ (∀ m, m ≠ n → t.site m = s.site m) ∧
      (t.site n).queue q = { (s.site n).queue q with flight := past ++ rest, halted := true, err := 1, errTag := f.desc.tag } ∧
      told (s.at tm) t 0x000F (some n) := by
  obtain ⟨hr, hk⟩ := txnOf_spec hx
  subst hr hk
  obtain ⟨hw, hc⟩ := portIdle_spec hidle
  obtain ⟨hfab, hsite, hcopy⟩ := timeout_at s tm
  have h := deliveryOver_ends (s := s.at tm) hu (by rw [hfab]; exact hw) (fun m hm c => (hcopy m c).trans (hc m hm c))
    (by rw [hsite]; exact hq) hf hp hlen (by rw [hsite]; exact hh)
  dsimp only at h
  rw [hfab, hsite n] at h
  obtain ⟨h1, h2, h3, h4, h5⟩ := h
  exact ⟨h1, h2, fun m hm => (h3 m hm).trans (hsite m), h4, h5⟩

end

/-- Settles O38: the limit of a copy's request ends its flight with TIMEOUT and leaves no copy at the port with more to
ask; nothing that a pause repairs, loads or lets go touches the pause, the dark fields or the tables again. -/
theorem deliveryLimitAndPause : Obligations.DeliveryLimitAndPause := by
  unfold Obligations.DeliveryLimitAndPause
  refine ⟨fun s r k tm x n q past f rest hx hu hidle hq ho hf hp hlen hh =>
      ⟨_, deliveryTimeout_of hx hu hq hf ho (portIdle_spec hidle).1, deliveryOver_at hx hu hidle hq hf hp hlen hh tm⟩,
    fun s k tm x n q past f rest obs hx hu hidle hq hp ho hm hf hlen hh =>
      ⟨_, copyTimeout_request hx hq hp ho hm hf (portIdle_spec hidle).1,
        deliveryOver_at hx hu hidle hq hf (fun g hg => (hp g hg).2) hlen hh tm⟩,
    fun s r k tm h => ⟨_, deliveryTimeout_none h, rfl⟩,
    fun s tm => ⟨fun h => ⟨_, fabricPause_starts h, rfl⟩, fun h => ⟨_, fabricPause_latches h, rfl⟩⟩,
    fun s hp hb => ⟨pauseDrained_ends hp hb,
      fun hr hm hw x he hl hd => pauseDrained_spare hp hb hr hm hw he hd hl,
      fun hr hm hw x he hl hd => pauseDrained_plane hp hb hr hm hw he hd hl⟩,
    fun s ls h => ⟨_, pauseDrained_waits h, rfl⟩,
    fun s tm u hp => ⟨fun h => ⟨_, (pauseTimeout_of hp).trans (congrArg _ (if_pos h)), ?_⟩,
      fun h => ⟨_, (pauseTimeout_of hp).trans (congrArg _ (if_neg (by rw [h]; exact Bool.false_ne_true))), rfl⟩⟩⟩
  obtain ⟨F, hF⟩ := loseBufs_all (s.at tm)
  rw [hF, slots_at]

end Sys2Proof.Machine
end

section
/-!
PROOF. Gaska links (09_gaska_links.md): bring-up, keys, epochs, replays, retrains and a link that goes DOWN; O39 and O40.
-/

namespace Sys2Proof.Machine

/-! ### A link that goes DOWN (R269, R277, R294) -/

section
variable {s u v : State} {l m : LinkNo} {k : Link}

/-- Only the tree contexts may differ. -/
def onlyTrees (s t : State) : Prop := t = { s with coll := { s.coll with trees := t.coll.trees } }

theorem moveEdges_trees (s : State) (l : LinkNo) : onlyTrees s (s.moveEdges l) := by
  unfold State.moveEdges
  dsimp only
  refine foldl_related (P := onlyTrees) (fun _ => rfl) (fun s t u h k => ?_) (fun s t => ?_) _ s
  · unfold onlyTrees at *
    rw [k, h]
  · rfl

/-- A link that is DOWN: no keys, lanes, credits, and nothing kept or held. -/
def Link.downed (k : Link) : Link :=
  { k with st := .down, key := none, rxKey := none, rxNext := none, confirmed := false, rekeying := false, txQ := [],
           kept := [], credits := [], lanes := 0, half := false, latched := none,
           moved := decide (k.st = .up) || decide (k.st = .retrain) || k.moved }

/-- A link with nothing to move on goes DOWN. -/
theorem linkToDown_idle (hq : (s.link l).txQ = []) (hk : (s.link l).kept = []) (hl : (s.link l).latched ≠ some true) :
    s.linkToDown l = (s.setLink l (s.link l).downed).moveEdges l := by
  unfold State.linkToDown
  dsimp only
  rw [hq, hk, if_neg hl, List.map_nil, List.nil_append, List.foldl_nil]
  unfold Link.downed
  with_reducible rfl

theorem setLink_trees {w : Link} (h : onlyTrees (s.setLink l w) u) : u.link l = w ∧ (∀ m, m ≠ l → u.link m = s.link m) ∧
    u = { s with links := u.links, coll := { s.coll with trees := u.coll.trees } } ∧ u.flt = s.flt ∧ u.out = s.out := by
  have hlk : u.links = (s.setLink l w).links := by
    rw [h]
  have hl (m : LinkNo) : u.link m = (s.setLink l w).link m := by
    unfold State.link
    rw [hlk]
  refine ⟨(hl l).trans (State.link_setLink_same s l w), fun m hm => (hl m).trans (State.link_setLink_other s w hm), ?_, ?_, ?_⟩
  · rw [h]
    rfl
  · rw [h]
    rfl
  · rw [h]
    rfl

/-- What a link with nothing to move on leaves when it goes DOWN. -/
theorem linkToDown_spec (hq : (s.link l).txQ = []) (hk : (s.link l).kept = []) (hl : (s.link l).latched ≠ some true) :
    (s.linkToDown l).link l = (s.link l).downed ∧ (∀ m, m ≠ l → (s.linkToDown l).link m = s.link m) ∧
      s.linkToDown l = { s with links := (s.linkToDown l).links, coll := { s.coll with trees := (s.linkToDown l).coll.trees } } ∧
      (s.linkToDown l).flt = s.flt ∧ (s.linkToDown l).out = s.out := by
  rw [linkToDown_idle hq hk hl]
  exact setLink_trees (moveEdges_trees _ l)

/-- A link that went DOWN, with what changed at it before and what is recorded after. -/
theorem downNow_of {d : Link} (hu : u.link l = d.downed) (ho : ∀ m, m ≠ l → u.link m = s.link m)
    (hf : u = { s with links := u.links, coll := { s.coll with trees := u.coll.trees }, flt := u.flt, jrnl := u.jrnl }) :
    downNow s u l := by
  refine ⟨?_, ?_, ?_, ?_, ?_, ho, hf⟩ <;> rw [hu] <;> rfl

/-- A link whose service ends without a packet to move on: DOWN, and recorded. -/
theorem down_recorded (hq : (s.link l).txQ = []) (hk : (s.link l).kept = []) (hl : (s.link l).latched ≠ some true)
    (cls : BitVec 16) (d : Word32) (a : Word64) : downNow s ((s.linkToDown l).fault cls none d a) l ∧
      logged s ((s.linkToDown l).fault cls none d a) cls ∧ ((s.linkToDown l).fault cls none d a).link l = (s.link l).downed := by
  obtain ⟨h1, h2, h3, h4, -⟩ := linkToDown_spec hq hk hl
  have hlog := record_logged (s.linkToDown l) ((s.linkToDown l).plainRec cls none d a)
  change logged _ ((s.linkToDown l).fault cls none d a) cls at hlog
  have hlk (m : LinkNo) : ((s.linkToDown l).fault cls none d a).link m = (s.linkToDown l).link m := rfl
  refine ⟨downNow_of ((hlk l).trans h1) (fun m hm => (hlk m).trans (h2 m hm)) ?_, ?_, (hlk l).trans h1⟩
  · have hf : (s.linkToDown l).fault cls none d a = { s.linkToDown l with
        flt := ((s.linkToDown l).fault cls none d a).flt, jrnl := ((s.linkToDown l).fault cls none d a).jrnl } := rfl
    generalize (s.linkToDown l).fault cls none d a = t at hf
    rw [hf, h3]
  · unfold logged at hlog ⊢
    rw [h4] at hlog
    exact hlog

/-- The change of a link before it goes DOWN does not show after. -/
theorem downNow_setLink {w : Link} (h : downNow (s.setLink l w) u l) : downNow s u l := by
  obtain ⟨h1, h2, h3, h4, h5, h6, h7⟩ := h
  refine ⟨h1, h2, h3, h4, h5, fun m hm => (h6 m hm).trans (State.link_setLink_other s w hm), ?_⟩
  rw [h7]
  rfl

theorem link_at (s : State) (tm : Word64) (l : LinkNo) : (s.at tm).link l = s.link l := by
  obtain ⟨b, hb⟩ := at_is s tm
  rw [hb]
  rfl

theorem onlyLink_setLink (s : State) (l : LinkNo) (w : Link) : onlyLink l s (s.setLink l w) :=
  ⟨rfl, fun _ hm => State.link_setLink_other s w hm⟩

/-! ### Lanes (R258, R259) -/

theorem setBit_fold (L : List (Fin 4)) (hL : L.length ≤ 2) : popCount (L.foldl (fun v n => setBit v n.val true) (0 : BitVec 4)) ≤ 2 ∧
    ∀ x, x ∉ L → (L.foldl (fun v n => setBit v n.val true) (0 : BitVec 4)).getLsbD x.val = false := by
  match L with
  | [] => exact ⟨by decide, by decide⟩
  | [a] => revert a; decide
  | [a, b] => revert a b; decide
  | _ :: _ :: _ :: _ => exact absurd hL (by simp)

/-- The lanes in use while some have failed: two at most, and none of those. -/
theorem lanesInUse_failed {failed : List (Fin 4 × Bool)} (hf : failed ≠ []) (best : List (Fin 4)) :
    popCount (lanesInUse failed best) ≤ 2 ∧ ∀ x ∈ failed, (lanesInUse failed best).getLsbD x.1.val = false := by
  unfold lanesInUse
  rw [if_neg hf]
  obtain ⟨h1, h2⟩ := setBit_fold _ (List.length_take_le 2
    (((best ++ List.finRange 4).eraseDups).filter fun n => failed.all fun x => decide (x.1 ≠ n)))
  refine ⟨h1, fun x hx => h2 x.1 fun hm => ?_⟩
  have := (List.mem_filter.1 (List.mem_of_mem_take hm)).2
  have hne := List.all_eq_true.1 this x hx
  exact absurd rfl (of_decide_eq_true hne)

end

/-! ### A link's training and identity (R259, R269, R270) -/

section
variable {s t u : State} {l : LinkNo}

theorem onlyLink_trans (h : onlyLink l s t) (k : onlyLink l t u) : onlyLink l s u := by
  obtain ⟨h1, h2⟩ := h
  obtain ⟨k1, k2⟩ := k
  refine ⟨?_, fun m hm => (k2 m hm).trans (h2 m hm)⟩
  rw [k1, h1]

/-- With nothing that waits nothing is sent (R266). -/
theorem flush_empty (hq : (s.link l).txQ = []) : onlyLink l s (s.flush l) ∧ (s.flush l).link l = s.link l := by
  unfold State.flush
  dsimp only
  split
  · exact ⟨⟨rfl, fun _ _ => rfl⟩, rfl⟩
  · have hk : ({ s.link l with txQ := [], kept := (s.link l).kept ++ [] } : Link) = s.link l := by
      rw [List.append_nil, ← hq]
    have hv : (s.setLink l (s.link l)).sendAll [] = s.setLink l (s.link l) := by
      unfold State.sendAll
      rw [List.append_nil]
    have hd : (s.link l).drain (s.link l).txQ [] = ([], { s.link l with txQ := [] }) := by
      rw [hq]
      rfl
    rw [hd]
    change onlyLink l s ((s.setLink l { s.link l with txQ := [], kept := (s.link l).kept ++ [] }).sendAll []) ∧
      ((s.setLink l { s.link l with txQ := [], kept := (s.link l).kept ++ [] }).sendAll []).link l = _
    rw [hk, hv]
    exact ⟨onlyLink_setLink s l _, State.link_setLink_same s l _⟩

/-- LINK_TRAIN_START of a link that is DOWN and may train: at once, or after the 1 s. -/
theorem linkTrainStart_first {tm : Word64} (hd : (s.link l).st = .down) (hl : s.hasLink l = true)
    (hk : s.isDark (fieldOfLink l) = false) (hv : s.id.valid = true) (hc : s.fab.cutOff.getLsbD (2 * (fieldOfLink l).val + 1) = false)
    (ha : (s.link l).attempt = none) :
    exec (.linkTrainStart l tm) s = .next ((s.at tm).setLink l ((s.link l).train (s.at tm).tb)) := by
  change execLinkTrainStart l tm s = _
  unfold execLinkTrainStart
  dsimp only
  rw [link_at, hd, ha]
  refine if_neg ?_
  obtain ⟨b, hb⟩ := at_is s tm
  rw [hb]
  rintro (h | h | h | h | h)
  · exact Bool.noConfusion (hl.symm.trans h)
  · exact Bool.noConfusion (hk.symm.trans h)
  · exact Bool.noConfusion h
  · exact Bool.noConfusion (hv.symm.trans h)
  · exact Bool.noConfusion (hc.symm.trans h)

theorem linkTrainStart_early {tm a : Word64} (hd : (s.link l).st = .down) (ha : (s.link l).attempt = some a)
    (hw : windowOver a 1000000000 (s.at tm).tb = false) : exec (.linkTrainStart l tm) s = .next (s.at tm) := by
  change execLinkTrainStart l tm s = _
  unfold execLinkTrainStart
  dsimp only
  rw [link_at, hd, ha]
  exact if_pos (Or.inr (Or.inr (Or.inl hw)))

/-- LINK_TRAINED with two lanes or more and a cable in range. -/
theorem linkTrained_of {o : TrainObs} (hs : (s.link l).st = .training) (hp : o.partner = true) (hl : o.tooLong = false)
    (hc : o.cableNs ≤ 450) (hn : 2 ≤ popCount o.lanes) : exec (.linkTrained l o) s =
      .next ((s.setLink l { s.link l with st := .ident, cableNs := o.cableNs, badLanes := (o.failed ++ (missing o.lanes)).eraseDups }).useLanes
        l o.best) := by
  change execLinkTrained l o s = _
  unfold execLinkTrained
  dsimp only
  rw [if_neg (not_not_intro hs), if_neg (by rw [hp]; exact fun h => Bool.noConfusion h), if_neg]
  rintro (h | h | h)
  · exact Bool.noConfusion (hl.symm.trans h)
  · have := BitVec.le_def.1 hc
    exact absurd h (Nat.not_lt.2 this)
  · omega

theorem useLanes_whole {best : List (Fin 4)} (hb : (s.link l).badLanes = []) :
    s.useLanes l best = s.setLink l { s.link l with lanes := 15, half := false } := by
  unfold State.useLanes
  dsimp only
  rw [hb]
  rfl

/-- A link with failed lanes not yet at half rate goes to it, with the record (R259). -/
theorem useLanes_half {best : List (Fin 4)} (hb : (s.link l).badLanes ≠ []) (hh : (s.link l).half = false) :
    s.useLanes l best = (s.setLink l { s.link l with lanes := lanesInUse (s.link l).badLanes best, half := true }).fault
      0x0304 none (BitVec.ofNat 32 l.val) 0 := by
  unfold State.useLanes
  dsimp only
  rw [hh, decide_eq_true hb]
  rfl

theorem linkTrained_whole {o : TrainObs} (hs : (s.link l).st = .training) (hp : o.partner = true) (hl : o.tooLong = false)
    (hc : o.cableNs ≤ 450) (hn : o.lanes = 15) (hf : o.failed = []) : completes (.linkTrained l o) s fun t => onlyLink l s t ∧
      t.link l = { s.link l with st := .ident, cableNs := o.cableNs, badLanes := [], lanes := 15, half := false } := by
  have hm : (o.failed ++ (missing o.lanes)).eraseDups = [] := by
    rw [hf, hn]
    rfl
  have hx := linkTrained_of hs hp hl hc (by rw [hn]; decide)
  rw [hm, useLanes_whole (by rw [State.link_setLink_same]), State.link_setLink_same] at hx
  exact ⟨_, hx, onlyLink_trans (onlyLink_setLink s l _) (onlyLink_setLink _ l _), State.link_setLink_same _ l _⟩

/-- A link that changes, and then again with a record. -/
theorem setLink_recorded (v w : Link) (cls : BitVec 16) (d : Word32) (a : Word64) :
    (((s.setLink l v).setLink l w).fault cls none d a).link l = w ∧
      (∀ m, m ≠ l → (((s.setLink l v).setLink l w).fault cls none d a).link m = s.link m) ∧
      ((s.setLink l v).setLink l w).fault cls none d a = { s with
        links := (((s.setLink l v).setLink l w).fault cls none d a).links,
        flt := (((s.setLink l v).setLink l w).fault cls none d a).flt, jrnl := (((s.setLink l v).setLink l w).fault cls none d a).jrnl } ∧
      logged s (((s.setLink l v).setLink l w).fault cls none d a) cls := by
  have hlog := record_logged ((s.setLink l v).setLink l w) (((s.setLink l v).setLink l w).plainRec cls none d a)
  change logged _ (((s.setLink l v).setLink l w).fault cls none d a) cls at hlog
  exact ⟨State.link_setLink_same _ l w, fun m hm => (State.link_setLink_other _ w hm).trans (State.link_setLink_other s v hm), rfl, hlog⟩

theorem linkTrained_half {o : TrainObs} (hs : (s.link l).st = .training) (hp : o.partner = true) (hl : o.tooLong = false)
    (hc : o.cableNs ≤ 450) (hn : 2 ≤ popCount o.lanes) (hf : o.failed ≠ []) (hh : (s.link l).half = false) :
    completes (.linkTrained l o) s fun t => t = { s with links := t.links, flt := t.flt, jrnl := t.jrnl } ∧
      (∀ m, m ≠ l → t.link m = s.link m) ∧ (t.link l).st = .ident ∧ (t.link l).half = true ∧ popCount (t.link l).lanes ≤ 2 ∧
      (∀ x ∈ o.failed, x ∈ (t.link l).badLanes ∧ (t.link l).lanes.getLsbD x.1.val = false) ∧ logged s t 0x0304 := by
  have hin (x : Fin 4 × Bool) (h : x ∈ o.failed) : x ∈ (o.failed ++ (missing o.lanes)).eraseDups :=
    List.mem_eraseDups.2 (List.mem_append_left _ h)
  have hne : (o.failed ++ (missing o.lanes)).eraseDups ≠ [] := by
    obtain ⟨x, hx⟩ := List.exists_mem_of_ne_nil _ hf
    exact List.ne_nil_of_mem (hin x hx)
  have hx := linkTrained_of hs hp hl hc hn
  generalize (o.failed ++ (missing o.lanes)).eraseDups = bad at hx hne hin
  rw [useLanes_half (by rw [State.link_setLink_same]; exact hne) (by rw [State.link_setLink_same]; exact hh),
    State.link_setLink_same] at hx
  obtain ⟨h1, h2⟩ := lanesInUse_failed hne o.best
  obtain ⟨h3, h4, h5, h6⟩ := setLink_recorded (s := s) (l := l) { s.link l with st := .ident, cableNs := o.cableNs, badLanes := bad }
    { s.link l with st := .ident, cableNs := o.cableNs, badLanes := bad, lanes := lanesInUse bad o.best, half := true }
    0x0304 (BitVec.ofNat 32 l.val) 0
  refine ⟨_, hx, ?_⟩
  generalize State.fault _ _ _ _ _ = t at h3 h4 h5 h6
  refine ⟨h5, h4, ?_, ?_, ?_, fun x hx => ?_, h6⟩ <;> rw [h3]
  · exact h1
  · exact ⟨hin x hx, h2 x (hin x hx)⟩

/-- LINK_TRAINED without a partner. -/
theorem linkTrained_alone {o : TrainObs} (hs : (s.link l).st = .training) (hp : o.partner = false) :
    exec (.linkTrained l o) s = .next (s.trainFails l 0x0309 0 0) := by
  change execLinkTrained l o s = _
  unfold execLinkTrained
  dsimp only
  rw [if_neg (not_not_intro hs), if_pos hp]

theorem trainFails_spec {cls : BitVec 16} {d : Word32} {a : Word64} (hq : (s.link l).txQ = []) (hk : (s.link l).kept = [])
    (hl : (s.link l).latched ≠ some true) : downNow s (s.trainFails l cls d a) l ∧ ((s.trainFails l cls d a).link l).recorded = true ∧
      ((s.link l).recorded = false → logged s (s.trainFails l cls d a) cls) ∧
      ((s.link l).recorded = true → (s.trainFails l cls d a).flt = s.flt) := by
  obtain ⟨h1, h2, h3, h4, h5⟩ := linkToDown_spec hq hk hl
  unfold State.trainFails
  dsimp only
  generalize s.linkToDown l = u at h1 h2 h3 h4 h5
  have g1 : (u.modLink l fun k => { k with recorded := true }).link l = ({ s.link l with recorded := true } : Link).downed := by
    rw [State.link_modLink_same, h1]
    rfl
  have g2 (m : LinkNo) (hm : m ≠ l) : (u.modLink l fun k => { k with recorded := true }).link m = s.link m :=
    (State.link_modLink_other u _ hm).trans (h2 m hm)
  have g3 : (u.modLink l fun k => { k with recorded := true }) = { s with
      links := (u.modLink l fun k => { k with recorded := true }).links, coll := { s.coll with trees := u.coll.trees } } := by
    have : (u.modLink l fun k => { k with recorded := true }) = { u with links := (u.modLink l fun k => { k with recorded := true }).links } := rfl
    rw [this, h3]
  have g4 : (u.modLink l fun k => { k with recorded := true }).flt = s.flt := h4
  generalize (u.modLink l fun k => { k with recorded := true }) = v at g1 g2 g3 g4
  split
  · next hr =>
    refine ⟨downNow_of g1 g2 ?_, congrArg Link.recorded g1, fun h => Bool.noConfusion (h.symm.trans hr), fun _ => g4⟩
    rw [g3]
  · next hr =>
    refine ⟨downNow_of g1 g2 ?_, congrArg Link.recorded g1, fun h => ?_, fun h => absurd h hr⟩
    · have hf : v.fault cls none (BitVec.ofNat 32 l.val ||| d) a = { v with
          flt := (v.fault cls none (BitVec.ofNat 32 l.val ||| d) a).flt, jrnl := (v.fault cls none (BitVec.ofNat 32 l.val ||| d) a).jrnl } := rfl
      generalize v.fault cls none (BitVec.ofNat 32 l.val ||| d) a = w at hf
      rw [hf, g3]
    · have hlog := record_logged v (v.plainRec cls none (BitVec.ofNat 32 l.val ||| d) a)
      unfold logged at hlog ⊢
      rw [g4] at hlog
      exact hlog

end

/-! ### IDENT_MESSAGE -/

section
variable {s : State} {l : LinkNo}

/-- The link with what its peer's identity message says (R270). -/
def Link.heard (k : Link) (o : IdentObs) : Link :=
  { k with peerDev := o.dev, peerLink := BitVec.ofNat 7 o.link.val, peerMaster := o.master }

theorem identMessage_of {o : IdentObs} {m : BitVec 4} (hs : (s.link l).st = .ident) (hm : o.minor = some m) :
    exec (.identMessage l o) s = .next (if s.cabledTo l = some (o.dev.toNat, o.link) then
      ((s.setLink l ((s.link l).heard o)).setLink l { (s.link l).heard o with st := .keying, major := 1, minor := if m = 0 then 0 else 1 }).send
        (.keyMsg l)
      else ((s.setLink l ((s.link l).heard o)).linkToDown l).fault 0x0308 none (BitVec.ofNat 32 l.val)
          (BitVec.ofNat 64 (o.dev.toNat + 65536 * o.link.val))) := by
  change execIdentMessage l o s = _
  unfold execIdentMessage
  dsimp only
  rw [if_neg (not_not_intro hs), hm]
  dsimp only
  have hc : (s.setLink l ((s.link l).heard o)).cabledTo l = s.cabledTo l := rfl
  unfold Link.heard at hc ⊢
  rw [hc]
  split <;> rfl

theorem identMessage_minor {o : IdentObs} (hs : (s.link l).st = .ident) (hm : o.minor = none) :
    exec (.identMessage l o) s = .next (((s.setLink l ((s.link l).heard o)).linkToDown l).fault 0x0307 none
      (BitVec.ofNat 32 l.val ||| fieldAt o.major 7) 0) := by
  change execIdentMessage l o s = _
  unfold execIdentMessage
  dsimp only
  rw [if_neg (not_not_intro hs), hm]
  rfl

theorem identMessage_joins {o : IdentObs} {m : BitVec 4} (hs : (s.link l).st = .ident) (hm : o.minor = some m)
    (hc : s.cabledTo l = some (o.dev.toNat, o.link)) : completes (.identMessage l o) s fun t =>
        t = { s with links := t.links, out := s.out ++ [.keyMsg l] } ∧ (∀ k, k ≠ l → t.link k = s.link k) ∧
        (t.link l).st = .keying ∧ (t.link l).peerDev = o.dev ∧
        (t.link l).peerLink.toNat = o.link.val ∧ (t.link l).major = 1 ∧
        (t.link l).minor = if m = 0 then 0 else 1 := by
  have hx := identMessage_of hs hm
  rw [if_pos hc] at hx
  refine ⟨_, hx, ?_⟩
  have hlk := State.link_setLink_same (s.setLink l ((s.link l).heard o)) l
    { (s.link l).heard o with st := .keying, major := 1, minor := if m = 0 then 0 else 1 }
  obtain ⟨h3, h4⟩ := onlyLink_trans (onlyLink_setLink s l ((s.link l).heard o)) (onlyLink_setLink _ l
    { (s.link l).heard o with st := .keying, major := 1, minor := if m = 0 then 0 else 1 })
  refine ⟨rfl, h4, congrArg Link.st hlk, congrArg Link.peerDev hlk, ?_, congrArg Link.major hlk, congrArg Link.minor hlk⟩
  refine (congrArg (fun k => k.peerLink.toNat) hlk).trans ?_
  change (BitVec.ofNat 7 o.link.val).toNat = _
  rw [BitVec.toNat_ofNat]
  have := o.link.isLt
  omega

/-- A link whose identity message is refused. -/
theorem heard_down {o : IdentObs} (hq : (s.link l).txQ = []) (hk : (s.link l).kept = []) (hl : (s.link l).latched ≠ some true)
    (cls : BitVec 16) (d : Word32) (a : Word64) :
    downNow s (((s.setLink l ((s.link l).heard o)).linkToDown l).fault cls none d a) l ∧
      logged s (((s.setLink l ((s.link l).heard o)).linkToDown l).fault cls none d a) cls := by
  have hlk := State.link_setLink_same s l ((s.link l).heard o)
  obtain ⟨h1, h2, -⟩ := down_recorded (s := s.setLink l ((s.link l).heard o)) (l := l) (by rw [hlk]; exact hq)
    (by rw [hlk]; exact hk) (by rw [hlk]; exact hl) cls d a
  exact ⟨downNow_setLink h1, h2⟩

theorem identMessage_spec {o : IdentObs} (hs : (s.link l).st = .ident) :
    (∀ m, o.minor = some m → s.cabledTo l = some (o.dev.toNat, o.link) → completes (.identMessage l o) s fun t =>
        t = { s with links := t.links, out := s.out ++ [.keyMsg l] } ∧ (∀ k, k ≠ l → t.link k = s.link k) ∧
        (t.link l).st = .keying ∧ (t.link l).peerDev = o.dev ∧
        (t.link l).peerLink.toNat = o.link.val ∧ (t.link l).major = 1 ∧
        (t.link l).minor = if m = 0 then 0 else 1) ∧
    ((s.link l).txQ = [] → (s.link l).kept = [] → (s.link l).latched ≠ some true →
      (∀ m, o.minor = some m → s.cabledTo l ≠ some (o.dev.toNat, o.link) →
        completes (.identMessage l o) s fun t => downNow s t l ∧ logged s t 0x0308) ∧
      (o.minor = none → completes (.identMessage l o) s fun t => downNow s t l ∧ logged s t 0x0307)) := by
  refine ⟨fun m hm hc => identMessage_joins hs hm hc, fun hq hk hl => ⟨fun m hm hc => ?_, fun hm => ?_⟩⟩
  · exact ⟨_, (identMessage_of hs hm).trans (congrArg _ (if_neg hc)), heard_down hq hk hl _ _ _⟩
  · exact ⟨_, identMessage_minor hs hm, heard_down hq hk hl _ _ _⟩

end

/-! ### LINK_KEYED and REKEY (R271, R433, R438) -/

section
variable {s : State} {l : LinkNo} {o : KeyObs}

theorem confirm_unowned (hw : (s.link l).owner = none) (hp : o.peerOwned = false) :
    s.confirm l o = s.setLink l { s.link l with confirmed := false, rekeying := false } := by
  unfold State.confirm
  dsimp only
  rw [hw, hp]
  rfl

theorem confirm_tb (s : State) (l : LinkNo) (o : KeyObs) : (s.confirm l o).tb = s.tb := by
  unfold State.confirm
  dsimp only
  split <;> rfl

/-- A link under a new key, its stream from the start (R266, R271). -/
def Link.keyed (k : Link) (o : KeyObs) (key : Nat) (now : Word64) : Link :=
  { k with st := .up, key := some key, rxKey := some key, rxNext := none, rekeyReady := false, peerReady := false, txEpoch := 0,
           keyEpoch := 0, rxEpoch := none, txBase := 0, txStart := now, kept := [], allot := [], demands := [],
           peerDigest := o.peerDigest, rxSeq := 0, txAck := 0, txPhase := false, rxPhase := false, progress := now, stuck := 0,
           epochFails := 0, reqRetrain := false, firstAfter := false, recent := [], credits := startCredits k.minor, latched := none }

/-- LINK_KEYED with good authentication, once its leaf index is taken. -/
theorem linkKeyed_of {v : Sec} {j : Journal} {n : Nat} (hs : (s.link l).st = .keying) (ht : s.takeLeaf = ({ s with sec := v, jrnl := j }, some n))
    (ha : o.authOk = true) (hl : (s.link l).latched = none) : exec (.linkKeyed l o) s =
      .next (((({ s with sec := v.drawn, jrnl := j, mem := { s.mem with keyCount := s.mem.keyCount + 1 } } : State).setLink l
        ((s.link l).keyed o (s.mem.keyCount + 1) s.tb)).confirm l o).flush l) := by
  change execLinkKeyed l o s = _
  unfold execLinkKeyed
  dsimp only
  rw [if_neg (not_not_intro hs), ht]
  dsimp only
  rw [if_neg (by rw [ha]; exact fun h => h.elim (fun h => Bool.noConfusion h) fun h => Bool.noConfusion h)]
  unfold State.newKey
  dsimp only
  rw [hl]
  rfl

theorem linkKeyed_up (hs : (s.link l).st = .keying) (hq : (s.link l).txQ = []) (hn : s.sec.nextLeaf.toNat + 1024 ≤ 2 ^ 40)
    (ha : o.authOk = true) (hw : (s.link l).owner = none) (hp : o.peerOwned = false) (hl : (s.link l).latched = none) :
    completes (.linkKeyed l o) s fun t =>
        t = { s with links := t.links, sec := t.sec, mem := { s.mem with keyCount := s.mem.keyCount + 1 }, jrnl := t.jrnl } ∧
        (∀ k, k ≠ l → t.link k = s.link k) ∧ (t.link l).st = .up ∧ (t.link l).key = some (s.mem.keyCount + 1) ∧
        (t.link l).rxKey = some (s.mem.keyCount + 1) ∧ (t.link l).rxNext = none ∧ (t.link l).txEpoch = 0 ∧
        (t.link l).credits = startCredits (s.link l).minor ∧ (t.link l).rxSeq = 0 ∧
        (t.link l).peerDigest = o.peerDigest ∧ (t.link l).confirmed = false ∧
        t.sec.nextLeaf = s.sec.nextLeaf + 1 := by
  obtain ⟨e, j, ht⟩ := takeLeaf_takes hn
  refine ⟨_, linkKeyed_of hs ht ha hl, ?_⟩
  generalize hv : ({ s.sec with nextLeaf := s.sec.nextLeaf + 1, batchEnd := e } : Sec).drawn = v
  have hleaf : v.nextLeaf = s.sec.nextLeaf + 1 := by
    rw [← hv]
    rfl
  generalize hu : ({ s with sec := v, jrnl := j, mem := { s.mem with keyCount := s.mem.keyCount + 1 } } : State) = u
  generalize hk : (s.link l).keyed o (s.mem.keyCount + 1) s.tb = k
  have hku : (u.setLink l k).link l = k := State.link_setLink_same u l k
  rw [confirm_unowned (by rw [hku, ← hk]; exact hw) hp, hku]
  obtain ⟨⟨g1, g2⟩, g3⟩ := flush_empty (l := l) (s := (u.setLink l k).setLink l { k with confirmed := false, rekeying := false })
    (by rw [State.link_setLink_same, ← hk]; exact hq)
  rw [State.link_setLink_same] at g3
  have ho (m : LinkNo) : u.link m = s.link m := by
    rw [← hu]
    rfl
  generalize State.flush _ _ = t at g1 g2 g3
  refine ⟨?_, fun m hm => (g2 m hm).trans (((State.link_setLink_other _ _ hm)).trans ((State.link_setLink_other _ _ hm).trans (ho m))), ?_⟩
  · rw [g1, ← hu]
    rfl
  · rw [g3, ← hk]
    refine ⟨rfl, rfl, rfl, rfl, rfl, rfl, rfl, rfl, rfl, ?_⟩
    rw [g1, ← hu]
    exact hleaf

theorem linkKeyed_fails {v : Sec} {j : Journal} {n : Option Nat} (hs : (s.link l).st = .keying)
    (ht : s.takeLeaf = ({ s with sec := v, jrnl := j }, n)) (ha : o.authOk = false) :
    exec (.linkKeyed l o) s = .next (({ s with sec := v, jrnl := j } : State).authFails l true) := by
  change execLinkKeyed l o s = _
  unfold execLinkKeyed
  dsimp only
  rw [if_neg (not_not_intro hs), ht]
  dsimp only
  rw [if_pos (Or.inl ha)]

theorem linkKeyed_down (hs : (s.link l).st = .keying) (hq : (s.link l).txQ = []) (hn : s.sec.nextLeaf.toNat + 1024 ≤ 2 ^ 40)
    (ha : o.authOk = false) (hk : (s.link l).kept = []) (hl : (s.link l).latched ≠ some true) :
    completes (.linkKeyed l o) s fun t =>
      (t.link l).st = .down ∧ (t.link l).key = none ∧ (∀ k, k ≠ l → t.link k = s.link k) ∧
      t.sec.nextLeaf = s.sec.nextLeaf + 1 ∧ logged s t 0x0306 ∧ t.out = s.out ++ [.toReeve 0x0306 l] := by
  obtain ⟨e, j, ht⟩ := takeLeaf_takes hn
  refine ⟨_, linkKeyed_fails hs ht ha, ?_⟩
  unfold State.authFails
  dsimp only
  rw [if_pos rfl]
  generalize (State.link _ _).peerDev.setWidth 64 = a
  generalize hu : (({ s with sec := { s.sec with nextLeaf := s.sec.nextLeaf + 1, batchEnd := e }, jrnl := j } : State).send (.toReeve 0x0306 l)) = u
  have hlk (m : LinkNo) : u.link m = s.link m := by
    rw [← hu]
    rfl
  obtain ⟨⟨h1, h2, -, -, -, h3, h4⟩, h5, -⟩ := down_recorded (l := l) (s := u) (by rw [hlk]; exact hq) (by rw [hlk]; exact hk)
    (by rw [hlk]; exact hl) 0x0306 (BitVec.ofNat 32 l.val ||| bitAt true 7) a
  generalize State.fault _ _ _ _ _ = t at h1 h2 h3 h4 h5
  refine ⟨h1, h2, fun m hm => (h3 m hm).trans (hlk m), ?_, ?_, ?_⟩
  · rw [h4, ← hu]
    rfl
  · rw [← hu] at h5
    exact h5
  · rw [h4, ← hu]
    rfl

/-- The link that sends under a new key (R271). -/
def Link.rekeyed (k : Link) (key : Nat) (now : Word64) : Link :=
  { k with key := some key, txPhase := !k.txPhase, keyEpoch := k.epochNow now, rekeyReady := true, rxNext := some key }

theorem rekey_of (hs : (s.link l).st = .up) (ha : o.authOk = true) (hn : (s.link l).owner = none) (hp : o.peerOwned = false)
    (hw : (s.link l).worn s.tb = false) : exec (.rekey l o) s =
      .next (((({ s with sec := s.sec.drawn, mem := { s.mem with keyCount := s.mem.keyCount + 1 } } : State).setLink l
        ((s.link l).rekeyed (s.mem.keyCount + 1) s.tb)).setLink l
        { (s.link l).rekeyed (s.mem.keyCount + 1) s.tb with confirmed := false, rekeying := false }).send (.keyMsg l)) := by
  have hk := State.link_setLink_same ({ s with sec := s.sec.drawn, mem := { s.mem with keyCount := s.mem.keyCount + 1 } } : State) l
    ((s.link l).rekeyed (s.mem.keyCount + 1) s.tb)
  have hc := confirm_unowned (s := ({ s with sec := s.sec.drawn, mem := { s.mem with keyCount := s.mem.keyCount + 1 } } : State).setLink l
    ((s.link l).rekeyed (s.mem.keyCount + 1) s.tb)) (by rw [hk]; exact hn) hp
  rw [hk] at hc
  rw [← hc]
  change execRekey l o s = _
  unfold execRekey
  dsimp only
  rw [if_neg (by rw [hs, ha]; decide)]
  refine congrArg _ (if_neg ?_)
  change ¬ (s.link l).worn (State.tb (State.confirm _ l o)) = true
  rw [confirm_tb]
  exact fun h => Bool.noConfusion (hw.symm.trans h)

theorem rekey_keeps (hs : (s.link l).st = .up) (ha : o.authOk = true) (hn : (s.link l).owner = none) (hp : o.peerOwned = false)
    (hw : (s.link l).worn s.tb = false) : completes (.rekey l o) s fun t =>
      t = { s with links := t.links, sec := t.sec, mem := { s.mem with keyCount := s.mem.keyCount + 1 }, out := s.out ++ [.keyMsg l] } ∧
      (∀ k, k ≠ l → t.link k = s.link k) ∧
      t.link l = { s.link l with key := some (s.mem.keyCount + 1), txPhase := !(s.link l).txPhase,
                                 keyEpoch := (s.link l).epochNow s.tb, rekeyReady := true,
                                 rxNext := some (s.mem.keyCount + 1), confirmed := false, rekeying := false } := by
  exact ⟨_, rekey_of hs ha hn hp hw, rfl, fun m hm => ((State.link_setLink_other _ _ hm)).trans (State.link_setLink_other _ _ hm),
    State.link_setLink_same _ l _⟩

end

/-- Settles O39: a link that leaves bring-up with nothing to move on is DOWN without keys; one that comes UP has nothing
held back to send. -/
theorem linksComeUp : Obligations.LinksComeUp := by
  unfold Obligations.LinksComeUp
  exact ⟨fun s l tm hd hl hk hv hc => ⟨fun ha =>
      ⟨_, linkTrainStart_first hd hl hk hv hc ha, onlyLink_setLink _ l _, State.link_setLink_same _ l _⟩,
      fun a ha hw => ⟨_, linkTrainStart_early hd ha hw, rfl⟩⟩,
    fun s l o hs hp hl hc => ⟨fun hn hf => linkTrained_whole hs hp hl hc hn hf, fun hn hf hh => linkTrained_half hs hp hl hc hn hf hh⟩,
    fun s l o hs hp hq hk hl => ⟨_, linkTrained_alone hs hp, trainFails_spec hq hk hl⟩, fun s l o hs => identMessage_spec hs,
    fun s l o hs hq hn => ⟨fun ha hw hp hl => linkKeyed_up hs hq hn ha hw hp hl, fun ha hk hl => linkKeyed_down hs hq hn ha hk hl⟩,
    fun s l o hs ha hn hp hw => rekey_keeps hs ha hn hp hw⟩

/-! ### Epochs of a link (R260 to R268) -/

section
variable {s : State} {l : LinkNo} {e : Epoch}

theorem epochReceive_apart (h : (s.link l).st ≠ .up ∨ e.heads.head?.map (·.seq) ≠ some (s.link l).rxSeq) :
    exec (.epochReceive l e) s = .next s := by
  change execEpochReceive l e s = _
  unfold execEpochReceive
  dsimp only
  exact if_pos h

/-- The link with the errors its epoch's FEC mended (R259). -/
def Link.mended (k : Link) (e : Epoch) : Link := { k with corrected := k.corrected + e.fecCorrected }

/-- EPOCH_RECEIVE of the epoch awaited. -/
theorem epochReceive_of (hu : (s.link l).st = .up) (hq : e.heads.head?.map (·.seq) = some (s.link l).rxSeq) :
    exec (.epochReceive l e) s = .next (if e.fecOk = false then
        s.setLink l { (s.link l).mended e with uncorrectable := satInc (s.link l).uncorrectable }.epochFailed
      else if epochHeads e = false then s.setLink l ((s.link l).mended e).epochFailed
      else if (s.link l).tagOk e = false then
        if (s.link l).firstAfter then
          (s.setLink l { (s.link l).mended e with authFails := satInc (s.link l).authFails }.epochFailed).authFails l false
        else s.setLink l { (s.link l).mended e with authFails := satInc (s.link l).authFails }.epochFailed
      else if e.pkts.any pktBad then s.setLink l ((s.link l).mended e).epochFailed
      else e.pkts.foldl (fun s p => s.linkPacket l p)
        (if e.retrainReq then ((s.setLink l (((s.link l).mended e).verified e s.tb)).flush l).replay l
          else (s.setLink l (((s.link l).mended e).verified e s.tb)).flush l)) := by
  change execEpochReceive l e s = _
  unfold execEpochReceive
  dsimp only
  rw [if_neg (by rw [hu, hq]; exact fun h => h.elim (fun h => h rfl) fun h => h rfl)]
  have ht : Link.tagOk ((s.link l).mended e) e = (s.link l).tagOk e := rfl
  unfold Link.mended at ht ⊢
  rw [ht]
  split
  · rfl
  · split
    · rfl
    · split
      · split <;> rfl
      · split <;> rfl

/-- A verified epoch of no packets. -/
theorem epochReceive_empty (hu : (s.link l).st = .up) (hq : e.heads.head?.map (·.seq) = some (s.link l).rxSeq) (hf : e.fecOk = true)
    (hh : epochHeads e = true) (ht : (s.link l).tagOk e = true) (hp : e.pkts = []) : exec (.epochReceive l e) s =
      .next (if e.retrainReq then ((s.setLink l (((s.link l).mended e).verified e s.tb)).flush l).replay l
          else (s.setLink l (((s.link l).mended e).verified e s.tb)).flush l) := by
  rw [epochReceive_of hu hq, hf, hh, ht, hp]
  rfl

/-! ### What a verified epoch's headers bring -/

/-- One header's credits (R266). -/
def Link.credited (k : Link) (h : BlockHead) : Link :=
  if h.cvc.toNat ≤ 5 then
    { k with credits := tset (fun _ => 0) k.credits h.cvc.toNat (k.credit h.cvc.toNat + h.credits.toNat) }
  else k

theorem credited_credit (k : Link) (h : BlockHead) {v : Nat} (hv : v ≤ 5) :
    (k.credited h).credit v = k.credit v + if h.cvc.toNat = v then h.credits.toNat else 0 := by
  unfold Link.credited
  split
  · by_cases hc : h.cvc.toNat = v
    · rw [if_pos hc, ← hc]
      exact tget_tset_same _ _ _ _
    · rw [if_neg hc]
      exact tget_tset_other _ _ _ (fun h => hc h.symm)
  · rw [if_neg (by omega), Nat.add_zero]

/-- All that credits leave of a link. -/
theorem credited_keeps (k : Link) (hs : List BlockHead) : hs.foldl Link.credited k = { k with credits := (hs.foldl Link.credited k).credits } := by
  refine foldl_related (P := fun a b : Link => b = { a with credits := b.credits }) (fun _ => rfl) (fun a b c h g => ?_) (fun a h => ?_) hs k
  · rw [g, h]
  · unfold Link.credited
    split <;> rfl

theorem foldl_credited (k : Link) (hs : List BlockHead) {v : Nat} (hv : v ≤ 5) : (hs.foldl Link.credited k).credit v =
    k.credit v + ((hs.filter fun h => decide (h.cvc.toNat = v)).map fun h => h.credits.toNat).sum := by
  induction hs generalizing k with
  | nil => rfl
  | cons h hs ih =>
    rw [List.foldl_cons, ih, credited_credit k h hv]
    by_cases hc : h.cvc.toNat = v
    · rw [if_pos hc, List.filter_cons_of_pos (p := fun h : BlockHead => decide (h.cvc.toNat = v)) (decide_eq_true hc), List.map_cons, List.sum_cons]
      omega
    · rw [if_neg hc, List.filter_cons_of_neg (p := fun h : BlockHead => decide (h.cvc.toNat = v)) (by rw [decide_eq_false hc]; exact Bool.false_ne_true)]
      omega

/-- What the headers of an epoch bring (R260, R266, R267). -/
theorem heads_eq (k : Link) {hs : List BlockHead} {h : BlockHead} (hl : hs.getLast? = some h) (now : Word64) :
    k.heads hs now = { k with
      credits := (hs.foldl Link.credited k).credits, txAck := h.ack, kept := k.kept.filter fun x => !acked h.ack x.1,
      progress := if h.ack = k.txAck then k.progress else now, stuck := if h.ack = k.txAck then k.stuck else 0 } := by
  have hf : k.heads hs now = { hs.foldl Link.credited k with
      txAck := ((hs.getLast?.map (·.ack)).getD k.txAck), kept := (hs.foldl Link.credited k).kept.filter fun x => !acked ((hs.getLast?.map (·.ack)).getD k.txAck) x.1,
      progress := if (hs.getLast?.map (·.ack)).getD k.txAck = (hs.foldl Link.credited k).txAck then (hs.foldl Link.credited k).progress else now,
      stuck := if (hs.getLast?.map (·.ack)).getD k.txAck = (hs.foldl Link.credited k).txAck then (hs.foldl Link.credited k).stuck else 0 } := rfl
  rw [hf, credited_keeps k hs, hl]
  rfl

/-- The receiver after a verified epoch without packets (R260, R266, R267, R271). -/
theorem verified_spec (k : Link) {h : BlockHead} (hl : e.heads.getLast? = some h) (now : Word64) :
    (k.verified e now).st = k.st ∧ (k.verified e now).rxSeq = k.rxSeq + 8 ∧ (k.verified e now).txAck = h.ack ∧
      (k.verified e now).rxPhase = e.keyPhase ∧ (k.verified e now).rxEpoch = some e.epoch ∧
      (k.verified e now).rxKey = k.secretFor e.keyPhase ∧ (k.verified e now).epochFails = 0 ∧
      (k.verified e now).reqRetrain = false ∧ (k.verified e now).firstAfter = false ∧
      (∀ v, v ≤ 5 → (k.verified e now).credit v = k.credit v +
        ((e.heads.filter fun h => decide (h.cvc.toNat = v)).map fun h => h.credits.toNat).sum) ∧
      (∀ x, x ∈ (k.verified e now).kept ↔ x ∈ k.kept ∧ acked h.ack x.1 = false) ∧
      (h.ack ≠ k.txAck → (k.verified e now).progress = now ∧ (k.verified e now).stuck = 0) := by
  unfold Link.verified
  rw [heads_eq k hl]
  refine ⟨rfl, rfl, rfl, rfl, rfl, ?_, rfl, rfl, rfl, fun v hv => foldl_credited k e.heads hv, fun x => ?_, fun ha => ⟨if_neg ha, if_neg ha⟩⟩
  · unfold Link.secretFor
    by_cases hp : e.keyPhase = k.rxPhase
    · rw [if_pos hp, decide_eq_false (not_not_intro hp)]
      rfl
    · rw [if_neg hp, decide_eq_true hp]
      rfl
  · refine List.mem_filter.trans (and_congr_right' ?_)
    cases acked h.ack x.1 <;> decide

/-- What a verified epoch leaves whatever its headers bring. -/
theorem verified_keeps (k : Link) (now : Word64) : (k.verified e now).txQ = k.txQ ∧ (k.verified e now).replays = k.replays := by
  have h1 : (k.verified e now).txQ = (e.heads.foldl Link.credited k).txQ := rfl
  have h2 : (k.verified e now).replays = (e.heads.foldl Link.credited k).replays := rfl
  rw [h1, h2, credited_keeps k e.heads]
  exact ⟨rfl, rfl⟩

/-- The link that replays (R267). -/
def Link.replayed (k : Link) (now : Word64) : Link :=
  { k.restart k.txAck now with replays := satInc k.replays, stuck := k.stuck + 1 }

/-- A replay sends again what is kept (R267). -/
theorem replay_spec (s : State) (l : LinkNo) : (∀ m, m ≠ l → (s.replay l).link m = s.link m) ∧
    s.replay l = { s with links := (s.replay l).links, flt := (s.replay l).flt, out := s.out ++ (s.link l).kept.map fun x => Out.linkPkt l x.2 } ∧
    (s.replay l).link l = (s.link l).replayed s.tb := by
  have hl (m : LinkNo) : (s.replay l).link m = (s.setLink l ((s.link l).replayed s.tb)).link m := rfl
  exact ⟨fun m hm => (hl m).trans (State.link_setLink_other s _ hm), rfl, (hl l).trans (State.link_setLink_same s l _)⟩

/-- EPOCH_RECEIVE of a verified epoch without packets, at a link with nothing held (R260, R266, R267, R271). -/
theorem epochReceive_verified (hu : (s.link l).st = .up) (hq : e.heads.head?.map (·.seq) = some (s.link l).rxSeq) (hf : e.fecOk = true)
    (hh : epochHeads e = true) (ht : (s.link l).tagOk e = true) (hp : e.pkts = []) (hx : (s.link l).txQ = []) (hr : e.retrainReq = false)
    {h : BlockHead} (hl : e.heads.getLast? = some h) : completes (.epochReceive l e) s fun t => onlyLink l s t ∧ (t.link l).st = .up ∧
          (t.link l).rxSeq = (s.link l).rxSeq + 8 ∧ (t.link l).txAck = h.ack ∧ (t.link l).rxPhase = e.keyPhase ∧
          (t.link l).rxEpoch = some e.epoch ∧ (t.link l).rxKey = (s.link l).secretFor e.keyPhase ∧
          (t.link l).epochFails = 0 ∧ (t.link l).reqRetrain = false ∧ (t.link l).firstAfter = false ∧
          (∀ v, v ≤ 5 → (t.link l).credit v = (s.link l).credit v +
            ((e.heads.filter fun h => decide (h.cvc.toNat = v)).map fun h => h.credits.toNat).sum) ∧
          (∀ x, x ∈ (t.link l).kept ↔ x ∈ (s.link l).kept ∧ acked h.ack x.1 = false) ∧
          (h.ack ≠ (s.link l).txAck → (t.link l).progress = s.tb ∧ (t.link l).stuck = 0) := by
  have hv := verified_spec ((s.link l).mended e) hl s.tb
  obtain ⟨hq2, -⟩ := verified_keeps (e := e) ((s.link l).mended e) s.tb
  have hexec := epochReceive_empty hu hq hf hh ht hp
  rw [hr] at hexec
  refine ⟨_, hexec, ?_⟩
  rw [if_neg Bool.false_ne_true]
  generalize ((s.link l).mended e).verified e s.tb = w at hv hq2
  obtain ⟨h1, h2⟩ := flush_empty (s := s.setLink l w) (l := l) (by rw [State.link_setLink_same]; exact hq2.trans hx)
  rw [State.link_setLink_same] at h2
  refine ⟨onlyLink_trans (onlyLink_setLink s l w) h1, ?_⟩
  rw [h2, ← hu]
  exact hv

/-- EPOCH_RECEIVE of a verified epoch that asks for a replay (R263, R267). -/
theorem epochReceive_replays (hu : (s.link l).st = .up) (hq : e.heads.head?.map (·.seq) = some (s.link l).rxSeq) (hf : e.fecOk = true)
    (hh : epochHeads e = true) (ht : (s.link l).tagOk e = true) (hp : e.pkts = []) (hx : (s.link l).txQ = []) (hr : e.retrainReq = true) :
    completes (.epochReceive l e) s fun t => (∀ m, m ≠ l → t.link m = s.link m) ∧
        t = { s with links := t.links, flt := t.flt, out := s.out ++ (t.link l).kept.map fun x => Out.linkPkt l x.2 } ∧
        (t.link l).replays = satInc (s.link l).replays ∧ (t.link l).txStart = s.tb ∧ (t.link l).txBase = (t.link l).txAck := by
  obtain ⟨hq2, hr2⟩ := verified_keeps (e := e) ((s.link l).mended e) s.tb
  have hexec := epochReceive_empty hu hq hf hh ht hp
  rw [hr] at hexec
  refine ⟨_, hexec, ?_⟩
  rw [if_pos rfl]
  generalize ((s.link l).mended e).verified e s.tb = w at hr2 hq2
  obtain ⟨⟨h1, h2⟩, h3⟩ := flush_empty (s := s.setLink l w) (l := l) (by rw [State.link_setLink_same]; exact hq2.trans hx)
  rw [State.link_setLink_same] at h3
  generalize (s.setLink l w).flush l = u at h1 h2 h3
  obtain ⟨g1, g2, g3⟩ := replay_spec u l
  generalize u.replay l = t at g1 g2 g3
  rw [h3] at g2 g3
  refine ⟨fun m hm => (g1 m hm).trans ((h2 m hm).trans (State.link_setLink_other s w hm)), ?_, ?_, ?_, ?_⟩
  · rw [g3, g2, h1]
    rfl
  · rw [g3]
    exact congrArg satInc hr2
  · rw [g3, h1]
    rfl
  · rw [g3]
    rfl

/-- EPOCH_RECEIVE of an epoch that is withheld (R260 to R263, R268). -/
theorem epochReceive_withheld (hu : (s.link l).st = .up) (hq : e.heads.head?.map (·.seq) = some (s.link l).rxSeq) :
    (e.fecOk = false → completes (.epochReceive l e) s fun t => onlyLink l s t ∧ (t.link l).rxSeq = (s.link l).rxSeq ∧
      (t.link l).st = .up ∧ (t.link l).uncorrectable = satInc (s.link l).uncorrectable ∧
      (t.link l).epochFails = (s.link l).epochFails + 1 ∧ (t.link l).credits = (s.link l).credits ∧
      (t.link l).reqRetrain = ((s.link l).reqRetrain || decide (1 ≤ (s.link l).epochFails))) ∧
    (e.fecOk = true → epochHeads e = false → completes (.epochReceive l e) s fun t => onlyLink l s t ∧
      t.link l = { s.link l with corrected := (s.link l).corrected + e.fecCorrected, epochFails := (s.link l).epochFails + 1,
                                 reqRetrain := (s.link l).reqRetrain || decide (1 ≤ (s.link l).epochFails) }) ∧
    (e.fecOk = true → epochHeads e = true → (s.link l).tagOk e = false →
      ((s.link l).firstAfter = false → completes (.epochReceive l e) s fun t => onlyLink l s t ∧
        (t.link l).rxSeq = (s.link l).rxSeq ∧ (t.link l).st = .up ∧ (t.link l).authFails = satInc (s.link l).authFails ∧
        (t.link l).epochFails = (s.link l).epochFails + 1 ∧ (t.link l).credits = (s.link l).credits) ∧
      ((s.link l).firstAfter = true → (s.link l).txQ = [] → (s.link l).kept = [] → (s.link l).latched ≠ some true →
        completes (.epochReceive l e) s fun t => downNow s t l ∧ logged s t 0x0306)) := by
  refine ⟨fun hf => ?_, fun hf hh => ?_, fun hf hh ht => ⟨fun ha => ?_, fun ha hx hk hl => ?_⟩⟩
  · refine ⟨_, (epochReceive_of hu hq).trans (congrArg _ (if_pos hf)), onlyLink_setLink s l _, ?_⟩
    rw [State.link_setLink_same]
    exact ⟨rfl, hu, rfl, rfl, rfl, rfl⟩
  · refine ⟨_, (epochReceive_of hu hq).trans (congrArg _ ((if_neg (by rw [hf]; exact fun h => Bool.noConfusion h)).trans (if_pos hh))),
      onlyLink_setLink s l _, ?_⟩
    rw [State.link_setLink_same]
    rfl
  · have hx := epochReceive_of hu hq
    rw [hf, hh, ht, ha] at hx
    refine ⟨_, hx, onlyLink_setLink s l _, ?_⟩
    change ((s.setLink l { (s.link l).mended e with authFails := satInc (s.link l).authFails }.epochFailed).link l).rxSeq = _ ∧
      ((s.setLink l { (s.link l).mended e with authFails := satInc (s.link l).authFails }.epochFailed).link l).st = _ ∧
      ((s.setLink l { (s.link l).mended e with authFails := satInc (s.link l).authFails }.epochFailed).link l).authFails = _ ∧
      ((s.setLink l { (s.link l).mended e with authFails := satInc (s.link l).authFails }.epochFailed).link l).epochFails = _ ∧
      ((s.setLink l { (s.link l).mended e with authFails := satInc (s.link l).authFails }.epochFailed).link l).credits = _
    rw [State.link_setLink_same]
    exact ⟨rfl, hu, rfl, rfl, rfl⟩
  · have hexec := epochReceive_of hu hq
    rw [hf, hh, ht, ha] at hexec
    have hlk := State.link_setLink_same s l { (s.link l).mended e with authFails := satInc (s.link l).authFails }.epochFailed
    obtain ⟨h1, h2, -⟩ := down_recorded (l := l) (by rw [hlk]; exact hx) (by rw [hlk]; exact hk) (by rw [hlk]; exact hl) 0x0306
      (BitVec.ofNat 32 l.val ||| bitAt false 7)
      (((s.setLink l { (s.link l).mended e with authFails := satInc (s.link l).authFails }.epochFailed).link l).peerDev.setWidth 64)
    exact ⟨_, hexec, downNow_setLink h1, h2⟩

end

/-! ### Replays, retrains and the loss of a link (R267, R268, R277) -/

section
variable {s : State} {l : LinkNo} {tm : Word64}

theorem replayTimeout_of (hu : (s.link l).st = .up) : exec (.replayTimeout l tm) s =
    .next (if windowOver (s.link l).progress 2000 (s.at tm).tb = true then (s.at tm).replay l else s.at tm) := by
  change execReplayTimeout l tm s = _
  unfold execReplayTimeout
  dsimp only
  rw [link_at]
  split
  · next h => rw [if_pos h.2]
  · next h => rw [if_neg fun g => h ⟨hu, g⟩]

theorem replayTimeout_replays (hu : (s.link l).st = .up) (hw : windowOver (s.link l).progress 2000 (s.at tm).tb = true) :
    completes (.replayTimeout l tm) s fun t =>
      t = { s.at tm with links := t.links, flt := t.flt, out := s.out ++ (s.link l).kept.map fun x => Out.linkPkt l x.2 } ∧
      (∀ m, m ≠ l → t.link m = s.link m) ∧
      t.link l = { s.link l with replays := satInc (s.link l).replays, stuck := (s.link l).stuck + 1,
                                 txEpoch := (s.link l).epochNow (s.at tm).tb, txBase := (s.link l).txAck,
                                 txStart := (s.at tm).tb } := by
  refine ⟨_, (replayTimeout_of hu).trans (congrArg _ (if_pos hw)), ?_⟩
  obtain ⟨h1, h2, h3⟩ := replay_spec (s.at tm) l
  have ho : (s.at tm).out = s.out := by
    obtain ⟨b, hb⟩ := at_is s tm
    rw [hb]
  rw [link_at] at h2 h3
  rw [ho] at h2
  exact ⟨h2, fun m hm => (h1 m hm).trans (link_at s tm m), h3⟩

/-- The link that retrains (R268). -/
def Link.retraining (k : Link) (now : Word64) : Link :=
  { k.restart (k.seqNow now) now with
      st := .retrain, retrains := satInc k.retrains, recent := (k.recent.filter fun x => !windowOver x 1000000000 now) ++ [now] }

theorem linkRetrain_of {r : Bool} (hu : (s.link l).st = .up) (hn : 8 ≤ (s.link l).stuck) : exec (.linkRetrain l r tm) s =
    .next (if 4 ≤ (((s.link l).recent.filter fun x => !windowOver x 1000000000 (s.at tm).tb) ++ [(s.at tm).tb]).length then
        (((s.at tm).setLink l ((s.link l).retraining (s.at tm).tb)).fault 0x0302 none (BitVec.ofNat 32 (l.val + 128 * 0)) 0).linkFails l
      else ((s.at tm).setLink l ((s.link l).retraining (s.at tm).tb)).fault 0x0302 none (BitVec.ofNat 32 (l.val + 128 * 0)) 0) := by
  change execLinkRetrain l r tm s = _
  unfold execLinkRetrain
  dsimp only
  rw [link_at, if_neg (by rintro (h | h); exacts [h hu, absurd h.1 (by omega)]), if_pos hn]
  rfl

theorem linkRetrain_short {r : Bool} (hu : (s.link l).st = .up) (hn : 8 ≤ (s.link l).stuck)
    (h : (((s.link l).recent.filter fun x => !windowOver x 1000000000 (s.at tm).tb) ++ [(s.at tm).tb]).length < 4) :
    completes (.linkRetrain l r tm) s fun t => logged (s.at tm) t 0x0302 ∧
      t = { s.at tm with links := t.links, flt := t.flt, jrnl := t.jrnl } ∧ (∀ m, m ≠ l → t.link m = s.link m) ∧
      (t.link l).st = .retrain ∧ (t.link l).retrains = satInc (s.link l).retrains ∧
      (t.link l).recent = ((s.link l).recent.filter fun x => !windowOver x 1000000000 (s.at tm).tb) ++ [(s.at tm).tb] ∧
      (t.link l).kept = (s.link l).kept ∧ (t.link l).txQ = (s.link l).txQ ∧ (t.link l).key = (s.link l).key ∧
      (t.link l).rxKey = (s.link l).rxKey := by
  refine ⟨_, (linkRetrain_of hu hn).trans (congrArg _ (if_neg (Nat.not_le.2 h))), record_logged _ _, rfl,
    fun m hm => (State.link_setLink_other _ ((s.link l).retraining (s.at tm).tb) hm).trans (link_at s tm m), ?_⟩
  rw [show (((s.at tm).setLink l ((s.link l).retraining (s.at tm).tb)).fault 0x0302 none (BitVec.ofNat 32 (l.val + 128 * 0)) 0).link l =
    (s.link l).retraining (s.at tm).tb from State.link_setLink_same (s.at tm) l ((s.link l).retraining (s.at tm).tb)]
  exact ⟨rfl, rfl, rfl, rfl, rfl, rfl, rfl⟩

/-- A link that changes, with a record, and then fails with nothing to move on. -/
theorem linkFails_recorded {w : Link} (hq : w.txQ = []) (hk : w.kept = []) (hl : w.latched ≠ some true) (cls : BitVec 16) (d : Word32) (a : Word64) :
    downNow s (((s.setLink l w).fault cls none d a).linkFails l) l ∧
      ∃ x ∈ (((s.setLink l w).fault cls none d a).linkFails l).flt.buf, x.cls = 0x0305 := by
  have hlk : ((s.setLink l w).fault cls none d a).link l = w := State.link_setLink_same s l w
  have ho (m : LinkNo) (hm : m ≠ l) : ((s.setLink l w).fault cls none d a).link m = s.link m := State.link_setLink_other s w hm
  have hf : (s.setLink l w).fault cls none d a = { s with
      links := ((s.setLink l w).fault cls none d a).links, flt := ((s.setLink l w).fault cls none d a).flt, jrnl := ((s.setLink l w).fault cls none d a).jrnl } := rfl
  generalize (s.setLink l w).fault cls none d a = u at hlk ho hf
  obtain ⟨⟨-, -, -, -, -, h1, h2⟩, ⟨-, x, h3, h4, -⟩, h5⟩ := down_recorded (s := u) (l := l) (by rw [hlk]; exact hq) (by rw [hlk]; exact hk) (by rw [hlk]; exact hl)
    0x0305 (BitVec.ofNat 32 l.val) ((u.link l).peerDev.setWidth 64)
  change downNow s ((u.linkToDown l).fault 0x0305 none (BitVec.ofNat 32 l.val) ((u.link l).peerDev.setWidth 64)) l ∧
    ∃ x ∈ ((u.linkToDown l).fault 0x0305 none (BitVec.ofNat 32 l.val) ((u.link l).peerDev.setWidth 64)).flt.buf, x.cls = 0x0305
  generalize (u.linkToDown l).fault 0x0305 none (BitVec.ofNat 32 l.val) ((u.link l).peerDev.setWidth 64) = t at h1 h2 h3 h5
  refine ⟨downNow_of h5 (fun m hm => (h1 m hm).trans (ho m hm)) ?_, x, ?_, h4⟩
  · rw [h2, hf]
  · rw [h3]
    exact List.mem_append_right _ (List.mem_singleton.2 rfl)

/-- What a link with nothing to move on leaves when its service fails. -/
theorem linkFails_spec (hq : (s.link l).txQ = []) (hk : (s.link l).kept = []) (hl : (s.link l).latched ≠ some true) :
    downNow s (s.linkFails l) l ∧ logged s (s.linkFails l) 0x0305 ∧ (s.linkFails l).link l = (s.link l).downed :=
  down_recorded hq hk hl 0x0305 (BitVec.ofNat 32 l.val) ((s.link l).peerDev.setWidth 64)

theorem steer_whole {best : List (Fin 4)} (hb : (s.link l).badLanes = []) :
    s.steer l best = s.setLink l { s.link l with lanes := 15, half := false } := by
  unfold State.steer
  dsimp only
  refine Eq.trans ?_ (useLanes_whole (best := best) hb)
  rw [hb]
  rfl

/-- The link UP again after its retrain (R268). -/
def Link.retrained (k : Link) (now : Word64) : Link :=
  { k with st := .up, firstAfter := true, stuck := 0, progress := now, epochFails := 0, reqRetrain := false, latched := none,
           txBase := k.txAck, txStart := now }

theorem retrainUp_spec (hq : (s.link l).txQ = []) : (∀ m, m ≠ l → (s.retrainUp l).link m = s.link m) ∧
    s.retrainUp l = { s with links := (s.retrainUp l).links, out := s.out ++ (s.link l).kept.map fun x => Out.linkPkt l x.2 } ∧
    (s.retrainUp l).link l = (s.link l).retrained s.tb := by
  have hr : s.retrainUp l = ((s.setLink l ((s.link l).retrained s.tb)).sendAll ((s.link l).kept.map fun x => Out.linkPkt l x.2)).flush l := rfl
  rw [hr]
  generalize hu : (s.setLink l ((s.link l).retrained s.tb)).sendAll ((s.link l).kept.map fun x => Out.linkPkt l x.2) = u
  have hlk : u.link l = (s.link l).retrained s.tb := by
    rw [← hu]
    exact State.link_setLink_same s l ((s.link l).retrained s.tb)
  have ho (m : LinkNo) (hm : m ≠ l) : u.link m = s.link m := by
    rw [← hu]
    exact State.link_setLink_other s ((s.link l).retrained s.tb) hm
  obtain ⟨⟨h1, h2⟩, h3⟩ := flush_empty (s := u) (l := l) (by rw [hlk]; exact hq)
  refine ⟨fun m hm => (h2 m hm).trans (ho m hm), ?_, h3.trans hlk⟩
  generalize u.flush l = t at h1
  rw [h1, ← hu]
  rfl

theorem linkRetrainDone_ok {o : LaneObs} (hs : (s.link l).st = .retrain) (ho : o.ok = true) (hb : (s.link l).badLanes = [])
    (hl : (s.link l).latched ≠ some false) : exec (.linkRetrainDone l o tm) s =
      .next (((s.at tm).setLink l { s.link l with lanes := 15, half := false }).retrainUp l) := by
  change execLinkRetrainDone l o tm s = _
  unfold execLinkRetrainDone
  dsimp only
  rw [link_at, if_neg (not_not_intro hs), if_neg (by rw [ho]; rintro (h | h); exacts [Bool.noConfusion h, hl h]),
    steer_whole (by rw [link_at]; exact hb), link_at, State.link_setLink_same]
  exact if_neg (by decide : ¬ popCount (15 : BitVec 4) < 2)

theorem linkRetrainDone_fails {o : LaneObs} (hs : (s.link l).st = .retrain) (ho : o.ok = false) :
    exec (.linkRetrainDone l o tm) s = .next ((s.at tm).linkFails l) := by
  change execLinkRetrainDone l o tm s = _
  unfold execLinkRetrainDone
  dsimp only
  rw [link_at, if_neg (not_not_intro hs), if_pos (Or.inl ho)]

theorem linkRetrainDone_up {o : LaneObs} (hs : (s.link l).st = .retrain) (ho : o.ok = true) (hb : (s.link l).badLanes = [])
    (hl : (s.link l).latched ≠ some false) (hq : (s.link l).txQ = []) : completes (.linkRetrainDone l o tm) s fun t =>
        (∀ m, m ≠ l → t.link m = s.link m) ∧
        t = { s.at tm with links := t.links, out := s.out ++ (s.link l).kept.map fun x => Out.linkPkt l x.2 } ∧
        t.link l = { s.link l with st := .up, firstAfter := true, stuck := 0, progress := (s.at tm).tb, epochFails := 0,
                                   reqRetrain := false, latched := none, lanes := 15, half := false,
                                   txBase := (s.link l).txAck, txStart := (s.at tm).tb } := by
  refine ⟨_, linkRetrainDone_ok hs ho hb hl, ?_⟩
  have hlk := State.link_setLink_same (s.at tm) l { s.link l with lanes := 15, half := false }
  obtain ⟨h1, h2, h3⟩ := retrainUp_spec (s := (s.at tm).setLink l { s.link l with lanes := 15, half := false }) (l := l) (by rw [hlk]; exact hq)
  rw [hlk] at h2 h3
  have hout : ((s.at tm).setLink l { s.link l with lanes := 15, half := false }).out = s.out := by
    obtain ⟨b, hb⟩ := at_is s tm
    rw [hb]
    rfl
  rw [hout] at h2
  refine ⟨fun m hm => (h1 m hm).trans ((State.link_setLink_other _ _ hm).trans (link_at s tm m)), ?_, h3⟩
  generalize State.retrainUp _ l = t at h2
  rw [h2]
  rfl

theorem linkDown_spec (hq : (s.link l).txQ = []) (hk : (s.link l).kept = []) (hl : (s.link l).latched ≠ some true) (hu : (s.link l).st = .up) :
    completes (.linkDown l) s fun t => downNow s t l ∧ (t.link l).moved = true ∧ logged s t 0x0305 := by
  have hx : exec (.linkDown l) s = .next (s.linkFails l) := by
    change execLinkDown l s = _
    unfold execLinkDown
    dsimp only
    rw [hu]
  obtain ⟨h1, h2, h3⟩ := linkFails_spec hq hk hl
  refine ⟨_, hx, h1, ?_, h2⟩
  rw [h3]
  change (decide ((s.link l).st = .up) || decide ((s.link l).st = .retrain) || (s.link l).moved) = true
  rw [decide_eq_true hu]
  rfl

theorem linkDown_latched (h : (s.link l).st ∈ [LinkState.training, .ident, .keying, .retrain]) :
    exec (.linkDown l) s = .next (s.setLink l { s.link l with latched := some false }) := by
  change execLinkDown l s = _
  unfold execLinkDown
  dsimp only
  cases hs : (s.link l).st with
  | absent => rw [hs] at h; exact absurd h (by decide)
  | down => rw [hs] at h; exact absurd h (by decide)
  | up => rw [hs] at h; exact absurd h (by decide)
  | training => rfl
  | ident => rfl
  | keying => rfl
  | retrain => rfl

theorem linkDown_none (h : (s.link l).st = .absent ∨ (s.link l).st = .down) : exec (.linkDown l) s = .next s := by
  change execLinkDown l s = _
  unfold execLinkDown
  dsimp only
  rcases h with h | h <;> rw [h]

theorem linkFlowsReturn_of : exec (.linkFlowsReturn l) s =
    .next (if (s.link l).st = .up ∧ (s.link l).moved = true ∧ s.flowsDone l = true then s.setLink l { s.link l with moved := false } else s) := by
  change execLinkFlowsReturn l s = _
  unfold execLinkFlowsReturn
  dsimp only
  split <;> rfl

theorem laneSerWindow_marks {lane : Fin 4} {rx : Bool} (ha : (s.link l).st ≠ .absent) (hd : (s.link l).st ≠ .down)
    (hb : (lane, rx) ∉ (s.link l).badLanes) : exec (.laneSerWindow l lane rx true) s =
      .next (s.setLink l { s.link l with badLanes := (s.link l).badLanes ++ [(lane, rx)] }) := by
  change execLaneSerWindow l lane rx true s = _
  unfold execLaneSerWindow
  dsimp only
  refine if_neg ?_
  rintro (h | h | h | h)
  · exact Bool.noConfusion h
  · exact ha h
  · exact hd h
  · exact hb (List.contains_iff_mem.1 h)

end

/-- Settles O40: what a verified epoch's headers bring is a sum over them; a link that fails with nothing to move on is
DOWN. -/
theorem linksCarryAndFail : Obligations.LinksCarryAndFail := by
  unfold Obligations.LinksCarryAndFail
  dsimp only
  refine ⟨fun s l e h => ⟨_, epochReceive_apart h, rfl⟩, fun s l e hu hq => ?_,
    fun s l tm hu => ⟨fun hw => replayTimeout_replays hu hw, fun hw =>
      ⟨_, (replayTimeout_of hu).trans (congrArg _ (if_neg (by rw [hw]; exact Bool.false_ne_true))), rfl⟩⟩,
    fun s l r tm hu hn => ⟨fun h => linkRetrain_short hu hn h, fun h hq hk hl =>
      ⟨_, (linkRetrain_of hu hn).trans (congrArg _ (if_pos h)), linkFails_recorded (w := (s.link l).retraining (s.at tm).tb) hq hk hl _ _ _⟩⟩,
    fun s l o tm hs => ⟨fun ho hb hl hq => linkRetrainDone_up hs ho hb hl hq, fun ho hq hk hl => ?_⟩,
    fun s l => ⟨fun hu hq hk hl => linkDown_spec hq hk hl hu,
      fun h => ⟨_, linkDown_latched h, onlyLink_setLink s l _, State.link_setLink_same s l _⟩, fun h => ⟨_, linkDown_none h, rfl⟩,
      fun hu hm hf => ⟨_, linkFlowsReturn_of.trans (congrArg _ (if_pos ⟨hu, hm, hf⟩)), onlyLink_setLink s l _, State.link_setLink_same s l _⟩,
      fun hf => ⟨_, linkFlowsReturn_of.trans (congrArg _ (if_neg fun h => Bool.noConfusion (hf.symm.trans h.2.2))), rfl⟩,
      fun lane rx ha hd hb => ⟨_, laneSerWindow_marks ha hd hb, onlyLink_setLink s l _, State.link_setLink_same s l _⟩⟩⟩
  · obtain ⟨h1, h2, h3⟩ := epochReceive_withheld hu hq
    exact ⟨h1, h2, h3, fun hf hh ht hp hx => ⟨fun hr h hl => epochReceive_verified hu hq hf hh ht hp hx hr hl,
      fun hr => epochReceive_replays hu hq hf hh ht hp hx hr⟩⟩
  · have hlk := link_at s tm l
    obtain ⟨h1, h2, -⟩ := linkFails_spec (s := s.at tm) (l := l) (by rw [hlk]; exact hq) (by rw [hlk]; exact hk) (by rw [hlk]; exact hl)
    exact ⟨_, linkRetrainDone_fails hs ho, h1, h2⟩

end Sys2Proof.Machine
end

section
/-!
PROOF. Rings and descriptors (11_host_interface.md): doorbells, enabling and disabling, the fetch and the completion of a descriptor; O44.
-/

namespace Sys2Proof.Machine

/-! ### Rings and outstanding descriptors (R314 to R321) -/

section
variable {s : State} {r : RingNo} {f : Ring → Ring}

theorem ring_at (s : State) (tm : Word64) (r : RingNo) : (s.at tm).ring r = s.ring r := by
  obtain ⟨b, hb⟩ := at_is s tm
  rw [hb]
  rfl

theorem host_at (s : State) (tm : Word64) : (s.at tm).host = s.host := by
  obtain ⟨b, hb⟩ := at_is s tm
  rw [hb]

theorem onlyRing_setRing (s : State) (r : RingNo) (g : Ring) : onlyRing r s (s.setRing r g) :=
  ⟨rfl, fun _ hm => State.ring_setRing_other s g hm⟩

theorem onlyRing_trans {t u : State} (h : onlyRing r s t) (k : onlyRing r t u) : onlyRing r s u := by
  obtain ⟨h1, h2⟩ := h
  obtain ⟨k1, k2⟩ := k
  refine ⟨?_, fun m hm => (k2 m hm).trans (h2 m hm)⟩
  rw [k1, h1]

/-- What a change of a ring keeps it keeps of every ring. -/
theorem ring_modRing_field {β : Type} (p : Ring → β) (hf : ∀ g, p (f g) = p g) (m : RingNo) :
    p ((s.modRing r f).ring m) = p (s.ring m) := by
  by_cases h : m = r
  · rw [h, State.ring_modRing_same, hf]
  · rw [State.ring_modRing_other s f h]

end

section
variable {s : State} {id k : Nat} {d : Desc} {f : Desc → Desc}

theorem desc_id (h : s.desc k = some d) : d.id = k := of_decide_eq_true (List.find?_some (p := fun d : Desc => decide (d.id = k)) h)

theorem desc_modDesc (hf : ∀ d, (f d).id = d.id) : (s.modDesc id f).desc k = (s.desc k).map fun d => if d.id = id then f d else d := by
  change List.find? (fun d : Desc => decide (d.id = k)) (List.map _ s.host.descs) = _
  rw [List.find?_map]
  refine congrArg _ (congrArg (fun p => List.find? p s.host.descs) (funext fun d => ?_))
  change decide ((if d.id = id then f d else d).id = k) = _
  split
  · rw [hf]
  · rfl

theorem desc_modDesc_same (hf : ∀ d, (f d).id = d.id) (h : s.desc id = some d) : (s.modDesc id f).desc id = some (f d) := by
  rw [desc_modDesc hf, h, Option.map_some, if_pos (desc_id h)]

theorem desc_modDesc_other (hf : ∀ d, (f d).id = d.id) (h : k ≠ id) : (s.modDesc id f).desc k = s.desc k := by
  rw [desc_modDesc hf]
  cases hd : s.desc k with
  | none => rfl
  | some d => rw [Option.map_some, if_neg (by rw [desc_id hd]; exact h)]

/-- What becomes of a descriptor whose completion becomes ready (R330). -/
def Desc.readied (now : Word64) (status : BitVec 7) (detail : Word32) (result : Word64) (d : Desc) : Desc :=
  match d.ready with
  | some _ => d
  | none =>
    if windowOver d.fetched d.deadline now then
      { d with started := true, ready := some { status := 5, detail := 0x80000000, result := result, time := now } }
    else { d with started := true, ready := some { status := status, detail := detail, result := result, time := now } }

theorem setReady_eq (s : State) (id : Nat) (status : BitVec 7) (detail : Word32) (result : Word64) :
    s.setReady id status detail result = s.modDesc id (Desc.readied s.tb status detail result) := rfl

theorem readied_id (now : Word64) (status : BitVec 7) (detail : Word32) (result : Word64) (d : Desc) :
    (d.readied now status detail result).id = d.id := by
  unfold Desc.readied
  split
  · rfl
  · split <;> rfl

/-- Inside its deadline a descriptor takes the status it is given. -/
theorem readied_inside {now : Word64} {status : BitVec 7} {detail : Word32} {result : Word64} (hr : d.ready = none)
    (hw : windowOver d.fetched d.deadline now = false) : d.readied now status detail result =
      { d with started := true, ready := some { status := status, detail := detail, result := result, time := now } } := by
  unfold Desc.readied
  split
  · next h => exact nomatch hr.symm.trans h
  · rw [hw]
    rfl

end

/-! ### Doorbells and the ring's configuration (R315, R317) -/

section
variable {s : State} {r : RingNo} {v cfg : Word32}

theorem sqTail_takes (hr : s.host.ready = true) (he : (s.ring r).enable = true) (hn : (v.extractLsb' 0 16).toNat < (s.ring r).sqSize) :
    exec (.sqTail r v) s = .next (s.setRing r { s.ring r with sqTail := v.extractLsb' 0 16 }) := by
  change execSqTail r v s = _
  unfold execSqTail
  dsimp only
  rw [if_neg (by rw [hr]; exact fun h => Bool.noConfusion h), if_neg (by rw [he]; exact fun h => Bool.noConfusion h), if_neg (Nat.not_le.2 hn)]

theorem sqTail_errs (hr : s.host.ready = true) (he : (s.ring r).enable = true) (hn : (s.ring r).sqSize ≤ (v.extractLsb' 0 16).toNat) :
    exec (.sqTail r v) s = .next (s.dbError r) := by
  change execSqTail r v s = _
  unfold execSqTail
  dsimp only
  rw [if_neg (by rw [hr]; exact fun h => Bool.noConfusion h), if_neg (by rw [he]; exact fun h => Bool.noConfusion h), if_pos hn]

theorem sqTail_ignored (hr : s.host.ready = true) (he : (s.ring r).enable = false) : exec (.sqTail r v) s = .next s.dbIgnore := by
  change execSqTail r v s = _
  unfold execSqTail
  dsimp only
  rw [if_neg (by rw [hr]; exact fun h => Bool.noConfusion h), if_pos he]

theorem cqHead_takes (hr : s.host.ready = true) (he : (s.ring r).enable = true) (hn : (v.extractLsb' 0 16).toNat < (s.ring r).cqSize)
    (hw : ((v.extractLsb' 0 16).toNat + (s.ring r).cqSize - (s.ring r).cqHead.toNat) % (s.ring r).cqSize ≤
      ((s.ring r).cqTail.toNat + (s.ring r).cqSize - (s.ring r).cqHead.toNat) % (s.ring r).cqSize) :
    exec (.cqHead r v) s = .next (s.setRing r { s.ring r with cqHead := v.extractLsb' 0 16 }) := by
  change execCqHead r v s = _
  unfold execCqHead
  dsimp only
  rw [if_neg (by rw [hr]; exact fun h => Bool.noConfusion h), if_neg (by rw [he]; exact fun h => Bool.noConfusion h), if_neg (Nat.not_le.2 hn),
    if_neg (Nat.not_lt.2 hw)]

theorem ringEnable_of (hr : s.host.ready = true) (ho : (s.ring r).owner = none) (ha : (s.ring r).active = false) :
    exec (.ringEnable r cfg) s = .next ((s.setRing r ((s.ring r).config cfg)).enableRing r) := by
  change execRingEnable r cfg s = _
  unfold execRingEnable
  dsimp only
  rw [if_neg (by rw [hr, ho]; decide), ha]
  rfl

/-- A ring that starts: its indices 0, its phase 1 (R317). -/
def Ring.begun (g : Ring) : Ring :=
  { g with enable := true, active := true, sqHead := 0, sqTail := 0, cqHead := 0, cqTail := 0, phase := true, err := 0, stopped := false }

theorem enableRing_ok (h : s.ringOk r = true) : s.enableRing r = s.setRing r (s.ring r).begun := if_pos h

theorem enableRing_bad (h : s.ringOk r = false) : s.enableRing r = s.setRing r { s.ring r with err := 1 } :=
  if_neg (by rw [h]; exact Bool.false_ne_true)

theorem ringEnable_good (hr : s.host.ready = true) (ho : (s.ring r).owner = none) (ha : (s.ring r).active = false)
    (hv : cfg.extractLsb' 22 4 = 1) (h1 : 4 ≤ (cfg.extractLsb' 5 5).toNat) (h2 : (cfg.extractLsb' 5 5).toNat ≤ 16)
    (h3 : 4 ≤ (cfg.extractLsb' 0 5).toNat) (h4 : (cfg.extractLsb' 0 5).toNat ≤ 16) (h5 : (cfg.extractLsb' 10 8).toNat = r.val)
    (h6 : (s.ring r).sqBase.extractLsb' 0 12 = 0) (h7 : (s.ring r).cqBase.extractLsb' 0 12 = 0) :
    completes (.ringEnable r cfg) s fun t => onlyRing r s t ∧
        (t.ring r).enable = true ∧ (t.ring r).active = true ∧ (t.ring r).sqHead = 0 ∧ (t.ring r).sqTail = 0 ∧ (t.ring r).cqHead = 0 ∧
        (t.ring r).cqTail = 0 ∧ (t.ring r).phase = true ∧ (t.ring r).err = 0 ∧ (t.ring r).reserved = (s.ring r).reserved ∧
        (t.ring r).sqLog2 = cfg.extractLsb' 5 5 ∧ (t.ring r).cqLog2 = cfg.extractLsb' 0 5 ∧ (t.ring r).irqEn = cfg.getLsbD 30 ∧
        (t.ring r).sqBase = (s.ring r).sqBase := by
  have hok : (s.setRing r ((s.ring r).config cfg)).ringOk r = true := by
    unfold State.ringOk
    dsimp only
    rw [State.ring_setRing_same]
    have hcq : ((s.ring r).config cfg).cq = r := Fin.ext h5
    rw [hcq, decide_eq_true (rfl : r = r), Bool.true_or]
    rw [decide_eq_true (show ((s.ring r).config cfg).version = 1 from hv), decide_eq_true (show 4 ≤ ((s.ring r).config cfg).sqLog2.toNat from h1),
      decide_eq_true (show ((s.ring r).config cfg).sqLog2.toNat ≤ 16 from h2), decide_eq_true (show 4 ≤ ((s.ring r).config cfg).cqLog2.toNat from h3),
      decide_eq_true (show ((s.ring r).config cfg).cqLog2.toNat ≤ 16 from h4),
      decide_eq_true (show ((s.ring r).config cfg).sqBase.extractLsb' 0 12 = 0 from h6),
      decide_eq_true (show ((s.ring r).config cfg).cqBase.extractLsb' 0 12 = 0 from h7)]
    rfl
  refine ⟨_, ringEnable_of hr ho ha, ?_⟩
  rw [enableRing_ok hok, State.ring_setRing_same]
  refine ⟨onlyRing_trans (onlyRing_setRing s r _) (onlyRing_setRing _ r _), ?_⟩
  rw [State.ring_setRing_same]
  exact ⟨rfl, rfl, rfl, rfl, rfl, rfl, rfl, rfl, rfl, rfl, rfl, rfl, rfl⟩

theorem ringEnable_version (hr : s.host.ready = true) (ho : (s.ring r).owner = none) (ha : (s.ring r).active = false)
    (hv : cfg.extractLsb' 22 4 ≠ 1) : completes (.ringEnable r cfg) s fun t => onlyRing r s t ∧ (t.ring r).err = 1 ∧
      (t.ring r).enable = (s.ring r).enable ∧ (t.ring r).active = false := by
  have hok : (s.setRing r ((s.ring r).config cfg)).ringOk r = false := by
    unfold State.ringOk
    dsimp only
    rw [State.ring_setRing_same, decide_eq_false (show ¬ ((s.ring r).config cfg).version = 1 from hv)]
    rfl
  refine ⟨_, ringEnable_of hr ho ha, ?_⟩
  rw [enableRing_bad hok, State.ring_setRing_same]
  refine ⟨onlyRing_trans (onlyRing_setRing s r _) (onlyRing_setRing _ r _), ?_⟩
  rw [State.ring_setRing_same]
  exact ⟨rfl, rfl, ha⟩

theorem ringDisable_of (hr : s.host.ready = true) (ho : (s.ring r).owner = none) (he : (s.ring r).enable = true) :
    exec (.ringDisable r) s = .next (if s.cqInUse r then s.setRing r { s.ring r with err := 4 }
      else s.setRing r { s.ring r with enable := false, active := decide ((s.ring r).outstanding ≠ 0) }) := by
  change execRingDisable r s = _
  unfold execRingDisable
  dsimp only
  rw [if_neg (by rw [hr, ho]; decide), if_neg (by rw [he]; exact fun h => Bool.noConfusion h)]
  split <;> rfl

theorem ringInactive_ends (he : (s.ring r).enable = false) (ha : (s.ring r).active = true) (ho : (s.ring r).outstanding = 0)
    (hl : (s.ring r).latched = none) : exec (.ringInactive r) s = .next (s.setRing r { s.ring r with active := false }) := by
  change execRingInactive r s = _
  unfold execRingInactive
  dsimp only
  rw [if_neg (by rw [he, ha, ho]; decide)]
  have hg : ({ s.ring r with active := false, latched := none } : Ring) = { s.ring r with active := false } := by
    rw [← hl]
  rw [hl, hg]

end

/-! ### The fetch of a descriptor (R319) -/

section
variable {s : State} {r : RingNo} {ws : List Word32} {tm : Word64}

/-- The descriptor of a fetched entry. -/
def State.fetchedDesc (s : State) (r : RingNo) (ws : List Word32) : Desc :=
  { id := s.host.nextDesc, ring := r, words := ws, fetched := s.tb, started := false, ready := none, left := [],
    rollbacks := 0, slipMax := 0, image := [] }

/-- The ring that an entry is fetched from, and the slot reserved for its completion. -/
def State.takenFrom (s : State) (r : RingNo) : State :=
  (s.setRing r { s.ring r with
    sqHead := BitVec.ofNat 16 (((s.ring r).sqHead.toNat + 1) % (s.ring r).sqSize), outstanding := (s.ring r).outstanding + 1 }).modRing
      (s.ring r).cq fun q => { q with reserved := q.reserved + 1 }

/-- The state with a fetched descriptor outstanding. -/
def State.withFetched (s : State) (r : RingNo) (ws : List Word32) : State :=
  { s.takenFrom r with host := { (s.takenFrom r).host with
      descs := s.host.descs ++ [s.fetchedDesc r ws], nextDesc := s.host.nextDesc + 1, lastRing := r, readRun := s.readsOn r } }

theorem descriptorFetch_of {ok : Bool} (hr : s.host.ready = true) (hl : s.host.lost = false) (hf : s.fetchable r = true)
    (ht : s.fetchTurn r = true) (hn : s.host.descs.length < 4096) : exec (.descriptorFetch r ws ok tm) s =
      .next (if ok = false then { (s.at tm).setRing r { s.ring r with err := 3, stopped := true } with
          host := { ((s.at tm).setRing r { s.ring r with err := 3, stopped := true }).host with lastRing := r, readRun := 0 } }
        else if ((s.at tm).fetchedDesc r ws).headOk then (s.at tm).withFetched r ws
        else ((s.at tm).withFetched r ws).setReady s.host.nextDesc 1 0 0) := by
  change execDescriptorFetch r ws ok tm s = _
  unfold execDescriptorFetch
  dsimp only
  obtain ⟨b, hb⟩ := at_is s tm
  rw [hb]
  rw [if_neg]
  · split
    · rfl
    · split
      · next h => exact congrArg _ (if_pos h).symm
      · next h => exact congrArg _ (if_neg h).symm
  · rintro (h | h | h | h | h)
    · exact Bool.noConfusion (hr.symm.trans h)
    · exact Bool.noConfusion (hl.symm.trans h)
    · exact Bool.noConfusion (hf.symm.trans h)
    · exact Bool.noConfusion (ht.symm.trans h)
    · exact absurd h (Nat.not_le.2 hn)

theorem fetchable_of (he : (s.ring r).enable = true) (hp : (s.ring r).stopped = false) (hq : (s.ring r).sqHead ≠ (s.ring r).sqTail)
    (hc : (s.ring (s.ring r).cq).cqFree ≠ 0) : s.fetchable r = true := by
  unfold State.fetchable
  dsimp only
  rw [he, hp, decide_eq_true hq, decide_eq_true hc]
  rfl

theorem fetchTurn_of (h : (r = s.host.lastRing ∧ s.host.readRun ≠ 0 ∧ s.host.readRun < 32) ∨
    ∀ q, s.fetchable q = true → s.ringTurn r ≤ s.ringTurn q) : s.fetchTurn r = true := by
  unfold State.fetchTurn
  rcases h with ⟨h1, h2, h3⟩ | h
  · rw [decide_eq_true h1, decide_eq_true h2, decide_eq_true h3]
    rfl
  · refine (Bool.or_eq_true _ _).mpr (Or.inr (List.all_eq_true.2 fun q _ => ?_))
    by_cases hq : s.fetchable q = true
    · rw [decide_eq_true (h q hq)]
      rfl
    · rw [Bool.eq_false_iff.2 hq, Bool.not_false, Bool.or_true]

/-- The rings after an entry is fetched. -/
theorem takenFrom_spec (s : State) (r : RingNo) :
    ((s.takenFrom r).ring r).sqHead = BitVec.ofNat 16 (((s.ring r).sqHead.toNat + 1) % (s.ring r).sqSize) ∧
      ((s.takenFrom r).ring r).outstanding = (s.ring r).outstanding + 1 ∧
      ((s.takenFrom r).ring (s.ring r).cq).reserved = (s.ring (s.ring r).cq).reserved + 1 ∧
      ∀ x, x ≠ r → x ≠ (s.ring r).cq → (s.takenFrom r).ring x = s.ring x := by
  unfold State.takenFrom
  refine ⟨?_, ?_, ?_, fun x hx hc => (State.ring_modRing_other _ _ hc).trans (State.ring_setRing_other s _ hx)⟩
  · refine (ring_modRing_field (f := fun q => { q with reserved := q.reserved + 1 }) Ring.sqHead (fun _ => rfl) r).trans ?_
    rw [State.ring_setRing_same]
  · refine (ring_modRing_field (f := fun q => { q with reserved := q.reserved + 1 }) Ring.outstanding (fun _ => rfl) r).trans ?_
    rw [State.ring_setRing_same]
  · rw [State.ring_modRing_same]
    by_cases h : (s.ring r).cq = r
    · rw [h, State.ring_setRing_same]
    · rw [State.ring_setRing_other s _ h]

theorem fetchedDesc_deadline (s : State) (r : RingNo) (ws : List Word32) :
    windowOver (s.fetchedDesc r ws).fetched (s.fetchedDesc r ws).deadline s.tb = false := by
  have hd : 1000000000 ≤ (s.fetchedDesc r ws).deadline := by
    unfold Desc.deadline
    dsimp only
    split
    · decide
    · omega
  unfold windowOver
  refine decide_eq_false fun h => ?_
  have : (s.fetchedDesc r ws).fetched = s.tb := rfl
  rw [this] at h
  omega

/-- What both outcomes of a fetched entry keep. -/
def fetchedInto (s : State) (r : RingNo) (t : State) : Prop :=
  t = { s with host := { s.host with rings := t.host.rings, descs := t.host.descs, nextDesc := s.host.nextDesc + 1, lastRing := r, readRun := s.readsOn r } } ∧
      (t.ring r).sqHead = BitVec.ofNat 16 (((s.ring r).sqHead.toNat + 1) % (s.ring r).sqSize) ∧
      (t.ring r).outstanding = (s.ring r).outstanding + 1 ∧
      (t.ring (s.ring r).cq).reserved = (s.ring (s.ring r).cq).reserved + 1 ∧
      ∀ x, x ≠ r → x ≠ (s.ring r).cq → t.ring x = s.ring x

theorem withFetched_into (s : State) (r : RingNo) (ws : List Word32) : fetchedInto s r (s.withFetched r ws) := by
  have h := takenFrom_spec s r
  have hf : s.takenFrom r = { s with host := { s.host with rings := (s.takenFrom r).host.rings } } := rfl
  unfold State.withFetched
  generalize s.takenFrom r = u at h hf
  refine ⟨?_, h⟩
  rw [hf]

theorem fetchedInto_modDesc {t : State} (h : fetchedInto s r t) (id : Nat) (f : Desc → Desc) : fetchedInto s r (t.modDesc id f) := by
  obtain ⟨h1, h2⟩ := h
  refine ⟨?_, h2⟩
  have hm : t.modDesc id f = { t with host := { t.host with descs := (t.modDesc id f).host.descs } } := rfl
  generalize t.modDesc id f = u at hm
  rw [hm, h1]

theorem withFetched_ready (s : State) (r : RingNo) (ws : List Word32) : ((s.withFetched r ws).setReady s.host.nextDesc 1 0 0).host.descs =
    (s.host.descs.map fun d => if d.id = s.host.nextDesc then d.readied s.tb 1 0 0 else d) ++
      [(s.fetchedDesc r ws).readied s.tb 1 0 0] := by
  have hd : (s.withFetched r ws).host.descs = s.host.descs ++ [s.fetchedDesc r ws] := rfl
  have ht : (s.withFetched r ws).tb = s.tb := by
    have h := congrArg State.tb (withFetched_into s r ws).1
    exact h
  generalize s.withFetched r ws = v at hd ht
  rw [setReady_eq, ht]
  change List.map (fun d => if d.id = s.host.nextDesc then Desc.readied s.tb 1 0 0 d else d) v.host.descs = _
  rw [hd, List.map_append]
  exact congrArg _ (congrArg (fun d => [d]) (if_pos rfl))

/-- DESCRIPTOR_FETCH of an entry that arrives (R319, R322). -/
theorem fetched_spec {t : State} (ht : t = if (s.fetchedDesc r ws).headOk then s.withFetched r ws
      else (s.withFetched r ws).setReady s.host.nextDesc 1 0 0) : fetchedInto s r t ∧ t.host.descs.length = s.host.descs.length + 1 ∧
      ∃ d, t.host.descs.getLast? = some d ∧ d.id = s.host.nextDesc ∧ d.ring = r ∧ d.words = ws ∧
        d.fetched = s.tb ∧ (d.headOk = true → d.started = false ∧ d.ready = none) ∧
        (d.headOk = false → ∃ c, d.ready = some c ∧ c.status = 1) := by
  have hi := withFetched_into s r ws
  split at ht
  · next hh =>
    have hd : t.host.descs = s.host.descs ++ [s.fetchedDesc r ws] := by
      rw [ht]
      rfl
    rw [← ht] at hi
    rw [hd]
    exact ⟨hi, List.length_append, s.fetchedDesc r ws, List.getLast?_concat, rfl, rfl, rfl, rfl, fun _ => ⟨rfl, rfl⟩,
      fun h => absurd hh (by rw [h]; exact Bool.false_ne_true)⟩
  · next hh =>
    have hd := withFetched_ready s r ws
    have hi' := fetchedInto_modDesc hi s.host.nextDesc (Desc.readied (s.withFetched r ws).tb 1 0 0)
    rw [← setReady_eq, ← ht] at hi'
    rw [← ht] at hd
    rw [hd]
    refine ⟨hi', ?_, _, List.getLast?_concat, ?_⟩
    · rw [List.length_append, List.length_map]
      rfl
    · rw [readied_inside (d := s.fetchedDesc r ws) rfl (fetchedDesc_deadline s r ws)]
      exact ⟨rfl, rfl, rfl, rfl, fun h => absurd h hh, fun _ => ⟨_, rfl, rfl⟩⟩

end

/-! ### The completion of a descriptor (R312, R321) -/

section
variable {s : State} {id : Nat} {d : Desc} {c : Compl} {tm : Word64}

/-- The CQ after an entry is written. -/
def Ring.wrote (last : Bool) (q : Ring) : Ring :=
  { q with cqTail := if last then 0 else q.cqTail + 1, phase := if last then !q.phase else q.phase, reserved := q.reserved - 1 }

/-- The rings after a completion is written. -/
def State.completedIn (s : State) (d : Desc) : State :=
  (s.modRing (s.ring d.ring).cq (Ring.wrote (decide ((s.ring (s.ring d.ring).cq).cqSize ≤ (s.ring (s.ring d.ring).cq).cqTail.toNat + 1)))).modRing
    d.ring fun g => { g with outstanding := g.outstanding - 1 }

/-- The state in which a descriptor has ended. -/
def State.ended (s : State) (id : Nat) (d : Desc) (c : Compl) : State :=
  { s.completedIn d with host := { (s.completedIn d).host with
      descs := s.host.descs.filter fun e => decide (e.id ≠ id),
      launchEnd := if d.cls = 2 then tset (fun _ => 0) s.host.launchEnd (scopeKey (s.scopeOf d)) c.time else s.host.launchEnd } }

theorem completedIn_scope (s : State) (d : Desc) : (s.completedIn d).scopeOf d = s.scopeOf d :=
  (ring_modRing_field (f := fun g => { g with outstanding := g.outstanding - 1 }) Ring.owner (fun _ => rfl) d.ring).trans
    (ring_modRing_field (f := Ring.wrote _) Ring.owner (fun _ => rfl) d.ring)

/-- The entry that a completion writes (R312). -/
def State.entryOf (s : State) (d : Desc) (c : Compl) : Out :=
  .hostWrite (s.ring d.ring).via ((s.ring (s.ring d.ring).cq).cqBase + (s.ring (s.ring d.ring).cq).cqTail.setWidth 64 * 32)
    (complEntry d c (s.ring (s.ring d.ring).cq).phase (s.ring d.ring).sqHead)

theorem ring_sendHost (s : State) (o : Out) (r : RingNo) : (s.sendHost o).ring r = s.ring r := by
  unfold State.sendHost
  split <;> rfl

theorem descriptorComplete_of (hd : s.desc id = some d) (hc : d.ready = some c) (hl : s.host.lost = false) (hr : s.host.ready = true)
    (ha : s.answersLast d c = false) (hi : d.irq = false) :
    exec (.descriptorComplete id tm) s = .next (((s.at tm).sendHost ((s.at tm).entryOf d c)).ended id d c) := by
  change execDescriptorComplete id tm s = _
  unfold execDescriptorComplete
  dsimp only
  have hd' : (s.at tm).desc id = some d := by
    unfold State.desc
    rw [host_at]
    exact hd
  have ha' : (s.at tm).answersLast d c = false := by
    unfold State.answersLast at ha ⊢
    rw [host_at]
    exact ha
  rw [hd']
  dsimp only
  rw [hc]
  dsimp only
  rw [if_neg (by rw [host_at, hl, hr, ha']; decide), hi]
  have hsc := completedIn_scope ((s.at tm).sendHost ((s.at tm).entryOf d c)) d
  unfold State.ended
  rw [← hsc]
  unfold State.completedIn
  rw [ring_sendHost, ring_sendHost]
  rfl

end

section
variable {s : State} {id : Nat} {d : Desc} {c : Compl} {tm : Word64} {r : RingNo}

/-- The rings after a completion is written (R312, R321). -/
theorem completedIn_spec (s : State) (d : Desc) :
    ((s.completedIn d).ring d.ring).outstanding = (s.ring d.ring).outstanding - 1 ∧
      ((s.completedIn d).ring (s.ring d.ring).cq).reserved = (s.ring (s.ring d.ring).cq).reserved - 1 ∧
      ((s.ring (s.ring d.ring).cq).cqTail.toNat + 1 < (s.ring (s.ring d.ring).cq).cqSize →
        ((s.completedIn d).ring (s.ring d.ring).cq).cqTail = (s.ring (s.ring d.ring).cq).cqTail + 1 ∧
        ((s.completedIn d).ring (s.ring d.ring).cq).phase = (s.ring (s.ring d.ring).cq).phase) ∧
      ((s.ring (s.ring d.ring).cq).cqSize ≤ (s.ring (s.ring d.ring).cq).cqTail.toNat + 1 →
        ((s.completedIn d).ring (s.ring d.ring).cq).cqTail = 0 ∧
        ((s.completedIn d).ring (s.ring d.ring).cq).phase = !(s.ring (s.ring d.ring).cq).phase) := by
  unfold State.completedIn
  have hc {β : Type} (p : Ring → β) (hp : ∀ g : Ring, p { g with outstanding := g.outstanding - 1 } = p g) (v : State) (m : RingNo) :
      p ((v.modRing d.ring fun g => { g with outstanding := g.outstanding - 1 }).ring m) = p (v.ring m) := ring_modRing_field p hp m
  refine ⟨?_, ?_, fun h => ⟨?_, ?_⟩, fun h => ⟨?_, ?_⟩⟩
  · rw [State.ring_modRing_same]
    exact congrArg (· - 1) (ring_modRing_field (f := Ring.wrote _) Ring.outstanding (fun _ => rfl) d.ring)
  · rw [hc Ring.reserved (fun _ => rfl), State.ring_modRing_same]
    rfl
  · rw [hc Ring.cqTail (fun _ => rfl), State.ring_modRing_same, decide_eq_false (Nat.not_le.2 h)]
    rfl
  · rw [hc Ring.phase (fun _ => rfl), State.ring_modRing_same, decide_eq_false (Nat.not_le.2 h)]
    rfl
  · rw [hc Ring.cqTail (fun _ => rfl), State.ring_modRing_same, decide_eq_true h]
    rfl
  · rw [hc Ring.phase (fun _ => rfl), State.ring_modRing_same, decide_eq_true h]
    rfl

theorem ended_desc (s : State) (id : Nat) (d : Desc) (c : Compl) : (s.ended id d c).desc id = none ∧
    ∀ k, k ≠ id → (s.ended id d c).desc k = s.desc k := by
  have hd (k : Nat) : (s.ended id d c).desc k = (s.host.descs.filter fun e => decide (e.id ≠ id)).find? fun d => decide (d.id = k) := rfl
  refine ⟨(hd id).trans (List.find?_eq_none.2 fun e he => ?_), fun k hk => (hd k).trans ?_⟩
  · have := of_decide_eq_true (List.mem_filter.1 he).2
    rw [decide_eq_false this]
    exact Bool.false_ne_true
  · rw [List.find?_filter]
    refine congrArg (fun p => List.find? p s.host.descs) (funext fun e => ?_)
    by_cases h : e.id = k
    · rw [decide_eq_true h, decide_eq_true (show e.id ≠ id by rw [h]; exact hk)]
      decide
    · rw [decide_eq_false h, decide_eq_false fun g => Bool.noConfusion g.2]

/-- All that the end of a descriptor leaves. -/
theorem ended_spec (s : State) (id : Nat) (d : Desc) (c : Compl) :
    s.ended id d c = { s with host := { s.host with
      rings := (s.ended id d c).host.rings, descs := (s.ended id d c).host.descs, launchEnd := (s.ended id d c).host.launchEnd } } ∧
    (∀ m, (s.ended id d c).ring m = (s.completedIn d).ring m) ∧
    (d.cls ≠ 2 → (s.ended id d c).host.launchEnd = s.host.launchEnd) ∧
    (d.cls = 2 → tget (fun _ => 0) (s.ended id d c).host.launchEnd (scopeKey (s.scopeOf d)) = c.time) := by
  have hf : s.completedIn d = { s with host := { s.host with rings := (s.completedIn d).host.rings } } := rfl
  have he : (s.ended id d c).host.launchEnd =
    if d.cls = 2 then tset (fun _ => 0) s.host.launchEnd (scopeKey (s.scopeOf d)) c.time else s.host.launchEnd := rfl
  refine ⟨?_, fun _ => rfl, fun h => he.trans (if_neg h), fun h => ?_⟩
  · unfold State.ended
    generalize s.completedIn d = u at hf
    rw [hf]
  · rw [he, if_pos h]
    exact tget_tset_same _ _ _ _

/-- DESCRIPTOR_COMPLETE (R312, R321). -/
theorem descriptorComplete_spec (hd : s.desc id = some d) (hc : d.ready = some c) (hl : s.host.lost = false) (hr : s.host.ready = true)
    (ha : s.answersLast d c = false) (hi : d.irq = false) : completes (.descriptorComplete id tm) s fun t =>
      t = { s.at tm with host := { s.host with rings := t.host.rings, descs := t.host.descs, launchEnd := t.host.launchEnd, held := t.host.held }, out := t.out } ∧
      (d.cls ≠ 2 → t.host.launchEnd = s.host.launchEnd) ∧
      (d.cls = 2 → tget (fun _ => 0) t.host.launchEnd (scopeKey (s.scopeOf d)) = c.time) ∧
      wroteHost s t (s.entryOf d c) ∧
      t.desc id = none ∧ (∀ k, k ≠ id → t.desc k = s.desc k) ∧
      (t.ring d.ring).outstanding = (s.ring d.ring).outstanding - 1 ∧
      (t.ring (s.ring d.ring).cq).reserved = (s.ring (s.ring d.ring).cq).reserved - 1 ∧
      ((s.ring (s.ring d.ring).cq).cqTail.toNat + 1 < (s.ring (s.ring d.ring).cq).cqSize →
        (t.ring (s.ring d.ring).cq).cqTail = (s.ring (s.ring d.ring).cq).cqTail + 1 ∧
        (t.ring (s.ring d.ring).cq).phase = (s.ring (s.ring d.ring).cq).phase) ∧
      ((s.ring (s.ring d.ring).cq).cqSize ≤ (s.ring (s.ring d.ring).cq).cqTail.toNat + 1 →
        (t.ring (s.ring d.ring).cq).cqTail = 0 ∧ (t.ring (s.ring d.ring).cq).phase = !(s.ring (s.ring d.ring).cq).phase) := by
  have hx := descriptorComplete_of (tm := tm) hd hc hl hr ha hi
  obtain ⟨b, hb⟩ := at_is s tm
  rw [hb] at hx ⊢
  have he : ({ s with tb := b } : State).entryOf d c = s.entryOf d c := rfl
  obtain ⟨hw, hf⟩ := sendHost_wrote ({ s with tb := b } : State) (s.entryOf d c)
  rw [he] at hx
  generalize State.sendHost _ _ = u at hx hw hf
  have hu (m : RingNo) : u.ring m = s.ring m := by
    rw [hf]
    rfl
  have hud (k : Nat) : u.desc k = s.desc k := by
    rw [hf]
    rfl
  have hul : u.host.launchEnd = s.host.launchEnd := by
    rw [hf]
  have husc : u.scopeOf d = s.scopeOf d := congrArg Ring.owner (hu d.ring)
  obtain ⟨k1, k2⟩ := ended_desc u id d c
  obtain ⟨g1, g2, g3, g4⟩ := ended_spec u id d c
  have hs := completedIn_spec u d
  rw [hu, hu, ← g2, ← g2] at hs
  rw [husc] at g4
  refine ⟨_, hx, ?_⟩
  generalize u.ended id d c = t at g1 g2 g3 g4 k1 k2 hs
  refine ⟨?_, fun h => (g3 h).trans hul, g4, ?_, k1, fun k hk => (k2 k hk).trans (hud k), hs⟩
  · rw [g1, hf]
  · unfold wroteHost at hw ⊢
    rw [g1]
    exact hw

theorem hostAccessTimeout_fetch (he : (s.ring r).enable = true) (hq : (s.ring r).sqHead ≠ (s.ring r).sqTail) (hp : (s.ring r).stopped = false) :
    exec (.hostAccessTimeout r none tm) s = .next ((s.at tm).setRing r { s.ring r with err := 3, stopped := true }) := by
  change execHostAccessTimeout r none tm s = _
  unfold execHostAccessTimeout
  dsimp only
  rw [ring_at, if_neg]
  rintro (h | h | h)
  · exact Bool.noConfusion (he.symm.trans h)
  · exact hq h
  · exact Bool.noConfusion (hp.symm.trans h)

theorem dbError_spec (s : State) (r : RingNo) : s.dbError r = { s with host := { s.host with
      rings := (s.dbError r).host.rings, dbIgnored := satInc s.host.dbIgnored } } ∧
    (s.dbError r).ring r = { s.ring r with err := 2 } ∧ ∀ x, x ≠ r → (s.dbError r).ring x = s.ring x :=
  ⟨rfl, State.ring_modRing_same s.dbIgnore r _, fun _ hx => State.ring_modRing_other s.dbIgnore _ hx⟩

end

/-- Settles O44: each doorbell and configuration write changes its own ring; an entry that is fetched or completed moves
the indices of its two rings, which may be one. -/
theorem ringsAndDescriptors : Obligations.RingsAndDescriptors := by
  unfold Obligations.RingsAndDescriptors
  dsimp only
  refine ⟨fun s r v hr => ⟨fun he hn => ⟨_, sqTail_takes hr he hn, onlyRing_setRing s r _, State.ring_setRing_same s r _⟩,
      fun he hn => ⟨_, sqTail_errs hr he hn, dbError_spec s r⟩, fun he => ⟨_, sqTail_ignored hr he, rfl⟩,
      fun he hn hw => ⟨_, cqHead_takes hr he hn hw, onlyRing_setRing s r _, State.ring_setRing_same s r _⟩⟩,
    fun s r cfg hr ho ha => ⟨fun hv h1 h2 h3 h4 h5 h6 h7 => ringEnable_good hr ho ha hv h1 h2 h3 h4 h5 h6 h7,
      fun hv => ringEnable_version hr ho ha hv⟩,
    fun s r hr ho he => ⟨fun hc => ⟨_, (ringDisable_of hr ho he).trans (congrArg _ (if_neg (by rw [hc]; exact Bool.false_ne_true))),
        onlyRing_setRing s r _, State.ring_setRing_same s r _⟩,
      fun hc => ⟨_, (ringDisable_of hr ho he).trans (congrArg _ (if_pos hc)), onlyRing_setRing s r _, State.ring_setRing_same s r _⟩⟩,
    fun s r he ha ho hl => ⟨_, ringInactive_ends he ha ho hl, onlyRing_setRing s r _, State.ring_setRing_same s r _⟩,
    fun s r ws tm hr hl he hp hq hc hn ht => ?_, fun s id tm d c hd hc hl hr ha hi => descriptorComplete_spec hd hc hl hr ha hi,
    fun s r tm he hq hp => ⟨_, hostAccessTimeout_fetch he hq hp, onlyRing_setRing _ r _, State.ring_setRing_same _ r _⟩⟩
  have hf := fetchable_of he hp hq hc
  have hx {ok : Bool} := descriptorFetch_of (ws := ws) (tm := tm) (ok := ok) hr hl hf (fetchTurn_of ht) hn
  refine ⟨⟨_, hx.trans (congrArg _ (if_pos rfl)), ?_, ?_, ?_⟩, ⟨_, hx.trans (congrArg _ (if_neg fun h => Bool.noConfusion h)), ?_⟩⟩
  · rw [← host_at s tm]
    rfl
  · exact fun x hx => (State.ring_setRing_other _ _ hx).trans (ring_at s tm x)
  · exact State.ring_setRing_same (s.at tm) r _
  · obtain ⟨b, hb⟩ := at_is s tm
    rw [hb]
    obtain ⟨⟨h1, h2, h3, h4, h5⟩, h6, h7⟩ := fetched_spec (s := { s with tb := b }) (r := r) (ws := ws) rfl
    exact ⟨h1, h2, h3, h4, h5, h6, h7⟩

end Sys2Proof.Machine
end

section
/-!
PROOF. Bells (10_bells_collectives.md): the operations at a bell, its firing rule, its actions and the answers; O41.
-/

namespace Sys2Proof.Machine

/-! ### Bells that take an operation (R284, R285, R287, R290) -/

section
variable {s t u : State} {b : BellNo} {src : BellSrc} {op : BitVec 8} {st : BitVec 4} {img : Option BellImg} {i : Word64}

theorem bellCame_is (s : State) (b : BellNo) (src : BellSrc) : s.bellCame b src = { s with fab := (s.bellCame b src).fab } := by
  unfold State.bellCame
  split <;> rfl

theorem bellStatus_came (s : State) (b : BellNo) (src : BellSrc) : (s.bellCame b src).bellStatus b src = s.bellStatus b src := by
  unfold State.bellCame
  split
  · cases src <;> rfl
  · rfl

theorem bellHasWay_came (s : State) (b : BellNo) (src : BellSrc) (r : Fin 64) (m : BellMsg) :
    bellHasWay (s.bellCame b src) r m ↔ bellHasWay s r m := by
  unfold State.bellCame
  split <;> exact Iff.rfl

/-- An operation that its bell refuses. -/
theorem bellCmd_refused {f : State → State} (hw : s.bellWaits b src = false) (hs : s.bellStatus b src ≠ 0) :
    s.bellCmd op b src img f = (s.bellCame b src).bellAnswer op b src (s.bellStatus b src) none := by
  unfold State.bellCmd
  dsimp only
  rw [hw, if_neg Bool.false_ne_true, bellStatus_came, if_pos hs]

theorem bellCmd_taken {f : State → State} (hw : s.bellWaits b src = false) (hs : s.bellStatus b src = 0) :
    s.bellCmd op b src img f = (f (s.bellCame b src)).bellAnswer op b src 0 img := by
  unfold State.bellCmd
  dsimp only
  rw [hw, if_neg Bool.false_ne_true, bellStatus_came, if_neg (not_not_intro hs)]

theorem bellCmd_waits {f : State → State} (hw : s.bellWaits b src = true) : s.bellCmd op b src img f = s := by
  unfold State.bellCmd
  rw [if_pos hw]

theorem handPort_coll (s : State) (e : PortReq) (C : Colls) (he : e.kind = .response) :
    ({ s with coll := C } : State).handPort e = { s.handPort e with coll := C } := by
  have hc : ({ s with coll := C } : State).canSend e.pkt e.kind = s.canSend e.pkt e.kind := rfl
  unfold State.handPort
  dsimp only
  rw [hc]
  split
  · unfold State.sendQueued
    dsimp only
    rw [he]
    rfl
  · rfl

/-- What a response handed to its source port does (R202). -/
theorem handPort_response (s : State) (p : Packet) :
    s.handPort { pkt := p, kind := .response } = { s with
      fab := (s.handPort { pkt := p, kind := .response }).fab, out := (s.handPort { pkt := p, kind := .response }).out } ∧
    (∃ os, (s.handPort { pkt := p, kind := .response }).out = s.out ++ os) ∧
    ((s.handPort { pkt := p, kind := .response }).fab.flying = s.fab.flying ++ [p] ∨
      (s.handPort { pkt := p, kind := .response }).fab.waiting = s.fab.waiting ++ [{ pkt := p, kind := .response }]) := by
  unfold State.handPort
  dsimp only
  split
  · exact ⟨rfl, ⟨_, rfl⟩, .inl rfl⟩
  · exact ⟨rfl, ⟨[], (List.append_nil _).symm⟩, .inr rfl⟩

/-- The answer to an operation takes no bell into account. -/
theorem bellAnswer_coll (s : State) (C : Colls) : ({ s with coll := C } : State).bellAnswer op b src st img =
    { s.bellAnswer op b src st img with coll := C } := by
  cases src with
  | packet a x o h => exact handPort_coll (s.send (.bellData op b st img)) _ C rfl
  | ring r => rfl
  | device => rfl

theorem bellAnswer_is (s : State) : s.bellAnswer op b src st img =
    { s with fab := (s.bellAnswer op b src st img).fab, out := (s.bellAnswer op b src st img).out } := by
  cases src with
  | packet a x o h => exact (handPort_response (s.send (.bellData op b st img)) _).1
  | ring r => rfl
  | device => rfl

theorem bellAnswer_bell (s : State) (x : BellNo) : (s.bellAnswer op b src st img).bell x = s.bell x := by
  rw [bellAnswer_is]
  rfl

theorem bellCame_bell (s : State) (b : BellNo) (src : BellSrc) (x : BellNo) : (s.bellCame b src).bell x = s.bell x := by
  rw [bellCame_is]
  rfl

/-- A bell that alone changed, and then answered. -/
theorem took_of (h : onlyBell b (s.bellCame b src) u) : bellTook s (u.bellAnswer op b src 0 img) op b src img := by
  obtain ⟨h1, h2⟩ := h
  have hc : (s.bellCame b src).coll = s.coll := by
    rw [bellCame_is]
  have ha := bellAnswer_coll (op := op) (b := b) (src := src) (st := 0) (img := img) (s.bellCame b src)
    { (s.bellCame b src).coll with bells := u.coll.bells }
  rw [← h1, hc] at ha
  refine ⟨?_, fun x hx => (bellAnswer_bell u x).trans ((h2 x hx).trans (bellCame_bell s b src x))⟩
  have hb : (u.bellAnswer op b src 0 img).coll.bells = u.coll.bells := by
    rw [bellAnswer_is]
  rw [hb]
  exact ha

theorem onlyBell_setBell (s : State) (b : BellNo) (v : Bell) : onlyBell b s (s.setBell b v) :=
  ⟨rfl, fun _ hx => State.bell_setBell_other s v hx⟩

theorem onlyBell_trans (h : onlyBell b s t) (k : onlyBell b t u) : onlyBell b s u := by
  obtain ⟨h1, h2⟩ := h
  obtain ⟨k1, k2⟩ := k
  refine ⟨?_, fun x hx => (k2 x hx).trans (h2 x hx)⟩
  rw [k1, h1]

/-! ### The firing rule -/

theorem bellRule_quiet (h : (s.bell b).fires = false) : s.bellRule b i = s.setBell b { s.bell b with refire := false } := if_pos h

/-- A bell that is not aligned fires at once after an operation without an instant. -/
theorem bellRule_now (h : (s.bell b).fires = true) (ha : (s.bell b).align = false) :
    s.bellRule b 0 = (s.setBell b (s.bell b).afterFire).bellActions b 0 := by
  have hi : (s.bell b).instantOf 0 s.tb = 0 := by
    unfold Bell.instantOf
    rw [ha]
    rfl
  unfold State.bellRule
  dsimp only
  rw [if_neg (by rw [h]; exact fun h => Bool.noConfusion h), hi, if_pos (Or.inl rfl)]

theorem instantOf_own {v : Bell} {now : Word64} (h : i ≠ 0) : v.instantOf i now = i := if_pos h

theorem bellRule_later (h : (s.bell b).fires = true) (hi : s.tb < i) : s.bellRule b i =
    s.setBell b { (s.bell b).afterFire with due := insertInstant i (s.bell b).afterFire.due } := by
  have h0 : i ≠ 0 := fun e => by
    rw [e] at hi
    exact absurd (BitVec.lt_def.1 hi) (Nat.not_lt_zero _)
  have hne : i ≠ s.tb := fun e => by
    rw [e] at hi
    exact BitVec.lt_irrefl _ hi
  unfold State.bellRule
  dsimp only
  rw [if_neg (by rw [h]; exact fun h => Bool.noConfusion h), instantOf_own h0, if_neg (not_or.2 ⟨h0, hne⟩),
    if_neg (BitVec.not_lt.2 (BitVec.le_of_lt hi))]

theorem bellRule_late (h : (s.bell b).fires = true) (h0 : i ≠ 0) (hi : i < s.tb) : s.bellRule b i =
    (({ s.setBell b { (s.bell b).afterFire with late := true } with
        coll := { (s.setBell b { (s.bell b).afterFire with late := true }).coll with late := satInc s.coll.late } } : State)).bellActions b i := by
  have hne : i ≠ s.tb := fun e => by
    rw [e] at hi
    exact BitVec.lt_irrefl _ hi
  unfold State.bellRule
  dsimp only
  rw [if_neg (by rw [h]; exact fun h => Bool.noConfusion h), instantOf_own h0, if_neg (not_or.2 ⟨h0, hne⟩), if_pos hi]
  rfl

/-- A firing that only forwards, or does nothing. -/
theorem bellActions_fwd (ht : (s.bell b).actTok = false) (hi : (s.bell b).actIrq = false) (hm : (s.bell b).actMcast = false) :
    s.bellActions b i = if (s.bell b).actFwd then s.sendBell (svcRtr (fieldOfBell b), false) .unit ((s.bell b).forward i) else s := by
  unfold State.bellActions
  dsimp only
  rw [ht, hi, hm]
  rfl

/-- What a firing keeps of an entry. -/
theorem afterFire_keeps (v : Bell) : v.afterFire.fired = v.fired + 1 ∧ v.afterFire.target = v.target ∧ v.afterFire.owner = v.owner ∧
    v.afterFire.due = v.due ∧ v.afterFire.actTok = v.actTok ∧ v.afterFire.actIrq = v.actIrq ∧ v.afterFire.actFwd = v.actFwd ∧
    v.afterFire.actMcast = v.actMcast ∧ (∀ i, v.afterFire.forward i = v.forward i) := by
  unfold Bell.afterFire
  dsimp only
  split <;> exact ⟨rfl, rfl, rfl, rfl, rfl, rfl, rfl, rfl, fun _ => rfl⟩

theorem afterFire_rearm {v : Bell} (h : v.rearm = true) : v.afterFire.count = v.count - v.target ∧ v.afterFire.armed = v.armed ∧
    (v.afterFire.refire = true ↔ v.target ≤ v.count - v.target) := by
  unfold Bell.afterFire
  dsimp only
  rw [if_pos h]
  exact ⟨rfl, rfl, decide_eq_true_iff⟩

theorem afterFire_once {v : Bell} (h : v.rearm = false) : v.afterFire.count = v.count ∧ v.afterFire.armed = false := by
  unfold Bell.afterFire
  dsimp only
  rw [if_neg (by rw [h]; exact Bool.false_ne_true)]
  exact ⟨rfl, rfl⟩

theorem add_is (v : Bell) (n : Word32) : v.add n = { v with count := (v.add n).count, saturated := (v.add n).saturated } := by
  unfold Bell.add
  split <;> rfl

theorem add_small {v : Bell} {n : Word32} (h : v.count.toNat + n.toNat < 2 ^ 32) :
    (v.add n).count = v.count + n ∧ (v.add n).saturated = v.saturated := by
  unfold Bell.add
  rw [if_neg (by omega)]
  exact ⟨rfl, rfl⟩

theorem add_large {v : Bell} {n : Word32} (h : 2 ^ 32 ≤ v.count.toNat + n.toNat) :
    (v.add n).count = BitVec.allOnes 32 ∧ (v.add n).saturated = true := by
  unfold Bell.add
  rw [if_pos (by omega)]
  exact ⟨rfl, rfl⟩

theorem fires_armed {v : Bell} (h : v.fires = true) : v.armed = true := by
  unfold Bell.fires at h
  rw [Bool.and_eq_true, Bool.and_eq_true] at h
  exact h.1.1

/-! ### Instants in their order (R287) -/

theorem mem_insertInstant {L : List Word64} {x : Word64} : x ∈ insertInstant i L ↔ x = i ∨ x ∈ L := by
  induction L with
  | nil => exact List.mem_singleton.trans ⟨Or.inl, fun h => h.resolve_right (by simp)⟩
  | cons y L ih =>
    unfold insertInstant
    split
    · exact List.mem_cons
    · rw [List.mem_cons, ih, List.mem_cons]
      exact ⟨fun h => h.elim (fun h => Or.inr (Or.inl h)) (fun h => h.elim Or.inl fun h => Or.inr (Or.inr h)),
        fun h => h.elim (fun h => Or.inr (Or.inl h)) (fun h => h.elim Or.inl fun h => Or.inr (Or.inr h))⟩

theorem insertInstant_pairwise {L : List Word64} (h : L.Pairwise (· ≤ ·)) : (insertInstant i L).Pairwise (· ≤ ·) := by
  induction L with
  | nil => exact List.pairwise_singleton _ _
  | cons y L ih =>
    obtain ⟨hy, hL⟩ := List.pairwise_cons.1 h
    unfold insertInstant
    split
    · next hi =>
      refine List.pairwise_cons.2 ⟨fun x hx => ?_, h⟩
      rcases List.mem_cons.1 hx with e | hx
      · rw [e]
        exact BitVec.le_of_lt hi
      · exact BitVec.le_trans (BitVec.le_of_lt hi) (hy x hx)
    · next hi =>
      refine List.pairwise_cons.2 ⟨fun x hx => ?_, ih hL⟩
      rcases mem_insertInstant.1 hx with e | hx
      · rw [e]
        exact BitVec.not_lt.1 hi
      · exact hy x hx

/-- What a unit's bell operation keeps, sent or failed. -/
theorem sendBell_unit (s : State) (src : Fin 64 × Bool) (m : BellMsg) :
    (s.sendBell src .unit m).coll.bells = s.coll.bells ∧ (s.sendBell src .unit m).coll.late = s.coll.late := by
  by_cases h : bellHasWay s src.1 m
  · rw [(sendBell_sent .unit h).2]
    exact ⟨rfl, rfl⟩
  · rw [sendBell_none .unit h]
    exact ⟨rfl, rfl⟩

theorem bellActions_keeps (ht : (s.bell b).actTok = false) (hi : (s.bell b).actIrq = false) (hm : (s.bell b).actMcast = false) :
    (s.bellActions b i).coll.bells = s.coll.bells ∧ (s.bellActions b i).coll.late = s.coll.late := by
  rw [bellActions_fwd ht hi hm]
  split
  · exact sendBell_unit s _ _
  · exact ⟨rfl, rfl⟩

end

/-! ### ADD and its firing (R285 to R287) -/

section
variable {s : State} {b : BellNo} {src : BellSrc} {n : Word32} {i : Word64}

/-- The bell that takes an ADD, before its firing rule. -/
def State.addedTo (s : State) (b : BellNo) (src : BellSrc) (n : Word32) : State :=
  (s.bellCame b src).setBell b ((s.bell b).add n)

theorem bellAdd_of (hw : s.bellWaits b src = false) (hs : s.bellStatus b src = 0) :
    exec (.bellAdd b src n i) s = .next (((s.addedTo b src n).bellRule b i).bellAnswer 0 b src 0 none) := by
  change Host.Outcome.next _ = _
  refine congrArg Host.Outcome.next ((bellCmd_taken hw hs).trans ?_)
  rw [bellCame_bell]
  rfl

theorem addedTo_bell (s : State) (b : BellNo) (src : BellSrc) (n : Word32) : (s.addedTo b src n).bell b = (s.bell b).add n :=
  State.bell_setBell_same _ b _

theorem addedTo_only (s : State) (b : BellNo) (src : BellSrc) (n : Word32) : onlyBell b (s.bellCame b src) (s.addedTo b src n) :=
  onlyBell_setBell _ b _

theorem addedTo_tb (s : State) (b : BellNo) (src : BellSrc) (n : Word32) : (s.addedTo b src n).tb = s.tb := by
  change (s.bellCame b src).tb = s.tb
  rw [bellCame_is]

theorem bellAdd_quiet (hw : s.bellWaits b src = false) (hs : s.bellStatus b src = 0) (hf : ((s.bell b).add n).fires = false) :
    completes (.bellAdd b src n i) s fun t => bellTook s t 0 b src none ∧
      t.bell b = { s.bell b with count := (t.bell b).count, saturated := (t.bell b).saturated, refire := false } ∧
      ((s.bell b).count.toNat + n.toNat < 2 ^ 32 → (t.bell b).count = (s.bell b).count + n ∧ (t.bell b).saturated = (s.bell b).saturated) ∧
      (2 ^ 32 ≤ (s.bell b).count.toNat + n.toNat → (t.bell b).count = BitVec.allOnes 32 ∧ (t.bell b).saturated = true) := by
  refine ⟨_, bellAdd_of hw hs, ?_⟩
  rw [bellRule_quiet (by rw [addedTo_bell]; exact hf), addedTo_bell]
  refine ⟨took_of (onlyBell_trans (addedTo_only s b src n) (onlyBell_setBell _ b _)), ?_⟩
  rw [bellAnswer_bell, State.bell_setBell_same]
  refine ⟨?_, add_small, add_large⟩
  rw [add_is (s.bell b) n]

/-- The bell after a firing, its instant kept or not. -/
theorem fired_bell (v : Bell) (n : Word32) : (v.add n).afterFire.fired = v.fired + 1 ∧ (v.add n).afterFire.target = v.target ∧
    (v.add n).afterFire.owner = v.owner ∧ (v.add n).afterFire.due = v.due ∧ (v.add n).afterFire.actTok = v.actTok ∧
    (v.add n).afterFire.actIrq = v.actIrq ∧ (v.add n).afterFire.actFwd = v.actFwd ∧ (v.add n).afterFire.actMcast = v.actMcast ∧
    ∀ i, (v.add n).afterFire.forward i = v.forward i := by
  have h := afterFire_keeps (v.add n)
  rw [add_is] at h ⊢
  exact h

theorem fired_rearm {v : Bell} {n : Word32} (hf : (v.add n).fires = true) :
    (v.rearm = true → (v.add n).afterFire.count = (v.add n).count - v.target ∧ (v.add n).afterFire.armed = true ∧
      ((v.add n).afterFire.refire = true ↔ v.target ≤ (v.add n).count - v.target)) ∧
    (v.rearm = false → (v.add n).afterFire.count = (v.add n).count ∧ (v.add n).afterFire.armed = false) := by
  have ha := fires_armed hf
  have hr : (v.add n).rearm = v.rearm := by
    rw [add_is]
  have ht : (v.add n).target = v.target := by
    rw [add_is]
  refine ⟨fun h => ?_, fun h => afterFire_once (hr.trans h)⟩
  obtain ⟨h1, h2, h3⟩ := afterFire_rearm (hr.trans h)
  rw [ht] at h1 h3
  exact ⟨h1, h2.trans ha, h3⟩

/-- The bell that has fired. -/
def State.firedAt (s : State) (b : BellNo) (src : BellSrc) (n : Word32) : State :=
  (s.addedTo b src n).setBell b ((s.bell b).add n).afterFire

theorem firedAt_only (s : State) (b : BellNo) (src : BellSrc) (n : Word32) : onlyBell b (s.bellCame b src) (s.firedAt b src n) :=
  onlyBell_trans (addedTo_only s b src n) (onlyBell_setBell _ b _)

theorem firedAt_bell (s : State) (b : BellNo) (src : BellSrc) (n : Word32) : (s.firedAt b src n).bell b = ((s.bell b).add n).afterFire :=
  State.bell_setBell_same _ b _

theorem onlyBell_way {u v : State} (h : onlyBell b u v) (m : BellMsg) : v.bellWay m = u.bellWay m ∧
    ∀ r, bellHasWay v r m ↔ bellHasWay u r m := by
  rw [h.1]
  exact ⟨rfl, fun _ => Iff.rfl⟩

/-- A firing that forwards sends one ADD, if that has a way. -/
theorem sendBell_forwards {u v : State} (hv : onlyBell b u v) {r : Fin 64} {m : BellMsg} (hw : bellHasWay u r m) :
    bellSent u (v.sendBell (r, false) .unit m) (r, false) .unit m ∧
      v.sendBell (r, false) .unit m = { u with
        coll := { u.coll with bells := (v.sendBell (r, false) .unit m).coll.bells }, fab := (v.sendBell (r, false) .unit m).fab,
        out := (v.sendBell (r, false) .unit m).out } := by
  obtain ⟨k1, k2⟩ := onlyBell_way hv m
  obtain ⟨h1, h2⟩ := sendBell_sent (s := v) (src := (r, false)) .unit ((k2 r).2 hw)
  refine ⟨bellSent_congr k1 ?_ ?_ ?_ ?_ h1, ?_⟩
  · rw [hv.1]
  · rw [hv.1]
  · rw [hv.1]
  · rw [hv.1]
  · generalize v.sendBell (r, false) .unit m = w at h2
    rw [h2, hv.1]

theorem bell_of_bells {u v : State} (h : u.coll.bells = v.coll.bells) (x : BellNo) : u.bell x = v.bell x := by
  unfold State.bell
  rw [h]

theorem bellAdd_fires (hw : s.bellWaits b src = false) (hs : s.bellStatus b src = 0) (hf : ((s.bell b).add n).fires = true)
    (ht : (s.bell b).actTok = false) (hq : (s.bell b).actIrq = false) (hm : (s.bell b).actMcast = false) (ha : (s.bell b).align = false) :
    completes (.bellAdd b src n 0) s fun t =>
        ((s.bell b).actFwd = false → bellTook s t 0 b src none) ∧
        ((s.bell b).actFwd = true → bellHasWay s (svcRtr (fieldOfBell b)) ((s.bell b).forward 0) → ∃ u,
          bellSent (s.bellCame b src) u (svcRtr (fieldOfBell b), false) .unit ((s.bell b).forward 0) ∧
          u = { s with coll := { s.coll with bells := u.coll.bells }, fab := u.fab, out := u.out } ∧
          t = u.bellAnswer 0 b src 0 none) ∧
        (∀ x, x ≠ b → t.bell x = s.bell x) ∧
        (t.bell b).fired = (s.bell b).fired + 1 ∧ (t.bell b).target = (s.bell b).target ∧ (t.bell b).owner = (s.bell b).owner ∧
        ((s.bell b).rearm = true → (t.bell b).count = ((s.bell b).add n).count - (s.bell b).target ∧ (t.bell b).armed = true ∧
          ((t.bell b).refire = true ↔ (s.bell b).target ≤ ((s.bell b).add n).count - (s.bell b).target)) ∧
        ((s.bell b).rearm = false → (t.bell b).count = ((s.bell b).add n).count ∧ (t.bell b).armed = false) := by
  have hal : ((s.bell b).add n).align = false := by
    rw [add_is]
    exact ha
  have hx := bellAdd_of (n := n) (i := 0) hw hs
  rw [bellRule_now (by rw [addedTo_bell]; exact hf) (by rw [addedTo_bell]; exact hal), addedTo_bell] at hx
  change exec _ _ = .next (((s.firedAt b src n).bellActions b 0).bellAnswer 0 b src 0 none) at hx
  obtain ⟨k1, k2, k3, -, k5, k6, k7, k8, k9⟩ := fired_bell (s.bell b) n
  have hb := firedAt_bell s b src n
  have ho := firedAt_only s b src n
  generalize s.firedAt b src n = v at hb ho hx
  have hact := bellActions_fwd (s := v) (b := b) (i := 0) (by rw [hb, k5]; exact ht) (by rw [hb, k6]; exact hq) (by rw [hb, k8]; exact hm)
  have hkeep := bellActions_keeps (s := v) (b := b) (i := 0) (by rw [hb, k5]; exact ht) (by rw [hb, k6]; exact hq) (by rw [hb, k8]; exact hm)
  rw [hb, k7, k9] at hact
  have hbell (x : BellNo) : ((v.bellActions b 0).bellAnswer 0 b src 0 none).bell x = v.bell x :=
    (bellAnswer_bell _ x).trans (bell_of_bells hkeep.1 x)
  refine ⟨_, hx, fun h => ?_, fun h hway => ?_, fun x hne => (hbell x).trans ((ho.2 x hne).trans (bellCame_bell s b src x)), ?_⟩
  · rw [hact, h]
    exact took_of ho
  · rw [h] at hact
    obtain ⟨g1, g2⟩ := sendBell_forwards ho ((bellHasWay_came s b src _ _).2 hway)
    refine ⟨_, g1, ?_, by rw [hact]; rfl⟩
    generalize v.sendBell _ _ _ = w at g2
    rw [g2, bellCame_is]
  · rw [hbell b, hb, k1, k2, k3]
    exact ⟨rfl, rfl, rfl, fired_rearm hf⟩

theorem bellAdd_later (hw : s.bellWaits b src = false) (hs : s.bellStatus b src = 0) (hf : ((s.bell b).add n).fires = true) (hi : s.tb < i) :
    completes (.bellAdd b src n i) s fun t => bellTook s t 0 b src none ∧ (∀ x, x ∈ (t.bell b).due ↔ x = i ∨ x ∈ (s.bell b).due) ∧
        ((s.bell b).due.Pairwise (· ≤ ·) → (t.bell b).due.Pairwise (· ≤ ·)) ∧ (t.bell b).fired = (s.bell b).fired + 1 := by
  have hx := bellAdd_of (n := n) (i := i) hw hs
  rw [bellRule_later (by rw [addedTo_bell]; exact hf) (by rw [addedTo_tb]; exact hi), addedTo_bell] at hx
  obtain ⟨k1, -, -, k4, -⟩ := fired_bell (s.bell b) n
  refine ⟨_, hx, took_of (onlyBell_trans (addedTo_only s b src n) (onlyBell_setBell _ b _)), ?_⟩
  rw [bellAnswer_bell, State.bell_setBell_same, k4]
  exact ⟨fun _ => mem_insertInstant, insertInstant_pairwise, k1⟩

theorem bellAdd_late (hw : s.bellWaits b src = false) (hs : s.bellStatus b src = 0) (hf : ((s.bell b).add n).fires = true)
    (ht : (s.bell b).actTok = false) (hq : (s.bell b).actIrq = false) (hm : (s.bell b).actMcast = false) (h0 : i ≠ 0) (hi : i < s.tb) :
    completes (.bellAdd b src n i) s fun t => (∀ x, x ≠ b → t.bell x = s.bell x) ∧ (t.bell b).late = true ∧
        t.coll.late = satInc s.coll.late ∧ (t.bell b).fired = (s.bell b).fired + 1 ∧ (t.bell b).due = (s.bell b).due := by
  have hx := bellAdd_of (n := n) (i := i) hw hs
  rw [bellRule_late (by rw [addedTo_bell]; exact hf) h0 (by rw [addedTo_tb]; exact hi), addedTo_bell] at hx
  obtain ⟨k1, -, -, k4, k5, k6, k7, k8, k9⟩ := fired_bell (s.bell b) n
  have hcoll : (s.addedTo b src n).coll.late = s.coll.late := by
    change (s.bellCame b src).coll.late = s.coll.late
    rw [bellCame_is]
  rw [hcoll] at hx
  generalize hv : ({ (s.addedTo b src n).setBell b { ((s.bell b).add n).afterFire with late := true } with
    coll := { ((s.addedTo b src n).setBell b { ((s.bell b).add n).afterFire with late := true }).coll with late := satInc s.coll.late } } : State) = v at hx
  have hb : v.bell b = { ((s.bell b).add n).afterFire with late := true } := by
    rw [← hv]
    exact State.bell_setBell_same (s.addedTo b src n) b { ((s.bell b).add n).afterFire with late := true }
  have ho (x : BellNo) (hne : x ≠ b) : v.bell x = s.bell x := by
    rw [← hv]
    exact (State.bell_setBell_other (s.addedTo b src n) { ((s.bell b).add n).afterFire with late := true } hne).trans
      (((addedTo_only s b src n).2 x hne).trans (bellCame_bell s b src x))
  have hl : v.coll.late = satInc s.coll.late := by
    rw [← hv]
  obtain ⟨g1, g2⟩ := bellActions_keeps (s := v) (b := b) (i := i) (by rw [hb]; exact k5.trans ht) (by rw [hb]; exact k6.trans hq)
    (by rw [hb]; exact k8.trans hm)
  have hbell (x : BellNo) : ((v.bellActions b i).bellAnswer 0 b src 0 none).bell x = v.bell x :=
    (bellAnswer_bell _ x).trans (bell_of_bells g1 x)
  refine ⟨_, hx, fun x hne => (hbell x).trans (ho x hne), ?_, ?_, ?_, ?_⟩
  · rw [hbell b, hb]
  · rw [bellAnswer_is]
    exact g2.trans hl
  · rw [hbell b, hb]
    exact k1
  · rw [hbell b, hb]
    exact k4

end

/-! ### SET, ARM, DISARM and READ (R289) -/

section
variable {s : State} {b : BellNo} {src : BellSrc}

theorem fires_unarmed {v : Bell} (h : v.armed = false) : v.fires = false := by
  unfold Bell.fires
  rw [h]
  rfl

theorem fires_below {v : Bell} (h : v.count < v.target) : v.fires = false := by
  unfold Bell.fires
  rw [decide_eq_false (BitVec.not_le.2 h), Bool.and_false]

/-- A bell that an operation changes and that does not fire then. -/
theorem bellCmd_set {op : BitVec 8} {img : Option BellImg} {v : Bell} {f : State → State} (hw : s.bellWaits b src = false)
    (hs : s.bellStatus b src = 0) (hv : f (s.bellCame b src) = (s.bellCame b src).setBell b v) :
    bellTook s (s.bellCmd op b src img f) op b src img ∧ (s.bellCmd op b src img f).bell b = v := by
  rw [bellCmd_taken hw hs, hv]
  refine ⟨took_of (onlyBell_setBell _ b v), ?_⟩
  rw [bellAnswer_bell, State.bell_setBell_same]

/-- A change of a bell after which it does not fire. -/
theorem setBell_quiet {v : Bell} (u : State) (hf : v.fires = false) :
    (u.setBell b v).bellRule b 0 = (u.setBell b v).setBell b { v with refire := false } := by
  rw [bellRule_quiet (by rw [State.bell_setBell_same]; exact hf), State.bell_setBell_same]

theorem bellCmd_quiet {op : BitVec 8} {img : Option BellImg} {v : Bell} {f : State → State} (hw : s.bellWaits b src = false)
    (hs : s.bellStatus b src = 0) (hf : v.fires = false) (hv : f (s.bellCame b src) = ((s.bellCame b src).setBell b v).bellRule b 0) :
    bellTook s (s.bellCmd op b src img f) op b src img ∧ (s.bellCmd op b src img f).bell b = { v with refire := false } := by
  rw [bellCmd_taken hw hs, hv, setBell_quiet _ hf]
  refine ⟨took_of (onlyBell_trans (onlyBell_setBell _ b v) (onlyBell_setBell _ b _)), ?_⟩
  rw [bellAnswer_bell, State.bell_setBell_same]

theorem bellSet_takes (hw : s.bellWaits b src = false) (hs : s.bellStatus b src = 0) {img : BellImg} (hi : img.w2.getLsbD 31 = false) :
    completes (.bellSet b src img) s fun t => bellTook s t 1 b src none ∧
      (t.bell b).count = img.count ∧ (t.bell b).target = img.target ∧ (t.bell b).cores = img.cores ∧
      (t.bell b).armed = false ∧ (t.bell b).owner = (s.bell b).owner ∧ (t.bell b).fired = (s.bell b).fired ∧
      (t.bell b).saturated = false ∧ (t.bell b).late = false := by
  obtain ⟨h1, h2⟩ := bellCmd_quiet (op := 1) (img := none) (v := (s.bell b).set img)
    (f := fun s => (s.setBell b ((s.bell b).set img)).bellRule b 0) hw hs (fires_unarmed hi) (by rw [bellCame_bell])
  refine ⟨_, rfl, h1, ?_⟩
  rw [h2]
  exact ⟨rfl, rfl, rfl, hi, rfl, rfl, rfl, rfl⟩

theorem bellArm_takes (hw : s.bellWaits b src = false) (hs : s.bellStatus b src = 0) (hc : (s.bell b).count < (s.bell b).target) :
    completes (.bellArm b src) s fun t => bellTook s t 2 b src none ∧ t.bell b = { s.bell b with armed := true, refire := false } :=
  ⟨_, rfl, bellCmd_quiet (op := 2) (img := none) (v := { s.bell b with armed := true })
    (f := fun s => (s.setBell b { s.bell b with armed := true }).bellRule b 0) hw hs (fires_below hc) (by rw [bellCame_bell])⟩

theorem bellDisarm_takes (hw : s.bellWaits b src = false) (hs : s.bellStatus b src = 0) :
    completes (.bellDisarm b src) s fun t => bellTook s t 3 b src none ∧ t.bell b = { s.bell b with armed := false, refire := false } :=
  ⟨_, rfl, bellCmd_set (op := 3) (img := none) (v := { s.bell b with armed := false, refire := false })
    (f := fun s => s.setBell b { s.bell b with armed := false, refire := false }) hw hs (by rw [bellCame_bell])⟩

theorem bellRead_takes (hw : s.bellWaits b src = false) (hs : s.bellStatus b src = 0) :
    completes (.bellRead b src) s fun t => bellTook s t 4 b src (some (s.bell b).image) ∧ t.bell b = s.bell b := by
  refine ⟨_, rfl, ?_⟩
  rw [bellCmd_taken hw hs]
  exact ⟨took_of ⟨rfl, fun _ _ => rfl⟩, (bellAnswer_bell _ b).trans (bellCame_bell s b src b)⟩

/-! ### BELL_REFIRE and BELL_ALIGNED_ACTION (R285, R287) -/

theorem bellRefire_none (h : (s.bell b).refire = false) : exec (.bellRefire b) s = .next s := if_pos (Or.inl h)

theorem bellRefire_fires (hr : (s.bell b).refire = true) (hd : s.isDark (fieldOfBell b) = false) (hs : s.fieldStopped (fieldOfBell b) = false)
    (hf : (s.bell b).fires = true) (ha : (s.bell b).align = false) (ht : (s.bell b).actTok = false) (hi : (s.bell b).actIrq = false)
    (hw : (s.bell b).actFwd = false) (hm : (s.bell b).actMcast = false) :
    exec (.bellRefire b) s = .next (s.setBell b (s.bell b).afterFire) := by
  have hx : exec (.bellRefire b) s = .next (s.bellRule b 0) := by
    change execBellRefire b s = _
    unfold execBellRefire
    rw [hr, hd, hs]
    rfl
  obtain ⟨-, -, -, -, k5, k6, k7, k8, -⟩ := afterFire_keeps (s.bell b)
  have hb := State.bell_setBell_same s b (s.bell b).afterFire
  rw [hx, bellRule_now hf ha, bellActions_fwd (by rw [hb, k5, ht]) (by rw [hb, k6, hi]) (by rw [hb, k8, hm]), hb, k7, hw]
  rfl

theorem bell_at (s : State) (tm : Word64) (x : BellNo) : (s.at tm).bell x = s.bell x := by
  obtain ⟨c, hc⟩ := at_is s tm
  rw [hc]
  rfl

theorem bellAlignedAction_of {tm i : Word64} {rest : List Word64} (hd : (s.bell b).due = i :: rest) (hk : s.isDark (fieldOfBell b) = false)
    (hs : s.fieldStopped (fieldOfBell b) = false) : exec (.bellAlignedAction b tm) s = .next (if (s.at tm).tb < i then s.at tm
      else ((s.at tm).setBell b { s.bell b with due := rest }).bellActions b i) := by
  change execBellAlignedAction b tm s = _
  unfold execBellAlignedAction
  dsimp only
  rw [bell_at, hd]
  dsimp only
  have hk' : (s.at tm).isDark (fieldOfBell b) = false := by
    obtain ⟨c, hc⟩ := at_is s tm
    rw [hc]
    exact hk
  have hs' : (s.at tm).fieldStopped (fieldOfBell b) = false := by
    obtain ⟨c, hc⟩ := at_is s tm
    rw [hc]
    exact hs
  rw [hk', hs']
  split
  · next h => exact congrArg _ (if_pos (h.resolve_right fun h => h.elim Bool.noConfusion Bool.noConfusion)).symm
  · next h => exact congrArg _ (if_neg fun g => h (Or.inl g)).symm

theorem bellAlignedAction_forwards {tm i : Word64} {rest : List Word64} (hd : (s.bell b).due = i :: rest)
    (hk : s.isDark (fieldOfBell b) = false) (hs : s.fieldStopped (fieldOfBell b) = false) (hi : i ≤ (s.at tm).tb)
    (ht : (s.bell b).actTok = false) (hq : (s.bell b).actIrq = false) (hm : (s.bell b).actMcast = false) (hf : (s.bell b).actFwd = true)
    (hw : bellHasWay s (svcRtr (fieldOfBell b)) ((s.bell b).forward i)) :
      completes (.bellAlignedAction b tm) s fun t => (∀ x, x ≠ b → t.bell x = s.bell x) ∧
        t.bell b = { s.bell b with due := rest } ∧
        t = { s.at tm with coll := { s.coll with bells := t.coll.bells }, fab := t.fab, out := t.out } ∧
        bellSent (s.at tm) t (svcRtr (fieldOfBell b), false) .unit ((s.bell b).forward i) := by
  have hx := (bellAlignedAction_of (tm := tm) hd hk hs).trans (congrArg _ (if_neg (BitVec.not_lt.2 hi)))
  have hb := State.bell_setBell_same (s.at tm) b { s.bell b with due := rest }
  have hv := onlyBell_setBell (s.at tm) b { s.bell b with due := rest }
  rw [bellActions_fwd (by rw [hb]; exact ht) (by rw [hb]; exact hq) (by rw [hb]; exact hm), hb,
    if_pos (show ({ s.bell b with due := rest } : Bell).actFwd = true from hf)] at hx
  change exec _ _ = .next (State.sendBell _ _ _ ((s.bell b).forward i)) at hx
  have hway : bellHasWay (s.at tm) (svcRtr (fieldOfBell b)) ((s.bell b).forward i) := by
    obtain ⟨c, hc⟩ := at_is s tm
    rw [hc]
    exact hw
  have hcoll : (s.at tm).coll = s.coll := by
    obtain ⟨c, hc⟩ := at_is s tm
    rw [hc]
  generalize (s.at tm).setBell b { s.bell b with due := rest } = v at hx hb hv
  obtain ⟨g1, g2⟩ := sendBell_forwards hv hway
  obtain ⟨g3, -⟩ := sendBell_unit v (svcRtr (fieldOfBell b), false) ((s.bell b).forward i)
  rw [hcoll] at g2
  exact ⟨_, hx, fun x hne => (bell_of_bells g3 x).trans ((hv.2 x hne).trans (bell_at s tm x)), (bell_of_bells g3 b).trans hb, g2, g1⟩

end

/-! ### What a router's source port sends (R111, R202, R204) -/

section
variable {s t u : State} {r : Fin 64}

/-- Nothing but the fabric, the links, the output and the queues of copies may differ. -/
def onlyPorts (s t : State) : Prop :=
  t = { s with sites := t.sites, links := t.links, fab := t.fab, out := t.out } ∧
  ∀ m, t.site m = { s.site m with queues := (t.site m).queues }

theorem onlyPorts_refl (s : State) : onlyPorts s s := ⟨rfl, fun _ => rfl⟩

theorem onlyPorts_trans (h : onlyPorts s t) (k : onlyPorts t u) : onlyPorts s u := by
  obtain ⟨h1, h2⟩ := h
  obtain ⟨k1, k2⟩ := k
  refine ⟨?_, fun m => ?_⟩
  · rw [k1, h1]
  · rw [k2 m, h2 m]

/-- A change that leaves the cores. -/
theorem onlyPorts_of (h : t = { s with links := t.links, fab := t.fab, out := t.out }) : onlyPorts s t := by
  have hs (m : SiteNo) : t.site m = s.site m := by
    rw [h]
    rfl
  refine ⟨?_, fun m => by rw [hs]⟩
  rw [h]

theorem modFlight_ports (s : State) (n : SiteNo) (q : Fin 4) (i : Nat) (f : CopyFlight → CopyFlight) :
    onlyPorts s (s.modSite n fun c => c.modFlight q i f) := by
  refine ⟨rfl, fun m => ?_⟩
  by_cases hm : m = n
  · rw [hm, State.site_modSite_same]
    rfl
  · rw [State.site_modSite_other s _ hm]

theorem enter_ports (s : State) (p : Packet) : onlyPorts s (s.enter p) := onlyPorts_of rfl

theorem inject_ports (s : State) (p : Packet) (use : TxnUse) (k : Nat) : onlyPorts s (s.inject p use k) := by
  unfold State.inject
  exact onlyPorts_trans (onlyPorts_of rfl) (enter_ports _ _)

theorem unitsOut_ports (s : State) (l : LinkNo) (p : LinkPkt) : onlyPorts s (s.unitsOut l p) := by
  unfold State.unitsOut State.credits
  exact onlyPorts_of rfl

theorem sendQueued_ports (s : State) (e : PortReq) : onlyPorts s (s.sendQueued e) := by
  have h0 : onlyPorts s { s with fab := { s.fab with waiting := s.fab.waiting.erase e } } := onlyPorts_of rfl
  unfold State.sendQueued
  dsimp only
  split
  · split
    · split
      · exact onlyPorts_trans h0 (onlyPorts_trans (inject_ports _ _ _ _) (unitsOut_ports _ _ _))
      · exact onlyPorts_trans h0 (inject_ports _ _ _ _)
    · exact h0
  · split
    · exact onlyPorts_trans h0 (onlyPorts_trans (onlyPorts_of rfl) (enter_ports _ _))
    · exact onlyPorts_trans h0 (enter_ports _ _)
  · exact onlyPorts_trans h0 (enter_ports _ _)

theorem sendOffer_ports (s : State) (o : Offer) : onlyPorts s (s.sendOffer o) := by
  unfold State.sendOffer
  split
  · exact sendQueued_ports s _
  · split
    · exact onlyPorts_trans (inject_ports _ _ _ _) (modFlight_ports _ _ _ _ _)
    · exact onlyPorts_refl s

theorem markWaits_ports (s : State) (r : Fin 64) : onlyPorts s (s.markWaits r) := by
  unfold State.markWaits
  split
  · exact onlyPorts_refl s
  · refine foldl_related (P := onlyPorts) onlyPorts_refl (fun _ _ _ => onlyPorts_trans) (fun s q => ?_) _ s
    split
    · exact modFlight_ports s _ _ _ _
    · exact onlyPorts_refl s

theorem servePort_ports (s : State) (r : Fin 64) (k : Nat) : onlyPorts s (s.servePort r k) := by
  induction k generalizing s with
  | zero => exact markWaits_ports s r
  | succ k ih =>
    unfold State.servePort
    split
    · exact onlyPorts_trans (sendOffer_ports s _) (onlyPorts_trans (onlyPorts_of rfl) (ih _))
    · exact markWaits_ports s r

end

/-! ### BELL_DATA (R208, R292) -/

section
variable {s : State} {n : SiteNo} {dst : Fin 64 × Bool} {txn : BitVec 10} {k : BitVec 13} {st : BitVec 4} {img : Option BellImg}

/-- The state in which the packet of an answer is in no buffer. -/
def State.dataCame (s : State) (dst : Fin 64 × Bool) (txn : BitVec 10) : State :=
  match s.bellDataFlying dst txn with
  | some p => s.arrived p
  | none => s

theorem dataCame_spec (s : State) (dst : Fin 64 × Bool) (txn : BitVec 10) :
    s.dataCame dst txn = { s with fab := (s.dataCame dst txn).fab } ∧ (s.dataCame dst txn).fab.txns = s.fab.txns := by
  unfold State.dataCame
  split <;> exact ⟨rfl, rfl⟩

theorem bellData_of (hs : s.fieldStopped (fieldOfRtr dst.1) = false) (ho : (s.bellDataFlying dst txn).any s.overtakes = false) :
    exec (.bellData dst txn k st img) s = (match s.txnOf dst.1 txn with
      | some x => if x.pkt.opc = 7 ∧ x.pkt.srcEp = dst.2 ∧ pktAddr x.pkt = 64 * k.toNat then
          .next (((s.dataCame dst txn).bellDataIn x k st img).servePort dst.1 5)
        else .next (s.dataCame dst txn)
      | none => .next (s.dataCame dst txn)) := by
  have ht : (s.dataCame dst txn).txnOf dst.1 txn = s.txnOf dst.1 txn := by
    unfold State.txnOf
    rw [(dataCame_spec s dst txn).2]
  change execBellData dst txn k st img s = _
  unfold execBellData
  dsimp only
  rw [hs, ho, if_neg (fun h => h.elim Bool.noConfusion Bool.noConfusion), ← ht]
  rfl

/-- The answer to a core's operation with nothing waiting in the core is one the core awaits no more (R292). -/
theorem bellDataIn_core {x : Txn} {dev : Option (BitVec 12)} (hu : x.use = .bell (.core n) dev) (hq : (s.site n).bellQ = []) :
    s.bellDataIn x k st img = if st = 0 then (s.dropTxn x.rtr x.txn).modSite n fun c => { c with bellsOut := c.bellsOut - 1 }
      else ((s.dropTxn x.rtr x.txn).modSite n fun c => { c with bellsOut := c.bellsOut - 1 }).bellFail (some n) st := by
  have he (v : State) (hv : (v.site n).bellQ = []) : v.bellDrain n (v.site n).bellQ.length = v := by
    rw [hv]
    rfl
  unfold State.bellDataIn
  dsimp only
  rw [hu]
  unfold State.bellDone State.bellEnds
  dsimp only
  have h1 : (((s.dropTxn x.rtr x.txn).modSite n fun c => { c with bellsOut := c.bellsOut - 1 }).site n).bellQ = [] := by
    rw [State.site_modSite_same]
    exact hq
  split
  · exact he _ h1
  · exact he _ h1

theorem bellData_core {x : Txn} {dev : Option (BitVec 12)} (hs : s.fieldStopped (fieldOfRtr dst.1) = false)
    (ho : (s.bellDataFlying dst txn).any s.overtakes = false) (hx : s.txnOf dst.1 txn = some x) (h7 : x.pkt.opc = 7)
    (he : x.pkt.srcEp = dst.2) (ha : pktAddr x.pkt = 64 * k.toNat) (hu : x.use = .bell (.core n) dev) (hq : (s.site n).bellQ = []) :
      completes (.bellData dst txn k st img) s fun t => t.mem = s.mem ∧ t.host = s.host ∧
        (t.site n).bellsOut = (s.site n).bellsOut - 1 ∧ (∀ m, m ≠ n → (t.site m).bellsOut = (s.site m).bellsOut) ∧
        (∀ m, (t.site m).sregs = (s.site m).sregs ∧ (t.site m).toks = (s.site m).toks) ∧
        (st = 0 → t.flt = s.flt ∧ t.coll = s.coll) ∧
        (st ≠ 0 → told s t 0x000F (some n) ∧ t.coll = { s.coll with remoteFail := satInc s.coll.remoteFail }) := by
  have hexec := bellData_of (k := k) (st := st) (img := img) hs ho
  rw [hx] at hexec
  dsimp only at hexec
  rw [if_pos ⟨h7, he, ha⟩] at hexec
  obtain ⟨hc, -⟩ := dataCame_spec s dst txn
  generalize s.dataCame dst txn = v at hc hexec
  have hsite (m : SiteNo) : v.site m = s.site m := by
    rw [hc]
    rfl
  rw [bellDataIn_core hu (by rw [hsite]; exact hq)] at hexec
  have hd : v.dropTxn x.rtr x.txn = { s with fab := (v.dropTxn x.rtr x.txn).fab } := by
    rw [hc]
    rfl
  generalize v.dropTxn x.rtr x.txn = w at hd hexec
  have hw (m : SiteNo) : w.site m = s.site m := by
    rw [hd]
    rfl
  have hn := State.site_modSite_same w n fun c => { c with bellsOut := c.bellsOut - 1 }
  have hm (m : SiteNo) (h : m ≠ n) := State.site_modSite_other w (fun c => { c with bellsOut := c.bellsOut - 1 }) h
  have hf : (w.modSite n fun c => { c with bellsOut := c.bellsOut - 1 }) = { s with
      fab := w.fab, sites := (w.modSite n fun c => { c with bellsOut := c.bellsOut - 1 }).sites } := by
    have : (w.modSite n fun c => { c with bellsOut := c.bellsOut - 1 }) = { w with
      sites := (w.modSite n fun c => { c with bellsOut := c.bellsOut - 1 }).sites } := rfl
    rw [this, hd]
  generalize (w.modSite n fun c => { c with bellsOut := c.bellsOut - 1 }) = y at hn hm hf hexec
  refine ⟨_, hexec, ?_⟩
  have hy : (y.site n).bellsOut = (s.site n).bellsOut - 1 ∧ (∀ m, m ≠ n → (y.site m).bellsOut = (s.site m).bellsOut) ∧
      ∀ m, (y.site m).sregs = (s.site m).sregs ∧ (y.site m).toks = (s.site m).toks := by
    refine ⟨by rw [hn, hw], fun m h => by rw [hm m h, hw], fun m => ?_⟩
    by_cases h : m = n
    · rw [h, hn, hw]
      exact ⟨rfl, rfl⟩
    · rw [hm m h, hw]
      exact ⟨rfl, rfl⟩
  by_cases h0 : st = 0
  · rw [if_pos h0]
    obtain ⟨p1, p2⟩ := servePort_ports y dst.1 5
    generalize y.servePort dst.1 5 = t at p1 p2
    obtain ⟨g1, g2, g3⟩ := hy
    refine ⟨by rw [p1, hf], by rw [p1, hf], by rw [p2 n]; exact g1, fun m h => by rw [p2 m]; exact g2 m h,
      fun m => by rw [p2 m]; exact g3 m, fun _ => ⟨by rw [p1, hf], by rw [p1, hf]⟩, fun h => absurd h0 h⟩
  · rw [if_neg h0]
    have hb : y.bellFail (some n) st = { y with
        coll := { y.coll with remoteFail := satInc y.coll.remoteFail }, flt := (y.bellFail (some n) st).flt } := rfl
    have ht := (bellFail_counted y (some n) st).2.2.2
    have hyf : y.flt = s.flt := by
      rw [hf]
    generalize y.bellFail (some n) st = z at hb ht
    obtain ⟨p1, p2⟩ := servePort_ports z dst.1 5
    generalize z.servePort dst.1 5 = t at p1 p2
    obtain ⟨g1, g2, g3⟩ := hy
    have hz (m : SiteNo) : z.site m = y.site m := by
      rw [hb]
      rfl
    refine ⟨by rw [p1, hb, hf], by rw [p1, hb, hf], by rw [p2 n, hz]; exact g1, fun m h => by rw [p2 m, hz]; exact g2 m h,
      fun m => by rw [p2 m, hz]; exact g3 m, fun h => absurd h h0, fun _ => ⟨?_, by rw [p1, hb, hf]⟩⟩
    unfold told at ht ⊢
    have htf : t.flt = z.flt := by
      rw [p1]
    rw [htf, ← hyf]
    exact ht

/-! ### TOKEN_DELIVERY (R286) -/

theorem tokenDelivery_takes {lc : LCoreNo} {tok : BitVec 6} {o byIc : Bool} {h : HamletNo} (ht : s.takesToken n lc (tagOf o h) = true) :
    exec (.tokenDelivery n lc tok o h byIc) s = .next (s.modSite n fun c => (c.signal tok 1).wake) := by
  change execTokenDelivery n lc tok o h byIc s = _
  unfold execTokenDelivery
  rw [if_pos ht]

theorem wake_tok (c : Site) (k : BitVec 6) : c.wake.tok k = c.tok k := by
  unfold Site.wake
  split <;> rfl

theorem signal_pwr (c : Site) (k : BitVec 6) (a : Nat) : (c.signal k a).pwr = c.pwr := by
  unfold Site.signal
  dsimp only
  split <;> rfl

theorem wake_wakes {c : Site} (h : c.pwr = .nap ∨ c.pwr = .retain) : c.wake = { c with waking := true, pwrPending := none } := by
  unfold Site.wake
  rcases h with h | h <;> rw [h]

theorem tokenDelivery_spec {lc : LCoreNo} {tok : BitVec 6} {o byIc : Bool} {h : HamletNo} (ht : s.takesToken n lc (tagOf o h) = true) :
    completes (.tokenDelivery n lc tok o h byIc) s fun t => onlySite n s t ∧
      (t.site n).tok tok = BitVec.ofNat 16 (min 65535 (((s.site n).tok tok).toNat + 1)) ∧
      (∀ k, k ≠ tok → (t.site n).tok k = (s.site n).tok k) ∧
      ((s.site n).pwr = .nap ∨ (s.site n).pwr = .retain →
        (t.site n).waking = true ∧ (t.site n).pwr = (s.site n).pwr ∧ (t.site n).pwrPending = none) := by
  refine ⟨_, tokenDelivery_takes ht, onlySite_modSite s n _, ?_⟩
  rw [State.site_modSite_same]
  refine ⟨?_, fun k hk => ?_, fun hp => ?_⟩
  · rw [wake_tok]
    refine BitVec.eq_of_toNat_eq ?_
    rw [signal_tok, if_pos rfl, BitVec.toNat_ofNat]
    omega
  · rw [wake_tok]
    refine BitVec.eq_of_toNat_eq ?_
    rw [signal_tok, if_neg (fun e => hk e.symm)]
    have := ((s.site n).tok k).isLt
    omega
  · rw [wake_wakes (by rw [signal_pwr]; exact hp)]
    exact ⟨rfl, signal_pwr _ _ _, rfl⟩

theorem tokenDelivery_dropped {lc : LCoreNo} {tok : BitVec 6} {o : Bool} {h : HamletNo} (ht : s.takesToken n lc (tagOf o h) = false) :
    exec (.tokenDelivery n lc tok o h false) s = .next { s with coll := { s.coll with dropped := satInc s.coll.dropped } } ∧
      exec (.tokenDelivery n lc tok o h true) s = .next { s with ic := { s.ic with dropped := satInc s.ic.dropped } } := by
  constructor
  · change execTokenDelivery n lc tok o h false s = _
    unfold execTokenDelivery
    rw [ht]
    rfl
  · change execTokenDelivery n lc tok o h true s = _
    unfold execTokenDelivery
    rw [ht]
    rfl

end

/-- BELL_DATA of an operation that came in a packet goes back in one (R290). -/
theorem bellAnswer_packet (s : State) (op : BitVec 8) (b : BellNo) (st : BitVec 4) (img : Option BellImg) (a : Fin 64 × Bool)
    (x : BitVec 10) (o : Bool) (h : HamletNo) : let t := s.bellAnswer op b (.packet a x o h) st img
      t = { s with fab := t.fab, out := t.out } ∧ (∃ os, t.out = s.out ++ .bellData op b st img :: os) ∧
      ∃ p, p.opc = 7 ∧ p.dstRtr = a.1 ∧ p.dstEp = a.2 ∧ p.txn = x ∧ p.status = st ∧
        p.data = bellDataBytes op (BitVec.ofNat 13 b.val) img s.id.dev ∧
        (t.fab.flying = s.fab.flying ++ [p] ∨ t.fab.waiting = s.fab.waiting ++ [{ pkt := p, kind := .response }]) := by
  obtain ⟨h1, ⟨os, h2⟩, h3⟩ := handPort_response (s.send (.bellData op b st img))
    ((s.send (.bellData op b st img)).bellReply b a x (tagOf o h) op st img)
  exact ⟨h1, ⟨os, h2.trans (List.append_assoc _ _ _)⟩, _, rfl, rfl, rfl, rfl, rfl, rfl, h3⟩

/-- Settles O41: an operation that a bell takes changes that bell alone before its answer; the answer and what a firing
forwards go to source ports, which take no bell into account. -/
theorem bellOperations : Obligations.BellOperations := by
  unfold Obligations.BellOperations
  dsimp only
  refine ⟨fun s b src n i hw hs => ⟨fun hf => bellAdd_quiet hw hs hf, fun hf ht hq hm =>
      ⟨fun h0 ha => ?_, fun hi => bellAdd_later hw hs hf hi, fun h0 hi => bellAdd_late hw hs hf ht hq hm h0 hi⟩⟩,
    fun s b src hw hs => ⟨fun img hi => bellSet_takes hw hs hi, fun hc => bellArm_takes hw hs hc, bellDisarm_takes hw hs, bellRead_takes hw hs⟩,
    fun s b src n i img hw hs => ⟨⟨_, rfl, bellCmd_refused hw hs⟩, ⟨_, rfl, bellCmd_refused hw hs⟩, ⟨_, rfl, bellCmd_refused hw hs⟩,
      ⟨_, rfl, bellCmd_refused hw hs⟩, ⟨_, rfl, bellCmd_refused hw hs⟩⟩,
    fun s b src n i img hw => ⟨⟨_, rfl, bellCmd_waits hw⟩, ⟨_, rfl, bellCmd_waits hw⟩, ⟨_, rfl, bellCmd_waits hw⟩,
      ⟨_, rfl, bellCmd_waits hw⟩, ⟨_, rfl, bellCmd_waits hw⟩⟩,
    fun s op b st img => ⟨fun src h => ?_, fun a x o h => bellAnswer_packet s op b st img a x o h⟩,
    fun s b => ⟨fun h => ⟨_, bellRefire_none h, rfl⟩, fun hr hd hs hf hre ha ht hi hw hm =>
      ⟨_, bellRefire_fires hr hd hs hf ha ht hi hw hm, onlyBell_setBell s b _, ?_⟩⟩,
    fun s b tm i rest hd hk hs => ⟨fun hi => ⟨_, (bellAlignedAction_of hd hk hs).trans (congrArg _ (if_pos hi)), rfl⟩,
      fun hi ht hq hm hf hw => bellAlignedAction_forwards hd hk hs hi ht hq hm hf hw⟩,
    fun s n dst txn k st img hs ho => ⟨fun hx => ?_, fun x dev hx h7 he ha hu hq => bellData_core hs ho hx h7 he ha hu hq⟩,
    fun s n lc tok o h byIc => ⟨fun ht => tokenDelivery_spec ht, fun ht =>
      ⟨⟨_, (tokenDelivery_dropped ht).1, rfl⟩, ⟨_, (tokenDelivery_dropped ht).2, rfl⟩⟩⟩⟩
  · rw [h0]
    exact bellAdd_fires hw hs hf ht hq hm ha
  · cases src with
    | packet a x o k => exact absurd rfl (h a x o k)
    | ring r => rfl
    | device => rfl
  · rw [State.bell_setBell_same]
    exact ⟨(afterFire_keeps _).1, (afterFire_rearm hre).1⟩
  · have hexec := bellData_of (k := k) (st := st) (img := img) hs ho
    rw [hx] at hexec
    exact ⟨_, hexec, dataCame_spec s dst txn⟩

end Sys2Proof.Machine
end

section
/-!
PROOF. Reducers, tallies and the system reset (10_bells_collectives.md): slots, barriers and RESET_AT; O42.
-/

namespace Sys2Proof.Machine

/-! ### Reducer slots (R298 to R300) -/

section
variable {s : State} {tc : Fin 64} {addr : Word64} {r : RSlot} {d : RedData} {l : LinkNo} {tm : Word64}

/-- A tree context's answers change links and output alone. -/
theorem redAnswer_frame (s : State) (tc : Fin 64) (addr : Word64) (st : BitVec 4) (src : RedFrom) : onlyLinks s (s.redAnswer tc addr st src) := by
  unfold State.redAnswer
  dsimp only
  split
  · rfl
  · exact sendLink_frame s _ _
  · exact sendLink_frame s _ _

theorem coll_at (s : State) (tm : Word64) : (s.at tm).coll = s.coll := by
  obtain ⟨b, hb⟩ := at_is s tm
  rw [hb]

theorem rslot_at (s : State) (tm : Word64) (tc : Fin 64) (addr : Word64) : (s.at tm).rslot tc addr = s.rslot tc addr := by
  unfold State.rslot
  rw [coll_at]

theorem setRslot_none (s : State) (tc : Fin 64) (addr : Word64) : (s.setRslot tc addr none).rslot tc addr = none := by
  refine List.find?_eq_none.2 fun x hx => ?_
  have hn := (List.mem_filter.1 hx).2
  rw [Bool.not_eq_true'] at hn
  exact fun h => Bool.noConfusion (h.symm.trans hn)

theorem setRslot_opens (h : s.rslot tc addr = none) (r : RSlot) : (s.setRslot tc addr (some r)).coll.slots = s.coll.slots ++ [r] := by
  have hf : (s.coll.slots.filter fun x => !(decide (x.tc = tc) && decide (x.addr = addr))) = s.coll.slots := by
    refine List.filter_eq_self.2 fun x hx => ?_
    rw [Bool.not_eq_true', ← Bool.not_eq_true]
    exact List.find?_eq_none.1 h x hx
  change (s.coll.slots.filter fun x => !(decide (x.tc = tc) && decide (x.addr = addr))) ++ [r] = _
  rw [hf]

/-- The slot that a first contribution opens. -/
def State.openedSlot (s : State) (tc : Fin 64) (addr : Word64) (l : LinkNo) (d : RedData) : RSlot :=
  { tc := tc, addr := addr, since := s.tb, held := [(.child l, d)], sent := false, sum := none, failed := none }

theorem reduce_opens (hv : (s.tree tc).valid = true) (hf : (s.tree tc).failed = false) (hd : s.isDark (s.tree tc).home = false)
    (hh : s.hamletResetting (s.tree tc).owner = false) (ho : (s.link l).owner = (s.tree tc).owner) (ht : (s.tree tc).takes (.child l) = true)
    (hn : s.rslot tc addr = none) (hu : s.redUsed (s.tree tc).home + redUnits d (s.tree tc).expected ≤ 2048)
    (he : (s.tree tc).expected ≠ 1) (hw : s.homeWay (s.tree tc) l = true) :
    s.reduce tc addr (.child l) d = (s.setRslot tc addr (some (s.openedSlot tc addr l d)), 0) := by
  unfold State.reduce
  dsimp only
  rw [if_neg (by rw [hv, hf, hd]; decide), if_neg (by rw [hw]; exact fun h => Bool.noConfusion h), hh, if_neg Bool.false_ne_true,
    if_neg (not_not_intro ho), if_neg (by rw [ht]; exact fun h => Bool.noConfusion h), hn]
  dsimp only
  rw [if_neg (Nat.not_lt.2 hu), if_neg he]
  rfl

theorem reduce_absent (hv : (s.tree tc).valid = false) : s.reduce tc addr (.child l) d = (s, 4) := if_pos (Or.inl hv)

theorem reducerContrib_child : exec (.reducerContrib tc addr (.child l) d tm) s =
    .next (((s.at tm).reduce tc addr (.child l) d).1.redAnswer tc addr ((s.at tm).reduce tc addr (.child l) d).2 (.child l)) := rfl

/-- REDUCER_CONTRIB that opens a slot (R298). -/
theorem reducerContrib_opens (hv : (s.tree tc).valid = true) (hf : (s.tree tc).failed = false) (hd : s.isDark (s.tree tc).home = false)
    (hh : s.hamletResetting (s.tree tc).owner = false) (ho : (s.link l).owner = (s.tree tc).owner) (ht : (s.tree tc).takes (.child l) = true)
    (hn : s.rslot tc addr = none) (hu : s.redUsed (s.tree tc).home + redUnits d (s.tree tc).expected ≤ 2048)
    (he : (s.tree tc).expected ≠ 1) (hw : s.homeWay (s.tree tc) l = true) :
      completes (.reducerContrib tc addr (.child l) d tm) s fun t =>
        t = { s.at tm with coll := { s.coll with slots := t.coll.slots }, links := t.links, out := t.out } ∧
        ∃ r, t.coll.slots = s.coll.slots ++ [r] ∧ r.tc = tc ∧ r.addr = addr ∧ r.since = (s.at tm).tb ∧
          r.held = [(.child l, d)] ∧ r.sent = false ∧ r.failed = none := by
  have hr : (s.at tm).reduce tc addr (.child l) d = ((s.at tm).setRslot tc addr (some ((s.at tm).openedSlot tc addr l d)), 0) := by
    obtain ⟨b, hb⟩ := at_is s tm
    rw [hb]
    exact reduce_opens hv hf hd hh ho ht hn hu he hw
  have hx : exec (.reducerContrib tc addr (.child l) d tm) s =
      .next (((s.at tm).setRslot tc addr (some ((s.at tm).openedSlot tc addr l d))).redAnswer tc addr 0 (.child l)) := by
    rw [reducerContrib_child, hr]
  have ho := setRslot_opens (s := s.at tm) ((rslot_at s tm tc addr).trans hn) ((s.at tm).openedSlot tc addr l d)
  rw [coll_at] at ho
  have hfr : (s.at tm).setRslot tc addr (some ((s.at tm).openedSlot tc addr l d)) = { s.at tm with
      coll := { s.coll with slots := ((s.at tm).setRslot tc addr (some ((s.at tm).openedSlot tc addr l d))).coll.slots } } := by
    rw [← coll_at s tm]
    rfl
  generalize (s.at tm).setRslot tc addr (some ((s.at tm).openedSlot tc addr l d)) = u at hx ho hfr
  have ha := redAnswer_frame u tc addr 0 (.child l)
  generalize u.redAnswer tc addr 0 (.child l) = t at hx ha
  unfold onlyLinks at ha
  refine ⟨t, hx, ?_, (s.at tm).openedSlot tc addr l d, ?_, rfl, rfl, rfl, rfl, rfl, rfl⟩
  · rw [ha, hfr]
  · rw [ha]
    exact ho

theorem reducerContrib_absent (hv : (s.tree tc).valid = false) : completes (.reducerContrib tc addr (.child l) d tm) s fun t =>
    t = { s.at tm with links := t.links, out := t.out } := by
  have hr : (s.at tm).reduce tc addr (.child l) d = (s.at tm, 4) := by
    obtain ⟨b, hb⟩ := at_is s tm
    rw [hb]
    exact reduce_absent hv
  have hx : exec (.reducerContrib tc addr (.child l) d tm) s = .next ((s.at tm).redAnswer tc addr 4 (.child l)) := by
    rw [reducerContrib_child, hr]
  exact ⟨_, hx, redAnswer_frame _ _ _ _ _⟩

/-- REDUCER_ACCEPTED of a sum that was sent (R299). -/
theorem reducerAccepted_of (hr : s.rslot tc addr = some r) (hs : r.sent = true) (hd : r.sum = some d) :
    exec (.reducerAccepted tc addr) s = .next ((s.setRslot tc addr none).sumTaken tc (redBytes d).length) := by
  change execReducerAccepted tc addr s = _
  unfold execReducerAccepted
  rw [hr]
  dsimp only
  rw [hs, hd]

theorem rslot_of_slots {u v : State} (h : u.coll.slots = v.coll.slots) : u.rslot tc addr = v.rslot tc addr := by
  unfold State.rslot
  rw [h]

theorem setRslot_frame (s : State) (tc : Fin 64) (addr : Word64) : s.setRslot tc addr none =
    { s with coll := { s.coll with slots := (s.setRslot tc addr none).coll.slots } } := rfl

theorem accepted_all (hm : (s.tree tc).mode = 1) (n : Nat) : ((s.setRslot tc addr none).sumTaken tc n).rslot tc addr = none ∧
    (s.setRslot tc addr none).sumTaken tc n = { s with coll := { s.coll with slots := ((s.setRslot tc addr none).sumTaken tc n).coll.slots } } := by
  have he : (s.setRslot tc addr none).sumTaken tc n = s.setRslot tc addr none := if_pos hm
  rw [he]
  exact ⟨setRslot_none s tc addr, rfl⟩

theorem accepted_counts (hm : (s.tree tc).mode ≠ 1) {n : Nat} (hn : (s.tree tc).doneBytes + n < (s.tree tc).length.toNat) :
    ((s.setRslot tc addr none).sumTaken tc n).rslot tc addr = none ∧
      (s.setRslot tc addr none).sumTaken tc n = { s with coll := { s.coll with
        slots := ((s.setRslot tc addr none).sumTaken tc n).coll.slots, trees := ((s.setRslot tc addr none).sumTaken tc n).coll.trees } } ∧
      ((s.setRslot tc addr none).sumTaken tc n).tree tc = { s.tree tc with doneBytes := (s.tree tc).doneBytes + n } ∧
      ∀ x, x ≠ tc → ((s.setRslot tc addr none).sumTaken tc n).tree x = s.tree x := by
  have he : (s.setRslot tc addr none).sumTaken tc n =
      (s.setRslot tc addr none).setTree tc { s.tree tc with doneBytes := (s.tree tc).doneBytes + n } :=
    (if_neg hm).trans (if_pos hn)
  rw [he]
  exact ⟨setRslot_none s tc addr, rfl, State.tree_setTree_same _ tc _, fun x hx => State.tree_setTree_other _ _ hx⟩

/-- The operation that rings a context's DONE_BELL (R299). -/
def doneBellOf (t : TreeCtx) : BellMsg := { op := 0, dev := none, bell := t.doneBell, amount := 1, instant := 0, tag := t.owner }

/-- What a unit's bell operation keeps of the reducers, sent or failed. -/
theorem sendBell_unit_reducers (s : State) (src : Fin 64 × Bool) (m : BellMsg) :
    (s.sendBell src .unit m).coll.slots = s.coll.slots ∧ (s.sendBell src .unit m).coll.trees = s.coll.trees := by
  by_cases h : bellHasWay s src.1 m
  · rw [(sendBell_sent .unit h).2]
    exact ⟨rfl, rfl⟩
  · rw [sendBell_none .unit h]
    exact ⟨rfl, rfl⟩

theorem tree_of_trees {u v : State} (h : u.coll.trees = v.coll.trees) (x : Fin 64) : u.tree x = v.tree x := by
  unfold State.tree
  rw [h]

theorem accepted_done (hm : (s.tree tc).mode ≠ 1) {n : Nat} (hn : (s.tree tc).length.toNat ≤ (s.tree tc).doneBytes + n) :
    ((s.setRslot tc addr none).sumTaken tc n).rslot tc addr = none ∧
      ((s.setRslot tc addr none).sumTaken tc n).tree tc = { s.tree tc with doneBytes := 0 } ∧
      (∀ x, x ≠ tc → ((s.setRslot tc addr none).sumTaken tc n).tree x = s.tree x) ∧
      ((s.tree tc).doneEn = false → ((s.setRslot tc addr none).sumTaken tc n).out = s.out) ∧
      ((s.tree tc).doneEn = true → bellHasWay s (s.linkPort (s.tree tc).home).1 (doneBellOf (s.tree tc)) →
        bellSent s ((s.setRslot tc addr none).sumTaken tc n) (s.linkPort (s.tree tc).home) .unit (doneBellOf (s.tree tc))) := by
  have he : (s.setRslot tc addr none).sumTaken tc n = if (s.tree tc).doneEn then
      ((s.setRslot tc addr none).setTree tc { s.tree tc with doneBytes := 0 }).sendBell (s.linkPort (s.tree tc).home) .unit (doneBellOf (s.tree tc))
      else (s.setRslot tc addr none).setTree tc { s.tree tc with doneBytes := 0 } :=
    (if_neg hm).trans (if_neg (Nat.not_lt.2 hn))
  rw [he]
  have hr : ((s.setRslot tc addr none).setTree tc { s.tree tc with doneBytes := 0 }).rslot tc addr = none := setRslot_none s tc addr
  have hf : (s.setRslot tc addr none).setTree tc { s.tree tc with doneBytes := 0 } = { s with coll := { s.coll with
      slots := ((s.setRslot tc addr none).setTree tc { s.tree tc with doneBytes := 0 }).coll.slots,
      trees := ((s.setRslot tc addr none).setTree tc { s.tree tc with doneBytes := 0 }).coll.trees } } := rfl
  have hs := State.tree_setTree_same (s.setRslot tc addr none) tc { s.tree tc with doneBytes := 0 }
  have ho (x : Fin 64) (hx : x ≠ tc) : ((s.setRslot tc addr none).setTree tc { s.tree tc with doneBytes := 0 }).tree x = s.tree x :=
    State.tree_setTree_other (s.setRslot tc addr none) { s.tree tc with doneBytes := 0 } hx
  generalize (s.setRslot tc addr none).setTree tc { s.tree tc with doneBytes := 0 } = v at hr hf hs ho
  split
  · next hd =>
    obtain ⟨g1, g2⟩ := sendBell_unit_reducers v (s.linkPort (s.tree tc).home) (doneBellOf (s.tree tc))
    refine ⟨(rslot_of_slots g1).trans hr, (tree_of_trees g2 tc).trans hs, fun x hx => (tree_of_trees g2 x).trans (ho x hx),
      fun h => Bool.noConfusion (h.symm.trans hd), fun _ hw => ?_⟩
    have hway : bellHasWay v (s.linkPort (s.tree tc).home).1 (doneBellOf (s.tree tc)) := by
      rw [hf]
      exact hw
    refine bellSent_congr ?_ ?_ ?_ ?_ ?_ (sendBell_sent .unit hway).1 <;> rw [hf]
    rfl
  · next hd =>
    refine ⟨hr, hs, ho, fun _ => by rw [hf], fun h => absurd h hd⟩

/-- REDUCER_SLOT_EXPIRY (R300). -/
theorem reducerSlotExpiry_of (hr : s.rslot tc addr = some r) : exec (.reducerSlotExpiry tc addr tm) s =
    .next (if windowOver r.since 1000000 (s.at tm).tb = false then s.at tm
      else if r.failed.isSome then r.held.foldl (fun s x => s.redAnswer tc addr (r.failed.getD 11) x.1) ((s.at tm).setRslot tc addr none)
      else (r.held.foldl (fun s x => s.redAnswer tc addr (r.failed.getD 11) x.1) ((s.at tm).setRslot tc addr none)).tell 0x000F none
        ((copyCode (r.failed.getD 11)).setWidth 32) addr) := by
  change execReducerSlotExpiry tc addr tm s = _
  unfold execReducerSlotExpiry
  dsimp only
  rw [rslot_at, hr]
  dsimp only
  split
  · rfl
  · rfl

theorem reducerSlotExpiry_spec (hr : s.rslot tc addr = some r) (hw : windowOver r.since 1000000 (s.at tm).tb = true) :
    completes (.reducerSlotExpiry tc addr tm) s fun t => t.rslot tc addr = none ∧ t.sites = s.sites ∧ t.mem = s.mem ∧
      (r.failed = none → told (s.at tm) t 0x000F none) ∧ (r.failed.isSome = true → t.flt = s.flt) := by
  have hx := (reducerSlotExpiry_of (tm := tm) hr).trans (congrArg _ (if_neg (by rw [hw]; exact fun h => Bool.noConfusion h)))
  refine ⟨_, hx, ?_⟩
  have hn := setRslot_none (s.at tm) tc addr
  have hf := setRslot_frame (s.at tm) tc addr
  have hg : onlyLinks ((s.at tm).setRslot tc addr none) (r.held.foldl (fun s x => s.redAnswer tc addr (r.failed.getD 11) x.1)
      ((s.at tm).setRslot tc addr none)) :=
    foldl_related (P := onlyLinks) (fun _ => rfl) (fun _ _ _ => onlyLinks_trans) (fun s x => redAnswer_frame s _ _ _ _) _ _
  generalize (s.at tm).setRslot tc addr none = u at hn hf hg
  generalize r.held.foldl (fun s x => s.redAnswer tc addr (r.failed.getD 11) x.1) u = v at hg
  have hv : v.rslot tc addr = none := by
    rw [hg]
    exact hn
  have hk : v.sites = s.sites ∧ v.mem = s.mem ∧ v.flt = (s.at tm).flt ∧ (s.at tm).flt = s.flt := by
    obtain ⟨b, hb⟩ := at_is s tm
    rw [hb] at hf ⊢
    refine ⟨?_, ?_, ?_, rfl⟩ <;> rw [hg, hf]
  obtain ⟨k1, k2, k3, k4⟩ := hk
  split
  · next hs => exact ⟨hv, k1, k2, fun h => absurd hs (by rw [h]; exact Bool.false_ne_true), fun _ => k3.trans k4⟩
  · next hs =>
    refine ⟨hv, k1, k2, fun _ => ?_, fun h => absurd h hs⟩
    unfold told
    rw [← k3]
    exact ⟨insertReport_length _ _ _, _, mem_insertReport _ _ _, rfl, rfl⟩

end

/-! ### Tallies (R150, R302) -/

section
variable {s t u : State} {o p : Option HamletNo} {k m : SiteNo} {n job : Word32}

theorem scopeKey_injective (h : scopeKey p = scopeKey o) : p = o := by
  cases o with
  | none =>
    cases p with
    | none => rfl
    | some b => exact absurd (show 1 + b.val = 0 from h) (by omega)
  | some a =>
    cases p with
    | none => exact absurd (show 0 = 1 + a.val from h) (by omega)
    | some b => exact congrArg some (Fin.ext (Nat.add_left_cancel h))

theorem tallyOf_setTally_same (s : State) (o : Option HamletNo) (v : TallyScope) : (s.setTally o v).tallyOf o = v := tget_tset_same _ _ _ _

theorem tallyOf_setTally_other (s : State) (v : TallyScope) (h : p ≠ o) : (s.setTally o v).tallyOf p = s.tallyOf p :=
  tget_tset_other _ _ v fun e => h (scopeKey_injective e)

theorem buf_setBuf_same (t : TallyScope) (b : Bool) (v : TallyBuf) : (t.setBuf b v).buf b = v := by
  cases b <;> rfl

theorem buf_setBuf_not (t : TallyScope) (b : Bool) (v : TallyBuf) : (t.setBuf b v).buf (!b) = t.buf (!b) := by
  cases b <;> rfl

theorem setBuf_lastB (t : TallyScope) (b : Bool) (v : TallyBuf) : (t.setBuf b v).lastB = t.lastB := by
  cases b <;> rfl

/-- The scope whose tally is being taken from now. -/
def State.takingNow (s : State) (o : Option HamletNo) (job : Word32) : TallyScope :=
  { (s.tallyOf o).setBuf (tallyInB (s.nextTally o job))
      { complete := false, num := s.nextTally o job, job := job, time := 0, bells := s.savedBells o job, cores := [] } with
    taking := some (s.nextTally o job), entered := true, copied := [] }

theorem tallyEnterRelease_of (h : scopes.find? (fun o => s.atTally o job && (s.tallyOf o).taking.isNone) = some o) :
    exec (.tallyEnterRelease job) s = .next (s.setTally o (s.takingNow o job)) := by
  change execTallyEnterRelease job s = _
  unfold execTallyEnterRelease
  rw [h]
  rfl

theorem takingNow_buf (s : State) (o : Option HamletNo) (job : Word32) : (s.takingNow o job).buf (tallyInB (s.nextTally o job)) =
      { complete := false, num := s.nextTally o job, job := job, time := 0, bells := s.savedBells o job, cores := [] } ∧
    (s.takingNow o job).buf (!tallyInB (s.nextTally o job)) = (s.tallyOf o).buf (!tallyInB (s.nextTally o job)) :=
  ⟨buf_setBuf_same _ _ _, buf_setBuf_not _ _ _⟩

theorem tallyEnterRelease_spec (h : scopes.find? (fun o => s.atTally o job && (s.tallyOf o).taking.isNone) = some o) :
    completes (.tallyEnterRelease job) s fun t =>
      t = { s with coll := { s.coll with tallies := t.coll.tallies } } ∧
      (∀ p, p ≠ o → t.tallyOf p = s.tallyOf p) ∧
      (t.tallyOf o).taking = some (s.nextTally o job) ∧ (t.tallyOf o).entered = true ∧ (t.tallyOf o).copied = [] ∧
      ((t.tallyOf o).buf (tallyInB (s.nextTally o job))).complete = false ∧
      ((t.tallyOf o).buf (tallyInB (s.nextTally o job))).num = s.nextTally o job ∧
      ((t.tallyOf o).buf (tallyInB (s.nextTally o job))).job = job ∧
      ((t.tallyOf o).buf (tallyInB (s.nextTally o job))).bells = s.savedBells o job ∧
      (t.tallyOf o).buf (!tallyInB (s.nextTally o job)) = (s.tallyOf o).buf (!tallyInB (s.nextTally o job)) ∧
      (t.tallyOf o).lastB = (s.tallyOf o).lastB := by
  refine ⟨_, tallyEnterRelease_of h, rfl, fun p hp => tallyOf_setTally_other s _ hp, ?_⟩
  obtain ⟨h1, h2⟩ := takingNow_buf s o job
  rw [tallyOf_setTally_same, h1, h2]
  exact ⟨rfl, rfl, rfl, rfl, rfl, rfl, rfl, rfl, setBuf_lastB _ _ _⟩

/-- The scope in which a core's regions are copied. -/
def State.copiedNow (s : State) (k : SiteNo) (lc : LCoreNo) (n : Word32) : TallyScope :=
  { (s.tallyOf (s.site k).hamlet).setBuf (tallyInB n)
      { (s.tallyOf (s.site k).hamlet).buf (tallyInB n) with
        cores := ((s.tallyOf (s.site k).hamlet).buf (tallyInB n)).cores ++ [s.savedCore k lc] } with
    copied := (s.tallyOf (s.site k).hamlet).copied ++ [lc] }

theorem tallyRegionsCopied_of {l : LaunchInfo} {lc : LCoreNo} (hl : (s.site k).launch = some l) (hb : (s.site k).bound = some lc)
    (ht : (s.tallyOf (s.site k).hamlet).taking = some n) (hq : (s.site k).seq = .tally) (he : (s.tallyOf (s.site k).hamlet).entered = true)
    (hc : lc ∉ (s.tallyOf (s.site k).hamlet).copied) : exec (.tallyRegionsCopied k) s =
      .next ((s.setTally (s.site k).hamlet (s.copiedNow k lc n)).coreBell k ((s.site k).arrive l.commitArrive)) := by
  change execTallyRegionsCopied k s = _
  unfold execTallyRegionsCopied
  dsimp only
  rw [hl, hb, ht]
  dsimp only
  rw [if_neg]
  · rfl
  · rintro (h | h | h)
    · exact h hq
    · exact Bool.noConfusion (he.symm.trans h)
    · exact hc (List.contains_iff_mem.1 h)

theorem setBuf_taking (t : TallyScope) (b : Bool) (v : TallyBuf) : (t.setBuf b v).taking = t.taking := by
  cases b <;> rfl

theorem tallyRegionsCopied_spec {l : LaunchInfo} {lc : LCoreNo} (hl : (s.site k).launch = some l) (hb : (s.site k).bound = some lc)
    (ht : (s.tallyOf (s.site k).hamlet).taking = some n) (hq : (s.site k).seq = .tally) (he : (s.tallyOf (s.site k).hamlet).entered = true)
    (hc : lc ∉ (s.tallyOf (s.site k).hamlet).copied) (ho : (s.site k).bellsOut < 64) (hw : (s.site k).bellQ = [])
    (hway : bellHasWay s (rtrOfSite k) ((s.site k).arrive l.commitArrive)) : completes (.tallyRegionsCopied k) s fun t =>
      t = { s with sites := t.sites, coll := { s.coll with tallies := t.coll.tallies }, fab := t.fab, out := t.out } ∧
      (t.tallyOf (s.site k).hamlet).copied = (s.tallyOf (s.site k).hamlet).copied ++ [lc] ∧
      ((t.tallyOf (s.site k).hamlet).buf (tallyInB n)).cores =
        ((s.tallyOf (s.site k).hamlet).buf (tallyInB n)).cores ++ [s.savedCore k lc] ∧
      (t.tallyOf (s.site k).hamlet).taking = some n ∧ (∀ p, p ≠ (s.site k).hamlet → t.tallyOf p = s.tallyOf p) ∧
      (∀ m, m ≠ k → t.site m = s.site m) ∧ t.site k = { s.site k with bellsOut := (s.site k).bellsOut + 1 } ∧
      bellSent s t (rtrOfSite k, false) (.core k) ((s.site k).arrive l.commitArrive) := by
  refine ⟨_, tallyRegionsCopied_of hl hb ht hq he hc, ?_⟩
  have hsite : ∀ m, (s.setTally (s.site k).hamlet (s.copiedNow k lc n)).site m = s.site m := fun _ => rfl
  obtain ⟨h1, h2, h3, h4⟩ := coreBell_sent (s := s.setTally (s.site k).hamlet (s.copiedNow k lc n)) (n := k)
    (m := (s.site k).arrive l.commitArrive) ho hw ((bellHasWay_setTally s _ _ _ _).2 hway)
  have h5 (m : SiteNo) (hm : m ≠ k) : ((s.setTally (s.site k).hamlet (s.copiedNow k lc n)).coreBell k ((s.site k).arrive l.commitArrive)).site m = s.site m :=
    coreBell_site_other (s.setTally (s.site k).hamlet (s.copiedNow k lc n)) ((s.site k).arrive l.commitArrive) hm
  generalize State.coreBell _ k _ = t at h1 h2 h3 h4 h5
  have htal (p : Option HamletNo) : t.tallyOf p = (s.setTally (s.site k).hamlet (s.copiedNow k lc n)).tallyOf p := by
    unfold State.tallyOf
    rw [h3]
  dsimp only
  rw [htal, tallyOf_setTally_same]
  refine ⟨?_, rfl, ?_, (setBuf_taking _ _ _).trans ht, fun p hp => (htal p).trans (tallyOf_setTally_other s _ hp), h5, h4,
    bellSent_congr (bellWay_setTally s _ _ _) rfl rfl rfl rfl h1⟩
  · rw [h2]
    rfl
  · exact congrArg TallyBuf.cores (buf_setBuf_same _ _ _)

/-! ### The commit of a tally -/

theorem modSites_other (ns : List SiteNo) (s : State) {f : Site → Site} (hm : m ∉ ns) : (s.modSites ns f).site m = s.site m := by
  induction ns generalizing s with
  | nil => rfl
  | cons a ns ih =>
    change ((s.modSite a f).modSites ns f).site m = _
    rw [ih _ fun h => hm (List.mem_cons_of_mem _ h), State.site_modSite_other s f fun h => hm (by rw [h]; exact List.mem_cons_self)]

/-- The same change, idempotent, at each of several sites. -/
theorem modSites_same (ns : List SiteNo) (s : State) {f : Site → Site} (hf : ∀ c, f (f c) = f c) (hm : m ∈ ns) :
    (s.modSites ns f).site m = f (s.site m) := by
  induction ns generalizing s with
  | nil => exact absurd hm List.not_mem_nil
  | cons a ns ih =>
    change ((s.modSite a f).modSites ns f).site m = _
    by_cases h : m ∈ ns
    · rw [ih _ h]
      by_cases ha : m = a
      · rw [ha, State.site_modSite_same, hf]
      · rw [State.site_modSite_other s f ha]
    · have ha : m = a := (List.mem_cons.1 hm).resolve_right h
      rw [modSites_other ns _ h, ha, State.site_modSite_same]

theorem modSites_frame (ns : List SiteNo) (s : State) (f : Site → Site) : s.modSites ns f = { s with sites := (s.modSites ns f).sites } := by
  induction ns generalizing s with
  | nil => rfl
  | cons a ns ih =>
    change (s.modSite a f).modSites ns f = _
    rw [ih]
    rfl

/-- The sites of a job are those that run it, whatever else changes. -/
theorem jobSites_congr (hh : t.host = s.host) (hl : ∀ m, (t.site m).launch = (s.site m).launch) (o : Option HamletNo) (job : Word32) :
    t.jobSites o job = s.jobSites o job := by
  unfold State.jobSites State.jobDescs State.launchSites State.scopeOf State.ring
  rw [hh]
  simp only [hl]

theorem dueAtTally_congr (hh : t.host = s.host) (hl : ∀ m, (t.site m).launch = (s.site m).launch)
    (he : ∀ m, (t.site m).engines = (s.site m).engines) (hb : ∀ m, (t.site m).bound = (s.site m).bound) (o : Option HamletNo) (job : Word32) :
    t.dueAtTally o job = s.dueAtTally o job := by
  unfold State.dueAtTally Site.eng
  rw [jobSites_congr hh hl]
  simp only [he, hb]

/-- The scope whose tally is committed. -/
def State.tallyCommitted (s : State) (o : Option HamletNo) (job n : Word32) : TallyScope :=
  { (s.tallyOf o).setBuf (tallyInB n) { (s.tallyOf o).buf (tallyInB n) with complete := true, job := job, time := s.tb } with
    lastB := tallyInB n, taking := none, entered := false, share := 0, copied := [] }

/-- A core that goes on. -/
def Site.resumed (c : Site) : Site := { c with seq := .running }

theorem tallyCommitRelease_of (h : scopes.find? (fun o => s.allCopied o job && (s.tallyOf o).taking.isSome) = some o)
    (hn : (s.tallyOf o).taking = some n) (hd : s.dueAtTally o job = []) : exec (.tallyCommitRelease job) s =
      .next ((s.setTally o (s.tallyCommitted o job n)).modSites (s.jobSites o job) Site.resumed) := by
  have hsite (m : SiteNo) : ((s.setTally o (s.tallyCommitted o job n)).modSites (s.jobSites o job) Site.resumed).site m = s.site m ∨
      ((s.setTally o (s.tallyCommitted o job n)).modSites (s.jobSites o job) Site.resumed).site m = (s.site m).resumed := by
    by_cases hm : m ∈ s.jobSites o job
    · exact .inr (modSites_same _ (s.setTally o (s.tallyCommitted o job n)) (fun _ => rfl) hm)
    · exact .inl (modSites_other _ (s.setTally o (s.tallyCommitted o job n)) hm)
  have hhost : ((s.setTally o (s.tallyCommitted o job n)).modSites (s.jobSites o job) Site.resumed).host = s.host := by
    rw [modSites_frame]
    rfl
  have hdue : ((s.setTally o (s.tallyCommitted o job n)).modSites (s.jobSites o job) Site.resumed).dueAtTally o job = [] := by
    rw [← hd]
    refine dueAtTally_congr hhost (fun m => ?_) (fun m => ?_) (fun m => ?_) o job <;> rcases hsite m with h | h <;> rw [h] <;> rfl
  change execTallyCommitRelease job s = _
  unfold execTallyCommitRelease
  rw [h]
  dsimp only
  rw [hn]
  change Host.Outcome.next (if (((s.setTally o (s.tallyCommitted o job n)).modSites (s.jobSites o job) Site.resumed).dueAtTally o job).isEmpty = true then
    (s.setTally o (s.tallyCommitted o job n)).modSites (s.jobSites o job) Site.resumed else _) = _
  rw [hdue]
  rfl

theorem tallyCommitRelease_spec (h : scopes.find? (fun o => s.allCopied o job && (s.tallyOf o).taking.isSome) = some o)
    (hn : (s.tallyOf o).taking = some n) (hd : s.dueAtTally o job = []) : completes (.tallyCommitRelease job) s fun t =>
      t = { s with sites := t.sites, coll := { s.coll with tallies := t.coll.tallies } } ∧
      ((t.tallyOf o).buf (tallyInB n)).complete = true ∧ ((t.tallyOf o).buf (tallyInB n)).time = s.tb ∧
      ((t.tallyOf o).buf (tallyInB n)).cores = ((s.tallyOf o).buf (tallyInB n)).cores ∧
      (t.tallyOf o).buf (!tallyInB n) = (s.tallyOf o).buf (!tallyInB n) ∧
      (t.tallyOf o).lastB = tallyInB n ∧ (t.tallyOf o).taking = none ∧
      (∀ m ∈ s.jobSites o job, t.site m = { s.site m with seq := .running }) ∧
      ∀ m, m ∉ s.jobSites o job → t.site m = s.site m := by
  refine ⟨_, tallyCommitRelease_of h hn hd, ?_⟩
  have hs (m : SiteNo) (hm : m ∈ s.jobSites o job) := modSites_same _ (s.setTally o (s.tallyCommitted o job n)) (f := Site.resumed) (fun _ => rfl) hm
  have ho (m : SiteNo) (hm : m ∉ s.jobSites o job) := modSites_other _ (s.setTally o (s.tallyCommitted o job n)) (f := Site.resumed) hm
  have hf := modSites_frame (s.jobSites o job) (s.setTally o (s.tallyCommitted o job n)) Site.resumed
  generalize State.modSites _ _ _ = t at hs ho hf
  have htal : t.tallyOf o = s.tallyCommitted o job n := by
    rw [hf]
    exact tallyOf_setTally_same s o _
  have hsame : (s.tallyCommitted o job n).buf (tallyInB n) = { (s.tallyOf o).buf (tallyInB n) with complete := true, job := job, time := s.tb } :=
    buf_setBuf_same _ _ _
  have hnot : (s.tallyCommitted o job n).buf (!tallyInB n) = (s.tallyOf o).buf (!tallyInB n) := buf_setBuf_not _ _ _
  dsimp only
  rw [htal, hsame, hnot]
  refine ⟨?_, rfl, rfl, rfl, rfl, rfl, rfl, hs, ho⟩
  rw [hf]
  rfl

end

/-! ### The system reset (R304) -/

section
variable {s : State} {t0 tm : Word64} {root : BitVec 12} {l : LinkNo}

theorem resetAt_owned (h : (s.link l).owner.isSome = true) : exec (.resetAt (some l) t0 root) s = .next s := by
  change execResetAt (some l) t0 root s = _
  unfold execResetAt
  dsimp only
  rw [if_pos h]

theorem resetAt_kept (h : s.tb ≤ t0) : exec (.resetAt none t0 root) s = .next { s with
    coll := { s.coll with resetT0 := some t0 }, out := s.out ++ ((s.mset 63).dests.filter fun d => d.remote).map fun d => .resetAt d.dev t0 root } := by
  change execResetAt none t0 root s = _
  unfold execResetAt
  dsimp only
  rw [if_neg Bool.false_ne_true]
  exact if_neg (BitVec.not_lt.2 h)

theorem resetAtInstant_early (hr : s.coll.resetT0 = some t0) (h : (s.at tm).tb < t0) : exec (.resetAtInstant tm) s = .next (s.at tm) := by
  change execResetAtInstant tm s = _
  unfold execResetAtInstant
  dsimp only
  rw [coll_at, hr]
  exact if_pos (Or.inl h)

theorem resetAtInstant_begins (hr : s.coll.resetT0 = some t0) (h : t0 ≤ (s.at tm).tb) (ha : s.resetAnswered = true)
    (hc : s.coll.resetAccept = true) : exec (.resetAtInstant tm) s =
      .next ({ s.at tm with coll := { s.coll with resetT0 := none } } : State).beginReset := by
  change execResetAtInstant tm s = _
  unfold execResetAtInstant
  dsimp only
  have ha' : (s.at tm).resetAnswered = true := by
    unfold State.resetAnswered at ha ⊢
    rw [host_at]
    exact ha
  rw [coll_at, hr]
  dsimp only
  rw [if_neg (fun e => e.elim (BitVec.not_lt.2 h) fun e => Bool.noConfusion (ha'.symm.trans e)), if_pos hc]

theorem resetAtInstant_spec (hr : s.coll.resetT0 = some t0) (h : t0 ≤ (s.at tm).tb) (ha : s.resetAnswered = true)
    (hc : s.coll.resetAccept = true) (hh : s.host.resetting = false) (hb : s.board.rails = true) :
    completes (.resetAtInstant tm) s fun t => t.coll.resetT0 = none ∧ t.host.resetting = true ∧ t.host.ready = false ∧
      t.board.resetDue = true ∧ t.sites = s.sites ∧ t.mem = s.mem := by
  refine ⟨_, resetAtInstant_begins hr h ha hc, ?_⟩
  obtain ⟨b, hat⟩ := at_is s tm
  rw [hat]
  have hx : ({ s with tb := b, coll := { s.coll with resetT0 := none } } : State).beginReset = _ := if_neg (by rw [hh, hb]; decide)
  rw [hx]
  exact ⟨rfl, rfl, rfl, rfl, rfl, rfl⟩

end

/-- Settles O42: a contribution of a context opens its slot, an accepted sum frees it; a tally's buffer takes each core
and is whole with its commit. -/
theorem reducersTalliesAndSystemReset : Obligations.ReducersTalliesAndSystemReset := by
  unfold Obligations.ReducersTalliesAndSystemReset
  dsimp only
  refine ⟨fun s tc addr l d tm => ⟨fun hv hf hd hh ho ht hn hu he hw => reducerContrib_opens hv hf hd hh ho ht hn hu he hw,
      fun hv => reducerContrib_absent hv⟩,
    fun s tc addr r d hr hs hd => ⟨fun hm => ⟨_, reducerAccepted_of hr hs hd, accepted_all hm _⟩,
      fun hm hn => ⟨_, reducerAccepted_of hr hs hd, accepted_counts hm hn⟩,
      fun hm hn => ⟨_, reducerAccepted_of hr hs hd, accepted_done hm hn⟩⟩,
    fun s tc addr tm r hr => ⟨fun hw => ⟨_, (reducerSlotExpiry_of hr).trans (congrArg _ (if_pos hw)), rfl⟩,
      fun hw => reducerSlotExpiry_spec hr hw⟩,
    fun s job o h => tallyEnterRelease_spec h,
    fun s k l lc n hl hb ht hq he hc ho hw hway => tallyRegionsCopied_spec hl hb ht hq he hc ho hw hway,
    fun s job o n h hn hd => tallyCommitRelease_spec h hn hd,
    fun s t0 root => ⟨fun l h => ⟨_, resetAt_owned h, rfl⟩, fun h => ⟨_, resetAt_kept h, rfl, rfl⟩⟩,
    fun s tm t0 hr => ⟨fun h => ⟨_, resetAtInstant_early hr h, rfl⟩, fun h ha hc hh hb => resetAtInstant_spec hr h ha hc hh hb⟩⟩

end Sys2Proof.Machine
end

section
/-!
PROOF. Command classes that operate and report (11_host_interface.md): BELL_OP, trees, sets, SYSTEM_RESET, QUERY, ABORT and deadlines; O46.
-/

namespace Sys2Proof.Machine

/-! ### Descriptors that start, and their answers (R320, R322, R330) -/

section
variable {s u : State} {id : Nat} {d : Desc} {cls : BitVec 8} {mine valid : Desc → Bool} {body : Desc → State}

/-- A descriptor that starts runs its class, or is INVALID when its fields fail their checks (R322). -/
theorem runClass_of (h : classStarts s id d cls) (hm : mine d = true) :
    s.runClass id cls mine valid body = .next (if valid d = false then s.setReady id 1 0 0 else body d) := by
  obtain ⟨hd, hc, hs, hw, hr⟩ := h
  unfold State.runClass
  rw [hd]
  dsimp only
  rw [if_neg, apply_ite Host.Outcome.next]
  rintro (e | e | e | e | e)
  · exact e hc
  · exact Bool.noConfusion (hm.symm.trans e)
  · exact Bool.noConfusion (hs.symm.trans e)
  · exact Bool.noConfusion (hw.symm.trans e)
  · exact Bool.noConfusion (hr.symm.trans e)

theorem runClass_body (h : classStarts s id d cls) (hm : mine d = true) (hv : valid d = true) :
    s.runClass id cls mine valid body = .next (body d) := by
  rw [runClass_of h hm, if_neg (by rw [hv]; exact Bool.noConfusion)]

theorem classStarts_open (h : classStarts s id d cls) : d.started = false ∧ d.ready = none := by
  have hm := h.2.2.1
  unfold State.mayStart at hm
  rw [Bool.and_eq_true, Bool.and_eq_true, Bool.and_eq_true] at hm
  exact ⟨Bool.not_eq_true' _ ▸ hm.1.1.1, Option.isNone_iff_eq_none.1 hm.1.1.2⟩

/-- A completion made ready answers the descriptor, whatever else the command has changed. -/
theorem setReady_answered {status : BitVec 7} {detail : Word32} {result : Word64} (h : classStarts s id d cls)
    (hd : ∀ k, u.desc k = s.desc k) (ht : u.tb = s.tb) : answered s (u.setReady id status detail result) id status detail result := by
  have hr := (classStarts_open h).2
  obtain ⟨hs, -, -, hw, -⟩ := h
  rw [setReady_eq, ht]
  refine ⟨⟨d, _, hs, desc_modDesc_same (readied_id _ _ _ _) ((hd id).trans hs), ?_⟩,
    fun k hk => (desc_modDesc_other (readied_id _ _ _ _) hk).trans (hd k)⟩
  rw [readied_inside hr hw]
  exact ⟨rfl, rfl⟩

theorem setReady_onlyAnswered {status : BitVec 7} {detail : Word32} {result : Word64} (h : classStarts s id d cls) :
    onlyAnswered s (s.setReady id status detail result) id status detail result :=
  ⟨rfl, setReady_answered h (fun _ => rfl) rfl⟩

/-- A descriptor's own number is that it is found by. -/
theorem classStarts_id (h : classStarts s id d cls) : d.id = id := desc_id h.1

end

/-- Every row of the table runs its class with its checks. -/
theorem exec_classRows (s : State) {id : Nat} {bs : List Byte} {hf : SourceObs} {img : List Word64} {sf : Option (Nat × BitVec 8)}
    {ws : List Word32} {row : Instr × BitVec 8 × (Desc → Bool) × (Desc → Bool)} (h : row ∈ classRows id bs hf img sf ws) :
    ∃ body, exec row.1 s = s.runClass id row.2.1 row.2.2.1 row.2.2.2 body := by
  unfold classRows at h
  simp only [List.mem_cons, List.not_mem_nil, or_false] at h
  rcases h with rfl | rfl | rfl | rfl | rfl | rfl | rfl | rfl | rfl | rfl | rfl | rfl | rfl | rfl | rfl | rfl | rfl | rfl
  all_goals exact ⟨_, rfl⟩

theorem classRow_invalid {s : State} {id : Nat} {d : Desc} {bs : List Byte} {hf : SourceObs} {img : List Word64} {sf : Option (Nat × BitVec 8)}
    {ws : List Word32} {row : Instr × BitVec 8 × (Desc → Bool) × (Desc → Bool)} (h : row ∈ classRows id bs hf img sf ws)
    (hs : classStarts s id d row.2.1) (hm : row.2.2.1 d = true) (hv : row.2.2.2 d = false) :
    completes row.1 s fun t => onlyAnswered s t id 1 0 0 := by
  obtain ⟨body, hb⟩ := exec_classRows s h
  refine ⟨_, hb.trans (runClass_of hs hm), ?_⟩
  rw [if_pos hv]
  exact setReady_onlyAnswered hs

/-! ### BELL_OP (R288 to R292, R327) -/

section
variable {s u : State} {id : Nat} {d : Desc}

theorem sub_eq {k : Nat} (h : d.sub = k) : (wordAt d.words 2).extractLsb' 0 8 = BitVec.ofNat 8 k :=
  BitVec.eq_of_toNat_eq (by rw [BitVec.toNat_ofNat, ← h]; exact (Nat.mod_eq_of_lt (BitVec.isLt _)).symm)

/-- A bell that a creation has reserved refuses operations with status 2 (R288). -/
theorem bellHeld_of_status {b : BellNo} {src : BellSrc} (h : s.bellStatus b src ≠ 2) (hd : s.bellStatus b src ≠ 4) : s.bellHeld b.val = false := by
  unfold State.bellStatus at h hd
  split at h
  · next hi => exact absurd (if_pos hi) hd
  · split at h
    · exact absurd rfl h
    · next hn =>
      rw [Bool.or_eq_true, not_or] at hn
      exact Bool.eq_false_iff.2 hn.2

theorem bellOp_local {op : BitVec 8} {f : State → State} (hr : d.remote = false) (hs : s.bellStatus d.index (.ring d.ring) = 0)
    (hf : s.fieldStopped (fieldOfBell d.index) = false) :
    s.bellOp op d f = (f s).bellOpEnd d.id 0 (some (s.bell d.index).image) := by
  have hh := bellHeld_of_status (s := s) (b := d.index) (src := .ring d.ring) (by rw [hs]; decide) (by rw [hs]; decide)
  unfold State.bellOp
  dsimp only
  rw [hh, hf, hr, hs]
  rfl

/-- The descriptor of a bell operation other than READ is answered, and the bells stay as the operation left them. -/
theorem bellOpEnd_answers {b : BellNo} {img : Option BellImg} (h : classStarts s id d 6) (h4 : d.sub ≠ 4) (hu : onlyBell b s u) :
    (answered s (u.bellOpEnd id 0 img) id 0 0 0 ∧ (∀ x, x ≠ b → (u.bellOpEnd id 0 img).bell x = s.bell x) ∧
      u.bellOpEnd id 0 img = { s with coll := { s.coll with bells := (u.bellOpEnd id 0 img).coll.bells }, host := { s.host with descs := (u.bellOpEnd id 0 img).host.descs } }) ∧
    (u.bellOpEnd id 0 img).bell b = u.bell b := by
  obtain ⟨hf, ho⟩ := hu
  have hdesc (k : Nat) : u.desc k = s.desc k := by rw [hf]; rfl
  have htb : u.tb = s.tb := by rw [hf]
  have he : u.bellOpEnd id 0 img = u.setReady id 0 0 0 := by
    have h8 : (wordAt d.words 2).extractLsb' 0 8 ≠ 4 := fun e => h4 (congrArg BitVec.toNat e)
    unfold State.bellOpEnd
    rw [hdesc, h.1]
    dsimp only
    rw [if_neg (by decide)]
    cases img with
    | none => rfl
    | some i => exact congrArg (fun v : State => v.setReady id 0 0 0) (if_neg h8)
  rw [he]
  refine ⟨⟨setReady_answered h hdesc htb, ho, ?_⟩, rfl⟩
  have hs : u.setReady id 0 0 0 = { u with host := { u.host with descs := (u.setReady id 0 0 0).host.descs } } := rfl
  have hb : (u.setReady id 0 0 0).coll.bells = u.coll.bells := rfl
  generalize u.setReady id 0 0 0 = t at hs hb ⊢
  rw [hb, hs, hf]

/-- ADD (R285, R327). -/
theorem bellOpAdd_spec (h : classStarts s id d 6) (hv : d.bellValid = true) (hr : d.remote = false)
    (hs : s.bellStatus d.index (.ring d.ring) = 0) (hf : s.fieldStopped (fieldOfBell d.index) = false) (h0 : d.sub = 0)
    (hq : ((s.bell d.index).add (wordAt d.words 4)).fires = false) : completes (.bellOpAdd id) s fun t =>
      (answered s t id 0 0 0 ∧ (∀ x, x ≠ d.index → t.bell x = s.bell x) ∧
        t = { s with coll := { s.coll with bells := t.coll.bells }, host := { s.host with descs := t.host.descs } }) ∧
      t.bell d.index = { (s.bell d.index).add (wordAt d.words 4) with refire := false } := by
  refine ⟨_, runClass_body h (by rw [h0]; rfl) hv, ?_⟩
  dsimp only
  rw [bellOp_local hr hs hf, classStarts_id h, setBell_quiet s hq]
  obtain ⟨h1, h2⟩ := bellOpEnd_answers (img := some (s.bell d.index).image) h (by rw [h0]; decide)
    (onlyBell_trans (onlyBell_setBell s d.index ((s.bell d.index).add (wordAt d.words 4))) (onlyBell_setBell _ d.index { (s.bell d.index).add (wordAt d.words 4) with refire := false }))
  exact ⟨h1, h2.trans (State.bell_setBell_same _ _ _)⟩

/-- SET (R289, R327). -/
theorem bellOpSet_spec (h : classStarts s id d 6) (hv : d.bellValid = true) (hr : d.remote = false)
    (hs : s.bellStatus d.index (.ring d.ring) = 0) (hf : s.fieldStopped (fieldOfBell d.index) = false) (h1 : d.sub = 1)
    (hq : ((s.bell d.index).set d.image8).fires = false) : completes (.bellOpSet id) s fun t =>
      (answered s t id 0 0 0 ∧ (∀ x, x ≠ d.index → t.bell x = s.bell x) ∧
        t = { s with coll := { s.coll with bells := t.coll.bells }, host := { s.host with descs := t.host.descs } }) ∧
      t.bell d.index = { (s.bell d.index).set d.image8 with refire := false } := by
  refine ⟨_, runClass_body h (decide_eq_true h1) hv, ?_⟩
  dsimp only
  rw [bellOp_local hr hs hf, classStarts_id h, setBell_quiet s hq]
  obtain ⟨h1, h2⟩ := bellOpEnd_answers (img := some (s.bell d.index).image) h (by rw [h1]; decide)
    (onlyBell_trans (onlyBell_setBell s d.index ((s.bell d.index).set d.image8)) (onlyBell_setBell _ d.index { (s.bell d.index).set d.image8 with refire := false }))
  exact ⟨h1, h2.trans (State.bell_setBell_same _ _ _)⟩

/-- ARM of a bell below its target (R289, R327). -/
theorem bellOpArm_spec (h : classStarts s id d 6) (hv : d.bellValid = true) (hr : d.remote = false)
    (hs : s.bellStatus d.index (.ring d.ring) = 0) (hf : s.fieldStopped (fieldOfBell d.index) = false) (h2 : d.sub = 2)
    (hq : (s.bell d.index).count < (s.bell d.index).target) : completes (.bellOpArm id) s fun t =>
      (answered s t id 0 0 0 ∧ (∀ x, x ≠ d.index → t.bell x = s.bell x) ∧
        t = { s with coll := { s.coll with bells := t.coll.bells }, host := { s.host with descs := t.host.descs } }) ∧
      t.bell d.index = { s.bell d.index with armed := true, refire := false } := by
  refine ⟨_, runClass_body h (decide_eq_true h2) hv, ?_⟩
  dsimp only
  rw [bellOp_local hr hs hf, classStarts_id h, setBell_quiet s (v := { s.bell d.index with armed := true }) (fires_below hq)]
  obtain ⟨h1, h2⟩ := bellOpEnd_answers (img := some (s.bell d.index).image) h (by rw [h2]; decide)
    (onlyBell_trans (onlyBell_setBell s d.index { s.bell d.index with armed := true }) (onlyBell_setBell _ d.index { s.bell d.index with armed := true, refire := false }))
  exact ⟨h1, h2.trans (State.bell_setBell_same _ _ _)⟩

/-- DISARM (R289, R327). -/
theorem bellOpDisarm_spec (h : classStarts s id d 6) (hv : d.bellValid = true) (hr : d.remote = false)
    (hs : s.bellStatus d.index (.ring d.ring) = 0) (hf : s.fieldStopped (fieldOfBell d.index) = false) (h3 : d.sub = 3) :
    completes (.bellOpDisarm id) s fun t =>
      (answered s t id 0 0 0 ∧ (∀ x, x ≠ d.index → t.bell x = s.bell x) ∧
        t = { s with coll := { s.coll with bells := t.coll.bells }, host := { s.host with descs := t.host.descs } }) ∧
      t.bell d.index = { s.bell d.index with armed := false, refire := false } := by
  refine ⟨_, runClass_body h (decide_eq_true h3) hv, ?_⟩
  dsimp only
  rw [bellOp_local hr hs hf, classStarts_id h]
  obtain ⟨h1, h2⟩ := bellOpEnd_answers (img := some (s.bell d.index).image) h (by rw [h3]; decide)
    (onlyBell_setBell s d.index { s.bell d.index with armed := false, refire := false })
  exact ⟨h1, h2.trans (State.bell_setBell_same _ _ _)⟩

/-- A write to host memory from a ring whose host is not lost (R312, R313). -/
theorem toHost_wrote {r : RingNo} {a : Word64} {bs : List Byte} (hl : s.host.lost = false) :
    wroteHost s (s.toHost r a bs) (.hostWrite (s.ring r).via a bs) ∧
    s.toHost r a bs = { s with host := { s.host with held := (s.toHost r a bs).host.held }, out := (s.toHost r a bs).out } := by
  unfold State.toHost
  rw [hl]
  exact sendHost_wrote s _

/-- READ (R289, R327). -/
theorem bellOpRead_spec (h : classStarts s id d 6) (hv : d.bellValid = true) (hr : d.remote = false)
    (hs : s.bellStatus d.index (.ring d.ring) = 0) (hf : s.fieldStopped (fieldOfBell d.index) = false) (h4 : d.sub = 4)
    (hl : s.host.lost = false) : completes (.bellOpRead id) s fun t => answered s t id 0 0 0 ∧
      t.coll = s.coll ∧ wroteHost s t (.hostWrite (s.ring d.ring).via (dwordAt d.words 6) (imageBytes (s.bell d.index).image)) := by
  refine ⟨_, runClass_body h (decide_eq_true h4) hv, ?_⟩
  dsimp only
  obtain ⟨hw, hfr⟩ := toHost_wrote (r := d.ring) (a := dwordAt d.words 6) (bs := imageBytes (s.bell d.index).image) hl
  have he : s.bellOpEnd id 0 (some (s.bell d.index).image) =
      (s.toHost d.ring (dwordAt d.words 6) (imageBytes (s.bell d.index).image)).setReady id 0 0 0 := by
    unfold State.bellOpEnd
    rw [h.1]
    dsimp only
    rw [if_neg (by decide)]
    exact congrArg (fun v : State => v.setReady id 0 0 0) (if_pos (sub_eq h4))
  rw [bellOp_local hr hs hf, classStarts_id h, he]
  generalize s.toHost d.ring (dwordAt d.words 6) (imageBytes (s.bell d.index).image) = u at hw hfr ⊢
  exact ⟨setReady_answered h (fun k => by rw [hfr]; rfl) (by rw [hfr]), by
    change u.coll = s.coll
    rw [hfr], hw⟩

/-- A bell of another owner (R324). -/
theorem bellOpAdd_denied (h : classStarts s id d 6) (hv : d.bellValid = true) (hr : d.remote = false) (h0 : d.sub = 0)
    (hh : s.bellHeld d.index.val = false) (hf : s.fieldStopped (fieldOfBell d.index) = false)
    (hs : s.bellStatus d.index (.ring d.ring) = 1) : completes (.bellOpAdd id) s fun t => onlyAnswered s t id 3 0 0 := by
  refine ⟨_, runClass_body h (by rw [h0]; rfl) hv, ?_⟩
  dsimp only
  have he : ∀ f, s.bellOp 0 d f = s.done d 3 := fun f => by
    unfold State.bellOp
    dsimp only
    rw [hh, hf, hr, hs]
    rfl
  rw [he, State.done, classStarts_id h]
  exact setReady_onlyAnswered h

/-- The bell operation that a descriptor sends to another device (R292, R327). -/
def State.remoteOp (s : State) (d : Desc) (k : Nat) : BellMsg :=
  { op := BitVec.ofNat 8 k, dev := some ((wordAt d.words 3).extractLsb' 0 12), bell := BitVec.ofNat 13 d.index.val,
    amount := wordAt d.words 4, instant := 0, tag := s.scopeOf d, image := d.image8 }

theorem bellOp_remote {op : BitVec 8} {f : State → State} (k : Nat) (ho : op = BitVec.ofNat 8 k) (hr : d.remote = true) : s.bellOp op d f =
    (s.modDesc d.id fun d => { d with started := true }).sendBell (portRtr (s.ring d.ring).via, false) (.desc d.id) (s.remoteOp d k) := by
  unfold State.bellOp
  rw [hr, Bool.not_true, Bool.and_false, ho]
  rfl

theorem exec_remoteRows (h : classStarts s id d 6) (hv : d.bellValid = true) (hr : d.remote = true) {row : Instr × Nat}
    (hm : row ∈ [(Instr.bellOpAdd id, 0), (.bellOpSet id, 1), (.bellOpArm id, 2), (.bellOpDisarm id, 3), (.bellOpRead id, 4)])
    (hk : d.sub = row.2) : exec row.1 s = .next ((s.modDesc d.id fun d => { d with started := true }).sendBell
      (portRtr (s.ring d.ring).via, false) (.desc d.id) (s.remoteOp d row.2)) := by
  simp only [List.mem_cons, List.not_mem_nil, or_false] at hm
  rcases hm with rfl | rfl | rfl | rfl | rfl
  · exact (runClass_body h (by rw [hk]; rfl) hv).trans (congrArg _ (bellOp_remote 0 rfl hr))
  · exact (runClass_body h (decide_eq_true hk) hv).trans (congrArg _ (bellOp_remote 1 rfl hr))
  · exact (runClass_body h (decide_eq_true hk) hv).trans (congrArg _ (bellOp_remote 2 rfl hr))
  · exact (runClass_body h (decide_eq_true hk) hv).trans (congrArg _ (bellOp_remote 3 rfl hr))
  · exact (runClass_body h (decide_eq_true hk) hv).trans (congrArg _ (bellOp_remote 4 rfl hr))

/-- A bell operation sent after a change of the descriptors. -/
theorem sendBell_afterDescs {src : Fin 64 × Bool} {m : BellMsg} (who : BellFor) (ds : List Desc) (hw : bellHasWay s src.1 m) :
    bellSent s (({ s with host := { s.host with descs := ds } } : State).sendBell src who m) src who m ∧
    ({ s with host := { s.host with descs := ds } } : State).sendBell src who m =
      { s with
        host := { s.host with descs := ds }
        fab := (({ s with host := { s.host with descs := ds } } : State).sendBell src who m).fab
        out := (({ s with host := { s.host with descs := ds } } : State).sendBell src who m).out } := by
  obtain ⟨hb, hfr⟩ := sendBell_sent (s := { s with host := { s.host with descs := ds } }) (m := m) who hw
  exact ⟨bellSent_congr rfl rfl rfl rfl rfl hb, hfr⟩

theorem remoteRow_spec (h : classStarts s id d 6) (hv : d.bellValid = true) (hr : d.remote = true) {row : Instr × Nat}
    (hm : row ∈ [(Instr.bellOpAdd id, 0), (.bellOpSet id, 1), (.bellOpArm id, 2), (.bellOpDisarm id, 3), (.bellOpRead id, 4)])
    (hk : d.sub = row.2) (hw : bellHasWay s (portRtr (s.ring d.ring).via) (s.remoteOp d row.2)) :
    completes row.1 s fun t => bellSent s t (portRtr (s.ring d.ring).via, false) (.desc id) (s.remoteOp d row.2) ∧
      (∃ e, t.desc id = some e ∧ e.started = true ∧ e.ready = none) ∧
      t = { s with host := { s.host with descs := t.host.descs }, fab := t.fab, out := t.out } := by
  refine ⟨_, exec_remoteRows h hv hr hm hk, ?_⟩
  dsimp only
  rw [classStarts_id h]
  have hu : (s.modDesc id fun d => { d with started := true }).desc id = some { d with started := true } :=
    desc_modDesc_same (fun _ => rfl) h.1
  unfold State.modDesc at hu ⊢
  obtain ⟨hb, hfr⟩ := sendBell_afterDescs (.desc id) (s.host.descs.map fun d => if d.id = id then { d with started := true } else d)
    (src := (portRtr (s.ring d.ring).via, false)) hw
  generalize State.sendBell _ (portRtr (s.ring d.ring).via, false) (.desc id) (s.remoteOp d row.2) = t at hb hfr ⊢
  rw [hfr]
  exact ⟨hfr ▸ hb, ⟨_, hu, rfl, (classStarts_open h).2⟩, rfl⟩

end

/-! ### Trees, sets and the system reset (R293, R304, R309, R327) -/

section
variable {s : State} {id : Nat} {d : Desc}

/-- The tree context that a descriptor names. -/
def Desc.treeNo (d : Desc) : Fin 64 := ⟨d.index.val % 64, by omega⟩

theorem treeWritten_is (s : State) : ∃ w f, s.treeWritten = { s with free := f, coll := { s.coll with tree := w } } := ⟨_, _, rfl⟩

theorem treeInstall_spec (h : classStarts s id d 6) (hk : d.sub = 0x10) (hv : d.installValid = true)
    (hl : ∀ l ∈ (d.context (s.scopeOf d)).links, s.linkHeld l = false ∧ (s.link l).owner = s.scopeOf d)
    (hf : (s.tree d.treeNo).foreign (s.scopeOf d) = false) (hd : (d.context (s.scopeOf d)).doneEn = false)
    (ho : s.installOk (d.context (s.scopeOf d)) = true) : completes (.treeInstall id) s fun t => answered s t id 0 0 0 ∧
      t.tree d.treeNo = d.context (s.scopeOf d) ∧ (∀ x, x ≠ d.treeNo → t.tree x = s.tree x) ∧ t.coll.bells = s.coll.bells := by
  have hheld : (d.context (s.scopeOf d)).links.any s.linkHeld = false :=
    List.any_eq_false.2 fun l hm => by rw [(hl l hm).1]; exact Bool.false_ne_true
  have hown : ((d.context (s.scopeOf d)).links.any fun l => decide ((s.link l).owner ≠ s.scopeOf d)) = false :=
    List.any_eq_false.2 fun l hm => by rw [decide_eq_true_eq]; exact fun g => g (hl l hm).2
  have he : exec (.treeInstall id) s = .next (((s.setTree d.treeNo (d.context (s.scopeOf d))).treeWritten).done d 0) := by
    refine (runClass_body h (decide_eq_true hk) hv).trans (congrArg _ ?_)
    dsimp only
    rw [if_neg (by rw [hheld, hd, Bool.false_and]; decide), if_neg, if_neg (by rw [ho]; exact Bool.noConfusion)]
    · rfl
    · rintro (g | g | g)
      · exact Bool.noConfusion (hf.symm.trans g)
      · exact Bool.noConfusion (hown.symm.trans g)
      · rw [hd] at g
        exact Bool.noConfusion g
  refine ⟨_, he, ?_⟩
  rw [State.done, classStarts_id h]
  generalize d.context (s.scopeOf d) = c
  obtain ⟨w, f, hw⟩ := treeWritten_is (s.setTree d.treeNo c)
  rw [hw]
  exact ⟨setReady_answered h (fun _ => rfl) rfl, State.tree_setTree_same s _ _, fun x hx => State.tree_setTree_other s _ hx, rfl⟩

theorem treeRemove_spec (h : classStarts s id d 6) (hk : d.sub = 0x11) (hv : d.bellValid = true) (hi : d.index.val < 64)
    (hf : (s.tree d.treeNo).foreign (s.scopeOf d) = false) : completes (.treeRemove id) s fun t => answered s t id 0 0 0 ∧
      t.tree d.treeNo = {} ∧ ∀ x, x ≠ d.treeNo → t.tree x = s.tree x := by
  have he : exec (.treeRemove id) s = .next ((s.setTree d.treeNo {}).done d 0) :=
    (runClass_body h (decide_eq_true hk) (by rw [hv, decide_eq_true hi]; rfl)).trans
      (congrArg _ (if_neg fun g => Bool.noConfusion (hf.symm.trans g)))
  refine ⟨_, he, ?_⟩
  rw [State.done, classStarts_id h]
  exact ⟨setReady_answered h (fun _ => rfl) rfl, State.tree_setTree_same s _ _, fun x hx => State.tree_setTree_other s _ hx⟩

theorem msetWrite_spec {ws : List Word32} {m : MSet} (h : classStarts s id d 6) (hk : d.sub = 0x12) (hv : d.bellValid = true)
    (hi : d.index.val < 63) (hd : (s.mset d.index.val).dests = []) (hl : s.host.lost = false) (hw : ws.length = 32)
    (hm : msetOf ws (s.scopeOf d) = some m) : completes (.msetWrite id ws) s fun t => answered s t id 0 0 0 ∧
      t.mset d.index.val = m ∧ ∀ x, x ≠ d.index.val → t.mset x = s.mset x := by
  have he : exec (.msetWrite id ws) s = .next ((s.setMset d.index.val m).done d 0) := by
    refine (runClass_body h (decide_eq_true hk) (by rw [hv, decide_eq_true (Nat.lt_succ_of_lt hi)]; rfl)).trans (congrArg _ ?_)
    dsimp only
    rw [hd, hl, hw, hm, decide_eq_false (Nat.ne_of_lt hi), Bool.and_false, List.isEmpty_nil, Bool.not_true, Bool.false_and, if_neg (by decide), if_neg (by decide)]
  refine ⟨_, he, ?_⟩
  rw [State.done, classStarts_id h]
  exact ⟨setReady_answered h (fun _ => rfl) rfl, tget_tset_same _ s.coll.msets _ _, fun x hx => tget_tset_other _ s.coll.msets _ hx⟩

theorem systemReset_spec (h : classStarts s id d 6) (hk : d.sub = 0x20) (hv : d.bellValid = true) (ho : s.scopeOf d = none) :
    completes (.systemReset id) s fun t => answered s t id 0 0 s.resetInstant ∧ t.coll.resetT0 = some s.resetInstant ∧
      t.out = s.out ++ ((s.mset 63).dests.filter fun x => x.remote).map fun x => .resetAt x.dev s.resetInstant s.id.dev := by
  refine ⟨_, runClass_body h (decide_eq_true hk) hv, ?_⟩
  dsimp only
  rw [if_neg (by rw [ho]; exact Bool.noConfusion), classStarts_id h]
  exact ⟨setReady_answered h (fun _ => rfl) rfl, rfl, rfl⟩

end

/-! ### QUERY (R328, R423) -/

section
variable {s : State} {id : Nat} {d : Desc}

/-- A report that fits is written to the host and answered OK, and nothing else changes. -/
theorem writeReport_spec {bs : List Byte} (h : classStarts s id d 7) (hl : s.host.lost = false) (hq : bs.length ≤ d.qLen) :
    answered s (s.writeReport d bs) id 0 0 0 ∧
      wroteHost s (s.writeReport d bs) (.hostWrite (s.ring d.ring).via (dwordAt d.words 4) bs) ∧
      s.writeReport d bs = { s with host := { s.host with descs := (s.writeReport d bs).host.descs, held := (s.writeReport d bs).host.held }, out := (s.writeReport d bs).out } := by
  have he : s.writeReport d bs = (s.toHost d.ring (dwordAt d.words 4) bs).setReady id 0 0 0 := by
    unfold State.writeReport
    rw [if_neg (Nat.not_lt.2 hq), if_neg (by rw [hl]; exact Bool.noConfusion), State.done, classStarts_id h]
  obtain ⟨hw, hf⟩ := toHost_wrote (r := d.ring) (a := dwordAt d.words 4) (bs := bs) hl
  rw [he]
  generalize s.toHost d.ring (dwordAt d.words 4) bs = u at hw hf ⊢
  refine ⟨setReady_answered h (fun k => by rw [hf]; rfl) (by rw [hf]), hw, ?_⟩
  have hs : u.setReady id 0 0 0 = { u with host := { u.host with descs := (u.setReady id 0 0 0).host.descs } } := rfl
  generalize u.setReady id 0 0 0 = t at hs ⊢
  rw [hs, hf]

theorem queryDevice_spec (h : classStarts s id d 7) (hv : d.queryValid = true) (hk : d.sub = 0) :
    exec (.queryDevice id) s = .next (s.writeReport d s.deviceReport) :=
  runClass_body h (by rw [hk]; rfl) hv

theorem coreMap_length (s : State) : ((List.finRange 32).flatMap s.coreMapEntry).length = 64 := by
  have hlen (lc : LCoreNo) : (s.coreMapEntry lc).length = 2 := rfl
  rw [List.length_flatMap]
  simp only [hlen]
  rfl

theorem queryHamlet_own {k : HamletNo} (h : classStarts s id d 7) (hv : d.queryValid = true) (hk : d.sub = 2) (ho : s.scopeOf d = some k)
    (hw : (wordAt d.words 2).extractLsb' 8 3 = BitVec.ofNat 3 k.val) :
    exec (.queryHamlet id) s = .next (s.writeReport d (s.hamletReport k)) := by
  have hn : (⟨((wordAt d.words 2).extractLsb' 8 3).toNat, ((wordAt d.words 2).extractLsb' 8 3).isLt⟩ : HamletNo) = k := by
    refine Fin.ext ?_
    change ((wordAt d.words 2).extractLsb' 8 3).toNat = k.val
    rw [hw, BitVec.toNat_ofNat]
    exact Nat.mod_eq_of_lt k.isLt
  refine (runClass_body h (decide_eq_true hk) hv).trans (congrArg _ ?_)
  dsimp only
  rw [hn, ho]
  exact if_pos rfl

/-- The records that a QUERY answers, and where its scope reads on (R423). -/
def State.recordsFor (s : State) (d : Desc) : List FaultRec := (s.unreadBy (s.scopeOf d)).take (d.qLen / 328)

def State.readOn (s : State) (d : Desc) (l : List FaultRec) : Word64 :=
  match l.getLast? with
  | some r => r.id + 1
  | none => tget (fun _ => 0) s.flt.readPos (scopeKey (s.scopeOf d))

def State.readTo (s u : State) (d : Desc) (l : List FaultRec) : State :=
  { u with flt := { u.flt with readPos := tset (fun _ => 0) u.flt.readPos (scopeKey (s.scopeOf d)) (s.readOn d l) } }

theorem queryFaultRecords_of (h : classStarts s id d 7) (hv : d.queryValid = true) (hk : d.sub = 4) (hq : 328 ≤ d.qLen)
    (hl : s.host.lost = false) {u : State} (hu : u = if (s.recordsFor d).isEmpty then s
      else s.toHost d.ring (dwordAt d.words 4) ((s.recordsFor d).flatMap fun r => r.bytes s.fuses.platform)) (hf : u.flt = s.flt) :
    exec (.queryFaultRecords id) s = .next ((s.readTo u d (s.recordsFor d)).setReady id 0 0 (BitVec.ofNat 64 (s.recordsFor d).length)) := by
  refine (runClass_body h (decide_eq_true hk) hv).trans (congrArg _ ?_)
  dsimp only
  rw [if_neg (Nat.not_lt.2 hq), if_neg (by rw [hl]; exact Bool.noConfusion), classStarts_id h]
  change State.setReady { (if (s.recordsFor d).isEmpty = true then s else _) with flt := _ } _ _ _ _ = _
  unfold State.readTo State.readOn
  rw [← hf, hu]
  rfl

theorem queryFaultRecords_spec (h : classStarts s id d 7) (hv : d.queryValid = true) (hk : d.sub = 4) (hq : 328 ≤ d.qLen)
    (hl : s.host.lost = false) : completes (.queryFaultRecords id) s fun t =>
      answered s t id 0 0 (BitVec.ofNat 64 (s.recordsFor d).length) ∧ t.flt.buf = s.flt.buf ∧
      (∀ r, (s.recordsFor d).getLast? = some r → tget (fun _ => 0) t.flt.readPos (scopeKey (s.scopeOf d)) = r.id + 1) ∧
      (s.recordsFor d ≠ [] → wroteHost s t (.hostWrite (s.ring d.ring).via (dwordAt d.words 4) ((s.recordsFor d).flatMap fun r => r.bytes s.fuses.platform))) := by
  obtain ⟨u, hu⟩ : ∃ u, u = if (s.recordsFor d).isEmpty then s
      else s.toHost d.ring (dwordAt d.words 4) ((s.recordsFor d).flatMap fun r => r.bytes s.fuses.platform) := ⟨_, rfl⟩
  obtain ⟨hw, hfr⟩ := toHost_wrote (r := d.ring) (a := dwordAt d.words 4) (bs := (s.recordsFor d).flatMap fun r => r.bytes s.fuses.platform) hl
  have hsame : u = { s with host := { s.host with held := u.host.held }, out := u.out } := by
    rw [hu]
    split
    · rfl
    · exact hfr
  have hflt : u.flt = s.flt := by rw [hsame]
  refine ⟨_, queryFaultRecords_of h hv hk hq hl hu hflt, setReady_answered h (fun k => ?_) ?_, ?_, fun r hr => ?_, fun hne => ?_⟩
  · change u.desc k = _
    rw [hsame]
    rfl
  · change u.tb = _
    rw [hsame]
  · change u.flt.buf = _
    rw [hflt]
  · refine (tget_tset_same (fun _ => 0) u.flt.readPos _ _).trans ?_
    unfold State.readOn
    rw [hr]
  · rw [← hu.trans (if_neg fun g => hne (List.isEmpty_iff.1 g))] at hw
    exact hw

end

/-! ### ABORT and deadlines (R327, R330) -/

/-- A descriptor that differs only in the cores that its LAUNCH waits for and the slip they report. -/
def onlyCores (d e : Desc) : Prop := e = { d with left := e.left, slipMax := e.slipMax }

theorem onlyCores_trans {d e f : Desc} (h : onlyCores d e) (k : onlyCores e f) : onlyCores d f := by
  unfold onlyCores at h k ⊢
  rw [k, h]

/-- The descriptors are as before but for the cores of LAUNCHes, and the time is the same. -/
def launchesLeft (s t : State) : Prop :=
  t.tb = s.tb ∧ ∀ k d, s.desc k = some d → ∃ e, t.desc k = some e ∧ onlyCores d e

theorem launchesLeft_refl (s : State) : launchesLeft s s := ⟨rfl, fun _ d h => ⟨d, h, rfl⟩⟩

theorem launchesLeft_trans {s t u : State} (h : launchesLeft s t) (k : launchesLeft t u) : launchesLeft s u := by
  refine ⟨k.1.trans h.1, fun n d hd => ?_⟩
  obtain ⟨e, he, h1⟩ := h.2 n d hd
  obtain ⟨f, hf, h2⟩ := k.2 n e he
  exact ⟨f, hf, onlyCores_trans h1 h2⟩

theorem launchesLeft_leave (s : State) (n : SiteNo) : launchesLeft s (s.leaveLaunch n) := by
  unfold State.leaveLaunch
  dsimp only
  split
  · next l lc _ _ =>
    refine ⟨rfl, fun k d hd => ?_⟩
    by_cases hk : k = l.desc
    · subst hk
      exact ⟨_, desc_modDesc_same (fun _ => rfl) hd, rfl⟩
    · refine ⟨d, Eq.trans ?_ hd, rfl⟩
      change (s.modDesc l.desc _).desc k = _
      exact desc_modDesc_other (fun _ => rfl) hk
  · exact launchesLeft_refl s

theorem launchesLeft_reset (s : State) (n : SiteNo) (k x : Bool) : launchesLeft s (s.coreReset n k x) := by
  have h := (coreReset_frame s n k x).1
  refine ⟨by rw [h], fun j d hd => ⟨d, ?_, rfl⟩⟩
  rw [h]
  exact hd

theorem launchesLeft_fold {α : Type} {f : State → α → State} (h : ∀ s a, launchesLeft s (f s a)) (l : List α) (s : State) :
    launchesLeft s (l.foldl f s) := by
  induction l generalizing s with
  | nil => exact launchesLeft_refl s
  | cons a l ih => exact launchesLeft_trans (h s a) (ih (f s a))

section
variable {s : State} {id : Nat} {status : BitVec 7} {detail : Word32}

/-- The cores of a LAUNCH leave it and are reset. -/
def State.launchStopped (s : State) (id : Nat) : State :=
  ((s.launchSites id).foldl State.leaveLaunch s).coreResets (s.launchSites id) false

theorem launchStopped_left (s : State) (id : Nat) : launchesLeft s (s.launchStopped id) :=
  launchesLeft_trans (launchesLeft_fold launchesLeft_leave (s.launchSites id) s)
    (launchesLeft_fold (fun v n => launchesLeft_reset v n false false) (s.launchSites id) _)

/-- The end of a LAUNCH makes its completion ready, and no other (R136, R419). -/
theorem endLaunch_spec (s : State) (id : Nat) (status : BitVec 7) (detail : Word32) : (s.endLaunch id status detail).tb = s.tb ∧
    (∀ k d, k ≠ id → s.desc k = some d → ∃ e, (s.endLaunch id status detail).desc k = some e ∧ onlyCores d e) ∧
    ∀ d, s.desc id = some d → d.ready = none → windowOver d.fetched d.deadline s.tb = false →
      ∃ e c, (s.endLaunch id status detail).desc id = some e ∧ e.ready = some c ∧ c.status = status ∧ c.detail = detail := by
  obtain ⟨ht, hd⟩ := launchStopped_left s id
  have he : s.endLaunch id status detail = match (s.launchStopped id).desc id with
    | some d => (s.launchStopped id).setReady id status detail d.launchResult
    | none => s.launchStopped id := rfl
  rw [he]
  generalize s.launchStopped id = u at ht hd ⊢
  cases hu : u.desc id with
  | none =>
    refine ⟨ht, fun k d _ hk => hd k d hk, fun d hs => ?_⟩
    obtain ⟨e, h1, -⟩ := hd id d hs
    exact nomatch hu.symm.trans h1
  | some v =>
    refine ⟨ht, fun k d hne hk => ?_, fun d hs hr hw => ?_⟩
    · obtain ⟨e, h1, h2⟩ := hd k d hk
      exact ⟨e, (desc_modDesc_other (readied_id _ _ _ _) hne).trans h1, h2⟩
    · obtain ⟨e, h1, h2⟩ := hd id d hs
      obtain rfl : v = e := Option.some.inj (hu.symm.trans h1)
      change ∃ e c, (u.modDesc id (Desc.readied u.tb status detail v.launchResult)).desc id = some e ∧ _
      refine ⟨_, { status := status, detail := detail, result := v.launchResult, time := u.tb },
        desc_modDesc_same (readied_id _ _ _ _) hu, ?_, rfl, rfl⟩
      rw [h2, readied_inside (d := { d with left := v.left, slipMax := v.slipMax }) hr (ht ▸ hw)]

/-- LAUNCHes with numbers of their own, all outstanding, end with the same status. -/
theorem endLaunches_spec (status : BitVec 7) (detail : Word32) (l : List Desc) (s : State) (hn : (l.map (·.id)).Nodup)
    (ho : ∀ e ∈ l, ∃ v, s.desc e.id = some v ∧ v.ready = none ∧ windowOver v.fetched v.deadline s.tb = false) :
    (l.foldl (fun s e => s.endLaunch e.id status detail) s).tb = s.tb ∧
    (∀ k d, k ∉ l.map (·.id) → s.desc k = some d → ∃ e, (l.foldl (fun s e => s.endLaunch e.id status detail) s).desc k = some e ∧ onlyCores d e) ∧
    ∀ e ∈ l, ∃ r c, (l.foldl (fun s e => s.endLaunch e.id status detail) s).desc e.id = some r ∧ r.ready = some c ∧ c.status = status ∧ c.detail = detail := by
  induction l generalizing s with
  | nil => exact ⟨rfl, fun k d _ hd => ⟨d, hd, rfl⟩, fun e he => nomatch he⟩
  | cons a l ih =>
    obtain ⟨ht, hk, hself⟩ := endLaunch_spec s a.id status detail
    rw [List.map_cons, List.nodup_cons] at hn
    obtain ⟨hni, hnl⟩ := hn
    rw [List.foldl_cons]
    generalize s.endLaunch a.id status detail = u at ht hk hself ⊢
    have hne : ∀ e ∈ l, e.id ≠ a.id := fun e he g => hni (g ▸ List.mem_map_of_mem he)
    obtain ⟨h1, h2, h3⟩ := ih u hnl fun e he => by
      obtain ⟨v, hv, hr, hw⟩ := ho e (List.mem_cons_of_mem _ he)
      obtain ⟨v', hv', hc⟩ := hk e.id v (hne e he) hv
      refine ⟨v', hv', ?_, ?_⟩
      · rw [hc]
        exact hr
      · rw [hc, ht]
        exact hw
    refine ⟨h1.trans ht, fun k d hnk hd => ?_, fun e he => ?_⟩
    · rw [List.map_cons, List.mem_cons, not_or] at hnk
      obtain ⟨e, he, hc⟩ := hk k d hnk.1 hd
      obtain ⟨f, hf, hc'⟩ := h2 k e hnk.2 he
      exact ⟨f, hf, onlyCores_trans hc hc'⟩
    · rcases List.mem_cons.1 he with rfl | he
      · obtain ⟨v, hv, hr, hw⟩ := ho e List.mem_cons_self
        obtain ⟨r, c, hd, hc, hs⟩ := hself v hv hr hw
        obtain ⟨f, hf, hx⟩ := h2 e.id r hni hd
        refine ⟨f, c, hf, ?_, hs⟩
        rw [hx]
        exact hc
      · exact h3 e he

end

section
variable {s : State} {id : Nat} {d : Desc}

/-- The LAUNCHes of a job that an ABORT ends (R327). -/
def State.aborts (s : State) (d : Desc) : List Desc :=
  (s.launchesFor d).filter fun e => decide (e.job = wordAt d.words 2) && decide (s.scopeOf e = s.scopeOf d)

/-- The state after those LAUNCHes have ended, the scope's tally and the job's recovery with them. -/
def State.aborted (s : State) (d : Desc) : State :=
  if (s.aborts d).isEmpty then (s.aborts d).foldl (fun s e => s.endLaunch e.id 9 0) s
  else (((s.aborts d).foldl (fun s e => s.endLaunch e.id 9 0) s).stopTally (s.scopeOf d)).dropRecov (s.scopeOf d) (wordAt d.words 2)

theorem abort_of (h : classStarts s id d 0xD) (hv : d.fits (wholeWords [2]) = true) :
    exec (.abort id) s = .next ((s.aborted d).setReady id 0 0 (BitVec.ofNat 64 (s.aborts d).length)) := by
  refine (runClass_body h rfl hv).trans (congrArg _ ?_)
  rw [classStarts_id h]
  rfl

theorem abort_nothing (h : classStarts s id d 0xD) (hv : d.fits (wholeWords [2]) = true)
    (hn : ∀ e ∈ s.launchesFor d, e.job ≠ wordAt d.words 2 ∨ s.scopeOf e ≠ s.scopeOf d) :
    completes (.abort id) s fun t => onlyAnswered s t id 0 0 0 := by
  have hl : s.aborts d = [] := List.filter_eq_nil_iff.2 fun e he g => by
    rw [Bool.and_eq_true, decide_eq_true_eq, decide_eq_true_eq] at g
    exact (hn e he).elim (fun k => k g.1) fun k => k g.2
  have hs : s.aborted d = s := by
    unfold State.aborted
    rw [hl]
    rfl
  refine ⟨_, abort_of h hv, ?_⟩
  rw [hs, hl]
  exact setReady_onlyAnswered h

theorem desc_of_mem (hn : (s.host.descs.map (·.id)).Nodup) {e : Desc} (he : e ∈ s.host.descs) : s.desc e.id = some e := by
  have hs : (s.desc e.id).isSome = true := List.find?_isSome.2 ⟨e, he, decide_eq_true rfl⟩
  obtain ⟨v, hv⟩ := Option.isSome_iff_exists.1 hs
  rw [hv, List.inj_on_of_nodup_map hn (List.mem_of_find?_eq_some hv) he (desc_id hv)]

theorem abort_spec (h : classStarts s id d 0xD) (hv : d.fits (wholeWords [2]) = true) (hn : (s.host.descs.map (·.id)).Nodup)
    (hw : ∀ e ∈ s.aborts d, windowOver e.fetched e.deadline s.tb = false) : completes (.abort id) s fun t =>
      (∃ r, t.desc id = some r ∧ r.ready = some { status := 0, detail := 0, result := BitVec.ofNat 64 (s.aborts d).length, time := s.tb }) ∧
      ∀ e ∈ s.aborts d, ∃ r c, t.desc e.id = some r ∧ r.ready = some c ∧ c.status = 9 ∧ c.detail = 0 := by
  have hsub : (s.aborts d).Sublist s.host.descs := List.filter_sublist.trans List.filter_sublist
  have hopen : ∀ e ∈ s.aborts d, e.ready = none ∧ e.id ≠ id := fun e he => by
    have hm := (List.mem_filter.1 (List.mem_filter.1 he).1).2
    rw [Bool.and_eq_true, Bool.and_eq_true] at hm
    obtain ⟨⟨-, hr⟩, ho⟩ := hm
    refine ⟨Option.isNone_iff_eq_none.1 hr, fun g => ?_⟩
    have hed : e = d := Option.some.inj ((desc_of_mem hn (hsub.subset he)).symm.trans (g ▸ h.1))
    rw [hed, decide_eq_false fun k => k rfl, decide_eq_false (Nat.lt_irrefl _)] at ho
    exact Bool.noConfusion ho
  obtain ⟨h1, h2, h3⟩ := endLaunches_spec 9 0 (s.aborts d) s ((hsub.map _).nodup hn) fun e he =>
    ⟨e, desc_of_mem hn (hsub.subset he), (hopen e he).1, hw e he⟩
  have hd : ∀ k, (s.aborted d).desc k = ((s.aborts d).foldl (fun s e => s.endLaunch e.id 9 0) s).desc k := fun k => by
    unfold State.aborted
    split <;> rfl
  have ht : (s.aborted d).tb = s.tb := by
    rw [← h1]
    unfold State.aborted
    split <;> rfl
  refine ⟨_, abort_of h hv, ?_⟩
  generalize s.aborted d = u at hd ht ⊢
  rw [setReady_eq, ht]
  constructor
  · obtain ⟨e, he, hc⟩ := h2 id d (fun g => by
      obtain ⟨e, he, hid⟩ := List.mem_map.1 g
      exact (hopen e he).2 hid) h.1
    refine ⟨_, desc_modDesc_same (readied_id _ _ _ _) ((hd id).trans he), ?_⟩
    rw [hc, readied_inside (d := { d with left := e.left, slipMax := e.slipMax }) (classStarts_open h).2 h.2.2.2.1]
  · intro e he
    obtain ⟨r, c, hr, hc⟩ := h3 e he
    exact ⟨r, c, (desc_modDesc_other (readied_id _ _ _ _) (hopen e he).2).trans ((hd _).trans hr), hc⟩

end

section
variable {s : State} {id : Nat} {d : Desc} {tm : Word64} {work : Bool}

theorem desc_at (s : State) (tm : Word64) (k : Nat) : (s.at tm).desc k = s.desc k := by
  unfold State.desc
  rw [host_at]

theorem deadlineExpiry_late (hd : s.desc id = some d) (hr : d.ready = none) (hw : windowOver d.fetched d.deadline (s.at tm).tb = true)
    (hc : d.cls ≠ 2) : completes (.deadlineExpiry id tm work) s fun t => onlyAnswered (s.at tm) t id 5 (bitAt work 31) 0 := by
  have hd' := (desc_at s tm id).trans hd
  have he : exec (.deadlineExpiry id tm work) s = .next ((s.at tm).deadlineReady d work) := by
    change execDeadlineExpiry id tm work s = _
    unfold execDeadlineExpiry
    dsimp only
    rw [hd']
    dsimp only
    rw [if_neg (by rw [hr, hw]; decide), if_neg hc]
  refine ⟨_, he, rfl, ?_⟩
  unfold State.deadlineReady
  rw [desc_id hd]
  refine ⟨⟨d, _, hd', desc_modDesc_same (fun _ => rfl) hd', rfl, ?_⟩, fun k hk => desc_modDesc_other (fun _ => rfl) hk⟩
  dsimp only
  rw [if_neg hc]

theorem deadlineExpiry_early (hd : s.desc id = some d) (hw : windowOver d.fetched d.deadline (s.at tm).tb = false) :
    exec (.deadlineExpiry id tm work) s = .next (s.at tm) := by
  change execDeadlineExpiry id tm work s = _
  unfold execDeadlineExpiry
  dsimp only
  rw [desc_at, hd]
  exact if_pos (Or.inr hw)

end

/-- Settles O46: a command class runs its checks first; each operation then changes its own part and makes its completion ready. -/
theorem classesThatOperateAndReport : Obligations.ClassesThatOperateAndReport := by
  unfold Obligations.ClassesThatOperateAndReport
  refine ⟨fun s id d bs hf img sf ws row hrow hs hm hv => classRow_invalid hrow hs hm hv, ?bells, ?denied, ?remote, ?trees, ?queries,
    fun s id d h hv hn => abort_nothing h hv hn, fun s id d h hv hn hw => abort_spec h hv hn hw,
    fun s id tm work d hd hr => ⟨fun hw hc => deadlineExpiry_late hd hr hw hc, fun hw => ⟨_, deadlineExpiry_early hd hw, rfl⟩⟩⟩
  case bells =>
    exact fun s id d h hv hr hs hf => ⟨bellOpAdd_spec h hv hr hs hf, bellOpSet_spec h hv hr hs hf, bellOpArm_spec h hv hr hs hf,
      bellOpDisarm_spec h hv hr hs hf, bellOpRead_spec h hv hr hs hf⟩
  case denied => exact fun s id d h hv hr h0 hh hf hs => bellOpAdd_denied h hv hr h0 hh hf hs
  case remote => exact fun s id d row h hv hr hm hk hw => remoteRow_spec h hv hr hm hk hw
  case trees =>
    exact fun s id d h => ⟨treeInstall_spec h, treeRemove_spec h, fun ws m hk hv hi hd hl hw hm => msetWrite_spec h hk hv hi hd hl hw hm, systemReset_spec h⟩
  case queries =>
    intro s id d h hv hl
    refine ⟨fun hk hq => ⟨_, queryDevice_spec h hv hk, writeReport_spec h hl hq⟩,
      fun hk hq => ⟨_, runClass_body h (decide_eq_true hk) hv, writeReport_spec h hl ((coreMap_length s).le.trans hq)⟩,
      fun k hk ho hw hq => ⟨_, queryHamlet_own h hv hk ho hw, writeReport_spec h hl hq⟩,
      fun hk hq => ⟨_, runClass_body h (decide_eq_true hk) hv, writeReport_spec h hl hq⟩,
      fun hk hq => queryFaultRecords_spec h hv hk hq hl⟩

end Sys2Proof.Machine
end

section
/-!
PROOF. Command classes that move data (11_host_interface.md, 08_memory.md): LOAD_WEIGHTS, LAUNCH, COPY, TALLY, FENCE, ROLE_SET and PAGE_SET; O45.
-/

namespace Sys2Proof.Machine

/-! ### LOAD_WEIGHTS (R235, R325) -/

section
variable {s : State} {id : Nat} {d : Desc} {n : SiteNo}

theorem modPages_frame (s : State) (p k : Nat) (f : Page → Page) :
    s.modPages p k f = { s with mem := { s.mem with pages := (s.modPages p k f).mem.pages } } := by
  obtain ⟨P, h⟩ : ∃ P, s.modPages p k f = { s with mem := { s.mem with pages := P } } := by
    unfold State.modPages
    refine foldl_inv (fun v : State => ∃ P, v = { s with mem := { s.mem with pages := P } })
      (fun (v : State) i => v.modPage (p + i) f) ?_ (List.range k) s ⟨_, rfl⟩
    rintro _ i ⟨P, rfl⟩
    exact ⟨_, rfl⟩
  rw [h]

/-- Outside the sites and the memory all is as before, and of the sites only n may differ. -/
def siteAndMem (n : SiteNo) (s t : State) : Prop := t = { s with sites := t.sites, mem := t.mem } ∧ ∀ m, m ≠ n → t.site m = s.site m

theorem siteAndMem_refl (s : State) (n : SiteNo) : siteAndMem n s s := ⟨rfl, fun _ _ => rfl⟩

theorem siteAndMem_trans {t u : State} (h : siteAndMem n s t) (k : siteAndMem n t u) : siteAndMem n s u := by
  refine ⟨?_, fun m hm => (k.2 m hm).trans (h.2 m hm)⟩
  rw [k.1, h.1]

theorem siteAndMem_modSite (s : State) (n : SiteNo) (f : Site → Site) : siteAndMem n s (s.modSite n f) :=
  ⟨rfl, fun _ hm => State.site_modSite_other s f hm⟩

theorem siteAndMem_modPages (s : State) (n : SiteNo) (p k : Nat) (f : Page → Page) : siteAndMem n s (s.modPages p k f) := by
  have h := modPages_frame s p k f
  generalize s.modPages p k f = t at h
  exact ⟨by rw [h], fun m _ => by rw [h]; rfl⟩

theorem siteAndMem_ddrWrite (s : State) (n : SiteNo) (a : Nat) (bs : List Byte) : siteAndMem n s (s.ddrWrite a bs) := ⟨rfl, fun _ _ => rfl⟩

theorem ddrWrite_site (s : State) (n : SiteNo) (a : Nat) (bs : List Byte) : (s.ddrWrite a bs).site n = s.site n := rfl

/-- The mirror range that LOAD_WEIGHTS adopts is the core's (R119, R235). -/
theorem adoptMirror_spec (s : State) (n : SiteNo) (first pages : Nat) : siteAndMem n s (s.adoptMirror n first pages) ∧
    (s.adoptMirror n first pages).site n = { s.site n with mirror := mirrorWord first pages, mirrorDegraded := false, mirrorGone := 0 } := by
  unfold State.adoptMirror
  dsimp only
  have hold : siteAndMem n s (if mirrorValid (s.site n).mirror then s.modPages (mirrorFirst (s.site n).mirror) (mirrorPages (s.site n).mirror)
      fun p => if p.kind = 2 then { p with kind := 0 } else p else s) ∧
      (if mirrorValid (s.site n).mirror then s.modPages (mirrorFirst (s.site n).mirror) (mirrorPages (s.site n).mirror)
      fun p => if p.kind = 2 then { p with kind := 0 } else p else s).site n = s.site n := by
    split
    · refine ⟨siteAndMem_modPages s n _ _ _, ?_⟩
      rw [modPages_frame]
      rfl
    · exact ⟨siteAndMem_refl s n, rfl⟩
  generalize (if mirrorValid (s.site n).mirror then _ else s : State) = u at hold ⊢
  obtain ⟨h1, h2⟩ := hold
  refine ⟨siteAndMem_trans h1 (siteAndMem_trans (siteAndMem_modPages u n first pages _) (siteAndMem_modSite _ n _)), ?_⟩
  rw [State.site_modSite_same]
  have h3 : (u.modPages first pages fun p => { p with kind := 2, remR := false, remW := false }).site n = u.site n := by
    rw [modPages_frame]
    rfl
  rw [h3, h2]

/-- The part of a granary write that lies in one page of the mirror (R251). -/
def State.mirrorPut (base a : Nat) (bs : List Byte) (s : State) (p : Nat) : State :=
  if (s.page p).valid then
    s.ddrWrite (max (p * 8388608) (base + a))
      ((bs.drop (max (p * 8388608) (base + a) - (base + a))).take (min ((p + 1) * 8388608) (base + a + bs.length) - max (p * 8388608) (base + a)))
  else s

theorem granPut_eq (s : State) (n : SiteNo) (a : Nat) (bs : List Byte) : s.granPut n a bs =
    if mirrorValid (s.site n).mirror = false then s.modSite n fun c => c.granWrite a bs
    else (pagesOf (mirrorFirst (s.site n).mirror * 8388608 + a) bs.length).foldl
      (State.mirrorPut (mirrorFirst (s.site n).mirror * 8388608) a bs) (s.modSite n fun c => c.granWrite a bs) := rfl

theorem mirrorPut_spec (base a : Nat) (bs : List Byte) (s : State) (n : SiteNo) (p : Nat) :
    siteAndMem n s (s.mirrorPut base a bs p) ∧ (s.mirrorPut base a bs p).site n = s.site n := by
  unfold State.mirrorPut
  split
  · exact ⟨siteAndMem_ddrWrite s n _ _, ddrWrite_site s n _ _⟩
  · exact ⟨siteAndMem_refl s n, rfl⟩

/-- A granary write stores its bytes, and mirrors them outside the sites (R85, R251). -/
theorem granPut_spec (s : State) (n : SiteNo) (a : Nat) (bs : List Byte) : siteAndMem n s (s.granPut n a bs) ∧
    (s.granPut n a bs).site n = (s.site n).granWrite a bs := by
  have h := siteAndMem_modSite s n fun c => c.granWrite a bs
  have h' : (s.modSite n fun c => c.granWrite a bs).site n = (s.site n).granWrite a bs := State.site_modSite_same s n _
  rw [granPut_eq]
  generalize mirrorFirst (s.site n).mirror * 8388608 = base
  split
  · exact ⟨h, h'⟩
  · refine foldl_inv (fun v : State => siteAndMem n s v ∧ v.site n = (s.site n).granWrite a bs) (State.mirrorPut base a bs)
      (fun v p hv => ?_) _ _ ⟨h, h'⟩
    obtain ⟨h1, h2⟩ := mirrorPut_spec base a bs v n p
    exact ⟨siteAndMem_trans hv.1 h1, h2.trans hv.2⟩

/-- The bytes of a LOAD_WEIGHTS from GDDR7 stand in the granary of its core, and its mirror is the range it names. -/
theorem lwWrite_spec (s : State) (n : SiteNo) (h2 : d.lwSrc = 2) : siteAndMem n s (s.lwWrite d n []) ∧
    (s.lwWrite d n []).site n =
      (if d.lwPages ≠ 0 then { s.site n with mirror := mirrorWord d.lwFirst d.lwPages, mirrorDegraded := false, mirrorGone := 0 } else s.site n).granWrite
        d.lwOff (s.ddrRead (dwordAt d.words 6).toNat d.lwLen) := by
  unfold State.lwWrite
  dsimp only
  have h1 : ¬ d.lwSrc = 1 := by rw [h2]; decide
  have h0 : ¬ d.lwSrc = 0 := by rw [h2]; decide
  simp only [if_neg h1, if_neg h0]
  obtain ⟨ha, hs⟩ := adoptMirror_spec s n d.lwFirst d.lwPages
  split
  · generalize s.adoptMirror n d.lwFirst d.lwPages = u at ha hs ⊢
    obtain ⟨hg, hgs⟩ := granPut_spec u n d.lwOff (s.ddrRead (dwordAt d.words 6).toNat d.lwLen)
    exact ⟨siteAndMem_trans ha hg, hgs.trans (by rw [hs])⟩
  · exact granPut_spec s n d.lwOff _

theorem loadWeights_of {o : SourceObs} (h : classStarts s id d 1) (hv : d.lwValid = true) (h2 : d.lwSrc = 2) (hc : s.coreHeld d.lwCore = false)
    (ho : s.coreOwner d.lwCore = s.scopeOf d) (hn : s.siteOf d.lwCore = some n) (hl : s.launchOn d.lwCore = false)
    (hf : s.foreignPages (s.scopeOf d) (pagesOf (dwordAt d.words 6).toNat d.lwLen ++ d.lwStagePages) = false)
    (hp : ∀ p ∈ pagesOf (dwordAt d.words 6).toNat d.lwLen ++
      (if d.lwPages ≠ 0 then (List.range d.lwPages).map fun i => d.lwFirst + i else []) ++ d.lwStagePages, s.pageHeld p = false)
    (hm : s.lwMirrorOk d n = true) (hg : s.stageOk d = true) (he : o.ecc = .clean) (hs : s.lwSource d [] o = 0) :
    exec (.loadWeights id [] o) s = .next ((s.lwWrite d n []).done d 0) := by
  refine (runClass_body h rfl hv).trans (congrArg _ ?_)
  have hany : (pagesOf (dwordAt d.words 6).toNat d.lwLen ++
      (if d.lwPages ≠ 0 then (List.range d.lwPages).map fun i => d.lwFirst + i else []) ++ d.lwStagePages).any s.pageHeld = false :=
    List.any_eq_false.2 fun p h => by rw [hp p h]; exact Bool.false_ne_true
  dsimp only
  rw [if_pos h2, if_neg (by rw [hc, hany]; decide), if_neg, hn]
  · dsimp only
    unfold State.lwAt
    rw [hl, if_neg (by decide), if_neg (by rw [hm, hg]; decide)]
    have hecc : s.lwEcc d o = s := by
      unfold State.lwEcc
      rw [he, if_pos ⟨h2, Or.inl hs⟩]
      rfl
    dsimp only
    rw [hs, hecc, if_pos rfl]
  · rintro (g | g)
    · exact g ho
    · exact Bool.noConfusion (hf.symm.trans g)

theorem loadWeights_spec {o : SourceObs} (h : classStarts s id d 1) (hv : d.lwValid = true) (h2 : d.lwSrc = 2) (hc : s.coreHeld d.lwCore = false)
    (ho : s.coreOwner d.lwCore = s.scopeOf d) (hn : s.siteOf d.lwCore = some n) (hl : s.launchOn d.lwCore = false)
    (hf : s.foreignPages (s.scopeOf d) (pagesOf (dwordAt d.words 6).toNat d.lwLen ++ d.lwStagePages) = false)
    (hp : ∀ p ∈ pagesOf (dwordAt d.words 6).toNat d.lwLen ++
      (if d.lwPages ≠ 0 then (List.range d.lwPages).map fun i => d.lwFirst + i else []) ++ d.lwStagePages, s.pageHeld p = false)
    (hm : s.lwMirrorOk d n = true) (hg : s.stageOk d = true) (he : o.ecc = .clean) (hs : s.lwSource d [] o = 0) :
    completes (.loadWeights id [] o) s fun t => answered s t id 0 0 0 ∧
      (t.site n).granRead d.lwOff d.lwLen = s.ddrRead (dwordAt d.words 6).toNat d.lwLen ∧
      (∀ a, a < d.lwOff ∨ d.lwOff + d.lwLen ≤ a →
        tget (fun _ => 0) (t.site n).gran a = tget (fun _ => 0) (s.site n).gran a) ∧
      (∀ m, m ≠ n → t.site m = s.site m) ∧ (t.site n).ws = (s.site n).ws ∧
      (d.lwPages ≠ 0 → (t.site n).mirror = mirrorWord d.lwFirst d.lwPages) ∧
      (d.lwPages = 0 → (t.site n).mirror = (s.site n).mirror) := by
  refine ⟨_, loadWeights_of h hv h2 hc ho hn hl hf hp hm hg he hs, ?_⟩
  obtain ⟨⟨hfr, hother⟩, hsite⟩ := lwWrite_spec (d := d) s n h2
  generalize s.lwWrite d n [] = u at hfr hother hsite ⊢
  rw [State.done, classStarts_id h]
  have hgran : (u.site n).gran = tput (fun _ => 0) (s.site n).gran d.lwOff (s.ddrRead (dwordAt d.words 6).toNat d.lwLen) := by
    rw [hsite]
    split <;> rfl
  have hlen : (s.ddrRead (dwordAt d.words 6).toNat d.lwLen).length = d.lwLen := tbytes_length _ _ _ _
  refine ⟨setReady_answered h (fun k => by rw [hfr]; rfl) (by rw [hfr]), ?_, fun a ha => ?_, hother, ?_, fun hne => ?_, fun he => ?_⟩
  · change tbytes (fun _ => 0) (u.site n).gran d.lwOff d.lwLen = _
    rw [hgran]
    have hb := tbytes_tput (d := fun _ => 0) (m := (s.site n).gran) d.lwOff (s.ddrRead (dwordAt d.words 6).toNat d.lwLen)
    rwa [hlen] at hb
  · change tget _ (u.site n).gran a = _
    rw [hgran]
    exact tget_tput_other _ (by rw [hlen]; exact ha)
  · change (u.site n).ws = _
    rw [hsite]
    split <;> rfl
  · change (u.site n).mirror = _
    rw [hsite, if_pos hne]
    rfl
  · change (u.site n).mirror = _
    rw [hsite, if_neg (not_not.2 he)]
    rfl

end

/-! ### LAUNCH (R86, R326) -/

section
variable {s : State} {id : Nat} {d : Desc} {image : List Word64}

theorem wake_is (c : Site) : ∃ w p, c.wake = { c with waking := w, pwrPending := p } := by
  unfold Site.wake
  split
  · exact ⟨_, _, rfl⟩
  · exact ⟨_, _, rfl⟩
  · exact ⟨c.waking, c.pwrPending, rfl⟩

/-- The words of a list stored from place k on. -/
theorem tget_zipIdx (l : List Word64) (k : Nat) (m : Tab Word64) {i : Nat} (hi : i < l.length) :
    tget (fun _ => 0) ((l.zipIdx k).foldl (fun t p => tset (fun _ => 0) t p.2 p.1) m) (k + i) = l.getD i 0 := by
  have hlow : ∀ (l : List Word64) (k j : Nat) (m : Tab Word64), j < k →
      tget (fun _ => 0) ((l.zipIdx k).foldl (fun t p => tset (fun _ => 0) t p.2 p.1) m) j = tget (fun _ => 0) m j := by
    intro l
    induction l with
    | nil => exact fun _ _ _ _ => rfl
    | cons a l ih =>
      intro k j m hj
      rw [List.zipIdx_cons, List.foldl_cons, ih (k + 1) j _ (Nat.lt_succ_of_lt hj)]
      exact tget_tset_other _ _ _ (Nat.ne_of_lt hj)
  induction l generalizing k i m with
  | nil => exact absurd hi (Nat.not_lt_zero _)
  | cons a l ih =>
    rw [List.zipIdx_cons, List.foldl_cons]
    cases i with
    | zero => exact (hlow l (k + 1) k _ (Nat.lt_succ_self k)).trans (tget_tset_same _ _ _ _)
    | succ i =>
      have h := ih (k + 1) (tset (fun _ => 0) m k a) (Nat.lt_of_succ_lt_succ hi)
      rwa [Nat.add_assoc, Nat.add_comm 1 i] at h

/-- A core dispatches for a LAUNCH from its entry on (R326). -/
def Site.entered (c : Site) (d : Desc) (now : Word64) : Site :=
  { c with
    pc := (wordAt d.words 3).extractLsb' 0 16, seq := .running, sref := none,
    hint := if (wordAt d.words 3).getLsbD 20 then some ((wordAt d.words 3).extractLsb' 17 3) else none,
    launch := some (d.info now) }

/-- What becomes of a core that starts a LAUNCH (R326). -/
def Site.launchedOn (c : Site) (d : Desc) (image : List Word64) (now : Word64) : Site :=
  (((c.coreReset true false).loadImage image).setS 1 (dwordAt d.words 8)).wake.entered d now

theorem coreReset_ws (c : Site) (k x : Bool) : (c.coreReset k x).ws = c.ws :=
  foldl_keeps Site.ws (fun (d : Site) e => d.modEng e (·.coreReset c.cycle)) (fun _ _ => rfl) (List.finRange 4) c

theorem coreReset_keepsVregs (c : Site) (x : Bool) : (c.coreReset true x).vregs = c.vregs := by
  unfold Site.coreReset
  dsimp only
  exact if_pos rfl

theorem coreReset_exc (c : Site) (k : Bool) : (c.coreReset k false).exc = 0 := if_neg (t := c.exc) (e := 0) Bool.false_ne_true

theorem launchedOn_stores (c : Site) (d : Desc) (image : List Word64) (now : Word64) :
    (c.launchedOn d image now).vregs = c.vregs ∧ (c.launchedOn d image now).ws = c.ws := by
  have hv := coreReset_keepsVregs c false
  have hw := coreReset_ws c true false
  unfold Site.launchedOn
  generalize c.coreReset true false = r at hv hw ⊢
  obtain ⟨w, p, h⟩ := wake_is ((r.loadImage image).setS 1 (dwordAt d.words 8))
  rw [h]
  exact ⟨hv, hw⟩

theorem launchedOn_spec (c : Site) (d : Desc) (image : List Word64) (now : Word64) : (c.launchedOn d image now).seq = .running ∧
    (c.launchedOn d image now).pc = (wordAt d.words 3).extractLsb' 0 16 ∧ (c.launchedOn d image now).sreg 1 = dwordAt d.words 8 ∧
    (c.launchedOn d image now).exc = 0 ∧ (∃ l, (c.launchedOn d image now).launch = some l ∧ l.desc = d.id ∧ l.job = d.job) ∧
    ∀ i, i < image.length → tget (fun _ => 0) (c.launchedOn d image now).ps i = image.getD i 0 := by
  have hx := coreReset_exc c true
  unfold Site.launchedOn
  generalize c.coreReset true false = r at hx ⊢
  obtain ⟨w, p, h⟩ := wake_is ((r.loadImage image).setS 1 (dwordAt d.words 8))
  rw [h]
  refine ⟨rfl, rfl, ?_, hx, ⟨_, rfl, rfl, rfl⟩, fun i hi => ?_⟩
  · exact tget_tset_same (fun _ => 0) r.sregs 1 (dwordAt d.words 8)
  · have h := tget_zipIdx image 0 r.ps hi
    rw [Nat.zero_add] at h
    exact h

theorem launchCore_site (s : State) (d : Desc) (image : List Word64) (n m : SiteNo) :
    (s.launchCore d image n).site m = if m = n then (s.site n).launchedOn d image s.tb else s.site m := by
  unfold State.launchCore
  by_cases h : m = n
  · rw [if_pos h, h, State.site_modSite_same, coreReset_site]
    rfl
  · rw [if_neg h, State.site_modSite_other _ _ h, (coreReset_frame s n true false).2 m h]

theorem launchCore_host (s : State) (d : Desc) (image : List Word64) (n : SiteNo) : (s.launchCore d image n).host = s.host := by
  have h : (s.launchCore d image n).host = (s.coreReset n true false).host := rfl
  rwa [(coreReset_frame s n true false).1] at h

/-- Cores that start a LAUNCH, the same core perhaps more than once. -/
theorem launchCores_spec (d : Desc) (image : List Word64) (ns : List SiteNo) (s : State) :
    (ns.foldl (fun s n => s.launchCore d image n) s).host = s.host ∧
    (∀ m, m ∉ ns → (ns.foldl (fun s n => s.launchCore d image n) s).site m = s.site m) ∧
    ∀ m ∈ ns, ∃ (c : Site) (now : Word64), (ns.foldl (fun s n => s.launchCore d image n) s).site m = c.launchedOn d image now ∧
      c.vregs = (s.site m).vregs ∧ c.ws = (s.site m).ws := by
  induction ns generalizing s with
  | nil => exact ⟨rfl, fun _ _ => rfl, fun m hm => nomatch hm⟩
  | cons a ns ih =>
    rw [List.foldl_cons]
    have ha := launchCore_site s d image a
    have hf := launchCore_host s d image a
    generalize s.launchCore d image a = u at ha hf ⊢
    obtain ⟨h1, h2, h3⟩ := ih u
    have hkeeps : ∀ m, (u.site m).vregs = (s.site m).vregs ∧ (u.site m).ws = (s.site m).ws := fun m => by
      rw [ha m]
      split
      · next h =>
        subst h
        exact launchedOn_stores _ _ _ _
      · exact ⟨rfl, rfl⟩
    refine ⟨h1.trans hf, fun m hm => ?_, fun m hm => ?_⟩
    · rw [List.mem_cons, not_or] at hm
      rw [h2 m hm.2, ha m, if_neg hm.1]
    · by_cases hn : m ∈ ns
      · obtain ⟨c, now, hc, hv, hw⟩ := h3 m hn
        exact ⟨c, now, hc, hv.trans (hkeeps m).1, hw.trans (hkeeps m).2⟩
      · obtain rfl := (List.mem_cons.1 hm).resolve_right hn
        exact ⟨_, _, (h2 m hn).trans ((ha m).trans (if_pos rfl)), rfl, rfl⟩

/-- A core that has perhaps been woken. -/
def onlyWoken (c e : Site) : Prop := e = { c with waking := e.waking, pwrPending := e.pwrPending }

theorem onlyWoken_trans {c e g : Site} (h : onlyWoken c e) (k : onlyWoken e g) : onlyWoken c g := by
  unfold onlyWoken at h k ⊢
  rw [k, h]

theorem onlyWoken_wake (c : Site) : onlyWoken c c.wake := by
  unfold Site.wake
  split <;> rfl

/-- A LAUNCH wakes cores, and changes nothing else of them. -/
theorem wakeScope_site (s : State) (o : Option HamletNo) (m : SiteNo) : onlyWoken (s.site m) ((s.wakeScope o).site m) := by
  unfold State.wakeScope State.modSites
  refine foldl_inv (fun v : State => onlyWoken (s.site m) (v.site m)) (fun s n => s.modSite n Site.wake) (fun v n hv => ?_) _ s rfl
  by_cases h : m = n
  · subst h
    rw [State.site_modSite_same]
    exact onlyWoken_trans hv (onlyWoken_wake _)
  · rw [State.site_modSite_other v _ h]
    exact hv

theorem wakeScope_host (s : State) (o : Option HamletNo) : (s.wakeScope o).host = s.host := by
  unfold State.wakeScope
  rw [modSites_frame]

/-- The LAUNCH has started and waits for its cores. -/
def State.launchBegun (s : State) (d : Desc) (img : List Word64) : State :=
  s.modDesc d.id fun d => { d with started := true, left := d.cores, image := img }

/-- All that a LAUNCH with cores to wait for does at its start. -/
theorem launchNow_spec (h : s.desc d.id = some d) (hc : d.cores ≠ []) (hr : d.ready = none) :
    (∃ e, (s.launchNow d image).desc d.id = some e ∧ e.started = true ∧ e.ready = none ∧ e.left = d.cores) ∧
    (∀ m ∈ s.sitesOf (wordAt d.words 2), ∃ (c : Site) (now : Word64), onlyWoken (c.launchedOn d (s.launchImage d image) now) ((s.launchNow d image).site m) ∧
        c.vregs = (s.site m).vregs ∧ c.ws = (s.site m).ws) ∧
    ∀ m, m ∉ s.sitesOf (wordAt d.words 2) → onlyWoken (s.site m) ((s.launchNow d image).site m) := by
  have he : s.launchNow d image = (((s.sitesOf (wordAt d.words 2)).foldl (fun v n => v.launchCore d (s.launchImage d image) n)
    (s.launchBegun d (s.launchImage d image))).wakeScope ((s.launchBegun d (s.launchImage d image)).scopeOf d)).launchDone d.id := by
    unfold State.launchNow
    rfl
  have hb : (s.launchBegun d (s.launchImage d image)).desc d.id = some { d with started := true, left := d.cores, image := s.launchImage d image } :=
    desc_modDesc_same (fun _ => rfl) h
  have hbs (m : SiteNo) : (s.launchBegun d (s.launchImage d image)).site m = s.site m := rfl
  obtain ⟨h1, h2, h3⟩ := launchCores_spec d (s.launchImage d image) (s.sitesOf (wordAt d.words 2)) (s.launchBegun d (s.launchImage d image))
  rw [he]
  generalize s.launchBegun d (s.launchImage d image) = b at hb hbs h1 h2 h3 ⊢
  generalize (s.sitesOf (wordAt d.words 2)).foldl (fun v n => v.launchCore d (s.launchImage d image) n) b = u at h1 h2 h3 ⊢
  have hw := wakeScope_site u (b.scopeOf d)
  have hh := wakeScope_host u (b.scopeOf d)
  generalize u.wakeScope (b.scopeOf d) = v at hw hh ⊢
  have hv : v.desc d.id = some { d with started := true, left := d.cores, image := s.launchImage d image } := by
    unfold State.desc at hb ⊢
    rw [hh, h1]
    exact hb
  have hdone : v.launchDone d.id = v := by
    unfold State.launchDone
    rw [hv]
    exact if_neg fun g => hc (List.isEmpty_iff.1 g)
  rw [hdone]
  refine ⟨⟨_, hv, rfl, hr, rfl⟩, fun m hm => ?_, fun m hm => ?_⟩
  · obtain ⟨c, now, hs, hvr, hws⟩ := h3 m hm
    rw [hbs m] at hvr hws
    exact ⟨c, now, hs ▸ hw m, hvr, hws⟩
  · rw [← hbs m, ← h2 m hm]
    exact hw m

theorem launch_of (h : classStarts s id d 2) (hv : d.launchValid = true) (hi : d.imageInDdr = false)
    (hl : ∀ lc ∈ d.cores, s.coreHeld lc = false ∧ s.coreOwner lc = s.scopeOf d ∧ (s.siteOf lc).isSome = true ∧ s.launchOn lc = false)
    (hb : ∀ b ∈ d.tallyBells, s.bellHeld b.toNat = false ∧ (s.bell (bellNo b)).owner = s.scopeOf d)
    (hs : ∀ n ∈ s.sitesOf (wordAt d.words 2), (s.site n).launchable = true) (hc : s.launchSource d image = 0) :
    exec (.launch id image) s = .next (s.launchNow d image) := by
  refine (runClass_body h rfl hv).trans (congrArg _ ?_)
  have hheld : d.cores.any s.coreHeld = false := List.any_eq_false.2 fun lc hm => by rw [(hl lc hm).1]; exact Bool.false_ne_true
  have hbheld : (d.tallyBells.any fun b => s.bellHeld b.toNat) = false := List.any_eq_false.2 fun b hm => by rw [(hb b hm).1]; exact Bool.false_ne_true
  have hown : (d.cores.any fun lc => decide (s.coreOwner lc ≠ s.scopeOf d)) = false :=
    List.any_eq_false.2 fun lc hm => by rw [decide_eq_true_eq]; exact fun g => g (hl lc hm).2.1
  have hbown : (d.tallyBells.any fun b => decide ((s.bell (bellNo b)).owner ≠ s.scopeOf d)) = false :=
    List.any_eq_false.2 fun b hm => by rw [decide_eq_true_eq]; exact fun g => g (hb b hm).2
  have hsite : (d.cores.any fun lc => (s.siteOf lc).isNone) = false := List.any_eq_false.2 fun lc hm g => by
    have hi := (hl lc hm).2.2.1
    rw [Option.isNone_iff_eq_none.1 g] at hi
    exact Bool.noConfusion hi
  have hon : d.cores.any s.launchOn = false := List.any_eq_false.2 fun lc hm => by rw [(hl lc hm).2.2.2]; exact Bool.false_ne_true
  have hall : ((s.sitesOf (wordAt d.words 2)).all fun n => (s.site n).launchable) = true := List.all_eq_true.2 hs
  have hfor : s.foreignPages (s.scopeOf d) [] = false := rfl
  dsimp only
  rw [hi, hheld, hbheld, hown, hbown, hsite, hon, hall, if_neg Bool.false_ne_true, hfor, hc]
  rfl

/-- LAUNCH (R326). -/
theorem launch_spec (h : classStarts s id d 2) (hv : d.launchValid = true) (hne : d.cores ≠ []) (hi : d.imageInDdr = false)
    (hl : ∀ lc ∈ d.cores, s.coreHeld lc = false ∧ s.coreOwner lc = s.scopeOf d ∧ (s.siteOf lc).isSome = true ∧ s.launchOn lc = false)
    (hb : ∀ b ∈ d.tallyBells, s.bellHeld b.toNat = false ∧ (s.bell (bellNo b)).owner = s.scopeOf d)
    (hs : ∀ n ∈ s.sitesOf (wordAt d.words 2), (s.site n).launchable = true) (hc : s.launchSource d image = 0) :
    completes (.launch id image) s fun t =>
      (∃ e, t.desc id = some e ∧ e.started = true ∧ e.ready = none ∧ e.left = d.cores) ∧
      (∀ n ∈ s.sitesOf (wordAt d.words 2), (t.site n).seq = .running ∧
        (t.site n).pc = (wordAt d.words 3).extractLsb' 0 16 ∧ (t.site n).sreg 1 = dwordAt d.words 8 ∧
        (t.site n).exc = 0 ∧ (t.site n).vregs = (s.site n).vregs ∧ (t.site n).ws = (s.site n).ws ∧
        (∃ l, (t.site n).launch = some l ∧ l.desc = id ∧ l.job = d.job) ∧
        ∀ i, i < 8 * d.bundles → tget (fun _ => 0) (t.site n).ps i = (image.take (8 * d.bundles)).getD i 0) ∧
      ∀ n, n ∉ s.sitesOf (wordAt d.words 2) → (t.site n).seq = (s.site n).seq ∧ (t.site n).sregs = (s.site n).sregs := by
  have hid := classStarts_id h
  have himg : s.launchImage d image = image.take (8 * d.bundles) := if_neg (by rw [hi]; exact Bool.false_ne_true)
  have hlen : 8 * d.bundles ≤ image.length := by
    unfold State.launchSource at hc
    dsimp only at hc
    split at hc
    · next hw => exact absurd hc hw
    · rw [hi, if_neg Bool.false_ne_true] at hc
      split at hc
      · exact absurd hc (by decide)
      · next hn => exact Nat.not_lt.1 fun g => hn (Or.inr g)
  obtain ⟨h1, h2, h3⟩ := launchNow_spec (s := s) (image := image) (hid.symm ▸ h.1) hne (classStarts_open h).2
  refine ⟨_, launch_of h hv hi hl hb hs hc, hid ▸ h1, fun n hn => ?_, fun n hn => ?_⟩
  · obtain ⟨c, now, hw, hvr, hws⟩ := h2 n hn
    generalize s.launchNow d image = t at hw ⊢
    obtain ⟨p1, p2, p3, p4, p5, p6⟩ := launchedOn_spec c d (s.launchImage d image) now
    obtain ⟨p7, p8⟩ := launchedOn_stores c d (s.launchImage d image) now
    generalize c.launchedOn d (s.launchImage d image) now = g at hw p1 p2 p3 p4 p5 p6 p7 p8
    unfold onlyWoken at hw
    rw [himg] at p6
    rw [hw]
    refine ⟨p1, p2, p3, p4, p7.trans hvr, p8.trans hws, hid ▸ p5, fun i hlt => p6 i ?_⟩
    rw [List.length_take, Nat.min_eq_left hlen]
    exact hlt
  · have hw := h3 n hn
    generalize s.launchNow d image = t at hw ⊢
    unfold onlyWoken at hw
    rw [hw]
    exact ⟨rfl, rfl⟩

end

/-! ### COPY (R327) -/

section
variable {s : State} {id : Nat} {d : Desc} {n : SiteNo}

theorem firstBad_zeros : firstBad [0, 0] = 0 := rfl

/-- What a COPY from a working store to GDDR7 writes. -/
def State.cpMoved (s : State) (d : Desc) (n : SiteNo) : State := s.ddrWrite (d.cpAddr true) ((s.site n).wsRead (d.cpAddr false) d.cpLen)

/-- A COPY of at most one segment ends with it. -/
theorem cpSegments_last (u : State) (hl : d.cpLen ≤ 16777216) (k : Nat) : u.cpSegments d [] none k 1 = u.done d 0 := by
  cases k with
  | zero => rfl
  | succ k =>
    unfold State.cpSegments
    dsimp only
    exact if_pos (Nat.one_mul _ ▸ hl)

theorem cpSegments_one (hk0 : d.cpKind false = 4) (hk1 : d.cpKind true = 3) (h0 : 0 < d.cpLen) (hl : d.cpLen ≤ 16777216)
    (hn : s.siteOf (d.cpCore false) = some n) (hc0 : s.cpCode d false 0 d.cpLen 0 = 0) (hc1 : s.cpCode d true 0 d.cpLen 0 = 0) (k : Nat) :
    s.cpSegments d [] none (k + 1) 0 = (s.cpMoved d n).done d 0 := by
  have hmin : min 16777216 (d.cpLen - 0) = d.cpLen := by rw [Nat.sub_zero]; exact Nat.min_eq_right hl
  have hread : s.cpRead d [] 0 d.cpLen = (s.site n).wsRead (d.cpAddr false) d.cpLen := by
    unfold State.cpRead
    rw [hk0, hn]
    rfl
  have hwrite (bs : List Byte) : s.cpWrite d 0 bs = s.ddrWrite (d.cpAddr true) bs := by
    unfold State.cpWrite
    rw [hk1]
    rfl
  unfold State.cpSegments
  dsimp only
  rw [Nat.zero_mul, hmin, if_neg (Nat.not_le.2 h0), if_neg (fun h => nomatch h)]
  change (if firstBad [s.cpCode d false 0 d.cpLen 0, s.cpCode d true 0 d.cpLen 0] ≠ 0 then _ else _) = _
  rw [hc0, hc1, if_neg (not_not.2 firstBad_zeros), hread, hwrite]
  exact cpSegments_last _ hl k

theorem copy_of (h : classStarts s id d 3) (hv : d.cpValid = true) (hk0 : d.cpKind false = 4) (hk1 : d.cpKind true = 3)
    (h0 : 0 < d.cpLen) (hl : d.cpLen ≤ 16777216) (hn : s.siteOf (d.cpCore false) = some n) (hh : s.coreHeld (d.cpCore false) = false)
    (ho : s.coreOwner (d.cpCore false) = s.scopeOf d) (hp : ∀ p ∈ d.cpPages, s.pageHeld p = false)
    (hf : s.foreignPages (s.scopeOf d) d.cpPages = false) (hc0 : s.cpCode d false 0 d.cpLen 0 = 0) (hc1 : s.cpCode d true 0 d.cpLen 0 = 0) :
    exec (.copy id [] none) s = .next ((s.cpMoved d n).done d 0) := by
  refine (runClass_body h rfl hv).trans (congrArg _ ?_)
  have hcores : d.cpCores = [d.cpCore false] := by
    unfold Desc.cpCores
    rw [hk0, hk1]
    rfl
  have hpages : d.cpPages.any s.pageHeld = false := List.any_eq_false.2 fun p h => by rw [hp p h]; exact Bool.false_ne_true
  have hheld : [d.cpCore false].any s.coreHeld = false := by
    rw [List.any_cons, hh]
    rfl
  have hown : ([d.cpCore false].any fun lc => decide (s.coreOwner lc ≠ s.scopeOf d)) = false := by
    rw [List.any_cons, decide_eq_false (not_not.2 ho)]
    rfl
  have hsite : ([d.cpCore false].any fun lc => (s.siteOf lc).isNone) = false := by
    rw [List.any_cons, hn]
    rfl
  dsimp only
  rw [hcores, hheld, hpages, hown, hf, hsite, if_neg (by decide), if_neg (by decide), if_neg (by decide)]
  exact cpSegments_one hk0 hk1 h0 hl hn hc0 hc1 _

/-- COPY from a working store to GDDR7 (R327). -/
theorem copy_spec (h : classStarts s id d 3) (hv : d.cpValid = true) (hk0 : d.cpKind false = 4) (hk1 : d.cpKind true = 3)
    (h0 : 0 < d.cpLen) (hl : d.cpLen ≤ 16777216) (hn : s.siteOf (d.cpCore false) = some n) (hh : s.coreHeld (d.cpCore false) = false)
    (ho : s.coreOwner (d.cpCore false) = s.scopeOf d) (hp : ∀ p ∈ d.cpPages, s.pageHeld p = false)
    (hf : s.foreignPages (s.scopeOf d) d.cpPages = false) (hc0 : s.cpCode d false 0 d.cpLen 0 = 0) (hc1 : s.cpCode d true 0 d.cpLen 0 = 0) :
    completes (.copy id [] none) s fun t =>
      t = { s with mem := { s.mem with ddr := t.mem.ddr }, host := { s.host with descs := t.host.descs } } ∧
      answered s t id 0 0 0 ∧ t.ddrRead (d.cpAddr true) d.cpLen = (s.site n).wsRead (d.cpAddr false) d.cpLen ∧
      (∀ a, a < d.cpAddr true ∨ d.cpAddr true + d.cpLen ≤ a → t.ddrRead a 1 = s.ddrRead a 1) := by
  refine ⟨_, copy_of h hv hk0 hk1 h0 hl hn hh ho hp hf hc0 hc1, ?_⟩
  have hlen : ((s.site n).wsRead (d.cpAddr false) d.cpLen).length = d.cpLen := tbytes_length _ _ _ _
  unfold State.cpMoved
  rw [State.done, classStarts_id h]
  generalize (s.site n).wsRead (d.cpAddr false) d.cpLen = bs at hlen ⊢
  refine ⟨rfl, setReady_answered h (fun _ => rfl) rfl, ?_, fun a ha => ?_⟩
  · have hr := ddrRead_ddrWrite_same s (d.cpAddr true) bs
    rw [hlen] at hr
    exact hr
  · exact ddrRead_ddrWrite_other s (by rw [hlen]; exact ha)

end

/-! ### TALLY (R302, R327) -/

section
variable {s : State} {id : Nat} {d : Desc}

theorem tallyInfo_none (h : classStarts s id d 4) (hv : d.tallyValid = true) (h0 : d.tallyOp = 0) (hb : s.lastTally (s.scopeOf d) = none) :
    completes (.tallyInfo id) s fun t => onlyAnswered s t id 0 0 0 := by
  refine ⟨_, runClass_body h (by unfold Desc.isTally; rw [h0]; rfl) hv, ?_⟩
  dsimp only
  rw [hb, classStarts_id h]
  exact setReady_onlyAnswered h

theorem tallyInfo_some {b : TallyBuf} (h : classStarts s id d 4) (hv : d.tallyValid = true) (h0 : d.tallyOp = 0)
    (hb : s.lastTally (s.scopeOf d) = some b) :
    completes (.tallyInfo id) s fun t => onlyAnswered s t id 0 0 (b.num.setWidth 64 ||| 0x100000000) := by
  refine ⟨_, runClass_body h (by unfold Desc.isTally; rw [h0]; rfl) hv, ?_⟩
  dsimp only
  rw [hb, classStarts_id h]
  exact setReady_onlyAnswered h

theorem tallyExport_spec {b : TallyBuf} (h : classStarts s id d 4) (hv : d.tallyValid = true) (h1 : d.tallyOp = 1)
    (hb : s.lastTally (s.scopeOf d) = some b) (ho : s.scopeOf d = none) (hl : s.host.lost = false) :
    completes (.tallyExport id) s fun t =>
      ((dwordAt d.words 6).toNat < (Config.tallyImage b).length → ∃ x, onlyAnswered s t id 1 x 0) ∧
      ((Config.tallyImage b).length ≤ (dwordAt d.words 6).toNat →
        answered s t id 0 0 (BitVec.ofNat 64 (Config.tallyImage b).length) ∧ ∃ p,
        wroteHost s t (.hostWrite p (dwordAt d.words 4) (Config.tallyImage b))) := by
  refine ⟨_, runClass_body h (decide_eq_true h1) hv, ?_⟩
  have hr : s.hostRefusal none = 0 := by
    unfold State.hostRefusal
    rw [hl]
    rfl
  dsimp only
  rw [hb, ho]
  dsimp only
  rw [hr, classStarts_id h]
  generalize Config.tallyImage b = img
  by_cases hq : (dwordAt d.words 6).toNat < img.length
  · rw [if_pos hq]
    exact ⟨fun _ => ⟨_, setReady_onlyAnswered h⟩, fun g => absurd hq (Nat.not_lt.2 g)⟩
  · rw [if_neg hq, if_neg (by decide)]
    refine ⟨fun g => absurd g hq, fun _ => ?_⟩
    obtain ⟨hw, hf⟩ := toHost_wrote (r := d.ring) (a := dwordAt d.words 4) (bs := img) hl
    change answered s ((s.toHost d.ring (dwordAt d.words 4) img).setReady id 0 0 _) id 0 0 _ ∧ _
    generalize hu : s.toHost d.ring (dwordAt d.words 4) img = u at hw hf ⊢
    refine ⟨setReady_answered h (fun k => by rw [hf]; rfl) (by rw [hf]), (s.ring d.ring).via, ?_⟩
    change wroteHost s ((s.toHost d.ring (dwordAt d.words 4) img).setReady id 0 0 _) _
    rw [hu]
    exact hw

/-- The tally that an IMPORT makes the scope's last (R327). -/
def State.imported (s : State) (d : Desc) (b : TallyBuf) : State :=
  s.setTally (s.scopeOf d) { (s.tallyOf (s.scopeOf d)).setBuf (s.otherBuf (s.scopeOf d)) { b with complete := true } with
    lastB := s.otherBuf (s.scopeOf d) }

theorem tallyImport_spec {img : List Byte} (h : classStarts s id d 4) (hv : d.tallyValid = true) (h2 : d.tallyOp = 2)
    (hn : ∀ e ∈ s.launchesFor d, s.scopeOf e ≠ s.scopeOf d) (hr : s.hostRefusal (s.scopeOf d) = 0)
    (hlen : (dwordAt d.words 6).toNat ≤ img.length) (h0 : 0 < (dwordAt d.words 6).toNat)
    (hb : (dwordAt d.words 6).toNat ≤ s.bufBytes (s.scopeOf d) (if s.otherBuf (s.scopeOf d) then 4 else 3))
    (hw : s.bufWhole (s.scopeOf d) (if s.otherBuf (s.scopeOf d) then 4 else 3) = true) :
    completes (.tallyImport id img) s fun t =>
      (Config.tallyParse (img.take (dwordAt d.words 6).toNat) = none → onlyAnswered s t id 1 0 0) ∧
      (∀ b, Config.tallyParse (img.take (dwordAt d.words 6).toNat) = some b → answered s t id 0 0 0 ∧
        (t.tallyOf (s.scopeOf d)).lastB = s.otherBuf (s.scopeOf d) ∧
        (t.tallyOf (s.scopeOf d)).buf (s.otherBuf (s.scopeOf d)) = { b with complete := true }) := by
  have hany : ((s.launchesFor d).any fun e => decide (s.scopeOf e = s.scopeOf d)) = false :=
    List.any_eq_false.2 fun e he => by rw [decide_eq_true_eq]; exact hn e he
  refine ⟨_, runClass_body h (decide_eq_true h2) hv, ?_⟩
  dsimp only
  rw [hany, hr, if_neg Bool.false_ne_true, if_neg (by decide), if_neg (Nat.not_lt.2 hlen)]
  cases hp : Config.tallyParse (img.take (dwordAt d.words 6).toNat) with
  | none =>
    refine ⟨fun _ => ?_, fun b hb => nomatch hb⟩
    dsimp only
    rw [State.done, classStarts_id h]
    exact setReady_onlyAnswered h
  | some b =>
    refine ⟨fun g => (nomatch g), fun c hc => ?_⟩
    obtain rfl := Option.some.inj hc
    have hi : ¬ (s.bufBytes (s.scopeOf d) (if s.otherBuf (s.scopeOf d) then 4 else 3) < (dwordAt d.words 6).toNat ∨
        s.bufWhole (s.scopeOf d) (if s.otherBuf (s.scopeOf d) then 4 else 3) = false ∨ (dwordAt d.words 6).toNat = 0) := by
      rintro (g | g | g)
      · exact absurd g (Nat.not_lt.2 hb)
      · exact Bool.noConfusion (hw.symm.trans g)
      · exact absurd g (Nat.ne_of_gt h0)
    dsimp only
    rw [if_neg hi, State.done, classStarts_id h]
    change answered s ((s.imported d b).setReady id 0 0 0) id 0 0 0 ∧ ((s.imported d b).tallyOf (s.scopeOf d)).lastB = _ ∧
      ((s.imported d b).tallyOf (s.scopeOf d)).buf (s.otherBuf (s.scopeOf d)) = _
    refine ⟨setReady_answered h (fun _ => rfl) rfl, ?_⟩
    unfold State.imported
    rw [tallyOf_setTally_same]
    exact ⟨rfl, buf_setBuf_same _ _ _⟩

end

/-! ### FENCE, ROLE_SET and PAGE_SET (R28, R241, R323, R327) -/

section
variable {s : State} {id : Nat} {d : Desc}

theorem fence_spec (h : classStarts s id d 5) (hw : ∀ w ∈ d.words.drop 2, w = 0) : exec (.fence id) s =
    .next (if s.host.descs.any fun e => decide (e.ring = d.ring) && decide (e.id < id) then s else s.setReady id 0 0 0) := by
  obtain ⟨hd, hc, hm, -, -⟩ := h
  have hz : ((d.words.drop 2).any fun w => decide (w ≠ 0)) = false :=
    List.any_eq_false.2 fun w hm => by rw [decide_eq_true_eq]; exact not_not.2 (hw w hm)
  change execFence id s = _
  unfold execFence
  rw [hd]
  dsimp only
  rw [hc, hm, hz, if_neg (by decide), if_neg Bool.false_ne_true, apply_ite Host.Outcome.next]

theorem roleSet_spec (h : classStarts s id d 8) (hv : d.fits [(2, 0x3)] = true) (ho : s.scopeOf d = none) (hi : s.idleFor d = true) :
    completes (.roleSet id) s fun t =>
      t = { s with role := (wordAt d.words 2).extractLsb' 0 2, host := { s.host with descs := t.host.descs } } ∧ answered s t id 0 0 0 := by
  refine ⟨_, runClass_body h rfl hv, ?_⟩
  dsimp only
  rw [ho, hi, if_neg (by decide), if_neg (by decide), State.done, classStarts_id h]
  exact ⟨rfl, setReady_answered h (fun _ => rfl) rfl⟩

theorem roleSet_denied (h : classStarts s id d 8) (hv : d.fits [(2, 0x3)] = true) (ho : (s.scopeOf d).isSome = true) :
    completes (.roleSet id) s fun t => onlyAnswered s t id 3 0 0 := by
  refine ⟨_, runClass_body h rfl hv, ?_⟩
  dsimp only
  rw [if_pos ho, State.done, classStarts_id h]
  exact setReady_onlyAnswered h

/-- A VALID page as PAGE_SET leaves it (R241). -/
def Desc.pageAs (d : Desc) (v : Page) : Page :=
  { v with kind := d.psKind, remR := (wordAt d.words 4).getLsbD 3, remW := (wordAt d.words 4).getLsbD 4 }

/-- A page as it is read: not VALID in a dark field. -/
def Page.seen (lit : BitVec 8) (e : Page) : Page := { e with valid := e.valid && lit.getLsbD e.field.val }

theorem page_eq (s : State) (p : Nat) : s.page p = (tget s.pageD s.mem.pages p).seen s.mem.lit := rfl

/-- A change of a page that leaves alone whether and where it is bound. -/
theorem page_modPage_same (s : State) (p : Nat) {f : Page → Page} (hf : ∀ e lit, (f e).seen lit = f (e.seen lit)) :
    (s.modPage p f).page p = f (s.page p) := by
  have h : tget (s.modPage p f).pageD (s.modPage p f).mem.pages p = f (tget s.pageD s.mem.pages p) :=
    tget_tset_same s.pageD s.mem.pages _ _
  rw [page_eq, h]
  exact hf _ _

theorem page_modPage_other (s : State) (f : Page → Page) {p q : Nat} (h : q ≠ p) : (s.modPage p f).page q = s.page q :=
  congrArg (Page.seen s.mem.lit) (tget_tset_other s.pageD s.mem.pages _ h)

theorem modPages_list_frame (f : Page → Page) (ps : List Nat) (s : State) : ∃ P,
    ps.foldl (fun s p => s.modPage p f) s = { s with mem := { s.mem with pages := P } } := by
  refine foldl_inv (fun v : State => ∃ P, v = { s with mem := { s.mem with pages := P } }) (fun s p => s.modPage p f) ?_ ps s ⟨_, rfl⟩
  rintro _ p ⟨P, rfl⟩
  exact ⟨_, rfl⟩

theorem psPages_nodup (d : Desc) : d.psPages.Nodup :=
  (List.nodup_range).map fun _ _ h => Nat.add_left_cancel h

/-- PAGE_SET of pages that neither hold nor take a tally kind. -/
theorem psWrite_spec (h : classStarts s id d 0xC) (hk : tallyKind d.psKind = false) (ht : s.psTally d = []) :
    s.psWrite d = { s with mem := { s.mem with pages := (s.psWrite d).mem.pages }, host := { s.host with descs := (s.psWrite d).host.descs } } ∧
    answered s (s.psWrite d) id 0 0 (BitVec.ofNat 64 (d.psPages.filter fun p => (s.page p).valid).length) ∧
    ∀ q, (s.psWrite d).page q = if q ∈ d.psPages.filter fun p => (s.page p).valid then d.pageAs (s.page q) else s.page q := by
  have he : s.psWrite d = ((d.psPages.filter fun p => (s.page p).valid).foldl (fun s p => s.modPage p d.pageAs) s).setReady id 0 0
      (BitVec.ofNat 64 (d.psPages.filter fun p => (s.page p).valid).length) := by
    unfold State.psWrite
    dsimp only
    rw [hk, ht, classStarts_id h]
    rfl
  have hpage := foldl_touches (F := fun (s : State) p => s.modPage p d.pageAs) (read := fun q (v : State) => v.page q) (new := fun _ => d.pageAs)
    (fun v p => page_modPage_same v p fun _ _ => rfl) (fun v p q hq => page_modPage_other v d.pageAs hq)
    ((psPages_nodup d).filter fun p => (s.page p).valid) s
  obtain ⟨P, hf⟩ := modPages_list_frame d.pageAs (d.psPages.filter fun p => (s.page p).valid) s
  rw [he]
  generalize (d.psPages.filter fun p => (s.page p).valid).foldl (fun s p => s.modPage p d.pageAs) s = u at hpage hf ⊢
  refine ⟨?_, setReady_answered h (fun k => by rw [hf]; rfl) (by rw [hf]), hpage⟩
  rw [hf]
  rfl

/-- PAGE_SET (R241, R327). -/
theorem pageSet_spec (h : classStarts s id d 0xC) (hv : d.fits [(2, 0x3FFFF), (3, 0x3FFFF), (4, 0x1F)] = true)
    (hp : ∀ p ∈ d.psPages, s.pageHeld p = false) (hi : s.psInvalid d (s.scopeOf d) = false)
    (hf : s.foreignPages (s.scopeOf d) d.psPages = false) (hk : tallyKind d.psKind = false) (ht : s.psTally d = []) :
    exec (.pageSet id) s = .next (s.psWrite d) := by
  have hheld : d.psPages.any s.pageHeld = false := List.any_eq_false.2 fun p h => by rw [hp p h]; exact Bool.false_ne_true
  have hm : s.psMoves d = [] := by
    unfold State.psTally at ht
    unfold State.psMoves
    refine List.filter_eq_nil_iff.2 fun p hp g => List.filter_eq_nil_iff.1 ht p hp ?_
    rw [hk, Bool.or_false, Bool.and_eq_true] at g
    exact g.2
  refine (runClass_body h rfl hv).trans (congrArg _ ?_)
  dsimp only
  rw [hheld, hi, hf, hm]
  rfl

end

/-- Settles O45: each class that moves data leaves its bytes where it says and answers its descriptor. -/
theorem classesThatMoveData : Obligations.ClassesThatMoveData := by
  unfold Obligations.ClassesThatMoveData
  refine ⟨fun s id d n h hv h2 hc ho hn hl hf hp hm hg o he hs => loadWeights_spec h hv h2 hc ho hn hl hf hp hm hg he hs,
    fun s id d image h hv hne hi hl hb hs hc => launch_spec h hv hne hi hl hb hs hc,
    fun s id d n h hv hk0 hk1 h0 hl hn hh ho hp hf hc0 hc1 => copy_spec h hv hk0 hk1 h0 hl hn hh ho hp hf hc0 hc1, ?tallies, ?fences, ?roles, ?pages⟩
  case tallies =>
    exact fun s id d h hv => ⟨fun h0 hb => tallyInfo_none h hv h0 hb, fun b h0 hb => tallyInfo_some h hv h0 hb,
      fun b h1 hb ho hl => tallyExport_spec h hv h1 hb ho hl, fun img h2 hn hr hlen h0 hb hw => tallyImport_spec h hv h2 hn hr hlen h0 hb hw⟩
  case fences =>
    refine fun s id d h hw => ⟨fun hn => ⟨_, fence_spec h hw, ?_⟩, fun ⟨e, he, hr, hi⟩ => ⟨_, fence_spec h hw, ?_⟩⟩
    · have hnone : (s.host.descs.any fun e => decide (e.ring = d.ring) && decide (e.id < id)) = false :=
        List.any_eq_false.2 fun e he g => by
          rw [Bool.and_eq_true, decide_eq_true_eq, decide_eq_true_eq] at g
          exact absurd g.2 (Nat.not_lt.2 (hn e he g.1))
      rw [hnone]
      exact setReady_onlyAnswered h
    · exact if_pos (List.any_eq_true.2 ⟨e, he, by rw [decide_eq_true hr, decide_eq_true hi]; rfl⟩)
  case roles => exact fun s id d h hv => ⟨fun ho hi => roleSet_spec h hv ho hi, fun ho => roleSet_denied h hv ho⟩
  case pages =>
    intro s id d h hv hp hi hf hk ht
    obtain ⟨hfr, ha, hq⟩ := psWrite_spec h hk ht
    refine ⟨_, pageSet_spec h hv hp hi hf hk ht, hfr, ha, fun p hm hval => ?_, fun p hout => ?_⟩
    · exact (hq p).trans (if_pos (List.mem_filter.2 ⟨hm, hval⟩))
    · refine (hq p).trans (if_neg fun g => ?_)
      obtain ⟨g1, g2⟩ := List.mem_filter.1 g
      exact hout.elim (fun k => k g1) fun k => Bool.noConfusion (k.symm.trans g2)

end Sys2Proof.Machine
end

section
/-!
PROOF. Hamlets (16_security.md, R441 to R444): creation, commit, reset, destruction and the end of zeroisation; O47.
-/

namespace Sys2Proof.Machine

/-! ### The cores of a hamlet are cleared (R443, Table 16.3) -/

section
variable {s u : State} {id : Nat} {d : Desc} {n : SiteNo}

/-- A completion made ready answers its descriptor, whatever else has changed. -/
theorem setReady_answers {status : BitVec 7} {detail : Word32} {result : Word64} (hs : s.desc id = some d) (hr : d.ready = none)
    (hw : windowOver d.fetched d.deadline s.tb = false) (hd : ∀ k, u.desc k = s.desc k) (ht : u.tb = s.tb) :
    answered s (u.setReady id status detail result) id status detail result := by
  rw [setReady_eq, ht]
  refine ⟨⟨d, _, hs, desc_modDesc_same (readied_id _ _ _ _) ((hd id).trans hs), ?_⟩,
    fun k hk => (desc_modDesc_other (readied_id _ _ _ _) hk).trans (hd k)⟩
  rw [readied_inside hr hw]
  exact ⟨rfl, rfl⟩

/-- Outside the sites and the log all is as before. -/
def sitesAndLog (s t : State) : Prop := t = { s with sites := t.sites, flt := t.flt, jrnl := t.jrnl }

theorem sitesAndLog_trans {t : State} (h : sitesAndLog s t) (k : sitesAndLog t u) : sitesAndLog s u := by
  unfold sitesAndLog at h k ⊢
  rw [k, h]

theorem coreReset_hamlet (c : Site) : (c.coreReset false false).hamlet = c.hamlet :=
  foldl_keeps Site.hamlet (fun (d : Site) e => d.modEng e (·.coreReset c.cycle)) (fun _ _ => rfl) (List.finRange 4) c

theorem coreReset_idle (c : Site) : (c.coreReset false false).seq = .idle ∧ (c.coreReset false false).vregs = [] := by
  unfold Site.coreReset
  dsimp only
  exact ⟨rfl, if_neg Bool.false_ne_true⟩

theorem coreResets_spec (ns : List SiteNo) (s : State) : sitesAndLog s (s.coreResets ns false) ∧
    (∀ m, m ∉ ns → (s.coreResets ns false).site m = s.site m) ∧
    ∀ m ∈ ns, ∃ c : Site, (s.coreResets ns false).site m = c.coreReset false false ∧ c.hamlet = (s.site m).hamlet := by
  induction ns generalizing s with
  | nil => exact ⟨rfl, fun _ _ => rfl, fun m hm => nomatch hm⟩
  | cons a ns ih =>
    change sitesAndLog s ((s.coreReset a false false).coreResets ns false) ∧ (∀ m, _ → ((s.coreReset a false false).coreResets ns false).site m = _) ∧
      ∀ m ∈ _, ∃ c : Site, ((s.coreReset a false false).coreResets ns false).site m = _ ∧ _
    obtain ⟨hf, ho⟩ := coreReset_frame s a false false
    have ha := coreReset_site s a false false
    generalize s.coreReset a false false = v at hf ho ha ⊢
    obtain ⟨h1, h2, h3⟩ := ih v
    refine ⟨sitesAndLog_trans hf h1, fun m hm => ?_, fun m hm => ?_⟩
    · rw [List.mem_cons, not_or] at hm
      exact (h2 m hm.2).trans (ho m hm.1)
    · by_cases hn : m ∈ ns
      · obtain ⟨c, hc, hh⟩ := h3 m hn
        refine ⟨c, hc, hh.trans ?_⟩
        by_cases hma : m = a
        · rw [hma, ha, coreReset_hamlet]
        · rw [ho m hma]
      · obtain rfl := (List.mem_cons.1 hm).resolve_right hn
        exact ⟨_, (h2 m hn).trans ha, rfl⟩

/-- A core that has been reset and its stores zeroised, and that a hamlet command holds (Table 16.3). -/
def Site.cleared (c : Site) : Prop :=
  c.seq = .idle ∧ c.ws = [] ∧ c.gran = [] ∧ c.ps = [] ∧ c.sill = [] ∧ c.vregs = [] ∧ c.resetting = true

theorem clearCores_spec (s : State) (h : Hamlet) : sitesAndLog s (s.clearCores h) ∧
    (∀ m, m ∉ s.sitesOf h.cores → (s.clearCores h).site m = s.site m) ∧
    ∀ m ∈ s.sitesOf h.cores, ((s.clearCores h).site m).cleared ∧ ((s.clearCores h).site m).hamlet = (s.site m).hamlet := by
  obtain ⟨h1, h2, h3⟩ := coreResets_spec (s.sitesOf h.cores) s
  unfold State.clearCores
  generalize s.sitesOf h.cores = ns at h1 h2 h3 ⊢
  dsimp only
  generalize s.coreResets ns false = u at h1 h2 h3 ⊢
  have hfr := modSites_frame ns u fun c => { c.zeroise with resetting := true }
  refine ⟨sitesAndLog_trans h1 ?_, fun m hm => ?_, fun m hm => ?_⟩
  · unfold sitesAndLog
    generalize (u.modSites ns fun c => { c.zeroise with resetting := true }) = t at hfr ⊢
    rw [hfr]
  · rw [modSites_other ns u hm, h2 m hm]
  · obtain ⟨c, hc, hh⟩ := h3 m hm
    rw [modSites_same ns u (f := fun c => { c.zeroise with resetting := true }) (fun _ => rfl) hm, hc]
    have hi := coreReset_idle c
    have hham := coreReset_hamlet c
    generalize c.coreReset false false = r at hi hham ⊢
    exact ⟨⟨hi.1, rfl, rfl, rfl, rfl, hi.2, rfl⟩, hham.trans hh⟩

end

/-! ### HAMLET_CREATE (R442) -/

section
variable {s : State} {id : Nat} {d : Desc}

theorem hamletCommand_starts (ho : s.scopeOf d = none) (hst : (s.hamlet d.hm).st.cls = 0) : s.hamletCommand d = s.hamletStart d := by
  unfold State.hamletCommand
  rw [ho, if_neg (by decide)]
  exact if_pos hst

theorem hamletCommand_denied (ho : (s.scopeOf d).isSome = true) : s.hamletCommand d = s.done d 3 := if_pos ho

/-- The hamlet that a creation reserves. -/
def State.reserved (s : State) (d : Desc) : Hamlet := { d.hmOf with replaced := (s.hamlet d.hm).replaced }

/-- The state in which a creation has reserved what it names (R442). -/
def State.reserving (s : State) (d : Desc) : State := (s.modDesc d.id fun d => { d with started := true }).setHamlet d.hm (s.reserved d)

theorem hamletCreate_of (h : classStarts s id d 9) (ho : s.scopeOf d = none) (hf : d.createFits = true) (hn : (s.hamlet d.hm).st = .none_) :
    exec (.hamletCreate id) s = .next (if s.createStatus d.hmOf d.ring ≠ 0 then s.done d (s.createStatus d.hmOf d.ring)
      else (s.reserving d).clearCores d.hmOf) := by
  refine (runClass_body h rfl hf).trans (congrArg _ ?_)
  have hcls : d.cls.toNat = 9 := congrArg BitVec.toNat h.2.1
  rw [hamletCommand_starts ho (by rw [hn]; rfl)]
  unfold State.hamletStart
  rw [hcls]
  exact if_neg (not_not.2 hn)

/-- HAMLET_CREATE of a number not in use, its checks holding (R442, Table 16.3). -/
theorem hamletCreate_spec (h : classStarts s id d 9) (ho : s.scopeOf d = none) (hf : d.createFits = true) (hn : (s.hamlet d.hm).st = .none_)
    (hc : s.createStatus d.hmOf d.ring = 0) : completes (.hamletCreate id) s fun t =>
      t = { s with sites := t.sites, sec := t.sec, host := { s.host with descs := t.host.descs }, flt := t.flt, jrnl := t.jrnl } ∧
      t.hamlet d.hm = { d.hmOf with replaced := (s.hamlet d.hm).replaced } ∧
      (∀ k, k ≠ d.hm → t.hamlet k = s.hamlet k) ∧
      (∃ e, t.desc id = some e ∧ e.started = true ∧ e.ready = none) ∧
      (∀ n ∈ s.sitesOf (wordAt d.words 3), (t.site n).seq = .idle ∧ (t.site n).ws = [] ∧ (t.site n).gran = [] ∧
        (t.site n).ps = [] ∧ (t.site n).sill = [] ∧ (t.site n).vregs = [] ∧ (t.site n).resetting = true ∧
        (t.site n).hamlet = (s.site n).hamlet) ∧
      ∀ n, n ∉ s.sitesOf (wordAt d.words 3) → t.site n = s.site n := by
  refine ⟨_, hamletCreate_of h ho hf hn, ?_⟩
  rw [if_neg (not_not.2 hc)]
  have hid := classStarts_id h
  subst hid
  have hd : (s.reserving d).desc d.id = some { d with started := true } := desc_modDesc_same (s := s) (fun _ => rfl) h.1
  have hb : s.reserving d = { s with host := { s.host with descs := (s.reserving d).host.descs }, sec := (s.reserving d).sec } := rfl
  have hsame : (s.reserving d).hamlet d.hm = s.reserved d := State.hamlet_setHamlet_same _ d.hm _
  have hother : ∀ k, k ≠ d.hm → (s.reserving d).hamlet k = s.hamlet k := fun k hk => State.hamlet_setHamlet_other _ _ hk
  have hns : (s.reserving d).sitesOf d.hmOf.cores = s.sitesOf (wordAt d.words 3) := rfl
  have hsite (n : SiteNo) : (s.reserving d).site n = s.site n := rfl
  generalize s.reserving d = m at hd hb hsame hother hns hsite ⊢
  obtain ⟨h1, h2, h3⟩ := clearCores_spec m d.hmOf
  rw [hns] at h2 h3
  generalize m.clearCores d.hmOf = t at h1 h2 h3 ⊢
  have hham (k : HamletNo) : t.hamlet k = m.hamlet k := by rw [h1]; rfl
  refine ⟨by rw [h1, hb], (hham _).trans hsame, fun k hk => (hham k).trans (hother k hk), ⟨{ d with started := true }, ?_, rfl, (classStarts_open h).2⟩, fun n hn => ?_,
    fun n hn => (h2 n hn).trans (hsite n)⟩
  · rw [h1]
    exact hd
  · obtain ⟨⟨c1, c2, c3, c4, c5, c6, c7⟩, c8⟩ := h3 n hn
    exact ⟨c1, c2, c3, c4, c5, c6, c7, c8.trans (congrArg Site.hamlet (hsite n))⟩

end

/-! ### The end of a transition (R420, R421) -/

section
variable {s u : State} {n : HamletNo} {v : Hamlet} {id : Nat} {st : BitVec 7}

/-- A hamlet whose transition has ended, nothing being latched or absorbed. -/
def Hamlet.settled (h : Hamlet) : Hamlet := { h with desc := none, latched := none, absorbed := [], replaced := [] }

/-- A hamlet that no other command has met settles by losing its command alone. -/
theorem settled_of {h : Hamlet} (hl : h.latched = none) (ha : h.absorbed = []) (hr : h.replaced = []) : h.settled = { h with desc := none } := by
  cases h
  dsimp only at hl ha hr
  subst hl ha hr
  rfl

/-- The end of a transition that no other command has met answers its descriptor and settles the hamlet. -/
theorem endTransition_spec (u : State) (hd : v.desc = some id) (ha : v.absorbed = []) (hl : v.latched = none) (hr : v.replaced = [])
    (hc : (u.hamlet n).st.cls = 0) :
    u.endTransition n v st = { u with host := { u.host with descs := (u.setReady id st 0 0).host.descs }, sec := (u.endTransition n v st).sec } ∧
    (u.endTransition n v st).hamlet n = (u.hamlet n).settled ∧ ∀ k, k ≠ n → (u.endTransition n v st).hamlet k = u.hamlet k := by
  have he : u.endTransition n v st = ((u.setReady id st 0 0).modHamlet n Hamlet.settled).modHamlet n fun h => { h with replaced := [] } := by
    unfold State.endTransition
    rw [hd, ha, hl, hr]
    dsimp only [List.foldl_nil]
    rw [if_pos]
    · rfl
    · rw [State.hamlet_modHamlet_same]
      exact hc
  rw [he]
  refine ⟨rfl, ?_, fun k hk => ?_⟩
  · rw [State.hamlet_modHamlet_same, State.hamlet_modHamlet_same]
    rfl
  · rw [State.hamlet_modHamlet_other _ _ hk, State.hamlet_modHamlet_other _ _ hk]
    rfl

end

/-! ### Sites that fail the read-back (R442) -/

section
variable {s : State} {n : SiteNo}

theorem zeroiseFail_spec (s : State) (n : SiteNo) : sitesAndLog s (s.zeroiseFail n) ∧
    (s.zeroiseFail n).site n = { s.site n with bad := true, spare := false } ∧ (∀ m, m ≠ n → (s.zeroiseFail n).site m = s.site m) ∧
    (s.zeroiseFail n).mapBad 0 n.val = true ∧ ∃ r ∈ (s.zeroiseFail n).flt.buf, r.cls = 0x0709 := by
  unfold State.zeroiseFail
  have hrec := fault_mem s 0x0709 none (BitVec.ofNat 32 n.val) 0
  have hf : sitesAndLog s (s.fault 0x0709 none (BitVec.ofNat 32 n.val) 0) := rfl
  have hs (m : SiteNo) : (s.fault 0x0709 none (BitVec.ofNat 32 n.val) 0).site m = s.site m := rfl
  generalize s.fault 0x0709 none (BitVec.ofNat 32 n.val) 0 = u at hrec hf hs ⊢
  have hm := mapOut_frame u 0 n.val 0x0709
  have hb := mapOut_bad u 0 n.val 0x0709
  generalize u.mapOut 0 n.val 0x0709 = w at hm hb ⊢
  have hw (m : SiteNo) : w.site m = s.site m := by
    rw [← hs m, hm]
    rfl
  refine ⟨?_, ?_, fun m hne => ?_, hb, ?_⟩
  · refine sitesAndLog_trans hf ?_
    change w.modSite n _ = _
    rw [hm]
    rfl
  · rw [State.site_modSite_same, hw]
  · rw [State.site_modSite_other _ _ hne, hw]
  · change ∃ r ∈ w.flt.buf, _
    rw [hm]
    exact hrec

/-- What sites that fail the read-back leave: the sites differ at most in being bad, and the units mapped out stay so. -/
def failsMore (s t : State) : Prop :=
  sitesAndLog s t ∧ (∀ m, (t.site m).hamlet = (s.site m).hamlet) ∧ (∀ m, (s.site m).bad = true → (t.site m).bad = true) ∧
  ∀ k i, s.mapBad k i = true → t.mapBad k i = true

theorem failsMore_refl (s : State) : failsMore s s := ⟨rfl, fun _ => rfl, fun _ h => h, fun _ _ h => h⟩

theorem failsMore_trans {t u : State} (h : failsMore s t) (k : failsMore t u) : failsMore s u := by
  obtain ⟨h1, h2, h3, h4⟩ := h
  obtain ⟨k1, k2, k3, k4⟩ := k
  exact ⟨sitesAndLog_trans h1 k1, fun m => (k2 m).trans (h2 m), fun m hm => k3 m (h3 m hm), fun a b hm => k4 a b (h4 a b hm)⟩

theorem append_fault_fieldMap (j : Journal) (k : Nat) : (j.append (.fault k)).fieldMap = j.fieldMap := by
  unfold Journal.append
  dsimp only
  split
  · rfl
  · rfl

theorem fault_mapBad (s : State) (cls : BitVec 16) (m : Option SiteNo) (d : Word32) (a : Word64) (k i : Nat) :
    (s.fault cls m d a).mapBad k i = s.mapBad k i :=
  congrArg (fun l => List.contains l (unitKey k i)) (append_fault_fieldMap s.jrnl _)

theorem mapOut_keepsBad (s : State) (unit index : Nat) (cause : BitVec 16) (k i : Nat) (h : s.mapBad k i = true) :
    (s.mapOut unit index cause).mapBad k i = true := by
  unfold State.mapOut
  split
  · exact h
  · exact List.contains_iff_mem.mpr (List.mem_append_left _ (List.contains_iff_mem.mp h))

theorem failsMore_zeroiseFail (s : State) (n : SiteNo) : failsMore s (s.zeroiseFail n) := by
  obtain ⟨h1, h2, h3, -, -⟩ := zeroiseFail_spec s n
  refine ⟨h1, fun m => ?_, fun m hm => ?_, fun k i h => ?_⟩
  · by_cases h : m = n
    · rw [h, h2]
    · rw [h3 m h]
  · by_cases h : m = n
    · rw [h, h2]
    · rw [h3 m h]
      exact hm
  · exact mapOut_keepsBad (s.fault 0x0709 none (BitVec.ofNat 32 n.val) 0) 0 n.val 0x0709 k i ((fault_mapBad s _ _ _ _ k i).trans h)

/-- Each site that fails is bad, mapped out and recorded (R442). -/
theorem zeroiseFails_spec (bad : List SiteNo) (s : State) : failsMore s (bad.foldl State.zeroiseFail s) ∧
    ∀ n ∈ bad, ((bad.foldl State.zeroiseFail s).site n).bad = true ∧ (bad.foldl State.zeroiseFail s).mapBad 0 n.val = true ∧
      ∃ r ∈ (bad.foldl State.zeroiseFail s).flt.buf, r.cls = 0x0709 := by
  refine ⟨foldl_related failsMore_refl (fun _ _ _ => failsMore_trans) failsMore_zeroiseFail bad s, fun n hn => ?_⟩
  have hreach := foldl_reached failsMore_refl (fun _ _ _ => failsMore_trans) failsMore_zeroiseFail
    (Q := fun t => (t.site n).bad = true ∧ t.mapBad 0 n.val = true) (fun v t h hq => ⟨h.2.2.1 n hq.1, h.2.2.2 0 n.val hq.2⟩) hn s
    (fun u _ => by
      obtain ⟨-, h2, -, h4, -⟩ := zeroiseFail_spec u n
      exact ⟨by rw [h2], h4⟩)
  refine ⟨hreach.1, hreach.2, ?_⟩
  rcases List.eq_nil_or_concat bad with h | ⟨l, a, h⟩
  · rw [h] at hn
    exact nomatch hn
  · rw [h, List.concat_eq_append, List.foldl_concat]
    exact (zeroiseFail_spec _ a).2.2.2.2

end

/-! ### HAMLET_CREATE_COMMIT that fails (R434, R442) -/

section
variable {s : State} {h : HamletNo} {bad : List SiteNo} {id : Nat} {d : Desc}

/-- The sites of a hamlet that fail the read-back. -/
def State.failing (s : State) (h : HamletNo) (bad : List SiteNo) : List SiteNo :=
  bad.filter fun n => (s.sitesOf (s.hamlet h).cores).contains n

theorem failing_none (hb : ∀ n ∈ bad, n ∉ s.sitesOf (s.hamlet h).cores) : s.failing h bad = [] :=
  List.filter_eq_nil_iff.2 fun n hn g => hb n hn (List.contains_iff_mem.1 g)

/-- Sites whose zeroisation has ended are held in reset no more. -/
def State.releaseSites (s : State) (ns : List SiteNo) : State := s.modSites ns fun c => { c with resetting := false }

theorem releaseSites_spec (s : State) (ns : List SiteNo) : (∃ S, s.releaseSites ns = { s with sites := S }) ∧
    ∀ m, (s.releaseSites ns).site m = if m ∈ ns then { s.site m with resetting := false } else s.site m := by
  unfold State.releaseSites
  refine ⟨⟨_, modSites_frame ns s _⟩, fun m => ?_⟩
  split
  · next hm => exact modSites_same ns s (f := fun c => { c with resetting := false }) (fun _ => rfl) hm
  · next hm => exact modSites_other ns s hm

/-- The state in which a failed creation has released its reservation. -/
def State.unreserved (s : State) (h : HamletNo) (bad : List SiteNo) : State :=
  (((s.failing h bad).foldl State.zeroiseFail s).releaseSites (s.sitesOf (s.hamlet h).cores)).setHamlet h {}

theorem hamletCreateCommit_fails (hs : (s.hamlet h).st = .creating) (hf : (s.failing h bad).isEmpty = false ∨ s.sec.entropyOk = false) :
    exec (.hamletCreateCommit h bad) s = .next ((s.unreserved h bad).endTransition h (s.hamlet h) 4) := by
  change execHamletCreateCommit h bad s = _
  unfold execHamletCreateCommit
  dsimp only
  rw [if_neg (not_not.2 hs)]
  exact if_pos hf

theorem commitFails_spec (hs : (s.hamlet h).st = .creating) (hl : (s.hamlet h).latched = none) (ha : (s.hamlet h).absorbed = [])
    (hr : (s.hamlet h).replaced = []) (hi : (s.hamlet h).desc = some id) (hd : s.desc id = some d) (hn : d.ready = none)
    (hw : windowOver d.fetched d.deadline s.tb = false) (hf : (s.failing h bad).isEmpty = false ∨ s.sec.entropyOk = false) :
    completes (.hamletCreateCommit h bad) s fun t => answered s t id 4 0 0 ∧ t.hamlet h = {} ∧ (∀ k, k ≠ h → t.hamlet k = s.hamlet k) ∧
      t.mem = s.mem ∧ t.links = s.links ∧ t.host.rings = s.host.rings ∧ t.coll = s.coll ∧
      ∀ m, t.site m = if m ∈ s.sitesOf (s.hamlet h).cores then { ((s.failing h bad).foldl State.zeroiseFail s).site m with resetting := false }
        else ((s.failing h bad).foldl State.zeroiseFail s).site m := by
  refine ⟨_, hamletCreateCommit_fails hs hf, ?_⟩
  obtain ⟨hz, -⟩ := (zeroiseFails_spec (s.failing h bad) s).1
  unfold State.unreserved
  generalize (s.failing h bad).foldl State.zeroiseFail s = u at hz ⊢
  obtain ⟨⟨S, hS⟩, hsite⟩ := releaseSites_spec u (s.sitesOf (s.hamlet h).cores)
  generalize u.releaseSites (s.sitesOf (s.hamlet h).cores) = w at hS hsite ⊢
  have hsame := State.hamlet_setHamlet_same w h {}
  have hother := fun k (hk : k ≠ h) => State.hamlet_setHamlet_other w {} hk
  have hx : w.setHamlet h {} = { w with sec := (w.setHamlet h {}).sec } := rfl
  generalize w.setHamlet h {} = x at hsame hother hx ⊢
  obtain ⟨e1, e2, e3⟩ := endTransition_spec (st := 4) x hi ha hl hr (by rw [hsame]; rfl)
  have hxd (k : Nat) : x.desc k = s.desc k := by rw [hx, hS, hz]; rfl
  have hans := setReady_answers (u := x) (status := 4) (detail := 0) (result := 0) hd hn hw hxd (by rw [hx, hS, hz])
  generalize x.endTransition h (s.hamlet h) 4 = t at e1 e2 e3 ⊢
  have htd (k : Nat) : t.desc k = (x.setReady id 4 0 0).desc k := by rw [e1]; rfl
  refine ⟨?_, e2.trans (by rw [hsame]; rfl), fun k hk => (e3 k hk).trans ((hother k hk).trans ?_), ?_, ?_, ?_, ?_, fun m => Eq.trans ?_ (hsite m)⟩
  · obtain ⟨⟨d', e, h1, h2, h3⟩, h4⟩ := hans
    exact ⟨⟨d', e, h1, (htd id).trans h2, h3⟩, fun k hk => (htd k).trans (h4 k hk)⟩
  · rw [hS, hz]
    rfl
  · rw [e1, hx, hS, hz]
  · rw [e1, hx, hS, hz]
  · rw [e1, hx, hS, hz]
  · rw [e1, hx, hS, hz]
  · rw [e1, hx]
    rfl

end

/-! ### What a new hamlet owns (R240, R436, R438, R441) -/

section
variable {s : State}

theorem page_modPages {f : Page → Page} (hf : ∀ e lit, (f e).seen lit = f (e.seen lit)) (s : State) (p k q : Nat) :
    (s.modPages p k f).page q = if q ∈ (List.range k).map (fun i => p + i) then f (s.page q) else s.page q := by
  have he : s.modPages p k f = ((List.range k).map fun i => p + i).foldl (fun s p => s.modPage p f) s := by
    rw [List.foldl_map]
    rfl
  rw [he]
  exact foldl_touches (F := fun (s : State) p => s.modPage p f) (read := fun q (v : State) => v.page q) (new := fun _ => f)
    (fun v p => page_modPage_same v p hf) (fun v p q hq => page_modPage_other v f hq)
    (List.nodup_range.map fun _ _ h => Nat.add_left_cancel h) s q

theorem page_zeroPages (s : State) (p k q : Nat) : (s.zeroPages p k).page q = s.page q := rfl

/-- A page takes a tally kind and is zeroised (R240). -/
def State.tallyPage (s : State) (k : BitVec 3) (p : Nat) : State := (s.modPage p fun v => { v with kind := k }).zeroPages p 1

def State.tallyKinds (s : State) (k : BitVec 3) (ps : List Nat) : State := ps.foldl (fun s p => s.tallyPage k p) s

theorem tallyPage_same (s : State) (k : BitVec 3) (p : Nat) : (s.tallyPage k p).page p = { s.page p with kind := k } :=
  (page_zeroPages _ p 1 p).trans (page_modPage_same s p fun _ _ => rfl)

theorem tallyPage_other (s : State) (k : BitVec 3) {p q : Nat} (h : q ≠ p) : (s.tallyPage k p).page q = s.page q :=
  (page_zeroPages _ p 1 q).trans (page_modPage_other s _ h)

theorem page_tallyKinds (s : State) (k : BitVec 3) {ps : List Nat} (hn : ps.Nodup) (q : Nat) :
    (s.tallyKinds k ps).page q = if q ∈ ps then { s.page q with kind := k } else s.page q :=
  foldl_touches (F := fun (s : State) p => s.tallyPage k p) (read := fun q (v : State) => v.page q)
    (new := fun _ v => { v with kind := k }) (fun v p => tallyPage_same v k p) (fun v p q hq => tallyPage_other v k hq) hn s q

/-- Outside the memory all is as before. -/
def onlyMem (s t : State) : Prop := t = { s with mem := t.mem }

theorem onlyMem_trans {t u : State} (h : onlyMem s t) (k : onlyMem t u) : onlyMem s u := by
  unfold onlyMem at h k ⊢
  rw [k, h]

theorem onlyMem_tallyKinds (s : State) (k : BitVec 3) (ps : List Nat) : onlyMem s (s.tallyKinds k ps) :=
  foldl_related (P := onlyMem) (fun _ => rfl) (fun _ _ _ => onlyMem_trans) (F := fun s p => s.tallyPage k p) (fun _ _ => rfl) ps s

theorem onlyMem_modPages (s : State) (p k : Nat) (f : Page → Page) : onlyMem s (s.modPages p k f) := by
  have h := modPages_frame s p k f
  unfold onlyMem
  generalize s.modPages p k f = t at h ⊢
  rw [h]

theorem tallyPagesOf_spec (s : State) (h : Hamlet) (west : Bool) : (s.tallyPagesOf h west).Nodup ∧
    ∀ p ∈ s.tallyPagesOf h west, p ∈ h.pageList ∧ isWest (s.page p).field = west := by
  have hn : h.pageList.Nodup := List.nodup_range.map fun _ _ h => Nat.add_left_cancel h
  refine ⟨(List.take_sublist _ _).nodup (hn.filter _), fun p hp => ?_⟩
  obtain ⟨h1, h2⟩ := List.mem_filter.1 (List.mem_of_mem_take hp)
  exact ⟨h1, of_decide_eq_true h2⟩

/-- The pages of a new hamlet (R240, R436, R442). -/
theorem givePages_spec (s : State) (n : HamletNo) (h : Hamlet) (key : Nat) : onlyMem s (s.givePages n h key) ∧
    (∀ p ∈ h.pageList, ((s.givePages n h key).page p).owner = some n ∧ ((s.givePages n h key).page p).enc = true ∧
      (p ∈ s.tallyPagesOf h true → ((s.givePages n h key).page p).kind = 3) ∧ (p ∈ s.tallyPagesOf h false → ((s.givePages n h key).page p).kind = 4)) ∧
    ∀ p, p ∉ h.pageList → (s.givePages n h key).page p = s.page p := by
  have he : s.givePages n h key = (((s.losePages h.pageFirst.toNat h.pageCount.toNat key).modPages h.pageFirst.toNat h.pageCount.toNat
      fun p => { p with owner := some n, enc := true }).tallyKinds 3 (s.tallyPagesOf h true)).tallyKinds 4 (s.tallyPagesOf h false) := rfl
  obtain ⟨hna, ha⟩ := tallyPagesOf_spec s h true
  obtain ⟨hnb, hb⟩ := tallyPagesOf_spec s h false
  have hl : onlyMem s (s.losePages h.pageFirst.toNat h.pageCount.toNat key) := rfl
  have hlp (p : Nat) : (s.losePages h.pageFirst.toNat h.pageCount.toNat key).page p = s.page p := rfl
  rw [he]
  generalize s.losePages h.pageFirst.toNat h.pageCount.toNat key = u at hl hlp ⊢
  have hm := onlyMem_modPages u h.pageFirst.toNat h.pageCount.toNat fun p => { p with owner := some n, enc := true }
  have hmp (q : Nat) := page_modPages (f := fun p => { p with owner := some n, enc := true }) (fun _ _ => rfl) u h.pageFirst.toNat h.pageCount.toNat q
  generalize (u.modPages h.pageFirst.toNat h.pageCount.toNat fun p => { p with owner := some n, enc := true }) = w at hm hmp ⊢
  have hp (q : Nat) := (page_tallyKinds (w.tallyKinds 3 (s.tallyPagesOf h true)) 4 hnb q)
  have hq (q : Nat) := page_tallyKinds w 3 hna q
  refine ⟨onlyMem_trans hl (onlyMem_trans hm (onlyMem_trans (onlyMem_tallyKinds w 3 _) (onlyMem_tallyKinds _ 4 _))), fun p hin => ?_, fun p hout => ?_⟩
  · have hw : w.page p = { s.page p with owner := some n, enc := true } := by
      rw [hmp p, hlp]
      exact if_pos hin
    rw [hp p, hq p, hw]
    by_cases h4 : p ∈ s.tallyPagesOf h false
    · rw [if_pos h4]
      have h3 : p ∉ s.tallyPagesOf h true := fun g => Bool.noConfusion ((ha p g).2.symm.trans (hb p h4).2)
      exact ⟨by rw [if_neg h3], by rw [if_neg h3], fun g => absurd g h3, fun _ => rfl⟩
    · rw [if_neg h4]
      by_cases h3 : p ∈ s.tallyPagesOf h true
      · rw [if_pos h3]
        exact ⟨rfl, rfl, fun _ => rfl, fun g => absurd g h4⟩
      · rw [if_neg h3]
        exact ⟨rfl, rfl, fun g => absurd g h3, fun g => absurd g h4⟩
  · rw [hp p, if_neg fun g => hout (hb p g).1, hq p, if_neg fun g => hout (ha p g).1, hmp p, hlp]
    exact if_neg hout

end

/-! ### Rings, bells and links take an owner (R438, R441) -/

section
variable {s : State}

/-- The same change, idempotent, of each of several parts. -/
theorem foldl_marks {σ α β : Type} [DecidableEq α] {F : σ → α → σ} {read : α → σ → β} {new : β → β}
    (hsame : ∀ s a, read a (F s a) = new (read a s)) (hother : ∀ s a b, b ≠ a → read b (F s a) = read b s)
    (hnew : ∀ x, new (new x) = new x) (L : List α) (s : σ) (b : α) : read b (L.foldl F s) = if b ∈ L then new (read b s) else read b s := by
  induction L generalizing s with
  | nil => rfl
  | cons a L ih =>
    rw [List.foldl_cons, ih]
    by_cases hb : b = a
    · subst hb
      rw [hsame, hnew, ite_self, if_pos List.mem_cons_self]
    · rw [hother s a b hb]
      simp only [List.mem_cons, hb, false_or]

/-- Rings take an owner. -/
def State.ownRings (s : State) (rs : List RingNo) (o : Option HamletNo) : State :=
  rs.foldl (fun s r => s.modRing r fun g => { g with owner := o }) s

/-- Bells take an owner. -/
def State.ownBells (s : State) (bs : List BellNo) (o : Option HamletNo) : State :=
  bs.foldl (fun s b => s.setBell b { s.bell b with owner := o }) s

/-- A link takes an owner, and its confirmation starts. -/
def State.ownLink (s : State) (o : Option HamletNo) (l : LinkNo) : State := (s.modLink l fun k => { k with owner := o }).startConfirm l

def State.ownLinks (s : State) (ls : List LinkNo) (o : Option HamletNo) : State := ls.foldl (fun s l => s.ownLink o l) s

theorem setOwners_eq (s : State) (h : Hamlet) (o : Option HamletNo) :
    s.setOwners h o = ((s.ownRings h.ringList o).ownBells h.bellList o).ownLinks h.linkList o := rfl

theorem ownRings_spec (s : State) (rs : List RingNo) (o : Option HamletNo) :
    (∃ R, s.ownRings rs o = { s with host := { s.host with rings := R } }) ∧
    ∀ r, (s.ownRings rs o).ring r = if r ∈ rs then { s.ring r with owner := o } else s.ring r := by
  refine ⟨foldl_inv (fun v : State => ∃ R, v = { s with host := { s.host with rings := R } })
    (fun (s : State) r => s.modRing r fun g => { g with owner := o }) ?_ rs s ⟨_, rfl⟩, fun r => ?_⟩
  · rintro _ r ⟨R, rfl⟩
    exact ⟨_, rfl⟩
  · exact foldl_marks (F := fun (s : State) r => s.modRing r fun g => { g with owner := o }) (read := fun r (v : State) => v.ring r)
      (new := fun g => { g with owner := o }) (fun v r => State.ring_modRing_same v r _) (fun v r q hq => State.ring_modRing_other v _ hq) (fun _ => rfl) rs s r

theorem ownBells_spec (s : State) (bs : List BellNo) (o : Option HamletNo) :
    (∃ B, s.ownBells bs o = { s with coll := { s.coll with bells := B } }) ∧
    ∀ b, (s.ownBells bs o).bell b = if b ∈ bs then { s.bell b with owner := o } else s.bell b := by
  refine ⟨foldl_inv (fun v : State => ∃ B, v = { s with coll := { s.coll with bells := B } })
    (fun (s : State) b => s.setBell b { s.bell b with owner := o }) ?_ bs s ⟨_, rfl⟩, fun b => ?_⟩
  · rintro _ b ⟨B, rfl⟩
    exact ⟨_, rfl⟩
  · exact foldl_marks (F := fun (s : State) b => s.setBell b { s.bell b with owner := o }) (read := fun b (v : State) => v.bell b)
      (new := fun g => { g with owner := o }) (fun v b => State.bell_setBell_same v b _) (fun v b q hq => State.bell_setBell_other v _ hq) (fun _ => rfl) bs s b

theorem startConfirm_spec (s : State) (l : LinkNo) : (∃ L O, s.startConfirm l = { s with links := L, out := O }) ∧
    ∀ m, ((s.startConfirm l).link m).owner = (s.link m).owner := by
  unfold State.startConfirm
  dsimp only
  have ho : ∀ m, ((s.setLink l { s.link l with confirmed := false, rekeying := decide ((s.link l).st = .up) }).link m).owner = (s.link m).owner := fun m => by
    by_cases h : m = l
    · rw [h, State.link_setLink_same]
    · rw [State.link_setLink_other _ _ h]
  split
  · exact ⟨⟨_, _, rfl⟩, ho⟩
  · exact ⟨⟨_, _, rfl⟩, ho⟩

theorem ownLink_spec (s : State) (o : Option HamletNo) (l : LinkNo) : (∃ L O, s.ownLink o l = { s with links := L, out := O }) ∧
    ((s.ownLink o l).link l).owner = o ∧ ∀ m, m ≠ l → ((s.ownLink o l).link m).owner = (s.link m).owner := by
  unfold State.ownLink
  obtain ⟨⟨L, O, h1⟩, h2⟩ := startConfirm_spec (s.modLink l fun k => { k with owner := o }) l
  refine ⟨⟨L, O, h1⟩, ?_, fun m hm => ?_⟩
  · rw [h2, State.link_modLink_same]
  · rw [h2, State.link_modLink_other _ _ hm]

theorem ownLinks_spec (s : State) (ls : List LinkNo) (o : Option HamletNo) : (∃ L O, s.ownLinks ls o = { s with links := L, out := O }) ∧
    ∀ l, ((s.ownLinks ls o).link l).owner = if l ∈ ls then o else (s.link l).owner := by
  refine ⟨foldl_inv (fun v : State => ∃ L O, v = { s with links := L, out := O }) (fun (s : State) l => s.ownLink o l) ?_ ls s ⟨_, _, rfl⟩, fun l => ?_⟩
  · rintro _ l ⟨L, O, rfl⟩
    obtain ⟨L', O', h⟩ := (ownLink_spec { s with links := L, out := O } o l).1
    exact ⟨L', O', h⟩
  · exact foldl_marks (F := fun (s : State) l => s.ownLink o l) (read := fun l (v : State) => (v.link l).owner) (new := fun _ => o)
      (fun v l => (ownLink_spec v o l).2.1) (fun v l q hq => (ownLink_spec v o l).2.2 q hq) (fun _ => rfl) ls s l

/-- All that setting the owner of a hamlet's rings, bells and links leaves. -/
theorem setOwners_spec (s : State) (h : Hamlet) (o : Option HamletNo) :
    (∃ R B L O, s.setOwners h o = { s with host := { s.host with rings := R }, coll := { s.coll with bells := B }, links := L, out := O }) ∧
    (∀ r, (s.setOwners h o).ring r = if h.rings.getLsbD r.val then { s.ring r with owner := o } else s.ring r) ∧
    (∀ b, (s.setOwners h o).bell b = if b ∈ h.bellList then { s.bell b with owner := o } else s.bell b) ∧
    ∀ l, ((s.setOwners h o).link l).owner = if h.links.getLsbD l.val then o else (s.link l).owner := by
  rw [setOwners_eq]
  obtain ⟨⟨R, hR⟩, hr⟩ := ownRings_spec s h.ringList o
  generalize s.ownRings h.ringList o = u at hR hr ⊢
  obtain ⟨⟨B, hB⟩, hb⟩ := ownBells_spec u h.bellList o
  generalize u.ownBells h.bellList o = v at hB hb ⊢
  obtain ⟨⟨L, O, hL⟩, hl⟩ := ownLinks_spec v h.linkList o
  generalize v.ownLinks h.linkList o = w at hL hl ⊢
  have hmr (r : RingNo) : (r ∈ h.ringList) = (h.rings.getLsbD r.val = true) :=
    propext (List.mem_filter.trans ⟨And.right, fun g => ⟨List.mem_finRange r, g⟩⟩)
  have hml (l : LinkNo) : (l ∈ h.linkList) = (h.links.getLsbD l.val = true) :=
    propext (List.mem_filter.trans ⟨And.right, fun g => ⟨List.mem_finRange l, g⟩⟩)
  refine ⟨⟨R, B, L, O, by rw [hL, hB, hR]⟩, fun r => ?_, fun b => ?_, fun l => ?_⟩
  · simp only [← hmr]
    rw [← hr, hL, hB]
    rfl
  · have hu : u.bell b = s.bell b := by rw [hR]; rfl
    rw [← hu, ← hb, hL]
    rfl
  · have hv : v.link l = s.link l := by rw [hB, hR]; rfl
    simp only [← hml]
    rw [← hv]
    exact hl l

end

/-! ### HAMLET_CREATE_COMMIT that makes the hamlet live (R441, R442) -/

section
variable {s : State} {h : HamletNo} {bad : List SiteNo} {id : Nat} {d : Desc}

/-- Sites that a new hamlet owns, held in reset no more. -/
def State.ownSites (s : State) (ns : List SiteNo) (o : Option HamletNo) : State := s.modSites ns fun c => { c with hamlet := o, resetting := false }

theorem ownSites_spec (s : State) (ns : List SiteNo) (o : Option HamletNo) : (∃ S, s.ownSites ns o = { s with sites := S }) ∧
    ∀ m, (s.ownSites ns o).site m = if m ∈ ns then { s.site m with hamlet := o, resetting := false } else s.site m := by
  unfold State.ownSites
  refine ⟨⟨_, modSites_frame ns s _⟩, fun m => ?_⟩
  split
  · next hm => exact modSites_same ns s (f := fun c => { c with hamlet := o, resetting := false }) (fun _ => rfl) hm
  · next hm => exact modSites_other ns s hm

/-- A created hamlet with its new key. -/
def State.keyed (s : State) (h : HamletNo) : State :=
  s.takeKey.1.setHamlet h { s.hamlet h with st := .live, memKey := some s.takeKey.2, binding := 0 }

/-- The state in which a hamlet has taken all that it named. -/
def State.created (s : State) (h : HamletNo) : State :=
  (((s.keyed h).givePages h (s.hamlet h) s.takeKey.2).setOwners (s.hamlet h) (some h)).ownSites (s.sitesOf (s.hamlet h).cores) (some h)

theorem hamletCreateCommit_succeeds (hs : (s.hamlet h).st = .creating) (hb : s.failing h bad = []) (he : s.sec.entropyOk = true) :
    exec (.hamletCreateCommit h bad) s = .next ((s.created h).endTransition h (s.hamlet h) 0) := by
  change execHamletCreateCommit h bad s = _
  unfold execHamletCreateCommit
  dsimp only
  rw [if_neg (not_not.2 hs)]
  refine if_neg ?_
  change ¬ ((s.failing h bad).isEmpty = false ∨ s.sec.entropyOk = false)
  rw [hb, he]
  decide

theorem keyed_spec (s : State) (h : HamletNo) : (∃ K S, s.keyed h = { s with mem := { s.mem with keyCount := K }, sec := S }) ∧
    (s.keyed h).hamlet h = { s.hamlet h with st := .live, memKey := some s.takeKey.2, binding := 0 } ∧
    (∀ k, k ≠ h → (s.keyed h).hamlet k = s.hamlet k) ∧ ∀ p, (s.keyed h).page p = s.page p := by
  have hf : s.keyed h = { s with mem := { s.mem with keyCount := s.mem.keyCount + 1 }, sec := (s.keyed h).sec } := rfl
  have hk : ∀ k, k ≠ h → s.takeKey.1.hamlet k = s.hamlet k := fun _ _ => rfl
  refine ⟨⟨_, _, hf⟩, State.hamlet_setHamlet_same _ h _, fun k hne => (State.hamlet_setHamlet_other _ _ hne).trans (hk k hne), fun p => ?_⟩
  rw [hf]
  rfl

theorem keyed_tallyPages (s : State) (h : HamletNo) (v : Hamlet) (west : Bool) : (s.keyed h).tallyPagesOf v west = s.tallyPagesOf v west := by
  unfold State.tallyPagesOf
  simp only [(keyed_spec s h).2.2.2]

end

section
variable {s : State} {h : HamletNo} {bad : List SiteNo} {id : Nat} {d : Desc}

/-- What a hamlet that has just been created owns, and how it stands (R240, R436, R441, R442). -/
theorem created_spec (s : State) (h : HamletNo) :
    (∃ M R B L O S Q, s.created h = { s with mem := M, host := { s.host with rings := R }, coll := { s.coll with bells := B }, links := L, out := O, sites := S, sec := Q }) ∧
    (s.created h).hamlet h = { s.hamlet h with st := .live, memKey := some s.takeKey.2, binding := 0 } ∧
    (∀ k, k ≠ h → (s.created h).hamlet k = s.hamlet k) ∧
    (∀ n, (s.created h).site n = if n ∈ s.sitesOf (s.hamlet h).cores then { s.site n with hamlet := some h, resetting := false } else s.site n) ∧
    (∀ r, (s.created h).ring r = if (s.hamlet h).rings.getLsbD r.val then { s.ring r with owner := some h } else s.ring r) ∧
    (∀ l, ((s.created h).link l).owner = if (s.hamlet h).links.getLsbD l.val then some h else (s.link l).owner) ∧
    (∀ b, (s.created h).bell b = if b ∈ (s.hamlet h).bellList then { s.bell b with owner := some h } else s.bell b) ∧
    (∀ p ∈ (s.hamlet h).pageList, ((s.created h).page p).owner = some h ∧ ((s.created h).page p).enc = true ∧
      (p ∈ s.tallyPagesOf (s.hamlet h) true → ((s.created h).page p).kind = 3) ∧ (p ∈ s.tallyPagesOf (s.hamlet h) false → ((s.created h).page p).kind = 4)) ∧
    ∀ p, p ∉ (s.hamlet h).pageList → (s.created h).page p = s.page p := by
  unfold State.created
  obtain ⟨⟨K, Q, ha⟩, ha1, ha2, ha3⟩ := keyed_spec s h
  obtain ⟨hb, hb1, hb2⟩ := givePages_spec (s.keyed h) h (s.hamlet h) s.takeKey.2
  rw [keyed_tallyPages, keyed_tallyPages] at hb1
  generalize s.keyed h = a at ha ha1 ha2 ha3 hb hb1 hb2 ⊢
  generalize a.givePages h (s.hamlet h) s.takeKey.2 = b at hb hb1 hb2 ⊢
  obtain ⟨⟨R, B, L, O, hc⟩, hc1, hc2, hc3⟩ := setOwners_spec b (s.hamlet h) (some h)
  generalize b.setOwners (s.hamlet h) (some h) = c at hc hc1 hc2 hc3 ⊢
  obtain ⟨⟨S, he⟩, he1⟩ := ownSites_spec c (s.sitesOf (s.hamlet h).cores) (some h)
  generalize c.ownSites (s.sitesOf (s.hamlet h).cores) (some h) = e at he he1 ⊢
  have hham (k : HamletNo) : e.hamlet k = a.hamlet k := by rw [he, hc, hb]; rfl
  have hsite (n : SiteNo) : c.site n = s.site n := by rw [hc, hb, ha]; rfl
  have hring (r : RingNo) : e.ring r = c.ring r := by rw [he]; rfl
  have hbring (r : RingNo) : b.ring r = s.ring r := by rw [hb, ha]; rfl
  have hlink (l : LinkNo) : e.link l = c.link l := by rw [he]; rfl
  have hblink (l : LinkNo) : b.link l = s.link l := by rw [hb, ha]; rfl
  have hbell (x : BellNo) : e.bell x = c.bell x := by rw [he]; rfl
  have hbbell (x : BellNo) : b.bell x = s.bell x := by rw [hb, ha]; rfl
  have hpage (p : Nat) : e.page p = b.page p := by rw [he, hc]; rfl
  refine ⟨⟨b.mem, R, B, L, O, S, Q, ?_⟩, (hham h).trans ha1, fun k hk => (hham k).trans (ha2 k hk), fun n => ?_, fun r => ?_, fun l => ?_, fun x => ?_,
    fun p hp => ?_, fun p hp => (hpage p).trans ((hb2 p hp).trans (ha3 p))⟩
  · rw [he, hc]
    unfold onlyMem at hb
    generalize b.mem = M at hb
    rw [hb, ha]
  · rw [he1, hsite]
  · rw [hring, hc1, hbring]
  · rw [hlink, hc3, hblink]
  · rw [hbell, hc2, hbbell]
  · rw [hpage]
    exact hb1 p hp

/-- HAMLET_CREATE_COMMIT with every site good and the DRBG running (R441, R442). -/
theorem commitSucceeds_spec (hs : (s.hamlet h).st = .creating) (hl : (s.hamlet h).latched = none) (ha : (s.hamlet h).absorbed = [])
    (hr : (s.hamlet h).replaced = []) (hi : (s.hamlet h).desc = some id) (hd : s.desc id = some d) (hn : d.ready = none)
    (hw : windowOver d.fetched d.deadline s.tb = false) (he : s.sec.entropyOk = true) (hb : s.failing h bad = []) :
    completes (.hamletCreateCommit h bad) s fun t => answered s t id 0 0 0 ∧
      t.hamlet h = { s.hamlet h with st := .live, memKey := (t.hamlet h).memKey, binding := 0, desc := none } ∧
      (t.hamlet h).memKey.isSome = true ∧ (∀ k, k ≠ h → t.hamlet k = s.hamlet k) ∧
      (∀ n ∈ s.sitesOf (s.hamlet h).cores, t.site n = { s.site n with hamlet := some h, resetting := false }) ∧
      (∀ n, n ∉ s.sitesOf (s.hamlet h).cores → t.site n = s.site n) ∧
      (∀ r : RingNo, t.ring r = if (s.hamlet h).rings.getLsbD r.val then { s.ring r with owner := some h } else s.ring r) ∧
      (∀ l : LinkNo, (t.link l).owner = if (s.hamlet h).links.getLsbD l.val then some h else (s.link l).owner) ∧
      (∀ b ∈ (s.hamlet h).bellList, t.bell b = { s.bell b with owner := some h }) ∧
      (∀ b, b ∉ (s.hamlet h).bellList → t.bell b = s.bell b) ∧
      (∀ p ∈ (s.hamlet h).pageList, (t.page p).owner = some h ∧ (t.page p).enc = true ∧
        (p ∈ s.tallyPagesOf (s.hamlet h) true → (t.page p).kind = 3) ∧ (p ∈ s.tallyPagesOf (s.hamlet h) false → (t.page p).kind = 4)) ∧
      ∀ p, p ∉ (s.hamlet h).pageList → t.page p = s.page p := by
  refine ⟨_, hamletCreateCommit_succeeds hs hb he, ?_⟩
  obtain ⟨⟨M, R, B, L, O, S, Q, hf⟩, hh, hk, hsite, hring, hlink, hbell, hpage, hout⟩ := created_spec s h
  generalize s.created h = u at hf hh hk hsite hring hlink hbell hpage hout ⊢
  obtain ⟨e1, e2, e3⟩ := endTransition_spec (st := 0) u hi ha hl hr (by rw [hh]; rfl)
  have hans := setReady_answers (u := u) (status := 0) (detail := 0) (result := 0) hd hn hw (fun k => by rw [hf]; rfl) (by rw [hf])
  generalize u.endTransition h (s.hamlet h) 0 = t at e1 e2 e3 ⊢
  have htd (k : Nat) : t.desc k = (u.setReady id 0 0 0).desc k := by rw [e1]; rfl
  have tsite (n : SiteNo) : t.site n = u.site n := by rw [e1]; rfl
  have tring (r : RingNo) : t.ring r = u.ring r := by rw [e1]; rfl
  have tlink (l : LinkNo) : t.link l = u.link l := by rw [e1]; rfl
  have tbell (b : BellNo) : t.bell b = u.bell b := by rw [e1]; rfl
  have tpage (p : Nat) : t.page p = u.page p := by rw [e1]; rfl
  have hth : t.hamlet h = { s.hamlet h with st := .live, memKey := some s.takeKey.2, binding := 0, desc := none } := by
    rw [e2, hh]
    exact settled_of hl ha hr
  refine ⟨?_, ?_, by rw [hth]; rfl, fun k hne => (e3 k hne).trans (hk k hne), fun n hin => ?_, fun n hno => ?_, fun r => (tring r).trans (hring r),
    fun l => (congrArg Link.owner (tlink l)).trans (hlink l), fun b hin => ?_, fun b hno => ?_, fun p hin => ?_, fun p hno => (tpage p).trans (hout p hno)⟩
  · obtain ⟨⟨d', e, h1, h2, h3⟩, h4⟩ := hans
    exact ⟨⟨d', e, h1, (htd id).trans h2, h3⟩, fun k hne => (htd k).trans (h4 k hne)⟩
  · rw [hth]
  · rw [tsite, hsite, if_pos hin]
  · rw [tsite, hsite, if_neg hno]
  · rw [tbell, hbell, if_pos hin]
  · rw [tbell, hbell, if_neg hno]
  · rw [tpage]
    exact hpage p hin

end

/-! ### The descriptors of a hamlet's rings are aborted (R443) -/

section
variable {s : State}

/-- A descriptor of a hamlet's ring is aborted, and its LAUNCH leaves its cores. -/
def State.abortOne (s : State) (d : Desc) : State := ((s.launchSites d.id).foldl State.leaveLaunch s).setReady d.id 9 1 d.launchResult

/-- A descriptor is outstanding inside its deadline. -/
def openDesc (s : State) (k : Nat) : Prop := ∃ e, s.desc k = some e ∧ e.ready = none ∧ windowOver e.fetched e.deadline s.tb = false

/-- A descriptor has been aborted, with cause 1. -/
def abortedDesc (s : State) (k : Nat) : Prop := ∃ f c, s.desc k = some f ∧ f.ready = some c ∧ c.status = 9 ∧ c.detail = 1

/-- Of the sites only the LAUNCHes may differ. -/
def launchesOff (s t : State) : Prop :=
  t = { s with sites := t.sites, host := { s.host with descs := t.host.descs } } ∧ ∀ m, t.site m = { s.site m with launch := (t.site m).launch }

theorem launchesOff_refl (s : State) : launchesOff s s := ⟨rfl, fun _ => rfl⟩

theorem launchesOff_trans {t u : State} (h : launchesOff s t) (k : launchesOff t u) : launchesOff s u := by
  obtain ⟨h1, h2⟩ := h
  obtain ⟨k1, k2⟩ := k
  refine ⟨by rw [k1, h1], fun m => ?_⟩
  rw [k2 m, h2 m]

theorem launchesOff_leave (s : State) (n : SiteNo) : launchesOff s (s.leaveLaunch n) := by
  obtain ⟨h1, h2⟩ := leaveLaunch_frame s n
  have h3 := leaveLaunch_site s n
  generalize s.leaveLaunch n = t at h1 h2 h3 ⊢
  refine ⟨h1, fun m => ?_⟩
  by_cases h : m = n
  · rw [h, h3]
  · rw [h2 m h]

theorem abortOne_spec (s : State) (d : Desc) : launchesOff s (s.abortOne d) ∧
    (∀ k e, k ≠ d.id → s.desc k = some e → ∃ f, (s.abortOne d).desc k = some f ∧ onlyCores e f) ∧
    (openDesc s d.id → abortedDesc (s.abortOne d) d.id) ∧ (abortedDesc s d.id → abortedDesc (s.abortOne d) d.id) := by
  unfold State.abortOne
  have hl := foldl_related (P := launchesOff) launchesOff_refl (fun _ _ _ => launchesOff_trans) (F := State.leaveLaunch) launchesOff_leave (s.launchSites d.id) s
  have hd := launchesLeft_fold launchesLeft_leave (s.launchSites d.id) s
  generalize (s.launchSites d.id).foldl State.leaveLaunch s = u at hl hd ⊢
  obtain ⟨ht, hd⟩ := hd
  rw [setReady_eq]
  refine ⟨launchesOff_trans hl ⟨rfl, fun _ => rfl⟩, fun k e hk he => ?_, fun ⟨e, he, hr, hw⟩ => ?_, fun ⟨e, c, he, hr, hc⟩ => ?_⟩
  · obtain ⟨f, hf, ho⟩ := hd k e he
    exact ⟨f, (desc_modDesc_other (readied_id _ _ _ _) hk).trans hf, ho⟩
  · obtain ⟨f, hf, ho⟩ := hd d.id e he
    have hfr : f.ready = none := by rw [ho]; exact hr
    have hfw : windowOver f.fetched f.deadline u.tb = false := by rw [ho, ht]; exact hw
    refine ⟨_, { status := 9, detail := 1, result := d.launchResult, time := u.tb }, desc_modDesc_same (readied_id u.tb 9 1 d.launchResult) hf, ?_, rfl, rfl⟩
    rw [readied_inside hfr hfw]
  · obtain ⟨f, hf, ho⟩ := hd d.id e he
    have hfr : f.ready = some c := by rw [ho]; exact hr
    refine ⟨_, c, desc_modDesc_same (readied_id u.tb 9 1 d.launchResult) hf, ?_, hc⟩
    unfold Desc.readied
    rw [hfr]
    exact hfr

theorem openDesc_other {d : Desc} {k : Nat} (h : k ≠ d.id) (ho : openDesc s k) : openDesc (s.abortOne d) k := by
  obtain ⟨e, he, hr, hw⟩ := ho
  obtain ⟨hl, hd, -⟩ := abortOne_spec s d
  obtain ⟨f, hf, hc⟩ := hd k e h he
  have ht : (s.abortOne d).tb = s.tb := by rw [hl.1]
  refine ⟨f, hf, ?_, ?_⟩
  · rw [hc]
    exact hr
  · rw [hc, ht]
    exact hw

theorem abortedDesc_kept {d : Desc} {k : Nat} (ha : abortedDesc s k) : abortedDesc (s.abortOne d) k := by
  obtain ⟨-, hd, -, hk⟩ := abortOne_spec s d
  by_cases h : k = d.id
  · subst h
    exact hk ha
  · obtain ⟨e, c, he, hr, hc⟩ := ha
    obtain ⟨f, hf, ho⟩ := hd k e h he
    refine ⟨f, c, hf, ?_, hc⟩
    rw [ho]
    exact hr

/-- Descriptors aborted one after another. -/
theorem abortEach_spec (l : List Desc) (s : State) : launchesOff s (l.foldl State.abortOne s) ∧
    (∀ k e, k ∉ l.map (·.id) → s.desc k = some e → ∃ f, (l.foldl State.abortOne s).desc k = some f ∧ onlyCores e f) ∧
    (∀ k, abortedDesc s k → abortedDesc (l.foldl State.abortOne s) k) ∧
    ∀ k ∈ l.map (·.id), openDesc s k → abortedDesc (l.foldl State.abortOne s) k := by
  induction l generalizing s with
  | nil => exact ⟨launchesOff_refl s, fun k e _ he => ⟨e, he, rfl⟩, fun _ h => h, fun k hk => nomatch hk⟩
  | cons a l ih =>
    obtain ⟨h1, h2, h3, -⟩ := abortOne_spec s a
    have hopen {k : Nat} (hk : k ≠ a.id) := openDesc_other (s := s) (d := a) hk
    have hkept {k : Nat} := abortedDesc_kept (s := s) (d := a) (k := k)
    rw [List.foldl_cons]
    generalize s.abortOne a = u at h1 h2 h3 hopen hkept ⊢
    obtain ⟨i1, i2, i3, i4⟩ := ih u
    refine ⟨launchesOff_trans h1 i1, fun k e hk he => ?_, fun k hk => i3 k (hkept hk), fun k hk ho => ?_⟩
    · rw [List.map_cons, List.mem_cons, not_or] at hk
      obtain ⟨f, hf, hc⟩ := h2 k e hk.1 he
      obtain ⟨g, hg, hc'⟩ := i2 k f hk.2 hf
      exact ⟨g, hg, onlyCores_trans hc hc'⟩
    · by_cases hka : k = a.id
      · subst hka
        exact i3 _ (h3 ho)
      · rw [List.map_cons, List.mem_cons] at hk
        exact i4 k (hk.resolve_left hka) (hopen hka ho)

theorem abortRings_eq (s : State) (h : Hamlet) : s.abortRings h =
    (s.host.descs.filter fun d => d.ready.isNone && h.rings.getLsbD d.ring.val).foldl State.abortOne s := rfl

/-- The outstanding descriptors of a hamlet's rings end with ABORTED, and those of other rings are untouched (R443). -/
theorem abortRings_spec (s : State) (h : Hamlet) : launchesOff s (s.abortRings h) ∧
    (∀ k d, s.desc k = some d → (∀ e ∈ s.host.descs, e.id = k → h.rings.getLsbD e.ring.val = false) →
      ∃ f, (s.abortRings h).desc k = some f ∧ onlyCores d f) ∧
    ∀ k e, s.desc k = some e → e.ready = none → h.rings.getLsbD e.ring.val = true → windowOver e.fetched e.deadline s.tb = false →
      abortedDesc (s.abortRings h) k := by
  rw [abortRings_eq]
  obtain ⟨h1, h2, -, h4⟩ := abortEach_spec (s.host.descs.filter fun d => d.ready.isNone && h.rings.getLsbD d.ring.val) s
  refine ⟨h1, fun k d hd hno => h2 k d (fun g => ?_) hd, fun k e he hr hring hw => h4 k ?_ ⟨e, he, hr, hw⟩⟩
  · obtain ⟨e, hm, hid⟩ := List.mem_map.1 g
    obtain ⟨hin, hc⟩ := List.mem_filter.1 hm
    rw [Bool.and_eq_true, hno e hin hid] at hc
    exact Bool.noConfusion hc.2
  · refine List.mem_map.2 ⟨e, List.mem_filter.2 ⟨List.mem_of_find?_eq_some he, ?_⟩, desc_id he⟩
    rw [hr, hring]
    rfl

end

/-! ### Combine and reducer slots are aborted (R216, R300) -/

section
variable {s t u : State}

/-- What the ports send may differ, and the reducer slots. -/
def portsAndSlots (s t : State) : Prop :=
  t = { s with sites := t.sites, links := t.links, fab := t.fab, out := t.out, coll := { s.coll with slots := t.coll.slots } } ∧
  ∀ m, t.site m = { s.site m with queues := (t.site m).queues }

theorem portsAndSlots_refl (s : State) : portsAndSlots s s := ⟨rfl, fun _ => rfl⟩

theorem portsAndSlots_trans (h : portsAndSlots s t) (k : portsAndSlots t u) : portsAndSlots s u := by
  obtain ⟨h1, h2⟩ := h
  obtain ⟨k1, k2⟩ := k
  refine ⟨by rw [k1, h1], fun m => ?_⟩
  rw [k2 m, h2 m]

theorem portsAndSlots_of (h : onlyPorts s t) : portsAndSlots s t := by
  obtain ⟨h1, h2⟩ := h
  refine ⟨?_, h2⟩
  rw [h1]

theorem portsAndSlots_respond (s : State) (p : Packet) : portsAndSlots s (s.respond p) :=
  portsAndSlots_of (onlyPorts_trans (onlyPorts_of (s := s) (t := s.queueAt { pkt := p, kind := .response }) rfl) (servePort_ports _ _ _))

theorem portsAndSlots_redAck (s : State) (c : RedContrib) (st : BitVec 4) : portsAndSlots s (s.redAck c st) := portsAndSlots_respond s _

theorem portsAndSlots_answerAll (s : State) (k : CSlot) (st : BitVec 4) : portsAndSlots s (s.answerAll k st) :=
  foldl_related portsAndSlots_refl (fun _ _ _ => portsAndSlots_trans) (F := fun (s : State) c => s.redAck c st) (fun s c => portsAndSlots_redAck s c st) k.held s

theorem portsAndSlots_redAnswer (s : State) (tc : Fin 64) (addr : Word64) (st : BitVec 4) (src : RedFrom) :
    portsAndSlots s (s.redAnswer tc addr st src) := by
  have h := redAnswer_frame s tc addr st src
  unfold onlyLinks at h
  generalize s.redAnswer tc addr st src = t at h ⊢
  exact portsAndSlots_of (onlyPorts_of (by rw [h]))

theorem portsAndSlots_setCslot (s : State) (k : CSlot) (v : Option CSlot) : portsAndSlots s (s.setCslot k v) := ⟨rfl, fun _ => rfl⟩

theorem portsAndSlots_setRslot (s : State) (tc : Fin 64) (addr : Word64) (v : Option RSlot) : portsAndSlots s (s.setRslot tc addr v) := ⟨rfl, fun _ => rfl⟩

/-- Answers, and slots that go. -/
theorem abortSlots_frame (s : State) (h : HamletNo) : portsAndSlots s (s.abortSlots h) := by
  unfold State.abortSlots
  dsimp only
  refine portsAndSlots_trans (foldl_related portsAndSlots_refl (fun _ _ _ => portsAndSlots_trans) (F := fun (s : State) k => (s.answerAll k 2).setCslot k none)
    (fun s k => portsAndSlots_trans (portsAndSlots_answerAll s k 2) (portsAndSlots_setCslot _ k none)) _ s)
    (foldl_related portsAndSlots_refl (fun _ _ _ => portsAndSlots_trans)
      (F := fun (s : State) (k : RSlot) => k.held.foldl (fun s x => s.redAnswer k.tc k.addr 2 x.1) (s.setRslot k.tc k.addr none)) (fun s k => ?_) _ _)
  exact portsAndSlots_trans (portsAndSlots_setRslot s k.tc k.addr none) (foldl_related portsAndSlots_refl (fun _ _ _ => portsAndSlots_trans)
    (F := fun (s : State) (x : _ × _) => s.redAnswer k.tc k.addr 2 x.1) (fun s x => portsAndSlots_redAnswer s k.tc k.addr 2 x.1) k.held _)

end

/-! ### The commit of HAMLET_RESET and HAMLET_DESTROY (R435, R436, R443) -/

section
variable {s : State} {n : HamletNo} {h : Hamlet}

/-- A bell that is disarmed with COUNT 0 (R288). -/
def Bell.disarmed (b : Bell) : Bell := { b with armed := false, count := 0, refire := false, due := [] }

theorem disarmBells_spec (s : State) (bs : List BellNo) : (∃ B, s.disarmBells bs = { s with coll := { s.coll with bells := B } }) ∧
    ∀ b, (s.disarmBells bs).bell b = if b ∈ bs then (s.bell b).disarmed else s.bell b := by
  refine ⟨foldl_inv (fun v : State => ∃ B, v = { s with coll := { s.coll with bells := B } })
    (fun (s : State) b => s.setBell b (s.bell b).disarmed) ?_ bs s ⟨_, rfl⟩, fun b => ?_⟩
  · rintro _ b ⟨B, rfl⟩
    exact ⟨_, rfl⟩
  · exact foldl_marks (F := fun (s : State) b => s.setBell b (s.bell b).disarmed) (read := fun b (v : State) => v.bell b)
      (new := Bell.disarmed) (fun v b => State.bell_setBell_same v b _) (fun v b q hq => State.bell_setBell_other v _ hq) (fun _ => rfl) bs s b

theorem idleSources_frame (s : State) (h : Hamlet) : ∃ I, s.idleSources h = { s with ic := I } := by
  unfold State.idleSources
  refine foldl_inv (fun v : State => ∃ I, v = { s with ic := I }) (fun (s : State) n => s.setSrc n { s.src n with st := .idle }) ?_ _ s ⟨_, rfl⟩
  rintro _ k ⟨I, rfl⟩
  exact ⟨_, rfl⟩

/-- A hamlet without its keys (R435). -/
def Hamlet.keyless (h : Hamlet) : Hamlet := { h with memKey := none, hostKey := none }

theorem dropKeys_spec (s : State) (n : HamletNo) : (∃ D C Q, s.dropKeys n = { s with mem := { s.mem with ddr := D, cipher := C }, sec := Q }) ∧
    (s.dropKeys n).hamlet n = (s.hamlet n).keyless ∧ ∀ k, k ≠ n → (s.dropKeys n).hamlet k = s.hamlet k := by
  unfold State.dropKeys
  dsimp only
  have hl : ∃ D C, s.losePages (s.hamlet n).pageFirst.toNat (s.hamlet n).pageCount.toNat ((s.hamlet n).memKey.getD 0) =
    { s with mem := { s.mem with ddr := D, cipher := C } } := ⟨_, _, rfl⟩
  obtain ⟨D, C, hl⟩ := hl
  rw [hl]
  exact ⟨⟨D, C, _, rfl⟩, State.hamlet_modHamlet_same _ n _, fun k hk => State.hamlet_modHamlet_other _ _ hk⟩

theorem zeroTally_frame (s : State) (h : Hamlet) : ∃ D C, s.zeroTally h = { s with mem := { s.mem with ddr := D, cipher := C } } := by
  unfold State.zeroTally
  refine foldl_inv (fun v : State => ∃ D C, v = { s with mem := { s.mem with ddr := D, cipher := C } }) (fun (s : State) p => s.zeroPages p 1) ?_ _ s ⟨_, _, rfl⟩
  rintro _ k ⟨D, C, rfl⟩
  exact ⟨_, _, rfl⟩

/-- A hamlet's cores, once its descriptors are aborted. -/
theorem abortRings_sites (s : State) (h : Hamlet) (m : Word32) : (s.abortRings h).sitesOf m = s.sitesOf m := by
  obtain ⟨hf, -⟩ := (abortRings_spec s h).1
  generalize s.abortRings h = t at hf ⊢
  rw [hf]
  rfl

/-- All that the commit of a reset or destruction leaves of a hamlet and its resources. -/
theorem emptyHamlet_spec (s : State) (n : HamletNo) :
    (s.emptyHamlet n).hamlet n = (s.hamlet n).keyless ∧ (∀ k, k ≠ n → (s.emptyHamlet n).hamlet k = s.hamlet k) ∧
    (∀ m ∈ s.sitesOf (s.hamlet n).cores, ((s.emptyHamlet n).site m).cleared) ∧
    (∀ b, (s.emptyHamlet n).bell b = if b ∈ (s.hamlet n).bellList then (s.bell b).disarmed else s.bell b) ∧
    (s.emptyHamlet n).mem.pages = s.mem.pages ∧ ∀ k, (s.emptyHamlet n).desc k = (s.abortRings (s.hamlet n)).desc k := by
  have he : s.emptyHamlet n = ((((((((s.abortRings (s.hamlet n)).clearCores (s.hamlet n)).abortSlots n).disarmBells (s.hamlet n).bellList).idleSources
      (s.hamlet n)).dropKeys n).setJobs (((((((s.abortRings (s.hamlet n)).clearCores (s.hamlet n)).abortSlots n).disarmBells (s.hamlet n).bellList).idleSources
      (s.hamlet n)).dropKeys n).flt.jobs.filter fun r => decide (r.scope ≠ some n))).setTally (some n) {}).zeroTally (s.hamlet n) := rfl
  rw [he]
  obtain ⟨ha, -⟩ := (abortRings_spec s (s.hamlet n)).1
  have has := abortRings_sites s (s.hamlet n) (s.hamlet n).cores
  generalize s.abortRings (s.hamlet n) = a at ha has ⊢
  obtain ⟨hb, -, hbc⟩ := clearCores_spec a (s.hamlet n)
  rw [has] at hbc
  generalize a.clearCores (s.hamlet n) = b at hb hbc ⊢
  obtain ⟨hc, hcs⟩ := abortSlots_frame b n
  generalize b.abortSlots n = c at hc hcs ⊢
  obtain ⟨⟨B, hd⟩, hdb⟩ := disarmBells_spec c (s.hamlet n).bellList
  generalize c.disarmBells (s.hamlet n).bellList = d at hd hdb ⊢
  obtain ⟨I, hi⟩ := idleSources_frame d (s.hamlet n)
  generalize d.idleSources (s.hamlet n) = i at hi ⊢
  obtain ⟨⟨D, C, Q, hk⟩, hk1, hk2⟩ := dropKeys_spec i n
  generalize i.dropKeys n = k at hk hk1 hk2 ⊢
  obtain ⟨J, hj⟩ : ∃ J, (k.setJobs (k.flt.jobs.filter fun r => decide (r.scope ≠ some n))).setTally (some n) {} =
      { k with flt := { k.flt with jobs := k.flt.jobs.filter fun r => decide (r.scope ≠ some n) }, coll := { k.coll with tallies := J } } := ⟨_, rfl⟩
  rw [hj]
  obtain ⟨D', C', hz⟩ := zeroTally_frame { k with flt := { k.flt with jobs := k.flt.jobs.filter fun r => decide (r.scope ≠ some n) }, coll := { k.coll with tallies := J } } (s.hamlet n)
  generalize State.zeroTally _ (s.hamlet n) = t at hz ⊢
  have hih (x : HamletNo) : i.hamlet x = s.hamlet x := by rw [hi, hd, hc, hb, ha]; rfl
  have hth (x : HamletNo) : t.hamlet x = k.hamlet x := by rw [hz]; rfl
  have hts (m : SiteNo) : t.site m = c.site m := by rw [hz, hk, hi, hd]; rfl
  have htb (x : BellNo) : t.bell x = d.bell x := by rw [hz, hk, hi]; rfl
  have hcb (x : BellNo) : c.bell x = s.bell x := by rw [hc, hb, ha]; rfl
  refine ⟨(hth n).trans (hk1.trans (congrArg _ (hih n))), fun x hx => (hth x).trans ((hk2 x hx).trans (hih x)), fun m hm => ?_, fun x => ?_, ?_, fun x => ?_⟩
  · rw [hts, hcs m]
    exact (hbc m hm).1
  · rw [htb, hdb, hcb]
  · rw [hz, hk, hi, hd, hc, hb, ha]
  · rw [hz, hk, hi, hd, hc, hb]
    rfl

end

/-! ### HAMLET_DESTROY and HAMLET_RESET begin (R420, R421, R443) -/

section
variable {s : State} {id : Nat} {d : Desc} {row : Instr × BitVec 8 × HamletState}

/-- The two commands that empty a hamlet. -/
theorem exec_emptyRows (hm : row ∈ [(Instr.hamletDestroy id, 0xA, HamletState.destroying), (.hamletReset id, 0xB, .resetting)])
    (h : classStarts s id d row.2.1) (hf : d.fits [(2, 0x7)] = true) : exec row.1 s = .next (s.hamletCommand d) := by
  simp only [List.mem_cons, List.not_mem_nil, or_false] at hm
  rcases hm with rfl | rfl
  · exact runClass_body h rfl hf
  · exact runClass_body h rfl hf

theorem hamletStart_empties (hm : row ∈ [(Instr.hamletDestroy id, 0xA, HamletState.destroying), (.hamletReset id, 0xB, .resetting)])
    (h : classStarts s id d row.2.1) : s.hamletStart d = s.emptyStart d row.2.2 := by
  simp only [List.mem_cons, List.not_mem_nil, or_false] at hm
  unfold State.hamletStart
  rcases hm with rfl | rfl
  · rw [h.2.1]
    rfl
  · rw [h.2.1]
    rfl

theorem emptyRows_cases (hm : row ∈ [(Instr.hamletDestroy id, 0xA, HamletState.destroying), (.hamletReset id, 0xB, .resetting)]) :
    (row.2.1 = 0xA ∧ row.2.2 = .destroying) ∨ row.2.1 = 0xB ∧ row.2.2 = .resetting := by
  simp only [List.mem_cons, List.not_mem_nil, or_false] at hm
  rcases hm with rfl | rfl
  · exact .inl ⟨rfl, rfl⟩
  · exact .inr ⟨rfl, rfl⟩

theorem emptyRow_denied (hm : row ∈ [(Instr.hamletDestroy id, 0xA, HamletState.destroying), (.hamletReset id, 0xB, .resetting)])
    (h : classStarts s id d row.2.1) (hf : d.fits [(2, 0x7)] = true) (ho : (s.scopeOf d).isSome = true) :
    completes row.1 s fun t => onlyAnswered s t id 3 0 0 := by
  refine ⟨_, exec_emptyRows hm h hf, ?_⟩
  rw [hamletCommand_denied ho, State.done, classStarts_id h]
  exact setReady_onlyAnswered h

theorem emptyRow_absent (hm : row ∈ [(Instr.hamletDestroy id, 0xA, HamletState.destroying), (.hamletReset id, 0xB, .resetting)])
    (h : classStarts s id d row.2.1) (hf : d.fits [(2, 0x7)] = true) (ho : s.scopeOf d = none) (hn : (s.hamlet d.hm).st = .none_) :
    completes row.1 s fun t => onlyAnswered s t id 4 0 0 := by
  refine ⟨_, exec_emptyRows hm h hf, ?_⟩
  have he : s.emptyStart d row.2.2 = s.done d 4 := if_pos (by rw [hn]; decide)
  rw [hamletCommand_starts ho (by rw [hn]; rfl), hamletStart_empties hm h, he, State.done, classStarts_id h]
  exact setReady_onlyAnswered h

/-- The descriptor of a hamlet command has started. -/
def State.startedDesc (s : State) (id : Nat) : State := s.modDesc id fun d => { d with started := true }

theorem startedDesc_desc (s : State) (id k : Nat) : (s.startedDesc id).desc k = (s.desc k).map fun d => if d.id = id then { d with started := true } else d :=
  desc_modDesc fun _ => rfl

theorem emptyStart_live (st : HamletState) (hl : (s.hamlet d.hm).st = .live) (he : s.sec.entropyOk = true) : s.emptyStart d st =
    ((s.startedDesc d.id).emptyHamlet d.hm).modHamlet d.hm fun h => { h with st := st, desc := some d.id } := by
  unfold State.emptyStart
  rw [if_neg (not_not.2 hl), if_neg (by rw [he]; exact fun g => Bool.noConfusion g.2)]
  rfl

/-- The commit of a destruction or a reset of a live hamlet (R443). -/
theorem emptyRow_live (hm : row ∈ [(Instr.hamletDestroy id, 0xA, HamletState.destroying), (.hamletReset id, 0xB, .resetting)])
    (h : classStarts s id d row.2.1) (hf : d.fits [(2, 0x7)] = true) (ho : s.scopeOf d = none) (hl : (s.hamlet d.hm).st = .live)
    (he : s.sec.entropyOk = true) : completes row.1 s fun t =>
      t.hamlet d.hm = { s.hamlet d.hm with st := row.2.2, desc := some id, memKey := none, hostKey := none } ∧
      (∀ k, k ≠ d.hm → t.hamlet k = s.hamlet k) ∧
      (∀ n ∈ s.sitesOf (s.hamlet d.hm).cores, (t.site n).seq = .idle ∧ (t.site n).ws = [] ∧ (t.site n).gran = [] ∧
        (t.site n).ps = [] ∧ (t.site n).sill = [] ∧ (t.site n).vregs = [] ∧ (t.site n).resetting = true) ∧
      (∀ b ∈ (s.hamlet d.hm).bellList, (t.bell b).armed = false ∧ (t.bell b).count = 0) ∧
      (∀ b, b ∉ (s.hamlet d.hm).bellList → t.bell b = s.bell b) ∧ t.mem.pages = s.mem.pages ∧
      ∀ k e, s.desc k = some e → e.ready = none → (s.hamlet d.hm).rings.getLsbD e.ring.val = true →
        windowOver e.fetched e.deadline s.tb = false →
        ∃ f c, t.desc k = some f ∧ f.ready = some c ∧ c.status = 9 ∧ c.detail = 1 := by
  refine ⟨_, exec_emptyRows hm h hf, ?_⟩
  rw [hamletCommand_starts ho (by rw [hl]; rfl), hamletStart_empties hm h, emptyStart_live row.2.2 hl he, classStarts_id h]
  have hdesc := startedDesc_desc s id
  have hm : ∃ ds, s.startedDesc id = { s with host := { s.host with descs := ds } } := ⟨_, rfl⟩
  obtain ⟨ds, hm⟩ := hm
  generalize s.startedDesc id = m at hm hdesc ⊢
  have hmh (k : HamletNo) : m.hamlet k = s.hamlet k := by rw [hm]; rfl
  have hmb (b : BellNo) : m.bell b = s.bell b := by rw [hm]; rfl
  have hms (x : Word32) : m.sitesOf x = s.sitesOf x := by rw [hm]; rfl
  have hmt : m.tb = s.tb := by rw [hm]
  obtain ⟨e1, e2, e3, e4, e5, e6⟩ := emptyHamlet_spec m d.hm
  obtain ⟨-, -, ha⟩ := abortRings_spec m (m.hamlet d.hm)
  rw [hmh] at e1 e3 e4 e6 ha
  rw [hms] at e3
  generalize m.emptyHamlet d.hm = u at e1 e2 e3 e4 e5 e6 ⊢
  refine ⟨?_, fun k hk => ?_, fun n hn => e3 n hn, fun b hb => ?_, fun b hb => ?_, ?_, fun k e hk hr hg hw => ?_⟩
  · rw [State.hamlet_modHamlet_same, e1]
    rfl
  · rw [State.hamlet_modHamlet_other _ _ hk, e2 k hk, hmh]
  · change (u.bell b).armed = false ∧ (u.bell b).count = 0
    rw [e4, if_pos hb]
    exact ⟨rfl, rfl⟩
  · change u.bell b = _
    rw [e4, if_neg hb, hmb]
  · change u.mem.pages = _
    rw [e5, hm]
  · change ∃ f c, u.desc k = some f ∧ _
    rw [e6]
    have hd := hdesc k
    rw [hk, Option.map_some] at hd
    refine ha k _ hd ?_ ?_ ?_
    · split
      · exact hr
      · exact hr
    · split
      · exact hg
      · exact hg
    · rw [hmt]
      split
      · exact hw
      · exact hw

/-- A second command that meets a reset is absorbed by it, or latched behind it (R420, R421). -/
theorem emptyRow_meets (hm : row ∈ [(Instr.hamletDestroy id, 0xA, HamletState.destroying), (.hamletReset id, 0xB, .resetting)])
    (h : classStarts s id d row.2.1) (hf : d.fits [(2, 0x7)] = true) (ho : s.scopeOf d = none) (hr : (s.hamlet d.hm).st = .resetting)
    (hl : (s.hamlet d.hm).latched = none) : completes row.1 s fun t =>
      (∃ e, t.desc id = some e ∧ e.started = true ∧ e.ready = none) ∧
      (row.2.1 = 0xB → t.hamlet d.hm = { s.hamlet d.hm with absorbed := (s.hamlet d.hm).absorbed ++ [id] }) ∧
      (row.2.1 = 0xA → t.hamlet d.hm = { s.hamlet d.hm with latched := some (0xA, id) }) ∧
      t = { s with sec := t.sec, host := { s.host with descs := t.host.descs } } := by
  refine ⟨_, exec_emptyRows hm h hf, ?_⟩
  have hid := classStarts_id h
  subst hid
  have hcls : d.cls = row.2.1 := h.2.1
  have hsame : (s.startedDesc d.id).sameEnd d = decide (row.2.1 = 0xB) := by
    have hst : ((s.startedDesc d.id).hamlet d.hm).st = .resetting := hr
    unfold State.sameEnd
    rw [hst, hcls]
    rcases emptyRows_cases hm with ⟨g, -⟩ | ⟨g, -⟩
    · rw [g]
      rfl
    · rw [g]
      rfl
  have he : s.hamletCommand d = if decide (row.2.1 = 0xB) then (s.startedDesc d.id).modHamlet d.hm fun h => { h with absorbed := h.absorbed ++ [d.id] }
      else (s.startedDesc d.id).modHamlet d.hm fun h => { h with latched := some (d.cls, d.id) } := by
    rw [← hsame]
    unfold State.hamletCommand
    rw [ho, if_neg (by decide)]
    dsimp only
    rw [hr, hl, if_neg (by decide)]
    rfl
  have hd : (s.startedDesc d.id).desc d.id = some { d with started := true } := by
    rw [startedDesc_desc, h.1, Option.map_some, if_pos rfl]
  rw [he, hcls]
  rcases emptyRows_cases hm with ⟨g, -⟩ | ⟨g, -⟩
  · rw [g, if_neg (by decide)]
    exact ⟨⟨_, hd, rfl, (classStarts_open h).2⟩, fun k => absurd k (by decide), fun _ => State.hamlet_modHamlet_same _ _ _, rfl⟩
  · rw [g, if_pos (by decide)]
    exact ⟨⟨_, hd, rfl, (classStarts_open h).2⟩, fun _ => State.hamlet_modHamlet_same _ _ _, fun k => absurd k (by decide), rfl⟩

end

/-! ### The end of zeroisation (R443) -/

section
variable {s : State} {n : HamletNo} {h : Hamlet} {id : Nat} {d : Desc}

/-- A page that has returned to no owner. -/
def Page.returned (p : Page) : Page := { p with owner := none, kind := 0, enc := false, remR := false, remW := false }

/-- A core that has returned to no owner. -/
def Site.returned (c : Site) : Site := { c with hamlet := none, mirror := 0, mirrorDegraded := false, mirrorGone := 0, resetting := false }

/-- A ring that has returned to the host, disabled. -/
def Ring.disabled (g : Ring) : Ring := { g with enable := false, active := decide (g.outstanding ≠ 0) }

/-- Rings are disabled. -/
def State.disableRings (s : State) (rs : List RingNo) : State := rs.foldl (fun s r => s.modRing r Ring.disabled) s

theorem disableRings_spec (s : State) (rs : List RingNo) : (∃ R, s.disableRings rs = { s with host := { s.host with rings := R } }) ∧
    ∀ r, (s.disableRings rs).ring r = if r ∈ rs then (s.ring r).disabled else s.ring r := by
  refine ⟨foldl_inv (fun v : State => ∃ R, v = { s with host := { s.host with rings := R } })
    (fun (s : State) r => s.modRing r Ring.disabled) ?_ rs s ⟨_, rfl⟩, fun r => ?_⟩
  · rintro _ r ⟨R, rfl⟩
    exact ⟨_, rfl⟩
  · exact foldl_marks (F := fun (s : State) r => s.modRing r Ring.disabled) (read := fun r (v : State) => v.ring r)
      (new := Ring.disabled) (fun v r => State.ring_modRing_same v r _) (fun v r q hq => State.ring_modRing_other v _ hq) (fun _ => rfl) rs s r

/-- The trees and sets of a hamlet return to no owner. -/
def State.dropTrees (s : State) (n : HamletNo) : State :=
  (List.range 64).foldl (fun s m => if (s.mset m).owner = some n then s.setMset m { s.mset m with owner := none } else s)
    ((List.finRange 64).foldl (fun s t => if (s.tree t).owner = some n then s.setTree t { s.tree t with owner := none } else s) s)

theorem dropTrees_frame (s : State) (n : HamletNo) : ∃ T M, s.dropTrees n = { s with coll := { s.coll with trees := T, msets := M } } := by
  unfold State.dropTrees
  refine foldl_inv (fun v : State => ∃ T M, v = { s with coll := { s.coll with trees := T, msets := M } }) _ ?_ _ _ (foldl_inv
    (fun v : State => ∃ T M, v = { s with coll := { s.coll with trees := T, msets := M } }) _ ?_ _ s ⟨_, _, rfl⟩)
  · rintro _ k ⟨T, M, rfl⟩
    split
    · exact ⟨_, _, rfl⟩
    · exact ⟨_, _, rfl⟩
  · rintro _ k ⟨T, M, rfl⟩
    split
    · exact ⟨_, _, rfl⟩
    · exact ⟨_, _, rfl⟩

theorem returned_eq (s : State) (n : HamletNo) (h : Hamlet) : s.returned n h =
    ((((((s.abortRings h).modPages h.pageFirst.toNat h.pageCount.toNat Page.returned).modSites
      (((s.abortRings h).modPages h.pageFirst.toNat h.pageCount.toNat Page.returned).sitesOf h.cores) Site.returned).setOwners h none).disableRings
      h.ringList).dropTrees n) := rfl

/-- All that the end of a destruction returns to no owner (R443). -/
theorem returned_spec (s : State) (n : HamletNo) (h : Hamlet) :
    (∃ M S H C L O, s.returned n h = { s with mem := M, sites := S, host := H, coll := C, links := L, out := O }) ∧
    (∀ p, (s.returned n h).page p = if p ∈ h.pageList then (s.page p).returned else s.page p) ∧
    (∀ m ∈ s.sitesOf h.cores, ((s.returned n h).site m).hamlet = none ∧ ((s.returned n h).site m).mirror = 0 ∧ ((s.returned n h).site m).resetting = false) ∧
    (∀ m, ((s.returned n h).site m).bad = (s.site m).bad) ∧
    (∀ r, (s.returned n h).ring r = if h.rings.getLsbD r.val then { s.ring r with owner := none }.disabled else s.ring r) ∧
    (∀ b ∈ h.bellList, ((s.returned n h).bell b).owner = none) ∧
    (∀ l : LinkNo, h.links.getLsbD l.val = true → ((s.returned n h).link l).owner = none) ∧
    ∀ k, (s.returned n h).desc k = (s.abortRings h).desc k := by
  rw [returned_eq]
  obtain ⟨ha, hal⟩ := (abortRings_spec s h).1
  generalize s.abortRings h = a at ha hal ⊢
  have hb := modPages_frame a h.pageFirst.toNat h.pageCount.toNat Page.returned
  have hbp (q : Nat) := page_modPages (f := Page.returned) (fun _ _ => rfl) a h.pageFirst.toNat h.pageCount.toNat q
  generalize a.modPages h.pageFirst.toNat h.pageCount.toNat Page.returned = b at hb hbp ⊢
  have hbs (m : SiteNo) : b.site m = a.site m := by rw [hb]; rfl
  have hns : b.sitesOf h.cores = s.sitesOf h.cores := by rw [hb, ha]; rfl
  rw [hns]
  have hc := modSites_frame (s.sitesOf h.cores) b Site.returned
  have hc1 (m : SiteNo) (hm : m ∈ s.sitesOf h.cores) := modSites_same (s.sitesOf h.cores) b (f := Site.returned) (fun _ => rfl) hm
  have hc2 (m : SiteNo) (hm : m ∉ s.sitesOf h.cores) := modSites_other (s.sitesOf h.cores) b (f := Site.returned) hm
  generalize b.modSites (s.sitesOf h.cores) Site.returned = c at hc hc1 hc2 ⊢
  obtain ⟨⟨R, B, L, O, hd⟩, hdr, hdb, hdl⟩ := setOwners_spec c h none
  generalize c.setOwners h none = e at hd hdr hdb hdl ⊢
  obtain ⟨⟨R', he⟩, her⟩ := disableRings_spec e h.ringList
  generalize e.disableRings h.ringList = f at he her ⊢
  obtain ⟨T, M, hf⟩ := dropTrees_frame f n
  generalize f.dropTrees n = t at hf ⊢
  have htp (p : Nat) : t.page p = b.page p := by rw [hf, he, hd, hc]; rfl
  have hap (p : Nat) : a.page p = s.page p := by rw [ha]; rfl
  have hts (m : SiteNo) : t.site m = c.site m := by rw [hf, he, hd]; rfl
  have htr (r : RingNo) : t.ring r = f.ring r := by rw [hf]; rfl
  have hcr (r : RingNo) : c.ring r = s.ring r := by rw [hc, hb, ha]; rfl
  have htb (x : BellNo) : t.bell x = e.bell x := by rw [hf, he]; rfl
  have htl (l : LinkNo) : t.link l = e.link l := by rw [hf, he]; rfl
  have htd (k : Nat) : t.desc k = a.desc k := by rw [hf, he, hd, hc, hb]; rfl
  have hmr (r : RingNo) : (r ∈ h.ringList) = (h.rings.getLsbD r.val = true) :=
    propext (List.mem_filter.trans ⟨And.right, fun g => ⟨List.mem_finRange r, g⟩⟩)
  refine ⟨?_, fun p => ?_, fun m hm => ?_, fun m => ?_, fun r => ?_, fun x hx => ?_, fun l hl => ?_, htd⟩
  · rw [hf, he, hd, hc, hb, ha]
    exact ⟨_, _, _, _, _, _, rfl⟩
  · rw [htp, hbp, hap]
    rfl
  · rw [hts, hc1 m hm]
    exact ⟨rfl, rfl, rfl⟩
  · rw [hts]
    by_cases hm : m ∈ s.sitesOf h.cores
    · rw [hc1 m hm, hbs, hal m]
      rfl
    · rw [hc2 m hm, hbs, hal m]
  · rw [htr, her]
    simp only [hmr]
    rw [hdr, hcr]
    split
    · rfl
    · rfl
  · rw [htb, hdb, if_pos hx]
  · rw [htl, hdl, if_pos hl]

/-- A reset hamlet with its new key. -/
def Hamlet.rekeyed (h : Hamlet) (key : Nat) : Hamlet := { h with st := .live, memKey := some key, binding := 0, blockCount := 0, confidential := false }

theorem rekeyed_eq (s : State) (n : HamletNo) (h : Hamlet) : s.rekeyed n h = h.linkList.foldl (fun s l => s.startConfirm l)
    ((s.takeKey.1.modHamlet n fun h => h.rekeyed s.takeKey.2).releaseSites ((s.takeKey.1.modHamlet n fun h => h.rekeyed s.takeKey.2).sitesOf h.cores)) := rfl

theorem startConfirms_frame (ls : List LinkNo) (s : State) : ∃ L O, ls.foldl (fun s l => s.startConfirm l) s = { s with links := L, out := O } := by
  refine foldl_inv (fun v : State => ∃ L O, v = { s with links := L, out := O }) (fun (s : State) l => s.startConfirm l) ?_ ls s ⟨_, _, rfl⟩
  rintro _ l ⟨L, O, rfl⟩
  obtain ⟨L', O', h⟩ := (startConfirm_spec { s with links := L, out := O } l).1
  exact ⟨L', O', h⟩

/-- The new key that a reset draws (R434, R443). -/
theorem rekeyHamlet_spec (s : State) (n : HamletNo) :
    (∃ K Q, (s.takeKey.1.modHamlet n fun h => h.rekeyed s.takeKey.2) = { s with mem := { s.mem with keyCount := K }, sec := Q }) ∧
    (s.takeKey.1.modHamlet n fun h => h.rekeyed s.takeKey.2).hamlet n = (s.hamlet n).rekeyed s.takeKey.2 ∧
    ∀ k, k ≠ n → (s.takeKey.1.modHamlet n fun h => h.rekeyed s.takeKey.2).hamlet k = s.hamlet k := by
  have hk : ∀ k, s.takeKey.1.hamlet k = s.hamlet k := fun _ => rfl
  have hf : ∃ K Q, s.takeKey.1 = { s with mem := { s.mem with keyCount := K }, sec := Q } := ⟨_, _, rfl⟩
  generalize s.takeKey.1 = u at hk hf ⊢
  obtain ⟨K, Q, hf⟩ := hf
  refine ⟨⟨K, (u.modHamlet n fun h => h.rekeyed s.takeKey.2).sec, ?_⟩, ?_, fun k hne => ?_⟩
  · have hm : (u.modHamlet n fun h => h.rekeyed s.takeKey.2) = { u with sec := (u.modHamlet n fun h => h.rekeyed s.takeKey.2).sec } := rfl
    generalize (u.modHamlet n fun h => h.rekeyed s.takeKey.2) = w at hm ⊢
    rw [hm, hf]
  · rw [State.hamlet_modHamlet_same, hk]
  · rw [State.hamlet_modHamlet_other _ _ hne, hk]

/-- All that the end of a reset leaves (R443, R446). -/
theorem rekeyed_spec (s : State) (n : HamletNo) (h : Hamlet) :
    (∃ K Q S L O, s.rekeyed n h = { s with mem := { s.mem with keyCount := K }, sec := Q, sites := S, links := L, out := O }) ∧
    (s.rekeyed n h).hamlet n = (s.hamlet n).rekeyed s.takeKey.2 ∧ (∀ k, k ≠ n → (s.rekeyed n h).hamlet k = s.hamlet k) ∧
    ∀ m, (s.rekeyed n h).site m = if m ∈ s.sitesOf h.cores then { s.site m with resetting := false } else s.site m := by
  rw [rekeyed_eq]
  obtain ⟨⟨K, Q, ha⟩, ha1, ha2⟩ := rekeyHamlet_spec s n
  generalize (s.takeKey.1.modHamlet n fun h => h.rekeyed s.takeKey.2) = a at ha ha1 ha2 ⊢
  have hns : a.sitesOf h.cores = s.sitesOf h.cores := by rw [ha]; rfl
  rw [hns]
  obtain ⟨⟨S, hb⟩, hbs⟩ := releaseSites_spec a (s.sitesOf h.cores)
  generalize a.releaseSites (s.sitesOf h.cores) = b at hb hbs ⊢
  obtain ⟨L, O, hc⟩ := startConfirms_frame h.linkList b
  rw [hc]
  have hh (k : HamletNo) : ({ b with links := L, out := O } : State).hamlet k = a.hamlet k := by rw [hb]; rfl
  have hs (m : SiteNo) : a.site m = s.site m := by rw [ha]; rfl
  refine ⟨⟨K, Q, S, L, O, by rw [hb, ha]⟩, (hh n).trans ha1, fun k hk => (hh k).trans (ha2 k hk), fun m => (hbs m).trans ?_⟩
  rw [hs]

end

/-! ### HAMLET_ZEROISATION_DONE (R443) -/

section
variable {s : State} {h : HamletNo} {bad : List SiteNo} {id : Nat} {d : Desc}

theorem zeroisation_destroys (hs : (s.hamlet h).st = .destroying) : exec (.hamletZeroisationDone ⟨h, bad⟩) s =
    .next (((((s.failing h bad).foldl State.zeroiseFail s).returned h (s.hamlet h)).setHamlet h {}).endTransition h (s.hamlet h) 0) := by
  change execHamletZeroisationDone ⟨h, bad⟩ s = _
  unfold execHamletZeroisationDone
  dsimp only
  rw [hs]
  rfl

theorem zeroisation_resets (hs : (s.hamlet h).st = .resetting) : exec (.hamletZeroisationDone ⟨h, bad⟩) s =
    .next ((((s.failing h bad).foldl State.zeroiseFail s).rekeyed h (s.hamlet h)).endTransition h (s.hamlet h) 0) := by
  change execHamletZeroisationDone ⟨h, bad⟩ s = _
  unfold execHamletZeroisationDone
  dsimp only
  rw [hs]
  rfl

end

section
variable {s : State} {h : HamletNo} {bad : List SiteNo} {id : Nat} {d : Desc}

/-- The completion of a descriptor is ready with status 0. -/
def toldOk (s t : State) (id : Nat) : Prop := ∃ e, t.desc id = some e ∧ e.ready = some { status := 0, detail := 0, result := 0, time := s.tb }

/-- The end of a transition answers its descriptor, whose LAUNCH may have left its cores. -/
theorem setReady_toldOk {u : State} {f : Desc} (hn : d.ready = none) (hw : windowOver d.fetched d.deadline s.tb = false)
    (hu : u.desc id = some f) (hf : onlyCores d f) (ht : u.tb = s.tb) : toldOk s (u.setReady id 0 0 0) id := by
  rw [setReady_eq, ht]
  refine ⟨_, desc_modDesc_same (readied_id _ _ _ _) hu, ?_⟩
  rw [hf, readied_inside (d := { d with left := f.left, slipMax := f.slipMax }) hn hw]

/-- The end of a destruction (R443). -/
theorem destroyed_spec (hs : (s.hamlet h).st = .destroying) (hl : (s.hamlet h).latched = none) (ha : (s.hamlet h).absorbed = [])
    (hr : (s.hamlet h).replaced = []) (hi : (s.hamlet h).desc = some id) (hd : s.desc id = some d) (hn : d.ready = none)
    (hw : windowOver d.fetched d.deadline s.tb = false) (ho : ∀ e ∈ s.host.descs, e.id = id → (s.hamlet h).rings.getLsbD e.ring.val = false) :
    completes (.hamletZeroisationDone ⟨h, bad⟩) s fun t => toldOk s t id ∧ t.hamlet h = {} ∧ (∀ k, k ≠ h → t.hamlet k = s.hamlet k) ∧
      (∀ p, t.page p = if p ∈ (s.hamlet h).pageList then (s.page p).returned else s.page p) ∧
      (∀ n ∈ s.sitesOf (s.hamlet h).cores, (t.site n).hamlet = none ∧ (t.site n).mirror = 0 ∧ (t.site n).resetting = false) ∧
      (∀ r, t.ring r = if (s.hamlet h).rings.getLsbD r.val then { s.ring r with owner := none }.disabled else s.ring r) ∧
      (∀ b ∈ (s.hamlet h).bellList, (t.bell b).owner = none) ∧ (∀ l : LinkNo, (s.hamlet h).links.getLsbD l.val = true → (t.link l).owner = none) ∧
      (∀ n, (t.site n).bad = (((s.failing h bad).foldl State.zeroiseFail s).site n).bad) ∧
      t.jrnl = ((s.failing h bad).foldl State.zeroiseFail s).jrnl ∧ t.flt = ((s.failing h bad).foldl State.zeroiseFail s).flt := by
  refine ⟨_, zeroisation_destroys hs, ?_⟩
  obtain ⟨hz, -⟩ := (zeroiseFails_spec (s.failing h bad) s).1
  generalize (s.failing h bad).foldl State.zeroiseFail s = w at hz ⊢
  have hwh (k : HamletNo) : w.hamlet k = s.hamlet k := by rw [hz]; rfl
  have hwd (k : Nat) : w.desc k = s.desc k := by rw [hz]; rfl
  have hwo : w.host = s.host := by rw [hz]
  have hwt : w.tb = s.tb := by rw [hz]
  have hws : w.sitesOf (s.hamlet h).cores = s.sitesOf (s.hamlet h).cores := by rw [hz]; rfl
  have hwp (p : Nat) : w.page p = s.page p := by rw [hz]; rfl
  have hwr (r : RingNo) : w.ring r = s.ring r := by rw [hz]; rfl
  obtain ⟨f, hfd, hfc⟩ := (abortRings_spec w (s.hamlet h)).2.1 id d ((hwd id).trans hd) (by rw [hwo]; exact ho)
  obtain ⟨⟨M, S, H, C, L, O, hu⟩, up, us, ub, ur, ux, ul, ud⟩ := returned_spec w h (s.hamlet h)
  rw [hws] at us
  generalize w.returned h (s.hamlet h) = u at hu up us ub ur ux ul ud ⊢
  have hsame := State.hamlet_setHamlet_same u h {}
  have hother := fun k (hk : k ≠ h) => State.hamlet_setHamlet_other u {} hk
  have hx : u.setHamlet h {} = { u with sec := (u.setHamlet h {}).sec } := rfl
  generalize u.setHamlet h {} = x at hsame hother hx ⊢
  obtain ⟨e1, e2, e3⟩ := endTransition_spec (st := 0) x hi ha hl hr (by rw [hsame]; rfl)
  have htold : toldOk s (x.setReady id 0 0 0) id := setReady_toldOk hn hw (by rw [hx]; exact (ud id).trans hfd) hfc (by rw [hx, hu, hwt])
  generalize x.endTransition h (s.hamlet h) 0 = t at e1 e2 e3 ⊢
  have htd (k : Nat) : t.desc k = (x.setReady id 0 0 0).desc k := by rw [e1]; rfl
  have htp (p : Nat) : t.page p = u.page p := by rw [e1, hx]; rfl
  have hts (n : SiteNo) : t.site n = u.site n := by rw [e1, hx]; rfl
  have htr (r : RingNo) : t.ring r = u.ring r := by rw [e1, hx]; rfl
  have htb (b : BellNo) : t.bell b = u.bell b := by rw [e1, hx]; rfl
  have htl (l : LinkNo) : t.link l = u.link l := by rw [e1, hx]; rfl
  refine ⟨?_, e2.trans (by rw [hsame]; rfl), fun k hk => ?_, fun p => ?_, fun n hm => ?_, fun r => ?_, fun b hb => ?_, fun l hb => ?_, fun n => ?_, ?_, ?_⟩
  · obtain ⟨e, h1, h2⟩ := htold
    exact ⟨e, (htd id).trans h1, h2⟩
  · refine (e3 k hk).trans ((hother k hk).trans (Eq.trans ?_ (hwh k)))
    rw [hu]
    rfl
  · rw [htp, up, hwp]
  · rw [hts]
    exact us n hm
  · rw [htr, ur, hwr]
  · rw [htb]
    exact ux b hb
  · rw [htl]
    exact ul l hb
  · rw [hts, ub]
  · rw [e1, hx, hu]
  · rw [e1, hx, hu]

/-- The end of a reset (R443, R446). -/
theorem rekeyedDone_spec (hs : (s.hamlet h).st = .resetting) (hl : (s.hamlet h).latched = none) (ha : (s.hamlet h).absorbed = [])
    (hr : (s.hamlet h).replaced = []) (hi : (s.hamlet h).desc = some id) (hd : s.desc id = some d) (hn : d.ready = none)
    (hw : windowOver d.fetched d.deadline s.tb = false) :
    completes (.hamletZeroisationDone ⟨h, bad⟩) s fun t => toldOk s t id ∧
      t.hamlet h = { s.hamlet h with st := .live, memKey := (t.hamlet h).memKey, binding := 0, blockCount := 0, confidential := false, desc := none } ∧
      (t.hamlet h).memKey.isSome = true ∧ (∀ k, k ≠ h → t.hamlet k = s.hamlet k) ∧
      (∀ n, t.site n = if n ∈ s.sitesOf (s.hamlet h).cores then { ((s.failing h bad).foldl State.zeroiseFail s).site n with resetting := false }
        else ((s.failing h bad).foldl State.zeroiseFail s).site n) ∧
      t.host.rings = s.host.rings ∧ t.coll = s.coll ∧ t.mem.pages = s.mem.pages ∧
      t.jrnl = ((s.failing h bad).foldl State.zeroiseFail s).jrnl ∧ t.flt = ((s.failing h bad).foldl State.zeroiseFail s).flt := by
  refine ⟨_, zeroisation_resets hs, ?_⟩
  obtain ⟨hz, -⟩ := (zeroiseFails_spec (s.failing h bad) s).1
  generalize (s.failing h bad).foldl State.zeroiseFail s = w at hz ⊢
  have hwh (k : HamletNo) : w.hamlet k = s.hamlet k := by rw [hz]; rfl
  have hwd (k : Nat) : w.desc k = s.desc k := by rw [hz]; rfl
  have hwt : w.tb = s.tb := by rw [hz]
  have hws : w.sitesOf (s.hamlet h).cores = s.sitesOf (s.hamlet h).cores := by rw [hz]; rfl
  obtain ⟨⟨K, Q, S, L, O, hu⟩, u1, u2, us⟩ := rekeyed_spec w h (s.hamlet h)
  rw [hws] at us
  rw [hwh] at u1
  generalize w.rekeyed h (s.hamlet h) = u at hu u1 u2 us ⊢
  obtain ⟨e1, e2, e3⟩ := endTransition_spec (st := 0) u hi ha hl hr (by rw [u1]; rfl)
  have htold : toldOk s (u.setReady id 0 0 0) id := setReady_toldOk (f := d) hn hw (by rw [hu]; exact (hwd id).trans hd) rfl (by rw [hu, hwt])
  generalize u.endTransition h (s.hamlet h) 0 = t at e1 e2 e3 ⊢
  have htd (k : Nat) : t.desc k = (u.setReady id 0 0 0).desc k := by rw [e1]; rfl
  have hts (n : SiteNo) : t.site n = u.site n := by rw [e1]; rfl
  have hth : t.hamlet h = { s.hamlet h with st := .live, memKey := some w.takeKey.2, binding := 0, blockCount := 0, confidential := false, desc := none } := by
    rw [e2, u1]
    exact settled_of hl ha hr
  refine ⟨?_, by rw [hth], by rw [hth]; rfl, fun k hk => (e3 k hk).trans ((u2 k hk).trans (hwh k)), fun n => (hts n).trans (us n), ?_, ?_, ?_, ?_, ?_⟩
  · obtain ⟨e, h1, h2⟩ := htold
    exact ⟨e, (htd id).trans h1, h2⟩
  · rw [e1, hu, hz]
  · rw [e1, hu, hz]
  · rw [e1, hu, hz]
  · rw [e1, hu]
  · rw [e1, hu]

/-- Sites of the hamlet that fail the read-back end bad, mapped out and recorded, whichever transition ends. -/
theorem failing_mem {n : SiteNo} (hn : n ∈ bad) (hm : n ∈ s.sitesOf (s.hamlet h).cores) : n ∈ s.failing h bad :=
  List.mem_filter.2 ⟨hn, List.contains_iff_mem.2 hm⟩

theorem failing_not_empty {n : SiteNo} (hn : n ∈ bad) (hm : n ∈ s.sitesOf (s.hamlet h).cores) : (s.failing h bad).isEmpty = false :=
  List.isEmpty_eq_false_iff.2 (List.ne_nil_of_mem (failing_mem hn hm))

end

/-- Settles O47: a hamlet command passes its checks, holds what it names while its cores are cleared, and its end gives, rekeys or returns them. -/
theorem hamletsChange : Obligations.HamletsChange := by
  unfold Obligations.HamletsChange
  refine ⟨?creates, ?commits, ?empties, ?ends⟩
  case creates =>
    refine fun s id d h ho hf hn => ⟨fun hc => ⟨_, hamletCreate_of h ho hf hn, ?_⟩, fun hc => hamletCreate_spec h ho hf hn hc⟩
    rw [if_pos hc, State.done, classStarts_id h]
    exact setReady_onlyAnswered h
  case commits =>
    intro s h bad id d hs hl ha hr hi hd hn hw
    refine ⟨fun he hb => ?_, fun he hb => commitSucceeds_spec hs hl ha hr hi hd hn hw he (failing_none hb), fun n hn' hm => ?_⟩
    · have hb' := failing_none hb
      obtain ⟨t, hex, ht⟩ := commitFails_spec (bad := bad) hs hl ha hr hi hd hn hw (.inr he)
      rw [hb'] at ht
      exact ⟨t, hex, ht⟩
    · obtain ⟨t, hex, h1, h2, -, h4, h5, h6, h7, h8⟩ := commitFails_spec (bad := bad) hs hl ha hr hi hd hn hw (.inl (failing_not_empty hn' hm))
      obtain ⟨⟨-, z1, -⟩, z2⟩ := zeroiseFails_spec (s.failing h bad) s
      refine ⟨t, hex, h1, h2, ?_, ?_, fun m hm' => ?_, h6, h5, h7, h4⟩
      · rw [h8 n, if_pos hm]
        exact (z2 n (failing_mem hn' hm)).1
      · rw [h8 n, if_pos hm]
        exact z1 n
      · rw [h8 m, if_pos hm']
  case empties =>
    exact fun s id d row hm h hf => ⟨fun ho => emptyRow_denied hm h hf ho, fun ho hn => emptyRow_absent hm h hf ho hn,
      fun ho hl he => emptyRow_live hm h hf ho hl he, fun ho hr hl => emptyRow_meets hm h hf ho hr hl⟩
  case ends =>
    intro s h id d hl ha hr hi hd hn hw ho
    refine ⟨fun hs => ?_, fun bad hs => ?_, fun hs => ?_⟩
    · obtain ⟨t, hex, h1, h2, h3, h4, h5, h6, h7, h8, -⟩ := destroyed_spec (bad := []) hs hl ha hr hi hd hn hw ho
      refine ⟨t, hex, h1, h2, h3, fun p hp => ?_, fun p hp => (h4 p).trans (if_neg hp), h5, fun r hb => ?_, fun r hb => ?_, h7, h8⟩
      · rw [h4 p, if_pos hp]
        exact ⟨rfl, rfl, rfl, rfl, rfl⟩
      · rw [h6 r, if_pos hb]
        exact ⟨rfl, rfl⟩
      · rw [h6 r, hb]
        rfl
    · obtain ⟨-, z2⟩ := zeroiseFails_spec (s.failing h bad) s
      rcases hs with hs | hs
      · obtain ⟨t, hex, h1, -, -, -, -, -, -, -, hb, hj, hf⟩ := destroyed_spec (bad := bad) hs hl ha hr hi hd hn hw ho
        refine ⟨t, hex, h1, fun n hn' hm => ?_⟩
        obtain ⟨y1, y2, y3⟩ := z2 n (failing_mem hn' hm)
        unfold State.mapBad at y2 ⊢
        rw [hb, hj, hf]
        exact ⟨y1, y2, y3⟩
      · obtain ⟨t, hex, h1, -, -, -, h5, -, -, -, hj, hf⟩ := rekeyedDone_spec (bad := bad) hs hl ha hr hi hd hn hw
        refine ⟨t, hex, h1, fun n hn' hm => ?_⟩
        obtain ⟨y1, y2, y3⟩ := z2 n (failing_mem hn' hm)
        unfold State.mapBad at y2 ⊢
        rw [h5 n, if_pos hm, hj, hf]
        exact ⟨y1, y2, y3⟩
    · obtain ⟨t, hex, h1, h2, h3, h4, h5, h6, h7, h8, -⟩ := rekeyedDone_spec (bad := []) hs hl ha hr hi hd hn hw
      exact ⟨t, hex, h1, h2, h3, h4, fun n hin => (h5 n).trans (if_pos hin), fun n hout => (h5 n).trans (if_neg hout), h6, h7, h8⟩

end Sys2Proof.Machine
end

section
/-!
PROOF. Recovery of jobs (15_faults_recovery.md, R402 to R419): reports, messages, the rollback and failed jobs; O54.
-/

namespace Sys2Proof.Machine

/-! ### The cores and LAUNCHes of a job end (R405, R410) -/

section
variable {s t u : State} {n : SiteNo}

/-- Outside the sites, the descriptors and the records all is as before. -/
def jobEnds (s t : State) : Prop :=
  t = { s with sites := t.sites, host := { s.host with descs := t.host.descs }, jrnl := t.jrnl,
               flt := { s.flt with nextId := t.flt.nextId, buf := t.flt.buf, overflow := t.flt.overflow } }

theorem jobEnds_refl (s : State) : jobEnds s s := rfl

theorem jobEnds_trans (h : jobEnds s t) (k : jobEnds t u) : jobEnds s u := by
  unfold jobEnds at h k ⊢
  rw [k, h]

theorem jobEnds_coreReset (s : State) (n : SiteNo) (k x : Bool) : jobEnds s (s.coreReset n k x) := by
  unfold State.coreReset
  have h : jobEnds s (s.abandonVote n) := by
    unfold State.abandonVote
    split
    · rfl
    · rfl
  generalize s.abandonVote n = u at h ⊢
  exact jobEnds_trans h rfl

theorem jobEnds_of_launchesOff (h : launchesOff s t) : jobEnds s t := by
  obtain ⟨h1, -⟩ := h
  unfold jobEnds
  rw [h1]

theorem coreReset_other (s : State) {m : SiteNo} (k x : Bool) (h : m ≠ n) : (s.coreReset n k x).site m = s.site m :=
  (coreReset_frame s n k x).2 m h

/-- Cores that are reset, each once. -/
theorem coreResets_site (s : State) {ns : List SiteNo} (hn : ns.Nodup) (x : Bool) (m : SiteNo) :
    (s.coreResets ns x).site m = if m ∈ ns then (s.site m).coreReset false x else s.site m := by
  have he : s.coreResets ns x = ns.foldl (fun (s : State) n => s.coreReset n false x) s := rfl
  rw [he]
  exact
  foldl_touches (F := fun (s : State) n => s.coreReset n false x) (read := fun m (v : State) => v.site m) (new := fun _ c => c.coreReset false x)
    (fun v n => coreReset_site v n false x) (fun v n m h => coreReset_other v false x h) hn s m

theorem leaveLaunches_site (s : State) (ns : List SiteNo) (m : SiteNo) :
    (ns.foldl State.leaveLaunch s).site m = if m ∈ ns then { s.site m with launch := none } else s.site m :=
  foldl_marks (F := State.leaveLaunch) (read := fun m (v : State) => v.site m) (new := fun c => { c with launch := none })
    (fun v n => leaveLaunch_site v n) (fun v n m h => (leaveLaunch_frame v n).2 m h) (fun _ => rfl) ns s m

theorem launchSites_nodup (s : State) (id : Nat) : (s.launchSites id).Nodup := (List.nodup_finRange 40).filter _

/-- A core that is reset and in no LAUNCH. -/
def Site.off (c : Site) : Prop := c.seq = .idle ∧ c.launch = none

theorem coreReset_launch (c : Site) (x : Bool) : (c.coreReset false x).launch = c.launch :=
  foldl_keeps Site.launch (fun (d : Site) e => d.modEng e (·.coreReset c.cycle)) (fun _ _ => rfl) (List.finRange 4) c

theorem coreReset_seq (c : Site) (x : Bool) : (c.coreReset false x).seq = .idle := by
  unfold Site.coreReset
  rfl

theorem launchStopped_site (s : State) (id : Nat) (m : SiteNo) : if m ∈ s.launchSites id then ((s.launchStopped id).site m).off
    else (s.launchStopped id).site m = s.site m := by
  unfold State.launchStopped
  rw [coreResets_site _ (launchSites_nodup s id), leaveLaunches_site]
  split
  · exact ⟨coreReset_seq _ _, coreReset_launch _ _⟩
  · rfl

theorem jobEnds_launchStopped (s : State) (id : Nat) : jobEnds s (s.launchStopped id) :=
  jobEnds_trans (jobEnds_of_launchesOff (foldl_related (P := launchesOff) launchesOff_refl (fun _ _ _ => launchesOff_trans) (F := State.leaveLaunch)
    launchesOff_leave (s.launchSites id) s))
    (foldl_related jobEnds_refl (fun _ _ _ => jobEnds_trans) (F := fun s n => s.coreReset n false false) (fun s n => jobEnds_coreReset s n false false) _ _)

/-- The end of a LAUNCH is that of its cores, and a completion. -/
theorem endLaunch_frame (s : State) (id : Nat) (status : BitVec 7) (detail : Word32) : jobEnds s (s.endLaunch id status detail) ∧
    ∀ m, (s.endLaunch id status detail).site m = (s.launchStopped id).site m := by
  have h := jobEnds_launchStopped s id
  have he : s.endLaunch id status detail = match (s.launchStopped id).desc id with
    | some d => (s.launchStopped id).setReady id status detail d.launchResult
    | none => s.launchStopped id := rfl
  rw [he]
  generalize s.launchStopped id = u at h ⊢
  split
  · exact ⟨jobEnds_trans h rfl, fun _ => rfl⟩
  · exact ⟨h, fun _ => rfl⟩

theorem mem_launchSites {id : Nat} : n ∈ s.launchSites id ↔ ∃ l, (s.site n).launch = some l ∧ l.desc = id := by
  unfold State.launchSites
  rw [List.mem_filter]
  refine ⟨fun h => ?_, fun ⟨l, hl, hd⟩ => ⟨List.mem_finRange n, ?_⟩⟩
  · cases hl : (s.site n).launch with
    | none =>
      rw [hl] at h
      exact Bool.noConfusion h.2
    | some l =>
      rw [hl] at h
      exact ⟨l, rfl, of_decide_eq_true h.2⟩
  · rw [hl]
    exact decide_eq_true hd

/-- LAUNCHes that end one after another. -/
def State.endLaunches (s : State) (ids : List Nat) (status : BitVec 7) (detail : Word32) : State :=
  ids.foldl (fun s i => s.endLaunch i status detail) s

/-- Every core is as it was or off, and those of the LAUNCHes that ended are off. -/
theorem endLaunches_sites (ids : List Nat) (status : BitVec 7) (detail : Word32) (s : State) :
    jobEnds s (s.endLaunches ids status detail) ∧
    (∀ m, (s.endLaunches ids status detail).site m = s.site m ∨ ((s.endLaunches ids status detail).site m).off) ∧
    (∀ m, (s.site m).off → ((s.endLaunches ids status detail).site m).off) ∧
    ∀ i ∈ ids, ∀ m ∈ s.launchSites i, ((s.endLaunches ids status detail).site m).off := by
  induction ids generalizing s with
  | nil => exact ⟨jobEnds_refl s, fun _ => .inl rfl, fun _ h => h, fun i hi => nomatch hi⟩
  | cons a ids ih =>
    obtain ⟨hf, hs⟩ := endLaunch_frame s a status detail
    have hst := launchStopped_site s a
    change jobEnds s ((s.endLaunch a status detail).endLaunches ids status detail) ∧
      (∀ m, ((s.endLaunch a status detail).endLaunches ids status detail).site m = _ ∨ (((s.endLaunch a status detail).endLaunches ids status detail).site m).off) ∧
      (∀ m, _ → (((s.endLaunch a status detail).endLaunches ids status detail).site m).off) ∧
      ∀ i ∈ _, ∀ m ∈ _, (((s.endLaunch a status detail).endLaunches ids status detail).site m).off
    generalize s.endLaunch a status detail = u at hf hs ⊢
    obtain ⟨i1, i2, i3, i4⟩ := ih u
    have hstep : ∀ m, u.site m = s.site m ∨ (u.site m).off := fun m => by
      have h := hst m
      rw [← hs m] at h
      split at h
      · exact .inr h
      · exact .inl h
    refine ⟨jobEnds_trans hf i1, fun m => ?_, fun m hm => ?_, fun i hi m hm => ?_⟩
    · rcases i2 m with h | h
      · rcases hstep m with k | k
        · exact .inl (h.trans k)
        · exact .inr (h ▸ k)
      · exact .inr h
    · refine i3 m ?_
      rcases hstep m with k | k
      · rw [k]
        exact hm
      · exact k
    · by_cases hia : i = a
      · refine i3 m ?_
        have h := hst m
        rw [← hs m, if_pos (hia ▸ hm)] at h
        exact h
      · rw [List.mem_cons] at hi
        rcases hstep m with k | k
        · refine i4 i (hi.resolve_left hia) m ?_
          rw [mem_launchSites, k, ← mem_launchSites]
          exact hm
        · exact i3 m k

/-- A completion is ready with a status and DETAIL. -/
def readyWith (s : State) (k : Nat) (status : BitVec 7) (detail : Word32) : Prop :=
  ∃ e c, s.desc k = some e ∧ e.ready = some c ∧ c.status = status ∧ c.detail = detail

theorem endLaunch_readyWith {k i : Nat} {status st : BitVec 7} {detail de : Word32} (h : readyWith s k status detail) :
    readyWith (s.endLaunch i st de) k status detail := by
  obtain ⟨e, c, he, hr, hc⟩ := h
  by_cases hk : k = i
  · subst hk
    obtain ⟨ht, hd⟩ := launchStopped_left s k
    obtain ⟨f, hf, ho⟩ := hd k e he
    have hfr : f.ready = some c := by rw [ho]; exact hr
    have hx : s.endLaunch k st de = (s.launchStopped k).modDesc k (Desc.readied (s.launchStopped k).tb st de f.launchResult) := by
      unfold State.endLaunch
      change (match (s.launchStopped k).desc k with | some d => _ | none => _) = _
      rw [hf]
      rfl
    rw [hx]
    refine ⟨_, c, desc_modDesc_same (readied_id _ _ _ _) hf, ?_, hc⟩
    unfold Desc.readied
    rw [hfr]
    exact hfr
  · obtain ⟨f, hf, ho⟩ := (endLaunch_spec s i st de).2.1 k e hk he
    refine ⟨f, c, hf, ?_, hc⟩
    rw [ho]
    exact hr

theorem endLaunch_open {k i : Nat} {st : BitVec 7} {de : Word32} (hk : k ≠ i) (h : openDesc s k) : openDesc (s.endLaunch i st de) k := by
  obtain ⟨e, he, hr, hw⟩ := h
  obtain ⟨ht, hd, -⟩ := endLaunch_spec s i st de
  obtain ⟨f, hf, ho⟩ := hd k e hk he
  refine ⟨f, hf, ?_, ?_⟩
  · rw [ho]
    exact hr
  · rw [ho, ht]
    exact hw

theorem endLaunches_ready (ids : List Nat) (status : BitVec 7) (detail : Word32) (s : State) :
    (∀ k, readyWith s k status detail → readyWith (s.endLaunches ids status detail) k status detail) ∧
    ∀ k ∈ ids, openDesc s k → readyWith (s.endLaunches ids status detail) k status detail := by
  induction ids generalizing s with
  | nil => exact ⟨fun _ h => h, fun k hk => nomatch hk⟩
  | cons a ids ih =>
    obtain ⟨i1, i2⟩ := ih (s.endLaunch a status detail)
    refine ⟨fun k hk => i1 k (endLaunch_readyWith hk), fun k hk ho => ?_⟩
    by_cases hka : k = a
    · subst hka
      obtain ⟨e, he, hr, hw⟩ := ho
      exact i1 k ((endLaunch_spec s k status detail).2.2 e he hr hw)
    · rw [List.mem_cons] at hk
      exact i2 k (hk.resolve_left hka) (endLaunch_open hka ho)

end

/-! ### The list of the jobs in recovery (R403) -/

section
variable {s t u : State} {o : Option HamletNo} {job : Word32} {r q : Recov}

theorem recov_dropRecov (s : State) (o : Option HamletNo) (job : Word32) : (s.dropRecov o job).recov o job = none := by
  refine List.find?_eq_none.2 fun r hr => ?_
  have h := (List.mem_filter.1 hr).2
  rw [Bool.or_eq_true, decide_eq_true_eq, decide_eq_true_eq] at h
  rw [Bool.and_eq_true, decide_eq_true_eq, decide_eq_true_eq]
  rintro ⟨rfl, rfl⟩
  rcases h with h | h
  · exact h rfl
  · exact h rfl

theorem recov_key (h : s.recov o job = some r) : r.scope = o ∧ r.job = job := by
  have h := List.find?_some h
  rw [Bool.and_eq_true, decide_eq_true_eq, decide_eq_true_eq] at h
  exact h

theorem recov_mem (h : s.recov o job = some r) : r ∈ s.flt.jobs := List.mem_of_find?_eq_some h

/-- Entries that meet a condition are replaced by one that meets it. -/
theorem find_replaced {α : Type} {p : α → Bool} {c : α → Prop} [DecidablePred c] (hc : ∀ a, p a = true ↔ c a) {x y : α} (hx : p x = true) {l : List α}
    (h : l.find? p = some y) : (l.map fun a => if c a then x else a).find? p = some x := by
  induction l with
  | nil => exact absurd (List.find?_nil.symm.trans h) (nofun)
  | cons a l ih =>
    rw [List.map_cons]
    by_cases ha : c a
    · rw [if_pos ha, List.find?_cons_of_pos hx]
    · have hn : ¬ p a = true := fun h => ha ((hc a).1 h)
      rw [if_neg ha, List.find?_cons_of_neg hn]
      rw [List.find?_cons_of_neg hn] at h
      exact ih h

/-- Entries are replaced that do not meet a condition, by one that does not. -/
theorem find_kept {α : Type} {p : α → Bool} {c : α → Prop} [DecidablePred c] (hc : ∀ a, c a → p a = false) {x : α} (hx : p x = false) (l : List α) :
    (l.map fun a => if c a then x else a).find? p = l.find? p := by
  induction l with
  | nil => rfl
  | cons a l ih =>
    rw [List.map_cons]
    by_cases ha : c a
    · rw [if_pos ha, List.find?_cons_of_neg (by rw [hx]; exact nofun), List.find?_cons_of_neg (by rw [hc a ha]; exact nofun), ih]
    · rw [if_neg ha]
      by_cases hk : p a = true
      · rw [List.find?_cons_of_pos hk, List.find?_cons_of_pos hk]
      · rw [List.find?_cons_of_neg hk, List.find?_cons_of_neg hk, ih]

theorem isOf_iff (o : Option HamletNo) (job : Word32) (a : Recov) : (decide (a.scope = o) && decide (a.job = job)) = true ↔ a.scope = o ∧ a.job = job := by
  rw [Bool.and_eq_true, decide_eq_true_eq, decide_eq_true_eq]

/-- The recovery of a job is replaced by another of the same job. -/
theorem recov_setRecov_same (hq : q.scope = o) (hj : q.job = job) (h : s.recov o job = some r) : (s.setRecov q).recov o job = some q := by
  subst hq hj
  exact find_replaced (isOf_iff q.scope q.job) ((isOf_iff _ _ q).2 ⟨rfl, rfl⟩) h

theorem recov_setRecov_other (h : (o, job) ≠ (q.scope, q.job)) : (s.setRecov q).recov o job = s.recov o job := by
  have hn : (decide (q.scope = o) && decide (q.job = job)) = false :=
    Bool.eq_false_iff.2 fun hk => h (by obtain ⟨h1, h2⟩ := (isOf_iff o job q).1 hk; rw [h1, h2])
  refine find_kept (c := fun (r : Recov) => r.scope = q.scope ∧ r.job = q.job) (fun a ha => ?_) hn _
  rw [ha.1, ha.2]
  exact hn

theorem recov_append (h : s.recov o job = none) (hq : q.scope = o) (hj : q.job = job) : (s.setJobs (s.flt.jobs ++ [q])).recov o job = some q := by
  unfold State.recov at h
  unfold State.recov State.setJobs
  rw [List.find?_append, h, List.find?_cons_of_pos]
  · rfl
  · rw [Bool.and_eq_true, decide_eq_true_eq, decide_eq_true_eq]
    exact ⟨hq, hj⟩

/-- With one recovery of a number, the first of that number that meets a condition is this one. -/
theorem recovOn_of {p : Recov → Bool} (h : recovering s r) (hp : p r = true) : s.recovOn r.job p = some r := by
  obtain ⟨-, hr, hu⟩ := h
  have hm := recov_mem hr
  unfold State.recovOn
  cases hf : s.flt.jobs.find? fun q => decide (q.job = r.job) && p q with
  | none =>
    refine absurd ?_ (List.find?_eq_none.1 hf r hm)
    rw [Bool.and_eq_true, decide_eq_true_eq]
    exact ⟨rfl, hp⟩
  | some q =>
    have hk := List.find?_some hf
    rw [Bool.and_eq_true, decide_eq_true_eq] at hk
    rw [hu q (List.mem_of_find?_eq_some hf) hk.1]

theorem recovOn_none {p : Recov → Bool} (h : recovering s r) (hp : p r = false) : s.recovOn r.job p = none := by
  obtain ⟨-, hr, hu⟩ := h
  refine List.find?_eq_none.2 fun q hq hk => ?_
  rw [Bool.and_eq_true, decide_eq_true_eq] at hk
  obtain ⟨hj, hp'⟩ := hk
  rw [hu q hq hj, hp] at hp'
  exact nomatch hp'

/-- A message of a job that this device holds and that recovers finds its recovery. -/
theorem recovOfMsg {m : RecMsg} (h : recovering s r) (hj : m.job = r.job) (ht : m.tag = r.scope) :
    ((s.scopeOfMsg m).bind fun o => s.recov o m.job) = some r := by
  obtain ⟨hd, hr, -⟩ := h
  unfold State.scopeOfMsg
  rw [hj, ht, if_neg fun hn => hd (List.isEmpty_iff.1 hn)]
  exact hr

/-! ### Messages of a recovery (R410, R419) -/

theorem sendOn_is (s : State) (k : RecKind) (r : Recov) (cause : BitVec 16) (but : Option (BitVec 12)) :
    s.sendOn k r cause but = { s with out := s.out ++ s.toNeighbours k r cause but } := rfl

theorem sendDown_is (s : State) (k : RecKind) (r : Recov) (i : Word64) : s.sendDown k r 0 i = { s with out := s.out ++ s.toChildren k r i } := rfl

/-- The recovery of a job goes on as q, and nothing is sent. -/
theorem setRecov_goes (h : s.recov r.scope r.job = some r) (hq : q.scope = r.scope) (hj : q.job = r.job) : recoveryGoes s (s.setRecov q) r q [] := by
  refine ⟨?_, recov_setRecov_same hq hj h, fun o j hn => recov_setRecov_other (by rw [hq, hj]; exact hn)⟩
  rw [List.append_nil]
  rfl

/-- The recovery of a job goes on as q, and messages are sent. -/
theorem sendAll_goes {msgs : List Out} (h : s.recov r.scope r.job = some r) (hq : q.scope = r.scope) (hj : q.job = r.job)
    (ht : t = (s.setRecov q).sendAll msgs) : recoveryGoes s t r q msgs := by
  rw [ht]
  exact ⟨rfl, recov_setRecov_same hq hj h, fun o j hn => recov_setRecov_other (by rw [hq, hj]; exact hn)⟩

/-! ### A job has failed here (R405, R419) -/

theorem off_of_ends {ids : List Nat} {status : BitVec 7} {detail : Word32} {m : SiteNo} (h : m ∈ ids.flatMap s.launchSites) :
    ((s.endLaunches ids status detail).site m).off := by
  obtain ⟨i, hi, hm⟩ := List.mem_flatMap.1 h
  exact (endLaunches_sites ids status detail s).2.2.2 i hi m hm

/-- The end of a job: its cores are off, its open LAUNCHes complete, and it is in recovery no more. -/
theorem endJob_spec (s : State) (o : Option HamletNo) (job : Word32) (status : BitVec 7) (detail : Word32) :
    (s.endJob o job status detail).out = s.out ∧ (s.endJob o job status detail).flt.failedJobs = s.flt.failedJobs ∧
    (s.endJob o job status detail).recov o job = none ∧
    (∀ m ∈ s.jobSites o job, ((s.endJob o job status detail).site m).off) ∧
    ∀ id ∈ s.jobDescs o job, openDesc s id → readyWith (s.endJob o job status detail) id status detail := by
  have he : s.endJob o job status detail = ((s.endLaunches (s.jobDescs o job) status detail).stopTally o).dropRecov o job := rfl
  have hf := (endLaunches_sites (s.jobDescs o job) status detail s).1
  have hs (m : SiteNo) (h : m ∈ s.jobSites o job) := off_of_ends (status := status) (detail := detail) h
  have hd := (endLaunches_ready (s.jobDescs o job) status detail s).2
  rw [he]
  generalize s.endLaunches (s.jobDescs o job) status detail = u at hf hs hd ⊢
  unfold jobEnds at hf
  refine ⟨?_, ?_, recov_dropRecov _ o job, hs, hd⟩
  · have h := congrArg State.out hf
    exact h
  · have h := congrArg (fun s : State => s.flt.failedJobs) hf
    exact h

theorem restoreDdr_mem (s : State) (v : CoreSave) : ∃ M, s.restoreDdr v = { s with mem := M } := by
  refine foldl_inv (fun t => ∃ M, t = { s with mem := M }) _ ?_ v.regions s ⟨s.mem, rfl⟩
  rintro _ x ⟨M, rfl⟩
  split
  · exact ⟨_, rfl⟩
  · exact ⟨M, rfl⟩

theorem restoreDdrs_mem (s : State) (l : List CoreSave) : ∃ M, l.foldl State.restoreDdr s = { s with mem := M } := by
  refine foldl_inv (fun t => ∃ M, t = { s with mem := M }) _ ?_ l s ⟨s.mem, rfl⟩
  rintro _ v ⟨M, rfl⟩
  obtain ⟨N, hN⟩ := restoreDdr_mem { s with mem := M } v
  exact ⟨N, hN⟩

/-- GDDR7 as the last tally of a job left its declared regions (R419). -/
def State.regionsBack (s : State) (o : Option HamletNo) (job : Word32) : State :=
  match s.jobTally o job with
  | some b => b.cores.foldl State.restoreDdr s
  | none => s

theorem regionsBack_mem (s : State) (o : Option HamletNo) (job : Word32) : ∃ M, s.regionsBack o job = { s with mem := M } := by
  unfold State.regionsBack
  split
  · exact restoreDdrs_mem s _
  · exact ⟨s.mem, rfl⟩

theorem modSites_ws {ns : List SiteNo} (hs : ∀ m ∈ ns, (s.site m).off) {m : SiteNo} (h : m ∈ ns) :
    ((s.modSites ns fun c => { c with ws := [] }).site m).seq = .idle ∧ ((s.modSites ns fun c => { c with ws := [] }).site m).launch = none ∧
    ((s.modSites ns fun c => { c with ws := [] }).site m).ws = [] := by
  rw [modSites_same ns s (f := fun c => { c with ws := [] }) (fun _ => rfl) h]
  exact ⟨(hs m h).1, (hs m h).2, rfl⟩

/-- A job fails on this device. -/
theorem failHere_failed (s : State) (o : Option HamletNo) (job : Word32) (cause : BitVec 16) :
    jobFailed s (s.failHere o job cause) o job ∧ (s.failHere o job cause).out = s.out := by
  obtain ⟨M, hM⟩ := regionsBack_mem s o job
  have he : s.failHere o job cause = (fun v : State => ({ v with flt := { v.flt with failedJobs := satInc v.flt.failedJobs } } : State).fault 0x0605 none
      (cause.setWidth 32) ((s.lastNo o job).setWidth 64))
      (((s.regionsBack o job).endJob o job 7 (s.lastNo o job)).modSites (s.jobSites o job) fun c => { c with ws := [] }) := rfl
  rw [he, hM]
  have hsites : ({ s with mem := M } : State).jobSites o job = s.jobSites o job := rfl
  obtain ⟨hout, hfj, hrec, hoff, hrdy⟩ := endJob_spec { s with mem := M } o job 7 (s.lastNo o job)
  rw [hsites] at hoff
  generalize ({ s with mem := M } : State).endJob o job 7 (s.lastNo o job) = w at *
  have hws {m : SiteNo} (h : m ∈ s.jobSites o job) := modSites_ws hoff h
  have hfr := modSites_frame (s.jobSites o job) w fun c => { c with ws := [] }
  generalize w.modSites (s.jobSites o job) (fun c => { c with ws := [] }) = x at *
  obtain ⟨hflt, hhost, hxo⟩ : x.flt = w.flt ∧ x.host = w.host ∧ x.out = w.out := by
    rw [hfr]
    exact ⟨rfl, rfl, rfl⟩
  refine ⟨⟨fun n hn => hws hn, fun id hid d hd hr hw => ?_, ?_, ?_⟩, ?_⟩
  · obtain ⟨e, c, hde, hec, h1, h2⟩ := hrdy id hid ⟨d, hd, hr, hw⟩
    refine ⟨e, c, ?_, hec, h1, h2⟩
    change x.desc id = some e
    unfold State.desc at hde ⊢
    rw [hhost]
    exact hde
  · change satInc x.flt.failedJobs = _
    rw [hflt, hfj]
  · change x.recov o job = none
    unfold State.recov at hrec ⊢
    rw [hflt]
    exact hrec
  · change x.out = _
    rw [hxo, hout]

/-- A job fails on this device, which tells the tree (R419). -/
theorem failJob_failed (s : State) (o : Option HamletNo) (job : Word32) (cause : BitVec 16) :
    jobFailed s (s.failJob o job cause) o job ∧ (s.failJob o job cause).out = s.out ++ s.toNeighbours .fail (s.recovOf o job) cause none :=
  failHere_failed (s.sendOn .fail (s.recovOf o job) cause none) o job cause

theorem recovOf_of (h : s.recov o job = some r) : s.recovOf o job = r := by
  unfold State.recovOf
  rw [h]
  rfl

end

/-! ### The messages of a recovery (R410 to R413, R418) -/

section
variable {s u : State} {r q : Recov} {m : RecMsg} {tm : Word64}

theorem recovering_at (h : recovering s r) (tm : Word64) : recovering (s.at tm) r := by
  obtain ⟨w, hw⟩ := at_is s tm
  rw [hw]
  exact h

/-- A recovery after a STOPPED of a child (R410, R411). -/
def State.stoppedBy (u : State) (r : Recov) (m : RecMsg) : Recov :=
  { r with
    tally := if lowerMod m.tally r.tally then m.tally else r.tally, since := u.heard r,
    tallyOk := r.tallyOk && m.tallyOk && u.rollsBack r.scope r.job (if lowerMod m.tally r.tally then m.tally else r.tally),
    noSpare := r.noSpare || m.noSpare, waitStopped := r.waitStopped.filter fun d => decide (d ≠ m.source) }

/-- A recovery after a READY of a child (R410). -/
def State.readyBy (u : State) (r : Recov) (m : RecMsg) : Recov :=
  { r with waitReady := r.waitReady.filter fun d => decide (d ≠ m.source), since := u.heard r }

/-- A recovery that begins its RESTORE (R410). -/
def State.inRestore (u : State) (r : Recov) : Recov :=
  { r with phase := .restore, since := u.tb, localReady := false, goAt := none, waitReady := u.jobChildren r.scope r.job }

theorem recoveryStopped_of (h : recovering (s.at tm) r) (hj : m.job = r.job) (ht : m.tag = r.scope) (ha : m.attempt = r.attempt) :
    exec (.recoveryStopped m tm) s = .next (if ((s.at tm).stoppedBy r m).waitStopped.isEmpty = true ∧ r.phase = .stop
      then ((s.at tm).setRecov ((s.at tm).stoppedBy r m)).allStopped ((s.at tm).stoppedBy r m)
      else (s.at tm).setRecov ((s.at tm).stoppedBy r m)) := by
  have hr := recovOfMsg h hj ht
  change execRecoveryStopped m tm s = _
  unfold execRecoveryStopped
  generalize s.at tm = u at h hr ⊢
  dsimp only
  rw [hr]
  dsimp only
  rw [ha, if_neg (BitVec.lt_irrefl r.attempt), decide_eq_false (BitVec.lt_irrefl r.attempt)]
  rw [apply_ite Host.Outcome.next]
  simp only [Bool.false_eq_true, if_false, or_false]
  rfl

/-- The recovery of a job goes on as a, then as b, and messages are sent. -/
theorem setRecov_twice {a b : Recov} {msgs : List Out} (h : s.recov r.scope r.job = some r) (ha : a.scope = r.scope ∧ a.job = r.job)
    (hb : b.scope = r.scope ∧ b.job = r.job) : recoveryGoes s (((s.setRecov a).setRecov b).sendAll msgs) r b msgs := by
  refine ⟨rfl, recov_setRecov_same hb.1 hb.2 (recov_setRecov_same ha.1 ha.2 h), fun o j hn => ?_⟩
  exact (recov_setRecov_other (by rw [hb.1, hb.2]; exact hn)).trans (recov_setRecov_other (by rw [ha.1, ha.2]; exact hn))

/-- With the subtree stopped, STOPPED goes up. -/
theorem allStopped_up {p : BitVec 12} (h : s.recov r.scope r.job = some r) (hq : q.scope = r.scope ∧ q.job = r.job)
    (hp : s.jobParent r.scope r.job = some p) : recoveryGoes s ((s.setRecov q).allStopped q) r { q with phase := .stopped }
      [.recovery .stopped p (s.recMsg { q with phase := .stopped } 0 0 true) r.scope] := by
  have hp' : (s.setRecov q).jobParent q.scope q.job = some p := by rw [hq.1, hq.2]; exact hp
  have he : (s.setRecov q).allStopped q = ((s.setRecov q).setRecov { q with phase := .stopped }).sendAll
      [.recovery .stopped p (s.recMsg { q with phase := .stopped } 0 0 true) r.scope] := by
    unfold State.allStopped
    rw [hp']
    dsimp only
    unfold State.sendUp
    have hp2 : ((s.setRecov q).setRecov { q with phase := .stopped }).jobParent q.scope q.job = some p := hp'
    dsimp only
    rw [hp2, ← hq.1]
    rfl
  rw [he]
  exact setRecov_twice h hq hq

/-- With the subtree stopped, the root that can choose sends RESTORE. -/
theorem allStopped_root (h : s.recov r.scope r.job = some r) (hq : q.scope = r.scope ∧ q.job = r.job)
    (hp : s.jobParent r.scope r.job = none) (hw : s.whyFails q = none) :
    recoveryGoes s ((s.setRecov q).allStopped q) r (s.inRestore q) (s.toChildren .restore (s.inRestore q) 0) := by
  have hp' : (s.setRecov q).jobParent q.scope q.job = none := by rw [hq.1, hq.2]; exact hp
  have hw' : (s.setRecov q).whyFails q = none := hw
  have he : (s.setRecov q).allStopped q = ((s.setRecov q).setRecov (s.inRestore q)).sendAll (s.toChildren .restore (s.inRestore q) 0) := by
    unfold State.allStopped
    rw [hp', hw']
    rfl
  rw [he]
  exact setRecov_twice h hq hq

/-- With the subtree stopped, the root that cannot choose fails the job. -/
theorem allStopped_fails {cause : BitVec 16} (hq : q.scope = r.scope ∧ q.job = r.job)
    (hp : s.jobParent r.scope r.job = none) (hw : s.whyFails q = some cause) : jobFailed s ((s.setRecov q).allStopped q) r.scope r.job := by
  have hp' : (s.setRecov q).jobParent q.scope q.job = none := by rw [hq.1, hq.2]; exact hp
  have hw' : (s.setRecov q).whyFails q = some cause := hw
  have he : (s.setRecov q).allStopped q = (s.setRecov q).failJob r.scope r.job cause := by
    unfold State.allStopped
    rw [hp', hw', ← hq.1, ← hq.2]
  rw [he]
  exact (failJob_failed (s.setRecov q) r.scope r.job cause).1

theorem recoveryRestore_of (h : recovering (s.at tm) r) (hj : m.job = r.job) (ht : m.tag = r.scope) (ha : m.attempt = r.attempt)
    (hp : r.phase ≠ .stop) : exec (.recoveryRestore m tm) s = .next (if (s.at tm).rollsBack r.scope r.job m.tally = false
      then (s.at tm).failJob r.scope r.job 3 else (s.at tm).beginRestore { r with tally := m.tally }) := by
  have hr := recovOfMsg h hj ht
  change execRecoveryRestore m tm s = _
  unfold execRecoveryRestore
  generalize s.at tm = u at h hr ⊢
  dsimp only
  rw [hr]
  dsimp only
  rw [ha, if_neg (not_or.2 ⟨BitVec.lt_irrefl r.attempt, hp⟩), if_neg (BitVec.lt_irrefl r.attempt)]
  rw [apply_ite Host.Outcome.next]

theorem beginRestore_goes (h : s.recov r.scope r.job = some r) (hq : q.scope = r.scope ∧ q.job = r.job) :
    recoveryGoes s (s.beginRestore q) r (s.inRestore q) (s.toChildren .restore (s.inRestore q) 0) :=
  sendAll_goes h hq.1 hq.2 rfl

theorem recoveryReady_of (h : recovering (s.at tm) r) (hj : m.job = r.job) (ht : m.tag = r.scope) (ha : m.attempt = r.attempt)
    (hp : r.phase = .restore) : exec (.recoveryReady m tm) s = .next (((s.at tm).setRecov ((s.at tm).readyBy r m)).allReady ((s.at tm).readyBy r m)) := by
  have hr := recovOfMsg h hj ht
  change execRecoveryReady m tm s = _
  unfold execRecoveryReady
  generalize s.at tm = u at h hr ⊢
  dsimp only
  rw [hr]
  dsimp only
  rw [ha, if_neg (not_or.2 ⟨BitVec.lt_irrefl r.attempt, not_not.2 hp⟩)]
  rfl

theorem allReady_waits (h : q.waitReady ≠ [] ∨ q.localReady = false) : s.allReady q = s := by
  unfold State.allReady
  rw [if_neg]
  rw [Bool.and_eq_true, List.isEmpty_iff]
  rintro ⟨hl, hw⟩
  rcases h with h | h
  · exact h hw
  · exact nomatch hl.symm.trans h

/-- With all ready, READY goes up. -/
theorem allReady_up {p : BitVec 12} (h : s.recov r.scope r.job = some r) (hq : q.scope = r.scope ∧ q.job = r.job)
    (hw : q.waitReady = []) (hl : q.localReady = true) (hp : s.jobParent r.scope r.job = some p) :
    recoveryGoes s ((s.setRecov q).allReady q) r q [.recovery .ready p (s.recMsg q 0 0 true) r.scope] := by
  have hp' : (s.setRecov q).jobParent q.scope q.job = some p := by rw [hq.1, hq.2]; exact hp
  refine sendAll_goes h hq.1 hq.2 ?_
  have hc : (q.localReady && q.waitReady.isEmpty) = true := by rw [hl, hw]; rfl
  unfold State.allReady
  rw [if_pos hc, hp']
  unfold State.sendUp
  rw [hp', ← hq.1]
  rfl

theorem goWith_goes (h : s.recov r.scope r.job = some r) (hq : q.scope = r.scope ∧ q.job = r.job) (i : Word64) :
    recoveryGoes s (s.goWith q i) r { q with phase := .go, since := s.tb, goAt := some i }
      (s.toChildren .go { q with phase := .go, since := s.tb, goAt := some i } i) :=
  sendAll_goes h hq.1 hq.2 rfl

/-- With all ready, the root sends GO. -/
theorem allReady_root (h : s.recov r.scope r.job = some r) (hq : q.scope = r.scope ∧ q.job = r.job)
    (hw : q.waitReady = []) (hl : q.localReady = true) (hp : s.jobParent r.scope r.job = none) :
    recoveryGoes s ((s.setRecov q).allReady q) r { q with phase := .go, since := s.tb, goAt := some s.goInstant }
      (s.toChildren .go { q with phase := .go, since := s.tb, goAt := some s.goInstant } s.goInstant) := by
  have hp' : (s.setRecov q).jobParent q.scope q.job = none := by rw [hq.1, hq.2]; exact hp
  have he : (s.setRecov q).allReady q = ((s.setRecov q).setRecov { q with phase := .go, since := s.tb, goAt := some s.goInstant }).sendAll
      (s.toChildren .go { q with phase := .go, since := s.tb, goAt := some s.goInstant } s.goInstant) := by
    have hc : (q.localReady && q.waitReady.isEmpty) = true := by rw [hl, hw]; rfl
    unfold State.allReady
    rw [if_pos hc, hp']
    rfl
  rw [he]
  exact setRecov_twice h hq hq

theorem recoveryGo_of (h : recovering (s.at tm) r) (hj : m.job = r.job) (ht : m.tag = r.scope) (ha : m.attempt = r.attempt)
    (hp : r.phase = .restore) (hl : r.localReady = true) : exec (.recoveryGo m tm) s = .next ((s.at tm).goWith r m.instant) := by
  have hr := recovOfMsg h hj ht
  change execRecoveryGo m tm s = _
  unfold execRecoveryGo
  generalize s.at tm = u at h hr ⊢
  dsimp only
  rw [hr]
  dsimp only
  rw [ha, hl, if_neg (not_or.2 ⟨BitVec.lt_irrefl r.attempt, not_or.2 ⟨not_not.2 hp, nofun⟩⟩)]

/-! ### FAIL and the limit of a phase (R410, R419) -/

theorem recovOf_key (s : State) (o : Option HamletNo) (job : Word32) : (s.recovOf o job).scope = o ∧ (s.recovOf o job).job = job := by
  unfold State.recovOf
  cases h : s.recov o job with
  | none => exact ⟨rfl, rfl⟩
  | some r => exact recov_key h

theorem recoveryFail_of {o : Option HamletNo} (ho : (s.at tm).scopeOfMsg m = some o) (hr : ∀ r, (s.at tm).recov o m.job = some r → r.attempt ≤ m.attempt)
    (h1 : 1 ≤ m.attempt) : exec (.recoveryFail m tm) s =
      .next (((s.at tm).sendOn .fail ((s.at tm).recovOf o m.job) m.cause (some m.source)).failHere o m.job m.cause) := by
  change execRecoveryFail m tm s = _
  unfold execRecoveryFail
  generalize s.at tm = u at ho hr ⊢
  dsimp only
  rw [ho]
  dsimp only
  rw [if_neg]
  refine BitVec.not_lt.2 ?_
  unfold State.recovOf
  cases h : u.recov o m.job with
  | none => exact h1
  | some r => exact hr r h

theorem recoveryPhaseTimeout_of (h : recovering (s.at tm) r) (hw : windowOver r.since 1000000000 (s.at tm).tb = true) :
    exec (.recoveryPhaseTimeout r.job tm) s = .next ((s.at tm).failJob r.scope r.job 6) := by
  change execRecoveryPhaseTimeout r.job tm s = _
  unfold execRecoveryPhaseTimeout
  generalize s.at tm = u at h hw ⊢
  dsimp only
  rw [recovOn_of h hw]

theorem recoveryPhaseTimeout_early (h : recovering (s.at tm) r) (hw : windowOver r.since 1000000000 (s.at tm).tb = false) :
    exec (.recoveryPhaseTimeout r.job tm) s = .next (s.at tm) := by
  change execRecoveryPhaseTimeout r.job tm s = _
  unfold execRecoveryPhaseTimeout
  generalize s.at tm = u at h hw ⊢
  dsimp only
  rw [recovOn_none h hw]

end

/-! ### Dispatch resumes (R410, R412) -/

section
variable {s : State} {r : Recov} {tm : Word64} {o : Option HamletNo} {job : Word32}

/-- The rollback of a LAUNCH is counted. -/
def Desc.rolled (d : Desc) : Desc := { d with rollbacks := satInc d.rollbacks }

theorem Site.resume_resume (now : Word64) (c : Site) : (c.resume now).resume now = c.resume now := by
  unfold Site.resume
  cases c.launch <;> rfl

theorem modDesc_map (s : State) (id : Nat) {f : Desc → Desc} (hf : ∀ d, (f d).id = d.id) : (s.modDesc id f).desc id = (s.desc id).map f := by
  cases h : s.desc id with
  | none =>
    rw [desc_modDesc hf, h]
    rfl
  | some d => exact desc_modDesc_same hf h

theorem rolled_desc {ids : List Nat} (hn : ids.Nodup) (s : State) (k : Nat) :
    (ids.foldl (fun (s : State) d => s.modDesc d Desc.rolled) s).desc k = if k ∈ ids then (s.desc k).map Desc.rolled else s.desc k :=
  foldl_touches (F := fun (s : State) d => s.modDesc d Desc.rolled) (read := fun k (v : State) => v.desc k) (new := fun _ d => d.map Desc.rolled)
    (fun v n => modDesc_map v n fun _ => rfl) (fun v n m h => desc_modDesc_other (fun _ => rfl) h) hn s k

theorem rolled_frame (ids : List Nat) (s : State) : ∃ D, ids.foldl (fun (s : State) d => s.modDesc d Desc.rolled) s = { s with host := { s.host with descs := D } } := by
  refine foldl_inv (fun t => ∃ D, t = { s with host := { s.host with descs := D } }) _ ?_ ids s ⟨s.host.descs, rfl⟩
  rintro _ d ⟨D, rfl⟩
  exact ⟨_, rfl⟩

/-- The cores of a job run again, and its LAUNCHes have counted the rollback (R412). -/
def State.resumed (s : State) (o : Option HamletNo) (job : Word32) : State :=
  (s.jobDescs o job).foldl (fun (s : State) d => s.modDesc d Desc.rolled) (s.modSites (s.jobSites o job) fun c => c.resume s.tb)

theorem resumed_spec (s : State) (o : Option HamletNo) (job : Word32) :
    (∃ S D, s.resumed o job = { s with sites := S, host := { s.host with descs := D } }) ∧
    (∀ m ∈ s.jobSites o job, ((s.resumed o job).site m).seq = .running) ∧
    ((s.jobDescs o job).Nodup → ∀ id ∈ s.jobDescs o job, (s.resumed o job).desc id = (s.desc id).map Desc.rolled) := by
  unfold State.resumed
  have hs (m : SiteNo) (h : m ∈ s.jobSites o job) := modSites_same (s.jobSites o job) s (f := fun c => c.resume s.tb) (Site.resume_resume s.tb) h
  have hf := modSites_frame (s.jobSites o job) s fun c => c.resume s.tb
  generalize s.modSites (s.jobSites o job) (fun c => c.resume s.tb) = u at hs hf ⊢
  obtain ⟨D, hD⟩ := rolled_frame (s.jobDescs o job) u
  refine ⟨⟨u.sites, D, ?_⟩, fun m hm => ?_, fun hn id hid => ?_⟩
  · rw [hD, hf]
  · rw [hD]
    change (u.site m).seq = _
    rw [hs m hm]
    rfl
  · rw [rolled_desc hn, if_pos hid, hf]
    rfl

theorem resumeAtInstant_of {i : Word64} (h : recovering (s.at tm) r) (hp : r.phase = .go) (hg : r.goAt = some i) (hi : i ≤ (s.at tm).tb) :
    exec (.resumeAtInstant r.job tm) s = .next ((((s.at tm).resumed r.scope r.job).fault 0x0603 none
      (satNat 32 (((s.at tm).tb - r.began).toNat / 1000)) (r.tally.setWidth 64)).dropRecov r.scope r.job) := by
  change execResumeAtInstant r.job tm s = _
  unfold execResumeAtInstant
  generalize s.at tm = u at h hi ⊢
  have hc : r.goCame u.tb = true := by
    unfold Recov.goCame
    rw [hg, hp]
    dsimp only
    rw [decide_eq_true hi]
    rfl
  dsimp only
  rw [recovOn_of h hc]
  have hd : (u.modSites (u.jobSites r.scope r.job) fun c => c.resume u.tb).jobDescs r.scope r.job = u.jobDescs r.scope r.job := by
    rw [modSites_frame]
    rfl
  dsimp only
  rw [hd]
  rfl

theorem resumeAtInstant_early {i : Word64} (h : recovering (s.at tm) r) (hg : r.goAt = some i) (hi : (s.at tm).tb < i) :
    exec (.resumeAtInstant r.job tm) s = .next (s.at tm) := by
  change execResumeAtInstant r.job tm s = _
  unfold execResumeAtInstant
  generalize s.at tm = u at h hi ⊢
  have hc : r.goCame u.tb = false := by
    unfold Recov.goCame
    rw [hg]
    dsimp only
    rw [decide_eq_false (BitVec.not_le.2 hi)]
    rfl
  dsimp only
  rw [recovOn_none h hc]

/-- What RESUME_AT_INSTANT has done. -/
theorem resumed_fault (u : State) (o : Option HamletNo) (job d : Word32) (a : Word64) :
    let t := ((u.resumed o job).fault 0x0603 none d a).dropRecov o job
    t = { u with sites := t.sites, host := { u.host with descs := t.host.descs }, flt := t.flt, jrnl := t.jrnl } ∧
    (∀ n ∈ u.jobSites o job, (t.site n).seq = .running) ∧
    ((u.jobDescs o job).Nodup → ∀ id ∈ u.jobDescs o job, ∀ d, u.desc id = some d → t.desc id = some d.rolled) ∧
    logged u t 0x0603 ∧ t.recov o job = none := by
  obtain ⟨⟨S, D, hf⟩, hs, hd⟩ := resumed_spec u o job
  have hl := record_logged (u.resumed o job) ((u.resumed o job).plainRec 0x0603 none d a)
  have hr := recov_dropRecov ((u.resumed o job).fault 0x0603 none d a) o job
  refine ⟨?_, hs, fun hn id hid d hdd => ?_, ?_, hr⟩
  · generalize u.resumed o job = v at hf ⊢
    subst hf
    rfl
  · refine (hd hn id hid).trans ?_
    rw [hdd]
    rfl
  · have hx : (u.resumed o job).flt = u.flt := by rw [hf]
    unfold logged at hl ⊢
    rw [hx] at hl
    exact hl

end

/-! ### Tally n is written back (R150, R303, R412) -/

section
variable {s : State}

theorem reload_frame (s : State) (o : Option HamletNo) (job : Word32) : ∃ S, s.reload o job = { s with sites := S } := by
  refine foldl_inv (fun t => ∃ S, t = { s with sites := S }) _ ?_ _ s ⟨s.sites, rfl⟩
  rintro _ i ⟨S, rfl⟩
  split
  · exact ⟨_, modSites_frame _ _ _⟩
  · exact ⟨S, rfl⟩

theorem siteRestore_is (c : Site) (v : CoreSave) : ∃ W, c.restoreCore v =
    { c with pc := v.pc, sregs := v.sregs, aregs := v.aregs, toks := v.toks, loops := v.loops, vregs := v.vregs, ws := W } := by
  refine foldl_inv (fun t : Site => ∃ W, t = { c with pc := v.pc, sregs := v.sregs, aregs := v.aregs, toks := v.toks, loops := v.loops, vregs := v.vregs, ws := W })
    _ ?_ v.regions _ ⟨c.ws, rfl⟩
  rintro _ x ⟨W, rfl⟩
  split
  · exact ⟨W, rfl⟩
  · exact ⟨_, rfl⟩

/-- The sequencer state of a core is that of a saved core. -/
def Site.hasState (c : Site) (v : CoreSave) : Prop :=
  c.pc = v.pc ∧ c.sregs = v.sregs ∧ c.aregs = v.aregs ∧ c.toks = v.toks ∧ c.loops = v.loops ∧ c.vregs = v.vregs

theorem restoreCore_spec {v : CoreSave} {n : SiteNo} (s : State) (h : s.siteOf v.lc = some n) :
    (∃ S M, s.restoreCore v = { s with sites := S, mem := M }) ∧ ((s.restoreCore v).site n).hasState v := by
  obtain ⟨M, hM⟩ := restoreDdr_mem s v
  have hn : ({ s with mem := M } : State).siteOf v.lc = some n := h
  have he : s.restoreCore v = ({ s with mem := M } : State).modSite n fun c => c.restoreCore v := by
    unfold State.restoreCore
    rw [hM]
    dsimp only
    rw [hn]
  rw [he]
  refine ⟨⟨_, M, rfl⟩, ?_⟩
  rw [State.site_modSite_same]
  obtain ⟨W, hW⟩ := siteRestore_is (({ s with mem := M } : State).site n) v
  rw [hW]
  exact ⟨rfl, rfl, rfl, rfl, rfl, rfl⟩

/-- Only the bells differ. -/
def bellsOnly (s t : State) : Prop := t = { s with coll := { s.coll with bells := t.coll.bells } }

theorem bellsOnly_refl (s : State) : bellsOnly s s := rfl

theorem bellsOnly_trans {t u : State} (h : bellsOnly s t) (k : bellsOnly t u) : bellsOnly s u := by
  unfold bellsOnly at h k ⊢
  rw [k, h]

theorem bellsOnly_zeroUnsaved (s : State) (l : List (BitVec 13)) : bellsOnly s (s.zeroUnsaved l) := by
  refine foldl_related bellsOnly_refl (fun _ _ _ => bellsOnly_trans) (fun v e => ?_) _ s
  dsimp only
  split
  · rfl
  · rfl

theorem bellsOnly_restoreBell (s : State) (p : BitVec 13 × Bell) : bellsOnly s (s.restoreBell p) := by
  unfold State.restoreBell
  dsimp only
  split
  · rfl
  · rfl

theorem bellsOnly_rearmBell (s : State) (b : BitVec 13) : bellsOnly s (s.rearmBell b) := rfl

/-- A tally bell is armed with COUNT 0 (R303). -/
def Bell.rearmed (b : Bell) : Prop := b.count = 0 ∧ b.armed = true

theorem rearmBell_keeps (s : State) (k b : BitVec 13) (h : (s.bell (bellNo k)).rearmed) : ((s.rearmBell b).bell (bellNo k)).rearmed := by
  by_cases hk : bellNo k = bellNo b
  · rw [hk]
    unfold State.rearmBell
    rw [State.bell_setBell_same]
    exact ⟨rfl, rfl⟩
  · unfold State.rearmBell
    rw [State.bell_setBell_other _ _ hk]
    exact h

theorem rearmBells_spec (l : List (BitVec 13)) (s : State) : ∀ k ∈ l, ((l.foldl State.rearmBell s).bell (bellNo k)).rearmed := fun k hk =>
  foldl_reached (P := fun s t => (s.bell (bellNo k)).rearmed → (t.bell (bellNo k)).rearmed) (fun _ h => h) (fun _ _ _ h1 h2 h => h2 (h1 h))
    (F := State.rearmBell) (fun v b => rearmBell_keeps v k b) (Q := fun t => (t.bell (bellNo k)).rearmed) (fun _ _ h1 h => h1 h) hk s fun v _ => by
      unfold State.rearmBell
      rw [State.bell_setBell_same]
      exact ⟨rfl, rfl⟩

/-- A tally of one core is written back: sites, GDDR7 and bells change. -/
theorem restoreTally_spec {o : Option HamletNo} {job n : Word32} {b : TallyBuf} {v : CoreSave} {k : SiteNo} (ht : s.tallyNo o job n = some b)
    (hc : b.cores = [v]) (hk : s.siteOf v.lc = some k) :
    (∃ S M B, s.restoreTally o job n = { s with sites := S, mem := M, coll := { s.coll with bells := B } }) ∧
    ((s.restoreTally o job n).site k).hasState v ∧ ∀ x ∈ s.jobBells o job, ((s.restoreTally o job n).bell (bellNo x)).rearmed := by
  obtain ⟨S, hS⟩ := reload_frame s o job
  have hkS : ({ s with sites := S } : State).siteOf v.lc = some k := hk
  obtain ⟨⟨S', M, hf⟩, hst⟩ := restoreCore_spec { s with sites := S } hkS
  have hjb : (({ s with sites := S } : State).restoreCore v).jobBells o job = s.jobBells o job := by
    rw [hf]
    rfl
  have he : s.restoreTally o job n = (fun w : State => (w.jobBells o job).foldl State.rearmBell w)
      (b.bells.foldl State.restoreBell (if o = none then (({ s with sites := S } : State).restoreCore v).zeroUnsaved (b.bells.map (·.1) ++ s.jobBells o job)
        else ({ s with sites := S } : State).restoreCore v)) := by
    unfold State.restoreTally
    rw [ht]
    dsimp only
    rw [hS, hc, List.foldl_cons, List.foldl_nil, hjb]
  rw [he]
  generalize ({ s with sites := S } : State).restoreCore v = w at hf hst hjb ⊢
  have h1 : bellsOnly w (b.bells.foldl State.restoreBell (if o = none then w.zeroUnsaved (b.bells.map (·.1) ++ s.jobBells o job) else w)) := by
    refine bellsOnly_trans ?_ (foldl_related bellsOnly_refl (fun _ _ _ => bellsOnly_trans) bellsOnly_restoreBell b.bells _)
    split
    · exact bellsOnly_zeroUnsaved _ _
    · rfl
  generalize b.bells.foldl State.restoreBell (if o = none then w.zeroUnsaved (b.bells.map (·.1) ++ s.jobBells o job) else w) = x at h1 ⊢
  dsimp only
  have hxb : x.jobBells o job = s.jobBells o job := by
    unfold bellsOnly at h1
    rw [h1, ← hjb]
    rfl
  have h2 : bellsOnly w ((x.jobBells o job).foldl State.rearmBell x) :=
    bellsOnly_trans h1 (foldl_related bellsOnly_refl (fun _ _ _ => bellsOnly_trans) bellsOnly_rearmBell _ x)
  have h3 := rearmBells_spec (x.jobBells o job) x
  rw [hxb] at h2 h3 ⊢
  generalize (s.jobBells o job).foldl State.rearmBell x = y at h2 h3 ⊢
  unfold bellsOnly at h2
  refine ⟨⟨S', M, y.coll.bells, ?_⟩, ?_, h3⟩
  · rw [h2, hf]
  · rw [h2]
    exact hst

theorem localRestoreDone_of {r : Recov} {tm : Word64} (h : recovering (s.at tm) r) (hp : r.phase = .restore) (hl : r.localReady = false)
    (hr : r.replace = []) (hn : (s.at tm).restoring r.scope r.job = false) :
    exec (.localRestoreDone r.job tm) s = .next ((((s.at tm).restoreTally r.scope r.job r.tally).setRecov { r with localReady := true }).allReady
      { r with localReady := true }) := by
  change execLocalRestoreDone r.job tm s = _
  unfold execLocalRestoreDone
  generalize s.at tm = u at h hn ⊢
  dsimp only
  rw [recovOn_of h]
  rw [hp, hl, hr, hn]
  rfl

end

/-! ### A recovery begins (R410, R419) -/

section
variable {s t u : State} {o : Option HamletNo} {job : Word32} {r : Recov}

/-- Cores may have been reset with CORE_EXC kept; all else but the records is as before. -/
def coresStop (s t : State) : Prop :=
  t = { s with sites := t.sites, jrnl := t.jrnl, flt := { s.flt with nextId := t.flt.nextId, buf := t.flt.buf, overflow := t.flt.overflow } } ∧
  ∀ m, (t.site m).exc = (s.site m).exc ∧ ((s.site m).seq = .idle → (t.site m).seq = .idle)

theorem coresStop_refl (s : State) : coresStop s s := ⟨rfl, fun _ => ⟨rfl, id⟩⟩

theorem coresStop_trans (h : coresStop s t) (k : coresStop t u) : coresStop s u := by
  obtain ⟨h1, h2⟩ := h
  obtain ⟨k1, k2⟩ := k
  refine ⟨?_, fun m => ⟨(k2 m).1.trans (h2 m).1, fun h => (k2 m).2 ((h2 m).2 h)⟩⟩
  rw [k1, h1]

theorem coreReset_excKept (c : Site) (k : Bool) : (c.coreReset k true).exc = c.exc := by
  unfold Site.coreReset
  dsimp only
  exact if_pos rfl

theorem coresStop_coreReset (s : State) (n : SiteNo) : coresStop s (s.coreReset n false true) := by
  refine ⟨?_, fun m => ?_⟩
  · unfold State.coreReset
    have h : ∃ J i b v, s.abandonVote n = { s with jrnl := J, flt := { s.flt with nextId := i, buf := b, overflow := v } } := by
      unfold State.abandonVote
      split
      · exact ⟨_, _, _, _, rfl⟩
      · exact ⟨s.jrnl, s.flt.nextId, s.flt.buf, s.flt.overflow, rfl⟩
    obtain ⟨J, i, b, v, h⟩ := h
    rw [h]
    rfl
  · by_cases hm : m = n
    · subst hm
      rw [coreReset_site]
      exact ⟨coreReset_excKept _ false, fun _ => coreReset_seq _ true⟩
    · rw [coreReset_other s false true hm]
      exact ⟨rfl, id⟩

theorem coresStop_coreResets (s : State) (ns : List SiteNo) : coresStop s (s.coreResets ns true) ∧
    ∀ m ∈ ns, ((s.coreResets ns true).site m).seq = .idle := by
  have he : s.coreResets ns true = ns.foldl (fun (s : State) n => s.coreReset n false true) s := rfl
  rw [he]
  refine ⟨foldl_related coresStop_refl (fun _ _ _ => coresStop_trans) coresStop_coreReset ns s, fun m hm => ?_⟩
  refine foldl_reached coresStop_refl (fun _ _ _ => coresStop_trans) coresStop_coreReset (Q := fun t => (t.site m).seq = .idle)
    (fun _ _ h => (h.2 m).2) hm s fun u _ => ?_
  rw [coreReset_site]
  exact coreReset_seq _ true

/-- The recovery of a job that begins now (R410, R411). -/
def State.newRecov (s : State) (o : Option HamletNo) (job : Word32) (cls : BitVec 16) (replace : List LCoreNo) (attempt : BitVec 8) : Recov :=
  { scope := o, job := job, phase := .stop, attempt := attempt, since := s.tb, began := s.tb, cls := cls, tally := s.lastNo o job,
    tallyOk := s.rollsBack o job (s.lastNo o job), noSpare := false, replace := coreOrder replace, waitStopped := s.jobChildren o job,
    waitReady := s.jobChildren o job, localReady := false, goAt := none }

theorem startRecovery_of {cls : BitVec 16} {replace : List LCoreNo} {src : Option (BitVec 12)} {attempt : BitVec 8}
    (hr : s.recent o job < 4) (hc : s.jobChildren o job ≠ []) : s.startRecovery o job cls replace src attempt =
      (fun v : State => (v.setJobs (v.flt.jobs ++ [s.newRecov o job cls replace attempt])).sendOn .stop (s.newRecov o job cls replace attempt) 0 src)
        (((s.counted o job).fault 0x0601 none (startDetail cls attempt) ((s.lastNo o job).setWidth 64)).stopCores o job) := by
  unfold State.startRecovery
  rw [if_neg (Nat.not_le.2 hr)]
  dsimp only
  refine if_neg fun h => hc ?_
  exact List.isEmpty_iff.1 h

/-- With children, a recovery that begins waits for them. -/
theorem startRecovery_begun {cls : BitVec 16} {replace : List LCoreNo} {src : Option (BitVec 12)} {attempt : BitVec 8}
    (hn : s.recov o job = none) (hr : s.recent o job < 4) (hc : s.jobChildren o job ≠ []) :
    recoveryBegun s (s.startRecovery o job cls replace src attempt) o job (s.newRecov o job cls replace attempt) src := by
  rw [startRecovery_of hr hc]
  have hf : ∃ b i l v J, (s.counted o job).fault 0x0601 none (startDetail cls attempt) ((s.lastNo o job).setWidth 64) =
      { s with jrnl := J, flt := { s.flt with begun := b, recoveries := satInc s.flt.recoveries, nextId := i, buf := l, overflow := v } } := ⟨_, _, _, _, _, rfl⟩
  obtain ⟨b, i, l, v, J, hf⟩ := hf
  rw [hf]
  have hj : ({ s with jrnl := J, flt := { s.flt with begun := b, recoveries := satInc s.flt.recoveries, nextId := i, buf := l, overflow := v } } : State).stopCores o job =
      (({ s with jrnl := J, flt := { s.flt with begun := b, recoveries := satInc s.flt.recoveries, nextId := i, buf := l, overflow := v } } : State).coreResets
        (s.jobSites o job) true).stopTally o := rfl
  rw [hj]
  obtain ⟨⟨h1, h2⟩, h3⟩ := coresStop_coreResets { s with jrnl := J, flt := { s.flt with begun := b, recoveries := satInc s.flt.recoveries, nextId := i, buf := l, overflow := v } }
    (s.jobSites o job)
  generalize ({ s with jrnl := J, flt := { s.flt with begun := b, recoveries := satInc s.flt.recoveries, nextId := i, buf := l, overflow := v } } : State).coreResets
    (s.jobSites o job) true = w at h1 h2 h3 ⊢
  refine ⟨rfl, rfl, rfl, rfl, rfl, rfl, rfl, ?_, ?_, ?_, fun n hn => ⟨h3 n hn, (h2 n).1⟩⟩
  · refine recov_append (s := w.stopTally o) ?_ rfl rfl
    rw [h1]
    exact hn
  · rw [h1]
    rfl
  · rw [h1]
    rfl

/-! ### The response to a report (R402 to R405) -/

/-- The classes of reports that roll their job back (Table 15.1). -/
theorem answerReport_rolls {p : Report} (h : p.cls ∈ [(0x0005 : BitVec 16), 0x0006, 0x0009, 0x000A, 0x0606, 0xFF02]) :
    s.answerReport p = (s.jobsOf p).foldl (fun s j => s.rollback j.1 j.2 p.cls []) s := by
  simp only [List.mem_cons, List.not_mem_nil, or_false] at h
  unfold State.answerReport
  rcases h with h | h | h | h | h | h <;> rw [h] <;> rfl

theorem answerReport_exception {p : Report} {n : SiteNo} (h : p.cls = 0xFF01) (hn : p.site = some n) :
    s.answerReport p = (s.jobsOf p).foldl (fun t j => t.endAll j.1 j.2 6 (s.excDetail n)) s := by
  unfold State.answerReport
  rw [h, hn]
  rfl

theorem jobsOf_site {p : Report} {n : SiteNo} (hn : p.site = some n) (hj : s.jobOfSite n = some (o, job)) : s.jobsOf p = [(o, job)] := by
  unfold State.jobsOf
  rw [hn]
  dsimp only
  rw [hj]
  rfl

/-- A report at the head, or one that the device has not raised, is answered. -/
theorem faultReport_of {p : Report} {tm : Word64} (h : (s.at tm).flt.reports = [] ∨ ∃ x rest, (s.at tm).flt.reports = (x, p) :: rest) :
    ∃ R, exec (.faultReport p tm) s = .next (({ s.at tm with flt := { (s.at tm).flt with reports := R } } : State).answerReport p) := by
  change ∃ R, execFaultReport p tm s = _
  unfold execFaultReport
  generalize s.at tm = u at h ⊢
  dsimp only
  rcases h with h | ⟨x, rest, h⟩
  · rw [h]
    dsimp only
    refine ⟨u.flt.reports, rfl⟩
  · rw [h]
    dsimp only
    rw [if_pos rfl]
    exact ⟨rest, rfl⟩

theorem faultReport_behind {p q : Report} {tm x : Word64} {rest : List (Word64 × Report)} (h : (s.at tm).flt.reports = (x, q) :: rest) (hq : q ≠ p) :
    exec (.faultReport p tm) s = .next (s.at tm) := by
  change execFaultReport p tm s = _
  unfold execFaultReport
  generalize s.at tm = u at h ⊢
  dsimp only
  rw [h]
  dsimp only
  rw [if_neg hq]

/-- The LAUNCHes of the job of a core that raised an exception complete with EXCEPTION (R405). -/
theorem answerReport_ends {p : Report} {n : SiteNo} (h : p.cls = 0xFF01) (hn : p.site = some n) (hj : s.jobOfSite n = some (o, job)) :
    (∀ m ∈ s.jobSites o job, ((s.answerReport p).site m).off) ∧
    ∀ id ∈ s.jobDescs o job, openDesc s id → readyWith (s.answerReport p) id 6 (s.excDetail n) := by
  rw [answerReport_exception h hn, jobsOf_site hn hj]
  obtain ⟨-, -, -, h1, h2⟩ := endJob_spec (s.drew.sendOn .fail (s.recovOf o job) ((Config.freeWord s.free).setWidth 16) none) o job 6 (s.excDetail n)
  exact ⟨h1, h2⟩

/-- A job not in recovery begins one at a report that rolls it back (R405). -/
theorem answerReport_begun {p : Report} {n : SiteNo} (h : p.cls ∈ [(0x0005 : BitVec 16), 0x0006, 0x0009, 0x000A, 0x0606, 0xFF02]) (hs : p.site = some n)
    (hj : s.jobOfSite n = some (o, job)) (hn : s.recov o job = none) (hr : s.recent o job < 4) (hc : s.jobChildren o job ≠ []) :
    recoveryBegun s (s.answerReport p) o job (s.newRecov o job p.cls [] 1) none := by
  rw [answerReport_rolls h, jobsOf_site hs hj, List.foldl_cons, List.foldl_nil]
  have he : s.rollback o job p.cls [] = s.startRecovery o job p.cls [] none 1 := by
    unfold State.rollback
    rw [hn]
  rw [he]
  exact startRecovery_begun hn hr hc

theorem coreOrder_nil : coreOrder [] = [] := List.filter_eq_nil_iff.2 fun _ _ => nofun

/-! ### STOP (R410, R413) -/

theorem recoveryStop_other {m : RecMsg} {tm : Word64} (h : (s.at tm).scopeOfMsg m = none) : exec (.recoveryStop m tm) s = .next (s.at tm) := by
  change execRecoveryStop m tm s = _
  unfold execRecoveryStop
  generalize s.at tm = u at h ⊢
  dsimp only
  rw [h]

theorem recoveryStop_first {m : RecMsg} {tm : Word64} (h : (s.at tm).scopeOfMsg m = some o) (hr : (s.at tm).recov o m.job = none) :
    exec (.recoveryStop m tm) s = .next ((s.at tm).startRecovery o m.job m.cause [] (some m.source) m.attempt) := by
  change execRecoveryStop m tm s = _
  unfold execRecoveryStop
  generalize s.at tm = u at h hr ⊢
  dsimp only
  rw [h]
  dsimp only
  rw [hr]

theorem recoveryStop_old {m : RecMsg} {tm : Word64} (h : (s.at tm).scopeOfMsg m = some o) (hr : (s.at tm).recov o m.job = some r)
    (ha : m.attempt < r.attempt) : exec (.recoveryStop m tm) s = .next (s.at tm) := by
  change execRecoveryStop m tm s = _
  unfold execRecoveryStop
  generalize s.at tm = u at h hr ⊢
  dsimp only
  rw [h]
  dsimp only
  rw [hr]
  dsimp only
  rw [if_pos ha]

theorem recoveryStop_again {m : RecMsg} {tm : Word64} (h : (s.at tm).scopeOfMsg m = some o) (hr : (s.at tm).recov o m.job = some r)
    (ha : m.attempt = r.attempt) : exec (.recoveryStop m tm) s = .next ((s.at tm).setRecov { r with since := (s.at tm).heard r }) := by
  change execRecoveryStop m tm s = _
  unfold execRecoveryStop
  generalize s.at tm = u at h hr ⊢
  dsimp only
  rw [h]
  dsimp only
  rw [hr]
  dsimp only
  rw [ha, if_neg (BitVec.lt_irrefl r.attempt), if_pos rfl]

end

section
variable {s : State} {r : Recov} {m : RecMsg} {tm : Word64} {o : Option HamletNo} {job : Word32}

/-- What a report of a core in a job brings about (R402 to R405). -/
theorem faultReport_job {p : Report} {n : SiteNo} (hs : p.site = some n) (hj : s.jobOfSite n = some (o, job))
    (h : s.flt.reports = [] ∨ ∃ x rest, s.flt.reports = (x, p) :: rest) :
    (p.cls = 0xFF01 → completes (.faultReport p tm) s fun t =>
      (∀ m ∈ s.jobSites o job, (t.site m).seq = .idle ∧ (t.site m).launch = none) ∧
      ∀ id ∈ s.jobDescs o job, ∀ d, s.desc id = some d → d.ready = none →
        windowOver d.fetched d.deadline (s.at tm).tb = false →
        ∃ e c, t.desc id = some e ∧ e.ready = some c ∧ c.status = 6 ∧ c.detail = s.excDetail n) ∧
    (p.cls ∈ [(0x0005 : BitVec 16), 0x0006, 0x0009, 0x000A, 0x0606, 0xFF02] → s.recov o job = none →
      (s.at tm).recent o job < 4 → s.jobChildren o job ≠ [] → completes (.faultReport p tm) s fun t =>
        ∃ q, recoveryBegun (s.at tm) t o job q none ∧ q.attempt = 1 ∧ q.cls = p.cls ∧ q.replace = []) := by
  obtain ⟨w, hw⟩ := at_is s tm
  obtain ⟨R, hR⟩ := faultReport_of (s := s) (p := p) (tm := tm) (by rw [hw]; exact h)
  rw [hw] at hR
  refine ⟨fun hc => ⟨_, hR, ?_⟩, fun hc hn hr hch => ⟨_, hR, ?_⟩⟩
  · obtain ⟨h1, h2⟩ := answerReport_ends (s := { s with tb := w, flt := { s.flt with reports := R } }) hc hs hj
    rw [hw]
    exact ⟨h1, fun id hid d hd hrd hwo => h2 id hid ⟨d, hd, hrd, hwo⟩⟩
  · rw [hw] at hr ⊢
    exact ⟨_, answerReport_begun (s := { s with tb := w, flt := { s.flt with reports := R } }) hc hs hj hn hr hch, rfl, rfl, coreOrder_nil⟩

/-- What a STOP brings about (R410, R413). -/
theorem recoveryStop_spec (s : State) (m : RecMsg) (tm : Word64) :
    (s.scopeOfMsg m = none → completes (.recoveryStop m tm) s (· = s.at tm)) ∧
    (∀ o, s.scopeOfMsg m = some o →
      (s.recov o m.job = none → (s.at tm).recent o m.job < 4 → s.jobChildren o m.job ≠ [] →
        completes (.recoveryStop m tm) s fun t => ∃ q, recoveryBegun (s.at tm) t o m.job q (some m.source) ∧
          q.attempt = m.attempt ∧ q.cls = m.cause ∧ q.replace = []) ∧
      (∀ r, s.recov o m.job = some r → m.attempt < r.attempt → completes (.recoveryStop m tm) s (· = s.at tm)) ∧
      (∀ r, recovering s r → r.scope = o → r.job = m.job → m.attempt = r.attempt →
        completes (.recoveryStop m tm) s fun t => recoveryGoes (s.at tm) t r { r with since := (s.at tm).heard r } [])) := by
  obtain ⟨w, hw⟩ := at_is s tm
  have hsc {x} (h : s.scopeOfMsg m = x) : (s.at tm).scopeOfMsg m = x := by rw [hw]; exact h
  have hrc {o x} (h : s.recov o m.job = x) : (s.at tm).recov o m.job = x := by rw [hw]; exact h
  refine ⟨fun h => ⟨_, recoveryStop_other (hsc h), rfl⟩, fun o ho => ⟨fun hn hr hc => ⟨_, recoveryStop_first (hsc ho) (hrc hn), ?_⟩,
    fun r hr ha => ⟨_, recoveryStop_old (hsc ho) (hrc hr) ha, rfl⟩, fun r hr hs hj ha => ⟨_, recoveryStop_again (hsc ho) (hrc ?_) ha, ?_⟩⟩⟩
  · exact ⟨_, startRecovery_begun (hrc hn) hr (by rw [hw]; exact hc), rfl, rfl, coreOrder_nil⟩
  · obtain ⟨-, hr, -⟩ := hr
    rw [← hs, ← hj]
    exact hr
  · exact setRecov_goes (recovering_at hr tm).2.1 rfl rfl

/-- What a STOPPED brings about (R410, R411). -/
theorem recoveryStopped_spec (h : recovering s r) (hj : m.job = r.job) (ht : m.tag = r.scope) (ha : m.attempt = r.attempt) :
    (((s.at tm).stoppedBy r m).waitStopped ≠ [] → completes (.recoveryStopped m tm) s fun t => recoveryGoes (s.at tm) t r ((s.at tm).stoppedBy r m) []) ∧
    (((s.at tm).stoppedBy r m).waitStopped = [] → r.phase = .stop →
      (∀ p, (s.at tm).jobParent r.scope r.job = some p → completes (.recoveryStopped m tm) s fun t =>
        recoveryGoes (s.at tm) t r { (s.at tm).stoppedBy r m with phase := .stopped }
          [.recovery .stopped p ((s.at tm).recMsg { (s.at tm).stoppedBy r m with phase := .stopped } 0 0 true) r.scope]) ∧
      ((s.at tm).jobParent r.scope r.job = none → (s.at tm).whyFails ((s.at tm).stoppedBy r m) = none → completes (.recoveryStopped m tm) s fun t =>
        recoveryGoes (s.at tm) t r ((s.at tm).inRestore ((s.at tm).stoppedBy r m))
          ((s.at tm).toChildren .restore ((s.at tm).inRestore ((s.at tm).stoppedBy r m)) 0)) ∧
      (∀ cause, (s.at tm).jobParent r.scope r.job = none → (s.at tm).whyFails ((s.at tm).stoppedBy r m) = some cause →
        completes (.recoveryStopped m tm) s fun t => jobFailed (s.at tm) t r.scope r.job)) := by
  have hu := recovering_at h tm
  have he := recoveryStopped_of hu hj ht ha
  generalize s.at tm = u at hu he ⊢
  obtain ⟨-, hr, -⟩ := hu
  refine ⟨fun hw => ?_, fun hw hp => ?_⟩
  · rw [if_neg fun h => hw (List.isEmpty_iff.1 h.1)] at he
    exact ⟨_, he, setRecov_goes hr rfl rfl⟩
  · rw [if_pos ⟨List.isEmpty_iff.2 hw, hp⟩] at he
    exact ⟨fun p hpp => ⟨_, he, allStopped_up hr ⟨rfl, rfl⟩ hpp⟩, fun hpp hwf => ⟨_, he, allStopped_root hr ⟨rfl, rfl⟩ hpp hwf⟩,
      fun cause hpp hwf => ⟨_, he, allStopped_fails ⟨rfl, rfl⟩ hpp hwf⟩⟩

/-- What a RESTORE brings about (R410 to R412). -/
theorem recoveryRestore_spec (h : recovering s r) (hj : m.job = r.job) (ht : m.tag = r.scope) (ha : m.attempt = r.attempt) (hp : r.phase ≠ .stop) :
    ((s.at tm).rollsBack r.scope r.job m.tally = false → completes (.recoveryRestore m tm) s fun t => jobFailed (s.at tm) t r.scope r.job) ∧
    ((s.at tm).rollsBack r.scope r.job m.tally = true → completes (.recoveryRestore m tm) s fun t =>
      recoveryGoes (s.at tm) t r ((s.at tm).inRestore { r with tally := m.tally })
        ((s.at tm).toChildren .restore ((s.at tm).inRestore { r with tally := m.tally }) 0)) := by
  have hu := recovering_at h tm
  have he := recoveryRestore_of hu hj ht ha hp
  generalize s.at tm = u at hu he ⊢
  obtain ⟨-, hr, -⟩ := hu
  refine ⟨fun hb => ?_, fun hb => ?_⟩
  · rw [if_pos hb] at he
    exact ⟨_, he, (failJob_failed u r.scope r.job 3).1⟩
  · rw [hb, if_neg (by decide)] at he
    exact ⟨_, he, beginRestore_goes hr ⟨rfl, rfl⟩⟩

/-- What a READY and a GO bring about (R410). -/
theorem recoveryReady_spec (h : recovering s r) (hj : m.job = r.job) (ht : m.tag = r.scope) (ha : m.attempt = r.attempt) (hp : r.phase = .restore) :
    (((s.at tm).readyBy r m).waitReady ≠ [] ∨ r.localReady = false → completes (.recoveryReady m tm) s fun t =>
      recoveryGoes (s.at tm) t r ((s.at tm).readyBy r m) []) ∧
    (((s.at tm).readyBy r m).waitReady = [] → r.localReady = true →
      (∀ p, (s.at tm).jobParent r.scope r.job = some p → completes (.recoveryReady m tm) s fun t =>
        recoveryGoes (s.at tm) t r ((s.at tm).readyBy r m) [.recovery .ready p ((s.at tm).recMsg ((s.at tm).readyBy r m) 0 0 true) r.scope]) ∧
      ((s.at tm).jobParent r.scope r.job = none → completes (.recoveryReady m tm) s fun t =>
        recoveryGoes (s.at tm) t r { (s.at tm).readyBy r m with phase := .go, since := (s.at tm).tb, goAt := some (s.at tm).goInstant }
          ((s.at tm).toChildren .go { (s.at tm).readyBy r m with phase := .go, since := (s.at tm).tb, goAt := some (s.at tm).goInstant }
            (s.at tm).goInstant))) ∧
    (r.localReady = true → completes (.recoveryGo m tm) s fun t =>
      recoveryGoes (s.at tm) t r { r with phase := .go, since := (s.at tm).tb, goAt := some m.instant }
        ((s.at tm).toChildren .go { r with phase := .go, since := (s.at tm).tb, goAt := some m.instant } m.instant)) := by
  have hu := recovering_at h tm
  have he := recoveryReady_of hu hj ht ha hp
  have hg := recoveryGo_of hu hj ht ha hp
  generalize s.at tm = u at hu he hg ⊢
  obtain ⟨-, hr, -⟩ := hu
  refine ⟨fun hw => ⟨_, he, ?_⟩, fun hw hl => ⟨fun p hpp => ⟨_, he, allReady_up hr ⟨rfl, rfl⟩ hw hl hpp⟩,
    fun hpp => ⟨_, he, allReady_root hr ⟨rfl, rfl⟩ hw hl hpp⟩⟩, fun hl => ⟨_, hg hl, goWith_goes hr ⟨rfl, rfl⟩ m.instant⟩⟩
  rw [allReady_waits hw]
  exact setRecov_goes hr rfl rfl

/-- What LOCAL_RESTORE_DONE brings about (R410, R412). -/
theorem localRestoreDone_spec {b : TallyBuf} {v : CoreSave} {n : SiteNo} (h : recovering s r) (hp : r.phase = .restore) (hl : r.localReady = false)
    (hr : r.replace = []) (hw : r.waitReady ≠ []) (hn : s.restoring r.scope r.job = false) (hb : s.tallyNo r.scope r.job r.tally = some b)
    (hc : b.cores = [v]) (hv : s.siteOf v.lc = some n) : completes (.localRestoreDone r.job tm) s fun t =>
      t.recov r.scope r.job = some { r with localReady := true } ∧ (t.site n).hasState v ∧ t.out = s.out ∧
      ∀ k ∈ s.jobBells r.scope r.job, (t.bell (bellNo k)).rearmed := by
  have hu := recovering_at h tm
  obtain ⟨w, hx⟩ := at_is s tm
  refine ⟨_, localRestoreDone_of hu hp hl hr (by rw [hx]; exact hn), ?_⟩
  dsimp only
  rw [allReady_waits (q := { r with localReady := true }) (.inl hw), hx]
  rw [hx] at hu
  obtain ⟨⟨S, M, B, hf⟩, h1, h2⟩ := restoreTally_spec (s := { s with tb := w }) hb hc hv
  obtain ⟨-, hrec, -⟩ := hu
  generalize ({ s with tb := w } : State).restoreTally r.scope r.job r.tally = x at hf h1 h2 ⊢
  refine ⟨recov_setRecov_same rfl rfl (r := r) ?_, h1, ?_, h2⟩
  · rw [hf]
    exact hrec
  · rw [hf]
    rfl

/-- Settles O54: each message, report and limit through the recovery that it finds, a job's end by a walk over its LAUNCHes, and the
tally written back by the sites, GDDR7 and bells that it changes. -/
theorem jobsRecover : Obligations.JobsRecover := by
  unfold Obligations.JobsRecover
  refine ⟨fun s p tm n o job hs hj => ⟨fun x q rest hq hne => ?_, fun h => faultReport_job hs hj h⟩, recoveryStop_spec, fun s m r tm h hj ht ha => ?_,
    fun s r tm b v n h hp hl hr hw hn hb hc hv => ?_, fun s r tm i h hp hg => ⟨fun hi hnd => ?_, fun hi => ?_⟩, fun s m o tm ho hr h1 => ?_,
    fun s r tm h => ⟨fun hw => ?_, fun hw => ?_⟩⟩
  · obtain ⟨w, hw⟩ := at_is s tm
    exact ⟨_, faultReport_behind (by rw [hw]; exact hq) hne, rfl⟩
  · have h1 := recoveryStopped_spec (tm := tm) h hj ht ha
    have h2 := recoveryRestore_spec (tm := tm) h hj ht ha
    have h3 := recoveryReady_spec (tm := tm) h hj ht ha
    obtain ⟨w, hw⟩ := at_is s tm
    rw [hw] at h1 h2 h3 ⊢
    exact ⟨h1.1, h1.2, fun hp => (h2 hp).1, fun hp => (h2 hp).2, fun hp => h3 hp⟩
  · obtain ⟨t, he, hrec, ⟨h1, h2, h3, h4, h5, h6⟩, hout, hbell⟩ := localRestoreDone_spec (tm := tm) h hp hl hr hw hn hb hc hv
    exact ⟨t, he, hrec, h1, h2, h3, h4, h5, h6, hout, hbell⟩
  · refine ⟨_, resumeAtInstant_of (recovering_at h tm) hp hg hi, ?_⟩
    obtain ⟨w, hw⟩ := at_is s tm
    rw [hw]
    obtain ⟨h1, h2, h3, h4⟩ := resumed_fault { s with tb := w } r.scope r.job (satNat 32 ((w - r.began).toNat / 1000)) (r.tally.setWidth 64)
    exact ⟨h1, h2, fun id hid d hd => h3 hnd id hid d hd, h4⟩
  · exact ⟨_, resumeAtInstant_early (recovering_at h tm) hg hi, rfl⟩
  · obtain ⟨w, hw⟩ := at_is s tm
    refine ⟨_, recoveryFail_of (by rw [hw]; exact ho) (by rw [hw]; exact hr) h1, ?_⟩
    rw [hw]
    obtain ⟨hf, hout⟩ := failHere_failed (({ s with tb := w } : State).sendOn .fail (({ s with tb := w } : State).recovOf o m.job) m.cause (some m.source)) o m.job m.cause
    obtain ⟨hs, hj⟩ := recovOf_key { s with tb := w } o m.job
    exact ⟨hf, _, hs, hj, hout⟩
  · refine ⟨_, recoveryPhaseTimeout_of (recovering_at h tm) hw, ?_⟩
    obtain ⟨hf, hout⟩ := failJob_failed (s.at tm) r.scope r.job 6
    rw [recovOf_of (recovering_at h tm).2.1] at hout
    refine ⟨hf, hout.trans ?_⟩
    obtain ⟨w, hx⟩ := at_is s tm
    rw [hx]
    rfl
  · exact ⟨_, recoveryPhaseTimeout_early (recovering_at h tm) hw, rfl⟩

end

end Sys2Proof.Machine
end

section
/-!
PROOF. Replacement of a core, the refill of its spare, supervision and the journal (15_faults_recovery.md, 17_bringup.md); O55.
-/

namespace Sys2Proof.Machine

/-! ### A core's site is given up (R414, R415) -/

section
variable {s t u : State} {n m old : SiteNo} {lc : LCoreNo}

/-- One site with its domain and region may differ, and the records; every other site and domain is as before. -/
def domainLeft (s t : State) (n : SiteNo) : Prop :=
  t = { s with sites := t.sites, pwr := { s.pwr with doms := t.pwr.doms }, clk := { s.clk with regions := t.clk.regions }, jrnl := t.jrnl,
               flt := { s.flt with nextId := t.flt.nextId, buf := t.flt.buf, overflow := t.flt.overflow } } ∧
  (∀ m, m ≠ n → t.site m = s.site m) ∧ ∀ d, d ≠ domOfSite n → t.dom d = s.dom d

theorem domainLeft_trans (h : domainLeft s t n) (k : domainLeft t u n) : domainLeft s u n := by
  obtain ⟨h1, h2, h3⟩ := h
  obtain ⟨k1, k2, k3⟩ := k
  refine ⟨?_, fun m hm => (k2 m hm).trans (h2 m hm), fun d hd => (k3 d hd).trans (h3 d hd)⟩
  rw [k1, h1]

theorem domainLeft_modSite (s : State) (n : SiteNo) (f : Site → Site) : domainLeft s (s.modSite n f) n :=
  ⟨rfl, fun _ hm => State.site_modSite_other s f hm, fun _ _ => rfl⟩

theorem domainLeft_modDom (s : State) (n : SiteNo) (f : Domain → Domain) : domainLeft s (s.modDom (domOfSite n) f) n :=
  ⟨rfl, fun _ _ => rfl, fun _ hd => State.dom_modDom_other s f hd⟩

theorem domainLeft_modRegion (s : State) (n : SiteNo) (f : Region → Region) : domainLeft s (s.modRegion (regionOf n) f) n :=
  ⟨rfl, fun _ _ => rfl, fun _ _ => rfl⟩

theorem domainLeft_abandonVote (s : State) (n : SiteNo) : domainLeft s (s.abandonVote n) n := by
  unfold State.abandonVote
  split
  · exact ⟨rfl, fun _ _ => rfl, fun _ _ => rfl⟩
  · exact ⟨rfl, fun _ _ => rfl, fun _ _ => rfl⟩

theorem domainLeft_mapOut (s : State) (n : SiteNo) (unit index : Nat) (cause : BitVec 16) : domainLeft s (s.mapOut unit index cause) n := by
  unfold State.mapOut
  split
  · exact ⟨rfl, fun _ _ => rfl, fun _ _ => rfl⟩
  · exact ⟨rfl, fun _ _ => rfl, fun _ _ => rfl⟩

theorem domainLeft_powerOff (s : State) (n : SiteNo) : domainLeft s (s.powerOff n) n :=
  domainLeft_trans (domainLeft_modDom s n _) (domainLeft_trans (domainLeft_modRegion _ n _)
    (domainLeft_trans (domainLeft_abandonVote _ n) (domainLeft_modSite _ n _)))

theorem powerOff_site (s : State) (n : SiteNo) : (s.powerOff n).site n = (s.site n).switchOff := switchOff_site _ n

theorem switchOff_bound (c : Site) : c.switchOff.bound = c.bound :=
  foldl_keeps Site.bound (fun (d : Site) e => d.modEng e (·.coreReset c.cycle)) (fun _ _ => rfl) (List.finRange 4) c

theorem domOfSite_ne (h : m ≠ n) : domOfSite m ≠ domOfSite n := fun e => h (Fin.ext (Fin.mk.inj e))

/-- What becomes of a site whose core is replaced (R415). -/
def Site.givenUp (c : Site) (dark : Bool) : Site := { c with bad := true, spare := false, gran := if dark then c.gran else [] }

/-- A site is switched off, recorded bad and zeroised (R415). -/
def State.giveUp (s : State) (old : SiteNo) (cause : BitVec 16) : State :=
  ((s.powerOff old).modSite old fun c => c.givenUp (s.isDark (fieldOfSite old))).mapOut 0 old.val cause

theorem giveUp_left (s : State) (old : SiteNo) (cause : BitVec 16) : domainLeft s (s.giveUp old cause) old :=
  domainLeft_trans (domainLeft_powerOff s old) (domainLeft_trans (domainLeft_modSite _ old _) (domainLeft_mapOut _ old 0 old.val cause))

theorem giveUp_site (s : State) (old : SiteNo) (cause : BitVec 16) :
    (s.giveUp old cause).site old = (s.site old).switchOff.givenUp (s.isDark (fieldOfSite old)) := by
  have h : ((s.powerOff old).modSite old fun c => c.givenUp (s.isDark (fieldOfSite old))).site old =
      (s.site old).switchOff.givenUp (s.isDark (fieldOfSite old)) := by
    rw [State.site_modSite_same, powerOff_site]
  unfold State.giveUp
  rw [mapOut_frame]
  exact h

theorem isSpare_left (h : domainLeft s t old) (hm : m ≠ old) : t.isSpare m = s.isSpare m := by
  obtain ⟨h1, h2, h3⟩ := h
  unfold State.isSpare State.usable
  rw [h2 m hm, h3 _ (domOfSite_ne hm), h1]
  rfl

theorem spareFor_left (h : domainLeft s t old) : t.spareFor old = s.spareFor old := by
  have hc : ((List.finRange 40).filter fun n => t.isSpare n && decide (n ≠ old)) = (List.finRange 40).filter fun n => s.isSpare n && decide (n ≠ old) := by
    refine List.filter_congr fun n _ => ?_
    by_cases hn : n = old
    · rw [decide_eq_false (not_not.2 hn), Bool.and_false, Bool.and_false]
    · rw [isSpare_left h hn]
  unfold State.spareFor
  rw [hc]

theorem spareFor_ne (h : s.spareFor old = some n) : n ≠ old := by
  have hc {k : SiteNo} (hk : k ∈ (List.finRange 40).filter fun n => s.isSpare n && decide (n ≠ old)) : k ≠ old := by
    have h := (List.mem_filter.1 hk).2
    rw [Bool.and_eq_true, decide_eq_true_eq] at h
    exact h.2
  unfold State.spareFor at h
  generalize (List.finRange 40).filter (fun n => s.isSpare n && decide (n ≠ old)) = l at h hc
  dsimp only at h
  split at h
  next x hx =>
    cases h
    exact hc (List.mem_of_find?_eq_some hx)
  next =>
    have hinv : ∀ b : Option SiteNo, b = none ∨ (∃ k ∈ l, b = some k) → b = some n → n ∈ l := by
      rintro b (hb | ⟨k, hk, hb⟩) e
      · rw [hb] at e
        exact nomatch e
      · rw [hb] at e
        cases e
        exact hk
    refine hc (hinv _ ?_ h)
    refine List.foldlRecOn l _ (motive := fun b => b = none ∨ ∃ k ∈ l, b = some k) (.inl rfl) fun b hb a ha => ?_
    split
    next => exact .inr ⟨a, ha, rfl⟩
    next k =>
      split
      · exact .inr ⟨a, ha, rfl⟩
      · exact hb

/-- The first steps of a replacement are the same with and without a spare. -/
theorem giveUp_is (s : State) (old : SiteNo) (cause : BitVec 16) :
    ((s.powerOff old).modSite old fun c => { c with bad := true, spare := false, gran := if (s.powerOff old).isDark (fieldOfSite old) then c.gran else [] }).mapOut 0
      old.val cause = s.giveUp old cause := by
  have hd : (s.powerOff old).isDark (fieldOfSite old) = s.isDark (fieldOfSite old) := by
    obtain ⟨h, -⟩ := domainLeft_powerOff s old
    rw [h]
    rfl
  rw [hd]
  rfl

theorem replaceCore_spare {cause : BitVec 16} (h : s.siteOf lc = some old) (hn : s.spareFor old = some n) :
    s.replaceCore lc cause = ((s.giveUp old cause).modSite n fun c => { c with chosen := some (lc, old), spare := false }).admitSite n := by
  have hx := (spareFor_left (giveUp_left s old cause)).trans hn
  unfold State.replaceCore
  simp only [h, giveUp_is, hx]

theorem replaceCore_noSpare {cause : BitVec 16} (h : s.siteOf lc = some old) (hn : s.spareFor old = none) :
    s.replaceCore lc cause = (s.giveUp old cause).noSpare lc old := by
  have hx := (spareFor_left (giveUp_left s old cause)).trans hn
  unfold State.replaceCore
  simp only [h, giveUp_is, hx]

end

/-! ### CORE_REPLACE (R414 to R416) -/

section
variable {s t u : State} {n m old : SiteNo} {lc : LCoreNo} {r : Recov} {tm : Word64}

/-- The core map, DEGRADED and which sites are bad are as before. -/
def mapKept (s t : State) : Prop :=
  t.coreMap = s.coreMap ∧ t.host.degraded = s.host.degraded ∧ ∀ m, (t.site m).bad = (s.site m).bad

theorem mapKept_refl (s : State) : mapKept s s := ⟨rfl, rfl, fun _ => rfl⟩

theorem mapKept_trans (h : mapKept s t) (k : mapKept t u) : mapKept s u :=
  ⟨k.1.trans h.1, k.2.1.trans h.2.1, fun m => (k.2.2 m).trans (h.2.2 m)⟩

theorem mapKept_leave (s : State) (n : SiteNo) : mapKept s (s.leaveLaunch n) := by
  have hs := leaveLaunch_site s n
  obtain ⟨hf, ho⟩ := leaveLaunch_frame s n
  refine ⟨?_, ?_, fun m => ?_⟩
  · rw [hf]
  · rw [hf]
  · by_cases hm : m = n
    · rw [hm, hs]
    · rw [ho m hm]

theorem coreReset_bad (c : Site) (k x : Bool) : (c.coreReset k x).bad = c.bad :=
  foldl_keeps Site.bad (fun (d : Site) e => d.modEng e (·.coreReset c.cycle)) (fun _ _ => rfl) (List.finRange 4) c

theorem mapKept_coreReset (s : State) (n : SiteNo) (k x : Bool) : mapKept s (s.coreReset n k x) := by
  have hs := coreReset_site s n k x
  obtain ⟨hf, ho⟩ := coreReset_frame s n k x
  refine ⟨?_, ?_, fun m => ?_⟩
  · rw [hf]
  · rw [hf]
  · by_cases hm : m = n
    · rw [hm, hs, coreReset_bad]
    · rw [ho m hm]

theorem mapKept_launchStopped (s : State) (id : Nat) : mapKept s (s.launchStopped id) :=
  mapKept_trans (foldl_related mapKept_refl (fun _ _ _ => mapKept_trans) mapKept_leave (s.launchSites id) s)
    (foldl_related mapKept_refl (fun _ _ _ => mapKept_trans) (F := fun (s : State) n => s.coreReset n false false)
      (fun v n => mapKept_coreReset v n false false) (s.launchSites id) _)

theorem mapKept_endLaunch (s : State) (id : Nat) (status : BitVec 7) (detail : Word32) : mapKept s (s.endLaunch id status detail) := by
  obtain ⟨hf, hs⟩ := endLaunch_frame s id status detail
  obtain ⟨-, -, hb⟩ := mapKept_launchStopped s id
  unfold jobEnds at hf
  refine ⟨?_, ?_, fun m => ?_⟩
  · rw [hf]
  · rw [hf]
  · rw [hs m, hb m]

theorem mapKept_modSites (ns : List SiteNo) {f : Site → Site} (hf : ∀ c, (f c).bad = c.bad) (s : State) : mapKept s (s.modSites ns f) := by
  refine foldl_related mapKept_refl (fun _ _ _ => mapKept_trans) (F := fun (s : State) n => s.modSite n f) (fun v n => ⟨rfl, rfl, fun m => ?_⟩) ns s
  by_cases hm : m = n
  · rw [hm, State.site_modSite_same, hf]
  · rw [State.site_modSite_other v f hm]

theorem mapKept_failHere (s : State) (o : Option HamletNo) (job : Word32) (cause : BitVec 16) : mapKept s (s.failHere o job cause) := by
  obtain ⟨M, hM⟩ := regionsBack_mem s o job
  have he : s.failHere o job cause = (fun v : State => ({ v with flt := { v.flt with failedJobs := satInc v.flt.failedJobs } } : State).fault 0x0605 none
      (cause.setWidth 32) ((s.lastNo o job).setWidth 64))
      (((s.regionsBack o job).endJob o job 7 (s.lastNo o job)).modSites (s.jobSites o job) fun c => { c with ws := [] }) := rfl
  have h1 : mapKept s (s.regionsBack o job) := by
    rw [hM]
    exact ⟨rfl, rfl, fun _ => rfl⟩
  have h2 (v : State) : mapKept v (v.endJob o job 7 (s.lastNo o job)) :=
    mapKept_trans (foldl_related mapKept_refl (fun _ _ _ => mapKept_trans) (F := fun (s' : State) i => s'.endLaunch i 7 (s.lastNo o job))
      (fun v i => mapKept_endLaunch v i 7 (s.lastNo o job)) (v.jobDescs o job) v) ⟨rfl, rfl, fun _ => rfl⟩
  have h3 (v : State) : mapKept v (({ v with flt := { v.flt with failedJobs := satInc v.flt.failedJobs } } : State).fault 0x0605 none (cause.setWidth 32) ((s.lastNo o job).setWidth 64)) :=
    ⟨rfl, rfl, fun _ => rfl⟩
  rw [he]
  refine mapKept_trans (mapKept_trans h1 (mapKept_trans (h2 _) (mapKept_modSites (s.jobSites o job) (f := fun c => { c with ws := [] }) (fun _ => rfl) _))) ?_
  exact h3 _

theorem mapKept_failJob (s : State) (o : Option HamletNo) (job : Word32) (cause : BitVec 16) : mapKept s (s.failJob o job cause) :=
  mapKept_trans (t := s.sendOn .fail (s.recovOf o job) cause none) ⟨rfl, rfl, fun _ => rfl⟩ (mapKept_failHere _ o job cause)

/-- The job of a core without a spare, when it has one, fails (R416). -/
def State.failJobOf (s : State) (j : Option (Option HamletNo × Word32)) : State :=
  match j with
  | some p => s.failJob p.1 p.2 1
  | none => s

theorem mapKept_failJobOf (s : State) (j : Option (Option HamletNo × Word32)) : mapKept s (s.failJobOf j) := by
  unfold State.failJobOf
  split
  · exact mapKept_failJob s _ _ 1
  · exact mapKept_refl s

/-- Without a spare the core is unbound and the device DEGRADED (R416). -/
theorem noSpare_spec (s : State) (lc : LCoreNo) (old : SiteNo) : (s.noSpare lc old).siteOf lc = none ∧ (s.noSpare lc old).host.degraded = true ∧
    ((s.noSpare lc old).site old).bound = none ∧ ((s.noSpare lc old).site old).bad = (s.site old).bad ∧ ∀ c, c ≠ lc → (s.noSpare lc old).siteOf c = s.siteOf c := by
  have he : s.noSpare lc old = (((fun v : State => ({ v with host := { v.host with degraded := true } } : State))
      (s.fault 0x0607 none (BitVec.ofNat 32 lc.val) 0)).failJobOf (s.jobOfSite old) |>.bind lc none).modSite old
        fun c => { c with bound := none, mirror := 0, mirrorDegraded := false, mirrorGone := 0 } := rfl
  have hk := mapKept_failJobOf ((fun v : State => ({ v with host := { v.host with degraded := true } } : State))
      (s.fault 0x0607 none (BitVec.ofNat 32 lc.val) 0)) (s.jobOfSite old)
  have h0 : ((fun v : State => ({ v with host := { v.host with degraded := true } } : State)) (s.fault 0x0607 none (BitVec.ofNat 32 lc.val) 0)).coreMap = s.coreMap ∧
      ((fun v : State => ({ v with host := { v.host with degraded := true } } : State)) (s.fault 0x0607 none (BitVec.ofNat 32 lc.val) 0)).host.degraded = true ∧
      ∀ m, (((fun v : State => ({ v with host := { v.host with degraded := true } } : State)) (s.fault 0x0607 none (BitVec.ofNat 32 lc.val) 0)).site m) = s.site m :=
    ⟨rfl, rfl, fun _ => rfl⟩
  rw [he]
  generalize (fun v : State => ({ v with host := { v.host with degraded := true } } : State)) (s.fault 0x0607 none (BitVec.ofNat 32 lc.val) 0) = v at hk h0 ⊢
  obtain ⟨k1, k2, k3⟩ := hk
  obtain ⟨z1, z2, z3⟩ := h0
  generalize v.failJobOf (s.jobOfSite old) = w at k1 k2 k3 ⊢
  refine ⟨State.siteOf_bind_same w lc none, k2.trans z2, ?_, ?_, fun c hc => ?_⟩
  · rw [State.site_modSite_same]
  · rw [State.site_modSite_same, ← z3 old, ← k3 old]
    rfl
  · refine (State.siteOf_bind_other w none hc).trans ?_
    unfold State.siteOf
    rw [k1, z1]

/-- A recovery waits for the replacement of a core in its RESTORE. -/
def Recov.replaces (r : Recov) (lc : LCoreNo) : Bool := decide (r.phase = .restore) && decide (r.replace.head? = some lc)

theorem coreReplace_none (h : ∀ r ∈ s.flt.jobs, r.replaces lc = false) : exec (.coreReplace lc tm) s = .next (s.at tm) := by
  have hf : (s.at tm).flt.jobs.find? (fun r => r.replaces lc) = none := by
    obtain ⟨w, hw⟩ := at_is s tm
    rw [hw]
    exact List.find?_eq_none.2 fun r hr => by rw [h r hr]; exact nofun
  change execCoreReplace lc tm s = _
  unfold execCoreReplace
  dsimp only
  change (match (s.at tm).flt.jobs.find? (fun r => r.replaces lc) with | none => _ | some r => _) = _
  rw [hf]

theorem coreReplace_of (hj : s.flt.jobs = [r]) (h : r.replaces lc = true) :
    exec (.coreReplace lc tm) s = .next (((s.at tm).setJobs [{ r with replace := r.replace.drop 1 }]).replaceCore lc r.cls) := by
  obtain ⟨w, hw⟩ := at_is s tm
  have hj' : (s.at tm).flt.jobs = [r] := by
    rw [hw]
    exact hj
  have hf : (s.at tm).flt.jobs.find? (fun r => r.replaces lc) = some r := by
    rw [hj']
    exact List.find?_cons_of_pos (p := fun r => Recov.replaces r lc) h
  change execCoreReplace lc tm s = _
  unfold execCoreReplace
  dsimp only
  change (match (s.at tm).flt.jobs.find? (fun r => r.replaces lc) with | none => _ | some r => _) = _
  rw [hf]
  dsimp only
  unfold State.setRecov
  rw [hj', List.map_cons, List.map_nil, if_pos ⟨rfl, rfl⟩]

theorem switchOff_pwr (c : Site) : c.switchOff.pwr = .off := by
  unfold Site.switchOff
  rfl

/-- The site of a replaced core is given up, and its spare's domain waits for admission (R415). -/
theorem replaceCore_moves {cause : BitVec 16} (h : s.siteOf lc = some old) (hn : s.spareFor old = some n) :
    let t := s.replaceCore lc cause
    t.flt.jobs = s.flt.jobs ∧ (t.site old).bad = true ∧ (t.site old).pwr = .off ∧ (t.site old).spare = false ∧
    (s.isDark (fieldOfSite old) = false → (t.site old).gran = []) ∧ (t.site old).bound = (s.site old).bound ∧
    (t.site n).chosen = some (lc, old) ∧ (t.site n).spare = false ∧ (t.site n).pwr = .inTransition ∧
    (t.dom (domOfSite n)).st = .wait ∧ (t.dom (domOfSite n)).since = s.tb ∧
    (∀ m, m ≠ n → m ≠ old → t.site m = s.site m) ∧ t.coreMap = s.coreMap := by
  have hne := spareFor_ne hn
  obtain ⟨hf, hs, hd⟩ := giveUp_left s old cause
  have ho := giveUp_site s old cause
  rw [replaceCore_spare h hn]
  dsimp only
  generalize s.giveUp old cause = g at hf hs hd ho ⊢
  obtain ⟨a1, a2, a3, a4, -⟩ := admitSite_waits (g.modSite n fun c => { c with chosen := some (lc, old), spare := false }) n
  generalize (g.modSite n fun c => { c with chosen := some (lc, old), spare := false }).admitSite n = t at a1 a2 a3 a4 ⊢
  have hto : t.site old = (s.site old).switchOff.givenUp (s.isDark (fieldOfSite old)) := by
    rw [a3 old (Ne.symm hne), State.site_modSite_other g _ (Ne.symm hne), ho]
  rw [State.site_modSite_same] at a2
  have hb := switchOff_bound (s.site old)
  have hp := switchOff_pwr (s.site old)
  generalize (s.site old).switchOff = c at hto hb hp
  refine ⟨?_, ?_, ?_, ?_, fun hdk => ?_, ?_, ?_, ?_, ?_, ?_, ?_, fun m hm hmo => ?_, ?_⟩
  · rw [a1]
    change g.flt.jobs = _
    rw [hf]
  · rw [hto]
    rfl
  · rw [hto]
    exact hp
  · rw [hto]
    rfl
  · rw [hto, hdk]
    rfl
  · rw [hto]
    exact hb
  · rw [a2]
  · rw [a2]
  · rw [a2]
  · rw [a4]
  · rw [a4]
    change g.tb = _
    rw [hf]
  · rw [a3 m hm, State.site_modSite_other g _ hm, hs m hmo]
  · rw [a1]
    change g.coreMap = _
    rw [hf]

/-- Without a spare the site of a replaced core is given up, and the core unbound (R416). -/
theorem replaceCore_unbinds {cause : BitVec 16} (h : s.siteOf lc = some old) (hn : s.spareFor old = none) :
    let t := s.replaceCore lc cause
    t.siteOf lc = none ∧ t.host.degraded = true ∧ (t.site old).bound = none ∧ (t.site old).bad = true ∧ ∀ c, c ≠ lc → t.siteOf c = s.siteOf c := by
  obtain ⟨hf, -, -⟩ := giveUp_left s old cause
  have ho := giveUp_site s old cause
  rw [replaceCore_noSpare h hn]
  dsimp only
  generalize s.giveUp old cause = g at hf ho ⊢
  obtain ⟨h1, h2, h3, h4, h5⟩ := noSpare_spec g lc old
  refine ⟨h1, h2, h3, h4.trans (by rw [ho]; rfl), fun c hc => (h5 c hc).trans ?_⟩
  rw [hf]
  rfl

end

/-! ### The refill of a spare (R237, R347, R415) -/

section
variable {s t u : State} {n m : SiteNo} {a : SpareObs} {f b : BitVec 4}

/-- Entries of a table in a range, moved to 0. -/
theorem tget_moved (l : Tab Byte) {base len a : Nat} :
    tget (fun _ => 0) ((l.filter fun c => decide (base ≤ c.1) && decide (c.1 < base + len)).map fun c => (c.1 - base, c.2)) a =
      if a < len then tget (fun _ => 0) l (base + a) else 0 := by
  induction l with
  | nil => exact (ite_self _).symm
  | cons c l ih =>
    obtain ⟨k, v⟩ := c
    by_cases hk : base ≤ k ∧ k < base + len
    · rw [List.filter_cons_of_pos (by rw [decide_eq_true hk.1, decide_eq_true hk.2]; rfl), List.map_cons]
      unfold tget
      rw [ih]
      by_cases he : k = base + a
      · rw [if_pos (by omega), if_pos (by omega), if_pos he]
      · rw [if_neg (by omega), if_neg he]
    · rw [List.filter_cons_of_neg (by rw [Bool.and_eq_true, decide_eq_true_eq, decide_eq_true_eq]; exact hk), ih]
      by_cases ha : a < len
      · rw [if_pos ha, if_pos ha]
        conv => rhs; unfold tget
        rw [if_neg (by omega)]
      · rw [if_neg ha, if_neg ha]

/-- The bytes of GDDR7 that a refill copies. -/
def mirrorLen (m : BitVec 64) : Nat := min (mirrorPages m * 8388608) granSize

theorem mem_mirrorRange {i : Nat} (hv : mirrorValid (s.site n).mirror = true) (h : i < mirrorPages (s.site n).mirror) :
    mirrorFirst (s.site n).mirror + i ∈ s.mirrorRange n := by
  unfold State.mirrorRange
  rw [if_pos hv]
  exact List.mem_map.2 ⟨i, List.mem_range.2 h, rfl⟩

/-- The default of a byte of a mirror that holds no lost ciphertext is 0. -/
theorem ddrD_plain {x : Nat} (hv : mirrorValid (s.site n).mirror = true)
    (h : ((s.mirrorRange n).any fun p => (tget (fun _ => none) s.mem.cipher p).isSome) = false) (hx : x < mirrorPages (s.site n).mirror * 8388608) :
    s.ddrD (mirrorFirst (s.site n).mirror * 8388608 + x) = 0 := by
  have hp : (mirrorFirst (s.site n).mirror * 8388608 + x) / 8388608 = mirrorFirst (s.site n).mirror + x / 8388608 := by omega
  have hc := List.any_eq_false.1 h _ (mem_mirrorRange hv (i := x / 8388608) (by omega))
  rw [Bool.not_eq_true, Option.isSome_eq_false_iff, Option.isNone_iff_eq_none] at hc
  unfold State.ddrD
  rw [hp, hc]

/-- A default other than 0 matters only where it differs. -/
theorem tget_default {α : Type} {d e : Nat → α} {k : Nat} (h : d k = e k) (l : Tab α) : tget d l k = tget e l k := by
  induction l with
  | nil => exact h
  | cons c l ih =>
    unfold tget
    rw [ih]

/-- A refilled granary holds the bytes of its mirror, and 0 beyond. -/
theorem refillAll_gran (hv : mirrorValid (s.site n).mirror = true) (x : Nat) : tget (fun _ => 0) ((s.refillAll n).site n).gran x =
    if x < mirrorLen (s.site n).mirror then tget s.ddrD s.mem.ddr (mirrorFirst (s.site n).mirror * 8388608 + x) else 0 := by
  unfold State.refillAll
  rw [State.site_modSite_same]
  dsimp only
  change tget _ (if _ then tput (fun _ => 0) [] 0 (s.ddrRead _ (mirrorLen (s.site n).mirror)) else _) x = _
  cases hc : (s.mirrorRange n).any fun p => (tget (fun _ => none) s.mem.cipher p).isSome with
  | true =>
    rw [if_pos rfl, tget_tput, if_pos (Nat.zero_le x)]
    unfold State.ddrRead
    rw [tbytes_getElem?, Nat.sub_zero]
    split
    · rfl
    · rfl
  | false =>
    rw [if_neg Bool.false_ne_true]
    refine (tget_moved s.mem.ddr).trans ?_
    change (if x < mirrorLen (s.site n).mirror then _ else _) = _
    split
    next hx =>
      refine tget_default ?_ s.mem.ddr
      unfold mirrorLen at hx
      exact (ddrD_plain hv hc (by omega)).symm
    next => rfl

theorem refillAll_frame (s : State) (n : SiteNo) : (∃ S, s.refillAll n = { s with sites := S }) ∧ (∀ m, m ≠ n → (s.refillAll n).site m = s.site m) ∧
    (s.refillAll n).site n = { s.site n with gran := ((s.refillAll n).site n).gran } := by
  unfold State.refillAll
  refine ⟨⟨_, rfl⟩, fun m hm => State.site_modSite_other s _ hm, ?_⟩
  rw [State.site_modSite_same]

/-- A spare has its own set frequency and its voltage (R348, R415). -/
def State.spareSet (s : State) (n : SiteNo) (op : BitVec 3) : State :=
  ((s.modSite n fun c => { c with op := op }).modDom (domOfSite n) fun v => { v with mv := opMv op, trim := 0 }).modRegion (regionOf n)
    fun g => { g with st := 1, mhz := opMhz op }

theorem spareSet_spec (s : State) (n : SiteNo) (op : BitVec 3) :
    (∃ S D G, s.spareSet n op = { s with sites := S, pwr := { s.pwr with doms := D }, clk := { s.clk with regions := G } }) ∧
    (s.spareSet n op).site n = { s.site n with op := op } ∧ (∀ m, m ≠ n → (s.spareSet n op).site m = s.site m) ∧
    (s.spareSet n op).dom (domOfSite n) = { s.dom (domOfSite n) with mv := opMv op, trim := 0 } ∧
    (s.spareSet n op).region (regionOf n) = { s.region (regionOf n) with st := 1, mhz := opMhz op } := by
  unfold State.spareSet
  refine ⟨⟨_, _, _, rfl⟩, ?_, fun m hm => ?_, ?_, ?_⟩
  · rw [State.site_modRegion, State.site_modDom, State.site_modSite_same]
  · rw [State.site_modRegion, State.site_modDom, State.site_modSite_other s _ hm]
  · rw [State.dom_modRegion, State.dom_modDom_same, State.dom_modSite]
  · rw [State.region_modRegion_same, State.region_modDom]
    rfl

/-- A spare is released, its crossings calibrated (R347, R348, R415). -/
def State.spareReleased (s : State) (n : SiteNo) (a : CalObs) : State :=
  ((s.spareSet n (s.preferOp n)).calibrate ⟨n.val, by omega⟩ a).calibrate ⟨40 + n.val, by omega⟩ a

theorem mirrorLost_begun (s : State) (n : SiteNo) : (s.modSite n fun c => { c with refillDue := false }).mirrorLost n = s.mirrorLost n := by
  unfold State.mirrorLost
  rw [State.site_modSite_same]
  rfl

/-- A whole mirror with good words: the granary takes it, and the spare is released. -/
theorem spareRefillDone_clean (hr : (s.site n).refillDue = true) (hv : mirrorValid (s.site n).mirror = true) (hl : s.mirrorLost n = 0) (he : a.ecc = .clean) :
    exec (.spareRefillDone n a) s = .next (((s.modSite n fun c => { c with refillDue := false }).refillAll n).spareReleased n a.toCalObs) := by
  change execSpareRefillDone n a s = _
  unfold execSpareRefillDone
  dsimp only
  rw [if_neg (by rw [hr]; exact nofun), if_neg (by rw [hv]; exact nofun), if_neg (by rw [mirrorLost_begun]; exact not_not.2 hl), he,
    if_neg (by exact nofun)]
  rfl

/-- A whole mirror with a word beyond ECC: its block is lost. -/
theorem spareRefillDone_bad (hr : (s.site n).refillDue = true) (hv : mirrorValid (s.site n).mirror = true) (hl : s.mirrorLost n = 0) (he : a.ecc = .uncorrectable) :
    ∃ v : State, exec (.spareRefillDone n a) s = .next (((v.modSite n fun c => c.granLose (a.off.toNat / 4096)).hwFault n 0x000D 0
      (BitVec.ofNat 64 (a.off.toNat / 4096 * 4096))).spareReleased n a.toCalObs) := by
  refine ⟨((s.modSite n fun c => { c with refillDue := false }).ddrEcc (mirrorFirst (s.site n).mirror * 8388608 + a.off.toNat) .uncorrectable).refillAll n, ?_⟩
  change execSpareRefillDone n a s = _
  unfold execSpareRefillDone
  dsimp only
  rw [if_neg (by rw [hr]; exact nofun), if_neg (by rw [hv]; exact nofun), if_neg (by rw [mirrorLost_begun]; exact not_not.2 hl), he,
    if_pos rfl]
  rfl

theorem spareRefillDone_none (hr : (s.site n).refillDue = false) : exec (.spareRefillDone n a) s = .next s := if_pos hr

theorem calibrate_gran {x : Fin 120} (hx : x.val < 80) (hn : n.val = x.val % 40) (o : CalObs) : ((s.calibrate x o).site n).gran = (s.site n).gran := by
  have hf (rev : Bool) (found : Option (BitVec 4)) : ((s.calFail x rev found).site n).gran = (s.site n).gran := by
    obtain ⟨h, -⟩ := calFail_core (s := s) hx hn rev found
    rw [h]
  unfold State.calibrate
  split
  · exact hf _ _
  · split
    · exact hf _ _
    · rfl

theorem spareReleased_gran (s : State) (n : SiteNo) (a : CalObs) : ((s.spareReleased n a).site n).gran = (s.site n).gran := by
  unfold State.spareReleased
  have hn := n.isLt
  rw [calibrate_gran (by dsimp only; omega) (by dsimp only; omega), calibrate_gran (by dsimp only; omega) (by dsimp only; omega), (spareSet_spec s n _).2.1]

theorem granLose_block (c : Site) {k x : Nat} (h : x / 4096 = k) : tget (fun _ => 0) (c.granLose k).gran x = 0 := by
  refine tget_unlisted fun hm => ?_
  obtain ⟨p, hp, hx⟩ := List.mem_map.1 hm
  have hk := of_decide_eq_true (List.mem_filter.1 hp).2
  exact hk (by rw [hx]; exact h)

/-- What a released spare is, with both crossings calibrated within their limits. -/
theorem spareReleased_spec (s : State) (n : SiteNo) {a : CalObs} (hf : a.fwd = some f) (hb : a.rev = some b) (h1 : f.toNat ≤ 6) (h2 : b.toNat ≤ 6) :
    (∃ S D G X, s.spareReleased n a = { s with sites := S, pwr := { s.pwr with doms := D }, clk := { s.clk with regions := G, crossings := X } }) ∧
    (s.spareReleased n a).site n = { s.site n with op := s.preferOp n } ∧ (∀ m, m ≠ n → (s.spareReleased n a).site m = s.site m) ∧
    (s.spareReleased n a).dom (domOfSite n) = { s.dom (domOfSite n) with mv := opMv (s.preferOp n), trim := 0 } ∧
    (s.spareReleased n a).region (regionOf n) = { s.region (regionOf n) with st := 1, mhz := opMhz (s.preferOp n) } ∧
    (s.spareReleased n a).crossing n.val = { mode := 1, fwd := f, rev := b } ∧ (s.spareReleased n a).crossing (40 + n.val) = { mode := 1, fwd := f, rev := b } := by
  have hn := n.isLt
  have g1 : f ≤ 6 := h1
  have g2 : b ≤ 6 := h2
  unfold State.spareReleased
  rw [calibrate_core (x := ⟨n.val, by omega⟩) (by dsimp only; omega) hf hb g1 g2, calibrate_core (x := ⟨40 + n.val, by omega⟩) (by dsimp only; omega) hf hb g1 g2]
  obtain ⟨⟨S, D, G, e1⟩, e2, e3, e4, e5⟩ := spareSet_spec s n (s.preferOp n)
  generalize s.spareSet n (s.preferOp n) = p at e1 e2 e3 e4 e5 ⊢
  refine ⟨⟨S, D, G, (((p.setCrossing n.val { mode := 1, fwd := f, rev := b }).setCrossing (40 + n.val) { mode := 1, fwd := f, rev := b }).clk.crossings), ?_⟩, e2, e3, e4, e5, ?_, ?_⟩
  · subst e1
    rfl
  · rw [crossing_setCrossing_other _ _ (by dsimp only; omega), crossing_setCrossing_same]
  · exact crossing_setCrossing_same _ _ _

end

/-! ### Supervision of the stewards (R409) -/

section
variable {s t u : State} {tm : Word64}

/-- A poll of the stewards before its records (R409). -/
def State.polled (s : State) (a b : Bool) : State :=
  { s with flt := { s.flt with
      missedA := (pollOne s.flt.missedA a).1, missedB := (pollOne s.flt.missedB b).1,
      runnerB := if a then false else s.flt.runnerB || (pollOne s.flt.missedA a).2,
      watchdog := if a || b then s.tb else s.flt.watchdog } }

/-- A record is made when a condition holds. -/
def State.faultIf (s : State) (c : Bool) (cls : BitVec 16) (detail : Word32) : State := if c then s.fault cls none detail 0 else s

theorem stewardPoll_of (a b : Bool) : exec (.stewardPoll a b tm) s = .next ((((s.at tm).polled a b).faultIf (pollOne (s.at tm).flt.missedA a).2 0x0608 0).faultIf
    (pollOne (s.at tm).flt.missedB b).2 0x0608 1) := rfl

theorem pollOne_restart {k : Nat} (h : k ≤ 1) (a : Bool) : (pollOne k a).2 = (!a && decide (k = 1)) ∧
    (pollOne k a).1 = if a = true ∨ (!a && decide (k = 1)) = true then 0 else 1 := by
  unfold pollOne
  cases a with
  | true => exact ⟨rfl, rfl⟩
  | false =>
    rcases Nat.le_one_iff_eq_zero_or_eq_one.1 h with rfl | rfl
    · exact ⟨rfl, rfl⟩
    · exact ⟨rfl, rfl⟩

/-- A record that may have been made: what else the fault manager holds is as before. -/
theorem faultIf_spec (s : State) (c : Bool) (cls : BitVec 16) (d : Word32) : (∃ J i b v, s.faultIf c cls d =
      { s with jrnl := J, flt := { s.flt with nextId := i, buf := b, overflow := v } }) ∧
    (s.faultIf c cls d).flt.nextId = s.flt.nextId + (if c then 1 else 0) ∧ (c = true → ∃ x ∈ (s.faultIf c cls d).flt.buf, x.cls = cls) := by
  unfold State.faultIf
  cases c with
  | true => exact ⟨⟨_, _, _, _, rfl⟩, rfl, fun _ => fault_mem s cls none d 0⟩
  | false => exact ⟨⟨s.jrnl, s.flt.nextId, s.flt.buf, s.flt.overflow, rfl⟩, (BitVec.add_zero _).symm, nofun⟩

theorem fault_mem_keeps {x : FaultRec} (hx : x ∈ s.flt.buf) (hn : s.flt.buf.getLast? = some x) (c : Bool) (cls : BitVec 16) (d : Word32) :
    x ∈ (s.faultIf c cls d).flt.buf := by
  unfold State.faultIf
  cases c with
  | true => exact record_keepsLast hn (s.plainRec cls none d 0)
  | false => exact hx

/-- Of two records of a class that may have been made, one is held. -/
theorem faultIf_twice (s : State) (c e : Bool) (cls : BitVec 16) (d f : Word32) :
    (∃ J i b v, (s.faultIf c cls d).faultIf e cls f = { s with jrnl := J, flt := { s.flt with nextId := i, buf := b, overflow := v } }) ∧
    ((s.faultIf c cls d).faultIf e cls f).flt.nextId = s.flt.nextId + (if c then 1 else 0) + (if e then 1 else 0) ∧
    (c = true ∨ e = true → ∃ x ∈ ((s.faultIf c cls d).faultIf e cls f).flt.buf, x.cls = cls) := by
  obtain ⟨⟨J, i, b, v, h1⟩, h2, -⟩ := faultIf_spec s c cls d
  have hlast : c = true → ∃ x, (s.faultIf c cls d).flt.buf.getLast? = some x ∧ x.cls = cls := by
    rintro rfl
    exact record_last s (s.plainRec cls none d 0)
  generalize s.faultIf c cls d = u at h1 h2 hlast ⊢
  obtain ⟨⟨J', i', b', v', k1⟩, k2, k3⟩ := faultIf_spec u e cls f
  refine ⟨⟨J', i', b', v', ?_⟩, by rw [k2, h2], fun h => ?_⟩
  · rw [k1, h1]
  · rcases h with h | h
    · obtain ⟨x, hx, hc⟩ := hlast h
      exact ⟨x, fault_mem_keeps (List.mem_of_getLast? hx) hx e cls f, hc⟩
    · exact k3 h

/-- What a poll of the stewards brings about (R409). -/
theorem stewardPoll_spec (a b : Bool) (tm : Word64) (ha : s.flt.missedA ≤ 1) (hb : s.flt.missedB ≤ 1) :
    completes (.stewardPoll a b tm) s fun t => onlyLog (s.at tm) t ∧
      t.flt.missedA = (if a = true ∨ (!a && decide (s.flt.missedA = 1)) = true then 0 else 1) ∧
      t.flt.missedB = (if b = true ∨ (!b && decide (s.flt.missedB = 1)) = true then 0 else 1) ∧
      t.flt.runnerB = (!a && (s.flt.runnerB || (!a && decide (s.flt.missedA = 1)))) ∧
      t.flt.watchdog = (if a || b then (s.at tm).tb else s.flt.watchdog) ∧
      ((!a && decide (s.flt.missedA = 1)) = true ∨ (!b && decide (s.flt.missedB = 1)) = true → ∃ x ∈ t.flt.buf, x.cls = 0x0608) ∧
      t.flt.nextId = s.flt.nextId + (if (!a && decide (s.flt.missedA = 1)) then 1 else 0) + (if (!b && decide (s.flt.missedB = 1)) then 1 else 0) := by
  obtain ⟨w, hw⟩ := at_is s tm
  have he := stewardPoll_of (s := s) (tm := tm) a b
  obtain ⟨ra, ca⟩ := pollOne_restart ha a
  obtain ⟨rb, cb⟩ := pollOne_restart hb b
  have hfl : (s.at tm).flt = s.flt := by rw [hw]
  rw [hfl, ra, rb] at he
  have hp : (s.at tm).polled a b = { s.at tm with flt := ((s.at tm).polled a b).flt } := rfl
  have hA : ((s.at tm).polled a b).flt.missedA = if a = true ∨ (!a && decide (s.flt.missedA = 1)) = true then 0 else 1 := by
    rw [← ca, ← hfl]
    rfl
  have hB : ((s.at tm).polled a b).flt.missedB = if b = true ∨ (!b && decide (s.flt.missedB = 1)) = true then 0 else 1 := by
    rw [← cb, ← hfl]
    rfl
  have hR : ((s.at tm).polled a b).flt.runnerB = (!a && (s.flt.runnerB || (!a && decide (s.flt.missedA = 1)))) := by
    rw [← ra, ← hfl]
    cases a <;> rfl
  have hW : ((s.at tm).polled a b).flt.watchdog = if a || b then (s.at tm).tb else s.flt.watchdog := by
    rw [← hfl]
    rfl
  have hN : ((s.at tm).polled a b).flt.nextId = s.flt.nextId := by
    rw [← hfl]
    rfl
  refine ⟨_, he, ?_⟩
  generalize (s.at tm).polled a b = p at hp hA hB hR hW hN ⊢
  obtain ⟨⟨J, i, B, v, h1⟩, h2, h3⟩ := faultIf_twice p (!a && decide (s.flt.missedA = 1)) (!b && decide (s.flt.missedB = 1)) 0x0608 0 1
  rw [hN] at h2
  generalize (p.faultIf (!a && decide (s.flt.missedA = 1)) 0x0608 0).faultIf (!b && decide (s.flt.missedB = 1)) 0x0608 1 = t at h1 h2 h3 ⊢
  refine ⟨?_, ?_, ?_, ?_, ?_, h3, h2⟩
  · unfold onlyLog
    rw [h1, hp]
  · rw [h1]
    exact hA
  · rw [h1]
    exact hB
  · rw [h1]
    exact hR
  · rw [h1]
    exact hW

theorem reeveWatchdog_early (h : windowOver (s.at tm).flt.watchdog 10000000000 (s.at tm).tb = false) : exec (.reeveWatchdog tm) s = .next (s.at tm) :=
  if_pos (.inl h)

theorem reeveWatchdog_of (h : windowOver (s.at tm).flt.watchdog 10000000000 (s.at tm).tb = true) (hr : (s.at tm).board.rails = true)
    (hs : (s.at tm).host.resetting = false) : exec (.reeveWatchdog tm) s = .next { ((s.at tm).fault 0x0609 none 0 0).beginReset with
      board := { ((s.at tm).fault 0x0609 none 0 0).beginReset.board with wdReset := true } } := by
  refine if_neg ?_
  rw [h, hr, hs]
  exact nofun

/-- The watchdog of the reeve begins a warm reset (R409). -/
theorem watchdog_resets (hr : s.board.rails = true) (hs : s.host.resetting = false) :
    let t : State := { (s.fault 0x0609 none 0 0).beginReset with board := { (s.fault 0x0609 none 0 0).beginReset.board with wdReset := true } }
    logged s t 0x0609 ∧ t = { s with
      flt := t.flt, jrnl := t.jrnl, shadows := [], helds := [], host := { s.host with ready := false, resetting := true, arm := none },
      board := { s.board with resetDue := true, wdReset := true } } := by
  have hb : (s.fault 0x0609 none 0 0).beginReset = { s.fault 0x0609 none 0 0 with
      shadows := [], helds := [], host := { s.host with ready := false, resetting := true, arm := none }, board := { s.board with resetDue := true } } :=
    if_neg (by
      change ¬ (s.host.resetting = true ∨ s.board.rails = false)
      rw [hs, hr]
      exact nofun)
  have hl := record_logged s (s.plainRec 0x0609 none 0 0)
  dsimp only
  rw [hb]
  exact ⟨hl, rfl⟩

end

/-! ### The end of a folding window (R188) -/

section
variable {s : State} {tm : Word64} {cls : BitVec 16}

/-- The windows of a class (R188). -/
def State.windowsOf (s : State) (cls : BitVec 16) : Tab (Option (Nat × Word32 × Word64)) := s.flt.folds.filter fun p => decide (p.1 / 4096 = cls.toNat)

/-- The windows of other classes. -/
def State.windowsLeft (s : State) (cls : BitVec 16) : Tab (Option (Nat × Word32 × Word64)) := s.flt.folds.filter fun p => decide (p.1 / 4096 ≠ cls.toNat)

theorem windowEnd_none (h : (s.at tm).windowsOf cls = []) :
    exec (.faultRecordWindowEnd cls tm) s = .next { s.at tm with flt := { (s.at tm).flt with folds := (s.at tm).windowsLeft cls } } := by
  change execFaultRecordWindowEnd cls tm s = _
  unfold execFaultRecordWindowEnd
  unfold State.windowsOf at h
  dsimp only
  rw [h]
  rfl

theorem windowEnd_one {k : Nat} {v : Nat × Word32 × Word64} (h : (s.at tm).windowsOf cls = [(k, some v)]) :
    exec (.faultRecordWindowEnd cls tm) s = .next { (s.at tm).foldRecord cls (k % 4096) v with
      flt := { ((s.at tm).foldRecord cls (k % 4096) v).flt with folds := (s.at tm).windowsLeft cls } } := by
  change execFaultRecordWindowEnd cls tm s = _
  unfold execFaultRecordWindowEnd
  unfold State.windowsOf at h
  dsimp only
  rw [h]
  rfl

/-- The record of a window's events carries their count (R188). -/
theorem foldRecord_spec (s : State) (cls : BitVec 16) (k : Nat) (v : Nat × Word32 × Word64) : onlyLog s (s.foldRecord cls k v) ∧ logged s (s.foldRecord cls k v) cls ∧
    ∃ x ∈ (s.foldRecord cls k v).flt.buf, x.cls = cls ∧ x.id = s.flt.nextId ∧ x.count.toNat = min 4294967295 v.1 := by
  refine ⟨rfl, record_logged s _, ?_⟩
  obtain ⟨x, hx, he⟩ := record_mem s { s.plainRec cls (foldSite cls k) v.2.1 v.2.2 with count := satNat 32 v.1 }
  refine ⟨x, hx, ?_⟩
  have hc := satNat_toNat (w := 32) (n := v.1)
  rcases he with he | he
  · rw [he]
    exact ⟨rfl, rfl, hc⟩
  · rw [he]
    exact ⟨rfl, rfl, hc⟩

end

/-! ### The journal (R463 to R466) -/

section
variable {s : State} {r : JRec}

/-- A record waits while less than 256 KiB of the half is free (R465). -/
def Journal.holdsBack (j : Journal) (r : JRec) : Bool :=
  match r with
  | .fault _ => decide (halfBytes < j.fill + 262144)
  | _ => false

theorem holdsBack_of (h : isFaultRec r = true → s.jrnl.fill + 262144 ≤ halfBytes) : s.jrnl.holdsBack r = false := by
  cases r
  case fault i =>
    have hl := h rfl
    unfold Journal.holdsBack
    exact decide_eq_false (Nat.not_lt.2 hl)
  all_goals rfl

theorem journalAppend_of (hf : s.flashHeld = false) (hr : r ∈ s.jrnl.buf) (h : isFaultRec r = true → s.jrnl.fill + 262144 ≤ halfBytes) :
    exec (.journalAppend r) s = .next (if s.jrnl.backlog = 0 then { s with jrnl := s.jrnl.flush r }
      else ({ s with jrnl := { s.jrnl.flush r with backlog := 0 } } : State).fault 0x0809 none (BitVec.ofNat 32 s.jrnl.backlog) 0) := by
  have hc : ¬ (s.flashHeld = true ∨ s.jrnl.buf.contains r = false ∨ s.jrnl.holdsBack r = true) := by
    rw [hf, List.contains_iff_mem.2 hr, holdsBack_of h]
    rintro (h | h | h) <;> exact nomatch h
  change execJournalAppend r s = _
  unfold execJournalAppend
  exact if_neg hc

theorem journalAppend_still (h : s.flashHeld = true ∨ r ∉ s.jrnl.buf) : exec (.journalAppend r) s = .next s := by
  change execJournalAppend r s = _
  unfold execJournalAppend
  refine if_pos ?_
  rcases h with h | h
  · exact .inl h
  · refine .inr (.inl ?_)
    rw [← Bool.not_eq_true, List.contains_iff_mem]
    exact h

/-- A record sealed while others had been left out: that they were is recorded (R466). -/
theorem backlog_recorded (s : State) (r : JRec) (d : Word32) :
    let t := ({ s with jrnl := { s.jrnl.flush r with backlog := 0 } } : State).fault 0x0809 none d 0
    onlyLog s t ∧ logged s t 0x0809 ∧ t.jrnl.recs = s.jrnl.recs ++ [(s.jrnl.seq, r)] := by
  refine ⟨rfl, record_logged { s with jrnl := { s.jrnl.flush r with backlog := 0 } } _, ?_⟩
  change (Journal.append { s.jrnl.flush r with backlog := 0 } (.fault s.flt.nextId.toNat)).recs = _
  unfold Journal.append
  dsimp only
  split
  · rfl
  · rfl

/-- The powered seconds are kept, with a record (R464). -/
def State.recordPowered (u : State) : State :=
  { u with jrnl := { u.jrnl with
    powered := u.poweredNow
    poweredFrom := u.jrnl.poweredFrom + BitVec.ofNat 64 ((u.poweredNow - u.jrnl.powered).toNat * 1000000000)
    buf := u.jrnl.buf ++ [.powered u.poweredNow] } }

theorem journal_powered (u : State) (p : Word32) (q : Word64) : ({ u with jrnl := { u.jrnl with powered := p, poweredFrom := q } } : State).journal (.powered p) =
    { u with jrnl := { u.jrnl with powered := p, poweredFrom := q, buf := u.jrnl.buf ++ [.powered p] } } := rfl

theorem poweredRecordTimer_of (h : s.board.alwaysOn = true) : exec .poweredRecordTimer s = .next (s.at (s.jrnl.poweredFrom + 60000000000)).recordPowered := by
  change execPoweredRecordTimer s = _
  unfold execPoweredRecordTimer
  rw [if_neg (by rw [h]; exact nofun)]
  generalize s.at (s.jrnl.poweredFrom + 60000000000) = u
  exact congrArg Host.Outcome.next (journal_powered u _ _)

theorem compactionStart_of (hf : s.flashHeld = false) (hc : s.jrnl.compacting = false) (h : 50331648 ≤ s.jrnl.fill) :
    exec .compactionStart s = .next { s with jrnl := { s.jrnl with compacting := true } } := by
  change execCompactionStart s = _
  unfold execCompactionStart
  refine if_neg ?_
  rw [hf, hc]
  rintro (k | k | k)
  · exact nomatch k
  · exact nomatch k
  · exact absurd h (Nat.not_le.2 k)

theorem compactionStart_still (h : s.jrnl.fill < 50331648) : exec .compactionStart s = .next s := by
  change execCompactionStart s = _
  unfold execCompactionStart
  exact if_pos (.inr (.inr h))

theorem compactionSwitch_still (h : s.jrnl.compacting = false) : exec .compactionSwitch s = .next s := if_pos (.inr h)

/-- The journal after a switch of halves (R465). -/
def Journal.switched (j : Journal) (now : Word32) : Journal :=
  { j with recs := compacted now j.recs, fill := laidOut 0 (compacted now j.recs), half := !j.half, gen := j.gen + 1, compacting := false }.seal (.switch (j.gen + 1))

theorem compactionSwitch_of (hf : s.flashHeld = false) (hc : s.jrnl.compacting = true) : exec .compactionSwitch s =
    .next (({ s with jrnl := s.jrnl.switched s.poweredNow } : State).fault 0x0806 none (s.jrnl.gen + 1) 0) := by
  refine if_neg ?_
  rw [hf, hc]
  rintro (k | k)
  · exact nomatch k
  · exact nomatch k

theorem appendFault_kept (j : Journal) (i : Nat) : (j.append (.fault i)).half = j.half ∧ (j.append (.fault i)).gen = j.gen ∧
    (j.append (.fault i)).compacting = j.compacting ∧ (j.append (.fault i)).recs = j.recs := by
  unfold Journal.append
  dsimp only
  split
  · exact ⟨rfl, rfl, rfl, rfl⟩
  · exact ⟨rfl, rfl, rfl, rfl⟩

/-- What a switch of halves brings about (R465). -/
theorem switched_fault (s : State) (d : Word32) :
    let t := ({ s with jrnl := s.jrnl.switched s.poweredNow } : State).fault 0x0806 none d 0
    onlyLog s t ∧ logged s t 0x0806 ∧ t.jrnl.half = !s.jrnl.half ∧ t.jrnl.gen = s.jrnl.gen + 1 ∧ t.jrnl.compacting = false ∧
      t.jrnl.recs.getLast? = some (s.jrnl.seq, .switch (s.jrnl.gen + 1)) := by
  obtain ⟨h1, h2, h3, h4⟩ := appendFault_kept (s.jrnl.switched s.poweredNow) s.flt.nextId.toNat
  refine ⟨rfl, record_logged { s with jrnl := s.jrnl.switched s.poweredNow } _, h1, h2, h3, ?_⟩
  exact (congrArg List.getLast? h4).trans List.getLast?_concat

end

theorem stop_gran (c : Site) : c.stop.gran = c.gran := by
  unfold Site.stop
  split
  · rfl
  · rfl

section
variable {s : State} {n : SiteNo} {f b : BitVec 4} {a : CalObs}

/-- A spare whose granary has taken its mirror and that is released (R237, R347, R415). -/
theorem spare_refilled (hv : mirrorValid (s.site n).mirror = true) (hf : a.fwd = some f) (hb : a.rev = some b) (h1 : f.toNat ≤ 6) (h2 : b.toNat ≤ 6) :
    let t := ((s.modSite n fun c => { c with refillDue := false }).refillAll n).spareReleased n a
    t = { s with
      sites := t.sites, pwr := { s.pwr with doms := t.pwr.doms }, clk := { s.clk with regions := t.clk.regions, crossings := t.clk.crossings } } ∧
    t.site n = { s.site n with refillDue := false, gran := (t.site n).gran, op := s.preferOp n } ∧
    (∀ x, x < mirrorLen (s.site n).mirror → [tget (fun _ => 0) (t.site n).gran x] = s.ddrRead (mirrorFirst (s.site n).mirror * 8388608 + x) 1) ∧
    (∀ x, mirrorLen (s.site n).mirror ≤ x → tget (fun _ => 0) (t.site n).gran x = 0) ∧ (∀ m, m ≠ n → t.site m = s.site m) ∧
    t.dom (domOfSite n) = { s.dom (domOfSite n) with mv := opMv (s.preferOp n), trim := 0 } ∧
    t.region (regionOf n) = { s.region (regionOf n) with st := 1, mhz := opMhz (s.preferOp n) } ∧
    t.crossing n.val = { mode := 1, fwd := f, rev := b } ∧ t.crossing (40 + n.val) = { mode := 1, fwd := f, rev := b } := by
  have hsn : (s.modSite n fun c => { c with refillDue := false }).site n = { s.site n with refillDue := false } := State.site_modSite_same _ _ _
  have hso (m : SiteNo) (h : m ≠ n) : (s.modSite n fun c => { c with refillDue := false }).site m = s.site m := State.site_modSite_other _ _ h
  have hsf : ∃ S, (s.modSite n fun c => { c with refillDue := false }) = { s with sites := S } := ⟨_, rfl⟩
  generalize (s.modSite n fun c => { c with refillDue := false }) = v at hsn hso hsf ⊢
  have hm : (v.site n).mirror = (s.site n).mirror := by rw [hsn]
  obtain ⟨S0, hsf⟩ := hsf
  have hg := refillAll_gran (s := v) (n := n) (by rw [hm]; exact hv)
  rw [hm] at hg
  obtain ⟨⟨S1, r1⟩, r2, r3⟩ := refillAll_frame v n
  generalize v.refillAll n = w at hg r1 r2 r3 ⊢
  have hop : w.preferOp n = s.preferOp n := by
    unfold State.preferOp
    rw [r3, hsn, r1, hsf]
  obtain ⟨⟨S, D, G, X, e1⟩, e2, e3, e4, e5, e6, e7⟩ := spareReleased_spec w n hf hb h1 h2
  rw [hop] at e2 e4 e5
  have hgr : ((w.spareReleased n a).site n).gran = (w.site n).gran := spareReleased_gran w n a
  generalize w.spareReleased n a = t at e1 e2 e3 e4 e5 e6 e7 hgr ⊢
  have hdd (x : Nat) : tget v.ddrD v.mem.ddr x = tget s.ddrD s.mem.ddr x := by
    rw [hsf]
    rfl
  refine ⟨?_, ?_, fun x hx => ?_, fun x hx => ?_, fun m hn => (e3 m hn).trans ((r2 m hn).trans (hso m hn)), ?_, ?_, e6, e7⟩
  · rw [e1, r1, hsf]
  · rw [hgr, e2, r3, hsn]
  · rw [hgr, hg, if_pos hx, hdd]
    rfl
  · rw [hgr, hg, if_neg (Nat.not_lt.2 hx)]
  · rw [e4, r1, hsf]
    rfl
  · rw [e5, r1, hsf]
    rfl

end

theorem at_fltBoardHost (s : State) (tm : Word64) : (s.at tm).flt = s.flt ∧ (s.at tm).board = s.board ∧ (s.at tm).host = s.host := by
  obtain ⟨w, hw⟩ := at_is s tm
  rw [hw]
  exact ⟨rfl, rfl, rfl⟩

/-- Settles O55: a replacement through the site that is given up and the spare that is chosen, a refill through the bytes of the mirror,
and the supervision and the journal by the records that they make. -/
theorem replacementSupervisionAndJournal : Obligations.ReplacementSupervisionAndJournal := by
  unfold Obligations.ReplacementSupervisionAndJournal
  refine ⟨fun s lc tm => ⟨fun h => ⟨_, coreReplace_none h, rfl⟩, fun r old hj hh hold => ⟨fun n hn => ?_, fun hn => ?_⟩⟩,
    fun s n f b a hf hb hl => ⟨fun hr hv hm he => ?_, fun hr => ⟨_, spareRefillDone_none hr, rfl⟩, fun hr hv hm he h1 h2 => ?_⟩,
    fun s a b tm ha hb => stewardPoll_spec a b tm ha hb, fun s tm hr hs => ⟨fun hw => ?_, fun hw => ?_⟩, fun s cls tm => ⟨fun hd => ?_, fun k v hd => ?_⟩,
    fun s r => ⟨fun hf hr hroom hb => ?_, fun hf hr hroom hb => ?_, fun h => ⟨_, journalAppend_still h, rfl⟩⟩,
    fun s => ⟨fun h => ?_, fun hf hc h => ⟨_, compactionStart_of hf hc h, rfl⟩, fun h => ⟨_, compactionStart_still h, rfl⟩,
      fun hf hc => ⟨_, compactionSwitch_of hf hc, switched_fault s _⟩, fun h => ⟨_, compactionSwitch_still h, rfl⟩⟩⟩
  · obtain ⟨w, hw⟩ := at_is s tm
    refine ⟨_, coreReplace_of hj hh, ?_⟩
    have h := replaceCore_moves (s := ({ s with tb := w } : State).setJobs [{ r with replace := r.replace.drop 1 }]) (cause := r.cls) hold hn
    rw [hw]
    exact h
  · obtain ⟨w, hw⟩ := at_is s tm
    refine ⟨_, coreReplace_of hj hh, ?_⟩
    have h := replaceCore_unbinds (s := ({ s with tb := w } : State).setJobs [{ r with replace := r.replace.drop 1 }]) (cause := r.cls) hold hn
    rw [hw]
    exact h
  · obtain ⟨v, hx⟩ := spareRefillDone_bad hr hv hm he
    refine ⟨_, hx, fun x hx => ?_⟩
    rw [spareReleased_gran, hwFault_site, State.site_modSite_same, stop_gran]
    exact granLose_block (v.site n) hx
  · refine ⟨_, spareRefillDone_clean hr hv hm he, ?_⟩
    exact spare_refilled hv hf hb h1 h2
  · have hfl := at_fltBoardHost s tm
    refine ⟨_, reeveWatchdog_of (by rw [hfl.1]; exact hw) (by rw [hfl.2.1]; exact hr) (by rw [hfl.2.2]; exact hs), ?_⟩
    exact watchdog_resets (by rw [hfl.2.1]; exact hr) (by rw [hfl.2.2]; exact hs)
  · have hfl := at_fltBoardHost s tm
    exact ⟨_, reeveWatchdog_early (by rw [hfl.1]; exact hw), rfl⟩
  · obtain ⟨w, hw⟩ := at_is s tm
    rw [hw]
    refine ⟨_, windowEnd_none ?_, by rw [hw]; rfl⟩
    rw [hw]
    exact hd
  · obtain ⟨w, hw⟩ := at_is s tm
    have he := windowEnd_one (s := s) (tm := tm) (cls := cls) (k := k) (v := v) (by rw [hw]; exact hd)
    rw [hw] at he ⊢
    obtain ⟨h1, h2, h3⟩ := foldRecord_spec { s with tb := w } cls (k % 4096) v
    refine ⟨_, he, ?_⟩
    generalize ({ s with tb := w } : State).foldRecord cls (k % 4096) v = x at h1 h2 h3 ⊢
    refine ⟨?_, h2, rfl, h3⟩
    unfold onlyLog at h1 ⊢
    rw [h1]
  · have he := journalAppend_of hf hr hroom
    rw [if_pos hb] at he
    exact ⟨_, he, rfl, rfl⟩
  · have he := journalAppend_of hf hr hroom
    rw [if_neg hb] at he
    exact ⟨_, he, backlog_recorded s r _⟩
  · refine ⟨_, poweredRecordTimer_of h, ?_⟩
    have hj : (s.at (s.jrnl.poweredFrom + 60000000000)).jrnl = s.jrnl := by
      obtain ⟨w, hw⟩ := at_is s (s.jrnl.poweredFrom + 60000000000)
      rw [hw]
    generalize s.at (s.jrnl.poweredFrom + 60000000000) = u at hj ⊢
    unfold State.recordPowered
    dsimp only
    rw [hj]

end Sys2Proof.Machine
end

section
/-!
PROOF. The vector queue and the vector unit (05_instruction_set.md, 04_core.md, R89 to R94, R148); O28.
-/

namespace Sys2Proof.Machine

/-! ### What vector operations write (R89 to R94, R148) -/

section
variable {c : Site} {v x : BitVec 5} {g : Nat → BitVec 32}

/-- Values stored one after another from a key on. -/
theorem tget_stored {α : Type} [DecidableEq α] {z : Nat → α} (l : List α) (a k : Nat) (m : Tab α) (j : Nat) :
    tget z ((l.zipIdx k).foldl (fun t p => tset z t (a + p.2) p.1) m) j = if a + k ≤ j then l[j - (a + k)]?.getD (tget z m j) else tget z m j := by
  induction l generalizing k m with
  | nil =>
    split
    · rfl
    · rfl
  | cons b l ih =>
    rw [List.zipIdx_cons, List.foldl_cons, ih]
    by_cases h : a + k ≤ j
    · rw [if_pos h]
      by_cases he : j = a + k
      · subst he
        rw [if_neg (by omega), tget_tset_same, Nat.sub_self]
        rfl
      · rw [if_pos (by omega), tget_tset_other _ _ _ he, show j - (a + k) = (j - (a + (k + 1))) + 1 by omega]
        rfl
    · rw [if_neg h, if_neg (by omega), tget_tset_other _ _ _ (by omega)]

theorem setV_frame (c : Site) (v : BitVec 5) (ls : List (BitVec 32)) : c.setV v ls = { c with vregs := (c.setV v ls).vregs } := rfl

theorem lane_setV (c : Site) (v : BitVec 5) (ls : List (BitVec 32)) (k i : Nat) : (c.setV v ls).lane k i =
    if v.toNat * 2048 ≤ k * 2048 + i then ls[k * 2048 + i - v.toNat * 2048]?.getD (c.lane k i) else c.lane k i := by
  have h := tget_stored (z := fun _ => 0) ls (v.toNat * 2048) 0 c.vregs (k * 2048 + i)
  rw [Nat.add_zero] at h
  exact h

theorem lanewise_frame (c : Site) (v : BitVec 5) (g : Nat → BitVec 32) : c.lanewise v g = { c with vregs := (c.lanewise v g).vregs } := by
  unfold Site.lanewise
  exact setV_frame c v _

theorem lane_lanewise (c : Site) (v : BitVec 5) (g : Nat → BitVec 32) (k i : Nat) : (c.lanewise v g).lane k i =
    if v.toNat * 2048 ≤ k * 2048 + i then ((List.range 2048).map g)[k * 2048 + i - v.toNat * 2048]?.getD (c.lane k i) else c.lane k i := by
  unfold Site.lanewise
  exact lane_setV c v _ k i

/-- A lane operation writes the lanes of its register. -/
theorem lane_lanewise_same {i : Nat} (h : i < 2048) : (c.lanewise v g).lane v.toNat i = g i := by
  rw [lane_lanewise, if_pos (Nat.le_add_right _ _), Nat.add_sub_cancel_left, List.getElem?_map, List.getElem?_range h]
  rfl

/-- A lane operation leaves the other registers. -/
theorem lane_lanewise_other {i : Nat} (hx : x ≠ v) (h : i < 2048) : (c.lanewise v g).lane x.toNat i = c.lane x.toNat i := by
  have hn : x.toNat ≠ v.toNat := fun e => hx (BitVec.eq_of_toNat_eq e)
  rw [lane_lanewise]
  split
  next hle =>
    rw [List.getElem?_eq_none]
    · rfl
    · rw [List.length_map, List.length_range]
      omega
  next => rfl

/-- A lane of VD as an operation computes it (Table 5.11). -/
def Site.laneOf (c : Site) (v : VecEntry) (f : VecF) : VecOp → Nat → BitVec 32
  | .vld => loadLane (vecFmt (modFmt f.mod) (modScl f.mod)) (modScl f.mod) (fp (v.sval.extractLsb' 0 32)) fun k => tget (fun _ => 0) c.ws (v.addr.toNat + k)
  | .vfma => fun i => fpFma (c.lane f.va.toNat i) (c.lane f.vb.toNat i) (c.lane f.vc.toNat i)
  | .vadd => fun i => fpAdd (c.lane f.va.toNat i) (c.lane f.vb.toNat i)
  | .vsub => fun i => fpSub (c.lane f.va.toNat i) (c.lane f.vb.toNat i)
  | .vmul => fun i => fpMul (c.lane f.va.toNat i) (c.lane f.vb.toNat i)
  | .vmin => fun i => fpPick false (c.lane f.va.toNat i) (c.lane f.vb.toNat i)
  | .vmax => fun i => fpPick true (c.lane f.va.toNat i) (c.lane f.vb.toNat i)
  | .vcmp => fun i => if fpCmp (f.mod.extractLsb' 0 3).toNat (c.lane f.va.toNat i) (c.lane f.vb.toNat i) then 1 else 0
  | .vsel => fun i => if c.lane f.vc.toNat i ≠ 0 then c.lane f.va.toNat i else c.lane f.vb.toNat i
  | .vsfu => fun i => fpSfu (f.mod.extractLsb' 0 3).toNat (c.lane f.va.toNat i)
  | .vred => fun i => if i = 0 then reduceLanes (f.mod.extractLsb' 0 2).toNat ((f.mod.extractLsb' 2 11).toNat + 1) (c.vreg f.va) else 0
  | .vbcast => fun _ => if f.mod.getLsbD 0 then v.sval.extractLsb' 0 32 else c.lane f.va.toNat 0
  | _ => fun _ => 0

/-- The operations that write the lanes of VD. -/
def laneOps : List VecOp := [.vld, .vfma, .vadd, .vsub, .vmul, .vmin, .vmax, .vcmp, .vsel, .vsfu, .vred, .vbcast]

theorem vecDo_lanes (c : Site) (v : VecEntry) {op : VecOp} (f : VecF) (h : op ∈ laneOps) : c.vecDo v op f = .done (c.lanewise f.vd (c.laneOf v f op)) := by
  cases op
  case vst | vmovs | vwadd | vwanch | vwcvt | vxpose => exact absurd h (by decide)
  all_goals rfl

/-- Bytes written to the working store, with the token that is named signalled. -/
theorem writeSignal_spec (c : Site) (a : Nat) (bs : List Byte) (o : Option (BitVec 6)) :
    let d := (c.wsWrite a bs).signalOpt o
    d.vecQ = c.vecQ ∧ d.vregs = c.vregs ∧ d.sregs = c.sregs ∧ d.gran = c.gran ∧ d.ws = tput (fun _ => 0) c.ws a bs ∧
    (o = none → d.toks = c.toks) ∧ ∀ k, o = some k → d.tok k = BitVec.ofNat 16 (min 65535 ((c.tok k).toNat + 1)) := by
  cases o with
  | none => exact ⟨rfl, rfl, rfl, rfl, rfl, fun _ => rfl, nofun⟩
  | some k =>
    have ht := tok_signalOpt (c.wsWrite a bs) k
    refine ⟨?_, ?_, ?_, ?_, ?_, nofun, ?_⟩
    case refine_6 =>
      intro j hj
      cases hj
      exact ht
    all_goals
      unfold Site.signalOpt Site.signal
      dsimp only
      split
      · rfl
      · rfl

/-- Bytes written from an address on: those, and no other. -/
theorem tput_spec (m : Tab Byte) (a : Nat) (bs : List Byte) :
    (∀ x, x < a ∨ a + bs.length ≤ x → tget (fun _ => 0) (tput (fun _ => 0) m a bs) x = tget (fun _ => 0) m x) ∧
    ∀ i, i < bs.length → tget (fun _ => 0) (tput (fun _ => 0) m a bs) (a + i) = bs.getD i 0 := by
  refine ⟨fun x hx => ?_, fun i hi => ?_⟩
  · rw [tget_tput]
    split
    · rw [List.getElem?_eq_none (by omega)]
      rfl
    · rfl
  · rw [tget_tput, if_pos (Nat.le_add_right a i), Nat.add_sub_cancel_left, List.getElem?_eq_getElem hi, List.getD_eq_getElem?_getD, List.getElem?_eq_getElem hi]
    rfl

/-- The first register of a number that awaits its value gets it (R128). -/
theorem fillPend_first {rd : BitVec 5} (y : Word64) {past : List PendW} (later : List PendW) (h : ∀ p ∈ past, p.rd = rd → p.value ≠ none) :
    fillPend rd y (past ++ { rd := rd, value := none } :: later) = past ++ { rd := rd, value := some y } :: later := by
  induction past with
  | nil => exact if_pos ⟨rfl, rfl⟩
  | cons p past ih =>
    rw [List.cons_append]
    unfold fillPend
    rw [if_neg fun hp => h p List.mem_cons_self hp.1 hp.2, ih fun q hq => h q (List.mem_cons_of_mem _ hq)]
    rfl

end

/-! ### VECTOR_ISSUE (R93, R94, R97, R148, R158) -/

section
variable {s : State} {n : SiteNo} {off : BitVec 28} {v : VecEntry} {rest : List VecEntry}

/-- The operation at the head of the vector queue may issue. -/
def vecReady (s : State) (n : SiteNo) (v : VecEntry) (rest : List VecEntry) : Prop :=
  s.clocked n = true ∧ (s.site n).vecQ = v :: rest ∧ (s.site n).vecHalted = false ∧ (s.site n).quarantined = false

/-- The operation has left the vector queue. -/
def State.vecTaken (s : State) (n : SiteNo) (rest : List VecEntry) : State := s.modSite n fun c => { c with vecQ := rest }

theorem vecTaken_site (s : State) (n : SiteNo) (rest : List VecEntry) : (s.vecTaken n rest).site n = { s.site n with vecQ := rest } :=
  State.site_modSite_same s n fun c => { c with vecQ := rest }

theorem vecTaken_only (s : State) (n : SiteNo) (rest : List VecEntry) : onlySite n s (s.vecTaken n rest) := onlySite_modSite s n _

theorem vectorIssue_of (h : vecReady s n v rest) (k : Fin 3) (ecc : EccObs) : exec (.vectorIssue n k ecc off) s =
    if ecc = .uncorrectable then .next ((s.vecTaken n rest).wsLost n off.toNat)
    else if (v.checked && decide (k = 2)) = true then .next ((s.vecTaken n rest).hwFault n 0x000E 2 0)
    else .next (if ecc = .corrected then
        (if (v.checked && decide (k = 1)) = true then ((s.vecTaken n rest).vecPerform n v).fault 0x000E (some n) 1 0 else (s.vecTaken n rest).vecPerform n v).wsFixed n off.toNat
      else (if (v.checked && decide (k = 1)) = true then ((s.vecTaken n rest).vecPerform n v).fault 0x000E (some n) 1 0 else (s.vecTaken n rest).vecPerform n v)) := by
  obtain ⟨hc, hq, hh, hz⟩ := h
  change execVectorIssue n k ecc off s = _
  unfold execVectorIssue
  dsimp only
  rw [if_neg (by rw [hc]; exact nofun), hq]
  dsimp only
  rw [if_neg (by rw [hh, hz]; exact nofun)]
  rfl

theorem vectorIssue_clean (h : vecReady s n v rest) : exec (.vectorIssue n 0 .clean off) s = .next ((s.vecTaken n rest).vecPerform n v) := by
  rw [vectorIssue_of h, if_neg nofun, if_neg (by rw [decide_eq_false (by decide), Bool.and_false]; exact nofun), if_neg nofun,
    if_neg (by rw [decide_eq_false (by decide), Bool.and_false]; exact nofun)]

theorem vectorIssue_once (h : vecReady s n v rest) (hv : v.checked = true) :
    exec (.vectorIssue n 1 .clean off) s = .next (((s.vecTaken n rest).vecPerform n v).fault 0x000E (some n) 1 0) := by
  rw [vectorIssue_of h, if_neg nofun, if_neg (by rw [decide_eq_false (by decide), Bool.and_false]; exact nofun), if_neg nofun, if_pos (by rw [hv]; rfl)]

theorem vectorIssue_twice (h : vecReady s n v rest) (hv : v.checked = true) :
    exec (.vectorIssue n 2 .clean off) s = .next ((s.vecTaken n rest).hwFault n 0x000E 2 0) := by
  rw [vectorIssue_of h, if_neg nofun, if_pos (by rw [hv]; rfl)]

theorem vectorIssue_lost (h : vecReady s n v rest) (k : Fin 3) :
    exec (.vectorIssue n k .uncorrectable off) s = .next ((s.vecTaken n rest).wsLost n off.toNat) := by
  rw [vectorIssue_of h, if_pos rfl]

theorem vectorIssue_still {k : Fin 3} {ecc : EccObs} (h : (s.site n).vecQ = [] ∨ (s.site n).vecHalted = true ∨ (s.site n).quarantined = true) :
    exec (.vectorIssue n k ecc off) s = .next s := by
  change execVectorIssue n k ecc off s = _
  unfold execVectorIssue
  split
  · rfl
  · dsimp only
    cases hq : (s.site n).vecQ with
    | nil => rfl
    | cons v rest =>
      refine if_pos ?_
      rw [Bool.or_eq_true]
      exact h.resolve_left fun e => nomatch e.symm.trans hq

/-- An operation that is performed leaves a site behind. -/
theorem vecDone_of {op : VecOp} {f : VecF} {c : Site} (h : vecReady s n v rest) (hi : v.item = .vec op f)
    (hd : ({ s.site n with vecQ := rest } : Site).vecDo v op f = .done c) {P : State → Prop} (hP : ∀ t, onlySite n s t → t.site n = c → P t) :
    completes (.vectorIssue n 0 .clean off) s P := by
  have hp : (s.vecTaken n rest).vecPerform n v = (s.vecTaken n rest).setSite n c := by
    unfold State.vecPerform
    rw [hi]
    dsimp only
    rw [vecTaken_site, hd]
  refine ⟨_, vectorIssue_clean h, ?_⟩
  rw [hp]
  exact hP _ (onlySite_trans (vecTaken_only s n rest) (onlySite_modSite (s.vecTaken n rest) n fun _ => c)) (State.site_setSite_same _ n c)

theorem itemDone_of {c : Site} (h : vecReady s n v rest) (hp : (s.vecTaken n rest).vecPerform n v = (s.vecTaken n rest).setSite n c)
    {P : State → Prop} (hP : ∀ t, onlySite n s t → t.site n = c → P t) : completes (.vectorIssue n 0 .clean off) s P := by
  refine ⟨_, vectorIssue_clean h, ?_⟩
  rw [hp]
  exact hP _ (onlySite_trans (vecTaken_only s n rest) (onlySite_modSite (s.vecTaken n rest) n fun _ => c)) (State.site_setSite_same _ n c)

/-- A checked operation writes lanes. -/
theorem checked_lanes (hv : v.checked = true) : ∃ op f, v.item = .vec op f ∧ op ∈ laneOps := by
  unfold VecEntry.checked at hv
  split at hv
  next op f hi =>
    refine ⟨op, f, hi, ?_⟩
    rw [List.contains_iff_mem] at hv
    revert hv
    cases op <;> decide
  next => exact nomatch hv

/-- A checked operation, performed: its site has new lanes. -/
theorem vecPerform_checked (s : State) (n : SiteNo) (rest : List VecEntry) (hv : v.checked = true) : ∃ X,
    (s.vecTaken n rest).vecPerform n v = (s.vecTaken n rest).setSite n { s.site n with vecQ := rest, vregs := X } := by
  obtain ⟨op, f, hi, ho⟩ := checked_lanes hv
  unfold State.vecPerform
  rw [hi]
  dsimp only
  rw [vecTaken_site, vecDo_lanes _ v f ho]
  dsimp only
  rw [lanewise_frame]
  exact ⟨_, rfl⟩

/-! ### A refused operation (R55, R94, R157) -/

theorem recordExc_kept (c : Site) (code : BitVec 6) (slot : Nat) (bundle : BitVec 16) (info : Word32) :
    ∃ e i, c.recordExc code slot bundle info = { c with exc := e, excInfo := i } := by
  unfold Site.recordExc
  split
  · exact ⟨_, _, rfl⟩
  · exact ⟨_, _, rfl⟩

/-- A refusal empties and halts the vector queue and stops dispatch. -/
theorem refuseVec_spec (s : State) (n : SiteNo) (v : VecEntry) (code : BitVec 6) (h : (s.site n).seq ≠ .idle) :
    siteAndLog n s (s.refuseVec n v code) ∧ told s (s.refuseVec n v code) clsException (some n) ∧
    ∃ e i fl, (s.refuseVec n v code).site n = { s.site n with vecQ := [], vecHalted := true, vecFlush := fl, exc := e, excInfo := i, seq := .stopped } := by
  refine ⟨?_, ⟨insertReport_length _ _ _, _, mem_insertReport _ _ _, rfl, rfl⟩, ?_⟩
  · have he : s.refuseVec n v code = (s.modSite n fun c => { c with vecQ := [], vecHalted := true, vecFlush := anchorFlag code c.vecFlush }).raise n code v.slot v.bundle 0x100 := rfl
    rw [he]
    refine siteAndLog_trans (onlySite_siteAndLog (onlySite_modSite s n fun c => { c with vecQ := [], vecHalted := true, vecFlush := anchorFlag code c.vecFlush })) ?_
    generalize s.modSite n (fun c => { c with vecQ := [], vecHalted := true, vecFlush := anchorFlag code c.vecFlush }) = u
    exact ⟨rfl, fun m hm => State.site_modSite_other u (fun c => (c.recordExc code v.slot v.bundle 0x100).stop) hm⟩
  · obtain ⟨e, i, hk⟩ := recordExc_kept { s.site n with vecQ := [], vecHalted := true, vecFlush := anchorFlag code (s.site n).vecFlush } code v.slot v.bundle 0x100
    have hs : (s.refuseVec n v code).site n = (({ s.site n with vecQ := [], vecHalted := true, vecFlush := anchorFlag code (s.site n).vecFlush } : Site).recordExc
        code v.slot v.bundle 0x100).stop := by
      unfold State.refuseVec State.raise
      dsimp only
      refine (State.site_modSite_same _ n fun c => (c.recordExc code v.slot v.bundle 0x100).stop).trans ?_
      rw [State.site_modSite_same]
    refine ⟨e, i, anchorFlag code (s.site n).vecFlush, ?_⟩
    rw [hs, hk]
    exact if_neg h

end

section
variable {s : State} {n : SiteNo} {off : BitVec 28} {v : VecEntry} {rest : List VecEntry} {f : VecF}

/-- What a lane operation writes (Table 5.11). -/
theorem laneOp_issues {op : VecOp} (h : vecReady s n v rest) (hi : v.item = .vec op f) (ho : op ∈ laneOps) :
    completes (.vectorIssue n 0 .clean off) s fun t => onlySite n s t ∧ t.site n = { s.site n with vecQ := rest, vregs := (t.site n).vregs } ∧
      (∀ x : BitVec 5, x ≠ f.vd → ∀ i, i < 2048 → (t.site n).lane x.toNat i = (s.site n).lane x.toNat i) ∧
      ∀ i, i < 2048 → (t.site n).lane f.vd.toNat i = ({ s.site n with vecQ := rest } : Site).laneOf v f op i := by
  refine vecDone_of h hi (vecDo_lanes _ v f ho) fun t ht hs => ⟨ht, ?_, fun x hx i hlt => ?_, fun i hlt => ?_⟩
  · rw [hs]
    exact lanewise_frame _ _ _
  · rw [hs]
    exact lane_lanewise_other hx hlt
  · rw [hs]
    exact lane_lanewise_same hlt

/-- What an operation that writes bytes and signals its token leaves behind. -/
def bytesStored (c d : Site) (rest : List VecEntry) (a : Nat) (bs : List Byte) (o : Option (BitVec 6)) : Prop :=
  d.vecQ = rest ∧ d.vregs = c.vregs ∧ d.sregs = c.sregs ∧ d.gran = c.gran ∧
  (∀ x, x < a ∨ a + bs.length ≤ x → tget (fun _ => 0) d.ws x = tget (fun _ => 0) c.ws x) ∧
  (∀ i, i < bs.length → tget (fun _ => 0) d.ws (a + i) = bs.getD i 0) ∧
  (o = none → d.toks = c.toks) ∧ ∀ k, o = some k → d.tok k = BitVec.ofNat 16 (min 65535 ((c.tok k).toNat + 1))

theorem stored_of (c : Site) (rest : List VecEntry) (a : Nat) (bs : List Byte) (o : Option (BitVec 6)) :
    bytesStored c ((({ c with vecQ := rest } : Site).wsWrite a bs).signalOpt o) rest a bs o := by
  obtain ⟨h1, h2, h3, h4, h5, h6, h7⟩ := writeSignal_spec { c with vecQ := rest } a bs o
  obtain ⟨k1, k2⟩ := tput_spec c.ws a bs
  refine ⟨h1, h2, h3, h4, ?_, ?_, h6, h7⟩
  · rw [h5]
    exact k1
  · rw [h5]
    exact k2

theorem stored_flush {c d : Site} {a : Nat} {bs : List Byte} {o : Option (BitVec 6)} (h : bytesStored c d rest a bs o) (x : Word32) :
    bytesStored c { d with vecFlush := x } rest a bs o := h

/-- What VST converts (R52, R89). -/
def vstOf (c : Site) (v : VecEntry) (f : VecF) : Stored :=
  storeLanes (vecFmt (modFmt f.mod) (modScl f.mod)) (modScl f.mod) (fp (v.sval.extractLsb' 0 32)) (!f.mod.getLsbD 19) (f.mod.getLsbD 18) (c.vreg f.vd)

/-- The sums of VWADD (R94). -/
def vwaddSums (c : Site) (v : VecEntry) (f : VecF) : Option (List Wps) :=
  allSome (List.zipWith Wps.add (c.wpsAt v.addrA (modBlocks f.mod)) (c.wpsAt v.addrB (modBlocks f.mod)))

theorem vecDo_vwadd (c : Site) (v : VecEntry) (f : VecF) : c.vecDo v .vwadd f =
    (vwaddSums c v f).elim (.refuse 0x05) fun ws => .done ((c.wsWrite v.addr.toNat (ws.flatMap Wps.bytes)).signalOpt (modTok f.mod)) := by
  have he : c.vecDo v .vwadd f = match vwaddSums c v f with
    | some ws => .done ((c.wsWrite v.addr.toNat (ws.flatMap Wps.bytes)).signalOpt (modTok f.mod))
    | none => .refuse 0x05 := rfl
  rw [he]
  cases vwaddSums c v f <;> rfl

theorem vwadd_done {ws : List Wps} (h : vwaddSums (s.site n) v f = some ws) : ({ s.site n with vecQ := rest } : Site).vecDo v .vwadd f =
    .done ((({ s.site n with vecQ := rest } : Site).wsWrite v.addr.toNat (ws.flatMap Wps.bytes)).signalOpt (modTok f.mod)) := by
  have h' : vwaddSums { s.site n with vecQ := rest } v f = some ws := h
  rw [vecDo_vwadd, h']
  rfl

theorem vwadd_refused (hi : v.item = .vec .vwadd f) (h : vwaddSums (s.site n) v f = none) :
    (s.vecTaken n rest).vecPerform n v = (s.vecTaken n rest).refuseVec n v 0x05 := by
  have h' : vwaddSums { s.site n with vecQ := rest } v f = none := h
  unfold State.vecPerform
  rw [hi]
  dsimp only
  rw [vecTaken_site, vecDo_vwadd, h']
  rfl

theorem sts_done {x : Word64} (hi : v.item = .sts x) : (s.vecTaken n rest).vecPerform n v =
    (s.vecTaken n rest).setSite n (({ s.site n with vecQ := rest } : Site).wsWrite v.addr.toNat (leBytes 8 x.toNat)) := by
  unfold State.vecPerform
  rw [hi]
  dsimp only
  rw [vecTaken_site]

theorem awaited_done {rd : BitVec 5} {x : Word64} (h : v.item = .lds rd ∧ x = BitVec.ofNat 64 (leNat ((s.site n).wsRead v.addr.toNat 8)) ∨
    ∃ f, v.item = .vec .vmovs f ∧ f.vd = rd ∧ x = ((s.site n).lane f.va.toNat (f.mod.extractLsb' 0 11).toNat).setWidth 64) :
    (s.vecTaken n rest).vecPerform n v = (s.vecTaken n rest).setSite n (({ s.site n with vecQ := rest } : Site).answer rd x) := by
  unfold State.vecPerform
  rcases h with ⟨hi, rfl⟩ | ⟨f, hi, rfl, rfl⟩
  · rw [hi]
    dsimp only
    rw [vecTaken_site]
    rfl
  · rw [hi]
    dsimp only
    rw [vecTaken_site]
    rfl

/-- Settles O28: each operation by the site that it leaves, a lane operation through the lanes that it writes, a store through its bytes. -/
theorem vectorOperationsIssue : Obligations.VectorOperationsIssue := by
  unfold Obligations.VectorOperationsIssue
  refine ⟨fun s n off v rest op f hc hq hh hz hi ho => ?_, fun s n off v rest f hc hq hh hz hi => ?_, fun s n off v rest f ws hc hq hh hz hi hw => ?_,
    fun s n off v rest f hc hq hh hz hi hseq hw => ?_, fun s n off v rest f hc hq hh hz hi => ?_, fun s n off v rest x hc hq hh hz hi => ?_,
    fun s n off v rest rd past later x hc hq hh hz hi hp hpast => ?_, fun s n off v rest hc hq hh hz hv => ⟨?_, ?_⟩,
    fun s n off v rest k hc hq hh hz => ?_, fun s n k ecc off _ h => ⟨_, vectorIssue_still h, rfl⟩⟩
  · obtain ⟨t, he, h1, h2, h3, h4⟩ := laneOp_issues (off := off) ⟨hc, hq, hh, hz⟩ hi ho
    refine ⟨t, he, h1, h2, h3, fun i hlt => ?_⟩
    have hd := h4 i hlt
    refine ⟨?_, ?_, ?_, ?_, ?_, ?_, ?_, ?_, ?_, ?_, ?_, ?_⟩ <;> rintro rfl <;> exact hd
  · refine vecDone_of ⟨hc, hq, hh, hz⟩ hi rfl fun t ht hs => ⟨ht, ?_⟩
    obtain ⟨h1, h2, h3, h4, h5, h6, h7, h8⟩ := stored_flush (stored_of (s.site n) rest v.addr.toNat ((vecFmt (modFmt f.mod) (modScl f.mod)).pack (vstOf (s.site n) v f).codes ++
      (vstOf (s.site n) v f).scales) (modTok f.mod)) (flushTake (s.site n).vecFlush (vstOf (s.site n) v f).sat (vstOf (s.site n) v f).nan 0)
    rw [hs]
    exact ⟨h1, h2, h3, h4, h5, h6, h7, h8⟩
  · refine vecDone_of ⟨hc, hq, hh, hz⟩ hi (vwadd_done hw) fun t ht hs => ⟨ht, ?_⟩
    obtain ⟨h1, h2, -, -, h5, h6, h7, h8⟩ := stored_of (s.site n) rest v.addr.toNat (ws.flatMap Wps.bytes) (modTok f.mod)
    rw [hs]
    exact ⟨h1, h2, h5, h6, h7, h8⟩
  · have hp := vwadd_refused (rest := rest) hi hw
    obtain ⟨hlog, htold, e, i, fl, hs⟩ := refuseVec_spec (s.vecTaken n rest) n v 0x05 (by rw [vecTaken_site]; exact hseq)
    refine ⟨_, vectorIssue_clean ⟨hc, hq, hh, hz⟩, ?_⟩
    rw [hp]
    rw [vecTaken_site] at hs
    refine ⟨siteAndLog_trans (onlySite_siteAndLog (vecTaken_only s n rest)) hlog, htold, ?_⟩
    rw [hs]
    exact ⟨rfl, rfl, rfl, rfl, rfl⟩
  · refine vecDone_of ⟨hc, hq, hh, hz⟩ hi rfl fun t ht hs => ⟨ht, ?_⟩
    obtain ⟨h1, h2, -, -, h5, h6, h7, h8⟩ := stored_of (s.site n) rest v.addr.toNat (xpose (xpRows f.mod) (xpCols f.mod) (xpWidth f.mod)
      ((s.site n).wsRead v.addrA.toNat (xpRows f.mod * xpCols f.mod * xpWidth f.mod))) (modTok f.mod)
    rw [hs]
    exact ⟨h1, h2, h5, h6, h7, h8⟩
  · refine itemDone_of (c := ({ s.site n with vecQ := rest } : Site).wsWrite v.addr.toNat (leBytes 8 x.toNat)) ⟨hc, hq, hh, hz⟩ (sts_done hi) fun t ht hs => ⟨ht, ?_⟩
    rw [hs]
    refine ⟨rfl, tbytes_tput (m := (s.site n).ws) v.addr.toNat (leBytes 8 x.toNat), fun a ha => tget_tput_other _ ?_⟩
    exact ha
  · refine itemDone_of (c := ({ s.site n with vecQ := rest } : Site).answer rd x) ⟨hc, hq, hh, hz⟩ (awaited_done hi) fun t ht hs => ⟨ht, ?_⟩
    rw [hs]
    unfold Site.answer
    dsimp only
    rw [hp, fillPend_first x later hpast]
  · obtain ⟨X, hX⟩ := vecPerform_checked s n rest hv
    have ho : onlySite n s ((s.vecTaken n rest).setSite n { s.site n with vecQ := rest, vregs := X }) :=
      onlySite_trans (vecTaken_only s n rest) (onlySite_modSite (s.vecTaken n rest) n fun _ => { s.site n with vecQ := rest, vregs := X })
    have hs := State.site_setSite_same (s.vecTaken n rest) n { s.site n with vecQ := rest, vregs := X }
    refine ⟨_, vectorIssue_once ⟨hc, hq, hh, hz⟩ hv, ?_⟩
    rw [hX]
    have hf : ((s.vecTaken n rest).setSite n { s.site n with vecQ := rest, vregs := X }).flt = s.flt := rfl
    generalize (s.vecTaken n rest).setSite n { s.site n with vecQ := rest, vregs := X } = u at ho hs hf ⊢
    have hl := record_logged u (u.plainRec 0x000E (some n) 1 0)
    refine ⟨siteAndLog_trans (onlySite_siteAndLog ho) ⟨rfl, fun _ _ => rfl⟩, ?_, ?_, ?_, ?_⟩
    · unfold logged at hl ⊢
      rw [hf] at hl
      exact hl
    · change (u.site n).vecQ = _
      rw [hs]
    · change u.flt.reports = _
      rw [hf]
    · change (u.site n).seq = _
      rw [hs]
  · refine ⟨_, vectorIssue_twice ⟨hc, hq, hh, hz⟩ hv, ?_⟩
    obtain ⟨h1, h2⟩ := hwFault_told (s := s) (u := s.vecTaken n rest) rfl n 0x000E 2 0
    refine ⟨siteAndLog_trans (onlySite_siteAndLog (vecTaken_only s n rest)) (hwFault_siteAndLog _ n _ _ _), h1, h2, ?_⟩
    rw [hwFault_site, vecTaken_site]
  · refine ⟨_, vectorIssue_lost ⟨hc, hq, hh, hz⟩ k, ?_⟩
    have he : (s.vecTaken n rest).wsLost n off.toNat = ((s.vecTaken n rest).modSite n fun c => { c with wsEcc := eccUncorrectable c.wsEcc }).hwFault n 0x000A 0
      (BitVec.ofNat 64 off.toNat) := rfl
    have ho := onlySite_trans (vecTaken_only s n rest) (onlySite_modSite (s.vecTaken n rest) n fun c => { c with wsEcc := eccUncorrectable c.wsEcc })
    have hs : ((s.vecTaken n rest).modSite n fun c => { c with wsEcc := eccUncorrectable c.wsEcc }).site n =
        { s.site n with vecQ := rest, wsEcc := eccUncorrectable (s.site n).wsEcc } := by
      rw [State.site_modSite_same, vecTaken_site]
    rw [he]
    have hf : ((s.vecTaken n rest).modSite n fun c => { c with wsEcc := eccUncorrectable c.wsEcc }).flt = s.flt := rfl
    generalize (s.vecTaken n rest).modSite n (fun c => { c with wsEcc := eccUncorrectable c.wsEcc }) = u at ho hs hf ⊢
    obtain ⟨h1, h2⟩ := hwFault_told (s := s) (u := u) hf n 0x000A 0 (BitVec.ofNat 64 off.toNat)
    refine ⟨siteAndLog_trans (onlySite_siteAndLog ho) (hwFault_siteAndLog u n _ _ _), h1, h2, ?_⟩
    rw [hwFault_site, hs]

end

end Sys2Proof.Machine
end

section
/-!
PROOF. Frequency changes, crossings, oscillators and the time base (12_clocking.md, R338 to R357); O50.
-/

namespace Sys2Proof.Machine

/-! ### Regions that change together (R349, R350) -/

section
variable {s t u : State} {r q : RegionNo} {n : SiteNo}

/-- Only the clock regions differ. -/
def regionsOnly (s t : State) : Prop := t = { s with clk := { s.clk with regions := t.clk.regions } }

theorem regionsOnly_trans (h : regionsOnly s t) (k : regionsOnly t u) : regionsOnly s u := by
  unfold regionsOnly at h k ⊢
  rw [k, h]

theorem modRegions_frame (s : State) (rs : List RegionNo) (f : Region → Region) : regionsOnly s (s.modRegions rs f) :=
  foldl_related (P := regionsOnly) (fun _ => rfl) (fun _ _ _ => regionsOnly_trans) (F := fun (s : State) r => s.modRegion r f) (fun _ _ => rfl) rs s

/-- A change to several regions, each once. -/
theorem region_modRegions {rs : List RegionNo} (hn : rs.Nodup) (s : State) (f : Region → Region) (q : RegionNo) :
    (s.modRegions rs f).region q = if q ∈ rs then f (s.region q) else s.region q :=
  foldl_touches (F := fun (s : State) r => s.modRegion r f) (read := fun q (v : State) => v.region q) (new := fun _ g => f g)
    (fun v r => State.region_modRegion_same v r f) (fun v _ _ h => State.region_modRegion_other v f h) hn s q

theorem unitOf_nodup (r : RegionNo) : (unitOf r).Nodup := by
  unfold unitOf
  split
  · exact List.nodup_singleton r
  · exact (List.nodup_finRange 48).filter _

theorem coresOf_nodup (r : RegionNo) : (coresOf r).Nodup := by
  unfold coresOf
  split
  · exact List.nodup_nil
  · exact (List.nodup_finRange 48).filter _

theorem self_mem_unitOf (r : RegionNo) : r ∈ unitOf r := by
  unfold unitOf
  split
  · exact List.mem_singleton_self r
  next h =>
    refine List.mem_filter.2 ⟨List.mem_finRange r, ?_⟩
    rw [decide_eq_true (Nat.not_lt.1 h), decide_eq_true rfl]
    rfl

theorem mem_coresOf (h : q ∈ coresOf r) : q.val < 40 ∧ 40 ≤ r.val := by
  unfold coresOf at h
  split at h
  · exact nomatch h
  next hr =>
    have hp := (List.mem_filter.1 h).2
    rw [Bool.and_eq_true, decide_eq_true_eq] at hp
    exact ⟨hp.1, Nat.not_lt.1 hr⟩

theorem mem_unitOf_field (hr : 40 ≤ r.val) (h : q ∈ unitOf r) : 40 ≤ q.val := by
  unfold unitOf at h
  rw [if_neg (Nat.not_lt.2 hr)] at h
  have hp := (List.mem_filter.1 h).2
  rw [Bool.and_eq_true, decide_eq_true_eq] at hp
  exact hp.1

/-- The regions of a unit are none of the cores that stop with it. -/
theorem cores_not_unit (h : q ∈ coresOf r) : q ∉ unitOf r := fun hu => by
  obtain ⟨h1, h2⟩ := mem_coresOf h
  have := mem_unitOf_field h2 hu
  omega

theorem unit_not_cores (h : q ∈ unitOf r) : q ∉ coresOf r := fun hc => cores_not_unit hc h

/-- A change to a unit and another to the cores that stop with it. -/
theorem modBoth_spec (s : State) (r : RegionNo) (f g : Region → Region) :
    let t := (s.modRegions (unitOf r) f).modRegions (coresOf r) g
    regionsOnly s t ∧ (∀ q, q ∉ unitOf r ++ coresOf r → t.region q = s.region q) ∧ (∀ q ∈ unitOf r, t.region q = f (s.region q)) ∧
      ∀ q ∈ coresOf r, t.region q = g (s.region q) := by
  refine ⟨regionsOnly_trans (modRegions_frame s _ f) (modRegions_frame _ _ g), fun q hq => ?_, fun q hq => ?_, fun q hq => ?_⟩
  · rw [List.mem_append, not_or] at hq
    rw [region_modRegions (coresOf_nodup r), if_neg hq.2, region_modRegions (unitOf_nodup r), if_neg hq.1]
  · rw [region_modRegions (coresOf_nodup r), if_neg (unit_not_cores hq), region_modRegions (unitOf_nodup r), if_pos hq]
  · rw [region_modRegions (coresOf_nodup r), if_pos hq, region_modRegions (unitOf_nodup r), if_neg (cores_not_unit hq)]

/-! ### FREQ_CHANGE_START (R338, R339, R349) -/

/-- A frequency is one of the region's, and for a core at most 1.25 times its field's (R339). -/
def freqAllowed (s : State) (r : RegionNo) (mhz : BitVec 11) : Prop :=
  (if r.val < 40 then mhz ∈ [(400 : BitVec 11), 550, 650, 800, 900, 1000, 1050, 1100] else mhz ∈ [(900 : BitVec 11), 1000]) ∧
    ∀ h : r.val < 40, 4 * mhz.toNat ≤ 5 * (s.region ⟨40 + (fieldOfSite ⟨r.val, h⟩).val, by omega⟩).mhz.toNat

theorem legalMhz_iff (r : RegionNo) (mhz : BitVec 11) : legalMhz r mhz = true ↔
    if r.val < 40 then mhz ∈ [(400 : BitVec 11), 550, 650, 800, 900, 1000, 1050, 1100] else mhz ∈ [(900 : BitVec 11), 1000] := by
  unfold legalMhz
  split
  · have hl : (List.range 8).map (fun i => opMhz (BitVec.ofNat 3 i)) = [(400 : BitVec 11), 550, 650, 800, 900, 1000, 1050, 1100] := by decide
    rw [← hl, List.any_eq_true, List.mem_map]
    simp only [decide_eq_true_eq]
  · rw [Bool.or_eq_true, decide_eq_true_eq, decide_eq_true_eq, List.mem_cons, List.mem_singleton]
    exact Or.comm

theorem freqChangeStart_of {mhz : BitVec 11} {tm : Word64} (h : freqAllowed (s.at tm) r mhz) :
    exec (.freqChangeStart r mhz tm) s = .next ((s.at tm).startChange r mhz (s.at tm).tb) := by
  obtain ⟨hl, hf⟩ := h
  rw [← legalMhz_iff] at hl
  change execFreqChangeStart r mhz tm s = _
  unfold execFreqChangeStart
  generalize s.at tm = u at hf ⊢
  dsimp only
  rw [if_neg (by rw [hl]; exact nofun)]
  split
  next h => exact if_neg (Nat.not_lt.2 (hf h))
  next => rfl

theorem freqChangeStart_never {mhz : BitVec 11} {tm : Word64} (h : ¬ freqAllowed (s.at tm) r mhz) : exec (.freqChangeStart r mhz tm) s = .next (s.at tm) := by
  change execFreqChangeStart r mhz tm s = _
  unfold execFreqChangeStart
  unfold freqAllowed at h
  rw [← legalMhz_iff] at h
  generalize s.at tm = u at h ⊢
  dsimp only
  split
  · rfl
  next hl =>
    have hl := Bool.not_eq_false _ ▸ hl
    split
    next hr =>
      refine if_pos (Nat.lt_of_not_le fun hle => h ⟨hl, fun _ => hle⟩)
    next hr => exact absurd ⟨hl, fun hr' => absurd hr' hr⟩ h

/-- A change that starts. -/
theorem startChange_starts {mhz : BitVec 11} {a : Word64} (hc : (s.region r).change = none) (hm : (s.region r).mhz ≠ mhz) (hs : (s.region r).st ≠ 0) :
    s.startChange r mhz a = s.modRegions (unitOf r) fun g => { g with change := some (mhz, a), calDone := false } := by
  unfold State.startChange
  dsimp only
  rw [hc]
  exact if_neg (not_or.2 ⟨hm, hs⟩)

/-- A change that is latched behind another. -/
theorem startChange_latches {mhz m : BitVec 11} {a b : Word64} (hc : (s.region r).change = some (m, b)) (hm : m ≠ mhz) :
    s.startChange r mhz a = s.modRegions (unitOf r) fun g => { g with latched := some mhz } := by
  unfold State.startChange
  dsimp only
  rw [hc]
  exact if_neg fun h => hm h.1

end

/-! ### CLOCK_STOP (R344, R347, R349) -/

section
variable {s t u : State} {r : RegionNo} {x : Nat}

theorem lintel_setLintel_same (s : State) (k : Nat) (v : Lintel) : (s.setLintel k v).lintel k = v := tget_tset_same _ _ _ _

theorem lintel_setLintel_other (s : State) {k j : Nat} (v : Lintel) (h : j ≠ k) : (s.setLintel k v).lintel j = s.lintel j := tget_tset_other _ _ _ h

/-- A crossing with its lintel goes into RECAL (R347, R221). -/
def State.recalOne (s : State) (r : RegionNo) (x : Nat) : State :=
  if crossingIn r x = false ∨ (s.crossing x).mode ≠ 1 then s
  else if x < 80 then s.setCrossing x { s.crossing x with mode := 2 }
  else (s.setCrossing x { s.crossing x with mode := 2 }).setLintel ((x - 80) / 4) { s.lintel ((x - 80) / 4) with mode := 2 }

theorem recalibrating_is (s : State) (r : RegionNo) : s.recalibrating r = (List.range 120).foldl (fun s x => s.recalOne r x) s := rfl

/-- What a crossing is after its unit stops. -/
def Crossing.recalled (c : Crossing) (is : Bool) : Crossing := if is = false ∨ c.mode ≠ 1 then c else { c with mode := 2 }

theorem recalOne_crossing (s : State) (r : RegionNo) (x : Nat) : (s.recalOne r x).crossing x = (s.crossing x).recalled (crossingIn r x) := by
  unfold State.recalOne Crossing.recalled
  split
  · rfl
  · split
    · exact crossing_setCrossing_same _ _ _
    · exact crossing_setCrossing_same s x _

theorem recalOne_crossing_other (s : State) (r : RegionNo) {x y : Nat} (h : y ≠ x) : (s.recalOne r x).crossing y = s.crossing y := by
  unfold State.recalOne
  split
  · rfl
  · split
    · exact crossing_setCrossing_other _ _ h
    · exact crossing_setCrossing_other s _ h

theorem recalibrating_crossing (s : State) (r : RegionNo) (x : Nat) :
    (s.recalibrating r).crossing x = if x ∈ List.range 120 then (s.crossing x).recalled (crossingIn r x) else s.crossing x := by
  rw [recalibrating_is]
  exact foldl_touches (F := fun (s : State) x => s.recalOne r x) (read := fun x (v : State) => v.crossing x) (new := fun x c => c.recalled (crossingIn r x))
    (fun v x => recalOne_crossing v r x) (fun v x y h => recalOne_crossing_other v r h) List.nodup_range s x

/-- Only crossings and the modes of lintels differ. -/
def crossingsOnly (s t : State) : Prop :=
  t = { s with clk := { s.clk with crossings := t.clk.crossings }, fab := { s.fab with lintels := t.fab.lintels } } ∧
  ∀ k, t.lintel k = { s.lintel k with mode := (t.lintel k).mode }

theorem crossingsOnly_trans (h : crossingsOnly s t) (k : crossingsOnly t u) : crossingsOnly s u := by
  obtain ⟨h1, h2⟩ := h
  obtain ⟨k1, k2⟩ := k
  refine ⟨by rw [k1, h1], fun j => ?_⟩
  rw [k2 j, h2 j]

theorem recalOne_only (s : State) (r : RegionNo) (x : Nat) : crossingsOnly s (s.recalOne r x) := by
  unfold State.recalOne
  split
  · exact ⟨rfl, fun _ => rfl⟩
  · split
    · exact ⟨rfl, fun _ => rfl⟩
    · refine ⟨rfl, fun k => ?_⟩
      by_cases hk : k = (x - 80) / 4
      · rw [hk, lintel_setLintel_same]
      · rw [lintel_setLintel_other _ _ hk]
        rfl

theorem recalibrating_only (s : State) (r : RegionNo) : crossingsOnly s (s.recalibrating r) := by
  rw [recalibrating_is]
  exact foldl_related (P := crossingsOnly) (fun _ => ⟨rfl, fun _ => rfl⟩) (fun _ _ _ => crossingsOnly_trans) (F := fun (s : State) x => s.recalOne r x)
    (fun v x => recalOne_only v r x) _ s

/-- The lintel of a link that went into RECAL recalibrates. -/
def lintelsFollow (s t : State) : Prop := ∀ x, 80 ≤ x → (s.crossing x).mode = 1 → (t.crossing x).mode ≠ 1 → (t.lintel ((x - 80) / 4)).mode = 2

theorem recalOne_follows (h : lintelsFollow s t) (r : RegionNo) (x : Nat) : lintelsFollow s (t.recalOne r x) := by
  intro y hy h1 h2
  by_cases hyx : y = x
  · subst hyx
    unfold State.recalOne at h2 ⊢
    split at h2
    next hc =>
      rw [if_pos hc]
      exact h y hy h1 h2
    next hc =>
      rw [if_neg hc, if_neg (Nat.not_lt.2 hy), lintel_setLintel_same]
  · rw [recalOne_crossing_other t r hyx] at h2
    have ht := h y hy h1 h2
    unfold State.recalOne
    split
    · exact ht
    · split
      · exact ht
      · by_cases hk : (y - 80) / 4 = (x - 80) / 4
        · rw [hk, lintel_setLintel_same]
        · rw [lintel_setLintel_other _ _ hk]
          exact ht

theorem recalibrating_follows (s : State) (r : RegionNo) : lintelsFollow s (s.recalibrating r) := by
  rw [recalibrating_is]
  exact foldl_inv (lintelsFollow s) (fun (s : State) x => s.recalOne r x) (fun v x h => recalOne_follows h r x) _ s fun _ _ h1 h2 => absurd h1 h2

/-- A region of a unit at its stop. -/
def Region.stopNow (g : Region) : Region := if g.runs then { g with st := 2 } else g

/-- A frequency-change stop is counted (R349). -/
def State.changeCounted (v : State) : State := { v with clk := { v.clk with changes := v.clk.changes + 1 } }

theorem clockStop_of (h1 : (s.region r).change.isSome = true) (h2 : (s.region r).runs = true) : exec (.clockStop r) s =
    .next (((s.modRegions (unitOf r) Region.stopNow).modRegions (coresOf r) Region.stopInHalf).recalibrating r).changeCounted := by
  refine if_neg ?_
  rw [h2, Option.isNone_eq_false_iff.2 h1]
  rintro (h | h)
  · exact nomatch h
  · exact nomatch h

/-- What CLOCK_STOP brings about (R344, R347, R349). -/
theorem clockStop_spec (h1 : (s.region r).change.isSome = true) (h2 : (s.region r).runs = true) : completes (.clockStop r) s fun t =>
      t = { s with clk := { s.clk with regions := t.clk.regions, crossings := t.clk.crossings, changes := s.clk.changes + 1 },
                   fab := { s.fab with lintels := t.fab.lintels } } ∧
      (∀ q, q ∉ unitOf r ++ coresOf r → t.region q = s.region q) ∧
      (∀ x, x < 120 → crossingIn r x = true → (s.crossing x).mode = 1 →
        t.crossing x = { s.crossing x with mode := 2 } ∧ (80 ≤ x → (t.lintel ((x - 80) / 4)).mode = 2)) ∧
      (∀ x, crossingIn r x = false ∨ (s.crossing x).mode ≠ 1 → t.crossing x = s.crossing x) ∧
      (∀ k, t.lintel k = { s.lintel k with mode := (t.lintel k).mode }) ∧
      (∀ q ∈ unitOf r, t.region q = { s.region q with st := if (s.region q).runs then 2 else (s.region q).st }) ∧
      ∀ q ∈ coresOf r, ((s.region q).runs = false → t.region q = s.region q) ∧
        ((s.region q).runs = true → t.region q =
          { s.region q with st := 2, inHalf := (s.region q).st, joined := (s.region q).change.isSome }) := by
  refine ⟨_, clockStop_of h1 h2, ?_⟩
  obtain ⟨b1, b2, b3, b4⟩ := modBoth_spec s r Region.stopNow Region.stopInHalf
  generalize (s.modRegions (unitOf r) Region.stopNow).modRegions (coresOf r) Region.stopInHalf = v at b1 b2 b3 b4 ⊢
  have hvx (x : Nat) : v.crossing x = s.crossing x := by
    unfold regionsOnly at b1
    rw [b1]
    rfl
  have hvl (k : Nat) : v.lintel k = s.lintel k := by
    unfold regionsOnly at b1
    rw [b1]
    rfl
  have hx := recalibrating_crossing v r
  obtain ⟨c1, c2⟩ := recalibrating_only v r
  have hf := recalibrating_follows v r
  generalize v.recalibrating r = w at hx c1 c2 hf ⊢
  have hwr (q : RegionNo) : w.region q = v.region q := by
    rw [c1]
    rfl
  unfold regionsOnly at b1
  unfold State.changeCounted
  dsimp only
  refine ⟨by rw [c1, b1], fun q hq => (hwr q).trans (b2 q hq), fun x hlt hin hm => ?_, fun x hn => ?_,
    fun k => (c2 k).trans (congrArg (fun l : Lintel => { l with mode := (w.lintel k).mode }) (hvl k)), fun q hq => ?_, fun q hq => ⟨fun hr => ?_, fun hr => ?_⟩⟩
  · have he : w.crossing x = { s.crossing x with mode := 2 } := by
      rw [hx x, if_pos (List.mem_range.2 hlt), hvx]
      exact if_neg (by rw [hin, hm]; exact fun h => h.elim nofun fun h => h rfl)
    refine ⟨he, fun hle => hf x hle (by rw [hvx]; exact hm) ?_⟩
    rw [he]
    exact (by decide : (2 : BitVec 2) ≠ 1)
  · change w.crossing x = _
    rw [hx x, hvx]
    split
    · exact if_pos hn
    · rfl
  · refine (hwr q).trans ((b3 q hq).trans ?_)
    unfold Region.stopNow
    split
    · rfl
    · rfl
  · refine (hwr q).trans ((b4 q hq).trans (if_neg ?_))
    rw [hr]
    exact nofun
  · exact (hwr q).trans ((b4 q hq).trans (if_pos hr))

end

/-! ### OSC_LOCKED (R347, R349, R350) -/

section
variable {s : State} {r : RegionNo} {mhz : BitVec 11} {a : Word64}

/-- The regions of a unit and the cores stopped with it run at the requested frequency (R349, R350). -/
def State.retuned (s : State) (r : RegionNo) (mhz : BitVec 11) : State :=
  (s.modRegions (unitOf r) fun g => { g with mhz := mhz, calDone := true }).modRegions (coresOf r) (Region.retuneInHalf mhz)

/-- A crossing in RECAL of the unit is calibrated. -/
def State.calibrateIn (s : State) (r : RegionNo) (p : Fin 120 × CalObs) : State :=
  if crossingIn r p.1.val = true ∧ (s.crossing p.1.val).mode = 2 then s.calibrate p.1 p.2 else s

theorem oscLocked_of (hc : (s.region r).change = some (mhz, a)) (hs : (s.region r).st = 2) (hd : (s.region r).calDone = false) (cals : List (Fin 120 × CalObs)) :
    exec (.oscLocked r cals) s = .next (cals.foldl (fun s p => s.calibrateIn r p) (s.retuned r mhz)) := by
  change execOscLocked r cals s = _
  unfold execOscLocked
  dsimp only
  rw [hc]
  dsimp only
  rw [if_neg (by rw [hs, hd]; rintro (h | h); exacts [h rfl, nomatch h])]
  rfl

theorem retuneInHalf_own (mhz : BitVec 11) {m : BitVec 11} {b : Word64} {g : Region} (hj : g.joined = true) (hc : g.change = some (m, b)) :
    g.retuneInHalf mhz = { g with mhz := m } := by
  cases g
  dsimp only at hj hc
  subst hj hc
  rfl

/-- What a retuned unit is. -/
theorem retuned_spec (s : State) (r : RegionNo) (mhz : BitVec 11) : regionsOnly s (s.retuned r mhz) ∧
    (∀ q, q ∉ unitOf r ++ coresOf r → (s.retuned r mhz).region q = s.region q) ∧
    (∀ q ∈ unitOf r, (s.retuned r mhz).region q = { s.region q with mhz := mhz, calDone := true }) ∧
    ∀ q ∈ coresOf r, ((s.region q).joined = false → (s.region q).inHalf ≠ 3 → (s.retuned r mhz).region q = s.region q) ∧
      (∀ m b, (s.region q).joined = true → (s.region q).change = some (m, b) → (s.retuned r mhz).region q = { s.region q with mhz := m }) ∧
      ((s.region q).joined = false → (s.region q).inHalf = 3 → (s.retuned r mhz).region q = { s.region q with mhz := mhz }) := by
  obtain ⟨b1, b2, b3, b4⟩ := modBoth_spec s r (fun g => { g with mhz := mhz, calDone := true }) (Region.retuneInHalf mhz)
  have hno (g : Region) (h : g.joined = false) : g.retuneInHalf mhz = if g.inHalf = 3 then { g with mhz := mhz } else g := by
    unfold Region.retuneInHalf
    rw [h]
  refine ⟨b1, b2, b3, fun q hq => ⟨fun hj hi => ?_, fun m b hj hc => ?_, fun hj hi => ?_⟩⟩
  · rw [← if_neg (t := { s.region q with mhz := mhz }) (e := s.region q) hi, ← hno _ hj]
    exact b4 q hq
  · exact (b4 q hq).trans (retuneInHalf_own mhz hj hc)
  · rw [← if_pos (t := { s.region q with mhz := mhz }) (e := s.region q) hi, ← hno _ hj]
    exact b4 q hq

theorem calibrateIn_still {p : Fin 120 × CalObs} (h : crossingIn r p.1.val = false ∨ (s.crossing p.1.val).mode ≠ 2) : s.calibrateIn r p = s := by
  refine if_neg fun ⟨h1, h2⟩ => ?_
  rcases h with h | h
  · exact nomatch h1.symm.trans h
  · exact h h2

theorem retuned_crossing (s : State) (r : RegionNo) (mhz : BitVec 11) (x : Nat) : (s.retuned r mhz).crossing x = s.crossing x := by
  obtain ⟨h, -⟩ := retuned_spec s r mhz
  unfold regionsOnly at h
  rw [h]
  rfl

theorem calGood_limit {x : Nat} {v : BitVec 4} (h : v.toNat ≤ crossingLimit x) : calGood x (some v) = true := decide_eq_true h

theorem calibrate_inCore {x : Fin 120} (hx : x.val < 80) {f b : BitVec 4} (hf : f.toNat ≤ crossingLimit x.val) (hb : b.toNat ≤ crossingLimit x.val) :
    s.calibrate x { fwd := some f, rev := some b } = s.setCrossing x.val { mode := 1, fwd := f, rev := b } := by
  unfold State.calibrate
  dsimp only
  rw [if_neg (by rw [calGood_limit hf]; exact nofun), if_neg (by rw [calGood_limit hb]; exact nofun)]
  exact if_pos hx

theorem calibrate_lintel {x : Fin 120} (hx : 80 ≤ x.val) {f b : BitVec 4} (hf : f ≤ 10) (hb : b ≤ 10) :
    s.calibrate x { fwd := some f, rev := some b } = (fun v : State => v.setLintel ((x.val - 80) / 4) { v.lintel ((x.val - 80) / 4) with
      mode := v.lintelMode ((x.val - 80) / 4), latFwd := v.lintelLat ((x.val - 80) / 4) (·.fwd), latRev := v.lintelLat ((x.val - 80) / 4) (·.rev) })
        (s.setCrossing x.val { mode := 1, fwd := f, rev := b }) := by
  have hl : crossingLimit x.val = 10 := by
    unfold crossingLimit
    rw [if_neg (by omega), if_neg (by omega)]
  have hf' : f.toNat ≤ crossingLimit x.val := by rw [hl]; exact hf
  have hb' : b.toNat ≤ crossingLimit x.val := by rw [hl]; exact hb
  unfold State.calibrate
  dsimp only
  rw [if_neg (by rw [calGood_limit hf']; exact nofun), if_neg (by rw [calGood_limit hb']; exact nofun)]
  exact if_neg (Nat.not_lt.2 hx)

/-- The latency of a lintel is at least that of each link in DET (R221). -/
theorem lintelLat_le (s : State) (k l : Nat) (f : Crossing → BitVec 4) (hl : l < 4) (hm : (s.crossing (80 + 4 * k + l)).mode = 1) :
    f (s.crossing (80 + 4 * k + l)) ≤ s.lintelLat k f := by
  unfold State.lintelLat
  have hmono (m : BitVec 4) (l : Nat) : m ≤ (if (s.crossing (80 + 4 * k + l)).mode = 1 ∧ m < f (s.crossing (80 + 4 * k + l)) then f (s.crossing (80 + 4 * k + l)) else m) := by
    split
    next h => exact BitVec.le_of_lt h.2
    next => exact BitVec.le_refl m
  refine foldl_reached (P := fun a b : BitVec 4 => a ≤ b) BitVec.le_refl (fun _ _ _ => BitVec.le_trans)
    (F := fun m l => if (s.crossing (80 + 4 * k + l)).mode = 1 ∧ m < f (s.crossing (80 + 4 * k + l)) then f (s.crossing (80 + 4 * k + l)) else m)
    hmono (Q := fun m => f (s.crossing (80 + 4 * k + l)) ≤ m) (fun _ _ h1 h2 => BitVec.le_trans h2 h1) (List.mem_range.2 hl) 0 fun u _ => ?_
  split
  next => exact BitVec.le_refl _
  next h => exact BitVec.not_lt.1 fun hlt => h ⟨hm, hlt⟩

/-- A lintel link calibrated within its limit (R221, R347). -/
theorem calibrate_lintel_spec {x : Fin 120} (hx : 80 ≤ x.val) {f b : BitVec 4} (hf : f ≤ 10) (hb : b ≤ 10) :
    let t := s.calibrate x { fwd := some f, rev := some b }
    let k := (x.val - 80) / 4
    t = { s with clk := { s.clk with crossings := t.clk.crossings }, fab := { s.fab with lintels := t.fab.lintels } } ∧
    t.crossing x.val = { mode := 1, fwd := f, rev := b } ∧ (∀ j, j ≠ x.val → t.crossing j = s.crossing j) ∧
    (t.lintel k).mode = t.lintelMode k ∧ f ≤ (t.lintel k).latFwd ∧ b ≤ (t.lintel k).latRev ∧ ∀ j, j ≠ k → t.lintel j = s.lintel j := by
  dsimp only
  rw [calibrate_lintel hx hf hb]
  have hxx : 80 + 4 * ((x.val - 80) / 4) + (x.val - 80) % 4 = x.val := by omega
  have hc := crossing_setCrossing_same s x.val { mode := 1, fwd := f, rev := b }
  have ho (j : Nat) (h : j ≠ x.val) := crossing_setCrossing_other s (k := x.val) { mode := 1, fwd := f, rev := b } h
  have hfr : s.setCrossing x.val { mode := 1, fwd := f, rev := b } =
    { s with clk := { s.clk with crossings := (s.setCrossing x.val { mode := 1, fwd := f, rev := b }).clk.crossings } } := rfl
  generalize s.setCrossing x.val { mode := 1, fwd := f, rev := b } = v at hc ho hfr ⊢
  have hl1 := lintelLat_le v ((x.val - 80) / 4) ((x.val - 80) % 4) (·.fwd) (Nat.mod_lt _ (by omega)) (by rw [hxx, hc])
  have hl2 := lintelLat_le v ((x.val - 80) / 4) ((x.val - 80) % 4) (·.rev) (Nat.mod_lt _ (by omega)) (by rw [hxx, hc])
  rw [hxx, hc] at hl1 hl2
  dsimp only
  have hvl (j : Nat) : v.lintel j = s.lintel j := by
    rw [hfr]
    rfl
  refine ⟨?_, hc, ho, ?_, ?_, ?_, fun j hj => (lintel_setLintel_other _ _ hj).trans (hvl j)⟩
  · generalize ({ v.lintel ((x.val - 80) / 4) with mode := v.lintelMode ((x.val - 80) / 4), latFwd := v.lintelLat ((x.val - 80) / 4) (·.fwd), latRev := v.lintelLat ((x.val - 80) / 4) (·.rev) } : Lintel) = L
    rw [hfr]
    rfl
  · rw [lintel_setLintel_same]
    rfl
  · rw [lintel_setLintel_same]
    exact hl1
  · rw [lintel_setLintel_same]
    exact hl2

end

/-! ### FREQ_CHANGE_RESTART (R349, R350, R362) -/

/-- What a walk does at one place, it does once. -/
theorem foldl_once {σ α β : Type} {F : σ → α → σ} {read : α → σ → β} (hother : ∀ s a b, b ≠ a → read b (F s a) = read b s)
    {L : List α} (hL : L.Nodup) {a : α} (ha : a ∈ L) (s : σ) : ∃ u, read a u = read a s ∧ read a (L.foldl F s) = read a (F u a) := by
  have hkeep (L : List α) (h : a ∉ L) (s : σ) : read a (L.foldl F s) = read a s := by
    induction L generalizing s with
    | nil => rfl
    | cons b L ih =>
      rw [List.mem_cons, not_or] at h
      exact (ih h.2 (F s b)).trans (hother s b a h.1)
  induction L generalizing s with
  | nil => exact nomatch ha
  | cons b L ih =>
    rw [List.nodup_cons] at hL
    rcases List.mem_cons.1 ha with rfl | hm
    · exact ⟨s, rfl, hkeep L hL.1 _⟩
    · obtain ⟨u, hu, h⟩ := ih hL.2 hm (F s b)
      exact ⟨u, hu.trans (hother s b a fun e => hL.1 (e ▸ hm)), h⟩

section
variable {s t u : State} {r q : RegionNo} {n : SiteNo}

/-- Only clock regions and domains differ. -/
def regionsDoms (s t : State) : Prop := t = { s with clk := { s.clk with regions := t.clk.regions }, pwr := { s.pwr with doms := t.pwr.doms } }

theorem regionsDoms_refl (s : State) : regionsDoms s s := rfl

theorem regionsDoms_trans (h : regionsDoms s t) (k : regionsDoms t u) : regionsDoms s u := by
  unfold regionsDoms at h k ⊢
  rw [k, h]

theorem regionsDoms_of (h : regionsOnly s t) : regionsDoms s t := by
  unfold regionsOnly at h
  unfold regionsDoms
  rw [h]

theorem setVolt_doms (s : State) (n : SiteNo) : regionsDoms s (s.setVolt n) ∧ (∀ q, (s.setVolt n).region q = s.region q) ∧
    (∀ d, d ≠ domOfSite n → (s.setVolt n).dom d = s.dom d) ∧
    ((s.site n).pwr ≠ .retain → (s.setVolt n).dom (domOfSite n) = { s.dom (domOfSite n) with mv := adequateMv (s.site n).op (s.region (regionOf n)).fastest }) := by
  unfold State.setVolt
  split
  next h => exact ⟨rfl, fun _ => rfl, fun _ _ => rfl, fun hn => absurd h hn⟩
  next h =>
    exact ⟨rfl, fun _ => rfl, fun d hd => State.dom_modDom_other s _ hd, fun _ => State.dom_modDom_same s (domOfSite n) fun d =>
      { d with mv := adequateMv (s.site n).op (s.region (regionOf n)).fastest }⟩

theorem nextChange_none (s : State) (r : RegionNo) : s.nextChange r none = s := rfl

theorem nextChange_core (s : State) (n : SiteNo) (l : Option (BitVec 11)) : onlyRegion (regionOf n) s (s.nextChange (regionOf n) l) := by
  cases l with
  | none => exact ⟨rfl, fun _ _ => rfl⟩
  | some m => exact (startChange_core s n m s.tb).1

/-- A core of a half that restarts as it was (R349). -/
def Region.asBefore (g : Region) : Region := { g with st := g.inHalf, inHalf := 0 }

/-- A core of a half that restarts, its own change carried out (R350). -/
def Region.changedToo (g : Region) : Region := { g with st := g.inHalf, inHalf := 0, joined := false, change := none, latched := none }

theorem restartCore_stays (h : (s.region (regionOf n)).st ≠ 2 ∨ (s.region (regionOf n)).inHalf = 0) : s.restartCore n = s := if_pos h

theorem restartCore_asBefore (h1 : (s.region (regionOf n)).st = 2) (h2 : (s.region (regionOf n)).inHalf ≠ 0) (hj : (s.region (regionOf n)).joined = false) :
    s.restartCore n = s.setRegion (regionOf n) (s.region (regionOf n)).asBefore := by
  unfold State.restartCore
  dsimp only
  refine (if_neg (not_or.2 ⟨not_not.2 h1, h2⟩)).trans (if_neg ?_)
  change ¬ (s.region (regionOf n)).joined = true
  rw [hj]
  exact nofun

theorem restartCore_joined (h1 : (s.region (regionOf n)).st = 2) (h2 : (s.region (regionOf n)).inHalf ≠ 0) (hj : (s.region (regionOf n)).joined = true) :
    s.restartCore n = ((s.setRegion (regionOf n) (s.region (regionOf n)).changedToo).setVolt n).nextChange (regionOf n) (s.region (regionOf n)).latched := by
  unfold State.restartCore
  dsimp only
  exact (if_neg (not_or.2 ⟨not_not.2 h1, h2⟩)).trans (if_pos hj)

/-- A core that restarts with its half changes its own region and domain. -/
theorem restartCore_frame (s : State) (n : SiteNo) : regionsDoms s (s.restartCore n) ∧ ∀ q, q ≠ regionOf n → (s.restartCore n).region q = s.region q := by
  by_cases h : (s.region (regionOf n)).st ≠ 2 ∨ (s.region (regionOf n)).inHalf = 0
  · rw [restartCore_stays h]
    exact ⟨rfl, fun _ _ => rfl⟩
  · rw [not_or, not_not] at h
    cases hj : (s.region (regionOf n)).joined with
    | false =>
      rw [restartCore_asBefore h.1 h.2 hj]
      exact ⟨rfl, fun q hq => State.region_setRegion_other s _ hq⟩
    | true =>
      rw [restartCore_joined h.1 h.2 hj]
      obtain ⟨v1, v2, -, -⟩ := setVolt_doms (s.setRegion (regionOf n) (s.region (regionOf n)).changedToo) n
      have hr : regionsDoms s (s.setRegion (regionOf n) (s.region (regionOf n)).changedToo) := rfl
      have ho (q : RegionNo) (hq : q ≠ regionOf n) := State.region_setRegion_other s (s.region (regionOf n)).changedToo hq
      generalize s.setRegion (regionOf n) (s.region (regionOf n)).changedToo = w at v1 v2 hr ho ⊢
      generalize w.setVolt n = x at v1 v2 ⊢
      obtain ⟨x1, x2⟩ := nextChange_core x n (s.region (regionOf n)).latched
      exact ⟨regionsDoms_trans hr (regionsDoms_trans v1 (regionsDoms_of x1)), fun q hq => (x2 q hq).trans ((v2 q).trans (ho q hq))⟩

/-- What becomes of a core's own region at the restart of its half. -/
def restartedAs (g h : Region) : Prop :=
  (g.st ≠ 2 ∨ g.inHalf = 0 → h = g) ∧ (g.st = 2 → g.inHalf ≠ 0 → g.joined = false → h = { g with st := g.inHalf, inHalf := 0 }) ∧
  (g.st = 2 → g.inHalf ≠ 0 → g.joined = true → g.latched = none → h = { g with st := g.inHalf, inHalf := 0, joined := false, change := none })

theorem restartCore_own (s : State) (n : SiteNo) : restartedAs (s.region (regionOf n)) ((s.restartCore n).region (regionOf n)) := by
  refine ⟨fun h => ?_, fun h1 h2 hj => ?_, fun h1 h2 hj hl => ?_⟩
  · rw [restartCore_stays h]
  · rw [restartCore_asBefore h1 h2 hj]
    exact State.region_setRegion_same s _ _
  · rw [restartCore_joined h1 h2 hj, hl]
    obtain ⟨-, v2, -, -⟩ := setVolt_doms (s.setRegion (regionOf n) (s.region (regionOf n)).changedToo) n
    refine (v2 (regionOf n)).trans ((State.region_setRegion_same s _ _).trans ?_)
    unfold Region.changedToo
    rw [← hl]

/-- The cores that stopped with a half restart with it. -/
def State.coresRestarted (s : State) (r : RegionNo) : State :=
  (List.finRange 40).foldl (fun s n => if (coresOf r).contains (regionOf n) then s.restartCore n else s) s

theorem restartIf_other (s : State) (r : RegionNo) {n : SiteNo} (h : q ≠ regionOf n) :
    (if (coresOf r).contains (regionOf n) then s.restartCore n else s).region q = s.region q := by
  split
  · exact (restartCore_frame s n).2 q h
  · rfl

theorem regionOf_injective {m n : SiteNo} (h : regionOf m = regionOf n) : m = n := Fin.ext (Fin.mk.inj h)

theorem coresRestarted_spec (s : State) (r : RegionNo) : regionsDoms s (s.coresRestarted r) ∧
    (∀ q, q ∉ coresOf r → (s.coresRestarted r).region q = s.region q) ∧
    ∀ q ∈ coresOf r, restartedAs (s.region q) ((s.coresRestarted r).region q) := by
  unfold State.coresRestarted
  refine ⟨?_, fun q hq => ?_, fun q hq => ?_⟩
  · refine foldl_related regionsDoms_refl (fun _ _ _ => regionsDoms_trans) (fun v n => ?_) _ s
    split
    · exact (restartCore_frame v n).1
    · rfl
  · refine foldl_keeps (fun v : State => v.region q) _ (fun v n => ?_) (List.finRange 40) s
    split
    next hc => exact (restartCore_frame v n).2 q fun e => hq (e ▸ List.contains_iff_mem.1 hc)
    next => rfl
  · obtain ⟨hlt, -⟩ := mem_coresOf hq
    obtain ⟨n, rfl⟩ : ∃ n, q = regionOf n := ⟨⟨q.val, hlt⟩, rfl⟩
    obtain ⟨u, hu, h⟩ := foldl_once (F := fun (s : State) n => if (coresOf r).contains (regionOf n) then s.restartCore n else s)
      (read := fun n (v : State) => v.region (regionOf n)) (fun v a b hb => restartIf_other v r fun e => hb (regionOf_injective e))
      (List.nodup_finRange 40) (List.mem_finRange n) s
    rw [if_pos (List.contains_iff_mem.2 hq)] at h
    have ho := restartCore_own u n
    rw [hu, ← h] at ho
    exact ho

/-- The clocks of a unit run again (R349). -/
def State.unitRestarted (s : State) (r : RegionNo) : State :=
  if h : r.val < 40 then s.restartOwn ⟨r.val, h⟩
  else (s.modRegions (unitOf r) fun g => { g with st := 1, change := none, latched := none, calDone := false }).coresRestarted r

theorem recalLeft_iff (s : State) (r : RegionNo) : s.recalLeft r = true ↔ ∃ x, x < 120 ∧ crossingIn r x = true ∧ (s.crossing x).mode = 2 := by
  unfold State.recalLeft
  rw [List.any_eq_true]
  simp only [List.mem_range, Bool.and_eq_true, decide_eq_true_eq]

theorem freqChangeRestart_waits (h : ∃ x, x < 120 ∧ crossingIn r x = true ∧ (s.crossing x).mode = 2) : exec (.freqChangeRestart r) s = .next s :=
  if_pos (.inr (.inr ((recalLeft_iff s r).2 h)))

theorem freqChangeRestart_of (hs : (s.region r).st = 2) (hd : (s.region r).calDone = true) (hl : (s.region r).latched = none)
    (h : ∀ x, x < 120 → crossingIn r x = true → (s.crossing x).mode ≠ 2) :
    exec (.freqChangeRestart r) s = .next (((s.unitRestarted r).servedAgain r).serveAll) := by
  have hn : ¬ ((s.region r).st ≠ 2 ∨ (s.region r).calDone = false ∨ s.recalLeft r = true) := by
    rw [hs, hd, recalLeft_iff]
    rintro (k | k | ⟨x, h1, h2, h3⟩)
    · exact k rfl
    · exact nomatch k
    · exact h x h1 h2 h3
  change execFreqChangeRestart r s = _
  unfold execFreqChangeRestart
  dsimp only
  rw [if_neg hn, hl, nextChange_none]
  rfl

theorem unitRestarted_field (hr : 40 ≤ r.val) : regionsDoms s (s.unitRestarted r) ∧ (∀ q, q ∉ unitOf r ++ coresOf r → (s.unitRestarted r).region q = s.region q) ∧
    (∀ q ∈ unitOf r, (s.unitRestarted r).region q = { s.region q with st := 1, change := none, latched := none, calDone := false }) ∧
    ∀ q ∈ coresOf r, restartedAs (s.region q) ((s.unitRestarted r).region q) := by
  have hu := modRegions_frame s (unitOf r) fun g => { g with st := 1, change := none, latched := none, calDone := false }
  have hq := region_modRegions (unitOf_nodup r) s fun g => { g with st := 1, change := none, latched := none, calDone := false }
  unfold State.unitRestarted
  rw [dif_neg (Nat.not_lt.2 hr)]
  generalize s.modRegions (unitOf r) (fun g => { g with st := 1, change := none, latched := none, calDone := false }) = v at hu hq ⊢
  obtain ⟨c1, c2, c3⟩ := coresRestarted_spec v r
  refine ⟨regionsDoms_trans (regionsDoms_of hu) c1, fun q hn => ?_, fun q hm => ?_, fun q hm => ?_⟩
  · rw [List.mem_append, not_or] at hn
    rw [c2 q hn.2, hq q, if_neg hn.1]
  · rw [c2 q (unit_not_cores hm), hq q, if_pos hm]
  · have h := c3 q hm
    rw [hq q, if_neg (cores_not_unit hm)] at h
    exact h

theorem unitRestarted_core (h : r.val < 40) :
    let n : SiteNo := ⟨r.val, h⟩
    let held := s.fieldStopped (fieldOfSite n)
    regionsDoms s (s.unitRestarted r) ∧ (∀ q, q ∉ unitOf r ++ coresOf r → (s.unitRestarted r).region q = s.region q) ∧
    (s.unitRestarted r).region r = { s.region r with st := if held then 2 else 1, inHalf := if held then 1 else 0, change := none, latched := none, calDone := false } ∧
    (∀ d, d ≠ domOfSite n → (s.unitRestarted r).dom d = s.dom d) ∧
    ((s.site n).pwr ≠ .retain → (s.unitRestarted r).dom (domOfSite n) = { s.dom (domOfSite n) with mv := adequateMv (s.site n).op (s.region r).mhz }) := by
  dsimp only
  unfold State.unitRestarted
  rw [dif_pos h]
  have he : s.restartOwn ⟨r.val, h⟩ = (s.setRegion r { s.region r with
      st := if s.fieldStopped (fieldOfSite ⟨r.val, h⟩) then 2 else 1, inHalf := if s.fieldStopped (fieldOfSite ⟨r.val, h⟩) then 1 else 0,
      change := none, latched := none, calDone := false }).setVolt ⟨r.val, h⟩ := rfl
  rw [he]
  generalize hg : ({ s.region r with
      st := if s.fieldStopped (fieldOfSite ⟨r.val, h⟩) then 2 else 1, inHalf := if s.fieldStopped (fieldOfSite ⟨r.val, h⟩) then 1 else 0,
      change := none, latched := none, calDone := false } : Region) = g
  have hfast : g.fastest = (s.region r).mhz := by
    rw [← hg]
    rfl
  obtain ⟨v1, v2, v3, v4⟩ := setVolt_doms (s.setRegion r g) ⟨r.val, h⟩
  have hr : regionsDoms s (s.setRegion r g) := rfl
  have hs := State.region_setRegion_same s r g
  have ho (q : RegionNo) (hq : q ≠ r) := State.region_setRegion_other s g hq
  have hd (d : DomainNo) : (s.setRegion r g).dom d = s.dom d := rfl
  have hsite : (s.setRegion r g).site ⟨r.val, h⟩ = s.site ⟨r.val, h⟩ := rfl
  generalize s.setRegion r g = w at v1 v2 v3 v4 hr hs ho hd hsite ⊢
  refine ⟨regionsDoms_trans hr v1, fun q hq => (v2 q).trans (ho q fun e => hq (List.mem_append_left _ (e ▸ self_mem_unitOf r))), (v2 r).trans hs,
    fun d hdd => (v3 d hdd).trans (hd d), fun hp => ?_⟩
  have hk : w.region (regionOf ⟨r.val, h⟩) = g := hs
  rw [v4 (by rw [hsite]; exact hp), hd, hsite, hk, hfast]

end

/-! ### CAL_TIMEOUT and OSC_FAIL (R347, R357) -/

section
variable {s t u : State} {r : RegionNo} {n : SiteNo} {x : Fin 120}

theorem calTimeout_of : exec (.calTimeout x) s = .next (if (s.crossing x.val).mode = 2 then s.calFail x false none else s) := rfl

/-- A crossing has failed its calibration (R347). -/
def State.crossingFailed (s : State) (x : Fin 120) : State :=
  ({ s with clk := { s.clk with calFails := satInc s.clk.calFails } } : State).setCrossing x.val { s.crossing x.val with mode := 3 }

theorem crossingFailed_spec (s : State) (x : Fin 120) :
    (∃ X, s.crossingFailed x = { s with clk := { s.clk with calFails := satInc s.clk.calFails, crossings := X } }) ∧
    (s.crossingFailed x).crossing x.val = { s.crossing x.val with mode := 3 } ∧ ∀ j, j ≠ x.val → (s.crossingFailed x).crossing j = s.crossing j :=
  ⟨⟨_, rfl⟩, crossing_setCrossing_same _ _ _, fun _ h => crossing_setCrossing_other ({ s with clk := { s.clk with calFails := satInc s.clk.calFails } } : State) _ h⟩

/-- A site is found bad: reported, no spare, and mapped out (R347, R357). -/
def State.foundBad (s : State) (n : SiteNo) (cls : BitVec 16) (d : Word32) : State :=
  ((s.report cls (some n) d 0).modSite n fun c => { c with bad := true, spare := false }).mapOut 0 n.val cls

theorem foundBad_spec (s : State) (n : SiteNo) (cls : BitVec 16) (d : Word32) : siteAndLog n s (s.foundBad n cls d) ∧ logged s (s.foundBad n cls d) cls ∧
    told s (s.foundBad n cls d) cls (some n) ∧ (s.foundBad n cls d).site n = { s.site n with bad := true, spare := false } := by
  obtain ⟨h1, h2⟩ := report_both (s := s) (u := s) rfl n cls d 0
  have hf : (s.report cls (some n) d 0) = { s with flt := (s.report cls (some n) d 0).flt, jrnl := (s.report cls (some n) d 0).jrnl } := rfl
  unfold State.foundBad
  generalize s.report cls (some n) d 0 = v at h1 h2 hf ⊢
  have hs : v.site n = s.site n := by
    rw [hf]
    rfl
  have hso (m : SiteNo) : v.site m = s.site m := by
    rw [hf]
    rfl
  have ws := State.site_modSite_same v n fun c => { c with bad := true, spare := false }
  have wo (m : SiteNo) (hm : m ≠ n) := State.site_modSite_other v (fun c => { c with bad := true, spare := false }) hm
  have wf : v.modSite n (fun c => { c with bad := true, spare := false }) = { v with sites := (v.modSite n fun c => { c with bad := true, spare := false }).sites } := rfl
  generalize v.modSite n (fun c => { c with bad := true, spare := false }) = w at ws wo wf ⊢
  have hm := mapOut_frame w 0 n.val cls
  generalize w.mapOut 0 n.val cls = y at hm ⊢
  have hyf : y.flt = v.flt := by rw [hm, wf]
  have hys (m : SiteNo) : y.site m = w.site m := by
    rw [hm]
    rfl
  refine ⟨⟨by rw [hm, wf, hf], fun m hn => (hys m).trans ((wo m hn).trans (hso m))⟩, ?_, ?_, (hys n).trans (by rw [ws, hs])⟩
  · unfold logged at h1 ⊢
    rw [hyf]
    exact h1
  · unfold told at h2 ⊢
    rw [hyf]
    exact h2

theorem calFail_inCore (hx : x.val < 80) (rev : Bool) (found : Option (BitVec 4)) :
    s.calFail x rev found = (s.crossingFailed x).foundBad ⟨x.val % 40, by omega⟩ 0x0403 (calDetail x.val rev found) := by
  unfold State.calFail
  exact dif_pos hx

/-- What the failed calibration of a core's crossing brings about (R347). -/
theorem calFail_core_spec (hx : x.val < 80) (rev : Bool) (found : Option (BitVec 4)) :
    let n : SiteNo := ⟨x.val % 40, by omega⟩
    let t := s.calFail x rev found
    t = { s with sites := t.sites, clk := { s.clk with calFails := satInc s.clk.calFails, crossings := t.clk.crossings }, flt := t.flt, jrnl := t.jrnl } ∧
    t.crossing x.val = { s.crossing x.val with mode := 3 } ∧ (∀ j, j ≠ x.val → t.crossing j = s.crossing j) ∧
    logged s t 0x0403 ∧ told s t 0x0403 (some n) ∧ t.site n = { s.site n with bad := true, spare := false } ∧ ∀ m, m ≠ n → t.site m = s.site m := by
  dsimp only
  rw [calFail_inCore hx]
  obtain ⟨⟨X, c1⟩, c2, c3⟩ := crossingFailed_spec s x
  generalize s.crossingFailed x = v at c1 c2 c3 ⊢
  obtain ⟨⟨h1, h1'⟩, h2, h3, h4⟩ := foundBad_spec v ⟨x.val % 40, by omega⟩ 0x0403 (calDetail x.val rev found)
  generalize v.foundBad ⟨x.val % 40, by omega⟩ 0x0403 (calDetail x.val rev found) = t at h1 h1' h2 h3 h4 ⊢
  have hvf : v.flt = s.flt := by rw [c1]
  have hvs (m : SiteNo) : v.site m = s.site m := by
    rw [c1]
    rfl
  have htx (j : Nat) : t.crossing j = v.crossing j := by
    rw [h1]
    rfl
  refine ⟨by rw [h1, c1], (htx _).trans c2, fun j hj => (htx j).trans (c3 j hj), ?_, ?_, h4.trans (by rw [hvs]), fun m hm => (h1' m hm).trans (hvs m)⟩
  · unfold logged at h2 ⊢
    rw [hvf] at h2
    exact h2
  · unfold told at h3 ⊢
    rw [hvf] at h3
    exact h3

/-- A lintel link is absent (R207, R347). -/
def State.linkAbsent (s : State) (k l : Nat) : State :=
  let v := s.setLintel k { s.lintel k with mode := s.lintelMode k, planeDown := (s.lintel k).planeDown ||| (3 : BitVec 8) <<< (2 * l) }
  { v with fab := { v.fab with tablesDue := true } }

theorem calFail_inLintel (hx : 80 ≤ x.val) (rev : Bool) (found : Option (BitVec 4)) :
    s.calFail x rev found = ((s.crossingFailed x).fault 0x0403 none (calDetail x.val rev found) 0).linkAbsent ((x.val - 80) / 4) ((x.val - 80) % 4) := by
  unfold State.calFail
  exact dif_neg (Nat.not_lt.2 hx)

/-- What the failed calibration of a lintel link brings about (R207, R347). -/
theorem calFail_lintel_spec (hx : 80 ≤ x.val) (rev : Bool) (found : Option (BitVec 4)) :
    let k := (x.val - 80) / 4
    let t := s.calFail x rev found
    t = { s with clk := { s.clk with calFails := satInc s.clk.calFails, crossings := t.clk.crossings }, fab := t.fab, flt := t.flt, jrnl := t.jrnl } ∧
    t.crossing x.val = { s.crossing x.val with mode := 3 } ∧ (∀ j, j ≠ x.val → t.crossing j = s.crossing j) ∧
    logged s t 0x0403 ∧ t.fab.tablesDue = true ∧
    t.lintel k = { s.lintel k with mode := t.lintelMode k, planeDown := (s.lintel k).planeDown ||| (3 : BitVec 8) <<< (2 * ((x.val - 80) % 4)) } ∧
    ∀ j, j ≠ k → t.lintel j = s.lintel j := by
  dsimp only
  rw [calFail_inLintel hx]
  obtain ⟨⟨X, c1⟩, c2, c3⟩ := crossingFailed_spec s x
  generalize s.crossingFailed x = v at c1 c2 c3 ⊢
  have hl := record_logged v (v.plainRec 0x0403 none (calDetail x.val rev found) 0)
  have hw : v.fault 0x0403 none (calDetail x.val rev found) 0 = { v with
    flt := (v.fault 0x0403 none (calDetail x.val rev found) 0).flt, jrnl := (v.fault 0x0403 none (calDetail x.val rev found) 0).jrnl } := rfl
  change logged v (v.fault 0x0403 none (calDetail x.val rev found) 0) 0x0403 at hl
  generalize v.fault 0x0403 none (calDetail x.val rev found) 0 = w at hl hw ⊢
  have hwx (j : Nat) : w.crossing j = v.crossing j := by
    rw [hw]
    rfl
  have hwl (j : Nat) : w.lintel j = s.lintel j := by
    rw [hw, c1]
    rfl
  have hvf : v.flt = s.flt := by rw [c1]
  generalize hk : (x.val - 80) / 4 = k
  generalize (x.val - 80) % 4 = l
  have hsame : (w.linkAbsent k l).lintel k = { w.lintel k with mode := w.lintelMode k, planeDown := (w.lintel k).planeDown ||| (3 : BitVec 8) <<< (2 * l) } :=
    lintel_setLintel_same w k _
  refine ⟨?_, (hwx _).trans c2, fun j hj => (hwx j).trans (c3 j hj), ?_, rfl, ?_, fun j hj => (lintel_setLintel_other w _ hj).trans (hwl j)⟩
  · unfold State.linkAbsent
    dsimp only
    generalize ({ w.lintel k with mode := w.lintelMode k, planeDown := (w.lintel k).planeDown ||| (3 : BitVec 8) <<< (2 * l) } : Lintel) = L
    rw [hw, c1]
    rfl
  · unfold logged at hl ⊢
    rw [hvf] at hl
    exact hl
  · rw [hsame, hwl]
    rfl

/-! ### A field goes dark (R215, R357) -/

theorem loseBufs_mesh (s : State) (f : Nat → Bool) : (s.loseBufs f).mesh = s.mesh := by
  unfold State.loseBufs
  dsimp only
  exact (State.mesh_foldl (f := State.losePacket) (fun _ _ => rfl) _ _).trans rfl

theorem answerDark_mesh (s : State) (f : FieldNo) : (s.answerDark f).mesh = s.mesh := by
  unfold State.answerDark
  dsimp only
  rw [State.mesh_foldl]
  · rfl
  · intro v e
    split
    · rfl
    · rfl
    · rfl
    · exact State.remoteReply_mesh _ _ _ _ _ _

theorem portsLost_mesh (s : State) (f : FieldNo) : (s.portsLost f).mesh = s.mesh := by
  unfold State.portsLost
  refine State.mesh_foldl (fun v p => ?_) _ s
  dsimp only
  split
  · rfl
  · rfl

theorem markMirrors_mesh (s : State) : s.markMirrors.mesh = s.mesh := by
  unfold State.markMirrors
  refine State.mesh_foldl (fun v n => ?_) _ s
  dsimp only
  split
  · rfl
  · rfl

theorem sitesLost_mesh (s : State) (f : FieldNo) : (s.sitesLost f).mesh = s.mesh := by
  unfold State.sitesLost
  refine State.mesh_foldl (fun v i => ?_) _ s
  exact rfl

theorem fieldMemoryLost_mesh (s : State) (f : FieldNo) (dark : Bool) : (s.fieldMemoryLost f dark).mesh = s.mesh := by
  unfold State.fieldMemoryLost
  split
  · rfl
  · dsimp only
    rw [markMirrors_mesh]
    have h := sitesLost_mesh { s with mem := { s.mem with lit := setBit s.mem.lit f.val false } } f
    generalize State.sitesLost { s with mem := { s.mem with lit := setBit s.mem.lit f.val false } } f = v at h ⊢
    split
    · exact h
    · exact h

theorem moveEdges_mesh (s : State) (l : LinkNo) : (s.moveEdges l).mesh = s.mesh := by
  have h := moveEdges_trees s l
  unfold onlyTrees at h
  generalize s.moveEdges l = t at h ⊢
  rw [h]
  rfl

theorem rampOver_mesh (s : State) (d : DomainNo) : (s.rampOver d).mesh = s.mesh := by
  have h := rampOver_frame s d
  unfold domsOnly at h
  generalize s.rampOver d = t at h ⊢
  rw [h]
  rfl

theorem failDomain_mesh (s : State) (n : SiteNo) (cause : BitVec 3) : (s.failDomain n cause).mesh = s.mesh := by
  unfold State.failDomain
  dsimp only
  split
  · rfl
  · split
    · rw [rampOver_mesh, State.switchOff_mesh]
      rfl
    · rw [State.switchOff_mesh]
      rfl

/-- A core site of a field that goes dark: its domain fails, its granary is lost, it is bad and mapped out. -/
def State.darkSite (s : State) (n : SiteNo) : State :=
  ((s.failDomain n 1).modSite n fun c => { c with gran := [], bad := true }).mapOut 0 n.val 0x0105

/-- The links of a dark field are lost, and the tree edges move off them (R215, R417). -/
def State.linksLost (s : State) (f : FieldNo) : State :=
  (linksOfField f).foldl State.moveEdges ((linksOfField f).foldl (fun s l => s.modLink l Link.lost) s)

/-- The fabric of a field that goes dark answers and loses what it held, and its bit is set (R215). -/
def State.routersLost (s : State) (f : FieldNo) : State :=
  let u := (s.answerDark f).loseBufs fun r => decide (fieldOfRtr ⟨r % 64, by omega⟩ = f)
  { u with fab := { u.fab with dark := setBit u.fab.dark f.val true, tablesDue := true }, coll := { u.coll with lit := setBit u.coll.lit f.val false } }

/-- A field that goes dark, but for its core sites. -/
def State.fieldCut (s : State) (f : FieldNo) : State :=
  let u := ((((s.routersLost f).portsLost f).report 0x0105 none (BitVec.ofNat 32 f.val) 0).fieldMemoryLost f true).linksLost f
  { u with fab := { u.fab with slots := u.fab.slots.filter fun k => decide (fieldOfRtr k.root ≠ f) } }

theorem fieldDark_of {f : FieldNo} (h : s.isDark f = false) : s.fieldDark f = (sitesOfField f).foldl State.darkSite (s.fieldCut f) := by
  unfold State.fieldDark
  rw [if_neg (ne_true_of_eq_false h)]
  rfl

theorem darkSite_mesh (s : State) (n : SiteNo) : (s.darkSite n).mesh = s.mesh := by
  unfold State.darkSite
  rw [State.mapOut_mesh, State.modSite_mesh, failDomain_mesh]

theorem linksLost_mesh (s : State) (f : FieldNo) : (s.linksLost f).mesh = s.mesh := by
  unfold State.linksLost
  rw [State.mesh_foldl moveEdges_mesh]
  exact State.mesh_foldl (f := fun (s : State) l => s.modLink l Link.lost) (fun _ _ => rfl) _ s

/-- A mesh with one field more dark, its tables due. -/
def withDark (m : Option Word64 × Bool × BitVec 8 × BitVec 8 × BitVec 16 × Bool) (f : FieldNo) :
    Option Word64 × Bool × BitVec 8 × BitVec 8 × BitVec 16 × Bool :=
  (m.1, m.2.1, setBit m.2.2.1 f.val true, m.2.2.2.1, m.2.2.2.2.1, true)

theorem routersLost_mesh (s : State) (f : FieldNo) : (s.routersLost f).mesh = withDark s.mesh f := by
  have h : ((s.answerDark f).loseBufs fun r => decide (fieldOfRtr ⟨r % 64, by omega⟩ = f)).mesh = s.mesh :=
    (loseBufs_mesh _ _).trans (answerDark_mesh s f)
  unfold State.routersLost
  generalize ((s.answerDark f).loseBufs fun r => decide (fieldOfRtr ⟨r % 64, by omega⟩ = f)) = u at h ⊢
  rw [← h]
  rfl

theorem fieldCut_mesh (s : State) (f : FieldNo) : (s.fieldCut f).mesh = withDark s.mesh f := by
  have h := linksLost_mesh ((((s.routersLost f).portsLost f).report 0x0105 none (BitVec.ofNat 32 f.val) 0).fieldMemoryLost f true) f
  rw [fieldMemoryLost_mesh, State.report_mesh, portsLost_mesh, routersLost_mesh] at h
  unfold State.fieldCut
  generalize ((((s.routersLost f).portsLost f).report 0x0105 none (BitVec.ofNat 32 f.val) 0).fieldMemoryLost f true).linksLost f = u at h ⊢
  exact h

theorem fieldDark_mesh {f : FieldNo} (h : s.isDark f = false) : (s.fieldDark f).mesh = withDark s.mesh f := by
  rw [fieldDark_of h, State.mesh_foldl darkSite_mesh, fieldCut_mesh]

theorem getLsbD_setBit_true (v : BitVec 8) (f k : FieldNo) : (setBit v f.val true).getLsbD k.val = (decide (k = f) || v.getLsbD k.val) := by
  unfold setBit
  rw [if_pos rfl, BitVec.getLsbD_or, BitVec.getLsbD_shiftLeft]
  have hk : k.val < 8 := k.isLt
  rcases Nat.lt_trichotomy k.val f.val with h | h | h
  · simp [h, Fin.ext_iff, Nat.ne_of_lt h]
  · simp [h, Fin.ext_iff]
  · simp [Fin.ext_iff, Nat.ne_of_gt h, Nat.sub_eq_zero_iff_le]
    omega

/-- A site is bad and its granary lost. -/
def granLost (s : State) (n : SiteNo) : Prop := (s.site n).bad = true ∧ (s.site n).gran = []

theorem failDomain_others (s : State) (cause : BitVec 3) {m : SiteNo} (h : m ≠ n) : (s.failDomain n cause).site m = s.site m := by
  unfold State.failDomain
  dsimp only
  split
  · rfl
  · rename_i hst
    have hu : (((s.report 0x0502 (some n) (BitVec.ofNat 32 (domOfSite n).val ||| fieldAt cause 6) 0).modDom (domOfSite n) fun v =>
      { v with st := .failed, mv := 0 }).modRegion ⟨n.val, by omega⟩ fun r => { r with st := 0, inHalf := 0, joined := false }).site m = s.site m := rfl
    generalize (((s.report 0x0502 (some n) (BitVec.ofNat 32 (domOfSite n).val ||| fieldAt cause 6) 0).modDom (domOfSite n) fun v =>
      { v with st := .failed, mv := 0 }).modRegion ⟨n.val, by omega⟩ fun r => { r with st := 0, inHalf := 0, joined := false }) = u at hu ⊢
    have hv := ((switchOff_frame u n).2 m h).trans hu
    generalize u.switchOff n = v at hv ⊢
    split
    · have hr := rampOver_frame v (domOfSite n)
      unfold domsOnly at hr
      generalize v.rampOver (domOfSite n) = w at hr ⊢
      rw [hr]
      exact hv
    · exact hv

theorem darkSite_lost (s : State) (n : SiteNo) : granLost (s.darkSite n) n := by
  unfold State.darkSite granLost
  generalize s.failDomain n 1 = u
  have hs := State.site_modSite_same u n fun c => { c with gran := [], bad := true }
  generalize (u.modSite n fun c => { c with gran := [], bad := true }) = v at hs ⊢
  have hm := mapOut_frame v 0 n.val 0x0105
  generalize v.mapOut 0 n.val 0x0105 = w at hm ⊢
  have hw : w.site n = v.site n := by
    rw [hm]
    rfl
  rw [hw, hs]
  exact ⟨rfl, rfl⟩

theorem darkSite_others (s : State) {m : SiteNo} (h : m ≠ n) : (s.darkSite n).site m = s.site m := by
  have hu := failDomain_others s 1 h
  unfold State.darkSite
  generalize s.failDomain n 1 = u at hu ⊢
  have hs := (State.site_modSite_other u (fun c => { c with gran := [], bad := true }) h).trans hu
  generalize (u.modSite n fun c => { c with gran := [], bad := true }) = v at hs ⊢
  have hm := mapOut_frame v 0 n.val 0x0105
  generalize v.mapOut 0 n.val 0x0105 = w at hm ⊢
  rw [hm]
  exact hs

theorem darkSite_keepsLost (s : State) (m : SiteNo) (h : granLost s n) : granLost (s.darkSite m) n := by
  by_cases e : n = m
  · rw [e]
    exact darkSite_lost s m
  · unfold granLost
    rw [darkSite_others s e]
    exact h

theorem fieldDark_sites {f : FieldNo} (h : s.isDark f = false) (hn : n ∈ sitesOfField f) : granLost (s.fieldDark f) n := by
  rw [fieldDark_of h]
  generalize s.fieldCut f = u
  exact foldl_reached (P := fun s t => granLost s n → granLost t n) (fun _ h => h) (fun _ _ _ h k x => k (h x))
    (fun s a => darkSite_keepsLost s a) (Q := fun s => granLost s n) (fun _ _ h k => h k) hn u fun v _ => darkSite_lost v n

theorem oscFail_field {lock : Bool} (h : 40 ≤ r.val) : exec (.oscFail r lock) s =
    .next ((s.fault 0x0404 none (BitVec.ofNat 32 r.val ||| bitAt lock 6) 0).fieldDark ⟨r.val - 40, by omega⟩) := dif_neg (Nat.not_lt.2 h)

theorem oscFail_core {lock : Bool} (h : r.val < 40) : exec (.oscFail r lock) s =
    .next (s.foundBad ⟨r.val, h⟩ 0x0404 (BitVec.ofNat 32 r.val ||| bitAt lock 6)) := dif_pos h

theorem mesh_dark (s : State) : s.mesh.2.2.1 = s.fab.dark := (rfl)

theorem mesh_tablesDue (s : State) : s.mesh.2.2.2.2.2 = s.fab.tablesDue := (rfl)

theorem fieldDark_dark {f : FieldNo} (h : s.isDark f = false) (k : FieldNo) :
    ((s.fieldDark f).isDark k = true ↔ k = f ∨ s.isDark k = true) ∧ (s.fieldDark f).fab.tablesDue = true := by
  have hm := fieldDark_mesh h
  generalize s.fieldDark f = t at hm ⊢
  have hd : t.fab.dark = setBit s.fab.dark f.val true := by
    rw [← mesh_dark, hm]
    rfl
  refine ⟨?_, ?_⟩
  · unfold State.isDark
    rw [hd, getLsbD_setBit_true, Bool.or_eq_true, decide_eq_true_iff]
  · rw [← mesh_tablesDue, hm]
    rfl

end

/-! ### The time base (R355, R356) -/

section
variable {s u : State} {ts arr tm : Word64} {pm : Bool}

/-- The link whose epochs carry the parent's time. -/
def State.timingLink (s : State) : LinkNo := ⟨s.clk.parentLink.toNat % 96, by omega⟩

/-- The offset that an epoch of the timing parent shows: its arrival less its time stamp less the cable delay. -/
def State.tbOff (s : State) (ts arr : Word64) : Int := (arr - ts - (s.link s.timingLink).cableNs.setWidth 64).toInt

theorem tbOffset_exact {d : Int} (h : -32767 ≤ d) (k : d ≤ 32767) : (tbOffset d).toInt = d := by
  unfold tbOffset
  rw [if_neg (Int.not_lt.2 k), if_neg (Int.not_lt.2 h), BitVec.toInt_ofInt]
  exact Int.bmod_eq_of_le (by omega) (by omega)

/-- The good updates in a row with one of offset d. -/
def goodAfter (good : Nat) (d : Int) : Nat := if d.natAbs ≤ 4 then good + 1 else 0

theorem goodAfter_of (good : Nat) (d : Int) : goodAfter good d = if -4 ≤ d ∧ d ≤ 4 then good + 1 else 0 := by
  unfold goodAfter
  exact ite_congr (propext ⟨fun h => by omega, fun h => by omega⟩) (fun _ => rfl) fun _ => rfl

/-- The time base takes an update of its parent (R355). -/
def State.tbTaken (s : State) (d : Int) : State :=
  let clk := { s.clk with
    offset := tbOffset d, good := goodAfter s.clk.good d, locked := s.clk.locked || decide (10 ≤ goodAfter s.clk.good d) }
  if s.clk.everReady then { s with clk := { clk with slew := -d, lastUpdate := s.tb } }
  else { s with tb := s.tb - BitVec.ofInt 64 d, clk := { clk with lastUpdate := s.tb - BitVec.ofInt 64 d } }

theorem tbUpdate_of (he : (s.at tm).clk.parentEn = true) (hu : (s.at tm).parentUp = true) : exec (.tbUpdate ts arr pm tm) s =
    if (s.at tm).clk.master then
      if pm ∧ (s.at tm).clk.conflict = false then
        .next { (s.at tm).fault 0x0406 none ((s.at tm).clk.parentLink.setWidth 32) (((s.at tm).link (s.at tm).timingLink).peerDev.setWidth 64) with
          clk := { (s.at tm).clk with conflict := true } }
      else .next (s.at tm)
    else .next ((s.at tm).tbTaken ((s.at tm).tbOff ts arr)) := by
  change (if _ then _ else _) = _
  rw [if_neg (not_or.2 ⟨ne_false_of_eq_true he, ne_false_of_eq_true hu⟩)]
  unfold State.tbTaken
  split
  · rfl
  · dsimp only
    split
    · rfl
    · rfl

theorem tbTaken_spec (s : State) (d : Int) : let t := s.tbTaken d
    t = { s with tb := t.tb, clk := { s.clk with offset := t.clk.offset, good := t.clk.good, locked := t.clk.locked, slew := t.clk.slew, lastUpdate := t.clk.lastUpdate } } ∧
    (-32767 ≤ d → d ≤ 32767 → t.clk.offset.toInt = d) ∧
    t.clk.good = (if -4 ≤ d ∧ d ≤ 4 then s.clk.good + 1 else 0) ∧
    t.clk.locked = (s.clk.locked || decide (10 ≤ t.clk.good)) ∧ t.clk.lastUpdate = t.tb ∧
    (s.clk.everReady = true → t.tb = s.tb ∧ t.clk.slew = -d) ∧
    (s.clk.everReady = false → t.tb = s.tb - BitVec.ofInt 64 d ∧ t.clk.slew = s.clk.slew) := by
  dsimp only
  rw [← goodAfter_of]
  unfold State.tbTaken
  by_cases h : s.clk.everReady = true
  · dsimp only
    rw [if_pos h]
    exact ⟨rfl, tbOffset_exact, rfl, rfl, rfl, fun _ => ⟨rfl, rfl⟩, fun k => absurd h (ne_true_of_eq_false k)⟩
  · dsimp only
    rw [if_neg h]
    exact ⟨rfl, tbOffset_exact, rfl, rfl, rfl, fun k => absurd k h, fun _ => ⟨rfl, rfl⟩⟩

/-- A record that the update of the time base leaves. -/
theorem fault_then_clk (s : State) (cls : BitVec 16) (d : Word32) (a : Word64) (c : Clocks) :
    logged s { s.fault cls none d a with clk := c } cls ∧
    { s.fault cls none d a with clk := c } = { s with clk := c, flt := (s.fault cls none d a).flt, jrnl := (s.fault cls none d a).jrnl } :=
  ⟨record_logged s (s.plainRec cls none d a), rfl⟩

theorem at_tb (s : State) (t : Word64) : s.at t = { s with tb := (s.at t).tb } := by
  obtain ⟨x, hx⟩ := at_is s t
  rw [hx]

theorem tbUpdate_spec (s : State) (ts arr tm : Word64) (pm : Bool) :
    let u := s.at tm
    let l : LinkNo := ⟨s.clk.parentLink.toNat % 96, by omega⟩
    let d : Int := (arr - ts - (s.link l).cableNs.setWidth 64).toInt
    s.clk.parentEn = true → s.parentUp = true →
    (s.clk.master = false → completes (.tbUpdate ts arr pm tm) s fun t =>
      t = { u with tb := t.tb, clk := { u.clk with offset := t.clk.offset, good := t.clk.good, locked := t.clk.locked, slew := t.clk.slew, lastUpdate := t.clk.lastUpdate } } ∧
      (-32767 ≤ d → d ≤ 32767 → t.clk.offset.toInt = d) ∧
      t.clk.good = (if -4 ≤ d ∧ d ≤ 4 then s.clk.good + 1 else 0) ∧
      t.clk.locked = (s.clk.locked || decide (10 ≤ t.clk.good)) ∧ t.clk.lastUpdate = t.tb ∧
      (s.clk.everReady = true → t.tb = u.tb ∧ t.clk.slew = -d) ∧
      (s.clk.everReady = false → t.tb = u.tb - BitVec.ofInt 64 d ∧ t.clk.slew = s.clk.slew)) ∧
    (s.clk.master = true → pm = true → s.clk.conflict = false → completes (.tbUpdate ts arr pm tm) s fun t =>
      t = { u with clk := { u.clk with conflict := true }, flt := t.flt, jrnl := t.jrnl } ∧ logged u t 0x0406) ∧
    (s.clk.master = true → s.clk.conflict = true → completes (.tbUpdate ts arr pm tm) s (· = u)) := by
  dsimp only
  intro he hup
  have hat := at_tb s tm
  have hc : (s.at tm).clk = s.clk := by rw [hat]
  have hpu : (s.at tm).parentUp = s.parentUp := by
    rw [hat]
    rfl
  have hlk : (s.at tm).tbOff ts arr = s.tbOff ts arr := by
    rw [hat]
    rfl
  have hof := tbUpdate_of (s := s) (ts := ts) (arr := arr) (tm := tm) (pm := pm) (hc ▸ he) (hpu.trans hup)
  rw [hlk] at hof
  change (_ → completes _ _ fun t => _ ∧ (-32767 ≤ s.tbOff ts arr → s.tbOff ts arr ≤ 32767 → _ = s.tbOff ts arr) ∧
    (_ = if -4 ≤ s.tbOff ts arr ∧ s.tbOff ts arr ≤ 4 then _ else _) ∧ _ ∧ _ ∧ (_ → _ ∧ _ = -s.tbOff ts arr) ∧
    (_ → _ = _ - BitVec.ofInt 64 (s.tbOff ts arr) ∧ _)) ∧ _
  rw [← hc]
  generalize s.tbOff ts arr = d at hof ⊢
  generalize s.at tm = u at hof ⊢
  unfold completes
  rw [hof]
  refine ⟨fun hm => ⟨_, if_neg (ne_true_of_eq_false hm), tbTaken_spec u d⟩, fun hm hp hcf => ⟨_, (if_pos hm).trans (if_pos ⟨hp, hcf⟩), ?_⟩,
    fun hm hcf => ⟨_, (if_pos hm).trans (if_neg fun h => absurd h.2 (ne_false_of_eq_true hcf)), rfl⟩⟩
  obtain ⟨h1, h2⟩ := fault_then_clk u 0x0406 (u.clk.parentLink.setWidth 32) ((u.link u.timingLink).peerDev.setWidth 64) { u.clk with conflict := true }
  exact ⟨h2, h1⟩

theorem tbUnlock_spec (s : State) (tm : Word64) (hl : s.clk.locked = true) :
    let u := s.at tm
    (windowOver s.clk.lastUpdate 1000000 u.tb = true → completes (.tbUnlock tm) s fun t =>
      t = { u with clk := { u.clk with locked := false, good := 0 }, flt := t.flt, jrnl := t.jrnl } ∧ logged u t 0x0405) ∧
    (windowOver s.clk.lastUpdate 1000000 u.tb = false → completes (.tbUnlock tm) s (· = u)) := by
  dsimp only
  have hat := at_tb s tm
  have hc : (s.at tm).clk = s.clk := by rw [hat]
  have hof : exec (.tbUnlock tm) s = if (s.at tm).clk.locked ∧ windowOver (s.at tm).clk.lastUpdate 1000000 (s.at tm).tb then
      .next (({ s.at tm with clk := { (s.at tm).clk with locked := false, good := 0 } } : State).fault 0x0405 none
        ((s.at tm).clk.parentLink.setWidth 32) 0) else .next (s.at tm) := rfl
  rw [← hc] at hl ⊢
  generalize s.at tm = u at hl hof ⊢
  unfold completes
  rw [hof]
  refine ⟨fun hw => ⟨_, if_pos ⟨hl, hw⟩, rfl, ?_⟩, fun hw => ⟨_, if_neg fun h => absurd h.2 (ne_true_of_eq_false hw), rfl⟩⟩
  exact record_logged ({ u with clk := { u.clk with locked := false, good := 0 } } : State) _

end

/-! ### The unit's change, its oscillator and its restart -/

section
variable {s t u : State} {r : RegionNo} {mhz : BitVec 11} {a : Word64}

/-- The time goes on and the regions of a unit change, no other. -/
theorem modUnit_spec (s : State) (r : RegionNo) (tm : Word64) (f : Region → Region) :
    let t := (s.at tm).modRegions (unitOf r) f
    (t = { s.at tm with clk := { (s.at tm).clk with regions := t.clk.regions } } ∧ ∀ q, q ∉ unitOf r → t.region q = s.region q) ∧
      ∀ q ∈ unitOf r, t.region q = f (s.region q) := by
  have hr (q : RegionNo) : (s.at tm).region q = s.region q := by
    rw [at_tb s tm]
    rfl
  refine ⟨⟨modRegions_frame (s.at tm) (unitOf r) f, fun q hq => ?_⟩, fun q hq => ?_⟩
  · rw [region_modRegions (unitOf_nodup r), if_neg hq, hr]
  · rw [region_modRegions (unitOf_nodup r), if_pos hq, hr]

theorem freqAllowed_at {tm : Word64} : freqAllowed (s.at tm) r mhz ↔ freqAllowed s r mhz := by
  rw [at_tb s tm]
  exact Iff.rfl

/-- What FREQ_CHANGE_START brings about (R349, R350). -/
theorem freqChangeStart_spec (s : State) (r : RegionNo) (mhz : BitVec 11) (tm : Word64) :
    let u := s.at tm
    let fr (t : State) : Prop := t = { u with clk := { u.clk with regions := t.clk.regions } } ∧
      ∀ q, q ∉ unitOf r → t.region q = s.region q
    (freqAllowed s r mhz → (s.region r).change = none → (s.region r).mhz ≠ mhz → (s.region r).st ≠ 0 →
      completes (.freqChangeStart r mhz tm) s fun t => fr t ∧
        ∀ q ∈ unitOf r, t.region q = { s.region q with change := some (mhz, u.tb), calDone := false }) ∧
    (∀ m a, freqAllowed s r mhz → (s.region r).change = some (m, a) → m ≠ mhz →
      completes (.freqChangeStart r mhz tm) s fun t => fr t ∧
        ∀ q ∈ unitOf r, t.region q = { s.region q with latched := some mhz }) ∧
    (¬ freqAllowed s r mhz → completes (.freqChangeStart r mhz tm) s (· = u)) := by
  have hr : (s.at tm).region r = s.region r := by
    rw [at_tb s tm]
    rfl
  refine ⟨fun ha hc hm hs => ?_, fun m b ha hc hm => ?_, fun ha => ⟨_, freqChangeStart_never (freqAllowed_at.not.2 ha), rfl⟩⟩
  · rw [← hr] at hc hm hs
    refine ⟨_, freqChangeStart_of (freqAllowed_at.2 ha), ?_⟩
    rw [startChange_starts hc hm hs]
    exact modUnit_spec s r tm fun g => { g with change := some (mhz, (s.at tm).tb), calDone := false }
  · rw [← hr] at hc
    refine ⟨_, freqChangeStart_of (freqAllowed_at.2 ha), ?_⟩
    rw [startChange_latches hc hm]
    exact modUnit_spec s r tm fun g => { g with latched := some mhz }

/-- OSC_LOCKED with no calibration, or with one that no crossing of the unit in RECAL takes (R349). -/
theorem oscLocked_retunes (hc : (s.region r).change = some (mhz, a)) (hs : (s.region r).st = 2) (hd : (s.region r).calDone = false) {L : List (Fin 120 × CalObs)}
    (hL : ∀ p ∈ L, crossingIn r p.1.val = false ∨ (s.crossing p.1.val).mode ≠ 2) : exec (.oscLocked r L) s = .next (s.retuned r mhz) := by
  rw [oscLocked_of hc hs hd, foldl_still L fun p hp => calibrateIn_still (by rw [retuned_crossing]; exact hL p hp)]

/-- The frame of a retuned unit. -/
theorem retuned_frame (s : State) (r : RegionNo) (mhz : BitVec 11) :
    (s.retuned r mhz = { s with clk := { s.clk with regions := (s.retuned r mhz).clk.regions, changes := (s.retuned r mhz).clk.changes } } ∧
      ∀ q, q ∉ unitOf r ++ coresOf r → (s.retuned r mhz).region q = s.region q) ∧ (s.retuned r mhz).clk.changes = s.clk.changes := by
  obtain ⟨h1, h2, -⟩ := retuned_spec s r mhz
  generalize s.retuned r mhz = t at h1 h2 ⊢
  unfold regionsOnly at h1
  have hch : t.clk.changes = s.clk.changes := by rw [h1]
  refine ⟨⟨?_, h2⟩, hch⟩
  rw [hch]
  exact h1

/-- OSC_LOCKED that calibrates one crossing of the unit in RECAL. -/
theorem oscLocked_calibrates (hc : (s.region r).change = some (mhz, a)) (hs : (s.region r).st = 2) (hd : (s.region r).calDone = false) {x : Fin 120} {o : CalObs}
    (hx : crossingIn r x.val = true) (hm : (s.crossing x.val).mode = 2) : exec (.oscLocked r [(x, o)]) s = .next ((s.retuned r mhz).calibrate x o) := by
  rw [oscLocked_of hc hs hd]
  exact congrArg _ (if_pos ⟨hx, by rw [retuned_crossing]; exact hm⟩)

theorem retuned_calibrated_core {x : Fin 120} (hx : x.val < 80) {f b : BitVec 4} (hf : f.toNat ≤ crossingLimit x.val) (hb : b.toNat ≤ crossingLimit x.val) :
    let t := (s.retuned r mhz).calibrate x { fwd := some f, rev := some b }
    t = { s with clk := { s.clk with regions := t.clk.regions, crossings := t.clk.crossings } } ∧
    t.crossing x.val = { mode := 1, fwd := f, rev := b } ∧ (∀ k, k ≠ x.val → t.crossing k = s.crossing k) ∧
    ∀ q ∈ unitOf r, t.region q = { s.region q with mhz := mhz, calDone := true } := by
  dsimp only
  obtain ⟨h1, -, h3, -⟩ := retuned_spec s r mhz
  have hk := retuned_crossing s r mhz
  generalize s.retuned r mhz = v at h1 h3 hk ⊢
  rw [calibrate_inCore hx hf hb]
  unfold regionsOnly at h1
  refine ⟨?_, crossing_setCrossing_same v x.val _, fun k hn => (crossing_setCrossing_other v _ hn).trans (hk k), fun q hq => h3 q hq⟩
  have hw : v.setCrossing x.val { mode := 1, fwd := f, rev := b } =
    { v with clk := { v.clk with crossings := (v.setCrossing x.val { mode := 1, fwd := f, rev := b }).clk.crossings } } := rfl
  generalize v.setCrossing x.val { mode := 1, fwd := f, rev := b } = w at hw ⊢
  rw [hw, h1]

theorem retuned_calibrated_lintel {x : Fin 120} (hx : 80 ≤ x.val) {f b : BitVec 4} (hf : f ≤ 10) (hb : b ≤ 10) :
    let t := (s.retuned r mhz).calibrate x { fwd := some f, rev := some b }
    let k := (x.val - 80) / 4
    t = { s with clk := { s.clk with regions := t.clk.regions, crossings := t.clk.crossings }, fab := { s.fab with lintels := t.fab.lintels } } ∧
    t.crossing x.val = { mode := 1, fwd := f, rev := b } ∧ (∀ j, j ≠ x.val → t.crossing j = s.crossing j) ∧
    (t.lintel k).mode = t.lintelMode k ∧ f ≤ (t.lintel k).latFwd ∧ b ≤ (t.lintel k).latRev ∧ ∀ j, j ≠ k → t.lintel j = s.lintel j := by
  dsimp only
  obtain ⟨h1, -, -, -⟩ := retuned_spec s r mhz
  have hk := retuned_crossing s r mhz
  generalize s.retuned r mhz = v at h1 hk ⊢
  unfold regionsOnly at h1
  have hl (j : Nat) : v.lintel j = s.lintel j := by
    rw [h1]
    rfl
  obtain ⟨c1, c2, c3, c4, c5, c6, c7⟩ := calibrate_lintel_spec (s := v) hx hf hb
  generalize v.calibrate x { fwd := some f, rev := some b } = w at c1 c2 c3 c4 c5 c6 c7 ⊢
  refine ⟨?_, c2, fun j hj => (c3 j hj).trans (hk j), c4, c5, c6, fun j hj => (c7 j hj).trans (hl j)⟩
  rw [c1, h1]

/-- What FREQ_CHANGE_RESTART of a calibrated unit brings about (R349, R350). -/
theorem unitRestarted_spec (s : State) (r : RegionNo) : let u := s.unitRestarted r
    u = { s with clk := { s.clk with regions := u.clk.regions }, pwr := { s.pwr with doms := u.pwr.doms } } ∧
    (∀ q, q ∉ unitOf r ++ coresOf r → u.region q = s.region q) ∧
    (40 ≤ r.val → (∀ q ∈ unitOf r, u.region q = { s.region q with st := 1, change := none, latched := none, calDone := false }) ∧
      ∀ q ∈ coresOf r, restartedAs (s.region q) (u.region q)) ∧
    ∀ h : r.val < 40,
      let n : SiteNo := ⟨r.val, h⟩
      let held := s.fieldStopped (fieldOfSite n)
      u.region r = { s.region r with st := if held then 2 else 1, inHalf := if held then 1 else 0, change := none, latched := none, calDone := false } ∧
      (∀ d, d ≠ domOfSite n → u.dom d = s.dom d) ∧
      ((s.site n).pwr ≠ .retain → u.dom (domOfSite n) = { s.dom (domOfSite n) with mv := adequateMv (s.site n).op (s.region r).mhz }) := by
  dsimp only
  by_cases h : r.val < 40
  · obtain ⟨c1, c2, c3, c4, c5⟩ := unitRestarted_core (s := s) h
    exact ⟨c1, c2, fun hr => absurd h (Nat.not_lt.2 hr), fun _ => ⟨c3, c4, c5⟩⟩
  · obtain ⟨f1, f2, f3, f4⟩ := unitRestarted_field (s := s) (Nat.not_lt.1 h)
    exact ⟨f1, f2, fun _ => ⟨f3, f4⟩, fun k => absurd k h⟩

/-- What OSC_FAIL brings about (R357). -/
theorem oscFail_spec (s : State) (r : RegionNo) (lock : Bool) :
    (∀ h : r.val < 40, completes (.oscFail r lock) s fun t => siteAndLog ⟨r.val, h⟩ s t ∧ logged s t 0x0404 ∧
      told s t 0x0404 (some ⟨r.val, h⟩) ∧
      t.site ⟨r.val, h⟩ = { s.site ⟨r.val, h⟩ with bad := true, spare := false }) ∧
    (∀ h : 40 ≤ r.val, s.isDark ⟨r.val - 40, by omega⟩ = false → completes (.oscFail r lock) s fun t =>
      (∀ f : FieldNo, t.isDark f = true ↔ f.val = r.val - 40 ∨ s.isDark f = true) ∧ t.fab.tablesDue = true ∧
      ∀ n ∈ sitesOfField ⟨r.val - 40, by omega⟩, (t.site n).bad = true ∧ (t.site n).gran = []) := by
  refine ⟨fun h => ⟨_, oscFail_core h, foundBad_spec s ⟨r.val, h⟩ 0x0404 _⟩, fun h hd => ⟨_, oscFail_field h, ?_⟩⟩
  have hv (k : FieldNo) : (s.fault 0x0404 none (BitVec.ofNat 32 r.val ||| bitAt lock 6) 0).isDark k = s.isDark k := rfl
  generalize s.fault 0x0404 none (BitVec.ofNat 32 r.val ||| bitAt lock 6) 0 = v at hv ⊢
  have hdv := (hv ⟨r.val - 40, by omega⟩).trans hd
  refine ⟨fun f => ?_, (fieldDark_dark hdv ⟨r.val - 40, by omega⟩).2, fun n hn => fieldDark_sites hdv hn⟩
  rw [(fieldDark_dark hdv f).1, hv, Fin.ext_iff]

end

/-- Settles O50, clause by clause from the rules of the unit's change, its calibration, its failures and the time base. -/
theorem frequencyChangesAndTimeBase : Obligations.FrequencyChangesAndTimeBase := by
  refine ⟨freqChangeStart_spec, fun s r => ⟨fun h1 h2 => clockStop_spec h1 h2, fun mhz a hc hs hd => ⟨?_, fun x o hx => ?_, fun x f b hx hr hm hf hb => ?_⟩,
    fun mhz a hc hs hd x f b hx hr hm hf hb => ⟨_, oscLocked_calibrates hc hs hd hr hm, retuned_calibrated_lintel hx hf hb⟩,
    fun hs hd hx => ⟨_, freqChangeRestart_waits hx, rfl⟩, fun hs hd hl hx => ?_⟩,
    fun s x => ⟨fun h => ⟨_, calTimeout_of, if_neg h⟩, fun h hx => ⟨_, calTimeout_of, ?_⟩, fun h hx => ⟨_, calTimeout_of, ?_⟩⟩,
    oscFail_spec, tbUpdate_spec, tbUnlock_spec⟩
  · obtain ⟨-, -, h3, h4⟩ := retuned_spec s r mhz
    obtain ⟨f1, f2⟩ := retuned_frame s r mhz
    exact ⟨_, oscLocked_retunes hc hs hd nofun, f1, f2, h3, h4⟩
  · refine ⟨_, oscLocked_retunes hc hs hd fun p hp => ?_, retuned_frame s r mhz⟩
    rw [List.mem_singleton.1 hp]
    exact hx
  · exact ⟨_, oscLocked_calibrates hc hs hd hr hm, retuned_calibrated_core hx hf hb⟩
  · exact ⟨_, freqChangeRestart_of hs hd hl hx, _, rfl, unitRestarted_spec s r⟩
  · rw [if_pos h]
    exact calFail_core_spec hx false none
  · rw [if_pos h]
    exact calFail_lintel_spec hx false none

end Sys2Proof.Machine
end
